-- ==== Sys2Proof/Word.lean ====
section
/-! DEFINITION. The plain words the block computes with: bytes, 32-bit and 64-bit words, and the one total
division of naturals into fields that every other file uses. Nothing here names a register. -/

namespace Sys2Proof

/-- A byte of scratchpad, tile, register or external memory. -/
abbrev Byte := BitVec 8
/-- A 32-bit word: an address register, a control register, one word of an instruction. -/
abbrev Word := BitVec 32
/-- A 64-bit word: a runner word, a product half, the time base. -/
abbrev DWord := BitVec 64
/-- A core's number in package space (R5): the C-die above the logical index. -/
abbrev CoreId := BitVec 13
/-- A module's number in the system. -/
abbrev ModuleId := BitVec 13

end Sys2Proof
end

