-- ==== Sys2Proof/Syntax.lean ====
section
/-! DEFINITION. The commands of the block, one constructor of `Instr` for each row of spec/opcode_table.json,
and the operand types they carry. No row of the table gives bits; a core instruction carries the fields of its
words (Table 3-4 and the chapters of the engines), a command of the management processor its decoded request, a
link message its header fields and data units, and a physical event what the hardware measured. An operand with
a default stands for what most commands of the row have: no error met, no access beside it, opcode 0 of NOP. -/

namespace Sys2Proof

/-- What the check of one scratchpad word shows, by offset ÷ 8: a read corrects it, or cannot (R203), or the check of the data
that is written there fails (R202). -/
inductive SpmFinding
  | corrected (word : BitVec 19) (bit : BitVec 7)
  | uncorrectable (word : BitVec 19)
  | badCheck (word : BitVec 19)
  deriving DecidableEq, Repr

/-- What the fabric meets with one flit (Table 10-5): nothing; a header check that fails at a router of a die, or at its die
switch; or words of the flit's data, counted from its first, that the destination port corrects or cannot correct. -/
inductive FlitFinding
  | intact
  | header (die : Fin 32) (pos : Option (Fin 272))
  | words (corrected lost : List (Fin 8))
  deriving DecidableEq, Repr

/-- What the check of one word of an engine's registers shows (R152, R194), by its place: a read corrects it, or cannot, the
check of the data that is written there fails, or the datapath lost the result for it. -/
inductive RegFinding
  | corrected (word : BitVec 20)
  | uncorrectable (word : BitVec 20)
  | badCheck (word : BitVec 20)
  | datapath (word : BitVec 20)
  deriving DecidableEq, Repr

/-- What the reads of one core's words for its record show (R395, R500). -/
structure CoreFindings where
  core : CoreId
  spm : List SpmFinding
  ve : List RegFinding
  me : List RegFinding
  deriving DecidableEq, Repr

/-- The thread that issues an instruction: the core's number and the thread's (R61), and what the scratchpad words that the
command reads and writes show. -/
structure Site where
  core : CoreId
  thread : Fin 4
  found : List SpmFinding
  deriving DecidableEq, Repr

/-- Fields of an SE or DE instruction's words other than its opcode (Tables 3-4 and 3-6). -/
structure SeWord where
  len : BitVec 2
  sz : BitVec 3
  mod : BitVec 2
  osd : BitVec 6
  osa : BitVec 6
  osb : BitVec 6
  /-- Words 1 and 2 as one field; the bits an instruction of that length has not are 0. -/
  ext : DWord
  deriving DecidableEq, Repr

/-- Fields of a VE instruction's words other than its opcode (chapter 5). -/
structure VeWord where
  len : BitVec 2
  ty : BitVec 4
  msk : BitVec 4
  vd : BitVec 5
  va : BitVec 5
  vb : BitVec 5
  /-- Word 1. -/
  ext : Word
  deriving DecidableEq, Repr

/-- Fields of an ME instruction's words other than its opcode (chapter 6). -/
structure MeWord where
  len : BitVec 2
  /-- Bits [22:0] of word 0. -/
  low : BitVec 23
  w1 : Word
  w2 : Word
  deriving DecidableEq, Repr

/-- The paths of the matrix engine along which instructions are in flight (R174). -/
inductive MePipe | move | array | gemv
  deriving DecidableEq, Repr

/-- The ports of one scratchpad bank that a request can wait at (Table 7-2). -/
inductive SpmPort | near | vector | feeder | drain | gemv | dma | inbound | scrub
  deriving DecidableEq, Repr

/-- What a scrub read found in one word of its row (R204). -/
inductive WordFinding
  | corrected (word : Fin 8) (bit : BitVec 7)
  | uncorrectable (word : Fin 8)
  deriving DecidableEq, Repr

/-- What a read of a die code cache's line found (R291). -/
inductive LineFinding | clean | corrected | uncorrectable
  deriving DecidableEq, Repr

/-- What one read of external memory found: words are counted from the one that holds its first byte (R277, R278). -/
inductive HbmFinding
  | clean
  | corrected (word : Fin 32) (bit : BitVec 7)
  | uncorrectable (word : Fin 32)
  deriving DecidableEq, Repr

/-- The four sides of a C-die (R312, R313). -/
inductive Side | north | south | east | west
  deriving DecidableEq, Repr

/-- What the far end asks of a lane's transmit filter in training (R319): nothing, another preset, or one step of 1/64 of full
swing on c−1 or c+1, up or down. -/
inductive TapAsk
  | none
  | preset (n : Fin 8)
  | step (post up : Bool)
  deriving DecidableEq, Repr

/-- What bring-up finds lost (R511): an E-die, a whole stack, or the die rail of a C-die. -/
inductive BootLoss
  | edie (e : Fin 8)
  | stack (k : Fin 16)
  | rail (d : Fin 32)
  deriving DecidableEq, Repr

/-- An access of the host to a register of BAR0 that has no row of its own (Table 15-4). -/
inductive HostAccess
  | mbdone (value : Word) | mbien (value : Word) | dberr (value : Word) | evrp (value : Word) | evctl (value : Word)
  | mgrxrp (value : Word)
  | read (off : BitVec 24)
  /-- A write of a word of a mailbox or of the MSI-X table. -/
  | write (off : BitVec 24) (value : Word)
  deriving DecidableEq, Repr

/-- One flit of a port: the header fields of Table 11-7, the second credit return of Table 11-6, and the units. -/
structure Flit where
  kind : BitVec 2
  seq : BitVec 12
  ack : BitVec 12
  ackv : Bool
  nak : Bool
  first : BitVec 4
  crp : BitVec 3
  crn : BitVec 13
  crp2 : BitVec 3
  crn2 : BitVec 13
  /-- The reserved bits [15:0] of the header and of the second credit return. -/
  resv : BitVec 16
  resv2 : BitVec 16
  units : List (BitVec 128)
  /-- Bytes 252 to 255 (R329). -/
  crc : Word
  deriving DecidableEq, Repr

/-- A message of the links: the header unit of Table 11-8 and the bytes of its data units. -/
structure LinkMsg where
  type : BitVec 4
  vc : BitVec 2
  dmod : ModuleId
  smod : ModuleId
  tag : BitVec 12
  pkg : Bool
  gv : Bool
  egen : BitVec 8
  rstate : BitVec 8
  subop : BitVec 3
  shp : Bool
  sport : BitVec 6
  aux : BitVec 8
  addr : BitVec 40
  data : List Byte
  deriving DecidableEq, Repr

/-- Where a message that is being forwarded came from (Table 12-3). -/
inductive Arrived
  | fromSource
  | localPort (port : Fin 48)
  | globalPort (port : Fin 48)
  deriving DecidableEq, Repr

/-- The least slack an island showed and its margin, as an ageing replan reads them (R436). -/
structure IslandSlack where
  island : Nat
  slackPs : Nat
  /-- The frequency of its ring oscillator, in MHz. -/
  ringMhz : Nat
  /-- In a sweep, the slack at each point of Table 14-3; one that is not given is the least. -/
  points : List Nat := []
  deriving DecidableEq, Repr

/-- Why a management processor declares the other lost (R442): 10 missing heartbeats, its report of a fatal self-check, or a journal
request that it does not acknowledge within 100 µs. -/
inductive MpLoss | heartbeats | selfCheck | journal
  deriving DecidableEq, Repr

/-- What a reset interrupts (R492, R513): the write into the SPI NOR of the newest persistent record, of the newest configuration
set, of the ledger entry of a package position or of an image slot (of MP-B or MP-A), the fuse writes of a life-cycle transition,
of which so many are done, or those of a commit, with the security version and the revocations that the next boot reads. -/
structure ResetCut where
  record : Bool := false
  config : Bool := false
  ledger : Option Nat := none
  slot : Option (Bool × Fin 2) := none
  fuses : Nat := 0
  commit : Option (Nat × BitVec 4) := none
  deriving DecidableEq, Repr

/-- The request a mailbox holds when its doorbell rings (Table 15-5). -/
structure MbRequest where
  mailbox : Fin 8
  ver : BitVec 8
  opc : BitVec 16
  rid : Word
  reqlen : BitVec 12
  job : BitVec 8
  tlim : BitVec 16
  payload : List Byte
  /-- Of a JOB_LOAD: the cores that its image in host memory names. -/
  cores : List CoreId := []
  deriving DecidableEq, Repr

/-- Who sent a command of the management processor (Table 15-2). -/
inductive Source
  | bmc
  | fm (k : Fin 2)
  | host (n : Fin 8)
  deriving DecidableEq, Repr

/-- One external window of a JOB_LOAD request (Table 15-13). -/
structure WindowReq where
  base : DWord
  limit : BitVec 40
  write : Bool
  host : Bool
  link : Bool
  deriving DecidableEq, Repr

/-- A JOB_LOAD request (Table 15-13), with the job image the MP reads from host memory (R477). -/
structure JobLoadReq where
  capture : Bool
  debug : Bool
  loadPhases : Bool
  ownmask : BitVec 8
  ncores : Word
  minspm : Word
  codesize : Word
  codebase : DWord
  wins : List WindowReq
  image : List Byte
  deriving DecidableEq, Repr

/-- What the partner named in a FLASK_BIND holds when the command looks (R382). -/
inductive PeerBind
  /-- The partner holds the matching arguments. -/
  | matching
  /-- It does not hold any yet. -/
  | waiting
  /-- It holds arguments that differ. -/
  | mismatched
  deriving DecidableEq, Repr

/-- One entry of a list of address ranges: its base and its limit. -/
structure Range where
  base : DWord
  limit : DWord
  deriving DecidableEq, Repr

/-- The declaration of a job's pour policy (R384, Table 15-12). -/
structure PourDecl where
  regions : List Range
  saveArea : Range
  coordinator : ModuleId
  reqWord : Word
  timeoutS : Word
  vectorMask : Word
  /-- Preserved scratchpad ranges: offset and length in bytes. -/
  spm : List (Word × Word)
  deriving DecidableEq, Repr

/-- The four ordering codes (R1, R4): the grade and the scratchpad digit. -/
inductive OrderingCode | s3 | s2 | a3 | a2
  deriving DecidableEq, Repr

/-- The port masks of one destination group in the routing table (Table 12-5). -/
structure RouteMasks where
  minLo : Word
  minHi : Word
  nmLo : Word
  nmHi : Word
  deriving DecidableEq, Repr

/-- The memory a row repair acts on (Table 15-12). -/
inductive RepairTarget | scratchpad | hbm
  deriving DecidableEq, Repr

/-- One entry of a repair ledger (R205, R280). -/
inductive RepairEntry
  | scratchpad (die : Fin 32) (prow : BitVec 5) (pcol : BitVec 4) (bank : BitVec 4) (row : BitVec 12)
  | hbm (stack : Fin 16) (pch : BitVec 6) (bank : BitVec 8) (row : BitVec 32)
  deriving DecidableEq, Repr

/-- One authorisation of a LIFECYCLE response (Table 16-9): the key slot, the public key and the signature. -/
structure Authorisation where
  keyslot : Word
  pubkey : BitVec 768
  signature : BitVec 768
  deriving DecidableEq, Repr

/-- A physical core position of a C-die (R303). -/
structure CorePos where
  die : Fin 32
  prow : BitVec 5
  pcol : BitVec 4
  deriving DecidableEq, Repr

/-- The commands, in the order of spec/opcode_table.json. -/
inductive Instr where
  | nop (a : Site) (w : SeWord) (opc : BitVec 7 := 0)
  | mov (a : Site) (w : SeWord)
  | add (a : Site) (w : SeWord)
  | sub (a : Site) (w : SeWord)
  | and_ (a : Site) (w : SeWord)
  | or_ (a : Site) (w : SeWord)
  | xor_ (a : Site) (w : SeWord)
  | shl (a : Site) (w : SeWord)
  | shr (a : Site) (w : SeWord)
  | min_ (a : Site) (w : SeWord)
  | max_ (a : Site) (w : SeWord)
  | zext (a : Site) (w : SeWord)
  | sext (a : Site) (w : SeWord)
  | slt (a : Site) (w : SeWord)
  | seq (a : Site) (w : SeWord)
  | clz (a : Site) (w : SeWord)
  | popc (a : Site) (w : SeWord)
  | mul (a : Site) (w : SeWord)
  | mulResultWrite (a : Site)
  | div (a : Site) (w : SeWord)
  | fsqrt (a : Site) (w : SeWord)
  | divResultWrite (core : BitVec 13)
  | fadd (a : Site) (w : SeWord)
  | fsub (a : Site) (w : SeWord)
  | fmul (a : Site) (w : SeWord)
  | fma (a : Site) (w : SeWord)
  | fmin (a : Site) (w : SeWord)
  | fmax (a : Site) (w : SeWord)
  | fcmp (a : Site) (w : SeWord)
  | fcvti (a : Site) (w : SeWord)
  | icvtf (a : Site) (w : SeWord)
  | fpResultWrite (a : Site)
  | jmp (a : Site) (w : SeWord)
  | b (a : Site) (w : SeWord)
  | bu (a : Site) (w : SeWord)
  | call (a : Site) (w : SeWord)
  | loop (a : Site) (w : SeWord)
  | lbreak (a : Site) (w : SeWord)
  | csrr (a : Site) (w : SeWord)
  | csrw (a : Site) (w : SeWord)
  | cycleLoRead (a : Site) (w : SeWord)
  | timeLoRead (a : Site) (w : SeWord)
  | ldepthWrite (a : Site) (w : SeWord)
  | ldAcq (a : Site) (hi : Bool) (w : SeWord)
  | stRel (a : Site) (hi : Bool) (w : SeWord)
  | fence (a : Site) (w : SeWord)
  | fenceComplete (a : Site)
  | etok (a : Site) (w : SeWord)
  | tokenMarkerPass (core : BitVec 13) (thread : Fin 4) (eng : BitVec 2)
  | ewait (a : Site) (w : SeWord)
  | waitMarkerRelease (core : BitVec 13) (thread : Fin 4) (eng : BitVec 2)
  | trackerEntryFree (core : BitVec 13) (idx : Nat)
  | xld (a : Site) (w : SeWord)
  | xldResponse (a : Site) (flit : FlitFinding := .intact)
  | xst (a : Site) (w : SeWord)
  | xstAck (core : BitVec 13) (id : Nat) (flit : FlitFinding := .intact)
  | remoteTimeout (core : BitVec 13) (id : Nat)
  | sld (a : Site) (w : SeWord)
  | sst (a : Site) (w : SeWord)
  | tagWaitComplete (core : BitVec 13) (seg : BitVec 16)
  | tagDataMove (core : BitVec 13) (seg : BitVec 16) (found : List SpmFinding := [])
  | tagTimeout (a : Site)
  | remoteTagArrival (target : BitVec 13) (source : BitVec 13) (flit : FlitFinding := .intact)
  | withdrawalArrival (target : BitVec 13) (source : BitVec 13) (flit : FlitFinding := .intact)
  | remoteTagResponse (a : Site) (flit : FlitFinding := .intact)
  | tagRetryResend (a : Site)
  | thset (a : Site) (w : SeWord)
  | thgo (a : Site) (w : SeWord)
  | thstop (a : Site) (w : SeWord)
  | thstopComplete (core : BitVec 13) (target : Fin 4)
  | thend (a : Site) (w : SeWord)
  | rsend (a : Site) (w : SeWord)
  | rsend4 (a : Site) (w : SeWord)
  | rrecv (a : Site) (w : SeWord)
  | runnerWaitComplete (core : BitVec 13) (runner : Fin 8) (recv : Bool) (found : List SpmFinding := [])
  | rnctlWrite (a : Site) (w : SeWord)
  | runnerFlush (a : Site) (w : SeWord)
  | setev (a : Site) (w : SeWord)
  | waitev (a : Site) (w : SeWord)
  | eventWaitComplete (core : BitVec 13) (ev : Fin 32)
  | clrev (a : Site) (w : SeWord)
  | evtmrCntWrite (a : Site) (w : SeWord)
  | eventTimerExpiry (core : BitVec 13)
  | allThreadsWaiting (core : BitVec 13)
  | eret (a : Site) (w : SeWord)
  | brk (a : Site) (w : SeWord)
  | impreciseExcDelivery (a : Site)
  | pour (a : Site) (w : SeWord)
  | coreArrive (core : BitVec 13)
  | cvctlWrite (a : Site) (w : SeWord)
  | cvseedWrite (a : Site) (w : SeWord)
  | cvrmaxRcRead (a : Site) (w : SeWord)
  | cvsatRead (a : Site) (w : SeWord)
  | icLineFill (core : BitVec 13) (line : BitVec 25) (dcc : LineFinding) (ext : HbmFinding := .clean) (flit : FlitFinding := .intact)
  | icParityError (core : BitVec 13) (line : BitVec 25) (dcc : LineFinding := .clean) (ext : HbmFinding := .clean) (flit : FlitFinding := .intact)
  | icErrWindow (core : BitVec 13)
  | dccTakeOffer (die : Fin 32)
  | vld (a : Site) (v : VeWord)
  | vst (a : Site) (v : VeWord)
  | vldsr (a : Site) (v : VeWord)
  | vstsr (a : Site) (v : VeWord)
  | vlds2 (a : Site) (v : VeWord)
  | vlds3 (a : Site) (v : VeWord)
  | vlds4 (a : Site) (v : VeWord)
  | vsts2 (a : Site) (v : VeWord)
  | vsts3 (a : Site) (v : VeWord)
  | vsts4 (a : Site) (v : VeWord)
  | vmld (a : Site) (v : VeWord)
  | vmst (a : Site) (v : VeWord)
  | vbcast (a : Site) (v : VeWord)
  | vext (a : Site) (v : VeWord)
  | vmovi (a : Site) (v : VeWord)
  | vadd (a : Site) (v : VeWord)
  | vsub (a : Site) (v : VeWord)
  | vmul (a : Site) (v : VeWord)
  | vfma (a : Site) (v : VeWord)
  | vmin (a : Site) (v : VeWord)
  | vmax (a : Site) (v : VeWord)
  | vbit (a : Site) (v : VeWord)
  | vcmp (a : Site) (v : VeWord)
  | vmerge (a : Site) (v : VeWord)
  | vslide (a : Site) (v : VeWord)
  | vred (a : Site) (v : VeWord)
  | vmop (a : Site) (v : VeWord)
  | vwmul (a : Site) (v : VeWord)
  | vdot (a : Site) (v : VeWord)
  | vcvt (a : Site) (v : VeWord)
  | vfdiv (a : Site) (v : VeWord)
  | vfsqrt (a : Site) (v : VeWord)
  | veInsnStart (core : BitVec 13)
  | veInsnComplete (core : BitVec 13) (found : List SpmFinding := []) (regs : List RegFinding := [])
  | veRetention (core : BitVec 13)
  | vgWakeWrite (a : Site) (w : SeWord)
  | veWakeComplete (core : BitVec 13)
  | tld (a : Site) (m : MeWord)
  | tst (a : Site) (m : MeWord)
  | tlds (a : Site) (m : MeWord)
  | tsts (a : Site) (m : MeWord)
  | tzero (a : Site) (m : MeWord)
  | trelease (a : Site) (m : MeWord)
  | tmma (a : Site) (m : MeWord)
  | tmmas (a : Site) (m : MeWord)
  | gmv (a : Site) (m : MeWord)
  | tcfgWrite (a : Site) (w : SeWord)
  | meInsnStart (core : BitVec 13)
  | meInsnComplete (core : BitVec 13) (pipe : MePipe) (found : List SpmFinding := []) (regs : List RegFinding := [])
  | arrayCold (core : BitVec 13)
  | tileBankRetention (core : BitVec 13) (tile : Fin 8) (bank : Fin 5)
  | denq (a : Site) (w : SeWord)
  | icinv (a : Site) (w : SeWord)
  | icinvComplete (core : BitVec 13)
  | icpf (a : Site) (w : SeWord)
  | icpfExecute (core : BitVec 13) (dcc : List LineFinding := []) (ext : List HbmFinding := []) (flit : List FlitFinding := [])
  | descriptorStart (core : BitVec 13) (q : Fin 4) (found : List SpmFinding := [])
  | descriptorChainRead (core : BitVec 13) (q : Fin 4) (found : List SpmFinding := [])
  | dmaGranuleResponse (core : BitVec 13) (q : Fin 4) (found : List SpmFinding) (ext : HbmFinding := .clean) (flit : FlitFinding := .intact)
  | descriptorComplete (core : BitVec 13) (q : Fin 4)
  | dmaSlotFill (core : BitVec 13) (q : Fin 4)
  | dqResume (a : Site) (w : SeWord)
  | dqFlush (a : Site) (w : SeWord)
  | remoteReadArrival (target : BitVec 13) (source : BitVec 13) (found : List SpmFinding := []) (flit : FlitFinding := .intact)
  | remoteWriteArrival (target : BitVec 13) (source : BitVec 13) (found : List SpmFinding := []) (flit : FlitFinding := .intact)
  | gateOpen (a : Site) (w : SeWord)
  | gateClose (a : Site) (w : SeWord)
  | gateCloseComplete (core : BitVec 13) (gate : Fin 16)
  | gateRegWrite (a : Site) (w : SeWord)
  | requestAged (core : BitVec 13) (bank : Fin 16) (port : SpmPort)
  | meRequestAged (core : BitVec 13) (bank : Fin 16)
  | scrubRead (core : BitVec 13) (bank : Fin 16) (found : List WordFinding)
  | scrubAged (core : BitVec 13) (bank : Fin 16)
  | spmCorrectedWriteback (core : BitVec 13) (bank : Fin 16)
  | gridCrossingEnter (fromE : Fin 8) (port : Fin 48) (vc : Fin 4)
  | bridgeReplay (die : Fin 32) (side : Side) (channel : Fin 16)
  | routerDead (die : Fin 32) (pos : Fin 272)
  | laneLossOfLock (port : Fin 48) (lane : Fin 8)
  | laneMarginal (port : Fin 48) (lane : Fin 8) (symbols : BitVec 16)
  | laneTrainingStep (port : Fin 48) (lane : Fin 8) (ok : Bool) (far : BitVec 8 := 0xFF) (tap : TapAsk := .none) (more : List TapAsk := [])
  | laneDetectRetry (port : Fin 48) (lane : Fin 8)
  | portTrainingDone (port : Fin 48) (far : BitVec 8)
  | portRetrain (port : Fin 48)
  | retrainTimeout (port : Fin 48)
  | txFlitSlot (port : Fin 48) (frac : BitVec 8 := 0)
  | flitReceive (port : Fin 48) (f : Flit) (first : List (Fin 528)) (second : List (Fin 528)) (nth : Fin 8 := 0)
  | replayTimeout (port : Fin 48)
  | nakResend (port : Fin 48)
  | heartbeat (port : Fin 48) (mod : BitVec 13) (peerPort : BitVec 6) (mstate : BitVec 4) (hbseq : BitVec 32)
  | heartbeatSend (port : Fin 48)
  | heartbeatMiss (port : Fin 48)
  | hbWordStale
  | widthReq (port : Fin 48) (lanes : BitVec 8) (forced : Bool)
  | widthReqRepeat (port : Fin 48)
  | realign (port : Fin 48) (lanes : BitVec 8) (nth : Fin 8 := 0)
  | switch (port : Fin 48) (lanes : BitVec 8) (remain : BitVec 8)
  | widthChangePoint (port : Fin 48)
  | write (port : Fin 48) (m : LinkMsg) (found : List SpmFinding := []) (ext : HbmFinding := .clean) (flits : List FlitFinding := [])
  | read (port : Fin 48) (m : LinkMsg) (found : List SpmFinding := []) (ext : HbmFinding := .clean) (flits : List FlitFinding := [])
  | atomic (port : Fin 48) (m : LinkMsg) (found : List SpmFinding := []) (ext : HbmFinding := .clean) (flits : List FlitFinding := [])
  | mirrorWrite (port : Fin 48) (m : LinkMsg)
  | reduceFwd (port : Fin 48) (m : LinkMsg) (found : List SpmFinding := []) (ext : HbmFinding := .clean)
  | mgmt (port : Fin 48) (m : LinkMsg) (room : Bool)
  | rdata (port : Fin 48) (m : LinkMsg) (flits : List FlitFinding := [])
  | done (port : Fin 48) (m : LinkMsg) (flits : List FlitFinding := [])
  | refused (port : Fin 48) (m : LinkMsg) (flits : List FlitFinding := [])
  | forwardMessage (edie : Fin 8) (arrived : Arrived) (m : LinkMsg) (flits : List FlitFinding := [])
  | requestTimeout (port : Fin 48) (tag : BitVec 12)
  | tagReuseExpiry (port : Fin 48) (tag : BitVec 12)
  | reductionRoundComplete (ctx : Fin 16) (line : BitVec 32) (found : List SpmFinding := []) (ext : HbmFinding := .clean)
  | roundTimeout (ctx : Fin 16) (line : BitVec 32)
  | rtGraceExpiry
  | swapAtTime
  | timeSyncExchange (port : Fin 48) (seq : BitVec 32)
  | sync (port : Fin 48) (t1 : BitVec 64) (t2 : BitVec 64) (t3 : BitVec 64) (seq : BitVec 32)
  | delayReq (port : Fin 48) (t4 : BitVec 64) (seq : BitVec 32)
  | delayResp (port : Fin 48) (t4 : BitVec 64) (seq : BitVec 32)
  | arrived (smod : BitVec 13) (n : BitVec 32)
  | save (n : BitVec 32) (cores : List CoreFindings := [])
  | pourBoundary
  | saved (smod : BitVec 13) (n : BitVec 32)
  | resume (n : BitVec 32)
  | tailComplete
  | ready (smod : BitVec 13) (n : BitVec 32)
  | commit (n : BitVec 32)
  | partnerCommit (n : BitVec 32)
  | abandon (n : BitVec 32)
  | pourBarrierTimeout
  | copyBeforeWrite (share : Nat) (ext : HbmFinding := .clean)
  | mirrorStreamShare (edie : Fin 8) (ext : HbmFinding := .clean)
  | pourOverdue (job : Fin 8)
  | selfFence
  | adoptionStream (share : Nat) (addr : BitVec 40) (ext : HbmFinding := .clean)
  | droopDetect (island : Fin 8768)
  | regulatorSample (vin : BitVec 16) (iin : BitVec 16) (watts : BitVec 16) (rails : List (BitVec 16))
  | activityEstimate (est : List (BitVec 16)) (dyn : List (BitVec 16)) (stat : List (BitVec 16)) (slacks : List IslandSlack := [])
  | innerLoop (d : Fin 32)
  | outerLoop (fixed : BitVec 16) (losses : BitVec 16 := 0)
  | estDiverge
  | calibrationEnd
  | telemStale
  | iccTrip
  | tripLift
  | tjSample (d : Fin 40) (tj : BitVec 8)
  | hbmTempReport (stack : Fin 16) (temp : BitVec 8)
  | freqGlideStep (d : Fin 32)
  | ageingReplan (sweep : Bool) (slack : List IslandSlack)
  | hbmPatrolScrub (stack : Fin 16) (addr : BitVec 40) (finding : HbmFinding)
  | pchFail (pch : BitVec 10)
  | mpHeartbeat (toA : Bool)
  | mpLost (byB : Bool) (cause : MpLoss := .heartbeats)
  | hbWordRefresh
  | mailboxDoorbell (hi : Fin 2) (ring : BitVec 8) (reqs : List MbRequest) (regs : List HostAccess := [])
  | resultRead (n : Fin 8)
  | mgmtTransmit (go : Bool) (buf : List Byte)
  | bar2Read (x : BitVec 36) (bytes : Nat) (ext : HbmFinding := .clean)
  | bar2Write (x : BitVec 36) (data : List Byte) (ext : HbmFinding := .clean)
  | b2baseWrite (value : BitVec 32)
  | mgmtRequest (smod : BitVec 13) (mb : Fin 2) (rid : BitVec 32) (frag : BitVec 8) (nfrag : BitVec 8) (image : List Byte)
  | mgmtResultRead (smod : BitVec 13) (mb : Fin 2) (rid : BitVec 32)
  | mgmtResult (m : LinkMsg)
  | mgmtNotice (m : LinkMsg)
  | fragmentTimeout (mb : Fin 2)
  | bmcMessage (kind : BitVec 8) (image : List Byte) (packets : List (List Byte) := [])
  | arbitrationTick
  | commandTimeout (src : Source)
  | devInfo (src : Source)
  | health (src : Source)
  | jobLoad (src : Source) (r : JobLoadReq)
  | jobStart (src : Source) (job : BitVec 8) (resume : Bool)
  | jobKill (src : Source) (job : BitVec 8)
  | quarantineInForce (job : Fin 8)
  | capture (job : Fin 8) (cores : List CoreFindings := [])
  | jobStatus (src : Source) (job : BitVec 8)
  | cfgGet (src : Source) (block : BitVec 8) (copy : Bool) (clr : Bool) (offset : BitVec 32) (words : BitVec 32)
  | cfgWriteShadow (src : Source) (block : BitVec 8) (copy : Bool) (offset : BitVec 32) (data : List (BitVec 32))
  | cfgSwap (src : Source)
  | cfgSwapAt (src : Source) (t : BitVec 64)
  | cfgSwapCancel (src : Source)
  | powerCap (src : Source) (cap : BitVec 16) (window : BitVec 8)
  | clockMode (src : Source) (value : BitVec 32) (mask : BitVec 32)
  | phaseTableRead (src : Source) (die : BitVec 8) (ndie : BitVec 2)
  | phaseTableLoad (src : Source) (job : BitVec 8) (die : BitVec 8) (ndie : BitVec 2) (data : List Byte)
  | phaseTableClear (src : Source) (die : BitVec 8)
  | flaskBind (src : Source) (partner : BitVec 13) (c : BitVec 32) (u : BitVec 32) (peer : PeerBind)
  | flaskBindKeep (src : Source) (partner : BitVec 13) (c : BitVec 32) (u : BitVec 32) (peer : PeerBind)
  | flaskUnbind (src : Source)
  | pourPolicyDeclare (src : Source) (job : BitVec 8) (p : PourDecl)
  | pourPolicyQuery (src : Source) (job : BitVec 8)
  | rollback (src : Source) (job : BitVec 8) (others : List (BitVec 32) := [])
  | remap (src : Source) (job : BitVec 8) (cores : List (BitVec 32))
  | pourNow (src : Source) (job : BitVec 8)
  | failoverAdopt (src : Source) (job : BitVec 8) (x : BitVec 13) (p : BitVec 13) (rp : BitVec 32) (xCode : OrderingCode)
  | mirrorStatus (src : Source)
  | portDisable (src : Source) (port : Fin 48)
  | portEnable (src : Source) (port : Fin 48)
  | portCtlRetrain (src : Source) (port : Fin 48)
  | portSetLaneen (src : Source) (port : Fin 48) (readmit : Bool) (value : BitVec 32)
  | portSetTxpre (src : Source) (port : Fin 48) (value : BitVec 32)
  | portSetMshare (src : Source) (port : Fin 48) (value : BitVec 32)
  | routeTableWrite (src : Source) (first : BitVec 32) (groups : List RouteMasks)
  | routeTableQuery (src : Source) (dmod : BitVec 32)
  | coreRetire (src : Source) (die : Fin 32) (prow : BitVec 5) (pcol : BitVec 4) (node : Bool)
  | coreReadmit (src : Source) (die : Fin 32) (prow : BitVec 5) (pcol : BitVec 4) (node : Bool)
  | rowRepairList (src : Source) (target : RepairTarget) (start : BitVec 32)
  | rowRepairAdd (src : Source) (e : RepairEntry)
  | rowRepairClear (src : Source) (e : RepairEntry)
  | errLog (src : Source) (start : BitVec 32) (count : BitVec 6) (minsev : BitVec 2) (clear : Bool)
  | diagRun (src : Source) (test : BitVec 32) (target : BitVec 32) (passed : Bool)
  | lifecycleQuery (src : Source)
  | deploy (src : Source) (key : BitVec 768)
  | lifecycleChallenge (src : Source) (purpose : BitVec 32)
  | respond (src : Source) (purpose : BitVec 32) (auths : List Authorisation)
  | challengeExpiry
  | relock (src : Source)
  | fwQuery (src : Source)
  | fwStage (src : Source) (image : List Byte)
  | fwChunk (src : Source) (offset : BitVec 32) (data : List Byte)
  | fwVerify (src : Source)
  | fwActivate (src : Source) (immediate : Bool)
  | fwAbort (src : Source)
  | fwCommit (src : Source)
  | delayedReset (fails : BitVec 2 := 0)
  | debugHalt (src : Source) (core : BitVec 13) (threads : BitVec 4) (attach : Bool)
  | debugResume (src : Source) (core : BitVec 13) (threads : BitVec 4) (attach : Bool)
  | debugRead (src : Source) (space : BitVec 32) (id : BitVec 32) (addr : BitVec 32) (bytes : BitVec 32) (found : List SpmFinding := []) (regs : List RegFinding := [])
  | debugWrite (src : Source) (space : BitVec 32) (id : BitVec 32) (addr : BitVec 32) (data : List Byte)
  | fettleJob (src : Source) (job : BitVec 8)
  | fettleAllHbm (src : Source)
  | fettleModule (src : Source)
  | fettleDone (failed : List CorePos)
  | timeSync (src : Source) (role : BitVec 2) (pport : BitVec 6) (mask : BitVec 48) (asym : List (BitVec 16)) (time : Option (BitVec 64))
  | getVersion (tr : Fin 3) (discover : Option (BitVec 8) := none)
  | getCapabilities (tr : Fin 3)
  | negotiateAlgorithms (tr : Fin 3) (p384 : Bool) (sha384 : Bool)
  | getDigests (tr : Fin 3)
  | getCertificate (tr : Fin 3) (slot : BitVec 8) (offset : BitVec 16) (length : BitVec 16) (chunk : Option (Nat × Nat) := none)
  | spdmChallenge (tr : Fin 3) (slot : BitVec 8) (nonce : BitVec 256)
  | getMeasurements (tr : Fin 3) (index : BitVec 8) (sign : Bool) (nonce : BitVec 256) (chunk : Option (Nat × Nat) := none)
  | queryDeviceIdentifiers
  | getFirmwareParameters
  | requestUpdate (maxTransfer : BitVec 32)
  | passComponentTable (component : BitVec 16)
  | updateComponent (component : BitVec 16) (size : BitVec 32)
  | requestFirmwareData (offset : BitVec 32) (data : List Byte)
  | transferComplete
  | verifyComplete
  | applyComplete
  | activateFirmware
  | getStatus
  | cancelUpdate
  | getPdr (record : BitVec 32)
  | getPdrRepositoryInfo
  | getSensorReading (sensor : BitVec 16)
  | getStateSensorReadings (sensor : BitVec 16)
  | setNumericSensorEnable (sensor : BitVec 16) (enable : Bool)
  | setEventReceiver (receiver : BitVec 8)
  | pollForPlatformEventMessage
  | breakpointMatch (a : Site)
  | watchpointMatch (a : Site) (addr : BitVec 22) (bytes : Nat) (store : Bool)
  | singleStep (a : Site)
  | crossTrigger (core : BitVec 13)
  | traceEntryWrite (core : BitVec 13) (found : List SpmFinding := [])
  | traceSync (core : BitVec 13)
  | bypass
  | idcode
  | samplePreload (pins : List Bool) (load : List Bool)
  | extest
  | clamp
  | highz
  | tapPrivate (code : BitVec 8)
  | tapReset
  | powerOnReset (cut : ResetCut := {})
  | moduleReset (widthNs : Nat) (cut : ResetCut := {})
  | resetRelease (bmcsel : Bool) (mid : BitVec 4) (fails : BitVec 2 := 0)
  | hostInterfaceReset (hi : Fin 2) (pin : Bool)
  | hiTrainingStart (hi : Fin 2)
  | bootImageVerify (mpB : Bool)
  | firmwareStart (mpB : Bool)
  | configRestore (hbmFail : List (BitVec 10)) (lost : List BootLoss := [])
  | selfTest (failed : List CorePos)
  | bringupPortTrain
  | bringupReady
  | fwWatchdog (mpB : Bool)
  | supplyLow
  | overvoltageCut
  | hotswapReclose
  | hotswapChargeDone (fails : BitVec 2 := 0)
  | refclkLoss
  | cablePresenceChange (conn : Fin 8) (present : Bool)
  | vcblOn (conn : Fin 8)
  | vcblOvercurrent (conn : Fin 8)
  | coordinatorRepeat
  | droopEnd (island : Fin 8768)
  deriving DecidableEq, Repr

end Sys2Proof
end

