-- ==== Sys2Proof/Decode.lean ====
section
/-! DEFINITION. The command that a word of the table's bits spells, and the reading of the words of a core instruction
(Tables 3-4, 3-8, 5-5, 5-7, 6-3, 6-5 and 9-1). The table gives no row any bits: its rows are commands, and the words of core
instructions reach the block as the fields of the constructors. -/

namespace Sys2Proof

/-- No row of spec/opcode_table.json gives bits, so no word spells a command. [DESIGN CHOICE: log entry 2] -/
def decodeTableWord (_nbits _w : Nat) : Option Instr := none

/-! ### Words of core instructions -/

/-- LEN, OPC and MOD of word 0 (Table 3-4). -/
def wordLen (w0 : Word) : BitVec 2 := w0.extractLsb' 30 2
def wordOpc (w0 : Word) : BitVec 7 := w0.extractLsb' 23 7
def wordMod (w0 : Word) : BitVec 2 := w0.extractLsb' 18 2

/-- The words an instruction of that LEN has: 0 where it has none (R69). -/
def wordOne (w0 w1 : Word) : Word := if wordLen w0 = 0 then 0 else w1
def wordTwo (w0 w2 : Word) : Word := if (wordLen w0).toNat < 2 then 0 else w2

/-- The fields of an SE or DE instruction (Table 3-4, R70). -/
def seWord (w0 w1 w2 : Word) : SeWord :=
  { len := wordLen w0, sz := w0.extractLsb' 20 3, mod := wordMod w0, osd := w0.extractLsb' 12 6,
    osa := w0.extractLsb' 6 6, osb := w0.extractLsb' 0 6, ext := wordTwo w0 w2 ++ wordOne w0 w1 }

/-- The fields of a VE instruction (Table 5-5, R133). -/
def veWord (w0 w1 : Word) : VeWord :=
  { len := wordLen w0, ty := w0.extractLsb' 19 4, msk := w0.extractLsb' 15 4, vd := w0.extractLsb' 10 5,
    va := w0.extractLsb' 5 5, vb := w0.extractLsb' 0 5, ext := wordOne w0 w1 }

/-- The fields of an ME instruction (Tables 6-3 and 6-4). -/
def meWord (w0 w1 w2 : Word) : MeWord :=
  { len := wordLen w0, low := w0.extractLsb' 0 23, w1 := wordOne w0 w1, w2 := wordTwo w0 w2 }

/-- The SE or DE instruction of an opcode (Tables 3-8 and 9-1): none for a reserved one. Opcodes that share a code are told
apart by MOD. -/
def decodeSe (a : Site) (opc : Nat) (w : SeWord) : Option Instr :=
  match opc with
  | 0x00 => some (.nop a w)
  | 0x01 => some (.mov a w)
  | 0x02 => some (.add a w)
  | 0x03 => some (.sub a w)
  | 0x04 => some (.and_ a w)
  | 0x05 => some (.or_ a w)
  | 0x06 => some (.xor_ a w)
  | 0x07 => some (.shl a w)
  | 0x08 => some (.shr a w)
  | 0x09 => some (.min_ a w)
  | 0x0A => some (.max_ a w)
  | 0x0B => some (.zext a w)
  | 0x0C => some (.sext a w)
  | 0x0D => some (.slt a w)
  | 0x0E => some (.seq a w)
  | 0x0F => some (.clz a w)
  | 0x10 => some (.popc a w)
  | 0x11 => some (.mul a w)
  | 0x12 => some (.div a w)
  | 0x18 => some (.fadd a w)
  | 0x19 => some (.fsub a w)
  | 0x1A => some (.fmul a w)
  | 0x1B => some (.fma a w)
  | 0x1C => some (.fmin a w)
  | 0x1D => some (.fmax a w)
  | 0x1E => some (.fsqrt a w)
  | 0x1F => some (.fcmp a w)
  | 0x20 => some (.fcvti a w)
  | 0x21 => some (.icvtf a w)
  | 0x28 => some (.jmp a w)
  | 0x29 => some (.b a w)
  | 0x2A => some (.bu a w)
  | 0x2B => some (.call a w)
  | 0x2C => some (.loop a w)
  | 0x2D => some (.lbreak a w)
  | 0x2E => some (.csrr a w)
  | 0x2F => some (.csrw a w)
  | 0x30 => some (.ldAcq a false w)
  | 0x31 => some (.ldAcq a true w)
  | 0x32 => some (.stRel a false w)
  | 0x33 => some (.stRel a true w)
  | 0x34 => some (.fence a w)
  | 0x35 => some (.etok a w)
  | 0x36 => some (.ewait a w)
  | 0x37 => some (.xld a w)
  | 0x38 => some (.xst a w)
  | 0x39 => some (.sld a w)
  | 0x3A => some (.sst a w)
  | 0x3B => some (.thset a w)
  | 0x3C => some (match w.mod.toNat with | 0 => .thgo a w | 1 => .thstop a w | _ => .thend a w)
  | 0x3D => some (match w.mod.toNat with | 0 => .rsend a w | 1 => .rsend4 a w | _ => .rrecv a w)
  | 0x3E => some (match w.mod.toNat with | 0 => .setev a w | 1 => .waitev a w | _ => .clrev a w)
  | 0x3F => some (match w.mod.toNat with | 0 => .eret a w | 1 => .brk a w | _ => .pour a w)
  | 0x70 => some (.denq a w)
  | 0x71 => some (.icinv a w)
  | 0x72 => some (.icpf a w)
  | _ => none

/-- The VE instruction of an opcode (Table 5-7). -/
def decodeVe (a : Site) (opc : Nat) (v : VeWord) : Option Instr :=
  match opc with
  | 0x40 => some (.vld a v)
  | 0x41 => some (.vst a v)
  | 0x42 => some (.vldsr a v)
  | 0x43 => some (.vstsr a v)
  | 0x44 => some (.vlds2 a v)
  | 0x45 => some (.vlds3 a v)
  | 0x46 => some (.vlds4 a v)
  | 0x47 => some (.vsts2 a v)
  | 0x48 => some (.vsts3 a v)
  | 0x49 => some (.vsts4 a v)
  | 0x4A => some (.vmld a v)
  | 0x4B => some (.vmst a v)
  | 0x4C => some (.vbcast a v)
  | 0x4D => some (.vext a v)
  | 0x4E => some (.vmovi a v)
  | 0x4F => some (.vadd a v)
  | 0x50 => some (.vsub a v)
  | 0x51 => some (.vmul a v)
  | 0x52 => some (.vfma a v)
  | 0x53 => some (.vmin a v)
  | 0x54 => some (.vmax a v)
  | 0x55 => some (.vbit a v)
  | 0x56 => some (.vcmp a v)
  | 0x57 => some (.vmerge a v)
  | 0x58 => some (.vslide a v)
  | 0x59 => some (.vred a v)
  | 0x5A => some (.vmop a v)
  | 0x5B => some (.vwmul a v)
  | 0x5C => some (.vdot a v)
  | 0x5D => some (.vcvt a v)
  | 0x5E => some (.vfdiv a v)
  | 0x5F => some (.vfsqrt a v)
  | _ => none

/-- The ME instruction of an opcode (Table 6-5). -/
def decodeMe (a : Site) (opc : Nat) (m : MeWord) : Option Instr :=
  match opc with
  | 0x60 => some (.tld a m)
  | 0x61 => some (.tst a m)
  | 0x62 => some (.tlds a m)
  | 0x63 => some (.tsts a m)
  | 0x64 => some (.tzero a m)
  | 0x65 => some (.trelease a m)
  | 0x66 => some (.tmma a m)
  | 0x67 => some (.tmmas a m)
  | 0x68 => some (.gmv a m)
  | _ => none

/-- The opcodes that Tables 3-4, 3-8, 6-5 and 9-1 reserve. -/
def opcReserved (opc : BitVec 7) : Bool :=
  let x := opc.toNat
  decide (0x13 ≤ x ∧ x ≤ 0x17) || decide (0x22 ≤ x ∧ x ≤ 0x27) || decide (0x69 ≤ x ∧ x ≤ 0x6F) || decide (0x73 ≤ x)

/-- The instruction of a thread that three words at its program counter spell; only LEN + 1 of them belong to it (R69). A
reserved opcode is the command NOP with that opcode, which raises ILLEGAL_INSN (R71, R78).
[DESIGN CHOICE: log entry 112] -/
def decodeInsn (a : Site) (w0 w1 w2 : Word) : Instr :=
  let opc := wordOpc w0
  let w := seWord w0 w1 w2
  ((decodeSe a opc.toNat w).orElse fun _ =>
    (decodeVe a opc.toNat (veWord w0 w1)).orElse fun _ => decodeMe a opc.toNat (meWord w0 w1 w2)).getD (.nop a w opc)

end Sys2Proof
end

