-- ==== Sys2Proof/Config.lean ====
section
/-! DEFINITION. What the spec leaves open: values that nothing in Lean can evaluate. Each is applied to the
operands it depends on, or to a count of the State that the step advances, so that every statement holds for every
value. None of them has a body. -/

namespace Sys2Proof.Config

/-- How many cycles a core's island has run at the k-th reading of its counter beyond the count it last gave (R92:
the island's clock, its stretched cycles and its phase against the time base are not fixed by the spec).
[DESIGN CHOICE: log entry 16] -/
opaque islandCycles : Nat → Nat

/-- The bytes of a fresh random nonce, challenge or measurement nonce (R496, R485). [DESIGN CHOICE: log entry 13] -/
opaque nonce : Nat → BitVec 256

/-- SHA-384 of a byte string; the standard is outside the spec's own text (R479). [DESIGN CHOICE: log entry 13] -/
opaque sha384 : List Byte → BitVec 384

/-- ECDSA over P-384: whether a signature verifies under a public key (R479, R495). [DESIGN CHOICE: log entry 13] -/
opaque ecdsaVerify : BitVec 768 → List Byte → BitVec 768 → Bool

/-- ECDSA over P-384 with the module's own keys: the signature of a message by key k (R485, R487).
[DESIGN CHOICE: log entry 13] -/
opaque ecdsaSign : Nat → List Byte → BitVec 768

/-- A private key that HKDF with SHA-384 derives from the device secret and an info string (RFC 5869, R479).
[DESIGN CHOICE: log entry 13] -/
opaque hkdf : BitVec 256 → List Byte → BitVec 384

/-- The device secret as it was made (R478). [DESIGN CHOICE: log entry 12] -/
opaque deviceSecret : BitVec 256

/-- The certificates of SPDM slot 0: Henros root, manufacturing authority and device identity as they were issued, and the one of an
alias key, signed by an identity key (R479, R487). [DESIGN CHOICE: log entry 13] -/
opaque rootCert : List Byte
opaque authorityCert : List Byte
opaque identityCert : List Byte
opaque aliasCert : Nat → Nat → List Byte

/-- SHA-384 of the MP ROM (Table 16-4). [DESIGN CHOICE: log entry 13] -/
opaque romDigest : BitVec 384

/-- A private TAP instruction reaches scan chains or memory test, which only level 2 opens (R493: the codes are not stated).
[DESIGN CHOICE: log entry 101] -/
opaque tapScan : BitVec 8 → Bool

/-- How many PLDM events wait before the queue is full (Table 17-8: its size is not stated).
[DESIGN CHOICE: log entry 99] -/
opaque eventQueue : Nat

/-- Root key digests and the first image as they were made (R478, R480). [DESIGN CHOICE: log entry 12] -/
opaque rootKeys : Nat → BitVec 384
opaque factoryImage : List Byte

/-- The byte a destination receives where a descriptor reads what it also writes, when the older and the newer value
are both allowed (R262): `true` takes the value from before the descriptor started.
[DESIGN CHOICE: log entry 33] -/
opaque oldSource : Nat → Bool

/-- The code of a source element of a widening vector instruction whose bits an earlier element's result covers (R130: the
beats of operands of two widths are not stated), at the k-th draw. [DESIGN CHOICE: log entry 7] -/
opaque lateElement : Nat → Nat → BitVec 32

/-- Bank and row of a line of a pseudo-channel: the decode of LINE into them is the memory device's (R276, R280).
[DESIGN CHOICE: log entry 43] -/
opaque hbmBank : Nat → BitVec 8
opaque hbmRow : Nat → BitVec 32

/-- The bank of the k-th repair candidate of external memory has no spare row left (R280: the number is not stated).
[DESIGN CHOICE: log entry 43] -/
opaque noSpareRow : Nat → Bool

/-- The forecast of the earliest end of life after the k-th re-plan: the island, and the days (R438: the fit is not
stated). [DESIGN CHOICE: log entry 84] -/
opaque ageIsland : Nat → BitVec 16
opaque ageDays : Nat → BitVec 16

/-- The byte that a reader outside the cores receives for a byte of a poisoned word, at the k-th draw (R277, R452, R526: the
word's data is not stated). [DESIGN CHOICE: log entry 42] -/
opaque poisonByte : Nat → BitVec 8

/-- The step that a command had reached when its time limit passed (Table 15-6: the numbering is not stated).
[DESIGN CHOICE: log entry 71] -/
opaque stepReached : Nat → BitVec 32

/-- The filtered offset and the rate correction in parts per 10^9 that a follower takes at its k-th accepted exchange (R378:
neither filter nor control law is stated). [DESIGN CHOICE: log entry 53] -/
opaque filteredOffset : Nat → BitVec 32
opaque timeRate : Nat → Int

/-- The seed that a port's transmitter chooses for its scrambler when training starts at the k-th nanosecond (R317: the value is the
transmitter's choice). [DESIGN CHOICE: log entry 129] -/
opaque scramblerSeed : Nat → BitVec 58

/-- CAUSE of the record of a lost stack (0 to 15) or die rail (16 + d): R511 states its severity, and no code.
[DESIGN CHOICE: log entry 132] -/
opaque lossCause : Nat → BitVec 16

/-- The PCI vendor identifier that DEV_INFO reports (R476: its value is not stated).
[DESIGN CHOICE: log entry 100] -/
opaque pciVendor : BitVec 16

/-- A word that a response holds where the spec states no value, at the k-th draw: the time of a JOB_KILL whose quarantine is
not yet in force (R499), a detail of a test (Table 15-12), a fragment of a response of a standard outside the spec.
[DEDUCED: log entry 73] [DESIGN CHOICE: log entries 88, 100] -/
opaque freeWord : Nat → BitVec 64

end Sys2Proof.Config
end

