-- ==== Sys2Proof/Machine/Table.lean ====
section
/-! DEFINITION. Sparse data by key, in one canonical form each: tables of records, and memories of bytes. A memory
lists an address only where its byte is not 0, the value an unlisted address reads as. -/

namespace Sys2Proof.Machine

/-- A table by key, keys rising; a key that is not listed has the table's default, which the reader names. -/
abbrev Table (α : Type) := List (Nat × α)

/-- The entry of key `k`, or the default. -/
def tget {α : Type} : Table α → α → Nat → α
  | [], d, _ => d
  | (x, v) :: t, d, k => if x = k then v else tget t d k

/-- The table with `k` set to `v`. -/
def tset {α : Type} : Table α → Nat → α → Table α
  | [], k, v => [(k, v)]
  | (x, w) :: t, k, v =>
    if k < x then (k, v) :: (x, w) :: t else if k = x then (k, v) :: t else (x, w) :: tset t k v

/-- The table without key `k`. -/
def tdel {α : Type} (t : Table α) (k : Nat) : Table α := t.filter (fun x => x.1 != k)

/-- A memory: address and byte, addresses rising, no byte 0 listed. -/
abbrev Memory := List Host.Cell

/-- The byte at an address. [DESIGN CHOICE: log entry 11] -/
def memRead (m : Memory) (a : Nat) : Byte := tget m 0 a

/-- The memory with one byte written. -/
def memWrite (m : Memory) (a : Nat) (b : Byte) : Memory := if b = 0 then tdel m a else tset m a b

/-- `n` bytes from an address upward. -/
def memReadN (m : Memory) : Nat → Nat → List Byte
  | _, 0 => []
  | a, n + 1 => memRead m a :: memReadN m (a + 1) n

/-- The memory with a list of bytes written from an address upward. -/
def memWriteN (m : Memory) : Nat → List Byte → Memory
  | _, [] => m
  | a, b :: bs => memWriteN (memWrite m a b) (a + 1) bs

/-- The keys of a list of pairs, each above the bound `b`, rise strictly. -/
def risesAbove {α : Type} : Nat → List (Nat × α) → Bool
  | _, [] => true
  | b, (x, _) :: t => decide (b ≤ x) && risesAbove (x + 1) t

/-- The canonical form of a memory. -/
def Memory.wf (m : Memory) : Bool := risesAbove 0 m && m.all (fun c => decide (c.2 ≠ 0))

/-- A set of numbers, rising: the words that are poison, the tags that are full. -/
abbrev NatSet := List Nat

/-- Membership. -/
def nhas (s : NatSet) (k : Nat) : Bool := s.any (fun x => x == k)

/-- The set with `k`. -/
def nins : NatSet → Nat → NatSet
  | [], k => [k]
  | x :: s, k => if k < x then k :: x :: s else if k = x then x :: s else x :: nins s k

/-- The set without `k`. -/
def ndel (s : NatSet) (k : Nat) : NatSet := s.filter (fun x => x != k)

/-- The set with every number of a list. -/
def ninsAll (s : NatSet) (ks : List Nat) : NatSet := ks.foldl nins s

/-- The set without every number of a list. -/
def ndelAll (s : NatSet) (ks : List Nat) : NatSet := ks.foldl ndel s

end Sys2Proof.Machine
end

