-- ==== Sys2Proof/Machine/Bits.lean ====
section
/-! DEFINITION. Bit fields, sign extension and byte order: the helpers every family uses. -/

namespace Sys2Proof.Machine

/-- Bits [lo + n − 1 : lo] of a number. -/
def bitsAt (x lo n : Nat) : Nat := (x >>> lo) % 2 ^ n

/-- A number of `n` bits read as two's complement. -/
def signed (n x : Nat) : Int := if 2 ^ n ≤ 2 * (x % 2 ^ n) then (x % 2 ^ n : Int) - 2 ^ n else (x % 2 ^ n : Int)

/-- An integer as `n` bits, modulo 2^n. -/
def toBits (n : Nat) (i : Int) : Nat := (i % (2 ^ n : Int)).toNat

/-- The little-endian number of a list of bytes. -/
def leNat : List Byte → Nat
  | [] => 0
  | b :: bs => b.toNat + 256 * leNat bs

/-- The low `n` bytes of a number, least significant first. -/
def leBytes : Nat → Nat → List Byte
  | 0, _ => []
  | n + 1, x => BitVec.ofNat 8 x :: leBytes n (x / 256)

/-- 1 for true, 0 for false. -/
def b2n (b : Bool) : Nat := if b then 1 else 0

/-- The number of 1 bits among the low `n`. -/
def popCount (n x : Nat) : Nat := ((List.range n).filter (fun i => x.testBit i)).length

/-- The number of leading zeros among the low `n` bits. -/
def leadingZeros : Nat → Nat → Nat
  | 0, _ => 0
  | n + 1, x => if x.testBit n then 0 else leadingZeros n x + 1

/-- The byte at index `i` of a list, 0 beyond its end. -/
def byteAt (l : List Byte) (i : Nat) : Byte := l.getD i 0

/-- Bytes filled with zeros up to a length. -/
def padTo (n : Nat) (l : List Byte) : List Byte := l ++ List.replicate (n - l.length) 0

/-- Words as bytes. -/
def wordBytes (l : List Nat) : List Byte := l.flatMap (fun x => leBytes 4 x)

/-- The little-endian 32-bit word at byte offset `i` of a list. -/
def word32At (l : List Byte) (i : Nat) : Nat := leNat ((l.drop i).take 4)

/-- The little-endian 64-bit word at byte offset `i` of a list. -/
def word64At (l : List Byte) (i : Nat) : Nat := leNat ((l.drop i).take 8)

/-- A ceiling of a quotient. -/
def ceilDiv (a b : Nat) : Nat := (a + b - 1) / b

end Sys2Proof.Machine
end

