-- ==== Sys2Proof/Machine/CoreState.lean ====
section
/-! DEFINITION. The state of one core: its threads, scratchpad with gates and tags, vector and matrix engines, DMA
queues, caches, ordering machinery and debug registers (chapters 2 to 9 and 17). -/

namespace Sys2Proof.Machine

/-! ### Exceptions and records -/

/-- What a thread records of an exception: EXC_CAUSE, the fields of EXC_DETAIL, and EXC_ADDR (Table 3-12). -/
structure Exc where
  cause : BitVec 8
  opid : BitVec 4
  eng : BitVec 3
  target : CoreId
  addr : Word
  /-- The unit a record names: the raising unit, or the engine that issued a remote access (R515). -/
  unit : BitVec 5
  deriving DecidableEq, Repr

/-- A record or notice a unit hands to the MP, before the MP gives it an index, a time and a place (Table 17-3). -/
structure Post where
  sev : BitVec 2
  cause : BitVec 16
  unit : BitVec 5
  sub : BitVec 4
  addr : DWord
  detail : List Word
  /-- The thread stopped under R93, or the core froze: the job is at fault (R473). -/
  coreFault : Bool
  frozen : Bool
  deriving DecidableEq, Repr

/-- Bytes that move, and which of their 8-byte words are poison, counted from the word that holds the first byte. -/
structure Payload where
  bytes : List Byte
  poison : NatSet
  deriving DecidableEq, Repr

/-! ### Threads -/

/-- Table 4-1. -/
inductive ThState | inactive | running | waiting | stopped | halted | faulted
  deriving DecidableEq, Repr

/-- What an issued instruction still waits for. The first three and `slotRemote` are the waits of a WAITING thread
(R98); under the others the thread stays RUNNING and issues nothing. Each keeps the word of its instruction. -/
inductive Stall
  | none
  /-- RSEND, RSEND4 or RRECV on a runner (R109). -/
  | runner (n : Fin 8) (recv : Bool) (w : SeWord)
  /-- WAITEV on an event, for a count (R113). -/
  | event (n : Fin 32) (need : Nat) (w : SeWord)
  /-- A blocking SLD or SST whose local slot is not in the needed state, and when its time is up (R219, R222). -/
  | slot (seg : Nat) (store : Bool) (w : SeWord) (deadline : Option Nat)
  /-- A tagged access of another core's slot (R219), and when its time is up. -/
  | slotRemote (id : Nat) (store : Bool) (w : SeWord) (deadline : Option Nat)
  /-- A served local tagged access whose data move is not yet performed (R220). -/
  | slotMove (seg : Nat) (store : Bool) (w : SeWord)
  /-- XLD, until its element returns (R84). -/
  | xld (id : Nat) (w : SeWord)
  /-- FENCE of a scope (R244). -/
  | fence (scope : BitVec 3) (w : SeWord)
  /-- ST.REL of a scope, with the value it read at issue (R247). -/
  | release (scope : BitVec 3) (value : DWord) (w : SeWord)
  /-- RSEND or RSEND4, with the words it read at issue, until the thread's earlier accesses are performed (R117). -/
  | sending (n : Fin 8) (words : List DWord) (w : SeWord)
  /-- SETEV, with its operand, until the thread's earlier accesses are performed (R117). -/
  | setting (v : Nat) (w : SeWord)
  /-- SST, with its slot number and the 64 bytes it read at issue, until the thread's earlier accesses are performed
  (R224), and when its time is up. -/
  | storing (slot : Nat) (src : Payload) (w : SeWord) (deadline : Option Nat)
  /-- EWAIT of the SE, until its paired marker has passed (R241). -/
  | ewait (id : Nat) (w : SeWord)
  /-- THSTOP, until the target has stopped (R105). -/
  | thstop (target : Fin 4) (w : SeWord)
  /-- POUR, until the core is released (R394). -/
  | pour (w : SeWord)
  /-- CSRW to a converter stream in use (R59). -/
  | stream (i : Fin 6) (seed : Bool) (value : Word) (w : SeWord)
  /-- CSRW to TCFGn (R166). -/
  | tcfg (n : Fin 8) (value : Word) (w : SeWord)
  /-- CSRW that closes a gate (R215). -/
  | gate (n : Fin 16) (value : Word) (w : SeWord)
  /-- ICINV (R285). -/
  | icinv (id : Nat) (w : SeWord)
  deriving DecidableEq, Repr

/-- Where an SE result goes, resolved at issue. -/
inductive Dest
  | none
  | mem (addr : Nat) (bytes : Nat)
  | areg (i : Fin 8)
  | special (i : Fin 8)
  | loopCount (i : Fin 4)
  deriving DecidableEq, Repr

/-- A binary32 result in flight (Table 3-10, R200): where it goes, its value, and the flags it sets (R38). -/
structure FpResult where
  dest : Dest
  bytes : Nat
  value : DWord
  flags : BitVec 6
  /-- The issue number of its instruction. -/
  seq : Nat
  deriving DecidableEq, Repr

/-- A divider result in flight (R82, R86). -/
structure DivResult where
  thread : Fin 4
  qot : DWord
  rem : DWord
  flags : BitVec 6
  deriving DecidableEq, Repr

/-- STATUS and the exception registers of a thread (Table 3-12). -/
structure ExcRegs where
  sstep : Bool
  prio : Bool
  imprecise : Bool
  exc : Bool
  pend : Bool
  cause : BitVec 8
  opid : BitVec 4
  eng : BitVec 3
  target : CoreId
  pc : Word
  addr : Word
  /-- EXC_VEC: the handler's address with EN in bit 0. -/
  vec : Word
  deriving DecidableEq, Repr

/-- The registers of one thread (Table 3-2). -/
structure Regs where
  a : Vector Word 8
  p : Vector (BitVec 6) 4
  ls : Vector Word 4
  le : Vector Word 4
  lc : Vector Word 4
  ldepth : BitVec 3
  mh : DWord
  ml : DWord
  qot : DWord
  rem : DWord
  pc : Word
  cycleHi : Word
  timeHi : Word
  deriving DecidableEq, Repr

/-- One hardware thread. -/
structure Thread where
  r : Regs
  x : ExcRegs
  st : ThState
  stall : Stall
  /-- The issue number of its latest instruction. -/
  last : Nat
  /-- THSTOP has asked the thread to stop at its next instruction boundary (R105). -/
  stopAsked : Bool
  /-- The debug service has asked the same, and the cause it will record (R121, Table 17-10). -/
  haltAsked : BitVec 4
  /-- Products not yet in MH and ML, oldest first (R85). -/
  muls : List (DWord × DWord)
  /-- Binary32 results not yet written, oldest first. -/
  fps : List FpResult
  /-- Imprecise exceptions that have reached the thread and are not yet delivered (R96). -/
  arrived : List Exc
  /-- The one imprecise exception held while STATUS.EXC is 1 (R96). -/
  held : Option Exc
  /-- Unpaired ETOKs of each token, oldest first (R241). -/
  tokens : Vector (List Nat) 8
  /-- Instructions issued since the last resume, for single step (R523, R524): 0 or more. -/
  stepped : Bool
  /-- The next issue does not match breakpoints or watchpoints (R523). -/
  pass : Bool
  deriving DecidableEq, Repr

/-! ### Converter streams -/

/-- One converter stream (Table 2-11). -/
structure Stream where
  stochastic : Bool
  seed : Word
  rmax : Word
  sat : Word
  deriving DecidableEq, Repr

/-! ### Scratchpad, gates, tags, remote accesses -/

/-- One gate (Table 7-4), and whether its first refusal since it opened is recorded (R211). -/
structure Gate where
  base : BitVec 22
  limit : BitVec 22
  mask : BitVec 13
  mtch : BitVec 13
  greq : Bool
  tagged : Bool
  link : Bool
  cores : Bool
  opened : Bool
  /-- A CSRW that closes the gate has issued: no further write is accepted (R215). -/
  closing : Bool
  gen : BitVec 8
  fcnt : BitVec 16
  recorded : Bool
  deriving DecidableEq, Repr

/-- Who waits for, or has been served by, a slot (R220, R221). -/
inductive SlotUser
  | thread (t : Fin 4)
  /-- Another core's access, parked here. -/
  | remote (core : CoreId) (id : Nat)
  /-- A completion fill of this core's own queue q (R267). -/
  | fill (q : Fin 4)
  deriving DecidableEq, Repr

/-- A tagged access that waits on a slot, in order (R220). -/
structure SlotWait where
  seg : Nat
  who : SlotUser
  store : Bool
  /-- What a store brings. -/
  data : Payload
  deriving DecidableEq, Repr

/-- What a remote access asks of its target (R207). -/
inductive RemoteKind
  | read (bytes : Nat)
  | write (data : Payload)
  /-- A reduce-on-write, with the element type of Table 5-1 (R264). -/
  | reduce (ty : BitVec 4) (data : List Byte)
  | sld (blocking : Bool)
  | sst (blocking : Bool) (data : Payload)
  /-- A slot fill, which moves no data (R267). -/
  | fill
  deriving DecidableEq, Repr

/-- What the target answered. -/
inductive RemoteAnswer
  | data (p : Payload)
  | done
  | notDone
  | gate
  /-- The target belongs to another job (R207). -/
  | otherJob
  | quarantine
  /-- A reduction met poison at the target (R271). -/
  | ecc
  | retry
  /-- A withdrawal found the access still waiting (R222). -/
  | withdrawn
  deriving DecidableEq, Repr

/-- Where a remote access is. -/
inductive RemoteStage
  | leaving
  /-- Its request or its response was discarded in the fabric (R313). -/
  | lost
  | parked
  | answered (a : RemoteAnswer)
  deriving DecidableEq, Repr

/-- Who made a remote access. -/
inductive RemoteUser
  | xld (t : Fin 4)
  | xst (t : Fin 4)
  | tag (t : Fin 4)
  | dma (q : Fin 4) (t : Fin 4)
  | fill (q : Fin 4) (t : Fin 4)
  deriving DecidableEq, Repr

/-- A remote access that awaits its response (R208), in the order of leaving (R248). -/
structure Remote where
  id : Nat
  who : RemoteUser
  target : CoreId
  offset : Nat
  kind : RemoteKind
  gen : Option (BitVec 8)
  /-- The time base when it left (R209). -/
  left : Nat
  stage : RemoteStage
  /-- A withdrawal is on its way to the target (R222), or has been answered. -/
  withdrawal : Bool
  /-- The issuing thread no longer waits for it (R209, R222): its response is dropped. -/
  dead : Bool
  deriving DecidableEq, Repr

/-- One bank's scrubber (R204, R205). -/
structure Scrubber where
  row : Nat
  /-- Words with syndrome 0xFF met in this pass, and in the pass before it. -/
  poisonNow : Nat
  poisonBefore : Nat
  /-- Words and bits corrected in this pass, and in the pass before it. -/
  correctedNow : List (Nat × Nat)
  correctedBefore : List (Nat × Nat)
  /-- The scrub read takes rank 1 (R204). -/
  aged : Bool
  /-- Corrected words whose write-back is not yet granted (R203). -/
  writebacks : List Nat
  /-- The ports whose request for this bank has taken rank 1 (R199, R193). -/
  agedPorts : List SpmPort
  /-- A request inside the ME is served first at the bank's next grant to it (R193). -/
  meAged : Bool
  deriving DecidableEq, Repr

/-- The scratchpad of a core with its gates, tags and remote accesses. -/
structure Spm where
  mem : Memory
  /-- Poisoned words, by offset ÷ 8 (R202). -/
  poison : NatSet
  gates : Vector Gate 16
  /-- The full tags (R217). -/
  tags : NatSet
  waits : List SlotWait
  /-- Tagged accesses served, with the data of a store, whose 64-B move is not yet performed (R220). -/
  moves : List (SlotWait × Payload)
  /-- The accesses on their way, in the order of leaving (R248), and behind them those answered, in the order of their
  answers (R295). -/
  remote : List Remote
  tagTimeout : Word
  scrub : Vector Scrubber 16
  /-- A refusal in no single gate, and one for a core of another job, are recorded since the last fettle (R207, R211). -/
  noGateRecorded : Bool
  otherJobRecorded : Bool
  /-- The rows that spare rows stand in for, by bank and row: the spare rows in use, in the order they were assigned (R197,
  R206). -/
  spares : List (Nat × Nat)
  deriving DecidableEq, Repr

/-! ### Vector engine -/

/-- The VE operations (Table 5-7). -/
inductive VeOpc
  | vld | vst | vldsr | vstsr | vlds2 | vlds3 | vlds4 | vsts2 | vsts3 | vsts4 | vmld | vmst | vbcast | vext | vmovi
  | vadd | vsub | vmul | vfma | vmin | vmax | vbit | vcmp | vmerge | vslide | vred | vmop | vwmul | vdot | vcvt
  | vfdiv | vfsqrt
  deriving DecidableEq, Repr

/-- A VE instruction in the queue or in flight, with what it took at issue (R126, R136). -/
structure VeOp where
  opc : VeOpc
  w : VeWord
  thread : Fin 4
  /-- The issue number across the core. -/
  seq : Nat
  /-- VLEN.LEN and VG.LOG at issue. -/
  vlen : Nat
  log : Nat
  /-- Start address and stride. -/
  x : Nat
  stride : Int
  deriving DecidableEq, Repr

/-- A place in an engine's issue queue (R61, R240, R241). -/
inductive VeEntry
  | insn (o : VeOp)
  | token (id : Nat)
  | wait (id : Nat) (thread : Fin 4)
  deriving DecidableEq, Repr

/-- The vector engine of a core. -/
structure Ve where
  /-- The bytes of V0 to V31, register n at 1,024 n. -/
  v : Memory
  m : Vector (BitVec 2048) 8
  /-- Poisoned 64-bit words of the vector registers, by byte ÷ 8, and of the masks, by 32 n + word. -/
  vpoison : NatSet
  mpoison : NatSet
  vlen : BitVec 12
  log : BitVec 2
  restr : Bool
  /-- An error of R152, or a failed test: the engine has not passed its tests since (R156). A core reset keeps it. -/
  failed : Bool
  ret : Bool
  waking : Bool
  q : List VeEntry
  run : List VeOp
  deriving DecidableEq, Repr

/-! ### Matrix engine -/

/-- The ME operations (Table 6-5). -/
inductive MeOpc | tld | tst | tlds | tsts | tzero | trelease | tmma | tmmas | gmv
  deriving DecidableEq, Repr

/-- An ME instruction in the queue or in flight, with what it took at issue (R167, R169). -/
structure MeOp where
  opc : MeOpc
  w : MeWord
  thread : Fin 4
  seq : Nat
  log : Nat
  x : Nat
  stride : Int
  dbase : Nat
  dstride : Int
  /-- M of TMMAS, R of GMV. -/
  rows : Nat
  /-- K of GMV. -/
  k : Nat
  sbase : Nat
  /-- The accumulator of a TMMA or TMMAS has a plane (R177). -/
  plane : Option (Fin 2)
  deriving DecidableEq, Repr

/-- A place in the ME queue. -/
inductive MeEntry
  | insn (o : MeOp)
  | token (id : Nat)
  | wait (id : Nat) (thread : Fin 4)
  deriving DecidableEq, Repr

/-- TCFGn (Table 6-1). -/
structure Tcfg where
  inuse : Bool
  scl : BitVec 2
  colm1 : BitVec 10
  rowm1 : BitVec 5
  fmt : BitVec 4
  deriving DecidableEq, Repr

/-- An operand-reuse latch of the array (R187): the tile and the index in its row of the 16-byte word it holds. -/
structure Latch where
  tile : Fin 8
  word : Nat
  deriving DecidableEq, Repr

/-- The matrix engine of a core. -/
structure Me where
  /-- The tile bytes, row r of Tn at 8,192 n + 256 r, and the sidecars, Tn at 512 n. -/
  tiles : Memory
  side : Memory
  tpoison : NatSet
  spoison : NatSet
  cfg : Vector Tcfg 8
  q : List MeEntry
  run : List MeOp
  /-- The tile resident in each accumulator plane (R177). -/
  planes : Vector (Option (Fin 8)) 2
  /-- Which plane was used last: `none` before any use (R177). -/
  lastPlane : Option (Fin 2)
  /-- The array is cold (R183). -/
  cold : Bool
  /-- The operand-reuse latches of A and of B, one for each operand row (R187). -/
  latchA : Vector (Option Latch) 32
  latchB : Vector (Option Latch) 32
  /-- The datapath found an error: the engine is to be tested again at the next fettle (R194). A core reset keeps it. -/
  retest : Bool
  /-- Data and sidecar banks in retention, by 5 n + bank (R185, R186). -/
  retained : NatSet
  deriving DecidableEq, Repr

/-! ### DMA engine and instruction cache -/

/-- A descriptor's fields (Table 9-2). -/
structure Desc where
  words : Vector Word 16
  deriving DecidableEq, Repr

/-- Where a descriptor's transfer stands: its next granule. -/
structure Cursor where
  i2 : Nat
  i1 : Nat
  off : Nat
  /-- The source and destination addresses of its row, once the row has begun (R261). -/
  row : Option (Nat × Nat)
  deriving DecidableEq, Repr

/-- What came back for one access of a granule (R265, R271, R331). -/
inductive GranuleOutcome
  /-- The data came, or the write was acknowledged. -/
  | ok
  | gate (target : CoreId)
  | otherJob
  | quarantine (target : CoreId)
  /-- A reduction met poison at its destination (R271). -/
  | ecc
  /-- A refusal over the links, and its reason (Table 11-11). -/
  | refused (reason : BitVec 8)
  | timeout (target : CoreId)
  deriving DecidableEq, Repr

/-- One segment that a granule reads, or the bytes that it writes (R265). -/
structure Part where
  /-- Its address in the space of Table 9-3. -/
  addr : Nat
  len : Nat
  /-- The address from which the link request that carries it asks (R330). -/
  base : Nat
  /-- The remote access or link request that carries it; none for an access of the core's own scratchpad or of external
  memory. -/
  key : Option Nat
  /-- What came back: `none` while it is outstanding. -/
  answer : Option (GranuleOutcome × Payload)
  deriving DecidableEq, Repr

/-- One granule awaiting its response (R265). -/
structure Granule where
  /-- The destination bytes of its row that it carries, from this offset on, and their address. -/
  off : Nat
  dst : Nat
  len : Nat
  reads : List Part
  /-- What it writes, once its reads have been performed, until its write is performed or leaves (R330, R365). -/
  data : Option Payload
  /-- The write that has left for another core or module. -/
  write : Option Part
  deriving DecidableEq, Repr

/-- One descriptor of a queue: read, perhaps started. -/
structure DescRun where
  /-- The number of its entry; a chain is one entry. -/
  entry : Nat
  off : Nat
  thread : Fin 4
  d : Desc
  started : Bool
  cur : Cursor
  allIssued : Bool
  grans : List Granule
  /-- The descriptor its NEXT names has been read (R258). -/
  chained : Bool
  /-- Converted bytes not yet written (R263). -/
  carry : List Byte
  /-- The bytes of its source space that it has overwritten, as they were before it started, own scratchpad or external
  memory, by address (R262). -/
  before : Table Byte
  /-- The descriptor faulted (R272). -/
  faulted : Bool
  /-- Its slot fill waits (R267). -/
  filling : Bool
  /-- Abandoned by RESUME or FLUSH, with granules still to return (R272). -/
  abandoned : Bool
  /-- The steps of R284 are done, of a CODELOAD. -/
  loaded : Bool
  deriving DecidableEq, Repr

/-- One DMA queue (R256, Table 9-7). -/
structure Dq where
  descs : List DescRun
  high : Bool
  halt : Bool
  done : Word
  errCode : BitVec 8
  errOpid : BitVec 4
  errAddr : BitVec 22
  errTag : Word
  deriving DecidableEq, Repr

/-- A miss of the instruction cache (R286): its line, the epoch current when its request left, and the threads that wait for
it. -/
structure IcMiss where
  line : Nat
  epoch : BitVec 16
  threads : BitVec 4
  deriving DecidableEq, Repr

/-- A place in the DE issue queue. -/
inductive DeEntry
  | denq (q : Fin 4) (r : DescRun)
  /-- ICINV of the whole cache or of a range, and the issue number it waits behind (R285). -/
  | icinv (id : Nat) (thread : Fin 4) (all : Bool) (first : Nat) (len : Nat) (seq : Nat)
  | icpf (way : Fin 4) (first : Nat) (len : Nat) (seq : Nat)
  | token (id : Nat)
  | wait (id : Nat) (thread : Fin 4)
  deriving DecidableEq, Repr

/-- One valid line of the instruction cache (R286). -/
structure IcLine where
  tag : Nat
  epoch : BitVec 16
  data : List Byte
  deriving DecidableEq, Repr

/-- The DMA engine and the instruction cache of a core. -/
structure De where
  q : Vector Dq 4
  issue : List DeEntry
  sgenValid : Vector Bool 4
  sgen : Vector (BitVec 8) 4
  /-- Valid lines, way w of set s at 128 w + s. -/
  ic : Table IcLine
  wdis : BitVec 4
  lock : BitVec 3
  icseed : BitVec 16
  icerr : Vector (BitVec 4) 4
  /-- The misses that wait for their line, oldest first (R286). -/
  misses : List IcMiss
  deriving DecidableEq, Repr

/-! ### Runners, events, ordering, debug -/

/-- One runner (R108, Table 4-5). -/
structure Runner where
  words : List DWord
  en : Bool
  send : BitVec 4
  recv : BitVec 4
  /-- The threads that wait to send, with the words they read at issue, and to receive, in order (R111). -/
  sendWait : List (Fin 4 × List DWord)
  recvWait : List (Fin 4)
  deriving DecidableEq, Repr

/-- The event counters, their timer and their waiters (R113 to R116). -/
structure Events where
  ev : Vector (BitVec 16) 32
  waiters : Vector (List (Fin 4)) 32
  ovf : Word
  tmrEn : Bool
  tmrEv : BitVec 5
  /-- The remaining ticks while the timer is not armed, and when it expires while it is. -/
  tmrCnt : Word
  tmrDue : Nat
  deriving DecidableEq, Repr

/-- An entry of the range tracker (R236). -/
structure Track where
  thread : Fin 4
  first : Nat
  last : Nat
  write : Bool
  /-- What it covers: the issue number of the instruction, or of the descriptor's entry. -/
  seq : Nat
  deriving DecidableEq, Repr

/-- A token marker that has not passed (R240). -/
structure TokenMark where
  id : Nat
  thread : Fin 4
  eng : BitVec 2
  /-- It follows every instruction of the thread with a smaller issue number. -/
  seq : Nat
  deriving DecidableEq, Repr

/-- A breakpoint (Table 17-11). -/
structure Breakpoint where
  addr : Word
  en : Bool
  halt : Bool
  trstop : Bool
  trstart : Bool
  threads : BitVec 4
  deriving DecidableEq, Repr

/-- A watchpoint (Table 17-11). -/
structure Watchpoint where
  base : BitVec 22
  limit : BitVec 22
  en : Bool
  rd : Bool
  wr : Bool
  threads : BitVec 4
  deriving DecidableEq, Repr

/-- The debug CSRs and the trace buffer of a core (R527, R528). -/
structure Debug where
  attached : Bool
  haltall : Bool
  xtrig : Bool
  trwrap : Bool
  tren : Bool
  stat : Vector (BitVec 4) 4
  pc : Vector Word 4
  bp : Vector Breakpoint 4
  wp : Vector Watchpoint 2
  trbase : BitVec 22
  trlimit : BitVec 22
  trptr : BitVec 22
  trlost : Word
  trsel : BitVec 7
  /-- Trace entries not yet written, each of four words. -/
  buf : List (Vector Word 4)
  /-- Another attached core of the job has stopped: this core's threads are to halt (R525). -/
  crossAsked : Bool
  deriving DecidableEq, Repr

/-- A link request that a queue sends (R340, R366). -/
structure LinkAsk where
  q : Fin 4
  key : Nat
  type : BitVec 4
  dmod : ModuleId
  pkg : Bool
  gen : Option (BitVec 8)
  subop : BitVec 3
  units : Nat
  addr : BitVec 40
  data : List Byte
  deriving DecidableEq, Repr

/-- What the core tells the rest of the module as it runs. -/
structure Outbox where
  posts : List Post
  /-- Answers to accesses of other cores: the core, the identifier there, the answer. -/
  answers : List (CoreId × Nat × RemoteAnswer)
  /-- A debug stop that is to reach other cores (R525). -/
  cross : Bool
  links : List LinkAsk
  deriving DecidableEq, Repr

/-- One core. [DESIGN CHOICE: log entry 6] -/
structure Core where
  threads : Vector Thread 4
  spm : Spm
  ve : Ve
  me : Me
  de : De
  runners : Vector Runner 8
  events : Events
  fpflags : BitVec 6
  streams : Vector Stream 6
  div : Option DivResult
  tracker : List Track
  marks : List TokenMark
  dbg : Debug
  /-- The core has been released since its reset (R64). -/
  released : Bool
  /-- The core is frozen (R120). -/
  frozen : Bool
  /-- The core has reported to the MP that it has finished (R107). -/
  finished : Bool
  phase : BitVec 8
  queued : Bool
  /-- The last value CYCLE gave, which it never goes below (R92). -/
  cycle : DWord
  /-- The threads of the two classes that issued last (R100). -/
  rot : Vector (Fin 4) 2
  /-- The next issue number and identifier. -/
  seq : Nat
  /-- The size of the job's code region (R283). -/
  codeSize : Nat
  /-- The core has arrived at a pour (R394). -/
  pourArrived : Bool
  out : Outbox
  deriving DecidableEq, Repr

/-! ### Reset values -/

def ExcRegs.reset : ExcRegs :=
  { sstep := false, prio := false, imprecise := false, exc := false, pend := false, cause := 0, opid := 0, eng := 0,
    target := 0, pc := 0, addr := 0, vec := 0 }

def Regs.reset : Regs :=
  { a := Vector.replicate 8 0, p := Vector.replicate 4 0, ls := Vector.replicate 4 0, le := Vector.replicate 4 0,
    lc := Vector.replicate 4 0, ldepth := 0, mh := 0, ml := 0, qot := 0, rem := 0, pc := 0, cycleHi := 0, timeHi := 0 }

/-- A thread after core reset, in the state R98 gives it. -/
def Thread.reset (st : ThState) : Thread :=
  { r := Regs.reset, x := ExcRegs.reset, st := st, stall := .none, last := 0, stopAsked := false, haltAsked := 0, muls := [],
    fps := [], arrived := [], held := none, tokens := Vector.replicate 8 [], stepped := false, pass := false }

def Stream.reset : Stream := { stochastic := false, seed := 1, rmax := 0, sat := 0 }

def Gate.reset : Gate :=
  { base := 0, limit := 0, mask := 0, mtch := 0, greq := false, tagged := false, link := false, cores := false,
    opened := false, closing := false, gen := 0, fcnt := 0, recorded := false }

def Scrubber.reset : Scrubber :=
  { row := 0, poisonNow := 0, poisonBefore := 0, correctedNow := [], correctedBefore := [], aged := false,
    writebacks := [], agedPorts := [], meAged := false }

/-- The scratchpad after core reset: every byte 0, every gate closed, every tag empty (R227). -/
def Spm.reset : Spm :=
  { mem := [], poison := [], gates := Vector.replicate 16 Gate.reset, tags := [], waits := [], moves := [],
    remote := [], tagTimeout := 0x000F4240, scrub := Vector.replicate 16 Scrubber.reset, noGateRecorded := false,
    otherJobRecorded := false, spares := [] }

def Ve.reset : Ve :=
  { v := [], m := Vector.replicate 8 0, vpoison := [], mpoison := [], vlen := 0x800, log := 0, restr := true, failed := false,
    ret := false, waking := false, q := [], run := [] }

def Tcfg.reset : Tcfg := { inuse := false, scl := 0, colm1 := 0, rowm1 := 0, fmt := 0xF }

def Me.reset : Me :=
  { tiles := [], side := [], tpoison := [], spoison := [], cfg := Vector.replicate 8 Tcfg.reset, q := [], run := [],
    planes := Vector.replicate 2 none, lastPlane := none, cold := true, latchA := Vector.replicate 32 none,
    latchB := Vector.replicate 32 none, retest := false, retained := [] }

def Dq.reset : Dq :=
  { descs := [], high := false, halt := false, done := 0, errCode := 0, errOpid := 0, errAddr := 0, errTag := 0 }

def De.reset : De :=
  { q := Vector.replicate 4 Dq.reset, issue := [], sgenValid := Vector.replicate 4 false,
    sgen := Vector.replicate 4 0, ic := [], wdis := 0, lock := 0, icseed := 1, icerr := Vector.replicate 4 0,
    misses := [] }

def Runner.reset : Runner := { words := [], en := true, send := 0xF, recv := 0xF, sendWait := [], recvWait := [] }

def Events.reset : Events :=
  { ev := Vector.replicate 32 0, waiters := Vector.replicate 32 [], ovf := 0, tmrEn := false, tmrEv := 0, tmrCnt := 0,
    tmrDue := 0 }

def Breakpoint.reset : Breakpoint :=
  { addr := 0, en := false, halt := false, trstop := false, trstart := false, threads := 0 }

def Watchpoint.reset : Watchpoint := { base := 0, limit := 0, en := false, rd := false, wr := false, threads := 0 }

def Debug.reset : Debug :=
  { attached := false, haltall := false, xtrig := false, trwrap := false, tren := false, stat := Vector.replicate 4 0,
    pc := Vector.replicate 4 0, bp := Vector.replicate 4 Breakpoint.reset, wp := Vector.replicate 2 Watchpoint.reset,
    trbase := 0, trlimit := 0, trptr := 0, trlost := 0, trsel := 0, buf := [], crossAsked := false }

def Outbox.empty : Outbox := { posts := [], answers := [], cross := false, links := [] }

/-- A core after core reset: held, thread 0 RUNNING, the others INACTIVE (R64, R98). [DESIGN CHOICE: log entry 10] -/
def Core.reset : Core :=
  { threads := #v[Thread.reset .running, Thread.reset .inactive, Thread.reset .inactive, Thread.reset .inactive],
    spm := Spm.reset, ve := Ve.reset, me := Me.reset, de := De.reset, runners := Vector.replicate 8 Runner.reset,
    events := Events.reset, fpflags := 0, streams := Vector.replicate 6 Stream.reset, div := none, tracker := [],
    marks := [], dbg := Debug.reset, released := false, frozen := false, finished := false, phase := 0,
    queued := false, cycle := 0, rot := Vector.replicate 2 0, seq := 0, codeSize := 0, pourArrived := false,
    out := Outbox.empty }

end Sys2Proof.Machine
end

