-- ==== Sys2Proof/Machine/LinkState.lean ====
section
/-! DEFINITION. The state outside the cores that carries traffic: the package fabric of each C-die with its code cache,
the 48 ports, the forwarding switch, the reduction contexts and the time base (chapters 9 to 12). -/

namespace Sys2Proof.Machine

/-! ### C-dies -/

/-- A line of the die code cache (R290); a line is its external address ÷ 128. -/
structure DccLine where
  line : Nat
  used : Bool
  data : List Byte
  deriving DecidableEq, Repr

/-- A victim offered to the die code cache (R287). -/
structure DccOffer where
  line : Nat
  /-- Bits [18:7] of its code address. -/
  set : Nat
  epoch : BitVec 16
  data : List Byte
  deriving DecidableEq, Repr

/-- One C-die: its factory retirements, fabric counters and code cache (Table 10-6, R290). Its core map and ledger
retirements belong to the configuration set. -/
structure Die where
  fret : NatSet
  chdis : Vector (BitVec 16) 4
  hdrerr : Word
  dcorr : Word
  dunc : Word
  retry : Word
  /-- When the replays of the last millisecond happened, by 16 × side + channel (R313). -/
  replays : Table (List Nat)
  /-- Lines of the code cache, way w of set s at 16 s + w, and its queue of offers. -/
  lines : Table DccLine
  offers : List DccOffer
  deriving DecidableEq, Repr

def Die.reset : Die :=
  { fret := [], chdis := Vector.replicate 4 0, hdrerr := 0, dcorr := 0, dunc := 0,
    retry := 0, replays := [], lines := [], offers := [] }

/-! ### Ports -/

/-- Table 11-5. -/
inductive PortState | disabled | down | training | active | retrain | failed
  deriving DecidableEq, Repr

/-- Table 11-4. -/
inductive LaneState | disabled | reset | detect | eq | align | soak | active | failed
  deriving DecidableEq, Repr

/-- One lane, receive direction (R321, R343, R345A). -/
structure Lane where
  st : LaneState
  symerr : BitVec 16
  /-- Failed EQ or ALIGN attempts in a row. -/
  fails : Nat
  /-- When it entered SOAK, and when it was removed as marginal in the last 24 hours. -/
  soakAt : Nat
  removals : List Nat
  heldOut : Bool
  /-- It was found marginal and is to be removed (R343). -/
  marginal : Bool
  /-- Corrected symbols of the 1 ms window so far, and code words in a row with more than 4 of them on this lane (R343). -/
  count : Nat
  run : Nat
  /-- The transmit filter of this end: its preset, and steps of 1/64 of full swing on c−1 and c+1 away from it (R319). -/
  preset : BitVec 4
  pre : Int
  post : Int
  deriving DecidableEq, Repr

/-- Who made a link request (R340). -/
inductive Requester
  /-- A granule of a queue, by the key of its request. -/
  | dma (core : CoreId) (q : Fin 4) (key : Nat)
  /-- The mirror engine: the line's mirror offset and SUBOP (R392). -/
  | mirror (offset : Nat) (subop : BitVec 3)
  /-- An adoption stream (R406). -/
  | adoption (offset : Nat)
  | reduction
  | management
  deriving DecidableEq, Repr

/-- A request tag in use (R340). -/
structure TagUse where
  who : Requester
  /-- When the request departed. -/
  sent : Nat
  msg : LinkMsg
  deriving DecidableEq, Repr

/-- A message that waits at a port: whether it crossed the grid (R355), how it came to the module and to which E-die, the
message as it came and who holds its tag, and the message as it will leave (R354, R358). -/
structure Queued where
  crossed : Bool
  edie : Fin 8
  came : Arrived
  base : LinkMsg
  who : Option Requester
  msg : LinkMsg
  deriving DecidableEq, Repr

/-- A control message that is due (Table 11-12). -/
inductive Control
  | heartbeat
  | widthReq (lanes : BitVec 8) (forced : Bool)
  | realign (lanes : BitVec 8)
  | switch (lanes : BitVec 8) (remain : BitVec 8)
  deriving DecidableEq, Repr

/-- A width request of this end's receiver that is not yet answered (R342, R344, R345). -/
structure WidthAsk where
  lanes : BitVec 8
  forced : Bool
  attempts : Nat
  /-- When it was last sent. -/
  at_ : Nat
  deriving DecidableEq, Repr

/-- A planned change that will come about at a frame boundary: of the receiver, or of the transmitter (R345). -/
structure WidthPlan where
  transmit : Bool
  lanes : BitVec 8
  /-- The request came within a frame that had begun: the first SWITCH belongs to the next one (R345). -/
  fresh : Bool
  /-- Frame boundaries that are still to come before the change, its own among them; none before the first SWITCH has been sent.
  With none left it is due. -/
  left : Option Nat
  deriving DecidableEq, Repr

/-- One port (Table 11-13 and R332 to R346). -/
structure Port where
  st : PortState
  /-- Its port settings as of the last training (R348): LANEEN. -/
  laneen : Byte
  rxLanes : BitVec 8
  txLanes : BitVec 8
  peer : Option (ModuleId × BitVec 6)
  hblim : Byte
  hbState : BitVec 4
  miss : BitVec 16
  reqtmo : BitVec 24
  mres : BitVec 12
  tagHwm : BitVec 13
  lthr : BitVec 16
  crcerr : Word
  replay : Word
  feccorr : Word
  fecunc : Word
  refrx : Word
  reftx : Word
  latersp : Word
  widthchg : Word
  lanes : Vector Lane 8
  /-- Transmitter: the next sequence number, the DATA flits not yet acknowledged, and the place of the next flit of a
  replay in progress. -/
  txSeq : BitVec 12
  kept : List Flit
  replayAt : Option Nat
  /-- The acknowledgement from which the replay in progress began. -/
  replayFrom : BitVec 12
  /-- The place of the next slot in its frame, whether the frame holds a CONTROL flit, and what the last slot carried. -/
  slot : Fin 5
  frameCtl : Bool
  txFlit : Option Flit
  /-- The scrambler, the flits of the frame in progress, and the two code words of the last whole frame (R316 to R318). -/
  scr : BitVec 58
  frame : List Flit
  words : List (List (BitVec 10))
  /-- A forced WIDTH_REQ that takes effect at the next frame boundary (R344). -/
  forcedTx : Option (BitVec 8)
  /-- Receiver: the place of the next flit in its frame, whether the last code word was uncorrectable, and how many in a row were. -/
  rxSlot : Fin 5
  wordBad : Bool
  badWords : Nat
  /-- When an acknowledgement last advanced, and replays since. -/
  ackAt : Nat
  stuck : Nat
  /-- Receiver: the number expected, whether one was accepted, whether a NAK is due, and since when one is outstanding. -/
  rxSeq : BitVec 12
  accepted : Bool
  nakDue : Bool
  nakAt : Option Nat
  /-- Credits of the five pools, the counts last received for them, and this receiver's own counts of freed units. -/
  credits : Vector Nat 5
  crnSeen : Vector (BitVec 13) 5
  freed : Vector (BitVec 13) 5
  crNext : Fin 5
  /-- Units of a message of which more are to come, and messages received and not yet passed on. -/
  partUnits : List (BitVec 128)
  rxMsgs : List LinkMsg
  /-- Messages that wait for transmission, by virtual channel; units of a message in progress; and the channel that
  started last. -/
  txMsgs : Vector (List Queued) 4
  txUnits : List (BitVec 128)
  vcLast : Fin 4
  /-- Mirror tokens, in 1/200 of a unit. -/
  tokens : Nat
  control : List Control
  hbseq : Word
  hbAt : Nat
  /-- Tags in use, and tags freed by timeout with the time of it. -/
  tags : Table TagUse
  cooling : Table Nat
  ask : Option WidthAsk
  plan : List WidthPlan
  /-- A trigger of R324 has come about. -/
  retrainDue : Bool
  /-- Retrains that failed in a row, and when the last began. -/
  retrains : Nat
  retrainAt : Nat
  deriving DecidableEq, Repr

def Lane.reset : Lane :=
  { st := .disabled, symerr := 0, fails := 0, soakAt := 0, removals := [], heldOut := false, marginal := false, count := 0, run := 0,
    preset := 0, pre := 0, post := 0 }

/-- Units of the five pools (R335): the reserved pool of each channel, and the shared pool. -/
def poolSizes : Vector Nat 5 := #v[2048, 2048, 2048, 2048, 24576]

def Port.reset : Port :=
  { st := .disabled, laneen := 0xFF, rxLanes := 0, txLanes := 0, peer := none, hblim := 0x0A,
    hbState := 0, miss := 0, reqtmo := 0x0186A0, mres := 0x200, tagHwm := 0, lthr := 0x4000, crcerr := 0, replay := 0,
    feccorr := 0, fecunc := 0, refrx := 0, reftx := 0, latersp := 0, widthchg := 0, lanes := Vector.replicate 8 Lane.reset,
    txSeq := 0, kept := [], replayAt := none, replayFrom := 0, slot := 0, frameCtl := false, txFlit := none, scr := 0, frame := [], words := [],
    forcedTx := none, rxSlot := 0, wordBad := false, badWords := 0, ackAt := 0, stuck := 0, rxSeq := 0, accepted := false, nakDue := false,
    nakAt := none, credits := poolSizes, crnSeen := Vector.replicate 5 0, freed := Vector.replicate 5 0, crNext := 0,
    partUnits := [], rxMsgs := [], txMsgs := Vector.replicate 4 [], txUnits := [], vcLast := 3, tokens := 0, control := [],
    hbseq := 0, hbAt := 0, tags := [], cooling := [], ask := none, plan := [], retrainDue := false, retrains := 0, retrainAt := 0 }

/-! ### Switch -/

/-- One copy of the routing table, with its relocation list (Tables 12-5 and 13-6). -/
structure RouteTable where
  /-- Masks of 48 ports toward each group. -/
  minimal : Table Nat
  nonMinimal : Table Nat
  /-- RT_LOCj, RT_PORTp and RT_RELOCr as their registers. -/
  loc : Vector Word 32
  roles : Vector Word 48
  self : ModuleId
  xpen : BitVec 16
  nmthr : BitVec 16
  grace : BitVec 16
  reloc : Vector Word 16
  deriving DecidableEq, Repr

def RouteTable.reset : RouteTable :=
  { minimal := [], nonMinimal := [], loc := Vector.replicate 32 0, roles := Vector.replicate 48 0, self := 0, xpen := 64,
    nmthr := 256, grace := 1000, reloc := Vector.replicate 16 0 }

/-- A message of this module's own that waits for its first hop, at an E-die's switch (R354, R340). -/
structure Outgoing where
  edie : Fin 8
  msg : LinkMsg
  /-- Who takes a tag for it; none for a posted message or a response. -/
  who : Option Requester
  deriving DecidableEq, Repr

/-- The forwarding switches of the module. -/
structure Switch where
  /-- EP of the active copy (R360). -/
  ep : Bool
  /-- The previous copy, while its grace period runs (R360), and when the last swap of a routing table was made. -/
  previous : Option RouteTable
  swapAt : Option Nat
  noroute : Word
  nmcnt : Word
  mgmtdrop : Word
  /-- The port each E-die's switch chose last (R357). -/
  lastPort : Vector (Fin 48) 8
  /-- Messages that wait to cross the grid: from which E-die, the port chosen, and the message (R355). -/
  crossing : List (Fin 8 × Fin 48 × Queued)
  /-- Messages whose port has left ACTIVE and that are to be chosen a port again (R358). -/
  again : List (Fin 8 × Arrived × LinkMsg)
  waiting : List Outgoing
  deriving DecidableEq, Repr

def Switch.reset : Switch :=
  { ep := false, previous := none, swapAt := none, noroute := 0, nmcnt := 0, mgmtdrop := 0, lastPort := Vector.replicate 8 47,
    crossing := [], again := [], waiting := [] }

/-! ### Reduction -/

/-- A contribution to a reduction: where its answer goes, and its 256 bytes. -/
structure Contribution where
  pos : Nat
  smod : ModuleId
  tag : BitVec 12
  sport : BitVec 6
  line : Nat
  data : List Byte
  deriving DecidableEq, Repr

/-- An open round of a line. -/
structure Round where
  line : Nat
  opened : Nat
  parts : List Contribution
  deriving DecidableEq, Repr

/-- A reduction context (Table 12-7). -/
structure RedCtx where
  en : Bool
  pkg : Bool
  fmt : BitVec 2
  nm1 : BitVec 5
  wbase : Word
  wlimit : Word
  spbase : Word
  spsize : Word
  rltmo : BitVec 24
  /-- RCONi as its register. -/
  con : Vector Word 32
  fbcnt : Word
  rounds : List Round
  spill : List Contribution
  /-- Its engine has stopped taking contributions for want of spill space (R371). -/
  halted : Bool
  /-- The job whose image set it. -/
  job : Nat
  deriving DecidableEq, Repr

def RedCtx.reset : RedCtx :=
  { en := false, pkg := false, fmt := 0, nm1 := 0, wbase := 0, wlimit := 0, spbase := 0, spsize := 0, rltmo := 0x002710,
    con := Vector.replicate 32 0, fbcnt := 0, rounds := [], spill := [], halted := false, job := 0 }

/-! ### Time -/

/-- The time-sync status and what a follower keeps of its exchanges (R377, R378, Table 12-11); its settings belong to
the configuration set. -/
structure TimeSync where
  locked : Bool
  hold : Bool
  lost : Byte
  ofs : Word
  delay : Word
  rate : Word
  /-- The rate that the follower has learned: the last in force while no job was loaded (R378). -/
  learned : Word
  /-- Delays of the last 64 exchanges, newest first. -/
  delays : List Nat
  t1 : DWord
  t2 : DWord
  t3 : DWord
  seq : Word
  /-- An exchange has begun and its DELAY_RESP has not come. -/
  waiting : Bool
  /-- A SYNC has come since the last exchange was due (R380). -/
  synced : Bool
  inRun : Nat
  outRun : Nat
  /-- The sequence number this module last sent as a parent. -/
  sent : Word
  deriving DecidableEq, Repr

def TimeSync.reset : TimeSync :=
  { locked := false, hold := false, lost := 0, ofs := 0, delay := 0, rate := 0, learned := 0, delays := [], t1 := 0,
    t2 := 0, t3 := 0, seq := 0, waiting := false, synced := false, inRun := 0, outRun := 0, sent := 0 }

end Sys2Proof.Machine
end

