-- ==== Sys2Proof/Machine/ConfigState.lean ====
section
/-! DEFINITION. The configuration set (R466, Table 15-8): the items of which the module holds an active and a shadow
copy, with the defaults that the blocks name. -/

namespace Sys2Proof.Machine

/-- The settings of one port (Table 11-13): PCTL.EN, LANEEN and MSHARE, and TXPRE of each lane. -/
structure PortCfg where
  en : Bool
  laneen : Byte
  mshare : Byte
  txpre : Vector (BitVec 4) 8
  deriving DecidableEq, Repr

/-- The core map of one C-die (Table 10-6): for each logical index its physical position, with retired positions. -/
structure CoreMap where
  /-- Valid entries: logical index, and the position row × 16 + column. -/
  remap : Table Nat
  /-- Positions that invalid entries hold, where they are not 0 (PROW and PCOL with VALID 0). -/
  off : Table Nat
  cret : NatSet
  nret : NatSet
  deriving DecidableEq, Repr

/-- The flask binding (Table 13-10): sizes and bases in units of 64 KiB. -/
structure FlaskBind where
  en : Bool
  partner : ModuleId
  cap : BitVec 23
  undo : BitVec 23
  store : BitVec 24
  undoArea : BitVec 24
  rbArea : BitVec 24
  deriving DecidableEq, Repr

/-- One configuration set. -/
structure ConfigSet where
  clkplan : Word
  pcap : Word
  route : RouteTable
  /-- Core maps that differ from the map without retirements, by C-die. -/
  maps : Table CoreMap
  ports : Vector PortCfg 48
  bind : FlaskBind
  role : BitVec 2
  pport : BitVec 6
  tasym : Vector (BitVec 16) 48
  mgfm : Word
  anchor : Bool
  deriving DecidableEq, Repr

def PortCfg.default : PortCfg := { en := false, laneen := 0xFF, mshare := 0x1E, txpre := Vector.replicate 8 0 }

/-- The map of `n` cores with no retirement: index i at position i (R305). -/
def CoreMap.raster (n : Nat) : CoreMap := { remap := (List.range n).map (fun i => (i, i)), off := [], cret := [], nret := [] }

def FlaskBind.unbound : FlaskBind := { en := false, partner := 0, cap := 0, undo := 0, store := 0, undoArea := 0, rbArea := 0 }

/-- The defaults of Tables 14-2 and 14-9: fixed frequency at 1.9 GHz, boost allowed, spread 0.5 %, ramp 48, power-down
enabled, HBM at 10.0 Gb/s, ceiling 2,200 MHz. -/
def clkDefault : Word := BitVec.ofNat 32 (2 * 2 ^ 29 + 2 ^ 28 + 2 * 2 ^ 26 + 2 ^ 24 + 2 ^ 23 + 2 * 2 ^ 21 + 2200)

/-- 10 s and 4,500 W (R420). -/
def pcapDefault : Word := BitVec.ofNat 32 (10 * 65536 + 4500)

/-- A set with every item at its default. -/
def ConfigSet.default : ConfigSet :=
  { clkplan := clkDefault, pcap := pcapDefault, route := RouteTable.reset, maps := [],
    ports := Vector.replicate 48 PortCfg.default, bind := FlaskBind.unbound, role := 0, pport := 0,
    tasym := Vector.replicate 48 0, mgfm := 0, anchor := false }

/-- The core map of C-die `d` of a module with `n` logical cores a die. -/
def ConfigSet.map (c : ConfigSet) (n d : Nat) : CoreMap := tget c.maps (CoreMap.raster n) d

end Sys2Proof.Machine
end

