-- ==== Sys2Proof/Machine/MgmtState.lean ====
section
/-! DEFINITION. The state of the management pair: mailboxes, the host interface, the job table, pending configuration
swaps and the error log (chapters 15 and 17). -/

namespace Sys2Proof.Machine

/-- An entry of the error log or a notice (Table 17-3). -/
structure Record where
  idx : Word
  notice : Bool
  sev : BitVec 2
  job : BitVec 4
  cause : BitVec 16
  die : BitVec 6
  unit : BitVec 5
  pos : BitVec 9
  sub : BitVec 4
  core : Option CoreId
  time : DWord
  addr : DWord
  boot : BitVec 16
  rep : BitVec 16
  detail : List Word
  deriving DecidableEq, Repr

/-- The window of corrected records of one unit instance (R516): its die, unit and position, when it began, and the
records logged in it. -/
structure CorrWindow where
  die : BitVec 6
  unit : BitVec 5
  pos : BitVec 9
  start : Nat
  count : Nat
  /-- The same for events of the hour (R517), and whether CORR_RATE has been posted in it. -/
  hourStart : Nat
  hourCount : Nat
  rated : Bool
  deriving DecidableEq, Repr

/-- What the MP keeps of records (R514, R516, R517, R519, R520). -/
structure ErrLog where
  /-- Entries held, oldest first, at most 65,536. -/
  log : List Record
  next : Word
  /-- The last 256 fatal entries, oldest first. -/
  persistent : List Record
  /-- When the last record was logged. -/
  lastAt : Nat
  windows : List CorrWindow
  /-- Records since reset by severity, corrected first. -/
  counts : Vector Nat 4
  /-- Deferred records of one core in the last 24 h: its number and their times (R517). -/
  coreDeferred : Table (List Nat)
  /-- Cores recorded as retirement candidates, by package position 272 d + p. -/
  candidates : NatSet
  /-- Routers recorded as candidates for retirement as nodes (R313). -/
  nodeCandidates : NatSet
  deriving DecidableEq, Repr

/-- Table 15-9. -/
inductive JobState | none | loaded | running | finished | faulted | killed
  deriving DecidableEq, Repr

/-- A job of the module (R472, R477, R497 to R501). -/
structure Job where
  st : JobState
  owners : BitVec 8
  capture : Bool
  debug : Bool
  codeBase : Nat
  codeSize : Nat
  wins : List WindowReq
  /-- Its cores: number, QUEUED, and entry PC. -/
  cores : List (CoreId × Bool × Word)
  peers : List ModuleId
  digest : BitVec 384
  firstFatal : Word
  /-- A restored or adopted pour from which JOB_START may resume (R407). -/
  resumable : Option Word
  /-- SEQ of the JOB_KILL, when its quarantine came into force, and whether its capture is done (R497, R500). -/
  killSeq : Word
  inForce : Option Nat
  captured : Bool
  /-- Only the capture window remains (R501). -/
  hold : Bool
  /-- The ports that were ACTIVE when the job started (R400). -/
  ports : NatSet
  deriving DecidableEq, Repr

/-- MBSTATE (Table 15-4). -/
inductive MbState | free | queued | running | done
  deriving DecidableEq, Repr

/-- A mailbox with the snapshot of its request (R450, R453 to R455). -/
structure Mailbox where
  st : MbState
  /-- The words that the master has written, by offset ÷ 4: the fields marked RW and the request payload (Table 15-5). -/
  area : Table Nat
  ver : Byte
  opc : BitVec 16
  rid : Word
  job : Byte
  tlim : BitVec 16
  payload : List Byte
  /-- Of a JOB_LOAD: the cores that its image names. -/
  cores : List CoreId
  /-- The command has begun to execute and waits (R465). -/
  begun : Bool
  seq : Word
  arrival : Nat
  /-- Through which host interface its last doorbell came. -/
  hi : Fin 2
  status : Byte
  detail : Word
  rdcnt : BitVec 16
  rsp : List Byte
  elapsed : Word
  deriving DecidableEq, Repr

/-- Fragments of a REQUEST that is not yet complete (R456). -/
structure Fragments where
  rid : Word
  nfrag : Nat
  parts : Table (List Byte)
  at_ : Nat
  deriving DecidableEq, Repr

/-- BAR0 registers and rings (Table 15-4), outside the mailboxes. [DESIGN CHOICE: log entry 78] -/
structure HostIf where
  mbdone : Byte
  mbien : Byte
  dberr : Byte
  evwp : BitVec 10
  evrp : BitVec 10
  evIen : Bool
  evNotice : Bool
  evMin : BitVec 2
  evlost : Word
  /-- Event ring entries by index. -/
  ring : Table Record
  b2base : BitVec 10
  b2err : Word
  /-- A refusal since B2BASE was last written has been recorded (R452). -/
  b2recorded : Bool
  txbuf : List Byte
  txbusy : Bool
  txrej : BitVec 2
  rxwp : BitVec 12
  rxrp : BitVec 12
  rx : Table LinkMsg
  timeHi : Word
  /-- MSI-X vectors signalled and not yet taken: the interface and the vector (R448). -/
  msix : List (Fin 2 × Nat)
  /-- The words of each interface's MSI-X table, by offset ÷ 4 (Table 15-3). -/
  msixTable : Vector (Table Nat) 2
  /-- Writes through BAR2 that wait for a commit to free the rollback area, oldest first (R389). -/
  b2held : List (Nat × List Byte)
  /-- What the last BAR2 read returned. -/
  b2read : List Byte
  /-- What the last read of a word of BAR0 returned. -/
  bar0 : Word
  deriving DecidableEq, Repr

/-- A CFG_SWAP_AT that waits for its time (R470). -/
structure PendingSwap where
  time : Nat
  src : Source
  seq : Word
  deriving DecidableEq, Repr

/-- A resource that a command claims (Table 15-10). -/
inductive Claim
  | all | jobTable
  | job (n : Nat)
  | shadow | items | power | clock | phases | binding
  | port (p : Nat)
  | ledger (die : Nat)
  | repairs | log | firmware
  | core (id : Nat)
  /-- A package position that no core of a job number stands at. -/
  | position (q : Nat)
  /-- External bytes from one address up to another. -/
  | region (lo hi : Nat)
  | channel (p : Nat)
  | time
  deriving DecidableEq, Repr

/-- A fettle in progress (R502): of a job, of all external memory, or of the module. -/
inductive FettleScope
  | job (n : Nat)
  | hold (n : Nat)
  | hbm
  | whole
  /-- The mirror store and undo area held for a partner whose job was killed (R499). -/
  | store
  deriving DecidableEq, Repr

/-- What follows a fettle of the module: a transition of the life cycle (R492), or a change of the unlock level (R496). -/
inductive FettleAct
  | none
  | deploy (owner : BitVec 384)
  | rma
  | decommission
  | level (n : BitVec 2)
  deriving DecidableEq, Repr

/-- What a finished fettle completes. -/
structure FettleRun where
  scope : FettleScope
  src : Option Source
  act : FettleAct := FettleAct.none
  deriving DecidableEq, Repr

/-- The management pair and what it keeps (R440 to R446). [DESIGN CHOICE: log entry 110] -/
structure Mp where
  activeB : Bool
  standbyLost : Bool
  /-- MP-A and MP-B held in management reset. -/
  heldA : Bool
  heldB : Bool
  /-- When each processor last heard the other's heartbeat: MP-A's view, MP-B's view. -/
  heardA : Nat
  heardB : Nat
  /-- When the heartbeat word was last refreshed, and the MSTATE it holds (R346). -/
  wordAt : Nat
  wordState : BitVec 4
  ready : Bool
  needRet : Bool
  /-- A record of severity fatal-to-module was posted. -/
  fatal : Bool
  takeovers : Word
  seqLast : Word
  /-- Arrivals and conflicts before this moment have been arbitrated. -/
  tick : Nat
  /-- The processor's own safety actions, each with the number of its tick and what it claims (R447, R460). -/
  safety : List (Nat × Claim)
  jobs : Vector Job 8
  swap : Option PendingSwap
  fettles : List FettleRun
  /-- Reset 100 ms after a command (R488, R492): when it is due. -/
  resetAt : Option Nat
  /-- Results for a fabric manager or the BMC: RESULT fragments and notices are sent as messages; the BMC's replies and
  events wait here. -/
  bmcOut : List (List Byte)
  /-- Field retirement ledger by package position, with the kinds; readmitted positions; positions that passed a
  DIAG_RUN since their retirement (R304, R307). -/
  retiredCores : NatSet
  retiredNodes : NatSet
  passed : NatSet
  /-- A die lacks risers (R308). -/
  noRisers : NatSet
  /-- Repair ledgers (R205, R280): pending and listed. -/
  repairs : List RepairEntry
  /-- Firmware is being activated (R446). -/
  activating : Bool
  deriving DecidableEq, Repr

def ErrLog.reset : ErrLog :=
  { log := [], next := 0, persistent := [], lastAt := 0, windows := [], counts := Vector.replicate 4 0, coreDeferred := [],
    candidates := [], nodeCandidates := [] }

def Job.blank : Job :=
  { st := .none, owners := 0, capture := false, debug := false, codeBase := 0, codeSize := 0, wins := [], cores := [],
    peers := [], digest := 0, firstFatal := 0xFFFFFFFF, resumable := none, killSeq := 0, inForce := none,
    captured := false, hold := false, ports := [] }

def Mailbox.reset : Mailbox :=
  { st := .free, area := [], ver := 0, opc := 0, rid := 0, job := 0, tlim := 0, payload := [], cores := [], begun := false, seq := 0, arrival := 0, hi := 0,
    status := 0, detail := 0, rdcnt := 0, rsp := [], elapsed := 0 }

def HostIf.reset : HostIf :=
  { mbdone := 0, mbien := 0, dberr := 0, evwp := 0, evrp := 0, evIen := false, evNotice := true, evMin := 0, evlost := 0,
    ring := [], b2base := 0, b2err := 0, b2recorded := false, txbuf := [], txbusy := false, txrej := 0, rxwp := 0, rxrp := 0,
    rx := [], timeHi := 0, msix := [], msixTable := Vector.replicate 2 [], b2held := [], b2read := [], bar0 := 0 }

def Mp.reset : Mp :=
  { activeB := false, standbyLost := false, heldA := false, heldB := false, heardA := 0, heardB := 0, wordAt := 0,
    wordState := 0, ready := false, needRet := false, fatal := false, takeovers := 0, seqLast := 0, tick := 0, safety := [],
    jobs := Vector.replicate 8 Job.blank, swap := none, fettles := [], resetAt := none, bmcOut := [], retiredCores := [],
    retiredNodes := [], passed := [], noRisers := [], repairs := [], activating := false }

end Sys2Proof.Machine
end

