-- ==== Sys2Proof/Machine/Ops.lean ====
section
/-! DEFINITION. The named operations on one core that every family shares: threads, the program counter with its
loops, the scratchpad with its poison, records, traces, and taking an exception and returning from one. -/

namespace Sys2Proof.Machine

/-- What a core's step may know of the module around it. -/
structure Env where
  id : CoreId
  now : Nat
  fresh : Nat
  spmSize : Nat
  /-- Logical cores of one C-die (R2, R5). -/
  perDie : Nat
  /-- Some partner is bound, and its module number (R243). -/
  partner : Option ModuleId
  /-- This module's number (R351). -/
  self : ModuleId
  /-- The job of the core (R472). -/
  job : Option Job
  /-- The clock plan lets an idle VE power down (R157). -/
  vepd : Bool
  /-- The core's job has a pour policy (R394). -/
  pours : Bool
  deriving DecidableEq, Repr

/-- A CORE_ID names a core of the module (R5). -/
def Env.assigned (e : Env) (id : CoreId) : Bool := decide (id.toNat % 256 < e.perDie)

/-! ### Threads -/

/-- Thread `t`. -/
def Core.th (c : Core) (t : Fin 4) : Thread := c.threads[t]

/-- The core with thread `t` changed. -/
def Core.mapTh (c : Core) (t : Fin 4) (f : Thread → Thread) : Core :=
  { c with threads := c.threads.set t (f c.threads[t]) }

/-- The core with the registers of thread `t` changed. -/
def Core.mapR (c : Core) (t : Fin 4) (f : Regs → Regs) : Core := c.mapTh t (fun h => { h with r := f h.r })

/-- The core with STATUS and the exception registers of thread `t` changed. -/
def Core.mapX (c : Core) (t : Fin 4) (f : ExcRegs → ExcRegs) : Core := c.mapTh t (fun h => { h with x := f h.x })

/-- Every thread has property `p`. -/
def Core.allTh (c : Core) (p : Thread → Bool) : Bool := c.threads.all p

/-- The code of a thread state (Table 4-1). -/
def ThState.code : ThState → Nat
  | .inactive => 0 | .running => 1 | .waiting => 2 | .stopped => 3 | .halted => 4 | .faulted => 5

/-- STATUS as its register (Table 3-12). -/
def ExcRegs.status (x : ExcRegs) : Word :=
  BitVec.ofNat 32 (b2n x.sstep * 16 + b2n x.prio * 8 + b2n x.imprecise * 4 + b2n x.exc * 2 + b2n x.pend)

/-- EXC_DETAIL as its register (Table 3-12). -/
def ExcRegs.detail (x : ExcRegs) : Word :=
  BitVec.ofNat 32 (x.opid.toNat * 2 ^ 28 + x.eng.toNat * 2 ^ 25 + x.target.toNat)

/-- The CYCLE counter as a read finds it: its last value, and from the core's release on a value that never falls (R64,
R92); a core that is no longer released keeps its count. [DESIGN CHOICE: log entry 16] -/
def Core.cycleNow (e : Env) (c : Core) : DWord :=
  if c.released then c.cycle + BitVec.ofNat 64 (Config.islandCycles e.fresh) else c.cycle

/-- The core issues nothing more, and its count stands. -/
def Core.halted (e : Env) (c : Core) : Core := { c with released := false, cycle := c.cycleNow e }

/-! ### Trace and records -/

/-- An event of kind `type` enters the trace, when a session is attached, TREN is set and TRSEL selects it (R528). An
event that finds 64 entries buffered is counted in TRLOST. -/
def Core.trace (e : Env) (sel : Nat) (type : Nat) (t : Fin 4) (detail pc w2 : Nat) (c : Core) : Core :=
  if c.dbg.attached && c.dbg.tren && c.dbg.trsel.getLsbD sel then
    if c.dbg.buf.length < 64 then
      { c with dbg := { c.dbg with buf := c.dbg.buf ++ [#v[BitVec.ofNat 32 (type * 2 ^ 28 + t.val * 2 ^ 26 + detail),
          BitVec.ofNat 32 pc, BitVec.ofNat 32 w2, BitVec.ofNat 32 e.now]] } }
    else { c with dbg := { c.dbg with trlost := c.dbg.trlost + 1 } }
  else c

/-- A sync entry (R528), written whatever TRSEL selects. -/
def Core.traceSync (e : Env) (c : Core) : Core :=
  if c.dbg.attached && c.dbg.tren then
    if c.dbg.buf.length < 64 then
      { c with dbg := { c.dbg with buf := c.dbg.buf ++ [#v[0, 0, BitVec.ofNat 32 (e.now / 2 ^ 32), BitVec.ofNat 32 e.now]] } }
    else { c with dbg := { c.dbg with trlost := c.dbg.trlost + 1 } }
  else c

/-- A record leaves the core for the MP (R514). -/
def Core.post (p : Post) (c : Core) : Core := { c with out := { c.out with posts := c.out.posts ++ [p] } }

/-- A plain record with no detail. -/
def plainPost (sev : BitVec 2) (cause : BitVec 16) (unit : BitVec 5) (sub : BitVec 4) (addr : Nat)
    (detail : List Word) : Post :=
  { sev := sev, cause := cause, unit := unit, sub := sub, addr := BitVec.ofNat 64 addr, detail := detail,
    coreFault := false, frozen := false }

/-- The thread enters a state of Table 4-1; the change is traced (R528). -/
def Core.setSt (e : Env) (t : Fin 4) (st : ThState) (c : Core) : Core :=
  ((c.mapTh t (fun h => { h with st := st })).trace e 5 8 t st.code (c.th t).r.pc.toNat 0)

/-! ### Multiplier and divider -/

/-- Set flags of FPFLAGS; a flag set stays set (R38). -/
def Core.flag (f : BitVec 6) (c : Core) : Core := { c with fpflags := c.fpflags ||| f }

/-- Every product of thread `t` in flight reaches MH and ML, in issue order (R86, R87). -/
def Core.flushMul (t : Fin 4) (c : Core) : Core :=
  c.mapTh t (fun h => { h with
    r := h.muls.foldl (fun r m => { r with mh := m.1, ml := m.2 }) h.r
    muls := [] })

/-- The divider's result, when it is thread `t`'s, reaches QOT and REM (R85, R87). -/
def Core.flushDiv (t : Fin 4) (c : Core) : Core :=
  match c.div with
  | some d =>
    if d.thread = t then
      ({ c with div := none }.mapR t (fun r => { r with qot := d.qot, rem := d.rem })).flag d.flags
    else c
  | none => c

/-- MUL, DIV and FSQRT results of thread `t` are written (R87). -/
def Core.flushLate (t : Fin 4) (c : Core) : Core := (c.flushMul t).flushDiv t

/-! ### Exceptions -/

/-- Handleable causes (Table 3-13). BREAKPOINT is one when no debug session is attached. -/
def handleable (cause : BitVec 8) : Bool :=
  cause != 0x09 && cause != 0x0A && cause != 0x0B && cause != 0x0E && cause != 0x10

/-- The thread records an exception (R93). -/
def ExcRegs.record (x : ExcRegs) (ex : Exc) (pc : Word) : ExcRegs :=
  { x with cause := ex.cause, opid := ex.opid, eng := ex.eng, target := ex.target, addr := ex.addr, pc := pc }

/-- The thread stops under R93: it is FAULTED and the core posts a record of severity fatal-to-job. -/
def Core.faultStop (e : Env) (t : Fin 4) (ex : Exc) (c : Core) : Core :=
  let x := (c.th t).x
  ((c.setSt e t .faulted).mapTh t (fun h => { h with stall := .none })).post
    { sev := 2, cause := ex.cause.setWidth 16, unit := ex.unit, sub := BitVec.ofNat 4 t.val,
      addr := ex.addr.setWidth 64, detail := [x.cause.setWidth 32, x.detail, x.pc, x.addr, x.status],
      coreFault := true, frozen := false }

/-- TAKING AN EXCEPTION (R93, R95 to R97). EXC_CAUSE, EXC_DETAIL, EXC_ADDR and EXC_PC are recorded, with EXC_PC the
thread's program counter: the faulting instruction of a precise one, the next instruction of an imprecise one. The
results of earlier MUL, DIV and FSQRT are written first (R87). A handleable cause with EXC_VEC.EN 1 and STATUS.EXC 0
sets STATUS.EXC and continues at EXC_VEC.HANDLER; otherwise the thread stops. Of an imprecise one STATUS.IMPRECISE is set
either way (R96). [DESIGN CHOICE: log entry 144] -/
def Core.takeExc (e : Env) (t : Fin 4) (ex : Exc) (imprecise : Bool) (c : Core) : Core :=
  let c := c.flushLate t
  let h := c.th t
  let pc := h.r.pc
  let c := c.mapX t (fun x => x.record ex pc)
  if handleable ex.cause && h.x.vec.getLsbD 0 && !h.x.exc then
    let hd := h.x.vec &&& 0xFFFFFFFC
    ((c.mapX t (fun x => { x with exc := true, imprecise := imprecise })).mapR t (fun r => { r with pc := hd })).trace e 1 2 t
      ex.cause.toNat pc.toNat hd.toNat
  else (c.mapX t (fun x => { x with imprecise := x.imprecise || imprecise })).faultStop e t ex

/-- A precise exception of an SE instruction with an operand and an address (Table 3-12). -/
def exc (cause : BitVec 8) (opid : BitVec 4) (eng : BitVec 3) (addr : Nat) : Exc :=
  { cause := cause, opid := opid, eng := eng, target := 0, addr := BitVec.ofNat 32 addr,
    unit := eng.setWidth 5 }

/-- An imprecise exception reaches its thread and waits to be delivered (R96). [DESIGN CHOICE: log entry 120] -/
def Core.arrive (t : Fin 4) (ex : Exc) (c : Core) : Core :=
  c.mapTh t (fun h => { h with arrived := h.arrived ++ [ex] })

/-- The exception of a list that R94 records: the lowest cause, and of equals the first. -/
def lowestExc : List Exc → Option Exc
  | [] => none
  | x :: xs =>
    match lowestExc xs with
    | none => some x
    | some y => if y.cause < x.cause then some y else some x

/-! ### Program counter and loops -/

/-- The levels whose end is `next` decide, from the innermost outward (R89): one with a count above 1 goes back to its
start, one without ends. -/
def loopBack (next : Word) : Nat → Regs → Regs
  | 0, r => { r with ldepth := 0, pc := next }
  | n + 1, r =>
    let i := Fin.ofNat 4 n
    if r.le[i] = next then
      if 1 < r.lc[i].toNat then { r with ldepth := BitVec.ofNat 3 (n + 1), lc := r.lc.set i (r.lc[i] - 1), pc := r.ls[i] }
      else loopBack next n { r with lc := r.lc.set i 0 }
    else { r with ldepth := BitVec.ofNat 3 (n + 1), pc := next }

/-- An instruction of `bytes` bytes completes without a taken branch: the program counter moves to its successor, or
back to a loop's start (R89). -/
def Regs.advance (r : Regs) (bytes : Nat) : Regs :=
  loopBack (r.pc + BitVec.ofNat 32 bytes) r.ldepth.toNat r

/-- The bytes of an instruction whose LEN field is `len` (Table 3-4). -/
def lenBytes (len : BitVec 2) : Nat := 4 * (len.toNat + 1)

/-- Thread `t`'s instruction of that length completes. -/
def Core.advance (t : Fin 4) (len : BitVec 2) (c : Core) : Core := c.mapR t (fun r => r.advance (lenBytes len))

/-- A taken branch, jump or call (R89): the program counter takes the target and no loop is touched. -/
def Core.jump (e : Env) (t : Fin 4) (target : Word) (c : Core) : Core :=
  (c.mapR t (fun r => { r with pc := target })).trace e 0 1 t 0 (c.th t).r.pc.toNat target.toNat

/-! ### Scratchpad -/

/-- Bytes of the scratchpad as a little-endian number. -/
def Spm.read (m : Spm) (addr bytes : Nat) : Nat := leNat (memReadN m.mem addr bytes)

/-- The 8-byte words an access touches. -/
def wordsOf (addr bytes : Nat) : List Nat :=
  if bytes = 0 then [] else (List.range ((addr + bytes - 1) / 8 + 1 - addr / 8)).map (fun i => addr / 8 + i)

/-- An access touches a poisoned word (R203). -/
def poisoned (p : NatSet) (addr bytes : Nat) : Bool := (wordsOf addr bytes).any (fun k => nhas p k)

/-- Poison after a write of clean bytes: a word written whole is clean again, a word written in part stays as it was
(R203). -/
def cleanWords (p : NatSet) (addr bytes : Nat) : NatSet :=
  ndelAll p ((wordsOf addr bytes).filter (fun k => decide (addr ≤ 8 * k ∧ 8 * k + 8 ≤ addr + bytes)))

/-- Clean bytes are written to the scratchpad (R202, R203). -/
def Spm.write (m : Spm) (addr : Nat) (data : List Byte) : Spm :=
  { m with mem := memWriteN m.mem addr data, poison := cleanWords m.poison addr data.length }

/-- What a read of a memory with poison carries onward (R203). -/
def payloadOf (mem : Memory) (poison : NatSet) (addr bytes : Nat) : Payload :=
  { bytes := memReadN mem addr bytes
    poison := ((wordsOf addr bytes).filter (fun k => nhas poison k)).map (fun k => k - addr / 8) }

/-- What a read of the scratchpad carries onward. -/
def Spm.get (m : Spm) (addr bytes : Nat) : Payload := payloadOf m.mem m.poison addr bytes

/-- Clean bytes. -/
def Payload.clean (bytes : List Byte) : Payload := { bytes := bytes, poison := [] }

/-- Nothing. -/
def Payload.empty : Payload := Payload.clean []

/-- Poison after a write that carries poison: the words it brings as poison are poison, a word it writes whole and clean
is clean, and a word it writes in part stays as it was (R202, R203). -/
def poisonPut (p : NatSet) (addr : Nat) (x : Payload) : NatSet :=
  ninsAll (cleanWords p addr x.bytes.length) (x.poison.map (fun k => addr / 8 + k))

/-- A move to the scratchpad that carries poison onward (R203). -/
def Spm.put (m : Spm) (addr : Nat) (x : Payload) : Spm :=
  { m with mem := memWriteN m.mem addr x.bytes, poison := poisonPut m.poison addr x }

/-- The core's scratchpad changed. -/
def Core.mapSpm (f : Spm → Spm) (c : Core) : Core := { c with spm := f c.spm }

/-! ### Issue -/

/-- The next number. -/
def Core.bump (c : Core) : Core := { c with seq := c.seq + 1 }

/-- A breakpoint that stops thread `t` matches at its program counter (R523). -/
def Core.bpHit (c : Core) (t : Fin 4) : Bool :=
  c.dbg.attached && !(c.th t).pass &&
    c.dbg.bp.any (fun b => b.en && b.halt && b.threads.getLsbD t && b.addr == (c.th t).r.pc)

/-- The word at a code address, when a way of the instruction cache holds its line (R286). -/
def De.codeWord (d : De) (addr : Nat) : Option Word :=
  (d.ic.find? (fun p => p.2.tag == addr / 128)).map (fun p =>
    BitVec.ofNat 32 (leNat ((p.2.data.drop (addr % 128)).take 4)))

/-- The addresses of the words of an instruction of length code `len` at a program counter; of one with the reserved code only
word 0 is fetched (R69). -/
def fetchAddrs (pc : Word) (len : BitVec 2) : List Nat :=
  (List.range (if len = 3 then 1 else len.toNat + 1)).map (fun i => (pc + BitVec.ofNat 32 (4 * i)).toNat)

/-- The first word of thread `t`'s next instruction that lies in the code region and that no way holds (R286). -/
def Core.unfetched (c : Core) (t : Fin 4) : Option Nat :=
  let pc := (c.th t).r.pc
  let len := match c.de.codeWord pc.toNat with | some w => wordLen w | none => 0
  ((fetchAddrs pc len).find? (fun a => (c.de.codeWord a).isNone)).filter (fun a => decide (a < c.codeSize))

/-- Thread `t` may fetch and issue, as far as the instruction itself is not concerned (R99): its core is released and not frozen,
the thread RUNNING with nothing it still waits for, no stop asked of it, no imprecise exception to be delivered first (R96) and no
debug stop due (R523, R524). -/
def Core.mayFetch (c : Core) (t : Fin 4) : Bool :=
  let h := c.th t
  c.released && !c.frozen && decide (h.st = .running) && decide (h.stall = .none) && !h.stopAsked &&
    decide (h.haltAsked = 0) && h.arrived.isEmpty && !c.bpHit t && !c.dbg.crossAsked &&
    !(c.dbg.attached && h.x.sstep && h.stepped)

/-- Thread `t` waits for a line that was asked for: it missed it then, or it has come to miss it since (R286). -/
def Core.awaitsLine (c : Core) (t : Fin 4) (m : IcMiss) : Bool :=
  m.threads.getLsbD t || (c.unfetched t).any (fun a => a / 128 == m.line)

/-- Thread `t` may issue its next instruction (R99): it may fetch, and waits for no line (R286). -/
def Core.ready (c : Core) (t : Fin 4) : Bool := c.mayFetch t && c.de.misses.all (fun m => !c.awaitsLine t m)

/-- The trace bits that a breakpoint without HALT changes at its match (Table 17-11). -/
def Core.bpTrace (e : Env) (t : Fin 4) (c : Core) : Core :=
  if c.dbg.attached then
    let hit (b : Breakpoint) : Bool := b.en && b.threads.getLsbD t && b.addr == (c.th t).r.pc
    if c.dbg.bp.any (fun b => hit b && b.trstop) then { c with dbg := { c.dbg with tren := false } }
    else if c.dbg.bp.any (fun b => hit b && b.trstart) then
      ({ c with dbg := { c.dbg with tren := true } } : Core).traceSync e
    else c
  else c

/-- Thread `t` issues an instruction: it takes the next issue number, the rotation pointer of its class names it
(R100), and single step counts it (R524). -/
def Core.issued (e : Env) (t : Fin 4) (c : Core) : Core :=
  let i : Fin 2 := if (c.th t).x.prio then 1 else 0
  (({ c with seq := c.seq + 1, rot := c.rot.set i t }).mapTh t
    (fun h => { h with last := c.seq + 1, stepped := true, pass := false })).bpTrace e t

/-- The first word of the next instruction of thread `t` that lies beyond the code region: its fetch raises CODE_FETCH_ERROR
(R283). -/
def Core.fetchFault (c : Core) (t : Fin 4) (len : BitVec 2) : Option Nat :=
  (fetchAddrs (c.th t).r.pc len).find? (fun a => decide (c.codeSize ≤ a))

/-- CODE_FETCH_ERROR of the word at a code address (R283). -/
def fetchExc (addr : Nat) : Exc := exc 0x0B 0 4 addr

end Sys2Proof.Machine
end

