-- ==== Sys2Proof/Machine/Route.lean ====
section
/-! DEFINITION. The paths of flits: through the mesh of a C-die with the detours around retired nodes, from die to die on the
package route, and to and from the E-dies (R292 to R302, R310, R311). A position of a die is its physical index
16 × row + column, a position of the package 272 × die + that. -/

namespace Sys2Proof.Machine

/-! ### The mesh of a C-die -/

/-- The physical index of a row and a column (R292). -/
def posAt (row col : Nat) : Nat := 16 * row + col

/-- The neighbour of a router on a side (R292). -/
def neighbour (p : Nat) : Side → Option Nat
  | .north => if p / 16 = 0 then none else some (p - 16)
  | .south => if 16 ≤ p / 16 then none else some (p + 16)
  | .east => if p % 16 = 15 then none else some (p + 1)
  | .west => if p % 16 = 0 then none else some (p - 1)

/-- The side that a flit takes next: along its row to the destination's column, then along that column (R295). -/
def nextSide (dst p : Nat) : Option Side :=
  if p % 16 < dst % 16 then some .east
  else if dst % 16 < p % 16 then some .west
  else if p / 16 < dst / 16 then some .south
  else if dst / 16 < p / 16 then some .north
  else none

/-- The side across. -/
def oppositeSide : Side → Side
  | .north => .south | .south => .north | .east => .west | .west => .east

/-- The message classes of the mesh (R294). -/
inductive MsgClass | request | response | transit
  deriving DecidableEq, Repr

/-- A virtual channel of a mesh link: each class has a primary and a detour channel (R294). -/
structure MeshVc where
  cls : MsgClass
  detour : Bool
  deriving DecidableEq, Repr

/-- The class that a router output serves of those that are ready: a response wins over every other flit; request and transit
flits take turns (R294). -/
def serveClass (ready : List MsgClass) (last : MsgClass) : Option MsgClass :=
  let has (c : MsgClass) : Bool := ready.any (fun x => decide (x = c))
  if has .response then some .response
  else if has .request && has .transit then some (if last = .request then .transit else .request)
  else if has .request then some .request
  else if has .transit then some .transit
  else none

/-- The detour entry that the MP writes for a router from the retired nodes: the sides on which a flit takes a detour
(R310). -/
def detourEntry (nodes : NatSet) (p : Nat) : List Side :=
  [Side.north, .south, .east, .west].filter (fun k => match neighbour p k with | some q => nhas nodes q | none => false)

/-- The sides that a detour takes from router `p` when the node on side `k` is retired (R310). Along a row the flit steps toward
its destination row, and goes on from beside the node; in that row already, it steps aside, passes the node and steps back. Along a
column it steps aside, passes the node with two hops and steps back. [DESIGN CHOICE: log entry 127] -/
def detourSides (dst p : Nat) (k : Side) : List Side :=
  match k with
  | .east | .west =>
    if p / 16 < dst / 16 then [.south, k]
    else if dst / 16 < p / 16 then [.north, k]
    else
      let v : Side := if p / 16 = 16 then .north else .south
      [v, k, k, oppositeSide v]
  | .north | .south =>
    let h : Side := if p % 16 = 15 then .west else .east
    [h, k, k, oppositeSide h]

/-- The routers that a list of sides leads through, each with the channel it is reached on. -/
def walkSides (detour : Bool) : List Side → Nat → List (Nat × Bool)
  | [], _ => []
  | k :: ks, p =>
    match neighbour p k with
    | some q => (q, detour) :: walkSides detour ks q
    | none => []

/-- The routers from `p`, which is not listed, to `dst`, each with whether it is reached on the detour channel (R295, R310). The
fuel covers every pair of positions. -/
def meshSteps (nodes : NatSet) (dst : Nat) : Nat → Nat → List (Nat × Bool)
  | 0, _ => []
  | n + 1, p =>
    match nextSide dst p with
    | none => []
    | some k =>
      let l := if (detourEntry nodes p).any (fun x => decide (x = k)) then walkSides true (detourSides dst p k) p
        else walkSides false [k] p
      match l.getLast? with
      | some x => l ++ meshSteps nodes dst n x.1
      | none => []

/-- The path of a flit through the mesh of one die (R295). -/
def meshPath (nodes : NatSet) (src dst : Nat) : List (Nat × Bool) := meshSteps nodes dst 64 src

/-! ### Die switches -/

/-- The C-die across a side (Table 10-1). -/
def dieAcross (d : Nat) : Side → Option Nat
  | .north => if d / 8 = 0 then none else some (d - 8)
  | .south => if 3 ≤ d / 8 then none else some (d + 8)
  | .east => if d % 8 = 7 then none else some (d + 1)
  | .west => if d % 8 = 0 then none else some (d - 1)

/-- The E-die across a side of a C-die (Tables 1-2 and 10-1). -/
def edieAcross (d : Nat) : Side → Option Nat
  | .north => if d / 8 = 0 then some (d % 8 / 2) else none
  | .south => if d / 8 = 3 then some (4 + d % 8 / 2) else none
  | _ => none

/-- A die has a bridge on a side (Table 10-1). -/
def hasBridge (d : Nat) (k : Side) : Bool := (dieAcross d k).isSome || (edieAcross d k).isSome

/-- The place of a side in the registers of Table 10-6. -/
def sideCode : Side → Fin 4
  | .north => 0 | .south => 1 | .east => 2 | .west => 3

/-- The channel of a side at which a position's own row or column has its attachment router: for north and south the column, for
east and west the row, or 15 for row 16 (R300). -/
def attachChannel (k : Side) (p : Nat) : Nat :=
  match k with
  | .north | .south => p % 16
  | .east | .west => min (p / 16) 15

/-- The attachment router of channel `c` of a side, for a flit of position `p`: channel 15 of the east and west sides has one in
row 15 and one in row 16, the latter for positions of row 16 (R300, Table 10-1). -/
def attachRouter (k : Side) (c p : Nat) : Nat :=
  let row := if c = 15 ∧ p / 16 = 16 then 16 else c
  match k with
  | .north => posAt 0 c
  | .south => posAt 16 c
  | .east => posAt row 15
  | .west => posAt row 0

/-- The channels of a side that retired nodes at its attachment positions disable (R310). -/
def nodeChannels (nodes : NatSet) (k : Side) : BitVec 16 :=
  (List.range 16).foldl (fun v c =>
    let hit := match k with
      | .north => nhas nodes (posAt 0 c)
      | .south => nhas nodes (posAt 16 c)
      | .east => nhas nodes (posAt c 15) || (c == 15 && nhas nodes (posAt 16 15))
      | .west => nhas nodes (posAt c 0) || (c == 15 && nhas nodes (posAt 16 0))
    if hit then v ||| BitVec.ofNat 16 (2 ^ c) else v) 0

/-- The channel that carries the flits of channel `c`: itself, or its neighbour of lower index where it is disabled, of higher
index for channel 0 (R310, R313). [DESIGN CHOICE: log entry 127] -/
def viaChannel (disabled : BitVec 16) (c : Nat) : Nat :=
  if disabled.getLsbD c then (if c = 0 then 1 else c - 1) else c

/-! ### The package route -/

/-- The side toward which a die's switch sends a flit for a die: along its row of dies first, then along the column (R299,
R301). -/
def nextDieSide (dst d : Nat) : Option Side :=
  if d % 8 < dst % 8 then some .east
  else if dst % 8 < d % 8 then some .west
  else if d / 8 < dst / 8 then some .south
  else if dst / 8 < d / 8 then some .north
  else none

/-- The bridges of the package route from a die: the die that each leaves and its side (R299). -/
def dieSteps (dst : Nat) : Nat → Nat → List (Nat × Side)
  | 0, _ => []
  | n + 1, d =>
    match nextDieSide dst d with
    | none => []
    | some k =>
      match dieAcross d k with
      | some d' => (d, k) :: dieSteps dst n d'
      | none => []

/-- The package route between two C-dies. -/
def dieRoute (src dst : Nat) : List (Nat × Side) := dieSteps dst 10 src

/-- The turn die of a route: where it turns from row to column (R299). -/
def turnDie (src dst : Nat) : Option Nat :=
  if src % 8 = dst % 8 ∨ src / 8 = dst / 8 then none else some (8 * (src / 8) + dst % 8)

/-- One step of a flit: a router of a die that it reaches, or a channel of a bridge that it crosses, by the die it leaves and its
side. -/
inductive Hop
  | router (die pos : Nat) (detour : Bool)
  | bridge (die : Nat) (side : Side) (channel : Nat)
  deriving DecidableEq, Repr

/-- What the fabric of the package is like: the retired nodes of each die, and the disabled channels of each side. -/
structure FabricView where
  nodes : Nat → NatSet
  off : Nat → Side → BitVec 16

/-- The channels of a bridge that are disabled at either end. -/
def FabricView.shut (v : FabricView) (d : Nat) (k : Side) : BitVec 16 :=
  match dieAcross d k with
  | some d' => v.off d k ||| v.off d' (oppositeSide k)
  | none => v.off d k

/-- The bridges of a route with their channels: the switch that hands the flit to the last bridge takes channel `last`, the others
carry it on the channel index it came with (R299, R300). -/
def FabricView.bridges (v : FabricView) (last : Nat) : List (Nat × Side) → Nat → List Hop
  | [], _ => []
  | [(d, k)], _ => [.bridge d k (viaChannel (v.shut d k) last)]
  | (d, k) :: rest, c => let c' := viaChannel (v.shut d k) c; .bridge d k c' :: v.bridges last rest c'

/-- The routers of a die along a path. -/
def routersOf (d : Nat) (l : List (Nat × Bool)) : List Hop := l.map (fun x => .router d x.1 x.2)

/-- The steps of a flit from position `p` of a die along bridges to position `q` of the die they end at: to the attachment router
of its own row or column, over the bridges, and from the attachment router of its entry to its destination (R300). A destination
that is an E-die has no position; the channel of the last bridge is then the one the flit came with.
[DESIGN CHOICE: log entry 127] -/
def FabricView.across (v : FabricView) (src p : Nat) (route : List (Nat × Side)) (dst : Option (Nat × Nat)) : List Hop :=
  match route with
  | [] => match dst with | some (d, q) => routersOf d (meshPath (v.nodes d) p q) | none => []
  | (_, k) :: _ =>
    let c := viaChannel (v.shut src k) (attachChannel k p)
    let out := routersOf src (meshPath (v.nodes src) p (attachRouter k c p))
    match dst, route.getLast? with
    | some (d, q), some (_, k') =>
      let side := oppositeSide k'
      let spans := v.bridges (attachChannel side q) route c
      let entry := match spans.getLast? with | some (.bridge _ _ c') => c' | _ => attachChannel side q
      let r := attachRouter side entry q
      out ++ spans ++ .router d r false :: routersOf d (meshPath (v.nodes d) r q)
    | _, _ => out ++ v.bridges c route c

/-- The steps of a flit between two positions of the package (R295, R299, R300). -/
def FabricView.path (v : FabricView) (p q : Nat) : List Hop :=
  v.across (p / 272) (p % 272) (dieRoute (p / 272) (q / 272)) (some (q / 272, q % 272))

/-- Of the two C-dies that are bridged to an E-die, the one in a die's column, or the one nearer in column (R311). -/
def bridgedDie (edie d : Nat) : Nat :=
  let row := if edie < 4 then 0 else 3
  let col := 2 * (edie % 4)
  8 * row + (if col < d % 8 then col + 1 else col)

/-- The side of a row-0 or row-3 C-die that its E-die is on. -/
def edieSide (edie : Nat) : Side := if edie < 4 then .north else .south

/-- The steps of a flit from a position to an E-die: by the package route to the bridged C-die, and over the E-die's bridge as the
last one (R311). -/
def FabricView.toEdie (v : FabricView) (p edie : Nat) : List Hop :=
  let b := bridgedDie edie (p / 272)
  v.across (p / 272) (p % 272) (dieRoute (p / 272) b ++ [(b, edieSide edie)]) none

/-- The bridges from an E-die to a C-die: the E-die's own, named by the bridged C-die nearer in column to the destination's die,
and the package route from there (R311). -/
def edieRoute (edie d : Nat) : List (Nat × Side) :=
  let b := bridgedDie edie d
  (b, edieSide edie) :: dieRoute b d

/-- The steps of a response of an E-die to a position. A bridge from an E-die is named by the C-die it enters and that die's side.
The E-die's switch puts the flit on the channel that the destination has on its last bridge.
[DESIGN CHOICE: log entry 127] -/
def FabricView.fromEdie (v : FabricView) (edie q : Nat) : List Hop :=
  let d := q / 272
  let route := dieRoute (bridgedDie edie d) d
  let side := match route.getLast? with | some (_, k) => oppositeSide k | none => edieSide edie
  let c := attachChannel side (q % 272)
  let first := Hop.bridge (bridgedDie edie d) (edieSide edie) (viaChannel (v.off (bridgedDie edie d) (edieSide edie)) c)
  let spans := first :: v.bridges c route c
  let entry := match spans.getLast? with | some (.bridge _ _ c') => c' | _ => c
  let r := attachRouter side entry (q % 272)
  spans ++ .router d r false :: routersOf d (meshPath (v.nodes d) r (q % 272))

/-! ### Latency -/

/-- The mesh hops of a path: the router at which a flit enters a die is no hop (R302). -/
def meshHops : List Hop → Nat
  | [] => 0
  | .bridge _ _ _ :: .router _ _ _ :: l => meshHops l
  | .router _ _ _ :: l => 1 + meshHops l
  | .bridge _ _ _ :: l => meshHops l

/-- The bridges of a path. -/
def bridgeHops (l : List Hop) : Nat := (l.filter (fun h => match h with | .bridge _ _ _ => true | _ => false)).length

/-- The least time of a one-way access between two positions of the package in tenths of a nanosecond, from Table 10-2 (R302). -/
def FabricView.latency (v : FabricView) (p q : Nat) : Nat :=
  let l := v.path p q
  let b := bridgeHops l
  285 + 15 * meshHops l +
    (if b = 0 then 0 else 885 + 80 * b + (if (turnDie (p / 272) (q / 272)).isSome then 65 else 0))

/-- A path passes a router of a die, or the switch of a die. -/
def Hop.at (die : Nat) (pos : Option Nat) : Hop → Bool
  | .router d p _ => d == die && pos == some p
  | .bridge d k _ => pos.isNone && (d == die || dieAcross d k == some die)

end Sys2Proof.Machine
end

