-- ==== Sys2Proof/Machine/FlaskState.lean ====
section
/-! DEFINITION. The state of flask mirroring, pours and local rollback (chapter 13). -/

namespace Sys2Proof.Machine

/-- FL_STATE.PSTATE (Table 13-10). -/
inductive PourState | none | open_ | arriving | arrived | saving | tail | ready | rollback
  deriving DecidableEq, Repr

/-- A set of shares of the mirrored regions: every share but the listed ones, or the listed ones only. -/
structure ShareSet where
  all : Bool
  except : NatSet
  deriving DecidableEq, Repr

/-- A copy in the rollback area (R388): the share, its generation, and its slot in the share's E-die. -/
structure RbCopy where
  share : Nat
  gen : Nat
  slot : Nat
  deriving DecidableEq, Repr

/-- The partner's undo of one share held here (R392): its generation, its slot, and the lines that have come. -/
structure UndoSlot where
  share : Nat
  gen : Nat
  slot : Nat
  lines : BitVec 2
  deriving DecidableEq, Repr

/-- The share that an E-die streams (R390): its number, whether its undo or its content is under way, and the lines
not yet acknowledged. -/
structure ShareStream where
  share : Nat
  content : Bool
  tail : Bool
  waiting : Nat
  deriving DecidableEq, Repr

/-- The management messages between MPs of a pour (Table 13-2, R393). -/
inductive PeerKind | arrived | save | saved | resume | ready | commit | abandon | partnerCommit
  deriving DecidableEq, Repr

/-- A message for another MP that is not yet acknowledged, and when it was last sent.
[DESIGN CHOICE: log entry 56] -/
structure PeerMsg where
  dest : ModuleId
  kind : PeerKind
  n : Word
  sent : Nat
  deriving DecidableEq, Repr

/-- An adoption under way (R406): the job, the failed module, its partner and the restore point, with what is stored. -/
structure Adoption where
  job : Nat
  x : ModuleId
  p : ModuleId
  rp : Word
  written : NatSet
  poison : Nat
  deriving DecidableEq, Repr

/-- Where the coordinator is with the pour for which it last sent SAVE (Table 13-2): nothing is awaited, SAVED from every module, or
READY from every module. -/
inductive CoordStep | idle | saving | tailing
  deriving DecidableEq, Repr

/-- FLASK_BIND arguments that wait for the partner's (R382). -/
structure BindAsk where
  partner : ModuleId
  cap : Word
  undo : Word
  keep : Bool
  deriving DecidableEq, Repr

/-- The flask and pour state of the module; bases and capacities belong to the configuration set. -/
structure Flask where
  pstate : PourState
  prot : BitVec 2
  committed : Word
  interval : Word
  copies : Word
  lines : Word
  skipped : Word
  stale : Word
  /-- The job that declared a pour policy, and its declaration (R384). -/
  job : Option Nat
  decl : Option PourDecl
  dirty : ShareSet
  tail : ShareSet
  rb : List RbCopy
  /-- Shares sent to the partner in the current interval. -/
  sent : NatSet
  /-- Undo slots used at the partner in the current generation, and the next mirror offset of each E-die's round. -/
  undoUsed : Vector Nat 8
  cursor : Vector Nat 8
  stream : Vector (Option ShareStream) 8
  /-- Undo held for the partner, and the interval expected of its writes (R392). -/
  held : List UndoSlot
  expect : Word
  partnerCommitted : Word
  partnerAt : Nat
  /-- As coordinator: the pour for which SAVE was last sent, how far it is, and the modules whose message has come. -/
  decided : Word
  coord : CoordStep
  arrivedMods : List ModuleId
  savedMods : List ModuleId
  readyMods : List ModuleId
  unacked : List PeerMsg
  /-- When the last boundary was set, when the last commit came, and the barrier's deadline. -/
  boundaryAt : Option Nat
  commitAt : Nat
  barrier : Option Nat
  bindAsk : Option BindAsk
  /-- Indices named by a remap request (R398). -/
  remap : List CoreId
  adopt : Option Adoption
  /-- The store held for a partner whose job was killed is quarantined (R499). -/
  storeQuarantined : Bool
  /-- The module has fenced itself (R400). -/
  fenced : Bool
  deriving DecidableEq, Repr

def ShareSet.empty : ShareSet := { all := false, except := [] }

def Flask.reset : Flask :=
  { pstate := PourState.none, prot := 0, committed := 0, interval := 0, copies := 0, lines := 0, skipped := 0, stale := 0,
    job := none, decl := none, dirty := .empty, tail := .empty, rb := [], sent := [],
    undoUsed := Vector.replicate 8 0, cursor := Vector.replicate 8 0, stream := Vector.replicate 8 none, held := [],
    expect := 0, partnerCommitted := 0, partnerAt := 0, decided := 0, coord := .idle, arrivedMods := [], savedMods := [], readyMods := [], unacked := [],
    boundaryAt := none, commitAt := 0, barrier := none, bindAsk := none, remap := [],
    adopt := none, storeQuarantined := false, fenced := false }

end Sys2Proof.Machine
end

