-- ==== Sys2Proof/Machine/PowerState.lean ====
section
/-! DEFINITION. The state of power sizing, clocks, thermal protection and ageing (chapter 14). -/

namespace Sys2Proof.Machine

/-- Power and clock state of one die; dies 32 to 39 are the E-dies (Table 14-9). -/
structure DiePower where
  tj : Byte
  phase : Byte
  /-- The target of the die's mode, in MHz, and the clock that has glided toward the target in force. -/
  mode : Nat
  clock : Nat
  /-- The voltage of the die's rail in tenths of a millivolt (R417). -/
  rail : Nat
  budget : BitVec 16
  meas : BitVec 16
  droop : Word
  /-- The activity estimate, and the ratio by which an untrusted estimator scales it, as two powers (R429). -/
  est : BitVec 16
  ratio : Nat × Nat
  /-- The thermal targets of a C-die while throttling lowers it, in MHz: its own, and that of its bridged E-die (R433, R434). -/
  thermal : Option Nat
  thermalE : Option Nat
  /-- The die's temperature throttles, and when its last step was made. -/
  throttling : Bool
  throttleAt : Nat
  /-- The die's clocks are halved since this moment; since when it has been at 105 °C or above (R433). -/
  halvedAt : Option Nat
  hotSince : Option Nat
  /-- When the current phase began, and the phase whose occurrence began then (R427). -/
  since : Nat
  deriving DecidableEq, Repr

/-- A phase table entry (Table 14-6). -/
structure PhaseEntry where
  demand : BitVec 16
  static : BitVec 16
  dur : BitVec 16
  next : Byte
  cnt : Byte
  deriving DecidableEq, Repr

/-- One re-plan of an island in the margin history (R438). -/
structure Margin where
  hours : Nat
  /-- Tenths of a millivolt needed at 1.9 GHz, and the ring oscillator's frequency in MHz. -/
  volt : Nat
  ring : Nat
  deriving DecidableEq, Repr

/-- The power block and what sizing keeps. PCAP and CLKPLAN belong to the configuration set. -/
structure Power where
  untrust : Bool
  stale : Bool
  fallback : Bool
  trip : Bool
  fixnow : BitVec 2
  sample : BitVec 16
  winavg : BitVec 16
  vin : BitVec 16
  iin : BitVec 16
  /-- Bits [8:2] of PWR_EVENT, and CAUSE. -/
  event : BitVec 9
  cause : BitVec 2
  tripcnt : Word
  breachcnt : Word
  dies : Vector DiePower 40
  /-- Entries of the phase tables, phase p of die d at 256 d + p. -/
  phases : Table PhaseEntry
  /-- The cap and window in force: those of PCAP at the last sample (R421). -/
  pcap : Word
  /-- Samples in W, newest first, at most 60,000 (R421). -/
  samples : List Nat
  sampledAt : Nat
  /-- A sample has come since the last outer step (R425). -/
  sampled : Bool
  /-- The sum of the activity estimates since the last outer step and their number, and how many samples in a row have diverged from
  the estimate (R429). -/
  estSum : Nat
  estCount : Nat
  diverged : Nat
  /-- Good samples since telemetry was stale (R430), and samples in a row above the sustained limit (R432). -/
  good : Nat
  overRun : Nat
  /-- Fast trips of the last second, the last one's time, and the MHz by which they lower every C-die's ceiling with the end of that
(R431). -/
  trips : List Nat
  tripAt : Nat
  ceiling : Option (Nat × Nat)
  /-- When the last step for CAUSE 0 or another breach was made (R432). -/
  breachAt : Option Nat
  calibrate : Option Nat
  shutdown : Bool
  /-- HBM stacks limited to 75 % (Table 14-7), and the last report of each. -/
  hbmHot : NatSet
  hbmTemp : Vector Byte 16
  /-- Islands in droop (R415). -/
  droops : NatSet
  /-- Steps of 2.5 mV that ageing has added to what island i needs at point k of Table 14-3, at 8 i + k (R436, R437). -/
  raise : Table Nat
  /-- The least slack of an island since the last re-plan in ps, and the frequency of its ring oscillator with it (R435). -/
  slack : Table (Nat × Nat)
  /-- The last 64 re-plans of each island, and the monthly summaries of each die (R438). -/
  margins : Table (List Margin)
  monthly : Table (List Margin)
  replanAt : Nat
  /-- Hours of operation before the last module reset (R436, R438). -/
  hours : Nat
  ageIsland : BitVec 16
  ageDays : BitVec 16
  ageLast : Word
  deriving DecidableEq, Repr

/-- A C-die at the default plan: 1.9 GHz. -/
def DiePower.reset (mhz : Nat) : DiePower :=
  { tj := 0, phase := 0, mode := mhz, clock := mhz, rail := 8000, budget := 0, meas := 0, droop := 0, est := 0, ratio := (1, 1),
    thermal := none, thermalE := none, throttling := false, throttleAt := 0, halvedAt := none, hotSince := none, since := 0 }

def PhaseEntry.reset : PhaseEntry := { demand := 0, static := 0, dur := 0, next := 0, cnt := 0 }

def Power.reset : Power :=
  { untrust := false, stale := false, fallback := false, trip := false, fixnow := 2, sample := 0, winavg := 0, vin := 0,
    iin := 0, event := 0, cause := 0, tripcnt := 0, breachcnt := 0,
    dies := Vector.ofFn (fun d => DiePower.reset (if d.val < 32 then 1900 else 1953)), phases := [], pcap := 0x000A1194, samples := [],
    sampledAt := 0, sampled := false, estSum := 0, estCount := 0, diverged := 0, good := 10, overRun := 0, trips := [], tripAt := 0, ceiling := none, breachAt := none,
    calibrate := none, shutdown := false, hbmHot := [], hbmTemp := Vector.replicate 16 0, droops := [], raise := [],
    slack := [], margins := [], monthly := [], replanAt := 0, hours := 0, ageIsland := 0xFFFF, ageDays := 0xFFFF, ageLast := 0 }

end Sys2Proof.Machine
end

