-- ==== Sys2Proof/Machine/SecState.lean ====
section
/-! DEFINITION. Fuses, firmware images, attestation and unlock state (chapter 16), bring-up, the board's pins and the
test access port (chapters 17 and 18). -/

namespace Sys2Proof.Machine

/-- The fuse items of Table 16-1. -/
structure Fuses where
  rkd : Vector (BitVec 384) 4
  revoked : BitVec 4
  owner : Option (BitVec 384)
  svn : Nat
  /-- Blown bits of the life-cycle counter, the decommission flag, and the device secret, of which decommissioning blows every bit. -/
  lc : Nat
  decom : BitVec 4
  secret : BitVec 256
  /-- The scratchpad rows that test at manufacture wrote, and the positions it retired as nodes, by package position (R206, R304). -/
  rows : List RepairEntry
  nodes : NatSet
  deriving DecidableEq, Repr

/-- The life-cycle state (Table 16-6). -/
def Fuses.state (f : Fuses) : Nat := if f.decom ≠ 0 then 4 else f.lc

/-- The firmware images of both MPs (R480, R482, R488), MP-A first. -/
structure Images where
  slots : Vector (Vector (Option (List Byte)) 2) 2
  next : Vector (Option (Fin 2)) 2
  /-- The slot whose image boots next, once the ROM has verified it, and the one that runs. -/
  chosen : Vector (Option (Fin 2)) 2
  running : Vector (Option (Fin 2)) 2
  /-- The image being staged, and whether it is complete and verifies. -/
  staged : List Byte
  verified : Bool
  /-- The MP booted from its next-boot mark and has not reached READY (R482), and when its firmware started. -/
  trial : Vector Bool 2
  startedAt : Vector (Option Nat) 2
  deriving DecidableEq, Repr

/-- A challenge (R495, R496). -/
structure Challenge where
  purpose : Word
  block : List Byte
  issued : Nat
  deriving DecidableEq, Repr

/-- An SPDM connection (R486, R487): the last of GET_VERSION, GET_CAPABILITIES and NEGOTIATE_ALGORITHMS. -/
inductive SpdmState | none | version | capabilities | negotiated
  deriving DecidableEq, Repr

/-- PLDM firmware update states (DSP0267, R489). -/
inductive UpdateState | idle | learn | ready | download | verify | apply | activate
  deriving DecidableEq, Repr

/-- What the ROM of one processor leaves, and the key store of its E-die (R478, R479, R482). -/
structure RomState where
  /-- Its test of SHA-384 and ECDSA failed: the processor is halted. -/
  halted : Bool
  /-- The device secret is locked until module reset. -/
  locked : Bool
  /-- The private keys of the device identity and of the alias. -/
  identity : Option (BitVec 384)
  alias_ : Option (BitVec 384)
  deriving DecidableEq, Repr

/-- Attestation, unlock and update state of the active MP. -/
structure Security where
  fuses : Fuses
  images : Images
  /-- Each processor's ROM and keys, MP-A first, and the device identity certificate in its SPI NOR. -/
  rom : Vector RomState 2
  idCert : Vector (List Byte) 2
  level : BitVec 2
  failed : Word
  challenge : Option Challenge
  spdm : Vector SpdmState 3
  /-- The last response of each transport. -/
  spdmOut : Vector (List Byte) 3
  /-- The last response that a transport takes in chunks. -/
  spdmLarge : Vector (List Byte) 3
  upd : UpdateState
  /-- The size announced, and what an UPDATE_COMPONENT has received. -/
  updSize : Nat
  updData : List Byte
  /-- PLDM platform monitoring: the event receiver, the events waiting to be polled, lost events, disabled sensors, and
  the last PLDM response. -/
  receiver : Option Byte
  events : List (List Byte)
  lostEvents : Bool
  disabled : NatSet
  pldmOut : List Byte
  deriving DecidableEq, Repr

/-- The stages of Table 17-1, with `held` before RESET_N is released. -/
inductive Stage | held | a | b | c | d | e | f | g | h | ready
  deriving DecidableEq, Repr

/-- The public instructions of the test access port (Table 17-13). -/
inductive TapInsn | bypass | idcode | sample | extest | clamp | highz | vendor (code : Byte)
  deriving DecidableEq, Repr

/-- Pins, straps, supplies and the test access port (chapters 17 and 18). -/
structure Board where
  stage : Stage
  boot : BitVec 16
  resetN : Bool
  /-- When RESET_N was last released (R510). -/
  releasedAt : Nat
  perstN : Vector Bool 2
  /-- Straps as read at the last release of RESET_N: BMCSEL and MID. -/
  bmcsel : Bool
  mid : BitVec 4
  /-- Link of each host interface: training or up. -/
  hiUp : Vector Bool 2
  /-- The hot-swap switch is closed and charged; it opened for overvoltage. -/
  charged : Bool
  cut : Bool
  refclk : Bool
  thermtripN : Bool
  alertN : Bool
  /-- Cable present, its supply on, and cut by overcurrent, by connector. -/
  cable : Vector Bool 8
  vcbl : Vector Bool 8
  vcblCut : Vector Bool 8
  cableAt : Vector Nat 8
  tap : TapInsn
  /-- The boundary register as loaded and as captured, and the pins it drives. -/
  loaded : List Bool
  captured : List Bool
  driving : Bool
  /-- Cores that failed the self-test, by package position. -/
  failedCores : NatSet
  /-- What the last bring-up found lost (R511). -/
  lost : List BootLoss
  /-- The retired pseudo-channel, the retirement candidate that waits (R281), and those that failed. -/
  pchRetired : Option (BitVec 10)
  /-- The retired pseudo-channel has passed its test since and may be re-admitted (R281, R408). -/
  pchPassed : Bool
  /-- The vector engines of every core have passed the tests of a module fettle (R156). -/
  veTested : Bool
  pchCand : Option (BitVec 10)
  pchFailed : NatSet
  deriving DecidableEq, Repr

/-- Fuses of a module in the operator's hands: DEPLOYED, no revocation, security version 0, no row and no node at fault.
[DESIGN CHOICE: log entries 9, 12] -/
def Fuses.reset : Fuses :=
  { rkd := Vector.ofFn (fun k => Config.rootKeys k.val), revoked := 0, owner := none, svn := 0, lc := 2, decom := 0, secret := Config.deviceSecret,
    rows := [], nodes := [] }

def Images.reset : Images :=
  { slots := Vector.replicate 2 #v[some Config.factoryImage, none], next := Vector.replicate 2 none, chosen := Vector.replicate 2 none, running := Vector.replicate 2 none,
    staged := [], verified := false, trial := Vector.replicate 2 false, startedAt := Vector.replicate 2 none }

def RomState.reset : RomState := { halted := false, locked := false, identity := none, alias_ := none }

def Security.reset : Security :=
  { fuses := Fuses.reset, images := Images.reset, rom := Vector.replicate 2 RomState.reset
    idCert := Vector.replicate 2 Config.identityCert, level := 0, failed := 0, challenge := none,
    spdm := Vector.replicate 3 .none, spdmOut := Vector.replicate 3 [], spdmLarge := Vector.replicate 3 [], upd := .idle, updSize := 0, updData := [],
    receiver := none, events := [], lostEvents := false, disabled := [], pldmOut := [] }

def Board.reset : Board :=
  { stage := .held, boot := 0, resetN := false, releasedAt := 0, perstN := Vector.replicate 2 false, bmcsel := true, mid := 0xF,
    hiUp := Vector.replicate 2 false, charged := false, cut := false, refclk := true, thermtripN := true, alertN := true,
    cable := Vector.replicate 8 false, vcbl := Vector.replicate 8 false, vcblCut := Vector.replicate 8 false,
    cableAt := Vector.replicate 8 0, tap := .idcode, loaded := [], captured := [], driving := false,
    failedCores := [], lost := [], pchRetired := none, pchPassed := false, veTested := false, pchCand := none, pchFailed := [] }

end Sys2Proof.Machine
end

