-- ==== Sys2Proof/Machine/State.lean ====
section
/-! DEFINITION. The state of the whole block, the reasons a step can stop, and the state right after reset. -/

namespace Sys2Proof.Machine

/-- The ways a step can stop with a fault. [DESIGN CHOICE: log entry 5] -/
inductive Fault
  /-- Would be raised by a command to which the spec gives no effect at all; every command of the table has one, so no
  meaning raises it. Safe: it stops where the hardware may go on. -/
  | noEffectStated
  deriving DecidableEq, Repr

/-- The ways a step can be refused. [DESIGN CHOICE: log entry 5] -/
inductive Refusal
  /-- Raised by the dispatch for a command without a meaning in this model; every command has one. Safe: nothing would be
  claimed of it. -/
  | notModelled (mnemonic : String)
  deriving DecidableEq, Repr

/-- What the fuses and the vendor fix (R1, R478). -/
structure Ident where
  code : OrderingCode
  serial : BitVec 128
  deriving DecidableEq, Repr

/-- External memory with its poison, by address ÷ 8 (R276, R277). -/
structure Hbm where
  mem : Memory
  poison : NatSet
  /-- When the controller corrected a bit in the last 24 hours, by 128 × word + bit (R280). -/
  corr : Table (List Nat)
  /-- The rows that hard post-package repair has replaced (R280). -/
  repaired : List RepairEntry
  deriving DecidableEq, Repr

/-- The whole block. -/
structure State where
  pending : List Instr
  /-- The time base in nanoseconds (R375), and how many free values have been drawn. -/
  now : Nat
  fresh : Nat
  ident : Ident
  cores : Table Core
  hbm : Hbm
  /-- C-dies, ports and reduction contexts by number. -/
  dies : Table Die
  ports : Table Port
  red : Table RedCtx
  switch : Switch
  time : TimeSync
  /-- The code epoch that a CODELOAD advances (R284). -/
  epoch : BitVec 16
  active : ConfigSet
  shadow : ConfigSet
  /-- The set that the entry of the SPI NORs before the newest holds (R512, R513). -/
  lastSet : ConfigSet
  flask : Flask
  power : Power
  mp : Mp
  host : HostIf
  boxes : Vector Mailbox 8
  fm : Vector Mailbox 2
  bmc : Mailbox
  frags : Vector (List Fragments) 2
  errs : ErrLog
  sec : Security
  board : Board
  deriving DecidableEq, Repr

def Ident.reset : Ident := { code := .s3, serial := 0 }

def Hbm.reset : Hbm := { mem := [], poison := [], corr := [], repaired := [] }

/-- The block right after power-on reset, with RESET_N asserted. [DESIGN CHOICE: log entry 10] -/
def State.reset : State :=
  { pending := [], now := 0, fresh := 0, ident := Ident.reset, cores := [], hbm := Hbm.reset, dies := [], ports := [],
    red := [], switch := Switch.reset, time := TimeSync.reset, epoch := 0, active := ConfigSet.default,
    shadow := ConfigSet.default, lastSet := ConfigSet.default, flask := Flask.reset, power := Power.reset, mp := Mp.reset, host := HostIf.reset,
    boxes := Vector.replicate 8 Mailbox.reset, fm := Vector.replicate 2 Mailbox.reset, bmc := Mailbox.reset,
    frags := Vector.replicate 2 [], errs := ErrLog.reset, sec := Security.reset, board := Board.reset }

end Sys2Proof.Machine
end

