-- ==== Sys2Proof/Machine/Module.lean ====
section
/-! DEFINITION. The named accessors of the module around the cores: cores, dies, ports, jobs, the core map, and the
modules and windows that a job names. -/

namespace Sys2Proof.Machine

/-- Scratchpad bytes of every core (R4). -/
def spmBytes : OrderingCode → Nat
  | .s3 | .a3 => 0x300000
  | .s2 | .a2 => 0x200000

/-- Logical cores of one C-die (R2): 256 in grade S, 248 in grade A. -/
def perDie : OrderingCode → Nat
  | .s3 | .s2 => 256
  | .a3 | .a2 => 248

/-- A core that no command has touched since it was last wiped: at its reset values, VG.RESTR cleared once the tests of a module
fettle have passed (R156, R503). [DEDUCED: log entry 39] -/
def State.blankCore (s : State) : Core :=
  if s.board.veTested then { Core.reset with ve := { Ve.reset with restr := false } } else Core.reset

/-- The core of a CORE_ID. [DEDUCED: log entry 134] -/
def State.core (s : State) (id : CoreId) : Core := tget s.cores s.blankCore id.toNat

/-- A core written back. -/
def State.setCore (s : State) (id : CoreId) (c : Core) : State := { s with cores := tset s.cores id.toNat c }

/-- The core map of C-die `d` in force. -/
def State.coreMap (s : State) (d : Nat) : CoreMap := s.active.map (perDie s.ident.code) d

/-- The physical index of a core (R303), when its entry is valid. [DEDUCED: log entry 134] -/
def State.position (s : State) (id : CoreId) : Option Nat :=
  (((s.coreMap (id.toNat / 256)).remap).find? (fun x => x.1 == id.toNat % 256)).map (fun x => x.2)

/-- A CORE_ID names a core of the module: its index is one of the grade's (R5), and its entry of the core map is valid
(R303). -/
def State.assigned (s : State) (id : CoreId) : Bool :=
  decide (id.toNat % 256 < perDie s.ident.code) && (s.position id).isSome

/-- The core that a position holds, by package position 272 d + p. [DEDUCED: log entry 134] -/
def State.coreAt (s : State) (q : Nat) : Option CoreId :=
  ((s.coreMap (q / 272)).remap.find? (fun x => x.2 == q % 272)).map (fun x => BitVec.ofNat 13 (256 * (q / 272) + x.1))

/-- The package position of a core. -/
def State.place (s : State) (id : CoreId) : Option Nat := (s.position id).map (fun p => 272 * (id.toNat / 256) + p)

/-- The time base stands at `t` at least: an event due at `t` comes about no earlier. [DESIGN CHOICE: log entry 1] -/
def State.wait (s : State) (t : Nat) : State := { s with now := max s.now t }

/-- C-die `d`. -/
def State.die (s : State) (d : Nat) : Die := tget s.dies Die.reset d

/-- C-die `d` changed. -/
def State.mapDie (s : State) (d : Nat) (f : Die → Die) : State := { s with dies := tset s.dies d (f (s.die d)) }

/-- The channels of a side of a die that are disabled: by replays, and by retired nodes at their attachment positions (R310,
R313). -/
def State.chdis (s : State) (d : Nat) (k : Side) : BitVec 16 :=
  (s.die d).chdis[sideCode k] ||| nodeChannels (s.coreMap d).nret k

/-- What paths through the package fabric depend on. -/
def State.view (s : State) : FabricView := { nodes := fun d => (s.coreMap d).nret, off := s.chdis }

/-- Port `p`. -/
def State.port (s : State) (p : Fin 48) : Port := tget s.ports Port.reset p.val

/-- Port `p` changed. -/
def State.mapPort (s : State) (p : Fin 48) (f : Port → Port) : State :=
  { s with ports := tset s.ports p.val (f (s.port p)) }

/-- Reduction context `x`. -/
def State.redCtx (s : State) (x : Fin 16) : RedCtx := tget s.red RedCtx.reset x.val

/-- Reduction context `x` changed. -/
def State.mapRed (s : State) (x : Fin 16) (f : RedCtx → RedCtx) : State :=
  { s with red := tset s.red x.val (f (s.redCtx x)) }

/-- Job `j` + 1 of the table. -/
def State.job (s : State) (j : Fin 8) : Job := s.mp.jobs[j]

/-- Job `j` + 1 changed. -/
def State.mapJob (s : State) (j : Fin 8) (f : Job → Job) : State :=
  { s with mp := { s.mp with jobs := s.mp.jobs.set j (f s.mp.jobs[j]) } }

/-- A job holds its cores: it is loaded and not in capture hold (R501). -/
def Job.holds (j : Job) : Bool := decide (j.st ≠ .none) && !j.hold

/-- A job has the core. -/
def Job.hasCore (j : Job) (id : CoreId) : Bool := j.holds && j.cores.any (fun x => x.1 == id)

/-- The job of a core. -/
def State.jobOf (s : State) (id : CoreId) : Option (Fin 8) := (List.finRange 8).find? (fun j => (s.job j).hasCore id)

/-- Some job is loaded, one in KILLED included. -/
def State.anyJob (s : State) : Bool := (List.finRange 8).any (fun j => decide ((s.job j).st ≠ .none))

/-- The core is quarantined (R497, R498). -/
def State.quarantined (s : State) (id : CoreId) : Bool :=
  match s.jobOf id with
  | some j => decide ((s.job j).st = .killed)
  | none => false

/-- This module's number (R349). -/
def State.self (s : State) : ModuleId := s.active.route.self


/-- The rows of a package position that are at fault, by bank and row: those of the fuses, then those of the ledger in its order
(R206). -/
def State.badRows (s : State) (q : Nat) : List (Nat × Nat) :=
  (s.sec.fuses.rows ++ s.mp.repairs).filterMap (fun e =>
    match e with
    | .scratchpad d r c b row => if 272 * d.val + 16 * r.toNat + c.toNat = q then some (b.toNat, row.toNat) else none
    | .hbm .. => none)

/-- A bank of a position has more rows to repair than its 32 spare rows (R197, R206). -/
def State.overRepaired (s : State) (q : Nat) : Bool :=
  (List.range 16).any (fun b => decide (32 < ((s.badRows q).filter (fun x => x.1 == b)).length))

/-- The rows of a core that spare rows stand in for from its next reset or fettle on: of each bank the first 32 (R206). -/
def State.sparesAt (s : State) (id : CoreId) : List (Nat × Nat) :=
  match s.position id with
  | none => []
  | some p =>
    let rows := s.badRows (272 * (id.toNat / 256) + p)
    (List.range 16).flatMap (fun b => (rows.filter (fun x => x.1 == b)).take 32)

/-- A core after a core reset that leaves it as `c`: the spare rows of its position are in use (R206), what only a fettle clears
is kept (R207, R211, R512), and its vector engine is unrestricted, unless it has not passed its tests (R156).
[DEDUCED: log entry 39] -/
def State.afterReset (s : State) (id : CoreId) (c : Core) : Core :=
  let old := s.core id
  { c with
    ve := { c.ve with restr := old.ve.failed, failed := old.ve.failed }
    me := { c.me with retest := old.me.retest }
    spm := { c.spm with
      spares := s.sparesAt id, noGateRecorded := old.spm.noGateRecorded, otherJobRecorded := old.spm.otherJobRecorded }
    de := { c.de with icseed := old.de.icseed, icerr := old.de.icerr } }

/-- The E-die of the active management processor (R375). -/
def State.mpDie (s : State) : Fin 8 := if s.mp.activeB then 4 else 0

/-- The home E-die of a C-die (R312). -/
def homeEdie (d : Nat) : Fin 8 := Fin.ofNat 8 ((if d / 8 < 2 then 0 else 4) + d % 8 / 2)

/-- The E-die of an external address (R276, R311). -/
def addrEdie (a : Nat) : Fin 8 := Fin.ofNat 8 (a / 512)

/-- A window covers bytes `a` to `a + n − 1` (R279). -/
def winCovers (w : WindowReq) (a n : Nat) : Bool := decide (w.base.toNat ≤ a ∧ a + n ≤ w.limit.toNat)

/-- What a core may know of the module. -/
def State.env (s : State) (id : CoreId) : Env :=
  { id := id, now := s.now, fresh := s.fresh, spmSize := spmBytes s.ident.code, perDie := perDie s.ident.code,
    partner := if s.active.bind.en then some s.active.bind.partner else none, self := s.self,
    job := (s.jobOf id).map s.job, vepd := s.active.clkplan.getLsbD 23,
    pours := match s.jobOf id with | some j => decide (s.flask.job = some (j.val + 1)) | none => false }

/-- A message of this module's own waits for its first hop. [DESIGN CHOICE: log entry 48] -/
def State.post (s : State) (edie : Fin 8) (m : LinkMsg) (who : Option Requester) : State :=
  { s with switch := { s.switch with waiting := s.switch.waiting ++ [{ edie := edie, msg := m, who := who }] } }

/-- A message with the fields of Table 11-8 that most of this module's own share. -/
def State.message (s : State) (type : BitVec 4) (dmod : ModuleId) (subop : BitVec 3) (addr : Nat) (data : List Byte) :
    LinkMsg :=
  { type := type, vc := if type.toNat < 8 then 0 else 2, dmod := dmod, smod := s.self, tag := 0, pkg := false, gv := false,
    egen := 0, rstate := BitVec.ofNat 8 (b2n s.switch.ep * 8), subop := subop, shp := false, sport := 0, aux := 0,
    addr := BitVec.ofNat 40 addr, data := data }

/-- An MSI-X vector is signalled on an interface (R448). -/
def State.signal (s : State) (hi : Fin 2) (v : Nat) : State :=
  { s with host := { s.host with msix := s.host.msix ++ [(hi, v)] } }

/-- A vector of both interfaces. -/
def State.signalBoth (s : State) (v : Nat) : State := (s.signal 0 v).signal 1 v

end Sys2Proof.Machine
end

