-- ==== Sys2Proof/Machine/Records.lean ====
section
/-! DEFINITION. Error records and notices: what the MP logs, merges, sends on each path, and does on each severity
(R514 to R519, R473). -/

namespace Sys2Proof.Machine

/-- What is to be logged, before it has an index, a time and a boot count. -/
structure Event where
  notice : Bool
  sev : BitVec 2
  job : Nat
  cause : BitVec 16
  die : Nat
  unit : BitVec 5
  pos : Nat
  sub : BitVec 4
  core : Option CoreId
  addr : DWord
  detail : List Word
  deriving DecidableEq, Repr

/-- A record of the module as a whole, from the MP. [DEDUCED: log entry 85] -/
def mpEvent (sev : BitVec 2) (cause : BitVec 16) (detail : List Word) : Event :=
  { notice := false, sev := sev, job := 0, cause := cause, die := 63, unit := 16, pos := 0, sub := 0, core := none, addr := 0,
    detail := detail }

/-- A notice. -/
def noticeEvent (cause : BitVec 16) (job : Nat) (detail : List Word) : Event :=
  { mpEvent 0 cause detail with notice := true, job := job }

/-- The entry of the log. -/
def State.entry (s : State) (x : Event) : Record :=
  { idx := s.errs.next, notice := x.notice, sev := if x.notice then 0 else x.sev, job := BitVec.ofNat 4 x.job,
    cause := x.cause, die := BitVec.ofNat 6 x.die, unit := x.unit, pos := BitVec.ofNat 9 x.pos, sub := x.sub, core := x.core,
    time := BitVec.ofNat 64 s.now, addr := x.addr, boot := s.board.boot, rep := 0, detail := x.detail }

/-- An entry as its 64 bytes (Table 17-3). -/
def Record.bytes (r : Record) : List Byte :=
  leBytes 4 r.idx.toNat ++
  leBytes 4 (2 ^ 28 + b2n r.notice * 2 ^ 26 + r.sev.toNat * 2 ^ 24 + r.job.toNat * 2 ^ 20 + r.cause.toNat) ++
  leBytes 4 (r.die.toNat * 2 ^ 26 + r.unit.toNat * 2 ^ 21 + r.pos.toNat * 2 ^ 12 + r.sub.toNat * 2 ^ 8) ++
  leBytes 4 (match r.core with | some c => c.toNat * 2 ^ 16 + 2 ^ 15 | none => 0) ++
  leBytes 8 r.time.toNat ++ leBytes 8 r.addr.toNat ++ leBytes 4 (r.boot.toNat * 2 ^ 16 + r.rep.toNat) ++
  (List.range 7).flatMap (fun i => leBytes 4 (r.detail.getD i 0).toNat)

/-- Two entries name the same fault (R516). -/
def Record.same (r q : Record) : Bool :=
  r.cause == q.cause && r.die == q.die && r.unit == q.unit && r.pos == q.pos && r.sub == q.sub && r.core == q.core &&
    r.job == q.job && !r.notice && !q.notice

/-- The last record of the log, notices aside, with one further occurrence. -/
def bumpLast (l : List Record) : List Record :=
  match (l.filter (fun q => !q.notice)).getLast? with
  | none => l
  | some q => l.map (fun r => if r.idx = q.idx then { r with rep := if r.rep = 0xFFFF then r.rep else r.rep + 1 } else r)

/-- The last `n` of a list. -/
def lastN {α : Type} (n : Nat) (l : List α) : List α := l.drop (l.length - n)

/-- An entry enters the host's event ring (R451). -/
def State.ringPut (s : State) (r : Record) : State :=
  let h := s.host
  if !(if r.notice then h.evNotice else decide (h.evMin ≤ r.sev)) then s
  else if h.evwp + 1 = h.evrp then
    { s with host := { h with evlost := if h.evlost = 0xFFFFFFFF then h.evlost else h.evlost + 1 } }
  else
    let s' := { s with host := { h with ring := tset h.ring h.evwp.toNat r, evwp := h.evwp + 1 } }
    if h.evwp = h.evrp ∧ h.evIen then s'.signalBoth 8 else s'

/-- The anchor of fabric-manager mailbox `k`, when it is enabled (R466). -/
def ConfigSet.manager (c : ConfigSet) (k : Fin 2) : Option ModuleId :=
  let f := c.mgfm.toNat / 2 ^ (16 * k.val) % 65536
  if f.testBit 15 then some (BitVec.ofNat 13 f) else none

/-- An entry leaves as a NOTICE message for each enabled fabric manager (Table 15-7, Table 17-8). -/
def State.noticePut (s : State) (r : Record) : State :=
  if !r.notice && r.sev == 0 then s
  else
    (List.finRange 2).foldl (fun s k =>
      match s.active.manager k with
      | some m => s.post s.mpDie (s.message 5 m 3 0 (List.replicate 16 0 ++ r.bytes)) none
      | none => s) s

/-- A record of severity deferred or higher waits as a PLDM event for the BMC, and BMC_ALERT_N is asserted in SMBus mode; a
full queue drops it (R519, R520, R538). [DESIGN CHOICE: log entry 99] -/
def State.bmcPut (s : State) (r : Record) : State :=
  if r.notice || r.sev == 0 then s
  else if Config.eventQueue ≤ s.sec.events.length then { s with sec := { s.sec with lostEvents := true } }
  else { s with sec := { s.sec with events := s.sec.events ++ [r.bytes] }
                board := { s.board with alertN := s.board.alertN && !s.board.bmcsel } }

/-- An entry is logged and sent on every path, in log order (R514, R519). [DESIGN CHOICE: log entry 103] -/
def State.logPut (s : State) (x : Event) : State :=
  let r := s.entry x
  let e := s.errs
  let e := { e with
    log := lastN 65536 (e.log ++ [r]), next := e.next + 1,
    lastAt := if x.notice then e.lastAt else s.now,
    persistent := if 2 ≤ r.sev ∧ !r.notice then lastN 256 (e.persistent ++ [r]) else e.persistent }
  ((({ s with errs := e } : State).ringPut r).noticePut r).bmcPut r

/-- The window of a unit instance, with one further corrected event, and whether its record may be logged, and whether
CORR_RATE is due; an event that merges with the last record is none of the window's 64 (R516, R517).
[DEDUCED: log entry 137] -/
def CorrWindow.step (w : CorrWindow) (now : Nat) (merged : Bool) : CorrWindow × Bool × Bool :=
  let w := if w.start + 10 ^ 9 ≤ now ∧ !merged then { w with start := now, count := 0 } else w
  let w := if w.hourStart + 3600 * 10 ^ 9 ≤ now then { w with hourStart := now, hourCount := 0, rated := false } else w
  let rate := decide (1000 < w.hourCount + 1) && !w.rated
  ({ w with count := if merged then w.count else min 64 (w.count + 1), hourCount := w.hourCount + 1, rated := w.rated || rate }, decide (w.count < 64),
   rate)

/-- The windows with one further corrected event of a unit instance. -/
def stepWindows (ws : List CorrWindow) (die : BitVec 6) (unit : BitVec 5) (pos : BitVec 9) (now : Nat) (merged : Bool) :
    List CorrWindow × Bool × Bool :=
  match ws.findIdx? (fun w => w.die == die && w.unit == unit && w.pos == pos) with
  | some i =>
    match ws[i]? with
    | some w => let r := w.step now merged; (ws.set i r.1, r.2)
    | none => (ws, true, false)
  | none =>
    (ws ++ [{ die := die, unit := unit, pos := pos, start := now, count := b2n !merged, hourStart := now, hourCount := 1,
              rated := false }], true, false)

/-- A core of the job is held: no thread of it issues (R473). -/
def State.holdCores (s : State) (j : Fin 8) : State :=
  (s.job j).cores.foldl (fun s x => s.setCore x.1 ((s.core x.1).halted (s.env x.1))) s

/-- The processor takes a safety action that claims a resource; those of ticks that have been arbitrated are dropped (R460;
DEDUCED, log entry 109). [DEDUCED: log entry 109] -/
def State.safetyAction (s : State) (c : Claim) : State :=
  { s with mp := { s.mp with safety := s.mp.safety.filter (fun x => decide (s.mp.tick ≤ 1000 * x.1)) ++ [(s.now / 1000, c)] } }

/-- The job enters FAULTED, and every core of it stops; a notice says so (R473). [DEDUCED: log entry 109] -/
def State.faultJob (s : State) (j : Fin 8) : State :=
  match (s.job j).st with
  | .loaded | .running | .finished =>
    let s := ((s.holdCores j).mapJob j (fun b => { b with st := .faulted })).safetyAction (.job (j.val + 1))
    s.logPut (noticeEvent 0x0803 (j.val + 1) [4])
  | _ => s

/-- Every job enters FAULTED. -/
def State.faultAll (s : State) : State := (List.finRange 8).foldl (fun s j => s.faultJob j) s

/-- The job number of a record is noted as its first fatal one (Table 15-12). -/
def State.noteFatal (s : State) (n : Nat) (idx : Word) : State :=
  if n = 0 then s
  else s.mapJob (Fin.ofNat 8 (n - 1)) (fun b => if b.firstFatal = 0xFFFFFFFF then { b with firstFatal := idx } else b)

/-- What the MP does on a severity beyond logging (R518). -/
def State.severity (s : State) (x : Event) : State :=
  if x.notice then s
  else if x.sev = 2 then
    let held : Bool := match x.core with | some c => (s.core c).dbg.attached | none => false
    if x.job = 0 ∨ held then s else s.faultJob (Fin.ofNat 8 (x.job - 1))
  else if x.sev = 3 then (({ s with mp := { s.mp with fatal := true } } : State).faultAll)
  else s

/-- A record of a severity counts in HEALTH (R476, R516). -/
def State.tally (s : State) (sev : BitVec 2) : State :=
  let k : Fin 4 := Fin.ofNat 4 sev.toNat
  { s with errs := { s.errs with counts := s.errs.counts.set k (s.errs.counts[k] + 1) } }

/-- The third record of severity deferred within 24 hours from the VE, ME or scratchpad of one core makes it a retirement
candidate (R517), and CORE_RETIRE_CAND says so (Table 17-5). [DESIGN CHOICE: log entry 108] -/
def State.coreCandidate (s : State) (x : Event) : State :=
  match x.core with
  | some c =>
    if x.sev = 1 ∧ (x.unit = 1 ∨ x.unit = 2 ∨ x.unit = 5) then
      let ts := (s.now :: tget s.errs.coreDeferred [] c.toNat).filter (fun t => decide (s.now < t + 86400 * 10 ^ 9))
      let s := { s with errs := { s.errs with coreDeferred := tset s.errs.coreDeferred c.toNat ts } }
      let q := 272 * (c.toNat / 256) + (s.position c).getD 0
      if 3 ≤ ts.length ∧ !nhas s.errs.candidates q then
        (({ s with errs := { s.errs with candidates := nins s.errs.candidates q } } : State).tally 1).logPut
          { x with cause := 0x0308, detail := [] }
      else s
    else s
  | none => s

/-- A record merges with the last one logged (R516). -/
def State.merges (s : State) (r : Record) : Bool :=
  match (s.errs.log.filter (fun q => !q.notice)).getLast? with
  | some q => q.same r && decide (s.now < s.errs.lastAt + 10 ^ 9)
  | none => false

/-- A record or a notice is posted: merged with the last record within 1 s, suppressed beyond 64 corrected records of its
unit in 1 s, or logged (R514 to R519). [DEDUCED: log entry 137] -/
def State.log (s : State) (x : Event) : State :=
  let r := s.entry x
  if x.notice then s.logPut x
  else
    let s := s.tally x.sev
    let merged : Bool := s.merges r
    let w := if x.sev = 0 then stepWindows s.errs.windows r.die r.unit r.pos s.now merged else (s.errs.windows, true, false)
    let s : State := { s with errs := { s.errs with windows := w.1 } }
    let s : State :=
      if merged then { s with errs := { s.errs with log := bumpLast s.errs.log } }
      else if w.2.1 then (s.logPut x).noteFatal (if 2 ≤ x.sev then x.job else 0) r.idx
      else s
    let s :=
      if w.2.2 then
        let y : Event := { x with sev := 1, cause := 0x0708, detail := [] }
        ((s.tally 1).logPut y).coreCandidate y
      else s
    (if merged then s else s.coreCandidate x).severity x

/-- A row that a core reports as a repair candidate enters the field repair ledger (R205).
[DESIGN CHOICE: log entry 149] -/
def State.ledgerRow (s : State) (id : CoreId) (p : Post) : State :=
  match s.position id with
  | some q =>
    let x : RepairEntry := .scratchpad (Fin.ofNat 32 (id.toNat / 256)) (BitVec.ofNat 5 (q / 16)) (BitVec.ofNat 4 q)
      (BitVec.ofNat 4 ((p.detail.getD 0 0).toNat)) (BitVec.ofNat 12 ((p.detail.getD 1 0).toNat))
    { s with mp := { s.mp with repairs := s.mp.repairs.filter (fun y => decide (y ≠ x)) ++ [x] } }
  | none => s

/-- A record that a core hands to the MP. -/
def State.corePost (s : State) (id : CoreId) (p : Post) : State :=
  let s := if p.cause = 0x0104 then s.ledgerRow id p else s
  s.log { notice := false, sev := p.sev, job := (s.jobOf id).elim 0 (fun j => j.val + 1), cause := p.cause,
          die := id.toNat / 256, unit := p.unit, pos := (s.position id).getD 0, sub := p.sub, core := some id, addr := p.addr,
          detail := p.detail }

end Sys2Proof.Machine
end

