-- ==== Sys2Proof/Machine/CoreMaps.lean ====
section
/-! DEFINITION. The core map of each C-die as the management processor keeps it: positions and their states, free risers, the
index of a retired core moved to a riser, and the limits of retired nodes (R303 to R310). -/

namespace Sys2Proof.Machine

/-- The core map of a die in both sets. -/
def State.mapMap (s : State) (d : Nat) (f : CoreMap → CoreMap) : State :=
  let g (c : ConfigSet) : ConfigSet := { c with maps := tset c.maps d (f (c.map (perDie s.ident.code) d)) }
  { s with lastSet := s.active, active := g s.active, shadow := g s.shadow }

/-- Positions of a set of package positions that lie on a die. -/
def onDie (x : NatSet) (d : Nat) : NatSet := (x.filter (fun q => q / 272 == d)).map (fun q => q % 272)

/-! ### Positions and risers -/

/-- A position of a die is in service under the map in force: no fuse, map register or self-test retires it (R304). -/
def State.inService (s : State) (die p : Nat) : Bool :=
  let m := s.coreMap die
  !nhas m.cret p && !nhas m.nret p && !nhas (s.die die).fret p && !nhas s.board.failedCores (272 * die + p)

/-- No entry of the ledger retires it either. -/
def State.healthy (s : State) (die p : Nat) : Bool :=
  s.inService die p && !nhas s.mp.retiredCores (272 * die + p) && !nhas s.mp.retiredNodes (272 * die + p)

/-- The free risers of a die, by raster position (R305): an entry of the ledger takes none away before its time (Table 10-4). -/
def State.freeRisers (s : State) (die : Nat) : List Nat :=
  (List.range 272).filter (fun p => s.inService die p && !(s.coreMap die).remap.any (fun x => x.2 == p))

/-- Distance of two positions in rows and columns. -/
def posDistance (p q : Nat) : Nat := (p / 16 - q / 16) + (q / 16 - p / 16) + (p % 16 - q % 16) + (q % 16 - p % 16)

/-- The first of a list that is nearest to a position; raster order settles a tie by the lower row, then the lower column
(R306). -/
def nearestTo (old : Nat) : List Nat → Option Nat
  | [] => none
  | p :: ps =>
    match nearestTo old ps with
    | none => some p
    | some q => if posDistance old q < posDistance old p then some q else some p

/-- The free riser that takes the index of a core (R306). -/
def State.freeRiser (s : State) (id : CoreId) : Option Nat :=
  let d := id.toNat / 256
  nearestTo ((s.position id).getD 0) ((s.freeRisers d).filter (fun p => s.healthy d p))

/-- A die that must replace a core and has no free riser: the record fatal to the module, and the module needs return
(R308). -/
def State.exhausted (s : State) (die : Nat) (id : Option CoreId) : State :=
  let s := { s with mp := { s.mp with noRisers := nins s.mp.noRisers die, needRet := true } }
  s.log { mpEvent 3 0x0307 [] with die := die, unit := 16, core := id }

/-- The position that an index leaves is a retired core of the ledger, unless it is a retired node (R304); the count of its records
restarts (R517). -/
def State.leavePosition (s : State) (id : CoreId) : State :=
  match s.place id with
  | none => s
  | some q =>
    let s := { s with errs := { s.errs with coreDeferred := tdel s.errs.coreDeferred id.toNat } }
    if nhas s.mp.retiredNodes q then s
    else { s with mp := { s.mp with retiredCores := nins s.mp.retiredCores q }
                  errs := { s.errs with candidates := ndel s.errs.candidates q } }

/-- A core's index moves to a position of its die, in both sets (R306, R467), whose vector engine has passed its tests; a position
that it leaves and that is no node is a retired core. -/
def State.moveIndex (s : State) (id : CoreId) (p : Nat) : State :=
  let s := s.leavePosition id
  let d := id.toNat / 256
  let f (c : ConfigSet) : ConfigSet :=
    let m := c.map (perDie s.ident.code) d
    { c with maps := tset c.maps d { m with
        cret := match m.remap.find? (fun x => x.1 == id.toNat % 256) with
          | some x => if nhas m.nret x.2 then m.cret else nins m.cret x.2
          | none => m.cret
        remap := tset m.remap (id.toNat % 256) p, off := tdel m.off (id.toNat % 256) } }
  let s := { s with lastSet := s.active, active := f s.active, shadow := f s.shadow }
  let c := s.core id
  if c.ve.failed then s.setCore id { c with ve := { c.ve with failed := false, restr := false } } else s

/-- The index of a core on a position that is no longer in service moves to a riser; without one the die is exhausted (R306,
R308). -/
def State.replaceCore (s : State) (id : CoreId) : State :=
  match s.freeRiser id with
  | some p => s.moveIndex id p
  | none => s.exhausted (id.toNat / 256) (some id)

/-- The retired cores that the map of a die names: those of the fuses that are not nodes, and those of the ledger and of the
self-test that hold no index, free risers among them (R304, Table 10-4). -/
def State.cretOf (s : State) (d : Nat) : NatSet :=
  let free (p : Nat) : Bool := (s.coreAt (272 * d + p)).isNone
  let fused := (s.die d).fret.filter (fun p => !nhas s.sec.fuses.nodes (272 * d + p))
  let ps := fused ++ (onDie s.mp.retiredCores d ++ onDie s.board.failedCores d).filter free
  ninsAll [] (ps.filter (fun p => !nhas (s.coreMap d).nret p))

/-- The retired cores of every die are those of the fuses and the ledger: a readmitted core is a free riser again (Table 10-4).
[DEDUCED: log entry 68] -/
def State.rejoin (s : State) : State :=
  (List.range 32).foldl (fun s d =>
    let w := s.cretOf d
    if w == (s.coreMap d).cret then s else s.mapMap d (fun m => { m with cret := w })) s

/-! ### Retired nodes -/

/-- Every retired node of a die: its map's, and the ledger's (R304, R310). -/
def State.nodes (s : State) (d : Nat) : NatSet := ninsAll (s.coreMap d).nret (onDie s.mp.retiredNodes d)

/-- Two positions differ by at least 3 in row or in column. -/
def spaced (p q : Nat) : Bool :=
  decide (3 ≤ (p / 16 - q / 16) + (q / 16 - p / 16)) || decide (3 ≤ (p % 16 - q % 16) + (q % 16 - p % 16))

/-- A die may have one more retired node: at most four, each clear of every other (R310). -/
def State.nodeFits (s : State) (d p : Nat) : Bool :=
  let others := ndel (s.nodes d) p
  decide (others.length < 4) && others.all (fun q => spaced p q)

/-- A node retirement that breaks a limit: the die is treated as one without risers (R310, R308).
[DEDUCED: log entry 86] -/
def State.nodeLimit (s : State) (d : Nat) : State :=
  let s := { s with mp := { s.mp with noRisers := nins s.mp.noRisers d, needRet := true } }
  s.log { mpEvent 3 0x0309 [] with die := d }

/-- The limits of R310 hold on a die. -/
def nodesFit (l : NatSet) : Bool := decide (l.length ≤ 4) && l.all (fun p => l.all (fun q => p == q || spaced p q))

/-- A die whose retired nodes, those of the ledger among them, break the limits. -/
def State.checkNodes (s : State) (d : Nat) : State := if nodesFit (s.nodes d) then s else s.nodeLimit d

/-- Nodes join a set of retired ones one after the other, as far as the limits allow (R310). -/
def addNodes (l : NatSet) : List Nat → NatSet
  | [] => l
  | p :: ps => addNodes (if nodesFit (nins l p) then nins l p else l) ps

/-- Nodes that the MP records enter the ledger as far as the limits of R310 allow; where one would break them the die is treated as
one without risers, and the node stays a candidate. -/
def State.retireNodes (s : State) : List Nat → State
  | [] => s
  | q :: qs =>
    if s.nodeFits (q / 272) (q % 272) then
      ({ s with mp := { s.mp with retiredNodes := nins s.mp.retiredNodes q }
                errs := { s.errs with nodeCandidates := ndel s.errs.nodeCandidates q } } : State).retireNodes qs
    else (s.nodeLimit (q / 272)).retireNodes qs

/-- The retired nodes of a die are those of the fuses and the ledger, at a module reset or a fettle of the whole die, when the
detour entries are written (Table 10-4). -/
def State.bootNodes (s : State) (d : Nat) : State :=
  let w := addNodes (onDie s.sec.fuses.nodes d) (onDie s.mp.retiredNodes d)
  if w == (s.coreMap d).nret then s else s.mapMap d (fun m => { m with nret := w, cret := ndelAll m.cret w })

/-- The cores that stand on positions out of service. -/
def State.misplaced (s : State) (d : Nat) : List CoreId :=
  ((s.coreMap d).remap.filter (fun x => !s.healthy d x.2)).map (fun x => BitVec.ofNat 13 (256 * d + x.1))

/-- Retired nodes take effect on a die at a module reset, the limits are checked, and cores on positions out of service move (R306,
R310). -/
def State.settleDie (s : State) (d : Nat) : State :=
  let s := (s.bootNodes d).checkNodes d
  (s.misplaced d).foldl State.replaceCore s

/-- Retired nodes take effect on a die at a fettle of the whole die, and only the indices on them move; the retired cores wait for a
JOB_LOAD, a reset or a pour (Table 10-4). -/
def State.settleNodes (s : State) (d : Nat) : State :=
  let s := (s.bootNodes d).checkNodes d
  let m := s.coreMap d
  ((m.remap.filter (fun x => nhas m.nret x.2)).map (fun x => BitVec.ofNat 13 (256 * d + x.1))).foldl State.replaceCore s

/-! ### When the map may change -/

/-- No flit of a job is in flight to or from a die (R307): no core of it, and none that accesses it, has an access under way.
[DESIGN CHOICE: log entry 128] -/
def State.quietDie (s : State) (d : Nat) : Bool :=
  s.cores.all (fun x =>
    x.2.spm.remote.all (fun r => r.dead || (x.1 / 256 != d && r.target.toNat / 256 != d)) &&
      (x.1 / 256 != d ||
        (x.2.de.misses.isEmpty && (List.finRange 4).all (fun q => (x.2.de.q[q]).descs.all (fun r => r.grans.isEmpty)))))

end Sys2Proof.Machine
end

