-- ==== Sys2Proof/Machine/DeOps.lean ====
section
/-! DEFINITION. What the rest of a core asks of its DMA queues: the words of a descriptor, the halt of a queue, and what
RESUME and FLUSH do (R259, R271, R272). -/

namespace Sys2Proof.Machine

/-- Word `i` of a descriptor (Table 9-2). -/
def DescRun.word (r : DescRun) (i : Fin 16) : Nat := (r.d.words[i]).toNat

/-- Queue `q` changed. -/
def Core.mapDq (q : Fin 4) (f : Dq → Dq) (c : Core) : Core :=
  { c with de := { c.de with q := c.de.q.set q (f c.de.q[q]) } }

/-- The descriptor at place `i` of queue `q` changed. -/
def Core.mapDesc (q : Fin 4) (i : Nat) (f : DescRun → DescRun) (c : Core) : Core :=
  c.mapDq q (fun d => { d with descs := d.descs.modify i f })

/-- A part with its answer, when it is the access `key`. -/
def Part.answered (key : Nat) (o : GranuleOutcome) (x : Payload) (p : Part) : Part :=
  if p.key = some key then { p with answer := some (o, x) } else p

/-- The answer to the access `key` of queue `q` has come. -/
def Core.setAnswer (q : Fin 4) (key : Nat) (o : GranuleOutcome) (x : Payload) (c : Core) : Core :=
  c.mapDq q (fun d => { d with descs := d.descs.map (fun r => { r with grans := r.grans.map (fun g =>
    { g with reads := g.reads.map (Part.answered key o x), write := g.write.map (Part.answered key o x) }) }) })

/-- A descriptor raises an exception: its queue halts and records the fault, the first one it met, and the exception is
on its way to the thread that enqueued it (R271 to R273). [DESIGN CHOICE: log entry 32] -/
def Core.dqFault (q : Fin 4) (i : Nat) (code : BitVec 8) (opid : BitVec 4) (x : Exc) (c : Core) : Core :=
  match (c.de.q[q]).descs[i]? with
  | none => c
  | some r =>
    ((c.mapDq q (fun d =>
        if d.halt then d
        else { d with halt := true, errCode := code, errOpid := opid, errAddr := BitVec.ofNat 22 r.off,
                      errTag := BitVec.ofNat 32 (r.word 15) })).mapDesc q i (fun r => { r with faulted := true })).arrive
      r.thread x

/-- DMA_DESCRIPTOR of the descriptor at place `i` (R273). -/
def Core.dqDescriptor (q : Fin 4) (i : Nat) (code : BitVec 8) (opid : BitVec 4) (c : Core) : Core :=
  match (c.de.q[q]).descs[i]? with
  | none => c
  | some r => c.dqFault q i code opid (exc 0x0C opid 3 r.off)

/-- The descriptor has completed (R266): each of its writes has been performed, and the steps of R284 are done. Its signals may
still be due. -/
def DescRun.over (r : DescRun) : Bool :=
  r.filling || (r.started && r.allIssued && r.grans.isEmpty && !r.faulted && (bitsAt (r.word 0) 28 4 != 4 || r.loaded))

/-- The slot fill of an abandoned descriptor is abandoned with it: a local one leaves the waiting order, a remote one is
withdrawn (R272). [DESIGN CHOICE: log entry 32] -/
def Core.dropFills (q : Fin 4) (c : Core) : Core :=
  if (c.de.q[q]).descs.any (fun r => r.abandoned && r.filling) then
    let mine (who : RemoteUser) : Bool := match who with | .fill p _ => p == q | _ => false
    ({ c with spm := { c.spm with
        waits := c.spm.waits.filter (fun x => decide (x.who ≠ .fill q))
        remote := c.spm.remote.map (fun r => if mine r.who then { r with withdrawal := true, dead := true } else r) } }
      : Core).mapDq q (fun d => { d with descs := d.descs.map (fun r => if r.abandoned then { r with filling := false } else r) })
  else c

/-- Abandoned descriptors leave the queue, those with granules still to return once the last has (R272). -/
def dropAbandoned (l : List DescRun) : List DescRun := l.filter (fun r => !(r.abandoned && r.grans.isEmpty))

/-- From the first faulting descriptor of an entry on, the entry's descriptors are abandoned. -/
def abandonFaulting : List Nat → List DescRun → List DescRun
  | _, [] => []
  | es, r :: rs =>
    let es := if r.faulted && !r.abandoned then r.entry :: es else es
    (if es.any (fun x => x == r.entry) then { r with abandoned := true } else r) :: abandonFaulting es rs

/-- A write of 1 to DQq_CTL.RESUME (R272). [DESIGN CHOICE: log entry 32] -/
def Core.dqResume (q : Fin 4) (c : Core) : Core :=
  if (c.de.q[q]).halt then
    ((c.mapDq q (fun d => { d with halt := false, descs := abandonFaulting [] d.descs })).dropFills q).mapDq q (fun d =>
      { d with descs := dropAbandoned d.descs })
  else c

/-- A write of 1 to DQq_CTL.FLUSH (R272). The entries still in the issue queue are entries of the queue. -/
def Core.dqFlush (q : Fin 4) (c : Core) : Core :=
  if (c.de.q[q]).halt then
    let c := ((c.mapDq q (fun d => { d with halt := false, descs := d.descs.map (fun r => { r with abandoned := true }) })).dropFills
      q).mapDq q (fun d => { d with descs := dropAbandoned d.descs })
    { c with de := { c.de with issue := c.de.issue.filter (fun x => match x with | .denq p _ => p != q | _ => true) } }
  else c

/-- Numbers without repeats, in the order of their first place. -/
def distinct : List Nat → List Nat → List Nat
  | _, [] => []
  | seen, x :: xs => if seen.any (fun y => y == x) then distinct seen xs else x :: distinct (x :: seen) xs

/-- The entries of queue `q` that the DE holds, those in its issue queue included (R256). -/
def Core.dqEntries (c : Core) (q : Fin 4) : Nat :=
  (distinct [] ((c.de.q[q]).descs.map (fun r => r.entry))).length +
    (c.de.issue.filter (fun x => match x with | .denq p _ => p == q | _ => false)).length

/-- Entries no descriptor of which has started. -/
def Core.dqPend (c : Core) (q : Fin 4) : Nat :=
  let ds := (c.de.q[q]).descs
  let started := (ds.filter (fun r => r.started || r.abandoned)).map (fun r => r.entry)
  ((distinct [] (ds.map (fun r => r.entry))).filter (fun x => !started.any (fun y => y == x))).length +
    (c.de.issue.filter (fun x => match x with | .denq p _ => p == q | _ => false)).length

/-- How many granules a transfer is: one for each 64 bytes of the destination that it touches (R265). -/
def granulesOf (dst len : Nat) : Nat := (dst + len - 1) / 64 + 1 - dst / 64

/-- Granules of queue `q` that await a response. -/
def Core.dqOut (c : Core) (q : Fin 4) : Nat :=
  ((c.de.q[q]).descs.map (fun r => (r.grans.map (fun g => granulesOf g.dst g.len)).sum)).sum

/-- DQq_STAT (Table 9-7). -/
def Core.dqStat (c : Core) (q : Fin 4) : Nat :=
  b2n (c.de.q[q]).halt * 2 ^ 31 + b2n ((c.de.q[q]).descs.any (fun r => r.started && !r.abandoned)) * 2 ^ 30 +
    c.dqPend q * 2 ^ 16 + c.dqOut q

end Sys2Proof.Machine
end

