-- ==== Sys2Proof/Machine/Operands.lean ====
section
/-! DEFINITION. The operands of SE and DE instructions: the form Table 3-8 gives an opcode, the conditions of R71, the
modes of Table 3-6, reading, writing and post-increment (R72 to R76), the binary32 interlock (Table 3-10), the range
tracker (R237) and watchpoints (R523). -/

namespace Sys2Proof.Machine

/-- The type an operand is read or written at: its bytes, its alignment, and whether an immediate is binary32. -/
structure OpTy where
  bytes : Nat
  align : Nat
  f32 : Bool
  deriving DecidableEq, Repr

/-- The types of Table 3-5 by SZ code: a reserved code has none. -/
def tyOfSz (sz : BitVec 3) : Option OpTy :=
  match sz.toNat with
  | 0 => some ⟨1, 1, false⟩
  | 1 => some ⟨2, 2, false⟩
  | 2 => some ⟨4, 4, false⟩
  | 3 => some ⟨8, 8, false⟩
  | 4 => some ⟨4, 4, true⟩
  | _ => none

/-- I32. -/
def tyI32 : OpTy := ⟨4, 4, false⟩
/-- I64. -/
def tyI64 : OpTy := ⟨8, 8, false⟩
/-- The integer type of a MOD code: I8, I16, I32, I64. -/
def tyOfMod (m : BitVec 2) : OpTy := ⟨2 ^ m.toNat, 2 ^ m.toNat, false⟩

/-- Which modes an operand accepts beyond Table 3-6. -/
inductive Modes | any | immediate | scratchpad
  deriving DecidableEq, Repr

/-- An operand an instruction uses. -/
structure Role where
  ty : OpTy
  modes : Modes
  reads : Bool
  writes : Bool
  deriving DecidableEq, Repr

/-- A source operand of a type. -/
def src (ty : OpTy) : Role := ⟨ty, .any, true, false⟩
/-- A destination operand of a type. -/
def dst (ty : OpTy) : Role := ⟨ty, .any, false, true⟩
/-- An operand that is read and then written. -/
def srcDst (ty : OpTy) : Role := ⟨ty, .any, true, true⟩
/-- An operand that must be an immediate. -/
def immOp (ty : OpTy) : Role := ⟨ty, .immediate, true, false⟩

/-- The form of an instruction: whether its SZ and MOD are allowed, and the operands it uses. -/
structure Form where
  ok : Bool
  d : Option Role
  a : Option Role
  b : Option Role
  deriving DecidableEq, Repr

/-- Extension bits of a specifier, or none when its encoding is reserved (Table 3-6). -/
def specBits (s : BitVec 6) : Option Nat :=
  let mode := s.toNat / 8
  let sel := s.toNat % 8
  match mode with
  | 0 => if sel = 0 then some 16 else if sel = 1 then some 32 else none
  | 1 => if sel < 4 then some 16 else none
  | 2 | 3 | 4 => some 16
  | 5 | 6 => some 0
  | _ => if sel < 4 then some 0 else none

/-- Extension bits of an operand of a role: an unused operand must be encoded as none; a used one must not be, must
have a mode its role accepts, and must not be an immediate when it is written (R71, Table 3-8). -/
def roleBits (r : Option Role) (s : BitVec 6) : Option Nat :=
  match r with
  | none => if s = 0x3F then some 0 else none
  | some r =>
    let mode := s.toNat / 8
    let fits := match r.modes with
      | .any => true
      | .immediate => mode == 0
      | .scratchpad => decide (1 ≤ mode ∧ mode ≤ 4)
    if fits && !(r.writes && mode == 0) then specBits s else none

/-- Extension bits of the three operands, in the order d, a, b (R70). [DEDUCED: log entry 14] -/
def formBits (f : Form) (w : SeWord) : Option (Nat × Nat × Nat) :=
  match roleBits f.d w.osd, roleBits f.a w.osa, roleBits f.b w.osb with
  | some x, some y, some z => some (x, y, z)
  | _, _, _ => none

/-- The encoding is legal (R71): the form's SZ and MOD, the specifiers, LEN, and no bit above the last field.
[DEDUCED: log entries 14, 15] -/
def legal (f : Form) (w : SeWord) : Bool :=
  match formBits f w with
  | none => false
  | some (x, y, z) =>
    f.ok && w.len != 3 && x + y + z ≤ 64 && w.len.toNat == ceilDiv (x + y + z) 32 &&
      w.ext.toNat >>> (x + y + z) == 0

/-- Where an operand lies, resolved. -/
inductive Loc
  | none
  | imm (v : Nat)
  | mem (addr : Nat)
  | areg (i : Fin 8)
  | special (i : Fin 8)
  | loopCount (i : Fin 4)
  deriving DecidableEq, Repr

/-- An operand resolved: its location, its role and the register it increments (R75). -/
structure Operand where
  loc : Loc
  ty : OpTy
  reads : Bool
  writes : Bool
  inc : Option (Fin 8 × Word)
  deriving DecidableEq, Repr

/-- A 16-bit extension field as a signed byte count. -/
def ext16 (x : Nat) : Word := BitVec.ofInt 32 (signed 16 x)

/-- The address of an indexed operand (Table 3-7, R76). -/
def indexAddr (r : Regs) (a : Word) (x : Nat) : Word :=
  a + (r.lc[Fin.ofNat 4 (bitsAt x 14 2)] <<< bitsAt x 10 4) + BitVec.ofInt 32 (signed 10 x)

/-- An immediate taken at its type (R73). -/
def immValue (ty : OpTy) (bits x : Nat) : Nat :=
  if ty.f32 then (if bits = 16 then x * 65536 else x) else toBits (8 * ty.bytes) (signed bits x)

/-- An operand of a role resolved against the registers, with its extension field `x` of `bits` bits. -/
def resolve (r : Regs) (role : Option Role) (s : BitVec 6) (bits x : Nat) : Operand :=
  match role with
  | none => ⟨.none, tyI32, false, false, none⟩
  | some o =>
    let sel := s.toNat % 8
    let i : Fin 8 := Fin.ofNat 8 sel
    let mk (l : Loc) : Operand := ⟨l, o.ty, o.reads, o.writes, none⟩
    match s.toNat / 8 with
    | 0 => mk (.imm (immValue o.ty bits x))
    | 1 => mk (.mem (r.p[Fin.ofNat 4 sel].toNat * 65536 + x))
    | 2 => mk (.mem (r.a[i] + ext16 x).toNat)
    | 3 => { mk (.mem r.a[i].toNat) with inc := some (i, ext16 x) }
    | 4 => mk (.mem (indexAddr r r.a[i] x).toNat)
    | 5 => mk (.areg i)
    | 6 => mk (.special i)
    | _ => mk (.loopCount (Fin.ofNat 4 sel))

/-- The three operands of an instruction. -/
structure Operands where
  d : Operand
  a : Operand
  b : Operand
  deriving DecidableEq, Repr

/-- Every operand's address is formed from the registers before the instruction (R75). -/
def operands (f : Form) (w : SeWord) (r : Regs) : Operands :=
  let (x, y, z) := (formBits f w).getD (0, 0, 0)
  let e := w.ext.toNat
  { d := resolve r f.d w.osd x (bitsAt e 0 x)
    a := resolve r f.a w.osa y (bitsAt e x y)
    b := resolve r f.b w.osb z (bitsAt e (x + y) z) }

/-- Their list with the operand codes of EXC_DETAIL.OPID. -/
def Operands.all (o : Operands) : List (BitVec 4 × Operand) := [(1, o.d), (2, o.a), (3, o.b)]

/-- ALIGN or SPM_BOUND of a scratchpad operand (R66 to R68). -/
def operandExc (e : Env) (p : BitVec 4 × Operand) : List Exc :=
  match p.2.loc with
  | .mem addr =>
    (if addr % p.2.ty.align = 0 then [] else [exc 0x02 p.1 0 addr]) ++
    (if addr + p.2.ty.bytes ≤ e.spmSize then [] else [exc 0x03 p.1 0 addr])
  | _ => []

/-- ECC_UNCORRECTED of a scratchpad operand that is read (R203). The 64 bytes of a slot or a descriptor are moved or copied
and not taken as a value here. -/
def poisonExc (c : Core) (p : BitVec 4 × Operand) : List Exc :=
  match p.2.loc with
  | .mem addr =>
    if p.2.reads && p.2.ty.bytes != 64 && poisoned c.spm.poison addr p.2.ty.bytes then [exc 0x0A p.1 0 addr] else []
  | _ => []

/-- The exceptions the operands raise. -/
def Operands.excs (e : Env) (c : Core) (o : Operands) : List Exc :=
  (o.all.map (operandExc e)).flatten ++ (o.all.map (poisonExc c)).flatten

/-- The register an address or a value comes from. -/
def specReg (s : BitVec 6) : Dest :=
  let i : Fin 8 := Fin.ofNat 8 (s.toNat % 8)
  match s.toNat / 8 with
  | 2 | 3 | 4 | 5 => .areg i
  | 6 => .special i
  | 7 => if s.toNat % 8 < 4 then .loopCount (Fin.ofNat 4 (s.toNat % 8)) else .none
  | 1 => .special (Fin.ofNat 8 (4 + s.toNat % 4))
  | _ => .none

/-- The special register SEL names is the low bits of the register: MH, ML, QOT, REM, P0 to P3 (Table 3-6). -/
def readSpecial (r : Regs) (i : Fin 8) : Nat :=
  match i.val with
  | 0 => r.mh.toNat
  | 1 => r.ml.toNat
  | 2 => r.qot.toNat
  | 3 => r.rem.toNat
  | n => r.p[Fin.ofNat 4 (n - 4)].toNat

/-- The value of an operand, at its type (R74). -/
def Operand.value (o : Operand) (c : Core) (t : Fin 4) : Nat :=
  let r := (c.th t).r
  let cut (x : Nat) : Nat := x % 2 ^ (8 * o.ty.bytes)
  match o.loc with
  | .none => 0
  | .imm v => v
  | .mem addr => c.spm.read addr o.ty.bytes
  | .areg i => cut r.a[i].toNat
  | .special i => cut (readSpecial r i)
  | .loopCount i => cut r.lc[i].toNat

/-- The destination an operand names. -/
def Operand.dest (o : Operand) : Dest :=
  match o.loc with
  | .mem addr => .mem addr o.ty.bytes
  | .areg i => .areg i
  | .special i => .special i
  | .loopCount i => .loopCount i
  | _ => .none

/-- A special register written (R74); a page register keeps bits [5:0] (R66). -/
def writeSpecial (r : Regs) (i : Fin 8) (v : Nat) : Regs :=
  match i.val with
  | 0 => { r with mh := BitVec.ofNat 64 v }
  | 1 => { r with ml := BitVec.ofNat 64 v }
  | 2 => { r with qot := BitVec.ofNat 64 v }
  | 3 => { r with rem := BitVec.ofNat 64 v }
  | n => { r with p := r.p.set (Fin.ofNat 4 (n - 4)) (BitVec.ofNat 6 v) }

/-- A value of `bytes` bytes written to a destination (R74). -/
def Core.writeDest (t : Fin 4) (d : Dest) (bytes v : Nat) (c : Core) : Core :=
  let v := v % 2 ^ (8 * bytes)
  match d with
  | .none => c
  | .mem addr n => c.mapSpm (fun m => m.write addr (leBytes n v))
  | .areg i => c.mapR t (fun r => { r with a := r.a.set i (BitVec.ofNat 32 v) })
  | .special i => c.mapR t (fun r => writeSpecial r i v)
  | .loopCount i => c.mapR t (fun r => { r with lc := r.lc.set i (BitVec.ofNat 32 v) })

/-- A binary32 result is written and its flags are set (R38, R200). -/
def Core.writeFp (t : Fin 4) (c : Core) : Core :=
  match (c.th t).fps with
  | [] => c
  | f :: fs => ((c.mapTh t (fun h => { h with fps := fs })).writeDest t f.dest f.bytes f.value.toNat).flag f.flags

/-- The oldest `n` binary32 results in flight of a thread are written. -/
def Core.writeFps (t : Fin 4) : Nat → Core → Core
  | 0, c => c
  | n + 1, c => (c.writeFp t).writeFps t n

/-- Every instruction of the thread that has issued has its result written (R87, R105): binary32 results and those of MUL,
DIV and FSQRT. -/
def Core.flushAll (t : Fin 4) (c : Core) : Core := (c.writeFps t (c.th t).fps.length).flushLate t

/-- The post-increments of an instruction, in the order d, a, b; a register it also writes keeps the written value
(R75). -/
def Core.increments (t : Fin 4) (o : Operands) (c : Core) : Core :=
  let written (i : Fin 8) : Bool := o.all.any (fun p => p.2.writes && decide (p.2.loc = .areg i))
  (o.all.filterMap (fun p => p.2.inc)).foldl
    (fun c p => if written p.1 then c else c.mapR t (fun r => { r with a := r.a.set p.1 (r.a[p.1] + p.2) })) c

/-! ### Interlock, tracker, watchpoints -/

/-- Two byte ranges meet. -/
def rangesMeet (a n b m : Nat) : Bool := decide (a < b + m ∧ b < a + n)

/-- An operand names what a binary32 result in flight will write (Table 3-10): its scratchpad range, its register, or
the register its address is formed from. -/
def meetsResult (f : FpResult) (s : BitVec 6) (x : Nat) (o : Operand) : Bool :=
  match f.dest, o.loc with
  | .none, _ | _, .none | _, .imm _ => false
  | .mem a n, .mem b => rangesMeet a n b o.ty.bytes
  | .mem _ _, _ => false
  | d, _ => decide (specReg s = d) ||
      (s.toNat / 8 == 4 && decide (d = .loopCount (Fin.ofNat 4 (bitsAt x 14 2))))

/-- No operand waits for a binary32 result in flight. -/
def noInterlock (c : Core) (t : Fin 4) (f : Form) (w : SeWord) (o : Operands) : Bool :=
  let (x, y, z) := (formBits f w).getD (0, 0, 0)
  let e := w.ext.toNat
  (c.th t).fps.all (fun r => !meetsResult r w.osd (bitsAt e 0 x) o.d && !meetsResult r w.osa (bitsAt e x y) o.a &&
    !meetsResult r w.osb (bitsAt e (x + y) z) o.b)

/-- A range of segments shares one with an entry of the thread (R237). -/
def trackHit (c : Core) (t : Fin 4) (first last : Nat) : Bool :=
  c.tracker.any (fun k => decide (k.thread = t) && decide (k.first ≤ last ∧ first ≤ k.last))

/-- The segments of a byte range. -/
def segFirst (addr : Nat) : Nat := addr / 64
def segLast (addr bytes : Nat) : Nat := (addr + bytes - 1) / 64

/-- The tracker holds back none of the ranges, and has an entry free for each that takes one (R237); in QUEUED mode
there is no tracker (R238). -/
def tracked (c : Core) (t : Fin 4) (ranges : List (Nat × Nat)) (entries : Nat) : Bool :=
  c.queued || ((ranges.all (fun p => p.2 == 0 || !trackHit c t (segFirst p.1) (segLast p.1 p.2))) &&
    decide (c.tracker.length + entries ≤ 64))

/-- The scratchpad ranges of the operands. -/
def Operands.ranges (o : Operands) : List (Nat × Nat) :=
  o.all.filterMap (fun p => match p.2.loc with | .mem a => some (a, p.2.ty.bytes) | _ => none)

/-- The scratchpad destinations of an instruction, each of which takes a tracker entry (Table 8-3). -/
def Operands.entries (o : Operands) : Nat :=
  (o.all.filter (fun p => p.2.writes && match p.2.loc with | .mem _ => true | _ => false)).length

/-- A watchpoint matches an access of thread `t` (R523). -/
def watchHit (c : Core) (t : Fin 4) (addr bytes : Nat) (reads writes : Bool) : Bool :=
  c.dbg.attached && !(c.th t).pass &&
    c.dbg.wp.any (fun p => p.en && p.threads.getLsbD t && ((p.rd && reads) || (p.wr && writes)) &&
      rangesMeet p.base.toNat (p.limit.toNat - p.base.toNat) addr bytes)

/-- No binary32 result in flight of thread `t` is to be written to these bytes of the scratchpad (Table 3-10). -/
def fpFree (c : Core) (t : Fin 4) (addr bytes : Nat) : Bool :=
  (c.th t).fps.all (fun f => match f.dest with | .mem a n => !rangesMeet a n addr bytes | _ => true)

/-- An access of bytes of the core's own scratchpad that no operand names is held back, as an operand's would be: by a
watchpoint, by a binary32 result in flight, or by the tracker, of which it takes `entries` (Table 3-10, R84, R237, R523). -/
def bytesHeld (c : Core) (t : Fin 4) (addr bytes : Nat) (store : Bool) (entries : Nat) : Bool :=
  watchHit c t addr bytes (!store) store || !fpFree c t addr bytes || !tracked c t [(addr, bytes)] entries

/-- Some operand is watched. -/
def Operands.watched (c : Core) (t : Fin 4) (o : Operands) : Bool :=
  o.all.any (fun p => match p.2.loc with
    | .mem a => watchHit c t a p.2.ty.bytes p.2.reads p.2.writes
    | _ => false)

/-- The tracker takes an entry, in TRACKED mode (R236). -/
def Core.track (t : Fin 4) (addr bytes : Nat) (write : Bool) (seq : Nat) (c : Core) : Core :=
  if c.queued || bytes = 0 then c
  else { c with tracker := c.tracker ++
    [{ thread := t, first := segFirst addr, last := segLast addr bytes, write := write, seq := seq }] }

/-- The address a scratchpad operand names. -/
def Operand.addr (o : Operand) : Nat := match o.loc with | .mem a => a | _ => 0

/-- The scratchpad destination of an instruction that still waits takes its entry (R236). -/
def Core.trackDest (t : Fin 4) (o : Operand) (c : Core) : Core :=
  match o.loc with
  | .mem a => c.track t a o.ty.bytes true c.seq
  | _ => c

end Sys2Proof.Machine
end

