-- ==== Sys2Proof/Machine/Forms.lean ====
section
/-! DEFINITION. The forms of SE and DE instructions: the operands each uses, at which type, and the SZ and MOD it allows
(Tables 3-8 and 9-1, R74, R79, R84, R91). -/

namespace Sys2Proof.Machine

/-! ### Types -/

/-- A form with a type that may be absent: without one the encoding is illegal. -/
def formOf (ty : Option OpTy) (ok : Bool) (d a b : OpTy → Option Role) : Form :=
  match ty with
  | none => ⟨false, none, none, none⟩
  | some ty => ⟨ok, d ty, a ty, b ty⟩

/-- The types I8 to I64. -/
def intTy (w : SeWord) : Option OpTy := if w.sz.toNat < 4 then tyOfSz w.sz else none

/-- The types I8 to I64 and F32. -/
def anyTy (w : SeWord) : Option OpTy := tyOfSz w.sz

/-- F32 only. -/
def f32Ty (w : SeWord) : Option OpTy := if w.sz = 4 then tyOfSz w.sz else none

/-- I32 only. -/
def i32Ty (w : SeWord) : Option OpTy := if w.sz = 2 then tyOfSz w.sz else none

/-- I64 only. -/
def i64Ty (w : SeWord) : Option OpTy := if w.sz = 3 then tyOfSz w.sz else none

/-- A source at the type. -/
def useSrc : OpTy → Option Role := fun ty => some (src ty)

/-- A destination at the type. -/
def useDst : OpTy → Option Role := fun ty => some (dst ty)

/-- No operand. -/
def unused : OpTy → Option Role := fun _ => none

/-- A source at I32, whatever SZ holds. -/
def useI32 : OpTy → Option Role := fun _ => some (src tyI32)

/-! ### Scalar, CSR and control -/

/-- The form of CSRR: d at SZ, the CSR number an immediate (R91). -/
def csrrForm (w : SeWord) : Form :=
  formOf (intTy w) (w.mod == 0) (fun ty => some (dst ty)) (fun _ => some (immOp tyI32)) (fun _ => none)

/-- The form of CSRW: the CSR number an immediate, b at SZ. -/
def csrwForm (w : SeWord) : Form :=
  formOf (intTy w) (w.mod != 3) (fun _ => none) (fun _ => some (immOp tyI32)) (fun ty => some (src ty))

/-- d, a, b at an integer type, with the MOD values below `mods`. [DEDUCED: log entry 14] -/
def form3 (w : SeWord) (mods : Nat) : Form := formOf (intTy w) (decide (w.mod.toNat < mods)) useDst useSrc useSrc

/-- d, a at an integer type with MOD 0. -/
def form2 (w : SeWord) : Form := formOf (intTy w) (w.mod == 0) useDst useSrc unused

/-- d, a, b at F32 with MOD 0. -/
def formF3 (w : SeWord) : Form := formOf (f32Ty w) (w.mod == 0) useDst useSrc useSrc

/-- d at SZ, a at the type MOD names, which is below SZ. -/
def formExt (w : SeWord) : Form :=
  formOf (intTy w) (decide (w.mod.toNat < w.sz.toNat)) useDst (fun _ => some (src (tyOfMod w.mod))) unused

/-- d an immediate, a and b at a type. -/
def branchForm (ty : Option OpTy) : Form := formOf ty true (fun _ => some (immOp tyI32)) useSrc useSrc

/-! ### Ordering, remote and tagged -/

/-- The scope code of LD.ACQ and ST.REL (R79). -/
def scopeOf (hi : Bool) (mod : BitVec 2) : Nat := b2n hi * 4 + mod.toNat

/-- LD.ACQ: a is a local scratchpad operand (R247). -/
def ldAcqForm (hi : Bool) (w : SeWord) : Form :=
  formOf (anyTy w) (decide (scopeOf hi w.mod < 6)) useDst (fun ty => some ⟨ty, .scratchpad, true, false⟩) unused

/-- ST.REL: d is a local scratchpad operand (R247). -/
def stRelForm (hi : Bool) (w : SeWord) : Form :=
  formOf (anyTy w) (decide (scopeOf hi w.mod < 6)) (fun ty => some ⟨ty, .scratchpad, false, true⟩) useSrc unused

/-- FENCE takes its scope in SZ. -/
def fenceForm (w : SeWord) : Form := ⟨w.mod == 0 && decide (w.sz.toNat < 6), none, none, none⟩

/-- ETOK and EWAIT. -/
def tokForm (w : SeWord) : Form := formOf (i32Ty w) (w.mod == 0) unused useSrc unused

/-- The engine and the token of an operand value (Table 8-4). -/
def tokEng (v : Nat) : BitVec 2 := BitVec.ofNat 2 (v / 16)
def tokNum (v : Nat) : Fin 8 := Fin.ofNat 8 v

/-- The queue of an engine has a free slot (R61); the SE needs none. -/
def Core.room (c : Core) (eng : BitVec 2) : Bool :=
  match eng.toNat with
  | 1 => decide (c.ve.q.length < 8)
  | 2 => decide (c.me.q.length < 8)
  | 3 => decide (c.de.issue.length < 8)
  | _ => true

/-- XLD: d at SZ, the CORE_ID and the offset at I32 (R84). -/
def xldForm (w : SeWord) : Form := formOf (anyTy w) (w.mod == 0) useDst useI32 useI32

/-- XST: the CORE_ID and the offset at I32, b at SZ. -/
def xstForm (w : SeWord) : Form := formOf (anyTy w) (w.mod == 0) useI32 useI32 useSrc

/-- The 64 bytes of a slot as an operand. -/
def tySlot : OpTy := ⟨64, 64, false⟩

/-- SLD: d a scratchpad operand of 64 B, a the slot number (R219). -/
def sldForm (w : SeWord) : Form :=
  formOf (i32Ty w) (decide (w.mod.toNat < 2)) (fun _ => some ⟨tySlot, .scratchpad, false, true⟩) useI32 unused

/-- SST: d the slot number, a a scratchpad operand of 64 B. -/
def sstForm (w : SeWord) : Form :=
  formOf (i32Ty w) (decide (w.mod.toNat < 2)) useI32 (fun _ => some ⟨tySlot, .scratchpad, true, false⟩) unused

/-- SLD or SST. -/
def slotForm (store : Bool) (w : SeWord) : Form := if store then sstForm w else sldForm w

/-- A blocking instruction (R219). -/
def blocks (w : SeWord) : Bool := !w.mod.getLsbD 0

/-- The fields of a slot number (Table 7-5). -/
def slotCore (n : Nat) : Nat := bitsAt n 16 13
def slotSeg (n : Nat) : Nat := n % 65536

/-- Accesses that await a response, of XST and the tagged-slot instructions (R208). -/
def Spm.outstanding (m : Spm) : Nat :=
  (m.remote.filter (fun r => !r.dead && match r.who with | .xst _ | .tag _ => true | _ => false)).length

/-! ### Threads, runners, events, DE -/

/-- THGO and THSTOP: a at I32. -/
def controlForm (w : SeWord) : Form := formOf (i32Ty w) (w.mod != 3) unused useSrc unused

/-- THEND: no operand. -/
def thendForm (w : SeWord) : Form := formOf (i32Ty w) (w.mod != 3) unused unused unused

/-- RSEND: d the runner's number, a a word at I64. -/
def rsendForm (w : SeWord) : Form := formOf (i64Ty w) (w.mod != 3) useSrc useSrc unused

/-- RSEND4: a 32 bytes of scratchpad aligned to 8. -/
def rsend4Form (w : SeWord) : Form :=
  formOf (i64Ty w) (w.mod != 3) useSrc (fun _ => some ⟨⟨32, 8, false⟩, .scratchpad, true, false⟩) unused

/-- RRECV: d at I64, a the runner's number. -/
def rrecvForm (w : SeWord) : Form := formOf (i64Ty w) (w.mod != 3) useDst useSrc unused

/-- The form of a runner instruction by its MOD. -/
def runnerForm (w : SeWord) : Form :=
  match w.mod.toNat with
  | 0 => rsendForm w
  | 1 => rsend4Form w
  | _ => rrecvForm w

/-- SETEV, WAITEV and CLREV: a at I32. -/
def eventForm (w : SeWord) : Form := formOf (i32Ty w) (w.mod != 3) unused useSrc unused

/-- An instruction without operands that allows any type. -/
def bareForm (w : SeWord) : Form := formOf (anyTy w) (w.mod != 3) unused unused unused

/-- DENQ: its queue in MOD, a the descriptor's scratchpad operand (R257, R258). -/
def denqForm (w : SeWord) : Form :=
  formOf (i32Ty w) true unused (fun _ => some ⟨tySlot, .scratchpad, true, false⟩) unused

/-- ICINV: MOD 0 a range, MOD 1 the whole cache (Table 9-1). -/
def icinvForm (w : SeWord) : Form :=
  if w.mod = 1 then formOf (i32Ty w) true unused unused unused else formOf (i32Ty w) (w.mod == 0) unused useI32 useI32

/-- ICPF: its way in MOD. -/
def icpfForm (w : SeWord) : Form := formOf (i32Ty w) true unused useI32 useI32

/-! ### More scalar forms -/

/-- NOP and LBREAK: no operand, any type. -/
def noneForm (w : SeWord) : Form := formOf (anyTy w) (w.mod == 0) unused unused unused

/-- MOV: d, a at any type. -/
def movForm (w : SeWord) : Form := formOf (anyTy w) (w.mod == 0) useDst useSrc unused

/-- MUL: a, b at an integer type. -/
def mulForm (w : SeWord) : Form := formOf (intTy w) (decide (w.mod.toNat < 2)) unused useSrc useSrc

/-- DIV: a, b at an integer type or F32. -/
def divForm (w : SeWord) : Form := formOf (anyTy w) (decide (w.mod.toNat < 2)) unused useSrc useSrc

/-- FSQRT: a at F32. -/
def sqrtForm (w : SeWord) : Form := formOf (f32Ty w) (w.mod == 0) unused useSrc unused

/-- FMA: d is read and written. -/
def fmaForm (w : SeWord) : Form := formOf (f32Ty w) (w.mod == 0) (fun ty => some (srcDst ty)) useSrc useSrc

/-- FCMP: d a 32-bit integer, the condition in MOD. -/
def fcmpForm (w : SeWord) : Form := formOf (f32Ty w) true (fun _ => some (dst tyI32)) useSrc useSrc

/-- FCVTI: d at the type MOD names. -/
def fcvtiForm (w : SeWord) : Form := formOf (f32Ty w) true (fun _ => some (dst (tyOfMod w.mod))) useSrc unused

/-- ICVTF: a at the type MOD names. -/
def icvtfForm (w : SeWord) : Form := formOf (f32Ty w) true useDst (fun _ => some (src (tyOfMod w.mod))) unused

/-- JMP: a the target. -/
def jmpForm (w : SeWord) : Form := formOf (i32Ty w) (w.mod == 0) unused useSrc unused

/-- CALL: d the link, a the target. -/
def callForm (w : SeWord) : Form := formOf (i32Ty w) (w.mod == 0) useDst useSrc unused

/-- LOOP: a the count, b the length, an immediate (R88). -/
def loopForm (w : SeWord) : Form := formOf (i32Ty w) (w.mod == 0) unused useSrc (fun _ => some (immOp tyI32))

/-- THSET: the thread, the selector and the value at I32. -/
def thsetForm (w : SeWord) : Form := formOf (i32Ty w) (w.mod == 0) useSrc useSrc useSrc

/-! ### The form of each instruction -/

/-- The thread, the form and the words of an SE or DE instruction. -/
def insnForm : Instr → Option (Site × Form × SeWord)
  | .nop a w _ => some (a, noneForm w, w)
  | .lbreak a w => some (a, noneForm w, w)
  | .mov a w => some (a, movForm w, w)
  | .add a w | .sub a w | .and_ a w | .or_ a w | .xor_ a w | .shl a w | .seq a w => some (a, form3 w 1, w)
  | .shr a w | .min_ a w | .max_ a w | .slt a w => some (a, form3 w 2, w)
  | .zext a w | .sext a w => some (a, formExt w, w)
  | .clz a w | .popc a w => some (a, form2 w, w)
  | .mul a w => some (a, mulForm w, w)
  | .div a w => some (a, divForm w, w)
  | .fsqrt a w => some (a, sqrtForm w, w)
  | .fadd a w | .fsub a w | .fmul a w | .fmin a w | .fmax a w => some (a, formF3 w, w)
  | .fma a w => some (a, fmaForm w, w)
  | .fcmp a w => some (a, fcmpForm w, w)
  | .fcvti a w => some (a, fcvtiForm w, w)
  | .icvtf a w => some (a, icvtfForm w, w)
  | .jmp a w => some (a, jmpForm w, w)
  | .b a w => some (a, branchForm (anyTy w), w)
  | .bu a w => some (a, branchForm (intTy w), w)
  | .call a w => some (a, callForm w, w)
  | .loop a w => some (a, loopForm w, w)
  | .csrr a w => some (a, csrrForm w, w)
  | .csrw a w => some (a, csrwForm w, w)
  | .ldAcq a hi w => some (a, ldAcqForm hi w, w)
  | .stRel a hi w => some (a, stRelForm hi w, w)
  | .fence a w => some (a, fenceForm w, w)
  | .etok a w | .ewait a w => some (a, tokForm w, w)
  | .xld a w => some (a, xldForm w, w)
  | .xst a w => some (a, xstForm w, w)
  | .sld a w => some (a, sldForm w, w)
  | .sst a w => some (a, sstForm w, w)
  | .thset a w => some (a, thsetForm w, w)
  | .thgo a w | .thstop a w => some (a, controlForm w, w)
  | .thend a w => some (a, thendForm w, w)
  | .rsend a w => some (a, rsendForm w, w)
  | .rsend4 a w => some (a, rsend4Form w, w)
  | .rrecv a w => some (a, rrecvForm w, w)
  | .setev a w | .waitev a w | .clrev a w => some (a, eventForm w, w)
  | .eret a w | .brk a w | .pour a w => some (a, bareForm w, w)
  | .denq a w => some (a, denqForm w, w)
  | .icinv a w => some (a, icinvForm w, w)
  | .icpf a w => some (a, icpfForm w, w)
  | _ => none

end Sys2Proof.Machine
end

