-- ==== Sys2Proof/Machine/Lift.lean ====
section
/-! DEFINITION. How a command reaches one core of the block: the core's number, what the core may know of the module,
and the core written back. -/

namespace Sys2Proof.Machine

/-- The outcome of a command. -/
abbrev Out := Host.Outcome State Fault Refusal

/-- A thread that was asked to halt has nothing it still waits for: it halts for the debug service. The results of what it
has issued are written (R105); the cause and the program counter are recorded; the other threads of the core are asked
to halt with HALTALL, other cores of the job with XTRIG (R121, R523, R525). -/
def Core.debugStop (e : Env) (t : Fin 4) (cause : BitVec 4) (c : Core) : Core :=
  let pc := (c.th t).r.pc
  let c := ((c.flushAll t).setSt e t .halted).mapTh t (fun h => { h with haltAsked := 0, stepped := false })
  let c := { c with dbg := { c.dbg with stat := c.dbg.stat.set t cause, pc := c.dbg.pc.set t pc } }
  let c := c.trace e 2 4 t cause.toNat pc.toNat 0
  let c := if c.dbg.xtrig then { c with out := { c.out with cross := true } } else c
  if c.dbg.haltall then
    { c with threads := c.threads.map (fun h =>
        if (h.st = .running ∨ h.st = .waiting) ∧ h.haltAsked = 0 then { h with haltAsked := 6 } else h) }
  else c

/-- A wait that can be abandoned at once is (R105, R121, R225): a runner's, an event's, a local slot's, and that of a send or
an SST that has not yet been published. For a blocking access of a remote slot a withdrawal leaves.
[DESIGN CHOICE: log entry 115] -/
def Core.abandon (e : Env) (t : Fin 4) (c : Core) : Core :=
  let free (c : Core) : Core := c.mapTh t (fun h => { h with stall := .none })
  match (c.th t).stall with
  | .runner n _ _ =>
    let r := c.runners[n]
    let r := { r with sendWait := r.sendWait.filter (fun x => x.1 != t), recvWait := r.recvWait.filter (fun x => x != t) }
    free { c with runners := c.runners.set n r }
  | .event n _ _ =>
    let v := c.events
    free { c with events := { v with waiters := v.waiters.set n (v.waiters[n].filter (fun x => x != t)) } }
  | .slot _ _ _ _ => free (c.mapSpm (fun m => { m with waits := m.waits.filter (fun x => decide (x.who ≠ .thread t)) }))
  | .sending _ _ _ | .storing _ _ _ _ => free c
  | .slotRemote id _ w _ =>
    if blocks w then
      c.mapSpm (fun m => { m with remote := m.remote.map (fun r =>
        if r.id = id ∧ r.withdrawal = false then { r with withdrawal := true, left := e.now } else r) })
    else c
  | _ => c

/-- A thread asked to halt halts, once what it has issued is complete. -/
def Core.settleHalt (e : Env) (t : Fin 4) (c : Core) : Core :=
  if (c.th t).haltAsked = 0 ∨ ¬ ((c.th t).st = .running ∨ (c.th t).st = .waiting) then c
  else
    let c := c.abandon e t
    if (c.th t).stall = .none then c.debugStop e t (c.th t).haltAsked else c

/-- A core has finished: thread 0 is INACTIVE and no thread is RUNNING, WAITING or HALTED (R107). -/
def Core.ended (c : Core) : Bool :=
  c.released && decide ((c.th 0).st = .inactive) &&
    c.allTh (fun h => decide (h.st ≠ .running ∧ h.st ≠ .waiting ∧ h.st ≠ .halted))

/-- What follows every step of a core in the same step: halts that are due, and the report that it has finished. -/
def Core.settle (e : Env) (c : Core) : Core :=
  let c := (List.finRange 4).foldl (fun c t => c.settleHalt e t) c
  { c with finished := c.finished || c.ended }

/-- What an answer of another core is to a granule. -/
def RemoteAnswer.outcome (target : CoreId) : RemoteAnswer → GranuleOutcome × Payload
  | .data p => (.ok, p)
  | .gate => (.gate target, .empty)
  | .otherJob => (.otherJob, .empty)
  | .quarantine => (.quarantine target, .empty)
  | .ecc => (.ecc, .empty)
  | .done | .notDone | .retry | .withdrawn => (.ok, .empty)

/-- The class of the message that an access of another core is now (R294): its request, or its response. A RETRY is followed by
nothing but the request itself. -/
def Remote.cls (r : Remote) : MsgClass :=
  match r.stage with
  | .answered .retry => .request
  | .answered _ => .response
  | _ => .request

/-- The response to an access is the next to arrive from its target: none of one answered before it is still on its way (R295,
R301). -/
def Spm.inTurn (m : Spm) (r : Remote) : Bool :=
  (m.remote.takeWhile (fun x => x.id != r.id)).all (fun x => x.dead || x.target != r.target || x.cls != .response)

/-- The answer to an access of this core leaves its target, behind those that have left before (R295); what comes back for a fill
that was abandoned is dropped. [DESIGN CHOICE: log entry 24] -/
def Core.takeAnswer (id : Nat) (a : RemoteAnswer) (c : Core) : Core :=
  match c.spm.remote.find? (fun r => r.id == id) with
  | some r =>
    let gone : Core := c.mapSpm (fun m => { m with remote := m.remote.filter (fun r => r.id != id) })
    match r.who, r.dead with
    | .fill _ _, true => gone
    | _, _ => gone.mapSpm (fun m => { m with remote := m.remote ++ [{ r with stage := .answered a }] })
  | none => c

/-- The answer to an access of another core reaches it. -/
def State.deliverAnswer (s : State) (x : CoreId × Nat × RemoteAnswer) : State :=
  s.setCore x.1 ((s.core x.1).takeAnswer x.2.1 x.2.2)

/-- A link request of a core waits at the forwarding switch of its die's home E-die (R312). -/
def State.sendLink (s : State) (id : CoreId) (l : LinkAsk) : State :=
  s.post (homeEdie (id.toNat / 256))
    { s.message l.type l.dmod l.subop l.addr.toNat l.data with
      pkg := l.pkg, gv := l.gen.isSome, egen := l.gen.getD 0, aux := BitVec.ofNat 8 l.units }
    (some (.dma id l.q l.key))

/-- A debug stop reaches every other attached core of the job whose XTRIG is 1 (R525). -/
def State.crossTrigger (s : State) (id : CoreId) : State :=
  match s.jobOf id with
  | none => s
  | some j =>
    (s.job j).cores.foldl (fun s x =>
      let c := s.core x.1
      if x.1 ≠ id ∧ c.dbg.attached ∧ c.dbg.xtrig then s.setCore x.1 { c with dbg := { c.dbg with crossAsked := true } }
      else s) s

/-- The job of a core is FINISHED once every core of it has finished (R473). -/
def State.settleJob (s : State) (id : CoreId) : State :=
  match s.jobOf id with
  | none => s
  | some j =>
    if (s.job j).st = .running ∧ (s.job j).cores.all (fun x => (s.core x.1).finished) then
      (s.mapJob j (fun b => { b with st := .finished })).log (noticeEvent 0x0803 (j.val + 1) [3])
    else s

/-- What a core told the module takes effect. -/
def State.drain (s : State) (id : CoreId) : State :=
  let c := s.core id
  let s := s.setCore id { c with out := Outbox.empty }
  let s := c.out.answers.foldl State.deliverAnswer s
  let s := c.out.links.foldl (fun s l => s.sendLink id l) s
  let s := c.out.posts.foldl (fun s p => s.corePost id p) s
  let s := if c.out.cross then s.crossTrigger id else s
  if c.finished then s.settleJob id else s

/-- A step of one core, which draws a fresh value. A step of a core that the module has not does not occur.
[DESIGN CHOICE: log entry 3] -/
def State.onCore (s : State) (id : CoreId) (f : Env → Core → Core) : State :=
  if s.assigned id then
    let c : Core := { s.core id with out := Outbox.empty }
    (({ s with fresh := s.fresh + 1 } : State).setCore id ((f (s.env id) c).settle (s.env id))).drain id
  else s

/-- The command of one core, which always answers a next state. -/
def onCore (id : CoreId) (f : Env → Core → Core) (s : State) : Out := .next (s.onCore id f)

end Sys2Proof.Machine
end

