-- ==== Sys2Proof/Machine/FabricOps.lean ====
section
/-! DEFINITION. What the package fabric finds of a flit on its way, and the records of a die's fabric (R303, R313, Table 10-5). -/

namespace Sys2Proof.Machine

/-- A record of a C-die's fabric. [DESIGN CHOICE: log entry 46] -/
def dieEvent (sev : BitVec 2) (cause : BitVec 16) (unit : BitVec 5) (die pos sub : Nat) : Event :=
  { mpEvent sev cause [] with die := die, unit := unit, pos := pos, sub := BitVec.ofNat 4 sub }

/-- A saturating count. -/
def bump (w : Word) : Word := if w = 0xFFFFFFFF then w else w + 1

/-- A header check fails at a router of a die, or at its die switch: the flit is discarded and counted (Table 10-5). -/
def State.flitLost (s : State) (die : Fin 32) (pos : Option (Fin 272)) : State :=
  (s.mapDie die.val (fun d => { d with hdrerr := bump d.hdrerr })).log
    (dieEvent 1 0x0301 8 die.val (match pos with | some p => p.val | none => 0) 0)

/-- Words of a flit's data that the destination port of package position `q` corrects and cannot correct: each is counted and
recorded (Table 10-5). -/
def State.flitWords {α : Type} (s : State) (q : Nat) (fixed lost : List α) : State :=
  let s := fixed.foldl (fun s _ =>
    (s.mapDie (q / 272) (fun d => { d with dcorr := bump d.dcorr })).log (dieEvent 0 0x0302 8 (q / 272) (q % 272) 0)) s
  lost.foldl (fun s _ =>
    (s.mapDie (q / 272) (fun d => { d with dunc := bump d.dunc })).log (dieEvent 1 0x0303 8 (q / 272) (q % 272) 0)) s

/-- The words of a list that a payload of `n` bytes has. -/
def lostWords (n : Nat) (ws : List (Fin 8)) : List (Fin 8) := ws.filter (fun w => decide (8 * w.val < n))

/-- A payload some of whose words are poison. -/
def Payload.lose (x : Payload) (ws : List (Fin 8)) : Payload := { x with poison := ninsAll x.poison (ws.map (fun w => w.val)) }

/-- The first header check that fails among those of a message's flits, one flit for each 64 bytes of its data. -/
def headerOf (fs : List FlitFinding) : Option (Fin 32 × Option (Fin 272)) :=
  fs.findSome? (fun f => match f with | .header die pos => some (die, pos) | _ => none)

/-- The words of `n` bytes of data that a message's flits correct, and lose, counted from the first of the message. -/
def fixedIn (n : Nat) (fs : List FlitFinding) : List Nat :=
  fs.zipIdx.flatMap (fun x => match x.1 with
    | .words c _ => (c.map (fun w => 8 * x.2 + w.val)).filter (fun k => decide (8 * k < n))
    | _ => [])
def lostIn (n : Nat) (fs : List FlitFinding) : List Nat :=
  fs.zipIdx.flatMap (fun x => match x.1 with
    | .words _ l => (l.map (fun w => 8 * x.2 + w.val)).filter (fun k => decide (8 * k < n))
    | _ => [])

/-- A flit between a core and an E-die passes a router or a switch: on its way there, or on its way back (R311, R312). -/
def State.onEdiePath (s : State) (id : CoreId) (edie : Nat) (back : Bool) (die : Fin 32) (pos : Option (Fin 272)) : Bool :=
  match s.place id with
  | some q =>
    let v := s.view
    let hops := if back then v.fromEdie edie q else Hop.router (q / 272) (q % 272) false :: v.toEdie q edie
    hops.any (fun h => h.at die.val (pos.map (fun k => k.val)))
  | none => false

/-- A flit between two cores passes a router of a die, or a die's switch (R295, R299, R300). -/
def State.onPath (s : State) (src dst : CoreId) (die : Fin 32) (pos : Option (Fin 272)) : Bool :=
  match s.place src, s.place dst with
  | some p, some q =>
    (Hop.router (p / 272) (p % 272) false :: s.view.path p q).any (fun h => h.at die.val (pos.map (fun k => k.val)))
  | _, _ => false

/-- The data of an access, with words of it poison. -/
def RemoteKind.lose (k : RemoteKind) (ws : List (Fin 8)) : RemoteKind :=
  match k with
  | .write x => .write (x.lose ws)
  | .sst b x => .sst b (x.lose ws)
  | k => k

/-- Bytes of data that the request of an access carries. -/
def RemoteKind.dataLen : RemoteKind → Nat
  | .write x | .sst _ x => x.bytes.length
  | .reduce _ d => d.length
  | _ => 0

/-- The words of a request's data that its flit lost. -/
def lostOf (f : FlitFinding) (n : Nat) : List (Fin 8) :=
  match f with | .words _ l => lostWords n l | _ => []

/-- The flit of a request reaches its target: what is left of it, or the state in which it was discarded on its way.
[DESIGN CHOICE: log entry 130] -/
def State.takeRequestFlit (s : State) (target source : CoreId) (f : FlitFinding) (r : Remote) : State ⊕ (State × Remote) :=
  match f with
  | .intact => .inr (s, r)
  | .header die pos =>
    if s.onPath source target die pos then
      let s := s.flitLost die pos
      .inl (s.setCore source ((s.core source).mapSpm (fun m =>
        { m with remote := m.remote.map (fun x => if x.id == r.id then { x with stage := .lost } else x) })))
    else .inr (s, r)
  | .words c l =>
    let n := r.kind.dataLen
    .inr (s.flitWords ((s.place target).getD 0) (lostWords n c) (lostWords n l), { r with kind := r.kind.lose (lostWords n l) })

/-- The flit of the response to the access `id` of a core reaches it: discarded on its way, or with words of its data poison.
[DESIGN CHOICE: log entry 130] -/
def State.takeResponseFlit (s : State) (source : CoreId) (id : Nat) (f : FlitFinding) : State :=
  match f with
  | .intact => s
  | _ =>
    match (s.core source).spm.remote.find? (fun r => r.id == id) with
    | none => s
    | some r =>
      match r.stage with
      | .answered a =>
        let put (s : State) (st : RemoteStage) : State :=
          s.setCore source ((s.core source).mapSpm (fun m =>
            { m with remote := m.remote.map (fun x => if x.id == id then { x with stage := st } else x) }))
        match f, a with
        | .header die pos, _ => if s.onPath r.target source die pos then put (s.flitLost die pos) .lost else s
        | .words c l, .data x =>
          let n := x.bytes.length
          put (s.flitWords ((s.place source).getD 0) (lostWords n c) (lostWords n l)) (.answered (.data (x.lose (lostWords n l))))
        | _, _ => s
      | _ => s

end Sys2Proof.Machine
end

