-- ==== Sys2Proof/Machine/Fabric.lean ====
section
/-! DEFINITION. The package fabric: grid crossings of messages, bridge replays and dead routers (R310, R313, R355). -/

namespace Sys2Proof.Machine

/-- Data units of a message. -/
def msgLen (m : LinkMsg) : Nat := ceilDiv m.data.length 16

/-- Units of a message, its header among them (R328). -/
def msgUnits (m : LinkMsg) : Nat := 1 + msgLen m

/-- Units that wait on a port and channel for messages that crossed the grid (R355). -/
def Port.crossed (p : Port) (vc : Fin 4) : Nat := ((p.txMsgs[vc].filter (fun x => x.crossed)).map (fun x => msgUnits x.msg)).sum

/-- A message joins the queue of its virtual channel. -/
def Port.enqueue (p : Port) (x : Queued) : Port :=
  let vc : Fin 4 := Fin.ofNat 4 x.msg.vc.toNat
  { p with txMsgs := p.txMsgs.set vc (p.txMsgs[vc] ++ [x]) }

/-- A message that crosses the grid enters once the receiving E-die has space for all its units (R355). -/
def execGridCrossingEnter (fromE : Fin 8) (port : Fin 48) (vc : Fin 4) (s : State) : Out :=
  let w := s.switch
  match w.crossing.findIdx? (fun x => x.1 == fromE && x.2.1 == port && x.2.2.msg.vc.toNat == vc.val) with
  | none => .next s
  | some i =>
    match w.crossing[i]? with
    | none => .next s
    | some x =>
      if 1024 < (s.port port).crossed vc + msgUnits x.2.2.msg then .next s
      else .next (({ s with switch := { w with crossing := w.crossing.eraseIdx i } } : State).mapPort port (fun p =>
        p.enqueue { x.2.2 with crossed := true }))

/-- A bridge CRC failure on a side that has a bridge (Table 10-1): the sender replays. 16 replays of a channel in 1 ms disable it, and more than 4 disabled
channels of a side are fatal to the module (R313). -/
def execBridgeReplay (die : Fin 32) (side : Side) (channel : Fin 16) (s : State) : Out :=
  let d := s.die die.val
  let k := sideCode side
  let key := 16 * k.val + channel.val
  if d.chdis[k].getLsbD channel || !hasBridge die.val side then .next s
  else
    let ts := (s.now :: tget d.replays [] key).filter (fun t => decide (s.now < t + 1000000))
    let d := { d with retry := bump d.retry, replays := tset d.replays key ts }
    if ts.length < 16 then .next (s.mapDie die.val (fun _ => d))
    else
      let d := { d with chdis := d.chdis.set k (d.chdis[k] ||| (1 <<< channel.val)), replays := tdel d.replays key }
      let s := (s.mapDie die.val (fun _ => d)).log (dieEvent 1 0x0304 9 die.val channel.val k.val)
      .next (if 4 < popCount 16 (s.chdis die.val side).toNat then s.log (dieEvent 3 0x0305 9 die.val 0 k.val) else s)

/-- A record for every loaded job. -/
def State.logJobs (s : State) (x : Event) : State :=
  (List.finRange 8).foldl (fun s j => if (s.job j).st = .none then s else s.log { x with job := j.val + 1 }) s

/-- A router stops answering during a job (R313): fatal to every loaded job, and a candidate for retirement as a node (R310). -/
def execRouterDead (die : Fin 32) (pos : Fin 272) (s : State) : Out :=
  if !s.anyJob then .next s
  else
    let s := s.logJobs (dieEvent 2 0x0306 8 die.val pos.val 0)
    .next { s with errs := { s.errs with nodeCandidates := nins s.errs.nodeCandidates (272 * die.val + pos.val) } }

end Sys2Proof.Machine
end

