-- ==== Sys2Proof/Machine/Physical.lean ====
section
/-! DEFINITION. The physical layer of a port and the bytes of a flit: layout and CRC, scrambling, the link code, the distribution
of symbols over lanes, shadow traffic, PAM4 levels and the transmit filter (R316 to R319, R325, R329, R345A). -/

namespace Sys2Proof.Machine

/-! ### The bytes of a flit (Tables 11-6 and 11-7) -/

/-- The header as one 64-bit field. -/
def flitHeader (f : Flit) : Nat :=
  f.kind.toNat * 2 ^ 62 + f.seq.toNat * 2 ^ 50 + f.ack.toNat * 2 ^ 38 + b2n f.ackv * 2 ^ 37 + b2n f.nak * 2 ^ 36 +
    f.first.toNat * 2 ^ 32 + f.crp.toNat * 2 ^ 29 + f.crn.toNat * 2 ^ 16 + f.resv.toNat

/-- The second credit return, bytes 248 to 251. -/
def flitCredit2 (f : Flit) : Nat := f.crp2.toNat * 2 ^ 29 + f.crn2.toNat * 2 ^ 16 + f.resv2.toNat

/-- Bytes 0 to 251. -/
def flitBody (f : Flit) : List Byte :=
  leBytes 8 (flitHeader f) ++ f.units.flatMap (fun u => leBytes 16 u.toNat) ++ leBytes 4 (flitCredit2 f)

/-- One bit of the CRC-32C register, least significant bit first. -/
def crcBit (r : Word) : Word := if r.getLsbD 0 then (r >>> 1) ^^^ 0x82F63B78 else r >>> 1

/-- The register after a byte. -/
def crcByte (r : Word) (b : Byte) : Word :=
  (List.range 8).foldl (fun r _ => crcBit r) (r ^^^ b.setWidth 32)

/-- The CRC-32C of RFC 3720 (R329). -/
def crc32c (bs : List Byte) : Word := (bs.foldl crcByte 0xFFFFFFFF) ^^^ 0xFFFFFFFF

/-- The CRC that a flit should hold. -/
def flitChecksum (f : Flit) : Word := crc32c (flitBody f)

/-- The flit with its CRC (R329). -/
def flitSealed (f : Flit) : Flit := { f with crc := flitChecksum f }

/-- The 256 bytes of a flit. -/
def flitBytes (f : Flit) : List Byte := flitBody f ++ leBytes 4 f.crc.toNat

/-- The flit of 256 bytes. -/
def flitOf (bs : List Byte) : Flit :=
  let h := leNat (bs.take 8)
  let c := leNat ((bs.drop 248).take 4)
  { kind := BitVec.ofNat 2 (bitsAt h 62 2), seq := BitVec.ofNat 12 (bitsAt h 50 12), ack := BitVec.ofNat 12 (bitsAt h 38 12)
    ackv := h.testBit 37, nak := h.testBit 36, first := BitVec.ofNat 4 (bitsAt h 32 4), crp := BitVec.ofNat 3 (bitsAt h 29 3)
    crn := BitVec.ofNat 13 (bitsAt h 16 13), crp2 := BitVec.ofNat 3 (bitsAt c 29 3), crn2 := BitVec.ofNat 13 (bitsAt c 16 13)
    resv := BitVec.ofNat 16 h, resv2 := BitVec.ofNat 16 c
    units := (List.range 15).map (fun i => BitVec.ofNat 128 (leNat ((bs.drop (8 + 16 * i)).take 16)))
    crc := BitVec.ofNat 32 (leNat ((bs.drop 252).take 4)) }

/-! ### Scrambling (R317) -/

/-- The bits of a flit stream: by increasing byte, bit 0 of each byte first. -/
def bitStream (bs : List Byte) : List Bool := bs.flatMap (fun b => (List.range 8).map (fun i => b.getLsbD i))

/-- One bit of the sequence of x^58 + x^39 + 1, and the generator after it: the bit is the sum of those 58 and 39 bits before it.
Bit `i` of the register is the sequence bit of `i` + 1 bits ago. [DESIGN CHOICE: log entry 129] -/
def scrambleStep (r : BitVec 58) : Bool × BitVec 58 :=
  let b := xor (r.getLsbD 57) (r.getLsbD 38)
  (b, (r <<< 1) ||| (if b then 1 else 0))

/-- Bits scrambled, or unscrambled, and the generator after them. -/
def scramble : List Bool → BitVec 58 → List Bool × BitVec 58
  | [], r => ([], r)
  | x :: xs, r =>
    let y := scrambleStep r
    let z := scramble xs y.2
    (xor x y.1 :: z.1, z.2)

/-! ### The link code (R318) -/

/-- Multiplication by α in GF(2^10) with the polynomial x^10 + x^3 + 1. -/
def gfDouble (a : BitVec 10) : BitVec 10 := if a.getLsbD 9 then (a <<< 1) ^^^ 0x009 else a <<< 1

/-- Multiplication in GF(2^10). -/
def gfMul (a b : BitVec 10) : BitVec 10 :=
  ((List.range 10).foldl (fun (x : BitVec 10 × BitVec 10) i =>
    (if b.getLsbD i then x.1 ^^^ x.2 else x.1, gfDouble x.2)) ((0 : BitVec 10), a)).1

/-- α^i. -/
def gfAlpha (i : Nat) : BitVec 10 := (List.range i).foldl (fun a _ => gfDouble a) 1

/-- A polynomial times (x − c), coefficients from the highest power down. -/
def mulRoot (p : List (BitVec 10)) (c : BitVec 10) : List (BitVec 10) :=
  List.zipWith (fun a b => a ^^^ gfMul b c) (p ++ [0]) (0 :: p)

/-- The generator polynomial: the product of (x − α^i) for i = 0 to 15. -/
def rsGenerator : List (BitVec 10) := (List.range 16).foldl (fun p i => mulRoot p (gfAlpha i)) [1]

/-- One step of the division by the generator: the 16 remainder symbols after a data symbol. -/
def rsStep (r : List (BitVec 10)) (d : BitVec 10) : List (BitVec 10) :=
  let f := d ^^^ r.headD 0
  List.zipWith (fun a g => a ^^^ gfMul f g) (r.drop 1 ++ [0]) (rsGenerator.drop 1)

/-- The 16 parity symbols; the first symbol has the highest power. [DESIGN CHOICE: log entry 129] -/
def rsParity (ds : List (BitVec 10)) : List (BitVec 10) := ds.foldl rsStep (List.replicate 16 0)

/-- A code word: 512 data symbols and 16 parity symbols. -/
def rsEncode (ds : List (BitVec 10)) : List (BitVec 10) := ds ++ rsParity ds

/-- A list of symbols is a word of the code: every root of the generator is one of it. -/
def rsValid (w : List (BitVec 10)) : Bool :=
  (List.range 16).all (fun i => decide (w.foldl (fun v c => gfMul v (gfAlpha i) ^^^ c) 0 = 0))

/-- Ten bits as a symbol, the first the least significant. -/
def symbolOf (bs : List Bool) : BitVec 10 := BitVec.ofNat 10 (((bs.take 10).zipIdx.map (fun x => b2n x.1 * 2 ^ x.2)).sum)

/-- The symbols of `n` × 10 bits. -/
def symbolsOf : Nat → List Bool → List (BitVec 10)
  | 0, _ => []
  | n + 1, bs => symbolOf bs :: symbolsOf n (bs.drop 10)

/-- A frame of five flits becomes two code words (R316, R317), with the generator after it. -/
def frameWords (fs : List Flit) (r : BitVec 58) : List (List (BitVec 10)) × BitVec 58 :=
  let x := scramble (bitStream (fs.flatMap flitBytes)) r
  ([rsEncode (symbolsOf 512 x.1), rsEncode (symbolsOf 512 (x.1.drop 5120))], x.2)

/-- The decoder corrects up to 8 symbol errors of a code word; with more it is uncorrectable (R318). -/
def uncorrectable (errors : List (Fin 528)) : Bool := decide (8 < errors.length)

/-! ### Lanes (R317, R345A) -/

/-- The lanes of a list, by rising number. -/
def laneList (m : BitVec 8) : List (Fin 8) := (List.finRange 8).filter (fun k => m.getLsbD k)

/-- The lane that carries symbol `i` of a code word: position `i` mod W of the lane list. -/
def laneAt (m : BitVec 8) (i : Nat) : Option (Fin 8) := (laneList m)[i % (laneList m).length]?

/-- The lane whose symbols a lane that soaks carries: position j mod 4 of the lane list (R345A). -/
def shadowOf (m : BitVec 8) (j : Fin 8) : Option (Fin 8) := (laneList m)[j.val % 4]?

/-- The symbols of a code word that a lane carries: its own when it is in the list, else those of the lane that it shadows. -/
def laneSymbols (m : BitVec 8) (j : Fin 8) (w : List (BitVec 10)) : List (BitVec 10) :=
  let k := if m.getLsbD j then some j else shadowOf m j
  (w.zipIdx.filter (fun x => k.isSome && laneAt m x.2 == k)).map (fun x => x.1)

/-- The PAM4 level of two bits, Gray-coded (R317). -/
def pam4 (v : Nat) : Nat :=
  match v % 4 with | 0 => 0 | 1 => 1 | 3 => 2 | _ => 3

/-- The five PAM4 symbols of a symbol, low bits first. -/
def levelsOf (x : BitVec 10) : List Nat := (List.range 5).map (fun i => pam4 (x.toNat / 4 ^ i))

/-- The PAM4 levels that a lane sends of a code word. -/
def laneLevels (m : BitVec 8) (j : Fin 8) (w : List (BitVec 10)) : List Nat := (laneSymbols m j w).flatMap levelsOf

/-! ### The transmit filter (R319) -/

/-- Table 11-2: the taps c−2, c−1, c0 and c+1 of a preset, in 1/40 of full swing. -/
def presetTaps (n : BitVec 4) : Int × Int × Int × Int :=
  match n.toNat with
  | 0 => (0, 0, 40, 0) | 1 => (0, -2, 36, -2) | 2 => (0, -4, 32, -4) | 3 => (0, -2, 32, -6)
  | 4 => (1, -5, 30, -4) | 5 => (1, -6, 28, -5) | 6 => (2, -7, 26, -5) | _ => (2, -8, 24, -6)

/-- The taps of a lane in 1/320 of full swing: its preset with its steps of 1/64 on c−1 and c+1. -/
def Lane.taps (x : Lane) : Int × Int × Int × Int :=
  let t := presetTaps x.preset
  (8 * t.1, 8 * t.2.1 + 5 * x.pre, 8 * t.2.2.1, 8 * t.2.2.2 + 5 * x.post)

/-- A lane's filter starts from a preset. -/
def Lane.fromPreset (x : Lane) (n : BitVec 4) : Lane := { x with preset := n, pre := 0, post := 0 }

/-- One step more of a tap, at most four each way. -/
def tapStep (v : Int) (up : Bool) : Int := if up then min 4 (v + 1) else max (-4) (v - 1)

/-- What the far end asks of the filter in training. -/
def Lane.asked (x : Lane) : TapAsk → Lane
  | .none => x
  | .preset n => x.fromPreset (BitVec.ofNat 4 n.val)
  | .step true up => { x with post := tapStep x.post up }
  | .step false up => { x with pre := tapStep x.pre up }

end Sys2Proof.Machine
end

