-- ==== Sys2Proof/Machine/Lanes.lean ====
section
/-! DEFINITION. Lanes, training, retraining, width changes and heartbeats of the ports (R315 to R324, R342 to R348). -/

namespace Sys2Proof.Machine

/-! ### Lanes -/

/-- Lane `k` changed. -/
def Port.mapLane (p : Port) (k : Fin 8) (f : Lane → Lane) : Port := { p with lanes := p.lanes.set k (f p.lanes[k]) }

/-- The lanes with a property, as a mask. -/
def Port.mask (p : Port) (f : Lane → Bool) : BitVec 8 :=
  BitVec.ofNat 8 (((List.finRange 8).filter (fun k => f p.lanes[k])).map (fun k => 2 ^ k.val)).sum

/-- The `n` lowest lanes of a mask. -/
def lowest (n : Nat) (m : BitVec 8) : BitVec 8 :=
  BitVec.ofNat 8 ((((List.range 8).filter (fun k => m.getLsbD k)).take n).map (fun k => 2 ^ k)).sum

/-- How many lanes a mask has. -/
def lanesIn (m : BitVec 8) : Nat := popCount 8 m.toNat

/-- The lane list of a direction whose lanes in a mask have reached ALIGN (R322): all 8, or the four lowest. -/
def listOf (m : BitVec 8) : BitVec 8 := if m = 0xFF then m else lowest 4 m

/-- A record of a port: its E-die, link port, its number. -/
def portEvent (sev : BitVec 2) (cause : BitVec 16) (port : Fin 48) (sub : Nat) (detail : List Word) : Event :=
  { mpEvent sev cause detail with die := 32 + port.val / 6, unit := 11, pos := port.val, sub := BitVec.ofNat 4 sub }

/-- The receiver uses the lanes of a new list: a lane that was in use and is not on it soaks, or is held out (R343,
R345A). -/
def Port.useRx (p : Port) (now : Nat) (l : BitVec 8) : Port :=
  { p with
    rxLanes := l
    lanes := Vector.ofFn (fun k =>
      let x := p.lanes[k]
      if l.getLsbD k then { x with st := .active }
      else if x.st = .active then
        (if x.heldOut then { x with st := .disabled, marginal := false } else { x with st := .soak, soakAt := now, marginal := false })
      else x) }

/-- The receiver asks for a lane list (R342); a forced request abandons a countdown of its own (R345). -/
def Port.askWidth (p : Port) (now : Nat) (l : BitVec 8) (forced : Bool) : Port :=
  { p with ask := some { lanes := l, forced := forced, attempts := 1, at_ := now }
           control := p.control ++ [.widthReq l forced]
           plan := if forced then p.plan.filter (fun x => x.transmit) else p.plan }

/-- The lane list that the receiver goes on with: the four lowest lanes that are ACTIVE and neither failed nor marginal. With fewer
than four the port retrains (R343, R344, R345). A request that is still unanswered is made anew, forced if it was. -/
def Port.shrink (p : Port) (now : Nat) (forced : Bool) : Port :=
  let l := lowest 4 (p.mask (fun x => decide (x.st = .active) && !x.marginal))
  let f := forced || (match p.ask with | some a => a.forced | none => false)
  if lanesIn l < 4 then { p with retrainDue := true } else p.askWidth now l f

/-- A lane fails; one in use is removed by a forced change (R343, R344). -/
def Port.failLane (p : Port) (now : Nat) (lane : Fin 8) : Port :=
  let used := p.rxLanes.getLsbD lane
  let p := p.mapLane lane (fun x => { x with st := .failed, run := 0 })
  if used ∧ p.st = .active then p.shrink now true else p

/-- A lane loses its lock: it fails, and a lane in use is removed by a forced change (R343, R344). -/
def execLaneLossOfLock (port : Fin 48) (lane : Fin 8) (s : State) : Out :=
  .next (s.mapPort port (fun p =>
    let x := p.lanes[lane]
    if x.st = .disabled ∨ x.st = .failed then p else p.failLane s.now lane))

/-- A lane's 1 ms window ends: its corrected symbols, those of the code words received and those that the command brings, are
kept in SYMERR. A lane in use is marginal above LTHR and is removed by a planned change, the third time in 24 hours for good
(R343, R345, R345A). -/
def execLaneMarginal (port : Fin 48) (lane : Fin 8) (symbols : BitVec 16) (s : State) : Out :=
  let n := ((s.port port).lanes[lane]).count + symbols.toNat
  let p := (s.port port).mapLane lane (fun x => { x with symerr := BitVec.ofNat 16 (min 0xFFFF n), count := 0 })
  if p.st ≠ .active ∨ n ≤ p.lthr.toNat ∨ !p.rxLanes.getLsbD lane ∨ p.lanes[lane].marginal then .next (s.mapPort port (fun _ => p))
  else
    let rs := (s.now :: p.lanes[lane].removals).filter (fun t => decide (s.now < t + 86400 * 10 ^ 9))
    let held : Bool := decide (3 ≤ rs.length)
    let p := (p.mapLane lane (fun x => { x with removals := rs, heldOut := held, marginal := true })).shrink s.now false
    let s := s.mapPort port (fun _ => p)
    .next (if held then s.log (portEvent 1 0x0404 port lane.val []) else s)

/-- The lane may train: it needs the reference clock (R549). -/
def State.mayTrain (s : State) (port : Fin 48) (k : Fin 8) : Bool :=
  s.board.refclk && s.active.ports[port].en && (s.port port).laneen.getLsbD k && !(s.port port).lanes[k].heldOut

/-- Every lane of the port has soaked for 1 ms or is in use (R345A). -/
def Port.soaked (p : Port) (now : Nat) : Bool :=
  p.lanes.all (fun x => decide (x.st = .active) || (decide (x.st = .soak) && decide (x.soakAt + 1000000 ≤ now)))

/-- One step of a lane's training (Table 11-4): what it waits for has come, or its attempt has failed. Its transmit filter starts
from TXPRE and follows in turn what the far end asks (R319). -/
def Lane.trainStep (x : Lane) (now : Nat) (inUse ok : Bool) (txpre : BitVec 4) (taps : List TapAsk) : Lane :=
  let fail : Lane := { x with st := if 3 ≤ x.fails + 1 then .failed else .reset, fails := x.fails + 1 }
  match x.st with
  | .reset => if ok then { x with st := .detect } else x
  | .detect => if ok then { x.fromPreset txpre with st := .eq } else { x with st := .reset }
  | .eq => if ok then { taps.foldl Lane.asked x with st := .align } else { taps.foldl Lane.asked fail with run := 0 }
  | .align => if ok then (if inUse then { x with st := .soak, soakAt := now, fails := 0 } else { x with fails := 0 }) else fail
  | .soak => if ok then x else { x with soakAt := now }
  | .failed => if ok ∧ x.fails < 3 then { x with st := .reset } else x
  | .disabled | .active => x

/-- A port that is DOWN takes LANEEN as it is set now (R348): a lane it leaves out is DISABLED, one it takes in is RESET. -/
def Port.takeLanes (p : Port) (laneen : Byte) : Port :=
  if p.st ≠ .down ∨ p.laneen = laneen then p
  else
    { p with
      laneen := laneen
      lanes := Vector.ofFn (fun k =>
        let x := p.lanes[k]
        if !laneen.getLsbD k then { x with st := .disabled }
        else if x.st = .disabled ∧ !x.heldOut then { x with st := .reset, fails := 0 } else x) }

/-- A lane advances or fails (R321). With four lanes that have reached ALIGN in each direction, at the far end those of `far`, a
DOWN port is TRAINING, with the seed of its scrambler (R317, R322); with every lane soaked the receiver asks for 8 lanes
(R345A). [DESIGN CHOICE: log entry 46] -/
def execLaneTrainingStep (port : Fin 48) (lane : Fin 8) (ok : Bool) (s : State) (far : BitVec 8 := 0xFF) (tap : TapAsk := .none)
    (more : List TapAsk := []) : Out :=
  let s := if (s.port port).st = .down ∧ (s.port port).laneen ≠ s.active.ports[port].laneen then
    s.mapPort port (fun p => p.takeLanes s.active.ports[port].laneen) else s
  if !s.mayTrain port lane then .next s
  else
    let txpre := s.active.ports[port].txpre[lane]
    .next (s.mapPort port (fun p =>
      let p := p.mapLane lane (fun x => x.trainStep s.now (decide (p.st = .active)) ok txpre (tap :: more))
      if p.st = .down ∧ 4 ≤ lanesIn (p.mask (fun x => decide (x.st = .align))) ∧ 4 ≤ lanesIn far then
        { p with st := .training, scr := Config.scramblerSeed s.now }
      else if p.st = .active ∧ p.rxLanes ≠ 0xFF ∧ p.ask.isNone ∧ p.plan.isEmpty ∧ p.soaked s.now then p.askWidth s.now 0xFF false
      else p))

/-- A lane's DETECT attempts repeat every 100 ms (R321). -/
def execLaneDetectRetry (port : Fin 48) (lane : Fin 8) (s : State) : Out :=
  .next (if s.mayTrain port lane ∧ (s.port port).lanes[lane].st = .reset then
    s.mapPort port (fun p => p.mapLane lane (fun x => { x with st := .detect })) else s)

/-! ### Port states -/

/-- The heartbeat word is fresh (R346). -/
def State.hbFresh (s : State) : Bool := decide (s.now < s.mp.wordAt + 5000000)

/-- The messages that wait at a port, or in the grid for it, go back to be chosen a port again (R358): this module's own to their source, others
to their E-die's switch; TIME_SYNC is never forwarded and is lost (R377). The tags that they took are freed. -/
def State.rechoose (s : State) (port : Fin 48) : State :=
  let p := s.port port
  let w := s.switch
  let all := p.txMsgs.toList.flatMap id ++ (w.crossing.filter (fun x => x.2.1 == port)).map (fun x => x.2.2)
  let own := all.filter (fun x => decide (x.came = .fromSource) && x.msg.type != 6)
  let transit := all.filter (fun x => decide (x.came ≠ .fromSource))
  let tags := (own.filter (fun x => x.who.isSome)).map (fun x => x.msg.tag.toNat)
  let s := s.mapPort port (fun p =>
    { p with txMsgs := Vector.replicate 4 [], tags := p.tags.filter (fun t => !tags.any (fun k => k == t.1)) })
  { s with switch := { s.switch with
      crossing := w.crossing.filter (fun x => x.2.1 != port)
      waiting := s.switch.waiting ++ own.map (fun x => { edie := x.edie, msg := x.base, who := x.who })
      again := s.switch.again ++ transit.map (fun x => (x.edie, x.came, x.base)) } }

/-- A follower enters holdover: its rate is the learned one, and it is not locked (R380). -/
def State.holdover (s : State) : State :=
  if s.time.hold then s
  else
    let s := { s with time := { s.time with hold := true, locked := false, rate := s.time.learned, inRun := 0, waiting := false } }
    s.log (mpEvent 1 0x040A [])

/-- This module follows the peer of a port (R376). -/
def State.follows (s : State) (port : Fin 48) : Bool := s.active.role == 2 && s.active.pport.toNat == port.val

/-- A port leaves ACTIVE: the event goes to the MP and its messages are chosen again; a follower whose parent port it is
enters holdover (R347, R358, R380). [DEDUCED: log entry 47] -/
def State.leaveActive (s : State) (port : Fin 48) : State :=
  let s := (s.log (portEvent 1 0x0401 port 0 [])).rechoose port
  if s.follows port then s.holdover else s

/-- Initialisation of a port that becomes ACTIVE from TRAINING (R322). -/
def Port.initialise (p : Port) : Port :=
  { p with txSeq := 0, kept := [], replayAt := none, rxSeq := 0, accepted := false, nakDue := false, nakAt := none, stuck := 0, replayFrom := 0
           credits := poolSizes, crnSeen := Vector.replicate 5 0, freed := Vector.replicate 5 0, partUnits := [], txUnits := [] }

/-- The port is ACTIVE with the lanes that have reached ALIGN at this end and at the far one; its first heartbeat is due while the
heartbeat word is fresh (R322, R323, R346). Both directions begin a frame. -/
def Port.activate (p : Port) (now : Nat) (far : BitVec 8) (fresh : Bool) : Port :=
  let near := p.mask (fun x => decide (x.st = .align ∨ x.st = .soak ∨ x.st = .active))
  let l := listOf near
  { p with
    st := .active, rxLanes := l, txLanes := listOf far, retrains := 0, retrainDue := false, ask := none, plan := [],
    control := if fresh then [.heartbeat] else [], hbseq := if fresh then p.hbseq + 1 else p.hbseq, hbAt := now, ackAt := now
    slot := 0, frameCtl := false, frame := [], forcedTx := none, rxSlot := 0, wordBad := false, badWords := 0
    lanes := Vector.ofFn (fun k =>
      let x := p.lanes[k]
      if l.getLsbD k then { x with st := .active, marginal := false, run := 0 }
      else if near.getLsbD k then { x with st := .soak, soakAt := now } else x) }

/-- Training ends (R322, R324): from TRAINING the port initialises and is ACTIVE; from RETRAIN it is ACTIVE again, keeps its
state and replays from its oldest unacknowledged flit. A direction with fewer than four lanes sends a TRAINING port
DOWN. [DESIGN CHOICE: log entry 46] -/
def execPortTrainingDone (port : Fin 48) (far : BitVec 8) (s : State) : Out :=
  let p := s.port port
  let enough : Bool := decide (4 ≤ lanesIn far) && decide (4 ≤ lanesIn (p.mask (fun x => decide (x.st = .align ∨ x.st = .soak))))
  match p.st with
  | .training =>
    .next (s.mapPort port (fun p => if enough then (p.initialise).activate s.now far s.hbFresh else { p with st := .down }))
  | .retrain =>
    if enough then
      .next (s.mapPort port (fun p =>
        let p := p.activate s.now far s.hbFresh
        if p.kept.isEmpty then p
        else { p with replayAt := some 0, replayFrom := (p.kept.head?.map (fun f => f.seq - 1)).getD 0, replay := bump p.replay }))
    else .next s
  | _ => .next s

/-- Every lane that may train goes back to EQ (R324); LANEEN and TXPRE take effect (R348), and the scrambler has a new seed
(R317). -/
def Port.retrainLanes (p : Port) (now : Nat) (cfg : PortCfg) : Port :=
  let laneen := cfg.laneen
  { p with
    scr := Config.scramblerSeed now, forcedTx := none
    laneen := laneen, rxLanes := 0, txLanes := 0, ask := none, plan := [], control := [], retrainDue := false, retrainAt := now
    lanes := Vector.ofFn (fun k =>
      let x := p.lanes[k]
      if laneen.getLsbD k && !x.heldOut then { x.fromPreset cfg.txpre[k] with st := .eq, fails := 0, marginal := false, run := 0 } else { x with st := .disabled }) }

/-- A port whose trigger has come about leaves ACTIVE and retrains (R324). -/
def execPortRetrain (port : Fin 48) (s : State) : Out :=
  let p := s.port port
  if p.st ≠ .active ∨ !p.retrainDue then .next s
  else .next ((s.mapPort port (fun p =>
    { p.retrainLanes s.now s.active.ports[port] with st := .retrain, stuck := 0 })).leaveActive port)

/-- A retrain has reached no alignment in 25 ms: it begins again, and the third failure in a row makes the port FAILED
(R324). -/
def execRetrainTimeout (port : Fin 48) (s : State) : Out :=
  let p := s.port port
  if p.st ≠ .retrain then .next s
  else
    let s := s.wait (p.retrainAt + 25000000)
    if p.retrains + 1 < 3 then
      .next (s.mapPort port (fun p => { p.retrainLanes s.now s.active.ports[port] with retrains := p.retrains + 1 }))
    else
      .next ((s.mapPort port (fun p =>
        { p with st := .failed, retrains := p.retrains + 1, kept := [], replayAt := none, txUnits := [] })).log
          (portEvent 1 0x0402 port 0 []))

/-! ### Width changes -/

/-- The receiver accepts no flit while it waits for REALIGN (R344). -/
def Port.deaf (p : Port) : Bool := match p.ask with | some a => a.forced | none => false

/-- A WIDTH_REQ arrives at the transmitter: a forced one takes effect at the next frame boundary; a planned one sends SWITCH in
the next 8 frames (R344, R345). -/
def Port.widthReq (p : Port) (lanes : BitVec 8) (forced : Bool) : Port :=
  if p.st ≠ .active ∨ p.deaf ∨ (lanesIn lanes ≠ 4 ∧ lanesIn lanes ≠ 8) then p
  else if forced then { p with forcedTx := some lanes }
  else if p.plan.any (fun x => x.transmit) then p
  else
    { p with
      plan := p.plan ++ [{ transmit := true, lanes := lanes, fresh := p.slot != 0, left := none }]
      control := p.control ++ (List.range 8).map (fun i => .switch lanes (BitVec.ofNat 8 (64 - i))) }

/-- WIDTH_REQ. [DEDUCED: log entry 135] -/
def execWidthReq (port : Fin 48) (lanes : BitVec 8) (forced : Bool) (s : State) : Out :=
  .next (s.mapPort port (fun p => p.widthReq lanes forced))

/-- At a frame boundary the transmitter carries out a forced change: it ends the countdown and the replay in progress, uses the
new list, and sends REALIGN in 8 flit slots (R344). -/
def Port.forceWidth (p : Port) : Port :=
  match p.forcedTx with
  | none => p
  | some lanes =>
    { p with
      forcedTx := none, plan := p.plan.filter (fun x => !x.transmit), replayAt := none, txLanes := lanes, widthchg := bump p.widthchg
      control := p.control.filter (fun c => match c with | .switch _ _ | .realign _ => false | _ => true) ++
        List.replicate 8 (.realign lanes) }

/-- A planned request is abandoned (R345): the lanes that it was to remove stay, and their next window judges them anew (R343). -/
def Port.keepMarginal (p : Port) : Port :=
  { p with
    ask := none
    lanes := p.lanes.map (fun x =>
      if x.marginal then { x with marginal := false, heldOut := false, removals := x.removals.drop 1 } else x) }

/-- An unanswered WIDTH_REQ is sent again: forced every 4 µs, planned every 100 µs; after 8 attempts a forced one retrains
the port and a planned one is abandoned (Table 11-12, R345). -/
def execWidthReqRepeat (port : Fin 48) (s : State) : Out :=
  match (s.port port).ask with
  | none => .next s
  | some a =>
    let s := s.wait (a.at_ + if a.forced then 4000 else 100000)
    if a.attempts < 8 then
      .next (s.mapPort port (fun p =>
        { p with ask := some { a with attempts := a.attempts + 1, at_ := s.now }, control := p.control ++ [.widthReq a.lanes a.forced] }))
    else if a.forced then .next (s.mapPort port (fun p => { p with ask := none, retrainDue := true }))
    else .next ((s.mapPort port Port.keepMarginal).log (portEvent 0 0x0405 port 0 []))

/-- The receiver aligns to a REALIGN burst under the list it asked for: the flit that it finds is number `nth` of the burst, which
begins at a frame boundary (R344). -/
def Port.realign (p : Port) (now : Nat) (lanes : BitVec 8) (nth : Nat) : Port :=
  match p.ask with
  | some a =>
    if a.forced ∧ a.lanes = lanes then
      { p.useRx now lanes with
        ask := none, widthchg := bump p.widthchg, rxSlot := Fin.ofNat 5 (nth + 1), wordBad := false, badWords := 0 }
    else p
  | none => p

/-- REALIGN. [DEDUCED: log entry 135] -/
def execRealign (port : Fin 48) (lanes : BitVec 8) (s : State) (nth : Fin 8 := 0) : Out :=
  .next (s.mapPort port (fun p => p.realign s.now lanes nth.val))

/-- The first SWITCH that the receiver gets fixes its change point: REMAIN frames after the end of its own (R345). -/
def Port.switchAt (p : Port) (lanes : BitVec 8) (remain : BitVec 8) : Port :=
  match p.ask with
  | some a =>
    if !a.forced ∧ a.lanes = lanes ∧ 57 ≤ remain.toNat ∧ remain.toNat ≤ 64 then
      { p with ask := none, plan := p.plan ++ [{ transmit := false, lanes := lanes, fresh := false, left := some (remain.toNat + 1) }] }
    else p
  | none => p

/-- SWITCH. [DEDUCED: log entry 135] -/
def execSwitch (port : Fin 48) (lanes : BitVec 8) (remain : BitVec 8) (s : State) : Out :=
  .next (s.mapPort port (fun p => p.switchAt lanes remain))

/-- A planned change of one direction comes about (R345). -/
def Port.changeWidth (now : Nat) (p : Port) (x : WidthPlan) : Port :=
  if x.transmit then
    { p with txLanes := x.lanes, widthchg := bump p.widthchg
             control := p.control.filter (fun c => match c with | .switch _ _ => false | _ => true) }
  else { p.useRx now x.lanes with widthchg := bump p.widthchg }

/-- The planned changes that are due come about, those of one direction or of both. -/
def Port.changeDue (p : Port) (now : Nat) (dir : Bool → Bool) : Port :=
  let due (x : WidthPlan) : Bool := dir x.transmit && decide (x.left = some 0)
  (p.plan.filter due).foldl (Port.changeWidth now) { p with plan := p.plan.filter (fun x => !due x) }

/-- A frame boundary of a direction: its countdown goes on, and a change that is due comes about (R345). -/
def Port.boundary (p : Port) (now : Nat) (transmit : Bool) : Port :=
  if p.plan.isEmpty then p
  else
    let step (x : WidthPlan) : WidthPlan := if x.transmit = transmit then { x with fresh := false, left := x.left.map (fun n => n - 1) } else x
    ({ p with plan := p.plan.map step } : Port).changeDue now (fun t => t == transmit)

/-- The planned frame boundary of a direction has come: its change is made, without a flit of its own (R345). -/
def execWidthChangePoint (port : Fin 48) (s : State) : Out := .next (s.mapPort port (fun p => p.changeDue s.now (fun _ => true)))

/-! ### Heartbeats -/

/-- An ACTIVE port's heartbeat is due every 1,000,000 ticks (R346). -/
def execHeartbeatSend (port : Fin 48) (s : State) : Out :=
  if (s.port port).st ≠ .active then .next s
  else
    let s := s.wait ((s.port port).hbAt + 1000000)
    .next (if s.hbFresh then
      s.mapPort port (fun p => { p with hbAt := s.now, hbseq := p.hbseq + 1, control := p.control ++ [.heartbeat] })
      else s.mapPort port (fun p => { p with hbAt := s.now }))

/-- No MP has refreshed the heartbeat word for 5 ms: heartbeats stop on every port (R346). -/
def execHbWordStale (s : State) : Out :=
  let s := s.wait (s.mp.wordAt + 5000000)
  .next { s with ports := s.ports.map (fun x =>
    (x.1, { x.2 with control := x.2.control.filter (fun c => decide (c ≠ .heartbeat)) })) }

/-- The peer of a port is not the one that the wiring plan expects: a record names the port, the expected peer and the peer found
(R351). -/
def State.checkPeer (s : State) (port : Fin 48) : State :=
  let w := (s.active.route.roles)[port].toNat
  match (s.port port).peer with
  | none => s
  | some (mod, q) =>
    if bitsAt w 30 2 != 0 && (bitsAt w 16 13 != mod.toNat || bitsAt w 0 6 != q.toNat) then
      s.log (portEvent 1 0x0403 port 0 [BitVec.ofNat 32 port.val, BitVec.ofNat 32 (bitsAt w 16 13), BitVec.ofNat 32 (bitsAt w 0 6),
        mod.setWidth 32, q.setWidth 32])
    else s

/-- A good heartbeat: it resets MISS and sets PPEER; one that names another peer sends the port DOWN. A peer that is not the
expected one is recorded (R323, R347, R351). -/
def State.heartbeat (s : State) (port : Fin 48) (mod : BitVec 13) (peerPort : BitVec 6) (mstate : BitVec 4) : State :=
  let p := s.port port
  if p.st ≠ .active ∨ p.deaf then s
  else
    let other : Bool := match p.peer with | some x => x != (mod, peerPort) | none => false
    let s := s.mapPort port (fun p => { p with miss := 0, hbState := mstate })
    let s := if mstate = 2 then s.log (portEvent 1 0x0407 port 0 [mstate.setWidth 32]) else s
    if other then
      (((s.mapPort port (fun p =>
        { p.retrainLanes s.now s.active.ports[port] with st := .down, peer := none })).leaveActive port).log
          (portEvent 1 0x0403 port 0 [mod.setWidth 32, peerPort.setWidth 32]))
    else
      let new := p.peer.isNone
      let s := s.mapPort port (fun p => { p with peer := some (mod, peerPort) })
      if new then s.checkPeer port else s

/-- HEARTBEAT. [DEDUCED: log entry 135] -/
def execHeartbeat (port : Fin 48) (mod : BitVec 13) (peerPort : BitVec 6) (mstate : BitVec 4) (_hbseq : BitVec 32)
    (s : State) : Out := .next (s.heartbeat port mod peerPort mstate)

/-- A period of 1 ms without a good heartbeat (R347): every port that is not DISABLED counts it.
[DEDUCED: log entry 47] -/
def execHeartbeatMiss (port : Fin 48) (s : State) : Out :=
  let p := s.port port
  if p.st = .disabled then .next s
  else
    let n := if p.miss = 0xFFFF then p.miss else p.miss + 1
    let s := s.mapPort port (fun p => { p with miss := n })
    .next (if n.toNat = p.hblim.toNat ∧ n ≠ p.miss then s.log (portEvent 1 0x0407 port 0 [n.setWidth 32]) else s)

end Sys2Proof.Machine
end

