-- ==== Sys2Proof/Machine/Flags.lean ====
section
/-! DEFINITION. The floating-point flags (Table 2-6) as the six bits of FPFLAGS. A computation answers the flags it
sets; the core joins them to the register, where they stay (R38). -/

namespace Sys2Proof.Machine

/-- A set of flags, in the places of FPFLAGS. -/
abbrev Flags := BitVec 6

def fNone : Flags := 0
def fNX : Flags := 1
def fUF : Flags := 2
def fOF : Flags := 4
def fDZ : Flags := 8
def fNV : Flags := 16
def fSAT : Flags := 32

/-- The flags of a binary32 result: inexact, tiny after rounding, overflowed (R38, Table 2-5). -/
def roundFlags (inexact tiny overflow : Bool) : Flags :=
  if overflow then fOF ||| fNX
  else if inexact then (if tiny then fUF ||| fNX else fNX)
  else fNone

end Sys2Proof.Machine
end

