-- ==== Sys2Proof/Machine/Float.lean ====
section
/-! DEFINITION. binary32 arithmetic (R36 to R43). Operands become exact dyadic numbers; each operation is exact up to
one final rounding to nearest even, and answers its result with the flags it sets. -/

namespace Sys2Proof.Machine

/-- A decoded number: (−1)^neg × m × 2^e when finite, with m = 0 a signed zero. -/
inductive Fl
  | nan
  | inf (neg : Bool)
  | fin (neg : Bool) (m : Nat) (e : Int)
  deriving DecidableEq, Repr

/-- The quiet NaN of binary32 (Table 2-5). -/
def nan32 : Nat := 0x7FC00000

/-- A binary32 infinity. -/
def inf32 (neg : Bool) : Nat := b2n neg * 2 ^ 31 + 0x7F800000

/-- A binary32 zero. -/
def zero32 (neg : Bool) : Nat := b2n neg * 2 ^ 31

/-- The number a binary32 code stands for. -/
def dec32 (x : Nat) : Fl :=
  let neg := x.testBit 31
  let ef := bitsAt x 23 8
  let fr := bitsAt x 0 23
  if ef = 255 then (if fr = 0 then .inf neg else .nan)
  else if ef = 0 then .fin neg fr (-149)
  else .fin neg (2 ^ 23 + fr) ((ef : Int) - 150)

/-- The exponent of the leading 1 bit of m × 2^e, for m above 0. -/
def leadExp (m : Nat) (e : Int) : Int := (m.log2 : Int) + e

/-- m × 2^(−k), rounded to nearest even; `sticky` adds a part below the last bit of m. -/
def rneShift (m k : Nat) (sticky : Bool) : Nat :=
  let s := m >>> k
  let r := m % 2 ^ k
  if k = 0 then s
  else if 2 ^ (k - 1) < r then s + 1
  else if r = 2 ^ (k - 1) then (if sticky || s % 2 = 1 then s + 1 else s)
  else s

/-- m × 2^e in units of 2^q, rounded to nearest even, and whether it is inexact. -/
def rneAt (m : Nat) (e q : Int) (sticky : Bool) : Nat × Bool :=
  if q ≤ e then (m <<< (e - q).toNat, sticky)
  else (rneShift m (q - e).toNat sticky, sticky || m % 2 ^ (q - e).toNat != 0)

/-- ± m × 2^e is tiny after rounding (Table 2-5): rounded to 24 bits with no bound on the exponent it lies below
2^−126. -/
def tiny32 (m : Nat) (e : Int) (sticky : Bool) : Bool :=
  let l := leadExp m e
  decide (l < -127) || (decide (l = -127) && decide ((rneAt m e (l - 23) sticky).1 < 2 ^ 24))

/-- ± m × 2^e, with a sticky part below, rounded to binary32 to nearest even: the code and the flags (R36). -/
def round32 (neg : Bool) (m : Nat) (e : Int) (sticky : Bool) : Nat × Flags :=
  if m = 0 then (zero32 neg, fNone)
  else
    let l := leadExp m e
    let q := max (l - 23) (-149)
    let (sig, inexact) := rneAt m e q sticky
    let code := (q + 149).toNat * 2 ^ 23 + sig
    if 0x7F800000 ≤ code then (inf32 neg, roundFlags true false true)
    else (b2n neg * 2 ^ 31 + code, roundFlags inexact (tiny32 m e sticky) false)

/-- ± m × 2^e of two signed numbers of one exponent, as an integer. -/
def signedAt (neg : Bool) (m : Nat) (e q : Int) : Int :=
  let v : Int := (m : Int) * 2 ^ (e - q).toNat
  if neg then -v else v

/-- An exact integer i × 2^q rounded to binary32; an exact 0 is +0. -/
def roundInt32 (i : Int) (q : Int) : Nat × Flags := round32 (decide (i < 0)) i.natAbs q false

/-- The sum of two finite numbers, rounded once. The sum of two zeros of one sign keeps the sign; any other exact zero
is +0, as IEEE 754-2019 has it for this rounding. -/
def addFin (n1 : Bool) (m1 : Nat) (e1 : Int) (n2 : Bool) (m2 : Nat) (e2 : Int) : Nat × Flags :=
  if m1 = 0 ∧ m2 = 0 then (zero32 (n1 && n2), fNone)
  else
    let q := min e1 e2
    roundInt32 (signedAt n1 m1 e1 q + signedAt n2 m2 e2 q) q

/-- Addition of decoded numbers (R36, R39). -/
def addFl : Fl → Fl → Nat × Flags
  | .nan, _ => (nan32, fNone)
  | _, .nan => (nan32, fNone)
  | .inf a, .inf b => if a = b then (inf32 a, fNone) else (nan32, fNV)
  | .inf a, .fin _ _ _ => (inf32 a, fNone)
  | .fin _ _ _, .inf b => (inf32 b, fNone)
  | .fin n1 m1 e1, .fin n2 m2 e2 => addFin n1 m1 e1 n2 m2 e2

/-- The negative of a number. -/
def negFl : Fl → Fl
  | .nan => .nan
  | .inf n => .inf (!n)
  | .fin n m e => .fin (!n) m e

def add32 (a b : Nat) : Nat × Flags := addFl (dec32 a) (dec32 b)
def sub32 (a b : Nat) : Nat × Flags := addFl (dec32 a) (negFl (dec32 b))

/-- The exact product of decoded numbers, and whether it is the invalid 0 × ∞. -/
def mulFl : Fl → Fl → Fl × Bool
  | .nan, _ => (.nan, false)
  | _, .nan => (.nan, false)
  | .inf a, .inf b => (.inf (a != b), false)
  | .inf a, .fin b m _ => if m = 0 then (.nan, true) else (.inf (a != b), false)
  | .fin a m _, .inf b => if m = 0 then (.nan, true) else (.inf (a != b), false)
  | .fin n1 m1 e1, .fin n2 m2 e2 => (.fin (n1 != n2) (m1 * m2) (e1 + e2), false)

/-- A number rounded to binary32. -/
def roundFl : Fl → Nat × Flags
  | .nan => (nan32, fNone)
  | .inf n => (inf32 n, fNone)
  | .fin n m e => round32 n m e false

def mul32 (a b : Nat) : Nat × Flags :=
  let (p, bad) := mulFl (dec32 a) (dec32 b)
  let (r, f) := roundFl p
  (r, if bad then f ||| fNV else f)

/-- d + a × b, rounded once. [DEDUCED: log entry 25] -/
def fma32 (d a b : Nat) : Nat × Flags :=
  let (p, bad) := mulFl (dec32 a) (dec32 b)
  let (r, f) := addFl (dec32 d) p
  (r, if bad then f ||| fNV else f)

/-- a ÷ b, correctly rounded; DZ for a finite non-zero value by zero, NV for 0 ÷ 0 and ∞ ÷ ∞ (R38). -/
def div32 (a b : Nat) : Nat × Flags :=
  match dec32 a, dec32 b with
  | .nan, _ => (nan32, fNone)
  | _, .nan => (nan32, fNone)
  | .inf _, .inf _ => (nan32, fNV)
  | .inf x, .fin y _ _ => (inf32 (x != y), fNone)
  | .fin x _ _, .inf y => (zero32 (x != y), fNone)
  | .fin x m e, .fin y k f =>
    if k = 0 then (if m = 0 then (nan32, fNV) else (inf32 (x != y), fDZ))
    else round32 (x != y) ((m <<< 64) / k) (e - f - 64) ((m <<< 64) % k != 0)

/-- The integer square root, from bit `i` downward above the root `r` found so far. -/
def isqrtFrom (n : Nat) : Nat → Nat → Nat
  | 0, r => r
  | i + 1, r => if (r + 2 ^ i) * (r + 2 ^ i) ≤ n then isqrtFrom n i (r + 2 ^ i) else isqrtFrom n i r

/-- The square root, correctly rounded; NV for a value below zero (R38). -/
def sqrt32 (a : Nat) : Nat × Flags :=
  match dec32 a with
  | .nan => (nan32, fNone)
  | .inf n => if n then (nan32, fNV) else (inf32 false, fNone)
  | .fin n m e =>
    if m = 0 then (zero32 n, fNone)
    else if n then (nan32, fNV)
    else
      let odd := e % 2 = 1
      let k : Nat := (m <<< (if odd then 1 else 0)) <<< 60
      let f : Int := (if odd then e - 1 else e) - 60
      let r := isqrtFrom k 44 0
      round32 false r (f / 2) (r * r != k)

/-- The order of two numbers that are not NaN: less, equal, greater. −0 equals +0. -/
def cmpFl : Fl → Fl → Ordering
  | .fin n1 m1 e1, .fin n2 m2 e2 =>
    let q := min e1 e2
    compare (signedAt n1 m1 e1 q) (signedAt n2 m2 e2 q)
  | .inf a, .inf b => if a = b then .eq else if a then .lt else .gt
  | .inf a, _ => if a then .lt else .gt
  | _, .inf b => if b then .gt else .lt
  | _, _ => .eq

/-- A NaN. -/
def Fl.isNan : Fl → Bool
  | .nan => true
  | _ => false

/-- The conditions of a comparison (Tables 3-8 and 5-6). -/
inductive Cond | eq | ne | lt | le | ge | un
  deriving DecidableEq, Repr

/-- A comparison of two numbers and the flag it sets (R42). -/
def compareFl (c : Cond) (a b : Fl) : Bool × Flags :=
  if a.isNan || b.isNan then
    match c with
    | .ne | .un => (true, fNone)
    | .eq => (false, fNone)
    | .lt | .le | .ge => (false, fNV)
  else
    match c with
    | .eq => (cmpFl a b == .eq, fNone)
    | .ne => (cmpFl a b != .eq, fNone)
    | .lt => (cmpFl a b == .lt, fNone)
    | .le => (cmpFl a b != .gt, fNone)
    | .ge => (cmpFl a b != .lt, fNone)
    | .un => (false, fNone)

/-- Of two binary32 codes, the first is the smaller, −0 below +0 (R40). -/
def lt32 (a b : Nat) : Bool :=
  match cmpFl (dec32 a) (dec32 b) with
  | .lt => true
  | .eq => a.testBit 31 && !b.testBit 31
  | .gt => false

/-- Maximum or minimum of two binary32 codes: a NaN operand is ignored, two give NaN (R40). -/
def minmax32 (isMax : Bool) (a b : Nat) : Nat :=
  match (dec32 a).isNan, (dec32 b).isNan with
  | true, true => nan32
  | true, false => b
  | false, true => a
  | false, false => if isMax then (if lt32 a b then b else a) else (if lt32 b a then b else a)

/-- A number rounded to an integer, to nearest even, and whether it was inexact. -/
def roundToInt (neg : Bool) (m : Nat) (e : Int) : Int × Bool :=
  let (s, inexact) := rneAt m e 0 false
  (if neg then -(s : Int) else s, inexact)

/-- FCVTI: binary32 to a signed integer of `w` bits, as its bits (R80). -/
def toInt32 (w : Nat) (a : Nat) : Nat × Flags :=
  match dec32 a with
  | .nan => (0, fNV)
  | .inf n => (if n then 2 ^ (w - 1) else 2 ^ (w - 1) - 1, fNV)
  | .fin n m e =>
    let (i, inexact) := roundToInt n m e
    if i < -(2 ^ (w - 1) : Int) then (2 ^ (w - 1), fNV)
    else if (2 ^ (w - 1) : Int) ≤ i then (2 ^ (w - 1) - 1, fNV)
    else (toBits w i, if inexact then fNX else fNone)

/-- ICVTF: a signed integer to binary32 (R36). -/
def ofInt32 (i : Int) : Nat × Flags := roundInt32 i 0

end Sys2Proof.Machine
end

