-- ==== Sys2Proof/Machine/Short.lean ====
section
/-! DEFINITION. The short formats, the small integers, block scales and the converters (R25 to R35, R50 to R57), and
the accumulation step (R46). -/

namespace Sys2Proof.Machine

/-- The element types (Table 5-1). -/
inductive Ty | i4 | i8 | i16 | i32 | h4 | h6 | h8p | h8r | h16 | f32
  deriving DecidableEq, Repr

/-- Table 5-1's codes; the rest are reserved. -/
def Ty.ofCode (c : Nat) : Option Ty :=
  match c with
  | 0 => some .i4 | 1 => some .i8 | 2 => some .i16 | 3 => some .i32 | 4 => some .h4 | 5 => some .h6 | 6 => some .h8p
  | 7 => some .h8r | 8 => some .h16 | 9 => some .f32 | _ => none

/-- Storage width in bits (Table 5-1). -/
def Ty.width : Ty → Nat
  | .i4 | .h4 => 4
  | .i8 | .h6 | .h8p | .h8r => 8
  | .i16 | .h16 => 16
  | .i32 | .f32 => 32

/-- I4 to I32. -/
def Ty.isInt : Ty → Bool
  | .i4 | .i8 | .i16 | .i32 => true
  | _ => false

/-- The five short float formats. -/
def Ty.isShort : Ty → Bool
  | .h4 | .h6 | .h8p | .h8r | .h16 => true
  | _ => false

/-- Width of the code, of the fraction, and the bias of a short format (Table 2-1). -/
def Ty.shape : Ty → Nat × Nat × Nat
  | .h4 => (4, 1, 1)
  | .h6 => (6, 2, 3)
  | .h8p => (8, 3, 7)
  | .h8r => (8, 2, 15)
  | .h16 => (16, 9, 31)
  | _ => (0, 0, 0)

/-- The number a short code stands for (R26, R27). -/
def decShort (t : Ty) (c : Nat) : Fl :=
  let (w, f, b) := t.shape
  let x := c % 2 ^ w
  let neg := x.testBit (w - 1)
  let e := bitsAt x f (w - 1 - f)
  let m := bitsAt x 0 f
  if x = 2 ^ (w - 1) then .nan
  else if e = 0 then .fin neg m (1 - (b : Int) - f)
  else .fin neg (2 ^ f + m) ((e : Int) - b - f)

/-- The number an element's code stands for, of any type. -/
def decTy (t : Ty) (c : Nat) : Fl :=
  match t with
  | .f32 => dec32 c
  | .i4 | .i8 | .i16 | .i32 =>
    let i := signed t.width c
    .fin (decide (i < 0)) i.natAbs 0
  | _ => decShort t c

/-- The NaN code of a short format (R27). -/
def nanShort (t : Ty) : Nat := 2 ^ (t.shape.1 - 1)

/-- A block-scale byte: its exponent, or `none` for NaN (R33). -/
def scaleOf (b : Byte) : Option Int := if b = 0x80 then none else some b.toInt

/-- A number with its block's scale (R34). -/
def scaled (x : Fl) (s : Byte) : Fl :=
  match scaleOf s with
  | none => .nan
  | some k => match x with
    | .fin n m e => .fin n m (e + k)
    | y => y

/-- Conversion of an element to binary32 with its scale (R50): the code and the flags. Short zero gives +0.
[DEDUCED: log entry 25] -/
def toB32 (t : Ty) (c : Nat) (s : Byte) : Nat × Flags :=
  match scaled (decTy t c) s with
  | .nan => (nan32, fNone)
  | .inf n => (inf32 n, fNone)
  | .fin n m e => if m = 0 then (zero32 false, fNone) else round32 n m e false

/-- The largest finite value of a short format, as its significand and exponent. -/
def maxShort (t : Ty) : Nat × Int :=
  let (w, f, b) := t.shape
  (2 ^ (f + 1) - 1, ((2 ^ (w - 1 - f) - 1 : Nat) : Int) - b - f)

/-- The random-number step of a stream (R55). -/
def lfsrStep (s : Word) : Word :=
  (s <<< 1) ||| (if (s.getLsbD 31 != s.getLsbD 21) != (s.getLsbD 1 != s.getLsbD 0) then 1 else 0)

/-- A magnitude m × 2^e in units of 2^q, rounded to nearest even or against a 16-bit random number: hi when the
distance to lo, cut to 16 bits, is above it (R51, R54). With whether it is inexact. -/
def roundUnits (m : Nat) (e q : Int) (r16 : Option Nat) : Nat × Bool :=
  match r16 with
  | none => rneAt m e q false
  | some r =>
    if q ≤ e then (m <<< (e - q).toNat, false)
    else
      let k := (q - e).toNat
      let lo := m >>> k
      let f16 := ((m % 2 ^ k) * 65536) >>> k
      (if r < f16 then lo + 1 else lo, m % 2 ^ k != 0)

/-- |a| > |b| for two magnitudes. -/
def magAbove (m : Nat) (e : Int) (k : Nat) (f : Int) : Bool :=
  let q := min e f
  decide (k * 2 ^ (f - q).toNat < m * 2 ^ (e - q).toNat)

/-- Conversion of a binary32 code to a short float with an output scale (R51, R52, R54): code, flags, and whether the
element saturated. -/
def toShort (t : Ty) (x : Nat) (s : Byte) (r16 : Option Nat) : Nat × Flags × Bool :=
  let (w, f, b) := t.shape
  let sign (n : Bool) (c : Nat) : Nat := if c = 0 then 0 else b2n n * 2 ^ (w - 1) + c
  match scaleOf s, dec32 x with
  | none, _ => (nanShort t, fNone, false)
  | _, .nan => (nanShort t, fNone, false)
  | some _, .inf n => (sign n (2 ^ (w - 1) - 1), fSAT, true)
  | some k, .fin n m e =>
    if m = 0 then (0, fNone, false)
    else
      let e := e - k
      let (mm, me) := maxShort t
      if magAbove m e mm me then (sign n (2 ^ (w - 1) - 1), fSAT ||| fNX, true)
      else
        let q0 : Int := 1 - (b : Int) - f
        let q := max (leadExp m e - f) q0
        let (sig, inexact) := roundUnits m e q r16
        (sign n ((q - q0).toNat * 2 ^ f + sig), if inexact then fNX else fNone, false)

/-- Conversion of a binary32 code to I4 or I8 with an output scale (R53, R54). -/
def toSmallInt (t : Ty) (x : Nat) (s : Byte) (r16 : Option Nat) : Nat × Flags × Bool :=
  let w := t.width
  let hi : Nat := 2 ^ (w - 1) - 1
  let lo : Nat := 2 ^ (w - 1)
  match scaleOf s, dec32 x with
  | none, _ => (0, fNV, false)
  | _, .nan => (0, fNV, false)
  | some _, .inf n => (if n then lo else hi, fSAT, true)
  | some k, .fin n m e =>
    let e := e - k
    if magAbove m e (if n then lo else hi) 0 then (if n then lo else hi, fSAT ||| fNX, true)
    else
      let (u, inexact) := roundUnits m e 0 r16
      (toBits w (if n then -(u : Int) else u), if inexact then fNX else fNone, false)

/-- What a stream's conversion of one element gives. -/
structure Converted where
  code : Nat
  flags : Flags
  saturated : Bool
  /-- The element's input value as a binary32 magnitude, NaN included (R57). -/
  input : Nat
  deriving DecidableEq, Repr

/-- Conversion of one element from `st` to `dt` (R50 to R54). A short or integer source becomes binary32 first, with
the input scale; the output scale applies to a short or integer destination. -/
def convertElem (st dt : Ty) (c : Nat) (sin sout : Byte) (r16 : Option Nat) : Converted :=
  let (x, f1) := if st = .f32 then (c, fNone) else toB32 st c sin
  match dt with
  | .f32 => { code := if st = .f32 then c else x, flags := f1, saturated := false, input := x }
  | .i4 | .i8 =>
    let (r, f, sat) := toSmallInt dt x sout r16
    { code := r, flags := f1 ||| f, saturated := sat, input := x }
  | _ =>
    let (r, f, sat) := toShort dt x sout r16
    { code := r, flags := f1 ||| f, saturated := sat, input := x }

/-- RMAX after an element whose input value is the binary32 code `x` (R57). -/
def rmaxAfter (rmax : Nat) (x : Nat) : Nat :=
  if (dec32 x).isNan then rmax
  else if rmax < x % 2 ^ 31 then x % 2 ^ 31 else rmax

/-! ### Accumulation -/

/-- A product of two scaled elements: NaN, or exact; a zero factor gives +0 (R41). Short formats have no infinity. -/
def product (a b : Fl) : Fl :=
  match a, b with
  | .nan, _ => .nan
  | _, .nan => .nan
  | .fin n1 m1 e1, .fin n2 m2 e2 => .fin (n1 != n2) (m1 * m2) (e1 + e2)
  | _, _ => .nan

/-- The terms that are not zero: sign, significand and exponent. -/
def liveTerms : List Fl → List (Bool × Nat × Int)
  | [] => []
  | .fin n m e :: ts => if m = 0 then liveTerms ts else (n, m, e) :: liveTerms ts
  | _ :: ts => liveTerms ts

/-- The highest leading exponent of a list of terms, from a starting value. -/
def maxExp : List (Bool × Nat × Int) → Int → Int
  | [], x => x
  | (_, m, e) :: ts, x => maxExp ts (max x (leadExp m e))

/-- A term cut toward zero at 2^q. -/
def cutTerm (q : Int) (t : Bool × Nat × Int) : Int :=
  let (n, m, e) := t
  let v : Nat := if q ≤ e then m <<< (e - q).toNat else m >>> (q - e).toNat
  if n then -(v : Int) else v

/-- The exact sum of terms in units of 2^q, with q at or below every exponent. -/
def exactSum (q : Int) : List (Bool × Nat × Int) → Int
  | [] => 0
  | (n, m, e) :: ts => signedAt n m e q + exactSum q ts

/-- The lowest exponent of a list of terms, from a starting value. -/
def minExp : List (Bool × Nat × Int) → Int → Int
  | [], x => x
  | (_, _, e) :: ts, x => minExp ts (min x e)

/-- A sum rounded to binary32 against the exact sum of its inputs: NX when they differ, UF when the result is tiny as
well, OF with NX at an infinity (R47). [DESIGN CHOICE: log entry 125] -/
def roundSum (s : Int) (q : Int) (exact : Int) (qx : Int) : Nat × Flags :=
  let (r, f) := if s = 0 then (0, fNone) else roundInt32 s q
  let tiny := s = 0 || tiny32 s.natAbs q false
  let differs := match dec32 r with
    | .fin n m e =>
      let g := min e qx
      decide (signedAt n m e g ≠ exact * 2 ^ (qx - g).toNat)
    | _ => true
  if f &&& fOF ≠ 0 then (r, fOF ||| fNX)
  else (r, if differs then (if tiny then fUF ||| fNX else fNX) else fNone)

/-- One accumulation step (R46, R47): the accumulator's code, the products, and the new code with the flags it sets. -/
def accStep (c : Nat) (ps : List Fl) : Nat × Flags :=
  match dec32 c with
  | .nan => (nan32, fNone)
  | .inf n => if ps.any Fl.isNan then (nan32, fNone) else (inf32 n, fNone)
  | .fin n m e =>
    if ps.any Fl.isNan then (nan32, fNone)
    else
      match liveTerms (.fin n m e :: ps) with
      | [] => (c, fNone)
      | t :: ts =>
        let q := maxExp ts (leadExp t.2.1 t.2.2) - 26
        let s := ((t :: ts).map (cutTerm q)).foldl (· + ·) 0
        let qx := minExp ts t.2.2
        roundSum s q (exactSum qx (t :: ts)) qx

/-- An exact sum of the accumulator and all products, rounded once (R149, R150), with the NaN and infinity rules of R46. A
zero product is +0, and with it a sum of zeros is +0 (R37, R41). -/
def dotOnce (c : Nat) (ps : List Fl) : Nat × Flags :=
  match dec32 c with
  | .nan => (nan32, fNone)
  | .inf n => if ps.any Fl.isNan then (nan32, fNone) else (inf32 n, fNone)
  | .fin n m e =>
    if ps.any Fl.isNan then (nan32, fNone)
    else
      match liveTerms (.fin n m e :: ps) with
      | [] => (if ps.isEmpty then c else 0, fNone)
      | t :: ts =>
        let qx := minExp ts t.2.2
        let x := exactSum qx (t :: ts)
        roundSum x qx x qx

end Sys2Proof.Machine
end

