-- ==== Sys2Proof/Machine/Streams.lean ====
section
/-! DEFINITION. One element through a converter stream (R50 to R60), and the writing of elements to a memory whose
64-bit words may be poison (R152, R202, R203). -/

namespace Sys2Proof.Machine

/-- A stream converts one element: the stream after it, the code and the flags (R54 to R57, R60). -/
def Stream.feed (s : Stream) (src dst : Ty) (code : Nat) (sin sout : Byte) : Stream × Nat × Flags :=
  let seed := if s.stochastic then lfsrStep s.seed else s.seed
  let r16 := if s.stochastic then some (seed.toNat / 65536) else none
  let x := convertElem src dst code sin sout r16
  ({ s with
      seed := seed
      rmax := BitVec.ofNat 32 (rmaxAfter s.rmax.toNat x.input)
      sat := if x.saturated ∧ s.sat ≠ 0xFFFFFFFF then s.sat + 1 else s.sat }, x.code, x.flags)

/-- One element to be written: its first bit, its width, its code, and whether it is poison. -/
structure ElemWrite where
  pos : Nat
  width : Nat
  value : Nat
  poison : Bool
  deriving DecidableEq, Repr

/-- An element written to a memory; one of 4 bits leaves the other half of its byte (R138). -/
def ElemWrite.apply (m : Memory) (w : ElemWrite) : Memory :=
  let a := w.pos / 8
  if w.width = 4 then
    let b := (memRead m a).toNat
    let v := w.value % 16
    memWrite m a (BitVec.ofNat 8 (if w.pos % 8 = 0 then b / 16 * 16 + v else v * 16 + b % 16))
  else memWriteN m a (leBytes (w.width / 8) w.value)

/-- Elements written in order: of two that overlap the later remains (R139). -/
def applyWrites (m : Memory) (ws : List ElemWrite) : Memory := ws.foldl ElemWrite.apply m

/-- The bits of 64-bit word `k` that a list of writes covers. -/
def coverOf (ws : List ElemWrite) (k : Nat) : Nat :=
  ws.foldl (fun a w => if w.pos / 64 = k then a ||| ((2 ^ w.width - 1) <<< (w.pos % 64)) else a) 0

/-- Poison after a list of writes: a word that takes a poisoned element is poison, a word written whole by clean ones
is clean, and any other word stays as it was (R203). -/
def poisonAfter (p : NatSet) (ws : List ElemWrite) : NatSet :=
  if p.isEmpty && !ws.any (fun w => w.poison) then p
  else (ws.map (fun w => w.pos / 64)).eraseDups.foldl (fun p k =>
    if ws.any (fun w => w.poison && w.pos / 64 == k) then nins p k
    else if coverOf ws k = 2 ^ 64 - 1 then ndel p k else p) p

/-- An element read from a memory at element index `i` from bit `base` on: two 4-bit elements share a byte, and bits
[7:6] of an H6 byte are ignored (R28, R125). -/
def readElem (m : Memory) (base : Nat) (t : Ty) (i : Nat) : Nat :=
  let pos := base + t.width * i
  let a := pos / 8
  if t.width = 4 then (memRead m a).toNat / 2 ^ (pos % 8) % 16
  else
    let v := leNat (memReadN m a (t.width / 8))
    if t = .h6 then v % 64 else v

/-- The code an element of a type keeps of a value (R125). -/
def Ty.keep (t : Ty) (v : Nat) : Nat := if t = .h6 then v % 64 else v % 2 ^ t.width

end Sys2Proof.Machine
end

