-- ==== Sys2Proof/Machine/DmaForm.lean ====
section
/-! DEFINITION. Descriptors: their fields, the checks at their start, their rows and the places their granules name
(R259 to R265, R271, R273, Tables 9-2 to 9-6a). -/

namespace Sys2Proof.Machine

/-! ### Fields (Table 9-2) -/

/-- The space codes of a descriptor's source and destination (Table 9-3). -/
def DescRun.ssp (r : DescRun) : Nat := bitsAt (r.word 0) 20 2
def DescRun.dsp (r : DescRun) : Nat := bitsAt (r.word 0) 18 2
/-- The operation of a descriptor (Table 9-4). -/
def DescRun.op (r : DescRun) : Nat := bitsAt (r.word 0) 28 4
/-- Its source and destination addresses. -/
def DescRun.srcAddr (r : DescRun) : Nat := r.word 2 + r.word 3 * 2 ^ 32
def DescRun.dstAddr (r : DescRun) : Nat := r.word 4 + r.word 5 * 2 ^ 32

/-- A field of word `w`. -/
def DescRun.f (r : DescRun) (w : Fin 16) (lo n : Nat) : Nat := bitsAt (r.word w) lo n
def DescRun.cvt (r : DescRun) : Bool := (r.word 0).testBit 27
def DescRun.red (r : DescRun) : Bool := (r.word 0).testBit 26
def DescRun.ord (r : DescRun) : Bool := (r.word 0).testBit 25
/-- The expected generation that its writes carry (R268). -/
def DescRun.gen (r : DescRun) : Option (BitVec 8) :=
  if (r.word 0).testBit 24 then some (BitVec.ofNat 8 (r.f 0 8 8)) else none
def DescRun.dims (r : DescRun) : Nat := r.f 0 22 2
def DescRun.cmpl (r : DescRun) : Nat := r.f 0 16 2
def DescRun.sty (r : DescRun) : Option Ty := Ty.ofCode (r.f 1 28 4)
def DescRun.dty (r : DescRun) : Option Ty := Ty.ofCode (r.f 1 24 4)
def DescRun.esz (r : DescRun) : Nat := r.f 1 5 3
def DescRun.len0 (r : DescRun) : Nat := r.word 6
/-- A stride word, as a signed number. -/
def DescRun.stride (r : DescRun) (w : Fin 16) : Int := signed 32 (r.word w)
def DescRun.ctgt (r : DescRun) : Nat := r.word 13
def DescRun.next (r : DescRun) : Nat := r.word 14
/-- GATHER or SCATTER. -/
def DescRun.indexed (r : DescRun) : Bool := r.op == 2 || r.op == 3

/-- Bits of one source and one destination element, 8 and 8 where nothing is converted (R263). -/
def DescRun.widths (r : DescRun) : Nat × Nat :=
  if r.cvt then ((r.sty.map Ty.width).getD 8, (r.dty.map Ty.width).getD 8) else (8, 8)

/-- Source bytes of one row. -/
def DescRun.srcRow (r : DescRun) : Nat := if r.indexed then 2 ^ r.esz else r.len0
/-- Destination bytes of one row (R261, R263). -/
def DescRun.dstRow (r : DescRun) : Nat := r.srcRow * 8 / r.widths.1 * r.widths.2 / 8

/-- Rows of dimensions 1 and 2. -/
def DescRun.rows1 (r : DescRun) : Nat := if r.dims = 0 then 1 else r.f 7 0 16 + 1
def DescRun.rows2 (r : DescRun) : Nat := if r.dims = 2 then r.f 7 16 16 + 1 else 1

/-- The element bytes of a reduction, and whether its type is one of R264. -/
def Ty.reduces (t : Ty) : Bool := t == .f32 || t == .h16 || t == .i32

/-! ### What is still to be performed -/

/-- The lowest byte and the byte beyond the highest of rows at an address with two strides (R269). -/
def rowSpan (a row n1 n2 : Nat) (s1 s2 : Int) : Int × Int :=
  let d1 := ((n1 : Int) - 1) * s1
  let d2 := ((n2 : Int) - 1) * s2
  ((a : Int) + min d1 0 + min d2 0, (a : Int) + row + max d1 0 + max d2 0)

/-- The rows of the source and of the destination, from the lowest byte to beyond the highest. -/
def DescRun.srcSpan (r : DescRun) : Int × Int :=
  rowSpan r.srcAddr r.srcRow r.rows1 r.rows2 (r.stride 8) (r.stride 9)
def DescRun.dstSpan (r : DescRun) : Int × Int :=
  rowSpan r.dstAddr r.dstRow r.rows1 r.rows2 (r.stride 10) (r.stride 11)

/-- A span meets the `n` bytes from `lo` on. -/
def spanMeets (x : Int × Int) (lo n : Nat) : Bool := decide (x.1 < (lo + n : Nat) ∧ (lo : Int) < x.2)

/-- The scope from which on a fence waits for some access of a space within a span (Table 8-5). Of a link address bits [52:40]
name the module, and bit 63 only the module's space (Table 9-3). -/
def spaceScope (e : Env) (space : Nat) (x : Int × Int) : Nat :=
  match space with
  | 0 => 1
  | 1 =>
    if spanMeets x (e.id.toNat * 2 ^ 22) (2 ^ 22) then 1
    else if spanMeets x (e.id.toNat / 256 * 2 ^ 30) (2 ^ 30) then 2 else 3
  | 2 => 3
  | _ =>
    let top := x.1 / 2 ^ 63 * 2 ^ 63
    match e.partner with
    | some p => if spanMeets (x.1 - top, x.2 - top) (p.toNat * 2 ^ 40) (2 ^ 40) then 4 else 5
    | none => 5

/-- It has neither faulted nor been abandoned: such a one issues nothing further (R245, R272). -/
def DescRun.live (r : DescRun) : Bool := !r.faulted && !r.abandoned

/-- Granules are still to be issued. -/
def DescRun.toIssue (r : DescRun) : Bool := r.live && !r.allIssued

/-- A granule has been carried on: its reads have been performed, and its data is held or has left. -/
def Granule.carried (g : Granule) : Bool := g.write.isSome || g.data.isSome

/-- The reads of a granule that are still to be performed. -/
def Granule.unread (g : Granule) : List Part := if g.carried then [] else g.reads.filter (fun p => p.answer.isNone)

/-- The rows from a place on, in the order of R261, by their numbers in dimensions 2 and 1. -/
def DescRun.rowsFrom (r : DescRun) (i2 i1 : Nat) : List (Nat × Nat) :=
  ((List.range r.rows1).drop i1).map (fun i => (i2, i)) ++
    ((List.range r.rows2).drop (i2 + 1)).flatMap (fun j => (List.range r.rows1).map (fun i => (j, i)))

/-- The rows that have still to begin. -/
def DescRun.rowsLeft (r : DescRun) : List (Nat × Nat) :=
  if !r.toIssue then []
  else (r.rowsFrom r.cur.i2 r.cur.i1).drop (if r.cur.row.isSome then 1 else 0)

/-- The bytes of a row, of the source and of the destination, by its numbers (R261). -/
def DescRun.srcAt (r : DescRun) (x : Nat × Nat) : Int × Int :=
  let a := (r.srcAddr : Int) + x.2 * r.stride 8 + x.1 * r.stride 9
  (a, a + r.srcRow)
def DescRun.dstAt (r : DescRun) (x : Nat × Nat) : Int × Int :=
  let a := (r.dstAddr : Int) + x.2 * r.stride 10 + x.1 * r.stride 11
  (a, a + r.dstRow)

/-- The source bits of the elements whose first destination bit lies in bytes `off` to `off + n − 1` of a row: first
element and their number (R263). -/
def DescRun.elems (r : DescRun) (off n : Nat) : Nat × Nat :=
  let e0 := ceilDiv (off * 8) r.widths.2
  (e0, ceilDiv ((off + n) * 8) r.widths.2 - e0)

/-- The source bytes that a granule reads: offset in the row, and length. -/
def DescRun.srcBytes (r : DescRun) (off n : Nat) : Nat × Nat :=
  let x := r.elems off n
  let b0 := x.1 * r.widths.1 / 8
  (b0, ceilDiv ((x.1 + x.2) * r.widths.1) 8 - b0)

/-- The bytes of the source that are still to be asked for: the rest of the row begun, and the rows that have still to begin,
those apart that an index names. -/
def DescRun.srcLeft (r : DescRun) : List (Int × Int) :=
  let b := r.srcBytes r.cur.off (r.dstRow - r.cur.off)
  (match r.toIssue, r.cur.row with
    | true, some x => [((x.1 + b.1 : Nat), (x.1 + b.1 + b.2 : Nat))]
    | _, _ => []) ++ (if r.op = 2 then [] else r.rowsLeft.map r.srcAt)

/-- The same bytes of the destination. -/
def DescRun.dstLeft (r : DescRun) : List (Int × Int) :=
  (match r.toIssue, r.cur.row with
    | true, some x => [((x.2 + r.cur.off : Nat), (x.2 + r.dstRow : Nat))]
    | _, _ => []) ++ (if r.op = 3 then [] else r.rowsLeft.map r.dstAt)

/-- The rest of its chain has not been read: what that accesses is not known yet (R258). -/
def DescRun.chainOpen (r : DescRun) : Bool := r.live && r.word 14 != 0 && !r.chained

/-- The scope of an access of its source, and of one of its destination; a CODELOAD writes the code region. -/
def DescRun.srcScope (e : Env) (r : DescRun) (x : Int × Int) : Nat := spaceScope e r.ssp x
def DescRun.dstScope (e : Env) (r : DescRun) (x : Int × Int) : Nat := if r.op = 4 then 3 else spaceScope e r.dsp x

/-- A read of its source within a scope is still to be performed: one of a granule that has left, or one still to be asked
for. -/
def DescRun.reading (e : Env) (scope : Nat) (r : DescRun) : Bool :=
  r.op != 1 && r.op != 5 &&
    (r.grans.any (fun g => g.unread.any (fun p => decide (r.srcScope e (p.addr, (p.addr + p.len : Nat)) ≤ scope))) ||
      r.srcLeft.any (fun x => decide (r.srcScope e x ≤ scope)))

/-- A write within a scope is still to be performed, or to be acknowledged. -/
def DescRun.writing (e : Env) (scope : Nat) (r : DescRun) : Bool :=
  r.op != 5 &&
    (r.grans.any (fun g => decide (r.dstScope e (g.dst, (g.dst + g.len : Nat)) ≤ scope)) ||
      r.dstLeft.any (fun x => decide (r.dstScope e x ≤ scope)))

/-- Accesses of the descriptor that a fence of `scope` waits for are still to be performed (R244, R270, Table 8-5). A row that an
index names may lie anywhere, and its index is itself still to be read. -/
def DescRun.pending (e : Env) (scope : Nat) (r : DescRun) : Bool :=
  decide (1 ≤ scope) &&
    (r.chainOpen || (r.indexed && !r.rowsLeft.isEmpty) || r.reading e scope || r.writing e scope)

/-! ### The footprint -/

/-- The lowest byte and the byte beyond the highest of spans of bytes, those without a byte apart. -/
def hull (xs : List (Int × Int)) : Option (Int × Int) :=
  match xs.filter (fun x => decide (x.1 < x.2)) with
  | [] => none
  | x :: xs => some (xs.foldl (fun a b => (min a.1 b.1, max a.2 b.2)) x)

/-- The part of a span of a space of Table 9-3 that lies in the core's own scratchpad, by its offsets. -/
def ownPart (e : Env) (space : Nat) (x : Int × Int) : Int × Int :=
  let base : Int := if space = 1 then (e.id.toNat * 2 ^ 22 : Nat) else 0
  (max (x.1 - base) 0, min (x.2 - base) e.spmSize)

/-- From the lowest to the highest byte of the core's own scratchpad that rows of a space touch (R269): where all of their span
lies in it, that span. -/
def ownRange (e : Env) (space : Nat) (span : Int × Int) (rows : List (Int × Int)) : List (Nat × Nat) :=
  let p := ownPart e space span
  let h :=
    if 1 < space ∨ p.2 ≤ p.1 then none
    else if p.2 - p.1 = span.2 - span.1 then hull [p]
    else hull (rows.map (ownPart e space))
  match h with
  | some y => [(y.1.toNat, (y.2 - y.1).toNat)]
  | none => []

/-- The local footprint of an entry (R269): ranges of bytes, and whether they are written. -/
def DescRun.footprint (e : Env) (r : DescRun) : List ((Nat × Nat) × Bool) :=
  if r.next ≠ 0 then [((0, e.spmSize), true)]
  else
    let rows := r.rowsFrom 0 0
    let all : Bool × Nat → List ((Nat × Nat) × Bool) := fun x => if x.2 ≤ 1 then [((0, e.spmSize), x.1)] else []
    (if r.op = 1 ∨ r.op = 5 ∨ r.srcRow = 0 then []
     else if r.op = 2 then all (false, r.ssp)
     else (ownRange e r.ssp r.srcSpan (rows.map r.srcAt)).map (fun p => (p, false))) ++
    (if r.op = 4 ∨ r.op = 5 ∨ r.dstRow = 0 then []
     else if r.op = 3 then all (true, r.dsp)
     else (ownRange e r.dsp r.dstSpan (rows.map r.dstAt)).map (fun p => (p, true))) ++
    (if r.indexed then [((r.f 12 0 22, (if (r.word 1).testBit 4 then 4 else 2) * r.rows1), false)] else [])

/-- The descriptor at an offset, as the DE reads it. -/
def Core.readDesc (c : Core) (t : Fin 4) (entry off : Nat) : DescRun :=
  { entry := entry, off := off, thread := t,
    d := { words := Vector.ofFn (fun i => BitVec.ofNat 32 (c.spm.read (off + 4 * i.val) 4)) },
    started := false, cur := { i2 := 0, i1 := 0, off := 0, row := none }, allIssued := false, grans := [], chained := false,
    carry := [], before := [], faulted := false, filling := false, abandoned := false, loaded := false }

/-- Its completion fill is still to be performed, at a core of the scope (R267). -/
def DescRun.fillPending (e : Env) (scope : Nat) (r : DescRun) : Bool :=
  let core := bitsAt r.ctgt 16 13
  r.live && r.cmpl == 2 &&
    decide ((if core = e.id.toNat then 1 else if core / 256 = e.id.toNat / 256 then 2 else 3) ≤ scope)

/-! ### Checks at the start -/

/-- A type that VCVT and the DE convert (R151, R263). -/
def Ty.converts (t : Ty) : Bool := t != .i16 && t != .i32

/-- Address bits that a space does not list (Table 9-3). -/
def strayBits (space addr : Nat) : Bool :=
  match space with
  | 0 => decide (2 ^ 22 ≤ addr)
  | 1 => decide (2 ^ 35 ≤ addr)
  | 2 => decide (2 ^ 40 ≤ addr)
  | _ => bitsAt addr 53 10 != 0 || (addr.testBit 63 && bitsAt addr 35 5 != 0)

/-- One check: its condition, DQq_ERR.CODE and OPID. -/
abbrev Check := Bool × BitVec 8 × BitVec 4

/-- Reserved encodings and non-zero reserved bits. [DESIGN CHOICE: log entry 151] -/
def DescRun.reservedChecks (r : DescRun) : List Check :=
  [(decide (5 < r.op) || r.dims == 3 || r.cmpl == 3 || r.f 0 0 8 != 0, 1, 6),
   (r.f 1 0 4 != 0 || r.esz == 7 || ((r.cvt || r.red) && (r.sty.isNone || r.dty.isNone)), 1, 7),
   (r.f 12 22 10 != 0, 1, 3), (r.f 14 22 10 != 0, 1, 5),
   (r.op != 1 && r.op != 5 && strayBits r.ssp r.srcAddr, 1, 2),
   (if r.op = 4 then decide (2 ^ 32 ≤ r.dstAddr) else r.op != 5 && strayBits r.dsp r.dstAddr, 1, 1)]

/-- Combinations that Table 9-4, R259, R263 and R264 exclude, and alignments. [DESIGN CHOICE: log entry 152] -/
def DescRun.formChecks (r : DescRun) : List Check :=
  let es := (r.dty.map Ty.width).getD 8 / 8
  [((r.dims != 2 && r.f 7 16 16 != 0) || (r.dims == 0 && r.f 7 0 16 != 0), 2, 8),
   (r.op == 1 && (r.ssp != 0 || r.cvt || r.red), 2, 6), (r.red && r.op != 0 && r.op != 3, 2, 6),
   (r.indexed && r.dims != 1, 2, 6), (r.indexed && r.len0 != 0, 2, 8),
   (r.op == 4 && (r.dims != 0 || (r.ssp != 0 && r.ssp != 2) || r.dsp != 0 || r.cvt || r.red || r.gen.isSome), 2, 6),
   (r.op == 4 && r.dstAddr % 128 != 0, 3, 1), (r.op == 4 && r.len0 % 128 != 0, 3, 8),
   (r.op == 5 && (r.ssp != 0 || r.dsp != 0), 2, 6), (r.op == 5 && r.srcAddr != 0, 2, 2),
   (r.op == 5 && r.dstAddr != 0, 2, 1), (r.op == 5 && r.len0 != 0, 2, 8),
   (r.cvt && (r.sty == r.dty || !((r.sty.map Ty.converts).getD false && (r.dty.map Ty.converts).getD false)), 2, 7),
   (r.cvt && (r.srcRow * 8 % r.widths.1 != 0 || r.srcRow * 8 / r.widths.1 * r.widths.2 % 8 != 0), 2, 8),
   (r.red && !(r.dty.map Ty.reduces).getD false, 2, 7), (r.red && r.dstRow % es != 0, 2, 8),
   (r.red && r.dstAddr % es != 0, 3, 1),
   (r.red && (r.stride 10 % es != 0 || r.stride 11 % es != 0), 3, 8),
   (r.dsp == 3 && r.dstAddr % 16 != 0, 3, 1),
   (r.dsp == 3 && (r.dstRow % 16 != 0 || r.stride 10 % 16 != 0 || r.stride 11 % 16 != 0), 3, 8)]

/-- The completion target and NEXT. -/
def DescRun.targetChecks (e : Env) (r : DescRun) : List Check :=
  let t := r.ctgt
  [(r.cmpl == 1 && decide (31 < t), 1, 4), (r.cmpl == 2 && t / 2 ^ 29 != 0, 1, 4),
   (r.cmpl == 2 && !e.assigned (BitVec.ofNat 13 (t / 65536)), 6, 4),
   (r.cmpl == 2 && decide (e.spmSize ≤ 64 * (t % 65536)), 4, 4),
   (r.next % 64 != 0 || decide (e.spmSize ≤ r.next), 8, 5)]

/-- What is wrong with a descriptor at its start, the first of the checks in the order of Table 9-2 by kind (R271). -/
def DescRun.startFault (e : Env) (r : DescRun) : Option (BitVec 8 × BitVec 4) :=
  ((r.reservedChecks ++ r.formChecks ++ r.targetChecks e).find? (fun x => x.1)).map (fun x => x.2)

/-! ### Places -/

/-- Where a transfer of one granule goes or comes from. -/
inductive Place
  | own (off : Nat)
  | pkg (core : CoreId) (off : Nat)
  | ext (addr : Nat)
  | code (addr : Nat)
  | link (mod : ModuleId) (pkg : Bool) (addr : Nat)
  | bad (code : BitVec 8)
  deriving DecidableEq, Repr

/-- Bytes `a` to `a + n − 1` lie in one window of the job that permits the access (R279). -/
def Job.windowed (j : Job) (a n : Nat) (write : Bool) : Bool :=
  j.wins.any (fun w => winCovers w a n && (!write || w.write))

/-- An offset of the core's own scratchpad. -/
def ownPlace (e : Env) (off n : Nat) : Place := if off + n ≤ e.spmSize then .own off else .bad 4

/-- The place of `n` bytes at an address of a space (Table 9-3, R271). -/
def placeOf (e : Env) (space addr n : Nat) (write : Bool) : Place :=
  match space with
  | 0 => ownPlace e addr n
  | 1 =>
    if 2 ^ 35 ≤ addr then .bad 4
    else
      let core : CoreId := BitVec.ofNat 13 (addr / 2 ^ 22)
      let off := addr % 2 ^ 22
      if core = e.id then ownPlace e off n
      else if !e.assigned core then .bad 6
      else if off + n ≤ e.spmSize then .pkg core off else .bad 4
  | 2 =>
    match e.job with
    | some j => if j.windowed addr n write then .ext addr else .bad 5
    | none => .bad 5
  | _ =>
    if strayBits 3 addr then .bad 1
    else .link (BitVec.ofNat 13 (addr / 2 ^ 40)) (addr.testBit 63) (addr % 2 ^ 40)

/-- The destination place; that of CODELOAD is a code address (R283, R284). -/
def DescRun.dstPlace (e : Env) (r : DescRun) (addr n : Nat) : Place :=
  if r.op = 4 then
    match e.job with
    | some j => if addr + n ≤ j.codeSize then .code (j.codeBase + addr) else .bad 7
    | none => .bad 7
  else placeOf e r.dsp addr n true

/-! ### Rows and granules -/

/-- Element `i` of the index list, read now: its value, or the fault it is (R261, R271). -/
def DescRun.index (e : Env) (m : Spm) (r : DescRun) (i : Nat) : Int ⊕ (BitVec 8 × BitVec 4) :=
  let n := if (r.word 1).testBit 4 then 4 else 2
  let a := r.f 12 0 22 + n * i
  if e.spmSize < a + n then .inr (4, 3)
  else if poisoned m.poison a n then .inr (0x8A, 3)
  else .inl (signed (8 * n) (m.read a n))

/-- An address moved by a signed distance, modulo 2^64. -/
def addrPlus (a : Nat) (d : Int) : Nat := toBits 64 ((a : Int) + d)

/-- The bytes of the index list that the row under the cursor begins with, when it begins now. -/
def DescRun.indexRange (r : DescRun) : List (Nat × Nat) :=
  if r.indexed && r.cur.row.isNone then
    let n := if (r.word 1).testBit 4 then 4 else 2
    [(r.f 12 0 22 + n * r.cur.i1, n)]
  else []

/-- The source and destination addresses of the row under the cursor, whose index is read now (R261). -/
def DescRun.newRow (e : Env) (m : Spm) (r : DescRun) : (Nat × Nat) ⊕ (BitVec 8 × BitVec 4) :=
  let i1 : Int := r.cur.i1
  let i2 : Int := r.cur.i2
  match r.op with
  | 2 =>
    match r.index e m r.cur.i1 with
    | .inl x => .inl (addrPlus r.srcAddr (x * r.stride 8), addrPlus r.dstAddr (i1 * r.stride 10))
    | .inr f => .inr f
  | 3 =>
    match r.index e m r.cur.i1 with
    | .inl x => .inl (addrPlus r.srcAddr (i1 * r.stride 8), addrPlus r.dstAddr (x * r.stride 10))
    | .inr f => .inr f
  | _ => .inl (addrPlus r.srcAddr (i1 * r.stride 8 + i2 * r.stride 9), addrPlus r.dstAddr (i1 * r.stride 10 + i2 * r.stride 11))

/-- The addresses of the row under the cursor: an index is read once, when its row begins (R261). -/
def DescRun.row (e : Env) (m : Spm) (r : DescRun) : (Nat × Nat) ⊕ (BitVec 8 × BitVec 4) :=
  match r.cur.row with
  | some x => .inl x
  | none => r.newRow e m

/-- The bytes that the next granule of a row carries: it crosses no 64-B boundary of the destination (R265). -/
def DescRun.pieceLen (r : DescRun) (dst : Nat) : Nat := min (64 - dst % 64) (r.dstRow - r.cur.off)

/-- A span cut where it crosses a boundary of `b` bytes. -/
def cutSpan (b : Nat) (a n : Nat) : List (Nat × Nat) :=
  if n = 0 then []
  else (List.range ((a + n - 1) / b + 1 - a / b)).map (fun i =>
    let lo := max a (b * (a / b + i))
    (lo, min (a + n) (b * (a / b + i + 1)) - lo))

/-- The cursor moved past `n` bytes of its row at the addresses `x`: the next row in the order of R261, or `none` after the
last. -/
def DescRun.advance (r : DescRun) (x : Nat × Nat) (n : Nat) : Option Cursor :=
  if r.cur.off + n < r.dstRow then some { r.cur with off := r.cur.off + n, row := some x }
  else if r.cur.i1 + 1 < r.rows1 then some { r.cur with i1 := r.cur.i1 + 1, off := 0, row := none }
  else if r.cur.i2 + 1 < r.rows2 then some { i2 := r.cur.i2 + 1, i1 := 0, off := 0, row := none }
  else none

/-! ### Data -/

/-- One element's sum of a reduction (R264). -/
def reduceElem (t : Ty) (a b : Nat) : Nat :=
  match t with
  | .f32 => (add32 a b).1
  | .h16 => (toShort .h16 (add32 (toB32 .h16 a 0).1 (toB32 .h16 b 0).1).1 0 none).1
  | _ => (a + b) % 2 ^ 32

/-- The old bytes of a granule with the incoming ones added, element by element (R233, R264). -/
def reduceBytes (t : Ty) (old new : List Byte) : List Byte :=
  let n := t.width / 8
  (List.range (new.length / n)).flatMap (fun i =>
    leBytes n (reduceElem t (leNat ((old.drop (n * i)).take n)) (leNat ((new.drop (n * i)).take n))))

/-- Elements of a granule through the queue's stream, in order: the stream, the code of all of them, and the flags. -/
def convertElems (st dt : Ty) (sin sout : Byte) : List Nat → Stream → Nat → Nat × Stream × Flags
  | [], s, _ => (0, s, 0)
  | x :: xs, s, i =>
    let y := s.feed st dt x sin sout
    let z := convertElems st dt sin sout xs y.1 (i + 1)
    (y.2.1 * 2 ^ (i * dt.width) + z.1, z.2.1, y.2.2 ||| z.2.2)

/-- The words of a granule's destination that take an element one of whose source words is poison, where the source begins at
address `a`: counted from the word that holds the granule's first byte (R409). -/
def DescRun.convPoison (r : DescRun) (g : Granule) (a : Nat) (poison : NatSet) : NatSet :=
  let x := r.elems g.off g.len
  let b := (r.srcBytes g.off g.len).1
  ninsAll [] ((List.range x.2).flatMap (fun i =>
    let word (at_ base w k : Nat) : Nat := (at_ % 8 + ((x.1 + i) * w + k) / 8 - base) / 8
    let s := r.widths.1
    let d := r.widths.2
    if nhas poison (word a b s 0) || nhas poison (word a b s (s - 1)) then
      [word g.dst g.off d 0, min (word g.dst g.off d (d - 1)) ((g.dst % 8 + g.len - 1) / 8)]
    else []))

/-- What a granule writes of what it read: converted bytes, the bytes that the next granule of the row begins with, the
stream and the flags (R263). -/
def DescRun.convert (r : DescRun) (g : Granule) (src : List Byte) (s : Stream) : List Byte × List Byte × Stream × Flags :=
  match r.cvt, r.sty, r.dty with
  | true, some st, some dt =>
    let x := r.elems g.off g.len
    let raw := leNat src / 2 ^ (x.1 * st.width % 8)
    let codes := (List.range x.2).map (fun i => bitsAt raw (i * st.width) st.width)
    let y := convertElems st dt (BitVec.ofNat 8 (r.f 1 16 8)) (BitVec.ofNat 8 (r.f 1 8 8)) codes s 0
    let all := r.carry ++ leBytes (ceilDiv (x.2 * dt.width) 8) y.1
    (all.take g.len, all.drop g.len, y.2.1, y.2.2)
  | _, _, _ => (src, [], s, 0)

end Sys2Proof.Machine
end

