-- ==== Sys2Proof/Machine/HbmOps.lean ====
section
/-! DEFINITION. External memory as every source of the module reads and writes it: poison, failed pseudo-channels, and
what a write to a mirrored share does first (R277, R282, R385 to R389). -/

namespace Sys2Proof.Machine

/-! ### Sets of shares -/

/-- A share belongs to the set. -/
def ShareSet.has (x : ShareSet) (k : Nat) : Bool := x.all != nhas x.except k

/-- The set with a share. -/
def ShareSet.add (x : ShareSet) (k : Nat) : ShareSet :=
  { x with except := if x.all then ndel x.except k else nins x.except k }

/-- The set without a share. -/
def ShareSet.drop (x : ShareSet) (k : Nat) : ShareSet :=
  { x with except := if x.all then nins x.except k else ndel x.except k }

/-- How many shares of `n` the set has. -/
def ShareSet.count (x : ShareSet) (n : Nat) : Nat :=
  let k := (x.except.filter (fun i => decide (i < n))).length
  if x.all then n - k else k

/-- The set has no share of `n`. -/
def ShareSet.isNone (x : ShareSet) (n : Nat) : Bool := x.count n == 0

/-- The first number from `k` on, in steps of 8, that a rising list does not hold, where the list has at most `fuel`
members. -/
def firstOut (l : NatSet) : Nat → Nat → Nat
  | 0, k => k
  | fuel + 1, k => if nhas l k then firstOut l fuel (k + 8) else k

/-- The first share of E-die `e` from `k` on that the set has, among the first `n`. -/
def ShareSet.first (x : ShareSet) (e k n : Nat) : Option Nat :=
  let k := k + (e + 8 - k % 8) % 8
  if x.all then
    let i := firstOut x.except (x.except.length + 1) k
    if i < n then some i else none
  else x.except.find? (fun i => decide (k ≤ i ∧ i % 8 = e ∧ i < n))

/-! ### Mirrored regions -/

/-- Bytes of a list of regions. -/
def regionBytes (rs : List Range) : Nat := (rs.map (fun r => r.limit.toNat - r.base.toNat)).sum

/-- The mirror offset of an external address (R384). -/
def mirrorOffset : List Range → Nat → Option Nat
  | [], _ => none
  | r :: rs, a =>
    if r.base.toNat ≤ a ∧ a < r.limit.toNat then some (a - r.base.toNat)
    else (mirrorOffset rs a).map (fun o => o + (r.limit.toNat - r.base.toNat))

/-- The external address of a mirror offset. -/
def mirrorAddr : List Range → Nat → Nat
  | [], o => o
  | r :: rs, o =>
    let n := r.limit.toNat - r.base.toNat
    if o < n then r.base.toNat + o else mirrorAddr rs (o - n)

/-- The mirrored regions of the module (R384). -/
def Flask.regions (f : Flask) : List Range := match f.decl with | some d => d.regions | none => []

/-- How many shares of 512 bytes they have (R385). -/
def Flask.shares (f : Flask) : Nat := regionBytes f.regions / 512

/-- The mirrored shares that bytes `a` to `a + n − 1` touch. -/
def Flask.touched (f : Flask) (a n : Nat) : List Nat :=
  if n = 0 then []
  else ((List.range ((a + n - 1) / 512 + 1 - a / 512)).map (fun i => max a (512 * (a / 512 + i)))).filterMap (fun x =>
    (mirrorOffset f.regions x).map (fun o => o / 512))

/-- Slots of the rollback area, and of the undo area, in each E-die (R388, R391). -/
def FlaskBind.slots (b : FlaskBind) : Nat := b.undo.toNat * 16

/-- The address of a slot of an area at `base`, for E-die `e`. -/
def slotAddr (base : BitVec 24) (e slot : Nat) : Nat := base.toNat * 65536 + 4096 * slot + 512 * e

/-- The copy of a share of a generation. -/
def Flask.copyOf (f : Flask) (share gen : Nat) : Option RbCopy :=
  f.rb.find? (fun c => decide (c.share = share ∧ c.gen = gen))

/-- The lowest number that a list does not hold, below `n`. -/
def lowestFree (used : List Nat) (n : Nat) : Option Nat :=
  let k := (List.range (used.length + 1)).find? (fun i => !used.any (fun x => x == i))
  match k with
  | some i => if i < n then some i else none
  | none => none

/-- A free slot of the rollback area for a share. -/
def State.rbFree (s : State) (share : Nat) : Option Nat :=
  lowestFree ((s.flask.rb.filter (fun c => decide (c.share % 8 = share % 8))).map (fun c => c.slot)) s.active.bind.slots

/-- A pour has its boundary and waits for its commit. -/
def Flask.commitPending (f : Flask) : Bool := decide (f.committed ≠ f.interval)

/-- The first write to a share since the last boundary is to be preceded by its copy (R388): while the restore point is not lost
(R389), or a pour is in progress whose commit sets the next one. -/
def State.needsCopy (s : State) (share : Nat) : Bool :=
  decide (s.flask.interval ≠ 0) && (s.flask.prot != 1 || s.flask.commitPending) &&
    (s.flask.copyOf share s.flask.interval.toNat).isNone

/-! ### Reading and writing -/

/-- The pseudo-channel of an external address, and the line within it (Table 9-11). -/
def pchOf (a : Nat) : Nat := a / 256 % 1024
def pchLine (a : Nat) : Nat := a / 2 ^ 18

/-- The pseudo-channel and the line that store an external address: those of Table 9-11, but a line of the retired
pseudo-channel lies in another (R281). -/
def State.pchAt (s : State) (a : Nat) : Nat × Nat :=
  match s.board.pchRetired with
  | none => (pchOf a, pchLine a)
  | some x =>
    let k := pchLine a / 4096
    if pchOf a = x.toNat ∧ k ≠ 0x3FF then (if k < x.toNat then k else k + 1, 0x3FF * 4096 + pchLine a % 4096)
    else (pchOf a, pchLine a)

/-- A record of the HBM controller that stores an external address: its E-die and its stack (R277, Table 17-3). -/
def State.hbmEvent (s : State) (sev : BitVec 2) (cause : BitVec 16) (a : Nat) : Event :=
  let stack := (s.pchAt a).1 % 16
  { mpEvent sev cause [] with die := 32 + stack / 2, unit := 10, pos := stack, addr := BitVec.ofNat 64 a }

/-- What a read of external memory carries onward: a failed pseudo-channel returns poison (R277, R282). -/
def State.hbmGet (s : State) (a n : Nat) : Payload :=
  let x := payloadOf s.hbm.mem s.hbm.poison a n
  if s.board.pchFailed.isEmpty then x
  else
    let bad := (wordsOf a n).filter (fun k => nhas s.board.pchFailed (s.pchAt (8 * k)).1)
    { x with poison := ninsAll x.poison (bad.map (fun k => k - a / 8)) }

/-! ### Candidates and findings -/

/-- A pseudo-channel becomes a retirement candidate: the first waits for the time at which it may be retired, a second makes
the module need return (R281, R282). [DEDUCED: log entry 45] -/
def State.channelCandidate (s : State) (p : BitVec 10) : State :=
  let b := s.board
  let x (sev : BitVec 2) : Event := s.hbmEvent sev 0x0204 (256 * p.toNat)
  if b.pchCand = some p ∨ b.pchRetired = some p then s
  else if b.pchCand.isSome ∨ b.pchRetired.isSome then
    ({ s with mp := { s.mp with needRet := true } } : State).log (x 3)
  else
    let s := { s with board := { b with pchCand := some p } }
    if s.active.bind.en then s.log (x 1) else s

/-- The ledger entry of the DRAM row that stores an external address (R280, R281). -/
def State.rowOf (s : State) (a : Nat) : RepairEntry :=
  let x := s.pchAt a
  .hbm (Fin.ofNat 16 x.1) (BitVec.ofNat 6 (x.1 / 16)) (Config.hbmBank x.2) (Config.hbmRow x.2)

/-- The row that stores an external address becomes a repair candidate, unless its repair is pending already: the controller
reports it, and the MP's ledger names it; one in a bank without a spare row makes its pseudo-channel a candidate (R280). -/
def State.rowCandidate (s : State) (a : Nat) : State :=
  let e := s.rowOf a
  let listed := s.mp.repairs.any (fun x => x == e)
  if listed ∧ ¬ s.hbm.repaired.any (fun x => x == e) then s
  else
    let p := (s.pchAt a).1
    let s := s.log (s.hbmEvent 1 0x0203 a)
    let short := Config.noSpareRow s.fresh
    let s := { s with
      fresh := s.fresh + 1
      mp := { s.mp with repairs := if listed then s.mp.repairs else s.mp.repairs ++ [e] }
      hbm := { s.hbm with repaired := s.hbm.repaired.filter (fun x => x != e) } }
    if short then s.channelCandidate (BitVec.ofNat 10 p) else s

/-- Hard post-package repair of every row that the ledger names, at a module reset or before the wipe of all external memory
(R280): a repaired row starts without a count. -/
def State.applyHbmRepairs (s : State) : State :=
  let es := s.mp.repairs.filter (fun e => match e with | .hbm .. => true | .scratchpad .. => false)
  let new := es.filter (fun e => !s.hbm.repaired.any (fun x => x == e))
  { s with hbm := { s.hbm with
      repaired := s.hbm.repaired ++ new
      corr := s.hbm.corr.filter (fun x => !new.any (fun e => e == s.rowOf (8 * (x.1 / 128)))) } }

/-- A word that the controller corrected (R277): written back and posted; the fourth correction of one bit within 24 hours makes
its row a candidate. -/
def State.hbmCorrected (s : State) (a : Nat) (bit : Nat) : State :=
  let s := s.log (s.hbmEvent 0 0x0201 a)
  let key := 128 * (a / 8) + bit
  let ts := (s.now :: tget s.hbm.corr [] key).filter (fun t => decide (s.now < t + 86400 * 10 ^ 9))
  let s := { s with hbm := { s.hbm with corr := tset s.hbm.corr key ts } }
  if 4 ≤ ts.length then s.rowCandidate a else s

/-- A word that no code can correct (R277): it is poison from now on, and its row a candidate. -/
def State.hbmUncorrectable (s : State) (a : Nat) : State :=
  let s := s.log (s.hbmEvent 1 0x0202 a)
  let s := { s with hbm := { s.hbm with poison := nins s.hbm.poison (a / 8) } }
  s.rowCandidate a

/-- What the controller finds when it reads `n` bytes at an external address: words are counted from the one that holds the
first byte, and a finding in a word that the read does not touch is none (R277). -/
def State.hbmMeet (s : State) (a n : Nat) : HbmFinding → State
  | .clean => s
  | .corrected w bit =>
    let x := 8 * (a / 8 + w.val)
    if a + n ≤ x ∨ 72 ≤ bit.toNat then s else s.hbmCorrected x bit.toNat
  | .uncorrectable w =>
    let x := 8 * (a / 8 + w.val)
    if a + n ≤ x then s else s.hbmUncorrectable x

/-- A read of external memory that meets what it finds: the state after it, and what it carries onward (R277). -/
def State.hbmRead (s : State) (a n : Nat) (f : HbmFinding) : State × Payload :=
  let s := s.hbmMeet a n f
  (s, s.hbmGet a n)

/-- A write of external memory, with its poison, and nothing else. -/
def State.hbmPut (s : State) (a : Nat) (x : Payload) : State :=
  { s with hbm := { s.hbm with mem := memWriteN s.hbm.mem a x.bytes, poison := poisonPut s.hbm.poison a x } }

/-- Copy-before-write of one share (R388, R389). Where no slot is free and no commit is pending, the restore point is
lost. -/
def State.copyShare (s : State) (share : Nat) (ext : HbmFinding := .clean) : State :=
  if !s.needsCopy share then s
  else
    let f := s.flask
    match s.rbFree share with
    | some k =>
      let (s, x) := s.hbmRead (mirrorAddr f.regions (512 * share)) 512 ext
      let s := s.hbmPut (slotAddr s.active.bind.rbArea (share % 8) k) x
      { s with flask := { f with rb := f.rb ++ [{ share := share, gen := f.interval.toNat, slot := k }]
                                 copies := if f.copies = 0xFFFFFFFF then f.copies else f.copies + 1 } }
    | none =>
      if f.commitPending then s
      else ({ s with flask := { f with prot := 1 } } : State).log
        { mpEvent 1 0x0501 [] with unit := 13, job := f.job.getD 0 }

/-- A write would wait for a commit to free the rollback area (R389). -/
def State.hbmBlocked (s : State) (a n : Nat) : Bool :=
  (s.flask.touched a n).any (fun k => s.needsCopy k && (s.rbFree k).isNone && s.flask.commitPending)

/-- A write that external memory performs (R386 to R388): the shares it touches are copied where they must be, become
dirty, and the bytes are written. -/
def State.hbmWrite (s : State) (a : Nat) (x : Payload) : State :=
  let ks := s.flask.touched a x.bytes.length
  let s := ks.foldl (fun s k => s.copyShare k) s
  let s := { s with flask := { s.flask with dirty := ks.foldl ShareSet.add s.flask.dirty } }
  s.hbmPut a x

/-- The first address beyond external memory (R281). -/
def State.hbmLimit (s : State) : Nat := if s.board.pchRetired.isSome then 0xFFC0000000 else 2 ^ 40

end Sys2Proof.Machine
end

