-- ==== Sys2Proof/Machine/VecForm.lean ====
section
/-! DEFINITION. The encoding and the addresses of VE instructions (R124 to R137, R154, R155). -/

namespace Sys2Proof.Machine

/-- LEN of an opcode is 0b01 (Table 5-7). -/
def VeOpc.extended : VeOpc → Bool
  | .vadd | .vsub | .vmul | .vfma | .vmin | .vmax | .vmerge | .vfdiv | .vfsqrt => false
  | _ => true

/-- A memory form, VBCAST or VEXT. -/
def VeOpc.isMem : VeOpc → Bool
  | .vld | .vst | .vldsr | .vstsr | .vlds2 | .vlds3 | .vlds4 | .vsts2 | .vsts3 | .vsts4 | .vmld | .vmst | .vbcast
  | .vext => true
  | _ => false

/-- A memory form that writes registers. -/
def VeOpc.isLoad : VeOpc → Bool
  | .vld | .vldsr | .vlds2 | .vlds3 | .vlds4 | .vmld | .vbcast => true
  | _ => false

/-- The fields of a structure form, 1 for any other (R140). -/
def VeOpc.fields : VeOpc → Nat
  | .vlds2 | .vsts2 => 2
  | .vlds3 | .vsts3 => 3
  | .vlds4 | .vsts4 => 4
  | _ => 1

/-- A strided form. -/
def VeOpc.strided (o : VeOpc) : Bool := o == .vldsr || o == .vstsr

/-- A structure form. -/
def VeOpc.struct (o : VeOpc) : Bool := o.fields != 1

/-- VMLD or VMST. -/
def VeOpc.maskMove (o : VeOpc) : Bool := o == .vmld || o == .vmst

/-- The types of Table 5-7, given FN of word 1. -/
def VeOpc.takes (o : VeOpc) (fn : Nat) (t : Ty) : Bool :=
  match o with
  | .vld | .vst | .vbcast | .vext | .vmovi | .vmerge | .vslide => true
  | .vldsr | .vstsr | .vlds2 | .vlds3 | .vlds4 | .vsts2 | .vsts3 | .vsts4 => decide (8 ≤ t.width)
  | .vmld | .vmst | .vmop => t == .i4
  | .vadd | .vsub | .vmul => (t.isInt && t != .i4) || t == .f32
  | .vfma | .vfdiv | .vfsqrt => t == .f32
  | .vmin | .vmax => t != .i4
  | .vbit => t.isInt && (decide (fn < 4) || t != .i4)
  | .vcmp => t != .i4 && t != .h4
  | .vred => t != .i4 && !(fn == 0 && t.isShort)
  | .vwmul => t == .i8 || t == .h8p || t == .h8r
  | .vdot => t == .i8 || t == .h4 || t == .h8p || t == .h8r || t == .h16
  | .vcvt => t != .i16 && t != .i32

/-- The bits of word 1 that Table 5-6 lists for an opcode. -/
def VeOpc.extBits (o : VeOpc) : Nat :=
  match o with
  | .vldsr | .vstsr => 0xFE3FFFFF
  | .vmovi => 0xFFFFFFFF
  | .vbit | .vcmp | .vred | .vmop => 0xE0000000
  | .vslide => 0x0000FFFF
  | .vwmul | .vdot => 0xFFC00000
  | .vcvt => 0xFFF0FFFF
  | _ => if o.isMem then 0xE23FFFFF else 0

/-- How an instruction uses a register field. -/
inductive FieldUse | none | group | mask
  deriving DecidableEq, Repr

/-- The use of VD, VA and VB (Table 5-7, R557, R143). -/
def VeOpc.uses (o : VeOpc) (fn : Nat) : FieldUse × FieldUse × FieldUse :=
  match o with
  | .vmld => (.mask, .none, .none)
  | .vmst => (.none, .mask, .none)
  | .vmovi => (.group, .none, .none)
  | .vslide | .vred | .vcvt | .vfsqrt => (.group, .group, .none)
  | .vcmp => (.mask, .group, .group)
  | .vmop => (.mask, if fn = 5 then .none else .mask, if fn < 4 then .mask else .none)
  | _ => if o.isMem then (if o.isLoad then (.group, .none, .none) else (.none, .group, .none)) else (.group, .group, .group)

/-- A register field breaks its rule: a group that does not begin at a multiple of G or whose last field lies above
V31 (R124, R140), a mask above M7, or a field the instruction does not use that is not 0 (R134). -/
def badField (g fields : Nat) (u : FieldUse) (r : BitVec 5) : Bool :=
  match u with
  | .none => r != 0
  | .mask => decide (8 ≤ r.toNat)
  | .group => r.toNat % g != 0 || decide (32 < r.toNat + fields * g)

/-- Single register `vs` lies inside the group of VD. -/
def insideGroup (g : Nat) (vd : BitVec 5) (vs : Nat) : Bool := decide (vd.toNat ≤ vs ∧ vs < vd.toNat + g)

/-- DTY and BTY. -/
def dtyCode (o : VeOpc) (w : VeWord) : Nat := if o = .vwmul then bitsAt w.ext.toNat 28 4 else bitsAt w.ext.toNat 27 4
def btyCode (w : VeWord) : Nat := bitsAt w.ext.toNat 22 4

/-- H8p or H8r. -/
def Ty.isH8 (t : Ty) : Bool := t == .h8p || t == .h8r

/-- The conditions of one opcode (R143 to R151), each with the operand it names. -/
def VeOpc.ownBad (o : VeOpc) (g : Nat) (t : Ty) (w : VeWord) : List (Bool × BitVec 4) :=
  let e := w.ext.toNat
  let fn := bitsAt e 29 3
  match o with
  | .vbit => [(fn == 7, 0)]
  | .vcmp => [(fn == 7 || ((fn == 4 || fn == 5) && !t.isInt) || (fn == 6 && t.isInt), 0)]
  | .vred => [(decide (2 < fn), 0)]
  | .vmop => [(decide (5 < fn), 0)]
  | .vmerge => [(w.msk == 0, 4)]
  | .vslide => [(w.vd == w.va, 1)]
  | .vwmul =>
    let d := Ty.ofCode (dtyCode o w)
    let b := Ty.ofCode (btyCode w)
    [(if t = .i8 then decide (b ≠ some .i8) else decide (b ≠ some .h8p ∧ b ≠ some .h8r), 3),
     (if t = .i8 then decide (d ≠ some .i16 ∧ d ≠ some .i32) else decide (d ≠ some .f32), 1),
     (decide ((d.getD .i8).width ≤ 8 * bitsAt e 26 2), 0)]
  | .vdot =>
    let b := Ty.ofCode (btyCode w)
    let sc := e.testBit 31
    let vs := bitsAt e 26 5
    [(decide (b ≠ some t) && !(t.isH8 && (b == some .h8p || b == some .h8r)), 3), (sc && t == .i8, 0),
     (if sc then insideGroup g w.vd vs else vs != 0, 5)]
  | .vcvt =>
    let d := Ty.ofCode (dtyCode o w)
    let scm := bitsAt e 25 2
    let vs := bitsAt e 20 5
    [(decide (d = none ∨ d = some t ∨ d = some .i16 ∨ d = some .i32), 1), (scm == 3, 0),
     (if scm = 2 then insideGroup g w.vd vs else vs != 0, 5)]
  | _ => []

/-- Every reason for ILLEGAL_INSN (R134), with the operand OPID names (Table 5-12). [DEDUCED: log entry 27] -/
def VeOpc.bad (o : VeOpc) (log : Nat) (w : VeWord) : List (Bool × BitVec 4) :=
  let g := 2 ^ log
  let e := w.ext.toNat
  let fn := bitsAt e 29 3
  let u := o.uses fn
  match Ty.ofCode w.ty.toNat with
  | none => [(w.len != (if o.extended then 1 else 0), 0), (true, 2)]
  | some t =>
    [(w.len != (if o.extended then 1 else 0), 0), (!o.takes fn t, 2), (o.extended && e &&& (0xFFFFFFFF - o.extBits) != 0, 0),
     (if o == .vmop || o.maskMove then w.msk != 0 else decide (w.msk ≠ 0 ∧ w.msk.toNat < 8), 4),
     (badField g (if o.isLoad then o.fields else 1) u.1 w.vd, 1), (badField g (if o.isLoad then 1 else o.fields) u.2.1 w.va, 2),
     (badField g 1 u.2.2 w.vb, 3)] ++ o.ownBad g t w

/-- The first of a list of reasons that holds. [DESIGN CHOICE: log entry 121] -/
def firstBad : List (Bool × BitVec 4) → Option (BitVec 4)
  | [] => none
  | (b, n) :: l => if b then some n else firstBad l

/-! ### An operation -/

/-- TY; of a legal instruction it is a type. -/
def VeOp.ty (o : VeOp) : Ty := (Ty.ofCode o.w.ty.toNat).getD .i4
/-- DTY and BTY. -/
def VeOp.dty (o : VeOp) : Ty := (Ty.ofCode (dtyCode o.opc o.w)).getD .i4
def VeOp.bty (o : VeOp) : Ty := (Ty.ofCode (btyCode o.w)).getD .i4
/-- FN or COND. -/
def VeOp.fn (o : VeOp) : Nat := bitsAt o.w.ext.toNat 29 3
/-- G (R124). -/
def VeOp.group (o : VeOp) : Nat := 2 ^ o.log

/-- Width of the widest vector register operand (R126). -/
def VeOp.wmax (o : VeOp) : Nat :=
  match o.opc with
  | .vwmul | .vcvt => max o.ty.width o.dty.width
  | .vdot => 32
  | _ => o.ty.width

/-- The effective length (R126). -/
def VeOp.len (o : VeOp) : Nat := min o.vlen (min 2048 (o.group * 8192 / o.wmax))

/-- The elements whose scratchpad bytes an instruction may touch: VEXT ignores VLEN (R142). -/
def VeOp.count (o : VeOp) : Nat :=
  match o.opc with
  | .vext => 1
  | .vbcast => min o.len 1
  | _ => o.len

/-- The element size in bytes; a 4-bit element counts its byte. -/
def VeOp.size (o : VeOp) : Nat := max 1 (o.ty.width / 8)

/-- The address of field `f` of element `i`, modulo 2^32 (Table 5-8). -/
def VeOp.addr (o : VeOp) (i f : Nat) : Nat :=
  let off : Int :=
    if o.opc.strided then (i : Int) * o.stride
    else if o.ty.width = 4 then (i / 2 : Nat)
    else (((o.opc.fields * i + f) * o.size : Nat) : Int)
  toBits 32 ((o.x : Int) + off)

/-- The scratchpad ranges of a memory form, in element order (R137). -/
def VeOp.touches (o : VeOp) : List (Nat × Nat) :=
  if o.opc.maskMove then (List.range 256).map (fun j => (toBits 32 ((o.x : Int) + (j : Int)), 1))
  else if o.opc.isMem then
    (List.range o.count).flatMap (fun i => (List.range o.opc.fields).map (fun f => (o.addr i f, o.size)))
  else []

/-- The multiple that X must be (Table 5-8). -/
def VeOp.align (o : VeOp) : Nat := if o.opc.maskMove then 8 else o.size

/-- The exceptions of a memory form at issue: ALIGN of X, then of the stride, SPM_BOUND of the first element outside,
and RESTRICTED_OP (R137, R155). -/
def VeOp.excs (e : Env) (restr : Bool) (o : VeOp) : List Exc :=
  let t := o.touches
  (if t.isEmpty then []
   else
    (if o.x % o.align = 0 then [] else [exc 0x02 6 1 o.x]) ++
    (if o.opc.strided && o.stride % (o.size : Int) != 0 then [exc 0x02 7 1 (toBits 32 o.stride)] else []) ++
    (match t.find? (fun p => decide (e.spmSize < p.1 + p.2)) with
     | some p => [exc 0x03 6 1 p.1]
     | none => [])) ++
  (if restr && (o.opc.strided || o.opc.struct) then [exc 0x08 6 1 0] else [])

/-- The footprint: from the lowest to the highest byte (R236). -/
def VeOp.footprint (o : VeOp) : List (Nat × Nat) :=
  match o.touches with
  | [] => []
  | p :: l =>
    let lo := l.foldl (fun m q => min m q.1) p.1
    let hi := l.foldl (fun m q => max m (q.1 + q.2)) (p.1 + p.2)
    [(lo, hi - lo)]

/-- What BASE is incremented by (R137). -/
def VeOp.increment (o : VeOp) : Int :=
  if !o.w.ext.getLsbD 25 || o.touches.isEmpty then 0
  else if o.opc.maskMove then 256
  else if o.opc.strided then (o.len : Int) * o.stride
  else match o.opc with
    | .vbcast | .vext => (o.size : Int)
    | _ => if o.ty.width = 4 then (((o.len + 1) / 2 : Nat) : Int) else ((o.len * o.opc.fields * o.size : Nat) : Int)

/-- An address register by a field of three bits. -/
def aRegAt (r : Regs) (x lo : Nat) : Word := r.a[Fin.ofNat 8 (bitsAt x lo 3)]

/-- The operation an instruction becomes at issue (R126, R136). -/
def veOp (c : Core) (t : Fin 4) (opc : VeOpc) (w : VeWord) : VeOp :=
  let r := (c.th t).r
  let e := w.ext.toNat
  { opc := opc, w := w, thread := t, seq := c.seq, vlen := c.ve.vlen.toNat, log := c.ve.log.toNat,
    x := (aRegAt r e 29 + BitVec.ofInt 32 (signed 22 e)).toNat, stride := (aRegAt r e 26).toInt }

/-- BASE is incremented (R75, R137). -/
def Core.incBase (t : Fin 4) (ext : Nat) (by_ : Int) (c : Core) : Core :=
  let i : Fin 8 := Fin.ofNat 8 (bitsAt ext 29 3)
  c.mapR t (fun r => { r with a := r.a.set i (r.a[i] + BitVec.ofInt 32 by_) })

/-- The wake of the VE begins, in retention and not yet begun (R158). -/
def Ve.wake (v : Ve) : Ve := if v.ret then { v with waking := true } else v

end Sys2Proof.Machine
end

