-- ==== Sys2Proof/Machine/MatForm.lean ====
section
/-! DEFINITION. The encoding, the streams, and the checks of ME instructions (R160 to R169, R173, R195). -/

namespace Sys2Proof.Machine

/-- LEN of Table 6-5. -/
def MeOpc.len : MeOpc → BitVec 2
  | .tld | .tst | .tlds | .tsts => 1
  | .tzero | .trelease | .tmma => 0
  | .tmmas | .gmv => 2

/-- The pipe of Table 6-5. -/
def MeOpc.pipe : MeOpc → MePipe
  | .tld | .tst | .tlds | .tsts | .tzero | .trelease => .move
  | .tmma | .tmmas => .array
  | .gmv => .gemv

/-- A tile's format, when it is one of Table 6-2. -/
def Tcfg.ty (g : Tcfg) : Option Ty :=
  match Ty.ofCode g.fmt.toNat with
  | some .i16 | some .i32 => none
  | t => t

/-- A format the array takes as an operand (Table 6-2). -/
def Ty.isOperand (t : Ty) : Bool := t == .i4 || t == .i8 || t.isShort

/-- ROWS, COLS, RB, NB (R161, R163). -/
def Tcfg.rows (g : Tcfg) : Nat := g.rowm1.toNat + 1
def Tcfg.cols (g : Tcfg) : Nat := g.colm1.toNat + 1
def Tcfg.rowBytes (g : Tcfg) : Nat := ceilDiv (g.cols * (g.ty.getD .i8).width) 8
def Tcfg.blocks (g : Tcfg) : Nat := ceilDiv g.cols 32

/-- Two formats that may meet in the array: equal, or H8p and H8r. -/
def pairable (a b : Option Ty) : Bool :=
  match a, b with
  | some x, some y => x == y || (x.isH8 && y.isH8)
  | _, _ => false

/-- Fields of an operation (Tables 6-3 and 6-4). -/
def MeOp.low (o : MeOp) : Nat := o.w.low.toNat
def MeOp.tileAt (o : MeOp) (lo : Nat) : Fin 8 := Fin.ofNat 8 (bitsAt o.low lo 3)
/-- T of a move, TD of a TMMA. -/
def MeOp.t (o : MeOp) : Fin 8 := o.tileAt 20
/-- TD, TA and TB of the array. -/
def MeOp.td (o : MeOp) : Fin 8 := if o.opc = .tmmas then o.tileAt 14 else o.tileAt 20
def MeOp.ta (o : MeOp) : Fin 8 := o.tileAt 17
def MeOp.tb (o : MeOp) : Fin 8 := if o.opc = .tmmas then o.tileAt 11 else o.tileAt 14
/-- DRN of TMMAS. -/
def MeOp.drain (o : MeOp) : Bool := o.opc == .tmmas && o.low.testBit 18
/-- SC. -/
def MeOp.sc (o : MeOp) : Bool := if o.opc = .gmv then o.low.testBit 18 else o.low.testBit 17
/-- TY. -/
def MeOp.ty (o : MeOp) : Ty := (Ty.ofCode (bitsAt o.low 19 4)).getD .i8
/-- The format of x (R188). -/
def MeOp.xty (o : MeOp) : Ty :=
  if o.low.testBit 17 then (if o.ty = .h8p then .h8r else .h8p) else o.ty
/-- VD, VX, VS. -/
def MeOp.vd (o : MeOp) : Nat := bitsAt o.low 10 5
def MeOp.vx (o : MeOp) : Nat := bitsAt o.low 5 5
def MeOp.vs (o : MeOp) : Nat := bitsAt o.low 0 5

/-- Every reason for ILLEGAL_INSN (R168), with the operand OPID names: that of a register field that must be 0 or breaks its
rule (Table 6-15), 0 for LEN, a reserved field, TY and XALT. [DEDUCED: log entry 30] -/
def MeOpc.bad (o : MeOpc) (log : Nat) (w : MeWord) : List (Bool × BitVec 4) :=
  let l := w.low.toNat
  let a := w.w1.toNat
  let b := w.w2.toNat
  let ty := Ty.ofCode (bitsAt l 19 4)
  (w.len != o.len, 0) ::
  match o with
  | .tld | .tst => [(bitsAt l 0 20 != 0 || bitsAt a 22 3 != 0, 0)]
  | .tlds | .tsts => [(bitsAt l 0 20 != 0 || bitsAt a 22 3 != 0, 0), (bitsAt a 26 3 != 0, 7)]
  | .tzero => [(bitsAt l 0 20 != 0, 0)]
  | .trelease => [(bitsAt l 8 15 != 0, 0)]
  | .tmma => [(bitsAt l 0 14 != 0, 0)]
  | .tmmas =>
    [(bitsAt l 0 11 != 0 || bitsAt a 22 3 != 0 || bitsAt b 0 20 != 0 || !(ty.any Ty.isOperand), 0),
     (l.testBit 18 && bitsAt l 14 3 != 0, 1), (!l.testBit 17 && bitsAt b 20 3 != 0, 4),
     (!l.testBit 18 && bitsAt b 29 3 != 0, 9), (!l.testBit 18 && bitsAt b 26 3 != 0, 10)]
  | .gmv =>
    let g := 2 ^ log
    let vd := bitsAt l 10 5
    let vx := bitsAt l 5 5
    let vs := bitsAt l 0 5
    [(bitsAt l 15 2 != 0 || bitsAt a 22 3 != 0 || bitsAt b 0 26 != 0 ||
        !(ty == some .h4 || ty == some .h8p || ty == some .h8r || ty == some .h16) ||
        (l.testBit 17 && !(ty.any Ty.isH8)), 0),
     (vd % g != 0, 1), (vx % g != 0 || vd == vx, 2),
     (if l.testBit 18 then decide (vd ≤ vs ∧ vs < vd + g) else vs != 0, 5), (!l.testBit 18 && bitsAt b 29 3 != 0, 4)]

/-! ### Streams -/

/-- A scratchpad stream of an instruction: `rows` rows of `bytes` bytes, `stride` apart; whether it is written; the
operands its base and its stride are; and whether both must be multiples of 4 (R169). -/
structure MeStream where
  base : Nat
  stride : Int
  rows : Nat
  bytes : Nat
  write : Bool
  opBase : BitVec 4
  opStride : BitVec 4
  aligned : Bool
  deriving DecidableEq, Repr

/-- Row `r`'s address, modulo 2^32. -/
def MeStream.row (m : MeStream) (r : Nat) : Nat := toBits 32 ((m.base : Int) + (r : Int) * m.stride)

/-- TLDS and TSTS: U (R171). -/
def Tcfg.sideBytes (g : Tcfg) : Nat := if g.scl = 1 then g.rows * g.blocks else g.blocks

/-- The streams of an operation (R170, R171, R180, R188). [DESIGN CHOICE: log entry 122] -/
def MeOp.streams (o : MeOp) (cfg : Vector Tcfg 8) : List MeStream :=
  match o.opc with
  | .tld | .tst =>
    let g := cfg[o.t]
    [⟨o.x, o.stride, if g.ty = none then 0 else g.rows, g.rowBytes, o.opc == .tst, 6, 7, true⟩]
  | .tlds | .tsts =>
    let g := cfg[o.t]
    [⟨o.x, 0, if g.ty = none ∨ g.scl = 0 then 0 else 1, g.sideBytes, o.opc == .tsts, 6, 7, false⟩]
  | .tmmas =>
    let b := cfg[o.tb]
    [⟨o.x, o.stride, o.rows, ceilDiv (b.cols * o.ty.width) 8, false, 6, 7, true⟩] ++
    (if o.sc then [⟨o.sbase, 0, 1, o.rows * b.blocks, false, 4, 4, false⟩] else []) ++
    (if o.drain then [⟨o.dbase, o.dstride, o.rows, 4 * b.rows, true, 9, 10, true⟩] else [])
  | .gmv =>
    let on := if o.rows = 0 ∨ o.k = 0 then 0 else 1
    [⟨o.x, o.stride, o.rows * on, ceilDiv (o.k * o.ty.width) 8, false, 6, 7, true⟩] ++
    (if o.sc then [⟨o.sbase, 0, on, ceilDiv o.k 32 * o.rows, false, 4, 4, false⟩] else [])
  | _ => []

/-- ALIGN of a stream's base and stride, SPM_BOUND of its first address outside (R169).
[DESIGN CHOICE: log entries 122, 123] -/
def MeStream.excs (e : Env) (m : MeStream) : List Exc :=
  (if m.aligned && m.base % 4 != 0 then [exc 0x02 m.opBase 2 m.base] else []) ++
  (if m.aligned && m.stride % 4 != 0 then [exc 0x02 m.opStride 2 (toBits 32 m.stride)] else []) ++
  (if m.bytes = 0 then []
   else match (List.range m.rows).find? (fun r => decide (e.spmSize < m.row r + m.bytes)) with
    | some r => [exc 0x03 m.opBase 2 (max (m.row r) e.spmSize)]
    | none => [])

/-- The footprint of a stream, from its lowest to its highest byte (R236). -/
def MeStream.footprint (m : MeStream) : List (Nat × Nat × Bool) :=
  if m.bytes = 0 then []
  else match (List.range m.rows).map m.row with
    | [] => []
    | p :: l =>
      let lo := l.foldl min p
      let hi := l.foldl max p
      [(lo, hi + m.bytes - lo, m.write)]

/-- The shape and format checks, in the order of Table 6-6 (R173). -/
def MeOp.shapes (o : MeOp) (cfg : Vector Tcfg 8) : List Exc :=
  let fail (b : Bool) (cause : BitVec 8) (opid : BitVec 4) : List Exc := if b then [exc cause opid 2 0] else []
  match o.opc with
  | .tld | .tst => fail (cfg[o.t].ty == none) 0x07 1
  | .tlds | .tsts => fail (cfg[o.t].ty == none) 0x07 1 ++ fail (cfg[o.t].scl == 0) 0x07 4
  | .tmma =>
    let d := cfg[o.td]
    let a := cfg[o.ta]
    let b := cfg[o.tb]
    fail (d.ty != some .f32) 0x07 1 ++ fail (!(a.ty.any Ty.isOperand)) 0x07 2 ++
    fail (!(b.ty.any Ty.isOperand)) 0x07 3 ++ fail (!pairable a.ty b.ty) 0x07 3 ++
    fail (d.rows != a.rows || d.cols != b.rows) 0x06 1 ++ fail (a.cols != b.cols) 0x06 3
  | .tmmas =>
    let d := cfg[o.td]
    let b := cfg[o.tb]
    fail (!pairable b.ty (some o.ty)) 0x07 3 ++
    (if o.drain then []
     else fail (d.ty != some .f32) 0x07 1 ++ fail (d.cols != b.rows) 0x06 1 ++ fail (o.rows != d.rows) 0x06 8)
  | .gmv =>
    fail (decide (2 ^ o.log * 256 < o.rows) || decide (2 ^ o.log * 8192 / o.xty.width < o.k)) 0x06 8
  | _ => []

/-- What BASE is incremented by (R169). -/
def MeOp.increment (o : MeOp) (cfg : Vector Tcfg 8) : Int :=
  if !o.w.w1.getLsbD 25 then 0
  else match o.opc with
    | .tld | .tst => (cfg[o.t].rows : Int) * o.stride
    | .tlds | .tsts => (cfg[o.t].sideBytes : Int)
    | .tmmas | .gmv => (o.rows : Int) * o.stride
    | _ => 0

/-- The operation an instruction becomes at issue (R167). -/
def meOp (c : Core) (t : Fin 4) (opc : MeOpc) (w : MeWord) : MeOp :=
  let r := (c.th t).r
  let a := w.w1.toNat
  let b := w.w2.toNat
  let dim := (aRegAt r b 26).toNat
  { opc := opc, w := w, thread := t, seq := c.seq, log := c.ve.log.toNat,
    x := (aRegAt r a 29 + BitVec.ofInt 32 (signed 22 a)).toNat, stride := (aRegAt r a 26).toInt,
    dbase := (aRegAt r b 29).toNat, dstride := (aRegAt r b 26).toInt,
    rows := if opc = .gmv then dim % 65536 else (aRegAt r b 23).toNat % 65536, k := dim / 65536,
    sbase := if opc = .gmv then (aRegAt r b 29).toNat else (aRegAt r b 20).toNat, plane := none }

/-- ME operations that name tile `n` (R166). -/
def MeOp.names (o : MeOp) (n : Fin 8) : Bool :=
  let l := o.w.low.toNat
  match o.opc with
  | .tld | .tst | .tlds | .tsts | .tzero => bitsAt l 20 3 == n.val
  | .trelease => l.testBit n.val
  | .tmma => bitsAt l 20 3 == n.val || bitsAt l 17 3 == n.val || bitsAt l 14 3 == n.val
  | .tmmas => bitsAt l 11 3 == n.val || (!l.testBit 18 && bitsAt l 14 3 == n.val)
  | .gmv => false

/-- A TCFG write that waits holds back instructions that name its tile (R166 step 1). -/
def MeOp.reconfiguring (c : Core) (o : MeOp) : Bool :=
  !c.allTh (fun h => match h.stall with | .tcfg n _ _ => !o.names n | _ => true)

end Sys2Proof.Machine
end

