-- ==== Sys2Proof/Machine/Slots.lean ====
section
/-! DEFINITION. Gates, the acceptance of remote writes, refusals, and the service of tagged slots (R210 to R222). -/

namespace Sys2Proof.Machine

/-- The open gate inside which every byte of an access lies. -/
def Spm.gateOf (m : Spm) (off bytes : Nat) : Option (Fin 16) :=
  (List.finRange 16).find? (fun i =>
    m.gates[i].opened && decide (m.gates[i].base.toNat ≤ off ∧ off + bytes ≤ m.gates[i].limit.toNat))

/-- Gate `i` changed. -/
def Spm.mapGate (i : Fin 16) (f : Gate → Gate) (m : Spm) : Spm := { m with gates := m.gates.set i (f m.gates[i]) }

/-- Who writes: a core of the module, or another module over the links. -/
inductive Writer
  | core (id : CoreId)
  | link
  deriving DecidableEq, Repr

/-- The gate admits a write of this writer with this expected generation (R210, R215). -/
def Gate.admits (g : Gate) (w : Writer) (gen : Option (BitVec 8)) : Bool :=
  !g.closing &&
    (match w with
      | .core id => g.cores && decide (id &&& g.mask = g.mtch &&& g.mask)
      | .link => g.link) &&
    (match gen with
      | none => !g.greq
      | some x => x == g.gen)

/-- A remote write of the job is accepted by the gates (R210). -/
def Spm.accepts (m : Spm) (w : Writer) (gen : Option (BitVec 8)) (off bytes : Nat) : Bool :=
  match m.gateOf off bytes with
  | some i => m.gates[i].admits w gen
  | none => false

/-- A record GATE_REFUSED of the scratchpad (R211, Table 17-5). -/
def gateRefused (off : Nat) : Post := plainPost 0 0x010B 5 0 off []

/-- What a refused write does at the target: it counts in its gate, and the first refusal is recorded (R211). -/
def Core.refuse (off bytes : Nat) (c : Core) : Core :=
  match c.spm.gateOf off bytes with
  | some i =>
    let g := c.spm.gates[i]
    let c' := c.mapSpm (fun m => m.mapGate i (fun g =>
      { g with fcnt := if g.fcnt = 0xFFFF then g.fcnt else g.fcnt + 1, recorded := true }))
    if g.recorded then c' else c'.post (gateRefused off)
  | none =>
    if c.spm.noGateRecorded then c
    else (c.mapSpm (fun m => { m with noGateRecorded := true })).post (gateRefused off)

/-- A refusal because the issuer belongs to another job (R207). -/
def Core.refuseOtherJob (off : Nat) (c : Core) : Core :=
  if c.spm.otherJobRecorded then c
  else (c.mapSpm (fun m => { m with otherJobRecorded := true })).post (gateRefused off)

/-- GATE_FAULT of an access refused by a core (R211). -/
def gateFault (target : CoreId) (off : Nat) : Exc :=
  { cause := 0x04, opid := 0, eng := 5, target := target, addr := BitVec.ofNat 32 off, unit := 0 }

/-- QUARANTINE_ACCESS of an access to a core (R498). -/
def quarantineFault (target : CoreId) (off : Nat) : Exc :=
  { cause := 0x09, opid := 0, eng := 5, target := target, addr := BitVec.ofNat 32 off, unit := 0 }

/-- REMOTE_TIMEOUT of an access to a core (R209). -/
def timeoutFault (target : CoreId) (off : Nat) : Exc :=
  { cause := 0x0D, opid := 0, eng := 5, target := target, addr := BitVec.ofNat 32 off, unit := 0 }

/-- An answer leaves for another core. -/
def Core.answer (core : CoreId) (id : Nat) (a : RemoteAnswer) (c : Core) : Core :=
  { c with out := { c.out with answers := c.out.answers ++ [(core, id, a)] } }

/-! ### Tagged slots -/

/-- The tag of a slot (R217). -/
def tagOf (seg : Nat) : Nat := seg % 4096

/-- The slot is full. -/
def Spm.full (m : Spm) (seg : Nat) : Bool := nhas m.tags (tagOf seg)

/-- The slot lies inside an open tagged gate (R218). -/
def Spm.slotOpen (m : Spm) (seg : Nat) : Bool :=
  match m.gateOf (64 * seg) 64 with
  | some i => m.gates[i].tagged && !m.gates[i].closing
  | none => false

/-- The tag is in the state an access needs (R219). -/
def Spm.fits (m : Spm) (seg : Nat) (store : Bool) : Bool := m.full seg != store

/-- The data move of a served access of this slot is still to be performed (R220). -/
def Spm.moving (m : Spm) (seg : Nat) : Bool := m.moves.any (fun p => p.1.seg == seg)

/-- The first access that waits on a slot and finds its tag in the needed state (R220). -/
def Spm.firstFit (m : Spm) (seg : Nat) : Option SlotWait :=
  m.waits.find? (fun x => decide (x.seg = seg) && m.fits seg x.store)

/-- An access that arrives now is served now: its tag fits, no data move is due, and no access that waits comes first. -/
def Spm.servesNow (m : Spm) (seg : Nat) (store : Bool) : Bool :=
  m.fits seg store && !m.moving seg && (m.firstFit seg).isNone

/-- The slot number of an SLD or SST. -/
def slotNum (store : Bool) (c : Core) (t : Fin 4) (o : Operands) : Nat := if store then o.d.value c t else o.a.value c t

/-- A tagged access cannot go yet: a non-blocking one whose slot still moves data, or 32 accesses that await a response (R208,
R220, R223). -/
def Core.slotBusy (e : Env) (store : Bool) (n : Nat) (w : SeWord) (c : Core) : Bool :=
  if slotCore n = e.id.toNat then
    !blocks w && c.spm.fits (slotSeg n) store && !c.spm.servesNow (slotSeg n) store
  else decide (32 ≤ c.spm.outstanding)

/-- An SLD or SST of slot number `n` is held back: a non-blocking one by a division of its thread (Table 3-10), one of a local
slot as any access of the scratchpad, and any while it cannot go. -/
def Core.slotWaits (e : Env) (t : Fin 4) (store : Bool) (n : Nat) (w : SeWord) (c : Core) : Bool :=
  (!blocks w && match c.div with | some d => decide (d.thread = t) | none => false) ||
    (slotCore n == e.id.toNat && bytesHeld c t (64 * slotSeg n) 64 store 0) || c.slotBusy e store n w

/-- An XLD of the core's own scratchpad is held back as any access of it is (R84). -/
def Core.xldWaits (e : Env) (t : Fin 4) (o : Operands) (c : Core) : Bool :=
  o.a.value c t % 2 ^ 13 == e.id.toNat && bytesHeld c t (o.b.value c t % 2 ^ 22) o.d.ty.bytes false 0

/-- An XST to the core's own scratchpad is held back as any access of it is; another needs room among the accesses that await a
response (R84, R208). -/
def Core.xstWaits (e : Env) (t : Fin 4) (o : Operands) (c : Core) : Bool :=
  if o.d.value c t % 2 ^ 13 = e.id.toNat then bytesHeld c t (o.a.value c t % 2 ^ 22) o.b.ty.bytes true 1
  else decide (32 ≤ c.spm.outstanding)

/-- A tagged access is served: the tag takes its new state and the data move is due (R220). -/
def Spm.serve (m : Spm) (x : SlotWait) (data : Payload) : Spm :=
  { m with tags := if x.store then nins m.tags (tagOf x.seg) else ndel m.tags (tagOf x.seg)
           moves := m.moves ++ [(x, data)] }

/-- A slot fill of a completion is served: the tag becomes full and no data moves (R267). -/
def Spm.serveFill (m : Spm) (seg : Nat) : Spm := { m with tags := nins m.tags (tagOf seg) }

/-- An access joins the waiting order. -/
def Spm.park (m : Spm) (x : SlotWait) : Spm := { m with waits := m.waits ++ [x] }

/-- An access leaves the waiting order. -/
def Spm.unpark (m : Spm) (who : SlotUser) : Spm := { m with waits := m.waits.filter (fun x => decide (x.who ≠ who)) }

/-- Parked accesses of other cores (R221). -/
def Spm.parked (m : Spm) : Nat :=
  (m.waits.filter (fun x => match x.who with | .remote _ _ => true | _ => false)).length

/-- A thread's wait ends without effect: it is RUNNING again and takes the exception precisely (R219, R222). -/
def Core.endWait (e : Env) (t : Fin 4) (x : Exc) (c : Core) : Core :=
  let c := if (c.th t).st = .waiting then c.setSt e t .running else c
  (c.mapTh t (fun h => { h with stall := .none })).takeExc e t x false

/-- The place of the descriptor of queue `q` whose slot fill waits. -/
def Core.fillIndex (c : Core) (q : Fin 4) : Option Nat := (c.de.q[q]).descs.findIdx? (fun r => r.filling)

/-- The slot fill of queue `q` is refused: GATE_FAULT of its descriptor (R267, R272). -/
def Core.fillRefused (q : Fin 4) (x : Exc) (c : Core) : Core :=
  match c.fillIndex q with
  | none => c
  | some i => (c.mapDesc q i (fun r => { r with filling := false })).dqFault q i (0x80 + x.cause) 4 x

/-- What the closing of a gate does to one access that waits on a slot of it (R215, R219).
[DESIGN CHOICE: log entry 124] -/
def Core.refuseWait (e : Env) (x : SlotWait) (c : Core) : Core :=
  match x.who with
  | .thread t => c.endWait e t (gateFault e.id (64 * x.seg))
  | .remote core id => (c.refuse (64 * x.seg) 64).answer core id .gate
  | .fill q => c.fillRefused q (gateFault e.id (64 * x.seg))

/-- The accesses that wait on the slots of a gate are released (R215 step 2). -/
def Core.releaseWaits (e : Env) (i : Fin 16) (c : Core) : Core :=
  let g := c.spm.gates[i]
  let mine (x : SlotWait) : Bool := decide (g.base.toNat ≤ 64 * x.seg ∧ 64 * x.seg < g.limit.toNat)
  let gone := if g.tagged then c.spm.waits.filter mine else []
  let c := if g.tagged then c.mapSpm (fun m => { m with waits := m.waits.filter (fun x => !mine x) }) else c
  gone.foldl (fun c x => c.refuseWait e x) c

/-- Every write that a closing gate accepted has been performed (R215 step 3). -/
def Spm.settled (m : Spm) (i : Fin 16) : Bool :=
  m.moves.all (fun p => !decide (m.gates[i].base.toNat ≤ 64 * p.1.seg ∧ 64 * p.1.seg < m.gates[i].limit.toNat))

/-! ### Gate registers (Table 7-4) -/

/-- GATEn_CTL as its register. -/
def Gate.ctl (g : Gate) : Nat :=
  g.mask.toNat * 2 ^ 19 + g.mtch.toNat * 2 ^ 6 + b2n g.greq * 32 + b2n g.tagged * 16 + b2n g.link * 8 +
    b2n g.cores * 4 + b2n g.opened

/-- GATEn_STAT as its register. -/
def Gate.stat (g : Gate) : Nat := g.gen.toNat * 2 ^ 24 + g.fcnt.toNat

/-- The fields of GATEn_CTL other than OPEN written from a value. -/
def Gate.setCtl (g : Gate) (v : Nat) : Gate :=
  { g with mask := BitVec.ofNat 13 (v / 2 ^ 19), mtch := BitVec.ofNat 13 (v / 2 ^ 6), greq := v.testBit 5
           tagged := v.testBit 4, link := v.testBit 3, cores := v.testBit 2 }

/-- The tags of the slots of a gate. -/
def Gate.tagList (g : Gate) : List Nat :=
  (List.range ((g.limit.toNat - g.base.toNat) / 64)).map (fun i => tagOf (g.base.toNat / 64 + i))

/-- Two tagged gates use a tag in common. -/
def tagsMeet (g h : Gate) : Bool :=
  let n := (h.limit.toNat - h.base.toNat) / 64
  g.tagList.any (fun t => decide ((t + 4096 - tagOf (h.base.toNat / 64)) % 4096 < n))

/-- The checks at the opening of gate `i` with its new fields (R213). -/
def Spm.mayOpen (m : Spm) (spmSize : Nat) (i : Fin 16) (g : Gate) : Bool :=
  let others := (List.finRange 16).filter (fun j => j != i && m.gates[j].opened)
  let tagged := others.filter (fun j => m.gates[j].tagged)
  g.base.toNat % 64 == 0 && g.limit.toNat % 64 == 0 && decide (g.base.toNat < g.limit.toNat) &&
    decide (g.limit.toNat ≤ spmSize) &&
    others.all (fun j => !decide (g.base.toNat < m.gates[j].limit.toNat ∧ m.gates[j].base.toNat < g.limit.toNat)) &&
    (!g.tagged || (decide (g.limit.toNat - g.base.toNat ≤ 262144) && decide (tagged.length < 4) &&
      tagged.all (fun j => !tagsMeet g m.gates[j])))

/-- The gate opens (R213). -/
def Spm.openGate (m : Spm) (i : Fin 16) (g : Gate) : Spm :=
  let m := m.mapGate i (fun _ => { g with opened := true, closing := false, gen := m.gates[i].gen + 1, fcnt := 0,
                                          recorded := false })
  if g.tagged then { m with tags := ndelAll m.tags g.tagList } else m

/-- The gate closes and takes the other fields of the value written (R215 step 4). -/
def Spm.closeGate (m : Spm) (i : Fin 16) (v : Nat) : Spm :=
  m.mapGate i (fun g => { g.setCtl v with opened := false, closing := false })

end Sys2Proof.Machine
end

