-- ==== Sys2Proof/Machine/Ready.lean ====
section
/-! DEFINITION. Issue selection (R99, R100): the next instruction of a thread as its cache holds it, whether the thread is
known to be ready, and which of the ready threads goes first. -/

namespace Sys2Proof.Machine

/-! ### The next instruction -/

/-- The next instruction of thread `t`, once every word of it has been fetched (R99). -/
def Core.nextInsn (c : Core) (core : CoreId) (t : Fin 4) : Option Instr :=
  let pc := (c.th t).r.pc
  match c.de.codeWord pc.toNat with
  | none => none
  | some w0 =>
    let more := (fetchAddrs pc (wordLen w0)).map c.de.codeWord
    if more.all Option.isSome then
      some (decodeInsn ⟨core, t, []⟩ w0 ((more.getD 1 none).getD 0) ((more.getD 2 none).getD 0))
    else none

/-! ### Ready threads -/

/-- A DENQ is held back: its queue holds 16 entries, the issue queue is full, or the tracker holds back the footprint of its
descriptor (R236, R256, R258). -/
def Core.denqWaits (e : Env) (t : Fin 4) (w : SeWord) (o : Operands) (c : Core) : Bool :=
  let r := c.readDesc t c.seq o.a.addr
  decide (16 ≤ c.dqEntries (Fin.ofNat 4 w.mod.toNat)) || !c.room 3 ||
    !tracked c t ((r.footprint e).map (fun p => p.1)) (r.footprint e).length

/-- The engine queue or the unit that an SE or DE instruction needs can take it (R61, R86, R166, R208, R215, R223, R258).
[DESIGN CHOICE: log entry 150] -/
def Core.unitFree (e : Env) (c : Core) (t : Fin 4) (i : Instr) (o : Operands) : Bool :=
  let csr (n : Nat) : Bool :=
    (decide (0x010 ≤ n ∧ n < 0x018) &&
        !c.allTh (fun h => match h.stall with | .tcfg k _ _ => k != Fin.ofNat 8 n | _ => true)) ||
      (decide (0x040 ≤ n ∧ n < 0x080) && n % 4 == 2 && (c.spm.gates[Fin.ofNat 16 ((n - 0x040) / 4)]).closing)
  match i with
  | .div _ _ | .fsqrt _ _ => c.div.isNone
  | .etok _ _ | .ewait _ _ => c.room (tokEng (o.a.value c t))
  | .denq _ w => !c.denqWaits e t w o
  | .icinv _ _ | .icpf _ _ => c.room 3
  | .xld _ _ => !c.xldWaits e t o
  | .xst _ _ => !c.xstWaits e t o
  | .sld _ w => !c.slotWaits e t false (slotNum false c t o) w
  | .sst _ w => !c.slotWaits e t true (slotNum true c t o) w
  | .csrw _ _ => !csr (o.a.value c t)
  | _ => true

/-- The VE operation of an instruction, with its words. -/
def veParts : Instr → Option (VeOpc × VeWord)
  | .vld _ v => some (.vld, v)
  | .vst _ v => some (.vst, v)
  | .vldsr _ v => some (.vldsr, v)
  | .vstsr _ v => some (.vstsr, v)
  | .vlds2 _ v => some (.vlds2, v)
  | .vlds3 _ v => some (.vlds3, v)
  | .vlds4 _ v => some (.vlds4, v)
  | .vsts2 _ v => some (.vsts2, v)
  | .vsts3 _ v => some (.vsts3, v)
  | .vsts4 _ v => some (.vsts4, v)
  | .vmld _ v => some (.vmld, v)
  | .vmst _ v => some (.vmst, v)
  | .vbcast _ v => some (.vbcast, v)
  | .vext _ v => some (.vext, v)
  | .vmovi _ v => some (.vmovi, v)
  | .vadd _ v => some (.vadd, v)
  | .vsub _ v => some (.vsub, v)
  | .vmul _ v => some (.vmul, v)
  | .vfma _ v => some (.vfma, v)
  | .vmin _ v => some (.vmin, v)
  | .vmax _ v => some (.vmax, v)
  | .vbit _ v => some (.vbit, v)
  | .vcmp _ v => some (.vcmp, v)
  | .vmerge _ v => some (.vmerge, v)
  | .vslide _ v => some (.vslide, v)
  | .vred _ v => some (.vred, v)
  | .vmop _ v => some (.vmop, v)
  | .vwmul _ v => some (.vwmul, v)
  | .vdot _ v => some (.vdot, v)
  | .vcvt _ v => some (.vcvt, v)
  | .vfdiv _ v => some (.vfdiv, v)
  | .vfsqrt _ v => some (.vfsqrt, v)
  | _ => none

/-- The ME operation of an instruction, with its words. -/
def meParts : Instr → Option (MeOpc × MeWord)
  | .tld _ m => some (.tld, m)
  | .tst _ m => some (.tst, m)
  | .tlds _ m => some (.tlds, m)
  | .tsts _ m => some (.tsts, m)
  | .tzero _ m => some (.tzero, m)
  | .trelease _ m => some (.trelease, m)
  | .tmma _ m => some (.tmma, m)
  | .tmmas _ m => some (.tmmas, m)
  | .gmv _ m => some (.gmv, m)
  | _ => none

/-- Nothing holds an instruction of thread `t` back (R99, R237): its interlocks, the tracker, its queue or unit, a
watchpoint. -/
def Core.unblocked (e : Env) (c : Core) (t : Fin 4) (i : Instr) : Bool :=
  match insnForm i, veParts i, meParts i with
  | some (_, f, w), _, _ =>
    let o := operands f w (c.th t).r
    !legal f w || (!o.watched c t && noInterlock c t f w o && tracked c t o.ranges o.entries && c.unitFree e t i o)
  | none, some (opc, w), _ =>
    let fp := (veOp c t opc w).footprint
    c.room 1 && tracked c t fp fp.length
  | none, none, some (opc, w) =>
    let o := meOp c t opc w
    let fp := (o.streams c.me.cfg).flatMap MeStream.footprint
    c.room 2 && !o.reconfiguring c && tracked c t (fp.map (fun p => (p.1, p.2.1))) fp.length
  | none, none, none => true

/-- Thread `t` is known to be ready (R99): it may issue, its next instruction has been fetched, and nothing holds that back.
[DESIGN CHOICE: log entry 113] -/
def Core.knownReady (e : Env) (c : Core) (t : Fin 4) : Bool :=
  c.ready t && (match c.nextInsn e.id t with | some i => c.unblocked e t i | none => false)

/-! ### Selection -/

/-- How far thread `t` is behind the pointer of its class (R100): 0 for the first candidate after it. -/
def Core.turn (c : Core) (t : Fin 4) : Nat :=
  let p := c.rot[(if (c.th t).x.prio then 1 else 0 : Fin 2)]
  (t.val + 3 - p.val) % 4

/-- Thread `u` goes before thread `t` when both are ready (R100): its class first, then the rotation. -/
def Core.precedes (c : Core) (u t : Fin 4) : Bool :=
  let pu := (c.th u).x.prio
  let pt := (c.th t).x.prio
  if pu = pt then decide (c.turn u < c.turn t) else pu

/-- A thread that is known to be ready goes before thread `t` (R100). [DESIGN CHOICE: log entry 113] -/
def Core.outranked (e : Env) (c : Core) (t : Fin 4) : Bool :=
  (List.finRange 4).any (fun u => u != t && c.knownReady e u && c.precedes u t)

/-- Thread `t` is the one that issues (R99, R100), as far as its instruction does not decide it.
[DESIGN CHOICE: log entry 113] -/
def Core.mayIssue (e : Env) (c : Core) (t : Fin 4) : Bool := c.ready t && !c.outranked e t

end Sys2Proof.Machine
end

