-- ==== Sys2Proof/Machine/Spad.lean ====
section
/-! DEFINITION. Errors of scratchpad words: what a read finds and what a failed check of arriving data leaves (R202, R203,
R205, R409). A command that reads or writes the scratchpad carries what the hardware found at its words. -/

namespace Sys2Proof.Machine

/-- The bank and the row of a word, given as offset ÷ 8 (Table 7-1). -/
def bankOf (k : Nat) : Fin 16 := Fin.ofNat 16 (k / 8)
def rowOf (k : Nat) : Nat := k / 128

/-- The scrubber of a bank changed. -/
def Core.mapScrub (b : Fin 16) (f : Scrubber → Scrubber) (c : Core) : Core :=
  c.mapSpm (fun m => { m with scrub := m.scrub.set b (f m.scrub[b]) })

/-- A record of the bank of a word. -/
def spmPost (sev : BitVec 2) (cause : BitVec 16) (k : Nat) (detail : List Word) : Post :=
  plainPost sev cause 5 (BitVec.ofNat 4 (bankOf k).val) (8 * k) detail

/-- The row of a word becomes a repair candidate (R205). -/
def Core.rowCandidate (k : Nat) (c : Core) : Core :=
  c.post (spmPost 1 0x0104 (k / 8 * 8) [BitVec.ofNat 32 (bankOf k).val, BitVec.ofNat 32 (rowOf k)])

/-- A word was corrected on its way out: it is recorded, and is to be written back (R203). -/
def Core.corrected (k : Nat) (c : Core) : Core :=
  (c.mapScrub (bankOf k) (fun s => { s with writebacks := s.writebacks ++ [k] })).post (spmPost 0 0x0101 k [])

/-- A word has an uncorrectable syndrome: it is poison from now on, it is recorded, and its row is a candidate (R203,
R205). -/
def Core.lost (k : Nat) (c : Core) : Core :=
  ((c.mapSpm (fun m => { m with poison := nins m.poison k })).post (spmPost 1 0x0102 k [])).rowCandidate k

/-- A word lies in a list of byte ranges. -/
def inRanges (rs : List (Nat × Nat)) (k : Nat) : Bool :=
  rs.any (fun p => decide (p.2 ≠ 0 ∧ p.1 / 8 ≤ k ∧ k ≤ (p.1 + p.2 - 1) / 8))

/-- One finding of a read of byte ranges. Of a word that is poison nothing new is found (R203). -/
def Core.meetOne (reads : List (Nat × Nat)) (f : SpmFinding) (c : Core) : Core :=
  match f with
  | .corrected w bit =>
    if inRanges reads w.toNat && !nhas c.spm.poison w.toNat && decide (bit.toNat < 72) then c.corrected w.toNat else c
  | .uncorrectable w => if inRanges reads w.toNat && !nhas c.spm.poison w.toNat then c.lost w.toNat else c
  | .badCheck _ => c

/-- What a read of byte ranges finds (R203). A finding in a word that is not read is none. -/
def Core.meet (reads : List (Nat × Nat)) (fs : List SpmFinding) (c : Core) : Core :=
  fs.foldl (fun c f => c.meetOne reads f) c

/-- One word of byte ranges that were written, whose sender's check failed. -/
def Core.unverifiedOne (writes : List (Nat × Nat)) (f : SpmFinding) (c : Core) : Core :=
  match f with
  | .badCheck w =>
    if inRanges writes w.toNat then c.mapSpm (fun m => { m with poison := nins m.poison w.toNat }) else c
  | _ => c

/-- The words of written byte ranges whose sender's check failed are stored as poison (R202, R409). -/
def Core.unverified (writes : List (Nat × Nat)) (fs : List SpmFinding) (c : Core) : Core :=
  fs.foldl (fun c f => c.unverifiedOne writes f) c

/-- A request of a port has taken rank 1 at some bank (R199). -/
def Spm.marked (m : Spm) (port : SpmPort) : Bool := m.scrub.any (fun x => x.agedPorts.any (fun p => decide (p = port)))

/-- Some of the byte ranges touch a bank (Table 7-1). -/
def onBank (rs : List (Nat × Nat)) (b : Fin 16) : Bool :=
  rs.any (fun r => decide (r.2 ≠ 0 ∧ (r.1 / 64 % 16 ≤ b.val ∧ b.val ≤ r.1 / 64 % 16 + (r.1 % 64 + r.2 - 1) / 64 ∨
    b.val + 16 ≤ r.1 / 64 % 16 + (r.1 % 64 + r.2 - 1) / 64)))

/-- A request of a port for byte ranges has been granted: its mark of rank 1 at their banks is gone (R199). -/
def Core.granted (port : SpmPort) (rs : List (Nat × Nat)) (c : Core) : Core :=
  (List.finRange 16).foldl (fun c b =>
    if c.spm.scrub[b].agedPorts.any (fun p => decide (p = port)) && onBank rs b then
      c.mapScrub b (fun s => { s with agedPorts := s.agedPorts.filter (fun p => decide (p ≠ port)) })
    else c) c

/-- The ranges that an instruction's operands read, and write. -/
def Operands.readRanges (o : Operands) : List (Nat × Nat) :=
  o.all.filterMap (fun p => match p.2.loc with | .mem a => if p.2.reads then some (a, p.2.ty.bytes) else none | _ => none)
def Operands.writeRanges (o : Operands) : List (Nat × Nat) :=
  o.all.filterMap (fun p => match p.2.loc with | .mem a => if p.2.writes then some (a, p.2.ty.bytes) else none | _ => none)

end Sys2Proof.Machine
end

