-- ==== Sys2Proof/Machine/Issue.lean ====
section
/-! DEFINITION. The issue of one instruction: what every SE or DE instruction does before its own effect, in the order
selection, fetch, encoding, watchpoint, interlocks, tracker and unit, exceptions (R71, R93 to R95, R99, R100, R237), and the
issue of VE and ME instructions to their queues. -/

namespace Sys2Proof.Machine

/-- Thread `t` takes a precise exception at issue. -/
def Core.raise (e : Env) (t : Fin 4) (x : Exc) (c : Core) : Core := (c.issued e t).takeExc e t x false

/-- The latest instruction of thread `t` has written its result: it neither waits nor has it in flight (Table 3-10). -/
def Core.wroteNow (t : Fin 4) (c : Core) : Bool :=
  decide ((c.th t).stall = .none) && (c.th t).fps.all (fun f => f.seq != (c.th t).last)

/-- Thread `t` issues an instruction of form `f` with the words `w`. Nothing happens while the thread is not the one that
issues (R99, R100), while a watchpoint stops it first, while an interlock or the tracker holds it back, or while its unit
cannot take it (`waits`). A fetch beyond the code region raises CODE_FETCH_ERROR and an illegal encoding ILLEGAL_INSN;
otherwise what its reads find (`found`) is met, the lowest cause among those of its operands and `extra` is taken, or the
instruction has its effect, and a word it writes whose check fails is poison (R202, R203).
[DESIGN CHOICE: log entries 113, 116] -/
def Core.seIssue (e : Env) (t : Fin 4) (found : List SpmFinding) (f : Form) (w : SeWord) (extra : Operands → List Exc)
    (waits : Operands → Bool) (body : Operands → Core → Core) (c : Core) : Core :=
  if !c.mayIssue e t then c
  else
    match c.fetchFault t w.len with
    | some a => c.raise e t (fetchExc a)
    | none =>
      if !legal f w then c.raise e t (exc 0x01 0 4 0)
      else
        let o := operands f w (c.th t).r
        if o.watched c t || !noInterlock c t f w o || !tracked c t o.ranges o.entries || waits o then c
        else
          let c := c.meet o.readRanges found
          match lowestExc (o.excs e c ++ extra o) with
          | some x => (c.granted .near o.readRanges).raise e t x
          | none =>
            let writes := if (body o (c.issued e t)).wroteNow t then o.writeRanges else []
            (body o ((c.granted .near (o.readRanges ++ writes)).issued e t)).unverified writes found

/-- A word with a reserved opcode raises ILLEGAL_INSN: from the ME for a code of its range, from the front end for any other
(R71, R168). [DESIGN CHOICE: log entry 112] -/
def Core.reservedIssue (e : Env) (t : Fin 4) (opc : BitVec 7) (c : Core) : Core :=
  if !c.mayIssue e t then c
  else
    match c.fetchFault t 0 with
    | some a => c.raise e t (fetchExc a)
    | none => c.raise e t (exc 0x01 0 (if 0x60 ≤ opc.toNat ∧ opc.toNat < 0x70 then 2 else 4) 0)

/-- An instruction completes: its post-increments apply and the program counter moves on (R75, R89). -/
def Core.finish (t : Fin 4) (len : BitVec 2) (o : Operands) (c : Core) : Core := (c.increments t o).advance t len

/-- An instruction that has issued and waited completes (R101). -/
def Core.complete (t : Fin 4) (f : Form) (w : SeWord) (c : Core) : Core :=
  (c.mapTh t (fun h => { h with stall := .none })).finish t w.len (operands f w (c.th t).r)

/-- The command of one SE instruction. [DESIGN CHOICE: log entries 3, 7, 35] -/
def seCmd (a : Site) (f : Form) (w : SeWord) (extra : Env → Core → Operands → List Exc)
    (waits : Env → Core → Operands → Bool) (body : Env → Operands → Core → Core) (s : State) : Out :=
  onCore a.core (fun e c => c.seIssue e a.thread a.found f w (extra e c) (waits e c) (body e)) s

/-- No exception of its own. -/
def noExtra : Env → Core → Operands → List Exc := fun _ _ _ => []
/-- Never waits for a unit. -/
def noWaits : Env → Core → Operands → Bool := fun _ _ _ => false

/-! ### VE and ME -/

/-- The issue of a VE instruction: not while its queue is full (R61); an illegal one raises ILLEGAL_INSN (R134); otherwise it enters the VE queue (R61), takes its tracker entry (R236), begins a wake (R158),
and its thread goes on. [DESIGN CHOICE: log entries 113, 145] -/
def Core.veIssue (e : Env) (t : Fin 4) (opc : VeOpc) (w : VeWord) (c : Core) : Core :=
  if !c.mayIssue e t || !c.room 1 then c
  else
    match c.fetchFault t w.len, firstBad (opc.bad c.ve.log.toNat w) with
    | some a, _ => c.raise e t (fetchExc a)
    | none, some n => c.raise e t (exc 0x01 n 1 0)
    | none, none =>
      let fp := (veOp c t opc w).footprint
      if !tracked c t fp fp.length then c
      else
        match lowestExc ((veOp c t opc w).excs e c.ve.restr) with
        | some x => c.raise e t x
        | none =>
          let c := c.issued e t
          let o := veOp c t opc w
          let c := { c with ve := { c.ve with q := c.ve.q ++ [VeEntry.insn o] }.wake }
          let c := fp.foldl (fun c p => c.track t p.1 p.2 (!opc.isLoad) c.seq) c
          let c := if o.increment = 0 then c else c.incBase t w.ext.toNat o.increment
          c.advance t w.len

/-- The command of one VE instruction. -/
def veCmd (a : Site) (opc : VeOpc) (v : VeWord) (s : State) : Out :=
  onCore a.core (fun e c => c.veIssue e a.thread opc v) s

/-- The issue of an ME instruction: it enters the ME queue (R61), takes its tracker entries (R236), and its thread goes
on. [DESIGN CHOICE: log entries 113, 145] -/
def Core.meIssue (e : Env) (t : Fin 4) (opc : MeOpc) (w : MeWord) (c : Core) : Core :=
  if !c.mayIssue e t || !c.room 2 || (meOp c t opc w).reconfiguring c then c
  else
    match c.fetchFault t w.len, firstBad (opc.bad c.ve.log.toNat w) with
    | some a, _ => c.raise e t (fetchExc a)
    | none, some n => c.raise e t (exc 0x01 n 2 0)
    | none, none =>
    let fp := ((meOp c t opc w).streams c.me.cfg).flatMap MeStream.footprint
    if !tracked c t (fp.map (fun p => (p.1, p.2.1))) fp.length then c
    else
      let o := meOp c t opc w
      match lowestExc ((o.streams c.me.cfg).flatMap (MeStream.excs e) ++ o.shapes c.me.cfg) with
      | some x => c.raise e t x
      | none =>
        let c := c.issued e t
        let o : MeOp := { o with seq := c.seq }
        let by_ : Int := o.increment c.me.cfg
        let c : Core := { c with me := { c.me with q := c.me.q ++ [MeEntry.insn o] } }
        let c : Core := fp.foldl (fun c p => c.track t p.1 p.2.1 p.2.2 c.seq) c
        let c : Core := if by_ = 0 then c else c.incBase t w.w1.toNat by_
        c.advance t w.len

/-- The command of one ME instruction. -/
def meCmd (a : Site) (opc : MeOpc) (m : MeWord) (s : State) : Out :=
  onCore a.core (fun e c => c.meIssue e a.thread opc m) s

end Sys2Proof.Machine
end

