-- ==== Sys2Proof/Machine/Ordering.lean ====
section
/-! DEFINITION. Fences, release and acquire, engine tokens and the range tracker (chapter 8). -/

namespace Sys2Proof.Machine

/-! ### What is still to be performed -/

/-- SE scratchpad writes in flight of thread `t`, of instructions issued before `seq`. -/
def Core.seWrites (c : Core) (t : Fin 4) (seq : Nat) : Bool :=
  (c.th t).fps.any (fun f => decide (f.seq < seq) && match f.dest with | .mem _ _ => true | _ => false)

/-- VE instructions of thread `t` issued before `seq` that are not complete. -/
def Core.veBusy (c : Core) (t : Fin 4) (seq : Nat) : Bool :=
  let mine (o : VeOp) : Bool := decide (o.thread = t ∧ o.seq < seq)
  c.ve.q.any (fun x => match x with | .insn o => mine o | _ => false) || c.ve.run.any mine

/-- ME instructions of thread `t` issued before `seq` that are not complete. -/
def Core.meBusy (c : Core) (t : Fin 4) (seq : Nat) : Bool :=
  let mine (o : MeOp) : Bool := decide (o.thread = t ∧ o.seq < seq)
  c.me.q.any (fun x => match x with | .insn o => mine o | _ => false) || c.me.run.any mine

/-- Descriptors of thread `t` enqueued before `seq` for which a fence of `scope` still waits (R270). -/
def Core.deBusy (e : Env) (c : Core) (t : Fin 4) (seq scope : Nat) : Bool :=
  let mine (r : DescRun) : Bool :=
    decide (r.thread = t ∧ r.entry < seq) && (r.pending e scope || r.fillPending e scope)
  c.de.issue.any (fun x => match x with | .denq _ r => mine r | _ => false) ||
    (List.finRange 4).any (fun q => (c.de.q[q]).descs.any mine)

/-- Local accesses of descriptors of thread `t` enqueued before `seq` that are still to be performed (R240). -/
def Core.deLocalBusy (e : Env) (c : Core) (t : Fin 4) (seq : Nat) : Bool :=
  let mine (r : DescRun) : Bool := decide (r.thread = t ∧ r.entry < seq) && r.pending e 1
  c.de.issue.any (fun x => match x with | .denq _ r => mine r | _ => false) ||
    (List.finRange 4).any (fun q => (c.de.q[q]).descs.any mine)

/-- The thread a remote access belongs to. -/
def RemoteUser.thread : RemoteUser → Fin 4
  | .xld t | .xst t | .tag t | .dma _ t | .fill _ t => t

/-- XSTs of thread `t` that await their response and that a fence of `scope` waits for. -/
def Core.remoteBusy (e : Env) (c : Core) (t : Fin 4) (seq scope : Nat) : Bool :=
  c.spm.remote.any (fun r =>
    decide (r.id < seq) && !r.dead &&
      (match r.who with | .xst u => decide (u = t) | _ => false) &&
      decide ((if r.target.toNat / 256 = e.id.toNat / 256 then 2 else 3) ≤ scope))

/-- A fence of `scope` by thread `t`, issued as number `seq`, has nothing left to wait for (R244). -/
def Core.fenceDone (e : Env) (c : Core) (t : Fin 4) (seq scope : Nat) : Bool :=
  !c.seWrites t seq && (scope == 0 || (!c.veBusy t seq && !c.meBusy t seq)) && !c.deBusy e t seq scope &&
    !c.remoteBusy e t seq scope

/-! ### Acquire, release, fence -/

/-- LD.ACQ: its read is performed in the issue cycle. -/
def execLdAcq (a : Site) (hi : Bool) (w : SeWord) (s : State) : Out :=
  seCmd a (ldAcqForm hi w) w noExtra noWaits
    (fun _ o c => ((c.writeDest a.thread o.d.dest o.d.ty.bytes (o.a.value c a.thread)).finish a.thread w.len o)) s

/-- The write of an ST.REL, once its wait has ended, of the value it read at issue. [DEDUCED: log entry 114] -/
def Core.release (t : Fin 4) (hi : Bool) (w : SeWord) (v : Nat) (found : List SpmFinding) (c : Core) : Core :=
  let o := operands (stRelForm hi w) w (c.th t).r
  (((c.writeDest t o.d.dest o.d.ty.bytes v).unverified o.writeRanges found).granted .near o.writeRanges).complete t
    (stRelForm hi w) w

/-- ST.REL: it waits as a fence of its scope and then writes (R247). Its source is read at issue (R236; DEDUCED: log entry
114). [DEDUCED: log entry 114] -/
def execStRel (a : Site) (hi : Bool) (w : SeWord) (s : State) : Out :=
  seCmd a (stRelForm hi w) w noExtra noWaits
    (fun e o c =>
      let v := o.a.value c a.thread
      if c.fenceDone e a.thread c.seq (scopeOf hi w.mod) then c.release a.thread hi w v a.found
      else (c.trackDest a.thread o.d).mapTh a.thread (fun h =>
        { h with stall := .release (BitVec.ofNat 3 (scopeOf hi w.mod)) (BitVec.ofNat 64 v) w })) s

/-- FENCE (R244). -/
def execFence (a : Site) (w : SeWord) (s : State) : Out :=
  seCmd a (fenceForm w) w noExtra noWaits
    (fun e o c =>
      if c.fenceDone e a.thread c.seq w.sz.toNat then c.finish a.thread w.len o
      else c.mapTh a.thread (fun h => { h with stall := .fence w.sz w })) s

/-! ### Tokens -/

/-- A reserved bit of the operand value is 1. -/
def tokBad (v : Nat) : Bool := v / 64 != 0 || v.testBit 3

/-- The head of a queue that is a token marker has left it (R240). -/
def dropTokens {α : Type} (isToken : α → Bool) (l : List α) : List α := l.dropWhile isToken

def VeEntry.isToken : VeEntry → Bool | .token _ => true | _ => false
def MeEntry.isToken : MeEntry → Bool | .token _ => true | _ => false
def DeEntry.isToken : DeEntry → Bool | .token _ => true | _ => false

/-- The DE issue queue hands its DENQs to their queues, in order, and lets token markers at its head leave, until it
meets an ICINV, an ICPF or a wait marker (R240, R258). -/
def drainDe : List DeEntry → Core → Core
  | [], c => { c with de := { c.de with issue := [] } }
  | .token _ :: l, c => drainDe l c
  | .denq q r :: l, c => drainDe l (c.mapDq q (fun d => { d with descs := d.descs ++ [r] }))
  | x :: l, c => { c with de := { c.de with issue := x :: l } }

/-- Markers at the head of every queue leave (R240). -/
def Core.trim (c : Core) : Core :=
  let ve := { c.ve with q := dropTokens VeEntry.isToken c.ve.q }
  let me := { c.me with q := dropTokens MeEntry.isToken c.me.q }
  drainDe c.de.issue { c with ve := ve, me := me }

/-- A token marker enters a queue. -/
def Core.putToken (eng : BitVec 2) (id : Nat) (c : Core) : Core :=
  match eng.toNat with
  | 1 => { c with ve := { c.ve with q := c.ve.q ++ [.token id] } }
  | 2 => { c with me := { c.me with q := c.me.q ++ [.token id] } }
  | 3 => { c with de := { c.de with issue := c.de.issue ++ [.token id] } }
  | _ => c

/-- A wait marker enters a queue. -/
def Core.putWait (eng : BitVec 2) (id : Nat) (t : Fin 4) (c : Core) : Core :=
  match eng.toNat with
  | 1 => { c with ve := { c.ve with q := c.ve.q ++ [.wait id t] } }
  | 2 => { c with me := { c.me with q := c.me.q ++ [.wait id t] } }
  | 3 => { c with de := { c.de with issue := c.de.issue ++ [.wait id t] } }
  | _ => c

/-- Unpaired ETOKs of token `k` of thread `t`. -/
def Core.unpaired (c : Core) (t : Fin 4) (k : Fin 8) : List Nat := (c.th t).tokens[k]

/-- ETOK (R240, R241). -/
def execEtok (a : Site) (w : SeWord) (s : State) : Out :=
  seCmd a (tokForm w) w
    (fun _ c o =>
      let v := o.a.value c a.thread
      if tokBad v || decide (7 ≤ (c.unpaired a.thread (tokNum v)).length) then [exc 0x01 2 0 0] else [])
    (fun _ c o => !c.room (tokEng (o.a.value c a.thread)))
    (fun _ o c =>
      let v := o.a.value c a.thread
      let id := c.seq
      let mark : TokenMark := { id := id, thread := a.thread, eng := tokEng v, seq := id }
      let c := { c with marks := c.marks ++ [mark] }
      let c := c.mapTh a.thread (fun h => { h with tokens := h.tokens.set (tokNum v) (h.tokens[tokNum v] ++ [id]) })
      ((c.putToken (tokEng v) id).trim).finish a.thread w.len o) s

/-- Every access a token marker covers has been performed (R240). -/
def Core.markDone (e : Env) (c : Core) (m : TokenMark) : Bool :=
  match m.eng.toNat with
  | 0 => !c.seWrites m.thread m.seq
  | 1 => !c.veBusy m.thread m.seq
  | 2 => !c.meBusy m.thread m.seq
  | _ => !c.deLocalBusy e m.thread m.seq

/-- The oldest marker of a thread and an engine passes (R240). -/
def execTokenMarkerPass (core : BitVec 13) (thread : Fin 4) (eng : BitVec 2) (s : State) : Out :=
  onCore core (fun e c =>
    match c.marks.find? (fun m => decide (m.thread = thread ∧ m.eng = eng)) with
    | none => c
    | some m => if c.markDone e m then { c with marks := c.marks.filter (fun x => x.id != m.id) } else c) s

/-- The marker of an ETOK has passed. -/
def Core.passed (c : Core) (id : Nat) : Bool := !c.marks.any (fun m => m.id == id)

/-- EWAIT (R241). -/
def execEwait (a : Site) (w : SeWord) (s : State) : Out :=
  seCmd a (tokForm w) w
    (fun _ c o =>
      let v := o.a.value c a.thread
      if tokBad v || (c.unpaired a.thread (tokNum v)).isEmpty then [exc 0x01 2 0 0] else [])
    (fun _ c o => !c.room (tokEng (o.a.value c a.thread)))
    (fun _ o c =>
      let v := o.a.value c a.thread
      match c.unpaired a.thread (tokNum v) with
      | [] => c
      | id :: rest =>
        let c := c.mapTh a.thread (fun h => { h with tokens := h.tokens.set (tokNum v) rest })
        if tokEng v = 0 ∧ !c.passed id then c.mapTh a.thread (fun h => { h with stall := .ewait id w })
        else (c.putWait (tokEng v) id a.thread).finish a.thread w.len o) s

/-- A wait marker at the head of its queue leaves once its pair has passed, and an EWAIT of the SE completes (R241). -/
def execWaitMarkerRelease (core : BitVec 13) (thread : Fin 4) (eng : BitVec 2) (s : State) : Out :=
  onCore core (fun _ c =>
    match eng.toNat with
    | 0 =>
      match (c.th thread).stall with
      | .ewait id w => if c.passed id && !c.frozen then c.complete thread (tokForm w) w else c
      | _ => c
    | 1 =>
      match c.ve.q with
      | .wait id t :: q => if t = thread ∧ c.passed id then ({ c with ve := { c.ve with q := q } } : Core).trim else c
      | _ => c
    | 2 =>
      match c.me.q with
      | .wait id t :: q => if t = thread ∧ c.passed id then ({ c with me := { c.me with q := q } } : Core).trim else c
      | _ => c
    | _ =>
      match c.de.issue with
      | .wait id t :: q =>
        if t = thread ∧ c.passed id then ({ c with de := { c.de with issue := q } } : Core).trim else c
      | _ => c) s

/-! ### Range tracker -/

/-- Every access that a tracker entry covers has been performed (R236); that of an instruction that still waits has not. -/
def Core.trackDone (e : Env) (c : Core) (k : Track) : Bool :=
  !(c.th k.thread).fps.any (fun f => f.seq == k.seq) &&
    !c.ve.q.any (fun x => match x with | .insn o => o.seq == k.seq | _ => false) &&
    !c.ve.run.any (fun o => o.seq == k.seq) &&
    !c.me.q.any (fun x => match x with | .insn o => o.seq == k.seq | _ => false) &&
    !c.me.run.any (fun o => o.seq == k.seq) &&
    !c.de.issue.any (fun x => match x with | .denq _ r => r.entry == k.seq | _ => false) &&
    !(List.finRange 4).any (fun q => (c.de.q[q]).descs.any (fun r =>
      r.entry == k.seq && r.pending e 1)) &&
    !(decide ((c.th k.thread).stall ≠ .none) && (c.th k.thread).last == k.seq)

/-- A tracker entry is freed (R237). -/
def execTrackerEntryFree (core : BitVec 13) (idx : Nat) (s : State) : Out :=
  onCore core (fun e c =>
    match c.tracker[idx]? with
    | some k => if c.trackDone e k then { c with tracker := c.tracker.eraseIdx idx } else c
    | none => c) s

end Sys2Proof.Machine
end

