-- ==== Sys2Proof/Machine/Remote.lean ====
section
/-! DEFINITION. Remote reads and writes and tagged-slot instructions at the core that issues them (R84, R208, R209, R218
to R223). What a target does with an access that arrives stands in Arrival. -/

namespace Sys2Proof.Machine

/-- Nanoseconds a remote access may wait for its response (R209). -/
def remoteLimit : Nat := 65536

/-- The exceptions of a package-space element (R84): its core, its offset, its size and the operands they come from.
[DESIGN CHOICE: log entry 118] -/
def remoteExtra (e : Env) (core off bytes : Nat) (oc oo : BitVec 4) : List Exc :=
  (if off % bytes = 0 then [] else [exc 0x02 oo 0 off]) ++
  (if e.assigned (BitVec.ofNat 13 core) then [] else [exc 0x03 oc 0 off]) ++
  (if off < e.spmSize then [] else [exc 0x03 oo 0 off])

/-- An access leaves the core (R208, R248). -/
def Core.depart (e : Env) (who : RemoteUser) (target off : Nat) (kind : RemoteKind) (gen : Option (BitVec 8)) (c : Core) :
    Core :=
  c.mapSpm (fun m => { m with remote := m.remote ++
    [{ id := c.seq, who := who, target := BitVec.ofNat 13 target, offset := off, kind := kind, gen := gen, left := e.now,
       stage := .leaving, withdrawal := false, dead := false }] })

/-- The access `id` of this core. -/
def Spm.remoteOf (m : Spm) (id : Nat) : Option Remote := m.remote.find? (fun r => r.id == id)

/-- The access `id` with its answer, once that is the next to arrive from its target (R295). -/
def Spm.inTurnOf (m : Spm) (id : Nat) : Option (Remote × RemoteAnswer) :=
  match m.remoteOf id with
  | some r => match r.stage with | .answered a => if m.inTurn r then some (r, a) else none | _ => none
  | none => none

/-- The access `id` changed. -/
def Spm.mapRemote (m : Spm) (id : Nat) (f : Remote → Remote) : Spm :=
  { m with remote := m.remote.map (fun r => if r.id == id then f r else r) }

/-- The access `id` is over. -/
def Spm.endRemote (m : Spm) (id : Nat) : Spm := { m with remote := m.remote.filter (fun r => r.id != id) }

/-- Bytes are written to the scratchpad at the near port, with their poison and that of the words whose check fails (R198,
R202). -/
def Core.store (addr : Nat) (x : Payload) (found : List SpmFinding) (c : Core) : Core :=
  let out := [(addr, x.bytes.length)]
  ((c.mapSpm (fun m => m.put addr x)).unverified out found).granted .near out

/-- Bytes that arrive for a destination: written, with their poison, to the scratchpad; a register that would take
poison is the first consumer of it and raises ECC_UNCORRECTED (R203). [DEDUCED: log entry 22] -/
def Core.deliver (e : Env) (t : Fin 4) (f : Form) (w : SeWord) (x : Payload) (found : List SpmFinding) (c : Core) : Core :=
  let o := operands f w (c.th t).r
  match o.d.loc with
  | .mem addr => (c.store addr x found).complete t f w
  | _ =>
    if x.poison ≠ [] then c.endWait e t (exc 0x0A 1 0 0)
    else (c.writeDest t o.d.dest o.d.ty.bytes (leNat x.bytes)).complete t f w

/-- XLD (R84). A target that is the core itself acts as a local access. -/
def execXld (a : Site) (w : SeWord) (s : State) : Out :=
  let core (c : Core) (o : Operands) : Nat := o.a.value c a.thread % 2 ^ 13
  let off (c : Core) (o : Operands) : Nat := o.b.value c a.thread % 2 ^ 22
  seCmd a (xldForm w) w
    (fun e c o => remoteExtra e (core c o) (off c o) o.d.ty.bytes 2 3)
    (fun e c o => c.xldWaits e a.thread o)
    (fun e o c =>
      if core c o = e.id.toNat then
        let from_ := [(off c o, o.d.ty.bytes)]
        let c := (c.meet from_ a.found).granted .near from_
        c.deliver e a.thread (xldForm w) w (c.spm.get (off c o) o.d.ty.bytes) a.found
      else
        ((c.depart e (.xld a.thread) (core c o) (off c o) (.read o.d.ty.bytes) none).trackDest a.thread o.d).mapTh a.thread
          (fun h => { h with stall := .xld c.seq w })) s

/-- The end of an XLD: the element is written, or the refusal is taken precisely (R84, R211).
[DEDUCED: log entry 22] -/
def Core.endXld (e : Env) (t : Fin 4) (w : SeWord) (r : Remote) (a : RemoteAnswer) (found : List SpmFinding) (c : Core) : Core :=
  let c := c.mapSpm (fun m => m.endRemote r.id)
  match a with
  | .data x => c.deliver e t (xldForm w) w x found
  | .quarantine => c.endWait e t (quarantineFault r.target r.offset)
  | _ => c.endWait e t (gateFault r.target r.offset)

/-- The element of an XLD returns. -/
def execXldResponse (a : Site) (s : State) (flit : FlitFinding := .intact) : Out :=
  let id := match ((s.core a.core).th a.thread).stall with | .xld id _ => id | _ => 0
  onCore a.core (fun e c =>
    match (c.th a.thread).stall with
    | .xld id w =>
      match c.spm.inTurnOf id with
      | some (r, x) => c.endXld e a.thread w r x a.found
      | none => c
    | _ => c) (s.takeResponseFlit a.core id flit)

/-- XST (R84). The thread goes on once the write has left. -/
def execXst (a : Site) (w : SeWord) (s : State) : Out :=
  let core (c : Core) (o : Operands) : Nat := o.d.value c a.thread % 2 ^ 13
  let off (c : Core) (o : Operands) : Nat := o.a.value c a.thread % 2 ^ 22
  seCmd a (xstForm w) w
    (fun e c o => remoteExtra e (core c o) (off c o) o.b.ty.bytes 1 2)
    (fun e c o => c.xstWaits e a.thread o)
    (fun e o c =>
      let data := leBytes o.b.ty.bytes (o.b.value c a.thread)
      if core c o = e.id.toNat then
        (c.store (off c o) (.clean data) a.found).finish a.thread w.len o
      else (c.depart e (.xst a.thread) (core c o) (off c o) (.write (.clean data)) none).finish a.thread w.len o) s

/-- The exception a refused or unanswered write raises in its thread (R211, R498). -/
def writeFault (r : Remote) (a : RemoteAnswer) : Option Exc :=
  match a with
  | .quarantine => some (quarantineFault r.target r.offset)
  | .gate | .otherJob => some (gateFault r.target r.offset)
  | _ => none

/-- The acknowledgement or refusal of an XST returns. -/
def execXstAck (core : BitVec 13) (id : Nat) (s : State) (flit : FlitFinding := .intact) : Out :=
  onCore core (fun _ c =>
    match c.spm.inTurnOf id with
    | some (r, x) =>
      match r.who with
      | .xst t =>
        let c := c.mapSpm (fun m => m.endRemote id)
        match (if r.dead then none else writeFault r x) with
        | some f => c.arrive t f
        | none => c
      | _ => c
    | none => c) (s.takeResponseFlit core id flit)

/-! ### Tagged slots -/

/-- A slot number that names no slot of the module raises SPM_BOUND; a local slot outside an open tagged gate raises
GATE_FAULT (R218). [DESIGN CHOICE: log entry 118] -/
def slotExtra (e : Env) (store : Bool) (c : Core) (t : Fin 4) (o : Operands) : List Exc :=
  let n := slotNum store c t o
  let seg := slotSeg n
  if n / 2 ^ 29 ≠ 0 ∨ ¬ e.assigned (BitVec.ofNat 13 (slotCore n)) ∨ e.spmSize ≤ 64 * seg then
    [exc 0x03 (if store then 1 else 2) 0 (64 * seg)]
  else if slotCore n = e.id.toNat ∧ ¬ c.spm.slotOpen seg then [gateFault e.id (64 * seg)]
  else []

/-- The status of a non-blocking access: QOT 0 done or 1 not done, and REM 0 (R223). -/
def Core.slotStatus (t : Fin 4) (w : SeWord) (notDone : Bool) (c : Core) : Core :=
  if blocks w then c
  else c.mapR t (fun r => { r with qot := if notDone then 1 else 0, rem := 0 })

/-- An SLD or SST completes, with the bytes of a load written to d. -/
def Core.endSlot (e : Env) (t : Fin 4) (store : Bool) (w : SeWord) (notDone : Bool) (x : Payload)
    (found : List SpmFinding) (c : Core) : Core :=
  let o := operands (slotForm store w) w (c.th t).r
  let c := if (c.th t).st = .waiting then c.setSt e t .running else c
  let c := match o.d.loc with
    | .mem addr => if store || notDone then c else c.store addr x found
    | _ => c
  (c.slotStatus t w notDone).complete t (slotForm store w) w

/-- A served access of a slot has its data move: a store writes the slot, a load reads it (R219). -/
def Spm.moveSlot (m : Spm) (seg : Nat) (store : Bool) (x : Payload) : Spm :=
  if store then m.put (64 * seg) x else m

/-- The data of a slot. -/
def Spm.slotData (m : Spm) (seg : Nat) : Payload := m.get (64 * seg) 64

/-- When a wait that begins now is over (R222): TICKS ticks later; 0 removes the limit. -/
def Core.slotDeadline (e : Env) (c : Core) : Option Nat :=
  if c.spm.tagTimeout = 0 then none else some (e.now + c.spm.tagTimeout.toNat)

/-- The destination of an SLD that waits takes its tracker entry (R236). -/
def Core.trackLoad (t : Fin 4) (store : Bool) (w : SeWord) (c : Core) : Core :=
  if store then c else c.trackDest t (operands (sldForm w) w (c.th t).r).d

/-- A local access of a slot: served at once with its data move, or it waits, or it is not done (R219, R220, R223). What an
SST brings was read at issue. [DESIGN CHOICE: log entry 23] [DEDUCED: log entry 114] -/
def Core.localSlot (e : Env) (t : Fin 4) (store : Bool) (seg : Nat) (w : SeWord) (src : Payload) (deadline : Option Nat)
    (found : List SpmFinding) (c : Core) : Core :=
  let x : SlotWait := { seg := seg, who := .thread t, store := store, data := src }
  if c.spm.servesNow seg store then
    let slot := [(64 * seg, 64)]
    let c := if store then c else c.meet slot found
    let d := c.spm.slotData seg
    let c := c.mapSpm (fun m => { (m.serve x src).moveSlot seg store src with moves := m.moves })
    let c := (if store then c.unverified slot found else c).granted .near slot
    c.endSlot e t store w false d found
  else if blocks w then
    (((c.trackLoad t store w).mapSpm (fun m => m.park x)).mapTh t (fun h => { h with stall := .slot seg store w deadline })).setSt e t .waiting
  else c.endSlot e t store w true .empty []

/-- A tagged access goes to its slot, local or remote (R218 to R221). Only a blocking one waits in the state WAITING (Table
4-1). -/
def Core.slotGo (e : Env) (t : Fin 4) (store : Bool) (n : Nat) (w : SeWord) (src : Payload) (deadline : Option Nat)
    (found : List SpmFinding) (c : Core) : Core :=
  let seg := slotSeg n
  if slotCore n = e.id.toNat then c.localSlot e t store seg w src deadline found
  else
    let gen := if store && c.de.sgenValid[t] then some c.de.sgen[t] else none
    let kind := if store then RemoteKind.sst (blocks w) src else .sld (blocks w)
    let c := ((c.depart e (.tag t) (slotCore n) (64 * seg) kind gen).trackLoad t store w).mapTh t
      (fun h => { h with stall := .slotRemote c.seq store w (if blocks w then deadline else none) })
    if blocks w then c.setSt e t .waiting else c

/-- SLD and SST (R218 to R223). An SST acts as a release of package scope: it goes to its slot once the thread's earlier accesses
have been performed (R224, R246). [DEDUCED: log entry 114] [DESIGN CHOICE: log entry 115] -/
def slotCmd (store : Bool) (a : Site) (w : SeWord) (s : State) : Out :=
  seCmd a (slotForm store w) w (fun e c o => slotExtra e store c a.thread o)
    (fun e c o => c.slotWaits e a.thread store (slotNum store c a.thread o) w)
    (fun e o c =>
      let n := slotNum store c a.thread o
      let src := match store, o.a.loc with | true, .mem x => c.spm.get x 64 | _, _ => .empty
      let due := c.slotDeadline e
      if store && !c.fenceDone e a.thread c.seq 3 then
        c.mapTh a.thread (fun h => { h with stall := .storing n src w (if blocks w then due else none) })
      else
        c.slotGo e a.thread store n w src due a.found) s

/-- SLD. [DEDUCED: log entry 20] -/
def execSld (a : Site) (w : SeWord) (s : State) : Out := slotCmd false a w s

/-- SST. [DEDUCED: log entries 20, 22] -/
def execSst (a : Site) (w : SeWord) (s : State) : Out := slotCmd true a w s

/-- A move of a served access is performed, at the near port for a thread's and at the inbound port for another core's: the slot's
bytes are written or read, and the access completes (R202, R203, R220). -/
def Core.moveDone (e : Env) (p : SlotWait × Payload) (found : List SpmFinding) (c : Core) : Core :=
  let x := p.1
  let slot := [(64 * x.seg, 64)]
  let c := (if x.store then c else c.meet slot found).granted (match x.who with | .remote _ _ => .inbound | _ => .near) slot
  let d := c.spm.slotData x.seg
  let c := c.mapSpm (fun m => { m.moveSlot x.seg x.store p.2 with moves := m.moves.filter (fun q => q.1.seg != x.seg) })
  let c := if x.store then c.unverified slot found else c
  match x.who with
  | .thread t =>
    match (c.th t).stall with
    | .slotMove _ store w => c.endSlot e t store w false d found
    | _ => c
  | .remote core id => c.answer core id (if x.store then .done else .data d)
  | .fill _ => c

/-- The data move of the slot's served access is granted: a load reads the slot, a store writes it (R202, R203). -/
def execTagDataMove (core : BitVec 13) (seg : BitVec 16) (s : State) (found : List SpmFinding := []) : Out :=
  onCore core (fun e c =>
    match c.spm.moves.find? (fun p => p.1.seg == seg.toNat) with
    | some p => if c.frozen then c else c.moveDone e p found
    | none => c) s

/-- A blocking access ran past its limit (R222): a local wait ends with TAG_TIMEOUT; for a remote slot a withdrawal leaves
for the target. [DEDUCED: log entry 21] -/
def Core.tagTimeout (e : Env) (t : Fin 4) (c : Core) : Core :=
  match (c.th t).stall with
  | .slot seg _ _ (some d) =>
    if d ≤ e.now ∧ ¬ c.frozen then
      (c.mapSpm (fun m => m.unpark (.thread t))).endWait e t (exc 0x05 0 0 (64 * seg))
    else c
  | .storing n _ _ (some d) =>
    if d ≤ e.now ∧ ¬ c.frozen then
      let x := exc 0x05 0 0 (64 * slotSeg n)
      c.endWait e t (if slotCore n = e.id.toNat then x
        else { x with eng := 5, target := BitVec.ofNat 13 (slotCore n), unit := 0 })
    else c
  | .slotRemote id _ _ (some d) =>
    if d ≤ e.now then
      c.mapSpm (fun m => m.mapRemote id (fun r => if r.withdrawal then r else { r with withdrawal := true, left := e.now }))
    else c
  | _ => c

/-- The moment a thread's blocking access runs past its limit. -/
def Thread.tagDue (h : Thread) : Option Nat :=
  match h.stall with
  | .slot _ _ _ d | .slotRemote _ _ _ d | .storing _ _ _ d => d
  | _ => none

/-- TAG_TIMEOUT: the time base reaches the end of the wait. [DEDUCED: log entry 21] -/
def execTagTimeout (a : Site) (s : State) : Out :=
  match ((s.core a.core).th a.thread).tagDue with
  | some d => onCore a.core (fun e c => c.tagTimeout e a.thread) (s.wait d)
  | none => .next s

/-- TAG_TIMEOUT of a remote slot (R222). -/
def tagTimeoutFault (r : Remote) : Exc :=
  { cause := 0x05, opid := 0, eng := 5, target := r.target, addr := BitVec.ofNat 32 r.offset, unit := 0 }

/-- The wait of a thread that was asked to stop is abandoned with no effect; the stop follows (R105, R225). -/
def Core.abandonWait (t : Fin 4) (c : Core) : Core := c.mapTh t (fun h => { h with stall := .none })

/-- The answer to a remote tagged access ends its wait (R219, R221, R222, R223, R225). -/
def Core.endRemoteSlot (e : Env) (t : Fin 4) (store : Bool) (w : SeWord) (r : Remote) (a : RemoteAnswer)
    (found : List SpmFinding) (c : Core) : Core :=
  let c' := c.mapSpm (fun m => m.endRemote r.id)
  match a with
  | .data x => c'.endSlot e t store w false x found
  | .done | .ecc => c'.endSlot e t store w false .empty []
  | .notDone => c'.endSlot e t store w true .empty []
  | .quarantine => c'.endWait e t (quarantineFault r.target r.offset)
  | .gate | .otherJob => c'.endWait e t (gateFault r.target r.offset)
  | .withdrawn =>
    if (c.th t).stopAsked || (c.th t).haltAsked != 0 then c'.abandonWait t else c'.endWait e t (tagTimeoutFault r)
  | .retry => c

/-- The response of a remote tagged access returns. -/
def execRemoteTagResponse (a : Site) (s : State) (flit : FlitFinding := .intact) : Out :=
  let id := match ((s.core a.core).th a.thread).stall with | .slotRemote id _ _ _ => id | _ => 0
  onCore a.core (fun e c =>
    match (c.th a.thread).stall with
    | .slotRemote id store w _ =>
      match c.spm.inTurnOf id with
      | some (r, x) => c.endRemoteSlot e a.thread store w r x a.found
      | none => c
    | _ => c) (s.takeResponseFlit a.core id flit)

/-- An access that was answered RETRY is sent again (R221). It leaves behind every access that left before it (R234, R248). -/
def Spm.resend (m : Spm) (id : Nat) : Spm :=
  match m.remoteOf id with
  | some r => if r.stage = .answered .retry then { m.endRemote id with remote := (m.endRemote id).remote ++ [{ r with stage := .leaving }] } else m
  | none => m

/-- TAG_RETRY_RESEND: 256 cycles after a RETRY. -/
def execTagRetryResend (a : Site) (s : State) : Out :=
  onCore a.core (fun _ c =>
    match (c.th a.thread).stall with
    | .slotRemote id _ _ _ => c.mapSpm (fun m => m.resend id)
    | _ => c) s

/-- An access that may have no answer in time (R209, R222): a blocking tagged access only once its withdrawal has left, a
completion fill only while it is not parked. -/
def Remote.mayExpire (r : Remote) : Bool :=
  !r.dead &&
    (match r.stage with | .answered _ => false | _ => true) &&
    (match r.who, r.kind with
      | .xld _, _ | .xst _, _ | .dma _ _, _ => true
      | .tag _, .sld b | .tag _, .sst b _ => !b || r.withdrawal
      | .fill _ _, _ => decide (r.stage = .leaving ∨ r.stage = .lost)
      | _, _ => false)

/-- REMOTE_TIMEOUT is raised for an access; what comes back for it later is dropped (R209).
[DESIGN CHOICE: log entry 24] -/
def Core.expire (e : Env) (r : Remote) (c : Core) : Core :=
  let c := c.mapSpm (fun m => m.mapRemote r.id (fun r => { r with dead := true }))
  let x := timeoutFault r.target r.offset
  match r.who with
  | .xst t => c.arrive t x
  | .xld t | .tag t => c.endWait e t x
  | .dma q _ => (c.mapSpm (fun m => m.endRemote r.id)).setAnswer q r.id (.timeout r.target) .empty
  | .fill q _ => (c.mapSpm (fun m => m.endRemote r.id)).fillRefused q x

/-- REMOTE_TIMEOUT: 65,536 ticks after the access left. -/
def execRemoteTimeout (core : BitVec 13) (id : Nat) (s : State) : Out :=
  match (s.core core).spm.remoteOf id with
  | some r =>
    if r.mayExpire then onCore core (fun e c => c.expire e r) (s.wait (r.left + remoteLimit)) else .next s
  | none => .next s

end Sys2Proof.Machine
end

