-- ==== Sys2Proof/Machine/Csr.lean ====
section
/-! DEFINITION. Every control and status register of a core: what CSRR reads and what CSRW writes (Table 3-11 and the
tables it names). -/

namespace Sys2Proof.Machine

/-! ### Views -/

/-- TCFGn as its register (Table 6-1). -/
def Tcfg.reg (g : Tcfg) : Nat :=
  b2n g.inuse * 2 ^ 31 + g.scl.toNat * 2 ^ 22 + g.colm1.toNat * 2 ^ 12 + g.rowm1.toNat * 16 + g.fmt.toNat

/-- TCFGn after a write of a value: the tile is no longer in use (R164). -/
def Tcfg.ofReg (v : Nat) : Tcfg :=
  { inuse := false, scl := BitVec.ofNat 2 (v / 2 ^ 22), colm1 := BitVec.ofNat 10 (v / 2 ^ 12),
    rowm1 := BitVec.ofNat 5 (v / 16), fmt := BitVec.ofNat 4 v }

/-- Element width and largest column count of a tile format (Table 6-2). -/
def tileFmt (f : BitVec 4) : Option (Nat × Nat) :=
  match f.toNat with
  | 0 | 4 => some (4, 512)
  | 1 | 5 | 6 | 7 => some (8, 256)
  | 8 => some (16, 128)
  | 9 => some (32, 64)
  | _ => none

/-- The values a CSRW may leave in TCFGn (R162). -/
def Tcfg.ok (g : Tcfg) : Bool :=
  g.scl != 3 &&
    (if g.fmt = 0xF then g.scl == 0 && g.colm1 == 0 && g.rowm1 == 0
     else match tileFmt g.fmt with
       | none => false
       | some (_, most) => decide (g.colm1.toNat + 1 ≤ most) && (g.fmt != 9 || g.scl == 0))

/-- THSTATE (Table 4-5). -/
def Core.thstate (c : Core) : Nat :=
  ((List.finRange 4).map (fun t => (b2n (c.th t).x.prio * 8 + (c.th t).st.code) * 2 ^ (4 * t.val))).sum

/-- KIND and OBJ of one thread in WAITOBJ (Table 4-5). -/
def Core.waitobj1 (c : Core) (t : Fin 4) : Nat :=
  if (c.th t).st = .waiting then
    match (c.th t).stall with
    | .runner n _ _ => 64 + n.val
    | .event n _ _ => 128 + n.val
    | .slot seg _ _ _ | .slotMove seg _ _ =>
      192 + match c.spm.gateOf (64 * seg) 64 with | some i => i.val | none => 0
    | .slotRemote _ _ _ _ => 192 + 63
    | _ => 0
  else 0

/-- WAITOBJ. -/
def Core.waitobj (c : Core) : Nat := ((List.finRange 4).map (fun t => c.waitobj1 t * 2 ^ (8 * t.val))).sum

/-- A thread waits on the runner. -/
def Runner.waited (r : Runner) : Bool := !r.sendWait.isEmpty || !r.recvWait.isEmpty

/-- RNSTAT. -/
def Core.rnstat (c : Core) : Nat :=
  ((List.finRange 8).map (fun n =>
    (b2n c.runners[n].waited * 8 + c.runners[n].words.length) * 2 ^ (4 * n.val))).sum

/-- RNCTLn without FLUSH. -/
def Runner.ctl (r : Runner) : Nat := b2n r.en * 2 ^ 16 + r.send.toNat * 256 + r.recv.toNat

/-- The ticks the event timer has left (R116). -/
def Events.left (v : Events) (now : Nat) : Nat := if v.tmrEn then min v.tmrCnt.toNat (v.tmrDue - now) else v.tmrCnt.toNat

/-- ETOKCNTt: the unpaired ETOKs of each token (Table 17-11). -/
def Thread.etokcnt (h : Thread) : Nat :=
  ((List.finRange 8).map (fun k => h.tokens[k].length * 2 ^ (3 * k.val))).sum

/-! ### Read -/

/-- What a read of a CSR does. -/
structure CsrRead where
  value : Nat
  core : Core

/-- A thread CSR of Table 3-12. -/
def threadCsr (h : Thread) (t : Fin 4) (num : Nat) : Nat :=
  match num with
  | 0x100 => h.x.status.toNat
  | 0x101 => h.x.cause.toNat
  | 0x102 => h.x.detail.toNat
  | 0x103 => h.x.pc.toNat
  | 0x104 => h.x.addr.toNat
  | 0x105 => h.x.vec.toNat
  | 0x106 => h.r.ldepth.toNat
  | 0x107 => t.val
  | n =>
    if n < 0x10C then h.r.ls[Fin.ofNat 4 n].toNat
    else if n < 0x110 then h.r.le[Fin.ofNat 4 n].toNat
    else h.r.lc[Fin.ofNat 4 n].toNat

/-- A register of converter stream `i` at an offset (Table 2-11). -/
def streamCsr (s : Stream) (off : Nat) : Nat :=
  match off with
  | 0 => b2n s.stochastic
  | 1 => s.seed.toNat
  | 2 | 3 => s.rmax.toNat
  | 4 => s.sat.toNat
  | _ => 0

/-- Stream `i` changed. -/
def Core.mapStream (i : Fin 6) (f : Stream → Stream) (c : Core) : Core :=
  { c with streams := c.streams.set i (f c.streams[i]) }

/-- A DE or instruction-cache CSR (Table 9-7); a number of the range that is not listed reads 0. -/
def deCsr (c : Core) (num : Nat) : Nat :=
  if num < 0x240 then
    let q : Fin 4 := Fin.ofNat 4 (num / 16)
    let d := c.de.q[q]
    match num % 16 with
    | 0 => b2n d.high * 256
    | 1 => c.dqStat q
    | 2 => d.done.toNat
    | 3 => d.errCode.toNat * 2 ^ 24 + d.errOpid.toNat * 2 ^ 20
    | 4 => d.errAddr.toNat
    | 5 => d.errTag.toNat
    | _ => 0
  else if num = 0x2E0 then c.de.wdis.toNat * 16 + c.de.lock.toNat
  else if num = 0x2E1 then c.de.icseed.toNat
  else if num = 0x2E2 then ((List.finRange 4).map (fun w => c.de.icerr[w].toNat * 16 ^ w.val)).sum
  else if 0x2F0 ≤ num ∧ num < 0x2F4 then
    let t : Fin 4 := Fin.ofNat 4 num
    b2n c.de.sgenValid[t] * 256 + c.de.sgen[t].toNat
  else 0

/-- BPn_CTL. -/
def Breakpoint.ctl (b : Breakpoint) : Nat :=
  b2n b.en * 2 ^ 31 + b2n b.halt * 2 ^ 10 + b2n b.trstop * 512 + b2n b.trstart * 256 + b.threads.toNat

/-- WPw_CTL. -/
def Watchpoint.ctl (p : Watchpoint) : Nat :=
  b2n p.en * 2 ^ 31 + b2n p.rd * 2 ^ 30 + b2n p.wr * 2 ^ 29 + p.threads.toNat

/-- A debug CSR (Table 17-11), or none where the table lists no register. -/
def dbgCsr (c : Core) (num : Nat) : Option Nat :=
  let d := c.dbg
  match num with
  | 0x300 => some (b2n d.attached * 2 ^ 31 + b2n d.haltall * 8 + b2n d.xtrig * 4 + b2n d.trwrap * 2 + b2n d.tren)
  | 0x301 => some ((List.finRange 4).map (fun t => d.stat[t].toNat * 16 ^ t.val)).sum
  | 0x320 => some d.trbase.toNat
  | 0x321 => some d.trlimit.toNat
  | 0x322 => some d.trptr.toNat
  | 0x323 => some d.trlost.toNat
  | 0x324 => some d.trsel.toNat
  | n =>
    if 0x302 ≤ n ∧ n ≤ 0x305 then some (c.th (Fin.ofNat 4 (n - 0x302))).etokcnt
    else if 0x308 ≤ n ∧ n ≤ 0x30B then some d.pc[Fin.ofNat 4 (n - 0x308)].toNat
    else if 0x310 ≤ n ∧ n ≤ 0x317 then
      let b := d.bp[Fin.ofNat 4 ((n - 0x310) / 2)]
      some (if n % 2 = 0 then b.addr.toNat else b.ctl)
    else if 0x318 ≤ n ∧ n ≤ 0x31F then
      let p := d.wp[Fin.ofNat 2 ((n - 0x318) / 4)]
      match n % 4 with
      | 0 => some p.base.toNat
      | 1 => some p.limit.toNat
      | 2 => some p.ctl
      | _ => none
    else none

/-- A number that Table 3-11 and the owning tables assign (R91). -/
def csrAssigned (c : Core) (num : Nat) : Bool :=
  decide (num ≤ 0x009) || decide (0x010 ≤ num ∧ num ≤ 0x019) || decide (0x040 ≤ num ∧ num ≤ 0x09F) ||
    decide (0x0A0 ≤ num ∧ num ≤ 0x0C0) || decide (0x0C8 ≤ num ∧ num ≤ 0x0F7) || decide (0x100 ≤ num ∧ num ≤ 0x113) ||
    decide (0x200 ≤ num ∧ num ≤ 0x2FF) || (dbgCsr c num).isSome

/-- The value a read of an assigned CSR returns to thread `t`. -/
def csrValue (e : Env) (t : Fin 4) (num : Nat) (c : Core) : Nat :=
  if num < 0x010 then
    match num with
    | 0 => e.id.toNat
    | 1 => 32 * e.perDie
    | 2 => e.spmSize
    | 3 => b2n c.queued
    | 4 => c.phase.toNat
    | 5 => c.spm.tagTimeout.toNat
    | 6 => (c.cycleNow e).toNat % 2 ^ 32
    | 7 => (c.th t).r.cycleHi.toNat
    | 8 => e.now % 2 ^ 32
    | _ => (c.th t).r.timeHi.toNat
  else if num < 0x018 then c.me.cfg[Fin.ofNat 8 num].reg
  else if num = 0x018 then c.ve.vlen.toNat
  else if num = 0x019 then b2n c.ve.restr * 2 ^ 31 + b2n c.ve.ret * 2 ^ 30 + c.ve.log.toNat
  else if num < 0x080 then
    let g := c.spm.gates[Fin.ofNat 16 ((num - 0x040) / 4)]
    match num % 4 with
    | 0 => g.base.toNat
    | 1 => g.limit.toNat
    | 2 => g.ctl
    | _ => g.stat
  else if num < 0x0A0 then
    match num with
    | 0x080 => c.thstate
    | 0x081 => c.waitobj
    | 0x090 => c.rnstat
    | 0x091 => c.events.ovf.toNat
    | 0x092 => b2n c.events.tmrEn * 2 ^ 31 + c.events.tmrEv.toNat
    | 0x093 => c.events.left e.now
    | n => if 0x088 ≤ n ∧ n ≤ 0x08F then c.runners[Fin.ofNat 8 n].ctl else 0
  else if num < 0x0C0 then (c.events.ev[Fin.ofNat 32 num]).toNat
  else if num = 0x0C0 then c.fpflags.toNat
  else if num < 0x0F8 then streamCsr c.streams[Fin.ofNat 6 ((num - 0x0C8) / 8)] ((num - 0x0C8) % 8)
  else if num < 0x114 then threadCsr (c.th t) t num
  else if num < 0x300 then deCsr c num
  else (dbgCsr c num).getD 0

/-- What a read of an assigned CSR changes: the latches of CYCLE_LO and TIME_LO and the RC fields. -/
def csrReadEffect (e : Env) (t : Fin 4) (num : Nat) (c : Core) : Core :=
  if num = 0x006 then
    let v := c.cycleNow e
    { c with cycle := v }.mapR t (fun r => { r with cycleHi := BitVec.ofNat 32 (v.toNat / 2 ^ 32) })
  else if num = 0x008 then c.mapR t (fun r => { r with timeHi := BitVec.ofNat 32 (e.now / 2 ^ 32) })
  else if 0x0C8 ≤ num ∧ num < 0x0F8 then
    let i : Fin 6 := Fin.ofNat 6 ((num - 0x0C8) / 8)
    match (num - 0x0C8) % 8 with
    | 3 => c.mapStream i (fun s => { s with rmax := 0 })
    | 4 => c.mapStream i (fun s => { s with sat := 0 })
    | _ => c
  else if num = 0x323 then { c with dbg := { c.dbg with trlost := 0 } }
  else c

/-! ### Write -/

/-- The value a CSRW leaves in RW fields whose old value is `old` (R91). -/
def csrMerge (mod : BitVec 2) (old v : Nat) : Nat :=
  match mod.toNat with
  | 1 => old ||| v
  | 2 => old &&& ((2 ^ 32 - 1) ^^^ v)
  | _ => v

/-- What a CSRW comes to. -/
inductive CsrAct
  /-- It raises an exception, with no state changed. -/
  | raises (x : Exc)
  /-- It has its effect. -/
  | done (c : Core)
  /-- It has issued and waits. -/
  | stall (st : Stall) (c : Core)
  /-- It is not ready. -/
  | hold

/-- ILLEGAL_INSN for the value of a CSRW. -/
def illegalValue : CsrAct := .raises (exc 0x01 3 0 0)

/-- An ME operation that names tile `n` waits or runs. -/
def Me.uses (m : Me) (n : Fin 8) : Bool :=
  m.q.any (fun x => match x with | .insn o => o.names n | _ => false) || m.run.any (fun o => o.names n)

/-- The latches that hold a word of tile `n` are invalid (R187). -/
def Me.unlatch (m : Me) (n : Fin 8) : Me :=
  let f (l : Option Latch) : Option Latch := l.filter (fun x => decide (x.tile ≠ n))
  { m with latchA := m.latchA.map f, latchB := m.latchB.map f }

/-- Tile `n` is cleared: its in-use flag is 0, so that it reads as zero, its banks are gated, and a plane that holds it
is released (R164, R172); its latches are invalid (R187). -/
def Me.clearTile (m : Me) (n : Fin 8) : Me :=
  let m := m.unlatch n
  let out (lo len k : Nat) : Bool := decide (k < lo ∨ lo + len ≤ k)
  { m with
    tiles := m.tiles.filter (fun x => out (8192 * n.val) 8192 x.1)
    side := m.side.filter (fun x => out (512 * n.val) 512 x.1)
    tpoison := m.tpoison.filter (out (1024 * n.val) 1024)
    spoison := m.spoison.filter (out (64 * n.val) 64)
    retained := m.retained.filter (out (5 * n.val) 5)
    cfg := m.cfg.set n { m.cfg[n] with inuse := false }
    planes := m.planes.map (fun p => if p = some n then none else p) }

/-- TCFGn takes its new value and the tile is cleared (R166 step 3). -/
def Me.reconfigure (m : Me) (n : Fin 8) (g : Tcfg) : Me :=
  let m := m.clearTile n
  { m with cfg := m.cfg.set n { g with inuse := false } }

/-- A vector conversion of stream `i` is in progress (R59). -/
def Ve.converting (v : Ve) (i : Nat) : Bool :=
  v.run.any (fun o => decide (o.opc = .vcvt) && b2n (o.w.ext.getLsbD 31) == i)

/-- A descriptor of queue `q` that converts is in progress. -/
def Core.dqConverting (c : Core) (q : Fin 4) : Bool :=
  (c.de.q[q]).descs.any (fun r => r.started && !r.over && (r.d.words[(0 : Fin 16)]).getLsbD 27)

/-- Stream `i` is in use by work in progress (R59). -/
def Core.streamBusy (c : Core) (i : Fin 6) : Bool :=
  if i.val < 2 then c.ve.converting i.val else c.dqConverting (Fin.ofNat 4 (i.val - 2))

/-- A CSRW waits for stream `i`: nothing further starts on it (R59). -/
def Core.streamHeld (c : Core) (i : Fin 6) : Bool :=
  !c.allTh (fun h => match h.stall with | .stream j _ _ _ => j != i | _ => true)

/-- CVCTL (`seed` false) or CVSEED of a stream takes a written value; RMODE 2 and 3 are ignored whole (Table 2-11), and
a seed of 0 loads 1 (R55). -/
def Stream.set (s : Stream) (seed : Bool) (mod : BitVec 2) (v : Nat) : Stream :=
  if seed then
    let m : Word := BitVec.ofNat 32 (csrMerge mod s.seed.toNat v)
    { s with seed := if m = 0 then 1 else m }
  else
    let m := csrMerge mod (b2n s.stochastic) v % 4
    if m = 0 then { s with stochastic := false } else if m = 1 then { s with stochastic := true } else s

/-- RUNNER_MISUSE of a CSRW. -/
def misuse : Exc := exc 0x12 3 0 0

/-- A CSRW to RNCTLn (R112). -/
def writeRnctl (n : Fin 8) (mod : BitVec 2) (v : Nat) (c : Core) : CsrAct :=
  let r := c.runners[n]
  let m := csrMerge mod r.ctl v
  let flush := m.testBit 24
  let en := m.testBit 16
  let sd := BitVec.ofNat 4 (m / 256)
  let rv := BitVec.ofNat 4 m
  let changes := en != r.en || sd != r.send || rv != r.recv
  if (r.waited && (changes || flush)) || (!r.words.isEmpty && changes && !flush) then .raises misuse
  else
    let r' := { r with en := en, send := sd, recv := rv, words := if flush then [] else r.words }
    .done { c with runners := c.runners.set n r' }

/-- The event timer set to run or not, with a count (R116). -/
def Events.arm (v : Events) (now : Nat) (en : Bool) (ev : BitVec 5) (cnt : Nat) : Events :=
  { v with tmrEn := en, tmrEv := ev, tmrCnt := BitVec.ofNat 32 cnt, tmrDue := now + max 1 cnt }

/-- The event counters changed. -/
def Core.setEvents (v : Events) (c : Core) : Core := { c with events := v }

/-- A CSRW to GATEn_CTL (R213 to R215). [DESIGN CHOICE: log entry 150] -/
def writeGateCtl (e : Env) (i : Fin 16) (w : SeWord) (v : Nat) (c : Core) : CsrAct :=
  let g := c.spm.gates[i]
  let m := csrMerge w.mod g.ctl v
  let g' := g.setCtl m
  if g.closing then .hold
  else if !g.opened then
    if m.testBit 0 then
      if c.spm.mayOpen e.spmSize i g' then .done (c.mapSpm (fun s => s.openGate i g')) else illegalValue
    else .done (c.mapSpm (fun s => s.mapGate i (fun _ => g')))
  else if m.testBit 0 then
    if g' = g then .done c else illegalValue
  else
    let c := (c.mapSpm (fun s => s.mapGate i (fun g => { g with closing := true }))).releaseWaits e i
    if c.spm.settled i then .done (c.mapSpm (fun s => s.closeGate i m))
    else .stall (.gate i (BitVec.ofNat 32 m) w) c

/-- A CSRW to GATEn_BASE or GATEn_LIMIT (R214). -/
def writeGateReg (i : Fin 16) (limit : Bool) (mod : BitVec 2) (v : Nat) (c : Core) : CsrAct :=
  let g := c.spm.gates[i]
  let old := if limit then g.limit else g.base
  let new := BitVec.ofNat 22 (csrMerge mod old.toNat v)
  if new = old then .done c
  else if g.opened then illegalValue
  else .done (c.mapSpm (fun s => s.mapGate i (fun g => if limit then { g with limit := new } else { g with base := new })))

/-- A CSRW to TCFGn (R162, R166). -/
def writeTcfg (n : Fin 8) (w : SeWord) (v : Nat) (c : Core) : CsrAct :=
  if !c.allTh (fun h => match h.stall with | .tcfg k _ _ => k != n | _ => true) then .hold
  else
    let g := Tcfg.ofReg (csrMerge w.mod c.me.cfg[n].reg v)
    if !g.ok then illegalValue
    else if c.me.uses n then .stall (.tcfg n (BitVec.ofNat 32 g.reg) w) c
    else .done { c with me := c.me.reconfigure n g }

/-- A CSRW to a register of converter stream `i`. -/
def writeStream (i : Fin 6) (off : Nat) (w : SeWord) (v : Nat) (c : Core) : CsrAct :=
  if 2 ≤ off then .done c
  else if c.streamBusy i then .stall (.stream i (off == 1) (BitVec.ofNat 32 v) w) c
  else .done (c.mapStream i (fun s => s.set (off == 1) w.mod v))

/-- A CSRW to a thread CSR of Table 3-12. -/
def writeThreadCsr (t : Fin 4) (num : Nat) (mod : BitVec 2) (v : Nat) (c : Core) : Core :=
  let m := csrMerge mod (threadCsr (c.th t) t num) v
  let m32 := BitVec.ofNat 32 m
  match num with
  | 0x100 => c.mapX t (fun x => { x with sstep := m.testBit 4, prio := m.testBit 3 })
  | 0x101 => c.mapX t (fun x => { x with cause := BitVec.ofNat 8 m })
  | 0x102 => c.mapX t (fun x => { x with opid := BitVec.ofNat 4 (m / 2 ^ 28), eng := BitVec.ofNat 3 (m / 2 ^ 25),
                                         target := BitVec.ofNat 13 m })
  | 0x103 => c.mapX t (fun x => { x with pc := m32 })
  | 0x104 => c.mapX t (fun x => { x with addr := m32 })
  | 0x105 => c.mapX t (fun x => { x with vec := m32 &&& 0xFFFFFFFD })
  | 0x106 => if m % 8 ≤ 4 then c.mapR t (fun r => { r with ldepth := BitVec.ofNat 3 m }) else c
  | 0x107 => c
  | n =>
    if n < 0x10C then c.mapR t (fun r => { r with ls := r.ls.set (Fin.ofNat 4 n) m32 })
    else if n < 0x110 then c.mapR t (fun r => { r with le := r.le.set (Fin.ofNat 4 n) m32 })
    else c.mapR t (fun r => { r with lc := r.lc.set (Fin.ofNat 4 n) m32 })

/-- A CSRW to a DE or instruction-cache CSR (Table 9-7). -/
def writeDeCsr (num : Nat) (mod : BitVec 2) (v : Nat) (c : Core) : Core :=
  if num < 0x240 then
    let q : Fin 4 := Fin.ofNat 4 (num / 16)
    if num % 16 = 0 then
      let m := csrMerge mod (deCsr c num) v
      let c := c.mapDq q (fun d => { d with high := m.testBit 8 })
      if m.testBit 0 then c.dqFlush q else if m.testBit 1 then c.dqResume q else c
    else c
  else
    let m := csrMerge mod (deCsr c num) v
    if num = 0x2E0 then { c with de := { c.de with lock := BitVec.ofNat 3 m } }
    else if num = 0x2E1 then
      { c with de := { c.de with icseed := if m % 65536 = 0 then 1 else BitVec.ofNat 16 m } }
    else if 0x2F0 ≤ num ∧ num < 0x2F4 then
      let t : Fin 4 := Fin.ofNat 4 num
      { c with de := { c.de with sgenValid := c.de.sgenValid.set t (m.testBit 8),
                                 sgen := c.de.sgen.set t (BitVec.ofNat 8 m) } }
    else c

/-- The writes that wait for a converter stream take effect when its work in progress has completed (R59).
[DESIGN CHOICE: log entry 143] -/
def Core.settleStreams (c : Core) : Core :=
  (List.finRange 4).foldl (fun c t =>
    match (c.th t).stall with
    | .stream i seed v w =>
      if c.streamBusy i then c
      else (c.mapStream i (fun s => s.set seed w.mod v.toNat)).complete t (csrwForm w) w
    | _ => c) c

/-- A CSRW of value `v` by thread `t`, for a number that Table 3-11 assigns. -/
def csrWrite (e : Env) (t : Fin 4) (num : Nat) (w : SeWord) (v : Nat) (c : Core) : CsrAct :=
  if 0x300 ≤ num then illegalValue
  else if num < 0x010 then
    if num = 4 then
      let p := BitVec.ofNat 8 (csrMerge w.mod c.phase.toNat v)
      .done ({ c with phase := p }.trace e 3 6 t p.toNat (c.th t).r.pc.toNat 0)
    else if num = 5 then
      .done (c.mapSpm (fun m => { m with tagTimeout := BitVec.ofNat 32 (csrMerge w.mod m.tagTimeout.toNat v) }))
    else .done c
  else if num < 0x018 then writeTcfg (Fin.ofNat 8 num) w v c
  else if num = 0x018 then
    let m := csrMerge w.mod c.ve.vlen.toNat v % 4096
    .done { c with ve := { c.ve with vlen := if 0x800 < m then 0x800 else BitVec.ofNat 12 m } }
  else if num = 0x019 then
    let m := csrMerge w.mod c.ve.log.toNat v
    let ve := { c.ve with log := BitVec.ofNat 2 m }
    .done { c with ve := if m.testBit 29 then ve.wake else ve }
  else if num < 0x080 then
    let i : Fin 16 := Fin.ofNat 16 ((num - 0x040) / 4)
    match num % 4 with
    | 0 => writeGateReg i false w.mod v c
    | 1 => writeGateReg i true w.mod v c
    | 2 => writeGateCtl e i w v c
    | _ => .done c
  else if num < 0x0C0 then
    match num with
    | 0x091 => .done (c.setEvents { c.events with ovf := c.events.ovf &&& ~~~(BitVec.ofNat 32 v) })
    | 0x092 =>
      let m := csrMerge w.mod (csrValue e t 0x092 c) v
      let en := m.testBit 31
      let ev := BitVec.ofNat 5 m
      .done (c.setEvents (if en && c.events.tmrEn then { c.events with tmrEv := ev }
        else c.events.arm e.now en ev (c.events.left e.now)))
    | 0x093 =>
      .done (c.setEvents (c.events.arm e.now c.events.tmrEn c.events.tmrEv (csrMerge w.mod (c.events.left e.now) v)))
    | n => if 0x088 ≤ n ∧ n ≤ 0x08F then writeRnctl (Fin.ofNat 8 n) w.mod v c else .done c
  else if num = 0x0C0 then .done { c with fpflags := c.fpflags &&& ~~~(BitVec.ofNat 6 v) }
  else if num < 0x0F8 then writeStream (Fin.ofNat 6 ((num - 0x0C8) / 8)) ((num - 0x0C8) % 8) w v c
  else if num < 0x114 then .done (writeThreadCsr t num w.mod v c)
  else .done (writeDeCsr num w.mod v c).settleStreams

/-- The writes that wait for the ME to finish with their tile take effect, and their threads go on (R166). -/
def Core.settleTcfg (c : Core) : Core :=
  (List.finRange 4).foldl (fun c t =>
    match (c.th t).stall with
    | .tcfg n v w =>
      if c.me.uses n then c
      else ({ c with me := c.me.reconfigure n (Tcfg.ofReg v.toNat) } : Core).complete t (csrwForm w) w
    | _ => c) c

/-- The write that closes a gate completes (R215 step 4). -/
def Core.settleGate (i : Fin 16) (c : Core) : Core :=
  (List.finRange 4).foldl (fun c t =>
    match (c.th t).stall with
    | .gate j v w =>
      if j = i ∧ c.spm.settled i then
        (c.mapSpm (fun m => m.closeGate i v.toNat)).complete t (csrwForm w) w
      else c
    | _ => c) c

end Sys2Proof.Machine
end

