-- ==== Sys2Proof/Machine/Threads.lean ====
section
/-! DEFINITION. Thread control, runners, events, the deadlock detector, and exceptions as instructions take, return from
and deliver them (chapter 4, R96, R97, R523, R524). -/

namespace Sys2Proof.Machine

/-- Opcodes that share a code are told apart by MOD. A word whose MOD is another instruction's is not this command; a
reserved MOD is an illegal encoding of it. -/
def ofMod (k : Nat) (w : SeWord) (f : State → Out) (s : State) : Out :=
  if w.mod.toNat = k ∨ w.mod = 3 then f s else .next s

/-! ### Thread control -/

/-- ILLEGAL_INSN of an operand of an SE instruction. -/
def illegalOp (opid : BitVec 4) : Exc := exc 0x01 opid 0 0

/-- What thread control raises before its own conditions: a thread other than 0, and a number that names no other thread
(R102). -/
def controlExtra (t : Fin 4) (opid : BitVec 4) (target : Nat) : List Exc :=
  if t ≠ 0 then [illegalOp 0] else if 3 < target ∨ target = t.val then [illegalOp opid] else []

/-- A thread that holds its registers and issues nothing until THGO. -/
def ThState.idle : ThState → Bool
  | .inactive | .stopped => true
  | _ => false

/-- THSET's exceptions: the target's state (Table 4-3), the selector, and an unaligned PC (R103). -/
def thsetExtra (c : Core) (t : Fin 4) (target sel v : Nat) : List Exc :=
  match controlExtra t 1 target with
  | [] =>
    if !(c.th (Fin.ofNat 4 target)).st.idle then [illegalOp 1]
    else if 0x1B < sel then [illegalOp 2]
    else if sel = 0x19 ∧ v % 4 ≠ 0 then [exc 0x02 3 0 v]
    else []
  | xs => xs

/-- The register a THSET selector names, written (Table 4-2). -/
def Thread.set (h : Thread) (sel v : Nat) : Thread :=
  let v32 := BitVec.ofNat 32 v
  let r := h.r
  if sel < 0x08 then { h with r := { r with a := r.a.set (Fin.ofNat 8 sel) v32 } }
  else if sel < 0x0C then { h with r := { r with p := r.p.set (Fin.ofNat 4 sel) (BitVec.ofNat 6 v) } }
  else if sel < 0x10 then { h with r := { r with ls := r.ls.set (Fin.ofNat 4 sel) v32 } }
  else if sel < 0x14 then { h with r := { r with le := r.le.set (Fin.ofNat 4 sel) v32 } }
  else if sel < 0x18 then { h with r := { r with lc := r.lc.set (Fin.ofNat 4 sel) v32 } }
  else if sel = 0x18 then (if v % 8 ≤ 4 then { h with r := { r with ldepth := BitVec.ofNat 3 v } } else h)
  else if sel = 0x19 then { h with r := { r with pc := v32 } }
  else if sel = 0x1A then { h with x := { h.x with prio := v.testBit 3, sstep := v.testBit 4 } }
  else if sel = 0x1B then { h with x := { h.x with vec := v32 &&& 0xFFFFFFFD } }
  else h

/-- THSET (R103, R104). -/
def execThset (a : Site) (w : SeWord) (s : State) : Out :=
  seCmd a (thsetForm w) w
    (fun _ c o => thsetExtra c a.thread (o.d.value c a.thread) (o.a.value c a.thread) (o.b.value c a.thread)) noWaits
    (fun _ o c =>
      (c.mapTh (Fin.ofNat 4 (o.d.value c a.thread)) (fun h => h.set (o.a.value c a.thread) (o.b.value c a.thread))).finish
        a.thread w.len o) s

/-- THGO: an idle target becomes RUNNING at its PC (R104). -/
def execThgo (a : Site) (w : SeWord) (s : State) : Out :=
  ofMod 0 w (seCmd a (controlForm w) w
    (fun _ c o =>
      match controlExtra a.thread 2 (o.a.value c a.thread) with
      | [] => if (c.th (Fin.ofNat 4 (o.a.value c a.thread))).st.idle then [] else [illegalOp 2]
      | xs => xs) noWaits
    (fun e o c =>
      ((c.setSt e (Fin.ofNat 4 (o.a.value c a.thread)) .running).finish a.thread w.len o))) s

/-- THSTOP (R104, R105): an idle target leaves nothing to do; a live one is asked to stop, and its wait, if it can be
abandoned at once, is; thread 0 waits until it has stopped. -/
def execThstop (a : Site) (w : SeWord) (s : State) : Out :=
  ofMod 1 w (seCmd a (controlForm w) w
    (fun _ c o =>
      match controlExtra a.thread 2 (o.a.value c a.thread) with
      | [] =>
        let st := (c.th (Fin.ofNat 4 (o.a.value c a.thread))).st
        if st = .halted ∨ st = .faulted then [illegalOp 2] else []
      | xs => xs) noWaits
    (fun e o c =>
      let target := Fin.ofNat 4 (o.a.value c a.thread)
      if (c.th target).st.idle then c.finish a.thread w.len o
      else
        ((c.mapTh target (fun h => { h with stopAsked := true })).abandon e target).mapTh a.thread
          (fun h => { h with stall := .thstop target w }))) s

/-- The target has nothing it still waits for: it enters STOPPED with the results of what it has issued written, and THSTOP
completes in thread 0 (R105). A target that an exception stopped meanwhile stays FAULTED.
[DESIGN CHOICE: log entry 146] -/
def execThstopComplete (core : BitVec 13) (target : Fin 4) (s : State) : Out :=
  onCore core (fun e c =>
    match (c.th 0).stall with
    | .thstop t w =>
      if t = target ∧ (c.th t).stall = .none ∧ ¬ c.frozen then
        let c := c.flushAll t
        let c := if (c.th t).st = .running ∨ (c.th t).st = .waiting then c.setSt e t .stopped else c
        (c.mapTh t (fun h => { h with stopAsked := false })).complete 0 (controlForm w) w
      else c
    | _ => c) s

/-- THEND: the pending results of the thread are written, and it becomes INACTIVE with its PC past the instruction
(R106). -/
def execThend (a : Site) (w : SeWord) (s : State) : Out :=
  ofMod 2 w (seCmd a (thendForm w) w noExtra noWaits
    (fun e _ c =>
      ((c.flushLate a.thread).mapR a.thread (fun r => { r with pc := r.pc + BitVec.ofNat 32 (lenBytes w.len) })).setSt e
        a.thread .inactive)) s

/-! ### Runners -/

/-- RUNNER_MISUSE of a runner instruction (R112): the number, EN, or the mask. -/
def runnerExtra (c : Core) (t : Fin 4) (n : Nat) (recv : Bool) : List Exc :=
  let x := exc 0x12 (if recv then 2 else 1) 0 0
  if 7 < n then [x]
  else
    let r := c.runners[Fin.ofNat 8 n]
    if r.en && (if recv then r.recv.getLsbD t else r.send.getLsbD t) then [] else [x]

/-- Runner `n` changed. -/
def Core.setRunner (n : Fin 8) (r : Runner) (c : Core) : Core := { c with runners := c.runners.set n r }

/-- Thread `t` waits (R98, R101). -/
def Core.waitOn (e : Env) (t : Fin 4) (st : Stall) (c : Core) : Core :=
  (c.mapTh t (fun h => { h with stall := st })).setSt e t .waiting

/-- Words enter a runner when no thread waits to send and the slots are free; otherwise the sender waits (R109, R111). -/
def Core.send (e : Env) (t : Fin 4) (n : Fin 8) (ws : List DWord) (w : SeWord) (o : Operands) (c : Core) : Core :=
  let r := c.runners[n]
  if r.sendWait.isEmpty && decide (r.words.length + ws.length ≤ 4) then
    (c.setRunner n { r with words := r.words ++ ws }).finish t w.len o
  else (c.setRunner n { r with sendWait := r.sendWait ++ [(t, ws)] }).waitOn e t (.runner n false w)

/-- A send acts as a release of core scope: its words enter once the thread's earlier accesses have been performed (R117,
R246). [DESIGN CHOICE: log entry 115] -/
def Core.sendRel (e : Env) (t : Fin 4) (n : Fin 8) (ws : List DWord) (w : SeWord) (o : Operands) (c : Core) : Core :=
  if c.fenceDone e t c.seq 1 then c.send e t n ws w o else c.mapTh t (fun h => { h with stall := .sending n ws w })

/-- RSEND (R108). [DEDUCED: log entry 18] -/
def execRsend (a : Site) (w : SeWord) (s : State) : Out :=
  ofMod 0 w (seCmd a (rsendForm w) w (fun _ c o => runnerExtra c a.thread (o.d.value c a.thread) false) noWaits
    (fun e o c =>
      c.sendRel e a.thread (Fin.ofNat 8 (o.d.value c a.thread)) [BitVec.ofNat 64 (o.a.value c a.thread)] w o)) s

/-- The four words of an RSEND4, in increasing address order. -/
def words4 (x : Nat) : List DWord := (List.range 4).map (fun i => BitVec.ofNat 64 (x / 2 ^ (64 * i)))

/-- RSEND4 (R108). -/
def execRsend4 (a : Site) (w : SeWord) (s : State) : Out :=
  ofMod 1 w (seCmd a (rsend4Form w) w (fun _ c o => runnerExtra c a.thread (o.d.value c a.thread) false) noWaits
    (fun e o c => c.sendRel e a.thread (Fin.ofNat 8 (o.d.value c a.thread)) (words4 (o.a.value c a.thread)) w o)) s

/-- RRECV (R108, R109). [DEDUCED: log entry 18] -/
def execRrecv (a : Site) (w : SeWord) (s : State) : Out :=
  ofMod 2 w (seCmd a (rrecvForm w) w (fun _ c o => runnerExtra c a.thread (o.a.value c a.thread) true) noWaits
    (fun e o c =>
      let n := Fin.ofNat 8 (o.a.value c a.thread)
      let r := c.runners[n]
      match r.recvWait, r.words with
      | [], x :: xs =>
        ((c.setRunner n { r with words := xs }).writeDest a.thread o.d.dest o.d.ty.bytes x.toNat).finish a.thread w.len o
      | _, _ =>
        ((c.setRunner n { r with recvWait := r.recvWait ++ [a.thread] }).trackDest a.thread o.d).waitOn e a.thread
          (.runner n true w))) s

/-- The word of a thread's blocked runner instruction. -/
def Core.runnerWord (c : Core) (t : Fin 4) : Option SeWord :=
  match (c.th t).stall with
  | .runner _ _ w => some w
  | _ => none

/-- The first waiting receiver takes a word that is there (R109 to R111). -/
def Core.runnerRecv (e : Env) (n : Fin 8) (found : List SpmFinding) (c : Core) : Core :=
  let r := c.runners[n]
  match r.recvWait, r.words with
  | t :: ts, x :: xs =>
    match c.runnerWord t with
    | some w =>
      let o := operands (rrecvForm w) w (c.th t).r
      let c := (c.setRunner n { r with words := xs, recvWait := ts }).writeDest t o.d.dest o.d.ty.bytes x.toNat
      let c := (c.unverified o.writeRanges found).granted .near o.writeRanges
      (c.setSt e t .running).complete t (rrecvForm w) w
    | none => c
  | _, _ => c

/-- The first waiting sender's words enter when the slots are free (R109 to R111). -/
def Core.runnerSend (e : Env) (n : Fin 8) (c : Core) : Core :=
  let r := c.runners[n]
  match r.sendWait with
  | (t, ws) :: rest =>
    match c.runnerWord t with
    | some w =>
      if r.words.length + ws.length ≤ 4 then
        ((c.setRunner n { r with words := r.words ++ ws, sendWait := rest }).setSt e t .running).complete t (runnerForm w) w
      else c
    | none => c
  | [] => c

/-- A waiting send or receive completes (R110). -/
def execRunnerWaitComplete (core : BitVec 13) (runner : Fin 8) (recv : Bool) (s : State) (found : List SpmFinding := []) : Out :=
  onCore core (fun e c => if c.frozen then c else if recv then c.runnerRecv e runner found else c.runnerSend e runner) s

/-! ### Events -/

/-- The event and the count of an operand value (Table 4-4). -/
def evNum (v : Nat) : Fin 32 := Fin.ofNat 32 v
def evCount (v : Nat) : Nat := if bitsAt v 8 8 = 0 then 1 else bitsAt v 8 8

/-- A reserved bit is 1, or CLREV has a count. -/
def eventExtra (v : Nat) (clr : Bool) : List Exc :=
  if v / 65536 ≠ 0 ∨ bitsAt v 5 3 ≠ 0 ∨ (clr ∧ bitsAt v 8 8 ≠ 0) then [illegalOp 2] else []

/-- An event counter gains `k`, with saturation (R113). -/
def Events.gain (v : Events) (n : Fin 32) (k : Nat) : Events :=
  let x := v.ev[n].toNat + k
  if 0xFFFF < x then { v with ev := v.ev.set n 0xFFFF, ovf := v.ovf ||| (1 <<< n.val) }
  else { v with ev := v.ev.set n (BitVec.ofNat 16 x) }

/-- The increment of a SETEV. -/
def Core.setEvent (v : Nat) (c : Core) : Core := c.setEvents (c.events.gain (evNum v) (evCount v))

/-- SETEV (R113). It acts as a release of core scope: its increment comes once the thread's earlier accesses have been
performed (R117, R246). [DESIGN CHOICE: log entry 115] -/
def execSetev (a : Site) (w : SeWord) (s : State) : Out :=
  ofMod 0 w (seCmd a (eventForm w) w (fun _ c o => eventExtra (o.a.value c a.thread) false) noWaits
    (fun e o c =>
      let v := o.a.value c a.thread
      if c.fenceDone e a.thread c.seq 1 then (c.setEvent v).finish a.thread w.len o
      else c.mapTh a.thread (fun h => { h with stall := .setting v w }))) s

/-- The counter loses `k`. -/
def Events.take (v : Events) (n : Fin 32) (k : Nat) : Events :=
  { v with ev := v.ev.set n (BitVec.ofNat 16 (v.ev[n].toNat - k)) }

/-- WAITEV (R113). -/
def execWaitev (a : Site) (w : SeWord) (s : State) : Out :=
  ofMod 1 w (seCmd a (eventForm w) w (fun _ c o => eventExtra (o.a.value c a.thread) false) noWaits
    (fun e o c =>
      let v := o.a.value c a.thread
      let n := evNum v
      if c.events.waiters[n].isEmpty && decide (evCount v ≤ c.events.ev[n].toNat) then
        (c.setEvents (c.events.take n (evCount v))).finish a.thread w.len o
      else
        (c.setEvents { c.events with waiters := c.events.waiters.set n (c.events.waiters[n] ++ [a.thread]) }).waitOn e
          a.thread (.event n (evCount v) w))) s

/-- The first waiter of an event that finds its count is served (R115). -/
def Core.eventServe (e : Env) (n : Fin 32) (c : Core) : Core :=
  match c.events.waiters[n] with
  | t :: ts =>
    match (c.th t).stall with
    | .event _ need w =>
      if need ≤ c.events.ev[n].toNat then
        ((c.setEvents { c.events.take n need with waiters := c.events.waiters.set n ts }).setSt e t .running).complete t
          (eventForm w) w
      else c
    | _ => c
  | [] => c

/-- A waiting WAITEV is served. -/
def execEventWaitComplete (core : BitVec 13) (ev : Fin 32) (s : State) : Out :=
  onCore core (fun e c => if c.frozen then c else c.eventServe e ev) s

/-- CLREV (R113). -/
def execClrev (a : Site) (w : SeWord) (s : State) : Out :=
  ofMod 2 w (seCmd a (eventForm w) w (fun _ c o => eventExtra (o.a.value c a.thread) true) noWaits
    (fun _ o c =>
      (c.setEvents { c.events with ev := c.events.ev.set (evNum (o.a.value c a.thread)) 0 }).finish a.thread w.len o)) s

/-- The event timer reaches zero: its event gains 1 and EN is cleared (R116). -/
def Core.timerExpiry (c : Core) : Core :=
  let v := c.events
  if v.tmrEn then c.setEvents { (v.gain (Fin.ofNat 32 v.tmrEv.toNat) 1) with tmrEn := false, tmrCnt := 0 } else c

/-- The event timer expires at its tick. -/
def execEventTimerExpiry (core : BitVec 13) (s : State) : Out :=
  if (s.core core).events.tmrEn then onCore core (fun _ c => c.timerExpiry) (s.wait (s.core core).events.tmrDue) else .next s

/-! ### All threads waiting -/

/-- A local tagged gate admits no remote writer (R225). -/
def Gate.sealed (g : Gate) (self : CoreId) : Bool :=
  (!g.cores && !g.link) || (g.cores && !g.link && g.mask == 0x1FFF && g.mtch == self)

/-- A thread's wait can only be ended by a thread of the core (R119 item 3). -/
def Core.inward (e : Env) (c : Core) (h : Thread) : Bool :=
  match h.stall with
  | .runner _ _ _ | .event _ _ _ => true
  | .slot seg _ _ _ =>
    match c.spm.gateOf (64 * seg) 64 with
    | some i => c.spm.gates[i].sealed e.id
    | none => false
  | _ => false

/-- The conditions of R119. -/
def Core.deadlocked (e : Env) (c : Core) : Bool :=
  c.threads.any (fun h => h.st == .waiting) &&
    c.allTh (fun h => h.st != .running && h.st != .halted && (h.st != .waiting || c.inward e h)) &&
    (List.finRange 4).all (fun q => (c.de.q[q]).descs.isEmpty) &&
    c.de.issue.all (fun x => match x with | .denq _ _ => false | _ => true) &&
    c.spm.remote.all (fun r => r.dead) && !c.events.tmrEn

/-- Words 3 to 6 of the record's DETAIL: the event a thread waits on and its count (R120). -/
def Core.eventDetail (c : Core) (t : Fin 4) : Word :=
  match (c.th t).stall with
  | .event n _ _ => BitVec.ofNat 32 (2 ^ 31 + n.val * 65536 + c.events.ev[n].toNat)
  | _ => 0

/-- The core freezes (R120): every WAITING thread records the cause with EXC_PC at its blocked instruction, and one record
is posted. With a session attached the stop is recorded for the debug service (R523). [DEDUCED: log entry 38] -/
def Core.freeze (c : Core) : Core :=
  let det := [BitVec.ofNat 32 c.thstate, BitVec.ofNat 32 c.waitobj, BitVec.ofNat 32 c.rnstat] ++
    (List.finRange 4).map (fun t => c.eventDetail t)
  let x : Exc := { cause := 0x0E, opid := 0, eng := 4, target := 0, addr := 0, unit := 4 }
  let ths := c.threads.map (fun h => if h.st = .waiting then { h with x := h.x.record x h.r.pc } else h)
  let c : Core := { c with threads := ths }
  let c : Core := if c.dbg.attached then
      (List.finRange 4).foldl (fun c t =>
        if (c.th t).st = .waiting then
          let d := { c.dbg with stat := c.dbg.stat.set t 7, pc := c.dbg.pc.set t (c.th t).r.pc }
          { c with dbg := d }
        else c) c
    else c
  ({ c with frozen := true } : Core).post
    { sev := 2, cause := 0x000E, unit := 4, sub := 0, addr := 0, detail := det, coreFault := true, frozen := true }

/-- The deadlock count reaches 4,096. -/
def execAllThreadsWaiting (core : BitVec 13) (s : State) : Out :=
  onCore core (fun e c => if c.released && !c.frozen && c.deadlocked e then c.freeze else c) s

/-! ### Exceptions -/

/-- RETURN FROM EXCEPTION (R96, R97): STATUS.EXC and STATUS.IMPRECISE are cleared, the thread continues at EXC_PC, and a
held imprecise exception is on its way again. -/
def Core.eret (e : Env) (t : Fin 4) (c : Core) : Core :=
  let h := c.th t
  let back := h.x.pc
  let c := c.mapTh t (fun h => { h with
    x := { h.x with exc := false, imprecise := false, pend := false }
    r := { h.r with pc := back }
    held := none
    arrived := h.held.toList ++ h.arrived })
  c.trace e 1 3 t 0 h.r.pc.toNat back.toNat

/-- ERET. With STATUS.EXC 0 it is illegal; an unaligned EXC_PC raises ALIGN (R68, R97).
[DESIGN CHOICE: log entry 119] -/
def execEret (a : Site) (w : SeWord) (s : State) : Out :=
  ofMod 0 w (seCmd a (bareForm w) w
    (fun _ c _ =>
      let x := (c.th a.thread).x
      if !x.exc then [illegalOp 0] else if x.pc.toNat % 4 ≠ 0 then [exc 0x02 0 0 x.pc.toNat] else []) noWaits
    (fun e _ c => c.eret e a.thread)) s

/-- BRK: without a debug session it raises BREAKPOINT; with one the thread halts with cause 2 and goes on after the BRK
(R93, R523). -/
def execBrk (a : Site) (w : SeWord) (s : State) : Out :=
  ofMod 1 w (seCmd a (bareForm w) w
    (fun _ c _ => if c.dbg.attached then [] else [exc 0x0F 0 0 0]) noWaits
    (fun e o c => (c.debugStop e a.thread 2).finish a.thread w.len o)) s

/-- Delivery of an imprecise exception that has reached the thread (R96): taken before the next instruction issues; held
while STATUS.EXC is 1; a second one while one is held stops the thread, and the record names it.
[DESIGN CHOICE: log entry 117] -/
def Core.deliverExc (e : Env) (t : Fin 4) (c : Core) : Core :=
  let h := c.th t
  match h.arrived with
  | [] => c
  | x :: xs =>
    let c := c.mapTh t (fun h => { h with arrived := xs })
    if !h.x.exc then c.takeExc e t x true
    else
      match h.held with
      | none => (c.mapTh t (fun h => { h with held := some x })).mapX t (fun y => { y with pend := true })
      | some _ =>
        let pc := h.r.pc
        (((c.flushLate t).mapTh t (fun h => { h with held := none })).mapX t
          (fun y => { y.record x pc with pend := false, imprecise := true })).faultStop e t x

/-- An imprecise exception is delivered. -/
def execImpreciseExcDelivery (a : Site) (s : State) : Out :=
  onCore a.core (fun e c =>
    let h := c.th a.thread
    if h.st = .running ∧ h.stall = .none ∧ c.released ∧ ¬ c.frozen ∧ ¬ h.stopAsked ∧ h.haltAsked = 0 then
      c.deliverExc e a.thread
    else c) s

/-! ### Debug stops -/

/-- The thread may be stopped before its next instruction. -/
def Core.atBoundary (c : Core) (t : Fin 4) : Bool :=
  c.released && !c.frozen && c.dbg.attached && decide ((c.th t).st = .running) && decide ((c.th t).stall = .none)

/-- The next instruction lies at an enabled breakpoint (R523). -/
def execBreakpointMatch (a : Site) (s : State) : Out :=
  onCore a.core (fun e c =>
    if c.atBoundary a.thread && c.bpHit a.thread then (c.bpTrace e a.thread).debugStop e a.thread 3 else c) s

/-- With SSTEP set a resumed thread has issued one instruction (R524). -/
def execSingleStep (a : Site) (s : State) : Out :=
  onCore a.core (fun e c =>
    let h := c.th a.thread
    if c.atBoundary a.thread && h.x.sstep && h.stepped then c.debugStop e a.thread 5 else c) s

end Sys2Proof.Machine
end

