-- ==== Sys2Proof/Machine/Release.lean ====
section
/-! DEFINITION. The end of the waits of fences and releases: FENCE, ST.REL, RSEND, RSEND4, SETEV and SST (R117, R224, R244,
R246, R247). -/

namespace Sys2Proof.Machine

/-- An SST whose earlier accesses are performed goes to its slot; a local one whose gate has closed meanwhile completes with no
effect and raises GATE_FAULT (R219). -/
def Core.storeGo (e : Env) (t : Fin 4) (n : Nat) (src : Payload) (w : SeWord) (deadline : Option Nat) (found : List SpmFinding)
    (c : Core) : Core :=
  if slotCore n = e.id.toNat ∧ ¬ c.spm.slotOpen (slotSeg n) then c.endWait e t (gateFault e.id (64 * slotSeg n))
  else if c.slotBusy e true n w then c
  else (c.bump.mapTh t (fun h => { h with stall := .none })).slotGo e t true n w src deadline found

/-- The wait of thread `t` for a fence or a release ends, once everything it covers has been performed.
[DESIGN CHOICE: log entry 115] -/
def Core.endFence (e : Env) (t : Fin 4) (found : List SpmFinding) (c : Core) : Core :=
  let done (scope : Nat) : Bool := c.fenceDone e t c.seq scope
  let free : Core := c.mapTh t (fun h => { h with stall := .none })
  match (c.th t).stall with
  | .fence scope w => if done scope.toNat then c.complete t (fenceForm w) w else c
  | .release scope v w => if done scope.toNat then c.release t (scope.getLsbD 2) w v.toNat found else c
  | .sending n ws w => if done 1 then free.send e t n ws w (operands (runnerForm w) w (c.th t).r) else c
  | .setting v w => if done 1 then (c.setEvent v).complete t (eventForm w) w else c
  | .storing n src w due => if done 3 then c.storeGo e t n src w due found else c
  | _ => c

/-- The wait of a fence or a release ends (R244, R247). -/
def execFenceComplete (a : Site) (s : State) : Out :=
  onCore a.core (fun e c => if c.frozen then c else c.endFence e a.thread a.found) s

end Sys2Proof.Machine
end

