-- ==== Sys2Proof/Machine/Dma.lean ====
section
/-! DEFINITION. DENQ and the work of the DMA queues: descriptors start, issue granules, take their responses, chain and
complete (R256 to R273). -/

namespace Sys2Proof.Machine

/-! ### DENQ -/

/-- DENQ (R258). The descriptor is read at issue. [DEDUCED: log entry 31] -/
def execDenq (a : Site) (w : SeWord) (s : State) : Out :=
  let q : Fin 4 := Fin.ofNat 4 w.mod.toNat
  seCmd a (denqForm w) w noExtra
    (fun e c o => c.denqWaits e a.thread w o)
    (fun e o c =>
      let r := c.readDesc a.thread c.seq o.a.addr
      if poisoned c.spm.poison o.a.addr 64 then c.takeExc e a.thread (exc 0x0A 2 0 o.a.addr) false
      else
        let c := (r.footprint e).foldl (fun c p => c.track a.thread p.1.1 p.1.2 p.2 r.entry) c
        let issue : List DeEntry := c.de.issue ++ [.denq q r]
        let c := { c with de := { c.de with issue := issue } }
        (c.trim).finish a.thread w.len o) s

/-! ### Issue of granules -/

/-- A link access of a descriptor leaves (R340). -/
def Core.sendLink (l : LinkAsk) (c : Core) : Core :=
  { c with out := { c.out with links := c.out.links ++ [l] } }

/-- The 16-byte units that hold `n` bytes at an address: the first unit's address and their number. -/
def unitSpan (a n : Nat) : Nat × Nat := (a / 16 * 16, ceilDiv (a + n) 16 - a / 16)

/-- A READ of consecutive granules of one descriptor to one line of 256 bytes is one message (R330): the READ that the granule
before this one has just sent is made longer. What it then asks from, and its key. -/
def Core.mergeRead (q : Fin 4) (r : DescRun) (x : Nat × Nat) (dmod : ModuleId) (pkg : Bool) (a : Nat) (c : Core) :
    Option (Core × Nat × Nat) :=
  match c.out.links.getLast?, (r.grans.getLast?).bind (fun g => g.reads.getLast?) with
  | some l, some p =>
    let first := l.addr.toNat
    if l.q = q ∧ l.type = 1 ∧ l.dmod = dmod ∧ l.pkg = pkg ∧ p.key = some l.key ∧ p.addr + p.len = x.1 ∧ first / 256 = a / 256 then
      let u := ceilDiv (a + x.2) 16 - first / 16
      some ({ c with out := { c.out with links := c.out.links.dropLast ++ [{ l with units := u }] } }, p.base, l.key)
    else none
  | _, _ => none

/-- One source segment is asked for (R265). -/
def Core.ask (e : Env) (q : Fin 4) (r : DescRun) (x : Nat × Nat) (c : Core) : Core × Part :=
  let c := c.bump
  let part : Part := { addr := x.1, len := x.2, base := x.1, key := some c.seq, answer := none }
  match placeOf e r.ssp x.1 x.2 false with
  | .pkg core off => (c.depart e (.dma q r.thread) core.toNat off (.read x.2) none, part)
  | .link m pkg a =>
    let u := unitSpan a x.2
    match c.mergeRead q r x m pkg a with
    | some y => (y.1, { part with base := y.2.1, key := some y.2.2 })
    | none =>
    (c.sendLink { q := q, key := c.seq, type := 1, dmod := m, pkg := pkg, gen := none, subop := 0, units := u.2,
                  addr := BitVec.ofNat 40 u.1, data := [] }, part)
  | _ => (c, { part with key := none })

/-- Every source segment is asked for, in order. -/
def Core.askAll (e : Env) (q : Fin 4) (r : DescRun) : List (Nat × Nat) → Core → Core × List Part
  | [], c => (c, [])
  | x :: xs, c =>
    let y := c.ask e q r x
    let z := y.1.askAll e q r xs
    (z.1, y.2 :: z.2)

/-- The source segments of a span: link messages carry up to 256 B of one line, remote transfers 64 B of one segment. -/
def DescRun.segments (r : DescRun) (a n : Nat) : List (Nat × Nat) :=
  if r.op = 1 then [] else if r.ssp = 3 then cutSpan 256 a n else if r.ssp = 1 then cutSpan 64 a n else [(a, n)]

/-- The code of a bad place. -/
def Place.fault : Place → Option (BitVec 8)
  | .bad k => some k
  | _ => none

/-- ECC_UNCORRECTED of a descriptor (R271). [DEDUCED: log entry 31] -/
def Core.dqEcc (q : Fin 4) (i : Nat) (opid : BitVec 4) (addr : Nat) (c : Core) : Core :=
  c.dqFault q i 0x8A opid (exc 0x0A opid 3 addr)

/-- Granules of all queues that await a response. -/
def Core.allOut (c : Core) : Nat := ((List.finRange 4).map (fun q => c.dqOut q)).sum

/-- The next granule of the descriptor at place `i` is issued, or it faults (R265, R271); it waits where it would exceed the
limits of R265. -/
def Core.issueOne (e : Env) (q : Fin 4) (i : Nat) (found : List SpmFinding) (r : DescRun) (c : Core) : Core :=
  if r.dstRow = 0 then c.mapDesc q i (fun r => { r with allIssued := true })
  else
    let c := c.meet r.indexRange found
    match r.row e c.spm with
    | .inr f => if f.1 = 0x8A then c.dqEcc q i 3 (r.f 12 0 22) else c.dqDescriptor q i f.1 f.2
    | .inl x =>
      let dst := addrPlus x.2 r.cur.off
      let n := r.pieceLen dst
      let b := r.srcBytes r.cur.off n
      let src := addrPlus x.1 b.1
      let segs := r.segments src b.2
      match segs.findSome? (fun p => (placeOf e r.ssp p.1 p.2 false).fault), (r.dstPlace e dst n).fault with
      | some k, _ => c.dqDescriptor q i k 2
      | none, some k => c.dqDescriptor q i k 1
      | none, none =>
        if 128 < c.dqOut q + granulesOf dst n ∨ 256 < c.allOut + granulesOf dst n then c
        else
        let y := c.askAll e q r segs
        let g : Granule := { off := r.cur.off, dst := dst, len := n, reads := y.2, data := none, write := none }
        y.1.mapDesc q i (fun r =>
          { r with grans := r.grans ++ [g], cur := (r.advance x n).getD r.cur, allIssued := (r.advance x n).isNone })

/-- Granules are issued, as far as the limits of R265 allow and nothing has faulted. -/
def Core.issueSome (e : Env) (q : Fin 4) (i : Nat) (found : List SpmFinding) : Nat → Core → Core
  | 0, c => c
  | n + 1, c =>
    match (c.de.q[q]).descs[i]? with
    | some r =>
      if r.allIssued || r.faulted || r.abandoned || (c.de.q[q]).halt then c
      else (c.issueOne e q i found r).issueSome e q i found n
    | none => c

/-- The descriptor at place `i` may start (R259, R266): every earlier one has issued all its granules and had its chain
read; with ORD every earlier one has completed; and its stream, when it converts, is not held for a CSRW (R59). -/
def Core.mayStart (c : Core) (q : Fin 4) (i : Nat) (r : DescRun) : Bool :=
  let earlier := ((c.de.q[q]).descs.take i).filter (fun x => !x.abandoned)
  earlier.all (fun x => x.allIssued && (x.word 14 == 0 || x.chained)) && (!r.ord || earlier.all DescRun.over) &&
    !(r.cvt && c.streamHeld (Fin.ofNat 6 (q.val + 2)))

/-- The place of the descriptor of a queue that issues next: one that has granules to issue, else the next that may start
(R266). -/
def Core.issuer (c : Core) (q : Fin 4) : Option (Nat × DescRun) :=
  let d := c.de.q[q]
  if d.halt then none
  else
    let i := match d.descs.findIdx? (fun (r : DescRun) => !r.abandoned && r.started && !r.allIssued) with
      | some i => some i
      | none => d.descs.findIdx? (fun (r : DescRun) => !r.abandoned && !r.started)
    match i with
    | none => none
    | some i => ((d.descs[i]?).filter (fun (r : DescRun) => r.started || c.mayStart q i r)).map (fun r => (i, r))

/-- Queue `q` gives way: another queue, with HIGH set, has granules to issue (R265). -/
def Core.givesWay (c : Core) (q : Fin 4) : Bool :=
  !(c.de.q[q]).high &&
    (List.finRange 4).any (fun p => p != q && (c.de.q[p]).high && (c.issuer p).isSome && decide (c.dqOut p < 128))

/-- The queue goes on (R266): the first descriptor with granules to issue issues them; without one the next descriptor
starts, after its checks (R271). -/
def Core.descriptorStart (e : Env) (q : Fin 4) (found : List SpmFinding) (c : Core) : Core :=
  if ¬ c.released ∨ c.givesWay q then c
  else
    match c.issuer q with
    | none => c
    | some (i, r) =>
      if r.started then c.issueSome e q i found 128
      else
        match r.startFault e with
        | some f => c.dqDescriptor q i f.1 f.2
        | none => (c.mapDesc q i (fun r => { r with started := true })).issueSome e q i found 128

/-- A DE queue starts its next descriptor, or issues further granules of one. -/
def execDescriptorStart (core : BitVec 13) (q : Fin 4) (s : State) (found : List SpmFinding := []) : Out :=
  onCore core (fun e c => c.settleStreams.descriptorStart e q found) s

/-- The next descriptor of a chain is read once every granule of the one before it has been issued (R258).
[DEDUCED: log entry 31] -/
def Core.chainRead (q : Fin 4) (found : List SpmFinding) (c : Core) : Core :=
  let d := c.de.q[q]
  if d.halt then c
  else
    match d.descs.findIdx? (fun r => !r.abandoned && r.allIssued && r.word 14 != 0 && !r.chained) with
    | none => c
    | some i =>
      match d.descs[i]? with
      | none => c
      | some r =>
        let c := c.meet [(r.word 14, 64)] found
        let x := c.readDesc r.thread r.entry (r.word 14)
        let c := c.mapDq q (fun d =>
          { d with descs := (d.descs.take i) ++ [{ r with chained := true }, x] ++ d.descs.drop (i + 1) })
        if poisoned c.spm.poison (r.word 14) 64 then c.dqEcc q (i + 1) 5 (r.word 14) else c

/-- The DE reads the next chained descriptor. -/
def execDescriptorChainRead (core : BitVec 13) (q : Fin 4) (s : State) (found : List SpmFinding := []) : Out :=
  onCore core (fun _ c => c.chainRead q found) s

/-! ### Responses -/

/-- A granule leaves its descriptor; an abandoned descriptor without granules leaves its queue. The writes that wait for its
stream see whether that is still in use (R59). -/
def Core.dropGran (q : Fin 4) (i j : Nat) (c : Core) : Core :=
  ((c.mapDesc q i (fun r => { r with grans := r.grans.eraseIdx j })).mapDq q (fun d =>
    { d with descs := dropAbandoned d.descs })).settleStreams

/-- The granules whose write the access `key` carried leave their descriptor (R330). -/
def Core.dropWritten (q : Fin 4) (i : Nat) (key : Option Nat) (c : Core) : Core :=
  ((c.mapDesc q i (fun r => { r with grans := r.grans.filter (fun g => !(match g.write with | some p => p.key == key | none => false)) })).mapDq
    q (fun d => { d with descs := dropAbandoned d.descs })).settleStreams

/-- What a failed access of a granule raises (R271, R331). -/
def Core.granFault (q : Fin 4) (i : Nat) (opid : BitVec 4) (addr : Nat) (o : GranuleOutcome) (c : Core) : Core :=
  let off := addr % 2 ^ 22
  match o with
  | .ok => c
  | .gate t => c.dqFault q i 0x84 opid (gateFault t off)
  | .otherJob => c.dqDescriptor q i 0x06 opid
  | .quarantine t => c.dqFault q i 0x89 opid (quarantineFault t off)
  | .ecc => c.dqEcc q i 1 off
  | .refused k =>
    if k = 1 then c.dqFault q i 0x84 opid (gateFault (BitVec.ofNat 13 (addr / 2 ^ 22)) off) else c.dqDescriptor q i 0x09 opid
  | .timeout t => c.dqFault q i 0x8D opid (timeoutFault t off)

/-- The places of the first granule of a queue with a property: descriptor and granule. -/
def Core.findGran (c : Core) (q : Fin 4) (p : Granule → Bool) : Option (Nat × Nat × DescRun × Granule) :=
  let f (r : DescRun) (i : Nat) : Option (Nat × Nat × DescRun × Granule) :=
    match r.grans.findIdx? p with
    | none => none
    | some j => (r.grans[j]?).map (fun g => (i, j, r, g))
  ((c.de.q[q]).descs.zipIdx).findSome? (fun x => f x.1 x.2)

/-- Every access a granule's reads made has its answer. -/
def Granule.readDone (g : Granule) : Bool := !g.carried && g.reads.all (fun p => p.key.isNone || p.answer.isSome)

/-- The place of the granule whose data may be carried on (R56, R262 to R264): of each descriptor only the first that has not
been carried on, once its reads have their answers; a descriptor that converts waits for the earlier ones that do. -/
def Core.nextGran (c : Core) (q : Fin 4) : Option (Nat × Nat × DescRun × Granule) :=
  let ds := (c.de.q[q]).descs
  let open_ (r : DescRun) : Bool := r.grans.any (fun g => !g.carried)
  let f (r : DescRun) (i : Nat) : Option (Nat × Nat × DescRun × Granule) :=
    if r.cvt && (ds.take i).any (fun x => x.cvt && open_ x) then none
    else
      match r.grans.findIdx? (fun g => !g.carried) with
      | none => none
      | some j => ((r.grans[j]?).filter Granule.readDone).map (fun g => (i, j, r, g))
  (ds.zipIdx).findSome? (fun x => f x.1 x.2)

/-- The granule's write has its answer. -/
def Granule.writeDone (g : Granule) : Bool := match g.write with | some p => p.answer.isSome | none => false

/-- Poison of bytes taken from an address and put at another: every word that a poisoned word's bytes reach. -/
def Payload.moved (x : Payload) (src dst : Nat) : Payload :=
  let a := src % 8
  let b := dst % 8
  let reach (k : Nat) : List Nat :=
    let lo := 8 * k - a
    let hi := min (8 * k + 8 - a) x.bytes.length
    if lo < hi then [(b + lo) / 8, (b + hi - 1) / 8] else []
  { x with poison := ninsAll [] (x.poison.flatMap reach) }

/-- Bytes read where the descriptor has itself written: each is the value from before the descriptor started or the one
it wrote, as the free value says (R262). -/
def DescRun.older (r : DescRun) (fresh a : Nat) (bytes : List Byte) : List Byte :=
  if r.before.isEmpty then bytes
  else bytes.zipIdx.map (fun x =>
    match r.before.find? (fun p => p.1 == a + x.2) with
    | some p => if Config.oldSource (4096 * fresh + x.2) then p.2 else x.1
    | none => x.1)

/-- A piece of data at a byte offset. -/
def Payload.slice (x : Payload) (off n : Nat) : Payload :=
  { bytes := (x.bytes.drop off).take n
    poison := (x.poison.filter (fun k => decide (off < 8 * k + 8 ∧ 8 * k < off + n))).map (fun k => k - off / 8) }

/-- The bytes of one part of a granule's source. -/
def State.partData (s : State) (e : Env) (c : Core) (r : DescRun) (p : Part) : Payload :=
  match p.answer with
  | some x => if r.ssp = 3 then x.2.slice (p.addr - p.base + p.base % 16) p.len else x.2
  | none =>
    match placeOf e r.ssp p.addr p.len false with
    | .own off => let x := c.spm.get off p.len; { x with bytes := r.older s.fresh off x.bytes }
    | .ext a =>
      let x := s.hbmGet a p.len
      { x with bytes := r.older s.fresh a x.bytes }
    | _ => .empty

/-- What a granule read, as one payload from its first byte on. FILL has its pattern (R261). -/
def State.gather (s : State) (e : Env) (c : Core) (r : DescRun) (g : Granule) : Payload :=
  if r.op = 1 then .clean ((List.range g.len).map (fun i => BitVec.ofNat 8 (r.srcAddr / 2 ^ (8 * ((g.dst + i) % 8)))))
  else
    let first := match g.reads with | p :: _ => p.addr | [] => 0
    let xs := g.reads.map (fun p => (p.addr, s.partData e c r p))
    { bytes := xs.flatMap (fun x => x.2.bytes)
      poison := ninsAll [] (xs.flatMap (fun x => x.2.poison.map (fun k => x.1 / 8 + k - first / 8))) }

/-- The bytes a descriptor overwrites, noted where it may also read them (R262). -/
def DescRun.note (r : DescRun) (a : Nat) (old : List Byte) : DescRun :=
  { r with before := old.zipIdx.foldl (fun b x => if b.any (fun p => p.1 == a + x.2) then b else tset b (a + x.2) x.1) r.before }

/-- The granule at places `i` and `j` writes its data to the core's own scratchpad. -/
def Core.writeOwn (q : Fin 4) (i j : Nat) (r : DescRun) (off : Nat) (x : Payload) (found : List SpmFinding) (c : Core) : Core :=
  let n := x.bytes.length
  let c := (if r.red then c.meet [(off, n)] found else c).granted .dma [(off, n)]
  let old := memReadN c.spm.mem off n
  let c := if r.ssp ≤ 1 then c.mapDesc q i (fun r => r.note off old) else c
  match r.red, r.dty with
  | true, some t =>
    if poisoned c.spm.poison off n then (c.dropGran q i j).dqEcc q i 1 off
    else ((c.mapSpm (fun m => m.write off (reduceBytes t old x.bytes))).unverified [(off, n)] found).dropGran q i j
  | _, _ => ((c.mapSpm (fun m => m.put off x)).unverified [(off, n)] found).dropGran q i j

/-- The granule's data leaves for another core (R216, R264, R268). -/
def Core.writeAway (e : Env) (q : Fin 4) (i j : Nat) (r : DescRun) (core : CoreId) (off dst : Nat) (x : Payload) (c : Core) : Core :=
  let c := c.bump
  let part : Part := { addr := dst, len := x.bytes.length, base := dst, key := some c.seq, answer := none }
  let kind := match r.red with
    | true => RemoteKind.reduce (BitVec.ofNat 4 (r.f 1 24 4)) x.bytes
    | false => .write x
  (c.depart e (.dma q r.thread) core.toNat off kind r.gen).mapDesc q i (fun r =>
    { r with grans := r.grans.modify j (fun g => { g with write := some part }) })

/-- The data of a granule is held until its write is performed or leaves. -/
def Core.holdData (q : Fin 4) (i j : Nat) (x : Payload) (c : Core) : Core :=
  c.mapDesc q i (fun r => { r with grans := r.grans.modify j (fun g => { g with data := some x }) })

/-! ### Messages over the links -/

/-- The granules from the first on that go on where the one before ends, within one line of 256 bytes, and whose data is held; and
the granule behind them. -/
def runOf (g : Granule) : List Granule → List Granule × Option Granule
  | [] => ([g], none)
  | h :: l =>
    if h.data.isSome && h.dst == g.dst + g.len && h.dst % 256 != 0 then (g :: (runOf h l).1, (runOf h l).2) else ([g], some h)

/-- The granules of a descriptor that leave next as one message over the links (R330, R366): consecutive ones to one line of 256
bytes whose data is held. They leave once the line ends with them, or the granule that comes next does not go on where they end,
or none comes. [DESIGN CHOICE: log entry 141] -/
def DescRun.lineReady (r : DescRun) (halt : Bool) : Option (Nat × List Granule) :=
  let gone := (r.grans.takeWhile (fun g => g.write.isSome)).length
  match r.grans.drop gone with
  | [] => none
  | g :: l =>
    if g.data.isNone then none
    else
      let x := runOf g l
      let stop := match x.1.getLast? with | some z => z.dst + z.len | none => 0
      let closed := stop % 256 == 0 ||
        (match x.2 with
          | some h => h.dst != stop
          | none => r.allIssued || !r.live || halt)
      if closed then some (gone, x.1) else none

/-- A message of consecutive granules leaves over the links (R216, R264, R268, R366). -/
def Core.lineAway (e : Env) (q : Fin 4) (i : Nat) (r : DescRun) (x : Nat × List Granule) (c : Core) : Core :=
  match x.2 with
  | [] => c
  | g :: _ =>
    match r.dstPlace e g.dst g.len with
    | .link m pkg a =>
      let c := c.bump
      let sub : BitVec 3 := match r.dty with | some .h16 => 1 | some .i32 => 2 | _ => 0
      let data := x.2.flatMap (fun g => (g.data.getD .empty).bytes)
      let part (g : Granule) : Part := { addr := g.dst, len := g.len, base := g.dst, key := some c.seq, answer := none }
      (c.sendLink { q := q, key := c.seq, type := if r.red then 4 else 0, dmod := m, pkg := pkg, gen := r.gen,
                    subop := if r.red then sub else 0, units := 0, addr := BitVec.ofNat 40 a, data := data }).mapDesc q i (fun r =>
        { r with grans := r.grans.zipIdx.map (fun y =>
            if x.1 ≤ y.2 ∧ y.2 < x.1 + x.2.length then { y.1 with data := none, write := some (part y.1) } else y.1) })
    | _ => c

/-- The first descriptor of a queue that writes over the links and has a message ready. -/
def Core.lineNext (c : Core) (q : Fin 4) : Option (Nat × DescRun × (Nat × List Granule)) :=
  let d := c.de.q[q]
  (d.descs.zipIdx).findSome? (fun x =>
    if x.1.dsp = 3 ∧ x.1.op ≠ 4 then (x.1.lineReady d.halt).map (fun y => (x.2, x.1, y)) else none)

/-- The data of a granule has come: it is converted, and written to the core's own scratchpad, or it leaves for another core, or it
is held for its write to external memory or over the links. Poison faults a conversion, a reduction and a link (R203, R271, R410);
a conversion's output is written all the same, poisoned (R409), and elsewhere poison travels on.
[DESIGN CHOICE: log entry 34] -/
def State.landed (s : State) (id : CoreId) (q : Fin 4) (i j : Nat) (r : DescRun) (g : Granule) (x : Payload)
    (found : List SpmFinding) : State :=
  let e := s.env id
  let src := match g.reads with | p :: _ => p.addr | [] => g.dst
  let strm : Fin 6 := Fin.ofNat 6 (q.val + 2)
  let y := r.convert g x.bytes ((s.core id).streams[strm])
  let z : Payload := if r.cvt then { bytes := y.1, poison := r.convPoison g src x.poison }
    else { bytes := x.bytes, poison := (x.moved src g.dst).poison }
  let conv (c : Core) : Core :=
    if r.cvt then
      ((c.mapStream strm (fun _ => y.2.2.1)).flag y.2.2.2).mapDesc q i (fun r => { r with carry := y.2.1 })
    else c
  if (r.red ∨ r.dsp = 3) ∧ x.poison ≠ [] then s.onCore id (fun _ c => (c.dropGran q i j).dqEcc q i 2 src)
  else
    let bad (c : Core) : Core := if r.cvt && !x.poison.isEmpty then c.dqEcc q i 2 src else c
    match r.dstPlace e g.dst g.len with
    | .own off => s.onCore id (fun _ c => (conv (bad c)).writeOwn q i j r off z found)
    | .pkg core off => s.onCore id (fun e c => (conv (bad c)).writeAway e q i j r core off g.dst z)
    | .ext _ | .code _ => s.onCore id (fun _ c => (conv (bad c)).holdData q i j z)
    | .link _ _ _ =>
      s.onCore id (fun e c =>
        let c := (conv (bad c)).holdData q i j z
        match c.lineNext q with
        | some x => c.lineAway e q x.1 x.2.1 x.2.2
        | none => c)
    | .bad k => s.onCore id (fun _ c => (c.dropGran q i j).dqDescriptor q i k 1)

/-- What the reads of a granule find, in the core's own scratchpad and in external memory (R203, R277). -/
def State.meetSources (s : State) (id : CoreId) (r : DescRun) (g : Granule) (found : List SpmFinding) (ext : HbmFinding) :
    State :=
  let e := s.env id
  let places := if r.op = 1 then [] else g.reads.map (fun p => placeOf e r.ssp p.addr p.len false)
  let own := (places.zip g.reads).filterMap (fun x => match x.1 with | .own off => some (off, x.2.len) | _ => none)
  let s := match (places.zip g.reads).findSome? (fun x => match x.1 with | .ext a => some (a, x.2.len) | _ => none) with
    | some (a, n) => s.hbmMeet a n ext
    | none => s
  if own.isEmpty then s else s.onCore id (fun _ c => (c.meet own found).granted .dma own)

/-- Where a part's answer comes from, when it comes over the fabric: a core, or the E-die of an external address. -/
def partFrom (e : Env) (r : DescRun) (write : Bool) (p : Part) : Option (CoreId ⊕ Nat) :=
  match if write then r.dstPlace e p.addr p.len else placeOf e r.ssp p.addr p.len false with
  | .pkg t _ => some (.inl t)
  | .ext a | .code a => some (.inr a)
  | _ => none

/-- The header check that discards a flit of a granule's access fails on its path: of the answer from the other core, of the request
to the E-die of external memory, or of what comes back from there (R311). Then the granule ends as one that had no answer in time
(Table 10-5); whether the flit was the request tells the last part. [DESIGN CHOICE: log entry 130] -/
def State.granuleLost (s : State) (id : CoreId) (r : DescRun) (write : Bool) (p : Part) (f : FlitFinding) :
    Option (State × GranuleOutcome × Bool) :=
  match f with
  | .header die pos =>
    let lost : State := s.flitLost die pos
    match partFrom (s.env id) r write p with
    | some (.inl t) => if s.onPath t id die pos then some (lost, .timeout t, false) else none
    | some (.inr a) =>
      if s.onEdiePath id (addrEdie a).val false die pos then some (lost, .timeout 0, true)
      else if s.onEdiePath id (addrEdie a).val true die pos then some (lost, .timeout 0, false) else none
    | none => none
  | _ => none

/-- Words of the data that a granule read from elsewhere are corrected, or are poison (Table 10-5). -/
def State.granuleWords (s : State) (id : CoreId) (r : DescRun) (g : Granule) (f : FlitFinding) (x : Payload) : State × Payload :=
  match f with
  | .words c l =>
    if g.reads.all (fun p => (partFrom (s.env id) r false p).isNone) then (s, x)
    else
      let n := x.bytes.length
      (s.flitWords ((s.place id).getD 0) (lostWords n c) (lostWords n l), x.lose (lostWords n l))
  | _ => (s, x)

/-- A write of part of a granule of external memory reads the granule, and meets what is found there (R277). -/
def State.hbmMeetPart (s : State) (a n : Nat) (f : HbmFinding) : State :=
  if a % 64 = 0 ∧ n % 64 = 0 then s else s.hbmMeet (a / 64 * 64) (ceilDiv (a + n) 64 * 64 - a / 64 * 64) f

/-- The write of a granule whose data is held reaches external memory (R277, R282, R387 to R389). A write that would wait for the
rollback area does not occur yet. -/
def State.extWrite (s : State) (id : CoreId) (q : Fin 4) (i j : Nat) (r : DescRun) (a : Nat) (z : Payload) (ext : HbmFinding) :
    State :=
  let n := z.bytes.length
  let s := if r.red then s.hbmMeet (a / 64 * 64) 64 ext else s.hbmMeetPart a n ext
  let old := s.hbmGet a n
  let note (c : Core) : Core := if r.ssp = 2 then c.mapDesc q i (fun r => r.note a old.bytes) else c
  match r.red, r.dty with
  | true, some t =>
    if old.poison ≠ [] then s.onCore id (fun _ c => (c.dropGran q i j).dqEcc q i 1 a)
    else (s.hbmWrite a (.clean (reduceBytes t old.bytes z.bytes))).onCore id (fun _ c => (note c).dropGran q i j)
  | _, _ => (s.hbmWrite a z).onCore id (fun _ c => (note c).dropGran q i j)

/-- The external address that a granule whose data is held writes. -/
def DescRun.extAddr (r : DescRun) (e : Env) (g : Granule) : Option Nat :=
  match r.dstPlace e g.dst g.len with
  | .ext a | .code a => if g.data.isSome then some a else none
  | _ => none

/-- The first granule of a queue whose data is held for a write to external memory that may be performed: places, descriptor,
granule, address. -/
def State.extNext (s : State) (id : CoreId) (q : Fin 4) : Option (Nat × Nat × DescRun × Granule × Nat) :=
  let e := s.env id
  let may (r : DescRun) (g : Granule) : Option Nat := (r.extAddr e g).filter (fun a => !s.hbmBlocked a g.len)
  ((((s.core id).de.q[q]).descs).zipIdx).findSome? (fun x =>
    (x.1.grans.zipIdx).findSome? (fun y => (may x.1 y.1).map (fun a => (x.2, y.2, x.1, y.1, a))))

/-- The write of a granule to external memory, with what its flits meet on the way (R277, R311, R313). -/
def State.extStep (s : State) (id : CoreId) (q : Fin 4) (x : Nat × Nat × DescRun × Granule × Nat) (ext : HbmFinding)
    (flit : FlitFinding) : State :=
  let (i, j, r, g, a) := x
  let z := g.data.getD .empty
  let part : Part := { addr := g.dst, len := g.len, base := g.dst, key := none, answer := none }
  match s.granuleLost id r true part flit with
  | some (s, o, true) => s.onCore id (fun _ c => (c.granFault q i 1 g.dst o).dropGran q i j)
  | some (s, o, false) => (s.onCore id (fun _ c => c.granFault q i 1 g.dst o)).extWrite id q i j r a z ext
  | none =>
    match flit with
    | .words c l =>
      let n := z.bytes.length
      let s := s.flitWords (272 * bridgedDie (addrEdie a).val (id.toNat / 256)) (lostWords n c) (lostWords n l)
      s.extWrite id q i j r a (z.lose (lostWords n l)) ext
    | _ => s.extWrite id q i j r a z ext

/-- The answers of other cores to accesses of granules that are the next to arrive from their targets (R295). -/
def Core.takeGrans (c : Core) : Core :=
  c.spm.remote.foldl (fun c r =>
    match r.who, r.stage with
    | .dma q _, .answered a =>
      if c.spm.inTurn r then (c.mapSpm (fun m => m.endRemote r.id)).setAnswer q r.id (a.outcome r.target).1 (a.outcome r.target).2
      else c
    | _, _ => c) c

/-- A granule's read data or write acknowledgement returns to the DE (R265): a write that has its answer is finished first; then a
message over the links leaves whose granules are complete; then a held write reaches external memory; then the next granule whose
reads are all answered is carried on. [DESIGN CHOICE: log entry 34] -/
def State.granuleResponse (s : State) (id : CoreId) (q : Fin 4) (found : List SpmFinding) (ext : HbmFinding)
    (flit : FlitFinding) : State :=
  let s := s.onCore id (fun _ c => c.takeGrans)
  let c := s.core id
  match c.findGran q Granule.writeDone with
  | some (i, _, r, g) =>
    let key := g.write.bind (fun p => p.key)
    match g.write.bind (fun p => s.granuleLost id r true p flit) with
    | some (s, o, _) => s.onCore id (fun _ c => (c.granFault q i 1 g.dst o).dropWritten q i key)
    | none =>
      let o := (g.write.bind (fun p => p.answer)).map (fun x => x.1)
      s.onCore id (fun _ c => (c.granFault q i 1 g.dst (o.getD .ok)).dropWritten q i key)
  | none =>
  match c.lineNext q with
  | some x => s.onCore id (fun e c => c.lineAway e q x.1 x.2.1 x.2.2)
  | none =>
  match s.extNext id q with
  | some x => s.extStep id q x ext flit
  | none =>
    match c.nextGran q with
    | none => s
    | some (i, j, r, g) =>
      let failed := g.reads.findSome? (fun p => match p.answer with
        | some (.ok, _) | none => none
        | some (o, _) => some (p.addr, o))
      match failed, g.reads.findSome? (fun p => (s.granuleLost id r false p flit).map (fun x => (p.addr, x))) with
      | some (a, o), _ => s.onCore id (fun _ c => (c.granFault q i 2 a o).dropGran q i j)
      | none, some (a, s, o, _) => s.onCore id (fun _ c => (c.granFault q i 2 a o).dropGran q i j)
      | none, none =>
        let s := s.meetSources id r g found ext
        let y := s.granuleWords id r g flit (s.gather (s.env id) (s.core id) r g)
        y.1.landed id q i j r g y.2 found

/-- The response to one granule of a queue of the module's core comes. [DESIGN CHOICE: log entry 33] -/
def execDmaGranuleResponse (core : BitVec 13) (q : Fin 4) (found : List SpmFinding) (s : State) (ext : HbmFinding := .clean)
    (flit : FlitFinding := .intact) : Out :=
  .next (if s.assigned core then s.granuleResponse core q found ext flit else s)

/-! ### Completion -/

/-- The first descriptor of the queue that still counts. -/
def Core.headDesc (c : Core) (q : Fin 4) : Option (Nat × DescRun) :=
  match (c.de.q[q]).descs.findIdx? (fun r => !r.abandoned) with
  | some i => ((c.de.q[q]).descs[i]?).map (fun r => (i, r))
  | none => none

/-- A completion adds 1 to DQq_DONE (R267). -/
def Core.descCount (e : Env) (q : Fin 4) (c : Core) : Core :=
  let c := c.mapDq q (fun d => { d with done := d.done + 1 })
  c.trace e 4 7 0 q.val 0 (c.de.q[q]).done.toNat

/-- The descriptor at place `i` has posted its signals and leaves its queue. -/
def Core.descGone (q : Fin 4) (i : Nat) (c : Core) : Core :=
  (c.mapDq q (fun d => { d with descs := d.descs.eraseIdx i })).settleStreams

/-- The completion of the head of a queue counts and posts its signal, or its slot fill begins (R266, R267).
[DESIGN CHOICE: log entry 153] -/
def Core.descComplete (e : Env) (q : Fin 4) (i : Nat) (r : DescRun) (c : Core) : Core :=
  let c := c.descCount e q
  match r.cmpl with
  | 1 => (c.setEvents (c.events.gain (Fin.ofNat 32 r.ctgt) 1)).descGone q i
  | 2 =>
    let seg := slotSeg r.ctgt
    if slotCore r.ctgt = e.id.toNat then
      if !c.spm.slotOpen seg then c.dqFault q i 0x84 4 (gateFault e.id (64 * seg))
      else if c.spm.servesNow seg true then (c.mapSpm (fun m => m.serveFill seg)).descGone q i
      else
        ((c.mapSpm (fun m => m.park { seg := seg, who := .fill q, store := true, data := .empty })).mapDesc q i (fun r =>
          { r with filling := true })).settleStreams
    else
      ((c.bump.depart e (.fill q r.thread) (slotCore r.ctgt) (64 * seg) .fill r.gen).mapDesc q i (fun r =>
          { r with filling := true })).settleStreams
  | _ => c.descGone q i

/-- The head of the queue has completed (R266): it has faulted in nothing, and every granule has returned. -/
def DescRun.complete (r : DescRun) : Bool :=
  r.started && r.allIssued && r.grans.isEmpty && !r.faulted && !r.filling && (r.word 14 == 0 || r.chained)

/-- A CODELOAD has performed every write: every die code cache drops the lines of the range and the offers for them, and
the code epoch increases by 1 (R284). -/
def State.codeLoaded (s : State) (base n : Nat) : State :=
  let hit (line : Nat) : Bool := decide (base ≤ 128 * line ∧ 128 * line < base + n)
  { s with
    epoch := s.epoch + 1
    dies := s.dies.map (fun p => (p.1, { p.2 with lines := p.2.lines.filter (fun x => !hit x.2.line)
                                                  offers := p.2.offers.filter (fun o => !hit o.line) })) }

/-- A CODELOAD whose every write has been performed, and whose steps of R284 are due. -/
def DescRun.loadDue (r : DescRun) : Bool :=
  r.op == 4 && r.started && r.allIssued && r.grans.isEmpty && r.live && !r.loaded

/-- The steps of R284 for every CODELOAD of a queue that has performed its writes, wherever it stands in the queue (R266). -/
def State.loadCodes (s : State) (id : CoreId) (q : Fin 4) : State :=
  let base := match s.jobOf id with | some j => (s.job j).codeBase | none => 0
  let due := (((s.core id).de.q[q]).descs).filter DescRun.loadDue
  if due.isEmpty then s
  else
    (due.foldl (fun s r => s.codeLoaded (base + r.dstAddr) r.len0) s).onCore id (fun _ c =>
      c.mapDq q (fun d => { d with descs := d.descs.map (fun r => if r.loadDue then { r with loaded := true } else r) }))

/-- A descriptor whose writes are performed completes and posts its signals in queue order. -/
def execDescriptorComplete (core : BitVec 13) (q : Fin 4) (s : State) : Out :=
  if !s.assigned core then .next s
  else
    let s := s.loadCodes core q
    match (s.core core).headDesc q with
    | none => .next s
    | some (i, r) => if !r.complete then .next s else onCore core (fun e c => c.descComplete e q i r) s

/-- A completion fill is served, refused, or sent again (R218, R220, R221, R267). -/
def Core.slotFill (q : Fin 4) (c : Core) : Core :=
  match c.fillIndex q with
  | none => c
  | some i =>
    let here := c.spm.waits.find? (fun x => decide (x.who = .fill q))
    let away := c.spm.remote.find? (fun r => !r.dead && match r.who with | .fill p _ => p == q | _ => false)
    match here, away with
    | some x, _ =>
      if c.spm.fits x.seg true && !c.spm.moving x.seg && (c.spm.firstFit x.seg == some x) then
        ((c.mapSpm (fun m => (m.serveFill x.seg).unpark (.fill q))).mapDesc q i (fun r => { r with filling := false })).descGone
          q i
      else c
    | none, some r =>
      let c' := c.mapSpm (fun m => m.endRemote r.id)
      match if c.spm.inTurn r then r.stage else .leaving with
      | .answered .retry => c.mapSpm (fun m => m.resend r.id)
      | .answered .quarantine => c'.fillRefused q (quarantineFault r.target r.offset)
      | .answered .gate => c'.fillRefused q (gateFault r.target r.offset)
      | .answered .otherJob => (c'.mapDesc q i (fun r => { r with filling := false })).dqDescriptor q i 0x06 4
      | .answered _ => (c'.mapDesc q i (fun r => { r with filling := false })).descGone q i
      | _ => c
    | none, none => c

/-- A completion slot fill makes its slot full, or goes on waiting. -/
def execDmaSlotFill (core : BitVec 13) (q : Fin 4) (s : State) : Out := onCore core (fun _ c => c.slotFill q) s

end Sys2Proof.Machine
end

