-- ==== Sys2Proof/Machine/Arrival.lean ====
section
/-! DEFINITION. What a core does with the accesses of other cores that arrive at its inbound port, and the service of
accesses that wait on its slots (R207, R210, R211, R217 to R222, R248, R498). -/

namespace Sys2Proof.Machine

/-- The first access of a core to a target that is on its way (R248). -/
def State.arriving (s : State) (target source : CoreId) : Option Remote :=
  (s.core source).spm.remote.find? (fun r => r.target == target && decide (r.stage = .leaving))

/-- The target answers an access of a core. -/
def State.reply (s : State) (source : CoreId) (id : Nat) (a : RemoteAnswer) : State := s.deliverAnswer (source, id, a)

/-- The access waits at its target, or has been served there and moves its data. -/
def State.parkSource (s : State) (source : CoreId) (id : Nat) : State :=
  s.setCore source ((s.core source).mapSpm (fun m => m.mapRemote id (fun r => { r with stage := .parked })))

/-- Both cores belong to one job (R207). -/
def State.sameJob (s : State) (a b : CoreId) : Bool := decide (s.jobOf a = s.jobOf b)

/-- What a target answers before its gates look: its entry of the core map is invalid, it is quarantined, or it belongs to another
job (R207, R309, R498). -/
def State.turnedAway (s : State) (target source : CoreId) (r : Remote) : Option State :=
  if !s.assigned target then some (s.reply source r.id .gate)
  else if s.quarantined target then some (s.reply source r.id .quarantine)
  else if !s.sameJob source target then
    some ((s.onCore target (fun _ c => c.refuseOtherJob r.offset)).reply source r.id .otherJob)
  else none

/-- A write of another core is refused by the gates: it counts there and is answered (R211). -/
def State.gateRefuse (s : State) (target source : CoreId) (r : Remote) (bytes : Nat) : State :=
  (s.onCore target (fun _ c => c.refuse r.offset bytes)).reply source r.id .gate

/-- The first access of a core to a target, once its flit has come through the fabric (R303, R313). -/
def State.arrival (s : State) (target source : CoreId) (f : FlitFinding) : State ⊕ (State × Remote) :=
  match s.arriving target source with
  | none => .inl s
  | some r => s.takeRequestFlit target source f r

/-- A remote read is checked and served (R207). -/
def execRemoteReadArrival (target source : BitVec 13) (s : State) (found : List SpmFinding := []) (flit : FlitFinding := .intact) : Out :=
  match s.arrival target source flit with
  | .inl s => .next s
  | .inr (s, r) =>
    match r.kind with
    | .read n =>
      match s.turnedAway target source r with
      | some s => .next s
      | none =>
        let s := s.onCore target (fun _ c => (c.meet [(r.offset, n)] found).granted .inbound [(r.offset, n)])
        .next (s.reply source r.id (.data ((s.core target).spm.get r.offset n)))
    | _ => .next s

/-- A remote write or reduce-on-write is accepted or refused (R210, R211, R233, R264). -/
def execRemoteWriteArrival (target source : BitVec 13) (s : State) (found : List SpmFinding := []) (flit : FlitFinding := .intact) : Out :=
  match s.arrival target source flit with
  | .inl s => .next s
  | .inr (s, r) =>
    let m := (s.core target).spm
    match r.kind with
    | .write x =>
      match s.turnedAway target source r with
      | some s => .next s
      | none =>
        if m.accepts (.core source) r.gen r.offset x.bytes.length then
          .next ((s.onCore target (fun _ c =>
            ((c.mapSpm (fun m => m.put r.offset x)).unverified [(r.offset, x.bytes.length)] found).granted .inbound
              [(r.offset, x.bytes.length)])).reply source r.id .done)
        else .next (s.gateRefuse target source r x.bytes.length)
    | .reduce ty data =>
      match s.turnedAway target source r with
      | some s => .next s
      | none =>
        if !m.accepts (.core source) r.gen r.offset data.length then .next (s.gateRefuse target source r data.length)
        else
          let s := s.onCore target (fun _ c => (c.meet [(r.offset, data.length)] found).granted .inbound [(r.offset, data.length)])
          if poisoned (s.core target).spm.poison r.offset data.length || lostOf flit data.length != [] then .next (s.reply source r.id .ecc)
          else
            let ty := (Ty.ofCode ty.toNat).getD .i32
            .next ((s.onCore target (fun _ c => (c.mapSpm (fun m =>
              m.write r.offset (reduceBytes ty (memReadN m.mem r.offset data.length) data))).unverified
                [(r.offset, data.length)] found)).reply source r.id .done)
    | _ => .next s

/-- The tagged access that a remote access is: whether it stores, whether it blocks, and what it brings. -/
def RemoteKind.tagged : RemoteKind → Option (Bool × Bool × Payload)
  | .sld b => some (false, b, .empty)
  | .sst b x => some (true, b, x)
  | .fill => some (true, true, .empty)
  | _ => none

/-- A remote tagged access that the gates admit: it is served, it parks, or it is answered NOT DONE or RETRY (R219 to
R223). A non-blocking access whose slot is still moving data has not been reached yet; its data stays as its flit brought it. -/
def State.tagArrive (s : State) (target source : CoreId) (r : Remote) (store blocking : Bool) (x : Payload) : State :=
  let m := (s.core target).spm
  let seg := r.offset / 64
  let w : SlotWait := { seg := seg, who := .remote source r.id, store := store, data := x }
  if m.servesNow seg store then
    if r.kind = .fill then (s.onCore target (fun _ c => c.mapSpm (fun m => m.serveFill seg))).reply source r.id .done
    else (s.onCore target (fun _ c => c.mapSpm (fun m => m.serve w x))).parkSource source r.id
  else if !blocking then
    if m.fits seg store then s.setCore source ((s.core source).mapSpm (fun m => m.mapRemote r.id (fun _ => r)))
    else s.reply source r.id .notDone
  else if m.parked < 32 then (s.onCore target (fun _ c => c.mapSpm (fun m => m.park w))).parkSource source r.id
  else s.reply source r.id .retry

/-- A remote tagged access arrives at its target. -/
def execRemoteTagArrival (target source : BitVec 13) (s : State) (flit : FlitFinding := .intact) : Out :=
  match s.arrival target source flit with
  | .inl s => .next s
  | .inr (s, r) =>
    match r.kind.tagged with
    | none => .next s
    | some (store, blocking, x) =>
      match s.turnedAway target source r with
      | some s => .next s
      | none =>
        let m := (s.core target).spm
        if m.slotOpen (r.offset / 64) && m.accepts (.core source) r.gen r.offset 64 then
          .next (s.tagArrive target source r store blocking x)
        else .next (s.gateRefuse target source r 64)

/-- A withdrawal reaches its target: an access that is still parked, or that was answered RETRY, is removed (R222). One
that has been served is left to complete. -/
def execWithdrawalArrival (target source : BitVec 13) (s : State) (flit : FlitFinding := .intact) : Out :=
  let here (r : Remote) : Bool :=
    decide (r.stage = .answered .retry) ||
      (s.core target).spm.waits.any (fun x => decide (x.who = .remote source r.id))
  match (s.core source).spm.remote.find? (fun r => r.target == target && r.withdrawal && decide (r.stage ≠ .lost) && here r) with
  | none => .next s
  | some r =>
    match s.takeRequestFlit target source flit r with
    | .inl s => .next s
    | .inr (s, _) =>
      .next ((s.onCore target (fun _ c => c.mapSpm (fun m => m.unpark (.remote source r.id)))).reply source r.id .withdrawn)

/-- The first access that waits on a slot and finds its tag in the needed state is served (R220). -/
def Core.serveWait (seg : Nat) (c : Core) : Core :=
  if c.spm.moving seg then c
  else
    match c.spm.firstFit seg with
    | none => c
    | some x =>
      match x.who with
      | .fill q => c.slotFill q
      | .remote _ _ => c.mapSpm (fun m => (m.serve x x.data).unpark x.who)
      | .thread t =>
        match (c.th t).stall with
        | .slot g store w _ =>
          (c.mapSpm (fun m => (m.serve x x.data).unpark x.who)).mapTh t (fun h => { h with stall := .slotMove g store w })
        | _ => c

/-- A waiting tagged access is served. -/
def execTagWaitComplete (core : BitVec 13) (seg : BitVec 16) (s : State) : Out :=
  onCore core (fun _ c => if c.frozen then c else c.serveWait seg.toNat) s

end Sys2Proof.Machine
end

