-- ==== Sys2Proof/Machine/Vector.lean ====
section
/-! DEFINITION. The vector engine: what each instruction does (R138 to R153, R557), and the engine's own events: start,
completion, retention and wake (R123, R157, R158). -/

namespace Sys2Proof.Machine

/-! ### Elements -/

/-- The instruction is masked, and by which register. -/
def VeOp.masked (o : VeOp) : Bool := o.w.msk != 0
def VeOp.maskReg (o : VeOp) : Fin 8 := Fin.ofNat 8 o.w.msk.toNat

/-- The mask bit of element `i`; every element of an unmasked instruction is active (R127). -/
def VeOp.maskBit (o : VeOp) (v : Ve) (i : Nat) : Bool := !o.masked || (v.m[o.maskReg]).getLsbD i

/-- The mask word of element `i` is poison (R153). -/
def VeOp.maskBad (o : VeOp) (v : Ve) (i : Nat) : Bool := o.masked && nhas v.mpoison (32 * o.maskReg.val + i / 64)

/-- The elements below `n` that are active, or whose mask bit is not known. -/
def VeOp.indices (o : VeOp) (v : Ve) (n : Nat) : List Nat :=
  (List.range n).filter (fun i => o.maskBit v i || o.maskBad v i)

/-- First bit of the group that begins at a register (R124). -/
def groupBit (reg : Nat) : Nat := 8192 * reg

/-- Element `i` of type `t` of the group at register `reg`. -/
def Ve.elem (v : Ve) (reg : Nat) (t : Ty) (i : Nat) : Nat := readElem v.v (groupBit reg) t i

/-- The word of that element is poison. -/
def Ve.elemBad (v : Ve) (reg : Nat) (t : Ty) (i : Nat) : Bool := nhas v.vpoison ((groupBit reg + t.width * i) / 64)

/-- Byte `k` of a register, and whether its word is poison: a scale byte. -/
def Ve.byte (v : Ve) (reg k : Nat) : Byte := memRead v.v (1024 * reg + k)
def Ve.byteBad (v : Ve) (reg k : Nat) : Bool := nhas v.vpoison ((1024 * reg + k) / 8)

/-- One element's outcome: what it writes, the flags it sets, and the operands whose poison it consumed (R153). -/
structure VLane where
  write : ElemWrite
  flags : Flags
  eats : List (BitVec 4)
  deriving DecidableEq, Repr

/-- The operands of a list that are poison. -/
def eaten (l : List (Bool × BitVec 4)) : List (BitVec 4) := (l.filter (fun p => p.1)).map (fun p => p.2)

/-- An element of an instruction that consumes its operands: with poison its word is written as poison and it sets no
flag. -/
def consume (pos width : Nat) (r : Nat × Flags) (bads : List (Bool × BitVec 4)) : VLane :=
  let eats := eaten bads
  { write := ⟨pos, width, r.1, !eats.isEmpty⟩, flags := if eats.isEmpty then r.2 else fNone, eats := eats }

/-- An element of a data move: its poison goes along, and only a poisoned mask word is consumed. -/
def carry (pos width value : Nat) (bad maskBad : Bool) : VLane :=
  { write := ⟨pos, width, value, bad || maskBad⟩, flags := fNone, eats := eaten [(maskBad, 4)] }

/-- What an instruction does. -/
structure VeEffect where
  regs : List ElemWrite
  spm : List ElemWrite
  /-- A mask register, its new contents and its poisoned words. -/
  mask : Option (Fin 8 × BitVec 2048 × NatSet)
  flags : Flags
  eats : List (BitVec 4)
  stream : Option (Fin 6 × Stream)
  deriving DecidableEq, Repr

/-- No effect. -/
def VeEffect.none : VeEffect := ⟨[], [], Option.none, fNone, [], Option.none⟩

/-- The lanes of an instruction that writes registers. -/
def lanesToRegs (l : List VLane) : VeEffect :=
  { VeEffect.none with
    regs := l.map (fun x => x.write)
    flags := l.foldl (fun f x => f ||| x.flags) fNone
    eats := l.flatMap (fun x => x.eats) }

/-! ### Memory forms -/

/-- First bit of field `f` of element `i` in the scratchpad. -/
def VeOp.spmBit (o : VeOp) (i f : Nat) : Nat := if o.ty.width = 4 then 8 * o.x + 4 * i else 8 * o.addr i f

/-- First bit of element `i` of the group of field `f` from a register (R140). -/
def VeOp.regBit (o : VeOp) (reg : BitVec 5) (t : Ty) (i f : Nat) : Nat :=
  groupBit (reg.toNat + f * o.group) + t.width * i

/-- A load: VLD, VLDSR and the structure loads (R136, R138, R140). -/
def veLoad (o : VeOp) (v : Ve) (m : Spm) : VeEffect :=
  lanesToRegs ((o.indices v o.len).flatMap (fun i => (List.range o.opc.fields).map (fun f =>
    carry (o.regBit o.w.vd o.ty i f) o.ty.width (readElem m.mem (o.spmBit i f) o.ty 0)
      (nhas m.poison (o.spmBit i f / 64)) (o.maskBad v i))))

/-- A store: VST, VSTSR and the structure stores; VEXT stores element 0 (R139, R142). -/
def veStore (o : VeOp) (v : Ve) : VeEffect :=
  let l := (o.indices v o.count).flatMap (fun i => (List.range o.opc.fields).map (fun f =>
    carry (o.spmBit i f) o.ty.width (readElem v.v (o.regBit o.w.va o.ty i f) o.ty 0)
      (nhas v.vpoison (o.regBit o.w.va o.ty i f / 64)) (o.maskBad v i)))
  { VeEffect.none with spm := l.map (fun x => x.write), eats := l.flatMap (fun x => x.eats) }

/-- VBCAST (R142). -/
def veBcast (o : VeOp) (v : Ve) (m : Spm) : VeEffect :=
  lanesToRegs ((o.indices v o.len).map (fun i =>
    carry (o.regBit o.w.vd o.ty i 0) o.ty.width (readElem m.mem (o.spmBit 0 0) o.ty 0)
      (nhas m.poison (o.spmBit 0 0 / 64)) (o.maskBad v i)))

/-- VMLD (R557). -/
def veMaskLoad (o : VeOp) (m : Spm) : VeEffect :=
  { VeEffect.none with
    mask := some (Fin.ofNat 8 o.w.vd.toNat, BitVec.ofNat 2048 (m.read o.x 256),
      (List.range 32).filter (fun k => nhas m.poison (o.x / 8 + k))) }

/-- VMST (R557). -/
def veMaskStore (o : VeOp) (v : Ve) : VeEffect :=
  let n : Fin 8 := Fin.ofNat 8 o.w.va.toNat
  { VeEffect.none with
    spm := (List.range 32).map (fun k =>
      ⟨8 * o.x + 64 * k, 64, bitsAt (v.m[n]).toNat (64 * k) 64, nhas v.mpoison (32 * n.val + k)⟩) }

/-! ### Element operations -/

/-- Minimum or maximum of two short codes, by value (R40, R143). -/
def minmaxShort (isMax : Bool) (t : Ty) (a b : Nat) : Nat :=
  let x := decShort t a
  let y := decShort t b
  match x.isNan, y.isNan with
  | true, true => nanShort t
  | true, false => b
  | false, true => a
  | false, false =>
    if isMax then (if cmpFl x y = .lt then b else a) else (if cmpFl y x = .lt then b else a)

/-- VMIN and VMAX in every type. -/
def veMinMax (isMax : Bool) (t : Ty) (x y : Nat) : Nat :=
  if t = .f32 then minmax32 isMax x y
  else if t.isShort then minmaxShort isMax t x y
  else
    let less := decide (signed t.width x < signed t.width y)
    if less != isMax then x else y

/-- VBIT (Table 5-6). -/
def veBit (fn n x y : Nat) : Nat :=
  match fn with
  | 0 => x &&& y
  | 1 => x ||| y
  | 2 => x ^^^ y
  | 3 => x &&& ((2 ^ n - 1) ^^^ y)
  | 4 => (x <<< (y % n)) % 2 ^ n
  | 5 => x >>> (y % n)
  | _ => toBits n (signed n x >>> (y % n))

/-- An operation of two elements, with the old destination for VFMA: the code and the flags (R135). -/
def veAlu (opc : VeOpc) (fn : Nat) (t : Ty) (d x y : Nat) : Nat × Flags :=
  let n := t.width
  match opc with
  | .vadd => if t = .f32 then add32 x y else ((x + y) % 2 ^ n, fNone)
  | .vsub => if t = .f32 then sub32 x y else ((x + 2 ^ n - y) % 2 ^ n, fNone)
  | .vmul => if t = .f32 then mul32 x y else ((x * y) % 2 ^ n, fNone)
  | .vfma => fma32 d x y
  | .vfdiv => div32 x y
  | .vfsqrt => sqrt32 x
  | .vmin => (veMinMax false t x y, fNone)
  | .vmax => (veMinMax true t x y, fNone)
  | _ => (veBit fn n x y, fNone)

/-- The element-wise instructions. VFSQRT has no operand b, and only VFMA reads its destination. -/
def veElementwise (o : VeOp) (v : Ve) : VeEffect :=
  let t := o.ty
  let d := o.w.vd.toNat
  let a := o.w.va.toNat
  let b := o.w.vb.toNat
  lanesToRegs ((o.indices v o.len).map (fun i =>
    consume (o.regBit o.w.vd t i 0) t.width
      (veAlu o.opc o.fn t (v.elem d t i) (v.elem a t i) (v.elem b t i))
      [(o.opc == .vfma && v.elemBad d t i, 1), (v.elemBad a t i, 2), (o.opc != .vfsqrt && v.elemBad b t i, 3),
       (o.maskBad v i, 4)]))

/-- VMOVI. -/
def veMovi (o : VeOp) (v : Ve) : VeEffect :=
  lanesToRegs ((o.indices v o.len).map (fun i =>
    consume (o.regBit o.w.vd o.ty i 0) o.ty.width (o.ty.keep o.w.ext.toNat, fNone) [(o.maskBad v i, 4)]))

/-- VMERGE (R145): every element below L, whatever its mask bit. -/
def veMerge (o : VeOp) (v : Ve) : VeEffect :=
  lanesToRegs ((List.range o.len).map (fun i =>
    let r := (if o.maskBit v i then o.w.va else o.w.vb).toNat
    carry (o.regBit o.w.vd o.ty i 0) o.ty.width (v.elem r o.ty i) (v.elemBad r o.ty i) (o.maskBad v i)))

/-- VSLIDE (R146). -/
def veSlide (o : VeOp) (v : Ve) : VeEffect :=
  let a := o.w.va.toNat
  lanesToRegs ((o.indices v o.len).map (fun i =>
    let j : Int := Int.ofNat i + signed 16 o.w.ext.toNat
    let inside := decide (0 ≤ j ∧ j < o.len)
    carry (o.regBit o.w.vd o.ty i 0) o.ty.width (if inside then v.elem a o.ty j.toNat else 0)
      (inside && v.elemBad a o.ty j.toNat) (o.maskBad v i)))

/-! ### Compare and mask logic -/

/-- A mask register from its bits. -/
def maskOf (f : Nat → Bool) : BitVec 2048 :=
  BitVec.ofNat 2048 ((List.range 2048).foldl (fun a i => if f i then a + 2 ^ i else a) 0)

/-- A condition of VCMP: the bit and the flags (R144, R42). -/
def veCond (cond : Nat) (t : Ty) (x y : Nat) : Bool × Flags :=
  let n := t.width
  if t.isInt then
    (match cond with
     | 0 => x == y
     | 1 => x != y
     | 2 => decide (signed n x < signed n y)
     | 3 => decide (signed n x ≤ signed n y)
     | 4 => decide (x < y)
     | _ => decide (x ≤ y), fNone)
  else
    compareFl (match cond with | 0 => .eq | 1 => .ne | 2 => .lt | 3 => .le | _ => .un) (decTy t x) (decTy t y)

/-- VCMP (R144). -/
def veCompare (o : VeOp) (v : Ve) : VeEffect :=
  let t := o.ty
  let a := o.w.va.toNat
  let b := o.w.vb.toNat
  let md : Fin 8 := Fin.ofNat 8 o.w.vd.toNat
  let old := v.m[md]
  let act := o.indices v o.len
  let bad (i : Nat) : List (Bool × BitVec 4) := [(v.elemBad a t i, 2), (v.elemBad b t i, 3), (o.maskBad v i, 4)]
  let eats := act.flatMap (fun i => eaten (bad i))
  let clean (i : Nat) : Bool := (eaten (bad i)).isEmpty
  let res (i : Nat) : Bool × Flags := veCond o.fn t (v.elem a t i) (v.elem b t i)
  let isAct (i : Nat) : Bool := o.maskBit v i || o.maskBad v i
  { VeEffect.none with
    mask := some (md,
      maskOf (fun i => decide (i < o.len) && (if isAct i then (res i).1 else old.getLsbD i)),
      (List.range 32).filter (fun k =>
        act.any (fun i => i / 64 == k && !clean i) ||
          (nhas v.mpoison (32 * md.val + k) &&
            (List.range 64).any (fun j => decide (64 * k + j < o.len) && !isAct (64 * k + j)))))
    flags := act.foldl (fun f i => if clean i then f ||| (res i).2 else f) fNone
    eats := eats }

/-- VMOP (R143). -/
def veMaskOp (o : VeOp) (v : Ve) : VeEffect :=
  let na : Fin 8 := Fin.ofNat 8 o.w.va.toNat
  let nb : Fin 8 := Fin.ofNat 8 o.w.vb.toNat
  let a := v.m[na]
  let b := v.m[nb]
  let r : BitVec 2048 := match o.fn with
    | 0 => a &&& b
    | 1 => a ||| b
    | 2 => a ^^^ b
    | 3 => a &&& ~~~b
    | 4 => ~~~a
    | _ => BitVec.ofNat 2048 (2 ^ min o.vlen 2048 - 1)
  let badA (k : Nat) : Bool := decide (o.fn < 5) && nhas v.mpoison (32 * na.val + k)
  let badB (k : Nat) : Bool := decide (o.fn < 4) && nhas v.mpoison (32 * nb.val + k)
  { VeEffect.none with
    mask := some (Fin.ofNat 8 o.w.vd.toNat, r, (List.range 32).filter (fun k => badA k || badB k))
    eats := (List.range 32).flatMap (fun k => eaten [(badA k, 2), (badB k, 3)]) }

/-! ### Reduction -/

/-- One level of the tree: adjacent positions combine, an empty one passes the other on (R147). -/
def redLevel {α : Type} (f : α → α → α) : List (Option α) → List (Option α)
  | x :: y :: l =>
    (match x, y with
     | some a, some b => some (f a b)
     | some a, none => some a
     | none, b => b) :: redLevel f l
  | l => l

/-- `n` levels of the tree. -/
def redTree {α : Type} (f : α → α → α) : Nat → List (Option α) → List (Option α)
  | 0, l => l
  | n + 1, l => redTree f n (redLevel f l)

/-- Two values combine at a node, with the flags of both and of the node. -/
def redNode (fn : Nat) (t : Ty) (a b : Nat × Flags) : Nat × Flags :=
  let (r, f) : Nat × Flags := match fn with
    | 0 => veAlu .vadd 0 t 0 a.1 b.1
    | 1 => (veMinMax true t a.1 b.1, fNone)
    | _ => (veMinMax false t a.1 b.1, fNone)
  (r, a.2 ||| b.2 ||| f)

/-- What an empty root gives. -/
def redEmpty (fn : Nat) (t : Ty) : Nat :=
  if fn = 0 then 0 else if t = .f32 then nan32 else if t.isShort then nanShort t else 0

/-- VRED (R147). -/
def veReduce (o : VeOp) (v : Ve) : VeEffect :=
  let t := o.ty
  let a := o.w.va.toNat
  let act := o.indices v o.len
  let leaf (i : Nat) : Option (Nat × Flags) :=
    if i < o.len ∧ o.maskBit v i then some (v.elem a t i, fNone) else none
  let root := ((redTree (redNode o.fn t) 11 ((List.range 2048).map leaf)).headD none).getD (redEmpty o.fn t, fNone)
  lanesToRegs [consume (o.regBit o.w.vd t 0 0) t.width root
    [(act.any (fun i => v.elemBad a t i), 2), (act.any (fun i => o.maskBad v i), 4)]]

/-! ### Widening multiply, dot product, conversion -/

/-- A product of two short codes as binary32 (R148); a zero factor gives +0. -/
def wideProduct (ta tb : Ty) (x y : Nat) : Nat :=
  match product (decShort ta x) (decShort tb y) with
  | .fin n m e => if m = 0 then zero32 false else (round32 n m e false).1
  | _ => nan32

/-- The depth of the datapath class of a widening instruction (Table 5-3). -/
def VeOp.depth (o : VeOp) : Nat := if o.opc = .vcvt then 4 else 5

/-- The beat that result element `i` belongs to (R130). -/
def VeOp.beat (o : VeOp) (i : Nat) : Nat := i * max o.ty.width o.dty.width / 1024

/-- Source element `j` of type `t` at register `reg` that result element `i` takes: operand `w` of the instruction. Where the
instruction widens in place, an earlier element's result covers its bits only once that element's beat has been written, the
depth of the datapath after it entered (R130): a beat that enters before reads the source. For a later beat the spec does not
say whether the beats of the two follow each other without a gap: the code is then a free value (DESIGN CHOICE, log entry 7).
[DESIGN CHOICE: log entry 7] -/
def VeOp.source (o : VeOp) (v : Ve) (fresh : Nat) (reg : Nat) (t : Ty) (w i j : Nat) : Nat :=
  let k := t.width * j / o.dty.width
  if reg = o.w.vd.toNat ∧ t.width < o.dty.width ∧ k < i ∧ o.beat k + o.depth ≤ o.beat i ∧ (o.maskBit v k || o.maskBad v k) then
    t.keep (Config.lateElement fresh (2 * i + w)).toNat
  else v.elem reg t j

/-- VWMUL (R148). [DEDUCED: log entry 27] -/
def veWideMul (o : VeOp) (v : Ve) (fresh : Nat) : VeEffect :=
  let t := o.ty
  let u := o.bty
  let n := o.dty.width
  let a := o.w.va.toNat
  let b := o.w.vb.toNat
  lanesToRegs ((o.indices v o.len).map (fun i =>
    let j := i + bitsAt o.w.ext.toNat 26 2 * (o.group * 8192 / n)
    let x := o.source v fresh a t 0 i j
    let y := o.source v fresh b u (if a = b then 0 else 1) i j
    consume (o.regBit o.w.vd o.dty i 0) n
      (if t = .i8 then toBits n (signed 8 x * signed 8 y) else wideProduct t u x y, fNone)
      [(v.elemBad a t j, 2), (v.elemBad b u j, 3), (o.maskBad v i, 4)]))

/-- Products per lane of VDOT (Table 5-10). -/
def dotK (t : Ty) : Nat := 32 / t.width

/-- One lane of VDOT: the accumulator, the elements of a and b, and their block's scales (R149, R150). -/
def dotLane (t u : Ty) (d : Nat) (xs ys : List Nat) (sa sb : Byte) : Nat × Flags :=
  if t = .i8 then
    (toBits 32 ((d : Int) + (xs.zipWith (fun x y => signed 8 x * signed 8 y) ys).foldl (· + ·) 0), fNone)
  else
    let ps := xs.zipWith (fun x y => product (scaled (decShort t x) sa) (scaled (decShort u y) sb)) ys
    if t = .h4 then accStep d ps else dotOnce d ps

/-- VDOT (R149, R150). -/
def veDot (o : VeOp) (v : Ve) : VeEffect :=
  let t := o.ty
  let u := o.bty
  let k := dotK t
  let d := o.w.vd.toNat
  let a := o.w.va.toNat
  let b := o.w.vb.toNat
  let sc := o.w.ext.getLsbD 31
  let vs := bitsAt o.w.ext.toNat 26 5
  lanesToRegs ((o.indices v o.len).map (fun j =>
    let ix := (List.range k).map (fun m => k * j + m)
    let q := k * j / 32
    consume (groupBit d + 32 * j) 32
      (dotLane t u (v.elem d .i32 j) (ix.map (v.elem a t)) (ix.map (v.elem b u)) (if sc then v.byte vs q else 0)
        (if sc then v.byte vs (512 + q) else 0))
      [(v.elemBad d .i32 j, 1), (v.elemBad a t (k * j), 2), (v.elemBad b u (k * j), 3), (o.maskBad v j, 4),
       (sc && (v.byteBad vs q || v.byteBad vs (512 + q)), 5)]))

/-- The scales of element `i` of a VCVT (R151). -/
def VeOp.scales (o : VeOp) (v : Ve) (i : Nat) : Byte × Byte :=
  let e := o.w.ext.toNat
  match bitsAt e 25 2 with
  | 1 => (BitVec.ofNat 8 (bitsAt e 8 8), BitVec.ofNat 8 (bitsAt e 0 8))
  | 2 => (v.byte (bitsAt e 20 5) (i / 32), v.byte (bitsAt e 20 5) (512 + i / 32))
  | _ => (0, 0)

/-- The active elements of a VCVT in order through its stream; a poisoned one is not converted (R151, R153, R56). -/
def convertAll (o : VeOp) (v : Ve) (fresh : Nat) : List Nat → Stream → List VLane → Stream × List VLane
  | [], s, acc => (s, acc)
  | i :: l, s, acc =>
    let e := o.w.ext.toNat
    let a := o.w.va.toNat
    let vs := bitsAt e 20 5
    let bads : List (Bool × BitVec 4) :=
      [(v.elemBad a o.ty i, 2), (o.maskBad v i, 4),
       (bitsAt e 25 2 == 2 && (v.byteBad vs (i / 32) || v.byteBad vs (512 + i / 32)), 5)]
    let x := s.feed o.ty o.dty (o.source v fresh a o.ty 0 i i) (o.scales v i).1 (o.scales v i).2
    let lane := consume (o.regBit o.w.vd o.dty i 0) o.dty.width (x.2.1, x.2.2) bads
    convertAll o v fresh l (if lane.eats.isEmpty then x.1 else s) (acc ++ [lane])

/-- VCVT (R151). -/
def veConvert (o : VeOp) (v : Ve) (fresh : Nat) (streams : Vector Stream 6) : VeEffect :=
  let i : Fin 6 := if o.w.ext.getLsbD 31 then 1 else 0
  let r := convertAll o v fresh (o.indices v o.len) streams[i] []
  { lanesToRegs r.2 with stream := some (i, r.1) }

/-! ### An instruction as a whole -/

/-- What an operation does, from the state before it. -/
def VeOp.effect (o : VeOp) (fresh : Nat) (v : Ve) (m : Spm) (streams : Vector Stream 6) : VeEffect :=
  match o.opc with
  | .vld | .vldsr | .vlds2 | .vlds3 | .vlds4 => veLoad o v m
  | .vst | .vstsr | .vsts2 | .vsts3 | .vsts4 | .vext => veStore o v
  | .vmld => veMaskLoad o m
  | .vmst => veMaskStore o v
  | .vbcast => veBcast o v m
  | .vmovi => veMovi o v
  | .vadd | .vsub | .vmul | .vfma | .vmin | .vmax | .vbit | .vfdiv | .vfsqrt => veElementwise o v
  | .vcmp => veCompare o v
  | .vmerge => veMerge o v
  | .vslide => veSlide o v
  | .vred => veReduce o v
  | .vmop => veMaskOp o v
  | .vwmul => veWideMul o v fresh
  | .vdot => veDot o v
  | .vcvt => veConvert o v fresh streams

/-- The lowest operand number of a list. -/
def lowestOpid : List (BitVec 4) → Option (BitVec 4)
  | [] => none
  | x :: l => match lowestOpid l with
    | none => some x
    | some y => some (if y < x then y else x)

/-- Poisoned words of a mask register after it is written. -/
def maskPoison (p : NatSet) (n : Fin 8) (bad : NatSet) : NatSet :=
  ninsAll (ndelAll p ((List.range 32).map (fun k => 32 * n.val + k))) (bad.map (fun k => 32 * n.val + k))

/-- An effect on the core: registers, masks, scratchpad, flags, stream, and the imprecise ECC_UNCORRECTED of consumed
poison (R153). [DEDUCED: log entry 26] -/
def Core.veApply (t : Fin 4) (x : VeEffect) (c : Core) : Core :=
  let ve := { c.ve with v := applyWrites c.ve.v x.regs, vpoison := poisonAfter c.ve.vpoison x.regs }
  let ve := match x.mask with
    | some (n, m, bad) => { ve with m := ve.m.set n m, mpoison := maskPoison ve.mpoison n bad }
    | none => ve
  let c := { c with ve := ve }
  let c := c.mapSpm (fun m => { m with mem := applyWrites m.mem x.spm, poison := poisonAfter m.poison x.spm })
  let c := match x.stream with
    | some (i, s) => { c with streams := c.streams.set i s }
    | none => c
  let c := c.flag x.flags
  match lowestOpid x.eats with
  | some n => c.arrive t (exc 0x0A n 1 0)
  | none => c

/-! ### Order against GMV -/

/-- Ranges of vector registers, first and count. -/
abbrev RegRange := Nat × Nat

/-- Two lists of register ranges meet. -/
def regsMeet (a b : List RegRange) : Bool := a.any (fun x => b.any (fun y => rangesMeet x.1 x.2 y.1 y.2))

/-- The vector registers an instruction reads. -/
def VeOp.reads (o : VeOp) : List RegRange :=
  let g := o.group
  let e := o.w.ext.toNat
  let u := o.opc.uses o.fn
  (if u.2.1 = .group then [(o.w.va.toNat, if o.opc.isLoad then g else g * o.opc.fields)] else []) ++
  (if u.2.2 = .group then [(o.w.vb.toNat, g)] else []) ++
  (if o.opc = .vfma ∨ o.opc = .vdot then [(o.w.vd.toNat, g)] else []) ++
  (if o.opc = .vdot ∧ e.testBit 31 then [(bitsAt e 26 5, 1)] else []) ++
  (if o.opc = .vcvt ∧ bitsAt e 25 2 = 2 then [(bitsAt e 20 5, 1)] else [])

/-- The vector registers an instruction writes. -/
def VeOp.writes (o : VeOp) : List RegRange :=
  if (o.opc.uses o.fn).1 = .group then [(o.w.vd.toNat, o.group * o.opc.fields)] else []

/-- The vector registers a GMV reads and writes (R188). -/
def MeOp.gmvReads (o : MeOp) : List RegRange :=
  let l := o.w.low.toNat
  [(bitsAt l 10 5, 2 ^ o.log), (bitsAt l 5 5, 2 ^ o.log)] ++ (if l.testBit 18 then [(bitsAt l 0 5, 1)] else [])
def MeOp.gmvWrites (o : MeOp) : List RegRange := [(bitsAt o.w.low.toNat 10 5, 2 ^ o.log)]

/-- A VE instruction and a GMV touch registers that one of them writes (R191). -/
def veGmvMeet (v : VeOp) (g : MeOp) : Bool :=
  g.opc == .gmv && (regsMeet v.reads g.gmvWrites || regsMeet v.writes g.gmvReads)

/-- The ME instructions that wait or run. -/
def Me.all (m : Me) : List MeOp := m.q.filterMap (fun x => match x with | .insn o => some o | _ => none) ++ m.run
/-- The VE instructions that wait or run. -/
def Ve.all (v : Ve) : List VeOp := v.q.filterMap (fun x => match x with | .insn o => some o | _ => none) ++ v.run

/-- Thread `t` of a core. -/
def VeOp.held (c : Core) (o : VeOp) : Bool :=
  (o.opc == .vcvt && c.streamHeld (if o.w.ext.getLsbD 31 then 1 else 0)) ||
    c.me.all.any (fun g => decide (g.seq < o.seq) && veGmvMeet o g)

/-! ### Events of the engine -/

/-- The instruction at the head of the VE queue starts: the VE is awake, its stream is not held, and no earlier GMV is
in its way (R123, R59, R158, R191). -/
def execVeInsnStart (core : BitVec 13) (s : State) : Out :=
  onCore core (fun _ c =>
    match c.ve.q with
    | .insn o :: q =>
      if c.ve.ret || o.held c then c
      else ({ c with ve := { c.ve with q := q, run := c.ve.run ++ [o] } } : Core).trim
    | _ => c) s

/-! ### Errors of the registers (R152) -/

/-- The mask registers an instruction reads, and writes. -/
def VeOp.masksRead (o : VeOp) : List Nat :=
  (if o.masked then [o.maskReg.val] else []) ++
    (match o.opc with
     | .vmst => [o.w.va.toNat]
     | .vmop => (if o.fn < 5 then [o.w.va.toNat] else []) ++ (if o.fn < 4 then [o.w.vb.toNat] else [])
     | .vcmp => [o.w.vd.toNat]
     | _ => [])
def VeOp.masksWritten (o : VeOp) : List Nat :=
  match o.opc with | .vmld | .vmop | .vcmp => [o.w.vd.toNat] | _ => []

/-- A word lies in registers of a list: words of V by byte ÷ 8, words of the masks from 4,096 on, 32 in each. -/
def inRegs (rs : List RegRange) (ms : List Nat) (k : Nat) : Bool :=
  if k < 4096 then rs.any (fun r => decide (r.1 ≤ k / 128 ∧ k / 128 < r.1 + r.2)) else ms.any (fun m => m == (k - 4096) / 32)

/-- A word of the registers is poison, or becomes it. -/
def Ve.bad (v : Ve) (k : Nat) : Bool := if k < 4096 then nhas v.vpoison k else nhas v.mpoison (k - 4096)
def Ve.poisonWord (v : Ve) (k : Nat) : Ve :=
  if k < 4096 then { v with vpoison := nins v.vpoison k }
  else if k < 4352 then { v with mpoison := nins v.mpoison (k - 4096) } else v

/-- A record REG_CE or REG_UE of an engine (Table 17-5). -/
def regPost (unit : BitVec 5) (ue : Bool) (k : Nat) : Post :=
  plainPost (if ue then 1 else 0) (if ue then 0x0106 else 0x0105) unit 0 0 [BitVec.ofNat 32 k]

/-- The engine found an uncorrectable error in its registers or datapath: the word is poison, VG.RESTR is set, and a record says
so (R152, R156). -/
def Core.veLost (k : Nat) (c : Core) : Core :=
  ({ c with ve := { (c.ve.poisonWord k) with restr := true, failed := true } } : Core).post (regPost 1 true k)

/-- What a read of words of the registers finds: a corrected word is written back and recorded, another is lost (R152). -/
def Core.veFind (reads : Nat → Bool) (fs : List RegFinding) (c : Core) : Core :=
  fs.foldl (fun c f =>
    let sees (k : Nat) : Bool := reads k && !c.ve.bad k
    match f with
    | .corrected w => if sees w.toNat then c.post (regPost 1 false w.toNat) else c
    | .uncorrectable w => if sees w.toNat then c.veLost w.toNat else c
    | _ => c) c

/-- What an instruction's reads of the registers find. -/
def Core.veMeet (o : VeOp) (fs : List RegFinding) (c : Core) : Core := c.veFind (inRegs o.reads o.masksRead) fs

/-- What becomes of the words it writes: the check of the incoming data fails, or the datapath lost them. -/
def Core.veWritten (o : VeOp) (fs : List RegFinding) (c : Core) : Core :=
  fs.foldl (fun c f =>
    let writes (k : Nat) : Bool := inRegs o.writes o.masksWritten k
    match f with
    | .badCheck w => if writes w.toNat then { c with ve := c.ve.poisonWord w.toNat } else c
    | .datapath w => if writes w.toNat then c.veLost w.toNat else c
    | _ => c) c

/-- The scratchpad bytes that an effect writes. -/
def VeEffect.ranges (x : VeEffect) : List (Nat × Nat) := x.spm.map (fun w => (w.pos / 8, ceilDiv (w.pos + w.width) 8 - w.pos / 8))

/-- The oldest VE instruction in flight takes effect and completes (R123). `found` and `regs` are what its words show
(R152, R202, R203). [DESIGN CHOICE: log entry 7] [DEDUCED: log entry 26] -/
def execVeInsnComplete (core : BitVec 13) (s : State) (found : List SpmFinding := []) (regs : List RegFinding := []) : Out :=
  onCore core (fun e c =>
    match c.ve.run with
    | [] => c
    | o :: run =>
      let c := ((if o.opc.isLoad then c.meet o.touches found else c).granted .vector o.touches).veMeet o regs
      let x := o.effect e.fresh c.ve c.spm c.streams
      (((({ c with ve := { c.ve with run := run } } : Core).veApply o.thread x).unverified x.ranges found).veWritten o
        regs).settleStreams) s

/-- The VE has been idle for 2,048 cycles and, where the clock plan allows it, enters retention (R157, R416). A GMV in flight keeps it awake (R191).
[DESIGN CHOICE: log entry 28] -/
def execVeRetention (core : BitVec 13) (s : State) : Out :=
  onCore core (fun e c =>
    if e.vepd && c.ve.q.isEmpty && c.ve.run.isEmpty && !c.me.run.any (fun g => g.opc == .gmv) then
      { c with ve := { c.ve with ret := true } }
    else c) s

/-- The wake ends: 120 cycles after it began VG.RET reads 0 (R158). -/
def execVeWakeComplete (core : BitVec 13) (s : State) : Out :=
  onCore core (fun _ c => if c.ve.waking then { c with ve := { c.ve with ret := false, waking := false } } else c) s

/-! ### The instructions -/

/-- VLD. -/
def execVld (a : Site) (v : VeWord) (s : State) : Out := veCmd a .vld v s
/-- VST. -/
def execVst (a : Site) (v : VeWord) (s : State) : Out := veCmd a .vst v s
/-- VLDSR. -/
def execVldsr (a : Site) (v : VeWord) (s : State) : Out := veCmd a .vldsr v s
/-- VSTSR. -/
def execVstsr (a : Site) (v : VeWord) (s : State) : Out := veCmd a .vstsr v s
/-- VLDS2. -/
def execVlds2 (a : Site) (v : VeWord) (s : State) : Out := veCmd a .vlds2 v s
/-- VLDS3. -/
def execVlds3 (a : Site) (v : VeWord) (s : State) : Out := veCmd a .vlds3 v s
/-- VLDS4. -/
def execVlds4 (a : Site) (v : VeWord) (s : State) : Out := veCmd a .vlds4 v s
/-- VSTS2. -/
def execVsts2 (a : Site) (v : VeWord) (s : State) : Out := veCmd a .vsts2 v s
/-- VSTS3. -/
def execVsts3 (a : Site) (v : VeWord) (s : State) : Out := veCmd a .vsts3 v s
/-- VSTS4. -/
def execVsts4 (a : Site) (v : VeWord) (s : State) : Out := veCmd a .vsts4 v s
/-- VMLD. -/
def execVmld (a : Site) (v : VeWord) (s : State) : Out := veCmd a .vmld v s
/-- VMST. -/
def execVmst (a : Site) (v : VeWord) (s : State) : Out := veCmd a .vmst v s
/-- VBCAST. -/
def execVbcast (a : Site) (v : VeWord) (s : State) : Out := veCmd a .vbcast v s
/-- VEXT. -/
def execVext (a : Site) (v : VeWord) (s : State) : Out := veCmd a .vext v s
/-- VMOVI. -/
def execVmovi (a : Site) (v : VeWord) (s : State) : Out := veCmd a .vmovi v s
/-- VADD. -/
def execVadd (a : Site) (v : VeWord) (s : State) : Out := veCmd a .vadd v s
/-- VSUB. -/
def execVsub (a : Site) (v : VeWord) (s : State) : Out := veCmd a .vsub v s
/-- VMUL. -/
def execVmul (a : Site) (v : VeWord) (s : State) : Out := veCmd a .vmul v s
/-- VFMA. -/
def execVfma (a : Site) (v : VeWord) (s : State) : Out := veCmd a .vfma v s
/-- VMIN. -/
def execVmin (a : Site) (v : VeWord) (s : State) : Out := veCmd a .vmin v s
/-- VMAX. -/
def execVmax (a : Site) (v : VeWord) (s : State) : Out := veCmd a .vmax v s
/-- VBIT. -/
def execVbit (a : Site) (v : VeWord) (s : State) : Out := veCmd a .vbit v s
/-- VCMP. -/
def execVcmp (a : Site) (v : VeWord) (s : State) : Out := veCmd a .vcmp v s
/-- VMERGE. -/
def execVmerge (a : Site) (v : VeWord) (s : State) : Out := veCmd a .vmerge v s
/-- VSLIDE. -/
def execVslide (a : Site) (v : VeWord) (s : State) : Out := veCmd a .vslide v s
/-- VRED. -/
def execVred (a : Site) (v : VeWord) (s : State) : Out := veCmd a .vred v s
/-- VMOP. -/
def execVmop (a : Site) (v : VeWord) (s : State) : Out := veCmd a .vmop v s
/-- VWMUL. -/
def execVwmul (a : Site) (v : VeWord) (s : State) : Out := veCmd a .vwmul v s
/-- VDOT. -/
def execVdot (a : Site) (v : VeWord) (s : State) : Out := veCmd a .vdot v s
/-- VCVT. -/
def execVcvt (a : Site) (v : VeWord) (s : State) : Out := veCmd a .vcvt v s
/-- VFDIV. -/
def execVfdiv (a : Site) (v : VeWord) (s : State) : Out := veCmd a .vfdiv v s
/-- VFSQRT. -/
def execVfsqrt (a : Site) (v : VeWord) (s : State) : Out := veCmd a .vfsqrt v s

end Sys2Proof.Machine
end

