-- ==== Sys2Proof/Machine/Matrix.lean ====
section
/-! DEFINITION. The matrix engine: what each instruction does (R170 to R172, R175, R180, R188, R194), and the engine's
own events: start in a pipe, completion, cold array, bank retention (R174, R177, R183, R186). -/

namespace Sys2Proof.Machine

/-! ### Tiles -/

/-- First bit of row `r` of tile `n`, and of its sidecar byte `k`. -/
def tileBit (n : Fin 8) (r : Nat) : Nat := 8 * (8192 * n.val + 256 * r)
def sideBit (n : Fin 8) (k : Nat) : Nat := 8 * (512 * n.val + k)

/-- Where the scale byte of block `q` of row `r` is held, when the tile has scales (R163). -/
def Tcfg.scaleAt (g : Tcfg) (r q : Nat) : Option Nat :=
  match g.scl.toNat with
  | 1 => some (16 * r + q)
  | 2 => some q
  | _ => none

/-- The scale byte of block `q` of row `r`. -/
def Me.scale (m : Me) (n : Fin 8) (r q : Nat) : Byte :=
  match m.cfg[n].scaleAt r q with
  | some k => memRead m.side (512 * n.val + k)
  | none => 0

/-- The value of element `k` of row `r` of a tile, with its block's scale (R160, R163). -/
def Me.value (m : Me) (n : Fin 8) (r k : Nat) : Fl :=
  let t := m.cfg[n].ty.getD .i8
  scaled (decTy t (readElem m.tiles (tileBit n r) t k)) (m.scale n r (k / 32))

/-- A word that row `r` of a tile uses in columns 0 to `cols` − 1 is poison. -/
def Me.rowBad (m : Me) (n : Fin 8) (r cols : Nat) : Bool :=
  let t := m.cfg[n].ty.getD .i8
  m.tpoison.any (fun w => decide (tileBit n r / 64 ≤ w ∧ w ≤ (tileBit n r + cols * t.width - 1) / 64))

/-- A scale byte that row `r` of a tile uses is poison. -/
def Me.scaleBad (m : Me) (n : Fin 8) (r blocks : Nat) : Bool :=
  (List.range blocks).any (fun q => match m.cfg[n].scaleAt r q with
    | some k => nhas m.spoison (sideBit n k / 64)
    | none => false)

/-- A tile's data written. -/
def Me.writeTile (m : Me) (ws : List ElemWrite) : Me :=
  { m with tiles := applyWrites m.tiles ws, tpoison := poisonAfter m.tpoison ws }

/-- A tile's sidecar written. -/
def Me.writeSide (m : Me) (ws : List ElemWrite) : Me :=
  { m with side := applyWrites m.side ws, spoison := poisonAfter m.spoison ws }

/-- The in-use flag of a tile is set (R164). -/
def Me.use (m : Me) (n : Fin 8) : Me := { m with cfg := m.cfg.set n { m.cfg[n] with inuse := true } }

/-- A plane that holds a tile is released (R177). -/
def Me.unplane (m : Me) (n : Fin 8) : Me :=
  { m with planes := m.planes.map (fun p => if p = some n then none else p) }

/-! ### Moves -/

/-- One byte from the scratchpad, with its poison. -/
def spmByte (m : Spm) (a pos : Nat) : ElemWrite := ⟨pos, 8, (memRead m.mem a).toNat, nhas m.poison (a / 8)⟩

/-- TLD: rows of RB bytes; the rest of the tile becomes 0 (R170). -/
def meLoad (m : Me) (s : Spm) (n : Fin 8) (st : MeStream) : Me :=
  let ws := (List.range 32).flatMap (fun r => (List.range 256).map (fun b =>
    if r < st.rows ∧ b < st.bytes then spmByte s (st.row r + b) (tileBit n r + 8 * b)
    else ⟨tileBit n r + 8 * b, 8, 0, false⟩))
  ((m.writeTile ws).use n).unplane n

/-- TST (R170). -/
def meStore (m : Me) (n : Fin 8) (st : MeStream) : List ElemWrite :=
  (List.range st.rows).flatMap (fun r => (List.range st.bytes).map (fun b =>
    let k := tileBit n r / 8 + b
    ⟨8 * (st.row r + b), 8, (memRead m.tiles k).toNat, nhas m.tpoison (k / 8)⟩))

/-- The sidecar byte that the `i`-th byte of TLDS and TSTS goes to (R171). -/
def Tcfg.sidePlace (g : Tcfg) (i : Nat) : Nat := if g.scl = 1 then 16 * (i / g.blocks) + i % g.blocks else i

/-- TLDS: the bytes in use; the rest of the sidecar becomes 0 (R171). -/
def meLoadSide (m : Me) (s : Spm) (n : Fin 8) (st : MeStream) : Me :=
  let g := m.cfg[n]
  let zeros : List ElemWrite := (List.range 512).map (fun k => ⟨sideBit n k, 8, 0, false⟩)
  let ws := (List.range st.bytes).map (fun i => spmByte s (st.base + i) (sideBit n (g.sidePlace i)))
  (((m.writeSide zeros).writeSide ws).use n).unplane n

/-- TSTS (R171). -/
def meStoreSide (m : Me) (n : Fin 8) (st : MeStream) : List ElemWrite :=
  (List.range st.bytes).map (fun i =>
    let k := 512 * n.val + m.cfg[n].sidePlace i
    ⟨8 * (st.base + i), 8, (memRead m.side k).toNat, nhas m.spoison (k / 8)⟩)

/-! ### Sums -/

/-- Steps of `n` products in increasing order; the last may hold fewer (R45). The count bounds the steps. -/
def accAll (n : Nat) : Nat → Nat → List Fl → Flags → Nat × Flags
  | 0, c, _, f => (c, f)
  | fuel + 1, c, ps, f =>
    if ps.isEmpty then (c, f)
    else
      let r := accStep c (ps.take n)
      accAll n fuel r.1 (ps.drop n) (f ||| r.2)

/-- A sum from accumulator `c`. -/
def sumSteps (n c : Nat) (ps : List Fl) : Nat × Flags := accAll n ps.length c ps fNone

/-- Products per step in the array and in the GEMV path (Table 2-7). -/
def arrayStep (t : Ty) : Nat := if t = .h4 ∨ t = .i4 then 2 else 1
def gemvStep (t : Ty) : Nat := if t = .h4 then 8 else if t = .h16 then 2 else 4

/-- A poisoned operand that an instruction consumed: its number of Table 6-15 and its scratchpad address, or 0. -/
abbrev Eaten := BitVec 4 × Nat

/-- The first poisoned word of a byte range of the scratchpad, as its address. -/
def badWord (p : NatSet) (addr bytes : Nat) : Option Nat :=
  (p.find? (fun k => decide (addr / 8 ≤ k ∧ k ≤ (addr + bytes - 1) / 8 ∧ bytes ≠ 0))).map (fun k => 8 * k)

/-- What an ME instruction does to registers, scratchpad and tiles. -/
structure MeEffect where
  me : Me
  regs : List ElemWrite
  spm : List ElemWrite
  flags : Flags
  eats : List Eaten
  deriving DecidableEq, Repr

/-- One result element: where it goes, its sum and the poison it depends on (R194). -/
structure MeElem where
  pos : Nat
  sum : Nat × Flags
  eats : List Eaten
  deriving DecidableEq, Repr

/-- The write of a result element. -/
def MeElem.write (x : MeElem) : ElemWrite := ⟨x.pos, 32, x.sum.1, !x.eats.isEmpty⟩

/-- Flags of the results without poison, and all poison consumed. -/
def elemFlags (l : List MeElem) : Flags := l.foldl (fun f x => if x.eats.isEmpty then f ||| x.sum.2 else f) fNone
def elemEats (l : List MeElem) : List Eaten := l.flatMap (fun x => x.eats)

/-- Operands by number, when they are poison. -/
def eatenIf (l : List (Bool × BitVec 4)) : List Eaten := (eaten l).map (fun n => (n, 0))

/-- The accumulator element (i, j) of a tile of F32. -/
def accBit (n : Fin 8) (i j : Nat) : Nat := tileBit n i + 32 * j

/-- TMMA: TD ← TD + TA · TBᵀ (R175). -/
def meTmma (o : MeOp) (m : Me) : MeEffect :=
  let a := m.cfg[o.ta]
  let b := m.cfg[o.tb]
  let k := a.cols
  let n := arrayStep (a.ty.getD .i8)
  let l := (List.range a.rows).flatMap (fun i => (List.range b.rows).map (fun j =>
    { pos := accBit o.td i j
      sum := sumSteps n (readElem m.tiles (tileBit o.td i) .i32 j)
        ((List.range k).map (fun x => product (m.value o.ta i x) (m.value o.tb j x)))
      eats := eatenIf [(nhas m.tpoison (accBit o.td i j / 64), 1), (m.rowBad o.ta i k, 2), (m.rowBad o.tb j k, 3),
        (m.scaleBad o.ta i a.blocks || m.scaleBad o.tb j b.blocks, 4)] : MeElem }))
  { me := (m.writeTile (l.map MeElem.write)).use o.td, regs := [], spm := [], flags := elemFlags l, eats := elemEats l }

/-- Element `k` of row `r` of the streamed A, with its scale (R180). -/
def streamValue (o : MeOp) (s : Spm) (a : MeStream) (nb r k : Nat) : Fl :=
  let x := decTy o.ty (readElem s.mem (8 * a.row r) o.ty k)
  scaled x (if o.sc then memRead s.mem (o.sbase + r * nb + k / 32) else 0)

/-- TMMAS: streamed A · TBᵀ, accumulated in TD or drained (R180). -/
def meTmmas (o : MeOp) (m : Me) (s : Spm) (a : MeStream) : MeEffect :=
  let b := m.cfg[o.tb]
  let k := b.cols
  let nb := b.blocks
  let n := arrayStep o.ty
  let l := (List.range o.rows).flatMap (fun r => (List.range b.rows).map (fun j =>
    { pos := if o.drain then 8 * (toBits 32 (Int.ofNat o.dbase + Int.ofNat r * o.dstride) + 4 * j) else accBit o.td r j
      sum := sumSteps n (if o.drain then 0 else readElem m.tiles (tileBit o.td r) .i32 j)
        ((List.range k).map (fun x => product (streamValue o s a nb r x) (m.value o.tb j x)))
      eats := eatenIf [(!o.drain && nhas m.tpoison (accBit o.td r j / 64), 1), (m.rowBad o.tb j k, 3),
          (m.scaleBad o.tb j nb, 4)] ++
        (match badWord s.poison (a.row r) a.bytes with | some w => [(6, w)] | none => []) ++
        (match (if o.sc then badWord s.poison (o.sbase + r * nb) nb else none) with
         | some w => [(4, w)] | none => []) : MeElem }))
  let ws := l.map MeElem.write
  { me := if o.drain then m else (m.writeTile ws).use o.td, regs := [], spm := if o.drain then ws else [],
    flags := elemFlags l, eats := elemEats l }

/-- GMV: VD ← VD + W · x (R188). -/
def meGmv (o : MeOp) (m : Me) (v : Ve) (s : Spm) (w : MeStream) : MeEffect :=
  let n := gemvStep o.ty
  let nb := ceilDiv o.k 32
  let x (k : Nat) : Fl := scaled (decTy o.xty (v.elem o.vx o.xty k)) (if o.sc then v.byte o.vs (k / 32) else 0)
  let y (r k : Nat) : Fl :=
    scaled (decTy o.ty (readElem s.mem (8 * w.row r) o.ty k))
      (if o.sc then memRead s.mem (o.sbase + k / 32 * o.rows + r) else 0)
  let l := (List.range w.rows).map (fun r =>
    { pos := groupBit o.vd + 32 * r
      sum := sumSteps n (v.elem o.vd .i32 r) ((List.range o.k).map (fun k => product (y r k) (x k)))
      eats := eatenIf [(v.elemBad o.vd .i32 r, 1), ((List.range o.k).any (fun k => v.elemBad o.vx o.xty k), 2),
          (o.sc && (List.range nb).any (fun q => v.byteBad o.vs q), 5)] ++
        (match badWord s.poison (w.row r) w.bytes with | some a => [(6, a)] | none => []) ++
        (if o.sc then (List.range nb).filterMap (fun q =>
            (badWord s.poison (o.sbase + q * o.rows + r) 1).map (fun a => (4, a))) else []) : MeElem })
  { me := m, regs := l.map MeElem.write, spm := [], flags := elemFlags l, eats := elemEats l }

/-- What an operation does, from the state before it. -/
def MeOp.effect (o : MeOp) (m : Me) (v : Ve) (s : Spm) : MeEffect :=
  let st := (o.streams m.cfg).headD ⟨0, 0, 0, 0, false, 0, 0, false⟩
  let only (m : Me) : MeEffect := ⟨m, [], [], fNone, []⟩
  match o.opc with
  | .tld => only (meLoad m s o.t st)
  | .tst => { only m with spm := meStore m o.t st }
  | .tlds => only (meLoadSide m s o.t st)
  | .tsts => { only m with spm := meStoreSide m o.t st }
  | .tzero => only (m.clearTile o.t)
  | .trelease => only ((List.finRange 8).foldl (fun m n => if o.low.testBit n.val then m.clearTile n else m) m)
  | .tmma => meTmma o m
  | .tmmas => meTmmas o m s st
  | .gmv => meGmv o m v s st

/-- The consumed operand that an exception names: the lowest number, and of equals the first. -/
def lowestEaten : List Eaten → Option Eaten
  | [] => none
  | x :: l => match lowestEaten l with
    | none => some x
    | some y => some (if y.1 < x.1 then y else x)

/-- An effect on the core, with the imprecise ECC_UNCORRECTED of consumed poison (R194). [DEDUCED: log entry 30] -/
def Core.meApply (t : Fin 4) (x : MeEffect) (c : Core) : Core :=
  let c := { c with
    me := { x.me with q := c.me.q, run := c.me.run }
    ve := { c.ve with v := applyWrites c.ve.v x.regs, vpoison := poisonAfter c.ve.vpoison x.regs } }
  let c := c.mapSpm (fun m => { m with mem := applyWrites m.mem x.spm, poison := poisonAfter m.poison x.spm })
  let c := c.flag x.flags
  match lowestEaten x.eats with
  | some n => c.arrive t (exc 0x0A n.1 2 n.2)
  | none => c

/-! ### Start -/

/-- The tiles an operation writes and reads (R174). -/
def MeOp.tileWrites (o : MeOp) : List (Fin 8) :=
  match o.opc with
  | .tld | .tlds | .tzero => [o.t]
  | .trelease => (List.finRange 8).filter (fun n => o.low.testBit n.val)
  | .tmma => [o.td]
  | .tmmas => if o.drain then [] else [o.td]
  | _ => []
def MeOp.tileReads (o : MeOp) : List (Fin 8) :=
  match o.opc with
  | .tst | .tsts => [o.t]
  | .tmma => [o.td, o.ta, o.tb]
  | .tmmas => if o.drain then [o.tb] else [o.td, o.tb]
  | _ => []

/-- An array instruction accumulates in a tile that a plane holds (R177). -/
def MeOp.resident (o : MeOp) (m : Me) : Bool :=
  o.opc.pipe == .array && !o.drain && m.planes.any (fun p => p == some o.td)

/-- An earlier instruction in flight stands in the way (R174 condition 2). An accumulator that is resident is waived
against the array instructions that write it. -/
def MeOp.hazard (o : MeOp) (m : Me) : Bool :=
  m.run.any (fun p =>
    let waive (n : Fin 8) : Bool := o.resident m && n == o.td && p.opc.pipe == .array
    p.tileWrites.any (fun n => !waive n && (o.tileWrites.any (fun k => k == n) || o.tileReads.any (fun k => k == n))) ||
      p.tileReads.any (fun n => !waive n && o.tileWrites.any (fun k => k == n)))

/-- The pipe can accept the instruction: the move pipe and the GEMV path run one at a time (R174 condition 1).
[DESIGN CHOICE: log entry 29] -/
def MeOp.accepted (o : MeOp) (m : Me) : Bool :=
  o.opc.pipe == .array || !m.run.any (fun p => p.opc.pipe == o.opc.pipe)

/-- The VE instructions issued before a GMV let it start (R191). -/
def MeOp.vectorsFree (o : MeOp) (v : Ve) : Bool :=
  !v.all.any (fun p => decide (p.seq < o.seq) && veGmvMeet p o)

/-- The plane an array instruction uses: the resident one, else the one used least recently (R177). -/
def MeOp.planeOf (o : MeOp) (m : Me) : Fin 2 :=
  if !o.drain && m.planes[0] == some o.td then 0
  else if !o.drain && m.planes[1] == some o.td then 1
  else match m.lastPlane with
    | none => 0
    | some p => if p = 0 then 1 else 0

/-- The data banks of a tile, and its sidecar bank, as bank numbers of all tiles (R185). -/
def dataBanks (cfg : Vector Tcfg 8) (n : Fin 8) : List Nat := (List.range (ceilDiv cfg[n].rows 8)).map (fun b => 5 * n.val + b)
def sideBank (n : Fin 8) : Nat := 5 * n.val + 4

/-- The 16-byte words of a row of an operand tile (R187). -/
def Tcfg.rowWords (g : Tcfg) : Nat := ceilDiv g.rowBytes 16

/-- The array reads row `i` of operand tile `n`: the latch holds none of it, or the row has further words (R187). -/
def latchMiss (cfg : Vector Tcfg 8) (n : Fin 8) (l : Option Latch) : Bool :=
  decide (1 < cfg[n].rowWords) || decide (l ≠ some ⟨n, 0⟩)

/-- The banks of operand tile `n` that the array reads, latch by latch, and those of its scales (R163, R187). -/
def operandBanks (cfg : Vector Tcfg 8) (n : Fin 8) (ls : Vector (Option Latch) 32) : List Nat :=
  ((List.finRange 32).filter (fun i => decide (i.val < cfg[n].rows) && latchMiss cfg n ls[i])).map (fun i => 5 * n.val + i.val / 8) ++
    (if cfg[n].scl = 0 then [] else [sideBank n])

/-- The latches of an operand tile after its rows have been read. -/
def latched (cfg : Vector Tcfg 8) (n : Fin 8) (ls : Vector (Option Latch) 32) : Vector (Option Latch) 32 :=
  Vector.ofFn (fun i => if i.val < cfg[n].rows then some ⟨n, cfg[n].rowWords - 1⟩ else ls[i])

/-- The array instruction enters a slot (R176, R180): TMMAS with no row enters none. -/
def MeOp.slots (o : MeOp) : Bool := o.opc == .tmma || (o.opc == .tmmas && decide (o.rows ≠ 0))

/-- The banks that an instruction reads or writes as it starts (R177, R186, R187): the tile of a move; the operands of the array,
where no latch saves the access, and an accumulator in use that no plane holds. -/
def MeOp.opening (o : MeOp) (m : Me) : List Nat :=
  let load : List Nat := if !o.resident m && m.cfg[o.td].inuse then dataBanks m.cfg o.td else []
  match o.opc with
  | .tld | .tst => dataBanks m.cfg o.t
  | .tlds | .tsts => [sideBank o.t]
  | .tmma => load ++ operandBanks m.cfg o.ta m.latchA ++ operandBanks m.cfg o.tb m.latchB
  | .tmmas => if !o.slots then [] else (if o.drain then [] else load) ++ operandBanks m.cfg o.tb m.latchB
  | _ => []

/-- The banks that an instruction in flight goes on reading or writing (R187): those of a move, and of the operands of the array
whose rows have further words; an accumulator is not touched between its load and its write. -/
def MeOp.busyBanks (o : MeOp) (cfg : Vector Tcfg 8) : List Nat :=
  let rows (n : Fin 8) : List Nat := if 1 < cfg[n].rowWords then dataBanks cfg n else []
  let side (n : Fin 8) : List Nat := if cfg[n].scl ≠ 0 ∧ 1 < cfg[n].blocks then [sideBank n] else []
  match o.opc with
  | .tld | .tst => dataBanks cfg o.t
  | .tlds | .tsts => [sideBank o.t]
  | .tmma => rows o.ta ++ rows o.tb ++ side o.ta ++ side o.tb
  | .tmmas => rows o.tb ++ side o.tb
  | _ => []

/-- The banks that an instruction writes as it ends: the accumulator (R176). -/
def MeOp.closing (o : MeOp) (cfg : Vector Tcfg 8) : List Nat :=
  if o.opc = .tmma ∨ (o.opc = .tmmas ∧ !o.drain ∧ o.slots) then dataBanks cfg o.td else []

/-- The latches after an array instruction has read its operands. -/
def Me.latch (m : Me) (o : MeOp) : Me :=
  match o.opc with
  | .tmma => { m with latchA := latched m.cfg o.ta m.latchA, latchB := latched m.cfg o.tb m.latchB }
  | .tmmas => if o.slots then { m with latchB := latched m.cfg o.tb m.latchB } else m
  | _ => m

/-- An instruction starts in its pipe: the banks it accesses wake, an array instruction takes its plane and its latches, and one
that enters a slot warms the array (R177, R183, R186, R187). -/
def Me.start (m : Me) (o : MeOp) (q : List MeEntry) : Me :=
  let m := ({ m with q := q, retained := ndelAll m.retained (o.opening m) } : Me).latch o
  if o.opc.pipe = .array then
    let p := o.planeOf m
    { m with
      run := m.run ++ [{ o with plane := some p }]
      planes := m.planes.set p (if o.drain then none else some o.td)
      lastPlane := some p
      cold := m.cold && !o.slots }
  else { m with run := m.run ++ [o] }

/-- The instruction at the head of the ME queue starts, when its pipe accepts it, nothing stands in its way, and for a
GMV the VE is awake; a GMV that finds the VE in retention begins the wake (R174, R191). -/
def execMeInsnStart (core : BitVec 13) (s : State) : Out :=
  onCore core (fun _ c =>
    match c.me.q with
    | .insn o :: q =>
      if o.hazard c.me || !o.accepted c.me then c
      else if o.opc = .gmv ∧ c.ve.ret then { c with ve := c.ve.wake }
      else if o.opc = .gmv ∧ !o.vectorsFree c.ve then c
      else ({ c with me := c.me.start o q } : Core).trim
    | _ => c) s

/-- An instruction has written its tiles: its accumulator's banks have been accessed, and the latches of what it wrote are invalid
(R186, R187). -/
def Me.finish (m : Me) (o : MeOp) : Me :=
  let m := o.tileWrites.foldl (fun m n => m.unlatch n) m
  { m with retained := ndelAll m.retained (o.closing m.cfg) }

/-! ### Errors of the engine's words (R194) -/

/-- A word of the engine, by its number: tile words by byte ÷ 8 of the eight tiles, sidecar words, the words of the vector
registers that a GMV uses, and scratchpad words of a drain. -/
inductive MePlace
  | tile (k : Nat)
  | side (k : Nat)
  | vec (k : Nat)
  | drained (k : Nat)
  deriving DecidableEq, Repr

/-- The place a number names. -/
def mePlace (w : BitVec 20) : MePlace :=
  let k := w.toNat
  if k < 8192 then .tile k else if k < 8704 then .side (k - 8192) else if k < 12800 then .vec (k - 8704) else .drained (k - 12800)

/-- An instruction reads the word. -/
def MeOp.sees (o : MeOp) : MePlace → Bool
  | .tile k => decide (o.opc ≠ .tsts) && o.tileReads.any (fun n => n.val == k / 1024)
  | .side k => (o.opc == .tsts && o.t.val == k / 64) ||
      (o.opc == .tmma && o.ta.val == k / 64) || ((o.opc == .tmma || o.opc == .tmmas) && o.tb.val == k / 64)
  | .vec k => o.opc == .gmv && inRegs o.gmvReads [] k
  | .drained _ => false

/-- An instruction writes the word. -/
def MeOp.makes (o : MeOp) (cfg : Vector Tcfg 8) : MePlace → Bool
  | .tile k => decide (o.opc ≠ .tlds) && o.tileWrites.any (fun n => n.val == k / 1024)
  | .side k => o.opc == .tlds && o.t.val == k / 64
  | .vec k => o.opc == .gmv && inRegs o.gmvWrites [] k
  | .drained k => o.drain && ((o.streams cfg).filter (fun st => st.write)).any (fun st =>
      inRanges ((List.range st.rows).map (fun r => (st.row r, st.bytes))) k)

/-- A word becomes poison, or is. -/
def Core.mePoison (p : MePlace) (c : Core) : Core :=
  match p with
  | .tile k => { c with me := { c.me with tpoison := nins c.me.tpoison k } }
  | .side k => { c with me := { c.me with spoison := nins c.me.spoison k } }
  | .vec k => { c with ve := c.ve.poisonWord k }
  | .drained k => c.mapSpm (fun m => { m with poison := nins m.poison k })
def Core.meBad (c : Core) : MePlace → Bool
  | .tile k => nhas c.me.tpoison k
  | .side k => nhas c.me.spoison k
  | .vec k => c.ve.bad k
  | .drained k => nhas c.spm.poison k

/-- What a read of the engine's words finds: a corrected word is written back and recorded, another becomes poison (R194). -/
def Core.meFind (reads : MePlace → Bool) (fs : List RegFinding) (c : Core) : Core :=
  fs.foldl (fun c f =>
    let sees (p : MePlace) : Bool := reads p && !c.meBad p
    match f with
    | .corrected w => if sees (mePlace w) then c.post (regPost 2 false w.toNat) else c
    | .uncorrectable w => if sees (mePlace w) then c.mePoison (mePlace w) else c
    | _ => c) c

/-- What an instruction's reads of the engine's words find. A TMMAS that drains reads the entries of its plane and the drain buffer,
which the words it writes to the scratchpad name; one of them that is corrected is recorded. -/
def Core.meMeet (o : MeOp) (fs : List RegFinding) (c : Core) : Core :=
  let cfg := c.me.cfg
  (c.meFind o.sees fs).meFind (fun p => match p with | .drained _ => o.makes cfg p | _ => false)
    (fs.filter (fun f => match f with | .corrected _ => true | _ => false))

/-- The accumulators of a draining TMMAS that no code can correct: it consumes them (R194). -/
def MeOp.lostDrains (o : MeOp) (cfg : Vector Tcfg 8) (fs : List RegFinding) : List (BitVec 20) :=
  fs.filterMap (fun f => match f with
    | .uncorrectable w => (match mePlace w with | .drained _ => if o.makes cfg (mePlace w) then some w else none | _ => none)
    | _ => none)

/-- What becomes of the words it writes: a failed check, or one that the plane, the accumulator, the drain buffer lost, is poison; of
the datapath itself a record says so, and the engine is to be tested again. -/
def Core.meWritten (o : MeOp) (fs : List RegFinding) (c : Core) : Core :=
  fs.foldl (fun c f =>
    let makes (p : MePlace) : Bool := o.makes c.me.cfg p
    match f with
    | .badCheck w => if makes (mePlace w) then c.mePoison (mePlace w) else c
    | .uncorrectable w => if (o.lostDrains c.me.cfg fs).any (fun x => x == w) then c.mePoison (mePlace w) else c
    | .datapath w =>
      if makes (mePlace w) then
        let c := c.mePoison (mePlace w)
        ({ c with me := { c.me with retest := true } } : Core).post (regPost 2 true w.toNat)
      else c
    | _ => c) c

/-- The scratchpad bytes that the streams of an instruction read. -/
def MeOp.readRanges (o : MeOp) (cfg : Vector Tcfg 8) : List (Nat × Nat) :=
  ((o.streams cfg).filter (fun st => !st.write)).flatMap (fun st => (List.range st.rows).map (fun r => (st.row r, st.bytes)))

/-- The scratchpad bytes that they write. -/
def MeOp.writeRanges (o : MeOp) (cfg : Vector Tcfg 8) : List (Nat × Nat) :=
  ((o.streams cfg).filter (fun st => st.write)).flatMap (fun st => (List.range st.rows).map (fun r => (st.row r, st.bytes)))

/-- The scratchpad bytes of an instruction's requests of ranks 2 to 5: all but the writes of a drain (Table 6-14). -/
def MeOp.ranked (o : MeOp) (cfg : Vector Tcfg 8) : List (Nat × Nat) :=
  o.readRanges cfg ++ (if o.drain then [] else o.writeRanges cfg)

/-- A request of rank 2 to 5 inside the ME, of an instruction in flight, has waited 16 cycles for a bank: it is served first there
(R193). -/
def execMeRequestAged (core : BitVec 13) (bank : Fin 16) (s : State) : Out :=
  onCore core (fun _ c =>
    if c.me.run.any (fun o => onBank (o.ranked c.me.cfg) bank) then c.mapScrub bank (fun x => { x with meAged := true }) else c) s

/-- A drain of an instruction waits at a bank for another instruction's request that has aged there (R193). -/
def MeOp.yields (o : MeOp) (c : Core) : Bool :=
  o.drain && (List.finRange 16).any (fun b =>
    c.spm.scrub[b].meAged && onBank (o.writeRanges c.me.cfg) b &&
      c.me.run.any (fun p => p.seq != o.seq && onBank (p.ranked c.me.cfg) b))

/-- The requests of ranks 2 to 5 of an instruction have been granted: none of them is aged any more (R193). -/
def Core.meServed (o : MeOp) (c : Core) : Core :=
  let rs := o.ranked c.me.cfg
  (List.finRange 16).foldl (fun c b =>
    if c.spm.scrub[b].meAged && onBank rs b then c.mapScrub b (fun x => { x with meAged := false }) else c) c

/-- The oldest instruction in flight in a pipe takes effect and completes. `found` and `regs` are what its words show (R194, R202,
R203). [DESIGN CHOICE: log entry 7] -/
def execMeInsnComplete (core : BitVec 13) (pipe : MePipe) (s : State) (found : List SpmFinding := [])
    (regs : List RegFinding := []) : Out :=
  onCore core (fun _ c =>
    match c.me.run.find? (fun o => o.opc.pipe == pipe) with
    | none => c
    | some o =>
      if o.yields c then c
      else
      let rd := o.readRanges c.me.cfg
      let wr := o.writeRanges c.me.cfg
      let c := (((((c.meServed o).meet rd found).granted .feeder rd).granted .gemv rd).granted .drain wr).meMeet o regs
      let x := o.effect c.me c.ve c.spm
      let x := { x with eats := x.eats ++ (o.lostDrains c.me.cfg regs).map (fun _ => (1, 0)) }
      let c := ({ c with me := { c.me with run := c.me.run.filter (fun p => p.seq != o.seq) } } : Core).meApply o.thread x
      (((({ c with me := c.me.finish o } : Core)).unverified wr found).meWritten o regs).settleTcfg) s

/-- No valid slot has entered the array for 64 cycles, be it for bubbles or stalls of an instruction in flight: it is cold (R183).
[DESIGN CHOICE: log entry 28] -/
def execArrayCold (core : BitVec 13) (s : State) : Out :=
  onCore core (fun _ c => { c with me := { c.me with cold := true } }) s

/-- A bank is powered: its tile is in use and it holds a row below ROWS, or the sidecar (R185). -/
def Me.powered (m : Me) (n : Fin 8) (bank : Fin 5) : Bool :=
  m.cfg[n].inuse && (bank == 4 || decide (8 * bank.val < m.cfg[n].rows))

/-- A powered bank that no instruction in flight goes on using enters retention (R186).
[DESIGN CHOICE: log entry 28] -/
def execTileBankRetention (core : BitVec 13) (tile : Fin 8) (bank : Fin 5) (s : State) : Out :=
  onCore core (fun _ c =>
    let k := 5 * tile.val + bank.val
    if c.me.powered tile bank && !c.me.run.any (fun o => (o.busyBanks c.me.cfg).any (fun b => b == k)) then
      { c with me := { c.me with retained := nins c.me.retained k } }
    else c) s

/-! ### The instructions -/

/-- TLD. -/
def execTld (a : Site) (m : MeWord) (s : State) : Out := meCmd a .tld m s
/-- TST. -/
def execTst (a : Site) (m : MeWord) (s : State) : Out := meCmd a .tst m s
/-- TLDS. -/
def execTlds (a : Site) (m : MeWord) (s : State) : Out := meCmd a .tlds m s
/-- TSTS. -/
def execTsts (a : Site) (m : MeWord) (s : State) : Out := meCmd a .tsts m s
/-- TZERO. -/
def execTzero (a : Site) (m : MeWord) (s : State) : Out := meCmd a .tzero m s
/-- TRELEASE. -/
def execTrelease (a : Site) (m : MeWord) (s : State) : Out := meCmd a .trelease m s
/-- TMMA. -/
def execTmma (a : Site) (m : MeWord) (s : State) : Out := meCmd a .tmma m s
/-- TMMAS. -/
def execTmmas (a : Site) (m : MeWord) (s : State) : Out := meCmd a .tmmas m s
/-- GMV. -/
def execGmv (a : Site) (m : MeWord) (s : State) : Out := meCmd a .gmv m s

end Sys2Proof.Machine
end

