-- ==== Sys2Proof/Machine/SaveRecord.lean ====
section
/-! DEFINITION. The save record of a core: what Table 13-3 saves and restores, and the layout this model gives the
record's bytes, which the spec does not give (R395, R396; DESIGN CHOICE). -/

namespace Sys2Proof.Machine

/-! ### Registers -/

/-- A field of the record: its bytes and its value. -/
abbrev Field := Nat × Nat

/-- Fields of a list of values of one size. -/
def fieldsOf (bytes : Nat) (vs : List Nat) : List Field := vs.map (fun v => (bytes, v))

/-- Thread 0's registers after its POUR has completed. -/
def Core.savedRegs (c : Core) : Regs :=
  match (c.th 0).stall with
  | .pour w => (c.th 0).r.advance (lenBytes w.len)
  | _ => (c.th 0).r

/-- The fields of a converter stream. -/
def Stream.fields (s : Stream) : List Field :=
  [(1, b2n s.stochastic), (4, s.seed.toNat), (4, s.rmax.toNat), (4, s.sat.toNat)]

/-- The fields of a tile configuration. -/
def Tcfg.fields (t : Tcfg) : List Field :=
  [(1, b2n t.inuse), (1, t.scl.toNat), (2, t.colm1.toNat), (1, t.rowm1.toNat), (1, t.fmt.toNat)]

/-- The fields of a gate's registers. -/
def Gate.fields (g : Gate) : List Field :=
  [(4, g.base.toNat), (4, g.limit.toNat), (4, g.ctl), (1, g.gen.toNat), (2, g.fcnt.toNat), (1, b2n g.recorded)]

/-- The fields of the record's first part, in order: A, P, LS, LE and LC, thirteen more, then tile configurations,
streams and gates. -/
def Core.saveFields (c : Core) : List Field :=
  let r := c.savedRegs
  fieldsOf 4 (r.a.toList.map BitVec.toNat) ++ fieldsOf 1 (r.p.toList.map BitVec.toNat) ++
  fieldsOf 4 (r.ls.toList.map BitVec.toNat) ++ fieldsOf 4 (r.le.toList.map BitVec.toNat) ++
  fieldsOf 4 (r.lc.toList.map BitVec.toNat) ++
  [(1, r.ldepth.toNat), (1, b2n (c.th 0).x.prio), (4, (c.th 0).x.vec.toNat), (1, b2n c.de.sgenValid[0]), (1, c.de.sgen[0].toNat),
   (4, r.pc.toNat), (1, c.phase.toNat), (2, c.ve.vlen.toNat), (1, c.ve.log.toNat), (1, c.fpflags.toNat),
   (4, c.spm.tagTimeout.toNat), (1, b2n c.ve.restr), (1, b2n c.queued)] ++
  c.me.cfg.toList.flatMap Tcfg.fields ++ c.streams.toList.flatMap Stream.fields ++ c.spm.gates.toList.flatMap Gate.fields

/-- The bytes of a list of fields. -/
def fieldBytes (fs : List Field) : List Byte := fs.flatMap (fun f => leBytes f.1 f.2)

/-- The values of fields with these sizes. -/
def readFields : List Nat → List Byte → List Nat
  | [], _ => []
  | n :: ns, bs => leNat (bs.take n) :: readFields ns (bs.drop n)

/-- The sizes of the fields. -/
def saveSizes : List Nat := Core.reset.saveFields.map (fun f => f.1)

/-! ### The record -/

/-- Two pieces one after the other, the first of whole 8-byte words. -/
def Payload.append (x y : Payload) : Payload :=
  { bytes := x.bytes ++ y.bytes, poison := x.poison ++ y.poison.map (fun k => x.bytes.length / 8 + k) }

/-- The tags as 512 bytes. -/
def tagBytes (t : NatSet) : List Byte := leBytes 512 (t.foldl (fun a k => a + 2 ^ k) 0)

/-- The tags of 512 bytes. -/
def tagsOf (bs : List Byte) : NatSet :=
  (List.range 512).flatMap (fun i => ((List.range 8).filter (fun j => (bs.getD i 0).getLsbD j)).map (fun j => 8 * i + j))

/-- The first 4 KiB: registers, tags at 1,536 and masks at 2,048. -/
def Core.saveHead (c : Core) : Payload :=
  { bytes := padTo 1536 (fieldBytes c.saveFields) ++ tagBytes c.spm.tags ++ c.ve.m.toList.flatMap (fun m => leBytes 256 m.toNat)
    poison := c.ve.mpoison.map (fun k => 256 + k) }

/-- The tiles in use. -/
def Core.tilesUsed (c : Core) : List (Fin 8) := (List.finRange 8).filter (fun n => c.me.cfg[n].inuse)

/-- The vector registers of a mask. -/
def vecsOf (mask : Word) : List Nat := (List.range 32).filter (fun v => mask.getLsbD v)

/-- A piece from an address follows, byte for byte: every word that a poisoned word's bytes reach is poison. -/
def Payload.follow (x : Payload) (p : Nat × Payload) : Payload :=
  let n := x.bytes.length
  { bytes := x.bytes ++ p.2.bytes, poison := ninsAll x.poison ((p.2.moved p.1 n).poison.map (fun k => n / 8 + k)) }

/-- What the reads of a core's words for a record find (R152, R194, R203). -/
def Core.recordMeet (spm : List (Nat × Nat)) (ve : Nat → Bool) (me : MePlace → Bool) (x : CoreFindings) (c : Core) : Core :=
  ((c.meet spm x.spm).veFind ve x.ve).meFind me x.me

/-- Words of the tiles and sidecars in use. -/
def Core.usedPlace (c : Core) : MePlace → Bool
  | .tile k => (c.me.cfg[Fin.ofNat 8 (k / 1024)]).inuse
  | .side k => (c.me.cfg[Fin.ofNat 8 (k / 64)]).inuse
  | _ => false

/-- What the reads for the records of cores find. -/
def State.findCores (s : State) (ids : List CoreId) (fs : List CoreFindings)
    (f : CoreFindings → Core → Core) : State :=
  fs.foldl (fun s x => if ids.any (fun id => id == x.core) then s.onCore x.core (fun _ c => f x c) else s) s

/-- What the reads for a core's save record find: its tiles in use, its masks, and the vector registers and scratchpad ranges of the
policy. -/
def Core.saveMeet (d : PourDecl) (x : CoreFindings) (c : Core) : Core :=
  c.recordMeet (d.spm.map (fun p => (p.1.toNat, p.2.toNat)))
    (fun k => if k < 4096 then (vecsOf d.vectorMask).any (fun v => v == k / 128) else true) c.usedPlace x

/-- A core's save record (R395, Table 13-3). [DESIGN CHOICE: log entry 56] -/
def Core.saveRecord (d : PourDecl) (c : Core) : Payload :=
  let tiles := c.tilesUsed.map (fun n =>
    (payloadOf c.me.tiles c.me.tpoison (8192 * n.val) 8192).append (payloadOf c.me.side c.me.spoison (512 * n.val) 512))
  let vecs := (vecsOf d.vectorMask).map (fun v => payloadOf c.ve.v c.ve.vpoison (1024 * v) 1024)
  let spm := d.spm.map (fun p => (p.1.toNat, c.spm.get p.1.toNat p.2.toNat))
  let x := spm.foldl Payload.follow ((tiles ++ vecs).foldl Payload.append c.saveHead)
  { x with bytes := padTo (ceilDiv x.bytes.length 4096 * 4096) x.bytes }

/-- The bytes of a record of a core with `tiles` tiles in use. -/
def recordBytes (d : PourDecl) (tiles : Nat) : Nat :=
  ceilDiv (4096 + 8704 * tiles + 1024 * (vecsOf d.vectorMask).length + (d.spm.map (fun p => p.2.toNat)).sum) 4096 * 4096

/-! ### Restoring -/

/-- A tile configuration of its five field values from index `i` on. -/
def tcfgAt (v : Nat → Nat) (i : Nat) : Tcfg :=
  { inuse := v i == 1, scl := BitVec.ofNat 2 (v (i + 1)), colm1 := BitVec.ofNat 10 (v (i + 2)), rowm1 := BitVec.ofNat 5 (v (i + 3)),
    fmt := BitVec.ofNat 4 (v (i + 4)) }

/-- A stream of its four. -/
def streamAt (v : Nat → Nat) (i : Nat) : Stream :=
  { stochastic := v i == 1, seed := BitVec.ofNat 32 (v (i + 1)), rmax := BitVec.ofNat 32 (v (i + 2)), sat := BitVec.ofNat 32 (v (i + 3)) }

/-- A gate of its six; it opens as it was, its generation is not incremented. -/
def gateAt (v : Nat → Nat) (i : Nat) : Gate :=
  { Gate.reset.setCtl (v (i + 2)) with
    base := BitVec.ofNat 22 (v i), limit := BitVec.ofNat 22 (v (i + 1)), opened := (v (i + 2)).testBit 0,
    gen := BitVec.ofNat 8 (v (i + 3)), fcnt := BitVec.ofNat 16 (v (i + 4)), recorded := v (i + 5) == 1 }

/-- A core with the first part of a record restored: everything else at its reset value, QOT 1 and REM the pour (R396,
Table 13-3). -/
def restoreHead (n : Word) (codeSize : Nat) (x : Payload) : Core :=
  let vs := readFields saveSizes x.bytes
  let v (i : Nat) : Nat := vs.getD i 0
  let w (i : Nat) : Word := BitVec.ofNat 32 (v i)
  let c := Core.reset
  let r : Regs :=
    { Regs.reset with
      a := Vector.ofFn (fun i => w i.val), p := Vector.ofFn (fun i => BitVec.ofNat 6 (v (8 + i.val)))
      ls := Vector.ofFn (fun i => w (12 + i.val)), le := Vector.ofFn (fun i => w (16 + i.val))
      lc := Vector.ofFn (fun i => w (20 + i.val)), ldepth := BitVec.ofNat 3 (v 24), pc := w 29, qot := 1, rem := n.setWidth 64 }
  let c := c.mapTh 0 (fun h => { h with r := r, x := { h.x with prio := v 25 == 1, vec := w 26 } })
  { c with
    codeSize := codeSize, phase := BitVec.ofNat 8 (v 30), fpflags := BitVec.ofNat 6 (v 33), queued := v 36 == 1
    de := { c.de with sgenValid := c.de.sgenValid.set 0 (v 27 == 1), sgen := c.de.sgen.set 0 (BitVec.ofNat 8 (v 28)) }
    ve := { c.ve with vlen := BitVec.ofNat 12 (v 31), log := BitVec.ofNat 2 (v 32), restr := v 35 == 1
                      m := Vector.ofFn (fun i => BitVec.ofNat 2048 (leNat ((x.bytes.drop (2048 + 256 * i.val)).take 256)))
                      mpoison := (x.poison.filter (fun k => decide (256 ≤ k ∧ k < 512))).map (fun k => k - 256) }
    me := { c.me with cfg := Vector.ofFn (fun i => tcfgAt v (37 + 5 * i.val)) }
    streams := Vector.ofFn (fun i => streamAt v (77 + 4 * i.val))
    spm := { c.spm with tagTimeout := w 34, gates := Vector.ofFn (fun i => gateAt v (101 + 6 * i.val))
                        tags := tagsOf ((x.bytes.drop 1536).take 512) } }

/-- Tiles, vector registers and scratchpad ranges restored from offset `off` on. -/
def restoreTiles (x : Payload) : List (Fin 8) → Nat → Core → Core × Nat
  | [], off, c => (c, off)
  | n :: ns, off, c =>
    let t := x.slice off 8192
    let s := x.slice (off + 8192) 512
    let me := { c.me with tiles := memWriteN c.me.tiles (8192 * n.val) t.bytes, tpoison := poisonPut c.me.tpoison (8192 * n.val) t
                          side := memWriteN c.me.side (512 * n.val) s.bytes, spoison := poisonPut c.me.spoison (512 * n.val) s }
    restoreTiles x ns (off + 8704) { c with me := me }

/-- The vector registers of a list. -/
def restoreVecs (x : Payload) : List Nat → Nat → Core → Core × Nat
  | [], off, c => (c, off)
  | v :: vs, off, c =>
    let t := x.slice off 1024
    restoreVecs x vs (off + 1024) { c with ve := { c.ve with v := memWriteN c.ve.v (1024 * v) t.bytes,
                                                             vpoison := poisonPut c.ve.vpoison (1024 * v) t } }

/-- The scratchpad ranges of a list. -/
def restoreSpm (x : Payload) : List (Word × Word) → Nat → Core → Core
  | [], _, c => c
  | p :: ps, off, c =>
    restoreSpm x ps (off + p.2.toNat) (c.mapSpm (fun m => m.put p.1.toNat ((x.slice off p.2.toNat).moved off p.1.toNat)))

/-- A core restored from its save record of pour `n` (R396, R407). [DESIGN CHOICE: log entry 157] -/
def restoreCore (d : PourDecl) (n : Word) (codeSize : Nat) (x : Payload) : Core :=
  let c := restoreHead n codeSize x
  let t := restoreTiles x c.tilesUsed 4096 c
  let v := restoreVecs x (vecsOf d.vectorMask) t.2 t.1
  restoreSpm x d.spm v.2 v.1

/-- The core whose record begins at an address, restored, and the address of the next record. -/
def State.restoreFrom (s : State) (d : PourDecl) (n : Word) (codeSize a : Nat) : Core × Nat :=
  let head := restoreHead n codeSize (s.hbmGet a 4096)
  let len := recordBytes d head.tilesUsed.length
  (restoreCore d n codeSize (s.hbmGet a len), a + len)

end Sys2Proof.Machine
end

