-- ==== Sys2Proof/Machine/Pours.lean ====
section
/-! DEFINITION. Pours: the barrier of the cores, the protocol between modules, boundaries, commits and streams, and the
mirror's copies (R384 to R400). The messages between management processors have no layout in the spec; here each is a
`PeerMsg` that is held until what answers it has come. -/

namespace Sys2Proof.Machine

/-! ### The modules of a job -/

/-- The spare that takes a module's place: the relocation entry whose FROM is the module (R404). -/
def RouteTable.spareOf (t : RouteTable) (x : ModuleId) : Option ModuleId :=
  (t.reloc.toList.find? (fun w => w.getLsbD 31 && bitsAt w.toNat 16 13 == x.toNat)).map (fun w => BitVec.ofNat 13 w.toNat)

/-- DMOD after relocation (R404): TO of a valid entry whose FROM it is. -/
def RouteTable.relocate (t : RouteTable) (d : ModuleId) : ModuleId := (t.spareOf d).getD d

/-- The job with the pour policy. -/
def State.pourJob (s : State) : Option (Fin 8) := s.flask.job.map (fun n => Fin.ofNat 8 (n - 1))

/-- Its cores, in CORE_ID order. -/
def State.pourCores (s : State) : List CoreId := match s.pourJob with | some j => (s.job j).cores.map (fun x => x.1) | none => []

/-- The flask state changed. -/
def State.mapFlask (s : State) (f : Flask → Flask) : State := { s with flask := f s.flask }

/-- The modules of the job, this one among them. -/
def State.pourMods (s : State) : List ModuleId :=
  match s.pourJob with
  | some j => s.self :: ((s.job j).peers.filter (fun m => m != s.self))
  | none => []

/-- The module of the job for which a sender acts: itself, or the failed module whose place it has taken (R404). -/
def State.memberOf (s : State) (m : ModuleId) : Option ModuleId :=
  if s.pourMods.any (fun x => x == m) then some m else s.pourMods.find? (fun x => s.active.route.relocate x == m)

/-- The coordinator of the job. -/
def State.coordinator (s : State) : Option ModuleId := s.flask.decl.map (fun d => d.coordinator)

/-- This module is the coordinator, or has taken its place (R404). -/
def State.coordinates (s : State) : Bool :=
  match s.coordinator with
  | some m => m == s.self || s.active.route.relocate m == s.self
  | none => false

/-! ### The cores -/

/-- Thread 0 waits in POUR. -/
def Core.inPour (c : Core) : Bool := match (c.th 0).stall with | .pour _ => true | _ => false

/-- The barrier's deadline, for one that begins now unless it has begun: the declared timeout (R384, R396). -/
def State.barrierEnd (s : State) : Nat :=
  s.flask.barrier.getD (s.now + (match s.flask.decl with | some d => d.timeoutS.toNat | none => 0) * 10 ^ 9)

/-- At the coordinator the barrier's time begins with the first of its own cores whose thread 0 waits in POUR, or with the first
ARRIVED (R396). [DESIGN CHOICE: log entry 58] -/
def State.beginBarrier (s : State) (id : CoreId) : State :=
  if s.coordinates && (s.core id).inPour && !(s.core id).pourArrived && s.pourCores.any (fun x => x == id) then
    s.mapFlask (fun f => { f with barrier := some s.barrierEnd })
  else s

/-- POUR: thread 0 of a job with a pour policy; it then waits for its core's release (R394). -/
def execPour (a : Site) (w : SeWord) (s : State) : Out :=
  match ofMod 2 w (seCmd a (bareForm w) w (fun e _ _ => if a.thread ≠ 0 ∨ !e.pours then [illegalOp 0] else []) noWaits
    (fun _ _ c => c.mapTh a.thread (fun h => { h with stall := .pour w }))) s with
  | .next s' => .next (if (s.core a.core).inPour then s' else s'.beginBarrier a.core)
  | out => out

/-- The conditions under which a core arrives (R394). -/
def Core.mayArrive (e : Env) (c : Core) : Bool :=
  c.inPour && ([1, 2, 3] : List (Fin 4)).all (fun t => decide ((c.th t).st = .inactive ∨ (c.th t).st = .stopped)) &&
    c.div.isNone && c.allTh (fun h => h.muls.isEmpty) && c.ve.q.isEmpty && c.ve.run.isEmpty && c.me.q.isEmpty && c.me.run.isEmpty &&
    c.de.issue.isEmpty && (List.finRange 4).all (fun q => (c.de.q[q]).descs.isEmpty && !(c.de.q[q]).halt) &&
    (List.finRange 4).all (fun t => c.fenceDone e t (c.seq + 1) 5) && c.spm.remote.all (fun r => r.dead)

/-- Thread 0 goes on after its POUR with a status in QOT and REM (R396). A riser that took an index at this pour is released now, and
its CYCLE counts from 0 (R64). -/
def Core.leavePour (qot rem : Nat) (c : Core) : Core :=
  match (c.th 0).stall with
  | .pour w =>
    { (c.mapR 0 (fun r => { r with qot := BitVec.ofNat 64 qot, rem := BitVec.ofNat 64 rem })).complete 0 (bareForm w) w with
      pourArrived := false, released := true, cycle := if c.released then c.cycle else 0 }
  | _ => c

/-- Every arrived core of the job is released. -/
def State.releasePour (s : State) (qot rem : Nat) : State :=
  s.pourCores.foldl (fun s id => if (s.core id).pourArrived then s.onCore id (fun _ c => c.leavePour qot rem) else s) s

/-! ### Messages -/

/-- A message for another MP is due; one for this module is held like any other until its row has come (R393). -/
def State.sendPeer (s : State) (dest : ModuleId) (kind : PeerKind) (n : Word) : State :=
  s.mapFlask (fun f => { f with unacked := f.unacked ++ [{ dest := dest, kind := kind, n := n, sent := s.now }] })

/-- Messages of a kind to a module are acknowledged. -/
def State.ackPeer (s : State) (p : PeerMsg → Bool) : State :=
  s.mapFlask (fun f => { f with unacked := f.unacked.filter (fun m => !p m) })

/-- A message goes to every module of the job. -/
def State.sendAll (s : State) (kind : PeerKind) (n : Word) : State :=
  s.pourMods.foldl (fun s m => s.sendPeer m kind n) s

/-- Every module of the job is in a list. -/
def State.allIn (s : State) (l : List ModuleId) : Bool := s.pourMods.all (fun m => l.any (fun x => x == m))

/-- The number of the pour that the module would make next. -/
def State.nextPour (s : State) : Word := s.flask.interval + 1

/-- A module joins a list once. -/
def addMod (l : List ModuleId) (m : ModuleId) : List ModuleId := if l.any (fun x => x == m) then l else l ++ [m]

/-! ### The protocol (Table 13-2) -/

/-- PSTATE while no pour is under way: how many of the module's cores have arrived at the next one (Table 13-10). -/
def State.arrivals (s : State) : PourState :=
  let arrived (id : CoreId) : Bool := (s.core id).pourArrived
  if !s.pourCores.any arrived then .open_ else if s.pourCores.all arrived then .arrived else .arriving

/-- A core arrives; with the last one of the module the module sends ARRIVED (R393 steps 1 and 2), also while the pour before is
still in TAIL or READY, in which PSTATE stays (R396). -/
def execCoreArrive (core : BitVec 13) (s : State) : Out :=
  let c := s.core core
  if !(s.pourCores.any (fun x => x == core)) || c.pourArrived || !c.mayArrive (s.env core) then .next s
  else
    let s := s.setCore core { c with pourArrived := true }
    let p := s.flask.pstate
    let free : Bool := decide (p = .open_ ∨ p = .arriving)
    let s := s.mapFlask (fun f => { f with pstate := if free then s.arrivals else p })
    match s.coordinator with
    | some m =>
      if s.arrivals = .arrived ∧ (free ∨ p = .tail ∨ p = .ready) then .next (s.sendPeer m .arrived s.nextPour) else .next s
    | none => .next s

/-- A pour that is reached less than 0.5 s after the last boundary, or before the commit of the pour before it, is skipped
(R396). -/
def State.skips (s : State) : Bool :=
  s.flask.commitPending || decide (s.flask.coord ≠ .idle) || (match s.flask.boundaryAt with | some t => decide (s.now < t + 500000000) | none => false)

/-- ARRIVED reaches the coordinator: the barrier's time begins with the first, and with the last the pour goes on or is
skipped (R393 step 3, R396). A repeated one of a pour for which SAVE has been sent says nothing new. -/
def execArrived (smod : BitVec 13) (n : BitVec 32) (s : State) : Out :=
  match s.memberOf smod with
  | none => .next s
  | some m =>
    if !s.coordinates || n != s.nextPour || n == s.flask.decided then .next s
    else
      let s := s.mapFlask (fun f => { f with arrivedMods := addMod f.arrivedMods m, barrier := some s.barrierEnd })
      if s.allIn s.flask.arrivedMods then
        let skip := s.skips
        let s := s.mapFlask (fun f => { f with arrivedMods := [], barrier := none })
        if skip then .next (s.sendAll .abandon n)
        else
          .next ((s.mapFlask (fun f => { f with decided := n, coord := .saving, savedMods := [], readyMods := [] })).sendAll .save n)
      else .next s

/-- Each core's save record is written into the save area, in CORE_ID order (R395). The save of declared vector state wakes the
vector engine (R159). -/
def State.writeRecords (s : State) (d : PourDecl) : List CoreId → Nat → State
  | [], _ => s
  | id :: ids, a =>
    let c := s.core id
    let x := c.saveRecord d
    let s := if d.vectorMask = 0 then s else s.setCore id { c with ve := c.ve.wake }
    (s.hbmWrite a x).writeRecords d ids (a + x.bytes.length)

/-- SAVE reaches the module (R393 step 4). -/
def execSave (n : BitVec 32) (s : State) (cores : List CoreFindings := []) : Out :=
  match s.flask.decl with
  | none => .next s
  | some d =>
    if s.flask.pstate ≠ .arrived ∨ n ≠ s.nextPour then .next s
    else
      let s := s.ackPeer (fun m => decide (m.kind = .arrived))
      let s := s.findCores s.pourCores cores (Core.saveMeet d)
      .next ((s.mapFlask (fun f => { f with pstate := .saving })).writeRecords d s.pourCores d.saveArea.base.toNat)

/-- The records of the cores of the job in order, each with its address. -/
def State.recordAt (s : State) (d : PourDecl) : List CoreId → Nat → List (CoreId × Nat)
  | [], _ => []
  | id :: ids, a => (id, a) :: s.recordAt d ids (a + (s.restoreFrom d 0 0 a).2 - a)

/-- One remapped core: its index moves to a free riser, which is restored from its save record and waits in its POUR as
before, held until the job's cores are released (R64, R398). Without a free riser the index is not moved, and the MP posts RISERS_EXHAUSTED (R308).
[DESIGN CHOICE: log entry 157] -/
def State.remapCore (s : State) (id : CoreId) : State :=
  match s.freeRiser id, s.flask.decl with
  | some p, some d =>
    let s := s.moveIndex id p
    match (s.recordAt d s.pourCores d.saveArea.base.toNat).find? (fun x => x.1 == id) with
    | some x =>
      let old := s.core id
      let r := (s.restoreFrom d s.flask.interval old.codeSize x.2).1
      let back : Core := { r with pourArrived := true, ve := { r.ve with restr := false, failed := false }, spm := { r.spm with spares := s.sparesAt id } }
      let h0 := old.th 0
      s.setCore id (back.mapTh 0 (fun h =>
        { h with stall := h0.stall
                 r := { h.r with pc := h0.r.pc, ls := h0.r.ls, le := h0.r.le, lc := h0.r.lc, ldepth := h0.r.ldepth } }))
    | none => s
  | _, _ => s.exhausted (id.toNat / 256) (some id)

/-- Boundary B_n: the dirty set becomes the tail and a new interval begins; a pending remap is applied, once its dies are quiet (R307); SAVED leaves
(R387, R393 step 5, R398). [DESIGN CHOICE: log entry 58] -/
def execPourBoundary (s : State) : Out :=
  if s.flask.pstate ≠ .saving ∨ s.flask.commitPending ∨
      s.flask.remap.any (fun id => !s.quietDie (id.toNat / 256)) then .next s
  else
    let n := s.nextPour
    let ids := s.flask.remap
    let s := s.mapFlask (fun f =>
      { f with tail := f.dirty, dirty := .empty, interval := n, boundaryAt := some s.now, remap := []
               stream := Vector.replicate 8 none })
    let s := if ids.isEmpty then s else (ids.foldl State.remapCore s.rejoin).rejoin
    match s.coordinator with
    | some m => .next (s.sendPeer m .saved n)
    | none => .next s

/-- SAVED reaches the coordinator; with the last it sends RESUME (R393 step 6). -/
def execSaved (smod : BitVec 13) (n : BitVec 32) (s : State) : Out :=
  match s.memberOf smod with
  | none => .next s
  | some m =>
    if !s.coordinates || decide (s.flask.coord ≠ .saving) || n != s.flask.decided then .next s
    else
      let s := s.ackPeer (fun x => decide (x.kind = .save ∧ x.dest = m ∧ x.n = n))
      let s := s.mapFlask (fun f => { f with savedMods := addMod f.savedMods m })
      if s.allIn s.flask.savedMods then .next ((s.mapFlask (fun f => { f with savedMods := [], coord := .tailing })).sendAll .resume n)
      else .next s

/-- RESUME reaches the module: its cores are released and the tail is streamed (R393 step 7, R396). -/
def execResume (n : BitVec 32) (s : State) : Out :=
  if s.flask.pstate ≠ .saving ∨ s.flask.interval ≠ n ∨ !s.flask.commitPending then .next s
  else
    let s := s.ackPeer (fun m => decide (m.kind = .saved))
    .next ((s.mapFlask (fun f => { f with pstate := .tail })).releasePour 0 n.toNat)

/-- Every tail line and undo is acknowledged: the module is READY (R393 step 8). A module without a partner has no tail to
stream. -/
def execTailComplete (s : State) : Out :=
  let f := s.flask
  let done := f.tail.isNone f.shares && f.stream.all (fun x => x.isNone)
  if f.pstate ≠ .tail ∨ !(done || !s.active.bind.en) then .next s
  else
    let s := s.mapFlask (fun f => { f with pstate := .ready, tail := .empty })
    match s.coordinator with
    | some m => .next (s.sendPeer m .ready s.flask.interval)
    | none => .next s

/-- READY reaches the coordinator; with the last it sends COMMIT (R393 step 9). -/
def execReady (smod : BitVec 13) (n : BitVec 32) (s : State) : Out :=
  match s.memberOf smod with
  | none => .next s
  | some m =>
    if !s.coordinates || decide (s.flask.coord ≠ .tailing) || n != s.flask.decided then .next s
    else
      let s := s.ackPeer (fun x => decide (x.kind = .resume ∧ x.dest = m ∧ x.n = n))
      let s := s.mapFlask (fun f => { f with readyMods := addMod f.readyMods m })
      if s.allIn s.flask.readyMods then .next ((s.mapFlask (fun f => { f with readyMods := [], coord := .idle })).sendAll .commit n)
      else .next s

/-- Writes through BAR2 that waited are performed in their order, as far as none has to wait any more (R389). -/
def State.runHeld (s : State) : List (Nat × List Byte) → State
  | [] => { s with host := { s.host with b2held := [] } }
  | x :: xs =>
    if s.hbmBlocked x.1 x.2.length then { s with host := { s.host with b2held := x :: xs } }
    else (s.hbmWrite x.1 (Payload.clean x.2)).runHeld xs

/-- COMMIT reaches the module: pour n is its restore point, the copies of generation n − 1 are freed and the writes that waited for
them are performed, its partner is told, and the interval's streaming begins (R393 step 10, R389, R407). -/
def execCommit (n : BitVec 32) (s : State) : Out :=
  if s.flask.pstate ≠ .ready ∨ s.flask.interval ≠ n then .next s
  else
    let s := s.ackPeer (fun m => decide (m.kind = .ready))
    let s := s.mapFlask (fun f =>
      { f with pstate := s.arrivals, committed := n, prot := 0, commitAt := s.now, sent := [], undoUsed := Vector.replicate 8 0
               rb := f.rb.filter (fun c => decide (n.toNat ≤ c.gen)) })
    let s := s.runHeld s.host.b2held
    if s.active.bind.en then .next (s.sendPeer s.active.bind.partner .partnerCommit n) else .next s

/-- The partner has committed pour n: its undo of generation n − 1 is freed and writes of interval n are expected (R393
step 11). -/
def execPartnerCommit (n : BitVec 32) (s : State) : Out :=
  if !s.active.bind.en then .next s
  else
    .next (s.mapFlask (fun f =>
      { f with held := f.held.filter (fun u => decide (n.toNat ≤ u.gen)), expect := n, partnerCommitted := n, partnerAt := s.now }))

/-- ABANDON reaches the module: its arrived cores are released and the pour is skipped (R396). The pour before may still be in TAIL
or READY. -/
def execAbandon (n : BitVec 32) (s : State) : Out :=
  let p := s.flask.pstate
  if p = .none ∨ p = .saving ∨ p = .rollback ∨ n ≠ s.nextPour then .next s
  else
    let s := s.ackPeer (fun m => decide (m.kind = .arrived))
    .next ((s.mapFlask (fun f =>
      { f with pstate := if p = .tail ∨ p = .ready then p else .open_, skipped := if f.skipped = 0xFFFFFFFF then f.skipped else f.skipped + 1 })).releasePour 2 0)

/-- The barrier timeout expires at the coordinator before it has sent SAVE (R396). -/
def execPourBarrierTimeout (s : State) : Out :=
  match s.flask.barrier with
  | none => .next s
  | some t =>
    let s := s.wait t
    .next ((s.mapFlask (fun f => { f with arrivedMods := [], barrier := none })).sendAll .abandon s.nextPour)

/-- Messages that are not acknowledged are sent again every 100 µs (R393). [DESIGN CHOICE: log entry 58] -/
def execCoordinatorRepeat (s : State) : Out :=
  match s.flask.unacked with
  | [] => .next s
  | m :: _ =>
    let s := s.wait (m.sent + 100000)
    .next (s.mapFlask (fun f =>
      { f with unacked := f.unacked.map (fun m => if m.sent + 100000 ≤ s.now then { m with sent := s.now } else m) }))

/-! ### Copies and streams -/

/-- A share is copied to the rollback area before its first write in the interval (R388, R389). -/
def execCopyBeforeWrite (share : Nat) (s : State) (ext : HbmFinding := .clean) : Out :=
  .next (if share < s.flask.shares then s.copyShare share ext else s)

/-- The interval whose dirty shares an E-die streams now, and whether they are a tail (R390): between a commit and the next
boundary the interval's own, between a boundary and its commit the tail of the interval before. -/
def Flask.streams (f : Flask) : Option (Nat × Bool) :=
  if f.interval = 0 then none
  else if f.commitPending then some (f.interval.toNat - 1, true)
  else some (f.interval.toNat, false)

/-- The undo of a share in the interval that is streamed. -/
def Flask.undoOf (f : Flask) (share gen : Nat) : Option RbCopy := if nhas f.sent share then none else f.copyOf share gen

/-- The share that E-die `e` streams next (R391): the first of its set from its place on, else the first; while no slot is left at the
partner, shares whose undo has still to be sent are passed over. -/
def State.nextShare (s : State) (e : Nat) (gen : Nat) (tail : Bool) : Option Nat :=
  let f := s.flask
  let set := if tail then f.tail else f.dirty
  let n := f.shares
  let room : Bool := decide (f.undoUsed[Fin.ofNat 8 e] < s.active.bind.slots)
  let unsent := f.rb.filter (fun c => decide (c.gen = gen) && !nhas f.sent c.share)
  let set := if room then set else unsent.foldl (fun x c => x.drop c.share) set
  match set.first e f.cursor[Fin.ofNat 8 e] n with
  | some k => some k
  | none => set.first e 0 n

/-- One line of the mirror: a MIRROR_WRITE with the fields of R392. A line that holds poison is sent as a poison write
(R410). -/
def State.mirrorLine (s : State) (e : Fin 8) (gen offset : Nat) (undo : Bool) (x : Payload) : State :=
  let sub : BitVec 3 := if x.poison ≠ [] then 2 else if undo then 1 else 0
  s.post e { s.message 3 s.active.bind.partner sub offset x.bytes with gv := true, egen := BitVec.ofNat 8 gen }
    (some (.mirror offset sub))

/-- The two lines of a share, from an address, with what the controller finds there. -/
def State.mirrorShare (s : State) (e : Fin 8) (gen share a : Nat) (undo : Bool) (ext : HbmFinding) : State :=
  let (s, x) := s.hbmRead a 512 ext
  (s.mirrorLine e gen (512 * share) undo (x.slice 0 256)).mirrorLine e gen (512 * share + 256) undo (x.slice 256 256)

/-- Step 2 and 3 of R390: the dirty bit is cleared and the content is sent; a tail share that has been copied since the
boundary is read from its copy. -/
def State.sendContent (s : State) (e : Fin 8) (gen share : Nat) (tail : Bool) (ext : HbmFinding) : State :=
  let f := s.flask
  let a := match (if tail then f.copyOf share f.interval.toNat else none) with
    | some c => slotAddr s.active.bind.rbArea (share % 8) c.slot
    | none => mirrorAddr f.regions (512 * share)
  let s := s.mapFlask (fun f =>
    { f with dirty := if tail then f.dirty else f.dirty.drop share, sent := nins f.sent share
             stream := f.stream.set e (some { share := share, content := true, tail := tail, waiting := 2 }) })
  s.mirrorShare e gen share a false ext

/-- An E-die streams: a share's undo first, when it has one that has not been sent in the interval, and after its
acknowledgement the content (R390, R391). -/
def execMirrorStreamShare (edie : Fin 8) (s : State) (ext : HbmFinding := .clean) : Out :=
  let f := s.flask
  match f.streams with
  | none => .next s
  | some (gen, tail) =>
    if !s.active.bind.en || f.fenced || f.pstate == .rollback then .next s
    else
      match f.stream[edie] with
      | some x => .next (if !x.content ∧ x.waiting = 0 then s.sendContent edie gen x.share x.tail ext else s)
      | none =>
        match s.nextShare edie.val gen tail with
        | none => .next s
        | some k =>
          match f.undoOf k gen with
          | none => .next (s.sendContent edie gen k tail ext)
          | some c =>
            let s := s.mapFlask (fun f =>
              { f with undoUsed := f.undoUsed.set edie (f.undoUsed[edie] + 1)
                       stream := f.stream.set edie (some { share := k, content := false, tail := tail, waiting := 2 }) })
            .next (s.mirrorShare edie gen k (slotAddr s.active.bind.rbArea (k % 8) c.slot) true ext)

/-- A line of the mirror is acknowledged. With both lines of the content a share is done, and a tail share leaves the tail
(R390). -/
def Flask.lineDone (f : Flask) (offset : Nat) : Flask :=
  let share := offset / 512
  let e : Fin 8 := Fin.ofNat 8 share
  let f := { f with lines := if f.lines = 0xFFFFFFFF then f.lines else f.lines + 1 }
  match f.stream[e] with
  | some x =>
    if x.share ≠ share then f
    else if x.content ∧ x.waiting ≤ 1 then
      { f with stream := f.stream.set e none, cursor := f.cursor.set e (share + 8)
               tail := if x.tail then f.tail.drop share else f.tail }
    else { f with stream := f.stream.set e (some { x with waiting := x.waiting - 1 }) }
  | none => f

/-- A line of the mirror was refused or timed out: the share is to be sent again. -/
def Flask.lineLost (f : Flask) (offset : Nat) : Flask :=
  let share := offset / 512
  let e : Fin 8 := Fin.ofNat 8 share
  match f.stream[e] with
  | some x =>
    if x.share ≠ share then f
    else { f with stream := f.stream.set e none, tail := if x.tail then f.tail.add share else f.tail
                  dirty := if x.tail then f.dirty else f.dirty.add share }
  | none => f

/-- 600 s have passed without a committed pour while the job runs (R399). -/
def execPourOverdue (job : Fin 8) (s : State) : Out :=
  if s.pourJob = some job ∧ (s.job job).st = .running then
    let s := s.wait (s.flask.commitAt + 600 * 10 ^ 9)
    .next ((s.mapFlask (fun f => { f with commitAt := s.now })).log { mpEvent 1 0x0504 [] with job := job.val + 1 })
  else .next s

/-- A port no longer serves its job: it is not ACTIVE, or it has missed HBLIM heartbeats (R400). -/
def Port.dead (p : Port) : Bool := decide (p.st ≠ .active) || decide (p.hblim.toNat ≤ p.miss.toNat)

/-- A running job lost every port that was ACTIVE when it started. -/
def State.cutOff (s : State) (j : Fin 8) : Bool :=
  let b := s.job j
  decide (b.st = .running) && !b.ports.isEmpty && b.ports.all (fun p => (s.port (Fin.ofNat 48 p)).dead)

/-- The module fences itself (R400): cut off from every port for 20 ms, the MP stops the job; otherwise, with the
heartbeat word not refreshed for 20 ms, the E-dies stop sending and forwarding. -/
def execSelfFence (s : State) : Out :=
  match (List.finRange 8).find? (fun j => s.cutOff j) with
  | some j =>
    let s := s.wait (s.now + 20000000)
    .next ((s.holdCores j).log { mpEvent 2 0x0505 [] with job := j.val + 1 })
  | none => .next ((s.wait (s.mp.wordAt + 20000000)).mapFlask (fun f => { f with fenced := true }))

/-- The partner streams a share of the store it holds of the failed module to the spare, at the address that the spare
named (R406). A share that holds poison is reported in a management notice instead. -/
def execAdoptionStream (share : Nat) (addr : BitVec 40) (s : State) (ext : HbmFinding := .clean) : Out :=
  let b := s.active.bind
  match s.active.route.spareOf b.partner with
  | none => .next s
  | some spare =>
    if !b.en || decide (b.cap.toNat * 128 ≤ share) then .next s
    else
      let a := b.store.toNat * 65536 + 512 * share
      let e : Fin 8 := Fin.ofNat 8 share
      let (s, x) := s.hbmRead a 512 ext
      if x.poison ≠ [] then .next (s.post s.mpDie (s.message 5 spare 4 0 (leBytes 16 share)) none)
      else
        let s := s.post e (s.message 0 spare 0 addr.toNat (x.bytes.take 256)) (some (.adoption (512 * share)))
        .next (s.post e (s.message 0 spare 0 (addr.toNat + 256) (x.bytes.drop 256)) (some (.adoption (512 * share + 256))))

end Sys2Proof.Machine
end

