-- ==== Sys2Proof/Machine/PowerOps.lean ====
section
/-! DEFINITION. The arithmetic of clocks and sizing: fixed points, the factor of Table 14-3, phases and their tables, the
allowance, targets in force, breaches and thermal protection (R416 to R434). -/

namespace Sys2Proof.Machine

/-! ### Who sizes -/

/-- The firmware of the active MP runs (R482, Table 17-1). -/
def State.firmwareUp (s : State) : Bool :=
  decide (s.board.stage ≠ .held) && (s.sec.images.running[(if s.mp.activeB then 1 else 0 : Fin 2)]).isSome

/-! ### Plan and points -/

/-- Thermal design power (Table 0-2). -/
def tdp : OrderingCode → Nat
  | .s3 | .s2 => 4800
  | .a3 | .a2 => 4700

/-- The frequency of a fixed point, in MHz (Table 14-9). -/
def fixMhz (code : Nat) : Nat := match code with | 0 => 1500 | 1 => 1700 | _ => 1900

/-- Fields of the clock plan in force. -/
def State.plan (s : State) (lo n : Nat) : Nat := bitsAt s.active.clkplan.toNat lo n

/-- The cap in W and the window in seconds that are in force: a POWER_CAP takes effect at the next sample (R421). -/
def State.cap (s : State) : Nat := bitsAt s.power.pcap.toNat 0 16
def State.window (s : State) : Nat := bitsAt s.power.pcap.toNat 16 8

/-- Opportunistic mode, by the plan or as the fallback of R432. -/
def State.opportunistic (s : State) : Bool := s.active.clkplan.getLsbD 31 || s.power.fallback

/-- Dynamic power relative to 1.9 GHz, in thousandths, interpolated between the points of Table 14-3. -/
def freqFactor (mhz : Nat) : Nat :=
  let seg (f0 k0 f1 k1 : Nat) : Nat := k0 + (mhz - f0) * (k1 - k0) / (f1 - f0)
  if mhz < 1500 then seg 800 237 1500 604
  else if mhz < 1700 then seg 1500 604 1700 786
  else if mhz < 1900 then seg 1700 786 1900 1000
  else seg 1900 1000 2200 1401

/-- A die changed. -/
def State.mapPower (s : State) (d : Fin 40) (f : DiePower → DiePower) : State :=
  { s with power := { s.power with dies := s.power.dies.set d (f s.power.dies[d]) } }

/-- C-die `d` among the 40 dies. -/
def cdie (d : Fin 32) : Fin 40 := ⟨d.val, by omega⟩

/-- The E-die bridged to a C-die, when there is one (Table 1-2). -/
def bridged (d : Nat) : Option (Fin 40) :=
  if d / 8 = 0 then some (Fin.ofNat 40 (32 + d % 8 / 2))
  else if d / 8 = 3 then some (Fin.ofNat 40 (36 + d % 8 / 2))
  else none

/-! ### Voltages (R417, R436), in tenths of a millivolt -/

/-- The nominal voltages of the points of Table 14-3, start of life. -/
def pointVolt (k : Nat) : Nat := ([6000, 7000, 7500, 8000, 8800] : List Nat).getD k 8800

/-- A value at a frequency, interpolated between its values at the points of Table 14-3.
[DESIGN CHOICE: log entry 139] -/
def alongPoints (v : Nat → Nat) (mhz : Nat) : Nat :=
  let seg (f0 k f1 : Nat) : Nat := ((v k * (f1 - mhz) + v (k + 1) * (mhz - f0)) / (f1 - f0))
  if mhz < 1500 then seg 800 0 1500
  else if mhz < 1700 then seg 1500 1 1700
  else if mhz < 1900 then seg 1700 2 1900
  else seg 1900 3 2200

/-- The nominal voltage of a frequency. [DESIGN CHOICE: log entry 139] -/
def nominalVolt (mhz : Nat) : Nat := alongPoints pointVolt mhz

/-- The steps between nominal and greatest voltage at every point of Table 14-3: 60 mV. -/
def maxRaise : Nat := 24

/-- The steps that ageing has added to what an island needs at a point (R436). -/
def Power.needs (p : Power) (island k : Nat) : Nat := tget p.raise 0 (8 * island + k)

/-- The voltage of an island at a frequency: what it needs, and V_MAX at most (R437). -/
def Power.islandVolt (p : Power) (island mhz : Nat) : Nat :=
  alongPoints (fun k => pointVolt k + 25 * min maxRaise (p.needs island k)) mhz

/-- The islands of a die that ageing has raised. -/
def Power.raised (p : Power) (d : Nat) : NatSet :=
  ninsAll [] ((p.raise.filter (fun x => x.1 / 8 / 272 == d)).map (fun x => x.1 / 8))

/-- What the rail of a C-die must give at a frequency: the most that any of its islands needs.
[DESIGN CHOICE: log entry 139] -/
def Power.railNeed (p : Power) (d mhz : Nat) : Nat :=
  ((p.raised d).map (fun i => p.islandVolt i mhz)).foldl max (nominalVolt mhz)

/-- The highest frequency from 1.9 GHz up, in steps of 25 MHz, at which an island needs no more than V_MAX (R437). -/
def Power.islandBoost (p : Power) (island : Nat) : Nat :=
  let r19 := p.needs island 3
  let r22 := p.needs island 4
  if r22 ≤ maxRaise then 2200
  else if maxRaise ≤ r19 then 1900
  else 1900 + 300 * (maxRaise - r19) / (r22 - r19) / 25 * 25

/-- The frequency above which a C-die has lost boost: the highest that all of its islands meet (R437). -/
def Power.boostMax (p : Power) (d : Nat) : Nat := ((p.raised d).map p.islandBoost).foldl min 2200

/-- The steps of 2.5 mV by which an island of a C-die trims its supply down from the rail, at most 60 mV. -/
def Power.trim (p : Power) (island mhz : Nat) : Nat :=
  min 24 (((p.dies[Fin.ofNat 40 (island / 272)]).rail - p.islandVolt island mhz) / 25)

/-- Every rail of a C-die gives what its islands need at their clock. -/
def Power.settled (p : Power) : Power :=
  { p with dies := Vector.ofFn (fun d =>
      if d.val < 32 then { p.dies[d] with rail := p.railNeed d.val (p.dies[d]).clock } else p.dies[d]) }

/-- A voltage moves toward another by at most 2 mV in 1 µs (R419). [DESIGN CHOICE: log entry 139] -/
def slew (v need : Nat) : Nat := if v < need then min need (v + 20) else max need (v - 20)

/-! ### Targets (R418, R434) -/

/-- What fast trips take from every ceiling now (R431). -/
def State.lowered (s : State) : Nat := match s.power.ceiling with | some (c, t) => if s.now < t then c else 0 | none => 0

/-- The steps of 25 MHz in which island clocks are set, from 800 MHz up (Table 14-1). -/
def stepDown (mhz : Nat) : Nat := 800 + (mhz - 800) / 25 * 25

/-- The highest target that opportunistic mode allows a C-die, in steps of 25 MHz (R412, R418, R431, R432, R437). -/
def State.oppCeiling (s : State) (d : Fin 32) : Nat :=
  let x := s.power.dies[cdie d]
  let boost : Nat := if s.active.clkplan.getLsbD 28 ∧ x.tj.toNat < 90 then s.power.boostMax d.val else 1900
  let c := min (s.plan 0 12) boost
  stepDown ((if s.power.fallback then min c 1500 else c) - s.lowered)

/-- The target of the mode: FIXNOW, or what sizing set. -/
def State.modeTarget (s : State) (d : Fin 32) : Nat :=
  if s.opportunistic then min (s.power.dies[cdie d]).mode (s.oppCeiling d) else fixMhz s.power.fixnow.toNat

/-- The thermal target of a C-die: its own, or that of its bridged E-die (R433). -/
def State.thermalTarget (s : State) (d : Fin 32) : Nat :=
  let x := s.power.dies[cdie d]
  min (x.thermal.getD 2200) (x.thermalE.getD 2200)

/-- The target in force of a C-die: the least of those that any cause sets (R434). -/
def State.target (s : State) (d : Fin 32) : Nat :=
  let t := min (s.modeTarget d) (s.thermalTarget d)
  if s.power.stale then min t 1500 else t

/-- The clock of a C-die's islands, without droop (R434). -/
def State.islandClock (s : State) (d : Fin 32) : Nat :=
  let x := s.power.dies[cdie d]
  if s.power.shutdown then 0 else if s.power.trip ∨ x.halvedAt.isSome then x.clock / 2 else x.clock

/-- The period of an island's clock in femtoseconds, which a droop lengthens to half as much again (R415, R434). -/
def State.islandPeriod (s : State) (island : Fin 8704) : Nat :=
  let p := 10 ^ 9 / s.islandClock (Fin.ofNat 32 (island.val / 272))
  if nhas s.power.droops island.val then 3 * p / 2 else p

/-- The halving of a die's clocks ends: they glide back from the halved clock (R431, R433).
[DESIGN CHOICE: log entry 139] -/
def DiePower.unhalve (x : DiePower) : DiePower := { x with clock := x.clock / 2 }

/-! ### Phases (R426, R427) -/

/-- The value that the most of a list hold, the lower of equals. -/
def commonest (l : List Nat) : Nat :=
  ((List.range 256).foldl (fun (best : Nat × Nat) v =>
    let n := (l.filter (fun x => x == v)).length
    if best.2 < n then (v, n) else best) (0, 0)).1

/-- The phase of a C-die: over its logical cores; a core of the table that differs from reset is listed, and every other one
holds 0. -/
def State.diePhase (s : State) (d : Nat) : Nat :=
  let here := (s.cores.filter (fun x => decide (x.1 / 256 = d ∧ x.1 % 256 < perDie s.ident.code))).map (fun x => x.2.phase.toNat)
  commonest (here ++ List.replicate (perDie s.ident.code - here.length) 0)

/-- The entry of a phase of a die. -/
def Power.entry (p : Power) (d phase : Nat) : PhaseEntry := tget p.phases PhaseEntry.reset (256 * d + phase)

/-- A mean moved one eighth toward what was observed. -/
def learn (old seen : Nat) : BitVec 16 := BitVec.ofNat 16 ((old : Int) + ((seen : Int) - old) / 8).toNat

/-- An entry after an occurrence (Table 14-6). [DESIGN CHOICE: log entry 83] -/
def PhaseEntry.learned (x : PhaseEntry) (demand static dur next : Nat) : PhaseEntry :=
  { demand := learn x.demand.toNat demand, static := learn x.static.toNat static, dur := learn x.dur.toNat (min 0xFFFF dur),
    next := BitVec.ofNat 8 next, cnt := if x.cnt = 0xFF then x.cnt else x.cnt + 1 }

/-- A die's phase is sampled: at its end an occurrence of 50 µs or more is learned, unless the tables are frozen (R427,
R429). [DESIGN CHOICE: log entry 83] -/
def State.samplePhase (s : State) (d : Fin 40) (phase demand static : Nat) : State :=
  let x := s.power.dies[d]
  if x.phase.toNat = phase then s
  else
    let dur := (s.now - x.since) / 10000
    let k := 256 * d.val + x.phase.toNat
    let s :=
      if s.power.untrust ∨ dur < 5 then s
      else { s with power := { s.power with
        phases := tset s.power.phases k ((s.power.entry d.val x.phase.toNat).learned demand static dur phase) } }
    s.mapPower d (fun x => { x with phase := BitVec.ofNat 8 phase, since := s.now })

/-- A die's demand at a frequency (R427). -/
def PhaseEntry.power (x : PhaseEntry) (mhz : Nat) : Nat := x.static.toNat + x.demand.toNat * freqFactor mhz / 1000

/-- The demand of a C-die at its ceiling, planned ahead (R428). -/
def State.demand (s : State) (d : Fin 32) (mhz : Nat) : Nat :=
  let x := s.power.dies[cdie d]
  let e := s.power.entry d.val x.phase.toNat
  let here := e.power mhz
  if e.dur.toNat ≤ (s.now - x.since) / 10000 + 20 ∧ 4 ≤ e.cnt.toNat then
    max here ((s.power.entry d.val e.next.toNat).power mhz)
  else here

/-! ### The allowance (R420 to R425) -/

/-- The mean of a list. -/
def meanOf (l : List Nat) : Nat := if l.isEmpty then 0 else l.sum / l.length

/-- Energy in W·ms of the last `n` samples, a missing one at the cap; with the estimator untrusted, 1.10 times what was
measured (R422, R429). -/
def State.energy (s : State) (n : Nat) : Nat :=
  let held := s.power.samples.take n
  let e := if s.power.untrust then held.sum * 11 / 10 else held.sum
  e + (n - held.length) * s.cap

/-- The module's allowance for the next 1 ms, in W (R425). -/
def State.allowance (s : State) : Nat :=
  let n := 1000 * s.window
  let all : Int := (s.cap * n : Nat)
  let a1 := all - s.energy (n - 1)
  let a2 : Int := s.cap + (all - s.energy n) / (100 * (max 1 s.window : Nat) : Int)
  let a3 : Int := (min (4 * s.power.vin.toNat) (tdp s.ident.code) : Nat)
  (max 0 (min (min a1 a2) a3)).toNat

/-- The highest step of 25 MHz up to a ceiling whose predicted power fits a share; the lowest point where none does
(R428). -/
def bestStep (power : Nat → Nat) (share : Nat) : Nat → Nat
  | 0 => 800
  | n + 1 => if power (800 + 25 * (n + 1)) ≤ share then 800 + 25 * (n + 1) else bestStep power share n

/-- Budgets and targets of the C-dies: what is left beside the fixed part is shared in proportion to their demands at
their ceilings. In fixed-frequency mode, and while telemetry is stale (R430), the budgets are set and the targets hold. -/
def State.spread (s : State) (fixed : Nat) : State :=
  let left := s.allowance - fixed
  let total := ((List.finRange 32).map (fun d => s.demand d (s.oppCeiling d))).sum
  (List.finRange 32).foldl (fun t d =>
    let share := if total = 0 then left / 32 else left * s.demand d (s.oppCeiling d) / total
    let mode := bestStep (s.demand d) share ((s.oppCeiling d - 800) / 25)
    t.mapPower (cdie d) (fun x =>
      { x with budget := BitVec.ofNat 16 (min 0xFFFF share), mode := if s.opportunistic ∧ s.power.stale = false then mode else x.mode })) s

/-! ### Records, breaches, thermal protection -/

/-- A bit of PWR_EVENT is set. -/
def State.powerBit (s : State) (k : Nat) : State :=
  { s with power := { s.power with event := s.power.event ||| BitVec.ofNat 9 (2 ^ k) } }

/-- A record of sizing: the module's power unit. -/
def powerEvent (sev : BitVec 2) (cause : BitVec 16) (detail : List Word) : Event :=
  { mpEvent sev cause detail with unit := 14 }

/-- A record of thermal protection of a die. -/
def thermalEvent (sev : BitVec 2) (cause : BitVec 16) (d : Fin 40) (tj : Byte) : Event :=
  { mpEvent sev cause [tj.setWidth 32] with die := d.val, unit := 15 }

/-- A breach in fixed-frequency mode is acted on (R432): the next lower fixed point, or below it the fallback.
[DESIGN CHOICE: log entry 83] [DEDUCED: log entry 109] -/
def State.breach (s : State) (cause : BitVec 2) : State :=
  let p := s.power
  let p := { p with
    cause := cause, breachcnt := if p.breachcnt = 0xFFFFFFFF then p.breachcnt else p.breachcnt + 1, breachAt := some s.now
    overRun := 0, trips := if cause = 2 then [] else p.trips }
  let p := if p.fixnow = 0 then { p with fallback := true } else { p with fixnow := p.fixnow - 1 }
  ((({ s with power := p } : State).safetyAction .clock).powerBit 2).log (powerEvent 1 0x0603 [cause.setWidth 32])

/-- A breach of CAUSE 0 may be judged and acted on: enough samples are held, and no step was made within a window
(R422, R432). -/
def State.capBreach (s : State) : Bool :=
  decide (1000 ≤ s.power.samples.length) && decide (103 * s.cap < 100 * s.power.winavg.toNat) &&
    (match s.power.breachAt with | some t => decide (t + s.window * 10 ^ 9 ≤ s.now) | none => true)

/-- Thermal shutdown (R433): every core of every job stops and the record fatal to the module is posted. -/
def State.thermalShutdown (s : State) (d : Fin 40) (tj : Byte) : State :=
  if s.power.shutdown then s
  else
    let s := { s with power := { s.power with shutdown := true }, board := { s.board with thermtripN := false } }
    ((List.finRange 8).foldl State.holdCores s).log (thermalEvent 3 0x0607 d tj)

end Sys2Proof.Machine
end

