-- ==== Sys2Proof/Machine/Requests.lean ====
section
/-! DEFINITION. The requests of the commands as Tables 15-12, 15-13, 16-5 and 16-9 lay them out: what each row's request is in
bytes, which bits a request may set, and how long it must be (R453, R474, R476, R477, R488, R494). -/

namespace Sys2Proof.Machine

/-- A request: its OPC, the job it names (none where the command names no job), its fields by offset in rising order, and the cores
that the image of a JOB_LOAD names. A command that waits for what its row brings anew may run again. -/
structure Request where
  opc : Nat
  job : Option (BitVec 8) := none
  fields : List (Nat × List Byte) := []
  cores : List CoreId := []
  again : Bool := false

/-- `n` bytes at an offset, zeros beyond the end. -/
def spanOf (p : List Byte) (o n : Nat) : List Byte := padTo n ((p.drop o).take n)

/-- The payload of a request. -/
def Request.payload (q : Request) : List Byte := q.fields.foldl (fun p f => padTo f.1 p ++ f.2) []

/-- A payload holds every field of a request. -/
def Request.within (q : Request) (p : List Byte) : Bool := q.fields.all (fun f => decide (spanOf p f.1 f.2.length = f.2))

/-- A request of words from offset 0 on. -/
def reqWords (opc : Nat) (ws : List Nat) (job : Option (BitVec 8) := none) : Request := { opc := opc, job := job, fields := [(0, wordBytes ws)] }

/-! ### Entries -/

/-- An entry of a repair ledger as 8 bytes. [DESIGN CHOICE: log entry 87] -/
def RepairEntry.bytes : RepairEntry → List Byte
  | .scratchpad die prow pcol bank row =>
    leBytes 8 (die.val + prow.toNat * 2 ^ 8 + pcol.toNat * 2 ^ 16 + bank.toNat * 2 ^ 24 + row.toNat * 2 ^ 32)
  | .hbm stack pch bank row => leBytes 8 (stack.val + pch.toNat * 2 ^ 8 + bank.toNat * 2 ^ 16 + row.toNat * 2 ^ 32)

/-- The target that an entry belongs to. -/
def RepairEntry.target : RepairEntry → Nat
  | .scratchpad .. => 0
  | .hbm .. => 1

/-- A range as 16 bytes. -/
def rangeBytes (r : Range) : List Byte := leBytes 8 r.base.toNat ++ leBytes 8 r.limit.toNat

/-- A declaration as a request lays it out, from its first word on. -/
def declBytes (d : PourDecl) : List Byte :=
  wordBytes [0, d.regions.length] ++ padTo 256 (d.regions.flatMap rangeBytes) ++ rangeBytes d.saveArea ++
    wordBytes [d.coordinator.toNat, d.reqWord.toNat, d.timeoutS.toNat, d.vectorMask.toNat] ++
    padTo 32 (d.spm.flatMap (fun p => wordBytes [p.1.toNat, p.2.toNat]))

/-- A window of a JOB_LOAD. -/
def WindowReq.bytes (w : WindowReq) : List Byte :=
  leBytes 8 w.base.toNat ++ leBytes 8 (w.limit.toNat + b2n w.write * 2 ^ 56 + b2n w.host * 2 ^ 57 + b2n w.link * 2 ^ 58)

/-- The CORE_IDs of the core sections of a job image (R477). -/
def imageCores (x : List Byte) : List CoreId :=
  (List.range (min (word32At x 8) (x.length / 16))).flatMap (fun k =>
    let e := 16 + 16 * k
    if word32At x e = 2 then
      (List.range (min (word32At x (e + 12)) (x.length / 16))).map (fun i => BitVec.ofNat 13 (word32At x (word32At x (e + 4) + 16 * i)))
    else [])

/-- An authorisation as 196 bytes (Table 16-9). -/
def Authorisation.bytes (a : Authorisation) : List Byte :=
  leBytes 4 a.keyslot.toNat ++ leBytes 96 a.pubkey.toNat ++ leBytes 96 a.signature.toNat

/-! ### Requests of the rows -/

def reqDevInfo : Request := { opc := 0x01 }
def reqHealth : Request := { opc := 0x02 }

/-- JOB_LOAD (Table 15-13): IMGADDR is where the host memory that the row brings stands. -/
def reqJobLoad (r : JobLoadReq) : Request :=
  { opc := 0x10, cores := imageCores r.image, again := true
    fields := [(8, wordBytes [r.image.length, b2n r.capture + 2 * b2n r.debug + 4 * b2n r.loadPhases, r.ownmask.toNat, r.ncores.toNat,
        r.minspm.toNat, r.codesize.toNat] ++ leBytes 8 r.codebase.toNat ++ leBytes 4 r.wins.length),
      (0x30, r.wins.flatMap WindowReq.bytes)] }

def reqJobStart (job : BitVec 8) (resume : Bool) : Request := reqWords 0x11 [b2n resume] (some job)
def reqJobKill (job : BitVec 8) : Request := { opc := 0x12, job := some job }
def reqJobStatus (job : BitVec 8) : Request := { opc := 0x13, job := some job }
def reqCfgGet (block : BitVec 8) (copy clr : Bool) (offset words : Word) : Request :=
  reqWords 0x20 [block.toNat + b2n copy * 256 + b2n clr * 512, offset.toNat, words.toNat]
def reqCfgWrite (block : BitVec 8) (copy : Bool) (offset : Word) (data : List Word) : Request :=
  reqWords 0x21 ([block.toNat + b2n copy * 256, offset.toNat, data.length] ++ data.map BitVec.toNat)
def reqCfgSwap : Request := { opc := 0x22 }
def reqCfgSwapAt (t : DWord) : Request := { opc := 0x23, fields := [(0, leBytes 8 t.toNat)] }
def reqPowerCap (cap : BitVec 16) (window : Byte) : Request := reqWords 0x30 [cap.toNat + window.toNat * 65536]
def reqClockMode (value mask : Word) : Request := reqWords 0x31 [value.toNat, mask.toNat]
def reqPhaseRead (die : Byte) (ndie : BitVec 2) : Request := { opc := 0x32, fields := [(0, [0, die, ndie.setWidth 8])] }
def reqPhaseLoad (job die : Byte) (ndie : BitVec 2) (data : List Byte) : Request :=
  { opc := 0x32, job := some job, fields := [(0, [1, die, ndie.setWidth 8]), (4, data)] }
def reqPhaseClear (die : Byte) : Request := { opc := 0x32, fields := [(0, [2, die])] }

/-- FLASK_BIND: without an unbind its partner and its sizes. -/
def reqFlaskBind (partner : ModuleId) (keep : Bool) (c u : Word) : Request :=
  { reqWords 0x40 [partner.toNat + b2n keep * 65536, c.toNat, u.toNat] with again := true }
def reqFlaskUnbind : Request := { opc := 0x40, fields := [(2, [2])] }

/-- POUR_POLICY: the ACTION and what follows it. -/
def reqPourDeclare (job : BitVec 8) (d : PourDecl) : Request := { opc := 0x41, job := some job, fields := [(0, declBytes d)] }
def reqPourQuery (job : BitVec 8) : Request := reqWords 0x41 [1] (some job)
def reqRollback (job : BitVec 8) : Request := reqWords 0x41 [2] (some job)
def reqRemap (job : BitVec 8) (cores : List Word) : Request := reqWords 0x41 ([3, cores.length] ++ cores.map BitVec.toNat) (some job)
def reqPourNow (job : BitVec 8) : Request := { opc := 0x42, job := some job }
def reqAdopt (job : BitVec 8) (x p : ModuleId) (r : Word) : Request := reqWords 0x43 [x.toNat, p.toNat, r.toNat] (some job)
def reqMirrorStatus : Request := { opc := 0x44 }

/-- PORT_CTL: an action without a value leaves the word free. -/
def reqPort (port : Fin 48) (action : Byte) (value : Option Word) : Request :=
  { opc := 0x50
    fields := [(0, [BitVec.ofNat 8 port.val, action])] ++ (match value with | some v => [(4, leBytes 4 v.toNat)] | none => []) }
def reqRouteWrite (first : Word) (groups : List RouteMasks) : Request :=
  reqWords 0x51 ([0, first.toNat, groups.length] ++ groups.flatMap (fun m => [m.minLo.toNat, m.minHi.toNat, m.nmLo.toNat, m.nmHi.toNat]))
def reqRouteQuery (dmod : Word) : Request := reqWords 0x51 [1, dmod.toNat]

/-- CORE_RETIRE and CORE_READMIT. -/
def reqPosition (opc : Nat) (die : Fin 32) (prow : BitVec 5) (pcol : BitVec 4) (node : Bool) : Request :=
  reqWords opc [die.val + prow.toNat * 2 ^ 8 + pcol.toNat * 2 ^ 16 + b2n node * 2 ^ 24]
def reqRowList (target : RepairTarget) (start : Word) : Request :=
  { opc := 0x62, fields := [(0, [0, match target with | .scratchpad => 0 | .hbm => 1]), (4, leBytes 4 start.toNat)] }
def reqRowEntry (action : Byte) (e : RepairEntry) : Request :=
  { opc := 0x62, fields := [(0, [action, BitVec.ofNat 8 (RepairEntry.target e)]), (8, RepairEntry.bytes e)] }
def reqErrLog (start : Word) (count : BitVec 6) (minsev : BitVec 2) (clear : Bool) : Request :=
  reqWords 0x70 [start.toNat, count.toNat + minsev.toNat * 256 + b2n clear * 65536]
def reqDiag (test target : Word) : Request := reqWords 0x71 [test.toNat, target.toNat]

/-- LIFECYCLE and FW_UPDATE: an action and its fields. -/
def reqAction (opc : Nat) (action : Byte) (fields : List (Nat × List Byte)) : Request := { opc := opc, fields := (0, [action]) :: fields }
def reqDeploy (key : BitVec 768) : Request := reqAction 0x80 1 [(4, leBytes 96 key.toNat)]
def reqChallenge (purpose : Word) : Request := reqAction 0x80 2 [(4, leBytes 4 purpose.toNat)]
def reqRespond (purpose : Word) (auths : List Authorisation) : Request :=
  reqAction 0x80 3 [(4, wordBytes [purpose.toNat, auths.length] ++ auths.flatMap Authorisation.bytes)]
def reqFwStage (image : List Byte) : Request := reqAction 0x81 1 [(0x10, leBytes 4 image.length)]
def reqFwChunk (offset : Word) (data : List Byte) : Request := reqAction 0x81 2 [(8, wordBytes [offset.toNat, data.length] ++ data)]
def reqFwActivate (immediate : Bool) : Request := reqAction 0x81 4 [(4, [BitVec.ofNat 8 (b2n immediate)])]

/-- DEBUG_HALT and DEBUG_RESUME, DEBUG_READ and DEBUG_WRITE. -/
def reqDebugThreads (opc : Nat) (core : CoreId) (threads : BitVec 4) (attach : Bool) : Request :=
  reqWords opc [core.toNat, threads.toNat + b2n attach * 256]
def reqDebugRead (space id addr bytes : Word) : Request := reqWords 0x92 [space.toNat, id.toNat, addr.toNat, bytes.toNat]
def reqDebugWrite (space id addr : Word) (data : List Byte) : Request :=
  { opc := 0x93, fields := [(0, wordBytes [space.toNat, id.toNat, addr.toNat, data.length] ++ data)] }

def reqFettle (scope : Nat) (job : Option (BitVec 8)) : Request := reqWords 0xA0 [scope] job

/-- TIME_SYNC: the mask has room for the first 32 ports; no time to set reads as zero.
[DESIGN CHOICE: log entry 55] -/
def reqTimeSync (role : BitVec 2) (pport : BitVec 6) (mask : BitVec 48) (asym : List (BitVec 16)) (time : Option DWord) : Request :=
  { opc := 0xA1
    fields := [(0, wordBytes [role.toNat * 2 ^ 30 + pport.toNat, mask.toNat] ++ asym.flatMap (fun a => leBytes 2 a.toNat)),
      (0x68, leBytes 8 (time.elim 0 BitVec.toNat))] }

/-! ### What a request may hold -/

/-- Bytes of the fixed fields of a request with the data that it counts (Tables 15-12, 15-13, 16-5, 16-9). -/
def fixedBytes (opc : Nat) (p : List Byte) : Nat :=
  let w := word32At p 0
  let n := word32At p 8
  match opc with
  | 0x10 => 0x30 + 16 * word32At p 0x28
  | 0x11 | 0x30 | 0x60 | 0x61 | 0xA0 => 4
  | 0x20 | 0x43 => 12
  | 0x21 => 12 + 4 * n
  | 0x23 | 0x31 | 0x50 | 0x70 | 0x71 | 0x90 | 0x91 => 8
  | 0x32 => if w % 4 = 1 then 2052 else 4
  | 0x40 => if bitsAt w 16 2 = 2 then 4 else 12
  | 0x41 => if w = 0 then 0x148 else if w = 3 then 8 + 4 * word32At p 4 else 4
  | 0x51 => if w = 0 then 12 + 16 * n else 8
  | 0x62 => if w % 256 = 0 then 8 else 16
  | 0x80 => match w % 256 with | 1 => 100 | 2 => 8 | 3 => 0xC + 196 * n | _ => 4
  | 0x81 => match w % 256 with | 1 => 0x14 | 2 => 0x10 + word32At p 0xC | 4 => 8 | _ => 4
  | 0x92 => 16
  | 0x93 => 16 + word32At p 0xC
  | 0xA1 => 0x68
  | _ => 0

/-- The payload that a row sends: its fields, up to the least length of its command. -/
def Request.sent (q : Request) : List Byte := padTo (fixedBytes q.opc q.payload) q.payload

/-- The offset of a count that is beyond what its field allows, or of an action that its command has not. -/
def countFail (opc : Nat) (p : List Byte) : Option Nat :=
  let w := word32At p 0
  let n := word32At p 8
  match opc with
  | 0x10 => if 16 < word32At p 0x28 then some 0x28 else none
  | 0x21 => if n = 0 ∨ 1005 < n then some 8 else none
  | 0x32 => if w % 4 = 3 then some 0 else none
  | 0x40 => if bitsAt w 16 2 = 3 then some 0 else none
  | 0x41 => if 3 < w then some 0 else if w = 3 ∧ 16 < word32At p 4 then some 4 else none
  | 0x50 => if 48 ≤ w % 64 ∨ 6 < bitsAt w 8 8 then some 0 else none
  | 0x51 => if 1 < w then some 0 else if w = 0 ∧ (n = 0 ∨ 251 < n) then some 8 else none
  | 0x62 => if 2 < w % 256 ∨ 1 < bitsAt w 8 24 then some 0 else none
  | 0x80 => if 4 < w % 256 then some 0 else if w % 256 = 3 ∧ n ≠ 1 ∧ n ≠ 2 then some 8 else none
  | 0x81 =>
    if 6 < w % 256 then some 0 else if w % 256 = 2 ∧ (word32At p 0xC = 0 ∨ 4000 < word32At p 0xC) then some 0xC else none
  | 0x93 => if 4016 < word32At p 0xC then some 0xC else none
  | 0xA0 => if 2 < w then some 0 else none
  | _ => none

/-- The listed bits of a request, word by word; bits beyond are reserved (Table 15-12). -/
def listedBits (opc : Nat) (p : List Byte) : List Nat :=
  let w := word32At p 0
  let all := 2 ^ 32 - 1
  let data (n : Nat) : List Nat := List.replicate (ceilDiv n 4) all
  match opc with
  | 0x10 =>
    [all, all, all, 7, 0xFF, all, all, all, all, all, all, 0] ++
      (List.range (word32At p 0x28)).flatMap (fun _ => [all, all, all, 0x070000FF])
  | 0x11 => [1]
  | 0x20 => [0x3FF, all, all]
  | 0x21 => [0x1FF, all, all] ++ data (4 * word32At p 8)
  | 0x23 | 0x31 | 0x71 => [all, all]
  | 0x30 => [0xFFFFFF]
  | 0x32 => 0x3FF03 :: (if w % 4 = 1 then data 2048 else [])
  | 0x40 => [0x31FFF, all, all]
  | 0x41 => all :: (if w = 0 then data 0x144 else if w = 3 then data (4 + 4 * word32At p 4) else [])
  | 0x43 => [all, all, all]
  | 0x50 => [0xFF3F, all]
  | 0x51 => if w = 0 then [all, all, all] ++ data (16 * word32At p 8) else [all, all]
  | 0x60 | 0x61 => [0x010F1F1F]
  | 0x62 =>
    [0x1FF, all] ++ (if w % 256 = 0 then [all, all] else if bitsAt w 8 1 = 0 then [0x0F0F1F1F, 0xFFF] else [0x00FF3F0F, all])
  | 0x70 => [all, 0x1033F]
  | 0x80 =>
    0xFF :: (match w % 256 with | 1 => data 96 | 2 => [all] | 3 => [all, all] ++ data (196 * word32At p 8) | _ => [])
  | 0x81 =>
    0xFF :: (match w % 256 with | 1 => [0, all, all, all] | 2 => [0, all, all] ++ data (word32At p 0xC) | 4 => [1] | _ => [])
  | 0x90 | 0x91 => [all, 0x10F]
  | 0x92 => [all, all, all, all]
  | 0x93 => [all, all, all, all] ++ data (word32At p 0xC)
  | 0xA0 => [all]
  | 0xA1 => 0xC000003F :: all :: data 104
  | _ => []

/-- The offset of the first word with a reserved bit set. -/
def reservedFail (opc : Nat) (p : List Byte) : Option Nat :=
  let m := listedBits opc p
  ((List.range (ceilDiv p.length 4)).find? (fun i =>
    let w := word32At p (4 * i)
    decide (w &&& m.getD i 0 ≠ w))).map (fun i => 4 * i)

/-- The offset of the first field for which a request is BAD_ARG before its command looks at it: it is longer than a payload or has a
count or action out of range, is shorter than its fields, or sets a reserved bit (R453, R474, R476).
[DESIGN CHOICE: log entry 69] -/
def requestBad (opc : Nat) (p : List Byte) : Option Nat :=
  if 4032 < p.length then some 0
  else
    match countFail opc p with
    | some o => some o
    | none => if p.length < fixedBytes opc p then some (p.length / 4 * 4) else reservedFail opc p

end Sys2Proof.Machine
end

