-- ==== Sys2Proof/Machine/Flits.lean ====
section
/-! DEFINITION. Flits, message units, credits, retry and replay at the ports (R325 to R339, R342). -/

namespace Sys2Proof.Machine

/-! ### Units -/

/-- A unit of 128 bits. -/
abbrev Chunk := BitVec 128

/-- The header unit of a message (Table 11-8). -/
def headerUnit (m : LinkMsg) : Chunk :=
  BitVec.ofNat 128
    (m.type.toNat * 2 ^ 124 + m.vc.toNat * 2 ^ 122 + msgLen m * 2 ^ 117 + m.dmod.toNat * 2 ^ 104 + m.smod.toNat * 2 ^ 91 +
      m.tag.toNat * 2 ^ 79 + b2n m.pkg * 2 ^ 78 + b2n m.gv * 2 ^ 77 + m.egen.toNat * 2 ^ 69 + m.rstate.toNat * 2 ^ 61 +
      m.subop.toNat * 2 ^ 58 + b2n m.shp * 2 ^ 57 + m.sport.toNat * 2 ^ 50 + m.aux.toNat * 2 ^ 42 + m.addr.toNat)

/-- The data units of a message, 16 bytes each, least significant byte first. -/
def dataUnits (m : LinkMsg) : List Chunk :=
  (List.range (msgLen m)).map (fun i => BitVec.ofNat 128 (leNat ((m.data.drop (16 * i)).take 16)))

/-- A message from its units. -/
def messageOf (h : Chunk) (ds : List Chunk) : LinkMsg :=
  let x := h.toNat
  { type := BitVec.ofNat 4 (bitsAt x 124 4), vc := BitVec.ofNat 2 (bitsAt x 122 2), dmod := BitVec.ofNat 13 (bitsAt x 104 13)
    smod := BitVec.ofNat 13 (bitsAt x 91 13), tag := BitVec.ofNat 12 (bitsAt x 79 12), pkg := x.testBit 78, gv := x.testBit 77
    egen := BitVec.ofNat 8 (bitsAt x 69 8), rstate := BitVec.ofNat 8 (bitsAt x 61 8), subop := BitVec.ofNat 3 (bitsAt x 58 3)
    shp := x.testBit 57, sport := BitVec.ofNat 6 (bitsAt x 50 6), aux := BitVec.ofNat 8 (bitsAt x 42 8)
    addr := BitVec.ofNat 40 (bitsAt x 0 40), data := ds.flatMap (fun d => leBytes 16 d.toNat) }

/-- LEN of a header unit. -/
def headerLen (h : Chunk) : Nat := bitsAt h.toNat 117 5

/-- TYPE of a header unit. -/
def headerType (h : Chunk) : Nat := bitsAt h.toNat 124 4

/-- The header unit that ends a flit's content (R328). -/
def padUnit : Chunk := BitVec.ofNat 128 (0xF * 2 ^ 124)

/-- A reserved TYPE (Table 11-9). -/
def reservedType (t : Nat) : Bool := t == 7 || (decide (11 ≤ t) && decide (t ≤ 14))

/-- A control message as its unit (Table 11-12). -/
def controlUnit (self : ModuleId) (port : Fin 48) (mstate : BitVec 4) (hbseq : Word) : Control → Chunk
  | .heartbeat =>
    BitVec.ofNat 128 (1 * 2 ^ 120 + self.toNat * 2 ^ 104 + port.val * 2 ^ 96 + mstate.toNat * 2 ^ 92 + hbseq.toNat * 2 ^ 32)
  | .widthReq l f => BitVec.ofNat 128 (2 * 2 ^ 120 + l.toNat * 2 ^ 96 + b2n f * 2 ^ 88)
  | .realign l => BitVec.ofNat 128 (3 * 2 ^ 120 + l.toNat * 2 ^ 96)
  | .switch l r => BitVec.ofNat 128 (4 * 2 ^ 120 + l.toNat * 2 ^ 96 + r.toNat * 2 ^ 80)

/-! ### Transmitter -/

/-- A flit with the acknowledgement, 0 before a flit has been accepted, the NAK, the next two credit returns of this end and the CRC
(Table 11-7, R322, R329, R333, R337). -/
def Port.flit (p : Port) (kind : BitVec 2) (seq : BitVec 12) (first : BitVec 4) (units : List Chunk) : Flit :=
  let a := p.crNext
  let b := p.crNext + 1
  flitSealed
    { kind := kind, seq := seq, ack := if p.accepted then p.rxSeq - 1 else 0, ackv := p.accepted, nak := p.nakDue, first := first
      crp := BitVec.ofNat 3 a.val, crn := p.freed[a], crp2 := BitVec.ofNat 3 b.val, crn2 := p.freed[b], resv := 0, resv2 := 0
      units := units ++ List.replicate (15 - units.length) 0, crc := 0 }

/-- The slot carries a flit: its credit returns and its NAK are sent. -/
def Port.send (p : Port) (now : Nat) (f : Flit) : Port :=
  { p with txFlit := some f, crNext := p.crNext + 2, nakDue := false, nakAt := if p.nakDue then some now else p.nakAt }

/-- The pool that supplies a message: the reserved pool of its channel first, then the shared pool (R336). -/
def Port.poolFor (p : Port) (m : LinkMsg) : Option (Fin 5) :=
  let r : Fin 5 := Fin.ofNat 5 m.vc.toNat
  if msgUnits m ≤ p.credits[r] then some r else if msgUnits m ≤ p.credits[(4 : Fin 5)] then some 4 else none

/-- A message that may start on channel `vc`: the first mirror write, when the tokens allow it, or the first other one (R339). A
TIME_SYNC message starts at the `top` of a new DATA flit alone (R377). -/
def Port.startable (p : Port) (vc : Fin 4) (mirror top : Bool) : Option (Nat × Queued) :=
  match p.txMsgs[vc].findIdx? (fun x => (x.msg.type == 3) == mirror) with
  | some i =>
    match p.txMsgs[vc][i]? with
    | some x =>
      if (p.poolFor x.msg).isSome && (!mirror || decide (200 * msgUnits x.msg ≤ p.tokens)) &&
          (top || decide (x.msg.type ≠ 6)) then some (i, x) else none
    | none => none
  | none => none

/-- A message starts: its units follow, its pool and, for a mirror write, the tokens pay for it. -/
def Port.start (p : Port) (vc : Fin 4) (i : Nat) (x : Queued) : Port :=
  match p.poolFor x.msg with
  | none => p
  | some k =>
    let m := { x.msg with shp := k == 4 }
    { p with
      txMsgs := p.txMsgs.set vc (p.txMsgs[vc].eraseIdx i), txUnits := headerUnit m :: dataUnits m
      credits := p.credits.set k (p.credits[k] - msgUnits m), tokens := if m.type = 3 then p.tokens - 200 * msgUnits m else p.tokens
      vcLast := if m.type = 3 then p.vcLast else vc, reftx := if m.type = 0xA then bump p.reftx else p.reftx }

/-- The next message starts, if one can: a mirror write first, then the channels in turn (R339). -/
def Port.startNext (p : Port) (top : Bool) : Option Port :=
  match (List.finRange 4).findSome? (fun vc => (p.startable vc true top).map (fun x => p.start vc x.1 x.2)) with
  | some q => some q
  | none =>
    ([1, 2, 3, 4] : List (Fin 4)).findSome? (fun d =>
      let vc := p.vcLast + d
      (p.startable vc false top).map (fun x => p.start vc x.1 x.2))

/-- The units of a new DATA flit, unit by unit, with the index of the first header that begins in it. -/
def Port.fill : Nat → Port → Nat → Option Nat → Port × List Chunk × Option Nat
  | 0, p, _, first => (p, [], first)
  | n + 1, p, i, first =>
    match p.txUnits with
    | u :: us =>
      let r := Port.fill n { p with txUnits := us } (i + 1) first
      (r.1, u :: r.2.1, r.2.2)
    | [] =>
      match p.startNext (i == 0) with
      | none => (p, [padUnit], some (first.getD i))
      | some q =>
        match q.txUnits with
        | u :: us =>
          let r := Port.fill n { q with txUnits := us } (i + 1) (some (first.getD i))
          (r.1, u :: r.2.1, r.2.2)
        | [] => (q, [], first)

/-- The first SWITCH of a countdown still waits for the next frame (R345). -/
def Port.switchHeld (p : Port) : Bool := p.plan.any (fun x => x.transmit && x.fresh)

/-- The control message that the slot carries: a REALIGN burst first; others once a frame, a SWITCH of a countdown before the rest
(R326, R339, R344, R345). -/
def Port.nextControl (p : Port) : Option (Control × List Control) :=
  match p.control.find? (fun c => match c with | .realign _ => true | _ => false) with
  | some c => some (c, p.control.erase c)
  | none =>
    if p.frameCtl then none
    else
      let switch (c : Control) : Bool := match c with | .switch _ _ => true | _ => false
      match (if p.switchHeld then none else p.control.find? switch) with
      | some c => some (c, p.control.erase c)
      | none => (p.control.find? (fun c => !switch c)).map (fun c => (c, p.control.erase c))

/-- A SWITCH carries the frames that are left of the countdown, which its first one begins: 64, and one less in each later frame
(R345). -/
def Port.countdown (p : Port) (c : Control) : Control × Port :=
  match c with
  | .switch l r =>
    match p.plan.find? (fun x => x.transmit) with
    | some x =>
      match x.left with
      | some n => (.switch l (BitVec.ofNat 8 (n - 1)), p)
      | none => (.switch l 64, { p with plan := p.plan.map (fun y => if y.transmit then { y with left := some 65 } else y) })
    | none => (.switch l r, p)
  | c => (c, p)

/-- The burst of REALIGN flits is over. -/
def Port.inBurst (p : Port) : Bool := p.control.any (fun c => match c with | .realign _ => true | _ => false)

/-- A replay begins at the oldest kept flit; 16 without an acknowledgement make the port retrain (R324, R332). -/
def Port.startReplay (p : Port) : Port :=
  if p.kept.isEmpty then p
  else
    { p with replayAt := some 0, replayFrom := (p.kept.head?.map (fun f => f.seq - 1)).getD 0, replay := bump p.replay
             stuck := p.stuck + 1, retrainDue := p.retrainDue || decide (16 ≤ p.stuck + 1) }

/-- A new DATA flit can carry something. -/
def Port.hasData (p : Port) : Bool := !p.txUnits.isEmpty || (p.startNext true).isSome

/-- What the transmitter sends in a slot, in the order of R339. -/
def Port.txSlot (self : ModuleId) (port : Fin 48) (mstate : BitVec 4) (now : Nat) (p : Port) : Port :=
  match p.nextControl with
  | some (c, cs) =>
    let x := Port.countdown { p with control := cs, frameCtl := true } c
    let c := x.1
    let p := x.2
    let p := (p.send now (p.flit 2 0 15 [controlUnit self port mstate p.hbseq c]))
    match c with
    | .realign _ => if p.inBurst then p else p.startReplay
    | _ => p
  | none =>
    match p.replayAt with
    | some i =>
      match p.kept[i]? with
      | some f =>
        let g := p.flit f.kind f.seq f.first f.units
        { p.send now g with replayAt := if i + 1 < p.kept.length then some (i + 1) else none }
      | none => { p with replayAt := none }
    | none =>
      if p.kept.length < 2048 && p.hasData then
        let r := Port.fill 15 p 0 none
        let f := r.1.flit 0 p.txSeq (BitVec.ofNat 4 (r.2.2.getD 15)) r.2.1
        { r.1.send now f with txSeq := p.txSeq + 1, kept := p.kept ++ [f], ackAt := if p.kept.isEmpty then now else p.ackAt }
      else p.send now (p.flit 1 0 15 [])

/-- The mirror tokens of one slot: MSHARE × 15 ÷ 200 units, up to 512 units (R339). -/
def Port.gainTokens (p : Port) (mshare : Byte) : Port :=
  { p with tokens := min (p.tokens + min mshare.toNat 200 * 15) (512 * 200) }

/-- The flit of the slot joins its frame; with the fifth the frame is scrambled and becomes two code words (R316, R317). -/
def Port.emit (p : Port) : Port :=
  let fs := p.frame ++ p.txFlit.toList
  if p.slot = 4 then
    let x := frameWords fs p.scr
    { p with slot := 0, frame := [], words := x.1, scr := x.2 }
  else { p with slot := p.slot + 1, frame := fs }

/-- A SYNC that waits to start carries the start of the slot in which it leaves, in 1/256 ns (R377). -/
def Port.stampSync (p : Port) (stamp : Nat) : Port :=
  let sync (m : LinkMsg) : Bool := m.type == 6 && m.subop == 0
  if p.txMsgs[(0 : Fin 4)].any (fun x => sync x.msg) then
    { p with txMsgs := p.txMsgs.set 0 ((p.txMsgs[(0 : Fin 4)]).map (fun x =>
        if sync x.msg then { x with msg := { x.msg with data := leBytes 8 stamp ++ x.msg.data.drop 8 } } else x)) }
  else p

/-- The E-dies of a fenced module start no message of a loaded job (R400). -/
def State.stopped (s : State) (m : LinkMsg) : Bool := s.flask.fenced && s.anyJob && m.type != 5 && m.type != 6

/-- What a port may start: the messages of a stopped job are set aside for the slot. -/
def Port.without (p : Port) (stop : LinkMsg → Bool) : Port :=
  { p with txMsgs := p.txMsgs.map (fun l => l.filter (fun x => !stop x.msg)) }

/-- The messages that were set aside wait on, each channel's before those that are left of it.
[DESIGN CHOICE: log entry 158] -/
def Port.restore (p old : Port) (stop : LinkMsg → Bool) : Port :=
  { p with txMsgs := Vector.ofFn (fun vc => old.txMsgs[vc].filter (fun x => stop x.msg) ++ p.txMsgs[vc]) }

/-- One flit slot of a port's transmitter. A frame begins with the changes of width that are due (R344, R345). -/
def execTxFlitSlot (port : Fin 48) (s : State) (frac : BitVec 8 := 0) : Out :=
  if (s.port port).st ≠ .active then .next s
  else
    .next (s.mapPort port (fun p =>
      let p := if p.slot = 0 then (({ p with frameCtl := false } : Port).boundary s.now true).forceWidth else p
      let p := (p.gainTokens s.active.ports[port].mshare).stampSync (256 * s.now + frac.toNat)
      let sent (p : Port) : Port := (p.txSlot s.self port s.mp.wordState s.now).emit
      if s.flask.fenced then (sent (p.without s.stopped)).restore p s.stopped else sent p))

/-! ### Receiver -/

/-- What the acknowledgement of a good flit covers leaves the retry buffer (R332). -/
def Port.acked (p : Port) (now : Nat) (ack : BitVec 12) : Port :=
  match p.kept.findIdx? (fun f => f.seq == ack) with
  | none => p
  | some i =>
    { p with kept := p.kept.drop (i + 1), ackAt := now, stuck := 0
             replayAt := match p.replayAt with
               | some k => if i + 1 ≤ k then some (k - (i + 1)) else if p.kept.length ≤ i + 1 then none else some 0
               | none => none }

/-- A NAK whose ACK is not the start of the replay in progress starts one; during a burst of REALIGN it is ignored (R332,
R344). -/
def Port.nacked (p : Port) (ack : BitVec 12) : Port :=
  if p.inBurst || (p.replayAt.isSome && p.replayFrom == ack) then p else p.startReplay

/-- A credit return (R337). -/
def Port.credited (p : Port) (crp : BitVec 3) (crn : BitVec 13) : Port :=
  if crp.toNat < 5 then
    let k : Fin 5 := Fin.ofNat 5 crp.toNat
    { p with credits := p.credits.set k (p.credits[k] + (crn - p.crnSeen[k]).toNat), crnSeen := p.crnSeen.set k crn }
  else p

/-- The units of a DATA flit are parsed: messages that are whole are received; a reserved TYPE or a LEN above 16 ends the
parsing and retrains the port (R327, R328). The second component says so. -/
def parseUnits : List Chunk → Port → Port × Bool
  | [], p => (p, false)
  | u :: us, p =>
    match p.partUnits with
    | [] =>
      if headerType u = 0xF then (p, false)
      else if reservedType (headerType u) ∨ 16 < headerLen u then ({ p with retrainDue := true }, true)
      else if headerLen u = 0 then parseUnits us { p with rxMsgs := p.rxMsgs ++ [messageOf u []] }
      else parseUnits us { p with partUnits := [u] }
    | h :: ds =>
      let ds := ds ++ [u]
      if ds.length = headerLen h then parseUnits us { p with partUnits := [], rxMsgs := p.rxMsgs ++ [messageOf h ds] }
      else parseUnits us { p with partUnits := h :: ds }

/-- A message that a port received is passed on: its units are freed to the pool its SHP names (R337). -/
def Port.passed (p : Port) (m : LinkMsg) : Port :=
  if p.rxMsgs.any (fun x => decide (x = m)) then
    let k : Fin 5 := if m.shp then 4 else Fin.ofNat 5 m.vc.toNat
    { p with rxMsgs := p.rxMsgs.erase m, freed := p.freed.set k (p.freed[k] + BitVec.ofNat 13 (msgUnits m)) }
  else p

/-- A message is the next one of its virtual channel that the port passes on; one that comes without a flit of this port finds none
that waits before it (R334). -/
def Port.inTurn (p : Port) (m : LinkMsg) : Bool :=
  match p.rxMsgs.find? (fun x => x.vc == m.vc) with
  | some x => decide (x = m)
  | none => true

/-- What a CONTROL flit carries in unit 0 (Table 11-12). -/
inductive Controlled
  | heartbeat (mod : ModuleId) (port : BitVec 6) (mstate : BitVec 4)
  | widthReq (lanes : BitVec 8) (forced : Bool)
  | realign (lanes : BitVec 8)
  | switch (lanes : BitVec 8) (remain : BitVec 8)
  deriving DecidableEq, Repr

/-- The control message of a unit; one with a reserved CTYPE is none (R342). -/
def controlOf (u : Chunk) : Option Controlled :=
  let x := u.toNat
  let lanes := BitVec.ofNat 8 (bitsAt x 96 8)
  match bitsAt x 120 8 with
  | 1 => some (.heartbeat (BitVec.ofNat 13 (bitsAt x 104 13)) (BitVec.ofNat 6 (bitsAt x 96 6)) (BitVec.ofNat 4 (bitsAt x 92 4)))
  | 2 => some (.widthReq lanes (x.testBit 88))
  | 3 => some (.realign lanes)
  | 4 => some (.switch lanes (BitVec.ofNat 8 (bitsAt x 80 8)))
  | _ => none

/-- A control message takes its effect. [DEDUCED: log entry 135] -/
def State.controlled (s : State) (port : Fin 48) : Controlled → State
  | .heartbeat m p st => s.heartbeat port m p st
  | .widthReq l f => s.mapPort port (fun p => p.widthReq l f)
  | .realign l => s.mapPort port (fun p => p.realign s.now l 0)
  | .switch l r => s.mapPort port (fun p => p.switchAt l r)

/-- The receiver has lost decoding, as at a change point whose SWITCH flits it missed: a planned request that is still unanswered
becomes a forced one (R345). [DESIGN CHOICE: log entry 140] -/
def Port.lostDecoding (p : Port) (now : Nat) : Port :=
  match p.ask with
  | some a => if !a.forced ∧ 32 ≤ p.badWords then p.askWidth now a.lanes true else p
  | none => p

/-- A code word is decoded: the symbols it corrects are counted, on the port and on the lanes that carried them; a lane with more
than 4 of them in 32 code words in a row fails (R318, R343). -/
def Port.codeWord (p : Port) (now : Nat) (errors : List (Fin 528)) : Port :=
  if uncorrectable errors then
    Port.lostDecoding { p with
      fecunc := bump p.fecunc, wordBad := true, badWords := p.badWords + 1, lanes := p.lanes.map (fun x => { x with run := 0 }) } now
  else
    let hits (k : Fin 8) : Nat := (errors.filter (fun i => laneAt p.rxLanes i.val == some k)).length
    let p := { p with
      feccorr := BitVec.ofNat 32 (min 0xFFFFFFFF (p.feccorr.toNat + errors.length)), wordBad := false, badWords := 0
      lanes := Vector.ofFn (fun k =>
        let x := p.lanes[k]
        { x with count := x.count + hits k, run := if 4 < hits k then x.run + 1 else 0 }) }
    (List.finRange 8).foldl (fun p k => if 32 ≤ (p.lanes[k]).run ∧ (p.lanes[k]).st = .active then p.failLane now k else p) p

/-- The place of a received flit in its frame of two code words: the first code word is decoded with the frame's first flit, and the
second with its third, which overlaps both (R316). The second component says that a code word which the flit overlaps is uncorrectable. -/
def Port.inFrame (p : Port) (now : Nat) (first second : List (Fin 528)) : Port × Bool :=
  let i := p.rxSlot
  let was := p.wordBad
  let p := if i = 0 then p.boundary now false else p
  let p := if i = 0 then p.codeWord now first else if i = 2 then p.codeWord now second else p
  ({ p with rxSlot := i + 1 }, p.wordBad || (decide (i = 2) && was))

/-- TIME_SYNC messages of a reserved SUBOP are taken at once, and mean nothing (R356). -/
def Port.dropReserved (p : Port) : Port :=
  (p.rxMsgs.filter (fun m => m.type == 6 && decide (2 < m.subop.toNat))).foldl Port.passed p

/-- A receiver that waits for REALIGN takes nothing else (R344). -/
def Port.hunt (p : Port) (now : Nat) (f : Flit) (nth : Nat) : Port :=
  match controlOf (f.units.headD 0) with
  | some (.realign l) => if f.kind = 2 ∧ f.crc = flitChecksum f then p.realign now l nth else p
  | _ => p

/-- A received flit (R327, R329, R333): a bad or reserved one is discarded and counted, a bad one asks for a replay; every
good one's acknowledgement, NAK and credits are used; a DATA flit with the number expected is parsed, and a CONTROL flit's message
takes its effect. `first` and `second` are the symbols in error of the two code words of its frame, and `nth` says which flit of a burst of
REALIGN a receiver finds that hunts for one. [DESIGN CHOICE: log entry 129] -/
def execFlitReceive (port : Fin 48) (f : Flit) (first second : List (Fin 528)) (s : State) (nth : Fin 8 := 0) : Out :=
  let p := s.port port
  if p.st ≠ .active then .next s
  else if p.deaf then .next (s.mapPort port (fun p => p.hunt s.now f nth.val))
  else
    let x := p.inFrame s.now first second
    let p := x.1
    if p.deaf then .next (s.mapPort port (fun _ => p))
    else if x.2 || decide (f.crc ≠ flitChecksum f) then .next (s.mapPort port (fun _ => { p with crcerr := bump p.crcerr, nakDue := true }))
    else if f.kind = 3 ∨ f.resv ≠ 0 then .next (s.mapPort port (fun _ => { p with crcerr := bump p.crcerr }))
    else
      let p := if f.ackv then p.acked s.now f.ack else p
      let p := if f.nak then p.nacked f.ack else p
      let p := (p.credited f.crp f.crn).credited f.crp2 f.crn2
      if f.kind = 0 ∧ f.seq = p.rxSeq then
        let r := parseUnits f.units { p with rxSeq := p.rxSeq + 1, accepted := true, nakAt := none }
        let s := s.mapPort port (fun _ => r.1.dropReserved)
        .next (if r.2 then s.log (portEvent 1 0x0406 port 0 []) else s)
      else
        let s := s.mapPort port (fun _ => p)
        match (if f.kind = 2 then controlOf (f.units.headD 0) else none) with
        | some c => .next (s.controlled port c)
        | none => .next s

/-- No acknowledgement has advanced for 4 µs while flits are kept (R332). -/
def execReplayTimeout (port : Fin 48) (s : State) : Out :=
  let p := s.port port
  if p.st ≠ .active ∨ p.kept.isEmpty then .next s
  else
    let s := s.wait (p.ackAt + 4000)
    .next (s.mapPort port (fun p => { p.startReplay with ackAt := s.now }))

/-- The expected flit has not come for 4 µs since the NAK: it is sent again (R333). -/
def execNakResend (port : Fin 48) (s : State) : Out :=
  match (s.port port).nakAt with
  | none => .next s
  | some t => let s := s.wait (t + 4000); .next (s.mapPort port (fun p => { p with nakDue := true }))

end Sys2Proof.Machine
end

