-- ==== Sys2Proof/Machine/Switch.lean ====
section
/-! DEFINITION. Routing and forwarding: positions, next hops, the choice among ports, tags, and what ends a request of this
module (R331, R340, R341, R349 to R361, R404). -/

namespace Sys2Proof.Machine

/-! ### Routing state and tables -/

/-- GROUP and INDEX of a module number (R349). -/
def groupOf (m : ModuleId) : Nat := m.toNat / 32
def indexOf (m : ModuleId) : Fin 32 := Fin.ofNat 32 m.toNat

/-- Fields of RSTATE (Table 12-2). -/
def rsGh (m : LinkMsg) : Nat := bitsAt m.rstate.toNat 6 2
def rsNm (m : LinkMsg) : Bool := m.rstate.getLsbD 5
def rsLd (m : LinkMsg) : Bool := m.rstate.getLsbD 4
def rsEp (m : LinkMsg) : Bool := m.rstate.getLsbD 3

/-- RSTATE from its fields. -/
def rstateOf (gh : Nat) (nm ld ep : Bool) : BitVec 8 :=
  BitVec.ofNat 8 (gh * 64 + b2n nm * 32 + b2n ld * 16 + b2n ep * 8)

/-- The copy by which a message of epoch `ep` is routed (R360). -/
def State.routes (s : State) (ep : Bool) : RouteTable :=
  if ep = s.switch.ep then s.active.route else s.switch.previous.getD s.active.route

/-- ROLE of a port: 0 unused, 1 local, 2 global (Table 12-5). -/
def RouteTable.role (t : RouteTable) (p : Fin 48) : Nat := bitsAt t.roles[p].toNat 30 2

/-- The peer of a port is the one the plan expects, as far as it is known (R351). -/
def RouteTable.expects (t : RouteTable) (p : Fin 48) (x : ModuleId × BitVec 6) : Bool :=
  bitsAt t.roles[p].toNat 16 13 == x.1.toNat && bitsAt t.roles[p].toNat 0 6 == x.2.toNat

/-- A port that may carry a routed message: it has a role, is ACTIVE, and its peer is the one expected (R350, R351). -/
def State.usable (s : State) (t : RouteTable) (p : Fin 48) : Bool :=
  (t.role p == 1 || t.role p == 2) && decide ((s.port p).st = .active) &&
    (match (s.port p).peer with | some x => t.expects p x | none => true)

/-- The ports of a mask. -/
def portsOf (mask : Nat) : List (Fin 48) := (List.finRange 48).filter (fun p => mask.testBit p.val)

/-- RT_LOC of a destination, when its entry is valid and its port a usable local one. -/
def State.locPort (s : State) (t : RouteTable) (m : LinkMsg) : List (Fin 48) :=
  let w := t.loc[indexOf m.dmod]
  let k := bitsAt w.toNat 0 6
  if w.getLsbD 31 ∧ k < 48 then [Fin.ofNat 48 k].filter (fun p => s.usable t p && t.role p == 1) else []

/-- The allowed next hops of a message. -/
structure Hops where
  minimal : List (Fin 48)
  nonMinimal : List (Fin 48)
  detour : Bool
  deriving DecidableEq, Repr

/-- No next hop. -/
def Hops.empty : Hops := { minimal := [], nonMinimal := [], detour := false }

/-- A single list of allowed ports. -/
def Hops.only (l : List (Fin 48)) : Hops := { minimal := l, nonMinimal := [], detour := false }

/-- Table 12-4: the allowed next hops of a message that is not at its destination. -/
def State.hops (s : State) (t : RouteTable) (a : Arrived) (m : LinkMsg) : Hops :=
  let d := groupOf m.dmod
  let home : Bool := d == groupOf t.self
  let mins := (portsOf (tget t.minimal 0 d)).filter (s.usable t)
  let nms := (portsOf (tget t.nonMinimal 0 d)).filter (s.usable t)
  let global (l : List (Fin 48)) := l.filter (fun p => t.role p == 2)
  match a with
  | .fromSource =>
    if home then
      match s.locPort t m with
      | [] => { minimal := (List.finRange 48).filter (fun p => s.usable t p && t.role p == 1), nonMinimal := [], detour := true }
      | l => .only l
    else { minimal := mins, nonMinimal := nms, detour := false }
  | .localPort p =>
    if t.role p ≠ 1 ∨ rsGh m ≠ 0 then .empty
    else if home then (if rsLd m ∧ !rsNm m then .only (s.locPort t m) else .empty)
    else if rsLd m then .empty
    else .only (global (if rsNm m then nms else mins))
  | .globalPort p =>
    if t.role p ≠ 2 ∨ rsLd m then .empty
    else if home then (if rsGh m = 1 ∨ rsGh m = 2 then .only (s.locPort t m) else .empty)
    else if rsGh m = 1 ∧ rsNm m then .only (global mins)
    else .empty

/-! ### The choice among ports (R357) -/

/-- Units that wait for transmission on a port. -/
def Port.queued (p : Port) : Nat :=
  p.txUnits.length + (p.txMsgs.toList.flatMap id |>.map (fun x => msgUnits x.msg)).sum

/-- Cost of a port for a message that E-die `e` holds. -/
def State.cost (s : State) (t : RouteTable) (e : Fin 8) (p : Fin 48) : Nat :=
  (s.port p).queued + if p.val / 6 = e.val then 0 else t.xpen.toNat

/-- Of two ports, the one of less cost, or with equal costs the one that comes first after the port chosen last. -/
def State.better (s : State) (t : RouteTable) (e : Fin 8) (p q : Fin 48) : Fin 48 :=
  let place (x : Fin 48) : Nat := (x.val + 47 - (s.switch.lastPort[e]).val) % 48
  if s.cost t e p < s.cost t e q ∨ (s.cost t e p = s.cost t e q ∧ place p ≤ place q) then p else q

/-- The port of least cost. -/
def State.cheapest (s : State) (t : RouteTable) (e : Fin 8) : List (Fin 48) → Option (Fin 48)
  | [] => none
  | p :: ps => match s.cheapest t e ps with | none => some p | some q => some (s.better t e p q)

/-- The port chosen, and whether the route becomes non-minimal. -/
def State.choose (s : State) (t : RouteTable) (e : Fin 8) (h : Hops) : Option (Fin 48 × Bool) :=
  match s.cheapest t e h.minimal, s.cheapest t e h.nonMinimal with
  | none, none => none
  | some p, none => some (p, false)
  | none, some q => some (q, true)
  | some p, some q => if 2 * s.cost t e q + t.nmthr.toNat < s.cost t e p then some (q, true) else some (p, false)

/-- The message as it leaves on the chosen hop: RSTATE and the virtual channel of its class and phase (R353, R354). -/
def hopped (t : RouteTable) (m : LinkMsg) (p : Fin 48) (nm detour : Bool) : LinkMsg :=
  let late : Bool := decide (rsGh m ≠ 0) || rsLd m
  { m with
    vc := BitVec.ofNat 2 ((if m.type.toNat < 8 then 0 else 2) + b2n late)
    rstate := rstateOf (rsGh m + if t.role p = 2 then 1 else 0) (rsNm m || nm) (rsLd m || detour) (rsEp m) }

/-! ### Tags (R340, R341) -/

/-- A requester of the mirror engine. -/
def Requester.isMirror : Requester → Bool
  | .mirror _ _ => true
  | _ => false

/-- The lowest free tag of a port that a requester may take. -/
def Port.freeTag (p : Port) (who : Requester) : Option Nat :=
  let others := (p.tags.filter (fun x => !x.2.who.isMirror)).length + p.cooling.length
  if !who.isMirror && decide (4096 - p.mres.toNat ≤ others) then none
  else lowestFree (p.tags.map (fun x => x.1) ++ p.cooling.map (fun x => x.1)) 4096

/-- A tag is taken. -/
def Port.takeTag (p : Port) (k : Nat) (u : TagUse) : Port :=
  let tags := tset p.tags k u
  { p with tags := tags, tagHwm := BitVec.ofNat 13 (max p.tagHwm.toNat tags.length) }

/-! ### What ends a request of this module -/

/-- The outcome of a link request. -/
inductive Ending
  | done
  | data (bytes : List Byte)
  /-- Read data, some words of which the fabric lost on the way to the requester (Table 10-5). -/
  | poisoned (x : Payload)
  /-- The link found poison in the data to be sent (R410). -/
  | ecc
  | refused (reason : BitVec 8)
  | timeout
  deriving DecidableEq, Repr

/-- What an outcome is to a granule. -/
def Ending.granule (m : LinkMsg) : Ending → GranuleOutcome × Payload
  | .done => (.ok, .empty)
  | .data b => (.ok, .clean b)
  | .poisoned x => (.ok, x)
  | .ecc => (.ecc, .empty)
  | .refused r => (.refused r, .empty)
  | .timeout => (.timeout (if m.pkg then BitVec.ofNat 13 (m.addr.toNat / 2 ^ 22) else 0), .empty)

/-- The record of a request of the mirror, reduction or management engine that was refused or timed out (R331, R341). -/
def endingEvent (e : Fin 8) (unit : BitVec 5) (m : LinkMsg) : Ending → Option Event
  | .refused 8 => some { mpEvent 1 0x0506 [m.dmod.setWidth 32] with die := 32 + e.val, unit := unit, addr := m.addr.setWidth 64 }
  | .refused r =>
    some { mpEvent 1 0x0409 [m.dmod.setWidth 32, r.setWidth 32] with die := 32 + e.val, unit := unit, addr := m.addr.setWidth 64 }
  | .timeout => some { mpEvent 1 0x0408 [m.dmod.setWidth 32] with die := 32 + e.val, unit := unit, addr := m.addr.setWidth 64 }
  | _ => none

/-- The same for a request of an engine: its record is logged. -/
def State.engineEnds (s : State) (e : Fin 8) (unit : BitVec 5) (m : LinkMsg) (x : Ending) : State :=
  match endingEvent e unit m x with | some ev => s.log ev | none => s

/-- A request ends at its requester. [DEDUCED: log entry 49] -/
def State.finishRequest (s : State) (who : Requester) (m : LinkMsg) (x : Ending) : State :=
  match who with
  | .dma core q key =>
    let g := x.granule m
    s.setCore core ((s.core core).setAnswer q key g.1 g.2)
  | .mirror offset _ =>
    let e : Fin 8 := Fin.ofNat 8 (offset / 512)
    let s := s.mapFlask (fun f => match x with | .done => f.lineDone offset | _ => f.lineLost offset)
    s.engineEnds e 13 m x
  | .adoption offset => s.engineEnds (Fin.ofNat 8 (offset / 512)) 13 m x
  | .reduction => s.engineEnds 0 12 m x
  | .management => s.engineEnds s.mpDie 16 m x

/-- What a response meets on its way from the E-die `e` to the core whose granule asked (R312, R313, Table 10-5). -/
def State.endingFlits (s : State) (e : Fin 8) (who : Requester) (x : Ending) (fs : List FlitFinding) : State × Ending :=
  match who with
  | .dma core _ _ =>
    match headerOf fs with
    | some (die, pos) => if s.onEdiePath core e.val true die pos then (s.flitLost die pos, .timeout) else (s, x)
    | none =>
      match x with
      | .data b =>
        let n := b.length
        let s := s.flitWords ((s.place core).getD 0) (fixedIn n fs) (lostIn n fs)
        (s, if (lostIn n fs).isEmpty then x else .poisoned { bytes := b, poison := ninsAll [] (lostIn n fs) })
      | _ => (s, x)
  | _ => (s, x)

/-- What a request meets on its way from its core to the E-die `e` (R312, R313, R410): it goes on, or it ends there. -/
def State.requestFlits (s : State) (e : Fin 8) (who : Option Requester) (m : LinkMsg) (fs : List FlitFinding) :
    State × Option Ending :=
  match who with
  | some (.dma core _ _) =>
    match headerOf fs with
    | some (die, pos) => if s.onEdiePath core e.val false die pos then (s.flitLost die pos, some .timeout) else (s, none)
    | none =>
      let n := m.data.length
      (s.flitWords (272 * bridgedDie e.val (core.toNat / 256)) (fixedIn n fs) (lostIn n fs),
        if (lostIn n fs).isEmpty then none else some .ecc)
  | _ => (s, none)

/-- A response of this module leaves the E-die `e` (R330). -/
def State.respond (s : State) (e : Fin 8) (m : LinkMsg) (type : BitVec 4) (aux : BitVec 8) (data : List Byte) : State :=
  s.post e { s.message type m.smod 0 m.addr.toNat data with tag := m.tag, sport := m.sport, aux := aux } none

/-- A request that has no route (R358): this module's own ends with NO_ROUTE, another's is answered so; a response or
posted message is discarded. -/
def State.noRoute (s : State) (e : Fin 8) (who : Option Requester) (own : Bool) (m : LinkMsg) : State :=
  let s := { s with switch := { s.switch with noroute := bump s.switch.noroute } }
  match who with
  | some r => s.finishRequest r m (.refused 6)
  | none => if !own && decide (m.type.toNat < 5) then s.respond e m 0xA 6 [] else s

/-! ### Forwarding -/

/-- A message takes the chosen hop: into the queue of its port, or across the grid toward it (R355).
[DEDUCED: log entry 49] -/
def State.depart (s : State) (e : Fin 8) (p : Fin 48) (x : Queued) : State :=
  let s := { s with switch := { s.switch with lastPort := s.switch.lastPort.set e p } }
  if p.val / 6 = e.val then s.mapPort p (fun q => q.enqueue x)
  else { s with switch := { s.switch with crossing := s.switch.crossing ++ [(e, p, x)] } }

/-- A message is routed at this module: `base` as it came, `m` with its destination relocated where it is first routed.
A request of this module takes a tag of the port it leaves by; without a free one it waits at its source. -/
def State.routeMsg (s : State) (e : Fin 8) (a : Arrived) (base m : LinkMsg) (who : Option Requester) : Option State :=
  let t := s.routes (rsEp m)
  let h := s.hops t a m
  match s.choose t e h with
  | none => some (s.noRoute e who (decide (a = .fromSource)) m)
  | some (p, nm) =>
    let s := if nm then { s with switch := { s.switch with nmcnt := bump s.switch.nmcnt } } else s
    let out := hopped t m p nm h.detour
    match who with
    | none => some (s.depart e p { crossed := false, edie := e, came := a, base := base, who := none, msg := out })
    | some r =>
      match (s.port p).freeTag r with
      | none => none
      | some k =>
        let out := { out with tag := BitVec.ofNat 12 k, sport := BitVec.ofNat 6 p.val }
        let s := s.mapPort p (fun q => q.takeTag k { who := r, sent := s.now, msg := out })
        some (s.depart e p { crossed := false, edie := e, came := a, base := base, who := some r, msg := out })

/-- A message of this module's own that is at its destination already takes a tag of its E-die's first port and is
delivered into the module. -/
def State.selfDeliver (s : State) (e : Fin 8) (m : LinkMsg) (who : Option Requester) : Option State :=
  match who with
  | none => some s
  | some r =>
    let p : Fin 48 := Fin.ofNat 48 (6 * e.val)
    match (s.port p).freeTag r with
    | none => none
    | some k => some (s.mapPort p (fun q =>
        q.takeTag k { who := r, sent := s.now, msg := { m with tag := BitVec.ofNat 12 k, sport := BitVec.ofNat 6 p.val } }))

/-- A message is routed to its next hop (R354), or it is refused with NO_ROUTE (R358): one of this module's own that waits
at an E-die, the first of its virtual channel that a port received (R334), or one that is chosen a port again. TIME_SYNC is never
forwarded (R377). [DESIGN CHOICE: log entry 48] -/
def execForwardMessage (edie : Fin 8) (arrived : Arrived) (m : LinkMsg) (s : State) (flits : List FlitFinding := []) : Out :=
  if s.stopped m || m.type == 6 then .next s
  else
    match arrived with
    | .fromSource =>
      match s.switch.waiting.findIdx? (fun x => x.edie == edie && decide (x.msg = m)) with
      | none => .next s
      | some i =>
        match s.switch.waiting[i]? with
        | none => .next s
        | some o =>
          let s1 := { s with switch := { s.switch with waiting := s.switch.waiting.eraseIdx i } }
          match s1.requestFlits edie o.who m flits, o.who with
          | (s2, some x), some w => .next (s2.finishRequest w m x)
          | (s1, _), _ =>
          let out := { m with dmod := s.active.route.relocate m.dmod, rstate := rstateOf 0 false false s.switch.ep }
          let r := if out.dmod = s.self then s1.selfDeliver edie out o.who else s1.routeMsg edie .fromSource m out o.who
          .next (r.getD s)
    | .localPort p | .globalPort p =>
      if m.dmod = s.self ∨ p.val / 6 ≠ edie.val then .next s
      else
        let again := s.switch.again.filter (fun x => decide (x = (edie, arrived, m)))
        if again.isEmpty && (s.port p).rxMsgs.find? (fun x => x.vc == m.vc) != some m then .next s
        else
        let s := if again.isEmpty then s.mapPort p (fun q => q.passed m)
          else { s with switch := { s.switch with again := s.switch.again.erase (edie, arrived, m) } }
        .next ((s.routeMsg edie arrived m m none).getD s)

/-- The grace period of the routing table ends: the previous copy is discarded (R360). -/
def execRtGraceExpiry (s : State) : Out :=
  match s.switch.previous, s.switch.swapAt with
  | some _, some t =>
    let s := s.wait (t + s.active.route.grace.toNat * 1000)
    .next { s with switch := { s.switch with previous := none } }
  | _, _ => .next s

/-- A request has had no response within REQTMO of its departure: its tag is freed, and after a further REQTMO it may be
taken again (R341). -/
def execRequestTimeout (port : Fin 48) (tag : BitVec 12) (s : State) : Out :=
  let p := s.port port
  match p.tags.find? (fun x => x.1 == tag.toNat) with
  | none => .next s
  | some (k, u) =>
    let s := s.wait (u.sent + p.reqtmo.toNat * 1000)
    let s := s.mapPort port (fun p => { p with tags := tdel p.tags k, cooling := tset p.cooling k s.now })
    .next (s.finishRequest u.who u.msg .timeout)

/-- A tag that a timeout freed returns to use (R341). -/
def execTagReuseExpiry (port : Fin 48) (tag : BitVec 12) (s : State) : Out :=
  let p := s.port port
  match p.cooling.find? (fun x => x.1 == tag.toNat) with
  | none => .next s
  | some (k, t) =>
    let s := s.wait (t + p.reqtmo.toNat * 1000)
    .next (s.mapPort port (fun p => { p with cooling := tdel p.cooling k }))

end Sys2Proof.Machine
end

