-- ==== Sys2Proof/Machine/Mail.lean ====
section
/-! DEFINITION. Mailboxes: requests as they arrive, results as they complete and are read, who may send a command, and the replies
of commands (R447 to R459, R474). -/

namespace Sys2Proof.Machine

/-! ### The mailbox of a source -/

/-- The mailbox of a source. -/
def State.box (s : State) : Source → Mailbox
  | .bmc => s.bmc
  | .fm k => s.fm[k]
  | .host n => s.boxes[n]

/-- The mailbox of a source changed. -/
def State.setBox (s : State) (src : Source) (b : Mailbox) : State :=
  match src with
  | .bmc => { s with bmc := b }
  | .fm k => { s with fm := s.fm.set k b }
  | .host n => { s with boxes := s.boxes.set n b }

/-- Every source, from the highest precedence to the lowest (R447). -/
def allSources : List Source := .bmc :: (List.finRange 2).map .fm ++ (List.finRange 8).map .host

/-- The code of a source in a conflict record (R464). -/
def Source.code : Source → Nat
  | .bmc => 1
  | .fm k => 2 + k.val
  | .host n => 4 + n.val

/-! ### Images -/

/-- The code of a mailbox state (Table 15-4). -/
def MbState.code : MbState → Nat
  | .free => 0 | .queued => 1 | .running => 2 | .done => 3

/-- The 64-byte header of a mailbox (Table 15-5): STATUS reads BUSY until the command has completed. -/
def Mailbox.header (b : Mailbox) : List Byte :=
  let status := match b.st with | .free => 0 | .done => b.status.toNat | _ => 1
  leBytes 4 (b.ver.toNat * 65536 + b.opc.toNat) ++ leBytes 4 b.rid.toNat ++ leBytes 4 b.payload.length ++
  leBytes 4 b.job.toNat ++ leBytes 4 b.tlim.toNat ++ leBytes 12 0 ++
  leBytes 4 (status * 2 ^ 24 + b.st.code * 2 ^ 22 + b.rdcnt.toNat) ++ leBytes 4 b.seq.toNat ++ leBytes 4 b.rsp.length ++
  leBytes 4 b.detail.toNat ++ leBytes 8 b.arrival ++ leBytes 4 b.elapsed.toNat ++ leBytes 4 0

/-- The image of a mailbox with its response (R456). -/
def Mailbox.image (b : Mailbox) : List Byte := b.header ++ b.rsp

/-- A read of RSTAT after completion counts (R455). -/
def Mailbox.readOnce (b : Mailbox) : Mailbox :=
  if b.st = .done then { b with rdcnt := if b.rdcnt = 0xFFFF then b.rdcnt else b.rdcnt + 1 } else b

/-- The RESULT fragments of an image for fabric-manager mailbox `k` leave for its anchor (R456, Table 15-7).
[DEDUCED: log entry 109] -/
def State.sendResult (s : State) (k : Fin 2) (rid : Word) (rdcnt : BitVec 16) (image : List Byte) : State :=
  match s.active.manager k with
  | none => s
  | some m =>
    let n := max 1 (ceilDiv image.length 240)
    (List.range n).foldl (fun s i =>
      let head := k.val + rid.toNat * 2 ^ 32 + i * 2 ^ 64 + n * 2 ^ 72 + rdcnt.toNat * 2 ^ 80
      let part := (image.drop (240 * i)).take 240
      s.post s.mpDie (s.message 5 m 2 0 (leBytes 16 head ++ part ++ List.replicate (240 - part.length) 0)) none) s

/-- The result of the command in fabric-manager mailbox `k` leaves. [DEDUCED: log entry 109] -/
def State.answerManager (s : State) (k : Fin 2) : State :=
  s.sendResult k s.fm[k].rid s.fm[k].rdcnt s.fm[k].image

/-! ### Completion -/

/-- A mailbox whose command has completed (R454). -/
def Mailbox.finish (b : Mailbox) (now : Nat) (status : Byte) (detail : Nat) (rsp : List Byte) : Mailbox :=
  { b with
    st := .done, begun := false, cores := [], status := status, detail := BitVec.ofNat 32 detail, rsp := rsp.take 4096, rdcnt := 0
    elapsed := BitVec.ofNat 32 (min 0xFFFFFFFF ((now - b.arrival) / 1000)) }

/-- The command of a source completes: a host mailbox sets MBDONE and signals its vector when it is enabled; a fabric
manager receives its RESULT, with a notice (R448, R451, R456). -/
def State.complete (s : State) (src : Source) (status : Byte) (detail : Nat) (rsp : List Byte) : State :=
  let s := s.setBox src ((s.box src).finish s.now status detail rsp)
  match src with
  | .bmc => s
  | .fm k => (s.answerManager k).log (noticeEvent 0x0806 0 [BitVec.ofNat 32 k.val, s.fm[k].rid])
  | .host n =>
    let h := s.host
    let s := { s with host := { h with mbdone := h.mbdone ||| BitVec.ofNat 8 (2 ^ n.val) } }
    if h.mbien.getLsbD n then s.signal (s.boxes[n]).hi n.val else s

/-! ### Arrival -/

/-- The mailbox takes a request: its arrival and the next sequence number are recorded (R450). -/
def State.takeRequest (s : State) (src : Source) (b : Mailbox) : State :=
  let q := s.mp.seqLast + 1
  ({ s with mp := { s.mp with seqLast := q } } : State).setBox src
    { b with st := .queued, begun := false, seq := q, arrival := s.now, status := 0, detail := 0, rdcnt := 0, rsp := [], elapsed := 0 }

/-- The mailbox holds a command that has not completed. -/
def Mailbox.busy (b : Mailbox) : Bool := decide (b.st = .queued) || decide (b.st = .running)

/-- A mailbox with the request of an image (Table 15-5); a payload that the image does not hold is zeros. -/
def Mailbox.ofImage (b : Mailbox) (x : List Byte) : Mailbox :=
  { b with
    ver := BitVec.ofNat 8 (bitsAt (word32At x 0) 16 8), opc := BitVec.ofNat 16 (word32At x 0), rid := BitVec.ofNat 32 (word32At x 4)
    job := BitVec.ofNat 8 (word32At x 12), tlim := BitVec.ofNat 16 (word32At x 16)
    payload :=
      let n := bitsAt (word32At x 8) 0 12
      let p := (x.drop 64).take n
      p ++ List.replicate (n - p.length) 0 }

/-- The mailbox as it answers a request that it does not take: the request's RID, DENIED, and the SEQ of the command it
holds (R459). -/
def Mailbox.deny (b : Mailbox) (rid : Word) : List Byte :=
  let x : Mailbox := { b with rid := rid, payload := [], rsp := [] }
  leBytes 4 0 ++ leBytes 4 rid.toNat ++ leBytes 24 0 ++ leBytes 4 (4 * 2 ^ 24 + x.st.code * 2 ^ 22) ++ leBytes 8 0 ++
    leBytes 4 b.seq.toNat ++ leBytes 16 0

/-- A complete request arrives at the mailbox of a fabric manager (R456, R459). -/
def State.managerRequest (s : State) (k : Fin 2) (image : List Byte) : State :=
  let b := s.fm[k]
  let rid := BitVec.ofNat 32 (word32At image 4)
  if b.st ≠ .free ∧ b.rid = rid then (s.setBox (.fm k) b.readOnce).answerManager k
  else if b.busy then s.sendResult k rid 0 (b.deny rid)
  else s.takeRequest (.fm k) (b.ofImage image)

/-- A management message is dropped (R356). -/
def State.dropMgmt (s : State) : State := { s with switch := { s.switch with mgmtdrop := bump s.switch.mgmtdrop } }

/-- A REQUEST fragment (R456): from the mailbox's own anchor only; the last that was missing completes the request. Fragments of each
RID are kept apart. -/
def State.fragment (s : State) (smod : ModuleId) (k : Fin 2) (rid : Word) (frag nfrag : Nat) (part : List Byte) : State :=
  if s.active.manager k ≠ some smod then s.dropMgmt
  else if nfrag ≤ frag then s
  else
    let same (f : Fragments) : Bool := decide (f.rid = rid ∧ f.nfrag = nfrag)
    let old := (s.frags[k].find? same).getD { rid := rid, nfrag := nfrag, parts := [], at_ := s.now }
    let rest := s.frags[k].filter (fun f => !same f)
    let f := { old with parts := tset old.parts frag part }
    if f.parts.length = nfrag then
      ({ s with frags := s.frags.set k rest } : State).managerRequest k (f.parts.flatMap (fun p => p.2))
    else { s with frags := s.frags.set k (rest ++ [f]) }

/-- A RESULT_READ is answered with the current command, and counts as a result read (R455, R456). -/
def State.resultRead (s : State) (smod : ModuleId) (k : Fin 2) : State :=
  if s.active.manager k ≠ some smod then s.dropMgmt
  else (s.setBox (.fm k) (s.fm[k]).readOnce).answerManager k

/-- An anchor stores a RESULT or NOTICE in its receive ring and raises vector 9; a full ring drops it, and so does a module
that is no anchor (R457). -/
def State.storeMessage (s : State) (m : LinkMsg) : State :=
  let h := s.host
  if !s.active.anchor then s
  else if h.rxwp + 1 = h.rxrp then s.dropMgmt
  else ({ s with host := { h with rx := tset h.rx h.rxwp.toNat m, rxwp := h.rxwp + 1 } } : State).signalBoth 9

/-! ### The frame of a command -/

/-- Who may send a command (Table 15-10): hosts, fabric managers, the BMC; a host must own the job. -/
structure Access where
  host : Bool
  manager : Bool
  bmc : Bool
  owner : Bool
  deriving DecidableEq, Repr

/-- The sources of a command by its OPC and the ACTION, SPACE or SCOPE that its first word names (Table 15-10). -/
def accessOf (opc act : Nat) : Option Access :=
  let all : Access := { host := true, manager := true, bmc := true, owner := false }
  let hf : Access := { all with bmc := false }
  let hb : Access := { all with manager := false }
  let own : Access := { host := true, manager := false, bmc := false, owner := true }
  match opc with
  | 0x01 | 0x02 | 0x13 | 0x20 | 0x44 | 0x60 | 0x61 | 0x70 => some all
  | 0x10 => some { own with owner := false }
  | 0x11 => some own
  | 0x12 => some { all with owner := true }
  | 0x21 | 0x22 | 0x23 | 0x40 | 0x43 | 0x50 | 0x51 | 0xA1 => some hf
  | 0x30 | 0x31 | 0x62 | 0x71 | 0x80 | 0xA0 => some hb
  | 0x81 => some (if act % 256 = 1 then { hb with bmc := false } else hb)
  | 0x32 => some { own with owner := act == 1 }
  | 0x41 =>
    some (if act = 2 then { host := false, manager := true, bmc := false, owner := false }
      else if act = 3 then { own with manager := true } else own)
  | 0x42 => some { own with manager := true }
  | 0x90 | 0x91 | 0x93 => some own
  | 0x92 => some (if act = 7 then all else own)
  | _ => none

/-- The job of a number 1 to 8 that is loaded. -/
def State.jobNamed (s : State) (n : BitVec 8) : Option (Fin 8) :=
  if 1 ≤ n.toNat ∧ n.toNat ≤ 8 then
    let j : Fin 8 := Fin.ofNat 8 (n.toNat - 1)
    if (s.job j).st = .none then none else some j
  else none

/-- A source owns a job, or it is no host (R472). -/
def State.owns (s : State) (src : Source) (job : BitVec 8) : Bool :=
  match src, s.jobNamed job with
  | .host n, some j => (s.job j).owners.getLsbD n
  | _, _ => true

/-- What fails at arrival: BAD_OPCODE, DENIED 0 and 1, NOT_READY 0 (R461, R474), which in DECOMMISSIONED answers all but DEV_INFO and HEALTH (R490); ERR_LOG answers a module that never becomes ready for
what it lost (R511). [DEDUCED: log entries 136, 155] -/
def State.arrivalFail (s : State) (src : Source) (ver : Byte) (opc act : Nat) (job : BitVec 8) : Option (Byte × Nat) :=
  match accessOf opc act with
  | none => some (2, 0)
  | some x =>
    let listed : Bool := match src with | .host _ => x.host | .fm _ => x.manager | .bmc => x.bmc
    if ver ≠ 3 then some (2, 1)
    else if !listed then some (4, 0)
    else if x.owner && !s.owns src job then some (4, 1)
    else if (!s.mp.ready || s.sec.fuses.state == 4) && opc != 1 && opc != 2 && !(opc == 0x70 && !s.board.lost.isEmpty && s.sec.fuses.state != 4) then some (7, 0)
    else none

/-- What a command does: the state it leaves, and its result; a command that waits for something outside the MP has none
yet. -/
structure Reply where
  s : State
  status : Byte
  detail : Nat
  rsp : List Byte
  waits : Bool

/-- OK with a response. -/
def okWith (s : State) (rsp : List Byte) : Reply := { s := s, status := 0, detail := 0, rsp := rsp, waits := false }

/-- BAD_ARG at a byte offset of the request (Table 15-6). -/
def badArg (s : State) (offset : Nat) : Reply := { s := s, status := 3, detail := offset, rsp := [], waits := false }

/-- DENIED with a reason or a SEQ. -/
def denied (s : State) (reason : Nat) : Reply := { s := s, status := 4, detail := reason, rsp := [], waits := false }

/-- NOT_READY with a reason. -/
def notReady (s : State) (reason : Nat) : Reply := { s := s, status := 7, detail := reason, rsp := [], waits := false }

/-- The command waits and reads BUSY (R465). -/
def waiting (s : State) : Reply := { s := s, status := 1, detail := 0, rsp := [], waits := true }

/-- The active processor's number. -/
def State.activeMp (s : State) : Fin 2 := if s.mp.activeB then 1 else 0

/-- A processor is held in management reset, or halted by its own test (R442, R482). -/
def State.mpHeld (s : State) (mp : Fin 2) : Bool := (if mp = 0 then s.mp.heldA else s.mp.heldB) || (s.sec.rom[mp]).halted

/-- Who answers a command: the firmware, or before it the ROM, for DEV_INFO over the BMC mailbox only (R484). -/
def State.answers (s : State) (src : Source) (opc : Nat) : Bool :=
  s.firmwareUp || (decide (s.board.stage ≠ .held) && decide (src = .bmc) && opc == 1 && !s.mpHeld s.activeMp)

end Sys2Proof.Machine
end

