-- ==== Sys2Proof/Machine/Ticks.lean ====
section
/-! DEFINITION. Ticks and the frame of every command of the management processor: claims, conflicts, preemption and the start of
commands (R460 to R464, R471, R474). -/

namespace Sys2Proof.Machine

/-! ### Claims -/

/-- A claim on an item that a swap changes. -/
def Claim.isItem : Claim → Bool
  | .items | .power | .clock | .binding | .port _ | .time => true
  | _ => false

/-- Two claims intersect: the module meets everything, every item meets each item, and regions meet where they overlap.
[DEDUCED: log entry 70] -/
def Claim.meets (a b : Claim) : Bool :=
  decide (a = .all ∨ b = .all ∨ a = b) || (decide (a = .items) && b.isItem) || (decide (b = .items) && a.isItem) ||
    (match a, b with | .region x y, .region u v => decide (x < v ∧ u < y) | _, _ => false)

/-- The same where a test names a core by its position. -/
def State.meets (s : State) (a b : Claim) : Bool :=
  a.meets b || (match a, b with
    | .position q, .core n | .core n, .position q => (match s.coreAt q with | some id => id.toNat == n | none => false)
    | _, _ => false)

/-- The package position that a target word names, coded as in CORE_RETIRE. -/
def diagPosition (target : Word) : Option Nat :=
  let t := target.toNat
  if bitsAt t 8 5 ≤ 16 then some (272 * bitsAt t 0 5 + 16 * bitsAt t 8 5 + bitsAt t 16 4) else none

/-- The claims of a command, from its request (Table 15-10). [DESIGN CHOICE: log entry 69] -/
def claimsOf (opc : Nat) (job : Nat) (p : List Byte) : List Claim :=
  let w := word32At p 0
  match opc with
  | 0x10 =>
    [.jobTable, .region (word64At p 0x20) (word64At p 0x20 + word32At p 0x1C)] ++
      (List.range (min 16 (word32At p 0x28))).map (fun w =>
        .region (word64At p (0x30 + 16 * w)) (word64At p (0x38 + 16 * w) % 2 ^ 40))
  | 0x11 | 0x12 | 0x41 | 0x42 => [.job job]
  | 0x21 | 0x23 => [.shadow]
  | 0x22 => [.shadow, .items]
  | 0x30 => [.power]
  | 0x31 => [.clock]
  | 0x32 => [.phases]
  | 0x40 => [.binding]
  | 0x43 => [.job job, .binding]
  | 0x50 => [.port (w % 64)]
  | 0x51 => if w = 0 then [.shadow] else []
  | 0x60 | 0x61 => [.ledger (w % 32)]
  | 0x62 => [.repairs]
  | 0x70 => if (word32At p 4).testBit 16 then [.log] else []
  | 0x71 =>
    match w with
    | 0 | 1 => (diagPosition (BitVec.ofNat 32 (word32At p 4))).elim [] (fun q => [.position q])
    | 2 => [.port (word32At p 4)]
    | 3 => [.channel (word32At p 4)]
    | _ => [.all]
  | 0x80 => [.all]
  | 0x81 => if w % 256 = 0 then [] else [.firmware]
  | 0x90 | 0x91 => [.core w]
  | 0x93 => [.core (word32At p 4)]
  | 0xA0 => if w = 0 then [.job job] else [.all]
  | 0xA1 => [.time]
  | _ => []

/-- The claims of the command in a mailbox, with the cores that the image of a JOB_LOAD names. -/
def Mailbox.claims (b : Mailbox) : List Claim := claimsOf b.opc.toNat b.job.toNat b.payload ++ b.cores.map (fun c => .core c.toNat)

/-- Two commands conflict (R461). -/
def State.conflict (s : State) (a b : Mailbox) : Bool := a.claims.any (fun x => b.claims.any (fun y => s.meets x y))

/-- The ACTION, SPACE or SCOPE of a request, as Table 15-10 needs it. -/
def Mailbox.act (b : Mailbox) : Nat := if b.opc = 0x32 then word32At b.payload 0 % 4 else word32At b.payload 0

/-! ### Arbitration -/

/-- The command in the mailbox waits and has not been arbitrated. [DESIGN CHOICE: log entry 8] -/
def State.fresh? (s : State) (src : Source) : Bool :=
  decide ((s.box src).st = .queued ∧ s.mp.tick ≤ (s.box src).arrival) && s.answers src (s.box src).opc.toNat

/-- The command waits and has been arbitrated. -/
def State.armed (s : State) (src : Source) : Bool :=
  decide ((s.box src).st = .queued ∧ (s.box src).arrival < s.mp.tick)

/-- The tick of a command's arrival (R460). -/
def Mailbox.tickNo (b : Mailbox) : Nat := b.arrival / 1000

/-- The content of a conflict record (R464). -/
def conflictDetail (k : Nat) (a b : Source × Mailbox) : List Word :=
  let one (x : Source × Mailbox) : List Word := [BitVec.ofNat 32 (Source.code x.1 * 65536 + x.2.opc.toNat), x.2.seq]
  [BitVec.ofNat 32 k, BitVec.ofNat 32 (k / 2 ^ 32)] ++ one a ++ one b ++ [0]

/-- The command of a source is preempted by another (R461, R464). -/
def State.preempt (s : State) (k : Nat) (src win : Source) : State :=
  let d := conflictDetail k (src, s.box src) (win, s.box win)
  ((s.complete src 5 (s.box win).seq.toNat []).log (mpEvent 0 0x0704 d)).log (noticeEvent 0x0805 0 d)

/-- The command of a source is preempted by a safety action, which carries OPC 0 and SEQ 0xFFFF_FFFF (R464, Table 15-6). -/
def State.preemptSafety (s : State) (k : Nat) (src : Source) : State :=
  let b := s.box src
  let d := [BitVec.ofNat 32 k, BitVec.ofNat 32 (k / 2 ^ 32), BitVec.ofNat 32 (Source.code src * 65536 + b.opc.toNat), b.seq,
    0, 0xFFFFFFFF, 0]
  ((s.complete src 5 0xFFFFFFFF []).log (mpEvent 0 0x0704 d)).log (noticeEvent 0x0805 0 d)

/-- A safety action of the tick conflicts with a command: it is ranked above every command (R447, R460).
[DEDUCED: log entry 109] -/
def State.opposed (s : State) (k : Nat) (b : Mailbox) : Bool :=
  s.mp.safety.any (fun x => decide (x.1 = k) && b.claims.any (fun y => s.meets x.2 y))

/-- Commands of a tick in rank order: one that conflicts with a safety action of the tick or with a command above it is
preempted. The commands above are given as they were ranked. -/
def State.rank (k : Nat) : List Source → List (Source × Mailbox) → State → State
  | [], _, s => s
  | x :: xs, above, s =>
    let b := s.box x
    if s.opposed k b then (s.preemptSafety k x).rank k xs (above ++ [(x, b)])
    else
      match above.find? (fun a => s.conflict a.2 b) with
      | some a => (s.preempt k x a.1).rank k xs (above ++ [(x, b)])
      | none => s.rank k xs (above ++ [(x, b)])

/-- A command that R471 denies at once while a swap is pending, or its cancel. -/
def Mailbox.pastSwap (b : Mailbox) : Bool := b.opc == 0x21 || b.opc == 0x22 || b.opc == 0x23 || (b.opc == 0x51 && b.act == 0)

/-- The command of a mailbox has an earlier place than another's: an earlier tick, or a higher source in the same (R460, R461). -/
def State.ahead (s : State) (x y : Source) : Bool :=
  let a := s.box x
  let b := s.box y
  decide (a.tickNo < b.tickNo ∨ (a.tickNo = b.tickNo ∧ Source.code x < Source.code y))

/-- An arbitrated command may start: no command that runs, and none of an earlier place, conflicts with it; a kill never waits, nor
does what a pending swap has denied (R462, R471). -/
def State.mayStart (s : State) (src : Source) : Bool :=
  let b := s.box src
  decide (b.opc = 0x12) || (s.mp.swap.isSome && b.pastSwap) ||
    allSources.all (fun x =>
      let o := s.box x
      decide (x = src) || !((decide (o.st = .running) || (s.armed x && s.ahead x src)) && s.conflict o b))

/-- A command starts, or is BAD_ARG for what its request holds (R453, R474, R476). [DESIGN CHOICE: log entry 69] -/
def State.start (s : State) (src : Source) : State :=
  let b := s.box src
  if !s.armed src || !s.mayStart src then s
  else
    match requestBad b.opc.toNat b.payload with
    | some o => s.complete src 3 o []
    | none => s.setBox src { b with st := .running }

/-- A swap whose time lies in a tick, or before it, is made before the commands of the tick (R460). -/
def State.swapFirst (s : State) (k : Nat) : Bool :=
  match s.mp.swap with
  | some w => decide (w.time < 1000 * (k + 1))
  | none => false

/-- Arbitration of the earliest tick with commands: checks made at arrival, ranks, preemption and starts (R460 to R462). With
none, commands of earlier ticks start whose conflicts have ended. It waits for a swap that comes first. -/
def State.arbitrate (s : State) : State :=
  let new := allSources.filter (fun x => s.fresh? x)
  match (new.map (fun x => (s.box x).tickNo)).min? with
  | none => allSources.foldl State.start s
  | some k =>
    if s.swapFirst k then s
    else
      let s := s.wait (1000 * (k + 1))
      let cmds := new.filter (fun x => decide ((s.box x).tickNo = k))
      let s := { s with mp := { s.mp with tick := 1000 * (k + 1) } }
      let s := cmds.foldl (fun s x =>
        match s.arrivalFail x (s.box x).ver (s.box x).opc.toNat (s.box x).act (s.box x).job with
        | some y => s.complete x y.1 y.2 []
        | none => s) s
      let s := s.rank k (cmds.filter (fun x => decide ((s.box x).st = .queued))) []
      allSources.foldl State.start s

/-! ### The frame of a command -/

/-- The command in a mailbox is the request: its OPC, its job, the fields of its payload, and what else a payload has no room for. -/
def Mailbox.runs (b : Mailbox) (q : Request) : Bool :=
  decide (b.opc.toNat = q.opc) && (match q.job with | some j => b.job == j | none => true) && q.within b.payload &&
    decide (b.cores = q.cores)

/-- Commands that started execute in rank order: none of an earlier place has started and not yet executed (R461, R463). -/
def State.inRank (s : State) (src : Source) : Bool :=
  allSources.all (fun x => decide (x = src) || !(decide ((s.box x).st = .running) && !(s.box x).begun && s.ahead x src))

/-- The command of a source ends with its reply, or waits in RUNNING. -/
def State.answer (src : Source) (r : Reply) : State :=
  if r.waits then r.s.setBox src { r.s.box src with begun := true } else r.s.complete src r.status r.detail r.rsp

/-- The command that runs for a source executes, when the request is its own and its turn has come. One that has begun and waits
executes again only where it waits for what the row brings. -/
def State.execute (s : State) (src : Source) (q : Request) (body : State → Reply) : State :=
  let b := s.box src
  if b.st = .running ∧ b.runs q ∧ (!b.begun ∨ q.again) ∧ s.inRank src then State.answer src (body s) else s

/-- A command runs. The command that the source's mailbox has started runs now, when the row is its request. With the mailbox FREE or
DONE the row is its arrival, and the arbitration of its tick follows. While the mailbox holds another command, or its own is not yet
arbitrated, or the module is held in reset, the step does not occur. [DESIGN CHOICE: log entries 3, 66] -/
def mpCmd (src : Source) (q : Request) (body : State → Reply) (s : State) : Out :=
  let b := s.box src
  if s.board.stage = .held then .next s
  else if b.busy then .next (s.execute src q body)
  else
    let s := s.takeRequest src
      { b with ver := 3, opc := BitVec.ofNat 16 q.opc, job := q.job.getD 0, tlim := 0, payload := q.sent, cores := q.cores }
    .next (if s.answers src q.opc then s.arbitrate.execute src q body else s)

/-- A command that names a loaded job; another number is an absent resource. [DEDUCED: log entry 72] -/
def withJob (job : BitVec 8) (f : Fin 8 → State → Reply) (s : State) : Reply :=
  match s.jobNamed job with
  | some j => f j s
  | none => badArg s 0

/-- SEQ of the command that runs for a source. -/
def State.seqOf (s : State) (src : Source) : Nat := (s.box src).seq.toNat

/-- A notice of a configuration change made by a source other than the host (R451). [DEDUCED: log entry 138] -/
def State.changeNotice (s : State) (src : Source) (detail : List Word) : State :=
  match src with
  | .host _ => s
  | _ => s.log (noticeEvent 0x0802 0 detail)

/-- The notice of a job's new state. -/
def State.jobNotice (s : State) (j : Fin 8) (code : Nat) : State :=
  s.log (noticeEvent 0x0803 (j.val + 1) [BitVec.ofNat 32 code])

end Sys2Proof.Machine
end

