-- ==== Sys2Proof/Machine/Txn.lean ====
section
/-! DEFINITION. Messages at their destination: the checks and effects of requests, mirror writes, management messages and
responses (R331, R340, R341, R356, R364 to R367, R392, R406, R410). -/

namespace Sys2Proof.Machine

/-! ### Checks -/

/-- A message is for this module, of a type. -/
def State.mine (s : State) (m : LinkMsg) (type : BitVec 4) : Bool := m.type == type && m.dmod == s.self

/-- A message for this module, of a type, is the next of its virtual channel at the port (R334). -/
def State.turn (s : State) (port : Fin 48) (m : LinkMsg) (type : BitVec 4) : Bool := s.mine m type && (s.port port).inTurn m

/-- The message has come: one that waits at the port frees its units (R337). -/
def State.receive (s : State) (port : Fin 48) (m : LinkMsg) : State := s.mapPort port (fun p => p.passed m)

/-- The data bytes that a request moves at its destination. -/
def reqBytes (m : LinkMsg) : Nat :=
  match m.type.toNat with
  | 1 => 16 * m.aux.toNat
  | 2 => 8
  | _ => 16 * msgLen m

/-- LEN, alignment or SUBOP breaks Table 11-9, R330, R366 or Table 12-6. -/
def malformed (m : LinkMsg) : Bool :=
  let len := msgLen m
  let a := m.addr.toNat
  let bad : Bool := match m.type.toNat with
    | 0 => decide (len < 1 ∨ 16 < len)
    | 1 => decide (len ≠ 0) || decide (m.aux.toNat < 1 ∨ 16 < m.aux.toNat)
    | 2 => decide (len ≠ 1) || decide (2 < m.subop.toNat)
    | 4 => decide (len < 1 ∨ 16 < len) || decide (2 < m.subop.toNat)
    | _ => false
  bad || decide (a % 16 ≠ 0) || decide (256 < a % 256 + reqBytes m)

/-- A loaded job admits a source module: one of its peer set, or one that took the place of a peer (R364, R404). -/
def State.admitsFrom (s : State) (j : Fin 8) (smod : ModuleId) : Bool :=
  let b := s.job j
  decide (b.st ≠ .none) &&
    b.peers.any (fun x => x == smod || s.active.route.spareOf x == some smod)

/-- The jobs that admit a source module. -/
def State.admitting (s : State) (smod : ModuleId) : List (Fin 8) := (List.finRange 8).filter (fun j => s.admitsFrom j smod)

/-- An external address lies in a quarantined region: a window or the code region of a killed job (R497, R498). -/
def State.hbmQuarantined (s : State) (a n : Nat) : Bool :=
  (List.finRange 8).any (fun j =>
    let b := s.job j
    decide (b.st = .killed) &&
      (b.wins.any (fun w => decide (w.base.toNat < a + n ∧ a < w.limit.toNat)) ||
        decide (b.codeBase < a + n ∧ a < b.codeBase + b.codeSize)))

/-- The core and the offset of a package-space address. -/
def pkgCore (m : LinkMsg) : CoreId := BitVec.ofNat 13 (m.addr.toNat / 2 ^ 22)
def pkgOff (m : LinkMsg) : Nat := m.addr.toNat % 2 ^ 22

/-- A spare's adoption window admits this WRITE (R406). -/
def State.adopting (s : State) (m : LinkMsg) : Bool :=
  match s.flask.adopt with
  | some a =>
    m.type == 0 && !m.pkg && m.smod == a.p &&
      decide ((s.flask.touched m.addr.toNat (reqBytes m)).length ≠ 0)
  | none => false

/-- A link window of an admitting job covers the request, with write permission where it writes (R364). -/
def State.inWindow (s : State) (m : LinkMsg) (writes : Bool) : Bool :=
  (s.admitting m.smod).any (fun j =>
    (s.job j).wins.any (fun w => w.link && (!writes || w.write) && winCovers w m.addr.toNat (reqBytes m)))

/-- The gates of the target core refuse a link writer, or the core belongs to no job that admits it (R210). -/
def State.gateShut (s : State) (m : LinkMsg) : Bool :=
  !(s.admitting m.smod).any (fun j => (s.job j).hasCore (pkgCore m)) ||
  !(s.core (pkgCore m)).spm.accepts .link (if m.gv then some m.egen else none) (pkgOff m) (reqBytes m)

/-- The first check of R364 that fails, as its reason. [DEDUCED: log entry 50] -/
def State.refusal (s : State) (m : LinkMsg) (writes : Bool) : Option (BitVec 8) :=
  if malformed m then some 7
  else if s.adopting m then none
  else if (s.admitting m.smod).isEmpty then some 5
  else if (if m.pkg then s.quarantined (pkgCore m) else s.hbmQuarantined m.addr.toNat (reqBytes m)) then some 4
  else if m.pkg then
    if !s.assigned (pkgCore m) then some 2
    else if writes && s.gateShut m then some 1
    else none
  else if s.inWindow m writes then none
  else some 3

/-- The E-die that performs a request: that of the stack, or the home E-die of the target's die (R311, R312). -/
def reqEdie (m : LinkMsg) : Fin 8 :=
  if m.pkg then homeEdie ((pkgCore m).toNat / 256) else addrEdie m.addr.toNat

/-- A request is refused: a gate's refusal counts at the target (R211). -/
def State.refuseReq (s : State) (m : LinkMsg) (reason : BitVec 8) : State :=
  let s := if reason = 1 then s.onCore (pkgCore m) (fun _ c => c.refuse (pkgOff m) (reqBytes m)) else s
  s.respond (reqEdie m) m 0xA reason []

/-- What a read of the destination gives. -/
def State.destGet (s : State) (m : LinkMsg) (n : Nat) : Payload :=
  if m.pkg then (s.core (pkgCore m)).spm.get (pkgOff m) n else s.hbmGet m.addr.toNat n

/-- What a read of `n` bytes at the destination finds (R203, R277). -/
def State.destMeet (s : State) (m : LinkMsg) (n : Nat) (found : List SpmFinding) (ext : HbmFinding) : State :=
  if m.pkg then
    let r := [(pkgOff m, n)]
    s.onCore (pkgCore m) (fun _ c => (c.meet r found).granted .inbound r)
  else s.hbmMeet m.addr.toNat n ext

/-- Bytes are written at the destination, at the inbound port of a core or in external memory (R198, R202, R277). -/
def State.destPut (s : State) (m : LinkMsg) (x : Payload) (found : List SpmFinding) (ext : HbmFinding) : State :=
  if m.pkg then
    let r := [(pkgOff m, x.bytes.length)]
    s.onCore (pkgCore m) (fun _ c => ((c.mapSpm (fun p => p.put (pkgOff m) x)).unverified r found).granted .inbound r)
  else (s.hbmMeetPart m.addr.toNat x.bytes.length ext).hbmWrite m.addr.toNat x

/-- A header check discards a flit of a request on its way from its E-die to a core, or of what the core answers (R311, R313): the
state after it, and whether it was the request. Then no response leaves, and the requester ends by its timeout. -/
def State.linkLost (s : State) (m : LinkMsg) (fs : List FlitFinding) : Option (State × Bool) :=
  match m.pkg, headerOf fs with
  | true, some (die, pos) =>
    let e := (reqEdie m).val
    if s.onEdiePath (pkgCore m) e true die pos then some (s.flitLost die pos, true)
    else if s.onEdiePath (pkgCore m) e false die pos then some (s.flitLost die pos, false) else none
  | _, _ => none

/-- Words of data between an E-die and a core are corrected, or are poison (Table 10-5), at package position `q`. -/
def State.linkWords (s : State) (m : LinkMsg) (q : Nat) (x : Payload) (fs : List FlitFinding) : State × Payload :=
  let n := x.bytes.length
  if m.pkg then (s.flitWords q (fixedIn n fs) (lostIn n fs), { x with poison := ninsAll x.poison (lostIn n fs) }) else (s, x)

/-- The package positions at which data for a core arrives, and data from it reaches the E-die. -/
def State.inPlace (s : State) (m : LinkMsg) : Nat := (s.place (pkgCore m)).getD 0
def outPlace (m : LinkMsg) : Nat := 272 * bridgedDie (reqEdie m).val ((pkgCore m).toNat / 256)

/-- A write of the destination waits for a commit (R389). -/
def State.destBlocked (s : State) (m : LinkMsg) : Bool := !m.pkg && s.hbmBlocked m.addr.toNat (reqBytes m)

/-- A record of poison that cannot be sent (R410). -/
def poisonEvent (m : LinkMsg) : Event :=
  { mpEvent 1 0x0202 [] with die := 32 + (reqEdie m).val, unit := 10, addr := m.addr.setWidth 64 }

/-! ### Adoption at the spare (R406) -/

/-- Lines of the mirrored regions that are stored. -/
def Adoption.store (a : Adoption) (lines : List Nat) : Adoption := { a with written := ninsAll a.written lines }

/-- Every share has been stored. -/
def State.adopted (s : State) : Bool :=
  match s.flask.adopt with
  | some a => decide (2 * s.flask.shares ≤ a.written.length)
  | none => false

/-- The adoption ends once every share is stored: its command completes, and the job may resume from the restore point. -/
def State.settleAdoption (s : State) : State :=
  match s.flask.adopt with
  | none => s
  | some a =>
    if !s.adopted then s
    else
      let n := s.flask.shares
      let s := s.mapFlask (fun f => { f with adopt := none, committed := a.rp, interval := a.rp, dirty := .empty })
      let s := match s.jobNamed (BitVec.ofNat 8 a.job) with
        | some j => s.mapJob j (fun b => { b with resumable := some a.rp })
        | none => s
      match allSources.find? (fun src => decide ((s.box src).st = .running) && decide ((s.box src).opc = 0x43)) with
      | some src => s.complete src 0 0 (wordBytes [n - a.poison, a.poison])
      | none => s

/-- A write into the adoption window stores its lines. -/
def State.adoptWrite (s : State) (m : LinkMsg) : State :=
  match s.flask.adopt, mirrorOffset s.flask.regions m.addr.toNat with
  | some a, some o =>
    (s.mapFlask (fun f => { f with adopt := some (a.store [o / 256]) })).settleAdoption
  | _, _ => s

/-- A share that the partner reports as poison is stored as poison. -/
def State.adoptPoison (s : State) (share : Nat) : State :=
  match s.flask.adopt with
  | some a =>
    if s.flask.shares ≤ share then s
    else
      let x : Payload := { bytes := List.replicate 512 0, poison := List.range 64 }
      let s := s.hbmPut (mirrorAddr s.flask.regions (512 * share)) x
      (s.mapFlask (fun f =>
        { f with adopt := some { a.store [2 * share, 2 * share + 1] with poison := a.poison + 1 } })).settleAdoption
  | none => s

/-! ### Requests (R365) -/

/-- A WRITE is performed and answered DONE. `flits` is what its data meets on its way to a core, one for each 64 bytes. -/
def execWrite (port : Fin 48) (m : LinkMsg) (s : State) (found : List SpmFinding := []) (ext : HbmFinding := .clean)
    (flits : List FlitFinding := []) : Out :=
  if !s.turn port m 0 then .next s
  else
    match s.refusal m true with
    | some r => .next ((s.receive port m).refuseReq m r)
    | none =>
      if s.destBlocked m then .next s
      else
        let adopting := s.adopting m
        let s := s.receive port m
        let x : Payload := .clean (m.data.take (reqBytes m))
        match s.linkLost m flits with
        | some (s, true) => .next s
        | some (s, false) => .next (s.destPut m x found ext)
        | none =>
          let y := s.linkWords m (s.inPlace m) x flits
          let s := (y.1.destPut m y.2 found ext).respond (reqEdie m) m 9 0 []
          .next (if adopting then s.adoptWrite m else s)

/-- A READ is answered with RDATA; one that meets poison is not answered, and recorded (R410).
[DEDUCED: log entry 51] -/
def execRead (port : Fin 48) (m : LinkMsg) (s : State) (found : List SpmFinding := []) (ext : HbmFinding := .clean)
    (flits : List FlitFinding := []) : Out :=
  if !s.turn port m 1 then .next s
  else
    let s1 := s.receive port m
    match s.refusal m false with
    | some r => .next (s1.refuseReq m r)
    | none =>
      match s1.linkLost m flits with
      | some (s, true) => .next s
      | some (s, false) => .next (s.destMeet m (reqBytes m) found ext)
      | none =>
        let s := s1.destMeet m (reqBytes m) found ext
        let y := s.linkWords m (outPlace m) (s.destGet m (reqBytes m)) flits
        .next (if y.2.poison ≠ [] then y.1.log (poisonEvent m) else y.1.respond (reqEdie m) m 8 0 y.2.bytes)

/-- The new value of an ATOMIC (Table 12-6). -/
def atomicNew (subop : BitVec 3) (old lo hi : Nat) : Nat :=
  match subop.toNat with
  | 0 => if old = lo then hi else old
  | 1 => lo
  | _ => (old + lo) % 2 ^ 64

/-- An ATOMIC acts on 8 bytes and returns what they held. [DEDUCED: log entry 51] -/
def execAtomic (port : Fin 48) (m : LinkMsg) (s : State) (found : List SpmFinding := []) (ext : HbmFinding := .clean)
    (flits : List FlitFinding := []) : Out :=
  if !s.turn port m 2 then .next s
  else
    match s.refusal m true with
    | some r => .next ((s.receive port m).refuseReq m r)
    | none =>
      if s.destBlocked m then .next s
      else
        let s := s.receive port m
        let lost := s.linkLost m flits
        match lost with
        | some (s, true) => .next s
        | _ =>
          let s := match lost with | some (s, _) => s | none => s
          let s := s.destMeet m 8 found ext
          let x := s.destGet m 8
          if x.poison ≠ [] then .next (s.log (poisonEvent m))
          else
            let old := leNat x.bytes
            let s := s.destPut m (.clean (leBytes 8 (atomicNew m.subop old (word64At m.data 0) (word64At m.data 8)))) found .clean
            if lost.isSome then .next s
            else
              let y := s.linkWords m (outPlace m) (.clean (leBytes 16 old)) flits
              .next (if y.2.poison ≠ [] then y.1.log (poisonEvent m) else y.1.respond (reqEdie m) m 8 0 y.2.bytes)

/-! ### Mirror writes (R392) -/

/-- The field rules of R392. -/
def mirrorMalformed (m : LinkMsg) : Bool :=
  m.pkg || decide (m.addr.toNat % 256 ≠ 0) || decide (msgLen m ≠ 16) || !m.gv || decide (2 < m.subop.toNat)

/-- The mirror store and the undo area are quarantined (R497, R499). -/
def State.storeShut (s : State) : Bool :=
  s.flask.storeQuarantined ||
    (match s.pourJob with | some j => decide ((s.job j).st = .killed) | none => false)

/-- Where an undo line of a share goes: the slot that holds the share's other line, or a free one of its E-die. -/
def State.undoSlot (s : State) (share : Nat) : Option (Nat × Bool) :=
  let f := s.flask
  match f.held.find? (fun u => decide (u.share = share ∧ u.gen = f.expect.toNat)) with
  | some u => some (u.slot, false)
  | none =>
    (lowestFree ((f.held.filter (fun u => decide (u.share % 8 = share % 8))).map (fun u => u.slot))
      s.active.bind.slots).map (fun k => (k, true))

/-- An undo line is stored in the undo area. -/
def State.storeUndo (s : State) (o : Nat) (x : Payload) : Option State :=
  let share := o / 512
  match s.undoSlot share with
  | none => none
  | some (k, new) =>
    let s := s.hbmPut (slotAddr s.active.bind.undoArea (share % 8) k + o % 512) x
    let line : BitVec 2 := if o % 512 = 0 then 1 else 2
    let gen := s.flask.expect.toNat
    some (s.mapFlask (fun f =>
      { f with held := if new then f.held ++ [{ share := share, gen := gen, slot := k, lines := line }]
               else f.held.map (fun u => if u.share = share ∧ u.gen = gen then { u with lines := u.lines ||| line } else u) }))

/-- A mirror write is stored, discarded as stale, or refused (R392, R498). [DEDUCED: log entry 51] -/
def execMirrorWrite (port : Fin 48) (m : LinkMsg) (s : State) : Out :=
  if !s.turn port m 3 then .next s
  else
    let b := s.active.bind
    let o := m.addr.toNat
    let e : Fin 8 := Fin.ofNat 8 (o / 512)
    let s1 := s.receive port m
    if !b.en ∨ m.smod ≠ b.partner ∨ b.cap.toNat * 65536 ≤ o then .next (s1.respond e m 0xA 8 [])
    else if mirrorMalformed m then .next (s1.respond e m 0xA 7 [])
    else if s.storeShut then .next (s1.respond e m 0xA 4 [])
    else if m.egen.toNat ≠ s.flask.expect.toNat % 256 then
      .next ((s1.mapFlask (fun f => { f with stale := bump f.stale })).respond e m 9 0 [])
    else
      let bytes := m.data.take 256
      match m.subop.toNat with
      | 1 =>
        match s1.storeUndo o (.clean bytes) with
        | some s2 => .next (s2.respond e m 9 0 [])
        | none => .next s
      | 2 => .next ((s1.hbmPut (b.store.toNat * 65536 + o) { bytes := bytes, poison := List.range 32 }).respond e m 9 0 [])
      | _ => .next ((s1.hbmPut (b.store.toNat * 65536 + o) (.clean bytes)).respond e m 9 0 [])

/-! ### Management messages (R356, R456, R457) -/

/-- The first unit of the PEER message that reports the kill of the sender's job to its partner (R499). The layout is this
model's own: the spec gives none. -/
def killReport : Nat := 2 ^ 120

/-- The partner runs the job: it is in the job's peer set (R364). -/
def State.partnerRuns (s : State) (j : Fin 8) : Bool :=
  s.active.bind.en && (s.job j).peers.any (fun m => m == s.active.bind.partner)

/-- The partner's job was killed: the mirror store and the undo area held for it are quarantined. Their fettle is part of this module's
job fettle, or follows alone when the module holds no part of the job (R499). [DEDUCED: log entry 73] -/
def State.storeKilled (s : State) : State :=
  let f : FettleRun := { scope := .store, src := none }
  let part : Bool := (List.finRange 8).any (fun j => decide ((s.job j).st ≠ .none) && !(s.job j).hold && s.partnerRuns j)
  let s := s.mapFlask (fun x => { x with storeQuarantined := true })
  if part then s
  else if s.mp.fettles.any (fun g => decide (g = f)) then s else { s with mp := { s.mp with fettles := s.mp.fettles ++ [f] } }

/-- A management message from a module acknowledges what was sent to it (R393); one from the flask partner may report that its
job was killed (R499), and one from the partner of an adoption a share that holds poison (R406). -/
def State.peerMessage (s : State) (m : LinkMsg) : State :=
  let s := s.ackPeer (fun p => p.dest == m.smod || s.active.route.relocate p.dest == m.smod)
  let u := leNat (m.data.take 16)
  if u = killReport then
    if s.active.bind.en ∧ m.smod = s.active.bind.partner then s.storeKilled else s
  else
    match s.flask.adopt with
    | some a => if m.smod = a.p ∧ m.data ≠ [] then s.adoptPoison u else s
    | none => s

/-- What the MP does with a management message it takes (Table 15-7). -/
def State.takeMgmt (s : State) (m : LinkMsg) : State :=
  let u := leNat (m.data.take 16)
  match m.subop.toNat with
  | 0 => s.fragment m.smod (Fin.ofNat 2 (bitsAt u 0 2)) (BitVec.ofNat 32 (bitsAt u 32 32)) (bitsAt u 64 8) (bitsAt u 72 8)
      (m.data.drop 16)
  | 1 => s.resultRead m.smod (Fin.ofNat 2 (bitsAt u 0 2))
  | 2 | 3 => s.storeMessage m
  | 4 => s.peerMessage m
  | _ => s

/-- A management message is consumed: the MP takes it, or with its inbound buffer full it is discarded and counted. -/
def execMgmt (port : Fin 48) (m : LinkMsg) (room : Bool) (s : State) : Out :=
  if !s.turn port m 5 then .next s
  else
    let s := s.receive port m
    .next (if room then s.takeMgmt m else s.dropMgmt)

/-! ### Responses (R340, R341) -/

/-- A response answers the request that holds its tag: it comes from the module that the request went to, with the outcome that its
type has; NO_ROUTE may come from a module on the way. Any other is one to a request that timed out before the tag was reused (R341).
[DESIGN CHOICE: log entry 131] -/
def answersRequest (req m : LinkMsg) (x : Ending) : Bool :=
  let from_ : Bool := decide (m.smod = req.dmod)
  match x with
  | .done => from_ && (req.type == 0 || req.type == 3 || req.type == 4)
  | .data b =>
    from_ && ((req.type == 1 && decide (b.length = 16 * req.aux.toNat)) || (req.type == 2 && decide (b.length = 16)))
  | .poisoned _ | .ecc => false
  | .refused r => from_ || decide (r = 6)
  | .timeout => false

/-- A response reaches port SPORT: its tag is freed and its request completes, once the response has come to the core that asked; for a free tag, or one reused since its request
timed out, it is discarded and counted. -/
def State.response (s : State) (port : Fin 48) (m : LinkMsg) (x : Ending) (fs : List FlitFinding) : State :=
  let s := s.receive port m
  if 48 ≤ m.sport.toNat then s
  else
    let q : Fin 48 := Fin.ofNat 48 m.sport.toNat
    match (s.port q).tags.find? (fun t => t.1 == m.tag.toNat) with
    | none => s.mapPort q (fun p => { p with latersp := bump p.latersp })
    | some (k, u) =>
      if !answersRequest u.msg m x then s.mapPort q (fun p => { p with latersp := bump p.latersp })
      else
      let refused : Bool := match x with | .refused _ => true | _ => false
      let s := s.mapPort q (fun p =>
        { p with tags := tdel p.tags k, refrx := if refused then bump p.refrx else p.refrx })
      let y := s.endingFlits (Fin.ofNat 8 (port.val / 6)) u.who x fs
      y.1.finishRequest u.who u.msg y.2

/-- Read data arrives. -/
def execRdata (port : Fin 48) (m : LinkMsg) (s : State) (flits : List FlitFinding := []) : Out :=
  .next (if s.turn port m 8 then s.response port m (.data m.data) flits else s)

/-- An acknowledgement arrives. -/
def execDone (port : Fin 48) (m : LinkMsg) (s : State) (flits : List FlitFinding := []) : Out :=
  .next (if s.turn port m 9 then s.response port m .done flits else s)

/-- A refusal arrives. -/
def execRefused (port : Fin 48) (m : LinkMsg) (s : State) (flits : List FlitFinding := []) : Out :=
  .next (if s.turn port m 0xA then s.response port m (.refused m.aux) flits else s)

end Sys2Proof.Machine
end

