-- ==== Sys2Proof/Machine/Reduce.lean ====
section
/-! DEFINITION. Reductions: direct adds, the rounds of a reduction context, the spill, and the tree (R233, R264, R366 to
R374). -/

namespace Sys2Proof.Machine

/-- The element type of a reduction format: F32, H16, I32 (R366). -/
def redTy (f : Nat) : Ty := match f with | 0 => .f32 | 1 => .h16 | _ => .i32

/-- The address of a line. -/
def lineAddr (line : Nat) : Nat := 256 * line

/-- A context's window holds an address of its space (R369). -/
def RedCtx.covers (c : RedCtx) (pkg : Bool) (a : Nat) : Bool :=
  c.en && c.pkg == pkg && decide (c.wbase.toNat ≤ a / 256 ∧ a / 256 < c.wlimit.toNat)

/-- The context of a request. -/
def State.ctxOf (s : State) (m : LinkMsg) : Option (Fin 16) :=
  (List.finRange 16).find? (fun x => (s.redCtx x).covers m.pkg m.addr.toNat)

/-- The position of a contributor (Table 12-7). -/
def RedCtx.position (c : RedCtx) (smod : ModuleId) : Option Nat :=
  (List.range (c.nm1.toNat + 1)).find? (fun i =>
    let w := c.con[Fin.ofNat 32 i]
    w.getLsbD 31 && decide (bitsAt w.toNat 0 13 = smod.toNat))

/-- The positions of a context in use. -/
def RedCtx.needed (c : RedCtx) : List Nat :=
  (List.range (c.nm1.toNat + 1)).filter (fun i => (c.con[Fin.ofNat 32 i]).getLsbD 31)

/-- The E-die whose engine owns a line (R368). -/
def engineOf (pkg : Bool) (line : Nat) : Fin 8 :=
  if pkg then homeEdie (lineAddr line / 2 ^ 22 / 256) else addrEdie (lineAddr line)

/-- Open lines and partial entries in use at the engine of E-die `e` (R371). -/
def State.engineLoad (s : State) (e : Fin 8) : Nat × Nat :=
  let rs := (List.finRange 16).flatMap (fun x =>
    let c := s.redCtx x
    c.rounds.filter (fun r => engineOf c.pkg r.line == e))
  (rs.length, (rs.map (fun r => r.parts.length)).sum)

/-- A contribution joins the open round of its line, or opens one, when its position is empty there and the engine has a
partial entry, and for a new line a line store (R371). -/
def State.placePart (s : State) (x : Fin 16) (k : Contribution) : Option State :=
  let c := s.redCtx x
  let load := s.engineLoad (engineOf c.pkg k.line)
  if 32768 ≤ load.2 then none
  else
    match c.rounds.find? (fun r => r.line == k.line) with
    | some r =>
      if r.parts.any (fun p => p.pos == k.pos) then none
      else some (s.mapRed x (fun c =>
        { c with rounds := c.rounds.map (fun r => if r.line = k.line then { r with parts := r.parts ++ [k] } else r) }))
    | none =>
      if 4096 ≤ load.1 then none
      else some (s.mapRed x (fun c =>
        { c with rounds := c.rounds ++ [{ line := k.line, opened := s.now, parts := [k] }] }))

/-- A record of a reduction engine. -/
def redEvent (sev : BitVec 2) (cause : BitVec 16) (c : RedCtx) (line : Nat) : Event :=
  { mpEvent sev cause [] with
    die := 32 + (engineOf c.pkg line).val, unit := 12, job := c.job, addr := BitVec.ofNat 64 (lineAddr line) }

/-- The destination's old bytes with the incoming ones added, each granule in one step; a word that was poison stays so
(R233, R264, R409). -/
def addPayload (ty : Ty) (old : Payload) (new : List Byte) : Payload :=
  { bytes := reduceBytes ty old.bytes new, poison := old.poison }

/-- A direct add (R367): the read and the write meet what the destination shows (R203, R277).
[DEDUCED: log entry 51] -/
def State.directAdd (s : State) (m : LinkMsg) (found : List SpmFinding) (ext : HbmFinding) : State :=
  let n := reqBytes m
  let s := s.destMeet m n found ext
  let x := addPayload (redTy m.subop.toNat) (s.destGet m n) (m.data.take n)
  (s.destPut m x found .clean).respond (reqEdie m) m 9 0 []

/-- A REDUCE_FWD joins the tree of its line, is spilled, or is added directly. Once the spill region of its context is full, the engine
stops taking those that would join it, and says so once (R369, R371). It takes a message off its virtual channel at once or leaves
it there: one for another E-die's engine enters the grid as it is taken (R355). -/
def execReduceFwd (port : Fin 48) (m : LinkMsg) (s : State) (found : List SpmFinding := []) (ext : HbmFinding := .clean) : Out :=
  if !s.turn port m 4 then .next s
  else
    let s1 := s.receive port m
    match s.refusal m true with
    | some r => .next (s1.refuseReq m r)
    | none =>
      match s.ctxOf m with
      | none => .next (if s.destBlocked m then s else s1.directAdd m found ext)
      | some x =>
        let c := s.redCtx x
        let joins : Bool := decide (m.addr.toNat % 256 = 0) && decide (msgLen m = 16) && decide (m.subop.toNat = c.fmt.toNat)
        match (if joins then c.position m.smod else none) with
        | none =>
          if s.destBlocked m then .next s
          else .next ((s1.mapRed x (fun c => { c with fbcnt := bump c.fbcnt })).directAdd m found ext)
        | some i =>
          if c.halted then .next s else
          let k : Contribution :=
            { pos := i, smod := m.smod, tag := m.tag, sport := m.sport, line := m.addr.toNat / 256, data := m.data.take 256 }
          match s1.placePart x k with
          | some s2 => .next s2
          | none =>
            let stop (s : State) : State := (s.mapRed x (fun c => { c with halted := true })).log (redEvent 1 0x0502 c k.line)
            if c.spill.length < c.spsize.toNat then
              let s := s1.mapRed x (fun c => { c with spill := c.spill ++ [k] })
              .next (if c.spill.length + 1 = c.spsize.toNat then stop s else s)
            else .next (stop s)

/-- One level of the tree: adjacent values combine, and one beside an empty position passes on unchanged (R370). -/
def treeLevel (ty : Ty) : List (Option (List Byte)) → List (Option (List Byte))
  | a :: b :: l =>
    (match a, b with
      | some x, some y => some (reduceBytes ty x y)
      | some x, none => some x
      | none, y => y) :: treeLevel ty l
  | l => l

/-- The root of the tree over positions 0 to 31. -/
def treeRoot (ty : Ty) (parts : List Contribution) : List Byte :=
  let leaves := (List.range 32).map (fun i => (parts.find? (fun p => p.pos == i)).map (fun p => p.data))
  match treeLevel ty (treeLevel ty (treeLevel ty (treeLevel ty (treeLevel ty leaves)))) with
  | some x :: _ => x
  | _ => List.replicate 256 0

/-- A message that stands for a contribution: where its answer goes. -/
def Contribution.request (k : Contribution) (s : State) (pkg : Bool) : LinkMsg :=
  { s.message 4 s.self 0 (lineAddr k.line) k.data with smod := k.smod, tag := k.tag, sport := k.sport, pkg := pkg }

/-- The first contribution of a spill that can be placed is placed, and so the next, in order; each of them frees its place in the
spill (R371). [DESIGN CHOICE: log entry 52] -/
def drawSpill (x : Fin 16) : List Contribution → State → State
  | [], s => s
  | k :: ks, s =>
    match s.placePart x k with
    | some s' => drawSpill x ks (s'.mapRed x (fun c => { c with spill := c.spill.filter (fun y => decide (y ≠ k)), halted := false }))
    | none => drawSpill x ks s

/-- The spills of every context are drawn from, since a completed round frees stores that its engine shares among them; an engine that
stopped for want of any spill region goes on (R371). -/
def State.drawSpills (s : State) : State :=
  (List.finRange 16).foldl (fun s x =>
    let c := s.redCtx x
    let s := drawSpill x c.spill s
    if c.halted ∧ c.spsize = 0 then s.mapRed x (fun c => { c with halted := false }) else s) s

/-- A round completes (R370, R372): the root is added to the destination line, DONE goes to every contributor, and the
spills are drawn from. -/
def execReductionRoundComplete (ctx : Fin 16) (line : BitVec 32) (s : State) (found : List SpmFinding := []) (ext : HbmFinding := .clean) : Out :=
  let c := s.redCtx ctx
  match c.rounds.find? (fun r => r.line == line.toNat) with
  | none => .next s
  | some r =>
    let m : LinkMsg :=
      { s.message 4 s.self 0 (lineAddr line.toNat) (List.replicate 256 0) with pkg := c.pkg }
    if !(c.needed.all (fun i => r.parts.any (fun p => p.pos == i))) || s.destBlocked m then .next s
    else
      let ty := redTy c.fmt.toNat
      let s := s.destMeet m 256 found ext
      let s := s.destPut m (addPayload ty (s.destGet m 256) (treeRoot ty r.parts)) found .clean
      let s := s.mapRed ctx (fun c => { c with rounds := c.rounds.filter (fun r => r.line != line.toNat) })
      let e := engineOf c.pkg line.toNat
      let s := r.parts.foldl (fun s k => s.respond e (k.request s c.pkg) 9 0 []) s
      .next (s.drawSpills)

/-- A round has been open for RLTMO: it is discarded, its contributions receive no answer, and a record fatal to the job is
posted (R373). -/
def execRoundTimeout (ctx : Fin 16) (line : BitVec 32) (s : State) : Out :=
  let c := s.redCtx ctx
  match c.rounds.find? (fun r => r.line == line.toNat) with
  | none => .next s
  | some r =>
    let s := s.wait (r.opened + c.rltmo.toNat * 1000)
    let s := s.mapRed ctx (fun c => { c with rounds := c.rounds.filter (fun r => r.line != line.toNat) })
    .next (s.log (redEvent 2 0x0503 c line.toNat))

end Sys2Proof.Machine
end

