-- ==== Sys2Proof/Machine/Blocks.lean ====
section
/-! DEFINITION. The register blocks in the MP's space as CFG_GET, CFG_WRITE_SHADOW and DEBUG_READ see them: the fields of
the configuration set, every other field, and what a read with CLR clears (Tables 10-6, 11-13, 12-5, 12-7, 12-11, 13-6,
13-10, 14-9, 15-11, R466). -/

namespace Sys2Proof.Machine

/-! ### The fields of a configuration set -/

/-- A register that holds fields of the configuration set, the flask binding aside. -/
inductive CfgReg
  | pcap | clkplan
  | remap (die : Nat) (i : Nat)
  | cret (die : Nat) (w : Nat)
  | nret (die : Nat) (w : Nat)
  | pctl (port : Fin 48)
  | lane (port : Fin 48) (k : Fin 8)
  | mask (group : Nat) (nonMinimal : Bool) (hi : Bool)
  | loc (j : Fin 32)
  | role (port : Fin 48)
  | self | adapt | grace
  | reloc (r : Fin 16)
  | tsctl
  | tasym (port : Fin 48)
  | mgfm | mgopt
  deriving DecidableEq, Repr

/-- The register of a routing-table copy at an offset within it (Tables 12-5 and 13-6). -/
def routeReg (off : Nat) : Option CfgReg :=
  if off < 0x1000 then some (.mask (off / 16) (decide (8 ≤ off % 16)) (decide (off % 8 = 4)))
  else if off < 0x1080 then some (.loc (Fin.ofNat 32 ((off - 0x1000) / 4)))
  else if off < 0x1140 then some (.role (Fin.ofNat 48 ((off - 0x1080) / 4)))
  else if off = 0x1140 then some .self
  else if off = 0x1144 then some .adapt
  else if off = 0x1148 then some .grace
  else if 0x1200 ≤ off ∧ off < 0x1240 then some (.reloc (Fin.ofNat 16 ((off - 0x1200) / 4)))
  else none

/-- Port `k` of E-die `e`. -/
def edPort (e k : Nat) : Fin 48 := Fin.ofNat 48 (6 * e + k)

/-- The link register space holds time-sync registers (R381). -/
def timeEdie (e : Nat) : Bool := decide (e = 0 ∨ e = 4)

/-- The register with configuration fields at an offset of a block; the second copy of the routing table counts (Table
15-11). -/
def cfgReg (block off : Nat) : Option CfgReg :=
  if block = 0 then (if off = 0 then some .pcap else if off = 4 then some .clkplan else none)
  else if block ≤ 0x20 then
    let d := block - 1
    if off < 0x400 then some (.remap d (off / 4))
    else if off < 0x424 then some (.cret d ((off - 0x400) / 4))
    else if 0x440 ≤ off ∧ off < 0x464 then some (.nret d ((off - 0x440) / 4))
    else none
  else if block ≤ 0x28 then
    let e := block - 0x21
    if off < 0x600 then
      let p := edPort e (off / 256)
      if off % 256 = 0 then some (.pctl p)
      else if 0x80 ≤ off % 256 ∧ off % 256 < 0xA0 then some (.lane p (Fin.ofNat 8 ((off % 256 - 0x80) / 4)))
      else none
    else if 0x12000 ≤ off ∧ off < 0x13240 then routeReg (off - 0x12000)
    else if off = 0x30000 ∧ timeEdie e then some .tsctl
    else if 0x30100 ≤ off ∧ off < 0x301C0 ∧ timeEdie e then some (.tasym (Fin.ofNat 48 ((off - 0x30100) / 4)))
    else none
  else if block = 0x31 then (if off = 0 then some .mgfm else if off = 4 then some .mgopt else none)
  else none

/-- The bits of a register that are configuration fields. -/
def CfgReg.bits : CfgReg → Nat
  | .pcap => 0x00FFFFFF
  | .clkplan => 0xFFE00FFF
  | .remap _ _ => 0x80001F0F
  | .cret _ w | .nret _ w => if w = 8 then 0xFFFF else 0xFFFFFFFF
  | .pctl _ => 0xFF00FF01
  | .lane _ _ => 0xF00
  | .mask _ _ hi => if hi then 0xFFFF else 0xFFFFFFFF
  | .loc _ => 0x8000003F
  | .role _ => 0xDFFF003F
  | .self => 0x1FFF
  | .adapt => 0xFFFFFFFF
  | .grace => 0xFFFF
  | .reloc _ => 0x9FFF1FFF
  | .tsctl => 0xC000003F
  | .tasym _ => 0xFFFF
  | .mgfm => 0x9FFF9FFF
  | .mgopt => 1

/-- 32 bits of a set from 32 `w` on. -/
def setWord (x : NatSet) (w : Nat) : Nat := ((List.range 32).map (fun j => b2n (nhas x (32 * w + j)) * 2 ^ j)).sum

/-- The set with those bits replaced. -/
def putWord (x : NatSet) (w v : Nat) : NatSet :=
  (List.range 32).foldl (fun x j => if v.testBit j then nins x (32 * w + j) else ndel x (32 * w + j)) x

/-- 32 bits of a number of bits, the high or the low. -/
def half (hi : Bool) (v : Nat) : Nat := if hi then v / 2 ^ 32 else v % 2 ^ 32

/-- The number with one half replaced. -/
def putHalf (hi : Bool) (old v : Nat) : Nat := if hi then old % 2 ^ 32 + v * 2 ^ 32 else old / 2 ^ 32 * 2 ^ 32 + v

/-- The table entry of a default of 0 replaced: 0 is not listed. -/
def putEntry (t : Table Nat) (k v : Nat) : Table Nat := if v = 0 then tdel t k else tset t k v

/-- A register's configuration fields in a set, for a module of `n` logical cores a die.
[DESIGN CHOICE: log entry 81] -/
def CfgReg.get (n : Nat) (c : ConfigSet) : CfgReg → Nat
  | .pcap => c.pcap.toNat
  | .clkplan => c.clkplan.toNat
  | .remap d i =>
    match (c.map n d).remap.find? (fun x => x.1 == i) with
    | some x => 2 ^ 31 + x.2 / 16 * 256 + x.2 % 16
    | none => let p := tget (c.map n d).off 0 i; p / 16 * 256 + p % 16
  | .cret d w => setWord (c.map n d).cret w
  | .nret d w => setWord (c.map n d).nret w
  | .pctl p => c.ports[p].mshare.toNat * 2 ^ 24 + c.ports[p].laneen.toNat * 256 + b2n c.ports[p].en
  | .lane p k => (c.ports[p].txpre[k]).toNat * 256
  | .mask g nm hi => half hi (tget (if nm then c.route.nonMinimal else c.route.minimal) 0 g)
  | .loc j => (c.route.loc[j]).toNat
  | .role p => (c.route.roles[p]).toNat
  | .self => c.route.self.toNat
  | .adapt => c.route.xpen.toNat * 2 ^ 16 + c.route.nmthr.toNat
  | .grace => c.route.grace.toNat
  | .reloc r => (c.route.reloc[r]).toNat
  | .tsctl => c.role.toNat * 2 ^ 30 + c.pport.toNat
  | .tasym p => (c.tasym[p]).toNat
  | .mgfm => c.mgfm.toNat
  | .mgopt => b2n c.anchor

/-- A CLKPLAN value without a reserved code, its ceiling in range (R439). -/
def clkOk (v : Nat) : Bool :=
  bitsAt v 29 2 != 3 && bitsAt v 24 2 != 3 && bitsAt v 21 2 != 3 && decide (800 ≤ v % 4096 ∧ v % 4096 ≤ 2200)

/-- A PCAP value in the limits of R420. -/
def capOk (code : OrderingCode) (v : Nat) : Bool :=
  decide (2000 ≤ v % 65536 ∧ v % 65536 ≤ tdp code ∧ 1 ≤ bitsAt v 16 8 ∧ bitsAt v 16 8 ≤ 60)

/-- A value that a write of the register takes (R319, R420, R439, R467, Tables 10-6 and 12-5). -/
def CfgReg.ok (code : OrderingCode) (r : CfgReg) (v : Nat) : Bool :=
  v &&& r.bits == v &&
    (match r with
    | .pcap => capOk code v
    | .clkplan => clkOk v
    | .remap _ _ => decide (bitsAt v 8 5 ≤ 16)
    | .tsctl => bitsAt v 30 2 != 3 && decide (v % 64 < 48)
    | _ => true)

/-- A write of a register that is ignored whole: a reserved preset code, or ROLE 3 (R319, R359). -/
def CfgReg.ignores (r : CfgReg) (v : Nat) : Bool :=
  match r with
  | .lane _ _ => decide (0x800 ≤ v)
  | .role _ => bitsAt v 30 2 == 3
  | _ => false

/-- A set with a register's configuration fields replaced. -/
def CfgReg.put (n : Nat) (c : ConfigSet) (r : CfgReg) (v : Nat) : ConfigSet :=
  let onMap (d : Nat) (f : CoreMap → CoreMap) : ConfigSet := { c with maps := tset c.maps d (f (c.map n d)) }
  let onRoute (t : RouteTable) : ConfigSet := { c with route := t }
  let t := c.route
  match r with
  | .pcap => { c with pcap := BitVec.ofNat 32 v }
  | .clkplan => { c with clkplan := BitVec.ofNat 32 v }
  | .remap d i =>
    let p := bitsAt v 8 5 * 16 + v % 16
    onMap d (fun m =>
      if v.testBit 31 then { m with remap := tset m.remap i p, off := tdel m.off i }
      else { m with remap := tdel m.remap i, off := putEntry m.off i p })
  | .cret d w => onMap d (fun m => { m with cret := putWord m.cret w v })
  | .nret d w => onMap d (fun m => { m with nret := putWord m.nret w v })
  | .pctl p =>
    { c with ports := c.ports.set p { c.ports[p] with
        en := v.testBit 0, laneen := BitVec.ofNat 8 (v / 256), mshare := BitVec.ofNat 8 (v / 2 ^ 24) } }
  | .lane p k =>
    { c with ports := c.ports.set p { c.ports[p] with txpre := c.ports[p].txpre.set k (BitVec.ofNat 4 (v / 256)) } }
  | .mask g false hi => onRoute { t with minimal := putEntry t.minimal g (putHalf hi (tget t.minimal 0 g) v) }
  | .mask g true hi => onRoute { t with nonMinimal := putEntry t.nonMinimal g (putHalf hi (tget t.nonMinimal 0 g) v) }
  | .loc j => onRoute { t with loc := t.loc.set j (BitVec.ofNat 32 v) }
  | .role p => onRoute { t with roles := t.roles.set p (BitVec.ofNat 32 v) }
  | .self => onRoute { t with self := BitVec.ofNat 13 v }
  | .adapt => onRoute { t with xpen := BitVec.ofNat 16 (v / 2 ^ 16), nmthr := BitVec.ofNat 16 v }
  | .grace => onRoute { t with grace := BitVec.ofNat 16 v }
  | .reloc i => onRoute { t with reloc := t.reloc.set i (BitVec.ofNat 32 v) }
  | .tsctl => { c with role := BitVec.ofNat 2 (v / 2 ^ 30), pport := BitVec.ofNat 6 v }
  | .tasym p => { c with tasym := c.tasym.set p (BitVec.ofNat 16 v) }
  | .mgfm => { c with mgfm := BitVec.ofNat 32 v }
  | .mgopt => { c with anchor := v.testBit 0 }

/-! ### Status values -/

/-- A module-wide DIAG_RUN runs. -/
def State.diagRuns (s : State) : Bool :=
  allSources.any (fun x => decide ((s.box x).st = .running ∧ (s.box x).opc = 0x71 ∧ word32At (s.box x).payload 0 = 4))

/-- MSTATE (R446). -/
def State.mstate (s : State) : BitVec 4 :=
  if s.mp.fatal ∨ s.power.shutdown then 2
  else if s.sec.fuses.lc ≠ 2 ∨ s.sec.fuses.decom ≠ 0 ∨ s.mp.activating ∨ s.diagRuns then 3
  else if s.mp.standbyLost ∨ s.mp.needRet then 1
  else 0

/-- The code of a port state (Table 11-5) and of a lane state (Table 11-4). -/
def PortState.code : PortState → Nat
  | .disabled => 0 | .down => 1 | .training => 2 | .active => 3 | .retrain => 4 | .failed => 5

def LaneState.code : LaneState → Nat
  | .disabled => 0 | .reset => 1 | .detect => 2 | .eq => 3 | .align => 4 | .soak => 5 | .active => 6 | .failed => 7

/-- PSTAT. -/
def Port.pstat (p : Port) : Nat := p.rxLanes.toNat * 2 ^ 16 + p.txLanes.toNat * 256 + p.st.code

/-- PWRSTAT. -/
def State.pwrstat (s : State) : Nat :=
  let p := s.power
  b2n p.untrust * 2 ^ 31 + b2n p.stale * 2 ^ 30 + b2n p.fallback * 2 ^ 29 + b2n p.trip * 2 ^ 28 + p.fixnow.toNat * 2 ^ 26

/-- The code of PSTATE (Table 13-10). -/
def PourState.code : PourState → Nat
  | .none => 0 | .open_ => 1 | .arriving => 2 | .arrived => 3 | .saving => 4 | .tail => 5 | .ready => 6 | .rollback => 7

/-- FL_STATE. -/
def State.flState (s : State) : Nat := s.flask.pstate.code * 2 ^ 28 + s.flask.prot.toNat * 2 ^ 26

/-- AGE_EOL. -/
def State.ageEol (s : State) : Nat := s.power.ageIsland.toNat * 2 ^ 16 + s.power.ageDays.toNat

/-! ### Reading a block -/

/-- The power block (Table 14-9), its configuration fields aside. -/
def State.powerWord (s : State) (off : Nat) : Nat :=
  let p := s.power
  if off = 8 then s.pwrstat
  else if off = 0xC then p.sample.toNat * 2 ^ 16 + p.winavg.toNat
  else if off = 0x10 then p.vin.toNat * 2 ^ 16 + p.iin.toNat
  else if off = 0x14 then (p.event.toNat &&& 0x1FC) + p.cause.toNat
  else if off = 0x18 then p.tripcnt.toNat
  else if off = 0x1C then p.breachcnt.toNat
  else if 0x100 ≤ off ∧ off < 0x240 then
    let d := (off - 0x100) / 8
    let x := p.dies[Fin.ofNat 40 d]
    if off % 8 = 0 then
      let f := if d < 32 then s.target (Fin.ofNat 32 d) else 1953
      x.tj.toNat * 2 ^ 24 + x.phase.toNat * 2 ^ 16 + f
    else x.budget.toNat * 2 ^ 16 + x.meas.toNat
  else if 0x240 ≤ off ∧ off < 0x2E0 then (p.dies[Fin.ofNat 40 ((off - 0x240) / 4)]).droop.toNat
  else if off = 0x300 then s.ageEol
  else if off = 0x304 then p.ageLast.toNat
  else 0

/-- The fabric registers of a C-die (Table 10-6), its core map aside. -/
def State.fabricWord (s : State) (d off : Nat) : Nat :=
  let x := s.die d
  let m := s.coreMap d
  if 0x480 ≤ off ∧ off < 0x4A4 then setWord x.fret ((off - 0x480) / 4)
  else if off = 0x4C0 then (min 7 m.nret.length) * 2 ^ 9 + (s.freeRisers d).length
  else if off = 0x4C4 then (s.chdis d .south).toNat * 2 ^ 16 + (s.chdis d .north).toNat
  else if off = 0x4C8 then (s.chdis d .west).toNat * 2 ^ 16 + (s.chdis d .east).toNat
  else if off = 0x4D0 then x.hdrerr.toNat
  else if off = 0x4D4 then x.dcorr.toNat
  else if off = 0x4D8 then x.dunc.toNat
  else if off = 0x4DC then x.retry.toNat
  else 0

/-- The registers of a port (Table 11-13), its settings aside. -/
def Port.word (p : Port) (off : Nat) : Nat :=
  match off with
  | 0x04 => p.pstat
  | 0x08 => match p.peer with | some x => 2 ^ 31 + x.1.toNat * 2 ^ 16 + x.2.toNat | none => 0
  | 0x0C => p.hblim.toNat
  | 0x10 => p.hbState.toNat * 2 ^ 28 + p.miss.toNat
  | 0x14 => p.reqtmo.toNat
  | 0x18 => p.mres.toNat
  | 0x1C => p.tags.length
  | 0x20 => p.tagHwm.toNat
  | 0x24 => p.lthr.toNat
  | 0x30 => p.crcerr.toNat
  | 0x34 => p.replay.toNat
  | 0x38 => p.feccorr.toNat
  | 0x3C => p.fecunc.toNat
  | 0x40 => p.refrx.toNat
  | 0x44 => p.reftx.toNat
  | 0x48 => p.latersp.toNat
  | 0x4C => p.widthchg.toNat
  | _ =>
    if 0x80 ≤ off ∧ off < 0xA0 then
      let l := p.lanes[Fin.ofNat 8 ((off - 0x80) / 4)]
      l.symerr.toNat * 2 ^ 16 + l.st.code
    else 0

/-- The registers of a reduction context as E-die `e` shows them (Table 12-7). -/
def RedCtx.word (c : RedCtx) (e off : Nat) : Nat :=
  if off = 0 then b2n c.en * 2 ^ 31 + b2n c.pkg * 2 ^ 29 + c.fmt.toNat * 256 + c.nm1.toNat
  else if off = 4 then c.wbase.toNat
  else if off = 8 then c.wlimit.toNat
  else if off = 0x10 then c.spbase.toNat
  else if off = 0x14 then c.spsize.toNat
  else if off = 0x18 then c.rltmo.toNat
  else if 0x40 ≤ off ∧ off < 0xC0 then (c.con[Fin.ofNat 32 ((off - 0x40) / 4)]).toNat
  else if off = 0xC0 then c.fbcnt.toNat
  else if off = 0xC4 then (c.rounds.filter (fun r => decide ((engineOf c.pkg r.line).val = e))).length % 8192
  else if off = 0xC8 then c.spill.length
  else 0

/-- The time-sync registers (Table 12-11), their settings aside. -/
def TimeSync.word (t : TimeSync) (off : Nat) : Nat :=
  match off with
  | 0x4 => b2n t.locked * 2 ^ 31 + b2n t.hold * 2 ^ 30 + t.lost.toNat
  | 0x8 => t.ofs.toNat
  | 0xC => t.delay.toNat
  | 0x10 => t.rate.toNat
  | _ => 0

/-- The link register space of an E-die, its configuration fields aside. -/
def State.linkWord (s : State) (e off : Nat) : Nat :=
  if off < 0x600 then (s.port (edPort e (off / 256))).word (off % 256)
  else if off = 0x13000 - 0x10000 then s.switch.noroute.toNat
  else if off = 0x3004 then s.switch.nmcnt.toNat
  else if off = 0x3008 then s.switch.mgmtdrop.toNat
  else if 0x20000 ≤ off ∧ off < 0x21000 then (s.redCtx (Fin.ofNat 16 ((off - 0x20000) / 256))).word e (off % 256)
  else if 0x30000 ≤ off ∧ off < 0x30100 ∧ timeEdie e then s.time.word (off - 0x30000)
  else 0

/-- The flask block (Table 13-10), with the binding of a set. -/
def State.flaskWord (s : State) (b : FlaskBind) (off : Nat) : Nat :=
  let f := s.flask
  match off with
  | 0x00 => b2n b.en * 2 ^ 31 + b.partner.toNat
  | 0x04 => b.cap.toNat
  | 0x08 => b.undo.toNat
  | 0x0C => s.flState
  | 0x10 => f.committed.toNat
  | 0x14 => f.interval.toNat
  | 0x18 => f.dirty.count f.shares
  | 0x1C => f.tail.count f.shares
  | 0x20 => f.rb.length
  | 0x24 => (f.undoUsed.toList).sum
  | 0x28 => b.store.toNat
  | 0x2C => b.undoArea.toNat
  | 0x30 => b.rbArea.toNat
  | 0xC0 => f.copies.toNat
  | 0xC4 => f.lines.toNat
  | 0xC8 => f.skipped.toNat
  | 0xCC => f.stale.toNat
  | _ =>
    if 0x40 ≤ off ∧ off < 0xC0 then
      match f.regions[(off - 0x40) / 8]? with
      | some r => if off % 8 = 0 then 2 ^ 31 + r.base.toNat / 65536 else r.limit.toNat / 65536
      | none => 0
    else 0

/-- A block code that Table 15-11 assigns. -/
def blockAssigned (block : Nat) : Bool := decide (block ≤ 0x28 ∨ block = 0x30 ∨ block = 0x31)

/-- A word of a block: the configuration fields of the active or the shadow set, and every other field. The active copy of
the routing table lies at 0x1_0000, the shadow copy at 0x1_2000 (R359). A reserved offset reads 0. -/
def State.blockWord (s : State) (shadow : Bool) (block off : Nat) : Nat :=
  let n := perDie s.ident.code
  let c := if shadow then s.shadow else s.active
  let copies : Bool := decide (0x21 ≤ block ∧ block ≤ 0x28)
  if copies ∧ 0x12000 ≤ off ∧ off < 0x14000 then
    match routeReg (off - 0x12000) with
    | some r => r.get n s.shadow + (if r = .self then b2n s.switch.ep * 2 ^ 16 else 0)
    | none => 0
  else if copies ∧ 0x10000 ≤ off ∧ off < 0x12000 then
    match routeReg (off - 0x10000) with
    | some r => r.get n c + (if r = .self then b2n s.switch.ep * 2 ^ 16 else 0)
    | none => 0
  else
    let cfg := match cfgReg block off with | some r => r.get n c | none => 0
    let fell : Bool := decide (block = 0 ∧ off = 4) && !shadow && s.power.fallback && !c.clkplan.getLsbD 31
    cfg + (if fell then 2 ^ 31 else 0) + (if block = 0 then s.powerWord off
      else if block ≤ 0x20 then s.fabricWord (block - 1) off
      else if block ≤ 0x28 then s.linkWord (block - 0x21) off
      else if block = 0x30 then s.flaskWord c.bind off
      else 0)

/-- Words of a block from an offset on. [DEDUCED: log entry 77] -/
def State.blockWords (s : State) (shadow : Bool) (block off n : Nat) : List Nat :=
  (List.range n).map (fun i => s.blockWord shadow block (off + 4 * i))

/-! ### Clearing a block -/

/-- The registers of a port with those that clear on a read cleared (Table 11-13). -/
def Port.cleared (p : Port) (off : Nat) : Port :=
  match off with
  | 0x20 => { p with tagHwm := 0 }
  | 0x30 => { p with crcerr := 0 }
  | 0x34 => { p with replay := 0 }
  | 0x38 => { p with feccorr := 0 }
  | 0x3C => { p with fecunc := 0 }
  | 0x40 => { p with refrx := 0 }
  | 0x44 => { p with reftx := 0 }
  | 0x48 => { p with latersp := 0 }
  | 0x4C => { p with widthchg := 0 }
  | _ => p

/-- The state after a read that clears a word of a block: its fields of access RC return to 0 (R475).
[DESIGN CHOICE: log entry 81] -/
def State.blockClear (s : State) (block off : Nat) : State :=
  if block = 0 then
    let p := s.power
    if off = 0x18 then { s with power := { p with tripcnt := 0 } }
    else if off = 0x1C then { s with power := { p with breachcnt := 0 } }
    else if 0x240 ≤ off ∧ off < 0x2E0 then s.mapPower (Fin.ofNat 40 ((off - 0x240) / 4)) (fun x => { x with droop := 0 })
    else s
  else if block ≤ 0x20 then
    let f (x : Die) : Die :=
      match off with
      | 0x4D0 => { x with hdrerr := 0 }
      | 0x4D4 => { x with dcorr := 0 }
      | 0x4D8 => { x with dunc := 0 }
      | 0x4DC => { x with retry := 0 }
      | _ => x
    if 0x4D0 ≤ off ∧ off ≤ 0x4DC then s.mapDie (block - 1) f else s
  else if block ≤ 0x28 then
    if off < 0x600 then
      let p := edPort (block - 0x21) (off / 256)
      if (s.port p).cleared (off % 256) = s.port p then s else s.mapPort p (fun x => x.cleared (off % 256))
    else if off = 0x3000 then { s with switch := { s.switch with noroute := 0 } }
    else if off = 0x3004 then { s with switch := { s.switch with nmcnt := 0 } }
    else if off = 0x3008 then { s with switch := { s.switch with mgmtdrop := 0 } }
    else if 0x20000 ≤ off ∧ off < 0x21000 ∧ off % 256 = 0xC0 then
      s.mapRed (Fin.ofNat 16 ((off - 0x20000) / 256)) (fun c => { c with fbcnt := 0 })
    else s
  else if block = 0x30 then
    match off with
    | 0xC0 => { s with flask := { s.flask with copies := 0 } }
    | 0xC4 => { s with flask := { s.flask with lines := 0 } }
    | 0xC8 => { s with flask := { s.flask with skipped := 0 } }
    | 0xCC => { s with flask := { s.flask with stale := 0 } }
    | _ => s
  else s

/-- The state after a read with CLR of words of a block. [DEDUCED: log entry 77] -/
def State.blockClears (s : State) (block off n : Nat) : State :=
  (List.range n).foldl (fun s i => s.blockClear block (off + 4 * i)) s

/-! ### Writing the shadow set -/

/-- A write of the shadow set (R467): every word must be a configuration register, write 0 to its other bits and pass its
checks, or nothing is written; a word that its register ignores whole changes nothing (R319, R359). The byte offset of the first
word that fails is given. -/
def shadowWrite (code : OrderingCode) (c : ConfigSet) (block : Nat) : List Word → Nat → Nat → ConfigSet ⊕ Nat
  | [], _, _ => .inl c
  | w :: ws, off, arg =>
    match cfgReg block off with
    | some r =>
      if !r.ok code w.toNat then .inr arg
      else shadowWrite code (if r.ignores w.toNat then c else r.put (perDie code) c w.toNat) block ws (off + 4) (arg + 4)
    | none => .inr arg

/-! ### What a change of settings does at once -/

/-- A port follows its EN (R322, R466): enabled, it is DOWN with the lanes it may train in RESET; disabled, it leaves its
link. -/
def State.enablePort (s : State) (port : Fin 48) (was now : PortCfg) : State :=
  if was.en = now.en then s
  else if now.en then
    s.mapPort port (fun p =>
      { Port.reset with
        hblim := p.hblim, reqtmo := p.reqtmo, mres := p.mres, tagHwm := p.tagHwm, lthr := p.lthr, crcerr := p.crcerr
        replay := p.replay, feccorr := p.feccorr, fecunc := p.fecunc, refrx := p.refrx, reftx := p.reftx
        latersp := p.latersp, widthchg := p.widthchg, hbseq := p.hbseq, tags := p.tags, cooling := p.cooling
        rxMsgs := p.rxMsgs, txMsgs := p.txMsgs, st := .down, laneen := now.laneen
        lanes := Vector.ofFn (fun k =>
          if now.laneen.getLsbD k && !(p.lanes[k]).heldOut then { Lane.reset with st := .reset, removals := (p.lanes[k]).removals }
          else { p.lanes[k] with st := .disabled }) })
  else
    let active : Bool := decide ((s.port port).st = .active)
    let s := s.mapPort port (fun p =>
      { p with st := .disabled, rxLanes := 0, txLanes := 0, peer := none, kept := [], replayAt := none, txUnits := []
               partUnits := [], control := [], ask := none, plan := [], retrainDue := false, retrains := 0
               lanes := Vector.ofFn (fun k => { p.lanes[k] with st := .disabled }) })
    if active then s.leaveActive port else s.rechoose port

/-- The MP enables or disables VE power-down: disabling wakes a VE in retention (Table 14-2). -/
def State.wakeEngines (s : State) (was : Word) : State :=
  if was.getLsbD 23 ∧ !s.active.clkplan.getLsbD 23 then
    { s with cores := s.cores.map (fun x => (x.1, { x.2 with ve := if x.2.ve.ret then { x.2.ve with waking := true } else x.2.ve })) }
  else s

/-- FIXNOW follows a change of MODE or FIXPT (R418, R432). -/
def State.followPlan (s : State) (was : Word) : State :=
  let w := s.active.clkplan
  let s := if bitsAt was.toNat 29 3 = bitsAt w.toNat 29 3 then s
    else { s with power := { s.power with fixnow := BitVec.ofNat 2 (w.toNat / 2 ^ 29), fallback := false } }
  s.wakeEngines was

/-- What follows at once from a new active set beside the one before (Table 15-8); a port whose plan changed has its peer checked
(R351). -/
def State.follow (s : State) (was : ConfigSet) : State :=
  let s := (List.finRange 48).foldl (fun s p => s.enablePort p was.ports[p] s.active.ports[p]) (s.followPlan was.clkplan)
  (List.finRange 48).foldl (fun s p => if was.route.roles[p] = s.active.route.roles[p] then s else s.checkPeer p) s

end Sys2Proof.Machine
end

