-- ==== Sys2Proof/Machine/Bar0.lean ====
section
/-! DEFINITION. The registers of BAR0 as the host reads and writes them (R448, R449, R451, R453, R457, Tables 15-3 and 15-4). -/

namespace Sys2Proof.Machine

/-- MODSTAT. -/
def State.modstat (s : State) : Nat :=
  let m := s.mp
  b2n m.ready * 2 ^ 31 + b2n m.activeB * 2 ^ 30 + b2n m.standbyLost * 2 ^ 29 + b2n m.needRet * 2 ^ 28 +
    s.sec.fuses.state * 2 ^ 24 + s.mstate.toNat * 2 ^ 16 +
    ((List.finRange 8).map (fun j => b2n (decide ((s.job j).st ≠ .none)) * 2 ^ j.val)).sum

/-- An offset of a mailbox that the master writes: the fields marked RW, and the payload of the request (R453). -/
def masterWrites (o : Nat) : Bool := decide (o < 0x20) || (decide (0x40 ≤ o) && decide (o < 0x1000))

/-- A word of a host mailbox: what its master wrote there, and what the MP did: the rest of the header, and the response (R453). -/
def Mailbox.word (b : Mailbox) (o : Nat) : Nat :=
  if masterWrites o then tget b.area 0 (o / 4)
  else if o < 0x40 then word32At b.header o
  else word32At b.rsp (o - 0x1000)

/-- A word of the pending-bit array of an interface: the vectors signalled and not yet taken (Table 15-3).
[DESIGN CHOICE: log entry 78] -/
def HostIf.pendingBits (h : HostIf) (hi : Fin 2) (k : Nat) : Nat :=
  ((List.range 32).map (fun i => b2n (h.msix.any (fun x => decide (x = (hi, 32 * k + i)))) * 2 ^ i)).sum

/-- A word of BAR0 at an offset of 4 bytes, through an interface, whose own the MSI-X table and its pending bits are; DBELL and MGTXCTL
are written only, and a reserved offset reads 0. [DESIGN CHOICE: log entry 78] -/
def State.bar0Word (s : State) (o : Nat) (hi : Fin 2 := 0) : Nat :=
  let h := s.host
  if o < 0x10000 then (s.boxes[Fin.ofNat 8 (o / 0x2000)]).word (o % 0x2000)
  else if 0x20000 ≤ o ∧ o < 0x20400 then tget h.msixTable[hi] 0 ((o - 0x20000) / 4)
  else if 0x21000 ≤ o ∧ o < 0x21008 then h.pendingBits hi ((o - 0x21000) / 4)
  else if 0x14000 ≤ o ∧ o < 0x14110 then word32At h.txbuf (o - 0x14000)
  else if 0x100000 ≤ o ∧ o < 0x110000 then
    match h.ring.find? (fun x => x.1 == (o - 0x100000) / 64) with
    | some r => word32At r.2.bytes (o % 64)
    | none => 0
  else if 0x200000 ≤ o ∧ o < 0x400000 then
    match h.rx.find? (fun x => x.1 == (o - 0x200000) / 512) with
    | some m => word32At (leBytes 16 (headerUnit m.2).toNat ++ m.2.data) (o % 512)
    | none => 0
  else
    match o with
    | 0x10004 => ((List.finRange 8).map (fun n => (s.boxes[n]).st.code * 4 ^ n.val)).sum
    | 0x10008 => h.mbdone.toNat
    | 0x1000C => h.mbien.toNat
    | 0x10010 => h.dberr.toNat
    | 0x11000 => s.modstat
    | 0x11004 => 8 * 256 + 3
    | 0x11008 => s.mp.takeovers.toNat
    | 0x1100C => s.mp.seqLast.toNat
    | 0x11010 => s.now % 2 ^ 32
    | 0x11014 => h.timeHi.toNat
    | 0x12000 => h.evwp.toNat
    | 0x12004 => h.evrp.toNat
    | 0x12008 => b2n h.evIen * 2 ^ 31 + b2n h.evNotice * 4 + h.evMin.toNat
    | 0x1200C => h.evlost.toNat
    | 0x13000 => h.b2base.toNat
    | 0x13004 => h.b2err.toNat
    | 0x14114 => b2n h.txbusy * 2 ^ 31 + h.txrej.toNat
    | 0x14120 => h.rxwp.toNat
    | 0x14124 => h.rxrp.toNat
    | _ => 0

/-- What a read of a word does besides: a read of RSTAT counts as a result read (R455), EVLOST and B2ERR clear, and TIME_LO latches
the high half of the time base. -/
def State.bar0Effect (s : State) (o : Nat) : State :=
  if o < 0x10000 then
    let n : Fin 8 := Fin.ofNat 8 (o / 0x2000)
    if o % 0x2000 = 0x20 then { s with boxes := s.boxes.set n (s.boxes[n]).readOnce } else s
  else if o = 0x11010 then { s with host := { s.host with timeHi := BitVec.ofNat 32 (s.now / 2 ^ 32) } }
  else if o = 0x1200C then { s with host := { s.host with evlost := 0 } }
  else if o = 0x13004 then { s with host := { s.host with b2err := 0 } }
  else s

/-- The host reads a word: the count of a result read includes the read that returns it. -/
def State.bar0Read (s : State) (o : Nat) (hi : Fin 2) : State :=
  let t := s.bar0Effect o
  let v := if o < 0x10000 then t.bar0Word o hi else s.bar0Word o hi
  { t with host := { t.host with bar0 := BitVec.ofNat 32 v } }

/-- A word that its master writes into a mailbox; RO fields ignore it (R453). -/
def Mailbox.putWord (b : Mailbox) (o : Nat) (v : Word) : Mailbox := if masterWrites o then { b with area := putEntry b.area (o / 4) v.toNat } else b

/-- The host writes a word of a mailbox, of the MSI-X table of the interface, or of the transmit buffer; elsewhere nothing.
[DESIGN CHOICE: log entry 78] -/
def State.bar0Write (s : State) (hi : Fin 2) (o : Nat) (v : Word) : State :=
  let h := s.host
  if o < 0x10000 then
    let n : Fin 8 := Fin.ofNat 8 (o / 0x2000)
    { s with boxes := s.boxes.set n ((s.boxes[n]).putWord (o % 0x2000) v) }
  else if 0x14000 ≤ o ∧ o < 0x14110 then
    let k := o - 0x14000
    { s with host := { h with txbuf := padTo 272 (padTo k (h.txbuf.take k) ++ leBytes 4 v.toNat ++ h.txbuf.drop (k + 4)) } }
  else if 0x20000 ≤ o ∧ o < 0x20400 then
    { s with host := { h with msixTable := h.msixTable.set hi (putEntry h.msixTable[hi] ((o - 0x20000) / 4) v.toNat) } }
  else s

/-- One access of the host to a register of BAR0 without a row of its own: RW fields are set, a 1 clears a bit that is RW1C, and a
word is read (Tables 0-3 and 15-4). [DESIGN CHOICE: log entry 78] -/
def State.hostAccess (hi : Fin 2) (s : State) (a : HostAccess) : State :=
  let h := s.host
  match a with
  | .mbdone v => { s with host := { h with mbdone := h.mbdone &&& ~~~(v.setWidth 8) } }
  | .mbien v => { s with host := { h with mbien := v.setWidth 8 } }
  | .dberr v => { s with host := { h with dberr := h.dberr &&& ~~~(v.setWidth 8) } }
  | .evrp v => { s with host := { h with evrp := v.setWidth 10 } }
  | .evctl v => { s with host := { h with evIen := v.getLsbD 31, evNotice := v.getLsbD 2, evMin := v.setWidth 2 } }
  | .mgrxrp v => { s with host := { h with rxrp := v.setWidth 12 } }
  | .read off => s.bar0Read (off.toNat / 4 * 4) hi
  | .write off v => s.bar0Write hi (off.toNat / 4 * 4) v

end Sys2Proof.Machine
end

