-- ==== Sys2Proof/Machine/Arbiter.lean ====
section
/-! DEFINITION. Requests as they come in through BAR0, the links and the BMC, the BAR2 aperture, the arbitration tick and the limits of
commands (R447 to R465). -/

namespace Sys2Proof.Machine

/-! ### Ticks and limits -/

/-- A command that waits outside the MP leaves state as it was before it; an adoption window closes, and a staged image is
discarded (R465). -/
def State.undoCommand (s : State) (src : Source) : State :=
  match (s.box src).opc.toNat with
  | 0x23 => { s with mp := { s.mp with swap := none } }
  | 0x40 => { s with flask := { s.flask with bindAsk := none } }
  | 0x43 => { s with flask := { s.flask with adopt := none } }
  | 0x81 => { s with sec := { s.sec with images := { s.sec.images with staged := [], verified := false } } }
  | 0xA0 => { s with mp := { s.mp with fettles := s.mp.fettles.map (fun f => if f.src = some src then { f with src := none } else f) } }
  | _ => s

/-- Arbitration of the earliest tick with commands (R460 to R462). With none, commands of earlier ticks start whose conflicts have
ended. -/
def execArbitrationTick (s : State) : Out := .next s.arbitrate

/-- The default limit of a command that waits outside the MP, in ms (Table 15-10). -/
def limitMs (opc : Nat) : Option Nat :=
  match opc with
  | 0x10 | 0x40 | 0x43 => some 10000
  | 0x23 => some 11000
  | 0x81 => some 60000
  | _ => none

/-- The time limit of a waiting command passes (R465). DETAIL names the step reached, whose numbering is not stated: a free
value. [DESIGN CHOICE: log entry 71] -/
def execCommandTimeout (src : Source) (s : State) : Out :=
  let b := s.box src
  match limitMs b.opc.toNat with
  | none => .next s
  | some ms =>
    if b.st ≠ .running then .next s
    else
      let t := if b.tlim = 0 then ms else b.tlim.toNat
      let s := s.wait (b.arrival + t * 10 ^ 6)
      let s := { s with fresh := s.fresh + 1 }
      .next ((s.undoCommand src).complete src 6 (Config.stepReached (s.fresh - 1)).toNat [])

/-! ### BAR0 -/

/-- A host interface decodes BAR0 and BAR2: its link is up, and the firmware has set them up (R510).
[DESIGN CHOICE: log entry 78] -/
def State.hostUp (s : State) (hi : Fin 2) : Bool := s.firmwareUp && s.board.hiUp[hi]

/-- One of the two interfaces does. -/
def State.anyHostUp (s : State) : Bool := s.hostUp 0 || s.hostUp 1

/-- A host mailbox into which its master has written a request; without one it holds what was written before (Table 15-5). -/
def Mailbox.written (b : Mailbox) (r : Option MbRequest) : Mailbox :=
  match r with
  | some r =>
    let words := [r.ver.toNat * 65536 + r.opc.toNat, r.rid.toNat, r.reqlen.toNat, r.job.toNat, r.tlim.toNat]
    let data := (List.range (ceilDiv r.payload.length 4)).map (fun i => word32At r.payload (4 * i))
    let put (a : Table Nat) (o : Nat) (l : List Nat) : Table Nat :=
      (List.range l.length).foldl (fun a i => putEntry a (o + i) (l.getD i 0)) a
    { b with area := put (put b.area 0 words) 16 data, cores := r.cores }
  | none => b

/-- The snapshot of the request that the mailbox holds: bits beyond the fields of a word are not part of it (R450, Table 15-5). -/
def Mailbox.snapshot (b : Mailbox) : Mailbox :=
  let w (i : Nat) : Nat := tget b.area 0 i
  { b with
    ver := BitVec.ofNat 8 (w 0 / 65536), opc := BitVec.ofNat 16 (w 0), rid := BitVec.ofNat 32 (w 1), job := BitVec.ofNat 8 (w 3)
    tlim := BitVec.ofNat 16 (w 4)
    payload := (List.range (w 2 % 4096)).map (fun k => BitVec.ofNat 8 (w (16 + k / 4) / 256 ^ (k % 4))) }

/-- A doorbell, after the accesses to other registers that the host made before it (R13, R450): every mailbox rung in FREE or DONE takes
its request; in QUEUED or RUNNING its DBERR bit is set. -/
def execMailboxDoorbell (hi : Fin 2) (ring : BitVec 8) (reqs : List MbRequest) (s : State) (regs : List HostAccess := []) : Out :=
  if !s.hostUp hi then .next s
  else
    .next ((List.finRange 8).foldl (fun (s : State) (n : Fin 8) =>
      if !ring.getLsbD n then s
      else if (s.boxes[n]).busy then
        { s with host := { s.host with dberr := s.host.dberr ||| BitVec.ofNat 8 (2 ^ n.val) } }
      else
        s.takeRequest (.host n) { ((s.boxes[n]).written (reqs.find? (fun r => decide (r.mailbox = n)))).snapshot with hi := hi })
      (regs.foldl (State.hostAccess hi) s))

/-- A read of RSTAT of host mailbox `n` (R455). -/
def execResultRead (n : Fin 8) (s : State) : Out :=
  .next (if s.anyHostUp then { s with boxes := s.boxes.set n (s.boxes[n]).readOnce } else s)

/-- The management transmit buffer is written, and sent on GO (R457): from an anchor only, MGMT messages of SUBOP 0 and 1
only, under the module's own number. [DEDUCED: log entry 80] -/
def execMgmtTransmit (go : Bool) (buf : List Byte) (s : State) : Out :=
  if !s.anyHostUp then .next s else
  let s := { s with host := { s.host with txbuf := (buf ++ List.replicate (272 - buf.length) 0).take 272 } }
  if !go then .next s
  else
    let h : Chunk := BitVec.ofNat 128 (leNat (s.host.txbuf.take 16))
    let m := messageOf h []
    let data := (s.host.txbuf.drop 16).take (16 * headerLen h)
    let rej (s : State) (v : BitVec 2) : State := { s with host := { s.host with txrej := v, txbusy := false } }
    if !s.active.anchor then .next (rej s 1)
    else if m.type ≠ 5 ∨ (m.subop ≠ 0 ∧ m.subop ≠ 1) then .next (rej s 2)
    else .next (rej (s.post s.mpDie (s.message 5 m.dmod m.subop m.addr.toNat data) none) 0)

/-- The host sets B2BASE; a value above 0x3C0 is ignored whole (Table 15-4). -/
def execB2baseWrite (value : BitVec 32) (s : State) : Out :=
  let v := value.toNat % 1024
  .next (if 0x3C0 < v ∨ !s.anyHostUp then s
    else { s with host := { s.host with b2base := BitVec.ofNat 10 v, b2recorded := false } })

/-! ### BAR2 -/

/-- Every byte of a range lies in windows that a test takes, in pieces of 64 KiB. -/
def coveredBy (ws : List WindowReq) (a n : Nat) : Bool :=
  (List.range ((a + n - 1) / 65536 + 1 - a / 65536)).all (fun i =>
    let lo := max a ((a / 65536 + i) * 65536)
    let hi := min (a + n) ((a / 65536 + i + 1) * 65536)
    ws.any (fun w => winCovers w lo (hi - lo)))

/-- The windows of a job through which BAR2 may read, or write (R452, R498, R501): those with host permission; of a killed
job only the capture window in capture hold, to read. -/
def Job.hostWindows (j : Job) (write : Bool) : List WindowReq :=
  let ws := j.wins.filter (fun w => w.host && (w.write || !write))
  match j.st with
  | .none => []
  | .killed => if j.hold && !write then ws.drop (ws.length - 1) else []
  | _ => ws

/-- A BAR2 access is performed (R452). -/
def State.bar2Ok (s : State) (a n : Nat) (write : Bool) : Bool :=
  decide (a + n ≤ 2 ^ 40) && (List.finRange 8).any (fun j => coveredBy ((s.job j).hostWindows write) a n)

/-- A refused BAR2 access: counted, and the first since B2BASE was written is recorded (R452). -/
def State.bar2Refuse (s : State) (a : Nat) : State :=
  let h := s.host
  let first := !h.b2recorded
  let s := { s with host := { h with b2err := bump h.b2err, b2recorded := true } }
  if first then s.log { mpEvent 0 0x0705 [] with unit := 17, addr := BitVec.ofNat 64 a } else s

/-- The address of an aperture offset. -/
def State.bar2Addr (s : State) (x : BitVec 36) : Nat := s.host.b2base.toNat * 2 ^ 30 + x.toNat

/-- The bytes that a reader outside the cores receives; those of a poisoned word are free values. -/
def outsideBytes (fresh a : Nat) (x : Payload) : List Byte :=
  (List.range x.bytes.length).map (fun i =>
    if nhas x.poison ((a + i) / 8 - a / 8) then Config.poisonByte (fresh + i) else byteAt x.bytes i)

/-- A read through BAR2; a refused one returns all ones. [DESIGN CHOICE: log entry 156] -/
def execBar2Read (x : BitVec 36) (bytes : Nat) (s : State) (ext : HbmFinding := .clean) : Out :=
  let a := s.bar2Addr x
  if !s.anyHostUp || bytes == 0 then .next s
  else if s.bar2Ok a bytes false then
    let (s, p) := s.hbmRead a bytes ext
    .next { s with host := { s.host with b2read := outsideBytes s.fresh a p }, fresh := s.fresh + bytes }
  else
    let s := s.bar2Refuse a
    .next { s with host := { s.host with b2read := List.replicate bytes 0xFF } }

/-- A write through BAR2; a refused one is discarded whole. One that meets a share whose copy must wait for a commit is held, and so
are those behind it (R389). A write of part of a 64-byte piece reads the rest (R277).
[DESIGN CHOICE: log entry 156] -/
def execBar2Write (x : BitVec 36) (data : List Byte) (s : State) (ext : HbmFinding := .clean) : Out :=
  let a := s.bar2Addr x
  if !s.anyHostUp || data.isEmpty then .next s
  else if !s.bar2Ok a data.length true then .next (s.bar2Refuse a)
  else
    let s := s.hbmMeetPart a data.length ext
    .next (s.runHeld (s.host.b2held ++ [(a, data)]))

/-! ### Links and BMC -/

/-- A REQUEST fragment reaches the module (R456). -/
def execMgmtRequest (smod : BitVec 13) (mb : Fin 2) (rid : BitVec 32) (frag : BitVec 8) (nfrag : BitVec 8)
    (image : List Byte) (s : State) : Out :=
  .next (s.fragment smod mb rid frag.toNat nfrag.toNat image)

/-- A RESULT_READ reaches the module (R456). -/
def execMgmtResultRead (smod : BitVec 13) (mb : Fin 2) (_rid : BitVec 32) (s : State) : Out := .next (s.resultRead smod mb)

/-- A RESULT reaches an anchor (R457). -/
def execMgmtResult (m : LinkMsg) (s : State) : Out :=
  .next (if m.type = 5 ∧ m.subop = 2 then s.storeMessage m else s)

/-- A NOTICE reaches an anchor (R457). -/
def execMgmtNotice (m : LinkMsg) (s : State) : Out :=
  .next (if m.type = 5 ∧ m.subop = 3 then s.storeMessage m else s)

/-- Fragments of one RID that stay incomplete for 100 ms after the first of them are discarded, those of the oldest RID first
(R456). -/
def execFragmentTimeout (mb : Fin 2) (s : State) : Out :=
  match (s.frags[mb].map (fun f => f.at_)).min? with
  | none => .next s
  | some t =>
    let s := s.wait (t + 100000000)
    .next { s with frags := s.frags.set mb (s.frags[mb].filter (fun f => decide (t < f.at_))) }

/-- What stands before KIND in a message of the BMC mailbox: the MCTP vendor-defined message type and the PCI vendor identifier, high
byte first (R458). [PRESUMED: log entry 96] -/
def mctpHead : List Byte := [0x7E, BitVec.ofNat 8 (Config.pciVendor.toNat / 256), BitVec.ofNat 8 Config.pciVendor.toNat]

/-- A result message leaves for the BMC: KIND 2 and an image (R458). -/
def State.bmcSend (s : State) (image : List Byte) : State :=
  { s with mp := { s.mp with bmcOut := s.mp.bmcOut ++ [mctpHead ++ (2 : Byte) :: image] } }

/-- A message from its packets, of 64 bytes each but the last: KIND and image, where it is of this mailbox and at most 4,101 B long
(R458). -/
def assembled (packets : List (List Byte)) : Option (Byte × List Byte) :=
  let x := packets.flatten
  if packets.dropLast.all (fun p => p.length == 64) && packets.all (fun p => decide (p.length ≤ 64)) && decide (x.length ≤ 4101) &&
      decide (4 ≤ x.length) && decide (x.take 3 = mctpHead) then some (byteAt x 3, x.drop 4)
  else none

/-- A message of the BMC (R458, R459): KIND 0 brings a request, KIND 1 reads the result; others, and images shorter than a
header or longer than 4,096 B, bring nothing. A row with packets is the message that they assemble to. -/
def execBmcMessage (kind : BitVec 8) (image : List Byte) (s : State) (packets : List (List Byte) := []) : Out :=
  let m := if packets.isEmpty then (kind, image) else (assembled packets).getD (0xFF, [])
  let kind := m.1
  let image := m.2
  let b := s.bmc
  if s.board.stage = .held then .next s
  else if kind = 1 then
    let b := b.readOnce
    .next (({ s with bmc := b } : State).bmcSend b.image)
  else if kind ≠ 0 ∨ image.length < 64 ∨ 4096 < image.length then .next s
  else
    let rid := BitVec.ofNat 32 (word32At image 4)
    if b.st ≠ .free ∧ b.rid = rid then
      let b := b.readOnce
      .next (({ s with bmc := b } : State).bmcSend b.image)
    else if b.busy then .next (s.bmcSend (b.deny rid))
    else .next (s.takeRequest .bmc (b.ofImage image))

end Sys2Proof.Machine
end

