-- ==== Sys2Proof/Machine/Fettle.lean ====
section
/-! DEFINITION. Fettles: what each scope wipes, the commands that ask for one, and their end (R281, R499, R501 to R506). -/

namespace Sys2Proof.Machine

/-! ### Wipes -/

/-- External bytes of a range, aligned to 64 KiB, are zero and clean again (R503). -/
def State.wipeHbm (s : State) (r : Nat × Nat) : State :=
  { s with hbm := { s.hbm with mem := s.hbm.mem.filter (fun c => !decide (r.1 ≤ c.1 ∧ c.1 < r.2))
                               poison := s.hbm.poison.filter (fun k => !decide (r.1 ≤ 8 * k ∧ 8 * k < r.2)) } }

/-- Ranges are wiped one after the other. -/
def State.wipeAll (s : State) (rs : List (Nat × Nat)) : State := rs.foldl State.wipeHbm s

/-- The MP region (Table 9-12). -/
def mpRegion : Nat := 2 ^ 30

/-- Cores return to their reset values: the table lists none of them (R503). -/
def State.wipeCores (s : State) (ids : List CoreId) : State :=
  { s with cores := s.cores.filter (fun x => !ids.any (fun i => i.toNat == x.1)) }

/-- Lines of a range of external memory leave the code caches of every die (R502). -/
def State.wipeLines (s : State) (r : Nat × Nat) : State :=
  let out (line : Nat) : Bool := !decide (r.1 ≤ 128 * line ∧ 128 * line < r.2)
  { s with dies := s.dies.map (fun x =>
      (x.1, { x.2 with lines := x.2.lines.filter (fun l => out l.2.line), offers := x.2.offers.filter (fun o => out o.line) })) }

/-- The spare rows of cores are in use after a wipe (R206). -/
def State.respare (s : State) (ids : List CoreId) : State :=
  ids.foldl (fun s id =>
    if (s.sparesAt id).isEmpty then s
    else s.setCore id ((s.core id).mapSpm (fun m => { m with spares := s.sparesAt id }))) s

/-- Repairs are applied at a reset or fettle of cores: those whose spare rows do not suffice are retired (R206).
[DESIGN CHOICE: log entry 44] -/
def State.applyRepairs (s : State) (ids : List CoreId) : State :=
  let qs := ids.filterMap (fun id => (s.position id).map (fun p => 272 * (id.toNat / 256) + p))
  { s with mp := { s.mp with retiredCores := ninsAll s.mp.retiredCores (qs.filter s.overRepaired) } }

/-- The positions that the fuses' rows or the repair ledger name. -/
def State.repairedAt (s : State) : List Nat :=
  (s.sec.fuses.rows ++ s.mp.repairs).filterMap (fun e =>
    match e with
    | .scratchpad d r c _ _ => some (272 * d.val + 16 * r.toNat + c.toNat)
    | .hbm .. => none)

/-- The same for every core of the module. -/
def State.applyAllRepairs (s : State) : State :=
  { s with mp := { s.mp with retiredCores := ninsAll s.mp.retiredCores (s.repairedAt.filter s.overRepaired) } }

/-- The code region of a job. -/
def Job.code (j : Job) : Nat × Nat := (j.codeBase, j.codeBase + j.codeSize)

/-- A window as a range. -/
def WindowReq.range (w : WindowReq) : Nat × Nat := (w.base.toNat, w.limit.toNat)

/-- The capture window of a job, while it is kept out of the job's fettle (R500). -/
def Job.captureWin (j : Job) : List WindowReq := if j.capture then j.wins.drop (j.wins.length - 1) else []

/-- The windows that the job's fettle wipes. -/
def Job.fettled (j : Job) : List WindowReq := if j.capture then j.wins.take (j.wins.length - 1) else j.wins

/-- A flask area of `units` of 64 KiB at a base. -/
def areaOf (base : BitVec 24) (units : BitVec 23) : Nat × Nat := (base.toNat * 65536, (base.toNat + units.toNat) * 65536)

/-- The mirror store and the undo area, and the rollback area (Table 13-1). -/
def FlaskBind.storeAreas (b : FlaskBind) : List (Nat × Nat) := if b.en then [areaOf b.store b.cap, areaOf b.undoArea b.undo] else []
def FlaskBind.rbAreas (b : FlaskBind) : List (Nat × Nat) := if b.en then [areaOf b.rbArea b.undo] else []

/-- What is held for the partner is wiped (R499). -/
def State.wipeStore (s : State) : State :=
  (s.wipeAll s.active.bind.storeAreas).mapFlask (fun f => { f with held := [], storeQuarantined := false })

/-- The flask state of a job that has ended: no policy, no pour, no dirty share, no copy. -/
def Flask.jobEnds (f : Flask) : Flask :=
  { Flask.reset with
    copies := f.copies, lines := f.lines, skipped := f.skipped, stale := f.stale, held := f.held, expect := f.expect
    partnerCommitted := f.partnerCommitted, partnerAt := f.partnerAt, bindAsk := f.bindAsk, adopt := f.adopt
    storeQuarantined := f.storeQuarantined, fenced := f.fenced }

/-- The flask block after a fettle of the job: its counters too read 0 (R411). -/
def Flask.fettled (f : Flask) : Flask := { f.jobEnds with copies := 0, lines := 0, skipped := 0, stale := 0 }

/-- The contexts of a job return to their reset values (R374). -/
def State.wipeContexts (s : State) (n : Nat) : State := { s with red := s.red.filter (fun x => decide (x.2.job ≠ n)) }

/-! ### Scopes (Table 16-12) -/

/-- The fettle of a killed job: its cores, code caches, windows, code region, contexts, rollback slots, and what is held for a
partner of the same job. With capture only its capture window is left, in capture hold (R501). -/
def State.fettleJob (s : State) (j : Fin 8) : State :=
  let b := s.job j
  let n := j.val + 1
  let s := s.applyRepairs (b.cores.map (fun x => x.1))
  let s := (((s.wipeCores (b.cores.map (fun x => x.1))).respare (b.cores.map (fun x => x.1))).wipeLines b.code).wipeAll (b.fettled.map WindowReq.range ++ [b.code])
  let s := s.wipeContexts n
  let s := if s.partnerRuns j then s.wipeStore else s
  let s := if s.flask.job = some n then (s.wipeAll s.active.bind.rbAreas).mapFlask Flask.fettled else s
  s.mapJob j (fun b =>
    if b.capture then { b with hold := true, cores := [], wins := b.captureWin, codeBase := 0, codeSize := 0, resumable := none }
    else Job.blank)

/-- The fettle of a capture window: the job is gone (R501). -/
def State.fettleHold (s : State) (j : Fin 8) : State :=
  (s.wipeAll ((s.job j).captureWin.map WindowReq.range)).mapJob j (fun _ => Job.blank)

/-- The lines that a retirement or a re-admission of a pseudo-channel moves, and the absent ones, start without a count. -/
def State.moveLines (s : State) (p : Nat) : State :=
  { s with hbm := { s.hbm with corr := s.hbm.corr.filter (fun x =>
      decide (pchOf (8 * (x.1 / 128)) ≠ p ∧ pchLine (8 * (x.1 / 128)) / 4096 ≠ 0x3FF)) } }

/-- A retired pseudo-channel that has passed its test since is re-admitted after the all-HBM fettle, with no job loaded and no flask
bound (R281, Table 13-8). [DEDUCED: log entry 45] -/
def State.readmitChannel (s : State) : State :=
  let b := s.board
  match b.pchRetired with
  | some p =>
    if b.pchPassed ∧ !s.anyJob ∧ !s.active.bind.en then
      let s := s.moveLines p.toNat
      { s with board := { b with pchRetired := none, pchPassed := false } }
    else s
  | none => s

/-- A pseudo-channel whose retirement waits is retired after the all-HBM fettle, with no job loaded and no flask bound
(R281). -/
def State.retireChannel (s : State) : State :=
  let b := s.board
  match b.pchCand with
  | some p =>
    if b.pchRetired.isNone ∧ !s.anyJob ∧ !s.active.bind.en then
      let s := s.moveLines p.toNat
      { s with board := { b with pchRetired := some p, pchPassed := false, pchCand := none, pchFailed := ndel b.pchFailed p.toNat } }
    else s
  | none => s

/-- The fettle of all external memory outside the MP region: its repairs are applied first (R280), a capture hold ends, and a pending retirement takes effect. -/
def State.fettleHbm (s : State) : State :=
  let s := s.applyHbmRepairs.wipeHbm (mpRegion, 2 ^ 40)
  let s := s.mapFlask (fun f => { f with held := [], rb := [], storeQuarantined := false })
  ((List.finRange 8).foldl (fun (s : State) (j : Fin 8) => if (s.job j).hold then (s.mapJob j (fun _ => Job.blank)).jobNotice j 0 else s) s).readmitChannel.retireChannel

/-- A mailbox loses what its master wrote and what a completed command left in it; the request of a command that has not completed
stays. -/
def Mailbox.fettled (b : Mailbox) : Mailbox :=
  if b.busy then { b with area := [] } else { Mailbox.reset with seq := b.seq, hi := b.hi }

/-- The fettle of the module: external memory, every core, every code cache, the mailboxes, the rings, the retry buffers, the
reduction engines and the phase tables; retired nodes take effect (Table 10-4). [DESIGN CHOICE: log entry 74] -/
def State.fettleModule (s : State) : State :=
  let s := s.fettleHbm.applyAllRepairs
  let s : State := { s with
    cores := [], red := []
    board := { s.board with veTested := true }
    dies := s.dies.map (fun x => (x.1, { x.2 with lines := [], offers := [] }))
    boxes := s.boxes.map Mailbox.fettled, fm := s.fm.map Mailbox.fettled, bmc := s.bmc.fettled, frags := Vector.replicate 2 []
    host := { s.host with ring := [], rx := [], txbuf := [], b2read := [] }
    ports := s.ports.map (fun x => (x.1, { x.2 with kept := [], replayAt := none }))
    power := { s.power with phases := [] }
    flask := s.flask.jobEnds
    mp := { s.mp with jobs := Vector.replicate 8 Job.blank } }
  let s := (List.range 32).foldl State.settleNodes s
  s.respare (s.repairedAt.filterMap s.coreAt)

/-! ### The end of a fettle (R504) -/

/-- FETTLE_DONE is posted, for a job or for the module. -/
def State.fettleNotice (s : State) (job : Nat) : State := s.log (noticeEvent 0x0804 job [])

/-- A job that its fettle took to NONE is reported. -/
def State.endNotice (s : State) (j : Fin 8) : State := if (s.job j).st = .none then s.jobNotice j 0 else s

/-- The resources of a fettle are wiped, its end is posted, and jobs that it took to NONE are reported. -/
def State.fettleScope (s : State) (x : FettleScope) : State :=
  match x with
  | .job n =>
    let j : Fin 8 := Fin.ofNat 8 n
    if (s.job j).st = .killed then ((s.fettleJob j).endNotice j).fettleNotice (j.val + 1) else s
  | .hold n =>
    let j : Fin 8 := Fin.ofNat 8 n
    if (s.job j).hold then ((s.fettleHold j).endNotice j).fettleNotice (j.val + 1) else s
  | .store => s.wipeStore.fettleNotice 0
  | .hbm => s.fettleHbm.fettleNotice 0
  | .whole => s.fettleModule.fettleNotice 0

/-- A fettle of a job waits for the quarantine, and for the capture of a job that permits it (R497). -/
def State.fettleDue (s : State) (x : FettleScope) : Bool :=
  match x with
  | .job n => let b := s.job (Fin.ofNat 8 n); decide (b.st ≠ .killed) || (b.inForce.isSome && (b.captured || !b.capture))
  | _ => true

/-- The module resets 100 ms from now (R488, R492). -/
def State.resetSoon (s : State) : State := { s with mp := { s.mp with resetAt := some (s.now + 10 ^ 8) } }

/-- The fuse writes of a transition, in order (R492): those of decommissioning are the four bits of the flag, then the device secret.
[DESIGN CHOICE: log entry 92] -/
def FettleAct.writes (a : FettleAct) : List (Fuses → Fuses) :=
  match a with
  | .none => []
  | .deploy d => [fun f => { f with owner := some d }, fun f => { f with lc := 2 }]
  | .rma => [fun f => { f with lc := 3 }]
  | .decommission =>
    [1, 2, 4, 8].map (fun (b : BitVec 4) (f : Fuses) => ({ f with decom := f.decom ||| b } : Fuses)) ++
      [fun (f : Fuses) => ({ f with secret := BitVec.allOnes 256 } : Fuses)]
  | .level _ => []

/-- Fuses after the first `n` writes of a transition. -/
def Fuses.blown (f : Fuses) (a : FettleAct) (n : Nat) : Fuses := (a.writes.take n).foldl (fun f w => w f) f

/-- Fuses are blown, and the module will reset; an unlock level changes (R492, R496).
[DESIGN CHOICE: log entry 92] -/
def State.afterFettle (s : State) (a : FettleAct) : State :=
  match a with
  | .none => s
  | .level n => { s with sec := { s.sec with level := n } }
  | a => ({ s with sec := { s.sec with fuses := s.sec.fuses.blown a a.writes.length } } : State).resetSoon

/-- The response of a command that a fettle completes: the time of FETTLE_DONE, the owner key digest of DEPLOY, or nothing. -/
def FettleAct.response (a : FettleAct) (now : Nat) : List Byte :=
  match a with
  | .none => leBytes 8 now
  | .deploy d => leBytes 48 d.toNat
  | .rma => []
  | .decommission => []
  | .level _ => []

/-- A package position. -/
def CorePos.package (p : CorePos) : Nat := 272 * p.die.val + 16 * p.prow.toNat + p.pcol.toNat

/-- The package positions of a list; rows are numbered 0 to 16 (R292). -/
def packageOf (ps : List CorePos) : List Nat := (ps.filter (fun p => decide (p.prow.toNat ≤ 16))).map CorePos.package

/-- The core of a package position is wiped and verified by a fettle of that scope (Table 16-12).
[DEDUCED: log entry 75] -/
def State.fettleCovers (s : State) (x : FettleScope) (q : Nat) : Bool :=
  match x with
  | .job n =>
    let b := s.job (Fin.ofNat 8 n)
    decide (b.st = .killed) && b.cores.any (fun c => s.coreAt q == some c.1)
  | .whole => s.healthy (q / 272) (q % 272)
  | _ => false

/-- A core fails the read-back or the tests of its vector engine: a logical core becomes a retirement candidate, a riser a
retired core at once; a record of severity deferred says so (R156, R503, Table 10-4). [DEDUCED: log entry 75] -/
def State.fettleFails (s : State) (q : Nat) : State :=
  let x := dieEvent 1 0x0308 16 (q / 272) (q % 272) 0
  match s.coreAt q with
  | some id =>
    let c := s.core id
    (({ s with errs := { s.errs with candidates := nins s.errs.candidates q } } : State).setCore id
      { c with ve := { c.ve with failed := true, restr := true } }).log { x with core := some id }
  | none => (({ s with mp := { s.mp with retiredCores := nins s.mp.retiredCores q } } : State).mapMap (q / 272) (fun m =>
      { m with cret := if nhas m.nret (q % 272) then m.cret else nins m.cret (q % 272) })).log x

/-- Every part of the first fettle is done; the cores of its scope that failed do not delay it (R503). The fettle of the boot
ends stage G (Table 17-1). [DEDUCED: log entries 39, 75] -/
def execFettleDone (failed : List CorePos) (s : State) : Out :=
  match s.mp.fettles with
  | [] => .next s
  | f :: fs =>
    if !s.fettleDue f.scope then .next s
    else
      let qs := (packageOf failed).filter (s.fettleCovers f.scope)
      let s := ({ s with mp := { s.mp with fettles := fs } } : State).fettleScope f.scope
      let s := qs.foldl State.fettleFails s
      let s := if s.board.stage = .f ∧ f.scope = .whole then { s with board := { s.board with stage := .g } } else s
      match f.src with
      | some src =>
        .next (if (s.box src).st = .running then (s.afterFettle f.act).complete src 0 0 (f.act.response s.now) else s)
      | none => .next s

/-! ### FETTLE (R501, R504, R506) -/

/-- A fettle begins, or waits for the one that runs: VG.RESTR of the cores it covers is set (R156, R503). -/
def State.addFettle (s : State) (f : FettleRun) : State :=
  let covers (id : Nat) : Bool := match f.scope with
    | .job n => (s.job (Fin.ofNat 8 n)).cores.any (fun x => x.1.toNat == id)
    | .whole => true
    | _ => false
  { s with
    mp := { s.mp with fettles := s.mp.fettles ++ [f] }
    board := { s.board with veTested := s.board.veTested && decide (f.scope ≠ .whole) }
    cores := s.cores.map (fun x => (x.1, if covers x.1 then { x.2 with ve := { x.2.ve with restr := true } } else x.2)) }

/-- The fettle of a scope that is already due takes the command; without one it begins. -/
def State.askFettle (s : State) (scopes : List FettleScope) (f : FettleRun) : State :=
  if s.mp.fettles.any (fun g => scopes.any (fun x => decide (g.scope = x)) && g.src.isNone) then
    { s with mp := { s.mp with fettles := s.mp.fettles.map (fun g =>
        if scopes.any (fun x => decide (g.scope = x)) && g.src.isNone then { g with src := f.src } else g) } }
  else s.addFettle f

/-- The BMC, or an owner of the job. -/
def State.mayFettle (s : State) (src : Source) (j : Fin 8) : Bool :=
  match src with
  | .bmc => true
  | .host n => (s.job j).owners.getLsbD n
  | .fm _ => false

/-- FETTLE with SCOPE 0: of a killed job, whose own fettle it waits for, or of its capture window (R501). -/
def execFettleJob (src : Source) (job : BitVec 8) (s : State) : Out :=
  mpCmd src (reqFettle 0 (some job)) (fun s =>
    match s.jobNamed job with
    | none => denied s 19
    | some j =>
      if (s.job j).st ≠ .killed then denied s 19
      else if !s.mayFettle src j then denied s 1
      else
        let n := j.val
        waiting (if (s.job j).hold then s.askFettle [.hold n] { scope := .hold n, src := some src }
          else s.askFettle [.job n] { scope := .job n, src := some src })) s

/-- No job is loaded but the named one in capture hold (R501, Table 15-12). -/
def State.fettleFree (s : State) (src : Source) : Bool :=
  let named := (s.box src).job.toNat
  (List.finRange 8).all (fun j => decide ((s.job j).st = .none) || ((s.job j).hold && decide (named = j.val + 1)))

/-- FETTLE with SCOPE 1 or 2. -/
def fettleWide (src : Source) (scope : FettleScope) (act : Nat) (s : State) : Out :=
  mpCmd src (reqFettle act none) (fun s =>
    if !s.fettleFree src then denied s 11 else waiting (s.addFettle { scope := scope, src := some src })) s

/-- FETTLE of all external memory. -/
def execFettleAllHbm (src : Source) (s : State) : Out := fettleWide src .hbm 1 s

/-- FETTLE of the module. [DESIGN CHOICE: log entry 74] -/
def execFettleModule (src : Source) (s : State) : Out := fettleWide src .whole 2 s

end Sys2Proof.Machine
end

