-- ==== Sys2Proof/Machine/HbmRows.lean ====
section
/-! DEFINITION. Patrol scrub and failures of external memory: rows and pseudo-channels that become candidates (R277, R278,
R280 to R282, R517). -/

namespace Sys2Proof.Machine

/-- The patrol scrub reads a line of its stack (R278). -/
def execHbmPatrolScrub (stack : Fin 16) (addr : BitVec 40) (finding : HbmFinding) (s : State) : Out :=
  let a := addr.toNat
  if a % 256 ≠ 0 ∨ (s.pchAt a).1 % 16 ≠ stack.val ∨ s.hbmLimit ≤ a then .next s else .next (s.hbmMeet a 256 finding)

/-- A pseudo-channel fails while a job runs: every read of it returns poison, the failure is fatal to every loaded job, and
the pseudo-channel becomes a candidate (R282). -/
def execPchFail (pch : BitVec 10) (s : State) : Out :=
  if !s.anyJob ∨ s.board.pchRetired = some pch ∨ nhas s.board.pchFailed pch.toNat then .next s
  else
    let s := { s with board := { s.board with pchFailed := nins s.board.pchFailed pch.toNat } }
    .next ((s.logJobs (s.hbmEvent 2 0x0205 (256 * pch.toNat))).channelCandidate pch)

end Sys2Proof.Machine
end

