-- ==== Sys2Proof/Machine/ConfigCmd.lean ====
section
/-! DEFINITION. Commands on the module's identity, its register blocks and configuration sets: DEV_INFO, HEALTH, CFG_GET,
CFG_WRITE_SHADOW, the swaps, POWER_CAP, CLOCK_MODE, PHASE_TABLE, PORT_CTL, ROUTE_TABLE and ERR_LOG (R416, R420, R427, R466 to
R471, R475, R476, R514). -/

namespace Sys2Proof.Machine

/-! ### Identity and health -/

/-- The eight characters of an ordering code. -/
def codeText (c : OrderingCode) : List Byte :=
  let d : Byte × Byte := match c with | .s3 => (0x53, 0x33) | .s2 => (0x53, 0x32) | .a3 => (0x41, 0x33) | .a2 => (0x41, 0x32)
  [0x4B, 0x57, 0x32, 0x2D, d.1, d.2, 0, 0]

/-- The running firmware version of an MP (Table 16-2). -/
def State.fwVersion (s : State) (mp : Fin 2) : Nat :=
  match s.sec.images.running[mp] with
  | some k => match s.sec.images.slots[mp][k] with | some image => word32At image 0x10 | none => 0
  | none => 0

/-- The response of DEV_INFO (Table 15-12). Modules are numbered from the routing table; 0xFFFF_FFFF stands for none while no
port has a role. -/
def State.devInfo (s : State) : List Byte :=
  let number := if s.active.route.roles.all (fun w => bitsAt w.toNat 30 2 == 0) && s.self == 0 then 0xFFFFFFFF else s.self.toNat
  codeText s.ident.code ++ leBytes 16 s.ident.serial.toNat ++
    wordBytes [3, 32 * perDie s.ident.code, spmBytes s.ident.code, if s.board.pchRetired.isSome then 1023 else 1024, number,
      s.fwVersion 0, s.fwVersion 1, b2n s.mp.needRet + b2n s.mp.activeB * 2 + b2n s.mp.standbyLost * 4,
      Config.pciVendor.toNat]

/-- DEV_INFO (R476). [DEDUCED: log entry 79] -/
def execDevInfo (src : Source) (s : State) : Out := mpCmd src reqDevInfo (fun s => okWith s s.devInfo) s

/-- The first index at which a function of `n` numbers takes its greatest value. -/
def argMax (f : Nat → Nat) : Nat → Nat
  | 0 => 0
  | n + 1 => let k := argMax f n; if f k < f n then n else k

/-- The first index at which it takes its least. -/
def argMin (f : Nat → Nat) : Nat → Nat
  | 0 => 0
  | n + 1 => let k := argMin f n; if f n < f k then n else k

/-- The response of HEALTH (Table 15-12); a pending retirement of a pseudo-channel is reported like one in effect (R281). -/
def State.health (s : State) : List Byte :=
  let tj (d : Nat) : Nat := (s.power.dies[Fin.ofNat 40 d]).tj.toNat
  let hot := argMax tj 40
  let free (d : Nat) : Nat := (s.freeRisers d).length
  let few := argMin free 32
  let active := (List.finRange 48).filter (fun p => decide ((s.port p).st = .active))
  let four (f : Port → Byte) : Nat := (active.filter (fun p => lanesIn (f (s.port p)) == 4)).length
  wordBytes ([s.mstate.toNat, tj hot + hot * 256, s.pwrstat, s.flState, free few + few * 2 ^ 16,
      match s.board.pchRetired.or s.board.pchCand with | some x => x.toNat | none => 0xFFFF, s.ageEol] ++ s.errs.counts.toList ++
    [active.length, four (fun p => p.rxLanes) + four (fun p => p.txLanes)])

/-- HEALTH (R476). [DEDUCED: log entry 79] -/
def execHealth (src : Source) (s : State) : Out := mpCmd src reqHealth (fun s => okWith s s.health) s

/-! ### Register blocks -/

/-- CFG_GET (R475): words of a block from one snapshot; with CLR the fields of access RC are cleared. -/
def execCfgGet (src : Source) (block : BitVec 8) (copy : Bool) (clr : Bool) (offset : BitVec 32) (words : BitVec 32)
    (s : State) : Out :=
  mpCmd src (reqCfgGet block copy clr offset words) (fun s =>
    let b := block.toNat
    let o := offset.toNat
    let n := words.toNat
    if !blockAssigned b then badArg s 0
    else if o % 4 ≠ 0 then badArg s 4
    else if n = 0 ∨ 1024 < n then badArg s 8
    else okWith (if clr then s.blockClears b o n else s) (wordBytes (s.blockWords copy b o n))) s

/-- While a CFG_SWAP_AT is pending these commands are denied with its SEQ (R471). -/
def unlessPending (f : State → Reply) (s : State) : Reply :=
  match s.mp.swap with
  | some w => denied s w.seq.toNat
  | none => f s

/-- CFG_WRITE_SHADOW (R467): fields of the shadow set, all or nothing. -/
def execCfgWriteShadow (src : Source) (block : BitVec 8) (copy : Bool) (offset : BitVec 32) (data : List (BitVec 32))
    (s : State) : Out :=
  mpCmd src (reqCfgWrite block copy offset data) (unlessPending (fun s =>
    let b := block.toNat
    if !blockAssigned b || !copy then badArg s 0
    else if offset.toNat % 4 ≠ 0 then badArg s 4
    else if data = [] ∨ 1005 < data.length then badArg s 8
    else
      match shadowWrite s.ident.code s.shadow b data offset.toNat 12 with
      | .inl c => okWith { s with shadow := c } []
      | .inr arg => badArg s arg)) s

/-! ### Swaps -/

/-- The first register of a block's list that differs between the two sets. -/
def firstDiff (n : Nat) (a b : ConfigSet) : List (Nat × CfgReg) → Option Nat
  | [] => none
  | (o, r) :: rs => if r.get n a = r.get n b then firstDiff n a b rs else some o

/-- The registers of the core map of a die, with their offsets. -/
def mapRegs (d : Nat) : List (Nat × CfgReg) :=
  (List.range 256).map (fun i => (4 * i, .remap d i)) ++ (List.range 9).map (fun w => (0x400 + 4 * w, .cret d w)) ++
    (List.range 9).map (fun w => (0x440 + 4 * w, .nret d w))

/-- The first field that may not change while a job is loaded and differs between the sets: its block × 2^24 and its offset
(R468). -/
def State.swapBars (s : State) : Option Nat :=
  let a := s.active
  let b := s.shadow
  let n := perDie s.ident.code
  let clk (w : Word) : Nat := w.toNat &&& 0x0C600000
  let dies := (List.range 32).filterMap (fun d =>
    if a.map n d = b.map n d then none else (firstDiff n a b (mapRegs d)).map (fun o => (d + 1) * 2 ^ 24 + o))
  if clk a.clkplan ≠ clk b.clkplan then some 4
  else
    match dies with
    | x :: _ => some x
    | [] =>
      if a.route.self ≠ b.route.self then some (0x21 * 2 ^ 24 + 0x11140)
      else if a.anchor ≠ b.anchor then some (0x31 * 2 ^ 24 + 4)
      else none

/-- The swap changes the routing table or the relocation list. -/
def State.swapRoutes (s : State) : Bool := decide (s.active.route ≠ s.shadow.route)

/-- When the grace period of the last swap that changed a routing table ends (R361). -/
def State.graceEnd (s : State) : Nat :=
  match s.switch.swapAt with
  | some t => t + s.active.route.grace.toNat * 1000
  | none => 0

/-- What stands at the positions of a die stays there when its table changes: each index reaches what its new position holds
(R303). [DEDUCED: log entry 134] -/
def State.carryCores (s : State) (was : ConfigSet) : State :=
  let n := perDie s.ident.code
  let cores := s.cores
  (List.range 32).foldl (fun t d =>
    let old := (was.map n d).remap
    let new := (s.active.map n d).remap
    if old = new then t
    else
      let from_ (p : Nat) : Option Core :=
        (old.find? (fun y => y.2 == p)).bind (fun y => (cores.find? (fun c => c.1 == 256 * d + y.1)).map (fun c => c.2))
      let blank : State := { t with cores := t.cores.filter (fun c => c.1 / 256 != d) }
      new.foldl (fun t x => match from_ x.2 with | some c => t.setCore (BitVec.ofNat 13 (256 * d + x.1)) c | none => t) blank) s

/-- The shadow set becomes active in one step, and the shadow set a copy of it (R360, R468, R469).
[DEDUCED: log entry 82] -/
def State.swapSets (s : State) : State :=
  let was := s.active
  let routes := s.swapRoutes
  let s := ({ s with active := s.shadow, lastSet := s.active } : State).carryCores was
  let s := if routes then
      { s with switch := { s.switch with ep := !s.switch.ep, previous := some was.route, swapAt := some s.now } }
    else s
  (s.follow was).log (noticeEvent 0x0801 0 [])

/-- CFG_SWAP (R361, R468, R471). -/
def execCfgSwap (src : Source) (s : State) : Out :=
  mpCmd src reqCfgSwap (unlessPending (fun s =>
    if s.swapRoutes ∧ s.now < s.graceEnd then notReady s 2
    else
      match (if s.anyJob then s.swapBars else none) with
      | some x => denied s x
      | none => okWith s.swapSets (leBytes 8 s.now))) s

/-- The cancel of a pending swap (R471): the cancel returns OK, and the pending command is denied with its SEQ. -/
def State.cancelSwap (s : State) (src : Source) : State :=
  match s.mp.swap with
  | some w => ({ s with mp := { s.mp with swap := none } } : State).complete w.src 4 (s.seqOf src) []
  | none => s

/-- CFG_SWAP_AT (R470): the swap is pending until its time. -/
def execCfgSwapAt (src : Source) (t : BitVec 64) (s : State) : Out :=
  mpCmd src (reqCfgSwapAt t) (fun s =>
    if t = 0 then okWith (s.cancelSwap src) (leBytes 8 0)
    else
      unlessPending (fun s =>
        let a := (s.box src).arrival
        if t.toNat < a + 10 ^ 6 ∨ a + 10 ^ 10 < t.toNat then badArg s 0
        else if s.swapRoutes ∧ t.toNat < s.graceEnd then badArg s 0
        else if s.active.role ≠ 1 ∧ !s.time.locked then notReady s 1
        else waiting { s with mp := { s.mp with swap := some { time := t.toNat, src := src, seq := (s.box src).seq } } }) s) s

/-- CFG_SWAP_AT with T = 0 (R471). -/
def execCfgSwapCancel (src : Source) (s : State) : Out :=
  mpCmd src (reqCfgSwapAt 0) (fun s => okWith (s.cancelSwap src) (leBytes 8 0)) s

/-- The time of a pending swap comes: the swap is made, or denied under R468, and its command completes (R470). -/
def execSwapAtTime (s : State) : Out :=
  match s.mp.swap with
  | none => .next s
  | some w =>
    let s := { s.wait w.time with mp := { s.mp with swap := none } }
    match (if s.anyJob then s.swapBars else none) with
    | some x => .next (s.complete w.src 4 x [])
    | none => .next (s.swapSets.complete w.src 0 0 (leBytes 8 w.time))

/-! ### Power and clocks -/

/-- POWER_CAP (R420, R421). [DEDUCED: log entry 79] -/
def execPowerCap (src : Source) (cap : BitVec 16) (window : BitVec 8) (s : State) : Out :=
  mpCmd src (reqPowerCap cap window) (fun s =>
    let v := window.toNat * 65536 + cap.toNat
    let old := s.active.pcap
    if !capOk s.ident.code v then badArg s 0
    else
      let w := BitVec.ofNat 32 v
      let s := { s with lastSet := s.active, active := { s.active with pcap := w }, shadow := { s.shadow with pcap := w } }
      okWith ((s.log (powerEvent 0 0x0609 [w, old])).changeNotice src []) (leBytes 4 old.toNat)) s

/-- Bits that a mask selects come from a new value. -/
def mergeBits (old new mask : Word) : Word := (old &&& ~~~mask) ||| (new &&& mask)

/-- CLOCK_MODE (R416, R432, R439): masked fields of the clock plan, in both sets; FIXNOW is FIXPT again.
[DEDUCED: log entry 80] -/
def execClockMode (src : Source) (value : BitVec 32) (mask : BitVec 32) (s : State) : Out :=
  mpCmd src (reqClockMode value mask) (fun s =>
    let old := s.active.clkplan
    let prior := old.toNat ||| (if s.power.fallback then 2 ^ 31 else 0)
    let new := mergeBits old value mask
    let bits := CfgReg.bits .clkplan
    if value.toNat &&& bits ≠ value.toNat ∨ !clkOk new.toNat then badArg s 0
    else if mask.toNat &&& bits ≠ mask.toNat then badArg s 4
    else if s.anyJob ∧ (old ^^^ new) &&& 0x0C600000 ≠ 0 then denied s 4
    else
      let s := { s with
        lastSet := s.active, active := { s.active with clkplan := new }, shadow := { s.shadow with clkplan := mergeBits s.shadow.clkplan value mask }
        power := { s.power with fixnow := BitVec.ofNat 2 (new.toNat / 2 ^ 29), fallback := false } }
      okWith ((s.wakeEngines old).changeNotice src []) (leBytes 4 prior)) s

/-- An entry of a phase table as its 8 bytes (Table 15-12). -/
def PhaseEntry.bytes (x : PhaseEntry) : List Byte :=
  leBytes 2 x.demand.toNat ++ leBytes 2 x.static.toNat ++ leBytes 2 x.dur.toNat ++ [x.next, x.cnt]

/-- The entry of 8 bytes. -/
def PhaseEntry.ofNat (v : Nat) : PhaseEntry :=
  { demand := BitVec.ofNat 16 v, static := BitVec.ofNat 16 (v / 2 ^ 16), dur := BitVec.ofNat 16 (v / 2 ^ 32),
    next := BitVec.ofNat 8 (v / 2 ^ 48), cnt := BitVec.ofNat 8 (v / 2 ^ 56) }

/-- The phase tables of `n` dies from `d` on. -/
def Power.phaseBytes (p : Power) (d n : Nat) : List Byte :=
  (List.range (256 * n)).flatMap (fun i => (p.entry d i).bytes)

/-- The phase table of a die from its 2,048 bytes. -/
def Power.loadPhases (p : Power) (d : Nat) (data : List Byte) : Power :=
  { p with phases := (List.range 256).foldl (fun t i => tset t (256 * d + i) (PhaseEntry.ofNat (word64At data (8 * i)))) p.phases }

/-- The phase tables of all dies, or of one, cleared. -/
def Power.clearPhases (p : Power) (d : Option Nat) : Power :=
  match d with
  | none => { p with phases := [] }
  | some d => { p with phases := p.phases.filter (fun x => decide (x.1 / 256 ≠ d)) }

/-- PHASE_TABLE read (R427). -/
def execPhaseTableRead (src : Source) (die : BitVec 8) (ndie : BitVec 2) (s : State) : Out :=
  mpCmd src (reqPhaseRead die ndie) (fun s =>
    if ndie = 0 ∨ ndie = 3 ∨ 40 < die.toNat + ndie.toNat then badArg s 0
    else okWith s (s.power.phaseBytes die.toNat ndie.toNat)) s

/-- PHASE_TABLE load, by an owner of the job (R427, R429). -/
def execPhaseTableLoad (src : Source) (job : BitVec 8) (die : BitVec 8) (ndie : BitVec 2) (data : List Byte) (s : State) : Out :=
  mpCmd src (reqPhaseLoad job die ndie data) (withJob job (fun _ s =>
    if ndie ≠ 1 ∨ 40 ≤ die.toNat then badArg s 0
    else if data.length ≠ 2048 then badArg s 4
    else if s.power.untrust then denied s 5
    else okWith { s with power := s.power.loadPhases die.toNat data } [])) s

/-- PHASE_TABLE clear (R427). -/
def execPhaseTableClear (src : Source) (die : BitVec 8) (s : State) : Out :=
  mpCmd src (reqPhaseClear die) (fun s =>
    if die = 0xFF then okWith { s with power := s.power.clearPhases none } []
    else if 40 ≤ die.toNat then badArg s 0
    else okWith { s with power := s.power.clearPhases (some die.toNat) } []) s

/-! ### Ports and routes -/

/-- The settings of a port in both sets (R467). -/
def State.setPort (s : State) (port : Fin 48) (f : PortCfg → PortCfg) : State :=
  let g (c : ConfigSet) : ConfigSet := { c with ports := c.ports.set port (f c.ports[port]) }
  { s with lastSet := s.active, active := g s.active, shadow := g s.shadow }

/-- The response of PORT_CTL: PCTL and PSTAT. -/
def State.portReply (s : State) (port : Fin 48) : List Byte :=
  wordBytes [CfgReg.get 256 s.active (.pctl port), (s.port port).pstat]

/-- PORT_CTL changes a setting of a port, which follows at once (R348, R466). -/
def portSet (src : Source) (port : Fin 48) (q : Request) (bad : Bool) (f : PortCfg → PortCfg) (s : State) : Out :=
  mpCmd src q (fun s =>
    if bad then badArg s 4
    else
      let was := s.active.ports[port]
      let s := s.setPort port f
      let s := (s.enablePort port was s.active.ports[port]).changeNotice src []
      okWith s (s.portReply port)) s

/-- PORT_CTL disable (R322). -/
def execPortDisable (src : Source) (port : Fin 48) (s : State) : Out :=
  portSet src port (reqPort port 0 none) false (fun c => { c with en := false }) s

/-- PORT_CTL enable (R322). -/
def execPortEnable (src : Source) (port : Fin 48) (s : State) : Out :=
  portSet src port (reqPort port 1 none) false (fun c => { c with en := true }) s

/-- A port whose lanes that were held out train again, each alone (R345A). -/
def Port.readmit (p : Port) : Port :=
  { p with lanes := Vector.ofFn (fun k =>
      let x := p.lanes[k]
      if x.heldOut then
        { x with heldOut := false, removals := [], fails := 0
                 st := if x.st = .disabled ∧ p.laneen.getLsbD k ∧ p.st ≠ .disabled then .reset else x.st }
      else { x with removals := [] }) }

/-- PORT_CTL LANEEN (R348), or its action 6, which readmits the lanes that are held out (R345A).
[DEDUCED: log entry 80] -/
def execPortSetLaneen (src : Source) (port : Fin 48) (readmit : Bool) (value : BitVec 32) (s : State) : Out :=
  if readmit then mpCmd src (reqPort port 6 none) (fun s => let s := s.mapPort port Port.readmit; okWith s (s.portReply port)) s
  else portSet src port (reqPort port 3 (some value)) (decide (255 < value.toNat)) (fun c => { c with laneen := BitVec.ofNat 8 value.toNat }) s

/-- PORT_CTL TXPRE of the lane in VALUE[11:8]; a write of a reserved preset code, 8 to 15, is ignored whole (R319). -/
def execPortSetTxpre (src : Source) (port : Fin 48) (value : BitVec 32) (s : State) : Out :=
  let lane := value.toNat / 256
  let pre := value.toNat % 256
  portSet src port (reqPort port 4 (some value)) (decide (8 ≤ lane ∨ 16 ≤ pre))
    (fun c => if 8 ≤ pre then c else { c with txpre := c.txpre.set (Fin.ofNat 8 lane) (BitVec.ofNat 4 pre) }) s

/-- PORT_CTL MSHARE (R339). -/
def execPortSetMshare (src : Source) (port : Fin 48) (value : BitVec 32) (s : State) : Out :=
  portSet src port (reqPort port 5 (some value)) (decide (255 < value.toNat)) (fun c => { c with mshare := BitVec.ofNat 8 value.toNat }) s

/-- PORT_CTL retrain (R324). -/
def execPortCtlRetrain (src : Source) (port : Fin 48) (s : State) : Out :=
  mpCmd src (reqPort port 2 none) (fun s =>
    let s := s.mapPort port (fun p => { p with retrainDue := p.retrainDue || decide (p.st = .active) })
    okWith s (s.portReply port)) s

/-- The masks of a group in a routing table. -/
def RouteTable.setGroup (t : RouteTable) (g : Nat) (m : RouteMasks) : RouteTable :=
  { t with minimal := putEntry t.minimal g (m.minLo.toNat + m.minHi.toNat * 2 ^ 32)
           nonMinimal := putEntry t.nonMinimal g (m.nmLo.toNat + m.nmHi.toNat * 2 ^ 32) }

/-- The groups of a ROUTE_TABLE write, in order; the offset of the first reserved bit that is set. -/
def putGroups (t : RouteTable) (g arg : Nat) : List RouteMasks → RouteTable ⊕ Nat
  | [] => .inl t
  | m :: ms =>
    if 65536 ≤ m.minHi.toNat then .inr (arg + 4)
    else if 65536 ≤ m.nmHi.toNat then .inr (arg + 12)
    else putGroups (t.setGroup g m) (g + 1) (arg + 16) ms

/-- ROUTE_TABLE write: the masks of groups in the shadow table (R467). -/
def execRouteTableWrite (src : Source) (first : BitVec 32) (groups : List RouteMasks) (s : State) : Out :=
  mpCmd src (reqRouteWrite first groups) (unlessPending (fun s =>
    if 256 ≤ first.toNat then badArg s 4
    else if groups = [] ∨ 251 < groups.length ∨ 256 < first.toNat + groups.length then badArg s 8
    else
      match putGroups s.shadow.route first.toNat 12 groups with
      | .inl t => okWith { s with shadow := { s.shadow with route := t } } []
      | .inr arg => badArg s arg)) s

/-- ROUTE_TABLE query: the active routes toward a module (R476). -/
def execRouteTableQuery (src : Source) (dmod : BitVec 32) (s : State) : Out :=
  mpCmd src (reqRouteQuery dmod) (fun s =>
    if 8192 ≤ dmod.toNat then badArg s 4
    else
      let t := s.active.route
      let m : ModuleId := BitVec.ofNat 13 dmod.toNat
      let g := groupOf m
      let w := t.loc[indexOf m]
      let local_ := if g = groupOf s.self ∧ w.getLsbD 31 then w.toNat % 64 else 0xFF
      okWith s (leBytes 8 (tget t.minimal 0 g) ++ leBytes 8 (tget t.nonMinimal 0 g) ++ leBytes 4 local_)) s

/-! ### The log -/

/-- ERR_LOG (R514): up to COUNT entries of at least MINSEV from START on, the first index held from there on, and, with
CLEAR, every entry below START discarded. [DEDUCED: log entry 89] -/
def execErrLog (src : Source) (start : BitVec 32) (count : BitVec 6) (minsev : BitVec 2) (clear : Bool) (s : State) : Out :=
  mpCmd src (reqErrLog start count minsev clear) (fun s =>
    if count = 0 then badArg s 4
    else
      let held := s.errs.log.filter (fun r => decide (start ≤ r.idx))
      let out := (held.filter (fun r => decide (minsev ≤ r.sev))).take count.toNat
      let next := match held with | r :: _ => r.idx | [] => s.errs.next
      let s := if clear then { s with errs := { s.errs with log := held } } else s
      okWith s (wordBytes [next.toNat, out.length] ++ List.replicate 0x38 0 ++ out.flatMap (fun r => r.bytes))) s

end Sys2Proof.Machine
end

