-- ==== Sys2Proof/Machine/JobLoad.lean ====
section
/-! DEFINITION. JOB_LOAD: the job image, the regions of a request, the core map's pending changes, and the job that comes of
them (R6, R279, R281, R304 to R308, R364, R368, R374, R427, R472, R477, R500). -/

namespace Sys2Proof.Machine

/-! ### The job image -/

/-- What an image names. -/
structure JobImage where
  code : List Byte
  /-- Cores: number, QUEUED, entry PC. -/
  cores : List (CoreId × Bool × Word)
  peers : List ModuleId
  contexts : List RedCtx
  phases : List (List Byte)
  /-- The types of the sections read. -/
  seen : List Nat

def JobImage.empty : JobImage := { code := [], cores := [], peers := [], contexts := [], phases := [], seen := [] }

/-- DETAIL of a field of the image (Table 15-6). -/
def imgAt (o : Nat) : Nat := 2 ^ 31 + o

/-- The k-th entry of a core section at `o`: CORE_ID [12:0] and QUEUED [16], the entry PC, and two words of zeros. The core must
be assigned, not named twice, and no other job's; the PC is a multiple of 4. -/
def coreEntry (s : State) (x : List Byte) (o : Nat) (done : List (CoreId × Bool × Word)) : Option (CoreId × Bool × Word) :=
  let w := word32At x o
  let pc := word32At x (o + 4)
  let id : CoreId := BitVec.ofNat 13 w
  if w &&& 0x11FFF ≠ w ∨ pc % 4 ≠ 0 ∨ word64At x (o + 8) ≠ 0 then none
  else if !s.assigned id || done.any (fun y => y.1 == id) || (s.jobOf id).isSome then none
  else some (id, w.testBit 16, BitVec.ofNat 32 pc)

/-- `n` core entries from `o` on; the offset of the first that fails. -/
def coreEntries (s : State) (x : List Byte) (o : Nat) : Nat → Except Nat (List (CoreId × Bool × Word))
  | 0 => .ok []
  | n + 1 =>
    match coreEntries s x o n with
    | .error e => .error e
    | .ok l => match coreEntry s x (o + 16 * n) l with | some y => .ok (l ++ [y]) | none => .error (imgAt (o + 16 * n))

/-- A reduction context from its 256-byte register image (Table 12-7). -/
def contextOf (x : List Byte) (job : Nat) : RedCtx :=
  let w (o : Nat) : Nat := word32At x o
  let ctl := if bitsAt (w 0) 8 2 = 3 then 0 else w 0
  { RedCtx.reset with
    en := ctl.testBit 31, pkg := ctl.testBit 29, fmt := BitVec.ofNat 2 (ctl / 256), nm1 := BitVec.ofNat 5 ctl
    wbase := BitVec.ofNat 32 (w 4), wlimit := BitVec.ofNat 32 (w 8), spbase := BitVec.ofNat 32 (w 0x10)
    spsize := BitVec.ofNat 32 (w 0x14), rltmo := BitVec.ofNat 24 (w 0x18)
    con := Vector.ofFn (fun i => BitVec.ofNat 32 (w (0x40 + 4 * i.val) &&& 0x80001FFF)), job := job }

/-- Two enabled contexts have windows that overlap (R374). -/
def RedCtx.overlaps (a b : RedCtx) : Bool := a.en && b.en && a.pkg == b.pkg && decide (a.wbase < b.wlimit ∧ b.wbase < a.wlimit)

/-- `n` context images from `o` on, beside the contexts in force; format 3 and overlapping windows are refused. -/
def contextImages (held : List RedCtx) (x : List Byte) (o job : Nat) : Nat → Except Nat (List RedCtx)
  | 0 => .ok []
  | n + 1 =>
    match contextImages held x o job n with
    | .error e => .error e
    | .ok l =>
      let c := contextOf ((x.drop (o + 256 * n)).take 256) job
      if (held ++ l).any (fun y => c.overlaps y) then .error (imgAt (o + 256 * n)) else .ok (l ++ [c])

/-- `n` module numbers from `o` on. -/
def peerEntries (x : List Byte) (o : Nat) : Nat → Except Nat (List ModuleId)
  | 0 => .ok []
  | n + 1 =>
    match peerEntries x o n with
    | .error e => .error e
    | .ok l =>
      let v := leNat ((x.drop (o + 2 * n)).take 2)
      if 8192 ≤ v then .error (imgAt (o + 2 * n)) else .ok (l ++ [BitVec.ofNat 13 v])

/-- The contexts that hold no job's image. -/
def State.freeContexts (s : State) : List (Fin 16) := (List.finRange 16).filter (fun x => decide ((s.redCtx x).job = 0))

/-- One section: its entry at `eo`, its content added to what the image names. -/
def jobSection (s : State) (r : JobLoadReq) (job : Nat) (eo : Nat) (img : JobImage) : Except Nat JobImage :=
  let x := r.image
  let typ := word32At x eo
  let off := word32At x (eo + 4)
  let len := word32At x (eo + 8)
  let cnt := word32At x (eo + 12)
  let img := { img with seen := img.seen ++ [typ] }
  if typ < 1 ∨ 5 < typ ∨ 1 < (img.seen.filter (fun y => y == typ)).length then .error (imgAt eo)
  else if x.length < off + len then .error (imgAt (eo + 4))
  else
    match typ with
    | 1 => if r.codesize.toNat < len then .error (imgAt (eo + 8)) else .ok { img with code := (x.drop off).take len }
    | 2 =>
      if len ≠ 16 * cnt then .error (imgAt (eo + 8))
      else if cnt ≠ r.ncores.toNat then .error (imgAt (eo + 12))
      else match coreEntries s x off cnt with | .ok l => .ok { img with cores := l } | .error e => .error e
    | 3 =>
      if len ≠ 2 * cnt then .error (imgAt (eo + 8))
      else match peerEntries x off cnt with | .ok l => .ok { img with peers := l } | .error e => .error e
    | 4 =>
      if len ≠ 256 * cnt then .error (imgAt (eo + 8))
      else if s.freeContexts.length < cnt then .error (imgAt (eo + 12))
      else
        match contextImages (s.red.map (fun y => y.2)) x off job cnt with
        | .ok l => .ok { img with contexts := l }
        | .error e => .error e
    | _ =>
      if len ≠ 2048 * cnt then .error (imgAt (eo + 8))
      else if 40 < cnt then .error (imgAt (eo + 12))
      else .ok { img with phases := (List.range cnt).map (fun k => (x.drop (off + 2048 * k)).take 2048) }

/-- `n` sections. -/
def jobSections (s : State) (r : JobLoadReq) (job : Nat) : Nat → Except Nat JobImage
  | 0 => .ok JobImage.empty
  | n + 1 =>
    match jobSections s r job n with
    | .ok img => jobSection s r job (16 + 16 * n) img
    | .error e => .error e

/-- The image of a request: its 16-byte header of magic, version, number of sections and zeros, and its sections (R477).
[DESIGN CHOICE: log entry 57] -/
def jobImage (s : State) (r : JobLoadReq) (job : Nat) : Except Nat JobImage :=
  let x := r.image
  let n := word32At x 8
  if x.length < 16 ∨ word32At x 0 ≠ 0x494A574B then .error (imgAt 0)
  else if word32At x 4 ≠ 3 then .error (imgAt 4)
  else if x.length < 16 + 16 * n then .error (imgAt 8)
  else if word32At x 12 ≠ 0 then .error (imgAt 12)
  else
    match jobSections s r job n with
    | .error e => .error e
    | .ok img => if r.ncores ≠ 0 ∧ !img.seen.any (fun y => y == 2) then .error (imgAt 8) else .ok img

/-! ### Regions -/

/-- The external regions of a loaded job: its windows and its code; in capture hold its capture window only (R501). -/
def Job.regions (j : Job) : List (Nat × Nat) :=
  match j.st with
  | .none => []
  | _ => if j.hold then j.captureWin.map WindowReq.range else j.wins.map WindowReq.range ++ [j.code]

/-- Every region that no new region may overlap (R279, R281, R477). -/
def State.regionsHeld (s : State) : List (Nat × Nat) :=
  [(0, mpRegion), (s.hbmLimit, 2 ^ 64)] ++ s.active.bind.storeAreas ++ s.active.bind.rbAreas ++
    (List.finRange 8).flatMap (fun j => (s.job j).regions)

/-- A range overlaps one of a list. -/
def overlapsAny (rs : List (Nat × Nat)) (x : Nat × Nat) : Bool :=
  rs.any (fun r => decide (x.1 < r.2 ∧ r.1 < x.2 ∧ x.1 < x.2))

/-- The first window, counted from `w`, that fails a test. -/
def firstWin (p : WindowReq → Bool) : List WindowReq → Nat → Option Nat
  | [], _ => none
  | x :: xs, w => if p x then some (0x30 + 16 * w) else firstWin p xs (w + 1)

/-- A window lies on 64 KiB, with its limit above its base (R279). -/
def WindowReq.aligned (w : WindowReq) : Bool :=
  decide (w.base.toNat % 65536 = 0 ∧ w.limit.toNat % 65536 = 0 ∧ w.base.toNat < w.limit.toNat)

/-- The last window serves as a capture window (R500). -/
def captureOk (c : OrderingCode) (r : JobLoadReq) : Bool :=
  match r.wins.getLast? with
  | some w => w.write && w.host && !w.link && decide (w.base.toNat + r.ncores.toNat * (spmBytes c + 131072) ≤ w.limit.toNat)
  | none => false

/-- The first field of the request that fails after the image was read: overlaps, alignment, and the capture window.
[DESIGN CHOICE: log entry 67] -/
def State.regionFail (s : State) (r : JobLoadReq) : Option Nat :=
  let held := s.regionsHeld
  let code : Nat × Nat := (r.codebase.toNat, r.codebase.toNat + r.codesize.toNat)
  if overlapsAny held code then some 0x20
  else
    match firstWin (fun w => overlapsAny (code :: held) (WindowReq.range w)) r.wins 0 with
    | some o => some o
    | none =>
      match firstWin (fun w => !WindowReq.aligned w) r.wins 0 with
      | some o => some o
      | none =>
        if r.capture && !captureOk s.ident.code r then some (if r.wins = [] then 0x28 else 0x20 + 16 * r.wins.length)
        else none

/-- The fields of the request that are checked before the image (R6, R283). [DESIGN CHOICE: log entry 67] -/
def State.requestFail (s : State) (r : JobLoadReq) : Option Nat :=
  if 32 * perDie s.ident.code < r.ncores.toNat then some 0x14
  else if spmBytes s.ident.code < r.minspm.toNat then some 0x18
  else if r.codesize.toNat % 65536 ≠ 0 then some 0x1C
  else if r.codebase.toNat % 65536 ≠ 0 ∨ 2 ^ 40 < r.codebase.toNat + r.codesize.toNat then some 0x20
  else if 16 < r.wins.length then some 0x28
  else none

/-! ### The core map (R306 to R308) -/

/-- Every recorded failure of a core is a retirement of the ledger, and so is a core whose spare rows do not suffice at the
core reset of JOB_LOAD (R206). [DESIGN CHOICE: log entry 44] -/
def State.ledgerAll (s : State) : State :=
  let free (q : Nat) : Bool := match s.coreAt q with | some id => (s.jobOf id).isNone | none => true
  let short := (s.repairedAt.filter s.overRepaired).filter free
  ({ s with mp := { s.mp with retiredCores := ninsAll s.mp.retiredCores (s.errs.candidates ++ short) }
            errs := { s.errs with candidates := [] } } : State).retireNodes s.errs.nodeCandidates

/-- The cores on retired positions that no job holds. -/
def State.displaced (s : State) : List CoreId :=
  (s.mp.retiredCores.filterMap (fun q => s.coreAt q)).filter (fun id => (s.jobOf id).isNone)

/-- The indices of a list move to free risers; the first that finds none. -/
def State.moveAll (s : State) : List CoreId → Except CoreId State
  | [] => .ok s
  | id :: ids => match s.freeRiser id with | some p => (s.moveIndex id p).moveAll ids | none => .error id

/-- The dies whose map a JOB_LOAD changes, all quiet (R307). -/
def State.mapsQuiet (s : State) : Bool := s.ledgerAll.displaced.all (fun id => s.quietDie (id.toNat / 256))

/-- The changes of the core ledger take effect at JOB_LOAD (Table 10-4); the core that no riser can replace.
[DESIGN CHOICE: log entry 44] -/
def State.applyLedger (s : State) : Except CoreId State :=
  let s := s.ledgerAll.rejoin
  match s.moveAll s.displaced with
  | .ok s => .ok s.rejoin
  | .error id => .error id

/-! ### The job -/

/-- The lowest free job number (R472). -/
def State.freeJob (s : State) : Option (Fin 8) := (List.finRange 8).find? (fun j => decide ((s.job j).st = .none))

/-- A core of a new job after its core reset: held, its entry PC, mode and code size set (R64, R235, R512). -/
def State.loadedCore (s : State) (codeSize : Nat) (x : CoreId × Bool × Word) : Core :=
  { s.afterReset x.1 (Core.reset.mapR 0 (fun r => { r with pc := x.2.2 })) with queued := x.2.1, codeSize := codeSize }

/-- A list by rising CORE_ID. -/
def insertCore (x : CoreId × Bool × Word) : List (CoreId × Bool × Word) → List (CoreId × Bool × Word)
  | [] => [x]
  | y :: ys => if x.1 < y.1 then x :: y :: ys else y :: insertCore x ys

/-- The owners of a job (R472). -/
def ownersOf (src : Source) (mask : BitVec 8) : BitVec 8 :=
  if mask ≠ 0 then mask else match src with | .host n => BitVec.ofNat 8 (2 ^ n.val) | _ => 0

/-- The job of a request and its image is loaded as number `j` + 1. [DEDUCED: log entry 68] -/
def State.loadJob (s : State) (src : Source) (j : Fin 8) (r : JobLoadReq) (img : JobImage) : State :=
  let size := r.codesize.toNat
  let s := s.mapJob j (fun _ =>
    { Job.blank with
      st := .loaded, owners := ownersOf src r.ownmask, capture := r.capture, debug := r.debug, codeBase := r.codebase.toNat
      codeSize := size, wins := r.wins, cores := img.cores.foldl (fun l x => insertCore x l) [], peers := img.peers
      digest := Config.sha384 r.image })
  let s := s.hbmPut r.codebase.toNat (.clean img.code)
  let s := img.cores.foldl (fun s x => s.setCore x.1 (s.loadedCore size x)) s
  let s := (s.freeContexts.zip img.contexts).foldl (fun s x => s.mapRed x.1 (fun _ => x.2)) s
  let s := { s with power := { s.power with phases := [] } }
  let tables := if r.loadPhases then img.phases else []
  let s := (List.range tables.length).foldl (fun s d =>
    { s with power := s.power.loadPhases d (tables.getD d []) }) s
  s.jobNotice j 1

/-- JOB_LOAD (R477). It waits while a flit of a job is in flight to or from a die whose map it changes (R307).
[DESIGN CHOICE: log entry 67] -/
def execJobLoad (src : Source) (r : JobLoadReq) (s : State) : Out :=
  mpCmd src (reqJobLoad r) (fun s =>
    let f := s.sec.fuses
    if f.lc ≠ 2 ∨ f.decom ≠ 0 then denied s 2
    else if s.mp.fettles ≠ [] then notReady s 1
    else
      match s.freeJob with
      | none => notReady s 2
      | some j =>
        if s.mp.noRisers ≠ [] then notReady s 3
        else if !s.mapsQuiet then waiting s
        else
          match s.applyLedger with
          | .error id => notReady (s.exhausted (id.toNat / 256) (some id)) 3
          | .ok t =>
            if t.mp.noRisers ≠ [] then notReady t 3
            else match s.requestFail r with
            | some o => badArg s o
            | none =>
              match jobImage s r (j.val + 1) with
              | .error o => badArg s o
              | .ok img =>
                match s.regionFail r with
                | some o => badArg s o
                | none => okWith (t.loadJob src j r img) (leBytes 4 (j.val + 1))) s

end Sys2Proof.Machine
end

