-- ==== Sys2Proof/Machine/LedgerCmd.lean ====
section
/-! DEFINITION. The ledgers of the management processor: retired cores and nodes, row repairs of scratchpads and external
memory, and tests by command (R205, R206, R280, R304 to R310, Table 15-12). -/

namespace Sys2Proof.Machine

/-! ### CORE_RETIRE and CORE_READMIT -/

/-- A position enters the field retirement ledger; a test before it no longer counts. [DEDUCED: log entry 86] -/
def State.retire (s : State) (q : Nat) (node : Bool) : State :=
  { s with mp := { s.mp with
      retiredCores := if node then ndel s.mp.retiredCores q else nins s.mp.retiredCores q
      retiredNodes := if node then nins s.mp.retiredNodes q else ndel s.mp.retiredNodes q
      passed := ndel s.mp.passed q } }

/-- CORE_RETIRE: the response names the row of Table 10-4 that says when it takes effect, counted from 0.
[DEDUCED: log entry 86] -/
def execCoreRetire (src : Source) (die : Fin 32) (prow : BitVec 5) (pcol : BitVec 4) (node : Bool) (s : State) : Out :=
  mpCmd src (reqPosition 0x60 die prow pcol node) (fun s =>
    let p := 16 * prow.toNat + pcol.toNat
    if 16 < prow.toNat then badArg s 0
    else if node && !s.nodeFits die p then badArg (s.nodeLimit die) 0
    else okWith (s.retire (272 * die.val + p) node) (leBytes 4 (b2n node))) s

/-- CORE_READMIT: the position leaves the ledger, and joins the free risers at the next JOB_LOAD or reset (Table 10-4). -/
def execCoreReadmit (src : Source) (die : Fin 32) (prow : BitVec 5) (pcol : BitVec 4) (node : Bool) (s : State) : Out :=
  mpCmd src (reqPosition 0x61 die prow pcol node) (fun s =>
    let q := 272 * die.val + 16 * prow.toNat + pcol.toNat
    if 16 < prow.toNat ∨ !nhas (if node then s.mp.retiredNodes else s.mp.retiredCores) q then badArg s 0
    else if !nhas s.mp.passed q then denied s 8
    else
      let m := s.mp
      okWith { s with mp := { m with retiredCores := ndel m.retiredCores q, retiredNodes := ndel m.retiredNodes q
                                     passed := ndel m.passed q }
                      board := { s.board with failedCores := ndel s.board.failedCores q } } (leBytes 4 2)) s

/-! ### ROW_REPAIR -/

/-- An entry of a repair ledger belongs to a target. -/
def RepairEntry.on (e : RepairEntry) : RepairTarget → Bool
  | .scratchpad => match e with | .scratchpad .. => true | .hbm .. => false
  | .hbm => match e with | .scratchpad .. => false | .hbm .. => true

/-- An entry names a row that the module has. -/
def RepairEntry.valid (c : OrderingCode) : RepairEntry → Bool
  | .scratchpad _ prow _ _ row => decide (prow.toNat ≤ 16 ∧ row.toNat < spmBytes c / 1024)
  | .hbm .. => true

/-- ROW_REPAIR list: the entries held, and up to 511 of them from an index. [DESIGN CHOICE: log entry 87] -/
def execRowRepairList (src : Source) (target : RepairTarget) (start : Word) (s : State) : Out :=
  mpCmd src (reqRowList target start) (fun s =>
    let l := s.mp.repairs.filter (fun e => RepairEntry.on e target)
    okWith s (leBytes 4 l.length ++ ((l.drop start.toNat).take 511).flatMap RepairEntry.bytes)) s

/-- ROW_REPAIR add: an entry that is already listed keeps its place. [DESIGN CHOICE: log entry 87] -/
def execRowRepairAdd (src : Source) (e : RepairEntry) (s : State) : Out :=
  mpCmd src (reqRowEntry 1 e) (fun s =>
    if !RepairEntry.valid s.ident.code e then badArg s 8
    else if s.mp.repairs.any (fun x => x == e) then okWith s []
    else okWith { s with mp := { s.mp with repairs := s.mp.repairs ++ [e] } } []) s

/-- ROW_REPAIR clear. -/
def execRowRepairClear (src : Source) (e : RepairEntry) (s : State) : Out :=
  mpCmd src (reqRowEntry 2 e) (fun s =>
    if !s.mp.repairs.any (fun x => x == e) then badArg s 8
    else okWith { s with mp := { s.mp with repairs := s.mp.repairs.filter (fun x => x != e) } } []) s

/-! ### DIAG_RUN -/

/-- The target of a test exists. -/
def diagTarget (test : Nat) (target : Word) : Bool :=
  if test ≤ 1 then (diagPosition target).isSome
  else if test = 2 then decide (target.toNat < 48)
  else if test = 3 then decide (target.toNat < 1024)
  else true

/-- A job uses the target: it holds the core of the position, the port is up while a job is loaded, or, for a
pseudo-channel, which the regions of every job span (R20), and for the module, any job is loaded. -/
def State.diagBusy (s : State) (test : Nat) (target : Word) : Bool :=
  if test ≤ 1 then
    match (diagPosition target).bind (fun q => s.coreAt q) with
    | some id => (s.jobOf id).isSome
    | none => false
  else if test = 2 then s.anyJob && decide ((s.port (Fin.ofNat 48 target.toNat)).st = .active)
  else s.anyJob

/-- DIAG_RUN: the test ends as the command says. A test that a retired position passes allows its readmission (R307).
[DESIGN CHOICE: log entry 88] -/
def execDiagRun (src : Source) (test target : Word) (pass : Bool) (s : State) : Out :=
  mpCmd src (reqDiag test target) (fun s =>
    let t := test.toNat
    if 4 < t then badArg s 0
    else if !diagTarget t target then badArg s 4
    else if s.diagBusy t target then denied s 9
    else
      let m := s.mp
      let mark (q : Nat) : NatSet :=
        if pass ∧ (nhas m.retiredCores q ∨ nhas m.retiredNodes q) then nins m.passed q else m.passed
      let passed := if t ≤ 1 then (diagPosition target).elim m.passed mark else m.passed
      let again : Bool := pass && decide (t = 3 ∧ s.board.pchRetired.map BitVec.toNat = some target.toNat)
      let s : State := { s with board := { s.board with pchPassed := s.board.pchPassed || again } }
      let detail := (List.range 8).flatMap (fun i => leBytes 8 (Config.freeWord (s.fresh + i)).toNat)
      okWith { s with mp := { m with passed := passed }, fresh := s.fresh + 8 } (leBytes 4 (b2n pass) ++ detail)) s

end Sys2Proof.Machine
end

