-- ==== Sys2Proof/Machine/Power.lean ====
section
/-! DEFINITION. Samples, sizing loops, trips, thermal protection, glides and ageing, as each comes about (R415 to
R438). -/

namespace Sys2Proof.Machine

/-! ### Droop (R415) -/

/-- The die of an island (R435). -/
def islandDie (i : Nat) : Fin 40 := Fin.ofNat 40 (if i < 8704 then i / 272 else 32 + (i - 8704) / 8)

/-- A droop begins: the island's periods lengthen, and its die counts it. -/
def execDroopDetect (island : Fin 8768) (s : State) : Out :=
  if nhas s.power.droops island.val then .next s
  else
    let s := s.mapPower (islandDie island.val) (fun x => { x with droop := if x.droop = 0xFFFFFFFF then x.droop else x.droop + 1 })
    .next { s with power := { s.power with droops := nins s.power.droops island.val } }

/-- The supply has been above the threshold for 4 periods: the period is normal again. -/
def execDroopEnd (island : Fin 8768) (s : State) : Out :=
  .next { s with power := { s.power with droops := ndel s.power.droops island.val } }

/-! ### Samples and loops -/

/-- A regulator sample reaches the active MP (R420 to R424, R430): the last 60,000 are kept, the cap and window of PCAP come into
force, and 10 samples in a row, a millisecond apart, end the staleness. -/
def execRegulatorSample (vin : BitVec 16) (iin : BitVec 16) (watts : BitVec 16) (rails : List (BitVec 16)) (s : State) : Out :=
  if !s.firmwareUp then .next s else
  let s := s.wait (s.power.sampledAt + 1000000)
  let p := s.power
  let samples := (watts.toNat :: p.samples).take 60000
  let good := if p.sampledAt + 2000000 ≤ s.now then 1 else p.good + 1
  let p := { p with
    sample := watts, vin := vin, iin := iin, samples := samples, sampledAt := s.now, sampled := true, good := good
    pcap := s.active.pcap
    winavg := BitVec.ofNat 16 (meanOf (samples.take (1000 * bitsAt s.active.pcap.toNat 16 8)))
    stale := p.stale && decide (good < 10)
    overRun := if 4000 < iin.toNat then p.overRun + 1 else 0
    dies := Vector.ofFn (fun d => { p.dies[d] with meas := rails.getD d.val p.dies[d].meas }) }
  .next { s with power := p }

/-- No sample has come for 10 ms (R430). -/
def execTelemStale (s : State) : Out :=
  if !s.firmwareUp || s.power.stale then .next s
  else
    let s := s.wait (s.power.sampledAt + 10000000)
    let s := { s with power := { s.power with stale := true, good := 0 } }
    .next ((s.powerBit 4).log (powerEvent 1 0x0602 []))

/-- An estimate with the ratio of an untrusted estimator (R429). -/
def DiePower.scaled (x : DiePower) (est : Nat) : Nat := if x.ratio.2 = 0 then est else est * x.ratio.1 / x.ratio.2

/-- The module's estimate of this moment: the sum of the dies'. -/
def Power.estimate (p : Power) : Nat := (p.dies.toList.map (fun x => x.est.toNat)).sum

/-- The least slack that the replicas have shown since the last re-plan is kept (R435). -/
def Power.keepSlack (p : Power) (x : IslandSlack) : Power :=
  { p with slack := tset p.slack x.island (min x.slackPs (tget p.slack (x.slackPs, 0) x.island).1, x.ringMhz) }

/-- Every 10 µs: each die's estimated power, with its dynamic part at 1.9 GHz and its static part at 85 °C, and each die's
phase; and what ageing monitors report (R424, R426, R427, R435). -/
def execActivityEstimate (est : List (BitVec 16)) (dyn : List (BitVec 16)) (stat : List (BitVec 16)) (s : State)
    (slacks : List IslandSlack := []) : Out :=
  if !s.firmwareUp then .next s else
  let phases := (List.range 32).map s.diePhase
  let whole := commonest phases
  let s := (List.finRange 40).foldl (fun s d =>
    let s := s.mapPower d (fun x =>
      let raw := (est.getD d.val 0).toNat
      { x with est := BitVec.ofNat 16 (min 0xFFFF (if s.power.untrust then x.scaled raw else raw)) })
    s.samplePhase d (phases.getD d.val whole) (dyn.getD d.val 0).toNat (stat.getD d.val 0).toNat) s
  let p := slacks.foldl Power.keepSlack s.power
  .next { s with power := { p with estSum := p.estSum + p.estimate, estCount := p.estCount + 1 } }

/-- Every 10 µs a die's target moves one step of 25 MHz toward its share, or holds (R428); it holds while telemetry is stale
(R430). -/
def execInnerLoop (d : Fin 32) (s : State) : Out :=
  if !s.firmwareUp || !s.opportunistic || s.power.stale then .next s
  else
    let top := s.oppCeiling d
    .next (s.mapPower (cdie d) (fun x =>
      let mode := min x.mode top
      { x with mode :=
          if 100 * x.est.toNat < 95 * x.budget.toNat then min top (mode + 25)
          else if x.budget.toNat < x.est.toNat then max 800 (mode - 25)
          else mode }))

/-- The accounts of the millisecond that ends (R425, R429): `losses` are the modelled ones. A sample that stale telemetry lacks is
replaced by the estimate; a sample that has come is compared with it, but during a calibration; an untrusted estimator's ratios are
renewed. -/
def Power.account (p : Power) (losses : Nat) : Power :=
  let e := (if p.estCount = 0 then p.estimate else p.estSum / p.estCount) + losses
  let m := p.sample.toNat
  let far : Bool := decide (15 * m < 100 * ((e - m) + (m - e)))
  { p with
    samples := if p.stale && !p.sampled then (e :: p.samples).take 60000 else p.samples
    sampled := false, estSum := 0, estCount := 0
    diverged := if p.untrust || p.calibrate.isSome then 0 else if !p.sampled then p.diverged else if far then p.diverged + 1 else 0
    dies := if p.untrust then
        p.dies.map (fun x =>
          { x with ratio := (x.meas.toNat, if x.ratio.1 = 0 then x.est.toNat else x.est.toNat * x.ratio.2 / x.ratio.1) })
      else p.dies }

/-- Every 1 ms: the accounts, the allowance, the budgets and targets, and the breaches (R425, R428, R429, R432). -/
def execOuterLoop (fixed : BitVec 16) (s : State) (losses : BitVec 16 := 0) : Out :=
  if !s.firmwareUp then .next s else
  let s := ({ s with power := s.power.account losses.toNat } : State).spread fixed.toNat
  if s.opportunistic then .next s
  else
    let s := if 10 ≤ s.power.overRun then s.breach 1 else s
    .next (if s.opportunistic then s else if s.capBreach then s.breach 0 else s)

/-- More than 100 samples in a row diverge from the estimate: the estimator is untrusted until the next JOB_START. None is
judged during a calibration (R429). [DEDUCED: log entry 85] -/
def execEstDiverge (s : State) : Out :=
  if !s.firmwareUp ∨ s.power.untrust ∨ s.power.calibrate.isSome ∨ s.power.diverged ≤ 100 then .next s
  else .next ((({ s with power := { s.power with untrust := true } } : State).powerBit 3).log (powerEvent 0 0x0601 []))

/-- The calibration of a job's first 200 ms ends. -/
def execCalibrationEnd (s : State) : Out :=
  match s.power.calibrate with
  | none => .next s
  | some t => let s := s.wait t; .next { s with power := { s.power with calibrate := none } }

/-! ### Fast trip (R431) -/

/-- A fast trip halves every core island's clock. The third within 1 s is a breach of CAUSE 2, or lowers every ceiling by
100 MHz for one window. -/
def execIccTrip (s : State) : Out :=
  let p := s.power
  let trips := (s.now :: p.trips).filter (fun t => decide (s.now < t + 10 ^ 9))
  let s := ({ s with power := { p with
      trip := true, tripAt := s.now, tripcnt := if p.tripcnt = 0xFFFFFFFF then p.tripcnt else p.tripcnt + 1, trips := trips } } : State).log
        (powerEvent 0 0x0604 [])
  if trips.length < 3 then .next s
  else if s.opportunistic then
    .next (({ s with power := { s.power with
      trips := [], ceiling := some (s.lowered + 100, s.now + s.window * 10 ^ 9) } } : State).safetyAction .clock)
  else .next (s.breach 2)

/-- The halving is lifted, at least 100 µs after the trip and with the 1 ms current below 400 A; every clock that no other cause
halves glides back from the halved one. -/
def execTripLift (s : State) : Out :=
  if !s.firmwareUp ∨ !s.power.trip ∨ 4000 ≤ s.power.iin.toNat then .next s
  else
    let s := s.wait (s.power.tripAt + 100000)
    .next { s with power := { s.power with
      trip := false
      dies := Vector.ofFn (fun d =>
        let x := s.power.dies[d]
        if d.val < 32 ∧ x.halvedAt.isNone then x.unhalve else x) } }

/-! ### Thermal protection (R433) -/

/-- A thermal target after one step of 25 MHz: down from the target that it bounds, but not below 800 MHz, or up until it bounds the
mode's target no more (Table 14-7). -/
def thermalStep (mode : Nat) (down : Bool) (t : Option Nat) : Option Nat :=
  if down then some (max 800 (min mode (t.getD mode) - 25))
  else t.bind (fun v => if mode ≤ v + 25 then none else some (v + 25))

/-- The C-dies whose targets a die's temperature lowers: itself, or the two bridged to an E-die (R433). -/
def throttledBy (d : Fin 40) : List (Fin 32) :=
  if d.val < 32 then [Fin.ofNat 32 d.val] else (List.finRange 32).filter (fun c => bridged c.val == some d)

/-- What holds a C-die's target down on behalf of a die: its own thermal target, or its E-die's. -/
def DiePower.heldBy (x : DiePower) (d : Fin 40) : Option Nat := if d.val < 32 then x.thermal else x.thermalE

/-- One step of 25 MHz of the C-dies that a die's temperature bounds. -/
def State.throttle (s : State) (d : Fin 40) (down : Bool) : State :=
  (throttledBy d).foldl (fun s c =>
    let mode := s.modeTarget c
    s.mapPower (cdie c) (fun x =>
      if d.val < 32 then { x with thermal := thermalStep mode down x.thermal } else { x with thermalE := thermalStep mode down x.thermalE })) s

/-- The throttle of a die after a sample: a step down at once and every 100 µs at 100 °C and above, a step up every 100 µs below 97 °C
until every target is its mode's again. -/
def State.throttled (s : State) (d : Fin 40) (tj : Nat) : State :=
  let x := s.power.dies[d]
  let due : Bool := decide (x.throttleAt + 100000 ≤ s.now)
  let down : Bool := decide (100 ≤ tj)
  let up : Bool := decide (tj < 97) && x.throttling
  if (down && (!x.throttling || due)) || (up && due) then
    let s := s.throttle d down
    let held : Bool := (throttledBy d).any (fun c => ((s.power.dies[cdie c]).heldBy d).isSome)
    s.mapPower d (fun x => { x with throttling := down || held, throttleAt := s.now })
  else s

/-- A junction temperature is sampled and the protection of Table 14-7 applied. -/
def execTjSample (d : Fin 40) (tj : BitVec 8) (s : State) : Out :=
  let t := tj.toNat
  let x := s.power.dies[d]
  let hot : Bool := decide (105 ≤ t)
  let since := if hot then some (x.halvedAt.getD s.now) else if t < 100 then none else x.halvedAt
  let hotSince := if hot then some (x.hotSince.getD s.now) else none
  let s := (s.throttled d t).mapPower d (fun x =>
    let x := if x.halvedAt.isSome ∧ since.isNone ∧ d.val < 32 ∧ s.power.trip = false then x.unhalve else x
    { x with tj := tj, halvedAt := since, hotSince := hotSince })
  let s := if 100 ≤ t ∧ !x.throttling then (s.powerBit 5).log (thermalEvent 0 0x0605 d tj) else s
  let s := if hot ∧ x.halvedAt.isNone then (s.powerBit 6).log (thermalEvent 1 0x0606 d tj) else s
  let long : Bool := match hotSince with | some t0 => decide (t0 + 10000000 ≤ s.now) | none => false
  .next (if 110 ≤ t ∨ long then s.thermalShutdown d tj else s)

/-- A stack's report: at 95 °C its controller limits its bandwidth to 75 %, below 92 °C no longer. -/
def execHbmTempReport (stack : Fin 16) (temp : BitVec 8) (s : State) : Out :=
  let hot := nhas s.power.hbmHot stack.val
  let s := { s with power := { s.power with hbmTemp := s.power.hbmTemp.set stack temp } }
  if 95 ≤ temp.toNat ∧ !hot then
    let s := { s with power := { s.power with hbmHot := nins s.power.hbmHot stack.val } }
    .next ((s.powerBit 7).log
      { mpEvent 0 0x0206 [temp.setWidth 32] with die := 32 + stack.val / 2, unit := 10, pos := stack.val })
  else if temp.toNat < 92 then .next { s with power := { s.power with hbmHot := ndel s.power.hbmHot stack.val } }
  else .next s

/-- One step of a glide in 1 µs (R419): toward a higher target the rail first reaches its voltage, by 2 mV a step, and then the clock
moves by at most 25 MHz; toward a lower one the clock moves first, and the rail after it.
[DESIGN CHOICE: log entry 139] -/
def execFreqGlideStep (d : Fin 32) (s : State) : Out :=
  let t := s.target d
  let x := s.power.dies[cdie d]
  let need := s.power.railNeed d.val t
  if x.clock = t ∧ x.rail = need then .next s
  else
    (s.wait (s.now + 1000)).mapPower (cdie d) (fun x =>
      if t < x.clock then { x with clock := max t (x.clock - 25) }
      else if x.clock < t ∧ need ≤ x.rail then { x with clock := min t (x.clock + 25) }
      else { x with rail := slew x.rail need }) |> .next

/-! ### Ageing (R435 to R438) -/

/-- Steps of 2.5 mV by which a shortfall of slack raises an island: one for each 4 ps below 20 ps, rounded up. -/
def raiseSteps (slackPs : Nat) : Nat := if slackPs < 20 then (20 - slackPs + 3) / 4 else 0

/-- The hours the module has operated. -/
def State.hoursNow (s : State) : Nat := s.power.hours + s.now / (3600 * 10 ^ 9)

/-- The steps that the sweep at a job boundary leaves an island: as many as its slack needs, no fewer than at the start of life
(R436; DESIGN CHOICE, log entry 83). [DESIGN CHOICE: log entry 83] -/
def sweepSteps (old slackPs : Nat) : Nat := if slackPs < 20 then old + raiseSteps slackPs else old - (slackPs - 20) / 4

/-- The steps that an island needs at a point after its re-plan: every 24 h the same more at every point, but no more where it is at
V_MAX already; in the sweep what the slack at the point says (R436, R437). -/
def Power.replanned (p : Power) (sweep : Bool) (x : IslandSlack) (k : Nat) : Nat :=
  let old := p.needs x.island k
  if sweep then sweepSteps old (x.points.getD k x.slackPs)
  else if maxRaise < old then old
  else old + raiseSteps (min x.slackPs (tget p.slack (x.slackPs, 0) x.island).1)

/-- A need of an island noted; none is not listed. -/
def putNeed (t : Table Nat) (key n : Nat) : Table Nat := if n = 0 then tdel t key else tset t key n

/-- One island's re-plan, every 24 h or in the sweep: its needs and its history (R436, R438). -/
def Power.replanIsland (sweep : Bool) (hours : Nat) (p : Power) (x : IslandSlack) : Power :=
  let m : Margin := { hours := hours, volt := 8000 + 25 * p.replanned sweep x 3, ring := x.ringMhz }
  { p with
    raise := (List.range 5).foldl (fun t k => putNeed t (8 * x.island + k) (p.replanned sweep x k)) p.raise
    slack := tdel p.slack x.island
    margins := tset p.margins x.island (lastN 64 (tget p.margins [] x.island ++ [m])) }

/-- An island needs more than V_MAX at 1.9 GHz or below (R437). -/
def Power.lost (p : Power) (island : Nat) : Bool := (List.range 4).any (fun k => decide (maxRaise < p.needs island k))

/-- One island's re-plan, with what it loses beyond V_MAX: its die boost, a core its place, and an E-die domain makes the module need
return (R437). -/
def State.replanIsland (sweep : Bool) (s : State) (x : IslandSlack) : State :=
  let d := islandDie x.island
  let old := s.power
  let s := { s with power := old.replanIsland sweep s.hoursNow x }
  let s := if x.island < 8704 ∧ s.power.boostMax d.val < old.boostMax d.val then
      (s.powerBit 8).log { powerEvent 0 0x0608 [] with die := d.val }
    else s
  if !s.power.lost x.island || old.lost x.island then s
  else
    let s := s.powerBit 8
    if x.island < 8704 then
      let s := s.log { powerEvent 1 0x0608 [] with die := d.val, pos := x.island % 272 }
      { s with errs := { s.errs with candidates := nins s.errs.candidates x.island } }
    else { (s.log { powerEvent 1 0x0608 [] with die := d.val }) with mp := { s.mp with needRet := true } }

/-- The islands of a re-plan: those reported with it, and at 24 h every other whose replica has reported since the last one (R435). -/
def Power.replanList (p : Power) (sweep : Bool) (xs : List IslandSlack) : List IslandSlack :=
  if sweep then xs
  else
    xs ++ (p.slack.filter (fun y => !xs.any (fun x => x.island == y.1))).map (fun y =>
      { island := y.1, slackPs := y.2.1, ringMhz := y.2.2 })

/-- A month of 730 hours has passed since a die's last summary: a new one holds the most that an island of it needs at 1.9 GHz and the
lowest frequency of a ring oscillator in this re-plan (R438). [DESIGN CHOICE: log entry 83] -/
def Power.summarise (p : Power) (hours : Nat) (xs : List IslandSlack) (d : Nat) : Power :=
  let here := xs.filter (fun x => (islandDie x.island).val == d)
  let held := tget p.monthly [] d
  let due : Bool := match held.getLast? with | some m => decide (m.hours + 730 ≤ hours) | none => true
  match here with
  | [] => p
  | x :: _ =>
    if !due then p
    else
      let m : Margin :=
        { hours := hours, volt := 8000 + 25 * ((here.map (fun y => p.needs y.island 3)).foldl max 0)
          ring := (here.map (fun y => y.ringMhz)).foldl min x.ringMhz }
      { p with monthly := tset p.monthly d (held ++ [m]) }

/-- The islands that the forecast counts: those whose need has risen over their history, a core island only when no free riser of its
die could take its place (R438). -/
def State.forecast (s : State) : List Nat :=
  (s.power.margins.filter (fun x =>
    let risen : Bool := match x.2.head?, x.2.getLast? with | some a, some b => decide (a.volt < b.volt) | _, _ => false
    risen && (decide (8704 ≤ x.1) || (s.freeRisers (x.1 / 272)).isEmpty))).map (fun x => x.1)

/-- A job boundary: no job runs, and no fettle is in progress (R436). -/
def State.atBoundary (s : State) : Bool := (List.finRange 8).all (fun j => decide ((s.job j).st ≠ .running)) && s.mp.fettles.isEmpty

/-- Every 24 h the MP re-plans the voltage of every island, and at a job boundary it sweeps them, where a voltage may fall; the
forecast is renewed: the island is one of those that it counts, and without one there is none (R436, R438).
[DESIGN CHOICE: log entry 83] -/
def execAgeingReplan (sweep : Bool) (slack : List IslandSlack) (s : State) : Out :=
  if !s.firmwareUp || (sweep && !s.atBoundary) then .next s
  else
  let s := if sweep then s else s.wait (s.power.replanAt + 86400 * 10 ^ 9)
  let xs := s.power.replanList sweep slack
  let s := xs.foldl (State.replanIsland sweep) s
  let p := (List.range 40).foldl (fun p d => p.summarise s.hoursNow xs d) s.power
  let l := s.forecast
  let i := (Config.ageIsland s.fresh).toNat % max 1 l.length
  .next { s with
    fresh := s.fresh + 1
    power := { p with
      replanAt := if sweep then p.replanAt else s.now, ageLast := BitVec.ofNat 32 s.hoursNow
      ageIsland := match l[i]? with | some k => BitVec.ofNat 16 k | none => 0xFFFF
      ageDays := if l.isEmpty then 0xFFFF else Config.ageDays s.fresh } }

end Sys2Proof.Machine
end

