-- ==== Sys2Proof/Machine/Security.lean ====
section
/-! DEFINITION. Firmware images, their update by FW_UPDATE, the life cycle and the debug unlock (R480, R481, R488, R490 to
R496). -/

namespace Sys2Proof.Machine

/-! ### Images (R480, R481) -/

/-- Bytes [a, b) of an image. -/
def span (x : List Byte) (a b : Nat) : List Byte := (x.drop a).take (b - a)

/-- The bytes of a range are zero. -/
def spanZero (x : List Byte) (a b : Nat) : Bool := (span x a b).all (fun c => c == 0)

/-- A number of `n` bytes at an offset. -/
def fieldAt (n : Nat) (x : List Byte) (a : Nat) : BitVec (8 * n) := BitVec.ofNat (8 * n) (leNat (span x a (a + n)))

/-- Fields of an image header (Table 16-2). -/
def imgSvn (x : List Byte) : Nat := word32At x 8
def imgSlot (x : List Byte) : Nat := word32At x 0xC
def imgVersion (x : List Byte) : Nat := word64At x 0x10
def imgLength (x : List Byte) : Nat := word32At x 0x18
def imgRevoke (x : List Byte) : Nat := word32At x 0x1C

/-- The header of an image is as Table 16-2 lays it out, and the body has its length.
[DESIGN CHOICE: log entry 90] -/
def imageFormed (x : List Byte) : Bool :=
  decide (word32At x 0 = 0x4D46574B ∧ word32At x 4 = 1 ∧ imgSvn x ≤ 64 ∧ imgSlot x < 4 ∧ imgLength x % 4096 = 0 ∧
    imgLength x ≤ 24 * 2 ^ 20 ∧ imgRevoke x < 16 ∧ x.length = 4096 + imgLength x) &&
  !(imgRevoke x).testBit (imgSlot x) && spanZero x 0x50 0x100 && spanZero x 0x1C0 0x1000

/-- An image verifies (R481). -/
def Fuses.verifies (f : Fuses) (x : List Byte) : Bool :=
  imageFormed x && decide (Config.sha384 (span x 0x100 0x160) = f.rkd[Fin.ofNat 4 (imgSlot x)]) &&
    !f.revoked.getLsbD (imgSlot x) &&
    Config.ecdsaVerify (fieldAt 96 x 0x100) (span x 0 0x160) (fieldAt 96 x 0x160) &&
    decide (f.svn ≤ imgSvn x) && decide (Config.sha384 (x.drop 4096) = fieldAt 48 x 0x20)

/-- The images changed. -/
def State.mapImages (s : State) (f : Images → Images) : State := { s with sec := { s.sec with images := f s.sec.images } }

/-- The slot of a processor that is not running: slot 0 while it runs none (R484, R488).
[DESIGN CHOICE: log entry 90] -/
def Images.spareSlot (i : Images) (mp : Fin 2) : Fin 2 :=
  match i.running[mp] with
  | some k => if k = 0 then 1 else 0
  | none => 0

/-- The image that a processor runs. -/
def Images.runs (i : Images) (mp : Fin 2) : Option (List Byte) := (i.running[mp]).bind (fun k => (i.slots[mp])[k])

/-- Slot `k` of processor `mp` with another content. -/
def Images.setSlot (i : Images) (mp k : Fin 2) (x : Option (List Byte)) : Images :=
  { i with slots := i.slots.set mp ((i.slots[mp]).set k x) }

/-- Both processors' spare slots with another content: an image, or nothing while one is being staged. -/
def Images.setSpare (i : Images) (x : Option (List Byte)) : Images :=
  (i.setSlot 0 (i.spareSlot 0) x).setSlot 1 (i.spareSlot 1) x

/-- A staged image is discarded. -/
def Images.discard (i : Images) : Images := { i with staged := [], verified := false }

/-- The staged image becomes the content of the spare slots, marked for the next boot (R488). -/
def Images.activate (i : Images) : Images :=
  { (i.setSpare (some i.staged)).discard with next := #v[some (i.spareSlot 0), some (i.spareSlot 1)] }

/-- State of a slot for FW_UPDATE QUERY (Table 16-5): 0 empty, 1 verifies, 2 fails, 3 staged. -/
def State.slotState (s : State) (mp k : Fin 2) : Nat :=
  let i := s.sec.images
  if i.staged ≠ [] ∧ i.spareSlot mp = k then 3
  else
    match (i.slots[mp])[k] with
    | none => 0
    | some x => if s.sec.fuses.verifies x then 1 else 2

/-- The security version that runs. -/
def State.runningSvn (s : State) : Nat := (s.sec.images.runs s.activeMp).elim 0 imgSvn

/-! ### FW_UPDATE (R488) -/

/-- An action on the images other than QUERY: not in BLANK, where only the factory updates, nor in DECOMMISSIONED, and not while a PLDM update holds
the claim (R489, R490). [DEDUCED: log entry 155] -/
def fwAction (src : Source) (q : Request) (body : State → Reply) (s : State) : Out :=
  mpCmd src q (fun s =>
    if s.sec.fuses.state = 0 ∨ s.sec.fuses.state = 4 then denied s 0 else if s.sec.upd ≠ .idle then denied s 13 else body s) s

/-- FW_UPDATE QUERY. [DESIGN CHOICE: log entry 90] -/
def execFwQuery (src : Source) (s : State) : Out :=
  mpCmd src (reqAction 0x81 0 []) (fun s =>
    let states := s.slotState 0 0 + 4 * s.slotState 0 1 + 16 * s.slotState 1 0 + 64 * s.slotState 1 1
    okWith s (wordBytes [states, s.runningSvn] ++ leBytes 8 s.sec.fuses.svn ++ leBytes 8 (imgVersion s.sec.images.staged))) s

/-- FW_UPDATE STAGE: the image is read from host memory. [DESIGN CHOICE: log entry 90] -/
def execFwStage (src : Source) (image : List Byte) (s : State) : Out :=
  fwAction src (reqFwStage image) (fun s =>
    if image = [] ∨ 4096 + 24 * 2 ^ 20 < image.length then badArg s 0x10
    else okWith (s.mapImages (fun i => { i.setSpare none with staged := image, verified := false })) []) s

/-- FW_UPDATE CHUNK: contiguous from offset 0, where a new image begins. [DESIGN CHOICE: log entry 90] -/
def execFwChunk (src : Source) (offset : Word) (data : List Byte) (s : State) : Out :=
  fwAction src (reqFwChunk offset data) (fun s =>
    let i := s.sec.images
    if offset ≠ 0 ∧ offset.toNat ≠ i.staged.length then badArg s 8
    else if data = [] ∨ 4000 < data.length then badArg s 0xC
    else
      let old := if offset = 0 then [] else i.staged
      okWith (s.mapImages (fun i => { i.setSpare none with staged := old ++ data, verified := false })) []) s

/-- FW_UPDATE VERIFY. -/
def execFwVerify (src : Source) (s : State) : Out :=
  fwAction src (reqAction 0x81 3 []) (fun s =>
    let x := s.sec.images.staged
    if s.sec.fuses.verifies x then
      okWith (s.mapImages (fun i => { i with verified := true })) (leBytes 8 (imgVersion x) ++ leBytes 4 (imgSvn x))
    else denied s 15) s

/-- FW_UPDATE ACTIVATE; with NOW the module resets 100 ms later. -/
def execFwActivate (src : Source) (immediate : Bool) (s : State) : Out :=
  fwAction src (reqFwActivate immediate) (fun s =>
    if s.anyJob then denied s 14
    else if !s.sec.images.verified then denied s 15
    else
      let s := s.mapImages Images.activate
      okWith (if immediate then ({ s with mp := { s.mp with activating := true } } : State).resetSoon else s) []) s

/-- FW_UPDATE ABORT. -/
def execFwAbort (src : Source) (s : State) : Out := fwAction src (reqAction 0x81 5 []) (fun s => okWith (s.mapImages Images.discard) []) s

/-- FW_UPDATE COMMIT: fuses are blown up to the image that both processors run. [DESIGN CHOICE: log entry 90] -/
def execFwCommit (src : Source) (s : State) : Out :=
  fwAction src (reqAction 0x81 6 []) (fun s =>
    let f := s.sec.fuses
    match s.sec.images.runs 0, s.sec.images.runs 1 with
    | some x, some y =>
      if x = y ∧ !s.mp.heldA ∧ !s.mp.heldB ∧ f.svn < imgSvn x then
        let f := { f with svn := imgSvn x, revoked := f.revoked ||| BitVec.ofNat 4 (imgRevoke x) }
        okWith { s with sec := { s.sec with fuses := f } } (leBytes 8 f.svn)
      else denied s 15
    | _, _ => denied s 15) s

/-! ### Life cycle (R490 to R492) -/

/-- LIFECYCLE QUERY. -/
def execLifecycleQuery (src : Source) (s : State) : Out :=
  mpCmd src (reqAction 0x80 0 []) (fun s =>
    let x := s.sec
    okWith s (wordBytes [x.fuses.state, x.level.toNat] ++ leBytes 48 (x.fuses.owner.elim 0 (fun d => d.toNat)) ++
      leBytes 4 x.failed.toNat)) s

/-- The command waits for the module fettle, after which the fuses or the level change. -/
def State.fettleThen (s : State) (src : Source) (a : FettleAct) : Reply :=
  waiting (s.addFettle { scope := .whole, src := some src, act := a })

/-- LIFECYCLE DEPLOY: the first deployment claims the module; a digest that an interrupted one left is kept to. -/
def execDeploy (src : Source) (key : BitVec 768) (s : State) : Out :=
  mpCmd src (reqDeploy key) (fun s =>
    let f := s.sec.fuses
    let d := Config.sha384 (leBytes 96 key.toNat)
    if f.state ≠ 1 then denied s 16
    else if s.anyJob then denied s 14
    else if f.owner.isSome ∧ f.owner ≠ some d then badArg s 4
    else s.fettleThen src (.deploy d)) s

/-- The keys that a purpose needs in a life-cycle state: the owner's, and a Henros root key (Tables 16-6, 16-7); none where it is
not allowed. -/
def purposeKeys (state : Nat) (purpose : Word) : Option (Bool × Bool) :=
  match purpose.toNat, state with
  | 1, 2 => some (true, false)
  | 2, 2 => some (true, false)
  | 2, 3 => some (true, true)
  | 3, 1 => some (false, true)
  | 3, 2 => some (true, false)
  | 3, 3 => some (false, true)
  | 4, 3 => some (false, true)
  | _, _ => none

/-- The signed block (R495). -/
def State.signedBlock (s : State) (purpose : Word) : List Byte :=
  leBytes 32 (Config.nonce s.fresh).toNat ++ leBytes 16 s.ident.serial.toNat ++ leBytes 4 purpose.toNat ++
    leBytes 4 s.sec.fuses.state ++ leBytes 8 s.sec.fuses.svn

/-- LIFECYCLE CHALLENGE: a new challenge replaces the one outstanding (R496). -/
def execLifecycleChallenge (src : Source) (purpose : Word) (s : State) : Out :=
  mpCmd src (reqChallenge purpose) (fun s =>
    if purpose = 0 ∨ 4 < purpose.toNat then badArg s 4
    else if (purposeKeys s.sec.fuses.state purpose).isNone then denied s 16
    else if 3 ≤ s.sec.failed.toNat then denied s 18
    else
      let b := s.signedBlock purpose
      okWith { s with sec := { s.sec with challenge := some { purpose := purpose, block := b, issued := s.now } }
                      fresh := s.fresh + 1 } b) s

/-- The MP accepts an authorisation over a block (R495). -/
def Fuses.accepts (f : Fuses) (block : List Byte) (a : Authorisation) : Bool :=
  let d := Config.sha384 (leBytes 96 a.pubkey.toNat)
  let key : Bool :=
    if a.keyslot = 0xFF then decide (f.owner = some d)
    else decide (a.keyslot.toNat < 4) && !f.revoked.getLsbD a.keyslot.toNat && decide (f.rkd[Fin.ofNat 4 a.keyslot.toNat] = d)
  key && Config.ecdsaVerify a.pubkey block a.signature

/-- The authorisations are those that a purpose needs, in either order. -/
def matchKeys (need : Bool × Bool) (auths : List Authorisation) : Bool :=
  let owner := (auths.filter (fun a => a.keyslot == 0xFF)).length
  decide (owner = b2n need.1 ∧ auths.length = b2n need.1 + b2n need.2)

/-- DENIED 17: the challenge ends, and the failure counts; the MP posts DEBUG_AUTH_FAIL (R496).
[DEDUCED: log entry 91] -/
def State.authFail (s : State) : Reply :=
  let s := { s with sec := { s.sec with challenge := none, failed := s.sec.failed + 1 } }
  denied (s.log (mpEvent 1 0x0706 [])) 17

/-- What a purpose does once it is authorised (Table 16-7, R496). -/
def purposeAct (purpose : Word) : FettleAct :=
  match purpose.toNat with
  | 1 => .rma
  | 2 => .decommission
  | 3 => .level 1
  | _ => .level 2

/-- LIFECYCLE RESPOND (R494 to R496): the challenge serves one RESPOND, however that ends. [DEDUCED: log entry 91] -/
def execRespond (src : Source) (purpose : Word) (auths : List Authorisation) (s : State) : Out :=
  mpCmd src (reqRespond purpose auths) (fun s =>
    let f := s.sec.fuses
    let asked := s.sec.challenge
    let s := { s with sec := { s.sec with challenge := none } }
    if purpose = 0 ∨ 4 < purpose.toNat then badArg s 4
    else if auths.length ≠ 1 ∧ auths.length ≠ 2 then badArg s 8
    else
      match purposeKeys f.state purpose with
      | none => denied s 16
      | some need =>
        match asked with
        | none => s.authFail
        | some c =>
          if c.purpose ≠ purpose ∨ c.issued + 60 * 10 ^ 9 < s.now ∨ !matchKeys need auths ∨
              !auths.all (fun a => f.accepts c.block a) then s.authFail
          else if s.anyJob then denied s 14 else s.fettleThen src (purposeAct purpose)) s

/-- A challenge lapses 60 s after its issue. -/
def execChallengeExpiry (s : State) : Out :=
  match s.sec.challenge with
  | none => .next s
  | some c =>
    let s := s.wait (c.issued + 60 * 10 ^ 9)
    .next { s with sec := { s.sec with challenge := none } }

/-- LIFECYCLE RELOCK: the module is fettled, and the level returns to 0 (R496). -/
def execRelock (src : Source) (s : State) : Out :=
  mpCmd src (reqAction 0x80 4 []) (fun s => if s.anyJob then denied s 14 else s.fettleThen src (.level 0)) s

end Sys2Proof.Machine
end

