-- ==== Sys2Proof/Machine/Bringup.lean ====
section
/-! DEFINITION. Resets and bring-up: what each reset leaves, how the processors boot, and the stages up to READY (R305, R437,
R482 to R484, R508 to R513, R543, R547). -/

namespace Sys2Proof.Machine

/-! ### Resets (Table 17-2) -/

/-- Images after a reset: the slots stay, and the marks but in a decommissioned module (R492); a staged image that is not activated is
discarded (R488). -/
def Images.reboot (i : Images) (erased : Bool) : Images :=
  { Images.reset with slots := i.slots, next := if erased then Vector.replicate 2 none else i.next }

/-- What a decommissioned module keeps of its non-volatile storage: the images and the repair ledgers (R492). -/
def State.erased (s : State) : Bool := decide (s.sec.fuses.decom ≠ 0)

/-- The configuration set that a reset restores (R512). -/
def State.keptConfig (s : State) : ConfigSet := if s.erased then ConfigSet.default else s.active

/-- The frequency of a core at reset under a clock plan, in MHz: its fixed point, or 1.9 GHz below its ceiling (R416).
[DESIGN CHOICE: log entry 133] -/
def planMhz (plan : Word) : Nat := if plan.getLsbD 31 then stepDown (min 1900 (plan.toNat % 4096)) else fixMhz (plan.toNat / 2 ^ 29 % 4)

/-- Power under the clock plan in force when a reset ends: PWRSTAT.FIXNOW and DIEd_STAT.FREQ have reset C (R14, Table 14-9). -/
def Power.under (p : Power) (plan : Word) : Power :=
  { p with
    fixnow := BitVec.ofNat 2 (plan.toNat / 2 ^ 29)
    dies := Vector.ofFn (fun d => if d.val < 32 then { p.dies[d] with mode := planMhz plan, clock := planMhz plan } else p.dies[d]) }

/-- Power after a reset: the plan of the set that is restored, the margin history and what it raised, the operating hours, and
AGE_LAST, which only power-on clears. -/
def State.keptPower (s : State) (powerOn : Bool) : Power :=
  let p := s.power
  let x := { Power.reset.under s.keptConfig.clkplan with pcap := s.keptConfig.pcap }
  if s.erased then { x with ageLast := if powerOn then 0 else p.ageLast }
  else
    Power.settled { x with
      margins := p.margins, monthly := p.monthly, raise := p.raise, hours := s.hoursNow, ageLast := if powerOn then 0 else p.ageLast }

/-- The management pair after a reset: the ledgers stay, and so does the count of takeovers except at power-on. -/
def State.keptMp (s : State) (powerOn : Bool) : Mp :=
  let m := s.mp
  let x := { Mp.reset with repairs := m.repairs, takeovers := if powerOn then 0 else m.takeovers }
  if s.erased then x else { x with retiredCores := m.retiredCores, retiredNodes := m.retiredNodes, passed := m.passed }

/-- The error log after a reset: the persistent records stay, and the log except at power-on. -/
def State.keptLog (s : State) (powerOn : Bool) : ErrLog :=
  let e := s.errs
  let x := { ErrLog.reset with candidates := if s.erased then [] else e.candidates, nodeCandidates := if s.erased then [] else e.nodeCandidates, persistent := if s.erased then [] else e.persistent }
  if powerOn then x else { x with log := e.log, next := e.next }

/-- The board after a reset: pins, straps, supplies and the test port are outside it; the boot count rises, and is lost at
power-on. What the MP has written of pseudo-channels leaves a decommissioned module (R492). -/
def Board.reboot (b : Board) (powerOn erased : Bool) : Board :=
  { b with
    pchRetired := if erased then none else b.pchRetired, pchCand := if erased then none else b.pchCand
    pchFailed := if erased then [] else b.pchFailed, pchPassed := b.pchPassed && !erased
    stage := .held, boot := if powerOn then 0 else b.boot + 1, hiUp := Vector.replicate 2 false, thermtripN := true, alertN := true
    cableAt := Vector.replicate 8 0, releasedAt := 0, failedCores := [], lost := [], veTested := false }

/-- Module reset: every die, both MPs and the time base; every job is lost (R375, R512). External memory keeps its bytes until the
fettle of the boot. [DEDUCED: log entry 102] -/
def State.resetModule (s : State) : State :=
  { State.reset with
    pending := s.pending, fresh := s.fresh, ident := s.ident, hbm := { s.hbm with corr := [] }
    dies := s.dies.map (fun x => (x.1, { Die.reset with fret := x.2.fret }))
    active := s.keptConfig, shadow := s.keptConfig, lastSet := s.keptConfig, power := s.keptPower false, mp := s.keptMp false, errs := s.keptLog false
    sec := { Security.reset with
      fuses := s.sec.fuses, images := s.sec.images.reboot s.erased
      idCert := if s.erased then Vector.replicate 2 [] else s.sec.idCert }
    board := s.board.reboot false s.erased }

/-- Power-on reset: as module reset, and external memory, the log, the boot count and AGE_LAST are lost. The hot-swap switch must
charge again. [DEDUCED: log entry 102] -/
def State.resetPower (s : State) : State :=
  let s' := s.resetModule
  { s' with
    hbm := Hbm.reset, power := s.keptPower true, mp := s.keptMp true, errs := s.keptLog true
    board := { s.board.reboot true s.erased with
      charged := false, vcbl := Vector.replicate 8 false, vcblCut := Vector.replicate 8 false
      tap := .idcode, loaded := [], captured := [], driving := false } }

/-- The label of the device identity key, "KW2 DEVICE ID" (R479). -/
def identityLabel : List Byte := [0x4B, 0x57, 0x32, 0x20, 0x44, 0x45, 0x56, 0x49, 0x43, 0x45, 0x20, 0x49, 0x44]

/-- Boot stages 1 and 2 of the processors: a ROM whose test of its engines fails halts its MP; another derives the device identity key
from the device secret and locks the secret (R478, R479, R482). -/
def RomState.boot (secret : BitVec 256) (fails : Bool) : RomState :=
  { halted := fails, locked := !fails, identity := if fails then none else some (Config.hkdf secret identityLabel), alias_ := none }

/-- Bring-up begins: stage A (Table 17-1). A boot that finds the module decommissioned in part completes it (R492).
[DEDUCED: log entry 105] -/
def State.beginBoot (s : State) (fails : BitVec 2) : State :=
  let f := s.sec.fuses
  let f := if f.decom ≠ 0 then { f with decom := 0xF, secret := BitVec.allOnes 256 } else f
  { s with
    sec := { s.sec with fuses := f, rom := Vector.ofFn (fun mp => RomState.boot f.secret (fails.getLsbD mp.val)) }
    board := { s.board with stage := .a } }

/-! ### What a reset interrupts (R492, R513) -/

/-- A COMMIT has arrived and has not yet blown its fuses. -/
def State.committing (s : State) : Bool :=
  allSources.any (fun x => (s.box x).busy && decide ((s.box x).opc = 0x81 ∧ word32At (s.box x).payload 0 % 256 = 6))

/-- The fuses as the next boot finds them: of a transition whose fettle has been done so many writes are, and of a commit the bits that a
read returns, between those before it and those of the running image. [DESIGN CHOICE: log entry 154] -/
def State.cutFuses (s : State) (cut : ResetCut) : Fuses :=
  let f := s.sec.fuses
  let f := match s.mp.fettles with | x :: _ => f.blown x.act cut.fuses | [] => f
  match cut.commit, s.sec.images.runs s.activeMp with
  | some (svn, rev), some x =>
    if s.committing ∧ f.svn ≤ svn ∧ svn ≤ imgSvn x ∧ rev &&& BitVec.ofNat 4 (imgRevoke x) = rev then
      { f with svn := svn, revoked := f.revoked ||| rev }
    else f
  | _, _ => f

/-- An entry of the SPI NORs whose write the reset interrupts is unreadable, and discarded at the next boot: the newest persistent record, a
ledger entry, an image slot, or the newest configuration set, before which another stands.
[DESIGN CHOICE: log entry 154] -/
def State.cutBy (s : State) (cut : ResetCut) : State :=
  let m := s.mp
  let i := s.sec.images
  { s with
    active := if cut.config then s.lastSet else s.active
    errs := if cut.record then { s.errs with persistent := s.errs.persistent.dropLast } else s.errs
    mp := match cut.ledger with
      | some q => { m with retiredCores := ndel m.retiredCores q, retiredNodes := ndel m.retiredNodes q }
      | none => m
    sec := { s.sec with
      fuses := s.cutFuses cut
      images := match cut.slot with | some (b, k) => i.setSlot (if b then 1 else 0) k none | none => i } }

/-- 12 V is applied, or the input has been below 10.2 V for 20 µs (R512). [DEDUCED: log entry 102] -/
def execPowerOnReset (s : State) (cut : ResetCut := {}) : Out := .next (s.cutBy cut).resetPower

/-- RESET_N is asserted: for 2 µs or more it resets the module, which stays held until its release; a shorter assertion does
nothing (R509). [DEDUCED: log entry 102] -/
def execModuleReset (widthNs : Nat) (s : State) (cut : ResetCut := {}) : Out :=
  .next (if widthNs < 2000 then s
    else let t := (s.cutBy cut).resetModule; { t with board := { t.board with resetN := false } })

/-- A test-port instruction that drives pins ends with the release of RESET_N, and acts as BYPASS (R530). -/
def Board.released (b : Board) : Board :=
  let drives : Bool := decide (b.tap = .extest ∨ b.tap = .clamp ∨ b.tap = .highz)
  { b with tap := if drives then .bypass else b.tap, driving := false }

/-- RESET_N is released: the straps are read, and bring-up begins once the hot-swap switch has charged (R510, R537, R543). The
reference clock is back by then (R508, R549). [DEDUCED: log entry 105] -/
def execResetRelease (bmcsel : Bool) (mid : BitVec 4) (s : State) (fails : BitVec 2 := 0) : Out :=
  if s.board.resetN ∨ s.board.stage ≠ .held then .next s
  else
    let s := { s with board := { s.board.released with
      resetN := true, releasedAt := s.now, bmcsel := bmcsel, mid := mid, refclk := true } }
    .next (if s.board.charged then s.beginBoot fails else s)

/-- The hot-swap switch has charged; a release of RESET_N that came before takes effect (R543). -/
def execHotswapChargeDone (s : State) (fails : BitVec 2 := 0) : Out :=
  if s.board.charged ∨ s.board.cut then .next s
  else
    let s := { s with board := { s.board with charged := true } }
    .next (if s.board.resetN then ({ s with board := { s.board with releasedAt := s.now } } : State).beginBoot fails else s)

/-- The module resets itself 100 ms after a command (R488, R492). [DESIGN CHOICE: log entry 92] -/
def execDelayedReset (s : State) (fails : BitVec 2 := 0) : Out :=
  match s.mp.resetAt with
  | none => .next s
  | some t => .next ((s.wait t).resetModule.beginBoot fails)

/-- A host interface is reset: its link and configuration space, with its MSI-X table, MBIEN and DOE connection; no mailbox, no
command and no job is affected (Table 17-2). [DEDUCED: log entry 105] -/
def execHostInterfaceReset (hi : Fin 2) (pin : Bool) (s : State) : Out :=
  let b := s.board
  .next { s with
    board := { b with hiUp := b.hiUp.set hi false, perstN := if pin then b.perstN.set hi false else b.perstN }
    host := { s.host with
      mbien := 0, msix := s.host.msix.filter (fun x => decide (x.1 ≠ hi)), msixTable := s.host.msixTable.set hi [] }
    sec := { s.sec with spdm := s.sec.spdm.set (Fin.ofNat 3 (hi.val + 1)) .none } }

/-- A host interface begins link training, 20 ms after the release of RESET_N and 1 ms after that of its PERST (R547). Stage B begins
with it (Table 17-1). -/
def execHiTrainingStart (hi : Fin 2) (s : State) : Out :=
  if s.board.stage = .held then .next s
  else
    let s := s.wait (s.board.releasedAt + 20000000)
    .next { s with board := { s.board with
      stage := if s.board.stage = .a then .b else s.board.stage, hiUp := s.board.hiUp.set hi true, perstN := s.board.perstN.set hi true } }

/-! ### Boot (R482) -/

/-- A slot of a processor holds an image that verifies. -/
def State.slotGood (s : State) (mp k : Fin 2) : Bool :=
  match (s.sec.images.slots[mp])[k] with
  | some x => s.sec.fuses.verifies x
  | none => false

/-- The slot that boots: the one marked, or slot 0 without a mark, when it verifies, and the other otherwise. -/
def State.bootSlot (s : State) (mp : Fin 2) : Option (Fin 2) :=
  let k := (s.sec.images.next[mp]).getD 0
  let o : Fin 2 := if k = 0 then 1 else 0
  if s.slotGood mp k then some k else if s.slotGood mp o then some o else none

/-- Boot stage 3: the ROM verifies and chooses a slot; with none it stays in the ROM (R484). Stage C comes after stage B, which begins 20
ms after the release of RESET_N also where no interface trains. [DEDUCED: log entry 105] -/
def execBootImageVerify (mpB : Bool) (s : State) : Out :=
  let mp : Fin 2 := if mpB then 1 else 0
  if s.board.stage = .held ∨ s.mpHeld mp ∨ (s.sec.images.running[mp]).isSome then .next s
  else
    let s := if s.board.stage = .a then s.wait (s.board.releasedAt + 20000000) else s
    let k := s.bootSlot mp
    let s := s.mapImages (fun i => { i with chosen := i.chosen.set mp k })
    .next { s with board := { s.board with stage := if s.board.stage = .a ∨ s.board.stage = .b then .c else s.board.stage } }

/-- The persistent records that the log does not hold are copied into it, with their own BOOT and TIME (R514).
[DESIGN CHOICE: log entry 103] -/
def ErrLog.recall (e : ErrLog) : ErrLog :=
  let new := e.persistent.filter (fun r => !e.log.any (fun q => decide ({ q with idx := r.idx } = r)))
  new.foldl (fun e r => { e with log := lastN 65536 (e.log ++ [{ r with idx := e.next }]), next := e.next + 1 }) e

/-- The info of the alias key: the measurement of the image that runs (R479). -/
def aliasInfo (image : Option (List Byte)) : List Byte :=
  leBytes 48 ((image.map (fun x => (Config.sha384 (x.take 4096)).toNat)).getD 0)

/-- Boot stage 4: the chosen image is measured, the alias key is derived from the device secret and the measurement, and the image is
started (R479). The active processor's firmware ends stage D. -/
def execFirmwareStart (mpB : Bool) (s : State) : Out :=
  let mp : Fin 2 := if mpB then 1 else 0
  let i := s.sec.images
  if s.board.stage = .held ∨ s.mpHeld mp ∨ (i.running[mp]).isSome then .next s
  else
    match i.chosen[mp] with
    | none => .next s
    | some k =>
      let t : Bool := decide (i.next[mp] = some k)
      let s := s.mapImages (fun i =>
        { i with running := i.running.set mp (some k), chosen := i.chosen.set mp none, trial := i.trial.set mp t
                 startedAt := i.startedAt.set mp (some s.now) })
      let key := Config.hkdf s.sec.fuses.secret (aliasInfo (s.sec.images.runs mp))
      let s := { s with sec := { s.sec with rom := s.sec.rom.set mp { s.sec.rom[mp] with alias_ := some key } } }
      if mp = s.activeMp then
        .next { s with errs := s.errs.recall
                       board := { s.board with stage := if s.board.stage = .a ∨ s.board.stage = .b ∨ s.board.stage = .c then .d
                                                        else s.board.stage } }
      else .next s

/-- The image started from the next-boot slot has not reached READY within 10 s: the MP is reset, the mark is cleared, and the
other slot boots. [DEDUCED: log entry 106] -/
def execFwWatchdog (mpB : Bool) (s : State) : Out :=
  let mp : Fin 2 := if mpB then 1 else 0
  let i := s.sec.images
  match i.running[mp], i.startedAt[mp] with
  | some k, some t =>
    if !i.trial[mp] ∨ s.mp.ready ∨ s.mpHeld mp then .next s
    else
      let s := s.wait (t + 10 ^ 10)
      let o : Fin 2 := if k = 0 then 1 else 0
      let back := if s.slotGood mp o then some o else none
      let s := s.mapImages (fun i =>
        { i with running := i.running.set mp none, next := i.next.set mp none, trial := i.trial.set mp false
                 startedAt := i.startedAt.set mp none, chosen := i.chosen.set mp back })
      if mp = s.activeMp then .next { s with board := { s.board with stage := .c } } else .next s
  | _, _ => .next s

/-! ### Stages E to I (Table 17-1) -/

/-- The record of a loss: an E-die's is EDIE_LOST (Table 17-5); the cause of a stack's and of a rail's is not stated.
[DESIGN CHOICE: log entry 132] -/
def lossEvent (x : BootLoss) : Event :=
  match x with
  | .edie e => { mpEvent 3 0x0707 [] with die := 32 + e.val }
  | .stack k => { mpEvent 3 (Config.lossCause k.val) [] with die := 32 + k.val / 2, unit := 10, pos := k.val }
  | .rail d => { mpEvent 3 (Config.lossCause (16 + d.val)) [] with die := d.val, unit := 14 }

/-- An E-die, a whole stack or a die rail fails in bring-up: fatal-to-module, and the module needs return (R20, R511). -/
def State.lose (s : State) (x : BootLoss) : State :=
  ({ s with mp := { s.mp with needRet := true }, board := { s.board with lost := s.board.lost ++ [x] } } : State).log (lossEvent x)

/-- Stage E: fields of the configuration set are in force, pseudo-channels that fail training are retired where the module can,
and what is lost is recorded (R511). [DESIGN CHOICE: log entry 132] -/
def execConfigRestore (hbmFail : List (BitVec 10)) (s : State) (lost : List BootLoss := []) : Out :=
  if s.board.stage ≠ .d ∨ !s.firmwareUp then .next s
  else
    let s := { s with shadow := s.active, board := { s.board with stage := .e } }
    let s := s.followPlan clkDefault
    .next (lost.foldl State.lose (hbmFail.foldl (fun s p => s.channelCandidate p) s))

/-- The table of a die in raster order over the positions that are not retired (R305). -/
def rasterOf (n : Nat) (retired : NatSet) : Table Nat :=
  (List.range n).zip ((List.range 272).filter (fun p => !nhas retired p))

/-- A table maps every index of the grade to a position of its own that no fuse retires. [DEDUCED: log entry 104] -/
def CoreMap.sound (m : CoreMap) (n : Nat) (fret : NatSet) : Bool :=
  decide (m.remap.map (fun x => x.1) = List.range n) && m.remap.all (fun x => decide (x.2 < 272) && !nhas fret x.2) &&
    decide ((ninsAll [] (m.remap.map (fun x => x.2))).length = n)

/-- A die's map at module reset: the table as it is kept, so that the moves of R306 stay, or, where that is not one of every
index of the grade on positions that fuses leave, a new one in raster order. [DEDUCED: log entry 104] -/
def State.bootMap (s : State) (d : Nat) : State :=
  let f := (s.die d).fret
  let n := perDie s.ident.code
  if f.isEmpty && (s.active.maps.all (fun x => x.1 != d)) then s
  else
    let m := s.coreMap d
    if m.sound n f then s else s.mapMap d (fun m => { m with remap := rasterOf n (ninsAll f (m.cret ++ m.nret)), off := [] })

/-- Indices of the grade that a die cannot map: it leaves service (R308). -/
def State.checkMap (s : State) (d : Nat) : State :=
  if (s.coreMap d).remap.length < perDie s.ident.code then s.exhausted d none else s

/-- The tables of every die are built from fuses, ledger and self-test (R305, R306, R310).
[DEDUCED: log entry 104] -/
def State.buildMaps (s : State) : State :=
  (List.range 32).foldl (fun s d => ((s.bootMap d).checkMap d).settleDie d) s.rejoin |>.rejoin

/-- Stage F: what fails self-test is retired, repairs are applied, the tables are built, and the module fettle begins (R503,
R511). -/
def execSelfTest (failed : List CorePos) (s : State) : Out :=
  if s.board.stage ≠ .e ∨ !s.firmwareUp then .next s
  else
    let qs := packageOf failed
    let s := { s with board := { s.board with failedCores := ninsAll s.board.failedCores qs, stage := .f } }
    let s := ({ s with mp := { s.mp with retiredCores := ninsAll s.mp.retiredCores (qs ++ s.errs.candidates) }
                       errs := { s.errs with candidates := [] } } : State).retireNodes s.errs.nodeCandidates
    .next (s.applyAllRepairs.applyHbmRepairs.buildMaps.addFettle { scope := .whole, src := none })

/-- Stage H: enabled ports train, and heartbeats begin (R322). -/
def execBringupPortTrain (s : State) : Out :=
  if s.board.stage ≠ .g ∨ !s.firmwareUp then .next s
  else
    let s := { s with board := { s.board with stage := .h } }
    let s := (List.finRange 48).foldl (fun s p => s.enablePort p PortCfg.default s.active.ports[p]) s
    .next { s with mp := { s.mp with wordAt := s.now, wordState := s.mstate } }

/-- MP-B runs another image than MP-A: it is treated as lost (R483). [DEDUCED: log entry 106] -/
def State.compareImages (s : State) : State :=
  let i := s.sec.images
  if s.mp.heldA ∨ s.mp.heldB ∨ (i.runs 0).map (fun x => x.take 4096) = (i.runs 1).map (fun x => x.take 4096) then s
  else ({ s with mp := { s.mp with heldB := true, standbyLost := true } } : State).log (mpEvent 1 0x0703 [])

/-- Stage I: the measurements are compared, and READY is set, with its notice; never in DECOMMISSIONED, and never where an E-die,
a stack or a die rail is lost (R483, R490, R510, R511). [DEDUCED: log entry 106] -/
def execBringupReady (s : State) : Out :=
  if s.board.stage ≠ .h ∨ !s.firmwareUp then .next s
  else
    let s := s.compareImages
    if s.sec.fuses.decom ≠ 0 ∨ !s.board.lost.isEmpty then .next s
    else
      let s := { s with mp := { s.mp with ready := true }, board := { s.board with stage := .ready } }
      let s := s.mapImages (fun i => { i with trial := Vector.replicate 2 false })
      .next (s.log (noticeEvent 0x0808 0 []))

end Sys2Proof.Machine
end

