-- ==== Sys2Proof/Machine/BoardRows.lean ====
section
/-! DEFINITION. The board's supplies, cables and reference clock (R513, R540, R542, R549), and the test access port (R493,
R529, R530). -/

namespace Sys2Proof.Machine

/-! ### Supplies and cables -/

/-- The board changed. -/
def State.mapBoard (s : State) (f : Board → Board) : State := { s with board := f s.board }

/-- The input lies between 10.2 V and 10.8 V for 1 ms: SUPPLY_LOW, once for the excursion (R513). -/
def execSupplyLow (s : State) : Out := if !s.firmwareUp then .next s else .next (s.log (mpEvent 1 0x060A []))

/-- The input lies above 13.8 V for 10 µs: the hot-swap switch opens, and the power-on reset follows (R542). -/
def execOvervoltageCut (s : State) : Out := .next (s.resetPower.mapBoard (fun b => { b with cut := true }))

/-- The switch closes again after 1 ms below 13.2 V, and power-up runs again (R542). -/
def execHotswapReclose (s : State) : Out := .next (s.mapBoard (fun b => { b with cut := false }))

/-- The reference clock is lost: every port loses lock and its heartbeats stop (R549). [DEDUCED: log entry 106] -/
def execRefclkLoss (s : State) : Out :=
  let s := s.mapBoard (fun b => { b with refclk := false })
  .next ((List.finRange 48).foldl (fun s p =>
    if (s.port p).st = .disabled then s
    else
      let was := (s.port p).st
      let s := s.mapPort p (fun x =>
        { x with st := .down, lanes := x.lanes.map (fun l => if l.st = .disabled then l else { l with st := .failed }) })
      if was = .active then s.leaveActive p else s) s)

/-- CBL_PRES_N changes: without a cable VCBL is off, and an overcurrent is forgotten (R540). -/
def execCablePresenceChange (conn : Fin 8) (present : Bool) (s : State) : Out :=
  .next (s.mapBoard (fun b =>
    { b with cable := b.cable.set conn present, cableAt := b.cableAt.set conn s.now
             vcbl := if present then b.vcbl else b.vcbl.set conn false
             vcblCut := if present then b.vcblCut else b.vcblCut.set conn false }))

/-- VCBL switches on 10 ms after the cable has come (R540). -/
def execVcblOn (conn : Fin 8) (s : State) : Out :=
  let b := s.board
  if !b.charged ∨ !b.cable[conn] ∨ b.vcblCut[conn] then .next s
  else .next ((s.wait (b.cableAt[conn] + 10000000)).mapBoard (fun b => { b with vcbl := b.vcbl.set conn true }))

/-- VCBL switches off for overcurrent, until the cable has left and come again (R540). -/
def execVcblOvercurrent (conn : Fin 8) (s : State) : Out :=
  if !s.board.vcbl[conn] then .next s
  else .next (s.mapBoard (fun b => { b with vcbl := b.vcbl.set conn false, vcblCut := b.vcblCut.set conn true }))

/-! ### Test access port (Table 17-13) -/

/-- An instruction becomes current, and drives the pins or not. -/
def Board.tapTo (b : Board) (i : TapInsn) (driving : Bool) : Board := { b with tap := i, driving := driving }

/-- BYPASS. -/
def execBypass (s : State) : Out := .next (s.mapBoard (fun b => b.tapTo .bypass false))

/-- IDCODE. -/
def execIdcode (s : State) : Out := .next (s.mapBoard (fun b => b.tapTo .idcode false))

/-- SAMPLE/PRELOAD: the boundary register captures the pins and is loaded, without driving. -/
def execSamplePreload (pins : List Bool) (load : List Bool) (s : State) : Out :=
  .next (s.mapBoard (fun b => { b.tapTo .sample false with captured := pins, loaded := load }))

/-- An instruction that takes effect only while RESET_N is asserted, and acts as BYPASS at any other time (R530). -/
def tapInReset (i : TapInsn) (driving : Bool) (s : State) : Out :=
  .next (s.mapBoard (fun b => if b.resetN then b.tapTo .bypass false else b.tapTo i driving))

/-- EXTEST: the boundary register drives the pins. -/
def execExtest (s : State) : Out := tapInReset .extest true s

/-- CLAMP: the pins are held from the boundary register. -/
def execClamp (s : State) : Out := tapInReset .clamp true s

/-- HIGHZ: the outputs are at high impedance. -/
def execHighz (s : State) : Out := tapInReset .highz false s

/-- A private instruction: opened by the unlock level, and only while RESET_N is released; BYPASS otherwise, as every other code
(R493, R530). [DESIGN CHOICE: log entry 101] -/
def execTapPrivate (code : Byte) (s : State) : Out :=
  let opened : Bool := decide (0x80 ≤ code.toNat ∧ code.toNat ≤ 0xFE) && s.board.resetN &&
    (decide (s.sec.level = 2) || (decide (s.sec.level = 1) && !Config.tapScan code))
  .next (s.mapBoard (fun b => b.tapTo (if opened then .vendor code else .bypass) false))

/-- TRST_N resets the test logic: IDCODE is current. -/
def execTapReset (s : State) : Out := .next (s.mapBoard (fun b => b.tapTo .idcode false))

end Sys2Proof.Machine
end

