-- ==== Sys2Proof/Machine/Control.lean ====
section
/-! DEFINITION. Jumps, branches, hardware loops and the CSR instructions (R83, R88, R89, R91), with the commands that are
the reads and writes of one CSR. -/

namespace Sys2Proof.Machine

/-- ALIGN at an instruction that names an unaligned code address in operand a (R68). -/
def codeAlign (target : Nat) : List Exc := if target % 4 = 0 then [] else [exc 0x02 2 0 target]

/-- JMP. -/
def execJmp (a : Site) (w : SeWord) (s : State) : Out :=
  seCmd a (jmpForm w) w
    (fun _ c o => codeAlign (o.a.value c a.thread)) noWaits
    (fun e o c => (c.increments a.thread o).jump e a.thread (BitVec.ofNat 32 (o.a.value c a.thread))) s

/-- CALL: the link is the address of the next instruction. -/
def execCall (a : Site) (w : SeWord) (s : State) : Out :=
  seCmd a (callForm w) w
    (fun _ c o => codeAlign (o.a.value c a.thread)) noWaits
    (fun e o c =>
      let link := (c.th a.thread).r.pc.toNat + lenBytes w.len
      ((c.writeDest a.thread o.d.dest 4 link).increments a.thread o).jump e a.thread
        (BitVec.ofNat 32 (o.a.value c a.thread))) s

/-- The condition MOD names for B and BU: EQ, NE, LT, GE. -/
def branchCond (m : BitVec 2) : Cond :=
  match m.toNat with
  | 0 => .eq
  | 1 => .ne
  | 2 => .lt
  | _ => .ge

/-- A condition between two integers. -/
def condInt (c : Cond) (x y : Int) : Bool :=
  match c with
  | .eq => decide (x = y)
  | .ne => decide (x ≠ y)
  | .lt => decide (x < y)
  | .le => decide (x ≤ y)
  | .ge => decide (y ≤ x)
  | .un => false

/-- The end of a branch: taken, to the branch's own address plus four times the offset, or not (R83, R89). -/
def Core.branch (e : Env) (t : Fin 4) (len : BitVec 2) (o : Operands) (taken : Bool) (c : Core) : Core :=
  if taken then
    (c.increments t o).jump e t ((c.th t).r.pc + BitVec.ofNat 32 (4 * o.d.value c t))
  else c.finish t len o

/-- B (R83, R42). -/
def execB (a : Site) (w : SeWord) (s : State) : Out :=
  seCmd a (branchForm (anyTy w)) w noExtra noWaits
    (fun e o c =>
      let x := o.a.value c a.thread
      let y := o.b.value c a.thread
      if w.sz = 4 then
        let p := compareFl (branchCond w.mod) (dec32 x) (dec32 y)
        (c.flag p.2).branch e a.thread w.len o p.1
      else
        let n := 8 * o.a.ty.bytes
        c.branch e a.thread w.len o (condInt (branchCond w.mod) (signed n x) (signed n y))) s

/-- BU (R83). -/
def execBu (a : Site) (w : SeWord) (s : State) : Out :=
  seCmd a (branchForm (intTy w)) w noExtra noWaits
    (fun e o c => c.branch e a.thread w.len o
      (condInt (branchCond w.mod) (o.a.value c a.thread) (o.b.value c a.thread))) s

/-- LOOP starts a level (R88). -/
def Regs.startLoop (r : Regs) (n : Nat) (start stop : Word) : Regs :=
  let i := Fin.ofNat 4 r.ldepth.toNat
  { r with ls := r.ls.set i start, le := r.le.set i stop, lc := r.lc.set i (BitVec.ofNat 32 n), ldepth := r.ldepth + 1
           pc := start }

/-- LOOP (R88). [DEDUCED: log entry 19] -/
def execLoop (a : Site) (w : SeWord) (s : State) : Out :=
  seCmd a (loopForm w) w
    (fun _ c o =>
      (if 1 ≤ signed 32 (o.b.value c a.thread) then [] else [exc 0x01 3 0 0]) ++
      (if o.a.value c a.thread ≠ 0 ∧ 4 ≤ (c.th a.thread).r.ldepth.toNat then [exc 0x11 0 0 0] else [])) noWaits
    (fun e o c =>
      let n := o.a.value c a.thread
      let start := (c.th a.thread).r.pc + BitVec.ofNat 32 (lenBytes w.len)
      let stop := start + BitVec.ofNat 32 (4 * o.b.value c a.thread)
      let c := c.increments a.thread o
      if n = 0 then c.jump e a.thread stop else c.mapR a.thread (fun r => r.startLoop n start stop)) s

/-- LBREAK ends the innermost active level and does not branch (R89). -/
def Regs.endLoop (r : Regs) : Regs :=
  if r.ldepth = 0 then r
  else { r with lc := r.lc.set (Fin.ofNat 4 (r.ldepth.toNat - 1)) 0, ldepth := r.ldepth - 1 }

/-- LBREAK. -/
def execLbreak (a : Site) (w : SeWord) (s : State) : Out :=
  seCmd a (noneForm w) w noExtra noWaits
    (fun _ o c => (c.mapR a.thread Regs.endLoop).finish a.thread w.len o) s

/-! ### CSR instructions -/

/-- ILLEGAL_INSN for the number of a CSR instruction that no table assigns (R91). -/
def csrExtra (c : Core) (num : Nat) : List Exc := if csrAssigned c num then [] else [exc 0x01 2 0 0]

/-- CSRR of a number that `here` accepts; of any other the command does not occur. -/
def csrrCmd (here : Nat → Bool) (a : Site) (w : SeWord) (s : State) : Out :=
  seCmd a (csrrForm w) w (fun _ c o => csrExtra c (o.a.value c a.thread))
    (fun _ c o => !here (o.a.value c a.thread))
    (fun e o c =>
      let num := o.a.value c a.thread
      ((csrReadEffect e a.thread num c).writeDest a.thread o.d.dest o.d.ty.bytes (csrValue e a.thread num c)).finish
        a.thread w.len o) s

/-- The exceptions a CSRW raises. -/
def csrwExtra (e : Env) (t : Fin 4) (w : SeWord) (c : Core) (o : Operands) : List Exc :=
  let num := o.a.value c t
  if csrAssigned c num then
    match csrWrite e t num w (o.b.value c t % 2 ^ 32) c with
    | .raises x => [x]
    | _ => []
  else csrExtra c num

/-- CSRW where `here` accepts the number and the value; otherwise the command does not occur. -/
def csrwCmd (here : Core → Nat → Nat → Bool) (a : Site) (w : SeWord) (s : State) : Out :=
  seCmd a (csrwForm w) w (fun e c o => csrwExtra e a.thread w c o)
    (fun e c o =>
      let num := o.a.value c a.thread
      let v := o.b.value c a.thread % 2 ^ 32
      !here c num v || match csrWrite e a.thread num w v c with
        | .hold => true
        | _ => false)
    (fun e o c =>
      match csrWrite e a.thread (o.a.value c a.thread) w (o.b.value c a.thread % 2 ^ 32) c with
      | .done c => c.finish a.thread w.len o
      | .stall st c => c.mapTh a.thread (fun h => { h with stall := st })
      | _ => c) s

/-- CSRR of any CSR. -/
def execCsrr (a : Site) (w : SeWord) (s : State) : Out := csrrCmd (fun _ => true) a w s

/-- CSRW of any CSR. [DEDUCED: log entry 17] -/
def execCsrw (a : Site) (w : SeWord) (s : State) : Out := csrwCmd (fun _ _ _ => true) a w s

/-- CSRR of CYCLE_LO (R92). -/
def execCycleLoRead (a : Site) (w : SeWord) (s : State) : Out := csrrCmd (fun n => n == 0x006) a w s

/-- CSRR of TIME_LO (R375). -/
def execTimeLoRead (a : Site) (w : SeWord) (s : State) : Out := csrrCmd (fun n => n == 0x008) a w s

/-- CSRW of LDEPTH (Table 3-12). -/
def execLdepthWrite (a : Site) (w : SeWord) (s : State) : Out := csrwCmd (fun _ n _ => n == 0x106) a w s

/-- CSRW of RNCTLn without FLUSH (R112). [DEDUCED: log entry 18] -/
def execRnctlWrite (a : Site) (w : SeWord) (s : State) : Out :=
  csrwCmd (fun _ n v => decide (0x088 ≤ n ∧ n ≤ 0x08F) && !v.testBit 24) a w s

/-- CSRW of RNCTLn with FLUSH (R112). -/
def execRunnerFlush (a : Site) (w : SeWord) (s : State) : Out :=
  csrwCmd (fun _ n v => decide (0x088 ≤ n ∧ n ≤ 0x08F) && v.testBit 24) a w s

/-- CSRW of EVTMR_CNT (R116). -/
def execEvtmrCntWrite (a : Site) (w : SeWord) (s : State) : Out := csrwCmd (fun _ n _ => n == 0x093) a w s

/-- CSRW of CVCTL of a stream (R59). -/
def execCvctlWrite (a : Site) (w : SeWord) (s : State) : Out :=
  csrwCmd (fun _ n _ => decide (0x0C8 ≤ n ∧ n ≤ 0x0F7) && n % 8 == 0) a w s

/-- CSRW of CVSEED of a stream (R59). -/
def execCvseedWrite (a : Site) (w : SeWord) (s : State) : Out :=
  csrwCmd (fun _ n _ => decide (0x0C8 ≤ n ∧ n ≤ 0x0F7) && n % 8 == 1) a w s

/-- CSRR of CVRMAX_RC of a stream (R60). -/
def execCvrmaxRcRead (a : Site) (w : SeWord) (s : State) : Out :=
  csrrCmd (fun n => decide (0x0C8 ≤ n ∧ n ≤ 0x0F7) && n % 8 == 3) a w s

/-- CSRR of CVSAT of a stream (R60). -/
def execCvsatRead (a : Site) (w : SeWord) (s : State) : Out :=
  csrrCmd (fun n => decide (0x0C8 ≤ n ∧ n ≤ 0x0F7) && n % 8 == 4) a w s

/-- CSRW of VG with WAKE 1 (R158). -/
def execVgWakeWrite (a : Site) (w : SeWord) (s : State) : Out :=
  csrwCmd (fun _ n v => n == 0x019 && v.testBit 29) a w s

/-- CSRW of TCFGn (R162, R166). -/
def execTcfgWrite (a : Site) (w : SeWord) (s : State) : Out :=
  csrwCmd (fun _ n _ => decide (0x010 ≤ n ∧ n ≤ 0x017)) a w s

/-- CSRW of DQq_CTL with RESUME 1 (R272). -/
def execDqResume (a : Site) (w : SeWord) (s : State) : Out :=
  csrwCmd (fun _ n v => decide (0x200 ≤ n ∧ n < 0x240) && n % 16 == 0 && v.testBit 1) a w s

/-- CSRW of DQq_CTL with FLUSH 1 (R272). -/
def execDqFlush (a : Site) (w : SeWord) (s : State) : Out :=
  csrwCmd (fun _ n v => decide (0x200 ≤ n ∧ n < 0x240) && n % 16 == 0 && v.testBit 0) a w s

/-- The gate a number of 0x040 to 0x07F belongs to. -/
def gateOfNum (c : Core) (n : Nat) : Gate := c.spm.gates[Fin.ofNat 16 ((n - 0x040) / 4)]

/-- CSRW of GATEn_CTL that leaves OPEN 1 (R213, R214). -/
def execGateOpen (a : Site) (w : SeWord) (s : State) : Out :=
  csrwCmd (fun c n v => decide (0x040 ≤ n ∧ n ≤ 0x07F) && n % 4 == 2 &&
    (csrMerge w.mod (gateOfNum c n).ctl v).testBit 0) a w s

/-- CSRW of GATEn_CTL that leaves OPEN 0 (R215). -/
def execGateClose (a : Site) (w : SeWord) (s : State) : Out :=
  csrwCmd (fun c n v => decide (0x040 ≤ n ∧ n ≤ 0x07F) && n % 4 == 2 &&
    !(csrMerge w.mod (gateOfNum c n).ctl v).testBit 0) a w s

/-- CSRW of GATEn_BASE or GATEn_LIMIT (R214). -/
def execGateRegWrite (a : Site) (w : SeWord) (s : State) : Out :=
  csrwCmd (fun _ n _ => decide (0x040 ≤ n ∧ n ≤ 0x07F) && decide (n % 4 < 2)) a w s

/-- The closing of a gate completes (R215). -/
def execGateCloseComplete (core : BitVec 13) (gate : Fin 16) (s : State) : Out :=
  onCore core (fun _ c => c.settleGate gate) s

end Sys2Proof.Machine
end

