-- ==== Sys2Proof/Machine/JobCmd.lean ====
section
/-! DEFINITION. JOB_START, JOB_STATUS, JOB_KILL with its quarantine, and the capture of a killed job's cores (R64, R156, R400,
R407, R429, R432, R462, R473, R497 to R501, R521). -/

namespace Sys2Proof.Machine

/-! ### Starting a job -/

/-- A core is released: its threads may issue, and CYCLE counts from 0 (R64). -/
def Core.start (c : Core) : Core := { c with released := true, cycle := 0 }

/-- The cores of a job restored from their save records of pour `n` (R407). [DEDUCED: log entry 59] -/
def State.restoreCores (s : State) (j : Fin 8) (n : Word) : State :=
  match s.flask.decl with
  | none => s
  | some d =>
    (s.recordAt d ((s.job j).cores.map (fun x => x.1)) d.saveArea.base.toNat).foldl (fun s x =>
      let old := s.core x.1
      s.setCore x.1 (s.afterReset x.1 (s.restoreFrom d n old.codeSize x.2).1)) s

/-- The ports that are ACTIVE (R400). -/
def State.activePorts (s : State) : NatSet :=
  ((List.finRange 48).filter (fun p => decide ((s.port p).st = .active))).map (fun p => p.val)

/-- What a JOB_START does to sizing: the estimator is trusted again, a calibration of 200 ms begins, and the fixed point is the
plan's (R429, R432). -/
def State.startPower (s : State) : State :=
  let p := s.power
  { s with power := { p with
      untrust := false, diverged := 0, fallback := false, fixnow := BitVec.ofNat 2 (s.active.clkplan.toNat / 2 ^ 29)
      calibrate := some (s.now + 200000000), dies := p.dies.map (fun x => { x with ratio := (1, 1) }) } }

/-- A job runs; one without cores has finished (R473). After a thermal shutdown the clocks of its cores stand still (R433). -/
def State.startJob (s : State) (j : Fin 8) (resume : Option Word) : State :=
  let s : State := match resume with | some n => s.restoreCores j n | none => s
  let s := if s.power.shutdown then s else (s.job j).cores.foldl (fun s x => s.setCore x.1 (s.core x.1).start) s
  let s := s.startPower.mapFlask (fun f =>
    if f.job = some (j.val + 1) then
      { f with commitAt := s.now, pstate := if f.pstate = .rollback then .open_ else f.pstate }
    else f)
  let none_ : Bool := (s.job j).cores.isEmpty
  let s := (s.mapJob j (fun b => { b with st := .running, resumable := none, ports := s.activePorts })).jobNotice j 2
  if none_ then (s.mapJob j (fun b => { b with st := .finished })).jobNotice j 3 else s

/-- JOB_START (R64, R156, R407). [DEDUCED: log entry 72] -/
def execJobStart (src : Source) (job : BitVec 8) (resume : Bool) (s : State) : Out :=
  mpCmd src (reqJobStart job resume) (withJob job (fun j s =>
    let b := s.job j
    if resume && b.resumable.isNone then denied s 3
    else if b.st ≠ .loaded ∧ (!resume ∨ b.st ≠ .faulted ∧ b.st ≠ .running) then denied s 0
    else if b.cores.any (fun x => (s.core x.1).ve.restr) then notReady s 1
    else okWith (s.startJob j (if resume then b.resumable else none)) (leBytes 8 s.now))) s

/-! ### Status -/

/-- The code of a job state (Table 15-9). -/
def JobState.code : JobState → Nat
  | .none => 0 | .loaded => 1 | .running => 2 | .finished => 3 | .faulted => 4 | .killed => 5

/-- The response of JOB_STATUS. -/
def State.jobStatus (s : State) (j : Fin 8) : List Byte :=
  let b := s.job j
  let count (p : Core → Bool) : Nat := (b.cores.filter (fun x => p (s.core x.1))).length
  let inState (st : ThState) (c : Core) : Bool := c.threads.any (fun h => decide (h.st = st))
  wordBytes [b.st.code, b.cores.length, count (fun c => c.finished), count (inState .faulted), count (fun c => c.frozen),
    count (inState .halted), if s.flask.job = some (j.val + 1) then s.flask.committed.toNat else 0, b.firstFatal.toNat]

/-- JOB_STATUS (R473): a free number is NONE. -/
def execJobStatus (src : Source) (job : BitVec 8) (s : State) : Out :=
  mpCmd src (reqJobStatus job) (fun s =>
    if job.toNat < 1 ∨ 8 < job.toNat then badArg s 0 else okWith s (s.jobStatus (Fin.ofNat 8 (job.toNat - 1)))) s

/-! ### Quarantine (R497) -/

/-- A debug session ends: breakpoints, watchpoints and STATUS.SSTEP are cleared, and every HALTED thread resumes (R521). -/
def Core.detach (e : Env) (c : Core) : Core :=
  let c := { c with
    dbg := { c.dbg with attached := false, crossAsked := false, bp := Vector.replicate 4 Breakpoint.reset
                        wp := Vector.replicate 2 Watchpoint.reset }
    threads := c.threads.map (fun h =>
      { h with x := { h.x with sstep := false }, haltAsked := 0, stepped := false, pass := h.pass || decide (h.st = .halted) }) }
  (List.finRange 4).foldl (fun c t => if (c.th t).st = .halted then c.setSt e t .running else c) c

/-- A granule whose accesses are all of the core's own scratchpad or of external memory. -/
def Granule.inside (g : Granule) : Bool :=
  g.reads.all (fun p => p.key.isNone) && (match g.write with | some p => p.key.isNone | none => true)

/-- A queue flushed as by FLUSH, with its remote and link requests abandoned. -/
def Dq.killed (d : Dq) : Dq :=
  { d with halt := false
           descs := dropAbandoned (d.descs.map (fun r => { r with abandoned := true, grans := r.grans.filter Granule.inside })) }

/-- A core freezes at a kill: no thread issues, every wait and every remote access is abandoned, the queues are flushed, and a
debug session ends. -/
def Core.killed (e : Env) (c : Core) : Core :=
  let c := (c.detach e).halted e
  { c with
    pourArrived := false
    threads := c.threads.map (fun h =>
      { h with stall := .none, stopAsked := false, st := if h.st = .waiting then .running else h.st })
    runners := c.runners.map (fun r => { r with sendWait := [], recvWait := [] })
    events := { c.events with waiters := Vector.replicate 32 [] }
    spm := { c.spm with waits := [], remote := [] }
    ve := { c.ve with q := [] }, me := { c.me with q := [] }
    de := { c.de with issue := [], q := c.de.q.map Dq.killed } }

/-- Nothing that the core issued is still to be performed. -/
def Core.quiet (c : Core) : Bool :=
  c.ve.run.isEmpty && c.me.run.isEmpty && c.spm.moves.isEmpty && (List.finRange 4).all (fun q => (c.de.q[q]).descs.isEmpty)

/-- A request of one of the cores, or of the mirror. -/
def Requester.among (ids : List CoreId) (mirror : Bool) : Requester → Bool
  | .dma c _ _ => ids.any (fun x => x == c)
  | .mirror _ _ => mirror
  | _ => false

/-- The requests of a job are abandoned: their tags are freed, so that late responses are discarded (R341, R403, R497). -/
def State.dropRequests (s : State) (ids : List CoreId) (mirror : Bool) : State :=
  { s with
    switch := { s.switch with waiting := s.switch.waiting.filter (fun o =>
      match o.who with | some w => !Requester.among ids mirror w | none => true) }
    ports := s.ports.map (fun x =>
      let p := x.2
      let gone := p.tags.filter (fun t => Requester.among ids mirror t.2.who)
      (x.1, { p with tags := p.tags.filter (fun t => !Requester.among ids mirror t.2.who)
                     cooling := gone.foldl (fun c t => tset c t.1 s.now) p.cooling })) }

/-- A pour in progress is abandoned, and nothing is streamed any more (Table 13-4). -/
def Flask.abandonPour (f : Flask) : Flask :=
  { f with
    pstate := if f.pstate = .none then .none else .open_, arrivedMods := [], savedMods := [], readyMods := [], unacked := []
    barrier := none, decided := f.committed, coord := .idle, stream := Vector.replicate 8 none, dirty := .empty, tail := .empty }

/-- The job is KILLED and quarantined; a partner that runs it is told (R497 steps 1 and 2, R499).
[DEDUCED: log entry 73] -/
def State.killJob (s : State) (j : Fin 8) (seq : Word) : State :=
  let ids := (s.job j).cores.map (fun x => x.1)
  let pours : Bool := decide (s.flask.job = some (j.val + 1))
  let told := s.partnerRuns j
  let s := ids.foldl (fun s id => s.setCore id ((s.core id).killed (s.env id))) s
  let s := s.dropRequests ids pours
  let s : State := if pours then { s.mapFlask (fun f => { f.abandonPour with remap := [] }) with host := { s.host with b2held := [] } } else s
  let s := s.mapJob j (fun b => { b with st := .killed, killSeq := seq, inForce := none, captured := false, resumable := none })
  let s := if told then s.post s.mpDie (s.message 5 s.active.bind.partner 4 0 (leBytes 16 killReport)) none else s
  s.jobNotice j 5

/-- Every other command that claims the killed job is denied with the SEQ of the JOB_KILL (R462). -/
def State.denyClaims (s : State) (src : Source) (j : Fin 8) : State :=
  allSources.foldl (fun s x =>
    let o := s.box x
    if x ≠ src ∧ o.busy ∧ o.claims.any (fun c => decide (c = .job (j.val + 1))) then
      (s.undoCommand x).complete x 4 (s.seqOf src) []
    else s) s

/-- JOB_KILL (R497, R499). Of a job already KILLED it only answers; the time of a quarantine that is not yet in force is a free
value. -/
def execJobKill (src : Source) (job : BitVec 8) (s : State) : Out :=
  mpCmd src (reqJobKill job) (withJob job (fun j s =>
    let b := s.job j
    if b.st = .killed then
      match b.inForce with
      | some t => okWith s (leBytes 8 t)
      | none => okWith { s with fresh := s.fresh + 1 } (leBytes 8 (Config.freeWord s.fresh).toNat)
    else waiting ((s.denyClaims src j).killJob j (s.box src).seq))) s

/-- The fettle of a killed job is due. -/
def State.killFettle (s : State) (j : Fin 8) : State :=
  if s.mp.fettles.any (fun f => decide (f.scope = .job j.val)) then s else s.addFettle { scope := .job j.val, src := none }

/-- The command of a killed job completes with a time. -/
def State.killAnswer (s : State) (j : Fin 8) : State :=
  let seq := (s.job j).killSeq
  match allSources.find? (fun x => decide ((s.box x).st = .running) && decide ((s.box x).opc = 0x12) && (s.box x).seq == seq) with
  | some x => s.complete x 0 0 (leBytes 8 s.now)
  | none => s

/-- The quarantine of a killed job is in force: every mark is applied, and nothing it issued is still to be performed. JOB_KILL
completes, and the capture or the job's fettle follows (R497 steps 3 and 4). [DEDUCED: log entry 73] -/
def execQuarantineInForce (job : Fin 8) (s : State) : Out :=
  let b := s.job job
  if b.st ≠ .killed ∨ b.inForce.isSome ∨ !b.cores.all (fun x => (s.core x.1).quiet) then .next s
  else
    let s := (s.mapJob job (fun b => { b with inForce := some s.now })).killAnswer job
    .next (if b.capture then s else s.killFettle job)

/-! ### Capture (R500) -/

/-- The words of one thread in a capture record: its registers of Table 3-2, and CSRs 0x100 to 0x113. -/
def Core.captureThread (e : Env) (t : Fin 4) (c : Core) : List Nat :=
  let r := (c.th t).r
  let two (d : DWord) : List Nat := [d.toNat % 2 ^ 32, d.toNat / 2 ^ 32]
  r.a.toList.map BitVec.toNat ++ r.p.toList.map BitVec.toNat ++ r.ls.toList.map BitVec.toNat ++ r.le.toList.map BitVec.toNat ++
    r.lc.toList.map BitVec.toNat ++ [r.ldepth.toNat] ++ two r.mh ++ two r.ml ++ two r.qot ++ two r.rem ++ [r.pc.toNat] ++
    (List.range 20).map (fun i => csrValue e t (0x100 + i) c)

/-- The numbers of the core CSRs of a capture record. -/
def captureCsrs (c : Core) : List Nat :=
  (List.range 0x300).filter (fun n => csrAssigned c n && !decide (0x100 ≤ n ∧ n < 0x200))

/-- The first 4 KiB of a capture record. The spec names the items and gives no order; this is the model's own. -/
def Core.captureHead (e : Env) (c : Core) : Payload :=
  let words (r : Runner) : List Nat :=
    (List.range 4).flatMap (fun i => let w := (r.words.getD i 0).toNat; [w % 2 ^ 32, w / 2 ^ 32])
  .clean (padTo 4096 (wordBytes ([e.id.toNat, c.thstate, c.waitobj, c.rnstat] ++
    (List.finRange 4).flatMap (fun t => c.captureThread e t) ++ (captureCsrs c).map (fun n => csrValue e 0 n c) ++
    c.runners.toList.flatMap words)))

/-- Zeros. -/
def zeros (n : Nat) : Payload := .clean (List.replicate n 0)

/-- A tile with its sidecar; one that is not in use reads as zero (R164). -/
def Core.captureTile (c : Core) (n : Fin 8) : Payload :=
  if c.me.cfg[n].inuse then
    (payloadOf c.me.tiles c.me.tpoison (8192 * n.val) 8192).append (payloadOf c.me.side c.me.spoison (512 * n.val) 512)
  else zeros 8704

/-- The capture record of a core (Table 16-11). [DESIGN CHOICE: log entry 56] -/
def Core.captureRecord (e : Env) (c : Core) : Payload :=
  let masks : Payload :=
    { bytes := c.ve.m.toList.flatMap (fun m => leBytes 256 m.toNat), poison := c.ve.mpoison }
  let x := ((List.finRange 8).map (fun n => c.captureTile n)).foldl Payload.append (c.captureHead e)
  (((x.append (payloadOf c.ve.v c.ve.vpoison 0 32768)).append masks).append (zeros 22528)).append (c.spm.get 0 e.spmSize)

/-- The records of the cores one after the other from an address. -/
def State.captureAll (s : State) : List CoreId → Nat → State
  | [], _ => s
  | id :: ids, a => (s.hbmPut a ((s.core id).captureRecord (s.env id))).captureAll ids (a + spmBytes s.ident.code + 131072)

/-- What the reads for a capture record find: every word of the scratchpad, of V and M, and of the tiles in use. -/
def Core.captureMeet (spmSize : Nat) (x : CoreFindings) (c : Core) : Core :=
  c.recordMeet [(0, spmSize)] (fun _ => true) c.usedPlace x

/-- The MP writes the capture records of a job that permits it into its capture window, and the job's fettle follows. -/
def execCapture (job : Fin 8) (s : State) (cores : List CoreFindings := []) : Out :=
  let b := s.job job
  if b.st ≠ .killed ∨ b.inForce.isNone ∨ !b.capture ∨ b.captured then .next s
  else
    match b.captureWin with
    | w :: _ =>
      let s := s.findCores (b.cores.map (fun x => x.1)) cores (Core.captureMeet (spmBytes s.ident.code))
      let s := s.captureAll (b.cores.map (fun x => x.1)) w.base.toNat
      .next ((s.mapJob job (fun b => { b with captured := true })).killFettle job)
    | [] => .next s

end Sys2Proof.Machine
end

