-- ==== Sys2Proof/Machine/DebugCmd.lean ====
section
/-! DEFINITION. The debug service: DEBUG_HALT, DEBUG_RESUME, DEBUG_READ and DEBUG_WRITE (R121, R493, R521 to R527). -/

namespace Sys2Proof.Machine

/-! ### Permission -/

/-- Debug of a core is refused: the source is a host that does not own the core's job (DENIED 1), or the core has no job, its
job is quarantined, or the job gave no permission while the unlock level is 0 (DENIED 10). -/
def State.debugBar (s : State) (src : Source) (id : CoreId) : Option Nat :=
  match s.jobOf id with
  | none => some 10
  | some j =>
    let b := s.job j
    let owner : Bool := match src with | .host n => b.owners.getLsbD n | _ => true
    if !owner then some 1
    else if b.st = .killed ∨ (!b.debug ∧ s.sec.level = 0) then some 10
    else none

/-- A command on one core, whose number stands at `offset` of the request. -/
def withCore (src : Source) (id : CoreId) (offset : Nat) (f : State → Reply) (s : State) : Reply :=
  if !s.assigned id then badArg s offset
  else
    match s.debugBar src id with
    | some r => denied s r
    | none => f s

/-! ### DEBUG_HALT and DEBUG_RESUME -/

/-- A session begins; with TREN set a sync entry is written (R521, R528). [DEDUCED: log entry 37] -/
def Core.attach (e : Env) (c : Core) : Core :=
  if c.dbg.attached then c else ({ c with dbg := { c.dbg with attached := true } } : Core).traceSync e

/-- The named threads that run or wait are asked to halt (R522). -/
def Core.askHalt (threads : BitVec 4) (c : Core) : Core :=
  { c with
    threads := Vector.ofFn (fun t =>
      let h := c.threads[t]
      if threads.getLsbD t ∧ (h.st = .running ∨ h.st = .waiting) then { h with haltAsked := 1 } else h) }

/-- DEBUG_HALT. [DEDUCED: log entry 93] -/
def execDebugHalt (src : Source) (core : BitVec 13) (threads : BitVec 4) (attach : Bool) (s : State) : Out :=
  mpCmd src (reqDebugThreads 0x90 core threads attach) (withCore src core 0 (fun s =>
    let s := s.onCore core (fun e c => (if attach then c.attach e else c).askHalt threads)
    okWith s (leBytes 4 (s.core core).thstate))) s

/-- A HALTED thread runs again, without matching breakpoints or watchpoints for one issue (R522, R523). -/
def Core.resumeThread (e : Env) (t : Fin 4) (c : Core) : Core :=
  if (c.th t).st = .halted then
    let c := c.trace e 2 5 t 0 (c.th t).r.pc.toNat 0
    (c.setSt e t .running).mapTh t (fun h => { h with pass := true, stepped := false, haltAsked := 0 })
  else c

/-- Named threads resume; without ATTACH the session ends (R521). -/
def Core.debugResume (e : Env) (threads : BitVec 4) (attach : Bool) (c : Core) : Core :=
  let c := if attach then c.attach e else c
  let all := c.dbg.attached && !attach
  let c := (List.finRange 4).foldl (fun (c : Core) (t : Fin 4) => if all ∨ threads.getLsbD t then c.resumeThread e t else c) c
  if all then c.detach e else c

/-- DEBUG_RESUME. -/
def execDebugResume (src : Source) (core : BitVec 13) (threads : BitVec 4) (attach : Bool) (s : State) : Out :=
  mpCmd src (reqDebugThreads 0x91 core threads attach) (withCore src core 0 (fun s =>
    let s := s.onCore core (fun e c => c.debugResume e threads attach)
    okWith s (leBytes 4 (s.core core).thstate))) s

/-! ### Address spaces (R526)

Vector and mask registers, and tiles with their sidecars, are addressed by the byte in the order of Table 16-11; a runner and an
event counter by its number. -/

/-- CSR numbers of a range in space 1, with the thread. -/
def csrRange (c : Core) (addr n : Nat) : Option (Fin 4 × List Nat) :=
  let num := addr % 4096
  let t := bitsAt addr 16 2
  let nums := (List.range n).map (fun i => num + i)
  let fits : Bool := nums.all (fun k => decide (k < 4096) && csrAssigned c k && (decide (t = 0) || decide (0x100 ≤ k ∧ k ≤ 0x113)))
  if bitsAt addr 12 4 = 0 ∧ addr < 2 ^ 18 ∧ fits then some (Fin.ofNat 4 t, nums) else none

/-- Selectors of a range in space 2, with the thread. -/
def selRange (addr n : Nat) : Option (Fin 4 × List Nat) :=
  let sel := addr % 256
  if addr < 1024 ∧ sel + n ≤ 0x1C then some (Fin.ofNat 4 (addr / 256), (List.range n).map (fun i => sel + i)) else none

/-- The register a THSET selector names (Table 4-2). -/
def Thread.get (h : Thread) (sel : Nat) : Nat :=
  let r := h.r
  if sel < 0x08 then (r.a[Fin.ofNat 8 sel]).toNat
  else if sel < 0x0C then (r.p[Fin.ofNat 4 sel]).toNat
  else if sel < 0x10 then (r.ls[Fin.ofNat 4 sel]).toNat
  else if sel < 0x14 then (r.le[Fin.ofNat 4 sel]).toNat
  else if sel < 0x18 then (r.lc[Fin.ofNat 4 sel]).toNat
  else if sel = 0x18 then r.ldepth.toNat
  else if sel = 0x19 then r.pc.toNat
  else if sel = 0x1A then h.x.status.toNat
  else h.x.vec.toNat

/-- Bytes of the vector and mask registers in one space of 34 KiB. -/
def Ve.fileBytes : Nat := 0x8800

/-- One byte of the vector or mask registers, and whether its word is poison. -/
def Ve.fileByte (v : Ve) (a : Nat) : Byte × Bool :=
  if a < 0x8000 then (memRead v.v a, nhas v.vpoison (a / 8))
  else
    let k := a - 0x8000
    ((v.m[Fin.ofNat 8 (k / 256)]).extractLsb' (8 * (k % 256)) 8, nhas v.mpoison (k / 8))

/-- A mask register with one byte written. -/
def maskByte (m : BitVec 2048) (k : Nat) (b : Byte) : BitVec 2048 :=
  (m &&& ~~~((0xFF : BitVec 2048) <<< (8 * k))) ||| (b.setWidth 2048 <<< (8 * k))

/-- Clean bytes are written to the vector or mask registers. -/
def Ve.fileWrite (v : Ve) : Nat → List Byte → Ve
  | _, [] => v
  | a, b :: bs =>
    let v : Ve :=
      if a < 0x8000 then { v with v := memWrite v.v a b }
      else
        let k := a - 0x8000
        { v with m := v.m.set (Fin.ofNat 8 (k / 256)) (maskByte v.m[Fin.ofNat 8 (k / 256)] (k % 256) b) }
    v.fileWrite (a + 1) bs

/-- Words that a write covers whole are clean. -/
def Ve.fileClean (v : Ve) (a n : Nat) : Ve :=
  { v with vpoison := cleanWords v.vpoison a n, mpoison := if a + n ≤ 0x8000 then v.mpoison else
      cleanWords v.mpoison (a - 0x8000) (a + n - 0x8000 - (a - 0x8000)) }

/-- Bytes of one tile with its sidecar. -/
def tileSpan : Nat := 0x2200

/-- One byte of a tile or its sidecar; a gated bank returns zeros (R185). -/
def Me.fileByte (m : Me) (a : Nat) : Byte × Bool :=
  let n := a / tileSpan
  let k := a % tileSpan
  if !m.powered (Fin.ofNat 8 n) (if k < 0x2000 then Fin.ofNat 5 (k / 2048) else 4) then (0, false)
  else if k < 0x2000 then (memRead m.tiles (8192 * n + k), nhas m.tpoison ((8192 * n + k) / 8))
  else (memRead m.side (512 * n + (k - 0x2000)), nhas m.spoison ((512 * n + (k - 0x2000)) / 8))

/-- The banks that an access of a tile's bytes touches are awake (R186). -/
def Me.fileWake (m : Me) (a len : Nat) : Me :=
  let k := a % tileSpan
  { m with retained := ndelAll m.retained (((List.range 5).filter (fun b =>
      decide (k < 2048 * b + (if b = 4 then 512 else 2048) ∧ 2048 * b < k + len))).map (fun b => 5 * (a / tileSpan) + b)) }

/-- Clean bytes are written to a tile or its sidecar; the tile is in use, its banks are awake and its latches invalid (R164, R186,
R187). What is written to a bank that stays gated, with every row at or above ROWS, is lost (R185).
[DESIGN CHOICE: log entry 148] -/
def Me.fileWrite (m : Me) (a : Nat) (data : List Byte) : Me :=
  let n := a / tileSpan
  let k := a % tileSpan
  let m := (m.fileWake a data.length).unlatch (Fin.ofNat 8 n)
  let kept := 2048 * ceilDiv m.cfg[Fin.ofNat 8 n].rows 8
  let d := data.take (min 0x2000 kept - k)
  let x := data.drop (0x2000 - k)
  let o := 512 * n + (k - 0x2000)
  ({ m with tiles := memWriteN m.tiles (8192 * n + k) d, tpoison := cleanWords m.tpoison (8192 * n + k) d.length
            side := memWriteN m.side o x, spoison := cleanWords m.spoison o x.length }).use (Fin.ofNat 8 n)

/-- Bytes as a reader outside the cores receives them. -/
def outside (fresh : Nat) (xs : List (Byte × Bool)) : List Byte :=
  (List.range xs.length).map (fun i => let x := xs.getD i (0, false); if x.2 then Config.poisonByte (fresh + i) else x.1)

/-! ### DEBUG_READ -/

/-- What a read of a space of a core finds: its bytes, and the core after it; or the offset of the field that fails. -/
def Core.debugGet (e : Env) (space addr n : Nat) (c : Core) : Core × List Byte ⊕ Nat :=
  match space with
  | 0 =>
    if e.spmSize < addr + n then .inr 8
    else .inl (c, outsideBytes e.fresh addr (c.spm.get addr n))
  | 1 =>
    if n % 4 ≠ 0 then .inr 0xC
    else
      match csrRange c addr (n / 4) with
      | none => .inr 8
      | some (t, nums) =>
        .inl (if nums.any (fun k => k == 6) then { c with cycle := c.cycleNow e } else c,
          wordBytes (nums.map (fun k => csrValue e t k c)))
  | 2 =>
    if n % 4 ≠ 0 then .inr 0xC
    else
      match selRange addr (n / 4) with
      | none => .inr 8
      | some (t, sels) => .inl (c, wordBytes (sels.map (fun k => (c.th t).get k)))
  | 3 =>
    if Ve.fileBytes < addr + n then .inr 8
    else .inl ({ c with ve := c.ve.wake }, outside e.fresh ((List.range n).map (fun i => c.ve.fileByte (addr + i))))
  | 4 =>
    if 8 * tileSpan ≤ addr then .inr 8
    else if tileSpan < addr % tileSpan + n then .inr 0xC
    else if !(c.me.cfg[Fin.ofNat 8 (addr / tileSpan)]).inuse then .inl (c, [])
    else .inl ({ c with me := c.me.fileWake addr n }, outside e.fresh ((List.range n).map (fun i => c.me.fileByte (addr + i))))
  | 5 =>
    if 8 ≤ addr then .inr 8
    else .inl (c, (((c.runners[Fin.ofNat 8 addr]).words.flatMap (fun x => leBytes 8 x.toNat)).take n))
  | _ =>
    if n % 4 ≠ 0 then .inr 0xC
    else if 32 < addr + n / 4 then .inr 8
    else .inl (c, wordBytes ((List.range (n / 4)).map (fun i => (c.events.ev[Fin.ofNat 32 (addr + i)]).toNat)))

/-- What a read of a space of a core finds at the words that it reads: of the scratchpad, of V and M, of a tile and its sidecar
(R152, R194, R203). -/
def Core.debugMeet (space addr n : Nat) (found : List SpmFinding) (regs : List RegFinding) (c : Core) : Core :=
  let hit (b : Nat) : Bool := decide (addr < b + 8 ∧ b < addr + n)
  match space with
  | 0 => c.meet [(addr, n)] found
  | 3 => c.veFind (fun k => hit (8 * k)) regs
  | 4 =>
    let m := c.me
    let on (t bank : Nat) : Bool := m.powered (Fin.ofNat 8 t) (Fin.ofNat 5 bank)
    c.meFind (fun p => match p with
      | .tile k => hit (k / 1024 * tileSpan + k % 1024 * 8) && on (k / 1024) (k % 1024 / 256)
      | .side k => hit (k / 64 * tileSpan + 0x2000 + k % 64 * 8) && on (k / 64) 4
      | _ => false) regs
  | _ => c

/-- DEBUG_READ: of a register block from any source (R475), of a core from an owner.
[DEDUCED: log entry 93] [DESIGN CHOICE: log entry 94] -/
def execDebugRead (src : Source) (space id addr bytes : Word) (s : State) (found : List SpmFinding := [])
    (regs : List RegFinding := []) : Out :=
  mpCmd src (reqDebugRead space id addr bytes) (fun s =>
    let n := bytes.toNat
    if 7 < space.toNat then badArg s 0
    else if n = 0 ∨ 4096 < n then badArg s 0xC
    else if space = 7 then
      if !blockAssigned id.toNat then badArg s 4
      else if addr.toNat % 4 ≠ 0 then badArg s 8
      else if n % 4 ≠ 0 then badArg s 0xC
      else okWith s (wordBytes (s.blockWords false id.toNat addr.toNat (n / 4)))
    else if 2 ^ 13 ≤ id.toNat then badArg s 4
    else
      let core : CoreId := BitVec.ofNat 13 id.toNat
      withCore src core 4 (fun s =>
        let x := (s.core core).debugGet (s.env core) space.toNat addr.toNat n
        let s := if x.isRight || (found.isEmpty && regs.isEmpty) then s
          else s.onCore core (fun _ c => c.debugMeet space.toNat addr.toNat n found regs)
        match (s.core core).debugGet (s.env core) space.toNat addr.toNat n with
        | .inr o => badArg s o
        | .inl (c, data) => okWith ({ s with fresh := s.fresh + n } |>.setCore core c) data) s) s

/-! ### DEBUG_WRITE -/

/-- No thread runs or waits, and every engine queue is empty (R526). -/
def Core.idle (c : Core) : Bool :=
  c.allTh (fun h => decide (h.st ≠ .running ∧ h.st ≠ .waiting)) && c.ve.q.isEmpty && c.me.q.isEmpty && c.de.issue.isEmpty &&
    c.quiet

/-- A breakpoint register written: an address off 4 is ignored whole (Table 17-11). -/
def Breakpoint.put (b : Breakpoint) (ctl : Bool) (v : Word) : Breakpoint :=
  if ctl then
    { b with en := v.getLsbD 31, halt := v.getLsbD 10, trstop := v.getLsbD 9, trstart := v.getLsbD 8
             threads := v.setWidth 4 }
  else if v.toNat % 4 ≠ 0 then b
  else { b with addr := v }

/-- A watchpoint register written. -/
def Watchpoint.put (p : Watchpoint) (off : Nat) (v : Word) : Watchpoint :=
  match off with
  | 0 => { p with base := v.setWidth 22 }
  | 1 => { p with limit := v.setWidth 22 }
  | _ => { p with en := v.getLsbD 31, rd := v.getLsbD 30, wr := v.getLsbD 29, threads := v.setWidth 4 }

/-- A debug CSR written by the debug service (R527): RO and RC fields keep their value, a region bound off 64 is ignored
whole. TREN writes a sync entry when it is set (R528); a new TRBASE is where the next entry goes.
[DEDUCED: log entry 37] [DESIGN CHOICE: log entry 94] -/
def Core.putDbg (e : Env) (num : Nat) (v : Word) (c : Core) : Core :=
  let d := c.dbg
  match num with
  | 0x300 =>
    let c : Core := { c with dbg := { d with haltall := v.getLsbD 3, xtrig := v.getLsbD 2, trwrap := v.getLsbD 1, tren := v.getLsbD 0 } }
    if v.getLsbD 0 && !d.tren then c.traceSync e else c
  | 0x320 => if v.toNat % 64 ≠ 0 then c else { c with dbg := { d with trbase := v.setWidth 22, trptr := v.setWidth 22 } }
  | 0x321 => if v.toNat % 64 ≠ 0 then c else { c with dbg := { d with trlimit := v.setWidth 22 } }
  | 0x324 => { c with dbg := { d with trsel := v.setWidth 7 } }
  | n =>
    if 0x310 ≤ n ∧ n ≤ 0x317 then
      let i : Fin 4 := Fin.ofNat 4 ((n - 0x310) / 2)
      { c with dbg := { d with bp := d.bp.set i ((d.bp[i]).put (n % 2 == 1) v) } }
    else if 0x318 ≤ n ∧ n ≤ 0x31F then
      let i : Fin 2 := Fin.ofNat 2 ((n - 0x318) / 4)
      { c with dbg := { d with wp := d.wp.set i ((d.wp[i]).put (n % 4) v) } }
    else c

/-- The words of a CSRW that replaces a value: MOD 0. -/
def plainWord : SeWord := { len := 0, sz := 2, mod := 0, osd := 0, osa := 0, osb := 0, ext := 0 }

/-- CSRs written one after the other: the core, or what fails: a value that a CSRW would not take (BAD_ARG at its word), or one
whose write would wait (NOT_READY). -/
def Core.putCsrs (e : Env) (t : Fin 4) : List (Nat × Word) → Nat → Core → Core ⊕ Option Nat
  | [], _, c => .inl c
  | (num, v) :: xs, o, c =>
    if 0x300 ≤ num then (c.putDbg e num v).putCsrs e t xs (o + 4)
    else
      match csrWrite e t num plainWord v.toNat c with
      | .done c => c.putCsrs e t xs (o + 4)
      | .raises _ => .inr (some o)
      | .stall _ _ | .hold => .inr none

/-- Registers of a thread written by selector; an unaligned PC fails. -/
def Thread.putAll (h : Thread) : List (Nat × Word) → Nat → Thread ⊕ Nat
  | [], _ => .inl h
  | (sel, v) :: xs, o => if sel = 0x19 ∧ v.toNat % 4 ≠ 0 then .inr o else (h.set sel v.toNat).putAll xs (o + 4)

/-- Event counters written from number `k` on. -/
def Events.putAll (v : Events) : Nat → List Word → Events
  | _, [] => v
  | k, x :: xs => ({ v with ev := v.ev.set (Fin.ofNat 32 k) (x.setWidth 16) } : Events).putAll (k + 1) xs

/-- Data as words. -/
def wordsIn (data : List Byte) : List Word := (List.range (data.length / 4)).map (fun i => BitVec.ofNat 32 (word32At data (4 * i)))

/-- What a write comes to: the core, the offset of the field that fails, or NOT_READY. -/
inductive Poke
  | ok (c : Core)
  | bad (offset : Nat)
  | busy

/-- A write of a space of a core (R526, R121). Words are put into a runner, or discarded, whether or not threads run or wait; the
waiting threads then complete as from any other word or slot.
[DEDUCED: log entries 95, 126] [DESIGN CHOICE: log entries 94, 147] -/
def Core.debugPut (e : Env) (space addr : Nat) (data : List Byte) (c : Core) : Poke :=
  let n := data.length
  match space with
  | 0 => if e.spmSize < addr + n then .bad 8 else .ok (c.mapSpm (fun m => m.write addr data))
  | 1 =>
    if n % 4 ≠ 0 then .bad 0xC
    else
      match csrRange c addr (n / 4) with
      | none => .bad 8
      | some (t, nums) =>
        if !c.idle && nums.any (fun k => decide (k < 0x300)) then .busy
        else
          match c.putCsrs e t (nums.zip (wordsIn data)) 0x10 with
          | .inl c => .ok c
          | .inr (some o) => .bad o
          | .inr none => .busy
  | 2 =>
    if n % 4 ≠ 0 then .bad 0xC
    else
      match selRange addr (n / 4) with
      | none => .bad 8
      | some (t, sels) =>
        if !c.idle then .busy
        else
          match (c.th t).putAll (sels.zip (wordsIn data)) 0x10 with
          | .inl h => .ok (c.mapTh t (fun _ => h))
          | .inr o => .bad o
  | 3 =>
    if Ve.fileBytes < addr + n then .bad 8
    else if !c.idle then .busy
    else .ok { c with ve := ((c.ve.fileWrite addr data).fileClean addr n).wake }
  | 4 =>
    if 8 * tileSpan ≤ addr then .bad 8
    else if tileSpan < addr % tileSpan + n then .bad 0xC
    else if !c.idle then .busy
    else .ok { c with me := c.me.fileWrite addr data }
  | 5 =>
    if 8 ≤ addr then .bad 8
    else if n % 8 ≠ 0 then .bad 0xC
    else
      let i : Fin 8 := Fin.ofNat 8 addr
      let r := c.runners[i]
      let ws := (List.range (n / 8)).map (fun k => BitVec.ofNat 64 (word64At data (8 * k)))
      if 4 < r.words.length + ws.length then .bad 0xC
      else .ok (c.setRunner i { r with words := if n = 0 then [] else r.words ++ ws })
  | _ =>
    if n % 4 ≠ 0 then .bad 0xC
    else if 32 < addr + n / 4 then .bad 8
    else .ok (c.setEvents (c.events.putAll addr (wordsIn data)))

/-- DEBUG_WRITE: the data of a request fill at most its payload; only a runner takes none, which discards its words.
[DEDUCED: log entries 93, 95] [DESIGN CHOICE: log entry 94] -/
def execDebugWrite (src : Source) (space id addr : Word) (data : List Byte) (s : State) : Out :=
  mpCmd src (reqDebugWrite space id addr data) (fun s =>
    if 6 < space.toNat then badArg s 0
    else if 4016 < data.length ∨ (data = [] ∧ space ≠ 5) then badArg s 0xC
    else if 2 ^ 13 ≤ id.toNat then badArg s 4
    else
      let core : CoreId := BitVec.ofNat 13 id.toNat
      withCore src core 4 (fun s =>
        match (s.core core).debugPut (s.env core) space.toNat addr.toNat data with
        | .ok _ =>
          okWith (s.onCore core (fun e c =>
            match c.debugPut e space.toNat addr.toNat data with
            | .ok c => c
            | _ => c)) []
        | .bad o => badArg s o
        | .busy => notReady s 2) s) s

end Sys2Proof.Machine
end

