-- ==== Sys2Proof/Machine/FlaskCmd.lean ====
section
/-! DEFINITION. Commands on flasks, pours and recovery: FLASK_BIND, POUR_POLICY with rollback and remap, POUR_NOW,
FAILOVER_ADOPT and MIRROR_STATUS (R382 to R384, R395, R398, R399, R402, R403, R406, R407, Tables 13-5 and 15-12). -/

namespace Sys2Proof.Machine

/-! ### Binding -/

/-- The lowest place of `n` bytes beside a list of regions, below a limit. The spec does not say where the areas lie; the model
takes the lowest place (DESIGN CHOICE). -/
def placeFor (rs : List (Nat × Nat)) (limit n : Nat) : Option Nat :=
  ((rs.map (fun r => r.2)).filter (fun a => decide (a + n ≤ limit) && !overlapsAny rs (a, a + n))).min?

/-- The three areas of a binding, placed one after the other: store, undo, rollback (R383).
[DESIGN CHOICE: log entry 62] -/
def State.placeAreas (s : State) (cap undo : Nat) : Option (Nat × Nat × Nat) :=
  let rs := s.regionsHeld
  let m := s.hbmLimit
  match placeFor rs m cap with
  | none => none
  | some a =>
    match placeFor ((a, a + cap) :: rs) m undo with
    | none => none
    | some b =>
      match placeFor ((b, b + undo) :: (a, a + cap) :: rs) m undo with
      | none => none
      | some c => some (a, b, c)

/-- The binding in both sets (R467). -/
def State.setBind (s : State) (b : FlaskBind) : State :=
  { s with lastSet := s.active, active := { s.active with bind := b }, shadow := { s.shadow with bind := b } }

/-- The bases of the areas, as FLASK_BIND answers them. -/
def FlaskBind.reply (b : FlaskBind) : List Byte := wordBytes [b.store.toNat, b.undoArea.toNat, b.rbArea.toNat]

/-- The binding that arguments make here, when it is possible; the offset of the field that forbids it. With KEEP a module that
is bound keeps its store and its areas and takes the spare for its partner (R407). [DEDUCED: log entry 63] -/
def State.bindingFor (s : State) (keep : Bool) (partner : ModuleId) (c u : Nat) : Except Nat FlaskBind :=
  let b := s.active.bind
  if partner = s.self then .error 0
  else if 480 * 16384 < c then .error 4
  else if c < u then .error 8
  else if c * 65536 < regionBytes s.flask.regions then .error 4
  else if b.en then
    if b.cap.toNat ≠ c then .error 4
    else if b.undo.toNat ≠ u then .error 8
    else if partner ≠ b.partner ∧ !keep then .error 0
    else .ok { b with partner := partner }
  else
    match s.placeAreas (c * 65536) (u * 65536) with
    | some (x, y, z) =>
      .ok { en := true, partner := partner, cap := BitVec.ofNat 23 c, undo := BitVec.ofNat 23 u
            store := BitVec.ofNat 24 (x / 65536), undoArea := BitVec.ofNat 24 (y / 65536), rbArea := BitVec.ofNat 24 (z / 65536) }
    | none => .error 4

/-- What a new binding makes of the mirror state: the areas start empty. With KEEP the partner that kept its store has every
share dirty and no image at its new partner, and the spare's regions are clean; writes of the restore point's interval are
expected (R407). Without it every mirrored share is to be sent. -/
def Flask.bound (f : Flask) (keep kept : Bool) : Flask :=
  let f := { f with
    held := [], rb := [], sent := [], undoUsed := Vector.replicate 8 0, stream := Vector.replicate 8 none, bindAsk := none
    dirty := if f.job.isSome && (kept || !keep) then { all := true, except := [] } else .empty }
  if keep then { f with expect := f.committed, prot := if kept then 2 else f.prot } else { f with expect := 0, partnerCommitted := 0 }

/-- FLASK_BIND without and with KEEP: it waits until the partner holds the same arguments (R382). -/
def flaskBind (src : Source) (keep : Bool) (partner : ModuleId) (c u : Word) (peer : PeerBind) (s : State) : Out :=
  mpCmd src (reqFlaskBind partner keep c u) (fun s =>
    match s.bindingFor keep partner c.toNat u.toNat with
    | .error o => badArg s o
    | .ok b =>
      match peer with
      | .mismatched => badArg s 0
      | .waiting =>
        waiting (s.mapFlask (fun f => { f with bindAsk := some { partner := partner, cap := c, undo := u, keep := keep } }))
      | .matching =>
        let old := s.active.bind
        if b = old then okWith (s.mapFlask (fun f => { f with bindAsk := none })) b.reply
        else okWith (((s.setBind b).mapFlask (fun f => f.bound keep old.en)).changeNotice src []) b.reply) s

/-- FLASK_BIND (R382, R383). -/
def execFlaskBind (src : Source) (partner : BitVec 13) (c : BitVec 32) (u : BitVec 32) (peer : PeerBind) (s : State) : Out :=
  flaskBind src false partner c u peer s

/-- FLASK_BIND with the keep option (R407). [DEDUCED: log entry 63] -/
def execFlaskBindKeep (src : Source) (partner : BitVec 13) (c : BitVec 32) (u : BitVec 32) (peer : PeerBind) (s : State) : Out :=
  flaskBind src true partner c u peer s

/-- FLASK_BIND with the unbind option: not while a job has mirrored regions. A pseudo-channel whose retirement waited is then
retired after an all-HBM fettle (R281). [DEDUCED: log entry 64] -/
def execFlaskUnbind (src : Source) (s : State) : Out :=
  mpCmd src reqFlaskUnbind (fun s =>
    if s.flask.job.isSome && s.flask.shares != 0 then denied s 6
    else
      let s := ((s.setBind .unbound).mapFlask (fun f => { f with held := [], rb := [], bindAsk := none })).changeNotice src []
      okWith (if s.board.pchCand.isSome && !s.anyJob then s.addFettle { scope := .hbm, src := none } else s) (wordBytes [0, 0, 0])) s

/-! ### The declaration (R384, R395) -/

/-- A range of a list lies on 64 KiB, with its limit above its base. -/
def rangeAligned (r : Range) : Bool :=
  decide (r.base.toNat % 65536 = 0 ∧ r.limit.toNat % 65536 = 0 ∧ r.base.toNat < r.limit.toNat)

/-- A range lies inside a read-write window of the job. -/
def Job.writable (j : Job) (r : Range) : Bool :=
  j.wins.any (fun w => w.write && winCovers w r.base.toNat (r.limit.toNat - r.base.toNat))

/-- The offset of the first mirrored region that breaks a limit. -/
def firstRegion (j : Job) : List Range → Nat → Option Nat
  | [], _ => none
  | r :: rs, k => if rangeAligned r && j.writable r then firstRegion j rs (k + 1) else some (8 + 16 * k)

/-- The offset of the first preserved scratchpad range that lies beyond the scratchpad. -/
def firstPreserved (size : Nat) : List (Word × Word) → Nat → Option Nat
  | [], _ => none
  | p :: ps, k => if p.1.toNat + p.2.toNat ≤ size then firstPreserved size ps (k + 1) else some (0x128 + 8 * k)

/-- Bytes of save area that a job's cores may need: every tile may be in use. -/
def saveNeeded (d : PourDecl) (cores : Nat) : Nat := cores * recordBytes d 8

/-- The default of the barrier timeout stands for 0. -/
def declTimeout (d : PourDecl) : Nat := if d.timeoutS = 0 then 10 else d.timeoutS.toNat

/-- The offset of the first field of a declaration that breaks a limit. -/
def State.declFail (s : State) (j : Fin 8) (d : PourDecl) : Option Nat :=
  let b := s.job j
  let a := d.saveArea
  let taken : Bool := match s.flask.job with | some n => decide (n ≠ j.val + 1) | none => false
  if taken || decide (b.st = .killed) then some 0
  else if 16 < d.regions.length then some 4
  else
    match firstRegion b d.regions 0 with
    | some o => some o
    | none =>
      if s.active.bind.en ∧ s.active.bind.cap.toNat * 65536 < regionBytes d.regions then some 4
      else if !d.regions.any (fun r => decide (r.base ≤ a.base ∧ a.base ≤ a.limit ∧ a.limit ≤ r.limit)) then some 0x108
      else if a.limit.toNat - a.base.toNat < saveNeeded d b.cores.length then some 0x108
      else if d.coordinator ≠ s.self ∧ !b.peers.any (fun m => m == d.coordinator) then some 0x118
      else if spmBytes s.ident.code < d.reqWord.toNat + 4 then some 0x11C
      else if 600 < declTimeout d then some 0x120
      else if 4 < d.spm.length then some 0x128
      else firstPreserved (spmBytes s.ident.code) d.spm 0

/-- POUR_POLICY declare: the job's pours begin with every mirrored share dirty (R384, R387).
[DESIGN CHOICE: log entry 62] -/
def execPourPolicyDeclare (src : Source) (job : BitVec 8) (p : PourDecl) (s : State) : Out :=
  mpCmd src (reqPourDeclare job p) (withJob job (fun j s =>
    match s.declFail j p with
    | some o => badArg s o
    | none =>
      let d := { p with timeoutS := BitVec.ofNat 32 (declTimeout p) }
      let s := s.mapFlask (fun f =>
        { f.jobEnds with job := some (j.val + 1), decl := some d, pstate := .open_, dirty := { all := true, except := [] }
                         commitAt := s.now })
      okWith s (wordBytes [saveNeeded p (s.job j).cores.length / 4096]))) s

/-- POUR_POLICY query: the declaration, and the cores of a pending remap (R398). -/
def execPourPolicyQuery (src : Source) (job : BitVec 8) (s : State) : Out :=
  mpCmd src (reqPourQuery job) (withJob job (fun j s =>
    let f := s.flask
    let own : Bool := decide (f.job = some (j.val + 1))
    let d := match f.decl with | some d => if own then declBytes d else zeros 328 |>.bytes | none => zeros 328 |>.bytes
    let ids := if own then f.remap else []
    okWith s (d ++ wordBytes (ids.length :: ids.map BitVec.toNat)))) s

/-! ### Rollback (R402, R403) -/

/-- The copies of a generation are written back to their shares. -/
def State.writeBack (s : State) (gen : Nat) : State :=
  (s.flask.rb.filter (fun c => decide (c.gen = gen))).foldl (fun s c =>
    s.hbmPut (mirrorAddr s.flask.regions (512 * c.share)) (s.hbmGet (slotAddr s.active.bind.rbArea (c.share % 8) c.slot) 512)) s

/-- The partner's undo of a generation is written back to the store held for it, line by line. -/
def State.undoBack (s : State) (gen : Nat) : State :=
  let b := s.active.bind
  (s.flask.held.filter (fun u => decide (u.gen = gen))).foldl (fun s u =>
    ([0, 1] : List Nat).foldl (fun s i =>
      if u.lines.getLsbD i then
        s.hbmPut (b.store.toNat * 65536 + 512 * u.share + 256 * i)
          (s.hbmGet (slotAddr b.undoArea (u.share % 8) u.slot + 256 * i) 256)
      else s) s) s

/-- The restore actions of Table 13-5. The restore point is the highest pour that any module of the job reports committed: `others`
are the reports of the rest. A READY module can reach the pour it is READY for; a lost restore point makes the failure
fatal-to-job, in any state (R402). [DEDUCED: log entry 60] -/
def State.restorePour (s : State) (others : List Word) : Option (State × Word) :=
  let f := s.flask
  let k := f.committed
  if f.prot = 1 then none
  else if f.pstate = .ready ∧ others.any (fun r => decide (k.toNat + 1 ≤ r.toNat)) then some (s.writeBack (k.toNat + 1), k + 1)
  else if k = 0 then none
  else
    let s := if f.commitPending then s.writeBack (k.toNat + 1) else s
    some ((s.writeBack k.toNat).undoBack k.toNat, k)

/-- The flask state after a rollback to pour `r`: nothing dirty, every slot free, interval r. -/
def Flask.rolledBack (f : Flask) (r : Word) : Flask :=
  { f.abandonPour with
    pstate := .rollback, committed := r, interval := r, sent := [], undoUsed := Vector.replicate 8 0, rb := []
    held := [], expect := r, decided := r }

/-- A core after the reset of a rollback: held, with what JOB_LOAD gave it. -/
def State.rolledCore (s : State) (id : CoreId) : Core :=
  let c := s.core id
  s.afterReset id { Core.reset with queued := c.queued, codeSize := c.codeSize }

/-- The index of a core whose position its reset has retired for want of spare rows moves to a riser (R206, R306). -/
def State.replaceShort (s : State) (id : CoreId) : State :=
  match s.position id with
  | some p => if nhas s.mp.retiredCores (272 * (id.toNat / 256) + p) && s.overRepaired (272 * (id.toNat / 256) + p) then s.replaceCore id else s
  | none => s

/-- Every core of a job is reset, its repairs first (R227); its queues and its requests are abandoned. -/
def State.resetCores (s : State) (j : Fin 8) : State :=
  let ids := (s.job j).cores.map (fun x => x.1)
  let s := ids.foldl State.replaceShort (s.applyRepairs ids)
  (ids.foldl (fun s id => s.setCore id (s.rolledCore id)) s).dropRequests ids true

/-- A rollback of a job: to its restore point, from which JOB_START resumes; without one the job is at fault (R402). A restored job
keeps its state until JOB_START with resume (Table 15-9). [DEDUCED: log entry 60] -/
def State.rollbackJob (s : State) (j : Fin 8) (others : List Word) : State :=
  let s := s.resetCores j
  match (if s.flask.job = some (j.val + 1) then s.restorePour others else none) with
  | some (s, r) =>
    let s := s.mapFlask (fun f => f.rolledBack r)
    (s.runHeld s.host.b2held).mapJob j (fun b => { b with resumable := some r })
  | none => (s.mapFlask (fun f => if f.job = some (j.val + 1) then f.abandonPour else f)).faultJob j

/-- POUR_POLICY rollback: the answer holds the pour state on arrival. [DEDUCED: log entry 61] -/
def execRollback (src : Source) (job : BitVec 8) (s : State) (others : List (BitVec 32) := []) : Out :=
  mpCmd src (reqRollback job) (withJob job (fun j s =>
    let f := s.flask
    let reply := if f.job = some (j.val + 1) then wordBytes [f.pstate.code, f.committed.toNat] else wordBytes [0, 0]
    if (s.job j).st = .killed then badArg s 0 else okWith (s.rollbackJob j others) reply)) s

/-! ### Remap and POUR_NOW (R398, R399) -/

/-- The MP records the core's position as retired, or as a candidate for it. -/
def State.recorded (s : State) (id : CoreId) : Bool :=
  match s.position id with
  | some p =>
    let q := 272 * (id.toNat / 256) + p
    nhas s.mp.retiredCores q || nhas s.errs.candidates q || nhas s.mp.retiredNodes q || nhas s.errs.nodeCandidates q
  | none => false

/-- The offset of the first CORE_ID of a remap that is not one of the job's, recorded as retired. -/
def State.remapFail (s : State) (j : Fin 8) : List Word → Nat → Option Nat
  | [], _ => none
  | x :: xs, k =>
    let id : CoreId := BitVec.ofNat 13 x.toNat
    if x.toNat < 8192 ∧ (s.job j).cores.any (fun y => y.1 == id) ∧ s.recorded id then s.remapFail j xs (k + 1)
    else some (8 + 4 * k)

/-- POUR_POLICY remap: kept for the next pour that sets a boundary; no core cancels it. -/
def execRemap (src : Source) (job : BitVec 8) (cores : List (BitVec 32)) (s : State) : Out :=
  mpCmd src (reqRemap job cores) (withJob job (fun j s =>
    if s.flask.job ≠ some (j.val + 1) then badArg s 0
    else if 16 < cores.length then badArg s 4
    else
      match s.remapFail j cores 0 with
      | some o => badArg s o
      | none =>
        let ids : List CoreId := cores.map (fun x => BitVec.ofNat 13 x.toNat)
        okWith (s.mapFlask (fun f => { f with remap := ids })) (wordBytes [ids.length]))) s

/-- POUR_NOW: the number of the next pour is written into the request word of every core of the job. -/
def execPourNow (src : Source) (job : BitVec 8) (s : State) : Out :=
  mpCmd src (reqPourNow job) (withJob job (fun j s =>
    match s.flask.decl with
    | some d =>
      if s.flask.job ≠ some (j.val + 1) then badArg s 0
      else
        let n := s.nextPour.toNat
        let s := (s.job j).cores.foldl (fun s x =>
          s.setCore x.1 ((s.core x.1).mapSpm (fun m => m.write d.reqWord.toNat (leBytes 4 n)))) s
        okWith s (wordBytes [n])
    | none => badArg s 0)) s

/-! ### Adoption (R406) and status -/

/-- An ACTIVE local port leads to a module. -/
def State.localTo (s : State) (m : ModuleId) : Bool :=
  (List.finRange 48).any (fun p =>
    decide ((s.port p).st = .active) && s.active.route.role p == 1 && (match (s.port p).peer with | some x => x.1 == m | none => false))

/-- A module is a spare for an image of ordering code `c` whose partner is `p`: no other job is loaded, no flask is bound, the
codes are equal, and a local link joins it to the partner. -/
def State.spare (s : State) (j : Fin 8) (c : OrderingCode) (p : ModuleId) : Bool :=
  decide (c = s.ident.code) && !s.active.bind.en && s.localTo p && decide ((s.job j).st = .loaded) &&
    decide (s.flask.job = some (j.val + 1)) && (List.finRange 8).all (fun k => decide (k = j ∨ (s.job k).st = .none))

/-- FAILOVER_ADOPT: the adoption window opens, and the command waits for every share. [DEDUCED: log entry 65] -/
def execFailoverAdopt (src : Source) (job : BitVec 8) (x : BitVec 13) (p : BitVec 13) (rp : BitVec 32) (xCode : OrderingCode)
    (s : State) : Out :=
  mpCmd src (reqAdopt job x p rp) (withJob job (fun j s =>
    if !s.spare j xCode p then denied s 7
    else
      waiting (s.mapFlask (fun f =>
        { f with adopt := some { job := j.val + 1, x := x, p := p, rp := rp, written := [], poison := 0 } })).settleAdoption)) s

/-- The response of MIRROR_STATUS: the flask block, and the partner's last committed pour with its age in ms. -/
def State.mirrorStatus (s : State) : List Byte :=
  wordBytes (s.blockWords false 0x30 0 52 ++ [s.flask.partnerCommitted.toNat, min 0xFFFFFFFF ((s.now - s.flask.partnerAt) / 10 ^ 6)])

/-- MIRROR_STATUS (R411, Table 15-12). -/
def execMirrorStatus (src : Source) (s : State) : Out := mpCmd src reqMirrorStatus (fun s => okWith s s.mirrorStatus) s

end Sys2Proof.Machine
end

