-- ==== Sys2Proof/Machine/Icache.lean ====
section
/-! DEFINITION. The instruction cache of a core and the code cache of a die (R283 to R291). -/

namespace Sys2Proof.Machine

/-! ### Die code cache -/

/-- The way of a set that holds a line. -/
def Die.wayOf (d : Die) (set line : Nat) : Option Nat :=
  (List.range 16).find? (fun w => match d.lines.find? (fun p => p.1 == 16 * set + w) with
    | some p => p.2.line == line
    | none => false)

/-- A way of a set gets its used mark; when that would leave all 16 marked, every other mark is cleared (R290). -/
def Die.mark (d : Die) (set way : Nat) : Die :=
  let ls := d.lines.map (fun p => if p.1 = 16 * set + way then (p.1, { p.2 with used := true }) else p)
  let n := (ls.filter (fun p => p.1 / 16 == set && p.2.used)).length
  { d with lines := if 16 ≤ n then
      ls.map (fun p => if p.1 / 16 = set ∧ p.1 ≠ 16 * set + way then (p.1, { p.2 with used := false }) else p) else ls }

/-- A victim is offered (R287, R290): it is declined when the cache holds the line, when 16 offers wait, or when its epoch
is not the current one. -/
def Die.offer (d : Die) (epoch : BitVec 16) (o : DccOffer) : Die :=
  if (d.wayOf o.set o.line).isSome ∨ 16 ≤ d.offers.length ∨ o.epoch ≠ epoch then d
  else { d with offers := d.offers ++ [o] }

/-- The way that an accepted victim takes: the lowest without a valid line, else the lowest without a mark (R290). -/
def Die.victimWay (d : Die) (set : Nat) : Nat :=
  let at_ (w : Nat) := d.lines.find? (fun p => p.1 == 16 * set + w)
  match (List.range 16).find? (fun w => (at_ w).isNone) with
  | some w => w
  | none => ((List.range 16).find? (fun w => match at_ w with | some p => !p.2.used | none => true)).getD 0

/-- The first offer is taken. -/
def Die.take (d : Die) : Die :=
  match d.offers with
  | [] => d
  | o :: os =>
    let d := { d with offers := os }
    if (d.wayOf o.set o.line).isSome then d
    else
      let w := d.victimWay o.set
      ({ d with lines := tset d.lines (16 * o.set + w) { line := o.line, used := false, data := o.data } } : Die).mark o.set w

/-- The code cache of a die takes one offer, in the order of the offers (R290). -/
def execDccTakeOffer (die : Fin 32) (s : State) : Out := .next (s.mapDie die.val Die.take)

/-! ### Code lines -/

/-- The external address of the job's code region. -/
def State.codeBase (s : State) (id : CoreId) : Nat := match s.jobOf id with | some j => (s.job j).codeBase | none => 0

/-- A record of the code cache of a die. -/
def dccEvent (sev : BitVec 2) (cause : BitVec 16) (die ext : Nat) : Event :=
  { mpEvent sev cause [] with die := die, unit := 7, addr := BitVec.ofNat 64 ext }

/-- The way of a die code cache that answers a read of a line, once its check has been met: a line with an error that cannot be
corrected is invalidated, and answers no more (R291). -/
def State.dccMeet (s : State) (die set line : Nat) (f : LineFinding) : State × Option Nat :=
  let way := (s.die die).wayOf set line
  match way, f with
  | none, _ | some _, .clean => (s, way)
  | some _, .corrected => (s.log (dccEvent 0 0x0109 die (128 * line)), way)
  | some w, .uncorrectable =>
    ((s.mapDie die (fun d => { d with lines := d.lines.filter (fun p => p.1 != 16 * set + w) })).log
      (dccEvent 1 0x010A die (128 * line)), none)

/-- What a core receives of a line of code: whether it came from the code cache of its die, and the data. -/
structure CodeLine where
  hit : Bool
  /-- A flit of it was discarded on its way (R313). -/
  lost : Bool
  data : Payload
  deriving DecidableEq, Repr

/-- A line of code asked for by a core: from its die's code cache, which marks it, or from the code region (R286, R290, R291).
`dcc` and `ext` are what the reads find. -/
def State.codeLine (s : State) (id : CoreId) (line : Nat) (dcc : LineFinding) (ext : HbmFinding) : State × CodeLine :=
  let at_ := s.codeBase id + 128 * line
  let k := id.toNat / 256
  let x := s.dccMeet k (line % 4096) (at_ / 128) dcc
  match x.2 with
  | some w =>
    let data := match (s.die k).lines.find? (fun p => p.1 == 16 * (line % 4096) + w) with | some p => p.2.data | none => []
    (x.1.mapDie k (fun d => d.mark (line % 4096) w), { hit := true, lost := false, data := .clean data })
  | none =>
    let y := x.1.hbmRead at_ 128 ext
    (y.1, { hit := false, lost := false, data := y.2 })

/-- A victim of a core's cache is offered to its die (R287). -/
def State.offerLine (s : State) (id : CoreId) (v : Option IcLine) : State :=
  match v with
  | some l =>
    s.mapDie (id.toNat / 256) (fun d =>
      d.offer s.epoch { line := s.codeBase id / 128 + l.tag, set := l.tag % 4096, epoch := l.epoch, data := l.data })
  | none => s

/-! ### Instruction cache -/

/-- The key of a line in way `w`. -/
def icKey (w line : Nat) : Nat := 128 * w + line % 128

/-- The way that holds a line. -/
def De.icWay (d : De) (line : Nat) : Option (Fin 4) :=
  (List.finRange 4).find? (fun w => match d.ic.find? (fun p => p.1 == icKey w.val line) with
    | some p => p.2.tag == line
    | none => false)

/-- One step of the replacement LFSR (R287). -/
def icStep (x : BitVec 16) : BitVec 16 :=
  let b := x.getLsbD 15 ^^ x.getLsbD 13 ^^ x.getLsbD 12 ^^ x.getLsbD 10
  (x <<< 1) ||| BitVec.ofNat 16 (b2n b)

/-- A way that may be filled: neither locked nor disabled; way 3 cannot be locked. -/
def De.candidate (d : De) (w : Fin 4) : Bool := !d.wdis.getLsbD w && !(w.val < 3 && d.lock.getLsbD w)

/-- The way a fill takes, and the LFSR after it (R287). -/
def De.allocate (d : De) (line : Nat) : Option (Fin 4) × BitVec 16 :=
  let ways := (List.finRange 4).filter d.candidate
  match ways.find? (fun w => !d.ic.any (fun p => p.1 == icKey w.val line)) with
  | some w => (some w, d.icseed)
  | none =>
    if ways.isEmpty then (none, d.icseed)
    else
      let s := icStep d.icseed
      let k := s.toNat % 4
      (((List.range 4).map (fun i => Fin.ofNat 4 (k + i))).find? d.candidate, s)

/-- A line is put into way `w`, and what it displaced. -/
def De.putLine (d : De) (w : Fin 4) (l : IcLine) : De × Option IcLine :=
  let k := icKey w.val l.tag
  ({ d with ic := tset d.ic k l }, (d.ic.find? (fun p => p.1 == k)).map (fun p => p.2))

/-- A line leaves the cache. -/
def De.dropLine (d : De) (line : Nat) : De := { d with ic := d.ic.filter (fun p => p.2.tag != line) }

/-- The lines of a range of code bytes. -/
def linesOf (first len : Nat) : List Nat :=
  if len = 0 then [] else (List.range ((first + len - 1) / 128 + 1 - first / 128)).map (fun i => first / 128 + i)

/-! ### Misses -/

/-- The threads that would fetch a word of a line now, which no way holds, and that wait for no other line (R99, R286). -/
def Core.missers (c : Core) (line : Nat) : BitVec 4 :=
  (List.finRange 4).foldl (fun x t =>
    if c.mayFetch t && c.de.misses.all (fun m => m.line == line || !m.threads.getLsbD t) &&
        (c.unfetched t).any (fun a => a / 128 == line) then x ||| (1 <<< t.val) else x) 0

/-- An exception of threads whose next instruction has a word in a line: CODE_FETCH_ERROR of one that arrived as poison (R283),
REMOTE_TIMEOUT of one whose request or data was discarded on its way (Table 10-5). EXC_ADDR names the first such word. -/
def Core.fetchFail (e : Env) (cause : BitVec 8) (line : Nat) (threads : BitVec 4) (c : Core) : Core :=
  (List.finRange 4).foldl (fun c t =>
    match (fetchAddrs (c.th t).r.pc 2).find? (fun a => a / 128 == line) with
    | some a => if threads.getLsbD t && c.ready t then c.takeExc e t (exc cause 0 4 a) false else c
    | none => c) c

/-- What a line of code meets on its way to a core (R311, R313, Table 10-5): from the code cache of its die on that die, from the
code region on the way to its E-die and back. [DESIGN CHOICE: log entry 142] -/
def State.codeFlit (s : State) (id : CoreId) (line : Nat) (x : State × CodeLine) (flit : FlitFinding) : State × CodeLine :=
  let a := s.codeBase id + 128 * line
  match flit with
  | .intact => x
  | .header die pos =>
    let own : Bool := match s.place id with
      | some q => decide (die.val = q / 272) && pos.all (fun p => decide (p.val = q % 272))
      | none => false
    let hit := if x.2.hit then own else s.onEdiePath id (addrEdie a).val false die pos || s.onEdiePath id (addrEdie a).val true die pos
    if hit then (x.1.flitLost die pos, { x.2 with lost := true }) else x
  | .words c l => (x.1.flitWords ((s.place id).getD 0) (lostWords 64 c) (lostWords 64 l), { x.2 with data := x.2.data.lose l })

/-- A missed line has arrived: it is kept where a way takes it, and what it displaces is offered (R286, R287). The threads that
have come to miss it since it was asked for share the fill. -/
def State.fillLine (s : State) (id : CoreId) (m : IcMiss) (dcc : LineFinding) (ext : HbmFinding) (flit : FlitFinding) : State :=
  let c := s.core id
  let d := { c.de with misses := c.de.misses.filter (fun x => x.line != m.line) }
  let threads := m.threads ||| c.missers m.line
  if (c.de.icWay m.line).isSome then s.onCore id (fun _ c => { c with de := d })
  else
    let x := s.codeFlit id m.line (s.codeLine id m.line dcc ext) flit
    if x.2.lost then x.1.onCore id (fun e c => ({ c with de := d } : Core).fetchFail e 0x0D m.line threads)
    else if x.2.data.poison ≠ [] then x.1.onCore id (fun e c => ({ c with de := d } : Core).fetchFail e 0x0B m.line threads)
    else
      let a := d.allocate m.line
      match a.1 with
      | none => x.1.onCore id (fun _ c => { c with de := { d with icseed := a.2 } })
      | some w =>
        let epoch := if x.2.hit then s.epoch else m.epoch
        let y := ({ d with icseed := a.2 } : De).putLine w { tag := m.line, epoch := epoch, data := x.2.data.bytes }
        (x.1.offerLine id y.2).onCore id (fun _ c => { c with de := y.1 })

/-- A line that a thread misses is asked for, with the epoch of that moment, and the threads that fetch it wait for it; or a line
that was asked for arrives (R286). [DESIGN CHOICE: log entry 35] -/
def execIcLineFill (core : BitVec 13) (line : BitVec 25) (dcc : LineFinding) (s : State) (ext : HbmFinding := .clean)
    (flit : FlitFinding := .intact) : Out :=
  let n := line.toNat
  let c := s.core core
  if !s.assigned core then .next s
  else
    match c.de.misses.find? (fun m => m.line == n) with
    | some m => .next (s.fillLine core m dcc ext flit)
    | none =>
      let ts := c.missers n
      if ts = 0 then .next s
      else onCore core (fun _ c => { c with de := { c.de with misses := c.de.misses ++ [⟨n, s.epoch, ts⟩] } }) s

/-- A record of the instruction cache (R289). -/
def icPost (sev : BitVec 2) (cause : BitVec 16) (w : Fin 4) (addr : Nat) : Post :=
  plainPost sev cause 6 (BitVec.ofNat 4 w.val) addr []

/-- A way is disabled until core reset (R289). -/
def Core.disableWay (w : Fin 4) (c : Core) : Core :=
  ({ c with de := { c.de with wdis := c.de.wdis ||| (1 <<< w.val), ic := c.de.ic.filter (fun p => p.1 / 128 != w.val) } }
    : Core).post (icPost 1 0x0108 w 0)

/-- A fetch finds a parity error: the line is fetched again into the same way, and the error counts (R289). -/
def execIcParityError (core : BitVec 13) (line : BitVec 25) (s : State) (dcc : LineFinding := .clean) (ext : HbmFinding := .clean)
    (flit : FlitFinding := .intact) : Out :=
  let n := line.toNat
  let c := s.core core
  match c.de.icWay n with
  | none => .next s
  | some w =>
    if !s.assigned core then .next s
    else
      let x := s.codeFlit core n (s.codeLine core n dcc ext) flit
      let clean : Bool := x.2.data.poison.isEmpty && !x.2.lost
      onCore core (fun e c =>
        let d := c.de.dropLine n
        let d := { d with icerr := d.icerr.set w (d.icerr[w] + 1) }
        let d := if clean then (d.putLine w { tag := n, epoch := s.epoch, data := x.2.data.bytes }).1 else d
        let c := ({ c with de := d } : Core).post (icPost 0 0x0107 w (128 * n))
        let c := if 8 ≤ d.icerr[w].toNat then c.disableWay w else c
        if clean then c else c.fetchFail e (if x.2.lost then 0x0D else 0x0B) n (c.missers n)) x.1

/-- The window of 2^20 lookups ends: all counts return to 0 (R289). -/
def execIcErrWindow (core : BitVec 13) (s : State) : Out :=
  onCore core (fun _ c => { c with de := { c.de with icerr := Vector.replicate 4 0 } }) s

/-! ### ICINV and ICPF -/

/-- An entry joins the issue queue of the DE. -/
def Core.deEnqueue (x : DeEntry) (c : Core) : Core :=
  let issue : List DeEntry := c.de.issue ++ [x]
  ({ c with de := { c.de with issue := issue } } : Core).trim

/-- ICINV: the thread waits until it has completed (R285). -/
def execIcinv (a : Site) (w : SeWord) (s : State) : Out :=
  seCmd a (icinvForm w) w noExtra (fun _ c _ => !c.room 3)
    (fun _ o c =>
      let x : DeEntry := .icinv c.seq a.thread (w.mod == 1) (o.a.value c a.thread) (o.b.value c a.thread) c.seq
      (c.mapTh a.thread (fun h => { h with stall := .icinv c.seq w })).deEnqueue x) s

/-- ICPF: the thread goes on (R288). -/
def execIcpf (a : Site) (w : SeWord) (s : State) : Out :=
  seCmd a (icpfForm w) w noExtra (fun _ c _ => !c.room 3)
    (fun _ o c =>
      let x : DeEntry := .icpf (Fin.ofNat 4 w.mod.toNat) (o.a.value c a.thread) (o.b.value c a.thread) c.seq
      (c.deEnqueue x).finish a.thread w.len o) s

/-- Every CODELOAD that the core enqueued before issue number `seq` has completed (R285, R288). The rest of a chain that has not
been read may hold one. -/
def Core.loadsDone (c : Core) (seq : Nat) : Bool :=
  !(List.finRange 4).any (fun q => (c.de.q[q]).descs.any (fun r =>
    decide (r.entry < seq) && !r.abandoned && ((r.op == 4 && !r.over) || r.chainOpen)))

/-- ICINV at the head of the DE queue invalidates its lines and releases its thread (R285). -/
def Core.icinvDone (c : Core) : Core :=
  match c.de.issue with
  | .icinv id t all first len seq :: rest =>
    if !c.loadsDone seq then c
    else
      let hit (l : IcLine) : Bool := all || (decide (0 < len) && decide (first / 128 ≤ l.tag ∧ l.tag ≤ (first + len - 1) / 128))
      let c := ({ c with de := { c.de with issue := rest, ic := c.de.ic.filter (fun p => !hit p.2) } } : Core).trim
      match (c.th t).stall with
      | .icinv k w => if k = id then c.complete t (icinvForm w) w else c
      | _ => c
  | _ => c

/-- ICINV completes. -/
def execIcinvComplete (core : BitVec 13) (s : State) : Out := onCore core (fun _ c => c.icinvDone) s

/-- One line of an ICPF: filled into its way, whatever that holds, and into no other (R288). -/
def State.preload (s : State) (id : CoreId) (w : Fin 4) (line : Nat) (dcc : LineFinding) (ext : HbmFinding) (flit : FlitFinding) : State :=
  let c := s.core id
  if c.de.wdis.getLsbD w || decide (c.codeSize ≤ 128 * line) then s
  else
    let x := s.codeFlit id line (s.codeLine id line dcc ext) flit
    if x.2.data.poison ≠ [] ∨ x.2.lost then x.1
    else
      let y := ((c.de).dropLine line).putLine w { tag := line, epoch := s.epoch, data := x.2.data.bytes }
      (x.1.setCore id { x.1.core id with de := y.1 }).offerLine id y.2

/-- ICPF at the head of the DE queue fills its range, line by line (R288). -/
def execIcpfExecute (core : BitVec 13) (s : State) (dcc : List LineFinding := []) (ext : List HbmFinding := [])
    (flit : List FlitFinding := []) : Out :=
  let c := s.core core
  match c.de.issue with
  | .icpf w first len seq :: rest =>
    if !c.loadsDone seq || !s.assigned core then .next s
    else
      let ls := linesOf first (min len (c.codeSize - first))
      let s := ls.zipIdx.foldl (fun s l => s.preload core w l.1 (dcc.getD l.2 .clean) (ext.getD l.2 .clean) (flit.getD l.2 .intact)) s
      onCore core (fun _ c => ({ c with de := { c.de with issue := rest } } : Core).trim) s
  | _ => .next s

end Sys2Proof.Machine
end

