-- ==== Sys2Proof/Machine/MpRows.lean ====
section
/-! DEFINITION. The two management processors: heartbeats, the loss of one of them, and the heartbeat word (R440 to R446). -/

namespace Sys2Proof.Machine

/-- A processor hears the other's heartbeat, every 100 µs (R442). -/
def execMpHeartbeat (toA : Bool) (s : State) : Out :=
  let m := s.mp
  if s.board.stage = .held ∨ m.heldA ∨ m.heldB then .next s
  else
    let s := s.wait ((if toA then m.heardA else m.heardB) + 100000)
    .next { s with mp := if toA then { s.mp with heardA := s.now } else { s.mp with heardB := s.now } }

/-- MP-B takes over from MP-A (R443): it is active, refreshes the heartbeat word, and tells the host. SPDM connections end with
the processor that held them (R486). [DESIGN CHOICE: log entry 107] -/
def State.takeover (s : State) : State :=
  let s := { s with
    mp := { s.mp with activeB := true, heldA := true, standbyLost := true, takeovers := s.mp.takeovers + 1, wordAt := s.now }
    sec := { s.sec with spdm := Vector.replicate 3 .none } }
  let s := { s with mp := { s.mp with wordState := s.mstate } }
  (((s.signalBoth 10).log (mpEvent 1 0x0701 [])).log (noticeEvent 0x0807 0 []))

/-- The moment at which a processor may declare the other lost: 10 heartbeats are missing, the other has reported that its own check
failed, or has left a journal request of this moment unacknowledged for 100 µs (R442).
[DESIGN CHOICE: log entry 107] -/
def State.lossAt (s : State) (byB : Bool) (cause : MpLoss) : Nat :=
  match cause with
  | .heartbeats => (if byB then s.mp.heardB else s.mp.heardA) + 10 ^ 6
  | .selfCheck => s.now
  | .journal => s.now + 100000

/-- A processor declares the other lost and asserts its reset; the first to assert wins until module reset (R442, R445).
[DESIGN CHOICE: log entry 107] -/
def execMpLost (byB : Bool) (s : State) (cause : MpLoss := .heartbeats) : Out :=
  if s.board.stage = .held ∨ s.mp.heldA ∨ s.mp.heldB then .next s
  else
  let s := s.wait (s.lossAt byB cause)
  if byB then .next s.takeover
  else .next (({ s with mp := { s.mp with heldB := true, standbyLost := true } } : State).log (mpEvent 1 0x0702 []))

/-- The active processor refreshes the heartbeat word every 1 ms, with MSTATE (R440, R446). -/
def execHbWordRefresh (s : State) : Out :=
  if s.board.stage = .held ∨ !s.firmwareUp then .next s
  else
    let s := s.wait (s.mp.wordAt + 10 ^ 6)
    .next { s with mp := { s.mp with wordAt := s.now, wordState := s.mstate } }

end Sys2Proof.Machine
end

