-- ==== Sys2Proof/Machine/Pldm.lean ====
section
/-! DEFINITION. PLDM for firmware update and for platform monitoring over the BMC's bus (R489, R520). The spec names the
commands and what they do, and leaves the layout of messages to DSP0267 and DSP0248: a response here is the completion code and
the sequence of what the spec names. -/

namespace Sys2Proof.Machine

/-! ### Responses -/

/-- A PLDM response. -/
def State.pldm (s : State) (out : List Byte) : State := { s with sec := { s.sec with pldmOut := out } }

/-- Completion codes of DSP0240, DSP0267 and DSP0248. -/
def pldmOk : Byte := 0
def pldmError : Byte := 1
def pldmNotInUpdate : Byte := 0x80
def pldmInUpdate : Byte := 0x81
def pldmState : Byte := 0x84
def pldmNoSensor : Byte := 0x80
def pldmNoRecord : Byte := 0x82

/-- The update state changed. -/
def State.mapUpd (s : State) (f : Security → Security) : State := { s with sec := f s.sec }

/-- A PLDM command reaches the module: its MP runs, the firmware or the ROM (R484). In DECOMMISSIONED it answers none (R490).
[PRESUMED: log entries 96, 98] [DEDUCED: log entry 155] -/
def pldmCmd (rom : Bool) (body : State → State) (s : State) : Out :=
  if s.board.stage = .held ∨ (!rom ∧ !s.firmwareUp) ∨ s.mpHeld s.activeMp ∨ s.sec.fuses.state = 4 then .next s else .next (body s)

/-! ### Firmware update (R489) -/

/-- QueryDeviceIdentifiers: the PCI vendor and the ordering code. -/
def execQueryDeviceIdentifiers (s : State) : Out :=
  pldmCmd true (fun s => s.pldm ([pldmOk] ++ leBytes 2 Config.pciVendor.toNat ++ codeText s.ident.code)) s

/-- GetFirmwareParameters: the running version, and the version marked for the next boot. -/
def execGetFirmwareParameters (s : State) : Out :=
  pldmCmd true (fun s =>
    let i := s.sec.images
    let mp := s.activeMp
    let pend := (i.next[mp]).bind (fun k => (i.slots[mp])[k])
    s.pldm ([pldmOk] ++ leBytes 8 ((i.runs mp).elim 0 imgVersion) ++ leBytes 8 (pend.elim 0 imgVersion))) s

/-- A command of FW_UPDATE other than QUERY holds the claim on the images. -/
def State.fwClaimed (s : State) : Bool :=
  allSources.any (fun x => decide ((s.box x).st = .running ∧ (s.box x).opc = 0x81 ∧ word32At (s.box x).payload 0 % 256 ≠ 0))

/-- RequestUpdate: update mode begins and holds the claim; not in BLANK and DECOMMISSIONED (Table 16-6).
[PRESUMED: log entry 98] -/
def execRequestUpdate (_maxTransfer : Word) (s : State) : Out :=
  pldmCmd true (fun s =>
    let st := s.sec.fuses.state
    if s.sec.upd ≠ .idle ∨ s.fwClaimed then s.pldm [pldmInUpdate]
    else if st = 0 ∨ st = 4 then s.pldm [pldmError]
    else (s.mapUpd (fun x => { x with upd := .learn, updSize := 0, updData := [] })).pldm [pldmOk]) s

/-- A command of update mode in one of its states. -/
def updCmd (st : UpdateState) (body : State → State) (s : State) : Out :=
  pldmCmd true (fun s =>
    if s.sec.upd = .idle then s.pldm [pldmNotInUpdate] else if s.sec.upd ≠ st then s.pldm [pldmState] else body s) s

/-- PassComponentTable: the one component is number 0, the MP image. -/
def execPassComponentTable (component : BitVec 16) (s : State) : Out :=
  updCmd .learn (fun s =>
    if component = 0 then (s.mapUpd (fun x => { x with upd := .ready })).pldm [pldmOk, 0] else s.pldm [pldmOk, 1]) s

/-- UpdateComponent: the transfer of the image begins. -/
def execUpdateComponent (component : BitVec 16) (size : Word) (s : State) : Out :=
  updCmd .ready (fun s =>
    if component ≠ 0 ∨ size = 0 ∨ 4096 + 24 * 2 ^ 20 < size.toNat then s.pldm [pldmOk, 1]
    else (s.mapUpd (fun x => { x with upd := .download, updSize := size.toNat, updData := [] })).pldm [pldmOk, 0]) s

/-- RequestFirmwareData: the device asks for up to 1,024 bytes at the place it has reached, and they come. -/
def execRequestFirmwareData (offset : Word) (data : List Byte) (s : State) : Out :=
  let x := s.sec
  if x.upd ≠ .download ∨ offset.toNat ≠ x.updData.length ∨ 1024 < data.length ∨ x.updSize < x.updData.length + data.length then .next s
  else .next (s.mapUpd (fun x => { x with updData := x.updData ++ data }))

/-- TransferComplete: the device has the whole image. -/
def execTransferComplete (s : State) : Out :=
  .next (if s.sec.upd = .download ∧ s.sec.updData.length = s.sec.updSize then s.mapUpd (fun x => { x with upd := .verify }) else s)

/-- VerifyComplete: an image that verifies under R481 goes on; another is dropped. -/
def execVerifyComplete (s : State) : Out :=
  .next (if s.sec.upd = .verify then
      (if s.sec.fuses.verifies s.sec.updData then s.mapUpd (fun x => { x with upd := .apply })
        else s.mapUpd (fun x => { x with upd := .ready, updData := [] }))
    else s)

/-- ApplyComplete: the image is staged. While neither slot verifies, it goes into slot 0, and the ROM resets the MP (R484). -/
def execApplyComplete (s : State) : Out :=
  .next (if s.sec.upd = .apply then
      (if s.firmwareUp then
        s.mapUpd (fun x => { x with upd := .ready, updData := []
                                    images := { x.images.setSpare none with staged := x.updData, verified := true } })
      else
        s.mapUpd (fun x => { x with upd := .idle, updData := []
                                    images := (x.images.setSlot 0 0 (some x.updData)).setSlot 1 0 (some x.updData) }))
    else s)

/-- ActivateFirmware: as ACTIVATE with NOW = 0 (R488), with a pending activation as the answer. -/
def execActivateFirmware (s : State) : Out :=
  updCmd .ready (fun s =>
    if s.anyJob ∨ !s.sec.images.verified then s.pldm [pldmError]
    else (s.mapUpd (fun x => { x with upd := .idle, images := x.images.activate })).pldm [pldmOk, 1]) s

/-- The code of an update state (DSP0267). -/
def UpdateState.code : UpdateState → Byte
  | .idle => 0 | .learn => 1 | .ready => 2 | .download => 3 | .verify => 4 | .apply => 5 | .activate => 6

/-- GetStatus: the update state, and whether events were dropped (Table 17-8). -/
def execGetStatus (s : State) : Out :=
  pldmCmd true (fun s => s.pldm [pldmOk, s.sec.upd.code, BitVec.ofNat 8 (b2n s.sec.lostEvents)]) s

/-- CancelUpdate: update mode ends, and what it staged is discarded. -/
def execCancelUpdate (s : State) : Out :=
  pldmCmd true (fun s =>
    if s.sec.upd = .idle then s.pldm [pldmNotInUpdate]
    else (s.mapUpd (fun x => { x with upd := .idle, updSize := 0, updData := [], images := x.images.discard })).pldm [pldmOk]) s

/-! ### Platform monitoring (R520) -/

/-- The sensors of Table 17-9: numeric ones, and state sensors. -/
def numericSensors : List Nat :=
  [1, 2, 3, 4] ++ (List.range 40).map (fun d => 0x10 + d) ++ (List.range 16).map (fun k => 0x40 + k)
def stateSensors : List Nat := [0x80, 0x81, 0x82]
def sensors : List Nat := numericSensors ++ stateSensors

/-- The value of a sensor. -/
def State.sensor (s : State) (n : Nat) : Nat :=
  let p := s.power
  if n = 1 then p.vin.toNat
  else if n = 2 then p.iin.toNat
  else if n = 3 then p.sample.toNat
  else if n = 4 then p.winavg.toNat
  else if n < 0x40 then (p.dies[Fin.ofNat 40 (n - 0x10)]).tj.toNat
  else if n < 0x80 then (p.hbmTemp[Fin.ofNat 16 n]).toNat
  else if n = 0x80 then s.mstate.toNat
  else if n = 0x81 then s.sec.fuses.state
  else b2n s.mp.ready

/-- The warning and critical limits of a sensor. -/
def sensorLimits (n : Nat) : Option Nat × Option Nat :=
  if 0x10 ≤ n ∧ n < 0x38 then (some 100, some 105) else if 0x40 ≤ n ∧ n < 0x50 then (some 95, none) else (none, none)

/-- 0 normal, 1 warning, 2 critical. -/
def sensorState (n v : Nat) : Nat :=
  let l := sensorLimits n
  if (match l.2 with | some x => decide (x ≤ v) | none => false) then 2
  else if (match l.1 with | some x => decide (x ≤ v) | none => false) then 1
  else 0

/-- GetPDR: records are numbered from 1 in the order of Table 17-9; number 0 asks for the first.
[PRESUMED: log entry 98] -/
def execGetPdr (record : Word) (s : State) : Out :=
  pldmCmd false (fun s =>
    let k := max 1 record.toNat
    match sensors[k - 1]? with
    | none => s.pldm [pldmNoRecord]
    | some n =>
      let l := sensorLimits n
      s.pldm ([pldmOk] ++ leBytes 4 (if k = sensors.length then 0 else k + 1) ++ leBytes 2 n ++
        [BitVec.ofNat 8 (b2n (0x80 ≤ n)), BitVec.ofNat 8 (l.1.getD 0), BitVec.ofNat 8 (l.2.getD 0)])) s

/-- GetPDRRepositoryInfo: the number of records. -/
def execGetPdrRepositoryInfo (s : State) : Out := pldmCmd false (fun s => s.pldm ([pldmOk] ++ leBytes 4 sensors.length)) s

/-- GetSensorReading of a numeric sensor: enabled or not, its state, and its value. -/
def execGetSensorReading (sensor : BitVec 16) (s : State) : Out :=
  pldmCmd false (fun s =>
    let n := sensor.toNat
    if !numericSensors.any (fun x => x == n) then s.pldm [pldmNoSensor]
    else if nhas s.sec.disabled n then s.pldm [pldmOk, 1]
    else s.pldm ([pldmOk, 0, BitVec.ofNat 8 (sensorState n (s.sensor n))] ++ leBytes 4 (s.sensor n))) s

/-- GetStateSensorReadings. -/
def execGetStateSensorReadings (sensor : BitVec 16) (s : State) : Out :=
  pldmCmd false (fun s =>
    let n := sensor.toNat
    if !stateSensors.any (fun x => x == n) then s.pldm [pldmNoSensor] else s.pldm [pldmOk, 0, BitVec.ofNat 8 (s.sensor n)]) s

/-- SetNumericSensorEnable. -/
def execSetNumericSensorEnable (sensor : BitVec 16) (enable : Bool) (s : State) : Out :=
  pldmCmd false (fun s =>
    let n := sensor.toNat
    if !numericSensors.any (fun x => x == n) then s.pldm [pldmNoSensor]
    else
      (s.mapUpd (fun x => { x with disabled := if enable then ndel x.disabled n else nins x.disabled n })).pldm [pldmOk]) s

/-- SetEventReceiver. -/
def execSetEventReceiver (receiver : Byte) (s : State) : Out :=
  pldmCmd false (fun s => (s.mapUpd (fun x => { x with receiver := some receiver })).pldm [pldmOk]) s

/-- PollForPlatformEventMessage: the next event, an OEM event of class 0xF0 with its record; BMC_ALERT_N is released when none is
left (R538). -/
def execPollForPlatformEventMessage (s : State) : Out :=
  pldmCmd false (fun s =>
    match s.sec.events with
    | [] => s.pldm [pldmOk, 0]
    | x :: xs =>
      let s := (s.mapUpd (fun y => { y with events := xs })).pldm ([pldmOk, 0xF0] ++ x)
      { s with board := { s.board with alertN := s.board.alertN || xs.isEmpty } }) s

end Sys2Proof.Machine
end

