-- ==== Sys2Proof/Machine/Scalar.lean ====
section
/-! DEFINITION. Integer and binary32 instructions of the SE, the multiplier and the divider (Table 3-8, R78 to R82,
R85 to R87). -/

namespace Sys2Proof.Machine

/-- Write a result to operand d and complete. -/
def Core.result (t : Fin 4) (len : BitVec 2) (o : Operands) (v : Nat) (c : Core) : Core :=
  (c.writeDest t o.d.dest o.d.ty.bytes v).finish t len o

/-- An instruction that writes d from a and b in its issue cycle; `fn` has the width in bits, a and b. -/
def aluCmd (a : Site) (f : Form) (w : SeWord) (fn : Nat → Nat → Nat → Nat) (s : State) : Out :=
  seCmd a f w noExtra noWaits
    (fun _ o c => c.result a.thread w.len o (fn (8 * o.d.ty.bytes) (o.a.value c a.thread) (o.b.value c a.thread))) s

/-- The smaller or the larger of two numbers, signed or unsigned. -/
def pick (larger sgn : Bool) (n x y : Nat) : Nat :=
  let less := if sgn then decide (signed n x < signed n y) else decide (x < y)
  if less != larger then x else y

/-- NOP: no effect (Table 3-8). A word with a reserved opcode comes as this command and raises ILLEGAL_INSN, from the unit of
its range (R71, R78, R168, R257); a word with another instruction's opcode is not this command.
[DESIGN CHOICE: log entry 112] -/
def execNop (a : Site) (w : SeWord) (s : State) (opc : BitVec 7 := 0) : Out :=
  if opc = 0 then seCmd a (noneForm w) w noExtra noWaits (fun _ o c => c.finish a.thread w.len o) s
  else if opcReserved opc then onCore a.core (fun e c => c.reservedIssue e a.thread opc) s
  else .next s

/-- MOV. -/
def execMov (a : Site) (w : SeWord) (s : State) : Out :=
  aluCmd a (movForm w) w (fun _ x _ => x) s

/-- ADD. -/
def execAdd (a : Site) (w : SeWord) (s : State) : Out := aluCmd a (form3 w 1) w (fun n x y => (x + y) % 2 ^ n) s

/-- SUB. -/
def execSub (a : Site) (w : SeWord) (s : State) : Out :=
  aluCmd a (form3 w 1) w (fun n x y => (x + 2 ^ n - y) % 2 ^ n) s

/-- AND. -/
def execAnd (a : Site) (w : SeWord) (s : State) : Out := aluCmd a (form3 w 1) w (fun _ x y => x &&& y) s

/-- OR. -/
def execOr (a : Site) (w : SeWord) (s : State) : Out := aluCmd a (form3 w 1) w (fun _ x y => x ||| y) s

/-- XOR. -/
def execXor (a : Site) (w : SeWord) (s : State) : Out := aluCmd a (form3 w 1) w (fun _ x y => x ^^^ y) s

/-- SHL: by b modulo the width. -/
def execShl (a : Site) (w : SeWord) (s : State) : Out :=
  aluCmd a (form3 w 1) w (fun n x y => (x <<< (y % n)) % 2 ^ n) s

/-- SHR: by b modulo the width, arithmetic when MOD[0] is 1. -/
def execShr (a : Site) (w : SeWord) (s : State) : Out :=
  aluCmd a (form3 w 2) w
    (fun n x y => if w.mod.getLsbD 0 then toBits n (signed n x >>> (y % n)) else x >>> (y % n)) s

/-- MIN. -/
def execMin (a : Site) (w : SeWord) (s : State) : Out :=
  aluCmd a (form3 w 2) w (fun n x y => pick false (w.mod.getLsbD 0) n x y) s

/-- MAX. -/
def execMax (a : Site) (w : SeWord) (s : State) : Out :=
  aluCmd a (form3 w 2) w (fun n x y => pick true (w.mod.getLsbD 0) n x y) s

/-- ZEXT. -/
def execZext (a : Site) (w : SeWord) (s : State) : Out := aluCmd a (formExt w) w (fun _ x _ => x) s

/-- SEXT. -/
def execSext (a : Site) (w : SeWord) (s : State) : Out :=
  aluCmd a (formExt w) w (fun n x _ => toBits n (signed (8 * 2 ^ w.mod.toNat) x)) s

/-- SLT. -/
def execSlt (a : Site) (w : SeWord) (s : State) : Out :=
  aluCmd a (form3 w 2) w
    (fun n x y => b2n (if w.mod.getLsbD 0 then decide (signed n x < signed n y) else decide (x < y))) s

/-- SEQ. -/
def execSeq (a : Site) (w : SeWord) (s : State) : Out := aluCmd a (form3 w 1) w (fun _ x y => b2n (x == y)) s

/-- CLZ. -/
def execClz (a : Site) (w : SeWord) (s : State) : Out := aluCmd a (form2 w) w (fun n x _ => leadingZeros n x) s

/-- POPC. -/
def execPopc (a : Site) (w : SeWord) (s : State) : Out := aluCmd a (form2 w) w (fun n x _ => popCount n x) s

/-! ### Multiplier and divider -/

/-- A result of `n` bits extended to 64 bits (R81). -/
def extend64 (sgn : Bool) (n x : Nat) : DWord := if sgn then BitVec.ofInt 64 (signed n x) else BitVec.ofNat 64 (x % 2 ^ n)

/-- MH and ML of a product (R81). -/
def mulResult (sgn : Bool) (n x y : Nat) : DWord × DWord :=
  let p := if sgn then toBits (2 * n) (signed n x * signed n y) else x * y
  (extend64 sgn n (p / 2 ^ n), BitVec.ofNat 64 (p % 2 ^ n))

/-- QOT and REM of an integer division (R82). -/
def divResult (sgn : Bool) (n x y : Nat) : DWord × DWord :=
  if y = 0 then (extend64 sgn n (2 ^ n - 1), extend64 sgn n x)
  else if sgn then
    (extend64 true n (toBits n (Int.tdiv (signed n x) (signed n y))),
      extend64 true n (toBits n (Int.tmod (signed n x) (signed n y))))
  else (extend64 false n (x / y), extend64 false n (x % y))

/-- MUL: its product reaches MH and ML later (R85). -/
def execMul (a : Site) (w : SeWord) (s : State) : Out :=
  seCmd a (mulForm w) w noExtra noWaits
    (fun _ o c =>
      let m := mulResult (w.mod.getLsbD 0) (8 * o.a.ty.bytes) (o.a.value c a.thread) (o.b.value c a.thread)
      (c.mapTh a.thread (fun h => { h with muls := h.muls ++ [m] })).finish a.thread w.len o) s

/-- The oldest product of a thread reaches MH and ML (R85, R86). -/
def execMulResultWrite (a : Site) (s : State) : Out :=
  onCore a.core (fun _ c => c.mapTh a.thread (fun h =>
    match h.muls with
    | [] => h
    | m :: ms => { h with muls := ms, r := { h.r with mh := m.1, ml := m.2 } })) s

/-- The divider takes an operation, when it is free (R86). -/
def divCmd (a : Site) (f : Form) (w : SeWord) (res : Core → Operands → DWord × DWord × BitVec 6) (s : State) : Out :=
  seCmd a f w noExtra (fun _ c _ => c.div.isSome)
    (fun _ o c =>
      let (q, r, fl) := res c o
      ({ c with div := some { thread := a.thread, qot := q, rem := r, flags := fl } }).finish a.thread w.len o) s

/-- DIV (R82). -/
def execDiv (a : Site) (w : SeWord) (s : State) : Out :=
  divCmd a (divForm w) w
    (fun c o =>
      let x := o.a.value c a.thread
      let y := o.b.value c a.thread
      if w.sz = 4 then ((BitVec.ofNat 64 (div32 x y).1), 0, (div32 x y).2)
      else
        let qr := divResult (w.mod.getLsbD 0) (8 * o.a.ty.bytes) x y
        (qr.1, qr.2, 0)) s

/-- FSQRT (R82). -/
def execFsqrt (a : Site) (w : SeWord) (s : State) : Out :=
  divCmd a (sqrtForm w) w
    (fun c o => ((BitVec.ofNat 64 (sqrt32 (o.a.value c a.thread)).1), 0, (sqrt32 (o.a.value c a.thread)).2)) s

/-- The divider's result reaches QOT and REM of its thread (R85, R86). -/
def execDivResultWrite (core : BitVec 13) (s : State) : Out :=
  onCore core (fun _ c => match c.div with | none => c | some d => c.flushDiv d.thread) s

/-! ### Binary32 -/

/-- The binary32 result `v` of operand `d` in flight (Table 3-10, R200); its scratchpad destination takes a tracker entry
until it is written (R236). A loop counter holds its result when the instruction completes, so that the level that this
completion decides sees it (R89; DEDUCED, log entry 111). [DEDUCED: log entry 111] -/
def Core.putFp (t : Fin 4) (d : Operand) (v : Nat × BitVec 6) (c : Core) : Core :=
  match d.loc with
  | .loopCount _ => (c.writeDest t d.dest d.ty.bytes v.1).flag v.2
  | _ =>
    let r : FpResult := { dest := d.dest, bytes := d.ty.bytes, value := BitVec.ofNat 64 v.1, flags := v.2, seq := c.seq }
    (c.mapTh t (fun h => { h with fps := h.fps ++ [r] })).trackDest t d

/-- A binary32 instruction: its result and flags reach d later. [DEDUCED: log entry 111] -/
def fpCmd (a : Site) (f : Form) (w : SeWord) (fn : Core → Operands → Nat × BitVec 6) (s : State) : Out :=
  seCmd a f w noExtra noWaits (fun _ o c => (c.putFp a.thread o.d (fn c o)).finish a.thread w.len o) s

/-- A binary32 instruction of a and b. -/
def fpCmd2 (a : Site) (f : Form) (w : SeWord) (fn : Nat → Nat → Nat × BitVec 6) (s : State) : Out :=
  fpCmd a f w (fun c o => fn (o.a.value c a.thread) (o.b.value c a.thread)) s

/-- FADD. -/
def execFadd (a : Site) (w : SeWord) (s : State) : Out := fpCmd2 a (formF3 w) w add32 s

/-- FSUB. -/
def execFsub (a : Site) (w : SeWord) (s : State) : Out := fpCmd2 a (formF3 w) w sub32 s

/-- FMUL. -/
def execFmul (a : Site) (w : SeWord) (s : State) : Out := fpCmd2 a (formF3 w) w mul32 s

/-- FMA: d + a × b, rounded once. -/
def execFma (a : Site) (w : SeWord) (s : State) : Out :=
  fpCmd a (fmaForm w) w
    (fun c o => fma32 (o.d.value c a.thread) (o.a.value c a.thread) (o.b.value c a.thread)) s

/-- FMIN (R40). -/
def execFmin (a : Site) (w : SeWord) (s : State) : Out := fpCmd2 a (formF3 w) w (fun x y => (minmax32 false x y, 0)) s

/-- FMAX (R40). -/
def execFmax (a : Site) (w : SeWord) (s : State) : Out := fpCmd2 a (formF3 w) w (fun x y => (minmax32 true x y, 0)) s

/-- The condition MOD names for FCMP: EQ, LT, LE, UN. -/
def fcmpCond (m : BitVec 2) : Cond :=
  match m.toNat with
  | 0 => .eq
  | 1 => .lt
  | 2 => .le
  | _ => .un

/-- FCMP: 1 or 0 as a 32-bit integer (R42). -/
def execFcmp (a : Site) (w : SeWord) (s : State) : Out :=
  fpCmd2 a (fcmpForm w) w
    (fun x y => let p := compareFl (fcmpCond w.mod) (dec32 x) (dec32 y); (b2n p.1, p.2)) s

/-- FCVTI (R80). -/
def execFcvti (a : Site) (w : SeWord) (s : State) : Out :=
  fpCmd2 a (fcvtiForm w) w
    (fun x _ => toInt32 (8 * 2 ^ w.mod.toNat) x) s

/-- ICVTF (R36). -/
def execIcvtf (a : Site) (w : SeWord) (s : State) : Out :=
  fpCmd2 a (icvtfForm w) w
    (fun x _ => ofInt32 (signed (8 * 2 ^ w.mod.toNat) x)) s

/-- The scratchpad bytes that a binary32 result writes. -/
def FpResult.range (f : FpResult) : List (Nat × Nat) := match f.dest with | .mem a n => [(a, n)] | _ => []

/-- The oldest binary32 result of a thread is written. -/
def execFpResultWrite (a : Site) (s : State) : Out :=
  onCore a.core (fun _ c =>
    let out := (c.th a.thread).fps.head?.elim [] FpResult.range
    ((c.writeFp a.thread).unverified out a.found).granted .near out) s

end Sys2Proof.Machine
end

