-- ==== Sys2Proof/Machine/Scrub.lean ====
section
/-! DEFINITION. The ageing of scratchpad requests, the scrubbers, and the trace and the debug stops that the hardware
makes (R193, R199, R203 to R205, R523, R525, R528). -/

namespace Sys2Proof.Machine

/-- A request that was refused in 32 cycles takes rank 1, behind those that have waited longer; a scrub read never does by this
rule (R199). -/
def execRequestAged (core : BitVec 13) (bank : Fin 16) (port : SpmPort) (s : State) : Out :=
  onCore core (fun _ c =>
    if port = .scrub then c
    else c.mapScrub bank (fun x =>
      if x.agedPorts.any (fun p => decide (p = port)) then x else { x with agedPorts := x.agedPorts ++ [port] })) s

/-- A scrub read not granted in 1,024 cycles takes rank 1 (R204). -/
def execScrubAged (core : BitVec 13) (bank : Fin 16) (s : State) : Out :=
  onCore core (fun _ c => c.mapScrub bank (fun x => { x with aged := true })) s

/-- The word of bank `b` and row `r`, as an offset ÷ 8 (Table 7-1). -/
def bankWord (b : Fin 16) (r : Nat) (w : Nat) : Nat := 128 * r + 8 * b.val + w

/-- What a scrub read found in one word (R203, R204, R205): a bit that this pass and the one before it correct makes the row a
candidate. -/
def Core.found (b : Fin 16) (row : Nat) (f : WordFinding) (c : Core) : Core :=
  match f with
  | .corrected w bit =>
    let k := bankWord b row w.val
    let x := (k, bit.toNat)
    let again := c.spm.scrub[b].correctedBefore.any (fun y => y == x)
    let c := (c.mapScrub b (fun s => { s with correctedNow := s.correctedNow ++ [x] })).corrected k
    if again then c.rowCandidate k else c
  | .uncorrectable w =>
    let k := bankWord b row w.val
    if nhas c.spm.poison k then c else c.lost k

/-- A pass of the scrubber ends: a rise of its count of poisoned words is reported (R204). -/
def Core.endPass (b : Fin 16) (c : Core) : Core :=
  let s := c.spm.scrub[b]
  let c := if s.poisonBefore < s.poisonNow then
      c.post (plainPost 1 0x0103 5 (BitVec.ofNat 4 b.val) 0 [BitVec.ofNat 32 s.poisonBefore, BitVec.ofNat 32 s.poisonNow]) else c
  c.mapScrub b (fun s => { s with row := 0, poisonBefore := s.poisonNow, poisonNow := 0, correctedBefore := s.correctedNow,
                                  correctedNow := [] })

/-- The row that a scrubber's count names: the rows by their number, then the spare rows in use, each under the number of the row
it stands in for; a row that is out of use is none (R197, R204). [DESIGN CHOICE: log entry 36] -/
def Spm.scrubRow (m : Spm) (rows : Nat) (b : Fin 16) (n : Nat) : Option Nat :=
  let spare := (m.spares.filter (fun x => x.1 == b.val)).map (fun x => x.2)
  if n < rows then if spare.any (fun r => r == n) then none else some n else spare[n - rows]?

/-- The scrub read of a bank's next row is granted. [DESIGN CHOICE: log entry 36] -/
def Core.scrubRow (e : Env) (b : Fin 16) (fs : List WordFinding) (c : Core) : Core :=
  let n := c.spm.scrub[b].row
  let rows := e.spmSize / 1024
  let c := match c.spm.scrubRow rows b n with
    | none => c
    | some row =>
      let old := ((List.range 8).filter (fun w => nhas c.spm.poison (bankWord b row w))).length
      (fs.foldl (fun (c : Core) f => c.found b row f) c).mapScrub b (fun s => { s with poisonNow := s.poisonNow + old })
  let c := c.mapScrub b (fun s => { s with row := n + 1, aged := false })
  if rows + (c.spm.spares.filter (fun x => x.1 == b.val)).length ≤ n + 1 then c.endPass b else c

/-- A bank's scrubber requests its next row: a request that has taken rank 1 is granted before it, unless the scrub read
has too (R199, R204). -/
def execScrubRead (core : BitVec 13) (bank : Fin 16) (found : List WordFinding) (s : State) : Out :=
  onCore core (fun e c =>
    let x := c.spm.scrub[bank]
    if !x.agedPorts.isEmpty && !x.aged then c.mapScrub bank (fun x => { x with agedPorts := x.agedPorts.drop 1 })
    else c.scrubRow e bank found) s

/-- A corrected word is written back: the stored word is the data every read already returned (R203). -/
def execSpmCorrectedWriteback (core : BitVec 13) (bank : Fin 16) (s : State) : Out :=
  onCore core (fun _ c => c.mapScrub bank (fun x => { x with writebacks := x.writebacks.drop 1 })) s

/-! ### Trace and debug -/

/-- The first buffered trace entry is written at TRPTR; at TRLIMIT the trace wraps or stops (R528). -/
def Core.traceWrite (e : Env) (found : List SpmFinding) (c : Core) : Core :=
  match c.dbg.buf with
  | [] => c
  | x :: xs =>
    let d := c.dbg
    let at_ := d.trptr.toNat
    let next := d.trptr + 16
    let c := if at_ + 16 ≤ e.spmSize then
        (c.mapSpm (fun m => m.write at_ (x.toList.flatMap (fun w => leBytes 4 w.toNat)))).unverified [(at_, 16)] found
      else c
    let full : Bool := decide (d.trlimit.toNat ≤ at_ + 16)
    { c with dbg := { d with buf := xs, trptr := if full && d.trwrap then d.trbase else next, tren := d.tren && (!full || d.trwrap) } }

/-- A buffered trace entry is written. -/
def execTraceEntryWrite (core : BitVec 13) (s : State) (found : List SpmFinding := []) : Out :=
  onCore core (fun e c => c.traceWrite e found) s

/-- The next multiple of 2^30 ns, at `now` or after. -/
def nextSync (now : Nat) : Nat := ceilDiv now (2 ^ 30) * 2 ^ 30

/-- Every 2^30 ns the core writes a sync entry (R528). [DEDUCED: log entry 37] -/
def execTraceSync (core : BitVec 13) (s : State) : Out :=
  if (s.core core).dbg.attached ∧ (s.core core).dbg.tren then onCore core (fun e c => c.traceSync e) (s.wait (nextSync s.now))
  else .next s

/-- An access of the thread's next instruction lies inside a watchpoint: the thread stops before it (R523). -/
def execWatchpointMatch (a : Site) (addr : BitVec 22) (bytes : Nat) (store : Bool) (s : State) : Out :=
  onCore a.core (fun e c =>
    if c.atBoundary a.thread && !c.bpHit a.thread && watchHit c a.thread addr.toNat bytes (!store) store then
      (c.trace e 6 9 a.thread 0 (c.th a.thread).r.pc.toNat addr.toNat).debugStop e a.thread 4
    else c) s

/-- A debug stop of another attached core of the job halts every thread of this one (R525). -/
def execCrossTrigger (core : BitVec 13) (s : State) : Out :=
  onCore core (fun _ c =>
    if c.dbg.crossAsked then
      { c with
        dbg := { c.dbg with crossAsked := false }
        threads := c.threads.map (fun h =>
          if (h.st = .running ∨ h.st = .waiting) ∧ h.haltAsked = 0 then { h with haltAsked := 6 } else h) }
    else c) s

end Sys2Proof.Machine
end

