-- ==== Sys2Proof/Machine/Spdm.lean ====
section
/-! DEFINITION. Measurements and the SPDM responder (R485 to R487). The spec names the requests and what they answer, and
leaves the layout of messages to DSP0274: a response here is the sequence of what the spec names. -/

namespace Sys2Proof.Machine

/-! ### Measurements (Table 16-4) -/

/-- The measurement of the image that a processor runs: of its header; zero while it runs none. -/
def State.imageDigest (s : State) (mp : Fin 2) : BitVec 384 :=
  match s.sec.images.runs mp with
  | some x => Config.sha384 (x.take 4096)
  | none => 0

/-- The fuse items of Table 16-1 without the device secret, as bytes. -/
def State.fuseImage (s : State) : List Byte :=
  let f := s.sec.fuses
  f.rkd.toList.flatMap (fun d => leBytes 48 d.toNat) ++ leBytes 1 f.revoked.toNat ++
    leBytes 48 (f.owner.elim 0 (fun d => d.toNat)) ++ leBytes 8 f.svn ++ leBytes 1 f.lc ++ leBytes 1 f.decom.toNat ++
    codeText s.ident.code

/-- A configuration set as bytes. -/
def ConfigSet.image (n : Nat) (c : ConfigSet) : List Byte :=
  let r := c.route
  let masks (t : Table Nat) : List Nat := (List.range 256).flatMap (fun g => let x := tget t 0 g; [x % 2 ^ 32, x / 2 ^ 32])
  wordBytes ([c.clkplan.toNat, c.pcap.toNat] ++ masks r.minimal ++ masks r.nonMinimal ++ r.loc.toList.map (fun w => w.toNat) ++
    r.roles.toList.map (fun w => w.toNat) ++ [r.self.toNat, r.xpen.toNat, r.nmthr.toNat, r.grace.toNat] ++
    r.reloc.toList.map (fun w => w.toNat) ++
    (List.range 32).flatMap (fun d => (mapRegs d).map (fun x => x.2.get n c)) ++
    c.ports.toList.flatMap (fun p => [b2n p.en, p.laneen.toNat, p.mshare.toNat] ++ p.txpre.toList.map (fun x => x.toNat)) ++
    [b2n c.bind.en, c.bind.partner.toNat, c.bind.cap.toNat, c.bind.undo.toNat, c.bind.store.toNat, c.bind.undoArea.toNat,
      c.bind.rbArea.toNat, c.role.toNat, c.pport.toNat] ++ c.tasym.toList.map (fun x => x.toNat) ++
    [c.mgfm.toNat, b2n c.anchor])

/-- A measurement by its index; none where Table 16-4 lists no index. -/
def State.measurement (s : State) (i : Nat) : Option (BitVec 384) :=
  match i with
  | 1 => some Config.romDigest
  | 2 => some (s.imageDigest 0)
  | 3 => some (s.imageDigest 1)
  | 4 => some (Config.sha384 s.fuseImage)
  | 5 => some (Config.sha384 [s.sec.level.setWidth 8, BitVec.ofNat 8 (b2n (3 ≤ s.sec.failed.toNat))])
  | 6 => some (Config.sha384 (s.active.image (perDie s.ident.code)))
  | n => if 16 ≤ n ∧ n < 24 then some (s.job (Fin.ofNat 8 (n - 16))).digest else none

/-- Every index of Table 16-4. -/
def measurementIndices : List Nat := [1, 2, 3, 4, 5, 6, 16, 17, 18, 19, 20, 21, 22, 23]

/-! ### The responder -/

/-- The codes of SPDM errors that the responder answers (DSP0274). -/
def spdmError (code : Byte) : List Byte := [0x7F, code]
def spdmInvalid : List Byte := spdmError 1
def spdmUnexpected : List Byte := spdmError 4
def spdmUnspecified : List Byte := spdmError 5

/-- A transport reaches the responder: the BMC's bus, or DOE on a host interface that is up (R486). -/
def State.spdmReach (s : State) (tr : Fin 3) : Bool :=
  s.firmwareUp && (if tr = 0 then true else s.board.hiUp[Fin.ofNat 2 (tr.val - 1)])

/-- A transport's state and response. -/
def State.spdmSet (s : State) (tr : Fin 3) (st : SpdmState) (out : List Byte) : State :=
  { s with sec := { s.sec with spdm := s.sec.spdm.set tr st, spdmOut := s.sec.spdmOut.set tr out } }

/-- A request in a connection state: out of order it is unexpected; in DECOMMISSIONED, and in BLANK, which has no identity, every
request is answered with ERROR, Unspecified (R487, Table 16-6).
[PRESUMED: log entry 96] [DESIGN CHOICE: log entry 97] -/
def spdmCmd (tr : Fin 3) (ok : SpdmState → Bool) (body : State → State) (s : State) : Out :=
  if !s.spdmReach tr then .next s
  else
    let st := s.sec.spdm[tr]
    if s.sec.fuses.state = 4 ∨ s.sec.fuses.state = 0 then .next (s.spdmSet tr st spdmUnspecified)
    else if !ok st then .next (s.spdmSet tr st spdmUnexpected)
    else .next (body s)

/-- The answer of DOE discovery (data object type 0): the vendor identifier 0x0001 and a type by its index, discovery and SPDM, with the
next index, 0 after the last (R486). [PRESUMED: log entry 96] -/
def doeDiscovery (index : Byte) : List Byte :=
  if index = 0 then leBytes 2 1 ++ [0, 1] else if index = 1 then leBytes 2 1 ++ [1, 0] else leBytes 2 0xFFFF ++ [0, 0]

/-- GET_VERSION: 1.2 and 1.3; a connection begins anew (R486). On a DOE transport the row may instead be a discovery query, which the
table has no row for: it leaves the connection as it is. -/
def execGetVersion (tr : Fin 3) (s : State) (discover : Option Byte := none) : Out :=
  match discover with
  | none => spdmCmd tr (fun _ => true) (fun s => s.spdmSet tr .version [0x04, 0x12, 0x13]) s
  | some i =>
    if tr = 0 ∨ !s.spdmReach tr then .next s else .next (s.spdmSet tr s.sec.spdm[tr] (doeDiscovery i))

/-- GET_CAPABILITIES: CERT, CHAL, signed MEAS and CHUNK, as the flags of DSP0274. -/
def execGetCapabilities (tr : Fin 3) (s : State) : Out :=
  spdmCmd tr (fun x => x == .version) (fun s => s.spdmSet tr .capabilities (0x61 :: leBytes 4 (2 + 4 + 16 + 2 ^ 17))) s

/-- NEGOTIATE_ALGORITHMS: P-384 and SHA-384 only. -/
def execNegotiateAlgorithms (tr : Fin 3) (p384 : Bool) (sha384 : Bool) (s : State) : Out :=
  spdmCmd tr (fun x => x == .capabilities) (fun s =>
    if p384 && sha384 then s.spdmSet tr .negotiated [0x63, 0x01, 0x01] else s.spdmSet tr .capabilities spdmInvalid) s

/-- A request that needs an established connection. -/
def attestCmd (tr : Fin 3) (body : State → State) (s : State) : Out := spdmCmd tr (fun x => x == .negotiated) body s

/-- The response of a request, with the connection as it is. -/
def State.spdmReply (s : State) (tr : Fin 3) (out : List Byte) : State := s.spdmSet tr s.sec.spdm[tr] out

/-- A response that the requester takes in chunks of a size: piece `k` of it leaves (CHUNK, R486).
[PRESUMED: log entry 96] -/
def State.chunked (s : State) (tr : Fin 3) (chunk : Option (Nat × Nat)) (body : State → State) : State :=
  match chunk with
  | none => body s
  | some (k, n) =>
    let s : State :=
      if k = 0 then
        let t := body s
        { t with sec := { t.sec with spdmLarge := t.sec.spdmLarge.set tr t.sec.spdmOut[tr] } }
      else s
    s.spdmReply tr ((s.sec.spdmLarge[tr].drop (k * n)).take n)

/-- The private keys in the key store of the active processor's E-die (R479). -/
def State.identityKey (s : State) : Nat := (s.sec.rom[s.activeMp]).identity.elim 0 BitVec.toNat
def State.aliasKey (s : State) : Nat := (s.sec.rom[s.activeMp]).alias_.elim 0 BitVec.toNat

/-- The certificate chain of slot 0: the Henros root, the manufacturing authority, the device identity as the SPI NOR holds it, and the
alias, signed by the identity key (R479, R487). -/
def State.chain (s : State) : List Byte :=
  Config.rootCert ++ Config.authorityCert ++ s.sec.idCert[s.activeMp] ++ Config.aliasCert s.identityKey s.aliasKey

/-- GET_DIGESTS: slot 0 only. -/
def execGetDigests (tr : Fin 3) (s : State) : Out :=
  attestCmd tr (fun s => s.spdmReply tr ([0x01, 0x01] ++ leBytes 48 (Config.sha384 s.chain).toNat)) s

/-- GET_CERTIFICATE: a portion of the chain and the length that remains. -/
def execGetCertificate (tr : Fin 3) (slot : BitVec 8) (offset : BitVec 16) (length : BitVec 16) (s : State)
    (chunk : Option (Nat × Nat) := none) : Out :=
  attestCmd tr (fun s => s.chunked tr chunk fun s =>
    let x := s.chain
    if slot ≠ 0 ∨ x.length ≤ offset.toNat then s.spdmReply tr spdmInvalid
    else
      let part := (x.drop offset.toNat).take length.toNat
      s.spdmReply tr ([0x02, 0x00] ++ leBytes 2 part.length ++ leBytes 2 (x.length - offset.toNat - part.length) ++ part)) s

/-- A signature by the alias key, which belongs to the running image (R479, R487). -/
def State.aliasSign (s : State) (x : List Byte) : List Byte := leBytes 96 (Config.ecdsaSign s.aliasKey x).toNat

/-- A response that ends in a fresh nonce and a signature over the request's nonce and all of it. -/
def State.signedReply (s : State) (tr : Fin 3) (nonce : BitVec 256) (head : List Byte) : State :=
  let x := head ++ leBytes 32 (Config.nonce s.fresh).toNat
  ({ s with fresh := s.fresh + 1 } : State).spdmReply tr (x ++ s.aliasSign (leBytes 32 nonce.toNat ++ x))

/-- CHALLENGE of slot 0. -/
def execSpdmChallenge (tr : Fin 3) (slot : BitVec 8) (nonce : BitVec 256) (s : State) : Out :=
  attestCmd tr (fun s =>
    if slot ≠ 0 then s.spdmReply tr spdmInvalid
    else s.signedReply tr nonce ([0x03, 0x00] ++ leBytes 48 (Config.sha384 s.chain).toNat)) s

/-- The type of a measurement in the DMTF format: immutable ROM, mutable firmware, hardware configuration, or firmware configuration; a
job's image counts as mutable firmware. [PRESUMED: log entry 96] -/
def measurementType (i : Nat) : Byte :=
  match i with
  | 1 => 0
  | 2 | 3 => 1
  | 4 => 2
  | 5 | 6 => 3
  | _ => 1

/-- Measurement blocks, one for each index, in the DMTF measurement value format: the index, the specification DMTF, the size, and the
type, size and value of the measurement (R486). [PRESUMED: log entry 96] -/
def State.blocks (s : State) (l : List Nat) : List Byte :=
  l.flatMap (fun i =>
    [BitVec.ofNat 8 i, 1] ++ leBytes 2 51 ++ [measurementType i] ++ leBytes 2 48 ++
      leBytes 48 ((s.measurement i).elim 0 (fun d => d.toNat)))

/-- GET_MEASUREMENTS: index 0 asks for their number, 0xFF for all of them, from one snapshot (R485). -/
def execGetMeasurements (tr : Fin 3) (index : BitVec 8) (sign : Bool) (nonce : BitVec 256) (s : State)
    (chunk : Option (Nat × Nat) := none) : Out :=
  attestCmd tr (fun s => s.chunked tr chunk fun s =>
    let l : List Nat := if index = 0 then [] else if index = 0xFF then measurementIndices else [index.toNat]
    if l.any (fun i => (s.measurement i).isNone) then s.spdmReply tr spdmInvalid
    else
      let head := [0x60, BitVec.ofNat 8 (if index = 0 then measurementIndices.length else l.length)] ++ s.blocks l
      if sign then s.signedReply tr nonce head else s.spdmReply tr head) s

end Sys2Proof.Machine
end

