-- ==== Sys2Proof/Machine/TimeCmd.lean ====
section
/-! DEFINITION. System time: exchanges between a parent and a follower, what a follower makes of them, and TIME_SYNC
(R375 to R381). Stamps are in 1/256 ns. -/

namespace Sys2Proof.Machine

/-! ### Messages (Table 12-10) -/

/-- The bytes of a TIME_SYNC message's unit. -/
def syncBytes (stamp : DWord) (seq : Word) : List Byte := leBytes 8 stamp.toNat ++ leBytes 8 seq.toNat

/-- A TIME_SYNC message waits at a port, for the module at its far end; it is never forwarded. -/
def State.sendSync (s : State) (port : Fin 48) (subop : BitVec 3) (stamp : DWord) (seq : Word) : State :=
  let m := { s.message 6 ((s.port port).peer.elim 0 (fun x => x.1)) subop 0 (syncBytes stamp seq) with vc := 0 }
  s.mapPort port (fun p =>
    p.enqueue { crossed := true, edie := Fin.ofNat 8 (port.val / 6), came := .fromSource, base := m, who := none, msg := m })

/-- A TIME_SYNC message that waits at a port is taken: the first of its SUBOP with this sequence number, and for SYNC and DELAY_RESP
this stamp. Its other bits do not matter, and one without a data unit reads as zeros (R356, Table 12-10). -/
def State.takeSync (s : State) (port : Fin 48) (subop : BitVec 3) (stamp : DWord) (seq : Word) : State :=
  match (s.port port).rxMsgs.find? (fun m =>
      m.type == 6 && m.subop == subop && (subop == 1 || leNat (m.data.take 8) == stamp.toNat) &&
        leNat ((m.data.drop 8).take 4) == seq.toNat) with
  | some m => s.receive port m
  | none => s

/-- The time base in 1/256 ns. -/
def State.stamp (s : State) : DWord := BitVec.ofNat 64 (256 * s.now)

/-! ### What a follower makes of an exchange (R378, R380) -/

/-- An exchange that was lost or discarded; eight in a row begin holdover. -/
def State.lostExchange (s : State) : State :=
  let n : Byte := if s.time.lost = 0xFF then 0xFF else s.time.lost + 1
  let s := { s with time := { s.time with lost := n } }
  if 8 ≤ n.toNat then s.holdover else s

/-- A signed number held between two bounds. -/
def clampInt (lo hi x : Int) : Int := max lo (min hi x)

/-- The rate in force after an accepted exchange: within ±3,500 ppm, and with a job loaded within ±100 ppm of the learned
rate. -/
def State.nextRate (s : State) : Int :=
  let r := clampInt (-3500000) 3500000 (Config.timeRate s.fresh)
  let l := s.time.learned.toInt
  if s.anyJob then clampInt (l - 100000) (l + 100000) r else r

/-- The runs of exchanges with offsets within ±2 ns and outside ±4 ns, and LOCKED (R378). -/
def TimeSync.judge (t : TimeSync) (offset : Int) : TimeSync :=
  let inRun := if offset.natAbs ≤ 512 then t.inRun + 1 else 0
  let outRun := if 1024 < offset.natAbs then t.outRun + 1 else 0
  { t with inRun := inRun, outRun := outRun, locked := (t.locked || decide (16 ≤ inRun)) && !decide (16 ≤ outRun) }

/-- An accepted exchange: the time base steps while no job is loaded and the offset exceeds 1 µs, and is steered otherwise;
holdover ends. [DESIGN CHOICE: log entry 53] -/
def State.acceptExchange (s : State) (offset : Int) : State :=
  let step := !s.anyJob && decide (256000 < offset.natAbs)
  let rate : Word := if step then s.time.rate else BitVec.ofInt 32 s.nextRate
  let t := s.time.judge offset
  { s with
    fresh := s.fresh + 1, now := if step then ((s.now : Int) - offset / 256).toNat else s.now
    time := { t with lost := 0, hold := false, ofs := Config.filteredOffset s.fresh, rate := rate
                     learned := if s.anyJob then t.learned else rate } }

/-- Delay and offset of an exchange on a port (R377). -/
def State.exchange (s : State) (port : Fin 48) (t4 : DWord) : Int × Int :=
  let t := s.time
  let up := (t.t2 - t.t1).toInt
  let down := (t4 - t.t3).toInt
  ((up + down) / 2, (up - down) / 2 - (s.active.tasym[port]).toInt / 2)

/-! ### Rows -/

/-- The exchange of 125 µs is due. A module sends SYNC to the follower at the far end of an ACTIVE port (R377); on its own parent port a
follower counts the exchange before as lost when no SYNC has come since, or when it is still open (R380).
[DESIGN CHOICE: log entry 53] -/
def execTimeSyncExchange (port : Fin 48) (seq : Word) (s : State) : Out :=
  if s.follows port then
    let t := s.time
    let s := { s with time := { t with synced := false, waiting := false } }
    .next (if t.waiting || !t.synced then s.lostExchange else s)
  else if (s.port port).st ≠ .active then .next s
  else .next (({ s with time := { s.time with sent := seq } } : State).sendSync port 0 s.stamp seq)

/-- A follower takes SYNC on its parent port with its arrival stamp, and answers DELAY_REQ. An exchange still open is lost. Any other
port takes the message and leaves it at that (R356). -/
def execSync (port : Fin 48) (t1 t2 t3 : DWord) (seq : Word) (s : State) : Out :=
  if (s.port port).st ≠ .active ∨ !s.follows port then .next (s.takeSync port 0 t1 seq)
  else
    let s := s.takeSync port 0 t1 seq
    let s := if s.time.waiting then s.lostExchange else s
    let s := { s with time := { s.time with t1 := t1, t2 := t2, t3 := t3, seq := seq, waiting := true, synced := true } }
    .next (s.sendSync port 1 0 seq)

/-- A parent answers DELAY_REQ with its arrival stamp; on its own parent port it only takes the message (R356). -/
def execDelayReq (port : Fin 48) (t4 : DWord) (seq : Word) (s : State) : Out :=
  if (s.port port).st ≠ .active ∨ s.follows port then .next (s.takeSync port 1 0 seq)
  else .next ((s.takeSync port 1 0 seq).sendSync port 2 t4 seq)

/-- A follower ends an exchange: it is discarded when its delay exceeds the least of the last 64 by more than 4 ns. On any other
port the message is only taken (R356). -/
def execDelayResp (port : Fin 48) (t4 : DWord) (seq : Word) (s : State) : Out :=
  if (s.port port).st ≠ .active ∨ !s.follows port then .next (s.takeSync port 2 t4 seq)
  else
    let s := s.takeSync port 2 t4 seq
    if !s.time.waiting ∨ s.time.seq ≠ seq then .next s
    else
      let x := s.exchange port t4
      let delay := x.1.toNat
      let late : Bool := match s.time.delays with
        | [] => false
        | d :: ds => decide (ds.foldl min d + 1024 < delay)
      let ds := (delay :: s.time.delays).take 64
      let s := { s with time := { s.time with waiting := false, delays := ds, delay := BitVec.ofNat 32 (ds.foldl min delay) } }
      .next (if late then s.lostExchange else s.acceptExchange x.2)

/-! ### TIME_SYNC -/

/-- The role, the parent port and asymmetries in a configuration set. -/
def ConfigSet.setTime (c : ConfigSet) (role : BitVec 2) (pport : BitVec 6) (mask : BitVec 48) (asym : List (BitVec 16)) :
    ConfigSet :=
  { c with
    role := role, pport := pport
    tasym := Vector.ofFn (fun p => if mask.getLsbD p.val then asym.getD p.val 0 else c.tasym[p]) }

/-- TIME_SYNC (R376, R467, Table 15-12). [DEDUCED: log entry 54] [DESIGN CHOICE: log entry 55] -/
def execTimeSync (src : Source) (role : BitVec 2) (pport : BitVec 6) (mask : BitVec 48) (asym : List (BitVec 16))
    (time : Option DWord) (s : State) : Out :=
  mpCmd src (reqTimeSync role pport mask asym time) (fun s =>
    if role = 3 ∨ 48 ≤ pport.toNat then badArg s 0
    else if time.isSome ∧ role ≠ 1 then badArg s 0x68
    else if time.isSome ∧ s.anyJob then denied s 12
    else
      let s := { s with lastSet := s.active, active := s.active.setTime role pport mask asym, shadow := s.shadow.setTime role pport mask asym
                        now := time.elim s.now (fun t => t.toNat) }
      let s := s.changeNotice src []
      okWith s (leBytes 4 (s.time.word 4))) s

end Sys2Proof.Machine
end

