-- ==== Sys2Proof/Machine/Dispatch.lean ====
section
/-! DEFINITION. The dispatch: one arm for each command, each one call of that command's meaning. -/

namespace Sys2Proof.Machine

/-- The effect of a command on everything but the queue. -/
def exec (i : Instr) (s : State) : Host.Outcome State Fault Refusal :=
  match i with
  | .nop a w opc => Sys2Proof.Machine.execNop a w s opc
  | .mov a w => Sys2Proof.Machine.execMov a w s
  | .add a w => Sys2Proof.Machine.execAdd a w s
  | .sub a w => Sys2Proof.Machine.execSub a w s
  | .and_ a w => Sys2Proof.Machine.execAnd a w s
  | .or_ a w => Sys2Proof.Machine.execOr a w s
  | .xor_ a w => Sys2Proof.Machine.execXor a w s
  | .shl a w => Sys2Proof.Machine.execShl a w s
  | .shr a w => Sys2Proof.Machine.execShr a w s
  | .min_ a w => Sys2Proof.Machine.execMin a w s
  | .max_ a w => Sys2Proof.Machine.execMax a w s
  | .zext a w => Sys2Proof.Machine.execZext a w s
  | .sext a w => Sys2Proof.Machine.execSext a w s
  | .slt a w => Sys2Proof.Machine.execSlt a w s
  | .seq a w => Sys2Proof.Machine.execSeq a w s
  | .clz a w => Sys2Proof.Machine.execClz a w s
  | .popc a w => Sys2Proof.Machine.execPopc a w s
  | .mul a w => Sys2Proof.Machine.execMul a w s
  | .mulResultWrite a => Sys2Proof.Machine.execMulResultWrite a s
  | .div a w => Sys2Proof.Machine.execDiv a w s
  | .fsqrt a w => Sys2Proof.Machine.execFsqrt a w s
  | .divResultWrite core => Sys2Proof.Machine.execDivResultWrite core s
  | .fadd a w => Sys2Proof.Machine.execFadd a w s
  | .fsub a w => Sys2Proof.Machine.execFsub a w s
  | .fmul a w => Sys2Proof.Machine.execFmul a w s
  | .fma a w => Sys2Proof.Machine.execFma a w s
  | .fmin a w => Sys2Proof.Machine.execFmin a w s
  | .fmax a w => Sys2Proof.Machine.execFmax a w s
  | .fcmp a w => Sys2Proof.Machine.execFcmp a w s
  | .fcvti a w => Sys2Proof.Machine.execFcvti a w s
  | .icvtf a w => Sys2Proof.Machine.execIcvtf a w s
  | .fpResultWrite a => Sys2Proof.Machine.execFpResultWrite a s
  | .jmp a w => Sys2Proof.Machine.execJmp a w s
  | .b a w => Sys2Proof.Machine.execB a w s
  | .bu a w => Sys2Proof.Machine.execBu a w s
  | .call a w => Sys2Proof.Machine.execCall a w s
  | .loop a w => Sys2Proof.Machine.execLoop a w s
  | .lbreak a w => Sys2Proof.Machine.execLbreak a w s
  | .csrr a w => Sys2Proof.Machine.execCsrr a w s
  | .csrw a w => Sys2Proof.Machine.execCsrw a w s
  | .cycleLoRead a w => Sys2Proof.Machine.execCycleLoRead a w s
  | .timeLoRead a w => Sys2Proof.Machine.execTimeLoRead a w s
  | .ldepthWrite a w => Sys2Proof.Machine.execLdepthWrite a w s
  | .ldAcq a hi w => Sys2Proof.Machine.execLdAcq a hi w s
  | .stRel a hi w => Sys2Proof.Machine.execStRel a hi w s
  | .fence a w => Sys2Proof.Machine.execFence a w s
  | .fenceComplete a => Sys2Proof.Machine.execFenceComplete a s
  | .etok a w => Sys2Proof.Machine.execEtok a w s
  | .tokenMarkerPass core thread eng => Sys2Proof.Machine.execTokenMarkerPass core thread eng s
  | .ewait a w => Sys2Proof.Machine.execEwait a w s
  | .waitMarkerRelease core thread eng => Sys2Proof.Machine.execWaitMarkerRelease core thread eng s
  | .trackerEntryFree core idx => Sys2Proof.Machine.execTrackerEntryFree core idx s
  | .xld a w => Sys2Proof.Machine.execXld a w s
  | .xldResponse a flit => Sys2Proof.Machine.execXldResponse a s flit
  | .xst a w => Sys2Proof.Machine.execXst a w s
  | .xstAck core id flit => Sys2Proof.Machine.execXstAck core id s flit
  | .remoteTimeout core id => Sys2Proof.Machine.execRemoteTimeout core id s
  | .sld a w => Sys2Proof.Machine.execSld a w s
  | .sst a w => Sys2Proof.Machine.execSst a w s
  | .tagWaitComplete core seg => Sys2Proof.Machine.execTagWaitComplete core seg s
  | .tagDataMove core seg found => Sys2Proof.Machine.execTagDataMove core seg s found
  | .tagTimeout a => Sys2Proof.Machine.execTagTimeout a s
  | .remoteTagArrival target source flit => Sys2Proof.Machine.execRemoteTagArrival target source s flit
  | .withdrawalArrival target source flit => Sys2Proof.Machine.execWithdrawalArrival target source s flit
  | .remoteTagResponse a flit => Sys2Proof.Machine.execRemoteTagResponse a s flit
  | .tagRetryResend a => Sys2Proof.Machine.execTagRetryResend a s
  | .thset a w => Sys2Proof.Machine.execThset a w s
  | .thgo a w => Sys2Proof.Machine.execThgo a w s
  | .thstop a w => Sys2Proof.Machine.execThstop a w s
  | .thstopComplete core target => Sys2Proof.Machine.execThstopComplete core target s
  | .thend a w => Sys2Proof.Machine.execThend a w s
  | .rsend a w => Sys2Proof.Machine.execRsend a w s
  | .rsend4 a w => Sys2Proof.Machine.execRsend4 a w s
  | .rrecv a w => Sys2Proof.Machine.execRrecv a w s
  | .runnerWaitComplete core runner recv found => Sys2Proof.Machine.execRunnerWaitComplete core runner recv s found
  | .rnctlWrite a w => Sys2Proof.Machine.execRnctlWrite a w s
  | .runnerFlush a w => Sys2Proof.Machine.execRunnerFlush a w s
  | .setev a w => Sys2Proof.Machine.execSetev a w s
  | .waitev a w => Sys2Proof.Machine.execWaitev a w s
  | .eventWaitComplete core ev => Sys2Proof.Machine.execEventWaitComplete core ev s
  | .clrev a w => Sys2Proof.Machine.execClrev a w s
  | .evtmrCntWrite a w => Sys2Proof.Machine.execEvtmrCntWrite a w s
  | .eventTimerExpiry core => Sys2Proof.Machine.execEventTimerExpiry core s
  | .allThreadsWaiting core => Sys2Proof.Machine.execAllThreadsWaiting core s
  | .eret a w => Sys2Proof.Machine.execEret a w s
  | .brk a w => Sys2Proof.Machine.execBrk a w s
  | .impreciseExcDelivery a => Sys2Proof.Machine.execImpreciseExcDelivery a s
  | .pour a w => Sys2Proof.Machine.execPour a w s
  | .coreArrive core => Sys2Proof.Machine.execCoreArrive core s
  | .cvctlWrite a w => Sys2Proof.Machine.execCvctlWrite a w s
  | .cvseedWrite a w => Sys2Proof.Machine.execCvseedWrite a w s
  | .cvrmaxRcRead a w => Sys2Proof.Machine.execCvrmaxRcRead a w s
  | .cvsatRead a w => Sys2Proof.Machine.execCvsatRead a w s
  | .icLineFill core line dcc ext flit => Sys2Proof.Machine.execIcLineFill core line dcc s ext flit
  | .icParityError core line dcc ext flit => Sys2Proof.Machine.execIcParityError core line s dcc ext flit
  | .icErrWindow core => Sys2Proof.Machine.execIcErrWindow core s
  | .dccTakeOffer die => Sys2Proof.Machine.execDccTakeOffer die s
  | .vld a v => Sys2Proof.Machine.execVld a v s
  | .vst a v => Sys2Proof.Machine.execVst a v s
  | .vldsr a v => Sys2Proof.Machine.execVldsr a v s
  | .vstsr a v => Sys2Proof.Machine.execVstsr a v s
  | .vlds2 a v => Sys2Proof.Machine.execVlds2 a v s
  | .vlds3 a v => Sys2Proof.Machine.execVlds3 a v s
  | .vlds4 a v => Sys2Proof.Machine.execVlds4 a v s
  | .vsts2 a v => Sys2Proof.Machine.execVsts2 a v s
  | .vsts3 a v => Sys2Proof.Machine.execVsts3 a v s
  | .vsts4 a v => Sys2Proof.Machine.execVsts4 a v s
  | .vmld a v => Sys2Proof.Machine.execVmld a v s
  | .vmst a v => Sys2Proof.Machine.execVmst a v s
  | .vbcast a v => Sys2Proof.Machine.execVbcast a v s
  | .vext a v => Sys2Proof.Machine.execVext a v s
  | .vmovi a v => Sys2Proof.Machine.execVmovi a v s
  | .vadd a v => Sys2Proof.Machine.execVadd a v s
  | .vsub a v => Sys2Proof.Machine.execVsub a v s
  | .vmul a v => Sys2Proof.Machine.execVmul a v s
  | .vfma a v => Sys2Proof.Machine.execVfma a v s
  | .vmin a v => Sys2Proof.Machine.execVmin a v s
  | .vmax a v => Sys2Proof.Machine.execVmax a v s
  | .vbit a v => Sys2Proof.Machine.execVbit a v s
  | .vcmp a v => Sys2Proof.Machine.execVcmp a v s
  | .vmerge a v => Sys2Proof.Machine.execVmerge a v s
  | .vslide a v => Sys2Proof.Machine.execVslide a v s
  | .vred a v => Sys2Proof.Machine.execVred a v s
  | .vmop a v => Sys2Proof.Machine.execVmop a v s
  | .vwmul a v => Sys2Proof.Machine.execVwmul a v s
  | .vdot a v => Sys2Proof.Machine.execVdot a v s
  | .vcvt a v => Sys2Proof.Machine.execVcvt a v s
  | .vfdiv a v => Sys2Proof.Machine.execVfdiv a v s
  | .vfsqrt a v => Sys2Proof.Machine.execVfsqrt a v s
  | .veInsnStart core => Sys2Proof.Machine.execVeInsnStart core s
  | .veInsnComplete core found regs => Sys2Proof.Machine.execVeInsnComplete core s found regs
  | .veRetention core => Sys2Proof.Machine.execVeRetention core s
  | .vgWakeWrite a w => Sys2Proof.Machine.execVgWakeWrite a w s
  | .veWakeComplete core => Sys2Proof.Machine.execVeWakeComplete core s
  | .tld a m => Sys2Proof.Machine.execTld a m s
  | .tst a m => Sys2Proof.Machine.execTst a m s
  | .tlds a m => Sys2Proof.Machine.execTlds a m s
  | .tsts a m => Sys2Proof.Machine.execTsts a m s
  | .tzero a m => Sys2Proof.Machine.execTzero a m s
  | .trelease a m => Sys2Proof.Machine.execTrelease a m s
  | .tmma a m => Sys2Proof.Machine.execTmma a m s
  | .tmmas a m => Sys2Proof.Machine.execTmmas a m s
  | .gmv a m => Sys2Proof.Machine.execGmv a m s
  | .tcfgWrite a w => Sys2Proof.Machine.execTcfgWrite a w s
  | .meInsnStart core => Sys2Proof.Machine.execMeInsnStart core s
  | .meInsnComplete core pipe found regs => Sys2Proof.Machine.execMeInsnComplete core pipe s found regs
  | .arrayCold core => Sys2Proof.Machine.execArrayCold core s
  | .tileBankRetention core tile bank => Sys2Proof.Machine.execTileBankRetention core tile bank s
  | .denq a w => Sys2Proof.Machine.execDenq a w s
  | .icinv a w => Sys2Proof.Machine.execIcinv a w s
  | .icinvComplete core => Sys2Proof.Machine.execIcinvComplete core s
  | .icpf a w => Sys2Proof.Machine.execIcpf a w s
  | .icpfExecute core dcc ext flit => Sys2Proof.Machine.execIcpfExecute core s dcc ext flit
  | .descriptorStart core q found => Sys2Proof.Machine.execDescriptorStart core q s found
  | .descriptorChainRead core q found => Sys2Proof.Machine.execDescriptorChainRead core q s found
  | .dmaGranuleResponse core q found ext flit => Sys2Proof.Machine.execDmaGranuleResponse core q found s ext flit
  | .descriptorComplete core q => Sys2Proof.Machine.execDescriptorComplete core q s
  | .dmaSlotFill core q => Sys2Proof.Machine.execDmaSlotFill core q s
  | .dqResume a w => Sys2Proof.Machine.execDqResume a w s
  | .dqFlush a w => Sys2Proof.Machine.execDqFlush a w s
  | .remoteReadArrival target source found flit => Sys2Proof.Machine.execRemoteReadArrival target source s found flit
  | .remoteWriteArrival target source found flit => Sys2Proof.Machine.execRemoteWriteArrival target source s found flit
  | .gateOpen a w => Sys2Proof.Machine.execGateOpen a w s
  | .gateClose a w => Sys2Proof.Machine.execGateClose a w s
  | .gateCloseComplete core gate => Sys2Proof.Machine.execGateCloseComplete core gate s
  | .gateRegWrite a w => Sys2Proof.Machine.execGateRegWrite a w s
  | .requestAged core bank port => Sys2Proof.Machine.execRequestAged core bank port s
  | .meRequestAged core bank => Sys2Proof.Machine.execMeRequestAged core bank s
  | .scrubRead core bank found => Sys2Proof.Machine.execScrubRead core bank found s
  | .scrubAged core bank => Sys2Proof.Machine.execScrubAged core bank s
  | .spmCorrectedWriteback core bank => Sys2Proof.Machine.execSpmCorrectedWriteback core bank s
  | .gridCrossingEnter fromE port vc => Sys2Proof.Machine.execGridCrossingEnter fromE port vc s
  | .bridgeReplay die side channel => Sys2Proof.Machine.execBridgeReplay die side channel s
  | .routerDead die pos => Sys2Proof.Machine.execRouterDead die pos s
  | .laneLossOfLock port lane => Sys2Proof.Machine.execLaneLossOfLock port lane s
  | .laneMarginal port lane symbols => Sys2Proof.Machine.execLaneMarginal port lane symbols s
  | .laneTrainingStep port lane ok far tap more => Sys2Proof.Machine.execLaneTrainingStep port lane ok s far tap more
  | .laneDetectRetry port lane => Sys2Proof.Machine.execLaneDetectRetry port lane s
  | .portTrainingDone port far => Sys2Proof.Machine.execPortTrainingDone port far s
  | .portRetrain port => Sys2Proof.Machine.execPortRetrain port s
  | .retrainTimeout port => Sys2Proof.Machine.execRetrainTimeout port s
  | .txFlitSlot port frac => Sys2Proof.Machine.execTxFlitSlot port s frac
  | .flitReceive port f first second nth => Sys2Proof.Machine.execFlitReceive port f first second s nth
  | .replayTimeout port => Sys2Proof.Machine.execReplayTimeout port s
  | .nakResend port => Sys2Proof.Machine.execNakResend port s
  | .heartbeat port mod peerPort mstate hbseq => Sys2Proof.Machine.execHeartbeat port mod peerPort mstate hbseq s
  | .heartbeatSend port => Sys2Proof.Machine.execHeartbeatSend port s
  | .heartbeatMiss port => Sys2Proof.Machine.execHeartbeatMiss port s
  | .hbWordStale => Sys2Proof.Machine.execHbWordStale s
  | .widthReq port lanes forced => Sys2Proof.Machine.execWidthReq port lanes forced s
  | .widthReqRepeat port => Sys2Proof.Machine.execWidthReqRepeat port s
  | .realign port lanes nth => Sys2Proof.Machine.execRealign port lanes s nth
  | .switch port lanes remain => Sys2Proof.Machine.execSwitch port lanes remain s
  | .widthChangePoint port => Sys2Proof.Machine.execWidthChangePoint port s
  | .write port m found ext flits => Sys2Proof.Machine.execWrite port m s found ext flits
  | .read port m found ext flits => Sys2Proof.Machine.execRead port m s found ext flits
  | .atomic port m found ext flits => Sys2Proof.Machine.execAtomic port m s found ext flits
  | .mirrorWrite port m => Sys2Proof.Machine.execMirrorWrite port m s
  | .reduceFwd port m found ext => Sys2Proof.Machine.execReduceFwd port m s found ext
  | .mgmt port m room => Sys2Proof.Machine.execMgmt port m room s
  | .rdata port m flits => Sys2Proof.Machine.execRdata port m s flits
  | .done port m flits => Sys2Proof.Machine.execDone port m s flits
  | .refused port m flits => Sys2Proof.Machine.execRefused port m s flits
  | .forwardMessage edie arrived m flits => Sys2Proof.Machine.execForwardMessage edie arrived m s flits
  | .requestTimeout port tag => Sys2Proof.Machine.execRequestTimeout port tag s
  | .tagReuseExpiry port tag => Sys2Proof.Machine.execTagReuseExpiry port tag s
  | .reductionRoundComplete ctx line found ext => Sys2Proof.Machine.execReductionRoundComplete ctx line s found ext
  | .roundTimeout ctx line => Sys2Proof.Machine.execRoundTimeout ctx line s
  | .rtGraceExpiry => Sys2Proof.Machine.execRtGraceExpiry s
  | .swapAtTime => Sys2Proof.Machine.execSwapAtTime s
  | .timeSyncExchange port seq => Sys2Proof.Machine.execTimeSyncExchange port seq s
  | .sync port t1 t2 t3 seq => Sys2Proof.Machine.execSync port t1 t2 t3 seq s
  | .delayReq port t4 seq => Sys2Proof.Machine.execDelayReq port t4 seq s
  | .delayResp port t4 seq => Sys2Proof.Machine.execDelayResp port t4 seq s
  | .arrived smod n => Sys2Proof.Machine.execArrived smod n s
  | .save n cores => Sys2Proof.Machine.execSave n s cores
  | .pourBoundary => Sys2Proof.Machine.execPourBoundary s
  | .saved smod n => Sys2Proof.Machine.execSaved smod n s
  | .resume n => Sys2Proof.Machine.execResume n s
  | .tailComplete => Sys2Proof.Machine.execTailComplete s
  | .ready smod n => Sys2Proof.Machine.execReady smod n s
  | .commit n => Sys2Proof.Machine.execCommit n s
  | .partnerCommit n => Sys2Proof.Machine.execPartnerCommit n s
  | .abandon n => Sys2Proof.Machine.execAbandon n s
  | .pourBarrierTimeout => Sys2Proof.Machine.execPourBarrierTimeout s
  | .copyBeforeWrite share ext => Sys2Proof.Machine.execCopyBeforeWrite share s ext
  | .mirrorStreamShare edie ext => Sys2Proof.Machine.execMirrorStreamShare edie s ext
  | .pourOverdue job => Sys2Proof.Machine.execPourOverdue job s
  | .selfFence => Sys2Proof.Machine.execSelfFence s
  | .adoptionStream share addr ext => Sys2Proof.Machine.execAdoptionStream share addr s ext
  | .droopDetect island => Sys2Proof.Machine.execDroopDetect island s
  | .regulatorSample vin iin watts rails => Sys2Proof.Machine.execRegulatorSample vin iin watts rails s
  | .activityEstimate est dyn stat slacks => Sys2Proof.Machine.execActivityEstimate est dyn stat s slacks
  | .innerLoop d => Sys2Proof.Machine.execInnerLoop d s
  | .outerLoop fixed losses => Sys2Proof.Machine.execOuterLoop fixed s losses
  | .estDiverge => Sys2Proof.Machine.execEstDiverge s
  | .calibrationEnd => Sys2Proof.Machine.execCalibrationEnd s
  | .telemStale => Sys2Proof.Machine.execTelemStale s
  | .iccTrip => Sys2Proof.Machine.execIccTrip s
  | .tripLift => Sys2Proof.Machine.execTripLift s
  | .tjSample d tj => Sys2Proof.Machine.execTjSample d tj s
  | .hbmTempReport stack temp => Sys2Proof.Machine.execHbmTempReport stack temp s
  | .freqGlideStep d => Sys2Proof.Machine.execFreqGlideStep d s
  | .ageingReplan sweep slack => Sys2Proof.Machine.execAgeingReplan sweep slack s
  | .hbmPatrolScrub stack addr finding => Sys2Proof.Machine.execHbmPatrolScrub stack addr finding s
  | .pchFail pch => Sys2Proof.Machine.execPchFail pch s
  | .mpHeartbeat toA => Sys2Proof.Machine.execMpHeartbeat toA s
  | .mpLost byB cause => Sys2Proof.Machine.execMpLost byB s cause
  | .hbWordRefresh => Sys2Proof.Machine.execHbWordRefresh s
  | .mailboxDoorbell hi ring reqs regs => Sys2Proof.Machine.execMailboxDoorbell hi ring reqs s regs
  | .resultRead n => Sys2Proof.Machine.execResultRead n s
  | .mgmtTransmit go buf => Sys2Proof.Machine.execMgmtTransmit go buf s
  | .bar2Read x bytes ext => Sys2Proof.Machine.execBar2Read x bytes s ext
  | .bar2Write x data ext => Sys2Proof.Machine.execBar2Write x data s ext
  | .b2baseWrite value => Sys2Proof.Machine.execB2baseWrite value s
  | .mgmtRequest smod mb rid frag nfrag image => Sys2Proof.Machine.execMgmtRequest smod mb rid frag nfrag image s
  | .mgmtResultRead smod mb rid => Sys2Proof.Machine.execMgmtResultRead smod mb rid s
  | .mgmtResult m => Sys2Proof.Machine.execMgmtResult m s
  | .mgmtNotice m => Sys2Proof.Machine.execMgmtNotice m s
  | .fragmentTimeout mb => Sys2Proof.Machine.execFragmentTimeout mb s
  | .bmcMessage kind image packets => Sys2Proof.Machine.execBmcMessage kind image s packets
  | .arbitrationTick => Sys2Proof.Machine.execArbitrationTick s
  | .commandTimeout src => Sys2Proof.Machine.execCommandTimeout src s
  | .devInfo src => Sys2Proof.Machine.execDevInfo src s
  | .health src => Sys2Proof.Machine.execHealth src s
  | .jobLoad src r => Sys2Proof.Machine.execJobLoad src r s
  | .jobStart src job resume => Sys2Proof.Machine.execJobStart src job resume s
  | .jobKill src job => Sys2Proof.Machine.execJobKill src job s
  | .quarantineInForce job => Sys2Proof.Machine.execQuarantineInForce job s
  | .capture job cores => Sys2Proof.Machine.execCapture job s cores
  | .jobStatus src job => Sys2Proof.Machine.execJobStatus src job s
  | .cfgGet src block copy clr offset words => Sys2Proof.Machine.execCfgGet src block copy clr offset words s
  | .cfgWriteShadow src block copy offset data => Sys2Proof.Machine.execCfgWriteShadow src block copy offset data s
  | .cfgSwap src => Sys2Proof.Machine.execCfgSwap src s
  | .cfgSwapAt src t => Sys2Proof.Machine.execCfgSwapAt src t s
  | .cfgSwapCancel src => Sys2Proof.Machine.execCfgSwapCancel src s
  | .powerCap src cap window => Sys2Proof.Machine.execPowerCap src cap window s
  | .clockMode src value mask => Sys2Proof.Machine.execClockMode src value mask s
  | .phaseTableRead src die ndie => Sys2Proof.Machine.execPhaseTableRead src die ndie s
  | .phaseTableLoad src job die ndie data => Sys2Proof.Machine.execPhaseTableLoad src job die ndie data s
  | .phaseTableClear src die => Sys2Proof.Machine.execPhaseTableClear src die s
  | .flaskBind src partner c u peer => Sys2Proof.Machine.execFlaskBind src partner c u peer s
  | .flaskBindKeep src partner c u peer => Sys2Proof.Machine.execFlaskBindKeep src partner c u peer s
  | .flaskUnbind src => Sys2Proof.Machine.execFlaskUnbind src s
  | .pourPolicyDeclare src job p => Sys2Proof.Machine.execPourPolicyDeclare src job p s
  | .pourPolicyQuery src job => Sys2Proof.Machine.execPourPolicyQuery src job s
  | .rollback src job others => Sys2Proof.Machine.execRollback src job s others
  | .remap src job cores => Sys2Proof.Machine.execRemap src job cores s
  | .pourNow src job => Sys2Proof.Machine.execPourNow src job s
  | .failoverAdopt src job x p rp xCode => Sys2Proof.Machine.execFailoverAdopt src job x p rp xCode s
  | .mirrorStatus src => Sys2Proof.Machine.execMirrorStatus src s
  | .portDisable src port => Sys2Proof.Machine.execPortDisable src port s
  | .portEnable src port => Sys2Proof.Machine.execPortEnable src port s
  | .portCtlRetrain src port => Sys2Proof.Machine.execPortCtlRetrain src port s
  | .portSetLaneen src port readmit value => Sys2Proof.Machine.execPortSetLaneen src port readmit value s
  | .portSetTxpre src port value => Sys2Proof.Machine.execPortSetTxpre src port value s
  | .portSetMshare src port value => Sys2Proof.Machine.execPortSetMshare src port value s
  | .routeTableWrite src first groups => Sys2Proof.Machine.execRouteTableWrite src first groups s
  | .routeTableQuery src dmod => Sys2Proof.Machine.execRouteTableQuery src dmod s
  | .coreRetire src die prow pcol node => Sys2Proof.Machine.execCoreRetire src die prow pcol node s
  | .coreReadmit src die prow pcol node => Sys2Proof.Machine.execCoreReadmit src die prow pcol node s
  | .rowRepairList src target start => Sys2Proof.Machine.execRowRepairList src target start s
  | .rowRepairAdd src e => Sys2Proof.Machine.execRowRepairAdd src e s
  | .rowRepairClear src e => Sys2Proof.Machine.execRowRepairClear src e s
  | .errLog src start count minsev clear => Sys2Proof.Machine.execErrLog src start count minsev clear s
  | .diagRun src test target passed => Sys2Proof.Machine.execDiagRun src test target passed s
  | .lifecycleQuery src => Sys2Proof.Machine.execLifecycleQuery src s
  | .deploy src key => Sys2Proof.Machine.execDeploy src key s
  | .lifecycleChallenge src purpose => Sys2Proof.Machine.execLifecycleChallenge src purpose s
  | .respond src purpose auths => Sys2Proof.Machine.execRespond src purpose auths s
  | .challengeExpiry => Sys2Proof.Machine.execChallengeExpiry s
  | .relock src => Sys2Proof.Machine.execRelock src s
  | .fwQuery src => Sys2Proof.Machine.execFwQuery src s
  | .fwStage src image => Sys2Proof.Machine.execFwStage src image s
  | .fwChunk src offset data => Sys2Proof.Machine.execFwChunk src offset data s
  | .fwVerify src => Sys2Proof.Machine.execFwVerify src s
  | .fwActivate src immediate => Sys2Proof.Machine.execFwActivate src immediate s
  | .fwAbort src => Sys2Proof.Machine.execFwAbort src s
  | .fwCommit src => Sys2Proof.Machine.execFwCommit src s
  | .delayedReset fails => Sys2Proof.Machine.execDelayedReset s fails
  | .debugHalt src core threads attach => Sys2Proof.Machine.execDebugHalt src core threads attach s
  | .debugResume src core threads attach => Sys2Proof.Machine.execDebugResume src core threads attach s
  | .debugRead src space id addr bytes found regs => Sys2Proof.Machine.execDebugRead src space id addr bytes s found regs
  | .debugWrite src space id addr data => Sys2Proof.Machine.execDebugWrite src space id addr data s
  | .fettleJob src job => Sys2Proof.Machine.execFettleJob src job s
  | .fettleAllHbm src => Sys2Proof.Machine.execFettleAllHbm src s
  | .fettleModule src => Sys2Proof.Machine.execFettleModule src s
  | .fettleDone failed => Sys2Proof.Machine.execFettleDone failed s
  | .timeSync src role pport mask asym time => Sys2Proof.Machine.execTimeSync src role pport mask asym time s
  | .getVersion tr discover => Sys2Proof.Machine.execGetVersion tr s discover
  | .getCapabilities tr => Sys2Proof.Machine.execGetCapabilities tr s
  | .negotiateAlgorithms tr p384 sha384 => Sys2Proof.Machine.execNegotiateAlgorithms tr p384 sha384 s
  | .getDigests tr => Sys2Proof.Machine.execGetDigests tr s
  | .getCertificate tr slot offset length chunk => Sys2Proof.Machine.execGetCertificate tr slot offset length s chunk
  | .spdmChallenge tr slot nonce => Sys2Proof.Machine.execSpdmChallenge tr slot nonce s
  | .getMeasurements tr index sign nonce chunk => Sys2Proof.Machine.execGetMeasurements tr index sign nonce s chunk
  | .queryDeviceIdentifiers => Sys2Proof.Machine.execQueryDeviceIdentifiers s
  | .getFirmwareParameters => Sys2Proof.Machine.execGetFirmwareParameters s
  | .requestUpdate maxTransfer => Sys2Proof.Machine.execRequestUpdate maxTransfer s
  | .passComponentTable component => Sys2Proof.Machine.execPassComponentTable component s
  | .updateComponent component size => Sys2Proof.Machine.execUpdateComponent component size s
  | .requestFirmwareData offset data => Sys2Proof.Machine.execRequestFirmwareData offset data s
  | .transferComplete => Sys2Proof.Machine.execTransferComplete s
  | .verifyComplete => Sys2Proof.Machine.execVerifyComplete s
  | .applyComplete => Sys2Proof.Machine.execApplyComplete s
  | .activateFirmware => Sys2Proof.Machine.execActivateFirmware s
  | .getStatus => Sys2Proof.Machine.execGetStatus s
  | .cancelUpdate => Sys2Proof.Machine.execCancelUpdate s
  | .getPdr record => Sys2Proof.Machine.execGetPdr record s
  | .getPdrRepositoryInfo => Sys2Proof.Machine.execGetPdrRepositoryInfo s
  | .getSensorReading sensor => Sys2Proof.Machine.execGetSensorReading sensor s
  | .getStateSensorReadings sensor => Sys2Proof.Machine.execGetStateSensorReadings sensor s
  | .setNumericSensorEnable sensor enable => Sys2Proof.Machine.execSetNumericSensorEnable sensor enable s
  | .setEventReceiver receiver => Sys2Proof.Machine.execSetEventReceiver receiver s
  | .pollForPlatformEventMessage => Sys2Proof.Machine.execPollForPlatformEventMessage s
  | .breakpointMatch a => Sys2Proof.Machine.execBreakpointMatch a s
  | .watchpointMatch a addr bytes store => Sys2Proof.Machine.execWatchpointMatch a addr bytes store s
  | .singleStep a => Sys2Proof.Machine.execSingleStep a s
  | .crossTrigger core => Sys2Proof.Machine.execCrossTrigger core s
  | .traceEntryWrite core found => Sys2Proof.Machine.execTraceEntryWrite core s found
  | .traceSync core => Sys2Proof.Machine.execTraceSync core s
  | .bypass => Sys2Proof.Machine.execBypass s
  | .idcode => Sys2Proof.Machine.execIdcode s
  | .samplePreload pins load => Sys2Proof.Machine.execSamplePreload pins load s
  | .extest => Sys2Proof.Machine.execExtest s
  | .clamp => Sys2Proof.Machine.execClamp s
  | .highz => Sys2Proof.Machine.execHighz s
  | .tapPrivate code => Sys2Proof.Machine.execTapPrivate code s
  | .tapReset => Sys2Proof.Machine.execTapReset s
  | .powerOnReset cut => Sys2Proof.Machine.execPowerOnReset s cut
  | .moduleReset widthNs cut => Sys2Proof.Machine.execModuleReset widthNs s cut
  | .resetRelease bmcsel mid fails => Sys2Proof.Machine.execResetRelease bmcsel mid s fails
  | .hostInterfaceReset hi pin => Sys2Proof.Machine.execHostInterfaceReset hi pin s
  | .hiTrainingStart hi => Sys2Proof.Machine.execHiTrainingStart hi s
  | .bootImageVerify mpB => Sys2Proof.Machine.execBootImageVerify mpB s
  | .firmwareStart mpB => Sys2Proof.Machine.execFirmwareStart mpB s
  | .configRestore hbmFail lost => Sys2Proof.Machine.execConfigRestore hbmFail s lost
  | .selfTest failed => Sys2Proof.Machine.execSelfTest failed s
  | .bringupPortTrain => Sys2Proof.Machine.execBringupPortTrain s
  | .bringupReady => Sys2Proof.Machine.execBringupReady s
  | .fwWatchdog mpB => Sys2Proof.Machine.execFwWatchdog mpB s
  | .supplyLow => Sys2Proof.Machine.execSupplyLow s
  | .overvoltageCut => Sys2Proof.Machine.execOvervoltageCut s
  | .hotswapReclose => Sys2Proof.Machine.execHotswapReclose s
  | .hotswapChargeDone fails => Sys2Proof.Machine.execHotswapChargeDone s fails
  | .refclkLoss => Sys2Proof.Machine.execRefclkLoss s
  | .cablePresenceChange conn present => Sys2Proof.Machine.execCablePresenceChange conn present s
  | .vcblOn conn => Sys2Proof.Machine.execVcblOn conn s
  | .vcblOvercurrent conn => Sys2Proof.Machine.execVcblOvercurrent conn s
  | .coordinatorRepeat => Sys2Proof.Machine.execCoordinatorRepeat s
  | .droopEnd island => Sys2Proof.Machine.execDroopEnd island s

end Sys2Proof.Machine
end

