-- ==== Sys2Proof/WellFormed.lean ====
section
/-! DEFINITION. Which terms of `Instr` are commands that can be spelt: an instruction has no bits beyond its length, a message
has whole data units, a request fits its mailbox, a list has the length its table fixes. The meanings are total on every
term; this says which of them the hardware can be given. -/

namespace Sys2Proof

/-- An instruction of one word has no word 1, one of two words no word 2 (R69). A length code of 3 is no instruction's. -/
def SeWord.wf (w : SeWord) : Bool :=
  if w.len = 2 then true else if w.len = 1 then decide (w.ext.toNat < 2 ^ 32) else decide (w.ext = 0)

/-- A VE instruction of one word has no word 1. -/
def VeWord.wf (v : VeWord) : Bool := v.len != 0 || decide (v.ext = 0)

/-- An ME instruction has the words its length gives it. -/
def MeWord.wf (m : MeWord) : Bool :=
  if m.len = 2 then true else if m.len = 1 then decide (m.w2 = 0) else decide (m.w1 = 0 ∧ m.w2 = 0)

/-- A flit holds 15 units (R325). -/
def Flit.wf (f : Flit) : Bool := decide (f.units.length = 15)

/-- A message has 0 to 16 whole data units (Table 11-8). -/
def LinkMsg.wf (m : LinkMsg) : Bool := decide (m.data.length % 16 = 0 ∧ m.data.length ≤ 256)

/-- The payload a mailbox can hold after the 64-B header of its 4,096 B (Table 15-5). -/
def payloadBytes : Nat := 4032

/-- A list of `n` bytes after `k` bytes of arguments fits a payload. -/
def fits (k n : Nat) : Bool := decide (k + n ≤ payloadBytes)

def MbRequest.wf (r : MbRequest) : Bool := fits 0 r.payload.length

/-- A JOB_LOAD request names 0 to 16 windows (Table 15-13). -/
def JobLoadReq.wf (r : JobLoadReq) : Bool := decide (r.wins.length ≤ 16)

/-- A declaration has at most 16 regions and 4 preserved ranges of scratchpad (Table 15-12). -/
def PourDecl.wf (p : PourDecl) : Bool := decide (p.regions.length ≤ 16 ∧ p.spm.length ≤ 4)

/-- A position of a C-die: 17 rows of 16 columns (chapter 10). -/
def CorePos.wf (p : CorePos) : Bool := decide (p.prow.toNat ≤ 16)

/-- A command that the hardware can be given. [DESIGN CHOICE: log entry 4] -/
def Instr.wellFormed (i : Instr) : Bool :=
  match i with
  | .nop _ w _ => w.wf
  | .mov _ w => w.wf
  | .add _ w => w.wf
  | .sub _ w => w.wf
  | .and_ _ w => w.wf
  | .or_ _ w => w.wf
  | .xor_ _ w => w.wf
  | .shl _ w => w.wf
  | .shr _ w => w.wf
  | .min_ _ w => w.wf
  | .max_ _ w => w.wf
  | .zext _ w => w.wf
  | .sext _ w => w.wf
  | .slt _ w => w.wf
  | .seq _ w => w.wf
  | .clz _ w => w.wf
  | .popc _ w => w.wf
  | .mul _ w => w.wf
  | .mulResultWrite _ => true
  | .div _ w => w.wf
  | .fsqrt _ w => w.wf
  | .divResultWrite _ => true
  | .fadd _ w => w.wf
  | .fsub _ w => w.wf
  | .fmul _ w => w.wf
  | .fma _ w => w.wf
  | .fmin _ w => w.wf
  | .fmax _ w => w.wf
  | .fcmp _ w => w.wf
  | .fcvti _ w => w.wf
  | .icvtf _ w => w.wf
  | .fpResultWrite _ => true
  | .jmp _ w => w.wf
  | .b _ w => w.wf
  | .bu _ w => w.wf
  | .call _ w => w.wf
  | .loop _ w => w.wf
  | .lbreak _ w => w.wf
  | .csrr _ w => w.wf
  | .csrw _ w => w.wf
  | .cycleLoRead _ w => w.wf
  | .timeLoRead _ w => w.wf
  | .ldepthWrite _ w => w.wf
  | .ldAcq _ _ w => w.wf
  | .stRel _ _ w => w.wf
  | .fence _ w => w.wf
  | .fenceComplete _ => true
  | .etok _ w => w.wf
  | .tokenMarkerPass _ _ _ => true
  | .ewait _ w => w.wf
  | .waitMarkerRelease _ _ _ => true
  | .trackerEntryFree _ _ => true
  | .xld _ w => w.wf
  | .xldResponse _ _ => true
  | .xst _ w => w.wf
  | .xstAck _ _ _ => true
  | .remoteTimeout _ _ => true
  | .sld _ w => w.wf
  | .sst _ w => w.wf
  | .tagWaitComplete _ _ => true
  | .tagDataMove _ _ _ => true
  | .tagTimeout _ => true
  | .remoteTagArrival _ _ _ => true
  | .withdrawalArrival _ _ _ => true
  | .remoteTagResponse _ _ => true
  | .tagRetryResend _ => true
  | .thset _ w => w.wf
  | .thgo _ w => w.wf
  | .thstop _ w => w.wf
  | .thstopComplete _ _ => true
  | .thend _ w => w.wf
  | .rsend _ w => w.wf
  | .rsend4 _ w => w.wf
  | .rrecv _ w => w.wf
  | .runnerWaitComplete _ _ _ _ => true
  | .rnctlWrite _ w => w.wf
  | .runnerFlush _ w => w.wf
  | .setev _ w => w.wf
  | .waitev _ w => w.wf
  | .eventWaitComplete _ _ => true
  | .clrev _ w => w.wf
  | .evtmrCntWrite _ w => w.wf
  | .eventTimerExpiry _ => true
  | .allThreadsWaiting _ => true
  | .eret _ w => w.wf
  | .brk _ w => w.wf
  | .impreciseExcDelivery _ => true
  | .pour _ w => w.wf
  | .coreArrive _ => true
  | .cvctlWrite _ w => w.wf
  | .cvseedWrite _ w => w.wf
  | .cvrmaxRcRead _ w => w.wf
  | .cvsatRead _ w => w.wf
  | .icLineFill _ _ _ _ _ => true
  | .icParityError _ _ _ _ _ => true
  | .icErrWindow _ => true
  | .dccTakeOffer _ => true
  | .vld _ v => v.wf
  | .vst _ v => v.wf
  | .vldsr _ v => v.wf
  | .vstsr _ v => v.wf
  | .vlds2 _ v => v.wf
  | .vlds3 _ v => v.wf
  | .vlds4 _ v => v.wf
  | .vsts2 _ v => v.wf
  | .vsts3 _ v => v.wf
  | .vsts4 _ v => v.wf
  | .vmld _ v => v.wf
  | .vmst _ v => v.wf
  | .vbcast _ v => v.wf
  | .vext _ v => v.wf
  | .vmovi _ v => v.wf
  | .vadd _ v => v.wf
  | .vsub _ v => v.wf
  | .vmul _ v => v.wf
  | .vfma _ v => v.wf
  | .vmin _ v => v.wf
  | .vmax _ v => v.wf
  | .vbit _ v => v.wf
  | .vcmp _ v => v.wf
  | .vmerge _ v => v.wf
  | .vslide _ v => v.wf
  | .vred _ v => v.wf
  | .vmop _ v => v.wf
  | .vwmul _ v => v.wf
  | .vdot _ v => v.wf
  | .vcvt _ v => v.wf
  | .vfdiv _ v => v.wf
  | .vfsqrt _ v => v.wf
  | .veInsnStart _ => true
  | .veInsnComplete _ _ _ => true
  | .veRetention _ => true
  | .vgWakeWrite _ w => w.wf
  | .veWakeComplete _ => true
  | .tld _ m => m.wf
  | .tst _ m => m.wf
  | .tlds _ m => m.wf
  | .tsts _ m => m.wf
  | .tzero _ m => m.wf
  | .trelease _ m => m.wf
  | .tmma _ m => m.wf
  | .tmmas _ m => m.wf
  | .gmv _ m => m.wf
  | .tcfgWrite _ w => w.wf
  | .meInsnStart _ => true
  | .meInsnComplete _ _ _ _ => true
  | .arrayCold _ => true
  | .tileBankRetention _ _ _ => true
  | .denq _ w => w.wf
  | .icinv _ w => w.wf
  | .icinvComplete _ => true
  | .icpf _ w => w.wf
  | .icpfExecute _ _ _ _ => true
  | .descriptorStart _ _ _ => true
  | .descriptorChainRead _ _ _ => true
  | .dmaGranuleResponse _ _ _ _ _ => true
  | .descriptorComplete _ _ => true
  | .dmaSlotFill _ _ => true
  | .dqResume _ w => w.wf
  | .dqFlush _ w => w.wf
  | .remoteReadArrival _ _ _ _ => true
  | .remoteWriteArrival _ _ _ _ => true
  | .gateOpen _ w => w.wf
  | .gateClose _ w => w.wf
  | .gateCloseComplete _ _ => true
  | .gateRegWrite _ w => w.wf
  | .requestAged _ _ _ => true
  | .meRequestAged _ _ => true
  | .scrubRead _ _ found => decide (found.length ≤ 8)
  | .scrubAged _ _ => true
  | .spmCorrectedWriteback _ _ => true
  | .gridCrossingEnter _ _ _ => true
  | .bridgeReplay _ _ _ => true
  | .routerDead _ _ => true
  | .laneLossOfLock _ _ => true
  | .laneMarginal _ _ _ => true
  | .laneTrainingStep _ _ _ _ _ _ => true
  | .laneDetectRetry _ _ => true
  | .portTrainingDone _ _ => true
  | .portRetrain _ => true
  | .retrainTimeout _ => true
  | .txFlitSlot _ _ => true
  | .flitReceive _ f _ _ _ => f.wf
  | .replayTimeout _ => true
  | .nakResend _ => true
  | .heartbeat _ _ _ _ _ => true
  | .heartbeatSend _ => true
  | .heartbeatMiss _ => true
  | .hbWordStale => true
  | .widthReq _ _ _ => true
  | .widthReqRepeat _ => true
  | .realign _ _ _ => true
  | .switch _ _ _ => true
  | .widthChangePoint _ => true
  | .write _ m _ _ _ => m.wf
  | .read _ m _ _ _ => m.wf
  | .atomic _ m _ _ _ => m.wf
  | .mirrorWrite _ m => m.wf
  | .reduceFwd _ m _ _ => m.wf
  | .mgmt _ m _ => m.wf
  | .rdata _ m _ => m.wf
  | .done _ m _ => m.wf
  | .refused _ m _ => m.wf
  | .forwardMessage _ _ m _ => m.wf
  | .requestTimeout _ _ => true
  | .tagReuseExpiry _ _ => true
  | .reductionRoundComplete _ _ _ _ => true
  | .roundTimeout _ _ => true
  | .rtGraceExpiry => true
  | .swapAtTime => true
  | .timeSyncExchange _ _ => true
  | .sync _ _ _ _ _ => true
  | .delayReq _ _ _ => true
  | .delayResp _ _ _ => true
  | .arrived _ _ => true
  | .save _ _ => true
  | .pourBoundary => true
  | .saved _ _ => true
  | .resume _ => true
  | .tailComplete => true
  | .ready _ _ => true
  | .commit _ => true
  | .partnerCommit _ => true
  | .abandon _ => true
  | .pourBarrierTimeout => true
  | .copyBeforeWrite _ _ => true
  | .mirrorStreamShare _ _ => true
  | .pourOverdue _ => true
  | .selfFence => true
  | .adoptionStream _ _ _ => true
  | .droopDetect _ => true
  | .regulatorSample _ _ _ rails => decide (rails.length ≤ 40)
  | .activityEstimate est dyn stat slacks =>
    decide (est.length = 40 ∧ dyn.length = 40 ∧ stat.length = 40) && slacks.all (fun x => decide (x.island < 8768))
  | .innerLoop _ => true
  | .outerLoop _ _ => true
  | .estDiverge => true
  | .calibrationEnd => true
  | .telemStale => true
  | .iccTrip => true
  | .tripLift => true
  | .tjSample _ _ => true
  | .hbmTempReport _ _ => true
  | .freqGlideStep _ => true
  | .ageingReplan _ slack => slack.all (fun x => decide (x.island < 8768))
  | .hbmPatrolScrub _ _ _ => true
  | .pchFail _ => true
  | .mpHeartbeat _ => true
  | .mpLost _ _ => true
  | .hbWordRefresh => true
  | .mailboxDoorbell _ _ reqs _ => reqs.all MbRequest.wf
  | .resultRead _ => true
  | .mgmtTransmit _ buf => decide (buf.length ≤ 272)
  | .bar2Read _ bytes _ => decide (0 < bytes)
  | .bar2Write _ data _ => decide (0 < data.length)
  | .b2baseWrite _ => true
  | .mgmtRequest _ _ _ _ _ image => decide (image.length ≤ 256)
  | .mgmtResultRead _ _ _ => true
  | .mgmtResult m => m.wf
  | .mgmtNotice m => m.wf
  | .fragmentTimeout _ => true
  | .bmcMessage _ _ packets => packets.all (fun p => decide (p.length ≤ 64))
  | .arbitrationTick => true
  | .commandTimeout _ => true
  | .devInfo _ => true
  | .health _ => true
  | .jobLoad _ r => r.wf
  | .jobStart _ _ _ => true
  | .jobKill _ _ => true
  | .quarantineInForce _ => true
  | .capture _ _ => true
  | .jobStatus _ _ => true
  | .cfgGet _ _ _ _ _ _ => true
  | .cfgWriteShadow _ _ _ _ data => fits 24 (4 * data.length)
  | .cfgSwap _ => true
  | .cfgSwapAt _ _ => true
  | .cfgSwapCancel _ => true
  | .powerCap _ _ _ => true
  | .clockMode _ _ _ => true
  | .phaseTableRead _ _ _ => true
  | .phaseTableLoad _ _ _ _ data => fits 12 data.length
  | .phaseTableClear _ _ => true
  | .flaskBind _ _ _ _ _ => true
  | .flaskBindKeep _ _ _ _ _ => true
  | .flaskUnbind _ => true
  | .pourPolicyDeclare _ _ p => p.wf
  | .pourPolicyQuery _ _ => true
  | .rollback _ _ _ => true
  | .remap _ _ cores => fits 4 (4 * cores.length)
  | .pourNow _ _ => true
  | .failoverAdopt _ _ _ _ _ _ => true
  | .mirrorStatus _ => true
  | .portDisable _ _ => true
  | .portEnable _ _ => true
  | .portCtlRetrain _ _ => true
  | .portSetLaneen _ _ _ _ => true
  | .portSetTxpre _ _ _ => true
  | .portSetMshare _ _ _ => true
  | .routeTableWrite _ _ groups => fits 12 (16 * groups.length)
  | .routeTableQuery _ _ => true
  | .coreRetire _ _ _ _ _ => true
  | .coreReadmit _ _ _ _ _ => true
  | .rowRepairList _ _ _ => true
  | .rowRepairAdd _ _ => true
  | .rowRepairClear _ _ => true
  | .errLog _ _ _ _ _ => true
  | .diagRun _ _ _ _ => true
  | .lifecycleQuery _ => true
  | .deploy _ _ => true
  | .lifecycleChallenge _ _ => true
  | .respond _ _ auths => fits 12 (200 * auths.length)
  | .challengeExpiry => true
  | .relock _ => true
  | .fwQuery _ => true
  | .fwStage _ _ => true
  | .fwChunk _ _ data => fits 16 data.length
  | .fwVerify _ => true
  | .fwActivate _ _ => true
  | .fwAbort _ => true
  | .fwCommit _ => true
  | .delayedReset _ => true
  | .debugHalt _ _ _ _ => true
  | .debugResume _ _ _ _ => true
  | .debugRead _ _ _ _ _ _ _ => true
  | .debugWrite _ _ _ _ data => fits 16 data.length
  | .fettleJob _ _ => true
  | .fettleAllHbm _ => true
  | .fettleModule _ => true
  | .fettleDone failed => failed.all CorePos.wf
  | .timeSync _ _ _ _ asym _ => decide (asym.length = 48)
  | .getVersion _ _ => true
  | .getCapabilities _ => true
  | .negotiateAlgorithms _ _ _ => true
  | .getDigests _ => true
  | .getCertificate _ _ _ _ _ => true
  | .spdmChallenge _ _ _ => true
  | .getMeasurements _ _ _ _ _ => true
  | .queryDeviceIdentifiers => true
  | .getFirmwareParameters => true
  | .requestUpdate _ => true
  | .passComponentTable _ => true
  | .updateComponent _ _ => true
  | .requestFirmwareData _ data => decide (data.length ≤ 1024)
  | .transferComplete => true
  | .verifyComplete => true
  | .applyComplete => true
  | .activateFirmware => true
  | .getStatus => true
  | .cancelUpdate => true
  | .getPdr _ => true
  | .getPdrRepositoryInfo => true
  | .getSensorReading _ => true
  | .getStateSensorReadings _ => true
  | .setNumericSensorEnable _ _ => true
  | .setEventReceiver _ => true
  | .pollForPlatformEventMessage => true
  | .breakpointMatch _ => true
  | .watchpointMatch _ _ bytes _ => decide (0 < bytes)
  | .singleStep _ => true
  | .crossTrigger _ => true
  | .traceEntryWrite _ _ => true
  | .traceSync _ => true
  | .bypass => true
  | .idcode => true
  | .samplePreload _ _ => true
  | .extest => true
  | .clamp => true
  | .highz => true
  | .tapPrivate _ => true
  | .tapReset => true
  | .powerOnReset _ => true
  | .moduleReset _ _ => true
  | .resetRelease _ _ _ => true
  | .hostInterfaceReset _ _ => true
  | .hiTrainingStart _ => true
  | .bootImageVerify _ => true
  | .firmwareStart _ => true
  | .configRestore _ _ => true
  | .selfTest failed => failed.all CorePos.wf
  | .bringupPortTrain => true
  | .bringupReady => true
  | .fwWatchdog _ => true
  | .supplyLow => true
  | .overvoltageCut => true
  | .hotswapReclose => true
  | .hotswapChargeDone _ => true
  | .refclkLoss => true
  | .cablePresenceChange _ _ => true
  | .vcblOn _ => true
  | .vcblOvercurrent _ => true
  | .coordinatorRepeat => true
  | .droopEnd _ => true

end Sys2Proof
end

