-- ==== Sys2Proof/Machine/Step.lean ====
section
/-! DEFINITION. One step of the block: the command at the front of its queue. -/

namespace Sys2Proof.Machine

/-- One step. On an empty queue nothing is commanded and the time base counts one nanosecond (R375; DESIGN CHOICE: that an idle
step is one nanosecond). [DESIGN CHOICE: log entries 1, 2, 4, 6] -/
def step (s : State) : Host.Outcome State Fault Refusal :=
  match s.pending with
  | [] => .next { s with now := s.now + 1 }
  | c :: cs => exec c { s with pending := cs }

/-- The state with the command that a word spells in front of its queue. [DESIGN CHOICE: log entry 2] -/
def State.withFetchWord (s : State) (nbits w : Nat) : State :=
  match decodeTableWord nbits w with
  | some c => { s with pending := c :: s.pending }
  | none => s

end Sys2Proof.Machine
end

