-- ==== Sys2Proof/Safety.lean ====
section
/-! DEFINITION. What counts as a safe state and a safe run, and the words that statements about the block share: the core as
its step finds it, the state after the step of one core, and when an instruction of the SE issues and completes without an
exception of its operands. -/

namespace Sys2Proof.Machine

/-! ### Canonical form -/

/-- Every memory of a core is in canonical form. -/
def Core.canonical (c : Core) : Bool :=
  c.spm.mem.wf && c.ve.v.wf && c.me.tiles.wf && c.me.side.wf

/-- Every memory of the block is in canonical form, so that equal memories are equal data. -/
def State.canonical (s : State) : Bool := s.hbm.mem.wf && s.cores.all (fun x => x.2.canonical)

/-! ### One core -/

/-- A core as a command finds it: what it last told the module has been taken. -/
def State.at (s : State) (id : CoreId) : Core := { s.core id with out := Outbox.empty }

/-- The state after a step of one core that leaves it as `d`. -/
def State.after (s : State) (id : CoreId) (d : Core) : State :=
  { s with fresh := s.fresh + 1, cores := tset s.cores id.toNat d }

/-- The module has the core, none of its threads has been asked to halt, and it has not finished: a step of one of its units is that
unit's effect alone. -/
def State.quiet (s : State) (id : CoreId) : Bool :=
  s.assigned id && (s.core id).allTh (fun h => decide (h.haltAsked = 0)) && !(s.core id).finished && !(s.core id).ended

/-- The core is quiet, and no request of its near port has waited for rank 1 at a bank. What the grant of an aged request does is said
of its own (R199). -/
def State.calm (s : State) (id : CoreId) : Bool := s.quiet id && !(s.core id).spm.marked .near

/-- The operands of the instruction with words `w` at form `f` that a thread is about to issue. -/
def State.ops (s : State) (a : Site) (f : Form) (w : SeWord) : Operands := operands f w ((s.at a.core).th a.thread).r

/-- The value of an operand, as the instruction finds it. -/
def State.val (s : State) (a : Site) (o : Operand) : Nat := o.value (s.at a.core) a.thread

/-- The thread is the one that issues on its core, which is calm, and every word of an instruction of this length lies in the code
region (R99, R100, R283). -/
def State.turnOf (s : State) (a : Site) (len : BitVec 2) : Bool :=
  let c := s.at a.core
  s.calm a.core && c.mayIssue (s.env a.core) a.thread && (c.fetchFault a.thread len).isNone

/-- The thread may issue an instruction of this form with these words, and none of its operands raises an exception: it is the
thread that issues, the encoding is legal (R71), no watchpoint matches (R523), no interlock and no entry of the tracker holds it
back (Table 3-10, R237), and every scratchpad operand is aligned, in bounds and not poison (R67, R68, R203). No check of a
scratchpad word fails on the way; what one that fails does is said of its own (R202, R203). -/
def State.issues (s : State) (a : Site) (f : Form) (w : SeWord) : Bool :=
  let c := s.at a.core
  let o := s.ops a f w
  s.turnOf a w.len && legal f w && !o.watched c a.thread && a.found.isEmpty &&
    noInterlock c a.thread f w o && tracked c a.thread o.ranges o.entries && (o.excs (s.env a.core) c).isEmpty

/-- The core after the thread has taken the issue of one instruction: the issue number, the rotation, the single-step count
and what a breakpoint does to the trace. -/
def State.issuedCore (s : State) (a : Site) : Core := (s.at a.core).issued (s.env a.core) a.thread

end Sys2Proof.Machine
end

