-- ==== Sys2Proof/Certificates/Slice0/Obligations.lean ====
section
/-! DEFINITION. The statements about the block, one `def Obligations.<Name> : Prop` each, and the words they are written in. -/

open Sys2Proof Sys2Proof.Machine

/-! ### Integer instructions of the SE -/

namespace Sys2Proof.Rules

/-- The integer instructions of Table 3-8 that write d from a and b, with their site, their words and their form. -/
def alu : Instr → Option (Site × SeWord × Form)
  | .mov a w => some (a, w, formOf (anyTy w) (w.mod == 0) useDst useSrc unused)
  | .add a w => some (a, w, form3 w 1)
  | .sub a w => some (a, w, form3 w 1)
  | .and_ a w => some (a, w, form3 w 1)
  | .or_ a w => some (a, w, form3 w 1)
  | .xor_ a w => some (a, w, form3 w 1)
  | .shl a w => some (a, w, form3 w 1)
  | .shr a w => some (a, w, form3 w 2)
  | .min_ a w => some (a, w, form3 w 2)
  | .max_ a w => some (a, w, form3 w 2)
  | .zext a w => some (a, w, formExt w)
  | .sext a w => some (a, w, formExt w)
  | .slt a w => some (a, w, form3 w 2)
  | .seq a w => some (a, w, form3 w 1)
  | .clz a w => some (a, w, form2 w)
  | .popc a w => some (a, w, form2 w)
  | _ => none

/-- What Table 3-8 says of the result `v` of `n` bits, for the values `x` of a and `y` of b. -/
abbrev AluResult (i : Instr) (n x y v : Nat) : Prop :=
  match i with
  | .mov _ _ => v = x
  | .add _ _ => v < 2 ^ n ∧ v ≡ x + y [MOD 2 ^ n]
  | .sub _ _ => v < 2 ^ n ∧ v + y ≡ x [MOD 2 ^ n]
  | .and_ _ _ => ∀ k, v.testBit k = (x.testBit k && y.testBit k)
  | .or_ _ _ => ∀ k, v.testBit k = (x.testBit k || y.testBit k)
  | .xor_ _ _ => ∀ k, v.testBit k = (x.testBit k != y.testBit k)
  | .shl _ _ => ∀ k, v.testBit k = (decide (k < n) && decide (y % n ≤ k) && x.testBit (k - y % n))
  | .shr _ w => if w.mod.getLsbD 0 then v < 2 ^ n ∧ signed n v = signed n x / 2 ^ (y % n) else v = x / 2 ^ (y % n)
  | .min_ _ w => (v = x ∨ v = y) ∧
      if w.mod.getLsbD 0 then signed n v ≤ signed n x ∧ signed n v ≤ signed n y else v ≤ x ∧ v ≤ y
  | .max_ _ w => (v = x ∨ v = y) ∧
      if w.mod.getLsbD 0 then signed n x ≤ signed n v ∧ signed n y ≤ signed n v else x ≤ v ∧ y ≤ v
  | .zext _ _ => v = x
  | .sext _ w => v < 2 ^ n ∧ signed n v = signed (8 * 2 ^ w.mod.toNat) x
  | .slt _ w => v = if (if w.mod.getLsbD 0 then signed n x < signed n y else x < y) then 1 else 0
  | .seq _ _ => v = if x = y then 1 else 0
  | .clz _ _ => v ≤ n ∧ x < 2 ^ (n - v) ∧ (v < n → 2 ^ (n - v - 1) ≤ x)
  | .popc _ _ => v = ((List.range n).filter (fun k => x.testBit k)).length
  | _ => False

end Sys2Proof.Rules

/-- Table 3-8, R74, R75, R89: an integer instruction that issues without an exception of its operands completes: the result that
the table gives for the values of its operands is written to d, the post-increments apply and the program counter moves on.
Where the spec leaves a point of this open, the model's choice is in log entries 7, 14, 15. -/
def Obligations.IntegerInstructionsWriteTheTablesResult : Prop :=
  ∀ (i : Instr) (a : Site) (w : SeWord) (f : Form) (s : State), Rules.alu i = some (a, w, f) → s.issues a f w = true →
    ∃ v, Rules.AluResult i (8 * (s.ops a f w).d.ty.bytes) (s.val a (s.ops a f w).a) (s.val a (s.ops a f w).b) v ∧
      exec i s = .next (s.after a.core
        (((s.issuedCore a).writeDest a.thread (s.ops a f w).d.dest (s.ops a f w).d.ty.bytes v).finish a.thread w.len (s.ops a f w)))

/-! ### Multiplier and divider -/

namespace Sys2Proof.Rules

/-- R81: MH and ML of the product of two numbers of `n` bits. -/
abbrev Product (sgn : Bool) (n x y : Nat) (mh ml : DWord) : Prop :=
  ml.toNat < 2 ^ n ∧
    if sgn then mh.toInt * 2 ^ n + ml.toNat = signed n x * signed n y else mh.toNat * 2 ^ n + ml.toNat = x * y

/-- R82: QOT and REM of the division of two numbers of `n` bits. -/
abbrev Quotient (sgn : Bool) (n x y : Nat) (qot rem : DWord) : Prop :=
  if y = 0 then
    (if sgn then qot.toInt = -1 ∧ rem.toInt = signed n x else qot.toNat = 2 ^ n - 1 ∧ rem.toNat = x)
  else if sgn then
    (if signed n x = -(2 ^ (n - 1) : Int) ∧ signed n y = -1 then qot.toInt = -(2 ^ (n - 1) : Int) ∧ rem.toInt = 0
     else qot.toInt = Int.tdiv (signed n x) (signed n y) ∧ rem.toInt = Int.tmod (signed n x) (signed n y))
  else qot.toNat = x / y ∧ rem.toNat = x % y

/-- The form of MUL. -/
def mulForm (w : SeWord) : Form := formOf (intTy w) (decide (w.mod.toNat < 2)) unused useSrc useSrc
/-- The form of DIV. -/
def divForm (w : SeWord) : Form := formOf (anyTy w) (decide (w.mod.toNat < 2)) unused useSrc useSrc
/-- The form of FSQRT. -/
def sqrtForm (w : SeWord) : Form := formOf (f32Ty w) (w.mod == 0) unused useSrc unused

/-- The core whose divider has taken an operation of thread `t`. -/
def dividing (c : Core) (t : Fin 4) (q r : DWord) (f : BitVec 6) : Core :=
  { c with div := some { thread := t, qot := q, rem := r, flags := f } }

end Sys2Proof.Rules

/-- R81, R82, R85, R86: MUL, DIV and FSQRT complete at issue and leave MH, ML, QOT and REM as they were; the result they hold in
flight is the exact product, or the quotient with its remainder. Only a free divider takes DIV and FSQRT. The oldest product of a
thread, and the divider's result, are then written to the registers of the thread that issued them.
Where the spec leaves a point of this open, the model's choice is in log entries 7, 14. -/
def Obligations.ProductsAndQuotientsAreWrittenLater : Prop :=
  (∀ (a : Site) (w : SeWord) (s : State), s.issues a (Rules.mulForm w) w = true →
    ∃ mh ml, Rules.Product (w.mod.getLsbD 0) (8 * (s.ops a (Rules.mulForm w) w).a.ty.bytes)
        (s.val a (s.ops a (Rules.mulForm w) w).a) (s.val a (s.ops a (Rules.mulForm w) w).b) mh ml ∧
      exec (.mul a w) s = .next (s.after a.core
        (((s.issuedCore a).mapTh a.thread (fun h => { h with muls := h.muls ++ [(mh, ml)] })).finish a.thread w.len
          (s.ops a (Rules.mulForm w) w)))) ∧
  (∀ (a : Site) (w : SeWord) (s : State), s.issues a (Rules.divForm w) w = true → w.sz ≠ 4 → (s.at a.core).div = none →
    ∃ q r, Rules.Quotient (w.mod.getLsbD 0) (8 * (s.ops a (Rules.divForm w) w).a.ty.bytes)
        (s.val a (s.ops a (Rules.divForm w) w).a) (s.val a (s.ops a (Rules.divForm w) w).b) q r ∧
      exec (.div a w) s = .next (s.after a.core
        ((Rules.dividing (s.issuedCore a) a.thread q r 0).finish a.thread w.len (s.ops a (Rules.divForm w) w)))) ∧
  (∀ (a : Site) (w : SeWord) (s : State), s.issues a (Rules.divForm w) w = true → w.sz = 4 → (s.at a.core).div = none →
    exec (.div a w) s = .next (s.after a.core
      ((Rules.dividing (s.issuedCore a) a.thread
          (BitVec.ofNat 64 (div32 (s.val a (s.ops a (Rules.divForm w) w).a) (s.val a (s.ops a (Rules.divForm w) w).b)).1) 0
          (div32 (s.val a (s.ops a (Rules.divForm w) w).a) (s.val a (s.ops a (Rules.divForm w) w).b)).2).finish a.thread w.len
        (s.ops a (Rules.divForm w) w)))) ∧
  (∀ (a : Site) (w : SeWord) (s : State), s.issues a (Rules.sqrtForm w) w = true → (s.at a.core).div = none →
    exec (.fsqrt a w) s = .next (s.after a.core
      ((Rules.dividing (s.issuedCore a) a.thread
          (BitVec.ofNat 64 (sqrt32 (s.val a (s.ops a (Rules.sqrtForm w) w).a)).1) 0
          (sqrt32 (s.val a (s.ops a (Rules.sqrtForm w) w).a)).2).finish a.thread w.len (s.ops a (Rules.sqrtForm w) w)))) ∧
  (∀ (a : Site) (m : DWord × DWord) (ms : List (DWord × DWord)) (s : State), s.calm a.core = true →
    ((s.at a.core).th a.thread).muls = m :: ms →
    exec (.mulResultWrite a) s = .next (s.after a.core ((s.at a.core).mapTh a.thread (fun h =>
      { h with muls := ms, r := { h.r with mh := m.1, ml := m.2 } })))) ∧
  (∀ (core : CoreId) (d : DivResult) (s : State), s.calm core = true → (s.at core).div = some d →
    exec (.divResultWrite core) s = .next (s.after core
      (Core.mapR { s.at core with div := none, fpflags := (s.at core).fpflags ||| d.flags } d.thread
        (fun r => { r with qot := d.qot, rem := d.rem }))))

/-! ### binary32 instructions, jumps, branches and loops -/

namespace Sys2Proof.Rules

/-- The form of FMA, FCMP, FCVTI and ICVTF. -/
def fmaForm (w : SeWord) : Form := formOf (f32Ty w) (w.mod == 0) (fun ty => some (srcDst ty)) useSrc useSrc
def fcmpForm (w : SeWord) : Form := formOf (f32Ty w) true (fun _ => some (dst tyI32)) useSrc useSrc
def fcvtiForm (w : SeWord) : Form := formOf (f32Ty w) true (fun _ => some (dst (tyOfMod w.mod))) useSrc unused
def icvtfForm (w : SeWord) : Form := formOf (f32Ty w) true useDst (fun _ => some (src (tyOfMod w.mod))) unused

/-- The binary32 instructions that write d, with their form and their result for the values of d, a and b (Table 3-8): the code
and the flags. -/
def fp : Instr → Option (Site × SeWord × Form × (Nat → Nat → Nat → Nat × BitVec 6))
  | .fadd a w => some (a, w, formF3 w, fun _ x y => add32 x y)
  | .fsub a w => some (a, w, formF3 w, fun _ x y => sub32 x y)
  | .fmul a w => some (a, w, formF3 w, fun _ x y => mul32 x y)
  | .fma a w => some (a, w, fmaForm w, fun d x y => fma32 d x y)
  | .fmin a w => some (a, w, formF3 w, fun _ x y => (minmax32 false x y, 0))
  | .fmax a w => some (a, w, formF3 w, fun _ x y => (minmax32 true x y, 0))
  | .fcmp a w => some (a, w, fcmpForm w, fun _ x y =>
      (if (compareFl (fcmpCond w.mod) (dec32 x) (dec32 y)).1 then 1 else 0, (compareFl (fcmpCond w.mod) (dec32 x) (dec32 y)).2))
  | .fcvti a w => some (a, w, fcvtiForm w, fun _ x _ => toInt32 (8 * 2 ^ w.mod.toNat) x)
  | .icvtf a w => some (a, w, icvtfForm w, fun _ x _ => ofInt32 (signed (8 * 2 ^ w.mod.toNat) x))
  | _ => none

/-- The core with a binary32 result of an operand in flight, which a scratchpad destination tracks (R236). A loop counter
takes its result at once (the model's choice: log entry 111). -/
def withResult (c : Core) (t : Fin 4) (d : Operand) (v : Nat × BitVec 6) : Core :=
  let c' := c.mapTh t (fun h => { h with
    fps := h.fps ++ [{ dest := d.dest, bytes := d.ty.bytes, value := BitVec.ofNat 64 v.1, flags := v.2, seq := c.seq }] })
  match d.loc with
  | .loopCount _ => (c.writeDest t d.dest d.ty.bytes v.1).flag v.2
  | .mem x => c'.track t x d.ty.bytes true c.seq
  | _ => c'

end Sys2Proof.Rules

/-- Table 3-8, Table 3-10, R36, R38, R200, R236: a binary32 instruction completes at issue with its result and flags in flight; the
oldest result of a thread is then written to its destination and its flags are set, and a flag that is set stays set. A word
that it writes and whose check fails is poison (R202), and a request of the near port that took rank 1 at its bank is served (R199).
Where the spec leaves a point of this open, the model's choice is in log entries 7, 25, 111. -/
def Obligations.BinaryResultsAreWrittenInOrder : Prop :=
  (∀ (i : Instr) (a : Site) (w : SeWord) (f : Form) (fn : Nat → Nat → Nat → Nat × BitVec 6) (s : State),
    Rules.fp i = some (a, w, f, fn) → s.issues a f w = true →
      exec i s = .next (s.after a.core
        ((Rules.withResult (s.issuedCore a) a.thread (s.ops a f w).d
          (fn (s.val a (s.ops a f w).d) (s.val a (s.ops a f w).a) (s.val a (s.ops a f w).b))).finish a.thread w.len (s.ops a f w)))) ∧
  (∀ (a : Site) (r : FpResult) (rs : List FpResult) (s : State), s.quiet a.core = true →
    ((s.at a.core).th a.thread).fps = r :: rs →
      exec (.fpResultWrite a) s = .next (s.after a.core
        ((((s.at a.core).mapTh a.thread (fun h => { h with fps := rs })).writeDest a.thread r.dest r.bytes r.value.toNat).flag
          r.flags |>.unverified r.range a.found |>.granted .near r.range))) ∧
  (∀ (f : BitVec 6) (c : Core) (k : Nat), (c.flag f).fpflags.getLsbD k = (c.fpflags.getLsbD k || f.getLsbD k))

namespace Sys2Proof.Rules

/-- The condition of a branch between two numbers of `n` bits, for the codes of MOD in the order EQ, NE, LT, GE (R83). -/
def branchHolds (mod : BitVec 2) (x y : Int) : Bool :=
  match mod.toNat with
  | 0 => decide (x = y)
  | 1 => decide (x ≠ y)
  | 2 => decide (x < y)
  | _ => decide (y ≤ x)

/-- A branch from the program counter of thread `t`: by `off` words when it is taken, else to its successor (R83, R89). -/
def branched (c : Core) (e : Env) (t : Fin 4) (w : SeWord) (o : Operands) (taken : Bool) (off : Nat) : Core :=
  if taken then (c.increments t o).jump e t ((c.th t).r.pc + 4 * BitVec.ofNat 32 off) else c.finish t w.len o

/-- The forms of JMP, CALL and LOOP. -/
def jmpForm (w : SeWord) : Form := formOf (i32Ty w) (w.mod == 0) unused useSrc unused
def callForm (w : SeWord) : Form := formOf (i32Ty w) (w.mod == 0) useDst useSrc unused
def loopForm (w : SeWord) : Form := formOf (i32Ty w) (w.mod == 0) unused useSrc (fun _ => some (immOp tyI32))
/-- The form of LBREAK and of NOP. -/
def bareForm (w : SeWord) : Form := formOf (anyTy w) (w.mod == 0) unused unused unused

/-- R88 step 6: level D of the registers starts with N iterations between S and E. -/
def loopStarted (r : Regs) (n : Nat) (start stop : Word) : Regs :=
  { r with
    ls := r.ls.set (Fin.ofNat 4 r.ldepth.toNat) start
    le := r.le.set (Fin.ofNat 4 r.ldepth.toNat) stop
    lc := r.lc.set (Fin.ofNat 4 r.ldepth.toNat) (BitVec.ofNat 32 n)
    ldepth := r.ldepth + 1
    pc := start }

end Sys2Proof.Rules

/-- R83, R42, R68: JMP and CALL go to the aligned address in a, and CALL writes the address of its successor to d; B and BU go to
their own address plus four times the offset when their condition holds, and on when it does not.
Where the spec leaves a point of this open, the model's choice is in log entries 7, 15. -/
def Obligations.JumpsAndBranchesGoWhereTheyName : Prop :=
  (∀ (a : Site) (w : SeWord) (s : State), s.issues a (Rules.jmpForm w) w = true →
    s.val a (s.ops a (Rules.jmpForm w) w).a % 4 = 0 →
      exec (.jmp a w) s = .next (s.after a.core
        (((s.issuedCore a).increments a.thread (s.ops a (Rules.jmpForm w) w)).jump (s.env a.core) a.thread
          (BitVec.ofNat 32 (s.val a (s.ops a (Rules.jmpForm w) w).a))))) ∧
  (∀ (a : Site) (w : SeWord) (s : State), s.issues a (Rules.callForm w) w = true →
    s.val a (s.ops a (Rules.callForm w) w).a % 4 = 0 →
      exec (.call a w) s = .next (s.after a.core
        ((((s.issuedCore a).writeDest a.thread (s.ops a (Rules.callForm w) w).d.dest 4
            (((s.at a.core).th a.thread).r.pc.toNat + 4 * (w.len.toNat + 1))).increments a.thread
              (s.ops a (Rules.callForm w) w)).jump (s.env a.core) a.thread
          (BitVec.ofNat 32 (s.val a (s.ops a (Rules.callForm w) w).a))))) ∧
  (∀ (a : Site) (w : SeWord) (s : State), s.issues a (branchForm (anyTy w)) w = true → w.sz ≠ 4 →
    exec (.b a w) s = .next (s.after a.core
      (Rules.branched (s.issuedCore a) (s.env a.core) a.thread w (s.ops a (branchForm (anyTy w)) w)
        (Rules.branchHolds w.mod
          (signed (8 * (s.ops a (branchForm (anyTy w)) w).a.ty.bytes) (s.val a (s.ops a (branchForm (anyTy w)) w).a))
          (signed (8 * (s.ops a (branchForm (anyTy w)) w).a.ty.bytes) (s.val a (s.ops a (branchForm (anyTy w)) w).b)))
        (s.val a (s.ops a (branchForm (anyTy w)) w).d)))) ∧
  (∀ (a : Site) (w : SeWord) (s : State), s.issues a (branchForm (anyTy w)) w = true → w.sz = 4 →
    exec (.b a w) s = .next (s.after a.core
      (Rules.branched
        ((s.issuedCore a).flag (compareFl (branchCond w.mod)
          (dec32 (s.val a (s.ops a (branchForm (anyTy w)) w).a)) (dec32 (s.val a (s.ops a (branchForm (anyTy w)) w).b))).2)
        (s.env a.core) a.thread w (s.ops a (branchForm (anyTy w)) w)
        (compareFl (branchCond w.mod)
          (dec32 (s.val a (s.ops a (branchForm (anyTy w)) w).a)) (dec32 (s.val a (s.ops a (branchForm (anyTy w)) w).b))).1
        (s.val a (s.ops a (branchForm (anyTy w)) w).d)))) ∧
  (∀ (a : Site) (w : SeWord) (s : State), s.issues a (branchForm (intTy w)) w = true →
    exec (.bu a w) s = .next (s.after a.core
      (Rules.branched (s.issuedCore a) (s.env a.core) a.thread w (s.ops a (branchForm (intTy w)) w)
        (Rules.branchHolds w.mod (s.val a (s.ops a (branchForm (intTy w)) w).a) (s.val a (s.ops a (branchForm (intTy w)) w).b))
        (s.val a (s.ops a (branchForm (intTy w)) w).d))))

/-- R88, R89: LOOP with a count of 0 goes to the end of its body and starts no level; with a count of 1 or more, at a depth below
4, it starts the level; LBREAK ends the innermost level with its counter 0, and does nothing at depth 0.
Where the spec leaves a point of this open, the model's choice is in log entries 7, 19. -/
def Obligations.LoopsStartAndEndLevels : Prop :=
  (∀ (a : Site) (w : SeWord) (s : State), s.issues a (Rules.loopForm w) w = true →
    1 ≤ signed 32 (s.val a (s.ops a (Rules.loopForm w) w).b) → s.val a (s.ops a (Rules.loopForm w) w).a = 0 →
      exec (.loop a w) s = .next (s.after a.core
        (((s.issuedCore a).increments a.thread (s.ops a (Rules.loopForm w) w)).jump (s.env a.core) a.thread
          (((s.at a.core).th a.thread).r.pc + BitVec.ofNat 32 (4 * (w.len.toNat + 1)) +
            BitVec.ofNat 32 (4 * s.val a (s.ops a (Rules.loopForm w) w).b))))) ∧
  (∀ (a : Site) (w : SeWord) (s : State), s.issues a (Rules.loopForm w) w = true →
    1 ≤ signed 32 (s.val a (s.ops a (Rules.loopForm w) w).b) → s.val a (s.ops a (Rules.loopForm w) w).a ≠ 0 →
    ((s.at a.core).th a.thread).r.ldepth.toNat < 4 →
      exec (.loop a w) s = .next (s.after a.core
        (((s.issuedCore a).increments a.thread (s.ops a (Rules.loopForm w) w)).mapR a.thread (fun r =>
          Rules.loopStarted r (s.val a (s.ops a (Rules.loopForm w) w).a)
            (((s.at a.core).th a.thread).r.pc + BitVec.ofNat 32 (4 * (w.len.toNat + 1)))
            (((s.at a.core).th a.thread).r.pc + BitVec.ofNat 32 (4 * (w.len.toNat + 1)) +
              BitVec.ofNat 32 (4 * s.val a (s.ops a (Rules.loopForm w) w).b)))))) ∧
  (∀ (a : Site) (w : SeWord) (s : State), s.issues a (Rules.bareForm w) w = true →
    exec (.lbreak a w) s = .next (s.after a.core
      (((s.issuedCore a).mapR a.thread (fun r =>
        if r.ldepth = 0 then r
        else { r with lc := r.lc.set (Fin.ofNat 4 (r.ldepth.toNat - 1)) 0, ldepth := r.ldepth - 1 })).advance a.thread w.len))) ∧
  (∀ (a : Site) (w : SeWord) (s : State), s.issues a (Rules.bareForm w) w = true →
    exec (.nop a w 0) s = .next (s.after a.core ((s.issuedCore a).advance a.thread w.len)))

/-! ### Control and status registers -/

namespace Sys2Proof.Rules

/-- The CSR number and the value of a CSRW, cut to 32 bits, and the number of a CSRR (R91). -/
def writeNum (s : State) (a : Site) (w : SeWord) : Nat := s.val a (s.ops a (csrwForm w) w).a
def writeVal (s : State) (a : Site) (w : SeWord) : Nat := s.val a (s.ops a (csrwForm w) w).b % 2 ^ 32
def readNum (s : State) (a : Site) (w : SeWord) : Nat := s.val a (s.ops a (csrrForm w) w).a

/-- The state after a CSRW that completes with the core `d`, and after a CSRR of the value `v` that leaves the core as `d`. -/
def wrote (s : State) (a : Site) (w : SeWord) (d : Core) : State := s.after a.core (d.finish a.thread w.len (s.ops a (csrwForm w) w))
def readBack (s : State) (a : Site) (w : SeWord) (d : Core) (v : Nat) : State :=
  s.after a.core ((d.writeDest a.thread (s.ops a (csrrForm w) w).d.dest (s.ops a (csrrForm w) w).d.ty.bytes v).finish a.thread w.len
    (s.ops a (csrrForm w) w))

/-- A CSRW issues for number `n` with the value `v`. -/
abbrev Writes (s : State) (a : Site) (w : SeWord) (n v : Nat) : Prop :=
  s.issues a (csrwForm w) w = true ∧ writeNum s a w = n ∧ writeVal s a w = v
/-- A CSRR issues for number `n`. -/
abbrev Reads (s : State) (a : Site) (w : SeWord) (n : Nat) : Prop := s.issues a (csrrForm w) w = true ∧ readNum s a w = n

/-- The cycles that a read of CYCLE finds (R92): those it last gave and those its island has run since. -/
def cycleAt (s : State) (a : Site) : DWord := (s.at a.core).cycle + BitVec.ofNat 64 (Config.islandCycles s.fresh)

/-- R91: the value that the three forms of CSRW leave in a field that held `old`. -/
def merged (mod : BitVec 2) (old v : Nat) : Nat :=
  if mod = 1 then old ||| v else if mod = 2 then old &&& (v ^^^ 0xFFFFFFFF) else v

end Sys2Proof.Rules

/-- R58, R60, R91, R92, Table 3-12: CSRR writes the value of its register to d; a read of CYCLE_LO or TIME_LO latches the high half
for the thread, and a read of CVRMAX_RC or CVSAT clears it.
R15, R91, R112, R116, Tables 3-12, 4-5 and 5-2: CSRW writes, sets or clears bits of its register; a field that is cleared by
writing 1 takes the value itself; LDEPTH ignores 5 to 7 whole, VLEN stops at 2,048, EXC_VEC keeps its reserved bit 0. A runner
without a waiting thread and without words takes new masks, one that is flushed loses its words; the event timer starts from the
count written.
Where the spec leaves a point of this open, the model's choice is in log entries 16, 17, 18. -/
def Obligations.CsrsAreReadAndWritten : Prop :=
  (∀ (a : Site) (w : SeWord) (s : State) (n : Nat), Rules.Reads s a w n → csrAssigned (s.at a.core) n = true →
    exec (.csrr a w) s = .next (Rules.readBack s a w (csrReadEffect (s.env a.core) a.thread n (s.issuedCore a))
      (csrValue (s.env a.core) a.thread n (s.issuedCore a)))) ∧
  (∀ (a : Site) (w : SeWord) (s : State), Rules.Reads s a w 0x006 →
    exec (.cycleLoRead a w) s = .next (Rules.readBack s a w
      (Core.mapR { s.issuedCore a with cycle := Rules.cycleAt s a } a.thread
        (fun r => { r with cycleHi := BitVec.ofNat 32 ((Rules.cycleAt s a).toNat / 2 ^ 32) }))
      ((Rules.cycleAt s a).toNat % 2 ^ 32))) ∧
  (∀ (a : Site) (w : SeWord) (s : State), Rules.Reads s a w 0x008 →
    exec (.timeLoRead a w) s = .next (Rules.readBack s a w
      ((s.issuedCore a).mapR a.thread (fun r => { r with timeHi := BitVec.ofNat 32 (s.now / 2 ^ 32) })) (s.now % 2 ^ 32))) ∧
  (∀ (a : Site) (w : SeWord) (s : State) (i : Fin 6), Rules.Reads s a w (0x0C8 + 8 * i.val + 3) →
    exec (.cvrmaxRcRead a w) s = .next (Rules.readBack s a w
      ((s.issuedCore a).mapStream i (fun x => { x with rmax := 0 })) ((s.at a.core).streams[i]).rmax.toNat)) ∧
  (∀ (a : Site) (w : SeWord) (s : State) (i : Fin 6), Rules.Reads s a w (0x0C8 + 8 * i.val + 4) →
    exec (.cvsatRead a w) s = .next (Rules.readBack s a w
      ((s.issuedCore a).mapStream i (fun x => { x with sat := 0 })) ((s.at a.core).streams[i]).sat.toNat)) ∧
  (∀ (e : Env) (t : Fin 4) (c : Core),
    csrValue e t 0x000 c = e.id.toNat ∧ csrValue e t 0x001 c = 32 * e.perDie ∧ csrValue e t 0x002 c = e.spmSize ∧
    csrValue e t 0x004 c = c.phase.toNat ∧ csrValue e t 0x007 c = (c.th t).r.cycleHi.toNat ∧
    csrValue e t 0x018 c = c.ve.vlen.toNat ∧ csrValue e t 0x0C0 c = c.fpflags.toNat ∧ csrValue e t 0x103 c = (c.th t).x.pc.toNat ∧
    csrValue e t 0x107 c = t.val) ∧
  (∀ (a : Site) (w : SeWord) (s : State) (v : Nat), Rules.Writes s a w 0x018 v →
    exec (.csrw a w) s = .next (Rules.wrote s a w
      { s.issuedCore a with ve := { (s.at a.core).ve with
        vlen := BitVec.ofNat 12 (min 0x800 (Rules.merged w.mod (s.at a.core).ve.vlen.toNat v % 4096)) } })) ∧
  (∀ (a : Site) (w : SeWord) (s : State) (v : Nat), Rules.Writes s a w 0x0C0 v →
    exec (.csrw a w) s = .next (Rules.wrote s a w
      { s.issuedCore a with fpflags := (s.at a.core).fpflags &&& ~~~(BitVec.ofNat 6 v) })) ∧
  (∀ (a : Site) (w : SeWord) (s : State) (v : Nat), Rules.Writes s a w 0x105 v →
    exec (.csrw a w) s = .next (Rules.wrote s a w ((s.issuedCore a).mapX a.thread (fun x =>
      { x with vec := BitVec.ofNat 32 (Rules.merged w.mod x.vec.toNat v) &&& 0xFFFFFFFD })))) ∧
  (∀ (a : Site) (w : SeWord) (s : State) (v : Nat), Rules.Writes s a w 0x106 v →
    exec (.ldepthWrite a w) s = .next (Rules.wrote s a w ((s.issuedCore a).mapR a.thread (fun r =>
      if Rules.merged w.mod r.ldepth.toNat v % 8 ≤ 4 then
        { r with ldepth := BitVec.ofNat 3 (Rules.merged w.mod r.ldepth.toNat v) } else r)))) ∧
  (∀ (a : Site) (w : SeWord) (s : State) (n : Fin 8) (v : Nat), Rules.Writes s a w (0x088 + n.val) v → v.testBit 24 = false →
    ((s.at a.core).runners[n]).waited = false → ((s.at a.core).runners[n]).words = [] →
    exec (.rnctlWrite a w) s = .next (Rules.wrote s a w ((s.issuedCore a).setRunner n
      { (s.at a.core).runners[n] with
        en := (Rules.merged w.mod ((s.at a.core).runners[n]).ctl v).testBit 16
        send := BitVec.ofNat 4 (Rules.merged w.mod ((s.at a.core).runners[n]).ctl v / 256)
        recv := BitVec.ofNat 4 (Rules.merged w.mod ((s.at a.core).runners[n]).ctl v) }))) ∧
  (∀ (a : Site) (w : SeWord) (s : State) (n : Fin 8) (v : Nat), Rules.Writes s a w (0x088 + n.val) v → v.testBit 24 = true → w.mod = 0 →
    ((s.at a.core).runners[n]).waited = false →
    exec (.runnerFlush a w) s = .next (Rules.wrote s a w ((s.issuedCore a).setRunner n
      { (s.at a.core).runners[n] with
        en := v.testBit 16, send := BitVec.ofNat 4 (v / 256), recv := BitVec.ofNat 4 v, words := [] }))) ∧
  (∀ (a : Site) (w : SeWord) (s : State) (v : Nat), Rules.Writes s a w 0x093 v →
    exec (.evtmrCntWrite a w) s = .next (Rules.wrote s a w
      { s.issuedCore a with events := { (s.at a.core).events with
        tmrCnt := BitVec.ofNat 32 (Rules.merged w.mod ((s.at a.core).events.left s.now) v)
        tmrDue := s.now + max 1 (Rules.merged w.mod ((s.at a.core).events.left s.now) v) } }))

/-- R55, R59, R158, R162, R164, R166, R213 to R215, R272, Table 2-11: the writes that act on a unit. A converter stream that no
work uses takes its mode and its seed, a seed of 0 as 1; VG wakes a retained VE; TCFGn of a tile that no operation names takes a
legal value and clears the tile; a halted DMA queue resumes or is flushed, and the writes that waited for a stream which is then
free take effect; a gate that passes the checks opens with its next
generation, no refusal counted and its tags empty; an open one whose accepted writes are performed closes; the bounds of a closed
gate are set.
Where the spec leaves a point of this open, the model's choice is in log entries 17, 32. -/
def Obligations.UnitRegistersActWhenWritten : Prop :=
  (∀ (a : Site) (w : SeWord) (s : State) (i : Fin 6) (v : Nat), Rules.Writes s a w (0x0C8 + 8 * i.val) v →
    (s.at a.core).streamBusy i = false → Rules.merged w.mod (b2n ((s.at a.core).streams[i]).stochastic) v % 4 < 2 →
    exec (.cvctlWrite a w) s = .next (Rules.wrote s a w ((s.issuedCore a).mapStream i (fun x =>
      { x with stochastic := decide (Rules.merged w.mod (b2n x.stochastic) v % 4 = 1) })))) ∧
  (∀ (a : Site) (w : SeWord) (s : State) (i : Fin 6) (v : Nat), Rules.Writes s a w (0x0C8 + 8 * i.val + 1) v →
    (s.at a.core).streamBusy i = false →
    exec (.cvseedWrite a w) s = .next (Rules.wrote s a w ((s.issuedCore a).mapStream i (fun x =>
      { x with seed := if BitVec.ofNat 32 (Rules.merged w.mod x.seed.toNat v) = 0 then 1
                       else BitVec.ofNat 32 (Rules.merged w.mod x.seed.toNat v) })))) ∧
  (∀ (a : Site) (w : SeWord) (s : State) (v : Nat), Rules.Writes s a w 0x019 v → w.mod = 0 → v.testBit 29 = true →
    exec (.vgWakeWrite a w) s = .next (Rules.wrote s a w
      { s.issuedCore a with ve := { (s.at a.core).ve with
        log := BitVec.ofNat 2 v, waking := (s.at a.core).ve.ret || (s.at a.core).ve.waking } })) ∧
  (∀ (a : Site) (w : SeWord) (s : State) (n : Fin 8) (v : Nat), Rules.Writes s a w (0x010 + n.val) v → w.mod = 0 →
    (Tcfg.ofReg v).ok = true → (s.at a.core).me.uses n = false →
    (∀ t, ∀ v' w', ((s.at a.core).th t).stall ≠ .tcfg n v' w') →
    exec (.tcfgWrite a w) s = .next (Rules.wrote s a w
      { s.issuedCore a with me := { (s.at a.core).me.clearTile n with
        cfg := ((s.at a.core).me.clearTile n).cfg.set n (Tcfg.ofReg v) } })) ∧
  (∀ (a : Site) (w : SeWord) (s : State) (q : Fin 4) (v : Nat), Rules.Writes s a w (0x200 + 16 * q.val) v → w.mod = 0 →
    v.testBit 1 = true → v.testBit 0 = false → ((s.at a.core).de.q[q]).halt = true →
    exec (.dqResume a w) s = .next (Rules.wrote s a w ((s.issuedCore a).mapDq q (fun d =>
      { d with high := v.testBit 8, halt := false, descs := dropAbandoned (abandonFaulting [] d.descs) })).settleStreams)) ∧
  (∀ (a : Site) (w : SeWord) (s : State) (q : Fin 4) (v : Nat), Rules.Writes s a w (0x200 + 16 * q.val) v → w.mod = 0 →
    v.testBit 0 = true → ((s.at a.core).de.q[q]).halt = true → (s.at a.core).de.issue = [] →
    exec (.dqFlush a w) s = .next (Rules.wrote s a w ((s.issuedCore a).mapDq q (fun d =>
      { d with high := v.testBit 8, halt := false
               descs := dropAbandoned (d.descs.map (fun r => { r with abandoned := true })) })).settleStreams)) ∧
  (∀ (a : Site) (w : SeWord) (s : State) (i : Fin 16) (v : Nat), Rules.Writes s a w (0x042 + 4 * i.val) v → w.mod = 0 →
    v.testBit 0 = true → ((s.at a.core).spm.gates[i]).opened = false → ((s.at a.core).spm.gates[i]).closing = false →
    (s.at a.core).spm.mayOpen (spmBytes s.ident.code) i (((s.at a.core).spm.gates[i]).setCtl v) = true →
    exec (.gateOpen a w) s = .next (Rules.wrote s a w ((s.issuedCore a).mapSpm (fun m =>
      { m with
        gates := m.gates.set i { (m.gates[i]).setCtl v with
          opened := true, closing := false, gen := (m.gates[i]).gen + 1, fcnt := 0, recorded := false }
        tags := if v.testBit 4 then ndelAll m.tags (((m.gates[i]).setCtl v).tagList) else m.tags })))) ∧
  (∀ (a : Site) (w : SeWord) (s : State) (i : Fin 16) (v : Nat), Rules.Writes s a w (0x042 + 4 * i.val) v → w.mod = 0 →
    v.testBit 0 = false → ((s.at a.core).spm.gates[i]).opened = true → ((s.at a.core).spm.gates[i]).closing = false →
    ((s.at a.core).spm.gates[i]).tagged = false → (s.at a.core).spm.settled i = true →
    exec (.gateClose a w) s = .next (Rules.wrote s a w ((s.issuedCore a).mapSpm (fun m =>
      { m with gates := m.gates.set i { (m.gates[i]).setCtl v with opened := false, closing := false } })))) ∧
  (∀ (a : Site) (w : SeWord) (s : State) (i : Fin 16) (lim : Bool) (v : Nat),
    Rules.Writes s a w (0x040 + 4 * i.val + b2n lim) v → ((s.at a.core).spm.gates[i]).opened = false →
    exec (.gateRegWrite a w) s = .next (Rules.wrote s a w ((s.issuedCore a).mapSpm (fun m => m.mapGate i (fun g =>
      if lim then { g with limit := BitVec.ofNat 22 (Rules.merged w.mod g.limit.toNat v) }
      else { g with base := BitVec.ofNat 22 (Rules.merged w.mod g.base.toNat v) })))))

/-! ### Ordering -/

namespace Sys2Proof.Rules

/-- The fence of a thread with scope `k` has nothing left to wait for, as the issued core finds it (R244). -/
def free (s : State) (a : Site) (k : Nat) : Bool :=
  (s.issuedCore a).fenceDone (s.env a.core) a.thread (s.issuedCore a).seq k
/-- The same for a thread that waits. -/
def freeNow (s : State) (a : Site) (k : Nat) : Bool := (s.at a.core).fenceDone (s.env a.core) a.thread (s.at a.core).seq k

/-- The operand value of ETOK and EWAIT. -/
def tok (s : State) (a : Site) (w : SeWord) : Nat := s.val a (s.ops a (tokForm w) w).a

/-- The core with a marker of token `k` behind every instruction of the thread (R240, R241). -/
def marked (c : Core) (t : Fin 4) (k : Fin 8) (eng : BitVec 2) : Core :=
  Core.mapTh { c with marks := c.marks ++ [{ id := c.seq, thread := t, eng := eng, seq := c.seq }] } t
    (fun h => { h with tokens := h.tokens.set k (h.tokens[k] ++ [c.seq]) })

end Sys2Proof.Rules

/-- R236, R237, R240, R241, R244, R247: LD.ACQ reads at issue and writes d. ST.REL and FENCE complete when no earlier access of
their thread in their scope is outstanding, and wait until then; the completion of the wait writes for the one and lets both go on.
ETOK puts its marker behind the work of its engine; the marker passes when that work is performed; EWAIT takes the oldest unpaired
marker of its token, and its own marker holds its engine's queue until then. A tracker entry whose accesses are performed is freed.
Where the spec leaves a point of this open, the model's choice is in log entries 3, 7. -/
def Obligations.FencesAndTokensHoldUntilPerformed : Prop :=
  (∀ (a : Site) (hi : Bool) (w : SeWord) (s : State), s.issues a (ldAcqForm hi w) w = true →
    exec (.ldAcq a hi w) s = .next (s.after a.core
      (((s.issuedCore a).writeDest a.thread (s.ops a (ldAcqForm hi w) w).d.dest (s.ops a (ldAcqForm hi w) w).d.ty.bytes
        (s.val a (s.ops a (ldAcqForm hi w) w).a)).finish a.thread w.len (s.ops a (ldAcqForm hi w) w)))) ∧
  (∀ (a : Site) (hi : Bool) (w : SeWord) (s : State), s.issues a (stRelForm hi w) w = true →
    exec (.stRel a hi w) s = .next (s.after a.core
      (if Rules.free s a (4 * b2n hi + w.mod.toNat) then
        ((s.issuedCore a).writeDest a.thread (s.ops a (stRelForm hi w) w).d.dest (s.ops a (stRelForm hi w) w).d.ty.bytes
          (s.val a (s.ops a (stRelForm hi w) w).a)).complete a.thread (stRelForm hi w) w
      else ((s.issuedCore a).trackDest a.thread (s.ops a (stRelForm hi w) w).d).mapTh a.thread (fun h =>
        { h with stall := .release (BitVec.ofNat 3 (4 * b2n hi + w.mod.toNat))
                          (BitVec.ofNat 64 (s.val a (s.ops a (stRelForm hi w) w).a)) w })))) ∧
  (∀ (a : Site) (w : SeWord) (s : State), s.issues a (fenceForm w) w = true →
    exec (.fence a w) s = .next (s.after a.core
      (if Rules.free s a w.sz.toNat then (s.issuedCore a).advance a.thread w.len
       else (s.issuedCore a).mapTh a.thread (fun h => { h with stall := .fence w.sz w })))) ∧
  (∀ (a : Site) (scope : BitVec 3) (w : SeWord) (s : State), s.calm a.core = true → (s.at a.core).frozen = false →
    ((s.at a.core).th a.thread).stall = .fence scope w → Rules.freeNow s a scope.toNat = true →
    exec (.fenceComplete a) s = .next (s.after a.core ((s.at a.core).complete a.thread (fenceForm w) w))) ∧
  (∀ (a : Site) (w : SeWord) (s : State), s.issues a (tokForm w) w = true → tokBad (Rules.tok s a w) = false →
    ((s.at a.core).unpaired a.thread (tokNum (Rules.tok s a w))).length < 7 →
    (s.at a.core).room (tokEng (Rules.tok s a w)) = true →
    exec (.etok a w) s = .next (s.after a.core
      (((Rules.marked (s.issuedCore a) a.thread (tokNum (Rules.tok s a w)) (tokEng (Rules.tok s a w))).putToken
        (tokEng (Rules.tok s a w)) (s.issuedCore a).seq).trim.finish a.thread w.len (s.ops a (tokForm w) w)))) ∧
  (∀ (core : CoreId) (thread : Fin 4) (eng : BitVec 2) (m : TokenMark) (s : State), s.calm core = true →
    (s.at core).marks.find? (fun m => decide (m.thread = thread ∧ m.eng = eng)) = some m → (s.at core).markDone (s.env core) m = true →
    exec (.tokenMarkerPass core thread eng) s = .next (s.after core
      { s.at core with marks := (s.at core).marks.filter (fun x => x.id != m.id) })) ∧
  (∀ (a : Site) (w : SeWord) (id : Nat) (rest : List Nat) (s : State), s.issues a (tokForm w) w = true →
    tokBad (Rules.tok s a w) = false → (s.at a.core).unpaired a.thread (tokNum (Rules.tok s a w)) = id :: rest →
    (s.at a.core).room (tokEng (Rules.tok s a w)) = true →
    exec (.ewait a w) s = .next (s.after a.core
      (if tokEng (Rules.tok s a w) = 0 ∧ !(s.at a.core).passed id then
        (s.issuedCore a).mapTh a.thread (fun h =>
          { h with tokens := h.tokens.set (tokNum (Rules.tok s a w)) rest, stall := .ewait id w })
      else
        (((s.issuedCore a).mapTh a.thread (fun h => { h with tokens := h.tokens.set (tokNum (Rules.tok s a w)) rest })).putWait
          (tokEng (Rules.tok s a w)) id a.thread).finish a.thread w.len (s.ops a (tokForm w) w)))) ∧
  (∀ (core : CoreId) (thread : Fin 4) (id : Nat) (w : SeWord) (s : State), s.calm core = true → (s.at core).frozen = false →
    ((s.at core).th thread).stall = .ewait id w → (s.at core).passed id = true →
    exec (.waitMarkerRelease core thread 0) s = .next (s.after core ((s.at core).complete thread (tokForm w) w))) ∧
  (∀ (core : CoreId) (idx : Nat) (k : Track) (s : State), s.calm core = true → (s.at core).tracker[idx]? = some k →
    (s.at core).trackDone (s.env core) k = true →
    exec (.trackerEntryFree core idx) s = .next (s.after core { s.at core with tracker := (s.at core).tracker.eraseIdx idx })) ∧
  (∀ (a : Site) (scope : BitVec 3) (v : DWord) (w : SeWord) (s : State), s.calm a.core = true → (s.at a.core).frozen = false →
    ((s.at a.core).th a.thread).stall = .release scope v w → Rules.freeNow s a scope.toNat = true →
    exec (.fenceComplete a) s = .next (s.after a.core
      (((s.at a.core).writeDest a.thread (s.ops a (stRelForm (scope.getLsbD 2) w) w).d.dest
        (s.ops a (stRelForm (scope.getLsbD 2) w) w).d.ty.bytes v.toNat |>.unverified
          (s.ops a (stRelForm (scope.getLsbD 2) w) w).writeRanges a.found).complete a.thread (stRelForm (scope.getLsbD 2) w) w)))

/-! ### Remote accesses -/

namespace Sys2Proof.Rules

/-- The CORE_ID and the offset of an XLD and of an XST (R84). -/
def xldCore (s : State) (a : Site) (w : SeWord) : Nat := s.val a (s.ops a (xldForm w) w).a % 2 ^ 13
def xldOff (s : State) (a : Site) (w : SeWord) : Nat := s.val a (s.ops a (xldForm w) w).b % 2 ^ 22
def xstCore (s : State) (a : Site) (w : SeWord) : Nat := s.val a (s.ops a (xstForm w) w).d % 2 ^ 13
def xstOff (s : State) (a : Site) (w : SeWord) : Nat := s.val a (s.ops a (xstForm w) w).a % 2 ^ 22
/-- A remote element of `n` bytes raises no exception at its issuer (R84). -/
abbrev reachable (s : State) (core off n : Nat) : Prop :=
  off % n = 0 ∧ off < spmBytes s.ident.code ∧ core % 256 < perDie s.ident.code

/-- An access that leaves. -/
def leaving (s : State) (id : Nat) (who : RemoteUser) (core off : Nat) (kind : RemoteKind) (gen : Option (BitVec 8)) : Remote :=
  { id := id, who := who, target := BitVec.ofNat 13 core, offset := off, kind := kind, gen := gen, left := s.now,
    stage := .leaving, withdrawal := false, dead := false }

/-- The core with an access gone. -/
def without (c : Core) (id : Nat) : Core := c.mapSpm (fun m => { m with remote := m.remote.filter (fun r => r.id != id) })

/-- The first access of `source` that is on its way to `target` is `r`, of another core of the same job; the target's entry of the
core map is valid, and it is not quarantined (R207, R248, R309, R498). -/
abbrev Comes (s : State) (target source : CoreId) (r : Remote) : Prop :=
  s.arriving target source = some r ∧ s.assigned target = true ∧ s.quarantined target = false ∧ s.jobOf source = s.jobOf target

/-- The state after the target of an access has become `d` and the answer has reached its source. -/
def served (s : State) (target source : CoreId) (d : Core) (id : Nat) (x : RemoteAnswer) : State :=
  (s.after target d).deliverAnswer (source, id, x)

end Sys2Proof.Rules

/-- R84, R203, R207 to R211, R248, R264: XLD of another core waits while its read leaves, and the element that returns is written to
d; XST goes on while its write leaves, and its acknowledgement ends it; within the core itself both act at once, where no watchpoint,
no result in flight and no tracker entry holds the bytes. The answers of one target arrive in the order in which they left it (R295). The target answers
a read with its bytes, takes a write that a gate admits, combines a reduce-on-write, and refuses any other write, which counts in
its gate. An access without an answer for 65,536 ns ends with REMOTE_TIMEOUT.
Where the spec leaves a point of this open, the model's choice is in log entries 20, 22, 24. -/
def Obligations.RemoteElementsMove : Prop :=
  (∀ (a : Site) (w : SeWord) (s : State), s.issues a (xldForm w) w = true → Rules.xldCore s a w ≠ a.core.toNat →
    Rules.reachable s (Rules.xldCore s a w) (Rules.xldOff s a w) (s.ops a (xldForm w) w).d.ty.bytes →
    exec (.xld a w) s = .next (s.after a.core
      ((((s.issuedCore a).mapSpm (fun m => { m with remote := m.remote ++
          [Rules.leaving s (s.issuedCore a).seq (.xld a.thread) (Rules.xldCore s a w) (Rules.xldOff s a w)
            (.read (s.ops a (xldForm w) w).d.ty.bytes) none] })).trackDest a.thread (s.ops a (xldForm w) w).d).mapTh a.thread
        (fun h => { h with stall := .xld (s.issuedCore a).seq w })))) ∧
  (∀ (a : Site) (id : Nat) (w : SeWord) (r : Remote) (x : Payload) (s : State), s.calm a.core = true →
    ((s.at a.core).th a.thread).stall = .xld id w → (s.at a.core).spm.inTurnOf id = some (r, .data x) →
    x.poison = [] → (∀ addr, (s.ops a (xldForm w) w).d.loc ≠ .mem addr) →
    exec (.xldResponse a .intact) s = .next (s.after a.core
      (((Rules.without (s.at a.core) id).writeDest a.thread (s.ops a (xldForm w) w).d.dest (s.ops a (xldForm w) w).d.ty.bytes
        (leNat x.bytes)).complete a.thread (xldForm w) w))) ∧
  (∀ (a : Site) (id addr : Nat) (w : SeWord) (r : Remote) (x : Payload) (s : State), s.calm a.core = true →
    ((s.at a.core).th a.thread).stall = .xld id w → (s.at a.core).spm.inTurnOf id = some (r, .data x) →
    (s.ops a (xldForm w) w).d.loc = .mem addr →
    exec (.xldResponse a .intact) s = .next (s.after a.core
      ((((Rules.without (s.at a.core) id).mapSpm (fun m => m.put addr x)).unverified [(addr, x.bytes.length)] a.found).complete
        a.thread (xldForm w) w))) ∧
  (∀ (a : Site) (addr : Nat) (w : SeWord) (s : State), s.issues a (xldForm w) w = true → Rules.xldCore s a w = a.core.toNat →
    Rules.reachable s (Rules.xldCore s a w) (Rules.xldOff s a w) (s.ops a (xldForm w) w).d.ty.bytes →
    bytesHeld (s.at a.core) a.thread (Rules.xldOff s a w) (s.ops a (xldForm w) w).d.ty.bytes false 0 = false →
    (s.ops a (xldForm w) w).d.loc = .mem addr →
    exec (.xld a w) s = .next (s.after a.core
      (((s.issuedCore a).mapSpm (fun m => m.put addr (m.get (Rules.xldOff s a w) (s.ops a (xldForm w) w).d.ty.bytes))).complete
        a.thread (xldForm w) w))) ∧
  (∀ (a : Site) (w : SeWord) (s : State), s.issues a (xstForm w) w = true → Rules.xstCore s a w ≠ a.core.toNat →
    Rules.reachable s (Rules.xstCore s a w) (Rules.xstOff s a w) (s.ops a (xstForm w) w).b.ty.bytes → (s.at a.core).spm.outstanding < 32 →
    exec (.xst a w) s = .next (s.after a.core
      (((s.issuedCore a).mapSpm (fun m => { m with remote := m.remote ++
          [Rules.leaving s (s.issuedCore a).seq (.xst a.thread) (Rules.xstCore s a w) (Rules.xstOff s a w)
            (.write (.clean (leBytes (s.ops a (xstForm w) w).b.ty.bytes (s.val a (s.ops a (xstForm w) w).b)))) none] })).finish
        a.thread w.len (s.ops a (xstForm w) w)))) ∧
  (∀ (a : Site) (w : SeWord) (s : State), s.issues a (xstForm w) w = true → Rules.xstCore s a w = a.core.toNat →
    Rules.reachable s (Rules.xstCore s a w) (Rules.xstOff s a w) (s.ops a (xstForm w) w).b.ty.bytes →
    bytesHeld (s.at a.core) a.thread (Rules.xstOff s a w) (s.ops a (xstForm w) w).b.ty.bytes true 1 = false →
    exec (.xst a w) s = .next (s.after a.core
      (((s.issuedCore a).mapSpm (fun m => m.put (Rules.xstOff s a w)
        (.clean (leBytes (s.ops a (xstForm w) w).b.ty.bytes (s.val a (s.ops a (xstForm w) w).b))))).finish
          a.thread w.len (s.ops a (xstForm w) w)))) ∧
  (∀ (core : CoreId) (id : Nat) (t : Fin 4) (r : Remote) (s : State), s.calm core = true →
    (s.at core).spm.inTurnOf id = some (r, .done) → r.who = .xst t → exec (.xstAck core id .intact) s = .next (s.after core (Rules.without (s.at core) id))) ∧
  (∀ (core : CoreId) (id : Nat) (t : Fin 4) (r : Remote) (s : State), s.calm core = true → (s.at core).spm.remoteOf id = some r →
    r.id = id → r.who = .xst t → r.stage = .leaving → r.dead = false →
    exec (.remoteTimeout core id) s = .next (({ s with now := max s.now (r.left + 65536) } : State).after core
      (((s.at core).mapSpm (fun m => m.mapRemote id (fun r => { r with dead := true }))).arrive t
        { cause := 0x0D, opid := 0, eng := 5, target := r.target, addr := BitVec.ofNat 32 r.offset, unit := 0 }))) ∧
  (∀ (target source : CoreId) (r : Remote) (n : Nat) (s : State), Rules.Comes s target source r → s.calm target = true →
    r.kind = .read n →
    exec (.remoteReadArrival target source [] .intact) s = .next (Rules.served s target source
      ((s.at target).granted .inbound [(r.offset, n)]) r.id (.data ((s.core target).spm.get r.offset n)))) ∧
  (∀ (target source : CoreId) (r : Remote) (x : Payload) (s : State), Rules.Comes s target source r → s.calm target = true →
    r.kind = .write x → (s.core target).spm.accepts (.core source) r.gen r.offset x.bytes.length = true →
    exec (.remoteWriteArrival target source [] .intact) s = .next (Rules.served s target source
      (((s.at target).mapSpm (fun m => m.put r.offset x)).granted .inbound [(r.offset, x.bytes.length)]) r.id .done)) ∧
  (∀ (target source : CoreId) (r : Remote) (x : Payload) (i : Fin 16) (s : State), Rules.Comes s target source r →
    s.calm target = true → r.kind = .write x → (s.core target).spm.gateOf r.offset x.bytes.length = some i →
    ((s.core target).spm.gates[i]).admits (.core source) r.gen = false → ((s.core target).spm.gates[i]).recorded = true →
    exec (.remoteWriteArrival target source [] .intact) s = .next (Rules.served s target source
      ((s.at target).mapSpm (fun m => m.mapGate i (fun g =>
        { g with fcnt := if g.fcnt = 0xFFFF then 0xFFFF else g.fcnt + 1 }))) r.id .gate)) ∧
  (∀ (target source : CoreId) (r : Remote) (found : List SpmFinding) (die : Fin 32) (pos : Option (Fin 272)) (s : State),
    s.arriving target source = some r → s.onPath source target die pos = true →
    exec (.remoteReadArrival target source found (.header die pos)) s =
      .next ((s.flitLost die pos).setCore source (((s.flitLost die pos).core source).mapSpm (fun m =>
        { m with remote := m.remote.map (fun x => if x.id == r.id then { x with stage := .lost } else x) }))))

/-! ### Tagged slots -/

namespace Sys2Proof.Rules

/-- The slot number of an SLD or SST, its core and its segment (Table 7-5). -/
def slot (s : State) (store : Bool) (a : Site) (w : SeWord) : Nat :=
  slotNum store (s.at a.core) a.thread (s.ops a (slotForm store w) w)
def slotCoreOf (s : State) (store : Bool) (a : Site) (w : SeWord) : Nat := slotCore (slot s store a w)
def seg (s : State) (store : Bool) (a : Site) (w : SeWord) : Nat := slotSeg (slot s store a w)

/-- A slot number that names a slot of the module (R218). -/
abbrev namesSlot (s : State) (n : Nat) : Prop :=
  n < 2 ^ 29 ∧ slotCore n % 256 < perDie s.ident.code ∧ 64 * slotSeg n < spmBytes s.ident.code

/-- The local access of a thread issues: its slot lies in an open tagged gate, nothing holds its bytes back, and an SST has no
earlier access of its thread to wait for, at package scope (R218, R224, R237, R246). -/
abbrev LocalSlot (s : State) (store : Bool) (a : Site) (w : SeWord) : Prop :=
  s.issues a (slotForm store w) w = true ∧ (store = true → free s a 3 = true) ∧ namesSlot s (slot s store a w) ∧ slotCoreOf s store a w = a.core.toNat ∧
  (s.at a.core).spm.slotOpen (seg s store a w) = true ∧ bytesHeld (s.at a.core) a.thread (64 * seg s store a w) 64 store 0 = false ∧
  (s.at a.core).div = none

/-- The source bytes of an SST. -/
def sstData (s : State) (a : Site) (w : SeWord) (x : Nat) : Payload :=
  if (s.ops a (sstForm w) w).a.loc = .mem x then (s.at a.core).spm.get x 64 else .empty

/-- The first tagged access of `source` that is on its way to `target` is `r`, and the gates of the target admit it. -/
abbrev TagComes (s : State) (target source : CoreId) (r : Remote) (store blocking : Bool) (x : Payload) : Prop :=
  Comes s target source r ∧ s.calm target = true ∧ r.kind.tagged = some (store, blocking, x) ∧
  (s.core target).spm.slotOpen (r.offset / 64) = true ∧ (s.core target).spm.accepts (.core source) r.gen r.offset 64 = true

/-- The access `id` of a core is at stage `st`. -/
def staged (s : State) (core : CoreId) (id : Nat) (st : RemoteStage) : State :=
  s.setCore core ((s.core core).mapSpm (fun m => m.mapRemote id (fun r => { r with stage := st })))

end Sys2Proof.Rules

/-- R217 to R220, R223: a local SLD whose slot is full, and an SST whose slot is empty, with no move due and no access before it, is
served at once: the tag takes its new state, and the 64 bytes move. One that finds the other state waits in order when it blocks;
when it does not, it completes as not done. A waiting access is served when its tag fits, and its move completes it.
Where the spec leaves a point of this open, the model's choice is in log entries 21, 23. -/
def Obligations.SlotsServeInOrder : Prop :=
  (∀ (a : Site) (w : SeWord) (addr : Nat) (s : State), Rules.LocalSlot s false a w → (s.ops a (sldForm w) w).d.loc = .mem addr →
    (s.at a.core).spm.servesNow (Rules.seg s false a w) false = true → blocks w = true →
    exec (.sld a w) s = .next (s.after a.core
      (((s.issuedCore a).mapSpm (fun m => Spm.put { m with tags := ndel m.tags (tagOf (Rules.seg s false a w)) } addr
        (m.get (64 * Rules.seg s false a w) 64))).complete a.thread (sldForm w) w))) ∧
  (∀ (a : Site) (w : SeWord) (x : Nat) (s : State), Rules.LocalSlot s true a w → (s.ops a (sstForm w) w).a.loc = .mem x →
    (s.at a.core).spm.servesNow (Rules.seg s true a w) true = true → blocks w = true →
    exec (.sst a w) s = .next (s.after a.core
      (((s.issuedCore a).mapSpm (fun m => Spm.put { m with tags := nins m.tags (tagOf (Rules.seg s true a w)) }
        (64 * Rules.seg s true a w) (m.get x 64))).complete a.thread (sstForm w) w))) ∧
  (∀ (a : Site) (w : SeWord) (s : State), Rules.LocalSlot s false a w → (s.at a.core).spm.full (Rules.seg s false a w) = false →
    blocks w = false →
    exec (.sld a w) s = .next (s.after a.core
      (((s.issuedCore a).mapR a.thread (fun r => { r with qot := 1, rem := 0 })).complete a.thread (sldForm w) w))) ∧
  (∀ (a : Site) (w : SeWord) (s : State), Rules.LocalSlot s true a w → (s.at a.core).spm.full (Rules.seg s true a w) = true →
    blocks w = false →
    exec (.sst a w) s = .next (s.after a.core
      (((s.issuedCore a).mapR a.thread (fun r => { r with qot := 1, rem := 0 })).complete a.thread (sstForm w) w))) ∧
  (∀ (core : CoreId) (g : BitVec 16) (x : SlotWait) (t : Fin 4) (n : Nat) (w : SeWord) (dl : Option Nat) (s : State),
    s.calm core = true → (s.at core).frozen = false → (s.at core).spm.moving g.toNat = false →
    (s.at core).spm.firstFit g.toNat = some x → x.who = .thread t → x.store = false → ((s.at core).th t).stall = .slot n false w dl →
    exec (.tagWaitComplete core g) s = .next (s.after core
      (((s.at core).mapSpm (fun m => { m with
          tags := ndel m.tags (tagOf x.seg), moves := m.moves ++ [(x, .empty)]
          waits := m.waits.filter (fun y => decide (y.who ≠ .thread t)) })).mapTh t
        (fun h => { h with stall := .slotMove n false w })))) ∧
  (∀ (core : CoreId) (g : BitVec 16) (x : SlotWait) (d : Payload) (who : CoreId) (id : Nat) (found : List SpmFinding) (s : State),
    s.calm core = true → (s.at core).frozen = false → (s.at core).spm.moves.find? (fun p => p.1.seg == g.toNat) = some (x, d) →
    x.who = .remote who id → x.store = true →
    exec (.tagDataMove core g found) s = .next (Rules.served s core who
      ((((s.at core).granted .inbound [(64 * x.seg, 64)]).mapSpm (fun m =>
        { m.put (64 * x.seg) d with moves := m.moves.filter (fun q => q.1.seg != x.seg) })).unverified [(64 * x.seg, 64)] found)
      id .done))

/-- R208, R219 to R223, R248: a tagged access that arrives at another core is served, and parks there while its bytes move; one that
must wait parks in order, among at most 32; one that does not block is answered NOT DONE, one beyond the 32 RETRY, to be sent
again. A withdrawal takes a parked access away. A blocking access that runs past its limit sends its withdrawal, and the answer
to an access ends its wait.
Where the spec leaves a point of this open, the model's choice is in log entries 21, 24. -/
def Obligations.TaggedAccessesOfOtherCoresArePut : Prop :=
  (∀ (target source : CoreId) (r : Remote) (store blocking : Bool) (x : Payload) (s : State),
    Rules.TagComes s target source r store blocking x → r.kind ≠ .fill →
    (s.core target).spm.servesNow (r.offset / 64) store = true →
    exec (.remoteTagArrival target source .intact) s = .next (Rules.staged
      (s.after target ((s.at target).mapSpm (fun m => { m with
        tags := if store then nins m.tags (tagOf (r.offset / 64)) else ndel m.tags (tagOf (r.offset / 64))
        moves := m.moves ++ [({ seg := r.offset / 64, who := .remote source r.id, store := store, data := x }, x)] })))
      source r.id .parked)) ∧
  (∀ (target source : CoreId) (r : Remote) (store : Bool) (x : Payload) (s : State),
    Rules.TagComes s target source r store true x → (s.core target).spm.servesNow (r.offset / 64) store = false →
    (s.core target).spm.parked < 32 →
    exec (.remoteTagArrival target source .intact) s = .next (Rules.staged
      (s.after target ((s.at target).mapSpm (fun m => { m with
        waits := m.waits ++ [{ seg := r.offset / 64, who := .remote source r.id, store := store, data := x }] })))
      source r.id .parked)) ∧
  (∀ (target source : CoreId) (r : Remote) (store : Bool) (x : Payload) (s : State),
    Rules.TagComes s target source r store true x → (s.core target).spm.servesNow (r.offset / 64) store = false →
    32 ≤ (s.core target).spm.parked →
    exec (.remoteTagArrival target source .intact) s = .next (s.deliverAnswer (source, r.id, .retry))) ∧
  (∀ (target source : CoreId) (r : Remote) (s : State), s.calm target = true →
    (s.core source).spm.remote.find? (fun r => r.target == target && r.withdrawal && decide (r.stage ≠ .lost) &&
      (decide (r.stage = .answered .retry) || (s.core target).spm.waits.any (fun x => decide (x.who = .remote source r.id)))) = some r →
    exec (.withdrawalArrival target source .intact) s = .next (Rules.served s target source
      ((s.at target).mapSpm (fun m => { m with waits := m.waits.filter (fun x => decide (x.who ≠ .remote source r.id)) })) r.id
      .withdrawn)) ∧
  (∀ (a : Site) (id d : Nat) (store : Bool) (w : SeWord) (s : State), s.calm a.core = true →
    ((s.at a.core).th a.thread).stall = .slotRemote id store w (some d) →
    exec (.tagTimeout a) s = .next (({ s with now := max s.now d } : State).after a.core
      ((s.at a.core).mapSpm (fun m => m.mapRemote id (fun r =>
        if r.withdrawal then r else { r with withdrawal := true, left := max s.now d }))))) ∧
  (∀ (a : Site) (id : Nat) (w : SeWord) (dl : Option Nat) (r : Remote) (s : State), s.calm a.core = true →
    ((s.at a.core).th a.thread).stall = .slotRemote id true w dl → ((s.at a.core).th a.thread).st = .waiting →
    (s.at a.core).spm.inTurnOf id = some (r, .done) → blocks w = true →
    exec (.remoteTagResponse a .intact) s = .next (s.after a.core
      (((Rules.without (s.at a.core) id).setSt (s.env a.core) a.thread .running).complete a.thread (sstForm w) w))) ∧
  (∀ (a : Site) (id : Nat) (store : Bool) (w : SeWord) (dl : Option Nat) (r : Remote) (s : State), s.calm a.core = true →
    ((s.at a.core).th a.thread).stall = .slotRemote id store w dl → (s.at a.core).spm.remoteOf id = some r →
    r.stage = .answered .retry →
    exec (.tagRetryResend a) s = .next (s.after a.core ((s.at a.core).mapSpm (fun m =>
      { m with remote := m.remote.filter (fun x => x.id != id) ++ [{ r with stage := .leaving }] }))))

/-! ### Threads, runners, events and exceptions -/

namespace Sys2Proof.Rules

/-- The form of THSET. -/
def thsetForm (w : SeWord) : Form := formOf (i32Ty w) (w.mod == 0) useSrc useSrc useSrc
/-- The operands of THSET: the target, the selector and the value (R103). -/
def setTarget (s : State) (a : Site) (w : SeWord) : Nat := s.val a (s.ops a (thsetForm w) w).d
def setSel (s : State) (a : Site) (w : SeWord) : Nat := s.val a (s.ops a (thsetForm w) w).a
def setVal (s : State) (a : Site) (w : SeWord) : Nat := s.val a (s.ops a (thsetForm w) w).b
/-- The operand of THGO and THSTOP, and of an event instruction. -/
def target (s : State) (a : Site) (w : SeWord) : Nat := s.val a (s.ops a (controlForm w) w).a
def event (s : State) (a : Site) (w : SeWord) : Nat := s.val a (s.ops a (eventForm w) w).a

/-- The core with the late results of thread `t` written (R87): its products in issue order, and the divider's result. -/
def settled (c : Core) (t : Fin 4) : Core := (c.flushMul t).flushDiv t

/-- The core with the results of every instruction that thread `t` has issued written (R105): those in flight of the binary32 unit,
in issue order, and the late ones. -/
def finished (c : Core) (t : Fin 4) : Core :=
  settled (((c.th t).fps.foldl (fun c r => (c.writeDest t r.dest r.bytes r.value.toNat).flag r.flags) c).mapTh t
    (fun h => { h with fps := [] })) t

end Sys2Proof.Rules

/-- R98, R102 to R107, Tables 4-1 and 4-2: thread 0 sets a register of an idle thread and starts it; THSTOP of an idle thread does
nothing, and of a live one waits until it is at a boundary, when it stops with its late results written; THEND leaves its thread
INACTIVE with its program counter past the instruction.
Where the spec leaves a point of this open, the model's choice is in log entry 3. -/
def Obligations.ThreadZeroControlsTheOthers : Prop :=
  (∀ (a : Site) (w : SeWord) (i : Fin 8) (s : State), s.issues a (Rules.thsetForm w) w = true → a.thread = 0 →
    0 < Rules.setTarget s a w → Rules.setTarget s a w < 4 →
    ((s.at a.core).th (Fin.ofNat 4 (Rules.setTarget s a w))).st.idle = true → Rules.setSel s a w = i.val →
    exec (.thset a w) s = .next (s.after a.core
      (((s.issuedCore a).mapR (Fin.ofNat 4 (Rules.setTarget s a w)) (fun r =>
        { r with a := r.a.set i (BitVec.ofNat 32 (Rules.setVal s a w)) })).finish a.thread w.len (s.ops a (Rules.thsetForm w) w)))) ∧
  (∀ (a : Site) (w : SeWord) (s : State), s.issues a (Rules.thsetForm w) w = true → a.thread = 0 →
    0 < Rules.setTarget s a w → Rules.setTarget s a w < 4 →
    ((s.at a.core).th (Fin.ofNat 4 (Rules.setTarget s a w))).st.idle = true → Rules.setSel s a w = 0x19 →
    Rules.setVal s a w % 4 = 0 →
    exec (.thset a w) s = .next (s.after a.core
      (((s.issuedCore a).mapR (Fin.ofNat 4 (Rules.setTarget s a w)) (fun r =>
        { r with pc := BitVec.ofNat 32 (Rules.setVal s a w) })).finish a.thread w.len (s.ops a (Rules.thsetForm w) w)))) ∧
  (∀ (a : Site) (w : SeWord) (s : State), s.issues a (controlForm w) w = true → a.thread = 0 → w.mod = 0 →
    0 < Rules.target s a w → Rules.target s a w < 4 →
    ((s.at a.core).th (Fin.ofNat 4 (Rules.target s a w))).st.idle = true →
    exec (.thgo a w) s = .next (s.after a.core
      (((s.issuedCore a).setSt (s.env a.core) (Fin.ofNat 4 (Rules.target s a w)) .running).finish a.thread w.len
        (s.ops a (controlForm w) w)))) ∧
  (∀ (a : Site) (w : SeWord) (s : State), s.issues a (controlForm w) w = true → a.thread = 0 → w.mod = 1 →
    0 < Rules.target s a w → Rules.target s a w < 4 →
    ((s.at a.core).th (Fin.ofNat 4 (Rules.target s a w))).st = .running →
    ((s.at a.core).th (Fin.ofNat 4 (Rules.target s a w))).stall = .none →
    exec (.thstop a w) s = .next (s.after a.core
      (((s.issuedCore a).mapTh (Fin.ofNat 4 (Rules.target s a w)) (fun h => { h with stopAsked := true })).mapTh a.thread
        (fun h => { h with stall := .thstop (Fin.ofNat 4 (Rules.target s a w)) w })))) ∧
  (∀ (a : Site) (w : SeWord) (s : State), s.issues a (controlForm w) w = true → a.thread = 0 → w.mod = 1 →
    0 < Rules.target s a w → Rules.target s a w < 4 →
    ((s.at a.core).th (Fin.ofNat 4 (Rules.target s a w))).st.idle = true →
    exec (.thstop a w) s = .next (s.after a.core ((s.issuedCore a).finish a.thread w.len (s.ops a (controlForm w) w)))) ∧
  (∀ (core : CoreId) (t : Fin 4) (w : SeWord) (s : State), s.calm core = true → ((s.at core).th 0).stall = .thstop t w →
    ((s.at core).th 0).st = .running → t ≠ 0 → ((s.at core).th t).st = .running → ((s.at core).th t).stall = .none →
    (s.at core).frozen = false →
    exec (.thstopComplete core t) s = .next (s.after core
      (((((Rules.finished (s.at core) t).setSt (s.env core) t .stopped).mapTh t (fun h => { h with stopAsked := false })).complete 0
        (controlForm w) w)))) ∧
  (∀ (a : Site) (w : SeWord) (u : Fin 4) (s : State), s.issues a (thendForm w) w = true → w.mod = 2 → u ≠ a.thread →
    ((s.at a.core).th u).st = .running →
    exec (.thend a w) s = .next (s.after a.core
      (((Rules.settled (s.issuedCore a) a.thread).mapR a.thread (fun r =>
        { r with pc := r.pc + BitVec.ofNat 32 (4 * (w.len.toNat + 1)) })).setSt (s.env a.core) a.thread .inactive)))

namespace Sys2Proof.Rules

/-- The runner that an RSEND names, and the one that an RRECV names. -/
def sendTo (s : State) (a : Site) (f : Form) (w : SeWord) : Fin 8 := Fin.ofNat 8 (s.val a (s.ops a f w).d)
def recvFrom (s : State) (a : Site) (w : SeWord) : Fin 8 := Fin.ofNat 8 (s.val a (s.ops a (rrecvForm w) w).a)

/-- The thread may send on the runner: its number, its EN and its mask (R112); no earlier access of the thread is left to wait for
at core scope (R117, R246). -/
abbrev maySend (s : State) (a : Site) (f : Form) (w : SeWord) : Prop :=
  s.issues a f w = true ∧ free s a 1 = true ∧ s.val a (s.ops a f w).d < 8 ∧ ((s.at a.core).runners[sendTo s a f w]).en = true ∧
  (((s.at a.core).runners[sendTo s a f w]).send).getLsbD a.thread.val = true

/-- The core with words at the end of a runner. -/
def sent (c : Core) (n : Fin 8) (ws : List DWord) : Core :=
  { c with runners := c.runners.set n { c.runners[n] with words := (c.runners[n]).words ++ ws } }

/-- The core with a thread last among those that wait to send. -/
def wantsToSend (c : Core) (n : Fin 8) (t : Fin 4) (ws : List DWord) : Core :=
  { c with runners := c.runners.set n { c.runners[n] with sendWait := (c.runners[n]).sendWait ++ [(t, ws)] } }

/-- The thread waits (R98). -/
def waiting (c : Core) (e : Env) (t : Fin 4) (st : Stall) : Core := (c.mapTh t (fun h => { h with stall := st })).setSt e t .waiting

end Sys2Proof.Rules

/-- R108 to R112: RSEND and RSEND4 put their words at the end of a runner that has room and no sender waiting, and wait in order
otherwise; RRECV takes the first word, and waits in order for one; a wait completes when the words or the room are there.
Where the spec leaves a point of this open, the model's choice is in log entries 3, 18. -/
def Obligations.RunnersPassWordsInOrder : Prop :=
  (∀ (a : Site) (w : SeWord) (s : State), Rules.maySend s a (rsendForm w) w → w.mod = 0 →
    ((s.at a.core).runners[Rules.sendTo s a (rsendForm w) w]).sendWait = [] →
    ((s.at a.core).runners[Rules.sendTo s a (rsendForm w) w]).words.length < 4 →
    exec (.rsend a w) s = .next (s.after a.core
      ((Rules.sent (s.issuedCore a) (Rules.sendTo s a (rsendForm w) w)
        [BitVec.ofNat 64 (s.val a (s.ops a (rsendForm w) w).a)]).finish a.thread w.len (s.ops a (rsendForm w) w)))) ∧
  (∀ (a : Site) (w : SeWord) (s : State), Rules.maySend s a (rsend4Form w) w → w.mod = 1 →
    ((s.at a.core).runners[Rules.sendTo s a (rsend4Form w) w]).sendWait = [] →
    ((s.at a.core).runners[Rules.sendTo s a (rsend4Form w) w]).words = [] →
    exec (.rsend4 a w) s = .next (s.after a.core
      ((Rules.sent (s.issuedCore a) (Rules.sendTo s a (rsend4Form w) w)
        ((List.range 4).map (fun i => BitVec.ofNat 64 (s.val a (s.ops a (rsend4Form w) w).a / 2 ^ (64 * i))))).finish a.thread w.len
          (s.ops a (rsend4Form w) w)))) ∧
  (∀ (a : Site) (w : SeWord) (u : Fin 4) (s : State), Rules.maySend s a (rsend4Form w) w → w.mod = 1 → u ≠ a.thread →
    ((s.at a.core).th u).st = .running →
    ((s.at a.core).runners[Rules.sendTo s a (rsend4Form w) w]).words ≠ [] →
    exec (.rsend4 a w) s = .next (s.after a.core
      (Rules.waiting
        (Rules.wantsToSend (s.issuedCore a) (Rules.sendTo s a (rsend4Form w) w) a.thread
          ((List.range 4).map (fun i => BitVec.ofNat 64 (s.val a (s.ops a (rsend4Form w) w).a / 2 ^ (64 * i)))))
        (s.env a.core) a.thread (.runner (Rules.sendTo s a (rsend4Form w) w) false w)))) ∧
  (∀ (a : Site) (w : SeWord) (x : DWord) (xs : List DWord) (s : State), s.issues a (rrecvForm w) w = true → w.mod = 2 →
    s.val a (s.ops a (rrecvForm w) w).a < 8 → ((s.at a.core).runners[Rules.recvFrom s a w]).en = true →
    (((s.at a.core).runners[Rules.recvFrom s a w]).recv).getLsbD a.thread.val = true →
    ((s.at a.core).runners[Rules.recvFrom s a w]).recvWait = [] → ((s.at a.core).runners[Rules.recvFrom s a w]).words = x :: xs →
    exec (.rrecv a w) s = .next (s.after a.core
      ((((s.issuedCore a).setRunner (Rules.recvFrom s a w)
        { (s.at a.core).runners[Rules.recvFrom s a w] with words := xs }).writeDest a.thread (s.ops a (rrecvForm w) w).d.dest
          (s.ops a (rrecvForm w) w).d.ty.bytes x.toNat).finish a.thread w.len (s.ops a (rrecvForm w) w)))) ∧
  (∀ (core : CoreId) (n : Fin 8) (t : Fin 4) (ts : List (Fin 4)) (x : DWord) (xs : List DWord) (w : SeWord)
    (found : List SpmFinding) (s : State),
    s.calm core = true → (s.at core).frozen = false → ((s.at core).runners[n]).recvWait = t :: ts →
    ((s.at core).runners[n]).words = x :: xs → ((s.at core).th t).stall = .runner n true w →
    exec (.runnerWaitComplete core n true found) s = .next (s.after core
      ((((((s.at core).setRunner n { (s.at core).runners[n] with words := xs, recvWait := ts }).writeDest t
        (operands (rrecvForm w) w ((s.at core).th t).r).d.dest (operands (rrecvForm w) w ((s.at core).th t).r).d.ty.bytes
          x.toNat).unverified (operands (rrecvForm w) w ((s.at core).th t).r).writeRanges found).setSt (s.env core) t
            .running).complete t (rrecvForm w) w))) ∧
  (∀ (core : CoreId) (n : Fin 8) (t : Fin 4) (ws : List DWord) (rest : List (Fin 4 × List DWord)) (w : SeWord) (s : State),
    s.calm core = true → (s.at core).frozen = false → ((s.at core).runners[n]).sendWait = (t, ws) :: rest →
    ((s.at core).runners[n]).words.length + ws.length ≤ 4 → ((s.at core).th t).stall = .runner n false w →
    exec (.runnerWaitComplete core n false) s = .next (s.after core
      ((((s.at core).setRunner n
        { (s.at core).runners[n] with words := ((s.at core).runners[n]).words ++ ws, sendWait := rest }).setSt (s.env core) t
          .running).complete t (runnerForm w) w)))

namespace Sys2Proof.Rules

/-- R113: a counter that gains `k` stops at 0xFFFF, and then its overflow bit is set. -/
def gained (v : Events) (n : Fin 32) (k : Nat) : Events :=
  { v with ev := v.ev.set n (BitVec.ofNat 16 (min 0xFFFF ((v.ev[n]).toNat + k)))
           ovf := if 0xFFFF < (v.ev[n]).toNat + k then v.ovf ||| (1 <<< n.val) else v.ovf }

/-- The count of an event operand: 0 stands for 1 (Table 4-4). -/
def count (v : Nat) : Nat := max 1 (v / 256 % 256)

/-- An event instruction whose operand is legal issues (Table 4-4). -/
abbrev EventIssues (s : State) (a : Site) (w : SeWord) (mod : BitVec 2) : Prop :=
  s.issues a (eventForm w) w = true ∧ w.mod = mod ∧ event s a w < 65536 ∧ event s a w / 32 % 8 = 0

end Sys2Proof.Rules

/-- R113 to R116, R119, R120: SETEV adds its count, with saturation; WAITEV takes its count when it is there and nobody waits
before it, and waits in order otherwise; CLREV clears; the first waiter whose count has come is served; the event timer sets its
event at its time and stops. A core in which every thread waits for the core itself freezes: each waiting thread records the cause
with its blocked instruction, and the record leaves with the thread states and the events waited on.
Where the spec leaves a point of this open, the model's choice is in log entry 3. -/
def Obligations.EventsCountAndWaitersAreServed : Prop :=
  (∀ (a : Site) (w : SeWord) (s : State), Rules.EventIssues s a w 0 → Rules.free s a 1 = true →
    exec (.setev a w) s = .next (s.after a.core
      (((s.issuedCore a).setEvents (Rules.gained (s.at a.core).events (Fin.ofNat 32 (Rules.event s a w))
        (Rules.count (Rules.event s a w)))).finish a.thread w.len (s.ops a (eventForm w) w)))) ∧
  (∀ (a : Site) (w : SeWord) (s : State), Rules.EventIssues s a w 1 →
    ((s.at a.core).events.waiters[Fin.ofNat 32 (Rules.event s a w)]) = [] →
    Rules.count (Rules.event s a w) ≤ ((s.at a.core).events.ev[Fin.ofNat 32 (Rules.event s a w)]).toNat →
    exec (.waitev a w) s = .next (s.after a.core
      (((s.issuedCore a).setEvents { (s.at a.core).events with
        ev := (s.at a.core).events.ev.set (Fin.ofNat 32 (Rules.event s a w))
          (BitVec.ofNat 16 (((s.at a.core).events.ev[Fin.ofNat 32 (Rules.event s a w)]).toNat - Rules.count (Rules.event s a w)))
        }).finish a.thread w.len (s.ops a (eventForm w) w)))) ∧
  (∀ (a : Site) (w : SeWord) (u : Fin 4) (s : State), Rules.EventIssues s a w 1 → u ≠ a.thread → ((s.at a.core).th u).st = .running →
    ((s.at a.core).events.ev[Fin.ofNat 32 (Rules.event s a w)]).toNat < Rules.count (Rules.event s a w) →
    exec (.waitev a w) s = .next (s.after a.core
      (Rules.waiting ((s.issuedCore a).setEvents { (s.at a.core).events with
          waiters := (s.at a.core).events.waiters.set (Fin.ofNat 32 (Rules.event s a w))
            ((s.at a.core).events.waiters[Fin.ofNat 32 (Rules.event s a w)] ++ [a.thread]) })
        (s.env a.core) a.thread (.event (Fin.ofNat 32 (Rules.event s a w)) (Rules.count (Rules.event s a w)) w)))) ∧
  (∀ (a : Site) (w : SeWord) (s : State), Rules.EventIssues s a w 2 → Rules.event s a w < 32 →
    exec (.clrev a w) s = .next (s.after a.core
      (((s.issuedCore a).setEvents { (s.at a.core).events with
        ev := (s.at a.core).events.ev.set (Fin.ofNat 32 (Rules.event s a w)) 0 }).finish a.thread w.len (s.ops a (eventForm w) w)))) ∧
  (∀ (core : CoreId) (n : Fin 32) (t : Fin 4) (ts : List (Fin 4)) (m : Fin 32) (need : Nat) (w : SeWord) (s : State),
    s.calm core = true → (s.at core).frozen = false → (s.at core).events.waiters[n] = t :: ts →
    ((s.at core).th t).stall = .event m need w → need ≤ ((s.at core).events.ev[n]).toNat →
    exec (.eventWaitComplete core n) s = .next (s.after core
      ((((s.at core).setEvents { (s.at core).events with
        ev := (s.at core).events.ev.set n (BitVec.ofNat 16 (((s.at core).events.ev[n]).toNat - need))
        waiters := (s.at core).events.waiters.set n ts }).setSt (s.env core) t .running).complete t (eventForm w) w))) ∧
  (∀ (core : CoreId) (s : State), s.calm core = true → (s.at core).events.tmrEn = true →
    exec (.eventTimerExpiry core) s = .next (({ s with now := max s.now (s.at core).events.tmrDue } : State).after core
      ((s.at core).setEvents { Rules.gained (s.at core).events (Fin.ofNat 32 (s.at core).events.tmrEv.toNat) 1 with
        tmrEn := false, tmrCnt := 0 }))) ∧
  (∀ (core : CoreId) (t : Fin 4) (s : State), s.calm core = true → (s.at core).released = true → (s.at core).frozen = false →
    (s.at core).deadlocked (s.env core) = true → ((s.at core).th t).st = .waiting →
    ∃ s', exec (.allThreadsWaiting core) s = .next s' ∧ (s'.core core).frozen = true ∧
      ((s'.core core).th t).x.cause = 0x0E ∧ ((s'.core core).th t).x.pc = ((s.at core).th t).r.pc ∧
      ((s'.core core).th t).st = .waiting)

namespace Sys2Proof.Rules

/-- The core after thread `t` has halted for the debug service with a cause: the results of what it has issued written, DBGSTAT and DBGPC set (R121,
R523). -/
def haltedCore (c : Core) (e : Env) (t : Fin 4) (cause : BitVec 4) : Core :=
  let d := ((finished c t).setSt e t .halted).mapTh t (fun h => { h with haltAsked := 0, stepped := false })
  Core.trace e 2 4 t cause.toNat (c.th t).r.pc.toNat 0
    { d with dbg := { d.dbg with stat := d.dbg.stat.set t cause, pc := d.dbg.pc.set t (c.th t).r.pc } }

/-- A session is attached that stops one thread at a time (R525). -/
abbrev alone (s : State) (id : CoreId) : Prop :=
  s.calm id = true ∧ (s.at id).dbg.attached = true ∧ (s.at id).dbg.haltall = false ∧ (s.at id).dbg.xtrig = false

end Sys2Proof.Rules

/-- R87, R93, R95 to R97, Table 3-13: an exception records its cause, detail, address and the program counter, with the late results
of its thread written. A handleable one, with EXC_VEC.EN 1 and STATUS.EXC 0, sets STATUS.EXC and goes on at EXC_VEC.HANDLER; any
other stops the thread and a record of severity fatal-to-job leaves. Both leave the other threads and the scratchpad alone.
R71, R93, R94: an encoding that is not legal raises ILLEGAL_INSN with nothing of the instruction done, whatever integer
instruction it names; the lowest cause of several is the one that is taken.
Where the spec leaves a point of this open, the model's choice is in log entries 14, 15, 38. -/
def Obligations.ExceptionsAreRaisedAndTaken : Prop :=
  (∀ (e : Env) (t : Fin 4) (ex : Exc) (imp : Bool) (c : Core),
    let d := c.takeExc e t ex imp
    ((d.th t).x.cause = ex.cause ∧ (d.th t).x.opid = ex.opid ∧ (d.th t).x.eng = ex.eng ∧ (d.th t).x.target = ex.target ∧
      (d.th t).x.addr = ex.addr ∧ (d.th t).x.pc = (c.th t).r.pc ∧ (d.th t).muls = [] ∧ (d.th t).r.mh = ((Rules.settled c t).th t).r.mh ∧
      (d.th t).r.qot = ((Rules.settled c t).th t).r.qot) ∧
    (handleable ex.cause = true → (c.th t).x.vec.getLsbD 0 = true → (c.th t).x.exc = false →
      (d.th t).x.exc = true ∧ (d.th t).x.imprecise = imp ∧ (d.th t).r.pc = (c.th t).x.vec &&& 0xFFFFFFFC ∧
      (d.th t).st = (c.th t).st ∧ d.out = c.out) ∧
    ((handleable ex.cause = false ∨ (c.th t).x.vec.getLsbD 0 = false ∨ (c.th t).x.exc = true) →
      (d.th t).st = .faulted ∧ (d.th t).r.pc = (c.th t).r.pc ∧ (d.th t).x.exc = (c.th t).x.exc ∧
      (d.th t).x.imprecise = ((c.th t).x.imprecise || imp) ∧
      ∃ p, d.out.posts = c.out.posts ++ [p] ∧ p.sev = 2 ∧ p.cause = ex.cause.setWidth 16 ∧ p.coreFault = true) ∧
    (∀ u, u ≠ t → d.th u = c.th u) ∧ d.spm = c.spm ∧ d.ve = c.ve ∧ d.me = c.me ∧ d.de = c.de ∧ d.runners = c.runners ∧
    d.events = c.events) ∧
  (∀ (i : Instr) (a : Site) (w : SeWord) (f : Form) (s : State), Rules.alu i = some (a, w, f) →
    s.turnOf a w.len = true → legal f w = false →
    ((s.at a.core).th a.thread).x.vec.getLsbD 0 = true → ((s.at a.core).th a.thread).x.exc = false →
    exec i s = .next (s.after a.core ((s.issuedCore a).takeExc (s.env a.core) a.thread
      { cause := 0x01, opid := 0, eng := 4, target := 0, addr := 0, unit := 4 } false))) ∧
  (∀ (xs : List Exc) (x : Exc), lowestExc xs = some x → x ∈ xs ∧ ∀ y ∈ xs, x.cause ≤ y.cause) ∧
  (∀ (f : Form) (w : SeWord), legal f w = true →
    w.len ≠ 3 ∧ f.ok = true ∧ ∃ x y z, formBits f w = some (x, y, z) ∧ x + y + z ≤ 32 * w.len.toNat ∧
      32 * w.len.toNat < x + y + z + 32 ∧ w.ext.toNat < 2 ^ (x + y + z))

/-- R93, R96, R97, R121, R523 to R525, R528: ERET goes back to EXC_PC with STATUS.EXC clear; BRK raises BREAKPOINT, or halts its
thread for an attached session; an imprecise exception that has reached its thread is taken before the next instruction, or held
while STATUS.EXC is 1; breakpoints, watchpoints and single step halt a thread before its next instruction with their cause, and a
cross trigger halts every running thread.
Where the spec leaves a point of this open, the model's choice is in log entries 37, 38. -/
def Obligations.ReturnsAndStopsAreTaken : Prop :=
  (∀ (a : Site) (w : SeWord) (s : State), s.issues a (Machine.bareForm w) w = true → w.mod = 0 →
    ((s.at a.core).th a.thread).x.exc = true → ((s.at a.core).th a.thread).x.pc.toNat % 4 = 0 →
    exec (.eret a w) s = .next (s.after a.core
      (((s.issuedCore a).mapTh a.thread (fun h => { h with
          x := { h.x with exc := false, imprecise := false, pend := false }
          r := { h.r with pc := h.x.pc }
          held := none
          arrived := h.held.toList ++ h.arrived })).trace (s.env a.core) 1 3 a.thread 0
        ((s.at a.core).th a.thread).r.pc.toNat ((s.at a.core).th a.thread).x.pc.toNat))) ∧
  (∀ (a : Site) (w : SeWord) (s : State), s.issues a (Machine.bareForm w) w = true → w.mod = 1 → (s.at a.core).dbg.attached = false →
    ((s.at a.core).th a.thread).x.vec.getLsbD 0 = true → ((s.at a.core).th a.thread).x.exc = false →
    exec (.brk a w) s = .next (s.after a.core ((s.issuedCore a).takeExc (s.env a.core) a.thread
      { cause := 0x0F, opid := 0, eng := 0, target := 0, addr := 0, unit := 0 } false))) ∧
  (∀ (a : Site) (w : SeWord) (s : State), s.issues a (Machine.bareForm w) w = true → w.mod = 1 → Rules.alone s a.core →
    exec (.brk a w) s = .next (s.after a.core ((Rules.haltedCore (s.issuedCore a) (s.env a.core) a.thread 2).advance a.thread w.len))) ∧
  (∀ (a : Site) (x : Exc) (xs : List Exc) (s : State), s.calm a.core = true → (s.at a.core).released = true →
    (s.at a.core).frozen = false → ((s.at a.core).th a.thread).st = .running → ((s.at a.core).th a.thread).stall = .none →
    ((s.at a.core).th a.thread).stopAsked = false → ((s.at a.core).th a.thread).arrived = x :: xs →
    ((s.at a.core).th a.thread).x.exc = false → handleable x.cause = true → ((s.at a.core).th a.thread).x.vec.getLsbD 0 = true →
    exec (.impreciseExcDelivery a) s = .next (s.after a.core
      (((s.at a.core).mapTh a.thread (fun h => { h with arrived := xs })).takeExc (s.env a.core) a.thread x true))) ∧
  (∀ (a : Site) (x : Exc) (xs : List Exc) (s : State), s.calm a.core = true → (s.at a.core).released = true →
    (s.at a.core).frozen = false → ((s.at a.core).th a.thread).st = .running → ((s.at a.core).th a.thread).stall = .none →
    ((s.at a.core).th a.thread).stopAsked = false → ((s.at a.core).th a.thread).arrived = x :: xs →
    ((s.at a.core).th a.thread).x.exc = true → ((s.at a.core).th a.thread).held = none →
    exec (.impreciseExcDelivery a) s = .next (s.after a.core
      ((s.at a.core).mapTh a.thread (fun h => { h with arrived := xs, held := some x, x := { h.x with pend := true } })))) ∧
  (∀ (a : Site) (s : State), Rules.alone s a.core → (s.at a.core).atBoundary a.thread = true → (s.at a.core).bpHit a.thread = true →
    (s.at a.core).dbg.bp.all (fun b => !b.trstop && !b.trstart) = true →
    exec (.breakpointMatch a) s = .next (s.after a.core (Rules.haltedCore (s.at a.core) (s.env a.core) a.thread 3))) ∧
  (∀ (a : Site) (addr : BitVec 22) (bytes : Nat) (store : Bool) (s : State), Rules.alone s a.core →
    (s.at a.core).atBoundary a.thread = true → (s.at a.core).bpHit a.thread = false →
    watchHit (s.at a.core) a.thread addr.toNat bytes (!store) store = true →
    exec (.watchpointMatch a addr bytes store) s = .next (s.after a.core
      (Rules.haltedCore ((s.at a.core).trace (s.env a.core) 6 9 a.thread 0 ((s.at a.core).th a.thread).r.pc.toNat addr.toNat)
        (s.env a.core) a.thread 4))) ∧
  (∀ (a : Site) (s : State), Rules.alone s a.core → (s.at a.core).atBoundary a.thread = true →
    ((s.at a.core).th a.thread).x.sstep = true → ((s.at a.core).th a.thread).stepped = true →
    exec (.singleStep a) s = .next (s.after a.core (Rules.haltedCore (s.at a.core) (s.env a.core) a.thread 5))) ∧
  (∀ (core : CoreId) (s : State), s.calm core = true → (s.at core).dbg.crossAsked = true →
    ∃ s', exec (.crossTrigger core) s = .next s' ∧ (s'.core core).dbg.crossAsked = false ∧
      ∀ t, ((s.at core).th t).st = .running → ((s.at core).th t).stall = .none →
        ((s'.core core).th t).st = .halted ∧ (s'.core core).dbg.stat[t] = 6)

/-- R204, R205, R199, R193, R203, R528: the trace writes its oldest entry at TRPTR, and a sync entry at each multiple of 2^30 ns; a
request that has aged is served before the scrub read of its bank; a scrub read that is granted moves to the next row, and what it
corrects is to be written back.
Where the spec leaves a point of this open, the model's choice is in log entries 36, 37. -/
def Obligations.ScrubbersAndTracesGoOn : Prop :=
  (∀ (core : CoreId) (x : Vector Word 4) (xs : List (Vector Word 4)) (found : List SpmFinding) (s : State), s.calm core = true →
    (s.at core).dbg.buf = x :: xs →
    (s.at core).dbg.trptr.toNat + 16 ≤ spmBytes s.ident.code → (s.at core).dbg.trptr.toNat + 16 < (s.at core).dbg.trlimit.toNat →
    exec (.traceEntryWrite core found) s = .next (s.after core
      { ((s.at core).mapSpm (fun m => m.write (s.at core).dbg.trptr.toNat (x.toList.flatMap (fun w => leBytes 4 w.toNat)))).unverified
          [((s.at core).dbg.trptr.toNat, 16)] found with
        dbg := { (s.at core).dbg with buf := xs, trptr := (s.at core).dbg.trptr + 16 } })) ∧
  (∀ (core : CoreId) (s : State), s.calm core = true → (s.at core).dbg.attached = true → (s.at core).dbg.tren = true →
    (s.at core).dbg.buf.length < 64 → s.now % 2 ^ 30 = 0 →
    exec (.traceSync core) s = .next (s.after core
      { s.at core with dbg := { (s.at core).dbg with
        buf := (s.at core).dbg.buf ++ [#v[0, 0, BitVec.ofNat 32 (s.now / 2 ^ 32), BitVec.ofNat 32 s.now]] } })) ∧
  (∀ (core : CoreId) (b : Fin 16) (p : SpmPort) (s : State), s.calm core = true → p ≠ .scrub →
    exec (.requestAged core b p) s = .next (s.after core ((s.at core).mapScrub b (fun x =>
      if p ∈ x.agedPorts then x else { x with agedPorts := x.agedPorts ++ [p] })))) ∧
  (∀ (core : CoreId) (b : Fin 16) (s : State), s.calm core = true →
    exec (.meRequestAged core b) s = .next (s.after core
      (if (s.at core).me.run.any (fun o => onBank (o.ranked (s.at core).me.cfg) b) then
        (s.at core).mapScrub b (fun x => { x with meAged := true }) else s.at core)) ∧
    exec (.scrubAged core b) s = .next (s.after core ((s.at core).mapScrub b (fun x => { x with aged := true }))) ∧
    exec (.spmCorrectedWriteback core b) s = .next (s.after core
      ((s.at core).mapScrub b (fun x => { x with writebacks := x.writebacks.tail })))) ∧
  (∀ (core : CoreId) (b : Fin 16) (p : SpmPort) (ps : List SpmPort) (found : List WordFinding) (s : State), s.calm core = true →
    ((s.at core).spm.scrub[b]).agedPorts = p :: ps → ((s.at core).spm.scrub[b]).aged = false →
    exec (.scrubRead core b found) s = .next (s.after core ((s.at core).mapScrub b (fun x => { x with agedPorts := ps })))) ∧
  (∀ (c : Core) (b : Fin 16) (p : SpmPort) (rs : List (Nat × Nat)),
    ((c.granted p rs).spm.scrub[b]).agedPorts =
        (if onBank rs b then ((c.spm.scrub[b]).agedPorts).filter (fun q => decide (q ≠ p)) else (c.spm.scrub[b]).agedPorts) ∧
      (c.granted p rs).spm.mem = c.spm.mem ∧ (c.granted p rs).spm.poison = c.spm.poison) ∧
  (∀ (core : CoreId) (b : Fin 16) (s : State), s.calm core = true → (s.at core).spm.poison = [] →
    ((s.at core).spm.scrub[b]).agedPorts = [] → 1024 * (((s.at core).spm.scrub[b]).row + 1) < spmBytes s.ident.code →
    exec (.scrubRead core b []) s = .next (s.after core ((s.at core).mapScrub b (fun x =>
      { x with row := x.row + 1, aged := false })))) ∧
  (∀ (core : CoreId) (b : Fin 16) (w : Fin 8) (bit : BitVec 7) (s : State), s.calm core = true →
    ((s.at core).spm.scrub[b]).agedPorts = [] → 1024 * (((s.at core).spm.scrub[b]).row + 1) < spmBytes s.ident.code →
    (b.val, ((s.at core).spm.scrub[b]).row) ∉ (s.at core).spm.spares →
    ∃ s', exec (.scrubRead core b [.corrected w bit]) s = .next s' ∧
      ((s'.core core).spm.scrub[b]).row = ((s.at core).spm.scrub[b]).row + 1 ∧
      ((s'.core core).spm.scrub[b]).writebacks = ((s.at core).spm.scrub[b]).writebacks ++
        [128 * ((s.at core).spm.scrub[b]).row + 8 * b.val + w.val] ∧
      (s'.core core).spm.mem = (s.at core).spm.mem ∧ (s'.core core).spm.poison = (s.at core).spm.poison)

/-! ### Pours and the flask -/

namespace Sys2Proof.Rules

/-- The block with the flask state `f`. -/
def withFlask (s : State) (f : Flask) : State := { s with flask := f }

/-- A message of the pour protocol, just sent. -/
def peer (s : State) (dest : ModuleId) (kind : PeerKind) (n : Word) : PeerMsg := { dest := dest, kind := kind, n := n, sent := s.now }

/-- A message of the pour protocol to every module of the job, just sent. -/
def toAll (s : State) (kind : PeerKind) (n : Word) : List PeerMsg := s.pourMods.map (fun m => peer s m kind n)

/-- The messages that are not of a kind. -/
def unacked (s : State) (k : PeerKind) : List PeerMsg := s.flask.unacked.filter (fun m => !decide (m.kind = k))

/-- The messages that are not the one of a kind and a pour to a module. -/
def answeredBy (s : State) (k : PeerKind) (m : ModuleId) (n : Word) : List PeerMsg :=
  s.flask.unacked.filter (fun x => !decide (x.kind = k ∧ x.dest = m ∧ x.n = n))

/-- The barrier's end: that of the time that runs, or one that begins now (R396). -/
def barrier (s : State) : Option Nat :=
  some (s.flask.barrier.getD (s.now + (match s.flask.decl with | some d => d.timeoutS.toNat | none => 0) * 10 ^ 9))

/-- A message of the module `m` of the job reaches the coordinator, this module. -/
abbrev heard (s : State) (m : ModuleId) : Prop := s.coordinator = some s.self ∧ m ∈ s.pourMods

/-- With `m`, every module of the job is in a list; without it one is missing. -/
abbrev last (s : State) (l : List ModuleId) (m : ModuleId) : Prop := ∀ x ∈ s.pourMods, x = m ∨ x ∈ l
abbrev waits (s : State) (l : List ModuleId) (m : ModuleId) : Prop := ∃ x ∈ s.pourMods, x ≠ m ∧ x ∉ l
def joined (l : List ModuleId) (m : ModuleId) : List ModuleId := if m ∈ l then l else l ++ [m]

/-- The message of the module `m` of the job is one for which the coordinator waits at this step of pour `n` (R393). -/
abbrev awaited (s : State) (m : ModuleId) (n : Word) (c : CoordStep) : Prop := heard s m ∧ s.flask.coord = c ∧ n = s.flask.decided

/-- A core of the job has come to POUR: at the coordinator the barrier's time runs (R396). -/
def poured (s : State) (id : CoreId) (d : Core) : State :=
  if s.coordinates = true ∧ id ∈ s.pourCores ∧ (s.core id).pourArrived = false then
    withFlask (s.after id d) { s.flask with barrier := barrier s }
  else s.after id d

/-- The partner is told of a committed pour (R393 step 10). -/
def told (s : State) (n : Word) : State :=
  if s.active.bind.en then
    withFlask s { s.flask with unacked := s.flask.unacked ++ [peer s s.active.bind.partner .partnerCommit n] }
  else s

/-- The core arrives: it is one of the job's, has not arrived, and meets the conditions of R394. -/
abbrev arrives (s : State) (core : CoreId) : Prop :=
  core ∈ s.pourCores ∧ (s.core core).pourArrived = false ∧ (s.core core).mayArrive (s.env core) = true

end Sys2Proof.Rules

/-- R394 to R396, Table 13-2: POUR holds thread 0 of a core whose job has a pour policy; a core whose threads and engines have
nothing outstanding arrives, and with the last core of the module ARRIVED goes to the coordinator.
R387, R389, R393, R396, R407, Table 13-2: the steps of a pour, of a job on one module or on many. The coordinator collects ARRIVED
and, with the last, sends SAVE to every module, or ABANDON when the pour is skipped, and a repeated ARRIVED says nothing new; a module
whose pour before is still in TAIL or READY arrives too; SAVE writes the save records; the boundary
makes the dirty set the tail and begins the interval, with the indices of a remap on their new cores; SAVED, RESUME, READY and COMMIT
follow, each acknowledging the one before, and those to the coordinator waiting for the last module; the commit makes the pour the
restore point, frees the copies of the generation before, lets the host's writes that waited for them be performed, and is told to the
partner. The barrier's time begins with the first core of the coordinator in POUR, or the first ARRIVED. A barrier that runs out abandons the pour, and
messages without answer are sent again. Each of these commands completes in every state that meets its conditions.
Where the spec leaves a point of this open, the model's choice is in log entries 56, 58, 59, 128. -/
def Obligations.PoursGoThroughTheirSteps : Prop :=
  (∀ (a : Site) (w : SeWord) (s : State), s.issues a (Machine.bareForm w) w = true → w.mod = 2 → a.thread = 0 →
    (s.env a.core).pours = true →
    exec (.pour a w) s = .next (Rules.poured s a.core ((s.issuedCore a).mapTh a.thread (fun h => { h with stall := .pour w })))) ∧
  (∀ (core : CoreId) (s : State), Rules.arrives s core → s.flask.pstate = .open_ ∨ s.flask.pstate = .arriving → (∃ x ∈ s.pourCores, x ≠ core ∧ (s.core x).pourArrived = false) →
    exec (.coreArrive core) s = .next (Rules.withFlask (s.setCore core { s.core core with pourArrived := true })
      { s.flask with pstate := .arriving })) ∧
  (∀ (core : CoreId) (m : ModuleId) (s : State), Rules.arrives s core → s.flask.pstate = .open_ ∨ s.flask.pstate = .arriving →
    (∀ x ∈ s.pourCores, x ≠ core → (s.core x).pourArrived = true) → s.coordinator = some m →
    exec (.coreArrive core) s = .next (Rules.withFlask (s.setCore core { s.core core with pourArrived := true })
      { s.flask with pstate := .arrived, unacked := s.flask.unacked ++ [Rules.peer s m .arrived (s.flask.interval + 1)] })) ∧
  (∀ (core : CoreId) (m : ModuleId) (s : State), Rules.arrives s core → s.flask.pstate = .tail ∨ s.flask.pstate = .ready →
    (∀ x ∈ s.pourCores, x ≠ core → (s.core x).pourArrived = true) → s.coordinator = some m →
    exec (.coreArrive core) s = .next (Rules.withFlask (s.setCore core { s.core core with pourArrived := true })
      { s.flask with unacked := s.flask.unacked ++ [Rules.peer s m .arrived (s.flask.interval + 1)] })) ∧
  (∀ (m : ModuleId) (s : State), exec (.arrived m s.flask.decided) s = .next s) ∧
  (∀ (m : ModuleId) (n : Word) (s : State), Rules.heard s m → n = s.flask.interval + 1 → n ≠ s.flask.decided →
    Rules.waits s s.flask.arrivedMods m →
    exec (.arrived m n) s = .next (Rules.withFlask s { s.flask with
      arrivedMods := Rules.joined s.flask.arrivedMods m, barrier := Rules.barrier s })) ∧
  (∀ (m : ModuleId) (n : Word) (s : State), Rules.heard s m → n = s.flask.interval + 1 → n ≠ s.flask.decided →
    Rules.last s s.flask.arrivedMods m → s.skips = true →
    exec (.arrived m n) s = .next (Rules.withFlask s { s.flask with
      arrivedMods := [], barrier := none, unacked := s.flask.unacked ++ Rules.toAll s .abandon n })) ∧
  (∀ (m : ModuleId) (n : Word) (s : State), Rules.heard s m → n = s.flask.interval + 1 → n ≠ s.flask.decided →
    Rules.last s s.flask.arrivedMods m → s.skips = false →
    exec (.arrived m n) s = .next (Rules.withFlask s { s.flask with
      arrivedMods := [], savedMods := [], readyMods := [], barrier := none, decided := n, coord := .saving
      unacked := s.flask.unacked ++ Rules.toAll s .save n })) ∧
  (∀ (n : Word) (d : PourDecl) (found : List CoreFindings) (s : State), s.flask.decl = some d → s.flask.pstate = .arrived →
    n = s.nextPour →
    exec (.save n found) s = .next (State.writeRecords
      (State.findCores (Rules.withFlask s { s.flask with pstate := .saving, unacked := Rules.unacked s .arrived }) s.pourCores found
        (Core.saveMeet d)) d s.pourCores d.saveArea.base.toNat)) ∧
  (∀ (d : PourDecl) (core : CoreId) (a : Nat) (s : State),
    State.writeRecords s d [core] a = State.hbmWrite
      (if d.vectorMask = 0 then s else s.setCore core { s.core core with ve := (s.core core).ve.wake }) a
      ((s.core core).saveRecord d)) ∧
  (∀ (m : ModuleId) (s : State), s.flask.pstate = .saving → s.flask.commitPending = false → s.flask.remap = [] → s.coordinator = some m →
    exec .pourBoundary s = .next (Rules.withFlask s { s.flask with
      tail := s.flask.dirty, dirty := .empty, interval := s.flask.interval + 1, boundaryAt := some s.now
      stream := Vector.replicate 8 none
      unacked := s.flask.unacked ++ [Rules.peer s m .saved (s.flask.interval + 1)] })) ∧
  (∀ (m : ModuleId) (s : State), s.flask.pstate = .saving → s.flask.commitPending = false → s.flask.remap ≠ [] →
    (∀ id ∈ s.flask.remap, s.quietDie (id.toNat / 256) = true) →
    (State.rejoin (s.flask.remap.foldl State.remapCore (State.rejoin (Rules.withFlask s { s.flask with
      tail := s.flask.dirty, dirty := .empty, interval := s.flask.interval + 1, boundaryAt := some s.now, remap := []
      stream := Vector.replicate 8 none })))).coordinator = some m →
    exec .pourBoundary s = .next (State.sendPeer (State.rejoin (s.flask.remap.foldl State.remapCore (State.rejoin (Rules.withFlask s
      { s.flask with
        tail := s.flask.dirty, dirty := .empty, interval := s.flask.interval + 1, boundaryAt := some s.now, remap := []
        stream := Vector.replicate 8 none })))) m .saved (s.flask.interval + 1))) ∧
  (∀ (m : ModuleId) (n : Word) (s : State), Rules.awaited s m n .saving → Rules.waits s s.flask.savedMods m →
    exec (.saved m n) s = .next (Rules.withFlask s { s.flask with
      savedMods := Rules.joined s.flask.savedMods m, unacked := Rules.answeredBy s .save m n })) ∧
  (∀ (m : ModuleId) (n : Word) (s : State), Rules.awaited s m n .saving → Rules.last s s.flask.savedMods m →
    exec (.saved m n) s = .next (Rules.withFlask s { s.flask with
      savedMods := [], coord := .tailing, unacked := Rules.answeredBy s .save m n ++ Rules.toAll s .resume n })) ∧
  (∀ (n : Word) (s : State), s.flask.pstate = .saving → s.flask.interval = n → s.flask.commitPending = true →
    exec (.resume n) s = .next (State.releasePour
      (Rules.withFlask s { s.flask with pstate := .tail, unacked := Rules.unacked s .saved }) 0 n.toNat)) ∧
  (∀ (m : ModuleId) (s : State), s.flask.pstate = .tail →
    (s.active.bind.en = true → s.flask.tail.isNone s.flask.shares = true ∧ s.flask.stream = Vector.replicate 8 none) →
    s.coordinator = some m →
    exec .tailComplete s = .next (Rules.withFlask s { s.flask with
      pstate := .ready, tail := .empty, unacked := s.flask.unacked ++ [Rules.peer s m .ready s.flask.interval] })) ∧
  (∀ (m : ModuleId) (n : Word) (s : State), Rules.awaited s m n .tailing → Rules.waits s s.flask.readyMods m →
    exec (.ready m n) s = .next (Rules.withFlask s { s.flask with
      readyMods := Rules.joined s.flask.readyMods m, unacked := Rules.answeredBy s .resume m n })) ∧
  (∀ (m : ModuleId) (n : Word) (s : State), Rules.awaited s m n .tailing → Rules.last s s.flask.readyMods m →
    exec (.ready m n) s = .next (Rules.withFlask s { s.flask with
      readyMods := [], coord := .idle, unacked := Rules.answeredBy s .resume m n ++ Rules.toAll s .commit n })) ∧
  (∀ (n : Word) (s : State), s.flask.pstate = .ready → s.flask.interval = n →
    exec (.commit n) s = .next (Rules.told (State.runHeld (Rules.withFlask s { s.flask with
      pstate := s.arrivals, committed := n, prot := 0, commitAt := s.now, sent := [], undoUsed := Vector.replicate 8 0
      rb := s.flask.rb.filter (fun c => decide (n.toNat ≤ c.gen))
      unacked := Rules.unacked s .ready }) s.host.b2held) n)) ∧
  (∀ (a : Nat) (x : List Byte) (xs : List (Nat × List Byte)) (s : State), s.hbmBlocked a x.length = false →
    s.runHeld ((a, x) :: xs) = (s.hbmWrite a (.clean x)).runHeld xs) ∧
  (∀ (n : Word) (s : State), s.active.bind.en = true →
    exec (.partnerCommit n) s = .next (Rules.withFlask s { s.flask with
      held := s.flask.held.filter (fun u => decide (n.toNat ≤ u.gen)), expect := n, partnerCommitted := n, partnerAt := s.now })) ∧
  (∀ (n : Word) (s : State), s.flask.pstate ≠ .none → s.flask.pstate ≠ .saving → s.flask.pstate ≠ .rollback → n = s.nextPour →
    exec (.abandon n) s = .next (State.releasePour (Rules.withFlask s { s.flask with
      pstate := if s.flask.pstate = .tail ∨ s.flask.pstate = .ready then s.flask.pstate else .open_
      skipped := if s.flask.skipped = 0xFFFFFFFF then 0xFFFFFFFF else s.flask.skipped + 1
      unacked := Rules.unacked s .arrived }) 2 0)) ∧
  (∀ (t : Nat) (s : State), s.flask.barrier = some t →
    exec .pourBarrierTimeout s = .next { s with
      now := max s.now t
      flask := { s.flask with
        arrivedMods := [], barrier := none
        unacked := s.flask.unacked ++ s.pourMods.map (fun m =>
          { dest := m, kind := .abandon, n := s.flask.interval + 1, sent := max s.now t }) } }) ∧
  (∀ (m : PeerMsg) (ms : List PeerMsg) (s : State), s.flask.unacked = m :: ms →
    exec .coordinatorRepeat s = .next { s with
      now := max s.now (m.sent + 100000)
      flask := { s.flask with unacked := (m :: ms).map (fun x =>
        if x.sent + 100000 ≤ max s.now (m.sent + 100000) then { x with sent := max s.now (m.sent + 100000) } else x) } }) ∧
  (∀ (core : CoreId) (qot rem : Nat) (w : SeWord) (s : State), s.pourCores = [core] → (s.core core).pourArrived = true →
    s.calm core = true → ((s.at core).th 0).stall = .pour w →
    s.releasePour qot rem = s.after core
      { ((s.at core).mapR 0 (fun r => { r with qot := BitVec.ofNat 64 qot, rem := BitVec.ofNat 64 rem })).complete 0
          (Machine.bareForm w) w with
        pourArrived := false, released := true, cycle := if (s.at core).released then (s.at core).cycle else 0 })

/-- R388 to R391, R399, R400, R406: the first write to a share copies it; a free stream sends a dirty share without an undo, which
leaves the dirty set, as two lines of 256 B; 600 s without a commit are recorded; a module whose heartbeat word is not refreshed
for 20 ms fences itself; the partner streams the store it holds of a failed module to the spare.
Where the spec leaves a point of this open, the model's choice is in log entries 56, 58. -/
def Obligations.MirrorsStreamAndFence : Prop :=
  (∀ (share k : Nat) (ext : HbmFinding) (s : State), share < s.flask.shares → s.needsCopy share = true → s.rbFree share = some k →
    s.flask.copies ≠ 0xFFFFFFFF →
    exec (.copyBeforeWrite share ext) s = .next
      { (s.hbmRead (mirrorAddr s.flask.regions (512 * share)) 512 ext).1.hbmPut (slotAddr s.active.bind.rbArea (share % 8) k)
          (s.hbmRead (mirrorAddr s.flask.regions (512 * share)) 512 ext).2 with
        flask := { s.flask with
          rb := s.flask.rb ++ [{ share := share, gen := s.flask.interval.toNat, slot := k }], copies := s.flask.copies + 1 } }) ∧
  (∀ (e : Fin 8) (k : Nat) (ext : HbmFinding) (s : State), s.flask.interval ≠ 0 → s.flask.commitPending = false → s.active.bind.en = true →
    s.flask.fenced = false → s.flask.pstate = .open_ → s.flask.stream[e] = none →
    s.nextShare e.val s.flask.interval.toNat false = some k → s.flask.undoOf k s.flask.interval.toNat = none →
    exec (.mirrorStreamShare e ext) s = .next (State.mirrorShare
      (Rules.withFlask s { s.flask with
        dirty := s.flask.dirty.drop k, sent := nins s.flask.sent k
        stream := s.flask.stream.set e (some { share := k, content := true, tail := false, waiting := 2 }) })
      e s.flask.interval.toNat k (mirrorAddr s.flask.regions (512 * k)) false ext)) ∧
  (∀ (e : Fin 8) (gen k a : Nat) (s : State),
    ∃ m1 m2 : LinkMsg, (s.mirrorShare e gen k a false .clean).switch.waiting = s.switch.waiting ++
        [{ edie := e, msg := m1, who := some (.mirror (512 * k) m1.subop) },
         { edie := e, msg := m2, who := some (.mirror (512 * k + 256) m2.subop) }] ∧
      m1.type = 3 ∧ m2.type = 3 ∧ m1.dmod = s.active.bind.partner ∧ m2.dmod = s.active.bind.partner ∧
      m1.data = memReadN s.hbm.mem a 256 ∧ m2.data = memReadN s.hbm.mem (a + 256) 256) ∧
  (∀ (job : Fin 8) (s : State), s.pourJob = some job → (s.job job).st = .running →
    ∃ s', exec (.pourOverdue job) s = .next s' ∧ s'.flask.commitAt = max s.now (s.flask.commitAt + 600 * 10 ^ 9) ∧
      s'.errs.counts[(1 : Fin 4)] = s.errs.counts[(1 : Fin 4)] + 1) ∧
  (∀ (s : State), (∀ j, s.cutOff j = false) →
    exec .selfFence s = .next { s with
      now := max s.now (s.mp.wordAt + 20000000), flask := { s.flask with fenced := true } }) ∧
  (∀ (share : Nat) (addr : BitVec 40) (spare : ModuleId) (s : State), s.active.bind.en = true →
    s.active.route.spareOf s.active.bind.partner = some spare → share < s.active.bind.cap.toNat * 128 →
    (s.hbmGet (s.active.bind.store.toNat * 65536 + 512 * share) 512).poison = [] →
    exec (.adoptionStream share addr) s = .next
      ((s.post (Fin.ofNat 8 share) (s.message 0 spare 0 addr.toNat
          ((s.hbmGet (s.active.bind.store.toNat * 65536 + 512 * share) 512).bytes.take 256)) (some (.adoption (512 * share)))).post
        (Fin.ofNat 8 share) (s.message 0 spare 0 (addr.toNat + 256)
          ((s.hbmGet (s.active.bind.store.toNat * 65536 + 512 * share) 512).bytes.drop 256)) (some (.adoption (512 * share + 256)))))


/-! ### Vector engine and matrix engine -/

namespace Sys2Proof.Rules

/-- The VE instructions, with their site, their operation and their words (Table 5-7). -/
def ve : Instr → Option (Site × VeOpc × VeWord)
  | .vld a w => some (a, .vld, w) | .vst a w => some (a, .vst, w) | .vldsr a w => some (a, .vldsr, w)
  | .vstsr a w => some (a, .vstsr, w) | .vlds2 a w => some (a, .vlds2, w) | .vlds3 a w => some (a, .vlds3, w)
  | .vlds4 a w => some (a, .vlds4, w) | .vsts2 a w => some (a, .vsts2, w) | .vsts3 a w => some (a, .vsts3, w)
  | .vsts4 a w => some (a, .vsts4, w) | .vmld a w => some (a, .vmld, w) | .vmst a w => some (a, .vmst, w)
  | .vbcast a w => some (a, .vbcast, w) | .vext a w => some (a, .vext, w) | .vmovi a w => some (a, .vmovi, w)
  | .vadd a w => some (a, .vadd, w) | .vsub a w => some (a, .vsub, w) | .vmul a w => some (a, .vmul, w)
  | .vfma a w => some (a, .vfma, w) | .vmin a w => some (a, .vmin, w) | .vmax a w => some (a, .vmax, w)
  | .vbit a w => some (a, .vbit, w) | .vcmp a w => some (a, .vcmp, w) | .vmerge a w => some (a, .vmerge, w)
  | .vslide a w => some (a, .vslide, w) | .vred a w => some (a, .vred, w) | .vmop a w => some (a, .vmop, w)
  | .vwmul a w => some (a, .vwmul, w) | .vdot a w => some (a, .vdot, w) | .vcvt a w => some (a, .vcvt, w)
  | .vfdiv a w => some (a, .vfdiv, w) | .vfsqrt a w => some (a, .vfsqrt, w)
  | _ => none

/-- The ME instructions (Table 6-5). -/
def me : Instr → Option (Site × MeOpc × MeWord)
  | .tld a w => some (a, .tld, w) | .tst a w => some (a, .tst, w) | .tlds a w => some (a, .tlds, w)
  | .tsts a w => some (a, .tsts, w) | .tzero a w => some (a, .tzero, w) | .trelease a w => some (a, .trelease, w)
  | .tmma a w => some (a, .tmma, w) | .tmmas a w => some (a, .tmmas, w) | .gmv a w => some (a, .gmv, w)
  | _ => none

/-- The operation a VE instruction becomes, and the one an ME instruction becomes. -/
def veop (s : State) (a : Site) (opc : VeOpc) (w : VeWord) : VeOp := veOp (s.at a.core) a.thread opc w
def meop (s : State) (a : Site) (opc : MeOpc) (w : MeWord) : MeOp := meOp (s.at a.core) a.thread opc w

/-- Entries of the tracker for the ranges of an instruction (R236). -/
def tracking (c : Core) (t : Fin 4) (l : List (Nat × Nat × Bool)) : Core :=
  l.foldl (fun c p => c.track t p.1 p.2.1 p.2.2 c.seq) c

/-- The post-increment of BASE; none when the increment is 0 (R75). -/
def based (c : Core) (t : Fin 4) (ext : Nat) (by_ : Int) : Core := if by_ = 0 then c else c.incBase t ext by_

/-- What a core's ME would be with an operation in its queue. -/
def meQueued (c : Core) (o : MeOp) : Core := { c with me := { c.me with q := c.me.q ++ [.insn { o with seq := c.seq }] } }
def veQueued (c : Core) (o : VeOp) : Core := { c with ve := Ve.wake { c.ve with q := c.ve.q ++ [.insn o] } }

/-- The core whose requests for the bytes of a VE operation have been granted (R199). -/
def touched (s : State) (core : CoreId) (o : VeOp) : Core := (s.at core).granted .vector o.touches

/-- The core whose requests for the bytes of an ME operation have been granted (R193, R199). -/
def fed (s : State) (core : CoreId) (o : MeOp) : Core :=
  ((((s.at core).meServed o).granted .feeder (o.readRanges (s.at core).me.cfg)).granted .gemv (o.readRanges (s.at core).me.cfg)).granted .drain
    (o.writeRanges (s.at core).me.cfg)

/-- The ranges an ME operation touches. -/
def meRanges (s : State) (a : Site) (o : MeOp) : List (Nat × Nat × Bool) :=
  (o.streams (s.at a.core).me.cfg).flatMap MeStream.footprint

/-- The core after the effect of an ME operation, which leaves the engine (R173). -/
def ran (s : State) (core : CoreId) (o : MeOp) : Core :=
  Core.meApply o.thread (o.effect (s.at core).me (s.at core).ve (fed s core o).spm)
    { fed s core o with me := { (s.at core).me with run := (s.at core).me.run.filter (fun p => p.seq != o.seq) } }

/-- The VE operations whose element i depends on the elements i of their operands alone. -/
def elementwise (o : VeOpc) : Bool :=
  match o with
  | .vadd | .vsub | .vmul | .vfma | .vmin | .vmax | .vbit | .vfdiv | .vfsqrt => true
  | _ => false

end Sys2Proof.Rules

/-- R61, R126, R134, R136, R137, R155, R158, R236: a VE instruction that is legal, whose addresses raise nothing and for which the
VE queue and the tracker have room enters the queue with the length and the address it found, wakes the VE, takes the tracker entry of
its footprint, increments BASE, and its thread goes on. It starts when it is at the head, the VE is awake and no earlier GMV holds
it back; it takes effect when it completes. R152, R156: an uncorrectable error of a register that it reads restricts the engine. An idle VE enters retention where the clock plan allows it, and a wake ends it.
Where the spec leaves a point of this open, the model's choice is in log entries 7, 27, 28. -/
def Obligations.VectorInstructionsQueueAndComplete : Prop :=
  (∀ (i : Instr) (a : Site) (opc : VeOpc) (w : VeWord) (s : State), Rules.ve i = some (a, opc, w) → s.turnOf a w.len = true →
    firstBad (opc.bad (s.at a.core).ve.log.toNat w) = none → (s.at a.core).ve.q.length < 8 →
    tracked (s.at a.core) a.thread (Rules.veop s a opc w).footprint (Rules.veop s a opc w).footprint.length = true →
    (Rules.veop s a opc w).excs (s.env a.core) (s.at a.core).ve.restr = [] →
    exec i s = .next (s.after a.core
      ((Rules.based (Rules.tracking (Rules.veQueued (s.issuedCore a) (veOp (s.issuedCore a) a.thread opc w)) a.thread
        ((Rules.veop s a opc w).footprint.map (fun p => (p.1, p.2, !opc.isLoad)))) a.thread w.ext.toNat
          (Rules.veop s a opc w).increment).advance a.thread w.len))) ∧
  (∀ (core : CoreId) (o : VeOp) (q : List VeEntry) (s : State), s.calm core = true → (s.at core).ve.q = .insn o :: q →
    (s.at core).ve.ret = false → o.held (s.at core) = false →
    exec (.veInsnStart core) s = .next (s.after core
      (Core.trim { s.at core with ve := { (s.at core).ve with q := q, run := (s.at core).ve.run ++ [o] } }))) ∧
  (∀ (core : CoreId) (o : VeOp) (run : List VeOp) (s : State), s.calm core = true → (s.at core).ve.run = o :: run →
    exec (.veInsnComplete core [] []) s = .next (s.after core
      (Core.settleStreams (Core.veApply o.thread
        (o.effect (s.env core).fresh (s.at core).ve (Rules.touched s core o).spm (s.at core).streams)
        { Rules.touched s core o with ve := { (s.at core).ve with run := run } })))) ∧
  (∀ (core : CoreId) (s : State), s.calm core = true → (s.env core).vepd = true → (s.at core).ve.q = [] → (s.at core).ve.run = [] →
    (s.at core).me.run = [] →
    exec (.veRetention core) s = .next (s.after core { s.at core with ve := { (s.at core).ve with ret := true } })) ∧
  (∀ (core : CoreId) (s : State), s.calm core = true → (s.at core).ve.waking = true →
    exec (.veWakeComplete core) s = .next (s.after core { s.at core with ve := { (s.at core).ve with ret := false, waking := false } })) ∧
  (∀ (core : CoreId) (o : VeOp) (run : List VeOp) (k : BitVec 20) (s : State), s.calm core = true → (s.at core).ve.run = o :: run →
    inRegs o.reads o.masksRead k.toNat = true → (s.at core).ve.bad k.toNat = false → k.toNat < 4352 →
    ∃ s', exec (.veInsnComplete core [] [.uncorrectable k]) s = .next s' ∧ (s'.core core).ve.restr = true ∧
      (s'.core core).ve.run = run)

/-- R125 to R128, R135: when an element-wise VE instruction completes and no register is poisoned, each active element of VD below
the effective length becomes the result of the elements of its operands at the same index; every other element of every vector
register, the mask registers and the scratchpad stay as they were.
Where the spec leaves a point of this open, the model's choice is in log entries 7, 26. -/
def Obligations.ElementsBelowTheLengthAreComputed : Prop :=
  ∀ (core : CoreId) (o : VeOp) (run : List VeOp) (s : State), s.calm core = true → (s.at core).ve.run = o :: run →
    Rules.elementwise o.opc = true → (Ty.ofCode o.w.ty.toNat).isSome = true →
    (s.at core).ve.vpoison = [] → (s.at core).ve.mpoison = [] →
    ∃ s', exec (.veInsnComplete core [] []) s = .next s' ∧
      (∀ i, i < o.group * 8192 / o.ty.width → (s'.core core).ve.elem o.w.vd.toNat o.ty i =
        if i < o.len ∧ o.maskBit (s.at core).ve i = true then
          o.ty.keep (veAlu o.opc o.fn o.ty ((s.at core).ve.elem o.w.vd.toNat o.ty i)
            ((s.at core).ve.elem o.w.va.toNat o.ty i) ((s.at core).ve.elem o.w.vb.toNat o.ty i)).1
        else (s.at core).ve.elem o.w.vd.toNat o.ty i) ∧
      (∀ k, k < 1024 * o.w.vd.toNat ∨ 1024 * (o.w.vd.toNat + o.group) ≤ k →
        memRead (s'.core core).ve.v k = memRead (s.at core).ve.v k) ∧
      (s'.core core).ve.m = (s.at core).ve.m ∧ (s'.core core).spm = (s.at core).spm ∧ (s'.core core).ve.run = run

/-- R61, R167, R168, R169, R173, R236: an ME instruction that is legal, whose shapes and addresses raise nothing and for which the
ME queue and the tracker have room enters the queue, takes a tracker entry for each of its streams and increments BASE. It starts
when its pipe accepts it and no instruction in flight stands in its way; the array's instructions take a plane and warm the array.
It takes effect when it completes; a drain waits at a bank where a request of another instruction has aged (R193). An array without work becomes cold, and a powered bank without use enters retention.
Where the spec leaves a point of this open, the model's choice is in log entries 28, 29, 30. -/
def Obligations.MatrixInstructionsQueueAndComplete : Prop :=
  (∀ (i : Instr) (a : Site) (opc : MeOpc) (w : MeWord) (s : State), Rules.me i = some (a, opc, w) → s.turnOf a w.len = true →
    firstBad (opc.bad (s.at a.core).ve.log.toNat w) = none → (s.at a.core).me.q.length < 8 →
    tracked (s.at a.core) a.thread ((Rules.meRanges s a (Rules.meop s a opc w)).map (fun p => (p.1, p.2.1)))
      (Rules.meRanges s a (Rules.meop s a opc w)).length = true →
    (Rules.meop s a opc w).reconfiguring (s.at a.core) = false →
    (((Rules.meop s a opc w).streams (s.at a.core).me.cfg).flatMap (MeStream.excs (s.env a.core))) = [] →
    (Rules.meop s a opc w).shapes (s.at a.core).me.cfg = [] →
    exec i s = .next (s.after a.core
      ((Rules.based (Rules.tracking (Rules.meQueued (s.issuedCore a) (Rules.meop s a opc w)) a.thread
        (Rules.meRanges s a (Rules.meop s a opc w))) a.thread w.w1.toNat
          ((Rules.meop s a opc w).increment (s.at a.core).me.cfg)).advance a.thread w.len))) ∧
  (∀ (core : CoreId) (o : MeOp) (q : List MeEntry) (s : State), s.calm core = true → (s.at core).me.q = .insn o :: q →
    o.hazard (s.at core).me = false → o.accepted (s.at core).me = true → o.opc ≠ .gmv →
    exec (.meInsnStart core) s = .next (s.after core (Core.trim { s.at core with me := (s.at core).me.start o q }))) ∧
  (∀ (core : CoreId) (o : MeOp) (q : List MeEntry) (s : State), s.calm core = true → (s.at core).me.q = .insn o :: q →
    o.hazard (s.at core).me = false → o.accepted (s.at core).me = true → o.opc = .gmv → (s.at core).ve.ret = true →
    exec (.meInsnStart core) s = .next (s.after core { s.at core with ve := (s.at core).ve.wake })) ∧
  (∀ (core : CoreId) (pipe : MePipe) (o : MeOp) (s : State), s.calm core = true →
    (s.at core).me.run.find? (fun o => o.opc.pipe == pipe) = some o → o.yields (s.at core) = true →
    exec (.meInsnComplete core pipe [] []) s = .next (s.after core (s.at core))) ∧
  (∀ (core : CoreId) (pipe : MePipe) (o : MeOp) (s : State), s.calm core = true →
    (s.at core).me.run.find? (fun o => o.opc.pipe == pipe) = some o → o.yields (s.at core) = false →
    exec (.meInsnComplete core pipe [] []) s = .next (s.after core
      (Core.settleTcfg { Rules.ran s core o with me := (Rules.ran s core o).me.finish o }))) ∧
  (∀ (core : CoreId) (s : State), s.calm core = true →
    exec (.arrayCold core) s = .next (s.after core { s.at core with me := { (s.at core).me with cold := true } })) ∧
  (∀ (core : CoreId) (tile : Fin 8) (bank : Fin 5) (s : State), s.calm core = true → (s.at core).me.run = [] →
    (s.at core).me.powered tile bank = true →
    exec (.tileBankRetention core tile bank) s = .next (s.after core
      { s.at core with me := { (s.at core).me with retained := nins (s.at core).me.retained (5 * tile.val + bank.val) } })) ∧
  (∀ (core : CoreId) (o : MeOp) (q : List MeEntry) (s : State), s.calm core = true → (s.at core).me.q = .insn o :: q →
    o.hazard (s.at core).me = false → o.accepted (s.at core).me = true → o.opc = .gmv → (s.at core).ve.ret = false →
    o.vectorsFree (s.at core).ve = true →
    exec (.meInsnStart core) s = .next (s.after core (Core.trim { s.at core with me := (s.at core).me.start o q })))


/-! ### DMA engine, instruction cache and code cache -/

namespace Sys2Proof.Rules

/-- The core with its DE state `d`. -/
def withDe (c : Core) (d : De) : Core := { c with de := d }
/-- An entry behind the others in the issue queue of the DE. -/
def deQueued (c : Core) (x : DeEntry) : Core := withDe c { c.de with issue := c.de.issue ++ [x] }
/-- The rest of the issue queue. -/
def deRest (c : Core) (rest : List DeEntry) : Core := withDe c { c.de with issue := rest }

/-- The operand values of ICINV and ICPF: first byte and length. -/
def invA (s : State) (a : Site) (w : SeWord) : Nat := s.val a (s.ops a (icinvForm w) w).a
def invB (s : State) (a : Site) (w : SeWord) : Nat := s.val a (s.ops a (icinvForm w) w).b
def pfA (s : State) (a : Site) (w : SeWord) : Nat := s.val a (s.ops a (icpfForm w) w).a
def pfB (s : State) (a : Site) (w : SeWord) : Nat := s.val a (s.ops a (icpfForm w) w).b

/-- The queue that a DENQ names, its descriptor as it stands in the scratchpad, and the tracker entries of its footprint. -/
def denqQueue (w : SeWord) : Fin 4 := Fin.ofNat 4 w.mod.toNat
def denqAddr (s : State) (a : Site) (w : SeWord) : Nat := (s.ops a (denqForm w) w).a.addr
def denqTracks (s : State) (a : Site) (r : DescRun) : List ((Nat × Nat) × Bool) := r.footprint (s.env a.core)

/-- A copy within the core's own scratchpad that is one granule: a row of `n` bytes, neither converted nor reduced, inside one
64-B segment of its destination. -/
abbrev SmallCopy (e : Env) (r : DescRun) (n : Nat) : Prop :=
  r.op = 0 ∧ r.ssp = 0 ∧ r.dsp = 0 ∧ r.dims = 0 ∧ r.cvt = false ∧ r.red = false ∧ r.len0 = n ∧ 0 < n ∧
    r.dstAddr % 64 + n ≤ 64 ∧ r.srcAddr + n ≤ e.spmSize ∧ r.dstAddr + n ≤ e.spmSize

/-- Its granule. -/
def copyGranule (r : DescRun) (n : Nat) : Granule :=
  { off := 0, dst := r.dstAddr, len := n, reads := [{ addr := r.srcAddr, len := n, base := r.srcAddr, key := none, answer := none }],
    data := none, write := none }

/-- Two granules of one descriptor whose data is held and which lie one behind the other in a line of 256 bytes over the links. -/
abbrev OneLine (e : Env) (r : DescRun) (g h : Granule) (x y : List Byte) (p : ModuleId × Bool × Nat) : Prop :=
  r.dsp = 3 ∧ r.op ≠ 4 ∧ r.grans = [g, h] ∧ r.allIssued = true ∧ g.data = some (.clean x) ∧ h.data = some (.clean y) ∧
    g.write = none ∧ h.write = none ∧ h.dst = g.dst + g.len ∧ h.dst % 256 ≠ 0 ∧
    r.dstPlace e g.dst g.len = .link p.1 p.2.1 p.2.2

/-- The descriptor at the head of its queue. -/
def headed (r : DescRun) (f : DescRun) : DescRun := { r with started := true, allIssued := true, grans := f.grans }

/-- The lines of a core's cache without those that `hit` selects. -/
def keeping (d : De) (hit : IcLine → Bool) : De := { d with ic := d.ic.filter (fun p => !hit p.2) }

/-- A line that was missed and has come, with the epoch of the cache that had it or of the moment it was asked for (R286). -/
def fetched (s : State) (m : IcMiss) (x : CodeLine) : IcLine :=
  { tag := m.line, epoch := if x.hit then s.epoch else m.epoch, data := x.data.bytes }
/-- The cache without the miss of a line. -/
def arrived (d : De) (line : Nat) : De := { d with misses := d.misses.filter (fun m => m.line != line) }

/-- A line of an ICINV's range; MOD 1 takes every line. -/
def inRange (all : Bool) (first len : Nat) (l : IcLine) : Bool :=
  all || (decide (0 < len) && decide (first / 128 ≤ l.tag ∧ l.tag ≤ (first + len - 1) / 128))

end Sys2Proof.Rules

/-- R258, R261, R265 to R267, R221: DENQ reads its descriptor at issue, enqueues it and takes the tracker entries of its footprint.
A copy of one granule issues its granule when it starts; the response moves the bytes; the descriptor then completes, counts in
DQq_DONE and adds its event. A chained descriptor is read when its predecessor has issued every granule. A completion that fills a
slot of this core is served when the slot is empty, and one that another core answered with RETRY goes again. A CODELOAD that has
performed its writes takes the steps of R284 wherever it stands in its queue, and is then complete for an ORD behind it (R266, R284);
granules of one line of 256 bytes leave over the links as one message (R330, R366).
Where the spec leaves a point of this open, the model's choice is in log entries 31, 33, 34. -/
def Obligations.DescriptorsMoveBytesAndComplete : Prop :=
  (∀ (a : Site) (w : SeWord) (r : DescRun) (s : State), s.issues a (denqForm w) w = true →
    r = (s.issuedCore a).readDesc a.thread (s.issuedCore a).seq (Rules.denqAddr s a w) →
    (s.at a.core).dqEntries (Rules.denqQueue w) < 16 → (s.at a.core).room 3 = true →
    tracked (s.at a.core) a.thread ((Rules.denqTracks s a r).map (fun p => p.1)) (Rules.denqTracks s a r).length = true →
    poisoned (s.at a.core).spm.poison (Rules.denqAddr s a w) 64 = false →
    exec (.denq a w) s = .next (s.after a.core
      ((Core.trim (Rules.deQueued
        ((Rules.denqTracks s a r).foldl (fun c p => c.track a.thread p.1.1 p.1.2 p.2 r.entry) (s.issuedCore a))
        (.denq (Rules.denqQueue w) r))).finish a.thread w.len (s.ops a (denqForm w) w)))) ∧
  (∀ (core : CoreId) (q : Fin 4) (r : DescRun) (n : Nat) (s : State), s.calm core = true →
    (s.at core).settleStreams = s.at core → ((s.at core).de.q[q]).descs = [r] → ((s.at core).de.q[q]).halt = false →
    (s.at core).released = true → r.abandoned = false → r.started = false → r.allIssued = false → r.faulted = false →
    r.grans = [] → r.cur = { i2 := 0, i1 := 0, off := 0, row := none } → (s.at core).allOut < 256 → (s.at core).givesWay q = false →
    r.startFault (s.env core) = none → Rules.SmallCopy (s.env core) r n →
    exec (.descriptorStart core q []) s = .next (s.after core
      ((s.at core).bump.mapDesc q 0 (fun r => { r with started := true, allIssued := true, grans := [Rules.copyGranule r n] })))) ∧
  (∀ (core : CoreId) (q : Fin 4) (r : DescRun) (n : Nat) (s : State), s.calm core = true →
    ((s.at core).de.q[q]).descs = [r] → r.grans = [Rules.copyGranule r n] → r.before = [] → r.abandoned = false →
    Rules.SmallCopy (s.env core) r n → (s.at core).spm.poison = [] →
    ∃ s', exec (.dmaGranuleResponse core q [] .clean .intact) s = .next s' ∧
      (s'.core core).spm.mem = memWriteN (s.at core).spm.mem r.dstAddr (memReadN (s.at core).spm.mem r.srcAddr n) ∧
      ((s'.core core).de.q[q]).descs.map (fun d => d.grans) = [[]] ∧
      (∀ other, other ≠ core → s'.core other = s.core other)) ∧
  (∀ (core : CoreId) (q : Fin 4) (r : DescRun) (s : State), s.calm core = true → ((s.at core).de.q[q]).descs = [r] →
    r.abandoned = false → r.complete = true → r.cmpl = 0 → r.op ≠ 4 →
    exec (.descriptorComplete core q) s = .next (s.after core
      (Core.settleStreams ((((s.at core).mapDq q (fun d => { d with done := d.done + 1 })).trace (s.env core) 4 7 0 q.val 0
        (((s.at core).de.q[q]).done + 1).toNat).mapDq q (fun d => { d with descs := [] }))))) ∧
  (∀ (core : CoreId) (q : Fin 4) (r : DescRun) (s : State), s.calm core = true → ((s.at core).de.q[q]).descs = [r] →
    r.abandoned = false → r.complete = true → r.cmpl = 1 → r.op ≠ 4 →
    ∃ s', exec (.descriptorComplete core q) s = .next s' ∧ ((s'.core core).de.q[q]).descs = [] ∧
      ((s'.core core).de.q[q]).done = ((s.at core).de.q[q]).done + 1 ∧
      (s'.core core).events = (s.at core).events.gain (Fin.ofNat 32 r.ctgt) 1) ∧
  (∀ (core : CoreId) (q : Fin 4) (r : DescRun) (s : State), s.calm core = true → ((s.at core).de.q[q]).descs = [r] →
    ((s.at core).de.q[q]).halt = false → r.abandoned = false → r.allIssued = true → r.word 14 ≠ 0 → r.chained = false →
    poisoned (s.at core).spm.poison (r.word 14) 64 = false →
    exec (.descriptorChainRead core q []) s = .next (s.after core
      ((s.at core).mapDq q (fun d => { d with
        descs := [{ r with chained := true }, (s.at core).readDesc r.thread r.entry (r.word 14)] })))) ∧
  (∀ (core : CoreId) (q : Fin 4) (x : SlotWait) (r : DescRun) (i : Nat) (s : State), s.calm core = true → (s.at core).fillIndex q = some i →
    (s.at core).spm.waits.find? (fun x => decide (x.who = .fill q)) = some x → (s.at core).spm.fits x.seg true = true →
    (s.at core).spm.moving x.seg = false → (s.at core).spm.firstFit x.seg = some x → ((s.at core).de.q[q]).descs[i]? = some r →
    ∃ s', exec (.dmaSlotFill core q) s = .next s' ∧ (s'.core core).spm = ((s.at core).spm.serveFill x.seg).unpark (.fill q) ∧
      ((s'.core core).de.q[q]).done = ((s.at core).de.q[q]).done ∧
      ((s'.core core).de.q[q]).descs.length + 1 = ((s.at core).de.q[q]).descs.length) ∧
  (∀ (core : CoreId) (q : Fin 4) (r : Remote) (i : Nat) (s : State), s.calm core = true → (s.at core).fillIndex q = some i →
    (s.at core).spm.waits.find? (fun x => decide (x.who = .fill q)) = none →
    (s.at core).spm.remote.find? (fun r => !r.dead && match r.who with | .fill p _ => p == q | _ => false) = some r →
    (s.at core).spm.remoteOf r.id = some r → r.stage = .answered .retry → (s.at core).spm.inTurn r = true →
    exec (.dmaSlotFill core q) s = .next (s.after core ((s.at core).mapSpm (fun m =>
      { m with remote := m.remote.filter (fun x => x.id != r.id) ++ [{ r with stage := .leaving }] })))) ∧
  (∀ (core : CoreId) (q : Fin 4) (r : DescRun) (s : State), s.calm core = true → ((s.at core).de.q[q]).descs = [r] →
    r.abandoned = false → r.complete = true → r.cmpl = 2 → r.op ≠ 4 → slotCore r.ctgt = core.toNat →
    (s.at core).spm.slotOpen (slotSeg r.ctgt) = true → (s.at core).spm.servesNow (slotSeg r.ctgt) true = false →
    ∃ s', exec (.descriptorComplete core q) s = .next s' ∧
      ((s'.core core).de.q[q]).done = ((s.at core).de.q[q]).done + 1 ∧
      ((s'.core core).de.q[q]).descs = [{ r with filling := true }] ∧
      (s'.core core).spm.waits = (s.at core).spm.waits ++
        [{ seg := slotSeg r.ctgt, who := .fill q, store := true, data := .empty }]) ∧
  (∀ (core : CoreId) (q : Fin 4) (h r : DescRun) (s : State), s.calm core = true → ((s.at core).de.q[q]).descs = [h, r] →
    h.abandoned = false → h.complete = false → h.op ≠ 4 → r.loadDue = true →
    ∃ s', exec (.descriptorComplete core q) s = .next s' ∧ s'.epoch = s.epoch + 1 ∧
      ((s'.core core).de.q[q]).descs = [h, { r with loaded := true }] ∧ DescRun.over { r with loaded := true } = true) ∧
  (∀ (core : CoreId) (q : Fin 4) (r : DescRun) (g h : Granule) (x y : List Byte) (p : ModuleId × Bool × Nat) (s : State), s.calm core = true →
    ((s.at core).de.q[q]).descs = [r] → (s.at core).spm.remote = [] → Rules.OneLine (s.env core) r g h x y p →
    ∃ s' m who, exec (.dmaGranuleResponse core q [] .clean .intact) s = .next s' ∧ m.data = x ++ y ∧
      s'.switch.waiting = s.switch.waiting ++ [{ edie := homeEdie (core.toNat / 256), msg := m, who := who }] ∧
      ((s'.core core).de.q[q]).descs.map (fun d => d.grans.map (fun z => z.write.isSome)) = [[true, true]])

/-- R283, R285 to R291: a line that threads miss is asked for once, with the epoch of that moment; it comes from the die's code cache or from the code region and takes the way that R287 names; what it
displaces is offered to the die, which takes its offers in order. A parity error fetches the line again into the same way and
counts; the window's end clears the counts. ICINV holds its thread in the DE queue and invalidates its lines when it completes;
ICPF goes on and fills its range.
Where the spec leaves a point of this open, the model's choice is in log entry 35. -/
def Obligations.CodeLinesAreFetchedAndInvalidated : Prop :=
  (∀ (core : CoreId) (line : BitVec 25) (m : IcMiss) (x : CodeLine) (s1 : State) (w : Fin 4) (seed : BitVec 16) (s : State),
    s.calm core = true → (s.at core).de.misses.find? (fun m => m.line == line.toNat) = some m → m.line = line.toNat →
    (s.at core).de.icWay line.toNat = none → s.codeLine core line.toNat .clean .clean = (s1, x) → x.data.poison = [] →
    (s.at core).de.allocate line.toNat = (some w, seed) →
    exec (.icLineFill core line .clean .clean) s = .next
      ((s1.offerLine core ((s.at core).de.putLine w (Rules.fetched s m x)).2).after core
        (Rules.withDe (s.at core) (De.putLine { Rules.arrived (s.at core).de line.toNat with icseed := seed } w
          (Rules.fetched s m x)).1))) ∧
  (∀ (core : CoreId) (line : BitVec 25) (x : CodeLine) (s1 : State) (w : Fin 4) (s : State), s.calm core = true →
    (s.at core).de.icWay line.toNat = some w → s.codeLine core line.toNat .clean .clean = (s1, x) → x.data.poison = [] →
    ((s.at core).de.icerr[w]).toNat < 7 →
    ∃ s', exec (.icParityError core line .clean .clean) s = .next s' ∧ (s'.core core).de.icWay line.toNat = some w ∧
      (s'.core core).de.icerr = (s.at core).de.icerr.set w ((s.at core).de.icerr[w] + 1)) ∧
  (∀ (core : CoreId) (s : State), s.calm core = true →
    exec (.icErrWindow core) s = .next (s.after core (Rules.withDe (s.at core) { (s.at core).de with icerr := Vector.replicate 4 0 }))) ∧
  (∀ (die : Fin 32) (o : DccOffer) (os : List DccOffer) (s : State), (s.die die.val).offers = o :: os →
    (∀ p ∈ (s.die die.val).lines, p.1 / 16 ≠ o.set) →
    exec (.dccTakeOffer die) s = .next (s.mapDie die.val (fun d => { d with
      offers := os, lines := tset d.lines (16 * o.set) { line := o.line, used := true, data := o.data } }))) ∧
  (∀ (a : Site) (w : SeWord) (s : State), s.issues a (icinvForm w) w = true → (s.at a.core).room 3 = true →
    exec (.icinv a w) s = .next (s.after a.core (Core.trim (Rules.deQueued
      ((s.issuedCore a).mapTh a.thread (fun h => { h with stall := .icinv (s.issuedCore a).seq w }))
      (.icinv (s.issuedCore a).seq a.thread (w.mod == 1) (Rules.invA s a w) (Rules.invB s a w) (s.issuedCore a).seq))))) ∧
  (∀ (core : CoreId) (id first len seq : Nat) (t : Fin 4) (all : Bool) (w : SeWord) (rest : List DeEntry) (s : State),
    s.calm core = true → (s.at core).de.issue = .icinv id t all first len seq :: rest → (s.at core).loadsDone seq = true →
    ((s.at core).th t).stall = .icinv id w →
    exec (.icinvComplete core) s = .next (s.after core
      ((Core.trim (Rules.withDe (s.at core)
        { (Rules.keeping (s.at core).de (Rules.inRange all first len)) with issue := rest })).complete t (icinvForm w) w))) ∧
  (∀ (a : Site) (w : SeWord) (s : State), s.issues a (icpfForm w) w = true → (s.at a.core).room 3 = true →
    exec (.icpf a w) s = .next (s.after a.core
      ((Core.trim (Rules.deQueued (s.issuedCore a)
        (.icpf (Fin.ofNat 4 w.mod.toNat) (Rules.pfA s a w) (Rules.pfB s a w) (s.issuedCore a).seq))).finish a.thread w.len
          (s.ops a (icpfForm w) w)))) ∧
  (∀ (core : CoreId) (w : Fin 4) (first len seq : Nat) (rest : List DeEntry) (s1 : State) (s : State), s.calm core = true →
    (s.at core).de.issue = .icpf w first len seq :: rest → (s.at core).loadsDone seq = true →
    s1 = (linesOf first (min len ((s.at core).codeSize - first))).foldl (fun s l => s.preload core w l .clean .clean .intact) s →
    exec (.icpfExecute core [] []) s = .next (s1.after core (Core.trim (Rules.deRest (s1.at core) rest)))) ∧
  (∀ (core : CoreId) (gate : Fin 16) (s : State), s.calm core = true →
    exec (.gateCloseComplete core gate) s = .next (s.after core ((s.at core).settleGate gate))) ∧
  (∀ (core : CoreId) (line : BitVec 25) (dcc : LineFinding) (ext : HbmFinding) (s : State), s.calm core = true →
    (∀ m ∈ (s.at core).de.misses, m.line ≠ line.toNat) → (s.at core).missers line.toNat ≠ 0 →
    exec (.icLineFill core line dcc ext) s = .next (s.after core (Rules.withDe (s.at core)
      { (s.at core).de with misses := (s.at core).de.misses ++
          [{ line := line.toNat, epoch := s.epoch, threads := (s.at core).missers line.toNat }] }))) ∧
  (∀ (die : Fin 32) (set line w : Nat) (s : State), (s.die die.val).wayOf set line = some w →
    ∃ s', s.dccMeet die.val set line .uncorrectable = (s', none) ∧
      (∀ p ∈ (s'.die die.val).lines, p ∈ (s.die die.val).lines ∧ p.1 ≠ 16 * set + w))


/-! ### Package fabric, lanes and ports -/

namespace Sys2Proof.Rules

/-- The lane `k` of a port in another state. -/
def laneSt (st : LaneState) (x : Lane) : Lane := { x with st := st }
/-- A lane whose attempt failed. -/
def laneFails (st : LaneState) (x : Lane) : Lane := { x with st := st, fails := x.fails + 1 }

/-- A lane that has failed. -/
def laneLost (x : Lane) : Lane := { x with st := .failed, run := 0 }

/-- What a step of training makes of a lane of a port that is not ACTIVE (Table 11-4): its transmit filter starts from the preset of
TXPRE and follows what the far end asks in EQ (R319). -/
abbrev trained (x : Lane) (ok : Bool) (txpre : BitVec 4) (taps : List TapAsk) (y : Lane) : Prop :=
  (x.st = .reset ∧ y = if ok then laneSt .detect x else x) ∨
  (x.st = .detect ∧ ok = true ∧ y = { x with st := .eq, preset := txpre, pre := 0, post := 0 }) ∨
  (x.st = .detect ∧ ok = false ∧ y = laneSt .reset x) ∨
  (x.st = .eq ∧ ok = true ∧ y = laneSt .align (taps.foldl Lane.asked x)) ∨
  (x.st = .eq ∧ ok = false ∧ y = { taps.foldl Lane.asked (laneFails (if x.fails < 2 then .reset else .failed) x) with run := 0 }) ∨
  (x.st = .align ∧ ok = false ∧ y = laneFails (if x.fails < 2 then .reset else .failed) x) ∨
  (x.st = .align ∧ ok = true ∧ y = { x with fails := 0 })

/-- The corrected symbols of a lane's window, with those that a command brings. -/
def windowOf (p : Port) (k : Fin 8) (symbols : BitVec 16) : Nat := p.lanes[k].count + symbols.toNat

/-- The lanes in use of a port that are not marginal, without lane `k`. -/
def othersInUse (p : Port) (k : Fin 8) : BitVec 8 := p.mask (fun x => decide (x.st = .active) && !x.marginal) &&& ~~~(BitVec.ofNat 8 (2 ^ k.val))

/-- A port's receiver asks for lanes; a forced request ends a countdown of its own (R345). -/
def asking (p : Port) (now : Nat) (l : BitVec 8) (forced : Bool) : Port :=
  { p with ask := some { lanes := l, forced := forced, attempts := 1, at_ := now }, control := p.control ++ [.widthReq l forced]
           plan := if forced then p.plan.filter (fun x => x.transmit) else p.plan }

/-- A count that stays at its greatest value. -/
def saturating (w : Word) : Word := if w = 0xFFFFFFFF then w else w + 1

/-- A port whose receiver waits for no REALIGN, plans no change of width, and found no code word uncorrectable. -/
abbrev quiet (p : Port) : Prop := p.ask = none ∧ p.plan = [] ∧ p.wordBad = false

/-- A port that has taken a flit in its place of the frame, its code word without an error (R316, R318, R343). -/
def framed (p : Port) : Port :=
  if p.rxSlot = 0 ∨ p.rxSlot = 2 then
    { p with rxSlot := p.rxSlot + 1, badWords := 0, lanes := p.lanes.map (fun x => { x with run := 0 }) }
  else { p with rxSlot := p.rxSlot + 1 }

/-- A flit with its CRC and no reserved field set (R329, R333). -/
abbrev good (f : Flit) : Prop := f.crc = crc32c (flitBody f) ∧ f.resv = 0

/-- Messages of a port's queues that wait again at their E-die's switch. -/
abbrev noMessages (p : Port) : Prop := p.txMsgs = Vector.replicate 4 []

end Sys2Proof.Rules

/-- R310, R313, R355: a message that crosses the grid enters the queue of its port when the E-die has space for its units. A bridge's
CRC failure is replayed and counted; the sixteenth of a channel within a millisecond disables the channel, and with more than four
disabled on a side the module records a fatal error. A router that stops answering during a job is recorded for every job and becomes
a candidate for retirement.
R321 to R324, R343, R345A, Table 11-4: lanes train step by step, a DOWN port with four lanes in ALIGN is TRAINING; the end of training
makes it ACTIVE, from TRAINING with its link state initialised, from RETRAIN with a replay of what it keeps. A lane that loses its
lock fails; one that is marginal leaves by a planned change. A retrain without alignment in 25 ms begins again, and the third makes
the port FAILED.
Where the spec leaves a point of this open, the model's choice is in log entries 46, 47. -/
def Obligations.LanesTrainAndTheFabricDegrades : Prop :=
  (∀ (e : Fin 8) (port : Fin 48) (vc : Fin 4) (x : Queued) (rest : List (Fin 8 × Fin 48 × Queued)) (s : State),
    s.switch.crossing = (e, port, x) :: rest → x.msg.vc.toNat = vc.val → (s.port port).crossed vc + msgUnits x.msg ≤ 1024 →
    exec (.gridCrossingEnter e port vc) s = .next (State.mapPort { s with switch := { s.switch with crossing := rest } } port
      (fun p => p.enqueue { x with crossed := true }))) ∧
  (∀ (die : Fin 32) (side : Side) (ch : Fin 16) (s : State), (s.die die.val).chdis[sideCode side].getLsbD ch = false → hasBridge die.val side = true →
    (tget (s.die die.val).replays [] (16 * (sideCode side).val + ch.val)).length < 15 →
    ∃ s', exec (.bridgeReplay die side ch) s = .next s' ∧ (s'.die die.val).retry = Rules.saturating (s.die die.val).retry ∧
      (s'.die die.val).chdis = (s.die die.val).chdis ∧ s'.errs = s.errs) ∧
  (∀ (die : Fin 32) (side : Side) (ch : Fin 16) (s : State), (s.die die.val).chdis[sideCode side] = 0 → hasBridge die.val side = true →
    15 ≤ (tget (s.die die.val).replays [] (16 * (sideCode side).val + ch.val)).length →
    (∀ t ∈ tget (s.die die.val).replays [] (16 * (sideCode side).val + ch.val), s.now < t + 1000000) →
    ∃ s', exec (.bridgeReplay die side ch) s = .next s' ∧
      (s'.die die.val).chdis = (s.die die.val).chdis.set (sideCode side) (1 <<< ch.val) ∧
      s'.errs.counts[(1 : Fin 4)] = s.errs.counts[(1 : Fin 4)] + 1) ∧
  (∀ (die : Fin 32) (pos : Fin 272) (s : State), s.anyJob = true →
    ∃ s', exec (.routerDead die pos) s = .next s' ∧ nhas s'.errs.nodeCandidates (272 * die.val + pos.val) = true ∧
      s'.mp.jobs.map (fun j => j.cores) = s.mp.jobs.map (fun j => j.cores)) ∧
  (∀ (port : Fin 48) (lane : Fin 8) (ok : Bool) (far : BitVec 8) (tap : TapAsk) (more : List TapAsk) (y : Lane) (s : State),
    s.mayTrain port lane = true → (s.port port).st = .training →
    Rules.trained ((s.port port).lanes[lane]) ok (s.active.ports[port].txpre[lane]) (tap :: more) y →
    exec (.laneTrainingStep port lane ok far tap more) s = .next (s.mapPort port (fun p => { p with lanes := p.lanes.set lane y }))) ∧
  (∀ (port : Fin 48) (lane : Fin 8) (far : BitVec 8) (tap : TapAsk) (s : State), s.mayTrain port lane = true → (s.port port).st = .down →
    (s.port port).laneen = s.active.ports[port].laneen → (s.port port).lanes[lane].st = .eq →
    4 ≤ lanesIn (((s.port port).mapLane lane (Rules.laneSt .align)).mask (fun x => decide (x.st = .align))) → 4 ≤ lanesIn far →
    exec (.laneTrainingStep port lane true far tap) s = .next (s.mapPort port (fun p =>
      { p with st := .training, lanes := p.lanes.set lane (Rules.laneSt .align (p.lanes[lane].asked tap))
               scr := Config.scramblerSeed s.now }))) ∧
  (∀ (port : Fin 48) (lane : Fin 8) (s : State), s.mayTrain port lane = true → (s.port port).lanes[lane].st = .reset →
    exec (.laneDetectRetry port lane) s = .next (s.mapPort port (fun p => p.mapLane lane (Rules.laneSt .detect)))) ∧
  (∀ (port : Fin 48) (lane : Fin 8) (s : State), (s.port port).lanes[lane].st ≠ .disabled → (s.port port).lanes[lane].st ≠ .failed →
    (s.port port).st ≠ .active →
    exec (.laneLossOfLock port lane) s = .next (s.mapPort port (fun p => p.mapLane lane Rules.laneLost))) ∧
  (∀ (port : Fin 48) (lane : Fin 8) (s : State), (s.port port).lanes[lane].st = .active → (s.port port).rxLanes.getLsbD lane = true →
    (s.port port).st = .active → 4 ≤ lanesIn (Rules.othersInUse (s.port port) lane) →
    exec (.laneLossOfLock port lane) s = .next (s.mapPort port (fun p =>
      Rules.asking (p.mapLane lane Rules.laneLost) s.now (lowest 4 (Rules.othersInUse p lane)) true))) ∧
  (∀ (port : Fin 48) (lane : Fin 8) (n : BitVec 16) (s : State), Rules.windowOf (s.port port) lane n ≤ (s.port port).lthr.toNat →
    exec (.laneMarginal port lane n) s = .next (s.mapPort port (fun p => p.mapLane lane (fun x =>
      { x with symerr := BitVec.ofNat 16 (Rules.windowOf p lane n), count := 0 })))) ∧
  (∀ (port : Fin 48) (lane : Fin 8) (n : BitVec 16) (s : State), (s.port port).lthr.toNat < Rules.windowOf (s.port port) lane n →
    (s.port port).st = .active → (s.port port).lanes[lane].marginal = false →
    (s.port port).rxLanes.getLsbD lane = true → (s.port port).ask = none → (s.port port).lanes[lane].removals = [] →
    4 ≤ lanesIn (Rules.othersInUse (s.port port) lane) →
    exec (.laneMarginal port lane n) s = .next (s.mapPort port (fun p =>
      Rules.asking (p.mapLane lane (fun x => { x with
        symerr := BitVec.ofNat 16 (min 0xFFFF (Rules.windowOf p lane n)), count := 0, removals := [s.now], heldOut := false,
        marginal := true })) s.now
        (lowest 4 (Rules.othersInUse p lane)) false))) ∧
  (∀ (port : Fin 48) (far : BitVec 8) (s : State), (s.port port).st = .training → 4 ≤ lanesIn far →
    4 ≤ lanesIn ((s.port port).mask (fun x => decide (x.st = .align ∨ x.st = .soak))) →
    ∃ s', exec (.portTrainingDone port far) s = .next s' ∧ (s'.port port).st = .active ∧ (s'.port port).txSeq = 0 ∧
      (s'.port port).rxSeq = 0 ∧ (s'.port port).accepted = false ∧ (s'.port port).credits = poolSizes ∧
      (s'.port port).freed = Vector.replicate 5 0 ∧ (s'.port port).kept = [] ∧
      (s'.port port).txLanes = listOf far ∧ (s'.port port).miss = (s.port port).miss ∧
      (s'.port port).control = if s.now < s.mp.wordAt + 5000000 then [.heartbeat] else []) ∧
  (∀ (port : Fin 48) (far : BitVec 8) (s : State), (s.port port).st = .retrain → 4 ≤ lanesIn far →
    4 ≤ lanesIn ((s.port port).mask (fun x => decide (x.st = .align ∨ x.st = .soak))) →
    ∃ s', exec (.portTrainingDone port far) s = .next s' ∧ (s'.port port).st = .active ∧ (s'.port port).kept = (s.port port).kept ∧
      (s'.port port).txSeq = (s.port port).txSeq ∧ (s'.port port).credits = (s.port port).credits ∧
      ∀ g ∈ (s.port port).kept.head?, (s'.port port).replayAt = some 0 ∧ (s'.port port).replayFrom = g.seq - 1) ∧
  (∀ (port : Fin 48) (s : State), (s.port port).st = .active → (s.port port).retrainDue = true →
    ∃ s', exec (.portRetrain port) s = .next s' ∧ (s'.port port).st = .retrain ∧ (s'.port port).kept = (s.port port).kept ∧
      (s'.port port).laneen = s.active.ports[port].laneen ∧ (s'.port port).txMsgs = Vector.replicate 4 [] ∧
      (s'.port port).retrainAt = s.now) ∧
  (∀ (port : Fin 48) (s : State), (s.port port).st = .retrain → (s.port port).retrains < 2 →
    exec (.retrainTimeout port) s = .next (State.mapPort { s with now := max s.now ((s.port port).retrainAt + 25000000) } port
      (fun p => { p.retrainLanes (max s.now ((s.port port).retrainAt + 25000000)) s.active.ports[port] with
        retrains := (s.port port).retrains + 1 }))) ∧
  (∀ (port : Fin 48) (s : State), (s.port port).st = .retrain → 2 ≤ (s.port port).retrains →
    ∃ s', exec (.retrainTimeout port) s = .next s' ∧ (s'.port port).st = .failed ∧ (s'.port port).kept = [])

/-- R323, R342, R344 to R347, R351, Table 11-12: a forced width request changes the transmitter's lanes and begins a burst of REALIGN, a
planned one begins a countdown of SWITCH; requests without answer are repeated, and a planned one without an answer is abandoned, its
lanes no longer marginal; REALIGN, which says where the receiver stands in the frame, and SWITCH end the receiver's request; the change point brings a planned change about. Heartbeats are sent while the heartbeat word is fresh, name the peer and reset MISS;
without one MISS counts.
Where the spec leaves a point of this open, the model's choice is in log entry 47. -/
def Obligations.WidthsChangeAndHeartbeatsPass : Prop :=
  (∀ (port : Fin 48) (l : BitVec 8) (s : State), (s.port port).st = .active → (lanesIn l = 4 ∨ lanesIn l = 8) →
    (s.port port).deaf = false →
    exec (.widthReq port l true) s = .next (s.mapPort port (fun p => { p with forcedTx := some l }))) ∧
  (∀ (port : Fin 48) (l : BitVec 8) (s : State), (s.port port).st = .active → (lanesIn l = 4 ∨ lanesIn l = 8) →
    (s.port port).deaf = false → (s.port port).plan = [] → (s.port port).control = [] →
    exec (.widthReq port l false) s = .next (s.mapPort port (fun p => { p with
      plan := [{ transmit := true, lanes := l, fresh := p.slot != 0, left := none }]
      control := [.switch l 64, .switch l 63, .switch l 62, .switch l 61, .switch l 60, .switch l 59, .switch l 58, .switch l 57] }))) ∧
  (∀ (port : Fin 48) (a : WidthAsk) (s : State), (s.port port).ask = some a → a.attempts < 8 →
    exec (.widthReqRepeat port) s = .next (State.mapPort { s with now := max s.now (a.at_ + if a.forced then 4000 else 100000) } port
      (fun p => { p with
        ask := some { a with attempts := a.attempts + 1, at_ := max s.now (a.at_ + if a.forced then 4000 else 100000) }
        control := p.control ++ [.widthReq a.lanes a.forced] }))) ∧
  (∀ (port : Fin 48) (a : WidthAsk) (s : State), (s.port port).ask = some a → 8 ≤ a.attempts → a.forced = true →
    exec (.widthReqRepeat port) s = .next (State.mapPort { s with now := max s.now (a.at_ + 4000) } port
      (fun p => { p with ask := none, retrainDue := true }))) ∧
  (∀ (port : Fin 48) (a : WidthAsk) (s : State), (s.port port).ask = some a → 8 ≤ a.attempts → a.forced = false →
    ∃ s', exec (.widthReqRepeat port) s = .next s' ∧ (s'.port port).ask = none ∧ (s'.port port).retrainDue = (s.port port).retrainDue ∧
      ∀ k : Fin 8, ((s'.port port).lanes[k]).marginal = false ∧ ((s'.port port).lanes[k]).st = ((s.port port).lanes[k]).st) ∧
  (∀ (port : Fin 48) (a : WidthAsk) (nth : Fin 8) (s : State), (s.port port).ask = some a → a.forced = true →
    exec (.realign port a.lanes nth) s = .next (s.mapPort port (fun p =>
      { p.useRx s.now a.lanes with
        ask := none, widthchg := Rules.saturating p.widthchg, rxSlot := Fin.ofNat 5 (nth.val + 1), wordBad := false
        badWords := 0 }))) ∧
  (∀ (port : Fin 48) (a : WidthAsk) (n : BitVec 8) (s : State), (s.port port).ask = some a → a.forced = false → 57 ≤ n.toNat →
    n.toNat ≤ 64 →
    exec (.switch port a.lanes n) s = .next (s.mapPort port (fun p =>
      { p with ask := none, plan := p.plan ++ [{ transmit := false, lanes := a.lanes, fresh := false, left := some (n.toNat + 1) }] }))) ∧
  (∀ (port : Fin 48) (l : BitVec 8) (fr : Bool) (s : State),
    (s.port port).plan = [{ transmit := true, lanes := l, fresh := fr, left := some 0 }] →
    (s.port port).control = [] →
    exec (.widthChangePoint port) s = .next (s.mapPort port (fun p =>
      { p with plan := [], txLanes := l, widthchg := Rules.saturating p.widthchg }))) ∧
  (∀ (port : Fin 48) (s : State), (s.port port).st = .active → max s.now ((s.port port).hbAt + 1000000) < s.mp.wordAt + 5000000 →
    exec (.heartbeatSend port) s = .next (State.mapPort { s with now := max s.now ((s.port port).hbAt + 1000000) } port (fun p =>
      { p with hbAt := max s.now ((s.port port).hbAt + 1000000), hbseq := p.hbseq + 1, control := p.control ++ [.heartbeat] }))) ∧
  (∀ (s : State), ∃ s', exec .hbWordStale s = .next s' ∧ s'.now = max s.now (s.mp.wordAt + 5000000) ∧
    ∀ p : Fin 48, .heartbeat ∉ (s'.port p).control) ∧
  (∀ (port : Fin 48) (m : ModuleId) (pp : BitVec 6) (ms : BitVec 4) (n : BitVec 32) (s : State), (s.port port).st = .active →
    (s.port port).deaf = false → (s.port port).peer = some (m, pp) → ms ≠ 2 →
    exec (.heartbeat port m pp ms n) s = .next (s.mapPort port (fun p => { p with miss := 0, hbState := ms }))) ∧
  (∀ (port : Fin 48) (m x : ModuleId) (pp y : BitVec 6) (ms : BitVec 4) (n : BitVec 32) (s : State), (s.port port).st = .active →
    (s.port port).deaf = false → (s.port port).peer = some (x, y) → (x, y) ≠ (m, pp) →
    ∃ s', exec (.heartbeat port m pp ms n) s = .next s' ∧ (s'.port port).st = .down ∧ (s'.port port).peer = none ∧
      (s'.port port).miss = 0 ∧ (s'.port port).hbState = ms) ∧
  (∀ (port : Fin 48) (s : State), (s.port port).st ≠ .disabled → (s.port port).miss.toNat + 1 ≠ (s.port port).hblim.toNat →
    exec (.heartbeatMiss port) s = .next (s.mapPort port (fun p =>
      { p with miss := if p.miss = 0xFFFF then p.miss else p.miss + 1 }))) ∧
  (∀ (port : Fin 48) (l : BitVec 8) (s : State), (s.port port).st = .active → (s.port port).slot = 0 → (s.port port).plan = [] →
    (s.port port).control = [] → (s.port port).forcedTx = some l →
    ∃ s' f, exec (.txFlitSlot port) s = .next s' ∧ (s'.port port).txFlit = some f ∧ f.kind = 2 ∧
      controlOf (f.units.headD 0) = some (.realign l) ∧ (s'.port port).txLanes = l ∧ (s'.port port).replayAt = none ∧
      (s'.port port).widthchg = Rules.saturating (s.port port).widthchg ∧ (s'.port port).forcedTx = none ∧
      (s'.port port).control = List.replicate 7 (.realign l)) ∧
  (∀ (port : Fin 48) (l : BitVec 8) (s : State), (s.port port).st = .active → (s.port port).slot = 0 →
    (s.port port).plan = [{ transmit := true, lanes := l, fresh := false, left := some 1 }] → (s.port port).forcedTx = none →
    (s.port port).control = [] → (s.port port).txUnits = [] → Rules.noMessages (s.port port) → (s.port port).replayAt = none →
    ∃ s', exec (.txFlitSlot port) s = .next s' ∧ (s'.port port).txLanes = l ∧ (s'.port port).plan = [] ∧
      (s'.port port).widthchg = Rules.saturating (s.port port).widthchg)

/-- R316, R318, R326 to R333, R337, R339, R342, Tables 11-7 and 11-9: a slot with nothing to carry sends an IDLE flit with the acknowledgement and the
credits; a bad flit is discarded, counted and asks for a replay; a good DATA flit with the number expected is taken, and its
acknowledgement frees the retry buffer. Without an acknowledgement for 4 µs the kept flits are sent again, and so is a NAK. More than
8 symbols in error of a code word are uncorrectable; up to 8 are corrected and counted, for the port and for the lanes that carried
them. The message of a CONTROL flit takes its effect.
Where the spec leaves a point of this open, the model's choice is in log entry 3. -/
def Obligations.FlitsAreSentAndAcknowledged : Prop :=
  (∀ (port : Fin 48) (s : State), (s.port port).st = .active → (s.port port).control = [] → (s.port port).replayAt = none →
    (s.port port).txUnits = [] → Rules.noMessages (s.port port) → (s.port port).plan = [] → (s.port port).forcedTx = none →
    ∃ s' f, exec (.txFlitSlot port) s = .next s' ∧ (s'.port port).txFlit = some f ∧ f.kind = 1 ∧
      f.ack = (if (s.port port).accepted then (s.port port).rxSeq - 1 else 0) ∧ f.resv = 0 ∧ f.crc = crc32c (flitBody f) ∧
      f.ackv = (s.port port).accepted ∧ f.nak = (s.port port).nakDue ∧ f.crp = BitVec.ofNat 3 (s.port port).crNext.val ∧
      f.crn = (s.port port).freed[(s.port port).crNext] ∧ (s'.port port).slot = (s.port port).slot + 1 ∧
      (s'.port port).kept = (s.port port).kept ∧ (s'.port port).nakDue = false ∧
      ((s.port port).slot ≠ 4 → (s'.port port).frame = (s.port port).frame ++ [f]) ∧
      ((s.port port).slot = 4 → (s'.port port).frame = [] ∧
        ((s'.port port).words, (s'.port port).scr) = frameWords ((s.port port).frame ++ [f]) (s.port port).scr)) ∧
  (∀ (port : Fin 48) (f : Flit) (s : State), (s.port port).st = .active → Rules.quiet (s.port port) →
    f.crc ≠ flitChecksum f →
    exec (.flitReceive port f [] []) s = .next (s.mapPort port (fun p =>
      { Rules.framed p with crcerr := Rules.saturating p.crcerr, nakDue := true }))) ∧
  (∀ (port : Fin 48) (f : Flit) (us : List Chunk) (s : State), (s.port port).st = .active → Rules.quiet (s.port port) →
    Rules.good f → f.kind = 0 → f.ackv = false → f.nak = false → 5 ≤ f.crp.toNat → 5 ≤ f.crp2.toNat →
    f.seq = (s.port port).rxSeq → f.units = padUnit :: us → (s.port port).partUnits = [] → (s.port port).rxMsgs = [] →
    exec (.flitReceive port f [] []) s = .next (s.mapPort port (fun p =>
      { Rules.framed p with rxSeq := p.rxSeq + 1, accepted := true, nakAt := none }))) ∧
  (∀ (port : Fin 48) (f g : Flit) (s : State), (s.port port).st = .active → Rules.quiet (s.port port) →
    Rules.good f → f.kind = 1 → f.ackv = true → f.nak = false → 5 ≤ f.crp.toNat → 5 ≤ f.crp2.toNat → (s.port port).kept = [g] →
    g.seq = f.ack → (s.port port).replayAt = none →
    exec (.flitReceive port f [] []) s = .next (s.mapPort port (fun p =>
      { Rules.framed p with kept := [], ackAt := s.now, stuck := 0 }))) ∧
  (∀ (port : Fin 48) (f : Flit) (k : Fin 5) (s : State), (s.port port).st = .active → Rules.quiet (s.port port) →
    Rules.good f → f.kind = 1 → f.ackv = false → f.nak = false → f.crp.toNat = k.val → 5 ≤ f.crp2.toNat →
    exec (.flitReceive port f [] []) s = .next (s.mapPort port (fun p => { Rules.framed p with
      credits := p.credits.set k (p.credits[k] + (f.crn - p.crnSeen[k]).toNat), crnSeen := p.crnSeen.set k f.crn }))) ∧
  (∀ (port : Fin 48) (s : State), (s.port port).st = .active → (s.port port).kept ≠ [] →
    ∃ s', exec (.replayTimeout port) s = .next s' ∧ s'.now = max s.now ((s.port port).ackAt + 4000) ∧
      (s'.port port).replayAt = some 0 ∧ (s'.port port).replay = Rules.saturating (s.port port).replay ∧
      (s'.port port).kept = (s.port port).kept) ∧
  (∀ (port : Fin 48) (t : Nat) (s : State), (s.port port).nakAt = some t →
    exec (.nakResend port) s = .next (State.mapPort { s with now := max s.now (t + 4000) } port (fun p => { p with nakDue := true }))) ∧
  (∀ (port : Fin 48) (f : Flit) (errors other : List (Fin 528)) (s : State), (s.port port).st = .active → Rules.quiet (s.port port) →
    ((s.port port).rxSlot = 0 ∧ 8 < errors.length ∨ (s.port port).rxSlot = 2 ∧ 8 < other.length) →
    exec (.flitReceive port f errors other) s = .next (s.mapPort port (fun p =>
      { Rules.framed p with
        fecunc := Rules.saturating p.fecunc, wordBad := true, badWords := p.badWords + 1, crcerr := Rules.saturating p.crcerr, nakDue := true }))) ∧
  (∀ (port : Fin 48) (f : Flit) (errors other : List (Fin 528)) (s : State), (s.port port).st = .active → Rules.quiet (s.port port) →
    Rules.good f → f.kind = 1 → f.ackv = false → f.nak = false → 5 ≤ f.crp.toNat → 5 ≤ f.crp2.toNat →
    (s.port port).rxSlot = 0 → errors.length ≤ 8 → (∀ k : Fin 8, (s.port port).lanes[k].run < 31) →
    ∃ s', exec (.flitReceive port f errors other) s = .next s' ∧ s'.now = s.now ∧
      (s'.port port).feccorr = BitVec.ofNat 32 (min 0xFFFFFFFF ((s.port port).feccorr.toNat + errors.length)) ∧
      (s'.port port).crcerr = (s.port port).crcerr ∧ (s'.port port).ask = none ∧
      ∀ k : Fin 8, (s'.port port).lanes[k].count =
        (s.port port).lanes[k].count + (errors.filter (fun i => laneAt (s.port port).rxLanes i.val == some k)).length) ∧
  (∀ (port : Fin 48) (f : Flit) (l : BitVec 8) (s : State), (s.port port).st = .active → Rules.quiet (s.port port) →
    Rules.good f → f.kind = 2 → f.ackv = false → f.nak = false → 5 ≤ f.crp.toNat → 5 ≤ f.crp2.toNat →
    controlOf (f.units.headD 0) = some (.widthReq l true) → (lanesIn l = 4 ∨ lanesIn l = 8) →
    exec (.flitReceive port f [] []) s = .next (s.mapPort port (fun p => { Rules.framed p with forcedTx := some l })))


/-! ### Messages, requests and reductions -/

namespace Sys2Proof.Rules

/-- `o` answers message `m`: a posted message of TYPE `type` with AUX and data that returns TAG and SPORT to the requester (R330). -/
abbrev Answers (o : Outgoing) (m : LinkMsg) (type : BitVec 4) (aux : BitVec 8) (data : List Byte) : Prop :=
  o.who = none ∧ o.msg.type = type ∧ o.msg.dmod = m.smod ∧ o.msg.tag = m.tag ∧ o.msg.sport = m.sport ∧ o.msg.aux = aux ∧
    o.msg.data = data ∧ o.msg.addr = m.addr

/-- The last message that waits for its first hop answers `m`. -/
abbrev answered (s : State) (m : LinkMsg) (type : BitVec 4) (aux : BitVec 8) (data : List Byte) : Prop :=
  ∃ o, s.switch.waiting.getLast? = some o ∧ Answers o m type aux data

/-- A message is for this module, of a type, and the next of its virtual channel at the port (R334). -/
abbrev Due (s : State) (port : Fin 48) (m : LinkMsg) (type : BitVec 4) : Prop :=
  m.type = type ∧ m.dmod = s.self ∧ (s.port port).inTurn m = true

/-- Such a message which the checks of R364 let through. -/
abbrev Passes (s : State) (port : Fin 48) (m : LinkMsg) (type : BitVec 4) (writes : Bool) : Prop :=
  Due s port m type ∧ s.refusal m writes = none ∧ s.adopting m = false

/-- A message for the scratchpad of a core finds it quiet: what the core would do of its own in the same step is said elsewhere. -/
abbrev Calmly (s : State) (m : LinkMsg) : Prop := m.pkg = true → s.quiet (pkgCore m) = true

/-- The cores keep what they hold: those that a message does not address all of it, the one it addresses its scratchpad. -/
abbrev kept (s s' : State) (m : LinkMsg) : Prop :=
  (∀ id, (m.pkg = true → id ≠ pkgCore m) → s'.core id = s.core id) ∧
    (s'.core (pkgCore m)).spm.mem = (s.core (pkgCore m)).spm.mem ∧ (s'.core (pkgCore m)).spm.poison = (s.core (pkgCore m)).spm.poison

/-- The new value of an ATOMIC that found `old` (Table 12-6). -/
def atomicValue (m : LinkMsg) (old : Nat) : Nat :=
  if m.subop = 0 then (if old = word64At m.data 0 then word64At m.data 8 else old)
  else if m.subop = 1 then word64At m.data 0
  else (old + word64At m.data 0) % 2 ^ 64

/-- A mirror write of this module's partner that R392 accepts as to its place and form. -/
abbrev MirrorOk (s : State) (port : Fin 48) (m : LinkMsg) : Prop :=
  Due s port m 3 ∧ s.active.bind.en = true ∧ m.smod = s.active.bind.partner ∧
    m.addr.toNat < s.active.bind.cap.toNat * 65536 ∧ m.pkg = false ∧ m.addr.toNat % 256 = 0 ∧ m.data.length = 256 ∧ m.gv = true ∧
    s.storeShut = false

/-- A response to a tag in use at the port its SPORT names. -/
abbrev Returns (s : State) (port : Fin 48) (m : LinkMsg) (type : BitVec 4) (q : Fin 48) (k : Nat) (u : TagUse) : Prop :=
  Due s port m type ∧ m.sport.toNat = q.val ∧ (s.port q).tags.find? (fun t => t.1 == m.tag.toNat) = some (k, u)

/-- The block once a message has left the receive queue of a port. -/
def received (s : State) (port : Fin 48) (m : LinkMsg) : State := s.mapPort port (fun p => p.passed m)

/-- What a message of this module's own carries on its first hop (R349, R360, R404). -/
def relocated (s : State) (m : LinkMsg) : LinkMsg :=
  { m with dmod := s.active.route.relocate m.dmod, rstate := rstateOf 0 false false s.switch.ep }

end Sys2Proof.Rules

/-- R330, R364, R365, R367, R392, Table 12-6: a WRITE that the checks pass stores its data and is answered DONE; a READ is answered with the
bytes; an ATOMIC changes 8 bytes and returns what they held; a request that the checks refuse is answered REFUSED with the reason and
changes nothing. A mirror write of the partner is stored, or discarded and counted when its generation is stale.
Where the spec leaves a point of this open, the model's choice is in log entries 49, 50, 51. -/
def Obligations.RequestsActAtTheirDestination : Prop :=
  (∀ (port : Fin 48) (m : LinkMsg) (s : State), Rules.Passes s port m 0 true → s.destBlocked m = false → Rules.Calmly s m →
    ∃ s', exec (.write port m) s = .next s' ∧ (s'.destGet m m.data.length).bytes = m.data ∧ Rules.answered s' m 9 0 []) ∧
  (∀ (port : Fin 48) (m : LinkMsg) (s : State), Rules.Passes s port m 0 true → m.pkg = false → s.flask.regions = [] →
    ∃ s', exec (.write port m) s = .next s' ∧ s'.cores = s.cores ∧
      ∀ a, a < m.addr.toNat ∨ m.addr.toNat + m.data.length ≤ a → memRead s'.hbm.mem a = memRead s.hbm.mem a) ∧
  (∀ (port : Fin 48) (m : LinkMsg) (s : State), Rules.Passes s port m 1 false → (s.destGet m (16 * m.aux.toNat)).poison = [] →
    Rules.Calmly s m →
    ∃ s', exec (.read port m) s = .next s' ∧ Rules.answered s' m 8 0 (s.destGet m (16 * m.aux.toNat)).bytes ∧
      s'.hbm = s.hbm ∧ Rules.kept s s' m) ∧
  (∀ (port : Fin 48) (m : LinkMsg) (f : HbmFinding) (s : State), Rules.Passes s port m 1 false → m.pkg = false → f ≠ .clean →
    (s.destMeet m (16 * m.aux.toNat) [] f).hbm.poison = s.hbm.poison → (s.destGet m (16 * m.aux.toNat)).poison = [] →
    ∃ s', exec (.read port m [] f) s = .next s' ∧ Rules.answered s' m 8 0 (s.destGet m (16 * m.aux.toNat)).bytes ∧
      s'.hbm = (s.destMeet m (16 * m.aux.toNat) [] f).hbm) ∧
  (∀ (port : Fin 48) (m : LinkMsg) (s : State), Rules.Passes s port m 2 true → s.destBlocked m = false → (s.destGet m 8).poison = [] →
    Rules.Calmly s m →
    ∃ s', exec (.atomic port m) s = .next s' ∧
      leNat (s'.destGet m 8).bytes = Rules.atomicValue m (leNat (s.destGet m 8).bytes) ∧
      Rules.answered s' m 8 0 (leBytes 16 (leNat (s.destGet m 8).bytes))) ∧
  (∀ (port : Fin 48) (m : LinkMsg) (r : BitVec 8) (s : State), m.dmod = s.self → (s.port port).inTurn m = true → s.refusal m true = some r → r ≠ 1 →
    (m.type = 0 →
      ∃ s', exec (.write port m) s = .next s' ∧ Rules.answered s' m 0xA r [] ∧ s'.hbm = s.hbm ∧ s'.cores = s.cores) ∧
    (m.type = 2 →
      ∃ s', exec (.atomic port m) s = .next s' ∧ Rules.answered s' m 0xA r [] ∧ s'.hbm = s.hbm ∧ s'.cores = s.cores) ∧
    (m.type = 4 →
      ∃ s', exec (.reduceFwd port m) s = .next s' ∧ Rules.answered s' m 0xA r [] ∧ s'.hbm = s.hbm ∧ s'.cores = s.cores)) ∧
  (∀ (port : Fin 48) (m : LinkMsg) (r : BitVec 8) (s : State), Rules.Due s port m 1 → s.refusal m false = some r → r ≠ 1 →
    ∃ s', exec (.read port m) s = .next s' ∧ Rules.answered s' m 0xA r [] ∧ s'.hbm = s.hbm ∧ s'.cores = s.cores) ∧
  (∀ (port : Fin 48) (m : LinkMsg) (s : State), Rules.MirrorOk s port m → m.subop = 0 → m.egen.toNat = s.flask.expect.toNat % 256 →
    ∃ s', exec (.mirrorWrite port m) s = .next s' ∧ Rules.answered s' m 9 0 [] ∧
      s'.hbm.mem = memWriteN s.hbm.mem (s.active.bind.store.toNat * 65536 + m.addr.toNat) m.data ∧ s'.flask = s.flask) ∧
  (∀ (port : Fin 48) (m : LinkMsg) (s : State), Rules.MirrorOk s port m → m.subop.toNat ≤ 2 → m.egen.toNat ≠ s.flask.expect.toNat % 256 →
    ∃ s', exec (.mirrorWrite port m) s = .next s' ∧ Rules.answered s' m 9 0 [] ∧ s'.hbm = s.hbm ∧
      s'.flask.stale = Rules.saturating s.flask.stale) ∧
  (∀ (port : Fin 48) (m : LinkMsg) (s : State), Rules.Due s port m 3 → s.active.bind.en = false →
    ∃ s', exec (.mirrorWrite port m) s = .next s' ∧ Rules.answered s' m 0xA 8 [] ∧ s'.hbm = s.hbm)

/-- R331, R334, R340, R341, R354, R356, R358, R360: a response frees its tag and ends its request at the requester; a refusal counts; a
response to a free tag, or one that does not answer the request which holds the tag now, is discarded and counted. A request without a response in REQTMO ends, and its tag rests for a further REQTMO.
A management message without room is dropped and counted. A message takes its chosen hop, relocated first, one in transit in its turn (R334); without a
route it is counted, and TIME_SYNC is never forwarded (R377). The grace period's end discards the previous routing table.
Where the spec leaves a point of this open, the model's choice is in log entries 48, 49. -/
def Obligations.MessagesAreForwardedAndAnswered : Prop :=
  (∀ (port q : Fin 48) (m : LinkMsg) (k key : Nat) (u : TagUse) (core : CoreId) (dq : Fin 4) (s : State),
    Rules.Returns s port m 8 q k u → u.who = .dma core dq key → m.smod = u.msg.dmod →
    (u.msg.type = 1 ∧ m.data.length = 16 * u.msg.aux.toNat ∨ u.msg.type = 2 ∧ m.data.length = 16) →
    exec (.rdata port m) s = .next (State.setCore ((Rules.received s port m).mapPort q (fun p => { p with tags := tdel p.tags k })) core
      ((s.core core).setAnswer dq key .ok (.clean m.data)))) ∧
  (∀ (port q : Fin 48) (m : LinkMsg) (k key : Nat) (u : TagUse) (core : CoreId) (dq : Fin 4) (s : State),
    Rules.Returns s port m 9 q k u → u.who = .dma core dq key → m.smod = u.msg.dmod →
    (u.msg.type = 0 ∨ u.msg.type = 3 ∨ u.msg.type = 4) →
    exec (.done port m) s = .next (State.setCore ((Rules.received s port m).mapPort q (fun p => { p with tags := tdel p.tags k })) core
      ((s.core core).setAnswer dq key .ok .empty))) ∧
  (∀ (port q : Fin 48) (m : LinkMsg) (k key : Nat) (u : TagUse) (core : CoreId) (dq : Fin 4) (s : State),
    Rules.Returns s port m 0xA q k u → u.who = .dma core dq key → (m.smod = u.msg.dmod ∨ m.aux = 6) →
    exec (.refused port m) s = .next (State.setCore ((Rules.received s port m).mapPort q (fun p =>
      { p with tags := tdel p.tags k, refrx := Rules.saturating p.refrx })) core
        ((s.core core).setAnswer dq key (.refused m.aux) .empty))) ∧
  (∀ (port q : Fin 48) (m : LinkMsg) (s : State), Rules.Due s port m 9 → m.sport.toNat = q.val →
    (s.port q).tags.find? (fun t => t.1 == m.tag.toNat) = none →
    exec (.done port m) s = .next ((Rules.received s port m).mapPort q (fun p => { p with latersp := Rules.saturating p.latersp }))) ∧
  (∀ (port : Fin 48) (tag : BitVec 12) (k key : Nat) (u : TagUse) (core : CoreId) (dq : Fin 4) (s : State),
    (s.port port).tags.find? (fun x => x.1 == tag.toNat) = some (k, u) → u.who = .dma core dq key →
    ∃ s', exec (.requestTimeout port tag) s = .next s' ∧ s'.now = max s.now (u.sent + (s.port port).reqtmo.toNat * 1000) ∧
      (s'.port port).tags = tdel (s.port port).tags k ∧ (s'.port port).cooling = tset (s.port port).cooling k s'.now ∧
      s'.core core = (s.core core).setAnswer dq key
        (.timeout (if u.msg.pkg then BitVec.ofNat 13 (u.msg.addr.toNat / 2 ^ 22) else 0)) .empty) ∧
  (∀ (port : Fin 48) (tag : BitVec 12) (k t : Nat) (s : State), (s.port port).cooling.find? (fun x => x.1 == tag.toNat) = some (k, t) →
    exec (.tagReuseExpiry port tag) s = .next (State.mapPort
      { s with now := max s.now (t + (s.port port).reqtmo.toNat * 1000) } port (fun p => { p with cooling := tdel p.cooling k }))) ∧
  (∀ (port : Fin 48) (m : LinkMsg) (s : State), Rules.Due s port m 5 →
    exec (.mgmt port m false) s = .next { Rules.received s port m with
      switch := { s.switch with mgmtdrop := Rules.saturating s.switch.mgmtdrop } }) ∧
  (∀ (port : Fin 48) (m : LinkMsg) (s : State), Rules.Due s port m 5 → (m.subop = 2 ∨ m.subop = 3) → s.active.anchor = true →
    s.host.rxwp + 1 ≠ s.host.rxrp →
    ∃ s', exec (.mgmt port m true) s = .next s' ∧ tget s'.host.rx m s.host.rxwp.toNat = m ∧ s'.host.rxwp = s.host.rxwp + 1) ∧
  (∀ (e : Fin 8) (came : Arrived) (m : LinkMsg) (s : State), m.type = 6 → exec (.forwardMessage e came m) s = .next s) ∧
  (∀ (e : Fin 8) (m : LinkMsg) (p : Fin 48) (s : State), s.stopped m = false → m.type ≠ 6 →
    s.switch.waiting = [{ edie := e, msg := m, who := none }] → (Rules.relocated s m).dmod ≠ s.self →
    s.choose s.active.route e (s.hops s.active.route .fromSource (Rules.relocated s m)) = some (p, false) →
    exec (.forwardMessage e .fromSource m) s = .next (State.depart { s with switch := { s.switch with waiting := [] } } e p
      { crossed := false, edie := e, came := .fromSource, base := m, who := none
        msg := hopped s.active.route (Rules.relocated s m) p false
          (s.hops s.active.route .fromSource (Rules.relocated s m)).detour })) ∧
  (∀ (e : Fin 8) (m : LinkMsg) (s : State), s.stopped m = false → m.type ≠ 6 →
    s.switch.waiting = [{ edie := e, msg := m, who := none }] →
    (Rules.relocated s m).dmod ≠ s.self →
    s.choose s.active.route e (s.hops s.active.route .fromSource (Rules.relocated s m)) = none →
    exec (.forwardMessage e .fromSource m) s = .next { s with
      switch := { s.switch with waiting := [], noroute := Rules.saturating s.switch.noroute } }) ∧
  (∀ (t : RouteTable) (at_ : Nat) (s : State), s.switch.previous = some t → s.switch.swapAt = some at_ →
    exec .rtGraceExpiry s = .next { s with
      now := max s.now (at_ + s.active.route.grace.toNat * 1000), switch := { s.switch with previous := none } }) ∧
  (∀ (port q : Fin 48) (m : LinkMsg) (k : Nat) (u : TagUse) (s : State), Rules.Returns s port m 8 q k u → m.smod ≠ u.msg.dmod →
    exec (.rdata port m) s = .next ((Rules.received s port m).mapPort q (fun p => { p with latersp := Rules.saturating p.latersp }))) ∧
  (∀ (port q : Fin 48) (m : LinkMsg) (k : Nat) (u : TagUse) (s : State), Rules.Returns s port m 8 q k u → u.msg.type = 1 →
    m.data.length ≠ 16 * u.msg.aux.toNat →
    exec (.rdata port m) s = .next ((Rules.received s port m).mapPort q (fun p => { p with latersp := Rules.saturating p.latersp }))) ∧
  (∀ (e : Fin 8) (p q : Fin 48) (m : LinkMsg) (s : State), s.stopped m = false → m.type ≠ 6 → m.dmod ≠ s.self → p.val / 6 = e.val →
    s.switch.again = [] → (s.port p).rxMsgs.find? (fun x => x.vc == m.vc) = some m →
    (Rules.received s p m).choose (s.routes (m.rstate.getLsbD 3)) e (s.hops (s.routes (m.rstate.getLsbD 3)) (.localPort p) m) =
      some (q, false) →
    exec (.forwardMessage e (.localPort p) m) s = .next (State.depart (Rules.received s p m) e q
      { crossed := false, edie := e, came := .localPort p, base := m, who := none
        msg := hopped (s.routes (m.rstate.getLsbD 3)) m q false
          (s.hops (s.routes (m.rstate.getLsbD 3)) (.localPort p) m).detour }))

/-- R366, R367, R369 to R373: a REDUCE_FWD outside every context's window is added directly and answered DONE; one of a contributor of
a context joins the round of its line. A round with all its contributions is added to the line as the root of the tree, and DONE
goes to its contributors; a round open for RLTMO is discarded with a record fatal to the job.
Where the spec leaves a point of this open, the model's choice is in log entries 51, 52. -/
def Obligations.ReductionsAddAndAnswer : Prop :=
  (∀ (port : Fin 48) (m : LinkMsg) (s : State), Rules.Passes s port m 4 true → s.ctxOf m = none → s.destBlocked m = false →
    Rules.Calmly s m →
    ∃ s', exec (.reduceFwd port m) s = .next s' ∧ Rules.answered s' m 9 0 [] ∧
      (s'.destGet m (reqBytes m)).bytes =
        reduceBytes (redTy m.subop.toNat) (s.destGet m (reqBytes m)).bytes (m.data.take (reqBytes m))) ∧
  (∀ (port : Fin 48) (m : LinkMsg) (x : Fin 16) (i : Nat) (s : State), Rules.Passes s port m 4 true → s.ctxOf m = some x →
    m.addr.toNat % 256 = 0 → m.data.length = 256 → m.subop.toNat = (s.redCtx x).fmt.toNat → (s.redCtx x).position m.smod = some i →
    (s.redCtx x).rounds.find? (fun r => r.line == m.addr.toNat / 256) = none →
    (s.redCtx x).halted = false → (s.engineLoad (engineOf (s.redCtx x).pkg (m.addr.toNat / 256))).1 < 4096 →
    (s.engineLoad (engineOf (s.redCtx x).pkg (m.addr.toNat / 256))).2 < 32768 →
    exec (.reduceFwd port m) s = .next ((Rules.received s port m).mapRed x (fun c => { c with
      rounds := c.rounds ++ [{ line := m.addr.toNat / 256, opened := s.now, parts :=
        [{ pos := i, smod := m.smod, tag := m.tag, sport := m.sport, line := m.addr.toNat / 256, data := m.data }] }] }))) ∧
  (∀ (x : Fin 16) (line : BitVec 32) (r : Round) (k : Contribution) (s : State),
    (s.redCtx x).rounds = [r] → r.line = line.toNat → r.parts = [k] → k.line = line.toNat → k.data.length = 256 → k.pos < 32 →
    (s.redCtx x).needed = [k.pos] → (s.redCtx x).pkg = false → (s.redCtx x).spill = [] → s.hbmBlocked (256 * line.toNat) 256 = false →
    ∃ s', exec (.reductionRoundComplete x line) s = .next s' ∧ (s'.redCtx x).rounds = [] ∧
      (∃ o, s'.switch.waiting.getLast? = some o ∧ o.msg.type = 9 ∧ o.msg.dmod = k.smod ∧ o.msg.tag = k.tag ∧ o.msg.sport = k.sport) ∧
      memReadN s'.hbm.mem (256 * line.toNat) 256 =
        reduceBytes (redTy (s.redCtx x).fmt.toNat) (memReadN s.hbm.mem (256 * line.toNat) 256) k.data) ∧
  (∀ (x : Fin 16) (line : BitVec 32) (r : Round) (s : State), (s.redCtx x).rounds = [r] → r.line = line.toNat →
    ∃ s', exec (.roundTimeout x line) s = .next s' ∧ (s'.redCtx x).rounds = [] ∧
      s'.now = max s.now (r.opened + (s.redCtx x).rltmo.toNat * 1000) ∧
      s'.errs.counts[(2 : Fin 4)] = s.errs.counts[(2 : Fin 4)] + 1 ∧ s'.switch.waiting.take s.switch.waiting.length = s.switch.waiting)


/-! ### Time, sizing, protection and the management processors -/

namespace Sys2Proof.Rules

/-- The block at a later time, with the message that waited at a port taken. -/
def synced (s : State) (port : Fin 48) (subop : BitVec 3) (stamp : DWord) (seq : Word) : State := s.takeSync port subop stamp seq

/-- A follower's port on which an exchange goes on. -/
abbrev Following (s : State) (port : Fin 48) : Prop := (s.port port).st = .active ∧ s.follows port = true
/-- A parent's port. -/
abbrev Parenting (s : State) (port : Fin 48) : Prop := (s.port port).st = .active ∧ s.follows port = false

/-- The block with the power state `p`. -/
def withPower (s : State) (p : Power) : State := { s with power := p }

/-- The block at time `t` or later. -/
def upTo (s : State) (t : Nat) : State := { s with now := max s.now t }

/-- The estimate of the millisecond that ends, with the modelled losses (R425). -/
def estimated (s : State) (losses : Nat) : Nat :=
  (if s.power.estCount = 0 then s.power.estimate else s.power.estSum / s.power.estCount) + losses

/-- The management processors are both up. -/
abbrev bothUp (s : State) : Prop := s.board.stage ≠ .held ∧ s.mp.heldA = false ∧ s.mp.heldB = false

/-- A record of severity `k` has been counted. -/
abbrev counted (s s' : State) (k : Fin 4) : Prop := s'.errs.counts[k] = s.errs.counts[k] + 1

end Sys2Proof.Rules

/-- R356, R375 to R380, Table 12-10: a parent sends SYNC with its time and answers DELAY_REQ with the stamp of its arrival; a follower answers
SYNC with DELAY_REQ. DELAY_RESP ends the exchange: with a delay more than 4 ns above the least of the last 64 it is discarded and counted as
lost, and so is an exchange that is still open, or whose SYNC never came, when the next is due (R380); else it is accepted: the time base steps by the offset only when no job is loaded and the offset exceeds 1 µs, and 16 offsets
within 2 ns in a row make LOCKED. At a port where the message means nothing it is taken all the same (R356).
Where the spec leaves a point of this open, the model's choice is in log entries 53, 54, 55. -/
def Obligations.FollowersKeepTheParentsTime : Prop :=
  (∀ (port : Fin 48) (seq : Word) (s : State), Rules.Parenting s port →
    exec (.timeSyncExchange port seq) s = .next
      (State.sendSync { s with time := { s.time with sent := seq } } port 0 (BitVec.ofNat 64 (256 * s.now)) seq)) ∧
  (∀ (port : Fin 48) (seq : Word) (s : State), s.follows port = true → s.time.waiting = false → s.time.synced = true →
    exec (.timeSyncExchange port seq) s = .next { s with time := { s.time with synced := false } }) ∧
  (∀ (port : Fin 48) (seq : Word) (s : State), s.follows port = true → (s.time.waiting = true ∨ s.time.synced = false) →
    s.time.lost.toNat < 7 →
    ∃ s', exec (.timeSyncExchange port seq) s = .next s' ∧ s'.time.lost = s.time.lost + 1 ∧ s'.time.waiting = false ∧
      s'.time.synced = false ∧ s'.time.locked = s.time.locked) ∧
  (∀ (port : Fin 48) (t1 t2 t3 : DWord) (seq : Word) (s : State), Rules.Following s port → s.time.waiting = false →
    exec (.sync port t1 t2 t3 seq) s = .next (State.sendSync
      { Rules.synced s port 0 t1 seq with time := { s.time with
        t1 := t1, t2 := t2, t3 := t3, seq := seq, waiting := true, synced := true } }
      port 1 0 seq)) ∧
  (∀ (port : Fin 48) (t4 : DWord) (seq : Word) (s : State), Rules.Parenting s port →
    exec (.delayReq port t4 seq) s = .next ((Rules.synced s port 1 0 seq).sendSync port 2 t4 seq)) ∧
  (∀ (port : Fin 48) (t4 : DWord) (d : Nat) (ds : List Nat) (s : State), Rules.Following s port → s.time.waiting = true →
    s.time.delays = d :: ds → d + 1024 < (s.exchange port t4).1.toNat → s.time.lost.toNat < 7 →
    ∃ s', exec (.delayResp port t4 s.time.seq) s = .next s' ∧ s'.time.lost = s.time.lost + 1 ∧ s'.now = s.now ∧
      s'.time.waiting = false ∧ s'.time.locked = s.time.locked ∧ s'.time.rate = s.time.rate) ∧
  (∀ (port : Fin 48) (t4 : DWord) (s : State), Rules.Following s port → s.time.waiting = true → s.time.delays = [] →
    s.anyJob = true →
    ∃ s', exec (.delayResp port t4 s.time.seq) s = .next s' ∧ s'.time.lost = 0 ∧ s'.time.hold = false ∧ s'.now = s.now ∧
      s'.time.delays = [(s.exchange port t4).1.toNat] ∧ s'.time.learned = s.time.learned ∧
      (15 ≤ s.time.inRun → (s.exchange port t4).2.natAbs ≤ 512 → s'.time.locked = true)) ∧
  (∀ (port : Fin 48) (t4 : DWord) (s : State), Rules.Following s port → s.time.waiting = true → s.time.delays = [] →
    s.anyJob = false → 256000 < (s.exchange port t4).2.natAbs →
    ∃ s', exec (.delayResp port t4 s.time.seq) s = .next s' ∧
      s'.now = ((s.now : Int) - (s.exchange port t4).2 / 256).toNat ∧ s'.time.rate = s.time.rate) ∧
  (∀ (port : Fin 48) (s : State), Rules.Following s port → s.time.hold = false →
    (s.leaveActive port).time.hold = true ∧ (s.leaveActive port).time.locked = false ∧
      (s.leaveActive port).time.rate = s.time.learned) ∧
  (∀ (port : Fin 48) (t1 t2 t3 : DWord) (seq : Word) (s : State), s.follows port = false →
    exec (.sync port t1 t2 t3 seq) s = .next (Rules.synced s port 0 t1 seq)) ∧
  (∀ (port : Fin 48) (t4 : DWord) (seq : Word) (s : State), s.follows port = true →
    exec (.delayReq port t4 seq) s = .next (Rules.synced s port 1 0 seq)) ∧
  (∀ (port : Fin 48) (t4 : DWord) (seq : Word) (s : State), s.follows port = false →
    exec (.delayResp port t4 seq) s = .next (Rules.synced s port 2 t4 seq))

/-- R415, R418, R419, R421 to R436, Table 14-7: a droop is counted; samples are kept and averaged; without one for 10 ms telemetry is stale; estimates are
noted; in opportunistic mode a die's target moves by 25 MHz toward its share, and holds while telemetry is stale; a breach lowers the fixed point; a fast trip halves the
clocks until it is lifted, 100 µs later or more; a die at 100 °C is throttled and at 110 °C the module shuts down; a clock glides at most
25 MHz in 1 µs, and before it rises its rail does, by 2 mV in 1 µs. A sample that diverges from the estimate is counted, and more than
100 in a row make the estimator untrusted; the least slack that an island shows is kept, and every 24 h its needs rise by it.
Where the spec leaves a point of this open, the model's choice is in log entries 83, 84, 85, 109. -/
def Obligations.SizingFollowsPowerAndHeat : Prop :=
  (∀ (i : Fin 8768) (s : State), nhas s.power.droops i.val = false →
    ∃ s', exec (.droopDetect i) s = .next s' ∧ nhas s'.power.droops i.val = true ∧
      (s'.power.dies[islandDie i.val]).droop = Rules.saturating (s.power.dies[islandDie i.val]).droop) ∧
  (∀ (i : Fin 8768) (s : State),
    exec (.droopEnd i) s = .next (Rules.withPower s { s.power with droops := ndel s.power.droops i.val })) ∧
  (∀ (vin iin watts : BitVec 16) (rails : List (BitVec 16)) (s : State), s.firmwareUp = true →
    ∃ s', exec (.regulatorSample vin iin watts rails) s = .next s' ∧ s'.now = max s.now (s.power.sampledAt + 1000000) ∧
      s'.power.sample = watts ∧ s'.power.vin = vin ∧ s'.power.iin = iin ∧
      s'.power.samples = (watts.toNat :: s.power.samples).take 60000 ∧
      s'.power.winavg = BitVec.ofNat 16 (meanOf (s'.power.samples.take (1000 * s'.window))) ∧ s'.power.pcap = s.active.pcap ∧
      (9 ≤ s.power.good → s.now < s.power.sampledAt + 2000000 → s'.power.stale = false)) ∧
  (∀ (s : State), s.firmwareUp = true → s.power.stale = false →
    ∃ s', exec .telemStale s = .next s' ∧ s'.power.stale = true ∧ s'.now = max s.now (s.power.sampledAt + 10000000) ∧
      s'.power.event.getLsbD 4 = true ∧ Rules.counted s s' 1) ∧
  (∀ (x : IslandSlack) (s : State), s.firmwareUp = true →
    ∃ s', exec (.activityEstimate [] [] [] [x]) s = .next s' ∧
      (tget s'.power.slack (0, 0) x.island).1 = min x.slackPs (tget s.power.slack (x.slackPs, 0) x.island).1) ∧
  (∀ (est dyn stat : List (BitVec 16)) (slacks : List IslandSlack) (s : State), s.firmwareUp = true → s.power.untrust = false →
    ∃ s', exec (.activityEstimate est dyn stat slacks) s = .next s' ∧
      ∀ d : Fin 40, (s'.power.dies[d]).est = est.getD d.val 0 ∧ (s'.power.dies[d]).mode = (s.power.dies[d]).mode) ∧
  (∀ (d : Fin 32) (s : State), s.power.stale = true → exec (.innerLoop d) s = .next s) ∧
  (∀ (d : Fin 32) (s : State), s.firmwareUp = true → s.opportunistic = true → s.power.stale = false →
    (s.power.dies[cdie d]).mode ≤ s.oppCeiling d →
    100 * (s.power.dies[cdie d]).est.toNat < 95 * (s.power.dies[cdie d]).budget.toNat →
    exec (.innerLoop d) s = .next (s.mapPower (cdie d) (fun x => { x with mode := min (s.oppCeiling d) (x.mode + 25) }))) ∧
  (∀ (d : Fin 32) (s : State), s.firmwareUp = true → s.opportunistic = true → s.power.stale = false →
    (s.power.dies[cdie d]).mode ≤ s.oppCeiling d →
    95 * (s.power.dies[cdie d]).budget.toNat ≤ 100 * (s.power.dies[cdie d]).est.toNat →
    (s.power.dies[cdie d]).budget.toNat < (s.power.dies[cdie d]).est.toNat →
    exec (.innerLoop d) s = .next (s.mapPower (cdie d) (fun x => { x with mode := max 800 (x.mode - 25) }))) ∧
  (∀ (fixed losses : BitVec 16) (s : State), s.firmwareUp = true → s.opportunistic = true →
    exec (.outerLoop fixed losses) s = .next ((Rules.withPower s (s.power.account losses.toNat)).spread fixed.toNat)) ∧
  (∀ (fixed losses : BitVec 16) (s : State), s.firmwareUp = true → s.power.untrust = false → s.power.calibrate = none →
    s.power.sampled = true →
    ∃ s', exec (.outerLoop fixed losses) s = .next s' ∧ s'.power.sampled = false ∧ s'.power.diverged =
      if 15 * s.power.sample.toNat < 100 * ((Rules.estimated s losses.toNat : Int) - s.power.sample.toNat).natAbs then s.power.diverged + 1
      else 0) ∧
  (∀ (fixed : BitVec 16) (s : State), s.firmwareUp = true → s.power.stale = false → s.power.untrust = false → s.opportunistic = false →
    10 ≤ s.power.overRun → s.power.fixnow ≠ 0 → s.power.samples.length < 1000 →
    ∃ s', exec (.outerLoop fixed) s = .next s' ∧ s'.power.fixnow = s.power.fixnow - 1 ∧ s'.power.cause = 1 ∧
      s'.power.event.getLsbD 2 = true ∧ s'.power.breachcnt = Rules.saturating s.power.breachcnt ∧ Rules.counted s s' 1) ∧
  (∀ (s : State), s.firmwareUp = true → s.power.untrust = false → s.power.calibrate = none → 100 < s.power.diverged →
    ∃ s', exec .estDiverge s = .next s' ∧ s'.power.untrust = true ∧ Rules.counted s s' 0) ∧
  (∀ (t : Nat) (s : State), s.power.calibrate = some t →
    exec .calibrationEnd s = .next (Rules.withPower (Rules.upTo s t) { s.power with calibrate := none })) ∧
  (∀ (s : State), s.power.trips = [] →
    ∃ s', exec .iccTrip s = .next s' ∧ s'.power.trip = true ∧ s'.power.tripAt = s.now ∧ s'.power.tripcnt = Rules.saturating s.power.tripcnt ∧
      s'.power.fixnow = s.power.fixnow ∧ Rules.counted s s' 0) ∧
  (∀ (s : State), s.firmwareUp = true → s.power.trip = true → s.power.iin.toNat < 4000 →
    ∃ s', exec .tripLift s = .next s' ∧ s'.power.trip = false ∧ s'.now = max s.now (s.power.tripAt + 100000) ∧
      ∀ d : Fin 32, (s'.power.dies[cdie d]).clock =
        (if (s.power.dies[cdie d]).halvedAt.isSome then (s.power.dies[cdie d]).clock else (s.power.dies[cdie d]).clock / 2)) ∧
  (∀ (d : Fin 32) (tj : BitVec 8) (s : State), tj.toNat < 97 → (s.power.dies[cdie d]).throttling = false →
    (s.power.dies[cdie d]).halvedAt.isSome = true → s.power.trip = false →
    exec (.tjSample (cdie d) tj) s = .next (s.mapPower (cdie d) (fun x =>
      { x with tj := tj, halvedAt := none, hotSince := none, clock := x.clock / 2 }))) ∧
  (∀ (d : Fin 32) (tj : BitVec 8) (s : State), 100 ≤ tj.toNat → tj.toNat < 105 → (s.power.dies[cdie d]).throttling = false →
    ∃ s', exec (.tjSample (cdie d) tj) s = .next s' ∧ (s'.power.dies[cdie d]).throttling = true ∧
      (s'.power.dies[cdie d]).thermal =
        some (max 800 (min (s.modeTarget d) ((s.power.dies[cdie d]).thermal.getD (s.modeTarget d)) - 25)) ∧
      s'.target d ≤ max 800 (s.modeTarget d - 25) ∧ Rules.counted s s' 0) ∧
  (∀ (d : Fin 40) (tj : BitVec 8) (s : State), tj.toNat < 97 → (s.power.dies[d]).throttling = false → (s.power.dies[d]).halvedAt = none →
    exec (.tjSample d tj) s = .next (s.mapPower d (fun x => { x with tj := tj, halvedAt := none, hotSince := none }))) ∧
  (∀ (d : Fin 40) (tj : BitVec 8) (s : State), 110 ≤ tj.toNat → s.power.shutdown = false →
    ∃ s', exec (.tjSample d tj) s = .next s' ∧ s'.power.shutdown = true ∧ s'.board.thermtripN = false ∧ Rules.counted s s' 3) ∧
  (∀ (stack : Fin 16) (t : BitVec 8) (s : State), 95 ≤ t.toNat → nhas s.power.hbmHot stack.val = false →
    ∃ s', exec (.hbmTempReport stack t) s = .next s' ∧ nhas s'.power.hbmHot stack.val = true ∧ s'.power.hbmTemp[stack] = t ∧
      Rules.counted s s' 0) ∧
  (∀ (stack : Fin 16) (t : BitVec 8) (s : State), t.toNat < 92 →
    exec (.hbmTempReport stack t) s = .next (Rules.withPower s
      { s.power with hbmTemp := s.power.hbmTemp.set stack t, hbmHot := ndel s.power.hbmHot stack.val })) ∧
  (∀ (d : Fin 32) (s : State), (s.power.dies[cdie d]).clock < s.target d →
    (s.power.dies[cdie d]).rail < s.power.railNeed d.val (s.target d) →
    exec (.freqGlideStep d) s = .next ((Rules.upTo s (s.now + 1000)).mapPower (cdie d) (fun x =>
      { x with rail := min (s.power.railNeed d.val (s.target d)) (x.rail + 20) }))) ∧
  (∀ (d : Fin 32) (s : State), s.target d < (s.power.dies[cdie d]).clock →
    exec (.freqGlideStep d) s = .next ((Rules.upTo s (s.now + 1000)).mapPower (cdie d) (fun x =>
      { x with clock := max (s.target d) (x.clock - 25) }))) ∧
  (∀ (d : Fin 32) (s : State), (s.power.dies[cdie d]).clock < s.target d →
    s.power.railNeed d.val (s.target d) ≤ (s.power.dies[cdie d]).rail →
    exec (.freqGlideStep d) s = .next ((Rules.upTo s (s.now + 1000)).mapPower (cdie d) (fun x =>
      { x with clock := min (s.target d) (x.clock + 25) }))) ∧
  (∀ (x : IslandSlack) (s : State), s.firmwareUp = true →
    ∃ s', exec (.ageingReplan false [x]) s = .next s' ∧ s'.now = max s.now (s.power.replanAt + 86400 * 10 ^ 9) ∧
      s'.power.replanAt = s'.now ∧ ∀ k < 5, s'.power.needs x.island k =
        if 24 < s.power.needs x.island k then s.power.needs x.island k
        else s.power.needs x.island k + raiseSteps (min x.slackPs (tget s.power.slack (x.slackPs, 0) x.island).1)) ∧
  (∀ (x : IslandSlack) (s : State), s.firmwareUp = true → s.mp.fettles = [] → (∀ j, (s.job j).st ≠ .running) →
    (∀ k < 5, 20 ≤ x.points.getD k x.slackPs) →
    ∃ s', exec (.ageingReplan true [x]) s = .next s' ∧ s'.now = s.now ∧
      ∀ k < 5, s'.power.needs x.island k ≤ s.power.needs x.island k)

/-- R277, R278, R281, R282, R440, R442 to R446: the patrol scrub writes back a corrected word and makes an uncorrectable one poison; a
pseudo-channel that fails during a job returns poison and is a candidate. The processors hear each other; after 10 missing heartbeats, a
failed self-check or a journal request without acknowledgement for 100 µs one declares the other lost: when MP-B declares MP-A
lost it takes over, and when MP-A declares MP-B lost that is held; the active one refreshes the heartbeat word with MSTATE.
Where the spec leaves a point of this open, the model's choice is in log entries 43, 45, 107. -/
def Obligations.MemoryAndProcessorsFailOver : Prop :=
  (∀ (stack : Fin 16) (a : BitVec 40) (s : State), exec (.hbmPatrolScrub stack a .clean) s = .next s) ∧
  (∀ (stack : Fin 16) (a : BitVec 40) (w : Fin 32) (bit : BitVec 7) (s : State), a.toNat % 256 = 0 →
    a.toNat / 256 % 16 = stack.val → s.board.pchRetired = none → a.toNat < s.hbmLimit → bit.toNat < 72 →
    tget s.hbm.corr [] (128 * ((a.toNat + 8 * w.val) / 8) + bit.toNat) = [] →
    ∃ s', exec (.hbmPatrolScrub stack a (.corrected w bit)) s = .next s' ∧ s'.hbm.mem = s.hbm.mem ∧ s'.hbm.poison = s.hbm.poison ∧
      Rules.counted s s' 0) ∧
  (∀ (stack : Fin 16) (a : BitVec 40) (w : Fin 32) (s : State), a.toNat % 256 = 0 → a.toNat / 256 % 16 = stack.val →
    s.board.pchRetired = none → a.toNat < s.hbmLimit →
    ∃ s', exec (.hbmPatrolScrub stack a (.uncorrectable w)) s = .next s' ∧ s'.hbm.mem = s.hbm.mem ∧
      s'.hbm.poison = nins s.hbm.poison ((a.toNat + 8 * w.val) / 8)) ∧
  (∀ (pch : BitVec 10) (s : State), s.anyJob = true → s.board.pchRetired = none → s.board.pchCand = none →
    nhas s.board.pchFailed pch.toNat = false →
    ∃ s', exec (.pchFail pch) s = .next s' ∧ nhas s'.board.pchFailed pch.toNat = true ∧ s'.board.pchCand = some pch) ∧
  (∀ (toA : Bool) (s : State), Rules.bothUp s →
    exec (.mpHeartbeat toA) s = .next { Rules.upTo s ((if toA then s.mp.heardA else s.mp.heardB) + 100000) with
      mp := if toA then { s.mp with heardA := max s.now (s.mp.heardA + 100000) }
            else { s.mp with heardB := max s.now (s.mp.heardB + 100000) } }) ∧
  (∀ (cause : MpLoss) (s : State), Rules.bothUp s →
    ∃ s', exec (.mpLost true cause) s = .next s' ∧ s'.now = max s.now (match cause with
        | .heartbeats => s.mp.heardB + 1000000 | .selfCheck => s.now | .journal => s.now + 100000) ∧ s'.mp.activeB = true ∧ s'.mp.heldA = true ∧ s'.mp.takeovers = s.mp.takeovers + 1 ∧
      s'.mp.wordAt = s'.now ∧ Rules.counted s s' 1) ∧
  (∀ (cause : MpLoss) (s : State), Rules.bothUp s →
    ∃ s', exec (.mpLost false cause) s = .next s' ∧ s'.now = max s.now (match cause with
        | .heartbeats => s.mp.heardA + 1000000 | .selfCheck => s.now | .journal => s.now + 100000) ∧ s'.mp.activeB = s.mp.activeB ∧ s'.mp.heldB = true ∧ s'.mp.standbyLost = true ∧
      Rules.counted s s' 1) ∧
  (∀ (s : State), s.firmwareUp = true →
    ∃ s', exec .hbWordRefresh s = .next s' ∧ s'.mp.wordAt = max s.now (s.mp.wordAt + 1000000) ∧ s'.mp.wordState = s.mstate)


/-! ### Mailboxes -/

namespace Sys2Proof.Rules

/-- The block with the host interface `h`. -/
def withHost (s : State) (h : HostIf) : State := { s with host := h }

/-- The bit of mailbox `n`. -/
def boxBit (n : Fin 8) : BitVec 8 := BitVec.ofNat 8 (2 ^ n.val)

/-- No safety action of the tick of the command in a mailbox has been taken. -/
abbrev unopposed (s : State) (src : Source) : Prop := ∀ x ∈ s.mp.safety, x.1 ≠ (s.box src).arrival / 1000

/-- Only this mailbox holds a command that waits or runs. -/
abbrev onlyBusy (s : State) (src : Source) : Prop := ∀ x, x ≠ src → (s.box x).busy = false

/-- The command of a mailbox is complete and passes the checks made at its arrival and at its start. -/
abbrev wellSent (s : State) (src : Source) : Prop :=
  s.arrivalFail src (s.box src).ver (s.box src).opc.toNat (s.box src).act (s.box src).job = none ∧
    requestBad (s.box src).opc.toNat (s.box src).payload = none

/-- The command of a mailbox waits for its tick, and no swap comes before the commands of that tick. -/
abbrev queued (s : State) (src : Source) : Prop :=
  (s.box src).st = .queued ∧ s.mp.tick ≤ (s.box src).arrival ∧ s.swapFirst ((s.box src).arrival / 1000) = false

/-- A row is not the command that a source's mailbox runs, or not yet: that is not RUNNING, is another request, has executed already, or a command
of an earlier place has started and not executed. -/
abbrev notItsTurn (s : State) (src : Source) (q : Request) : Prop :=
  s.board.stage = .held ∨ (s.box src).st = .queued ∨
    (s.box src).st = .running ∧ ((s.box src).runs q = false ∨ s.inRank src = false ∨ ((s.box src).begun = true ∧ q.again = false))

/-- The block with host mailbox `n` changed. -/
def withBox (s : State) (n : Fin 8) (b : Mailbox) : State := { s with boxes := s.boxes.set n b }

/-- The offset in BAR0 of the word at offset `o` of mailbox `n`. -/
def boxWord (n : Fin 8) (o : Nat) : BitVec 24 := BitVec.ofNat 24 (0x2000 * n.val + o)

/-- The header unit that the management transmit buffer holds. -/
def bufHead (buf : List Byte) : LinkMsg := messageOf (BitVec.ofNat 128 (leNat (buf.take 16))) []

/-- A mailbox image without poison in external memory. -/
abbrev cleanHbm (s : State) (a n : Nat) : Prop := (s.hbmGet a n).poison = []

end Sys2Proof.Rules

/-- R13, R447 to R459, Table 15-4: a doorbell puts a request into a mailbox that is FREE or DONE, with its arrival and the next sequence number, and sets DBERR
of one that is QUEUED or RUNNING. The words that the master of a host mailbox writes keep what it wrote; the others ignore it. A completed command leaves its result in its mailbox, and a host's sets MBDONE. A result read counts.
REQUEST fragments of the enabled manager make its request, those of each RID apart; a manager that is not enabled is dropped; fragments without their rest are discarded after 100 ms.
The anchor stores RESULT and NOTICE messages. BMC messages, assembled from their packets, bring a request or read the result.
The accesses of the host to the other registers set RW fields, clear RW1C bits with ones, and clear RC counts by a read;
a read of TIME_LO latches the high half of the time base, which TIME_HI returns.
Where the spec leaves a point of this open, the model's choice is in log entries 66, 69, 71, 74, 78, 96. -/
def Obligations.MailboxesTakeRequestsAndHoldResults : Prop :=
  (∀ (hi : Fin 2) (n : Fin 8) (regs : List HostAccess) (r : MbRequest) (s : State), s.hostUp hi = true → (s.boxes[n]).busy = false → r.mailbox = n →
    r.payload.length = r.reqlen.toNat →
    ∃ s' a, exec (.mailboxDoorbell hi (Rules.boxBit n) [r] regs) s = .next s' ∧
      s'.boxes[n] = { s.boxes[n] with
        st := .queued, begun := false, ver := r.ver, opc := r.opc, rid := r.rid, job := r.job, tlim := r.tlim, payload := r.payload
        area := a, cores := r.cores, seq := s.mp.seqLast + 1, arrival := s.now, hi := hi
        status := 0, detail := 0, rdcnt := 0, rsp := [], elapsed := 0 } ∧
      (s'.boxes[n]).word 0 = r.ver.toNat * 65536 + r.opc.toNat ∧ (s'.boxes[n]).word 4 = r.rid.toNat ∧ (s'.boxes[n]).word 8 = r.reqlen.toNat ∧
      (∀ k, 4 * k < r.payload.length → k < 1008 → (s'.boxes[n]).word (0x40 + 4 * k) = word32At r.payload (4 * k)) ∧
      s'.mp.seqLast = s.mp.seqLast + 1 ∧ s'.host = (regs.foldl (State.hostAccess hi) s).host ∧
      ∀ k : Fin 8, k ≠ n → s'.boxes[k] = (regs.foldl (State.hostAccess hi) s).boxes[k]) ∧
  (∀ (hi : Fin 2) (n : Fin 8) (o : Nat) (v : BitVec 32) (s : State), s.hostUp hi = true → o % 4 = 0 → o < 0x2000 →
    (o < 0x20 ∨ (0x40 ≤ o ∧ o < 0x1000) →
      ∃ b : Mailbox, exec (.mailboxDoorbell hi 0 [] [.write (Rules.boxWord n o) v, .read (Rules.boxWord n o)]) s =
          .next (Rules.withHost (Rules.withBox s n b) { s.host with bar0 := v }) ∧
        b = { s.boxes[n] with area := b.area } ∧
        ∀ x, x ≠ o → x % 4 = 0 → b.word x = (s.boxes[n]).word x) ∧
    (0x20 ≤ o ∧ o < 0x40 ∨ 0x1000 ≤ o → exec (.mailboxDoorbell hi 0 [] [.write (Rules.boxWord n o) v]) s = .next s)) ∧
  (∀ (hi : Fin 2) (n : Fin 8) (reqs : List MbRequest) (s : State), s.hostUp hi = true → (s.boxes[n]).busy = true →
    exec (.mailboxDoorbell hi (Rules.boxBit n) reqs []) s = .next (Rules.withHost s
      { s.host with dberr := s.host.dberr ||| Rules.boxBit n })) ∧
  (∀ (src : Source) (st : Byte) (d : Nat) (rsp : List Byte) (s : State), rsp.length ≤ 4096 →
    ((s.complete src st d rsp).box src).st = .done ∧ ((s.complete src st d rsp).box src).status = st ∧
      ((s.complete src st d rsp).box src).detail = BitVec.ofNat 32 d ∧ ((s.complete src st d rsp).box src).rsp = rsp ∧
      ((s.complete src st d rsp).box src).rid = (s.box src).rid ∧
      ∀ n, src = .host n → (s.complete src st d rsp).host.mbdone.getLsbD n = true) ∧
  (∀ (n : Fin 8) (s : State), s.anyHostUp = true → (s.boxes[n]).st = .done → (s.boxes[n]).rdcnt ≠ 0xFFFF →
    exec (.resultRead n) s = .next { s with boxes := s.boxes.set n { s.boxes[n] with rdcnt := (s.boxes[n]).rdcnt + 1 } }) ∧
  (∀ (m : ModuleId) (k : Fin 2) (rid : BitVec 32) (frag nfrag : BitVec 8) (x : List Byte) (s : State), s.active.manager k ≠ some m →
    exec (.mgmtRequest m k rid frag nfrag x) s = .next { s with
      switch := { s.switch with mgmtdrop := Rules.saturating s.switch.mgmtdrop } }) ∧
  (∀ (m : ModuleId) (k : Fin 2) (rid : BitVec 32) (x : List Byte) (s : State), s.active.manager k = some m → s.frags[k] = [] →
    s.fm[k].st = .free →
    exec (.mgmtRequest m k rid 0 1 x) s = .next
      (State.takeRequest { s with frags := s.frags.set k [] } (.fm k) (s.fm[k].ofImage x))) ∧
  (∀ (m : ModuleId) (k : Fin 2) (rid : BitVec 32) (frag : BitVec 8) (x : List Byte) (s : State), s.active.manager k = some m →
    frag.toNat < 2 →
    (s.frags[k] = [] → exec (.mgmtRequest m k rid frag 2 x) s = .next { s with
      frags := s.frags.set k [{ rid := rid, nfrag := 2, parts := [(frag.toNat, x)], at_ := s.now }] }) ∧
    (∀ f : Fragments, s.frags[k] = [f] → f.rid ≠ rid → exec (.mgmtRequest m k rid frag 2 x) s = .next { s with
      frags := s.frags.set k [f, { rid := rid, nfrag := 2, parts := [(frag.toNat, x)], at_ := s.now }] })) ∧
  (∀ (m : ModuleId) (k : Fin 2) (rid : BitVec 32) (s : State), s.active.manager k = some m →
    exec (.mgmtResultRead m k rid) s = .next ((s.setBox (.fm k) (s.fm[k]).readOnce).answerManager k)) ∧
  (∀ (m : LinkMsg) (s : State), m.type = 5 → s.active.anchor = true → s.host.rxwp + 1 ≠ s.host.rxrp →
    (m.subop = 2 →
      ∃ s', exec (.mgmtResult m) s = .next s' ∧ tget s'.host.rx m s.host.rxwp.toNat = m ∧ s'.host.rxwp = s.host.rxwp + 1) ∧
    (m.subop = 3 →
      ∃ s', exec (.mgmtNotice m) s = .next s' ∧ tget s'.host.rx m s.host.rxwp.toNat = m ∧ s'.host.rxwp = s.host.rxwp + 1)) ∧
  (∀ (k : Fin 2) (f : Fragments) (s : State),
    (s.frags[k] = [f] →
      exec (.fragmentTimeout k) s = .next { Rules.upTo s (f.at_ + 100000000) with frags := s.frags.set k [] }) ∧
    (∀ g : Fragments, s.frags[k] = [f, g] → f.at_ < g.at_ →
      exec (.fragmentTimeout k) s = .next { Rules.upTo s (f.at_ + 100000000) with frags := s.frags.set k [g] })) ∧
  (∀ (x : List Byte) (s : State), s.board.stage ≠ .held → s.bmc.st = .free → 64 ≤ x.length → x.length ≤ 4096 →
    exec (.bmcMessage 0 x) s = .next (s.takeRequest .bmc (s.bmc.ofImage x))) ∧
  (∀ (x : List Byte) (s : State), s.board.stage ≠ .held →
    exec (.bmcMessage 1 x) s = .next { s with
      bmc := s.bmc.readOnce
      mp := { s.mp with bmcOut := s.mp.bmcOut ++ [[0x7E, BitVec.ofNat 8 (Config.pciVendor.toNat / 256), BitVec.ofNat 8 Config.pciVendor.toNat, 2] ++
        s.bmc.readOnce.image] } }) ∧
  (∀ (k k' : BitVec 8) (x y : List Byte) (ps : List (List Byte)) (s : State), s.board.stage ≠ .held → ps ≠ [] →
    (∀ p ∈ ps.dropLast, p.length = 64) → (∀ p ∈ ps, p.length ≤ 64) → ps.flatten.length ≤ 4101 →
    (ps.flatten = [0x7E, BitVec.ofNat 8 (Config.pciVendor.toNat / 256), BitVec.ofNat 8 Config.pciVendor.toNat, k] ++ x →
      exec (.bmcMessage k' y ps) s = exec (.bmcMessage k x) s) ∧
    ((ps.flatten.take 3 ≠ [0x7E, BitVec.ofNat 8 (Config.pciVendor.toNat / 256), BitVec.ofNat 8 Config.pciVendor.toNat]) →
      exec (.bmcMessage k' y ps) s = .next s)) ∧
  (∀ (hi : Fin 2) (a b v w x y : Word) (s : State), s.hostUp hi = true →
    exec (.mailboxDoorbell hi 0 [] [.mbdone a, .dberr b, .mbien v, .evrp w, .evctl x, .mgrxrp y, .read 0x1200C, .read 0x13004]) s =
      .next (Rules.withHost s { s.host with
        mbdone := s.host.mbdone &&& ~~~(a.setWidth 8), dberr := s.host.dberr &&& ~~~(b.setWidth 8), mbien := v.setWidth 8
        evrp := w.setWidth 10, evIen := x.getLsbD 31, evNotice := x.getLsbD 2, evMin := x.setWidth 2, rxrp := y.setWidth 12
        evlost := 0, b2err := 0, bar0 := s.host.b2err })) ∧
  (∀ (hi : Fin 2) (s : State), s.hostUp hi = true →
    exec (.mailboxDoorbell hi 0 [] [.read 0x11010, .read 0x11014]) s =
      .next (Rules.withHost s { s.host with timeHi := BitVec.ofNat 32 (s.now / 2 ^ 32), bar0 := BitVec.ofNat 32 (s.now / 2 ^ 32) }))

/-- R452, R457, R460 to R465, R471: the command of a tick that is alone starts when the tick ends; of two of one tick that conflict the one of the
lower place is preempted with the SEQ of the other; a pending swap at or before a tick comes first; one that conflicts with a safety action of its tick is preempted with 0xFFFF_FFFF
(what a safety action claims is the model's choice: log entry 109); a command that waits beyond its limit ends TIMEOUT. The host reads and writes
external memory through BAR2 within the windows that permit it; a refused read returns ones, a refused access counts, and a write to a share
whose copy waits for a commit waits too. What runs is the request that the mailbox holds, in its place, once. The management transmit buffer is sent from an anchor only, MGMT messages of SUBOP 0 and 1 only, under the module's own number. The host's accesses act when an interface is up.
Where the spec leaves a point of this open, the model's choice is in log entries 66, 69, 70, 71, 78. -/
def Obligations.CommandsAreArbitratedAndBar2IsChecked : Prop :=
  (∀ (src : Source) (s : State), Rules.queued s src → s.answers src (s.box src).opc.toNat = true → Rules.onlyBusy s src →
    Rules.wellSent s src → Rules.unopposed s src →
    ∃ s', exec .arbitrationTick s = .next s' ∧ s'.box src = { s.box src with st := .running } ∧
      s'.mp.tick = 1000 * ((s.box src).arrival / 1000 + 1) ∧ s'.now = max s.now (1000 * ((s.box src).arrival / 1000 + 1))) ∧
  (∀ (n : Fin 8) (s : State), s.firmwareUp = true → Rules.queued s .bmc → Rules.queued s (.host n) →
    (∀ x, x ≠ .bmc → x ≠ .host n → (s.box x).busy = false) → Rules.wellSent s .bmc → Rules.wellSent s (.host n) →
    (s.box .bmc).arrival / 1000 = (s.box (.host n)).arrival / 1000 → s.conflict (s.box .bmc) (s.box (.host n)) = true →
    Rules.unopposed s .bmc → Rules.unopposed s (.host n) →
    ∃ s', exec .arbitrationTick s = .next s' ∧ (s'.box .bmc).st = .running ∧ (s'.box (.host n)).st = .done ∧
      (s'.box (.host n)).status = 5 ∧ (s'.box (.host n)).detail = (s.box .bmc).seq) ∧
  (∀ (src : Source) (c : Claim) (s : State), Rules.queued s src → s.answers src (s.box src).opc.toNat = true → Rules.onlyBusy s src →
    Rules.wellSent s src → ((s.box src).arrival / 1000, c) ∈ s.mp.safety → (∃ d ∈ (s.box src).claims, s.meets c d = true) →
    ∃ s', exec .arbitrationTick s = .next s' ∧ (s'.box src).st = .done ∧ (s'.box src).status = 5 ∧ (s'.box src).detail = 0xFFFFFFFF) ∧
  (∀ (src : Source) (w : PendingSwap) (s : State), (s.box src).st = .queued → s.mp.tick ≤ (s.box src).arrival →
    s.answers src (s.box src).opc.toNat = true → Rules.onlyBusy s src → s.mp.swap = some w →
    w.time / 1000 ≤ (s.box src).arrival / 1000 → exec .arbitrationTick s = .next s) ∧
  (∀ (x y : Source) (s : State), x ≠ y → (s.box x).st = .running → (s.box y).st = .queued → (s.box y).arrival < s.mp.tick →
    s.conflict (s.box x) (s.box y) = true → (s.box y).opc ≠ 0x12 → (∀ z, z ≠ x → z ≠ y → (s.box z).busy = false) →
    (s.mp.swap = none → exec .arbitrationTick s = .next s) ∧
    (s.mp.swap ≠ none → (s.box y).opc ∈ [0x21, 0x22, 0x23] → requestBad (s.box y).opc.toNat (s.box y).payload = none →
      exec .arbitrationTick s = .next (s.setBox y { s.box y with st := .running }))) ∧
  (∀ (src : Source) (job : BitVec 8) (cap : BitVec 16) (win : Byte) (t : BitVec 64) (s : State),
    (Rules.notItsTurn s src (reqJobKill job) → exec (.jobKill src job) s = .next s) ∧
    (Rules.notItsTurn s src (reqPowerCap cap win) → exec (.powerCap src cap win) s = .next s) ∧
    (Rules.notItsTurn s src (reqRollback job) → exec (.rollback src job) s = .next s) ∧
    (Rules.notItsTurn s src (reqCfgSwapAt t) → exec (.cfgSwapAt src t) s = .next s)) ∧
  (∀ (src : Source) (ms : Nat) (s : State), limitMs (s.box src).opc.toNat = some ms → (s.box src).st = .running →
    ∃ s', exec (.commandTimeout src) s = .next s' ∧ (s'.box src).st = .done ∧ (s'.box src).status = 6 ∧
      s'.now = max s.now ((s.box src).arrival + (if (s.box src).tlim = 0 then ms else (s.box src).tlim.toNat) * 1000000)) ∧
  (∀ (v : BitVec 32) (s : State), s.anyHostUp = true → v.toNat % 1024 ≤ 0x3C0 →
    exec (.b2baseWrite v) s = .next (Rules.withHost s
      { s.host with b2base := BitVec.ofNat 10 v.toNat, b2recorded := false })) ∧
  (∀ (v : BitVec 32) (s : State), 0x3C0 < v.toNat % 1024 → exec (.b2baseWrite v) s = .next s) ∧
  (∀ (x : BitVec 36) (n : Nat) (s : State), s.anyHostUp = true → n ≠ 0 → s.bar2Ok (s.bar2Addr x) n false = true →
    Rules.cleanHbm s (s.bar2Addr x) n →
    ∃ s', exec (.bar2Read x n) s = .next s' ∧ s'.host.b2read = memReadN s.hbm.mem (s.bar2Addr x) n ∧ s'.hbm = s.hbm) ∧
  (∀ (x : BitVec 36) (n : Nat) (s : State), s.anyHostUp = true → n ≠ 0 → s.bar2Ok (s.bar2Addr x) n false = false →
    ∃ s', exec (.bar2Read x n) s = .next s' ∧ s'.host.b2read = List.replicate n 0xFF ∧
      s'.host.b2err = Rules.saturating s.host.b2err ∧ s'.hbm = s.hbm) ∧
  (∀ (x : BitVec 36) (d : List Byte) (s : State), s.anyHostUp = true → d ≠ [] → s.bar2Ok (s.bar2Addr x) d.length true = true →
    (s.host.b2held = [] ∧ s.hbmBlocked (s.bar2Addr x) d.length = false →
      ∃ s', exec (.bar2Write x d) s = .next s' ∧ memReadN s'.hbm.mem (s.bar2Addr x) d.length = d ∧ s'.cores = s.cores) ∧
    (s.host.b2held = [] ∧ s.hbmBlocked (s.bar2Addr x) d.length = true →
      exec (.bar2Write x d) s = .next (Rules.withHost s { s.host with b2held := [(s.bar2Addr x, d)] }))) ∧
  (∀ (x : BitVec 36) (d : List Byte) (s : State), s.anyHostUp = true → d ≠ [] → s.bar2Ok (s.bar2Addr x) d.length true = false →
    ∃ s', exec (.bar2Write x d) s = .next s' ∧ s'.hbm = s.hbm ∧ s'.host.b2err = Rules.saturating s.host.b2err) ∧
  (∀ (buf : List Byte) (s : State), s.anyHostUp = true → buf.length = 272 →
    exec (.mgmtTransmit false buf) s = .next (Rules.withHost s { s.host with txbuf := buf })) ∧
  (∀ (buf : List Byte) (s : State), s.anyHostUp = true → buf.length = 272 → s.active.anchor = false →
    exec (.mgmtTransmit true buf) s = .next (Rules.withHost s { s.host with txbuf := buf, txrej := 1, txbusy := false })) ∧
  (∀ (buf : List Byte) (s : State), s.anyHostUp = true → buf.length = 272 → s.active.anchor = true →
    (Rules.bufHead buf).type ≠ 5 ∨ (Rules.bufHead buf).subop ≠ 0 ∧ (Rules.bufHead buf).subop ≠ 1 →
    exec (.mgmtTransmit true buf) s = .next (Rules.withHost s { s.host with txbuf := buf, txrej := 2, txbusy := false })) ∧
  (∀ (buf : List Byte) (s : State), s.anyHostUp = true → buf.length = 272 → s.active.anchor = true →
    (Rules.bufHead buf).type = 5 → (Rules.bufHead buf).subop = 0 ∨ (Rules.bufHead buf).subop = 1 →
    ∃ p, p = (Rules.withHost s { s.host with txbuf := buf }).post s.mpDie (s.message 5 (Rules.bufHead buf).dmod (Rules.bufHead buf).subop
        (Rules.bufHead buf).addr.toNat ((buf.drop 16).take (16 * headerLen (BitVec.ofNat 128 (leNat (buf.take 16)))))) none ∧
      exec (.mgmtTransmit true buf) s = .next (Rules.withHost p { p.host with txrej := 0, txbusy := false }))

/-! ### Commands of the management processor: settings -/

namespace Sys2Proof.Rules

/-- The mailbox of a source runs this request, which has not executed yet, and its turn has come. -/
abbrev running (s : State) (src : Source) (q : Request) : Prop :=
  s.board.stage ≠ .held ∧ (s.box src).st = .running ∧ (s.box src).begun = false ∧ (s.box src).runs q = true ∧ s.inRank src = true

/-- The same where the command may have executed before and waits for what its row brings anew. -/
abbrev due (s : State) (src : Source) (q : Request) : Prop :=
  s.board.stage ≠ .held ∧ (s.box src).st = .running ∧ (s.box src).runs q = true ∧ s.inRank src = true

/-- The command of a source has executed and waits. -/
def begun (s : State) (src : Source) : State := s.setBox src { s.box src with begun := true }

/-- The command of a source has completed with a status, a detail and a response. -/
abbrev done (s : State) (src : Source) (st : Byte) (d : Nat) (rsp : List Byte) : Prop :=
  (s.box src).st = .done ∧ (s.box src).status = st ∧ (s.box src).detail = BitVec.ofNat 32 d ∧ (s.box src).rsp = rsp

/-- The block with the active set `a` and the shadow set `b`. -/
def withSets (s : State) (a b : ConfigSet) : State := { s with active := a, shadow := b }

/-- The settings of a port in a set. -/
def setPort (c : ConfigSet) (p : Fin 48) (x : PortCfg) : ConfigSet := { c with ports := c.ports.set p x }

/-- A port command: the settings `x` in both sets, what follows at once from EN, and the notice of a change by another source than a host. -/
def portSet (s : State) (src : Source) (p : Fin 48) (x y : PortCfg) : State :=
  (({ withSets s (setPort s.active p x) (setPort s.shadow p y) with lastSet := s.active } : State).enablePort p s.active.ports[p]
    x).changeNotice src []

/-- The block with no lane of port `p` held out: one that was trains again from RESET (R345A). -/
def readmitted (s : State) (p : Fin 48) : State :=
  s.mapPort p (fun x => { x with lanes := Vector.ofFn (fun k =>
    if x.lanes[k].heldOut then
      { x.lanes[k] with
        heldOut := false, removals := [], fails := 0
        st := if x.lanes[k].st = .disabled ∧ x.laneen.getLsbD k = true ∧ x.st ≠ .disabled then .reset else x.lanes[k].st }
    else { x.lanes[k] with removals := [] }) })

/-- PCTL and PSTAT of a port. -/
def portWords (s : State) (p : Fin 48) : List Byte := wordBytes [CfgReg.get 256 s.active (.pctl p), (s.port p).pstat]

end Sys2Proof.Rules

/-- Table 15-12, R475, R427, R514: the commands that report complete with OK: the identity and HEALTH words of the module; the words of a
block, without the clearing effect of a read unless CLR is set; phase tables; active routes; and the entries of the log of at least MINSEV
from START on, CLEAR discarding those below START. A block code that is not assigned is BAD_ARG.
Where the spec leaves a point of this open, the model's choice is in log entries 77, 79, 89, 100. -/
def Obligations.ReportsReturnWhatTheBlockHolds : Prop :=
  (∀ (src : Source) (s : State), Rules.running s src reqDevInfo →
    ∃ rsp, exec (.devInfo src) s = .next (s.complete src 0 0 rsp) ∧ rsp.length = 0x3C ∧ rsp.take 4 = [0x4B, 0x57, 0x32, 0x2D] ∧
      leNat ((rsp.drop 8).take 16) = s.ident.serial.toNat ∧ word32At rsp 0x18 = 3 ∧
      word32At rsp 0x1C = 32 * perDie s.ident.code ∧ word32At rsp 0x20 = spmBytes s.ident.code ∧
      word32At rsp 0x24 = (if s.board.pchRetired.isSome then 1023 else 1024) ∧
      word32At rsp 0x34 = b2n s.mp.needRet + b2n s.mp.activeB * 2 + b2n s.mp.standbyLost * 4 ∧
      word32At rsp 0x38 = Config.pciVendor.toNat) ∧
  (∀ (src : Source) (s : State), Rules.running s src reqHealth →
    ∃ rsp, exec (.health src) s = .next (s.complete src 0 0 rsp) ∧ rsp.length = 0x34 ∧
      word32At rsp 0x14 = (match s.board.pchRetired.or s.board.pchCand with | some x => x.toNat | none => 0xFFFF) ∧
      (∀ k : Fin 4, s.errs.counts[k] < 2 ^ 32 → word32At rsp (0x1C + 4 * k.val) = s.errs.counts[k]) ∧
      word32At rsp 0x2C = ((List.finRange 48).filter (fun p => decide ((s.port p).st = .active))).length) ∧
  (∀ (src : Source) (b : BitVec 8) (copy : Bool) (o n : BitVec 32) (s : State), blockAssigned b.toNat = true →
    o.toNat % 4 = 0 → 1 ≤ n.toNat → n.toNat ≤ 1024 →
    (Rules.running s src (reqCfgGet b copy false o n) →
      exec (.cfgGet src b copy false o n) s = .next (s.complete src 0 0 (wordBytes (s.blockWords copy b.toNat o.toNat n.toNat)))) ∧
    (Rules.running s src (reqCfgGet b copy true o n) →
      exec (.cfgGet src b copy true o n) s =
        .next ((s.blockClears b.toNat o.toNat n.toNat).complete src 0 0 (wordBytes (s.blockWords copy b.toNat o.toNat n.toNat))))) ∧
  (∀ (src : Source) (b : BitVec 8) (copy clr : Bool) (o n : BitVec 32) (s : State), Rules.running s src (reqCfgGet b copy clr o n) →
    (b.toNat = 0x29 ∨ 0x31 < b.toNat) → exec (.cfgGet src b copy clr o n) s = .next (s.complete src 3 0 [])) ∧
  (∀ (src : Source) (die : BitVec 8) (n : BitVec 2) (s : State), Rules.running s src (reqPhaseRead die n) → (n = 1 ∨ n = 2) → die.toNat + n.toNat ≤ 40 →
    ∃ rsp, exec (.phaseTableRead src die n) s = .next (s.complete src 0 0 rsp) ∧ rsp.length = 2048 * n.toNat ∧
      ∀ i, i < 256 → (rsp.drop (8 * i)).take 8 =
        leBytes 2 (s.power.entry die.toNat i).demand.toNat ++ leBytes 2 (s.power.entry die.toNat i).static.toNat ++
          leBytes 2 (s.power.entry die.toNat i).dur.toNat ++ [(s.power.entry die.toNat i).next, (s.power.entry die.toNat i).cnt]) ∧
  (∀ (src : Source) (m : BitVec 32) (s : State), Rules.running s src (reqRouteQuery m) → m.toNat < 8192 →
    ∃ w, exec (.routeTableQuery src m) s = .next (s.complete src 0 0
        (leBytes 8 (tget s.active.route.minimal 0 (groupOf (BitVec.ofNat 13 m.toNat))) ++
          leBytes 8 (tget s.active.route.nonMinimal 0 (groupOf (BitVec.ofNat 13 m.toNat))) ++ leBytes 4 w)) ∧
      (groupOf (BitVec.ofNat 13 m.toNat) ≠ groupOf s.self → w = 0xFF)) ∧
  (∀ (src : Source) (start : BitVec 32) (n : BitVec 6) (sev : BitVec 2) (s : State), n ≠ 0 →
    ∃ rsp out, out = ((s.errs.log.filter (fun r => decide (start ≤ r.idx ∧ sev ≤ r.sev))).take n.toNat) ∧
      (Rules.running s src (reqErrLog start n sev false) → exec (.errLog src start n sev false) s = .next (s.complete src 0 0 rsp)) ∧
      (Rules.running s src (reqErrLog start n sev true) → exec (.errLog src start n sev true) s = .next
        (({ s with errs := { s.errs with log := s.errs.log.filter (fun r => decide (start ≤ r.idx)) } } : State).complete src 0 0 rsp)) ∧
      rsp.drop 0x40 = out.flatMap (fun r => r.bytes) ∧ word32At rsp 4 = out.length)

/-- R467 to R471: CFG_WRITE_SHADOW and ROUTE_TABLE write the shadow set alone, all or nothing. CFG_SWAP makes the shadow set active; with a
job loaded it is denied when an item differs that may not change. CFG_SWAP_AT waits for its time; while it is pending the other commands on
the shadow set are denied with its SEQ, and a cancel ends it with DENIED and the SEQ of the cancel.
Where the spec leaves a point of this open, the model's choice is in log entries 70, 81, 82. -/
def Obligations.ShadowWritesWaitForASwap : Prop :=
  (∀ (src : Source) (v : BitVec 32) (s : State), Rules.running s src (reqCfgWrite 0 true 0 [v]) → s.mp.swap = none →
    (v &&& 0xFF000000#32 = 0 ∧ capOk s.ident.code v.toNat = true →
      exec (.cfgWriteShadow src 0 true 0 [v]) s =
        .next ((Rules.withSets s s.active { s.shadow with pcap := v }).complete src 0 0 [])) ∧
    (capOk s.ident.code v.toNat = false → exec (.cfgWriteShadow src 0 true 0 [v]) s = .next (s.complete src 3 12 []))) ∧
  (∀ (src : Source) (v : BitVec 32) (s : State), Rules.running s src (reqCfgWrite 0x31 true 0 [v]) → s.mp.swap = none → v &&& 0x60006000#32 = 0 →
    exec (.cfgWriteShadow src 0x31 true 0 [v]) s =
      .next ((Rules.withSets s s.active { s.shadow with mgfm := v }).complete src 0 0 [])) ∧
  (∀ (src : Source) (first : BitVec 32) (m : RouteMasks) (s : State), Rules.running s src (reqRouteWrite first [m]) → s.mp.swap = none → first.toNat < 256 →
    (m.minHi.toNat < 65536 ∧ m.nmHi.toNat < 65536 →
      ∃ t, exec (.routeTableWrite src first [m]) s = .next ((Rules.withSets s s.active { s.shadow with route := t }).complete src 0 0 []) ∧
        tget t.minimal 0 first.toNat = m.minLo.toNat + m.minHi.toNat * 2 ^ 32 ∧
        tget t.nonMinimal 0 first.toNat = m.nmLo.toNat + m.nmHi.toNat * 2 ^ 32 ∧
        t = { s.shadow.route with minimal := t.minimal, nonMinimal := t.nonMinimal } ∧
        ∀ g, g ≠ first.toNat → tget t.minimal 0 g = tget s.shadow.route.minimal 0 g) ∧
    (65536 ≤ m.minHi.toNat → exec (.routeTableWrite src first [m]) s = .next (s.complete src 3 16 []))) ∧
  (∀ (src : Source) (s : State), Rules.running s src reqCfgSwap → s.mp.swap = none → (s.active.route = s.shadow.route ∨ s.graceEnd ≤ s.now) →
    (s.anyJob = false ∨ s.swapBars = none) →
    ∃ s', exec (.cfgSwap src) s = .next s' ∧ Rules.done s' src 0 0 (leBytes 8 s.now) ∧ s'.active = s.shadow ∧ s'.shadow = s.shadow) ∧
  (∀ (src : Source) (s : State), Rules.running s src reqCfgSwap → s.mp.swap = none → s.active.route = s.shadow.route → s.anyJob = true →
    (s.active.clkplan ^^^ s.shadow.clkplan) &&& 0x0C600000#32 ≠ 0 →
    exec (.cfgSwap src) s = .next (s.complete src 4 4 [])) ∧
  (∀ (src : Source) (s : State), Rules.running s src reqCfgSwap → s.mp.swap = none → s.active.route ≠ s.shadow.route → s.now < s.graceEnd →
    exec (.cfgSwap src) s = .next (s.complete src 7 2 [])) ∧
  (∀ (src : Source) (t : BitVec 64) (s : State), Rules.running s src (reqCfgSwapAt t) → s.mp.swap = none → t ≠ 0 →
    (s.box src).arrival + 1000000 ≤ t.toNat → t.toNat ≤ (s.box src).arrival + 10000000000 →
    (s.active.route = s.shadow.route ∨ s.graceEnd ≤ t.toNat) →
    (s.active.role = 1 ∨ s.time.locked = true →
      exec (.cfgSwapAt src t) s = .next (Rules.begun { s with
        mp := { s.mp with swap := some { time := t.toNat, src := src, seq := (s.box src).seq } } } src)) ∧
    (s.active.role ≠ 1 ∧ s.time.locked = false → exec (.cfgSwapAt src t) s = .next (s.complete src 7 1 []))) ∧
  (∀ (src : Source) (t : BitVec 64) (s : State), Rules.running s src (reqCfgSwapAt t) → s.mp.swap = none → t ≠ 0 →
    (t.toNat < (s.box src).arrival + 1000000 ∨ (s.box src).arrival + 10000000000 < t.toNat) →
    exec (.cfgSwapAt src t) s = .next (s.complete src 3 0 [])) ∧
  (∀ (w : PendingSwap) (s : State), s.mp.swap = some w → (s.anyJob = false ∨ s.swapBars = none) →
    ∃ s', exec .swapAtTime s = .next s' ∧ Rules.done s' w.src 0 0 (leBytes 8 w.time) ∧ s'.active = s.shadow ∧ s'.shadow = s.shadow ∧
      s'.mp.swap = none ∧ s'.now = max s.now w.time) ∧
  (∀ (src : Source) (w : PendingSwap) (s : State), s.mp.swap = some w →
    (∀ (b : BitVec 8) (copy : Bool) (o : BitVec 32) (x : List (BitVec 32)), Rules.running s src (reqCfgWrite b copy o x) →
      exec (.cfgWriteShadow src b copy o x) s = .next (s.complete src 4 w.seq.toNat [])) ∧
    (∀ (f : BitVec 32) (x : List RouteMasks), Rules.running s src (reqRouteWrite f x) →
      exec (.routeTableWrite src f x) s = .next (s.complete src 4 w.seq.toNat [])) ∧
    (Rules.running s src reqCfgSwap → exec (.cfgSwap src) s = .next (s.complete src 4 w.seq.toNat [])) ∧
    (∀ t : BitVec 64, t ≠ 0 → Rules.running s src (reqCfgSwapAt t) → exec (.cfgSwapAt src t) s = .next (s.complete src 4 w.seq.toNat [])) ∧
    (Rules.running s src (reqCfgSwapAt 0) → exec (.cfgSwapCancel src) s = .next
      ((({ s with mp := { s.mp with swap := none } } : State).complete w.src 4 (s.box src).seq.toNat []).complete src 0 0 (leBytes 8 0))))

/-- R416, R420, R427, R429, R467, R348, R376: the commands that set an item directly write it in both sets and answer with what it was, or with
the port's PCTL and PSTAT; values outside the limits are BAD_ARG and write nothing. Phase tables are loaded by a job's command and cleared.
Where the spec leaves a point of this open, the model's choice is in log entries 79, 80. -/
def Obligations.DirectCommandsSetBothSets : Prop :=
  (∀ (src : Source) (cap : BitVec 16) (win : BitVec 8) (s : State), Rules.running s src (reqPowerCap cap win) →
    (2000 ≤ cap.toNat ∧ cap.toNat ≤ tdp s.ident.code ∧ 1 ≤ win.toNat ∧ win.toNat ≤ 60 →
      ∃ s', exec (.powerCap src cap win) s = .next s' ∧ Rules.done s' src 0 0 (leBytes 4 s.active.pcap.toNat) ∧
        s'.active = { s.active with pcap := BitVec.ofNat 32 (win.toNat * 65536 + cap.toNat) } ∧
        s'.shadow = { s.shadow with pcap := BitVec.ofNat 32 (win.toNat * 65536 + cap.toNat) }) ∧
    (cap.toNat < 2000 ∨ tdp s.ident.code < cap.toNat ∨ win.toNat = 0 ∨ 60 < win.toNat →
      exec (.powerCap src cap win) s = .next (s.complete src 3 0 []))) ∧
  (∀ (src : Source) (v m : BitVec 32) (s : State), Rules.running s src (reqClockMode v m) → v.toNat &&& 0xFFE00FFF = v.toNat →
    m.toNat &&& 0xFFE00FFF = m.toNat → clkOk ((s.active.clkplan &&& ~~~m) ||| (v &&& m)).toNat = true →
    (s.anyJob = false ∨ (s.active.clkplan ^^^ ((s.active.clkplan &&& ~~~m) ||| (v &&& m))) &&& 0x0C600000#32 = 0 →
      ∃ s', exec (.clockMode src v m) s = .next s' ∧ Rules.done s' src 0 0 (leBytes 4 (s.active.clkplan.toNat ||| (if s.power.fallback then 2 ^ 31 else 0))) ∧
        s'.active = { s.active with clkplan := (s.active.clkplan &&& ~~~m) ||| (v &&& m) } ∧
        s'.shadow = { s.shadow with clkplan := (s.shadow.clkplan &&& ~~~m) ||| (v &&& m) }) ∧
    (s.anyJob = true ∧ (s.active.clkplan ^^^ ((s.active.clkplan &&& ~~~m) ||| (v &&& m))) &&& 0x0C600000#32 ≠ 0 →
      exec (.clockMode src v m) s = .next (s.complete src 4 4 []))) ∧
  (∀ (src : Source) (job die : BitVec 8) (x : List Byte) (s : State), Rules.running s src (reqPhaseLoad job die 1 x) → s.jobNamed job ≠ none →
    die.toNat < 40 → x.length = 2048 →
    (s.power.untrust = false →
      ∃ p : Power, exec (.phaseTableLoad src job die 1 x) s = .next (({ s with power := p } : State).complete src 0 0 []) ∧
        p = { s.power with phases := p.phases } ∧
        ∀ i, i < 256 → p.entry die.toNat i =
          { demand := BitVec.ofNat 16 (word64At x (8 * i)), static := BitVec.ofNat 16 (word64At x (8 * i) / 2 ^ 16)
            dur := BitVec.ofNat 16 (word64At x (8 * i) / 2 ^ 32), next := BitVec.ofNat 8 (word64At x (8 * i) / 2 ^ 48)
            cnt := BitVec.ofNat 8 (word64At x (8 * i) / 2 ^ 56) }) ∧
    (s.power.untrust = true → exec (.phaseTableLoad src job die 1 x) s = .next (s.complete src 4 5 []))) ∧
  (∀ (src : Source) (s : State), Rules.running s src (reqPhaseClear 0xFF) →
    exec (.phaseTableClear src 0xFF) s = .next (({ s with power := { s.power with phases := [] } } : State).complete src 0 0 [])) ∧
  (∀ (src : Source) (p : Fin 48) (s : State),
    (Rules.running s src (reqPort p 0 none) → exec (.portDisable src p) s = .next
      ((Rules.portSet s src p { s.active.ports[p] with en := false } { s.shadow.ports[p] with en := false }).complete src 0 0
        (Rules.portWords (Rules.portSet s src p { s.active.ports[p] with en := false } { s.shadow.ports[p] with en := false }) p))) ∧
    (Rules.running s src (reqPort p 1 none) → exec (.portEnable src p) s = .next
      ((Rules.portSet s src p { s.active.ports[p] with en := true } { s.shadow.ports[p] with en := true }).complete src 0 0
        (Rules.portWords (Rules.portSet s src p { s.active.ports[p] with en := true } { s.shadow.ports[p] with en := true }) p))) ∧
    (∀ v : BitVec 8, Rules.running s src (reqPort p 3 (some (v.setWidth 32))) →
      exec (.portSetLaneen src p false (v.setWidth 32)) s = .next
        ((Rules.portSet s src p { s.active.ports[p] with laneen := v } { s.shadow.ports[p] with laneen := v }).complete src 0 0
          (Rules.portWords (Rules.portSet s src p { s.active.ports[p] with laneen := v } { s.shadow.ports[p] with laneen := v }) p))) ∧
    (∀ v : BitVec 8, Rules.running s src (reqPort p 5 (some (v.setWidth 32))) →
      exec (.portSetMshare src p (v.setWidth 32)) s = .next
        ((Rules.portSet s src p { s.active.ports[p] with mshare := v } { s.shadow.ports[p] with mshare := v }).complete src 0 0
          (Rules.portWords (Rules.portSet s src p { s.active.ports[p] with mshare := v } { s.shadow.ports[p] with mshare := v }) p))) ∧
    (∀ v : BitVec 32, Rules.running s src (reqPort p 6 none) →
      exec (.portSetLaneen src p true v) s = .next ((Rules.readmitted s p).complete src 0 0 (Rules.portWords (Rules.readmitted s p) p))) ∧
    (∀ (k : Fin 8) (v : BitVec 3), Rules.running s src (reqPort p 4 (some (BitVec.ofNat 32 (k.val * 256 + v.toNat)))) →
      exec (.portSetTxpre src p (BitVec.ofNat 32 (k.val * 256 + v.toNat))) s = .next
        ((Rules.portSet s src p { s.active.ports[p] with txpre := (s.active.ports[p]).txpre.set k (v.setWidth 4) }
          { s.shadow.ports[p] with txpre := (s.shadow.ports[p]).txpre.set k (v.setWidth 4) }).complete src 0 0
          (Rules.portWords (Rules.portSet s src p { s.active.ports[p] with txpre := (s.active.ports[p]).txpre.set k (v.setWidth 4) }
            { s.shadow.ports[p] with txpre := (s.shadow.ports[p]).txpre.set k (v.setWidth 4) }) p))) ∧
    (Rules.running s src (reqPort p 2 none) → (s.port p).st = .active →
      exec (.portCtlRetrain src p) s = .next ((s.mapPort p (fun x => { x with retrainDue := true })).complete src 0 0
        (Rules.portWords (s.mapPort p (fun x => { x with retrainDue := true })) p)))) ∧
  (∀ (src : Source) (role : BitVec 2) (pp : BitVec 6) (mask : BitVec 48) (asym : List (BitVec 16)) (s : State), Rules.running s src (reqTimeSync role pp mask asym none) →
    (role ≠ 3 ∧ pp.toNat < 48 →
      ∃ s', exec (.timeSync src role pp mask asym none) s = .next s' ∧ Rules.done s' src 0 0 (leBytes 4 (s'.time.word 4)) ∧
        s'.active.role = role ∧ s'.active.pport = pp ∧ s'.shadow.role = role ∧ s'.shadow.pport = pp ∧ s'.now = s.now ∧
        ∀ p : Fin 48, s'.active.tasym[p] = (if mask.getLsbD p.val then asym.getD p.val 0 else s.active.tasym[p])) ∧
    (role = 3 ∨ 48 ≤ pp.toNat → exec (.timeSync src role pp mask asym none) s = .next (s.complete src 3 0 []))) ∧
  (∀ (src : Source) (pp : BitVec 6) (mask : BitVec 48) (asym : List (BitVec 16)) (t : BitVec 64) (s : State), Rules.running s src (reqTimeSync 1 pp mask asym (some t)) →
    pp.toNat < 48 →
    (s.anyJob = true → exec (.timeSync src 1 pp mask asym (some t)) s = .next (s.complete src 4 12 [])) ∧
    (s.anyJob = false →
      ∃ s', exec (.timeSync src 1 pp mask asym (some t)) s = .next s' ∧ Rules.done s' src 0 0 (leBytes 4 (s'.time.word 4)) ∧ s'.now = t.toNat))

/-! ### Commands of the management processor: jobs and fettles -/

/-- R64, R407, R472, R473, R477, Table 15-12: JOB_LOAD of a sound request and image makes a LOADED job of the lowest free number with the owners,
windows and code of the request, writes its code and resets its cores; a life-cycle state, a fettle in progress, no free number, missing risers
and a field out of range each stop it with their own status. JOB_START releases the cores of a LOADED job, with RESUME of a restored pour only; after a thermal shutdown their clocks stand still. JOB_LOAD waits
while a flit of a job is in flight at a die whose map it changes (R307).
JOB_STATUS reports.
Where the spec leaves a point of this open, the model's choice is in log entries 57, 66 to 69, 72. -/
def Obligations.JobsLoadStartAndReport : Prop :=
  (∀ (src : Source) (r : JobLoadReq) (j : Fin 8) (img : JobImage) (t s : State), Rules.due s src (reqJobLoad r) →
    s.sec.fuses.lc = 2 → s.sec.fuses.decom = 0 → s.mp.fettles = [] → (s.job j).st = .none → (∀ k, k < j → (s.job k).st ≠ .none) →
    s.mp.noRisers = [] → s.mapsQuiet = true → s.applyLedger = .ok t → t.mp.noRisers = [] → s.requestFail r = none → jobImage s r (j.val + 1) = .ok img → s.regionFail r = none →
    ∃ s', exec (.jobLoad src r) s = .next s' ∧ Rules.done s' src 0 0 (leBytes 4 (j.val + 1)) ∧
      (s'.job j).st = .loaded ∧ (s'.job j).wins = r.wins ∧ (s'.job j).codeBase = r.codebase.toNat ∧
      (s'.job j).codeSize = r.codesize.toNat ∧ (s'.job j).peers = img.peers ∧ (s'.job j).capture = r.capture ∧ (s'.job j).debug = r.debug ∧
      (r.ownmask ≠ 0 → (s'.job j).owners = r.ownmask) ∧ (∀ n, r.ownmask = 0 → src = .host n → (s'.job j).owners = Rules.boxBit n) ∧
      memReadN s'.hbm.mem r.codebase.toNat img.code.length = img.code ∧
      ∀ x, img.cores = [x] → (s'.core x.1).released = false ∧ (s'.core x.1).queued = x.2.1 ∧ ((s'.core x.1).th 0).r.pc = x.2.2 ∧
        (s'.core x.1).codeSize = r.codesize.toNat ∧ (s'.core x.1).ve.restr = (t.core x.1).ve.failed ∧ (s'.core x.1).spm = { Core.reset.spm with
          spares := t.sparesAt x.1, noGateRecorded := (t.core x.1).spm.noGateRecorded
          otherJobRecorded := (t.core x.1).spm.otherJobRecorded } ∧ (s'.job j).cores = [x]) ∧
  (∀ (src : Source) (r : JobLoadReq) (s : State), Rules.due s src (reqJobLoad r) →
    (s.sec.fuses.lc ≠ 2 → exec (.jobLoad src r) s = .next (s.complete src 4 2 [])) ∧
    (s.sec.fuses.lc = 2 ∧ s.sec.fuses.decom = 0 →
      (s.mp.fettles ≠ [] → exec (.jobLoad src r) s = .next (s.complete src 7 1 [])) ∧
      (s.mp.fettles = [] →
        ((∀ j, (s.job j).st ≠ .none) → exec (.jobLoad src r) s = .next (s.complete src 7 2 [])) ∧
        ((∃ j, (s.job j).st = .none) ∧ s.mp.noRisers ≠ [] → exec (.jobLoad src r) s = .next (s.complete src 7 3 [])) ∧
        ((∃ j, (s.job j).st = .none) ∧ s.mp.noRisers = [] ∧ s.mapsQuiet = false → exec (.jobLoad src r) s = .next (Rules.begun s src)) ∧
        (∀ id, (∃ j, (s.job j).st = .none) ∧ s.mp.noRisers = [] ∧ s.mapsQuiet = true ∧ s.applyLedger = .error id →
          ∃ s', exec (.jobLoad src r) s = .next s' ∧ Rules.done s' src 7 3 [] ∧ s'.active = s.active ∧ ∀ j, s'.job j = s.job j) ∧
        ((∃ j, (s.job j).st = .none) ∧ s.mp.noRisers = [] ∧ s.mapsQuiet = true ∧ (∃ t, s.applyLedger = .ok t ∧ t.mp.noRisers = []) →
          (32 * perDie s.ident.code < r.ncores.toNat → exec (.jobLoad src r) s = .next (s.complete src 3 0x14 [])) ∧
          (r.ncores.toNat ≤ 32 * perDie s.ident.code →
            (spmBytes s.ident.code < r.minspm.toNat → exec (.jobLoad src r) s = .next (s.complete src 3 0x18 [])) ∧
            (r.minspm.toNat ≤ spmBytes s.ident.code ∧ r.codesize.toNat % 65536 ≠ 0 →
              exec (.jobLoad src r) s = .next (s.complete src 3 0x1C []))))))) ∧
  (∀ (src : Source) (job : BitVec 8) (j : Fin 8) (s : State), Rules.running s src (reqJobStart job false) → s.jobNamed job = some j →
    (s.job j).st = .loaded → (∀ x ∈ (s.job j).cores, (s.core x.1).ve.restr = false) → (s.job j).cores ≠ [] →
    ∃ s', exec (.jobStart src job false) s = .next s' ∧ Rules.done s' src 0 0 (leBytes 8 s.now) ∧ (s'.job j).st = .running ∧
      s'.power.untrust = false ∧
      (s.power.shutdown = false → ∀ x ∈ (s.job j).cores, s'.core x.1 = { s.core x.1 with released := true, cycle := 0 }) ∧
      (s.power.shutdown = true → s'.cores = s.cores)) ∧
  (∀ (src : Source) (job : BitVec 8) (j : Fin 8) (n : Word) (s : State), Rules.running s src (reqJobStart job true) → s.jobNamed job = some j →
    s.power.shutdown = false →
    (s.job j).st = .faulted ∨ (s.job j).st = .running → (s.job j).resumable = some n → (∀ x ∈ (s.job j).cores, (s.core x.1).ve.restr = false) → (s.job j).cores ≠ [] →
    ∃ s', exec (.jobStart src job true) s = .next s' ∧ Rules.done s' src 0 0 (leBytes 8 s.now) ∧ (s'.job j).st = .running ∧
      (s'.job j).resumable = none ∧ ∀ x ∈ (s.job j).cores, (s'.core x.1).released = true ∧ (s'.core x.1).cycle = 0) ∧
  (∀ (src : Source) (job : BitVec 8) (j : Fin 8) (s : State), s.jobNamed job = some j →
    (Rules.running s src (reqJobStart job true) → (s.job j).resumable = none → exec (.jobStart src job true) s = .next (s.complete src 4 3 [])) ∧
    (Rules.running s src (reqJobStart job false) → (s.job j).st ≠ .loaded → exec (.jobStart src job false) s = .next (s.complete src 4 0 [])) ∧
    (Rules.running s src (reqJobStart job false) → (s.job j).st = .loaded → (∃ x ∈ (s.job j).cores, (s.core x.1).ve.restr = true) →
      exec (.jobStart src job false) s = .next (s.complete src 7 1 []))) ∧
  (∀ (src : Source) (job : BitVec 8) (j : Fin 8) (s : State), Rules.running s src (reqJobStatus job) → job.toNat = j.val + 1 →
    ∃ rsp, exec (.jobStatus src job) s = .next (s.complete src 0 0 rsp) ∧ rsp.length = 0x20 ∧
      word32At rsp 0 = (match (s.job j).st with
        | .none => 0 | .loaded => 1 | .running => 2 | .finished => 3 | .faulted => 4 | .killed => 5) ∧
      word32At rsp 4 = (s.job j).cores.length % 2 ^ 32 ∧
      word32At rsp 8 = ((s.job j).cores.filter (fun x => (s.core x.1).finished)).length % 2 ^ 32 ∧
      word32At rsp 0x18 = (if s.flask.job = some (j.val + 1) then s.flask.committed.toNat else 0) ∧
      word32At rsp 0x1C = (s.job j).firstFatal.toNat)

/-- The number of a physical position in the module: die × 272 + row × 16 + column (R292). -/
def Rules.place (p : CorePos) : Nat := 272 * p.die.val + 16 * p.prow.toNat + p.pcol.toNat

/-- R462, R497 to R501: JOB_KILL makes the job KILLED: its cores issue nothing and drop what they wait for; the command reads BUSY until the quarantine is in force, and of
a job already quarantined it answers the time. The quarantine comes into force when nothing the cores issued is left; the job's fettle is then due, or
first its capture, which writes a record for each core into the capture window; that window alone stays the job's after its fettle.
R501 to R506: FETTLE of a killed job, of all external memory and of the module wait for their end; a job that is not killed, a source without
ownership and a loaded job deny them. At its end a fettle of a job leaves its windows and code as zeros, its cores at reset and its number free; one of all
external memory leaves everything above the MP region as zeros, and one of the module resets every core as well; the waiting command
answers the time. A core of the job that fails the verification is a retirement candidate from then on (R503).
Where the spec leaves a point of this open, the model's choice is in log entries 56, 73, 74, 75. -/
def Obligations.KilledJobsAreQuarantinedCapturedAndFettled : Prop :=
  (∀ (src : Source) (job : BitVec 8) (j : Fin 8) (s : State), Rules.running s src (reqJobKill job) → s.jobNamed job = some j →
    ((s.job j).st ≠ .killed →
      ∃ s', exec (.jobKill src job) s = .next s' ∧ (s'.job j).st = .killed ∧ (s'.job j).killSeq = (s.box src).seq ∧
        (s'.job j).inForce = none ∧ (s'.box src).st = .running ∧ (s'.box src).begun = true ∧
        ∀ x ∈ (s.job j).cores, (s'.core x.1).released = false ∧ (s'.core x.1).ve.q = [] ∧ (s'.core x.1).me.q = [] ∧
          (s'.core x.1).spm.waits = [] ∧ (s'.core x.1).spm.remote = [] ∧ (s'.core x.1).dbg.attached = false ∧
          (s'.core x.1).spm.mem = (s.core x.1).spm.mem) ∧
    (∀ t, (s.job j).st = .killed ∧ (s.job j).inForce = some t → exec (.jobKill src job) s = .next (s.complete src 0 0 (leBytes 8 t)))) ∧
  (∀ (j : Fin 8) (s : State), (s.job j).st = .killed → (s.job j).inForce = none →
    ((∃ x ∈ (s.job j).cores, (s.core x.1).quiet = false) → exec (.quarantineInForce j) s = .next s) ∧
    ((∀ x ∈ (s.job j).cores, (s.core x.1).quiet = true) →
      ∃ s', exec (.quarantineInForce j) s = .next s' ∧ (s'.job j).inForce = some s.now ∧ (s'.job j).st = .killed ∧
        ((s.job j).capture = false → s'.mp.fettles.any (fun f => decide (f.scope = .job j.val)) = true) ∧
        ∀ src, (s.box src).st = .running → (s.box src).opc = 0x12 → (s.box src).seq = (s.job j).killSeq →
          (∀ x, x ≠ src → (s.box x).seq ≠ (s.job j).killSeq) →
          (s'.box src).st = .done ∧ (s'.box src).status = 0 ∧ (s'.box src).rsp = leBytes 8 s.now)) ∧
  (∀ (j : Fin 8) (w : WindowReq) (id : CoreId) (x : Bool × Word) (s : State), (s.job j).st = .killed → (s.job j).inForce ≠ none →
    (s.job j).capture = true → (s.job j).captured = false → (s.job j).wins.getLast? = some w → (s.job j).cores = [(id, x)] →
    ∃ s', exec (.capture j) s = .next s' ∧ (s'.job j).captured = true ∧
      s'.mp.fettles.any (fun f => decide (f.scope = .job j.val)) = true ∧
      memReadN s'.hbm.mem w.base.toNat ((s.core id).captureRecord (s.env id)).bytes.length = ((s.core id).captureRecord (s.env id)).bytes ∧
      s'.cores = s.cores) ∧
  (∀ (src : Source) (job : BitVec 8) (s : State), Rules.running s src (reqFettle 0 (some job)) →
    (s.jobNamed job = none → exec (.fettleJob src job) s = .next (s.complete src 4 19 [])) ∧
    ∀ j, s.jobNamed job = some j →
      ((s.job j).st ≠ .killed → exec (.fettleJob src job) s = .next (s.complete src 4 19 [])) ∧
      ((s.job j).st = .killed ∧ (s.job j).hold = false ∧ s.mp.fettles = [] →
        (src = .bmc ∨ (∃ n, src = .host n ∧ (s.job j).owners.getLsbD n = true) →
          exec (.fettleJob src job) s = .next (Rules.begun (s.addFettle { scope := .job j.val, src := some src }) src)) ∧
        (∀ n : Fin 8, src = .host n → (s.job j).owners.getLsbD n = false →
          exec (.fettleJob src job) s = .next (s.complete src 4 1 [])))) ∧
  (∀ (src : Source) (s : State),
    (Rules.running s src (reqFettle 1 none) →
      (s.anyJob = false → exec (.fettleAllHbm src) s = .next (Rules.begun (s.addFettle { scope := .hbm, src := some src }) src)) ∧
      ((∃ j, (s.job j).st ≠ .none ∧ (s.job j).hold = false) → exec (.fettleAllHbm src) s = .next (s.complete src 4 11 []))) ∧
    (Rules.running s src (reqFettle 2 none) →
      (s.anyJob = false → exec (.fettleModule src) s = .next (Rules.begun (s.addFettle { scope := .whole, src := some src }) src)) ∧
      ((∃ j, (s.job j).st ≠ .none ∧ (s.job j).hold = false) → exec (.fettleModule src) s = .next (s.complete src 4 11 [])))) ∧
  (∀ (j : Fin 8) (failed : List CorePos) (fs : List FettleRun) (s : State), s.mp.fettles = { scope := .job j.val, src := none } :: fs →
    (s.job j).st = .killed → (s.job j).capture = false →
    ((s.job j).inForce = none → exec (.fettleDone failed) s = .next s) ∧
    ((s.job j).inForce ≠ none →
      ∃ s', exec (.fettleDone failed) s = .next s' ∧ s'.mp.fettles = fs ∧ (s'.job j).st = .none ∧
        (∀ p ∈ failed, p.prow.toNat ≤ 16 → (∃ x ∈ (s.job j).cores, s.coreAt (Rules.place p) = some x.1) →
          nhas s'.errs.candidates (Rules.place p) = true) ∧
        (∀ x ∈ (s.job j).cores,
          (s.board.veTested = true → (∀ p ∈ failed, s.coreAt (Rules.place p) ≠ some x.1) →
            s'.core x.1 = { Core.reset with
              ve := { Core.reset.ve with restr := false }, spm := { Core.reset.spm with spares := s.sparesAt x.1 } }) ∧
          ((∃ p ∈ failed, p.prow.toNat ≤ 16 ∧ s.coreAt (Rules.place p) = some x.1) → (s'.core x.1).ve.failed = true ∧ (s'.core x.1).ve.restr = true)) ∧
        (∀ w ∈ (s.job j).wins, ∀ a, w.base.toNat ≤ a → a < w.limit.toNat → memRead s'.hbm.mem a = 0) ∧
        ∀ a, (s.job j).codeBase ≤ a → a < (s.job j).codeBase + (s.job j).codeSize → memRead s'.hbm.mem a = 0)) ∧
  (∀ (j : Fin 8) (w : WindowReq) (fs : List FettleRun) (s : State), s.mp.fettles = { scope := .job j.val, src := none } :: fs →
    (s.job j).st = .killed → (s.job j).inForce ≠ none → (s.job j).capture = true → (s.job j).captured = true → (s.job j).wins.getLast? = some w →
    ∃ s', exec (.fettleDone []) s = .next s' ∧ (s'.job j).st = .killed ∧ (s'.job j).hold = true ∧ (s'.job j).wins = [w] ∧
      (s'.job j).peers = (s.job j).peers ∧ (s'.job j).cores = []) ∧
  (∀ (src : Source) (failed : List CorePos) (fs : List FettleRun) (s : State), (s.box src).st = .running →
    (s.mp.fettles = { scope := .hbm, src := some src } :: fs →
      ∃ s', exec (.fettleDone failed) s = .next s' ∧ Rules.done s' src 0 0 (leBytes 8 s.now) ∧ s'.mp.fettles = fs ∧
        ∀ a, 2 ^ 30 ≤ a → a < 2 ^ 40 → memRead s'.hbm.mem a = 0) ∧
    (s.mp.fettles = { scope := .whole, src := some src } :: fs →
      ∃ s', exec (.fettleDone failed) s = .next s' ∧ Rules.done s' src 0 0 (leBytes 8 s.now) ∧ s'.mp.fettles = fs ∧
        (∀ id, s'.core id = { Core.reset with
          spm := { Core.reset.spm with spares := (s'.core id).spm.spares }, ve := { Core.reset.ve with failed := (s'.core id).ve.failed, restr := (s'.core id).ve.failed } }) ∧
        (∀ j, s'.job j = Job.blank) ∧ s'.red = [] ∧ s'.power.phases = [] ∧
        (∀ a, 2 ^ 30 ≤ a → a < 2 ^ 40 → memRead s'.hbm.mem a = 0)))


/-! ### Commands of the management processor: flasks and pours -/

namespace Sys2Proof.Rules

/-- The block with the flask binding `b` in both sets. -/
abbrev bindsTo (s : State) (b : FlaskBind) : Prop := s.active.bind = b ∧ s.shadow.bind = b

end Sys2Proof.Rules

/-- R384, R387, R395, R398, R399, R402, R403: a sound declaration is kept, with every mirrored share dirty; a query returns it. A remap of the
job's recorded cores is kept for the next pour; POUR_NOW writes its number into the request word of every core. A rollback resets the cores and
takes the job to its restore point, the highest pour that any of its modules reports committed, from which it may resume, with the copies of
that generation written back; the job keeps its state. Without a restore point the job is FAULTED.
Where the spec leaves a point of this open, the model's choice is in log entries 56, 59 to 62. -/
def Obligations.PoursAreDeclaredAskedForAndRolledBack : Prop :=
  (∀ (src : Source) (job : BitVec 8) (j : Fin 8) (d : PourDecl) (s : State), Rules.running s src (reqPourDeclare job d) → s.jobNamed job = some j →
    (s.declFail j d = none →
      ∃ s' n, exec (.pourPolicyDeclare src job d) s = .next s' ∧ Rules.done s' src 0 0 (wordBytes [n]) ∧
        s'.flask.job = some (j.val + 1) ∧ s'.flask.pstate = .open_ ∧ s'.flask.dirty = { all := true, except := [] } ∧
        s'.flask.decl = some { d with timeoutS := if d.timeoutS = 0 then 10 else d.timeoutS } ∧ s'.flask.remap = [] ∧
        s'.hbm = s.hbm ∧ s'.cores = s.cores) ∧
    (∀ n, s.flask.job = some n → n ≠ j.val + 1 → exec (.pourPolicyDeclare src job d) s = .next (s.complete src 3 0 [])) ∧
    (s.flask.job = none → (s.job j).st ≠ .killed → 16 < d.regions.length →
      exec (.pourPolicyDeclare src job d) s = .next (s.complete src 3 4 []))) ∧
  (∀ (src : Source) (job : BitVec 8) (j : Fin 8) (d : PourDecl) (s : State), Rules.running s src (reqPourQuery job) → s.jobNamed job = some j →
    s.flask.job = some (j.val + 1) → s.flask.decl = some d →
    ∃ rsp, exec (.pourPolicyQuery src job) s = .next (s.complete src 0 0 rsp) ∧ word32At rsp 4 = d.regions.length % 2 ^ 32 ∧
      (d.regions.length ≤ 16 → d.spm.length ≤ 4 → rsp.length = 328 + 4 + 4 * s.flask.remap.length ∧
        word32At rsp 0x118 = d.coordinator.toNat ∧ word32At rsp 0x11C = d.reqWord.toNat ∧ word32At rsp 0x120 = d.timeoutS.toNat)) ∧
  (∀ (src : Source) (job : BitVec 8) (j : Fin 8) (s : State), s.jobNamed job = some j →
    s.flask.job = some (j.val + 1) →
    (Rules.running s src (reqRemap job []) → exec (.remap src job []) s = .next ((s.mapFlask (fun f => { f with remap := [] })).complete src 0 0 (wordBytes [0]))) ∧
    (∀ (id : CoreId), Rules.running s src (reqRemap job [id.setWidth 32]) → (s.job j).cores.any (fun y => y.1 == id) = true →
      (s.recorded id = true →
        exec (.remap src job [id.setWidth 32]) s = .next ((s.mapFlask (fun f => { f with remap := [id] })).complete src 0 0 (wordBytes [1]))) ∧
      (s.recorded id = false → exec (.remap src job [id.setWidth 32]) s = .next (s.complete src 3 8 []))) ∧
    (∀ l : List (BitVec 32), Rules.running s src (reqRemap job l) → 16 < l.length → exec (.remap src job l) s = .next (s.complete src 3 4 []))) ∧
  (∀ (src : Source) (job : BitVec 8) (j : Fin 8) (s : State), Rules.running s src (reqPourNow job) → s.jobNamed job = some j →
    (s.flask.decl = none → exec (.pourNow src job) s = .next (s.complete src 3 0 [])) ∧
    (∀ d, s.flask.decl = some d → s.flask.job = some (j.val + 1) →
      ∃ s', exec (.pourNow src job) s = .next s' ∧ Rules.done s' src 0 0 (leBytes 4 s.nextPour.toNat) ∧ s'.flask = s.flask ∧
        ∀ x ∈ (s.job j).cores, memReadN (s'.core x.1).spm.mem d.reqWord.toNat 4 = leBytes 4 s.nextPour.toNat)) ∧
  (∀ (src : Source) (job : BitVec 8) (j : Fin 8) (others : List Word) (s : State), Rules.running s src (reqRollback job) →
    s.jobNamed job = some j → s.flask.job = some (j.val + 1) →
    s.flask.prot = 1 ∨ s.flask.committed = 0 ∧ (s.flask.pstate ≠ .ready ∨ others = []) → (s.job j).st = .running →
    ∃ s', exec (.rollback src job others) s = .next s' ∧ Rules.done s' src 0 0 (wordBytes [s.flask.pstate.code, s.flask.committed.toNat]) ∧
      (s'.job j).st = .faulted ∧ s'.hbm = s.hbm) ∧
  (∀ (src : Source) (job : BitVec 8) (j : Fin 8) (others : List Word) (s : State), Rules.running s src (reqRollback job) →
    s.jobNamed job = some j → (s.job j).st ≠ .killed → s.flask.job = some (j.val + 1) → s.flask.prot ≠ 1 → s.flask.pstate = .ready →
    s.flask.committed.toNat + 1 < 2 ^ 32 → (∃ r ∈ others, s.flask.committed.toNat + 1 ≤ r.toNat) →
    ∃ s', exec (.rollback src job others) s = .next s' ∧ Rules.done s' src 0 0 (wordBytes [s.flask.pstate.code, s.flask.committed.toNat]) ∧
      (s'.job j).st = (s.job j).st ∧ (s'.job j).resumable = some (s.flask.committed + 1) ∧ s'.flask.pstate = .rollback ∧
      s'.flask.interval = s.flask.committed + 1 ∧ s'.flask.committed = s.flask.committed + 1 ∧ s'.flask.remap = s.flask.remap) ∧
  (∀ (src : Source) (job : BitVec 8) (j : Fin 8) (c : RbCopy) (others : List Word) (s : State), Rules.running s src (reqRollback job) →
    s.jobNamed job = some j → (s.job j).st ≠ .killed → s.flask.job = some (j.val + 1) → s.flask.committed ≠ 0 → s.flask.prot ≠ 1 →
    s.flask.pstate ≠ .ready ∨ (∀ r ∈ others, r.toNat ≤ s.flask.committed.toNat) →
    s.flask.commitPending = false → s.flask.held = [] → s.host.b2held = [] → s.flask.rb = [c] → c.gen = s.flask.committed.toNat →
    ∃ s', exec (.rollback src job others) s = .next s' ∧ Rules.done s' src 0 0 (wordBytes [s.flask.pstate.code, s.flask.committed.toNat]) ∧
      (s'.job j).st = (s.job j).st ∧ (s'.job j).resumable = some s.flask.committed ∧ s'.flask.remap = s.flask.remap ∧ s'.flask.pstate = .rollback ∧
      s'.flask.interval = s.flask.committed ∧ s'.flask.rb = [] ∧
      (∀ x ∈ (s.job j).cores, (s'.core x.1).released = false ∧ (s'.core x.1).spm = { Core.reset.spm with
        spares := (s'.core x.1).spm.spares, noGateRecorded := (s'.core x.1).spm.noGateRecorded
        otherJobRecorded := (s'.core x.1).spm.otherJobRecorded }) ∧
      memReadN s'.hbm.mem (mirrorAddr s.flask.regions (512 * c.share)) 512 =
        memReadN s.hbm.mem (slotAddr s.active.bind.rbArea (c.share % 8) c.slot) 512) ∧
  (∀ (src : Source) (job : BitVec 8) (s : State), Rules.running s src (reqRollback job) → s.jobNamed job = none →
    exec (.rollback src job) s = .next (s.complete src 3 0 []))

/-- R382, R383, R407, Table 15-12: FLASK_BIND of a pair with equal arguments binds them in both sets and answers the bases of the areas; it
reads BUSY until the partner holds its arguments, and is BAD_ARG for itself as partner, for a store above 480 GiB or less than what the job
mirrors, for an undo area above the store, and for arguments that differ. With KEEP a bound module keeps its areas and takes the new partner, unprotected while it sends every share. An unbind is
denied while a job has mirrored regions.
R406, R411, Table 15-12: FAILOVER_ADOPT on a spare of the same ordering code opens the adoption window and waits for the shares; another module
denies it. MIRROR_STATUS returns the flask block and the partner's last report with its age.
Where the spec leaves a point of this open, the model's choice is in log entries 56, 62 to 65. -/
def Obligations.FlasksBindAdoptAndReport : Prop :=
  (∀ (src : Source) (p : ModuleId) (c u : Word) (s : State), Rules.due s src (reqFlaskBind p false c u) → s.active.bind.en = false → p ≠ s.self →
    regionBytes s.flask.regions ≤ c.toNat * 65536 → c.toNat ≤ 480 * 16384 → u.toNat ≤ c.toNat → ∀ x y z, s.placeAreas (c.toNat * 65536) (u.toNat * 65536) = some (x, y, z) →
    (∃ s' b, exec (.flaskBind src p c u .matching) s = .next s' ∧ Rules.done s' src 0 0 (wordBytes [b.store.toNat, b.undoArea.toNat, b.rbArea.toNat]) ∧ Rules.bindsTo s' b ∧ b.en = true ∧ b.partner = p ∧
      b.cap = BitVec.ofNat 23 c.toNat ∧ b.undo = BitVec.ofNat 23 u.toNat ∧ b.store = BitVec.ofNat 24 (x / 65536) ∧
      b.undoArea = BitVec.ofNat 24 (y / 65536) ∧ b.rbArea = BitVec.ofNat 24 (z / 65536) ∧ s'.flask.held = [] ∧ s'.flask.rb = []) ∧
    exec (.flaskBind src p c u .waiting) s =
      .next (Rules.begun (s.mapFlask (fun f => { f with bindAsk := some { partner := p, cap := c, undo := u, keep := false } })) src) ∧
    exec (.flaskBind src p c u .mismatched) s = .next (s.complete src 3 0 [])) ∧
  (∀ (src : Source) (p : ModuleId) (c u : Word) (peer : PeerBind) (s : State), Rules.due s src (reqFlaskBind p false c u) →
    (p = s.self → exec (.flaskBind src p c u peer) s = .next (s.complete src 3 0 [])) ∧
    (p ≠ s.self ∧ 480 * 16384 < c.toNat → exec (.flaskBind src p c u peer) s = .next (s.complete src 3 4 [])) ∧
    (p ≠ s.self ∧ c.toNat ≤ 480 * 16384 ∧ c.toNat < u.toNat → exec (.flaskBind src p c u peer) s = .next (s.complete src 3 8 [])) ∧
    (p ≠ s.self ∧ c.toNat ≤ 480 * 16384 ∧ u.toNat ≤ c.toNat ∧ c.toNat * 65536 < regionBytes s.flask.regions →
      exec (.flaskBind src p c u peer) s = .next (s.complete src 3 4 []))) ∧
  (∀ (src : Source) (p : ModuleId) (c u : Word) (s : State), Rules.due s src (reqFlaskBind p true c u) → s.active.bind.en = true → p ≠ s.self →
    regionBytes s.flask.regions ≤ c.toNat * 65536 →
    p ≠ s.active.bind.partner → c.toNat ≤ 480 * 16384 → u.toNat ≤ c.toNat → s.active.bind.cap.toNat = c.toNat →
    s.active.bind.undo.toNat = u.toNat →
    ∃ s', exec (.flaskBindKeep src p c u .matching) s = .next s' ∧ Rules.done s' src 0 0 (wordBytes [s.active.bind.store.toNat, s.active.bind.undoArea.toNat, s.active.bind.rbArea.toNat]) ∧
      Rules.bindsTo s' { s.active.bind with partner := p } ∧ s'.flask.prot = 2 ∧ s'.flask.expect = s.flask.committed ∧
      (s.flask.job ≠ none → s'.flask.dirty = { all := true, except := [] })) ∧
  (∀ (src : Source) (s : State), Rules.running s src reqFlaskUnbind →
    (s.flask.job ≠ none ∧ s.flask.shares ≠ 0 → exec (.flaskUnbind src) s = .next (s.complete src 4 6 [])) ∧
    (s.flask.job = none →
      ∃ s', exec (.flaskUnbind src) s = .next s' ∧ Rules.done s' src 0 0 (wordBytes [0, 0, 0]) ∧
        Rules.bindsTo s' FlaskBind.unbound ∧ s'.flask.held = [] ∧ s'.flask.rb = [])) ∧
  (∀ (src : Source) (job : BitVec 8) (j : Fin 8) (x p : ModuleId) (rp : Word) (code : OrderingCode) (s : State), Rules.running s src (reqAdopt job x p rp) →
    s.jobNamed job = some j →
    (code ≠ s.ident.code ∨ s.active.bind.en = true ∨ s.localTo p = false →
      exec (.failoverAdopt src job x p rp code) s = .next (s.complete src 4 7 [])) ∧
    (code = s.ident.code ∧ s.active.bind.en = false ∧ s.localTo p = true ∧ (s.job j).st = .loaded ∧ s.flask.job = some (j.val + 1) ∧
        (∀ k, k ≠ j → (s.job k).st = .none) ∧ s.flask.shares ≠ 0 →
      exec (.failoverAdopt src job x p rp code) s = .next (Rules.begun (s.mapFlask (fun f =>
        { f with adopt := some { job := j.val + 1, x := x, p := p, rp := rp, written := [], poison := 0 } })) src))) ∧
  (∀ (src : Source) (s : State), Rules.running s src reqMirrorStatus →
    ∃ rsp, exec (.mirrorStatus src) s = .next (s.complete src 0 0 rsp) ∧ rsp.length = 0xD8 ∧
      rsp.take 0xD0 = wordBytes (s.blockWords false 0x30 0 52) ∧ word32At rsp 0xD0 = s.flask.partnerCommitted.toNat ∧
      word32At rsp 0xD4 = min 0xFFFFFFFF ((s.now - s.flask.partnerAt) / 1000000))


/-! ### Commands of the management processor: ledgers, tests and debug -/

/-- R205, R280, R304 to R310, Table 15-12: retirements of positions enter the ledger, and a readmission takes one out that has passed a test since;
retired nodes keep the limits of a die. Row repairs are listed, added and cleared. A test ends as it ran, is denied of a target in use, and a pass of
a retired position counts for its readmission.
Where the spec leaves a point of this open, the model's choice is in log entries 44, 45, 86 to 88. -/
def Obligations.LedgersKeepWhatIsRetired : Prop :=
  (∀ (src : Source) (d : Fin 32) (r : BitVec 5) (c : BitVec 4) (s : State),
    (Rules.running s src (reqPosition 0x60 d r c false) → r.toNat ≤ 16 →
      ∃ s', exec (.coreRetire src d r c false) s = .next s' ∧ Rules.done s' src 0 0 (leBytes 4 0) ∧
        nhas s'.mp.retiredCores (272 * d.val + (16 * r.toNat + c.toNat)) = true ∧
        nhas s'.mp.passed (272 * d.val + (16 * r.toNat + c.toNat)) = false ∧ s'.active = s.active) ∧
    (∀ node, Rules.running s src (reqPosition 0x60 d r c node) → 16 < r.toNat → exec (.coreRetire src d r c node) s = .next (s.complete src 3 0 [])) ∧
    (Rules.running s src (reqPosition 0x60 d r c true) → r.toNat ≤ 16 →
      (s.nodeFits d (16 * r.toNat + c.toNat) = true →
        ∃ s', exec (.coreRetire src d r c true) s = .next s' ∧ Rules.done s' src 0 0 (leBytes 4 1) ∧
          nhas s'.mp.retiredNodes (272 * d.val + (16 * r.toNat + c.toNat)) = true) ∧
      (s.nodeFits d (16 * r.toNat + c.toNat) = false →
        ∃ s', exec (.coreRetire src d r c true) s = .next s' ∧ Rules.done s' src 3 0 [] ∧ nhas s'.mp.noRisers d.val = true ∧
          s'.mp.retiredNodes = s.mp.retiredNodes))) ∧
  (∀ (src : Source) (d : Fin 32) (r : BitVec 5) (c : BitVec 4) (s : State), Rules.running s src (reqPosition 0x61 d r c false) → r.toNat ≤ 16 →
    (nhas s.mp.retiredCores (272 * d.val + 16 * r.toNat + c.toNat) = false →
      exec (.coreReadmit src d r c false) s = .next (s.complete src 3 0 [])) ∧
    (nhas s.mp.retiredCores (272 * d.val + 16 * r.toNat + c.toNat) = true →
      (nhas s.mp.passed (272 * d.val + 16 * r.toNat + c.toNat) = false →
        exec (.coreReadmit src d r c false) s = .next (s.complete src 4 8 [])) ∧
      (nhas s.mp.passed (272 * d.val + 16 * r.toNat + c.toNat) = true →
        ∃ s', exec (.coreReadmit src d r c false) s = .next s' ∧ Rules.done s' src 0 0 (leBytes 4 2) ∧
          nhas s'.mp.retiredCores (272 * d.val + 16 * r.toNat + c.toNat) = false ∧ s'.active = s.active))) ∧
  (∀ (src : Source) (e : RepairEntry) (s : State),
    (Rules.running s src (reqRowEntry 1 e) → RepairEntry.valid s.ident.code e = true →
      ∃ s', exec (.rowRepairAdd src e) s = .next s' ∧ Rules.done s' src 0 0 [] ∧ e ∈ s'.mp.repairs ∧
        (∀ x ∈ s.mp.repairs, x ∈ s'.mp.repairs) ∧ (∀ x ∈ s'.mp.repairs, x ∈ s.mp.repairs ∨ x = e) ∧ s'.hbm = s.hbm) ∧
    (Rules.running s src (reqRowEntry 2 e) → e ∉ s.mp.repairs → exec (.rowRepairClear src e) s = .next (s.complete src 3 8 [])) ∧
    (Rules.running s src (reqRowEntry 2 e) → e ∈ s.mp.repairs → exec (.rowRepairClear src e) s = .next
      (({ s with mp := { s.mp with repairs := s.mp.repairs.filter (fun x => x != e) } } : State).complete src 0 0 []))) ∧
  (∀ (src : Source) (start : Word) (s : State), Rules.running s src (reqRowList .hbm start) → ∀ l, s.mp.repairs.filter (fun e => RepairEntry.on e .hbm) = l →
    ∃ rsp, exec (.rowRepairList src .hbm start) s = .next (s.complete src 0 0 rsp) ∧ word32At rsp 0 = l.length % 2 ^ 32 ∧
      rsp.length = 4 + 8 * min 511 (l.length - start.toNat)) ∧
  (∀ (src : Source) (target : Word) (pass : Bool) (s : State),
    (∀ test : Word, Rules.running s src (reqDiag test target) → 4 < test.toNat → exec (.diagRun src test target pass) s = .next (s.complete src 3 0 [])) ∧
    (Rules.running s src (reqDiag 4 target) → s.anyJob = true → exec (.diagRun src 4 target pass) s = .next (s.complete src 4 9 [])) ∧
    (Rules.running s src (reqDiag 4 target) → s.anyJob = false →
      ∃ (s' : State) (detail : List Byte), exec (.diagRun src 4 target pass) s = .next s' ∧ Rules.done s' src 0 0 (leBytes 4 (b2n pass) ++ detail) ∧
        detail.length = 64 ∧ s'.mp.passed = s.mp.passed) ∧
    (∀ p : BitVec 10, Rules.running s src (reqDiag 3 target) → s.board.pchRetired = some p → target = p.setWidth 32 → s.anyJob = false →
      ∃ s', exec (.diagRun src 3 target pass) s = .next s' ∧ s'.board.pchPassed = (s.board.pchPassed || pass) ∧ s'.hbm = s.hbm) ∧
    (∀ q, Rules.running s src (reqDiag 0 target) → diagPosition target = some q → nhas s.mp.retiredCores q = true → s.anyJob = false →
      ∃ (s' : State) (detail : List Byte), exec (.diagRun src 0 target true) s = .next s' ∧ Rules.done s' src 0 0 (leBytes 4 1 ++ detail) ∧
        nhas s'.mp.passed q = true))

namespace Sys2Proof.Rules

/-- Debug of a core by this source is permitted (R493, R521). -/
abbrev mayDebug (s : State) (src : Source) (id : CoreId) : Prop :=
  s.assigned id = true ∧ ∃ j, s.jobOf id = some j ∧ (∀ n, src = .host n → (s.job j).owners.getLsbD n = true) ∧ (s.job j).st ≠ .killed ∧
    ((s.job j).debug = true ∨ s.sec.level ≠ 0)

end Sys2Proof.Rules

/-- R121, R475, R493, R521 to R527: a permitted DEBUG_HALT answers THSTATE, asks the named threads to halt and with ATTACH opens the session;
DEBUG_RESUME lets HALTED threads run and without ATTACH ends the session. DEBUG_READ returns scratchpad bytes, the address registers of a thread, event counters and block
registers and changes none of them; DEBUG_WRITE writes scratchpad bytes and address registers of a thread, the latter only while the core is idle;
words enter a runner, or all of them are discarded, whether or not threads wait (R121). A core without a job, a job without
permission at level 0 and a host without ownership are denied.
Where the spec leaves a point of this open, the model's choice is in log entries 93 to 95. -/
def Obligations.DebugReachesPermittedCores : Prop :=
  (∀ (src : Source) (id : CoreId) (th : BitVec 4) (att : Bool) (s : State), Rules.running s src (reqDebugThreads 0x90 id th att) →
    (s.assigned id = false → exec (.debugHalt src id th att) s = .next (s.complete src 3 0 [])) ∧
    (s.assigned id = true ∧ s.jobOf id = none → exec (.debugHalt src id th att) s = .next (s.complete src 4 10 [])) ∧
    (∀ j, s.assigned id = true → s.jobOf id = some j →
      (∀ n, src = .host n → (s.job j).owners.getLsbD n = false → exec (.debugHalt src id th att) s = .next (s.complete src 4 1 [])) ∧
      (src = .bmc → (s.job j).debug = false → s.sec.level = 0 → exec (.debugHalt src id th att) s = .next (s.complete src 4 10 []))) ∧
    (Rules.mayDebug s src id →
      ∃ s', exec (.debugHalt src id th att) s = .next s' ∧ Rules.done s' src 0 0 (leBytes 4 (s'.core id).thstate) ∧
        s'.hbm = s.hbm ∧ (att = true → (s'.core id).dbg.attached = true))) ∧
  (∀ (src : Source) (id : CoreId) (th : BitVec 4) (s : State), Rules.running s src (reqDebugThreads 0x91 id th false) → Rules.mayDebug s src id →
    ∃ s', exec (.debugResume src id th false) s = .next s' ∧ Rules.done s' src 0 0 (leBytes 4 (s'.core id).thstate) ∧
      s'.hbm = s.hbm ∧ ((s.core id).dbg.attached = true → (s'.core id).dbg.attached = false)) ∧
  (∀ (src : Source) (id : CoreId) (a n : Word) (s : State), Rules.mayDebug s src id → 1 ≤ n.toNat → n.toNat ≤ 4096 →
    (Rules.running s src (reqDebugRead 0 (id.setWidth 32) a n) → a.toNat + n.toNat ≤ spmBytes s.ident.code → (s.core id).spm.poison = [] →
      exec (.debugRead src 0 (id.setWidth 32) a n) s = .next ((({ s with fresh := s.fresh + n.toNat } : State).setCore id (s.core id)).complete src 0 0
        (memReadN (s.core id).spm.mem a.toNat n.toNat))) ∧
    (Rules.running s src (reqDebugRead 0 (id.setWidth 32) a n) → spmBytes s.ident.code < a.toNat + n.toNat → exec (.debugRead src 0 (id.setWidth 32) a n) s = .next (s.complete src 3 8 [])) ∧
    (∀ k : Fin 32, Rules.running s src (reqDebugRead 6 (id.setWidth 32) (BitVec.ofNat 32 k.val) 4) → exec (.debugRead src 6 (id.setWidth 32) (BitVec.ofNat 32 k.val) 4) s =
      .next ((({ s with fresh := s.fresh + 4 } : State).setCore id (s.core id)).complete src 0 0 (leBytes 4 ((s.core id).events.ev[k]).toNat))) ∧
    (∀ (t : Fin 4) (k : Fin 8), Rules.running s src (reqDebugRead 2 (id.setWidth 32) (BitVec.ofNat 32 (256 * t.val + k.val)) 4) →
      exec (.debugRead src 2 (id.setWidth 32) (BitVec.ofNat 32 (256 * t.val + k.val)) 4) s =
      .next ((({ s with fresh := s.fresh + 4 } : State).setCore id (s.core id)).complete src 0 0
        (leBytes 4 (((s.core id).th t).r.a[k]).toNat)))) ∧
  (∀ (src : Source) (b a n : Word) (s : State), Rules.running s src (reqDebugRead 7 b a n) → blockAssigned b.toNat = true → a.toNat % 4 = 0 → n.toNat % 4 = 0 →
    1 ≤ n.toNat → n.toNat ≤ 4096 →
    exec (.debugRead src 7 b a n) s = .next (s.complete src 0 0 (wordBytes (s.blockWords false b.toNat a.toNat (n.toNat / 4))))) ∧
  (∀ (src : Source) (id : CoreId) (a : Word) (x : List Byte) (s : State), Rules.running s src (reqDebugWrite 0 (id.setWidth 32) a x) → Rules.mayDebug s src id → x ≠ [] →
    x.length ≤ 4016 → a.toNat + x.length ≤ spmBytes s.ident.code →
    ∃ s', exec (.debugWrite src 0 (id.setWidth 32) a x) s = .next s' ∧ Rules.done s' src 0 0 [] ∧ s'.hbm = s.hbm ∧
      ((∀ t : Fin 4, ((s.core id).th t).haltAsked = 0) → memReadN (s'.core id).spm.mem a.toNat x.length = x)) ∧
  (∀ (src : Source) (id : CoreId) (t : Fin 4) (k : Fin 8) (v : Word) (s : State),
    Rules.running s src (reqDebugWrite 2 (id.setWidth 32) (BitVec.ofNat 32 (256 * t.val + k.val)) (leBytes 4 v.toNat)) → Rules.mayDebug s src id →
    ((s.core id).idle = false →
      exec (.debugWrite src 2 (id.setWidth 32) (BitVec.ofNat 32 (256 * t.val + k.val)) (leBytes 4 v.toNat)) s = .next (s.complete src 7 2 [])) ∧
    ((s.core id).idle = true →
      ∃ s', exec (.debugWrite src 2 (id.setWidth 32) (BitVec.ofNat 32 (256 * t.val + k.val)) (leBytes 4 v.toNat)) s =
          .next s' ∧ Rules.done s' src 0 0 [] ∧ s'.hbm = s.hbm ∧
        ((s'.core id).th t).r.a[k] = v)) ∧
  (∀ (src : Source) (id : CoreId) (n : Fin 8) (v : DWord) (s : State), Rules.mayDebug s src id →
    (Rules.running s src (reqDebugWrite 5 (id.setWidth 32) (BitVec.ofNat 32 n.val) (leBytes 8 v.toNat)) → (s.core id).runners[n].words.length < 4 →
      exec (.debugWrite src 5 (id.setWidth 32) (BitVec.ofNat 32 n.val) (leBytes 8 v.toNat)) s = .next
        ((s.onCore id (fun _ c => c.setRunner n { c.runners[n] with words := c.runners[n].words ++ [v] })).complete src 0 0 [])) ∧
    (Rules.running s src (reqDebugWrite 5 (id.setWidth 32) (BitVec.ofNat 32 n.val) []) →
      exec (.debugWrite src 5 (id.setWidth 32) (BitVec.ofNat 32 n.val) []) s = .next
        ((s.onCore id (fun _ c => c.setRunner n { c.runners[n] with words := [] })).complete src 0 0 [])) ∧
    (Rules.running s src (reqDebugWrite 5 (id.setWidth 32) (BitVec.ofNat 32 n.val) (leBytes 8 v.toNat)) → (s.core id).runners[n].words.length = 4 →
      exec (.debugWrite src 5 (id.setWidth 32) (BitVec.ofNat 32 n.val) (leBytes 8 v.toNat)) s = .next (s.complete src 3 0xC [])))

/-! ### Commands of the management processor: firmware and life cycle -/

namespace Sys2Proof.Rules

/-- The block with other images. -/
def withImages (s : State) (i : Images) : State := { s with sec := { s.sec with images := i } }

/-- An action on the images may be taken: the module has left BLANK and is not DECOMMISSIONED, and no PLDM update is under way. -/
abbrev mayUpdate (s : State) : Prop := s.sec.fuses.state ≠ 0 ∧ s.sec.fuses.state ≠ 4 ∧ s.sec.upd = .idle

/-- The block with the fuses `f`. -/
def withFuses (s : State) (f : Fuses) : State := { s with sec := { s.sec with fuses := f } }

/-- The block without an outstanding challenge. -/
def unchallenged (s : State) : State := { s with sec := { s.sec with challenge := none } }

/-- A command that fettles the module first waits for it, with what then follows. -/
def afterFettle (s : State) (src : Source) (a : FettleAct) : State :=
  begun (s.addFettle { scope := .whole, src := some src, act := a }) src

end Sys2Proof.Rules

/-- R480, R481, R488, R489, Table 16-5: FW_UPDATE. An image is staged whole or by contiguous chunks, and the slots that do not run are emptied; VERIFY takes an image only
that R481 verifies; ACTIVATE puts a verified image into those slots, marked for the next boot, with no job loaded only, and with NOW the module resets 100 ms later; COMMIT
blows the security version that both processors run. A PLDM update in progress denies every action but QUERY, and so do BLANK and DECOMMISSIONED.
Where the spec leaves a point of this open, the model's choice is in log entries 13, 90. -/
def Obligations.FirmwareIsStagedVerifiedAndActivated : Prop :=
  (∀ (src : Source) (s : State), Rules.running s src (reqAction 0x81 0 []) →
    ∃ rsp, exec (.fwQuery src) s = .next (s.complete src 0 0 rsp) ∧ rsp.length = 0x18 ∧
      word64At rsp 8 = s.sec.fuses.svn % 2 ^ 64 ∧
      (s.sec.images.staged = [] → s.sec.images.slots = Vector.replicate 2 (Vector.replicate 2 none) → word32At rsp 0 = 0)) ∧
  (∀ (src : Source) (x : List Byte) (s : State), Rules.running s src (reqFwStage x) → Rules.mayUpdate s →
    (x ≠ [] ∧ x.length ≤ 25169920 →
      exec (.fwStage src x) s = .next ((Rules.withImages s
        { s.sec.images.setSpare none with staged := x, verified := false }).complete src 0 0 [])) ∧
    (x = [] ∨ 25169920 < x.length → exec (.fwStage src x) s = .next (s.complete src 3 0x10 []))) ∧
  (∀ (src : Source) (x : List Byte) (s : State), Rules.mayUpdate s → x ≠ [] → x.length ≤ 4000 →
    (Rules.running s src (reqFwChunk 0 x) → exec (.fwChunk src 0 x) s = .next ((Rules.withImages s
      { s.sec.images.setSpare none with staged := x, verified := false }).complete src 0 0 [])) ∧
    (∀ o : Word, Rules.running s src (reqFwChunk o x) → o ≠ 0 → o.toNat = s.sec.images.staged.length →
      exec (.fwChunk src o x) s = .next ((Rules.withImages s
        { s.sec.images.setSpare none with staged := s.sec.images.staged ++ x, verified := false }).complete src 0 0 [])) ∧
    (∀ o : Word, Rules.running s src (reqFwChunk o x) → o ≠ 0 → o.toNat ≠ s.sec.images.staged.length → exec (.fwChunk src o x) s = .next (s.complete src 3 8 []))) ∧
  (∀ (src : Source) (s : State), Rules.running s src (reqAction 0x81 3 []) → Rules.mayUpdate s →
    (s.sec.fuses.verifies s.sec.images.staged = true →
      exec (.fwVerify src) s = .next ((Rules.withImages s { s.sec.images with verified := true }).complete src 0 0
        (leBytes 8 (word64At s.sec.images.staged 0x10) ++ leBytes 4 (word32At s.sec.images.staged 8)))) ∧
    (s.sec.fuses.verifies s.sec.images.staged = false → exec (.fwVerify src) s = .next (s.complete src 4 15 []))) ∧
  (∀ (src : Source) (s : State), Rules.mayUpdate s →
    (∀ now, Rules.running s src (reqFwActivate now) → s.anyJob = true → exec (.fwActivate src now) s = .next (s.complete src 4 14 [])) ∧
    (∀ now, Rules.running s src (reqFwActivate now) → s.anyJob = false ∧ s.sec.images.verified = false →
      exec (.fwActivate src now) s = .next (s.complete src 4 15 [])) ∧
    (s.anyJob = false ∧ s.sec.images.verified = true →
      (Rules.running s src (reqFwActivate false) →
        exec (.fwActivate src false) s = .next ((Rules.withImages s s.sec.images.activate).complete src 0 0 [])) ∧
      (Rules.running s src (reqFwActivate true) → ∃ s', exec (.fwActivate src true) s = .next s' ∧ Rules.done s' src 0 0 [] ∧ s'.sec.images = s.sec.images.activate ∧
        s'.mp.resetAt = some (s.now + 100000000)))) ∧
  (∀ (i : Images) (mp : Fin 2), (i.activate.slots[mp])[i.spareSlot mp] = some i.staged ∧ i.activate.next[mp] = some (i.spareSlot mp) ∧
    i.activate.staged = [] ∧ ∀ k, i.running[mp] = some k → (i.activate.slots[mp])[k] = (i.slots[mp])[k]) ∧
  (∀ (src : Source) (s : State), Rules.running s src (reqAction 0x81 5 []) → Rules.mayUpdate s →
    exec (.fwAbort src) s = .next ((Rules.withImages s { s.sec.images with staged := [], verified := false }).complete src 0 0 [])) ∧
  (∀ (src : Source) (x : List Byte) (s : State), Rules.running s src (reqAction 0x81 6 []) → Rules.mayUpdate s →
    s.sec.images.runs 0 = some x → s.sec.images.runs 1 = some x → s.mp.heldA = false → s.mp.heldB = false →
    (s.sec.fuses.svn < word32At x 8 →
      exec (.fwCommit src) s = .next (({ s with sec := { s.sec with fuses := { s.sec.fuses with
        svn := word32At x 8, revoked := s.sec.fuses.revoked ||| BitVec.ofNat 4 (word32At x 0x1C) } } } : State).complete src 0 0
          (leBytes 8 (word32At x 8)))) ∧
    (word32At x 8 ≤ s.sec.fuses.svn → exec (.fwCommit src) s = .next (s.complete src 4 15 []))) ∧
  (∀ (src : Source) (r : Nat) (s : State), (s.sec.fuses.state = 0 ∨ s.sec.fuses.state = 4) ∧ r = 0 ∨
      s.sec.fuses.state ≠ 0 ∧ s.sec.fuses.state ≠ 4 ∧ s.sec.upd ≠ .idle ∧ r = 13 →
    (Rules.running s src (reqAction 0x81 3 []) → exec (.fwVerify src) s = .next (s.complete src 4 r [])) ∧
    (Rules.running s src (reqAction 0x81 5 []) → exec (.fwAbort src) s = .next (s.complete src 4 r [])) ∧
    (Rules.running s src (reqAction 0x81 6 []) → exec (.fwCommit src) s = .next (s.complete src 4 r [])) ∧
    (∀ x, Rules.running s src (reqFwStage x) → exec (.fwStage src x) s = .next (s.complete src 4 r [])))

/-- R490 to R496, Tables 16-6 and 16-7: LIFECYCLE. A module in MANUFACTURED is deployed to an owner key, after a fettle; a challenge is issued for a purpose that the state permits and serves one
RESPOND within 60 s, however that ends: authorisations that verify take the module, after its fettle, to RMA, DECOMMISSIONED or an unlock level, and others are denied, counted and recorded. RELOCK
fettles and returns the level to 0. Fuses are blown in the order the rule gives: a reset in between leaves the owner digest before the state, and the
decommission flag before the loss of the device secret.
Where the spec leaves a point of this open, the model's choice is in log entries 13, 91, 92. -/
def Obligations.LifeCycleMovesByAuthority : Prop :=
  (∀ (src : Source) (s : State), Rules.running s src (reqAction 0x80 0 []) →
    ∃ rsp, exec (.lifecycleQuery src) s = .next (s.complete src 0 0 rsp) ∧ rsp.length = 60 ∧ word32At rsp 4 = s.sec.level.toNat ∧
      word32At rsp 0x38 = s.sec.failed.toNat ∧
      word32At rsp 0 = (if s.sec.fuses.decom ≠ 0 then 4 else s.sec.fuses.lc % 2 ^ 32)) ∧
  (∀ (src : Source) (key : BitVec 768) (s : State), Rules.running s src (reqDeploy key) →
    (s.sec.fuses.lc ≠ 1 ∨ s.sec.fuses.decom ≠ 0 → exec (.deploy src key) s = .next (s.complete src 4 16 [])) ∧
    (s.sec.fuses.lc = 1 ∧ s.sec.fuses.decom = 0 →
      (s.anyJob = true → exec (.deploy src key) s = .next (s.complete src 4 14 [])) ∧
      (s.anyJob = false → (s.sec.fuses.owner = none ∨ s.sec.fuses.owner = some (Config.sha384 (leBytes 96 key.toNat))) →
        exec (.deploy src key) s = .next (Rules.afterFettle s src (.deploy (Config.sha384 (leBytes 96 key.toNat))))))) ∧
  (∀ (src : Source) (purpose : Word) (s : State), Rules.running s src (reqChallenge purpose) →
    (purpose = 0 ∨ 4 < purpose.toNat → exec (.lifecycleChallenge src purpose) s = .next (s.complete src 3 4 [])) ∧
    (1 ≤ purpose.toNat ∧ purpose.toNat ≤ 4 →
      (purposeKeys s.sec.fuses.state purpose = none → exec (.lifecycleChallenge src purpose) s = .next (s.complete src 4 16 [])) ∧
      (purposeKeys s.sec.fuses.state purpose ≠ none →
        (3 ≤ s.sec.failed.toNat → exec (.lifecycleChallenge src purpose) s = .next (s.complete src 4 18 [])) ∧
        (s.sec.failed.toNat < 3 →
          ∃ b, exec (.lifecycleChallenge src purpose) s = .next (({ s with
              sec := { s.sec with challenge := some { purpose := purpose, block := b, issued := s.now } }, fresh := s.fresh + 1 } : State).complete src 0 0 b) ∧
            b.length = 64 ∧ leNat ((b.drop 32).take 16) = s.ident.serial.toNat ∧ word32At b 48 = purpose.toNat)))) ∧
  (∀ (src : Source) (purpose : Word) (auths : List Authorisation) (need : Bool × Bool) (c : Challenge) (s : State),
    Rules.running s src (reqRespond purpose auths) → 1 ≤ purpose.toNat → purpose.toNat ≤ 4 → (auths.length = 1 ∨ auths.length = 2) →
    purposeKeys s.sec.fuses.state purpose = some need → s.sec.challenge = some c →
    (c.purpose = purpose ∧ s.now ≤ c.issued + 60000000000 ∧ matchKeys need auths = true ∧
        (∀ a ∈ auths, s.sec.fuses.accepts c.block a = true) ∧ s.anyJob = false →
      exec (.respond src purpose auths) s = .next (Rules.afterFettle (Rules.unchallenged s) src
        (match purpose.toNat with | 1 => .rma | 2 => .decommission | 3 => .level 1 | _ => .level 2))) ∧
    (c.purpose ≠ purpose ∨ c.issued + 60000000000 < s.now ∨ matchKeys need auths = false ∨ (∃ a ∈ auths, s.sec.fuses.accepts c.block a = false) →
      ∃ s', exec (.respond src purpose auths) s = .next s' ∧ Rules.done s' src 4 17 [] ∧ s'.sec.challenge = none ∧
        s'.sec.failed = s.sec.failed + 1 ∧ s'.sec.fuses = s.sec.fuses ∧ s'.sec.level = s.sec.level ∧ s'.mp.fettles = s.mp.fettles)) ∧
  (∀ (src : Source) (purpose : Word) (auths : List Authorisation) (s : State), Rules.running s src (reqRespond purpose auths) →
    (purpose = 0 ∨ 4 < purpose.toNat →
      exec (.respond src purpose auths) s = .next ((Rules.unchallenged s).complete src 3 4 [])) ∧
    (1 ≤ purpose.toNat ∧ purpose.toNat ≤ 4 ∧ auths.length ≠ 1 ∧ auths.length ≠ 2 →
      exec (.respond src purpose auths) s = .next ((Rules.unchallenged s).complete src 3 8 [])) ∧
    (1 ≤ purpose.toNat ∧ purpose.toNat ≤ 4 ∧ (auths.length = 1 ∨ auths.length = 2) ∧ purposeKeys s.sec.fuses.state purpose = none →
      exec (.respond src purpose auths) s = .next ((Rules.unchallenged s).complete src 4 16 []))) ∧
  (∀ (c : Challenge) (s : State), s.sec.challenge = some c →
    exec .challengeExpiry s = .next { Rules.upTo s (c.issued + 60000000000) with sec := { s.sec with challenge := none } }) ∧
  (∀ (src : Source) (s : State), Rules.running s src (reqAction 0x80 4 []) →
    (s.anyJob = true → exec (.relock src) s = .next (s.complete src 4 14 [])) ∧
    (s.anyJob = false → exec (.relock src) s = .next (Rules.afterFettle s src (.level 0)))) ∧
  (∀ (src : Source) (n : BitVec 2) (failed : List CorePos) (fs : List FettleRun) (s : State), (s.box src).st = .running →
    s.mp.fettles = { scope := .whole, src := some src, act := .level n } :: fs →
    ∃ s', exec (.fettleDone failed) s = .next s' ∧ Rules.done s' src 0 0 [] ∧ s'.sec.level = n ∧ s'.sec.fuses = s.sec.fuses) ∧
  (∀ (src : Source) (d : BitVec 384) (failed : List CorePos) (fs : List FettleRun) (s : State), (s.box src).st = .running →
    s.mp.fettles = { scope := .whole, src := some src, act := .deploy d } :: fs →
    ∃ s', exec (.fettleDone failed) s = .next s' ∧ Rules.done s' src 0 0 (leBytes 48 d.toNat) ∧
      s'.sec.fuses = { s.sec.fuses with owner := some d, lc := 2 } ∧ s'.mp.resetAt = some (s.now + 100000000)) ∧
  (∀ (t : Nat) (s : State), s.mp.resetAt = some t →
    ∃ s', exec .delayedReset s = .next s' ∧ s'.board.stage = .a ∧ s'.mp.ready = false ∧ s'.mp.resetAt = none ∧ s'.cores = [] ∧
      (s.sec.fuses.decom = 0 → s'.sec.fuses = s.sec.fuses) ∧
      (s.sec.fuses.decom ≠ 0 → s'.sec.fuses = { s.sec.fuses with decom := 0xF, secret := BitVec.allOnes 256 }) ∧
      (∀ mp : Fin 2, s'.sec.rom[mp] = { halted := false, locked := true, identity := some (Config.hkdf s'.sec.fuses.secret identityLabel), alias_ := none })) ∧
  (∀ (w n : Nat) (src : Option Source) (fs : List FettleRun) (s : State), 2000 ≤ w →
    (∀ d : BitVec 384, s.mp.fettles = { scope := .whole, src := src, act := .deploy d } :: fs →
      ∃ s', exec (.moduleReset w { fuses := n }) s = .next s' ∧ s'.sec.fuses =
        (if n = 0 then s.sec.fuses else if n = 1 then { s.sec.fuses with owner := some d } else { s.sec.fuses with owner := some d, lc := 2 })) ∧
    (s.mp.fettles = { scope := .whole, src := src, act := .decommission } :: fs →
      ∃ s', exec (.moduleReset w { fuses := n }) s = .next s' ∧ s'.sec.fuses.lc = s.sec.fuses.lc ∧
        (n = 0 → s'.sec.fuses = s.sec.fuses) ∧ (1 ≤ n → s'.sec.fuses.decom ≠ 0) ∧ (n ≤ 4 → s'.sec.fuses.secret = s.sec.fuses.secret) ∧
        (5 ≤ n → s'.sec.fuses.secret = BitVec.allOnes 256)))

/-! ### SPDM and PLDM -/

namespace Sys2Proof.Rules

/-- An SPDM request reaches the responder on a transport and is answered: the module is in a state with an identity. -/
abbrev attests (s : State) (tr : Fin 3) : Prop :=
  s.firmwareUp = true ∧ (∀ hi : Fin 2, tr.val = hi.val + 1 → s.board.hiUp[hi] = true) ∧ s.sec.fuses.decom = 0 ∧
    s.sec.fuses.lc ≠ 0 ∧ s.sec.fuses.lc ≠ 4

/-- A PLDM command is answered: a processor runs, and the module is not DECOMMISSIONED. -/
abbrev hears (s : State) : Prop := s.board.stage ≠ .held ∧ s.mpHeld s.activeMp = false ∧ s.sec.fuses.state ≠ 4

/-- The connection of a transport in the state `st`, with its response. -/
def spdm (s : State) (tr : Fin 3) (st : SpdmState) (out : List Byte) : State :=
  { s with sec := { s.sec with spdm := s.sec.spdm.set tr st, spdmOut := s.sec.spdmOut.set tr out } }

/-- The block with the security state `x` and the PLDM response `out`. -/
def pldm (s : State) (x : Security) (out : List Byte) : State := { s with sec := { x with pldmOut := out } }

end Sys2Proof.Rules

/-- R485 to R487, Table 16-4: a connection goes from GET_VERSION over GET_CAPABILITIES to NEGOTIATE_ALGORITHMS, of P-384 and SHA-384 only; then digests, the chain of
slot 0, a signed challenge and measurements are answered, a long response in chunks where the requester asks for them; DOE discovery names the
object types. A request out of order, another slot, a measurement that is not listed and a
decommissioned module are answered with an error.
Where the spec leaves a point of this open, the model's choice is in log entries 13, 96, 97. -/
def Obligations.SpdmAttestsTheModule : Prop :=
  (∀ (tr : Fin 3) (s : State), Rules.attests s tr →
    exec (.getVersion tr) s = .next (Rules.spdm s tr .version [0x04, 0x12, 0x13]) ∧
    (s.sec.spdm[tr] = .version → ∃ out, exec (.getCapabilities tr) s = .next (Rules.spdm s tr .capabilities out)) ∧
    (s.sec.spdm[tr] = .capabilities →
      (∃ out, exec (.negotiateAlgorithms tr true true) s = .next (Rules.spdm s tr .negotiated out)) ∧
      (∃ out, exec (.negotiateAlgorithms tr false true) s = .next (Rules.spdm s tr .capabilities out)) ∧
      (∃ out, exec (.negotiateAlgorithms tr true false) s = .next (Rules.spdm s tr .capabilities out)))) ∧
  (∀ (tr : Fin 3) (s : State), Rules.attests s tr → s.sec.spdm[tr] = .negotiated →
    exec (.getDigests tr) s = .next (Rules.spdm s tr .negotiated ([0x01, 0x01] ++ leBytes 48 (Config.sha384 s.chain).toNat)) ∧
    (∀ o n : BitVec 16, o.toNat < s.chain.length →
      ∃ rest, exec (.getCertificate tr 0 o n) s = .next (Rules.spdm s tr .negotiated
        ([0x02, 0x00] ++ rest ++ (s.chain.drop o.toNat).take n.toNat)) ∧ rest.length = 4) ∧
    (∀ (slot : BitVec 8) (o n : BitVec 16), slot ≠ 0 → exec (.getCertificate tr slot o n) s = .next (Rules.spdm s tr .negotiated spdmInvalid)) ∧
    (∀ nonce : BitVec 256,
      ∃ head, exec (.spdmChallenge tr 0 nonce) s = .next (Rules.spdm { s with fresh := s.fresh + 1 } tr .negotiated
        (head ++ leBytes 96 (Config.ecdsaSign ((s.sec.rom[s.activeMp]).alias_.elim 0 BitVec.toNat) (leBytes 32 nonce.toNat ++ head)).toNat))) ∧
    (∀ nonce : BitVec 256, exec (.getMeasurements tr 0 false nonce) s = .next (Rules.spdm s tr .negotiated [0x60, 14])) ∧
    (∀ (nonce : BitVec 256) (i : BitVec 8) (d : BitVec 384), i ≠ 0 → i ≠ 0xFF → s.measurement i.toNat = some d →
      exec (.getMeasurements tr i false nonce) s = .next (Rules.spdm s tr .negotiated
        ([0x60, 1, i, 1] ++ leBytes 2 51 ++ [measurementType i.toNat] ++ leBytes 2 48 ++ leBytes 48 d.toNat))) ∧
    (∀ (nonce : BitVec 256) (i : BitVec 8) (sign : Bool), i ≠ 0 → i ≠ 0xFF → s.measurement i.toNat = none →
      exec (.getMeasurements tr i sign nonce) s = .next (Rules.spdm s tr .negotiated spdmInvalid)) ∧
    (∀ (slot : BitVec 8) (o n : BitVec 16) (k m : Nat) (t : State),
      (k = 0 ∧ exec (.getCertificate tr slot o n) s = .next t →
        exec (.getCertificate tr slot o n (some (0, m))) s = .next (Rules.spdm { t with
          sec := { t.sec with spdmLarge := s.sec.spdmLarge.set tr t.sec.spdmOut[tr] } } tr .negotiated ((t.sec.spdmOut[tr]).take m))) ∧
      (k ≠ 0 → exec (.getCertificate tr slot o n (some (k, m))) s =
        .next (Rules.spdm s tr .negotiated ((s.sec.spdmLarge[tr].drop (k * m)).take m))))) ∧
  (∀ s : State, s.chain = Config.rootCert ++ Config.authorityCert ++ s.sec.idCert[s.activeMp] ++
    Config.aliasCert ((s.sec.rom[s.activeMp]).identity.elim 0 BitVec.toNat) ((s.sec.rom[s.activeMp]).alias_.elim 0 BitVec.toNat)) ∧
  (∀ (hi : Fin 2) (tr : Fin 3) (s : State), tr.val = hi.val + 1 → s.firmwareUp = true → s.board.hiUp[hi] = true →
    exec (.getVersion tr (some 0)) s = .next (Rules.spdm s tr s.sec.spdm[tr] [1, 0, 0, 1]) ∧
    exec (.getVersion tr (some 1)) s = .next (Rules.spdm s tr s.sec.spdm[tr] [1, 0, 1, 0])) ∧
  (∀ (tr : Fin 3) (nonce : BitVec 256) (s : State), Rules.attests s tr → s.sec.spdm[tr] ≠ .negotiated →
    exec (.getDigests tr) s = .next (Rules.spdm s tr s.sec.spdm[tr] spdmUnexpected) ∧
    exec (.spdmChallenge tr 0 nonce) s = .next (Rules.spdm s tr s.sec.spdm[tr] spdmUnexpected)) ∧
  (∀ (tr : Fin 3) (s : State), s.firmwareUp = true → (∀ hi : Fin 2, tr.val = hi.val + 1 → s.board.hiUp[hi] = true) → s.sec.fuses.decom ≠ 0 →
    exec (.getVersion tr) s = .next (Rules.spdm s tr s.sec.spdm[tr] spdmUnspecified)) ∧
  (∀ s : State, s.measurement 1 = some Config.romDigest ∧ s.measurement 7 = none ∧
    ∀ j : Fin 8, s.measurement (16 + j.val) = some (s.job j).digest)

/-- R489: a PLDM update goes from RequestUpdate over the component table and the image in order to verification and staging, and its activation marks the image for the next boot; an image
that does not verify is dropped. A command out of its state is answered with an error and changes no image; CancelUpdate ends the update. A DECOMMISSIONED module answers none (R490).
R519, R520, R538, Table 17-9: the platform records number the sensors; a reading answers a sensor's state and value, or that it is disabled; other numbers are answered with an error. An event is taken
from the queue in order, and BMC_ALERT_N is released with the last.
Where the spec leaves a point of this open, the model's choice is in log entries 96, 98, 99. -/
def Obligations.PldmUpdatesAndMonitors : Prop :=
  (∀ s : State, Rules.hears s →
    (∃ out, exec .queryDeviceIdentifiers s = .next (Rules.pldm s s.sec (0 :: (leBytes 2 Config.pciVendor.toNat ++ out)))) ∧
    (exec .getFirmwareParameters s = .next (Rules.pldm s s.sec (0 :: (leBytes 8 ((s.sec.images.runs s.activeMp).elim 0 imgVersion) ++
      leBytes 8 (((s.sec.images.next[s.activeMp]).bind (fun k => (s.sec.images.slots[s.activeMp])[k])).elim 0 imgVersion))))) ∧
    (∃ code, exec .getStatus s = .next (Rules.pldm s s.sec [0, code, BitVec.ofNat 8 (b2n s.sec.lostEvents)]))) ∧
  (∀ (n : Word) (s : State), Rules.hears s →
    (s.sec.upd = .idle → (∀ x, (s.box x).st ≠ .running) → s.sec.fuses.decom = 0 → (s.sec.fuses.lc = 1 ∨ s.sec.fuses.lc = 2 ∨ s.sec.fuses.lc = 3) →
      exec (.requestUpdate n) s = .next (Rules.pldm s { s.sec with upd := .learn, updSize := 0, updData := [] } [0])) ∧
    (s.sec.upd ≠ .idle → exec (.requestUpdate n) s = .next (Rules.pldm s s.sec [0x81])) ∧
    (s.sec.upd ≠ .idle → exec .cancelUpdate s = .next (Rules.pldm s { s.sec with
      upd := .idle, updSize := 0, updData := [], images := { s.sec.images with staged := [], verified := false } } [0])) ∧
    (s.sec.upd = .idle → exec .cancelUpdate s = .next (Rules.pldm s s.sec [0x80]))) ∧
  (∀ s : State, Rules.hears s → s.sec.upd = .learn →
    exec (.passComponentTable 0) s = .next (Rules.pldm s { s.sec with upd := .ready } [0, 0]) ∧
    exec .activateFirmware s = .next (Rules.pldm s s.sec [0x84])) ∧
  (∀ (n : Word) (s : State), Rules.hears s → s.sec.upd = .ready → n ≠ 0 → n.toNat ≤ 25169920 →
    exec (.updateComponent 0 n) s = .next (Rules.pldm s { s.sec with upd := .download, updSize := n.toNat, updData := [] } [0, 0])) ∧
  (∀ (o : Word) (x : List Byte) (s : State), s.sec.upd = .download → x.length ≤ 1024 → s.sec.updData.length + x.length ≤ s.sec.updSize →
    (o.toNat = s.sec.updData.length →
      exec (.requestFirmwareData o x) s = .next { s with sec := { s.sec with updData := s.sec.updData ++ x } }) ∧
    (o.toNat ≠ s.sec.updData.length → exec (.requestFirmwareData o x) s = .next s)) ∧
  (∀ s : State, s.sec.upd = .download → s.sec.updData.length = s.sec.updSize →
    exec .transferComplete s = .next { s with sec := { s.sec with upd := .verify } }) ∧
  (∀ s : State, s.sec.upd = .verify →
    (s.sec.fuses.verifies s.sec.updData = true → exec .verifyComplete s = .next { s with sec := { s.sec with upd := .apply } }) ∧
    (s.sec.fuses.verifies s.sec.updData = false →
      exec .verifyComplete s = .next { s with sec := { s.sec with upd := .ready, updData := [] } })) ∧
  (∀ s : State, s.sec.upd = .apply → s.firmwareUp = true →
    exec .applyComplete s = .next { s with sec := { s.sec with
      upd := .ready, updData := [], images := { s.sec.images.setSpare none with staged := s.sec.updData, verified := true } } }) ∧
  (∀ s : State, Rules.hears s → s.sec.upd = .ready → s.sec.images.verified = true → s.anyJob = false →
    exec .activateFirmware s = .next (Rules.pldm s { s.sec with upd := .idle, images := s.sec.images.activate } [0, 1])) ∧
  (∀ s : State, s.sec.fuses.state = 4 → exec .getStatus s = .next s ∧ exec .cancelUpdate s = .next s ∧ exec (.getSensorReading 3) s = .next s ∧
    exec .pollForPlatformEventMessage s = .next s) ∧
  (∀ s : State, s.firmwareUp = true → Rules.hears s →
    exec .getPdrRepositoryInfo s = .next (Rules.pldm s s.sec (0 :: leBytes 4 63)) ∧
    (∃ out, exec (.getPdr 1) s = .next (Rules.pldm s s.sec (0 :: (leBytes 4 2 ++ leBytes 2 1 ++ out)))) ∧
    (∃ out, exec (.getPdr 63) s = .next (Rules.pldm s s.sec (0 :: (leBytes 4 0 ++ leBytes 2 0x82 ++ out)))) ∧
    (∀ k : Word, 63 < k.toNat → exec (.getPdr k) s = .next (Rules.pldm s s.sec [0x82])) ∧
    (exec (.getSensorReading 3) s = .next (Rules.pldm s s.sec
      (if nhas s.sec.disabled 3 then [0, 1] else [0, 0, 0] ++ leBytes 4 s.power.sample.toNat))) ∧
    (∀ d : Fin 40, nhas s.sec.disabled (0x10 + d.val) = false → exec (.getSensorReading (BitVec.ofNat 16 (0x10 + d.val))) s =
      .next (Rules.pldm s s.sec ([0, 0, if 105 ≤ (s.power.dies[d]).tj.toNat then 2 else if 100 ≤ (s.power.dies[d]).tj.toNat then 1 else 0] ++
        leBytes 4 (s.power.dies[d]).tj.toNat))) ∧
    (exec (.getSensorReading 0x80) s = .next (Rules.pldm s s.sec [0x80])) ∧
    (exec (.getStateSensorReadings 0x82) s = .next (Rules.pldm s s.sec [0, 0, if s.mp.ready then 1 else 0])) ∧
    (exec (.getStateSensorReadings 1) s = .next (Rules.pldm s s.sec [0x80])) ∧
    (exec (.setNumericSensorEnable 3 false) s = .next (Rules.pldm s { s.sec with disabled := nins s.sec.disabled 3 } [0])) ∧
    (exec (.setNumericSensorEnable 3 true) s = .next (Rules.pldm s { s.sec with disabled := ndel s.sec.disabled 3 } [0])) ∧
    (∀ r : Byte, exec (.setEventReceiver r) s = .next (Rules.pldm s { s.sec with receiver := some r } [0]))) ∧
  (∀ s : State, s.firmwareUp = true → Rules.hears s →
    (s.sec.events = [] → exec .pollForPlatformEventMessage s = .next (Rules.pldm s s.sec [0, 0])) ∧
    (∀ x xs, s.sec.events = x :: xs →
      ∃ s' : State, exec .pollForPlatformEventMessage s = .next s' ∧ s'.sec = { s.sec with events := xs, pldmOut := [0, 0xF0] ++ x } ∧
        s'.board.alertN = (s.board.alertN || xs.isEmpty)))


/-! ### Board and test port, resets and bring-up -/

namespace Sys2Proof.Rules

/-- The block with the board `b`. -/
def withBoard (s : State) (b : Board) : State := { s with board := b }

/-- The test port's instruction. -/
def tap (s : State) (i : TapInsn) (driving : Bool) : State := withBoard s { s.board with tap := i, driving := driving }

end Sys2Proof.Rules

/-- R493, R513, R529, R530, R540, R542, R549, Table 17-13: the public instructions of the test port become current; those that drive pins do so only while RESET_N is asserted and act as BYPASS otherwise; a
private one opens with the unlock level only. A low input is recorded; an overvoltage opens the hot-swap switch with the loss of power, and it closes again. Without its reference clock
every enabled port is DOWN. A cable's supply follows its presence and is cut by overcurrent.
Where the spec leaves a point of this open, the model's choice is in log entries 40, 101, 106. -/
def Obligations.TheBoardFollowsItsPins : Prop :=
  (∀ s : State, exec .bypass s = .next (Rules.tap s .bypass false) ∧ exec .idcode s = .next (Rules.tap s .idcode false) ∧
    exec .tapReset s = .next (Rules.tap s .idcode false)) ∧
  (∀ (pins load : List Bool) (s : State), exec (.samplePreload pins load) s = .next (Rules.withBoard s { s.board with
    tap := .sample, driving := false, captured := pins, loaded := load })) ∧
  (∀ s : State, s.board.resetN = false → exec .extest s = .next (Rules.tap s .extest true) ∧
    exec .clamp s = .next (Rules.tap s .clamp true) ∧ exec .highz s = .next (Rules.tap s .highz false)) ∧
  (∀ s : State, s.board.resetN = true → exec .extest s = .next (Rules.tap s .bypass false) ∧
    exec .clamp s = .next (Rules.tap s .bypass false) ∧ exec .highz s = .next (Rules.tap s .bypass false)) ∧
  (∀ (code : Byte) (s : State), 0x80 ≤ code.toNat → code.toNat ≤ 0xFE →
    (s.sec.level = 2 ∧ s.board.resetN = true → exec (.tapPrivate code) s = .next (Rules.tap s (.vendor code) false)) ∧
    (s.sec.level = 0 ∨ s.board.resetN = false → exec (.tapPrivate code) s = .next (Rules.tap s .bypass false))) ∧
  (∀ s : State, s.firmwareUp = true → ∃ s' : State, exec .supplyLow s = .next s' ∧ Rules.counted s s' 1 ∧ s'.mp.jobs = s.mp.jobs) ∧
  (∀ s : State, ∃ s' : State, exec .overvoltageCut s = .next s' ∧ s'.board.cut = true ∧ s'.board.charged = false ∧ s'.board.stage = .held ∧
    s'.hbm = Hbm.reset ∧ s'.cores = [] ∧ s'.mp.ready = false) ∧
  (∀ s : State, exec .hotswapReclose s = .next (Rules.withBoard s { s.board with cut := false })) ∧
  (∀ s : State, ∃ s' : State, exec .refclkLoss s = .next s' ∧ s'.board.refclk = false ∧
    ∀ p : Fin 48, (s.port p).st ≠ .disabled → (s'.port p).st = .down) ∧
  (∀ (k : Fin 8) (s : State),
    (exec (.cablePresenceChange k true) s = .next (Rules.withBoard s { s.board with
      cable := s.board.cable.set k true, cableAt := s.board.cableAt.set k s.now })) ∧
    (exec (.cablePresenceChange k false) s = .next (Rules.withBoard s { s.board with
      cable := s.board.cable.set k false, cableAt := s.board.cableAt.set k s.now
      vcbl := s.board.vcbl.set k false, vcblCut := s.board.vcblCut.set k false })) ∧
    (s.board.charged = true ∧ s.board.cable[k] = true ∧ s.board.vcblCut[k] = false →
      exec (.vcblOn k) s = .next (Rules.withBoard (Rules.upTo s (s.board.cableAt[k] + 10000000))
        { s.board with vcbl := s.board.vcbl.set k true })) ∧
    (s.board.cable[k] = false ∨ s.board.vcblCut[k] = true → exec (.vcblOn k) s = .next s) ∧
    (s.board.vcbl[k] = true → exec (.vcblOvercurrent k) s = .next (Rules.withBoard s { s.board with
      vcbl := s.board.vcbl.set k false, vcblCut := s.board.vcblCut.set k true })))

/-- R509, R510, R512, R537, R543, R547, Table 17-2: a module reset takes every core, job, time base and processor back to reset and keeps the external bytes, the log, the ledgers and the active configuration set; a power-on reset loses the
external bytes and the log as well; an assertion of RESET_N below 2 µs does nothing. The release of RESET_N reads the straps and begins bring-up once the hot-swap switch has charged. A reset of
one host interface takes its link and MSI-X table and no mailbox. A reset that interrupts the write of a configuration set or of a record leaves the one before;
each processor's ROM derives the identity key and locks the device secret, or halts where its test fails.
Where the spec leaves a point of this open, the model's choice is in log entries 10, 102 to 105. -/
def Obligations.ResetsLeaveWhatTheTableKeeps : Prop :=
  (∀ (w : Nat) (s : State), w < 2000 → exec (.moduleReset w) s = .next s) ∧
  (∀ (w : Nat) (s : State), 2000 ≤ w →
    ∃ s' : State, exec (.moduleReset w) s = .next s' ∧ s'.board.stage = .held ∧ s'.board.resetN = false ∧ s'.cores = [] ∧ s'.now = 0 ∧
      (∀ j, s'.job j = Job.blank) ∧ (∀ x, (s'.box x).st = .free) ∧ s'.mp.ready = false ∧ s'.hbm.mem = s.hbm.mem ∧ s'.errs.log = s.errs.log ∧
      s'.errs.next = s.errs.next ∧ s'.board.boot = s.board.boot + 1 ∧ s'.sec.fuses = s.sec.fuses ∧ s'.sec.level = 0 ∧
      s'.sec.images.slots = s.sec.images.slots ∧ s'.mp.repairs = s.mp.repairs ∧ s'.pending = s.pending ∧
      (s.sec.fuses.decom = 0 → s'.active = s.active ∧ s'.shadow = s.active ∧
        s'.power.fixnow = BitVec.ofNat 2 (s.active.clkplan.toNat / 2 ^ 29) ∧ s'.mp.retiredCores = s.mp.retiredCores ∧
        s'.errs.persistent = s.errs.persistent) ∧
      (s.sec.fuses.decom ≠ 0 → s'.active = ConfigSet.default ∧ s'.mp.retiredCores = [] ∧ s'.errs.persistent = [])) ∧
  (∀ s : State, ∃ s' : State, exec .powerOnReset s = .next s' ∧ s'.board.stage = .held ∧ s'.board.charged = false ∧ s'.board.boot = 0 ∧
      s'.hbm = Hbm.reset ∧ s'.cores = [] ∧ s'.errs.log = [] ∧ s'.board.tap = .idcode ∧ s'.sec.fuses = s.sec.fuses ∧
      s'.mp.repairs = s.mp.repairs ∧ (s.sec.fuses.decom = 0 → s'.active = s.active ∧ s'.errs.persistent = s.errs.persistent)) ∧
  (∀ (bmc : Bool) (mid : BitVec 4) (s : State), s.board.resetN = false → s.board.stage = .held →
    ∃ s' : State, exec (.resetRelease bmc mid) s = .next s' ∧ s'.board.resetN = true ∧ s'.board.bmcsel = bmc ∧ s'.board.mid = mid ∧
      s'.board.driving = false ∧ s'.board.releasedAt = s.now ∧ s'.board.stage = (if s.board.charged then .a else .held) ∧
      (s.board.tap = .extest → s'.board.tap = .bypass) ∧
      (s.board.charged = true → ∀ mp : Fin 2, s'.sec.rom[mp] =
        { halted := false, locked := true, identity := some (Config.hkdf s'.sec.fuses.secret identityLabel), alias_ := none })) ∧
  (∀ (bmc : Bool) (mid : BitVec 4) (mp : Fin 2) (s : State), s.board.resetN = false → s.board.stage = .held → s.board.charged = true →
    ∃ s' : State, exec (.resetRelease bmc mid 3) s = .next s' ∧ (s'.sec.rom[mp]).halted = true ∧ s'.mpHeld mp = true) ∧
  (∀ (w : Nat) (c : ConfigSet) (rs : List Record) (r : Record) (s : State), 2000 ≤ w → s.sec.fuses.decom = 0 → s.lastSet = c →
    s.errs.persistent = rs ++ [r] →
    ∃ s' : State, exec (.moduleReset w { config := true, record := true }) s = .next s' ∧ s'.active = c ∧ s'.shadow = c ∧
      s'.errs.persistent = rs ∧ s'.sec.fuses = s.sec.fuses ∧ s'.hbm.mem = s.hbm.mem) ∧
  (∀ s : State, s.board.charged = false → s.board.cut = false →
    ∃ s' : State, exec .hotswapChargeDone s = .next s' ∧ s'.board.charged = true ∧
      s'.board.stage = (if s.board.resetN then .a else s.board.stage) ∧ s'.hbm = s.hbm) ∧
  (∀ (hi : Fin 2) (pin : Bool) (s : State),
    ∃ s' : State, exec (.hostInterfaceReset hi pin) s = .next s' ∧ s'.board.hiUp[hi] = false ∧ s'.boxes = s.boxes ∧ s'.mp = s.mp ∧
      s'.cores = s.cores ∧ s'.host.mbien = 0 ∧ s'.host.msixTable[hi] = [] ∧ (∀ x ∈ s'.host.msix, x.1 ≠ hi) ∧ (pin = true → s'.board.perstN[hi] = false)) ∧
  (∀ (hi : Fin 2) (s : State), s.board.stage ≠ .held →
    exec (.hiTrainingStart hi) s = .next (Rules.withBoard (Rules.upTo s (s.board.releasedAt + 20000000))
      { s.board with
        stage := if s.board.stage = .a then .b else s.board.stage, hiUp := s.board.hiUp.set hi true, perstN := s.board.perstN.set hi true }))

/-- R305, R479, R482 to R484, R510, R511, Table 17-1: each processor verifies its marked slot, or the other when that one fails, and starts it; a trial image that is not READY in 10 s gives way to the other slot. Then the stages follow in order: the
configuration is restored, failed cores are retired and the module fettle begins, its end lets the ports train, and READY is set with its notice, but never in DECOMMISSIONED nor with a lost E-die,
which is recorded (R20, R511).
Where the spec leaves a point of this open, the model's choice is in log entries 103 to 106. -/
def Obligations.BringUpGoesStageByStage : Prop :=
  (∀ (b : Bool) (mp : Fin 2) (s : State), mp = (if b then 1 else 0) → s.board.stage ≠ .held →
    s.mpHeld mp = false → s.sec.images.running[mp] = none →
    ∃ s' : State, exec (.bootImageVerify b) s = .next s' ∧ s'.sec.images.slots = s.sec.images.slots ∧
      (s.board.stage = .a → s'.board.stage = .c ∧ s'.now = max s.now (s.board.releasedAt + 20000000)) ∧
      (s.board.stage = .b → s'.board.stage = .c ∧ s'.now = s.now) ∧
      (s.sec.images.next[mp] = none → ∀ x, (s.sec.images.slots[mp])[(0 : Fin 2)] = some x → s.sec.fuses.verifies x = true →
        s'.sec.images.chosen[mp] = some 0) ∧
      (s.sec.images.slots[mp] = Vector.replicate 2 none → s'.sec.images.chosen[mp] = none)) ∧
  (∀ (b : Bool) (mp k : Fin 2) (s : State), mp = (if b then 1 else 0) → s.board.stage = .c →
    s.mpHeld mp = false → s.sec.images.running[mp] = none → s.sec.images.chosen[mp] = some k →
    ∃ s' : State, exec (.firmwareStart b) s = .next s' ∧
      (∀ x, (s.sec.images.slots[mp])[k] = some x → (s'.sec.rom[mp]).alias_ =
        some (Config.hkdf s.sec.fuses.secret (leBytes 48 (Config.sha384 (x.take 4096)).toNat))) ∧ s'.sec.images.running[mp] = some k ∧ s'.sec.images.startedAt[mp] = some s.now ∧
      s'.board.stage = (if b = s.mp.activeB then .d else .c)) ∧
  (∀ (b : Bool) (mp k : Fin 2) (t : Nat) (s : State), mp = (if b then 1 else 0) → s.sec.images.running[mp] = some k →
    s.sec.images.startedAt[mp] = some t → s.sec.images.trial[mp] = true → s.mp.ready = false →
    s.mpHeld mp = false →
    ∃ s' : State, exec (.fwWatchdog b) s = .next s' ∧ s'.sec.images.running[mp] = none ∧ s'.sec.images.next[mp] = none ∧
      s'.now = max s.now (t + 10000000000)) ∧
  (∀ s : State, s.board.stage = .d → s.firmwareUp = true →
    ∃ s' : State, exec (.configRestore [] []) s = .next s' ∧ s'.board.stage = .e ∧ s'.shadow = s.active ∧ s'.active = s.active) ∧
  (∀ (p : CorePos) (s : State), s.board.stage = .e → s.firmwareUp = true → p.prow.toNat ≤ 16 →
    ∃ s' : State, exec (.selfTest [p]) s = .next s' ∧ s'.board.stage = .f ∧ s'.board.veTested = false ∧
      nhas s'.mp.retiredCores (272 * p.die.val + 16 * p.prow.toNat + p.pcol.toNat) = true ∧
      s'.mp.fettles = s.mp.fettles ++ [{ scope := .whole, src := none }]) ∧
  (∀ (failed : List CorePos) (fs : List FettleRun) (s : State), s.board.stage = .f → s.mp.fettles = { scope := .whole, src := none } :: fs →
    ∃ s' : State, exec (.fettleDone failed) s = .next s' ∧ s'.board.stage = .g ∧ s'.board.veTested = true ∧ s'.mp.fettles = fs) ∧
  (∀ s : State, s.board.stage = .g → s.firmwareUp = true →
    ∃ s' : State, exec .bringupPortTrain s = .next s' ∧ s'.board.stage = .h ∧ s'.mp.wordAt = s.now ∧
      ∀ p : Fin 48, (s.active.ports[p]).en = true → (s'.port p).st = .down) ∧
  (∀ s : State, s.board.stage = .h → s.firmwareUp = true → s.sec.fuses.decom = 0 → s.board.lost = [] → s.mp.heldB = true →
    ∃ s' : State, exec .bringupReady s = .next s' ∧ s'.board.stage = .ready ∧ s'.mp.ready = true ∧
      s'.sec.images.trial = Vector.replicate 2 false) ∧
  (∀ s : State, s.board.stage = .h → s.firmwareUp = true → (s.sec.fuses.decom ≠ 0 ∨ s.board.lost ≠ []) → s.mp.heldB = true →
    exec .bringupReady s = .next s) ∧
  (∀ (e : Fin 8) (s : State), s.board.stage = .d → s.firmwareUp = true →
    ∃ s', exec (.configRestore [] [.edie e]) s = .next s' ∧ s'.board.stage = .e ∧ s'.mp.needRet = true ∧
      s'.board.lost = s.board.lost ++ [.edie e] ∧ ∃ r ∈ s'.errs.log, r.sev = 3 ∧ r.cause = 0x0707 ∧ r.die.toNat = 32 + e.val)

/-! ### The block as a whole -/

namespace Sys2Proof.Rules

/-- The real number that a short code stands for, where it is no NaN: (-1)^s × m × 2^e. -/
def value : Fl → Option ℚ
  | .nan => none
  | .inf _ => none
  | .fin s m e => some ((if s then -1 else 1) * m * (2 : ℚ) ^ e)

end Sys2Proof.Rules

/-- A step takes the command at the front of the queue and answers what its execution answers with the queue's rest. On an empty queue the time
base counts one nanosecond and nothing else changes (the model's choice: log entry 1). -/
def Obligations.AStepTakesTheFrontCommand : Prop :=
  (∀ (c : Instr) (cs : List Instr) (s : State), s.pending = c :: cs → step s = exec c { s with pending := cs }) ∧
  (∀ s : State, s.pending = [] → step s = .next { s with now := s.now + 1 })

/-- R63, R64, R98, R118, R123, R129, R161, R212, R227, R274, R374, R375, R416, R420, R439, Tables 2-11, 3-2 and 11-13: right after reset nothing is commanded; every core is held, with thread 0 RUNNING,
the others INACTIVE and the registers of Table 3-2 zero; scratchpads read zero, gates are closed, tags empty; VLEN is 0x800, RESTR 1, tiles are not in use with code 0xF;
streams start from seed 1; ports are DISABLED with their default limits; clock plan and power cap hold their defaults in both sets; no job is loaded and READY is 0. Every memory is in canonical
form.
Where the spec leaves a point of this open, the model's choice is in log entries 9 to 12. -/
def Obligations.ResetHoldsTheStatedValues : Prop :=
  State.reset.pending = [] ∧ State.reset.now = 0 ∧ State.reset.canonical = true ∧
  (∀ id : CoreId,
    (State.reset.core id).released = false ∧ ((State.reset.core id).th 0).st = .running ∧
    (∀ t : Fin 4, t ≠ 0 → ((State.reset.core id).th t).st = .inactive) ∧
    (∀ t : Fin 4, ((State.reset.core id).th t).r.a = Vector.replicate 8 0 ∧ ((State.reset.core id).th t).r.p = Vector.replicate 4 0 ∧
      ((State.reset.core id).th t).r.lc = Vector.replicate 4 0 ∧ ((State.reset.core id).th t).r.ldepth = 0 ∧
      ((State.reset.core id).th t).r.mh = 0 ∧ ((State.reset.core id).th t).r.rem = 0 ∧ ((State.reset.core id).th t).x.exc = false ∧
      ((State.reset.core id).th t).x.cause = 0 ∧ ((State.reset.core id).th t).x.vec = 0) ∧
    (∀ a, memRead (State.reset.core id).spm.mem a = 0) ∧ (State.reset.core id).spm.tagTimeout = 0x000F4240 ∧
    (∀ g : Fin 16, ((State.reset.core id).spm.gates[g]).opened = false ∧ ((State.reset.core id).spm.gates[g]).gen = 0) ∧
    (∀ k, nhas (State.reset.core id).spm.tags k = false) ∧ (State.reset.core id).ve.vlen = 0x800 ∧ (State.reset.core id).ve.restr = true ∧
    (State.reset.core id).ve.log = 0 ∧ (State.reset.core id).fpflags = 0 ∧
    (∀ n : Fin 8, ((State.reset.core id).me.cfg[n]).inuse = false ∧ ((State.reset.core id).me.cfg[n]).fmt = 0xF) ∧
    (∀ i : Fin 6, ((State.reset.core id).streams[i]).seed = 1 ∧ ((State.reset.core id).streams[i]).stochastic = false) ∧
    (∀ n : Fin 8, ((State.reset.core id).runners[n]).words = []) ∧ (∀ n : Fin 32, (State.reset.core id).events.ev[n] = 0) ∧
    (State.reset.core id).de.icseed = 1) ∧
  (∀ p : Fin 48, (State.reset.port p).st = .disabled ∧ (State.reset.port p).hblim = 0x0A ∧ (State.reset.port p).reqtmo = 0x0186A0 ∧
    (State.reset.port p).mres = 0x200 ∧ (State.reset.port p).lthr = 0x4000) ∧
  (∀ n : Fin 16, (State.reset.redCtx n).en = false ∧ (State.reset.redCtx n).rltmo = 0x002710) ∧
  State.reset.active = State.reset.shadow ∧ State.reset.active.pcap.toNat = 10 * 65536 + 4500 ∧
  bitsAt State.reset.active.clkplan.toNat 0 12 = 2200 ∧ bitsAt State.reset.active.clkplan.toNat 31 1 = 0 ∧
  bitsAt State.reset.active.clkplan.toNat 29 2 = 2 ∧
  (∀ j, (State.reset.job j).st = .none) ∧ State.reset.mp.ready = false ∧ State.reset.mp.activeB = false ∧
  State.reset.power.ageDays = 0xFFFF ∧ (∀ x, (State.reset.box x).st = .free) ∧ State.reset.errs.log = []

/-- A step keeps every memory of the block in canonical form (addresses rising, no entry of the value an unlisted address reads as): external memory, and the scratchpad, vector
registers, tiles and sidecars of every core.
Where the spec leaves a point of this open, the model's choice is in log entry 11. -/
def Obligations.StepsKeepMemoriesCanonical : Prop :=
  ∀ s s' : State, s.canonical = true → step s = .next s' → s'.canonical = true

/-- Every command has an effect: in every state, with any operands, it answers a next state, never a fault or a refusal, and leaves the queue of commands alone (the model's form: a command whose
occasion is not there leaves the state as it was, log entry 3). -/
def Obligations.EveryCommandAnswersANextState : Prop :=
  ∀ (i : Instr) (s : State), ∃ s', exec i s = .next s' ∧ s'.pending = s.pending

/-- R478, R488, R490 to R492: fuses are only ever blown. No command lowers the security version, readmits a revoked key, takes back a bit of the decommission flag or
of the device secret, or changes a root key digest.
Where the spec leaves a point of this open, the model's choice is in log entries 91, 92. -/
def Obligations.FusesAreOnlyBlown : Prop :=
  ∀ (i : Instr) (s s' : State), exec i s = .next s' →
    s.sec.fuses.svn ≤ s'.sec.fuses.svn ∧ s'.sec.fuses.rkd = s.sec.fuses.rkd ∧
    (∀ k, s.sec.fuses.revoked.getLsbD k = true → s'.sec.fuses.revoked.getLsbD k = true) ∧
    (s.sec.fuses.decom ≠ 0 → s'.sec.fuses.decom ≠ 0) ∧ (∀ k, s.sec.fuses.decom.getLsbD k = true → s'.sec.fuses.decom.getLsbD k = true) ∧
    (∀ k, s.sec.fuses.secret.getLsbD k = true → s'.sec.fuses.secret.getLsbD k = true)

/-- Table 3-8, R74, R75, R89: the frame of the integer instructions. One that issues on a core without a debug session leaves everything outside its core alone, and in its core every other
thread, every byte of the scratchpad outside its destination, every address register that is neither its destination nor post-incremented, the loop
bounds, the special registers unless one is its destination, the exception registers, flags, streams, runners, event counters and engines.
Where the spec leaves a point of this open, the model's choice is in log entries 7, 14. -/
def Obligations.IntegerInstructionsChangeNothingElse : Prop :=
  ∀ (i : Instr) (a : Site) (w : SeWord) (f : Form) (s s' : State), Rules.alu i = some (a, w, f) → s.issues a f w = true →
    (s.core a.core).dbg.attached = false → exec i s = .next s' →
    s' = { s with fresh := s.fresh + 1, cores := s'.cores } ∧ (∀ id, id ≠ a.core → s'.core id = s.core id) ∧
    (∀ u, u ≠ a.thread → (s'.core a.core).th u = (s.core a.core).th u) ∧
    (∀ x, (∀ p n, (s.ops a f w).d.dest = .mem p n → x < p ∨ p + n ≤ x) →
      memRead (s'.core a.core).spm.mem x = memRead (s.core a.core).spm.mem x) ∧
    (∀ r, (s.ops a f w).d.dest ≠ .areg r → (∀ p ∈ (s.ops a f w).all, ∀ k, p.2.inc ≠ some (r, k)) →
      ((s'.core a.core).th a.thread).r.a[r] = ((s.core a.core).th a.thread).r.a[r]) ∧
    ((∀ k, (s.ops a f w).d.dest ≠ .special k) →
      ((s'.core a.core).th a.thread).r.mh = ((s.core a.core).th a.thread).r.mh ∧
      ((s'.core a.core).th a.thread).r.ml = ((s.core a.core).th a.thread).r.ml ∧
      ((s'.core a.core).th a.thread).r.qot = ((s.core a.core).th a.thread).r.qot ∧
      ((s'.core a.core).th a.thread).r.rem = ((s.core a.core).th a.thread).r.rem ∧
      ((s'.core a.core).th a.thread).r.p = ((s.core a.core).th a.thread).r.p) ∧
    ((s'.core a.core).th a.thread).r.ls = ((s.core a.core).th a.thread).r.ls ∧
    ((s'.core a.core).th a.thread).r.le = ((s.core a.core).th a.thread).r.le ∧
    ((s'.core a.core).th a.thread).x = ((s.core a.core).th a.thread).x ∧
    ((s'.core a.core).th a.thread).muls = ((s.core a.core).th a.thread).muls ∧
    (s'.core a.core).spm.gates = (s.core a.core).spm.gates ∧ (s'.core a.core).spm.tags = (s.core a.core).spm.tags ∧
    (s'.core a.core).ve = (s.core a.core).ve ∧ (s'.core a.core).me = (s.core a.core).me ∧ (s'.core a.core).de = (s.core a.core).de ∧
    (s'.core a.core).runners = (s.core a.core).runners ∧ (s'.core a.core).events = (s.core a.core).events ∧
    (s'.core a.core).fpflags = (s.core a.core).fpflags ∧ (s'.core a.core).streams = (s.core a.core).streams ∧
    (s'.core a.core).div = (s.core a.core).div ∧ (s'.core a.core).dbg = (s.core a.core).dbg

/-- R26, R27, Table 2-1: a code of a short float format stands for the number of R26; the code with the sign bit alone is its only NaN, the all-zero code its only
zero, and no code stands for an infinity. -/
def Obligations.ShortFormatsHaveOneNaNAndOneZero : Prop :=
  ∀ (t : Ty) (w frac : Nat) (bias : Int) (c : Nat),
    ((t = .h4 ∧ w = 4 ∧ frac = 1 ∧ bias = 1) ∨ (t = .h6 ∧ w = 6 ∧ frac = 2 ∧ bias = 3) ∨ (t = .h8p ∧ w = 8 ∧ frac = 3 ∧ bias = 7) ∨
      (t = .h8r ∧ w = 8 ∧ frac = 2 ∧ bias = 15) ∨ (t = .h16 ∧ w = 16 ∧ frac = 9 ∧ bias = 31)) → c < 2 ^ w →
    (decTy t c = .nan ↔ c = 2 ^ (w - 1)) ∧ (Rules.value (decTy t c) = some 0 ↔ c = 0) ∧ (∀ b, decTy t c ≠ .inf b) ∧
    (c ≠ 2 ^ (w - 1) → Rules.value (decTy t c) = some
      ((-1) ^ (c / 2 ^ (w - 1)) * (if (c / 2 ^ frac) % 2 ^ (w - 1 - frac) = 0
        then (2 : ℚ) ^ (1 - bias) * ((c % 2 ^ frac : Nat) / 2 ^ frac)
        else (2 : ℚ) ^ (((c / 2 ^ frac) % 2 ^ (w - 1 - frac) : Nat) - bias) * (1 + (c % 2 ^ frac : Nat) / 2 ^ frac))))

/-- R57: RMAX is a binary32 magnitude with sign 0. An element that a stream converts takes it to the larger of what it held and the magnitude of
the element's input value, with the input scale applied and the output scale not; a NaN leaves it, and an infinity makes it +∞; it never falls. -/
def Obligations.RunningMaximaFollowTheElements : Prop :=
  ∀ (s : Stream) (src dst : Ty) (c : Nat) (sin sout : Byte), s.rmax.toNat ≤ 0x7F800000 → c < 2 ^ src.width →
    (s.feed src dst c sin sout).1.rmax.toNat ≤ 0x7F800000 ∧ s.rmax.toNat ≤ (s.feed src dst c sin sout).1.rmax.toNat ∧
    ∀ x, x = dec32 (if src = .f32 then c else (toB32 src c sin).1) →
      (x = .nan → (s.feed src dst c sin sout).1.rmax = s.rmax) ∧
      (∀ n, x = .inf n → (s.feed src dst c sin sout).1.rmax = 0x7F800000) ∧
      (∀ n m e, x = .fin n m e →
        (s.rmax = 0x7F800000 → (s.feed src dst c sin sout).1.rmax = 0x7F800000) ∧
        (∀ v, Rules.value (dec32 s.rmax.toNat) = some v →
          Rules.value (dec32 (s.feed src dst c sin sout).1.rmax.toNat) = some (max v (m * (2 : ℚ) ^ e))))

/-- R5: CORE_COUNT reads 0x2000 in grade S and 0x1F00 in grade A; a core's CORE_ID is its die × 256 + its logical index; in grade A the indices 248 to 255 of every die are
never assigned, and every other CORE_ID is. -/
def Obligations.CoreNumbersFollowTheGrade : Prop :=
  ∀ (s : State) (id : CoreId) (t : Fin 4),
    csrValue (s.env id) t 0x001 (s.core id) = (match s.ident.code with | .s3 | .s2 => 0x2000 | .a3 | .a2 => 0x1F00) ∧
    csrValue (s.env id) t 0x000 (s.core id) = id.toNat ∧ id.toNat = (id.toNat / 256) * 256 + id.toNat % 256 ∧ id.toNat / 256 < 32 ∧
    (s.assigned id = true ↔ (match s.ident.code with | .s3 | .s2 => True | .a3 | .a2 => id.toNat % 256 < 248))
end

