-- ==== Sys2Proof/Laws/Core.lean ====
section
/-! SUPPORT. What the shared operations on one core can do: which of them leave alone the part of a core that a step of it
reports to the module, the step of a calm core in one equation, and the issue of an instruction that raises nothing. -/

namespace Sys2Proof.Machine

/-! ### Tables -/

theorem tget_tset_same {α : Type} (t : Table α) (d v : α) (k : Nat) : tget (tset t k v) d k = v := by
  induction t with
  | nil => simp [tset, tget]
  | cons x t ih =>
    obtain ⟨x, w⟩ := x
    unfold tset
    split
    · simp [tget]
    · split
      · simp [tget]
      · rename_i h1 h2
        simp [tget, Ne.symm h2, ih]

theorem tget_tset_other {α : Type} (t : Table α) (d v : α) (k j : Nat) (h : j ≠ k) :
    tget (tset t k v) d j = tget t d j := by
  induction t with
  | nil => simp [tset, tget, Ne.symm h]
  | cons x t ih =>
    obtain ⟨x, w⟩ := x
    unfold tset
    split
    · simp [tget, Ne.symm h]
    · split
      · rename_i h1 h2
        subst h2
        simp [tget, Ne.symm h]
      · simp only [tget, ih]

theorem tset_tset {α : Type} (t : Table α) (k : Nat) (v w : α) : tset (tset t k v) k w = tset t k w := by
  induction t with
  | nil => simp [tset]
  | cons x t ih =>
    obtain ⟨x, u⟩ := x
    by_cases h1 : k < x
    · simp [tset, h1]
    · by_cases h2 : k = x
      · subst h2
        simp [tset]
      · simp [tset, h1, h2, ih]

/-! ### What a step of a core reports -/

/-- The part of a core that decides what its step does beyond its own unit: the states of its threads and the halts asked of them,
its release, its report that it has finished, and what it tells the module. -/
structure Life where
  st : Vector (ThState × BitVec 4) 4
  released : Bool
  finished : Bool
  out : Outbox

def Core.life (c : Core) : Life :=
  { st := c.threads.map (fun h => (h.st, h.haltAsked)), released := c.released, finished := c.finished, out := c.out }

/-- No halt is due, the core has not finished, and it tells the module nothing. -/
def Core.still (c : Core) : Bool :=
  c.allTh (fun h => decide (h.haltAsked = 0)) && !c.finished && !c.ended && decide (c.out = Outbox.empty)

theorem Life.st_eq {c d : Core} (h : d.life = c.life) (t : Fin 4) :
    (d.threads[t].st, d.threads[t].haltAsked) = (c.threads[t].st, c.threads[t].haltAsked) := by
  have h1 := congrArg Life.st h
  have h2 := congrArg (fun v : Vector (ThState × BitVec 4) 4 => v[t]) h1
  simpa [Core.life] using h2

theorem Core.allTh_iff (c : Core) (p : Thread → Bool) : c.allTh p = true ↔ ∀ t : Fin 4, p c.threads[t] = true := by
  simp only [Core.allTh, Vector.all_eq_true]
  constructor
  · intro h t
    exact h t.val t.isLt
  · intro h i hi
    exact h ⟨i, hi⟩

theorem Core.still_of_life {c d : Core} (h : d.life = c.life) (hc : c.still = true) : d.still = true := by
  have hst := fun t => Life.st_eq h t
  have ho : d.out = c.out := congrArg Life.out h
  have hf : d.finished = c.finished := congrArg Life.finished h
  have hr : d.released = c.released := congrArg Life.released h
  have hall : ∀ p : ThState → BitVec 4 → Bool,
      d.allTh (fun h => p h.st h.haltAsked) = c.allTh (fun h => p h.st h.haltAsked) := by
    intro p
    rw [Bool.eq_iff_iff, Core.allTh_iff, Core.allTh_iff]
    constructor <;> intro h t <;> have h1 := hst t <;> simp only [Prod.mk.injEq] at h1 <;> have h2 := h t <;> simp_all
  have he : d.ended = c.ended := by
    unfold Core.ended
    have h0 : (d.th 0).st = (c.th 0).st := (Prod.mk.inj (hst 0)).1
    rw [hr, h0, hall (fun st _ => decide (st ≠ .running ∧ st ≠ .waiting ∧ st ≠ .halted))]
  unfold Core.still at *
  rw [hall (fun _ k => decide (k = 0)), hf, he, ho]
  exact hc

theorem State.still_of_calm {s : State} {id : CoreId} (h : s.calm id = true) : (s.at id).still = true := by
  simp only [State.calm, State.quiet, Bool.and_eq_true] at h
  simp only [Core.still, Bool.and_eq_true, decide_eq_true_eq]
  exact ⟨⟨⟨h.1.1.1.2, h.1.1.2⟩, h.1.2⟩, rfl⟩

theorem State.assigned_of_calm {s : State} {id : CoreId} (h : s.calm id = true) : s.assigned id = true := by
  simp only [State.calm, State.quiet, Bool.and_eq_true] at h
  exact h.1.1.1.1

theorem State.unmarked_of_calm {s : State} {id : CoreId} (h : s.calm id = true) : (s.at id).spm.marked .near = false := by
  simp only [State.calm, State.quiet, Bool.and_eq_true, Bool.not_eq_true'] at h
  exact h.2

/-- Where no bank holds a request of a port at rank 1, a grant of the port changes nothing (R199). -/
theorem Core.granted_of_unmarked {c : Core} {port : SpmPort} (h : c.spm.marked port = false) (rs : List (Nat × Nat)) :
    c.granted port rs = c := by
  have hb : ∀ b : Fin 16, c.spm.scrub[b].agedPorts.any (fun p => decide (p = port)) = false := by
    intro b
    have h' : ¬ c.spm.scrub.any (fun x => x.agedPorts.any (fun p => decide (p = port))) = true := by
      unfold Spm.marked at h
      rw [h]
      exact Bool.false_ne_true
    rw [Vector.any_eq_true] at h'
    cases hx : c.spm.scrub[b].agedPorts.any (fun p => decide (p = port)) with
    | false => rfl
    | true => exact absurd ⟨b.val, b.isLt, hx⟩ h'
  have key : ∀ (l : List (Fin 16)) (d : Core), d = c →
      l.foldl (fun c b =>
        if c.spm.scrub[b].agedPorts.any (fun p => decide (p = port)) && onBank rs b then
          c.mapScrub b (fun s => { s with agedPorts := s.agedPorts.filter (fun p => decide (p ≠ port)) })
        else c) d = c := by
    intro l
    induction l with
    | nil => intro d hd; exact hd
    | cons b l ih =>
      intro d hd
      apply ih
      subst hd
      beta_reduce
      rw [hb b, Bool.false_and, if_neg Bool.false_ne_true]
  exact key _ c rfl

theorem Core.settle_still {c : Core} (e : Env) (h : c.still = true) : c.settle e = c := by
  simp only [Core.still, Bool.and_eq_true, decide_eq_true_eq, Bool.not_eq_true'] at h
  obtain ⟨⟨⟨h1, h2⟩, h3⟩, -⟩ := h
  have key : ∀ (l : List (Fin 4)) (d : Core), d = c → l.foldl (fun c t => c.settleHalt e t) d = c := by
    intro l
    induction l with
    | nil => intro d hd; exact hd
    | cons t l ih =>
      intro d hd
      apply ih
      subst hd
      have h0 : (d.th t).haltAsked = 0 := of_decide_eq_true ((Core.allTh_iff _ _).1 h1 t)
      simp only [Core.settleHalt]
      rw [if_pos (Or.inl h0)]
  unfold Core.settle
  rw [key _ c rfl]
  simp [h2, h3]
  rw [← h2]

/-- The step of a core that tells the module nothing is the step of the core alone. -/
theorem onCore_eq {s : State} {id : CoreId} {f : Env → Core → Core} (h : s.calm id = true)
    (hq : (f (s.env id) (s.at id)).still = true) : onCore id f s = .next (s.after id (f (s.env id) (s.at id))) := by
  have ha := State.assigned_of_calm h
  have hq' := hq
  simp only [Core.still, Bool.and_eq_true, decide_eq_true_eq, Bool.not_eq_true'] at hq'
  obtain ⟨⟨⟨-, h2⟩, -⟩, h4⟩ := hq'
  unfold onCore State.onCore
  simp only [ha, if_true]
  have : ({ s.core id with out := Outbox.empty } : Core) = s.at id := rfl
  rw [this, Core.settle_still _ hq]
  generalize hd : f (s.env id) (s.at id) = d at *
  have he : ({ d with out := Outbox.empty } : Core) = d := by
    cases d
    cases h4
    rfl
  have hc : ∀ (x : State), (x.setCore id d).core id = d := fun x => tget_tset_same _ _ _ _
  have hs : ∀ (x : State), (x.setCore id d).setCore id d = x.setCore id d := by
    intro x
    simp [State.setCore, tset_tset]
  unfold State.drain
  simp only [hc, he, hs]
  simp only [h4, h2]
  simp [Outbox.empty, State.after, State.setCore]

/-! ### What leaves the life of a core alone -/

/-- A change of a thread that keeps its state and the halt asked of it. -/
theorem Core.life_mapTh (c : Core) (t : Fin 4) (f : Thread → Thread)
    (h : ∀ x, (f x).st = x.st ∧ (f x).haltAsked = x.haltAsked) : (c.mapTh t f).life = c.life := by
  simp only [Core.life, Core.mapTh]
  congr 1
  apply Vector.ext
  intro i hi
  simp only [Vector.getElem_map, Vector.getElem_set]
  split
  · rename_i h'
    subst h'
    rw [(h _).1, (h _).2]
    rfl
  · rfl

@[simp] theorem Core.life_mapR (c : Core) (t : Fin 4) (f : Regs → Regs) : (c.mapR t f).life = c.life :=
  Core.life_mapTh c t _ (fun _ => ⟨rfl, rfl⟩)

@[simp] theorem Core.life_mapX (c : Core) (t : Fin 4) (f : ExcRegs → ExcRegs) : (c.mapX t f).life = c.life :=
  Core.life_mapTh c t _ (fun _ => ⟨rfl, rfl⟩)

@[simp] theorem Core.life_mapSpm (c : Core) (f : Spm → Spm) : (c.mapSpm f).life = c.life := rfl
@[simp] theorem Core.life_flag (c : Core) (f : BitVec 6) : (c.flag f).life = c.life := rfl
@[simp] theorem Core.life_mapDq (c : Core) (q : Fin 4) (f : Dq → Dq) : (c.mapDq q f).life = c.life := rfl
@[simp] theorem Core.life_mapStream (c : Core) (i : Fin 6) (f : Stream → Stream) : (c.mapStream i f).life = c.life := rfl
@[simp] theorem Core.life_setRunner (c : Core) (n : Fin 8) (r : Runner) : (c.setRunner n r).life = c.life := rfl
@[simp] theorem Core.life_setEvents (c : Core) (v : Events) : (c.setEvents v).life = c.life := rfl

@[simp] theorem Core.life_trace (c : Core) (e : Env) (sel type : Nat) (t : Fin 4) (d pc w2 : Nat) :
    (c.trace e sel type t d pc w2).life = c.life := by
  unfold Core.trace
  split <;> (try split) <;> rfl

@[simp] theorem Core.life_traceSync (c : Core) (e : Env) : (c.traceSync e).life = c.life := by
  unfold Core.traceSync
  split <;> (try split) <;> rfl

@[simp] theorem Core.life_bpTrace (c : Core) (e : Env) (t : Fin 4) : (c.bpTrace e t).life = c.life := by
  unfold Core.bpTrace
  split
  · dsimp only
    split
    · rfl
    · split
      · simp [Core.life]
        have := Core.life_traceSync { c with dbg := { c.dbg with tren := true } } e
        simpa [Core.life] using this
      · rfl
  · rfl

@[simp] theorem Core.life_issued (c : Core) (e : Env) (t : Fin 4) : (c.issued e t).life = c.life := by
  unfold Core.issued
  simp only [Core.life_bpTrace]
  rw [Core.life_mapTh]
  · rfl
  · intro x
    exact ⟨rfl, rfl⟩

@[simp] theorem Core.life_track (c : Core) (t : Fin 4) (a n : Nat) (w : Bool) (q : Nat) : (c.track t a n w q).life = c.life := by
  unfold Core.track
  split <;> rfl

@[simp] theorem Core.life_writeDest (c : Core) (t : Fin 4) (d : Dest) (n v : Nat) : (c.writeDest t d n v).life = c.life := by
  unfold Core.writeDest
  cases d <;> simp

@[simp] theorem Core.life_increments (c : Core) (t : Fin 4) (o : Operands) : (c.increments t o).life = c.life := by
  unfold Core.increments
  dsimp only
  generalize (o.all.filterMap _) = l
  induction l generalizing c with
  | nil => rfl
  | cons x l ih =>
    rw [List.foldl_cons, ih]
    split <;> simp

@[simp] theorem Core.life_advance (c : Core) (t : Fin 4) (l : BitVec 2) : (c.advance t l).life = c.life := by
  simp [Core.advance]

@[simp] theorem Core.life_finish (c : Core) (t : Fin 4) (l : BitVec 2) (o : Operands) : (c.finish t l o).life = c.life := by
  simp [Core.finish]

@[simp] theorem Core.life_complete (c : Core) (t : Fin 4) (f : Form) (w : SeWord) : (c.complete t f w).life = c.life := by
  unfold Core.complete
  rw [Core.life_finish, Core.life_mapTh]
  intro x
  exact ⟨rfl, rfl⟩

@[simp] theorem Core.life_jump (c : Core) (e : Env) (t : Fin 4) (x : Word) : (c.jump e t x).life = c.life := by
  simp [Core.jump]

/-! ### Issue -/

/-- What the issue of an instruction leaves as it was. -/
structure SameData (c d : Core) : Prop where
  r : ∀ t, (d.th t).r = (c.th t).r
  x : ∀ t, (d.th t).x = (c.th t).x
  st : ∀ t, (d.th t).st = (c.th t).st
  stall : ∀ t, (d.th t).stall = (c.th t).stall
  muls : ∀ t, (d.th t).muls = (c.th t).muls
  fps : ∀ t, (d.th t).fps = (c.th t).fps
  tokens : ∀ t, (d.th t).tokens = (c.th t).tokens
  spm : d.spm = c.spm
  ve : d.ve = c.ve
  me : d.me = c.me
  de : d.de = c.de
  runners : d.runners = c.runners
  events : d.events = c.events
  fpflags : d.fpflags = c.fpflags
  streams : d.streams = c.streams
  div : d.div = c.div
  tracker : d.tracker = c.tracker
  marks : d.marks = c.marks
  phase : d.phase = c.phase
  queued : d.queued = c.queued
  cycle : d.cycle = c.cycle
  released : d.released = c.released
  frozen : d.frozen = c.frozen
  codeSize : d.codeSize = c.codeSize
  attached : d.dbg.attached = c.dbg.attached

theorem SameData.refl (c : Core) : SameData c c := by constructor <;> intros <;> rfl

theorem SameData.trans {c d e : Core} (h : SameData c d) (k : SameData d e) : SameData c e := by
  constructor
  all_goals first
    | intro t
      first
        | exact (k.r t).trans (h.r t)
        | exact (k.x t).trans (h.x t)
        | exact (k.st t).trans (h.st t)
        | exact (k.stall t).trans (h.stall t)
        | exact (k.muls t).trans (h.muls t)
        | exact (k.fps t).trans (h.fps t)
        | exact (k.tokens t).trans (h.tokens t)
    | exact k.spm.trans h.spm
    | exact k.ve.trans h.ve
    | exact k.me.trans h.me
    | exact k.de.trans h.de
    | exact k.runners.trans h.runners
    | exact k.events.trans h.events
    | exact k.fpflags.trans h.fpflags
    | exact k.streams.trans h.streams
    | exact k.div.trans h.div
    | exact k.tracker.trans h.tracker
    | exact k.marks.trans h.marks
    | exact k.phase.trans h.phase
    | exact k.queued.trans h.queued
    | exact k.cycle.trans h.cycle
    | exact k.released.trans h.released
    | exact k.frozen.trans h.frozen
    | exact k.codeSize.trans h.codeSize
    | exact k.attached.trans h.attached

theorem Core.sameData_bpTrace (c : Core) (e : Env) (t : Fin 4) : SameData c (c.bpTrace e t) := by
  unfold Core.bpTrace Core.traceSync
  dsimp only
  split
  · split
    · constructor <;> intros <;> rfl
    · split
      · split
        · split <;> (constructor <;> intros <;> rfl)
        · constructor <;> intros <;> rfl
      · exact SameData.refl c
  · exact SameData.refl c

theorem Core.sameData_issued (c : Core) (e : Env) (t : Fin 4) : SameData c (c.issued e t) := by
  unfold Core.issued
  refine SameData.trans ?_ (Core.sameData_bpTrace _ e t)
  constructor
  all_goals first
    | intro u
      simp only [Core.mapTh, Core.th]
      by_cases h : t = u
      · subst h
        simp
      · have : t.val ≠ u.val := fun h' => h (Fin.ext h')
        simp [this]
    | rfl

theorem State.sameData_issued (s : State) (a : Site) : SameData (s.at a.core) (s.issuedCore a) :=
  Core.sameData_issued _ _ _

/-- An operand has one value, whether the issue has been counted or not. -/
theorem Operand.value_issued (o : Operand) (s : State) (a : Site) : o.value (s.issuedCore a) a.thread = s.val a o := by
  have h := State.sameData_issued s a
  unfold State.val Operand.value
  rw [h.r, h.spm]

theorem lowestExc_nil_append (l : List Exc) (h : l.isEmpty = true) (x : List Exc) : lowestExc (l ++ x) = lowestExc x := by
  rw [List.isEmpty_iff.1 h, List.nil_append]

@[simp] theorem Core.meet_nil (rs : List (Nat × Nat)) (c : Core) : c.meet rs [] = c := rfl

@[simp] theorem Core.unverified_nil (rs : List (Nat × Nat)) (c : Core) : c.unverified rs [] = c := rfl

theorem State.turnOf_of_issues {s : State} {a : Site} {f : Form} {w : SeWord} (h : s.issues a f w = true) : s.turnOf a w.len = true := by
  simp only [State.issues, Bool.and_eq_true] at h
  exact h.1.1.1.1.1.1

theorem State.found_of_issues {s : State} {a : Site} {f : Form} {w : SeWord} (h : s.issues a f w = true) : a.found = [] := by
  simp only [State.issues, Bool.and_eq_true] at h
  exact List.isEmpty_iff.1 h.1.1.1.2

theorem State.calm_of_turn {s : State} {a : Site} {len : BitVec 2} (h : s.turnOf a len = true) : s.calm a.core = true := by
  simp only [State.turnOf, Bool.and_eq_true] at h
  exact h.1.1

/-- An instruction that may issue, raises nothing and need not wait has its effect on the issued core. -/
theorem Core.seIssue_body {s : State} {a : Site} {f : Form} {w : SeWord} (h : s.issues a f w = true)
    (extra : Operands → List Exc) (waits : Operands → Bool) (body : Operands → Core → Core)
    (he : extra (s.ops a f w) = []) (hw : waits (s.ops a f w) = false) :
    (s.at a.core).seIssue (s.env a.core) a.thread a.found f w extra waits body = body (s.ops a f w) (s.issuedCore a) := by
  rw [State.found_of_issues h]
  simp only [State.issues, State.turnOf, Bool.and_eq_true, Bool.not_eq_true'] at h
  obtain ⟨⟨⟨⟨⟨⟨⟨⟨h1, h2⟩, h3⟩, h4⟩, h5⟩, -⟩, h6⟩, h7⟩, h8⟩ := h
  unfold Core.seIssue
  have ho : operands f w ((s.at a.core).th a.thread).r = s.ops a f w := rfl
  simp only [h2, Option.isNone_iff_eq_none.1 h3, h4, ho, h5, h6, h7, hw, Bool.not_true, Bool.or_self, if_false, Bool.false_eq_true,
    Core.meet_nil]
  rw [lowestExc_nil_append _ h8, he]
  simp [lowestExc, State.issuedCore, Core.granted_of_unmarked (State.unmarked_of_calm h1)]

theorem State.calm_of_issues {s : State} {a : Site} {f : Form} {w : SeWord} (h : s.issues a f w = true) : s.calm a.core = true :=
  State.calm_of_turn (State.turnOf_of_issues h)

/-- The same, as the step of the block: for an effect that leaves the life of the core alone. -/
theorem seCmd_eq {s : State} {a : Site} {f : Form} {w : SeWord} (h : s.issues a f w = true)
    (extra : Env → Core → Operands → List Exc) (waits : Env → Core → Operands → Bool) (body : Env → Operands → Core → Core)
    (he : extra (s.env a.core) (s.at a.core) (s.ops a f w) = []) (hw : waits (s.env a.core) (s.at a.core) (s.ops a f w) = false)
    (hl : (body (s.env a.core) (s.ops a f w) (s.issuedCore a)).life = (s.issuedCore a).life) :
    seCmd a f w extra waits body s = .next (s.after a.core (body (s.env a.core) (s.ops a f w) (s.issuedCore a))) := by
  have hc := State.calm_of_issues h
  have hb := Core.seIssue_body h (extra (s.env a.core) (s.at a.core)) (waits (s.env a.core) (s.at a.core)) (body (s.env a.core)) he hw
  unfold seCmd
  rw [onCore_eq hc]
  · rw [hb]
  · rw [hb]
    exact Core.still_of_life (by rw [hl]; simp [State.issuedCore]) (State.still_of_calm hc)

end Sys2Proof.Machine
end

