-- ==== Sys2Proof/Laws/Mail.lean ====
section
/-! SUPPORT. What a command of a mailbox can do: run in its mailbox, arrive and run, or not occur; and how each kind of reply ends. -/

namespace Sys2Proof.Machine

@[simp] theorem answer_okWith (s : State) (src : Source) (rsp : List Byte) :
    State.answer src (okWith s rsp) = s.complete src 0 0 rsp := rfl

@[simp] theorem answer_badArg (s : State) (src : Source) (offset : Nat) :
    State.answer src (badArg s offset) = s.complete src 3 offset [] := rfl

@[simp] theorem answer_denied (s : State) (src : Source) (reason : Nat) :
    State.answer src (denied s reason) = s.complete src 4 reason [] := rfl

@[simp] theorem answer_notReady (s : State) (src : Source) (reason : Nat) :
    State.answer src (notReady s reason) = s.complete src 7 reason [] := rfl

@[simp] theorem answer_waiting (s : State) (src : Source) :
    State.answer src (waiting s) = s.setBox src { s.box src with begun := true } := rfl

/-- The command that runs for a source executes when the request is its own and its turn has come. -/
theorem execute_running {src : Source} {q : Request} {body : State → Reply} {s : State}
    (hr : (s.box src).st = .running) (hq : (s.box src).runs q = true)
    (hb : (s.box src).begun = false ∨ q.again = true) (ht : s.inRank src = true) :
    s.execute src q body = State.answer src (body s) := by
  simp only [State.execute]
  rw [if_pos ⟨hr, hq, hb.imp (fun h => by rw [h]; rfl) id, ht⟩]

/-- A request that is not the one its source's mailbox runs executes nothing. -/
theorem execute_other {src : Source} {q : Request} {body : State → Reply} {s : State}
    (h : (s.box src).st ≠ .running ∨ (s.box src).runs q = false) : s.execute src q body = s := by
  simp only [State.execute]
  rw [if_neg]
  rintro ⟨h1, h2, -⟩
  exact h.elim (fun k => k h1) (fun k => by rw [k] at h2; cases h2)

/-- The command that its mailbox has started runs. -/
theorem mpCmd_running {src : Source} {q : Request} {body : State → Reply} {s : State}
    (hh : s.board.stage ≠ .held) (hr : (s.box src).st = .running) (hq : (s.box src).runs q = true)
    (hb : (s.box src).begun = false ∨ q.again = true) (ht : s.inRank src = true) :
    mpCmd src q body s = .next (State.answer src (body s)) := by
  have hy : (s.box src).busy = true := by simp [Mailbox.busy, hr]
  simp only [mpCmd]
  rw [if_neg hh, if_pos hy, execute_running hr hq hb ht]

/-- A command of a mailbox that holds another one does not occur. -/
theorem mpCmd_busy {src : Source} {q : Request} {body : State → Reply} {s : State}
    (hb : (s.box src).busy = true) (ho : (s.box src).st ≠ .running ∨ (s.box src).runs q = false) :
    mpCmd src q body s = .next s := by
  by_cases hh : s.board.stage = .held
  · simp only [mpCmd, if_pos hh]
  · simp only [mpCmd]
    rw [if_neg hh, if_pos hb, execute_other ho]

/-- A command of a module that is held in reset does not occur. -/
theorem mpCmd_held {src : Source} {q : Request} {body : State → Reply} {s : State}
    (hh : s.board.stage = .held) : mpCmd src q body s = .next s := by
  simp only [mpCmd]
  rw [if_pos hh]

/-- Whatever its body does, a command of a mailbox answers a next state. -/
theorem mpCmd_next (src : Source) (q : Request) (body : State → Reply) (s : State) :
    ∃ t, mpCmd src q body s = .next t := by
  simp only [mpCmd]
  repeat' split
  all_goals exact ⟨_, rfl⟩

/-- What holds of both branches holds of the choice. -/
theorem either_branch {α : Type} {P : α → Prop} {c : Prop} [Decidable c] {x y : α} (hx : P x) (hy : P y) :
    P (if c then x else y) := by
  by_cases h : c
  · rw [if_pos h]; exact hx
  · rw [if_neg h]; exact hy

/-- A host's result leaves everything but its mailbox and the host interface alone. -/
theorem complete_host (s : State) (n : Fin 8) (status : Byte) (detail : Nat) (rsp : List Byte) :
    ∃ b h, s.complete (.host n) status detail rsp = { s with boxes := s.boxes.set n b, host := h } :=
  either_branch (P := fun t => ∃ b h, t = { s with boxes := s.boxes.set n b, host := h }) ⟨_, _, rfl⟩ ⟨_, _, rfl⟩

/-- The result of the BMC's command leaves everything but its mailbox alone. -/
theorem complete_bmc (s : State) (status : Byte) (detail : Nat) (rsp : List Byte) :
    ∃ b, s.complete .bmc status detail rsp = { s with bmc := b } := ⟨_, rfl⟩

end Sys2Proof.Machine
end

