-- ==== Sys2Proof/Laws/Memory.lean ====
section
/-! SUPPORT. What the operations on a memory do: a byte written reads back, every other byte reads as before, and the canonical
form is kept, so that memories that read alike are equal. -/

namespace Sys2Proof.Machine

/-! ### Reading after a write -/

theorem tget_filter_keep {α : Type} (t : Table α) (d : α) (p : Nat × α → Bool) (k : Nat) (h : ∀ v, p (k, v) = true) :
    tget (t.filter p) d k = tget t d k := by
  induction t with
  | nil => rfl
  | cons x t ih =>
    obtain ⟨x, v⟩ := x
    by_cases hx : x = k
    · subst hx
      simp [h, tget]
    · by_cases hp : p (x, v) = true
      · simp [hp, tget, hx, ih]
      · simp [hp, tget, hx, ih]

theorem tget_filter_drop {α : Type} (t : Table α) (d : α) (p : Nat × α → Bool) (k : Nat) (h : ∀ v, p (k, v) = false) :
    tget (t.filter p) d k = d := by
  induction t with
  | nil => rfl
  | cons x t ih =>
    obtain ⟨x, v⟩ := x
    by_cases hp : p (x, v) = true
    · have hx : x ≠ k := by
        rintro rfl
        simp [h] at hp
      simp [hp, tget, hx, ih]
    · simp [hp, ih]

theorem tget_tdel_same {α : Type} (t : Table α) (d : α) (k : Nat) : tget (tdel t k) d k = d :=
  tget_filter_drop t d _ k (fun _ => by simp)

theorem tget_tdel_other {α : Type} (t : Table α) (d : α) (k j : Nat) (h : j ≠ k) : tget (tdel t k) d j = tget t d j :=
  tget_filter_keep t d _ j (fun _ => by simp [h])

theorem memRead_memWrite_same (m : Memory) (a : Nat) (b : Byte) : memRead (memWrite m a b) a = b := by
  unfold memRead memWrite
  split
  · next h => rw [tget_tdel_same, h]
  · exact tget_tset_same m 0 b a

theorem memRead_memWrite_other (m : Memory) (a x : Nat) (b : Byte) (h : x ≠ a) : memRead (memWrite m a b) x = memRead m x := by
  unfold memRead memWrite
  split
  · exact tget_tdel_other m 0 a x h
  · exact tget_tset_other m 0 b a x h

theorem memRead_memWriteN_outside (bs : List Byte) (m : Memory) (a x : Nat) (h : x < a ∨ a + bs.length ≤ x) :
    memRead (memWriteN m a bs) x = memRead m x := by
  induction bs generalizing m a with
  | nil => rfl
  | cons b bs ih =>
    simp only [List.length_cons] at h
    rw [memWriteN, ih _ _ (by omega), memRead_memWrite_other _ _ _ _ (by omega)]

theorem memRead_memWriteN_inside (bs : List Byte) (m : Memory) (a i : Nat) (h : i < bs.length) :
    memRead (memWriteN m a bs) (a + i) = bs[i] := by
  induction bs generalizing m a i with
  | nil => simp at h
  | cons b bs ih =>
    rw [memWriteN]
    cases i with
    | zero =>
      rw [memRead_memWriteN_outside _ _ _ _ (by omega)]
      exact memRead_memWrite_same m a b
    | succ i =>
      rw [show a + (i + 1) = a + 1 + i by omega, ih _ _ _ (by simpa using h)]
      rfl

@[simp] theorem memReadN_length (m : Memory) (a n : Nat) : (memReadN m a n).length = n := by
  induction n generalizing a with
  | zero => rfl
  | succ n ih => simp [memReadN, ih]

theorem memReadN_getElem (m : Memory) (a n i : Nat) (h : i < (memReadN m a n).length) : (memReadN m a n)[i] = memRead m (a + i) := by
  induction n generalizing a i with
  | zero => simp [memReadN] at h
  | succ n ih =>
    cases i with
    | zero => rfl
    | succ i =>
      simp only [memReadN, List.getElem_cons_succ]
      rw [ih, show a + 1 + i = a + (i + 1) by omega]

theorem memReadN_congr (m m' : Memory) (a n : Nat) (h : ∀ i, i < n → memRead m (a + i) = memRead m' (a + i)) :
    memReadN m a n = memReadN m' a n := by
  apply List.ext_getElem (by simp)
  intro i h1 h2
  rw [memReadN_getElem, memReadN_getElem]
  exact h i (by simpa using h1)

theorem memReadN_memWriteN_same (m : Memory) (a : Nat) (bs : List Byte) : memReadN (memWriteN m a bs) a bs.length = bs := by
  apply List.ext_getElem (by simp)
  intro i h1 h2
  rw [memReadN_getElem, memRead_memWriteN_inside _ _ _ _ h2]

theorem memReadN_memWriteN_outside (m : Memory) (a x n : Nat) (bs : List Byte) (h : x + n ≤ a ∨ a + bs.length ≤ x) :
    memReadN (memWriteN m a bs) x n = memReadN m x n :=
  memReadN_congr _ _ _ _ (fun i hi => memRead_memWriteN_outside _ _ _ _ (by omega))

/-! ### The canonical form -/

theorem risesAbove_mono {α : Type} (t : List (Nat × α)) (b c : Nat) (h : b ≤ c) (hr : risesAbove c t = true) :
    risesAbove b t = true := by
  cases t with
  | nil => rfl
  | cons x t =>
    obtain ⟨x, v⟩ := x
    simp only [risesAbove, Bool.and_eq_true, decide_eq_true_eq] at hr ⊢
    exact ⟨by omega, hr.2⟩

theorem risesAbove_filter {α : Type} (p : Nat × α → Bool) (t : List (Nat × α)) (b : Nat) (h : risesAbove b t = true) :
    risesAbove b (t.filter p) = true := by
  induction t generalizing b with
  | nil => rfl
  | cons x t ih =>
    obtain ⟨x, v⟩ := x
    simp only [risesAbove, Bool.and_eq_true, decide_eq_true_eq] at h
    by_cases hp : p (x, v) = true
    · simp only [List.filter_cons, hp, if_true, risesAbove, Bool.and_eq_true, decide_eq_true_eq]
      exact ⟨h.1, ih _ h.2⟩
    · simp only [List.filter_cons, hp, Bool.false_eq_true, if_false]
      exact ih _ (risesAbove_mono _ _ _ (by omega) h.2)

theorem risesAbove_tset {α : Type} (t : Table α) (k : Nat) (v : α) (b : Nat) (hk : b ≤ k) (h : risesAbove b t = true) :
    risesAbove b (tset t k v) = true := by
  induction t generalizing b with
  | nil => simp [tset, risesAbove, hk]
  | cons x t ih =>
    obtain ⟨x, w⟩ := x
    simp only [risesAbove, Bool.and_eq_true, decide_eq_true_eq] at h
    unfold tset
    split
    · next h1 =>
      simp only [risesAbove, Bool.and_eq_true, decide_eq_true_eq]
      exact ⟨hk, by omega, h.2⟩
    · split
      · next h1 h2 =>
        subst h2
        simp only [risesAbove, Bool.and_eq_true, decide_eq_true_eq]
        exact ⟨hk, h.2⟩
      · next h1 h2 =>
        simp only [risesAbove, Bool.and_eq_true, decide_eq_true_eq]
        exact ⟨h.1, ih _ (by omega) h.2⟩

theorem mem_tset {α : Type} (t : Table α) (k : Nat) (v : α) (c : Nat × α) (h : c ∈ tset t k v) : c = (k, v) ∨ c ∈ t := by
  induction t with
  | nil => exact .inl (by simpa [tset] using h)
  | cons x t ih =>
    obtain ⟨x, w⟩ := x
    unfold tset at h
    split at h
    · simpa using h
    · split at h
      · rcases List.mem_cons.mp h with h | h
        · exact .inl h
        · exact .inr (List.mem_cons_of_mem _ h)
      · rcases List.mem_cons.mp h with h | h
        · exact .inr (by simp [h])
        · rcases ih h with h | h
          · exact .inl h
          · exact .inr (List.mem_cons_of_mem _ h)

theorem Memory.wf_iff (m : Memory) : m.wf = true ↔ risesAbove 0 m = true ∧ ∀ c ∈ m, c.2 ≠ 0 := by
  simp [Memory.wf]

@[simp] theorem Memory.wf_nil : Memory.wf [] = true := rfl

theorem filter_wf (m : Memory) (p : Host.Cell → Bool) (h : m.wf = true) : Memory.wf (m.filter p) = true := by
  rw [Memory.wf_iff] at h ⊢
  exact ⟨risesAbove_filter _ _ _ h.1, fun c hc => h.2 c (List.mem_filter.mp hc).1⟩

theorem memWrite_wf (m : Memory) (a : Nat) (b : Byte) (h : m.wf = true) : (memWrite m a b).wf = true := by
  unfold memWrite
  split
  · exact filter_wf _ _ h
  · next hb =>
    rw [Memory.wf_iff] at h ⊢
    refine ⟨risesAbove_tset _ _ _ _ (Nat.zero_le _) h.1, fun c hc => ?_⟩
    rcases mem_tset _ _ _ _ hc with rfl | hc
    · exact hb
    · exact h.2 c hc

theorem memWriteN_wf (bs : List Byte) (m : Memory) (a : Nat) (h : m.wf = true) : (memWriteN m a bs).wf = true := by
  induction bs generalizing m a with
  | nil => exact h
  | cons b bs ih => exact ih _ _ (memWrite_wf _ _ _ h)

/-- Memories in canonical form above a bound that read alike are equal. -/
theorem ext_above (m m' : Memory) (b : Nat) (h : risesAbove b m = true) (h' : risesAbove b m' = true) (hz : ∀ c ∈ m, c.2 ≠ 0)
    (hz' : ∀ c ∈ m', c.2 ≠ 0) (hr : ∀ a, memRead m a = memRead m' a) : m = m' := by
  have low : ∀ (t : Memory) (c a : Nat), risesAbove c t = true → a < c → memRead t a = 0 := by
    intro t
    induction t with
    | nil => intros; rfl
    | cons x t ih =>
      obtain ⟨x, v⟩ := x
      intro c a ht ha
      simp only [risesAbove, Bool.and_eq_true, decide_eq_true_eq] at ht
      have hx : x ≠ a := by omega
      have := ih (x + 1) a ht.2 (by omega)
      simpa [memRead, tget, hx] using this
  induction m generalizing m' b with
  | nil =>
    cases m' with
    | nil => rfl
    | cons y t' =>
      obtain ⟨y, w⟩ := y
      have := hr y
      simp only [memRead, tget, if_true] at this
      exact absurd this.symm (hz' (y, w) (by simp))
  | cons x t ih =>
    obtain ⟨x, v⟩ := x
    have hv : v ≠ 0 := hz (x, v) (by simp)
    cases m' with
    | nil =>
      have := hr x
      simp only [memRead, tget, if_true] at this
      exact absurd this hv
    | cons y t' =>
      obtain ⟨y, w⟩ := y
      have hw : w ≠ 0 := hz' (y, w) (by simp)
      simp only [risesAbove, Bool.and_eq_true, decide_eq_true_eq] at h h'
      have hxy : x = y := by
        rcases Nat.lt_trichotomy x y with hlt | heq | hgt
        · have h1 := hr x
          have h2 := low t' (y + 1) x h'.2 (by omega)
          have hne : y ≠ x := by omega
          simp only [memRead, tget, if_true, if_neg hne] at h1 h2
          exact absurd (h1.trans h2) hv
        · exact heq
        · have h1 := hr y
          have h2 := low t (x + 1) y h.2 (by omega)
          have hne : x ≠ y := by omega
          simp only [memRead, tget, if_true, if_neg hne] at h1 h2
          exact absurd (h1.symm.trans h2) hw
      subst hxy
      have hvw : v = w := by
        have := hr x
        simpa [memRead, tget] using this
      subst hvw
      congr 1
      refine ih t' (x + 1) h.2 h'.2 (fun c hc => hz c (by simp [hc])) (fun c hc => hz' c (by simp [hc])) (fun a => ?_)
      by_cases ha : x = a
      · subst ha
        rw [low t _ x h.2 (by omega), low t' _ x h'.2 (by omega)]
      · have := hr a
        simpa [memRead, tget, ha] using this

/-- Equal memories are equal data: two memories in canonical form that read alike at every address are the same list. -/
theorem Memory.ext_of_wf (m m' : Memory) (h : m.wf = true) (h' : m'.wf = true) (hr : ∀ a, memRead m a = memRead m' a) : m = m' := by
  rw [Memory.wf_iff] at h h'
  exact ext_above m m' 0 h.1 h'.1 h.2 h'.2 hr

/-! ### Sets of numbers -/

theorem nhas_iff (s : NatSet) (k : Nat) : nhas s k = true ↔ k ∈ s := by
  simp [nhas]

theorem mem_nins (s : NatSet) (k x : Nat) : x ∈ nins s k ↔ x = k ∨ x ∈ s := by
  induction s with
  | nil => simp [nins]
  | cons y s ih =>
    unfold nins
    split
    · simp
    · split
      · next h1 h2 => subst h2; simp
      · simp only [List.mem_cons, ih]
        tauto

theorem nhas_nins (s : NatSet) (k x : Nat) : nhas (nins s k) x = (x == k || nhas s x) := by
  rw [Bool.eq_iff_iff]
  simp [nhas_iff, mem_nins]

theorem nhas_ndel (s : NatSet) (k x : Nat) : nhas (ndel s k) x = (x != k && nhas s x) := by
  rw [Bool.eq_iff_iff]
  simp [nhas_iff, ndel, and_comm]

end Sys2Proof.Machine
end

