-- ==== Sys2Proof/Laws/State.lean ====
section
/-! SUPPORT. The updates of the state and of a core, field by field: what each of them writes, and every field that it leaves alone. -/

namespace Sys2Proof.Machine

/-! ### The whole block -/

@[simp] theorem State.setCore_pending (s : State) (id : CoreId) (c : Core) : (s.setCore id c).pending = s.pending := rfl
@[simp] theorem State.setCore_now (s : State) (id : CoreId) (c : Core) : (s.setCore id c).now = s.now := rfl
@[simp] theorem State.setCore_fresh (s : State) (id : CoreId) (c : Core) : (s.setCore id c).fresh = s.fresh := rfl
@[simp] theorem State.setCore_lastSet (s : State) (id : CoreId) (c : Core) : (s.setCore id c).lastSet = s.lastSet := rfl
@[simp] theorem State.setCore_ident (s : State) (id : CoreId) (c : Core) : (s.setCore id c).ident = s.ident := rfl
@[simp] theorem State.setCore_cores (s : State) (id : CoreId) (c : Core) : (s.setCore id c).cores = tset s.cores id.toNat c := rfl
@[simp] theorem State.setCore_hbm (s : State) (id : CoreId) (c : Core) : (s.setCore id c).hbm = s.hbm := rfl
@[simp] theorem State.setCore_dies (s : State) (id : CoreId) (c : Core) : (s.setCore id c).dies = s.dies := rfl
@[simp] theorem State.setCore_ports (s : State) (id : CoreId) (c : Core) : (s.setCore id c).ports = s.ports := rfl
@[simp] theorem State.setCore_red (s : State) (id : CoreId) (c : Core) : (s.setCore id c).red = s.red := rfl
@[simp] theorem State.setCore_switch (s : State) (id : CoreId) (c : Core) : (s.setCore id c).switch = s.switch := rfl
@[simp] theorem State.setCore_time (s : State) (id : CoreId) (c : Core) : (s.setCore id c).time = s.time := rfl
@[simp] theorem State.setCore_epoch (s : State) (id : CoreId) (c : Core) : (s.setCore id c).epoch = s.epoch := rfl
@[simp] theorem State.setCore_active (s : State) (id : CoreId) (c : Core) : (s.setCore id c).active = s.active := rfl
@[simp] theorem State.setCore_shadow (s : State) (id : CoreId) (c : Core) : (s.setCore id c).shadow = s.shadow := rfl
@[simp] theorem State.setCore_flask (s : State) (id : CoreId) (c : Core) : (s.setCore id c).flask = s.flask := rfl
@[simp] theorem State.setCore_power (s : State) (id : CoreId) (c : Core) : (s.setCore id c).power = s.power := rfl
@[simp] theorem State.setCore_mp (s : State) (id : CoreId) (c : Core) : (s.setCore id c).mp = s.mp := rfl
@[simp] theorem State.setCore_host (s : State) (id : CoreId) (c : Core) : (s.setCore id c).host = s.host := rfl
@[simp] theorem State.setCore_boxes (s : State) (id : CoreId) (c : Core) : (s.setCore id c).boxes = s.boxes := rfl
@[simp] theorem State.setCore_fm (s : State) (id : CoreId) (c : Core) : (s.setCore id c).fm = s.fm := rfl
@[simp] theorem State.setCore_bmc (s : State) (id : CoreId) (c : Core) : (s.setCore id c).bmc = s.bmc := rfl
@[simp] theorem State.setCore_frags (s : State) (id : CoreId) (c : Core) : (s.setCore id c).frags = s.frags := rfl
@[simp] theorem State.setCore_errs (s : State) (id : CoreId) (c : Core) : (s.setCore id c).errs = s.errs := rfl
@[simp] theorem State.setCore_sec (s : State) (id : CoreId) (c : Core) : (s.setCore id c).sec = s.sec := rfl
@[simp] theorem State.setCore_board (s : State) (id : CoreId) (c : Core) : (s.setCore id c).board = s.board := rfl

@[simp] theorem State.wait_pending (s : State) (t : Nat) : (s.wait t).pending = s.pending := rfl
@[simp] theorem State.wait_now (s : State) (t : Nat) : (s.wait t).now = max s.now t := rfl
@[simp] theorem State.wait_fresh (s : State) (t : Nat) : (s.wait t).fresh = s.fresh := rfl
@[simp] theorem State.wait_lastSet (s : State) (t : Nat) : (s.wait t).lastSet = s.lastSet := rfl
@[simp] theorem State.wait_ident (s : State) (t : Nat) : (s.wait t).ident = s.ident := rfl
@[simp] theorem State.wait_cores (s : State) (t : Nat) : (s.wait t).cores = s.cores := rfl
@[simp] theorem State.wait_hbm (s : State) (t : Nat) : (s.wait t).hbm = s.hbm := rfl
@[simp] theorem State.wait_dies (s : State) (t : Nat) : (s.wait t).dies = s.dies := rfl
@[simp] theorem State.wait_ports (s : State) (t : Nat) : (s.wait t).ports = s.ports := rfl
@[simp] theorem State.wait_red (s : State) (t : Nat) : (s.wait t).red = s.red := rfl
@[simp] theorem State.wait_switch (s : State) (t : Nat) : (s.wait t).switch = s.switch := rfl
@[simp] theorem State.wait_time (s : State) (t : Nat) : (s.wait t).time = s.time := rfl
@[simp] theorem State.wait_epoch (s : State) (t : Nat) : (s.wait t).epoch = s.epoch := rfl
@[simp] theorem State.wait_active (s : State) (t : Nat) : (s.wait t).active = s.active := rfl
@[simp] theorem State.wait_shadow (s : State) (t : Nat) : (s.wait t).shadow = s.shadow := rfl
@[simp] theorem State.wait_flask (s : State) (t : Nat) : (s.wait t).flask = s.flask := rfl
@[simp] theorem State.wait_power (s : State) (t : Nat) : (s.wait t).power = s.power := rfl
@[simp] theorem State.wait_mp (s : State) (t : Nat) : (s.wait t).mp = s.mp := rfl
@[simp] theorem State.wait_host (s : State) (t : Nat) : (s.wait t).host = s.host := rfl
@[simp] theorem State.wait_boxes (s : State) (t : Nat) : (s.wait t).boxes = s.boxes := rfl
@[simp] theorem State.wait_fm (s : State) (t : Nat) : (s.wait t).fm = s.fm := rfl
@[simp] theorem State.wait_bmc (s : State) (t : Nat) : (s.wait t).bmc = s.bmc := rfl
@[simp] theorem State.wait_frags (s : State) (t : Nat) : (s.wait t).frags = s.frags := rfl
@[simp] theorem State.wait_errs (s : State) (t : Nat) : (s.wait t).errs = s.errs := rfl
@[simp] theorem State.wait_sec (s : State) (t : Nat) : (s.wait t).sec = s.sec := rfl
@[simp] theorem State.wait_board (s : State) (t : Nat) : (s.wait t).board = s.board := rfl

@[simp] theorem State.mapDie_pending (s : State) (d : Nat) (f : Die → Die) : (s.mapDie d f).pending = s.pending := rfl
@[simp] theorem State.mapDie_now (s : State) (d : Nat) (f : Die → Die) : (s.mapDie d f).now = s.now := rfl
@[simp] theorem State.mapDie_fresh (s : State) (d : Nat) (f : Die → Die) : (s.mapDie d f).fresh = s.fresh := rfl
@[simp] theorem State.mapDie_lastSet (s : State) (d : Nat) (f : Die → Die) : (s.mapDie d f).lastSet = s.lastSet := rfl
@[simp] theorem State.mapDie_ident (s : State) (d : Nat) (f : Die → Die) : (s.mapDie d f).ident = s.ident := rfl
@[simp] theorem State.mapDie_cores (s : State) (d : Nat) (f : Die → Die) : (s.mapDie d f).cores = s.cores := rfl
@[simp] theorem State.mapDie_hbm (s : State) (d : Nat) (f : Die → Die) : (s.mapDie d f).hbm = s.hbm := rfl
@[simp] theorem State.mapDie_dies (s : State) (d : Nat) (f : Die → Die) : (s.mapDie d f).dies = tset s.dies d (f (s.die d)) := rfl
@[simp] theorem State.mapDie_ports (s : State) (d : Nat) (f : Die → Die) : (s.mapDie d f).ports = s.ports := rfl
@[simp] theorem State.mapDie_red (s : State) (d : Nat) (f : Die → Die) : (s.mapDie d f).red = s.red := rfl
@[simp] theorem State.mapDie_switch (s : State) (d : Nat) (f : Die → Die) : (s.mapDie d f).switch = s.switch := rfl
@[simp] theorem State.mapDie_time (s : State) (d : Nat) (f : Die → Die) : (s.mapDie d f).time = s.time := rfl
@[simp] theorem State.mapDie_epoch (s : State) (d : Nat) (f : Die → Die) : (s.mapDie d f).epoch = s.epoch := rfl
@[simp] theorem State.mapDie_active (s : State) (d : Nat) (f : Die → Die) : (s.mapDie d f).active = s.active := rfl
@[simp] theorem State.mapDie_shadow (s : State) (d : Nat) (f : Die → Die) : (s.mapDie d f).shadow = s.shadow := rfl
@[simp] theorem State.mapDie_flask (s : State) (d : Nat) (f : Die → Die) : (s.mapDie d f).flask = s.flask := rfl
@[simp] theorem State.mapDie_power (s : State) (d : Nat) (f : Die → Die) : (s.mapDie d f).power = s.power := rfl
@[simp] theorem State.mapDie_mp (s : State) (d : Nat) (f : Die → Die) : (s.mapDie d f).mp = s.mp := rfl
@[simp] theorem State.mapDie_host (s : State) (d : Nat) (f : Die → Die) : (s.mapDie d f).host = s.host := rfl
@[simp] theorem State.mapDie_boxes (s : State) (d : Nat) (f : Die → Die) : (s.mapDie d f).boxes = s.boxes := rfl
@[simp] theorem State.mapDie_fm (s : State) (d : Nat) (f : Die → Die) : (s.mapDie d f).fm = s.fm := rfl
@[simp] theorem State.mapDie_bmc (s : State) (d : Nat) (f : Die → Die) : (s.mapDie d f).bmc = s.bmc := rfl
@[simp] theorem State.mapDie_frags (s : State) (d : Nat) (f : Die → Die) : (s.mapDie d f).frags = s.frags := rfl
@[simp] theorem State.mapDie_errs (s : State) (d : Nat) (f : Die → Die) : (s.mapDie d f).errs = s.errs := rfl
@[simp] theorem State.mapDie_sec (s : State) (d : Nat) (f : Die → Die) : (s.mapDie d f).sec = s.sec := rfl
@[simp] theorem State.mapDie_board (s : State) (d : Nat) (f : Die → Die) : (s.mapDie d f).board = s.board := rfl

@[simp] theorem State.mapPort_pending (s : State) (p : Fin 48) (f : Port → Port) : (s.mapPort p f).pending = s.pending := rfl
@[simp] theorem State.mapPort_now (s : State) (p : Fin 48) (f : Port → Port) : (s.mapPort p f).now = s.now := rfl
@[simp] theorem State.mapPort_fresh (s : State) (p : Fin 48) (f : Port → Port) : (s.mapPort p f).fresh = s.fresh := rfl
@[simp] theorem State.mapPort_lastSet (s : State) (p : Fin 48) (f : Port → Port) : (s.mapPort p f).lastSet = s.lastSet := rfl
@[simp] theorem State.mapPort_ident (s : State) (p : Fin 48) (f : Port → Port) : (s.mapPort p f).ident = s.ident := rfl
@[simp] theorem State.mapPort_cores (s : State) (p : Fin 48) (f : Port → Port) : (s.mapPort p f).cores = s.cores := rfl
@[simp] theorem State.mapPort_hbm (s : State) (p : Fin 48) (f : Port → Port) : (s.mapPort p f).hbm = s.hbm := rfl
@[simp] theorem State.mapPort_dies (s : State) (p : Fin 48) (f : Port → Port) : (s.mapPort p f).dies = s.dies := rfl
@[simp] theorem State.mapPort_ports (s : State) (p : Fin 48) (f : Port → Port) : (s.mapPort p f).ports = tset s.ports p.val (f (s.port p)) := rfl
@[simp] theorem State.mapPort_red (s : State) (p : Fin 48) (f : Port → Port) : (s.mapPort p f).red = s.red := rfl
@[simp] theorem State.mapPort_switch (s : State) (p : Fin 48) (f : Port → Port) : (s.mapPort p f).switch = s.switch := rfl
@[simp] theorem State.mapPort_time (s : State) (p : Fin 48) (f : Port → Port) : (s.mapPort p f).time = s.time := rfl
@[simp] theorem State.mapPort_epoch (s : State) (p : Fin 48) (f : Port → Port) : (s.mapPort p f).epoch = s.epoch := rfl
@[simp] theorem State.mapPort_active (s : State) (p : Fin 48) (f : Port → Port) : (s.mapPort p f).active = s.active := rfl
@[simp] theorem State.mapPort_shadow (s : State) (p : Fin 48) (f : Port → Port) : (s.mapPort p f).shadow = s.shadow := rfl
@[simp] theorem State.mapPort_flask (s : State) (p : Fin 48) (f : Port → Port) : (s.mapPort p f).flask = s.flask := rfl
@[simp] theorem State.mapPort_power (s : State) (p : Fin 48) (f : Port → Port) : (s.mapPort p f).power = s.power := rfl
@[simp] theorem State.mapPort_mp (s : State) (p : Fin 48) (f : Port → Port) : (s.mapPort p f).mp = s.mp := rfl
@[simp] theorem State.mapPort_host (s : State) (p : Fin 48) (f : Port → Port) : (s.mapPort p f).host = s.host := rfl
@[simp] theorem State.mapPort_boxes (s : State) (p : Fin 48) (f : Port → Port) : (s.mapPort p f).boxes = s.boxes := rfl
@[simp] theorem State.mapPort_fm (s : State) (p : Fin 48) (f : Port → Port) : (s.mapPort p f).fm = s.fm := rfl
@[simp] theorem State.mapPort_bmc (s : State) (p : Fin 48) (f : Port → Port) : (s.mapPort p f).bmc = s.bmc := rfl
@[simp] theorem State.mapPort_frags (s : State) (p : Fin 48) (f : Port → Port) : (s.mapPort p f).frags = s.frags := rfl
@[simp] theorem State.mapPort_errs (s : State) (p : Fin 48) (f : Port → Port) : (s.mapPort p f).errs = s.errs := rfl
@[simp] theorem State.mapPort_sec (s : State) (p : Fin 48) (f : Port → Port) : (s.mapPort p f).sec = s.sec := rfl
@[simp] theorem State.mapPort_board (s : State) (p : Fin 48) (f : Port → Port) : (s.mapPort p f).board = s.board := rfl

@[simp] theorem State.mapRed_pending (s : State) (x : Fin 16) (f : RedCtx → RedCtx) : (s.mapRed x f).pending = s.pending := rfl
@[simp] theorem State.mapRed_now (s : State) (x : Fin 16) (f : RedCtx → RedCtx) : (s.mapRed x f).now = s.now := rfl
@[simp] theorem State.mapRed_fresh (s : State) (x : Fin 16) (f : RedCtx → RedCtx) : (s.mapRed x f).fresh = s.fresh := rfl
@[simp] theorem State.mapRed_lastSet (s : State) (x : Fin 16) (f : RedCtx → RedCtx) : (s.mapRed x f).lastSet = s.lastSet := rfl
@[simp] theorem State.mapRed_ident (s : State) (x : Fin 16) (f : RedCtx → RedCtx) : (s.mapRed x f).ident = s.ident := rfl
@[simp] theorem State.mapRed_cores (s : State) (x : Fin 16) (f : RedCtx → RedCtx) : (s.mapRed x f).cores = s.cores := rfl
@[simp] theorem State.mapRed_hbm (s : State) (x : Fin 16) (f : RedCtx → RedCtx) : (s.mapRed x f).hbm = s.hbm := rfl
@[simp] theorem State.mapRed_dies (s : State) (x : Fin 16) (f : RedCtx → RedCtx) : (s.mapRed x f).dies = s.dies := rfl
@[simp] theorem State.mapRed_ports (s : State) (x : Fin 16) (f : RedCtx → RedCtx) : (s.mapRed x f).ports = s.ports := rfl
@[simp] theorem State.mapRed_red (s : State) (x : Fin 16) (f : RedCtx → RedCtx) : (s.mapRed x f).red = tset s.red x.val (f (s.redCtx x)) := rfl
@[simp] theorem State.mapRed_switch (s : State) (x : Fin 16) (f : RedCtx → RedCtx) : (s.mapRed x f).switch = s.switch := rfl
@[simp] theorem State.mapRed_time (s : State) (x : Fin 16) (f : RedCtx → RedCtx) : (s.mapRed x f).time = s.time := rfl
@[simp] theorem State.mapRed_epoch (s : State) (x : Fin 16) (f : RedCtx → RedCtx) : (s.mapRed x f).epoch = s.epoch := rfl
@[simp] theorem State.mapRed_active (s : State) (x : Fin 16) (f : RedCtx → RedCtx) : (s.mapRed x f).active = s.active := rfl
@[simp] theorem State.mapRed_shadow (s : State) (x : Fin 16) (f : RedCtx → RedCtx) : (s.mapRed x f).shadow = s.shadow := rfl
@[simp] theorem State.mapRed_flask (s : State) (x : Fin 16) (f : RedCtx → RedCtx) : (s.mapRed x f).flask = s.flask := rfl
@[simp] theorem State.mapRed_power (s : State) (x : Fin 16) (f : RedCtx → RedCtx) : (s.mapRed x f).power = s.power := rfl
@[simp] theorem State.mapRed_mp (s : State) (x : Fin 16) (f : RedCtx → RedCtx) : (s.mapRed x f).mp = s.mp := rfl
@[simp] theorem State.mapRed_host (s : State) (x : Fin 16) (f : RedCtx → RedCtx) : (s.mapRed x f).host = s.host := rfl
@[simp] theorem State.mapRed_boxes (s : State) (x : Fin 16) (f : RedCtx → RedCtx) : (s.mapRed x f).boxes = s.boxes := rfl
@[simp] theorem State.mapRed_fm (s : State) (x : Fin 16) (f : RedCtx → RedCtx) : (s.mapRed x f).fm = s.fm := rfl
@[simp] theorem State.mapRed_bmc (s : State) (x : Fin 16) (f : RedCtx → RedCtx) : (s.mapRed x f).bmc = s.bmc := rfl
@[simp] theorem State.mapRed_frags (s : State) (x : Fin 16) (f : RedCtx → RedCtx) : (s.mapRed x f).frags = s.frags := rfl
@[simp] theorem State.mapRed_errs (s : State) (x : Fin 16) (f : RedCtx → RedCtx) : (s.mapRed x f).errs = s.errs := rfl
@[simp] theorem State.mapRed_sec (s : State) (x : Fin 16) (f : RedCtx → RedCtx) : (s.mapRed x f).sec = s.sec := rfl
@[simp] theorem State.mapRed_board (s : State) (x : Fin 16) (f : RedCtx → RedCtx) : (s.mapRed x f).board = s.board := rfl

@[simp] theorem State.mapJob_pending (s : State) (j : Fin 8) (f : Job → Job) : (s.mapJob j f).pending = s.pending := rfl
@[simp] theorem State.mapJob_now (s : State) (j : Fin 8) (f : Job → Job) : (s.mapJob j f).now = s.now := rfl
@[simp] theorem State.mapJob_fresh (s : State) (j : Fin 8) (f : Job → Job) : (s.mapJob j f).fresh = s.fresh := rfl
@[simp] theorem State.mapJob_lastSet (s : State) (j : Fin 8) (f : Job → Job) : (s.mapJob j f).lastSet = s.lastSet := rfl
@[simp] theorem State.mapJob_ident (s : State) (j : Fin 8) (f : Job → Job) : (s.mapJob j f).ident = s.ident := rfl
@[simp] theorem State.mapJob_cores (s : State) (j : Fin 8) (f : Job → Job) : (s.mapJob j f).cores = s.cores := rfl
@[simp] theorem State.mapJob_hbm (s : State) (j : Fin 8) (f : Job → Job) : (s.mapJob j f).hbm = s.hbm := rfl
@[simp] theorem State.mapJob_dies (s : State) (j : Fin 8) (f : Job → Job) : (s.mapJob j f).dies = s.dies := rfl
@[simp] theorem State.mapJob_ports (s : State) (j : Fin 8) (f : Job → Job) : (s.mapJob j f).ports = s.ports := rfl
@[simp] theorem State.mapJob_red (s : State) (j : Fin 8) (f : Job → Job) : (s.mapJob j f).red = s.red := rfl
@[simp] theorem State.mapJob_switch (s : State) (j : Fin 8) (f : Job → Job) : (s.mapJob j f).switch = s.switch := rfl
@[simp] theorem State.mapJob_time (s : State) (j : Fin 8) (f : Job → Job) : (s.mapJob j f).time = s.time := rfl
@[simp] theorem State.mapJob_epoch (s : State) (j : Fin 8) (f : Job → Job) : (s.mapJob j f).epoch = s.epoch := rfl
@[simp] theorem State.mapJob_active (s : State) (j : Fin 8) (f : Job → Job) : (s.mapJob j f).active = s.active := rfl
@[simp] theorem State.mapJob_shadow (s : State) (j : Fin 8) (f : Job → Job) : (s.mapJob j f).shadow = s.shadow := rfl
@[simp] theorem State.mapJob_flask (s : State) (j : Fin 8) (f : Job → Job) : (s.mapJob j f).flask = s.flask := rfl
@[simp] theorem State.mapJob_power (s : State) (j : Fin 8) (f : Job → Job) : (s.mapJob j f).power = s.power := rfl
@[simp] theorem State.mapJob_mp (s : State) (j : Fin 8) (f : Job → Job) : (s.mapJob j f).mp = { s.mp with jobs := s.mp.jobs.set j (f s.mp.jobs[j]) } := rfl
@[simp] theorem State.mapJob_host (s : State) (j : Fin 8) (f : Job → Job) : (s.mapJob j f).host = s.host := rfl
@[simp] theorem State.mapJob_boxes (s : State) (j : Fin 8) (f : Job → Job) : (s.mapJob j f).boxes = s.boxes := rfl
@[simp] theorem State.mapJob_fm (s : State) (j : Fin 8) (f : Job → Job) : (s.mapJob j f).fm = s.fm := rfl
@[simp] theorem State.mapJob_bmc (s : State) (j : Fin 8) (f : Job → Job) : (s.mapJob j f).bmc = s.bmc := rfl
@[simp] theorem State.mapJob_frags (s : State) (j : Fin 8) (f : Job → Job) : (s.mapJob j f).frags = s.frags := rfl
@[simp] theorem State.mapJob_errs (s : State) (j : Fin 8) (f : Job → Job) : (s.mapJob j f).errs = s.errs := rfl
@[simp] theorem State.mapJob_sec (s : State) (j : Fin 8) (f : Job → Job) : (s.mapJob j f).sec = s.sec := rfl
@[simp] theorem State.mapJob_board (s : State) (j : Fin 8) (f : Job → Job) : (s.mapJob j f).board = s.board := rfl

@[simp] theorem State.setBox_pending (s : State) (src : Source) (b : Mailbox) : (s.setBox src b).pending = s.pending := by cases src <;> rfl
@[simp] theorem State.setBox_now (s : State) (src : Source) (b : Mailbox) : (s.setBox src b).now = s.now := by cases src <;> rfl
@[simp] theorem State.setBox_fresh (s : State) (src : Source) (b : Mailbox) : (s.setBox src b).fresh = s.fresh := by cases src <;> rfl
@[simp] theorem State.setBox_lastSet (s : State) (src : Source) (b : Mailbox) : (s.setBox src b).lastSet = s.lastSet := by cases src <;> rfl
@[simp] theorem State.setBox_ident (s : State) (src : Source) (b : Mailbox) : (s.setBox src b).ident = s.ident := by cases src <;> rfl
@[simp] theorem State.setBox_cores (s : State) (src : Source) (b : Mailbox) : (s.setBox src b).cores = s.cores := by cases src <;> rfl
@[simp] theorem State.setBox_hbm (s : State) (src : Source) (b : Mailbox) : (s.setBox src b).hbm = s.hbm := by cases src <;> rfl
@[simp] theorem State.setBox_dies (s : State) (src : Source) (b : Mailbox) : (s.setBox src b).dies = s.dies := by cases src <;> rfl
@[simp] theorem State.setBox_ports (s : State) (src : Source) (b : Mailbox) : (s.setBox src b).ports = s.ports := by cases src <;> rfl
@[simp] theorem State.setBox_red (s : State) (src : Source) (b : Mailbox) : (s.setBox src b).red = s.red := by cases src <;> rfl
@[simp] theorem State.setBox_switch (s : State) (src : Source) (b : Mailbox) : (s.setBox src b).switch = s.switch := by cases src <;> rfl
@[simp] theorem State.setBox_time (s : State) (src : Source) (b : Mailbox) : (s.setBox src b).time = s.time := by cases src <;> rfl
@[simp] theorem State.setBox_epoch (s : State) (src : Source) (b : Mailbox) : (s.setBox src b).epoch = s.epoch := by cases src <;> rfl
@[simp] theorem State.setBox_active (s : State) (src : Source) (b : Mailbox) : (s.setBox src b).active = s.active := by cases src <;> rfl
@[simp] theorem State.setBox_shadow (s : State) (src : Source) (b : Mailbox) : (s.setBox src b).shadow = s.shadow := by cases src <;> rfl
@[simp] theorem State.setBox_flask (s : State) (src : Source) (b : Mailbox) : (s.setBox src b).flask = s.flask := by cases src <;> rfl
@[simp] theorem State.setBox_power (s : State) (src : Source) (b : Mailbox) : (s.setBox src b).power = s.power := by cases src <;> rfl
@[simp] theorem State.setBox_mp (s : State) (src : Source) (b : Mailbox) : (s.setBox src b).mp = s.mp := by cases src <;> rfl
@[simp] theorem State.setBox_host (s : State) (src : Source) (b : Mailbox) : (s.setBox src b).host = s.host := by cases src <;> rfl
@[simp] theorem State.setBox_frags (s : State) (src : Source) (b : Mailbox) : (s.setBox src b).frags = s.frags := by cases src <;> rfl
@[simp] theorem State.setBox_errs (s : State) (src : Source) (b : Mailbox) : (s.setBox src b).errs = s.errs := by cases src <;> rfl
@[simp] theorem State.setBox_sec (s : State) (src : Source) (b : Mailbox) : (s.setBox src b).sec = s.sec := by cases src <;> rfl
@[simp] theorem State.setBox_board (s : State) (src : Source) (b : Mailbox) : (s.setBox src b).board = s.board := by cases src <;> rfl

@[simp] theorem State.mapFlask_pending (s : State) (f : Flask → Flask) : (s.mapFlask f).pending = s.pending := rfl
@[simp] theorem State.mapFlask_now (s : State) (f : Flask → Flask) : (s.mapFlask f).now = s.now := rfl
@[simp] theorem State.mapFlask_fresh (s : State) (f : Flask → Flask) : (s.mapFlask f).fresh = s.fresh := rfl
@[simp] theorem State.mapFlask_lastSet (s : State) (f : Flask → Flask) : (s.mapFlask f).lastSet = s.lastSet := rfl
@[simp] theorem State.mapFlask_ident (s : State) (f : Flask → Flask) : (s.mapFlask f).ident = s.ident := rfl
@[simp] theorem State.mapFlask_cores (s : State) (f : Flask → Flask) : (s.mapFlask f).cores = s.cores := rfl
@[simp] theorem State.mapFlask_hbm (s : State) (f : Flask → Flask) : (s.mapFlask f).hbm = s.hbm := rfl
@[simp] theorem State.mapFlask_dies (s : State) (f : Flask → Flask) : (s.mapFlask f).dies = s.dies := rfl
@[simp] theorem State.mapFlask_ports (s : State) (f : Flask → Flask) : (s.mapFlask f).ports = s.ports := rfl
@[simp] theorem State.mapFlask_red (s : State) (f : Flask → Flask) : (s.mapFlask f).red = s.red := rfl
@[simp] theorem State.mapFlask_switch (s : State) (f : Flask → Flask) : (s.mapFlask f).switch = s.switch := rfl
@[simp] theorem State.mapFlask_time (s : State) (f : Flask → Flask) : (s.mapFlask f).time = s.time := rfl
@[simp] theorem State.mapFlask_epoch (s : State) (f : Flask → Flask) : (s.mapFlask f).epoch = s.epoch := rfl
@[simp] theorem State.mapFlask_active (s : State) (f : Flask → Flask) : (s.mapFlask f).active = s.active := rfl
@[simp] theorem State.mapFlask_shadow (s : State) (f : Flask → Flask) : (s.mapFlask f).shadow = s.shadow := rfl
@[simp] theorem State.mapFlask_flask (s : State) (f : Flask → Flask) : (s.mapFlask f).flask = f s.flask := rfl
@[simp] theorem State.mapFlask_power (s : State) (f : Flask → Flask) : (s.mapFlask f).power = s.power := rfl
@[simp] theorem State.mapFlask_mp (s : State) (f : Flask → Flask) : (s.mapFlask f).mp = s.mp := rfl
@[simp] theorem State.mapFlask_host (s : State) (f : Flask → Flask) : (s.mapFlask f).host = s.host := rfl
@[simp] theorem State.mapFlask_boxes (s : State) (f : Flask → Flask) : (s.mapFlask f).boxes = s.boxes := rfl
@[simp] theorem State.mapFlask_fm (s : State) (f : Flask → Flask) : (s.mapFlask f).fm = s.fm := rfl
@[simp] theorem State.mapFlask_bmc (s : State) (f : Flask → Flask) : (s.mapFlask f).bmc = s.bmc := rfl
@[simp] theorem State.mapFlask_frags (s : State) (f : Flask → Flask) : (s.mapFlask f).frags = s.frags := rfl
@[simp] theorem State.mapFlask_errs (s : State) (f : Flask → Flask) : (s.mapFlask f).errs = s.errs := rfl
@[simp] theorem State.mapFlask_sec (s : State) (f : Flask → Flask) : (s.mapFlask f).sec = s.sec := rfl
@[simp] theorem State.mapFlask_board (s : State) (f : Flask → Flask) : (s.mapFlask f).board = s.board := rfl

@[simp] theorem State.setBind_pending (s : State) (b : FlaskBind) : (s.setBind b).pending = s.pending := rfl
@[simp] theorem State.setBind_now (s : State) (b : FlaskBind) : (s.setBind b).now = s.now := rfl
@[simp] theorem State.setBind_fresh (s : State) (b : FlaskBind) : (s.setBind b).fresh = s.fresh := rfl
@[simp] theorem State.setBind_lastSet (s : State) (b : FlaskBind) : (s.setBind b).lastSet = s.active := rfl
@[simp] theorem State.setBind_ident (s : State) (b : FlaskBind) : (s.setBind b).ident = s.ident := rfl
@[simp] theorem State.setBind_cores (s : State) (b : FlaskBind) : (s.setBind b).cores = s.cores := rfl
@[simp] theorem State.setBind_hbm (s : State) (b : FlaskBind) : (s.setBind b).hbm = s.hbm := rfl
@[simp] theorem State.setBind_dies (s : State) (b : FlaskBind) : (s.setBind b).dies = s.dies := rfl
@[simp] theorem State.setBind_ports (s : State) (b : FlaskBind) : (s.setBind b).ports = s.ports := rfl
@[simp] theorem State.setBind_red (s : State) (b : FlaskBind) : (s.setBind b).red = s.red := rfl
@[simp] theorem State.setBind_switch (s : State) (b : FlaskBind) : (s.setBind b).switch = s.switch := rfl
@[simp] theorem State.setBind_time (s : State) (b : FlaskBind) : (s.setBind b).time = s.time := rfl
@[simp] theorem State.setBind_epoch (s : State) (b : FlaskBind) : (s.setBind b).epoch = s.epoch := rfl
@[simp] theorem State.setBind_active (s : State) (b : FlaskBind) : (s.setBind b).active = { s.active with bind := b } := rfl
@[simp] theorem State.setBind_shadow (s : State) (b : FlaskBind) : (s.setBind b).shadow = { s.shadow with bind := b } := rfl
@[simp] theorem State.setBind_flask (s : State) (b : FlaskBind) : (s.setBind b).flask = s.flask := rfl
@[simp] theorem State.setBind_power (s : State) (b : FlaskBind) : (s.setBind b).power = s.power := rfl
@[simp] theorem State.setBind_mp (s : State) (b : FlaskBind) : (s.setBind b).mp = s.mp := rfl
@[simp] theorem State.setBind_host (s : State) (b : FlaskBind) : (s.setBind b).host = s.host := rfl
@[simp] theorem State.setBind_boxes (s : State) (b : FlaskBind) : (s.setBind b).boxes = s.boxes := rfl
@[simp] theorem State.setBind_fm (s : State) (b : FlaskBind) : (s.setBind b).fm = s.fm := rfl
@[simp] theorem State.setBind_bmc (s : State) (b : FlaskBind) : (s.setBind b).bmc = s.bmc := rfl
@[simp] theorem State.setBind_frags (s : State) (b : FlaskBind) : (s.setBind b).frags = s.frags := rfl
@[simp] theorem State.setBind_errs (s : State) (b : FlaskBind) : (s.setBind b).errs = s.errs := rfl
@[simp] theorem State.setBind_sec (s : State) (b : FlaskBind) : (s.setBind b).sec = s.sec := rfl
@[simp] theorem State.setBind_board (s : State) (b : FlaskBind) : (s.setBind b).board = s.board := rfl

@[simp] theorem State.setPort_pending (s : State) (p : Fin 48) (f : PortCfg → PortCfg) : (s.setPort p f).pending = s.pending := rfl
@[simp] theorem State.setPort_now (s : State) (p : Fin 48) (f : PortCfg → PortCfg) : (s.setPort p f).now = s.now := rfl
@[simp] theorem State.setPort_fresh (s : State) (p : Fin 48) (f : PortCfg → PortCfg) : (s.setPort p f).fresh = s.fresh := rfl
@[simp] theorem State.setPort_lastSet (s : State) (p : Fin 48) (f : PortCfg → PortCfg) : (s.setPort p f).lastSet = s.active := rfl
@[simp] theorem State.setPort_ident (s : State) (p : Fin 48) (f : PortCfg → PortCfg) : (s.setPort p f).ident = s.ident := rfl
@[simp] theorem State.setPort_cores (s : State) (p : Fin 48) (f : PortCfg → PortCfg) : (s.setPort p f).cores = s.cores := rfl
@[simp] theorem State.setPort_hbm (s : State) (p : Fin 48) (f : PortCfg → PortCfg) : (s.setPort p f).hbm = s.hbm := rfl
@[simp] theorem State.setPort_dies (s : State) (p : Fin 48) (f : PortCfg → PortCfg) : (s.setPort p f).dies = s.dies := rfl
@[simp] theorem State.setPort_ports (s : State) (p : Fin 48) (f : PortCfg → PortCfg) : (s.setPort p f).ports = s.ports := rfl
@[simp] theorem State.setPort_red (s : State) (p : Fin 48) (f : PortCfg → PortCfg) : (s.setPort p f).red = s.red := rfl
@[simp] theorem State.setPort_switch (s : State) (p : Fin 48) (f : PortCfg → PortCfg) : (s.setPort p f).switch = s.switch := rfl
@[simp] theorem State.setPort_time (s : State) (p : Fin 48) (f : PortCfg → PortCfg) : (s.setPort p f).time = s.time := rfl
@[simp] theorem State.setPort_epoch (s : State) (p : Fin 48) (f : PortCfg → PortCfg) : (s.setPort p f).epoch = s.epoch := rfl
@[simp] theorem State.setPort_active (s : State) (p : Fin 48) (f : PortCfg → PortCfg) : (s.setPort p f).active = { s.active with ports := s.active.ports.set p (f s.active.ports[p]) } := rfl
@[simp] theorem State.setPort_shadow (s : State) (p : Fin 48) (f : PortCfg → PortCfg) : (s.setPort p f).shadow = { s.shadow with ports := s.shadow.ports.set p (f s.shadow.ports[p]) } := rfl
@[simp] theorem State.setPort_flask (s : State) (p : Fin 48) (f : PortCfg → PortCfg) : (s.setPort p f).flask = s.flask := rfl
@[simp] theorem State.setPort_power (s : State) (p : Fin 48) (f : PortCfg → PortCfg) : (s.setPort p f).power = s.power := rfl
@[simp] theorem State.setPort_mp (s : State) (p : Fin 48) (f : PortCfg → PortCfg) : (s.setPort p f).mp = s.mp := rfl
@[simp] theorem State.setPort_host (s : State) (p : Fin 48) (f : PortCfg → PortCfg) : (s.setPort p f).host = s.host := rfl
@[simp] theorem State.setPort_boxes (s : State) (p : Fin 48) (f : PortCfg → PortCfg) : (s.setPort p f).boxes = s.boxes := rfl
@[simp] theorem State.setPort_fm (s : State) (p : Fin 48) (f : PortCfg → PortCfg) : (s.setPort p f).fm = s.fm := rfl
@[simp] theorem State.setPort_bmc (s : State) (p : Fin 48) (f : PortCfg → PortCfg) : (s.setPort p f).bmc = s.bmc := rfl
@[simp] theorem State.setPort_frags (s : State) (p : Fin 48) (f : PortCfg → PortCfg) : (s.setPort p f).frags = s.frags := rfl
@[simp] theorem State.setPort_errs (s : State) (p : Fin 48) (f : PortCfg → PortCfg) : (s.setPort p f).errs = s.errs := rfl
@[simp] theorem State.setPort_sec (s : State) (p : Fin 48) (f : PortCfg → PortCfg) : (s.setPort p f).sec = s.sec := rfl
@[simp] theorem State.setPort_board (s : State) (p : Fin 48) (f : PortCfg → PortCfg) : (s.setPort p f).board = s.board := rfl

@[simp] theorem State.mapMap_pending (s : State) (d : Nat) (f : CoreMap → CoreMap) : (s.mapMap d f).pending = s.pending := rfl
@[simp] theorem State.mapMap_now (s : State) (d : Nat) (f : CoreMap → CoreMap) : (s.mapMap d f).now = s.now := rfl
@[simp] theorem State.mapMap_fresh (s : State) (d : Nat) (f : CoreMap → CoreMap) : (s.mapMap d f).fresh = s.fresh := rfl
@[simp] theorem State.mapMap_lastSet (s : State) (d : Nat) (f : CoreMap → CoreMap) : (s.mapMap d f).lastSet = s.active := rfl
@[simp] theorem State.mapMap_ident (s : State) (d : Nat) (f : CoreMap → CoreMap) : (s.mapMap d f).ident = s.ident := rfl
@[simp] theorem State.mapMap_cores (s : State) (d : Nat) (f : CoreMap → CoreMap) : (s.mapMap d f).cores = s.cores := rfl
@[simp] theorem State.mapMap_hbm (s : State) (d : Nat) (f : CoreMap → CoreMap) : (s.mapMap d f).hbm = s.hbm := rfl
@[simp] theorem State.mapMap_dies (s : State) (d : Nat) (f : CoreMap → CoreMap) : (s.mapMap d f).dies = s.dies := rfl
@[simp] theorem State.mapMap_ports (s : State) (d : Nat) (f : CoreMap → CoreMap) : (s.mapMap d f).ports = s.ports := rfl
@[simp] theorem State.mapMap_red (s : State) (d : Nat) (f : CoreMap → CoreMap) : (s.mapMap d f).red = s.red := rfl
@[simp] theorem State.mapMap_switch (s : State) (d : Nat) (f : CoreMap → CoreMap) : (s.mapMap d f).switch = s.switch := rfl
@[simp] theorem State.mapMap_time (s : State) (d : Nat) (f : CoreMap → CoreMap) : (s.mapMap d f).time = s.time := rfl
@[simp] theorem State.mapMap_epoch (s : State) (d : Nat) (f : CoreMap → CoreMap) : (s.mapMap d f).epoch = s.epoch := rfl
@[simp] theorem State.mapMap_flask (s : State) (d : Nat) (f : CoreMap → CoreMap) : (s.mapMap d f).flask = s.flask := rfl
@[simp] theorem State.mapMap_power (s : State) (d : Nat) (f : CoreMap → CoreMap) : (s.mapMap d f).power = s.power := rfl
@[simp] theorem State.mapMap_mp (s : State) (d : Nat) (f : CoreMap → CoreMap) : (s.mapMap d f).mp = s.mp := rfl
@[simp] theorem State.mapMap_host (s : State) (d : Nat) (f : CoreMap → CoreMap) : (s.mapMap d f).host = s.host := rfl
@[simp] theorem State.mapMap_boxes (s : State) (d : Nat) (f : CoreMap → CoreMap) : (s.mapMap d f).boxes = s.boxes := rfl
@[simp] theorem State.mapMap_fm (s : State) (d : Nat) (f : CoreMap → CoreMap) : (s.mapMap d f).fm = s.fm := rfl
@[simp] theorem State.mapMap_bmc (s : State) (d : Nat) (f : CoreMap → CoreMap) : (s.mapMap d f).bmc = s.bmc := rfl
@[simp] theorem State.mapMap_frags (s : State) (d : Nat) (f : CoreMap → CoreMap) : (s.mapMap d f).frags = s.frags := rfl
@[simp] theorem State.mapMap_errs (s : State) (d : Nat) (f : CoreMap → CoreMap) : (s.mapMap d f).errs = s.errs := rfl
@[simp] theorem State.mapMap_sec (s : State) (d : Nat) (f : CoreMap → CoreMap) : (s.mapMap d f).sec = s.sec := rfl
@[simp] theorem State.mapMap_board (s : State) (d : Nat) (f : CoreMap → CoreMap) : (s.mapMap d f).board = s.board := rfl

@[simp] theorem State.mapBoard_pending (s : State) (f : Board → Board) : (s.mapBoard f).pending = s.pending := rfl
@[simp] theorem State.mapBoard_now (s : State) (f : Board → Board) : (s.mapBoard f).now = s.now := rfl
@[simp] theorem State.mapBoard_fresh (s : State) (f : Board → Board) : (s.mapBoard f).fresh = s.fresh := rfl
@[simp] theorem State.mapBoard_lastSet (s : State) (f : Board → Board) : (s.mapBoard f).lastSet = s.lastSet := rfl
@[simp] theorem State.mapBoard_ident (s : State) (f : Board → Board) : (s.mapBoard f).ident = s.ident := rfl
@[simp] theorem State.mapBoard_cores (s : State) (f : Board → Board) : (s.mapBoard f).cores = s.cores := rfl
@[simp] theorem State.mapBoard_hbm (s : State) (f : Board → Board) : (s.mapBoard f).hbm = s.hbm := rfl
@[simp] theorem State.mapBoard_dies (s : State) (f : Board → Board) : (s.mapBoard f).dies = s.dies := rfl
@[simp] theorem State.mapBoard_ports (s : State) (f : Board → Board) : (s.mapBoard f).ports = s.ports := rfl
@[simp] theorem State.mapBoard_red (s : State) (f : Board → Board) : (s.mapBoard f).red = s.red := rfl
@[simp] theorem State.mapBoard_switch (s : State) (f : Board → Board) : (s.mapBoard f).switch = s.switch := rfl
@[simp] theorem State.mapBoard_time (s : State) (f : Board → Board) : (s.mapBoard f).time = s.time := rfl
@[simp] theorem State.mapBoard_epoch (s : State) (f : Board → Board) : (s.mapBoard f).epoch = s.epoch := rfl
@[simp] theorem State.mapBoard_active (s : State) (f : Board → Board) : (s.mapBoard f).active = s.active := rfl
@[simp] theorem State.mapBoard_shadow (s : State) (f : Board → Board) : (s.mapBoard f).shadow = s.shadow := rfl
@[simp] theorem State.mapBoard_flask (s : State) (f : Board → Board) : (s.mapBoard f).flask = s.flask := rfl
@[simp] theorem State.mapBoard_power (s : State) (f : Board → Board) : (s.mapBoard f).power = s.power := rfl
@[simp] theorem State.mapBoard_mp (s : State) (f : Board → Board) : (s.mapBoard f).mp = s.mp := rfl
@[simp] theorem State.mapBoard_host (s : State) (f : Board → Board) : (s.mapBoard f).host = s.host := rfl
@[simp] theorem State.mapBoard_boxes (s : State) (f : Board → Board) : (s.mapBoard f).boxes = s.boxes := rfl
@[simp] theorem State.mapBoard_fm (s : State) (f : Board → Board) : (s.mapBoard f).fm = s.fm := rfl
@[simp] theorem State.mapBoard_bmc (s : State) (f : Board → Board) : (s.mapBoard f).bmc = s.bmc := rfl
@[simp] theorem State.mapBoard_frags (s : State) (f : Board → Board) : (s.mapBoard f).frags = s.frags := rfl
@[simp] theorem State.mapBoard_errs (s : State) (f : Board → Board) : (s.mapBoard f).errs = s.errs := rfl
@[simp] theorem State.mapBoard_sec (s : State) (f : Board → Board) : (s.mapBoard f).sec = s.sec := rfl
@[simp] theorem State.mapBoard_board (s : State) (f : Board → Board) : (s.mapBoard f).board = f s.board := rfl

@[simp] theorem State.mapImages_pending (s : State) (f : Images → Images) : (s.mapImages f).pending = s.pending := rfl
@[simp] theorem State.mapImages_now (s : State) (f : Images → Images) : (s.mapImages f).now = s.now := rfl
@[simp] theorem State.mapImages_fresh (s : State) (f : Images → Images) : (s.mapImages f).fresh = s.fresh := rfl
@[simp] theorem State.mapImages_lastSet (s : State) (f : Images → Images) : (s.mapImages f).lastSet = s.lastSet := rfl
@[simp] theorem State.mapImages_ident (s : State) (f : Images → Images) : (s.mapImages f).ident = s.ident := rfl
@[simp] theorem State.mapImages_cores (s : State) (f : Images → Images) : (s.mapImages f).cores = s.cores := rfl
@[simp] theorem State.mapImages_hbm (s : State) (f : Images → Images) : (s.mapImages f).hbm = s.hbm := rfl
@[simp] theorem State.mapImages_dies (s : State) (f : Images → Images) : (s.mapImages f).dies = s.dies := rfl
@[simp] theorem State.mapImages_ports (s : State) (f : Images → Images) : (s.mapImages f).ports = s.ports := rfl
@[simp] theorem State.mapImages_red (s : State) (f : Images → Images) : (s.mapImages f).red = s.red := rfl
@[simp] theorem State.mapImages_switch (s : State) (f : Images → Images) : (s.mapImages f).switch = s.switch := rfl
@[simp] theorem State.mapImages_time (s : State) (f : Images → Images) : (s.mapImages f).time = s.time := rfl
@[simp] theorem State.mapImages_epoch (s : State) (f : Images → Images) : (s.mapImages f).epoch = s.epoch := rfl
@[simp] theorem State.mapImages_active (s : State) (f : Images → Images) : (s.mapImages f).active = s.active := rfl
@[simp] theorem State.mapImages_shadow (s : State) (f : Images → Images) : (s.mapImages f).shadow = s.shadow := rfl
@[simp] theorem State.mapImages_flask (s : State) (f : Images → Images) : (s.mapImages f).flask = s.flask := rfl
@[simp] theorem State.mapImages_power (s : State) (f : Images → Images) : (s.mapImages f).power = s.power := rfl
@[simp] theorem State.mapImages_mp (s : State) (f : Images → Images) : (s.mapImages f).mp = s.mp := rfl
@[simp] theorem State.mapImages_host (s : State) (f : Images → Images) : (s.mapImages f).host = s.host := rfl
@[simp] theorem State.mapImages_boxes (s : State) (f : Images → Images) : (s.mapImages f).boxes = s.boxes := rfl
@[simp] theorem State.mapImages_fm (s : State) (f : Images → Images) : (s.mapImages f).fm = s.fm := rfl
@[simp] theorem State.mapImages_bmc (s : State) (f : Images → Images) : (s.mapImages f).bmc = s.bmc := rfl
@[simp] theorem State.mapImages_frags (s : State) (f : Images → Images) : (s.mapImages f).frags = s.frags := rfl
@[simp] theorem State.mapImages_errs (s : State) (f : Images → Images) : (s.mapImages f).errs = s.errs := rfl
@[simp] theorem State.mapImages_sec (s : State) (f : Images → Images) : (s.mapImages f).sec = { s.sec with images := f s.sec.images } := rfl
@[simp] theorem State.mapImages_board (s : State) (f : Images → Images) : (s.mapImages f).board = s.board := rfl

@[simp] theorem State.mapUpd_pending (s : State) (f : Security → Security) : (s.mapUpd f).pending = s.pending := rfl
@[simp] theorem State.mapUpd_now (s : State) (f : Security → Security) : (s.mapUpd f).now = s.now := rfl
@[simp] theorem State.mapUpd_fresh (s : State) (f : Security → Security) : (s.mapUpd f).fresh = s.fresh := rfl
@[simp] theorem State.mapUpd_lastSet (s : State) (f : Security → Security) : (s.mapUpd f).lastSet = s.lastSet := rfl
@[simp] theorem State.mapUpd_ident (s : State) (f : Security → Security) : (s.mapUpd f).ident = s.ident := rfl
@[simp] theorem State.mapUpd_cores (s : State) (f : Security → Security) : (s.mapUpd f).cores = s.cores := rfl
@[simp] theorem State.mapUpd_hbm (s : State) (f : Security → Security) : (s.mapUpd f).hbm = s.hbm := rfl
@[simp] theorem State.mapUpd_dies (s : State) (f : Security → Security) : (s.mapUpd f).dies = s.dies := rfl
@[simp] theorem State.mapUpd_ports (s : State) (f : Security → Security) : (s.mapUpd f).ports = s.ports := rfl
@[simp] theorem State.mapUpd_red (s : State) (f : Security → Security) : (s.mapUpd f).red = s.red := rfl
@[simp] theorem State.mapUpd_switch (s : State) (f : Security → Security) : (s.mapUpd f).switch = s.switch := rfl
@[simp] theorem State.mapUpd_time (s : State) (f : Security → Security) : (s.mapUpd f).time = s.time := rfl
@[simp] theorem State.mapUpd_epoch (s : State) (f : Security → Security) : (s.mapUpd f).epoch = s.epoch := rfl
@[simp] theorem State.mapUpd_active (s : State) (f : Security → Security) : (s.mapUpd f).active = s.active := rfl
@[simp] theorem State.mapUpd_shadow (s : State) (f : Security → Security) : (s.mapUpd f).shadow = s.shadow := rfl
@[simp] theorem State.mapUpd_flask (s : State) (f : Security → Security) : (s.mapUpd f).flask = s.flask := rfl
@[simp] theorem State.mapUpd_power (s : State) (f : Security → Security) : (s.mapUpd f).power = s.power := rfl
@[simp] theorem State.mapUpd_mp (s : State) (f : Security → Security) : (s.mapUpd f).mp = s.mp := rfl
@[simp] theorem State.mapUpd_host (s : State) (f : Security → Security) : (s.mapUpd f).host = s.host := rfl
@[simp] theorem State.mapUpd_boxes (s : State) (f : Security → Security) : (s.mapUpd f).boxes = s.boxes := rfl
@[simp] theorem State.mapUpd_fm (s : State) (f : Security → Security) : (s.mapUpd f).fm = s.fm := rfl
@[simp] theorem State.mapUpd_bmc (s : State) (f : Security → Security) : (s.mapUpd f).bmc = s.bmc := rfl
@[simp] theorem State.mapUpd_frags (s : State) (f : Security → Security) : (s.mapUpd f).frags = s.frags := rfl
@[simp] theorem State.mapUpd_errs (s : State) (f : Security → Security) : (s.mapUpd f).errs = s.errs := rfl
@[simp] theorem State.mapUpd_sec (s : State) (f : Security → Security) : (s.mapUpd f).sec = f s.sec := rfl
@[simp] theorem State.mapUpd_board (s : State) (f : Security → Security) : (s.mapUpd f).board = s.board := rfl

@[simp] theorem State.pldm_pending (s : State) (out : List Byte) : (s.pldm out).pending = s.pending := rfl
@[simp] theorem State.pldm_now (s : State) (out : List Byte) : (s.pldm out).now = s.now := rfl
@[simp] theorem State.pldm_fresh (s : State) (out : List Byte) : (s.pldm out).fresh = s.fresh := rfl
@[simp] theorem State.pldm_lastSet (s : State) (out : List Byte) : (s.pldm out).lastSet = s.lastSet := rfl
@[simp] theorem State.pldm_ident (s : State) (out : List Byte) : (s.pldm out).ident = s.ident := rfl
@[simp] theorem State.pldm_cores (s : State) (out : List Byte) : (s.pldm out).cores = s.cores := rfl
@[simp] theorem State.pldm_hbm (s : State) (out : List Byte) : (s.pldm out).hbm = s.hbm := rfl
@[simp] theorem State.pldm_dies (s : State) (out : List Byte) : (s.pldm out).dies = s.dies := rfl
@[simp] theorem State.pldm_ports (s : State) (out : List Byte) : (s.pldm out).ports = s.ports := rfl
@[simp] theorem State.pldm_red (s : State) (out : List Byte) : (s.pldm out).red = s.red := rfl
@[simp] theorem State.pldm_switch (s : State) (out : List Byte) : (s.pldm out).switch = s.switch := rfl
@[simp] theorem State.pldm_time (s : State) (out : List Byte) : (s.pldm out).time = s.time := rfl
@[simp] theorem State.pldm_epoch (s : State) (out : List Byte) : (s.pldm out).epoch = s.epoch := rfl
@[simp] theorem State.pldm_active (s : State) (out : List Byte) : (s.pldm out).active = s.active := rfl
@[simp] theorem State.pldm_shadow (s : State) (out : List Byte) : (s.pldm out).shadow = s.shadow := rfl
@[simp] theorem State.pldm_flask (s : State) (out : List Byte) : (s.pldm out).flask = s.flask := rfl
@[simp] theorem State.pldm_power (s : State) (out : List Byte) : (s.pldm out).power = s.power := rfl
@[simp] theorem State.pldm_mp (s : State) (out : List Byte) : (s.pldm out).mp = s.mp := rfl
@[simp] theorem State.pldm_host (s : State) (out : List Byte) : (s.pldm out).host = s.host := rfl
@[simp] theorem State.pldm_boxes (s : State) (out : List Byte) : (s.pldm out).boxes = s.boxes := rfl
@[simp] theorem State.pldm_fm (s : State) (out : List Byte) : (s.pldm out).fm = s.fm := rfl
@[simp] theorem State.pldm_bmc (s : State) (out : List Byte) : (s.pldm out).bmc = s.bmc := rfl
@[simp] theorem State.pldm_frags (s : State) (out : List Byte) : (s.pldm out).frags = s.frags := rfl
@[simp] theorem State.pldm_errs (s : State) (out : List Byte) : (s.pldm out).errs = s.errs := rfl
@[simp] theorem State.pldm_sec (s : State) (out : List Byte) : (s.pldm out).sec = { s.sec with pldmOut := out } := rfl
@[simp] theorem State.pldm_board (s : State) (out : List Byte) : (s.pldm out).board = s.board := rfl

@[simp] theorem State.spdmSet_pending (s : State) (tr : Fin 3) (st : SpdmState) (out : List Byte) : (s.spdmSet tr st out).pending = s.pending := rfl
@[simp] theorem State.spdmSet_now (s : State) (tr : Fin 3) (st : SpdmState) (out : List Byte) : (s.spdmSet tr st out).now = s.now := rfl
@[simp] theorem State.spdmSet_fresh (s : State) (tr : Fin 3) (st : SpdmState) (out : List Byte) : (s.spdmSet tr st out).fresh = s.fresh := rfl
@[simp] theorem State.spdmSet_lastSet (s : State) (tr : Fin 3) (st : SpdmState) (out : List Byte) : (s.spdmSet tr st out).lastSet = s.lastSet := rfl
@[simp] theorem State.spdmSet_ident (s : State) (tr : Fin 3) (st : SpdmState) (out : List Byte) : (s.spdmSet tr st out).ident = s.ident := rfl
@[simp] theorem State.spdmSet_cores (s : State) (tr : Fin 3) (st : SpdmState) (out : List Byte) : (s.spdmSet tr st out).cores = s.cores := rfl
@[simp] theorem State.spdmSet_hbm (s : State) (tr : Fin 3) (st : SpdmState) (out : List Byte) : (s.spdmSet tr st out).hbm = s.hbm := rfl
@[simp] theorem State.spdmSet_dies (s : State) (tr : Fin 3) (st : SpdmState) (out : List Byte) : (s.spdmSet tr st out).dies = s.dies := rfl
@[simp] theorem State.spdmSet_ports (s : State) (tr : Fin 3) (st : SpdmState) (out : List Byte) : (s.spdmSet tr st out).ports = s.ports := rfl
@[simp] theorem State.spdmSet_red (s : State) (tr : Fin 3) (st : SpdmState) (out : List Byte) : (s.spdmSet tr st out).red = s.red := rfl
@[simp] theorem State.spdmSet_switch (s : State) (tr : Fin 3) (st : SpdmState) (out : List Byte) : (s.spdmSet tr st out).switch = s.switch := rfl
@[simp] theorem State.spdmSet_time (s : State) (tr : Fin 3) (st : SpdmState) (out : List Byte) : (s.spdmSet tr st out).time = s.time := rfl
@[simp] theorem State.spdmSet_epoch (s : State) (tr : Fin 3) (st : SpdmState) (out : List Byte) : (s.spdmSet tr st out).epoch = s.epoch := rfl
@[simp] theorem State.spdmSet_active (s : State) (tr : Fin 3) (st : SpdmState) (out : List Byte) : (s.spdmSet tr st out).active = s.active := rfl
@[simp] theorem State.spdmSet_shadow (s : State) (tr : Fin 3) (st : SpdmState) (out : List Byte) : (s.spdmSet tr st out).shadow = s.shadow := rfl
@[simp] theorem State.spdmSet_flask (s : State) (tr : Fin 3) (st : SpdmState) (out : List Byte) : (s.spdmSet tr st out).flask = s.flask := rfl
@[simp] theorem State.spdmSet_power (s : State) (tr : Fin 3) (st : SpdmState) (out : List Byte) : (s.spdmSet tr st out).power = s.power := rfl
@[simp] theorem State.spdmSet_mp (s : State) (tr : Fin 3) (st : SpdmState) (out : List Byte) : (s.spdmSet tr st out).mp = s.mp := rfl
@[simp] theorem State.spdmSet_host (s : State) (tr : Fin 3) (st : SpdmState) (out : List Byte) : (s.spdmSet tr st out).host = s.host := rfl
@[simp] theorem State.spdmSet_boxes (s : State) (tr : Fin 3) (st : SpdmState) (out : List Byte) : (s.spdmSet tr st out).boxes = s.boxes := rfl
@[simp] theorem State.spdmSet_fm (s : State) (tr : Fin 3) (st : SpdmState) (out : List Byte) : (s.spdmSet tr st out).fm = s.fm := rfl
@[simp] theorem State.spdmSet_bmc (s : State) (tr : Fin 3) (st : SpdmState) (out : List Byte) : (s.spdmSet tr st out).bmc = s.bmc := rfl
@[simp] theorem State.spdmSet_frags (s : State) (tr : Fin 3) (st : SpdmState) (out : List Byte) : (s.spdmSet tr st out).frags = s.frags := rfl
@[simp] theorem State.spdmSet_errs (s : State) (tr : Fin 3) (st : SpdmState) (out : List Byte) : (s.spdmSet tr st out).errs = s.errs := rfl
@[simp] theorem State.spdmSet_sec (s : State) (tr : Fin 3) (st : SpdmState) (out : List Byte) : (s.spdmSet tr st out).sec = { s.sec with spdm := s.sec.spdm.set tr st, spdmOut := s.sec.spdmOut.set tr out } := rfl
@[simp] theorem State.spdmSet_board (s : State) (tr : Fin 3) (st : SpdmState) (out : List Byte) : (s.spdmSet tr st out).board = s.board := rfl

@[simp] theorem State.mapPower_pending (s : State) (d : Fin 40) (f : DiePower → DiePower) : (s.mapPower d f).pending = s.pending := rfl
@[simp] theorem State.mapPower_now (s : State) (d : Fin 40) (f : DiePower → DiePower) : (s.mapPower d f).now = s.now := rfl
@[simp] theorem State.mapPower_fresh (s : State) (d : Fin 40) (f : DiePower → DiePower) : (s.mapPower d f).fresh = s.fresh := rfl
@[simp] theorem State.mapPower_lastSet (s : State) (d : Fin 40) (f : DiePower → DiePower) : (s.mapPower d f).lastSet = s.lastSet := rfl
@[simp] theorem State.mapPower_ident (s : State) (d : Fin 40) (f : DiePower → DiePower) : (s.mapPower d f).ident = s.ident := rfl
@[simp] theorem State.mapPower_cores (s : State) (d : Fin 40) (f : DiePower → DiePower) : (s.mapPower d f).cores = s.cores := rfl
@[simp] theorem State.mapPower_hbm (s : State) (d : Fin 40) (f : DiePower → DiePower) : (s.mapPower d f).hbm = s.hbm := rfl
@[simp] theorem State.mapPower_dies (s : State) (d : Fin 40) (f : DiePower → DiePower) : (s.mapPower d f).dies = s.dies := rfl
@[simp] theorem State.mapPower_ports (s : State) (d : Fin 40) (f : DiePower → DiePower) : (s.mapPower d f).ports = s.ports := rfl
@[simp] theorem State.mapPower_red (s : State) (d : Fin 40) (f : DiePower → DiePower) : (s.mapPower d f).red = s.red := rfl
@[simp] theorem State.mapPower_switch (s : State) (d : Fin 40) (f : DiePower → DiePower) : (s.mapPower d f).switch = s.switch := rfl
@[simp] theorem State.mapPower_time (s : State) (d : Fin 40) (f : DiePower → DiePower) : (s.mapPower d f).time = s.time := rfl
@[simp] theorem State.mapPower_epoch (s : State) (d : Fin 40) (f : DiePower → DiePower) : (s.mapPower d f).epoch = s.epoch := rfl
@[simp] theorem State.mapPower_active (s : State) (d : Fin 40) (f : DiePower → DiePower) : (s.mapPower d f).active = s.active := rfl
@[simp] theorem State.mapPower_shadow (s : State) (d : Fin 40) (f : DiePower → DiePower) : (s.mapPower d f).shadow = s.shadow := rfl
@[simp] theorem State.mapPower_flask (s : State) (d : Fin 40) (f : DiePower → DiePower) : (s.mapPower d f).flask = s.flask := rfl
@[simp] theorem State.mapPower_power (s : State) (d : Fin 40) (f : DiePower → DiePower) : (s.mapPower d f).power = { s.power with dies := s.power.dies.set d (f s.power.dies[d]) } := rfl
@[simp] theorem State.mapPower_mp (s : State) (d : Fin 40) (f : DiePower → DiePower) : (s.mapPower d f).mp = s.mp := rfl
@[simp] theorem State.mapPower_host (s : State) (d : Fin 40) (f : DiePower → DiePower) : (s.mapPower d f).host = s.host := rfl
@[simp] theorem State.mapPower_boxes (s : State) (d : Fin 40) (f : DiePower → DiePower) : (s.mapPower d f).boxes = s.boxes := rfl
@[simp] theorem State.mapPower_fm (s : State) (d : Fin 40) (f : DiePower → DiePower) : (s.mapPower d f).fm = s.fm := rfl
@[simp] theorem State.mapPower_bmc (s : State) (d : Fin 40) (f : DiePower → DiePower) : (s.mapPower d f).bmc = s.bmc := rfl
@[simp] theorem State.mapPower_frags (s : State) (d : Fin 40) (f : DiePower → DiePower) : (s.mapPower d f).frags = s.frags := rfl
@[simp] theorem State.mapPower_errs (s : State) (d : Fin 40) (f : DiePower → DiePower) : (s.mapPower d f).errs = s.errs := rfl
@[simp] theorem State.mapPower_sec (s : State) (d : Fin 40) (f : DiePower → DiePower) : (s.mapPower d f).sec = s.sec := rfl
@[simp] theorem State.mapPower_board (s : State) (d : Fin 40) (f : DiePower → DiePower) : (s.mapPower d f).board = s.board := rfl

@[simp] theorem State.hbmPut_pending (s : State) (a : Nat) (x : Payload) : (s.hbmPut a x).pending = s.pending := rfl
@[simp] theorem State.hbmPut_now (s : State) (a : Nat) (x : Payload) : (s.hbmPut a x).now = s.now := rfl
@[simp] theorem State.hbmPut_fresh (s : State) (a : Nat) (x : Payload) : (s.hbmPut a x).fresh = s.fresh := rfl
@[simp] theorem State.hbmPut_lastSet (s : State) (a : Nat) (x : Payload) : (s.hbmPut a x).lastSet = s.lastSet := rfl
@[simp] theorem State.hbmPut_ident (s : State) (a : Nat) (x : Payload) : (s.hbmPut a x).ident = s.ident := rfl
@[simp] theorem State.hbmPut_cores (s : State) (a : Nat) (x : Payload) : (s.hbmPut a x).cores = s.cores := rfl
@[simp] theorem State.hbmPut_hbm (s : State) (a : Nat) (x : Payload) : (s.hbmPut a x).hbm = { s.hbm with mem := memWriteN s.hbm.mem a x.bytes, poison := poisonPut s.hbm.poison a x } := rfl
@[simp] theorem State.hbmPut_dies (s : State) (a : Nat) (x : Payload) : (s.hbmPut a x).dies = s.dies := rfl
@[simp] theorem State.hbmPut_ports (s : State) (a : Nat) (x : Payload) : (s.hbmPut a x).ports = s.ports := rfl
@[simp] theorem State.hbmPut_red (s : State) (a : Nat) (x : Payload) : (s.hbmPut a x).red = s.red := rfl
@[simp] theorem State.hbmPut_switch (s : State) (a : Nat) (x : Payload) : (s.hbmPut a x).switch = s.switch := rfl
@[simp] theorem State.hbmPut_time (s : State) (a : Nat) (x : Payload) : (s.hbmPut a x).time = s.time := rfl
@[simp] theorem State.hbmPut_epoch (s : State) (a : Nat) (x : Payload) : (s.hbmPut a x).epoch = s.epoch := rfl
@[simp] theorem State.hbmPut_active (s : State) (a : Nat) (x : Payload) : (s.hbmPut a x).active = s.active := rfl
@[simp] theorem State.hbmPut_shadow (s : State) (a : Nat) (x : Payload) : (s.hbmPut a x).shadow = s.shadow := rfl
@[simp] theorem State.hbmPut_flask (s : State) (a : Nat) (x : Payload) : (s.hbmPut a x).flask = s.flask := rfl
@[simp] theorem State.hbmPut_power (s : State) (a : Nat) (x : Payload) : (s.hbmPut a x).power = s.power := rfl
@[simp] theorem State.hbmPut_mp (s : State) (a : Nat) (x : Payload) : (s.hbmPut a x).mp = s.mp := rfl
@[simp] theorem State.hbmPut_host (s : State) (a : Nat) (x : Payload) : (s.hbmPut a x).host = s.host := rfl
@[simp] theorem State.hbmPut_boxes (s : State) (a : Nat) (x : Payload) : (s.hbmPut a x).boxes = s.boxes := rfl
@[simp] theorem State.hbmPut_fm (s : State) (a : Nat) (x : Payload) : (s.hbmPut a x).fm = s.fm := rfl
@[simp] theorem State.hbmPut_bmc (s : State) (a : Nat) (x : Payload) : (s.hbmPut a x).bmc = s.bmc := rfl
@[simp] theorem State.hbmPut_frags (s : State) (a : Nat) (x : Payload) : (s.hbmPut a x).frags = s.frags := rfl
@[simp] theorem State.hbmPut_errs (s : State) (a : Nat) (x : Payload) : (s.hbmPut a x).errs = s.errs := rfl
@[simp] theorem State.hbmPut_sec (s : State) (a : Nat) (x : Payload) : (s.hbmPut a x).sec = s.sec := rfl
@[simp] theorem State.hbmPut_board (s : State) (a : Nat) (x : Payload) : (s.hbmPut a x).board = s.board := rfl

@[simp] theorem State.addFettle_pending (s : State) (r : FettleRun) : (s.addFettle r).pending = s.pending := rfl
@[simp] theorem State.addFettle_now (s : State) (r : FettleRun) : (s.addFettle r).now = s.now := rfl
@[simp] theorem State.addFettle_fresh (s : State) (r : FettleRun) : (s.addFettle r).fresh = s.fresh := rfl
@[simp] theorem State.addFettle_lastSet (s : State) (r : FettleRun) : (s.addFettle r).lastSet = s.lastSet := rfl
@[simp] theorem State.addFettle_ident (s : State) (r : FettleRun) : (s.addFettle r).ident = s.ident := rfl
@[simp] theorem State.addFettle_hbm (s : State) (r : FettleRun) : (s.addFettle r).hbm = s.hbm := rfl
@[simp] theorem State.addFettle_dies (s : State) (r : FettleRun) : (s.addFettle r).dies = s.dies := rfl
@[simp] theorem State.addFettle_ports (s : State) (r : FettleRun) : (s.addFettle r).ports = s.ports := rfl
@[simp] theorem State.addFettle_red (s : State) (r : FettleRun) : (s.addFettle r).red = s.red := rfl
@[simp] theorem State.addFettle_switch (s : State) (r : FettleRun) : (s.addFettle r).switch = s.switch := rfl
@[simp] theorem State.addFettle_time (s : State) (r : FettleRun) : (s.addFettle r).time = s.time := rfl
@[simp] theorem State.addFettle_epoch (s : State) (r : FettleRun) : (s.addFettle r).epoch = s.epoch := rfl
@[simp] theorem State.addFettle_active (s : State) (r : FettleRun) : (s.addFettle r).active = s.active := rfl
@[simp] theorem State.addFettle_shadow (s : State) (r : FettleRun) : (s.addFettle r).shadow = s.shadow := rfl
@[simp] theorem State.addFettle_flask (s : State) (r : FettleRun) : (s.addFettle r).flask = s.flask := rfl
@[simp] theorem State.addFettle_power (s : State) (r : FettleRun) : (s.addFettle r).power = s.power := rfl
@[simp] theorem State.addFettle_mp (s : State) (r : FettleRun) : (s.addFettle r).mp = { s.mp with fettles := s.mp.fettles ++ [r] } := rfl
@[simp] theorem State.addFettle_host (s : State) (r : FettleRun) : (s.addFettle r).host = s.host := rfl
@[simp] theorem State.addFettle_boxes (s : State) (r : FettleRun) : (s.addFettle r).boxes = s.boxes := rfl
@[simp] theorem State.addFettle_fm (s : State) (r : FettleRun) : (s.addFettle r).fm = s.fm := rfl
@[simp] theorem State.addFettle_bmc (s : State) (r : FettleRun) : (s.addFettle r).bmc = s.bmc := rfl
@[simp] theorem State.addFettle_frags (s : State) (r : FettleRun) : (s.addFettle r).frags = s.frags := rfl
@[simp] theorem State.addFettle_errs (s : State) (r : FettleRun) : (s.addFettle r).errs = s.errs := rfl
@[simp] theorem State.addFettle_sec (s : State) (r : FettleRun) : (s.addFettle r).sec = s.sec := rfl

@[simp] theorem State.resetSoon_pending (s : State) : (s.resetSoon).pending = s.pending := rfl
@[simp] theorem State.resetSoon_now (s : State) : (s.resetSoon).now = s.now := rfl
@[simp] theorem State.resetSoon_fresh (s : State) : (s.resetSoon).fresh = s.fresh := rfl
@[simp] theorem State.resetSoon_lastSet (s : State) : (s.resetSoon).lastSet = s.lastSet := rfl
@[simp] theorem State.resetSoon_ident (s : State) : (s.resetSoon).ident = s.ident := rfl
@[simp] theorem State.resetSoon_cores (s : State) : (s.resetSoon).cores = s.cores := rfl
@[simp] theorem State.resetSoon_hbm (s : State) : (s.resetSoon).hbm = s.hbm := rfl
@[simp] theorem State.resetSoon_dies (s : State) : (s.resetSoon).dies = s.dies := rfl
@[simp] theorem State.resetSoon_ports (s : State) : (s.resetSoon).ports = s.ports := rfl
@[simp] theorem State.resetSoon_red (s : State) : (s.resetSoon).red = s.red := rfl
@[simp] theorem State.resetSoon_switch (s : State) : (s.resetSoon).switch = s.switch := rfl
@[simp] theorem State.resetSoon_time (s : State) : (s.resetSoon).time = s.time := rfl
@[simp] theorem State.resetSoon_epoch (s : State) : (s.resetSoon).epoch = s.epoch := rfl
@[simp] theorem State.resetSoon_active (s : State) : (s.resetSoon).active = s.active := rfl
@[simp] theorem State.resetSoon_shadow (s : State) : (s.resetSoon).shadow = s.shadow := rfl
@[simp] theorem State.resetSoon_flask (s : State) : (s.resetSoon).flask = s.flask := rfl
@[simp] theorem State.resetSoon_power (s : State) : (s.resetSoon).power = s.power := rfl
@[simp] theorem State.resetSoon_mp (s : State) : (s.resetSoon).mp = { s.mp with resetAt := some (s.now + 10 ^ 8) } := rfl
@[simp] theorem State.resetSoon_host (s : State) : (s.resetSoon).host = s.host := rfl
@[simp] theorem State.resetSoon_boxes (s : State) : (s.resetSoon).boxes = s.boxes := rfl
@[simp] theorem State.resetSoon_fm (s : State) : (s.resetSoon).fm = s.fm := rfl
@[simp] theorem State.resetSoon_bmc (s : State) : (s.resetSoon).bmc = s.bmc := rfl
@[simp] theorem State.resetSoon_frags (s : State) : (s.resetSoon).frags = s.frags := rfl
@[simp] theorem State.resetSoon_errs (s : State) : (s.resetSoon).errs = s.errs := rfl
@[simp] theorem State.resetSoon_sec (s : State) : (s.resetSoon).sec = s.sec := rfl
@[simp] theorem State.resetSoon_board (s : State) : (s.resetSoon).board = s.board := rfl

@[simp] theorem State.dropMgmt_pending (s : State) : (s.dropMgmt).pending = s.pending := rfl
@[simp] theorem State.dropMgmt_now (s : State) : (s.dropMgmt).now = s.now := rfl
@[simp] theorem State.dropMgmt_fresh (s : State) : (s.dropMgmt).fresh = s.fresh := rfl
@[simp] theorem State.dropMgmt_lastSet (s : State) : (s.dropMgmt).lastSet = s.lastSet := rfl
@[simp] theorem State.dropMgmt_ident (s : State) : (s.dropMgmt).ident = s.ident := rfl
@[simp] theorem State.dropMgmt_cores (s : State) : (s.dropMgmt).cores = s.cores := rfl
@[simp] theorem State.dropMgmt_hbm (s : State) : (s.dropMgmt).hbm = s.hbm := rfl
@[simp] theorem State.dropMgmt_dies (s : State) : (s.dropMgmt).dies = s.dies := rfl
@[simp] theorem State.dropMgmt_ports (s : State) : (s.dropMgmt).ports = s.ports := rfl
@[simp] theorem State.dropMgmt_red (s : State) : (s.dropMgmt).red = s.red := rfl
@[simp] theorem State.dropMgmt_switch (s : State) : (s.dropMgmt).switch = { s.switch with mgmtdrop := bump s.switch.mgmtdrop } := rfl
@[simp] theorem State.dropMgmt_time (s : State) : (s.dropMgmt).time = s.time := rfl
@[simp] theorem State.dropMgmt_epoch (s : State) : (s.dropMgmt).epoch = s.epoch := rfl
@[simp] theorem State.dropMgmt_active (s : State) : (s.dropMgmt).active = s.active := rfl
@[simp] theorem State.dropMgmt_shadow (s : State) : (s.dropMgmt).shadow = s.shadow := rfl
@[simp] theorem State.dropMgmt_flask (s : State) : (s.dropMgmt).flask = s.flask := rfl
@[simp] theorem State.dropMgmt_power (s : State) : (s.dropMgmt).power = s.power := rfl
@[simp] theorem State.dropMgmt_mp (s : State) : (s.dropMgmt).mp = s.mp := rfl
@[simp] theorem State.dropMgmt_host (s : State) : (s.dropMgmt).host = s.host := rfl
@[simp] theorem State.dropMgmt_boxes (s : State) : (s.dropMgmt).boxes = s.boxes := rfl
@[simp] theorem State.dropMgmt_fm (s : State) : (s.dropMgmt).fm = s.fm := rfl
@[simp] theorem State.dropMgmt_bmc (s : State) : (s.dropMgmt).bmc = s.bmc := rfl
@[simp] theorem State.dropMgmt_frags (s : State) : (s.dropMgmt).frags = s.frags := rfl
@[simp] theorem State.dropMgmt_errs (s : State) : (s.dropMgmt).errs = s.errs := rfl
@[simp] theorem State.dropMgmt_sec (s : State) : (s.dropMgmt).sec = s.sec := rfl
@[simp] theorem State.dropMgmt_board (s : State) : (s.dropMgmt).board = s.board := rfl

/-! ### One core -/

@[simp] theorem Core.mapTh_threads (c : Core) (t : Fin 4) (f : Thread → Thread) : (c.mapTh t f).threads = c.threads.set t (f c.threads[t]) := rfl
@[simp] theorem Core.mapTh_spm (c : Core) (t : Fin 4) (f : Thread → Thread) : (c.mapTh t f).spm = c.spm := rfl
@[simp] theorem Core.mapTh_ve (c : Core) (t : Fin 4) (f : Thread → Thread) : (c.mapTh t f).ve = c.ve := rfl
@[simp] theorem Core.mapTh_me (c : Core) (t : Fin 4) (f : Thread → Thread) : (c.mapTh t f).me = c.me := rfl
@[simp] theorem Core.mapTh_de (c : Core) (t : Fin 4) (f : Thread → Thread) : (c.mapTh t f).de = c.de := rfl
@[simp] theorem Core.mapTh_runners (c : Core) (t : Fin 4) (f : Thread → Thread) : (c.mapTh t f).runners = c.runners := rfl
@[simp] theorem Core.mapTh_events (c : Core) (t : Fin 4) (f : Thread → Thread) : (c.mapTh t f).events = c.events := rfl
@[simp] theorem Core.mapTh_fpflags (c : Core) (t : Fin 4) (f : Thread → Thread) : (c.mapTh t f).fpflags = c.fpflags := rfl
@[simp] theorem Core.mapTh_streams (c : Core) (t : Fin 4) (f : Thread → Thread) : (c.mapTh t f).streams = c.streams := rfl
@[simp] theorem Core.mapTh_div (c : Core) (t : Fin 4) (f : Thread → Thread) : (c.mapTh t f).div = c.div := rfl
@[simp] theorem Core.mapTh_tracker (c : Core) (t : Fin 4) (f : Thread → Thread) : (c.mapTh t f).tracker = c.tracker := rfl
@[simp] theorem Core.mapTh_marks (c : Core) (t : Fin 4) (f : Thread → Thread) : (c.mapTh t f).marks = c.marks := rfl
@[simp] theorem Core.mapTh_dbg (c : Core) (t : Fin 4) (f : Thread → Thread) : (c.mapTh t f).dbg = c.dbg := rfl
@[simp] theorem Core.mapTh_released (c : Core) (t : Fin 4) (f : Thread → Thread) : (c.mapTh t f).released = c.released := rfl
@[simp] theorem Core.mapTh_frozen (c : Core) (t : Fin 4) (f : Thread → Thread) : (c.mapTh t f).frozen = c.frozen := rfl
@[simp] theorem Core.mapTh_finished (c : Core) (t : Fin 4) (f : Thread → Thread) : (c.mapTh t f).finished = c.finished := rfl
@[simp] theorem Core.mapTh_phase (c : Core) (t : Fin 4) (f : Thread → Thread) : (c.mapTh t f).phase = c.phase := rfl
@[simp] theorem Core.mapTh_queued (c : Core) (t : Fin 4) (f : Thread → Thread) : (c.mapTh t f).queued = c.queued := rfl
@[simp] theorem Core.mapTh_cycle (c : Core) (t : Fin 4) (f : Thread → Thread) : (c.mapTh t f).cycle = c.cycle := rfl
@[simp] theorem Core.mapTh_rot (c : Core) (t : Fin 4) (f : Thread → Thread) : (c.mapTh t f).rot = c.rot := rfl
@[simp] theorem Core.mapTh_seq (c : Core) (t : Fin 4) (f : Thread → Thread) : (c.mapTh t f).seq = c.seq := rfl
@[simp] theorem Core.mapTh_codeSize (c : Core) (t : Fin 4) (f : Thread → Thread) : (c.mapTh t f).codeSize = c.codeSize := rfl
@[simp] theorem Core.mapTh_pourArrived (c : Core) (t : Fin 4) (f : Thread → Thread) : (c.mapTh t f).pourArrived = c.pourArrived := rfl
@[simp] theorem Core.mapTh_out (c : Core) (t : Fin 4) (f : Thread → Thread) : (c.mapTh t f).out = c.out := rfl

@[simp] theorem Core.mapR_spm (c : Core) (t : Fin 4) (f : Regs → Regs) : (c.mapR t f).spm = c.spm := rfl
@[simp] theorem Core.mapR_ve (c : Core) (t : Fin 4) (f : Regs → Regs) : (c.mapR t f).ve = c.ve := rfl
@[simp] theorem Core.mapR_me (c : Core) (t : Fin 4) (f : Regs → Regs) : (c.mapR t f).me = c.me := rfl
@[simp] theorem Core.mapR_de (c : Core) (t : Fin 4) (f : Regs → Regs) : (c.mapR t f).de = c.de := rfl
@[simp] theorem Core.mapR_runners (c : Core) (t : Fin 4) (f : Regs → Regs) : (c.mapR t f).runners = c.runners := rfl
@[simp] theorem Core.mapR_events (c : Core) (t : Fin 4) (f : Regs → Regs) : (c.mapR t f).events = c.events := rfl
@[simp] theorem Core.mapR_fpflags (c : Core) (t : Fin 4) (f : Regs → Regs) : (c.mapR t f).fpflags = c.fpflags := rfl
@[simp] theorem Core.mapR_streams (c : Core) (t : Fin 4) (f : Regs → Regs) : (c.mapR t f).streams = c.streams := rfl
@[simp] theorem Core.mapR_div (c : Core) (t : Fin 4) (f : Regs → Regs) : (c.mapR t f).div = c.div := rfl
@[simp] theorem Core.mapR_tracker (c : Core) (t : Fin 4) (f : Regs → Regs) : (c.mapR t f).tracker = c.tracker := rfl
@[simp] theorem Core.mapR_marks (c : Core) (t : Fin 4) (f : Regs → Regs) : (c.mapR t f).marks = c.marks := rfl
@[simp] theorem Core.mapR_dbg (c : Core) (t : Fin 4) (f : Regs → Regs) : (c.mapR t f).dbg = c.dbg := rfl
@[simp] theorem Core.mapR_released (c : Core) (t : Fin 4) (f : Regs → Regs) : (c.mapR t f).released = c.released := rfl
@[simp] theorem Core.mapR_frozen (c : Core) (t : Fin 4) (f : Regs → Regs) : (c.mapR t f).frozen = c.frozen := rfl
@[simp] theorem Core.mapR_finished (c : Core) (t : Fin 4) (f : Regs → Regs) : (c.mapR t f).finished = c.finished := rfl
@[simp] theorem Core.mapR_phase (c : Core) (t : Fin 4) (f : Regs → Regs) : (c.mapR t f).phase = c.phase := rfl
@[simp] theorem Core.mapR_queued (c : Core) (t : Fin 4) (f : Regs → Regs) : (c.mapR t f).queued = c.queued := rfl
@[simp] theorem Core.mapR_cycle (c : Core) (t : Fin 4) (f : Regs → Regs) : (c.mapR t f).cycle = c.cycle := rfl
@[simp] theorem Core.mapR_rot (c : Core) (t : Fin 4) (f : Regs → Regs) : (c.mapR t f).rot = c.rot := rfl
@[simp] theorem Core.mapR_seq (c : Core) (t : Fin 4) (f : Regs → Regs) : (c.mapR t f).seq = c.seq := rfl
@[simp] theorem Core.mapR_codeSize (c : Core) (t : Fin 4) (f : Regs → Regs) : (c.mapR t f).codeSize = c.codeSize := rfl
@[simp] theorem Core.mapR_pourArrived (c : Core) (t : Fin 4) (f : Regs → Regs) : (c.mapR t f).pourArrived = c.pourArrived := rfl
@[simp] theorem Core.mapR_out (c : Core) (t : Fin 4) (f : Regs → Regs) : (c.mapR t f).out = c.out := rfl

@[simp] theorem Core.mapX_spm (c : Core) (t : Fin 4) (f : ExcRegs → ExcRegs) : (c.mapX t f).spm = c.spm := rfl
@[simp] theorem Core.mapX_ve (c : Core) (t : Fin 4) (f : ExcRegs → ExcRegs) : (c.mapX t f).ve = c.ve := rfl
@[simp] theorem Core.mapX_me (c : Core) (t : Fin 4) (f : ExcRegs → ExcRegs) : (c.mapX t f).me = c.me := rfl
@[simp] theorem Core.mapX_de (c : Core) (t : Fin 4) (f : ExcRegs → ExcRegs) : (c.mapX t f).de = c.de := rfl
@[simp] theorem Core.mapX_runners (c : Core) (t : Fin 4) (f : ExcRegs → ExcRegs) : (c.mapX t f).runners = c.runners := rfl
@[simp] theorem Core.mapX_events (c : Core) (t : Fin 4) (f : ExcRegs → ExcRegs) : (c.mapX t f).events = c.events := rfl
@[simp] theorem Core.mapX_fpflags (c : Core) (t : Fin 4) (f : ExcRegs → ExcRegs) : (c.mapX t f).fpflags = c.fpflags := rfl
@[simp] theorem Core.mapX_streams (c : Core) (t : Fin 4) (f : ExcRegs → ExcRegs) : (c.mapX t f).streams = c.streams := rfl
@[simp] theorem Core.mapX_div (c : Core) (t : Fin 4) (f : ExcRegs → ExcRegs) : (c.mapX t f).div = c.div := rfl
@[simp] theorem Core.mapX_tracker (c : Core) (t : Fin 4) (f : ExcRegs → ExcRegs) : (c.mapX t f).tracker = c.tracker := rfl
@[simp] theorem Core.mapX_marks (c : Core) (t : Fin 4) (f : ExcRegs → ExcRegs) : (c.mapX t f).marks = c.marks := rfl
@[simp] theorem Core.mapX_dbg (c : Core) (t : Fin 4) (f : ExcRegs → ExcRegs) : (c.mapX t f).dbg = c.dbg := rfl
@[simp] theorem Core.mapX_released (c : Core) (t : Fin 4) (f : ExcRegs → ExcRegs) : (c.mapX t f).released = c.released := rfl
@[simp] theorem Core.mapX_frozen (c : Core) (t : Fin 4) (f : ExcRegs → ExcRegs) : (c.mapX t f).frozen = c.frozen := rfl
@[simp] theorem Core.mapX_finished (c : Core) (t : Fin 4) (f : ExcRegs → ExcRegs) : (c.mapX t f).finished = c.finished := rfl
@[simp] theorem Core.mapX_phase (c : Core) (t : Fin 4) (f : ExcRegs → ExcRegs) : (c.mapX t f).phase = c.phase := rfl
@[simp] theorem Core.mapX_queued (c : Core) (t : Fin 4) (f : ExcRegs → ExcRegs) : (c.mapX t f).queued = c.queued := rfl
@[simp] theorem Core.mapX_cycle (c : Core) (t : Fin 4) (f : ExcRegs → ExcRegs) : (c.mapX t f).cycle = c.cycle := rfl
@[simp] theorem Core.mapX_rot (c : Core) (t : Fin 4) (f : ExcRegs → ExcRegs) : (c.mapX t f).rot = c.rot := rfl
@[simp] theorem Core.mapX_seq (c : Core) (t : Fin 4) (f : ExcRegs → ExcRegs) : (c.mapX t f).seq = c.seq := rfl
@[simp] theorem Core.mapX_codeSize (c : Core) (t : Fin 4) (f : ExcRegs → ExcRegs) : (c.mapX t f).codeSize = c.codeSize := rfl
@[simp] theorem Core.mapX_pourArrived (c : Core) (t : Fin 4) (f : ExcRegs → ExcRegs) : (c.mapX t f).pourArrived = c.pourArrived := rfl
@[simp] theorem Core.mapX_out (c : Core) (t : Fin 4) (f : ExcRegs → ExcRegs) : (c.mapX t f).out = c.out := rfl

@[simp] theorem Core.mapSpm_threads (c : Core) (f : Spm → Spm) : (c.mapSpm f).threads = c.threads := rfl
@[simp] theorem Core.mapSpm_spm (c : Core) (f : Spm → Spm) : (c.mapSpm f).spm = f c.spm := rfl
@[simp] theorem Core.mapSpm_ve (c : Core) (f : Spm → Spm) : (c.mapSpm f).ve = c.ve := rfl
@[simp] theorem Core.mapSpm_me (c : Core) (f : Spm → Spm) : (c.mapSpm f).me = c.me := rfl
@[simp] theorem Core.mapSpm_de (c : Core) (f : Spm → Spm) : (c.mapSpm f).de = c.de := rfl
@[simp] theorem Core.mapSpm_runners (c : Core) (f : Spm → Spm) : (c.mapSpm f).runners = c.runners := rfl
@[simp] theorem Core.mapSpm_events (c : Core) (f : Spm → Spm) : (c.mapSpm f).events = c.events := rfl
@[simp] theorem Core.mapSpm_fpflags (c : Core) (f : Spm → Spm) : (c.mapSpm f).fpflags = c.fpflags := rfl
@[simp] theorem Core.mapSpm_streams (c : Core) (f : Spm → Spm) : (c.mapSpm f).streams = c.streams := rfl
@[simp] theorem Core.mapSpm_div (c : Core) (f : Spm → Spm) : (c.mapSpm f).div = c.div := rfl
@[simp] theorem Core.mapSpm_tracker (c : Core) (f : Spm → Spm) : (c.mapSpm f).tracker = c.tracker := rfl
@[simp] theorem Core.mapSpm_marks (c : Core) (f : Spm → Spm) : (c.mapSpm f).marks = c.marks := rfl
@[simp] theorem Core.mapSpm_dbg (c : Core) (f : Spm → Spm) : (c.mapSpm f).dbg = c.dbg := rfl
@[simp] theorem Core.mapSpm_released (c : Core) (f : Spm → Spm) : (c.mapSpm f).released = c.released := rfl
@[simp] theorem Core.mapSpm_frozen (c : Core) (f : Spm → Spm) : (c.mapSpm f).frozen = c.frozen := rfl
@[simp] theorem Core.mapSpm_finished (c : Core) (f : Spm → Spm) : (c.mapSpm f).finished = c.finished := rfl
@[simp] theorem Core.mapSpm_phase (c : Core) (f : Spm → Spm) : (c.mapSpm f).phase = c.phase := rfl
@[simp] theorem Core.mapSpm_queued (c : Core) (f : Spm → Spm) : (c.mapSpm f).queued = c.queued := rfl
@[simp] theorem Core.mapSpm_cycle (c : Core) (f : Spm → Spm) : (c.mapSpm f).cycle = c.cycle := rfl
@[simp] theorem Core.mapSpm_rot (c : Core) (f : Spm → Spm) : (c.mapSpm f).rot = c.rot := rfl
@[simp] theorem Core.mapSpm_seq (c : Core) (f : Spm → Spm) : (c.mapSpm f).seq = c.seq := rfl
@[simp] theorem Core.mapSpm_codeSize (c : Core) (f : Spm → Spm) : (c.mapSpm f).codeSize = c.codeSize := rfl
@[simp] theorem Core.mapSpm_pourArrived (c : Core) (f : Spm → Spm) : (c.mapSpm f).pourArrived = c.pourArrived := rfl
@[simp] theorem Core.mapSpm_out (c : Core) (f : Spm → Spm) : (c.mapSpm f).out = c.out := rfl

@[simp] theorem Core.post_threads (c : Core) (p : Post) : (c.post p).threads = c.threads := rfl
@[simp] theorem Core.post_spm (c : Core) (p : Post) : (c.post p).spm = c.spm := rfl
@[simp] theorem Core.post_ve (c : Core) (p : Post) : (c.post p).ve = c.ve := rfl
@[simp] theorem Core.post_me (c : Core) (p : Post) : (c.post p).me = c.me := rfl
@[simp] theorem Core.post_de (c : Core) (p : Post) : (c.post p).de = c.de := rfl
@[simp] theorem Core.post_runners (c : Core) (p : Post) : (c.post p).runners = c.runners := rfl
@[simp] theorem Core.post_events (c : Core) (p : Post) : (c.post p).events = c.events := rfl
@[simp] theorem Core.post_fpflags (c : Core) (p : Post) : (c.post p).fpflags = c.fpflags := rfl
@[simp] theorem Core.post_streams (c : Core) (p : Post) : (c.post p).streams = c.streams := rfl
@[simp] theorem Core.post_div (c : Core) (p : Post) : (c.post p).div = c.div := rfl
@[simp] theorem Core.post_tracker (c : Core) (p : Post) : (c.post p).tracker = c.tracker := rfl
@[simp] theorem Core.post_marks (c : Core) (p : Post) : (c.post p).marks = c.marks := rfl
@[simp] theorem Core.post_dbg (c : Core) (p : Post) : (c.post p).dbg = c.dbg := rfl
@[simp] theorem Core.post_released (c : Core) (p : Post) : (c.post p).released = c.released := rfl
@[simp] theorem Core.post_frozen (c : Core) (p : Post) : (c.post p).frozen = c.frozen := rfl
@[simp] theorem Core.post_finished (c : Core) (p : Post) : (c.post p).finished = c.finished := rfl
@[simp] theorem Core.post_phase (c : Core) (p : Post) : (c.post p).phase = c.phase := rfl
@[simp] theorem Core.post_queued (c : Core) (p : Post) : (c.post p).queued = c.queued := rfl
@[simp] theorem Core.post_cycle (c : Core) (p : Post) : (c.post p).cycle = c.cycle := rfl
@[simp] theorem Core.post_rot (c : Core) (p : Post) : (c.post p).rot = c.rot := rfl
@[simp] theorem Core.post_seq (c : Core) (p : Post) : (c.post p).seq = c.seq := rfl
@[simp] theorem Core.post_codeSize (c : Core) (p : Post) : (c.post p).codeSize = c.codeSize := rfl
@[simp] theorem Core.post_pourArrived (c : Core) (p : Post) : (c.post p).pourArrived = c.pourArrived := rfl
@[simp] theorem Core.post_out (c : Core) (p : Post) : (c.post p).out = { c.out with posts := c.out.posts ++ [p] } := rfl

@[simp] theorem Core.flag_threads (c : Core) (f : BitVec 6) : (c.flag f).threads = c.threads := rfl
@[simp] theorem Core.flag_spm (c : Core) (f : BitVec 6) : (c.flag f).spm = c.spm := rfl
@[simp] theorem Core.flag_ve (c : Core) (f : BitVec 6) : (c.flag f).ve = c.ve := rfl
@[simp] theorem Core.flag_me (c : Core) (f : BitVec 6) : (c.flag f).me = c.me := rfl
@[simp] theorem Core.flag_de (c : Core) (f : BitVec 6) : (c.flag f).de = c.de := rfl
@[simp] theorem Core.flag_runners (c : Core) (f : BitVec 6) : (c.flag f).runners = c.runners := rfl
@[simp] theorem Core.flag_events (c : Core) (f : BitVec 6) : (c.flag f).events = c.events := rfl
@[simp] theorem Core.flag_fpflags (c : Core) (f : BitVec 6) : (c.flag f).fpflags = c.fpflags ||| f := rfl
@[simp] theorem Core.flag_streams (c : Core) (f : BitVec 6) : (c.flag f).streams = c.streams := rfl
@[simp] theorem Core.flag_div (c : Core) (f : BitVec 6) : (c.flag f).div = c.div := rfl
@[simp] theorem Core.flag_tracker (c : Core) (f : BitVec 6) : (c.flag f).tracker = c.tracker := rfl
@[simp] theorem Core.flag_marks (c : Core) (f : BitVec 6) : (c.flag f).marks = c.marks := rfl
@[simp] theorem Core.flag_dbg (c : Core) (f : BitVec 6) : (c.flag f).dbg = c.dbg := rfl
@[simp] theorem Core.flag_released (c : Core) (f : BitVec 6) : (c.flag f).released = c.released := rfl
@[simp] theorem Core.flag_frozen (c : Core) (f : BitVec 6) : (c.flag f).frozen = c.frozen := rfl
@[simp] theorem Core.flag_finished (c : Core) (f : BitVec 6) : (c.flag f).finished = c.finished := rfl
@[simp] theorem Core.flag_phase (c : Core) (f : BitVec 6) : (c.flag f).phase = c.phase := rfl
@[simp] theorem Core.flag_queued (c : Core) (f : BitVec 6) : (c.flag f).queued = c.queued := rfl
@[simp] theorem Core.flag_cycle (c : Core) (f : BitVec 6) : (c.flag f).cycle = c.cycle := rfl
@[simp] theorem Core.flag_rot (c : Core) (f : BitVec 6) : (c.flag f).rot = c.rot := rfl
@[simp] theorem Core.flag_seq (c : Core) (f : BitVec 6) : (c.flag f).seq = c.seq := rfl
@[simp] theorem Core.flag_codeSize (c : Core) (f : BitVec 6) : (c.flag f).codeSize = c.codeSize := rfl
@[simp] theorem Core.flag_pourArrived (c : Core) (f : BitVec 6) : (c.flag f).pourArrived = c.pourArrived := rfl
@[simp] theorem Core.flag_out (c : Core) (f : BitVec 6) : (c.flag f).out = c.out := rfl

@[simp] theorem Core.bump_threads (c : Core) : (c.bump).threads = c.threads := rfl
@[simp] theorem Core.bump_spm (c : Core) : (c.bump).spm = c.spm := rfl
@[simp] theorem Core.bump_ve (c : Core) : (c.bump).ve = c.ve := rfl
@[simp] theorem Core.bump_me (c : Core) : (c.bump).me = c.me := rfl
@[simp] theorem Core.bump_de (c : Core) : (c.bump).de = c.de := rfl
@[simp] theorem Core.bump_runners (c : Core) : (c.bump).runners = c.runners := rfl
@[simp] theorem Core.bump_events (c : Core) : (c.bump).events = c.events := rfl
@[simp] theorem Core.bump_fpflags (c : Core) : (c.bump).fpflags = c.fpflags := rfl
@[simp] theorem Core.bump_streams (c : Core) : (c.bump).streams = c.streams := rfl
@[simp] theorem Core.bump_div (c : Core) : (c.bump).div = c.div := rfl
@[simp] theorem Core.bump_tracker (c : Core) : (c.bump).tracker = c.tracker := rfl
@[simp] theorem Core.bump_marks (c : Core) : (c.bump).marks = c.marks := rfl
@[simp] theorem Core.bump_dbg (c : Core) : (c.bump).dbg = c.dbg := rfl
@[simp] theorem Core.bump_released (c : Core) : (c.bump).released = c.released := rfl
@[simp] theorem Core.bump_frozen (c : Core) : (c.bump).frozen = c.frozen := rfl
@[simp] theorem Core.bump_finished (c : Core) : (c.bump).finished = c.finished := rfl
@[simp] theorem Core.bump_phase (c : Core) : (c.bump).phase = c.phase := rfl
@[simp] theorem Core.bump_queued (c : Core) : (c.bump).queued = c.queued := rfl
@[simp] theorem Core.bump_cycle (c : Core) : (c.bump).cycle = c.cycle := rfl
@[simp] theorem Core.bump_rot (c : Core) : (c.bump).rot = c.rot := rfl
@[simp] theorem Core.bump_seq (c : Core) : (c.bump).seq = c.seq + 1 := rfl
@[simp] theorem Core.bump_codeSize (c : Core) : (c.bump).codeSize = c.codeSize := rfl
@[simp] theorem Core.bump_pourArrived (c : Core) : (c.bump).pourArrived = c.pourArrived := rfl
@[simp] theorem Core.bump_out (c : Core) : (c.bump).out = c.out := rfl

@[simp] theorem Core.setEvents_threads (c : Core) (v : Events) : (c.setEvents v).threads = c.threads := rfl
@[simp] theorem Core.setEvents_spm (c : Core) (v : Events) : (c.setEvents v).spm = c.spm := rfl
@[simp] theorem Core.setEvents_ve (c : Core) (v : Events) : (c.setEvents v).ve = c.ve := rfl
@[simp] theorem Core.setEvents_me (c : Core) (v : Events) : (c.setEvents v).me = c.me := rfl
@[simp] theorem Core.setEvents_de (c : Core) (v : Events) : (c.setEvents v).de = c.de := rfl
@[simp] theorem Core.setEvents_runners (c : Core) (v : Events) : (c.setEvents v).runners = c.runners := rfl
@[simp] theorem Core.setEvents_events (c : Core) (v : Events) : (c.setEvents v).events = v := rfl
@[simp] theorem Core.setEvents_fpflags (c : Core) (v : Events) : (c.setEvents v).fpflags = c.fpflags := rfl
@[simp] theorem Core.setEvents_streams (c : Core) (v : Events) : (c.setEvents v).streams = c.streams := rfl
@[simp] theorem Core.setEvents_div (c : Core) (v : Events) : (c.setEvents v).div = c.div := rfl
@[simp] theorem Core.setEvents_tracker (c : Core) (v : Events) : (c.setEvents v).tracker = c.tracker := rfl
@[simp] theorem Core.setEvents_marks (c : Core) (v : Events) : (c.setEvents v).marks = c.marks := rfl
@[simp] theorem Core.setEvents_dbg (c : Core) (v : Events) : (c.setEvents v).dbg = c.dbg := rfl
@[simp] theorem Core.setEvents_released (c : Core) (v : Events) : (c.setEvents v).released = c.released := rfl
@[simp] theorem Core.setEvents_frozen (c : Core) (v : Events) : (c.setEvents v).frozen = c.frozen := rfl
@[simp] theorem Core.setEvents_finished (c : Core) (v : Events) : (c.setEvents v).finished = c.finished := rfl
@[simp] theorem Core.setEvents_phase (c : Core) (v : Events) : (c.setEvents v).phase = c.phase := rfl
@[simp] theorem Core.setEvents_queued (c : Core) (v : Events) : (c.setEvents v).queued = c.queued := rfl
@[simp] theorem Core.setEvents_cycle (c : Core) (v : Events) : (c.setEvents v).cycle = c.cycle := rfl
@[simp] theorem Core.setEvents_rot (c : Core) (v : Events) : (c.setEvents v).rot = c.rot := rfl
@[simp] theorem Core.setEvents_seq (c : Core) (v : Events) : (c.setEvents v).seq = c.seq := rfl
@[simp] theorem Core.setEvents_codeSize (c : Core) (v : Events) : (c.setEvents v).codeSize = c.codeSize := rfl
@[simp] theorem Core.setEvents_pourArrived (c : Core) (v : Events) : (c.setEvents v).pourArrived = c.pourArrived := rfl
@[simp] theorem Core.setEvents_out (c : Core) (v : Events) : (c.setEvents v).out = c.out := rfl

@[simp] theorem Core.setRunner_threads (c : Core) (n : Fin 8) (r : Runner) : (c.setRunner n r).threads = c.threads := rfl
@[simp] theorem Core.setRunner_spm (c : Core) (n : Fin 8) (r : Runner) : (c.setRunner n r).spm = c.spm := rfl
@[simp] theorem Core.setRunner_ve (c : Core) (n : Fin 8) (r : Runner) : (c.setRunner n r).ve = c.ve := rfl
@[simp] theorem Core.setRunner_me (c : Core) (n : Fin 8) (r : Runner) : (c.setRunner n r).me = c.me := rfl
@[simp] theorem Core.setRunner_de (c : Core) (n : Fin 8) (r : Runner) : (c.setRunner n r).de = c.de := rfl
@[simp] theorem Core.setRunner_runners (c : Core) (n : Fin 8) (r : Runner) : (c.setRunner n r).runners = c.runners.set n r := rfl
@[simp] theorem Core.setRunner_events (c : Core) (n : Fin 8) (r : Runner) : (c.setRunner n r).events = c.events := rfl
@[simp] theorem Core.setRunner_fpflags (c : Core) (n : Fin 8) (r : Runner) : (c.setRunner n r).fpflags = c.fpflags := rfl
@[simp] theorem Core.setRunner_streams (c : Core) (n : Fin 8) (r : Runner) : (c.setRunner n r).streams = c.streams := rfl
@[simp] theorem Core.setRunner_div (c : Core) (n : Fin 8) (r : Runner) : (c.setRunner n r).div = c.div := rfl
@[simp] theorem Core.setRunner_tracker (c : Core) (n : Fin 8) (r : Runner) : (c.setRunner n r).tracker = c.tracker := rfl
@[simp] theorem Core.setRunner_marks (c : Core) (n : Fin 8) (r : Runner) : (c.setRunner n r).marks = c.marks := rfl
@[simp] theorem Core.setRunner_dbg (c : Core) (n : Fin 8) (r : Runner) : (c.setRunner n r).dbg = c.dbg := rfl
@[simp] theorem Core.setRunner_released (c : Core) (n : Fin 8) (r : Runner) : (c.setRunner n r).released = c.released := rfl
@[simp] theorem Core.setRunner_frozen (c : Core) (n : Fin 8) (r : Runner) : (c.setRunner n r).frozen = c.frozen := rfl
@[simp] theorem Core.setRunner_finished (c : Core) (n : Fin 8) (r : Runner) : (c.setRunner n r).finished = c.finished := rfl
@[simp] theorem Core.setRunner_phase (c : Core) (n : Fin 8) (r : Runner) : (c.setRunner n r).phase = c.phase := rfl
@[simp] theorem Core.setRunner_queued (c : Core) (n : Fin 8) (r : Runner) : (c.setRunner n r).queued = c.queued := rfl
@[simp] theorem Core.setRunner_cycle (c : Core) (n : Fin 8) (r : Runner) : (c.setRunner n r).cycle = c.cycle := rfl
@[simp] theorem Core.setRunner_rot (c : Core) (n : Fin 8) (r : Runner) : (c.setRunner n r).rot = c.rot := rfl
@[simp] theorem Core.setRunner_seq (c : Core) (n : Fin 8) (r : Runner) : (c.setRunner n r).seq = c.seq := rfl
@[simp] theorem Core.setRunner_codeSize (c : Core) (n : Fin 8) (r : Runner) : (c.setRunner n r).codeSize = c.codeSize := rfl
@[simp] theorem Core.setRunner_pourArrived (c : Core) (n : Fin 8) (r : Runner) : (c.setRunner n r).pourArrived = c.pourArrived := rfl
@[simp] theorem Core.setRunner_out (c : Core) (n : Fin 8) (r : Runner) : (c.setRunner n r).out = c.out := rfl

@[simp] theorem Core.mapStream_threads (c : Core) (i : Fin 6) (f : Stream → Stream) : (c.mapStream i f).threads = c.threads := rfl
@[simp] theorem Core.mapStream_spm (c : Core) (i : Fin 6) (f : Stream → Stream) : (c.mapStream i f).spm = c.spm := rfl
@[simp] theorem Core.mapStream_ve (c : Core) (i : Fin 6) (f : Stream → Stream) : (c.mapStream i f).ve = c.ve := rfl
@[simp] theorem Core.mapStream_me (c : Core) (i : Fin 6) (f : Stream → Stream) : (c.mapStream i f).me = c.me := rfl
@[simp] theorem Core.mapStream_de (c : Core) (i : Fin 6) (f : Stream → Stream) : (c.mapStream i f).de = c.de := rfl
@[simp] theorem Core.mapStream_runners (c : Core) (i : Fin 6) (f : Stream → Stream) : (c.mapStream i f).runners = c.runners := rfl
@[simp] theorem Core.mapStream_events (c : Core) (i : Fin 6) (f : Stream → Stream) : (c.mapStream i f).events = c.events := rfl
@[simp] theorem Core.mapStream_fpflags (c : Core) (i : Fin 6) (f : Stream → Stream) : (c.mapStream i f).fpflags = c.fpflags := rfl
@[simp] theorem Core.mapStream_streams (c : Core) (i : Fin 6) (f : Stream → Stream) : (c.mapStream i f).streams = c.streams.set i (f c.streams[i]) := rfl
@[simp] theorem Core.mapStream_div (c : Core) (i : Fin 6) (f : Stream → Stream) : (c.mapStream i f).div = c.div := rfl
@[simp] theorem Core.mapStream_tracker (c : Core) (i : Fin 6) (f : Stream → Stream) : (c.mapStream i f).tracker = c.tracker := rfl
@[simp] theorem Core.mapStream_marks (c : Core) (i : Fin 6) (f : Stream → Stream) : (c.mapStream i f).marks = c.marks := rfl
@[simp] theorem Core.mapStream_dbg (c : Core) (i : Fin 6) (f : Stream → Stream) : (c.mapStream i f).dbg = c.dbg := rfl
@[simp] theorem Core.mapStream_released (c : Core) (i : Fin 6) (f : Stream → Stream) : (c.mapStream i f).released = c.released := rfl
@[simp] theorem Core.mapStream_frozen (c : Core) (i : Fin 6) (f : Stream → Stream) : (c.mapStream i f).frozen = c.frozen := rfl
@[simp] theorem Core.mapStream_finished (c : Core) (i : Fin 6) (f : Stream → Stream) : (c.mapStream i f).finished = c.finished := rfl
@[simp] theorem Core.mapStream_phase (c : Core) (i : Fin 6) (f : Stream → Stream) : (c.mapStream i f).phase = c.phase := rfl
@[simp] theorem Core.mapStream_queued (c : Core) (i : Fin 6) (f : Stream → Stream) : (c.mapStream i f).queued = c.queued := rfl
@[simp] theorem Core.mapStream_cycle (c : Core) (i : Fin 6) (f : Stream → Stream) : (c.mapStream i f).cycle = c.cycle := rfl
@[simp] theorem Core.mapStream_rot (c : Core) (i : Fin 6) (f : Stream → Stream) : (c.mapStream i f).rot = c.rot := rfl
@[simp] theorem Core.mapStream_seq (c : Core) (i : Fin 6) (f : Stream → Stream) : (c.mapStream i f).seq = c.seq := rfl
@[simp] theorem Core.mapStream_codeSize (c : Core) (i : Fin 6) (f : Stream → Stream) : (c.mapStream i f).codeSize = c.codeSize := rfl
@[simp] theorem Core.mapStream_pourArrived (c : Core) (i : Fin 6) (f : Stream → Stream) : (c.mapStream i f).pourArrived = c.pourArrived := rfl
@[simp] theorem Core.mapStream_out (c : Core) (i : Fin 6) (f : Stream → Stream) : (c.mapStream i f).out = c.out := rfl

@[simp] theorem Core.mapDq_threads (c : Core) (q : Fin 4) (f : Dq → Dq) : (c.mapDq q f).threads = c.threads := rfl
@[simp] theorem Core.mapDq_spm (c : Core) (q : Fin 4) (f : Dq → Dq) : (c.mapDq q f).spm = c.spm := rfl
@[simp] theorem Core.mapDq_ve (c : Core) (q : Fin 4) (f : Dq → Dq) : (c.mapDq q f).ve = c.ve := rfl
@[simp] theorem Core.mapDq_me (c : Core) (q : Fin 4) (f : Dq → Dq) : (c.mapDq q f).me = c.me := rfl
@[simp] theorem Core.mapDq_runners (c : Core) (q : Fin 4) (f : Dq → Dq) : (c.mapDq q f).runners = c.runners := rfl
@[simp] theorem Core.mapDq_events (c : Core) (q : Fin 4) (f : Dq → Dq) : (c.mapDq q f).events = c.events := rfl
@[simp] theorem Core.mapDq_fpflags (c : Core) (q : Fin 4) (f : Dq → Dq) : (c.mapDq q f).fpflags = c.fpflags := rfl
@[simp] theorem Core.mapDq_streams (c : Core) (q : Fin 4) (f : Dq → Dq) : (c.mapDq q f).streams = c.streams := rfl
@[simp] theorem Core.mapDq_div (c : Core) (q : Fin 4) (f : Dq → Dq) : (c.mapDq q f).div = c.div := rfl
@[simp] theorem Core.mapDq_tracker (c : Core) (q : Fin 4) (f : Dq → Dq) : (c.mapDq q f).tracker = c.tracker := rfl
@[simp] theorem Core.mapDq_marks (c : Core) (q : Fin 4) (f : Dq → Dq) : (c.mapDq q f).marks = c.marks := rfl
@[simp] theorem Core.mapDq_dbg (c : Core) (q : Fin 4) (f : Dq → Dq) : (c.mapDq q f).dbg = c.dbg := rfl
@[simp] theorem Core.mapDq_released (c : Core) (q : Fin 4) (f : Dq → Dq) : (c.mapDq q f).released = c.released := rfl
@[simp] theorem Core.mapDq_frozen (c : Core) (q : Fin 4) (f : Dq → Dq) : (c.mapDq q f).frozen = c.frozen := rfl
@[simp] theorem Core.mapDq_finished (c : Core) (q : Fin 4) (f : Dq → Dq) : (c.mapDq q f).finished = c.finished := rfl
@[simp] theorem Core.mapDq_phase (c : Core) (q : Fin 4) (f : Dq → Dq) : (c.mapDq q f).phase = c.phase := rfl
@[simp] theorem Core.mapDq_queued (c : Core) (q : Fin 4) (f : Dq → Dq) : (c.mapDq q f).queued = c.queued := rfl
@[simp] theorem Core.mapDq_cycle (c : Core) (q : Fin 4) (f : Dq → Dq) : (c.mapDq q f).cycle = c.cycle := rfl
@[simp] theorem Core.mapDq_rot (c : Core) (q : Fin 4) (f : Dq → Dq) : (c.mapDq q f).rot = c.rot := rfl
@[simp] theorem Core.mapDq_seq (c : Core) (q : Fin 4) (f : Dq → Dq) : (c.mapDq q f).seq = c.seq := rfl
@[simp] theorem Core.mapDq_codeSize (c : Core) (q : Fin 4) (f : Dq → Dq) : (c.mapDq q f).codeSize = c.codeSize := rfl
@[simp] theorem Core.mapDq_pourArrived (c : Core) (q : Fin 4) (f : Dq → Dq) : (c.mapDq q f).pourArrived = c.pourArrived := rfl
@[simp] theorem Core.mapDq_out (c : Core) (q : Fin 4) (f : Dq → Dq) : (c.mapDq q f).out = c.out := rfl

@[simp] theorem Core.advance_spm (c : Core) (t : Fin 4) (len : BitVec 2) : (c.advance t len).spm = c.spm := rfl
@[simp] theorem Core.advance_ve (c : Core) (t : Fin 4) (len : BitVec 2) : (c.advance t len).ve = c.ve := rfl
@[simp] theorem Core.advance_me (c : Core) (t : Fin 4) (len : BitVec 2) : (c.advance t len).me = c.me := rfl
@[simp] theorem Core.advance_de (c : Core) (t : Fin 4) (len : BitVec 2) : (c.advance t len).de = c.de := rfl
@[simp] theorem Core.advance_runners (c : Core) (t : Fin 4) (len : BitVec 2) : (c.advance t len).runners = c.runners := rfl
@[simp] theorem Core.advance_events (c : Core) (t : Fin 4) (len : BitVec 2) : (c.advance t len).events = c.events := rfl
@[simp] theorem Core.advance_fpflags (c : Core) (t : Fin 4) (len : BitVec 2) : (c.advance t len).fpflags = c.fpflags := rfl
@[simp] theorem Core.advance_streams (c : Core) (t : Fin 4) (len : BitVec 2) : (c.advance t len).streams = c.streams := rfl
@[simp] theorem Core.advance_div (c : Core) (t : Fin 4) (len : BitVec 2) : (c.advance t len).div = c.div := rfl
@[simp] theorem Core.advance_tracker (c : Core) (t : Fin 4) (len : BitVec 2) : (c.advance t len).tracker = c.tracker := rfl
@[simp] theorem Core.advance_marks (c : Core) (t : Fin 4) (len : BitVec 2) : (c.advance t len).marks = c.marks := rfl
@[simp] theorem Core.advance_dbg (c : Core) (t : Fin 4) (len : BitVec 2) : (c.advance t len).dbg = c.dbg := rfl
@[simp] theorem Core.advance_released (c : Core) (t : Fin 4) (len : BitVec 2) : (c.advance t len).released = c.released := rfl
@[simp] theorem Core.advance_frozen (c : Core) (t : Fin 4) (len : BitVec 2) : (c.advance t len).frozen = c.frozen := rfl
@[simp] theorem Core.advance_finished (c : Core) (t : Fin 4) (len : BitVec 2) : (c.advance t len).finished = c.finished := rfl
@[simp] theorem Core.advance_phase (c : Core) (t : Fin 4) (len : BitVec 2) : (c.advance t len).phase = c.phase := rfl
@[simp] theorem Core.advance_queued (c : Core) (t : Fin 4) (len : BitVec 2) : (c.advance t len).queued = c.queued := rfl
@[simp] theorem Core.advance_cycle (c : Core) (t : Fin 4) (len : BitVec 2) : (c.advance t len).cycle = c.cycle := rfl
@[simp] theorem Core.advance_rot (c : Core) (t : Fin 4) (len : BitVec 2) : (c.advance t len).rot = c.rot := rfl
@[simp] theorem Core.advance_seq (c : Core) (t : Fin 4) (len : BitVec 2) : (c.advance t len).seq = c.seq := rfl
@[simp] theorem Core.advance_codeSize (c : Core) (t : Fin 4) (len : BitVec 2) : (c.advance t len).codeSize = c.codeSize := rfl
@[simp] theorem Core.advance_pourArrived (c : Core) (t : Fin 4) (len : BitVec 2) : (c.advance t len).pourArrived = c.pourArrived := rfl
@[simp] theorem Core.advance_out (c : Core) (t : Fin 4) (len : BitVec 2) : (c.advance t len).out = c.out := rfl

/-! ### Reading after an update -/

@[simp] theorem Core.mapTh_th_same (c : Core) (t : Fin 4) (f : Thread → Thread) : (c.mapTh t f).th t = f (c.th t) := by
  simp [Core.th]

theorem Core.mapTh_th_other (c : Core) (t u : Fin 4) (f : Thread → Thread) (h : u ≠ t) : (c.mapTh t f).th u = c.th u := by
  have h' : t.val ≠ u.val := fun e => h (Fin.ext e.symm)
  simp [Core.th, h']

@[simp] theorem State.mapJob_job_same (s : State) (j : Fin 8) (f : Job → Job) : (s.mapJob j f).job j = f (s.job j) := by
  simp [State.job]

theorem State.mapJob_job_other (s : State) (j k : Fin 8) (f : Job → Job) (h : k ≠ j) : (s.mapJob j f).job k = s.job k := by
  have h' : j.val ≠ k.val := fun e => h (Fin.ext e.symm)
  simp [State.job, h']

@[simp] theorem State.setBox_box_same (s : State) (src : Source) (b : Mailbox) : (s.setBox src b).box src = b := by
  cases src <;> simp [State.setBox, State.box]

theorem State.setBox_box_other (s : State) (src x : Source) (b : Mailbox) (h : x ≠ src) : (s.setBox src b).box x = s.box x := by
  cases src with
  | bmc => cases x <;> first | rfl | exact absurd rfl h
  | fm k =>
    cases x with
    | fm j =>
      have h' : k.val ≠ j.val := fun e => h (by rw [Fin.ext e])
      simp [State.setBox, State.box, h']
    | bmc => rfl
    | host n => rfl
  | host n =>
    cases x with
    | host m =>
      have h' : n.val ≠ m.val := fun e => h (by rw [Fin.ext e])
      simp [State.setBox, State.box, h']
    | bmc => rfl
    | fm k => rfl

end Sys2Proof.Machine
end

