-- ==== Sys2Proof/Tests/Slice0.lean ====
section
/-! SUPPORT. The model's own tests. A theorem witness_<Statement>_<clause> shows a concrete state and operands that meet the hypotheses of
that clause of the statement together; a theorem test_<what> checks one step or one computation against an outcome that the spec states;
a theorem test_wf_<check> shows a term that a check of well-formedness refuses. -/

open Sys2Proof Sys2Proof.Machine

namespace Sys2Proof.Tests

set_option Elab.async false

/-! ### States the tests start from -/

/-- The module in service: firmware up, ready, both host interfaces up. -/
def up : State :=
  { State.reset with
    mp := { State.reset.mp with ready := true }
    sec := { State.reset.sec with images := { State.reset.sec.images with running := Vector.replicate 2 (some 0) } }
    board := { State.reset.board with stage := .ready, hiUp := Vector.replicate 2 true, resetN := true, charged := true } }
def asks (s : State) (src : Source) (q : Request) : State := s.setBox src { s.box src with
  st := .running, opc := BitVec.ofNat 16 q.opc, seq := 7, ver := 3, job := q.job.getD 0, payload := q.sent, cores := q.cores }
def h0 : Source := .host 0
def withJob1 (s : State) (b : Job) : State := s.mapJob 0 (fun _ => b)
def job1 : Job := { Job.blank with st := .loaded, owners := 1, codeBase := 0x40000000, codeSize := 0x10000, cores := [(5, false, 0x100)] }
def loaded : State := withJob1 up job1
def mapsec (s : State) (f : Security → Security) : State := { s with sec := f s.sec }

/-- a state whose core 5 has thread 1 running -/
def th1 : Thread := { Thread.reset .running with r := { Regs.reset with pc := 0x100, a := #v[0x80, 7, 0x90, 0xFFFFFFFF, 0, 0, 0, 0x40], lc := #v[3,0,0,0] } }
def seCore : Core := { Core.reset with threads := Core.reset.threads.set 1 th1, codeSize := 0x10000, released := true, spm := Core.reset.spm.write 0x80 [1,2,3,4,5,6,7,0x88] }
def se : State := up.setCore 5 seCore
def sw (len : BitVec 2) (sz : BitVec 3) (mod : BitVec 2) (d a b : BitVec 6) (ext : BitVec 64) : SeWord := ⟨len, sz, mod, d, a, b, ext⟩
def s5 : Site := ⟨5, 1, []⟩
def seTh (f : Thread → Thread) : State := se.setCore 5 (seCore.mapTh 1 f)
def bound1 : FlaskBind := { en := true, partner := 9, cap := 100, undo := 50, store := 0x9000, undoArea := 0xA000, rbArea := 0xB000 }
def decl1 : PourDecl := { regions := [⟨0x50000000, 0x50100000⟩], saveArea := ⟨0x50080000, 0x50100000⟩, coordinator := 0, reqWord := 0x40, timeoutS := 0, vectorMask := 3, spm := [(0, 64)] }
def fl (s : State) (f : Flask → Flask) : State := {s with flask := f s.flask}
def own (s : State) : State := fl s (fun f => {f with job := some 1, decl := some decl1, committed := 4, interval := 4, pstate := .open_})
def bound (s : State) : State := s.setBind bound1
def wj : Job := { job1 with wins := [{ base := 0x50000000, limit := 0x51000000, write := true, host := true, link := false }] }
def withLog (s : State) (xs : List Event) : State :=
  { s with errs := { s.errs with log := xs.zipIdx.map (fun x => { s.entry x.1 with idx := BitVec.ofNat 32 x.2 }), next := BitVec.ofNat 32 xs.length } }
theorem forall_mem_of_all {α : Type} {p : α → Prop} [DecidablePred p] (l : List α)
    (h : l.all (fun x => decide (p x)) = true) : ∀ x ∈ l, p x := by
  intro x hx; exact of_decide_eq_true (List.all_eq_true.mp h x hx)
theorem all_source {p : Source → Prop} (hb : p .bmc) (hf : ∀ k, p (.fm k)) (hh : ∀ n, p (.host n)) : ∀ x, p x := by
  intro x; cases x with
  | bmc => exact hb
  | fm k => exact hf k
  | host n => exact hh n
theorem is_error {α : Type} {x : Except CoreId α} {e : CoreId}
    (h : (match x with | .error a => decide (a = e) | .ok _ => false) = true) : x = .error e := by
  cases x with
  | error a => rw [of_decide_eq_true h]
  | ok _ => cases h

/-! ### Well-formedness -/

namespace PartS0

/-! Well-formedness: for each check an ill-formed term, which the check refuses. -/
theorem test_wf_se_word : (Instr.add s5 (sw 0 2 0 0 0 0 1)).wellFormed = false := by decide
theorem test_wf_se_word1 : (Instr.add s5 (sw 1 2 0 0 0 0 0x100000000)).wellFormed = false := by decide
theorem test_wf_se_good : (Instr.add s5 (sw 1 2 0 0 0 0 0xFFFFFFFF)).wellFormed = true := by decide
theorem test_wf_ve_word : (Instr.vadd s5 ⟨0, 2, 0, 1, 2, 3, 1⟩).wellFormed = false := by decide
theorem test_wf_me_word : (Instr.tmma s5 ⟨0, 0, 1, 0⟩).wellFormed = false := by decide
theorem test_wf_me_word2 : (Instr.tmma s5 ⟨1, 0, 1, 1⟩).wellFormed = false := by decide
theorem test_wf_scrub : (Instr.scrubRead 0 0 (List.replicate 9 (.uncorrectable 0))).wellFormed = false := by decide
theorem test_wf_flit : (Instr.flitReceive 0 ⟨0, 0, 0, false, false, 0, 0, 0, 0, 0, 0, 0, [], 0⟩ [] []).wellFormed = false := by decide
theorem test_wf_message :
    (Instr.write 0 ⟨0, 0, 0, 0, 0, false, false, 0, 0, 0, false, 0, 0, 0, List.replicate 17 0⟩).wellFormed = false := by decide
theorem test_wf_message_long :
    (Instr.write 0 ⟨0, 0, 0, 0, 0, false, false, 0, 0, 0, false, 0, 0, 0, List.replicate 272 0⟩).wellFormed = false := by decide +kernel
theorem test_wf_regulator : (Instr.regulatorSample 0 0 0 (List.replicate 41 0)).wellFormed = false := by decide
theorem test_wf_activity : (Instr.activityEstimate [] [] []).wellFormed = false := by decide
theorem test_wf_island : (Instr.ageingReplan false [⟨8768, 0, 0, []⟩]).wellFormed = false := by decide
theorem test_wf_doorbell : (Instr.mailboxDoorbell 0 1 [⟨0, 3, 1, 0, 0, 0, 0, List.replicate 4033 0, []⟩] []).wellFormed = false := by
  decide +kernel
theorem test_wf_transmit : (Instr.mgmtTransmit true (List.replicate 273 0)).wellFormed = false := by decide +kernel
theorem test_wf_bar2_read : (Instr.bar2Read 0 0).wellFormed = false := by decide
theorem test_wf_bar2_write : (Instr.bar2Write 0 []).wellFormed = false := by decide
theorem test_wf_request : (Instr.mgmtRequest 0 0 0 0 1 (List.replicate 257 0)).wellFormed = false := by decide +kernel
theorem test_wf_job_load :
    (Instr.jobLoad h0 ⟨false, false, false, 0, 0, 0, 0, 0, List.replicate 17 ⟨0, 0, false, false, false⟩, []⟩).wellFormed = false := by
  decide
theorem test_wf_cfg_write : (Instr.cfgWriteShadow h0 0 false 0 (List.replicate 1003 0)).wellFormed = false := by decide +kernel
theorem test_wf_phase_table : (Instr.phaseTableLoad h0 1 0 2 (List.replicate 4021 0)).wellFormed = false := by decide +kernel
theorem test_wf_policy : (Instr.pourPolicyDeclare h0 1 { decl1 with regions := List.replicate 17 ⟨0, 0⟩ }).wellFormed = false := by decide
theorem test_wf_policy_spm : (Instr.pourPolicyDeclare h0 1 { decl1 with spm := List.replicate 5 (0, 0) }).wellFormed = false := by decide
theorem test_wf_remap : (Instr.remap h0 1 (List.replicate 1008 0)).wellFormed = false := by decide +kernel
theorem test_wf_route_table : (Instr.routeTableWrite h0 0 (List.replicate 252 ⟨0, 0, 0, 0⟩)).wellFormed = false := by decide +kernel
theorem test_wf_respond : (Instr.respond h0 1 (List.replicate 21 ⟨0, 0, 0⟩)).wellFormed = false := by decide
theorem test_wf_chunk : (Instr.fwChunk h0 0 (List.replicate 4017 0)).wellFormed = false := by decide +kernel
theorem test_wf_debug_write : (Instr.debugWrite h0 0 0 0 (List.replicate 4017 0)).wellFormed = false := by decide +kernel
theorem test_wf_time_sync : (Instr.timeSync h0 0 0 0 [] none).wellFormed = false := by decide
theorem test_wf_firmware_data : (Instr.requestFirmwareData 0 (List.replicate 1025 0)).wellFormed = false := by decide +kernel
theorem test_wf_watchpoint : (Instr.watchpointMatch s5 0 0 true).wellFormed = false := by decide
theorem test_wf_position : (Instr.selfTest [⟨0, 17, 0⟩]).wellFormed = false := by decide
theorem test_wf_slack : (Instr.activityEstimate (List.replicate 40 0) (List.replicate 40 0) (List.replicate 40 0) [⟨8768, 0, 0, []⟩]).wellFormed =
    false := by decide
theorem test_wf_packet : (Instr.bmcMessage 0 [] [List.replicate 65 0]).wellFormed = false := by decide

end PartS0

/-! ### Worked examples of the spec -/

namespace PartY

/-! Number formats: the worked examples and the examples of chapter 2. -/
/-- Table 2-8: an H16 step drops a product bit below the third guard bit, and NX is set. -/
theorem test_h16_step_drops_product_bit :
    accStep 0x4B800000 [product (decTy .h16 0x3E10) (decTy .h16 0x3E00)] = (0x4B800000, fNX) := by decide +kernel
/-- Table 2-8, last row: the vector FMA of the same inputs rounds up. -/
theorem test_fma_keeps_product_bit : fma32 0x4B800000 0x3F840000 0x3F800000 = (0x4B800001, fNX) := by decide +kernel
/-- Table 2-9: two H4 products cancel, and the accumulator is left cut at their grid. -/
theorem test_h4_step_cancellation :
    accStep 0x3E99999A [product (decTy .h4 7) (decTy .h4 7), product (decTy .h4 0xF) (decTy .h4 7)] = (0x3E999990, fNX) := by
  decide +kernel
/-- R51: 1.75 in H4 lies between codes 3 and 4 and rounds to 4. -/
theorem test_h4_tie_to_even : toShort .h4 0x3FE00000 0 none = (4, fNX, false) := by decide +kernel
/-- R53: 7.3 converted to I4 gives 7 with SAT and NX, and −8.4 gives −8 with SAT and NX. -/
theorem test_i4_saturates :
    toSmallInt .i4 0x40E9999A 0 none = (7, fSAT ||| fNX, true) ∧ toSmallInt .i4 0xC1066666 0 none = (8, fSAT ||| fNX, true) := by
  decide +kernel
/-- R55, R54: a stream seeded with 0x1234_5678 converts 1.3 to H4 code 3 and its state becomes 0x2468_ACF1. -/
theorem test_stochastic_h4 :
    let r := ({ Stream.reset with stochastic := true, seed := 0x12345678 } : Stream).feed .f32 .h4 0x3FA66666 0 0
    r.1.seed = 0x2468ACF1 ∧ r.2.1 = 3 := by decide +kernel
/-- Chapter 2, choosing the next scale: 37.2 with output scale 0xFD is H8p code 0x79, and RMAX takes 37.2. -/
theorem test_h8p_scale :
    toShort .h8p 0x4214CCCD 0xFD none = (0x79, fNX, false) ∧ rmaxAfter 0 0xC214CCCD = 0x4214CCCD := by decide +kernel
/-- Table 5-11: lane 0 of the four-way H8p dot product is rounded once. -/
theorem test_vdot_h8p_lane :
    dotOnce 0x4B800000 [product (scaled (decTy .h8p 0x24) 3) (decTy .h8p 0x30), product (scaled (decTy .h8p 0x24) 3) (decTy .h8p 0x30),
      product (scaled (decTy .h8p 0) 3) (decTy .h8p 0x38), product (scaled (decTy .h8p 0) 3) (decTy .h8p 0x38)] = (0x4B800001, fNX) := by
  decide +kernel
/-- Table 12-8: the tree over positions 0 to 3 gives 1 in lane 0, whatever the order of arrival. -/
theorem test_reduction_tree :
    let part (p : Nat) (x : Nat) : Contribution :=
      { pos := p, smod := 0x0100, tag := 0, sport := 0, line := 0, data := leBytes 4 x ++ List.replicate 252 0 }
    (treeRoot .f32 [part 3 0xCB800000, part 0 0x4B800000, part 2 0x3F800000, part 1 0x3F800000]).take 4 = leBytes 4 0x3F800000 := by
  decide +kernel

/-! The core. -/
/-- R83: a branch at code address 0x1040 with offset −16 goes to 0x1000. -/
theorem test_branch_back :
    ((seTh (fun h => { h with r := { h.r with pc := 0x1040 } })).val s5 ((se.ops s5 (branchForm (anyTy (sw 1 2 0 0 41 41 0xFFF0)))
      (sw 1 2 0 0 41 41 0xFFF0)).a) = 7) ∧
    (match exec (.b s5 (sw 1 2 0 0 41 41 0xFFF0)) (seTh (fun h => { h with r := { h.r with pc := 0x1040 } })) with
      | .next s => ((s.core 5).th 1).r.pc
      | _ => 0) = 0x1000 := by decide +kernel
/-- R72, R77: an I32 sum wraps at its width. -/
theorem test_add_wraps :
    (match exec (.add s5 (sw 1 2 0 40 43 0 2)) se with
      | .next s => ((s.core 5).th 1).r.a[(0 : Fin 8)]
      | _ => 0) = 1 := by decide +kernel
/-- Chapter 5, de-interleaving triples: VLDS3.F32 of 64 points leaves A3 768 bytes on. -/
theorem test_vlds3_post_increment :
    let s := se.setCore 5 { seCore.mapTh 1 (fun h => { h with r := { h.r with a := h.r.a.set 3 0x8000 } }) with
      ve := { seCore.ve with restr := false, vlen := 64 } }
    (match exec (.vlds3 s5 ⟨1, 9, 0, 4, 0, 0, 0x62000000⟩) s with
      | .next s => ((s.core 5).th 1).r.a[(3 : Fin 8)]
      | _ => 0) = 0x8300 := by decide +kernel
/-- R82: a divisor of 0 gives a quotient of all ones and the dividend as remainder. -/
theorem test_divide_by_zero :
    (match exec (.div s5 (sw 1 2 0 0x3f 41 0 0)) se with
      | .next s => (s.core 5).div.map (fun d => (d.qot, d.rem))
      | _ => none) = some (0xFFFFFFFF, 7) := by decide +kernel

/-! The module. -/
/-- Chapter 0: in grade A CORE_ID 1,527 is assigned, 1,528 to 1,535 are holes, and 1,536 is assigned. -/
theorem test_grade_a_holes :
    let s := { up with ident := { up.ident with code := .a3 } }
    s.assigned 1527 = true ∧ s.assigned 1528 = false ∧ s.assigned 1535 = false ∧ s.assigned 1536 = true := by decide +kernel
/-- Table 15-14: of two POWER_CAP commands of one tick the BMC's runs, and mailbox 2's is preempted with the winner's SEQ. -/
theorem test_same_tick_conflict :
    let q (s : State) (src : Source) (seq : Word) (cap : Nat) : State := s.setBox src
      { s.box src with st := .queued, opc := 0x30, seq := seq, ver := 3, arrival := 5000000, payload := (reqPowerCap (BitVec.ofNat 16 cap) 10).sent }
    let s := { q (q up (.host 2) 0x1A40 4200) .bmc 0x1A41 3500 with now := 5001000 }
    (match exec .arbitrationTick s with
      | .next s => ((s.box (.host 2)).st, (s.box (.host 2)).status, (s.box (.host 2)).detail, (s.box .bmc).st)
      | _ => (.free, 0, 0, .free)) = (.done, 5, 0x1A41, .running) := by decide +kernel
/-- POWER_CAP of 3,500 W over 10 ms writes PCAP 0x000A_0DAC in both sets. -/
theorem test_power_cap :
    (match exec (.powerCap .bmc 3500 10) (asks up .bmc (reqPowerCap 3500 10)) with
      | .next s => (s.active.pcap, s.shadow.pcap)
      | _ => (0, 0)) = (0x000A0DAC, 0x000A0DAC) := by decide +kernel
/-- The table gives no bits: a word spells no command and leaves the queue alone. -/
theorem test_no_word_spells_a_command : decodeTableWord 32 5 = none ∧ (up.withFetchWord 32 5).pending = [] := by decide +kernel
/-- The worked example of chapter 10: core (3, 4) of CD26 is a retired node. -/
def wex : FabricView := ⟨fun d => if d = 26 then [52] else [], fun _ _ => 0⟩
/-- Table 10-7: the write leaves CD9 by channel 12, enters CD26 by north channel 4 and passes the node by (2, 5), (3, 5) and (4, 5). -/
theorem test_route_of_the_write :
    (wex.path (272 * 9 + 195) (272 * 26 + 100)).drop 12 =
      [.bridge 9 .east 12, .bridge 10 .south 12, .bridge 18 .south 4, .router 26 4 false, .router 26 20 false, .router 26 36 false,
       .router 26 37 true, .router 26 53 true, .router 26 69 true, .router 26 68 true, .router 26 84 false, .router 26 100 false] := by
  decide +kernel
/-- Table 10-7: h is 20 and 8, and the two ways take 177.5 and 159.5 ns; without the node the write takes 174.5 ns. -/
theorem test_route_times :
    (meshHops (wex.path (272 * 9 + 195) (272 * 26 + 100)), meshHops (wex.path (272 * 26 + 100) (272 * 9 + 195))) = (20, 8) ∧
    (wex.latency (272 * 9 + 195) (272 * 26 + 100), wex.latency (272 * 26 + 100) (272 * 9 + 195)) = (1775, 1595) ∧
    ({ wex with nodes := fun _ => [] } : FabricView).latency (272 * 9 + 195) (272 * 26 + 100) = 1745 := by decide +kernel
/-- R302: the farthest corners of CD0 and CD31 are ten bridges, one turn and h = 31 apart: 250 ns. -/
theorem test_route_farthest :
    let l := wex.path 0 (272 * 31 + 271)
    (meshHops l, bridgeHops l, wex.latency 0 (272 * 31 + 271)) = (31, 10, 2500) := by decide +kernel
/-- R329: the CRC-32C of the nine characters 123456789 is 0xE3069283, the check value published with the polynomial. -/
theorem test_crc : crc32c ((List.range 9).map (fun i => BitVec.ofNat 8 (0x31 + i))) = 0xE3069283 := by decide +kernel
/-- Table 15-4: MODSTAT of a ready module in DEPLOYED has READY and LCS 2; MPICAP has 8 mailboxes and version 3; a reserved offset reads 0. -/
theorem test_bar0 : (up.bar0Word 0x11000, up.bar0Word 0x11004, up.bar0Word 0x11018) = (0x82000000, 0x803, 0) := by decide +kernel

end PartY

/-! ### Integer instructions, control flow and the CSRs of chapter 3 -/

namespace PartA

def x3_0 : Instr := .add s5 (sw 1 2 0 40 41 0 9)
def x3_1 : SeWord := sw 1 2 0 40 41 0 9
def x3_2 : Form := form3 (sw 1 2 0 40 41 0 9) 1
theorem witness_IntegerInstructionsWriteTheTablesResult_0 :
    Rules.alu x3_0 = some (s5, x3_1, x3_2) ∧
    se.issues s5 x3_2 x3_1 = true := by
  decide +kernel

def x4_0 : Instr := .clz s5 (sw 0 2 0 40 41 0x3f 0)
def x4_1 : SeWord := sw 0 2 0 40 41 0x3f 0
def x4_2 : Form := form2 (sw 0 2 0 40 41 0x3f 0)
theorem witness_IntegerInstructionsWriteTheTablesResult_0_b :
    Rules.alu x4_0 = some (s5, x4_1, x4_2) ∧
    se.issues s5 x4_2 x4_1 = true := by
  decide +kernel

def x5_0 : Instr := .sub s5 (sw 1 3 0 52 18 26 0xFFF0FFF0)
def x5_1 : SeWord := sw 1 3 0 52 18 26 0xFFF0FFF0
def x5_2 : Form := form3 (sw 1 3 0 52 18 26 0xFFF0FFF0) 1
theorem witness_IntegerInstructionsWriteTheTablesResult_0_c :
    Rules.alu x5_0 = some (s5, x5_1, x5_2) ∧
    se.issues s5 x5_2 x5_1 = true := by
  decide +kernel

def x6_0 : SeWord := sw 1 2 1 0x3f 43 0 5
theorem witness_ProductsAndQuotientsAreWrittenLater_0 :
    se.issues s5 (Rules.mulForm x6_0) x6_0 = true := by
  decide +kernel

def x7_0 : SeWord := sw 1 3 0 0x3f 8 0 0xFFFF0080
theorem witness_ProductsAndQuotientsAreWrittenLater_0_b :
    se.issues s5 (Rules.mulForm x7_0) x7_0 = true := by
  decide +kernel

def x8_0 : SeWord := sw 1 2 1 0x3f 43 0 0
theorem witness_ProductsAndQuotientsAreWrittenLater_1 :
    se.issues s5 (Rules.divForm x8_0) x8_0 = true ∧
    x8_0.sz ≠ 4 ∧
    (se.at s5.core).div = none := by
  decide +kernel

def x9_0 : SeWord := sw 1 4 0 0x3f 41 0 0x3f80
theorem witness_ProductsAndQuotientsAreWrittenLater_2 :
    se.issues s5 (Rules.divForm x9_0) x9_0 = true ∧
    x9_0.sz = 4 ∧
    (se.at s5.core).div = none := by
  decide +kernel

def x10_0 : SeWord := sw 0 4 0 0x3f 41 0x3f 0
theorem witness_ProductsAndQuotientsAreWrittenLater_3 :
    se.issues s5 (Rules.sqrtForm x10_0) x10_0 = true ∧
    (se.at s5.core).div = none := by
  decide +kernel

def x11_0 : DWord × DWord := (1,2)
def x11_1 : List (DWord × DWord) := [(3,4)]
def x11_2 : State := seTh (fun h => {h with muls := [(1,2),(3,4)]})
theorem witness_ProductsAndQuotientsAreWrittenLater_4 :
    x11_2.calm s5.core = true ∧
    ((x11_2.at s5.core).th s5.thread).muls = x11_0 :: x11_1 := by
  decide +kernel

def dv : DivResult := {thread := 2, qot := 4, rem := 5, flags := 3}
def x13_0 : State := se.setCore 5 {seCore with div := some dv}
theorem witness_ProductsAndQuotientsAreWrittenLater_5 :
    x13_0.calm 5 = true ∧
    (x13_0.at 5).div = some dv := by
  decide +kernel

def x14_0 : Instr := .fma s5 (sw 1 4 0 16 41 41 0)
def x14_1 : SeWord := sw 1 4 0 16 41 41 0
def x14_2 : Form := Rules.fmaForm (sw 1 4 0 16 41 41 0)
def x14_3 : ℕ → ℕ → ℕ → ℕ × BitVec 6 := fun d x y => fma32 d x y
theorem witness_BinaryResultsAreWrittenInOrder_0 :
    Rules.fp x14_0 = some (s5, x14_1, x14_2, x14_3) ∧
    se.issues s5 x14_2 x14_1 = true := by
  exact ⟨rfl, by decide +kernel⟩

def x15_0 : Instr := .fcmp s5 (sw 0 4 3 40 41 41 0)
def x15_1 : SeWord := sw 0 4 3 40 41 41 0
def x15_2 : Form := Rules.fcmpForm (sw 0 4 3 40 41 41 0)
def x15_3 : ℕ → ℕ → ℕ → ℕ × BitVec 6 := fun _ x y => (if (compareFl (fcmpCond 3) (dec32 x) (dec32 y)).1 then 1 else 0, (compareFl (fcmpCond 3) (dec32 x) (dec32 y)).2)
theorem witness_BinaryResultsAreWrittenInOrder_0_b :
    Rules.fp x15_0 = some (s5, x15_1, x15_2, x15_3) ∧
    se.issues s5 x15_2 x15_1 = true := by
  exact ⟨rfl, by decide +kernel⟩

def fr : FpResult := { dest := .mem 0x88 4, bytes := 4, value := 0x3f800000, flags := 9, seq := 3}
def x17_0 : List FpResult := []
def x17_1 : State := seTh (fun h => {h with fps := [fr]})
theorem witness_BinaryResultsAreWrittenInOrder_1 :
    x17_1.quiet s5.core = true ∧
    ((x17_1.at s5.core).th s5.thread).fps = fr :: x17_0 := by
  decide +kernel

def x19_0 : SeWord := sw 0 2 0 0x3f 40 0x3f 0
theorem witness_JumpsAndBranchesGoWhereTheyName_0 :
    se.issues s5 (Rules.jmpForm x19_0) x19_0 = true ∧
    se.val s5 (se.ops s5 (Rules.jmpForm x19_0) x19_0).a % 4 = 0 := by
  decide +kernel

def x20_0 : SeWord := sw 0 2 0 41 40 0x3f 0
theorem witness_JumpsAndBranchesGoWhereTheyName_1 :
    se.issues s5 (Rules.callForm x20_0) x20_0 = true ∧
    se.val s5 (se.ops s5 (Rules.callForm x20_0) x20_0).a % 4 = 0 := by
  decide +kernel

def x21_0 : SeWord := sw 1 2 2 0 43 0 0x0000FFF0
theorem witness_JumpsAndBranchesGoWhereTheyName_2 :
    se.issues s5 (branchForm (anyTy x21_0)) x21_0 = true ∧
    x21_0.sz ≠ 4 := by
  decide +kernel

def x22_0 : SeWord := sw 1 2 2 0 43 41 0x0000FFF0
theorem witness_JumpsAndBranchesGoWhereTheyName_2_b :
    se.issues s5 (branchForm (anyTy x22_0)) x22_0 = true ∧
    x22_0.sz ≠ 4 := by
  decide +kernel

def x23_0 : SeWord := sw 1 4 0 0 43 41 0x0000FFF0
theorem witness_JumpsAndBranchesGoWhereTheyName_3 :
    se.issues s5 (branchForm (anyTy x23_0)) x23_0 = true ∧
    x23_0.sz = 4 := by
  decide +kernel

def x24_0 : SeWord := sw 1 3 3 0 43 41 0x0000FFF0
theorem witness_JumpsAndBranchesGoWhereTheyName_4 :
    se.issues s5 (branchForm (intTy x24_0)) x24_0 = true := by
  decide +kernel

def x25_0 : SeWord := sw 1 2 0 0x3f 44 0 0x5
theorem witness_LoopsStartAndEndLevels_0 :
    se.issues s5 (Rules.loopForm x25_0) x25_0 = true ∧
    1 ≤ signed 32 (se.val s5 (se.ops s5 (Rules.loopForm x25_0) x25_0).b) ∧
    se.val s5 (se.ops s5 (Rules.loopForm x25_0) x25_0).a = 0 := by
  decide +kernel

def x26_0 : SeWord := sw 1 2 0 0x3f 41 0 0x1
def x26_1 : State := seTh (fun h => {h with r := {h.r with ldepth := 3}})
theorem witness_LoopsStartAndEndLevels_1 :
    x26_1.issues s5 (Rules.loopForm x26_0) x26_0 = true ∧
    1 ≤ signed 32 (x26_1.val s5 (x26_1.ops s5 (Rules.loopForm x26_0) x26_0).b) ∧
    x26_1.val s5 (x26_1.ops s5 (Rules.loopForm x26_0) x26_0).a ≠ 0 ∧
    ((x26_1.at s5.core).th s5.thread).r.ldepth.toNat < 4 := by
  decide +kernel

def x27_0 : SeWord := sw 0 0 0 0x3f 0x3f 0x3f 0
def x27_1 : State := seTh (fun h => {h with r := {h.r with ldepth := 4}})
theorem witness_LoopsStartAndEndLevels_2 :
    x27_1.issues s5 (Rules.bareForm x27_0) x27_0 = true := by
  decide +kernel

def x28_0 : SeWord := sw 0 2 0 0x3f 0x3f 0x3f 0
theorem witness_LoopsStartAndEndLevels_2_b :
    se.issues s5 (Rules.bareForm x28_0) x28_0 = true := by
  decide +kernel

def x29_0 : SeWord := sw 0 2 0 0x3f 0x3f 0x3f 0
theorem witness_LoopsStartAndEndLevels_3 :
    se.issues s5 (Rules.bareForm x29_0) x29_0 = true := by
  decide +kernel

end PartA

/-! ### Registers that act when written -/

namespace PartD

def rd (n : BitVec 64) : SeWord := sw 1 2 0 40 0 0x3f n
def wr (m : BitVec 2) (n v : BitVec 64) : SeWord := sw 1 2 m 0x3f 0 0 (n + v * 65536)
def wra (m : BitVec 2) (n : BitVec 64) (r : BitVec 6): SeWord := sw 1 2 m 0x3f 0 r n
def dc (f : Core → Core) : State := se.setCore 5 (f seCore)
def x7_0 : SeWord := rd 0x107
theorem witness_CsrsAreReadAndWritten_0 :
    Rules.Reads se s5 x7_0 263 ∧
    csrAssigned (se.at s5.core) 263 = true := by
  decide +kernel

def x8_0 : SeWord := rd 6
theorem witness_CsrsAreReadAndWritten_1 :
    Rules.Reads se s5 x8_0 6 := by
  decide +kernel

def x9_0 : SeWord := rd 8
def x9_1 : State := {se with now := 2^32 * 7 + 9}
theorem witness_CsrsAreReadAndWritten_2 :
    Rules.Reads x9_1 s5 x9_0 8 := by
  decide +kernel

def x10_0 : SeWord := rd (0xC8+43)
def x10_1 : State := dc (fun c => {c with streams := c.streams.set 5 {c.streams[5] with rmax := 9, sat := 4}})
theorem witness_CsrsAreReadAndWritten_3 :
    Rules.Reads x10_1 s5 x10_0 (200 + 8 * 5 + 3) := by
  decide +kernel

def x11_0 : SeWord := rd (0xC8+44)
def x11_1 : State := dc (fun c => {c with streams := c.streams.set 5 {c.streams[5] with rmax := 9, sat := 4}})
theorem witness_CsrsAreReadAndWritten_4 :
    Rules.Reads x11_1 s5 x11_0 (200 + 8 * 5 + 4) := by
  decide +kernel

def x13_0 : SeWord := wr 0 0x18 0xFFF
theorem witness_CsrsAreReadAndWritten_6 :
    Rules.Writes se s5 x13_0 24 4095 := by
  decide +kernel

def x14_0 : SeWord := wr 1 0x18 0x7
theorem witness_CsrsAreReadAndWritten_6_b :
    Rules.Writes se s5 x14_0 24 7 := by
  decide +kernel

def x15_0 : SeWord := wr 2 0xC0 0x7
def x15_1 : State := dc (fun c => {c with fpflags := 0x3e})
theorem witness_CsrsAreReadAndWritten_7 :
    Rules.Writes x15_1 s5 x15_0 192 7 := by
  decide +kernel

def x16_0 : SeWord := wr 0 0x105 0xFFFF
theorem witness_CsrsAreReadAndWritten_8 :
    Rules.Writes se s5 x16_0 261 4294967295 := by
  decide +kernel

def x17_0 : SeWord := wr 0 0x106 4
theorem witness_CsrsAreReadAndWritten_9 :
    Rules.Writes se s5 x17_0 262 4 := by
  decide +kernel

def x18_0 : SeWord := wr 0 0x106 5
theorem witness_CsrsAreReadAndWritten_9_b :
    Rules.Writes se s5 x18_0 262 5 := by
  decide +kernel

def x19_0 : SeWord := wra 1 0x8F 46
def x19_1 : State := seTh (fun h => {h with r := {h.r with a := h.r.a.set 6 0x00010201}})
theorem witness_CsrsAreReadAndWritten_10 :
    Rules.Writes x19_1 s5 x19_0 (136 + 7) 66049 ∧
    Nat.testBit 66049 24 = false ∧
    (x19_1.at s5.core).runners[7].waited = false ∧
    (x19_1.at s5.core).runners[7].words = [] := by
  decide +kernel

def x20_0 : SeWord := wra 0 0x88 46
def x20_1 : State := let s := (seTh (fun h => {h with r := {h.r with a := h.r.a.set 6 0x01010201}})); s.setCore 5 {s.core 5 with runners := (s.core 5).runners.set 0 {(s.core 5).runners[0] with words := [1,2]}}
theorem witness_CsrsAreReadAndWritten_11 :
    Rules.Writes x20_1 s5 x20_0 (136 + 0) 16843265 ∧
    Nat.testBit 16843265 24 = true ∧
    x20_0.mod = 0 ∧
    (x20_1.at s5.core).runners[0].waited = false := by
  decide +kernel

def x21_0 : SeWord := wr 0 0x93 0
theorem witness_CsrsAreReadAndWritten_12 :
    Rules.Writes se s5 x21_0 147 0 := by
  decide +kernel

def x22_0 : SeWord := wr 1 0x93 9
def x22_1 : State := dc (fun c => {c with events := {c.events with tmrCnt := 100, tmrDue := 60}})
theorem witness_CsrsAreReadAndWritten_12_b :
    Rules.Writes x22_1 s5 x22_0 147 9 := by
  decide +kernel

def x23_0 : SeWord := wr 0 (0xC8+40) 1
theorem witness_UnitRegistersActWhenWritten_0 :
    Rules.Writes se s5 x23_0 (200 + 8 * 5) 1 ∧
    (se.at s5.core).streamBusy 5 = false ∧
    Rules.merged x23_0.mod (b2n (se.at s5.core).streams[5].stochastic) 1 % 4 < 2 := by
  decide +kernel

def x24_0 : SeWord := wr 0 (0xC9) 0
theorem witness_UnitRegistersActWhenWritten_1 :
    Rules.Writes se s5 x24_0 (200 + 8 * 0 + 1) 0 ∧
    (se.at s5.core).streamBusy 0 = false := by
  decide +kernel

def x25_0 : SeWord := wra 0 0x19 46
def x25_1 : State := seTh (fun h => {h with r := {h.r with a := h.r.a.set 6 0x20000002}})
theorem witness_UnitRegistersActWhenWritten_2 :
    Rules.Writes x25_1 s5 x25_0 25 536870914 ∧
    x25_0.mod = 0 ∧
    Nat.testBit 536870914 29 = true := by
  decide +kernel

def tc : Nat := 0x00400008
def x28_0 : SeWord := wra 0 0x17 46
def x28_1 : State := seTh (fun h => {h with r := {h.r with a := h.r.a.set 6 (BitVec.ofNat 32 tc)}})
theorem witness_UnitRegistersActWhenWritten_3 :
    Rules.Writes x28_1 s5 x28_0 (16 + 7) tc ∧
    x28_0.mod = 0 ∧
    (Tcfg.ofReg tc).ok = true ∧
    (x28_1.at s5.core).me.uses 7 = false ∧
    (∀ (t : Fin 4) (v' : Word) (w' : SeWord), ((x28_1.at s5.core).th t).stall ≠ Stall.tcfg 7 v' w') := by
  exact ⟨by decide +kernel, by decide +kernel, by decide +kernel, by decide +kernel, fun t v w h => by rw [(by decide +kernel : ∀ t : Fin 4, ((x28_1.at s5.core).th t).stall = Stall.none) t] at h; cases h⟩

def x29_0 : SeWord := wr 0 0x230 0x102
def x29_1 : State := dc (fun c => {c with de := {c.de with q := c.de.q.set 3 {c.de.q[3] with halt := true}}})
theorem witness_UnitRegistersActWhenWritten_4 :
    Rules.Writes x29_1 s5 x29_0 (512 + 16 * 3) 258 ∧
    x29_0.mod = 0 ∧
    Nat.testBit 258 1 = true ∧
    Nat.testBit 258 0 = false ∧
    (x29_1.at s5.core).de.q[3].halt = true := by
  decide +kernel

def x30_0 : SeWord := wr 0 0x200 0x103
def x30_1 : State := dc (fun c => {c with de := {c.de with q := c.de.q.set 0 {c.de.q[0] with halt := true}}})
theorem witness_UnitRegistersActWhenWritten_5 :
    Rules.Writes x30_1 s5 x30_0 (512 + 16 * 0) 259 ∧
    x30_0.mod = 0 ∧
    Nat.testBit 259 0 = true ∧
    (x30_1.at s5.core).de.q[0].halt = true ∧
    (x30_1.at s5.core).de.issue = [] := by
  decide +kernel

def gt (f : Gate → Gate) : State := dc (fun c => {c with spm := c.spm.mapGate 15 f})
def x32_0 : SeWord := wr 0 0x7E 0x11
def x32_1 : State := gt (fun g => {g with base := 0x1000, limit := 0x1200, fcnt := 4, gen := 255})
theorem witness_UnitRegistersActWhenWritten_6 :
    Rules.Writes x32_1 s5 x32_0 (66 + 4 * 15) 17 ∧
    x32_0.mod = 0 ∧
    Nat.testBit 17 0 = true ∧
    (x32_1.at s5.core).spm.gates[15].opened = false ∧
    (x32_1.at s5.core).spm.gates[15].closing = false ∧
    (x32_1.at s5.core).spm.mayOpen (spmBytes x32_1.ident.code) 15 ((x32_1.at s5.core).spm.gates[15].setCtl 17) = true := by
  decide +kernel

def x33_0 : SeWord := wr 0 0x7E 0
def x33_1 : State := gt (fun g => {g with base := 0x1000, limit := 0x1200, opened := true})
theorem witness_UnitRegistersActWhenWritten_7 :
    Rules.Writes x33_1 s5 x33_0 (66 + 4 * 15) 0 ∧
    x33_0.mod = 0 ∧
    Nat.testBit 0 0 = false ∧
    (x33_1.at s5.core).spm.gates[15].opened = true ∧
    (x33_1.at s5.core).spm.gates[15].closing = false ∧
    (x33_1.at s5.core).spm.gates[15].tagged = false ∧
    (x33_1.at s5.core).spm.settled 15 = true := by
  decide +kernel

def x34_0 : SeWord := wr 0 0x7D 0x40
def x34_1 : State := gt (fun g => {g with base := 0x1000, limit := 0x1200})
theorem witness_UnitRegistersActWhenWritten_8 :
    Rules.Writes x34_1 s5 x34_0 (64 + 4 * 15 + b2n true) 64 ∧
    (x34_1.at s5.core).spm.gates[15].opened = false := by
  decide +kernel

def x35_0 : SeWord := wr 1 0x40 0x40
def x35_1 : State := gt (fun g => {g with base := 0x1000, limit := 0x1200})
theorem witness_UnitRegistersActWhenWritten_8_b :
    Rules.Writes x35_1 s5 x35_0 (64 + 4 * 0 + b2n false) 64 ∧
    (x35_1.at s5.core).spm.gates[0].opened = false := by
  decide +kernel

end PartD

/-! ### Fences and tokens -/

namespace PartE

def dc (f : Core → Core) : State := se.setCore 5 (f seCore)
def mv : Core := { seCore with ve := { seCore.ve with ret := true }, me := { seCore.me with cold := false } }
def x6_0 : SeWord := sw 1 2 1 41 8 0x3f 0x80
theorem witness_FencesAndTokensHoldUntilPerformed_0 :
    se.issues s5 (ldAcqForm true x6_0) x6_0 = true := by
  decide +kernel

def x7_0 : SeWord := sw 1 2 3 8 41 0x3f 0x80
theorem witness_FencesAndTokensHoldUntilPerformed_1 :
    se.issues s5 (stRelForm false x7_0) x7_0 = true := by
  decide +kernel

def fly : State := dc (fun c => {c with spm := {c.spm with remote := [⟨1, .xst 1, 6, 0x40, .write ⟨[1],[]⟩, none, 0, .leaving, false, false⟩]}})
def x9_0 : SeWord := sw 1 2 1 8 41 0x3f 0x80
theorem witness_FencesAndTokensHoldUntilPerformed_1_b :
    fly.issues s5 (stRelForm true x9_0) x9_0 = true := by
  decide +kernel

def x10_0 : SeWord := sw 1 2 3 8 41 0x3f 0x80
theorem witness_FencesAndTokensHoldUntilPerformed_1_c :
    fly.issues s5 (stRelForm false x10_0) x10_0 = true := by
  decide +kernel

def x11_0 : SeWord := sw 0 5 0 0x3f 0x3f 0x3f 0
theorem witness_FencesAndTokensHoldUntilPerformed_2 :
    fly.issues s5 (fenceForm x11_0) x11_0 = true := by
  decide +kernel

def x12_0 : SeWord := sw 0 0 0 0x3f 0x3f 0x3f 0
theorem witness_FencesAndTokensHoldUntilPerformed_2_b :
    se.issues s5 (fenceForm x12_0) x12_0 = true := by
  decide +kernel

def fwd : SeWord := sw 0 5 0 0x3f 0x3f 0x3f 0
def x14_0 : State := seTh (fun h => {h with stall := .fence 5 fwd})
theorem witness_FencesAndTokensHoldUntilPerformed_3 :
    x14_0.calm s5.core = true ∧
    (x14_0.at s5.core).frozen = false ∧
    ((x14_0.at s5.core).th s5.thread).stall = Stall.fence 5 fwd ∧
    Rules.freeNow x14_0 s5 (5) = true := by
  decide +kernel

def x15_0 : SeWord := sw 1 2 0 0x3f 0 0x3f 0x37
theorem witness_FencesAndTokensHoldUntilPerformed_4 :
    se.issues s5 (tokForm x15_0) x15_0 = true ∧
    tokBad (Rules.tok se s5 x15_0) = false ∧
    ((se.at s5.core).unpaired s5.thread (tokNum (Rules.tok se s5 x15_0))).length < 7 ∧
    (se.at s5.core).room (tokEng (Rules.tok se s5 x15_0)) = true := by
  decide +kernel

def x16_0 : SeWord := sw 1 2 0 0x3f 0 0x3f 0x10
theorem witness_FencesAndTokensHoldUntilPerformed_4_b :
    se.issues s5 (tokForm x16_0) x16_0 = true ∧
    tokBad (Rules.tok se s5 x16_0) = false ∧
    ((se.at s5.core).unpaired s5.thread (tokNum (Rules.tok se s5 x16_0))).length < 7 ∧
    (se.at s5.core).room (tokEng (Rules.tok se s5 x16_0)) = true := by
  decide +kernel

def mk : TokenMark := {id := 4, thread := 1, eng := 0, seq := 4}
def x18_0 : State := dc (fun c => {c with marks := [mk]})
theorem witness_FencesAndTokensHoldUntilPerformed_5 :
    x18_0.calm 5 = true ∧
    (List.find? (fun m => decide (m.thread = 1 ∧ m.eng = 0)) (x18_0.at 5).marks = some mk) ∧
    Core.markDone (x18_0.env 5) (x18_0.at 5) mk = true := by
  decide +kernel

def x19_0 : SeWord := sw 1 2 0 0x3f 0 0x3f 0x07
def x19_1 : List ℕ := [6]
def x19_2 : State := seTh (fun h => {h with tokens := h.tokens.set 7 [4,6]})
theorem witness_FencesAndTokensHoldUntilPerformed_6 :
    x19_2.issues s5 (tokForm x19_0) x19_0 = true ∧
    tokBad (Rules.tok x19_2 s5 x19_0) = false ∧
    (x19_2.at s5.core).unpaired s5.thread (tokNum (Rules.tok x19_2 s5 x19_0)) = 4 :: x19_1 ∧
    (x19_2.at s5.core).room (tokEng (Rules.tok x19_2 s5 x19_0)) = true := by
  decide +kernel

def x20_0 : SeWord := sw 1 2 0 0x3f 0 0x3f 0x27
def x20_1 : List ℕ := [6]
def x20_2 : State := seTh (fun h => {h with tokens := h.tokens.set 7 [4,6]})
theorem witness_FencesAndTokensHoldUntilPerformed_6_b :
    x20_2.issues s5 (tokForm x20_0) x20_0 = true ∧
    tokBad (Rules.tok x20_2 s5 x20_0) = false ∧
    (x20_2.at s5.core).unpaired s5.thread (tokNum (Rules.tok x20_2 s5 x20_0)) = 4 :: x20_1 ∧
    (x20_2.at s5.core).room (tokEng (Rules.tok x20_2 s5 x20_0)) = true := by
  decide +kernel

def x21_0 : SeWord := sw 1 2 0 0x3f 0 0x3f 0x07
def x21_1 : List ℕ := [6]
def x21_2 : State := let s := (seTh (fun h => {h with tokens := h.tokens.set 7 [4,6]})); s.setCore 5 {s.core 5 with marks := [mk]}
theorem witness_FencesAndTokensHoldUntilPerformed_6_c :
    x21_2.issues s5 (tokForm x21_0) x21_0 = true ∧
    tokBad (Rules.tok x21_2 s5 x21_0) = false ∧
    (x21_2.at s5.core).unpaired s5.thread (tokNum (Rules.tok x21_2 s5 x21_0)) = 4 :: x21_1 ∧
    (x21_2.at s5.core).room (tokEng (Rules.tok x21_2 s5 x21_0)) = true := by
  decide +kernel

def tw : SeWord := sw 1 2 0 0x3f 0 0x3f 0x07
def x23_0 : State := seTh (fun h => {h with stall := .ewait 4 tw})
theorem witness_FencesAndTokensHoldUntilPerformed_7 :
    x23_0.calm 5 = true ∧
    (x23_0.at 5).frozen = false ∧
    ((x23_0.at 5).th 1).stall = Stall.ewait 4 tw ∧
    (x23_0.at 5).passed 4 = true := by
  decide +kernel

def x24_0 : Track := ⟨1, 2, 3, true, 7⟩
def x24_1 : State := dc (fun c => {c with tracker := [⟨1, 2, 3, true, 7⟩]})
theorem witness_FencesAndTokensHoldUntilPerformed_8 :
    x24_1.calm 5 = true ∧
    (x24_1.at 5).tracker[0]? = some x24_0 ∧
    Core.trackDone (x24_1.env 5) (x24_1.at 5) x24_0 = true := by
  decide +kernel

def x25_0 : SeWord := sw 1 2 1 8 41 0x3f 0x80
def x25_1 : State := seTh (fun h => {h with stall := .release 2 7 (sw 1 2 1 8 41 0x3f 0x80), st := .waiting})
theorem witness_FencesAndTokensHoldUntilPerformed_9 :
    x25_1.calm s5.core = true ∧
    (x25_1.at s5.core).frozen = false ∧
    ((x25_1.at s5.core).th s5.thread).stall = Stall.release 2 7 x25_0 ∧
    Rules.freeNow x25_1 s5 (2) = true := by
  decide +kernel

end PartE

/-! ### Remote elements -/

namespace PartF

def dc (f : Core → Core) : State := se.setCore 5 (f seCore)
def xl : SeWord := sw 1 2 0 41 0 0 0x00400006
def xlm : SeWord := sw 2 2 0 8 0 0 0x004000060080
theorem witness_RemoteElementsMove_0 :
    se.issues s5 (xldForm xl) xl = true ∧
    Rules.xldCore se s5 xl ≠ BitVec.toNat s5.core ∧
    Rules.reachable se (Rules.xldCore se s5 xl) (Rules.xldOff se s5 xl) (se.ops s5 (xldForm xl) xl).d.ty.bytes := by
  decide +kernel

def x7_0 : SeWord := sw 2 0 0 8 0 0 0x7FFF1F060080
def x7_1 : State := {se with ident := {se.ident with code := .s3}}
theorem witness_RemoteElementsMove_0_b :
    x7_1.issues s5 (xldForm x7_0) x7_0 = true ∧
    Rules.xldCore x7_1 s5 x7_0 ≠ BitVec.toNat s5.core ∧
    Rules.reachable x7_1 (Rules.xldCore x7_1 s5 x7_0) (Rules.xldOff x7_1 s5 x7_0) (x7_1.ops s5 (xldForm x7_0) x7_0).d.ty.bytes := by
  decide +kernel

def rx (id : Nat) (who : RemoteUser) (k : RemoteKind) (st : RemoteStage) : Remote := ⟨id, who, 6, 0x40, k, none, 3, st, false, false⟩
def wx (w : SeWord) (r : Remote) : State := (seTh (fun h => {h with stall := .xld 9 w})).setCore 5 {(seTh (fun h => {h with stall := .xld 9 w})).core 5 with spm := {seCore.spm with remote := [r]}}
def x10_0 : Remote := rx 9 (.xld 1) (.read 4) (.answered (.data ⟨[1,2,3,4], []⟩))
def x10_1 : Payload := ⟨[1,2,3,4], []⟩
def x10_2 : State := wx xl (rx 9 (.xld 1) (.read 4) (.answered (.data ⟨[1,2,3,4], []⟩)))
theorem witness_RemoteElementsMove_1 :
    x10_2.calm s5.core = true ∧
    ((x10_2.at s5.core).th s5.thread).stall = Stall.xld 9 xl ∧
    (x10_2.at s5.core).spm.inTurnOf 9 = some (x10_0, RemoteAnswer.data x10_1) ∧
    x10_1.poison = [] ∧
    (∀ (addr : ℕ), (x10_2.ops s5 (xldForm xl) xl).d.loc ≠ Loc.mem addr) := by
  exact ⟨by decide +kernel, by decide +kernel, by decide +kernel, by decide +kernel, fun addr h => by rw [(by decide +kernel : (x10_2.ops s5 (xldForm xl) xl).d.loc = Loc.areg 1)] at h; cases h⟩

def x11_0 : Remote := rx 9 (.xld 1) (.read 4) (.answered (.data ⟨[1,2,3,4], [0]⟩))
def x11_1 : Payload := ⟨[1,2,3,4], [0]⟩
def x11_2 : State := wx xlm (rx 9 (.xld 1) (.read 4) (.answered (.data ⟨[1,2,3,4], [0]⟩)))
theorem witness_RemoteElementsMove_2 :
    x11_2.calm s5.core = true ∧
    ((x11_2.at s5.core).th s5.thread).stall = Stall.xld 9 xlm ∧
    (x11_2.at s5.core).spm.inTurnOf 9 = some (x11_0, RemoteAnswer.data x11_1) ∧
    (x11_2.ops s5 (xldForm xlm) xlm).d.loc = Loc.mem 128 := by
  decide +kernel

def x12_0 : SeWord := sw 1 1 0 0 0 41 0x00420006
theorem witness_RemoteElementsMove_4 :
    se.issues s5 (xstForm x12_0) x12_0 = true ∧
    Rules.xstCore se s5 x12_0 ≠ BitVec.toNat s5.core ∧
    Rules.reachable se (Rules.xstCore se s5 x12_0) (Rules.xstOff se s5 x12_0) (se.ops s5 (xstForm x12_0) x12_0).b.ty.bytes ∧
    (se.at s5.core).spm.outstanding < 32 := by
  decide +kernel

def x13_0 : SeWord := sw 1 1 0 0 0 41 0x00420005
theorem witness_RemoteElementsMove_5 :
    se.issues s5 (xstForm x13_0) x13_0 = true ∧
    Rules.xstCore se s5 x13_0 = BitVec.toNat s5.core ∧
    Rules.reachable se (Rules.xstCore se s5 x13_0) (Rules.xstOff se s5 x13_0) (se.ops s5 (xstForm x13_0) x13_0).b.ty.bytes ∧
    bytesHeld (se.at s5.core) s5.thread (Rules.xstOff se s5 x13_0) (se.ops s5 (xstForm x13_0) x13_0).b.ty.bytes true 1 = false := by
  decide +kernel

def x14_0 : Remote := rx 9 (.xst 2) (.write ⟨[1], []⟩) (.answered .done)
def x14_1 : State := dc (fun c => {c with spm := {c.spm with remote := [rx 9 (.xst 2) (.write ⟨[1], []⟩) (.answered .done)]}})
theorem witness_RemoteElementsMove_6 :
    x14_1.calm 5 = true ∧
    (x14_1.at 5).spm.inTurnOf 9 = some (x14_0, RemoteAnswer.done) ∧
    x14_0.who = RemoteUser.xst 2 := by
  decide +kernel

def x15_0 : Remote := rx 9 (.xst 1) (.write ⟨[1], []⟩) .leaving
def x15_1 : State := dc (fun c => {c with spm := {c.spm with remote := [rx 9 (.xst 1) (.write ⟨[1], []⟩) .leaving]}})
theorem witness_RemoteElementsMove_7 :
    x15_1.calm 5 = true ∧
    (x15_1.at 5).spm.remoteOf 9 = some x15_0 ∧
    x15_0.id = 9 ∧
    x15_0.who = RemoteUser.xst 1 ∧
    x15_0.stage = RemoteStage.leaving ∧
    x15_0.dead = false := by
  decide +kernel

def s6 (k : RemoteKind) (c5 : Core) : State := (se.setCore 5 c5).setCore 6 {Core.reset with spm := {Core.reset.spm with remote := [{rx 9 (.xst 1) k .leaving with target := 5}]}}
def r6 (k : RemoteKind) : Remote := {rx 9 (.xst 1) k .leaving with target := 5}
def gts (g : Gate) : Core := {seCore with spm := {seCore.spm with gates := seCore.spm.gates.set 15 g}}
def og : Gate := {Gate.reset with base := 0, limit := 0x80, opened := true, cores := true, recorded := true, fcnt := 0xFFFF}
def x20_0 : Remote := r6 (.read 8)
def x20_1 : State := s6 (.read 8) seCore
theorem witness_RemoteElementsMove_8 :
    Rules.Comes x20_1 5 6 x20_0 ∧
    x20_1.calm 5 = true ∧
    x20_0.kind = RemoteKind.read 8 := by
  decide +kernel

def x21_0 : Remote := r6 (.write ⟨[1,2], []⟩)
def x21_1 : Payload := ⟨[1,2], []⟩
def x21_2 : State := s6 (.write ⟨[1,2], []⟩) (gts og)
theorem witness_RemoteElementsMove_9 :
    Rules.Comes x21_2 5 6 x21_0 ∧
    x21_2.calm 5 = true ∧
    x21_0.kind = RemoteKind.write x21_1 ∧
    (x21_2.core 5).spm.accepts (Writer.core 6) x21_0.gen x21_0.offset x21_1.bytes.length = true := by
  decide +kernel

def x22_0 : Remote := r6 (.write ⟨[1,2], []⟩)
def x22_1 : Payload := ⟨[1,2], []⟩
def x22_2 : State := s6 (.write ⟨[1,2], []⟩) (gts {og with cores := false})
theorem witness_RemoteElementsMove_10 :
    Rules.Comes x22_2 5 6 x22_0 ∧
    x22_2.calm 5 = true ∧
    x22_0.kind = RemoteKind.write x22_1 ∧
    (x22_2.core 5).spm.gateOf x22_0.offset x22_1.bytes.length = some 15 ∧
    (x22_2.core 5).spm.gates[15].admits (Writer.core 6) x22_0.gen = false ∧
    (x22_2.core 5).spm.gates[15].recorded = true := by
  decide +kernel

def x24_0 : Remote := r6 (.read 8)
def x24_1 : List SpmFinding := []
def x24_2 : Option (Fin 272) := some 6
def x24_3 : State := s6 (.read 8) seCore
theorem witness_RemoteElementsMove_11 :
    x24_3.arriving 5 6 = some x24_0 ∧
    x24_3.onPath 6 5 0 x24_2 = true := by
  decide +kernel

def x25_0 : SeWord := sw 2 2 0 8 0 0 0x004000050080
theorem witness_RemoteElementsMove_3 :
    se.issues s5 (xldForm x25_0) x25_0 = true ∧
    Rules.xldCore se s5 x25_0 = BitVec.toNat s5.core ∧
    Rules.reachable se (Rules.xldCore se s5 x25_0) (Rules.xldOff se s5 x25_0) (se.ops s5 (xldForm x25_0) x25_0).d.ty.bytes ∧
    bytesHeld (se.at s5.core) s5.thread (Rules.xldOff se s5 x25_0) (se.ops s5 (xldForm x25_0) x25_0).d.ty.bytes false 0 = false ∧
    (se.ops s5 (xldForm x25_0) x25_0).d.loc = Loc.mem 128 := by
  decide +kernel

end PartF

/-! ### Tagged slots -/

namespace PartG

def tgate : Gate := {Gate.reset with base := 0x1000, limit := 0x2000, opened := true, tagged := true, cores := true}
def tcore (full : Bool) (f : Core → Core := id) : Core := f {seCore with spm := {(seCore.spm.write 0x1000 [9,8,7]) with gates := seCore.spm.gates.set 2 tgate, tags := if full then [0x40] else []}}
def tst (full : Bool) (f : Core → Core := id) : State := se.setCore 5 (tcore full f)
def ldw (m : BitVec 2) : SeWord := sw 2 2 m 8 1 0x3f 0x000500400080
def stw (m : BitVec 2) : SeWord := sw 2 2 m 1 8 0x3f 0x008000050040
def x8_0 : SeWord := ldw 0
def x8_1 : State := tst true
theorem witness_SlotsServeInOrder_0 :
    Rules.LocalSlot x8_1 false s5 x8_0 ∧
    (x8_1.ops s5 (sldForm x8_0) x8_0).d.loc = Loc.mem 128 ∧
    (x8_1.at s5.core).spm.servesNow (Rules.seg x8_1 false s5 x8_0) false = true ∧
    blocks x8_0 = true := by
  decide +kernel

def x9_0 : SeWord := stw 0
def x9_1 : State := tst false
theorem witness_SlotsServeInOrder_1 :
    Rules.LocalSlot x9_1 true s5 x9_0 ∧
    (x9_1.ops s5 (sstForm x9_0) x9_0).a.loc = Loc.mem 128 ∧
    (x9_1.at s5.core).spm.servesNow (Rules.seg x9_1 true s5 x9_0) true = true ∧
    blocks x9_0 = true := by
  decide +kernel

def x10_0 : SeWord := ldw 1
def x10_1 : State := tst false
theorem witness_SlotsServeInOrder_2 :
    Rules.LocalSlot x10_1 false s5 x10_0 ∧
    (x10_1.at s5.core).spm.full (Rules.seg x10_1 false s5 x10_0) = false ∧
    blocks x10_0 = false := by
  decide +kernel

def x11_0 : SeWord := stw 1
def x11_1 : State := tst true
theorem witness_SlotsServeInOrder_3 :
    Rules.LocalSlot x11_1 true s5 x11_0 ∧
    (x11_1.at s5.core).spm.full (Rules.seg x11_1 true s5 x11_0) = true ∧
    blocks x11_0 = false := by
  decide +kernel

def sx : SlotWait := ⟨0x40, .thread 1, false, .empty⟩
def x13_0 : SeWord := ldw 0
def x13_1 : Option ℕ := some 9
def x13_2 : State := tst true (fun c => ({c with spm := {c.spm with waits := [sx]}}).mapTh 1 (fun h => {h with stall := .slot 77 false (ldw 0) (some 9), st := .waiting}))
theorem witness_SlotsServeInOrder_4 :
    x13_2.calm 5 = true ∧
    (x13_2.at 5).frozen = false ∧
    (x13_2.at 5).spm.moving (64) = false ∧
    (x13_2.at 5).spm.firstFit (64) = some sx ∧
    sx.who = SlotUser.thread 1 ∧
    sx.store = false ∧
    ((x13_2.at 5).th 1).stall = Stall.slot 77 false x13_0 x13_1 := by
  decide +kernel

def mvx : SlotWait := ⟨0x40, .remote 6 9, true, ⟨List.replicate 64 7, []⟩⟩
def x15_0 : Payload := ⟨List.replicate 64 7, []⟩
def x15_1 : List SpmFinding := []
def x15_2 : State := (tst true (fun c => ({c with spm := {c.spm with moves := [(mvx, ⟨List.replicate 64 7, []⟩)]}}))).setCore 6 {Core.reset with spm := {Core.reset.spm with remote := [⟨9, .tag 0, 5, 0x1000, .sst true ⟨List.replicate 64 7, []⟩, none, 0, .parked, false, false⟩]}}
theorem witness_SlotsServeInOrder_5 :
    x15_2.calm 5 = true ∧
    (x15_2.at 5).frozen = false ∧
    (List.find? (fun p => p.1.seg == 64) (x15_2.at 5).spm.moves = some (mvx, x15_0)) ∧
    mvx.who = SlotUser.remote 6 9 ∧
    mvx.store = true := by
  decide +kernel

def rt (k : RemoteKind) : Remote := ⟨9, .tag 0, 5, 0x1000, k, none, 0, .leaving, false, false⟩
def rs (k : RemoteKind) (s : State) : State := s.setCore 6 {Core.reset with spm := {Core.reset.spm with remote := [rt k]}}
def pl : Payload := ⟨List.replicate 64 7, []⟩
def x19_0 : Remote := rt (.sst true pl)
def x19_1 : State := rs (.sst true pl) (tst false)
theorem witness_TaggedAccessesOfOtherCoresArePut_0 :
    Rules.TagComes x19_1 5 6 x19_0 true true pl ∧
    x19_0.kind ≠ RemoteKind.fill ∧
    (x19_1.core 5).spm.servesNow (x19_0.offset / 64) true = true := by
  decide +kernel

def x20_0 : Remote := rt (.sld false)
def x20_1 : Payload := .empty
def x20_2 : State := rs (.sld false) (tst true)
theorem witness_TaggedAccessesOfOtherCoresArePut_0_b :
    Rules.TagComes x20_2 5 6 x20_0 false false x20_1 ∧
    x20_0.kind ≠ RemoteKind.fill ∧
    (x20_2.core 5).spm.servesNow (x20_0.offset / 64) false = true := by
  decide +kernel

def x21_0 : Remote := rt (.sst true pl)
def x21_1 : State := rs (.sst true pl) (tst true)
theorem witness_TaggedAccessesOfOtherCoresArePut_1 :
    Rules.TagComes x21_1 5 6 x21_0 true true pl ∧
    (x21_1.core 5).spm.servesNow (x21_0.offset / 64) true = false ∧
    (x21_1.core 5).spm.parked < 32 := by
  decide +kernel

def x22_0 : Remote := rt (.sld true)
def x22_1 : Payload := .empty
def x22_2 : State := rs (.sld true) (tst false)
theorem witness_TaggedAccessesOfOtherCoresArePut_1_b :
    Rules.TagComes x22_2 5 6 x22_0 false true x22_1 ∧
    (x22_2.core 5).spm.servesNow (x22_0.offset / 64) false = false ∧
    (x22_2.core 5).spm.parked < 32 := by
  decide +kernel

def x23_0 : Remote := rt (.sld true)
def x23_1 : Payload := .empty
def x23_2 : State := rs (.sld true) (tst false (fun c => {c with spm := {c.spm with waits := (List.range 32).map (fun i => ⟨0x41, .remote 7 i, true, pl⟩)}}))
theorem witness_TaggedAccessesOfOtherCoresArePut_2 :
    Rules.TagComes x23_2 5 6 x23_0 false true x23_1 ∧
    (x23_2.core 5).spm.servesNow (x23_0.offset / 64) false = false ∧
    32 ≤ (x23_2.core 5).spm.parked := by
  decide +kernel

def wdr : Remote := {rt (.sld true) with withdrawal := true, stage := .parked}
def x25_0 : State := (tst false (fun c => {c with spm := {c.spm with waits := [⟨0x40, .remote 6 9, false, .empty⟩, ⟨0x40, .remote 7 9, false, .empty⟩]}})).setCore 6 {Core.reset with spm := {Core.reset.spm with remote := [wdr]}}
theorem witness_TaggedAccessesOfOtherCoresArePut_3 :
    x25_0.calm 5 = true ∧
    (List.find? (fun r => r.target == 5 && r.withdrawal && decide (r.stage ≠ RemoteStage.lost) && (decide (r.stage = RemoteStage.answered RemoteAnswer.retry) || (x25_0.core 5).spm.waits.any fun x => decide (x.who = SlotUser.remote 6 r.id))) (x25_0.core 6).spm.remote = some wdr) := by
  decide +kernel

def rr (st : RemoteStage) (k : RemoteKind): Remote := ⟨9, .tag 1, 6, 0x1000, k, none, 0, st, false, false⟩
def rw5 (st : RemoteStage) (store : Bool) (w : SeWord) (k : RemoteKind) (dl : Option Nat) : State := tst false (fun c => ({c with spm := {c.spm with remote := [rr st k]}}).mapTh 1 (fun h => {h with stall := .slotRemote 9 store w dl, st := .waiting}))
def x28_0 : SeWord := ldw 0
def x28_1 : State := rw5 .parked false (ldw 0) (.sld true) (some 1000)
theorem witness_TaggedAccessesOfOtherCoresArePut_4 :
    x28_1.calm s5.core = true ∧
    ((x28_1.at s5.core).th s5.thread).stall = Stall.slotRemote 9 false x28_0 (some 1000) := by
  decide +kernel

def x29_0 : SeWord := stw 0
def x29_1 : Option ℕ := some 1000
def x29_2 : Remote := rr (.answered .done) (.sst true pl)
def x29_3 : State := rw5 (.answered .done) true (stw 0) (.sst true pl) (some 1000)
theorem witness_TaggedAccessesOfOtherCoresArePut_5 :
    x29_3.calm s5.core = true ∧
    ((x29_3.at s5.core).th s5.thread).stall = Stall.slotRemote 9 true x29_0 x29_1 ∧
    ((x29_3.at s5.core).th s5.thread).st = ThState.waiting ∧
    (x29_3.at s5.core).spm.inTurnOf 9 = some (x29_2, RemoteAnswer.done) ∧
    blocks x29_0 = true := by
  decide +kernel

def x30_0 : SeWord := ldw 0
def x30_1 : Option ℕ := some 1000
def x30_2 : Remote := rr (.answered .retry) (.sld true)
def x30_3 : State := rw5 (.answered .retry) false (ldw 0) (.sld true) (some 1000)
theorem witness_TaggedAccessesOfOtherCoresArePut_6 :
    x30_3.calm s5.core = true ∧
    ((x30_3.at s5.core).th s5.thread).stall = Stall.slotRemote 9 false x30_0 x30_1 ∧
    (x30_3.at s5.core).spm.remoteOf 9 = some x30_2 ∧
    x30_2.stage = RemoteStage.answered RemoteAnswer.retry := by
  decide +kernel

end PartG

/-! ### Threads, runners and events -/

namespace PartH

def dc (f : Core → Core) : State := se.setCore 5 (f seCore)
def z0 : Core := { seCore with threads := #v[{th1 with r := {th1.r with pc := 0x200}}, th1, Thread.reset .inactive, {Thread.reset .stopped with muls := []}] }
def zs : State := se.setCore 5 z0
def zc (f : Core → Core) : State := se.setCore 5 (f z0)
def s50 : Site := ⟨5, 0, []⟩
def cw (m : BitVec 2) (v : BitVec 64) : SeWord := sw 1 2 m 0x3f 0 0x3f v
def x10_0 : SeWord := sw 2 2 0 0 0 0 0x123400070003
theorem witness_ThreadZeroControlsTheOthers_0 :
    zs.issues s50 (Rules.thsetForm x10_0) x10_0 = true ∧
    s50.thread = 0 ∧
    0 < Rules.setTarget zs s50 x10_0 ∧
    Rules.setTarget zs s50 x10_0 < 4 ∧
    ((zs.at s50.core).th (Fin.ofNat 4 (Rules.setTarget zs s50 x10_0))).st.idle = true ∧
    Rules.setSel zs s50 x10_0 = 7 := by
  decide +kernel

def x11_0 : SeWord := sw 2 2 0 0 0 0 0x123400190002
theorem witness_ThreadZeroControlsTheOthers_1 :
    zs.issues s50 (Rules.thsetForm x11_0) x11_0 = true ∧
    s50.thread = 0 ∧
    0 < Rules.setTarget zs s50 x11_0 ∧
    Rules.setTarget zs s50 x11_0 < 4 ∧
    ((zs.at s50.core).th (Fin.ofNat 4 (Rules.setTarget zs s50 x11_0))).st.idle = true ∧
    Rules.setSel zs s50 x11_0 = 25 ∧
    Rules.setVal zs s50 x11_0 % 4 = 0 := by
  decide +kernel

def x12_0 : SeWord := cw 0 3
theorem witness_ThreadZeroControlsTheOthers_2 :
    zs.issues s50 (controlForm x12_0) x12_0 = true ∧
    s50.thread = 0 ∧
    x12_0.mod = 0 ∧
    0 < Rules.target zs s50 x12_0 ∧
    Rules.target zs s50 x12_0 < 4 ∧
    ((zs.at s50.core).th (Fin.ofNat 4 (Rules.target zs s50 x12_0))).st.idle = true := by
  decide +kernel

def x13_0 : SeWord := cw 1 1
theorem witness_ThreadZeroControlsTheOthers_3 :
    zs.issues s50 (controlForm x13_0) x13_0 = true ∧
    s50.thread = 0 ∧
    x13_0.mod = 1 ∧
    0 < Rules.target zs s50 x13_0 ∧
    Rules.target zs s50 x13_0 < 4 ∧
    ((zs.at s50.core).th (Fin.ofNat 4 (Rules.target zs s50 x13_0))).st = ThState.running ∧
    ((zs.at s50.core).th (Fin.ofNat 4 (Rules.target zs s50 x13_0))).stall = Stall.none := by
  decide +kernel

def x14_0 : SeWord := cw 1 2
theorem witness_ThreadZeroControlsTheOthers_4 :
    zs.issues s50 (controlForm x14_0) x14_0 = true ∧
    s50.thread = 0 ∧
    x14_0.mod = 1 ∧
    0 < Rules.target zs s50 x14_0 ∧
    Rules.target zs s50 x14_0 < 4 ∧
    ((zs.at s50.core).th (Fin.ofNat 4 (Rules.target zs s50 x14_0))).st.idle = true := by
  decide +kernel

def x15_0 : SeWord := cw 1 1
def x15_1 : State := zc (fun c => (c.mapTh 1 (fun h => {h with muls := [(1,2)], stopAsked := true})).mapTh 0 (fun h => {h with stall := .thstop 1 (cw 1 1)}))
theorem witness_ThreadZeroControlsTheOthers_5 :
    x15_1.calm 5 = true ∧
    ((x15_1.at 5).th 0).stall = Stall.thstop 1 x15_0 ∧
    ((x15_1.at 5).th 0).st = ThState.running ∧
    1 ≠ 0 ∧
    ((x15_1.at 5).th 1).st = ThState.running ∧
    ((x15_1.at 5).th 1).stall = Stall.none ∧
    (x15_1.at 5).frozen = false := by
  decide +kernel

def x16_0 : SeWord := sw 0 2 2 0x3f 0x3f 0x3f 0
def x16_1 : State := zc (fun c => c.mapTh 1 (fun h => {h with muls := [(1,2)]}))
theorem witness_ThreadZeroControlsTheOthers_6 :
    x16_1.issues s5 (thendForm x16_0) x16_0 = true ∧
    x16_0.mod = 2 ∧
    0 ≠ s5.thread ∧
    ((x16_1.at s5.core).th 0).st = ThState.running := by
  decide +kernel

def rn (n : Fin 8) (f : Runner → Runner) : State := zc (fun c => {c with runners := c.runners.set n (f c.runners[n])})
def x18_0 : SeWord := sw 1 3 0 0 41 0x3f 0x7
def x18_1 : State := rn 7 (fun r => {r with words := [1,2,3], send := 2})
theorem witness_RunnersPassWordsInOrder_0 :
    Rules.maySend x18_1 s5 (rsendForm x18_0) x18_0 ∧
    x18_0.mod = 0 ∧
    (x18_1.at s5.core).runners[Rules.sendTo x18_1 s5 (rsendForm x18_0) x18_0].sendWait = [] ∧
    (x18_1.at s5.core).runners[Rules.sendTo x18_1 s5 (rsendForm x18_0) x18_0].words.length < 4 := by
  decide +kernel

def x19_0 : SeWord := sw 1 3 1 0 8 0x3f 0x00800007
def x19_1 : State := rn 7 (fun r => {r with send := 2})
theorem witness_RunnersPassWordsInOrder_1 :
    Rules.maySend x19_1 s5 (rsend4Form x19_0) x19_0 ∧
    x19_0.mod = 1 ∧
    (x19_1.at s5.core).runners[Rules.sendTo x19_1 s5 (rsend4Form x19_0) x19_0].sendWait = [] ∧
    (x19_1.at s5.core).runners[Rules.sendTo x19_1 s5 (rsend4Form x19_0) x19_0].words = [] := by
  decide +kernel

def x20_0 : SeWord := sw 1 3 1 0 8 0x3f 0x00800000
def x20_1 : State := rn 0 (fun r => {r with words := [1]})
theorem witness_RunnersPassWordsInOrder_2 :
    Rules.maySend x20_1 s5 (rsend4Form x20_0) x20_0 ∧
    x20_0.mod = 1 ∧
    0 ≠ s5.thread ∧
    ((x20_1.at s5.core).th 0).st = ThState.running ∧
    (x20_1.at s5.core).runners[Rules.sendTo x20_1 s5 (rsend4Form x20_0) x20_0].words ≠ [] := by
  decide +kernel

def x21_0 : SeWord := sw 1 3 2 48 0 0x3f 0x0007
def x21_1 : List DWord := [8]
def x21_2 : State := rn 7 (fun r => {r with words := [7,8], recv := 2})
theorem witness_RunnersPassWordsInOrder_3 :
    x21_2.issues s5 (rrecvForm x21_0) x21_0 = true ∧
    x21_0.mod = 2 ∧
    x21_2.val s5 (x21_2.ops s5 (rrecvForm x21_0) x21_0).a < 8 ∧
    (x21_2.at s5.core).runners[Rules.recvFrom x21_2 s5 x21_0].en = true ∧
    (x21_2.at s5.core).runners[Rules.recvFrom x21_2 s5 x21_0].recv.getLsbD ↑s5.thread = true ∧
    (x21_2.at s5.core).runners[Rules.recvFrom x21_2 s5 x21_0].recvWait = [] ∧
    (x21_2.at s5.core).runners[Rules.recvFrom x21_2 s5 x21_0].words = 7 :: x21_1 := by
  decide +kernel

def rv : SeWord := sw 1 3 2 48 0 0x3f 0x0007
def x23_0 : List (Fin 4) := [0]
def x23_1 : List DWord := []
def x23_2 : List SpmFinding := []
def x23_3 : State := let s := rn 7 (fun r => {r with words := [9], recvWait := [1, 0]}); s.setCore 5 ((s.core 5).mapTh 1 (fun h => {h with stall := .runner 7 true rv, st := .waiting}))
theorem witness_RunnersPassWordsInOrder_4 :
    x23_3.calm 5 = true ∧
    (x23_3.at 5).frozen = false ∧
    (x23_3.at 5).runners[7].recvWait = 1 :: x23_0 ∧
    (x23_3.at 5).runners[7].words = 9 :: x23_1 ∧
    ((x23_3.at 5).th 1).stall = Stall.runner 7 true rv := by
  decide +kernel

def r4 : SeWord := sw 1 3 1 0 8 0x3f 0x00800000
def x25_0 : List DWord := [1,2,3,4]
def x25_1 : List (Fin 4 × List DWord) := [(0,[5])]
def x25_2 : State := let s := rn 0 (fun r => {r with sendWait := [(1,[1,2,3,4]), (0,[5])]}); s.setCore 5 ((s.core 5).mapTh 1 (fun h => {h with stall := .runner 0 false r4, st := .waiting}))
theorem witness_RunnersPassWordsInOrder_5 :
    x25_2.calm 5 = true ∧
    (x25_2.at 5).frozen = false ∧
    (x25_2.at 5).runners[0].sendWait = (1, x25_0) :: x25_1 ∧
    (x25_2.at 5).runners[0].words.length + x25_0.length ≤ 4 ∧
    ((x25_2.at 5).th 1).stall = Stall.runner 0 false r4 := by
  decide +kernel

def ew (m : BitVec 2) (v : BitVec 64) : SeWord := sw 1 2 m 0x3f 0 0x3f v
def ev (n : Fin 32) (k : BitVec 16) (ws : List (Fin 4) := []) (f : Core → Core := id) : State := zc (fun c => f {c with events := {c.events with ev := c.events.ev.set n k, waiters := c.events.waiters.set n ws}})
def x28_0 : SeWord := ew 0 0x051F
def x28_1 : State := ev 31 0xFFFC
theorem witness_EventsCountAndWaitersAreServed_0 :
    Rules.EventIssues x28_1 s5 x28_0 0 ∧
    Rules.free x28_1 s5 1 = true := by
  decide +kernel

def x29_0 : SeWord := ew 0 0x031F
def x29_1 : State := ev 31 0xFFFC
theorem witness_EventsCountAndWaitersAreServed_0_b :
    Rules.EventIssues x29_1 s5 x29_0 0 ∧
    Rules.free x29_1 s5 1 = true := by
  decide +kernel

def x30_0 : SeWord := ew 0 0x0000
def x30_1 : State := ev 31 0xFFFC
theorem witness_EventsCountAndWaitersAreServed_0_c :
    Rules.EventIssues x30_1 s5 x30_0 0 ∧
    Rules.free x30_1 s5 1 = true := by
  decide +kernel

def x31_0 : SeWord := ew 1 0x051F
def x31_1 : State := ev 31 5
theorem witness_EventsCountAndWaitersAreServed_1 :
    Rules.EventIssues x31_1 s5 x31_0 1 ∧
    (x31_1.at s5.core).events.waiters[Fin.ofNat 32 (Rules.event x31_1 s5 x31_0)] = [] ∧
    Rules.count (Rules.event x31_1 s5 x31_0) ≤ (x31_1.at s5.core).events.ev[Fin.ofNat 32 (Rules.event x31_1 s5 x31_0)].toNat := by
  decide +kernel

def x32_0 : SeWord := ew 1 0x051F
def x32_1 : State := ev 31 4 [2]
theorem witness_EventsCountAndWaitersAreServed_2 :
    Rules.EventIssues x32_1 s5 x32_0 1 ∧
    0 ≠ s5.thread ∧
    ((x32_1.at s5.core).th 0).st = ThState.running ∧
    (x32_1.at s5.core).events.ev[Fin.ofNat 32 (Rules.event x32_1 s5 x32_0)].toNat < Rules.count (Rules.event x32_1 s5 x32_0) := by
  decide +kernel

def x33_0 : SeWord := ew 2 0x001F
def x33_1 : State := ev 31 4 [2]
theorem witness_EventsCountAndWaitersAreServed_3 :
    Rules.EventIssues x33_1 s5 x33_0 2 ∧
    Rules.event x33_1 s5 x33_0 < 32 := by
  decide +kernel

def ee : SeWord := ew 1 0x051F
def x35_0 : List (Fin 4) := [0]
def x35_1 : State := ev 31 5 [1, 0] (fun c => c.mapTh 1 (fun h => {h with stall := .event 31 5 ee, st := .waiting}))
theorem witness_EventsCountAndWaitersAreServed_4 :
    x35_1.calm 5 = true ∧
    (x35_1.at 5).frozen = false ∧
    (x35_1.at 5).events.waiters[31] = 1 :: x35_0 ∧
    ((x35_1.at 5).th 1).stall = Stall.event 31 5 ee ∧
    5 ≤ (x35_1.at 5).events.ev[31].toNat := by
  decide +kernel

def x36_0 : State := zc (fun c => {c with events := {c.events with tmrEn := true, tmrEv := 31, tmrDue := 100, ev := c.events.ev.set 31 0xFFFF}})
theorem witness_EventsCountAndWaitersAreServed_5 :
    x36_0.calm 5 = true ∧
    (x36_0.at 5).events.tmrEn = true := by
  decide +kernel

def x37_0 : State := zc (fun c => (c.mapTh 1 (fun h => {h with stall := .event 31 5 ee, st := .waiting})).mapTh 0 (fun h => {h with st := .stopped}))
theorem witness_EventsCountAndWaitersAreServed_6 :
    x37_0.calm 5 = true ∧
    (x37_0.at 5).released = true ∧
    (x37_0.at 5).frozen = false ∧
    Core.deadlocked (x37_0.env 5) (x37_0.at 5) = true ∧
    ((x37_0.at 5).th 1).st = ThState.waiting := by
  decide +kernel

end PartH

/-! ### Exceptions -/

namespace PartI

def dc (f : Core → Core) : State := se.setCore 5 (f seCore)
def xc (imp : Bool) (vec : Word) (e : Bool) : Core := seCore.mapTh 1 (fun h => {h with x := {h.x with vec := vec, exc := e}, muls := [(5,6)]})
def ex1 : Exc := {cause := 2, opid := 1, eng := 3, target := 9, addr := 77, unit := 2}
def ex0A : Exc := {ex1 with cause := 0x0A}
def bare : SeWord := sw 0 2 0 0x3f 0x3f 0x3f 0
def x10_0 : Instr := .add s5 (sw 1 2 0 0 41 0 9)
def x10_1 : SeWord := sw 1 2 0 0 41 0 9
def x10_2 : Form := form3 (sw 1 2 0 0 41 0 9) 1
def x10_3 : State := dc (fun _ => xc false 0x4001 false)
theorem witness_ExceptionsAreRaisedAndTaken_1 :
    Rules.alu x10_0 = some (s5, x10_1, x10_2) ∧
    x10_3.turnOf s5 x10_1.len = true ∧
    legal x10_2 x10_1 = false ∧
    BitVec.getLsbD ((x10_3.at s5.core).th s5.thread).x.vec 0 = true ∧
    ((x10_3.at s5.core).th s5.thread).x.exc = false := by
  decide +kernel

def x11_0 : List Exc := [ex0A, ex1]
theorem witness_ExceptionsAreRaisedAndTaken_2 :
    lowestExc x11_0 = some ex1 := by
  decide +kernel

def x12_0 : Form := form3 (sw 1 2 0 40 41 0 9) 1
def x12_1 : SeWord := sw 1 2 0 40 41 0 9
theorem witness_ExceptionsAreRaisedAndTaken_3 :
    legal x12_0 x12_1 = true := by
  decide +kernel

def x13_0 : State := seTh (fun h => {h with x := {h.x with exc := true, pc := 0x300, pend := true}, held := some ex1, arrived := []})
theorem witness_ReturnsAndStopsAreTaken_0 :
    x13_0.issues s5 (bareForm bare) bare = true ∧
    bare.mod = 0 ∧
    ((x13_0.at s5.core).th s5.thread).x.exc = true ∧
    BitVec.toNat ((x13_0.at s5.core).th s5.thread).x.pc % 4 = 0 := by
  decide +kernel

def bw : SeWord := sw 0 2 1 0x3f 0x3f 0x3f 0
def x15_0 : State := seTh (fun h => {h with x := {h.x with vec := 0x501}})
theorem witness_ReturnsAndStopsAreTaken_1 :
    x15_0.issues s5 (bareForm bw) bw = true ∧
    bw.mod = 1 ∧
    (x15_0.at s5.core).dbg.attached = false ∧
    BitVec.getLsbD ((x15_0.at s5.core).th s5.thread).x.vec 0 = true ∧
    ((x15_0.at s5.core).th s5.thread).x.exc = false := by
  decide +kernel

def at1 (f : Core → Core) : State := dc (fun c => f {c with dbg := {c.dbg with attached := true, tren := true, trsel := 0x7f}})
def x17_0 : State := at1 (fun c => c.mapTh 1 (fun h => {h with muls := [(1,2)]}))
theorem witness_ReturnsAndStopsAreTaken_2 :
    x17_0.issues s5 (bareForm bw) bw = true ∧
    bw.mod = 1 ∧
    Rules.alone x17_0 s5.core := by
  decide +kernel

def x18_0 : List Exc := [ex0A]
def x18_1 : State := seTh (fun h => {h with x := {h.x with vec := 0x501}, arrived := [ex1, ex0A]})
theorem witness_ReturnsAndStopsAreTaken_3 :
    x18_1.calm s5.core = true ∧
    (x18_1.at s5.core).released = true ∧
    (x18_1.at s5.core).frozen = false ∧
    ((x18_1.at s5.core).th s5.thread).st = ThState.running ∧
    ((x18_1.at s5.core).th s5.thread).stall = Stall.none ∧
    ((x18_1.at s5.core).th s5.thread).stopAsked = false ∧
    ((x18_1.at s5.core).th s5.thread).arrived = ex1 :: x18_0 ∧
    ((x18_1.at s5.core).th s5.thread).x.exc = false ∧
    handleable ex1.cause = true ∧
    BitVec.getLsbD ((x18_1.at s5.core).th s5.thread).x.vec 0 = true := by
  decide +kernel

def x19_0 : List Exc := [ex0A]
def x19_1 : State := seTh (fun h => {h with x := {h.x with vec := 0x501, exc := true}, arrived := [ex1, ex0A]})
theorem witness_ReturnsAndStopsAreTaken_4 :
    x19_1.calm s5.core = true ∧
    (x19_1.at s5.core).released = true ∧
    (x19_1.at s5.core).frozen = false ∧
    ((x19_1.at s5.core).th s5.thread).st = ThState.running ∧
    ((x19_1.at s5.core).th s5.thread).stall = Stall.none ∧
    ((x19_1.at s5.core).th s5.thread).stopAsked = false ∧
    ((x19_1.at s5.core).th s5.thread).arrived = ex1 :: x19_0 ∧
    ((x19_1.at s5.core).th s5.thread).x.exc = true ∧
    ((x19_1.at s5.core).th s5.thread).held = none := by
  decide +kernel

def bpt : Breakpoint := {addr := 0x100, en := true, halt := true, trstop := false, trstart := false, threads := 2}
def x21_0 : State := at1 (fun c => {c with dbg := {c.dbg with bp := c.dbg.bp.set 3 bpt}})
theorem witness_ReturnsAndStopsAreTaken_5 :
    Rules.alone x21_0 s5.core ∧
    (x21_0.at s5.core).atBoundary s5.thread = true ∧
    (x21_0.at s5.core).bpHit s5.thread = true ∧
    (((x21_0.at s5.core).dbg.bp.all fun b => !b.trstop && !b.trstart) = true) := by
  decide +kernel

def wpt : Watchpoint := {base := 0x80, limit := 0x84, en := true, rd := true, wr := false, threads := 2}
def x23_0 : State := at1 (fun c => {c with dbg := {c.dbg with wp := c.dbg.wp.set 1 wpt}})
theorem witness_ReturnsAndStopsAreTaken_6 :
    Rules.alone x23_0 s5.core ∧
    (x23_0.at s5.core).atBoundary s5.thread = true ∧
    (x23_0.at s5.core).bpHit s5.thread = false ∧
    watchHit (x23_0.at s5.core) s5.thread (131) 1 (!false) false = true := by
  decide +kernel

def x24_0 : State := at1 (fun c => c.mapTh 1 (fun h => {h with x := {h.x with sstep := true}, stepped := true}))
theorem witness_ReturnsAndStopsAreTaken_7 :
    Rules.alone x24_0 s5.core ∧
    (x24_0.at s5.core).atBoundary s5.thread = true ∧
    ((x24_0.at s5.core).th s5.thread).x.sstep = true ∧
    ((x24_0.at s5.core).th s5.thread).stepped = true := by
  decide +kernel

def x25_0 : State := at1 (fun c => {c with dbg := {c.dbg with crossAsked := true}})
theorem witness_ReturnsAndStopsAreTaken_8 :
    x25_0.calm 5 = true ∧
    (x25_0.at 5).dbg.crossAsked = true := by
  decide +kernel

def x26_0 : Vector Word 4 := #v[1,2,3,4]
def x26_1 : List (Vector Word 4) := [#v[5,6,7,8]]
def x26_2 : List SpmFinding := []
def x26_3 : State := dc (fun c => {c with dbg := {c.dbg with buf := [#v[1,2,3,4], #v[5,6,7,8]], trptr := 0x100, trlimit := 0x120}})
theorem witness_ScrubbersAndTracesGoOn_0 :
    x26_3.calm 5 = true ∧
    (x26_3.at 5).dbg.buf = x26_0 :: x26_1 ∧
    (x26_3.at 5).dbg.trptr.toNat + 16 ≤ spmBytes x26_3.ident.code ∧
    (x26_3.at 5).dbg.trptr.toNat + 16 < (x26_3.at 5).dbg.trlimit.toNat := by
  decide +kernel

def x27_0 : State := at1 id
theorem witness_ScrubbersAndTracesGoOn_1 :
    x27_0.calm 5 = true ∧
    (x27_0.at 5).dbg.attached = true ∧
    (x27_0.at 5).dbg.tren = true ∧
    (x27_0.at 5).dbg.buf.length < 64 ∧
    x27_0.now % 2 ^ 30 = 0 := by
  decide +kernel

def x28_0 : SpmPort := .dma
theorem witness_ScrubbersAndTracesGoOn_2 :
    se.calm 5 = true ∧
    x28_0 ≠ SpmPort.scrub := by
  decide +kernel

def x29_0 : State := dc (fun c => c.mapScrub 15 (fun x => {x with writebacks := [4,5]}))
theorem witness_ScrubbersAndTracesGoOn_3 :
    x29_0.calm 5 = true := by
  decide +kernel

def x30_0 : State := dc (fun c => c.mapScrub 15 (fun x => {x with row := 3070, aged := true}))
theorem witness_ScrubbersAndTracesGoOn_6 :
    x30_0.calm 5 = true ∧
    (x30_0.at 5).spm.poison = [] ∧
    (x30_0.at 5).spm.scrub[15].agedPorts = [] ∧
    1024 * ((x30_0.at 5).spm.scrub[15].row + 1) < spmBytes x30_0.ident.code := by
  decide +kernel

def x31_0 : State := dc (fun c => c.mapScrub 15 (fun x => {x with row := 3070, aged := true}))
theorem witness_ScrubbersAndTracesGoOn_7 :
    x31_0.calm 5 = true ∧
    (x31_0.at 5).spm.scrub[15].agedPorts = [] ∧
    1024 * ((x31_0.at 5).spm.scrub[15].row + 1) < spmBytes x31_0.ident.code ∧
    (15, (x31_0.at 5).spm.scrub[15].row) ∉ (x31_0.at 5).spm.spares := by
  decide +kernel

def x32_0 : SpmPort := .dma
def x32_1 : List SpmPort := [.vector]
def x32_2 : List WordFinding := []
def x32_3 : State := dc (fun c => c.mapScrub 15 (fun x => {x with agedPorts := [.dma, .vector]}))
theorem witness_ScrubbersAndTracesGoOn_4 :
    x32_3.calm 5 = true ∧
    (x32_3.at 5).spm.scrub[15].agedPorts = x32_0 :: x32_1 ∧
    (x32_3.at 5).spm.scrub[15].aged = false := by
  decide +kernel

end PartI

/-! ### Pours and mirrors -/

namespace PartJ

def rj (cs : List (CoreId × Bool × Word)) : Job := {wj with st := .running, cores := cs}
def bare2 : SeWord := sw 0 2 2 0x3f 0x3f 0x3f 0
def z0 : Core := { seCore with threads := #v[{th1 with r := {th1.r with pc := 0x200}}, Thread.reset .inactive, Thread.reset .inactive, Thread.reset .stopped] }
def pc0 : Core := z0.mapTh 0 (fun h => {h with stall := .pour bare2})
def one (f : Flask → Flask) : State := fl (own ((withJob1 up (rj [(5, false, 0x100)])).setCore 5 pc0)) f
def two : State := own (((withJob1 up (rj [(5, false, 0x100), (6, false, 0x100)])).setCore 5 pc0).setCore 6 pc0)
def x9_0 : Site := ⟨5,0,[]⟩
def x9_1 : State := (one id).setCore 5 z0
theorem witness_PoursGoThroughTheirSteps_0 :
    x9_1.issues x9_0 (bareForm bare2) bare2 = true ∧
    bare2.mod = 2 ∧
    x9_0.thread = 0 ∧
    (x9_1.env x9_0.core).pours = true := by
  decide +kernel

theorem witness_PoursGoThroughTheirSteps_1 :
    Rules.arrives two 5 ∧
    (two.flask.pstate = PourState.open_ ∨ two.flask.pstate = PourState.arriving) ∧
    (∃ x ∈ two.pourCores, x ≠ 5 ∧ (two.core x).pourArrived = false) := by
  decide +kernel

def x11_0 : State := one id
theorem witness_PoursGoThroughTheirSteps_2 :
    Rules.arrives x11_0 5 ∧
    (x11_0.flask.pstate = PourState.open_ ∨ x11_0.flask.pstate = PourState.arriving) ∧
    (∀ x ∈ x11_0.pourCores, x ≠ 5 → (x11_0.core x).pourArrived = true) ∧
    x11_0.coordinator = some 0 := by
  exact ⟨by decide +kernel, by decide +kernel, forall_mem_of_all _ (by decide +kernel), by decide +kernel⟩

def x12_0 : State := one (fun f => {f with pstate := .tail})
theorem witness_PoursGoThroughTheirSteps_3 :
    Rules.arrives x12_0 5 ∧
    (x12_0.flask.pstate = PourState.tail ∨ x12_0.flask.pstate = PourState.ready) ∧
    (∀ x ∈ x12_0.pourCores, x ≠ 5 → (x12_0.core x).pourArrived = true) ∧
    x12_0.coordinator = some 0 := by
  exact ⟨by decide +kernel, by decide +kernel, forall_mem_of_all _ (by decide +kernel), by decide +kernel⟩

def many (f : Flask → Flask) : State := (one f) |> fun s => s.mapJob 0 (fun b => {b with peers := [9, 12]})
def x15_0 : State := many (fun f => {f with pstate := .arrived, arrivedMods := [0]})
theorem witness_PoursGoThroughTheirSteps_5 :
    Rules.heard x15_0 9 ∧
    5 = x15_0.flask.interval + 1 ∧
    5 ≠ x15_0.flask.decided ∧
    Rules.waits x15_0 x15_0.flask.arrivedMods 9 := by
  decide +kernel

def x16_0 : State := one (fun f => {f with boundaryAt := some 0}) |> fun s => {s with now := 500000000}
theorem witness_PoursGoThroughTheirSteps_7 :
    Rules.heard x16_0 0 ∧
    5 = x16_0.flask.interval + 1 ∧
    5 ≠ x16_0.flask.decided ∧
    Rules.last x16_0 x16_0.flask.arrivedMods 0 ∧
    x16_0.skips = false := by
  decide +kernel

def x17_0 : State := many (fun f => {f with pstate := .arrived, boundaryAt := some 0, arrivedMods := [12, 0]})
theorem witness_PoursGoThroughTheirSteps_6 :
    Rules.heard x17_0 9 ∧
    5 = x17_0.flask.interval + 1 ∧
    5 ≠ x17_0.flask.decided ∧
    Rules.last x17_0 x17_0.flask.arrivedMods 9 ∧
    x17_0.skips = true := by
  decide +kernel

def x18_0 : List CoreFindings := []
def x18_1 : State := one (fun f => {f with pstate := .arrived, unacked := [⟨0, .arrived, 5, 0⟩]})
theorem witness_PoursGoThroughTheirSteps_8 :
    x18_1.flask.decl = some decl1 ∧
    x18_1.flask.pstate = PourState.arrived ∧
    5 = x18_1.nextPour := by
  decide +kernel

def x21_0 : State := one (fun f => {f with pstate := .saving, dirty := {all := true, except := []}})
theorem witness_PoursGoThroughTheirSteps_10 :
    x21_0.flask.pstate = PourState.saving ∧
    x21_0.flask.commitPending = false ∧
    x21_0.flask.remap = [] ∧
    x21_0.coordinator = some 0 := by
  decide +kernel

def x22_0 : State := one (fun f => {f with pstate := .saving, remap := [5], dirty := {all := true, except := []}})
theorem witness_PoursGoThroughTheirSteps_11 :
    x22_0.flask.pstate = PourState.saving ∧
    x22_0.flask.commitPending = false ∧
    x22_0.flask.remap ≠ [] ∧
    (∀ id ∈ x22_0.flask.remap, x22_0.quietDie (BitVec.toNat id / 256) = true) ∧
    (List.foldl State.remapCore (Rules.withFlask x22_0 (have __src := x22_0.flask; { pstate := __src.pstate, prot := __src.prot, committed := __src.committed, interval := x22_0.flask.interval + 1, copies := __src.copies, lines := __src.lines, skipped := __src.skipped, stale := __src.stale, job := __src.job, decl := __src.decl, dirty := ShareSet.empty, tail := x22_0.flask.dirty, rb := __src.rb, sent := __src.sent, undoUsed := __src.undoUsed, cursor := __src.cursor, stream := Vector.replicate 8 none, held := __src.held, expect := __src.expect, partnerCommitted := __src.partnerCommitted, partnerAt := __src.partnerAt, decided := __src.decided, coord := __src.coord, arrivedMods := __src.arrivedMods, savedMods := __src.savedMods, readyMods := __src.readyMods, unacked := __src.unacked, boundaryAt := some x22_0.now, commitAt := __src.commitAt, barrier := __src.barrier, bindAsk := __src.bindAsk, remap := [], adopt := __src.adopt, storeQuarantined := __src.storeQuarantined, fenced := __src.fenced })).rejoin x22_0.flask.remap).rejoin.coordinator = some 0 := by
  exact ⟨by decide +kernel, by decide +kernel, by decide +kernel, forall_mem_of_all _ (by decide +kernel), by decide +kernel⟩

def x23_0 : State := many (fun f => {f with decided := 5, coord := .saving, savedMods := [0], unacked := [⟨9, .save, 5, 0⟩]})
theorem witness_PoursGoThroughTheirSteps_12 :
    Rules.awaited x23_0 9 5 CoordStep.saving ∧
    Rules.waits x23_0 x23_0.flask.savedMods 9 := by
  decide +kernel

def x24_0 : State := many (fun f => {f with decided := 5, coord := .saving, savedMods := [0,12], unacked := [⟨9, .save, 5, 0⟩, ⟨6, .save, 6, 0⟩]})
theorem witness_PoursGoThroughTheirSteps_13 :
    Rules.awaited x24_0 9 5 CoordStep.saving ∧
    Rules.last x24_0 x24_0.flask.savedMods 9 := by
  decide +kernel

def x25_0 : State := one (fun f => {f with pstate := .saving, interval := 5, committed := 4, unacked := [⟨0, .saved, 5, 0⟩]})
theorem witness_PoursGoThroughTheirSteps_14 :
    x25_0.flask.pstate = PourState.saving ∧
    x25_0.flask.interval = 5 ∧
    x25_0.flask.commitPending = true := by
  decide +kernel

def x26_0 : State := one (fun f => {f with pstate := .tail, tail := {all := true, except := []}})
theorem witness_PoursGoThroughTheirSteps_15 :
    x26_0.flask.pstate = PourState.tail ∧
    (x26_0.active.bind.en = true → x26_0.flask.tail.isNone x26_0.flask.shares = true ∧ x26_0.flask.stream = Vector.replicate 8 none) ∧
    x26_0.coordinator = some 0 := by
  decide +kernel

def x27_0 : State := bound (one (fun f => {f with pstate := .tail, tail := .empty}))
theorem witness_PoursGoThroughTheirSteps_15_b :
    x27_0.flask.pstate = PourState.tail ∧
    (x27_0.active.bind.en = true → x27_0.flask.tail.isNone x27_0.flask.shares = true ∧ x27_0.flask.stream = Vector.replicate 8 none) ∧
    x27_0.coordinator = some 0 := by
  decide +kernel

def x28_0 : State := many (fun f => {f with decided := 5, coord := .tailing, readyMods := [0], unacked := [⟨12, .resume, 5, 0⟩]})
theorem witness_PoursGoThroughTheirSteps_16 :
    Rules.awaited x28_0 12 5 CoordStep.tailing ∧
    Rules.waits x28_0 x28_0.flask.readyMods 12 := by
  decide +kernel

def x29_0 : State := many (fun f => {f with decided := 5, coord := .tailing, readyMods := [0,9], unacked := [⟨12, .resume, 5, 0⟩]})
theorem witness_PoursGoThroughTheirSteps_17 :
    Rules.awaited x29_0 12 5 CoordStep.tailing ∧
    Rules.last x29_0 x29_0.flask.readyMods 12 := by
  decide +kernel

def x30_0 : State := one (fun f => {f with pstate := .ready, interval := 5, unacked := [⟨0, .ready, 5, 0⟩], rb := [⟨1,4,0⟩,⟨1,5,1⟩]})
theorem witness_PoursGoThroughTheirSteps_18 :
    x30_0.flask.pstate = PourState.ready ∧
    x30_0.flask.interval = 5 := by
  decide +kernel

def x31_0 : List Byte := [1,2,3,4]
def x31_1 : List (ℕ × List Byte) := []
def x31_2 : State := one id
theorem witness_PoursGoThroughTheirSteps_19 :
    x31_2.hbmBlocked 1342177296 x31_0.length = false := by
  decide +kernel

def x32_0 : State := bound (one (fun f => {f with held := [⟨1,4,0,3⟩,⟨1,5,1,3⟩]}))
theorem witness_PoursGoThroughTheirSteps_20 :
    x32_0.active.bind.en = true := by
  decide +kernel

def x33_0 : State := one (fun f => {f with pstate := .arrived, skipped := 0xFFFFFFFE, unacked := [⟨0, .arrived, 5, 0⟩]})
theorem witness_PoursGoThroughTheirSteps_21 :
    x33_0.flask.pstate ≠ PourState.none ∧
    x33_0.flask.pstate ≠ PourState.saving ∧
    x33_0.flask.pstate ≠ PourState.rollback ∧
    5 = x33_0.nextPour := by
  decide +kernel

def x34_0 : State := one (fun f => {f with barrier := some 50})
theorem witness_PoursGoThroughTheirSteps_22 :
    x34_0.flask.barrier = some 50 := by
  decide +kernel

def x35_0 : PeerMsg := ⟨3, .arrived, 5, 7⟩
def x35_1 : List PeerMsg := []
def x35_2 : State := one (fun f => {f with unacked := [⟨3, .arrived, 5, 7⟩]})
theorem witness_PoursGoThroughTheirSteps_23 :
    x35_2.flask.unacked = x35_0 :: x35_1 := by
  decide +kernel

def x36_0 : State := (one id) |> fun s => s.setCore 5 {s.core 5 with pourArrived := true}
theorem witness_PoursGoThroughTheirSteps_24 :
    x36_0.pourCores = [5] ∧
    (x36_0.core 5).pourArrived = true ∧
    x36_0.calm 5 = true ∧
    ((x36_0.at 5).th 0).stall = Stall.pour bare2 := by
  decide +kernel

def mb (f : Flask → Flask) : State := (bound (one f)).hbmPut 0x50000000 (.clean ((List.range 1024).map (fun i => BitVec.ofNat 8 (i*3+1))))
def x38_0 : HbmFinding := .clean
def x38_1 : State := mb id
theorem witness_MirrorsStreamAndFence_0 :
    1 < x38_1.flask.shares ∧
    x38_1.needsCopy 1 = true ∧
    x38_1.rbFree 1 = some 0 ∧
    x38_1.flask.copies ≠ 4294967295 := by
  decide +kernel

def x39_0 : HbmFinding := .clean
def x39_1 : State := mb (fun f => {f with dirty := {all := true, except := []}})
theorem witness_MirrorsStreamAndFence_1 :
    x39_1.flask.interval ≠ 0 ∧
    x39_1.flask.commitPending = false ∧
    x39_1.active.bind.en = true ∧
    x39_1.flask.fenced = false ∧
    x39_1.flask.pstate = PourState.open_ ∧
    x39_1.flask.stream[1] = none ∧
    x39_1.nextShare (1) (BitVec.toNat x39_1.flask.interval) false = some 1 ∧
    x39_1.flask.undoOf 1 (BitVec.toNat x39_1.flask.interval) = none := by
  decide +kernel

def mw : List Outgoing := ((mb id).mirrorShare 1 4 7 0x50000000 false .clean).switch.waiting
def mg (i : Nat) : LinkMsg := (mw.map (fun x => x.msg)).getD i (State.message up 0 0 0 0 [])
def x43_0 : State := mb id
theorem witness_MirrorsStreamAndFence_3 :
    x43_0.pourJob = some 0 ∧
    (x43_0.job 0).st = JobState.running := by
  decide +kernel

def x44_0 : State := mb id
theorem witness_MirrorsStreamAndFence_4 :
    ∀ (j : Fin 8), x44_0.cutOff j = false := by
  decide +kernel

def ss : State := (mb id) |> fun s => {s with active := {s.active with route := {s.active.route with reloc := s.active.route.reloc.set 3 (0x8009000C)}}}
theorem witness_MirrorsStreamAndFence_5 :
    ss.active.bind.en = true ∧
    ss.active.route.spareOf ss.active.bind.partner = some 12 ∧
    12799 < ss.active.bind.cap.toNat * 128 ∧
    (ss.hbmGet (ss.active.bind.store.toNat * 65536 + 512 * 12799) 512).poison = [] := by
  decide +kernel

end PartJ

/-! ### The vector and matrix engines -/

namespace PartK

def dc (f : Core → Core) : State := se.setCore 5 (f seCore)
def va : VeWord := ⟨0, 2, 0, 1, 2, 3, 0⟩
def sv : State := dc (fun c => {c with ve := {c.ve with restr := false}})
def x8_0 : Instr := .vadd s5 va
def x8_1 : VeOpc := .vadd
theorem witness_VectorInstructionsQueueAndComplete_0 :
    Rules.ve x8_0 = some (s5, x8_1, va) ∧
    sv.turnOf s5 va.len = true ∧
    firstBad (x8_1.bad (sv.at s5.core).ve.log.toNat va) = none ∧
    (sv.at s5.core).ve.q.length < 8 ∧
    tracked (sv.at s5.core) s5.thread (Rules.veop sv s5 x8_1 va).footprint (Rules.veop sv s5 x8_1 va).footprint.length = true ∧
    VeOp.excs (sv.env s5.core) (sv.at s5.core).ve.restr (Rules.veop sv s5 x8_1 va) = [] := by
  decide +kernel

def vl : VeWord := ⟨1, 2, 0, 1, 0, 0, 0x10000⟩
def x11_0 : Instr := .vld s5 vl
def x11_1 : VeOpc := .vld
theorem witness_VectorInstructionsQueueAndComplete_0_b :
    Rules.ve x11_0 = some (s5, x11_1, vl) ∧
    sv.turnOf s5 vl.len = true ∧
    firstBad (x11_1.bad (sv.at s5.core).ve.log.toNat vl) = none ∧
    (sv.at s5.core).ve.q.length < 8 ∧
    tracked (sv.at s5.core) s5.thread (Rules.veop sv s5 x11_1 vl).footprint (Rules.veop sv s5 x11_1 vl).footprint.length = true ∧
    VeOp.excs (sv.env s5.core) (sv.at s5.core).ve.restr (Rules.veop sv s5 x11_1 vl) = [] := by
  decide +kernel

def vo : VeOp := veOp (sv.at 5) 1 .vadd va
def x13_0 : List VeEntry := [.token 4]
def x13_1 : State := dc (fun c => {c with ve := {c.ve with q := [.insn vo, .token 4]}})
theorem witness_VectorInstructionsQueueAndComplete_1 :
    x13_1.calm 5 = true ∧
    (x13_1.at 5).ve.q = VeEntry.insn vo :: x13_0 ∧
    (x13_1.at 5).ve.ret = false ∧
    VeOp.held (x13_1.at 5) vo = false := by
  decide +kernel

def vrun : State := dc (fun c => {c with ve := {c.ve with run := [vo], v := memWriteN (memWriteN [] 2048 [1,2,3,4,5,6,7,8]) 3072 [255,255,255,255,1,1,1,1]}})
def x15_0 : List VeOp := []
theorem witness_VectorInstructionsQueueAndComplete_2 :
    vrun.calm 5 = true ∧
    (vrun.at 5).ve.run = vo :: x15_0 := by
  decide +kernel

def pd (s : State) : State := {s with active := {s.active with clkplan := 0xFFFFFFFF}}
def x17_0 : State := pd se
theorem witness_VectorInstructionsQueueAndComplete_3 :
    x17_0.calm 5 = true ∧
    (x17_0.env 5).vepd = true ∧
    (x17_0.at 5).ve.q = [] ∧
    (x17_0.at 5).ve.run = [] ∧
    (x17_0.at 5).me.run = [] := by
  decide +kernel

def x18_0 : State := dc (fun c => {c with ve := {c.ve with waking := true, ret := true}})
theorem witness_VectorInstructionsQueueAndComplete_4 :
    x18_0.calm 5 = true ∧
    (x18_0.at 5).ve.waking = true := by
  decide +kernel

def x19_0 : List VeOp := []
theorem witness_ElementsBelowTheLengthAreComputed_0 :
    vrun.calm 5 = true ∧
    (vrun.at 5).ve.run = vo :: x19_0 ∧
    Rules.elementwise vo.opc = true ∧
    (Ty.ofCode vo.w.ty.toNat).isSome = true ∧
    (vrun.at 5).ve.vpoison = [] ∧
    (vrun.at 5).ve.mpoison = [] := by
  decide +kernel

def x20_0 : VeOp := {vo with vlen := 1}
def x20_1 : List VeOp := []
def x20_2 : State := vrun.setCore 5 {vrun.core 5 with ve := {(vrun.core 5).ve with run := [{vo with vlen := 1}]}}
theorem witness_ElementsBelowTheLengthAreComputed_0_b :
    x20_2.calm 5 = true ∧
    (x20_2.at 5).ve.run = x20_0 :: x20_1 ∧
    Rules.elementwise x20_0.opc = true ∧
    (Ty.ofCode x20_0.w.ty.toNat).isSome = true ∧
    (x20_2.at 5).ve.vpoison = [] ∧
    (x20_2.at 5).ve.mpoison = [] := by
  decide +kernel

def mc (f : Core → Core) : State := dc (fun c => f {c with me := {c.me with cfg := c.me.cfg.set 7 ⟨false, 0, 7, 7, 8⟩ |>.set 1 ⟨false, 0, 7, 7, 8⟩ |>.set 0 ⟨false, 0, 7, 7, 9⟩}})
def mz : MeWord := ⟨0, 0x700000, 0, 0⟩
def x25_0 : Instr := .tzero s5 mz
def x25_1 : MeOpc := .tzero
def x25_2 : State := mc id
theorem witness_MatrixInstructionsQueueAndComplete_0 :
    Rules.me x25_0 = some (s5, x25_1, mz) ∧
    x25_2.turnOf s5 mz.len = true ∧
    firstBad (x25_1.bad (x25_2.at s5.core).ve.log.toNat mz) = none ∧
    (x25_2.at s5.core).me.q.length < 8 ∧
    (tracked (x25_2.at s5.core) s5.thread (List.map (fun p => (p.1, p.2.1)) (Rules.meRanges x25_2 s5 (Rules.meop x25_2 s5 x25_1 mz))) (Rules.meRanges x25_2 s5 (Rules.meop x25_2 s5 x25_1 mz)).length = true) ∧
    MeOp.reconfiguring (x25_2.at s5.core) (Rules.meop x25_2 s5 x25_1 mz) = false ∧
    List.flatMap (MeStream.excs (x25_2.env s5.core)) ((Rules.meop x25_2 s5 x25_1 mz).streams (x25_2.at s5.core).me.cfg) = [] ∧
    (Rules.meop x25_2 s5 x25_1 mz).shapes (x25_2.at s5.core).me.cfg = [] := by
  decide +kernel

def mo : MeOp := meOp ((mc id).at 5) 1 .tzero mz
def x27_0 : List MeEntry := [.token 4]
def x27_1 : State := mc (fun c => {c with me := {c.me with q := [.insn mo, .token 4]}})
theorem witness_MatrixInstructionsQueueAndComplete_1 :
    x27_1.calm 5 = true ∧
    (x27_1.at 5).me.q = MeEntry.insn mo :: x27_0 ∧
    mo.hazard (x27_1.at 5).me = false ∧
    mo.accepted (x27_1.at 5).me = true ∧
    mo.opc ≠ MeOpc.gmv := by
  decide +kernel

def mg : MeOp := {mo with opc := .gmv}
def x29_0 : List MeEntry := [.token 4]
def x29_1 : State := mc (fun c => {c with ve := {c.ve with ret := true}, me := {c.me with q := [.insn mg, .token 4]}})
theorem witness_MatrixInstructionsQueueAndComplete_2 :
    x29_1.calm 5 = true ∧
    (x29_1.at 5).me.q = MeEntry.insn mg :: x29_0 ∧
    mg.hazard (x29_1.at 5).me = false ∧
    mg.accepted (x29_1.at 5).me = true ∧
    mg.opc = MeOpc.gmv ∧
    (x29_1.at 5).ve.ret = true := by
  decide +kernel

def x30_0 : MePipe := .move
def x30_1 : State := mc (fun c => {c with me := {c.me with run := [mo]}})
theorem witness_MatrixInstructionsQueueAndComplete_4 :
    x30_1.calm 5 = true ∧
    (List.find? (fun o => o.opc.pipe == x30_0) (x30_1.at 5).me.run = some mo) ∧
    mo.yields (x30_1.at 5) = false := by
  decide +kernel

def mu : State := mc (fun c => {c with me := {c.me with cfg := c.me.cfg.set 7 ⟨true, 1, 255, 31, 8⟩}})
def x32_0 : State := mc (fun c => {c with me := {c.me with cold := false}})
theorem witness_MatrixInstructionsQueueAndComplete_5 :
    x32_0.calm 5 = true := by
  decide +kernel

theorem witness_MatrixInstructionsQueueAndComplete_6 :
    mu.calm 5 = true ∧
    (mu.at 5).me.run = [] ∧
    (mu.at 5).me.powered 7 0 = true := by
  decide +kernel

theorem witness_MatrixInstructionsQueueAndComplete_6_b :
    mu.calm 5 = true ∧
    (mu.at 5).me.run = [] ∧
    (mu.at 5).me.powered 7 4 = true := by
  decide +kernel

def x35_0 : List VeOp := []
def x35_1 : State := dc (fun c => {c with ve := {c.ve with restr := false, run := [vo]}})
theorem witness_VectorInstructionsQueueAndComplete_5 :
    x35_1.calm 5 = true ∧
    (x35_1.at 5).ve.run = vo :: x35_0 ∧
    inRegs vo.reads vo.masksRead (256) = true ∧
    (x35_1.at 5).ve.bad (256) = false ∧
    256 < 4352 := by
  decide +kernel

def x36_0 : List MeEntry := [.token 4]
def x36_1 : State := mc (fun c => {c with me := {c.me with q := [.insn mg, .token 4]}})
theorem witness_MatrixInstructionsQueueAndComplete_7 :
    x36_1.calm 5 = true ∧
    (x36_1.at 5).me.q = MeEntry.insn mg :: x36_0 ∧
    mg.hazard (x36_1.at 5).me = false ∧
    mg.accepted (x36_1.at 5).me = true ∧
    mg.opc = MeOpc.gmv ∧
    (x36_1.at 5).ve.ret = false ∧
    mg.vectorsFree (x36_1.at 5).ve = true := by
  decide +kernel

def oy : MeOp := {mo with opc := .tmmas, w := ⟨0, 0x40000, 0, 0⟩, dbase := 0x400, rows := 1, seq := 3}
def py : MeOp := {mo with opc := .gmv, x := 0x400, rows := 1, k := 256, seq := 4}
def ys : State := mc (fun c => Core.mapScrub 1 (fun x => {x with meAged := true}) {c with me := {c.me with run := [oy, py]}})
def x40_0 : MePipe := .array
def x40_1 : State := ys.setCore 5 ((ys.core 5).mapScrub 0 (fun x => {x with meAged := true}))
theorem witness_MatrixInstructionsQueueAndComplete_3 :
    x40_1.calm 5 = true ∧
    (List.find? (fun o => o.opc.pipe == x40_0) (x40_1.at 5).me.run = some oy) ∧
    oy.yields (x40_1.at 5) = true := by
  decide +kernel

end PartK

/-! ### Descriptors and code lines -/

namespace PartL

def dws : List Nat := [0, 0, 0x80, 0, 0x300, 0, 8, 0, 0, 0, 0, 0, 0, 0, 0, 0]
def dcore (ws : List Nat) (f : Core → Core := id) : Core := f {seCore with spm := seCore.spm.write 0x200 (ws.flatMap (leBytes 4))}
def dst (ws : List Nat) (f : Core → Core := id) : State := se.setCore 5 (dcore ws f)
def dw : SeWord := sw 1 2 3 0x3f 8 0x3f 0x200
def dr (ws : List Nat) : DescRun := (dcore ws).readDesc 1 0 0x200
def dq (rs : List DescRun) (f : Core → Core := id) : State := dst dws (fun c => f (c.mapDq 3 (fun d => {d with descs := rs})))
def x9_0 : DescRun := ((dst dws).issuedCore s5).readDesc 1 ((dst dws).issuedCore s5).seq 0x200
def x9_1 : State := dst dws
theorem witness_DescriptorsMoveBytesAndComplete_0 :
    x9_1.issues s5 (denqForm dw) dw = true ∧
    x9_0 = (x9_1.issuedCore s5).readDesc s5.thread (x9_1.issuedCore s5).seq (Rules.denqAddr x9_1 s5 dw) ∧
    (x9_1.at s5.core).dqEntries (Rules.denqQueue dw) < 16 ∧
    (x9_1.at s5.core).room 3 = true ∧
    (tracked (x9_1.at s5.core) s5.thread (List.map (fun p => p.1) (Rules.denqTracks x9_1 s5 x9_0)) (Rules.denqTracks x9_1 s5 x9_0).length = true) ∧
    poisoned (x9_1.at s5.core).spm.poison (Rules.denqAddr x9_1 s5 dw) 64 = false := by
  decide +kernel

def x10_0 : DescRun := dr dws
def x10_1 : State := dq [dr dws]
theorem witness_DescriptorsMoveBytesAndComplete_1 :
    x10_1.calm 5 = true ∧
    (x10_1.at 5).settleStreams = x10_1.at 5 ∧
    (x10_1.at 5).de.q[3].descs = [x10_0] ∧
    (x10_1.at 5).de.q[3].halt = false ∧
    (x10_1.at 5).released = true ∧
    x10_0.abandoned = false ∧
    x10_0.started = false ∧
    x10_0.allIssued = false ∧
    x10_0.faulted = false ∧
    x10_0.grans = [] ∧
    x10_0.cur = { i2 := 0, i1 := 0, off := 0, row := none } ∧
    (x10_1.at 5).allOut < 256 ∧
    (x10_1.at 5).givesWay 3 = false ∧
    DescRun.startFault (x10_1.env 5) x10_0 = none ∧
    Rules.SmallCopy (x10_1.env 5) x10_0 8 := by
  decide +kernel

def dr2 : DescRun := {dr dws with started := true, allIssued := true, grans := [Rules.copyGranule (dr dws) 8]}
def x12_0 : State := dq [dr2]
theorem witness_DescriptorsMoveBytesAndComplete_2 :
    x12_0.calm 5 = true ∧
    (x12_0.at 5).de.q[3].descs = [dr2] ∧
    dr2.grans = [Rules.copyGranule dr2 8] ∧
    dr2.before = [] ∧
    dr2.abandoned = false ∧
    Rules.SmallCopy (x12_0.env 5) dr2 8 ∧
    (x12_0.at 5).spm.poison = [] := by
  decide +kernel

def dr3 (ws : List Nat) : DescRun := {dr ws with started := true, allIssued := true}
def x14_0 : DescRun := dr3 dws
def x14_1 : State := dq [dr3 dws]
theorem witness_DescriptorsMoveBytesAndComplete_3 :
    x14_1.calm 5 = true ∧
    (x14_1.at 5).de.q[3].descs = [x14_0] ∧
    x14_0.abandoned = false ∧
    x14_0.complete = true ∧
    x14_0.cmpl = 0 ∧
    x14_0.op ≠ 4 := by
  decide +kernel

def evs : List Nat := [0x10000, 0, 0x80, 0, 0x300, 0, 8, 0, 0, 0, 0, 0, 0, 31, 0, 0]
def x16_0 : DescRun := dr3 evs
def x16_1 : State := dq [dr3 evs]
theorem witness_DescriptorsMoveBytesAndComplete_4 :
    x16_1.calm 5 = true ∧
    (x16_1.at 5).de.q[3].descs = [x16_0] ∧
    x16_0.abandoned = false ∧
    x16_0.complete = true ∧
    x16_0.cmpl = 1 ∧
    x16_0.op ≠ 4 := by
  decide +kernel

def chs : List Nat := [0, 0, 0x80, 0, 0x300, 0, 8, 0, 0, 0, 0, 0, 0, 0, 0x200, 0]
def x18_0 : DescRun := dr3 chs
def x18_1 : State := dq [dr3 chs]
theorem witness_DescriptorsMoveBytesAndComplete_5 :
    x18_1.calm 5 = true ∧
    (x18_1.at 5).de.q[3].descs = [x18_0] ∧
    (x18_1.at 5).de.q[3].halt = false ∧
    x18_0.abandoned = false ∧
    x18_0.allIssued = true ∧
    x18_0.word 14 ≠ 0 ∧
    x18_0.chained = false ∧
    poisoned (x18_1.at 5).spm.poison (x18_0.word 14) 64 = false := by
  decide +kernel

def fis : List Nat := [0x20000, 0, 0x80, 0, 0x300, 0, 8, 0, 0, 0, 0, 0, 0, 0x50040, 0, 0]
def dr4 : DescRun := {dr3 fis with filling := true}
def fw : SlotWait := ⟨0x40, .fill 3, true, .empty⟩
def tgate : Gate := {Gate.reset with base := 0x1000, limit := 0x2000, opened := true, tagged := true, cores := true}
def fc (c : Core) : Core := {c with spm := {c.spm with gates := c.spm.gates.set 2 tgate, waits := [fw]}}
def x24_0 : State := dq [dr4] fc
theorem witness_DescriptorsMoveBytesAndComplete_6 :
    x24_0.calm 5 = true ∧
    (x24_0.at 5).fillIndex 3 = some 0 ∧
    (List.find? (fun x => decide (x.who = SlotUser.fill 3)) (x24_0.at 5).spm.waits = some fw) ∧
    (x24_0.at 5).spm.fits fw.seg true = true ∧
    (x24_0.at 5).spm.moving fw.seg = false ∧
    (x24_0.at 5).spm.firstFit fw.seg = some fw ∧
    (x24_0.at 5).de.q[3].descs[0]? = some dr4 := by
  decide +kernel

def fr : Remote := ⟨9, .fill 3 1, 6, 0x1000, .fill, none, 0, .answered .retry, false, false⟩
def x26_0 : State := dq [dr4] (fun c => {c with spm := {c.spm with remote := [fr]}})
theorem witness_DescriptorsMoveBytesAndComplete_7 :
    x26_0.calm 5 = true ∧
    (x26_0.at 5).fillIndex 3 = some 0 ∧
    (List.find? (fun x => decide (x.who = SlotUser.fill 3)) (x26_0.at 5).spm.waits = none) ∧
    (List.find? (fun r => !r.dead && match r.who with | RemoteUser.fill p t => p == 3 | x => false) (x26_0.at 5).spm.remote = some fr) ∧
    (x26_0.at 5).spm.remoteOf fr.id = some fr ∧
    fr.stage = RemoteStage.answered RemoteAnswer.retry ∧
    (x26_0.at 5).spm.inTurn fr = true := by
  decide +kernel

def cst : State := (withJob1 se {job1 with st := .running}).hbmPut 0x40000080 (.clean ((List.range 128).map (BitVec.ofNat 8)))
def x28_0 : DescRun := dr3 fis
def x28_1 : State := dq [dr3 fis] (fun c => {c with spm := {c.spm with gates := c.spm.gates.set 2 tgate, tags := [0x40]}})
theorem witness_DescriptorsMoveBytesAndComplete_8 :
    x28_1.calm 5 = true ∧
    (x28_1.at 5).de.q[3].descs = [x28_0] ∧
    x28_0.abandoned = false ∧
    x28_0.complete = true ∧
    x28_0.cmpl = 2 ∧
    x28_0.op ≠ 4 ∧
    slotCore x28_0.ctgt = 5 ∧
    (x28_1.at 5).spm.slotOpen (slotSeg x28_0.ctgt) = true ∧
    (x28_1.at 5).spm.servesNow (slotSeg x28_0.ctgt) true = false := by
  decide +kernel

def ms1 : IcMiss := { line := 1, epoch := 3, threads := 2 }
def cms : State := cst.setCore 5 {cst.core 5 with de := {(cst.core 5).de with misses := [ms1]}}
def x31_0 : CodeLine := (cms.codeLine 5 1 .clean .clean).2
def x31_1 : State := (cms.codeLine 5 1 .clean .clean).1
def x31_2 : BitVec 16 := (((cms.at 5).de.allocate 1).2)
theorem witness_CodeLinesAreFetchedAndInvalidated_0 :
    cms.calm 5 = true ∧
    (List.find? (fun m => m.line == 1) (cms.at 5).de.misses = some ms1) ∧
    ms1.line = 1 ∧
    (cms.at 5).de.icWay (1) = none ∧
    cms.codeLine 5 (1) LineFinding.clean HbmFinding.clean = (x31_1, x31_0) ∧
    x31_0.data.poison = [] ∧
    (cms.at 5).de.allocate (1) = (some (((cms.at 5).de.allocate 1).1.getD 0), x31_2) := by
  exact ⟨by decide +kernel, by decide +kernel, by decide +kernel, by decide +kernel, rfl, by decide +kernel, by decide +kernel⟩

def cl (ls : Table IcLine) (f : De → De := id) : State := cst.setCore 5 {cst.core 5 with de := f {(cst.core 5).de with ic := ls}}
def i1 : State := cl [(257, {tag := 1, epoch := 0, data := List.replicate 128 7})] (fun d => {d with icerr := Vector.replicate 4 6})
def x34_0 : CodeLine := (i1.codeLine 5 1 .clean .clean).2
def x34_1 : State := (i1.codeLine 5 1 .clean .clean).1
theorem witness_CodeLinesAreFetchedAndInvalidated_1 :
    i1.calm 5 = true ∧
    (i1.at 5).de.icWay (1) = some 2 ∧
    i1.codeLine 5 (1) LineFinding.clean HbmFinding.clean = (x34_1, x34_0) ∧
    x34_0.data.poison = [] ∧
    (i1.at 5).de.icerr[2].toNat < 7 := by
  exact ⟨by decide +kernel, by decide +kernel, rfl, by decide +kernel, by decide +kernel⟩

theorem witness_CodeLinesAreFetchedAndInvalidated_2 :
    i1.calm 5 = true := by
  decide +kernel

def off1 : DccOffer := {set := 4, line := 9, epoch := 0, data := [1]}
def x37_0 : List DccOffer := []
def x37_1 : State := se.mapDie 31 (fun d => {d with offers := [off1]})
theorem witness_CodeLinesAreFetchedAndInvalidated_3 :
    (x37_1.die 31).offers = off1 :: x37_0 ∧
    (∀ p ∈ (x37_1.die 31).lines, p.1 / 16 ≠ off1.set) := by
  exact ⟨by decide +kernel, forall_mem_of_all _ (by decide +kernel)⟩

def x38_0 : SeWord := sw 0 2 1 0x3f 0x3f 0x3f 0
theorem witness_CodeLinesAreFetchedAndInvalidated_4 :
    se.issues s5 (icinvForm x38_0) x38_0 = true ∧
    (se.at s5.core).room 3 = true := by
  decide +kernel

def x39_0 : SeWord := sw 1 2 0 0x3f 0 0 0x00800080
theorem witness_CodeLinesAreFetchedAndInvalidated_4_b :
    se.issues s5 (icinvForm x39_0) x39_0 = true ∧
    (se.at s5.core).room 3 = true := by
  decide +kernel

def iw : SeWord := sw 1 2 0 0x3f 0 0 0x00800080
def i2 : State := (cl [(257, {tag := 1, epoch := 0, data := List.replicate 128 7}), (258, {tag := 2, epoch := 0, data := List.replicate 128 7})] (fun d => {d with issue := [.icinv 4 1 false 128 128 4, .token 9]}))
def i3 : State := i2.setCore 5 ((i2.core 5).mapTh 1 (fun h => {h with stall := .icinv 4 iw}))
def x43_0 : List DeEntry := [.token 9]
theorem witness_CodeLinesAreFetchedAndInvalidated_5 :
    i3.calm 5 = true ∧
    (i3.at 5).de.issue = DeEntry.icinv 4 1 false 128 128 4 :: x43_0 ∧
    (i3.at 5).loadsDone 4 = true ∧
    ((i3.at 5).th 1).stall = Stall.icinv 4 iw := by
  decide +kernel

def x44_0 : SeWord := sw 1 2 3 0x3f 0 0 0x00800080
theorem witness_CodeLinesAreFetchedAndInvalidated_6 :
    se.issues s5 (icpfForm x44_0) x44_0 = true ∧
    (se.at s5.core).room 3 = true := by
  decide +kernel

def i4 : State := cl [] (fun d => {d with issue := [.icpf 3 128 256 4, .token 9]})
def i5 : State := (linesOf 128 (min 256 ((i4.at 5).codeSize - 128))).foldl (fun s l => s.preload 5 3 l .clean .clean .intact) i4
def x47_0 : List DeEntry := [.token 9]
theorem witness_CodeLinesAreFetchedAndInvalidated_7 :
    i4.calm 5 = true ∧
    (i4.at 5).de.issue = DeEntry.icpf 3 128 256 4 :: x47_0 ∧
    (i4.at 5).loadsDone 4 = true ∧
    (i5 = List.foldl (fun s l => s.preload 5 3 l LineFinding.clean HbmFinding.clean FlitFinding.intact) i4 (linesOf 128 (min 256 ((i4.at 5).codeSize - 128)))) := by
  exact ⟨by decide +kernel, by decide +kernel, by decide +kernel, rfl⟩

def x48_0 : State := se.setCore 5 {seCore with spm := {seCore.spm with gates := seCore.spm.gates.set 15 {tgate with closing := true}}}
theorem witness_CodeLinesAreFetchedAndInvalidated_8 :
    x48_0.calm 5 = true := by
  decide +kernel

def far : State := cst.setCore 5 ((cst.core 5).mapTh 1 (fun h => {h with r := {h.r with pc := 0x100}}))
def x51_0 : LineFinding := .clean
def x51_1 : HbmFinding := .clean
theorem witness_CodeLinesAreFetchedAndInvalidated_9 :
    far.calm 5 = true ∧
    (∀ m ∈ (far.at 5).de.misses, m.line ≠ 2) ∧
    (far.at 5).missers (2) ≠ 0 := by
  exact ⟨by decide +kernel, forall_mem_of_all _ (by decide +kernel), by decide +kernel⟩

def dcl : State := se.mapDie 31 (fun d => {d with lines := [(65, {line := 9, used := true, data := [1]})]})
theorem witness_CodeLinesAreFetchedAndInvalidated_10 :
    (dcl.die 31).wayOf 4 9 = some 1 := by
  decide +kernel

def cls : List Nat := [0x40000000, 0, 0, 4, 0x300, 0, 8, 0, 0, 0, 0, 0, 0, 0, 0, 0]
def x55_0 : DescRun := {dr dws with started := true}
def x55_1 : DescRun := {dr3 cls with loaded := false}
def x55_2 : State := dq [{dr dws with started := true}, {dr3 cls with loaded := false}]
theorem witness_DescriptorsMoveBytesAndComplete_9 :
    x55_2.calm 5 = true ∧
    (x55_2.at 5).de.q[3].descs = [x55_0, x55_1] ∧
    x55_0.abandoned = false ∧
    x55_0.complete = false ∧
    x55_0.op ≠ 4 ∧
    x55_1.loadDue = true := by
  decide +kernel

def lks : List Nat := [0xC0000, 0, 0x80, 0, 0x40000000, 0x300, 0x40, 1, 0, 0, 0, 0, 0, 0, 0, 0]
def gg (off dst : Nat) : Granule := {off := off, dst := dst, len := 16, reads := [], data := some (.clean (List.replicate 16 7)), write := none}
def lk : DescRun := {dr3 lks with grans := [gg 0 ((dr3 lks).dstAddr), gg 16 ((dr3 lks).dstAddr + 16)]}
def lkr : State × Option (LinkMsg × Option Requester) := match exec (.dmaGranuleResponse 5 3 [] .clean .intact) (dq [lk]) with | .next s' => (s', s'.switch.waiting.head?.map (fun x => (x.msg, x.who))) | _ => (up, none)
def x60_0 : Granule := gg 0 ((dr3 lks).dstAddr)
def x60_1 : Granule := gg 16 ((dr3 lks).dstAddr + 16)
def x60_2 : List Byte := List.replicate 16 7
def x60_3 : List Byte := List.replicate 16 7
def x60_4 : ModuleId × Bool × ℕ := (3, false, 0x40000000)
def x60_5 : State := dq [lk]
theorem witness_DescriptorsMoveBytesAndComplete_10 :
    x60_5.calm 5 = true ∧
    (x60_5.at 5).de.q[3].descs = [lk] ∧
    (x60_5.at 5).spm.remote = [] ∧
    Rules.OneLine (x60_5.env 5) lk x60_0 x60_1 x60_2 x60_3 x60_4 := by
  decide +kernel

end PartL

/-! ### Lanes, the fabric and the links -/

namespace PartM

def la (st : LaneState) : Lane := {Lane.reset with st := st}
def pt (st : PortState) (l : LaneState) (f : Port → Port := id) : Port := f {Port.reset with st := st, lanes := Vector.replicate 8 (la l), rxLanes := 0xFF, txLanes := 0xFF}
def upp : State := {up with board := {up.board with refclk := true}, active := {up.active with ports := up.active.ports.set 47 {up.active.ports[47] with en := true}}}
def ps (p : Port) : State := upp.mapPort 47 (fun _ => p)
def lm : LinkMsg := State.message up 0 9 0 0x1000 [1,2,3]
def qd : Queued := ⟨false, 7, .fromSource, lm, none, lm⟩
def x9_0 : List (Fin 8 × Fin 48 × Queued) := []
def x9_1 : State := {up with switch := {up.switch with crossing := [(7, 47, qd)]}}
theorem witness_LanesTrainAndTheFabricDegrades_0 :
    x9_1.switch.crossing = (7, 47, qd) :: x9_0 ∧
    qd.msg.vc.toNat = ↑(Fin.ofNat 4 qd.msg.vc.toNat) ∧
    (x9_1.port 47).crossed (Fin.ofNat 4 qd.msg.vc.toNat) + msgUnits qd.msg ≤ 1024 := by
  decide +kernel

def x10_0 : Side := .north
def x10_1 : State := up.mapDie 31 (fun d => {d with retry := 0xFFFFFFFF})
theorem witness_LanesTrainAndTheFabricDegrades_1 :
    (x10_1.die 31).chdis[sideCode x10_0].getLsbD 15 = false ∧
    hasBridge (31) x10_0 = true ∧
    (tget (x10_1.die 31).replays [] (16 * ↑(sideCode x10_0) + 15)).length < 15 := by
  decide +kernel

def x11_0 : Side := .south
def x11_1 : State := up.mapDie 0 (fun d => {d with replays := [(16 * (sideCode .south).val, List.replicate 14 0)], retry := 4})
theorem witness_LanesTrainAndTheFabricDegrades_1_b :
    (x11_1.die 0).chdis[sideCode x11_0].getLsbD 0 = false ∧
    hasBridge (0) x11_0 = true ∧
    (tget (x11_1.die 0).replays [] (16 * ↑(sideCode x11_0) + 0)).length < 15 := by
  decide +kernel

def x12_0 : Side := .north
def x12_1 : State := up.mapDie 31 (fun d => {d with replays := [(16 * (sideCode .north).val + 15, List.replicate 15 0)]})
theorem witness_LanesTrainAndTheFabricDegrades_2 :
    (x12_1.die 31).chdis[sideCode x12_0] = 0 ∧
    hasBridge (31) x12_0 = true ∧
    15 ≤ (tget (x12_1.die 31).replays [] (16 * ↑(sideCode x12_0) + 15)).length ∧
    (∀ t ∈ tget (x12_1.die 31).replays [] (16 * ↑(sideCode x12_0) + 15), x12_1.now < t + 1000000) := by
  exact ⟨by decide +kernel, by decide +kernel, by decide +kernel, forall_mem_of_all _ (by decide +kernel)⟩

theorem witness_LanesTrainAndTheFabricDegrades_3 :
    loaded.anyJob = true := by
  decide +kernel

def x14_0 : TapAsk := .none
def x14_1 : List TapAsk := []
def x14_2 : Lane := la .detect
def x14_3 : State := ps (pt .training .reset)
theorem witness_LanesTrainAndTheFabricDegrades_4 :
    x14_3.mayTrain 47 7 = true ∧
    (x14_3.port 47).st = PortState.training ∧
    Rules.trained (x14_3.port 47).lanes[7] true x14_3.active.ports[47].txpre[7] (x14_0 :: x14_1) x14_2 := by
  decide +kernel

def x15_0 : TapAsk := .none
def x15_1 : List TapAsk := []
def x15_2 : Lane := la .reset
def x15_3 : State := ps (pt .training .detect)
theorem witness_LanesTrainAndTheFabricDegrades_4_b :
    x15_3.mayTrain 47 7 = true ∧
    (x15_3.port 47).st = PortState.training ∧
    Rules.trained (x15_3.port 47).lanes[7] false x15_3.active.ports[47].txpre[7] (x15_0 :: x15_1) x15_2 := by
  decide +kernel

def x16_0 : TapAsk := .preset 6
def x16_1 : List TapAsk := []
def x16_2 : Lane := {la .failed with fails := 3, preset := 6}
def x16_3 : State := ps ((pt .training .eq).mapLane 7 (fun x => {x with fails := 2}))
theorem witness_LanesTrainAndTheFabricDegrades_4_c :
    x16_3.mayTrain 47 7 = true ∧
    (x16_3.port 47).st = PortState.training ∧
    Rules.trained (x16_3.port 47).lanes[7] false x16_3.active.ports[47].txpre[7] (x16_0 :: x16_1) x16_2 := by
  decide +kernel

def x17_0 : TapAsk := .none
def x17_1 : List TapAsk := []
def x17_2 : Lane := la .align
def x17_3 : State := ps ((pt .training .align).mapLane 7 (fun x => {x with fails := 2}))
theorem witness_LanesTrainAndTheFabricDegrades_4_d :
    x17_3.mayTrain 47 7 = true ∧
    (x17_3.port 47).st = PortState.training ∧
    Rules.trained (x17_3.port 47).lanes[7] true x17_3.active.ports[47].txpre[7] (x17_0 :: x17_1) x17_2 := by
  decide +kernel

def x18_0 : TapAsk := .step true true
def x18_1 : State := ps ((pt .down .align).mapLane 7 (fun x => {x with st := .eq}))
theorem witness_LanesTrainAndTheFabricDegrades_5 :
    x18_1.mayTrain 47 7 = true ∧
    (x18_1.port 47).st = PortState.down ∧
    (x18_1.port 47).laneen = x18_1.active.ports[47].laneen ∧
    (x18_1.port 47).lanes[7].st = LaneState.eq ∧
    (4 ≤ lanesIn (((x18_1.port 47).mapLane 7 (Rules.laneSt LaneState.align)).mask fun x => decide (x.st = LaneState.align))) ∧
    4 ≤ lanesIn 15 := by
  decide +kernel

def x19_0 : State := ps (pt .down .reset)
theorem witness_LanesTrainAndTheFabricDegrades_6 :
    x19_0.mayTrain 47 7 = true ∧
    (x19_0.port 47).lanes[7].st = LaneState.reset := by
  decide +kernel

def x20_0 : State := ps (pt .down .align)
theorem witness_LanesTrainAndTheFabricDegrades_7 :
    (x20_0.port 47).lanes[7].st ≠ LaneState.disabled ∧
    (x20_0.port 47).lanes[7].st ≠ LaneState.failed ∧
    (x20_0.port 47).st ≠ PortState.active := by
  decide +kernel

def x21_0 : State := ps (pt .active .active)
theorem witness_LanesTrainAndTheFabricDegrades_8 :
    (x21_0.port 47).lanes[7].st = LaneState.active ∧
    (x21_0.port 47).rxLanes.getLsbD 7 = true ∧
    (x21_0.port 47).st = PortState.active ∧
    4 ≤ lanesIn (Rules.othersInUse (x21_0.port 47) 7) := by
  decide +kernel

def x22_0 : State := ps (pt .active .active)
theorem witness_LanesTrainAndTheFabricDegrades_9 :
    Rules.windowOf (x22_0.port 47) 7 16384 ≤ (x22_0.port 47).lthr.toNat := by
  decide +kernel

def x23_0 : State := ps (pt .active .active)
theorem witness_LanesTrainAndTheFabricDegrades_10 :
    (x23_0.port 47).lthr.toNat < Rules.windowOf (x23_0.port 47) 7 16385 ∧
    (x23_0.port 47).st = PortState.active ∧
    (x23_0.port 47).lanes[7].marginal = false ∧
    (x23_0.port 47).rxLanes.getLsbD 7 = true ∧
    (x23_0.port 47).ask = none ∧
    (x23_0.port 47).lanes[7].removals = [] ∧
    4 ≤ lanesIn (Rules.othersInUse (x23_0.port 47) 7) := by
  decide +kernel

def x24_0 : State := ps (pt .training .align (fun p => {p with txSeq := 4, rxSeq := 5}))
theorem witness_LanesTrainAndTheFabricDegrades_11 :
    (x24_0.port 47).st = PortState.training ∧
    4 ≤ lanesIn 15 ∧
    (4 ≤ lanesIn ((x24_0.port 47).mask fun x => decide (x.st = LaneState.align ∨ x.st = LaneState.soak))) := by
  decide +kernel

def x25_0 : State := ps (pt .retrain .align (fun p => {p with txSeq := 4, rxSeq := 5}))
theorem witness_LanesTrainAndTheFabricDegrades_12 :
    (x25_0.port 47).st = PortState.retrain ∧
    4 ≤ lanesIn 15 ∧
    (4 ≤ lanesIn ((x25_0.port 47).mask fun x => decide (x.st = LaneState.align ∨ x.st = LaneState.soak))) := by
  decide +kernel

def fl0 : Flit := {kind := 0, seq := 5, ack := 3, ackv := false, nak := false, first := 0, crp := 5, crn := 0, crp2 := 5, crn2 := 0, resv := 0, resv2 := 0, crc := 0, units := []}
def x27_0 : State := ps (pt .retrain .align (fun p => {p with txSeq := 4, rxSeq := 5, kept := [fl0]}))
theorem witness_LanesTrainAndTheFabricDegrades_12_b :
    (x27_0.port 47).st = PortState.retrain ∧
    4 ≤ lanesIn 255 ∧
    (4 ≤ lanesIn ((x27_0.port 47).mask fun x => decide (x.st = LaneState.align ∨ x.st = LaneState.soak))) := by
  decide +kernel

def x28_0 : TapAsk := .none
def x28_1 : List TapAsk := []
def x28_2 : Lane := {la .eq with preset := 3}
def x28_3 : State := (ps (pt .training .detect)) |> fun s => {s with active := {s.active with ports := s.active.ports.set 47 {s.active.ports[47] with txpre := s.active.ports[47].txpre.set 7 3}}}
theorem witness_LanesTrainAndTheFabricDegrades_4_e :
    x28_3.mayTrain 47 7 = true ∧
    (x28_3.port 47).st = PortState.training ∧
    Rules.trained (x28_3.port 47).lanes[7] true x28_3.active.ports[47].txpre[7] (x28_0 :: x28_1) x28_2 := by
  decide +kernel

def x29_0 : TapAsk := .step true false
def x29_1 : List TapAsk := []
def x29_2 : Lane := {la .align with post := -1}
def x29_3 : State := ps (pt .training .eq)
theorem witness_LanesTrainAndTheFabricDegrades_4_f :
    x29_3.mayTrain 47 7 = true ∧
    (x29_3.port 47).st = PortState.training ∧
    Rules.trained (x29_3.port 47).lanes[7] true x29_3.active.ports[47].txpre[7] (x29_0 :: x29_1) x29_2 := by
  decide +kernel

def x30_0 : TapAsk := .none
def x30_1 : List TapAsk := []
def x30_2 : Lane := {la .reset with fails := 1}
def x30_3 : State := ps (pt .training .align)
theorem witness_LanesTrainAndTheFabricDegrades_4_g :
    x30_3.mayTrain 47 7 = true ∧
    (x30_3.port 47).st = PortState.training ∧
    Rules.trained (x30_3.port 47).lanes[7] false x30_3.active.ports[47].txpre[7] (x30_0 :: x30_1) x30_2 := by
  decide +kernel

def x31_0 : State := ps (pt .active .active (fun p => {p with retrainDue := true, kept := [fl0]}))
theorem witness_LanesTrainAndTheFabricDegrades_13 :
    (x31_0.port 47).st = PortState.active ∧
    (x31_0.port 47).retrainDue = true := by
  decide +kernel

def x32_0 : State := ps (pt .retrain .align (fun p => {p with retrains := 1}))
theorem witness_LanesTrainAndTheFabricDegrades_14 :
    (x32_0.port 47).st = PortState.retrain ∧
    (x32_0.port 47).retrains < 2 := by
  decide +kernel

def x33_0 : State := ps (pt .retrain .align (fun p => {p with retrains := 2, kept := [fl0]}))
theorem witness_LanesTrainAndTheFabricDegrades_15 :
    (x33_0.port 47).st = PortState.retrain ∧
    2 ≤ (x33_0.port 47).retrains := by
  decide +kernel

def x34_0 : State := ps (pt .active .active)
theorem witness_WidthsChangeAndHeartbeatsPass_0 :
    (x34_0.port 47).st = PortState.active ∧
    (lanesIn 15 = 4 ∨ lanesIn 15 = 8) ∧
    (x34_0.port 47).deaf = false := by
  decide +kernel

def x35_0 : State := ps (pt .active .active)
theorem witness_WidthsChangeAndHeartbeatsPass_1 :
    (x35_0.port 47).st = PortState.active ∧
    (lanesIn 255 = 4 ∨ lanesIn 255 = 8) ∧
    (x35_0.port 47).deaf = false ∧
    (x35_0.port 47).plan = [] ∧
    (x35_0.port 47).control = [] := by
  decide +kernel

def ak (n : Nat) (f : Bool) : WidthAsk := {lanes := 0x0F, forced := f, attempts := n, at_ := 10}
def x37_0 : WidthAsk := ak 7 true
def x37_1 : State := ps (pt .active .active (fun p => {p with ask := some (ak 7 true)}))
theorem witness_WidthsChangeAndHeartbeatsPass_2 :
    (x37_1.port 47).ask = some x37_0 ∧
    x37_0.attempts < 8 := by
  decide +kernel

def x38_0 : WidthAsk := ak 7 false
def x38_1 : State := ps (pt .active .active (fun p => {p with ask := some (ak 7 false)}))
theorem witness_WidthsChangeAndHeartbeatsPass_2_b :
    (x38_1.port 47).ask = some x38_0 ∧
    x38_0.attempts < 8 := by
  decide +kernel

def x39_0 : WidthAsk := ak 8 true
def x39_1 : State := ps (pt .active .active (fun p => {p with ask := some (ak 8 true)}))
theorem witness_WidthsChangeAndHeartbeatsPass_3 :
    (x39_1.port 47).ask = some x39_0 ∧
    8 ≤ x39_0.attempts ∧
    x39_0.forced = true := by
  decide +kernel

def x40_0 : WidthAsk := ak 7 true
def x40_1 : State := ps (pt .active .active (fun p => {p with ask := some (ak 7 true)}))
theorem witness_WidthsChangeAndHeartbeatsPass_5 :
    (x40_1.port 47).ask = some x40_0 ∧
    x40_0.forced = true := by
  decide +kernel

def x41_0 : WidthAsk := ak 7 false
def x41_1 : State := ps (pt .active .active (fun p => {p with ask := some (ak 7 false)}))
theorem witness_WidthsChangeAndHeartbeatsPass_6 :
    (x41_1.port 47).ask = some x41_0 ∧
    x41_0.forced = false ∧
    57 ≤ 57 ∧
    57 ≤ 64 := by
  decide +kernel

def x42_0 : State := ps (pt .active .active (fun p => {p with plan := [⟨true, 0x0F, false, some 0⟩]}))
theorem witness_WidthsChangeAndHeartbeatsPass_7 :
    (x42_0.port 47).plan = [{ transmit := true, lanes := 15, fresh := false, left := some 0 }] ∧
    (x42_0.port 47).control = [] := by
  decide +kernel

def x43_0 : State := ps (pt .active .active (fun p => {p with hbAt := 3999999}))
theorem witness_WidthsChangeAndHeartbeatsPass_8 :
    (x43_0.port 47).st = PortState.active ∧
    max x43_0.now ((x43_0.port 47).hbAt + 1000000) < x43_0.mp.wordAt + 5000000 := by
  decide +kernel

def x45_0 : State := ps (pt .active .active (fun p => {p with peer := some (9, 3), miss := 4}))
theorem witness_WidthsChangeAndHeartbeatsPass_10 :
    (x45_0.port 47).st = PortState.active ∧
    (x45_0.port 47).deaf = false ∧
    (x45_0.port 47).peer = some (9, 3) ∧
    1 ≠ 2 := by
  decide +kernel

def x46_0 : State := ps (pt .active .active (fun p => {p with peer := some (8, 3), miss := 4}))
theorem witness_WidthsChangeAndHeartbeatsPass_11 :
    (x46_0.port 47).st = PortState.active ∧
    (x46_0.port 47).deaf = false ∧
    (x46_0.port 47).peer = some (8, 3) ∧
    (8, 3) ≠ (9, 3) := by
  decide +kernel

def x47_0 : State := ps (pt .active .active (fun p => {p with miss := 0xFFFF}))
theorem witness_WidthsChangeAndHeartbeatsPass_12 :
    (x47_0.port 47).st ≠ PortState.disabled ∧
    (x47_0.port 47).miss.toNat + 1 ≠ BitVec.toNat (x47_0.port 47).hblim := by
  decide +kernel

def x48_0 : State := ps (pt .active .active (fun p => {p with rxSeq := 0, nakDue := true, accepted := true, kept := [fl0]}))
theorem witness_FlitsAreSentAndAcknowledged_0 :
    (x48_0.port 47).st = PortState.active ∧
    (x48_0.port 47).control = [] ∧
    (x48_0.port 47).replayAt = none ∧
    (x48_0.port 47).txUnits = [] ∧
    Rules.noMessages (x48_0.port 47) ∧
    (x48_0.port 47).plan = [] ∧
    (x48_0.port 47).forcedTx = none := by
  decide +kernel

def x49_0 : State := ps (pt .active .active (fun p => {p with crcerr := 0xFFFFFFFF}))
theorem witness_FlitsAreSentAndAcknowledged_1 :
    (x49_0.port 47).st = PortState.active ∧
    Rules.quiet (x49_0.port 47) ∧
    fl0.crc ≠ flitChecksum fl0 := by
  decide +kernel

def fl1 : Flit := flitSealed {fl0 with units := [padUnit, padUnit]}
def x51_0 : List Chunk := [padUnit]
def x51_1 : State := ps (pt .active .active (fun p => {p with rxSeq := 5}))
theorem witness_FlitsAreSentAndAcknowledged_2 :
    (x51_1.port 47).st = PortState.active ∧
    Rules.quiet (x51_1.port 47) ∧
    Rules.good fl1 ∧
    fl1.kind = 0 ∧
    fl1.ackv = false ∧
    fl1.nak = false ∧
    5 ≤ fl1.crp.toNat ∧
    5 ≤ fl1.crp2.toNat ∧
    fl1.seq = (x51_1.port 47).rxSeq ∧
    fl1.units = padUnit :: x51_0 ∧
    (x51_1.port 47).partUnits = [] ∧
    (x51_1.port 47).rxMsgs = [] := by
  decide +kernel

def fl2 : Flit := flitSealed {fl0 with kind := 1, ackv := true, ack := 5}
def x53_0 : State := ps (pt .active .active (fun p => {p with kept := [fl0], stuck := 2}))
theorem witness_FlitsAreSentAndAcknowledged_3 :
    (x53_0.port 47).st = PortState.active ∧
    Rules.quiet (x53_0.port 47) ∧
    Rules.good fl2 ∧
    fl2.kind = 1 ∧
    fl2.ackv = true ∧
    fl2.nak = false ∧
    5 ≤ fl2.crp.toNat ∧
    5 ≤ fl2.crp2.toNat ∧
    (x53_0.port 47).kept = [fl0] ∧
    fl0.seq = fl2.ack ∧
    (x53_0.port 47).replayAt = none := by
  decide +kernel

def fl3 : Flit := flitSealed {fl0 with kind := 1, crp := 4, crn := 3}
def x55_0 : State := ps (pt .active .active (fun p => {p with crnSeen := p.crnSeen.set 4 0x1FFF}))
theorem witness_FlitsAreSentAndAcknowledged_4 :
    (x55_0.port 47).st = PortState.active ∧
    Rules.quiet (x55_0.port 47) ∧
    Rules.good fl3 ∧
    fl3.kind = 1 ∧
    fl3.ackv = false ∧
    fl3.nak = false ∧
    fl3.crp.toNat = 4 ∧
    5 ≤ fl3.crp2.toNat := by
  decide +kernel

def x56_0 : State := ps (pt .active .active (fun p => {p with kept := [fl0], replay := 0xFFFFFFFF}))
theorem witness_FlitsAreSentAndAcknowledged_5 :
    (x56_0.port 47).st = PortState.active ∧
    (x56_0.port 47).kept ≠ [] := by
  decide +kernel

def x57_0 : State := ps (pt .active .active (fun p => {p with nakAt := some 5}))
theorem witness_FlitsAreSentAndAcknowledged_6 :
    (x57_0.port 47).nakAt = some 5 := by
  decide +kernel

def fl4 : Flit := flitSealed {fl0 with kind := 2, units := [BitVec.ofNat 128 (2 * 2 ^ 120 + 0x0F * 2 ^ 96 + 2 ^ 88)]}
def x59_0 : State := ps (pt .active .active (fun p => {p with forcedTx := some 0x0F, replayAt := some 0, kept := [fl0]}))
theorem witness_WidthsChangeAndHeartbeatsPass_13 :
    (x59_0.port 47).st = PortState.active ∧
    (x59_0.port 47).slot = 0 ∧
    (x59_0.port 47).plan = [] ∧
    (x59_0.port 47).control = [] ∧
    (x59_0.port 47).forcedTx = some 15 := by
  decide +kernel

def x60_0 : State := ps (pt .active .active (fun p => {p with plan := [⟨true, 0x0F, false, some 1⟩]}))
theorem witness_WidthsChangeAndHeartbeatsPass_14 :
    (x60_0.port 47).st = PortState.active ∧
    (x60_0.port 47).slot = 0 ∧
    (x60_0.port 47).plan = [{ transmit := true, lanes := 15, fresh := false, left := some 1 }] ∧
    (x60_0.port 47).forcedTx = none ∧
    (x60_0.port 47).control = [] ∧
    (x60_0.port 47).txUnits = [] ∧
    Rules.noMessages (x60_0.port 47) ∧
    (x60_0.port 47).replayAt = none := by
  decide +kernel

def x61_0 : List (Fin 528) := [0,1,2,3,4,5,6,7,527]
def x61_1 : List (Fin 528) := []
def x61_2 : State := ps (pt .active .active)
theorem witness_FlitsAreSentAndAcknowledged_7 :
    (x61_2.port 47).st = PortState.active ∧
    Rules.quiet (x61_2.port 47) ∧
    ((x61_2.port 47).rxSlot = 0 ∧ 8 < x61_0.length ∨ (x61_2.port 47).rxSlot = 2 ∧ 8 < x61_1.length) := by
  decide +kernel

def x62_0 : List (Fin 528) := []
def x62_1 : List (Fin 528) := [0,1,2,3,4,5,6,7,527]
def x62_2 : State := ps (pt .active .active (fun p => {p with rxSlot := 2}))
theorem witness_FlitsAreSentAndAcknowledged_7_b :
    (x62_2.port 47).st = PortState.active ∧
    Rules.quiet (x62_2.port 47) ∧
    ((x62_2.port 47).rxSlot = 0 ∧ 8 < x62_0.length ∨ (x62_2.port 47).rxSlot = 2 ∧ 8 < x62_1.length) := by
  decide +kernel

def x63_0 : Flit := flitSealed {fl0 with kind := 1}
def x63_1 : List (Fin 528) := [0,1,8,527]
def x63_2 : List (Fin 528) := [0,1,2,3,4,5,6,7,8]
def x63_3 : State := ps (pt .active .active (fun p => {p with feccorr := 0xFFFFFFFE}))
theorem witness_FlitsAreSentAndAcknowledged_8 :
    (x63_3.port 47).st = PortState.active ∧
    Rules.quiet (x63_3.port 47) ∧
    Rules.good x63_0 ∧
    x63_0.kind = 1 ∧
    x63_0.ackv = false ∧
    x63_0.nak = false ∧
    5 ≤ x63_0.crp.toNat ∧
    5 ≤ x63_0.crp2.toNat ∧
    (x63_3.port 47).rxSlot = 0 ∧
    x63_1.length ≤ 8 ∧
    (∀ (k : Fin 8), (x63_3.port 47).lanes[k].run < 31) := by
  decide +kernel

def x64_0 : State := ps (pt .active .active (fun p => {p with rxSlot := 1}))
theorem witness_FlitsAreSentAndAcknowledged_9 :
    (x64_0.port 47).st = PortState.active ∧
    Rules.quiet (x64_0.port 47) ∧
    Rules.good fl4 ∧
    fl4.kind = 2 ∧
    fl4.ackv = false ∧
    fl4.nak = false ∧
    5 ≤ fl4.crp.toNat ∧
    5 ≤ fl4.crp2.toNat ∧
    controlOf (fl4.units.headD 0) = some (Controlled.widthReq 15 true) ∧
    (lanesIn 15 = 4 ∨ lanesIn 15 = 8) := by
  decide +kernel

def x65_0 : WidthAsk := ak 8 false
def x65_1 : State := ps (pt .active .active (fun p => Port.mapLane {p with ask := some (ak 8 false)} 3 (fun x => {x with marginal := true})))
theorem witness_WidthsChangeAndHeartbeatsPass_4 :
    (x65_1.port 47).ask = some x65_0 ∧
    8 ≤ x65_0.attempts ∧
    x65_0.forced = false := by
  decide +kernel

def x66_0 : TapAsk := .preset 6
def x66_1 : List TapAsk := [.step true false]
def x66_2 : Lane := {la .align with preset := 6, post := -1}
def x66_3 : State := ps (pt .training .eq)
theorem witness_LanesTrainAndTheFabricDegrades_4_h :
    x66_3.mayTrain 47 7 = true ∧
    (x66_3.port 47).st = PortState.training ∧
    Rules.trained (x66_3.port 47).lanes[7] true x66_3.active.ports[47].txpre[7] (x66_0 :: x66_1) x66_2 := by
  decide +kernel

end PartM

/-! ### Requests, messages and reductions -/

namespace PartN

def lkj : Job := { job1 with st := .running, peers := [9], wins := [{ base := 0x50000000, limit := 0x51000000, write := true, host := true, link := true }], codeSize := 0 }
def ls : State := (withJob1 up lkj).hbmPut 0x50000000 (.clean ((List.range 512).map (fun i => BitVec.ofNat 8 (i*3+1))))
def msg (t : BitVec 4) (sub : BitVec 3) (a : Nat) (data : List Byte) (aux : BitVec 8 := 0) : LinkMsg :=
  { type := t, vc := 0, dmod := 0, smod := 9, tag := 5, pkg := false, gv := false, egen := 0, rstate := 0, subop := sub, shp := false, sport := 47, aux := aux, addr := BitVec.ofNat 40 a, data := data }
def d16 : List Byte := (List.range 16).map (fun i => BitVec.ofNat 8 (i+1))
def x10_0 : LinkMsg := msg 0 0 0x50000010 d16
theorem witness_RequestsActAtTheirDestination_0 :
    Rules.Passes ls 3 x10_0 0 true ∧
    ls.destBlocked x10_0 = false ∧
    Rules.Calmly ls x10_0 := by
  decide +kernel

def x11_0 : LinkMsg := msg 0 0 0x50000010 d16
theorem witness_RequestsActAtTheirDestination_1 :
    Rules.Passes ls 3 x11_0 0 true ∧
    x11_0.pkg = false ∧
    ls.flask.regions = [] := by
  decide +kernel

def x12_0 : LinkMsg := msg 1 0 0x50000010 [] 2
theorem witness_RequestsActAtTheirDestination_2 :
    Rules.Passes ls 3 x12_0 1 false ∧
    (ls.destGet x12_0 (16 * x12_0.aux.toNat)).poison = [] ∧
    Rules.Calmly ls x12_0 := by
  decide +kernel

def x13_0 : LinkMsg := msg 2 2 0x50000020 d16
theorem witness_RequestsActAtTheirDestination_4 :
    Rules.Passes ls 3 x13_0 2 true ∧
    ls.destBlocked x13_0 = false ∧
    (ls.destGet x13_0 8).poison = [] ∧
    Rules.Calmly ls x13_0 := by
  decide +kernel

def x14_0 : LinkMsg := msg 2 1 0x50000020 d16
theorem witness_RequestsActAtTheirDestination_4_b :
    Rules.Passes ls 3 x14_0 2 true ∧
    ls.destBlocked x14_0 = false ∧
    (ls.destGet x14_0 8).poison = [] ∧
    Rules.Calmly ls x14_0 := by
  decide +kernel

def x15_0 : LinkMsg := msg 0 0 0x60000010 d16
theorem witness_RequestsActAtTheirDestination_5_0 :
    x15_0.dmod = ls.self ∧
    (ls.port 3).inTurn x15_0 = true ∧
    ls.refusal x15_0 true = some 3 ∧
    3 ≠ 1 ∧
    x15_0.type = 0 := by
  decide +kernel

def x16_0 : LinkMsg := msg 2 0 0x60000010 d16
theorem witness_RequestsActAtTheirDestination_5_1 :
    x16_0.dmod = ls.self ∧
    (ls.port 3).inTurn x16_0 = true ∧
    ls.refusal x16_0 true = some 3 ∧
    3 ≠ 1 ∧
    x16_0.type = 2 := by
  decide +kernel

def d256 : List Byte := (List.range 256).map (fun i => BitVec.ofNat 8 (i+1))
def x18_0 : LinkMsg := msg 4 0 0x60000000 d256
theorem witness_RequestsActAtTheirDestination_5_2 :
    x18_0.dmod = ls.self ∧
    (ls.port 3).inTurn x18_0 = true ∧
    ls.refusal x18_0 true = some 3 ∧
    3 ≠ 1 ∧
    x18_0.type = 4 := by
  decide +kernel

def x19_0 : LinkMsg := msg 1 0 0x60000010 [] 2
theorem witness_RequestsActAtTheirDestination_6 :
    Rules.Due ls 3 x19_0 1 ∧
    ls.refusal x19_0 false = some 3 ∧
    3 ≠ 1 := by
  decide +kernel

def mm (e : BitVec 8) (sub : BitVec 3) : LinkMsg := {msg 3 sub 0x100 d256 with gv := true, egen := e}
def ms : State := fl (bound up) (fun f => {f with expect := 0x104})
def x22_0 : LinkMsg := mm 4 0
theorem witness_RequestsActAtTheirDestination_7 :
    Rules.MirrorOk ms 3 x22_0 ∧
    x22_0.subop = 0 ∧
    x22_0.egen.toNat = BitVec.toNat ms.flask.expect % 256 := by
  decide +kernel

def x23_0 : LinkMsg := mm 5 2
theorem witness_RequestsActAtTheirDestination_8 :
    Rules.MirrorOk ms 3 x23_0 ∧
    x23_0.subop.toNat ≤ 2 ∧
    x23_0.egen.toNat ≠ BitVec.toNat ms.flask.expect % 256 := by
  decide +kernel

def x24_0 : LinkMsg := mm 5 2
theorem witness_RequestsActAtTheirDestination_9 :
    Rules.Due up 3 x24_0 3 ∧
    up.active.bind.en = false := by
  decide +kernel

def tu : TagUse := ⟨.dma 5 2 77, 10, msg 1 0 0x100 [] 1⟩
def cg : Core := { seCore with de := {seCore.de with q := seCore.de.q.set 2 {seCore.de.q[2] with descs := []}} }
def tgt (t : BitVec 4) (ms : List LinkMsg) : State := ((up.setCore 5 cg).mapPort 47 (fun p => {p with tags := [(5, {tu with msg := {tu.msg with type := t, dmod := 9}})]})).mapPort 3 (fun p => {p with rxMsgs := ms})
def tg : State := tgt 1 [msg 8 0 0x100 d16]
def tuT (t : BitVec 4) : TagUse := {tu with msg := {tu.msg with type := t, dmod := 9}}
def x30_0 : LinkMsg := msg 8 0 0x100 d16
def x30_1 : TagUse := tuT 1
theorem witness_MessagesAreForwardedAndAnswered_0 :
    Rules.Returns tg 3 x30_0 8 47 5 x30_1 ∧
    x30_1.who = Requester.dma 5 2 77 ∧
    x30_0.smod = x30_1.msg.dmod ∧
    (x30_1.msg.type = 1 ∧ x30_0.data.length = 16 * x30_1.msg.aux.toNat ∨ x30_1.msg.type = 2 ∧ x30_0.data.length = 16) := by
  decide +kernel

def x31_0 : LinkMsg := msg 9 0 0x100 []
def x31_1 : TagUse := tuT 4
def x31_2 : State := tgt 4 [{msg 9 0 0 [] with vc := 1}, msg 9 0 0x100 []]
theorem witness_MessagesAreForwardedAndAnswered_1 :
    Rules.Returns x31_2 3 x31_0 9 47 5 x31_1 ∧
    x31_1.who = Requester.dma 5 2 77 ∧
    x31_0.smod = x31_1.msg.dmod ∧
    (x31_1.msg.type = 0 ∨ x31_1.msg.type = 3 ∨ x31_1.msg.type = 4) := by
  decide +kernel

def x32_0 : LinkMsg := {msg 0xA 0 0x100 [] 6 with smod := 7}
def x32_1 : TagUse := tuT 4
def x32_2 : State := tgt 4 []
theorem witness_MessagesAreForwardedAndAnswered_2 :
    Rules.Returns x32_2 3 x32_0 10 47 5 x32_1 ∧
    x32_1.who = Requester.dma 5 2 77 ∧
    (x32_0.smod = x32_1.msg.dmod ∨ x32_0.aux = 6) := by
  decide +kernel

def x33_0 : LinkMsg := msg 9 0 0x100 []
theorem witness_MessagesAreForwardedAndAnswered_3 :
    Rules.Due up 3 x33_0 9 ∧
    x33_0.sport.toNat = 47 ∧
    (List.find? (fun t => t.1 == x33_0.tag.toNat) (up.port 47).tags = none) := by
  decide +kernel

def x34_0 : TagUse := tuT 1
theorem witness_MessagesAreForwardedAndAnswered_4 :
    (List.find? (fun x => x.1 == 5) (tg.port 47).tags = some (5, x34_0)) ∧
    x34_0.who = Requester.dma 5 2 77 := by
  decide +kernel

def x35_0 : State := up.mapPort 47 (fun p => {p with cooling := [(5, 100)]})
theorem witness_MessagesAreForwardedAndAnswered_5 :
    List.find? (fun x => x.1 == 5) (x35_0.port 47).cooling = some (5, 100) := by
  decide +kernel

def x36_0 : LinkMsg := msg 5 0 0x100 []
theorem witness_MessagesAreForwardedAndAnswered_6 :
    Rules.Due up 47 x36_0 5 := by
  decide +kernel

def anc : State := {up with active := {up.active with anchor := true}}
def x38_0 : LinkMsg := msg 5 3 0x100 []
theorem witness_MessagesAreForwardedAndAnswered_7 :
    Rules.Due anc 47 x38_0 5 ∧
    (x38_0.subop = 2 ∨ x38_0.subop = 3) ∧
    anc.active.anchor = true ∧
    anc.host.rxwp + 1 ≠ anc.host.rxrp := by
  decide +kernel

def om : LinkMsg := {msg 0 0 0x100 d16 with dmod := 9, smod := 0}
def fw (a : Bool) : State := let s := if a then (up.mapPort 3 (fun p => {p with st := .active, peer := some (9,2)})) else up; {s with active := {s.active with route := {s.active.route with roles := s.active.route.roles.set 3 (0x40090002), loc := s.active.route.loc.set 9 0x80000003}}, switch := {s.switch with waiting := [⟨7, om, none⟩]}}
def x42_0 : State := fw true
theorem witness_MessagesAreForwardedAndAnswered_9 :
    x42_0.stopped om = false ∧
    om.type ≠ 6 ∧
    x42_0.switch.waiting = [{ edie := 7, msg := om, who := none }] ∧
    (Rules.relocated x42_0 om).dmod ≠ x42_0.self ∧
    x42_0.choose x42_0.active.route 7 (x42_0.hops x42_0.active.route Arrived.fromSource (Rules.relocated x42_0 om)) = some (3, false) := by
  decide +kernel

def x43_0 : State := fw false
theorem witness_MessagesAreForwardedAndAnswered_10 :
    x43_0.stopped om = false ∧
    om.type ≠ 6 ∧
    x43_0.switch.waiting = [{ edie := 7, msg := om, who := none }] ∧
    (Rules.relocated x43_0 om).dmod ≠ x43_0.self ∧
    x43_0.choose x43_0.active.route 7 (x43_0.hops x43_0.active.route Arrived.fromSource (Rules.relocated x43_0 om)) = none := by
  decide +kernel

def x44_0 : State := {up with switch := {up.switch with previous := some RouteTable.reset, swapAt := some 77}}
theorem witness_MessagesAreForwardedAndAnswered_11 :
    x44_0.switch.previous = some RouteTable.reset ∧
    x44_0.switch.swapAt = some 77 := by
  decide +kernel

def x45_0 : LinkMsg := msg 4 2 0x50000000 d256
theorem witness_ReductionsAddAndAnswer_0 :
    Rules.Passes ls 3 x45_0 4 true ∧
    ls.ctxOf x45_0 = none ∧
    ls.destBlocked x45_0 = false ∧
    Rules.Calmly ls x45_0 := by
  decide +kernel

def ctx : RedCtx := {RedCtx.reset with en := true, fmt := 2, nm1 := 1, wbase := 0x500000, wlimit := 0x500010, con := (RedCtx.reset.con.set 0 0x80000000).set 1 0x80000009}
def rst : State := ls.mapRed 15 (fun _ => ctx)
def x49_0 : LinkMsg := msg 4 2 0x50000000 d256
theorem witness_ReductionsAddAndAnswer_1 :
    Rules.Passes rst 3 x49_0 4 true ∧
    rst.ctxOf x49_0 = some 15 ∧
    x49_0.addr.toNat % 256 = 0 ∧
    x49_0.data.length = 256 ∧
    x49_0.subop.toNat = (rst.redCtx 15).fmt.toNat ∧
    (rst.redCtx 15).position x49_0.smod = some 1 ∧
    (List.find? (fun r => r.line == x49_0.addr.toNat / 256) (rst.redCtx 15).rounds = none) ∧
    (rst.redCtx 15).halted = false ∧
    (rst.engineLoad (engineOf (rst.redCtx 15).pkg (x49_0.addr.toNat / 256))).1 < 4096 ∧
    (rst.engineLoad (engineOf (rst.redCtx 15).pkg (x49_0.addr.toNat / 256))).2 < 32768 := by
  decide +kernel

def kc : Contribution := {pos := 1, smod := 9, tag := 5, sport := 47, line := 0x500000, data := d256}
def rr : Round := {line := 0x500000, opened := 3, parts := [kc]}
def rst2 : State := ls.mapRed 15 (fun _ => {ctx with con := RedCtx.reset.con.set 1 0x80000009, rounds := [rr]})
theorem witness_ReductionsAddAndAnswer_2 :
    (rst2.redCtx 15).rounds = [rr] ∧
    rr.line = 5242880 ∧
    rr.parts = [kc] ∧
    kc.line = 5242880 ∧
    kc.data.length = 256 ∧
    kc.pos < 32 ∧
    (rst2.redCtx 15).needed = [kc.pos] ∧
    (rst2.redCtx 15).pkg = false ∧
    (rst2.redCtx 15).spill = [] ∧
    rst2.hbmBlocked (256 * 5242880) 256 = false := by
  decide +kernel

theorem witness_ReductionsAddAndAnswer_3 :
    (rst2.redCtx 15).rounds = [rr] ∧
    rr.line = 5242880 := by
  decide +kernel

def x55_0 : LinkMsg := {msg 8 0 0x100 d16 with smod := 8}
def x55_1 : TagUse := tuT 1
def x55_2 : State := tgt 1 []
theorem witness_MessagesAreForwardedAndAnswered_12 :
    Rules.Returns x55_2 3 x55_0 8 47 5 x55_1 ∧
    x55_0.smod ≠ x55_1.msg.dmod := by
  decide +kernel

def ftr : State := (fw true) |> fun s => (s.mapPort 46 (fun p => {p with st := .active, rxMsgs := [{om with rstate := 0x18}]})) |> fun s => {s with switch := {s.switch with waiting := []}, active := {s.active with route := {s.active.route with roles := s.active.route.roles.set 46 (0x40070002)}}}
def x60_0 : LinkMsg := {om with rstate := 0x18}
theorem witness_MessagesAreForwardedAndAnswered_14 :
    ftr.stopped x60_0 = false ∧
    x60_0.type ≠ 6 ∧
    x60_0.dmod ≠ ftr.self ∧
    46 / 6 = 7 ∧
    ftr.switch.again = [] ∧
    (List.find? (fun x => x.vc == x60_0.vc) (ftr.port 46).rxMsgs = some x60_0) ∧
    (Rules.received ftr 46 x60_0).choose (ftr.routes (x60_0.rstate.getLsbD 3)) 7 (ftr.hops (ftr.routes (x60_0.rstate.getLsbD 3)) (Arrived.localPort 46) x60_0) = some (3, false) := by
  decide +kernel

def x61_0 : LinkMsg := msg 1 0 0x50000010 [] 2
def x61_1 : HbmFinding := .corrected 0 3
theorem witness_RequestsActAtTheirDestination_3 :
    Rules.Passes ls 3 x61_0 1 false ∧
    x61_0.pkg = false ∧
    x61_1 ≠ HbmFinding.clean ∧
    (ls.destMeet x61_0 (16 * x61_0.aux.toNat) [] x61_1).hbm.poison = ls.hbm.poison ∧
    (ls.destGet x61_0 (16 * x61_0.aux.toNat)).poison = [] := by
  decide +kernel

def x62_0 : Arrived := .fromSource
def x62_1 : LinkMsg := {om with type := 6}
def x62_2 : State := fw true
theorem witness_MessagesAreForwardedAndAnswered_8 :
    x62_1.type = 6 := by
  decide +kernel

def x63_0 : LinkMsg := msg 8 0 0x100 (d16 ++ d16)
def x63_1 : TagUse := tuT 1
def x63_2 : State := tgt 1 []
theorem witness_MessagesAreForwardedAndAnswered_13 :
    Rules.Returns x63_2 3 x63_0 8 47 5 x63_1 ∧
    x63_1.msg.type = 1 ∧
    x63_0.data.length ≠ 16 * x63_1.msg.aux.toNat := by
  decide +kernel

end PartN

/-! ### Time, power and failover -/

namespace PartO

def tm (role : Bool) (f : TimeSync → TimeSync := id) (job : Bool := false) : State :=
  let s := (if job then loaded else up).mapPort 47 (fun p => {p with st := .active})
  {s with active := {s.active with role := if role then 2 else 1, pport := 47}, time := f s.time, now := 1000000}
def x6_0 : State := tm false
theorem witness_FollowersKeepTheParentsTime_0 :
    Rules.Parenting x6_0 47 := by
  decide +kernel

def x7_0 : State := tm true
theorem witness_FollowersKeepTheParentsTime_3 :
    Rules.Following x7_0 47 ∧
    x7_0.time.waiting = false := by
  decide +kernel

def x8_0 : State := tm false
theorem witness_FollowersKeepTheParentsTime_4 :
    Rules.Parenting x8_0 47 := by
  decide +kernel

def x9_0 : List ℕ := [200]
def x9_1 : State := tm true (fun t => {t with waiting := true, delays := [100,200], t1 := 1000, t2 := 2000, t3 := 3000, lost := 6, seq := 4})
theorem witness_FollowersKeepTheParentsTime_5 :
    Rules.Following x9_1 47 ∧
    x9_1.time.waiting = true ∧
    x9_1.time.delays = 100 :: x9_0 ∧
    100 + 1024 < (x9_1.exchange 47 6000).1.toNat ∧
    BitVec.toNat x9_1.time.lost < 7 := by
  decide +kernel

def x10_0 : State := tm true (fun t => {t with waiting := true, delays := [], t1 := 1000, t2 := 2000, t3 := 3000, lost := 6, seq := 4, inRun := 15}) true
theorem witness_FollowersKeepTheParentsTime_6 :
    Rules.Following x10_0 47 ∧
    x10_0.time.waiting = true ∧
    x10_0.time.delays = [] ∧
    x10_0.anyJob = true := by
  decide +kernel

def x11_0 : State := tm true (fun t => {t with waiting := true, delays := [], t1 := 1000, t2 := 2000000, t3 := 3000000, lost := 6, seq := 4, inRun := 15})
theorem witness_FollowersKeepTheParentsTime_7 :
    Rules.Following x11_0 47 ∧
    x11_0.time.waiting = true ∧
    x11_0.time.delays = [] ∧
    x11_0.anyJob = false ∧
    256000 < (x11_0.exchange 47 2000000).2.natAbs := by
  decide +kernel

def x12_0 : State := tm true (fun t => {t with locked := true, learned := 77})
theorem witness_FollowersKeepTheParentsTime_8 :
    Rules.Following x12_0 47 ∧
    x12_0.time.hold = false := by
  decide +kernel

def pw (f : Power → Power) : State := {up with power := f up.power}
def dz (p : Power) (d : Fin 40) (f : DiePower → DiePower) : Power := {p with dies := p.dies.set d (f p.dies[d])}
theorem witness_SizingFollowsPowerAndHeat_0 :
    nhas up.power.droops 8767 = false := by
  decide +kernel

def x17_0 : List (BitVec 16) := [4]
def x17_1 : State := pw (fun p => {p with good := 9, stale := true})
theorem witness_SizingFollowsPowerAndHeat_2 :
    x17_1.firmwareUp = true := by
  decide +kernel

def x18_0 : List (BitVec 16) := [4]
def x18_1 : State := pw (fun p => {p with good := 8, stale := true})
theorem witness_SizingFollowsPowerAndHeat_2_b :
    x18_1.firmwareUp = true := by
  decide +kernel

def x19_0 : State := pw (fun p => {p with stale := false})
theorem witness_SizingFollowsPowerAndHeat_3 :
    x19_0.firmwareUp = true ∧
    x19_0.power.stale = false := by
  decide +kernel

def x20_0 : List (BitVec 16) := [3,4]
def x20_1 : List (BitVec 16) := [5]
def x20_2 : List (BitVec 16) := [6]
def x20_3 : List IslandSlack := []
def x20_4 : State := pw (fun p => {p with untrust := false})
theorem witness_SizingFollowsPowerAndHeat_5 :
    x20_4.firmwareUp = true ∧
    x20_4.power.untrust = false := by
  decide +kernel

def opp (f : Power → Power) : State := let s := pw f; {s with active := {s.active with clkplan := s.active.clkplan ||| 0x80000000}}
def x22_0 : State := opp (fun p => {p with stale := true})
theorem witness_SizingFollowsPowerAndHeat_6 :
    x22_0.power.stale = true := by
  decide +kernel

def x23_0 : State := opp (fun p => dz p 31 (fun d => {d with est := 94, budget := 100, mode := 1000}))
theorem witness_SizingFollowsPowerAndHeat_7 :
    x23_0.firmwareUp = true ∧
    x23_0.opportunistic = true ∧
    x23_0.power.stale = false ∧
    x23_0.power.dies[cdie 31].mode ≤ x23_0.oppCeiling 31 ∧
    100 * x23_0.power.dies[cdie 31].est.toNat < 95 * x23_0.power.dies[cdie 31].budget.toNat := by
  decide +kernel

def x24_0 : State := opp (fun p => dz p 31 (fun d => {d with est := 101, budget := 100, mode := 810}))
theorem witness_SizingFollowsPowerAndHeat_8 :
    x24_0.firmwareUp = true ∧
    x24_0.opportunistic = true ∧
    x24_0.power.stale = false ∧
    x24_0.power.dies[cdie 31].mode ≤ x24_0.oppCeiling 31 ∧
    95 * x24_0.power.dies[cdie 31].budget.toNat ≤ 100 * x24_0.power.dies[cdie 31].est.toNat ∧
    x24_0.power.dies[cdie 31].budget.toNat < x24_0.power.dies[cdie 31].est.toNat := by
  decide +kernel

def x25_0 : State := opp (fun p => {p with stale := false, untrust := false})
theorem witness_SizingFollowsPowerAndHeat_9 :
    x25_0.firmwareUp = true ∧
    x25_0.opportunistic = true := by
  decide +kernel

def nopp (f : Power → Power) : State := let s := pw f; {s with active := {s.active with clkplan := s.active.clkplan &&& 0x7FFFFFFF}}
def x27_0 : State := nopp (fun p => {p with stale := false, untrust := false, fallback := false, overRun := 10, fixnow := 1, samples := List.replicate 999 7})
theorem witness_SizingFollowsPowerAndHeat_11 :
    x27_0.firmwareUp = true ∧
    x27_0.power.stale = false ∧
    x27_0.power.untrust = false ∧
    x27_0.opportunistic = false ∧
    10 ≤ x27_0.power.overRun ∧
    x27_0.power.fixnow ≠ 0 ∧
    x27_0.power.samples.length < 1000 := by
  decide +kernel

def x28_0 : State := pw (fun p => {p with diverged := 101, untrust := false, calibrate := none})
theorem witness_SizingFollowsPowerAndHeat_12 :
    x28_0.firmwareUp = true ∧
    x28_0.power.untrust = false ∧
    x28_0.power.calibrate = none ∧
    100 < x28_0.power.diverged := by
  decide +kernel

def x29_0 : State := pw (fun p => {p with calibrate := some 77})
theorem witness_SizingFollowsPowerAndHeat_13 :
    x29_0.power.calibrate = some 77 := by
  decide +kernel

def x30_0 : State := pw (fun p => {p with trips := []})
theorem witness_SizingFollowsPowerAndHeat_14 :
    x30_0.power.trips = [] := by
  decide +kernel

def x31_0 : State := pw (fun p => {dz p 31 (fun d => {d with halvedAt := some 3}) with tripAt := 50, trip := true, iin := 3999})
theorem witness_SizingFollowsPowerAndHeat_15 :
    x31_0.firmwareUp = true ∧
    x31_0.power.trip = true ∧
    x31_0.power.iin.toNat < 4000 := by
  decide +kernel

def x32_0 : State := pw (fun p => dz p 31 (fun d => {d with halvedAt := some 3}))
theorem witness_SizingFollowsPowerAndHeat_16 :
    96 < 97 ∧
    x32_0.power.dies[cdie 31].throttling = false ∧
    x32_0.power.dies[cdie 31].halvedAt.isSome = true ∧
    x32_0.power.trip = false := by
  decide +kernel

def x33_0 : State := pw id
theorem witness_SizingFollowsPowerAndHeat_18 :
    96 < 97 ∧
    x33_0.power.dies[39].throttling = false ∧
    x33_0.power.dies[39].halvedAt = none := by
  decide +kernel

def x34_0 : State := pw id
theorem witness_SizingFollowsPowerAndHeat_19 :
    110 ≤ 110 ∧
    x34_0.power.shutdown = false := by
  decide +kernel

def x35_0 : State := pw id
theorem witness_SizingFollowsPowerAndHeat_20 :
    95 ≤ 95 ∧
    nhas x35_0.power.hbmHot 15 = false := by
  decide +kernel

def x36_0 : State := pw (fun p => {p with hbmHot := [15]})
theorem witness_SizingFollowsPowerAndHeat_21 :
    91 < 92 := by
  decide +kernel

def x37_0 : State := opp (fun p => dz p 31 (fun d => {d with mode := 1900, clock := 1000, rail := 7000}))
theorem witness_SizingFollowsPowerAndHeat_22 :
    x37_0.power.dies[cdie 31].clock < x37_0.target 31 ∧
    x37_0.power.dies[cdie 31].rail < x37_0.power.railNeed (31) (x37_0.target 31) := by
  decide +kernel

def x38_0 : State := opp (fun p => dz p 31 (fun d => {d with mode := 900, clock := 910}))
theorem witness_SizingFollowsPowerAndHeat_23 :
    x38_0.target 31 < x38_0.power.dies[cdie 31].clock := by
  decide +kernel

def x39_0 : State := opp (fun p => dz p 31 (fun d => {d with mode := 1900, clock := 1000}))
theorem witness_SizingFollowsPowerAndHeat_24 :
    x39_0.power.dies[cdie 31].clock < x39_0.target 31 ∧
    x39_0.power.railNeed (31) (x39_0.target 31) ≤ x39_0.power.dies[cdie 31].rail := by
  decide +kernel

def x40_0 : IslandSlack := ⟨8767, 9, 2000, []⟩
theorem witness_SizingFollowsPowerAndHeat_25 :
    up.firmwareUp = true := by
  decide +kernel

def x41_0 : IslandSlack := ⟨8767, 20, 2000, []⟩
theorem witness_SizingFollowsPowerAndHeat_26 :
    up.firmwareUp = true ∧
    up.mp.fettles = [] ∧
    (∀ (j : Fin 8), (up.job j).st ≠ JobState.running) ∧
    (∀ k < 5, 20 ≤ x41_0.points.getD k x41_0.slackPs) := by
  decide +kernel

theorem witness_MemoryAndProcessorsFailOver_1 :
    1099511627520 % 256 = 0 ∧
    1099511627520 / 256 % 16 = 15 ∧
    up.board.pchRetired = none ∧
    1099511627520 < up.hbmLimit ∧
    71 < 72 ∧
    tget up.hbm.corr [] (128 * ((1099511627520 + 8 * 31) / 8) + 71) = [] := by
  decide +kernel

theorem witness_MemoryAndProcessorsFailOver_2 :
    1099511627520 % 256 = 0 ∧
    1099511627520 / 256 % 16 = 15 ∧
    up.board.pchRetired = none ∧
    1099511627520 < up.hbmLimit := by
  decide +kernel

theorem witness_MemoryAndProcessorsFailOver_3 :
    loaded.anyJob = true ∧
    loaded.board.pchRetired = none ∧
    loaded.board.pchCand = none ∧
    nhas loaded.board.pchFailed (1023) = false := by
  decide +kernel

theorem witness_MemoryAndProcessorsFailOver_4 :
    Rules.bothUp up := by
  decide +kernel

theorem witness_MemoryAndProcessorsFailOver_4_b :
    Rules.bothUp up := by
  decide +kernel

def x48_0 : MpLoss := .heartbeats
theorem witness_MemoryAndProcessorsFailOver_5 :
    Rules.bothUp up := by
  decide +kernel

def x49_0 : MpLoss := .journal
theorem witness_MemoryAndProcessorsFailOver_6 :
    Rules.bothUp up := by
  decide +kernel

theorem witness_MemoryAndProcessorsFailOver_7 :
    up.firmwareUp = true := by
  decide +kernel

def x51_0 : State := up.mapPort 3 (fun p => {p with st := .active, rxMsgs := [{State.message up 6 0 0 0 (syncBytes 1 5) with subop := 0}]})
theorem witness_FollowersKeepTheParentsTime_9 :
    x51_0.follows 3 = false := by
  decide +kernel

def x52_0 : State := {up with active := {up.active with role := 2, pport := 3}} |> fun s => s.mapPort 3 (fun p => {p with st := .active, rxMsgs := [State.message up 6 0 1 0 (syncBytes 0 5)]})
theorem witness_FollowersKeepTheParentsTime_10 :
    x52_0.follows 3 = true := by
  decide +kernel

def x53_0 : State := up.mapPort 3 (fun p => {p with st := .active, rxMsgs := [State.message up 6 0 2 0 (syncBytes 4 5)]})
theorem witness_FollowersKeepTheParentsTime_11 :
    x53_0.follows 3 = false := by
  decide +kernel

def x54_0 : State := tm true (fun t => {t with synced := true})
theorem witness_FollowersKeepTheParentsTime_1 :
    x54_0.follows 47 = true ∧
    x54_0.time.waiting = false ∧
    x54_0.time.synced = true := by
  decide +kernel

def x55_0 : State := tm true (fun t => {t with waiting := true, lost := 6})
theorem witness_FollowersKeepTheParentsTime_2 :
    x55_0.follows 47 = true ∧
    (x55_0.time.waiting = true ∨ x55_0.time.synced = false) ∧
    BitVec.toNat x55_0.time.lost < 7 := by
  decide +kernel

def x56_0 : IslandSlack := {island := 8767, slackPs := 9, points := [], ringMhz := 2000}
theorem witness_SizingFollowsPowerAndHeat_4 :
    up.firmwareUp = true := by
  decide +kernel

def x57_0 : State := nopp (fun p => {p with untrust := false, calibrate := none, sampled := true, sample := 100, estSum := 100, estCount := 2, diverged := 3})
theorem witness_SizingFollowsPowerAndHeat_10 :
    x57_0.firmwareUp = true ∧
    x57_0.power.untrust = false ∧
    x57_0.power.calibrate = none ∧
    x57_0.power.sampled = true := by
  decide +kernel

theorem witness_SizingFollowsPowerAndHeat_17 :
    100 ≤ 104 ∧
    104 < 105 ∧
    up.power.dies[cdie 31].throttling = false := by
  decide +kernel

end PartO

/-! ### Mailboxes and arbitration -/

namespace PartP

def rq : MbRequest := {mailbox := 7, ver := 3, opc := 0x13, rid := 9, reqlen := 4, job := 1, tlim := 0, payload := [1,2,3,4]}
def db : State × Table Nat := match execMailboxDoorbell 1 (Rules.boxBit 7) [rq] up [.mbien 0xFF, .mbdone 5] with | .next s => (s, s.boxes[(7 : Fin 8)].area) | _ => (up, [])
def x5_0 : List HostAccess := [.mbien 0xFF, .mbdone 5]
theorem witness_MailboxesTakeRequestsAndHoldResults_0 :
    up.hostUp 1 = true ∧
    up.boxes[7].busy = false ∧
    rq.mailbox = 7 ∧
    rq.payload.length = rq.reqlen.toNat := by
  decide +kernel

def x6_0 : List MbRequest := []
def x6_1 : State := asks up h0 (reqJobStatus 1)
theorem witness_MailboxesTakeRequestsAndHoldResults_2 :
    x6_1.hostUp 1 = true ∧
    x6_1.boxes[0].busy = true := by
  decide +kernel

def x7_0 : List Byte := List.replicate 4096 1
def x7_1 : State := asks up (.host 7) (reqJobStatus 1)
theorem witness_MailboxesTakeRequestsAndHoldResults_3 :
    x7_0.length ≤ 4096 := by
  decide +kernel

def x8_0 : State := up.setBox (.host 7) {up.box (.host 7) with st := .done, rdcnt := 0xFFFE}
theorem witness_MailboxesTakeRequestsAndHoldResults_4 :
    x8_0.anyHostUp = true ∧
    x8_0.boxes[7].st = MbState.done ∧
    x8_0.boxes[7].rdcnt ≠ 65535 := by
  decide +kernel

def man : State := {up with active := {up.active with mgfm := 0x8009}}
def x11_0 : List Byte := [1]
theorem witness_MailboxesTakeRequestsAndHoldResults_5 :
    man.active.manager 0 ≠ some 10 := by
  decide +kernel

def x12_0 : List Byte := (List.replicate 72 1)
theorem witness_MailboxesTakeRequestsAndHoldResults_6 :
    man.active.manager 0 = some 9 ∧
    man.frags[0] = [] ∧
    man.fm[0].st = MbState.free := by
  decide +kernel

def x13_0 : List Byte := (List.replicate 72 1)
theorem witness_MailboxesTakeRequestsAndHoldResults_7_0 :
    man.active.manager 0 = some 9 ∧
    1 < 2 ∧
    man.frags[0] = [] := by
  decide +kernel

theorem witness_MailboxesTakeRequestsAndHoldResults_8 :
    man.active.manager 0 = some 9 := by
  decide +kernel

def msg (t : BitVec 4) (sub : BitVec 3) (a : Nat) (data : List Byte) (aux : BitVec 8 := 0) : LinkMsg :=
  { type := t, vc := 0, dmod := 0, smod := 9, tag := 5, pkg := false, gv := false, egen := 0, rstate := 0, subop := sub, shp := false, sport := 47, aux := aux, addr := BitVec.ofNat 40 a, data := data }
def anc : State := {up with active := {up.active with anchor := true}}
def x18_0 : LinkMsg := msg 5 2 0 [1]
theorem witness_MailboxesTakeRequestsAndHoldResults_9_0 :
    x18_0.type = 5 ∧
    anc.active.anchor = true ∧
    anc.host.rxwp + 1 ≠ anc.host.rxrp ∧
    x18_0.subop = 2 := by
  decide +kernel

def x19_0 : LinkMsg := msg 5 3 0 [1]
theorem witness_MailboxesTakeRequestsAndHoldResults_9_1 :
    x19_0.type = 5 ∧
    anc.active.anchor = true ∧
    anc.host.rxwp + 1 ≠ anc.host.rxrp ∧
    x19_0.subop = 3 := by
  decide +kernel

def x20_0 : Fragments := ⟨5, 2, [(1,[1])], 9⟩
def x20_1 : State := {up with frags := up.frags.set 1 [⟨5, 2, [(1,[1])], 9⟩]}
theorem witness_MailboxesTakeRequestsAndHoldResults_10_0 :
    x20_1.frags[1] = [x20_0] := by
  decide +kernel

def x21_0 : List Byte := List.replicate 64 3
theorem witness_MailboxesTakeRequestsAndHoldResults_11 :
    up.board.stage ≠ Stage.held ∧
    up.bmc.st = MbState.free ∧
    64 ≤ x21_0.length ∧
    x21_0.length ≤ 4096 := by
  decide +kernel

def x22_0 : List Byte := []
theorem witness_MailboxesTakeRequestsAndHoldResults_12 :
    up.board.stage ≠ Stage.held := by
  decide +kernel

def q0 (s : State) (src : Source) (opc : BitVec 16) (job : BitVec 8) (seq : Word) (pl : List Byte) : State := s.setBox src { s.box src with st := .queued, opc := opc, seq := seq, ver := 3, job := job, payload := pl, arrival := 10 }
def upj : State := withJob1 up {job1 with owners := 0x81}
def x25_0 : State := q0 upj (.host 7) 0x13 1 4 []
theorem witness_CommandsAreArbitratedAndBar2IsChecked_0 :
    Rules.queued x25_0 (Source.host 7) ∧
    x25_0.answers (Source.host 7) (x25_0.box (Source.host 7)).opc.toNat = true ∧
    Rules.onlyBusy x25_0 (Source.host 7) ∧
    Rules.wellSent x25_0 (Source.host 7) ∧
    Rules.unopposed x25_0 (Source.host 7) := by
  exact ⟨by decide +kernel, by decide +kernel, all_source (by decide +kernel) (by decide +kernel) (by decide +kernel), by decide +kernel, by decide +kernel⟩

def x26_0 : State := q0 (q0 upj (.host 7) 0x12 1 4 []) .bmc 0x12 1 5 []
theorem witness_CommandsAreArbitratedAndBar2IsChecked_1 :
    x26_0.firmwareUp = true ∧
    Rules.queued x26_0 Source.bmc ∧
    Rules.queued x26_0 (Source.host 7) ∧
    (∀ (x : Source), x ≠ Source.bmc → x ≠ Source.host 7 → (x26_0.box x).busy = false) ∧
    Rules.wellSent x26_0 Source.bmc ∧
    Rules.wellSent x26_0 (Source.host 7) ∧
    (x26_0.box Source.bmc).arrival / 1000 = (x26_0.box (Source.host 7)).arrival / 1000 ∧
    x26_0.conflict (x26_0.box Source.bmc) (x26_0.box (Source.host 7)) = true ∧
    Rules.unopposed x26_0 Source.bmc ∧
    Rules.unopposed x26_0 (Source.host 7) := by
  exact ⟨by decide +kernel, by decide +kernel, by decide +kernel, all_source (by decide +kernel) (by decide +kernel) (by decide +kernel), by decide +kernel, by decide +kernel, by decide +kernel, by decide +kernel, by decide +kernel, by decide +kernel⟩

def x25_1 : State := let s := q0 upj (.host 7) 0x12 1 4 []; { s with mp := { s.mp with safety := [(0, .job 1)] } }
def x28_0 : Claim := .job 1
theorem witness_CommandsAreArbitratedAndBar2IsChecked_2 :
    Rules.queued x25_1 (Source.host 7) ∧
    x25_1.answers (Source.host 7) (x25_1.box (Source.host 7)).opc.toNat = true ∧
    Rules.onlyBusy x25_1 (Source.host 7) ∧
    Rules.wellSent x25_1 (Source.host 7) ∧
    ((x25_1.box (Source.host 7)).arrival / 1000, x28_0) ∈ x25_1.mp.safety ∧
    (∃ d ∈ (x25_1.box (Source.host 7)).claims, x25_1.meets x28_0 d = true) := by
  exact ⟨by decide +kernel, by decide +kernel, all_source (by decide +kernel) (by decide +kernel) (by decide +kernel), by decide +kernel, by decide +kernel, by decide +kernel⟩

def x29_0 : State := asks upj (.host 7) {opc := 0x10}
theorem witness_CommandsAreArbitratedAndBar2IsChecked_6 :
    limitMs (x29_0.box (Source.host 7)).opc.toNat = some 10000 ∧
    (x29_0.box (Source.host 7)).st = MbState.running := by
  decide +kernel

theorem witness_CommandsAreArbitratedAndBar2IsChecked_7 :
    up.anyHostUp = true ∧
    1984 % 1024 ≤ 960 := by
  decide +kernel

theorem witness_CommandsAreArbitratedAndBar2IsChecked_8 :
    960 < 961 % 1024 := by
  decide +kernel

def bh : State := (withJob1 up wj).hbmPut 0x50000000 (.clean ((List.range 512).map (fun i => BitVec.ofNat 8 (i*3+1)))) |> fun s => {s with host := {s.host with b2base := 1}}
theorem witness_CommandsAreArbitratedAndBar2IsChecked_9 :
    bh.anyHostUp = true ∧
    16 ≠ 0 ∧
    bh.bar2Ok (bh.bar2Addr 268435456) 16 false = true ∧
    Rules.cleanHbm bh (bh.bar2Addr 268435456) 16 := by
  decide +kernel

theorem witness_CommandsAreArbitratedAndBar2IsChecked_10 :
    bh.anyHostUp = true ∧
    16 ≠ 0 ∧
    bh.bar2Ok (bh.bar2Addr 285212672) 16 false = false := by
  decide +kernel

def x35_0 : List Byte := [1,0,3]
theorem witness_CommandsAreArbitratedAndBar2IsChecked_11_0 :
    bh.anyHostUp = true ∧
    x35_0 ≠ [] ∧
    bh.bar2Ok (bh.bar2Addr 268435456) x35_0.length true = true ∧
    (bh.host.b2held = [] ∧ bh.hbmBlocked (bh.bar2Addr 268435456) x35_0.length = false) := by
  decide +kernel

def x36_0 : List Byte := [1,0,3]
theorem witness_CommandsAreArbitratedAndBar2IsChecked_12 :
    bh.anyHostUp = true ∧
    x36_0 ≠ [] ∧
    bh.bar2Ok (bh.bar2Addr 285212672) x36_0.length true = false := by
  decide +kernel

def x37_0 : List Byte := List.replicate 272 1
theorem witness_CommandsAreArbitratedAndBar2IsChecked_13 :
    up.anyHostUp = true ∧
    x37_0.length = 272 := by
  decide +kernel

def x38_0 : List Byte := List.replicate 272 1
theorem witness_CommandsAreArbitratedAndBar2IsChecked_14 :
    up.anyHostUp = true ∧
    x38_0.length = 272 ∧
    up.active.anchor = false := by
  decide +kernel

def x39_0 : State := {up with host := {up.host with mbdone := 7, dberr := 0x81, evlost := 4, b2err := 9}}
theorem witness_MailboxesTakeRequestsAndHoldResults_14 :
    x39_0.hostUp 1 = true := by
  decide +kernel

def x40_0 : State := {up with now := 8589934597}
theorem witness_MailboxesTakeRequestsAndHoldResults_15 :
    x40_0.hostUp 1 = true := by
  decide +kernel

def bw (o : Nat) (v : BitVec 32) : Mailbox := match execMailboxDoorbell 1 0 [] up [.write (Rules.boxWord 6 o) v, .read (Rules.boxWord 6 o)] with | .next s => s.boxes[(6 : Fin 8)] | _ => up.boxes[(6 : Fin 8)]
theorem witness_MailboxesTakeRequestsAndHoldResults_1_0 :
    up.hostUp 1 = true ∧
    68 % 4 = 0 ∧
    68 < 8192 ∧
    (68 < 32 ∨ 64 ≤ 68 ∧ 68 < 4096) := by
  decide +kernel

theorem witness_MailboxesTakeRequestsAndHoldResults_1_0_b :
    up.hostUp 1 = true ∧
    28 % 4 = 0 ∧
    28 < 8192 ∧
    (28 < 32 ∨ 64 ≤ 28 ∧ 28 < 4096) := by
  decide +kernel

theorem witness_MailboxesTakeRequestsAndHoldResults_1_1 :
    up.hostUp 1 = true ∧
    32 % 4 = 0 ∧
    32 < 8192 ∧
    (32 ≤ 32 ∧ 32 < 64 ∨ 4096 ≤ 32) := by
  decide +kernel

theorem witness_MailboxesTakeRequestsAndHoldResults_1_1_b :
    up.hostUp 1 = true ∧
    4096 % 4 = 0 ∧
    4096 < 8192 ∧
    (32 ≤ 4096 ∧ 4096 < 64 ∨ 4096 ≤ 4096) := by
  decide +kernel

def x46_0 : List Byte := (List.replicate 72 1)
def x46_1 : State := {man with frags := man.frags.set 0 [⟨6, 2, [(1,[1])], 9⟩]}
def x46_2 : Fragments := ⟨6, 2, [(1,[1])], 9⟩
theorem witness_MailboxesTakeRequestsAndHoldResults_7_1 :
    x46_1.active.manager 0 = some 9 ∧
    1 < 2 ∧
    x46_1.frags[0] = [x46_2] ∧
    x46_2.rid ≠ 5 := by
  decide +kernel

def x47_0 : Fragments := ⟨5, 2, [(1,[1])], 9⟩
def x47_1 : State := {up with frags := up.frags.set 1 [⟨5, 2, [(1,[1])], 9⟩, ⟨6, 2, [(1,[1])], 10⟩]}
def x47_2 : Fragments := ⟨6, 2, [(1,[1])], 10⟩
theorem witness_MailboxesTakeRequestsAndHoldResults_10_1 :
    x47_1.frags[1] = [x47_0, x47_2] ∧
    x47_0.at_ < x47_2.at_ := by
  decide +kernel

def pk (k : BitVec 8) (x : List Byte) : List Byte := [0x7E, BitVec.ofNat 8 (Config.pciVendor.toNat / 256), BitVec.ofNat 8 Config.pciVendor.toNat, k] ++ x
def x49_0 : List Byte := []
def x49_1 : List Byte := []
def x49_2 : List (List Byte) := [pk 1 []]
theorem witness_MailboxesTakeRequestsAndHoldResults_13_0 :
    up.board.stage ≠ Stage.held ∧
    x49_2 ≠ [] ∧
    (∀ p ∈ x49_2.dropLast, p.length = 64) ∧
    (∀ p ∈ x49_2, p.length ≤ 64) ∧
    x49_2.flatten.length ≤ 4101 ∧
    x49_2.flatten = [126, BitVec.ofNat 8 (Config.pciVendor.toNat / 256), BitVec.ofNat 8 Config.pciVendor.toNat, 1] ++ x49_0 := by
  exact ⟨by decide +kernel, by decide +kernel, forall_mem_of_all _ (by decide +kernel), forall_mem_of_all _ (by decide +kernel), by decide +kernel, rfl⟩

def x50_0 : List Byte := []
def x50_1 : List Byte := []
def x50_2 : List (List Byte) := [[0x7F, 1, 2, 3]]
theorem witness_MailboxesTakeRequestsAndHoldResults_13_1 :
    up.board.stage ≠ Stage.held ∧
    x50_2 ≠ [] ∧
    (∀ p ∈ x50_2.dropLast, p.length = 64) ∧
    (∀ p ∈ x50_2, p.length ≤ 64) ∧
    x50_2.flatten.length ≤ 4101 ∧
    List.take 3 x50_2.flatten ≠ [126, BitVec.ofNat 8 (Config.pciVendor.toNat / 256), BitVec.ofNat 8 Config.pciVendor.toNat] := by
  exact ⟨by decide +kernel, by decide +kernel, forall_mem_of_all _ (by decide +kernel), forall_mem_of_all _ (by decide +kernel), by decide +kernel, by decide +kernel⟩

def x51_0 : PendingSwap := ⟨5, .bmc, 1⟩
def x51_1 : State := (q0 upj (.host 7) 0x13 1 4 []) |> fun s => {s with mp := {s.mp with swap := some ⟨5, .bmc, 1⟩}}
theorem witness_CommandsAreArbitratedAndBar2IsChecked_3 :
    (x51_1.box (Source.host 7)).st = MbState.queued ∧
    x51_1.mp.tick ≤ (x51_1.box (Source.host 7)).arrival ∧
    x51_1.answers (Source.host 7) (x51_1.box (Source.host 7)).opc.toNat = true ∧
    Rules.onlyBusy x51_1 (Source.host 7) ∧
    x51_1.mp.swap = some x51_0 ∧
    x51_0.time / 1000 ≤ (x51_1.box (Source.host 7)).arrival / 1000 := by
  exact ⟨by decide +kernel, by decide +kernel, by decide +kernel, all_source (by decide +kernel) (by decide +kernel) (by decide +kernel), by decide +kernel, by decide +kernel⟩

def cf : State := let s := asks upj (.host 0) reqCfgSwap; let s := q0 s (.host 1) 0x22 0 5 []; {s with mp := {s.mp with tick := 1000}}
theorem witness_CommandsAreArbitratedAndBar2IsChecked_4_0 :
    Source.host 0 ≠ Source.host 1 ∧
    (cf.box (Source.host 0)).st = MbState.running ∧
    (cf.box (Source.host 1)).st = MbState.queued ∧
    (cf.box (Source.host 1)).arrival < cf.mp.tick ∧
    cf.conflict (cf.box (Source.host 0)) (cf.box (Source.host 1)) = true ∧
    (cf.box (Source.host 1)).opc ≠ 18 ∧
    (∀ (z : Source), z ≠ Source.host 0 → z ≠ Source.host 1 → (cf.box z).busy = false) ∧
    cf.mp.swap = none := by
  exact ⟨by decide +kernel, by decide +kernel, by decide +kernel, by decide +kernel, by decide +kernel, by decide +kernel, all_source (by decide +kernel) (by decide +kernel) (by decide +kernel), by decide +kernel⟩

def x54_0 : State := {cf with mp := {cf.mp with swap := some ⟨500000, .bmc, 1⟩}}
theorem witness_CommandsAreArbitratedAndBar2IsChecked_4_1 :
    Source.host 0 ≠ Source.host 1 ∧
    (x54_0.box (Source.host 0)).st = MbState.running ∧
    (x54_0.box (Source.host 1)).st = MbState.queued ∧
    (x54_0.box (Source.host 1)).arrival < x54_0.mp.tick ∧
    x54_0.conflict (x54_0.box (Source.host 0)) (x54_0.box (Source.host 1)) = true ∧
    (x54_0.box (Source.host 1)).opc ≠ 18 ∧
    (∀ (z : Source), z ≠ Source.host 0 → z ≠ Source.host 1 → (x54_0.box z).busy = false) ∧
    x54_0.mp.swap ≠ none ∧
    (x54_0.box (Source.host 1)).opc ∈ [33, 34, 35] ∧
    requestBad (x54_0.box (Source.host 1)).opc.toNat (x54_0.box (Source.host 1)).payload = none := by
  exact ⟨by decide +kernel, by decide +kernel, by decide +kernel, by decide +kernel, by decide +kernel, by decide +kernel, all_source (by decide +kernel) (by decide +kernel) (by decide +kernel), by decide +kernel, by decide +kernel, by decide +kernel⟩

def x55_0 : State := asks upj (.host 7) (reqJobKill 2)
theorem witness_CommandsAreArbitratedAndBar2IsChecked_5_0 :
    Rules.notItsTurn x55_0 (Source.host 7) (reqJobKill 1) := by
  decide +kernel

def x56_0 : State := asks upj (.host 7) (reqJobKill 2)
theorem witness_CommandsAreArbitratedAndBar2IsChecked_5_1 :
    Rules.notItsTurn x56_0 (Source.host 7) (reqPowerCap 3 4) := by
  decide +kernel

def x57_0 : State := asks upj (.host 7) (reqJobKill 2)
theorem witness_CommandsAreArbitratedAndBar2IsChecked_5_2 :
    Rules.notItsTurn x57_0 (Source.host 7) (reqRollback 1) := by
  decide +kernel

def x58_0 : State := asks upj (.host 7) (reqJobKill 2)
theorem witness_CommandsAreArbitratedAndBar2IsChecked_5_3 :
    Rules.notItsTurn x58_0 (Source.host 7) (reqCfgSwapAt 5) := by
  decide +kernel

def full : State := (fl (own bh) (fun f => {f with committed := 3})).setBind {bound1 with undo := 0}
def x60_0 : List Byte := [1,0,3]
theorem witness_CommandsAreArbitratedAndBar2IsChecked_11_1 :
    full.anyHostUp = true ∧
    x60_0 ≠ [] ∧
    full.bar2Ok (full.bar2Addr 268435456) x60_0.length true = true ∧
    (full.host.b2held = [] ∧ full.hbmBlocked (full.bar2Addr 268435456) x60_0.length = true) := by
  decide +kernel

def anch : State := {up with active := {up.active with anchor := true}}
def x62_0 : List Byte := List.replicate 272 1
theorem witness_CommandsAreArbitratedAndBar2IsChecked_15 :
    anch.anyHostUp = true ∧
    x62_0.length = 272 ∧
    anch.active.anchor = true ∧
    ((Rules.bufHead x62_0).type ≠ 5 ∨ (Rules.bufHead x62_0).subop ≠ 0 ∧ (Rules.bufHead x62_0).subop ≠ 1) := by
  decide +kernel

def x63_0 : List Byte := List.replicate 15 0 ++ [0x50] ++ List.replicate 256 1
theorem witness_CommandsAreArbitratedAndBar2IsChecked_16 :
    anch.anyHostUp = true ∧
    x63_0.length = 272 ∧
    anch.active.anchor = true ∧
    (Rules.bufHead x63_0).type = 5 ∧
    ((Rules.bufHead x63_0).subop = 0 ∨ (Rules.bufHead x63_0).subop = 1) := by
  decide +kernel

def x64_0 : List Byte := List.replicate 7 0 ++ [4] ++ List.replicate 7 0 ++ [0x50] ++ List.replicate 256 1
theorem witness_CommandsAreArbitratedAndBar2IsChecked_16_b :
    anch.anyHostUp = true ∧
    x64_0.length = 272 ∧
    anch.active.anchor = true ∧
    (Rules.bufHead x64_0).type = 5 ∧
    ((Rules.bufHead x64_0).subop = 0 ∨ (Rules.bufHead x64_0).subop = 1) := by
  decide +kernel

end PartP

/-! ### Reports, shadow writes and direct commands -/

namespace PartQ

def x3_0 : State := asks up h0 reqHealth
theorem witness_ReportsReturnWhatTheBlockHolds_1 :
    Rules.running x3_0 h0 reqHealth := by
  decide +kernel

def x4_0 : State := asks up h0 (reqCfgGet 0x32 false false 0 4)
theorem witness_ReportsReturnWhatTheBlockHolds_3 :
    Rules.running x4_0 h0 (reqCfgGet 50 false false 0 4) ∧
    (50 = 41 ∨ 49 < 50) := by
  decide +kernel

def x5_0 : State := { asks up h0 (reqPhaseRead 38 2) with power := up.power.loadPhases 38 ((List.range 2048).map (fun i => BitVec.ofNat 8 (i*7+3))) }
theorem witness_ReportsReturnWhatTheBlockHolds_4 :
    Rules.running x5_0 h0 (reqPhaseRead 38 2) ∧
    (2 = 1 ∨ 2 = 2) ∧
    38 + 2 ≤ 40 := by
  decide +kernel

def x6_0 : State := asks up h0 (reqRouteQuery 8191)
theorem witness_ReportsReturnWhatTheBlockHolds_5 :
    Rules.running x6_0 h0 (reqRouteQuery 8191) ∧
    8191 < 8192 := by
  decide +kernel

def x7_0 : State := asks up h0 (reqRouteQuery 3)
theorem witness_ReportsReturnWhatTheBlockHolds_5_b :
    Rules.running x7_0 h0 (reqRouteQuery 3) ∧
    3 < 8192 := by
  decide +kernel

def logged : State := withLog up [mpEvent 1 0x0701 [5], mpEvent 0 0x0702 [6], mpEvent 2 0x0703 [7]]
def x9_0 : State := asks up h0 (reqCfgWrite 0 true 0 [3934160])
theorem witness_ShadowWritesWaitForASwap_0_0 :
    Rules.running x9_0 h0 (reqCfgWrite 0 true 0 [3934160]) ∧
    x9_0.mp.swap = none ∧
    (3934160 &&& 4278190080#32 = 0 ∧ capOk x9_0.ident.code (3934160) = true) := by
  decide +kernel

def x10_0 : State := asks up h0 (reqCfgWrite 0 true 0 [0x000A0001])
theorem witness_ShadowWritesWaitForASwap_0_1 :
    Rules.running x10_0 h0 (reqCfgWrite 0 true 0 [655361]) ∧
    x10_0.mp.swap = none ∧
    capOk x10_0.ident.code (655361) = false := by
  decide +kernel

def x11_0 : State := asks up h0 (reqCfgWrite 0x31 true 0 [0x9FFF9FFF])
theorem witness_ShadowWritesWaitForASwap_1 :
    Rules.running x11_0 h0 (reqCfgWrite 49 true 0 [2684329983]) ∧
    x11_0.mp.swap = none ∧
    2684329983 &&& 1610637312#32 = 0 := by
  decide +kernel

def x12_0 : State := let s := asks loaded h0 reqCfgSwap; {s with shadow := {s.shadow with clkplan := s.shadow.clkplan ^^^ 0x00400000}}
theorem witness_ShadowWritesWaitForASwap_4 :
    Rules.running x12_0 h0 reqCfgSwap ∧
    x12_0.mp.swap = none ∧
    x12_0.active.route = x12_0.shadow.route ∧
    x12_0.anyJob = true ∧
    (x12_0.active.clkplan ^^^ x12_0.shadow.clkplan) &&& 207618048#32 ≠ 0 := by
  decide +kernel

def rt : State := let s := asks up h0 reqCfgSwap; {s with shadow := {s.shadow with route := {s.shadow.route with self := 4}}, switch := {s.switch with swapAt := some 5}, now := 6}
theorem witness_ShadowWritesWaitForASwap_5 :
    Rules.running rt h0 reqCfgSwap ∧
    rt.mp.swap = none ∧
    rt.active.route ≠ rt.shadow.route ∧
    rt.now < rt.graceEnd := by
  decide +kernel

def x15_0 : State := {rt with now := 10^8}
theorem witness_ShadowWritesWaitForASwap_3 :
    Rules.running x15_0 h0 reqCfgSwap ∧
    x15_0.mp.swap = none ∧
    (x15_0.active.route = x15_0.shadow.route ∨ x15_0.graceEnd ≤ x15_0.now) ∧
    (x15_0.anyJob = false ∨ x15_0.swapBars = none) := by
  decide +kernel

def x16_0 : State := asks up h0 (reqCfgSwapAt 1000000)
theorem witness_ShadowWritesWaitForASwap_6_1 :
    Rules.running x16_0 h0 (reqCfgSwapAt 1000000) ∧
    x16_0.mp.swap = none ∧
    1000000 ≠ 0 ∧
    (x16_0.box h0).arrival + 1000000 ≤ 1000000 ∧
    1000000 ≤ (x16_0.box h0).arrival + 10000000000 ∧
    (x16_0.active.route = x16_0.shadow.route ∨ x16_0.graceEnd ≤ 1000000) ∧
    (x16_0.active.role ≠ 1 ∧ x16_0.time.locked = false) := by
  decide +kernel

def x17_0 : State := let s := asks up h0 (reqCfgSwapAt 10000000000); {s with active := {s.active with role := 1}}
theorem witness_ShadowWritesWaitForASwap_6_0 :
    Rules.running x17_0 h0 (reqCfgSwapAt 10000000000) ∧
    x17_0.mp.swap = none ∧
    10000000000 ≠ 0 ∧
    (x17_0.box h0).arrival + 1000000 ≤ 10000000000 ∧
    10000000000 ≤ (x17_0.box h0).arrival + 10000000000 ∧
    (x17_0.active.route = x17_0.shadow.route ∨ x17_0.graceEnd ≤ 10000000000) ∧
    (x17_0.active.role = 1 ∨ x17_0.time.locked = true) := by
  decide +kernel

def x18_0 : State := asks up h0 (reqCfgSwapAt 999999)
theorem witness_ShadowWritesWaitForASwap_7 :
    Rules.running x18_0 h0 (reqCfgSwapAt 999999) ∧
    x18_0.mp.swap = none ∧
    999999 ≠ 0 ∧
    (999999 < (x18_0.box h0).arrival + 1000000 ∨ (x18_0.box h0).arrival + 10000000000 < 999999) := by
  decide +kernel

def x19_0 : State := asks up h0 (reqCfgSwapAt 10000000001)
theorem witness_ShadowWritesWaitForASwap_7_b :
    Rules.running x19_0 h0 (reqCfgSwapAt 10000000001) ∧
    x19_0.mp.swap = none ∧
    10000000001 ≠ 0 ∧
    (10000000001 < (x19_0.box h0).arrival + 1000000 ∨ (x19_0.box h0).arrival + 10000000000 < 10000000001) := by
  decide +kernel

def pend (o : Request) : State := let s := (asks up h0 o).setBox (.host 1) {up.box (.host 1) with st := .running, opc := 0x23, payload := (reqCfgSwapAt 1000).sent, seq := 9, begun := true}; {s with mp := {s.mp with swap := some {time := 1000, src := .host 1, seq := 9}}}
def x21_0 : PendingSwap := {time := 1000, src := .host 1, seq := 9}
def x21_1 : State := pend reqDevInfo
theorem witness_ShadowWritesWaitForASwap_8 :
    x21_1.mp.swap = some x21_0 ∧
    (x21_1.anyJob = false ∨ x21_1.swapBars = none) := by
  decide +kernel

def x22_0 : PendingSwap := {time := 1000, src := .host 1, seq := 9}
def x22_1 : State := pend (reqCfgWrite 0 true 0 [])
def x22_2 : List (BitVec 32) := []
theorem witness_ShadowWritesWaitForASwap_9_0 :
    x22_1.mp.swap = some x22_0 ∧
    Rules.running x22_1 h0 (reqCfgWrite 0 true 0 x22_2) := by
  decide +kernel

def x23_0 : PendingSwap := {time := 1000, src := .host 1, seq := 9}
def x23_1 : State := pend (reqRouteWrite 0 [])
def x23_2 : List RouteMasks := []
theorem witness_ShadowWritesWaitForASwap_9_1 :
    x23_1.mp.swap = some x23_0 ∧
    Rules.running x23_1 h0 (reqRouteWrite 0 x23_2) := by
  decide +kernel

def x24_0 : PendingSwap := {time := 1000, src := .host 1, seq := 9}
def x24_1 : State := pend reqCfgSwap
theorem witness_ShadowWritesWaitForASwap_9_2 :
    x24_1.mp.swap = some x24_0 ∧
    Rules.running x24_1 h0 reqCfgSwap := by
  decide +kernel

def x25_0 : PendingSwap := {time := 1000, src := .host 1, seq := 9}
def x25_1 : State := pend (reqCfgSwapAt 5)
theorem witness_ShadowWritesWaitForASwap_9_3 :
    x25_1.mp.swap = some x25_0 ∧
    5 ≠ 0 ∧
    Rules.running x25_1 h0 (reqCfgSwapAt 5) := by
  decide +kernel

def x26_0 : PendingSwap := {time := 1000, src := .host 1, seq := 9}
def x26_1 : State := pend (reqCfgSwapAt 0)
theorem witness_ShadowWritesWaitForASwap_9_4 :
    x26_1.mp.swap = some x26_0 ∧
    Rules.running x26_1 h0 (reqCfgSwapAt 0) := by
  decide +kernel

def x27_0 : State := asks up .bmc (reqPowerCap 2000 60)
theorem witness_DirectCommandsSetBothSets_0_0 :
    Rules.running x27_0 Source.bmc (reqPowerCap 2000 60) ∧
    (2000 ≤ 2000 ∧ 2000 ≤ tdp x27_0.ident.code ∧ 1 ≤ 60 ∧ 60 ≤ 60) := by
  decide +kernel

def x28_0 : State := asks up .bmc (reqPowerCap 2000 61)
theorem witness_DirectCommandsSetBothSets_0_1 :
    Rules.running x28_0 Source.bmc (reqPowerCap 2000 61) ∧
    (2000 < 2000 ∨ tdp x28_0.ident.code < 2000 ∨ 61 = 0 ∨ 60 < 61) := by
  decide +kernel

def x29_0 : State := asks up h0 (reqClockMode 0x400 0xFFF)
theorem witness_DirectCommandsSetBothSets_1_0 :
    Rules.running x29_0 h0 (reqClockMode 1024 4095) ∧
    1024 &&& 4292874239 = 1024 ∧
    4095 &&& 4292874239 = 4095 ∧
    clkOk (BitVec.toNat (x29_0.active.clkplan &&& ~~~4095 ||| 1024 &&& 4095)) = true ∧
    (x29_0.anyJob = false ∨ (x29_0.active.clkplan ^^^ (x29_0.active.clkplan &&& ~~~4095 ||| 1024 &&& 4095)) &&& 207618048#32 = 0) := by
  decide +kernel

def x30_0 : State := asks loaded h0 (reqClockMode 0x400 0x400000)
theorem witness_DirectCommandsSetBothSets_1_1 :
    Rules.running x30_0 h0 (reqClockMode 1024 4194304) ∧
    1024 &&& 4292874239 = 1024 ∧
    4194304 &&& 4292874239 = 4194304 ∧
    clkOk (BitVec.toNat (x30_0.active.clkplan &&& ~~~4194304 ||| 1024 &&& 4194304)) = true ∧
    (x30_0.anyJob = true ∧ (x30_0.active.clkplan ^^^ (x30_0.active.clkplan &&& ~~~4194304 ||| 1024 &&& 4194304)) &&& 207618048#32 ≠ 0) := by
  decide +kernel

def x31_0 : List Byte := (List.range 2048).map (fun i => BitVec.ofNat 8 (i*7+3))
def x31_1 : State := asks loaded h0 (reqPhaseLoad 1 39 1 ((List.range 2048).map (fun i => BitVec.ofNat 8 (i*7+3))))
theorem witness_DirectCommandsSetBothSets_2_0 :
    Rules.running x31_1 h0 (reqPhaseLoad 1 39 1 x31_0) ∧
    x31_1.jobNamed 1 ≠ none ∧
    39 < 40 ∧
    x31_0.length = 2048 ∧
    x31_1.power.untrust = false := by
  decide +kernel

def x32_0 : List Byte := (List.range 2048).map (fun i => BitVec.ofNat 8 (i*7+3))
def x32_1 : State := let s := asks loaded h0 (reqPhaseLoad 1 39 1 ((List.range 2048).map (fun i => BitVec.ofNat 8 (i*7+3)))); {s with power := {s.power with untrust := true}}
theorem witness_DirectCommandsSetBothSets_2_1 :
    Rules.running x32_1 h0 (reqPhaseLoad 1 39 1 x32_0) ∧
    x32_1.jobNamed 1 ≠ none ∧
    39 < 40 ∧
    x32_0.length = 2048 ∧
    x32_1.power.untrust = true := by
  decide +kernel

def x33_0 : State := asks loaded h0 (reqPhaseClear 0xFF)
theorem witness_DirectCommandsSetBothSets_3 :
    Rules.running x33_0 h0 (reqPhaseClear 255) := by
  decide +kernel

def x34_0 : List (BitVec 16) := (List.range 48).map (BitVec.ofNat 16)
def x34_1 : State := asks loaded h0 (reqTimeSync 2 47 0x800000000001 ((List.range 48).map (BitVec.ofNat 16)) none)
theorem witness_DirectCommandsSetBothSets_5_0 :
    Rules.running x34_1 h0 (reqTimeSync 2 47 140737488355329 x34_0 none) ∧
    (2 ≠ 3 ∧ 47 < 48) := by
  decide +kernel

def x35_0 : List (BitVec 16) := (List.range 48).map (BitVec.ofNat 16)
def x35_1 : State := asks loaded h0 (reqTimeSync 2 48 0x800000000001 ((List.range 48).map (BitVec.ofNat 16)) none)
theorem witness_DirectCommandsSetBothSets_5_1 :
    Rules.running x35_1 h0 (reqTimeSync 2 48 140737488355329 x35_0 none) ∧
    (2 = 3 ∨ 48 ≤ 48) := by
  decide +kernel

def x36_0 : List (BitVec 16) := (List.range 48).map (BitVec.ofNat 16)
def x36_1 : State := asks loaded h0 (reqTimeSync 1 47 0x800000000001 ((List.range 48).map (BitVec.ofNat 16)) (some 77))
theorem witness_DirectCommandsSetBothSets_6_0 :
    Rules.running x36_1 h0 (reqTimeSync 1 47 140737488355329 x36_0 (some 77)) ∧
    47 < 48 ∧
    x36_1.anyJob = true := by
  decide +kernel

def x37_0 : List (BitVec 16) := (List.range 48).map (BitVec.ofNat 16)
def x37_1 : State := asks up h0 (reqTimeSync 1 47 0x800000000001 ((List.range 48).map (BitVec.ofNat 16)) (some 77))
theorem witness_DirectCommandsSetBothSets_6_1 :
    Rules.running x37_1 h0 (reqTimeSync 1 47 140737488355329 x37_0 (some 77)) ∧
    47 < 48 ∧
    x37_1.anyJob = false := by
  decide +kernel

def rw0 (f : Word) (m : RouteMasks) : State := asks up h0 (reqRouteWrite f [m])
def rw1 : State := rw0 255 ⟨1, 0, 0xFFFFFFFF, 0xFFFF⟩
def rw2 : State := {rw0 0 ⟨0, 0, 0, 0⟩ with shadow := {up.shadow with route := {up.shadow.route with minimal := [(0,5),(0,7)]}}}
def x41_0 : RouteMasks := ⟨1, 0, 0xFFFFFFFF, 0xFFFF⟩
theorem witness_ShadowWritesWaitForASwap_2_0 :
    Rules.running rw1 h0 (reqRouteWrite 255 [x41_0]) ∧
    rw1.mp.swap = none ∧
    255 < 256 ∧
    (BitVec.toNat x41_0.minHi < 65536 ∧ BitVec.toNat x41_0.nmHi < 65536) := by
  decide +kernel

def x42_0 : RouteMasks := ⟨0, 0, 0, 0⟩
theorem witness_ShadowWritesWaitForASwap_2_0_b :
    Rules.running rw2 h0 (reqRouteWrite 0 [x42_0]) ∧
    rw2.mp.swap = none ∧
    0 < 256 ∧
    (BitVec.toNat x42_0.minHi < 65536 ∧ BitVec.toNat x42_0.nmHi < 65536) := by
  decide +kernel

def x43_0 : RouteMasks := ⟨0, 0x10000, 0, 0⟩
def x43_1 : State := rw0 0 ⟨0, 0x10000, 0, 0⟩
theorem witness_ShadowWritesWaitForASwap_2_1 :
    Rules.running x43_1 h0 (reqRouteWrite 0 [x43_0]) ∧
    x43_1.mp.swap = none ∧
    0 < 256 ∧
    65536 ≤ BitVec.toNat x43_0.minHi := by
  decide +kernel

def x45_0 : State := (asks loaded (.fm 0) (reqPort 47 0 none)).mapPort 47 (fun p => {p with st := .active})
theorem witness_DirectCommandsSetBothSets_4_0 :
    Rules.running x45_0 (Source.fm 0) (reqPort 47 0 none) := by
  decide +kernel

def x46_0 : State := (asks loaded (.fm 0) (reqPort 47 1 none)).mapPort 47 (fun p => {p with st := .active})
theorem witness_DirectCommandsSetBothSets_4_1 :
    Rules.running x46_0 (Source.fm 0) (reqPort 47 1 none) := by
  decide +kernel

def x47_0 : State := (asks loaded (.fm 0) (reqPort 47 3 (some ((255 : BitVec 8).setWidth 32)))).mapPort 47 (fun p => {p with st := .active})
theorem witness_DirectCommandsSetBothSets_4_2 :
    Rules.running x47_0 (Source.fm 0) (reqPort 47 3 (some (BitVec.setWidth 32 (255 : BitVec 8)))) := by
  decide +kernel

def x48_0 : State := (asks loaded (.fm 0) (reqPort 47 5 (some ((254 : BitVec 8).setWidth 32)))).mapPort 47 (fun p => {p with st := .active})
theorem witness_DirectCommandsSetBothSets_4_3 :
    Rules.running x48_0 (Source.fm 0) (reqPort 47 5 (some (BitVec.setWidth 32 (254 : BitVec 8)))) := by
  decide +kernel

def x49_0 : State := (asks loaded (.fm 0) (reqPort 47 6 none)).mapPort 47 (fun p => {p with st := .active})
theorem witness_DirectCommandsSetBothSets_4_4 :
    Rules.running x49_0 (Source.fm 0) (reqPort 47 6 none) := by
  decide +kernel

def x50_0 : State := (asks loaded (.fm 0) (reqPort 47 4 (some (BitVec.ofNat 32 ((7 : Fin 8).val * 256 + (7 : BitVec 3).toNat))))).mapPort 47 (fun p => {p with st := .active})
theorem witness_DirectCommandsSetBothSets_4_5 :
    Rules.running x50_0 (Source.fm 0) (reqPort 47 4 (some (BitVec.ofNat 32 (7 * 256 + 7)))) := by
  decide +kernel

def x51_0 : State := (asks loaded (.fm 0) (reqPort 47 2 none)).mapPort 47 (fun p => {p with st := .active})
theorem witness_DirectCommandsSetBothSets_4_6 :
    Rules.running x51_0 (Source.fm 0) (reqPort 47 2 none) ∧
    (x51_0.port 47).st = PortState.active := by
  decide +kernel

def x52_0 : State := asks logged h0 (reqErrLog 1 63 1 false)
theorem witness_ReportsReturnWhatTheBlockHolds_6 :
    63 ≠ 0 := by
  decide +kernel

def x53_0 : State := asks logged h0 (reqErrLog 1 1 1 true)
theorem witness_ReportsReturnWhatTheBlockHolds_6_b :
    1 ≠ 0 := by
  decide +kernel

end PartQ

/-! ### Jobs, capture and fettling -/

namespace PartR

def img1 : List Byte := leBytes 4 0x494A574B ++ leBytes 4 3 ++ leBytes 4 2 ++ leBytes 4 0 ++
  wordBytes [1, 0x30, 8, 0] ++ wordBytes [2, 0x38, 16, 1] ++ [1,2,3,4,5,6,7,8] ++ wordBytes [0x10007, 0x200, 0, 0]
def req1 : JobLoadReq :=
  { capture := true, debug := true, loadPhases := false, ownmask := 0, ncores := 1, minspm := 0, codesize := 0x10000, codebase := 0x40000000, wins := [{ base := 0x50000000, limit := 0x51000000, write := true, host := true, link := false }], image := img1 }
def jlr (r : JobLoadReq) : State := asks up h0 (reqJobLoad r)
def jl : State := jlr req1
def jlT : State := match jl.applyLedger with | .ok t => t | .error _ => jl
def taken (s : State) : Bool := match s.applyLedger with | .ok t => t.mp.noRisers.isEmpty | .error _ => false
theorem jlT_eq (h : taken jl = true) : jl.applyLedger = .ok jlT := by
  unfold jlT
  unfold taken at h
  cases e : jl.applyLedger with
  | ok t => rfl
  | error x => rw [e] at h; cases h
theorem ok_some {s : State} (h : taken s = true) : ∃ t, s.applyLedger = .ok t ∧ t.mp.noRisers = [] := by
  unfold taken at h
  cases e : s.applyLedger with
  | ok t => rw [e] at h; exact ⟨t, rfl, List.isEmpty_iff.mp h⟩
  | error x => rw [e] at h; cases h
def jlI : JobImage := match jobImage jl req1 1 with | .ok t => t | .error _ => JobImage.empty
theorem witness_JobsLoadStartAndReport_0 :
    Rules.due jl h0 (reqJobLoad req1) ∧
    jl.sec.fuses.lc = 2 ∧
    jl.sec.fuses.decom = 0 ∧
    jl.mp.fettles = [] ∧
    (jl.job 0).st = JobState.none ∧
    (∀ k < 0, (jl.job k).st ≠ JobState.none) ∧
    jl.mp.noRisers = [] ∧
    jl.mapsQuiet = true ∧
    jl.applyLedger = Except.ok jlT ∧
    jlT.mp.noRisers = [] ∧
    jl.requestFail req1 = none ∧
    jobImage jl req1 (0 + 1) = Except.ok jlI ∧
    jl.regionFail req1 = none := by
  exact ⟨by decide +kernel, by decide +kernel, by decide +kernel, by decide +kernel, by decide +kernel, by decide +kernel, by decide +kernel, by decide +kernel, jlT_eq (by decide +kernel), by decide +kernel, by decide +kernel, rfl, by decide +kernel⟩

def x27_0 : State := mapsec jl (fun x => {x with fuses := {x.fuses with lc := 3}})
theorem witness_JobsLoadStartAndReport_1_0 :
    Rules.due x27_0 h0 (reqJobLoad req1) ∧
    x27_0.sec.fuses.lc ≠ 2 := by
  decide +kernel

def x28_0 : State := jl.addFettle {scope := .hbm, src := none}
theorem witness_JobsLoadStartAndReport_1_1_0 :
    Rules.due x28_0 h0 (reqJobLoad req1) ∧
    (x28_0.sec.fuses.lc = 2 ∧ x28_0.sec.fuses.decom = 0) ∧
    x28_0.mp.fettles ≠ [] := by
  decide +kernel

def jl8 : State := {jl with mp := {jl.mp with jobs := Vector.replicate 8 job1}}
theorem witness_JobsLoadStartAndReport_1_1_1_0 :
    Rules.due jl8 h0 (reqJobLoad req1) ∧
    (jl8.sec.fuses.lc = 2 ∧ jl8.sec.fuses.decom = 0) ∧
    jl8.mp.fettles = [] ∧
    (∀ (j : Fin 8), (jl8.job j).st ≠ JobState.none) := by
  decide +kernel

def x31_0 : State := {jl with mp := {jl.mp with noRisers := [3]}}
theorem witness_JobsLoadStartAndReport_1_1_1_1 :
    Rules.due x31_0 h0 (reqJobLoad req1) ∧
    (x31_0.sec.fuses.lc = 2 ∧ x31_0.sec.fuses.decom = 0) ∧
    x31_0.mp.fettles = [] ∧
    ((∃ j, (x31_0.job j).st = JobState.none) ∧ x31_0.mp.noRisers ≠ []) := by
  decide +kernel

def x32_0 : JobLoadReq := {req1 with ncores := 8193}
def x32_1 : State := jlr {req1 with ncores := 8193}
theorem witness_JobsLoadStartAndReport_1_1_1_4_0 :
    Rules.due x32_1 h0 (reqJobLoad x32_0) ∧
    (x32_1.sec.fuses.lc = 2 ∧ x32_1.sec.fuses.decom = 0) ∧
    x32_1.mp.fettles = [] ∧
    ((∃ j, (x32_1.job j).st = JobState.none) ∧ x32_1.mp.noRisers = [] ∧ x32_1.mapsQuiet = true ∧ ∃ t, x32_1.applyLedger = Except.ok t ∧ t.mp.noRisers = []) ∧
    32 * perDie x32_1.ident.code < BitVec.toNat x32_0.ncores := by
  exact ⟨by decide +kernel, by decide +kernel, by decide +kernel, ⟨by decide +kernel, by decide +kernel, by decide +kernel, ok_some (by decide +kernel)⟩, by decide +kernel⟩

def x33_0 : JobLoadReq := {req1 with minspm := 0x300001}
def x33_1 : State := jlr {req1 with minspm := 0x300001}
theorem witness_JobsLoadStartAndReport_1_1_1_4_1_0 :
    Rules.due x33_1 h0 (reqJobLoad x33_0) ∧
    (x33_1.sec.fuses.lc = 2 ∧ x33_1.sec.fuses.decom = 0) ∧
    x33_1.mp.fettles = [] ∧
    ((∃ j, (x33_1.job j).st = JobState.none) ∧ x33_1.mp.noRisers = [] ∧ x33_1.mapsQuiet = true ∧ ∃ t, x33_1.applyLedger = Except.ok t ∧ t.mp.noRisers = []) ∧
    BitVec.toNat x33_0.ncores ≤ 32 * perDie x33_1.ident.code ∧
    spmBytes x33_1.ident.code < BitVec.toNat x33_0.minspm := by
  exact ⟨by decide +kernel, by decide +kernel, by decide +kernel, ⟨by decide +kernel, by decide +kernel, by decide +kernel, ok_some (by decide +kernel)⟩, by decide +kernel, by decide +kernel⟩

def x34_0 : JobLoadReq := {req1 with codesize := 0x10001}
def x34_1 : State := jlr {req1 with codesize := 0x10001}
theorem witness_JobsLoadStartAndReport_1_1_1_4_1_1 :
    Rules.due x34_1 h0 (reqJobLoad x34_0) ∧
    (x34_1.sec.fuses.lc = 2 ∧ x34_1.sec.fuses.decom = 0) ∧
    x34_1.mp.fettles = [] ∧
    ((∃ j, (x34_1.job j).st = JobState.none) ∧ x34_1.mp.noRisers = [] ∧ x34_1.mapsQuiet = true ∧ ∃ t, x34_1.applyLedger = Except.ok t ∧ t.mp.noRisers = []) ∧
    BitVec.toNat x34_0.ncores ≤ 32 * perDie x34_1.ident.code ∧
    (BitVec.toNat x34_0.minspm ≤ spmBytes x34_1.ident.code ∧ BitVec.toNat x34_0.codesize % 65536 ≠ 0) := by
  exact ⟨by decide +kernel, by decide +kernel, by decide +kernel, ⟨by decide +kernel, by decide +kernel, by decide +kernel, ok_some (by decide +kernel)⟩, by decide +kernel, by decide +kernel⟩

def fit (s : State) : State := s.setCore 5 { s.core 5 with ve := { (s.core 5).ve with restr := false } }
def x36_0 : State := fit (asks loaded h0 (reqJobStart 1 false))
theorem witness_JobsLoadStartAndReport_2 :
    Rules.running x36_0 h0 (reqJobStart 1 false) ∧
    x36_0.jobNamed 1 = some 0 ∧
    (x36_0.job 0).st = JobState.loaded ∧
    (∀ x ∈ (x36_0.job 0).cores, (x36_0.core x.1).ve.restr = false) ∧
    (x36_0.job 0).cores ≠ [] := by
  exact ⟨by decide +kernel, by decide +kernel, by decide +kernel, forall_mem_of_all _ (by decide +kernel), by decide +kernel⟩

def x37_0 : State := fit (asks (withJob1 up {job1 with st := .faulted, resumable := some 9}) h0 (reqJobStart 1 true))
theorem witness_JobsLoadStartAndReport_3 :
    Rules.running x37_0 h0 (reqJobStart 1 true) ∧
    x37_0.jobNamed 1 = some 0 ∧
    x37_0.power.shutdown = false ∧
    ((x37_0.job 0).st = JobState.faulted ∨ (x37_0.job 0).st = JobState.running) ∧
    (x37_0.job 0).resumable = some 9 ∧
    (∀ x ∈ (x37_0.job 0).cores, (x37_0.core x.1).ve.restr = false) ∧
    (x37_0.job 0).cores ≠ [] := by
  exact ⟨by decide +kernel, by decide +kernel, by decide +kernel, by decide +kernel, by decide +kernel, forall_mem_of_all _ (by decide +kernel), by decide +kernel⟩

def x38_0 : State := asks loaded h0 (reqJobStart 1 true)
theorem witness_JobsLoadStartAndReport_4_0 :
    x38_0.jobNamed 1 = some 0 ∧
    Rules.running x38_0 h0 (reqJobStart 1 true) ∧
    (x38_0.job 0).resumable = none := by
  decide +kernel

def x39_0 : State := asks loaded h0 (reqJobStatus 8)
theorem witness_JobsLoadStartAndReport_5 :
    Rules.running x39_0 h0 (reqJobStatus 8) ∧
    8 = 7 + 1 := by
  decide +kernel

def x40_0 : State := asks loaded h0 (reqJobStatus 1)
theorem witness_JobsLoadStartAndReport_5_b :
    Rules.running x40_0 h0 (reqJobStatus 1) ∧
    1 = 0 + 1 := by
  decide +kernel

def run1 : Job := {job1 with st := .running}
def busyc (s : State) : State := s.setCore 5 { s.core 5 with released := true, dbg := {(s.core 5).dbg with attached := true, tren := true}, spm := (s.core 5).spm.write 8 [1,2,3] }
def x43_0 : State := busyc (asks (withJob1 up run1) h0 (reqJobKill 1))
theorem witness_KilledJobsAreQuarantinedCapturedAndFettled_0_0 :
    Rules.running x43_0 h0 (reqJobKill 1) ∧
    x43_0.jobNamed 1 = some 0 ∧
    (x43_0.job 0).st ≠ JobState.killed := by
  decide +kernel

def x44_0 : State := asks (withJob1 up {run1 with st := .killed, inForce := some 77}) h0 (reqJobKill 1)
theorem witness_KilledJobsAreQuarantinedCapturedAndFettled_0_1 :
    Rules.running x44_0 h0 (reqJobKill 1) ∧
    x44_0.jobNamed 1 = some 0 ∧
    ((x44_0.job 0).st = JobState.killed ∧ (x44_0.job 0).inForce = some 77) := by
  decide +kernel

def kil : Job := {run1 with st := .killed, killSeq := 7}
def x46_0 : State := asks (withJob1 up kil) h0 (reqJobKill 1)
theorem witness_KilledJobsAreQuarantinedCapturedAndFettled_1_1 :
    (x46_0.job 0).st = JobState.killed ∧
    (x46_0.job 0).inForce = none ∧
    (∀ x ∈ (x46_0.job 0).cores, (x46_0.core x.1).quiet = true) := by
  exact ⟨by decide +kernel, by decide +kernel, forall_mem_of_all _ (by decide +kernel)⟩

def x47_0 : State := let s := asks (withJob1 up kil) h0 (reqJobKill 1); s.setCore 5 {s.core 5 with de := {(s.core 5).de with q := (s.core 5).de.q.map (fun d => {d with descs := [seCore.readDesc 0 0 0]})}}
theorem witness_KilledJobsAreQuarantinedCapturedAndFettled_1_0 :
    (x47_0.job 0).st = JobState.killed ∧
    (x47_0.job 0).inForce = none ∧
    (∃ x ∈ (x47_0.job 0).cores, (x47_0.core x.1).quiet = false) := by
  decide +kernel

def capJ : Job := { kil with capture := true, inForce := some 5, wins := [{ base := 0x50000000, limit := 0x51000000, write := true, host := true, link := false }] }
def x49_0 : WindowReq := { base := 0x50000000, limit := 0x51000000, write := true, host := true, link := false }
def x49_1 : Bool × Word := (false, 0x100)
def x49_2 : State := busyc (withJob1 up capJ)
theorem witness_KilledJobsAreQuarantinedCapturedAndFettled_2 :
    (x49_2.job 0).st = JobState.killed ∧
    (x49_2.job 0).inForce ≠ none ∧
    (x49_2.job 0).capture = true ∧
    (x49_2.job 0).captured = false ∧
    (x49_2.job 0).wins.getLast? = some x49_0 ∧
    (x49_2.job 0).cores = [(5, x49_1)] := by
  decide +kernel

def x50_0 : State := asks up h0 (reqFettle 0 (some 1))
theorem witness_KilledJobsAreQuarantinedCapturedAndFettled_3_0 :
    Rules.running x50_0 h0 (reqFettle 0 (some 1)) ∧
    x50_0.jobNamed 1 = none := by
  decide +kernel

def x51_0 : State := asks loaded h0 (reqFettle 0 (some 1))
theorem witness_KilledJobsAreQuarantinedCapturedAndFettled_3_1_0 :
    Rules.running x51_0 h0 (reqFettle 0 (some 1)) ∧
    x51_0.jobNamed 1 = some 0 ∧
    (x51_0.job 0).st ≠ JobState.killed := by
  decide +kernel

def x52_0 : State := asks (withJob1 up kil) .bmc (reqFettle 0 (some 1))
theorem witness_KilledJobsAreQuarantinedCapturedAndFettled_3_1_1_0 :
    Rules.running x52_0 Source.bmc (reqFettle 0 (some 1)) ∧
    x52_0.jobNamed 1 = some 0 ∧
    ((x52_0.job 0).st = JobState.killed ∧ (x52_0.job 0).hold = false ∧ x52_0.mp.fettles = []) ∧
    (Source.bmc = Source.bmc ∨ ∃ n, Source.bmc = Source.host n ∧ (x52_0.job 0).owners.getLsbD ↑n = true) := by
  decide +kernel

def x53_0 : State := asks (withJob1 up kil) (.host 1) (reqFettle 0 (some 1))
theorem witness_KilledJobsAreQuarantinedCapturedAndFettled_3_1_1_1 :
    Rules.running x53_0 (Source.host 1) (reqFettle 0 (some 1)) ∧
    x53_0.jobNamed 1 = some 0 ∧
    ((x53_0.job 0).st = JobState.killed ∧ (x53_0.job 0).hold = false ∧ x53_0.mp.fettles = []) ∧
    Source.host 1 = Source.host 1 ∧
    (x53_0.job 0).owners.getLsbD 1 = false := by
  decide +kernel

def x54_0 : State := asks up .bmc (reqFettle 1 none)
theorem witness_KilledJobsAreQuarantinedCapturedAndFettled_4_0_0 :
    Rules.running x54_0 Source.bmc (reqFettle 1 none) ∧
    x54_0.anyJob = false := by
  decide +kernel

def x55_0 : State := asks loaded .bmc (reqFettle 1 none)
theorem witness_KilledJobsAreQuarantinedCapturedAndFettled_4_0_1 :
    Rules.running x55_0 Source.bmc (reqFettle 1 none) ∧
    (∃ j, (x55_0.job j).st ≠ JobState.none ∧ (x55_0.job j).hold = false) := by
  decide +kernel

def full (s : State) : State := s.hbmPut 0x50000000 (.clean [1,2,3,4])
def fw (j : Job) (f : FettleRun) : State := let s := busyc (full (withJob1 up j)); {s with mp := {s.mp with fettles := [f]}}
def x58_0 : List CorePos := []
def x58_1 : List FettleRun := []
def x58_2 : State := fw {kil with wins := [{ base := 0x50000000, limit := 0x50001000, write := true, host := true, link := false }]} {scope := .job 0, src := none}
theorem witness_KilledJobsAreQuarantinedCapturedAndFettled_5_0 :
    x58_2.mp.fettles = { scope := FettleScope.job 0, src := none } :: x58_1 ∧
    (x58_2.job 0).st = JobState.killed ∧
    (x58_2.job 0).capture = false ∧
    (x58_2.job 0).inForce = none := by
  decide +kernel

def x59_0 : List CorePos := []
def x59_1 : List FettleRun := []
def x59_2 : State := fw {kil with inForce := some 4, codeSize := 16, wins := [{ base := 0x50000000, limit := 0x50001000, write := true, host := true, link := false }]} {scope := .job 0, src := none}
theorem witness_KilledJobsAreQuarantinedCapturedAndFettled_5_1 :
    x59_2.mp.fettles = { scope := FettleScope.job 0, src := none } :: x59_1 ∧
    (x59_2.job 0).st = JobState.killed ∧
    (x59_2.job 0).capture = false ∧
    (x59_2.job 0).inForce ≠ none := by
  decide +kernel

def fw2 (sc : FettleScope) : State := let s := asks (busyc (full up)) .bmc (reqFettle (if sc = .hbm then 1 else 2) none); {s with mp := {s.mp with fettles := [{scope := sc, src := some .bmc}]}}
def x61_0 : List CorePos := [⟨31,0,15⟩]
def x61_1 : List FettleRun := []
def x61_2 : State := fw2 .hbm
theorem witness_KilledJobsAreQuarantinedCapturedAndFettled_7_0 :
    (x61_2.box Source.bmc).st = MbState.running ∧
    x61_2.mp.fettles = { scope := FettleScope.hbm, src := some Source.bmc } :: x61_1 := by
  decide +kernel

def x62_0 : List CorePos := [⟨31,0,15⟩]
def x62_1 : List FettleRun := []
def x62_2 : State := fw2 .whole
theorem witness_KilledJobsAreQuarantinedCapturedAndFettled_7_1 :
    (x62_2.box Source.bmc).st = MbState.running ∧
    x62_2.mp.fettles = { scope := FettleScope.whole, src := some Source.bmc } :: x62_1 := by
  decide +kernel

def moving : State := ({jl with mp := {jl.mp with retiredCores := [0]}}).setCore 7 {Core.reset with spm := {Core.reset.spm with remote := [⟨9, .xst 1, 6, 0x1000, .write ⟨[1],[]⟩, none, 0, .leaving, false, false⟩]}}
theorem witness_JobsLoadStartAndReport_1_1_1_2 :
    Rules.due moving h0 (reqJobLoad req1) ∧
    (moving.sec.fuses.lc = 2 ∧ moving.sec.fuses.decom = 0) ∧
    moving.mp.fettles = [] ∧
    ((∃ j, (moving.job j).st = JobState.none) ∧ moving.mp.noRisers = [] ∧ moving.mapsQuiet = false) := by
  decide +kernel

def x67_0 : List CorePos := [⟨0, 0, 5⟩]
def x67_1 : List FettleRun := []
def x67_2 : State := fw {kil with inForce := some 4, codeSize := 16, wins := [{ base := 0x50000000, limit := 0x50001000, write := true, host := true, link := false }]} {scope := .job 0, src := none}
theorem witness_KilledJobsAreQuarantinedCapturedAndFettled_5_1_b :
    x67_2.mp.fettles = { scope := FettleScope.job 0, src := none } :: x67_1 ∧
    (x67_2.job 0).st = JobState.killed ∧
    (x67_2.job 0).capture = false ∧
    (x67_2.job 0).inForce ≠ none := by
  decide +kernel

def x68_0 : State := asks up .bmc (reqFettle 2 none)
theorem witness_KilledJobsAreQuarantinedCapturedAndFettled_4_1_0 :
    Rules.running x68_0 Source.bmc (reqFettle 2 none) ∧
    x68_0.anyJob = false := by
  decide +kernel

def x69_0 : State := asks loaded .bmc (reqFettle 2 none)
theorem witness_KilledJobsAreQuarantinedCapturedAndFettled_4_1_1 :
    Rules.running x69_0 Source.bmc (reqFettle 2 none) ∧
    (∃ j, (x69_0.job j).st ≠ JobState.none ∧ (x69_0.job j).hold = false) := by
  decide +kernel

def x70_0 : WindowReq := { base := 0x50000000, limit := 0x51000000, write := true, host := true, link := false }
def x70_1 : List FettleRun := []
def x70_2 : State := (busyc (withJob1 up {capJ with captured := true})) |> fun s => {s with mp := {s.mp with fettles := [{scope := .job 0, src := none}]}}
theorem witness_KilledJobsAreQuarantinedCapturedAndFettled_6 :
    x70_2.mp.fettles = { scope := FettleScope.job 0, src := none } :: x70_1 ∧
    (x70_2.job 0).st = JobState.killed ∧
    (x70_2.job 0).inForce ≠ none ∧
    (x70_2.job 0).capture = true ∧
    (x70_2.job 0).captured = true ∧
    (x70_2.job 0).wins.getLast? = some x70_0 := by
  decide +kernel

def x71_0 : State := asks (withJob1 up run1) h0 (reqJobStart 1 false)
theorem witness_JobsLoadStartAndReport_4_1 :
    x71_0.jobNamed 1 = some 0 ∧
    Rules.running x71_0 h0 (reqJobStart 1 false) ∧
    (x71_0.job 0).st ≠ JobState.loaded := by
  decide +kernel

def x72_0 : State := (asks loaded h0 (reqJobStart 1 false)).setCore 5 {(loaded.core 5) with ve := {(loaded.core 5).ve with restr := true}}
theorem witness_JobsLoadStartAndReport_4_2 :
    x72_0.jobNamed 1 = some 0 ∧
    Rules.running x72_0 h0 (reqJobStart 1 false) ∧
    (x72_0.job 0).st = JobState.loaded ∧
    (∃ x ∈ (x72_0.job 0).cores, (x72_0.core x.1).ve.restr = true) := by
  decide +kernel

def x73_0 : State := {jl with mp := {jl.mp with retiredCores := List.range 17}}
theorem witness_JobsLoadStartAndReport_1_1_1_3 :
    Rules.due x73_0 h0 (reqJobLoad req1) ∧
    (x73_0.sec.fuses.lc = 2 ∧ x73_0.sec.fuses.decom = 0) ∧
    x73_0.mp.fettles = [] ∧
    ((∃ j, (x73_0.job j).st = JobState.none) ∧ x73_0.mp.noRisers = [] ∧ x73_0.mapsQuiet = true ∧ x73_0.applyLedger = Except.error 16) := by
  exact ⟨by decide +kernel, by decide +kernel, by decide +kernel, ⟨by decide +kernel, by decide +kernel, by decide +kernel, is_error (by decide +kernel)⟩⟩

end PartR

/-! ### Flasks and pour policies -/

namespace PartS

def fbr (p : ModuleId) (k : Bool) (c u : Word) : State := asks up h0 (reqFlaskBind p k c u)
def fb : State := fbr 9 false 100 50
def fbP : Nat × Nat × Nat := (fb.placeAreas (100 * 65536) (50 * 65536)).getD (0,0,0)
def x6_0 : ℕ := fbP.1
def x6_1 : ℕ := fbP.2.1
def x6_2 : ℕ := fbP.2.2
theorem witness_FlasksBindAdoptAndReport_0_0 :
    Rules.due fb h0 (reqFlaskBind 9 false 100 50) ∧
    fb.active.bind.en = false ∧
    9 ≠ fb.self ∧
    regionBytes fb.flask.regions ≤ 100 * 65536 ∧
    100 ≤ 480 * 16384 ∧
    50 ≤ 100 ∧
    fb.placeAreas (100 * 65536) (50 * 65536) = some (x6_0, x6_1, x6_2) := by
  decide +kernel

def x7_0 : ℕ := fbP.1
def x7_1 : ℕ := fbP.2.1
def x7_2 : ℕ := fbP.2.2
theorem witness_FlasksBindAdoptAndReport_0_1 :
    Rules.due fb h0 (reqFlaskBind 9 false 100 50) ∧
    fb.active.bind.en = false ∧
    9 ≠ fb.self ∧
    regionBytes fb.flask.regions ≤ 100 * 65536 ∧
    100 ≤ 480 * 16384 ∧
    50 ≤ 100 ∧
    fb.placeAreas (100 * 65536) (50 * 65536) = some (x7_0, x7_1, x7_2) := by
  decide +kernel

def x8_0 : ℕ := fbP.1
def x8_1 : ℕ := fbP.2.1
def x8_2 : ℕ := fbP.2.2
theorem witness_FlasksBindAdoptAndReport_0_2 :
    Rules.due fb h0 (reqFlaskBind 9 false 100 50) ∧
    fb.active.bind.en = false ∧
    9 ≠ fb.self ∧
    regionBytes fb.flask.regions ≤ 100 * 65536 ∧
    100 ≤ 480 * 16384 ∧
    50 ≤ 100 ∧
    fb.placeAreas (100 * 65536) (50 * 65536) = some (x8_0, x8_1, x8_2) := by
  decide +kernel

def x9_0 : PeerBind := .waiting
def x9_1 : State := fbr 0 false 100 50
theorem witness_FlasksBindAdoptAndReport_1_0 :
    Rules.due x9_1 h0 (reqFlaskBind 0 false 100 50) ∧
    0 = x9_1.self := by
  decide +kernel

def x10_0 : PeerBind := .waiting
def x10_1 : State := fbr 9 false 7864321 50
theorem witness_FlasksBindAdoptAndReport_1_1 :
    Rules.due x10_1 h0 (reqFlaskBind 9 false 7864321 50) ∧
    (9 ≠ x10_1.self ∧ 480 * 16384 < 7864321) := by
  decide +kernel

def x11_0 : PeerBind := .waiting
def x11_1 : State := fbr 9 false 7864320 7864321
theorem witness_FlasksBindAdoptAndReport_1_2 :
    Rules.due x11_1 h0 (reqFlaskBind 9 false 7864320 7864321) ∧
    (9 ≠ x11_1.self ∧ 7864320 ≤ 480 * 16384 ∧ 7864320 < 7864321) := by
  decide +kernel

def x12_0 : State := own (bound (fbr 10 true 100 50))
theorem witness_FlasksBindAdoptAndReport_2 :
    Rules.due x12_0 h0 (reqFlaskBind 10 true 100 50) ∧
    x12_0.active.bind.en = true ∧
    10 ≠ x12_0.self ∧
    regionBytes x12_0.flask.regions ≤ 100 * 65536 ∧
    10 ≠ x12_0.active.bind.partner ∧
    100 ≤ 480 * 16384 ∧
    50 ≤ 100 ∧
    x12_0.active.bind.cap.toNat = 100 ∧
    x12_0.active.bind.undo.toNat = 50 := by
  decide +kernel

def x13_0 : State := own (bound (asks loaded h0 reqFlaskUnbind))
theorem witness_FlasksBindAdoptAndReport_3_0 :
    Rules.running x13_0 h0 reqFlaskUnbind ∧
    (x13_0.flask.job ≠ none ∧ x13_0.flask.shares ≠ 0) := by
  decide +kernel

def x14_0 : State := (bound (asks loaded h0 reqFlaskUnbind))
theorem witness_FlasksBindAdoptAndReport_3_1 :
    Rules.running x14_0 h0 reqFlaskUnbind ∧
    x14_0.flask.job = none := by
  decide +kernel

def spare : State := own (((asks loaded h0 (reqAdopt 1 8 9 4)).mapPort 3 (fun p => {p with st := .active, peer := some (9, 2)}))) |> fun s => {s with active := {s.active with route := {s.active.route with roles := s.active.route.roles.set 3 (0x40000000)}}}
def x18_0 : OrderingCode := .a2
theorem witness_FlasksBindAdoptAndReport_4_0 :
    Rules.running spare h0 (reqAdopt 1 8 9 4) ∧
    spare.jobNamed 1 = some 0 ∧
    (x18_0 ≠ spare.ident.code ∨ spare.active.bind.en = true ∨ spare.localTo 9 = false) := by
  decide +kernel

def x19_0 : OrderingCode := .s3
theorem witness_FlasksBindAdoptAndReport_4_1 :
    Rules.running spare h0 (reqAdopt 1 8 9 4) ∧
    spare.jobNamed 1 = some 0 ∧
    (x19_0 = spare.ident.code ∧ spare.active.bind.en = false ∧ spare.localTo 9 = true ∧ (spare.job 0).st = JobState.loaded ∧ spare.flask.job = some (0 + 1) ∧ (∀ (k : Fin 8), k ≠ 0 → (spare.job k).st = JobState.none) ∧ spare.flask.shares ≠ 0) := by
  decide +kernel

def x20_0 : State := own (bound (asks loaded h0 reqMirrorStatus))
theorem witness_FlasksBindAdoptAndReport_5 :
    Rules.running x20_0 h0 reqMirrorStatus := by
  decide +kernel

def ppr (q : Request) : State := bound (asks (withJob1 up wj) h0 q)
def pp : State := ppr (reqPourQuery 1)
def decl2 : PourDecl := {decl1 with saveArea := ⟨0x50000000, 0x50100000⟩}
def x26_0 : State := ppr (reqPourDeclare 1 decl2)
theorem witness_PoursAreDeclaredAskedForAndRolledBack_0_0 :
    Rules.running x26_0 h0 (reqPourDeclare 1 decl2) ∧
    x26_0.jobNamed 1 = some 0 ∧
    x26_0.declFail 0 decl2 = none := by
  decide +kernel

def x27_0 : State := fl (ppr (reqPourDeclare 1 decl2)) (fun f => {f with job := some 2})
theorem witness_PoursAreDeclaredAskedForAndRolledBack_0_1 :
    Rules.running x27_0 h0 (reqPourDeclare 1 decl2) ∧
    x27_0.jobNamed 1 = some 0 ∧
    x27_0.flask.job = some 2 ∧
    2 ≠ 0 + 1 := by
  decide +kernel

def decl3 : PourDecl := {decl2 with regions := List.replicate 17 ⟨0,0⟩}
def x29_0 : State := ppr (reqPourDeclare 1 decl3)
theorem witness_PoursAreDeclaredAskedForAndRolledBack_0_2 :
    Rules.running x29_0 h0 (reqPourDeclare 1 decl3) ∧
    x29_0.jobNamed 1 = some 0 ∧
    x29_0.flask.job = none ∧
    (x29_0.job 0).st ≠ JobState.killed ∧
    16 < decl3.regions.length := by
  decide +kernel

def x30_0 : State := fl (own pp) (fun f => {f with remap := [5]})
theorem witness_PoursAreDeclaredAskedForAndRolledBack_1 :
    Rules.running x30_0 h0 (reqPourQuery 1) ∧
    x30_0.jobNamed 1 = some 0 ∧
    x30_0.flask.job = some (0 + 1) ∧
    x30_0.flask.decl = some decl1 := by
  decide +kernel

def cand (l : List Word) : State := own (ppr (reqRemap 1 l)) |> fun s => {s with mp := {s.mp with retiredCores := [5]}}
def x32_0 : State := cand []
theorem witness_PoursAreDeclaredAskedForAndRolledBack_2_0 :
    x32_0.jobNamed 1 = some 0 ∧
    x32_0.flask.job = some (0 + 1) ∧
    Rules.running x32_0 h0 (reqRemap 1 []) := by
  decide +kernel

def x33_0 : State := cand [5]
theorem witness_PoursAreDeclaredAskedForAndRolledBack_2_1_0 :
    x33_0.jobNamed 1 = some 0 ∧
    x33_0.flask.job = some (0 + 1) ∧
    Rules.running x33_0 h0 (reqRemap 1 [BitVec.setWidth 32 (5 : BitVec 13)]) ∧
    (((x33_0.job 0).cores.any fun y => y.1 == 5) = true) ∧
    x33_0.recorded 5 = true := by
  decide +kernel

def x34_0 : State := own (ppr (reqRemap 1 [5]))
theorem witness_PoursAreDeclaredAskedForAndRolledBack_2_1_1 :
    x34_0.jobNamed 1 = some 0 ∧
    x34_0.flask.job = some (0 + 1) ∧
    Rules.running x34_0 h0 (reqRemap 1 [BitVec.setWidth 32 (5 : BitVec 13)]) ∧
    (((x34_0.job 0).cores.any fun y => y.1 == 5) = true) ∧
    x34_0.recorded 5 = false := by
  decide +kernel

def x35_0 : State := own (ppr (reqRemap 1 (List.replicate 17 5)))
def x35_1 : List (BitVec 32) := List.replicate 17 5
theorem witness_PoursAreDeclaredAskedForAndRolledBack_2_2 :
    x35_0.jobNamed 1 = some 0 ∧
    x35_0.flask.job = some (0 + 1) ∧
    Rules.running x35_0 h0 (reqRemap 1 x35_1) ∧
    16 < x35_1.length := by
  decide +kernel

def x36_0 : State := ppr (reqPourNow 1)
theorem witness_PoursAreDeclaredAskedForAndRolledBack_3_0 :
    Rules.running x36_0 h0 (reqPourNow 1) ∧
    x36_0.jobNamed 1 = some 0 ∧
    x36_0.flask.decl = none := by
  decide +kernel

def x37_0 : State := own (ppr (reqPourNow 1))
theorem witness_PoursAreDeclaredAskedForAndRolledBack_3_1 :
    Rules.running x37_0 h0 (reqPourNow 1) ∧
    x37_0.jobNamed 1 = some 0 ∧
    x37_0.flask.decl = some decl1 ∧
    x37_0.flask.job = some (0 + 1) := by
  decide +kernel

def rb0 : State := own (asks (withJob1 up {wj with st := .running}) h0 (reqRollback 1))
def x39_0 : List Word := [7]
def x39_1 : State := fl rb0 (fun f => {f with prot := 1})
theorem witness_PoursAreDeclaredAskedForAndRolledBack_4 :
    Rules.running x39_1 h0 (reqRollback 1) ∧
    x39_1.jobNamed 1 = some 0 ∧
    x39_1.flask.job = some (0 + 1) ∧
    (x39_1.flask.prot = 1 ∨ x39_1.flask.committed = 0 ∧ (x39_1.flask.pstate ≠ PourState.ready ∨ x39_0 = [])) ∧
    (x39_1.job 0).st = JobState.running := by
  decide +kernel

def x40_0 : List Word := []
def x40_1 : State := fl rb0 (fun f => {f with committed := 0, pstate := .ready})
theorem witness_PoursAreDeclaredAskedForAndRolledBack_4_b :
    Rules.running x40_1 h0 (reqRollback 1) ∧
    x40_1.jobNamed 1 = some 0 ∧
    x40_1.flask.job = some (0 + 1) ∧
    (x40_1.flask.prot = 1 ∨ x40_1.flask.committed = 0 ∧ (x40_1.flask.pstate ≠ PourState.ready ∨ x40_0 = [])) ∧
    (x40_1.job 0).st = JobState.running := by
  decide +kernel

def x41_0 : List Word := [5]
def x41_1 : State := fl rb0 (fun f => {f with pstate := .ready, interval := 5})
theorem witness_PoursAreDeclaredAskedForAndRolledBack_5 :
    Rules.running x41_1 h0 (reqRollback 1) ∧
    x41_1.jobNamed 1 = some 0 ∧
    (x41_1.job 0).st ≠ JobState.killed ∧
    x41_1.flask.job = some (0 + 1) ∧
    x41_1.flask.prot ≠ 1 ∧
    x41_1.flask.pstate = PourState.ready ∧
    BitVec.toNat x41_1.flask.committed + 1 < 2 ^ 32 ∧
    (∃ r ∈ x41_0, BitVec.toNat x41_1.flask.committed + 1 ≤ BitVec.toNat r) := by
  exact ⟨by decide +kernel, by decide +kernel, by decide +kernel, by decide +kernel, by decide +kernel, by decide +kernel, by decide +kernel, ⟨5, by decide +kernel, by decide +kernel⟩⟩

def x42_0 : RbCopy := ⟨3, 4, 1⟩
def x42_1 : List Word := [4]
def x42_2 : State := (fl rb0 (fun f => {f with rb := [⟨3, 4, 1⟩]})).hbmPut (slotAddr 0xB000 3 1) (.clean ((List.range 512).map (BitVec.ofNat 8)))
theorem witness_PoursAreDeclaredAskedForAndRolledBack_6 :
    Rules.running x42_2 h0 (reqRollback 1) ∧
    x42_2.jobNamed 1 = some 0 ∧
    (x42_2.job 0).st ≠ JobState.killed ∧
    x42_2.flask.job = some (0 + 1) ∧
    x42_2.flask.committed ≠ 0 ∧
    x42_2.flask.prot ≠ 1 ∧
    (x42_2.flask.pstate ≠ PourState.ready ∨ ∀ r ∈ x42_1, BitVec.toNat r ≤ BitVec.toNat x42_2.flask.committed) ∧
    x42_2.flask.commitPending = false ∧
    x42_2.flask.held = [] ∧
    x42_2.host.b2held = [] ∧
    x42_2.flask.rb = [x42_0] ∧
    x42_0.gen = BitVec.toNat x42_2.flask.committed := by
  decide +kernel

def x43_0 : State := ppr (reqRollback 3)
theorem witness_PoursAreDeclaredAskedForAndRolledBack_7 :
    Rules.running x43_0 h0 (reqRollback 3) ∧
    x43_0.jobNamed 3 = none := by
  decide +kernel

def x44_0 : PeerBind := .waiting
def x44_1 : State := fl (fbr 9 false 100 50) (fun f => {f with decl := some {decl1 with regions := [⟨0x50000000, 0x60000000⟩]}})
theorem witness_FlasksBindAdoptAndReport_1_3 :
    Rules.due x44_1 h0 (reqFlaskBind 9 false 100 50) ∧
    (9 ≠ x44_1.self ∧ 100 ≤ 480 * 16384 ∧ 50 ≤ 100 ∧ 100 * 65536 < regionBytes x44_1.flask.regions) := by
  decide +kernel

end PartS

/-! ### Ledgers and debug -/

namespace PartT

def mpset (s : State) (f : Mp → Mp) : State := {s with mp := f s.mp}
def cr (r : BitVec 5) (c : BitVec 4) (n : Bool) : State := asks up h0 (reqPosition 0x60 31 r c n)
def x5_0 : State := mpset (cr 16 15 false) (fun m => {m with passed := [272*31+271]})
theorem witness_LedgersKeepWhatIsRetired_0_0 :
    Rules.running x5_0 h0 (reqPosition 96 31 16 15 false) ∧
    16 ≤ 16 := by
  decide +kernel

def x6_0 : State := cr 17 15 false
theorem witness_LedgersKeepWhatIsRetired_0_1 :
    Rules.running x6_0 h0 (reqPosition 96 31 17 15 false) ∧
    16 < 17 := by
  decide +kernel

def x7_0 : State := cr 0 0 true
theorem witness_LedgersKeepWhatIsRetired_0_2_0 :
    Rules.running x7_0 h0 (reqPosition 96 31 0 0 true) ∧
    0 ≤ 16 ∧
    x7_0.nodeFits (31) (16 * 0 + 0) = true := by
  decide +kernel

def x8_0 : State := mpset (cr 0 0 true) (fun m => {m with retiredNodes := [272*31+1]})
theorem witness_LedgersKeepWhatIsRetired_0_2_1 :
    Rules.running x8_0 h0 (reqPosition 96 31 0 0 true) ∧
    0 ≤ 16 ∧
    x8_0.nodeFits (31) (16 * 0 + 0) = false := by
  decide +kernel

def ra : State := asks up h0 (reqPosition 0x61 0 16 15 false)
theorem witness_LedgersKeepWhatIsRetired_1_0 :
    Rules.running ra h0 (reqPosition 97 0 16 15 false) ∧
    16 ≤ 16 ∧
    nhas ra.mp.retiredCores (272 * 0 + 16 * 16 + 15) = false := by
  decide +kernel

def x11_0 : State := mpset ra (fun m => {m with retiredCores := [271]})
theorem witness_LedgersKeepWhatIsRetired_1_1_0 :
    Rules.running x11_0 h0 (reqPosition 97 0 16 15 false) ∧
    16 ≤ 16 ∧
    nhas x11_0.mp.retiredCores (272 * 0 + 16 * 16 + 15) = true ∧
    nhas x11_0.mp.passed (272 * 0 + 16 * 16 + 15) = false := by
  decide +kernel

def x12_0 : State := mpset ra (fun m => {m with retiredCores := [271], passed := [271]})
theorem witness_LedgersKeepWhatIsRetired_1_1_1 :
    Rules.running x12_0 h0 (reqPosition 97 0 16 15 false) ∧
    16 ≤ 16 ∧
    nhas x12_0.mp.retiredCores (272 * 0 + 16 * 16 + 15) = true ∧
    nhas x12_0.mp.passed (272 * 0 + 16 * 16 + 15) = true := by
  decide +kernel

def ent : RepairEntry := .scratchpad 3 16 15 2 3071
def ent2 : RepairEntry := .hbm 3 4 5 6
def rp (a : Byte) : State := asks up .bmc (reqRowEntry a ent)
def x16_0 : State := rp 1
theorem witness_LedgersKeepWhatIsRetired_2_0 :
    Rules.running x16_0 Source.bmc (reqRowEntry 1 ent) ∧
    RepairEntry.valid x16_0.ident.code ent = true := by
  decide +kernel

def x17_0 : State := rp 2
theorem witness_LedgersKeepWhatIsRetired_2_1 :
    Rules.running x17_0 Source.bmc (reqRowEntry 2 ent) ∧
    ent ∉ x17_0.mp.repairs := by
  decide +kernel

def x18_0 : State := mpset (rp 1) (fun m => {m with repairs := [ent2, ent]})
theorem witness_LedgersKeepWhatIsRetired_2_0_b :
    Rules.running x18_0 Source.bmc (reqRowEntry 1 ent) ∧
    RepairEntry.valid x18_0.ident.code ent = true := by
  decide +kernel

def x19_0 : State := mpset (rp 2) (fun m => {m with repairs := [ent2, ent]})
theorem witness_LedgersKeepWhatIsRetired_2_2 :
    Rules.running x19_0 Source.bmc (reqRowEntry 2 ent) ∧
    ent ∈ x19_0.mp.repairs := by
  decide +kernel

def x20_0 : State := mpset (asks up .bmc (reqRowList .hbm 1)) (fun m => {m with repairs := [ent2, ent, ent2]})
def x20_1 : List RepairEntry := [ent2, ent2]
theorem witness_LedgersKeepWhatIsRetired_3 :
    Rules.running x20_0 Source.bmc (reqRowList RepairTarget.hbm 1) ∧
    (List.filter (fun e => RepairEntry.on e RepairTarget.hbm) x20_0.mp.repairs = x20_1) := by
  decide +kernel

def da (s : State) (t : Word) : State := asks s .bmc (reqDiag t 0)
def x22_0 : State := da up 5
theorem witness_LedgersKeepWhatIsRetired_4_0 :
    Rules.running x22_0 Source.bmc (reqDiag 5 0) ∧
    4 < 5 := by
  decide +kernel

def x23_0 : State := da loaded 4
theorem witness_LedgersKeepWhatIsRetired_4_1 :
    Rules.running x23_0 Source.bmc (reqDiag 4 0) ∧
    x23_0.anyJob = true := by
  decide +kernel

def x24_0 : State := da up 4
theorem witness_LedgersKeepWhatIsRetired_4_2 :
    Rules.running x24_0 Source.bmc (reqDiag 4 0) ∧
    x24_0.anyJob = false := by
  decide +kernel

def dp : State := (asks up .bmc (reqDiag 3 1023)) |> fun s => {s with board := {s.board with pchRetired := some 1023}}
theorem witness_LedgersKeepWhatIsRetired_4_3 :
    Rules.running dp Source.bmc (reqDiag 3 1023) ∧
    dp.board.pchRetired = some 1023 ∧
    1023 = BitVec.setWidth 32 (1023 : BitVec 10) ∧
    dp.anyJob = false := by
  decide +kernel

def dg : State := mpset (da up 0) (fun m => {m with retiredCores := [0]})
theorem witness_LedgersKeepWhatIsRetired_4_4 :
    Rules.running dg Source.bmc (reqDiag 0 0) ∧
    diagPosition 0 = some 0 ∧
    nhas dg.mp.retiredCores 0 = true ∧
    dg.anyJob = false := by
  decide +kernel

def dj : State := withJob1 up {job1 with st := .running, debug := true}
def dh (s : State) (src : Source) (o : Nat) (id : CoreId) (att : Bool) : State := asks s src (reqDebugThreads o id 15 att)
def a3 (s : State) : State := {s with ident := {s.ident with code := .a3}}
def x32_0 : State := a3 (dh dj h0 0x90 5 true)
theorem witness_DebugReachesPermittedCores_0_3 :
    Rules.running x32_0 h0 (reqDebugThreads 144 5 15 true) ∧
    Rules.mayDebug x32_0 h0 5 := by
  decide +kernel

def x33_0 : State := a3 (dh dj h0 0x90 255 true)
theorem witness_DebugReachesPermittedCores_0_0 :
    Rules.running x33_0 h0 (reqDebugThreads 144 255 15 true) ∧
    x33_0.assigned 255 = false := by
  decide +kernel

def x34_0 : State := dh dj h0 0x90 6 true
theorem witness_DebugReachesPermittedCores_0_1 :
    Rules.running x34_0 h0 (reqDebugThreads 144 6 15 true) ∧
    (x34_0.assigned 6 = true ∧ x34_0.jobOf 6 = none) := by
  decide +kernel

def x35_0 : State := dh dj (.host 1) 0x90 5 true
theorem witness_DebugReachesPermittedCores_0_2_0 :
    Rules.running x35_0 (Source.host 1) (reqDebugThreads 144 5 15 true) ∧
    x35_0.assigned 5 = true ∧
    x35_0.jobOf 5 = some 0 ∧
    Source.host 1 = Source.host 1 ∧
    (x35_0.job 0).owners.getLsbD 1 = false := by
  decide +kernel

def x36_0 : State := dh loaded .bmc 0x90 5 true
theorem witness_DebugReachesPermittedCores_0_2_1 :
    Rules.running x36_0 Source.bmc (reqDebugThreads 144 5 15 true) ∧
    x36_0.assigned 5 = true ∧
    x36_0.jobOf 5 = some 0 ∧
    Source.bmc = Source.bmc ∧
    (x36_0.job 0).debug = false ∧
    x36_0.sec.level = 0 := by
  decide +kernel

def rl (s : State) : State := s.setCore 5 {s.core 5 with released := true, dbg := {(s.core 5).dbg with attached := true, tren := true, trlimit := 64, trsel := 127}}
def ha (s : State) : State := s.setCore 5 ((s.core 5).mapTh 0 (fun h => {h with st := .halted}))
def x39_0 : State := rl (dh dj h0 0x90 5 true)
theorem witness_DebugReachesPermittedCores_0_3_b :
    Rules.running x39_0 h0 (reqDebugThreads 144 5 15 true) ∧
    Rules.mayDebug x39_0 h0 5 := by
  decide +kernel

def x40_0 : State := ha (rl (dh dj h0 0x91 5 false))
theorem witness_DebugReachesPermittedCores_1 :
    Rules.running x40_0 h0 (reqDebugThreads 145 5 15 false) ∧
    Rules.mayDebug x40_0 h0 5 := by
  decide +kernel

def rd (s : State) (sp a n : Word) : State := asks s h0 (reqDebugRead sp 5 a n)
def x42_0 : State := (rd dj 0 0x2FFFFC 4).setCore 5 {(Core.reset) with spm := Core.reset.spm.write 0x2FFFFC [1,2,3,4]}
theorem witness_DebugReachesPermittedCores_2_0 :
    Rules.mayDebug x42_0 h0 5 ∧
    1 ≤ 4 ∧
    4 ≤ 4096 ∧
    Rules.running x42_0 h0 (reqDebugRead 0 (BitVec.setWidth 32 (5 : BitVec 8)) 3145724 4) ∧
    3145724 + 4 ≤ spmBytes x42_0.ident.code ∧
    (x42_0.core 5).spm.poison = [] := by
  decide +kernel

def x43_0 : State := rd dj 0 0x2FFFFD 4
theorem witness_DebugReachesPermittedCores_2_1 :
    Rules.mayDebug x43_0 h0 5 ∧
    1 ≤ 4 ∧
    4 ≤ 4096 ∧
    Rules.running x43_0 h0 (reqDebugRead 0 (BitVec.setWidth 32 (5 : BitVec 8)) 3145725 4) ∧
    spmBytes x43_0.ident.code < 3145725 + 4 := by
  decide +kernel

def x44_0 : State := (rd dj 6 31 4).setCore 5 {Core.reset with events := {Core.reset.events with ev := Core.reset.events.ev.set 31 0xFFFF}}
theorem witness_DebugReachesPermittedCores_2_2 :
    Rules.mayDebug x44_0 h0 5 ∧
    1 ≤ 4 ∧
    4 ≤ 4096 ∧
    Rules.running x44_0 h0 (reqDebugRead 6 (BitVec.setWidth 32 (5 : BitVec 8)) (BitVec.ofNat 32 31) 4) := by
  decide +kernel

def x45_0 : State := (rd dj 2 0x307 4).setCore 5 (Core.reset.mapR 3 (fun r => {r with a := r.a.set 7 0xFFFFFFFF}))
theorem witness_DebugReachesPermittedCores_2_3 :
    Rules.mayDebug x45_0 h0 5 ∧
    1 ≤ 4 ∧
    4 ≤ 4096 ∧
    Rules.running x45_0 h0 (reqDebugRead 2 (BitVec.setWidth 32 (5 : BitVec 8)) (BitVec.ofNat 32 (256 * 3 + 7)) 4) := by
  decide +kernel

def x46_0 : State := asks dj .bmc (reqDebugRead 7 0x30 0 4096)
theorem witness_DebugReachesPermittedCores_3 :
    Rules.running x46_0 Source.bmc (reqDebugRead 7 48 0 4096) ∧
    blockAssigned (48) = true ∧
    0 % 4 = 0 ∧
    4096 % 4 = 0 ∧
    1 ≤ 4096 ∧
    4096 ≤ 4096 := by
  decide +kernel

def x47_0 : List Byte := [1,2,3,4]
def x47_1 : State := rl (asks dj h0 (reqDebugWrite 0 5 0x2FFFFC [1,2,3,4]))
theorem witness_DebugReachesPermittedCores_4 :
    Rules.running x47_1 h0 (reqDebugWrite 0 (BitVec.setWidth 32 (5 : BitVec 8)) 3145724 x47_0) ∧
    Rules.mayDebug x47_1 h0 5 ∧
    x47_0 ≠ [] ∧
    x47_0.length ≤ 4016 ∧
    3145724 + x47_0.length ≤ spmBytes x47_1.ident.code := by
  decide +kernel

def wv : State := rl (asks dj h0 (reqDebugWrite 2 5 0x307 (leBytes 4 0x80000001)))
theorem witness_DebugReachesPermittedCores_5_0 :
    Rules.running wv h0 (reqDebugWrite 2 (BitVec.setWidth 32 (5 : BitVec 8)) (BitVec.ofNat 32 (256 * 3 + 7)) (leBytes 4 (2147483649))) ∧
    Rules.mayDebug wv h0 5 ∧
    (wv.core 5).idle = false := by
  decide +kernel

def x50_0 : State := ha wv
theorem witness_DebugReachesPermittedCores_5_1 :
    Rules.running x50_0 h0 (reqDebugWrite 2 (BitVec.setWidth 32 (5 : BitVec 8)) (BitVec.ofNat 32 (256 * 3 + 7)) (leBytes 4 (2147483649))) ∧
    Rules.mayDebug x50_0 h0 5 ∧
    (x50_0.core 5).idle = true := by
  decide +kernel

def dbg (x : List Byte) (f : Core → Core) : State := let s := rl (asks dj .bmc (reqDebugWrite 5 5 7 x)); s.setCore 5 (f (s.core 5))
def x52_0 : State := dbg (leBytes 8 0x123456789ABCDEF0) (fun c => c.setRunner 7 {c.runners[7] with words := [1,2,3], recvWait := [1]})
theorem witness_DebugReachesPermittedCores_6_0 :
    Rules.mayDebug x52_0 Source.bmc 5 ∧
    Rules.running x52_0 Source.bmc (reqDebugWrite 5 (BitVec.setWidth 32 (5 : BitVec 8)) (BitVec.ofNat 32 7) (leBytes 8 (1311768467463790320))) ∧
    (x52_0.core 5).runners[7].words.length < 4 := by
  decide +kernel

def x53_0 : State := dbg [] (fun c => c.setRunner 7 {c.runners[7] with words := [1,2,3,4], sendWait := [(1, [5])]})
theorem witness_DebugReachesPermittedCores_6_1 :
    Rules.mayDebug x53_0 Source.bmc 5 ∧
    Rules.running x53_0 Source.bmc (reqDebugWrite 5 (BitVec.setWidth 32 (5 : BitVec 8)) (BitVec.ofNat 32 7) []) := by
  decide +kernel

def x54_0 : State := dbg (leBytes 8 9) (fun c => c.setRunner 7 {c.runners[7] with words := [1,2,3,4]})
theorem witness_DebugReachesPermittedCores_6_2 :
    Rules.mayDebug x54_0 Source.bmc 5 ∧
    Rules.running x54_0 Source.bmc (reqDebugWrite 5 (BitVec.setWidth 32 (5 : BitVec 8)) (BitVec.ofNat 32 7) (leBytes 8 (9))) ∧
    (x54_0.core 5).runners[7].words.length = 4 := by
  decide +kernel

end PartT

/-! ### Firmware and the life cycle -/

namespace PartU

def fu (q : Request) : State := asks up .bmc q
def fa (k : Byte) : State := fu (reqAction 0x81 k [])
def im (s : State) (f : Images → Images) : State := mapsec s (fun x => {x with images := f x.images})
def x6_0 : State := fa 0
theorem witness_FirmwareIsStagedVerifiedAndActivated_0 :
    Rules.running x6_0 Source.bmc (reqAction 129 0 []) := by
  decide +kernel

def x7_0 : State := im (mapsec (fa 0) (fun x => {x with fuses := {x.fuses with svn := 5}})) (fun i => {i with slots := Vector.replicate 2 (Vector.replicate 2 none)})
theorem witness_FirmwareIsStagedVerifiedAndActivated_0_b :
    Rules.running x7_0 Source.bmc (reqAction 129 0 []) := by
  decide +kernel

def x8_0 : List Byte := [1,2]
def x8_1 : State := asks up h0 (reqFwStage [1,2])
theorem witness_FirmwareIsStagedVerifiedAndActivated_1_0 :
    Rules.running x8_1 h0 (reqFwStage x8_0) ∧
    Rules.mayUpdate x8_1 ∧
    (x8_0 ≠ [] ∧ x8_0.length ≤ 25169920) := by
  decide +kernel

def x9_0 : List Byte := []
def x9_1 : State := asks up h0 (reqFwStage [])
theorem witness_FirmwareIsStagedVerifiedAndActivated_1_1 :
    Rules.running x9_1 h0 (reqFwStage x9_0) ∧
    Rules.mayUpdate x9_1 ∧
    (x9_0 = [] ∨ 25169920 < x9_0.length) := by
  decide +kernel

def x10_0 : List Byte := [1,2]
def x10_1 : State := fu (reqFwChunk 0 [1,2])
theorem witness_FirmwareIsStagedVerifiedAndActivated_2_0 :
    Rules.mayUpdate x10_1 ∧
    x10_0 ≠ [] ∧
    x10_0.length ≤ 4000 ∧
    Rules.running x10_1 Source.bmc (reqFwChunk 0 x10_0) := by
  decide +kernel

def x11_0 : List Byte := [1,2]
def x11_1 : State := im (fu (reqFwChunk 1 [1,2])) (fun i => {i with staged := [7]})
theorem witness_FirmwareIsStagedVerifiedAndActivated_2_1 :
    Rules.mayUpdate x11_1 ∧
    x11_0 ≠ [] ∧
    x11_0.length ≤ 4000 ∧
    Rules.running x11_1 Source.bmc (reqFwChunk 1 x11_0) ∧
    1 ≠ 0 ∧
    1 = x11_1.sec.images.staged.length := by
  decide +kernel

def x12_0 : List Byte := [1,2]
def x12_1 : State := im (fu (reqFwChunk 2 [1,2])) (fun i => {i with staged := [7]})
theorem witness_FirmwareIsStagedVerifiedAndActivated_2_2 :
    Rules.mayUpdate x12_1 ∧
    x12_0 ≠ [] ∧
    x12_0.length ≤ 4000 ∧
    Rules.running x12_1 Source.bmc (reqFwChunk 2 x12_0) ∧
    2 ≠ 0 ∧
    2 ≠ x12_1.sec.images.staged.length := by
  decide +kernel

def x13_0 : State := fa 3
theorem witness_FirmwareIsStagedVerifiedAndActivated_3_1 :
    Rules.running x13_0 Source.bmc (reqAction 129 3 []) ∧
    Rules.mayUpdate x13_0 ∧
    x13_0.sec.fuses.verifies x13_0.sec.images.staged = false := by
  decide +kernel

def fac (s : State) (b : Bool) : State := asks s .bmc (reqFwActivate b)
def x15_0 : State := fac loaded true
theorem witness_FirmwareIsStagedVerifiedAndActivated_4_0 :
    Rules.mayUpdate x15_0 ∧
    Rules.running x15_0 Source.bmc (reqFwActivate true) ∧
    x15_0.anyJob = true := by
  decide +kernel

def x16_0 : State := fac up true
theorem witness_FirmwareIsStagedVerifiedAndActivated_4_1 :
    Rules.mayUpdate x16_0 ∧
    Rules.running x16_0 Source.bmc (reqFwActivate true) ∧
    (x16_0.anyJob = false ∧ x16_0.sec.images.verified = false) := by
  decide +kernel

def x17_0 : State := im (fac up false) (fun i => {i with staged := [7], verified := true})
theorem witness_FirmwareIsStagedVerifiedAndActivated_4_2_0 :
    Rules.mayUpdate x17_0 ∧
    (x17_0.anyJob = false ∧ x17_0.sec.images.verified = true) ∧
    Rules.running x17_0 Source.bmc (reqFwActivate false) := by
  decide +kernel

def x18_0 : State := im (fac up true) (fun i => {i with staged := [7], verified := true})
theorem witness_FirmwareIsStagedVerifiedAndActivated_4_2_1 :
    Rules.mayUpdate x18_0 ∧
    (x18_0.anyJob = false ∧ x18_0.sec.images.verified = true) ∧
    Rules.running x18_0 Source.bmc (reqFwActivate true) := by
  decide +kernel

def x20_0 : State := im (fa 5) (fun i => {i with staged := [7], verified := true})
theorem witness_FirmwareIsStagedVerifiedAndActivated_6 :
    Rules.running x20_0 Source.bmc (reqAction 129 5 []) ∧
    Rules.mayUpdate x20_0 := by
  decide +kernel

def fimg : List Byte := leBytes 8 0 ++ leBytes 4 9 ++ List.replicate 0x10 0 ++ leBytes 4 6
def cm : State := im (fa 6) (fun i => {i with slots := Vector.replicate 2 (Vector.replicate 2 (some fimg))})
theorem witness_FirmwareIsStagedVerifiedAndActivated_7_0 :
    Rules.running cm Source.bmc (reqAction 129 6 []) ∧
    Rules.mayUpdate cm ∧
    cm.sec.images.runs 0 = some fimg ∧
    cm.sec.images.runs 1 = some fimg ∧
    cm.mp.heldA = false ∧
    cm.mp.heldB = false ∧
    cm.sec.fuses.svn < word32At fimg 8 := by
  decide +kernel

def x24_0 : State := mapsec cm (fun x => {x with fuses := {x.fuses with svn := 9}})
theorem witness_FirmwareIsStagedVerifiedAndActivated_7_1 :
    Rules.running x24_0 Source.bmc (reqAction 129 6 []) ∧
    Rules.mayUpdate x24_0 ∧
    x24_0.sec.images.runs 0 = some fimg ∧
    x24_0.sec.images.runs 1 = some fimg ∧
    x24_0.mp.heldA = false ∧
    x24_0.mp.heldB = false ∧
    word32At fimg 8 ≤ x24_0.sec.fuses.svn := by
  decide +kernel

def sf (s : State) (k : Nat) : State := mapsec s (fun x => {x with fuses := {x.fuses with lc := k}})
def x26_0 : State := mapsec (fa 3) (fun x => {x with upd := .apply})
theorem witness_FirmwareIsStagedVerifiedAndActivated_8_0 :
    ((x26_0.sec.fuses.state = 0 ∨ x26_0.sec.fuses.state = 4) ∧ 13 = 0 ∨ x26_0.sec.fuses.state ≠ 0 ∧ x26_0.sec.fuses.state ≠ 4 ∧ x26_0.sec.upd ≠ UpdateState.idle ∧ 13 = 13) ∧
    Rules.running x26_0 Source.bmc (reqAction 129 3 []) := by
  decide +kernel

def x27_0 : State := mapsec (fa 5) (fun x => {x with upd := .apply})
theorem witness_FirmwareIsStagedVerifiedAndActivated_8_1 :
    ((x27_0.sec.fuses.state = 0 ∨ x27_0.sec.fuses.state = 4) ∧ 13 = 0 ∨ x27_0.sec.fuses.state ≠ 0 ∧ x27_0.sec.fuses.state ≠ 4 ∧ x27_0.sec.upd ≠ UpdateState.idle ∧ 13 = 13) ∧
    Rules.running x27_0 Source.bmc (reqAction 129 5 []) := by
  decide +kernel

def x28_0 : State := sf (fa 6) 0
theorem witness_FirmwareIsStagedVerifiedAndActivated_8_2 :
    ((x28_0.sec.fuses.state = 0 ∨ x28_0.sec.fuses.state = 4) ∧ 0 = 0 ∨ x28_0.sec.fuses.state ≠ 0 ∧ x28_0.sec.fuses.state ≠ 4 ∧ x28_0.sec.upd ≠ UpdateState.idle ∧ 0 = 13) ∧
    Rules.running x28_0 Source.bmc (reqAction 129 6 []) := by
  decide +kernel

def x29_0 : State := mapsec (fu (reqFwStage [1])) (fun x => {x with fuses := {x.fuses with decom := 1}})
def x29_1 : List Byte := [1]
theorem witness_FirmwareIsStagedVerifiedAndActivated_8_3 :
    ((x29_0.sec.fuses.state = 0 ∨ x29_0.sec.fuses.state = 4) ∧ 0 = 0 ∨ x29_0.sec.fuses.state ≠ 0 ∧ x29_0.sec.fuses.state ≠ 4 ∧ x29_0.sec.upd ≠ UpdateState.idle ∧ 0 = 13) ∧
    Rules.running x29_0 Source.bmc (reqFwStage x29_1) := by
  decide +kernel

def lq (s : State) (q : Request) : State := asks s .bmc q
def la (s : State) (k : Byte) : State := lq s (reqAction 0x80 k [])
def fz (s : State) (f : Fuses → Fuses) : State := mapsec s (fun x => {x with fuses := f x.fuses})
def x33_0 : State := fz (la up 0) (fun f => {f with decom := 1})
theorem witness_LifeCycleMovesByAuthority_0 :
    Rules.running x33_0 Source.bmc (reqAction 128 0 []) := by
  decide +kernel

def x34_0 : State := mapsec (la up 0) (fun f => {f with failed := 2, level := 2})
theorem witness_LifeCycleMovesByAuthority_0_b :
    Rules.running x34_0 Source.bmc (reqAction 128 0 []) := by
  decide +kernel

def x35_0 : State := lq up (reqDeploy 5)
theorem witness_LifeCycleMovesByAuthority_1_0 :
    Rules.running x35_0 Source.bmc (reqDeploy 5) ∧
    (x35_0.sec.fuses.lc ≠ 1 ∨ x35_0.sec.fuses.decom ≠ 0) := by
  decide +kernel

def x36_0 : State := fz (lq loaded (reqDeploy 5)) (fun f => {f with lc := 1})
theorem witness_LifeCycleMovesByAuthority_1_1_0 :
    Rules.running x36_0 Source.bmc (reqDeploy 5) ∧
    (x36_0.sec.fuses.lc = 1 ∧ x36_0.sec.fuses.decom = 0) ∧
    x36_0.anyJob = true := by
  decide +kernel

def x37_0 : State := fz (lq up (reqDeploy 5)) (fun f => {f with lc := 1})
theorem witness_LifeCycleMovesByAuthority_1_1_1 :
    Rules.running x37_0 Source.bmc (reqDeploy 5) ∧
    (x37_0.sec.fuses.lc = 1 ∧ x37_0.sec.fuses.decom = 0) ∧
    x37_0.anyJob = false ∧
    (x37_0.sec.fuses.owner = none ∨ x37_0.sec.fuses.owner = some (Config.sha384 (leBytes 96 (5)))) := by
  decide +kernel

def lc (p : Word) : State := lq up (reqChallenge p)
def x39_0 : State := lc 5
theorem witness_LifeCycleMovesByAuthority_2_0 :
    Rules.running x39_0 Source.bmc (reqChallenge 5) ∧
    (5 = 0 ∨ 4 < 5) := by
  decide +kernel

def x40_0 : State := lc 4
theorem witness_LifeCycleMovesByAuthority_2_1_0 :
    Rules.running x40_0 Source.bmc (reqChallenge 4) ∧
    (1 ≤ 4 ∧ 4 ≤ 4) ∧
    purposeKeys x40_0.sec.fuses.state 4 = none := by
  decide +kernel

def x41_0 : State := mapsec (lc 1) (fun f => {f with failed := 3})
theorem witness_LifeCycleMovesByAuthority_2_1_1_0 :
    Rules.running x41_0 Source.bmc (reqChallenge 1) ∧
    (1 ≤ 1 ∧ 1 ≤ 4) ∧
    purposeKeys x41_0.sec.fuses.state 1 ≠ none ∧
    3 ≤ BitVec.toNat x41_0.sec.failed := by
  decide +kernel

def x42_0 : State := lc 1
theorem witness_LifeCycleMovesByAuthority_2_1_1_1 :
    Rules.running x42_0 Source.bmc (reqChallenge 1) ∧
    (1 ≤ 1 ∧ 1 ≤ 4) ∧
    purposeKeys x42_0.sec.fuses.state 1 ≠ none ∧
    BitVec.toNat x42_0.sec.failed < 3 := by
  decide +kernel

def ch : Challenge := {purpose := 1, block := [1], issued := 0}
def au : Authorisation := ⟨0, 0, 0⟩
def rs (p : Word) (l : List Authorisation) : State := mapsec (lq up (reqRespond p l)) (fun x => {x with challenge := some ch})
def x46_0 : List Authorisation := [au]
def x46_1 : Bool × Bool := (true, false)
def x46_2 : State := rs 1 [au]
theorem witness_LifeCycleMovesByAuthority_3_1 :
    Rules.running x46_2 Source.bmc (reqRespond 1 x46_0) ∧
    1 ≤ 1 ∧
    1 ≤ 4 ∧
    (x46_0.length = 1 ∨ x46_0.length = 2) ∧
    purposeKeys x46_2.sec.fuses.state 1 = some x46_1 ∧
    x46_2.sec.challenge = some ch ∧
    (ch.purpose ≠ 1 ∨ ch.issued + 60000000000 < x46_2.now ∨ matchKeys x46_1 x46_0 = false ∨ ∃ a ∈ x46_0, x46_2.sec.fuses.accepts ch.block a = false) := by
  decide +kernel

def x47_0 : List Authorisation := [au]
def x47_1 : State := rs 5 [au]
theorem witness_LifeCycleMovesByAuthority_4_0 :
    Rules.running x47_1 Source.bmc (reqRespond 5 x47_0) ∧
    (5 = 0 ∨ 4 < 5) := by
  decide +kernel

def x48_0 : List Authorisation := []
def x48_1 : State := rs 1 []
theorem witness_LifeCycleMovesByAuthority_4_1 :
    Rules.running x48_1 Source.bmc (reqRespond 1 x48_0) ∧
    (1 ≤ 1 ∧ 1 ≤ 4 ∧ x48_0.length ≠ 1 ∧ x48_0.length ≠ 2) := by
  decide +kernel

def x49_0 : List Authorisation := [au]
def x49_1 : State := rs 4 [au]
theorem witness_LifeCycleMovesByAuthority_4_2 :
    Rules.running x49_1 Source.bmc (reqRespond 4 x49_0) ∧
    (1 ≤ 4 ∧ 4 ≤ 4 ∧ (x49_0.length = 1 ∨ x49_0.length = 2) ∧ purposeKeys x49_1.sec.fuses.state 4 = none) := by
  decide +kernel

def x50_0 : State := rs 1 [au]
theorem witness_LifeCycleMovesByAuthority_5 :
    x50_0.sec.challenge = some ch := by
  decide +kernel

def x51_0 : State := la loaded 4
theorem witness_LifeCycleMovesByAuthority_6_0 :
    Rules.running x51_0 Source.bmc (reqAction 128 4 []) ∧
    x51_0.anyJob = true := by
  decide +kernel

def x52_0 : State := la up 4
theorem witness_LifeCycleMovesByAuthority_6_1 :
    Rules.running x52_0 Source.bmc (reqAction 128 4 []) ∧
    x52_0.anyJob = false := by
  decide +kernel

def fw2 (a : FettleAct) (q : Request) : State := let s := lq up q; {s with mp := {s.mp with fettles := [{scope := .whole, src := some .bmc, act := a}]}}
def x54_0 : List CorePos := []
def x54_1 : List FettleRun := []
def x54_2 : State := fw2 (.level 1) (reqRespond 1 [au])
theorem witness_LifeCycleMovesByAuthority_7 :
    (x54_2.box Source.bmc).st = MbState.running ∧
    x54_2.mp.fettles = { scope := FettleScope.whole, src := some Source.bmc, act := FettleAct.level 1 } :: x54_1 := by
  decide +kernel

def x55_0 : List CorePos := []
def x55_1 : List FettleRun := []
def x55_2 : State := fw2 (.deploy 77) (reqDeploy 5)
theorem witness_LifeCycleMovesByAuthority_8 :
    (x55_2.box Source.bmc).st = MbState.running ∧
    x55_2.mp.fettles = { scope := FettleScope.whole, src := some Source.bmc, act := FettleAct.deploy 77 } :: x55_1 := by
  decide +kernel

def x56_0 : State := {loaded with mp := {loaded.mp with resetAt := some 5}}
theorem witness_LifeCycleMovesByAuthority_9 :
    x56_0.mp.resetAt = some 5 := by
  decide +kernel

def x57_0 : State := fz {loaded with mp := {loaded.mp with resetAt := some 5}} (fun f => {f with decom := 3})
theorem witness_LifeCycleMovesByAuthority_9_b :
    x57_0.mp.resetAt = some 5 := by
  decide +kernel

def x58_0 : Option Source := some .bmc
def x58_1 : List FettleRun := []
def x58_2 : State := fw2 (.deploy 77) (reqDeploy 5)
theorem witness_LifeCycleMovesByAuthority_10_0 :
    2000 ≤ 2000 ∧
    x58_2.mp.fettles = { scope := FettleScope.whole, src := x58_0, act := FettleAct.deploy 77 } :: x58_1 := by
  decide +kernel

def x59_0 : Option Source := some .bmc
def x59_1 : List FettleRun := []
def x59_2 : State := fw2 .decommission (reqRespond 2 [au])
theorem witness_LifeCycleMovesByAuthority_10_1 :
    2000 ≤ 2000 ∧
    x59_2.mp.fettles = { scope := FettleScope.whole, src := x59_0, act := FettleAct.decommission } :: x59_1 := by
  decide +kernel

def x60_0 : Option Source := some .bmc
def x60_1 : List FettleRun := []
def x60_2 : State := fw2 .decommission (reqRespond 2 [au])
theorem witness_LifeCycleMovesByAuthority_10_1_b :
    2000 ≤ 2000 ∧
    x60_2.mp.fettles = { scope := FettleScope.whole, src := x60_0, act := FettleAct.decommission } :: x60_1 := by
  decide +kernel

end PartU

/-! ### SPDM and PLDM -/

namespace PartV

def sp (st : SpdmState) : State := mapsec loaded (fun x => {x with spdm := x.spdm.set 1 st})
def got (o : Out) : State := match o with | .next s => s | _ => up
def goesOn (o : Out) : Bool := match o with | .next _ => true | _ => false
theorem eq_got {o : Out} (h : goesOn o = true) : o = .next (got o) := by
  cases o with
  | next s => rfl
  | fault f => cases h
  | refused r => cases h
def x11_0 : State := sp .none
theorem witness_SpdmAttestsTheModule_0_0 :
    Rules.attests x11_0 1 := by
  decide +kernel

def x12_0 : State := sp .version
theorem witness_SpdmAttestsTheModule_0_1 :
    Rules.attests x12_0 1 ∧
    x12_0.sec.spdm[1] = SpdmState.version := by
  decide +kernel

def x13_0 : State := sp .capabilities
theorem witness_SpdmAttestsTheModule_0_2_0 :
    Rules.attests x13_0 1 ∧
    x13_0.sec.spdm[1] = SpdmState.capabilities := by
  decide +kernel

def x14_0 : State := sp .capabilities
theorem witness_SpdmAttestsTheModule_0_2_1 :
    Rules.attests x14_0 1 ∧
    x14_0.sec.spdm[1] = SpdmState.capabilities := by
  decide +kernel

def x15_0 : State := sp .capabilities
theorem witness_SpdmAttestsTheModule_0_2_2 :
    Rules.attests x15_0 1 ∧
    x15_0.sec.spdm[1] = SpdmState.capabilities := by
  decide +kernel

def ng := sp .negotiated
theorem witness_SpdmAttestsTheModule_1_0 :
    Rules.attests ng 1 ∧
    ng.sec.spdm[1] = SpdmState.negotiated := by
  decide +kernel

theorem witness_SpdmAttestsTheModule_1_2 :
    Rules.attests ng 1 ∧
    ng.sec.spdm[1] = SpdmState.negotiated ∧
    1 ≠ 0 := by
  decide +kernel

theorem witness_SpdmAttestsTheModule_1_3 :
    Rules.attests ng 1 ∧
    ng.sec.spdm[1] = SpdmState.negotiated := by
  decide +kernel

theorem witness_SpdmAttestsTheModule_1_4 :
    Rules.attests ng 1 ∧
    ng.sec.spdm[1] = SpdmState.negotiated := by
  decide +kernel

theorem witness_SpdmAttestsTheModule_1_5 :
    Rules.attests ng 1 ∧
    ng.sec.spdm[1] = SpdmState.negotiated ∧
    23 ≠ 0 ∧
    23 ≠ 255 ∧
    ng.measurement (23) = some 0 := by
  decide +kernel

theorem witness_SpdmAttestsTheModule_1_6 :
    Rules.attests ng 1 ∧
    ng.sec.spdm[1] = SpdmState.negotiated ∧
    24 ≠ 0 ∧
    24 ≠ 255 ∧
    ng.measurement (24) = none := by
  decide +kernel

def x24_0 : State := sp .version
theorem witness_SpdmAttestsTheModule_4 :
    Rules.attests x24_0 1 ∧
    x24_0.sec.spdm[1] ≠ SpdmState.negotiated := by
  decide +kernel

def x25_0 : State := mapsec ng (fun x => {x with fuses := {x.fuses with decom := 4}})
theorem witness_SpdmAttestsTheModule_5 :
    x25_0.firmwareUp = true ∧
    (∀ (hi : Fin 2), 1 = ↑hi + 1 → x25_0.board.hiUp[hi] = true) ∧
    x25_0.sec.fuses.decom ≠ 0 := by
  decide +kernel

def us (s : State) (u : UpdateState) : State := mapsec s (fun x => {x with upd := u})
theorem witness_PldmUpdatesAndMonitors_0_0 :
    Rules.hears loaded := by
  decide +kernel

theorem witness_PldmUpdatesAndMonitors_0_1 :
    Rules.hears loaded := by
  decide +kernel

def x30_0 : State := us loaded .ready
theorem witness_PldmUpdatesAndMonitors_0_2 :
    Rules.hears x30_0 := by
  decide +kernel

theorem witness_PldmUpdatesAndMonitors_1_0 :
    Rules.hears loaded ∧
    loaded.sec.upd = UpdateState.idle ∧
    (∀ (x : Source), (loaded.box x).st ≠ MbState.running) ∧
    loaded.sec.fuses.decom = 0 ∧
    (loaded.sec.fuses.lc = 1 ∨ loaded.sec.fuses.lc = 2 ∨ loaded.sec.fuses.lc = 3) := by
  exact ⟨by decide +kernel, by decide +kernel, all_source (by decide +kernel) (by decide +kernel) (by decide +kernel), by decide +kernel, by decide +kernel⟩

def x32_0 : State := us loaded .ready
theorem witness_PldmUpdatesAndMonitors_1_1 :
    Rules.hears x32_0 ∧
    x32_0.sec.upd ≠ UpdateState.idle := by
  decide +kernel

def x33_0 : State := us loaded .ready
theorem witness_PldmUpdatesAndMonitors_1_2 :
    Rules.hears x33_0 ∧
    x33_0.sec.upd ≠ UpdateState.idle := by
  decide +kernel

theorem witness_PldmUpdatesAndMonitors_1_3 :
    Rules.hears loaded ∧
    loaded.sec.upd = UpdateState.idle := by
  decide +kernel

def x35_0 : State := us loaded .learn
theorem witness_PldmUpdatesAndMonitors_2 :
    Rules.hears x35_0 ∧
    x35_0.sec.upd = UpdateState.learn := by
  decide +kernel

def x36_0 : State := us loaded .ready
theorem witness_PldmUpdatesAndMonitors_3 :
    Rules.hears x36_0 ∧
    x36_0.sec.upd = UpdateState.ready ∧
    25169920 ≠ 0 ∧
    25169920 ≤ 25169920 := by
  decide +kernel

def dl : State := mapsec (us loaded .download) (fun x => {x with updData := [1,2], updSize := 4})
def x38_0 : List Byte := [3,4]
theorem witness_PldmUpdatesAndMonitors_4_0 :
    dl.sec.upd = UpdateState.download ∧
    x38_0.length ≤ 1024 ∧
    dl.sec.updData.length + x38_0.length ≤ dl.sec.updSize ∧
    2 = dl.sec.updData.length := by
  decide +kernel

def x39_0 : List Byte := [3,4]
theorem witness_PldmUpdatesAndMonitors_4_1 :
    dl.sec.upd = UpdateState.download ∧
    x39_0.length ≤ 1024 ∧
    dl.sec.updData.length + x39_0.length ≤ dl.sec.updSize ∧
    1 ≠ dl.sec.updData.length := by
  decide +kernel

def x40_0 : State := mapsec (us loaded .download) (fun x => {x with updData := [1,2], updSize := 2})
theorem witness_PldmUpdatesAndMonitors_5 :
    x40_0.sec.upd = UpdateState.download ∧
    x40_0.sec.updData.length = x40_0.sec.updSize := by
  decide +kernel

def x41_0 : State := us loaded .verify
theorem witness_PldmUpdatesAndMonitors_6_1 :
    x41_0.sec.upd = UpdateState.verify ∧
    x41_0.sec.fuses.verifies x41_0.sec.updData = false := by
  decide +kernel

def x42_0 : State := us loaded .apply
theorem witness_PldmUpdatesAndMonitors_7 :
    x42_0.sec.upd = UpdateState.apply ∧
    x42_0.firmwareUp = true := by
  decide +kernel

def x43_0 : State := mapsec (us up .ready) (fun x => {x with images := {x.images with verified := true}})
theorem witness_PldmUpdatesAndMonitors_8 :
    Rules.hears x43_0 ∧
    x43_0.sec.upd = UpdateState.ready ∧
    x43_0.sec.images.verified = true ∧
    x43_0.anyJob = false := by
  decide +kernel

theorem witness_PldmUpdatesAndMonitors_10_0 :
    loaded.firmwareUp = true ∧
    Rules.hears loaded := by
  decide +kernel

theorem witness_PldmUpdatesAndMonitors_10_1 :
    loaded.firmwareUp = true ∧
    Rules.hears loaded := by
  decide +kernel

theorem witness_PldmUpdatesAndMonitors_10_2 :
    loaded.firmwareUp = true ∧
    Rules.hears loaded := by
  decide +kernel

theorem witness_PldmUpdatesAndMonitors_10_3 :
    loaded.firmwareUp = true ∧
    Rules.hears loaded ∧
    63 < 64 := by
  decide +kernel

theorem witness_PldmUpdatesAndMonitors_10_4 :
    loaded.firmwareUp = true ∧
    Rules.hears loaded := by
  decide +kernel

def x49_0 : State := {loaded with power := {loaded.power with dies := loaded.power.dies.map (fun x => {x with tj := 104})}}
theorem witness_PldmUpdatesAndMonitors_10_5 :
    x49_0.firmwareUp = true ∧
    Rules.hears x49_0 ∧
    nhas x49_0.sec.disabled (16 + 39) = false := by
  decide +kernel

theorem witness_PldmUpdatesAndMonitors_10_6 :
    loaded.firmwareUp = true ∧
    Rules.hears loaded := by
  decide +kernel

theorem witness_PldmUpdatesAndMonitors_10_7 :
    loaded.firmwareUp = true ∧
    Rules.hears loaded := by
  decide +kernel

theorem witness_PldmUpdatesAndMonitors_10_8 :
    loaded.firmwareUp = true ∧
    Rules.hears loaded := by
  decide +kernel

theorem witness_PldmUpdatesAndMonitors_10_9 :
    loaded.firmwareUp = true ∧
    Rules.hears loaded := by
  decide +kernel

theorem witness_PldmUpdatesAndMonitors_10_10 :
    loaded.firmwareUp = true ∧
    Rules.hears loaded := by
  decide +kernel

theorem witness_PldmUpdatesAndMonitors_10_11 :
    loaded.firmwareUp = true ∧
    Rules.hears loaded := by
  decide +kernel

theorem witness_PldmUpdatesAndMonitors_11_0 :
    loaded.firmwareUp = true ∧
    Rules.hears loaded ∧
    loaded.sec.events = [] := by
  decide +kernel

def x57_0 : State := mapsec {loaded with board := {loaded.board with alertN := false}} (fun x => {x with events := [[5]]})
def x57_1 : List Byte := [5]
def x57_2 : List (List Byte) := []
theorem witness_PldmUpdatesAndMonitors_11_1 :
    x57_0.firmwareUp = true ∧
    Rules.hears x57_0 ∧
    x57_0.sec.events = x57_1 :: x57_2 := by
  decide +kernel

def x58_0 : State := mapsec {loaded with board := {loaded.board with alertN := false}} (fun x => {x with events := [[5],[6]]})
def x58_1 : List Byte := [5]
def x58_2 : List (List Byte) := [[6]]
theorem witness_PldmUpdatesAndMonitors_11_1_b :
    x58_0.firmwareUp = true ∧
    Rules.hears x58_0 ∧
    x58_0.sec.events = x58_1 :: x58_2 := by
  decide +kernel

def x59_0 : State := got (execGetCertificate 1 0 0 0 ng)
theorem witness_SpdmAttestsTheModule_1_7_0 :
    Rules.attests ng 1 ∧
    ng.sec.spdm[1] = SpdmState.negotiated ∧
    (0 = 0 ∧ exec (Instr.getCertificate 1 0 0 0) ng = Host.Outcome.next x59_0) := by
  exact ⟨by decide +kernel, by decide +kernel, ⟨rfl, eq_got (by decide +kernel)⟩⟩

theorem witness_SpdmAttestsTheModule_1_7_1 :
    Rules.attests ng 1 ∧
    ng.sec.spdm[1] = SpdmState.negotiated ∧
    2 ≠ 0 := by
  decide +kernel

theorem witness_SpdmAttestsTheModule_3 :
    1 = 0 + 1 ∧
    loaded.firmwareUp = true ∧
    loaded.board.hiUp[0] = true := by
  decide +kernel

def x63_0 : State := mapsec loaded (fun x => {x with fuses := {x.fuses with decom := 1}})
theorem witness_PldmUpdatesAndMonitors_9 :
    x63_0.sec.fuses.state = 4 := by
  decide +kernel

end PartV

/-! ### The board, resets and bring-up -/

namespace PartW

def bd (s : State) (f : Board → Board) : State := {s with board := f s.board}
def asr : State := bd loaded (fun b => {b with resetN := false})
theorem witness_TheBoardFollowsItsPins_2 :
    asr.board.resetN = false := by
  decide +kernel

theorem witness_TheBoardFollowsItsPins_3 :
    loaded.board.resetN = true := by
  decide +kernel

def x9_0 : State := mapsec loaded (fun x => {x with level := 2})
theorem witness_TheBoardFollowsItsPins_4_0 :
    128 ≤ 254 ∧
    254 ≤ 254 ∧
    (x9_0.sec.level = 2 ∧ x9_0.board.resetN = true) := by
  decide +kernel

theorem witness_TheBoardFollowsItsPins_4_1 :
    128 ≤ 128 ∧
    128 ≤ 254 ∧
    (loaded.sec.level = 0 ∨ loaded.board.resetN = false) := by
  decide +kernel

def x11_0 : State := mapsec asr (fun x => {x with level := 2})
theorem witness_TheBoardFollowsItsPins_4_1_b :
    128 ≤ 128 ∧
    128 ≤ 254 ∧
    (x11_0.sec.level = 0 ∨ x11_0.board.resetN = false) := by
  decide +kernel

theorem witness_TheBoardFollowsItsPins_5 :
    loaded.firmwareUp = true := by
  decide +kernel

def x18_0 : State := bd loaded (fun b => {b with cable := b.cable.set 7 true})
theorem witness_TheBoardFollowsItsPins_9_2 :
    x18_0.board.charged = true ∧ x18_0.board.cable[7] = true ∧ x18_0.board.vcblCut[7] = false := by
  decide +kernel

theorem witness_TheBoardFollowsItsPins_9_3 :
    loaded.board.cable[7] = false ∨ loaded.board.vcblCut[7] = true := by
  decide +kernel

def x20_0 : State := bd loaded (fun b => {b with vcbl := b.vcbl.set 7 true})
theorem witness_TheBoardFollowsItsPins_9_4 :
    x20_0.board.vcbl[7] = true := by
  decide +kernel

theorem witness_ResetsLeaveWhatTheTableKeeps_0 :
    1999 < 2000 := by
  decide +kernel

def old : State := let s := (withLog loaded [mpEvent 2 5 []]).hbmPut 0x40000000 (.clean [1]); {s with pending := [], active := {s.active with role := 1}, mp := {s.mp with retiredCores := [4], repairs := [.hbm 1 2 3 4], takeovers := 3}}
theorem witness_ResetsLeaveWhatTheTableKeeps_1 :
    2000 ≤ 2000 := by
  decide +kernel

def x24_0 : State := mapsec old (fun x => {x with fuses := {x.fuses with decom := 1}})
theorem witness_ResetsLeaveWhatTheTableKeeps_1_b :
    2000 ≤ 2000 := by
  decide +kernel

def x26_0 : State := bd asr (fun b => {b with stage := .held, tap := .extest, driving := true})
theorem witness_ResetsLeaveWhatTheTableKeeps_3 :
    x26_0.board.resetN = false ∧
    x26_0.board.stage = Stage.held := by
  decide +kernel

def x27_0 : State := bd asr (fun b => {b with stage := .held, charged := false})
theorem witness_ResetsLeaveWhatTheTableKeeps_3_b :
    x27_0.board.resetN = false ∧
    x27_0.board.stage = Stage.held := by
  decide +kernel

def x28_0 : State := bd old (fun b => {b with stage := .held, charged := false})
theorem witness_ResetsLeaveWhatTheTableKeeps_6 :
    x28_0.board.charged = false ∧
    x28_0.board.cut = false := by
  decide +kernel

def x29_0 : State := bd old (fun b => {b with stage := .held, charged := false, resetN := false})
theorem witness_ResetsLeaveWhatTheTableKeeps_6_b :
    x29_0.board.charged = false ∧
    x29_0.board.cut = false := by
  decide +kernel

theorem witness_ResetsLeaveWhatTheTableKeeps_8 :
    old.board.stage ≠ Stage.held := by
  decide +kernel

def bt (st : Stage) : State := bd {loaded with sec := State.reset.sec} (fun b => {b with stage := st})
def x33_0 : State := bt .a
theorem witness_BringUpGoesStageByStage_0 :
    (1 = if true = true then 1 else 0) ∧
    x33_0.board.stage ≠ Stage.held ∧
    x33_0.mpHeld 1 = false ∧
    x33_0.sec.images.running[1] = none := by
  decide +kernel

def x34_0 : State := mapsec (bt .a) (fun x => {x with images := {x.images with slots := Vector.replicate 2 (Vector.replicate 2 none)}})
theorem witness_BringUpGoesStageByStage_0_b :
    (1 = if true = true then 1 else 0) ∧
    x34_0.board.stage ≠ Stage.held ∧
    x34_0.mpHeld 1 = false ∧
    x34_0.sec.images.running[1] = none := by
  decide +kernel

def x35_0 : State := mapsec (bt .c) (fun x => {x with images := {x.images with chosen := x.images.chosen.set 0 (some 1)}})
theorem witness_BringUpGoesStageByStage_1 :
    (0 = if false = true then 1 else 0) ∧
    x35_0.board.stage = Stage.c ∧
    x35_0.mpHeld 0 = false ∧
    x35_0.sec.images.running[0] = none ∧
    x35_0.sec.images.chosen[0] = some 1 := by
  decide +kernel

def x36_0 : State := mapsec {bt .d with mp := {loaded.mp with ready := false}} (fun x => {x with images := {x.images with running := x.images.running.set 0 (some 1), startedAt := x.images.startedAt.set 0 (some 5), trial := x.images.trial.set 0 true}})
theorem witness_BringUpGoesStageByStage_2 :
    (0 = if false = true then 1 else 0) ∧
    x36_0.sec.images.running[0] = some 1 ∧
    x36_0.sec.images.startedAt[0] = some 5 ∧
    x36_0.sec.images.trial[0] = true ∧
    x36_0.mp.ready = false ∧
    x36_0.mpHeld 0 = false := by
  decide +kernel

def st (x : Stage) : State := bd {loaded with mp := {loaded.mp with ready := false}} (fun b => {b with stage := x})
def x38_0 : State := st .d
theorem witness_BringUpGoesStageByStage_3 :
    x38_0.board.stage = Stage.d ∧
    x38_0.firmwareUp = true := by
  decide +kernel

def x39_0 : CorePos := ⟨31, 16, 15⟩
def x39_1 : State := st .e
theorem witness_BringUpGoesStageByStage_4 :
    x39_1.board.stage = Stage.e ∧
    x39_1.firmwareUp = true ∧
    x39_0.prow.toNat ≤ 16 := by
  decide +kernel

def x40_0 : List CorePos := []
def x40_1 : List FettleRun := []
def x40_2 : State := (st .f).addFettle {scope := .whole, src := none}
theorem witness_BringUpGoesStageByStage_5 :
    x40_2.board.stage = Stage.f ∧
    x40_2.mp.fettles = { scope := FettleScope.whole, src := none } :: x40_1 := by
  decide +kernel

def x41_0 : State := let s := st .g; {s with active := {s.active with ports := s.active.ports.map (fun p => {p with en := true})}}
theorem witness_BringUpGoesStageByStage_6 :
    x41_0.board.stage = Stage.g ∧
    x41_0.firmwareUp = true := by
  decide +kernel

def x42_0 : State := let s := st .h; {s with mp := {s.mp with heldB := true}}
theorem witness_BringUpGoesStageByStage_7 :
    x42_0.board.stage = Stage.h ∧
    x42_0.firmwareUp = true ∧
    x42_0.sec.fuses.decom = 0 ∧
    x42_0.board.lost = [] ∧
    x42_0.mp.heldB = true := by
  decide +kernel

def x43_0 : State := let s := mapsec (st .h) (fun x => {x with fuses := {x.fuses with decom := 1}}); {s with mp := {s.mp with heldB := true}}
theorem witness_BringUpGoesStageByStage_8 :
    x43_0.board.stage = Stage.h ∧
    x43_0.firmwareUp = true ∧
    (x43_0.sec.fuses.decom ≠ 0 ∨ x43_0.board.lost ≠ []) ∧
    x43_0.mp.heldB = true := by
  decide +kernel

def x44_0 : State := st .d
theorem witness_BringUpGoesStageByStage_9 :
    x44_0.board.stage = Stage.d ∧
    x44_0.firmwareUp = true := by
  decide +kernel

def x45_0 : State := bd asr (fun b => {b with stage := .held})
theorem witness_ResetsLeaveWhatTheTableKeeps_4 :
    x45_0.board.resetN = false ∧
    x45_0.board.stage = Stage.held ∧
    x45_0.board.charged = true := by
  decide +kernel

def cutr : State := {old with lastSet := {old.active with pcap := 5}, errs := {old.errs with persistent := [(old.entry (mpEvent 1 5 [])), (old.entry (mpEvent 2 6 []))]}}
def x47_0 : List Record := [old.entry (mpEvent 1 5 [])]
def x47_1 : Record := old.entry (mpEvent 2 6 [])
theorem witness_ResetsLeaveWhatTheTableKeeps_5 :
    2000 ≤ 2000 ∧
    cutr.sec.fuses.decom = 0 ∧
    cutr.lastSet = cutr.lastSet ∧
    cutr.errs.persistent = x47_0 ++ [x47_1] := by
  decide +kernel

end PartW

/-! ### The block as a whole -/

namespace PartZ

def x3_0 : Instr := .bypass
def x3_1 : List Instr := [.idcode]
def x3_2 : State := {loaded with pending := [.bypass, .idcode]}
theorem witness_AStepTakesTheFrontCommand_0 :
    x3_2.pending = x3_0 :: x3_1 := by
  decide +kernel

theorem witness_AStepTakesTheFrontCommand_1 :
    loaded.pending = [] := by
  decide +kernel

def x7_0 : Ty := .h16
theorem witness_ShortFormatsHaveOneNaNAndOneZero_0 :
    (x7_0 = Ty.h4 ∧ 16 = 4 ∧ 9 = 1 ∧ 31 = 1 ∨ x7_0 = Ty.h6 ∧ 16 = 6 ∧ 9 = 2 ∧ 31 = 3 ∨ x7_0 = Ty.h8p ∧ 16 = 8 ∧ 9 = 3 ∧ 31 = 7 ∨ x7_0 = Ty.h8r ∧ 16 = 8 ∧ 9 = 2 ∧ 31 = 15 ∨ x7_0 = Ty.h16 ∧ 16 = 16 ∧ 9 = 9 ∧ 31 = 31) ∧
    32769 < 2 ^ 16 := by
  decide +kernel

end PartZ

/-! ### Hypotheses that need a free value of Config, or an equation of exec -/

namespace PartX

def rq (q : Request) : State := asks up h0 q
theorem witness_ReportsReturnWhatTheBlockHolds_0 : Rules.running (rq reqDevInfo) h0 reqDevInfo := by decide +kernel
theorem witness_ReportsReturnWhatTheBlockHolds_2 :
    (∀ clr, Rules.running (rq (reqCfgGet 0x31 false clr 0xFFC 1024)) h0 (reqCfgGet 0x31 false clr 0xFFC 1024)) ∧
    blockAssigned 0x31 = true ∧ 0xFFC % 4 = 0 ∧ 1 ≤ 1024 ∧ 1024 ≤ 1024 := by decide +kernel
theorem witness_ReportsReturnWhatTheBlockHolds_6_running : ∀ clr, Rules.running (rq (reqErrLog 1 63 1 clr)) h0 (reqErrLog 1 63 1 clr) := by
  decide +kernel
/-- The certificate chain is a free value of Config: the witness is of any chain that is not empty. -/
theorem witness_SpdmAttestsTheModule_1_1
    (h : 0 < (mapsec loaded (fun x => { x with spdm := x.spdm.set 1 .negotiated })).chain.length) :
    let s := mapsec loaded (fun x => { x with spdm := x.spdm.set 1 .negotiated })
    Rules.attests s 1 ∧ s.sec.spdm[(1 : Fin 3)] = .negotiated ∧ (0 : BitVec 16).toNat < s.chain.length :=
  ⟨by decide +kernel, by decide +kernel, h⟩
/-- Signature verification is a free value of Config: the witness is of a verification that succeeds. -/
theorem witness_LifeCycleMovesByAuthority_3_0 (h : Config.ecdsaVerify 5 [1] 6 = true) :
    let d := Config.sha384 (leBytes 96 (5 : BitVec 768).toNat)
    let s := mapsec (asks up .bmc (reqRespond 1 [⟨0xFF, 5, 6⟩])) (fun x =>
      { x with challenge := some { purpose := 1, block := [1], issued := 0 }, fuses := { x.fuses with owner := some d } })
    Rules.running s .bmc (reqRespond 1 [⟨0xFF, 5, 6⟩]) ∧ 1 ≤ (1 : Word).toNat ∧ purposeKeys s.sec.fuses.state 1 = some (true, false) ∧
    s.sec.challenge = some { purpose := 1, block := [1], issued := 0 } ∧ s.now ≤ 0 + 60000000000 ∧
    matchKeys (true, false) [⟨0xFF, 5, 6⟩] = true ∧ (∀ a ∈ [(⟨0xFF, 5, 6⟩ : Authorisation)], s.sec.fuses.accepts [1] a = true) ∧
    s.anyJob = false := by
  refine ⟨by decide +kernel, by decide, by decide +kernel, rfl, by decide +kernel, by decide +kernel, ?_, by decide +kernel⟩
  intro a ha
  rw [List.mem_singleton.mp ha]
  simp [Fuses.accepts, mapsec]
  exact h
theorem witness_FlasksBindAdoptAndReport_0 :
    let s := rq (reqFlaskBind 9 false 100 50)
    Rules.due s h0 (reqFlaskBind 9 false 100 50) ∧ s.active.bind.en = false ∧ (9 : ModuleId) ≠ s.self ∧
    regionBytes s.flask.regions ≤ 100 * 65536 ∧ s.placeAreas (100 * 65536) (50 * 65536) ≠ none := by decide +kernel
/-- An image as Table 16-2 lays it out, without a body. -/
def formed : List Byte :=
  leBytes 4 0x4D46574B ++ leBytes 4 1 ++ leBytes 4 9 ++ leBytes 4 0 ++ leBytes 8 3 ++ leBytes 4 0 ++ leBytes 4 2 ++ List.replicate 4064 0
def keyed (x : Fuses) : Fuses := { x with rkd := x.rkd.set 0 7 }
/-- Digests and signature verification are free values of Config: with the digests of the image in place and a verification that
succeeds, the image verifies. -/
theorem formed_verifies (f : Fuses) (hs : f.svn ≤ 9) (hr : f.revoked.getLsbD 0 = false)
    (h1 : Config.sha384 (span formed 0x100 0x160) = 7) (h2 : Config.sha384 [] = 0)
    (h3 : Config.ecdsaVerify (fieldAt 96 formed 0x100) (span formed 0 0x160) (fieldAt 96 formed 0x160) = true) :
    (keyed f).verifies formed = true := by
  have e1 : imageFormed formed = true := by decide +kernel
  have e2 : imgSlot formed = 0 := by decide +kernel
  have e3 : imgSvn formed = 9 := by decide +kernel
  have e4 : formed.drop 4096 = [] := by decide +kernel
  have e5 : fieldAt 48 formed 0x20 = 0 := by decide +kernel
  have e6 : Fin.ofNat 4 (imgSlot formed) = 0 := by decide +kernel
  have e7 : (keyed f).rkd[Fin.ofNat 4 (imgSlot formed)] = 7 := by
    simp only [e6]; simp [keyed]
  unfold Fuses.verifies
  rw [e7, e1, h1, h3, e4, e5, h2]
  simpa [e2, e3, keyed, hs] using hr
theorem witness_FirmwareIsStagedVerifiedAndActivated_3_0 (h1 : Config.sha384 (span formed 0x100 0x160) = 7)
    (h2 : Config.sha384 [] = 0)
    (h3 : Config.ecdsaVerify (fieldAt 96 formed 0x100) (span formed 0 0x160) (fieldAt 96 formed 0x160) = true) :
    let s := mapsec (asks up .bmc (reqAction 0x81 3 [])) (fun x => { x with fuses := keyed x.fuses, images := { x.images with staged := formed } })
    Rules.running s .bmc (reqAction 0x81 3 []) ∧ Rules.mayUpdate s ∧ s.sec.fuses.verifies s.sec.images.staged = true :=
  ⟨by decide +kernel, by decide +kernel, formed_verifies _ (by decide +kernel) (by decide +kernel) h1 h2 h3⟩
theorem witness_FirmwareIsStagedVerifiedAndActivated_5 : up.sec.images.running[(0 : Fin 2)] = some 0 := by decide +kernel
theorem witness_PldmUpdatesAndMonitors_6_0 (h1 : Config.sha384 (span formed 0x100 0x160) = 7) (h2 : Config.sha384 [] = 0)
    (h3 : Config.ecdsaVerify (fieldAt 96 formed 0x100) (span formed 0 0x160) (fieldAt 96 formed 0x160) = true) :
    let s := mapsec up (fun y => { y with upd := .verify, updData := formed, fuses := keyed y.fuses })
    s.sec.upd = .verify ∧ s.sec.fuses.verifies s.sec.updData = true :=
  ⟨rfl, formed_verifies _ (by decide +kernel) (by decide +kernel) h1 h2 h3⟩
theorem witness_ExceptionsAreRaisedAndTaken_0 :
    handleable 0x08 = true ∧ ((seCore.mapTh 1 (fun h => { h with x := { h.x with vec := 0x101 } })).th 1).x.vec.getLsbD 0 = true ∧
    ((seCore.mapTh 1 (fun h => { h with x := { h.x with vec := 0x101 } })).th 1).x.exc = false ∧
    (seCore.th 1).x.vec.getLsbD 0 = false ∧ (0 : Fin 4) ≠ 1 := by decide +kernel
theorem witness_ResetHoldsTheStatedValues_3 : (1 : Fin 4) ≠ 0 := by decide
theorem witness_StepsKeepMemoriesCanonical : State.reset.canonical = true ∧ ∃ s', step State.reset = .next s' :=
  ⟨by decide +kernel, _, rfl⟩
theorem witness_FusesAreOnlyBlown :
    let s := mapsec State.reset (fun x => { x with fuses := { x.fuses with revoked := 1, decom := 1, secret := 5 } })
    (∃ s', exec (.mirrorStatus h0) s = .next s') ∧ s.sec.fuses.revoked.getLsbD 0 = true ∧ s.sec.fuses.decom ≠ 0 ∧
    s.sec.fuses.decom.getLsbD 0 = true ∧ s.sec.fuses.secret.getLsbD 2 = true :=
  ⟨⟨_, rfl⟩, by decide +kernel, by decide +kernel, by decide +kernel, by decide +kernel⟩
theorem witness_IntegerInstructionsChangeNothingElse :
    let w := sw 1 2 0 40 41 0 9
    Rules.alu (.add s5 w) = some (s5, w, form3 w 1) ∧ se.issues s5 (form3 w 1) w = true ∧ (se.core s5.core).dbg.attached = false ∧
    (∃ s', exec (.add s5 w) se = .next s') ∧ (8191 : CoreId) ≠ s5.core ∧ (3 : Fin 4) ≠ s5.thread ∧
    (∀ p n, (se.ops s5 (form3 w 1) w).d.dest = .mem p n → 64 < p ∨ p + n ≤ 64) ∧
    (se.ops s5 (form3 w 1) w).d.dest ≠ .areg 7 ∧ (∀ p ∈ (se.ops s5 (form3 w 1) w).all, ∀ k, p.2.inc ≠ some (7, k)) ∧
    ∀ k, (se.ops s5 (form3 w 1) w).d.dest ≠ .special k := by
  have hd : (se.ops s5 (form3 (sw 1 2 0 40 41 0 9) 1) (sw 1 2 0 40 41 0 9)).d.dest = .areg 0 := by decide +kernel
  have hi : ∀ p ∈ (se.ops s5 (form3 (sw 1 2 0 40 41 0 9) 1) (sw 1 2 0 40 41 0 9)).all, p.2.inc = none := by decide +kernel
  refine ⟨rfl, by decide +kernel, by decide +kernel, ⟨_, rfl⟩, by decide +kernel, by decide +kernel, ?_, ?_, ?_, ?_⟩
  · intro p n h; rw [hd] at h; cases h
  · rw [hd]; decide
  · intro p hp k h; rw [hi p hp] at h; cases h
  · intro k h; rw [hd] at h; cases h
theorem witness_ShortFormatsHaveOneNaNAndOneZero :
    ((Ty.h8p = .h8p ∧ 8 = 8 ∧ 3 = 3 ∧ (7 : Int) = 7) ∧ 0x7F < 2 ^ 8) ∧ 0x7F ≠ 2 ^ (8 - 1) := by decide
theorem witness_RunningMaximaFollowTheElements :
    (0x4214CCCD : Word).toNat ≤ 0x7F800000 ∧ 0x7F < 2 ^ Ty.h8p.width ∧ dec32 0x7FC00000 = .nan ∧ dec32 0x7F800000 = .inf false ∧
    (∃ n m e, dec32 (toB32 .h8p 0x7F 3).1 = .fin n m e) ∧ ∃ v, Rules.value (dec32 (0x4214CCCD : Word).toNat) = some v :=
  ⟨by decide +kernel, by decide +kernel, by decide +kernel, by decide +kernel, ⟨_, _, _, by rfl⟩, ⟨_, by rfl⟩⟩

end PartX

end Sys2Proof.Tests
end

section
/-! PROOFS. CORE_COUNT, CORE_ID and the numbers that are assigned (R5). -/

namespace Sys2Proof.Machine

/-- A CORE_ID is assigned when its index is one of the grade's and the core map of its die has an entry for it. -/
theorem State.assigned_iff (s : State) (id : CoreId) :
    s.assigned id = true ↔
      id.toNat % 256 < perDie s.ident.code ∧ ∃ x ∈ (s.coreMap (id.toNat / 256)).remap, x.1 = id.toNat % 256 := by
  simp [State.assigned, State.position]

/-- The block after a reset of grade S, with the entry of logical index 0 of C-die 0 in force written to VALID 0, as a write of
that REMAP register does to a configuration set (R303, Table 10-6). -/
def unmappedFirstCore : State :=
  { State.reset with active := CfgReg.put 256 ConfigSet.default (.remap 0 0) 0 }

/-- Its set in force is what CFG_WRITE_SHADOW makes of the default set by one word 0 at offset 0 of block 1, the REMAP register of C-die 0
(R467); a swap brings it into force. -/
theorem shadowWrite_unmaps_firstCore :
    shadowWrite .s3 ConfigSet.default 1 [0] 0 12 = .inl unmappedFirstCore.active := by decide +kernel

theorem unmappedFirstCore_code : unmappedFirstCore.ident.code = .s3 := rfl

/-- No entry of the core map of C-die 0 is for index 0. -/
theorem unmappedFirstCore_not_assigned : ¬ unmappedFirstCore.assigned 0 = true := by
  rw [State.assigned_iff]
  rintro ⟨-, x, hx, h0⟩
  have hmap : (unmappedFirstCore.coreMap 0).remap = tdel (CoreMap.raster 256).remap 0 := rfl
  have hne : x.1 ≠ 0 := by
    have hx' : x ∈ tdel (CoreMap.raster 256).remap 0 := hmap ▸ hx
    simpa using (List.mem_filter.mp hx').2
  exact hne h0

/-- Refutes O60: a block of grade S whose core map in force has no valid entry for index 0 of C-die 0 does not assign CORE_ID 0, while the
statement claims, of every state, that grade S assigns every CORE_ID. -/
theorem not_coreNumbersFollowTheGrade : ¬ Obligations.CoreNumbersFollowTheGrade := by
  unfold Obligations.CoreNumbersFollowTheGrade
  intro h
  obtain ⟨-, -, -, -, hassigned⟩ := h unmappedFirstCore 0 0
  rw [unmappedFirstCore_code] at hassigned
  exact unmappedFirstCore_not_assigned (hassigned.mpr trivial)

end Sys2Proof.Machine
end

section
/-! PROOFS. What the host's accesses to BAR0, a doorbell and the request behind it do, and what reaches the other mailboxes
(R447 to R459, Table 15-4). -/

namespace Sys2Proof.Machine

/-! ### Words of a mailbox -/

theorem tget_putEntry_same (t : Table Nat) (k v : Nat) : tget (putEntry t k v) 0 k = v := by
  unfold putEntry
  split
  · next h => rw [tget_tdel_same, h]
  · exact tget_tset_same t 0 v k

theorem tget_putEntry_other (t : Table Nat) (k v j : Nat) (h : j ≠ k) : tget (putEntry t k v) 0 j = tget t 0 j := by
  unfold putEntry
  split
  · exact tget_tdel_other t 0 k j h
  · exact tget_tset_other t 0 v k j h

/-- A word at an offset that the master writes is the one that it wrote there. -/
theorem Mailbox.word_of_masterWrites (b : Mailbox) (o : Nat) (h : masterWrites o = true) : b.word o = tget b.area 0 (o / 4) := by
  rw [Mailbox.word, if_pos h]

/-- Words written into a table from an index upward. -/
def putWords (t : Table Nat) (o : Nat) (l : List Nat) : Table Nat :=
  (List.range l.length).foldl (fun t i => putEntry t (o + i) (l.getD i 0)) t

theorem tget_putWords (t : Table Nat) (o : Nat) (l : List Nat) (k : Nat) :
    tget (putWords t o l) 0 k = if o ≤ k ∧ k < o + l.length then l.getD (k - o) 0 else tget t 0 k := by
  have key : ∀ m, tget ((List.range m).foldl (fun t i => putEntry t (o + i) (l.getD i 0)) t) 0 k =
      if o ≤ k ∧ k < o + m then l.getD (k - o) 0 else tget t 0 k := by
    intro m
    induction m with
    | zero => rw [if_neg (by omega)]; rfl
    | succ m ih =>
      rw [List.range_succ, List.foldl_append, List.foldl_cons, List.foldl_nil]
      by_cases hk : k = o + m
      · rw [hk, tget_putEntry_same, if_pos (by omega), Nat.add_sub_cancel_left]
      · rw [tget_putEntry_other _ _ _ _ hk, ih]
        exact if_congr (by omega) rfl rfl
  exact key l.length

theorem tget_putWords_inside (t : Table Nat) (o : Nat) (l : List Nat) (i : Nat) (h : i < l.length) :
    tget (putWords t o l) 0 (o + i) = l.getD i 0 := by
  rw [tget_putWords, if_pos (by omega), Nat.add_sub_cancel_left]

theorem tget_putWords_below (t : Table Nat) (o : Nat) (l : List Nat) (k : Nat) (h : k < o) :
    tget (putWords t o l) 0 k = tget t 0 k := by
  rw [tget_putWords, if_neg (by omega)]

/-- A little-endian number gives back each of its bytes. -/
theorem ofNat_leNat_div (l : List Byte) (i : Nat) : BitVec.ofNat 8 (leNat l / 256 ^ i) = byteAt l i := by
  induction l generalizing i with
  | nil => simp [leNat, byteAt]
  | cons b l ih =>
    have hb := b.isLt
    cases i with
    | zero =>
      apply BitVec.eq_of_toNat_eq
      simp only [leNat, byteAt, List.getD_cons_zero, BitVec.toNat_ofNat]
      omega
    | succ i =>
      have hdiv : leNat (b :: l) / 256 ^ (i + 1) = leNat l / 256 ^ i := by
        rw [Nat.pow_succ', ← Nat.div_div_eq_div_mul, leNat]
        congr 1
        omega
      rw [hdiv, ih]
      rfl

/-- Byte `k` of a list stands in its word `k / 4`. -/
theorem ofNat_word32At_div (l : List Byte) (k : Nat) :
    BitVec.ofNat 8 (word32At l (4 * (k / 4)) / 256 ^ (k % 4)) = byteAt l k := by
  have hr : k % 4 < 4 := Nat.mod_lt k (by decide)
  rw [word32At, ofNat_leNat_div]
  simp only [byteAt, List.getD_eq_getElem?_getD, List.getElem?_take, List.getElem?_drop, if_pos hr, Nat.div_add_mod]

/-! ### The request behind a doorbell -/

/-- The words of a request's header (Table 15-5). -/
def headWords (r : MbRequest) : List Nat :=
  [r.ver.toNat * 65536 + r.opc.toNat, r.rid.toNat, r.reqlen.toNat, r.job.toNat, r.tlim.toNat]

/-- The words of a request's payload. -/
def dataWords (r : MbRequest) : List Nat :=
  (List.range (ceilDiv r.payload.length 4)).map (fun i => word32At r.payload (4 * i))

/-- A mailbox into which its master has written a request holds its header from word 0, and its payload from word 16. -/
theorem Mailbox.written_some (b : Mailbox) (r : MbRequest) :
    b.written (some r) = { b with area := putWords (putWords b.area 0 (headWords r)) 16 (dataWords r), cores := r.cores } := rfl

theorem Mailbox.written_head (b : Mailbox) (r : MbRequest) (i : Nat) (h : i < 5) :
    tget (b.written (some r)).area 0 i = (headWords r).getD i 0 := by
  have hi := tget_putWords_inside b.area 0 (headWords r) i h
  rw [Nat.zero_add] at hi
  rw [Mailbox.written_some]
  simp only [tget_putWords_below _ 16 _ i (by omega), hi]

theorem Mailbox.written_data (b : Mailbox) (r : MbRequest) (i : Nat) (h : 4 * i < r.payload.length) :
    tget (b.written (some r)).area 0 (16 + i) = word32At r.payload (4 * i) := by
  have hi : i < ceilDiv r.payload.length 4 := by unfold ceilDiv; omega
  have hl : i < (dataWords r).length := by simpa [dataWords] using hi
  rw [Mailbox.written_some]
  simp only [tget_putWords_inside _ 16 _ i hl]
  simp [dataWords, hi]

theorem Mailbox.written_payload (b : Mailbox) (r : MbRequest) (h : r.payload.length = r.reqlen.toNat) :
    ((b.written (some r)).snapshot).payload = r.payload := by
  have hlen : tget (b.written (some r)).area 0 2 % 4096 = r.payload.length := by
    have h2 := b.written_head r 2 (by decide)
    have hq := r.reqlen.isLt
    rw [h2, h]
    exact Nat.mod_eq_of_lt hq
  apply List.ext_getElem
  · simp [Mailbox.snapshot, hlen]
  · intro k hk hk'
    have hw := b.written_data r (k / 4) (by omega)
    simp only [Mailbox.snapshot, List.getElem_map, List.getElem_range, hw, ofNat_word32At_div]
    simp [byteAt, hk']

/-- The words of a mailbox whose master has written a request. -/
theorem Mailbox.words_of_written {b c : Mailbox} {r : MbRequest} (ha : b.area = (c.written (some r)).area) :
    b.word 0 = r.ver.toNat * 65536 + r.opc.toNat ∧ b.word 4 = r.rid.toNat ∧ b.word 8 = r.reqlen.toNat ∧
      ∀ k, 4 * k < r.payload.length → k < 1008 → b.word (0x40 + 4 * k) = word32At r.payload (4 * k) := by
  have hw : ∀ o, masterWrites o = true → b.word o = tget (c.written (some r)).area 0 (o / 4) := fun o ho => by
    rw [Mailbox.word_of_masterWrites b o ho, ha]
  refine ⟨(hw 0 rfl).trans (c.written_head r 0 (by decide)), (hw 4 rfl).trans (c.written_head r 1 (by decide)),
    (hw 8 rfl).trans (c.written_head r 2 (by decide)), fun k hk hk' => ?_⟩
  have hm : masterWrites (0x40 + 4 * k) = true := by simp [masterWrites]; omega
  have hd : (0x40 + 4 * k) / 4 = 16 + k := by omega
  rw [hw _ hm, hd, c.written_data r k hk]

/-- The snapshot of a mailbox into which a request has been written is that request (R450). -/
theorem Mailbox.snapshot_written (b : Mailbox) (r : MbRequest) (h : r.payload.length = r.reqlen.toNat) :
    (b.written (some r)).snapshot = { b with
      area := (b.written (some r)).area, cores := r.cores, ver := r.ver, opc := r.opc, rid := r.rid, job := r.job
      tlim := r.tlim, payload := r.payload } := by
  have hp := b.written_payload r h
  have hv := r.ver.isLt
  have ho := r.opc.isLt
  have h0 : tget (b.written (some r)).area 0 0 = r.ver.toNat * 65536 + r.opc.toNat := b.written_head r 0 (by decide)
  have h1 : tget (b.written (some r)).area 0 1 = r.rid.toNat := b.written_head r 1 (by decide)
  have h3 : tget (b.written (some r)).area 0 3 = r.job.toNat := b.written_head r 3 (by decide)
  have h4 : tget (b.written (some r)).area 0 4 = r.tlim.toNat := b.written_head r 4 (by decide)
  have hver : BitVec.ofNat 8 ((r.ver.toNat * 65536 + r.opc.toNat) / 65536) = r.ver := by
    apply BitVec.eq_of_toNat_eq
    rw [BitVec.toNat_ofNat]
    omega
  have hopc : BitVec.ofNat 16 (r.ver.toNat * 65536 + r.opc.toNat) = r.opc := by
    apply BitVec.eq_of_toNat_eq
    rw [BitVec.toNat_ofNat]
    omega
  simp only [Mailbox.snapshot] at hp ⊢
  rw [hp]
  simp only [h0, h1, h3, h4, hver, hopc, BitVec.ofNat_toNat, BitVec.setWidth_eq]
  rfl

/-! ### The host's accesses -/

@[simp] theorem Mailbox.readOnce_st (b : Mailbox) : b.readOnce.st = b.st := by
  unfold Mailbox.readOnce; split <;> rfl

@[simp] theorem Mailbox.putWord_st (b : Mailbox) (o : Nat) (v : Word) : (b.putWord o v).st = b.st := by
  unfold Mailbox.putWord; split <;> rfl

/-- A mailbox replaced by one in its state leaves the state of every mailbox. -/
theorem boxes_set_st (bs : Vector Mailbox 8) (n : Fin 8) (b : Mailbox) (hb : b.st = (bs[n]).st) (k : Fin 8) :
    ((bs.set n b)[k]).st = (bs[k]).st := by
  by_cases h : n.val = k.val
  · obtain rfl := Fin.ext h
    simpa using hb
  · simp [h]

/-- What an access of the host to BAR0 may change: its interface, and in a mailbox not its state. -/
def State.Accessed (s t : State) : Prop :=
  ∃ bs h, t = { s with boxes := bs, host := h } ∧ ∀ k : Fin 8, (bs[k]).st = (s.boxes[k]).st

theorem State.Accessed.host (s : State) (h : HostIf) : s.Accessed { s with host := h } :=
  ⟨s.boxes, h, rfl, fun _ => rfl⟩

theorem State.Accessed.box (s : State) (n : Fin 8) (b : Mailbox) (hb : b.st = (s.boxes[n]).st) :
    s.Accessed { s with boxes := s.boxes.set n b } :=
  ⟨_, s.host, rfl, boxes_set_st s.boxes n b hb⟩

theorem State.Accessed.trans {s t u : State} (h : s.Accessed t) (k : t.Accessed u) : s.Accessed u := by
  obtain ⟨bs, h, rfl, hs⟩ := h
  obtain ⟨cs, g, rfl, gs⟩ := k
  exact ⟨cs, g, rfl, fun n => (gs n).trans (hs n)⟩

theorem State.Accessed.mp {s t : State} (h : s.Accessed t) : t.mp = s.mp := by
  obtain ⟨bs, h, rfl, -⟩ := h; rfl

theorem State.Accessed.now {s t : State} (h : s.Accessed t) : t.now = s.now := by
  obtain ⟨bs, h, rfl, -⟩ := h; rfl

theorem State.Accessed.busy {s t : State} (h : s.Accessed t) (n : Fin 8) : (t.boxes[n]).busy = (s.boxes[n]).busy := by
  obtain ⟨bs, h, rfl, hst⟩ := h
  simp only [Mailbox.busy, hst]

theorem State.bar0Effect_accessed (s : State) (o : Nat) : s.Accessed (s.bar0Effect o) := by
  simp only [State.bar0Effect]
  split_ifs
  · exact .box s _ _ (Mailbox.readOnce_st _)
  · exact .host s s.host
  · exact .host s _
  · exact .host s _
  · exact .host s _
  · exact .host s s.host

theorem State.bar0Write_accessed (s : State) (hi : Fin 2) (o : Nat) (v : Word) : s.Accessed (s.bar0Write hi o v) := by
  unfold State.bar0Write
  split_ifs
  · exact .box s _ _ (Mailbox.putWord_st _ _ _)
  · exact .host s _
  · exact .host s _
  · exact .host s s.host

theorem State.hostAccess_accessed (hi : Fin 2) (s : State) (a : HostAccess) : s.Accessed (s.hostAccess hi a) := by
  cases a with
  | read off => exact (s.bar0Effect_accessed _).trans (.host _ _)
  | write off v => exact s.bar0Write_accessed hi _ v
  | mbdone v => exact .host s _
  | mbien v => exact .host s _
  | dberr v => exact .host s _
  | evrp v => exact .host s _
  | evctl v => exact .host s _
  | mgrxrp v => exact .host s _

theorem State.hostAccesses_accessed (hi : Fin 2) (regs : List HostAccess) (s : State) :
    s.Accessed (regs.foldl (State.hostAccess hi) s) := by
  induction regs generalizing s with
  | nil => exact .host s s.host
  | cons a regs ih => exact (s.hostAccess_accessed hi a).trans (ih _)

/-! ### The doorbell -/

@[simp] theorem State.takeRequest_box_same (s : State) (src : Source) (b : Mailbox) :
    (s.takeRequest src b).box src = { b with
      st := .queued, begun := false, seq := s.mp.seqLast + 1, arrival := s.now, status := 0, detail := 0, rdcnt := 0, rsp := []
      elapsed := 0 } :=
  State.setBox_box_same _ src _

theorem State.takeRequest_box_other (s : State) (src x : Source) (b : Mailbox) (h : x ≠ src) :
    (s.takeRequest src b).box x = s.box x := by
  rw [State.takeRequest, State.setBox_box_other _ _ _ _ h]
  cases x <;> rfl

@[simp] theorem State.takeRequest_mp (s : State) (src : Source) (b : Mailbox) :
    (s.takeRequest src b).mp = { s.mp with seqLast := s.mp.seqLast + 1 } := State.setBox_mp _ src _

@[simp] theorem State.takeRequest_host (s : State) (src : Source) (b : Mailbox) : (s.takeRequest src b).host = s.host :=
  State.setBox_host _ src _

/-- Mailbox `n` is rung: it takes the request that its master has written, or its DBERR bit is set (R450). -/
def State.ringBox (hi : Fin 2) (reqs : List MbRequest) (s : State) (n : Fin 8) : State :=
  if (s.boxes[n]).busy then Rules.withHost s { s.host with dberr := s.host.dberr ||| Rules.boxBit n }
  else s.takeRequest (.host n) { ((s.boxes[n]).written (reqs.find? (fun r => decide (r.mailbox = n)))).snapshot with hi := hi }

theorem State.ringBox_free {hi : Fin 2} (reqs : List MbRequest) (s : State) {n : Fin 8} (h : (s.boxes[n]).busy = false) :
    s.ringBox hi reqs n = s.takeRequest (.host n)
      { ((s.boxes[n]).written (reqs.find? (fun r => decide (r.mailbox = n)))).snapshot with hi := hi } := by
  rw [State.ringBox, if_neg (by rw [h]; decide)]

theorem State.ringBox_busy {hi : Fin 2} (reqs : List MbRequest) (s : State) {n : Fin 8} (h : (s.boxes[n]).busy = true) :
    s.ringBox hi reqs n = Rules.withHost s { s.host with dberr := s.host.dberr ||| Rules.boxBit n } := by
  rw [State.ringBox, if_pos h]

theorem find_own (r : MbRequest) : [r].find? (fun x => decide (x.mailbox = r.mailbox)) = some r := by simp

/-- A doorbell rings, after the accesses before it, the mailboxes whose bits are set. -/
theorem exec_mailboxDoorbell {hi : Fin 2} {bits : BitVec 8} {reqs : List MbRequest} {regs : List HostAccess} {s : State}
    (hup : s.hostUp hi = true) :
    exec (.mailboxDoorbell hi bits reqs regs) s =
      .next (((List.finRange 8).filter (fun n : Fin 8 => bits.getLsbD n)).foldl (State.ringBox hi reqs) (regs.foldl (State.hostAccess hi) s)) := by
  show execMailboxDoorbell hi bits reqs s regs = _
  rw [execMailboxDoorbell, hup, List.foldl_filter]
  have hone : (fun (s : State) (n : Fin 8) =>
      if !bits.getLsbD n then s
      else if (s.boxes[n]).busy then { s with host := { s.host with dberr := s.host.dberr ||| BitVec.ofNat 8 (2 ^ n.val) } }
      else s.takeRequest (.host n)
        { ((s.boxes[n]).written (reqs.find? (fun r => decide (r.mailbox = n)))).snapshot with hi := hi }) =
      fun (s : State) (n : Fin 8) => if bits.getLsbD n then s.ringBox hi reqs n else s := by
    funext s n
    cases bits.getLsbD n <;> rfl
  rw [hone]
  rfl

theorem filter_boxBit : ∀ n : Fin 8, (List.finRange 8).filter (fun k : Fin 8 => (Rules.boxBit n).getLsbD k) = [n] := by decide

/-- A doorbell of one mailbox rings it. -/
theorem exec_mailboxDoorbell_one {hi : Fin 2} {n : Fin 8} {reqs : List MbRequest} {regs : List HostAccess} {s : State}
    (hup : s.hostUp hi = true) :
    exec (.mailboxDoorbell hi (Rules.boxBit n) reqs regs) s = .next ((regs.foldl (State.hostAccess hi) s).ringBox hi reqs n) := by
  rw [exec_mailboxDoorbell hup, filter_boxBit]
  rfl

/-- Without a doorbell the accesses alone act. -/
theorem exec_mailboxDoorbell_none {hi : Fin 2} {regs : List HostAccess} {s : State} (hup : s.hostUp hi = true) :
    exec (.mailboxDoorbell hi 0 [] regs) s = .next (regs.foldl (State.hostAccess hi) s) := by
  have hnone : (List.finRange 8).filter (fun k : Fin 8 => (0 : BitVec 8).getLsbD k) = [] := by decide
  rw [exec_mailboxDoorbell hup, hnone]
  rfl

/-- A doorbell puts the request that the master of a free mailbox has written into it, whatever accesses come before. -/
theorem doorbell_puts_request (hi : Fin 2) (n : Fin 8) (regs : List HostAccess) (r : MbRequest) (s : State)
    (hup : s.hostUp hi = true) (hfree : (s.boxes[n]).busy = false) (hn : r.mailbox = n)
    (hlen : r.payload.length = r.reqlen.toNat) :
    ∃ s' a, exec (.mailboxDoorbell hi (Rules.boxBit n) [r] regs) s = .next s' ∧
      s'.boxes[n] = { s.boxes[n] with
        st := .queued, begun := false, ver := r.ver, opc := r.opc, rid := r.rid, job := r.job, tlim := r.tlim, payload := r.payload
        area := a, cores := r.cores, seq := s.mp.seqLast + 1, arrival := s.now, hi := hi
        status := 0, detail := 0, rdcnt := 0, rsp := [], elapsed := 0 } ∧
      (s'.boxes[n]).word 0 = r.ver.toNat * 65536 + r.opc.toNat ∧ (s'.boxes[n]).word 4 = r.rid.toNat ∧
      (s'.boxes[n]).word 8 = r.reqlen.toNat ∧
      (∀ k, 4 * k < r.payload.length → k < 1008 → (s'.boxes[n]).word (0x40 + 4 * k) = word32At r.payload (4 * k)) ∧
      s'.mp.seqLast = s.mp.seqLast + 1 ∧ s'.host = (regs.foldl (State.hostAccess hi) s).host ∧
      ∀ k : Fin 8, k ≠ n → s'.boxes[k] = (regs.foldl (State.hostAccess hi) s).boxes[k] := by
  subst hn
  have hacc := State.hostAccesses_accessed hi regs s
  generalize ht : regs.foldl (State.hostAccess hi) s = t at hacc ⊢
  have hbox := State.takeRequest_box_same t (.host r.mailbox) { ((t.boxes[r.mailbox]).written (some r)).snapshot with hi := hi }
  rw [exec_mailboxDoorbell_one hup, ht, State.ringBox_free _ _ ((hacc.busy _).trans hfree), find_own]
  obtain ⟨hw0, hw4, hw8, hdata⟩ := Mailbox.words_of_written (c := t.boxes[r.mailbox]) (r := r) ((congrArg Mailbox.area hbox).trans rfl)
  refine ⟨_, ((t.boxes[r.mailbox]).written (some r)).area, rfl, hbox.trans ?_, hw0, hw4, hw8, hdata, ?_,
    State.takeRequest_host _ _ _, fun k hk => State.takeRequest_box_other _ _ (.host k) _ (fun e => hk (Source.host.inj e))⟩
  · rw [Mailbox.snapshot_written _ r hlen, hacc.mp, hacc.now]
  · rw [State.takeRequest_mp, hacc.mp]

/-- A doorbell of a mailbox that is QUEUED or RUNNING sets its DBERR bit. -/
theorem doorbell_sets_dberr (hi : Fin 2) (n : Fin 8) (reqs : List MbRequest) (s : State) (hup : s.hostUp hi = true)
    (hbusy : (s.boxes[n]).busy = true) :
    exec (.mailboxDoorbell hi (Rules.boxBit n) reqs []) s =
      .next (Rules.withHost s { s.host with dberr := s.host.dberr ||| Rules.boxBit n }) := by
  rw [exec_mailboxDoorbell_one hup, List.foldl_nil, State.ringBox_busy _ _ hbusy]

/-! ### Words that the master of a mailbox writes -/

/-- An aligned offset of BAR0 in mailbox `n` is the one that its address names. -/
theorem boxWord_offset (n : Fin 8) (o : Nat) (h4 : o % 4 = 0) (ho : o < 0x2000) :
    (Rules.boxWord n o).toNat / 4 * 4 = 0x2000 * n.val + o := by
  have hn := n.isLt
  simp only [Rules.boxWord, BitVec.toNat_ofNat]
  omega

/-- Which mailbox an offset of BAR0 lies in, and where. -/
theorem boxOffset_split (n : Fin 8) (o : Nat) (ho : o < 0x2000) :
    0x2000 * n.val + o < 0x10000 ∧ Fin.ofNat 8 ((0x2000 * n.val + o) / 0x2000) = n ∧ (0x2000 * n.val + o) % 0x2000 = o := by
  have hn := n.isLt
  refine ⟨by omega, Fin.ext ?_, by omega⟩
  simp only [Fin.ofNat]
  omega

/-- A write of a word of a mailbox. -/
theorem State.hostAccess_write_boxWord (hi : Fin 2) (s : State) (n : Fin 8) (o : Nat) (v : Word) (h4 : o % 4 = 0)
    (ho : o < 0x2000) :
    s.hostAccess hi (.write (Rules.boxWord n o) v) = Rules.withBox s n ((s.boxes[n]).putWord o v) := by
  obtain ⟨hlt, hbox, hoff⟩ := boxOffset_split n o ho
  simp only [State.hostAccess, boxWord_offset n o h4 ho, State.bar0Write, if_pos hlt, hbox, hoff]
  rfl

/-- A read of a word of a mailbox other than RSTAT returns it, and does nothing else. -/
theorem State.hostAccess_read_boxWord (hi : Fin 2) (s : State) (n : Fin 8) (o : Nat) (h4 : o % 4 = 0) (ho : o < 0x2000)
    (hr : o ≠ 0x20) :
    s.hostAccess hi (.read (Rules.boxWord n o)) = Rules.withHost s { s.host with bar0 := BitVec.ofNat 32 ((s.boxes[n]).word o) } := by
  obtain ⟨hlt, hbox, hoff⟩ := boxOffset_split n o ho
  simp only [State.hostAccess, boxWord_offset n o h4 ho, State.bar0Read, State.bar0Effect, State.bar0Word, if_pos hlt, hbox, hoff,
    if_neg hr]
  rfl

theorem withBox_boxes_same (s : State) (n : Fin 8) (b : Mailbox) : (Rules.withBox s n b).boxes[n] = b := by
  simp [Rules.withBox]

/-- A mailbox put in its own place leaves the block as it is. -/
theorem withBox_self (s : State) (n : Fin 8) : Rules.withBox s n s.boxes[n] = s := by
  simp [Rules.withBox]

theorem Mailbox.putWord_of_masterWrites (b : Mailbox) (o : Nat) (v : Word) (h : masterWrites o = true) :
    b.putWord o v = { b with area := putEntry b.area (o / 4) v.toNat } := by
  rw [Mailbox.putWord, if_pos h]

theorem Mailbox.putWord_of_not_masterWrites (b : Mailbox) (o : Nat) (v : Word) (h : masterWrites o = false) :
    b.putWord o v = b := by
  rw [Mailbox.putWord, if_neg (by rw [h]; decide)]

/-- A word that the master writes reads back. -/
theorem Mailbox.word_putWord_same (b : Mailbox) (o : Nat) (v : Word) (h : masterWrites o = true) :
    (b.putWord o v).word o = v.toNat := by
  rw [Mailbox.word_of_masterWrites _ _ h, b.putWord_of_masterWrites o v h]
  exact tget_putEntry_same b.area (o / 4) v.toNat

/-- A word that the master writes leaves every other word. -/
theorem Mailbox.word_putWord_other (b : Mailbox) (o x : Nat) (v : Word) (h : o / 4 ≠ x / 4) :
    (b.putWord o v).word x = b.word x := by
  unfold Mailbox.putWord
  split
  · simp only [Mailbox.word, tget_putEntry_other _ _ _ _ h.symm]
    rfl
  · rfl

/-- The words that the master of a host mailbox writes keep what it wrote; the others ignore it (R453). -/
theorem masterWord_writes (hi : Fin 2) (n : Fin 8) (o : Nat) (v : BitVec 32) (s : State) (hup : s.hostUp hi = true)
    (h4 : o % 4 = 0) (ho : o < 0x2000) :
    (o < 0x20 ∨ (0x40 ≤ o ∧ o < 0x1000) →
      ∃ b : Mailbox, exec (.mailboxDoorbell hi 0 [] [.write (Rules.boxWord n o) v, .read (Rules.boxWord n o)]) s =
          .next (Rules.withHost (Rules.withBox s n b) { s.host with bar0 := v }) ∧
        b = { s.boxes[n] with area := b.area } ∧
        ∀ x, x ≠ o → x % 4 = 0 → b.word x = (s.boxes[n]).word x) ∧
    (0x20 ≤ o ∧ o < 0x40 ∨ 0x1000 ≤ o → exec (.mailboxDoorbell hi 0 [] [.write (Rules.boxWord n o) v]) s = .next s) := by
  constructor
  · intro hm
    have hw : masterWrites o = true := by simpa [masterWrites] using hm
    refine ⟨(s.boxes[n]).putWord o v, ?_, ?_, fun x hx hx4 => Mailbox.word_putWord_other _ o x v (by omega)⟩
    · rw [exec_mailboxDoorbell_none hup, List.foldl_cons, List.foldl_cons, List.foldl_nil,
        State.hostAccess_write_boxWord hi s n o v h4 ho, State.hostAccess_read_boxWord hi _ n o h4 ho (by omega),
        withBox_boxes_same, Mailbox.word_putWord_same _ o v hw, BitVec.ofNat_toNat, BitVec.setWidth_eq]
      rfl
    · rw [Mailbox.putWord_of_masterWrites _ o v hw]
  · intro hm
    have hw : masterWrites o = false := by simp [masterWrites]; omega
    rw [exec_mailboxDoorbell_none hup, List.foldl_cons, List.foldl_nil, State.hostAccess_write_boxWord hi s n o v h4 ho,
      Mailbox.putWord_of_not_masterWrites _ o v hw, withBox_self]

/-! ### Registers outside the mailboxes -/

/-- A read of EVLOST returns it and clears it. -/
theorem State.hostAccess_read_evlost (hi : Fin 2) (s : State) :
    s.hostAccess hi (.read 0x1200C) = Rules.withHost s { s.host with evlost := 0, bar0 := s.host.evlost } := by
  simp [State.hostAccess, State.bar0Read, State.bar0Effect, State.bar0Word, Rules.withHost]

/-- A read of B2ERR returns it and clears it. -/
theorem State.hostAccess_read_b2err (hi : Fin 2) (s : State) :
    s.hostAccess hi (.read 0x13004) = Rules.withHost s { s.host with b2err := 0, bar0 := s.host.b2err } := by
  simp [State.hostAccess, State.bar0Read, State.bar0Effect, State.bar0Word, Rules.withHost]

/-- A read of TIME_LO latches the high half of the time base. -/
theorem State.hostAccess_read_timeLo (hi : Fin 2) (s : State) :
    s.hostAccess hi (.read 0x11010) = Rules.withHost s { s.host with
      timeHi := BitVec.ofNat 32 (s.now / 2 ^ 32), bar0 := BitVec.ofNat 32 (s.now % 2 ^ 32) } := by
  simp [State.hostAccess, State.bar0Read, State.bar0Effect, State.bar0Word, Rules.withHost]

/-- A read of TIME_HI returns what was latched. -/
theorem State.hostAccess_read_timeHi (hi : Fin 2) (s : State) :
    s.hostAccess hi (.read 0x11014) = Rules.withHost s { s.host with bar0 := s.host.timeHi } := by
  simp [State.hostAccess, State.bar0Read, State.bar0Effect, State.bar0Word, Rules.withHost]

/-- RW fields are set, ones clear RW1C bits, and a read clears an RC count (Tables 0-3 and 15-4). -/
theorem registers_set_and_clear (hi : Fin 2) (a b v w x y : Word) (s : State) (hup : s.hostUp hi = true) :
    exec (.mailboxDoorbell hi 0 [] [.mbdone a, .dberr b, .mbien v, .evrp w, .evctl x, .mgrxrp y, .read 0x1200C, .read 0x13004]) s =
      .next (Rules.withHost s { s.host with
        mbdone := s.host.mbdone &&& ~~~(a.setWidth 8), dberr := s.host.dberr &&& ~~~(b.setWidth 8), mbien := v.setWidth 8
        evrp := w.setWidth 10, evIen := x.getLsbD 31, evNotice := x.getLsbD 2, evMin := x.setWidth 2, rxrp := y.setWidth 12
        evlost := 0, b2err := 0, bar0 := s.host.b2err }) := by
  rw [exec_mailboxDoorbell_none hup]
  simp only [List.foldl_cons, List.foldl_nil, State.hostAccess_read_evlost, State.hostAccess_read_b2err]
  simp only [State.hostAccess, Rules.withHost]

/-- TIME_HI returns the high half of the time base that a read of TIME_LO latched. -/
theorem timeHi_returns_latched (hi : Fin 2) (s : State) (hup : s.hostUp hi = true) :
    exec (.mailboxDoorbell hi 0 [] [.read 0x11010, .read 0x11014]) s =
      .next (Rules.withHost s { s.host with timeHi := BitVec.ofNat 32 (s.now / 2 ^ 32), bar0 := BitVec.ofNat 32 (s.now / 2 ^ 32) }) := by
  rw [exec_mailboxDoorbell_none hup, List.foldl_cons, List.foldl_cons, List.foldl_nil, State.hostAccess_read_timeLo,
    State.hostAccess_read_timeHi]
  rfl

end Sys2Proof.Machine
end

section
/-! PROOFS. How a command completes in its mailbox, and what the messages of managers, anchors and the BMC bring (R454 to R459). -/

namespace Sys2Proof.Machine

/-! ### Completion -/

/-- A steady step leaves a quantity through a whole fold. -/
theorem foldl_keeps {α β γ : Type} (g : α → γ) (f : α → β → α) (h : ∀ a b, g (f a b) = g a) (l : List β) (a : α) :
    g (l.foldl f a) = g a :=
  List.foldlRecOn (motive := fun x => g x = g a) l f rfl (fun b hb x _ => (h b x).trans hb)

@[simp] theorem State.sendResult_fm (s : State) (k : Fin 2) (rid : Word) (rdcnt : BitVec 16) (image : List Byte) :
    (s.sendResult k rid rdcnt image).fm = s.fm := by
  unfold State.sendResult
  split
  · rfl
  · refine foldl_keeps State.fm _ (fun s i => ?_) _ s
    rfl

@[simp] theorem State.answerManager_fm (s : State) (k : Fin 2) : (s.answerManager k).fm = s.fm := s.sendResult_fm k _ _ _

@[simp] theorem State.ringPut_fm (s : State) (r : Record) : (s.ringPut r).fm = s.fm := by
  simp only [State.ringPut]
  split_ifs <;> rfl

@[simp] theorem State.noticePut_fm (s : State) (r : Record) : (s.noticePut r).fm = s.fm := by
  unfold State.noticePut
  split
  · rfl
  · refine foldl_keeps State.fm _ (fun s k => ?_) _ s
    cases s.active.manager k <;> rfl

@[simp] theorem State.bmcPut_fm (s : State) (r : Record) : (s.bmcPut r).fm = s.fm := by
  unfold State.bmcPut
  split_ifs <;> rfl

@[simp] theorem State.logPut_fm (s : State) (x : Event) : (s.logPut x).fm = s.fm := by
  simp [State.logPut]

/-- A notice is logged, and no more. -/
theorem State.log_notice (s : State) (cause : BitVec 16) (job : Nat) (detail : List Word) :
    s.log (noticeEvent cause job detail) = s.logPut (noticeEvent cause job detail) := rfl

/-- The mailbox of a source whose command completes holds its result. -/
theorem State.complete_box_same (s : State) (src : Source) (st : Byte) (d : Nat) (rsp : List Byte) :
    (s.complete src st d rsp).box src = (s.box src).finish s.now st d rsp := by
  cases src with
  | bmc => rfl
  | fm k =>
    have hfm : (s.complete (.fm k) st d rsp).fm = (s.setBox (.fm k) ((s.box (.fm k)).finish s.now st d rsp)).fm := by
      simp [State.complete, State.log_notice]
    exact (congrArg (fun v => v[k]) hfm).trans (s.setBox_box_same (.fm k) _)
  | host n =>
    refine Eq.trans ?_ (s.setBox_box_same (.host n) _)
    exact either_branch (P := fun t : State => t.box (.host n) = (s.setBox (.host n) _).box (.host n)) rfl rfl

/-- A host's result sets its MBDONE bit. -/
theorem State.complete_mbdone (s : State) (n : Fin 8) (st : Byte) (d : Nat) (rsp : List Byte) :
    (s.complete (.host n) st d rsp).host.mbdone = s.host.mbdone ||| Rules.boxBit n :=
  either_branch (P := fun t : State => t.host.mbdone = s.host.mbdone ||| Rules.boxBit n) rfl rfl

theorem boxBit_getLsbD : ∀ n : Fin 8, (Rules.boxBit n).getLsbD n = true := by decide

/-- A completed command leaves its result in its mailbox, and a host's sets MBDONE (R454). -/
theorem complete_leaves_result (src : Source) (st : Byte) (d : Nat) (rsp : List Byte) (s : State) (hlen : rsp.length ≤ 4096) :
    ((s.complete src st d rsp).box src).st = .done ∧ ((s.complete src st d rsp).box src).status = st ∧
      ((s.complete src st d rsp).box src).detail = BitVec.ofNat 32 d ∧ ((s.complete src st d rsp).box src).rsp = rsp ∧
      ((s.complete src st d rsp).box src).rid = (s.box src).rid ∧
      ∀ n, src = .host n → (s.complete src st d rsp).host.mbdone.getLsbD n = true := by
  rw [s.complete_box_same src st d rsp]
  refine ⟨rfl, rfl, rfl, List.take_of_length_le hlen, rfl, ?_⟩
  rintro n rfl
  rw [State.complete_mbdone, BitVec.getLsbD_or, boxBit_getLsbD, Bool.or_true]

/-- A result read of a completed command counts, until the count is full (R455). -/
theorem Mailbox.readOnce_done (b : Mailbox) (hd : b.st = .done) (hc : b.rdcnt ≠ 0xFFFF) :
    b.readOnce = { b with rdcnt := b.rdcnt + 1 } := by
  rw [Mailbox.readOnce, if_pos hd, if_neg hc]

theorem resultRead_counts (n : Fin 8) (s : State) (hup : s.anyHostUp = true) (hd : (s.boxes[n]).st = .done)
    (hc : (s.boxes[n]).rdcnt ≠ 0xFFFF) :
    exec (.resultRead n) s = .next { s with boxes := s.boxes.set n { s.boxes[n] with rdcnt := (s.boxes[n]).rdcnt + 1 } } := by
  show execResultRead n s = _
  rw [execResultRead, if_pos hup, Mailbox.readOnce_done _ hd hc]

/-! ### Fragments of a manager's request -/

/-- A message from a module that is not the enabled manager is dropped. -/
theorem State.fragment_of_stranger {s : State} {m : ModuleId} {k : Fin 2} (h : s.active.manager k ≠ some m) (rid : Word)
    (frag nfrag : Nat) (x : List Byte) : s.fragment m k rid frag nfrag x = s.dropMgmt := by
  rw [State.fragment, if_pos h]

/-- A fragment that leaves its request incomplete waits with those of its RID, behind the others. -/
theorem State.fragment_waits {s : State} {m : ModuleId} {k : Fin 2} (h : s.active.manager k = some m) (rid : Word)
    {frag : Nat} (hf : frag < 2) (x : List Byte) (hother : ∀ f ∈ s.frags[k], f.rid ≠ rid) :
    s.fragment m k rid frag 2 x = { s with
      frags := s.frags.set k (s.frags[k] ++ [{ rid := rid, nfrag := 2, parts := [(frag, x)], at_ := s.now }]) } := by
  have hnone : s.frags[k].find? (fun f => decide (f.rid = rid ∧ f.nfrag = 2)) = none := by
    simpa using fun f hm he => absurd he (hother f hm)
  have hkeep : s.frags[k].filter (fun f => !decide (f.rid = rid ∧ f.nfrag = 2)) = s.frags[k] := by
    rw [List.filter_eq_self]
    intro f hm
    simp [hother f hm]
  simp only [State.fragment]
  rw [if_neg (fun hne => hne h), if_neg (by omega), hnone, hkeep]
  rfl

theorem fragment_of_two_waits (m : ModuleId) (k : Fin 2) (rid : BitVec 32) (frag : BitVec 8) (x : List Byte) (s : State)
    (hm : s.active.manager k = some m) (hf : frag.toNat < 2) :
    (s.frags[k] = [] → exec (.mgmtRequest m k rid frag 2 x) s = .next { s with
      frags := s.frags.set k [{ rid := rid, nfrag := 2, parts := [(frag.toNat, x)], at_ := s.now }] }) ∧
    (∀ f : Fragments, s.frags[k] = [f] → f.rid ≠ rid → exec (.mgmtRequest m k rid frag 2 x) s = .next { s with
      frags := s.frags.set k [f, { rid := rid, nfrag := 2, parts := [(frag.toNat, x)], at_ := s.now }] }) := by
  constructor
  · intro hnil
    have hw := State.fragment_waits hm rid hf x (by simp [hnil])
    rw [hnil] at hw
    exact congrArg Host.Outcome.next hw
  · intro f hone hne
    have hw := State.fragment_waits hm rid hf x (by simpa [hone] using hne)
    rw [hone] at hw
    exact congrArg Host.Outcome.next hw

theorem Mailbox.busy_of_free (b : Mailbox) (h : b.st = .free) : b.busy = false := by
  rw [Mailbox.busy, h]; rfl

/-- A complete request is taken by a free mailbox of a manager. -/
theorem State.managerRequest_free (s : State) (k : Fin 2) (image : List Byte) (h : s.fm[k].st = .free) :
    s.managerRequest k image = s.takeRequest (.fm k) (s.fm[k].ofImage image) := by
  simp only [State.managerRequest]
  rw [if_neg (fun hc => hc.1 h), if_neg (by rw [Mailbox.busy_of_free _ h]; decide)]

/-- A request in one fragment is taken at once by a free mailbox (R456). -/
theorem fragment_of_one_is_taken (m : ModuleId) (k : Fin 2) (rid : BitVec 32) (x : List Byte) (s : State)
    (hm : s.active.manager k = some m) (hnil : s.frags[k] = []) (hfree : s.fm[k].st = .free) :
    exec (.mgmtRequest m k rid 0 1 x) s = .next
      (State.takeRequest { s with frags := s.frags.set k [] } (.fm k) (s.fm[k].ofImage x)) := by
  have hreq : s.fragment m k rid 0 1 x = State.managerRequest { s with frags := s.frags.set k [] } k (x ++ []) := by
    simp only [State.fragment, hnil]
    rw [if_neg (fun hne => hne hm)]
    rfl
  show Host.Outcome.next (s.fragment m k rid 0 1 x) = _
  rw [hreq, List.append_nil]
  exact congrArg Host.Outcome.next (State.managerRequest_free _ k x hfree)

/-- Fragments without their rest are discarded 100 ms after the first of them came, the oldest first (R456). -/
theorem fragmentTimeout_discards (k : Fin 2) (f : Fragments) (s : State) :
    (s.frags[k] = [f] →
      exec (.fragmentTimeout k) s = .next { Rules.upTo s (f.at_ + 100000000) with frags := s.frags.set k [] }) ∧
    (∀ g : Fragments, s.frags[k] = [f, g] → f.at_ < g.at_ →
      exec (.fragmentTimeout k) s = .next { Rules.upTo s (f.at_ + 100000000) with frags := s.frags.set k [g] }) := by
  constructor
  · intro hone
    show execFragmentTimeout k s = _
    simp [execFragmentTimeout, hone, State.wait, Rules.upTo]
  · intro g htwo hlt
    show execFragmentTimeout k s = _
    simp [execFragmentTimeout, htwo, State.wait, Rules.upTo, List.min?, hlt, Nat.min_eq_left (Nat.le_of_lt hlt)]

/-- A RESULT_READ of the enabled manager is answered with the current command, and counts (R455). -/
theorem mgmtResultRead_answers (m : ModuleId) (k : Fin 2) (rid : BitVec 32) (s : State) (hm : s.active.manager k = some m) :
    exec (.mgmtResultRead m k rid) s = .next ((s.setBox (.fm k) (s.fm[k]).readOnce).answerManager k) := by
  show Host.Outcome.next (s.resultRead m k) = _
  rw [State.resultRead, if_neg (fun hne => hne hm)]

/-! ### The receive ring of an anchor -/

/-- An anchor with room in its receive ring stores a message there. -/
theorem State.storeMessage_stores (s : State) (m : LinkMsg) (ha : s.active.anchor = true) (hroom : s.host.rxwp + 1 ≠ s.host.rxrp) :
    tget (s.storeMessage m).host.rx m s.host.rxwp.toNat = m ∧ (s.storeMessage m).host.rxwp = s.host.rxwp + 1 := by
  have hs : s.storeMessage m =
      State.signalBoth { s with host := { s.host with rx := tset s.host.rx s.host.rxwp.toNat m, rxwp := s.host.rxwp + 1 } } 9 := by
    simp only [State.storeMessage]
    rw [if_neg (by simp [ha]), if_neg hroom]
  rw [hs]
  exact ⟨tget_tset_same _ m m _, rfl⟩

/-- An anchor stores RESULT and NOTICE messages (R457). -/
theorem anchor_stores (m : LinkMsg) (s : State) (ht : m.type = 5) (ha : s.active.anchor = true)
    (hroom : s.host.rxwp + 1 ≠ s.host.rxrp) :
    (m.subop = 2 →
      ∃ s', exec (.mgmtResult m) s = .next s' ∧ tget s'.host.rx m s.host.rxwp.toNat = m ∧ s'.host.rxwp = s.host.rxwp + 1) ∧
    (m.subop = 3 →
      ∃ s', exec (.mgmtNotice m) s = .next s' ∧ tget s'.host.rx m s.host.rxwp.toNat = m ∧ s'.host.rxwp = s.host.rxwp + 1) := by
  have hstore := s.storeMessage_stores m ha hroom
  refine ⟨fun hsub => ⟨s.storeMessage m, ?_, hstore⟩, fun hsub => ⟨s.storeMessage m, ?_, hstore⟩⟩
  · show execMgmtResult m s = _
    rw [execMgmtResult, if_pos ⟨ht, hsub⟩]
  · show execMgmtNotice m s = _
    rw [execMgmtNotice, if_pos ⟨ht, hsub⟩]

/-! ### Messages of the BMC -/

/-- A request of the BMC is taken by its free mailbox (R458). -/
theorem bmcMessage_requests (x : List Byte) (s : State) (hup : s.board.stage ≠ .held) (hfree : s.bmc.st = .free)
    (hmin : 64 ≤ x.length) (hmax : x.length ≤ 4096) :
    exec (.bmcMessage 0 x) s = .next (s.takeRequest .bmc (s.bmc.ofImage x)) := by
  have hbusy := Mailbox.busy_of_free s.bmc hfree
  show execBmcMessage 0 x s [] = _
  simp [execBmcMessage, hup, hfree, hbusy, Nat.not_lt.mpr hmin, Nat.not_lt.mpr hmax]

/-- A message of KIND 1 reads the result. -/
theorem bmcMessage_reads (x : List Byte) (s : State) (hup : s.board.stage ≠ .held) :
    exec (.bmcMessage 1 x) s = .next { s with
      bmc := s.bmc.readOnce
      mp := { s.mp with bmcOut := s.mp.bmcOut ++ [[0x7E, BitVec.ofNat 8 (Config.pciVendor.toNat / 256), BitVec.ofNat 8 Config.pciVendor.toNat, 2] ++
        s.bmc.readOnce.image] } } := by
  show execBmcMessage 1 x s [] = _
  simp [execBmcMessage, hup, State.bmcSend, mctpHead]

/-- Packets of the stated lengths, whose message begins with the head of this mailbox and a KIND, assemble to it. -/
theorem assembled_of_head {ps : List (List Byte)} {k : Byte} {x : List Byte} (hfull : ∀ p ∈ ps.dropLast, p.length = 64)
    (hmax : ∀ p ∈ ps, p.length ≤ 64) (hlen : ps.flatten.length ≤ 4101) (hmsg : ps.flatten = mctpHead ++ k :: x) :
    assembled ps = some (k, x) := by
  have h4 : 4 ≤ ps.flatten.length := by rw [hmsg]; simp [mctpHead]
  have htake : ps.flatten.take 3 = mctpHead := by rw [hmsg]; rfl
  simp only [assembled]
  rw [if_pos]
  · rw [hmsg]; rfl
  · simpa [-List.length_flatten, h4, hlen, htake] using ⟨hfull, hmax⟩

/-- Packets whose message does not begin with the head of this mailbox assemble to none. -/
theorem assembled_of_other_head {ps : List (List Byte)} (h : ps.flatten.take 3 ≠ mctpHead) : assembled ps = none := by
  simp [assembled, h]

/-- A row with packets is the message that they assemble to; a message of another kind or vendor brings nothing (R458). -/
theorem bmcMessage_assembles (k k' : BitVec 8) (x y : List Byte) (ps : List (List Byte)) (s : State) (hup : s.board.stage ≠ .held)
    (hne : ps ≠ []) (hfull : ∀ p ∈ ps.dropLast, p.length = 64) (hmax : ∀ p ∈ ps, p.length ≤ 64)
    (hlen : ps.flatten.length ≤ 4101) :
    (ps.flatten = [0x7E, BitVec.ofNat 8 (Config.pciVendor.toNat / 256), BitVec.ofNat 8 Config.pciVendor.toNat, k] ++ x →
      exec (.bmcMessage k' y ps) s = exec (.bmcMessage k x) s) ∧
    ((ps.flatten.take 3 ≠ [0x7E, BitVec.ofNat 8 (Config.pciVendor.toNat / 256), BitVec.ofNat 8 Config.pciVendor.toNat]) →
      exec (.bmcMessage k' y ps) s = .next s) := by
  have hps : ps.isEmpty = false := by simpa using hne
  constructor
  · intro hmsg
    have ha : assembled ps = some (k, x) := assembled_of_head hfull hmax hlen hmsg
    show execBmcMessage k' y s ps = execBmcMessage k x s []
    simp only [execBmcMessage, hps, ha]
    rfl
  · intro hother
    have ha : assembled ps = none := assembled_of_other_head hother
    show execBmcMessage k' y s ps = _
    simp [execBmcMessage, hps, ha, hup]

/-- Settles O34: each clause is the lemma about its command above; the doorbell's rest on what an access to BAR0 may change. -/
theorem mailboxesTakeRequestsAndHoldResults : Obligations.MailboxesTakeRequestsAndHoldResults := by
  unfold Obligations.MailboxesTakeRequestsAndHoldResults
  exact ⟨doorbell_puts_request, masterWord_writes, doorbell_sets_dberr, complete_leaves_result, resultRead_counts,
    fun m k rid frag nfrag x s h => congrArg Host.Outcome.next (State.fragment_of_stranger h rid frag.toNat nfrag.toNat x),
    fragment_of_one_is_taken, fragment_of_two_waits, mgmtResultRead_answers, anchor_stores, fragmentTimeout_discards,
    bmcMessage_requests, bmcMessage_reads, bmcMessage_assembles, registers_set_and_clear, timeHi_returns_latched⟩

end Sys2Proof.Machine
end

section
/-! PROOFS. The codes of the short float formats and the numbers they stand for (R26, R27). -/

namespace Sys2Proof.Machine

/-- A code of a short format that is not its NaN stands for the number that its sign, exponent and fraction fields give. -/
theorem decShort_of_ne_nan {t : Ty} {c w f b : Nat} (hs : t.shape = (w, f, b)) (hc : c < 2 ^ w) (h : c ≠ 2 ^ (w - 1)) :
    decShort t c =
      if c / 2 ^ f % 2 ^ (w - 1 - f) = 0 then .fin (c.testBit (w - 1)) (c % 2 ^ f) (1 - (b : Int) - f)
      else .fin (c.testBit (w - 1)) (2 ^ f + c % 2 ^ f) ((c / 2 ^ f % 2 ^ (w - 1 - f) : Nat) - (b : Int) - f) := by
  simp [decShort, hs, Nat.mod_eq_of_lt hc, h, bitsAt, Nat.shiftRight_eq_div_pow]

/-- The code with the sign bit alone is the NaN of a short format. -/
theorem decShort_nan {t : Ty} {w f b : Nat} (hs : t.shape = (w, f, b)) (hw : 0 < w) : decShort t (2 ^ (w - 1)) = .nan := by
  have hlt : 2 ^ (w - 1) < 2 ^ w := Nat.pow_lt_pow_right (by decide) (by omega)
  simp [decShort, hs, Nat.mod_eq_of_lt hlt]

/-- The sign of a code is its highest bit. -/
theorem sign_of_testBit {c n : Nat} (hc : c < 2 ^ (n + 1)) :
    (if c.testBit n = true then (-1 : ℚ) else 1) = (-1) ^ (c / 2 ^ n) := by
  have hq : c / 2 ^ n < 2 := Nat.div_lt_of_lt_mul (by rwa [← Nat.pow_succ])
  rw [Nat.testBit_eq_decide_div_mod_eq]
  rcases Nat.lt_or_ge (c / 2 ^ n) 1 with h | h
  · simp [Nat.lt_one_iff.mp h]
  · simp [show c / 2 ^ n = 1 by omega]

/-- A code whose exponent and fraction fields are 0 has no bit below its sign. -/
theorem mod_half_of_fields_zero {c f n : Nat} (hf : f ≤ n) (hm : c % 2 ^ f = 0) (he : c / 2 ^ f % 2 ^ (n - f) = 0) :
    c % 2 ^ n = 0 := by
  obtain ⟨k, rfl⟩ := Nat.exists_eq_add_of_le hf
  rw [Nat.add_sub_cancel_left] at he
  rw [Nat.pow_add, Nat.mod_mul, hm, he, Nat.mul_zero]

/-- Of the codes of `n + 1` bits, those without a bit below the sign are 0 and the sign bit alone. -/
theorem eq_zero_of_mod_half {c n : Nat} (hc : c < 2 ^ (n + 1)) (hne : c ≠ 2 ^ n) (hmod : c % 2 ^ n = 0) : c = 0 := by
  obtain ⟨k, rfl⟩ := Nat.dvd_of_mod_eq_zero hmod
  have hk : k < 2 := by
    rw [Nat.pow_succ] at hc
    exact Nat.lt_of_mul_lt_mul_left hc
  interval_cases k
  · rfl
  · exact absurd (Nat.mul_one _) hne

/-- A finite number is 0 exactly when its significand is. -/
theorem value_fin_eq_zero_iff (n : Bool) (m : Nat) (e : Int) : Rules.value (.fin n m e) = some 0 ↔ m = 0 := by
  have h2 : (2 : ℚ) ^ e ≠ 0 := zpow_ne_zero e two_ne_zero
  cases n <;> simp [Rules.value, h2]

section
variable {t : Ty} {w f b c : Nat} (hs : t.shape = (w, f, b)) (hf : f + 1 < w) (hc : c < 2 ^ w)
include hs hf hc

theorem decShort_eq_nan_iff : decShort t c = .nan ↔ c = 2 ^ (w - 1) := by
  refine ⟨fun h => ?_, fun h => h ▸ decShort_nan hs (by omega)⟩
  by_contra hne
  rw [decShort_of_ne_nan hs hc hne] at h
  split at h <;> cases h

theorem decShort_ne_inf (n : Bool) : decShort t c ≠ .inf n := by
  by_cases h : c = 2 ^ (w - 1)
  · rw [h, decShort_nan hs (by omega)]
    nofun
  · rw [decShort_of_ne_nan hs hc h]
    split <;> nofun

/-- R26: any code but the NaN stands for a subnormal number, or for one with a leading 1. -/
theorem value_decShort (h : c ≠ 2 ^ (w - 1)) : Rules.value (decShort t c) = some
    ((-1) ^ (c / 2 ^ (w - 1)) * (if c / 2 ^ f % 2 ^ (w - 1 - f) = 0
      then (2 : ℚ) ^ (1 - (b : Int)) * ((c % 2 ^ f : Nat) / 2 ^ f)
      else (2 : ℚ) ^ (((c / 2 ^ f) % 2 ^ (w - 1 - f) : Nat) - (b : Int)) * (1 + (c % 2 ^ f : Nat) / 2 ^ f))) := by
  have hsign := sign_of_testBit (n := w - 1) (c := c) (by rwa [Nat.sub_add_cancel (by omega)])
  have h2 : (2 : ℚ) ^ f ≠ 0 := by positivity
  rw [decShort_of_ne_nan hs hc h, ← hsign]
  by_cases he : c / 2 ^ f % 2 ^ (w - 1 - f) = 0
  all_goals
    simp only [he, if_true, if_false, Rules.value, zpow_sub₀ (two_ne_zero : (2 : ℚ) ≠ 0) _ (f : Int), zpow_natCast]
    push_cast
    field_simp

/-- The all-zero code is the only zero. -/
theorem value_decShort_eq_zero_iff : Rules.value (decShort t c) = some 0 ↔ c = 0 := by
  have hpos : 0 < 2 ^ (w - 1) := Nat.two_pow_pos _
  constructor
  · intro h
    have hne : c ≠ 2 ^ (w - 1) := by
      rintro rfl
      rw [decShort_nan hs (by omega)] at h
      cases h
    rw [decShort_of_ne_nan hs hc hne] at h
    split at h
    next he =>
      rw [value_fin_eq_zero_iff] at h
      exact eq_zero_of_mod_half (by rwa [Nat.sub_add_cancel (by omega)]) hne (mod_half_of_fields_zero (by omega) h he)
    next =>
      rw [value_fin_eq_zero_iff] at h
      exact absurd h (by positivity)
  · rintro rfl
    rw [decShort_of_ne_nan hs hc hpos.ne]
    simp [Rules.value]
end

/-- Settles O58: each of the five formats has the widths and the bias of its row of Table 2-1, and the four claims hold of any format
by its fields. -/
theorem shortFormatsHaveOneNaNAndOneZero : Obligations.ShortFormatsHaveOneNaNAndOneZero := by
  unfold Obligations.ShortFormatsHaveOneNaNAndOneZero
  intro t w frac bias c ht hc
  obtain ⟨b, hs, hf, hb, hd⟩ : ∃ b : Nat, t.shape = (w, frac, b) ∧ frac + 1 < w ∧ bias = b ∧ decTy t c = decShort t c := by
    rcases ht with ⟨rfl, rfl, rfl, rfl⟩ | ⟨rfl, rfl, rfl, rfl⟩ | ⟨rfl, rfl, rfl, rfl⟩ | ⟨rfl, rfl, rfl, rfl⟩ | ⟨rfl, rfl, rfl, rfl⟩ <;>
      exact ⟨_, rfl, by decide, rfl, rfl⟩
  rw [hd, hb]
  exact ⟨decShort_eq_nan_iff hs hf hc, value_decShort_eq_zero_iff hs hf hc, decShort_ne_inf hs hf hc, value_decShort hs hf hc⟩
end Sys2Proof.Machine
end

section
/-! PROOFS. RMAX of a converter stream: the magnitudes of binary32 codes are ordered as their codes are (R57). -/

namespace Sys2Proof.Machine

/-- The magnitude of a finite binary32 code in units of 2^(-149), from its exponent and its fraction field. -/
def ulps32 (x : Nat) : Nat :=
  if x / 2 ^ 23 = 0 then x % 2 ^ 23 else (2 ^ 23 + x % 2 ^ 23) * 2 ^ (x / 2 ^ 23 - 1)

theorem ulps32_mono {x y : Nat} (h : x ≤ y) : ulps32 x ≤ ulps32 y := by
  have hx : x % 2 ^ 23 < 2 ^ 23 := Nat.mod_lt _ (by decide)
  have hdiv : x / 2 ^ 23 ≤ y / 2 ^ 23 := Nat.div_le_div_right h
  unfold ulps32
  rcases Nat.lt_or_eq_of_le hdiv with hlt | heq
  · have hy : y / 2 ^ 23 ≠ 0 := by omega
    rw [if_neg hy]
    split
    next =>
      calc x % 2 ^ 23 ≤ (2 ^ 23 + y % 2 ^ 23) * 1 := by omega
        _ ≤ _ := Nat.mul_le_mul_left _ (Nat.two_pow_pos _)
    next hx0 =>
      calc (2 ^ 23 + x % 2 ^ 23) * 2 ^ (x / 2 ^ 23 - 1)
        _ ≤ 2 ^ 23 * 2 * 2 ^ (x / 2 ^ 23 - 1) := Nat.mul_le_mul_right _ (by omega)
        _ = 2 ^ 23 * 2 ^ (x / 2 ^ 23) := by
          rw [Nat.mul_assoc, ← Nat.pow_succ', Nat.succ_eq_add_one, Nat.sub_add_cancel (Nat.pos_of_ne_zero hx0)]
        _ ≤ (2 ^ 23 + y % 2 ^ 23) * 2 ^ (y / 2 ^ 23 - 1) :=
          Nat.mul_le_mul (by omega) (Nat.pow_le_pow_right (by decide) (by omega))
  · have hmod : x % 2 ^ 23 ≤ y % 2 ^ 23 := by omega
    rw [heq]
    split
    · exact hmod
    · exact Nat.mul_le_mul_right _ (by omega)

/-- The number of a finite code, by its fields. -/
theorem ulps32_spec (x : Nat) :
    ((if x / 2 ^ 23 = 0 then x % 2 ^ 23 else 2 ^ 23 + x % 2 ^ 23 : Nat) : ℚ) *
      (2 : ℚ) ^ (if x / 2 ^ 23 = 0 then -149 else ((x / 2 ^ 23 : Nat) : Int) - 150) = ulps32 x * (2 : ℚ) ^ (-149 : Int) := by
  unfold ulps32
  split_ifs with h0
  · rfl
  · have he : ((x / 2 ^ 23 : Nat) : Int) - 150 = ((x / 2 ^ 23 - 1 : Nat) : Int) + -149 := by omega
    rw [he, zpow_add₀ two_ne_zero, zpow_natCast, ← mul_assoc, Nat.cast_mul, Nat.cast_pow, Nat.cast_ofNat]

/-- What a binary32 code stands for, by its magnitude: NaN above the code of the infinity, and below it a finite number of units. -/
theorem dec32_cases (x : Nat) :
    (0x7F800000 < x % 2 ^ 31 ∧ dec32 x = .nan) ∨ (x % 2 ^ 31 = 0x7F800000 ∧ ∃ n, dec32 x = .inf n) ∨
      (x % 2 ^ 31 < 0x7F800000 ∧ ∃ m e, dec32 x = .fin (x.testBit 31) m e ∧
        (m : ℚ) * 2 ^ e = ulps32 (x % 2 ^ 31) * (2 : ℚ) ^ (-149 : Int)) := by
  have he : bitsAt x 23 8 = x % 2 ^ 31 / 2 ^ 23 := by simp only [bitsAt, Nat.shiftRight_eq_div_pow]; omega
  have hf : bitsAt x 0 23 = x % 2 ^ 31 % 2 ^ 23 := by simp only [bitsAt, Nat.shiftRight_eq_div_pow]; omega
  have hs := ulps32_spec (x % 2 ^ 31)
  simp only [dec32, he, hf]
  by_cases h255 : x % 2 ^ 31 / 2 ^ 23 = 255
  · rw [if_pos h255]
    by_cases h0 : x % 2 ^ 31 % 2 ^ 23 = 0
    · exact .inr (.inl ⟨by omega, _, if_pos h0⟩)
    · exact .inl ⟨by omega, if_neg h0⟩
  · rw [if_neg h255]
    refine .inr (.inr ⟨by omega, ?_⟩)
    by_cases h0 : x % 2 ^ 31 / 2 ^ 23 = 0
    · simp only [if_pos h0] at hs ⊢
      exact ⟨_, _, rfl, hs⟩
    · simp only [if_neg h0] at hs ⊢
      exact ⟨_, _, rfl, hs⟩

/-- The code of a magnitude below the infinity stands for its number of units of 2^(-149). -/
theorem value_dec32_magnitude {x : Nat} (h : x < 0x7F800000) :
    Rules.value (dec32 x) = some (ulps32 x * (2 : ℚ) ^ (-149 : Int)) := by
  have hx : x % 2 ^ 31 = x := Nat.mod_eq_of_lt (by omega)
  have hc := dec32_cases x
  rw [hx] at hc
  rcases hc with ⟨hn, -⟩ | ⟨hi, -⟩ | ⟨-, m, e, hd, hv⟩
  · omega
  · omega
  · rw [hd, Nat.testBit_lt_two_pow (by omega), ← hv]
    simp [Rules.value]

theorem value_dec32_inf : Rules.value (dec32 0x7F800000) = none := by decide

/-! ### The maximum after an element -/

theorem rmaxAfter_nan {r x : Nat} (h : dec32 x = .nan) : rmaxAfter r x = r := by
  simp [rmaxAfter, h, Fl.isNan]

theorem rmaxAfter_of_ne_nan {r x : Nat} (h : dec32 x ≠ .nan) : rmaxAfter r x = max r (x % 2 ^ 31) := by
  have hn : (dec32 x).isNan = false := by
    cases hd : dec32 x with
    | nan => exact absurd hd h
    | inf => rfl
    | fin => rfl
  rw [rmaxAfter, hn, if_neg Bool.false_ne_true]
  split <;> omega

theorem rmaxAfter_inf {r x : Nat} {n : Bool} (hr : r ≤ 0x7F800000) (h : dec32 x = .inf n) : rmaxAfter r x = 0x7F800000 := by
  rw [rmaxAfter_of_ne_nan (by rw [h]; nofun)]
  rcases dec32_cases x with ⟨-, hd⟩ | ⟨hx, -⟩ | ⟨-, m, e, hd, -⟩
  · rw [h] at hd; cases hd
  · omega
  · rw [h] at hd; cases hd

theorem rmaxAfter_fin {r x : Nat} {n : Bool} {m : Nat} {e : Int} (h : dec32 x = .fin n m e) :
    rmaxAfter r x = max r (x % 2 ^ 31) ∧ x % 2 ^ 31 < 0x7F800000 ∧
      (m : ℚ) * 2 ^ e = ulps32 (x % 2 ^ 31) * (2 : ℚ) ^ (-149 : Int) := by
  refine ⟨rmaxAfter_of_ne_nan (by rw [h]; nofun), ?_⟩
  rcases dec32_cases x with ⟨-, hd⟩ | ⟨-, n', hd⟩ | ⟨hx, m', e', hd, hv⟩
  · rw [h] at hd; cases hd
  · rw [h] at hd; cases hd
  · rw [h] at hd
    cases hd
    exact ⟨hx, hv⟩

theorem le_rmaxAfter (r x : Nat) : r ≤ rmaxAfter r x := by
  by_cases h : dec32 x = .nan
  · exact (rmaxAfter_nan h).ge
  · rw [rmaxAfter_of_ne_nan h]
    exact Nat.le_max_left _ _

theorem rmaxAfter_le {r : Nat} (x : Nat) (hr : r ≤ 0x7F800000) : rmaxAfter r x ≤ 0x7F800000 := by
  cases h : dec32 x with
  | nan => rwa [rmaxAfter_nan h]
  | inf n => exact (rmaxAfter_inf hr h).le
  | fin n m e =>
    obtain ⟨heq, hx, -⟩ := rmaxAfter_fin (r := r) h
    omega

/-- The larger code of two finite magnitudes stands for the larger of them. -/
theorem value_rmaxAfter_fin {r x : Nat} {n : Bool} {m : Nat} {e : Int} {v : ℚ} (hr : r ≤ 0x7F800000) (h : dec32 x = .fin n m e)
    (hv : Rules.value (dec32 r) = some v) : Rules.value (dec32 (rmaxAfter r x)) = some (max v (m * (2 : ℚ) ^ e)) := by
  have hlt : r < 0x7F800000 := by
    refine lt_of_le_of_ne hr fun he => ?_
    rw [he, value_dec32_inf] at hv
    cases hv
  obtain ⟨heq, hx, hm⟩ := rmaxAfter_fin (r := r) h
  rw [value_dec32_magnitude hlt, Option.some_inj] at hv
  have hmono : Monotone ulps32 := fun _ _ => ulps32_mono
  rw [heq, value_dec32_magnitude (max_lt hlt hx), hmono.map_max, Nat.cast_max, hm, ← hv,
    max_mul_of_nonneg _ _ (by positivity)]

/-! ### An element through a stream -/

/-- The input value of an element is its binary32 code, after the input scale. -/
theorem convertElem_input (st dt : Ty) (c : Nat) (sin sout : Byte) (r16 : Option Nat) :
    (convertElem st dt c sin sout r16).input = if st = .f32 then c else (toB32 st c sin).1 := by
  by_cases h : st = .f32 <;> cases dt <;> simp [convertElem, h]

theorem Stream.feed_rmax (s : Stream) (src dst : Ty) (c : Nat) (sin sout : Byte) (hr : s.rmax.toNat ≤ 0x7F800000) :
    (s.feed src dst c sin sout).1.rmax.toNat =
      rmaxAfter s.rmax.toNat (if src = .f32 then c else (toB32 src c sin).1) := by
  simp only [Stream.feed, convertElem_input, BitVec.toNat_ofNat]
  have hle := rmaxAfter_le (if src = .f32 then c else (toB32 src c sin).1) hr
  omega

/-- Settles O59: RMAX is the larger of two codes of magnitudes, which are ordered as the magnitudes are. -/
theorem runningMaximaFollowTheElements : Obligations.RunningMaximaFollowTheElements := by
  unfold Obligations.RunningMaximaFollowTheElements
  intro s src dst c sin sout hr _
  have hfeed := s.feed_rmax src dst c sin sout hr
  generalize (if src = .f32 then c else (toB32 src c sin).1) = code at hfeed ⊢
  refine ⟨hfeed ▸ rmaxAfter_le code hr, hfeed ▸ le_rmaxAfter _ code, ?_⟩
  rintro x rfl
  refine ⟨fun hn => ?_, fun n hi => ?_, fun n m e hf => ⟨fun h7 => ?_, fun v hv => ?_⟩⟩
  · exact BitVec.eq_of_toNat_eq (hfeed.trans (rmaxAfter_nan hn))
  · exact BitVec.eq_of_toNat_eq (hfeed.trans (rmaxAfter_inf hr hi))
  · have hup := le_rmaxAfter s.rmax.toNat code
    have hle := rmaxAfter_le code hr
    have h7' : s.rmax.toNat = 0x7F800000 := by rw [h7]; rfl
    exact BitVec.eq_of_toNat_eq (hfeed.trans (show _ = 0x7F800000 by omega))
  · rw [hfeed]
    exact value_rmaxAfter_fin hr hf hv

end Sys2Proof.Machine
end

section
/-! PROOFS. The binary32 instructions of the SE: their issue, and the writing of their results (R36, R38, R200, R236). -/

namespace Sys2Proof.Machine

/-! ### A step of a quiet core -/

theorem State.assigned_of_quiet {s : State} {id : CoreId} (h : s.quiet id = true) : s.assigned id = true := by
  simp only [State.quiet, Bool.and_eq_true] at h
  obtain ⟨⟨⟨ha, -⟩, -⟩, -⟩ := h
  exact ha

theorem State.still_of_quiet {s : State} {id : CoreId} (h : s.quiet id = true) : (s.at id).still = true := by
  simp only [State.quiet, Bool.and_eq_true] at h
  obtain ⟨⟨⟨-, hhalts⟩, hfinished⟩, hended⟩ := h
  simp only [Core.still, Bool.and_eq_true, decide_eq_true_eq]
  exact ⟨⟨⟨hhalts, hfinished⟩, hended⟩, rfl⟩

/-- A core that tells the module nothing and has not finished leaves only itself to be written back. -/
theorem State.drain_still (s : State) (id : CoreId) {d : Core} (h : d.still = true) :
    (s.setCore id d).drain id = s.setCore id d := by
  simp only [Core.still, Bool.and_eq_true, decide_eq_true_eq, Bool.not_eq_true'] at h
  obtain ⟨⟨⟨-, hfinished⟩, -⟩, hout⟩ := h
  have hget : (s.setCore id d).core id = d := tget_tset_same _ _ _ _
  have hself : ({ d with out := Outbox.empty } : Core) = d := by rw [← hout]
  have hset : (s.setCore id d).setCore id d = s.setCore id d := by simp [State.setCore, tset_tset]
  simp only [State.drain, hget, hself, hset]
  rw [hout, hfinished]
  rfl

/-- The step of a quiet core, for an effect that leaves the life of the core alone. -/
theorem onCore_of_quiet {s : State} {id : CoreId} {f : Env → Core → Core} (h : s.quiet id = true)
    (hl : (f (s.env id) (s.at id)).life = (s.at id).life) : onCore id f s = .next (s.after id (f (s.env id) (s.at id))) := by
  have hstill := Core.still_of_life hl (State.still_of_quiet h)
  show Host.Outcome.next (s.onCore id f) = _
  rw [State.onCore, if_pos (State.assigned_of_quiet h)]
  show Host.Outcome.next ((State.setCore _ id ((f (s.env id) (s.at id)).settle (s.env id))).drain id) = _
  rw [Core.settle_still _ hstill, State.drain_still _ id hstill]
  rfl

theorem Core.life_unverifiedOne (rs : List (Nat × Nat)) (f : SpmFinding) (c : Core) : (c.unverifiedOne rs f).life = c.life := by
  unfold Core.unverifiedOne
  cases f with
  | badCheck w => exact either_branch (P := fun x : Core => x.life = c.life) rfl rfl
  | corrected w bit => rfl
  | uncorrectable w => rfl

@[simp] theorem Core.life_unverified (rs : List (Nat × Nat)) (fs : List SpmFinding) (c : Core) :
    (c.unverified rs fs).life = c.life :=
  foldl_keeps Core.life _ (fun d f => d.life_unverifiedOne rs f) fs c

@[simp] theorem Core.life_granted (port : SpmPort) (rs : List (Nat × Nat)) (c : Core) : (c.granted port rs).life = c.life := by
  refine foldl_keeps Core.life _ (fun d b => ?_) _ c
  split
  · exact d.life_mapSpm _
  · rfl

/-! ### Issue -/

/-- A binary32 instruction is the shared command with the form and the result that Table 3-8 gives. -/
theorem exec_fp {i : Instr} {a : Site} {w : SeWord} {f : Form} {fn : Nat → Nat → Nat → Nat × BitVec 6}
    (h : Rules.fp i = some (a, w, f, fn)) (s : State) :
    exec i s = fpCmd a f w
      (fun c o => fn (o.d.value c a.thread) (o.a.value c a.thread) (o.b.value c a.thread)) s := by
  unfold Rules.fp at h
  split at h <;> cases h <;> rfl

theorem Core.putFp_eq_withResult (c : Core) (t : Fin 4) (d : Operand) (v : Nat × BitVec 6) :
    c.putFp t d v = Rules.withResult c t d v := by
  unfold Core.putFp Rules.withResult
  cases h : d.loc <;> simp [Core.trackDest, h]

@[simp] theorem Core.life_withResult (c : Core) (t : Fin 4) (d : Operand) (v : Nat × BitVec 6) :
    (Rules.withResult c t d v).life = c.life := by
  have hfps : ∀ l : List FpResult, (c.mapTh t (fun h => { h with fps := h.fps ++ l })).life = c.life :=
    fun l => Core.life_mapTh c t _ (fun _ => ⟨rfl, rfl⟩)
  unfold Rules.withResult
  cases d.loc <;> simp [hfps]

theorem fp_issues {i : Instr} {a : Site} {w : SeWord} {f : Form} {fn : Nat → Nat → Nat → Nat × BitVec 6} {s : State}
    (hi : Rules.fp i = some (a, w, f, fn)) (h : s.issues a f w = true) :
    exec i s = .next (s.after a.core
      ((Rules.withResult (s.issuedCore a) a.thread (s.ops a f w).d
        (fn (s.val a (s.ops a f w).d) (s.val a (s.ops a f w).a) (s.val a (s.ops a f w).b))).finish a.thread w.len (s.ops a f w))) := by
  rw [exec_fp hi, fpCmd, seCmd_eq h _ _ _ rfl rfl (by rw [Core.putFp_eq_withResult]; simp)]
  simp only [Core.putFp_eq_withResult, Operand.value_issued]

/-! ### Writing -/

theorem fpResultWrite_writes_oldest {a : Site} {r : FpResult} {rs : List FpResult} {s : State} (hq : s.quiet a.core = true)
    (hr : ((s.at a.core).th a.thread).fps = r :: rs) :
    exec (.fpResultWrite a) s = .next (s.after a.core
      ((((s.at a.core).mapTh a.thread (fun h => { h with fps := rs })).writeDest a.thread r.dest r.bytes r.value.toNat).flag
        r.flags |>.unverified r.range a.found |>.granted .near r.range)) := by
  have hw : (s.at a.core).writeFp a.thread =
      (((s.at a.core).mapTh a.thread (fun h => { h with fps := rs })).writeDest a.thread r.dest r.bytes r.value.toNat).flag r.flags := by
    rw [Core.writeFp, hr]
  have hout : ((s.at a.core).th a.thread).fps.head?.elim [] FpResult.range = r.range := by rw [hr]; rfl
  have hfps : ((s.at a.core).mapTh a.thread (fun h => { h with fps := rs })).life = (s.at a.core).life :=
    Core.life_mapTh _ _ _ (fun _ => ⟨rfl, rfl⟩)
  show execFpResultWrite a s = _
  rw [execFpResultWrite, onCore_of_quiet hq (by simp [hw, hout, hfps])]
  simp only [hw, hout]

/-- Settles O3: the issue, the writing of the oldest result, and the flags, which are joined to those that are set. -/
theorem binaryResultsAreWrittenInOrder : Obligations.BinaryResultsAreWrittenInOrder := by
  unfold Obligations.BinaryResultsAreWrittenInOrder
  exact ⟨fun i a w f fn s => fp_issues, fun a r rs s => fpResultWrite_writes_oldest,
    fun f c k => BitVec.getLsbD_or⟩

end Sys2Proof.Machine
end

section
/-! PROOFS. CSRR and CSRW: the numbers of the control registers, and what a read and a write of each kind does (R91, Table 3-11). -/

namespace Sys2Proof.Machine

/-! ### The two commands -/

theorem csrMerge_eq_merged (mod : BitVec 2) (old v : Nat) : csrMerge mod old v = Rules.merged mod old v := by
  have hmod : ∀ m : BitVec 2, m = 0 ∨ m = 1 ∨ m = 2 ∨ m = 3 := by decide
  rcases hmod mod with rfl | rfl | rfl | rfl
  · rfl
  · rfl
  · exact congrArg (old &&& ·) (Nat.xor_comm _ _)
  · rfl

@[simp] theorem merged_zero (old v : Nat) : Rules.merged 0 old v = v := rfl

/-- A number below 0x300 that one of the ranges of Table 3-11 holds is assigned. -/
theorem csrAssigned_of_range (c : Core) {n : Nat}
    (h : n ≤ 0x009 ∨ (0x010 ≤ n ∧ n ≤ 0x019) ∨ (0x040 ≤ n ∧ n ≤ 0x09F) ∨ (0x0A0 ≤ n ∧ n ≤ 0x0C0) ∨ (0x0C8 ≤ n ∧ n ≤ 0x0F7) ∨
      (0x100 ≤ n ∧ n ≤ 0x113) ∨ (0x200 ≤ n ∧ n ≤ 0x2FF)) : csrAssigned c n = true := by
  simp only [csrAssigned, Bool.or_eq_true, decide_eq_true_eq]
  exact .inl (by omega)

@[simp] theorem Core.life_csrReadEffect (c : Core) (e : Env) (t : Fin 4) (n : Nat) : (csrReadEffect e t n c).life = c.life := by
  unfold csrReadEffect
  split_ifs
  · exact Core.life_mapR _ t _
  · exact c.life_mapR t _
  · dsimp only
    split <;> rfl
  · rfl
  · rfl

/-- A CSRR of an assigned number reads the register as the issued core has it, with the effect of its read. -/
theorem csrrCmd_reads {here : Nat → Bool} {a : Site} {w : SeWord} {s : State} {n : Nat} (h : Rules.Reads s a w n)
    (ha : csrAssigned (s.at a.core) n = true) (hhere : here n = true) :
    csrrCmd here a w s = .next (Rules.readBack s a w (csrReadEffect (s.env a.core) a.thread n (s.issuedCore a))
      (csrValue (s.env a.core) a.thread n (s.issuedCore a))) := by
  obtain ⟨hissues, hn⟩ := h
  have hn' : (s.ops a (csrrForm w) w).a.value (s.at a.core) a.thread = n := hn
  have hn'' : (s.ops a (csrrForm w) w).a.value (s.issuedCore a) a.thread = n := (Operand.value_issued _ s a).trans hn
  rw [csrrCmd, seCmd_eq hissues]
  · simp only [hn'']
    rfl
  · simp only [hn', csrExtra, ha, if_true]
  · simp only [hn', hhere, Bool.not_true]
  · simp

/-- A CSRW whose write takes effect, on the core as it is found and as it has issued. -/
theorem csrwCmd_done {here : Core → Nat → Nat → Bool} {a : Site} {w : SeWord} {s : State} {n v : Nat} {g : Core → Core}
    (h : Rules.Writes s a w n v) (ha : csrAssigned (s.at a.core) n = true) (hhere : here (s.at a.core) n v = true)
    (hw : ∀ c, SameData (s.at a.core) c → csrWrite (s.env a.core) a.thread n w v c = .done (g c))
    (hl : (g (s.issuedCore a)).life = (s.issuedCore a).life) :
    csrwCmd here a w s = .next (Rules.wrote s a w (g (s.issuedCore a))) := by
  obtain ⟨hissues, hn, hv⟩ := h
  have hn' : (s.ops a (csrwForm w) w).a.value (s.at a.core) a.thread = n := hn
  have hv' : (s.ops a (csrwForm w) w).b.value (s.at a.core) a.thread % 2 ^ 32 = v := hv
  have hn'' : (s.ops a (csrwForm w) w).a.value (s.issuedCore a) a.thread = n := (Operand.value_issued _ s a).trans hn
  have hv'' : (s.ops a (csrwForm w) w).b.value (s.issuedCore a) a.thread % 2 ^ 32 = v := by
    rw [Operand.value_issued]; exact hv
  have hfound := hw _ (SameData.refl _)
  have hissued := hw _ (State.sameData_issued s a)
  rw [csrwCmd, seCmd_eq hissues]
  · simp only [hn'', hv'', hissued]
    rfl
  · simp only [csrwExtra, hn', hv', ha, if_true, hfound]
  · simp only [hn', hv', hhere, hfound, Bool.not_true, Bool.or_self]
  · simp only [hn'', hv'', hissued, Core.life_finish, hl]

theorem Core.mapTh_congr {c : Core} {t : Fin 4} {f g : Thread → Thread} (h : f (c.th t) = g (c.th t)) : c.mapTh t f = c.mapTh t g := by
  have h' : f c.threads[t] = g c.threads[t] := h
  rw [Core.mapTh, Core.mapTh, h']

theorem Core.mapR_self {c : Core} {t : Fin 4} {f : Regs → Regs} (h : f (c.th t).r = (c.th t).r) : c.mapR t f = c := by
  have hsame : c.mapR t f = c.mapTh t id := Core.mapTh_congr (by rw [h]; rfl)
  rw [hsame, Core.mapTh]
  simp

/-! ### Where a number leads -/

section
variable (e : Env) (t : Fin 4) (w : SeWord) (v : Nat) (c : Core) (i : Fin 6) {n k : Nat}

/-- The numbers of converter stream `i` are eight from 0x0C8 + 8 × i on (Table 2-11). -/
theorem streamNum_parts (hn : n = 0x0C8 + 8 * i.val + k) (hk : k < 8) :
    Fin.ofNat 6 ((n - 0x0C8) / 8) = i ∧ (n - 0x0C8) % 8 = k := by
  refine ⟨Fin.ext ?_, by omega⟩
  simp only [Fin.val_ofNat]
  omega

theorem csrValue_stream (hn : n = 0x0C8 + 8 * i.val + k) (hk : k < 8) : csrValue e t n c = streamCsr c.streams[i] k := by
  obtain ⟨hi, hoff⟩ := streamNum_parts i hn hk
  unfold csrValue
  rw [if_neg (by omega), if_neg (by omega), if_neg (by omega), if_neg (by omega), if_neg (by omega), if_neg (by omega),
    if_neg (by omega), if_neg (by omega), if_pos (by omega)]
  simp only [hi, hoff]

theorem csrReadEffect_rmax (hn : n = 0x0C8 + 8 * i.val + 3) :
    csrReadEffect e t n c = c.mapStream i (fun x => { x with rmax := 0 }) := by
  obtain ⟨hi, hoff⟩ := streamNum_parts i hn (by decide)
  unfold csrReadEffect
  rw [if_neg (by omega), if_neg (by omega), if_pos (by omega), hi, hoff]
  rfl

theorem csrReadEffect_sat (hn : n = 0x0C8 + 8 * i.val + 4) :
    csrReadEffect e t n c = c.mapStream i (fun x => { x with sat := 0 }) := by
  obtain ⟨hi, hoff⟩ := streamNum_parts i hn (by decide)
  unfold csrReadEffect
  rw [if_neg (by omega), if_neg (by omega), if_pos (by omega), hi, hoff]
  rfl

theorem csrReadEffect_cycleLo : csrReadEffect e t 0x006 c =
    Core.mapR { c with cycle := c.cycleNow e } t (fun r => { r with cycleHi := BitVec.ofNat 32 ((c.cycleNow e).toNat / 2 ^ 32) }) := rfl

theorem csrReadEffect_timeLo : csrReadEffect e t 0x008 c =
    c.mapR t (fun r => { r with timeHi := BitVec.ofNat 32 (e.now / 2 ^ 32) }) := rfl

theorem csrValue_cycleLo : csrValue e t 0x006 c = (c.cycleNow e).toNat % 2 ^ 32 := rfl

theorem csrValue_timeLo : csrValue e t 0x008 c = e.now % 2 ^ 32 := rfl

theorem csrWrite_vlen : csrWrite e t 0x018 w v c = .done { c with ve := { c.ve with
    vlen := BitVec.ofNat 12 (min 0x800 (Rules.merged w.mod c.ve.vlen.toNat v % 4096)) } } := by
  have hmin : ∀ m : Nat, (if 0x800 < m then (0x800 : BitVec 12) else BitVec.ofNat 12 m) = BitVec.ofNat 12 (min 0x800 m) := by
    intro m
    split
    next hlt => rw [Nat.min_eq_left hlt.le]; rfl
    next hle => rw [Nat.min_eq_right (Nat.le_of_not_lt hle)]
  rw [← hmin, ← csrMerge_eq_merged]
  rfl

theorem csrWrite_evtmrCnt : csrWrite e t 0x093 w v c = .done { c with events := { c.events with
    tmrCnt := BitVec.ofNat 32 (Rules.merged w.mod (c.events.left e.now) v)
    tmrDue := e.now + max 1 (Rules.merged w.mod (c.events.left e.now) v) } } := by
  rw [← csrMerge_eq_merged]
  rfl

theorem csrWrite_fpflags : csrWrite e t 0x0C0 w v c = .done { c with fpflags := c.fpflags &&& ~~~(BitVec.ofNat 6 v) } := rfl

theorem csrWrite_excVec : csrWrite e t 0x105 w v c = .done (c.mapX t (fun x =>
    { x with vec := BitVec.ofNat 32 (Rules.merged w.mod x.vec.toNat v) &&& 0xFFFFFFFD })) := by
  simp only [← csrMerge_eq_merged]
  show CsrAct.done (c.mapX t (fun x => { x with vec := BitVec.ofNat 32 (csrMerge w.mod (c.th t).x.vec.toNat v) &&& 0xFFFFFFFD })) = _
  exact congrArg CsrAct.done (Core.mapTh_congr rfl)

theorem csrWrite_ldepth : csrWrite e t 0x106 w v c = .done (c.mapR t (fun r =>
    if Rules.merged w.mod r.ldepth.toNat v % 8 ≤ 4 then
      { r with ldepth := BitVec.ofNat 3 (Rules.merged w.mod r.ldepth.toNat v) } else r)) := by
  simp only [← csrMerge_eq_merged]
  show CsrAct.done (if csrMerge w.mod (c.th t).r.ldepth.toNat v % 8 ≤ 4 then
    c.mapR t (fun r => { r with ldepth := BitVec.ofNat 3 (csrMerge w.mod (c.th t).r.ldepth.toNat v) }) else c) = _
  congr 1
  split
  next hle => exact Core.mapTh_congr (by simp only [if_pos hle])
  next hgt => exact (Core.mapR_self (by simp only [if_neg hgt])).symm

theorem csrWrite_rnctl {r : Fin 8} (hn : n = 0x088 + r.val) : csrWrite e t n w v c = writeRnctl r w.mod v c := by
  have hr : Fin.ofNat 8 n = r := by
    apply Fin.ext
    simp only [Fin.val_ofNat]
    omega
  unfold csrWrite
  rw [if_neg (by omega), if_neg (by omega), if_neg (by omega), if_neg (by omega), if_neg (by omega), if_neg (by omega),
    if_pos (by omega)]
  split
  · omega
  · omega
  · omega
  · rw [if_pos (by omega), hr]

end

/-! ### Reads -/

theorem State.released_of_issues {s : State} {a : Site} {f : Form} {w : SeWord} (h : s.issues a f w = true) :
    (s.at a.core).released = true := by
  have ht := State.turnOf_of_issues h
  simp only [State.turnOf, Core.mayIssue, Core.ready, Core.mayFetch, Bool.and_eq_true] at ht
  obtain ⟨⟨-, ⟨hfetch, -⟩, -⟩, -⟩ := ht
  tauto

/-- On a core that issues, CYCLE counts what its island has run (R92). -/
theorem cycleNow_issued {s : State} {a : Site} {f : Form} {w : SeWord} (h : s.issues a f w = true) :
    (s.issuedCore a).cycleNow (s.env a.core) = Rules.cycleAt s a := by
  have hd := State.sameData_issued s a
  have hr : (s.issuedCore a).released = true := hd.released.trans (State.released_of_issues h)
  rw [Core.cycleNow, if_pos hr, hd.cycle]
  rfl

theorem cycleLoRead_latches {a : Site} {w : SeWord} {s : State} (h : Rules.Reads s a w 0x006) :
    exec (.cycleLoRead a w) s = .next (Rules.readBack s a w
      (Core.mapR { s.issuedCore a with cycle := Rules.cycleAt s a } a.thread
        (fun r => { r with cycleHi := BitVec.ofNat 32 ((Rules.cycleAt s a).toNat / 2 ^ 32) }))
      ((Rules.cycleAt s a).toNat % 2 ^ 32)) := by
  have hr := csrrCmd_reads (here := fun n => n == 0x006) h (csrAssigned_of_range _ (by omega)) rfl
  obtain ⟨hissues, -⟩ := h
  rw [csrReadEffect_cycleLo, csrValue_cycleLo, cycleNow_issued hissues] at hr
  exact hr

theorem timeLoRead_latches {a : Site} {w : SeWord} {s : State} (h : Rules.Reads s a w 0x008) :
    exec (.timeLoRead a w) s = .next (Rules.readBack s a w
      ((s.issuedCore a).mapR a.thread (fun r => { r with timeHi := BitVec.ofNat 32 (s.now / 2 ^ 32) })) (s.now % 2 ^ 32)) := by
  have hr := csrrCmd_reads (here := fun n => n == 0x008) h (csrAssigned_of_range _ (by omega)) rfl
  rw [csrReadEffect_timeLo, csrValue_timeLo] at hr
  exact hr

theorem cvrmaxRcRead_clears {a : Site} {w : SeWord} {s : State} {i : Fin 6} (h : Rules.Reads s a w (0x0C8 + 8 * i.val + 3)) :
    exec (.cvrmaxRcRead a w) s = .next (Rules.readBack s a w
      ((s.issuedCore a).mapStream i (fun x => { x with rmax := 0 })) ((s.at a.core).streams[i]).rmax.toNat) := by
  have hr := csrrCmd_reads (here := fun n => decide (0x0C8 ≤ n ∧ n ≤ 0x0F7) && n % 8 == 3) h
    (csrAssigned_of_range _ (by omega)) (by simp only [Bool.and_eq_true, decide_eq_true_eq, beq_iff_eq]; omega)
  rw [csrReadEffect_rmax _ _ _ i rfl, csrValue_stream _ _ _ i rfl (by decide), (State.sameData_issued s a).streams] at hr
  exact hr

theorem cvsatRead_clears {a : Site} {w : SeWord} {s : State} {i : Fin 6} (h : Rules.Reads s a w (0x0C8 + 8 * i.val + 4)) :
    exec (.cvsatRead a w) s = .next (Rules.readBack s a w
      ((s.issuedCore a).mapStream i (fun x => { x with sat := 0 })) ((s.at a.core).streams[i]).sat.toNat) := by
  have hr := csrrCmd_reads (here := fun n => decide (0x0C8 ≤ n ∧ n ≤ 0x0F7) && n % 8 == 4) h
    (csrAssigned_of_range _ (by omega)) (by simp only [Bool.and_eq_true, decide_eq_true_eq, beq_iff_eq]; omega)
  rw [csrReadEffect_sat _ _ _ i rfl, csrValue_stream _ _ _ i rfl (by decide), (State.sameData_issued s a).streams] at hr
  exact hr

/-! ### Writes -/

theorem csrw_vlen {a : Site} {w : SeWord} {s : State} {v : Nat} (h : Rules.Writes s a w 0x018 v) :
    exec (.csrw a w) s = .next (Rules.wrote s a w
      { s.issuedCore a with ve := { (s.at a.core).ve with
        vlen := BitVec.ofNat 12 (min 0x800 (Rules.merged w.mod (s.at a.core).ve.vlen.toNat v % 4096)) } }) := by
  rw [← (State.sameData_issued s a).ve]
  exact csrwCmd_done (here := fun _ _ _ => true) h (csrAssigned_of_range _ (by omega)) rfl
    (fun c _ => csrWrite_vlen _ _ w v c) rfl

theorem csrw_fpflags {a : Site} {w : SeWord} {s : State} {v : Nat} (h : Rules.Writes s a w 0x0C0 v) :
    exec (.csrw a w) s = .next (Rules.wrote s a w
      { s.issuedCore a with fpflags := (s.at a.core).fpflags &&& ~~~(BitVec.ofNat 6 v) }) := by
  rw [← (State.sameData_issued s a).fpflags]
  exact csrwCmd_done (here := fun _ _ _ => true) h (csrAssigned_of_range _ (by omega)) rfl
    (fun c _ => csrWrite_fpflags _ _ w v c) rfl

theorem csrw_excVec {a : Site} {w : SeWord} {s : State} {v : Nat} (h : Rules.Writes s a w 0x105 v) :
    exec (.csrw a w) s = .next (Rules.wrote s a w ((s.issuedCore a).mapX a.thread (fun x =>
      { x with vec := BitVec.ofNat 32 (Rules.merged w.mod x.vec.toNat v) &&& 0xFFFFFFFD }))) :=
  csrwCmd_done (here := fun _ _ _ => true) h (csrAssigned_of_range _ (by omega)) rfl
    (fun c _ => csrWrite_excVec _ _ w v c) (Core.life_mapX _ _ _)

theorem ldepthWrite_writes {a : Site} {w : SeWord} {s : State} {v : Nat} (h : Rules.Writes s a w 0x106 v) :
    exec (.ldepthWrite a w) s = .next (Rules.wrote s a w ((s.issuedCore a).mapR a.thread (fun r =>
      if Rules.merged w.mod r.ldepth.toNat v % 8 ≤ 4 then
        { r with ldepth := BitVec.ofNat 3 (Rules.merged w.mod r.ldepth.toNat v) } else r))) :=
  csrwCmd_done (here := fun _ n _ => n == 0x106) h (csrAssigned_of_range _ (by omega)) rfl
    (fun c _ => csrWrite_ldepth _ _ w v c) (Core.life_mapR _ _ _)

/-- A runner's register without FLUSH has no bit above EN. -/
theorem Runner.ctl_bit24 (r : Runner) : r.ctl.testBit 24 = false := by
  apply Nat.testBit_lt_two_pow
  have hen : b2n r.en ≤ 1 := by cases r.en <;> decide
  have hs := r.send.isLt
  have hr := r.recv.isLt
  unfold Runner.ctl
  omega

theorem merged_bit24 (mod : BitVec 2) {old v : Nat} (ho : old.testBit 24 = false) (hv : v.testBit 24 = false) :
    (Rules.merged mod old v).testBit 24 = false := by
  unfold Rules.merged
  split_ifs
  · rw [Nat.testBit_or, ho, hv]; rfl
  · rw [Nat.testBit_and, ho, Bool.false_and]
  · exact hv

theorem rnctlWrite_sets_masks {a : Site} {w : SeWord} {s : State} {n : Fin 8} {v : Nat} (h : Rules.Writes s a w (0x088 + n.val) v)
    (hv : v.testBit 24 = false) (hwait : ((s.at a.core).runners[n]).waited = false) (hwords : ((s.at a.core).runners[n]).words = []) :
    exec (.rnctlWrite a w) s = .next (Rules.wrote s a w ((s.issuedCore a).setRunner n
      { (s.at a.core).runners[n] with
        en := (Rules.merged w.mod ((s.at a.core).runners[n]).ctl v).testBit 16
        send := BitVec.ofNat 4 (Rules.merged w.mod ((s.at a.core).runners[n]).ctl v / 256)
        recv := BitVec.ofNat 4 (Rules.merged w.mod ((s.at a.core).runners[n]).ctl v) })) := by
  refine csrwCmd_done (here := fun _ n v => decide (0x088 ≤ n ∧ n ≤ 0x08F) && !v.testBit 24) (g := fun c => c.setRunner n _)
    h (csrAssigned_of_range _ (by omega)) (by simp only [hv, Bool.not_false, Bool.and_true, decide_eq_true_eq]; omega)
    (fun c hc => ?_) (Core.life_setRunner _ _ _)
  have hflush := merged_bit24 w.mod (Runner.ctl_bit24 ((s.at a.core).runners[n])) hv
  rw [csrWrite_rnctl _ _ _ _ _ rfl]
  simp only [writeRnctl, hc.runners, csrMerge_eq_merged, hflush, hwait, hwords, Bool.false_and, List.isEmpty_nil, Bool.not_true,
    Bool.or_self, Bool.false_eq_true, if_false, Core.setRunner]

theorem runnerFlush_empties {a : Site} {w : SeWord} {s : State} {n : Fin 8} {v : Nat} (h : Rules.Writes s a w (0x088 + n.val) v)
    (hv : v.testBit 24 = true) (hmod : w.mod = 0) (hwait : ((s.at a.core).runners[n]).waited = false) :
    exec (.runnerFlush a w) s = .next (Rules.wrote s a w ((s.issuedCore a).setRunner n
      { (s.at a.core).runners[n] with
        en := v.testBit 16, send := BitVec.ofNat 4 (v / 256), recv := BitVec.ofNat 4 v, words := [] })) := by
  refine csrwCmd_done (here := fun _ n v => decide (0x088 ≤ n ∧ n ≤ 0x08F) && v.testBit 24) (g := fun c => c.setRunner n _)
    h (csrAssigned_of_range _ (by omega)) (by simp only [hv, Bool.and_true, decide_eq_true_eq]; omega)
    (fun c hc => ?_) (Core.life_setRunner _ _ _)
  rw [csrWrite_rnctl _ _ _ _ _ rfl]
  simp only [writeRnctl, hc.runners, csrMerge_eq_merged, hmod, merged_zero, hv, hwait, Bool.false_and, Bool.and_false, Bool.not_true,
    Bool.or_self, Bool.false_eq_true, if_false, if_true, Core.setRunner]

theorem evtmrCntWrite_starts {a : Site} {w : SeWord} {s : State} {v : Nat} (h : Rules.Writes s a w 0x093 v) :
    exec (.evtmrCntWrite a w) s = .next (Rules.wrote s a w
      { s.issuedCore a with events := { (s.at a.core).events with
        tmrCnt := BitVec.ofNat 32 (Rules.merged w.mod ((s.at a.core).events.left s.now) v)
        tmrDue := s.now + max 1 (Rules.merged w.mod ((s.at a.core).events.left s.now) v) } }) := by
  have hw := csrwCmd_done (here := fun _ n _ => n == 0x093) h (csrAssigned_of_range _ (by omega)) rfl
    (fun c _ => csrWrite_evtmrCnt _ _ w v c) rfl
  rw [(State.sameData_issued s a).events] at hw
  exact hw

/-- Settles O6: each clause is the lemma about its read or its write above. -/
theorem csrsAreReadAndWritten : Obligations.CsrsAreReadAndWritten := by
  unfold Obligations.CsrsAreReadAndWritten
  refine ⟨fun a w s n h ha => csrrCmd_reads (here := fun _ => true) h ha rfl, fun a w s => cycleLoRead_latches,
    fun a w s => timeLoRead_latches, fun a w s i => cvrmaxRcRead_clears, fun a w s i => cvsatRead_clears, fun e t c => ?_,
    fun a w s v => csrw_vlen, fun a w s v => csrw_fpflags, fun a w s v => csrw_excVec, fun a w s v => ldepthWrite_writes,
    fun a w s n v => rnctlWrite_sets_masks, fun a w s n v => runnerFlush_empties, fun a w s v => evtmrCntWrite_starts⟩
  exact ⟨rfl, rfl, rfl, rfl, rfl, rfl, rfl, rfl, rfl⟩

end Sys2Proof.Machine
end

section
/-! PROOFS. A flush of a halted DMA queue withdraws the slot fills that wait for its descriptors (R272, log entry 32). -/

namespace Sys2Proof.Machine

/-- The slot fill of queue 0 that waits: its slot is still full (R220, R267). -/
def waitingFill : SlotWait := { seg := 0x40, who := .fill 0, store := true, data := .empty }

/-- A descriptor of queue 0 with every granule performed, whose completion fill waits for its slot (R267). -/
def fillingDesc : DescRun :=
  { entry := 0, off := 0, thread := 0, d := { words := #v[0x20000, 0, 0x80, 0, 0x300, 0, 8, 0, 0, 0, 0, 0, 0, 0x51000, 0, 0] },
    started := true, cur := { i2 := 0, i1 := 0, off := 0, row := none }, allIssued := true, grans := [], chained := true,
    carry := [], before := [], faulted := false, filling := true, abandoned := false, loaded := false }

/-- The descriptor behind it, which has faulted and halted the queue. -/
def faultedDesc : DescRun := { fillingDesc with entry := 1, allIssued := false, faulted := true, filling := false }

/-- Core 5 of the block after a reset, released with thread 0 running, and its queue 0 halted by the fault. -/
def haltedFillState : State :=
  State.reset.setCore 5 { Core.reset with
    released := true
    codeSize := 0x10000
    spm := { Spm.reset with waits := [waitingFill] }
    de := { De.reset with q := De.reset.q.set 0 { De.reset.q[0] with descs := [fillingDesc, faultedDesc], halt := true } } }

/-- CSRW of DQ0_CTL with FLUSH 1, number and value immediate. -/
def flushWord : SeWord := { len := 1, sz := 2, mod := 0, osd := 0x3F, osa := 0, osb := 0, ext := 0x200 + 1 * 65536 }

def flushSite : Site := { core := 5, thread := 0, found := [] }

/-- The accesses that wait for slots of core 5 after a step. -/
def waitsAfter : Out → List SlotWait
  | .next s => (s.core 5).spm.waits
  | _ => []

theorem flush_issues : Rules.Writes haltedFillState flushSite flushWord (0x200 + 16 * (0 : Fin 4).val) 1 := by decide +kernel

theorem flush_withdraws_waitingFill : waitsAfter (exec (.dqFlush flushSite flushWord) haltedFillState) = [] := by decide +kernel

/-- The state that the clause of the statement describes still holds the fill. -/
theorem clause_keeps_waitingFill :
    waitsAfter (.next (Rules.wrote haltedFillState flushSite flushWord
      ((haltedFillState.issuedCore flushSite).mapDq 0 (fun d =>
        { d with
          high := (1 : Nat).testBit 8, halt := false
          descs := dropAbandoned (d.descs.map (fun r => { r with abandoned := true })) })).settleStreams)) = [waitingFill] := by
  decide +kernel

/-- Refutes O7: the clause on FLUSH says what becomes of the queue and leaves the scratchpad alone, while a flush also withdraws the slot
fill that waits for an abandoned descriptor (log entry 32); `haltedFillState` holds such a fill. -/
theorem not_unitRegistersActWhenWritten : ¬ Obligations.UnitRegistersActWhenWritten := by
  unfold Obligations.UnitRegistersActWhenWritten
  rintro ⟨-, -, -, -, -, hflush, -⟩
  have heq := hflush flushSite flushWord haltedFillState 0 1 flush_issues rfl rfl rfl rfl
  have hmodel := flush_withdraws_waitingFill
  rw [heq, clause_keeps_waitingFill] at hmodel
  cases hmodel

end Sys2Proof.Machine
end

section
/-! PROOFS. The step of one core in which a thread enters a state of Table 4-1: what it reports to the module, and when the core has not
finished after it (R98, R107). -/

namespace Sys2Proof.Machine

/-! ### A thread changed twice -/

theorem Core.mapTh_mapTh (c : Core) (t : Fin 4) (f g : Thread → Thread) : (c.mapTh t f).mapTh t g = c.mapTh t (g ∘ f) := by
  simp [Core.mapTh]

theorem Core.mapTh_self {c : Core} {t : Fin 4} {f : Thread → Thread} (h : f (c.th t) = c.th t) : c.mapTh t f = c :=
  (Core.mapTh_congr (g := id) h).trans (by simp [Core.mapTh])

/-! ### Entering a state -/

/-- What a core reports once thread `t` has entered a state. -/
def Life.enter (l : Life) (t : Fin 4) (st : ThState) : Life := { l with st := l.st.set t (st, (l.st[t]).2) }

@[simp] theorem Core.life_setSt (c : Core) (e : Env) (t : Fin 4) (st : ThState) : (c.setSt e t st).life = c.life.enter t st := by
  unfold Core.setSt
  rw [Core.life_trace]
  simp only [Core.life, Life.enter, Core.mapTh]
  congr 1
  apply Vector.ext
  intro i hi
  simp [Vector.getElem_set]

/-- The state of a thread, and the halt asked of it, as the core reports them. -/
theorem Core.life_st (c : Core) (t : Fin 4) : c.life.st[t] = ((c.th t).st, (c.th t).haltAsked) := by
  simp [Core.life, Core.th]

theorem Life.enter_st_same (l : Life) (t : Fin 4) (st : ThState) : ((l.enter t st).st[t]) = (st, (l.st[t]).2) := by
  simp [Life.enter]

theorem Life.enter_st_other (l : Life) (t u : Fin 4) (st : ThState) (h : u ≠ t) : (l.enter t st).st[u] = l.st[u] := by
  have h' : t.val ≠ u.val := fun e => h (Fin.ext e.symm)
  simp [Life.enter, h']

/-- A core with a running thread has not finished (R107). -/
theorem Core.not_ended_of_running {c : Core} {u : Fin 4} (h : (c.th u).st = .running) : c.ended = false := by
  rw [Bool.eq_false_iff]
  intro he
  simp only [Core.ended, Bool.and_eq_true, Core.allTh_iff, decide_eq_true_eq] at he
  obtain ⟨-, hall⟩ := he
  exact (hall u).1 h

/-- A thread that enters a state leaves the core still, when some thread runs after it. -/
theorem Core.still_of_entered {c d : Core} {t u : Fin 4} {st : ThState} (hc : c.still = true) (hl : d.life = c.life.enter t st)
    (hu : (d.th u).st = .running) : d.still = true := by
  simp only [Core.still, Bool.and_eq_true, decide_eq_true_eq, Bool.not_eq_true', Core.allTh_iff] at hc ⊢
  obtain ⟨⟨⟨hhalts, hfinished⟩, -⟩, hout⟩ := hc
  refine ⟨⟨⟨fun v => ?_, (congrArg Life.finished hl).trans hfinished⟩, Core.not_ended_of_running hu⟩, (congrArg Life.out hl).trans hout⟩
  have hv : d.life.st[v].2 = c.life.st[v].2 := by
    rw [hl]
    by_cases h : v = t
    · rw [h, Life.enter_st_same]
    · rw [Life.enter_st_other _ _ _ _ h]
  simp only [Core.life_st] at hv
  exact hv.trans (hhalts v)

theorem Core.still_of_runs {c d : Core} {t : Fin 4} (hc : c.still = true) (hl : d.life = c.life.enter t .running) :
    d.still = true := by
  refine Core.still_of_entered hc hl (u := t) ?_
  have ht : d.life.st[t].1 = .running := by rw [hl, Life.enter_st_same]
  rwa [Core.life_st] at ht

theorem Core.still_of_other_runs {c d : Core} {t u : Fin 4} {st : ThState} (hc : c.still = true) (hl : d.life = c.life.enter t st)
    (hne : u ≠ t) (hu : (c.th u).st = .running) : d.still = true := by
  refine Core.still_of_entered hc hl (u := u) ?_
  have ht : d.life.st[u].1 = .running := by rw [hl, Life.enter_st_other _ _ _ _ hne, Core.life_st, hu]
  rwa [Core.life_st] at ht

@[simp] theorem Core.life_stall (c : Core) (t : Fin 4) (st : Stall) : (c.mapTh t (fun h => { h with stall := st })).life = c.life :=
  Core.life_mapTh c t _ (fun _ => ⟨rfl, rfl⟩)

@[simp] theorem Core.life_stopAsked (c : Core) (t : Fin 4) (b : Bool) :
    (c.mapTh t (fun h => { h with stopAsked := b })).life = c.life :=
  Core.life_mapTh c t _ (fun _ => ⟨rfl, rfl⟩)

/-! ### The issue of an instruction that changes a thread's state -/

@[simp] theorem State.life_issuedCore (s : State) (a : Site) : (s.issuedCore a).life = (s.at a.core).life :=
  Core.life_issued _ _ _

theorem State.at_still_of_issues {s : State} {a : Site} {f : Form} {w : SeWord} (h : s.issues a f w = true) :
    (s.at a.core).still = true :=
  State.still_of_calm (State.calm_of_issues h)

/-- An instruction that may issue, raises nothing and need not wait has its effect, and the module is told nothing. -/
theorem seCmd_of_still {s : State} {a : Site} {f : Form} {w : SeWord} (h : s.issues a f w = true)
    (extra : Env → Core → Operands → List Exc) (waits : Env → Core → Operands → Bool) (body : Env → Operands → Core → Core)
    (he : extra (s.env a.core) (s.at a.core) (s.ops a f w) = []) (hw : waits (s.env a.core) (s.at a.core) (s.ops a f w) = false)
    (hs : (body (s.env a.core) (s.ops a f w) (s.issuedCore a)).still = true) :
    seCmd a f w extra waits body s = .next (s.after a.core (body (s.env a.core) (s.ops a f w) (s.issuedCore a))) := by
  have hb := Core.seIssue_body h (extra (s.env a.core) (s.at a.core)) (waits (s.env a.core) (s.at a.core)) (body (s.env a.core)) he hw
  rw [seCmd, onCore_eq (State.calm_of_issues h) (by rw [hb]; exact hs), hb]

/-- The value of an operand, as the instruction finds it. -/
theorem Operand.value_at (o : Operand) (s : State) (a : Site) : o.value (s.at a.core) a.thread = s.val a o := rfl

/-- A word with the MOD of the command is the command's. -/
theorem ofMod_own {k : Nat} {w : SeWord} (h : w.mod.toNat = k) (f : State → Out) (s : State) : ofMod k w f s = f s := by
  rw [ofMod, if_pos (.inl h)]

end Sys2Proof.Machine
end

section
/-! PROOFS. Thread control: THSET, THGO, THSTOP and THEND (R98, R102 to R107). -/

namespace Sys2Proof.Machine

/-! ### Setting a register -/

theorem controlExtra_of_other {t : Fin 4} {n : Nat} (ht : t = 0) (h0 : 0 < n) (h4 : n < 4) (opid : BitVec 4) :
    controlExtra t opid n = [] := by
  subst ht
  have h : ¬ (3 < n ∨ n = (0 : Fin 4).val) := by simp; omega
  rw [controlExtra, if_neg (by simp), if_neg h]

/-- Thread 0 may set any register of an idle thread, a program counter to a multiple of 4 (R103). -/
theorem thsetExtra_of_idle {c : Core} {t : Fin 4} {n sel v : Nat} (ht : t = 0) (h0 : 0 < n) (h4 : n < 4)
    (hidle : (c.th (Fin.ofNat 4 n)).st.idle = true) (hsel : sel ≤ 0x1B) (hpc : sel = 0x19 → v % 4 = 0) :
    thsetExtra c t n sel v = [] := by
  simp only [thsetExtra, controlExtra_of_other ht h0 h4]
  rw [hidle, if_neg (by decide), if_neg (by omega), if_neg (fun h => h.2 (hpc h.1))]

/-- A selector of Table 4-2 names no state and no halt. -/
theorem Thread.set_life (h : Thread) (sel v : Nat) : (h.set sel v).st = h.st ∧ (h.set sel v).haltAsked = h.haltAsked := by
  simp only [Thread.set]
  split_ifs <;> exact ⟨rfl, rfl⟩

theorem Thread.set_a (h : Thread) (i : Fin 8) (v : Nat) :
    h.set i.val v = { h with r := { h.r with a := h.r.a.set i (BitVec.ofNat 32 v) } } := by
  have hi : Fin.ofNat 8 i.val = i := Fin.ext (Nat.mod_eq_of_lt i.isLt)
  simp only [Thread.set, if_pos i.isLt, hi]

theorem Thread.set_pc (h : Thread) (v : Nat) : h.set 0x19 v = { h with r := { h.r with pc := BitVec.ofNat 32 v } } := rfl

/-- THSET of an idle thread writes the register that its selector names. -/
theorem thset_sets {a : Site} {w : SeWord} {s : State} (h : s.issues a (Rules.thsetForm w) w = true) (ht : a.thread = 0)
    (h0 : 0 < Rules.setTarget s a w) (h4 : Rules.setTarget s a w < 4)
    (hidle : ((s.at a.core).th (Fin.ofNat 4 (Rules.setTarget s a w))).st.idle = true) (hsel : Rules.setSel s a w ≤ 0x1B)
    (hpc : Rules.setSel s a w = 0x19 → Rules.setVal s a w % 4 = 0) :
    exec (.thset a w) s = .next (s.after a.core
      (((s.issuedCore a).mapTh (Fin.ofNat 4 (Rules.setTarget s a w)) (fun x => x.set (Rules.setSel s a w) (Rules.setVal s a w))).finish
        a.thread w.len (s.ops a (Rules.thsetForm w) w))) := by
  have hlife := fun c : Core => Core.life_mapTh c (Fin.ofNat 4 (Rules.setTarget s a w)) _
    (fun x => x.set_life (Rules.setSel s a w) (Rules.setVal s a w))
  show seCmd a (Rules.thsetForm w) w _ _ _ s = _
  rw [seCmd_eq h _ _ _ (thsetExtra_of_idle ht h0 h4 hidle hsel hpc) rfl]
  · simp only [Operand.value_issued]
    rfl
  · simp only [Operand.value_issued, Core.life_finish]
    exact hlife _

theorem thset_sets_address {a : Site} {w : SeWord} {i : Fin 8} {s : State} (h : s.issues a (Rules.thsetForm w) w = true)
    (ht : a.thread = 0) (h0 : 0 < Rules.setTarget s a w) (h4 : Rules.setTarget s a w < 4)
    (hidle : ((s.at a.core).th (Fin.ofNat 4 (Rules.setTarget s a w))).st.idle = true) (hsel : Rules.setSel s a w = i.val) :
    exec (.thset a w) s = .next (s.after a.core
      (((s.issuedCore a).mapR (Fin.ofNat 4 (Rules.setTarget s a w)) (fun r =>
        { r with a := r.a.set i (BitVec.ofNat 32 (Rules.setVal s a w)) })).finish a.thread w.len (s.ops a (Rules.thsetForm w) w))) := by
  rw [thset_sets h ht h0 h4 hidle (by omega) (by omega), hsel]
  simp only [Thread.set_a]
  rfl

theorem thset_sets_pc {a : Site} {w : SeWord} {s : State} (h : s.issues a (Rules.thsetForm w) w = true)
    (ht : a.thread = 0) (h0 : 0 < Rules.setTarget s a w) (h4 : Rules.setTarget s a w < 4)
    (hidle : ((s.at a.core).th (Fin.ofNat 4 (Rules.setTarget s a w))).st.idle = true) (hsel : Rules.setSel s a w = 0x19)
    (hpc : Rules.setVal s a w % 4 = 0) :
    exec (.thset a w) s = .next (s.after a.core
      (((s.issuedCore a).mapR (Fin.ofNat 4 (Rules.setTarget s a w)) (fun r =>
        { r with pc := BitVec.ofNat 32 (Rules.setVal s a w) })).finish a.thread w.len (s.ops a (Rules.thsetForm w) w))) := by
  rw [thset_sets h ht h0 h4 hidle (by omega) (fun _ => hpc), hsel]
  simp only [Thread.set_pc]
  rfl

/-! ### Starting and stopping -/

/-- A thread that waits for nothing has no wait to abandon. -/
theorem Core.abandon_of_none {e : Env} {t : Fin 4} {c : Core} (h : (c.th t).stall = .none) : c.abandon e t = c := by
  simp only [Core.abandon, h]

/-- The operand of THGO and THSTOP is the number of the target. -/
theorem State.val_target (s : State) (a : Site) (w : SeWord) : s.val a (s.ops a (controlForm w) w).a = Rules.target s a w := rfl

section
variable {a : Site} {w : SeWord} {s : State} (h : s.issues a (controlForm w) w = true) (ht : a.thread = 0)
  (h0 : 0 < Rules.target s a w) (h4 : Rules.target s a w < 4)
include h ht h0 h4

theorem thgo_starts (hmod : w.mod = 0) (hidle : ((s.at a.core).th (Fin.ofNat 4 (Rules.target s a w))).st.idle = true) :
    exec (.thgo a w) s = .next (s.after a.core
      (((s.issuedCore a).setSt (s.env a.core) (Fin.ofNat 4 (Rules.target s a w)) .running).finish a.thread w.len
        (s.ops a (controlForm w) w))) := by
  show ofMod 0 w (seCmd a (controlForm w) w _ _ _) s = _
  rw [ofMod_own (by rw [hmod]; rfl), seCmd_of_still h]
  · simp only [Operand.value_issued, State.val_target]
  · simp only [Operand.value_at, State.val_target, controlExtra_of_other ht h0 h4, hidle, if_true]
  · rfl
  · simp only [Operand.value_issued, State.val_target]
    exact Core.still_of_runs (State.at_still_of_issues h)
      (by rw [Core.life_finish, Core.life_setSt, State.life_issuedCore])

theorem thstop_of_idle (hmod : w.mod = 1) (hidle : ((s.at a.core).th (Fin.ofNat 4 (Rules.target s a w))).st.idle = true) :
    exec (.thstop a w) s = .next (s.after a.core ((s.issuedCore a).finish a.thread w.len (s.ops a (controlForm w) w))) := by
  have hissued : ((s.issuedCore a).th (Fin.ofNat 4 (Rules.target s a w))).st.idle = true := by
    rw [(State.sameData_issued s a).st, hidle]
  have hnot : ¬ (((s.at a.core).th (Fin.ofNat 4 (Rules.target s a w))).st = .halted ∨
      ((s.at a.core).th (Fin.ofNat 4 (Rules.target s a w))).st = .faulted) := by
    rintro (hst | hst) <;> rw [hst] at hidle <;> cases hidle
  show ofMod 1 w (seCmd a (controlForm w) w _ _ _) s = _
  rw [ofMod_own (by rw [hmod]; rfl), seCmd_eq h]
  · simp only [Operand.value_issued, State.val_target, hissued, if_true]
  · simp only [Operand.value_at, State.val_target, controlExtra_of_other ht h0 h4]
    exact if_neg hnot
  · rfl
  · simp only [Operand.value_issued, State.val_target, hissued, if_true, Core.life_finish]

theorem thstop_of_running (hmod : w.mod = 1) (hst : ((s.at a.core).th (Fin.ofNat 4 (Rules.target s a w))).st = .running)
    (hstall : ((s.at a.core).th (Fin.ofNat 4 (Rules.target s a w))).stall = .none) :
    exec (.thstop a w) s = .next (s.after a.core
      (((s.issuedCore a).mapTh (Fin.ofNat 4 (Rules.target s a w)) (fun h => { h with stopAsked := true })).mapTh a.thread
        (fun h => { h with stall := .thstop (Fin.ofNat 4 (Rules.target s a w)) w }))) := by
  have hissued : ((s.issuedCore a).th (Fin.ofNat 4 (Rules.target s a w))).st.idle = false := by
    rw [(State.sameData_issued s a).st, hst]
    rfl
  have hnone : (((s.issuedCore a).mapTh (Fin.ofNat 4 (Rules.target s a w)) (fun h => { h with stopAsked := true })).th
      (Fin.ofNat 4 (Rules.target s a w))).stall = .none := by
    rw [Core.mapTh_th_same]
    exact ((State.sameData_issued s a).stall _).trans hstall
  show ofMod 1 w (seCmd a (controlForm w) w _ _ _) s = _
  rw [ofMod_own (by rw [hmod]; rfl), seCmd_eq h]
  · simp only [Operand.value_issued, State.val_target, hissued, Bool.false_eq_true, if_false, Core.abandon_of_none hnone]
  · simp only [Operand.value_at, State.val_target, controlExtra_of_other ht h0 h4, hst]
    rfl
  · rfl
  · simp only [Operand.value_issued, State.val_target, hissued, Bool.false_eq_true, if_false, Core.abandon_of_none hnone]
    rw [Core.life_stall, Core.life_stopAsked]
end

/-! ### The results of what a thread has issued -/

/-- A binary32 result is written, and its flags are set. -/
def Core.writeResult (t : Fin 4) (c : Core) (r : FpResult) : Core := (c.writeDest t r.dest r.bytes r.value.toNat).flag r.flags

/-- The core with the binary32 results in flight of thread `t`. -/
def Core.withFps (c : Core) (t : Fin 4) (l : List FpResult) : Core := c.mapTh t (fun h => { h with fps := l })

theorem Core.withFps_withFps (c : Core) (t : Fin 4) (l k : List FpResult) : (c.withFps t l).withFps t k = c.withFps t k :=
  Core.mapTh_mapTh c t _ _

theorem Core.withFps_self (c : Core) (t : Fin 4) : c.withFps t (c.th t).fps = c := Core.mapTh_self rfl

@[simp] theorem Core.withFps_fps (c : Core) (t : Fin 4) (l : List FpResult) : ((c.withFps t l).th t).fps = l := by
  rw [Core.withFps, Core.mapTh_th_same]

@[simp] theorem Core.life_withFps (c : Core) (t : Fin 4) (l : List FpResult) : (c.withFps t l).life = c.life :=
  Core.life_mapTh c t _ (fun _ => ⟨rfl, rfl⟩)

@[simp] theorem Core.life_writeResult (t : Fin 4) (c : Core) (r : FpResult) : (c.writeResult t r).life = c.life := by
  rw [Core.writeResult, Core.life_flag, Core.life_writeDest]

theorem Core.mapR_withFps (c : Core) (t : Fin 4) (l : List FpResult) (f : Regs → Regs) :
    (c.withFps t l).mapR t f = (c.mapR t f).withFps t l := by
  simp only [Core.mapR, Core.withFps, Core.mapTh_mapTh]
  rfl

/-- Writing a result does not depend on those still in flight. -/
theorem Core.writeResult_withFps (c : Core) (t : Fin 4) (l : List FpResult) (r : FpResult) :
    (c.withFps t l).writeResult t r = (c.writeResult t r).withFps t l := by
  unfold Core.writeResult Core.writeDest
  cases r.dest with
  | none => rfl
  | mem addr n => rfl
  | areg i => exact congrArg (Core.flag r.flags) (c.mapR_withFps t l _)
  | special i => exact congrArg (Core.flag r.flags) (c.mapR_withFps t l _)
  | loopCount i => exact congrArg (Core.flag r.flags) (c.mapR_withFps t l _)

theorem Core.foldl_writeResult_withFps (c : Core) (t : Fin 4) (l rs : List FpResult) :
    rs.foldl (Core.writeResult t) (c.withFps t l) = (rs.foldl (Core.writeResult t) c).withFps t l := by
  induction rs generalizing c with
  | nil => rfl
  | cons r rs ih => rw [List.foldl_cons, Core.writeResult_withFps, ih, List.foldl_cons]

/-- The results in flight of a thread are written in the order of their issue. -/
theorem Core.writeFps_eq_foldl {t : Fin 4} {rs : List FpResult} {c : Core} (h : (c.th t).fps = rs) :
    c.writeFps t rs.length = (rs.foldl (Core.writeResult t) c).withFps t [] := by
  induction rs generalizing c with
  | nil => exact (h ▸ c.withFps_self t).symm
  | cons r rs ih =>
    have hw : c.writeFp t = (c.writeResult t r).withFps t rs := by
      rw [← Core.writeResult_withFps, Core.writeFp, h]
      rfl
    rw [List.length_cons, Core.writeFps, hw, ih (Core.withFps_fps _ _ _), Core.foldl_writeResult_withFps, Core.withFps_withFps,
      List.foldl_cons]

/-- What R105 says of the results of a thread that stops is what the model writes. -/
theorem Core.flushAll_eq_finished (c : Core) (t : Fin 4) : c.flushAll t = Rules.finished c t := by
  rw [Core.flushAll, Core.writeFps_eq_foldl rfl]
  rfl

@[simp] theorem Core.life_flushMul (c : Core) (t : Fin 4) : (c.flushMul t).life = c.life :=
  Core.life_mapTh c t _ (fun _ => ⟨rfl, rfl⟩)

@[simp] theorem Core.life_flushDiv (c : Core) (t : Fin 4) : (c.flushDiv t).life = c.life := by
  unfold Core.flushDiv
  cases c.div with
  | none => rfl
  | some d =>
    exact either_branch (P := fun x : Core => x.life = c.life)
      ((Core.life_flag _ _).trans (Core.life_mapR { c with div := none } t _)) rfl

@[simp] theorem Core.life_settled (c : Core) (t : Fin 4) : (Rules.settled c t).life = c.life := by
  rw [Rules.settled, Core.life_flushDiv, Core.life_flushMul]

@[simp] theorem Core.life_finished (c : Core) (t : Fin 4) : (Rules.finished c t).life = c.life := by
  have hfold := foldl_keeps Core.life (Core.writeResult t) (fun d r => d.life_writeResult t r) (c.th t).fps c
  exact (Core.life_settled _ t).trans ((Core.life_withFps _ t []).trans hfold)

/-! ### The end of a thread -/

/-- The state of a thread is part of what its core reports. -/
theorem Core.st_of_life {c d : Core} (h : d.life = c.life) (t : Fin 4) : (d.th t).st = (c.th t).st :=
  (Prod.mk.inj (Life.st_eq h t)).1

theorem thstopComplete_stops {core : CoreId} {t : Fin 4} {w : SeWord} {s : State} (hcalm : s.calm core = true)
    (h0 : ((s.at core).th 0).stall = .thstop t w) (hrun0 : ((s.at core).th 0).st = .running) (hne : t ≠ 0)
    (hrun : ((s.at core).th t).st = .running) (hstall : ((s.at core).th t).stall = .none) (hfrozen : (s.at core).frozen = false) :
    exec (.thstopComplete core t) s = .next (s.after core
      (((((Rules.finished (s.at core) t).setSt (s.env core) t .stopped).mapTh t (fun h => { h with stopAsked := false })).complete 0
        (controlForm w) w))) := by
  have hst : ((Rules.finished (s.at core) t).th t).st = .running := (Core.st_of_life (Core.life_finished _ t) t).trans hrun
  show onCore core _ s = _
  rw [onCore_eq hcalm]
  · simp only [h0, hstall, hfrozen, Core.flushAll_eq_finished, hst, Bool.false_eq_true, not_false_eq_true, and_self, true_or, if_true]
  · simp only [h0, hstall, hfrozen, Core.flushAll_eq_finished, hst, Bool.false_eq_true, not_false_eq_true, and_self, true_or, if_true]
    refine Core.still_of_other_runs (State.still_of_calm hcalm) (st := .stopped) ?_ hne.symm hrun0
    rw [Core.life_complete, Core.life_stopAsked, Core.life_setSt, Core.life_finished]

theorem thend_ends {a : Site} {w : SeWord} {u : Fin 4} {s : State} (h : s.issues a (thendForm w) w = true) (hmod : w.mod = 2)
    (hne : u ≠ a.thread) (hu : ((s.at a.core).th u).st = .running) :
    exec (.thend a w) s = .next (s.after a.core
      (((Rules.settled (s.issuedCore a) a.thread).mapR a.thread (fun r =>
        { r with pc := r.pc + BitVec.ofNat 32 (4 * (w.len.toNat + 1)) })).setSt (s.env a.core) a.thread .inactive)) := by
  show ofMod 2 w (seCmd a (thendForm w) w _ _ _) s = _
  rw [ofMod_own (by rw [hmod]; rfl), seCmd_of_still h _ _ _ rfl rfl]
  · rfl
  · refine Core.still_of_other_runs (State.at_still_of_issues h) (st := .inactive) ?_ hne hu
    rw [Core.life_setSt, Core.life_mapR]
    exact congrArg (fun l : Life => l.enter a.thread .inactive)
      ((Core.life_settled _ a.thread).trans (State.life_issuedCore s a))

/-- Settles O12: each clause is the lemma about its instruction above. -/
theorem threadZeroControlsTheOthers : Obligations.ThreadZeroControlsTheOthers := by
  unfold Obligations.ThreadZeroControlsTheOthers
  exact ⟨fun a w i s => thset_sets_address, fun a w s => thset_sets_pc,
    fun a w s h ht hmod h0 h4 => thgo_starts h ht h0 h4 hmod, fun a w s h ht hmod h0 h4 => thstop_of_running h ht h0 h4 hmod,
    fun a w s h ht hmod h0 h4 => thstop_of_idle h ht h0 h4 hmod, fun core t w s => thstopComplete_stops,
    fun a w u s => thend_ends⟩

end Sys2Proof.Machine
end

section
/-! PROOFS. Runners: words sent and received in order, and the waits of their threads (R108 to R112). -/

namespace Sys2Proof.Machine

/-! ### Waiting -/

@[simp] theorem Core.life_waitOn (c : Core) (e : Env) (t : Fin 4) (st : Stall) :
    (c.waitOn e t st).life = c.life.enter t .waiting := by
  rw [Core.waitOn, Core.life_setSt, Core.life_stall]

/-- An instruction that leaves its thread waiting, while another thread of its core runs, has its effect, and the module is told
nothing. -/
theorem still_of_waits {s : State} {a : Site} {f : Form} {w : SeWord} {u : Fin 4} {d : Core} (h : s.issues a f w = true)
    (hl : d.life = (s.at a.core).life.enter a.thread .waiting) (hne : u ≠ a.thread) (hu : ((s.at a.core).th u).st = .running) :
    d.still = true :=
  Core.still_of_other_runs (State.at_still_of_issues h) hl hne hu

/-! ### Sending -/

theorem runnerExtra_of_sender {c : Core} {t : Fin 4} {n : Nat} (hn : n < 8) (hen : (c.runners[Fin.ofNat 8 n]).en = true)
    (hmask : ((c.runners[Fin.ofNat 8 n]).send).getLsbD t.val = true) : runnerExtra c t n false = [] := by
  simp only [runnerExtra, if_neg (Nat.not_lt.mpr (Nat.le_of_lt_succ hn)), hen, Bool.false_eq_true, if_false, hmask, Bool.and_self,
    if_true]

theorem runnerExtra_of_receiver {c : Core} {t : Fin 4} {n : Nat} (hn : n < 8) (hen : (c.runners[Fin.ofNat 8 n]).en = true)
    (hmask : ((c.runners[Fin.ofNat 8 n]).recv).getLsbD t.val = true) : runnerExtra c t n true = [] := by
  simp only [runnerExtra, if_neg (Nat.not_lt.mpr (Nat.le_of_lt_succ hn)), hen, if_true, hmask, Bool.and_self]

/-- Words enter a runner that has room and no sender waiting. -/
theorem Core.send_of_room {e : Env} {t : Fin 4} {n : Fin 8} {ws : List DWord} {w : SeWord} {o : Operands} {c : Core}
    (hnone : (c.runners[n]).sendWait = []) (hroom : (c.runners[n]).words.length + ws.length ≤ 4) :
    c.send e t n ws w o = (Rules.sent c n ws).finish t w.len o := by
  have hfits : ((c.runners[n]).sendWait.isEmpty && decide ((c.runners[n]).words.length + ws.length ≤ 4)) = true := by
    rw [hnone, decide_eq_true hroom]
    rfl
  unfold Core.send
  exact if_pos hfits

/-- A sender waits behind those that wait, where the words have no room. -/
theorem Core.send_of_full {e : Env} {t : Fin 4} {n : Fin 8} {ws : List DWord} {w : SeWord} {o : Operands} {c : Core}
    (hfull : 4 < (c.runners[n]).words.length + ws.length) :
    c.send e t n ws w o = Rules.waiting (Rules.wantsToSend c n t ws) e t (.runner n false w) := by
  simp only [Core.send, Nat.not_le.mpr hfull, decide_false, Bool.and_false, Bool.false_eq_true, if_false]
  rfl

/-- A send whose thread has nothing left to perform sends at once (R117). -/
theorem Core.sendRel_of_free {s : State} {a : Site} (hfree : Rules.free s a 1 = true) (n : Fin 8) (ws : List DWord) (w : SeWord)
    (o : Operands) :
    (s.issuedCore a).sendRel (s.env a.core) a.thread n ws w o = (s.issuedCore a).send (s.env a.core) a.thread n ws w o := by
  have hfree' : (s.issuedCore a).fenceDone (s.env a.core) a.thread (s.issuedCore a).seq 1 = true := hfree
  rw [Core.sendRel, if_pos hfree']

@[simp] theorem Core.life_sent (c : Core) (n : Fin 8) (ws : List DWord) : (Rules.sent c n ws).life = c.life := rfl

@[simp] theorem Core.life_wantsToSend (c : Core) (n : Fin 8) (t : Fin 4) (ws : List DWord) :
    (Rules.wantsToSend c n t ws).life = c.life := rfl

/-- The command that RSEND and RSEND4 share: the words that it takes from the value of its operand a. -/
def sendCmd (a : Site) (f : Form) (w : SeWord) (words : Nat → List DWord) (s : State) : Out :=
  seCmd a f w (fun _ c o => runnerExtra c a.thread (o.d.value c a.thread) false) noWaits
    (fun e o c => c.sendRel e a.thread (Fin.ofNat 8 (o.d.value c a.thread)) (words (o.a.value c a.thread)) w o) s

theorem exec_rsend {a : Site} {w : SeWord} {s : State} (hmod : w.mod = 0) :
    exec (.rsend a w) s = sendCmd a (rsendForm w) w (fun x => [BitVec.ofNat 64 x]) s :=
  ofMod_own (by rw [hmod]; rfl) _ s

theorem exec_rsend4 {a : Site} {w : SeWord} {s : State} (hmod : w.mod = 1) :
    exec (.rsend4 a w) s = sendCmd a (rsend4Form w) w words4 s :=
  ofMod_own (by rw [hmod]; rfl) _ s

section
variable {a : Site} {f : Form} {w : SeWord} {s : State} {words : Nat → List DWord} (h : Rules.maySend s a f w)
include h

/-- A send that its thread may make sends on the issued core, when that leaves the core still. -/
theorem sendCmd_sends {d : Core}
    (hd : (s.issuedCore a).send (s.env a.core) a.thread (Rules.sendTo s a f w) (words (s.val a (s.ops a f w).a)) w (s.ops a f w) = d)
    (hs : d.still = true) : sendCmd a f w words s = .next (s.after a.core d) := by
  obtain ⟨hissues, hfree, hn, hen, hmask⟩ := h
  have hbody : (s.issuedCore a).sendRel (s.env a.core) a.thread (Fin.ofNat 8 (s.val a (s.ops a f w).d))
      (words (s.val a (s.ops a f w).a)) w (s.ops a f w) = d := (Core.sendRel_of_free hfree _ _ _ _).trans hd
  rw [sendCmd, seCmd_of_still hissues]
  · simp only [Operand.value_issued, hbody]
  · simp only [Operand.value_at]
    exact runnerExtra_of_sender hn hen hmask
  · rfl
  · simp only [Operand.value_issued, hbody, hs]

theorem sendCmd_of_room (hnone : ((s.at a.core).runners[Rules.sendTo s a f w]).sendWait = [])
    (hroom : ((s.at a.core).runners[Rules.sendTo s a f w]).words.length + (words (s.val a (s.ops a f w).a)).length ≤ 4) :
    sendCmd a f w words s = .next (s.after a.core
      ((Rules.sent (s.issuedCore a) (Rules.sendTo s a f w) (words (s.val a (s.ops a f w).a))).finish a.thread w.len (s.ops a f w))) := by
  rw [← (State.sameData_issued s a).runners] at hnone hroom
  refine sendCmd_sends h (Core.send_of_room hnone hroom) ?_
  exact Core.still_of_life (by rw [Core.life_finish, Core.life_sent, State.life_issuedCore]) (State.at_still_of_issues h.1)

theorem sendCmd_of_full {u : Fin 4} (hne : u ≠ a.thread) (hu : ((s.at a.core).th u).st = .running)
    (hfull : 4 < ((s.at a.core).runners[Rules.sendTo s a f w]).words.length + (words (s.val a (s.ops a f w).a)).length) :
    sendCmd a f w words s = .next (s.after a.core
      (Rules.waiting (Rules.wantsToSend (s.issuedCore a) (Rules.sendTo s a f w) a.thread (words (s.val a (s.ops a f w).a)))
        (s.env a.core) a.thread (.runner (Rules.sendTo s a f w) false w))) := by
  rw [← (State.sameData_issued s a).runners] at hfull
  refine sendCmd_sends h (Core.send_of_full hfull) (still_of_waits h.1 ?_ hne hu)
  exact (Core.life_waitOn _ _ _ _).trans (by rw [Core.life_wantsToSend, State.life_issuedCore])
end

/-! ### Receiving -/

theorem rrecv_takes {a : Site} {w : SeWord} {x : DWord} {xs : List DWord} {s : State} (h : s.issues a (rrecvForm w) w = true)
    (hmod : w.mod = 2) (hn : s.val a (s.ops a (rrecvForm w) w).a < 8)
    (hen : ((s.at a.core).runners[Rules.recvFrom s a w]).en = true)
    (hmask : (((s.at a.core).runners[Rules.recvFrom s a w]).recv).getLsbD a.thread.val = true)
    (hnone : ((s.at a.core).runners[Rules.recvFrom s a w]).recvWait = [])
    (hwords : ((s.at a.core).runners[Rules.recvFrom s a w]).words = x :: xs) :
    exec (.rrecv a w) s = .next (s.after a.core
      ((((s.issuedCore a).setRunner (Rules.recvFrom s a w)
        { (s.at a.core).runners[Rules.recvFrom s a w] with words := xs }).writeDest a.thread (s.ops a (rrecvForm w) w).d.dest
          (s.ops a (rrecvForm w) w).d.ty.bytes x.toNat).finish a.thread w.len (s.ops a (rrecvForm w) w))) := by
  have hfrom : Fin.ofNat 8 (s.val a (s.ops a (rrecvForm w) w).a) = Rules.recvFrom s a w := rfl
  show ofMod 2 w (seCmd a (rrecvForm w) w _ _ _) s = _
  rw [ofMod_own (by rw [hmod]; rfl), seCmd_eq h]
  · simp only [Operand.value_issued, hfrom, (State.sameData_issued s a).runners, hnone, hwords]
  · simp only [Operand.value_at]
    exact runnerExtra_of_receiver hn hen hmask
  · rfl
  · simp only [Operand.value_issued, hfrom, (State.sameData_issued s a).runners, hnone, hwords, Core.life_finish, Core.life_writeDest,
      Core.life_setRunner]

/-! ### The end of a wait -/

theorem Core.runnerWord_of_stall {c : Core} {t : Fin 4} {n : Fin 8} {recv : Bool} {w : SeWord}
    (h : (c.th t).stall = .runner n recv w) : c.runnerWord t = some w := by
  rw [Core.runnerWord, h]

/-- A write of words whose check failed marks no bank. -/
theorem Core.scrub_unverified (rs : List (Nat × Nat)) (fs : List SpmFinding) (c : Core) :
    (c.unverified rs fs).spm.scrub = c.spm.scrub := by
  refine foldl_keeps (fun d : Core => d.spm.scrub) _ (fun d f => ?_) fs c
  cases f with
  | badCheck k => exact either_branch (P := fun x : Core => x.spm.scrub = d.spm.scrub) rfl rfl
  | corrected k bit => rfl
  | uncorrectable k => rfl

theorem Core.scrub_writeDest (c : Core) (t : Fin 4) (d : Dest) (n v : Nat) : (c.writeDest t d n v).spm.scrub = c.spm.scrub := by
  unfold Core.writeDest
  cases d <;> rfl

/-- The first receiver of a runner takes its first word (R109). -/
theorem Core.runnerRecv_takes {e : Env} {n : Fin 8} {found : List SpmFinding} {c : Core} {t : Fin 4} {ts : List (Fin 4)} {x : DWord}
    {xs : List DWord} {w : SeWord} (hmarked : c.spm.marked .near = false) (hwait : (c.runners[n]).recvWait = t :: ts)
    (hwords : (c.runners[n]).words = x :: xs) (hstall : (c.th t).stall = .runner n true w) :
    c.runnerRecv e n found =
      (((((c.setRunner n { c.runners[n] with words := xs, recvWait := ts }).writeDest t
        (operands (rrecvForm w) w (c.th t).r).d.dest (operands (rrecvForm w) w (c.th t).r).d.ty.bytes
          x.toNat).unverified (operands (rrecvForm w) w (c.th t).r).writeRanges found).setSt e t .running).complete t
            (rrecvForm w) w) := by
  unfold Core.runnerRecv
  simp only [hwait, hwords, Core.runnerWord_of_stall hstall]
  rw [Core.granted_of_unmarked]
  rw [Spm.marked, Core.scrub_unverified, Core.scrub_writeDest]
  exact hmarked

theorem recvWait_completes {core : CoreId} {n : Fin 8} {t : Fin 4} {ts : List (Fin 4)} {x : DWord} {xs : List DWord} {w : SeWord}
    {found : List SpmFinding} {s : State} (hcalm : s.calm core = true) (hfrozen : (s.at core).frozen = false)
    (hwait : ((s.at core).runners[n]).recvWait = t :: ts) (hwords : ((s.at core).runners[n]).words = x :: xs)
    (hstall : ((s.at core).th t).stall = .runner n true w) :
    exec (.runnerWaitComplete core n true found) s = .next (s.after core
      ((((((s.at core).setRunner n { (s.at core).runners[n] with words := xs, recvWait := ts }).writeDest t
        (operands (rrecvForm w) w ((s.at core).th t).r).d.dest (operands (rrecvForm w) w ((s.at core).th t).r).d.ty.bytes
          x.toNat).unverified (operands (rrecvForm w) w ((s.at core).th t).r).writeRanges found).setSt (s.env core) t
            .running).complete t (rrecvForm w) w)) := by
  have htakes := Core.runnerRecv_takes (e := s.env core) (found := found) (State.unmarked_of_calm hcalm) hwait hwords hstall
  show onCore core (fun e c => if c.frozen then c else c.runnerRecv e n found) s = _
  rw [onCore_eq hcalm]
  · simp only [hfrozen, Bool.false_eq_true, if_false, htakes]
  · simp only [hfrozen, Bool.false_eq_true, if_false, htakes]
    refine Core.still_of_runs (State.still_of_calm hcalm) (t := t) ?_
    rw [Core.life_complete, Core.life_setSt, Core.life_unverified, Core.life_writeDest, Core.life_setRunner]

theorem sendWait_completes {core : CoreId} {n : Fin 8} {t : Fin 4} {ws : List DWord} {rest : List (Fin 4 × List DWord)} {w : SeWord}
    {s : State} (hcalm : s.calm core = true) (hfrozen : (s.at core).frozen = false)
    (hwait : ((s.at core).runners[n]).sendWait = (t, ws) :: rest)
    (hroom : ((s.at core).runners[n]).words.length + ws.length ≤ 4) (hstall : ((s.at core).th t).stall = .runner n false w) :
    exec (.runnerWaitComplete core n false) s = .next (s.after core
      ((((s.at core).setRunner n
        { (s.at core).runners[n] with words := ((s.at core).runners[n]).words ++ ws, sendWait := rest }).setSt (s.env core) t
          .running).complete t (runnerForm w) w)) := by
  show onCore core (fun e c => if c.frozen then c else c.runnerSend e n) s = _
  rw [onCore_eq hcalm]
  · simp only [hfrozen, Bool.false_eq_true, if_false, Core.runnerSend, hwait, Core.runnerWord_of_stall hstall, if_pos hroom]
  · simp only [hfrozen, Bool.false_eq_true, if_false, Core.runnerSend, hwait, Core.runnerWord_of_stall hstall, if_pos hroom]
    refine Core.still_of_runs (State.still_of_calm hcalm) (t := t) ?_
    rw [Core.life_complete, Core.life_setSt, Core.life_setRunner]

theorem words4_length (x : Nat) : (words4 x).length = 4 := rfl

/-- Settles O13: a send enters its words where they have room and waits where they have not; the first receiver takes the first word;
and a wait ends when the first waiter finds its words or its room. -/
theorem runnersPassWordsInOrder : Obligations.RunnersPassWordsInOrder := by
  unfold Obligations.RunnersPassWordsInOrder
  refine ⟨fun a w s h hmod hnone hroom => ?_, fun a w s h hmod hnone hempty => ?_, fun a w u s h hmod hne hu hwords => ?_,
    fun a w x xs s => rrecv_takes, fun core n t ts x xs w found s => recvWait_completes,
    fun core n t ws rest w s => sendWait_completes⟩
  · exact (exec_rsend hmod).trans (sendCmd_of_room h hnone hroom)
  · exact (exec_rsend4 hmod).trans (sendCmd_of_room h hnone (by rw [hempty, words4_length]; rfl))
  · have hpos := List.length_pos_of_ne_nil hwords
    exact (exec_rsend4 hmod).trans (sendCmd_of_full h hne hu (by rw [words4_length]; omega))

end Sys2Proof.Machine
end

section
/-! PROOFS. Events: their counters, waiters and timer, and the core that freezes because every thread waits for it (R113 to R116, R119,
R120). -/

namespace Sys2Proof.Machine

/-! ### Counts -/

theorem evCount_eq_count (v : Nat) : evCount v = Rules.count v := by
  have hbits : bitsAt v 8 8 = v / 256 % 256 := by rw [bitsAt, Nat.shiftRight_eq_div_pow]; rfl
  rw [evCount, Rules.count, hbits]
  split <;> omega

/-- A counter gains with saturation (R113). -/
theorem Events.gain_eq_gained (v : Events) (n : Fin 32) (k : Nat) : v.gain n k = Rules.gained v n k := by
  unfold Events.gain Rules.gained
  by_cases h : 0xFFFF < (v.ev[n]).toNat + k
  · simp only [if_pos h, Nat.min_eq_left h.le]
    rfl
  · simp only [if_neg h, Nat.min_eq_right (Nat.le_of_not_lt h)]

/-- An operand without a reserved bit raises nothing (Table 4-4). -/
theorem eventExtra_of_legal {v : Nat} (h : v < 65536) (h5 : v / 32 % 8 = 0) : eventExtra v false = [] := by
  have hbits : bitsAt v 5 3 = 0 := by rw [bitsAt, Nat.shiftRight_eq_div_pow]; exact h5
  have hhigh : v / 65536 = 0 := Nat.div_eq_of_lt h
  simp only [eventExtra, hbits, hhigh, ne_eq, not_true_eq_false, Bool.false_eq_true, false_and, or_self, if_false]

/-- CLREV takes no count. -/
theorem eventExtra_of_clear {v : Nat} (h : v < 32) : eventExtra v true = [] := by
  have h5 : bitsAt v 5 3 = 0 := by rw [bitsAt, Nat.shiftRight_eq_div_pow]; omega
  have h8 : bitsAt v 8 8 = 0 := by rw [bitsAt, Nat.shiftRight_eq_div_pow]; omega
  have hhigh : v / 65536 = 0 := Nat.div_eq_of_lt (by omega)
  simp only [eventExtra, h5, h8, hhigh, ne_eq, not_true_eq_false, and_false, or_self, if_false]

/-! ### The instructions -/

theorem evNum_eq_ofNat (v : Nat) : evNum v = Fin.ofNat 32 v := rfl

/-- The operand of an event instruction. -/
theorem State.val_event (s : State) (a : Site) (w : SeWord) : s.val a (s.ops a (eventForm w) w).a = Rules.event s a w := rfl

theorem setev_adds {a : Site} {w : SeWord} {s : State} (h : Rules.EventIssues s a w 0) (hfree : Rules.free s a 1 = true) :
    exec (.setev a w) s = .next (s.after a.core
      (((s.issuedCore a).setEvents (Rules.gained (s.at a.core).events (Fin.ofNat 32 (Rules.event s a w))
        (Rules.count (Rules.event s a w)))).finish a.thread w.len (s.ops a (eventForm w) w))) := by
  obtain ⟨hissues, hmod, hlt, h5⟩ := h
  have hfree' : (s.issuedCore a).fenceDone (s.env a.core) a.thread (s.issuedCore a).seq 1 = true := hfree
  have hset : ∀ v, (s.issuedCore a).setEvent v = (s.issuedCore a).setEvents
      (Rules.gained (s.at a.core).events (Fin.ofNat 32 v) (Rules.count v)) := fun v => by
    rw [Core.setEvent, Events.gain_eq_gained, evCount_eq_count, (State.sameData_issued s a).events]
    rfl
  show ofMod 0 w (seCmd a (eventForm w) w _ _ _) s = _
  rw [ofMod_own (by rw [hmod]; rfl), seCmd_eq hissues]
  · simp only [Operand.value_issued, State.val_event, hfree', if_true, hset]
  · simp only [Operand.value_at, State.val_event]
    exact eventExtra_of_legal hlt h5
  · rfl
  · simp only [Operand.value_issued, State.val_event, hfree', if_true, hset, Core.life_finish, Core.life_setEvents]

theorem waitev_takes {a : Site} {w : SeWord} {s : State} (h : Rules.EventIssues s a w 1)
    (hnone : ((s.at a.core).events.waiters[Fin.ofNat 32 (Rules.event s a w)]) = [])
    (hcount : Rules.count (Rules.event s a w) ≤ ((s.at a.core).events.ev[Fin.ofNat 32 (Rules.event s a w)]).toNat) :
    exec (.waitev a w) s = .next (s.after a.core
      (((s.issuedCore a).setEvents { (s.at a.core).events with
        ev := (s.at a.core).events.ev.set (Fin.ofNat 32 (Rules.event s a w))
          (BitVec.ofNat 16 (((s.at a.core).events.ev[Fin.ofNat 32 (Rules.event s a w)]).toNat - Rules.count (Rules.event s a w)))
        }).finish a.thread w.len (s.ops a (eventForm w) w))) := by
  obtain ⟨hissues, hmod, hlt, h5⟩ := h
  have htakes : ((s.at a.core).events.waiters[Fin.ofNat 32 (Rules.event s a w)].isEmpty &&
      decide (Rules.count (Rules.event s a w) ≤ ((s.at a.core).events.ev[Fin.ofNat 32 (Rules.event s a w)]).toNat)) = true := by
    rw [decide_eq_true hcount, Bool.and_true, List.isEmpty_iff]
    exact hnone
  show ofMod 1 w (seCmd a (eventForm w) w _ _ _) s = _
  rw [ofMod_own (by rw [hmod]; rfl), seCmd_eq hissues]
  · simp only [Operand.value_issued, State.val_event, (State.sameData_issued s a).events, evNum_eq_ofNat,
      evCount_eq_count, if_pos htakes]
    rfl
  · simp only [Operand.value_at, State.val_event]
    exact eventExtra_of_legal hlt h5
  · rfl
  · simp only [Operand.value_issued, State.val_event, (State.sameData_issued s a).events, evNum_eq_ofNat,
      evCount_eq_count, if_pos htakes, Core.life_finish,
      Core.life_setEvents]

theorem waitev_waits {a : Site} {w : SeWord} {u : Fin 4} {s : State} (h : Rules.EventIssues s a w 1) (hne : u ≠ a.thread)
    (hu : ((s.at a.core).th u).st = .running)
    (hcount : ((s.at a.core).events.ev[Fin.ofNat 32 (Rules.event s a w)]).toNat < Rules.count (Rules.event s a w)) :
    exec (.waitev a w) s = .next (s.after a.core
      (Rules.waiting ((s.issuedCore a).setEvents { (s.at a.core).events with
          waiters := (s.at a.core).events.waiters.set (Fin.ofNat 32 (Rules.event s a w))
            ((s.at a.core).events.waiters[Fin.ofNat 32 (Rules.event s a w)] ++ [a.thread]) })
        (s.env a.core) a.thread (.event (Fin.ofNat 32 (Rules.event s a w)) (Rules.count (Rules.event s a w)) w))) := by
  obtain ⟨hissues, hmod, hlt, h5⟩ := h
  have hwaits : ¬ ((s.at a.core).events.waiters[Fin.ofNat 32 (Rules.event s a w)].isEmpty &&
      decide (Rules.count (Rules.event s a w) ≤ ((s.at a.core).events.ev[Fin.ofNat 32 (Rules.event s a w)]).toNat)) = true := by
    rw [decide_eq_false (Nat.not_le.mpr hcount), Bool.and_false]
    exact Bool.false_ne_true
  show ofMod 1 w (seCmd a (eventForm w) w _ _ _) s = _
  rw [ofMod_own (by rw [hmod]; rfl), seCmd_of_still hissues]
  · simp only [Operand.value_issued, State.val_event, (State.sameData_issued s a).events, evNum_eq_ofNat,
      evCount_eq_count, if_neg hwaits]
    rfl
  · simp only [Operand.value_at, State.val_event]
    exact eventExtra_of_legal hlt h5
  · rfl
  · simp only [Operand.value_issued, State.val_event, (State.sameData_issued s a).events, evNum_eq_ofNat,
      evCount_eq_count, if_neg hwaits]
    refine still_of_waits hissues ?_ hne hu
    rw [Core.life_waitOn, Core.life_setEvents, State.life_issuedCore]

theorem clrev_clears {a : Site} {w : SeWord} {s : State} (h : Rules.EventIssues s a w 2) (hlt : Rules.event s a w < 32) :
    exec (.clrev a w) s = .next (s.after a.core
      (((s.issuedCore a).setEvents { (s.at a.core).events with
        ev := (s.at a.core).events.ev.set (Fin.ofNat 32 (Rules.event s a w)) 0 }).finish a.thread w.len (s.ops a (eventForm w) w))) := by
  obtain ⟨hissues, hmod, -⟩ := h
  show ofMod 2 w (seCmd a (eventForm w) w _ _ _) s = _
  rw [ofMod_own (by rw [hmod]; rfl), seCmd_eq hissues]
  · simp only [Operand.value_issued, State.val_event, (State.sameData_issued s a).events]
    rfl
  · simp only [Operand.value_at, State.val_event]
    exact eventExtra_of_clear hlt
  · rfl
  · simp only [Operand.value_issued, Core.life_finish, Core.life_setEvents]

/-! ### The first waiter, and the timer -/

theorem eventWait_completes {core : CoreId} {n : Fin 32} {t : Fin 4} {ts : List (Fin 4)} {m : Fin 32} {need : Nat} {w : SeWord}
    {s : State} (hcalm : s.calm core = true) (hfrozen : (s.at core).frozen = false)
    (hwait : (s.at core).events.waiters[n] = t :: ts) (hstall : ((s.at core).th t).stall = .event m need w)
    (hneed : need ≤ ((s.at core).events.ev[n]).toNat) :
    exec (.eventWaitComplete core n) s = .next (s.after core
      ((((s.at core).setEvents { (s.at core).events with
        ev := (s.at core).events.ev.set n (BitVec.ofNat 16 (((s.at core).events.ev[n]).toNat - need))
        waiters := (s.at core).events.waiters.set n ts }).setSt (s.env core) t .running).complete t (eventForm w) w)) := by
  show onCore core (fun e c => if c.frozen then c else c.eventServe e n) s = _
  rw [onCore_eq hcalm]
  · simp only [hfrozen, Bool.false_eq_true, if_false, Core.eventServe, hwait, hstall, if_pos hneed]
    rfl
  · simp only [hfrozen, Bool.false_eq_true, if_false, Core.eventServe, hwait, hstall, if_pos hneed]
    refine Core.still_of_runs (State.still_of_calm hcalm) (t := t) ?_
    rw [Core.life_complete, Core.life_setSt, Core.life_setEvents]

/-- A core is found alike whatever the time. -/
theorem State.calm_wait (s : State) (t : Nat) (id : CoreId) : (s.wait t).calm id = s.calm id := rfl

theorem eventTimer_expires {core : CoreId} {s : State} (hcalm : s.calm core = true) (hen : (s.at core).events.tmrEn = true) :
    exec (.eventTimerExpiry core) s = .next (({ s with now := max s.now (s.at core).events.tmrDue } : State).after core
      ((s.at core).setEvents { Rules.gained (s.at core).events (Fin.ofNat 32 (s.at core).events.tmrEv.toNat) 1 with
        tmrEn := false, tmrCnt := 0 })) := by
  have hen' : (s.core core).events.tmrEn = true := hen
  have hexpires : (s.at core).timerExpiry = (s.at core).setEvents
      { Rules.gained (s.at core).events (Fin.ofNat 32 (s.at core).events.tmrEv.toNat) 1 with tmrEn := false, tmrCnt := 0 } := by
    unfold Core.timerExpiry
    rw [← Events.gain_eq_gained]
    exact if_pos hen
  have hat : (s.wait (s.core core).events.tmrDue).at core = s.at core := rfl
  show execEventTimerExpiry core s = _
  rw [execEventTimerExpiry, if_pos hen', onCore_eq ((State.calm_wait s _ core).trans hcalm)]
  · simp only [hat, hexpires]
    rfl
  · simp only [hat, hexpires]
    exact Core.still_of_life (Core.life_setEvents _ _) (State.still_of_calm hcalm)

/-! ### What a record leaves of the cores -/

/-- Every core of `t` has the threads that it has in `s`, and is frozen when it is in `s`. -/
def State.SameThreads (s t : State) : Prop :=
  ∀ id, (t.core id).threads = (s.core id).threads ∧ (t.core id).frozen = (s.core id).frozen

theorem State.SameThreads.refl (s : State) : s.SameThreads s := fun _ => ⟨rfl, rfl⟩

theorem State.SameThreads.trans {s t u : State} (h : s.SameThreads t) (k : t.SameThreads u) : s.SameThreads u := fun id =>
  ⟨(k id).1.trans (h id).1, (k id).2.trans (h id).2⟩

/-- The cores of a block are its table of cores, and what the others are. -/
theorem State.SameThreads.of_cores {s t : State} (hc : t.cores = s.cores) (hv : t.board.veTested = s.board.veTested) :
    s.SameThreads t := fun id => by
  have h : t.core id = s.core id := by rw [State.core, State.core, State.blankCore, State.blankCore, hc, hv]
  rw [h]
  exact ⟨rfl, rfl⟩

theorem State.SameThreads.setCore {s : State} {id : CoreId} {c : Core} (ht : c.threads = (s.core id).threads)
    (hf : c.frozen = (s.core id).frozen) : s.SameThreads (s.setCore id c) := fun x => by
  by_cases h : x = id
  · subst h
    have hx : (s.setCore x c).core x = c := tget_tset_same _ _ _ _
    rw [hx]
    exact ⟨ht, hf⟩
  · have hx : (s.setCore id c).core x = s.core x := tget_tset_other _ _ _ _ _ (fun e => h (BitVec.eq_of_toNat_eq e))
    rw [hx]
    exact ⟨rfl, rfl⟩

/-- Steps that leave the threads alone leave them alone one after the other. -/
theorem State.SameThreads.foldl {α : Type} {f : State → α → State} (h : ∀ s x, State.SameThreads s (f s x)) (l : List α) (s : State) :
    s.SameThreads (l.foldl f s) := by
  induction l generalizing s with
  | nil => exact .refl s
  | cons x l ih => exact (h s x).trans (ih _)

/-- A choice between two that leave the threads alone. -/
theorem State.SameThreads.ite {s t u : State} {c : Prop} [Decidable c] (ht : s.SameThreads t) (hu : s.SameThreads u) :
    s.SameThreads (if c then t else u) := either_branch (P := fun x => s.SameThreads x) ht hu

theorem State.ringPut_sameThreads (s : State) (r : Record) : s.SameThreads (s.ringPut r) := by
  simp only [State.ringPut]
  split_ifs <;> exact .of_cores rfl rfl

theorem State.noticePut_sameThreads (s : State) (r : Record) : s.SameThreads (s.noticePut r) := by
  refine .ite (.refl s) (.foldl (fun s k => ?_) _ s)
  cases s.active.manager k <;> exact .of_cores rfl rfl

theorem State.bmcPut_sameThreads (s : State) (r : Record) : s.SameThreads (s.bmcPut r) := by
  unfold State.bmcPut
  split_ifs <;> exact .of_cores rfl rfl

theorem State.logPut_sameThreads (s : State) (x : Event) : s.SameThreads (s.logPut x) := by
  unfold State.logPut
  refine State.SameThreads.trans ?_ (State.bmcPut_sameThreads _ _)
  refine State.SameThreads.trans ?_ (State.noticePut_sameThreads _ _)
  refine State.SameThreads.trans ?_ (State.ringPut_sameThreads _ _)
  exact .of_cores rfl rfl

theorem State.noteFatal_sameThreads (s : State) (n : Nat) (i : Word) : s.SameThreads (s.noteFatal n i) :=
  .ite (.refl s) (.of_cores rfl rfl)

theorem State.tally_sameThreads (s : State) (sev : BitVec 2) : s.SameThreads (s.tally sev) := .of_cores rfl rfl

theorem State.coreCandidate_sameThreads (s : State) (x : Event) : s.SameThreads (s.coreCandidate x) := by
  unfold State.coreCandidate
  split
  · refine .ite (.ite ?_ (.of_cores rfl rfl)) (.refl s)
    refine State.SameThreads.trans ?_ (State.logPut_sameThreads _ _)
    exact .of_cores rfl rfl
  · exact .refl s

/-- The cores of a job that is held issue nothing more, and keep their threads (R473). -/
theorem State.holdCores_sameThreads (s : State) (j : Fin 8) : s.SameThreads (s.holdCores j) :=
  .foldl (f := fun (s : State) (x : CoreId × Bool × Word) => s.setCore x.1 ((s.core x.1).halted (s.env x.1)))
    (fun _ _ => .setCore rfl rfl) _ s

theorem State.faultJob_sameThreads (s : State) (j : Fin 8) : s.SameThreads (s.faultJob j) := by
  have hfaults : s.SameThreads ((((s.holdCores j).mapJob j (fun b => { b with st := .faulted })).safetyAction
      (.job (j.val + 1))).logPut (noticeEvent 0x0803 (j.val + 1) [4])) := by
    refine State.SameThreads.trans (s.holdCores_sameThreads j) ?_
    refine State.SameThreads.trans ?_ (State.logPut_sameThreads _ _)
    exact .of_cores rfl rfl
  unfold State.faultJob
  split
  · exact hfaults
  · exact hfaults
  · exact hfaults
  · exact .refl s

theorem State.severity_sameThreads (s : State) (x : Event) : s.SameThreads (s.severity x) := by
  refine .ite (.refl s) (.ite (.ite (.refl s) (s.faultJob_sameThreads _)) (.ite ?_ (.refl s)))
  refine State.SameThreads.trans ?_ (.foldl (fun s j => s.faultJob_sameThreads j) _ _)
  exact .of_cores rfl rfl

theorem State.log_sameThreads (s : State) (x : Event) : s.SameThreads (s.log x) := by
  unfold State.log
  refine .ite (s.logPut_sameThreads x) ?_
  extract_lets s₁ merged w errs₁ s₂ errs₂ s₃ y s₄
  have h₁ : s.SameThreads s₁ := s.tally_sameThreads x.sev
  have h₂ : s₁.SameThreads s₂ := .of_cores rfl rfl
  have h₃ : s₂.SameThreads s₃ := by
    refine .ite (.of_cores rfl rfl) (.ite ?_ (.refl s₂))
    exact (s₂.logPut_sameThreads x).trans (State.noteFatal_sameThreads _ _ _)
  have h₄ : s₃.SameThreads s₄ := by
    refine .ite ?_ (.refl s₃)
    exact ((s₃.tally_sameThreads 1).trans (State.logPut_sameThreads _ _)).trans (State.coreCandidate_sameThreads _ _)
  have h₅ : s₄.SameThreads (if merged then s₄ else s₄.coreCandidate x) := .ite (.refl s₄) (s₄.coreCandidate_sameThreads x)
  exact (((h₁.trans h₂).trans h₃).trans h₄).trans (h₅.trans (State.severity_sameThreads _ x))

theorem State.corePost_sameThreads (s : State) (id : CoreId) (p : Post) : s.SameThreads (s.corePost id p) := by
  have hrow : s.SameThreads (s.ledgerRow id p) := by
    unfold State.ledgerRow
    cases s.position id <;> exact .of_cores rfl rfl
  unfold State.corePost
  exact State.SameThreads.trans (.ite hrow (.refl s)) (State.log_sameThreads _ _)

theorem Core.takeAnswer_sameThreads (c : Core) (i : Nat) (a : RemoteAnswer) :
    (c.takeAnswer i a).threads = c.threads ∧ (c.takeAnswer i a).frozen = c.frozen := by
  unfold Core.takeAnswer
  split
  · dsimp only
    split <;> exact ⟨rfl, rfl⟩
  · exact ⟨rfl, rfl⟩

theorem State.crossTrigger_sameThreads (s : State) (id : CoreId) : s.SameThreads (s.crossTrigger id) := by
  unfold State.crossTrigger
  split
  · exact .refl s
  · refine .foldl (fun s x => ?_) _ s
    exact .ite (.setCore rfl rfl) (.refl s)

theorem State.settleJob_sameThreads (s : State) (id : CoreId) : s.SameThreads (s.settleJob id) := by
  unfold State.settleJob
  split
  · exact .refl s
  · refine .ite ?_ (.refl s)
    refine State.SameThreads.trans ?_ (State.log_sameThreads _ _)
    exact .of_cores rfl rfl

/-- What a core tells the module leaves the threads of every core as they are. -/
theorem State.drain_sameThreads (s : State) (id : CoreId) : s.SameThreads (s.drain id) := by
  unfold State.drain
  extract_lets c s₁ s₂ s₃ s₄ s₅
  have h₁ : s.SameThreads s₁ := .setCore rfl rfl
  have h₂ : s₁.SameThreads s₂ := .foldl (fun s x => by
    obtain ⟨ht, hf⟩ := (s.core x.1).takeAnswer_sameThreads x.2.1 x.2.2
    exact .setCore ht hf) _ _
  have h₃ : s₂.SameThreads s₃ := .foldl (f := fun s l => s.sendLink id l) (fun _ _ => .of_cores rfl rfl) _ _
  have h₄ : s₃.SameThreads s₄ := .foldl (fun s p => s.corePost_sameThreads id p) _ _
  have h₅ : s₄.SameThreads s₅ := .ite (s₄.crossTrigger_sameThreads id) (.refl s₄)
  exact ((((h₁.trans h₂).trans h₃).trans h₄).trans h₅).trans (.ite (s₅.settleJob_sameThreads id) (.refl s₅))

/-! ### A core that waits for itself -/

/-- A core of which no halt is asked only reports, at the end of its step, that it has finished. -/
theorem Core.settle_of_unasked {c : Core} (e : Env) (h : ∀ t, (c.th t).haltAsked = 0) :
    c.settle e = { c with finished := c.finished || c.ended } := by
  have hfold : ∀ l : List (Fin 4), l.foldl (fun d t => d.settleHalt e t) c = c := fun l => by
    induction l with
    | nil => rfl
    | cons t l ih =>
      rw [List.foldl_cons, Core.settleHalt, if_pos (.inl (h t)), ih]
  rw [Core.settle, hfold]

/-- The step of a core that the module has, and of which no halt is asked, leaves it the threads that its effect does, whatever the
core tells the module. -/
theorem onCore_threads {s : State} {id : CoreId} {f : Env → Core → Core} (h : s.assigned id = true)
    (hhalts : ∀ t, ((f (s.env id) (s.at id)).th t).haltAsked = 0) :
    ∃ s', onCore id f s = .next s' ∧ (s'.core id).threads = (f (s.env id) (s.at id)).threads ∧
      (s'.core id).frozen = (f (s.env id) (s.at id)).frozen := by
  have hstep : onCore id f s = .next
      ((({ s with fresh := s.fresh + 1 } : State).setCore id ((f (s.env id) (s.at id)).settle (s.env id))).drain id) := by
    rw [onCore, State.onCore, if_pos h]
    rfl
  rw [Core.settle_of_unasked _ hhalts] at hstep
  generalize hd : ({ f (s.env id) (s.at id) with
    finished := (f (s.env id) (s.at id)).finished || (f (s.env id) (s.at id)).ended } : Core) = d at hstep
  have hcore : (({ s with fresh := s.fresh + 1 } : State).setCore id d).core id = d := tget_tset_same _ _ _ _
  obtain ⟨hthreads, hfrozen⟩ := State.drain_sameThreads (({ s with fresh := s.fresh + 1 } : State).setCore id d) id id
  rw [hcore] at hthreads hfrozen
  exact ⟨_, hstep, hthreads.trans (by rw [← hd]), hfrozen.trans (by rw [← hd])⟩

/-- What a freeze makes of a thread: one that waits records the cause with its blocked instruction (R120). -/
def Thread.freeze (h : Thread) : Thread :=
  if h.st = .waiting then
    { h with x := h.x.record { cause := 0x0E, opid := 0, eng := 4, target := 0, addr := 0, unit := 4 } h.r.pc } else h

theorem Thread.freeze_st (h : Thread) : h.freeze.st = h.st ∧ h.freeze.haltAsked = h.haltAsked :=
  either_branch (P := fun x : Thread => x.st = h.st ∧ x.haltAsked = h.haltAsked) ⟨rfl, rfl⟩ ⟨rfl, rfl⟩

theorem Core.freeze_frozen (c : Core) : c.freeze.frozen = true := rfl

theorem Core.freeze_threads (c : Core) : c.freeze.threads = c.threads.map Thread.freeze := by
  have hstats : ∀ d : Core, ((List.finRange 4).foldl (fun (c : Core) t =>
      if (c.th t).st = .waiting then
        { c with dbg := { c.dbg with stat := c.dbg.stat.set t 7, pc := c.dbg.pc.set t (c.th t).r.pc } }
      else c) d).threads = d.threads := fun d => by
    refine foldl_keeps Core.threads _ (fun c t => ?_) _ d
    split <;> rfl
  unfold Core.freeze
  extract_lets det x ths c₁ c₂
  have hc₂ : c₂.threads = c₁.threads := either_branch (P := fun d : Core => d.threads = c₁.threads) (hstats c₁) rfl
  exact hc₂

theorem Core.freeze_th (c : Core) (t : Fin 4) : c.freeze.th t = (c.th t).freeze := by
  simp only [Core.th, Core.freeze_threads, Fin.getElem_fin, Vector.getElem_map]

theorem allThreadsWaiting_freezes {core : CoreId} {t : Fin 4} {s : State} (hcalm : s.calm core = true)
    (hreleased : (s.at core).released = true) (hfrozen : (s.at core).frozen = false)
    (hdead : (s.at core).deadlocked (s.env core) = true) (hwaiting : ((s.at core).th t).st = .waiting) :
    ∃ s', exec (.allThreadsWaiting core) s = .next s' ∧ (s'.core core).frozen = true ∧
      ((s'.core core).th t).x.cause = 0x0E ∧ ((s'.core core).th t).x.pc = ((s.at core).th t).r.pc ∧
      ((s'.core core).th t).st = .waiting := by
  have hcond : ((s.at core).released && !(s.at core).frozen && (s.at core).deadlocked (s.env core)) = true := by
    rw [hreleased, hfrozen, hdead]
    rfl
  have hhalts : ∀ u, ((s.at core).freeze.th u).haltAsked = 0 := fun u => by
    have hstill := State.still_of_calm hcalm
    simp only [Core.still, Bool.and_eq_true, Core.allTh_iff, decide_eq_true_eq] at hstill
    obtain ⟨⟨⟨hasked, -⟩, -⟩, -⟩ := hstill
    rw [Core.freeze_th, (Thread.freeze_st _).2]
    exact hasked u
  obtain ⟨s', hstep, hthreads, hfreeze⟩ := onCore_threads (State.assigned_of_calm hcalm)
    (f := fun e c => if c.released && !c.frozen && c.deadlocked e then c.freeze else c) (by rw [if_pos hcond]; exact hhalts)
  rw [if_pos hcond] at hthreads hfreeze
  have hth : (s'.core core).th t = ((s.at core).th t).freeze := by
    rw [Core.th, hthreads]
    exact Core.freeze_th _ t
  refine ⟨s', hstep, hfreeze.trans (Core.freeze_frozen _), ?_⟩
  rw [hth, Thread.freeze, if_pos hwaiting]
  exact ⟨rfl, rfl, hwaiting⟩

/-- Settles O14: each clause is the lemma about its instruction, its wait, its timer or its freeze above. -/
theorem eventsCountAndWaitersAreServed : Obligations.EventsCountAndWaitersAreServed := by
  unfold Obligations.EventsCountAndWaitersAreServed
  exact ⟨fun a w s => setev_adds, fun a w s => waitev_takes, fun a w u s => waitev_waits, fun a w s => clrev_clears,
    fun core n t ts m need w s => eventWait_completes, fun core s => eventTimer_expires,
    fun core t s => allThreadsWaiting_freezes⟩

end Sys2Proof.Machine
end

section
/-! PROOFS. DEBUG_WRITE of a runner: it is refused while the runner holds more words than it has room for, and so a discard is too (R121,
log entry 147). -/

namespace Sys2Proof.Machine

/-! ### A permitted write -/

theorem State.debugBar_of_mayDebug {s : State} {src : Source} {id : CoreId} (h : Rules.mayDebug s src id) : s.debugBar src id = none := by
  obtain ⟨-, j, hj, howner, hkilled, hpermit⟩ := h
  have hbar : ¬ ((s.job j).st = .killed ∨ (!(s.job j).debug) = true ∧ s.sec.level = 0) := by
    rintro (hk | ⟨hd, hl⟩)
    · exact hkilled hk
    · exact hpermit.elim (fun hp => by rw [hp] at hd; cases hd) (fun hp => hp hl)
  cases src
  case host n => simp only [State.debugBar, hj, howner n rfl, Bool.not_true, Bool.false_eq_true, if_false, if_neg hbar]
  all_goals simp only [State.debugBar, hj, Bool.not_true, Bool.false_eq_true, if_false, if_neg hbar]

/-- A command on a core that its source may debug runs. -/
theorem withCore_of_mayDebug {s : State} {src : Source} {id : CoreId} (h : Rules.mayDebug s src id) (o : Nat) (f : State → Reply) :
    withCore src id o f s = f s := by
  rw [withCore, h.1, State.debugBar_of_mayDebug h]
  rfl

/-- A permitted write that its core refuses for a field is answered BAD_ARG with the offset of the field. -/
theorem debugWrite_of_bad {src : Source} {id : CoreId} {space addr : Word} {data : List Byte} {o : Nat} {s : State}
    (hrun : Rules.running s src (reqDebugWrite space (id.setWidth 32) addr data)) (hmay : Rules.mayDebug s src id)
    (hspace : space.toNat ≤ 6) (hlen : data.length ≤ 4016) (hdata : data = [] → space = 5)
    (hbad : (s.core id).debugPut (s.env id) space.toNat addr.toNat data = .bad o) :
    exec (.debugWrite src space (id.setWidth 32) addr data) s = .next (s.complete src 3 o []) := by
  obtain ⟨hheld, hst, hbegun, hruns, hrank⟩ := hrun
  have hid : (id.setWidth 32).toNat = id.toNat := by
    rw [BitVec.toNat_setWidth]
    exact Nat.mod_eq_of_lt (by have := id.isLt; omega)
  have hcore : BitVec.ofNat 13 (id.setWidth 32).toNat = id := by rw [hid, BitVec.ofNat_toNat, BitVec.setWidth_eq]
  have hlt : ¬ 2 ^ 13 ≤ (id.setWidth 32).toNat := by rw [hid]; exact Nat.not_le.mpr id.isLt
  have hfits : ¬ (4016 < data.length ∨ (data = [] ∧ space ≠ 5)) := by
    rintro (h | ⟨h, hne⟩)
    · omega
    · exact hne (hdata h)
  show execDebugWrite src space (id.setWidth 32) addr data s = _
  rw [execDebugWrite, mpCmd_running hheld hst hruns (.inl hbegun) hrank, if_neg (Nat.not_lt.mpr hspace), if_neg hfits, if_neg hlt, hcore,
    withCore_of_mayDebug hmay]
  simp only [hbad]
  rfl

/-! ### A runner with too many words -/

/-- A write without data discards the words of a runner that holds no more than it has room for; of any other it is refused, as a
write beyond the room is. -/
theorem Core.debugPut_discard (e : Env) (c : Core) (n : Fin 8) :
    c.debugPut e 5 n.val [] =
      if 4 < (c.runners[n]).words.length then .bad 0xC else .ok (c.setRunner n { c.runners[n] with words := [] }) := by
  have hn : Fin.ofNat 8 n.val = n := Fin.ext (Nat.mod_eq_of_lt n.isLt)
  unfold Core.debugPut
  simp only [if_neg (Nat.not_le.mpr n.isLt), hn]
  rfl

theorem discard_of_overfull {src : Source} {id : CoreId} {n : Fin 8} {s : State}
    (hrun : Rules.running s src (reqDebugWrite 5 (id.setWidth 32) (BitVec.ofNat 32 n.val) [])) (hmay : Rules.mayDebug s src id)
    (h : 4 < ((s.core id).runners[n]).words.length) :
    exec (.debugWrite src 5 (id.setWidth 32) (BitVec.ofNat 32 n.val) []) s = .next (s.complete src 3 0xC []) := by
  have hn : (BitVec.ofNat 32 n.val).toNat = n.val := Nat.mod_eq_of_lt (by have := n.isLt; omega)
  have hbad : (s.core id).debugPut (s.env id) (5 : Word).toNat (BitVec.ofNat 32 n.val).toNat [] = .bad 0xC := by
    rw [hn]
    exact (Core.debugPut_discard _ _ n).trans (if_pos h)
  exact debugWrite_of_bad hrun hmay (by decide) (by decide) (fun _ => rfl) hbad

/-- A running job with core 5 that permits debugging. -/
def debugJob : Job := { Job.blank with st := .running, debug := true, cores := [(5, false, 0)] }

/-- The BMC's DEBUG_WRITE without data of runner 0 of core 5 runs, and the runner holds five words. -/
def overfullState : State :=
  ({ State.reset with
    board := { State.reset.board with stage := .ready }
    mp := { State.reset.mp with jobs := State.reset.mp.jobs.set 0 debugJob }
    bmc := { State.reset.bmc with st := .running, opc := 0x93, payload := (reqDebugWrite 5 5 0 []).sent } } : State).setCore 5
    (Core.reset.setRunner 0 { Core.reset.runners[0] with words := [1, 2, 3, 4, 5] })

theorem overfullState_runs : Rules.running overfullState .bmc (reqDebugWrite 5 5 0 []) := by decide +kernel

theorem overfullState_mayDebug : Rules.mayDebug overfullState .bmc 5 := by decide +kernel

theorem overfullState_words : 4 < ((overfullState.core 5).runners[(0 : Fin 8)]).words.length := by decide +kernel

/-- Refutes O44: its clause on a discard says of every state that a write without data empties the runner, while the model refuses one of a
runner that holds more than four words (`Core.debugPut_discard`), as `overfullState` does. The clauses on a write of a word bound the words
of the runner; this one does not. -/
theorem not_debugReachesPermittedCores : ¬ Obligations.DebugReachesPermittedCores := by
  unfold Obligations.DebugReachesPermittedCores
  rintro ⟨-, -, -, -, -, -, hrunner⟩
  obtain ⟨-, hdiscard, -⟩ := hrunner .bmc 5 0 0 overfullState overfullState_mayDebug
  have hclause := hdiscard overfullState_runs
  have hmodel := discard_of_overfull (id := 5) (n := 0) overfullState_runs overfullState_mayDebug overfullState_words
  have hstatus := congrArg (fun s : State => (s.box .bmc).status) (Host.Outcome.next.inj (hmodel.symm.trans hclause))
  simp only [State.complete_box_same] at hstatus
  exact absurd hstatus (by decide)

end Sys2Proof.Machine
end

section
/-! PROOFS. The element-wise instructions of the vector engine: what an element reads after elements were written, and what the completion
of an instruction leaves of the core (R123, R125 to R128, R135). -/

namespace Sys2Proof.Machine

/-! ### Numbers as bytes -/

@[simp] theorem leBytes_length (n x : Nat) : (leBytes n x).length = n := by
  induction n generalizing x with
  | zero => rfl
  | succ n ih => rw [leBytes, List.length_cons, ih]

theorem leNat_leBytes (n x : Nat) : leNat (leBytes n x) = x % 256 ^ n := by
  induction n generalizing x with
  | zero => simp [leBytes, leNat, Nat.mod_one]
  | succ n ih => rw [leBytes, leNat, ih, BitVec.toNat_ofNat, (Nat.pow_succ' : 256 ^ (n + 1) = _), Nat.mod_mul]

/-! ### One element -/

/-- An element is half a byte or whole bytes (Table 5-1). -/
theorem Ty.width_eq_bytes {t : Ty} (h : t.width ≠ 4) : t.width = 8 * (t.width / 8) := by
  revert h
  cases t <;> decide

/-- What an element reads of its bytes: bits [7:6] of an H6 byte are ignored (R125). -/
def Ty.ofBytes (t : Ty) (l : List Byte) : Nat := if t = .h6 then leNat l % 64 else leNat l

theorem Ty.keep_of_nibble {t : Ty} (h : t.width = 4) (v : Nat) : t.keep v = v % 16 := by
  have hne : t ≠ .h6 := fun he => absurd (he ▸ h) (by decide)
  rw [Ty.keep, if_neg hne, h]
  rfl

/-- What an element reads of the bytes of a value is what it keeps of the value (R125). -/
theorem Ty.ofBytes_leBytes {t : Ty} (h : t.width ≠ 4) (v : Nat) : t.ofBytes (leBytes (t.width / 8) v) = t.keep v := by
  have hpow : 256 ^ (t.width / 8) = 2 ^ t.width := by
    rw [show 256 = 2 ^ 8 from rfl, ← Nat.pow_mul, ← Ty.width_eq_bytes h]
  unfold Ty.ofBytes Ty.keep
  rw [leNat_leBytes, hpow]
  split
  · next he =>
    subst he
    exact Nat.mod_mod_of_dvd v (by decide)
  · rfl

/-- Element `i` of the group at a register, as it is written clean. -/
def groupWrite (reg : Nat) (t : Ty) (value : Nat → Nat) (i : Nat) : ElemWrite := ⟨groupBit reg + t.width * i, t.width, value i, false⟩

section
variable (m : Memory) (reg : Nat) {t : Ty} (value : Nat → Nat) (i : Nat)

theorem groupBit_add_div (h : t.width ≠ 4) : (groupBit reg + t.width * i) / 8 = 1024 * reg + t.width / 8 * i := by
  have hpos : groupBit reg + t.width * i = 8 * (1024 * reg + t.width / 8 * i) := by
    rw [Nat.mul_add, ← Nat.mul_assoc, ← Nat.mul_assoc, ← Ty.width_eq_bytes h]
    rfl
  rw [hpos, Nat.mul_div_cancel_left _ (by decide)]

theorem readElem_of_nibble (h : t.width = 4) :
    readElem m (groupBit reg) t i = (memRead m (1024 * reg + i / 2)).toNat / 2 ^ (4 * (i % 2)) % 16 := by
  have haddr : (groupBit reg + 4 * i) / 8 = 1024 * reg + i / 2 := by unfold groupBit; omega
  have hbit : (groupBit reg + 4 * i) % 8 = 4 * (i % 2) := by unfold groupBit; omega
  unfold readElem
  simp only [h, if_true, haddr, hbit]

theorem readElem_of_bytes (h : t.width ≠ 4) :
    readElem m (groupBit reg) t i = t.ofBytes (memReadN m (1024 * reg + t.width / 8 * i) (t.width / 8)) := by
  unfold readElem Ty.ofBytes
  simp only [h, if_false, groupBit_add_div reg i h]

/-- An element of half a byte leaves the other half of its byte (R138). -/
theorem apply_groupWrite_of_nibble (h : t.width = 4) :
    ElemWrite.apply m (groupWrite reg t value i) = memWrite m (1024 * reg + i / 2)
      (BitVec.ofNat 8 (if i % 2 = 0 then (memRead m (1024 * reg + i / 2)).toNat / 16 * 16 + value i % 16
        else value i % 16 * 16 + (memRead m (1024 * reg + i / 2)).toNat % 16)) := by
  have haddr : (groupBit reg + 4 * i) / 8 = 1024 * reg + i / 2 := by unfold groupBit; omega
  have hlow : (groupBit reg + 4 * i) % 8 = 0 ↔ i % 2 = 0 := by unfold groupBit; omega
  unfold ElemWrite.apply groupWrite
  simp only [h, if_true, haddr, hlow]

theorem apply_groupWrite_of_bytes (h : t.width ≠ 4) :
    ElemWrite.apply m (groupWrite reg t value i) =
      memWriteN m (1024 * reg + t.width / 8 * i) (leBytes (t.width / 8) (value i)) := by
  unfold ElemWrite.apply groupWrite
  simp only [h, if_false, groupBit_add_div reg i h]

theorem readElem_apply_groupWrite_same :
    readElem (ElemWrite.apply m (groupWrite reg t value i)) (groupBit reg) t i = t.keep (value i) := by
  by_cases hw : t.width = 4
  · rw [readElem_of_nibble _ _ _ hw, apply_groupWrite_of_nibble _ _ _ _ hw, memRead_memWrite_same, Ty.keep_of_nibble hw,
      BitVec.toNat_ofNat]
    have hbyte := (memRead m (1024 * reg + i / 2)).isLt
    rcases Nat.mod_two_eq_zero_or_one i with hi | hi
    · simp only [hi, if_true]
      omega
    · simp only [hi, one_ne_zero, if_false]
      omega
  · have hread := memReadN_memWriteN_same m (1024 * reg + t.width / 8 * i) (leBytes (t.width / 8) (value i))
    rw [leBytes_length] at hread
    rw [readElem_of_bytes _ _ _ hw, apply_groupWrite_of_bytes _ _ _ _ hw, hread, Ty.ofBytes_leBytes hw]

theorem readElem_apply_groupWrite_other {j : Nat} (h : i ≠ j) :
    readElem (ElemWrite.apply m (groupWrite reg t value j)) (groupBit reg) t i = readElem m (groupBit reg) t i := by
  by_cases hw : t.width = 4
  · rw [readElem_of_nibble _ _ _ hw, readElem_of_nibble _ _ _ hw, apply_groupWrite_of_nibble _ _ _ _ hw]
    by_cases hbyte : i / 2 = j / 2
    · have hlt := (memRead m (1024 * reg + j / 2)).isLt
      rw [hbyte, memRead_memWrite_same, BitVec.toNat_ofNat]
      rcases Nat.mod_two_eq_zero_or_one j with hj | hj
      · have hi : i % 2 = 1 := by omega
        simp only [hi, hj, if_true]
        omega
      · have hi : i % 2 = 0 := by omega
        simp only [hi, hj, one_ne_zero, if_false]
        omega
    · rw [memRead_memWrite_other _ _ _ _ (by omega)]
  · have hapart : t.width / 8 * i + t.width / 8 ≤ t.width / 8 * j ∨ t.width / 8 * j + t.width / 8 ≤ t.width / 8 * i := by
      rw [← Nat.mul_succ, ← Nat.mul_succ]
      exact (Nat.lt_or_gt_of_ne h).imp (Nat.mul_le_mul_left _) (Nat.mul_le_mul_left _)
    rw [readElem_of_bytes _ _ _ hw, readElem_of_bytes _ _ _ hw, apply_groupWrite_of_bytes _ _ _ _ hw,
      memReadN_memWriteN_outside _ _ _ _ _ (by rw [leBytes_length]; omega)]

/-- A byte beyond the bits of the element stays as it was. -/
theorem memRead_apply_groupWrite_outside {k : Nat} (h : k < 1024 * reg ∨ groupBit reg + t.width * (i + 1) ≤ 8 * k) :
    memRead (ElemWrite.apply m (groupWrite reg t value i)) k = memRead m k := by
  unfold groupBit at h
  by_cases hw : t.width = 4
  · rw [hw] at h
    rw [apply_groupWrite_of_nibble _ _ _ _ hw, memRead_memWrite_other _ _ _ _ (by omega)]
  · rw [Ty.width_eq_bytes hw, Nat.mul_assoc, Nat.mul_succ] at h
    rw [apply_groupWrite_of_bytes _ _ _ _ hw, memRead_memWriteN_outside _ _ _ _ (by rw [leBytes_length]; omega)]

end

/-! ### The elements of an instruction -/

/-- Of elements written from values of their indices alone each holds its own; the others of the group stay as they were. -/
theorem readElem_applyWrites_groupWrite (reg : Nat) (t : Ty) (value : Nat → Nat) (l : List Nat) (m : Memory) (i : Nat) :
    readElem (applyWrites m (l.map (groupWrite reg t value))) (groupBit reg) t i =
      if i ∈ l then t.keep (value i) else readElem m (groupBit reg) t i := by
  induction l generalizing m with
  | nil => rfl
  | cons j l ih =>
    rw [List.map_cons, applyWrites, List.foldl_cons, ← applyWrites, ih]
    by_cases hl : i ∈ l
    · rw [if_pos hl, if_pos (List.mem_cons_of_mem j hl)]
    · rw [if_neg hl]
      by_cases hij : i = j
      · subst hij
        rw [if_pos List.mem_cons_self, readElem_apply_groupWrite_same]
      · rw [if_neg (by simp [hij, hl]), readElem_apply_groupWrite_other _ _ _ _ hij]

/-- Elements below the end of a group of registers leave every byte of the other registers. -/
theorem memRead_applyWrites_groupWrite_outside (reg g : Nat) (t : Ty) (value : Nat → Nat) (l : List Nat) (m : Memory) (k : Nat)
    (hl : ∀ i ∈ l, t.width * (i + 1) ≤ 8192 * g) (hk : k < 1024 * reg ∨ 1024 * (reg + g) ≤ k) :
    memRead (applyWrites m (l.map (groupWrite reg t value))) k = memRead m k := by
  refine List.foldlRecOn (motive := fun x => memRead x k = memRead m k) _ _ rfl (fun x hx w hw => ?_)
  obtain ⟨i, hi, rfl⟩ := List.mem_map.mp hw
  have hend := hl i hi
  rw [memRead_apply_groupWrite_outside _ _ _ _ (by unfold groupBit; omega), hx]

/-! ### The effect of an element-wise instruction -/

section
variable {o : VeOp}

/-- An element-wise instruction has no scratchpad operand. -/
theorem VeOp.touches_of_elementwise (h : Rules.elementwise o.opc = true) : o.touches = [] := by
  have hforms : o.opc.maskMove = false ∧ o.opc.isMem = false := by
    revert h
    cases o.opc <;> decide
  obtain ⟨hmask, hmem⟩ := hforms
  simp [VeOp.touches, hmask, hmem]

theorem VeOp.isLoad_of_elementwise (h : Rules.elementwise o.opc = true) : o.opc.isLoad = false := by
  revert h
  cases o.opc <;> decide

theorem VeOp.effect_of_elementwise (h : Rules.elementwise o.opc = true) (fresh : Nat) (v : Ve) (m : Spm) (streams : Vector Stream 6) :
    o.effect fresh v m streams = veElementwise o v := by
  unfold VeOp.effect
  split <;> simp_all [Rules.elementwise]

theorem VeOp.wmax_of_elementwise (h : Rules.elementwise o.opc = true) : o.wmax = o.ty.width := by
  unfold VeOp.wmax
  split <;> simp_all [Rules.elementwise]

/-- The elements below the effective length lie in the group of VD (R126). -/
theorem VeOp.element_in_group (h : Rules.elementwise o.opc = true) {i : Nat} (hi : i < o.len) : o.ty.width * (i + 1) ≤ 8192 * o.group := by
  have hle : i + 1 ≤ o.group * 8192 / o.ty.width := by
    unfold VeOp.len at hi
    rw [VeOp.wmax_of_elementwise h] at hi
    omega
  calc o.ty.width * (i + 1) ≤ o.ty.width * (o.group * 8192 / o.ty.width) := Nat.mul_le_mul_left _ hle
    _ ≤ o.group * 8192 := Nat.mul_div_le _ _
    _ = 8192 * o.group := Nat.mul_comm _ _

/-- What element `i` of VD becomes (R135). -/
def VeOp.result (o : VeOp) (v : Ve) (i : Nat) : Nat × Flags :=
  veAlu o.opc o.fn o.ty (v.elem o.w.vd.toNat o.ty i) (v.elem o.w.va.toNat o.ty i) (v.elem o.w.vb.toNat o.ty i)

/-- Where no mask word is poison, the elements an instruction works on are the active ones. -/
theorem VeOp.mem_indices {v : Ve} (hm : v.mpoison = []) (n i : Nat) : i ∈ o.indices v n ↔ i < n ∧ o.maskBit v i = true := by
  simp [VeOp.indices, VeOp.maskBad, hm, nhas]

/-- Where no register is poison, an element consumes none. -/
theorem veElementwise_of_clean {v : Ve} (hv : v.vpoison = []) (hm : v.mpoison = []) :
    veElementwise o v = lanesToRegs ((o.indices v o.len).map (fun i =>
      ⟨groupWrite o.w.vd.toNat o.ty (fun i => (o.result v i).1) i, (o.result v i).2, []⟩)) := by
  simp [veElementwise, consume, eaten, Ve.elemBad, VeOp.maskBad, hv, hm, nhas, VeOp.regBit, groupWrite, VeOp.result]

theorem veElementwise_regs {v : Ve} (hv : v.vpoison = []) (hm : v.mpoison = []) :
    (veElementwise o v).regs = (o.indices v o.len).map (groupWrite o.w.vd.toNat o.ty (fun i => (o.result v i).1)) := by
  rw [veElementwise_of_clean hv hm, lanesToRegs, List.map_map]
  rfl

theorem veElementwise_eats {v : Ve} (hv : v.vpoison = []) (hm : v.mpoison = []) : (veElementwise o v).eats = [] := by
  rw [veElementwise_of_clean hv hm]
  simp [lanesToRegs]

end

/-! ### The effect on the core -/

/-- An effect on vector registers alone writes them, and joins its flags to those that are set. -/
theorem Core.veApply_of_regs {x : VeEffect} (hspm : x.spm = []) (hmask : x.mask = none) (hstream : x.stream = none) (heats : x.eats = [])
    (c : Core) (t : Fin 4) :
    c.veApply t x = ({ c with ve := { c.ve with
      v := applyWrites c.ve.v x.regs, vpoison := poisonAfter c.ve.vpoison x.regs } } : Core).flag x.flags := by
  have hpoison : poisonAfter c.spm.poison [] = c.spm.poison := by simp [poisonAfter]
  simp only [Core.veApply, hspm, hmask, hstream, heats, lowestOpid, Core.mapSpm, hpoison]
  rfl

/-- A grant for no bytes takes away no mark (R199). -/
theorem Core.granted_nil (port : SpmPort) (c : Core) : c.granted port [] = c := by
  refine foldl_keeps id _ (fun d b => ?_) _ c
  simp [onBank]

/-- The end of an instruction that has waited touches its thread alone. -/
theorem Core.complete_keeps (c : Core) (t : Fin 4) (f : Form) (w : SeWord) :
    (c.complete t f w).ve = c.ve ∧ (c.complete t f w).spm = c.spm := by
  have hincrements : ∀ (d : Core) (o : Operands), (d.increments t o).ve = d.ve ∧ (d.increments t o).spm = d.spm := fun d o =>
    Prod.mk.inj (foldl_keeps (fun d : Core => (d.ve, d.spm)) _ (fun d p => by split <;> rfl) _ d)
  exact hincrements (c.mapTh t (fun h => { h with stall := .none })) _

/-- The writes that wait for a converter stream write neither the registers of the VE nor the scratchpad, and leave the life of the
core alone (R59). -/
theorem Core.settleStreams_keeps (c : Core) :
    c.settleStreams.ve = c.ve ∧ c.settleStreams.spm = c.spm ∧ c.settleStreams.life = c.life := by
  have hall : (c.settleStreams.ve, c.settleStreams.spm, c.settleStreams.life) = (c.ve, c.spm, c.life) := by
    refine foldl_keeps (fun d : Core => (d.ve, d.spm, d.life)) _ (fun d t => ?_) _ c
    split
    · next i seed v w _ =>
      split
      · rfl
      · obtain ⟨hve, hspm⟩ := (d.mapStream i (fun s => s.set seed w.mod v.toNat)).complete_keeps t (csrwForm w) w
        simp only [hve, hspm, Core.life_complete, Core.life_mapStream, Core.mapStream_ve, Core.mapStream_spm]
    · rfl
  simpa only [Prod.mk.injEq] using hall

/-! ### Completion -/

/-- The step of a calm core whose effect leaves it as `d`. -/
theorem onCore_eq_of_effect {s : State} {id : CoreId} {f : Env → Core → Core} {d : Core} (hcalm : s.calm id = true)
    (hf : f (s.env id) (s.at id) = d) (hd : d.still = true) : onCore id f s = .next (s.after id d) := by
  subst hf
  exact onCore_eq hcalm hd

/-- The vector engine after the elements of an operation were written, which has left it. -/
def Ve.computed (v : Ve) (o : VeOp) (run : List VeOp) : Ve :=
  { v with v := applyWrites v.v (veElementwise o v).regs, vpoison := poisonAfter v.vpoison (veElementwise o v).regs, run := run }

/-- The core with them, and with the flags they raise. -/
def Core.computed (c : Core) (o : VeOp) (run : List VeOp) : Core :=
  ({ c with ve := c.ve.computed o run } : Core).flag (veElementwise o c.ve).flags

section
variable {v : Ve} {o : VeOp} {run : List VeOp}

/-- The active elements below the effective length become their results, and the others of VD stay as they were (R126, R127, R128). -/
theorem Ve.computed_elem (hv : v.vpoison = []) (hm : v.mpoison = []) {i : Nat} :
    (v.computed o run).elem o.w.vd.toNat o.ty i =
      if i < o.len ∧ o.maskBit v i = true then o.ty.keep (o.result v i).1 else v.elem o.w.vd.toNat o.ty i := by
  simp only [Ve.elem, Ve.computed, veElementwise_regs hv hm, readElem_applyWrites_groupWrite, VeOp.mem_indices hm]

/-- No byte beyond the group of VD changes. -/
theorem Ve.computed_outside (h : Rules.elementwise o.opc = true) (hv : v.vpoison = []) (hm : v.mpoison = []) {k : Nat}
    (hk : k < 1024 * o.w.vd.toNat ∨ 1024 * (o.w.vd.toNat + o.group) ≤ k) : memRead (v.computed o run).v k = memRead v.v k := by
  rw [Ve.computed, veElementwise_regs hv hm]
  refine memRead_applyWrites_groupWrite_outside _ o.group _ _ _ _ _ (fun i hi => ?_) hk
  obtain ⟨hlen, -⟩ := (VeOp.mem_indices hm o.len i).mp hi
  exact VeOp.element_in_group h hlen

end

/-- An element-wise instruction whose registers are clean completes with its elements written, and leaves the scratchpad. -/
theorem veInsnComplete_of_elementwise {core : CoreId} {o : VeOp} {run : List VeOp} {s : State} (hcalm : s.calm core = true)
    (hrun : (s.at core).ve.run = o :: run) (h : Rules.elementwise o.opc = true) (hv : (s.at core).ve.vpoison = [])
    (hm : (s.at core).ve.mpoison = []) :
    ∃ s', exec (.veInsnComplete core [] []) s = .next s' ∧ (s'.core core).ve = (s.at core).ve.computed o run ∧
      (s'.core core).spm = (s.at core).spm := by
  have heffect := Core.veApply_of_regs (x := veElementwise o (s.at core).ve) rfl rfl rfl (veElementwise_eats hv hm)
    { s.at core with ve := { (s.at core).ve with run := run } } o.thread
  obtain ⟨hve, hspm, hlife⟩ := ((s.at core).computed o run).settleStreams_keeps
  have hget : (s.after core ((s.at core).computed o run).settleStreams).core core = ((s.at core).computed o run).settleStreams :=
    tget_tset_same _ _ _ _
  refine ⟨_, onCore_eq_of_effect hcalm ?_ (Core.still_of_life hlife (State.still_of_calm hcalm)), ?_, ?_⟩
  · simp only [hrun, VeOp.isLoad_of_elementwise h, VeOp.touches_of_elementwise h, VeOp.effect_of_elementwise h, Core.granted_nil,
      Core.veMeet, Core.veFind, Core.veWritten, List.foldl_nil, Core.unverified_nil, if_false, Bool.false_eq_true, heffect]
    rfl
  · exact (congrArg Core.ve hget).trans hve
  · exact (congrArg Core.spm hget).trans hspm

/-- Settles O21: the elements of an instruction are written from the registers as they were, each from its own index
(`readElem_applyWrites_groupWrite`), and all of them lie in the group of VD (`VeOp.element_in_group`). -/
theorem elementsBelowTheLengthAreComputed : Obligations.ElementsBelowTheLengthAreComputed := by
  unfold Obligations.ElementsBelowTheLengthAreComputed
  intro core o run s hcalm hrun h _ hv hm
  obtain ⟨s', hstep, hve, hspm⟩ := veInsnComplete_of_elementwise hcalm hrun h hv hm
  refine ⟨s', hstep, fun i _ => ?_, fun k hk => ?_, ?_, hspm, ?_⟩ <;> rw [hve]
  · exact Ve.computed_elem hv hm
  · exact Ve.computed_outside h hv hm hk
  · rfl
  · rfl

end Sys2Proof.Machine
end

section
/-! PROOFS. A waiting load of a slot whose record holds bytes: they go with it to the data move (R219, R220). -/

namespace Sys2Proof.Machine

/-- A load of slot 0x40 by thread 1 that waits, with a byte in its record. -/
def ladenLoad : SlotWait := { seg := 0x40, who := .thread 1, store := false, data := .clean [1] }

/-- The words of the SLD that waits, blocking. -/
def loadWord : SeWord := { len := 1, sz := 2, mod := 0, osd := 8, osa := 1, osb := 0x3F, ext := 0x80 }

/-- Core 5 of the block after a reset, with the slot full and the load waiting for it. -/
def ladenLoadState : State :=
  State.reset.setCore 5 (({ Core.reset with spm := { Spm.reset with tags := [0x40], waits := [ladenLoad] } } : Core).mapTh 1
    (fun h => { h with st := .waiting, stall := .slot 0x40 false loadWord none }))

/-- The data moves that are due at core 5 after a step. -/
def movesAfter : Out → List (SlotWait × Payload)
  | .next s => (s.core 5).spm.moves
  | _ => []

theorem ladenLoadState_waits :
    ladenLoadState.calm 5 = true ∧ (ladenLoadState.at 5).frozen = false ∧ (ladenLoadState.at 5).spm.moving 0x40 = false ∧
      (ladenLoadState.at 5).spm.firstFit 0x40 = some ladenLoad ∧
      ((ladenLoadState.at 5).th 1).stall = .slot 0x40 false loadWord none := by decide +kernel

theorem tagWaitComplete_moves_ladenLoad :
    movesAfter (exec (.tagWaitComplete 5 0x40) ladenLoadState) = [(ladenLoad, .clean [1])] := by decide +kernel

/-- The state that the clause of the statement describes has a move without bytes. -/
theorem clause_moves_nothing :
    movesAfter (.next (ladenLoadState.after 5
      (((ladenLoadState.at 5).mapSpm (fun m => { m with
          tags := ndel m.tags (tagOf ladenLoad.seg), moves := m.moves ++ [(ladenLoad, .empty)]
          waits := m.waits.filter (fun y => decide (y.who ≠ .thread 1)) })).mapTh 1
        (fun h => { h with stall := .slotMove 0x40 false loadWord })))) = [(ladenLoad, .empty)] := by decide +kernel

/-- Refutes O10: its clause on a waiting load says of every state that the move due is one of no bytes, while the model hands the move
what the record of the access holds; `ladenLoadState` has a waiting load whose record holds a byte. No SLD leaves one: what it parks
holds none, and the rest of the clause is what the model does. -/
theorem not_slotsServeInOrder : ¬ Obligations.SlotsServeInOrder := by
  unfold Obligations.SlotsServeInOrder
  rintro ⟨-, -, -, -, hwaiting, -⟩
  obtain ⟨hcalm, hfrozen, hmoving, hfirst, hstall⟩ := ladenLoadState_waits
  have heq := hwaiting 5 0x40 ladenLoad 1 0x40 loadWord none ladenLoadState hcalm hfrozen hmoving hfirst rfl rfl hstall
  have hmodel := tagWaitComplete_moves_ladenLoad
  rw [heq, clause_moves_nothing] at hmodel
  exact absurd hmodel (by decide)

end Sys2Proof.Machine
end

section
/-! PROOFS. Tagged accesses of other cores: their arrival, their withdrawal, and the end of their waits (R208, R219 to R223, R248). -/

namespace Sys2Proof.Machine

/-! ### The step of a calm core -/

/-- The step of a calm core whose effect leaves its life alone, as a command. -/
theorem onCore_of_life {s : State} {id : CoreId} {f : Env → Core → Core} (hcalm : s.calm id = true)
    (hl : (f (s.env id) (s.at id)).life = (s.at id).life) : onCore id f s = .next (s.after id (f (s.env id) (s.at id))) :=
  onCore_eq hcalm (Core.still_of_life hl (State.still_of_calm hcalm))

/-- The same within a step of the block. -/
theorem State.onCore_of_life {s : State} {id : CoreId} {f : Env → Core → Core} (hcalm : s.calm id = true)
    (hl : (f (s.env id) (s.at id)).life = (s.at id).life) : s.onCore id f = s.after id (f (s.env id) (s.at id)) :=
  Host.Outcome.next.inj (Machine.onCore_of_life hcalm hl)

/-- A change of the scratchpad alone is the step of a calm core. -/
theorem State.onCore_mapSpm {s : State} {id : CoreId} (hcalm : s.calm id = true) (f : Spm → Spm) :
    s.onCore id (fun _ c => c.mapSpm f) = s.after id ((s.at id).mapSpm f) :=
  State.onCore_of_life hcalm rfl

/-! ### Arrival -/

section
variable {s : State} {target source : CoreId} {r : Remote} {store blocking : Bool} {x : Payload}

/-- An access whose flit comes through intact arrives as it left. -/
theorem State.arrival_intact (h : s.arriving target source = some r) : s.arrival target source .intact = .inr (s, r) := by
  rw [State.arrival, h]
  rfl

/-- Of an access that comes from a core of the same job nothing is turned away. -/
theorem State.turnedAway_of_comes (h : Rules.Comes s target source r) : s.turnedAway target source r = none := by
  obtain ⟨-, hassigned, hquarantined, hjob⟩ := h
  simp [State.turnedAway, State.sameJob, hassigned, hquarantined, hjob]

/-- A tagged access that comes, and that the gates accept, meets its slot. -/
theorem remoteTagArrival_arrives (h : Rules.TagComes s target source r store blocking x) :
    exec (.remoteTagArrival target source .intact) s = .next (s.tagArrive target source r store blocking x) := by
  obtain ⟨hcomes, -, hkind, hopen, haccepts⟩ := h
  show execRemoteTagArrival target source s .intact = _
  simp only [execRemoteTagArrival, State.arrival_intact hcomes.1, hkind, State.turnedAway_of_comes hcomes, hopen, haccepts,
    Bool.and_self, if_true]

/-- One that its slot serves now parks at its target with its data move due (R219, R220). -/
theorem remoteTagArrival_serves (h : Rules.TagComes s target source r store blocking x) (hkind : r.kind ≠ .fill)
    (hserves : (s.core target).spm.servesNow (r.offset / 64) store = true) :
    exec (.remoteTagArrival target source .intact) s = .next (Rules.staged
      (s.after target ((s.at target).mapSpm (fun m =>
        m.serve { seg := r.offset / 64, who := .remote source r.id, store := store, data := x } x))) source r.id .parked) := by
  have ⟨_, hcalm, _⟩ := h
  rw [remoteTagArrival_arrives h, State.tagArrive, if_pos hserves, if_neg hkind, State.onCore_mapSpm hcalm]
  rfl

/-- A blocking one that must wait parks behind the others, while fewer than 32 do (R221). -/
theorem remoteTagArrival_parks (h : Rules.TagComes s target source r store true x)
    (hwaits : (s.core target).spm.servesNow (r.offset / 64) store = false) (hroom : (s.core target).spm.parked < 32) :
    exec (.remoteTagArrival target source .intact) s = .next (Rules.staged
      (s.after target ((s.at target).mapSpm (fun m =>
        m.park { seg := r.offset / 64, who := .remote source r.id, store := store, data := x }))) source r.id .parked) := by
  have ⟨_, hcalm, _⟩ := h
  rw [remoteTagArrival_arrives h, State.tagArrive, if_neg (Bool.eq_false_iff.mp hwaits), if_neg (by decide), if_pos hroom,
    State.onCore_mapSpm hcalm]
  rfl

/-- Beyond the 32 it is answered RETRY (R221). -/
theorem remoteTagArrival_retries (h : Rules.TagComes s target source r store true x)
    (hwaits : (s.core target).spm.servesNow (r.offset / 64) store = false) (hfull : 32 ≤ (s.core target).spm.parked) :
    exec (.remoteTagArrival target source .intact) s = .next (s.deliverAnswer (source, r.id, .retry)) := by
  rw [remoteTagArrival_arrives h, State.tagArrive, if_neg (Bool.eq_false_iff.mp hwaits), if_neg (by decide),
    if_neg (Nat.not_lt.mpr hfull)]
  rfl

/-- A withdrawal takes its access away from the slots of its target (R222). -/
theorem withdrawalArrival_withdraws (hcalm : s.calm target = true)
    (hfind : (s.core source).spm.remote.find? (fun r => r.target == target && r.withdrawal && decide (r.stage ≠ .lost) &&
      (decide (r.stage = .answered .retry) || (s.core target).spm.waits.any (fun x => decide (x.who = .remote source r.id)))) = some r) :
    exec (.withdrawalArrival target source .intact) s = .next (Rules.served s target source
      ((s.at target).mapSpm (fun m => m.unpark (.remote source r.id))) r.id .withdrawn) := by
  show execWithdrawalArrival target source s .intact = _
  simp only [execWithdrawalArrival, hfind, State.takeRequestFlit, State.onCore_mapSpm hcalm]
  rfl

end

/-! ### The end of a wait -/

/-- The answer in turn of an access is of the access that has its number. -/
theorem Spm.id_of_inTurnOf {m : Spm} {id : Nat} {r : Remote} {a : RemoteAnswer} (h : m.inTurnOf id = some (r, a)) : r.id = id := by
  unfold Spm.inTurnOf at h
  split at h
  · next r' hr =>
    have hid : r'.id = id := by simpa using List.find?_some hr
    split at h
    · split at h
      · cases h
        exact hid
      · cases h
    · cases h
  · cases h

/-- A response whose flit comes through intact arrives as it left. -/
@[simp] theorem State.takeResponseFlit_intact (s : State) (source : CoreId) (id : Nat) :
    s.takeResponseFlit source id .intact = s := rfl

/-- A blocking access of another core's slot that runs past its limit sends its withdrawal (R222). -/
theorem tagTimeout_withdraws {a : Site} {id d : Nat} {store : Bool} {w : SeWord} {s : State} (hcalm : s.calm a.core = true)
    (hstall : ((s.at a.core).th a.thread).stall = .slotRemote id store w (some d)) :
    exec (.tagTimeout a) s = .next ((s.wait d).after a.core
      ((s.at a.core).mapSpm (fun m => m.mapRemote id (fun r =>
        if r.withdrawal then r else { r with withdrawal := true, left := max s.now d })))) := by
  have hdue : ((s.core a.core).th a.thread).tagDue = some d := by
    have hcore : ((s.core a.core).th a.thread).stall = .slotRemote id store w (some d) := hstall
    rw [Thread.tagDue, hcore]
  have hend : (s.at a.core).tagTimeout ((s.wait d).env a.core) a.thread =
      (s.at a.core).mapSpm (fun m => m.mapRemote id (fun r =>
        if r.withdrawal then r else { r with withdrawal := true, left := max s.now d })) := by
    rw [Core.tagTimeout, hstall]
    exact if_pos (Nat.le_max_right s.now d)
  show execTagTimeout a s = _
  rw [execTagTimeout, hdue]
  exact onCore_eq_of_effect ((State.calm_wait s d a.core).trans hcalm) hend (Core.still_of_life rfl (State.still_of_calm hcalm))

/-- The answer DONE to a blocking SST completes it, and its thread runs on (R219). -/
theorem remoteTagResponse_completes {a : Site} {id : Nat} {w : SeWord} {dl : Option Nat} {r : Remote} {s : State}
    (hcalm : s.calm a.core = true) (hstall : ((s.at a.core).th a.thread).stall = .slotRemote id true w dl)
    (hst : ((s.at a.core).th a.thread).st = .waiting) (hturn : (s.at a.core).spm.inTurnOf id = some (r, .done))
    (hblocks : blocks w = true) :
    exec (.remoteTagResponse a .intact) s = .next (s.after a.core
      (((Rules.without (s.at a.core) id).setSt (s.env a.core) a.thread .running).complete a.thread (sstForm w) w)) := by
  have hend : (s.at a.core).endRemoteSlot (s.env a.core) a.thread true w r .done a.found =
      ((Rules.without (s.at a.core) id).setSt (s.env a.core) a.thread .running).complete a.thread (sstForm w) w := by
    have hwithout : (s.at a.core).mapSpm (fun m => m.endRemote r.id) = Rules.without (s.at a.core) id := by
      rw [Spm.id_of_inTurnOf hturn]
      rfl
    have hwaits : ((Rules.without (s.at a.core) id).th a.thread).st = .waiting := hst
    rw [Core.endRemoteSlot, hwithout]
    simp only [Core.endSlot, if_pos hwaits, Core.slotStatus, if_pos hblocks, Bool.true_or, if_true]
    split <;> rfl
  refine onCore_eq_of_effect hcalm ?_ (Core.still_of_runs (t := a.thread) (State.still_of_calm hcalm) ?_)
  · simp only [State.takeResponseFlit_intact, hstall, hturn]
    exact hend
  · rw [Core.life_complete, Core.life_setSt]
    rfl

/-- The access `id` is sent again behind every other, once it was answered RETRY (R221). -/
theorem tagRetryResend_resends {a : Site} {id : Nat} {store : Bool} {w : SeWord} {dl : Option Nat} {r : Remote} {s : State}
    (hcalm : s.calm a.core = true) (hstall : ((s.at a.core).th a.thread).stall = .slotRemote id store w dl)
    (hremote : (s.at a.core).spm.remoteOf id = some r) (hstage : r.stage = .answered .retry) :
    exec (.tagRetryResend a) s = .next (s.after a.core ((s.at a.core).mapSpm (fun m =>
      { m with remote := m.remote.filter (fun x => x.id != id) ++ [{ r with stage := .leaving }] }))) := by
  refine onCore_eq_of_effect hcalm ?_ (Core.still_of_life rfl (State.still_of_calm hcalm))
  simp only [hstall, Core.mapSpm, Spm.resend, hremote, if_pos hstage]
  rfl

/-- Settles O11: each clause is the lemma about its arrival, its limit, its answer or its resending above. -/
theorem taggedAccessesOfOtherCoresArePut : Obligations.TaggedAccessesOfOtherCoresArePut := by
  unfold Obligations.TaggedAccessesOfOtherCoresArePut
  exact ⟨fun _ _ _ _ _ _ _ => remoteTagArrival_serves, fun _ _ _ _ _ _ => remoteTagArrival_parks,
    fun _ _ _ _ _ _ => remoteTagArrival_retries, fun _ _ _ _ => withdrawalArrival_withdraws,
    fun _ _ _ _ _ _ => tagTimeout_withdraws, fun _ _ _ _ _ _ => remoteTagResponse_completes,
    fun _ _ _ _ _ _ _ => tagRetryResend_resends⟩

end Sys2Proof.Machine
end

section
/-! PROOFS. What no record and no result of a command touches, and the step of a core that posts records (R454, R514 to R519). -/

namespace Sys2Proof.Machine

/-- A quantity of the block that is none of the log's, of the host interface's, of the messages that wait at the switch, of the
events for the BMC, of a mailbox's, and of the job table's. -/
structure Unrecorded {γ : Type} (g : State → γ) : Prop where
  errs : ∀ s e, g { s with errs := e } = g s
  host : ∀ s h, g { s with host := h } = g s
  switch : ∀ s w, g { s with switch := w } = g s
  events : ∀ s l o a, g { s with sec := { s.sec with events := l, lostEvents := o }, board := { s.board with alertN := a } } = g s
  box : ∀ s src b, g (s.setBox src b) = g s
  job : ∀ s j f, g (s.mapJob j f) = g s

/-- A choice between two that leave a quantity leaves it. -/
theorem ite_keeps {α γ : Type} {g : α → γ} {c : Prop} [Decidable c] {a t u : α} (ht : g t = g a) (hu : g u = g a) :
    g (if c then t else u) = g a := either_branch (P := fun x => g x = g a) ht hu

namespace Unrecorded

variable {γ : Type} {g : State → γ} (hg : Unrecorded g)
include hg

theorem ringPut (s : State) (r : Record) : g (s.ringPut r) = g s :=
  ite_keeps rfl (ite_keeps (hg.host s _) (ite_keeps (hg.host s _) (hg.host s _)))

theorem noticePut (s : State) (r : Record) : g (s.noticePut r) = g s := by
  refine ite_keeps rfl (foldl_keeps g _ (fun s k => ?_) _ s)
  cases s.active.manager k
  · rfl
  · exact hg.switch s _

theorem bmcPut (s : State) (r : Record) : g (s.bmcPut r) = g s := by
  unfold State.bmcPut
  split_ifs
  · rfl
  · exact hg.events s _ true s.board.alertN
  · exact hg.events s _ s.sec.lostEvents _

theorem logPut (s : State) (x : Event) : g (s.logPut x) = g s := by
  rw [State.logPut, hg.bmcPut, hg.noticePut, hg.ringPut, hg.errs]

theorem noteFatal (s : State) (n : Nat) (i : Word) : g (s.noteFatal n i) = g s :=
  ite_keeps rfl (hg.job s _ _)

theorem tally (s : State) (sev : BitVec 2) : g (s.tally sev) = g s := hg.errs s _

theorem coreCandidate (s : State) (x : Event) : g (s.coreCandidate x) = g s := by
  unfold State.coreCandidate
  split
  · refine ite_keeps (ite_keeps ?_ (hg.errs s _)) rfl
    rw [hg.logPut, hg.tally, hg.errs, hg.errs]
  · rfl

/-- A record touches it only as its severity does (R518). -/
theorem log {x : Event} (hsev : ∀ t, g (t.severity x) = g t) (s : State) : g (s.log x) = g s := by
  unfold State.log
  refine ite_keeps (hg.logPut s x) ?_
  extract_lets s₁ merged w errs₁ s₂ errs₂ s₃ y s₄
  have h₁ : g s₁ = g s := hg.tally s x.sev
  have h₂ : g s₂ = g s₁ := hg.errs s₁ _
  have h₃ : g s₃ = g s₂ := by
    refine ite_keeps (hg.errs s₂ _) (ite_keeps ?_ rfl)
    rw [hg.noteFatal, hg.logPut]
  have h₄ : g s₄ = g s₃ := by
    refine ite_keeps ?_ rfl
    rw [hg.coreCandidate, hg.logPut, hg.tally]
  have h₅ : g (if merged then s₄ else s₄.coreCandidate x) = g s₄ :=
    ite_keeps rfl (hg.coreCandidate s₄ x)
  rw [hsev, h₅, h₄, h₃, h₂, h₁]

/-- The result of a command does not touch it (R454). -/
theorem complete (s : State) (src : Source) (st : Byte) (d : Nat) (rsp : List Byte) : g (s.complete src st d rsp) = g s := by
  cases src with
  | bmc => exact hg.box s .bmc _
  | fm k =>
    have hanswer : ∀ t : State, g (t.answerManager k) = g t := fun t => by
      unfold State.answerManager State.sendResult
      split
      · rfl
      · exact foldl_keeps g _ (fun u _ => hg.switch u _) _ t
    simp only [State.complete, State.log_notice, hg.logPut, hanswer, hg.box]
  | host n =>
    have hbox := hg.box s (.host n) ((s.box (.host n)).finish s.now st d rsp)
    exact ite_keeps ((hg.host _ _).trans ((hg.host _ _).trans hbox)) ((hg.host _ _).trans hbox)

end Unrecorded

/-! ### Records of a core below the fatal severities -/

theorem State.cores_unrecorded : Unrecorded State.cores where
  errs _ _ := rfl
  host _ _ := rfl
  switch _ _ := rfl
  events _ _ _ _ := rfl
  box s src b := by cases src <;> rfl
  job _ _ _ := rfl

/-- A record of severity corrected or deferred leaves the cores alone (R518). -/
theorem State.corePost_cores (s : State) (id : CoreId) {p : Post} (hp : p.sev.toNat < 2) : (s.corePost id p).cores = s.cores := by
  have hrow : (s.ledgerRow id p).cores = s.cores := by
    unfold State.ledgerRow
    cases s.position id <;> rfl
  have h2 : p.sev ≠ 2 := fun h => by rw [h] at hp; exact absurd hp (by decide)
  have h3 : p.sev ≠ 3 := fun h => by rw [h] at hp; exact absurd hp (by decide)
  unfold State.corePost
  rw [State.cores_unrecorded.log]
  · exact ite_keeps (g := State.cores) hrow rfl
  · intro t
    simp only [State.severity, if_neg h2, if_neg h3, Bool.false_eq_true, if_false]

theorem State.foldl_corePost_cores (id : CoreId) {ps : List Post} (hps : ∀ p ∈ ps, p.sev.toNat < 2) (s : State) :
    (ps.foldl (fun s p => s.corePost id p) s).cores = s.cores :=
  List.foldlRecOn (motive := fun t : State => t.cores = s.cores) ps _ rfl
    (fun t ht p hp => (t.corePost_cores id (hps p hp)).trans ht)

/-- The core with records for the MP. -/
def Core.posting (c : Core) (ps : List Post) : Core := { c with out := { c.out with posts := c.out.posts ++ ps } }

/-- A step of a calm core that posts records of severity corrected or deferred leaves the core as its effect does, with the records
taken. -/
theorem onCore_posting {s : State} {id : CoreId} {f : Env → Core → Core} {d : Core} {ps : List Post} (hcalm : s.calm id = true)
    (hf : f (s.env id) (s.at id) = d.posting ps) (hl : d.life = (s.at id).life) (hps : ∀ p ∈ ps, p.sev.toNat < 2) :
    ∃ s', onCore id f s = .next s' ∧ s'.core id = d := by
  have hstill := Core.still_of_life hl (State.still_of_calm hcalm)
  simp only [Core.still, Bool.and_eq_true, Core.allTh_iff, decide_eq_true_eq, Bool.not_eq_true'] at hstill
  obtain ⟨⟨⟨hhalts, hfinished⟩, hended⟩, hout⟩ := hstill
  have hsettle : (d.posting ps).settle (s.env id) = d.posting ps := by
    have hended' : (d.posting ps).ended = false := hended
    have hfinished' : (d.posting ps).finished = false := hfinished
    rw [Core.settle_of_unasked (c := d.posting ps) _ hhalts, hended', Bool.or_false]
  refine ⟨_, rfl, ?_⟩
  rw [State.onCore, if_pos (State.assigned_of_calm hcalm)]
  show State.core ((State.setCore _ id ((f (s.env id) (s.at id)).settle (s.env id))).drain id) id = d
  rw [hf, hsettle]
  generalize ({ s with fresh := s.fresh + 1 } : State) = t
  have hget : (t.setCore id (d.posting ps)).core id = d.posting ps := tget_tset_same _ _ _ _
  have hposts : (d.posting ps).out = { Outbox.empty with posts := ps } := by
    rw [Core.posting, hout]
    rfl
  have hquiet : ({ d.posting ps with out := Outbox.empty } : Core) = d := by rw [← hout]; rfl
  have hdrain : (t.setCore id (d.posting ps)).drain id =
      ps.foldl (fun s p => s.corePost id p) ((t.setCore id (d.posting ps)).setCore id d) := by
    have hfinished' : (d.posting ps).finished = false := hfinished
    simp only [State.drain, hget, hquiet]
    rw [hposts, hfinished']
    rfl
  rw [hdrain, State.core, State.foldl_corePost_cores id hps]
  exact tget_tset_same _ _ _ _

end Sys2Proof.Machine
end

section
/-! PROOFS. The scrubbers of a scratchpad, its aged requests, and the trace (R193, R199, R203 to R205, R528). -/

namespace Sys2Proof.Machine

/-! ### One scrubber -/

theorem Core.mapScrub_scrub_same (c : Core) (b : Fin 16) (f : Scrubber → Scrubber) :
    (c.mapScrub b f).spm.scrub[b] = f c.spm.scrub[b] := by
  simp [Core.mapScrub, Core.mapSpm]

theorem Core.mapScrub_scrub_other (c : Core) {b k : Fin 16} (f : Scrubber → Scrubber) (h : b ≠ k) :
    (c.mapScrub k f).spm.scrub[b] = c.spm.scrub[b] := by
  have h' : k.val ≠ b.val := fun e => h (Fin.ext e.symm)
  simp [Core.mapScrub, Core.mapSpm, h']

theorem Core.mapScrub_mapScrub (c : Core) (b : Fin 16) (f g : Scrubber → Scrubber) :
    (c.mapScrub b f).mapScrub b g = c.mapScrub b (g ∘ f) := by
  simp [Core.mapScrub, Core.mapSpm]

theorem Core.mapScrub_congr {c : Core} {b : Fin 16} {f g : Scrubber → Scrubber} (h : f c.spm.scrub[b] = g c.spm.scrub[b]) :
    c.mapScrub b f = c.mapScrub b g := by
  rw [Core.mapScrub, Core.mapScrub, Core.mapSpm, Core.mapSpm, h]

theorem Core.mapScrub_self {c : Core} {b : Fin 16} {f : Scrubber → Scrubber} (h : f c.spm.scrub[b] = c.spm.scrub[b]) :
    c.mapScrub b f = c :=
  (Core.mapScrub_congr (g := id) h).trans (by simp [Core.mapScrub, Core.mapSpm])

@[simp] theorem Core.life_mapScrub (c : Core) (b : Fin 16) (f : Scrubber → Scrubber) : (c.mapScrub b f).life = c.life := rfl

/-- A change of one scrubber is the step of a calm core. -/
theorem onCore_mapScrub {s : State} {core : CoreId} {f : Env → Core → Core} {b : Fin 16} {g : Scrubber → Scrubber}
    (hcalm : s.calm core = true) (hf : f (s.env core) (s.at core) = (s.at core).mapScrub b g) :
    onCore core f s = .next (s.after core ((s.at core).mapScrub b g)) :=
  onCore_eq_of_effect hcalm hf (Core.still_of_life rfl (State.still_of_calm hcalm))

/-! ### Aged requests -/

theorem requestAged_marks {core : CoreId} {b : Fin 16} {p : SpmPort} {s : State} (hcalm : s.calm core = true) (hp : p ≠ .scrub) :
    exec (.requestAged core b p) s = .next (s.after core ((s.at core).mapScrub b (fun x =>
      if p ∈ x.agedPorts then x else { x with agedPorts := x.agedPorts ++ [p] }))) := by
  refine onCore_mapScrub hcalm ?_
  rw [if_neg hp]
  refine Core.mapScrub_congr ?_
  simp

theorem meRequestAged_marks {core : CoreId} {b : Fin 16} {s : State} (hcalm : s.calm core = true) :
    exec (.meRequestAged core b) s = .next (s.after core
      (if (s.at core).me.run.any (fun o => onBank (o.ranked (s.at core).me.cfg) b) then
        (s.at core).mapScrub b (fun x => { x with meAged := true }) else s.at core)) :=
  onCore_of_life hcalm (ite_keeps rfl rfl)

theorem scrubAged_marks {core : CoreId} {b : Fin 16} {s : State} (hcalm : s.calm core = true) :
    exec (.scrubAged core b) s = .next (s.after core ((s.at core).mapScrub b (fun x => { x with aged := true }))) :=
  onCore_mapScrub hcalm rfl

theorem spmCorrectedWriteback_writes_first {core : CoreId} {b : Fin 16} {s : State} (hcalm : s.calm core = true) :
    exec (.spmCorrectedWriteback core b) s = .next (s.after core
      ((s.at core).mapScrub b (fun x => { x with writebacks := x.writebacks.tail }))) :=
  onCore_mapScrub hcalm (Core.mapScrub_congr (by rw [List.drop_one]))

/-- The longest aged request of a bank is granted before a scrub read that has not aged (R204). -/
theorem scrubRead_yields {core : CoreId} {b : Fin 16} {p : SpmPort} {ps : List SpmPort} {found : List WordFinding} {s : State}
    (hcalm : s.calm core = true) (hports : ((s.at core).spm.scrub[b]).agedPorts = p :: ps)
    (haged : ((s.at core).spm.scrub[b]).aged = false) :
    exec (.scrubRead core b found) s = .next (s.after core ((s.at core).mapScrub b (fun x => { x with agedPorts := ps }))) := by
  refine onCore_mapScrub hcalm ?_
  simp only [hports, haged, List.isEmpty_cons, Bool.not_false, Bool.and_self, if_true]
  exact Core.mapScrub_congr (by rw [hports]; rfl)

/-! ### Grants -/

/-- The core without the mark of a port at one bank. -/
def Core.unmark (port : SpmPort) (k : Fin 16) (c : Core) : Core :=
  c.mapScrub k (fun s => { s with agedPorts := s.agedPorts.filter (fun p => decide (p ≠ port)) })

/-- What a grant of a port for byte ranges does at one bank. -/
def Core.grantAt (port : SpmPort) (rs : List (Nat × Nat)) (c : Core) (k : Fin 16) : Core :=
  if onBank rs k then c.unmark port k else c

/-- A bank that holds no mark of a port has none to lose. -/
theorem Core.unmark_of_unmarked {c : Core} {port : SpmPort} {k : Fin 16}
    (h : c.spm.scrub[k].agedPorts.any (fun p => decide (p = port)) = false) : c.unmark port k = c := by
  have hfilter : c.spm.scrub[k].agedPorts.filter (fun p => decide (p ≠ port)) = c.spm.scrub[k].agedPorts := by
    rw [List.filter_eq_self]
    intro p hp
    simpa using List.any_eq_false.mp h p hp
  exact Core.mapScrub_self (by rw [hfilter])

theorem Core.granted_eq_foldl (port : SpmPort) (rs : List (Nat × Nat)) (c : Core) :
    c.granted port rs = (List.finRange 16).foldl (Core.grantAt port rs) c := by
  unfold Core.granted
  congr 1
  funext d k
  unfold Core.grantAt
  cases hmark : d.spm.scrub[k].agedPorts.any (fun p => decide (p = port)) with
  | false => simp [Core.unmark_of_unmarked hmark]
  | true => rw [Bool.true_and]; rfl

/-- A grant at the bank takes the port's mark away there, and one at another bank does not. -/
theorem Core.grantAt_agedPorts (port : SpmPort) (rs : List (Nat × Nat)) (c : Core) (b k : Fin 16) :
    ((c.grantAt port rs k).spm.scrub[b]).agedPorts =
      if k = b ∧ onBank rs b = true then ((c.spm.scrub[b]).agedPorts).filter (fun p => decide (p ≠ port))
      else (c.spm.scrub[b]).agedPorts := by
  by_cases hbank : onBank rs k = true
  · rw [Core.grantAt, if_pos hbank]
    by_cases hk : k = b
    · subst hk
      rw [if_pos ⟨rfl, hbank⟩]
      exact congrArg Scrubber.agedPorts (c.mapScrub_scrub_same k _)
    · rw [if_neg (fun h => hk h.1)]
      exact congrArg Scrubber.agedPorts (c.mapScrub_scrub_other _ (Ne.symm hk))
  · rw [Core.grantAt, if_neg hbank, if_neg (by rintro ⟨rfl, h⟩; exact hbank h)]

theorem Core.foldl_grantAt_agedPorts (port : SpmPort) (rs : List (Nat × Nat)) (b : Fin 16) (l : List (Fin 16)) (c : Core) :
    ((l.foldl (Core.grantAt port rs) c).spm.scrub[b]).agedPorts =
      if b ∈ l ∧ onBank rs b = true then ((c.spm.scrub[b]).agedPorts).filter (fun p => decide (p ≠ port))
      else (c.spm.scrub[b]).agedPorts := by
  induction l generalizing c with
  | nil => simp
  | cons k l ih =>
    rw [List.foldl_cons, ih, Core.grantAt_agedPorts]
    by_cases hbank : onBank rs b = true
    · by_cases hk : k = b
      · simp [hbank, hk]
      · simp [hbank, hk, Ne.symm hk]
    · simp [hbank]

/-- A grant takes the marks of its port away at the banks that its bytes touch (R199). -/
theorem Core.granted_agedPorts (c : Core) (b : Fin 16) (port : SpmPort) (rs : List (Nat × Nat)) :
    ((c.granted port rs).spm.scrub[b]).agedPorts =
      if onBank rs b then ((c.spm.scrub[b]).agedPorts).filter (fun p => decide (p ≠ port)) else (c.spm.scrub[b]).agedPorts := by
  rw [Core.granted_eq_foldl, Core.foldl_grantAt_agedPorts]
  simp

theorem Core.granted_data (c : Core) (port : SpmPort) (rs : List (Nat × Nat)) :
    (c.granted port rs).spm.mem = c.spm.mem ∧ (c.granted port rs).spm.poison = c.spm.poison := by
  rw [Core.granted_eq_foldl]
  exact Prod.mk.inj (foldl_keeps (fun d : Core => (d.spm.mem, d.spm.poison)) (Core.grantAt port rs) (fun d k =>
    ite_keeps (g := fun d : Core => (d.spm.mem, d.spm.poison)) rfl rfl) _ c)

/-! ### A scrub read -/

/-- A row is none of the last of a bank when the one after it is still in the scratchpad. -/
theorem row_lt_rows {code : OrderingCode} {r : Nat} (h : 1024 * (r + 1) < spmBytes code) : r + 1 < spmBytes code / 1024 := by
  have hrows : spmBytes code = 1024 * (spmBytes code / 1024) := by cases code <;> rfl
  omega

/-- The words of a row of a bank that are poison. -/
def Core.poisonIn (c : Core) (b : Fin 16) (row : Nat) : Nat :=
  ((List.range 8).filter (fun w => nhas c.spm.poison (bankWord b row w))).length

section
variable {e : Env} {b : Fin 16} {fs : List WordFinding} {c : Core} (hrow : c.spm.scrub[b].row + 1 < e.spmSize / 1024)
include hrow

/-- A scrub read before the last row of a bank that has a row to read moves on, after what it found there (R204). -/
theorem Core.scrubRow_of_used {row : Nat} (hused : c.spm.scrubRow (e.spmSize / 1024) b c.spm.scrub[b].row = some row) :
    c.scrubRow e b fs = ((fs.foldl (fun (c : Core) f => c.found b row f) c).mapScrub b (fun s =>
      { s with poisonNow := s.poisonNow + c.poisonIn b row })).mapScrub b (fun s =>
        { s with row := c.spm.scrub[b].row + 1, aged := false }) := by
  simp only [Core.scrubRow, hused]
  exact if_neg (by omega)

/-- One whose count names a row out of use only moves on. -/
theorem Core.scrubRow_of_unused (hunused : c.spm.scrubRow (e.spmSize / 1024) b c.spm.scrub[b].row = none) :
    c.scrubRow e b fs = c.mapScrub b (fun s => { s with row := c.spm.scrub[b].row + 1, aged := false }) := by
  simp only [Core.scrubRow, hunused]
  exact if_neg (by omega)

/-- One that finds nothing in a scratchpad without poison only moves on. -/
theorem Core.scrubRow_of_clean (hpoison : c.spm.poison = []) :
    c.scrubRow e b [] = c.mapScrub b (fun s => { s with row := s.row + 1, aged := false }) := by
  cases hread : c.spm.scrubRow (e.spmSize / 1024) b c.spm.scrub[b].row with
  | none => exact (Core.scrubRow_of_unused hrow hread).trans (Core.mapScrub_congr rfl)
  | some row =>
    have hnone : c.mapScrub b (fun s => { s with poisonNow := s.poisonNow + c.poisonIn b row }) = c :=
      Core.mapScrub_self (by simp [Core.poisonIn, hpoison, nhas])
    rw [Core.scrubRow_of_used hrow hread, List.foldl_nil, hnone]
    exact Core.mapScrub_congr rfl

end

theorem scrubRead_moves_on {core : CoreId} {b : Fin 16} {s : State} (hcalm : s.calm core = true) (hpoison : (s.at core).spm.poison = [])
    (hports : ((s.at core).spm.scrub[b]).agedPorts = [])
    (hrow : 1024 * (((s.at core).spm.scrub[b]).row + 1) < spmBytes s.ident.code) :
    exec (.scrubRead core b []) s = .next (s.after core ((s.at core).mapScrub b (fun x =>
      { x with row := x.row + 1, aged := false }))) := by
  refine onCore_mapScrub hcalm ?_
  simp only [hports, List.isEmpty_nil, Bool.not_true, Bool.false_and, Bool.false_eq_true, if_false]
  exact Core.scrubRow_of_clean (row_lt_rows hrow) hpoison

/-- The number of a word of a bank names the bank (Table 7-1). -/
theorem bankOf_bankWord (b : Fin 16) (r : Nat) (w : Fin 8) : bankOf (bankWord b r w.val) = b := by
  refine Fin.ext ?_
  simp only [bankOf, bankWord, Fin.val_ofNat]
  omega

theorem Core.posting_posting (c : Core) (ps qs : List Post) : (c.posting ps).posting qs = c.posting (ps ++ qs) := by
  simp [Core.posting]

theorem Core.mapScrub_posting (c : Core) (b : Fin 16) (f : Scrubber → Scrubber) (ps : List Post) :
    (c.posting ps).mapScrub b f = (c.mapScrub b f).posting ps := rfl

/-- A corrected word of a scrub read is to be written back, and is recorded below the fatal severities (R203 to R205). -/
theorem Core.found_corrected (b : Fin 16) (row : Nat) (w : Fin 8) (bit : BitVec 7) (c : Core) :
    ∃ ps : List Post, (∀ p ∈ ps, p.sev.toNat < 2) ∧ c.found b row (.corrected w bit) =
      (c.mapScrub b (fun s => { s with
        correctedNow := s.correctedNow ++ [(bankWord b row w.val, bit.toNat)]
        writebacks := s.writebacks ++ [bankWord b row w.val] })).posting ps := by
  have hcorrected : ∀ x, (c.mapScrub b (fun s => { s with correctedNow := s.correctedNow ++ [x] })).corrected (bankWord b row w.val) =
      (c.mapScrub b (fun s => { s with
        correctedNow := s.correctedNow ++ [x], writebacks := s.writebacks ++ [bankWord b row w.val] })).posting
        [spmPost 0 0x0101 (bankWord b row w.val) []] := fun x => by
    rw [Core.corrected, bankOf_bankWord, Core.mapScrub_mapScrub]
    rfl
  simp only [Core.found, hcorrected]
  split
  · exact ⟨_, by simp [spmPost, plainPost], Core.posting_posting _ _ [_]⟩
  · exact ⟨_, by simp [spmPost, plainPost], rfl⟩

/-- A row that no spare row stands in for is the one that the scrubber's count names (R197). -/
theorem Spm.scrubRow_of_used {m : Spm} {rows n : Nat} {b : Fin 16} (hn : n < rows) (hspare : (b.val, n) ∉ m.spares) :
    m.scrubRow rows b n = some n := by
  have hnone : ((m.spares.filter (fun x => x.1 == b.val)).map (fun x => x.2)).any (fun r => r == n) = false := by
    simp only [List.any_map, List.any_filter, List.any_eq_false, Function.comp, Bool.and_eq_true, beq_iff_eq]
    rintro ⟨k, r⟩ hmem ⟨rfl, rfl⟩
    exact hspare hmem
  simp only [Spm.scrubRow, if_pos hn, hnone, Bool.false_eq_true, if_false]

theorem scrubRead_corrects {core : CoreId} {b : Fin 16} {w : Fin 8} {bit : BitVec 7} {s : State} (hcalm : s.calm core = true)
    (hports : ((s.at core).spm.scrub[b]).agedPorts = [])
    (hrow : 1024 * (((s.at core).spm.scrub[b]).row + 1) < spmBytes s.ident.code)
    (hspare : (b.val, ((s.at core).spm.scrub[b]).row) ∉ (s.at core).spm.spares) :
    ∃ s', exec (.scrubRead core b [.corrected w bit]) s = .next s' ∧
      ((s'.core core).spm.scrub[b]).row = ((s.at core).spm.scrub[b]).row + 1 ∧
      ((s'.core core).spm.scrub[b]).writebacks = ((s.at core).spm.scrub[b]).writebacks ++
        [128 * ((s.at core).spm.scrub[b]).row + 8 * b.val + w.val] ∧
      (s'.core core).spm.mem = (s.at core).spm.mem ∧ (s'.core core).spm.poison = (s.at core).spm.poison := by
  have hinner : ((s.at core).spm.scrub[b]).row + 1 < (s.env core).spmSize / 1024 := row_lt_rows hrow
  obtain ⟨ps, hps, hfound⟩ := Core.found_corrected b ((s.at core).spm.scrub[b]).row w bit (s.at core)
  have hread := Core.scrubRow_of_used (fs := [.corrected w bit]) hinner (Spm.scrubRow_of_used (Nat.lt_of_succ_lt hinner) hspare)
  simp only [List.foldl_cons, List.foldl_nil, hfound, Core.mapScrub_posting, Core.mapScrub_mapScrub] at hread
  obtain ⟨s', hstep, hcore⟩ := onCore_posting (s := s) (id := core)
    (f := fun e c => if !c.spm.scrub[b].agedPorts.isEmpty && !c.spm.scrub[b].aged then
      c.mapScrub b (fun x => { x with agedPorts := x.agedPorts.drop 1 }) else c.scrubRow e b [.corrected w bit])
    (ps := ps) hcalm (by
      simp only [hports, List.isEmpty_nil, Bool.not_true, Bool.false_and, Bool.false_eq_true, if_false]
      exact hread) (Core.life_mapScrub (s.at core) b _) hps
  refine ⟨s', hstep, ?_⟩
  rw [hcore, Core.mapScrub_scrub_same]
  exact ⟨rfl, rfl, rfl, rfl⟩

/-! ### The trace -/

/-- The first buffered entry of the trace is written at TRPTR, which moves past it below TRLIMIT (R528). -/
theorem traceEntryWrite_writes_oldest {core : CoreId} {x : Vector Word 4} {xs : List (Vector Word 4)} {found : List SpmFinding}
    {s : State} (hcalm : s.calm core = true) (hbuf : (s.at core).dbg.buf = x :: xs)
    (hfits : (s.at core).dbg.trptr.toNat + 16 ≤ spmBytes s.ident.code)
    (hlimit : (s.at core).dbg.trptr.toNat + 16 < (s.at core).dbg.trlimit.toNat) :
    exec (.traceEntryWrite core found) s = .next (s.after core
      { ((s.at core).mapSpm (fun m => m.write (s.at core).dbg.trptr.toNat (x.toList.flatMap (fun w => leBytes 4 w.toNat)))).unverified
          [((s.at core).dbg.trptr.toNat, 16)] found with
        dbg := { (s.at core).dbg with buf := xs, trptr := (s.at core).dbg.trptr + 16 } }) := by
  have hfits' : (s.at core).dbg.trptr.toNat + 16 ≤ (s.env core).spmSize := hfits
  have hnotFull : decide ((s.at core).dbg.trlimit.toNat ≤ (s.at core).dbg.trptr.toNat + 16) = false :=
    decide_eq_false (Nat.not_le.mpr hlimit)
  refine onCore_eq_of_effect hcalm ?_ (Core.still_of_life (Core.life_unverified _ _ _) (State.still_of_calm hcalm))
  simp only [Core.traceWrite, hbuf, if_pos hfits', hnotFull, Bool.false_and, Bool.false_eq_true, if_false, Bool.not_false,
    Bool.true_or, Bool.and_true]

theorem traceSync_enters {core : CoreId} {s : State} (hcalm : s.calm core = true) (hattached : (s.at core).dbg.attached = true)
    (htren : (s.at core).dbg.tren = true) (hroom : (s.at core).dbg.buf.length < 64) (hnow : s.now % 2 ^ 30 = 0) :
    exec (.traceSync core) s = .next (s.after core
      { s.at core with dbg := { (s.at core).dbg with
        buf := (s.at core).dbg.buf ++ [#v[0, 0, BitVec.ofNat 32 (s.now / 2 ^ 32), BitVec.ofNat 32 s.now]] } }) := by
  have hsync : nextSync s.now = s.now := by
    simp only [nextSync, ceilDiv]
    omega
  have hwait : s.wait (nextSync s.now) = s := by
    rw [hsync, State.wait, Nat.max_self]
  have htraces : (s.core core).dbg.attached = true ∧ (s.core core).dbg.tren = true := ⟨hattached, htren⟩
  show execTraceSync core s = _
  rw [execTraceSync, if_pos htraces, hwait]
  refine onCore_eq_of_effect hcalm ?_ (Core.still_of_life rfl (State.still_of_calm hcalm))
  simp only [Core.traceSync, hattached, htren, Bool.and_self, if_true, if_pos hroom]
  rfl

/-- Settles O17: each clause is the lemma about its entry of the trace, its aged request, its grant or its scrub read above. -/
theorem scrubbersAndTracesGoOn : Obligations.ScrubbersAndTracesGoOn := by
  unfold Obligations.ScrubbersAndTracesGoOn
  exact ⟨fun _ _ _ _ _ => traceEntryWrite_writes_oldest, fun _ _ => traceSync_enters, fun _ _ _ _ => requestAged_marks,
    fun _ _ _ hcalm => ⟨meRequestAged_marks hcalm, scrubAged_marks hcalm, spmCorrectedWriteback_writes_first hcalm⟩,
    fun _ _ _ _ _ _ => scrubRead_yields, fun c b p rs => ⟨c.granted_agedPorts b p rs, c.granted_data p rs⟩,
    fun _ _ _ => scrubRead_moves_on, fun _ _ _ _ _ => scrubRead_corrects⟩

end Sys2Proof.Machine
end

section
/-! PROOFS. Commands on the ledgers of the management processor, and tests by command (R205, R280, R304 to R310, Table 15-12). -/

namespace Sys2Proof.Machine

/-! ### What the ledgers hold -/

/-- What the commands on the ledgers speak of: the ledgers, the passes that count for a readmission, the set in force, and the external
memory. -/
structure Ledgers where
  retiredCores : NatSet
  retiredNodes : NatSet
  passed : NatSet
  noRisers : NatSet
  repairs : List RepairEntry
  pchPassed : Bool
  active : ConfigSet
  hbm : Hbm

def State.ledgers (s : State) : Ledgers :=
  { retiredCores := s.mp.retiredCores, retiredNodes := s.mp.retiredNodes, passed := s.mp.passed, noRisers := s.mp.noRisers,
    repairs := s.mp.repairs, pchPassed := s.board.pchPassed, active := s.active, hbm := s.hbm }

theorem State.ledgers_unrecorded : Unrecorded State.ledgers where
  errs _ _ := rfl
  host _ _ := rfl
  switch _ _ := rfl
  events _ _ _ _ := rfl
  box s src b := by cases src <;> rfl
  job _ _ _ := rfl

theorem State.safetyAction_ledgers (s : State) (c : Claim) : (s.safetyAction c).ledgers = s.ledgers := rfl

/-- A job that faults leaves the ledgers alone (R473). -/
theorem State.faultJob_ledgers (s : State) (j : Fin 8) : (s.faultJob j).ledgers = s.ledgers := by
  have hholds : (s.holdCores j).ledgers = s.ledgers := foldl_keeps State.ledgers
    (fun (s : State) (x : CoreId × Bool × Word) => s.setCore x.1 ((s.core x.1).halted (s.env x.1))) (fun _ _ => rfl) _ s
  have hfaults : ((((s.holdCores j).mapJob j (fun b => { b with st := .faulted })).safetyAction (.job (j.val + 1))).logPut
      (noticeEvent 0x0803 (j.val + 1) [4])).ledgers = s.ledgers := by
    rw [State.ledgers_unrecorded.logPut, State.safetyAction_ledgers, State.ledgers_unrecorded.job, hholds]
  unfold State.faultJob
  split
  · exact hfaults
  · exact hfaults
  · exact hfaults
  · rfl

/-- A record leaves the ledgers alone, whatever its severity (R518). -/
theorem State.log_ledgers (s : State) (x : Event) : (s.log x).ledgers = s.ledgers := by
  refine State.ledgers_unrecorded.log (fun t => ?_) s
  have hall : t.ledgers = (({ t with mp := { t.mp with fatal := true } } : State).faultAll).ledgers :=
    (foldl_keeps State.ledgers _ State.faultJob_ledgers _ { t with mp := { t.mp with fatal := true } }).symm
  exact ite_keeps rfl (ite_keeps (ite_keeps rfl (t.faultJob_ledgers _)) (ite_keeps hall.symm rfl))

/-- A die that breaks the limits is one without risers, and the other ledgers are as they were (R310). -/
theorem State.nodeLimit_ledgers (s : State) (d : Nat) :
    (s.nodeLimit d).ledgers = { s.ledgers with noRisers := nins s.mp.noRisers d } := by
  rw [State.nodeLimit, State.log_ledgers]
  rfl

/-! ### The end of a command -/

section
variable {i : Instr} {src : Source} {q : Request} {body : State → Reply} {s t : State} {rsp : List Byte}

/-- The command that its mailbox runs answers. -/
theorem mpCmd_of_running (h : Rules.running s src q) : mpCmd src q body s = .next (State.answer src (body s)) := by
  obtain ⟨hheld, hst, hbegun, hruns, hrank⟩ := h
  exact mpCmd_running hheld hst hruns (.inl hbegun) hrank

/-- One that ends OK leaves its response in its mailbox, and the ledgers as it made them. -/
theorem ends_okWith (hi : exec i s = mpCmd src q body s) (h : Rules.running s src q) (hbody : body s = okWith t rsp)
    (hlen : rsp.length ≤ 4096) :
    ∃ s', exec i s = .next s' ∧ Rules.done s' src 0 0 rsp ∧ s'.ledgers = t.ledgers := by
  obtain ⟨hst, hstatus, hdetail, hrsp, -⟩ := complete_leaves_result src 0 0 rsp t hlen
  exact ⟨_, by rw [hi, mpCmd_of_running h, hbody, answer_okWith], ⟨hst, hstatus, hdetail, hrsp⟩,
    State.ledgers_unrecorded.complete t src 0 0 rsp⟩

theorem ends_badArg {o : Nat} (hi : exec i s = mpCmd src q body s) (h : Rules.running s src q) (hbody : body s = badArg t o) :
    exec i s = .next (t.complete src 3 o []) := by
  rw [hi, mpCmd_of_running h, hbody, answer_badArg]

theorem ends_denied {n : Nat} (hi : exec i s = mpCmd src q body s) (h : Rules.running s src q) (hbody : body s = denied t n) :
    exec i s = .next (t.complete src 4 n []) := by
  rw [hi, mpCmd_of_running h, hbody, answer_denied]

end

/-! ### CORE_RETIRE and CORE_READMIT -/

section
variable {src : Source} {d : Fin 32} {r : BitVec 5} {c : BitVec 4} {s : State}

/-- A retired core is in the ledger, and a test before it no longer counts (log entry 86). -/
theorem coreRetire_retires_core (h : Rules.running s src (reqPosition 0x60 d r c false)) (hr : r.toNat ≤ 16) :
    ∃ s', exec (.coreRetire src d r c false) s = .next s' ∧ Rules.done s' src 0 0 (leBytes 4 0) ∧
      nhas s'.mp.retiredCores (272 * d.val + (16 * r.toNat + c.toNat)) = true ∧
      nhas s'.mp.passed (272 * d.val + (16 * r.toNat + c.toNat)) = false ∧ s'.active = s.active := by
  obtain ⟨s', hstep, hdone, hkeeps⟩ := ends_okWith (t := s.retire (272 * d.val + (16 * r.toNat + c.toNat)) false)
    (rsp := leBytes 4 0) (i := .coreRetire src d r c false) rfl h (if_neg (Nat.not_lt.mpr hr)) (by simp)
  have hcores := congrArg Ledgers.retiredCores hkeeps
  have hpassed := congrArg Ledgers.passed hkeeps
  refine ⟨s', hstep, hdone, ?_, ?_, congrArg Ledgers.active hkeeps⟩
  · exact (congrArg (nhas · _) hcores).trans (by simp [State.ledgers, State.retire, nhas_nins])
  · exact (congrArg (nhas · _) hpassed).trans (by simp [State.ledgers, State.retire, nhas_ndel])

theorem coreRetire_beyond_rows {node : Bool} (h : Rules.running s src (reqPosition 0x60 d r c node)) (hr : 16 < r.toNat) :
    exec (.coreRetire src d r c node) s = .next (s.complete src 3 0 []) :=
  ends_badArg (i := .coreRetire src d r c node) rfl h (if_pos hr)

theorem coreRetire_retires_node (h : Rules.running s src (reqPosition 0x60 d r c true)) (hr : r.toNat ≤ 16)
    (hfits : s.nodeFits d (16 * r.toNat + c.toNat) = true) :
    ∃ s', exec (.coreRetire src d r c true) s = .next s' ∧ Rules.done s' src 0 0 (leBytes 4 1) ∧
      nhas s'.mp.retiredNodes (272 * d.val + (16 * r.toNat + c.toNat)) = true := by
  obtain ⟨s', hstep, hdone, hkeeps⟩ := ends_okWith (t := s.retire (272 * d.val + (16 * r.toNat + c.toNat)) true)
    (rsp := leBytes 4 1) (i := .coreRetire src d r c true) rfl h ((if_neg (Nat.not_lt.mpr hr)).trans (if_neg (by simp [hfits]))) (by simp)
  refine ⟨s', hstep, hdone, ?_⟩
  exact (congrArg (nhas · _) (congrArg Ledgers.retiredNodes hkeeps)).trans (by simp [State.ledgers, State.retire, nhas_nins])

/-- A node beyond the limits of its die is not retired: the die has no risers from then on (R310). -/
theorem coreRetire_refuses_node (h : Rules.running s src (reqPosition 0x60 d r c true)) (hr : r.toNat ≤ 16)
    (hfits : s.nodeFits d (16 * r.toNat + c.toNat) = false) :
    ∃ s', exec (.coreRetire src d r c true) s = .next s' ∧ Rules.done s' src 3 0 [] ∧ nhas s'.mp.noRisers d.val = true ∧
      s'.mp.retiredNodes = s.mp.retiredNodes := by
  have hstep : exec (.coreRetire src d r c true) s = .next ((s.nodeLimit d.val).complete src 3 0 []) :=
    ends_badArg (i := .coreRetire src d r c true) rfl h ((if_neg (Nat.not_lt.mpr hr)).trans (if_pos (by simp [hfits])))
  obtain ⟨hst, hstatus, hdetail, hrsp, -⟩ := complete_leaves_result src 3 0 [] (s.nodeLimit d.val) (by simp)
  have hkeeps := (State.ledgers_unrecorded.complete (s.nodeLimit d.val) src 3 0 []).trans (s.nodeLimit_ledgers d.val)
  have hrisers := congrArg Ledgers.noRisers hkeeps
  refine ⟨_, hstep, ⟨hst, hstatus, hdetail, hrsp⟩, ?_, congrArg Ledgers.retiredNodes hkeeps⟩
  exact (congrArg (nhas · _) hrisers).trans (by simp [nhas_nins])

theorem coreReadmit_of_unretired (h : Rules.running s src (reqPosition 0x61 d r c false))
    (hin : nhas s.mp.retiredCores (272 * d.val + 16 * r.toNat + c.toNat) = false) :
    exec (.coreReadmit src d r c false) s = .next (s.complete src 3 0 []) :=
  ends_badArg (i := .coreReadmit src d r c false) rfl h (if_pos (.inr (by simp [hin])))

theorem coreReadmit_of_untested (h : Rules.running s src (reqPosition 0x61 d r c false)) (hr : r.toNat ≤ 16)
    (hin : nhas s.mp.retiredCores (272 * d.val + 16 * r.toNat + c.toNat) = true)
    (hpassed : nhas s.mp.passed (272 * d.val + 16 * r.toNat + c.toNat) = false) :
    exec (.coreReadmit src d r c false) s = .next (s.complete src 4 8 []) :=
  ends_denied (i := .coreReadmit src d r c false) rfl h ((if_neg (by simp [hin, hr])).trans (if_pos (by simp [hpassed])))

/-- A retired core that has passed a test since leaves the ledger (R307). -/
theorem coreReadmit_readmits (h : Rules.running s src (reqPosition 0x61 d r c false)) (hr : r.toNat ≤ 16)
    (hin : nhas s.mp.retiredCores (272 * d.val + 16 * r.toNat + c.toNat) = true)
    (hpassed : nhas s.mp.passed (272 * d.val + 16 * r.toNat + c.toNat) = true) :
    ∃ s', exec (.coreReadmit src d r c false) s = .next s' ∧ Rules.done s' src 0 0 (leBytes 4 2) ∧
      nhas s'.mp.retiredCores (272 * d.val + 16 * r.toNat + c.toNat) = false ∧ s'.active = s.active := by
  obtain ⟨s', hstep, hdone, hkeeps⟩ := ends_okWith (i := .coreReadmit src d r c false) (rsp := leBytes 4 2) rfl h
    ((if_neg (by simp [hin, hr])).trans (if_neg (by simp [hpassed]))) (by simp)
  refine ⟨s', hstep, hdone, ?_, congrArg Ledgers.active hkeeps⟩
  exact (congrArg (nhas · _) (congrArg Ledgers.retiredCores hkeeps)).trans (by simp [State.ledgers, nhas_ndel])

end

/-! ### ROW_REPAIR -/

section
variable {src : Source} {e : RepairEntry} {s : State}

/-- An entry that is listed keeps its place, and another joins the list (log entry 87). -/
theorem rowRepairAdd_adds (h : Rules.running s src (reqRowEntry 1 e)) (hvalid : RepairEntry.valid s.ident.code e = true) :
    ∃ s', exec (.rowRepairAdd src e) s = .next s' ∧ Rules.done s' src 0 0 [] ∧ e ∈ s'.mp.repairs ∧
      (∀ x ∈ s.mp.repairs, x ∈ s'.mp.repairs) ∧ (∀ x ∈ s'.mp.repairs, x ∈ s.mp.repairs ∨ x = e) ∧ s'.hbm = s.hbm := by
  have hvalid' : ¬ (!RepairEntry.valid s.ident.code e) = true := by simp [hvalid]
  by_cases hin : e ∈ s.mp.repairs
  · obtain ⟨s', hstep, hdone, hkeeps⟩ := ends_okWith (i := .rowRepairAdd src e) (t := s) (rsp := []) rfl h
      ((if_neg hvalid').trans (if_pos (by simpa using hin))) (by simp)
    have hrepairs : s'.mp.repairs = s.mp.repairs := congrArg Ledgers.repairs hkeeps
    refine ⟨s', hstep, hdone, ?_, ?_, ?_, congrArg Ledgers.hbm hkeeps⟩ <;> rw [hrepairs]
    · exact hin
    · exact fun _ hx => hx
    · exact fun _ hx => .inl hx
  · obtain ⟨s', hstep, hdone, hkeeps⟩ := ends_okWith (i := .rowRepairAdd src e)
      (t := { s with mp := { s.mp with repairs := s.mp.repairs ++ [e] } }) (rsp := []) rfl h
      ((if_neg hvalid').trans (if_neg (by simpa using hin))) (by simp)
    have hrepairs : s'.mp.repairs = s.mp.repairs ++ [e] := congrArg Ledgers.repairs hkeeps
    refine ⟨s', hstep, hdone, ?_, ?_, ?_, congrArg Ledgers.hbm hkeeps⟩ <;> rw [hrepairs]
    · exact List.mem_append_right _ (List.mem_singleton_self e)
    · exact fun _ hx => List.mem_append_left _ hx
    · exact fun _ hx => (List.mem_append.mp hx).imp_right List.mem_singleton.mp

theorem rowRepairClear_of_unlisted (h : Rules.running s src (reqRowEntry 2 e)) (hout : e ∉ s.mp.repairs) :
    exec (.rowRepairClear src e) s = .next (s.complete src 3 8 []) :=
  ends_badArg (i := .rowRepairClear src e) rfl h (if_pos (by rw [List.any_beq']; simpa using hout))

theorem rowRepairClear_clears (h : Rules.running s src (reqRowEntry 2 e)) (hin : e ∈ s.mp.repairs) :
    exec (.rowRepairClear src e) s = .next
      (({ s with mp := { s.mp with repairs := s.mp.repairs.filter (fun x => x != e) } } : State).complete src 0 0 []) :=
  (mpCmd_of_running h).trans (congrArg (fun x => Host.Outcome.next (State.answer src x)) (if_neg (by simpa using hin)))

@[simp] theorem RepairEntry.bytes_length (e : RepairEntry) : (RepairEntry.bytes e).length = 8 := by
  cases e <;> exact leBytes_length 8 _

theorem flatMap_bytes_length (l : List RepairEntry) : (l.flatMap RepairEntry.bytes).length = 8 * l.length := by
  simp [List.length_flatMap, Nat.mul_comm]

theorem word32At_leBytes_append (x : Nat) (l : List Byte) : word32At (leBytes 4 x ++ l) 0 = x % 2 ^ 32 := by
  rw [word32At, List.drop_zero, List.take_left' (leBytes_length 4 x), leNat_leBytes]
  rfl

/-- ROW_REPAIR list returns the number of entries, and up to 511 of them (Table 15-12). -/
theorem rowRepairList_lists {start : Word} {l : List RepairEntry} (h : Rules.running s src (reqRowList .hbm start))
    (hl : s.mp.repairs.filter (fun e => RepairEntry.on e .hbm) = l) :
    ∃ rsp, exec (.rowRepairList src .hbm start) s = .next (s.complete src 0 0 rsp) ∧ word32At rsp 0 = l.length % 2 ^ 32 ∧
      rsp.length = 4 + 8 * min 511 (l.length - start.toNat) := by
  refine ⟨leBytes 4 l.length ++ ((l.drop start.toNat).take 511).flatMap RepairEntry.bytes, ?_, word32At_leBytes_append _ _, ?_⟩
  · subst hl
    exact mpCmd_of_running h
  · rw [List.length_append, leBytes_length, flatMap_bytes_length, List.length_take, List.length_drop]

end

/-! ### DIAG_RUN -/

/-- The block after a test that has run: what its pass counts for, and the detail of its report drawn (R307). -/
def State.tested (s : State) (test : Nat) (target : Word) (pass : Bool) : State :=
  { s with
    board := { s.board with
      pchPassed := s.board.pchPassed || (pass && decide (test = 3 ∧ s.board.pchRetired.map BitVec.toNat = some target.toNat)) }
    mp := { s.mp with
      passed :=
        if test ≤ 1 then (diagPosition target).elim s.mp.passed (fun q =>
          if pass ∧ (nhas s.mp.retiredCores q ∨ nhas s.mp.retiredNodes q) then nins s.mp.passed q else s.mp.passed)
        else s.mp.passed }
    fresh := s.fresh + 8 }

/-- The 64 bytes of detail of a test's report (Table 15-12). -/
def State.testDetail (s : State) : List Byte :=
  (List.range 8).flatMap (fun i => leBytes 8 (Config.freeWord (s.fresh + i)).toNat)

theorem State.testDetail_length (s : State) : s.testDetail.length = 64 := by
  simp [State.testDetail, List.length_flatMap]

section
variable {src : Source} {test target : Word} {pass : Bool} {s : State}

theorem diagRun_beyond_tests (h : Rules.running s src (reqDiag test target)) (ht : 4 < test.toNat) :
    exec (.diagRun src test target pass) s = .next (s.complete src 3 0 []) :=
  ends_badArg (i := .diagRun src test target pass) rfl h (if_pos ht)

/-- A test of a target in use is denied. -/
theorem diagRun_of_busy (h : Rules.running s src (reqDiag test target)) (ht : test.toNat ≤ 4)
    (htarget : diagTarget test.toNat target = true) (hbusy : s.diagBusy test.toNat target = true) :
    exec (.diagRun src test target pass) s = .next (s.complete src 4 9 []) :=
  ends_denied (i := .diagRun src test target pass) rfl h
    ((if_neg (Nat.not_lt.mpr ht)).trans ((if_neg (by simp [htarget])).trans (if_pos hbusy)))

/-- A test of a target that is free ends as the command says. -/
theorem diagRun_of_free (h : Rules.running s src (reqDiag test target)) (ht : test.toNat ≤ 4)
    (htarget : diagTarget test.toNat target = true) (hfree : s.diagBusy test.toNat target = false) :
    ∃ s', exec (.diagRun src test target pass) s = .next s' ∧ Rules.done s' src 0 0 (leBytes 4 (b2n pass) ++ s.testDetail) ∧
      s'.ledgers = (s.tested test.toNat target pass).ledgers :=
  ends_okWith (i := .diagRun src test target pass) rfl h
    ((if_neg (Nat.not_lt.mpr ht)).trans ((if_neg (by simp [htarget])).trans (if_neg (by simp [hfree]))))
    (by simp [State.testDetail_length])

/-- No core has a job while none is loaded. -/
theorem State.jobOf_of_no_job (h : s.anyJob = false) (id : CoreId) : s.jobOf id = none := by
  simp only [State.anyJob, List.any_eq_false, decide_eq_true_eq, not_not] at h
  rw [State.jobOf, List.find?_eq_none]
  intro j hj
  simp [Job.hasCore, Job.holds, h j hj]

/-- While no job is loaded no target is in use. -/
theorem State.diagBusy_of_no_job (h : s.anyJob = false) (n : Nat) : s.diagBusy n target = false := by
  unfold State.diagBusy
  split
  · split
    · rw [State.jobOf_of_no_job h]
      rfl
    · rfl
  · simp [h]

/-- A pass of the retired pseudo-channel counts for it, and its data stays as it was. -/
theorem diagRun_of_channel {p : BitVec 10} (h : Rules.running s src (reqDiag 3 target)) (hretired : s.board.pchRetired = some p)
    (htarget : target = p.setWidth 32) (hjob : s.anyJob = false) :
    ∃ s', exec (.diagRun src 3 target pass) s = .next s' ∧ s'.board.pchPassed = (s.board.pchPassed || pass) ∧ s'.hbm = s.hbm := by
  have hp : target.toNat = p.toNat := by
    rw [htarget, BitVec.toNat_setWidth]
    exact Nat.mod_eq_of_lt (by have := p.isLt; omega)
  have hexists : diagTarget (3 : Word).toNat target = true := decide_eq_true (by have := p.isLt; omega)
  obtain ⟨s', hstep, -, hkeeps⟩ := diagRun_of_free (pass := pass) h (by decide) hexists (State.diagBusy_of_no_job hjob _)
  refine ⟨s', hstep, (congrArg Ledgers.pchPassed hkeeps).trans ?_, congrArg Ledgers.hbm hkeeps⟩
  simp [State.ledgers, State.tested, hretired, hp]

/-- A pass of a retired position counts for its readmission (R307). -/
theorem diagRun_of_position {q : Nat} (h : Rules.running s src (reqDiag 0 target)) (hq : diagPosition target = some q)
    (hretired : nhas s.mp.retiredCores q = true) (hjob : s.anyJob = false) :
    ∃ (s' : State) (detail : List Byte), exec (.diagRun src 0 target true) s = .next s' ∧
      Rules.done s' src 0 0 (leBytes 4 1 ++ detail) ∧ nhas s'.mp.passed q = true := by
  have hexists : diagTarget (0 : Word).toNat target = true := congrArg Option.isSome hq
  obtain ⟨s', hstep, hdone, hkeeps⟩ := diagRun_of_free (pass := true) h (by decide) hexists (State.diagBusy_of_no_job hjob _)
  refine ⟨s', _, hstep, hdone, (congrArg (nhas · _) (congrArg Ledgers.passed hkeeps)).trans ?_⟩
  simp [State.ledgers, State.tested, hq, hretired, nhas_nins]

theorem diagRun_of_module (h : Rules.running s src (reqDiag 4 target)) (hjob : s.anyJob = false) :
    ∃ (s' : State) (detail : List Byte), exec (.diagRun src 4 target pass) s = .next s' ∧
      Rules.done s' src 0 0 (leBytes 4 (b2n pass) ++ detail) ∧ detail.length = 64 ∧ s'.mp.passed = s.mp.passed := by
  obtain ⟨s', hstep, hdone, hkeeps⟩ := diagRun_of_free (pass := pass) h (by decide) rfl (State.diagBusy_of_no_job hjob _)
  exact ⟨s', _, hstep, hdone, s.testDetail_length, congrArg Ledgers.passed hkeeps⟩

end

/-- Settles O43: each clause is the lemma about its command above; what a command leaves in the ledgers, its result leaves there. -/
theorem ledgersKeepWhatIsRetired : Obligations.LedgersKeepWhatIsRetired := by
  unfold Obligations.LedgersKeepWhatIsRetired
  refine ⟨fun src d r c s => ⟨coreRetire_retires_core, fun _ => coreRetire_beyond_rows,
      fun h hr => ⟨coreRetire_retires_node h hr, coreRetire_refuses_node h hr⟩⟩,
    fun src d r c s h hr => ⟨coreReadmit_of_unretired h,
      fun hin => ⟨coreReadmit_of_untested h hr hin, coreReadmit_readmits h hr hin⟩⟩,
    fun src e s => ⟨rowRepairAdd_adds, rowRepairClear_of_unlisted, rowRepairClear_clears⟩,
    fun src start s h l => rowRepairList_lists h,
    fun src target pass s => ⟨fun _ => diagRun_beyond_tests, fun h hjob => diagRun_of_busy h (by decide) rfl hjob,
      diagRun_of_module, fun _ => diagRun_of_channel, fun _ => diagRun_of_position⟩⟩

end Sys2Proof.Machine
end

section
/-! PROOFS. Acquire, release, fences, engine tokens and the range tracker: what issues, what waits, and how each wait ends (R236, R237,
R240, R241, R244, R247). -/

namespace Sys2Proof.Machine

/-! ### Updates that leave the life of a core alone -/

@[simp] theorem Core.life_trackDest (c : Core) (t : Fin 4) (o : Operand) : (c.trackDest t o).life = c.life := by
  unfold Core.trackDest
  split
  · exact c.life_track t _ _ _ _
  · rfl

theorem life_drainDe (l : List DeEntry) (c : Core) : (drainDe l c).life = c.life := by
  induction l generalizing c with
  | nil => rfl
  | cons x l ih =>
    cases x with
    | token id => exact ih c
    | denq q r => exact (ih _).trans (c.life_mapDq q _)
    | _ => rfl

@[simp] theorem Core.life_trim (c : Core) : c.trim.life = c.life :=
  life_drainDe _ _

@[simp] theorem Core.life_putToken (eng : BitVec 2) (id : Nat) (c : Core) : (c.putToken eng id).life = c.life := by
  unfold Core.putToken
  split <;> rfl

@[simp] theorem Core.life_putWait (eng : BitVec 2) (id : Nat) (t : Fin 4) (c : Core) : (c.putWait eng id t).life = c.life := by
  unfold Core.putWait
  split <;> rfl

@[simp] theorem Core.life_release (t : Fin 4) (hi : Bool) (w : SeWord) (v : Nat) (found : List SpmFinding) (c : Core) :
    (c.release t hi w v found).life = c.life := by
  simp [Core.release]

/-- A change of the tokens of a thread, and of what it waits for. -/
@[simp] theorem Core.life_tokens (c : Core) (t : Fin 4) (k : Fin 8) (f : Thread → List Nat) (st : Thread → Stall) :
    (c.mapTh t (fun h => { h with tokens := h.tokens.set k (f h), stall := st h })).life = c.life :=
  Core.life_mapTh c t _ (fun _ => ⟨rfl, rfl⟩)

@[simp] theorem Core.life_marked (c : Core) (t : Fin 4) (k : Fin 8) (eng : BitVec 2) : (Rules.marked c t k eng).life = c.life :=
  Core.life_mapTh _ t _ (fun _ => ⟨rfl, rfl⟩)

/-! ### The issue of an acquire, a release and a fence -/

/-- LD.ACQ reads at issue (R247). -/
theorem ldAcq_reads {a : Site} {hi : Bool} {w : SeWord} {s : State} (h : s.issues a (ldAcqForm hi w) w = true) :
    exec (.ldAcq a hi w) s = .next (s.after a.core
      (((s.issuedCore a).writeDest a.thread (s.ops a (ldAcqForm hi w) w).d.dest (s.ops a (ldAcqForm hi w) w).d.ty.bytes
        (s.val a (s.ops a (ldAcqForm hi w) w).a)).finish a.thread w.len (s.ops a (ldAcqForm hi w) w))) := by
  show seCmd a (ldAcqForm hi w) w noExtra noWaits _ s = _
  rw [seCmd_eq h _ _ _ rfl rfl (by simp)]
  simp only [Operand.value_issued]

/-- Where no request of the near port is marked at a bank, the write of a release is no grant of an aged one (R199). -/
theorem Core.release_of_unmarked {c : Core} (h : c.spm.marked .near = false) (t : Fin 4) (hi : Bool) (w : SeWord) (v : Nat)
    (found : List SpmFinding) :
    c.release t hi w v found =
      ((c.writeDest t (operands (stRelForm hi w) w (c.th t).r).d.dest (operands (stRelForm hi w) w (c.th t).r).d.ty.bytes v |>.unverified
        (operands (stRelForm hi w) w (c.th t).r).writeRanges found).complete t (stRelForm hi w) w) := by
  rw [Core.release, Core.granted_of_unmarked]
  rw [Spm.marked, Core.scrub_unverified, Core.scrub_writeDest]
  exact h

/-- An instruction finds its operands the same once its issue has been counted. -/
theorem State.operands_issued (s : State) (a : Site) (f : Form) (w : SeWord) :
    operands f w ((s.issuedCore a).th a.thread).r = s.ops a f w := by
  rw [(State.sameData_issued s a).r]
  rfl

theorem State.issued_unmarked {s : State} {a : Site} (h : s.calm a.core = true) : (s.issuedCore a).spm.marked .near = false := by
  rw [(State.sameData_issued s a).spm]
  exact State.unmarked_of_calm h

theorem scopeOf_eq (hi : Bool) (mod : BitVec 2) : scopeOf hi mod = 4 * b2n hi + mod.toNat := by
  rw [scopeOf, Nat.mul_comm]

/-- ST.REL writes at issue when it has nothing to wait for, and else waits as a fence of its scope does, with the value that its source
has at issue (R247, log entry 114). -/
theorem stRel_issues {a : Site} {hi : Bool} {w : SeWord} {s : State} (h : s.issues a (stRelForm hi w) w = true) :
    exec (.stRel a hi w) s = .next (s.after a.core
      (if Rules.free s a (4 * b2n hi + w.mod.toNat) then
        ((s.issuedCore a).writeDest a.thread (s.ops a (stRelForm hi w) w).d.dest (s.ops a (stRelForm hi w) w).d.ty.bytes
          (s.val a (s.ops a (stRelForm hi w) w).a)).complete a.thread (stRelForm hi w) w
      else ((s.issuedCore a).trackDest a.thread (s.ops a (stRelForm hi w) w).d).mapTh a.thread (fun h =>
        { h with stall := .release (BitVec.ofNat 3 (4 * b2n hi + w.mod.toNat))
                          (BitVec.ofNat 64 (s.val a (s.ops a (stRelForm hi w) w).a)) w }))) := by
  have hwrites : ∀ v, (s.issuedCore a).release a.thread hi w v a.found =
      ((s.issuedCore a).writeDest a.thread (s.ops a (stRelForm hi w) w).d.dest (s.ops a (stRelForm hi w) w).d.ty.bytes v).complete
        a.thread (stRelForm hi w) w := fun v => by
    rw [Core.release_of_unmarked (State.issued_unmarked (State.calm_of_issues h)), State.found_of_issues h, Core.unverified_nil,
      State.operands_issued]
  show seCmd a (stRelForm hi w) w noExtra noWaits _ s = _
  rw [seCmd_eq h _ _ _ rfl rfl (by split <;> simp)]
  simp only [Operand.value_issued, hwrites, scopeOf_eq]
  rfl

/-- FENCE completes when nothing in its scope is outstanding, and else waits (R244). -/
theorem fence_issues {a : Site} {w : SeWord} {s : State} (h : s.issues a (fenceForm w) w = true) :
    exec (.fence a w) s = .next (s.after a.core
      (if Rules.free s a w.sz.toNat then (s.issuedCore a).advance a.thread w.len
       else (s.issuedCore a).mapTh a.thread (fun h => { h with stall := .fence w.sz w }))) := by
  show seCmd a (fenceForm w) w noExtra noWaits _ s = _
  rw [seCmd_eq h _ _ _ rfl rfl (by split <;> simp)]
  rfl

/-! ### The end of their waits -/

/-- The end of a wait of a thread whose core is not frozen. -/
theorem fenceComplete_ends {a : Site} {s : State} {d : Core} (hcalm : s.calm a.core = true) (hfrozen : (s.at a.core).frozen = false)
    (hd : (s.at a.core).endFence (s.env a.core) a.thread a.found = d) (hlife : d.life = (s.at a.core).life) :
    exec (.fenceComplete a) s = .next (s.after a.core d) := by
  have hrun : ¬ (s.at a.core).frozen = true := Bool.eq_false_iff.mp hfrozen
  exact onCore_eq_of_effect hcalm ((if_neg hrun).trans hd) (Core.still_of_life hlife (State.still_of_calm hcalm))

section
variable {a : Site} {scope : BitVec 3} {w : SeWord} {s : State} (hcalm : s.calm a.core = true) (hfrozen : (s.at a.core).frozen = false)
include hcalm hfrozen

theorem fenceComplete_of_fence (hstall : ((s.at a.core).th a.thread).stall = .fence scope w)
    (hfree : Rules.freeNow s a scope.toNat = true) :
    exec (.fenceComplete a) s = .next (s.after a.core ((s.at a.core).complete a.thread (fenceForm w) w)) := by
  refine fenceComplete_ends hcalm hfrozen ?_ (Core.life_complete _ _ _ _)
  rw [Core.endFence, hstall]
  exact if_pos hfree

/-- The wait of an ST.REL ends with its write, of the value that was read at issue (R247, log entry 114). -/
theorem fenceComplete_of_release {v : DWord} (hstall : ((s.at a.core).th a.thread).stall = .release scope v w)
    (hfree : Rules.freeNow s a scope.toNat = true) :
    exec (.fenceComplete a) s = .next (s.after a.core
      (((s.at a.core).writeDest a.thread (s.ops a (stRelForm (scope.getLsbD 2) w) w).d.dest
        (s.ops a (stRelForm (scope.getLsbD 2) w) w).d.ty.bytes v.toNat |>.unverified
          (s.ops a (stRelForm (scope.getLsbD 2) w) w).writeRanges a.found).complete a.thread (stRelForm (scope.getLsbD 2) w) w)) := by
  refine fenceComplete_ends hcalm hfrozen ?_ (by simp)
  rw [Core.endFence, hstall]
  exact (if_pos hfree).trans (Core.release_of_unmarked (State.unmarked_of_calm hcalm) _ _ _ _ _)

end

/-! ### Tokens -/

theorem State.val_token (s : State) (a : Site) (w : SeWord) : s.val a (s.ops a (tokForm w) w).a = Rules.tok s a w := rfl

section
variable {a : Site} {w : SeWord} {s : State} (h : s.issues a (tokForm w) w = true) (hlegal : tokBad (Rules.tok s a w) = false)
  (hroom : (s.at a.core).room (tokEng (Rules.tok s a w)) = true)
include h hlegal hroom

/-- ETOK puts its marker behind the work of its engine (R240, R241). -/
theorem etok_marks (hfew : ((s.at a.core).unpaired a.thread (tokNum (Rules.tok s a w))).length < 7) :
    exec (.etok a w) s = .next (s.after a.core
      (((Rules.marked (s.issuedCore a) a.thread (tokNum (Rules.tok s a w)) (tokEng (Rules.tok s a w))).putToken
        (tokEng (Rules.tok s a w)) (s.issuedCore a).seq).trim.finish a.thread w.len (s.ops a (tokForm w) w))) := by
  have hmay : ¬ (tokBad (Rules.tok s a w) ||
      decide (7 ≤ ((s.at a.core).unpaired a.thread (tokNum (Rules.tok s a w))).length)) = true := by
    rw [hlegal, decide_eq_false (Nat.not_le.mpr hfew)]
    exact Bool.false_ne_true
  show seCmd a (tokForm w) w _ _ _ s = _
  rw [seCmd_eq h]
  · simp only [Operand.value_issued, State.val_token]
    rfl
  · exact if_neg hmay
  · simp [Operand.value_at, State.val_token, hroom]
  · simp only [Core.life_finish, Core.life_trim, Core.life_putToken]
    exact Core.life_marked _ _ _ _

/-- EWAIT takes the oldest unpaired marker of its token; that of the SE waits for it, and any other puts its own marker behind the work
of its engine (R241). -/
theorem ewait_pairs {id : Nat} {rest : List Nat}
    (holdest : (s.at a.core).unpaired a.thread (tokNum (Rules.tok s a w)) = id :: rest) :
    exec (.ewait a w) s = .next (s.after a.core
      (if tokEng (Rules.tok s a w) = 0 ∧ !(s.at a.core).passed id then
        (s.issuedCore a).mapTh a.thread (fun h =>
          { h with tokens := h.tokens.set (tokNum (Rules.tok s a w)) rest, stall := .ewait id w })
      else
        (((s.issuedCore a).mapTh a.thread (fun h => { h with tokens := h.tokens.set (tokNum (Rules.tok s a w)) rest })).putWait
          (tokEng (Rules.tok s a w)) id a.thread).finish a.thread w.len (s.ops a (tokForm w) w))) := by
  have hissued : (s.issuedCore a).unpaired a.thread (tokNum (Rules.tok s a w)) = id :: rest := by
    rw [Core.unpaired, (State.sameData_issued s a).tokens]
    exact holdest
  have hpassed : ∀ c : Core, c.marks = (s.issuedCore a).marks → c.passed id = (s.at a.core).passed id := fun c hc => by
    rw [Core.passed, hc, (State.sameData_issued s a).marks]
    rfl
  show seCmd a (tokForm w) w _ _ _ s = _
  rw [seCmd_eq h]
  · simp only [Operand.value_issued, State.val_token, hissued, hpassed _ (Core.mapTh_marks _ _ _), Core.mapTh_mapTh]
    rfl
  · simp [Operand.value_at, State.val_token, hlegal, holdest]
  · simp [Operand.value_at, State.val_token, hroom]
  · simp only [Operand.value_issued, State.val_token, hissued]
    split <;> simp

end

/-- The oldest marker of a thread and an engine passes when the work that it stands behind is performed (R240). -/
theorem tokenMarkerPass_passes {core : CoreId} {thread : Fin 4} {eng : BitVec 2} {m : TokenMark} {s : State}
    (hcalm : s.calm core = true)
    (holdest : (s.at core).marks.find? (fun m => decide (m.thread = thread ∧ m.eng = eng)) = some m)
    (hdone : (s.at core).markDone (s.env core) m = true) :
    exec (.tokenMarkerPass core thread eng) s = .next (s.after core
      { s.at core with marks := (s.at core).marks.filter (fun x => x.id != m.id) }) := by
  refine onCore_eq_of_effect hcalm ?_ (Core.still_of_life rfl (State.still_of_calm hcalm))
  simp only [holdest, if_pos hdone]

/-- An EWAIT of the SE completes once its pair has passed (R241). -/
theorem waitMarkerRelease_completes {core : CoreId} {thread : Fin 4} {id : Nat} {w : SeWord} {s : State} (hcalm : s.calm core = true)
    (hfrozen : (s.at core).frozen = false) (hstall : ((s.at core).th thread).stall = .ewait id w)
    (hpassed : (s.at core).passed id = true) :
    exec (.waitMarkerRelease core thread 0) s = .next (s.after core ((s.at core).complete thread (tokForm w) w)) := by
  have hgoes : ((s.at core).passed id && !(s.at core).frozen) = true := by rw [hpassed, hfrozen]; rfl
  refine onCore_eq_of_effect hcalm ?_ (Core.still_of_life (Core.life_complete _ _ _ _) (State.still_of_calm hcalm))
  simp only [hstall, if_pos hgoes]
  rfl

/-! ### The tracker -/

/-- An entry of the tracker whose accesses are performed is freed (R236, R237). -/
theorem trackerEntryFree_frees {core : CoreId} {idx : Nat} {k : Track} {s : State} (hcalm : s.calm core = true)
    (hentry : (s.at core).tracker[idx]? = some k) (hdone : (s.at core).trackDone (s.env core) k = true) :
    exec (.trackerEntryFree core idx) s =
      .next (s.after core { s.at core with tracker := (s.at core).tracker.eraseIdx idx }) := by
  refine onCore_eq_of_effect hcalm ?_ (Core.still_of_life rfl (State.still_of_calm hcalm))
  simp only [hentry, if_pos hdone]

/-- Settles O8: each clause is the lemma above about its issue, its wait's end, its marker or its entry of the tracker. -/
theorem fencesAndTokensHoldUntilPerformed : Obligations.FencesAndTokensHoldUntilPerformed := by
  unfold Obligations.FencesAndTokensHoldUntilPerformed
  exact ⟨fun _ _ _ _ => ldAcq_reads, fun _ _ _ _ => stRel_issues, fun _ _ _ => fence_issues,
    fun _ _ _ _ => fenceComplete_of_fence, fun _ _ _ h hlegal hfew hroom => etok_marks h hlegal hroom hfew,
    fun _ _ _ _ _ => tokenMarkerPass_passes, fun _ _ _ _ _ h hlegal holdest hroom => ewait_pairs h hlegal hroom holdest,
    fun _ _ _ _ _ => waitMarkerRelease_completes, fun _ _ _ _ => trackerEntryFree_frees,
    fun _ _ _ _ _ hcalm hfrozen => fenceComplete_of_release hcalm hfrozen⟩

end Sys2Proof.Machine
end

section
/-! PROOFS. External memory and the management processors survive their failures (R277, R278, R281, R282, R440, R442 to R446). -/

namespace Sys2Proof.Machine

/-! ### What a record leaves, and what it counts -/

/-- A record of any severity leaves a quantity alone that is none of the paths' it leaves by, none of the cores', and none of what the
processor keeps of fatal records and safety actions (R473, R518). -/
theorem Unrecorded.log_of_cores {γ : Type} {g : State → γ} (hg : Unrecorded g) (hcores : ∀ s c, g { s with cores := c } = g s)
    (hmp : ∀ s f l, g { s with mp := { s.mp with fatal := f, safety := l } } = g s) (s : State) (x : Event) :
    g (s.log x) = g s := by
  have hfault : ∀ (s : State) (j : Fin 8), g (s.faultJob j) = g s := fun s j => by
    have hhold : g (s.holdCores j) = g s := foldl_keeps g
      (fun (s : State) (x : CoreId × Bool × Word) => s.setCore x.1 ((s.core x.1).halted (s.env x.1))) (fun s _ => hcores s _) _ s
    have hfaults : g ((((s.holdCores j).mapJob j (fun b => { b with st := .faulted })).safetyAction (.job (j.val + 1))).logPut
        (noticeEvent 0x0803 (j.val + 1) [4])) = g s :=
      (hg.logPut _ _).trans ((hmp _ _ _).trans ((hg.job _ _ _).trans hhold))
    unfold State.faultJob
    split
    · exact hfaults
    · exact hfaults
    · exact hfaults
    · rfl
  refine hg.log (fun t => ?_) s
  have hall : g (({ t with mp := { t.mp with fatal := true } } : State).faultAll) = g t :=
    (foldl_keeps g _ hfault _ _).trans (hmp t true t.mp.safety)
  exact ite_keeps rfl (ite_keeps (ite_keeps rfl (hfault t _)) (ite_keeps hall rfl))

@[simp] theorem State.ringPut_errs (s : State) (r : Record) : (s.ringPut r).errs = s.errs :=
  ite_keeps (g := State.errs) rfl (ite_keeps (g := State.errs) rfl (ite_keeps (g := State.errs) rfl rfl))

@[simp] theorem State.noticePut_errs (s : State) (r : Record) : (s.noticePut r).errs = s.errs := by
  refine ite_keeps (g := State.errs) rfl (foldl_keeps State.errs _ (fun s k => ?_) _ s)
  cases s.active.manager k <;> rfl

@[simp] theorem State.bmcPut_errs (s : State) (r : Record) : (s.bmcPut r).errs = s.errs :=
  ite_keeps (g := State.errs) rfl (ite_keeps (g := State.errs) rfl rfl)

/-- An entry of the log is not counted by its severity (R516). -/
@[simp] theorem State.logPut_counts (s : State) (x : Event) : (s.logPut x).errs.counts = s.errs.counts := by
  simp [State.logPut]

/-- A record without a core makes no core a candidate (R517). -/
theorem State.coreCandidate_of_no_core (s : State) {x : Event} (hcore : x.core = none) : s.coreCandidate x = s := by
  rw [State.coreCandidate, hcore]

/-- The counter of a severity (R476). -/
def severityCount (sev : BitVec 2) : Fin 4 := Fin.ofNat 4 sev.toNat

theorem State.tally_counts_same (s : State) (sev : BitVec 2) : Rules.counted s (s.tally sev) (severityCount sev) :=
  Vector.getElem_set_self _

theorem State.tally_counts_other (s : State) {sev : BitVec 2} {k : Fin 4} (h : severityCount sev ≠ k) :
    (s.tally sev).errs.counts[k] = s.errs.counts[k] :=
  Vector.getElem_set_ne (Fin.isLt _) k.isLt (Fin.val_ne_of_ne h)

/-- A record of the module itself, of severity corrected or deferred, counts once in its severity (R476, R516). -/
theorem State.log_counted {x : Event} (hrecord : x.notice = false) (hcore : x.core = none) (hlow : x.sev.toNat < 2) (s : State) :
    Rules.counted s (s.log x) (severityCount x.sev) := by
  have h2 : x.sev ≠ 2 := fun h => by rw [h] at hlow; exact absurd hlow (by decide)
  have h3 : x.sev ≠ 3 := fun h => by rw [h] at hlow; exact absurd hlow (by decide)
  have hfatal : ¬ 2 ≤ x.sev := fun h => Nat.not_le.mpr hlow (BitVec.le_def.mp h)
  have hacts : ∀ t : State, t.severity x = t := fun t => by simp only [State.severity, if_neg h2, if_neg h3, ite_self]
  have hnote : ∀ (t : State) (i : Word), t.noteFatal (if 2 ≤ x.sev then x.job else 0) i = t := fun t i => by
    rw [if_neg hfatal]
    rfl
  unfold State.log
  rw [if_neg (Bool.eq_false_iff.mp hrecord)]
  extract_lets s₁ merged w errs₁ s₂ errs₂ s₃ y s₄
  have h₁ : s₁.errs.counts[severityCount x.sev] = s.errs.counts[severityCount x.sev] + 1 := s.tally_counts_same x.sev
  have h₃ : s₃.errs.counts = s₁.errs.counts := by
    refine ite_keeps (g := fun t : State => t.errs.counts) (a := s₂) rfl
      (ite_keeps (g := fun t : State => t.errs.counts) (a := s₂) ?_ rfl)
    rw [hnote, State.logPut_counts]
  have h₄ : s₄.errs.counts[severityCount x.sev] = s₃.errs.counts[severityCount x.sev] := by
    by_cases h0 : x.sev = 0
    · refine ite_keeps (g := fun t : State => t.errs.counts[severityCount x.sev]) (a := s₃) ?_ rfl
      rw [State.coreCandidate_of_no_core _ (x := y) hcore, State.logPut_counts]
      exact s₃.tally_counts_other (by rw [h0]; decide)
    · have hrate : w.2.2 = false := by
        show (if x.sev = 0 then _ else _ : _ × _ × _).2.2 = false
        rw [if_neg h0]
      show (if w.2.2 = true then _ else s₃ : State).errs.counts[severityCount x.sev] = _
      rw [hrate]
      rfl
  rw [hacts, State.coreCandidate_of_no_core _ hcore, ite_self]
  exact h₄.trans ((congrArg (·[severityCount x.sev]) h₃).trans h₁)

/-! ### What the failures of external memory and of a processor leave -/

/-- What the failures of a pseudo-channel and of a processor change, besides their records: the time, external memory, its
pseudo-channels, and which processor is active, held or lost. -/
structure Failover where
  now : Nat
  hbm : Hbm
  pchFailed : NatSet
  pchCand : Option (BitVec 10)
  pchRetired : Option (BitVec 10)
  activeB : Bool
  heldA : Bool
  heldB : Bool
  standbyLost : Bool
  takeovers : Word
  wordAt : Nat

def State.failover (s : State) : Failover :=
  { now := s.now, hbm := s.hbm, pchFailed := s.board.pchFailed, pchCand := s.board.pchCand, pchRetired := s.board.pchRetired,
    activeB := s.mp.activeB, heldA := s.mp.heldA, heldB := s.mp.heldB, standbyLost := s.mp.standbyLost,
    takeovers := s.mp.takeovers, wordAt := s.mp.wordAt }

theorem State.failover_unrecorded : Unrecorded State.failover where
  errs _ _ := rfl
  host _ _ := rfl
  switch _ _ := rfl
  events _ _ _ _ := rfl
  box s src b := by cases src <;> rfl
  job _ _ _ := rfl

/-- A record leaves them alone, whatever its severity (R518). -/
@[simp] theorem State.log_failover (s : State) (x : Event) : (s.log x).failover = s.failover :=
  State.failover_unrecorded.log_of_cores (fun _ _ => rfl) (fun _ _ _ => rfl) s x

@[simp] theorem State.logJobs_failover (s : State) (x : Event) : (s.logJobs x).failover = s.failover :=
  foldl_keeps State.failover _ (fun s _ => ite_keeps rfl (s.log_failover _)) _ s

/-! ### External memory -/

@[simp] theorem State.log_hbm (s : State) (x : Event) : (s.log x).hbm = s.hbm := congrArg Failover.hbm (s.log_failover x)

/-- A candidate takes no byte and no poison of external memory (R281, R282). -/
theorem State.channelCandidate_hbm (s : State) (p : BitVec 10) : (s.channelCandidate p).hbm = s.hbm :=
  ite_keeps rfl (ite_keeps (State.log_hbm _ _) (ite_keeps (State.log_hbm _ _) rfl))

/-- The first candidate waits for the time at which it may be retired (R281). -/
theorem State.channelCandidate_first {s : State} (p : BitVec 10) (hcand : s.board.pchCand = none) (hretired : s.board.pchRetired = none) :
    (s.channelCandidate p).failover = { s.failover with pchCand := some p } := by
  have hnew : ¬ (s.board.pchCand = some p ∨ s.board.pchRetired = some p) := by simp [hcand, hretired]
  have hfirst : ¬ (s.board.pchCand.isSome = true ∨ s.board.pchRetired.isSome = true) := by simp [hcand, hretired]
  simp only [State.channelCandidate, if_neg hnew, if_neg hfirst]
  exact ite_keeps (State.log_failover _ _) rfl

/-- A row candidate takes no byte and no poison of external memory (R280). -/
theorem State.rowCandidate_data (s : State) (a : Nat) :
    (s.rowCandidate a).hbm.mem = s.hbm.mem ∧ (s.rowCandidate a).hbm.poison = s.hbm.poison := by
  have hlog : (s.log (s.hbmEvent 1 0x0203 a)).hbm = s.hbm := s.log_hbm _
  unfold State.rowCandidate
  dsimp only
  generalize s.log (s.hbmEvent 1 0x0203 a) = t at hlog ⊢
  have hmem := congrArg Hbm.mem hlog
  have hpoison := congrArg Hbm.poison hlog
  by_cases hpending : (s.mp.repairs.any (fun x => x == s.rowOf a)) = true ∧ ¬ (s.hbm.repaired.any (fun x => x == s.rowOf a)) = true
  · rw [if_pos hpending]
    exact ⟨rfl, rfl⟩
  · rw [if_neg hpending]
    by_cases hspare : Config.noSpareRow t.fresh = true
    · rw [if_pos hspare, State.channelCandidate_hbm]
      exact ⟨hmem, hpoison⟩
    · rw [if_neg hspare]
      exact ⟨hmem, hpoison⟩

section
variable {stack : Fin 16} {a : BitVec 40} {s : State} (haligned : a.toNat % 256 = 0) (hstack : a.toNat / 256 % 16 = stack.val)
  (hretired : s.board.pchRetired = none) (hlimit : a.toNat < s.hbmLimit)
include haligned hstack hretired hlimit

/-- The patrol scrub meets what a line of its stack holds (R278). -/
theorem hbmPatrolScrub_meets (finding : HbmFinding) :
    exec (.hbmPatrolScrub stack a finding) s = .next (s.hbmMeet a.toNat 256 finding) := by
  have hpch : (s.pchAt a.toNat).1 % 16 = stack.val := by
    rw [State.pchAt, hretired, ← hstack]
    exact Nat.mod_mod_of_dvd _ (by decide)
  refine if_neg ?_
  rintro (h | h | h)
  · exact h haligned
  · exact h hpch
  · exact Nat.not_le.mpr hlimit h

/-- A corrected word is written back as it was, and posted; the first correction of a bit makes no candidate (R277, R278, R280). -/
theorem patrolScrub_writes_back {w : Fin 32} {bit : BitVec 7} (hbit : bit.toNat < 72)
    (hfirst : tget s.hbm.corr [] (128 * ((a.toNat + 8 * w.val) / 8) + bit.toNat) = []) :
    ∃ s', exec (.hbmPatrolScrub stack a (.corrected w bit)) s = .next s' ∧ s'.hbm.mem = s.hbm.mem ∧ s'.hbm.poison = s.hbm.poison ∧
      Rules.counted s s' 0 := by
  have hword : 8 * (a.toNat / 8 + w.val) / 8 = (a.toNat + 8 * w.val) / 8 := by omega
  have hmeets : s.hbmMeet a.toNat 256 (.corrected w bit) = s.hbmCorrected (8 * (a.toNat / 8 + w.val)) bit.toNat :=
    if_neg (by omega)
  rw [hbmPatrolScrub_meets haligned hstack hretired hlimit, hmeets]
  refine ⟨_, rfl, ?_⟩
  have hcounted : Rules.counted s (s.log (s.hbmEvent 0 0x0201 (8 * (a.toNat / 8 + w.val)))) 0 :=
    State.log_counted (x := s.hbmEvent 0 0x0201 _) rfl rfl Nat.zero_lt_two s
  simp only [State.hbmCorrected, State.log_hbm, hword, hfirst]
  rw [if_neg]
  · exact ⟨rfl, rfl, hcounted⟩
  · exact Nat.not_le.mpr (Nat.lt_of_le_of_lt (List.length_filter_le _ _) (by simp))

/-- A word that no code can correct becomes poison, and its bytes stay (R277, R278). -/
theorem patrolScrub_makes_poison (w : Fin 32) :
    ∃ s', exec (.hbmPatrolScrub stack a (.uncorrectable w)) s = .next s' ∧ s'.hbm.mem = s.hbm.mem ∧
      s'.hbm.poison = nins s.hbm.poison ((a.toNat + 8 * w.val) / 8) := by
  have hword : 8 * (a.toNat / 8 + w.val) / 8 = (a.toNat + 8 * w.val) / 8 := by omega
  have hmeets : s.hbmMeet a.toNat 256 (.uncorrectable w) = s.hbmUncorrectable (8 * (a.toNat / 8 + w.val)) := if_neg (by omega)
  rw [hbmPatrolScrub_meets haligned hstack hretired hlimit, hmeets]
  refine ⟨_, rfl, ?_⟩
  simp only [State.hbmUncorrectable, State.rowCandidate_data, State.log_hbm, hword, and_self]

end

/-- A pseudo-channel that fails during a job returns poison from then on, and is a candidate (R282). -/
theorem pchFail_makes_candidate {pch : BitVec 10} {s : State} (hjob : s.anyJob = true) (hretired : s.board.pchRetired = none)
    (hcand : s.board.pchCand = none) (hnew : nhas s.board.pchFailed pch.toNat = false) :
    ∃ s', exec (.pchFail pch) s = .next s' ∧ nhas s'.board.pchFailed pch.toNat = true ∧ s'.board.pchCand = some pch := by
  have hoccurs : ¬ (!s.anyJob ∨ s.board.pchRetired = some pch ∨ nhas s.board.pchFailed pch.toNat) := by
    simp [hjob, hretired, hnew]
  refine ⟨_, if_neg hoccurs, ?_⟩
  have hlogged : ∀ f : State, f.failover = { s.failover with pchFailed := nins s.board.pchFailed pch.toNat } →
      nhas (f.channelCandidate pch).board.pchFailed pch.toNat = true ∧ (f.channelCandidate pch).board.pchCand = some pch :=
    fun f hf => by
      have hmarked := State.channelCandidate_first pch ((congrArg Failover.pchCand hf).trans hcand)
        ((congrArg Failover.pchRetired hf).trans hretired)
      rw [hf] at hmarked
      have hfailed : (f.channelCandidate pch).board.pchFailed = nins s.board.pchFailed pch.toNat := congrArg Failover.pchFailed hmarked
      refine ⟨?_, congrArg Failover.pchCand hmarked⟩
      rw [hfailed, nhas_nins, beq_self_eq_true, Bool.true_or]
  exact hlogged _ (State.logJobs_failover _ _)

/-! ### The processors -/

theorem mpHeartbeat_hears (toA : Bool) {s : State} (hup : Rules.bothUp s) :
    exec (.mpHeartbeat toA) s = .next { Rules.upTo s ((if toA then s.mp.heardA else s.mp.heardB) + 100000) with
      mp := if toA then { s.mp with heardA := max s.now (s.mp.heardA + 100000) }
            else { s.mp with heardB := max s.now (s.mp.heardB + 100000) } } := by
  obtain ⟨hheld, hA, hB⟩ := hup
  refine (if_neg (by simp [hheld, hA, hB])).trans ?_
  cases toA with
  | true => simp only [State.wait, Rules.upTo, if_true]
  | false => simp only [State.wait, Rules.upTo, Bool.false_eq_true, if_false]

/-- When a processor declares the other lost, which it heard at `heard` (R442, log entry 107). -/
theorem State.wait_lossAt (s : State) {byB : Bool} {heard : Nat} (h : (if byB then s.mp.heardB else s.mp.heardA) = heard)
    (cause : MpLoss) : (s.wait (s.lossAt byB cause)).now = max s.now (match cause with
      | .heartbeats => heard + 1000000 | .selfCheck => s.now | .journal => s.now + 100000) := by
  subst h
  cases cause with
  | heartbeats => exact congrArg (fun n => max s.now ((if byB then s.mp.heardB else s.mp.heardA) + n)) (by norm_num : 10 ^ 6 = 1000000)
  | selfCheck => rfl
  | journal => rfl

/-- A record of the processor itself, of severity deferred, is counted, and nothing of the failover changes with it. -/
theorem State.log_mpEvent (s : State) (cause : BitVec 16) :
    (s.log (mpEvent 1 cause [])).failover = s.failover ∧ Rules.counted s (s.log (mpEvent 1 cause [])) 1 :=
  ⟨s.log_failover _, State.log_counted (x := mpEvent 1 cause []) rfl rfl Nat.one_lt_two s⟩

/-- After a takeover MP-B is active, MP-A is held, the heartbeat word is fresh (R443). -/
theorem State.wait_takeover_failover (s : State) (t : Nat) : (s.wait t).takeover.failover =
    { s.failover with now := max s.now t, activeB := true, heldA := true, standbyLost := true, takeovers := s.mp.takeovers + 1,
                      wordAt := max s.now t } := by
  rw [State.takeover, State.log_failover, State.log_failover]
  rfl

/-- A takeover counts one record; its notice is none (R443). -/
theorem State.wait_takeover_counted (s : State) (t : Nat) : Rules.counted s (s.wait t).takeover 1 := by
  rw [Rules.counted, State.takeover, State.log_notice, State.logPut_counts, (State.log_mpEvent _ _).2]
  rfl

section
variable (cause : MpLoss) {s : State} (hup : Rules.bothUp s)
include hup

/-- While neither is held, a processor may declare the other lost (R442, R445). -/
theorem mpLost_of_bothUp (byB : Bool) :
    exec (.mpLost byB cause) s = .next (if byB then (s.wait (s.lossAt byB cause)).takeover
      else ({ s.wait (s.lossAt byB cause) with
        mp := { (s.wait (s.lossAt byB cause)).mp with heldB := true, standbyLost := true } } : State).log (mpEvent 1 0x0702 [])) := by
  obtain ⟨hheld, hA, hB⟩ := hup
  show execMpLost byB s cause = _
  rw [execMpLost, if_neg (by simp [hheld, hA, hB])]
  cases byB with
  | false => rw [if_neg Bool.false_ne_true, if_neg Bool.false_ne_true]
  | true => rw [if_pos rfl, if_pos rfl]

/-- MP-B takes over from MP-A (R443, R445). -/
theorem mpLost_takes_over :
    ∃ s', exec (.mpLost true cause) s = .next s' ∧ s'.now = max s.now (match cause with
        | .heartbeats => s.mp.heardB + 1000000 | .selfCheck => s.now | .journal => s.now + 100000) ∧ s'.mp.activeB = true ∧
      s'.mp.heldA = true ∧ s'.mp.takeovers = s.mp.takeovers + 1 ∧ s'.mp.wordAt = s'.now ∧ Rules.counted s s' 1 := by
  have hwhen := s.wait_lossAt (byB := true) (if_pos rfl) cause
  have htaken := s.wait_takeover_failover (s.lossAt true cause)
  have hcounted := s.wait_takeover_counted (s.lossAt true cause)
  refine ⟨_, mpLost_of_bothUp cause hup true, ?_⟩
  rw [if_pos rfl]
  generalize (s.wait (s.lossAt true cause)).takeover = s' at htaken hcounted ⊢
  have hnow := congrArg Failover.now htaken
  exact ⟨hnow.trans hwhen, congrArg Failover.activeB htaken, congrArg Failover.heldA htaken, congrArg Failover.takeovers htaken,
    (congrArg Failover.wordAt htaken).trans hnow.symm, hcounted⟩

/-- MP-A holds MP-B, and stays active (R442, R445). -/
theorem mpLost_holds_standby :
    ∃ s', exec (.mpLost false cause) s = .next s' ∧ s'.now = max s.now (match cause with
        | .heartbeats => s.mp.heardA + 1000000 | .selfCheck => s.now | .journal => s.now + 100000) ∧ s'.mp.activeB = s.mp.activeB ∧
      s'.mp.heldB = true ∧ s'.mp.standbyLost = true ∧ Rules.counted s s' 1 := by
  have hwhen := s.wait_lossAt (byB := false) (if_neg Bool.false_ne_true) cause
  refine ⟨_, mpLost_of_bothUp cause hup false, ?_⟩
  rw [if_neg Bool.false_ne_true]
  generalize hheld : ({ s.wait (s.lossAt false cause) with
    mp := { (s.wait (s.lossAt false cause)).mp with heldB := true, standbyLost := true } } : State) = h
  obtain ⟨hlogged, hcounted⟩ := h.log_mpEvent 0x0702
  generalize h.log (mpEvent 1 0x0702 []) = s' at hlogged hcounted ⊢
  subst hheld
  exact ⟨(congrArg Failover.now hlogged).trans hwhen, congrArg Failover.activeB hlogged, congrArg Failover.heldB hlogged,
    congrArg Failover.standbyLost hlogged, hcounted⟩

end

/-- The active processor refreshes the heartbeat word with MSTATE (R440, R446). -/
theorem hbWordRefresh_refreshes {s : State} (hup : s.firmwareUp = true) :
    ∃ s', exec .hbWordRefresh s = .next s' ∧ s'.mp.wordAt = max s.now (s.mp.wordAt + 1000000) ∧ s'.mp.wordState = s.mstate := by
  have hheld : s.board.stage ≠ .held := by
    have h := hup
    simp only [State.firmwareUp, Bool.and_eq_true, decide_eq_true_eq] at h
    exact h.1
  refine ⟨_, if_neg (by simp [hheld, hup]), ?_, rfl⟩
  exact congrArg (fun n => max s.now (s.mp.wordAt + n)) (by norm_num : 10 ^ 6 = 1000000)

/-- Settles O33: each clause is the lemma above about its row. -/
theorem memoryAndProcessorsFailOver : Obligations.MemoryAndProcessorsFailOver := by
  unfold Obligations.MemoryAndProcessorsFailOver
  refine ⟨fun _ _ _ => ite_self _, fun _ _ _ _ _ halign hstack hretired hlimit => patrolScrub_writes_back halign hstack hretired hlimit,
    fun _ _ w _ halign hstack hretired hlimit => patrolScrub_makes_poison halign hstack hretired hlimit w,
    fun _ _ => pchFail_makes_candidate, fun toA _ => mpHeartbeat_hears toA, fun cause _ => mpLost_takes_over cause,
    fun cause _ => mpLost_holds_standby cause, fun _ => hbWordRefresh_refreshes⟩

end Sys2Proof.Machine
end

section
/-! PROOFS. Code lines are fetched, fetched again, invalidated and prefetched (R283, R285 to R291). -/

namespace Sys2Proof.Machine

/-! ### Updates of the dies alone -/

/-- Two states that differ in their dies alone. -/
def State.SameButDies (s t : State) : Prop := ∃ d, t = { s with dies := d }

theorem State.SameButDies.refl (s : State) : s.SameButDies s := ⟨_, rfl⟩

theorem State.SameButDies.trans {s t u : State} (h : s.SameButDies t) (k : t.SameButDies u) : s.SameButDies u := by
  obtain ⟨_, rfl⟩ := h
  obtain ⟨_, rfl⟩ := k
  exact ⟨_, rfl⟩

theorem State.SameButDies.calm {s t : State} (h : s.SameButDies t) {id : CoreId} (hcalm : s.calm id = true) : t.calm id = true := by
  obtain ⟨_, rfl⟩ := h
  exact hcalm

theorem State.SameButDies.at {s t : State} (h : s.SameButDies t) (id : CoreId) : t.at id = s.at id := by
  obtain ⟨_, rfl⟩ := h
  rfl

/-- A victim that is offered changes its die alone (R287). -/
theorem State.sameButDies_offerLine (s : State) (id : CoreId) (v : Option IcLine) : s.SameButDies (s.offerLine id v) := by
  cases v with
  | none => exact .refl s
  | some l => exact ⟨_, rfl⟩

theorem State.dccMeet_clean (s : State) (k set line : Nat) : s.dccMeet k set line .clean = (s, (s.die k).wayOf set line) := by
  unfold State.dccMeet
  cases (s.die k).wayOf set line <;> rfl

/-- A line of code that meets nothing on its way changes at most the marks of the cache that it comes from, and comes whole (R286,
R290). -/
theorem State.codeLine_clean (s : State) (id : CoreId) (line : Nat) :
    s.SameButDies (s.codeLine id line .clean .clean).1 ∧ (s.codeLine id line .clean .clean).2.lost = false := by
  unfold State.codeLine
  simp only [State.dccMeet_clean]
  cases (s.die (id.toNat / 256)).wayOf (line % 4096) ((s.codeBase id + 128 * line) / 128) with
  | none => exact ⟨.refl s, rfl⟩
  | some w => exact ⟨⟨_, rfl⟩, rfl⟩

theorem State.codeFlit_intact (s : State) (id : CoreId) (line : Nat) (x : State × CodeLine) : s.codeFlit id line x .intact = x := rfl

/-! ### The instruction cache -/

/-- A change of the DE alone is the step of a calm core. -/
theorem State.onCore_withDe {s : State} {id : CoreId} (hcalm : s.calm id = true) (f : De → De) :
    s.onCore id (fun _ c => { c with de := f c.de }) = s.after id (Rules.withDe (s.at id) (f (s.at id).de)) :=
  State.onCore_of_life (f := fun _ c => { c with de := f c.de }) hcalm rfl

/-- A core whose DE alone changes stays calm. -/
theorem State.calm_setCore_withDe {s : State} {id : CoreId} (hcalm : s.calm id = true) (d : De) :
    (s.setCore id (Rules.withDe (s.core id) d)).calm id = true := by
  have hget : (s.setCore id (Rules.withDe (s.core id) d)).core id = Rules.withDe (s.core id) d := tget_tset_same _ _ _ _
  simp only [State.calm, State.quiet, hget]
  exact hcalm

/-- A missed line that meets nothing on its way takes the way that R287 names, and what it displaces is offered to the die. -/
theorem State.fillLine_fills {core : CoreId} {m : IcMiss} {x : CodeLine} {s s1 : State} {w : Fin 4} {seed : BitVec 16}
    (hcalm : s.calm core = true) (habsent : (s.at core).de.icWay m.line = none)
    (hcode : s.codeLine core m.line .clean .clean = (s1, x)) (hclean : x.data.poison = [])
    (hway : (s.at core).de.allocate m.line = (some w, seed)) :
    s.fillLine core m .clean .clean .intact =
      (s1.offerLine core ((s.at core).de.putLine w (Rules.fetched s m x)).2).after core
        (Rules.withDe (s.at core) (De.putLine { Rules.arrived (s.at core).de m.line with icseed := seed } w
          (Rules.fetched s m x)).1) := by
  obtain ⟨hdies, hwhole⟩ := s.codeLine_clean core m.line
  rw [hcode] at hdies hwhole
  have hcame := hdies.trans (s1.sameButDies_offerLine core ((s.at core).de.putLine w (Rules.fetched s m x)).2)
  have habsent' : ¬ ((s.core core).de.icWay m.line).isSome = true := fun h => by
    rw [show (s.core core).de.icWay m.line = none from habsent] at h
    exact Bool.false_ne_true h
  have hfill : s.fillLine core m .clean .clean .intact =
      (s1.offerLine core ((s.at core).de.putLine w (Rules.fetched s m x)).2).onCore core (fun _ c =>
        { c with de := (De.putLine { Rules.arrived (s.at core).de m.line with icseed := seed } w (Rules.fetched s m x)).1 }) := by
    unfold State.fillLine
    rw [if_neg habsent', State.codeFlit_intact, hcode, if_neg (Bool.eq_false_iff.mp hwhole), if_neg (not_not_intro hclean)]
    generalize ha : De.allocate _ m.line = a
    obtain rfl : a = (some w, seed) := ha.symm.trans hway
    rfl
  rw [hfill]
  refine (State.onCore_withDe (hcame.calm hcalm) (fun _ => _)).trans ?_
  rw [hcame.at core]

section
variable {core : CoreId} {line : BitVec 25} {s : State} (hcalm : s.calm core = true)
include hcalm

/-- A line that was asked for arrives (R286, R287). -/
theorem icLineFill_fills {m : IcMiss} {x : CodeLine} {s1 : State} {w : Fin 4} {seed : BitVec 16}
    (hmiss : (s.at core).de.misses.find? (fun m => m.line == line.toNat) = some m) (hline : m.line = line.toNat)
    (habsent : (s.at core).de.icWay line.toNat = none) (hcode : s.codeLine core line.toNat .clean .clean = (s1, x))
    (hclean : x.data.poison = []) (hway : (s.at core).de.allocate line.toNat = (some w, seed)) :
    exec (.icLineFill core line .clean .clean) s = .next
      ((s1.offerLine core ((s.at core).de.putLine w (Rules.fetched s m x)).2).after core
        (Rules.withDe (s.at core) (De.putLine { Rules.arrived (s.at core).de line.toNat with icseed := seed } w
          (Rules.fetched s m x)).1)) := by
  have hrow : exec (.icLineFill core line .clean .clean) s = .next (s.fillLine core m .clean .clean .intact) := by
    have hassigned : ¬ (!s.assigned core) = true := by simp [State.assigned_of_calm hcalm]
    refine (if_neg hassigned).trans ?_
    rw [show (s.core core).de.misses.find? (fun m => m.line == line.toNat) = some m from hmiss]
  rw [hrow, ← hline, State.fillLine_fills hcalm (hline ▸ habsent) (hline ▸ hcode) hclean (hline ▸ hway)]

/-- A line that threads miss is asked for once, with the epoch of that moment (R286). -/
theorem icLineFill_asks (dcc : LineFinding) (ext : HbmFinding) (hnew : ∀ m ∈ (s.at core).de.misses, m.line ≠ line.toNat)
    (hmissed : (s.at core).missers line.toNat ≠ 0) :
    exec (.icLineFill core line dcc ext) s = .next (s.after core (Rules.withDe (s.at core)
      { (s.at core).de with misses := (s.at core).de.misses ++
          [{ line := line.toNat, epoch := s.epoch, threads := (s.at core).missers line.toNat }] })) := by
  have hassigned : ¬ (!s.assigned core) = true := by simp [State.assigned_of_calm hcalm]
  have hnone : (s.core core).de.misses.find? (fun m => m.line == line.toNat) = none :=
    List.find?_eq_none.mpr (fun m hm => by simpa using hnew m hm)
  refine (if_neg hassigned).trans ?_
  rw [hnone]
  exact (if_neg hmissed).trans (congrArg Host.Outcome.next (State.onCore_withDe hcalm (fun d => { d with misses := d.misses ++ [_] })))

/-- The end of the window clears the counts (R289). -/
theorem icErrWindow_clears :
    exec (.icErrWindow core) s = .next (s.after core (Rules.withDe (s.at core) { (s.at core).de with icerr := Vector.replicate 4 0 })) :=
  congrArg Host.Outcome.next (State.onCore_withDe hcalm (fun d => { d with icerr := Vector.replicate 4 0 }))

end

/-! ### Lines and ways -/

theorem find_key_tset_same {α : Type} (t : Table α) (k : Nat) (v : α) : (tset t k v).find? (fun p => p.1 == k) = some (k, v) := by
  induction t with
  | nil => simp [tset]
  | cons x t ih =>
    obtain ⟨x, u⟩ := x
    unfold tset
    split_ifs with hlt heq
    · simp
    · simp
    · simp [Ne.symm heq, ih]

theorem find_key_tset_other {α : Type} (t : Table α) {k j : Nat} (v : α) (h : j ≠ k) :
    (tset t k v).find? (fun p => p.1 == j) = t.find? (fun p => p.1 == j) := by
  induction t with
  | nil => simp [tset, Ne.symm h]
  | cons x t ih =>
    obtain ⟨x, u⟩ := x
    unfold tset
    split_ifs with hlt heq
    · simp [Ne.symm h]
    · subst heq
      simp [Ne.symm h]
    · simp only [List.find?_cons, ih]

theorem icKey_inj {w v : Fin 4} {line : Nat} (h : icKey w.val line = icKey v.val line) : w = v :=
  Fin.ext (by simp only [icKey] at h; omega)

/-- Way `v` of the cache holds a line. -/
def De.holds (d : De) (line : Nat) (v : Fin 4) : Bool :=
  match d.ic.find? (fun p => p.1 == icKey v.val line) with
  | some p => p.2.tag == line
  | none => false

theorem De.icWay_of_holds {d : De} {line : Nat} {w : Fin 4} (h : ∀ v, d.holds line v = (v == w)) : d.icWay line = some w := by
  have hfirst : ∀ w : Fin 4, (List.finRange 4).find? (fun v => v == w) = some w := by decide
  show (List.finRange 4).find? (d.holds line) = some w
  rw [funext h, hfirst]

/-- A line that has left every way is in none. -/
theorem De.holds_dropLine (d : De) (line : Nat) (v : Fin 4) : (d.dropLine line).holds line v = false := by
  unfold De.holds
  cases hp : (d.dropLine line).ic.find? (fun p => p.1 == icKey v.val line) with
  | none => rfl
  | some p =>
    have hmem := List.mem_of_find?_eq_some hp
    simp only [De.dropLine, List.mem_filter] at hmem
    simpa using hmem.2

/-- A line that has left every way and is put into one is in that way. -/
theorem De.icWay_putLine {d : De} (w : Fin 4) {l : IcLine} (hgone : ∀ v, d.holds l.tag v = false) :
    (d.putLine w l).1.icWay l.tag = some w := by
  refine De.icWay_of_holds (fun v => ?_)
  have hic : (d.putLine w l).1.ic = tset d.ic (icKey w.val l.tag) l := rfl
  by_cases hv : v = w
  · subst hv
    simp [De.holds, hic, find_key_tset_same]
  · have hkey : icKey v.val l.tag ≠ icKey w.val l.tag := fun h => hv (icKey_inj h)
    have hother : (d.putLine w l).1.holds l.tag v = d.holds l.tag v := by
      simp only [De.holds, hic, find_key_tset_other _ _ hkey]
    rw [hother, hgone, beq_false_of_ne hv]

/-- The cache with a line fetched again into a way, and its error counted (R289). -/
def De.refetched (d : De) (w : Fin 4) (l : IcLine) : De :=
  (De.putLine { d.dropLine l.tag with icerr := d.icerr.set w (d.icerr[w] + 1) } w l).1

/-- What a parity error does to its core, but for threads that a line without data stops: the line is fetched again, counted and
posted, and the eighth error of a way disables it (R289). -/
def Core.parityError (w : Fin 4) (l : IcLine) (c : Core) : Core :=
  let d := (Rules.withDe c (c.de.refetched w l)).post (icPost 0 0x0107 w (128 * l.tag))
  if 8 ≤ (d.de.icerr[w]).toNat then d.disableWay w else d

/-- Below the eighth error the way stays (R289). -/
theorem Core.parityError_of_few {c : Core} {w : Fin 4} (l : IcLine) (hfew : (c.de.icerr[w]).toNat < 7) :
    c.parityError w l = (Rules.withDe c (c.de.refetched w l)).posting [icPost 0 0x0107 w (128 * l.tag)] := by
  have hcount : (c.de.icerr.set w (c.de.icerr[w] + 1))[w].toNat < 8 := by
    have hset : (c.de.icerr.set w (c.de.icerr[w] + 1))[w] = c.de.icerr[w] + 1 := Vector.getElem_set_self _
    rw [hset]
    generalize c.de.icerr[w] = k at hfew ⊢
    bv_omega
  exact if_neg (Nat.not_le.mpr hcount)

section
variable {core : CoreId} {line : BitVec 25} {s : State} (hcalm : s.calm core = true)
include hcalm

/-- A parity error fetches the line again into the same way, and counts (R289). -/
theorem icParityError_fetches_again {x : CodeLine} {s1 : State} {w : Fin 4} (hway : (s.at core).de.icWay line.toNat = some w)
    (hcode : s.codeLine core line.toNat .clean .clean = (s1, x)) (hclean : x.data.poison = [])
    (hfew : ((s.at core).de.icerr[w]).toNat < 7) :
    ∃ s', exec (.icParityError core line .clean .clean) s = .next s' ∧ (s'.core core).de.icWay line.toNat = some w ∧
      (s'.core core).de.icerr = (s.at core).de.icerr.set w ((s.at core).de.icerr[w] + 1) := by
  obtain ⟨hdies, hwhole⟩ := s.codeLine_clean core line.toNat
  rw [hcode] at hdies hwhole
  have hwhole : x.lost = false := hwhole
  have hfew' : ((s1.at core).de.icerr[w]).toNat < 7 := by rw [hdies.at core]; exact hfew
  have hrow : exec (.icParityError core line .clean .clean) s = onCore core (fun _ c =>
      c.parityError w { tag := line.toNat, epoch := s.epoch, data := x.data.bytes }) s1 := by
    show execIcParityError core line s .clean .clean .intact = _
    rw [execIcParityError]
    dsimp only
    rw [show (s.core core).de.icWay line.toNat = some w from hway]
    dsimp only
    rw [if_neg (by simp [State.assigned_of_calm hcalm]), State.codeFlit_intact, hcode]
    simp only [hclean, hwhole, List.isEmpty_nil, Bool.not_false, Bool.and_self, if_true]
    rfl
  obtain ⟨s', hstep, hcore⟩ := onCore_posting
    (f := fun _ c => c.parityError w { tag := line.toNat, epoch := s.epoch, data := x.data.bytes }) (hdies.calm hcalm)
    (Core.parityError_of_few _ hfew') rfl (fun p hp => by rw [List.mem_singleton.mp hp]; exact Nat.zero_lt_two)
  refine ⟨s', hrow.trans hstep, ?_, ?_⟩
  · rw [hcore, hdies.at core]
    exact De.icWay_putLine w (De.holds_dropLine (s.at core).de line.toNat)
  · rw [hcore, hdies.at core]
    rfl

end

/-! ### ICINV and ICPF -/

theorem Core.th_drainDe (l : List DeEntry) (c : Core) (t : Fin 4) : (drainDe l c).th t = c.th t := by
  induction l generalizing c with
  | nil => rfl
  | cons x l ih =>
    cases x with
    | token id => exact ih c
    | denq q r => exact ih _
    | _ => rfl

/-- Markers that leave touch no thread (R240). -/
@[simp] theorem Core.th_trim (c : Core) (t : Fin 4) : c.trim.th t = c.th t := Core.th_drainDe _ _ t

/-- ICINV holds its thread in the DE queue (R285). -/
theorem icinv_waits {a : Site} {w : SeWord} {s : State} (h : s.issues a (icinvForm w) w = true) (hroom : (s.at a.core).room 3 = true) :
    exec (.icinv a w) s = .next (s.after a.core (Core.trim (Rules.deQueued
      ((s.issuedCore a).mapTh a.thread (fun h => { h with stall := .icinv (s.issuedCore a).seq w }))
      (.icinv (s.issuedCore a).seq a.thread (w.mod == 1) (Rules.invA s a w) (Rules.invB s a w) (s.issuedCore a).seq)))) := by
  show seCmd a (icinvForm w) w noExtra _ _ s = _
  rw [seCmd_eq h]
  · simp only [Operand.value_issued]
    rfl
  · rfl
  · exact congrArg not hroom
  · simp only [Core.deEnqueue, Core.life_trim]
    exact Core.life_stall _ _ _

/-- ICPF joins the DE queue, and its thread goes on (R288). -/
theorem icpf_goes_on {a : Site} {w : SeWord} {s : State} (h : s.issues a (icpfForm w) w = true) (hroom : (s.at a.core).room 3 = true) :
    exec (.icpf a w) s = .next (s.after a.core
      ((Core.trim (Rules.deQueued (s.issuedCore a)
        (.icpf (Fin.ofNat 4 w.mod.toNat) (Rules.pfA s a w) (Rules.pfB s a w) (s.issuedCore a).seq))).finish a.thread w.len
          (s.ops a (icpfForm w) w))) := by
  show seCmd a (icpfForm w) w noExtra _ _ s = _
  rw [seCmd_eq h]
  · simp only [Operand.value_issued]
    rfl
  · rfl
  · exact congrArg not hroom
  · simp only [Core.life_finish, Core.deEnqueue, Core.life_trim]
    rfl

section
variable {core : CoreId} {s : State} (hcalm : s.calm core = true)
include hcalm

/-- ICINV at the head of the DE queue invalidates its lines and releases its thread (R285). -/
theorem icinvComplete_invalidates {id first len seq : Nat} {t : Fin 4} {all : Bool} {w : SeWord} {rest : List DeEntry}
    (hhead : (s.at core).de.issue = .icinv id t all first len seq :: rest) (hloads : (s.at core).loadsDone seq = true)
    (hstall : ((s.at core).th t).stall = .icinv id w) :
    exec (.icinvComplete core) s = .next (s.after core
      ((Core.trim (Rules.withDe (s.at core)
        { (Rules.keeping (s.at core).de (Rules.inRange all first len)) with issue := rest })).complete t (icinvForm w) w)) := by
  have hwaits : ((Core.trim (Rules.withDe (s.at core)
      { (Rules.keeping (s.at core).de (Rules.inRange all first len)) with issue := rest })).th t).stall = .icinv id w := by
    rw [Core.th_trim]
    exact hstall
  refine onCore_eq_of_effect hcalm ?_ (Core.still_of_life ?_ (State.still_of_calm hcalm))
  · rw [Core.icinvDone, hhead]
    dsimp only
    rw [if_neg (by simp [hloads])]
    generalize hst : (Core.th _ t).stall = st
    obtain rfl : st = .icinv id w := hst.symm.trans hwaits
    exact if_pos rfl
  · rw [Core.life_complete, Core.life_trim]
    rfl

/-- The closing of a gate completes (R215). -/
theorem gateCloseComplete_settles (gate : Fin 16) :
    exec (.gateCloseComplete core gate) s = .next (s.after core ((s.at core).settleGate gate)) := by
  have hlife : ∀ c : Core, (c.settleGate gate).life = c.life := foldl_keeps Core.life _ (fun c t => by
    split
    · exact ite_keeps ((Core.life_complete _ _ _ _).trans (c.life_mapSpm _)) rfl
    · rfl) _
  exact onCore_eq_of_effect hcalm rfl (Core.still_of_life (hlife _) (State.still_of_calm hcalm))

/-- A line that ICPF fills leaves the core calm (R288). -/
theorem State.calm_preload (w : Fin 4) (line : Nat) : (s.preload core w line .clean .clean .intact).calm core = true := by
  obtain ⟨hdies, -⟩ := s.codeLine_clean core line
  unfold State.preload
  dsimp only
  rw [State.codeFlit_intact]
  refine either_branch (P := fun t : State => t.calm core = true) hcalm ?_
  refine either_branch (P := fun t : State => t.calm core = true) (hdies.calm hcalm) ?_
  exact (State.sameButDies_offerLine _ core _).calm (State.calm_setCore_withDe (hdies.calm hcalm) _)

/-- ICPF at the head of the DE queue fills its range, line by line (R288). -/
theorem icpfExecute_fills {w : Fin 4} {first len seq : Nat} {rest : List DeEntry} {s1 : State}
    (hhead : (s.at core).de.issue = .icpf w first len seq :: rest) (hloads : (s.at core).loadsDone seq = true)
    (hs1 : s1 = (linesOf first (min len ((s.at core).codeSize - first))).foldl (fun s l => s.preload core w l .clean .clean .intact) s) :
    exec (.icpfExecute core [] []) s = .next (s1.after core (Core.trim (Rules.deRest (s1.at core) rest))) := by
  have hcalm1 : s1.calm core = true := by
    rw [hs1]
    exact List.foldlRecOn (motive := fun t : State => t.calm core = true) _ _ hcalm (fun t ht l _ => State.calm_preload ht w l)
  have hlines : ∀ ls : List Nat, ls.zipIdx.foldl (fun s l => s.preload core w l.1 (([] : List LineFinding).getD l.2 .clean)
      (([] : List HbmFinding).getD l.2 .clean) (([] : List FlitFinding).getD l.2 .intact)) s =
      ls.foldl (fun s l => s.preload core w l .clean .clean .intact) s := fun ls => by
    conv_rhs => rw [← List.zipIdx_map_fst 0 ls, List.foldl_map]
    simp only [List.getD_nil]
  have hdue : ¬ (!(s.at core).loadsDone seq || !s.assigned core) = true := by simp [hloads, State.assigned_of_calm hcalm]
  have hrow : exec (.icpfExecute core [] []) s = onCore core (fun _ c => (Rules.deRest c rest).trim) s1 := by
    show execIcpfExecute core s [] [] [] = _
    rw [execIcpfExecute]
    dsimp only
    rw [show (s.core core).de.issue = .icpf w first len seq :: rest from hhead]
    refine (if_neg hdue).trans ?_
    rw [hlines, hs1]
    rfl
  rw [hrow]
  exact onCore_eq_of_effect hcalm1 rfl (Core.still_of_life (Core.life_trim _) (State.still_of_calm hcalm1))

end

/-! ### The code cache of a die -/

theorem map_tset_new {α : Type} {t : Table α} {k : Nat} (v : α) (hnew : ∀ p ∈ t, p.1 ≠ k) (f : Nat × α → Nat × α)
    (hf : ∀ p ∈ t, f p = p) (hk : (f (k, v)).1 = k) : (tset t k v).map f = tset t k (f (k, v)).2 := by
  induction t with
  | nil => simp [tset, Prod.ext_iff, hk]
  | cons x t ih =>
    obtain ⟨x, u⟩ := x
    have hx : k ≠ x := (hnew (x, u) List.mem_cons_self).symm
    have hfx : f (x, u) = (x, u) := hf _ List.mem_cons_self
    have hft : t.map f = t := (List.map_congr_left (fun p hp => hf p (List.mem_cons_of_mem _ hp))).trans t.map_id'
    have hrest := ih (fun p hp => hnew p (List.mem_cons_of_mem _ hp)) (fun p hp => hf p (List.mem_cons_of_mem _ hp))
    have hfk : f (k, v) = (k, (f (k, v)).2) := Prod.ext hk rfl
    simp only [tset, if_neg hx]
    split_ifs
    · rw [List.map_cons, List.map_cons, hfx, hft, hfk]
    · rw [List.map_cons, hfx, hrest]

theorem filter_tset_length_le {α : Type} {t : Table α} (k : Nat) (v : α) {q : Nat × α → Bool} (hq : ∀ p ∈ t, q p = false) :
    ((tset t k v).filter q).length ≤ 1 := by
  have hone : ∀ l : Table α, (∀ p ∈ l, q p = false) → (((k, v) :: l).filter q).length ≤ 1 := fun l hl => by
    rw [List.filter_cons, List.filter_eq_nil_iff.mpr (fun p hp => Bool.eq_false_iff.mp (hl p hp))]
    split_ifs <;> simp
  induction t with
  | nil => exact hone [] (fun p hp => absurd hp List.not_mem_nil)
  | cons x t ih =>
    have ht := fun p hp => hq p (List.mem_cons_of_mem x hp)
    unfold tset
    split_ifs
    · exact hone _ hq
    · exact hone _ ht
    · rw [List.filter_cons_of_neg (Bool.eq_false_iff.mp (hq x List.mem_cons_self))]
      exact ih ht

section
variable {die : Fin 32} {s : State}

/-- The mark of a line put into way 0 of a set without lines is the only one of its set (R290). -/
theorem Die.mark_of_empty_set (d : Die) {set : Nat} (l : DccLine) (hempty : ∀ p ∈ d.lines, p.1 / 16 ≠ set) :
    ({ d with lines := tset d.lines (16 * set) l } : Die).mark set 0 =
      { d with lines := tset d.lines (16 * set) { l with used := true } } := by
  have hnew : ∀ p ∈ d.lines, p.1 ≠ 16 * set := fun p hp hkey => hempty p hp (by rw [hkey]; omega)
  have hmarked : (tset d.lines (16 * set) l).map (fun p => if p.1 = 16 * set + 0 then (p.1, { p.2 with used := true }) else p) =
      tset d.lines (16 * set) { l with used := true } := by
    rw [Nat.add_zero, map_tset_new l hnew _ (fun p hp => if_neg (hnew p hp)) (by rw [if_pos rfl]), if_pos rfl]
  have hone : ¬ 16 ≤ ((tset d.lines (16 * set) { l with used := true }).filter (fun p => p.1 / 16 == set && p.2.used)).length := by
    have := filter_tset_length_le (t := d.lines) (16 * set) { l with used := true } (q := fun p => p.1 / 16 == set && p.2.used)
      (fun p hp => by simp [hempty p hp])
    omega
  simp only [Die.mark, hmarked, if_neg hone]

/-- In a set without lines the first offer takes way 0, and its mark is the only one (R290). -/
theorem Die.take_of_empty_set {d : Die} {o : DccOffer} {os : List DccOffer} (hoffers : d.offers = o :: os)
    (hempty : ∀ p ∈ d.lines, p.1 / 16 ≠ o.set) :
    d.take = { d with offers := os, lines := tset d.lines (16 * o.set) { line := o.line, used := true, data := o.data } } := by
  have hfree : ∀ w < 16, d.lines.find? (fun p => p.1 == 16 * o.set + w) = none := fun w hw =>
    List.find?_eq_none.mpr (fun p hp hkey => hempty p hp (by rw [beq_iff_eq.mp hkey]; omega))
  have habsent : d.wayOf o.set o.line = none := by
    refine List.find?_eq_none.mpr (fun w hw => ?_)
    rw [hfree w (List.mem_range.mp hw)]
    exact Bool.false_ne_true
  have hway : d.victimWay o.set = 0 := by
    have hfirst : (List.range 16).find? (fun w => (d.lines.find? (fun p => p.1 == 16 * o.set + w)).isNone) = some 0 := by
      rw [List.range_eq_range', List.range'_succ, List.find?_cons_of_pos]
      rw [hfree 0 (by decide)]
      rfl
    rw [Die.victimWay]
    dsimp only
    rw [hfirst]
  rw [Die.take, hoffers]
  dsimp only
  have hmiss : ¬ (d.wayOf o.set o.line).isSome = true := by rw [habsent]; exact Bool.false_ne_true
  refine (if_neg hmiss).trans ?_
  generalize hw : Die.victimWay _ o.set = w
  obtain rfl : w = 0 := hw.symm.trans hway
  exact Die.mark_of_empty_set { d with offers := os } _ hempty

/-- The code cache of a die takes the first of its offers; the lowest way without a line is way 0 in a set without lines (R290). -/
theorem dccTakeOffer_takes {o : DccOffer} {os : List DccOffer} (hoffers : (s.die die.val).offers = o :: os)
    (hempty : ∀ p ∈ (s.die die.val).lines, p.1 / 16 ≠ o.set) :
    exec (.dccTakeOffer die) s = .next (s.mapDie die.val (fun d => { d with
      offers := os, lines := tset d.lines (16 * o.set) { line := o.line, used := true, data := o.data } })) := by
  show Host.Outcome.next (s.mapDie die.val Die.take) = _
  unfold State.mapDie
  rw [Die.take_of_empty_set hoffers hempty]

/-- A line with an error that cannot be corrected is invalidated, and answers no more (R291). -/
theorem dccMeet_invalidates {set line w : Nat} (hway : (s.die die.val).wayOf set line = some w) :
    ∃ s', s.dccMeet die.val set line .uncorrectable = (s', none) ∧
      (∀ p ∈ (s'.die die.val).lines, p ∈ (s.die die.val).lines ∧ p.1 ≠ 16 * set + w) := by
  have hdies : Unrecorded State.dies :=
    { errs := fun _ _ => rfl, host := fun _ _ => rfl, switch := fun _ _ => rfl, events := fun _ _ _ _ => rfl,
      box := fun s src b => by cases src <;> rfl, job := fun _ _ _ => rfl }
  unfold State.dccMeet
  simp only [hway]
  refine ⟨_, rfl, fun p hp => ?_⟩
  rw [State.die, hdies.log_of_cores (fun _ _ => rfl) (fun _ _ _ => rfl), State.mapDie, tget_tset_same] at hp
  simpa using hp

end

/-- Settles O24: each clause is the lemma above about its row. -/
theorem codeLinesAreFetchedAndInvalidated : Obligations.CodeLinesAreFetchedAndInvalidated := by
  unfold Obligations.CodeLinesAreFetchedAndInvalidated
  exact ⟨fun _ _ _ _ _ _ _ _ hcalm hmiss => icLineFill_fills hcalm hmiss,
    fun _ _ _ _ _ _ hcalm hway => icParityError_fetches_again hcalm hway, fun _ _ => icErrWindow_clears,
    fun _ _ _ _ => dccTakeOffer_takes, fun _ _ _ => icinv_waits,
    fun _ _ _ _ _ _ _ _ _ _ hcalm hhead => icinvComplete_invalidates hcalm hhead, fun _ _ _ => icpf_goes_on,
    fun _ _ _ _ _ _ _ _ hcalm hhead => icpfExecute_fills hcalm hhead, fun _ gate _ hcalm => gateCloseComplete_settles hcalm gate,
    fun _ _ dcc ext _ hcalm => icLineFill_asks hcalm dcc ext, fun _ _ _ _ _ => dccMeet_invalidates⟩

end Sys2Proof.Machine
end

section
/-! PROOFS. The queues of the DE as the steps of their descriptors change them, and what those steps leave alone (R59, R256). -/

namespace Sys2Proof.Machine

/-! ### The state after a step of one core -/

theorem State.core_after (s : State) (id : CoreId) (d : Core) : (s.after id d).core id = d := tget_tset_same _ _ _ _

theorem State.core_after_other (s : State) {id other : CoreId} (d : Core) (h : other ≠ id) :
    (s.after id d).core other = s.core other := tget_tset_other _ _ _ _ _ (fun k => h (BitVec.eq_of_toNat_eq k))

/-! ### One queue -/

theorem Core.mapDq_same (c : Core) (q : Fin 4) (f : Dq → Dq) : (c.mapDq q f).de.q[q] = f c.de.q[q] := by
  simp [Core.mapDq]

theorem Core.mapDq_other (c : Core) {p q : Fin 4} (f : Dq → Dq) (h : p ≠ q) : (c.mapDq q f).de.q[p] = c.de.q[p] := by
  simp [Core.mapDq, Fin.val_ne_of_ne h.symm]

theorem Core.mapDq_mapDq (c : Core) (q : Fin 4) (f g : Dq → Dq) : (c.mapDq q f).mapDq q g = c.mapDq q (fun d => g (f d)) := by
  simp [Core.mapDq]

theorem Core.mapDq_congr {c : Core} {q : Fin 4} {f g : Dq → Dq} (h : f c.de.q[q] = g c.de.q[q]) : c.mapDq q f = c.mapDq q g := by
  rw [Core.mapDq, Core.mapDq, h]

/-- The core with these descriptors in queue `q`. -/
def Core.withDescs (c : Core) (q : Fin 4) (ds : List DescRun) : Core := c.mapDq q (fun d => { d with descs := ds })

theorem Core.withDescs_descs (c : Core) (q : Fin 4) (ds : List DescRun) : ((c.withDescs q ds).de.q[q]).descs = ds :=
  congrArg Dq.descs (c.mapDq_same q _)

theorem Core.withDescs_done (c : Core) (q : Fin 4) (ds : List DescRun) :
    ((c.withDescs q ds).de.q[q]).done = (c.de.q[q]).done := by
  rw [Core.withDescs, Core.mapDq_same]

theorem Core.withDescs_halt (c : Core) (q : Fin 4) (ds : List DescRun) :
    ((c.withDescs q ds).de.q[q]).halt = (c.de.q[q]).halt := by
  rw [Core.withDescs, Core.mapDq_same]

theorem Core.withDescs_withDescs (c : Core) (q : Fin 4) (ds es : List DescRun) : (c.withDescs q ds).withDescs q es = c.withDescs q es :=
  c.mapDq_mapDq q _ _

/-- A change of the descriptors of a queue. -/
theorem Core.mapDq_descs {c : Core} {q : Fin 4} {ds : List DescRun} (h : (c.de.q[q]).descs = ds) (f : List DescRun → List DescRun) :
    c.mapDq q (fun d => { d with descs := f d.descs }) = c.withDescs q (f ds) :=
  Core.mapDq_congr (by rw [h])

/-- A change of the only descriptor of a queue. -/
theorem Core.mapDesc_of_one {c : Core} {q : Fin 4} {r : DescRun} (h : (c.de.q[q]).descs = [r]) (f : DescRun → DescRun) :
    c.mapDesc q 0 f = c.withDescs q [f r] := Core.mapDq_descs h (fun ds => ds.modify 0 f)

/-! ### What the steps of a queue leave alone -/

/-- The end of an instruction that has waited touches neither the DE nor the events. -/
theorem Core.complete_keepsDe (c : Core) (t : Fin 4) (f : Form) (w : SeWord) :
    (c.complete t f w).de = c.de ∧ (c.complete t f w).events = c.events := by
  have hincrements : ∀ (d : Core) (o : Operands), (d.increments t o).de = d.de ∧ (d.increments t o).events = d.events := fun d o =>
    Prod.mk.inj (foldl_keeps (fun d : Core => (d.de, d.events)) _ (fun d p => by split <;> rfl) _ d)
  exact hincrements (c.mapTh t (fun h => { h with stall := .none })) _

/-- The writes that wait for a converter stream touch neither the DE nor the events (R59). -/
theorem Core.settleStreams_keepsDe (c : Core) : c.settleStreams.de = c.de ∧ c.settleStreams.events = c.events := by
  refine Prod.mk.inj (foldl_keeps (fun d : Core => (d.de, d.events)) _ (fun d t => ?_) _ c)
  split
  · next i seed v w _ =>
    split
    · rfl
    · obtain ⟨hde, hevents⟩ := (d.mapStream i (fun s => s.set seed w.mod v.toNat)).complete_keepsDe t (csrwForm w) w
      simp only [hde, hevents, Core.mapStream_de, Core.mapStream_events]
  · rfl

@[simp] theorem Core.settleStreams_de (c : Core) : c.settleStreams.de = c.de := c.settleStreams_keepsDe.1
@[simp] theorem Core.settleStreams_events (c : Core) : c.settleStreams.events = c.events := c.settleStreams_keepsDe.2
@[simp] theorem Core.settleStreams_spm (c : Core) : c.settleStreams.spm = c.spm := by
  obtain ⟨-, hspm, -⟩ := c.settleStreams_keeps
  exact hspm

@[simp] theorem Core.life_settleStreams (c : Core) : c.settleStreams.life = c.life := by
  obtain ⟨-, -, hlife⟩ := c.settleStreams_keeps
  exact hlife

@[simp] theorem Core.life_withDescs (c : Core) (q : Fin 4) (ds : List DescRun) : (c.withDescs q ds).life = c.life := rfl

/-- An entry of the trace touches the debug state alone. -/
theorem Core.trace_eq (c : Core) (e : Env) (sel type : Nat) (t : Fin 4) (d pc w2 : Nat) :
    ∃ x, c.trace e sel type t d pc w2 = { c with dbg := x } :=
  either_branch (P := fun y : Core => ∃ x, y = { c with dbg := x })
    (either_branch (P := fun y : Core => ∃ x, y = { c with dbg := x }) ⟨_, rfl⟩ ⟨_, rfl⟩) ⟨_, rfl⟩

section
variable (c : Core) (e : Env) (sel type : Nat) (t : Fin 4) (d pc w2 : Nat)

@[simp] theorem Core.trace_de : (c.trace e sel type t d pc w2).de = c.de := by
  obtain ⟨x, hx⟩ := c.trace_eq e sel type t d pc w2
  rw [hx]

@[simp] theorem Core.trace_events : (c.trace e sel type t d pc w2).events = c.events := by
  obtain ⟨x, hx⟩ := c.trace_eq e sel type t d pc w2
  rw [hx]

@[simp] theorem Core.trace_spm : (c.trace e sel type t d pc w2).spm = c.spm := by
  obtain ⟨x, hx⟩ := c.trace_eq e sel type t d pc w2
  rw [hx]

end

end Sys2Proof.Machine
end

section
/-! PROOFS. Descriptors of the DMA queues enter, chain, complete and post their signals (R221, R258, R266, R267, R284). -/

namespace Sys2Proof.Machine

/-! ### DENQ -/

/-- A descriptor is read from the scratchpad alone. -/
theorem Core.readDesc_of_spm {c d : Core} (h : d.spm = c.spm) (t : Fin 4) (entry off : Nat) :
    d.readDesc t entry off = c.readDesc t entry off := by
  unfold Core.readDesc
  rw [h]

/-- A core that has an entry more in the issue queue of the DE, and goes on. -/
theorem Core.life_enqueued (c : Core) (x : DeEntry) (t : Fin 4) (len : BitVec 2) (o : Operands) :
    (((Rules.deQueued c x).trim).finish t len o).life = c.life := by
  rw [Core.life_finish, Core.life_trim]
  rfl

/-- DENQ reads its descriptor at issue, takes the tracker entries of its footprint and enqueues it (R258). -/
theorem denq_enqueues {a : Site} {w : SeWord} {r : DescRun} {s : State} (h : s.issues a (denqForm w) w = true)
    (hread : r = (s.issuedCore a).readDesc a.thread (s.issuedCore a).seq (Rules.denqAddr s a w))
    (hentries : (s.at a.core).dqEntries (Rules.denqQueue w) < 16) (hroom : (s.at a.core).room 3 = true)
    (htracked : tracked (s.at a.core) a.thread ((Rules.denqTracks s a r).map (fun p => p.1)) (Rules.denqTracks s a r).length = true)
    (hclean : poisoned (s.at a.core).spm.poison (Rules.denqAddr s a w) 64 = false) :
    exec (.denq a w) s = .next (s.after a.core
      ((Core.trim (Rules.deQueued
        ((Rules.denqTracks s a r).foldl (fun c p => c.track a.thread p.1.1 p.1.2 p.2 r.entry) (s.issuedCore a))
        (.denq (Rules.denqQueue w) r))).finish a.thread w.len (s.ops a (denqForm w) w))) := by
  have hspm : (s.issuedCore a).spm = (s.at a.core).spm := (s.sameData_issued a).spm
  have hfoot : ((s.at a.core).readDesc a.thread (s.at a.core).seq (Rules.denqAddr s a w)).footprint (s.env a.core) =
      Rules.denqTracks s a r := by
    rw [Rules.denqTracks, hread, Core.readDesc_of_spm hspm]
    rfl
  have hgoes : (s.at a.core).denqWaits (s.env a.core) a.thread w (s.ops a (denqForm w) w) = false := by
    have hfits : ¬ 16 ≤ (s.at a.core).dqEntries (Rules.denqQueue w) := by omega
    show (decide (16 ≤ (s.at a.core).dqEntries (Rules.denqQueue w)) || !(s.at a.core).room 3 ||
      !tracked (s.at a.core) a.thread
        ((((s.at a.core).readDesc a.thread (s.at a.core).seq (Rules.denqAddr s a w)).footprint (s.env a.core)).map (fun p => p.1))
        (((s.at a.core).readDesc a.thread (s.at a.core).seq (Rules.denqAddr s a w)).footprint (s.env a.core)).length) = false
    rw [hfoot, decide_eq_false hfits, hroom, htracked]
    rfl
  have hclean' : ¬ poisoned (s.issuedCore a).spm.poison (s.ops a (denqForm w) w).a.addr 64 = true := by
    rw [hspm]
    exact Bool.eq_false_iff.mp hclean
  have hlife : ∀ l : List ((Nat × Nat) × Bool), (l.foldl (fun c p => c.track a.thread p.1.1 p.1.2 p.2 r.entry) (s.issuedCore a)).life =
      (s.issuedCore a).life := fun l => foldl_keeps Core.life _ (fun c p => c.life_track _ _ _ _ _) l _
  subst hread
  refine (seCmd_eq h noExtra (fun e c o => c.denqWaits e a.thread w o) _ rfl hgoes ?_).trans ?_
  · rw [if_neg hclean']
    exact (Core.life_enqueued _ _ a.thread w.len _).trans (hlife _)
  · rw [if_neg hclean']
    simp only [Rules.deQueued, Rules.withDe, Rules.denqTracks, Rules.denqAddr, Rules.denqQueue]

theorem Core.headDesc_cons {c : Core} {q : Fin 4} {r : DescRun} {rs : List DescRun} (h : (c.de.q[q]).descs = r :: rs)
    (hkept : r.abandoned = false) : c.headDesc q = some (0, r) := by
  simp [Core.headDesc, -Fin.getElem_fin, h, hkept, List.findIdx?_cons]

/-- A queue without a CODELOAD that has performed its writes takes no step of R284. -/
theorem State.loadCodes_of_no_load {s : State} {id : CoreId} {q : Fin 4} {r : DescRun} (h : ((s.at id).de.q[q]).descs = [r])
    (hcopy : r.op ≠ 4) : s.loadCodes id q = s := by
  have hdue : (((s.core id).de.q[q]).descs).filter DescRun.loadDue = [] := by
    rw [show ((s.core id).de.q[q]).descs = [r] from h]
    simp [DescRun.loadDue, hcopy]
  simp only [State.loadCodes, hdue]
  rfl

/-! ### Completion -/

theorem Core.descCount_eq (c : Core) (e : Env) (q : Fin 4) :
    c.descCount e q =
      (c.mapDq q (fun d => { d with done := d.done + 1 })).trace e 4 7 0 q.val 0 ((c.de.q[q]).done + 1).toNat := by
  rw [Core.descCount, Core.mapDq_same]

theorem Core.descCount_queue (c : Core) (e : Env) (q : Fin 4) :
    (c.descCount e q).de.q[q] = { c.de.q[q] with done := (c.de.q[q]).done + 1 } := by
  rw [Core.descCount_eq, Core.trace_de, Core.mapDq_same]

@[simp] theorem Core.descCount_events (c : Core) (e : Env) (q : Fin 4) : (c.descCount e q).events = c.events := by
  rw [Core.descCount_eq, Core.trace_events]
  rfl

@[simp] theorem Core.descCount_spm (c : Core) (e : Env) (q : Fin 4) : (c.descCount e q).spm = c.spm := by
  rw [Core.descCount_eq, Core.trace_spm]
  rfl

@[simp] theorem Core.life_descCount (c : Core) (e : Env) (q : Fin 4) : (c.descCount e q).life = c.life := by
  rw [Core.descCount_eq, Core.life_trace, Core.life_mapDq]

/-- The only descriptor of a queue leaves it. -/
theorem Core.descGone_of_one {c : Core} {q : Fin 4} {r : DescRun} (h : (c.de.q[q]).descs = [r]) :
    c.descGone q 0 = (c.withDescs q []).settleStreams :=
  congrArg Core.settleStreams (Core.mapDq_descs h (fun ds => ds.eraseIdx 0))

/-- A CODELOAD that has taken the steps of R284 is complete for an ORD behind it (R266). -/
theorem DescRun.over_of_loadDue {r : DescRun} (h : r.loadDue = true) : DescRun.over { r with loaded := true } = true := by
  simp only [DescRun.loadDue, DescRun.live, Bool.and_eq_true, Bool.not_eq_true'] at h
  obtain ⟨⟨⟨⟨⟨hload, hstarted⟩, hissued⟩, hgrans⟩, hfaulted, -⟩, -⟩ := h
  have hwritten : (r.started && r.allIssued && r.grans.isEmpty && !r.faulted) = true := by
    rw [hstarted, hissued, hgrans, hfaulted]
    rfl
  have hloaded : (bitsAt (r.word 0) 28 4 != 4 || true) = true := Bool.or_true _
  show (r.filling || (r.started && r.allIssued && r.grans.isEmpty && !r.faulted && (bitsAt (r.word 0) 28 4 != 4 || true))) = true
  rw [hloaded, hwritten]
  exact Bool.or_true _

section
variable {core : CoreId} {q : Fin 4} {r : DescRun} {s : State} (hcalm : s.calm core = true)
include hcalm

/-- The completion of the only descriptor of a queue, which is no CODELOAD (R266). -/
theorem execDescriptorComplete_one (h : ((s.at core).de.q[q]).descs = [r]) (hkept : r.abandoned = false) (hdone : r.complete = true)
    (hcopy : r.op ≠ 4) : exec (.descriptorComplete core q) s = onCore core (fun e c => c.descComplete e q 0 r) s := by
  have hassigned : ¬ (!s.assigned core) = true := by simp [State.assigned_of_calm hcalm]
  have hhead : (s.core core).headDesc q = some (0, r) := Core.headDesc_cons (c := s.core core) h hkept
  refine (if_neg hassigned).trans ?_
  simp only [State.loadCodes_of_no_load h hcopy, hhead, hdone]
  rfl

/-- A completion without a signal counts, and its descriptor leaves (R267). -/
theorem descriptorComplete_plain (h : ((s.at core).de.q[q]).descs = [r]) (hkept : r.abandoned = false) (hdone : r.complete = true)
    (hplain : r.cmpl = 0) (hcopy : r.op ≠ 4) :
    exec (.descriptorComplete core q) s = .next (s.after core
      (Core.settleStreams ((((s.at core).mapDq q (fun d => { d with done := d.done + 1 })).trace (s.env core) 4 7 0 q.val 0
        (((s.at core).de.q[q]).done + 1).toNat).mapDq q (fun d => { d with descs := [] })))) := by
  have heffect : (s.at core).descComplete (s.env core) q 0 r =
      (((s.at core).descCount (s.env core) q).withDescs q []).settleStreams := by
    unfold Core.descComplete
    simp only [hplain]
    exact Core.descGone_of_one (r := r) (by rw [Core.descCount_queue]; exact h)
  rw [execDescriptorComplete_one hcalm h hkept hdone hcopy, onCore_of_life hcalm (by rw [heffect]; simp), heffect, Core.descCount_eq]
  rfl

/-- A completion with an event counts, adds its event, and its descriptor leaves (R267). -/
theorem descriptorComplete_event (h : ((s.at core).de.q[q]).descs = [r]) (hkept : r.abandoned = false) (hdone : r.complete = true)
    (hevent : r.cmpl = 1) (hcopy : r.op ≠ 4) :
    ∃ s', exec (.descriptorComplete core q) s = .next s' ∧ ((s'.core core).de.q[q]).descs = [] ∧
      ((s'.core core).de.q[q]).done = ((s.at core).de.q[q]).done + 1 ∧
      (s'.core core).events = (s.at core).events.gain (Fin.ofNat 32 r.ctgt) 1 := by
  have heffect : (s.at core).descComplete (s.env core) q 0 r =
      ((((s.at core).descCount (s.env core) q).setEvents ((s.at core).events.gain (Fin.ofNat 32 r.ctgt) 1)).withDescs q []).settleStreams := by
    unfold Core.descComplete
    simp only [hevent, Core.descCount_events]
    refine Core.descGone_of_one (r := r) ?_
    rw [Core.setEvents_de, Core.descCount_queue]
    exact h
  have hlife : ((s.at core).descComplete (s.env core) q 0 r).life = (s.at core).life := by rw [heffect]; simp
  refine ⟨_, (execDescriptorComplete_one hcalm h hkept hdone hcopy).trans (onCore_of_life hcalm hlife), ?_⟩
  rw [State.core_after, heffect, Core.settleStreams_de, Core.withDescs_descs, Core.withDescs_done, Core.setEvents_de,
    Core.descCount_queue, Core.settleStreams_events]
  exact ⟨rfl, rfl, rfl⟩

/-- A completion that fills a slot of this core which is full counts, and its fill joins the waiting order (R267, R221). -/
theorem descriptorComplete_fill_waits (h : ((s.at core).de.q[q]).descs = [r]) (hkept : r.abandoned = false)
    (hdone : r.complete = true) (hfill : r.cmpl = 2) (hcopy : r.op ≠ 4) (hhere : slotCore r.ctgt = core.toNat)
    (hopen : (s.at core).spm.slotOpen (slotSeg r.ctgt) = true) (hfull : (s.at core).spm.servesNow (slotSeg r.ctgt) true = false) :
    ∃ s', exec (.descriptorComplete core q) s = .next s' ∧
      ((s'.core core).de.q[q]).done = ((s.at core).de.q[q]).done + 1 ∧
      ((s'.core core).de.q[q]).descs = [{ r with filling := true }] ∧
      (s'.core core).spm.waits = (s.at core).spm.waits ++
        [{ seg := slotSeg r.ctgt, who := .fill q, store := true, data := .empty }] := by
  have heffect : (s.at core).descComplete (s.env core) q 0 r =
      ((((s.at core).descCount (s.env core) q).mapSpm (fun m =>
        m.park { seg := slotSeg r.ctgt, who := .fill q, store := true, data := .empty })).withDescs q
          [{ r with filling := true }]).settleStreams := by
    have hone : ((((s.at core).descCount (s.env core) q).mapSpm (fun m =>
        m.park { seg := slotSeg r.ctgt, who := .fill q, store := true, data := .empty })).de.q[q]).descs = [r] := by
      rw [Core.mapSpm_de, Core.descCount_queue]
      exact h
    have hid : slotCore r.ctgt = (s.env core).id.toNat := hhere
    unfold Core.descComplete
    simp only [hfill, if_pos hid, Core.descCount_spm, hopen, hfull, Core.mapDesc_of_one hone]
    rfl
  have hlife : ((s.at core).descComplete (s.env core) q 0 r).life = (s.at core).life := by rw [heffect]; simp
  refine ⟨_, (execDescriptorComplete_one hcalm h hkept hdone hcopy).trans (onCore_of_life hcalm hlife), ?_⟩
  rw [State.core_after, heffect, Core.settleStreams_de, Core.withDescs_descs, Core.withDescs_done, Core.mapSpm_de,
    Core.descCount_queue, Core.settleStreams_spm]
  refine ⟨rfl, rfl, ?_⟩
  show ((s.at core).descCount (s.env core) q).spm.waits ++ _ = _
  rw [Core.descCount_spm]

/-- The descriptor that NEXT names is read once its predecessor has issued every granule (R258). -/
theorem descriptorChainRead_reads (h : ((s.at core).de.q[q]).descs = [r]) (hruns : ((s.at core).de.q[q]).halt = false)
    (hkept : r.abandoned = false) (hissued : r.allIssued = true) (hnext : r.word 14 ≠ 0) (hopen : r.chained = false)
    (hclean : poisoned (s.at core).spm.poison (r.word 14) 64 = false) :
    exec (.descriptorChainRead core q []) s = .next (s.after core
      ((s.at core).mapDq q (fun d => { d with
        descs := [{ r with chained := true }, (s.at core).readDesc r.thread r.entry (r.word 14)] }))) := by
  have hfirst : [r].findIdx? (fun r => !r.abandoned && r.allIssued && r.word 14 != 0 && !r.chained) = some 0 := by
    simp [List.findIdx?_cons, hkept, hissued, hnext, hopen]
  have heffect : (s.at core).chainRead q [] =
      (s.at core).withDescs q [{ r with chained := true }, (s.at core).readDesc r.thread r.entry (r.word 14)] := by
    unfold Core.chainRead
    simp only [hruns, h, hfirst, Core.meet_nil]
    exact (if_neg (Bool.eq_false_iff.mp hclean)).trans (Core.mapDq_descs h (fun ds =>
      ds.take 0 ++ [{ r with chained := true }, (s.at core).readDesc r.thread r.entry (r.word 14)] ++ ds.drop (0 + 1)))
  exact onCore_eq_of_effect hcalm heffect (Core.still_of_life rfl (State.still_of_calm hcalm))

/-- A fill of a slot of this core is served when the slot is empty, and its descriptor leaves (R267, R221). -/
theorem dmaSlotFill_serves {x : SlotWait} {i : Nat} (hfill : (s.at core).fillIndex q = some i)
    (hwaits : (s.at core).spm.waits.find? (fun x => decide (x.who = .fill q)) = some x)
    (hfits : (s.at core).spm.fits x.seg true = true) (hrests : (s.at core).spm.moving x.seg = false)
    (hfirst : (s.at core).spm.firstFit x.seg = some x) (hplace : ((s.at core).de.q[q]).descs[i]? = some r) :
    ∃ s', exec (.dmaSlotFill core q) s = .next s' ∧ (s'.core core).spm = ((s.at core).spm.serveFill x.seg).unpark (.fill q) ∧
      ((s'.core core).de.q[q]).done = ((s.at core).de.q[q]).done ∧
      ((s'.core core).de.q[q]).descs.length + 1 = ((s.at core).de.q[q]).descs.length := by
  have heffect : (s.at core).slotFill q =
      (((s.at core).mapSpm (fun m => (m.serveFill x.seg).unpark (.fill q))).withDescs q
        ((((s.at core).de.q[q]).descs.modify i (fun r => { r with filling := false })).eraseIdx i)).settleStreams := by
    unfold Core.slotFill
    simp only [hfill, hwaits, hfits, hrests, hfirst, BEq.rfl, Bool.not_false, Bool.and_self, if_true]
    refine congrArg Core.settleStreams ((Core.mapDq_mapDq _ q _ _).trans (Core.mapDq_congr ?_))
    rw [Core.mapSpm_de]
  have hlife : ((s.at core).slotFill q).life = (s.at core).life := by rw [heffect]; simp
  refine ⟨_, onCore_of_life (f := fun _ c => c.slotFill q) hcalm hlife, ?_⟩
  rw [State.core_after, heffect, Core.settleStreams_de, Core.settleStreams_spm, Core.withDescs_descs, Core.withDescs_done,
    Core.mapSpm_de]
  obtain ⟨hbound, -⟩ := List.getElem?_eq_some_iff.mp hplace
  refine ⟨rfl, rfl, ?_⟩
  rw [List.length_eraseIdx, List.length_modify, if_pos hbound]
  omega

/-- A fill that its target answered with RETRY leaves again (R221). -/
theorem dmaSlotFill_retries {a : Remote} {i : Nat} (hfill : (s.at core).fillIndex q = some i)
    (haway : (s.at core).spm.waits.find? (fun x => decide (x.who = .fill q)) = none)
    (hfind : (s.at core).spm.remote.find? (fun r => !r.dead && match r.who with | .fill p _ => p == q | _ => false) = some a)
    (hself : (s.at core).spm.remoteOf a.id = some a) (hretry : a.stage = .answered .retry) (hturn : (s.at core).spm.inTurn a = true) :
    exec (.dmaSlotFill core q) s = .next (s.after core ((s.at core).mapSpm (fun m =>
      { m with remote := m.remote.filter (fun x => x.id != a.id) ++ [{ a with stage := .leaving }] }))) := by
  have heffect : (s.at core).slotFill q = (s.at core).mapSpm (fun m =>
      { m with remote := m.remote.filter (fun x => x.id != a.id) ++ [{ a with stage := .leaving }] }) := by
    unfold Core.slotFill
    simp only [hfill, haway]
    generalize hfound : List.find? _ (s.at core).spm.remote = found
    obtain rfl : found = some a := hfound.symm.trans hfind
    simp only [hturn, if_true, hretry]
    simp only [Core.mapSpm, Spm.resend, hself, hretry, if_true, Spm.endRemote]
  exact onCore_eq_of_effect hcalm heffect (Core.still_of_life rfl (State.still_of_calm hcalm))

/-- A CODELOAD behind a descriptor that is not one takes the steps of R284 for its range. -/
theorem State.loadCodes_behind {h : DescRun} (hqueue : ((s.at core).de.q[q]).descs = [h, r]) (hcopy : h.op ≠ 4)
    (hdue : r.loadDue = true) :
    s.loadCodes core q = (s.codeLoaded (s.codeBase core + r.dstAddr) r.len0).after core
      ((s.at core).withDescs q [h, { r with loaded := true }]) := by
  have hother : h.loadDue = false := by simp [DescRun.loadDue, hcopy]
  have hdues : (((s.core core).de.q[q]).descs).filter DescRun.loadDue = [r] := by
    rw [show ((s.core core).de.q[q]).descs = [h, r] from hqueue]
    simp [hother, hdue]
  unfold State.loadCodes
  simp only [hdues]
  refine (State.onCore_of_life (s := s.codeLoaded _ r.len0) (f := fun _ c => c.mapDq q (fun d => { d with descs := _ })) hcalm rfl).trans
    (congrArg (State.after _ core) ?_)
  refine (Core.mapDq_descs (c := s.at core) hqueue (fun ds => ds.map (fun r => if r.loadDue then { r with loaded := true } else r))).trans ?_
  simp [hother, hdue]

/-- A CODELOAD that has performed its writes takes the steps of R284 wherever it stands in its queue (R266). -/
theorem descriptorComplete_loads {h : DescRun} (hqueue : ((s.at core).de.q[q]).descs = [h, r]) (hkept : h.abandoned = false)
    (hruns : h.complete = false) (hcopy : h.op ≠ 4) (hdue : r.loadDue = true) :
    ∃ s', exec (.descriptorComplete core q) s = .next s' ∧ s'.epoch = s.epoch + 1 ∧
      ((s'.core core).de.q[q]).descs = [h, { r with loaded := true }] ∧ DescRun.over { r with loaded := true } = true := by
  have hassigned : ¬ (!s.assigned core) = true := by simp [State.assigned_of_calm hcalm]
  have hloads := State.loadCodes_behind hcalm hqueue hcopy hdue
  have hcore : (s.loadCodes core q).core core = (s.at core).withDescs q [h, { r with loaded := true }] := by
    rw [hloads, State.core_after]
  have hdescs : (((s.loadCodes core q).core core).de.q[q]).descs = [h, { r with loaded := true }] := by
    rw [hcore, Core.withDescs_descs]
  have hwaits : exec (.descriptorComplete core q) s = .next (s.loadCodes core q) := by
    refine (if_neg hassigned).trans ?_
    simp only [Core.headDesc_cons hdescs hkept, hruns]
    rfl
  refine ⟨_, hwaits, ?_, hdescs, DescRun.over_of_loadDue hdue⟩
  rw [hloads]
  rfl

end

end Sys2Proof.Machine
end

section
/-! PROOFS. A copy that is one granule: the descriptor issues it when it starts, and its response moves the bytes (R261, R265). -/

namespace Sys2Proof.Machine

/-! ### The row of a small copy -/

theorem addrPlus_zero {a : Nat} (h : a < 2 ^ 64) : addrPlus a 0 = a := by
  simp only [addrPlus, toBits, Int.add_zero]
  omega

theorem DescRun.word_lt (r : DescRun) (i : Fin 16) : r.word i < 2 ^ 32 := (r.d.words[i]).isLt

theorem DescRun.srcAddr_lt (r : DescRun) : r.srcAddr < 2 ^ 64 := by
  have hlo := r.word_lt 2
  have hhi := r.word_lt 3
  rw [DescRun.srcAddr]
  omega

theorem DescRun.dstAddr_lt (r : DescRun) : r.dstAddr < 2 ^ 64 := by
  have hlo := r.word_lt 4
  have hhi := r.word_lt 5
  rw [DescRun.dstAddr]
  omega

/-- A descriptor that neither gathers, scatters nor converts has rows of LEN0 bytes (R261). -/
theorem DescRun.dstRow_of_plain {r : DescRun} (hop : r.op = 0) (hcvt : r.cvt = false) : r.dstRow = r.len0 := by
  simp only [DescRun.dstRow, DescRun.srcRow, DescRun.indexed, DescRun.widths, hop, hcvt]
  simp

/-- Without a conversion a granule reads as many bytes as it writes. -/
theorem DescRun.srcBytes_of_plain {r : DescRun} (hcvt : r.cvt = false) (n : Nat) : r.srcBytes 0 n = (0, n) := by
  simp only [DescRun.srcBytes, DescRun.elems, DescRun.widths, hcvt, ceilDiv]
  simp
  omega

/-- Bytes of the core's own scratchpad (Table 9-3). -/
theorem placeOf_own {e : Env} {a n : Nat} (h : a + n ≤ e.spmSize) (write : Bool) : placeOf e 0 a n write = .own a := by
  simp only [placeOf, ownPlace, if_pos h]

section
variable {e : Env} {r : DescRun} {n : Nat} (hsmall : Rules.SmallCopy e r n)
include hsmall

theorem smallCopy_dstRow : r.dstRow = n := by
  obtain ⟨hop, -, -, -, hcvt, -, hlen, -⟩ := hsmall
  rw [DescRun.dstRow_of_plain hop hcvt, hlen]

/-- Its only row stands where the descriptor says. -/
theorem smallCopy_row (m : Spm) (hcur : r.cur = { i2 := 0, i1 := 0, off := 0, row := none }) :
    r.row e m = .inl (r.srcAddr, r.dstAddr) := by
  obtain ⟨hop, -⟩ := hsmall
  have hzero : ∀ a b : Int, ((0 : Nat) : Int) * a + ((0 : Nat) : Int) * b = 0 := fun a b => by simp
  simp only [DescRun.row, DescRun.newRow, hcur, hop, hzero, addrPlus_zero r.srcAddr_lt, addrPlus_zero r.dstAddr_lt]

theorem smallCopy_pieceLen (hcur : r.cur = { i2 := 0, i1 := 0, off := 0, row := none }) : r.pieceLen r.dstAddr = n := by
  have hrow := smallCopy_dstRow hsmall
  obtain ⟨-, -, -, -, -, -, -, -, hfits, -⟩ := hsmall
  simp only [DescRun.pieceLen, hrow, hcur]
  omega

/-- Its one granule is the last of the descriptor. -/
theorem smallCopy_advance (hcur : r.cur = { i2 := 0, i1 := 0, off := 0, row := none }) (x : Nat × Nat) : r.advance x n = none := by
  have hrow := smallCopy_dstRow hsmall
  obtain ⟨-, -, -, hdims, -⟩ := hsmall
  simp [DescRun.advance, hrow, hcur, DescRun.rows1, DescRun.rows2, hdims]

theorem smallCopy_segments : r.segments r.srcAddr n = [(r.srcAddr, n)] := by
  obtain ⟨hop, hssp, -⟩ := hsmall
  simp [DescRun.segments, hop, hssp]

theorem smallCopy_source : placeOf e r.ssp r.srcAddr n false = .own r.srcAddr := by
  obtain ⟨-, hssp, -, -, -, -, -, -, -, hfits, -⟩ := hsmall
  rw [hssp, placeOf_own hfits]

theorem smallCopy_dstPlace : r.dstPlace e r.dstAddr n = .own r.dstAddr := by
  obtain ⟨hop, -, hdsp, -, -, -, -, -, -, -, hfits⟩ := hsmall
  rw [DescRun.dstPlace, hop, hdsp, placeOf_own hfits]
  rfl

theorem smallCopy_granulesOf : granulesOf r.dstAddr n = 1 := by
  obtain ⟨-, -, -, -, -, -, -, hpos, hfits, -⟩ := hsmall
  unfold granulesOf
  omega

/-- Its source is the core's own scratchpad, and no message is needed for it. -/
theorem smallCopy_askAll (q : Fin 4) (c : Core) :
    c.askAll e q r [(r.srcAddr, n)] = (c.bump, (Rules.copyGranule r n).reads) := by
  have hask : c.ask e q r (r.srcAddr, n) =
      (c.bump, { addr := r.srcAddr, len := n, base := r.srcAddr, key := none, answer := none }) := by
    unfold Core.ask
    simp only [smallCopy_source hsmall]
  simp only [Core.askAll, hask]
  rfl

end

/-! ### Its issue -/

/-- The granule of a small copy is issued, and is the last of its descriptor (R265). -/
theorem Core.issueOne_smallCopy {e : Env} {c : Core} {q : Fin 4} {r : DescRun} {n : Nat} (hsmall : Rules.SmallCopy e r n)
    (h : (c.de.q[q]).descs = [r]) (hcur : r.cur = { i2 := 0, i1 := 0, off := 0, row := none }) (hgrans : r.grans = [])
    (hroom : c.allOut < 256) :
    c.issueOne e q 0 [] r = c.bump.withDescs q [{ r with grans := [Rules.copyGranule r n], allIssued := true }] := by
  have hrow : ¬ r.dstRow = 0 := by
    rw [smallCopy_dstRow hsmall]
    obtain ⟨-, -, -, -, -, -, -, hpos, -⟩ := hsmall
    omega
  have hsource := smallCopy_source hsmall
  have hcvt : r.cvt = false := by
    obtain ⟨-, -, -, -, hcvt, -⟩ := hsmall
    exact hcvt
  have hout : c.dqOut q = 0 := by
    rw [Core.dqOut, h]
    simp [hgrans]
  have hlimits : ¬ (128 < c.dqOut q + granulesOf r.dstAddr n ∨ 256 < c.allOut + granulesOf r.dstAddr n) := by
    rw [hout, smallCopy_granulesOf hsmall]
    omega
  have hoff : r.cur.off = 0 := by rw [hcur]
  have hsrc : addrPlus r.srcAddr ((0 : Nat) : Int) = r.srcAddr := addrPlus_zero r.srcAddr_lt
  have hdst : addrPlus r.dstAddr ((0 : Nat) : Int) = r.dstAddr := addrPlus_zero r.dstAddr_lt
  unfold Core.issueOne
  rw [if_neg hrow]
  simp only [Core.meet_nil, smallCopy_row hsmall _ hcur, hoff, hsrc, hdst, smallCopy_pieceLen hsmall hcur, DescRun.srcBytes_of_plain hcvt,
    smallCopy_segments hsmall, List.findSome?_cons, List.findSome?_nil, hsource, smallCopy_dstPlace hsmall, Place.fault,
    if_neg hlimits, smallCopy_askAll hsmall]
  rw [Core.mapDesc_of_one (c := c.bump) h, smallCopy_advance hsmall hcur, hgrans]
  rfl

/-- A descriptor that has issued every granule issues no more. -/
theorem Core.issueSome_of_issued {c : Core} {q : Fin 4} {r : DescRun} (h : (c.de.q[q]).descs = [r]) (hissued : r.allIssued = true)
    (e : Env) (k : Nat) : c.issueSome e q 0 [] k = c := by
  cases k with
  | zero => rfl
  | succ k =>
    unfold Core.issueSome
    simp [-Fin.getElem_fin, h, hissued]

theorem Core.dqOut_withDescs_other (c : Core) {p q : Fin 4} (ds : List DescRun) (h : p ≠ q) :
    (c.withDescs q ds).dqOut p = c.dqOut p := by
  rw [Core.dqOut, Core.withDescs, c.mapDq_other _ h, Core.dqOut]

/-- The start of a descriptor issues no granule. -/
theorem Core.allOut_started {c : Core} {q : Fin 4} {r : DescRun} (h : (c.de.q[q]).descs = [r]) :
    (c.withDescs q [{ r with started := true }]).allOut = c.allOut := by
  have hout : ∀ p, (c.withDescs q [{ r with started := true }]).dqOut p = c.dqOut p := fun p => by
    by_cases hp : p = q
    · subst hp
      rw [Core.dqOut, Core.withDescs_descs, Core.dqOut, h]
      rfl
    · exact c.dqOut_withDescs_other _ hp
  simp only [Core.allOut, hout]

/-- A small copy that may go on issues its granule and then no more. -/
theorem Core.issueSome_smallCopy {e : Env} {c : Core} {q : Fin 4} {r : DescRun} {n : Nat} (hsmall : Rules.SmallCopy e r n)
    (h : (c.de.q[q]).descs = [r]) (hruns : (c.de.q[q]).halt = false) (hkept : r.abandoned = false) (hopen : r.allIssued = false)
    (hwell : r.faulted = false) (hgrans : r.grans = []) (hcur : r.cur = { i2 := 0, i1 := 0, off := 0, row := none })
    (hroom : c.allOut < 256) (k : Nat) :
    c.issueSome e q 0 [] (k + 1) = c.bump.withDescs q [{ r with grans := [Rules.copyGranule r n], allIssued := true }] := by
  have hgoes : ¬ (r.allIssued || r.faulted || r.abandoned || (c.de.q[q]).halt) = true := by
    rw [hopen, hwell, hkept, hruns]
    exact Bool.false_ne_true
  have hhead : (c.de.q[q]).descs[0]? = some r := by rw [h]; rfl
  unfold Core.issueSome
  rw [hhead]
  refine (if_neg hgoes).trans ?_
  rw [Core.issueOne_smallCopy hsmall h hcur hgrans hroom]
  exact Core.issueSome_of_issued (Core.withDescs_descs _ _ _) rfl e k

/-- The only descriptor of a queue, not yet started and without a stream to wait for, is the one that goes on (R266). -/
theorem Core.issuer_of_new {c : Core} {q : Fin 4} {r : DescRun} (h : (c.de.q[q]).descs = [r]) (hruns : (c.de.q[q]).halt = false)
    (hkept : r.abandoned = false) (hnew : r.started = false) (hcvt : r.cvt = false) : c.issuer q = some (0, r) := by
  have hbegun : [r].findIdx? (fun r => !r.abandoned && r.started && !r.allIssued) = none := by simp [List.findIdx?_cons, hnew]
  have hwaiting : [r].findIdx? (fun r => !r.abandoned && !r.started) = some 0 := by simp [List.findIdx?_cons, hkept, hnew]
  have hmay : c.mayStart q 0 r = true := by simp [Core.mayStart, hcvt]
  simp [Core.issuer, -Fin.getElem_fin, hruns, h, hbegun, hwaiting, hmay]

section
variable {core : CoreId} {q : Fin 4} {r : DescRun} {n : Nat} {s : State} (hcalm : s.calm core = true)
include hcalm

/-- A copy of one granule issues it when it starts (R261, R265). -/
theorem descriptorStart_issues (hsettled : (s.at core).settleStreams = s.at core) (h : ((s.at core).de.q[q]).descs = [r])
    (hruns : ((s.at core).de.q[q]).halt = false) (hreleased : (s.at core).released = true) (hkept : r.abandoned = false)
    (hnew : r.started = false) (hopen : r.allIssued = false) (hwell : r.faulted = false) (hgrans : r.grans = [])
    (hcur : r.cur = { i2 := 0, i1 := 0, off := 0, row := none }) (hroom : (s.at core).allOut < 256)
    (hfirst : (s.at core).givesWay q = false) (hlegal : r.startFault (s.env core) = none)
    (hsmall : Rules.SmallCopy (s.env core) r n) :
    exec (.descriptorStart core q []) s = .next (s.after core
      ((s.at core).bump.mapDesc q 0 (fun r => { r with started := true, allIssued := true, grans := [Rules.copyGranule r n] }))) := by
  have hcvt : r.cvt = false := by
    obtain ⟨-, -, -, -, hcvt, -⟩ := hsmall
    exact hcvt
  have hgoes : ¬ (¬ (s.at core).released = true ∨ (s.at core).givesWay q = true) := by simp [hreleased, hfirst]
  have hone : (((s.at core).withDescs q [{ r with started := true }]).de.q[q]).descs = [{ r with started := true }] :=
    Core.withDescs_descs _ _ _
  have heffect : (s.at core).settleStreams.descriptorStart (s.env core) q [] = (s.at core).bump.mapDesc q 0 (fun r =>
      { r with started := true, allIssued := true, grans := [Rules.copyGranule r n] }) := by
    rw [hsettled, Core.descriptorStart, if_neg hgoes, Core.issuer_of_new h hruns hkept hnew hcvt]
    simp only [hnew, hlegal, Core.mapDesc_of_one h]
    refine (Core.issueSome_smallCopy (r := { r with started := true }) hsmall hone ((Core.withDescs_halt _ _ _).trans hruns) hkept hopen
      hwell hgrans hcur ((Core.allOut_started h).trans_lt hroom) 127).trans ?_
    rw [Core.mapDesc_of_one (c := (s.at core).bump) h]
    exact Core.withDescs_withDescs (s.at core).bump q _ _
  exact onCore_eq_of_effect hcalm heffect (Core.still_of_life rfl (State.still_of_calm hcalm))

end

end Sys2Proof.Machine
end

section
/-! PROOFS. The response to the granule of a small copy moves its bytes, and the granules of one line leave as one message (R265,
R330, R366). -/

namespace Sys2Proof.Machine

/-! ### Steps of a quiet core, one behind the other -/

theorem State.at_after {s : State} {id : CoreId} {d : Core} (hlife : d.life = (s.at id).life) : (s.after id d).at id = d := by
  have hout : d.out = Outbox.empty := congrArg Life.out hlife
  rw [State.at, State.core_after, ← hout]

/-- A step that leaves the life of a quiet core alone leaves it quiet. -/
theorem State.quiet_after {s : State} {id : CoreId} {d : Core} (h : s.quiet id = true) (hlife : d.life = (s.at id).life) :
    (s.after id d).quiet id = true := by
  have hstill := Core.still_of_life hlife (State.still_of_quiet h)
  simp only [Core.still, Bool.and_eq_true] at hstill
  obtain ⟨⟨⟨hhalts, hfinished⟩, hended⟩, -⟩ := hstill
  have hassigned : s.assigned id = true := State.assigned_of_quiet h
  simp only [State.quiet, State.core_after, Bool.and_eq_true]
  exact ⟨⟨⟨hassigned, hhalts⟩, hfinished⟩, hended⟩

theorem State.quiet_of_calm {s : State} {id : CoreId} (h : s.calm id = true) : s.quiet id = true := by
  simp only [State.calm, Bool.and_eq_true] at h
  exact h.1

/-- The step of a quiet core as the state that it leaves. -/
theorem State.onCore_of_quiet {s : State} {id : CoreId} {f : Env → Core → Core} (h : s.quiet id = true)
    (hl : (f (s.env id) (s.at id)).life = (s.at id).life) : s.onCore id f = s.after id (f (s.env id) (s.at id)) :=
  Host.Outcome.next.inj (Machine.onCore_of_quiet h hl)

/-! ### Answers that are not for the granule -/

/-- A granule whose parts are not carried by messages takes no answer (R265). -/
theorem Core.setAnswer_queue {c : Core} {p q : Fin 4} {r : DescRun} (h : (c.de.q[q]).descs = [r])
    (hown : ∀ g ∈ r.grans, (∀ x ∈ g.reads, x.key = none) ∧ g.write = none) (key : Nat) (o : GranuleOutcome) (x : Payload) :
    ((c.setAnswer p key o x).de.q[q]).descs = [r] := by
  have hparts : ∀ g ∈ r.grans,
      ({ g with reads := g.reads.map (Part.answered key o x), write := g.write.map (Part.answered key o x) } : Granule) = g := fun g hg => by
    obtain ⟨hreads, hwrite⟩ := hown g hg
    have hsame : g.reads.map (Part.answered key o x) = g.reads :=
      (List.map_congr_left fun y hy => by simp [Part.answered, hreads y hy]).trans (List.map_id' _)
    rw [hsame, hwrite, Option.map_none, ← hwrite]
  have hgrans : r.grans.map (fun g =>
      { g with reads := g.reads.map (Part.answered key o x), write := g.write.map (Part.answered key o x) }) = r.grans :=
    (List.map_congr_left hparts).trans (List.map_id' _)
  by_cases hq : q = p
  · subst hq
    rw [Core.setAnswer, Core.mapDq_same, h, List.map_singleton, hgrans]
  · rw [Core.setAnswer, c.mapDq_other _ hq, h]

/-- What the answers of other cores leave alone in a core whose queue `q` waits for none. -/
theorem Core.takeGrans_keeps {c : Core} {q : Fin 4} {r : DescRun} (h : (c.de.q[q]).descs = [r])
    (hown : ∀ g ∈ r.grans, (∀ x ∈ g.reads, x.key = none) ∧ g.write = none) :
    c.takeGrans.life = c.life ∧ c.takeGrans.spm.mem = c.spm.mem ∧ c.takeGrans.spm.poison = c.spm.poison ∧
      (c.takeGrans.de.q[q]).descs = [r] := by
  refine List.foldlRecOn (motive := fun d : Core => d.life = c.life ∧ d.spm.mem = c.spm.mem ∧ d.spm.poison = c.spm.poison ∧
    (d.de.q[q]).descs = [r]) c.spm.remote _ ⟨rfl, rfl, rfl, h⟩ (fun d hd x _ => ?_)
  obtain ⟨hlife, hmem, hpoison, hdescs⟩ := hd
  split
  · split
    · exact ⟨hlife, hmem, hpoison, Core.setAnswer_queue (c := d.mapSpm _) hdescs hown _ _ _⟩
    · exact ⟨hlife, hmem, hpoison, hdescs⟩
  · exact ⟨hlife, hmem, hpoison, hdescs⟩

theorem Core.takeGrans_nil {c : Core} (h : c.spm.remote = []) : c.takeGrans = c := by
  rw [Core.takeGrans, h]
  rfl

/-! ### The bytes of a small copy -/

@[simp] theorem Core.granted_de (c : Core) (port : SpmPort) (rs : List (Nat × Nat)) : (c.granted port rs).de = c.de := by
  refine foldl_keeps Core.de _ (fun d b => ?_) _ c
  split <;> rfl

/-- The only granule of the only descriptor of a queue leaves it. -/
theorem Core.dropGran_of_one {c : Core} {q : Fin 4} {r : DescRun} {g : Granule} (h : (c.de.q[q]).descs = [r])
    (hgrans : r.grans = [g]) (hkept : r.abandoned = false) :
    c.dropGran q 0 0 = (c.withDescs q [{ r with grans := [] }]).settleStreams := by
  refine congrArg Core.settleStreams ((Core.mapDq_mapDq c q _ _).trans (Core.mapDq_congr ?_))
  rw [h]
  simp [hgrans, dropAbandoned, hkept]

/-- The bytes of the only granule of a queue are put, what they overwrite is noted, and the granule leaves (R262). -/
theorem Core.putNoted_of_one {c : Core} {q : Fin 4} {r : DescRun} {g : Granule} (h : (c.de.q[q]).descs = [r])
    (hgrans : r.grans = [g]) (hkept : r.abandoned = false) (off : Nat) (old : List Byte) (x : Payload) :
    (((c.mapDesc q 0 (fun r => r.note off old)).mapSpm (fun m => m.put off x)).dropGran q 0 0).life = c.life ∧
      (((c.mapDesc q 0 (fun r => r.note off old)).mapSpm (fun m => m.put off x)).dropGran q 0 0).spm.mem =
        memWriteN c.spm.mem off x.bytes ∧
      (((((c.mapDesc q 0 (fun r => r.note off old)).mapSpm (fun m => m.put off x)).dropGran q 0 0).de.q[q]).descs).map
        (fun d => d.grans) = [[]] := by
  have hnoted : (((c.mapDesc q 0 (fun r => r.note off old)).mapSpm (fun m => m.put off x)).de.q[q]).descs = [r.note off old] := by
    rw [Core.mapSpm_de, Core.mapDesc_of_one h, Core.withDescs_descs]
  rw [Core.dropGran_of_one hnoted hgrans hkept, Core.settleStreams_spm, Core.settleStreams_de, Core.withDescs_descs]
  exact ⟨Core.life_settleStreams _, rfl, rfl⟩

/-- The write of a granule to the core's own scratchpad, neither reduced nor converted (R262, R265). -/
theorem Core.writeOwn_of_one {c : Core} {q : Fin 4} {r : DescRun} {g : Granule} (h : (c.de.q[q]).descs = [r])
    (hgrans : r.grans = [g]) (hkept : r.abandoned = false) (hssp : r.ssp = 0) (hred : r.red = false) (off : Nat) (x : Payload) :
    (c.writeOwn q 0 0 r off x []).life = c.life ∧
      (c.writeOwn q 0 0 r off x []).spm.mem = memWriteN c.spm.mem off x.bytes ∧
      (((c.writeOwn q 0 0 r off x []).de.q[q]).descs).map (fun d => d.grans) = [[]] := by
  have hsource : r.ssp ≤ 1 := by omega
  have hgranted : ((c.granted .dma [(off, x.bytes.length)]).de.q[q]).descs = [r] := by rw [Core.granted_de, h]
  obtain ⟨hmem, -⟩ := c.granted_data .dma [(off, x.bytes.length)]
  rw [← hmem, ← c.life_granted .dma [(off, x.bytes.length)]]
  unfold Core.writeOwn
  simp only [hred, if_pos hsource, Bool.false_eq_true, if_false, Core.unverified_nil]
  exact Core.putNoted_of_one hgranted hgrans hkept off _ x

/-- A clean part of the core's own scratchpad, read whole. -/
theorem Spm.get_clean {m : Spm} (h : m.poison = []) (a n : Nat) : m.get a n = .clean (memReadN m.mem a n) := by
  simp [Spm.get, payloadOf, h, nhas, Payload.clean]

/-- The source of a small copy whose descriptor has overwritten nothing is what the scratchpad holds (R262). -/
theorem State.gather_smallCopy {e : Env} {r : DescRun} {n : Nat} (hsmall : Rules.SmallCopy e r n) (hbefore : r.before = [])
    (s : State) {c : Core} (hclean : c.spm.poison = []) :
    s.gather e c r (Rules.copyGranule r n) = .clean (memReadN c.spm.mem r.srcAddr n) := by
  have hpart : s.partData e c r { addr := r.srcAddr, len := n, base := r.srcAddr, key := none, answer := none } =
      .clean (memReadN c.spm.mem r.srcAddr n) := by
    simp only [State.partData, smallCopy_source hsmall, Spm.get_clean hclean, DescRun.older, hbefore]
    rfl
  have hcopy : ¬ r.op = 1 := by
    obtain ⟨hop, -⟩ := hsmall
    omega
  simp only [State.gather, if_neg hcopy, Rules.copyGranule, List.map_cons, List.map_nil, hpart]
  simp [Payload.clean, ninsAll]

/-! ### The response to a small copy -/

section
variable {core : CoreId} {q : Fin 4} {r : DescRun} {n : Nat} {s : State}

/-- The granule of a small copy waits for nothing: no write of its queue has an answer, no message and no write to external memory
is due, and its data may be carried on. -/
theorem State.next_smallCopy (h : ((s.core core).de.q[q]).descs = [r]) (hgrans : r.grans = [Rules.copyGranule r n])
    (hsmall : Rules.SmallCopy (s.env core) r n) :
    (s.core core).findGran q Granule.writeDone = none ∧ (s.core core).lineNext q = none ∧ s.extNext core q = none ∧
      (s.core core).nextGran q = some (0, 0, r, Rules.copyGranule r n) := by
  have hplace : r.extAddr (s.env core) (Rules.copyGranule r n) = none := by
    show (match r.dstPlace (s.env core) r.dstAddr n with | .ext a | .code a => _ | _ => none) = none
    rw [smallCopy_dstPlace hsmall]
  obtain ⟨-, -, hdsp, -, hcvt, -⟩ := hsmall
  refine ⟨?_, ?_, ?_, ?_⟩
  · simp [Core.findGran, -Fin.getElem_fin, h, hgrans, Rules.copyGranule, Granule.writeDone]
  · simp [Core.lineNext, -Fin.getElem_fin, h, hdsp]
  · simp [State.extNext, -Fin.getElem_fin, h, hgrans, hplace]
  · simp [Core.nextGran, -Fin.getElem_fin, h, hgrans, hcvt, Rules.copyGranule, Granule.carried, Granule.readDone]

/-- The read of a small copy is granted its banks, and meets nothing. -/
theorem State.meetSources_smallCopy (hquiet : s.quiet core = true) (hsmall : Rules.SmallCopy (s.env core) r n) :
    s.meetSources core r (Rules.copyGranule r n) [] .clean =
      s.after core ((s.at core).granted .dma [(r.srcAddr, n)]) := by
  have hcopy : ¬ r.op = 1 := by
    obtain ⟨hop, -⟩ := hsmall
    omega
  simp only [State.meetSources, if_neg hcopy, Rules.copyGranule, List.map_cons, List.map_nil, smallCopy_source hsmall, List.zip_cons_cons,
    List.zip_nil_right, List.filterMap_cons, List.filterMap_nil, List.findSome?_cons, List.findSome?_nil]
  exact State.onCore_of_quiet (f := fun _ c => (c.meet _ []).granted .dma _) hquiet (Core.life_granted _ _ _)

/-- The data of a small copy is written as it came. -/
theorem State.landed_smallCopy (hquiet : s.quiet core = true) (hsmall : Rules.SmallCopy (s.env core) r n) (x : List Byte)
    (hlife : ((s.at core).writeOwn q 0 0 r r.dstAddr (.clean x) []).life = (s.at core).life) :
    s.landed core q 0 0 r (Rules.copyGranule r n) (.clean x) [] =
      s.after core ((s.at core).writeOwn q 0 0 r r.dstAddr (.clean x) []) := by
  have hplace := smallCopy_dstPlace hsmall
  obtain ⟨-, -, -, -, hcvt, -⟩ := hsmall
  have hsound : ¬ ((r.red = true ∨ r.dsp = 3) ∧ (Payload.clean x).poison ≠ []) := fun k => k.2 rfl
  have hwhere : r.dstPlace (s.env core) (Rules.copyGranule r n).dst (Rules.copyGranule r n).len = .own r.dstAddr := hplace
  unfold State.landed
  simp only [if_neg hsound, hwhere, hcvt, Bool.false_and, Bool.false_eq_true, if_false]
  exact State.onCore_of_quiet (f := fun _ c => c.writeOwn q 0 0 r r.dstAddr _ []) hquiet hlife

/-- A small copy whose turn has come is read and written. -/
theorem State.carried_smallCopy (hquiet : s.quiet core = true) (h : ((s.at core).de.q[q]).descs = [r])
    (hgrans : r.grans = [Rules.copyGranule r n]) (hbefore : r.before = []) (hkept : r.abandoned = false)
    (hsmall : Rules.SmallCopy (s.env core) r n) (hclean : (s.at core).spm.poison = []) {t : State}
    (ht : t = s.meetSources core r (Rules.copyGranule r n) [] .clean) :
    ∃ c d, t.landed core q 0 0 r (Rules.copyGranule r n) (t.gather (t.env core) (t.core core) r (Rules.copyGranule r n)) [] =
        (s.after core c).after core d ∧
      d.spm.mem = memWriteN (s.at core).spm.mem r.dstAddr (memReadN (s.at core).spm.mem r.srcAddr n) ∧
      ((d.de.q[q]).descs).map (fun d => d.grans) = [[]] := by
  obtain ⟨hmem, hpoison⟩ := (s.at core).granted_data .dma [(r.srcAddr, n)]
  have hlife := (s.at core).life_granted .dma [(r.srcAddr, n)]
  have hdescs : (((s.at core).granted .dma [(r.srcAddr, n)]).de.q[q]).descs = [r] := by rw [Core.granted_de, h]
  have hat := State.at_after hlife
  have hred : r.red = false := by
    obtain ⟨-, -, -, -, -, hred, -⟩ := hsmall
    exact hred
  have hssp : r.ssp = 0 := by
    obtain ⟨-, hssp, -⟩ := hsmall
    exact hssp
  obtain ⟨hwritten, hbytes, hgone⟩ := Core.writeOwn_of_one hdescs hgrans hkept hssp hred r.dstAddr
    (.clean (memReadN (s.at core).spm.mem r.srcAddr n))
  rw [State.meetSources_smallCopy hquiet hsmall] at ht
  subst ht
  rw [hmem] at hbytes
  refine ⟨(s.at core).granted .dma [(r.srcAddr, n)], ((s.at core).granted .dma [(r.srcAddr, n)]).writeOwn q 0 0 r r.dstAddr
    (.clean (memReadN (s.at core).spm.mem r.srcAddr n)) [], ?_, hbytes, hgone⟩
  have hsmall' : Rules.SmallCopy ((s.after core ((s.at core).granted .dma [(r.srcAddr, n)])).env core) r n := hsmall
  rw [State.core_after, State.gather_smallCopy hsmall' hbefore _ (hpoison.trans hclean), hmem]
  refine (State.landed_smallCopy (State.quiet_after hquiet hlife) hsmall' _ ?_).trans ?_
  · rw [hat]
    exact hwritten
  · rw [hat]

/-- The response to the granule of a small copy moves its bytes, and the granule has then left (R262, R265). -/
theorem dmaGranuleResponse_copies (hcalm : s.calm core = true) (h : ((s.at core).de.q[q]).descs = [r])
    (hgrans : r.grans = [Rules.copyGranule r n]) (hbefore : r.before = []) (hkept : r.abandoned = false)
    (hsmall : Rules.SmallCopy (s.env core) r n) (hclean : (s.at core).spm.poison = []) :
    ∃ s', exec (.dmaGranuleResponse core q [] .clean .intact) s = .next s' ∧
      (s'.core core).spm.mem = memWriteN (s.at core).spm.mem r.dstAddr (memReadN (s.at core).spm.mem r.srcAddr n) ∧
      ((s'.core core).de.q[q]).descs.map (fun d => d.grans) = [[]] ∧
      (∀ other, other ≠ core → s'.core other = s.core other) := by
  have hown : ∀ g ∈ r.grans, (∀ x ∈ g.reads, x.key = none) ∧ g.write = none := by simp [hgrans, Rules.copyGranule]
  obtain ⟨hlife, hmem, hpoison, hdescs⟩ := Core.takeGrans_keeps h hown
  have htake : s.onCore core (fun _ c => c.takeGrans) = s.after core (s.at core).takeGrans :=
    State.onCore_of_life (f := fun _ c => c.takeGrans) hcalm hlife
  have hquiet := State.quiet_after (State.quiet_of_calm hcalm) hlife
  have hat : (s.after core (s.at core).takeGrans).at core = (s.at core).takeGrans := State.at_after hlife
  obtain ⟨hfind, hline, hext, hnext⟩ := State.next_smallCopy (s := s.after core (s.at core).takeGrans) (q := q) (r := r) (n := n)
    (by rw [State.core_after, hdescs]) hgrans hsmall
  obtain ⟨c, d, hcarried, hbytes, hgone⟩ := State.carried_smallCopy hquiet (by rw [hat, hdescs]) hgrans hbefore hkept hsmall
    (by rw [hat, hpoison, hclean]) rfl
  have hresponse : s.granuleResponse core q [] .clean .intact = ((s.after core (s.at core).takeGrans).after core c).after core d := by
    unfold State.granuleResponse
    simp only [htake, hfind, hline, hext, hnext]
    exact hcarried
  refine ⟨_, congrArg Host.Outcome.next ((if_pos (State.assigned_of_calm hcalm)).trans hresponse), ?_⟩
  rw [hat, hmem] at hbytes
  rw [State.core_after]
  refine ⟨hbytes, hgone, fun other hother => ?_⟩
  rw [State.core_after_other _ _ hother, State.core_after_other _ _ hother, State.core_after_other _ _ hother]

end

end Sys2Proof.Machine
end

section
/-! PROOFS. Granules of one line of 256 bytes leave over the links as one message (R330, R366); and the obligation of the DMA queues. -/

namespace Sys2Proof.Machine

/-! ### A step that sends a message over the links -/

/-- A step of a quiet core that sends one message over the links leaves the core as its effect does, and the message waits at the
forwarding switch of its home E-die (R312). -/
theorem State.onCore_sending {s : State} {id : CoreId} {f : Env → Core → Core} {d : Core} {l : LinkAsk} (hquiet : s.quiet id = true)
    (hf : f (s.env id) (s.at id) = d.sendLink l) (hlife : d.life = (s.at id).life) :
    s.onCore id f = (s.after id d).sendLink id l := by
  have hstill := Core.still_of_life hlife (State.still_of_quiet hquiet)
  simp only [Core.still, Bool.and_eq_true, Core.allTh_iff, decide_eq_true_eq, Bool.not_eq_true'] at hstill
  obtain ⟨⟨⟨hhalts, hfinished⟩, hended⟩, hout⟩ := hstill
  have hfinished' : (d.sendLink l).finished = false := hfinished
  have hsettle : (d.sendLink l).settle (s.env id) = d.sendLink l := by
    have hended' : (d.sendLink l).ended = false := hended
    rw [Core.settle_of_unasked (c := d.sendLink l) _ hhalts, hended', Bool.or_false]
  have hlinks : (d.sendLink l).out = { Outbox.empty with links := [l] } := by
    rw [Core.sendLink, hout]
    rfl
  have hself : ({ d.sendLink l with out := Outbox.empty } : Core) = d := by rw [← hout]; rfl
  rw [State.onCore, if_pos (State.assigned_of_quiet hquiet)]
  show (State.setCore { s with fresh := s.fresh + 1 } id ((f (s.env id) (s.at id)).settle (s.env id))).drain id = _
  rw [hf, hsettle]
  have hget : (State.setCore { s with fresh := s.fresh + 1 } id (d.sendLink l)).core id = d.sendLink l := tget_tset_same _ _ _ _
  have hset : (State.setCore { s with fresh := s.fresh + 1 } id (d.sendLink l)).setCore id d = s.after id d := by
    simp [State.setCore, State.after, tset_tset]
  simp only [State.drain, hget, hself, hset]
  rw [hlinks, hfinished']
  rfl

/-! ### One line -/

/-- A granule that has left over the links in the message `key`. -/
def Granule.sent (key : Nat) (g : Granule) : Granule :=
  { g with data := none, write := some { addr := g.dst, len := g.len, base := g.dst, key := some key, answer := none } }

section
variable {e : Env} {q : Fin 4} {r : DescRun} {g h : Granule} {x y : List Byte} {p : ModuleId × Bool × Nat}
  (hline : Rules.OneLine e r g h x y p)
include hline

/-- Two held granules of one line, behind which none comes, are ready to leave (R330). -/
theorem oneLine_ready (halt : Bool) : r.lineReady halt = some (0, [g, h]) := by
  obtain ⟨-, -, hgrans, hissued, hg, hh, hgw, hhw, hnext, hinside, -⟩ := hline
  have hrun : runOf g [h] = ([g, h], none) := by simp [runOf, hh, hnext, hnext ▸ hinside]
  unfold DescRun.lineReady
  simp [hgrans, hgw, hg, hrun, hissued]

/-- They leave as one message with the bytes of both (R366). -/
theorem oneLine_away {c : Core} (hone : (c.de.q[q]).descs = [r]) :
    ∃ l : LinkAsk, l.data = x ++ y ∧ c.lineAway e q 0 r (0, [g, h]) =
      (c.bump.withDescs q [{ r with grans := [g.sent c.bump.seq, h.sent c.bump.seq] }]).sendLink l := by
  obtain ⟨-, -, hgrans, -, hg, hh, -, -, -, -, hplace⟩ := hline
  have hdata : [g, h].flatMap (fun g => (g.data.getD .empty).bytes) = x ++ y := by
    simp [hg, hh, Payload.clean]
  unfold Core.lineAway
  simp only [hplace, hdata, Core.mapDesc_of_one (c := Core.sendLink _ c.bump) hone, hgrans]
  exact ⟨_, rfl, rfl⟩

end

section
variable {core : CoreId} {q : Fin 4} {r : DescRun} {g h : Granule} {x y : List Byte} {p : ModuleId × Bool × Nat} {s : State}

/-- The response to a queue with two held granules of one line sends them as one message (R330, R366). -/
theorem dmaGranuleResponse_sends_line (hcalm : s.calm core = true) (hone : ((s.at core).de.q[q]).descs = [r])
    (halone : (s.at core).spm.remote = []) (hline : Rules.OneLine (s.env core) r g h x y p) :
    ∃ s' m who, exec (.dmaGranuleResponse core q [] .clean .intact) s = .next s' ∧ m.data = x ++ y ∧
      s'.switch.waiting = s.switch.waiting ++ [{ edie := homeEdie (core.toNat / 256), msg := m, who := who }] ∧
      ((s'.core core).de.q[q]).descs.map (fun d => d.grans.map (fun z => z.write.isSome)) = [[true, true]] := by
  have hquiet := State.quiet_of_calm hcalm
  have htake : s.onCore core (fun _ c => c.takeGrans) = s.after core (s.at core) :=
    (State.onCore_of_quiet (f := fun _ c => c.takeGrans) hquiet (congrArg Core.life (Core.takeGrans_nil halone))).trans
      (congrArg (s.after core) (Core.takeGrans_nil halone))
  have hat : (s.after core (s.at core)).at core = s.at core := State.at_after rfl
  have hquiet' := State.quiet_after (d := s.at core) hquiet rfl
  have hfind : (s.at core).findGran q Granule.writeDone = none := by
    obtain ⟨-, -, hgrans, -, -, -, hgw, hhw, -⟩ := hline
    have hopen : [g, h].findIdx? Granule.writeDone = none := by simp [List.findIdx?_cons, Granule.writeDone, hgw, hhw]
    simp [Core.findGran, -Fin.getElem_fin, hone, hgrans, hopen]
  have hnext : (s.at core).lineNext q = some (0, r, (0, [g, h])) := by
    have hready := oneLine_ready hline ((s.at core).de.q[q]).halt
    obtain ⟨hdsp, hop, -⟩ := hline
    simp [Core.lineNext, -Fin.getElem_fin, hone, hdsp, hop, hready]
  have hline' : Rules.OneLine ((s.after core (s.at core)).env core) r g h x y p := hline
  obtain ⟨l, hdata, haway⟩ := oneLine_away hline' hone
  have hresponse : s.granuleResponse core q [] .clean .intact = (s.after core (s.at core)).onCore core (fun e c =>
      c.lineAway e q 0 r (0, [g, h])) := by
    unfold State.granuleResponse
    simp only [htake, State.core_after, hfind, hnext]
  have hsent := State.onCore_sending (f := fun e c => c.lineAway e q 0 r (0, [g, h])) hquiet' (by rw [hat]; exact haway)
    (by rw [hat]; rfl)
  refine ⟨_, _, _, congrArg Host.Outcome.next ((if_pos (State.assigned_of_calm hcalm)).trans (hresponse.trans hsent)), hdata, rfl, ?_⟩
  show ((((State.after _ core _).core core).de.q[q]).descs).map (fun d => d.grans.map (fun z => z.write.isSome)) = _
  rw [State.core_after, Core.withDescs_descs]
  rfl

end

/-- Settles O23: each clause is the lemma above about its step. -/
theorem descriptorsMoveBytesAndComplete : Obligations.DescriptorsMoveBytesAndComplete := by
  unfold Obligations.DescriptorsMoveBytesAndComplete
  exact ⟨fun _ _ _ _ => denq_enqueues,
    fun _ _ _ _ _ hcalm hsettled => descriptorStart_issues hcalm hsettled,
    fun _ _ _ _ _ hcalm hone => dmaGranuleResponse_copies hcalm hone,
    fun _ _ _ _ hcalm hone => descriptorComplete_plain hcalm hone,
    fun _ _ _ _ hcalm hone => descriptorComplete_event hcalm hone,
    fun _ _ _ _ hcalm hone => descriptorChainRead_reads hcalm hone,
    fun _ _ _ _ _ _ hcalm hfill => dmaSlotFill_serves hcalm hfill,
    fun _ _ _ _ _ hcalm hfill => dmaSlotFill_retries hcalm hfill,
    fun _ _ _ _ hcalm hone => descriptorComplete_fill_waits hcalm hone,
    fun _ _ _ _ _ hcalm hqueue => descriptorComplete_loads hcalm hqueue,
    fun _ _ _ _ _ _ _ _ _ hcalm hone => dmaGranuleResponse_sends_line hcalm hone⟩

end Sys2Proof.Machine
end

section
/-! PROOFS. The record of a lost E-die merges with the last record of the same fault, whatever the severity of that one (R511, R516). -/

namespace Sys2Proof.Machine

/-- A record that names the loss of E-die 0 as bring-up does (Table 17-5), but of severity deferred. -/
def deferredLoss : Record := { State.reset.entry (lossEvent (.edie 0)) with sev := 1 }

/-- The block in stage D with the firmware of MP-A running, and that record the last of its log. -/
def deferredLossState : State :=
  { State.reset with
    board := { Board.reset with stage := .d, resetN := true, charged := true }
    sec := { Security.reset with images := { Images.reset with running := Images.reset.running.set 0 (some 0) } }
    errs := { ErrLog.reset with log := [deferredLoss], next := 1 } }

/-- The severities of the log's entries after a step. -/
def severitiesAfter : Out → List (BitVec 2)
  | .next s => s.errs.log.map (fun r => r.sev)
  | _ => []

theorem deferredLossState_inStageD : deferredLossState.board.stage = .d ∧ deferredLossState.firmwareUp = true := by decide +kernel

/-- The loss counts as one further occurrence of the record, which stays of severity deferred. -/
theorem configRestore_merges_loss : severitiesAfter (exec (.configRestore [] [.edie 0]) deferredLossState) = [1] := by decide +kernel

/-- Refutes O51: its clause on a lost E-die says of every state that the log then holds the fatal record, while the model merges the
loss with a last record of the same fault without a look at its severity (R516); `deferredLossState` holds such a record. No bring-up
leaves one: the records of a loss that it logs are all of severity fatal-to-module. -/
theorem not_bringUpGoesStageByStage : ¬ Obligations.BringUpGoesStageByStage := by
  unfold Obligations.BringUpGoesStageByStage
  rintro ⟨-, -, -, -, -, -, -, -, -, hlost⟩
  obtain ⟨hstage, hup⟩ := deferredLossState_inStageD
  obtain ⟨s', hexec, -, -, -, r, hlogged, hfatal, -⟩ := hlost 0 deferredLossState hstage hup
  have hsev : s'.errs.log.map (fun r => r.sev) = [1] := by
    have hmodel := configRestore_merges_loss
    rwa [hexec] at hmodel
  have hmem : r.sev ∈ s'.errs.log.map (fun r => r.sev) := List.mem_map_of_mem hlogged
  rw [hsev, hfatal] at hmem
  exact absurd hmem (by decide)

end Sys2Proof.Machine
end

section
/-! PROOFS. Records and the state outside the cores: ports and dies that they leave alone, what a fatal record counts, and the cores that a
job keeps (R473, R516, R518). -/

namespace Sys2Proof.Machine

/-! ### Ports and dies -/

@[simp] theorem State.port_mapPort_same (s : State) (p : Fin 48) (f : Port → Port) : (s.mapPort p f).port p = f (s.port p) :=
  tget_tset_same _ _ _ _

@[simp] theorem State.die_mapDie_same (s : State) (d : Nat) (f : Die → Die) : (s.mapDie d f).die d = f (s.die d) :=
  tget_tset_same _ _ _ _

theorem State.mapPort_congr {s : State} {p : Fin 48} {f g : Port → Port} (h : f (s.port p) = g (s.port p)) :
    s.mapPort p f = s.mapPort p g := by
  rw [State.mapPort, State.mapPort, h]

theorem State.ports_unrecorded : Unrecorded State.ports where
  errs _ _ := rfl
  host _ _ := rfl
  switch _ _ := rfl
  events _ _ _ _ := rfl
  box s src b := by cases src <;> rfl
  job _ _ _ := rfl

theorem State.dies_unrecorded : Unrecorded State.dies where
  errs _ _ := rfl
  host _ _ := rfl
  switch _ _ := rfl
  events _ _ _ _ := rfl
  box s src b := by cases src <;> rfl
  job _ _ _ := rfl

/-- A record leaves the ports alone, whatever its severity (R518). -/
theorem State.log_ports (s : State) (x : Event) : (s.log x).ports = s.ports :=
  State.ports_unrecorded.log_of_cores (fun _ _ => rfl) (fun _ _ _ => rfl) s x

/-- A record leaves the dies alone, whatever its severity (R518). -/
theorem State.log_dies (s : State) (x : Event) : (s.log x).dies = s.dies :=
  State.dies_unrecorded.log_of_cores (fun _ _ => rfl) (fun _ _ _ => rfl) s x

theorem State.log_port (s : State) (x : Event) (p : Fin 48) : (s.log x).port p = s.port p := by
  rw [State.port, State.log_ports]
  rfl

theorem State.log_die (s : State) (x : Event) (d : Nat) : (s.log x).die d = s.die d := by
  rw [State.die, State.log_dies]
  rfl

/-! ### What a fatal severity does -/

/-- A quantity of the block that the fault of a job leaves alone: no core's, and nothing of what the processor keeps of fatal records and
safety actions; neither do an entry of the log and the state of a job belong to it (R473). -/
structure Unfaulted {γ : Type} (g : State → γ) : Prop where
  core : ∀ s id c, g (s.setCore id c) = g s
  faulted : ∀ s j, g (s.mapJob j (fun b => { b with st := .faulted })) = g s
  mp : ∀ s f l, g { s with mp := { s.mp with fatal := f, safety := l } } = g s
  put : ∀ s x, g (s.logPut x) = g s

namespace Unfaulted

variable {γ : Type} {g : State → γ} (hg : Unfaulted g)
include hg

theorem faultJob (s : State) (j : Fin 8) : g (s.faultJob j) = g s := by
  have hhold : g (s.holdCores j) = g s := foldl_keeps g
    (fun (s : State) (x : CoreId × Bool × Word) => s.setCore x.1 ((s.core x.1).halted (s.env x.1))) (fun s _ => hg.core s _ _) _ s
  have hfaults : g ((((s.holdCores j).mapJob j (fun b => { b with st := .faulted })).safetyAction (.job (j.val + 1))).logPut
      (noticeEvent 0x0803 (j.val + 1) [4])) = g s :=
    (hg.put _ _).trans ((hg.mp _ _ _).trans ((hg.faulted _ _).trans hhold))
  unfold State.faultJob
  split
  · exact hfaults
  · exact hfaults
  · exact hfaults
  · rfl

theorem severity (s : State) (x : Event) : g (s.severity x) = g s := by
  have hall : g (({ s with mp := { s.mp with fatal := true } } : State).faultAll) = g s :=
    (foldl_keeps g _ hg.faultJob _ _).trans (hg.mp s true s.mp.safety)
  exact ite_keeps rfl (ite_keeps (ite_keeps rfl (hg.faultJob s _)) (ite_keeps hall rfl))

end Unfaulted

/-! ### Counts -/

theorem State.counts_unfaulted : Unfaulted (fun s : State => s.errs.counts) where
  core _ _ _ := rfl
  faulted _ _ := rfl
  mp _ _ _ := rfl
  put s x := s.logPut_counts x

theorem State.noteFatal_errs (s : State) (n : Nat) (i : Word) : (s.noteFatal n i).errs = s.errs := ite_keeps (g := State.errs) rfl rfl

/-- A record of the module itself, of severity deferred or higher, counts in no other severity (R476, R516). -/
theorem State.log_counts_other {x : Event} (hrecord : x.notice = false) (hcore : x.core = none) (hsev : x.sev ≠ 0) {k : Fin 4}
    (hk : severityCount x.sev ≠ k) (s : State) : (s.log x).errs.counts[k] = s.errs.counts[k] := by
  unfold State.log
  rw [if_neg (Bool.eq_false_iff.mp hrecord)]
  extract_lets s₁ merged w errs₁ s₂ errs₂ s₃ y s₄
  have h₁ : s₁.errs.counts[k] = s.errs.counts[k] := s.tally_counts_other hk
  have h₃ : s₃.errs.counts = s₁.errs.counts := by
    refine ite_keeps (g := fun t : State => t.errs.counts) (a := s₂) rfl
      (ite_keeps (g := fun t : State => t.errs.counts) (a := s₂) ?_ rfl)
    rw [State.noteFatal_errs, State.logPut_counts]
  have h₄ : s₄ = s₃ := by
    have hrate : w.2.2 = false := by
      show (if x.sev = 0 then _ else _ : _ × _ × _).2.2 = false
      rw [if_neg hsev]
    show (if w.2.2 = true then _ else s₃ : State) = s₃
    rw [hrate]
    rfl
  rw [State.coreCandidate_of_no_core _ hcore, ite_self]
  exact (congrArg (·[k]) (State.counts_unfaulted.severity _ x)).trans (by rw [h₄, h₃, h₁])

/-! ### The cores of the jobs -/

/-- The cores of each job of the table. -/
def State.jobCores (s : State) : Vector (List (CoreId × Bool × Word)) 8 := s.mp.jobs.map (fun j => j.cores)

/-- A job that changes but for its cores. -/
theorem State.mapJob_jobCores (s : State) (j : Fin 8) {f : Job → Job} (h : ∀ b, (f b).cores = b.cores) :
    (s.mapJob j f).jobCores = s.jobCores := by
  ext i hi : 1
  simp only [State.jobCores, State.mapJob, Vector.getElem_map, Vector.getElem_set]
  split_ifs with hij
  · rw [h]
    simp [hij]
  · rfl

/-- An entry of the log leaves what the processor keeps alone (R514, R519). -/
theorem State.logPut_mp (s : State) (x : Event) : (s.logPut x).mp = s.mp := by
  have hring : ∀ (s : State) (r : Record), (s.ringPut r).mp = s.mp := fun s r =>
    ite_keeps (g := State.mp) rfl (ite_keeps (g := State.mp) rfl (ite_keeps (g := State.mp) rfl rfl))
  have hnotice : ∀ (s : State) (r : Record), (s.noticePut r).mp = s.mp := fun s r => by
    refine ite_keeps (g := State.mp) rfl (foldl_keeps State.mp _ (fun s k => ?_) _ s)
    cases s.active.manager k <;> rfl
  have hbmc : ∀ (s : State) (r : Record), (s.bmcPut r).mp = s.mp := fun s r =>
    ite_keeps (g := State.mp) rfl (ite_keeps (g := State.mp) rfl rfl)
  rw [State.logPut, hbmc, hnotice, hring]

theorem State.logPut_jobCores (s : State) (x : Event) : (s.logPut x).jobCores = s.jobCores :=
  congrArg (fun m : Mp => m.jobs.map (fun j : Job => j.cores)) (s.logPut_mp x)

theorem State.noteFatal_jobCores (s : State) (n : Nat) (i : Word) : (s.noteFatal n i).jobCores = s.jobCores := by
  unfold State.noteFatal
  split_ifs
  · rfl
  · refine s.mapJob_jobCores _ fun b => ?_
    split_ifs <;> rfl

theorem State.coreCandidate_jobCores (s : State) (x : Event) : (s.coreCandidate x).jobCores = s.jobCores := by
  unfold State.coreCandidate
  split
  · exact ite_keeps (g := State.jobCores) (ite_keeps (g := State.jobCores) (State.logPut_jobCores _ _) rfl) rfl
  · rfl

theorem State.jobCores_unfaulted : Unfaulted State.jobCores where
  core _ _ _ := rfl
  faulted s j := s.mapJob_jobCores j fun _ => rfl
  mp _ _ _ := rfl
  put := State.logPut_jobCores

/-- A record takes no core from a job and gives it none, whatever its severity (R473, R518). -/
theorem State.log_jobCores (s : State) (x : Event) : (s.log x).jobCores = s.jobCores := by
  have hput : ∀ (n : Nat) (i : Word) (t : State), ((t.logPut x).noteFatal n i).jobCores = t.jobCores := fun n i t =>
    (State.noteFatal_jobCores _ n i).trans (t.logPut_jobCores x)
  unfold State.log
  refine ite_keeps (g := State.jobCores) (s.logPut_jobCores x) ?_
  extract_lets s₁ merged w errs₁ s₂ errs₂ s₃ y s₄
  have h₃ : s₃.jobCores = s.jobCores :=
    ite_keeps (g := State.jobCores) (a := s₂) rfl (ite_keeps (g := State.jobCores) (hput _ _ s₂) rfl)
  have h₄ : s₄.jobCores = s₃.jobCores :=
    ite_keeps (g := State.jobCores) ((State.coreCandidate_jobCores _ y).trans (State.logPut_jobCores _ _)) rfl
  have h₅ : (if merged then s₄ else s₄.coreCandidate x).jobCores = s₄.jobCores :=
    ite_keeps (g := State.jobCores) rfl (s₄.coreCandidate_jobCores x)
  rw [State.jobCores_unfaulted.severity, h₅, h₄, h₃]

/-- A record for every loaded job leaves every job its cores. -/
theorem State.logJobs_jobCores (s : State) (x : Event) : (s.logJobs x).jobCores = s.jobCores :=
  foldl_keeps State.jobCores _ (fun s _ => ite_keeps (g := State.jobCores) rfl (s.log_jobCores _)) _ s

end Sys2Proof.Machine
end

section
/-! PROOFS. The package fabric: messages that cross the grid, replays of a bridge's channel, and routers that stop answering (R310, R313,
R355). -/

namespace Sys2Proof.Machine

/-! ### Grid crossings -/

/-- The first message of the grid enters the queue of its port when the E-die has space for its units (R355). -/
theorem gridCrossingEnter_enters {e : Fin 8} {port : Fin 48} {vc : Fin 4} {x : Queued} {rest : List (Fin 8 × Fin 48 × Queued)} {s : State}
    (hcrossing : s.switch.crossing = (e, port, x) :: rest) (hvc : x.msg.vc.toNat = vc.val)
    (hspace : (s.port port).crossed vc + msgUnits x.msg ≤ 1024) :
    exec (.gridCrossingEnter e port vc) s = .next (State.mapPort { s with switch := { s.switch with crossing := rest } } port
      (fun p => p.enqueue { x with crossed := true })) := by
  have hfirst : s.switch.crossing.findIdx? (fun y => y.1 == e && y.2.1 == port && y.2.2.msg.vc.toNat == vc.val) = some 0 := by
    simp [hcrossing, List.findIdx?_cons, hvc]
  have hhead : s.switch.crossing[0]? = some (e, port, x) := by rw [hcrossing]; rfl
  have hrest : s.switch.crossing.eraseIdx 0 = rest := by rw [hcrossing]; rfl
  show execGridCrossingEnter e port vc s = _
  simp only [execGridCrossingEnter, hfirst, hhead, hrest]
  exact if_neg (Nat.not_lt.mpr hspace)

/-! ### Bridge replays -/

/-- The replays of a channel in the last millisecond, with the one of now (R313). -/
def State.replaysWith (s : State) (die : Fin 32) (side : Side) (ch : Fin 16) : List Nat :=
  (s.now :: tget (s.die die.val).replays [] (16 * (sideCode side).val + ch.val)).filter (fun t => decide (s.now < t + 1000000))

/-- The die with one more replay counted. -/
def State.replayed (s : State) (die : Fin 32) (side : Side) (ch : Fin 16) : Die :=
  { s.die die.val with
    retry := bump (s.die die.val).retry
    replays := tset (s.die die.val).replays (16 * (sideCode side).val + ch.val) (s.replaysWith die side ch) }

/-- The die with the channel disabled. -/
def Die.disable (d : Die) (side : Side) (ch : Fin 16) : Die :=
  { d with chdis := d.chdis.set (sideCode side) (d.chdis[sideCode side] ||| (1 <<< ch.val))
           replays := tdel d.replays (16 * (sideCode side).val + ch.val) }

theorem bump_eq_saturating (w : Word) : bump w = Rules.saturating w := rfl

section
variable {die : Fin 32} {side : Side} {ch : Fin 16} {s : State}

/-- A replay of a channel in use is counted; the sixteenth in a millisecond disables the channel, and too many disabled ones of a side
are fatal to the module (R313). -/
theorem exec_bridgeReplay (huse : (s.die die.val).chdis[sideCode side].getLsbD ch = false) (hbridge : hasBridge die.val side = true) :
    exec (.bridgeReplay die side ch) s =
      if (s.replaysWith die side ch).length < 16 then .next (s.mapDie die.val (fun _ => s.replayed die side ch))
      else
        let t := (s.mapDie die.val (fun _ => (s.replayed die side ch).disable side ch)).log
          (dieEvent 1 0x0304 9 die.val ch.val (sideCode side).val)
        .next (if 4 < popCount 16 (t.chdis die.val side).toNat then t.log (dieEvent 3 0x0305 9 die.val 0 (sideCode side).val) else t) :=
  if_neg (by rw [huse, hbridge]; decide)

/-- A replay is counted, and up to the fifteenth of a millisecond no more (R313). -/
theorem bridgeReplay_counts (huse : (s.die die.val).chdis[sideCode side].getLsbD ch = false) (hbridge : hasBridge die.val side = true)
    (hfew : (tget (s.die die.val).replays [] (16 * (sideCode side).val + ch.val)).length < 15) :
    ∃ s', exec (.bridgeReplay die side ch) s = .next s' ∧ (s'.die die.val).retry = Rules.saturating (s.die die.val).retry ∧
      (s'.die die.val).chdis = (s.die die.val).chdis ∧ s'.errs = s.errs := by
  have hlen : (s.replaysWith die side ch).length < 16 :=
    Nat.lt_of_le_of_lt (List.length_filter_le _ _) (Nat.succ_lt_succ hfew)
  refine ⟨_, (exec_bridgeReplay huse hbridge).trans (if_pos hlen), ?_⟩
  rw [State.die_mapDie_same]
  exact ⟨bump_eq_saturating _, rfl, rfl⟩

/-- The sixteenth replay of a channel within a millisecond disables it, and is recorded once as deferred (R313). -/
theorem bridgeReplay_disables (hall : (s.die die.val).chdis[sideCode side] = 0) (hbridge : hasBridge die.val side = true)
    (hmany : 15 ≤ (tget (s.die die.val).replays [] (16 * (sideCode side).val + ch.val)).length)
    (hrecent : ∀ t ∈ tget (s.die die.val).replays [] (16 * (sideCode side).val + ch.val), s.now < t + 1000000) :
    ∃ s', exec (.bridgeReplay die side ch) s = .next s' ∧
      (s'.die die.val).chdis = (s.die die.val).chdis.set (sideCode side) (1 <<< ch.val) ∧
      s'.errs.counts[(1 : Fin 4)] = s.errs.counts[(1 : Fin 4)] + 1 := by
  have huse : (s.die die.val).chdis[sideCode side].getLsbD ch = false := by rw [hall]; exact BitVec.getLsbD_zero
  have hkept : s.replaysWith die side ch = s.now :: tget (s.die die.val).replays [] (16 * (sideCode side).val + ch.val) := by
    refine List.filter_eq_self.mpr fun t ht => decide_eq_true ?_
    rcases List.mem_cons.mp ht with rfl | ht
    · omega
    · exact hrecent t ht
  have hlen : ¬ (s.replaysWith die side ch).length < 16 := by
    rw [hkept, List.length_cons]
    omega
  refine ⟨_, (exec_bridgeReplay huse hbridge).trans (if_neg hlen), ?_⟩
  have hdie := State.die_mapDie_same s die.val (fun _ => (s.replayed die side ch).disable side ch)
  have hfirst := State.log_counted (x := dieEvent 1 0x0304 9 die.val ch.val (sideCode side).val) rfl rfl Nat.one_lt_two
    (s.mapDie die.val (fun _ => (s.replayed die side ch).disable side ch))
  have hlogged := State.log_die (s.mapDie die.val (fun _ => (s.replayed die side ch).disable side ch))
    (dieEvent 1 0x0304 9 die.val ch.val (sideCode side).val) die.val
  generalize (s.mapDie die.val (fun _ => (s.replayed die side ch).disable side ch)).log
    (dieEvent 1 0x0304 9 die.val ch.val (sideCode side).val) = t at hfirst hlogged ⊢
  have hchdis : (t.die die.val).chdis = (s.die die.val).chdis.set (sideCode side) (1 <<< ch.val) := by
    rw [hlogged, hdie]
    show (s.die die.val).chdis.set (sideCode side) ((s.die die.val).chdis[sideCode side] ||| _) = _
    rw [hall, BitVec.ofNat_eq_ofNat, BitVec.zero_or]
  have hfatal := State.log_counts_other (x := dieEvent 3 0x0305 9 die.val 0 (sideCode side).val) rfl rfl
    (show (3 : BitVec 2) ≠ 0 by decide) (show severityCount 3 ≠ 1 by decide) t
  split_ifs
  · exact ⟨by rw [State.log_die, hchdis], hfatal.trans hfirst⟩
  · exact ⟨hchdis, hfirst⟩

end

/-! ### Routers -/

/-- A router that stops answering during a job is a candidate for retirement, and the jobs keep their cores (R310, R313). -/
theorem routerDead_makes_candidate {die : Fin 32} {pos : Fin 272} {s : State} (hjob : s.anyJob = true) :
    ∃ s', exec (.routerDead die pos) s = .next s' ∧ nhas s'.errs.nodeCandidates (272 * die.val + pos.val) = true ∧
      s'.mp.jobs.map (fun j => j.cores) = s.mp.jobs.map (fun j => j.cores) := by
  refine ⟨_, if_neg (by simp [hjob]), ?_⟩
  have hcores := s.logJobs_jobCores (dieEvent 2 0x0306 8 die.val pos.val 0)
  generalize s.logJobs (dieEvent 2 0x0306 8 die.val pos.val 0) = t at hcores ⊢
  refine ⟨?_, hcores⟩
  rw [nhas_nins, beq_self_eq_true, Bool.true_or]

end Sys2Proof.Machine
end

section
/-! PROOFS. Lanes: the steps of their training, the end of a lane that loses its lock or is marginal, and the lanes that a receiver asks
for (R321, R322, R343 to R345A). -/

namespace Sys2Proof.Machine

/-! ### Lanes of a port -/

theorem Port.mapLane_same (p : Port) (k : Fin 8) (f : Lane → Lane) : (p.mapLane k f).lanes[k] = f p.lanes[k] :=
  Vector.getElem_set_self _

theorem Port.mapLane_other (p : Port) {k j : Fin 8} (f : Lane → Lane) (h : k ≠ j) : (p.mapLane k f).lanes[j] = p.lanes[j] :=
  Vector.getElem_set_ne k.isLt j.isLt (Fin.val_ne_of_ne h)

theorem Port.mapLane_congr {p : Port} {k : Fin 8} {f g : Lane → Lane} (h : f p.lanes[k] = g p.lanes[k]) :
    p.mapLane k f = p.mapLane k g := by
  rw [Port.mapLane, Port.mapLane, h]

theorem Port.mapLane_mapLane (p : Port) (k : Fin 8) (f g : Lane → Lane) :
    (p.mapLane k f).mapLane k g = p.mapLane k (fun x => g (f x)) := by
  rw [Port.mapLane, Port.mapLane_same]
  simp [Port.mapLane]

/-- A lane is in a mask when it has the property. -/
theorem Port.getLsbD_mask (p : Port) (f : Lane → Bool) (k : Fin 8) : (p.mask f).getLsbD k = f p.lanes[k] := by
  have hsorted : (((List.finRange 8).filter (fun k => f p.lanes[k])).map Fin.val).SortedLT :=
    (((List.sortedLT_finRange 8).pairwise.filter _).map Fin.val (fun _ _ h => h)).sortedLT
  have hbit := Nat.mem_bitIndices (i := k.val) (n := ((((List.finRange 8).filter (fun k => f p.lanes[k])).map Fin.val).map (2 ^ ·)).sum)
  rw [Nat.bitIndices_sum_map_two_pow hsorted, List.map_map] at hbit
  have hmem : k.val ∈ ((List.finRange 8).filter (fun k => f p.lanes[k])).map Fin.val ↔ f p.lanes[k] = true := by
    rw [List.mem_map_of_injective Fin.val_injective, List.mem_filter]
    exact and_iff_right (List.mem_finRange k)
  rw [Port.mask, BitVec.getLsbD_ofNat, decide_eq_true k.isLt, Bool.true_and]
  exact Bool.eq_iff_iff.mpr (hbit.symm.trans hmem)

/-- A mask sees of a changed lane whether it has the property. -/
theorem Port.mask_mapLane_congr (p : Port) {k : Fin 8} {g h : Lane → Lane} {f : Lane → Bool} (hf : f (g p.lanes[k]) = f (h p.lanes[k])) :
    (p.mapLane k g).mask f = (p.mapLane k h).mask f := by
  have hlanes : ∀ j : Fin 8, f (p.mapLane k g).lanes[j] = f (p.mapLane k h).lanes[j] := fun j => by
    by_cases hj : k = j
    · subst hj
      rw [Port.mapLane_same, Port.mapLane_same, hf]
    · rw [Port.mapLane_other p g hj, Port.mapLane_other p h hj]
  simp only [Port.mask, hlanes]

/-- A lane that may stay in use. -/
def Lane.stays (x : Lane) : Bool := decide (x.st = .active) && !x.marginal

theorem Lane.stays_of_marginal {x : Lane} (h : x.marginal = true) : x.stays = false := by
  rw [Lane.stays, h, Bool.not_true, Bool.and_false]

/-- With a lane that may not stay, the lanes that may are the others of those before (R343). -/
theorem Port.mask_mapLane_leaves (p : Port) {k : Fin 8} {f : Lane → Lane} (h : (f p.lanes[k]).stays = false) :
    (p.mapLane k f).mask Lane.stays = Rules.othersInUse p k := by
  refine BitVec.eq_of_getLsbD_eq fun i hi => ?_
  have hmask := (p.mapLane k f).getLsbD_mask Lane.stays ⟨i, hi⟩
  have hold := p.getLsbD_mask Lane.stays ⟨i, hi⟩
  have hbit : (BitVec.ofNat 8 (2 ^ k.val)).getLsbD i = decide (k.val = i) := by
    rw [BitVec.getLsbD_ofNat, decide_eq_true hi, Bool.true_and, Nat.testBit_two_pow]
  rw [hmask, Rules.othersInUse, BitVec.getLsbD_and, BitVec.getLsbD_not, hbit, decide_eq_true hi, Bool.true_and]
  refine Eq.trans ?_ (congrArg (· && !decide (k.val = i)) hold.symm)
  by_cases hik : k = ⟨i, hi⟩
  · subst hik
    rw [Port.mapLane_same, h]
    simp
  · have hne : k.val ≠ i := fun e => hik (Fin.ext e)
    rw [Port.mapLane_other p f hik, decide_eq_false hne, Bool.not_false, Bool.and_true]

/-- Four lanes of a mask that has as many are four. -/
theorem four_le_lanesIn_lowest : ∀ m : BitVec 8, 4 ≤ lanesIn m → 4 ≤ lanesIn (lowest 4 m) := by decide +kernel

/-- The receiver asks for the four lowest lanes that stay, when there are four (R343 to R345). -/
theorem Port.shrink_asks {p : Port} {l : BitVec 8} (hl : p.mask Lane.stays = l) (hfour : 4 ≤ lanesIn l) (now : Nat) {forced : Bool}
    (hask : forced = true ∨ p.ask = none) : p.shrink now forced = Rules.asking p now (lowest 4 l) forced := by
  have hforced : (forced || match p.ask with | some a => a.forced | none => false) = forced := by
    rcases hask with h | h
    · rw [h, Bool.true_or]
    · rw [h, Bool.or_false]
  subst hl
  show (if lanesIn (lowest 4 (p.mask Lane.stays)) < 4 then _ else p.askWidth now _ _) = _
  rw [if_neg (Nat.not_lt.mpr (four_le_lanesIn_lowest _ hfour))]
  exact congrArg (p.askWidth now _) hforced

/-! ### Training -/

section
variable {port : Fin 48} {lane : Fin 8} {s : State}

/-- What a step of a lane of a port that is not ACTIVE makes of it (Table 11-4). -/
theorem Lane.trainStep_trained {x y : Lane} {ok : Bool} {txpre : BitVec 4} {taps : List TapAsk} (now : Nat)
    (h : Rules.trained x ok txpre taps y) : x.trainStep now false ok txpre taps = y := by
  have hfails : (3 ≤ x.fails + 1) ↔ ¬ x.fails < 2 := by omega
  rcases h with ⟨hst, rfl⟩ | ⟨hst, rfl, rfl⟩ | ⟨hst, rfl, rfl⟩ | ⟨hst, rfl, rfl⟩ |
    ⟨hst, rfl, rfl⟩ | ⟨hst, rfl, rfl⟩ | ⟨hst, rfl, rfl⟩
  all_goals
    simp only [Lane.trainStep, hst, hfails, ite_not]
    rfl

/-- A lane of a port in TRAINING goes a step on, and nothing else changes (R321, Table 11-4). -/
theorem laneTrainingStep_trains {ok : Bool} {far : BitVec 8} {tap : TapAsk} {more : List TapAsk} {y : Lane}
    (hmay : s.mayTrain port lane = true) (hst : (s.port port).st = .training)
    (htrained : Rules.trained ((s.port port).lanes[lane]) ok (s.active.ports[port].txpre[lane]) (tap :: more) y) :
    exec (.laneTrainingStep port lane ok far tap more) s = .next (s.mapPort port (fun p => { p with lanes := p.lanes.set lane y })) := by
  have hdown : ¬ ((s.port port).st = .down ∧ (s.port port).laneen ≠ s.active.ports[port].laneen) := by
    rw [hst]; exact fun h => nomatch h.1
  show execLaneTrainingStep port lane ok s far tap more = _
  simp only [execLaneTrainingStep, if_neg hdown, hmay, Bool.not_true, Bool.false_eq_true, if_false]
  refine congrArg Host.Outcome.next (State.mapPort_congr ?_)
  have hstep := Lane.trainStep_trained s.now htrained
  simp only [Port.mapLane, hst, hstep, reduceCtorEq, decide_false, false_and, if_false]

/-- With the fourth lane in ALIGN at both ends a port that is DOWN is TRAINING (R322); the lane follows what the far end asks (R319). -/
theorem laneTrainingStep_begins {far : BitVec 8} {tap : TapAsk} (hmay : s.mayTrain port lane = true) (hst : (s.port port).st = .down)
    (hlaneen : (s.port port).laneen = s.active.ports[port].laneen) (heq : (s.port port).lanes[lane].st = .eq)
    (hnear : 4 ≤ lanesIn (((s.port port).mapLane lane (Rules.laneSt .align)).mask (fun x => decide (x.st = .align))))
    (hfar : 4 ≤ lanesIn far) :
    exec (.laneTrainingStep port lane true far tap) s = .next (s.mapPort port (fun p =>
      { p with st := .training, lanes := p.lanes.set lane (Rules.laneSt .align (p.lanes[lane].asked tap))
               scr := Config.scramblerSeed s.now })) := by
  have htaken : ¬ ((s.port port).st = .down ∧ (s.port port).laneen ≠ s.active.ports[port].laneen) := fun h => h.2 hlaneen
  have hstep : (s.port port).lanes[lane].trainStep s.now false true s.active.ports[port].txpre[lane] [tap] =
      Rules.laneSt .align ((s.port port).lanes[lane].asked tap) :=
    Lane.trainStep_trained s.now (.inr (.inr (.inr (.inl ⟨heq, rfl, rfl⟩))))
  show execLaneTrainingStep port lane true s far tap [] = _
  simp only [execLaneTrainingStep, if_neg htaken, hmay, Bool.not_true, Bool.false_eq_true, if_false]
  refine congrArg Host.Outcome.next (State.mapPort_congr ?_)
  have hmapped : (s.port port).mapLane lane (fun x => x.trainStep s.now (decide ((s.port port).st = .active)) true
      s.active.ports[port].txpre[lane] [tap]) =
      (s.port port).mapLane lane (fun _ => Rules.laneSt .align ((s.port port).lanes[lane].asked tap)) := by
    refine Port.mapLane_congr ?_
    rw [hst]
    exact hstep
  rw [hmapped]
  refine if_pos ⟨hst, (congrArg (fun m => 4 ≤ lanesIn m) (Port.mask_mapLane_congr _ ?_)).mpr hnear, hfar⟩
  rfl

/-- A lane in RESET tries DETECT again (R321). -/
theorem laneDetectRetry_detects (hmay : s.mayTrain port lane = true) (hreset : (s.port port).lanes[lane].st = .reset) :
    exec (.laneDetectRetry port lane) s = .next (s.mapPort port (fun p => p.mapLane lane (Rules.laneSt .detect))) :=
  congrArg Host.Outcome.next (if_pos ⟨hmay, hreset⟩)

/-! ### Lanes that fail or are marginal -/

/-- A lane that loses its lock fails; a port that is not ACTIVE asks for nothing (R343). -/
theorem laneLossOfLock_fails (hdisabled : (s.port port).lanes[lane].st ≠ .disabled) (hfailed : (s.port port).lanes[lane].st ≠ .failed)
    (hst : (s.port port).st ≠ .active) :
    exec (.laneLossOfLock port lane) s = .next (s.mapPort port (fun p => p.mapLane lane Rules.laneLost)) := by
  refine congrArg Host.Outcome.next (State.mapPort_congr ?_)
  refine (if_neg (not_or.mpr ⟨hdisabled, hfailed⟩)).trans ?_
  exact if_neg (fun h => hst h.2)

/-- One in use leaves by a forced change: the receiver asks for four of the others (R343, R344). -/
theorem laneLossOfLock_forces (hactive : (s.port port).lanes[lane].st = .active) (hused : (s.port port).rxLanes.getLsbD lane = true)
    (hst : (s.port port).st = .active) (hothers : 4 ≤ lanesIn (Rules.othersInUse (s.port port) lane)) :
    exec (.laneLossOfLock port lane) s = .next (s.mapPort port (fun p =>
      Rules.asking (p.mapLane lane Rules.laneLost) s.now (lowest 4 (Rules.othersInUse p lane)) true)) := by
  refine congrArg Host.Outcome.next (State.mapPort_congr ?_)
  have hruns : ¬ ((s.port port).lanes[lane].st = .disabled ∨ (s.port port).lanes[lane].st = .failed) := by
    rw [hactive]; decide
  refine (if_neg hruns).trans ((if_pos ⟨hused, hst⟩).trans ?_)
  exact Port.shrink_asks ((s.port port).mask_mapLane_leaves rfl) hothers s.now (.inl rfl)

/-- A window with no more corrected symbols than LTHR is kept in SYMERR (R343). -/
theorem laneMarginal_keeps {n : BitVec 16} (hfew : Rules.windowOf (s.port port) lane n ≤ (s.port port).lthr.toNat) :
    exec (.laneMarginal port lane n) s = .next (s.mapPort port (fun p => p.mapLane lane (fun x =>
      { x with symerr := BitVec.ofNat 16 (Rules.windowOf p lane n), count := 0 }))) := by
  have hmin : min 0xFFFF (Rules.windowOf (s.port port) lane n) = Rules.windowOf (s.port port) lane n :=
    Nat.min_eq_right (hfew.trans (Nat.le_of_lt_succ (s.port port).lthr.isLt))
  refine (if_pos (.inr (.inl hfew))).trans (congrArg Host.Outcome.next (State.mapPort_congr ?_))
  refine Port.mapLane_congr ?_
  rw [← hmin]
  rfl

/-- A lane in use with more is marginal, and leaves by a planned change (R343, R345). -/
theorem laneMarginal_plans {n : BitVec 16} (hmany : (s.port port).lthr.toNat < Rules.windowOf (s.port port) lane n)
    (hst : (s.port port).st = .active) (hgood : (s.port port).lanes[lane].marginal = false)
    (hused : (s.port port).rxLanes.getLsbD lane = true) (hask : (s.port port).ask = none)
    (hfirst : (s.port port).lanes[lane].removals = []) (hothers : 4 ≤ lanesIn (Rules.othersInUse (s.port port) lane)) :
    exec (.laneMarginal port lane n) s = .next (s.mapPort port (fun p =>
      Rules.asking (p.mapLane lane (fun x => { x with
        symerr := BitVec.ofNat 16 (min 0xFFFF (Rules.windowOf p lane n)), count := 0, removals := [s.now], heldOut := false,
        marginal := true })) s.now
        (lowest 4 (Rules.othersInUse p lane)) false)) := by
  show execLaneMarginal port lane n s = _
  unfold execLaneMarginal
  extract_lets n' p₁ rs held p₂ s₂
  have hlane : p₁.lanes[lane] = { (s.port port).lanes[lane] with symerr := BitVec.ofNat 16 (min 0xFFFF n'), count := 0 } :=
    Port.mapLane_same _ _ _
  have hrs : rs = [s.now] := by
    have hrecent : s.now < s.now + 86400 * 10 ^ 9 := Nat.lt_add_of_pos_right (by norm_num)
    show (s.now :: p₁.lanes[lane].removals).filter _ = _
    rw [hlane]
    show (s.now :: (s.port port).lanes[lane].removals).filter _ = _
    rw [hfirst]
    exact List.filter_cons_of_pos (decide_eq_true hrecent)
  have hheld : held = false := by
    show decide (3 ≤ rs.length) = false
    rw [hrs]
    rfl
  have hleaves : ¬ (p₁.st ≠ .active ∨ n' ≤ p₁.lthr.toNat ∨ !p₁.rxLanes.getLsbD lane ∨ p₁.lanes[lane].marginal) := by
    rw [hlane]
    show ¬ ((s.port port).st ≠ .active ∨ n' ≤ (s.port port).lthr.toNat ∨ !(s.port port).rxLanes.getLsbD lane ∨
      (s.port port).lanes[lane].marginal)
    simp only [hst, hused, hgood, ne_eq, not_true, Bool.not_true, Bool.false_eq_true, or_false, false_or]
    exact Nat.not_le.mpr hmany
  rw [if_neg hleaves, if_neg (by rw [hheld]; exact Bool.false_ne_true)]
  refine congrArg Host.Outcome.next (State.mapPort_congr ?_)
  show (p₁.mapLane lane (fun x => { x with removals := rs, heldOut := held, marginal := true })).shrink s.now false = _
  rw [hrs, hheld, Port.mapLane_mapLane]
  exact Port.shrink_asks ((s.port port).mask_mapLane_leaves (Lane.stays_of_marginal rfl)) hothers s.now (.inr hask)

end

end Sys2Proof.Machine
end

section
/-! PROOFS. The end of training, retrains and their timeout (R322 to R324, R347, R348, R358); and the obligation of the lanes and the package
fabric. -/

namespace Sys2Proof.Machine

section
variable {port : Fin 48} {s : State}

/-! ### The end of training -/

section
variable {far : BitVec 8} (hfar : 4 ≤ lanesIn far)
  (hnear : 4 ≤ lanesIn ((s.port port).mask (fun x => decide (x.st = .align ∨ x.st = .soak))))
include hfar hnear

theorem enough_lanes : (decide (4 ≤ lanesIn far) &&
    decide (4 ≤ lanesIn ((s.port port).mask (fun x => decide (x.st = .align ∨ x.st = .soak))))) = true := by
  rw [decide_eq_true hfar, decide_eq_true hnear, Bool.and_true]

/-- From TRAINING the port initialises its link and is ACTIVE (R322). -/
theorem portTrainingDone_of_training (hst : (s.port port).st = .training) :
    exec (.portTrainingDone port far) s =
      .next (s.mapPort port (fun p => p.initialise.activate s.now far s.hbFresh)) := by
  show execPortTrainingDone port far s = _
  simp only [execPortTrainingDone, hst, enough_lanes hfar hnear, if_true]

/-- From RETRAIN it is ACTIVE with what it kept, and replays it (R324). -/
theorem portTrainingDone_of_retrain (hst : (s.port port).st = .retrain) :
    exec (.portTrainingDone port far) s = .next (s.mapPort port (fun p =>
      if p.kept.isEmpty then p.activate s.now far s.hbFresh
      else { p.activate s.now far s.hbFresh with
        replayAt := some 0, replayFrom := (p.kept.head?.map (fun f => f.seq - 1)).getD 0, replay := bump p.replay })) := by
  show execPortTrainingDone port far s = _
  simp only [execPortTrainingDone, hst, enough_lanes hfar hnear, if_true]
  rfl

theorem portTrainingDone_initialises (hst : (s.port port).st = .training) :
    ∃ s', exec (.portTrainingDone port far) s = .next s' ∧ (s'.port port).st = .active ∧ (s'.port port).txSeq = 0 ∧
      (s'.port port).rxSeq = 0 ∧ (s'.port port).accepted = false ∧ (s'.port port).credits = poolSizes ∧
      (s'.port port).freed = Vector.replicate 5 0 ∧ (s'.port port).kept = [] ∧
      (s'.port port).txLanes = listOf far ∧ (s'.port port).miss = (s.port port).miss ∧
      (s'.port port).control = if s.now < s.mp.wordAt + 5000000 then [.heartbeat] else [] := by
  refine ⟨_, portTrainingDone_of_training hfar hnear hst, ?_⟩
  rw [State.port_mapPort_same]
  refine ⟨rfl, rfl, rfl, rfl, rfl, rfl, rfl, rfl, rfl, ?_⟩
  show (if decide (s.now < s.mp.wordAt + 5000000) = true then [Control.heartbeat] else []) = _
  simp only [decide_eq_true_eq]

theorem portTrainingDone_replays (hst : (s.port port).st = .retrain) :
    ∃ s', exec (.portTrainingDone port far) s = .next s' ∧ (s'.port port).st = .active ∧ (s'.port port).kept = (s.port port).kept ∧
      (s'.port port).txSeq = (s.port port).txSeq ∧ (s'.port port).credits = (s.port port).credits ∧
      ∀ g ∈ (s.port port).kept.head?, (s'.port port).replayAt = some 0 ∧ (s'.port port).replayFrom = g.seq - 1 := by
  refine ⟨_, portTrainingDone_of_retrain hfar hnear hst, ?_⟩
  rw [State.port_mapPort_same]
  cases hkept : (s.port port).kept with
  | nil => exact ⟨rfl, hkept, rfl, rfl, fun g hg => nomatch hg⟩
  | cons f fs =>
    refine ⟨rfl, hkept, rfl, rfl, fun g hg => ⟨rfl, ?_⟩⟩
    cases hg
    rfl

end

/-! ### Retrains -/

/-- The messages that wait at a port go back to be chosen a port again, and the tags they took are freed (R358). -/
theorem State.port_rechoose (s : State) (port : Fin 48) : ∃ tags : Table TagUse,
    (s.rechoose port).port port = { s.port port with txMsgs := Vector.replicate 4 [], tags := tags } := by
  unfold State.rechoose
  extract_lets p w all own transit freed t
  have hport : t.port port = { p with
      txMsgs := Vector.replicate 4 [], tags := p.tags.filter (fun x => !freed.any (fun k => k == x.1)) } :=
    s.port_mapPort_same port _
  exact ⟨_, hport⟩

theorem State.port_holdover (s : State) (port : Fin 48) : s.holdover.port port = s.port port :=
  ite_keeps (g := fun t : State => t.port port) rfl (State.log_port _ _ _)

/-- A port that leaves ACTIVE keeps all but its messages and their tags (R347, R358, R380). -/
theorem State.port_leaveActive (s : State) (port : Fin 48) : ∃ tags : Table TagUse,
    (s.leaveActive port).port port = { s.port port with txMsgs := Vector.replicate 4 [], tags := tags } := by
  obtain ⟨tags, htags⟩ := (s.log (portEvent 1 0x0401 port 0 [])).port_rechoose port
  refine ⟨tags, (ite_keeps (g := fun t : State => t.port port) (State.port_holdover _ port) rfl).trans ?_⟩
  rw [htags, State.log_port]

/-- A port whose trigger has come about retrains: its messages are chosen again, what it sent and keeps stays (R324, R348). -/
theorem portRetrain_retrains (hst : (s.port port).st = .active) (hdue : (s.port port).retrainDue = true) :
    ∃ s', exec (.portRetrain port) s = .next s' ∧ (s'.port port).st = .retrain ∧ (s'.port port).kept = (s.port port).kept ∧
      (s'.port port).laneen = s.active.ports[port].laneen ∧ (s'.port port).txMsgs = Vector.replicate 4 [] ∧
      (s'.port port).retrainAt = s.now := by
  have hleaves : ¬ ((s.port port).st ≠ .active ∨ !(s.port port).retrainDue) := by simp [hst, hdue]
  obtain ⟨tags, htags⟩ := (s.mapPort port (fun p =>
    { p.retrainLanes s.now s.active.ports[port] with st := .retrain, stuck := 0 })).port_leaveActive port
  refine ⟨_, if_neg hleaves, ?_⟩
  rw [htags, State.port_mapPort_same]
  exact ⟨rfl, rfl, rfl, rfl, rfl⟩

/-- A retrain that reached no alignment in 25 ms begins again, up to the third (R324). -/
theorem retrainTimeout_begins_again (hst : (s.port port).st = .retrain) (hfew : (s.port port).retrains < 2) :
    exec (.retrainTimeout port) s = .next (State.mapPort { s with now := max s.now ((s.port port).retrainAt + 25000000) } port
      (fun p => { p.retrainLanes (max s.now ((s.port port).retrainAt + 25000000)) s.active.ports[port] with
        retrains := (s.port port).retrains + 1 })) :=
  (if_neg (not_not_intro hst)).trans (if_pos (Nat.succ_lt_succ hfew))

/-- The third makes the port FAILED, which drops what it keeps (R324). -/
theorem retrainTimeout_fails (hst : (s.port port).st = .retrain) (hmany : 2 ≤ (s.port port).retrains) :
    ∃ s', exec (.retrainTimeout port) s = .next s' ∧ (s'.port port).st = .failed ∧ (s'.port port).kept = [] := by
  refine ⟨_, (if_neg (not_not_intro hst)).trans (if_neg (Nat.not_lt.mpr (Nat.succ_le_succ hmany))), ?_⟩
  rw [State.log_port, State.port_mapPort_same]
  exact ⟨rfl, rfl⟩

end

/-- Settles O25: each clause is the lemma above about its row. -/
theorem lanesTrainAndTheFabricDegrades : Obligations.LanesTrainAndTheFabricDegrades := by
  unfold Obligations.LanesTrainAndTheFabricDegrades
  exact ⟨fun _ _ _ _ _ _ => gridCrossingEnter_enters, fun _ _ _ _ => bridgeReplay_counts, fun _ _ _ _ => bridgeReplay_disables,
    fun _ _ _ => routerDead_makes_candidate, fun _ _ _ _ _ _ _ _ => laneTrainingStep_trains, fun _ _ _ _ _ => laneTrainingStep_begins,
    fun _ _ _ => laneDetectRetry_detects, fun _ _ _ => laneLossOfLock_fails, fun _ _ _ => laneLossOfLock_forces,
    fun _ _ _ _ => laneMarginal_keeps, fun _ _ _ _ => laneMarginal_plans,
    fun _ _ _ hst hfar hnear => portTrainingDone_initialises hfar hnear hst,
    fun _ _ _ hst hfar hnear => portTrainingDone_replays hfar hnear hst, fun _ _ => portRetrain_retrains,
    fun _ _ => retrainTimeout_begins_again, fun _ _ => retrainTimeout_fails⟩

end Sys2Proof.Machine
end

section
/-! PROOFS. The receiver of a port: the place of a flit in its frame, the code words, and what a good flit brings (R316, R318, R326 to R333,
R337, R342). -/

namespace Sys2Proof.Machine

/-! ### Code words -/

/-- How many of the symbols in error of a code word a lane carried. -/
def Port.hits (p : Port) (errors : List (Fin 528)) (k : Fin 8) : Nat :=
  (errors.filter (fun i => laneAt p.rxLanes i.val == some k)).length

/-- A port that has corrected a code word (R318, R343). -/
def Port.corrected (p : Port) (errors : List (Fin 528)) : Port :=
  { p with
    feccorr := BitVec.ofNat 32 (min 0xFFFFFFFF (p.feccorr.toNat + errors.length)), wordBad := false, badWords := 0
    lanes := Vector.ofFn (fun k => { p.lanes[k] with
      count := p.lanes[k].count + p.hits errors k, run := if 4 < p.hits errors k then p.lanes[k].run + 1 else 0 }) }

theorem Port.corrected_lane (p : Port) (errors : List (Fin 528)) (k : Fin 8) : (p.corrected errors).lanes[k] =
    { p.lanes[k] with
      count := p.lanes[k].count + p.hits errors k, run := if 4 < p.hits errors k then p.lanes[k].run + 1 else 0 } :=
  Vector.getElem_ofFn _

/-- Up to 8 symbols in error are corrected; no lane fails that has not had many of them in 32 code words in a row (R318, R343). -/
theorem Port.codeWord_corrected {p : Port} {errors : List (Fin 528)} (hfew : errors.length ≤ 8)
    (hrun : ∀ k : Fin 8, ((p.corrected errors).lanes[k]).run < 32) (now : Nat) : p.codeWord now errors = p.corrected errors := by
  have hcorrectable : ¬ uncorrectable errors = true := by simpa [uncorrectable] using hfew
  have hstays : ∀ l : List (Fin 8), l.foldl (fun p k =>
      if 32 ≤ (p.lanes[k]).run ∧ (p.lanes[k]).st = .active then p.failLane now k else p) (p.corrected errors) = p.corrected errors := by
    intro l
    induction l with
    | nil => rfl
    | cons k l ih => rw [List.foldl_cons, if_neg (fun h => Nat.not_le.mpr (hrun k) h.1), ih]
  rw [Port.codeWord, if_neg hcorrectable]
  exact hstays _

/-- With more than 8 it is uncorrectable (R318). -/
theorem Port.codeWord_uncorrectable {p : Port} {errors : List (Fin 528)} (hmany : 8 < errors.length) (hask : p.ask = none) (now : Nat) :
    p.codeWord now errors = { p with
      fecunc := bump p.fecunc, wordBad := true, badWords := p.badWords + 1, lanes := p.lanes.map (fun x => { x with run := 0 }) } := by
  refine (if_pos (decide_eq_true hmany)).trans ?_
  rw [Port.lostDecoding]
  simp only [hask]

/-- A code word without an error changes no count of a lane (R343). -/
theorem Port.codeWord_clean {p : Port} (hgood : p.wordBad = false) (now : Nat) :
    p.codeWord now [] = { p with badWords := 0, lanes := p.lanes.map (fun x => { x with run := 0 }) } := by
  have hcount : BitVec.ofNat 32 (min 0xFFFFFFFF (p.feccorr.toNat + 0)) = p.feccorr := by
    rw [Nat.add_zero, Nat.min_eq_right (Nat.le_of_lt_succ p.feccorr.isLt), BitVec.ofNat_toNat, BitVec.setWidth_eq]
  have hlanes : Vector.ofFn (fun k : Fin 8 => { p.lanes[k] with count := p.lanes[k].count + 0, run := 0 }) =
      p.lanes.map (fun x => { x with run := 0 }) := by
    ext i hi : 1
    simp
  have hrun : ∀ k : Fin 8, ((p.corrected []).lanes[k]).run < 32 := fun k => by
    rw [Port.corrected_lane]
    exact Nat.zero_lt_succ 31
  refine (Port.codeWord_corrected (errors := []) (Nat.zero_le 8) hrun now).trans ?_
  show ({ p with
    feccorr := BitVec.ofNat 32 (min 0xFFFFFFFF (p.feccorr.toNat + 0)), wordBad := false, badWords := 0
    lanes := Vector.ofFn (fun k : Fin 8 => { p.lanes[k] with count := p.lanes[k].count + 0, run := 0 }) } : Port) = _
  rw [hcount, hlanes, ← hgood]

/-! ### The place of a flit in its frame -/

theorem State.mapPort_mapPort (s : State) (p : Fin 48) (f g : Port → Port) :
    (s.mapPort p f).mapPort p g = s.mapPort p (fun q => g (f q)) := by
  rw [State.mapPort, State.port_mapPort_same]
  simp [State.mapPort, tset_tset]

theorem Port.deaf_of_no_ask {p : Port} (h : p.ask = none) : p.deaf = false := by
  rw [Port.deaf, h]

theorem Port.boundary_of_no_plan {p : Port} (h : p.plan = []) (now : Nat) (transmit : Bool) : p.boundary now transmit = p :=
  if_pos (by rw [h]; rfl)

section
variable {p : Port} (hquiet : Rules.quiet p) (now : Nat)
include hquiet

/-- The place of a flit in its frame, when its code words are without an error (R316). -/
theorem Port.inFrame_clean : p.inFrame now [] [] = (Rules.framed p, false) := by
  obtain ⟨-, hplan, hword⟩ := hquiet
  simp only [Port.inFrame, Port.boundary_of_no_plan hplan, Port.codeWord_clean hword, ite_self, hword, Bool.and_false, Bool.or_false]
  by_cases h0 : p.rxSlot = 0
  · simp [Rules.framed, h0, hword]
  · by_cases h2 : p.rxSlot = 2
    · simp [Rules.framed, h2, hword]
    · simp [Rules.framed, h0, h2, hword]

/-- A flit with which an uncorrectable code word is decoded (R318). -/
theorem Port.inFrame_uncorrectable {first second : List (Fin 528)}
    (hmany : p.rxSlot = 0 ∧ 8 < first.length ∨ p.rxSlot = 2 ∧ 8 < second.length) :
    p.inFrame now first second =
      ({ Rules.framed p with fecunc := Rules.saturating p.fecunc, wordBad := true, badWords := p.badWords + 1 }, true) := by
  obtain ⟨hask, hplan, -⟩ := hquiet
  have hframed : Rules.framed p = { p with
      rxSlot := p.rxSlot + 1, badWords := 0, lanes := p.lanes.map (fun x => { x with run := 0 }) } :=
    if_pos (hmany.imp And.left And.left)
  rw [hframed]
  rcases hmany with ⟨hslot, hmany⟩ | ⟨hslot, hmany⟩
  all_goals
    simp [Port.inFrame, hslot, Port.boundary_of_no_plan hplan, Port.codeWord_uncorrectable hmany hask, bump_eq_saturating]

/-- A flit with which a code word is corrected (R318). -/
theorem Port.inFrame_corrected {first : List (Fin 528)} (hslot : p.rxSlot = 0) (hfew : first.length ≤ 8)
    (hrun : ∀ k : Fin 8, ((p.corrected first).lanes[k]).run < 32) (second : List (Fin 528)) :
    p.inFrame now first second = ({ p.corrected first with rxSlot := 1 }, false) := by
  obtain ⟨-, hplan, -⟩ := hquiet
  simp [Port.inFrame, hslot, Port.boundary_of_no_plan hplan, Port.codeWord_corrected hfew hrun]
  rfl

end

/-! What the place in the frame leaves alone. -/

@[simp] theorem Port.framed_ask (p : Port) : (Rules.framed p).ask = p.ask := ite_keeps (g := Port.ask) rfl rfl
@[simp] theorem Port.framed_rxSeq (p : Port) : (Rules.framed p).rxSeq = p.rxSeq := ite_keeps (g := Port.rxSeq) rfl rfl
@[simp] theorem Port.framed_partUnits (p : Port) : (Rules.framed p).partUnits = p.partUnits := ite_keeps (g := Port.partUnits) rfl rfl
@[simp] theorem Port.framed_rxMsgs (p : Port) : (Rules.framed p).rxMsgs = p.rxMsgs := ite_keeps (g := Port.rxMsgs) rfl rfl
@[simp] theorem Port.framed_kept (p : Port) : (Rules.framed p).kept = p.kept := ite_keeps (g := Port.kept) rfl rfl
@[simp] theorem Port.framed_replayAt (p : Port) : (Rules.framed p).replayAt = p.replayAt := ite_keeps (g := Port.replayAt) rfl rfl
@[simp] theorem Port.framed_credits (p : Port) : (Rules.framed p).credits = p.credits := ite_keeps (g := Port.credits) rfl rfl
@[simp] theorem Port.framed_crnSeen (p : Port) : (Rules.framed p).crnSeen = p.crnSeen := ite_keeps (g := Port.crnSeen) rfl rfl
@[simp] theorem Port.framed_st (p : Port) : (Rules.framed p).st = p.st := ite_keeps (g := Port.st) rfl rfl
@[simp] theorem Port.framed_crcerr (p : Port) : (Rules.framed p).crcerr = p.crcerr := ite_keeps (g := Port.crcerr) rfl rfl

/-! ### A received flit -/

/-- What every good flit brings: its acknowledgement, its NAK and its credits (R332, R333, R337). -/
def Port.heard (p : Port) (now : Nat) (f : Flit) : Port :=
  let p := if f.ackv then p.acked now f.ack else p
  let p := if f.nak then p.nacked f.ack else p
  (p.credited f.crp f.crn).credited f.crp2 f.crn2

/-- A credit return of no pool (R337). -/
theorem Port.credited_none {p : Port} {crp : BitVec 3} (h : 5 ≤ crp.toNat) (crn : BitVec 13) : p.credited crp crn = p :=
  if_neg (Nat.not_lt.mpr h)

/-- A credit return of a pool: what its count has grown by is added (R337). -/
theorem Port.credited_some {p : Port} {crp : BitVec 3} {k : Fin 5} (h : crp.toNat = k.val) (crn : BitVec 13) :
    p.credited crp crn = { p with
      credits := p.credits.set k (p.credits[k] + (crn - p.crnSeen[k]).toNat), crnSeen := p.crnSeen.set k crn } := by
  have hpool : Fin.ofNat 5 crp.toNat = k := Fin.ext (by rw [h]; exact Nat.mod_eq_of_lt k.isLt)
  have hlt : crp.toNat < 5 := by rw [h]; exact k.isLt
  subst hpool
  exact if_pos hlt

/-- A flit that acknowledges nothing and returns no credits brings nothing. -/
theorem Port.heard_nothing {p : Port} {f : Flit} (hack : f.ackv = false) (hnak : f.nak = false) (hcrp : 5 ≤ f.crp.toNat)
    (hcrp2 : 5 ≤ f.crp2.toNat) (now : Nat) : p.heard now f = p := by
  simp [Port.heard, hack, hnak, Port.credited_none hcrp, Port.credited_none hcrp2]

/-- The acknowledgement of the only flit kept frees the retry buffer (R332). -/
theorem Port.acked_all {p : Port} {g : Flit} {ack : BitVec 12} (hkept : p.kept = [g]) (hseq : g.seq = ack) (hreplay : p.replayAt = none)
    (now : Nat) : p.acked now ack = { p with kept := [], ackAt := now, stuck := 0 } := by
  have hfirst : p.kept.findIdx? (fun f => f.seq == ack) = some 0 := by simp [hkept, List.findIdx?_cons, hseq]
  simp only [Port.acked, hfirst, hreplay]
  simp [hkept]

section
variable {port : Fin 48} {f : Flit} {first second : List (Fin 528)} {q : Port} {s : State}
  (hst : (s.port port).st = .active) (hquiet : Rules.quiet (s.port port))
include hst hquiet

/-- A bad flit, or one of an uncorrectable code word, is discarded and counted, and asks for a replay (R329, R333). -/
theorem flitReceive_bad {bad : Bool} (hframe : (s.port port).inFrame s.now first second = (q, bad)) (hask : q.ask = none)
    (hbad : bad = true ∨ f.crc ≠ flitChecksum f) :
    exec (.flitReceive port f first second) s =
      .next (s.mapPort port (fun _ => { q with crcerr := Rules.saturating q.crcerr, nakDue := true })) := by
  have hdiscard : (bad || decide (f.crc ≠ flitChecksum f)) = true := by
    rcases hbad with rfl | h
    · rfl
    · rw [decide_eq_true h, Bool.or_true]
  show execFlitReceive port f first second s = _
  simp only [execFlitReceive, hst, Port.deaf_of_no_ask hquiet.1, hframe, Port.deaf_of_no_ask hask, Bool.false_eq_true, if_false, ne_eq,
    not_true]
  exact if_pos hdiscard

variable (hframe : (s.port port).inFrame s.now first second = (q, false)) (hask : q.ask = none) (hgood : Rules.good f)
include hframe hask hgood

/-- A good flit that is no DATA flit: what it brings, and the message of a CONTROL flit (R327, R342). -/
theorem flitReceive_good (hkind : f.kind = 1 ∨ f.kind = 2) :
    exec (.flitReceive port f first second) s =
      .next (match (if f.kind = 2 then controlOf (f.units.headD 0) else none) with
        | some c => (s.mapPort port (fun _ => q.heard s.now f)).controlled port c
        | none => s.mapPort port (fun _ => q.heard s.now f)) := by
  have hcrc : decide (f.crc ≠ flitChecksum f) = false := decide_eq_false (not_not_intro hgood.1)
  have hplain : ¬ (f.kind = 3 ∨ f.resv ≠ 0) := by
    rcases hkind with h | h <;> simp [h, hgood.2]
  have hdata : ∀ n, ¬ (f.kind = 0 ∧ f.seq = n) := fun n h => by
    rcases hkind with h' | h' <;> rw [h'] at h <;> exact absurd h.1 (by decide)
  show execFlitReceive port f first second s = _
  simp only [execFlitReceive, hst, Port.deaf_of_no_ask hquiet.1, hframe, Port.deaf_of_no_ask hask, hcrc, if_neg hplain, if_neg (hdata _),
    Bool.or_self, Bool.false_eq_true, if_false, ne_eq, not_true]
  cases (if f.kind = 2 then controlOf (f.units.headD 0) else none) <;> rfl

/-- An IDLE flit brings its acknowledgement, its NAK and its credits, and no more. -/
theorem flitReceive_idle (hkind : f.kind = 1) :
    exec (.flitReceive port f first second) s = .next (s.mapPort port (fun _ => q.heard s.now f)) := by
  rw [flitReceive_good hst hquiet hframe hask hgood (.inl hkind), hkind]
  rfl

/-- A DATA flit with the number expected, when parsing its units ends without a fault (R327, R328, R333). -/
theorem flitReceive_data {r : Port} (hkind : f.kind = 0) (hseq : f.seq = (q.heard s.now f).rxSeq)
    (hparse : parseUnits f.units { q.heard s.now f with
      rxSeq := (q.heard s.now f).rxSeq + 1, accepted := true, nakAt := none } = (r, false)) :
    exec (.flitReceive port f first second) s = .next (s.mapPort port (fun _ => r.dropReserved)) := by
  have hcrc : decide (f.crc ≠ flitChecksum f) = false := decide_eq_false (not_not_intro hgood.1)
  have hplain : ¬ (f.kind = 3 ∨ f.resv ≠ 0) := by simp [hkind, hgood.2]
  have hnext : f.kind = 0 ∧ f.seq = (q.heard s.now f).rxSeq := ⟨hkind, hseq⟩
  show execFlitReceive port f first second s = _
  simp only [execFlitReceive, hst, Port.deaf_of_no_ask hquiet.1, hframe, Port.deaf_of_no_ask hask, hcrc, if_neg hplain,
    Bool.or_self, Bool.false_eq_true, if_false, ne_eq, not_true]
  refine (if_pos hnext).trans ?_
  exact congrArg (fun x : Port × Bool => Host.Outcome.next (if x.2 = true then (s.mapPort port (fun _ => x.1.dropReserved)).log
    (portEvent 1 0x0406 port 0 []) else s.mapPort port (fun _ => x.1.dropReserved))) hparse

end

/-! ### Width requests -/

/-- A WIDTH_REQ for 4 or 8 lanes that finds the port ACTIVE and not hunting for REALIGN is taken (R344, R345). -/
theorem Port.widthReq_taken {p : Port} {l : BitVec 8} {forced : Bool} (hst : p.st = .active) (hdeaf : p.deaf = false)
    (hlanes : lanesIn l = 4 ∨ lanesIn l = 8) : p.widthReq l forced =
      if forced then { p with forcedTx := some l }
      else if p.plan.any (fun x => x.transmit) then p
      else { p with
        plan := p.plan ++ [{ transmit := true, lanes := l, fresh := p.slot != 0, left := none }]
        control := p.control ++ (List.range 8).map (fun i => .switch l (BitVec.ofNat 8 (64 - i))) } := by
  refine if_neg ?_
  rintro (h | h | ⟨h4, h8⟩)
  · exact h hst
  · rw [hdeaf] at h
    exact Bool.false_ne_true h
  · exact hlanes.elim h4 h8

theorem Port.widthReq_forced {p : Port} {l : BitVec 8} (hst : p.st = .active) (hdeaf : p.deaf = false)
    (hlanes : lanesIn l = 4 ∨ lanesIn l = 8) : p.widthReq l true = { p with forcedTx := some l } :=
  Port.widthReq_taken hst hdeaf hlanes

/-! ### Flits between clean code words -/

section
variable {port : Fin 48} {f : Flit} {s : State} (hst : (s.port port).st = .active) (hquiet : Rules.quiet (s.port port))
include hst hquiet

theorem flitReceive_discards (hbad : f.crc ≠ flitChecksum f) :
    exec (.flitReceive port f [] []) s = .next (s.mapPort port (fun p =>
      { Rules.framed p with crcerr := Rules.saturating p.crcerr, nakDue := true })) := by
  rw [flitReceive_bad hst hquiet (Port.inFrame_clean hquiet s.now) ((Port.framed_ask _).trans hquiet.1) (.inr hbad)]
  refine congrArg Host.Outcome.next (State.mapPort_congr ?_)
  rw [Port.framed_crcerr]

/-- A code word with more than 8 symbols in error discards the flits that it overlaps (R318, R333). -/
theorem flitReceive_uncorrectable {first second : List (Fin 528)}
    (hmany : (s.port port).rxSlot = 0 ∧ 8 < first.length ∨ (s.port port).rxSlot = 2 ∧ 8 < second.length) :
    exec (.flitReceive port f first second) s = .next (s.mapPort port (fun p =>
      { Rules.framed p with
        fecunc := Rules.saturating p.fecunc, wordBad := true, badWords := p.badWords + 1,
        crcerr := Rules.saturating p.crcerr, nakDue := true })) := by
  rw [flitReceive_bad hst hquiet (Port.inFrame_uncorrectable hquiet s.now hmany) ((Port.framed_ask _).trans hquiet.1) (.inl rfl)]
  refine congrArg Host.Outcome.next (State.mapPort_congr ?_)
  rw [Port.framed_crcerr]

variable (hgood : Rules.good f) (hnak : f.nak = false) (hcrp2 : 5 ≤ f.crp2.toNat)
include hgood hnak hcrp2

/-- A DATA flit with the number expected and nothing in it is taken (R327, R333). -/
theorem flitReceive_takes {us : List Chunk} (hkind : f.kind = 0) (hack : f.ackv = false) (hcrp : 5 ≤ f.crp.toNat)
    (hseq : f.seq = (s.port port).rxSeq) (hunits : f.units = padUnit :: us) (hpart : (s.port port).partUnits = [])
    (hmsgs : (s.port port).rxMsgs = []) :
    exec (.flitReceive port f [] []) s = .next (s.mapPort port (fun p =>
      { Rules.framed p with rxSeq := p.rxSeq + 1, accepted := true, nakAt := none })) := by
  have hheard := Port.heard_nothing (p := Rules.framed (s.port port)) hack hnak hcrp hcrp2 s.now
  have hpad : headerType padUnit = 0xF := by decide
  have hparse : ∀ p : Port, p.partUnits = [] → parseUnits f.units p = (p, false) := fun p hp => by
    rw [hunits, parseUnits, hp]
    exact if_pos hpad
  have hdrop : ∀ p : Port, p.rxMsgs = [] → p.dropReserved = p := fun p hp => by
    rw [Port.dropReserved, hp]
    rfl
  rw [flitReceive_data hst hquiet (Port.inFrame_clean hquiet s.now) ((Port.framed_ask _).trans hquiet.1) hgood hkind
    (by rw [hheard, Port.framed_rxSeq, hseq]) (by rw [hheard]; exact hparse _ ((Port.framed_partUnits _).trans hpart))]
  refine congrArg Host.Outcome.next (State.mapPort_congr ?_)
  refine (hdrop _ ?_).trans ?_
  · exact (Port.framed_rxMsgs _).trans hmsgs
  · rw [Port.framed_rxSeq]

/-- The acknowledgement of a good flit frees what the retry buffer keeps (R332). -/
theorem flitReceive_acknowledges {g : Flit} (hkind : f.kind = 1) (hack : f.ackv = true) (hcrp : 5 ≤ f.crp.toNat)
    (hkept : (s.port port).kept = [g]) (hseq : g.seq = f.ack) (hreplay : (s.port port).replayAt = none) :
    exec (.flitReceive port f [] []) s = .next (s.mapPort port (fun p =>
      { Rules.framed p with kept := [], ackAt := s.now, stuck := 0 })) := by
  rw [flitReceive_idle hst hquiet (Port.inFrame_clean hquiet s.now) ((Port.framed_ask _).trans hquiet.1) hgood hkind]
  refine congrArg Host.Outcome.next (State.mapPort_congr ?_)
  simp only [Port.heard, hack, hnak, Bool.false_eq_true, if_true, if_false, Port.credited_none hcrp, Port.credited_none hcrp2]
  exact Port.acked_all ((Port.framed_kept _).trans hkept) hseq ((Port.framed_replayAt _).trans hreplay) s.now

/-- A credit return adds what its count has grown by to the pool that it names (R337). -/
theorem flitReceive_credits {k : Fin 5} (hkind : f.kind = 1) (hack : f.ackv = false) (hcrp : f.crp.toNat = k.val) :
    exec (.flitReceive port f [] []) s = .next (s.mapPort port (fun p => { Rules.framed p with
      credits := p.credits.set k (p.credits[k] + (f.crn - p.crnSeen[k]).toNat), crnSeen := p.crnSeen.set k f.crn })) := by
  rw [flitReceive_idle hst hquiet (Port.inFrame_clean hquiet s.now) ((Port.framed_ask _).trans hquiet.1) hgood hkind]
  refine congrArg Host.Outcome.next (State.mapPort_congr ?_)
  simp only [Port.heard, hack, hnak, Bool.false_eq_true, if_false, Port.credited_none hcrp2, Port.credited_some hcrp,
    Port.framed_credits, Port.framed_crnSeen]

/-- Up to 8 symbols in error are corrected and counted, for the port and for the lanes that carried them (R318, R343). -/
theorem flitReceive_corrects {first second : List (Fin 528)} (hkind : f.kind = 1) (hack : f.ackv = false) (hcrp : 5 ≤ f.crp.toNat)
    (hslot : (s.port port).rxSlot = 0) (hfew : first.length ≤ 8) (hrun : ∀ k : Fin 8, (s.port port).lanes[k].run < 31) :
    ∃ s', exec (.flitReceive port f first second) s = .next s' ∧ s'.now = s.now ∧
      (s'.port port).feccorr = BitVec.ofNat 32 (min 0xFFFFFFFF ((s.port port).feccorr.toNat + first.length)) ∧
      (s'.port port).crcerr = (s.port port).crcerr ∧ (s'.port port).ask = none ∧
      ∀ k : Fin 8, (s'.port port).lanes[k].count =
        (s.port port).lanes[k].count + (first.filter (fun i => laneAt (s.port port).rxLanes i.val == some k)).length := by
  have hruns : ∀ k : Fin 8, (((s.port port).corrected first).lanes[k]).run < 32 := fun k => by
    rw [Port.corrected_lane]
    refine either_branch (P := fun n : Nat => n < 32) ?_ (Nat.zero_lt_succ 31)
    exact Nat.succ_lt_succ (hrun k)
  refine ⟨_, flitReceive_idle hst hquiet (Port.inFrame_corrected hquiet s.now hslot hfew hruns second) hquiet.1 hgood hkind, rfl, ?_⟩
  rw [State.port_mapPort_same, Port.heard_nothing hack hnak hcrp hcrp2]
  exact ⟨rfl, rfl, hquiet.1, fun k => congrArg Lane.count ((s.port port).corrected_lane first k)⟩

/-- A CONTROL flit with a forced WIDTH_REQ: the transmitter takes its lanes at the next frame boundary (R342, R344). -/
theorem flitReceive_controls {l : BitVec 8} (hkind : f.kind = 2) (hack : f.ackv = false) (hcrp : 5 ≤ f.crp.toNat)
    (hcontrol : controlOf (f.units.headD 0) = some (.widthReq l true)) (hlanes : lanesIn l = 4 ∨ lanesIn l = 8) :
    exec (.flitReceive port f [] []) s = .next (s.mapPort port (fun p => { Rules.framed p with forcedTx := some l })) := by
  rw [flitReceive_good hst hquiet (Port.inFrame_clean hquiet s.now) ((Port.framed_ask _).trans hquiet.1) hgood (.inr hkind),
    if_pos hkind, hcontrol, Port.heard_nothing hack hnak hcrp hcrp2]
  show Host.Outcome.next ((s.mapPort port (fun p => Rules.framed p)).mapPort port (fun p => p.widthReq l true)) = _
  rw [State.mapPort_mapPort]
  refine congrArg Host.Outcome.next (State.mapPort_congr ?_)
  exact Port.widthReq_forced ((Port.framed_st _).trans hst) (Port.deaf_of_no_ask ((Port.framed_ask _).trans hquiet.1)) hlanes

end

end Sys2Proof.Machine
end

section
/-! PROOFS. One slot of a port's transmitter: the changes of width at its frame boundary, and the flit that it carries (R316, R326, R339,
R344, R345); and the obligation of the flits. -/

namespace Sys2Proof.Machine

/-! ### The slot -/

/-- The port as its slot begins: the changes of width that are due at a frame boundary (R344, R345). -/
def Port.atSlot (p : Port) (now : Nat) : Port :=
  if p.slot = 0 then (({ p with frameCtl := false } : Port).boundary now true).forceWidth else p

/-- A SYNC that takes its time changes nothing but the messages that wait (R377). -/
theorem Port.stampSync_eq (p : Port) (stamp : Nat) : ∃ msgs, p.stampSync stamp = { p with txMsgs := msgs } ∧
    (Rules.noMessages p → msgs = Vector.replicate 4 []) := by
  unfold Port.stampSync
  extract_lets sync
  by_cases h : p.txMsgs[(0 : Fin 4)].any (fun x => sync x.msg) = true
  · refine ⟨_, if_pos h, fun hnone => ?_⟩
    rw [hnone] at h
    exact absurd h (by decide)
  · exact ⟨p.txMsgs, if_neg h, id⟩

/-- Nor do messages of a stopped job that are set aside for the slot (R400). -/
theorem Port.setAside_eq (p : Port) (fenced : Bool) (stop : LinkMsg → Bool) (send : Port → Port) : ∃ msgs rest,
    (if fenced then (send (p.without stop)).restore p stop else send p) =
      { send { p with txMsgs := msgs } with txMsgs := rest } ∧ (Rules.noMessages p → msgs = Vector.replicate 4 []) := by
  cases fenced with
  | false => exact ⟨p.txMsgs, (send p).txMsgs, rfl, id⟩
  | true =>
    refine ⟨p.txMsgs.map (fun l => l.filter (fun x => !stop x.msg)), _, rfl, fun h => ?_⟩
    rw [h]
    simp

/-- A slot of an ACTIVE port sends what the transmitter chooses with the messages that may start (R339, R400). -/
theorem txFlitSlot_sends {port : Fin 48} {s : State} (hst : (s.port port).st = .active) :
    ∃ s' q rest, exec (.txFlitSlot port) s = .next s' ∧
      (∃ msgs, q = { ((s.port port).atSlot s.now).gainTokens s.active.ports[port].mshare with txMsgs := msgs } ∧
        (Rules.noMessages ((s.port port).atSlot s.now) → msgs = Vector.replicate 4 [])) ∧
      s'.port port = { (q.txSlot s.self port s.mp.wordState s.now).emit with txMsgs := rest } := by
  obtain ⟨msgs, hstamp, hnone⟩ := (((s.port port).atSlot s.now).gainTokens s.active.ports[port].mshare).stampSync_eq
    (256 * s.now + (0 : BitVec 8).toNat)
  generalize hp : (((s.port port).atSlot s.now).gainTokens s.active.ports[port].mshare).stampSync
    (256 * s.now + (0 : BitVec 8).toNat) = p at hstamp
  obtain ⟨msgs', rest, hsent, hnone'⟩ := p.setAside_eq s.flask.fenced s.stopped
    (fun p => (p.txSlot s.self port s.mp.wordState s.now).emit)
  refine ⟨_, { p with txMsgs := msgs' }, rest, if_neg (not_not_intro hst), ⟨msgs', by rw [hstamp], fun h => hnone' ?_⟩, ?_⟩
  · rw [hstamp]
    exact hnone h
  · rw [State.port_mapPort_same, ← hsent, ← hp]
    rfl

/-! ### An IDLE flit -/

section
variable {p : Port}

theorem Port.startable_of_no_messages (h : Rules.noMessages p) (vc : Fin 4) (mirror top : Bool) : p.startable vc mirror top = none := by
  have hqueue : p.txMsgs[vc] = [] := by rw [h]; exact Vector.getElem_replicate _
  rw [Port.startable, hqueue]
  rfl

theorem Port.startNext_of_no_messages (h : Rules.noMessages p) (top : Bool) : p.startNext top = none := by
  simp only [Port.startNext, Port.startable_of_no_messages h, Option.map_none]
  rfl

theorem Port.nextControl_none (h : p.control = []) : p.nextControl = none := by
  simp [Port.nextControl, h]

/-- With nothing to carry a slot sends an IDLE flit (R326, R339). -/
theorem Port.txSlot_idle (hcontrol : p.control = []) (hreplay : p.replayAt = none) (hunits : p.txUnits = []) (hmsgs : Rules.noMessages p)
    (self : ModuleId) (port : Fin 48) (mstate : BitVec 4) (now : Nat) :
    p.txSlot self port mstate now = p.send now (p.flit 1 0 15 []) := by
  have hdata : p.hasData = false := by
    rw [Port.hasData, hunits, Port.startNext_of_no_messages hmsgs]
    rfl
  simp only [Port.txSlot, Port.nextControl_none hcontrol, hreplay, hdata, Bool.and_false, Bool.false_eq_true, if_false]

/-- The flit of a slot joins its frame (R316). -/
theorem Port.emit_joins {f : Flit} (hflit : p.txFlit = some f) (hslot : p.slot ≠ 4) :
    p.emit = { p with slot := p.slot + 1, frame := p.frame ++ [f] } := by
  rw [Port.emit, hflit]
  exact if_neg hslot

/-- With the fifth the frame becomes two code words (R316, R317). -/
theorem Port.emit_ends {f : Flit} (hflit : p.txFlit = some f) (hslot : p.slot = 4) :
    p.emit = { p with
      slot := 0, frame := [], words := (frameWords (p.frame ++ [f]) p.scr).1, scr := (frameWords (p.frame ++ [f]) p.scr).2 } := by
  rw [Port.emit, hflit]
  exact if_pos hslot

/-- A frame boundary without a change of width (R344, R345). -/
theorem Port.atSlot_plain (hplan : p.plan = []) (hforced : p.forcedTx = none) (now : Nat) :
    p.atSlot now = { p with frameCtl := if p.slot = 0 then false else p.frameCtl } := by
  have hboundary := Port.boundary_of_no_plan (p := { p with frameCtl := false }) hplan now true
  by_cases hslot : p.slot = 0
  · rw [Port.atSlot, if_pos hslot, hboundary, if_pos hslot, Port.forceWidth]
    simp only [hforced]
  · rw [Port.atSlot, if_neg hslot, if_neg hslot]

end

/-- A flit leaves with its CRC (R329). -/
theorem Port.flit_crc (p : Port) (kind : BitVec 2) (seq : BitVec 12) (first : BitVec 4) (units : List Chunk) :
    (p.flit kind seq first units).crc = crc32c (flitBody (p.flit kind seq first units)) := by
  have hbody : ∀ f : Flit, flitBody (flitSealed f) = flitBody f := fun _ => rfl
  rw [Port.flit, hbody, flitSealed, flitChecksum]

/-- A slot with nothing to carry sends an IDLE flit with the acknowledgement, the NAK and the credits, which joins its frame (R316, R322,
R326, R333, R337). -/
theorem txFlitSlot_idle {port : Fin 48} {s : State} (hst : (s.port port).st = .active) (hcontrol : (s.port port).control = [])
    (hreplay : (s.port port).replayAt = none) (hunits : (s.port port).txUnits = []) (hmsgs : Rules.noMessages (s.port port))
    (hplan : (s.port port).plan = []) (hforced : (s.port port).forcedTx = none) :
    ∃ s' f, exec (.txFlitSlot port) s = .next s' ∧ (s'.port port).txFlit = some f ∧ f.kind = 1 ∧
      f.ack = (if (s.port port).accepted then (s.port port).rxSeq - 1 else 0) ∧ f.resv = 0 ∧ f.crc = crc32c (flitBody f) ∧
      f.ackv = (s.port port).accepted ∧ f.nak = (s.port port).nakDue ∧ f.crp = BitVec.ofNat 3 (s.port port).crNext.val ∧
      f.crn = (s.port port).freed[(s.port port).crNext] ∧ (s'.port port).slot = (s.port port).slot + 1 ∧
      (s'.port port).kept = (s.port port).kept ∧ (s'.port port).nakDue = false ∧
      ((s.port port).slot ≠ 4 → (s'.port port).frame = (s.port port).frame ++ [f]) ∧
      ((s.port port).slot = 4 → (s'.port port).frame = [] ∧
        ((s'.port port).words, (s'.port port).scr) = frameWords ((s.port port).frame ++ [f]) (s.port port).scr) := by
  obtain ⟨s', q, rest, hexec, ⟨msgs, hq, hnone⟩, hport⟩ := txFlitSlot_sends hst
  rw [Port.atSlot_plain hplan hforced] at hq hnone
  rw [Port.txSlot_idle (by rw [hq]; exact hcontrol) (by rw [hq]; exact hreplay) (by rw [hq]; exact hunits)
    (by rw [hq]; exact hnone hmsgs)] at hport
  by_cases hslot : (s.port port).slot = 4
  · rw [Port.emit_ends rfl (by rw [hq]; exact hslot)] at hport
    subst hq
    refine ⟨s', _, hexec, by rw [hport]; rfl, rfl, rfl, rfl, Port.flit_crc _ _ _ _ _, rfl, rfl, rfl, rfl, by rw [hport, hslot]; rfl,
      by rw [hport]; rfl, by rw [hport]; rfl, fun h => absurd hslot h, fun _ => ?_⟩
    rw [hport]
    exact ⟨rfl, rfl⟩
  · rw [Port.emit_joins rfl (by rw [hq]; exact hslot)] at hport
    subst hq
    refine ⟨s', _, hexec, by rw [hport]; rfl, rfl, rfl, rfl, Port.flit_crc _ _ _ _ _, rfl, rfl, rfl, rfl, by rw [hport]; rfl,
      by rw [hport]; rfl, by rw [hport]; rfl, fun _ => ?_, fun h => absurd h hslot⟩
    rw [hport]
    rfl

/-! ### Replays -/

/-- A replay begins at the oldest kept flit (R332). -/
theorem Port.startReplay_keeps {p : Port} (h : p.kept ≠ []) : p.startReplay = { p with
    replayAt := some 0, replayFrom := (p.kept.head?.map (fun f => f.seq - 1)).getD 0, replay := bump p.replay, stuck := p.stuck + 1,
    retrainDue := p.retrainDue || decide (16 ≤ p.stuck + 1) } :=
  if_neg (by simpa using h)

/-- Without an acknowledgement for 4 µs the kept flits are sent again (R332). -/
theorem replayTimeout_replays {port : Fin 48} {s : State} (hst : (s.port port).st = .active) (hkept : (s.port port).kept ≠ []) :
    ∃ s', exec (.replayTimeout port) s = .next s' ∧ s'.now = max s.now ((s.port port).ackAt + 4000) ∧
      (s'.port port).replayAt = some 0 ∧ (s'.port port).replay = Rules.saturating (s.port port).replay ∧
      (s'.port port).kept = (s.port port).kept := by
  have hwaits : ¬ ((s.port port).st ≠ .active ∨ (s.port port).kept.isEmpty) := by simp [hst, hkept]
  refine ⟨_, if_neg hwaits, rfl, ?_⟩
  rw [State.port_mapPort_same, Port.startReplay_keeps (by exact hkept)]
  exact ⟨rfl, bump_eq_saturating _, rfl⟩

/-- A NAK without an answer for 4 µs is sent again (R333). -/
theorem nakResend_resends {port : Fin 48} {t : Nat} {s : State} (hnak : (s.port port).nakAt = some t) :
    exec (.nakResend port) s =
      .next (State.mapPort { s with now := max s.now (t + 4000) } port (fun p => { p with nakDue := true })) := by
  show execNakResend port s = _
  rw [execNakResend, hnak]
  rfl

/-- Settles O27: each clause is the lemma about its slot, its flit or its timeout. -/
theorem flitsAreSentAndAcknowledged : Obligations.FlitsAreSentAndAcknowledged := by
  unfold Obligations.FlitsAreSentAndAcknowledged
  exact ⟨fun _ _ => txFlitSlot_idle,
    fun _ _ _ => flitReceive_discards,
    fun _ _ _ _ hst hquiet hgood hkind hack hnak hcrp hcrp2 => flitReceive_takes hst hquiet hgood hnak hcrp2 hkind hack hcrp,
    fun _ _ _ _ hst hquiet hgood hkind hack hnak hcrp hcrp2 => flitReceive_acknowledges hst hquiet hgood hnak hcrp2 hkind hack hcrp,
    fun _ _ _ _ hst hquiet hgood hkind hack hnak hcrp hcrp2 => flitReceive_credits hst hquiet hgood hnak hcrp2 hkind hack hcrp,
    fun _ _ => replayTimeout_replays,
    fun _ _ _ => nakResend_resends,
    fun _ _ _ _ _ hst hquiet hmany => flitReceive_uncorrectable hst hquiet hmany,
    fun _ _ _ _ _ hst hquiet hgood hkind hack hnak hcrp hcrp2 => flitReceive_corrects hst hquiet hgood hnak hcrp2 hkind hack hcrp,
    fun _ _ _ _ hst hquiet hgood hkind hack hnak hcrp hcrp2 => flitReceive_controls hst hquiet hgood hnak hcrp2 hkind hack hcrp⟩

end Sys2Proof.Machine
end

section
/-! PROOFS. Changes of a port's width by request, and heartbeats (R323, R342, R344 to R347, R351, Table 11-12). -/

namespace Sys2Proof.Machine

section
variable {port : Fin 48} {l : BitVec 8} {a : WidthAsk} {s : State}

/-! ### The request at the transmitter -/

/-- A forced WIDTH_REQ takes effect at the next frame boundary (R344). -/
theorem widthReq_forces (hst : (s.port port).st = .active) (hlanes : lanesIn l = 4 ∨ lanesIn l = 8) (hdeaf : (s.port port).deaf = false) :
    exec (.widthReq port l true) s = .next (s.mapPort port (fun p => { p with forcedTx := some l })) :=
  congrArg Host.Outcome.next (State.mapPort_congr (Port.widthReq_forced hst hdeaf hlanes))

/-- A planned one begins a countdown of SWITCH in the next 8 frames (R345). -/
theorem widthReq_plans (hst : (s.port port).st = .active) (hlanes : lanesIn l = 4 ∨ lanesIn l = 8) (hdeaf : (s.port port).deaf = false)
    (hplan : (s.port port).plan = []) (hcontrol : (s.port port).control = []) :
    exec (.widthReq port l false) s = .next (s.mapPort port (fun p => { p with
      plan := [{ transmit := true, lanes := l, fresh := p.slot != 0, left := none }]
      control := [.switch l 64, .switch l 63, .switch l 62, .switch l 61, .switch l 60, .switch l 59, .switch l 58, .switch l 57] })) := by
  refine congrArg Host.Outcome.next (State.mapPort_congr ((Port.widthReq_taken hst hdeaf hlanes).trans ?_))
  rw [hplan, hcontrol]
  rfl

/-- The messages of a burst of REALIGN under a list (R344). -/
def realigns (n : Nat) (l : BitVec 8) : List Control := List.replicate n (.realign l)

/-- A frame boundary at which a forced request takes effect begins a burst of REALIGN (R344). -/
theorem Port.atSlot_forced {p : Port} (hslot : p.slot = 0) (hplan : p.plan = []) (hcontrol : p.control = []) (hforced : p.forcedTx = some l)
    (now : Nat) : p.atSlot now = { p with
      frameCtl := false, forcedTx := none, replayAt := none, txLanes := l, widthchg := bump p.widthchg, control := realigns 8 l } := by
  have hboundary := Port.boundary_of_no_plan (p := { p with frameCtl := false }) hplan now true
  rw [Port.atSlot, if_pos hslot, hboundary, Port.forceWidth]
  simp only [hforced, hplan, hcontrol]
  rfl

/-- A frame boundary at which a countdown ends changes the transmitter's lanes (R345). -/
theorem Port.atSlot_planned {p : Port} (hslot : p.slot = 0)
    (hplan : p.plan = [{ transmit := true, lanes := l, fresh := false, left := some 1 }]) (hforced : p.forcedTx = none)
    (hcontrol : p.control = []) (now : Nat) :
    p.atSlot now = { p with frameCtl := false, plan := [], txLanes := l, widthchg := bump p.widthchg } := by
  rw [Port.atSlot, if_pos hslot]
  simp [Port.boundary, Port.changeDue, Port.changeWidth, Port.forceWidth, hplan, hforced, hcontrol]

/-- A burst of REALIGN goes first, and what it leaves is the rest of the burst (R326, R344). -/
theorem Port.txSlot_burst {p : Port} (hcontrol : p.control = realigns 8 l) (self : ModuleId) (port : Fin 48)
    (mstate : BitVec 4) (now : Nat) : p.txSlot self port mstate now = ({ p with control := realigns 7 l, frameCtl := true } : Port).send now
      (({ p with control := realigns 7 l, frameCtl := true } : Port).flit 2 0 15 [controlUnit self port mstate p.hbseq (.realign l)]) := by
  have hnext : p.nextControl = some (.realign l, realigns 7 l) := by
    simp [Port.nextControl, hcontrol, realigns, List.replicate_succ]
  rw [Port.txSlot, hnext]
  exact if_pos rfl

/-- The unit of a REALIGN is one of it (Table 11-12). -/
theorem controlOf_realign (self : ModuleId) (port : Fin 48) (mstate : BitVec 4) (hbseq : Word) (l : BitVec 8) :
    controlOf (controlUnit self port mstate hbseq (.realign l)) = some (.realign l) := by
  have hl := l.isLt
  have hunit : (controlUnit self port mstate hbseq (.realign l)).toNat = 3 * 2 ^ 120 + l.toNat * 2 ^ 96 := by
    rw [controlUnit, BitVec.toNat_ofNat]
    exact Nat.mod_eq_of_lt (by omega)
  have htype : bitsAt (3 * 2 ^ 120 + l.toNat * 2 ^ 96) 120 8 = 3 := by
    rw [bitsAt, Nat.shiftRight_eq_div_pow]
    omega
  have hlanes : bitsAt (3 * 2 ^ 120 + l.toNat * 2 ^ 96) 96 8 = l.toNat := by
    rw [bitsAt, Nat.shiftRight_eq_div_pow]
    omega
  simp only [controlOf, hunit, htype, hlanes, BitVec.ofNat_toNat, BitVec.setWidth_eq]

/-- The slot in which a forced request takes effect sends the first REALIGN of its burst (R344). -/
theorem txFlitSlot_realigns (hst : (s.port port).st = .active) (hslot : (s.port port).slot = 0) (hplan : (s.port port).plan = [])
    (hcontrol : (s.port port).control = []) (hforced : (s.port port).forcedTx = some l) :
    ∃ s' f, exec (.txFlitSlot port) s = .next s' ∧ (s'.port port).txFlit = some f ∧ f.kind = 2 ∧
      controlOf (f.units.headD 0) = some (.realign l) ∧ (s'.port port).txLanes = l ∧ (s'.port port).replayAt = none ∧
      (s'.port port).widthchg = Rules.saturating (s.port port).widthchg ∧ (s'.port port).forcedTx = none ∧
      (s'.port port).control = List.replicate 7 (.realign l) := by
  obtain ⟨s', q, rest, hexec, ⟨msgs, hq, -⟩, hport⟩ := txFlitSlot_sends hst
  rw [Port.atSlot_forced hslot hplan hcontrol hforced] at hq
  have hfirst : q.slot ≠ 4 := by rw [hq]; exact fun h => absurd (hslot.symm.trans h) (by decide)
  rw [Port.txSlot_burst (by rw [hq]; rfl), Port.emit_joins rfl (by exact hfirst)] at hport
  subst hq
  exact ⟨s', _, hexec, congrArg Port.txFlit hport, rfl, controlOf_realign s.self port s.mp.wordState (s.port port).hbseq l,
    congrArg Port.txLanes hport,
    congrArg Port.replayAt hport, (congrArg Port.widthchg hport).trans (bump_eq_saturating _), congrArg Port.forcedTx hport,
    congrArg Port.control hport⟩

/-- The slot at whose frame boundary a countdown ends goes out with the new lanes (R345). -/
theorem txFlitSlot_changes (hst : (s.port port).st = .active) (hslot : (s.port port).slot = 0)
    (hplan : (s.port port).plan = [{ transmit := true, lanes := l, fresh := false, left := some 1 }])
    (hforced : (s.port port).forcedTx = none) (hcontrol : (s.port port).control = []) (hunits : (s.port port).txUnits = [])
    (hmsgs : Rules.noMessages (s.port port)) (hreplay : (s.port port).replayAt = none) :
    ∃ s', exec (.txFlitSlot port) s = .next s' ∧ (s'.port port).txLanes = l ∧ (s'.port port).plan = [] ∧
      (s'.port port).widthchg = Rules.saturating (s.port port).widthchg := by
  obtain ⟨s', q, rest, hexec, ⟨msgs, hq, hnone⟩, hport⟩ := txFlitSlot_sends hst
  rw [Port.atSlot_planned hslot hplan hforced hcontrol] at hq hnone
  have hfirst : q.slot ≠ 4 := by rw [hq]; exact fun h => absurd (hslot.symm.trans h) (by decide)
  rw [Port.txSlot_idle (by rw [hq]; exact hcontrol) (by rw [hq]; exact hreplay) (by rw [hq]; exact hunits)
    (by rw [hq]; exact hnone hmsgs), Port.emit_joins rfl (by exact hfirst)] at hport
  subst hq
  refine ⟨s', hexec, ?_⟩
  rw [hport]
  exact ⟨rfl, rfl, bump_eq_saturating _⟩

/-- A planned change that is due comes about without a flit of its own (R345). -/
theorem widthChangePoint_changes {fresh : Bool}
    (hplan : (s.port port).plan = [{ transmit := true, lanes := l, fresh := fresh, left := some 0 }])
    (hcontrol : (s.port port).control = []) :
    exec (.widthChangePoint port) s = .next (s.mapPort port (fun p =>
      { p with plan := [], txLanes := l, widthchg := Rules.saturating p.widthchg })) := by
  refine congrArg Host.Outcome.next (State.mapPort_congr ?_)
  simp [Port.changeDue, Port.changeWidth, hplan, hcontrol, bump_eq_saturating]

/-! ### The request at the receiver -/

/-- A request without an answer is sent again, up to the eighth time (Table 11-12). -/
theorem widthReqRepeat_repeats (hask : (s.port port).ask = some a) (hfew : a.attempts < 8) :
    exec (.widthReqRepeat port) s = .next (State.mapPort { s with now := max s.now (a.at_ + if a.forced then 4000 else 100000) } port
      (fun p => { p with
        ask := some { a with attempts := a.attempts + 1, at_ := max s.now (a.at_ + if a.forced then 4000 else 100000) }
        control := p.control ++ [.widthReq a.lanes a.forced] })) := by
  show execWidthReqRepeat port s = _
  simp only [execWidthReqRepeat, hask]
  exact if_pos hfew

/-- A forced one that no attempt answered retrains the port (R344). -/
theorem widthReqRepeat_retrains (hask : (s.port port).ask = some a) (hmany : 8 ≤ a.attempts) (hforced : a.forced = true) :
    exec (.widthReqRepeat port) s = .next (State.mapPort { s with now := max s.now (a.at_ + 4000) } port
      (fun p => { p with ask := none, retrainDue := true })) := by
  show execWidthReqRepeat port s = _
  simp only [execWidthReqRepeat, hask, hforced]
  exact if_neg (Nat.not_lt.mpr hmany)

/-- A planned one is abandoned, and the lanes that it was to remove are no longer marginal (R345). -/
theorem widthReqRepeat_abandons (hask : (s.port port).ask = some a) (hmany : 8 ≤ a.attempts) (hforced : a.forced = false) :
    ∃ s', exec (.widthReqRepeat port) s = .next s' ∧ (s'.port port).ask = none ∧
      (s'.port port).retrainDue = (s.port port).retrainDue ∧
      ∀ k : Fin 8, ((s'.port port).lanes[k]).marginal = false ∧ ((s'.port port).lanes[k]).st = ((s.port port).lanes[k]).st := by
  have hexec : exec (.widthReqRepeat port) s = .next (((s.wait (a.at_ + 100000)).mapPort port Port.keepMarginal).log
      (portEvent 0 0x0405 port 0 [])) := by
    show execWidthReqRepeat port s = _
    simp only [execWidthReqRepeat, hask, hforced]
    exact if_neg (Nat.not_lt.mpr hmany)
  refine ⟨_, hexec, ?_⟩
  rw [State.log_port, State.port_mapPort_same]
  refine ⟨rfl, rfl, fun k => ?_⟩
  have hlane : (Port.keepMarginal (s.port port)).lanes[k] = if (s.port port).lanes[k].marginal then
      { (s.port port).lanes[k] with marginal := false, heldOut := false, removals := (s.port port).lanes[k].removals.drop 1 }
      else (s.port port).lanes[k] := Vector.getElem_map ..
  rw [show (s.wait (a.at_ + 100000)).port port = s.port port from rfl, hlane]
  split_ifs with hmarginal
  · exact ⟨rfl, rfl⟩
  · exact ⟨Bool.eq_false_iff.mpr hmarginal, rfl⟩

/-- REALIGN under the list that a forced request asked for ends the request, and says where the receiver stands in the frame (R344). -/
theorem realign_aligns {nth : Fin 8} (hask : (s.port port).ask = some a) (hforced : a.forced = true) :
    exec (.realign port a.lanes nth) s = .next (s.mapPort port (fun p =>
      { p.useRx s.now a.lanes with
        ask := none, widthchg := Rules.saturating p.widthchg, rxSlot := Fin.ofNat 5 (nth.val + 1), wordBad := false
        badWords := 0 })) := by
  refine congrArg Host.Outcome.next (State.mapPort_congr ?_)
  rw [Port.realign, hask]
  exact if_pos ⟨hforced, rfl⟩

/-- SWITCH ends a planned request, and fixes the receiver's change point (R345). -/
theorem switch_fixes {n : BitVec 8} (hask : (s.port port).ask = some a) (hforced : a.forced = false) (hmin : 57 ≤ n.toNat)
    (hmax : n.toNat ≤ 64) :
    exec (.switch port a.lanes n) s = .next (s.mapPort port (fun p =>
      { p with ask := none, plan := p.plan ++ [{ transmit := false, lanes := a.lanes, fresh := false, left := some (n.toNat + 1) }] })) := by
  refine congrArg Host.Outcome.next (State.mapPort_congr ?_)
  rw [Port.switchAt, hask]
  exact if_pos ⟨by rw [hforced]; rfl, rfl, hmin, hmax⟩

/-! ### Heartbeats -/

/-- While the heartbeat word is fresh an ACTIVE port sends its heartbeat (R346). -/
theorem heartbeatSend_sends (hst : (s.port port).st = .active)
    (hfresh : max s.now ((s.port port).hbAt + 1000000) < s.mp.wordAt + 5000000) :
    exec (.heartbeatSend port) s = .next (State.mapPort { s with now := max s.now ((s.port port).hbAt + 1000000) } port (fun p =>
      { p with hbAt := max s.now ((s.port port).hbAt + 1000000), hbseq := p.hbseq + 1, control := p.control ++ [.heartbeat] })) :=
  (if_neg (not_not_intro hst)).trans (congrArg Host.Outcome.next (if_pos (decide_eq_true hfresh)))

/-- What is true of the default and of every entry of a table is true of what it reads (R346). -/
theorem tget_map_of_forall {α : Type} {P : α → Prop} (t : Table α) (f : α → α) {d : α} (hd : P d) (hf : ∀ v, P (f v)) (k : Nat) :
    P (tget (t.map (fun x => (x.1, f x.2))) d k) := by
  induction t with
  | nil => exact hd
  | cons x t ih => exact either_branch (hf x.2) ih

/-- When the heartbeat word is stale no port has a heartbeat to send (R346). -/
theorem hbWordStale_stops (s : State) : ∃ s', exec .hbWordStale s = .next s' ∧ s'.now = max s.now (s.mp.wordAt + 5000000) ∧
    ∀ p : Fin 48, .heartbeat ∉ (s'.port p).control := by
  refine ⟨_, rfl, rfl, fun p => ?_⟩
  have hmuted : ∀ p : Port, Control.heartbeat ∉
      ({ p with control := p.control.filter (fun c => decide (c ≠ .heartbeat)) } : Port).control := fun p => by simp
  exact tget_map_of_forall (P := fun p : Port => Control.heartbeat ∉ p.control) (d := Port.reset) s.ports
    (fun p => { p with control := p.control.filter (fun c => decide (c ≠ .heartbeat)) }) List.not_mem_nil hmuted p.val

/-- A heartbeat of the known peer resets MISS (R346, R347). -/
theorem heartbeat_resets {m : ModuleId} {pp : BitVec 6} {ms : BitVec 4} {n : BitVec 32} (hst : (s.port port).st = .active)
    (hdeaf : (s.port port).deaf = false) (hpeer : (s.port port).peer = some (m, pp)) (hms : ms ≠ 2) :
    exec (.heartbeat port m pp ms n) s = .next (s.mapPort port (fun p => { p with miss := 0, hbState := ms })) := by
  have hheard : ¬ ((s.port port).st ≠ .active ∨ (s.port port).deaf = true) := by simp [hst, hdeaf]
  have hsame : (s.mapPort port (fun p => { p with miss := 0, hbState := ms })).mapPort port (fun p => { p with peer := some (m, pp) }) =
      s.mapPort port (fun p => { p with miss := 0, hbState := ms }) := by
    rw [State.mapPort_mapPort]
    exact State.mapPort_congr (by rw [← hpeer])
  refine congrArg Host.Outcome.next ((if_neg hheard).trans ?_)
  simp only [hpeer, if_neg hms, bne_self_eq_false, Bool.false_eq_true, if_false, Option.isNone_some, hsame]

/-- One that names another peer sends the port DOWN (R323, R347). -/
theorem heartbeat_of_another {m x : ModuleId} {pp y : BitVec 6} {ms : BitVec 4} {n : BitVec 32} (hst : (s.port port).st = .active)
    (hdeaf : (s.port port).deaf = false) (hpeer : (s.port port).peer = some (x, y)) (hother : (x, y) ≠ (m, pp)) :
    ∃ s', exec (.heartbeat port m pp ms n) s = .next s' ∧ (s'.port port).st = .down ∧ (s'.port port).peer = none ∧
      (s'.port port).miss = 0 ∧ (s'.port port).hbState = ms := by
  have hheard : ¬ ((s.port port).st ≠ .active ∨ (s.port port).deaf = true) := by simp [hst, hdeaf]
  have hnew : ((x, y) != (m, pp)) = true := bne_iff_ne.mpr hother
  refine ⟨s.heartbeat port m pp ms, rfl, ?_⟩
  rw [State.heartbeat, if_neg hheard]
  simp only [hpeer, hnew, if_true]
  have hlogged : (if ms = 2 then (s.mapPort port (fun p => { p with miss := 0, hbState := ms })).log
      (portEvent 1 0x0407 port 0 [ms.setWidth 32]) else s.mapPort port (fun p => { p with miss := 0, hbState := ms })).port port =
      { s.port port with miss := 0, hbState := ms } := by
    refine (ite_keeps (g := fun t : State => t.port port) (a := s.mapPort port (fun p => { p with miss := 0, hbState := ms }))
      (State.log_port _ _ _) rfl).trans (State.port_mapPort_same _ _ _)
  generalize (if ms = 2 then (s.mapPort port (fun p => { p with miss := 0, hbState := ms })).log
    (portEvent 1 0x0407 port 0 [ms.setWidth 32]) else s.mapPort port (fun p => { p with miss := 0, hbState := ms })) = t at hlogged ⊢
  obtain ⟨tags, hleft⟩ := (t.mapPort port (fun p =>
    { p.retrainLanes t.now t.active.ports[port] with st := .down, peer := none })).port_leaveActive port
  rw [State.log_port, hleft, State.port_mapPort_same, hlogged]
  exact ⟨rfl, rfl, rfl, rfl⟩

/-- A period without a good heartbeat counts in MISS, and below the limit no more comes of it (R347). -/
theorem heartbeatMiss_counts (hst : (s.port port).st ≠ .disabled) (hlimit : (s.port port).miss.toNat + 1 ≠ (s.port port).hblim.toNat) :
    exec (.heartbeatMiss port) s = .next (s.mapPort port (fun p =>
      { p with miss := if p.miss = 0xFFFF then p.miss else p.miss + 1 })) := by
  refine (if_neg hst).trans (congrArg Host.Outcome.next (if_neg ?_))
  rintro ⟨hreached, hgrown⟩
  by_cases hfull : (s.port port).miss = 0xFFFF
  · exact hgrown (if_pos hfull)
  · rw [if_neg hfull] at hreached
    refine hlimit (Eq.trans ?_ hreached)
    have hlt := (s.port port).miss.isLt
    have hne : (s.port port).miss.toNat ≠ 0xFFFF := fun h => hfull (BitVec.eq_of_toNat_eq h)
    rw [BitVec.toNat_add]
    exact (Nat.mod_eq_of_lt (by simp; omega)).symm

end

/-- Settles O26: each clause is the lemma about its request, its answer or its heartbeat. -/
theorem widthsChangeAndHeartbeatsPass : Obligations.WidthsChangeAndHeartbeatsPass := by
  unfold Obligations.WidthsChangeAndHeartbeatsPass
  exact ⟨fun _ _ _ => widthReq_forces, fun _ _ _ => widthReq_plans, fun _ _ _ => widthReqRepeat_repeats,
    fun _ _ _ => widthReqRepeat_retrains, fun _ _ _ => widthReqRepeat_abandons, fun _ _ _ _ => realign_aligns,
    fun _ _ _ _ => switch_fixes, fun _ _ _ _ => widthChangePoint_changes, fun _ _ => heartbeatSend_sends, hbWordStale_stops,
    fun _ _ _ _ _ _ => heartbeat_resets, fun _ _ _ _ _ _ _ _ => heartbeat_of_another, fun _ _ => heartbeatMiss_counts,
    fun _ _ _ => txFlitSlot_realigns, fun _ _ _ => txFlitSlot_changes⟩

end Sys2Proof.Machine
end

section
/-! PROOFS. Responses end their requests, management messages are taken or dropped, and messages take their hop (R331, R334, R340, R341,
R354, R356, R358, R360, R377). -/

namespace Sys2Proof.Machine

/-! ### What a port keeps when a message has left it -/

/-- A change of one port that keeps a quantity of it keeps that of every port. -/
theorem State.port_mapPort_keeps {γ : Type} {g : Port → γ} {s : State} {p : Fin 48} {f : Port → Port}
    (h : g (f (s.port p)) = g (s.port p)) (q : Fin 48) : g ((s.mapPort p f).port q) = g (s.port q) := by
  by_cases hq : q.val = p.val
  · rw [Fin.ext hq, State.port_mapPort_same, h]
  · exact congrArg g (tget_tset_other _ _ _ _ _ hq)

theorem Port.passed_tags (p : Port) (m : LinkMsg) : (p.passed m).tags = p.tags := ite_keeps (g := Port.tags) rfl rfl
theorem Port.passed_st (p : Port) (m : LinkMsg) : (p.passed m).st = p.st := ite_keeps (g := Port.st) rfl rfl
theorem Port.passed_peer (p : Port) (m : LinkMsg) : (p.passed m).peer = p.peer := ite_keeps (g := Port.peer) rfl rfl

/-- A message that has left the receive queue of a port leaves the tags of every port alone (R337). -/
theorem State.received_tags (s : State) (port : Fin 48) (m : LinkMsg) (q : Fin 48) :
    ((Rules.received s port m).port q).tags = (s.port q).tags :=
  State.port_mapPort_keeps (f := fun p => p.passed m) (g := Port.tags) ((s.port port).passed_tags m) q

theorem State.receive_eq_received (s : State) (port : Fin 48) (m : LinkMsg) : s.receive port m = Rules.received s port m := rfl

theorem State.turn_of_due {s : State} {port : Fin 48} {m : LinkMsg} {type : BitVec 4} (h : Rules.Due s port m type) :
    s.turn port m type = true := by
  obtain ⟨htype, hdest, hturn⟩ := h
  simp [State.turn, State.mine, htype, hdest, hturn]

/-! ### Responses -/

section
variable {port q : Fin 48} {m : LinkMsg} {s : State}

/-- A response that comes through intact is what it was. -/
theorem State.endingFlits_intact (s : State) (e : Fin 8) (who : Requester) (x : Ending) : s.endingFlits e who x [] = (s, x) := by
  cases who <;> cases x <;> rfl

/-- SPORT names the port that holds the tag (R340). -/
theorem sport_names (h : m.sport.toNat = q.val) : ¬ 48 ≤ m.sport.toNat ∧ Fin.ofNat 48 m.sport.toNat = q := by
  rw [h]
  exact ⟨Nat.not_le.mpr q.isLt, Fin.ext (Nat.mod_eq_of_lt q.isLt)⟩

/-- A response to a free tag is discarded and counted (R341). -/
theorem State.response_free (hsport : m.sport.toNat = q.val) (hfree : (s.port q).tags.find? (fun t => t.1 == m.tag.toNat) = none)
    (x : Ending) : s.response port m x [] =
      (Rules.received s port m).mapPort q (fun p => { p with latersp := Rules.saturating p.latersp }) := by
  obtain ⟨hvalid, hq⟩ := sport_names hsport
  refine (if_neg hvalid).trans ?_
  rw [hq]
  simp only [State.receive_eq_received, State.received_tags, hfree, bump_eq_saturating]

variable {type : BitVec 4} {k : Nat} {u : TagUse} {x : Ending}

/-- One that does not answer the request which holds the tag now is discarded and counted too (R341). -/
theorem State.response_late (h : Rules.Returns s port m type q k u) (hlate : answersRequest u.msg m x = false) :
    s.response port m x [] = (Rules.received s port m).mapPort q (fun p => { p with latersp := Rules.saturating p.latersp }) := by
  obtain ⟨-, hsport, htag⟩ := h
  obtain ⟨hvalid, hq⟩ := sport_names hsport
  refine (if_neg hvalid).trans ?_
  rw [hq]
  simp only [State.receive_eq_received, State.received_tags, htag, hlate, bump_eq_saturating, Bool.not_false, if_true]

/-- What an ending makes of the count of refusals received (R331). -/
def Ending.counted : Ending → Word → Word
  | .refused _, n => bump n
  | _, n => n

/-- One that answers the request of a granule frees the tag and ends the request at the queue that made it (R340). -/
theorem State.response_ends {core : CoreId} {dq : Fin 4} {key : Nat} (h : Rules.Returns s port m type q k u)
    (hwho : u.who = .dma core dq key) (hanswers : answersRequest u.msg m x = true) :
    s.response port m x [] = State.setCore ((Rules.received s port m).mapPort q (fun p =>
      { p with tags := tdel p.tags k, refrx := x.counted p.refrx })) core
        ((s.core core).setAnswer dq key (x.granule u.msg).1 (x.granule u.msg).2) := by
  obtain ⟨-, hsport, htag⟩ := h
  obtain ⟨hvalid, hq⟩ := sport_names hsport
  refine (if_neg hvalid).trans ?_
  rw [hq]
  simp only [State.receive_eq_received, State.received_tags, htag, hanswers, State.endingFlits_intact, hwho, Bool.not_true,
    Bool.false_eq_true, if_false]
  cases x <;> rfl

variable {core : CoreId} {dq : Fin 4} {key : Nat}

/-- Read data ends the READ or the ATOMIC that asked for as much (R340). -/
theorem rdata_ends (h : Rules.Returns s port m 8 q k u) (hwho : u.who = .dma core dq key) (hfrom : m.smod = u.msg.dmod)
    (hasked : u.msg.type = 1 ∧ m.data.length = 16 * u.msg.aux.toNat ∨ u.msg.type = 2 ∧ m.data.length = 16) :
    exec (.rdata port m) s = .next (State.setCore ((Rules.received s port m).mapPort q (fun p => { p with tags := tdel p.tags k })) core
      ((s.core core).setAnswer dq key .ok (.clean m.data))) := by
  have hanswers : answersRequest u.msg m (.data m.data) = true := by simpa [answersRequest, hfrom] using hasked
  exact congrArg Host.Outcome.next ((if_pos (State.turn_of_due h.1)).trans (State.response_ends h hwho hanswers))

/-- DONE ends a WRITE, a mirror write or a REDUCE_FWD (R340). -/
theorem done_ends (h : Rules.Returns s port m 9 q k u) (hwho : u.who = .dma core dq key) (hfrom : m.smod = u.msg.dmod)
    (hasked : u.msg.type = 0 ∨ u.msg.type = 3 ∨ u.msg.type = 4) :
    exec (.done port m) s = .next (State.setCore ((Rules.received s port m).mapPort q (fun p => { p with tags := tdel p.tags k })) core
      ((s.core core).setAnswer dq key .ok .empty)) := by
  have hanswers : answersRequest u.msg m .done = true := by simpa [answersRequest, hfrom, or_assoc] using hasked
  exact congrArg Host.Outcome.next ((if_pos (State.turn_of_due h.1)).trans (State.response_ends h hwho hanswers))

/-- A refusal ends its request and counts; NO_ROUTE may come from a module on the way (R331, R340). -/
theorem refused_ends (h : Rules.Returns s port m 0xA q k u) (hwho : u.who = .dma core dq key)
    (hfrom : m.smod = u.msg.dmod ∨ m.aux = 6) :
    exec (.refused port m) s = .next (State.setCore ((Rules.received s port m).mapPort q (fun p =>
      { p with tags := tdel p.tags k, refrx := Rules.saturating p.refrx })) core
        ((s.core core).setAnswer dq key (.refused m.aux) .empty)) := by
  have hanswers : answersRequest u.msg m (.refused m.aux) = true := by simpa [answersRequest] using hfrom
  exact congrArg Host.Outcome.next ((if_pos (State.turn_of_due h.1)).trans (State.response_ends h hwho hanswers))

theorem done_of_free_tag (hdue : Rules.Due s port m 9) (hsport : m.sport.toNat = q.val)
    (hfree : (s.port q).tags.find? (fun t => t.1 == m.tag.toNat) = none) :
    exec (.done port m) s = .next ((Rules.received s port m).mapPort q (fun p => { p with latersp := Rules.saturating p.latersp })) :=
  congrArg Host.Outcome.next ((if_pos (State.turn_of_due hdue)).trans (State.response_free hsport hfree _))

/-- Read data from another module than the one asked answers nothing (R341). -/
theorem rdata_of_another (h : Rules.Returns s port m 8 q k u) (hfrom : m.smod ≠ u.msg.dmod) :
    exec (.rdata port m) s = .next ((Rules.received s port m).mapPort q (fun p => { p with latersp := Rules.saturating p.latersp })) := by
  have hlate : answersRequest u.msg m (.data m.data) = false := by simp [answersRequest, hfrom]
  exact congrArg Host.Outcome.next ((if_pos (State.turn_of_due h.1)).trans (State.response_late h hlate))

/-- Nor does read data of another length than a READ asked for (R341). -/
theorem rdata_of_another_length (h : Rules.Returns s port m 8 q k u) (hread : u.msg.type = 1)
    (hlength : m.data.length ≠ 16 * u.msg.aux.toNat) :
    exec (.rdata port m) s = .next ((Rules.received s port m).mapPort q (fun p => { p with latersp := Rules.saturating p.latersp })) := by
  have hlate : answersRequest u.msg m (.data m.data) = false := by simp [answersRequest, hread, hlength]
  exact congrArg Host.Outcome.next ((if_pos (State.turn_of_due h.1)).trans (State.response_late h hlate))

/-! ### Requests without a response -/

/-- A request without a response in REQTMO ends, and its tag rests (R341). -/
theorem requestTimeout_ends {tag : BitVec 12} (hfind : (s.port port).tags.find? (fun x => x.1 == tag.toNat) = some (k, u))
    (hwho : u.who = .dma core dq key) :
    ∃ s', exec (.requestTimeout port tag) s = .next s' ∧ s'.now = max s.now (u.sent + (s.port port).reqtmo.toNat * 1000) ∧
      (s'.port port).tags = tdel (s.port port).tags k ∧ (s'.port port).cooling = tset (s.port port).cooling k s'.now ∧
      s'.core core = (s.core core).setAnswer dq key
        (.timeout (if u.msg.pkg then BitVec.ofNat 13 (u.msg.addr.toNat / 2 ^ 22) else 0)) .empty := by
  have hexec : exec (.requestTimeout port tag) s = .next ((((s.wait (u.sent + (s.port port).reqtmo.toNat * 1000)).mapPort port (fun p =>
      { p with tags := tdel p.tags k, cooling := tset p.cooling k (s.wait (u.sent + (s.port port).reqtmo.toNat * 1000)).now }))).setCore core
        ((s.core core).setAnswer dq key
          (.timeout (if u.msg.pkg then BitVec.ofNat 13 (u.msg.addr.toNat / 2 ^ 22) else 0)) .empty)) := by
    show execRequestTimeout port tag s = _
    simp only [execRequestTimeout, hfind, hwho]
    rfl
  have hport := (s.wait (u.sent + (s.port port).reqtmo.toNat * 1000)).port_mapPort_same port (fun p =>
      { p with tags := tdel p.tags k, cooling := tset p.cooling k (s.wait (u.sent + (s.port port).reqtmo.toNat * 1000)).now })
  exact ⟨_, hexec, rfl, congrArg Port.tags hport, congrArg Port.cooling hport, tget_tset_same _ _ _ _⟩

/-- After a further REQTMO the tag may be taken again (R341). -/
theorem tagReuseExpiry_frees {tag : BitVec 12} {t : Nat}
    (hfind : (s.port port).cooling.find? (fun x => x.1 == tag.toNat) = some (k, t)) :
    exec (.tagReuseExpiry port tag) s = .next (State.mapPort
      { s with now := max s.now (t + (s.port port).reqtmo.toNat * 1000) } port (fun p => { p with cooling := tdel p.cooling k })) := by
  show execTagReuseExpiry port tag s = _
  simp only [execTagReuseExpiry, hfind]
  rfl

/-! ### Management messages -/

/-- A management message without room is dropped and counted (R356). -/
theorem mgmt_drops (hdue : Rules.Due s port m 5) : exec (.mgmt port m false) s = .next { Rules.received s port m with
    switch := { s.switch with mgmtdrop := Rules.saturating s.switch.mgmtdrop } } := by
  have htakes : ¬ (!s.turn port m 5) = true := by rw [State.turn_of_due hdue]; decide
  exact if_neg htakes

/-- An anchor takes RESULT and NOTICE messages into its receive ring (R356, R457). -/
theorem mgmt_stores (hdue : Rules.Due s port m 5) (hsubop : m.subop = 2 ∨ m.subop = 3) (hanchor : s.active.anchor = true)
    (hroom : s.host.rxwp + 1 ≠ s.host.rxrp) :
    ∃ s', exec (.mgmt port m true) s = .next s' ∧ tget s'.host.rx m s.host.rxwp.toNat = m ∧ s'.host.rxwp = s.host.rxwp + 1 := by
  have htakes : ¬ (!s.turn port m 5) = true := by rw [State.turn_of_due hdue]; decide
  have hstores : (s.receive port m).takeMgmt m = (s.receive port m).storeMessage m := by
    rcases hsubop with h | h <;> rw [State.takeMgmt, h] <;> rfl
  exact ⟨_, (if_neg htakes).trans (congrArg Host.Outcome.next hstores), (s.receive port m).storeMessage_stores m hanchor hroom⟩

end

/-! ### The hops of a message, and the choice among them -/

section
variable {s s' : State}

/-- The allowed hops depend on the ports that may carry a routed message (Table 12-4). -/
theorem State.hops_congr (h : ∀ t p, s'.usable t p = s.usable t p) (t : RouteTable) (a : Arrived) (m : LinkMsg) :
    s'.hops t a m = s.hops t a m := by
  have husable : s'.usable = s.usable := funext fun t => funext fun p => h t p
  simp only [State.hops, State.locPort, husable]

/-- The choice depends on the costs of the ports and on the ports chosen last (R357). -/
theorem State.choose_congr {t : RouteTable} {e : Fin 8} (hcost : ∀ p, s'.cost t e p = s.cost t e p)
    (hlast : s'.switch.lastPort = s.switch.lastPort) (h : Hops) : s'.choose t e h = s.choose t e h := by
  have hbetter : ∀ p q, s'.better t e p q = s.better t e p q := fun p q => by
    simp only [State.better, hcost, hlast]
  have hcheapest : ∀ l, s'.cheapest t e l = s.cheapest t e l := fun l => by
    induction l with
    | nil => rfl
    | cons p ps ih => simp only [State.cheapest, ih, hbetter]
  simp only [State.choose, hcheapest, hcost]

end

/-! ### Forwarding -/

section
variable {e : Fin 8} {m : LinkMsg} {p q : Fin 48} {s : State}

/-- A message that takes no tag takes the hop chosen for it (R354). -/
theorem State.routeMsg_departs {a : Arrived} {base : LinkMsg}
    (hchoose : s.choose (s.routes (rsEp m)) e (s.hops (s.routes (rsEp m)) a m) = some (p, false)) :
    s.routeMsg e a base m none = some (s.depart e p
      { crossed := false, edie := e, came := a, base := base, who := none
        msg := hopped (s.routes (rsEp m)) m p false (s.hops (s.routes (rsEp m)) a m).detour }) := by
  simp only [State.routeMsg, hchoose]
  rfl

/-- The messages that wait at the source decide neither the hops nor the choice (R357, Table 12-4). -/
theorem State.choose_hops_of_waiting (s : State) (w : List Outgoing) (t : RouteTable) (e : Fin 8) (a : Arrived) (m : LinkMsg) :
    State.hops { s with switch := { s.switch with waiting := w } } t a m = s.hops t a m ∧
      State.choose { s with switch := { s.switch with waiting := w } } t e (s.hops t a m) = s.choose t e (s.hops t a m) :=
  ⟨State.hops_congr (s := s) (s' := { s with switch := { s.switch with waiting := w } }) (fun _ _ => rfl) t a m,
    State.choose_congr (s := s) (s' := { s with switch := { s.switch with waiting := w } }) (fun _ => rfl) rfl _⟩

/-- One of this module's own that has no route is counted (R358). -/
theorem State.routeMsg_without_route {base : LinkMsg}
    (hchoose : s.choose (s.routes (rsEp m)) e (s.hops (s.routes (rsEp m)) .fromSource m) = none) :
    s.routeMsg e .fromSource base m none =
      some { s with switch := { s.switch with noroute := Rules.saturating s.switch.noroute } } := by
  simp only [State.routeMsg, hchoose]
  rfl

/-- TIME_SYNC is never forwarded (R377). -/
theorem forwardMessage_of_time_sync (came : Arrived) (h : m.type = 6) : exec (.forwardMessage e came m) s = .next s :=
  if_pos (by rw [h, beq_self_eq_true, Bool.or_true])

/-- A message of this module's own is routed by the active table (R360). -/
theorem rsEp_relocated (s : State) (m : LinkMsg) : rsEp (Rules.relocated s m) = s.switch.ep := by
  show (rstateOf 0 false false s.switch.ep).getLsbD 3 = s.switch.ep
  cases s.switch.ep <;> decide

theorem State.routes_relocated (s : State) (m : LinkMsg) : s.routes (rsEp (Rules.relocated s m)) = s.active.route := by
  rw [rsEp_relocated]
  exact if_pos rfl

section
variable (hruns : s.stopped m = false) (htype : m.type ≠ 6) (hwaits : s.switch.waiting = [{ edie := e, msg := m, who := none }])
  (hdest : (Rules.relocated s m).dmod ≠ s.self)
include hruns htype hwaits hdest

/-- The only message that waits at its source is routed with its destination relocated (R354, R404). -/
theorem forwardMessage_routes : exec (.forwardMessage e .fromSource m) s =
    .next ((State.routeMsg { s with switch := { s.switch with waiting := [] } } e .fromSource m (Rules.relocated s m) none).getD s) := by
  have hforwards : ¬ (s.stopped m || m.type == 6) = true := by
    rw [hruns, Bool.false_or, beq_iff_eq]
    exact htype
  have hfirst : s.switch.waiting.findIdx? (fun x => x.edie == e && decide (x.msg = m)) = some 0 := by
    simp [hwaits, List.findIdx?_cons]
  have hhead : s.switch.waiting[0]? = some { edie := e, msg := m, who := none } := by rw [hwaits]; rfl
  have hrest : s.switch.waiting.eraseIdx 0 = [] := by rw [hwaits]; rfl
  show execForwardMessage e .fromSource m s [] = _
  simp only [execForwardMessage, if_neg hforwards, hfirst, hhead, hrest, State.requestFlits]
  exact congrArg (fun r => Host.Outcome.next (Option.getD r s)) (if_neg hdest)

/-- It takes the hop chosen for it (R354). -/
theorem forwardMessage_departs
    (hchoose : s.choose s.active.route e (s.hops s.active.route .fromSource (Rules.relocated s m)) = some (p, false)) :
    exec (.forwardMessage e .fromSource m) s = .next (State.depart { s with switch := { s.switch with waiting := [] } } e p
      { crossed := false, edie := e, came := .fromSource, base := m, who := none
        msg := hopped s.active.route (Rules.relocated s m) p false
          (s.hops s.active.route .fromSource (Rules.relocated s m)).detour }) := by
  have hroutes := s.routes_relocated m
  obtain ⟨hhops, hsame⟩ := s.choose_hops_of_waiting [] s.active.route e .fromSource (Rules.relocated s m)
  rw [forwardMessage_routes hruns htype hwaits hdest, State.routeMsg_departs (p := p)]
  · rw [← hhops, ← hroutes]
    rfl
  · show State.choose _ (s.routes _) e (State.hops _ (s.routes _) _ _) = _
    rw [hroutes, hhops, hsame, hchoose]

/-- Without a route it is counted (R358). -/
theorem forwardMessage_without_route
    (hchoose : s.choose s.active.route e (s.hops s.active.route .fromSource (Rules.relocated s m)) = none) :
    exec (.forwardMessage e .fromSource m) s = .next { s with
      switch := { s.switch with waiting := [], noroute := Rules.saturating s.switch.noroute } } := by
  have hroutes := s.routes_relocated m
  obtain ⟨hhops, hsame⟩ := s.choose_hops_of_waiting [] s.active.route e .fromSource (Rules.relocated s m)
  rw [forwardMessage_routes hruns htype hwaits hdest, State.routeMsg_without_route]
  · rfl
  · show State.choose _ (s.routes _) e (State.hops _ (s.routes _) _ _) = _
    rw [hroutes, hhops, hsame, hchoose]

end

/-- One in transit, the first of its virtual channel at its port, takes its hop and frees its units (R334, R354). -/
theorem forwardMessage_transit (hruns : s.stopped m = false) (htype : m.type ≠ 6) (hdest : m.dmod ≠ s.self) (hdie : p.val / 6 = e.val)
    (hagain : s.switch.again = []) (hfirst : (s.port p).rxMsgs.find? (fun x => x.vc == m.vc) = some m)
    (hchoose : (Rules.received s p m).choose (s.routes (m.rstate.getLsbD 3)) e
      (s.hops (s.routes (m.rstate.getLsbD 3)) (.localPort p) m) = some (q, false)) :
    exec (.forwardMessage e (.localPort p) m) s = .next (State.depart (Rules.received s p m) e q
      { crossed := false, edie := e, came := .localPort p, base := m, who := none
        msg := hopped (s.routes (m.rstate.getLsbD 3)) m q false
          (s.hops (s.routes (m.rstate.getLsbD 3)) (.localPort p) m).detour }) := by
  have hforwards : ¬ (s.stopped m || m.type == 6) = true := by
    rw [hruns, Bool.false_or, beq_iff_eq]
    exact htype
  have hcomes : ¬ (m.dmod = s.self ∨ p.val / 6 ≠ e.val) := by simp [hdest, hdie]
  have husable : ∀ t x, (Rules.received s p m).usable t x = s.usable t x := fun t x => by
    have hst : ((Rules.received s p m).port x).st = (s.port x).st :=
      State.port_mapPort_keeps (g := Port.st) ((s.port p).passed_st m) x
    have hpeer : ((Rules.received s p m).port x).peer = (s.port x).peer :=
      State.port_mapPort_keeps (g := Port.peer) ((s.port p).passed_peer m) x
    simp only [State.usable, hst, hpeer]
  have hroutes : (Rules.received s p m).routes (rsEp m) = s.routes (m.rstate.getLsbD 3) := rfl
  have hhops := State.hops_congr husable (s.routes (m.rstate.getLsbD 3)) (.localPort p) m
  have hexec : exec (.forwardMessage e (.localPort p) m) s =
      .next (((Rules.received s p m).routeMsg e (.localPort p) m m none).getD (Rules.received s p m)) := by
    show execForwardMessage e (.localPort p) m s [] = _
    simp only [execForwardMessage, if_neg hforwards, if_neg hcomes, hagain, hfirst]
    simp
    rfl
  rw [hexec, State.routeMsg_departs (p := q)]
  · rw [hroutes, hhops]
    rfl
  · rw [hroutes, hhops, hchoose]

/-- The end of the grace period discards the previous routing table (R360). -/
theorem rtGraceExpiry_discards {t : RouteTable} {at_ : Nat} (hprevious : s.switch.previous = some t) (hswap : s.switch.swapAt = some at_) :
    exec .rtGraceExpiry s = .next { s with
      now := max s.now (at_ + s.active.route.grace.toNat * 1000), switch := { s.switch with previous := none } } := by
  show execRtGraceExpiry s = _
  unfold execRtGraceExpiry
  split
  case h_1 previous at' _ hat =>
    rw [hswap] at hat
    cases hat
    rfl
  case h_2 hnone => exact absurd hswap (hnone t at_ hprevious)

end

/-- Settles O29: each clause is the lemma about its response, its timeout or its message. -/
theorem messagesAreForwardedAndAnswered : Obligations.MessagesAreForwardedAndAnswered := by
  unfold Obligations.MessagesAreForwardedAndAnswered
  exact ⟨fun _ _ _ _ _ _ _ _ _ => rdata_ends, fun _ _ _ _ _ _ _ _ _ => done_ends, fun _ _ _ _ _ _ _ _ _ => refused_ends,
    fun _ _ _ _ => done_of_free_tag, fun _ _ _ _ _ _ _ _ => requestTimeout_ends, fun _ _ _ _ _ => tagReuseExpiry_frees,
    fun _ _ _ => mgmt_drops, fun _ _ _ => mgmt_stores, fun _ came _ _ => forwardMessage_of_time_sync came,
    fun _ _ _ _ => forwardMessage_departs, fun _ _ _ => forwardMessage_without_route, fun _ _ _ => rtGraceExpiry_discards,
    fun _ _ _ _ _ _ => rdata_of_another, fun _ _ _ _ _ _ => rdata_of_another_length, fun _ _ _ _ _ => forwardMessage_transit⟩

end Sys2Proof.Machine
end

section
/-! PROOFS. Requests act at their destination and are answered, and mirror writes are stored or discarded (R330, R364, R365, R367,
R392). -/

namespace Sys2Proof.Machine

/-! ### Answers -/

section
variable {m : LinkMsg} {s : State}

/-- The response of this module waits last, with the fields of the request that it returns (R330). -/
theorem State.respond_answers (s : State) (e : Fin 8) (m : LinkMsg) (type : BitVec 4) (aux : BitVec 8) (data : List Byte) :
    Rules.answered (s.respond e m type aux data) m type aux data :=
  ⟨_, List.getLast?_concat, rfl, rfl, rfl, rfl, rfl, rfl, rfl, BitVec.ofNat_toNat ..⟩

/-- A refusal for another reason than a gate counts at no core (R211). -/
theorem State.refuseReq_of_no_gate (s : State) (m : LinkMsg) {r : BitVec 8} (h : r ≠ 1) :
    s.refuseReq m r = s.respond (reqEdie m) m 0xA r [] := by
  rw [State.refuseReq, if_neg h]

/-! ### The way between the E-die and a core -/

theorem State.linkLost_intact (s : State) (m : LinkMsg) : s.linkLost m [] = none := by
  cases h : m.pkg <;> simp [State.linkLost, h, headerOf]

theorem State.linkWords_intact (s : State) (m : LinkMsg) (q : Nat) (x : Payload) : s.linkWords m q x [] = (s, x) := by
  cases h : m.pkg <;> simp [State.linkWords, h, State.flitWords, fixedIn, lostIn, ninsAll]

/-! ### The destination -/

theorem State.destGet_core (hpkg : m.pkg = true) (n : Nat) : s.destGet m n = (s.core (pkgCore m)).spm.get (pkgOff m) n := if_pos hpkg

theorem State.destGet_external (hpkg : m.pkg = false) (n : Nat) : s.destGet m n = s.hbmGet m.addr.toNat n :=
  if_neg (Bool.eq_false_iff.mp hpkg)

/-- A failed pseudo-channel changes no byte of what a read carries (R277). -/
theorem State.hbmGet_bytes (s : State) (a n : Nat) : (s.hbmGet a n).bytes = memReadN s.hbm.mem a n := by
  unfold State.hbmGet
  dsimp only
  split <;> rfl

/-- A read of a quiet core's scratchpad that finds nothing is the grant of its port. -/
theorem State.destMeet_core (hpkg : m.pkg = true) (hquiet : s.quiet (pkgCore m) = true) (n : Nat) (f : HbmFinding) :
    s.destMeet m n [] f = s.after (pkgCore m) ((s.at (pkgCore m)).granted .inbound [(pkgOff m, n)]) :=
  (if_pos hpkg).trans
    (State.onCore_of_quiet (f := fun _ c => (c.meet _ []).granted .inbound [(pkgOff m, n)]) hquiet (Core.life_granted _ _ _))

theorem State.destMeet_external (hpkg : m.pkg = false) (n : Nat) (found : List SpmFinding) (f : HbmFinding) :
    s.destMeet m n found f = s.hbmMeet m.addr.toNat n f := if_neg (Bool.eq_false_iff.mp hpkg)

/-- A write of a quiet core's scratchpad puts the bytes there. -/
theorem State.destPut_core (hpkg : m.pkg = true) (hquiet : s.quiet (pkgCore m) = true) (x : Payload) (f : HbmFinding) :
    s.destPut m x [] f = s.after (pkgCore m)
      (((s.at (pkgCore m)).mapSpm (fun p => p.put (pkgOff m) x)).granted .inbound [(pkgOff m, x.bytes.length)]) :=
  (if_pos hpkg).trans (State.onCore_of_quiet
    (f := fun _ c => ((c.mapSpm (fun p => p.put (pkgOff m) x)).unverified _ []).granted .inbound [(pkgOff m, x.bytes.length)]) hquiet
      (Core.life_granted _ _ _))

theorem State.hbmMeetPart_clean (s : State) (a n : Nat) : s.hbmMeetPart a n .clean = s := ite_self _

theorem State.destPut_external (hpkg : m.pkg = false) (x : Payload) (found : List SpmFinding) :
    s.destPut m x found .clean = s.hbmWrite m.addr.toNat x := by
  refine (if_neg (Bool.eq_false_iff.mp hpkg)).trans ?_
  rw [State.hbmMeetPart_clean]

/-- The bytes written at a destination are the bytes that it then holds. -/
theorem State.destGet_destPut (hcalm : Rules.Calmly s m) (x : Payload) :
    ((s.destPut m x [] .clean).destGet m x.bytes.length).bytes = x.bytes := by
  cases hpkg : m.pkg
  · rw [State.destGet_external hpkg, State.destPut_external hpkg, State.hbmGet_bytes]
    exact memReadN_memWriteN_same _ _ _
  · rw [State.destGet_core hpkg, State.destPut_core hpkg (hcalm hpkg), State.core_after]
    refine (congrArg (memReadN · (pkgOff m) x.bytes.length) (Core.granted_data _ _ _).1).trans ?_
    exact memReadN_memWriteN_same _ _ _

/-- A read that finds nothing leaves external memory, and every core what it holds. -/
theorem State.destMeet_keeps (hcalm : Rules.Calmly s m) (n : Nat) :
    (s.destMeet m n [] .clean).hbm = s.hbm ∧ Rules.kept s (s.destMeet m n [] .clean) m := by
  cases hpkg : m.pkg
  · rw [State.destMeet_external hpkg]
    exact ⟨rfl, fun _ _ => rfl, rfl, rfl⟩
  · rw [State.destMeet_core hpkg (hcalm hpkg), Rules.kept, State.core_after]
    exact ⟨rfl, fun id hid => State.core_after_other _ _ (hid hpkg), Core.granted_data _ _ _⟩

/-- It leaves what the next read of the destination gives. -/
theorem State.destGet_destMeet (hcalm : Rules.Calmly s m) (n k : Nat) : (s.destMeet m n [] .clean).destGet m k = s.destGet m k := by
  cases hpkg : m.pkg
  · rw [State.destMeet_external hpkg]
    rfl
  · obtain ⟨hmem, hpoison⟩ := (State.destMeet_keeps hcalm n).2.2
    rw [State.destGet_core hpkg, State.destGet_core hpkg, Spm.get, Spm.get, hmem, hpoison]

/-- It leaves a quiet core quiet. -/
theorem State.calmly_destMeet (hcalm : Rules.Calmly s m) (n : Nat) : Rules.Calmly (s.destMeet m n [] .clean) m := by
  intro hpkg
  rw [State.destMeet_core hpkg (hcalm hpkg)]
  exact State.quiet_after (hcalm hpkg) (Core.life_granted _ _ _)

/-! ### WRITE -/

theorem msgLen_covers (m : LinkMsg) : m.data.length ≤ 16 * msgLen m := by
  simp only [msgLen, ceilDiv]
  omega

/-- A WRITE moves all of its data (R330). -/
theorem take_reqBytes_of_write (h : m.type = 0) : m.data.take (reqBytes m) = m.data := by
  refine List.take_of_length_le ?_
  rw [reqBytes, h]
  exact msgLen_covers m

variable {port : Fin 48}

theorem write_performed (h : Rules.Passes s port m 0 true) (hfree : s.destBlocked m = false) :
    exec (.write port m) s =
      .next (((s.receive port m).destPut m (.clean m.data) [] .clean).respond (reqEdie m) m 9 0 []) := by
  obtain ⟨hdue, hpass, hadopt⟩ := h
  show execWrite port m s = _
  simp only [execWrite, State.turn_of_due hdue, hpass, hfree, hadopt, State.linkLost_intact, State.linkWords_intact,
    take_reqBytes_of_write hdue.1, Bool.not_true, Bool.false_eq_true, if_false]

theorem write_stores (h : Rules.Passes s port m 0 true) (hfree : s.destBlocked m = false) (hcalm : Rules.Calmly s m) :
    ∃ s', exec (.write port m) s = .next s' ∧ (s'.destGet m m.data.length).bytes = m.data ∧ Rules.answered s' m 9 0 [] :=
  ⟨_, write_performed h hfree, State.destGet_destPut (s := s.receive port m) hcalm (.clean m.data), State.respond_answers ..⟩

/-- Without mirrored regions an address has no mirror offset (R384). -/
theorem Flask.touched_of_no_regions {f : Flask} (h : f.regions = []) (a n : Nat) : f.touched a n = [] := by
  simp [Flask.touched, h, mirrorOffset]

/-- Without mirrored regions a write of external memory copies no share, and is the bytes alone (R388). -/
theorem State.hbmWrite_of_no_regions (h : s.flask.regions = []) (a : Nat) (x : Payload) : s.hbmWrite a x = s.hbmPut a x := by
  simp only [State.hbmWrite, Flask.touched_of_no_regions h, List.foldl_nil]

theorem write_leaves_others (h : Rules.Passes s port m 0 true) (hpkg : m.pkg = false) (hregions : s.flask.regions = []) :
    ∃ s', exec (.write port m) s = .next s' ∧ s'.cores = s.cores ∧
      ∀ a, a < m.addr.toNat ∨ m.addr.toNat + m.data.length ≤ a → memRead s'.hbm.mem a = memRead s.hbm.mem a := by
  have hfree : s.destBlocked m = false := by
    simp [State.destBlocked, State.hbmBlocked, Flask.touched_of_no_regions hregions]
  refine ⟨_, write_performed h hfree, ?_⟩
  rw [State.destPut_external hpkg, State.hbmWrite_of_no_regions (s := s.receive port m) hregions]
  exact ⟨rfl, fun a ha => memRead_memWriteN_outside _ _ _ _ ha⟩

/-! ### READ -/

theorem read_answers (h : Rules.Passes s port m 1 false) (f : HbmFinding)
    (hclean : (((s.receive port m).destMeet m (16 * m.aux.toNat) [] f).destGet m (16 * m.aux.toNat)).poison = []) :
    exec (.read port m [] f) s = .next (((s.receive port m).destMeet m (16 * m.aux.toNat) [] f).respond (reqEdie m) m 8 0
      (((s.receive port m).destMeet m (16 * m.aux.toNat) [] f).destGet m (16 * m.aux.toNat)).bytes) := by
  obtain ⟨hdue, hpass, -⟩ := h
  have hbytes : reqBytes m = 16 * m.aux.toNat := by rw [reqBytes, hdue.1]; rfl
  show execRead port m s [] f = _
  simp only [execRead, State.turn_of_due hdue, hpass, State.linkLost_intact, State.linkWords_intact, hbytes, hclean,
    Bool.not_true, Bool.false_eq_true, if_false, ne_eq, not_true_eq_false]

theorem read_returns_bytes (h : Rules.Passes s port m 1 false) (hclean : (s.destGet m (16 * m.aux.toNat)).poison = [])
    (hcalm : Rules.Calmly s m) :
    ∃ s', exec (.read port m) s = .next s' ∧ Rules.answered s' m 8 0 (s.destGet m (16 * m.aux.toNat)).bytes ∧
      s'.hbm = s.hbm ∧ Rules.kept s s' m := by
  have hget : ((s.receive port m).destMeet m (16 * m.aux.toNat) [] .clean).destGet m (16 * m.aux.toNat) =
      s.destGet m (16 * m.aux.toNat) := State.destGet_destMeet (s := s.receive port m) hcalm _ _
  obtain ⟨hhbm, hkept⟩ := State.destMeet_keeps (s := s.receive port m) hcalm (16 * m.aux.toNat)
  refine ⟨_, read_answers h .clean (hget ▸ hclean), ?_, hhbm, hkept⟩
  rw [hget]
  exact State.respond_answers ..

/-! ### ATOMIC -/

/-- A number of `n` bytes is below `256 ^ n`. -/
theorem leNat_lt (l : List Byte) : leNat l < 256 ^ l.length := by
  induction l with
  | nil => exact Nat.one_pos
  | cons b l ih =>
    have hb : b.toNat < 256 := b.isLt
    rw [leNat, List.length_cons, Nat.pow_succ]
    omega

theorem leNat_lt_word {l : List Byte} (h : l.length ≤ 8) : leNat l < 2 ^ 64 :=
  (leNat_lt l).trans_le (Nat.pow_le_pow_right (by decide : 0 < 256) h)

theorem word64At_lt (l : List Byte) (i : Nat) : word64At l i < 2 ^ 64 := leNat_lt_word (List.length_take_le _ _)

/-- The new value of an ATOMIC is that of Table 12-6. -/
theorem atomicNew_eq (m : LinkMsg) (old : Nat) :
    atomicNew m.subop old (word64At m.data 0) (word64At m.data 8) = Rules.atomicValue m old := by
  unfold Rules.atomicValue
  by_cases h0 : m.subop = 0
  · rw [if_pos h0, h0]
    rfl
  · rw [if_neg h0]
    by_cases h1 : m.subop = 1
    · rw [if_pos h1, h1]
      rfl
    · rw [if_neg h1]
      unfold atomicNew
      split
      · exact absurd (BitVec.eq_of_toNat_eq ‹_›) h0
      · exact absurd (BitVec.eq_of_toNat_eq ‹_›) h1
      · rfl

/-- It is a value of 8 bytes. -/
theorem atomicValue_lt (m : LinkMsg) {old : Nat} (h : old < 2 ^ 64) : Rules.atomicValue m old < 2 ^ 64 := by
  unfold Rules.atomicValue
  split
  · exact either_branch (P := (· < 2 ^ 64)) (word64At_lt _ _) h
  · exact either_branch (P := (· < 2 ^ 64)) (word64At_lt _ _) (Nat.mod_lt _ (by decide))

theorem State.destGet_length (s : State) (m : LinkMsg) (n : Nat) : (s.destGet m n).bytes.length = n := by
  cases hpkg : m.pkg
  · rw [State.destGet_external hpkg, State.hbmGet_bytes, memReadN_length]
  · rw [State.destGet_core hpkg]
    exact memReadN_length _ _ _

/-- The block once an ATOMIC has read its destination and written the new value. -/
def State.atomicDone (s : State) (m : LinkMsg) (old : Nat) : State :=
  (s.destMeet m 8 [] .clean).destPut m (.clean (leBytes 8 (Rules.atomicValue m old))) [] .clean

theorem atomic_performed (h : Rules.Passes s port m 2 true) (hfree : s.destBlocked m = false) (hclean : (s.destGet m 8).poison = [])
    (hcalm : Rules.Calmly s m) :
    exec (.atomic port m) s = .next (((s.receive port m).atomicDone m (leNat (s.destGet m 8).bytes)).respond (reqEdie m) m 8 0
      (leBytes 16 (leNat (s.destGet m 8).bytes))) := by
  obtain ⟨hdue, hpass, -⟩ := h
  have hget : ((s.receive port m).destMeet m 8 [] .clean).destGet m 8 = s.destGet m 8 :=
    State.destGet_destMeet (s := s.receive port m) hcalm _ _
  show execAtomic port m s = _
  simp only [execAtomic, State.turn_of_due hdue, hpass, hfree, State.linkLost_intact, State.linkWords_intact, hget, hclean,
    atomicNew_eq, Payload.clean, State.atomicDone, Option.isSome_none, Bool.not_true, Bool.false_eq_true, if_false, ne_eq,
    not_true_eq_false]

theorem atomic_changes (h : Rules.Passes s port m 2 true) (hfree : s.destBlocked m = false) (hclean : (s.destGet m 8).poison = [])
    (hcalm : Rules.Calmly s m) :
    ∃ s', exec (.atomic port m) s = .next s' ∧
      leNat (s'.destGet m 8).bytes = Rules.atomicValue m (leNat (s.destGet m 8).bytes) ∧
      Rules.answered s' m 8 0 (leBytes 16 (leNat (s.destGet m 8).bytes)) := by
  have hold : leNat (s.destGet m 8).bytes < 2 ^ 64 := leNat_lt_word (s.destGet_length m 8).le
  have hread : (((s.receive port m).atomicDone m (leNat (s.destGet m 8).bytes)).destGet m 8).bytes =
      leBytes 8 (Rules.atomicValue m (leNat (s.destGet m 8).bytes)) :=
    State.destGet_destPut (State.calmly_destMeet (s := s.receive port m) hcalm 8)
      (.clean (leBytes 8 (Rules.atomicValue m (leNat (s.destGet m 8).bytes))))
  refine ⟨_, atomic_performed h hfree hclean hcalm, ?_, State.respond_answers ..⟩
  refine (congrArg leNat hread).trans ?_
  rw [leNat_leBytes]
  exact Nat.mod_eq_of_lt (atomicValue_lt m hold)

/-! ### Refusals -/

/-- A request that this module refuses for another reason than a gate is answered so, and changes no memory (R364). -/
theorem refuseReq_answers (s : State) (port : Fin 48) (m : LinkMsg) {r : BitVec 8} (h : r ≠ 1) :
    Rules.answered ((s.receive port m).refuseReq m r) m 0xA r [] ∧ ((s.receive port m).refuseReq m r).hbm = s.hbm ∧
      ((s.receive port m).refuseReq m r).cores = s.cores := by
  rw [State.refuseReq_of_no_gate _ _ h]
  exact ⟨State.respond_answers .., rfl, rfl⟩

variable {r : BitVec 8}

theorem write_refused (hdue : Rules.Due s port m 0) (h : s.refusal m true = some r) :
    exec (.write port m) s = .next ((s.receive port m).refuseReq m r) := by
  show execWrite port m s = _
  simp only [execWrite, State.turn_of_due hdue, h, Bool.not_true, Bool.false_eq_true, if_false]

theorem read_refused (hdue : Rules.Due s port m 1) (h : s.refusal m false = some r) :
    exec (.read port m) s = .next ((s.receive port m).refuseReq m r) := by
  show execRead port m s = _
  simp only [execRead, State.turn_of_due hdue, h, Bool.not_true, Bool.false_eq_true, if_false]

theorem atomic_refused (hdue : Rules.Due s port m 2) (h : s.refusal m true = some r) :
    exec (.atomic port m) s = .next ((s.receive port m).refuseReq m r) := by
  show execAtomic port m s = _
  simp only [execAtomic, State.turn_of_due hdue, h, Bool.not_true, Bool.false_eq_true, if_false]

theorem reduceFwd_refused (hdue : Rules.Due s port m 4) (h : s.refusal m true = some r) :
    exec (.reduceFwd port m) s = .next ((s.receive port m).refuseReq m r) := by
  show execReduceFwd port m s = _
  simp only [execReduceFwd, State.turn_of_due hdue, h, Bool.not_true, Bool.false_eq_true, if_false]

/-! ### Mirror writes -/

theorem mirrorWrite_unbound (hdue : Rules.Due s port m 3) (hoff : s.active.bind.en = false) :
    ∃ s', exec (.mirrorWrite port m) s = .next s' ∧ Rules.answered s' m 0xA 8 [] ∧ s'.hbm = s.hbm := by
  have hexec : exec (.mirrorWrite port m) s =
      .next ((s.receive port m).respond (Fin.ofNat 8 (m.addr.toNat / 512)) m 0xA 8 []) := by
    show execMirrorWrite port m s = _
    simp only [execMirrorWrite, State.turn_of_due hdue, hoff, Bool.not_true, Bool.not_false, Bool.false_eq_true, true_or, if_false, if_true]
  exact ⟨_, hexec, State.respond_answers .., rfl⟩

/-- A mirror write in order follows the rules of its fields (R392). -/
theorem mirror_wellformed (h : Rules.MirrorOk s port m) (hsubop : m.subop.toNat ≤ 2) : mirrorMalformed m = false := by
  obtain ⟨-, -, -, -, hpkg, halign, hlength, hgen, -⟩ := h
  simp [mirrorMalformed, hpkg, halign, msgLen, hlength, hgen, ceilDiv, hsubop]

/-- One of another generation than the one expected is stale (R392). -/
theorem mirrorWrite_stale (h : Rules.MirrorOk s port m) (hsubop : m.subop.toNat ≤ 2)
    (hstale : m.egen.toNat ≠ s.flask.expect.toNat % 256) :
    ∃ s', exec (.mirrorWrite port m) s = .next s' ∧ Rules.answered s' m 9 0 [] ∧ s'.hbm = s.hbm ∧
      s'.flask.stale = Rules.saturating s.flask.stale := by
  have hform := mirror_wellformed h hsubop
  obtain ⟨hdue, hon, hpartner, hplace, -, -, -, -, hopen⟩ := h
  have hexec : exec (.mirrorWrite port m) s = .next (((s.receive port m).mapFlask (fun f => { f with stale := bump f.stale })).respond
      (Fin.ofNat 8 (m.addr.toNat / 512)) m 9 0 []) := by
    show execMirrorWrite port m s = _
    simp only [execMirrorWrite, State.turn_of_due hdue, hon, hpartner, hform, hopen, if_pos hstale, Nat.not_le.mpr hplace, ne_eq,
      not_true_eq_false, Bool.not_true, Bool.false_eq_true, or_self, if_false]
  exact ⟨_, hexec, State.respond_answers .., rfl, bump_eq_saturating _⟩

/-- One of the generation expected is stored (R392). -/
theorem mirrorWrite_stores (h : Rules.MirrorOk s port m) (hsubop : m.subop = 0) (hgen : m.egen.toNat = s.flask.expect.toNat % 256) :
    ∃ s', exec (.mirrorWrite port m) s = .next s' ∧ Rules.answered s' m 9 0 [] ∧
      s'.hbm.mem = memWriteN s.hbm.mem (s.active.bind.store.toNat * 65536 + m.addr.toNat) m.data ∧ s'.flask = s.flask := by
  have hform := mirror_wellformed h (by rw [hsubop]; decide)
  obtain ⟨hdue, hon, hpartner, hplace, -, -, hlength, -, hopen⟩ := h
  have hall : m.data.take 256 = m.data := List.take_of_length_le hlength.le
  have hexec : exec (.mirrorWrite port m) s = .next (((s.receive port m).hbmPut
      (s.active.bind.store.toNat * 65536 + m.addr.toNat) (.clean m.data)).respond (Fin.ofNat 8 (m.addr.toNat / 512)) m 9 0 []) := by
    show execMirrorWrite port m s = _
    simp only [execMirrorWrite, State.turn_of_due hdue, hon, hpartner, hform, hopen, hgen, hall, Nat.not_le.mpr hplace, ne_eq,
      not_true_eq_false, Bool.not_true, Bool.false_eq_true, or_self, if_false, hsubop]
    rfl
  exact ⟨_, hexec, State.respond_answers .., rfl, rfl⟩

end

end Sys2Proof.Machine

end

section
/-! PROOFS. What a read of external memory finds, and a READ that finds something but no poison (R277, R280, R281, R365). -/

namespace Sys2Proof.Machine

/-! ### Candidates and corrections -/

/-- External memory once the row of an entry has become a repair candidate: unless its repair is pending, it waits for one (R280). -/
def Hbm.rowMarked (h : Hbm) (repairs : List RepairEntry) (e : RepairEntry) : Hbm :=
  if repairs.any (fun x => x == e) = true ∧ ¬ h.repaired.any (fun x => x == e) = true then h
  else { h with repaired := h.repaired.filter (fun x => x != e) }

theorem Hbm.rowMarked_mem (h : Hbm) (repairs : List RepairEntry) (e : RepairEntry) : (h.rowMarked repairs e).mem = h.mem :=
  ite_keeps (g := Hbm.mem) rfl rfl

theorem State.rowCandidate_hbm (s : State) (a : Nat) : (s.rowCandidate a).hbm = s.hbm.rowMarked s.mp.repairs (s.rowOf a) := by
  have hlog : (s.log (s.hbmEvent 1 0x0203 a)).hbm = s.hbm := s.log_hbm _
  unfold State.rowCandidate Hbm.rowMarked
  dsimp only
  generalize s.log (s.hbmEvent 1 0x0203 a) = t at hlog ⊢
  split
  · rfl
  · split
    · rw [State.channelCandidate_hbm, hlog]
    · rw [hlog]

/-- The ledger of repairs. -/
def State.repairs (s : State) : List RepairEntry := s.mp.repairs

theorem State.repairs_unrecorded : Unrecorded State.repairs where
  errs _ _ := rfl
  host _ _ := rfl
  switch _ _ := rfl
  events _ _ _ _ := rfl
  box s src b := by cases src <;> rfl
  job _ _ _ := rfl

theorem State.log_repairs (s : State) (x : Event) : (s.log x).mp.repairs = s.mp.repairs :=
  State.repairs_unrecorded.log_of_cores (fun _ _ => rfl) (fun _ _ _ => rfl) s x

/-- The pseudo-channels that have failed, and the one that is retired. -/
def State.channels (s : State) : NatSet × Option (BitVec 10) := (s.board.pchFailed, s.board.pchRetired)

theorem State.log_channels (s : State) (x : Event) : (s.log x).channels = s.channels :=
  Prod.ext (congrArg Failover.pchFailed (s.log_failover x)) (congrArg Failover.pchRetired (s.log_failover x))

/-- Where an address lies depends on the pseudo-channels alone (R281). -/
theorem State.pchAt_congr {s t : State} (h : s.channels = t.channels) (a : Nat) : s.pchAt a = t.pchAt a := by
  have hretired : s.board.pchRetired = t.board.pchRetired := congrArg Prod.snd h
  rw [State.pchAt, State.pchAt, hretired]

theorem State.rowOf_congr {s t : State} (h : s.channels = t.channels) (a : Nat) : s.rowOf a = t.rowOf a := by
  unfold State.rowOf
  rw [State.pchAt_congr h]

/-- The corrections of a bit within 24 hours, one at `now` included (R277). -/
def recentCorrections (now : Nat) (earlier : List Nat) : List Nat :=
  (now :: earlier).filter (fun t => decide (now < t + 86400 * 10 ^ 9))

/-- Those of a bit of the word at an address. -/
def State.corrections (s : State) (a bit : Nat) : List Nat :=
  recentCorrections s.now (tget s.hbm.corr [] (128 * (a / 8) + bit))

/-- External memory with the corrections of a bit. -/
def State.hbmWithCorrections (s : State) (a bit : Nat) : Hbm :=
  { s.hbm with corr := tset s.hbm.corr (128 * (a / 8) + bit) (s.corrections a bit) }

theorem State.corrections_congr {s t : State} (hhbm : s.hbm = t.hbm) (hnow : s.now = t.now) (a bit : Nat) :
    s.corrections a bit = t.corrections a bit := by
  rw [State.corrections, State.corrections, hhbm, hnow]

/-- The block once a correction of a bit is counted: the fourth within 24 hours makes its row a candidate (R277). -/
def State.countCorrection (s : State) (a bit : Nat) : State :=
  if 4 ≤ (s.corrections a bit).length then State.rowCandidate { s with hbm := s.hbmWithCorrections a bit } a
  else { s with hbm := s.hbmWithCorrections a bit }

theorem State.hbmCorrected_eq (s : State) (a bit : Nat) :
    s.hbmCorrected a bit = (s.log (s.hbmEvent 0 0x0201 a)).countCorrection a bit := rfl

theorem State.countCorrection_hbm (s : State) (a bit : Nat) : (s.countCorrection a bit).hbm =
    if 4 ≤ (s.corrections a bit).length then (s.hbmWithCorrections a bit).rowMarked s.mp.repairs (s.rowOf a)
    else s.hbmWithCorrections a bit := by
  unfold State.countCorrection
  split
  · exact State.rowCandidate_hbm _ _
  · rfl

theorem State.hbmCorrected_hbm (s : State) (a bit : Nat) : (s.hbmCorrected a bit).hbm = (s.countCorrection a bit).hbm := by
  have hhbm := s.log_hbm (s.hbmEvent 0 0x0201 a)
  have hnow : (s.log (s.hbmEvent 0 0x0201 a)).now = s.now := congrArg Failover.now (s.log_failover _)
  have hcorrections := State.corrections_congr hhbm hnow a bit
  rw [State.hbmCorrected_eq, State.countCorrection_hbm, State.countCorrection_hbm, State.log_repairs,
    State.rowOf_congr (s.log_channels _), State.hbmWithCorrections, hcorrections, hhbm]
  rfl

theorem State.hbmUncorrectable_hbm (s : State) (a : Nat) : (s.hbmUncorrectable a).hbm =
    Hbm.rowMarked { s.hbm with poison := nins s.hbm.poison (a / 8) } s.mp.repairs (s.rowOf a) := by
  have hhbm : (s.log (s.hbmEvent 1 0x0202 a)).hbm = s.hbm := s.log_hbm _
  have hrepairs : (s.log (s.hbmEvent 1 0x0202 a)).mp.repairs = s.mp.repairs := s.log_repairs _
  have hrow := State.rowOf_congr (s.log_channels (s.hbmEvent 1 0x0202 a)) a
  unfold State.hbmUncorrectable
  dsimp only
  generalize s.log (s.hbmEvent 1 0x0202 a) = t at hhbm hrepairs hrow ⊢
  rw [State.rowCandidate_hbm, ← hrow, ← hrepairs, ← hhbm]
  rfl

/-- Choices between states alike in external memory are alike in it. -/
theorem State.ite_hbm_congr {c : Prop} [Decidable c] {t u v w : State} (ht : t.hbm = v.hbm) (hu : u.hbm = w.hbm) :
    (if c then t else u).hbm = (if c then v else w).hbm := by
  split
  · exact ht
  · exact hu

/-- A message that has left a port changes nothing of what a read of external memory leaves there. -/
theorem State.hbmMeet_receive (s : State) (port : Fin 48) (m : LinkMsg) (a n : Nat) (f : HbmFinding) :
    ((s.receive port m).hbmMeet a n f).hbm = (s.hbmMeet a n f).hbm := by
  cases f with
  | clean => rfl
  | corrected w bit =>
    refine State.ite_hbm_congr rfl ?_
    rw [State.hbmCorrected_hbm, State.hbmCorrected_hbm, State.countCorrection_hbm, State.countCorrection_hbm]
    rfl
  | uncorrectable w =>
    refine State.ite_hbm_congr rfl ?_
    rw [State.hbmUncorrectable_hbm, State.hbmUncorrectable_hbm]
    rfl

theorem State.channelCandidate_channels (s : State) (p : BitVec 10) : (s.channelCandidate p).channels = s.channels :=
  ite_keeps rfl (ite_keeps (State.log_channels _ _) (ite_keeps (State.log_channels _ _) rfl))

theorem State.rowCandidate_channels (s : State) (a : Nat) : (s.rowCandidate a).channels = s.channels := by
  have hlog : (s.log (s.hbmEvent 1 0x0203 a)).channels = s.channels := s.log_channels _
  unfold State.rowCandidate
  dsimp only
  generalize s.log (s.hbmEvent 1 0x0203 a) = t at hlog ⊢
  split
  · rfl
  · split
    · rw [State.channelCandidate_channels]
      exact hlog
    · exact hlog

/-- What a read finds takes no byte, and neither fails nor retires a pseudo-channel (R277). -/
theorem State.hbmMeet_keeps (s : State) (a n : Nat) (f : HbmFinding) :
    (s.hbmMeet a n f).hbm.mem = s.hbm.mem ∧ (s.hbmMeet a n f).channels = s.channels := by
  cases f with
  | clean => exact ⟨rfl, rfl⟩
  | corrected w bit =>
    refine either_branch (P := fun t : State => t.hbm.mem = s.hbm.mem ∧ t.channels = s.channels) ⟨rfl, rfl⟩ ⟨?_, ?_⟩
    · rw [State.hbmCorrected_hbm, State.countCorrection_hbm]
      exact ite_keeps (g := Hbm.mem) (Hbm.rowMarked_mem _ _ _) rfl
    · exact (ite_keeps (State.rowCandidate_channels _ _) rfl).trans (s.log_channels _)
  | uncorrectable w =>
    refine either_branch (P := fun t : State => t.hbm.mem = s.hbm.mem ∧ t.channels = s.channels) ⟨rfl, rfl⟩ ⟨?_, ?_⟩
    · rw [State.hbmUncorrectable_hbm]
      exact Hbm.rowMarked_mem _ _ _
    · exact (State.rowCandidate_channels _ _).trans (s.log_channels _)

/-- What a read carries onward depends on the bytes, their poison and the pseudo-channels alone. -/
theorem State.hbmGet_congr {s t : State} (hmem : s.hbm.mem = t.hbm.mem) (hpoison : s.hbm.poison = t.hbm.poison)
    (hchannels : s.channels = t.channels) (a n : Nat) : s.hbmGet a n = t.hbmGet a n := by
  have hfailed : s.board.pchFailed = t.board.pchFailed := congrArg Prod.fst hchannels
  simp only [State.hbmGet, State.pchAt_congr hchannels, hmem, hpoison, hfailed]

section
variable {m : LinkMsg} {port : Fin 48} {s : State}

/-- A read that finds something, but no poison, returns the bytes all the same (R277). -/
theorem read_returns_bytes_found {f : HbmFinding} (h : Rules.Passes s port m 1 false) (hpkg : m.pkg = false)
    (hpoison : (s.destMeet m (16 * m.aux.toNat) [] f).hbm.poison = s.hbm.poison)
    (hclean : (s.destGet m (16 * m.aux.toNat)).poison = []) :
    ∃ s', exec (.read port m [] f) s = .next s' ∧ Rules.answered s' m 8 0 (s.destGet m (16 * m.aux.toNat)).bytes ∧
      s'.hbm = (s.destMeet m (16 * m.aux.toNat) [] f).hbm := by
  have hhbm : ((s.receive port m).destMeet m (16 * m.aux.toNat) [] f).hbm = (s.destMeet m (16 * m.aux.toNat) [] f).hbm := by
    rw [State.destMeet_external hpkg, State.destMeet_external hpkg, State.hbmMeet_receive]
  obtain ⟨hmem, hchannels⟩ := (s.receive port m).hbmMeet_keeps m.addr.toNat (16 * m.aux.toNat) f
  rw [← State.destMeet_external hpkg _ []] at hmem hchannels
  have hget : ((s.receive port m).destMeet m (16 * m.aux.toNat) [] f).destGet m (16 * m.aux.toNat) =
      s.destGet m (16 * m.aux.toNat) := by
    rw [State.destGet_external hpkg, State.destGet_external hpkg]
    exact State.hbmGet_congr hmem ((congrArg Hbm.poison hhbm).trans hpoison) hchannels _ _
  refine ⟨_, read_answers h f (hget ▸ hclean), ?_, hhbm⟩
  rw [hget]
  exact State.respond_answers ..

end

/-- Settles O28: a request takes its turn, is performed or refused at its destination, and its answer waits last. -/
theorem requestsActAtTheirDestination : Obligations.RequestsActAtTheirDestination := by
  unfold Obligations.RequestsActAtTheirDestination
  exact ⟨fun _ _ _ h hfree hcalm => write_stores h hfree hcalm,
    fun _ _ _ h hpkg hregions => write_leaves_others h hpkg hregions,
    fun _ _ _ h hclean hcalm => read_returns_bytes h hclean hcalm,
    fun _ _ _ _ h hpkg _ hpoison hclean => read_returns_bytes_found h hpkg hpoison hclean,
    fun _ _ _ h hfree hclean hcalm => atomic_changes h hfree hclean hcalm,
    fun port m _ s hself hturn hrefusal hgate =>
      ⟨fun htype => ⟨_, write_refused ⟨htype, hself, hturn⟩ hrefusal, refuseReq_answers s port m hgate⟩,
        fun htype => ⟨_, atomic_refused ⟨htype, hself, hturn⟩ hrefusal, refuseReq_answers s port m hgate⟩,
        fun htype => ⟨_, reduceFwd_refused ⟨htype, hself, hturn⟩ hrefusal, refuseReq_answers s port m hgate⟩⟩,
    fun port m _ s hdue hrefusal hgate => ⟨_, read_refused hdue hrefusal, refuseReq_answers s port m hgate⟩,
    fun _ _ _ h hsubop hgen => mirrorWrite_stores h hsubop hgen,
    fun _ _ _ h hsubop hstale => mirrorWrite_stale h hsubop hstale,
    fun _ _ _ hdue hoff => mirrorWrite_unbound hdue hoff⟩

end Sys2Proof.Machine
end

section
/-! PROOFS. Followers keep the time of their parent: the exchange, its messages and its losses, and holdover (R356, R375 to R380,
Table 12-10). -/

namespace Sys2Proof.Machine

/-! ### Messages -/

/-- A TIME_SYNC message that is taken leaves a port, and changes nothing else (R356). -/
theorem State.takeSync_ports (s : State) (port : Fin 48) (subop : BitVec 3) (stamp : DWord) (seq : Word) :
    ∃ ports, s.takeSync port subop stamp seq = { s with ports := ports } := by
  unfold State.takeSync
  split
  · exact ⟨_, rfl⟩
  · exact ⟨_, rfl⟩

section
variable {port : Fin 48} {s : State}

/-- The exchanges of a follower go on at its parent port while that is ACTIVE. -/
theorem following_goes_on (h : Rules.Following s port) : ¬ ((s.port port).st ≠ .active ∨ (!s.follows port) = true) := by
  obtain ⟨hst, hfollows⟩ := h
  simp [hst, hfollows]

/-- The exchanges of a parent go on at any other ACTIVE port. -/
theorem parenting_goes_on (h : Rules.Parenting s port) : ¬ ((s.port port).st ≠ .active ∨ s.follows port = true) := by
  obtain ⟨hst, hfollows⟩ := h
  simp [hst, hfollows]

theorem delayReq_answers (t4 : DWord) (seq : Word) (h : Rules.Parenting s port) :
    exec (.delayReq port t4 seq) s = .next ((Rules.synced s port 1 0 seq).sendSync port 2 t4 seq) :=
  if_neg (parenting_goes_on h)

/-- A SYNC at a follower's parent port begins an exchange, and DELAY_REQ answers it (R377). -/
theorem sync_answers (t1 t2 t3 : DWord) (seq : Word) (h : Rules.Following s port) (hidle : s.time.waiting = false) :
    exec (.sync port t1 t2 t3 seq) s = .next (State.sendSync
      { Rules.synced s port 0 t1 seq with time := { s.time with
        t1 := t1, t2 := t2, t3 := t3, seq := seq, waiting := true, synced := true } } port 1 0 seq) := by
  obtain ⟨ports, htaken⟩ := s.takeSync_ports port 0 t1 seq
  refine (if_neg (following_goes_on h)).trans ?_
  simp only [Rules.synced, htaken, hidle, Bool.false_eq_true, if_false]

/-! Where a message means nothing it is taken all the same (R356). -/

theorem sync_only_taken (t1 t2 t3 : DWord) (seq : Word) (h : s.follows port = false) :
    exec (.sync port t1 t2 t3 seq) s = .next (Rules.synced s port 0 t1 seq) :=
  if_pos (.inr (by rw [h]; rfl))

theorem delayReq_only_taken (t4 : DWord) (seq : Word) (h : s.follows port = true) :
    exec (.delayReq port t4 seq) s = .next (Rules.synced s port 1 0 seq) :=
  if_pos (.inr h)

theorem delayResp_only_taken (t4 : DWord) (seq : Word) (h : s.follows port = false) :
    exec (.delayResp port t4 seq) s = .next (Rules.synced s port 2 t4 seq) :=
  if_pos (.inr (by rw [h]; rfl))

/-! ### Lost exchanges -/

/-- Below eight lost exchanges in a row, one more is only counted (R380). -/
theorem State.lostExchange_of_few (h : s.time.lost.toNat < 7) :
    s.lostExchange = { s with time := { s.time with lost := s.time.lost + 1 } } := by
  have hunsaturated : s.time.lost ≠ 0xFF := fun heq => by
    rw [heq] at h
    exact absurd h (by decide)
  have hfew : ¬ 8 ≤ (s.time.lost + 1).toNat := by bv_omega
  simp only [State.lostExchange, if_neg hunsaturated, if_neg hfew]

/-! ### An exchange is due -/

theorem timeSyncExchange_sends (seq : Word) (h : Rules.Parenting s port) :
    exec (.timeSyncExchange port seq) s = .next
      (State.sendSync { s with time := { s.time with sent := seq } } port 0 (BitVec.ofNat 64 (256 * s.now)) seq) := by
  obtain ⟨hst, hfollows⟩ := h
  exact (if_neg (Bool.eq_false_iff.mp hfollows)).trans (if_neg (not_not_intro hst))

/-- A follower once an exchange is due: none is open, and no SYNC has come for it. -/
def State.exchangeDue (s : State) : State := { s with time := { s.time with synced := false, waiting := false } }

/-- What a follower makes of the exchange before when the next is due (R380). -/
theorem timeSyncExchange_of_follows (seq : Word) (h : s.follows port = true) :
    exec (.timeSyncExchange port seq) s = .next
      (if (s.time.waiting || !s.time.synced) = true then s.exchangeDue.lostExchange else s.exchangeDue) :=
  if_pos h

theorem timeSyncExchange_after_whole (seq : Word) (h : s.follows port = true) (hidle : s.time.waiting = false)
    (hsynced : s.time.synced = true) :
    exec (.timeSyncExchange port seq) s = .next { s with time := { s.time with synced := false } } := by
  rw [timeSyncExchange_of_follows seq h, if_neg (by simp [hidle, hsynced]), State.exchangeDue, ← hidle]

theorem timeSyncExchange_counts_lost (seq : Word) (h : s.follows port = true)
    (hbroken : s.time.waiting = true ∨ s.time.synced = false) (hfew : s.time.lost.toNat < 7) :
    ∃ s', exec (.timeSyncExchange port seq) s = .next s' ∧ s'.time.lost = s.time.lost + 1 ∧ s'.time.waiting = false ∧
      s'.time.synced = false ∧ s'.time.locked = s.time.locked := by
  have hlost : (s.time.waiting || !s.time.synced) = true := by simpa using hbroken
  refine ⟨_, timeSyncExchange_of_follows seq h, ?_⟩
  rw [if_pos hlost, State.lostExchange_of_few (s := s.exchangeDue) hfew]
  exact ⟨rfl, rfl, rfl, rfl⟩

/-! ### The end of an exchange -/

/-- A delay is more than 4 ns above the least of the last 64 (R378). -/
def TimeSync.late (t : TimeSync) (delay : Nat) : Bool :=
  match t.delays with
  | [] => false
  | d :: ds => decide (ds.foldl min d + 1024 < delay)

theorem TimeSync.late_of_no_delays {t : TimeSync} (h : t.delays = []) (delay : Nat) : t.late delay = false := by
  rw [TimeSync.late, h]

/-- One more than 4 ns above the newest of them is. -/
theorem TimeSync.late_of_newest {t : TimeSync} {d delay : Nat} {ds : List Nat} (h : t.delays = d :: ds) (hd : d + 1024 < delay) :
    t.late delay = true := by
  have hleast : ds.foldl min d ≤ d :=
    List.foldlRecOn (motive := (· ≤ d)) ds min le_rfl (fun least hle x _ => (min_le_left least x).trans hle)
  rw [TimeSync.late, h]
  exact decide_eq_true (by omega)

/-- The block once DELAY_RESP is taken and the delay of its exchange noted. -/
def State.exchanged (s : State) (port : Fin 48) (t4 : DWord) : State :=
  { s.takeSync port 2 t4 s.time.seq with time := { s.time with
      waiting := false
      delays := ((s.exchange port t4).1.toNat :: s.time.delays).take 64
      delay := BitVec.ofNat 32
        ((((s.exchange port t4).1.toNat :: s.time.delays).take 64).foldl min (s.exchange port t4).1.toNat) } }

/-- DELAY_RESP ends the exchange that is open: it is discarded or accepted (R377, R378). -/
theorem delayResp_ends (t4 : DWord) (h : Rules.Following s port) (hopen : s.time.waiting = true) :
    exec (.delayResp port t4 s.time.seq) s = .next
      (if s.time.late (s.exchange port t4).1.toNat = true then (s.exchanged port t4).lostExchange
      else (s.exchanged port t4).acceptExchange (s.exchange port t4).2) := by
  obtain ⟨ports, htaken⟩ := s.takeSync_ports port 2 t4 s.time.seq
  refine (if_neg (following_goes_on h)).trans ?_
  simp only [State.exchanged, htaken]
  exact if_neg (by simp [hopen])

/-- What a follower knows of the time once an exchange is noted; the jobs and the time stay (R377). -/
theorem State.exchanged_keeps (s : State) (port : Fin 48) (t4 : DWord) :
    (s.exchanged port t4).now = s.now ∧ (s.exchanged port t4).anyJob = s.anyJob := by
  obtain ⟨ports, htaken⟩ := s.takeSync_ports port 2 t4 s.time.seq
  rw [State.exchanged, htaken]
  exact ⟨rfl, rfl⟩

/-- An exchange with too long a delay is counted as lost, and changes neither the time nor the rate (R378, R380). -/
theorem delayResp_discards (t4 : DWord) {d : Nat} {ds : List Nat} (h : Rules.Following s port) (hopen : s.time.waiting = true)
    (hdelays : s.time.delays = d :: ds) (hlong : d + 1024 < (s.exchange port t4).1.toNat) (hfew : s.time.lost.toNat < 7) :
    ∃ s', exec (.delayResp port t4 s.time.seq) s = .next s' ∧ s'.time.lost = s.time.lost + 1 ∧ s'.now = s.now ∧
      s'.time.waiting = false ∧ s'.time.locked = s.time.locked ∧ s'.time.rate = s.time.rate := by
  refine ⟨_, delayResp_ends t4 h hopen, ?_⟩
  rw [if_pos (TimeSync.late_of_newest hdelays hlong), State.lostExchange_of_few (s := s.exchanged port t4) hfew]
  exact ⟨rfl, (s.exchanged_keeps port t4).1, rfl, rfl, rfl⟩

/-- Without an earlier delay to compare with, the exchange is accepted. -/
theorem delayResp_accepts (t4 : DWord) (h : Rules.Following s port) (hopen : s.time.waiting = true) (hfirst : s.time.delays = []) :
    exec (.delayResp port t4 s.time.seq) s = .next ((s.exchanged port t4).acceptExchange (s.exchange port t4).2) := by
  rw [delayResp_ends t4 h hopen, TimeSync.late_of_no_delays hfirst, if_neg Bool.false_ne_true]

/-- The sixteenth offset within 2 ns in a row makes LOCKED (R378). -/
theorem TimeSync.judge_locks {t : TimeSync} {offset : Int} (hrun : 15 ≤ t.inRun) (hsmall : offset.natAbs ≤ 512) :
    (t.judge offset).locked = true := by
  have houter : ¬ 1024 < offset.natAbs := by omega
  have hrun' : 16 ≤ t.inRun + 1 := Nat.succ_le_succ hrun
  simp [TimeSync.judge, if_pos hsmall, if_neg houter, hrun']

/-- With a job loaded an accepted exchange ends holdover, and neither steps the time nor teaches a rate (R378, R380). -/
theorem State.acceptExchange_with_job (offset : Int) (hjob : s.anyJob = true) :
    (s.acceptExchange offset).now = s.now ∧ (s.acceptExchange offset).time.learned = s.time.learned := by
  simp [State.acceptExchange, hjob, TimeSync.judge]

/-- Without one, an offset of more than 1 µs steps the time, and the rate stays (R378). -/
theorem State.acceptExchange_steps {offset : Int} (hjob : s.anyJob = false) (hlarge : 256000 < offset.natAbs) :
    (s.acceptExchange offset).now = ((s.now : Int) - offset / 256).toNat ∧ (s.acceptExchange offset).time.rate = s.time.rate := by
  simp [State.acceptExchange, hjob, hlarge]

theorem delayResp_with_job (t4 : DWord) (h : Rules.Following s port) (hopen : s.time.waiting = true) (hfirst : s.time.delays = [])
    (hjob : s.anyJob = true) :
    ∃ s', exec (.delayResp port t4 s.time.seq) s = .next s' ∧ s'.time.lost = 0 ∧ s'.time.hold = false ∧ s'.now = s.now ∧
      s'.time.delays = [(s.exchange port t4).1.toNat] ∧ s'.time.learned = s.time.learned ∧
      (15 ≤ s.time.inRun → (s.exchange port t4).2.natAbs ≤ 512 → s'.time.locked = true) := by
  obtain ⟨hnow, hjobs⟩ := s.exchanged_keeps port t4
  obtain ⟨hstays, hlearned⟩ := State.acceptExchange_with_job (s.exchange port t4).2 (hjobs.trans hjob)
  have hdelays : ((s.exchanged port t4).acceptExchange (s.exchange port t4).2).time.delays = [(s.exchange port t4).1.toNat] :=
    congrArg (fun ds => ((s.exchange port t4).1.toNat :: ds).take 64) hfirst
  exact ⟨_, delayResp_accepts t4 h hopen hfirst, rfl, rfl, hstays.trans hnow, hdelays, hlearned,
    fun hrun hsmall => TimeSync.judge_locks (t := (s.exchanged port t4).time) hrun hsmall⟩

theorem delayResp_steps (t4 : DWord) (h : Rules.Following s port) (hopen : s.time.waiting = true) (hfirst : s.time.delays = [])
    (hjob : s.anyJob = false) (hlarge : 256000 < (s.exchange port t4).2.natAbs) :
    ∃ s', exec (.delayResp port t4 s.time.seq) s = .next s' ∧
      s'.now = ((s.now : Int) - (s.exchange port t4).2 / 256).toNat ∧ s'.time.rate = s.time.rate := by
  obtain ⟨hnow, hjobs⟩ := s.exchanged_keeps port t4
  obtain ⟨hsteps, hrate⟩ := State.acceptExchange_steps (hjobs.trans hjob) hlarge
  rw [hnow] at hsteps
  exact ⟨_, delayResp_accepts t4 h hopen hfirst, hsteps, hrate⟩

/-! ### Holdover -/

/-- What a follower knows of the time, and the configuration that makes it one. -/
def State.timekeeping (s : State) : TimeSync × ConfigSet := (s.time, s.active)

theorem State.timekeeping_unrecorded : Unrecorded State.timekeeping where
  errs _ _ := rfl
  host _ _ := rfl
  switch _ _ := rfl
  events _ _ _ _ := rfl
  box s src b := by cases src <;> rfl
  job _ _ _ := rfl

/-- A record leaves them alone, whatever its severity (R518). -/
theorem State.log_timekeeping (s : State) (x : Event) : (s.log x).timekeeping = s.timekeeping :=
  State.timekeeping_unrecorded.log_of_cores (fun _ _ => rfl) (fun _ _ _ => rfl) s x

/-- Holdover begins: the rate is the learned one, and the follower is not locked (R380). -/
theorem State.holdover_begins (h : s.time.hold = false) :
    s.holdover.time = { s.time with hold := true, locked := false, rate := s.time.learned, inRun := 0, waiting := false } := by
  rw [State.holdover, if_neg (Bool.eq_false_iff.mp h)]
  exact congrArg Prod.fst (State.log_timekeeping _ _)

theorem leaveActive_begins_holdover (hfollows : s.follows port = true) (hhold : s.time.hold = false) :
    (s.leaveActive port).time.hold = true ∧ (s.leaveActive port).time.locked = false ∧
      (s.leaveActive port).time.rate = s.time.learned := by
  have hkept : ((s.log (portEvent 1 0x0401 port 0 [])).rechoose port).timekeeping = s.timekeeping := s.log_timekeeping _
  unfold State.leaveActive
  dsimp only
  generalize (s.log (portEvent 1 0x0401 port 0 [])).rechoose port = t at hkept ⊢
  have htime : t.time = s.time := congrArg Prod.fst hkept
  have hactive : t.active = s.active := congrArg Prod.snd hkept
  have hfollows' : t.follows port = true := by rwa [State.follows, hactive]
  rw [if_pos hfollows', State.holdover_begins (htime ▸ hhold), htime]
  exact ⟨rfl, rfl, rfl⟩

end

/-- Settles O31: each clause is the lemma above about its message, its exchange or its loss. -/
theorem followersKeepTheParentsTime : Obligations.FollowersKeepTheParentsTime := by
  unfold Obligations.FollowersKeepTheParentsTime
  exact ⟨fun _ seq _ h => timeSyncExchange_sends seq h,
    fun _ seq _ hfollows hidle hsynced => timeSyncExchange_after_whole seq hfollows hidle hsynced,
    fun _ seq _ hfollows hbroken hfew => timeSyncExchange_counts_lost seq hfollows hbroken hfew,
    fun _ t1 t2 t3 seq _ h hidle => sync_answers t1 t2 t3 seq h hidle,
    fun _ t4 seq _ h => delayReq_answers t4 seq h,
    fun _ t4 _ _ _ h hopen hdelays hlong hfew => delayResp_discards t4 h hopen hdelays hlong hfew,
    fun _ t4 _ h hopen hfirst hjob => delayResp_with_job t4 h hopen hfirst hjob,
    fun _ t4 _ h hopen hfirst hjob hlarge => delayResp_steps t4 h hopen hfirst hjob hlarge,
    fun _ _ h hhold => leaveActive_begins_holdover h.2 hhold,
    fun _ t1 t2 t3 seq _ h => sync_only_taken t1 t2 t3 seq h,
    fun _ t4 seq _ h => delayReq_only_taken t4 seq h,
    fun _ t4 seq _ h => delayResp_only_taken t4 seq h⟩

end Sys2Proof.Machine
end

section
/-! PROOFS. A REDUCE_FWD outside every context's window: what a direct add leaves at its destination, by the length of its data (R328,
R366, R367). -/

namespace Sys2Proof.Machine

/-! ### The length of a sum -/

/-- A sum has the bytes of the incoming elements that are whole. -/
theorem reduceBytes_length (t : Ty) (old new : List Byte) :
    (reduceBytes t old new).length = new.length / (t.width / 8) * (t.width / 8) := by
  simp [reduceBytes, List.length_flatMap]

/-- The elements of a reduction have 4 or 2 bytes (R366). -/
theorem redTy_width (f : Nat) : (redTy f).width = 32 ∨ (redTy f).width = 16 := by
  unfold redTy
  split
  · exact .inl rfl
  · exact .inr rfl
  · exact .inl rfl

variable {m : LinkMsg}

/-- A REDUCE_FWD moves all of its data (R366). -/
theorem take_reqBytes_of_reduce (h : m.type = 4) : m.data.take (reqBytes m) = m.data := by
  refine List.take_of_length_le ?_
  rw [reqBytes, h]
  exact msgLen_covers m

/-- The sum of a REDUCE_FWD has the bytes that the message counts as moved exactly if its data are whole units (R328). -/
theorem reduce_length_iff (h : m.type = 4) (f : Nat) (old : List Byte) :
    (reduceBytes (redTy f) old (m.data.take (reqBytes m))).length = reqBytes m ↔ m.data.length % 16 = 0 := by
  have hmoved : reqBytes m = 16 * ((m.data.length + 16 - 1) / 16) := by
    rw [reqBytes, h]
    rfl
  rw [take_reqBytes_of_reduce h, reduceBytes_length, hmoved]
  rcases redTy_width f with hw | hw <;> rw [hw] <;> omega

/-! ### A direct add -/

section
variable {s : State} {port : Fin 48}

/-- The block once a direct add has read its destination and written the sum. -/
def State.sumStored (s : State) (m : LinkMsg) : State :=
  (s.destMeet m (reqBytes m) [] .clean).destPut m
    (addPayload (redTy m.subop.toNat) (s.destGet m (reqBytes m)) (m.data.take (reqBytes m))) [] .clean

theorem reduceFwd_performed (h : Rules.Passes s port m 4 true) (hctx : s.ctxOf m = none) (hfree : s.destBlocked m = false)
    (hcalm : Rules.Calmly s m) :
    exec (.reduceFwd port m) s = .next (((s.receive port m).sumStored m).respond (reqEdie m) m 9 0 []) := by
  obtain ⟨hdue, hpass, -⟩ := h
  have hget : ((s.receive port m).destMeet m (reqBytes m) [] .clean).destGet m (reqBytes m) =
      (s.receive port m).destGet m (reqBytes m) := State.destGet_destMeet (s := s.receive port m) hcalm _ _
  show execReduceFwd port m s = _
  simp only [execReduceFwd, State.turn_of_due hdue, hpass, hctx, hfree, State.directAdd, hget, State.sumStored, Bool.not_true,
    Bool.false_eq_true, if_false]

/-- The destination then holds the sum, as far as the sum goes. -/
theorem State.destGet_sumStored (hcalm : Rules.Calmly s m) :
    ((s.sumStored m).destGet m (reduceBytes (redTy m.subop.toNat) (s.destGet m (reqBytes m)).bytes (m.data.take (reqBytes m))).length).bytes =
      reduceBytes (redTy m.subop.toNat) (s.destGet m (reqBytes m)).bytes (m.data.take (reqBytes m)) :=
  State.destGet_destPut (State.calmly_destMeet hcalm _)
    (addPayload (redTy m.subop.toNat) (s.destGet m (reqBytes m)) (m.data.take (reqBytes m)))

/-- A direct add is answered DONE and leaves the sum in the bytes that its message counts as moved, exactly if the data of the message
are whole units. -/
theorem reduceFwd_adds_iff (h : Rules.Passes s port m 4 true) (hctx : s.ctxOf m = none) (hfree : s.destBlocked m = false)
    (hcalm : Rules.Calmly s m) :
    (∃ s', exec (.reduceFwd port m) s = .next s' ∧ Rules.answered s' m 9 0 [] ∧
      (s'.destGet m (reqBytes m)).bytes =
        reduceBytes (redTy m.subop.toNat) (s.destGet m (reqBytes m)).bytes (m.data.take (reqBytes m))) ↔
      m.data.length % 16 = 0 := by
  have hlength := reduce_length_iff h.1.1 m.subop.toNat (s.destGet m (reqBytes m)).bytes
  constructor
  · rintro ⟨s', -, -, hsum⟩
    rw [← hlength, ← hsum, State.destGet_length]
  · intro hwhole
    refine ⟨_, reduceFwd_performed h hctx hfree hcalm, State.respond_answers .., ?_⟩
    have hsum := State.destGet_sumStored (s := s.receive port m) hcalm
    have hmoved := hlength.mpr hwhole
    rwa [show (s.receive port m).destGet m (reqBytes m) = s.destGet m (reqBytes m) from rfl, hmoved] at hsum

end

/-! ### Data that are not whole units -/

/-- A running job that admits module 9 and lets it write 64 KiB of external memory. -/
def linkedJob : Job :=
  { Job.blank with
    st := .running, peers := [9]
    wins := [{ base := 0x50000000, limit := 0x50010000, write := true, host := false, link := true }] }

/-- The block after a reset, with that job loaded. -/
def linkedState : State := State.reset.mapJob 0 (fun _ => linkedJob)

/-- A REDUCE_FWD of I32 from module 9 with 17 bytes of data: the last of its two units has one byte. -/
def raggedReduce : LinkMsg :=
  { linkedState.message 4 linkedState.self 2 0x50000000 (List.replicate 17 1) with smod := 9 }

theorem linkedState_takes_raggedReduce :
    Rules.Passes linkedState 0 raggedReduce 4 true ∧ linkedState.ctxOf raggedReduce = none ∧
      linkedState.destBlocked raggedReduce = false ∧ Rules.Calmly linkedState raggedReduce := by decide +kernel

/-- Refutes O30: its clause on a direct add says of every message that the bytes the message counts as moved are the sum, while the model
adds the elements that came and leaves the rest of a last unit that is not whole; `raggedReduce` has such a unit. No message of the link
has one (R328, `LinkMsg.wf`), and of whole units the clause holds (`reduceFwd_adds_iff`). -/
theorem not_reductionsAddAndAnswer : ¬ Obligations.ReductionsAddAndAnswer := by
  unfold Obligations.ReductionsAddAndAnswer
  rintro ⟨hadds, -⟩
  obtain ⟨hpasses, hctx, hfree, hcalm⟩ := linkedState_takes_raggedReduce
  have hwhole := (reduceFwd_adds_iff hpasses hctx hfree hcalm).mp (hadds 0 raggedReduce linkedState hpasses hctx hfree hcalm)
  exact absurd hwhole (by decide)

end Sys2Proof.Machine
end


section
/-! PROOFS. The step and the queue of commands. -/

namespace Sys2Proof.Machine

/-- Settles O52: `step` by the two cases of the queue. -/
theorem aStepTakesTheFrontCommand : Obligations.AStepTakesTheFrontCommand := by
  unfold Obligations.AStepTakesTheFrontCommand
  refine ⟨fun c cs s h => ?_, fun s h => ?_⟩
  · rw [step, h]
  · rw [step, h]

end Sys2Proof.Machine
end


section
/-! PROOFS. What every step keeps (log entries 3, 5, 11): the queue of commands, the blown fuses and the canonical form of the memories. The
relation, and the rules by which a state, a reply or an outcome is built. -/

namespace Sys2Proof.Machine

/-! ### Memories -/

theorem tdel_wf (m : Memory) (a : Nat) (h : m.wf = true) : Memory.wf (tdel m a) = true := filter_wf m _ h

theorem ElemWrite.apply_wf (m : Memory) (w : ElemWrite) (h : m.wf = true) : (w.apply m).wf = true := by
  simp only [ElemWrite.apply]
  split
  · exact memWrite_wf _ _ _ h
  · exact memWriteN_wf _ _ _ h

theorem applyWrites_wf (ws : List ElemWrite) (m : Memory) (h : m.wf = true) : (applyWrites m ws).wf = true :=
  List.foldlRecOn (motive := fun x => Memory.wf x = true) ws _ h (fun x hx w _ => w.apply_wf x hx)

/-- The scratchpad's memory is canonical. -/
structure Spm.Tidy (m : Spm) : Prop where
  mem : m.mem.wf = true

/-- The vector registers are canonical. -/
structure Ve.Tidy (v : Ve) : Prop where
  regs : v.v.wf = true

/-- Tiles and sidecars are canonical. -/
structure Me.Tidy (m : Me) : Prop where
  tiles : m.tiles.wf = true
  side : m.side.wf = true

/-- Every memory of the core is canonical. -/
structure Core.Tidy (c : Core) : Prop where
  spm : c.spm.Tidy
  ve : c.ve.Tidy
  me : c.me.Tidy

theorem Core.tidy_iff (c : Core) : c.Tidy ↔ c.canonical = true := by
  simp only [Core.canonical, Bool.and_eq_true]
  exact ⟨fun h => ⟨⟨⟨h.spm.mem, h.ve.regs⟩, h.me.tiles⟩, h.me.side⟩, fun ⟨⟨⟨h1, h2⟩, h3⟩, h4⟩ => ⟨⟨h1⟩, ⟨h2⟩, ⟨h3, h4⟩⟩⟩

section
variable {m n : Spm} {v w : Ve} {x y : Me} {c d : Core}

/-- A scratchpad whose memory is that of a canonical one. -/
theorem Spm.Tidy.rest (h : m.Tidy) (e : n.mem = m.mem) : n.Tidy := ⟨e ▸ h.mem⟩

theorem Ve.Tidy.rest (h : v.Tidy) (e : w.v = v.v) : w.Tidy := ⟨e ▸ h.regs⟩

theorem Me.Tidy.rest (h : x.Tidy) (e : (y.tiles, y.side) = (x.tiles, x.side)) : y.Tidy := by
  obtain ⟨h1, h2⟩ := Prod.mk.inj e
  exact ⟨h1 ▸ h.tiles, h2 ▸ h.side⟩

/-- A core with the scratchpad and engines of a canonical one. -/
theorem Core.Tidy.rest (h : c.Tidy) (e : (d.spm, d.ve, d.me) = (c.spm, c.ve, c.me)) : d.Tidy := by
  obtain ⟨h1, h2⟩ := Prod.mk.inj e
  obtain ⟨h2, h3⟩ := Prod.mk.inj h2
  exact ⟨h1 ▸ h.spm, h2 ▸ h.ve, h3 ▸ h.me⟩

/-- Fields other than the memory change. -/
theorem Spm.Tidy.others
    {poison gates tags waits moves remote tagTimeout scrub noGateRecorded otherJobRecorded spares} (h : m.Tidy) :
    Spm.Tidy { m with
      poison := poison, gates := gates, tags := tags, waits := waits, moves := moves, remote := remote, tagTimeout := tagTimeout,
      scrub := scrub, noGateRecorded := noGateRecorded, otherJobRecorded := otherJobRecorded, spares := spares } :=
  h.rest rfl

theorem Ve.Tidy.others
    {m vpoison mpoison vlen log restr failed ret waking q run} (h : v.Tidy) :
    Ve.Tidy { v with
      m := m, vpoison := vpoison, mpoison := mpoison, vlen := vlen, log := log, restr := restr, failed := failed, ret := ret,
      waking := waking, q := q, run := run } :=
  h.rest rfl

theorem Me.Tidy.others
    {tpoison spoison cfg q run planes lastPlane cold latchA latchB retest retained} (h : x.Tidy) :
    Me.Tidy { x with
      tpoison := tpoison, spoison := spoison, cfg := cfg, q := q, run := run, planes := planes, lastPlane := lastPlane, cold := cold,
      latchA := latchA, latchB := latchB, retest := retest, retained := retained } :=
  h.rest rfl

/-- Parts of a core other than its scratchpad and its engines change. -/
theorem Core.Tidy.others
    {threads de runners events fpflags streams div tracker marks dbg released frozen finished phase queued cycle rot seq codeSize
    pourArrived out} (h : c.Tidy) :
    Core.Tidy { c with
      threads := threads, de := de, runners := runners, events := events, fpflags := fpflags, streams := streams, div := div,
      tracker := tracker, marks := marks, dbg := dbg, released := released, frozen := frozen, finished := finished, phase := phase,
      queued := queued, cycle := cycle, rot := rot, seq := seq, codeSize := codeSize, pourArrived := pourArrived, out := out } :=
  h.rest rfl

theorem Core.Tidy.withSpm
    {threads spm de runners events fpflags streams div tracker marks dbg released frozen finished phase queued cycle rot seq codeSize
    pourArrived out} (h : c.Tidy) (hm : spm.Tidy) :
    Core.Tidy { c with
      threads := threads, spm := spm, de := de, runners := runners, events := events, fpflags := fpflags, streams := streams, div := div,
      tracker := tracker, marks := marks, dbg := dbg, released := released, frozen := frozen, finished := finished, phase := phase,
      queued := queued, cycle := cycle, rot := rot, seq := seq, codeSize := codeSize, pourArrived := pourArrived, out := out } :=
  ⟨hm, h.ve, h.me⟩

theorem Core.Tidy.withVe
    {threads ve de runners events fpflags streams div tracker marks dbg released frozen finished phase queued cycle rot seq codeSize
    pourArrived out} (h : c.Tidy) (hv : ve.Tidy) :
    Core.Tidy { c with
      threads := threads, ve := ve, de := de, runners := runners, events := events, fpflags := fpflags, streams := streams, div := div,
      tracker := tracker, marks := marks, dbg := dbg, released := released, frozen := frozen, finished := finished, phase := phase,
      queued := queued, cycle := cycle, rot := rot, seq := seq, codeSize := codeSize, pourArrived := pourArrived, out := out } :=
  ⟨h.spm, hv, h.me⟩

theorem Core.Tidy.withMe
    {threads me de runners events fpflags streams div tracker marks dbg released frozen finished phase queued cycle rot seq codeSize
    pourArrived out} (h : c.Tidy) (hx : me.Tidy) :
    Core.Tidy { c with
      threads := threads, me := me, de := de, runners := runners, events := events, fpflags := fpflags, streams := streams, div := div,
      tracker := tracker, marks := marks, dbg := dbg, released := released, frozen := frozen, finished := finished, phase := phase,
      queued := queued, cycle := cycle, rot := rot, seq := seq, codeSize := codeSize, pourArrived := pourArrived, out := out } :=
  ⟨h.spm, h.ve, hx⟩

theorem Spm.Tidy.ite {p : Prop} [Decidable p] (hm : m.Tidy) (hn : n.Tidy) : (if p then m else n).Tidy := either_branch hm hn
theorem Ve.Tidy.ite {p : Prop} [Decidable p] (hv : v.Tidy) (hw : w.Tidy) : (if p then v else w).Tidy := either_branch hv hw
theorem Me.Tidy.ite {p : Prop} [Decidable p] (hx : x.Tidy) (hy : y.Tidy) : (if p then x else y).Tidy := either_branch hx hy
theorem Core.Tidy.ite {p : Prop} [Decidable p] (hc : c.Tidy) (hd : d.Tidy) : (if p then c else d).Tidy := either_branch hc hd

theorem Spm.Tidy.foldl {α : Type} {f : Spm → α → Spm} {l : List α} (h : m.Tidy) (hf : ∀ m a, m.Tidy → (f m a).Tidy) :
    (l.foldl f m).Tidy := List.foldlRecOn (motive := Spm.Tidy) l f h (fun x hx a _ => hf x a hx)
theorem Me.Tidy.foldl {α : Type} {f : Me → α → Me} {l : List α} (h : x.Tidy) (hf : ∀ m a, m.Tidy → (f m a).Tidy) :
    (l.foldl f x).Tidy := List.foldlRecOn (motive := Me.Tidy) l f h (fun x hx a _ => hf x a hx)
theorem Ve.Tidy.foldl {α : Type} {f : Ve → α → Ve} {l : List α} (h : v.Tidy) (hf : ∀ m a, m.Tidy → (f m a).Tidy) :
    (l.foldl f v).Tidy := List.foldlRecOn (motive := Ve.Tidy) l f h (fun x hx a _ => hf x a hx)
theorem Core.Tidy.foldl {α : Type} {f : Core → α → Core} {l : List α} (h : c.Tidy) (hf : ∀ c a, c.Tidy → (f c a).Tidy) :
    (l.foldl f c).Tidy := List.foldlRecOn (motive := Core.Tidy) l f h (fun x hx a _ => hf x a hx)

theorem Core.Tidy.mapSpm {f : Spm → Spm} (h : c.Tidy) (hf : ∀ m, m.Tidy → (f m).Tidy) : (c.mapSpm f).Tidy := ⟨hf _ h.spm, h.ve, h.me⟩

theorem Spm.tidy_reset : Spm.reset.Tidy := ⟨rfl⟩
theorem Ve.tidy_reset : Ve.reset.Tidy := ⟨rfl⟩
theorem Me.tidy_reset : Me.reset.Tidy := ⟨rfl, rfl⟩
theorem Core.tidy_reset : Core.reset.Tidy := ⟨⟨rfl⟩, ⟨rfl⟩, ⟨rfl, rfl⟩⟩
end

/-! ### Fuses -/

/-- Between two readings of the fuses bits have only been blown (R478, R488, R490 to R492). -/
structure Fuses.Blown (f g : Fuses) : Prop where
  svn : f.svn ≤ g.svn
  rkd : g.rkd = f.rkd
  revoked : ∀ k, f.revoked.getLsbD k = true → g.revoked.getLsbD k = true
  decom : ∀ k, f.decom.getLsbD k = true → g.decom.getLsbD k = true
  secret : ∀ k, f.secret.getLsbD k = true → g.secret.getLsbD k = true

theorem Fuses.Blown.refl (f : Fuses) : f.Blown f := ⟨Nat.le_refl _, rfl, fun _ h => h, fun _ h => h, fun _ h => h⟩

theorem Fuses.Blown.trans {f g i : Fuses} (h : f.Blown g) (k : g.Blown i) : f.Blown i :=
  ⟨h.svn.trans k.svn, k.rkd.trans h.rkd, fun n hn => k.revoked n (h.revoked n hn), fun n hn => k.decom n (h.decom n hn),
    fun n hn => k.secret n (h.secret n hn)⟩

/-- A flag of which a bit is blown is not zero. -/
theorem Fuses.Blown.decom_ne_zero {f g : Fuses} (h : f.Blown g) (hf : f.decom ≠ 0) : g.decom ≠ 0 := by
  intro hg
  refine hf (BitVec.eq_of_getLsbD_eq fun k _ => ?_)
  have := h.decom k
  rw [hg] at this
  simpa using this

/-! ### The relation -/

/-- What a step that takes `s` to `t` keeps. -/
structure State.Keeps (s t : State) : Prop where
  pending : t.pending = s.pending
  fuses : s.sec.fuses.Blown t.sec.fuses
  canonical : s.canonical = true → t.canonical = true

/-- What the relation speaks of. -/
def State.held (s : State) : List Instr × Fuses × Table Core × Memory := (s.pending, s.sec.fuses, s.cores, s.hbm.mem)

/-- A reply leaves such a state. -/
def State.Replies (s : State) (r : Reply) : Prop := s.Keeps r.s

/-- An outcome is such a next state. -/
def State.Answers (s : State) (o : Out) : Prop := ∃ t, o = .next t ∧ s.Keeps t

theorem State.canonical_iff (s : State) : s.canonical = true ↔ s.hbm.mem.wf = true ∧ ∀ x ∈ s.cores, x.2.Tidy := by
  simp only [State.canonical, Bool.and_eq_true, List.all_eq_true, Core.tidy_iff]

namespace State

theorem Keeps.refl (s : State) : s.Keeps s := ⟨rfl, .refl _, id⟩

section
variable {s₀ s t : State}

theorem Keeps.trans (h : s₀.Keeps s) (k : s.Keeps t) : s₀.Keeps t :=
  ⟨k.pending.trans h.pending, h.fuses.trans k.fuses, fun hc => k.canonical (h.canonical hc)⟩

/-- Fields other than the queue, the fuses, the cores and the bytes of external memory change. -/
theorem Keeps.rest (h : s₀.Keeps s) (e : t.held = s.held) : s₀.Keeps t := by
  obtain ⟨h1, e⟩ := Prod.mk.inj e
  obtain ⟨h2, e⟩ := Prod.mk.inj e
  obtain ⟨h3, h4⟩ := Prod.mk.inj e
  refine h.trans ⟨h1, h2 ▸ .refl _, fun hc => ?_⟩
  rw [State.canonical, h3, h4]
  exact hc

/-- Fields other than the queue, the fuses, the cores and the bytes of external memory change. -/
theorem Keeps.others
    {now fresh ident dies ports red switch time epoch active shadow lastSet flask power mp host boxes fm bmc frags errs board images
    rom idCert level failed challenge spdm spdmOut spdmLarge upd updSize updData receiver events lostEvents disabled pldmOut poison
    corr repaired} (h : s₀.Keeps s) :
    s₀.Keeps { s with
      now := now, fresh := fresh, ident := ident, hbm := { s.hbm with poison := poison, corr := corr, repaired := repaired },
      dies := dies, ports := ports, red := red, switch := switch, time := time, epoch := epoch, active := active, shadow := shadow,
      lastSet := lastSet, flask := flask, power := power, mp := mp, host := host, boxes := boxes, fm := fm, bmc := bmc, frags := frags,
      errs := errs,
      sec := { s.sec with
        images := images, rom := rom, idCert := idCert, level := level, failed := failed, challenge := challenge, spdm := spdm,
        spdmOut := spdmOut, spdmLarge := spdmLarge, upd := upd, updSize := updSize, updData := updData, receiver := receiver,
        events := events, lostEvents := lostEvents, disabled := disabled, pldmOut := pldmOut },
      board := board } :=
  h.rest rfl

theorem Keeps.ite {p : Prop} [Decidable p] (hs : s₀.Keeps s) (ht : s₀.Keeps t) : s₀.Keeps (if p then s else t) := either_branch hs ht

theorem Keeps.foldl {α : Type} {f : State → α → State} {l : List α} (h : s₀.Keeps s) (hf : ∀ t a, s₀.Keeps t → s₀.Keeps (f t a)) :
    s₀.Keeps (l.foldl f s) := List.foldlRecOn (motive := s₀.Keeps) l f h (fun x hx a _ => hf x a hx)

theorem Keeps.mem (h : s₀.Keeps s) (hs : s₀.canonical = true) : s.hbm.mem.wf = true := (s.canonical_iff.mp (h.canonical hs)).1

theorem tidy_blankCore (s : State) : s.blankCore.Tidy := by
  unfold State.blankCore
  split
  · exact ⟨⟨rfl⟩, ⟨rfl⟩, ⟨rfl, rfl⟩⟩
  · exact Core.tidy_reset

theorem tget_mem_or_default {α : Type} (t : Table α) (d : α) (k : Nat) : tget t d k = d ∨ (k, tget t d k) ∈ t := by
  induction t with
  | nil => exact .inl rfl
  | cons x t ih =>
    obtain ⟨i, v⟩ := x
    rw [tget]
    split
    next h => subst h; exact .inr (List.mem_cons_self ..)
    next => exact ih.imp id (List.mem_cons_of_mem _)

/-- A core of a canonical block is canonical. -/
theorem Keeps.core (h : s₀.Keeps s) (id : CoreId) (hs : s₀.canonical = true) : (s.core id).Tidy := by
  obtain ⟨-, hc⟩ := s.canonical_iff.mp (h.canonical hs)
  rcases tget_mem_or_default s.cores s.blankCore id.toNat with hd | hm
  · rw [State.core, hd]; exact s.tidy_blankCore
  · exact hc _ hm

theorem Keeps.at (h : s₀.Keeps s) (id : CoreId) (hs : s₀.canonical = true) : (s.at id).Tidy := (h.core id hs).rest rfl

/-- A core written back that is canonical. -/
theorem Keeps.setCore {id : CoreId} {c : Core} (h : s₀.Keeps s) (hc : s₀.canonical = true → c.Tidy) : s₀.Keeps (s.setCore id c) := by
  refine ⟨h.pending, h.fuses, fun hs => ?_⟩
  obtain ⟨hm, hall⟩ := s.canonical_iff.mp (h.canonical hs)
  refine (State.canonical_iff _).mpr ⟨hm, fun x hx => ?_⟩
  rcases mem_tset _ _ _ _ hx with rfl | hx
  · exact hc hs
  · exact hall x hx

/-- Cores removed from the table. -/
theorem Keeps.filterCores {p : Nat × Core → Bool} (h : s₀.Keeps s) : s₀.Keeps { s with cores := s.cores.filter p } := by
  refine ⟨h.pending, h.fuses, fun hs => ?_⟩
  obtain ⟨hm, hall⟩ := s.canonical_iff.mp (h.canonical hs)
  exact (State.canonical_iff _).mpr ⟨hm, fun x hx => hall x (List.mem_filter.mp hx).1⟩

/-- External memory that is canonical still. -/
theorem Keeps.setMem {b : Hbm} (h : s₀.Keeps s) (hb : s.hbm.mem.wf = true → b.mem.wf = true) : s₀.Keeps { s with hbm := b } := by
  refine ⟨h.pending, h.fuses, fun hs => ?_⟩
  obtain ⟨hm, hall⟩ := s.canonical_iff.mp (h.canonical hs)
  exact (State.canonical_iff _).mpr ⟨hb hm, hall⟩

/-- Fuses blown. -/
theorem Keeps.blow {f : Fuses} (h : s₀.Keeps s) (hf : s.sec.fuses.Blown f) : s₀.Keeps { s with sec := { s.sec with fuses := f } } :=
  h.trans ⟨rfl, hf, id⟩

theorem Replies.ite {p : Prop} [Decidable p] {r q : Reply} (hr : s₀.Replies r) (hq : s₀.Replies q) : s₀.Replies (if p then r else q) :=
  either_branch hr hq

theorem Replies.okWith {rsp : List Byte} (h : s₀.Keeps s) : s₀.Replies (okWith s rsp) := h
theorem Replies.badArg {n : Nat} (h : s₀.Keeps s) : s₀.Replies (badArg s n) := h
theorem Replies.denied {n : Nat} (h : s₀.Keeps s) : s₀.Replies (denied s n) := h
theorem Replies.notReady {n : Nat} (h : s₀.Keeps s) : s₀.Replies (notReady s n) := h
theorem Replies.waiting (h : s₀.Keeps s) : s₀.Replies (waiting s) := h

theorem Answers.next (h : s₀.Keeps s) : s₀.Answers (.next s) := ⟨s, rfl, h⟩

theorem Answers.ite {p : Prop} [Decidable p] {o q : Out} (ho : s₀.Answers o) (hq : s₀.Answers q) : s₀.Answers (if p then o else q) :=
  either_branch ho hq

end
end State

end Sys2Proof.Machine
end

section
/-! PROOFS. What every step keeps: the shared operations on cores, the fabric, ports and external memory. -/

namespace Sys2Proof.Machine

/-! ### The named operations on one core that every family shares -/

theorem Core.Tidy.mapTh {c : Core} {t : Fin 4} {f : Thread → Thread} (h : c.Tidy) : (Core.mapTh c t f).Tidy := .others h
theorem Core.Tidy.mapR {c : Core} {t : Fin 4} {f : Regs → Regs} (h : c.Tidy) : (Core.mapR c t f).Tidy := .mapTh h
theorem Core.Tidy.mapX {c : Core} {t : Fin 4} {f : ExcRegs → ExcRegs} (h : c.Tidy) : (Core.mapX c t f).Tidy := .mapTh h
theorem Core.Tidy.halted {c : Core} {e : Env} (h : c.Tidy) : (Core.halted e c).Tidy := .others h

theorem Core.Tidy.trace {c : Core} {e : Env} {sel type : ℕ} {t : Fin 4} {detail pc w2 : ℕ} (h : c.Tidy) :
    (Core.trace e sel type t detail pc w2 c).Tidy :=
  .ite (.ite (.others h) (.others h)) h

theorem Core.Tidy.traceSync {c : Core} {e : Env} (h : c.Tidy) : (Core.traceSync e c).Tidy := .ite (.ite (.others h) (.others h)) h
theorem Core.Tidy.post {c : Core} {p : Post} (h : c.Tidy) : (Core.post p c).Tidy := .others h
theorem Core.Tidy.setSt {c : Core} {e : Env} {t : Fin 4} {st : ThState} (h : c.Tidy) : (Core.setSt e t st c).Tidy := .trace (.mapTh h)
theorem Core.Tidy.flag {c : Core} {f : BitVec 6} (h : c.Tidy) : (Core.flag f c).Tidy := .others h
theorem Core.Tidy.flushMul {c : Core} {t : Fin 4} (h : c.Tidy) : (Core.flushMul t c).Tidy := .mapTh h

theorem Core.Tidy.flushDiv {c : Core} {t : Fin 4} (h : c.Tidy) : (Core.flushDiv t c).Tidy := by
  unfold Core.flushDiv
  split
  · exact .ite (.flag (.mapR (.others h))) h
  · exact h

theorem Core.Tidy.flushLate {c : Core} {t : Fin 4} (h : c.Tidy) : (Core.flushLate t c).Tidy := .flushDiv (.flushMul h)

theorem Core.Tidy.faultStop {c : Core} {e : Env} {t : Fin 4} {ex : Exc} (h : c.Tidy) : (Core.faultStop e t ex c).Tidy :=
  .post (.mapTh (.setSt h))

theorem Core.Tidy.takeExc {c : Core} {e : Env} {t : Fin 4} {ex : Exc} {imprecise : Bool} (h : c.Tidy) :
    (Core.takeExc e t ex imprecise c).Tidy :=
  .ite (.trace (.mapR (.mapX (.mapX (.flushLate h))))) (.faultStop (.mapX (.mapX (.flushLate h))))

theorem Core.Tidy.arrive {c : Core} {t : Fin 4} {ex : Exc} (h : c.Tidy) : (Core.arrive t ex c).Tidy := .mapTh h
theorem Core.Tidy.advance {c : Core} {t : Fin 4} {len : BitVec 2} (h : c.Tidy) : (Core.advance t len c).Tidy := .mapR h
theorem Core.Tidy.jump {c : Core} {e : Env} {t : Fin 4} {target : Word} (h : c.Tidy) : (Core.jump e t target c).Tidy := .trace (.mapR h)
theorem Spm.Tidy.write {m : Spm} {addr : ℕ} {data : List Byte} (h : m.Tidy) : (m.write addr data).Tidy := ⟨memWriteN_wf _ _ _ h.mem⟩
theorem Spm.Tidy.put {m : Spm} {addr : ℕ} {x : Payload} (h : m.Tidy) : (m.put addr x).Tidy := ⟨memWriteN_wf _ _ _ h.mem⟩
theorem Core.Tidy.bump {c : Core} (h : c.Tidy) : (Core.bump c).Tidy := .others h

theorem Core.Tidy.bpTrace {c : Core} {e : Env} {t : Fin 4} (h : c.Tidy) : (Core.bpTrace e t c).Tidy :=
  .ite (.ite (.others h) (.ite (.traceSync (.others h)) h)) h

theorem Core.Tidy.issued {c : Core} {e : Env} {t : Fin 4} (h : c.Tidy) : (Core.issued e t c).Tidy := .bpTrace (.mapTh (.others h))

/-! ### The named accessors of the module around the cores -/

theorem State.Keeps.wait {s₀ s : State} {t : ℕ} (h : s₀.Keeps s) : s₀.Keeps (s.wait t) := .others h
theorem State.Keeps.mapDie {s₀ s : State} {d : ℕ} {f : Die → Die} (h : s₀.Keeps s) : s₀.Keeps (s.mapDie d f) := .others h
theorem State.Keeps.mapPort {s₀ s : State} {p : Fin 48} {f : Port → Port} (h : s₀.Keeps s) : s₀.Keeps (s.mapPort p f) := .others h
theorem State.Keeps.mapRed {s₀ s : State} {x : Fin 16} {f : RedCtx → RedCtx} (h : s₀.Keeps s) : s₀.Keeps (s.mapRed x f) := .others h
theorem State.Keeps.mapJob {s₀ s : State} {j : Fin 8} {f : Job → Job} (h : s₀.Keeps s) : s₀.Keeps (s.mapJob j f) := .others h

theorem Core.Tidy.afterReset {c : Core} {s : State} {id : CoreId} (h : c.Tidy) : (State.afterReset s id c).Tidy :=
  ⟨.others h.spm, .others h.ve, .others h.me⟩

theorem State.Keeps.post {s₀ s : State} {edie : Fin 8} {m : LinkMsg} {who : Option Requester} (h : s₀.Keeps s) :
    s₀.Keeps (s.post edie m who) :=
  .others h

theorem State.Keeps.signal {s₀ s : State} {hi : Fin 2} {v : ℕ} (h : s₀.Keeps s) : s₀.Keeps (s.signal hi v) := .others h
theorem State.Keeps.signalBoth {s₀ s : State} {v : ℕ} (h : s₀.Keeps s) : s₀.Keeps (s.signalBoth v) := .signal (.signal h)

/-! ### Error records and notices -/

theorem State.Keeps.ringPut {s₀ s : State} {r : Record} (h : s₀.Keeps s) : s₀.Keeps (s.ringPut r) :=
  .ite h (.ite (.others h) (.ite (.signalBoth (.others h)) (.others h)))

theorem State.Keeps.noticePut {s₀ s : State} {r : Record} (h : s₀.Keeps s) : s₀.Keeps (s.noticePut r) := by
  unfold State.noticePut
  refine .ite h (.foldl h (fun _ _ h0 => ?_))
  split
  · exact .post h0
  · exact h0

theorem State.Keeps.bmcPut {s₀ s : State} {r : Record} (h : s₀.Keeps s) : s₀.Keeps (s.bmcPut r) := .ite h (.ite (.others h) (.others h))
theorem State.Keeps.logPut {s₀ s : State} {x : Event} (h : s₀.Keeps s) : s₀.Keeps (s.logPut x) := .bmcPut (.noticePut (.ringPut (.others h)))

theorem State.Keeps.holdCores {s₀ s : State} {j : Fin 8} (h : s₀.Keeps s) : s₀.Keeps (s.holdCores j) :=
  .foldl h (fun _ _ h0 => .setCore h0 (fun hs => .halted (h0.core _ hs)))

theorem State.Keeps.safetyAction {s₀ s : State} {c : Claim} (h : s₀.Keeps s) : s₀.Keeps (s.safetyAction c) := .others h

theorem State.Keeps.faultJob {s₀ s : State} {j : Fin 8} (h : s₀.Keeps s) : s₀.Keeps (s.faultJob j) := by
  unfold State.faultJob
  split
  · exact .logPut (.safetyAction (.mapJob (.holdCores h)))
  · exact .logPut (.safetyAction (.mapJob (.holdCores h)))
  · exact .logPut (.safetyAction (.mapJob (.holdCores h)))
  · exact h

theorem State.Keeps.faultAll {s₀ s : State} (h : s₀.Keeps s) : s₀.Keeps s.faultAll := .foldl h (fun _ _ h0 => .faultJob h0)
theorem State.Keeps.noteFatal {s₀ s : State} {n : ℕ} {idx : Word} (h : s₀.Keeps s) : s₀.Keeps (s.noteFatal n idx) := .ite h (.mapJob h)

theorem State.Keeps.severity {s₀ s : State} {x : Event} (h : s₀.Keeps s) : s₀.Keeps (s.severity x) :=
  .ite h (.ite (.ite h (.faultJob h)) (.ite (.faultAll (.others h)) h))

theorem State.Keeps.tally {s₀ s : State} {sev : BitVec 2} (h : s₀.Keeps s) : s₀.Keeps (s.tally sev) := .others h

theorem State.Keeps.coreCandidate {s₀ s : State} {x : Event} (h : s₀.Keeps s) : s₀.Keeps (s.coreCandidate x) := by
  unfold State.coreCandidate
  split
  · exact .ite (.ite (.logPut (.tally (.others (.others h)))) (.others h)) h
  · exact h

theorem State.Keeps.log {s₀ s : State} {x : Event} (h : s₀.Keeps s) : s₀.Keeps (s.log x) := by
  have ht : s₀.Keeps (s.tally x.sev) := .tally h
  unfold State.log
  extract_lets r t merged w e t₁ e₁ t₂ y t₃
  have h₁ : s₀.Keeps t₁ := ht.rest rfl
  have h₂ : s₀.Keeps t₂ := .ite (.others h₁) (.ite (.noteFatal (.logPut h₁)) h₁)
  have h₃ : s₀.Keeps t₃ := .ite (.coreCandidate (.logPut (.tally h₂))) h₂
  exact .ite (.logPut h) (.severity (.ite h₃ (.coreCandidate h₃)))

theorem State.Keeps.ledgerRow {s₀ s : State} {id : CoreId} {p : Post} (h : s₀.Keeps s) : s₀.Keeps (s.ledgerRow id p) := by
  unfold State.ledgerRow
  split
  · exact .others h
  · exact h

theorem State.Keeps.corePost {s₀ s : State} {id : CoreId} {p : Post} (h : s₀.Keeps s) : s₀.Keeps (s.corePost id p) := by
  unfold State.corePost
  exact .log (.ite (.ledgerRow h) h)

/-! ### The core map of each C-die as the management processor keeps it -/

theorem State.Keeps.mapMap {s₀ s : State} {d : ℕ} {f : CoreMap → CoreMap} (h : s₀.Keeps s) : s₀.Keeps (s.mapMap d f) := .others h

theorem State.Keeps.exhausted {s₀ s : State} {die : ℕ} {id : Option CoreId} (h : s₀.Keeps s) : s₀.Keeps (s.exhausted die id) := by
  unfold State.exhausted
  exact .log (.others h)

theorem State.Keeps.leavePosition {s₀ s : State} {id : CoreId} (h : s₀.Keeps s) : s₀.Keeps (s.leavePosition id) := by
  unfold State.leavePosition
  split
  · exact h
  · exact .ite (.others h) (.others (.others h))

theorem State.Keeps.moveIndex {s₀ s : State} {id : CoreId} {p : ℕ} (h : s₀.Keeps s) : s₀.Keeps (s.moveIndex id p) :=
  .ite (.setCore (.others (.leavePosition h)) (fun hs => .withVe (State.Keeps.core (.others (.leavePosition h)) _ hs)
    (.others (Core.Tidy.ve (State.Keeps.core (.others (.leavePosition h)) _ hs))))) (.others (.leavePosition h))

theorem State.Keeps.replaceCore {s₀ s : State} {id : CoreId} (h : s₀.Keeps s) : s₀.Keeps (s.replaceCore id) := by
  unfold State.replaceCore
  split
  · exact .moveIndex h
  · exact .exhausted h

theorem State.Keeps.rejoin {s₀ s : State} (h : s₀.Keeps s) : s₀.Keeps s.rejoin := .foldl h (fun _ _ h0 => .ite h0 (.mapMap h0))

theorem State.Keeps.nodeLimit {s₀ s : State} {d : ℕ} (h : s₀.Keeps s) : s₀.Keeps (s.nodeLimit d) := by
  unfold State.nodeLimit
  exact .log (.others h)

theorem State.Keeps.checkNodes {s₀ s : State} {d : ℕ} (h : s₀.Keeps s) : s₀.Keeps (s.checkNodes d) := .ite h (.nodeLimit h)

theorem State.Keeps.retireNodes {s₀ s : State} {qs : List Nat} (h : s₀.Keeps s) : s₀.Keeps (s.retireNodes qs) := by
  induction qs generalizing s with
  | nil => exact h
  | cons q qs ih => exact .ite (ih (.rest h rfl)) (ih (.nodeLimit h))

theorem State.Keeps.bootNodes {s₀ s : State} {d : ℕ} (h : s₀.Keeps s) : s₀.Keeps (s.bootNodes d) := .ite h (.mapMap h)

theorem State.Keeps.settleDie {s₀ s : State} {d : ℕ} (h : s₀.Keeps s) : s₀.Keeps (s.settleDie d) :=
  .foldl (.checkNodes (.bootNodes h)) (fun _ _ h0 => .replaceCore h0)

theorem State.Keeps.settleNodes {s₀ s : State} {d : ℕ} (h : s₀.Keeps s) : s₀.Keeps (s.settleNodes d) :=
  .foldl (.checkNodes (.bootNodes h)) (fun _ _ h0 => .replaceCore h0)

/-! ### What the rest of a core asks of its DMA queues -/

theorem Core.Tidy.mapDq {c : Core} {q : Fin 4} {f : Dq → Dq} (h : c.Tidy) : (Core.mapDq q f c).Tidy := .others h
theorem Core.Tidy.mapDesc {c : Core} {q : Fin 4} {i : ℕ} {f : DescRun → DescRun} (h : c.Tidy) : (Core.mapDesc q i f c).Tidy := .mapDq h

theorem Core.Tidy.setAnswer {c : Core} {q : Fin 4} {key : ℕ} {o : GranuleOutcome} {x : Payload} (h : c.Tidy) :
    (Core.setAnswer q key o x c).Tidy :=
  .mapDq h

theorem Core.Tidy.dqFault {c : Core} {q : Fin 4} {i : ℕ} {code : BitVec 8} {opid : BitVec 4} {x : Exc} (h : c.Tidy) :
    (Core.dqFault q i code opid x c).Tidy := by
  unfold Core.dqFault
  split
  · exact h
  · exact .arrive (.mapDesc (.mapDq h))

theorem Core.Tidy.dqDescriptor {c : Core} {q : Fin 4} {i : ℕ} {code : BitVec 8} {opid : BitVec 4} (h : c.Tidy) :
    (Core.dqDescriptor q i code opid c).Tidy := by
  unfold Core.dqDescriptor
  split
  · exact h
  · exact .dqFault h

theorem Core.Tidy.dropFills {c : Core} {q : Fin 4} (h : c.Tidy) : (Core.dropFills q c).Tidy := .ite (.mapDq (.withSpm h (.others h.spm))) h
theorem Core.Tidy.dqResume {c : Core} {q : Fin 4} (h : c.Tidy) : (Core.dqResume q c).Tidy := .ite (.mapDq (.dropFills (.mapDq h))) h
theorem Core.Tidy.dqFlush {c : Core} {q : Fin 4} (h : c.Tidy) : (Core.dqFlush q c).Tidy := .ite (.others (.mapDq (.dropFills (.mapDq h)))) h

/-! ### The operands of SE and DE instructions -/

theorem Core.Tidy.writeDest {c : Core} {t : Fin 4} {d : Dest} {bytes v : ℕ} (h : c.Tidy) : (Core.writeDest t d bytes v c).Tidy := by
  unfold Core.writeDest
  extract_lets
  split
  · exact h
  · exact .mapSpm h (fun _ h0 => .write h0)
  · exact .mapR h
  · exact .mapR h
  · exact .mapR h

theorem Core.Tidy.writeFp {c : Core} {t : Fin 4} (h : c.Tidy) : (Core.writeFp t c).Tidy := by
  unfold Core.writeFp
  split
  · exact h
  · exact .flag (.writeDest (.mapTh h))

theorem Core.Tidy.writeFps {c : Core} {t : Fin 4} {n : Nat} (h : c.Tidy) : (Core.writeFps t n c).Tidy := by
  induction n generalizing c with
  | zero => exact h
  | succ n ih => exact ih (.writeFp h)

theorem Core.Tidy.flushAll {c : Core} {t : Fin 4} (h : c.Tidy) : (Core.flushAll t c).Tidy := .flushLate (.writeFps h)

theorem Core.Tidy.increments {c : Core} {t : Fin 4} {o : Operands} (h : c.Tidy) : (Core.increments t o c).Tidy :=
  .foldl h (fun _ _ h0 => .ite h0 (.mapR h0))

theorem Core.Tidy.track {c : Core} {t : Fin 4} {addr bytes : ℕ} {write : Bool} {seq : ℕ} (h : c.Tidy) :
    (Core.track t addr bytes write seq c).Tidy :=
  .ite h (.others h)

theorem Core.Tidy.trackDest {c : Core} {t : Fin 4} {o : Operand} (h : c.Tidy) : (Core.trackDest t o c).Tidy := by
  unfold Core.trackDest
  split
  · exact .track h
  · exact h

/-! ### How a command reaches one core of the block -/

theorem Core.Tidy.debugStop {c : Core} {e : Env} {t : Fin 4} {cause : BitVec 4} (h : c.Tidy) : (Core.debugStop e t cause c).Tidy :=
  .ite (.others (.ite (.others (.trace (.others (.mapTh (.setSt (.flushAll h)))))) (.trace (.others (.mapTh (.setSt (.flushAll h)))))))
    (.ite (.others (.trace (.others (.mapTh (.setSt (.flushAll h)))))) (.trace (.others (.mapTh (.setSt (.flushAll h))))))

theorem Core.Tidy.abandon {c : Core} {e : Env} {t : Fin 4} (h : c.Tidy) : (Core.abandon e t c).Tidy := by
  unfold Core.abandon
  extract_lets
  split
  · exact .mapTh (.others h)
  · exact .mapTh (.others h)
  · exact .mapTh (.mapSpm h (fun _ h0 => .others h0))
  · exact .mapTh h
  · exact .mapTh h
  · exact .ite (.mapSpm h (fun _ h0 => .others h0)) h
  · exact h

theorem Core.Tidy.settleHalt {c : Core} {e : Env} {t : Fin 4} (h : c.Tidy) : (Core.settleHalt e t c).Tidy :=
  .ite h (.ite (.debugStop (.abandon h)) (.abandon h))

theorem Core.Tidy.settle {c : Core} {e : Env} (h : c.Tidy) : (Core.settle e c).Tidy := .others (.foldl h (fun _ _ h0 => .settleHalt h0))

theorem Core.Tidy.takeAnswer {c : Core} {id : ℕ} {a : RemoteAnswer} (h : c.Tidy) : (Core.takeAnswer id a c).Tidy := by
  unfold Core.takeAnswer
  split
  · extract_lets
    split
    · exact .mapSpm h (fun _ h0 => .others h0)
    · exact .mapSpm (.mapSpm h (fun _ h0 => .others h0)) (fun _ h0 => .others h0)
  · exact h

theorem State.Keeps.deliverAnswer {s₀ s : State} {x : CoreId × ℕ × RemoteAnswer} (h : s₀.Keeps s) : s₀.Keeps (s.deliverAnswer x) :=
  .setCore h (fun hs => .takeAnswer (h.core _ hs))

theorem State.Keeps.sendLink {s₀ s : State} {id : CoreId} {l : LinkAsk} (h : s₀.Keeps s) : s₀.Keeps (s.sendLink id l) := .post h

theorem State.Keeps.crossTrigger {s₀ s : State} {id : CoreId} (h : s₀.Keeps s) : s₀.Keeps (s.crossTrigger id) := by
  unfold State.crossTrigger
  split
  · exact h
  · exact .foldl h (fun _ _ h0 => .ite (.setCore h0 (fun hs => .others (h0.core _ hs))) h0)

theorem State.Keeps.settleJob {s₀ s : State} {id : CoreId} (h : s₀.Keeps s) : s₀.Keeps (s.settleJob id) := by
  unfold State.settleJob
  split
  · exact h
  · exact .ite (.log (.mapJob h)) h

theorem State.Keeps.drain {s₀ s : State} {id : CoreId} (h : s₀.Keeps s) : s₀.Keeps (s.drain id) := by
  unfold State.drain
  extract_lets c t t₁ t₂ t₃ t₄
  have ht : s₀.Keeps t := .setCore h fun hs => .others (h.core _ hs)
  have h₁ : s₀.Keeps t₁ := .foldl ht fun _ _ h0 => .deliverAnswer h0
  have h₂ : s₀.Keeps t₂ := .foldl h₁ fun _ _ h0 => .sendLink h0
  have h₃ : s₀.Keeps t₃ := .foldl h₂ fun _ _ h0 => .corePost h0
  have h₄ : s₀.Keeps t₄ := .ite (.crossTrigger h₃) h₃
  exact .ite (.settleJob h₄) h₄

theorem State.Keeps.onCore {s₀ s : State} {id : CoreId} {f : Env → Core → Core} (h : s₀.Keeps s) (hf : ∀ a b, b.Tidy → (f a b).Tidy) :
    s₀.Keeps (s.onCore id f) :=
  .ite (.drain (.setCore (.others h) (fun hs => .settle (hf _ _ (.others (h.core _ hs)))))) h

theorem State.Answers.onCore {s₀ s : State} {id : CoreId} {f : Env → Core → Core} (h : s₀.Keeps s) (hf : ∀ a b, b.Tidy → (f a b).Tidy) :
    s₀.Answers (Machine.onCore id f s) :=
  .next (.onCore h hf)

/-! ### What the package fabric finds of a flit on its way, and the records of a die's fabric -/

theorem State.Keeps.flitLost {s₀ s : State} {die : Fin 32} {pos : Option (Fin 272)} (h : s₀.Keeps s) : s₀.Keeps (s.flitLost die pos) :=
  .log (.mapDie h)

theorem State.Keeps.flitWords {s₀ s : State} {α : Type} {q : ℕ} {fixed lost : List α} (h : s₀.Keeps s) :
    s₀.Keeps (s.flitWords q fixed lost) :=
  .foldl (.foldl h fun _ _ h0 => .log (.mapDie h0)) fun _ _ h0 => .log (.mapDie h0)

/-- What a step may go on with that finds the first flit of a request whole or lost. -/
def State.Goes (s : State) : State ⊕ (State × Remote) → Prop
  | .inl t => s.Keeps t
  | .inr (t, _) => s.Keeps t

theorem State.Goes.takeRequestFlit {s₀ s : State} {target source : CoreId} {f : FlitFinding} {r : Remote} (h : s₀.Keeps s) : s₀.Goes
    (s.takeRequestFlit target source f r) := by
  unfold State.takeRequestFlit
  split
  · exact h
  · split
    · exact .setCore (.flitLost h) fun hs => .mapSpm (State.Keeps.core (.flitLost h) _ hs) fun _ h0 => .others h0
    · exact h
  · exact .flitWords h

theorem State.Keeps.takeResponseFlit {s₀ s : State} {source : CoreId} {id : ℕ} {f : FlitFinding} (h : s₀.Keeps s) :
    s₀.Keeps (s.takeResponseFlit source id f) := by
  unfold State.takeResponseFlit
  split
  · exact h
  · split
    · exact h
    · split
      · extract_lets
        split
        · exact .ite (.setCore (.flitLost h) (fun hs => .mapSpm (State.Keeps.core (.flitLost h) _ hs) (fun _ h0 => .others h0))) h
        · exact .setCore (.flitWords h) (fun hs => .mapSpm (State.Keeps.core (.flitWords h) _ hs) (fun _ h0 => .others h0))
        · exact h
      · exact h

/-! ### The package fabric -/

theorem execGridCrossingEnter_answers (fromE : Fin 8) (port : Fin 48) (vc : Fin 4) (s : State) :
    s.Answers (execGridCrossingEnter fromE port vc s) := by
  unfold Machine.execGridCrossingEnter
  extract_lets
  split
  · exact .next (.refl s)
  · split
    · exact .next (.refl s)
    · exact .ite (.next (.refl s)) (.next (.mapPort (.others (.refl s))))

theorem execBridgeReplay_answers (die : Fin 32) (side : Side) (channel : Fin 16) (s : State) :
    s.Answers (execBridgeReplay die side channel s) :=
  .ite (.next (.refl s)) (.ite (.next (.mapDie (.refl s))) (.next (.ite (.log (.log (.mapDie (.refl s)))) (.log (.mapDie (.refl s))))))

theorem State.Keeps.logJobs {s₀ s : State} {x : Event} (h : s₀.Keeps s) : s₀.Keeps (s.logJobs x) := .foldl h (fun _ _ h0 => .ite h0 (.log h0))

theorem execRouterDead_answers (die : Fin 32) (pos : Fin 272) (s : State) : s.Answers (execRouterDead die pos s) := by
  refine .ite (.next (.refl s)) (.next ?_)
  generalize ht : s.logJobs _ = t
  have h : s.Keeps t := ht ▸ .logJobs (.refl s)
  exact h.rest rfl

/-! ### Lanes, training, retraining, width changes and heartbeats of the ports -/

theorem execLaneLossOfLock_answers (port : Fin 48) (lane : Fin 8) (s : State) : s.Answers (execLaneLossOfLock port lane s) :=
  .next (.mapPort (.refl s))

theorem execLaneMarginal_answers (port : Fin 48) (lane : Fin 8) (symbols : BitVec 16) (s : State) :
    s.Answers (execLaneMarginal port lane symbols s) :=
  .ite (.next (.mapPort (.refl s))) (.next (.ite (.log (.mapPort (.refl s))) (.mapPort (.refl s))))

theorem execLaneTrainingStep_answers (port : Fin 48) (lane : Fin 8) (ok : Bool) (far : BitVec 8) (tap : TapAsk) (more : List TapAsk)
    (s : State) : s.Answers (execLaneTrainingStep port lane ok s far tap more) :=
  .ite (.next (.ite (.mapPort (.refl s)) (.refl s))) (.next (.mapPort (.ite (.mapPort (.refl s)) (.refl s))))

theorem execLaneDetectRetry_answers (port : Fin 48) (lane : Fin 8) (s : State) : s.Answers (execLaneDetectRetry port lane s) :=
  .next (.ite (.mapPort (.refl s)) (.refl s))

theorem State.Keeps.rechoose {s₀ s : State} {port : Fin 48} (h : s₀.Keeps s) : s₀.Keeps (s.rechoose port) := .others (.mapPort h)
theorem State.Keeps.holdover {s₀ s : State} (h : s₀.Keeps s) : s₀.Keeps s.holdover := .ite h (.log (.others h))

theorem State.Keeps.leaveActive {s₀ s : State} {port : Fin 48} (h : s₀.Keeps s) : s₀.Keeps (s.leaveActive port) :=
  .ite (.holdover (.rechoose (.log h))) (.rechoose (.log h))

theorem execPortTrainingDone_answers (port : Fin 48) (far : BitVec 8) (s : State) : s.Answers (execPortTrainingDone port far s) := by
  unfold Machine.execPortTrainingDone
  extract_lets
  split
  · exact .next (.mapPort (.refl s))
  · exact .ite (.next (.mapPort (.refl s))) (.next (.refl s))
  · exact .next (.refl s)

theorem execPortRetrain_answers (port : Fin 48) (s : State) : s.Answers (execPortRetrain port s) :=
  .ite (.next (.refl s)) (.next (.leaveActive (.mapPort (.refl s))))

theorem execRetrainTimeout_answers (port : Fin 48) (s : State) : s.Answers (execRetrainTimeout port s) :=
  .ite (.next (.refl s)) (.ite (.next (.mapPort (.wait (.refl s)))) (.next (.log (.mapPort (.wait (.refl s))))))

theorem execWidthReq_answers (port : Fin 48) (lanes : BitVec 8) (forced : Bool) (s : State) : s.Answers (execWidthReq port lanes forced s) :=
  .next (.mapPort (.refl s))

theorem execWidthReqRepeat_answers (port : Fin 48) (s : State) : s.Answers (execWidthReqRepeat port s) := by
  unfold Machine.execWidthReqRepeat
  split
  · exact .next (.refl s)
  · exact .ite (.next (.mapPort (.wait (.refl s)))) (.ite (.next (.mapPort (.wait (.refl s)))) (.next (.log (.mapPort (.wait (.refl s))))))

theorem execRealign_answers (port : Fin 48) (lanes : BitVec 8) (nth : Fin 8) (s : State) : s.Answers (execRealign port lanes s nth) :=
  .next (.mapPort (.refl s))

theorem execSwitch_answers (port : Fin 48) (lanes remain : BitVec 8) (s : State) : s.Answers (execSwitch port lanes remain s) :=
  .next (.mapPort (.refl s))

theorem execWidthChangePoint_answers (port : Fin 48) (s : State) : s.Answers (execWidthChangePoint port s) := .next (.mapPort (.refl s))

theorem execHeartbeatSend_answers (port : Fin 48) (s : State) : s.Answers (execHeartbeatSend port s) :=
  .ite (.next (.refl s)) (.next (.ite (.mapPort (.wait (.refl s))) (.mapPort (.wait (.refl s)))))

theorem execHbWordStale_answers (s : State) : s.Answers (execHbWordStale s) := .next (.others (.wait (.refl s)))

theorem State.Keeps.checkPeer {s₀ s : State} {port : Fin 48} (h : s₀.Keeps s) : s₀.Keeps (s.checkPeer port) := by
  unfold State.checkPeer
  extract_lets
  split
  · exact h
  · exact .ite (.log h) h

theorem State.Keeps.heartbeat {s₀ s : State} {port : Fin 48} {mod : BitVec 13} {peerPort : BitVec 6} {mstate : BitVec 4} (h : s₀.Keeps s) :
    s₀.Keeps (s.heartbeat port mod peerPort mstate) :=
  .ite h (.ite (.log (.leaveActive (.mapPort (.ite (.log (.mapPort h)) (.mapPort h)))))
    (.ite (.checkPeer (.mapPort (.ite (.log (.mapPort h)) (.mapPort h)))) (.mapPort (.ite (.log (.mapPort h)) (.mapPort h)))))

theorem execHeartbeat_answers (port : Fin 48) (mod : BitVec 13) (peerPort : BitVec 6) (mstate : BitVec 4) (_hbseq : BitVec 32) (s : State) :
    s.Answers (execHeartbeat port mod peerPort mstate _hbseq s) :=
  .next (.heartbeat (.refl s))

theorem execHeartbeatMiss_answers (port : Fin 48) (s : State) : s.Answers (execHeartbeatMiss port s) :=
  .ite (.next (.refl s)) (.next (.ite (.log (.mapPort (.refl s))) (.mapPort (.refl s))))

/-! ### External memory as every source of the module reads and writes it -/

theorem State.Keeps.channelCandidate {s₀ s : State} {p : BitVec 10} (h : s₀.Keeps s) : s₀.Keeps (s.channelCandidate p) :=
  .ite h (.ite (.log (.others h)) (.ite (.log (.others h)) (.others h)))

theorem State.Keeps.rowCandidate {s₀ s : State} {a : ℕ} (h : s₀.Keeps s) : s₀.Keeps (s.rowCandidate a) :=
  .ite h (.ite (.channelCandidate (.others (.log h))) (.others (.log h)))

theorem State.Keeps.applyHbmRepairs {s₀ s : State} (h : s₀.Keeps s) : s₀.Keeps s.applyHbmRepairs := .others h

theorem State.Keeps.hbmCorrected {s₀ s : State} {a bit : ℕ} (h : s₀.Keeps s) : s₀.Keeps (s.hbmCorrected a bit) :=
  .ite (.rowCandidate (.others (.log h))) (.others (.log h))

theorem State.Keeps.hbmUncorrectable {s₀ s : State} {a : ℕ} (h : s₀.Keeps s) : s₀.Keeps (s.hbmUncorrectable a) :=
  .rowCandidate (.others (.log h))

theorem State.Keeps.hbmMeet {s₀ s : State} {a n : ℕ} {x : HbmFinding} (h : s₀.Keeps s) : s₀.Keeps (s.hbmMeet a n x) := by
  unfold State.hbmMeet
  split
  · exact h
  · exact .ite h (.hbmCorrected h)
  · exact .ite h (.hbmUncorrectable h)

theorem State.Keeps.hbmRead {s₀ s : State} {a n : ℕ} {f : HbmFinding} (h : s₀.Keeps s) : s₀.Keeps (s.hbmRead a n f).1 := .hbmMeet h

theorem State.Keeps.hbmPut {s₀ s : State} {a : ℕ} {x : Payload} (h : s₀.Keeps s) : s₀.Keeps (s.hbmPut a x) :=
  .setMem h fun hm => memWriteN_wf _ _ _ hm

theorem State.Keeps.copyShare {s₀ s : State} {share : ℕ} {ext : HbmFinding} (h : s₀.Keeps s) : s₀.Keeps (s.copyShare share ext) := by
  unfold State.copyShare
  refine .ite h ?_
  extract_lets
  split
  · exact .others (.hbmPut (.hbmRead h))
  · exact .ite h (.log (.others h))

theorem State.Keeps.hbmWrite {s₀ s : State} {a : ℕ} {x : Payload} (h : s₀.Keeps s) : s₀.Keeps (s.hbmWrite a x) :=
  .hbmPut (.others (.foldl h (fun _ _ h0 => .copyShare h0)))

/-! ### The encoding and the addresses of VE instructions -/

theorem Core.Tidy.incBase {c : Core} {t : Fin 4} {ext : ℕ} {by_ : ℤ} (h : c.Tidy) : (Core.incBase t ext by_ c).Tidy := by
  unfold Core.incBase
  exact .mapR h

theorem Ve.Tidy.wake {v : Ve} (h : v.Tidy) : (Ve.wake v).Tidy := .ite (.others h) h

end Sys2Proof.Machine
end

section
/-! PROOFS. What every step keeps: the operations and the instructions of the cores. -/

namespace Sys2Proof.Machine

/-! ### Gates, the acceptance of remote writes, refusals, and the service of tagged slots -/

theorem Spm.Tidy.mapGate {m : Spm} {i : Fin 16} {f : Gate → Gate} (h : m.Tidy) : (Spm.mapGate i f m).Tidy := .others h

theorem Core.Tidy.refuse {c : Core} {off bytes : ℕ} (h : c.Tidy) : (Core.refuse off bytes c).Tidy := by
  unfold Core.refuse
  split
  · exact .ite (.mapSpm h (fun _ h0 => .mapGate h0)) (.post (.mapSpm h (fun _ h0 => .mapGate h0)))
  · exact .ite h (.post (.mapSpm h (fun _ h0 => .others h0)))

theorem Core.Tidy.refuseOtherJob {c : Core} {off : ℕ} (h : c.Tidy) : (Core.refuseOtherJob off c).Tidy :=
  .ite h (.post (.mapSpm h (fun _ h0 => .others h0)))

theorem Core.Tidy.answer {c : Core} {core : CoreId} {id : ℕ} {a : RemoteAnswer} (h : c.Tidy) : (Core.answer core id a c).Tidy := .others h
theorem Spm.Tidy.serve {m : Spm} {x : SlotWait} {data : Payload} (h : m.Tidy) : (Spm.serve m x data).Tidy := .others h
theorem Spm.Tidy.serveFill {m : Spm} {seg : ℕ} (h : m.Tidy) : (Spm.serveFill m seg).Tidy := .others h
theorem Spm.Tidy.park {m : Spm} {x : SlotWait} (h : m.Tidy) : (Spm.park m x).Tidy := .others h
theorem Spm.Tidy.unpark {m : Spm} {who : SlotUser} (h : m.Tidy) : (Spm.unpark m who).Tidy := .others h

theorem Core.Tidy.endWait {c : Core} {e : Env} {t : Fin 4} {x : Exc} (h : c.Tidy) : (Core.endWait e t x c).Tidy :=
  .takeExc (.mapTh (.ite (.setSt h) h))

theorem Core.Tidy.fillRefused {c : Core} {q : Fin 4} {x : Exc} (h : c.Tidy) : (Core.fillRefused q x c).Tidy := by
  unfold Core.fillRefused
  split
  · exact h
  · exact .dqFault (.mapDesc h)

theorem Core.Tidy.refuseWait {c : Core} {e : Env} {x : SlotWait} (h : c.Tidy) : (Core.refuseWait e x c).Tidy := by
  unfold Core.refuseWait
  split
  · exact .endWait h
  · exact .answer (.refuse h)
  · exact .fillRefused h

theorem Core.Tidy.releaseWaits {c : Core} {e : Env} {i : Fin 16} (h : c.Tidy) : (Core.releaseWaits e i c).Tidy :=
  .foldl (.ite (.mapSpm h (fun _ h0 => .others h0)) h) (fun _ _ h0 => .refuseWait h0)

theorem Spm.Tidy.openGate {m : Spm} {i : Fin 16} {g : Gate} (h : m.Tidy) : (Spm.openGate m i g).Tidy :=
  .ite (.others (.mapGate h)) (.mapGate h)

theorem Spm.Tidy.closeGate {m : Spm} {i : Fin 16} {v : ℕ} (h : m.Tidy) : (Spm.closeGate m i v).Tidy := .mapGate h

/-! ### Errors of scratchpad words -/

theorem Core.Tidy.mapScrub {c : Core} {b : Fin 16} {f : Scrubber → Scrubber} (h : c.Tidy) : (Core.mapScrub b f c).Tidy :=
  .mapSpm h (fun _ h0 => .others h0)

theorem Core.Tidy.rowCandidate {c : Core} {k : ℕ} (h : c.Tidy) : (Core.rowCandidate k c).Tidy := .post h
theorem Core.Tidy.corrected {c : Core} {k : ℕ} (h : c.Tidy) : (Core.corrected k c).Tidy := .post (.mapScrub h)
theorem Core.Tidy.lost {c : Core} {k : ℕ} (h : c.Tidy) : (Core.lost k c).Tidy := .rowCandidate (.post (.mapSpm h (fun _ h0 => .others h0)))

theorem Core.Tidy.meetOne {c : Core} {reads : List (ℕ × ℕ)} {f : SpmFinding} (h : c.Tidy) : (Core.meetOne reads f c).Tidy := by
  unfold Core.meetOne
  split
  · exact .ite (.corrected h) h
  · exact .ite (.lost h) h
  · exact h

theorem Core.Tidy.meet {c : Core} {reads : List (ℕ × ℕ)} {fs : List SpmFinding} (h : c.Tidy) : (Core.meet reads fs c).Tidy :=
  .foldl h (fun _ _ h0 => .meetOne h0)

theorem Core.Tidy.unverifiedOne {c : Core} {writes : List (ℕ × ℕ)} {f : SpmFinding} (h : c.Tidy) : (Core.unverifiedOne writes f c).Tidy := by
  unfold Core.unverifiedOne
  split
  · exact .ite (.mapSpm h (fun _ h0 => .others h0)) h
  · exact h

theorem Core.Tidy.unverified {c : Core} {writes : List (ℕ × ℕ)} {fs : List SpmFinding} (h : c.Tidy) : (Core.unverified writes fs c).Tidy :=
  .foldl h (fun _ _ h0 => .unverifiedOne h0)

theorem Core.Tidy.granted {c : Core} {port : SpmPort} {rs : List (ℕ × ℕ)} (h : c.Tidy) : (Core.granted port rs c).Tidy :=
  .foldl h (fun _ _ h0 => .ite (.mapScrub h0) h0)

/-! ### The issue of one instruction -/

theorem Core.Tidy.raise {c : Core} {e : Env} {t : Fin 4} {x : Exc} (h : c.Tidy) : (Core.raise e t x c).Tidy := .takeExc (.issued h)

theorem Core.Tidy.seIssue {c : Core} {e : Env} {t : Fin 4} {found : List SpmFinding} {f : Form} {w : SeWord} {extra : Operands → List Exc}
    {waits : Operands → Bool} {body : Operands → Core → Core} (h : c.Tidy) (hbody : ∀ a b, b.Tidy → (body a b).Tidy) :
    (Core.seIssue e t found f w extra waits body c).Tidy := by
  unfold Core.seIssue
  refine .ite h ?_
  split
  · exact .raise h
  · refine .ite (.raise h) (.ite h ?_)
    extract_lets
    split
    · exact .raise (.granted (.meet h))
    · exact .unverified (hbody _ _ (.issued (.granted (.meet h))))

theorem Core.Tidy.reservedIssue {c : Core} {e : Env} {t : Fin 4} {opc : BitVec 7} (h : c.Tidy) : (Core.reservedIssue e t opc c).Tidy := by
  unfold Core.reservedIssue
  refine .ite h ?_
  split
  · exact .raise h
  · exact .raise h

theorem Core.Tidy.finish {c : Core} {t : Fin 4} {len : BitVec 2} {o : Operands} (h : c.Tidy) : (Core.finish t len o c).Tidy :=
  .advance (.increments h)

theorem Core.Tidy.complete {c : Core} {t : Fin 4} {f : Form} {w : SeWord} (h : c.Tidy) : (Core.complete t f w c).Tidy := .finish (.mapTh h)

theorem State.Answers.seCmd {s₀ s : State} {a : Site} {f : Form} {w : SeWord} {extra : Env → Core → Operands → List Exc}
    {waits : Env → Core → Operands → Bool} {body : Env → Operands → Core → Core} (h : s₀.Keeps s) (hbody : ∀ a b u, u.Tidy → (body a b u).Tidy)
    : s₀.Answers (seCmd a f w extra waits body s) :=
  .onCore h (fun _ _ h0 => .seIssue h0 (fun _ _ h1 => hbody _ _ _ h1))

theorem Core.Tidy.veIssue {c : Core} {e : Env} {t : Fin 4} {opc : VeOpc} {w : VeWord} (h : c.Tidy) : (Core.veIssue e t opc w c).Tidy := by
  unfold Core.veIssue
  refine .ite h ?_
  split
  · exact .raise h
  · exact .raise h
  · refine .ite h ?_
    split
    · exact .raise h
    · exact .advance (.ite (.foldl (.withVe (.issued h) (.wake (.others (Core.Tidy.ve (.issued h))))) (fun _ _ h0 => .track h0))
        (.incBase (.foldl (.withVe (.issued h) (.wake (.others (Core.Tidy.ve (.issued h))))) (fun _ _ h0 => .track h0))))

theorem State.Answers.veCmd {s₀ s : State} {a : Site} {opc : VeOpc} {v : VeWord} (h : s₀.Keeps s) : s₀.Answers (veCmd a opc v s) :=
  .onCore h (fun _ _ h0 => .veIssue h0)

theorem Core.Tidy.meIssue {c : Core} {e : Env} {t : Fin 4} {opc : MeOpc} {w : MeWord} (h : c.Tidy) : (Core.meIssue e t opc w c).Tidy := by
  unfold Core.meIssue
  refine .ite h ?_
  split
  · exact .raise h
  · exact .raise h
  · refine .ite h ?_
    extract_lets
    split
    · exact .raise h
    · exact .advance (.ite (.foldl (.withMe (.issued h) (.others (Core.Tidy.me (.issued h)))) (fun _ _ h0 => .track h0))
        (.incBase (.foldl (.withMe (.issued h) (.others (Core.Tidy.me (.issued h)))) (fun _ _ h0 => .track h0))))

theorem State.Answers.meCmd {s₀ s : State} {a : Site} {opc : MeOpc} {m : MeWord} (h : s₀.Keeps s) : s₀.Answers (meCmd a opc m s) :=
  .onCore h (fun _ _ h0 => .meIssue h0)

/-! ### Fences, release and acquire, engine tokens and the range tracker -/

theorem execLdAcq_answers (a : Site) (hi : Bool) (w : SeWord) (s : State) : s.Answers (execLdAcq a hi w s) :=
  .seCmd (.refl s) (fun _ _ _ h0 => .finish (.writeDest h0))

theorem Core.Tidy.release {c : Core} {t : Fin 4} {hi : Bool} {w : SeWord} {v : ℕ} {found : List SpmFinding} (h : c.Tidy) :
    (Core.release t hi w v found c).Tidy :=
  .complete (.granted (.unverified (.writeDest h)))

theorem execStRel_answers (a : Site) (hi : Bool) (w : SeWord) (s : State) : s.Answers (execStRel a hi w s) :=
  .seCmd (.refl s) (fun _ _ _ h0 => .ite (.release h0) (.mapTh (.trackDest h0)))

theorem execFence_answers (a : Site) (w : SeWord) (s : State) : s.Answers (execFence a w s) :=
  .seCmd (.refl s) (fun _ _ _ h0 => .ite (.finish h0) (.mapTh h0))

theorem Core.Tidy.drainDe {c : Core} {l : List DeEntry} (h : c.Tidy) : (Machine.drainDe l c).Tidy := by
  fun_induction Machine.drainDe l c with
  | case1 => exact .others h
  | case2 _ _ _ ih => exact ih h
  | case3 _ _ _ _ ih => exact ih (.mapDq h)
  | case4 => exact .others h

theorem Core.Tidy.trim {c : Core} (h : c.Tidy) : (Core.trim c).Tidy := .drainDe ⟨h.spm, .others h.ve, .others h.me⟩

theorem Core.Tidy.putToken {c : Core} {eng : BitVec 2} {id : ℕ} (h : c.Tidy) : (Core.putToken eng id c).Tidy := by
  unfold Core.putToken
  split
  · exact .withVe h (.others h.ve)
  · exact .withMe h (.others h.me)
  · exact .others h
  · exact h

theorem Core.Tidy.putWait {c : Core} {eng : BitVec 2} {id : ℕ} {t : Fin 4} (h : c.Tidy) : (Core.putWait eng id t c).Tidy := by
  unfold Core.putWait
  split
  · exact .withVe h (.others h.ve)
  · exact .withMe h (.others h.me)
  · exact .others h
  · exact h

theorem execEtok_answers (a : Site) (w : SeWord) (s : State) : s.Answers (execEtok a w s) :=
  .seCmd (.refl s) (fun _ _ _ h0 => .finish (.trim (.putToken (.mapTh (.others h0)))))

theorem execTokenMarkerPass_answers (core : BitVec 13) (thread : Fin 4) (eng : BitVec 2) (s : State) :
    s.Answers (execTokenMarkerPass core thread eng s) := by
  unfold Machine.execTokenMarkerPass
  refine .onCore (.refl s) (fun _ _ h0 => ?_)
  split
  · exact h0
  · exact .ite (.others h0) h0

theorem execEwait_answers (a : Site) (w : SeWord) (s : State) : s.Answers (execEwait a w s) := by
  unfold Machine.execEwait
  refine .seCmd (.refl s) (fun _ _ _ h0 => ?_)
  extract_lets
  split
  · exact h0
  · exact .ite (.mapTh (.mapTh h0)) (.finish (.putWait (.mapTh h0)))

theorem execWaitMarkerRelease_answers (core : BitVec 13) (thread : Fin 4) (eng : BitVec 2) (s : State) :
    s.Answers (execWaitMarkerRelease core thread eng s) := by
  unfold Machine.execWaitMarkerRelease
  refine .onCore (.refl s) (fun _ _ h0 => ?_)
  split
  · split
    · exact .ite (.complete h0) h0
    · exact h0
  · split
    · exact .ite (.trim (.withVe h0 (.others h0.ve))) h0
    · exact h0
  · split
    · exact .ite (.trim (.withMe h0 (.others h0.me))) h0
    · exact h0
  · split
    · exact .ite (.trim (.others h0)) h0
    · exact h0

theorem execTrackerEntryFree_answers (core : BitVec 13) (idx : ℕ) (s : State) : s.Answers (execTrackerEntryFree core idx s) := by
  unfold Machine.execTrackerEntryFree
  refine .onCore (.refl s) (fun _ _ h0 => ?_)
  split
  · exact .ite (.others h0) h0
  · exact h0

/-! ### Remote reads and writes and tagged-slot instructions at the core that issues them -/

theorem Core.Tidy.depart {c : Core} {e : Env} {who : RemoteUser} {target off : ℕ} {kind : RemoteKind} {gen : Option (BitVec 8)} (h : c.Tidy) :
    (Core.depart e who target off kind gen c).Tidy :=
  .mapSpm h (fun _ h0 => .others h0)

theorem Spm.Tidy.mapRemote {m : Spm} {id : ℕ} {f : Remote → Remote} (h : m.Tidy) : (Spm.mapRemote m id f).Tidy := .others h
theorem Spm.Tidy.endRemote {m : Spm} {id : ℕ} (h : m.Tidy) : (Spm.endRemote m id).Tidy := .others h

theorem Core.Tidy.store {c : Core} {addr : ℕ} {x : Payload} {found : List SpmFinding} (h : c.Tidy) : (Core.store addr x found c).Tidy :=
  .granted (.unverified (.mapSpm h (fun _ h0 => .put h0)))

theorem Core.Tidy.deliver {c : Core} {e : Env} {t : Fin 4} {f : Form} {w : SeWord} {x : Payload} {found : List SpmFinding} (h : c.Tidy) :
    (Core.deliver e t f w x found c).Tidy := by
  unfold Core.deliver
  extract_lets
  split
  · exact .complete (.store h)
  · exact .ite (.endWait h) (.complete (.writeDest h))

theorem execXld_answers (a : Site) (w : SeWord) (s : State) : s.Answers (execXld a w s) :=
  .seCmd (.refl s) (fun _ _ _ h0 => .ite (.deliver (.granted (.meet h0))) (.mapTh (.trackDest (.depart h0))))

theorem Core.Tidy.endXld {c : Core} {e : Env} {t : Fin 4} {w : SeWord} {r : Remote} {a : RemoteAnswer} {found : List SpmFinding} (h : c.Tidy)
    : (Core.endXld e t w r a found c).Tidy := by
  unfold Core.endXld
  extract_lets
  split
  · exact .deliver (.mapSpm h (fun _ h0 => .endRemote h0))
  · exact .endWait (.mapSpm h (fun _ h0 => .endRemote h0))
  · exact .endWait (.mapSpm h (fun _ h0 => .endRemote h0))

theorem execXldResponse_answers (a : Site) (flit : FlitFinding) (s : State) : s.Answers (execXldResponse a s flit) := by
  unfold Machine.execXldResponse
  refine .onCore (.takeResponseFlit (.refl s)) (fun _ _ h0 => ?_)
  split
  · split
    · exact .endXld h0
    · exact h0
  · exact h0

theorem execXst_answers (a : Site) (w : SeWord) (s : State) : s.Answers (execXst a w s) :=
  .seCmd (.refl s) (fun _ _ _ h0 => .ite (.finish (.store h0)) (.finish (.depart h0)))

theorem execXstAck_answers (core : BitVec 13) (id : ℕ) (flit : FlitFinding) (s : State) : s.Answers (execXstAck core id s flit) := by
  unfold Machine.execXstAck
  refine .onCore (.takeResponseFlit (.refl s)) (fun _ _ h0 => ?_)
  split
  · split
    · extract_lets
      split
      · exact .arrive (.mapSpm h0 (fun _ h1 => .endRemote h1))
      · exact .mapSpm h0 (fun _ h1 => .endRemote h1)
    · exact h0
  · exact h0

theorem Core.Tidy.slotStatus {c : Core} {t : Fin 4} {w : SeWord} {notDone : Bool} (h : c.Tidy) : (Core.slotStatus t w notDone c).Tidy :=
  .ite h (.mapR h)

theorem Core.Tidy.endSlot {c : Core} {e : Env} {t : Fin 4} {store : Bool} {w : SeWord} {notDone : Bool} {x : Payload}
    {found : List SpmFinding} (h : c.Tidy) : (Core.endSlot e t store w notDone x found c).Tidy := by
  unfold Core.endSlot
  refine .complete (.slotStatus ?_)
  split
  · exact .ite (.ite (.setSt h) h) (.store (.ite (.setSt h) h))
  · exact .ite (.setSt h) h

theorem Spm.Tidy.moveSlot {m : Spm} {seg : ℕ} {store : Bool} {x : Payload} (h : m.Tidy) : (Spm.moveSlot m seg store x).Tidy := .ite (.put h) h

theorem Core.Tidy.trackLoad {c : Core} {t : Fin 4} {store : Bool} {w : SeWord} (h : c.Tidy) : (Core.trackLoad t store w c).Tidy :=
  .ite h (.trackDest h)

theorem Core.Tidy.localSlot {c : Core} {e : Env} {t : Fin 4} {store : Bool} {seg : ℕ} {w : SeWord} {src : Payload} {deadline : Option ℕ}
    {found : List SpmFinding} (h : c.Tidy) : (Core.localSlot e t store seg w src deadline found c).Tidy := by
  unfold Core.localSlot
  extract_lets x slot c₁ d c₂ c₃
  have h₁ : c₁.Tidy := .ite h (.meet h)
  have h₂ : c₂.Tidy := .mapSpm h₁ fun _ h0 => .others (.moveSlot (.serve h0))
  have h₃ : c₃.Tidy := .granted (.ite (.unverified h₂) h₂)
  exact .ite (.endSlot h₃) (.ite (.setSt (.mapTh (.mapSpm (.trackLoad h) fun _ h0 => .park h0))) (.endSlot h))

theorem Core.Tidy.slotGo {c : Core} {e : Env} {t : Fin 4} {store : Bool} {n : ℕ} {w : SeWord} {src : Payload} {deadline : Option ℕ}
    {found : List SpmFinding} (h : c.Tidy) : (Core.slotGo e t store n w src deadline found c).Tidy :=
  .ite (.localSlot h) (.ite (.setSt (.mapTh (.trackLoad (.depart h)))) (.mapTh (.trackLoad (.depart h))))

theorem State.Answers.slotCmd {s₀ s : State} {store : Bool} {a : Site} {w : SeWord} (h : s₀.Keeps s) : s₀.Answers (slotCmd store a w s) :=
  .seCmd h (fun _ _ _ h0 => .ite (.mapTh h0) (.slotGo h0))

theorem execSld_answers (a : Site) (w : SeWord) (s : State) : s.Answers (execSld a w s) := .slotCmd (.refl s)
theorem execSst_answers (a : Site) (w : SeWord) (s : State) : s.Answers (execSst a w s) := .slotCmd (.refl s)

theorem Core.Tidy.moveDone {c : Core} {e : Env} {p : SlotWait × Payload} {found : List SpmFinding} (h : c.Tidy) :
    (Core.moveDone e p found c).Tidy := by
  unfold Core.moveDone
  extract_lets
  split
  · split
    · exact .endSlot (.ite (.unverified (.mapSpm (.granted (.ite h (.meet h))) (fun _ h0 => .others (.moveSlot h0))))
        (.mapSpm (.granted (.ite h (.meet h))) (fun _ h0 => .others (.moveSlot h0))))
    · exact .ite (.unverified (.mapSpm (.granted (.ite h (.meet h))) (fun _ h0 => .others (.moveSlot h0))))
        (.mapSpm (.granted (.ite h (.meet h))) (fun _ h0 => .others (.moveSlot h0)))
  · exact .answer (.ite (.unverified (.mapSpm (.granted (.ite h (.meet h))) (fun _ h0 => .others (.moveSlot h0))))
      (.mapSpm (.granted (.ite h (.meet h))) (fun _ h0 => .others (.moveSlot h0))))
  · exact .ite (.unverified (.mapSpm (.granted (.ite h (.meet h))) (fun _ h0 => .others (.moveSlot h0))))
      (.mapSpm (.granted (.ite h (.meet h))) (fun _ h0 => .others (.moveSlot h0)))

theorem execTagDataMove_answers (core : BitVec 13) (seg : BitVec 16) (found : List SpmFinding) (s : State) :
    s.Answers (execTagDataMove core seg s found) := by
  unfold Machine.execTagDataMove
  refine .onCore (.refl s) (fun _ _ h0 => ?_)
  split
  · exact .ite h0 (.moveDone h0)
  · exact h0

theorem Core.Tidy.tagTimeout {c : Core} {e : Env} {t : Fin 4} (h : c.Tidy) : (Core.tagTimeout e t c).Tidy := by
  unfold Core.tagTimeout
  split
  · exact .ite (.endWait (.mapSpm h (fun _ h0 => .unpark h0))) h
  · exact .ite (.endWait h) h
  · exact .ite (.mapSpm h (fun _ h0 => .mapRemote h0)) h
  · exact h

theorem execTagTimeout_answers (a : Site) (s : State) : s.Answers (execTagTimeout a s) := by
  unfold Machine.execTagTimeout
  split
  · exact .onCore (.wait (.refl s)) (fun _ _ h0 => .tagTimeout h0)
  · exact .next (.refl s)

theorem Core.Tidy.abandonWait {c : Core} {t : Fin 4} (h : c.Tidy) : (Core.abandonWait t c).Tidy := .mapTh h

theorem Core.Tidy.endRemoteSlot {c : Core} {e : Env} {t : Fin 4} {store : Bool} {w : SeWord} {r : Remote} {a : RemoteAnswer}
    {found : List SpmFinding} (h : c.Tidy) : (Core.endRemoteSlot e t store w r a found c).Tidy := by
  unfold Core.endRemoteSlot
  extract_lets
  split
  · exact .endSlot (.mapSpm h (fun _ h0 => .endRemote h0))
  · exact .endSlot (.mapSpm h (fun _ h0 => .endRemote h0))
  · exact .endSlot (.mapSpm h (fun _ h0 => .endRemote h0))
  · exact .endSlot (.mapSpm h (fun _ h0 => .endRemote h0))
  · exact .endWait (.mapSpm h (fun _ h0 => .endRemote h0))
  · exact .endWait (.mapSpm h (fun _ h0 => .endRemote h0))
  · exact .endWait (.mapSpm h (fun _ h0 => .endRemote h0))
  · exact .ite (.abandonWait (.mapSpm h (fun _ h0 => .endRemote h0))) (.endWait (.mapSpm h (fun _ h0 => .endRemote h0)))
  · exact h

theorem execRemoteTagResponse_answers (a : Site) (flit : FlitFinding) (s : State) : s.Answers (execRemoteTagResponse a s flit) := by
  unfold Machine.execRemoteTagResponse
  refine .onCore (.takeResponseFlit (.refl s)) (fun _ _ h0 => ?_)
  split
  · split
    · exact .endRemoteSlot h0
    · exact h0
  · exact h0

theorem Spm.Tidy.resend {m : Spm} {id : ℕ} (h : m.Tidy) : (Spm.resend m id).Tidy := by
  unfold Spm.resend
  split
  · exact .ite (.others (.endRemote h)) h
  · exact h

theorem execTagRetryResend_answers (a : Site) (s : State) : s.Answers (execTagRetryResend a s) := by
  unfold Machine.execTagRetryResend
  refine .onCore (.refl s) (fun _ _ h0 => ?_)
  split
  · exact .mapSpm h0 (fun _ h1 => .resend h1)
  · exact h0

theorem Core.Tidy.expire {c : Core} {e : Env} {r : Remote} (h : c.Tidy) : (Core.expire e r c).Tidy := by
  unfold Core.expire
  extract_lets
  split
  · exact .arrive (.mapSpm h (fun _ h0 => .mapRemote h0))
  · exact .endWait (.mapSpm h (fun _ h0 => .mapRemote h0))
  · exact .endWait (.mapSpm h (fun _ h0 => .mapRemote h0))
  · exact .setAnswer (.mapSpm (.mapSpm h (fun _ h0 => .mapRemote h0)) (fun _ h0 => .endRemote h0))
  · exact .fillRefused (.mapSpm (.mapSpm h (fun _ h0 => .mapRemote h0)) (fun _ h0 => .endRemote h0))

theorem execRemoteTimeout_answers (core : BitVec 13) (id : ℕ) (s : State) : s.Answers (execRemoteTimeout core id s) := by
  unfold Machine.execRemoteTimeout
  split
  · exact .ite (.onCore (.wait (.refl s)) (fun _ _ h0 => .expire h0)) (.next (.refl s))
  · exact .next (.refl s)

/-! ### Every control and status register of a core -/

theorem Core.Tidy.mapStream {c : Core} {i : Fin 6} {f : Stream → Stream} (h : c.Tidy) : (Core.mapStream i f c).Tidy := .others h

theorem Core.Tidy.csrReadEffect {c : Core} {e : Env} {t : Fin 4} {num : ℕ} (h : c.Tidy) : (csrReadEffect e t num c).Tidy := by
  unfold Machine.csrReadEffect
  refine .ite (.mapR (.others h)) (.ite (.mapR h) (.ite ?_ (.ite (.others h) h)))
  extract_lets
  split
  · exact .mapStream h
  · exact .mapStream h
  · exact h

/-- What a CSRW comes to holds a canonical core. -/
def CsrAct.Tidy : CsrAct → Prop
  | .done c => c.Tidy
  | .stall _ c => c.Tidy
  | _ => True

theorem CsrAct.Tidy.ite {p : Prop} [Decidable p] {x y : CsrAct} (hx : x.Tidy) (hy : y.Tidy) : (if p then x else y).Tidy := either_branch hx hy
theorem Me.Tidy.unlatch {m : Me} {n : Fin 8} (h : m.Tidy) : (Me.unlatch m n).Tidy := .others h

theorem Me.Tidy.clearTile {m : Me} {n : Fin 8} (h : m.Tidy) : (m.clearTile n).Tidy := by
  have hu : (m.unlatch n).Tidy := .unlatch h
  exact ⟨filter_wf _ _ hu.tiles, filter_wf _ _ hu.side⟩

theorem Me.Tidy.reconfigure {m : Me} {n : Fin 8} {g : Tcfg} (h : m.Tidy) : (Me.reconfigure m n g).Tidy := .others (.clearTile h)

theorem CsrAct.Tidy.writeRnctl {c : Core} {n : Fin 8} {mod : BitVec 2} {v : ℕ} (h : c.Tidy) : (Machine.writeRnctl n mod v c).Tidy :=
  .ite trivial (Core.Tidy.others h)

theorem Core.Tidy.setEvents {c : Core} {v : Events} (h : c.Tidy) : (Core.setEvents v c).Tidy := .others h

theorem CsrAct.Tidy.writeGateCtl {c : Core} {e : Env} {i : Fin 16} {w : SeWord} {v : ℕ} (h : c.Tidy) :
    (Machine.writeGateCtl e i w v c).Tidy := by
  have hd : ((c.mapSpm (fun s => s.mapGate i (fun g => { g with closing := true }))).releaseWaits e i).Tidy :=
    .releaseWaits (.mapSpm h fun _ h0 => .mapGate h0)
  exact .ite trivial (.ite (.ite (.ite (.mapSpm h fun _ h0 => .openGate h0) trivial) (.mapSpm h fun _ h0 => .mapGate h0))
    (.ite (.ite h trivial) (.ite (.mapSpm hd fun _ h0 => .closeGate h0) hd)))

theorem CsrAct.Tidy.writeGateReg {c : Core} {i : Fin 16} {limit : Bool} {mod : BitVec 2} {v : ℕ} (h : c.Tidy) :
    (Machine.writeGateReg i limit mod v c).Tidy :=
  .ite h (.ite trivial (.mapSpm h fun _ h0 => .mapGate h0))

theorem CsrAct.Tidy.writeTcfg {c : Core} {n : Fin 8} {w : SeWord} {v : ℕ} (h : c.Tidy) : (Machine.writeTcfg n w v c).Tidy :=
  .ite trivial (.ite trivial (.ite h (.withMe h (.reconfigure h.me))))

theorem CsrAct.Tidy.writeStream {c : Core} {i : Fin 6} {off : ℕ} {w : SeWord} {v : ℕ} (h : c.Tidy) : (Machine.writeStream i off w v c).Tidy :=
  .ite h (.ite h (Core.Tidy.mapStream h))

theorem Core.Tidy.writeThreadCsr {c : Core} {t : Fin 4} {num : ℕ} {mod : BitVec 2} {v : ℕ} (h : c.Tidy) :
    (writeThreadCsr t num mod v c).Tidy := by
  unfold Machine.writeThreadCsr
  extract_lets
  split
  · exact .mapX h
  · exact .mapX h
  · exact .mapX h
  · exact .mapX h
  · exact .mapX h
  · exact .mapX h
  · exact .ite (.mapR h) h
  · exact h
  · exact .ite (.mapR h) (.ite (.mapR h) (.mapR h))

theorem Core.Tidy.writeDeCsr {c : Core} {num : ℕ} {mod : BitVec 2} {v : ℕ} (h : c.Tidy) : (writeDeCsr num mod v c).Tidy :=
  .ite (.ite (.ite (.dqFlush (.mapDq h)) (.ite (.dqResume (.mapDq h)) (.mapDq h))) h)
    (.ite (.others h) (.ite (.others h) (.ite (.others h) h)))

theorem Core.Tidy.settleStreams {c : Core} (h : c.Tidy) : (Core.settleStreams c).Tidy := by
  unfold Core.settleStreams
  refine .foldl h (fun _ _ h0 => ?_)
  split
  · exact .ite h0 (.complete (.mapStream h0))
  · exact h0

theorem CsrAct.Tidy.csrWrite {c : Core} {e : Env} {t : Fin 4} {num : ℕ} {w : SeWord} {v : ℕ} (h : c.Tidy) :
    (Machine.csrWrite e t num w v c).Tidy := by
  have hev : ∀ n, CsrAct.Tidy (.done (c.setEvents n)) := fun _ => Core.Tidy.setEvents h
  unfold Machine.csrWrite
  refine .ite trivial ?_
  refine .ite ?_ ?_
  · exact .ite (Core.Tidy.trace (.others h)) (.ite (Core.Tidy.mapSpm h fun _ h0 => .others h0) h)
  refine .ite (.writeTcfg h) ?_
  refine .ite (Core.Tidy.withVe h (.others h.ve)) ?_
  refine .ite (Core.Tidy.withVe h (.ite (.wake (.others h.ve)) (.others h.ve))) ?_
  refine .ite ?_ ?_
  · dsimp only
    split
    · exact .writeGateReg h
    · exact .writeGateReg h
    · exact .writeGateCtl h
    · exact h
  refine .ite ?_ ?_
  · split
    · exact hev _
    · exact hev _
    · exact hev _
    · exact .ite (.writeRnctl h) h
  refine .ite (Core.Tidy.others h) ?_
  refine .ite ?_ ?_
  · generalize (num - 0x0C8) % 8 = off, Fin.ofNat 6 ((num - 0x0C8) / 8) = i
    exact CsrAct.Tidy.writeStream h
  have hd : (Machine.writeDeCsr num w.mod v c).settleStreams.Tidy := .settleStreams (.writeDeCsr h)
  have ht : (Machine.writeThreadCsr t num w.mod v c).Tidy := .writeThreadCsr h
  refine .ite ?_ ?_
  · exact ht
  · exact hd

theorem Core.Tidy.settleTcfg {c : Core} (h : c.Tidy) : (Core.settleTcfg c).Tidy := by
  unfold Core.settleTcfg
  refine .foldl h (fun _ _ h0 => ?_)
  split
  · exact .ite h0 (.complete (.withMe h0 (.reconfigure h0.me)))
  · exact h0

theorem Core.Tidy.settleGate {c : Core} {i : Fin 16} (h : c.Tidy) : (Core.settleGate i c).Tidy := by
  unfold Core.settleGate
  refine .foldl h (fun _ _ h0 => ?_)
  split
  · exact .ite (.complete (.mapSpm h0 (fun _ h1 => .closeGate h1))) h0
  · exact h0

/-! ### Thread control, runners, events, the deadlock detector, and exceptions as instructions take, return from and deliver them -/

theorem State.Answers.ofMod {s₀ s : State} {k : ℕ} {w : SeWord} {f : State → Out} (h : s₀.Keeps s) (hf : ∀ a, s₀.Keeps a → s₀.Answers (f a)) :
    s₀.Answers (ofMod k w f s) :=
  .ite (hf _ h) (.next h)

theorem execThset_answers (a : Site) (w : SeWord) (s : State) : s.Answers (execThset a w s) :=
  .seCmd (.refl s) (fun _ _ _ h0 => .finish (.mapTh h0))

theorem execThgo_answers (a : Site) (w : SeWord) (s : State) : s.Answers (execThgo a w s) :=
  .ofMod (.refl s) (fun _ h0 => .seCmd h0 (fun _ _ _ h1 => .finish (.setSt h1)))

theorem execThstop_answers (a : Site) (w : SeWord) (s : State) : s.Answers (execThstop a w s) :=
  .ofMod (.refl s) (fun _ h0 => .seCmd h0 (fun _ _ _ h1 => .ite (.finish h1) (.mapTh (.abandon (.mapTh h1)))))

theorem execThstopComplete_answers (core : BitVec 13) (target : Fin 4) (s : State) : s.Answers (execThstopComplete core target s) := by
  unfold Machine.execThstopComplete
  refine .onCore (.refl s) (fun _ _ h0 => ?_)
  split
  · exact .ite (.complete (.mapTh (.ite (.setSt (.flushAll h0)) (.flushAll h0)))) h0
  · exact h0

theorem execThend_answers (a : Site) (w : SeWord) (s : State) : s.Answers (execThend a w s) :=
  .ofMod (.refl s) (fun _ h0 => .seCmd h0 (fun _ _ _ h1 => .setSt (.mapR (.flushLate h1))))

theorem Core.Tidy.setRunner {c : Core} {n : Fin 8} {r : Runner} (h : c.Tidy) : (Core.setRunner n r c).Tidy := .others h
theorem Core.Tidy.waitOn {c : Core} {e : Env} {t : Fin 4} {st : Stall} (h : c.Tidy) : (Core.waitOn e t st c).Tidy := .setSt (.mapTh h)

theorem Core.Tidy.send {c : Core} {e : Env} {t : Fin 4} {n : Fin 8} {ws : List DWord} {w : SeWord} {o : Operands} (h : c.Tidy) :
    (Core.send e t n ws w o c).Tidy :=
  .ite (.finish (.setRunner h)) (.waitOn (.setRunner h))

theorem Core.Tidy.sendRel {c : Core} {e : Env} {t : Fin 4} {n : Fin 8} {ws : List DWord} {w : SeWord} {o : Operands} (h : c.Tidy) :
    (Core.sendRel e t n ws w o c).Tidy :=
  .ite (.send h) (.mapTh h)

theorem execRsend_answers (a : Site) (w : SeWord) (s : State) : s.Answers (execRsend a w s) :=
  .ofMod (.refl s) (fun _ h0 => .seCmd h0 (fun _ _ _ h1 => .sendRel h1))

theorem execRsend4_answers (a : Site) (w : SeWord) (s : State) : s.Answers (execRsend4 a w s) :=
  .ofMod (.refl s) (fun _ h0 => .seCmd h0 (fun _ _ _ h1 => .sendRel h1))

theorem execRrecv_answers (a : Site) (w : SeWord) (s : State) : s.Answers (execRrecv a w s) := by
  unfold Machine.execRrecv
  refine .ofMod (.refl s) (fun _ h0 => .seCmd h0 (fun _ _ _ h1 => ?_))
  extract_lets
  split
  · exact .finish (.writeDest (.setRunner h1))
  · exact .waitOn (.trackDest (.setRunner h1))

theorem Core.Tidy.runnerRecv {c : Core} {e : Env} {n : Fin 8} {found : List SpmFinding} (h : c.Tidy) :
    (Core.runnerRecv e n found c).Tidy := by
  unfold Core.runnerRecv
  extract_lets
  split
  · split
    · exact .complete (.setSt (.granted (.unverified (.writeDest (.setRunner h)))))
    · exact h
  · exact h

theorem Core.Tidy.runnerSend {c : Core} {e : Env} {n : Fin 8} (h : c.Tidy) : (Core.runnerSend e n c).Tidy := by
  unfold Core.runnerSend
  extract_lets
  split
  · split
    · exact .ite (.complete (.setSt (.setRunner h))) h
    · exact h
  · exact h

theorem execRunnerWaitComplete_answers (core : BitVec 13) (runner : Fin 8) (recv : Bool) (found : List SpmFinding) (s : State) :
    s.Answers (execRunnerWaitComplete core runner recv s found) :=
  .onCore (.refl s) (fun _ _ h0 => .ite h0 (.ite (.runnerRecv h0) (.runnerSend h0)))

theorem Core.Tidy.setEvent {c : Core} {v : ℕ} (h : c.Tidy) : (Core.setEvent v c).Tidy := .setEvents h

theorem execSetev_answers (a : Site) (w : SeWord) (s : State) : s.Answers (execSetev a w s) :=
  .ofMod (.refl s) (fun _ h0 => .seCmd h0 (fun _ _ _ h1 => .ite (.finish (.setEvent h1)) (.mapTh h1)))

theorem execWaitev_answers (a : Site) (w : SeWord) (s : State) : s.Answers (execWaitev a w s) :=
  .ofMod (.refl s) (fun _ h0 => .seCmd h0 (fun _ _ _ h1 => .ite (.finish (.setEvents h1)) (.waitOn (.setEvents h1))))

theorem Core.Tidy.eventServe {c : Core} {e : Env} {n : Fin 32} (h : c.Tidy) : (Core.eventServe e n c).Tidy := by
  unfold Core.eventServe
  split
  · split
    · exact .ite (.complete (.setSt (.setEvents h))) h
    · exact h
  · exact h

theorem execEventWaitComplete_answers (core : BitVec 13) (ev : Fin 32) (s : State) : s.Answers (execEventWaitComplete core ev s) :=
  .onCore (.refl s) (fun _ _ h0 => .ite h0 (.eventServe h0))

theorem execClrev_answers (a : Site) (w : SeWord) (s : State) : s.Answers (execClrev a w s) :=
  .ofMod (.refl s) (fun _ h0 => .seCmd h0 (fun _ _ _ h1 => .finish (.setEvents h1)))

theorem Core.Tidy.timerExpiry {c : Core} (h : c.Tidy) : (Core.timerExpiry c).Tidy := .ite (.setEvents h) h

theorem execEventTimerExpiry_answers (core : BitVec 13) (s : State) : s.Answers (execEventTimerExpiry core s) :=
  .ite (.onCore (.wait (.refl s)) (fun _ _ h0 => .timerExpiry h0)) (.next (.refl s))

theorem Core.Tidy.freeze {c : Core} (h : c.Tidy) : (Core.freeze c).Tidy :=
  .post (.others (.ite (.foldl (.others h) (fun _ _ h0 => .ite (.others h0) h0)) (.others h)))

theorem execAllThreadsWaiting_answers (core : BitVec 13) (s : State) : s.Answers (execAllThreadsWaiting core s) :=
  .onCore (.refl s) (fun _ _ h0 => .ite (.freeze h0) h0)

theorem Core.Tidy.eret {c : Core} {e : Env} {t : Fin 4} (h : c.Tidy) : (Core.eret e t c).Tidy := .trace (.mapTh h)

theorem execEret_answers (a : Site) (w : SeWord) (s : State) : s.Answers (execEret a w s) :=
  .ofMod (.refl s) (fun _ h0 => .seCmd h0 (fun _ _ _ h1 => .eret h1))

theorem execBrk_answers (a : Site) (w : SeWord) (s : State) : s.Answers (execBrk a w s) :=
  .ofMod (.refl s) (fun _ h0 => .seCmd h0 (fun _ _ _ h1 => .finish (.debugStop h1)))

theorem Core.Tidy.deliverExc {c : Core} {e : Env} {t : Fin 4} (h : c.Tidy) : (Core.deliverExc e t c).Tidy := by
  unfold Core.deliverExc
  extract_lets
  split
  · exact h
  · refine .ite (.takeExc (.mapTh h)) ?_
    split
    · exact .mapX (.mapTh (.mapTh h))
    · exact .faultStop (.mapX (.mapTh (.flushLate (.mapTh h))))

theorem execImpreciseExcDelivery_answers (a : Site) (s : State) : s.Answers (execImpreciseExcDelivery a s) :=
  .onCore (.refl s) (fun _ _ h0 => .ite (.deliverExc h0) h0)

theorem execBreakpointMatch_answers (a : Site) (s : State) : s.Answers (execBreakpointMatch a s) :=
  .onCore (.refl s) (fun _ _ h0 => .ite (.debugStop (.bpTrace h0)) h0)

theorem execSingleStep_answers (a : Site) (s : State) : s.Answers (execSingleStep a s) :=
  .onCore (.refl s) (fun _ _ h0 => .ite (.debugStop h0) h0)

/-! ### The end of the waits of fences and releases -/

theorem Core.Tidy.storeGo {c : Core} {e : Env} {t : Fin 4} {n : ℕ} {src : Payload} {w : SeWord} {deadline : Option ℕ}
    {found : List SpmFinding} (h : c.Tidy) : (Core.storeGo e t n src w deadline found c).Tidy :=
  .ite (.endWait h) (.ite h (.slotGo (.mapTh (.bump h))))

theorem Core.Tidy.endFence {c : Core} {e : Env} {t : Fin 4} {found : List SpmFinding} (h : c.Tidy) : (Core.endFence e t found c).Tidy := by
  unfold Core.endFence
  extract_lets
  split
  · exact .ite (.complete h) h
  · exact .ite (.release h) h
  · exact .ite (.send (.mapTh h)) h
  · exact .ite (.complete (.setEvent h)) h
  · exact .ite (.storeGo h) h
  · exact h

theorem execFenceComplete_answers (a : Site) (s : State) : s.Answers (execFenceComplete a s) :=
  .onCore (.refl s) (fun _ _ h0 => .ite h0 (.endFence h0))

/-! ### DENQ and the work of the DMA queues -/

theorem execDenq_answers (a : Site) (w : SeWord) (s : State) : s.Answers (execDenq a w s) :=
  .seCmd (.refl s) (fun _ _ _ h0 => .ite (.takeExc h0) (.finish (.trim (.others (.foldl h0 (fun _ _ h1 => .track h1))))))

theorem Core.Tidy.sendLink {c : Core} {l : LinkAsk} (h : c.Tidy) : (Core.sendLink l c).Tidy := .others h

theorem Core.Tidy.mergeRead {c : Core} {q : Fin 4} {r : DescRun} {x : ℕ × ℕ} {m : ModuleId} {pkg : Bool} {a : ℕ} {y : Core × ℕ × ℕ}
    (h : c.Tidy) (hy : c.mergeRead q r x m pkg a = some y) : y.1.Tidy := by
  unfold Core.mergeRead at hy
  split at hy
  · dsimp only at hy
    split at hy
    · cases hy
      exact .others h
    · cases hy
  · cases hy

theorem Core.Tidy.ask {c : Core} {e : Env} {q : Fin 4} {r : DescRun} {x : ℕ × ℕ} (h : c.Tidy) : (Core.ask e q r x c).1.Tidy := by
  have hb : c.bump.Tidy := .bump h
  unfold Core.ask
  extract_lets
  split
  · exact .depart hb
  · extract_lets
    split
    next hy => exact hb.mergeRead hy
    next => exact .sendLink hb
  · exact hb

theorem Core.Tidy.askAll {c : Core} {e : Env} {q : Fin 4} {r : DescRun} {xs : List (ℕ × ℕ)} (h : c.Tidy) :
    (Core.askAll e q r xs c).1.Tidy := by
  induction xs generalizing c with
  | nil => exact h
  | cons x xs ih => exact ih (.ask h)

theorem Core.Tidy.dqEcc {c : Core} {q : Fin 4} {i : ℕ} {opid : BitVec 4} {addr : ℕ} (h : c.Tidy) : (Core.dqEcc q i opid addr c).Tidy :=
  .dqFault h

theorem Core.Tidy.issueOne {c : Core} {e : Env} {q : Fin 4} {i : ℕ} {found : List SpmFinding} {r : DescRun} (h : c.Tidy) :
    (Core.issueOne e q i found r c).Tidy := by
  unfold Core.issueOne
  refine .ite (.mapDesc h) ?_
  extract_lets
  split
  · exact .ite (.dqEcc (.meet h)) (.dqDescriptor (.meet h))
  · extract_lets
    split
    · exact .dqDescriptor (.meet h)
    · exact .dqDescriptor (.meet h)
    · exact .ite (.meet h) (.mapDesc (.askAll (.meet h)))

theorem Core.Tidy.issueSome {c : Core} {e : Env} {q : Fin 4} {i : ℕ} {found : List SpmFinding} {n : ℕ} (h : c.Tidy) :
    (Core.issueSome e q i found n c).Tidy := by
  induction n generalizing c with
  | zero => exact h
  | succ n ih =>
    unfold Core.issueSome
    split
    · exact .ite h (ih (.issueOne h))
    · exact h

theorem Core.Tidy.descriptorStart {c : Core} {e : Env} {q : Fin 4} {found : List SpmFinding} (h : c.Tidy) :
    (Core.descriptorStart e q found c).Tidy := by
  unfold Core.descriptorStart
  refine .ite h ?_
  split
  · exact h
  · refine .ite (.issueSome h) ?_
    split
    · exact .dqDescriptor h
    · exact .issueSome (.mapDesc h)

theorem execDescriptorStart_answers (core : BitVec 13) (q : Fin 4) (found : List SpmFinding) (s : State) :
    s.Answers (execDescriptorStart core q s found) :=
  .onCore (.refl s) (fun _ _ h0 => .descriptorStart (.settleStreams h0))

theorem Core.Tidy.chainRead {c : Core} {q : Fin 4} {found : List SpmFinding} (h : c.Tidy) : (Core.chainRead q found c).Tidy := by
  unfold Core.chainRead
  refine .ite h ?_
  split
  · exact h
  · split
    · exact h
    · exact .ite (.dqEcc (.mapDq (.meet h))) (.mapDq (.meet h))

theorem execDescriptorChainRead_answers (core : BitVec 13) (q : Fin 4) (found : List SpmFinding) (s : State) :
    s.Answers (execDescriptorChainRead core q s found) :=
  .onCore (.refl s) (fun _ _ h0 => .chainRead h0)

theorem Core.Tidy.dropGran {c : Core} {q : Fin 4} {i j : ℕ} (h : c.Tidy) : (Core.dropGran q i j c).Tidy :=
  .settleStreams (.mapDq (.mapDesc h))

theorem Core.Tidy.dropWritten {c : Core} {q : Fin 4} {i : ℕ} {key : Option ℕ} (h : c.Tidy) : (Core.dropWritten q i key c).Tidy :=
  .settleStreams (.mapDq (.mapDesc h))

theorem Core.Tidy.granFault {c : Core} {q : Fin 4} {i : ℕ} {opid : BitVec 4} {addr : ℕ} {o : GranuleOutcome} (h : c.Tidy) :
    (Core.granFault q i opid addr o c).Tidy := by
  unfold Core.granFault
  extract_lets
  split
  · exact h
  · exact .dqFault h
  · exact .dqDescriptor h
  · exact .dqFault h
  · exact .dqEcc h
  · exact .ite (.dqFault h) (.dqDescriptor h)
  · exact .dqFault h

theorem Core.Tidy.writeOwn {c : Core} {q : Fin 4} {i j : ℕ} {r : DescRun} {off : ℕ} {x : Payload} {found : List SpmFinding} (h : c.Tidy) :
    (Core.writeOwn q i j r off x found c).Tidy := by
  unfold Core.writeOwn
  extract_lets
  split
  · exact .ite (.dqEcc (.dropGran (.ite (.mapDesc (.granted (.ite (.meet h) h))) (.granted (.ite (.meet h) h)))))
      (.dropGran (.unverified (.mapSpm (.ite (.mapDesc (.granted (.ite (.meet h) h))) (.granted (.ite (.meet h) h)))
      (fun _ h0 => .write h0))))
  · exact .dropGran (.unverified (.mapSpm (.ite (.mapDesc (.granted (.ite (.meet h) h))) (.granted (.ite (.meet h) h)))
      (fun _ h0 => .put h0)))

theorem Core.Tidy.writeAway {c : Core} {e : Env} {q : Fin 4} {i j : ℕ} {r : DescRun} {core : CoreId} {off dst : ℕ} {x : Payload} (h : c.Tidy)
    : (Core.writeAway e q i j r core off dst x c).Tidy :=
  .mapDesc (.depart (.bump h))

theorem Core.Tidy.holdData {c : Core} {q : Fin 4} {i j : ℕ} {x : Payload} (h : c.Tidy) : (Core.holdData q i j x c).Tidy := .mapDesc h

theorem Core.Tidy.lineAway {c : Core} {e : Env} {q : Fin 4} {i : ℕ} {r : DescRun} {x : ℕ × List Granule} (h : c.Tidy) :
    (Core.lineAway e q i r x c).Tidy := by
  unfold Core.lineAway
  split
  · exact h
  · split
    · exact .mapDesc (.sendLink (.bump h))
    · exact h

theorem State.Keeps.landed {s₀ s : State} {id : CoreId} {q : Fin 4} {i j : ℕ} {r : DescRun} {g : Granule} {x : Payload}
    {found : List SpmFinding} (h : s₀.Keeps s) : s₀.Keeps (s.landed id q i j r g x found) := by
  unfold State.landed
  refine .ite (.onCore h (fun _ _ h0 => .dqEcc (.dropGran h0))) ?_
  extract_lets
  split
  · exact .onCore h (fun _ _ h0 => .writeOwn (.ite (.mapDesc (.flag (.mapStream (.ite (.dqEcc h0) h0)))) (.ite (.dqEcc h0) h0)))
  · exact .onCore h (fun _ _ h0 => .writeAway (.ite (.mapDesc (.flag (.mapStream (.ite (.dqEcc h0) h0)))) (.ite (.dqEcc h0) h0)))
  · exact .onCore h (fun _ _ h0 => .holdData (.ite (.mapDesc (.flag (.mapStream (.ite (.dqEcc h0) h0)))) (.ite (.dqEcc h0) h0)))
  · exact .onCore h (fun _ _ h0 => .holdData (.ite (.mapDesc (.flag (.mapStream (.ite (.dqEcc h0) h0)))) (.ite (.dqEcc h0) h0)))
  · refine .onCore h (fun _ _ h0 => ?_)
    extract_lets
    split
    · exact .lineAway (.holdData (.ite (.mapDesc (.flag (.mapStream (.ite (.dqEcc h0) h0)))) (.ite (.dqEcc h0) h0)))
    · exact .holdData (.ite (.mapDesc (.flag (.mapStream (.ite (.dqEcc h0) h0)))) (.ite (.dqEcc h0) h0))
  · exact .onCore h (fun _ _ h0 => .dqDescriptor (.dropGran h0))

theorem State.Keeps.meetSources {s₀ s : State} {id : CoreId} {r : DescRun} {g : Granule} {found : List SpmFinding} {ext : HbmFinding}
    (h : s₀.Keeps s) : s₀.Keeps (s.meetSources id r g found ext) := by
  unfold State.meetSources
  refine .ite ?_ (.onCore ?_ (fun _ _ h0 => .granted (.meet h0)))
  · split
    · exact .hbmMeet h
    · exact h
  · split
    · exact .hbmMeet h
    · exact h

theorem State.Keeps.granuleLost {s₀ s t : State} {id : CoreId} {r : DescRun} {write : Bool} {p : Part} {f : FlitFinding} {o : GranuleOutcome}
    {b : Bool} (h : s₀.Keeps s) (ht : s.granuleLost id r write p f = some (t, o, b)) : s₀.Keeps t := by
  unfold State.granuleLost at ht
  split at ht
  · dsimp only at ht
    split at ht
    · split at ht
      · cases ht; exact .flitLost h
      · cases ht
    · split at ht
      · cases ht; exact .flitLost h
      · split at ht
        · cases ht; exact .flitLost h
        · cases ht
    · cases ht
  · cases ht

theorem State.Keeps.granuleWords {s₀ s : State} {id : CoreId} {r : DescRun} {g : Granule} {f : FlitFinding} {x : Payload} (h : s₀.Keeps s) :
    s₀.Keeps (s.granuleWords id r g f x).1 := by
  unfold State.granuleWords
  split
  · split
    · exact h
    · exact .flitWords h
  · exact h

theorem State.Keeps.hbmMeetPart {s₀ s : State} {a n : ℕ} {f : HbmFinding} (h : s₀.Keeps s) : s₀.Keeps (s.hbmMeetPart a n f) :=
  .ite h (.hbmMeet h)

theorem State.Keeps.extWrite {s₀ s : State} {id : CoreId} {q : Fin 4} {i j : ℕ} {r : DescRun} {a : ℕ} {z : Payload} {ext : HbmFinding}
    (h : s₀.Keeps s) : s₀.Keeps (s.extWrite id q i j r a z ext) := by
  unfold State.extWrite
  extract_lets
  split
  · exact .ite (.onCore (.ite (.hbmMeet h) (.hbmMeetPart h)) (fun _ _ h0 => .dqEcc (.dropGran h0)))
      (.onCore (.hbmWrite (.ite (.hbmMeet h) (.hbmMeetPart h))) (fun _ _ h0 => .dropGran (.ite (.mapDesc h0) h0)))
  · exact .onCore (.hbmWrite (.ite (.hbmMeet h) (.hbmMeetPart h))) (fun _ _ h0 => .dropGran (.ite (.mapDesc h0) h0))

theorem State.Keeps.extStep {s₀ s : State} {id : CoreId} {q : Fin 4} {x : ℕ × ℕ × DescRun × Granule × ℕ} {ext : HbmFinding}
    {flit : FlitFinding} (h : s₀.Keeps s) : s₀.Keeps (s.extStep id q x ext flit) := by
  unfold State.extStep
  dsimp only
  split
  next hl => exact .onCore (h.granuleLost hl) fun _ _ h0 => .dropGran (.granFault h0)
  next hl => exact .extWrite (.onCore (h.granuleLost hl) fun _ _ h0 => .granFault h0)
  next =>
    split
    · exact .extWrite (.flitWords h)
    · exact .extWrite h

theorem Core.Tidy.takeGrans {c : Core} (h : c.Tidy) : (Core.takeGrans c).Tidy := by
  unfold Core.takeGrans
  refine .foldl h (fun _ _ h0 => ?_)
  split
  · exact .ite (.setAnswer (.mapSpm h0 (fun _ h1 => .endRemote h1))) h0
  · exact h0

theorem State.Keeps.granuleResponse {s₀ s : State} {id : CoreId} {q : Fin 4} {found : List SpmFinding} {ext : HbmFinding} {flit : FlitFinding}
    (h : s₀.Keeps s) : s₀.Keeps (s.granuleResponse id q found ext flit) := by
  have ht : s₀.Keeps (s.onCore id fun _ c => c.takeGrans) := .onCore h fun _ _ h0 => .takeGrans h0
  unfold State.granuleResponse
  extract_lets t c
  have ht : s₀.Keeps t := ht
  split
  · extract_lets
    split
    next hl =>
      obtain ⟨p, -, hl⟩ := Option.bind_eq_some_iff.mp hl
      exact .onCore (ht.granuleLost hl) fun _ _ h0 => .dropWritten (.granFault h0)
    next => exact .onCore ht fun _ _ h0 => .dropWritten (.granFault h0)
  split
  · exact .onCore ht fun _ _ h0 => .lineAway h0
  split
  · exact .extStep ht
  split
  · exact ht
  extract_lets
  split
  · exact .onCore ht fun _ _ h0 => .dropGran (.granFault h0)
  next hl =>
    obtain ⟨p, -, hl⟩ := List.exists_of_findSome?_eq_some hl
    obtain ⟨y, hy, hl⟩ := Option.map_eq_some_iff.mp hl
    cases hl
    exact .onCore (ht.granuleLost hy) fun _ _ h0 => .dropGran (.granFault h0)
  · exact .landed (.granuleWords (.meetSources ht))

theorem execDmaGranuleResponse_answers (core : BitVec 13) (q : Fin 4) (found : List SpmFinding) (ext : HbmFinding) (flit : FlitFinding)
    (s : State) : s.Answers (execDmaGranuleResponse core q found s ext flit) :=
  .next (.ite (.granuleResponse (.refl s)) (.refl s))

theorem Core.Tidy.descCount {c : Core} {e : Env} {q : Fin 4} (h : c.Tidy) : (Core.descCount e q c).Tidy := .trace (.mapDq h)
theorem Core.Tidy.descGone {c : Core} {q : Fin 4} {i : ℕ} (h : c.Tidy) : (Core.descGone q i c).Tidy := .settleStreams (.mapDq h)

theorem Core.Tidy.descComplete {c : Core} {e : Env} {q : Fin 4} {i : ℕ} {r : DescRun} (h : c.Tidy) : (Core.descComplete e q i r c).Tidy := by
  unfold Core.descComplete
  extract_lets
  split
  · exact .descGone (.setEvents (.descCount h))
  · exact .ite (.ite (.dqFault (.descCount h)) (.ite (.descGone (.mapSpm (.descCount h) (fun _ h0 => .serveFill h0)))
      (.settleStreams (.mapDesc (.mapSpm (.descCount h) (fun _ h0 => .park h0))))))
      (.settleStreams (.mapDesc (.depart (.bump (.descCount h)))))
  · exact .descGone (.descCount h)

theorem State.Keeps.codeLoaded {s₀ s : State} {base n : ℕ} (h : s₀.Keeps s) : s₀.Keeps (s.codeLoaded base n) := .others h

theorem State.Keeps.loadCodes {s₀ s : State} {id : CoreId} {q : Fin 4} (h : s₀.Keeps s) : s₀.Keeps (s.loadCodes id q) :=
  .ite h (.onCore (.foldl h (fun _ _ h0 => .codeLoaded h0)) (fun _ _ h0 => .mapDq h0))

theorem execDescriptorComplete_answers (core : BitVec 13) (q : Fin 4) (s : State) : s.Answers (execDescriptorComplete core q s) := by
  unfold Machine.execDescriptorComplete
  refine .ite (.next (.refl s)) ?_
  extract_lets
  split
  · exact .next (.loadCodes (.refl s))
  · exact .ite (.next (.loadCodes (.refl s))) (.onCore (.loadCodes (.refl s)) (fun _ _ h0 => .descComplete h0))

theorem Core.Tidy.slotFill {c : Core} {q : Fin 4} (h : c.Tidy) : (Core.slotFill q c).Tidy := by
  unfold Core.slotFill
  split
  · exact h
  · dsimp only
    have he : ∀ n, (c.mapSpm (fun m => m.endRemote n)).Tidy := fun n => .mapSpm h fun _ h0 => .endRemote h0
    split
    · exact .ite (.descGone (.mapDesc (.mapSpm h fun _ h0 => .unpark (.serveFill h0)))) h
    · split
      · exact .mapSpm h fun _ h0 => .resend h0
      · exact .fillRefused (he _)
      · exact .fillRefused (he _)
      · exact .dqDescriptor (.mapDesc (he _))
      · exact .descGone (.mapDesc (he _))
      · exact h
    · exact h

theorem execDmaSlotFill_answers (core : BitVec 13) (q : Fin 4) (s : State) : s.Answers (execDmaSlotFill core q s) :=
  .onCore (.refl s) (fun _ _ h0 => .slotFill h0)

/-! ### What a core does with the accesses of other cores that arrive at its inbound port, and the service of accesses that wait on its slots -/

theorem State.Keeps.reply {s₀ s : State} {source : CoreId} {id : ℕ} {a : RemoteAnswer} (h : s₀.Keeps s) : s₀.Keeps (s.reply source id a) :=
  .deliverAnswer h

theorem State.Keeps.parkSource {s₀ s : State} {source : CoreId} {id : ℕ} (h : s₀.Keeps s) : s₀.Keeps (s.parkSource source id) :=
  .setCore h (fun hs => .mapSpm (h.core _ hs) (fun _ h0 => .mapRemote h0))

theorem State.Keeps.turnedAway {s₀ s t : State} {target source : CoreId} {r : Remote} (h : s₀.Keeps s)
    (ht : s.turnedAway target source r = some t) : s₀.Keeps t := by
  unfold State.turnedAway at ht
  split at ht
  · cases ht; exact .reply h
  split at ht
  · cases ht; exact .reply h
  split at ht
  · cases ht; exact .reply (.onCore h fun _ _ h0 => .refuseOtherJob h0)
  · cases ht

theorem State.Keeps.gateRefuse {s₀ s : State} {target source : CoreId} {r : Remote} {bytes : ℕ} (h : s₀.Keeps s) :
    s₀.Keeps (s.gateRefuse target source r bytes) :=
  .reply (.onCore h (fun _ _ h0 => .refuse h0))

theorem State.Goes.arrival {s₀ s : State} {target source : CoreId} {f : FlitFinding} (h : s₀.Keeps s) : s₀.Goes
    (s.arrival target source f) := by
  unfold State.arrival
  split
  · exact h
  · exact .takeRequestFlit h

theorem execRemoteReadArrival_answers (target source : BitVec 13) (s : State) (found : List SpmFinding) (flit : FlitFinding) :
    s.Answers (execRemoteReadArrival target source s found flit) := by
  have ha : s.Goes (s.arrival target source flit) := .arrival (.refl s)
  unfold execRemoteReadArrival
  split
  next heq => rw [heq] at ha; exact .next ha
  next t r heq =>
    rw [heq] at ha
    have ht : s.Keeps t := ha
    split
    · split
      next hu => exact .next (ht.turnedAway hu)
      next => exact .next (.reply (.onCore ht fun _ _ h0 => .granted (.meet h0)))
    · exact .next ht

theorem execRemoteWriteArrival_answers (target source : BitVec 13) (s : State) (found : List SpmFinding) (flit : FlitFinding) :
    s.Answers (execRemoteWriteArrival target source s found flit) := by
  have ha : s.Goes (s.arrival target source flit) := .arrival (.refl s)
  unfold execRemoteWriteArrival
  split
  next heq => rw [heq] at ha; exact .next ha
  next t r heq =>
    rw [heq] at ha
    have ht : s.Keeps t := ha
    extract_lets t
    split
    · split
      next hu => exact .next (ht.turnedAway hu)
      next =>
        exact .ite (.next (.reply (.onCore ht fun _ _ h0 => .granted (.unverified (.mapSpm h0 fun _ h1 => .put h1)))))
          (.next (.gateRefuse ht))
    · split
      next hu => exact .next (ht.turnedAway hu)
      next =>
        extract_lets u ty
        have hu : s.Keeps u := .onCore ht fun _ _ h0 => .granted (.meet h0)
        exact .ite (.next (.gateRefuse ht)) (.ite (.next (.reply hu))
          (.next (.reply (.onCore hu fun _ _ h0 => .unverified (.mapSpm h0 fun _ h1 => .write h1)))))
    · exact .next ht

theorem State.Keeps.tagArrive {s₀ s : State} {target source : CoreId} {r : Remote} {store blocking : Bool} {x : Payload} (h : s₀.Keeps s) :
    s₀.Keeps (s.tagArrive target source r store blocking x) := by
  have serve : ∀ f : Spm → Spm, (∀ m, m.Tidy → (f m).Tidy) → s₀.Keeps (s.onCore target fun _ c => c.mapSpm f) :=
    fun _ hf => .onCore h fun _ _ h0 => .mapSpm h0 hf
  refine .ite (.ite (.reply (serve _ fun _ h1 => .serveFill h1)) (.parkSource (serve _ fun _ h1 => .serve h1)))
    (.ite (.ite (.setCore h fun hs => ?_) (.reply h)) (.ite (.parkSource (serve _ fun _ h1 => .park h1)) (.reply h)))
  exact .mapSpm (h.core _ hs) fun _ h0 => .mapRemote h0

theorem execRemoteTagArrival_answers (target source : BitVec 13) (s : State) (flit : FlitFinding) :
    s.Answers (execRemoteTagArrival target source s flit) := by
  have ha : s.Goes (s.arrival target source flit) := .arrival (.refl s)
  unfold execRemoteTagArrival
  split
  next heq => rw [heq] at ha; exact .next ha
  next t r heq =>
    rw [heq] at ha
    have ht : s.Keeps t := ha
    split
    · exact .next ht
    · split
      next hu => exact .next (ht.turnedAway hu)
      next => exact .ite (.next (.tagArrive ht)) (.next (.gateRefuse ht))

theorem execWithdrawalArrival_answers (target source : BitVec 13) (s : State) (flit : FlitFinding) :
    s.Answers (execWithdrawalArrival target source s flit) := by
  unfold execWithdrawalArrival
  extract_lets
  split
  · exact .next (.refl s)
  next r _ =>
    have ha : s.Goes (s.takeRequestFlit target source flit r) := .takeRequestFlit (.refl s)
    split
    next heq => rw [heq] at ha; exact .next ha
    next t _ heq =>
      rw [heq] at ha
      have ht : s.Keeps t := ha
      exact .next (.reply (.onCore ht fun _ _ h0 => .mapSpm h0 fun _ h1 => .unpark h1))

theorem Core.Tidy.serveWait {c : Core} {seg : ℕ} (h : c.Tidy) : (Core.serveWait seg c).Tidy := by
  unfold Core.serveWait
  refine .ite h ?_
  split
  · exact h
  · split
    · exact .slotFill h
    · exact .mapSpm h (fun _ h0 => .unpark (.serve h0))
    · split
      · exact .mapTh (.mapSpm h (fun _ h0 => .unpark (.serve h0)))
      · exact h

theorem execTagWaitComplete_answers (core : BitVec 13) (seg : BitVec 16) (s : State) : s.Answers (execTagWaitComplete core seg s) :=
  .onCore (.refl s) (fun _ _ h0 => .ite h0 (.serveWait h0))

/-! ### The vector engine -/

theorem Core.Tidy.veApply {c : Core} {t : Fin 4} {x : VeEffect} (h : c.Tidy) : (Core.veApply t x c).Tidy := by
  unfold Core.veApply
  extract_lets v₀ v w d e f g
  have hv : v.Tidy := ⟨applyWrites_wf x.regs c.ve.v h.ve.regs⟩
  have hw : w.Tidy := by
    unfold w
    split
    · exact .others hv
    · exact hv
  have hd : d.Tidy := .withVe h hw
  have he : e.Tidy := .mapSpm hd fun m h0 => ⟨applyWrites_wf x.spm m.mem h0.mem⟩
  have hf : f.Tidy := by
    unfold f
    split
    · exact .others he
    · exact he
  have hg : g.Tidy := .flag hf
  split
  · exact .arrive hg
  · exact hg

theorem execVeInsnStart_answers (core : BitVec 13) (s : State) : s.Answers (execVeInsnStart core s) := by
  unfold Machine.execVeInsnStart
  refine .onCore (.refl s) (fun _ _ h0 => ?_)
  split
  · exact .ite h0 (.trim (.withVe h0 (.others h0.ve)))
  · exact h0

theorem Ve.Tidy.poisonWord {v : Ve} {k : ℕ} (h : v.Tidy) : (Ve.poisonWord v k).Tidy := .ite (.others h) (.ite (.others h) h)
theorem Core.Tidy.veLost {c : Core} {k : ℕ} (h : c.Tidy) : (Core.veLost k c).Tidy := .post (.withVe h (.others (.poisonWord h.ve)))

theorem Core.Tidy.veFind {c : Core} {reads : ℕ → Bool} {fs : List RegFinding} (h : c.Tidy) : (Core.veFind reads fs c).Tidy := by
  unfold Core.veFind
  refine .foldl h (fun _ _ h0 => ?_)
  extract_lets
  split
  · exact .ite (.post h0) h0
  · exact .ite (.veLost h0) h0
  · exact h0

theorem Core.Tidy.veMeet {c : Core} {o : VeOp} {fs : List RegFinding} (h : c.Tidy) : (Core.veMeet o fs c).Tidy := .veFind h

theorem Core.Tidy.veWritten {c : Core} {o : VeOp} {fs : List RegFinding} (h : c.Tidy) : (Core.veWritten o fs c).Tidy := by
  unfold Core.veWritten
  refine .foldl h (fun _ _ h0 => ?_)
  extract_lets
  split
  · exact .ite (.withVe h0 (.poisonWord h0.ve)) h0
  · exact .ite (.veLost h0) h0
  · exact h0

theorem execVeInsnComplete_answers (core : BitVec 13) (found : List SpmFinding) (regs : List RegFinding) (s : State) :
    s.Answers (execVeInsnComplete core s found regs) := by
  unfold Machine.execVeInsnComplete
  refine .onCore (.refl s) (fun _ _ h0 => ?_)
  split
  · exact h0
  · exact .settleStreams (.veWritten (.unverified (.veApply
      (.withVe (.veMeet (.granted (.ite (.meet h0) h0))) (.others (Core.Tidy.ve (.veMeet (.granted (.ite (.meet h0) h0)))))))))

theorem execVeRetention_answers (core : BitVec 13) (s : State) : s.Answers (execVeRetention core s) :=
  .onCore (.refl s) (fun _ _ h0 => .ite (.withVe h0 (.others h0.ve)) h0)

theorem execVeWakeComplete_answers (core : BitVec 13) (s : State) : s.Answers (execVeWakeComplete core s) :=
  .onCore (.refl s) (fun _ _ h0 => .ite (.withVe h0 (.others h0.ve)) h0)

theorem execVld_answers (a : Site) (v : VeWord) (s : State) : s.Answers (execVld a v s) := .veCmd (.refl s)
theorem execVst_answers (a : Site) (v : VeWord) (s : State) : s.Answers (execVst a v s) := .veCmd (.refl s)
theorem execVldsr_answers (a : Site) (v : VeWord) (s : State) : s.Answers (execVldsr a v s) := .veCmd (.refl s)
theorem execVstsr_answers (a : Site) (v : VeWord) (s : State) : s.Answers (execVstsr a v s) := .veCmd (.refl s)
theorem execVlds2_answers (a : Site) (v : VeWord) (s : State) : s.Answers (execVlds2 a v s) := .veCmd (.refl s)
theorem execVlds3_answers (a : Site) (v : VeWord) (s : State) : s.Answers (execVlds3 a v s) := .veCmd (.refl s)
theorem execVlds4_answers (a : Site) (v : VeWord) (s : State) : s.Answers (execVlds4 a v s) := .veCmd (.refl s)
theorem execVsts2_answers (a : Site) (v : VeWord) (s : State) : s.Answers (execVsts2 a v s) := .veCmd (.refl s)
theorem execVsts3_answers (a : Site) (v : VeWord) (s : State) : s.Answers (execVsts3 a v s) := .veCmd (.refl s)
theorem execVsts4_answers (a : Site) (v : VeWord) (s : State) : s.Answers (execVsts4 a v s) := .veCmd (.refl s)
theorem execVmld_answers (a : Site) (v : VeWord) (s : State) : s.Answers (execVmld a v s) := .veCmd (.refl s)
theorem execVmst_answers (a : Site) (v : VeWord) (s : State) : s.Answers (execVmst a v s) := .veCmd (.refl s)
theorem execVbcast_answers (a : Site) (v : VeWord) (s : State) : s.Answers (execVbcast a v s) := .veCmd (.refl s)
theorem execVext_answers (a : Site) (v : VeWord) (s : State) : s.Answers (execVext a v s) := .veCmd (.refl s)
theorem execVmovi_answers (a : Site) (v : VeWord) (s : State) : s.Answers (execVmovi a v s) := .veCmd (.refl s)
theorem execVadd_answers (a : Site) (v : VeWord) (s : State) : s.Answers (execVadd a v s) := .veCmd (.refl s)
theorem execVsub_answers (a : Site) (v : VeWord) (s : State) : s.Answers (execVsub a v s) := .veCmd (.refl s)
theorem execVmul_answers (a : Site) (v : VeWord) (s : State) : s.Answers (execVmul a v s) := .veCmd (.refl s)
theorem execVfma_answers (a : Site) (v : VeWord) (s : State) : s.Answers (execVfma a v s) := .veCmd (.refl s)
theorem execVmin_answers (a : Site) (v : VeWord) (s : State) : s.Answers (execVmin a v s) := .veCmd (.refl s)
theorem execVmax_answers (a : Site) (v : VeWord) (s : State) : s.Answers (execVmax a v s) := .veCmd (.refl s)
theorem execVbit_answers (a : Site) (v : VeWord) (s : State) : s.Answers (execVbit a v s) := .veCmd (.refl s)
theorem execVcmp_answers (a : Site) (v : VeWord) (s : State) : s.Answers (execVcmp a v s) := .veCmd (.refl s)
theorem execVmerge_answers (a : Site) (v : VeWord) (s : State) : s.Answers (execVmerge a v s) := .veCmd (.refl s)
theorem execVslide_answers (a : Site) (v : VeWord) (s : State) : s.Answers (execVslide a v s) := .veCmd (.refl s)
theorem execVred_answers (a : Site) (v : VeWord) (s : State) : s.Answers (execVred a v s) := .veCmd (.refl s)
theorem execVmop_answers (a : Site) (v : VeWord) (s : State) : s.Answers (execVmop a v s) := .veCmd (.refl s)
theorem execVwmul_answers (a : Site) (v : VeWord) (s : State) : s.Answers (execVwmul a v s) := .veCmd (.refl s)
theorem execVdot_answers (a : Site) (v : VeWord) (s : State) : s.Answers (execVdot a v s) := .veCmd (.refl s)
theorem execVcvt_answers (a : Site) (v : VeWord) (s : State) : s.Answers (execVcvt a v s) := .veCmd (.refl s)
theorem execVfdiv_answers (a : Site) (v : VeWord) (s : State) : s.Answers (execVfdiv a v s) := .veCmd (.refl s)
theorem execVfsqrt_answers (a : Site) (v : VeWord) (s : State) : s.Answers (execVfsqrt a v s) := .veCmd (.refl s)

/-! ### The matrix engine -/

theorem Me.Tidy.writeTile {m : Me} {ws : List ElemWrite} (h : m.Tidy) : (m.writeTile ws).Tidy := ⟨applyWrites_wf _ _ h.tiles, h.side⟩
theorem Me.Tidy.writeSide {m : Me} {ws : List ElemWrite} (h : m.Tidy) : (m.writeSide ws).Tidy := ⟨h.tiles, applyWrites_wf _ _ h.side⟩
theorem Me.Tidy.use {m : Me} {n : Fin 8} (h : m.Tidy) : (Me.use m n).Tidy := .others h
theorem Me.Tidy.unplane {m : Me} {n : Fin 8} (h : m.Tidy) : (Me.unplane m n).Tidy := .others h
theorem Me.Tidy.meLoad {m : Me} {s : Spm} {n : Fin 8} {st : MeStream} (h : m.Tidy) : (meLoad m s n st).Tidy := .unplane (.use (.writeTile h))

theorem Me.Tidy.meLoadSide {m : Me} {s : Spm} {n : Fin 8} {st : MeStream} (h : m.Tidy) : (meLoadSide m s n st).Tidy :=
  .unplane (.use (.writeSide (.writeSide h)))

theorem MeOp.tidy_effect {m : Me} {o : MeOp} {v : Ve} {s : Spm} (h : m.Tidy) : (o.effect m v s).me.Tidy := by
  unfold MeOp.effect
  extract_lets st only
  split
  · exact .meLoad h
  · exact h
  · exact .meLoadSide h
  · exact h
  · exact .clearTile h
  · exact .foldl h fun _ _ h0 => .ite (.clearTile h0) h0
  · exact .use (.writeTile h)
  · exact .ite h (.use (.writeTile h))
  · exact h

theorem Core.Tidy.meApply {c : Core} {t : Fin 4} {x : MeEffect} (h : c.Tidy) (hx : x.me.Tidy) : (Core.meApply t x c).Tidy := by
  unfold Core.meApply
  extract_lets m v d e f
  have hd : d.Tidy := ⟨h.spm, ⟨applyWrites_wf x.regs c.ve.v h.ve.regs⟩, .others hx⟩
  have he : e.Tidy := .mapSpm hd fun m h0 => ⟨applyWrites_wf x.spm m.mem h0.mem⟩
  have hf : f.Tidy := .flag he
  split
  · exact .arrive hf
  · exact hf

theorem Me.Tidy.latch {m : Me} {o : MeOp} (h : m.Tidy) : (Me.latch m o).Tidy := by
  unfold Me.latch
  split
  · exact .others h
  · exact .ite (.others h) h
  · exact h

theorem Me.Tidy.start {m : Me} {o : MeOp} {q : List MeEntry} (h : m.Tidy) : (Me.start m o q).Tidy :=
  .ite (.others (.latch (.others h))) (.others (.latch (.others h)))

theorem execMeInsnStart_answers (core : BitVec 13) (s : State) : s.Answers (execMeInsnStart core s) := by
  unfold Machine.execMeInsnStart
  refine .onCore (.refl s) (fun _ _ h0 => ?_)
  split
  · exact .ite h0 (.ite (.withVe h0 (.wake h0.ve)) (.ite h0 (.trim (.withMe h0 (.start h0.me)))))
  · exact h0

theorem Me.Tidy.finish {m : Me} {o : MeOp} (h : m.Tidy) : (Me.finish m o).Tidy := .others (.foldl h (fun _ _ h0 => .unlatch h0))

theorem Core.Tidy.mePoison {c : Core} {p : MePlace} (h : c.Tidy) : (Core.mePoison p c).Tidy := by
  unfold Core.mePoison
  split
  · exact .withMe h (.others h.me)
  · exact .withMe h (.others h.me)
  · exact .withVe h (.poisonWord h.ve)
  · exact .mapSpm h (fun _ h0 => .others h0)

theorem Core.Tidy.meFind {c : Core} {reads : MePlace → Bool} {fs : List RegFinding} (h : c.Tidy) : (Core.meFind reads fs c).Tidy := by
  unfold Core.meFind
  refine .foldl h (fun _ _ h0 => ?_)
  extract_lets
  split
  · exact .ite (.post h0) h0
  · exact .ite (.mePoison h0) h0
  · exact h0

theorem Core.Tidy.meMeet {c : Core} {o : MeOp} {fs : List RegFinding} (h : c.Tidy) : (Core.meMeet o fs c).Tidy := by
  unfold Core.meMeet
  exact .meFind (.meFind h)

theorem Core.Tidy.meWritten {c : Core} {o : MeOp} {fs : List RegFinding} (h : c.Tidy) : (Core.meWritten o fs c).Tidy := by
  unfold Core.meWritten
  refine .foldl h (fun _ _ h0 => ?_)
  extract_lets
  split
  · exact .ite (.mePoison h0) h0
  · exact .ite (.mePoison h0) h0
  · exact .ite (.post (.withMe (.mePoison h0) (.others (Core.Tidy.me (.mePoison h0))))) h0
  · exact h0

theorem execMeRequestAged_answers (core : BitVec 13) (bank : Fin 16) (s : State) : s.Answers (execMeRequestAged core bank s) :=
  .onCore (.refl s) (fun _ _ h0 => .ite (.mapScrub h0) h0)

theorem Core.Tidy.meServed {c : Core} {o : MeOp} (h : c.Tidy) : (Core.meServed o c).Tidy := .foldl h (fun _ _ h0 => .ite (.mapScrub h0) h0)

theorem execMeInsnComplete_answers (core : BitVec 13) (pipe : MePipe) (s : State) (found : List SpmFinding) (regs : List RegFinding) :
    s.Answers (execMeInsnComplete core pipe s found regs) := by
  unfold execMeInsnComplete
  refine .onCore (.refl s) fun _ c h => ?_
  split
  · exact h
  next o _ =>
    extract_lets rd wr d x y m z
    have hd : d.Tidy := .meMeet (.granted (.granted (.granted (.meet (.meServed h)))))
    have hy : y.me.Tidy := MeOp.tidy_effect hd.me
    have hz : z.Tidy := .meApply (.withMe hd (.others hd.me)) hy
    exact .ite h (.settleTcfg (.meWritten (.unverified (.withMe hz (.finish hz.me)))))

theorem execArrayCold_answers (core : BitVec 13) (s : State) : s.Answers (execArrayCold core s) :=
  .onCore (.refl s) (fun _ _ h0 => .withMe h0 (.others h0.me))

theorem execTileBankRetention_answers (core : BitVec 13) (tile : Fin 8) (bank : Fin 5) (s : State) :
    s.Answers (execTileBankRetention core tile bank s) :=
  .onCore (.refl s) (fun _ _ h0 => .ite (.withMe h0 (.others h0.me)) h0)

theorem execTld_answers (a : Site) (m : MeWord) (s : State) : s.Answers (execTld a m s) := .meCmd (.refl s)
theorem execTst_answers (a : Site) (m : MeWord) (s : State) : s.Answers (execTst a m s) := .meCmd (.refl s)
theorem execTlds_answers (a : Site) (m : MeWord) (s : State) : s.Answers (execTlds a m s) := .meCmd (.refl s)
theorem execTsts_answers (a : Site) (m : MeWord) (s : State) : s.Answers (execTsts a m s) := .meCmd (.refl s)
theorem execTzero_answers (a : Site) (m : MeWord) (s : State) : s.Answers (execTzero a m s) := .meCmd (.refl s)
theorem execTrelease_answers (a : Site) (m : MeWord) (s : State) : s.Answers (execTrelease a m s) := .meCmd (.refl s)
theorem execTmma_answers (a : Site) (m : MeWord) (s : State) : s.Answers (execTmma a m s) := .meCmd (.refl s)
theorem execTmmas_answers (a : Site) (m : MeWord) (s : State) : s.Answers (execTmmas a m s) := .meCmd (.refl s)
theorem execGmv_answers (a : Site) (m : MeWord) (s : State) : s.Answers (execGmv a m s) := .meCmd (.refl s)

/-! ### The save record of a core -/

theorem Core.Tidy.recordMeet {c : Core} {spm : List (ℕ × ℕ)} {ve : ℕ → Bool} {me : MePlace → Bool} {x : CoreFindings} (h : c.Tidy) :
    (Core.recordMeet spm ve me x c).Tidy :=
  .meFind (.veFind (.meet h))

theorem State.Keeps.findCores {s₀ s : State} {ids : List CoreId} {fs : List CoreFindings} {f : CoreFindings → Core → Core} (h : s₀.Keeps s)
    (hf : ∀ a b, b.Tidy → (f a b).Tidy) : s₀.Keeps (s.findCores ids fs f) :=
  .foldl h (fun _ _ h0 => .ite (.onCore h0 (fun _ _ h1 => hf _ _ h1)) h0)

theorem Core.Tidy.saveMeet {c : Core} {d : PourDecl} {x : CoreFindings} (h : c.Tidy) : (Core.saveMeet d x c).Tidy := .recordMeet h

theorem Core.tidy_restoreHead (n : Word) (codeSize : Nat) (x : Payload) : (restoreHead n codeSize x).Tidy := by
  unfold restoreHead
  extract_lets vs v w c r₀ r d
  have hc : d.Tidy := .mapTh Core.tidy_reset
  exact ⟨.others hc.spm, .others hc.ve, .others hc.me⟩

theorem Core.Tidy.restoreTiles {c : Core} {x : Payload} {ns : List (Fin 8)} {off : ℕ} (h : c.Tidy) :
    (Machine.restoreTiles x ns off c).1.Tidy := by
  induction ns generalizing c off with
  | nil => exact h
  | cons n ns ih => exact ih (.withMe h ⟨memWriteN_wf _ _ _ h.me.tiles, memWriteN_wf _ _ _ h.me.side⟩)

theorem Core.Tidy.restoreVecs {c : Core} {x : Payload} {vs : List ℕ} {off : ℕ} (h : c.Tidy) : (Machine.restoreVecs x vs off c).1.Tidy := by
  induction vs generalizing c off with
  | nil => exact h
  | cons v vs ih => exact ih (.withVe h ⟨memWriteN_wf _ _ _ h.ve.regs⟩)

theorem Core.Tidy.restoreSpm {c : Core} {x : Payload} {ps : List (Word × Word)} {off : ℕ} (h : c.Tidy) :
    (Machine.restoreSpm x ps off c).Tidy := by
  induction ps generalizing c off with
  | nil => exact h
  | cons p ps ih => exact ih (.mapSpm h fun _ h0 => .put h0)

theorem Core.tidy_restoreCore (d : PourDecl) (n : Word) (codeSize : Nat) (x : Payload) : (restoreCore d n codeSize x).Tidy :=
  .restoreSpm (.restoreVecs (.restoreTiles (tidy_restoreHead n codeSize x)))

theorem State.tidy_restoreFrom {s : State} {d : PourDecl} {n : Word} {codeSize a : Nat} : (s.restoreFrom d n codeSize a).1.Tidy :=
  Core.tidy_restoreCore ..

end Sys2Proof.Machine
end

section
/-! PROOFS. What every step keeps: pours, links, mailboxes and messages. -/

namespace Sys2Proof.Machine

/-! ### Pours -/

theorem State.Keeps.mapFlask {s₀ s : State} {f : Flask → Flask} (h : s₀.Keeps s) : s₀.Keeps (s.mapFlask f) := .others h
theorem State.Keeps.beginBarrier {s₀ s : State} {id : CoreId} (h : s₀.Keeps s) : s₀.Keeps (s.beginBarrier id) := .ite (.mapFlask h) h

theorem execPour_answers (a : Site) (w : SeWord) (s : State) : s.Answers (execPour a w s) := by
  obtain ⟨t, ht, hk⟩ : s.Answers (ofMod 2 w (seCmd a (bareForm w) w (fun e _ _ => if a.thread ≠ 0 ∨ !e.pours then [illegalOp 0] else [])
      noWaits (fun _ _ c => c.mapTh a.thread (fun h => { h with stall := .pour w }))) s) :=
    .ofMod (.refl s) fun _ h => .seCmd h fun _ _ _ h0 => .mapTh h0
  unfold execPour
  rw [ht]
  exact .next (.ite hk (.beginBarrier hk))

theorem Core.Tidy.leavePour {c : Core} {qot rem : ℕ} (h : c.Tidy) : (Core.leavePour qot rem c).Tidy := by
  unfold Core.leavePour
  split
  · exact .others (.complete (.mapR h))
  · exact h

theorem State.Keeps.releasePour {s₀ s : State} {qot rem : ℕ} (h : s₀.Keeps s) : s₀.Keeps (s.releasePour qot rem) :=
  .foldl h (fun _ _ h0 => .ite (.onCore h0 (fun _ _ h1 => .leavePour h1)) h0)

theorem State.Keeps.sendPeer {s₀ s : State} {dest : ModuleId} {kind : PeerKind} {n : Word} (h : s₀.Keeps s) :
    s₀.Keeps (s.sendPeer dest kind n) :=
  .mapFlask h

theorem State.Keeps.ackPeer {s₀ s : State} {p : PeerMsg → Bool} (h : s₀.Keeps s) : s₀.Keeps (s.ackPeer p) := .mapFlask h

theorem State.Keeps.sendAll {s₀ s : State} {kind : PeerKind} {n : Word} (h : s₀.Keeps s) : s₀.Keeps (s.sendAll kind n) :=
  .foldl h (fun _ _ h0 => .sendPeer h0)

theorem execCoreArrive_answers (core : BitVec 13) (s : State) : s.Answers (execCoreArrive core s) := by
  unfold Machine.execCoreArrive
  refine .ite (.next (.refl s)) ?_
  extract_lets
  split
  · exact .ite (.next (.sendPeer (.mapFlask (.setCore (.refl s) (fun hs => .others (State.Keeps.core (.refl s) _ hs))))))
      (.next (.mapFlask (.setCore (.refl s) (fun hs => .others (State.Keeps.core (.refl s) _ hs)))))
  · exact .next (.mapFlask (.setCore (.refl s) (fun hs => .others (State.Keeps.core (.refl s) _ hs))))

theorem execArrived_answers (smod : BitVec 13) (n : BitVec 32) (s : State) : s.Answers (execArrived smod n s) := by
  unfold Machine.execArrived
  split
  · exact .next (.refl s)
  · exact .ite (.next (.refl s)) (.ite (.ite (.next (.sendAll (.mapFlask (.mapFlask (.refl s)))))
      (.next (.sendAll (.mapFlask (.mapFlask (.mapFlask (.refl s))))))) (.next (.mapFlask (.refl s))))

theorem State.Keeps.writeRecords {s₀ s : State} {d : PourDecl} {ids : List CoreId} {a : ℕ} (h : s₀.Keeps s) :
    s₀.Keeps (s.writeRecords d ids a) := by
  induction ids generalizing s a with
  | nil => exact h
  | cons id ids ih => exact ih (.hbmWrite (.ite h (.setCore h fun hs => .withVe (h.core _ hs) (.wake (h.core _ hs).ve))))

theorem execSave_answers (n : BitVec 32) (cores : List CoreFindings) (s : State) : s.Answers (execSave n s cores) := by
  unfold Machine.execSave
  split
  · exact .next (.refl s)
  · exact .ite (.next (.refl s)) (.next (.writeRecords (.mapFlask (.findCores (.ackPeer (.refl s)) (fun _ _ h0 => .saveMeet h0)))))

theorem State.Keeps.remapCore {s₀ s : State} {id : CoreId} (h : s₀.Keeps s) : s₀.Keeps (s.remapCore id) := by
  unfold State.remapCore
  split
  next p d _ _ =>
    have hm : s₀.Keeps (s.moveIndex id p) := .moveIndex h
    extract_lets
    split
    next x _ =>
      refine .setCore hm fun _ => .mapTh ?_
      have hr := State.tidy_restoreFrom (s := s.moveIndex id p) (d := d) (n := (s.moveIndex id p).flask.interval)
        (codeSize := ((s.moveIndex id p).core id).codeSize) (a := x.2)
      exact ⟨.others hr.spm, .others hr.ve, hr.me⟩
    · exact hm
  next => exact .exhausted h

theorem execPourBoundary_answers (s : State) : s.Answers (execPourBoundary s) := by
  unfold Machine.execPourBoundary
  refine .ite (.next (.refl s)) ?_
  extract_lets
  split
  · exact .next (.sendPeer (.ite (.mapFlask (.refl s)) (.rejoin (.foldl (.rejoin (.mapFlask (.refl s))) (fun _ _ h0 => .remapCore h0)))))
  · exact .next (.ite (.mapFlask (.refl s)) (.rejoin (.foldl (.rejoin (.mapFlask (.refl s))) (fun _ _ h0 => .remapCore h0))))

theorem execSaved_answers (smod : BitVec 13) (n : BitVec 32) (s : State) : s.Answers (execSaved smod n s) := by
  unfold Machine.execSaved
  split
  · exact .next (.refl s)
  · exact .ite (.next (.refl s)) (.ite (.next (.sendAll (.mapFlask (.mapFlask (.ackPeer (.refl s))))))
      (.next (.mapFlask (.ackPeer (.refl s)))))

theorem execResume_answers (n : BitVec 32) (s : State) : s.Answers (execResume n s) :=
  .ite (.next (.refl s)) (.next (.releasePour (.mapFlask (.ackPeer (.refl s)))))

theorem execTailComplete_answers (s : State) : s.Answers (execTailComplete s) := by
  unfold Machine.execTailComplete
  refine .ite (.next (.refl s)) ?_
  extract_lets
  split
  · exact .next (.sendPeer (.mapFlask (.refl s)))
  · exact .next (.mapFlask (.refl s))

theorem execReady_answers (smod : BitVec 13) (n : BitVec 32) (s : State) : s.Answers (execReady smod n s) := by
  unfold Machine.execReady
  split
  · exact .next (.refl s)
  · exact .ite (.next (.refl s)) (.ite (.next (.sendAll (.mapFlask (.mapFlask (.ackPeer (.refl s))))))
      (.next (.mapFlask (.ackPeer (.refl s)))))

theorem State.Keeps.runHeld {s₀ s : State} {l : List (ℕ × List Byte)} (h : s₀.Keeps s) : s₀.Keeps (s.runHeld l) := by
  induction l generalizing s with
  | nil => exact .others h
  | cons x xs ih => exact .ite (.others h) (ih (.hbmWrite h))

theorem execCommit_answers (n : BitVec 32) (s : State) : s.Answers (execCommit n s) :=
  .ite (.next (.refl s)) (.ite (.next (.sendPeer (.runHeld (.mapFlask (.ackPeer (.refl s))))))
    (.next (.runHeld (.mapFlask (.ackPeer (.refl s))))))

theorem execPartnerCommit_answers (n : BitVec 32) (s : State) : s.Answers (execPartnerCommit n s) :=
  .ite (.next (.refl s)) (.next (.mapFlask (.refl s)))

theorem execAbandon_answers (n : BitVec 32) (s : State) : s.Answers (execAbandon n s) :=
  .ite (.next (.refl s)) (.next (.releasePour (.mapFlask (.ackPeer (.refl s)))))

theorem execPourBarrierTimeout_answers (s : State) : s.Answers (execPourBarrierTimeout s) := by
  unfold Machine.execPourBarrierTimeout
  split
  · exact .next (.refl s)
  · exact .next (.sendAll (.mapFlask (.wait (.refl s))))

theorem execCoordinatorRepeat_answers (s : State) : s.Answers (execCoordinatorRepeat s) := by
  unfold Machine.execCoordinatorRepeat
  split
  · exact .next (.refl s)
  · exact .next (.mapFlask (.wait (.refl s)))

theorem execCopyBeforeWrite_answers (share : ℕ) (ext : HbmFinding) (s : State) : s.Answers (execCopyBeforeWrite share s ext) :=
  .next (.ite (.copyShare (.refl s)) (.refl s))

theorem State.Keeps.mirrorLine {s₀ s : State} {e : Fin 8} {gen offset : ℕ} {undo : Bool} {x : Payload} (h : s₀.Keeps s) :
    s₀.Keeps (s.mirrorLine e gen offset undo x) :=
  .post h

theorem State.Keeps.mirrorShare {s₀ s : State} {e : Fin 8} {gen share a : ℕ} {undo : Bool} {ext : HbmFinding} (h : s₀.Keeps s) :
    s₀.Keeps (s.mirrorShare e gen share a undo ext) :=
  .mirrorLine (.mirrorLine (.hbmRead h))

theorem State.Keeps.sendContent {s₀ s : State} {e : Fin 8} {gen share : ℕ} {tail : Bool} {ext : HbmFinding} (h : s₀.Keeps s) :
    s₀.Keeps (s.sendContent e gen share tail ext) :=
  .mirrorShare (.mapFlask h)

theorem execMirrorStreamShare_answers (edie : Fin 8) (ext : HbmFinding) (s : State) : s.Answers (execMirrorStreamShare edie s ext) := by
  unfold Machine.execMirrorStreamShare
  extract_lets
  split
  · exact .next (.refl s)
  · refine .ite (.next (.refl s)) ?_
    split
    · exact .next (.ite (.sendContent (.refl s)) (.refl s))
    · split
      · exact .next (.refl s)
      · split
        · exact .next (.sendContent (.refl s))
        · exact .next (.mirrorShare (.mapFlask (.refl s)))

theorem execPourOverdue_answers (job : Fin 8) (s : State) : s.Answers (execPourOverdue job s) :=
  .ite (.next (.log (.mapFlask (.wait (.refl s))))) (.next (.refl s))

theorem execSelfFence_answers (s : State) : s.Answers (execSelfFence s) := by
  unfold Machine.execSelfFence
  split
  · exact .next (.log (.holdCores (.wait (.refl s))))
  · exact .next (.mapFlask (.wait (.refl s)))

theorem execAdoptionStream_answers (share : ℕ) (addr : BitVec 40) (ext : HbmFinding) (s : State) :
    s.Answers (execAdoptionStream share addr s ext) := by
  unfold Machine.execAdoptionStream
  extract_lets
  split
  · exact .next (.refl s)
  · exact .ite (.next (.refl s)) (.ite (.next (.post (.hbmRead (.refl s)))) (.next (.post (.post (.hbmRead (.refl s))))))

/-! ### The arithmetic of clocks and sizing -/

theorem State.Keeps.mapPower {s₀ s : State} {d : Fin 40} {f : DiePower → DiePower} (h : s₀.Keeps s) : s₀.Keeps (s.mapPower d f) := .others h

theorem State.Keeps.samplePhase {s₀ s : State} {d : Fin 40} {phase demand static : ℕ} (h : s₀.Keeps s) :
    s₀.Keeps (s.samplePhase d phase demand static) :=
  .ite h (.mapPower (.ite h (.others h)))

theorem State.Keeps.spread {s₀ s : State} {fixed : ℕ} (h : s₀.Keeps s) : s₀.Keeps (s.spread fixed) := .foldl h (fun _ _ h0 => .mapPower h0)
theorem State.Keeps.powerBit {s₀ s : State} {k : ℕ} (h : s₀.Keeps s) : s₀.Keeps (s.powerBit k) := .others h

theorem State.Keeps.breach {s₀ s : State} {cause : BitVec 2} (h : s₀.Keeps s) : s₀.Keeps (s.breach cause) := by
  unfold State.breach
  exact .log (.powerBit (.safetyAction (.others h)))

theorem State.Keeps.thermalShutdown {s₀ s : State} {d : Fin 40} {tj : Byte} (h : s₀.Keeps s) : s₀.Keeps (s.thermalShutdown d tj) :=
  .ite h (.log (.foldl (.others h) (fun _ _ h0 => .holdCores h0)))

/-! ### Flits, message units, credits, retry and replay at the ports -/

theorem execTxFlitSlot_answers (port : Fin 48) (frac : BitVec 8) (s : State) : s.Answers (execTxFlitSlot port s frac) :=
  .ite (.next (.refl s)) (.next (.mapPort (.refl s)))

theorem State.Keeps.controlled {s₀ s : State} {port : Fin 48} {x : Controlled} (h : s₀.Keeps s) : s₀.Keeps (s.controlled port x) := by
  unfold State.controlled
  split
  · exact .heartbeat h
  · exact .mapPort h
  · exact .mapPort h
  · exact .mapPort h

theorem execFlitReceive_answers (port : Fin 48) (f : Flit) (first : List (Fin 528)) (second : List (Fin 528)) (nth : Fin 8) (s : State) :
    s.Answers (execFlitReceive port f first second s nth) := by
  unfold Machine.execFlitReceive
  refine .ite (.next (.refl s)) (.ite (.next (.mapPort (.refl s)))
    (.ite (.next (.mapPort (.refl s))) (.ite (.next (.mapPort (.refl s)))
    (.ite (.next (.mapPort (.refl s))) (.ite (.next (.ite (.log (.mapPort (.refl s))) (.mapPort (.refl s)))) ?_)))))
  extract_lets
  split
  · exact .next (.controlled (.mapPort (.refl s)))
  · exact .next (.mapPort (.refl s))

theorem execReplayTimeout_answers (port : Fin 48) (s : State) : s.Answers (execReplayTimeout port s) :=
  .ite (.next (.refl s)) (.next (.mapPort (.wait (.refl s))))

theorem execNakResend_answers (port : Fin 48) (s : State) : s.Answers (execNakResend port s) := by
  unfold Machine.execNakResend
  split
  · exact .next (.refl s)
  · exact .next (.mapPort (.wait (.refl s)))

/-! ### Routing and forwarding -/

theorem State.Keeps.engineEnds {s₀ s : State} {e : Fin 8} {unit : BitVec 5} {m : LinkMsg} {x : Ending} (h : s₀.Keeps s) :
    s₀.Keeps (s.engineEnds e unit m x) := by
  unfold State.engineEnds
  split
  · exact .log h
  · exact h

theorem State.Keeps.finishRequest {s₀ s : State} {who : Requester} {m : LinkMsg} {x : Ending} (h : s₀.Keeps s) :
    s₀.Keeps (s.finishRequest who m x) := by
  unfold State.finishRequest
  split
  · exact .setCore h (fun hs => .setAnswer (h.core _ hs))
  · exact .engineEnds (.mapFlask h)
  · exact .engineEnds h
  · exact .engineEnds h
  · exact .engineEnds h

theorem State.Keeps.endingFlits {s₀ s : State} {e : Fin 8} {who : Requester} {x : Ending} {fs : List FlitFinding} (h : s₀.Keeps s) :
    s₀.Keeps (s.endingFlits e who x fs).1 := by
  unfold State.endingFlits
  split
  · split
    · split
      · exact .flitLost h
      · exact h
    · split
      · exact .flitWords h
      · exact h
  · exact h

theorem State.Keeps.requestFlits {s₀ s : State} {e : Fin 8} {who : Option Requester} {m : LinkMsg} {fs : List FlitFinding} (h : s₀.Keeps s) :
    s₀.Keeps (s.requestFlits e who m fs).1 := by
  unfold State.requestFlits
  split
  · split
    · split
      · exact .flitLost h
      · exact h
    · exact .flitWords h
  · exact h

theorem State.Keeps.respond {s₀ s : State} {e : Fin 8} {m : LinkMsg} {type : BitVec 4} {aux : BitVec 8} {data : List Byte} (h : s₀.Keeps s) :
    s₀.Keeps (s.respond e m type aux data) :=
  .post h

theorem State.Keeps.noRoute {s₀ s : State} {e : Fin 8} {who : Option Requester} {own : Bool} {m : LinkMsg} (h : s₀.Keeps s) :
    s₀.Keeps (s.noRoute e who own m) := by
  unfold State.noRoute
  extract_lets
  split
  · exact .finishRequest (.others h)
  · exact .ite (.respond (.others h)) (.others h)

theorem State.Keeps.depart {s₀ s : State} {e : Fin 8} {p : Fin 48} {x : Queued} (h : s₀.Keeps s) : s₀.Keeps (s.depart e p x) :=
  .ite (.mapPort (.others h)) (.others (.others h))

theorem State.Keeps.routeMsg {s₀ s t : State} {e : Fin 8} {a : Arrived} {base m : LinkMsg} {who : Option Requester} (h : s₀.Keeps s)
    (ht : s.routeMsg e a base m who = some t) : s₀.Keeps t := by
  unfold State.routeMsg at ht
  extract_lets at ht
  split at ht
  · cases ht; exact .noRoute h
  · extract_lets u at ht
    have hu : s₀.Keeps u := .ite (.others h) h
    split at ht
    · cases ht; exact .depart hu
    · split at ht
      · cases ht
      · cases ht; exact .depart (.mapPort hu)

theorem State.Keeps.selfDeliver {s₀ s t : State} {e : Fin 8} {m : LinkMsg} {who : Option Requester} (h : s₀.Keeps s)
    (ht : s.selfDeliver e m who = some t) : s₀.Keeps t := by
  unfold State.selfDeliver at ht
  split at ht
  · cases ht; exact h
  · extract_lets at ht
    split at ht
    · cases ht
    · cases ht; exact .mapPort h

theorem State.Keeps.getD {s₀ s : State} {o : Option State} (h : s₀.Keeps s) (ho : ∀ t, o = some t → s₀.Keeps t) : s₀.Keeps (o.getD s) := by
  cases o with
  | none => exact h
  | some t => exact ho t rfl

theorem execForwardMessage_answers (edie : Fin 8) (arrived : Arrived) (m : LinkMsg) (flits : List FlitFinding) (s : State) :
    s.Answers (execForwardMessage edie arrived m s flits) := by
  have h := State.Keeps.refl s
  refine .ite (.next h) ?_
  split
  · split
    · exact .next h
    · split
      · exact .next h
      next i _ o _ =>
        extract_lets _ s₁ _
        have h₁ : s.Keeps s₁ := .others h
        split
        next s₂ x w heq _ =>
          have h₂ : s.Keeps s₂ := by
            have := State.Keeps.requestFlits (e := edie) (who := o.who) (m := m) (fs := flits) h₁
            rw [heq] at this
            exact this
          exact .next (.finishRequest h₂)
        next s₂ _ heq _ =>
          have h₂ : s.Keeps s₂ := by
            have := State.Keeps.requestFlits (e := edie) (who := o.who) (m := m) (fs := flits) h₁
            rw [heq] at this
            exact this
          refine .next (.getD h fun t ht => ?_)
          split at ht
          · exact h₂.selfDeliver ht
          · exact h₂.routeMsg ht
  all_goals
    refine .ite (.next h) (.ite (.next h) (.next (.getD ?_ fun t ht => State.Keeps.routeMsg ?_ ht)))
    all_goals exact .ite (.mapPort h) (.others h)

theorem execRtGraceExpiry_answers (s : State) : s.Answers (execRtGraceExpiry s) := by
  unfold Machine.execRtGraceExpiry
  split
  · exact .next (.others (.wait (.refl s)))
  · exact .next (.refl s)

theorem execRequestTimeout_answers (port : Fin 48) (tag : BitVec 12) (s : State) : s.Answers (execRequestTimeout port tag s) := by
  unfold Machine.execRequestTimeout
  extract_lets
  split
  · exact .next (.refl s)
  · exact .next (.finishRequest (.mapPort (.wait (.refl s))))

theorem execTagReuseExpiry_answers (port : Fin 48) (tag : BitVec 12) (s : State) : s.Answers (execTagReuseExpiry port tag s) := by
  unfold Machine.execTagReuseExpiry
  extract_lets
  split
  · exact .next (.refl s)
  · exact .next (.mapPort (.wait (.refl s)))

/-! ### Mailboxes -/

theorem State.Keeps.setBox {s₀ s : State} {src : Source} {b : Mailbox} (h : s₀.Keeps s) : s₀.Keeps (s.setBox src b) := by
  unfold State.setBox
  split
  · exact .others h
  · exact .others h
  · exact .others h

theorem State.Keeps.sendResult {s₀ s : State} {k : Fin 2} {rid : Word} {rdcnt : BitVec 16} {image : List Byte} (h : s₀.Keeps s) :
    s₀.Keeps (s.sendResult k rid rdcnt image) := by
  unfold State.sendResult
  split
  · exact h
  · exact .foldl h (fun _ _ h0 => .post h0)

theorem State.Keeps.answerManager {s₀ s : State} {k : Fin 2} (h : s₀.Keeps s) : s₀.Keeps (s.answerManager k) := .sendResult h

theorem State.Keeps.complete {s₀ s : State} {src : Source} {status : Byte} {detail : ℕ} {rsp : List Byte} (h : s₀.Keeps s) :
    s₀.Keeps (s.complete src status detail rsp) := by
  unfold State.complete
  extract_lets
  split
  · exact .setBox h
  · exact .log (.answerManager (.setBox h))
  · exact .ite (.signal (.others (.setBox h))) (.others (.setBox h))

theorem State.Keeps.takeRequest {s₀ s : State} {src : Source} {b : Mailbox} (h : s₀.Keeps s) : s₀.Keeps (s.takeRequest src b) :=
  .setBox (.others h)

theorem State.Keeps.managerRequest {s₀ s : State} {k : Fin 2} {image : List Byte} (h : s₀.Keeps s) : s₀.Keeps (s.managerRequest k image) :=
  .ite (.answerManager (.setBox h)) (.ite (.sendResult h) (.takeRequest h))

theorem State.Keeps.dropMgmt {s₀ s : State} (h : s₀.Keeps s) : s₀.Keeps s.dropMgmt := .others h

theorem State.Keeps.fragment {s₀ s : State} {smod : ModuleId} {k : Fin 2} {rid : Word} {frag nfrag : ℕ} {part : List Byte} (h : s₀.Keeps s) :
    s₀.Keeps (s.fragment smod k rid frag nfrag part) :=
  .ite (.dropMgmt h) (.ite h (.ite (.managerRequest (.others h)) (.others h)))

theorem State.Keeps.resultRead {s₀ s : State} {smod : ModuleId} {k : Fin 2} (h : s₀.Keeps s) : s₀.Keeps (s.resultRead smod k) :=
  .ite (.dropMgmt h) (.answerManager (.setBox h))

theorem State.Keeps.storeMessage {s₀ s : State} {m : LinkMsg} (h : s₀.Keeps s) : s₀.Keeps (s.storeMessage m) :=
  .ite h (.ite (.dropMgmt h) (.signalBoth (.others h)))

/-! ### Ticks and the frame of every command of the management processor -/

theorem State.Keeps.preempt {s₀ s : State} {k : ℕ} {src win : Source} (h : s₀.Keeps s) : s₀.Keeps (s.preempt k src win) := by
  unfold State.preempt
  exact .log (.log (.complete h))

theorem State.Keeps.preemptSafety {s₀ s : State} {k : ℕ} {src : Source} (h : s₀.Keeps s) : s₀.Keeps (s.preemptSafety k src) := by
  unfold State.preemptSafety
  exact .log (.log (.complete h))

theorem State.Keeps.rank {s₀ s : State} {k : ℕ} {xs : List Source} {above : List (Source × Mailbox)} (h : s₀.Keeps s) :
    s₀.Keeps (State.rank k xs above s) := by
  induction xs generalizing s above with
  | nil => exact h
  | cons x xs ih =>
    refine .ite (ih (.preemptSafety h)) ?_
    split
    · exact ih (.preempt h)
    · exact ih h

theorem State.Keeps.start {s₀ s : State} {src : Source} (h : s₀.Keeps s) : s₀.Keeps (s.start src) := by
  unfold State.start
  refine .ite h ?_
  split
  · exact .complete h
  · exact .setBox h

theorem State.Keeps.arbitrate {s₀ s : State} (h : s₀.Keeps s) : s₀.Keeps s.arbitrate := by
  unfold State.arbitrate
  dsimp only
  split
  · exact .foldl h fun _ _ h0 => .start h0
  · refine .ite h (.foldl (.rank (.foldl (.others (.wait h)) fun t x ht => ?_)) fun _ _ h0 => .start h0)
    split
    · exact .complete ht
    · exact ht

theorem State.Keeps.answer {s₀ : State} {src : Source} {r : Reply} (h : s₀.Replies r) : s₀.Keeps (State.answer src r) :=
  .ite (.setBox h) (.complete h)

theorem State.Keeps.execute {s₀ s : State} {src : Source} {q : Request} {body : State → Reply} (h : s₀.Keeps s)
    (hbody : ∀ a, s₀.Keeps a → s₀.Replies (body a)) : s₀.Keeps (s.execute src q body) :=
  .ite (.answer (hbody _ h)) h

theorem State.Answers.mpCmd {s₀ s : State} {src : Source} {q : Request} {body : State → Reply} (h : s₀.Keeps s)
    (hbody : ∀ a, s₀.Keeps a → s₀.Replies (body a)) : s₀.Answers (mpCmd src q body s) :=
  .ite (.next h) (.ite (.next (.execute h (fun _ h0 => hbody _ h0)))
    (.next (.ite (.execute (.arbitrate (.takeRequest h)) (fun _ h0 => hbody _ h0)) (.takeRequest h))))

theorem State.Replies.withJob {s₀ s : State} {job : BitVec 8} {f : Fin 8 → State → Reply} (h : s₀.Keeps s)
    (hf : ∀ a b, s₀.Keeps b → s₀.Replies (f a b)) : s₀.Replies (withJob job f s) := by
  unfold Machine.withJob
  split
  · exact hf _ _ h
  · exact .badArg h

theorem State.Keeps.changeNotice {s₀ s : State} {src : Source} {detail : List Word} (h : s₀.Keeps s) :
    s₀.Keeps (s.changeNotice src detail) := by
  unfold State.changeNotice
  split
  · exact h
  · exact .log h

theorem State.Keeps.jobNotice {s₀ s : State} {j : Fin 8} {code : ℕ} (h : s₀.Keeps s) : s₀.Keeps (s.jobNotice j code) := .log h

/-! ### Messages at their destination -/

theorem State.Keeps.receive {s₀ s : State} {port : Fin 48} {m : LinkMsg} (h : s₀.Keeps s) : s₀.Keeps (s.receive port m) := .mapPort h

theorem State.Keeps.refuseReq {s₀ s : State} {m : LinkMsg} {reason : BitVec 8} (h : s₀.Keeps s) : s₀.Keeps (s.refuseReq m reason) :=
  .respond (.ite (.onCore h (fun _ _ h0 => .refuse h0)) h)

theorem State.Keeps.destMeet {s₀ s : State} {m : LinkMsg} {n : ℕ} {found : List SpmFinding} {ext : HbmFinding} (h : s₀.Keeps s) :
    s₀.Keeps (s.destMeet m n found ext) :=
  .ite (.onCore h (fun _ _ h0 => .granted (.meet h0))) (.hbmMeet h)

theorem State.Keeps.destPut {s₀ s : State} {m : LinkMsg} {x : Payload} {found : List SpmFinding} {ext : HbmFinding} (h : s₀.Keeps s) :
    s₀.Keeps (s.destPut m x found ext) :=
  .ite (.onCore h (fun _ _ h0 => .granted (.unverified (.mapSpm h0 (fun _ h1 => .put h1))))) (.hbmWrite (.hbmMeetPart h))

theorem State.Keeps.linkLost {s₀ s t : State} {m : LinkMsg} {fs : List FlitFinding} {b : Bool} (h : s₀.Keeps s)
    (ht : s.linkLost m fs = some (t, b)) : s₀.Keeps t := by
  unfold State.linkLost at ht
  split at ht
  · dsimp only at ht
    split at ht
    · cases ht; exact .flitLost h
    · split at ht
      · cases ht; exact .flitLost h
      · cases ht
  · cases ht

theorem State.Keeps.linkWords {s₀ s : State} {m : LinkMsg} {q : ℕ} {x : Payload} {fs : List FlitFinding} (h : s₀.Keeps s) :
    s₀.Keeps (s.linkWords m q x fs).1 := by
  unfold State.linkWords
  extract_lets
  split
  · exact .flitWords h
  · exact h

theorem State.Keeps.settleAdoption {s₀ s : State} (h : s₀.Keeps s) : s₀.Keeps s.settleAdoption := by
  dsimp only [State.settleAdoption]
  split
  · exact h
  · refine .ite h ?_
    extract_lets
    split
    · refine .complete ?_
      split
      · exact .mapJob (.mapFlask h)
      · exact .mapFlask h
    · split
      · exact .mapJob (.mapFlask h)
      · exact .mapFlask h

theorem State.Keeps.adoptWrite {s₀ s : State} {m : LinkMsg} (h : s₀.Keeps s) : s₀.Keeps (s.adoptWrite m) := by
  unfold State.adoptWrite
  split
  · exact .settleAdoption (.mapFlask h)
  · exact h

theorem State.Keeps.adoptPoison {s₀ s : State} {share : ℕ} (h : s₀.Keeps s) : s₀.Keeps (s.adoptPoison share) := by
  unfold State.adoptPoison
  split
  · exact .ite h (.settleAdoption (.mapFlask (.hbmPut h)))
  · exact h

theorem execWrite_answers (port : Fin 48) (m : LinkMsg) (s : State) (found : List SpmFinding) (ext : HbmFinding) (flits : List FlitFinding) :
    s.Answers (execWrite port m s found ext flits) := by
  have h := State.Keeps.refl s
  have hr : s.Keeps (s.receive port m) := .receive h
  refine .ite (.next h) ?_
  split
  · exact .next (.refuseReq hr)
  refine .ite (.next h) ?_
  extract_lets adopting t x
  have ht : s.Keeps t := hr
  split
  next hl => exact .next (ht.linkLost hl)
  next hl => exact .next (.destPut (ht.linkLost hl))
  next =>
    have hy : s.Keeps ((t.linkWords m (t.inPlace m) x flits).1.destPut m (t.linkWords m (t.inPlace m) x flits).2 found ext) :=
      .destPut (.linkWords ht)
    exact .next (.ite (.adoptWrite (.respond hy)) (.respond hy))

theorem execRead_answers (port : Fin 48) (m : LinkMsg) (s : State) (found : List SpmFinding) (ext : HbmFinding) (flits : List FlitFinding) :
    s.Answers (execRead port m s found ext flits) := by
  have h := State.Keeps.refl s
  refine .ite (.next h) ?_
  extract_lets t u y
  have ht : s.Keeps t := .receive h
  split
  · exact .next (.refuseReq ht)
  split
  next hl => exact .next (ht.linkLost hl)
  next hl => exact .next (.destMeet (ht.linkLost hl))
  next =>
    have hy : s.Keeps y.1 := .linkWords (.destMeet ht)
    exact .next (.ite (.log hy) (.respond hy))

theorem execAtomic_answers (port : Fin 48) (m : LinkMsg) (s : State) (found : List SpmFinding) (ext : HbmFinding) (flits : List FlitFinding) :
    s.Answers (execAtomic port m s found ext flits) := by
  have h := State.Keeps.refl s
  have ht : s.Keeps (s.receive port m) := .receive h
  have hlost : ∀ p, (s.receive port m).linkLost m flits = some p → s.Keeps p.1 := fun p hp => ht.linkLost hp
  refine .ite (.next h) ?_
  split
  · exact .next (.refuseReq ht)
  refine .ite (.next h) ?_
  dsimp only
  generalize (s.receive port m).linkLost m flits = lost at hlost ⊢
  split
  · exact .next (hlost _ rfl)
  · have hv : ∀ u, s.Keeps u → s.Keeps (u.destMeet m 8 found ext) := fun u hu => .destMeet hu
    refine .ite (.next (.log (hv _ ?_))) (.ite (.next (.destPut (hv _ ?_)))
      (.next (.ite (.log (.linkWords (.destPut (hv _ ?_)))) (.respond (.linkWords (.destPut (hv _ ?_)))))))
    all_goals
      split
      · exact hlost _ rfl
      · exact ht

theorem State.Keeps.storeUndo {s₀ s t : State} {o : ℕ} {x : Payload} (h : s₀.Keeps s) (ht : s.storeUndo o x = some t) : s₀.Keeps t := by
  unfold State.storeUndo at ht
  extract_lets at ht
  split at ht
  · cases ht
  · cases ht; exact .mapFlask (.hbmPut h)

theorem execMirrorWrite_answers (port : Fin 48) (m : LinkMsg) (s : State) : s.Answers (execMirrorWrite port m s) := by
  have h := State.Keeps.refl s
  have hr : s.Keeps (s.receive port m) := .receive h
  refine .ite (.next h) (.ite (.next (.respond hr)) (.ite (.next (.respond hr)) (.ite (.next (.respond hr))
    (.ite (.next (.respond (.mapFlask hr))) ?_))))
  extract_lets
  split
  · split
    next hu => exact .next (.respond (hr.storeUndo hu))
    next => exact .next h
  · exact .next (.respond (.hbmPut hr))
  · exact .next (.respond (.hbmPut hr))

theorem State.Keeps.storeKilled {s₀ s : State} (h : s₀.Keeps s) : s₀.Keeps s.storeKilled :=
  .ite (.mapFlask h) (.ite (.mapFlask h) (.others (.mapFlask h)))

theorem State.Keeps.peerMessage {s₀ s : State} {m : LinkMsg} (h : s₀.Keeps s) : s₀.Keeps (s.peerMessage m) := by
  unfold State.peerMessage
  refine .ite (.ite (.storeKilled (.ackPeer h)) (.ackPeer h)) ?_
  split
  · exact .ite (.adoptPoison (.ackPeer h)) (.ackPeer h)
  · exact .ackPeer h

theorem State.Keeps.takeMgmt {s₀ s : State} {m : LinkMsg} (h : s₀.Keeps s) : s₀.Keeps (s.takeMgmt m) := by
  unfold State.takeMgmt
  extract_lets
  split
  · exact .fragment h
  · exact .resultRead h
  · exact .storeMessage h
  · exact .storeMessage h
  · exact .peerMessage h
  · exact h

theorem execMgmt_answers (port : Fin 48) (m : LinkMsg) (room : Bool) (s : State) : s.Answers (execMgmt port m room s) :=
  .ite (.next (.refl s)) (.next (.ite (.takeMgmt (.receive (.refl s))) (.dropMgmt (.receive (.refl s)))))

theorem State.Keeps.response {s₀ s : State} {port : Fin 48} {m : LinkMsg} {x : Ending} {fs : List FlitFinding} (h : s₀.Keeps s) :
    s₀.Keeps (s.response port m x fs) := by
  unfold State.response
  refine .ite (.receive h) ?_
  extract_lets
  split
  · exact .mapPort (.receive h)
  · exact .ite (.mapPort (.receive h)) (.finishRequest (.endingFlits (.mapPort (.receive h))))

theorem execRdata_answers (port : Fin 48) (m : LinkMsg) (flits : List FlitFinding) (s : State) : s.Answers (execRdata port m s flits) :=
  .next (.ite (.response (.refl s)) (.refl s))

theorem execDone_answers (port : Fin 48) (m : LinkMsg) (flits : List FlitFinding) (s : State) : s.Answers (execDone port m s flits) :=
  .next (.ite (.response (.refl s)) (.refl s))

theorem execRefused_answers (port : Fin 48) (m : LinkMsg) (flits : List FlitFinding) (s : State) : s.Answers (execRefused port m s flits) :=
  .next (.ite (.response (.refl s)) (.refl s))

/-! ### Reductions -/

theorem State.Keeps.placePart {s₀ s t : State} {x : Fin 16} {k : Contribution} (h : s₀.Keeps s) (ht : s.placePart x k = some t) :
    s₀.Keeps t := by
  unfold State.placePart at ht
  extract_lets at ht
  split at ht
  · cases ht
  · split at ht
    · split at ht
      · cases ht
      · cases ht; exact .mapRed h
    · split at ht
      · cases ht
      · cases ht; exact .mapRed h

theorem State.Keeps.directAdd {s₀ s : State} {m : LinkMsg} {found : List SpmFinding} {ext : HbmFinding} (h : s₀.Keeps s) :
    s₀.Keeps (s.directAdd m found ext) :=
  .respond (.destPut (.destMeet h))

theorem execReduceFwd_answers (port : Fin 48) (m : LinkMsg) (s : State) (found : List SpmFinding) (ext : HbmFinding) :
    s.Answers (execReduceFwd port m s found ext) := by
  have h := State.Keeps.refl s
  refine .ite (.next h) ?_
  extract_lets t
  have ht : s.Keeps t := .receive h
  split
  · exact .next (.refuseReq ht)
  split
  · exact .next (.ite h (.directAdd ht))
  extract_lets c joins
  split
  · exact .ite (.next h) (.next (.directAdd (.mapRed ht)))
  refine .ite (.next h) ?_
  extract_lets k stop
  have hs : ∀ u, s.Keeps u → s.Keeps (stop u) := fun u hu => .log (.mapRed hu)
  split
  next hp => exact .next (ht.placePart hp)
  next => exact .ite (.next (.ite (hs _ (.mapRed ht)) (.mapRed ht))) (.next (hs _ h))

theorem State.Keeps.drawSpill {s₀ s : State} {x : Fin 16} {ks : List Contribution} (h : s₀.Keeps s) :
    s₀.Keeps (Machine.drawSpill x ks s) := by
  induction ks generalizing s with
  | nil => exact h
  | cons k ks ih =>
    unfold Machine.drawSpill
    split
    next hu => exact ih (.mapRed (h.placePart hu))
    next => exact ih h

theorem State.Keeps.drawSpills {s₀ s : State} (h : s₀.Keeps s) : s₀.Keeps s.drawSpills :=
  .foldl h (fun _ _ h0 => .ite (.mapRed (.drawSpill h0)) (.drawSpill h0))

theorem execReductionRoundComplete_answers (ctx : Fin 16) (line : BitVec 32) (found : List SpmFinding) (ext : HbmFinding) (s : State) :
    s.Answers (execReductionRoundComplete ctx line s found ext) := by
  unfold Machine.execReductionRoundComplete
  extract_lets
  split
  · exact .next (.refl s)
  · exact .ite (.next (.refl s)) (.next (.drawSpills (.foldl (.mapRed (.destPut (.destMeet (.refl s)))) (fun _ _ h0 => .respond h0))))

theorem execRoundTimeout_answers (ctx : Fin 16) (line : BitVec 32) (s : State) : s.Answers (execRoundTimeout ctx line s) := by
  unfold Machine.execRoundTimeout
  extract_lets
  split
  · exact .next (.refl s)
  · exact .next (.log (.mapRed (.wait (.refl s))))

end Sys2Proof.Machine
end

section
/-! PROOFS. What every step keeps: the commands of the management processors and the board. -/

namespace Sys2Proof.Machine

/-! ### The register blocks in the MP's space as CFG_GET, CFG_WRITE_SHADOW and DEBUG_READ see them -/

theorem State.Keeps.blockClear {s₀ s : State} {block off : ℕ} (h : s₀.Keeps s) : s₀.Keeps (s.blockClear block off) := by
  unfold State.blockClear
  refine .ite (.ite (.others h) (.ite (.others h) (.ite (.mapPower h) h)))
    (.ite (.ite (.mapDie h) h) (.ite (.ite (.ite h (.mapPort h))
    (.ite (.others h) (.ite (.others h) (.ite (.others h) (.ite (.mapRed h) h))))) (.ite ?_ h)))
  split
  · exact .others h
  · exact .others h
  · exact .others h
  · exact .others h
  · exact h

theorem State.Keeps.blockClears {s₀ s : State} {block off n : ℕ} (h : s₀.Keeps s) : s₀.Keeps (s.blockClears block off n) :=
  .foldl h (fun _ _ h0 => .blockClear h0)

theorem State.Keeps.enablePort {s₀ s : State} {port : Fin 48} {was now : PortCfg} (h : s₀.Keeps s) : s₀.Keeps (s.enablePort port was now) :=
  .ite h (.ite (.mapPort h) (.ite (.leaveActive (.mapPort h)) (.rechoose (.mapPort h))))

/-- Every core in the table changed to one that is canonical when it was. -/
theorem State.Keeps.mapCores {s₀ s : State} {f : ℕ × Core → Core} (h : s₀.Keeps s) (hf : ∀ x, x.2.Tidy → (f x).Tidy) :
    s₀.Keeps { s with cores := s.cores.map (fun x => (x.1, f x)) } := by
  refine ⟨h.pending, h.fuses, fun hs => ?_⟩
  obtain ⟨hm, hall⟩ := s.canonical_iff.mp (h.canonical hs)
  refine (State.canonical_iff _).mpr ⟨hm, fun x hx => ?_⟩
  obtain ⟨y, hy, rfl⟩ := List.mem_map.mp hx
  exact hf y (hall y hy)

theorem State.Keeps.wakeEngines {s₀ s : State} {was : Word} (h : s₀.Keeps s) : s₀.Keeps (s.wakeEngines was) :=
  .ite (.mapCores h fun _ hx => .withVe hx (.ite (.others hx.ve) hx.ve)) h

theorem State.Keeps.followPlan {s₀ s : State} {was : Word} (h : s₀.Keeps s) : s₀.Keeps (s.followPlan was) := .wakeEngines (.ite h (.others h))

theorem State.Keeps.follow {s₀ s : State} {was : ConfigSet} (h : s₀.Keeps s) : s₀.Keeps (s.follow was) :=
  .foldl (.foldl (.followPlan h) (fun _ _ h0 => .enablePort h0)) (fun _ _ h0 => .ite h0 (.checkPeer h0))

/-! ### The registers of BAR0 as the host reads and writes them -/

theorem State.Keeps.bar0Effect {s₀ s : State} {o : ℕ} (h : s₀.Keeps s) : s₀.Keeps (s.bar0Effect o) :=
  .ite (.ite (.others h) h) (.ite (.others h) (.ite (.others h) (.ite (.others h) h)))

theorem State.Keeps.bar0Read {s₀ s : State} {o : ℕ} {hi : Fin 2} (h : s₀.Keeps s) : s₀.Keeps (s.bar0Read o hi) := .others (.bar0Effect h)

theorem State.Keeps.bar0Write {s₀ s : State} {hi : Fin 2} {o : ℕ} {v : Word} (h : s₀.Keeps s) : s₀.Keeps (s.bar0Write hi o v) :=
  .ite (.others h) (.ite (.others h) (.ite (.others h) h))

theorem State.Keeps.hostAccess {s₀ s : State} {hi : Fin 2} {a : HostAccess} (h : s₀.Keeps s) : s₀.Keeps (State.hostAccess hi s a) := by
  unfold State.hostAccess
  extract_lets
  split
  · exact .others h
  · exact .others h
  · exact .others h
  · exact .others h
  · exact .others h
  · exact .others h
  · exact .bar0Read h
  · exact .bar0Write h

/-! ### Requests as they come in through BAR0, the links and the BMC, the BAR2 aperture, the arbitration tick and the limits of commands -/

theorem State.Keeps.undoCommand {s₀ s : State} {src : Source} (h : s₀.Keeps s) : s₀.Keeps (s.undoCommand src) := by
  unfold State.undoCommand
  split
  · exact .others h
  · exact .others h
  · exact .others h
  · exact .others h
  · exact .others h
  · exact h

theorem execArbitrationTick_answers (s : State) : s.Answers (execArbitrationTick s) := .next (.arbitrate (.refl s))

theorem execCommandTimeout_answers (src : Source) (s : State) : s.Answers (execCommandTimeout src s) := by
  unfold Machine.execCommandTimeout
  extract_lets
  split
  · exact .next (.refl s)
  · exact .ite (.next (.refl s)) (.next (.complete (.undoCommand (.others (.wait (.refl s))))))

theorem execMailboxDoorbell_answers (hi : Fin 2) (ring : BitVec 8) (reqs : List MbRequest) (regs : List HostAccess) (s : State) :
    s.Answers (execMailboxDoorbell hi ring reqs s regs) :=
  .ite (.next (.refl s)) (.next (.foldl (.foldl (.refl s) (fun _ _ h0 => .hostAccess h0))
    (fun _ _ h0 => .ite h0 (.ite (.others h0) (.takeRequest h0)))))

theorem execResultRead_answers (n : Fin 8) (s : State) : s.Answers (execResultRead n s) := .next (.ite (.others (.refl s)) (.refl s))

theorem execMgmtTransmit_answers (go : Bool) (buf : List Byte) (s : State) : s.Answers (execMgmtTransmit go buf s) :=
  .ite (.next (.refl s)) (.ite (.next (.others (.refl s)))
    (.ite (.next (.others (.others (.refl s)))) (.ite (.next (.others (.others (.refl s)))) (.next (.others (.post (.others (.refl s))))))))

theorem execB2baseWrite_answers (value : BitVec 32) (s : State) : s.Answers (execB2baseWrite value s) :=
  .next (.ite (.refl s) (.others (.refl s)))

theorem State.Keeps.bar2Refuse {s₀ s : State} {a : ℕ} (h : s₀.Keeps s) : s₀.Keeps (s.bar2Refuse a) := .ite (.log (.others h)) (.others h)

theorem execBar2Read_answers (x : BitVec 36) (bytes : ℕ) (ext : HbmFinding) (s : State) : s.Answers (execBar2Read x bytes s ext) :=
  .ite (.next (.refl s)) (.ite (.next (.others (.hbmRead (.refl s)))) (.next (.others (.bar2Refuse (.refl s)))))

theorem execBar2Write_answers (x : BitVec 36) (data : List Byte) (ext : HbmFinding) (s : State) : s.Answers (execBar2Write x data s ext) :=
  .ite (.next (.refl s)) (.ite (.next (.bar2Refuse (.refl s))) (.next (.runHeld (.hbmMeetPart (.refl s)))))

theorem execMgmtRequest_answers (smod : BitVec 13) (mb : Fin 2) (rid : BitVec 32) (frag nfrag : BitVec 8) (image : List Byte) (s : State) :
    s.Answers (execMgmtRequest smod mb rid frag nfrag image s) :=
  .next (.fragment (.refl s))

theorem execMgmtResultRead_answers (smod : BitVec 13) (mb : Fin 2) (_rid : BitVec 32) (s : State) :
    s.Answers (execMgmtResultRead smod mb _rid s) :=
  .next (.resultRead (.refl s))

theorem execMgmtResult_answers (m : LinkMsg) (s : State) : s.Answers (execMgmtResult m s) := .next (.ite (.storeMessage (.refl s)) (.refl s))
theorem execMgmtNotice_answers (m : LinkMsg) (s : State) : s.Answers (execMgmtNotice m s) := .next (.ite (.storeMessage (.refl s)) (.refl s))

theorem execFragmentTimeout_answers (mb : Fin 2) (s : State) : s.Answers (execFragmentTimeout mb s) := by
  unfold Machine.execFragmentTimeout
  split
  · exact .next (.refl s)
  · exact .next (.others (.wait (.refl s)))

theorem State.Keeps.bmcSend {s₀ s : State} {image : List Byte} (h : s₀.Keeps s) : s₀.Keeps (s.bmcSend image) := .others h

theorem execBmcMessage_answers (kind : BitVec 8) (image : List Byte) (packets : List (List Byte)) (s : State) :
    s.Answers (execBmcMessage kind image s packets) :=
  .ite (.next (.refl s)) (.ite (.next (.bmcSend (.others (.refl s))))
    (.ite (.next (.refl s)) (.ite (.next (.bmcSend (.others (.refl s))))
    (.ite (.next (.bmcSend (.refl s))) (.next (.takeRequest (.refl s)))))))

/-! ### Fettles -/

theorem State.Keeps.wipeHbm {s₀ s : State} {r : ℕ × ℕ} (h : s₀.Keeps s) : s₀.Keeps (s.wipeHbm r) := .setMem h fun hm => filter_wf _ _ hm

theorem State.Keeps.wipeAll {s₀ s : State} {rs : List (ℕ × ℕ)} (h : s₀.Keeps s) : s₀.Keeps (s.wipeAll rs) :=
  .foldl h (fun _ _ h0 => .wipeHbm h0)

theorem State.Keeps.wipeCores {s₀ s : State} {ids : List CoreId} (h : s₀.Keeps s) : s₀.Keeps (s.wipeCores ids) := .filterCores h
theorem State.Keeps.wipeLines {s₀ s : State} {r : ℕ × ℕ} (h : s₀.Keeps s) : s₀.Keeps (s.wipeLines r) := .others h

theorem State.Keeps.respare {s₀ s : State} {ids : List CoreId} (h : s₀.Keeps s) : s₀.Keeps (s.respare ids) :=
  .foldl h (fun _ _ h0 => .ite h0 (.setCore h0 (fun hs => .mapSpm (h0.core _ hs) (fun _ h1 => .others h1))))

theorem State.Keeps.applyRepairs {s₀ s : State} {ids : List CoreId} (h : s₀.Keeps s) : s₀.Keeps (s.applyRepairs ids) := .others h
theorem State.Keeps.applyAllRepairs {s₀ s : State} (h : s₀.Keeps s) : s₀.Keeps s.applyAllRepairs := .others h
theorem State.Keeps.wipeStore {s₀ s : State} (h : s₀.Keeps s) : s₀.Keeps s.wipeStore := .mapFlask (.wipeAll h)
theorem State.Keeps.wipeContexts {s₀ s : State} {n : ℕ} (h : s₀.Keeps s) : s₀.Keeps (s.wipeContexts n) := .others h

theorem State.Keeps.fettleJob {s₀ s : State} {j : Fin 8} (h : s₀.Keeps s) : s₀.Keeps (s.fettleJob j) := by
  unfold State.fettleJob
  extract_lets b n t t₁ t₂ t₃ t₄
  have ht : s₀.Keeps t := .applyRepairs h
  have h₁ : s₀.Keeps t₁ := .wipeAll (.wipeLines (.respare (.wipeCores ht)))
  have h₂ : s₀.Keeps t₂ := .wipeContexts h₁
  have h₃ : s₀.Keeps t₃ := .ite (.wipeStore h₂) h₂
  have h₄ : s₀.Keeps t₄ := .ite (.mapFlask (.wipeAll h₃)) h₃
  exact .mapJob h₄

theorem State.Keeps.fettleHold {s₀ s : State} {j : Fin 8} (h : s₀.Keeps s) : s₀.Keeps (s.fettleHold j) := .mapJob (.wipeAll h)
theorem State.Keeps.moveLines {s₀ s : State} {p : ℕ} (h : s₀.Keeps s) : s₀.Keeps (s.moveLines p) := .others h

theorem State.Keeps.readmitChannel {s₀ s : State} (h : s₀.Keeps s) : s₀.Keeps s.readmitChannel := by
  unfold State.readmitChannel
  extract_lets
  split
  · exact .ite (.others (.moveLines h)) h
  · exact h

theorem State.Keeps.retireChannel {s₀ s : State} (h : s₀.Keeps s) : s₀.Keeps s.retireChannel := by
  unfold State.retireChannel
  extract_lets
  split
  · exact .ite (.others (.moveLines h)) h
  · exact h

theorem State.Keeps.fettleHbm {s₀ s : State} (h : s₀.Keeps s) : s₀.Keeps s.fettleHbm := by
  unfold State.fettleHbm
  exact .retireChannel (.readmitChannel (.foldl (.mapFlask (.wipeHbm (.applyHbmRepairs h)))
    (fun _ _ h0 => .ite (.jobNotice (.mapJob h0)) h0)))

theorem State.Keeps.withoutCores {s₀ s : State} (h : s₀.Keeps s) : s₀.Keeps { s with cores := [] } := by
  refine ⟨h.pending, h.fuses, fun hs => ?_⟩
  exact (State.canonical_iff _).mpr ⟨h.mem hs, fun x hx => absurd hx List.not_mem_nil⟩

theorem State.Keeps.fettleModule {s₀ s : State} (h : s₀.Keeps s) : s₀.Keeps s.fettleModule := by
  unfold State.fettleModule
  extract_lets t b o p m u w
  have ht : s₀.Keeps t := .applyAllRepairs (.fettleHbm h)
  clear_value t
  have hu : s₀.Keeps u := ht.withoutCores.rest rfl
  have hw : s₀.Keeps w := List.foldlRecOn (motive := s₀.Keeps) (List.range 32) _ hu fun _ h0 _ _ => .settleNodes h0
  exact .respare hw

theorem State.Keeps.fettleNotice {s₀ s : State} {job : ℕ} (h : s₀.Keeps s) : s₀.Keeps (s.fettleNotice job) := .log h
theorem State.Keeps.endNotice {s₀ s : State} {j : Fin 8} (h : s₀.Keeps s) : s₀.Keeps (s.endNotice j) := .ite (.jobNotice h) h

theorem State.Keeps.fettleScope {s₀ s : State} {x : FettleScope} (h : s₀.Keeps s) : s₀.Keeps (s.fettleScope x) := by
  unfold State.fettleScope
  split
  · exact .ite (.fettleNotice (.endNotice (.fettleJob h))) h
  · exact .ite (.fettleNotice (.endNotice (.fettleHold h))) h
  · exact .fettleNotice (.wipeStore h)
  · exact .fettleNotice (.fettleHbm h)
  · exact .fettleNotice (.fettleModule h)

theorem State.Keeps.resetSoon {s₀ s : State} (h : s₀.Keeps s) : s₀.Keeps s.resetSoon := .others h

theorem Fuses.blown_write {f : Fuses} {a : FettleAct} {w : Fuses → Fuses} (hw : w ∈ a.writes) : f.Blown (w f) := by
  have hone : ∀ b : BitVec 4, f.Blown { f with decom := f.decom ||| b } := fun b =>
    ⟨le_rfl, rfl, fun _ h => h, fun k h => by simp [BitVec.getLsbD_or, h], fun _ h => h⟩
  cases a with
  | none => cases hw
  | level n => cases hw
  | deploy d =>
    rcases List.mem_cons.mp hw with rfl | hw
    · exact ⟨le_rfl, rfl, fun _ h => h, fun _ h => h, fun _ h => h⟩
    · rw [List.mem_singleton.mp hw]
      exact ⟨le_rfl, rfl, fun _ h => h, fun _ h => h, fun _ h => h⟩
  | rma =>
    rw [List.mem_singleton.mp hw]
    exact ⟨le_rfl, rfl, fun _ h => h, fun _ h => h, fun _ h => h⟩
  | decommission =>
    rcases List.mem_append.mp hw with hw | hw
    · obtain ⟨b, -, rfl⟩ := List.mem_map.mp hw
      exact hone b
    · rw [List.mem_singleton.mp hw]
      refine ⟨le_rfl, rfl, fun _ h => h, fun _ h => h, fun k h => ?_⟩
      rw [BitVec.getLsbD_allOnes]
      exact decide_eq_true (BitVec.lt_of_getLsbD h)

/-- The first writes of a transition only blow bits (R492). -/
theorem Fuses.blown_blown (f : Fuses) (a : FettleAct) (n : Nat) : f.Blown (f.blown a n) :=
  List.foldlRecOn (motive := f.Blown) _ _ (.refl f) fun _ hg _ hw => hg.trans (blown_write (List.mem_of_mem_take hw))

theorem State.Keeps.afterFettle {s₀ s : State} {a : FettleAct} (h : s₀.Keeps s) : s₀.Keeps (s.afterFettle a) := by
  unfold State.afterFettle
  split
  · exact h
  · exact .others h
  · exact .resetSoon (.blow h (Fuses.blown_blown ..))

theorem State.Keeps.fettleFails {s₀ s : State} {q : ℕ} (h : s₀.Keeps s) : s₀.Keeps (s.fettleFails q) := by
  unfold State.fettleFails
  extract_lets
  split
  · exact .log (.setCore (.others h) (fun hs => .withVe (h.core _ hs) (.others (Core.Tidy.ve (h.core _ hs)))))
  · exact .log (.mapMap (.others h))

theorem execFettleDone_answers (failed : List CorePos) (s : State) : s.Answers (execFettleDone failed s) := by
  unfold Machine.execFettleDone
  split
  · exact .next (.refl s)
  next f fs _ =>
    refine .ite (.next (.refl s)) ?_
    have ht : s.Keeps (({ s with mp := { s.mp with fettles := fs } } : State).fettleScope f.scope) := .fettleScope (.others (.refl s))
    extract_lets qs m t t₁ b t₂
    have h₁ : s.Keeps t₁ := .foldl ht fun _ _ h0 => .fettleFails h0
    have h₂ : s.Keeps t₂ := .ite (.others h₁) h₁
    split
    · exact .next (.ite (.complete (.afterFettle h₂)) h₂)
    · exact .next h₂

theorem State.Keeps.addFettle {s₀ s : State} {f : FettleRun} (h : s₀.Keeps s) : s₀.Keeps (s.addFettle f) := by
  unfold State.addFettle
  exact .others (.mapCores h fun _ hx => .ite (.withVe hx (.others hx.ve)) hx)

theorem State.Keeps.askFettle {s₀ s : State} {scopes : List FettleScope} {f : FettleRun} (h : s₀.Keeps s) : s₀.Keeps (s.askFettle scopes f) :=
  .ite (.others h) (.addFettle h)

theorem execFettleJob_answers (src : Source) (job : BitVec 8) (s : State) : s.Answers (execFettleJob src job s) := by
  unfold Machine.execFettleJob
  refine .mpCmd (.refl s) (fun _ h0 => ?_)
  split
  · exact .denied h0
  · exact .ite (.denied h0) (.ite (.denied h0) (.waiting (.ite (.askFettle h0) (.askFettle h0))))

theorem State.Answers.fettleWide {s₀ s : State} {src : Source} {scope : FettleScope} {act : ℕ} (h : s₀.Keeps s) :
    s₀.Answers (fettleWide src scope act s) :=
  .mpCmd h (fun _ h0 => .ite (.denied h0) (.waiting (.addFettle h0)))

theorem execFettleAllHbm_answers (src : Source) (s : State) : s.Answers (execFettleAllHbm src s) := .fettleWide (.refl s)
theorem execFettleModule_answers (src : Source) (s : State) : s.Answers (execFettleModule src s) := .fettleWide (.refl s)

/-! ### Patrol scrub and failures of external memory -/

theorem execHbmPatrolScrub_answers (stack : Fin 16) (addr : BitVec 40) (finding : HbmFinding) (s : State) :
    s.Answers (execHbmPatrolScrub stack addr finding s) :=
  .ite (.next (.refl s)) (.next (.hbmMeet (.refl s)))

theorem execPchFail_answers (pch : BitVec 10) (s : State) : s.Answers (execPchFail pch s) :=
  .ite (.next (.refl s)) (.next (.channelCandidate (.logJobs (.others (.refl s)))))

/-! ### Commands on the module's identity, its register blocks and configuration sets -/

theorem execDevInfo_answers (src : Source) (s : State) : s.Answers (execDevInfo src s) := .mpCmd (.refl s) (fun _ h0 => .okWith h0)
theorem execHealth_answers (src : Source) (s : State) : s.Answers (execHealth src s) := .mpCmd (.refl s) (fun _ h0 => .okWith h0)

theorem execCfgGet_answers (src : Source) (block : BitVec 8) (copy clr : Bool) (offset words : BitVec 32) (s : State) :
    s.Answers (execCfgGet src block copy clr offset words s) :=
  .mpCmd (.refl s) (fun _ h0 => .ite (.badArg h0) (.ite (.badArg h0) (.ite (.badArg h0) (.okWith (.ite (.blockClears h0) h0)))))

theorem State.Replies.unlessPending {s₀ s : State} {f : State → Reply} (h : s₀.Keeps s) (hf : ∀ a, s₀.Keeps a → s₀.Replies (f a)) :
    s₀.Replies (unlessPending f s) := by
  unfold Machine.unlessPending
  split
  · exact .denied h
  · exact hf _ h

theorem execCfgWriteShadow_answers (src : Source) (block : BitVec 8) (copy : Bool) (offset : BitVec 32) (data : List (BitVec 32)) (s : State)
    : s.Answers (execCfgWriteShadow src block copy offset data s) := by
  unfold Machine.execCfgWriteShadow
  refine .mpCmd (.refl s) (fun _ h0 => .unlessPending h0 (fun _ h1 => .ite (.badArg h1) (.ite (.badArg h1) (.ite (.badArg h1) ?_))))
  split
  · exact .okWith (.others h1)
  · exact .badArg h1

theorem State.Keeps.carryCores {s₀ s : State} {was : ConfigSet} (h : s₀.Keeps s) : s₀.Keeps (s.carryCores was) := by
  refine .foldl h fun t d ht => .ite ht (.foldl (.filterCores ht) fun u x hu => ?_)
  split
  next c hc =>
    refine .setCore hu fun hs => ?_
    obtain ⟨y, -, hc⟩ := Option.bind_eq_some_iff.mp hc
    obtain ⟨z, hz, rfl⟩ := Option.map_eq_some_iff.mp hc
    exact (s.canonical_iff.mp (h.canonical hs)).2 z (List.mem_of_find?_eq_some hz)
  next => exact hu

theorem State.Keeps.swapSets {s₀ s : State} (h : s₀.Keeps s) : s₀.Keeps s.swapSets := by
  unfold State.swapSets
  exact .log (.follow (.ite (.others (.carryCores (.others h))) (.carryCores (.others h))))

theorem execCfgSwap_answers (src : Source) (s : State) : s.Answers (execCfgSwap src s) := by
  unfold Machine.execCfgSwap
  refine .mpCmd (.refl s) (fun _ h0 => .unlessPending h0 (fun _ h1 => .ite (.notReady h1) ?_))
  split
  · exact .denied h1
  · exact .okWith (.swapSets h1)

theorem State.Keeps.cancelSwap {s₀ s : State} {src : Source} (h : s₀.Keeps s) : s₀.Keeps (s.cancelSwap src) := by
  unfold State.cancelSwap
  split
  · exact .complete (.others h)
  · exact h

theorem execCfgSwapAt_answers (src : Source) (t : BitVec 64) (s : State) : s.Answers (execCfgSwapAt src t s) :=
  .mpCmd (.refl s) (fun _ h0 => .ite (.okWith (.cancelSwap h0))
    (.unlessPending h0 (fun _ h1 => .ite (.badArg h1) (.ite (.badArg h1) (.ite (.notReady h1) (.waiting (.others h1)))))))

theorem execCfgSwapCancel_answers (src : Source) (s : State) : s.Answers (execCfgSwapCancel src s) :=
  .mpCmd (.refl s) (fun _ h0 => .okWith (.cancelSwap h0))

theorem execSwapAtTime_answers (s : State) : s.Answers (execSwapAtTime s) := by
  unfold Machine.execSwapAtTime
  split
  · exact .next (.refl s)
  · extract_lets
    split
    · exact .next (.complete (.others (.wait (.refl s))))
    · exact .next (.complete (.swapSets (.others (.wait (.refl s)))))

theorem execPowerCap_answers (src : Source) (cap : BitVec 16) (window : BitVec 8) (s : State) : s.Answers (execPowerCap src cap window s) :=
  .mpCmd (.refl s) (fun _ h0 => .ite (.badArg h0) (.okWith (.changeNotice (.log (.others h0)))))

theorem execClockMode_answers (src : Source) (value mask : BitVec 32) (s : State) : s.Answers (execClockMode src value mask s) :=
  .mpCmd (.refl s) (fun _ h0 => .ite (.badArg h0) (.ite (.badArg h0)
    (.ite (.denied h0) (.okWith (.changeNotice (.wakeEngines (.others h0)))))))

theorem execPhaseTableRead_answers (src : Source) (die : BitVec 8) (ndie : BitVec 2) (s : State) :
    s.Answers (execPhaseTableRead src die ndie s) :=
  .mpCmd (.refl s) (fun _ h0 => .ite (.badArg h0) (.okWith h0))

theorem execPhaseTableLoad_answers (src : Source) (job die : BitVec 8) (ndie : BitVec 2) (data : List Byte) (s : State) :
    s.Answers (execPhaseTableLoad src job die ndie data s) :=
  .mpCmd (.refl s) (fun _ h0 => .withJob h0 (fun _ _ h1 => .ite (.badArg h1) (.ite (.badArg h1) (.ite (.denied h1) (.okWith (.others h1))))))

theorem execPhaseTableClear_answers (src : Source) (die : BitVec 8) (s : State) : s.Answers (execPhaseTableClear src die s) :=
  .mpCmd (.refl s) (fun _ h0 => .ite (.okWith (.others h0)) (.ite (.badArg h0) (.okWith (.others h0))))

theorem State.Keeps.setPort {s₀ s : State} {port : Fin 48} {f : PortCfg → PortCfg} (h : s₀.Keeps s) : s₀.Keeps (s.setPort port f) := .others h

theorem State.Answers.portSet {s₀ s : State} {src : Source} {port : Fin 48} {q : Request} {bad : Bool} {f : PortCfg → PortCfg}
    (h : s₀.Keeps s) : s₀.Answers (portSet src port q bad f s) :=
  .mpCmd h (fun _ h0 => .ite (.badArg h0) (.okWith (.changeNotice (.enablePort (.setPort h0)))))

theorem execPortDisable_answers (src : Source) (port : Fin 48) (s : State) : s.Answers (execPortDisable src port s) := .portSet (.refl s)
theorem execPortEnable_answers (src : Source) (port : Fin 48) (s : State) : s.Answers (execPortEnable src port s) := .portSet (.refl s)

theorem execPortSetLaneen_answers (src : Source) (port : Fin 48) (readmit : Bool) (value : BitVec 32) (s : State) :
    s.Answers (execPortSetLaneen src port readmit value s) :=
  .ite (.mpCmd (.refl s) (fun _ h0 => .okWith (.mapPort h0))) (.portSet (.refl s))

theorem execPortSetTxpre_answers (src : Source) (port : Fin 48) (value : BitVec 32) (s : State) :
    s.Answers (execPortSetTxpre src port value s) :=
  .portSet (.refl s)

theorem execPortSetMshare_answers (src : Source) (port : Fin 48) (value : BitVec 32) (s : State) :
    s.Answers (execPortSetMshare src port value s) :=
  .portSet (.refl s)

theorem execPortCtlRetrain_answers (src : Source) (port : Fin 48) (s : State) : s.Answers (execPortCtlRetrain src port s) :=
  .mpCmd (.refl s) (fun _ h0 => .okWith (.mapPort h0))

theorem execRouteTableWrite_answers (src : Source) (first : BitVec 32) (groups : List RouteMasks) (s : State) :
    s.Answers (execRouteTableWrite src first groups s) := by
  unfold Machine.execRouteTableWrite
  refine .mpCmd (.refl s) (fun _ h0 => .unlessPending h0 (fun _ h1 => .ite (.badArg h1) (.ite (.badArg h1) ?_)))
  split
  · exact .okWith (.others h1)
  · exact .badArg h1

theorem execRouteTableQuery_answers (src : Source) (dmod : BitVec 32) (s : State) : s.Answers (execRouteTableQuery src dmod s) :=
  .mpCmd (.refl s) (fun _ h0 => .ite (.badArg h0) (.okWith h0))

theorem execErrLog_answers (src : Source) (start : BitVec 32) (count : BitVec 6) (minsev : BitVec 2) (clear : Bool) (s : State) :
    s.Answers (execErrLog src start count minsev clear s) :=
  .mpCmd (.refl s) (fun _ h0 => .ite (.badArg h0) (.okWith (.ite (.others h0) h0)))

/-! ### JOB_LOAD -/

theorem State.Keeps.ledgerAll {s₀ s : State} (h : s₀.Keeps s) : s₀.Keeps s.ledgerAll := .retireNodes (.others h)

theorem Core.Tidy.loadedCore {s : State} {n : ℕ} {x : CoreId × Bool × Word} : (s.loadedCore n x).Tidy :=
  .others (.afterReset (.mapR Core.tidy_reset))

theorem State.Keeps.loadJob {s₀ s : State} {src : Source} {j : Fin 8} {r : JobLoadReq} {img : JobImage} (h : s₀.Keeps s) :
    s₀.Keeps (s.loadJob src j r img) :=
  .jobNotice (.foldl (.others (.foldl (.foldl (.hbmPut (.mapJob h)) (fun _ _ h0 => .setCore h0 (fun _ => Core.Tidy.loadedCore)))
    (fun _ _ h0 => .mapRed h0))) (fun _ _ h0 => .others h0))

/-! ### The ledgers of the management processor -/

theorem State.Keeps.retire {s₀ s : State} {q : ℕ} {node : Bool} (h : s₀.Keeps s) : s₀.Keeps (s.retire q node) := .others h

theorem execCoreRetire_answers (src : Source) (die : Fin 32) (prow : BitVec 5) (pcol : BitVec 4) (node : Bool) (s : State) :
    s.Answers (execCoreRetire src die prow pcol node s) :=
  .mpCmd (.refl s) (fun _ h0 => .ite (.badArg h0) (.ite (.badArg (.nodeLimit h0)) (.okWith (.retire h0))))

theorem execCoreReadmit_answers (src : Source) (die : Fin 32) (prow : BitVec 5) (pcol : BitVec 4) (node : Bool) (s : State) :
    s.Answers (execCoreReadmit src die prow pcol node s) :=
  .mpCmd (.refl s) (fun _ h0 => .ite (.badArg h0) (.ite (.denied h0) (.okWith (.others h0))))

theorem execRowRepairList_answers (src : Source) (target : RepairTarget) (start : Word) (s : State) :
    s.Answers (execRowRepairList src target start s) :=
  .mpCmd (.refl s) (fun _ h0 => .okWith h0)

theorem execRowRepairAdd_answers (src : Source) (e : RepairEntry) (s : State) : s.Answers (execRowRepairAdd src e s) :=
  .mpCmd (.refl s) (fun _ h0 => .ite (.badArg h0) (.ite (.okWith h0) (.okWith (.others h0))))

theorem execRowRepairClear_answers (src : Source) (e : RepairEntry) (s : State) : s.Answers (execRowRepairClear src e s) :=
  .mpCmd (.refl s) (fun _ h0 => .ite (.badArg h0) (.okWith (.others h0)))

theorem execDiagRun_answers (src : Source) (test target : Word) (pass : Bool) (s : State) : s.Answers (execDiagRun src test target pass s) :=
  .mpCmd (.refl s) (fun _ h0 => .ite (.badArg h0) (.ite (.badArg h0) (.ite (.denied h0) (.okWith (.others (.others h0))))))

/-! ### Samples, sizing loops, trips, thermal protection, glides and ageing, as each comes about -/

theorem execDroopDetect_answers (island : Fin 8768) (s : State) : s.Answers (execDroopDetect island s) :=
  .ite (.next (.refl s)) (.next (.others (.mapPower (.refl s))))

theorem execDroopEnd_answers (island : Fin 8768) (s : State) : s.Answers (execDroopEnd island s) := .next (.others (.refl s))

theorem execRegulatorSample_answers (vin iin watts : BitVec 16) (rails : List (BitVec 16)) (s : State) :
    s.Answers (execRegulatorSample vin iin watts rails s) :=
  .ite (.next (.refl s)) (.next (.others (.wait (.refl s))))

theorem execTelemStale_answers (s : State) : s.Answers (execTelemStale s) :=
  .ite (.next (.refl s)) (.next (.log (.powerBit (.others (.wait (.refl s))))))

theorem execActivityEstimate_answers (est dyn stat : List (BitVec 16)) (slacks : List IslandSlack) (s : State) :
    s.Answers (execActivityEstimate est dyn stat s slacks) := by
  refine .ite (.next (.refl s)) (.next ?_)
  generalize ht : (List.finRange 40).foldl _ s = t
  have h : s.Keeps t := ht ▸ .foldl (.refl s) fun _ _ h0 => .samplePhase (.mapPower h0)
  exact h.rest rfl

theorem execInnerLoop_answers (d : Fin 32) (s : State) : s.Answers (execInnerLoop d s) := .ite (.next (.refl s)) (.next (.mapPower (.refl s)))

theorem execOuterLoop_answers (fixed losses : BitVec 16) (s : State) : s.Answers (execOuterLoop fixed s losses) := by
  unfold Machine.execOuterLoop
  extract_lets t t₁
  have ht : s.Keeps t := .spread (.others (.refl s))
  have h₁ : s.Keeps t₁ := .ite (.breach ht) ht
  exact .ite (.next (.refl s)) (.ite (.next ht) (.next (.ite h₁ (.ite (.breach h₁) h₁))))

theorem execEstDiverge_answers (s : State) : s.Answers (execEstDiverge s) :=
  .ite (.next (.refl s)) (.next (.log (.powerBit (.others (.refl s)))))

theorem execCalibrationEnd_answers (s : State) : s.Answers (execCalibrationEnd s) := by
  unfold Machine.execCalibrationEnd
  split
  · exact .next (.refl s)
  · exact .next (.others (.wait (.refl s)))

theorem execIccTrip_answers (s : State) : s.Answers (execIccTrip s) :=
  .ite (.next (.log (.others (.refl s)))) (.ite (.next (.safetyAction (.others (.log (.others (.refl s))))))
    (.next (.breach (.log (.others (.refl s))))))

theorem execTripLift_answers (s : State) : s.Answers (execTripLift s) := .ite (.next (.refl s)) (.next (.others (.wait (.refl s))))

theorem State.Keeps.throttle {s₀ s : State} {d : Fin 40} {down : Bool} (h : s₀.Keeps s) : s₀.Keeps (s.throttle d down) :=
  .foldl h (fun _ _ h0 => .mapPower h0)

theorem State.Keeps.throttled {s₀ s : State} {d : Fin 40} {tj : ℕ} (h : s₀.Keeps s) : s₀.Keeps (s.throttled d tj) :=
  .ite (.mapPower (.throttle h)) h

theorem execTjSample_answers (d : Fin 40) (tj : BitVec 8) (s : State) : s.Answers (execTjSample d tj s) := by
  unfold Machine.execTjSample
  extract_lets t x hot since hotSince u u₁ u₂ long
  have hu : s.Keeps u := .mapPower (.throttled (.refl s))
  have h₁ : s.Keeps u₁ := .ite (.log (.powerBit hu)) hu
  have h₂ : s.Keeps u₂ := .ite (.log (.powerBit h₁)) h₁
  exact .next (.ite (.thermalShutdown h₂) h₂)

theorem execHbmTempReport_answers (stack : Fin 16) (temp : BitVec 8) (s : State) : s.Answers (execHbmTempReport stack temp s) :=
  .ite (.next (.log (.powerBit (.others (.others (.refl s)))))) (.ite (.next (.others (.others (.refl s)))) (.next (.others (.refl s))))

theorem execFreqGlideStep_answers (d : Fin 32) (s : State) : s.Answers (execFreqGlideStep d s) :=
  .ite (.next (.refl s)) (.next (.mapPower (.wait (.refl s))))

theorem State.Keeps.replanIsland {s₀ s : State} {sweep : Bool} {x : IslandSlack} (h : s₀.Keeps s) : s₀.Keeps (State.replanIsland sweep s x) :=
  .ite (.ite (.log (.powerBit (.others h))) (.others h))
    (.ite (.others (.log (.powerBit (.ite (.log (.powerBit (.others h))) (.others h)))))
    (.others (.log (.powerBit (.ite (.log (.powerBit (.others h))) (.others h))))))

theorem execAgeingReplan_answers (sweep : Bool) (slack : List IslandSlack) (s : State) : s.Answers (execAgeingReplan sweep slack s) :=
  .ite (.next (.refl s)) (.next (.others (.foldl (.ite (.refl s) (.wait (.refl s))) (fun _ _ h0 => .replanIsland h0))))

/-! ### Firmware images, their update by FW_UPDATE, the life cycle and the debug unlock -/

theorem State.Keeps.mapImages {s₀ s : State} {f : Images → Images} (h : s₀.Keeps s) : s₀.Keeps (s.mapImages f) := .others h

theorem State.Answers.fwAction {s₀ s : State} {src : Source} {q : Request} {body : State → Reply} (h : s₀.Keeps s)
    (hbody : ∀ a, s₀.Keeps a → s₀.Replies (body a)) : s₀.Answers (fwAction src q body s) :=
  .mpCmd h (fun _ h0 => .ite (.denied h0) (.ite (.denied h0) (hbody _ h0)))

theorem execFwQuery_answers (src : Source) (s : State) : s.Answers (execFwQuery src s) := .mpCmd (.refl s) (fun _ h0 => .okWith h0)

theorem execFwStage_answers (src : Source) (image : List Byte) (s : State) : s.Answers (execFwStage src image s) :=
  .fwAction (.refl s) (fun _ h0 => .ite (.badArg h0) (.okWith (.mapImages h0)))

theorem execFwChunk_answers (src : Source) (offset : Word) (data : List Byte) (s : State) : s.Answers (execFwChunk src offset data s) :=
  .fwAction (.refl s) (fun _ h0 => .ite (.badArg h0) (.ite (.badArg h0) (.okWith (.mapImages h0))))

theorem execFwVerify_answers (src : Source) (s : State) : s.Answers (execFwVerify src s) :=
  .fwAction (.refl s) (fun _ h0 => .ite (.okWith (.mapImages h0)) (.denied h0))

theorem execFwActivate_answers (src : Source) (immediate : Bool) (s : State) : s.Answers (execFwActivate src immediate s) :=
  .fwAction (.refl s) (fun _ h0 => .ite (.denied h0)
    (.ite (.denied h0) (.okWith (.ite (.resetSoon (.others (.mapImages h0))) (.mapImages h0)))))

theorem execFwAbort_answers (src : Source) (s : State) : s.Answers (execFwAbort src s) :=
  .fwAction (.refl s) (fun _ h0 => .okWith (.mapImages h0))

theorem execFwCommit_answers (src : Source) (s : State) : s.Answers (execFwCommit src s) := by
  refine .fwAction (.refl s) fun t ht => ?_
  dsimp only
  split
  · split
    next hc =>
      refine .okWith (.blow ht ⟨hc.2.2.2.le, rfl, fun k h => ?_, fun _ h => h, fun _ h => h⟩)
      rw [BitVec.getLsbD_or, h, Bool.true_or]
    next => exact .denied ht
  · exact .denied ht

theorem execLifecycleQuery_answers (src : Source) (s : State) : s.Answers (execLifecycleQuery src s) :=
  .mpCmd (.refl s) (fun _ h0 => .okWith h0)

theorem State.Replies.fettleThen {s₀ s : State} {src : Source} {a : FettleAct} (h : s₀.Keeps s) : s₀.Replies (s.fettleThen src a) :=
  .waiting (.addFettle h)

theorem execDeploy_answers (src : Source) (key : BitVec 768) (s : State) : s.Answers (execDeploy src key s) :=
  .mpCmd (.refl s) (fun _ h0 => .ite (.denied h0) (.ite (.denied h0) (.ite (.badArg h0) (.fettleThen h0))))

theorem execLifecycleChallenge_answers (src : Source) (purpose : Word) (s : State) : s.Answers (execLifecycleChallenge src purpose s) :=
  .mpCmd (.refl s) (fun _ h0 => .ite (.badArg h0) (.ite (.denied h0) (.ite (.denied h0) (.okWith (.others h0)))))

theorem State.Replies.authFail {s₀ s : State} (h : s₀.Keeps s) : s₀.Replies s.authFail := .denied (.log (.others h))

theorem execRespond_answers (src : Source) (purpose : Word) (auths : List Authorisation) (s : State) :
    s.Answers (execRespond src purpose auths s) := by
  unfold Machine.execRespond
  refine .mpCmd (.refl s) (fun _ h0 => .ite (.badArg (.others h0)) (.ite (.badArg (.others h0)) ?_))
  split
  · exact .denied (.others h0)
  · split
    · exact .authFail (.others h0)
    · exact .ite (.authFail (.others h0)) (.ite (.denied (.others h0)) (.fettleThen (.others h0)))

theorem execChallengeExpiry_answers (s : State) : s.Answers (execChallengeExpiry s) := by
  unfold Machine.execChallengeExpiry
  split
  · exact .next (.refl s)
  · exact .next (.others (.wait (.refl s)))

theorem execRelock_answers (src : Source) (s : State) : s.Answers (execRelock src s) :=
  .mpCmd (.refl s) (fun _ h0 => .ite (.denied h0) (.fettleThen h0))

/-! ### Resets and bring-up -/

theorem State.Keeps.resetModule {s₀ s : State} (h : s₀.Keeps s) : s₀.Keeps s.resetModule := by
  refine ⟨h.pending, h.fuses, fun hs => ?_⟩
  have hm := h.mem hs
  rw [State.canonical, Bool.and_eq_true]
  exact ⟨hm, rfl⟩

theorem State.Keeps.resetPower {s₀ s : State} (h : s₀.Keeps s) : s₀.Keeps s.resetPower := ⟨h.pending, h.fuses, fun _ => rfl⟩

theorem State.Keeps.beginBoot {s₀ s : State} {fails : BitVec 2} (h : s₀.Keeps s) : s₀.Keeps (s.beginBoot fails) := by
  refine h.trans ⟨rfl, ?_, id⟩
  show s.sec.fuses.Blown (if s.sec.fuses.decom ≠ 0 then { s.sec.fuses with decom := BitVec.allOnes 4, secret := BitVec.allOnes 256 } else
    s.sec.fuses)
  split
  · refine ⟨le_rfl, rfl, fun _ h => h, fun k h => ?_, fun k h => ?_⟩ <;> rw [BitVec.getLsbD_allOnes]
    · exact decide_eq_true (BitVec.lt_of_getLsbD h)
    · exact decide_eq_true (BitVec.lt_of_getLsbD h)
  · exact .refl _

theorem State.blown_cutFuses (s : State) (cut : ResetCut) : s.sec.fuses.Blown (s.cutFuses cut) := by
  unfold State.cutFuses
  extract_lets f g
  have hg : f.Blown g := by
    unfold g
    split
    · exact Fuses.blown_blown ..
    · exact .refl f
  split
  · split
    next hc => exact hg.trans ⟨hc.2.1, rfl, fun k h => by simp [BitVec.getLsbD_or, h], fun _ h => h, fun _ h => h⟩
    next => exact hg
  · exact hg

theorem State.Keeps.cutBy {s₀ s : State} {cut : ResetCut} (h : s₀.Keeps s) : s₀.Keeps (s.cutBy cut) := h.trans ⟨rfl, s.blown_cutFuses cut, id⟩
theorem execPowerOnReset_answers (cut : ResetCut) (s : State) : s.Answers (execPowerOnReset s cut) := .next (.resetPower (.cutBy (.refl s)))

theorem execModuleReset_answers (widthNs : ℕ) (cut : ResetCut) (s : State) : s.Answers (execModuleReset widthNs s cut) :=
  .next (.ite (.refl s) (.others (.resetModule (.cutBy (.refl s)))))

theorem execResetRelease_answers (bmcsel : Bool) (mid : BitVec 4) (fails : BitVec 2) (s : State) :
    s.Answers (execResetRelease bmcsel mid s fails) :=
  .ite (.next (.refl s)) (.next (.ite (.beginBoot (.others (.refl s))) (.others (.refl s))))

theorem execHotswapChargeDone_answers (fails : BitVec 2) (s : State) : s.Answers (execHotswapChargeDone s fails) :=
  .ite (.next (.refl s)) (.next (.ite (.beginBoot (.others (.others (.refl s)))) (.others (.refl s))))

theorem execDelayedReset_answers (fails : BitVec 2) (s : State) : s.Answers (execDelayedReset s fails) := by
  unfold Machine.execDelayedReset
  split
  · exact .next (.refl s)
  · exact .next (.beginBoot (.resetModule (.wait (.refl s))))

theorem execHostInterfaceReset_answers (hi : Fin 2) (pin : Bool) (s : State) : s.Answers (execHostInterfaceReset hi pin s) :=
  .next (.others (.refl s))

theorem execHiTrainingStart_answers (hi : Fin 2) (s : State) : s.Answers (execHiTrainingStart hi s) :=
  .ite (.next (.refl s)) (.next (.others (.wait (.refl s))))

theorem execBootImageVerify_answers (mpB : Bool) (s : State) : s.Answers (execBootImageVerify mpB s) :=
  .ite (.next (.refl s)) (.next (.others (.mapImages (.ite (.wait (.refl s)) (.refl s)))))

theorem execFirmwareStart_answers (mpB : Bool) (s : State) : s.Answers (execFirmwareStart mpB s) := by
  refine .ite (.next (.refl s)) ?_
  split
  · exact .next (.refl s)
  · exact .ite (.next (.rest (.refl s) rfl)) (.next (.rest (.refl s) rfl))

theorem execFwWatchdog_answers (mpB : Bool) (s : State) : s.Answers (execFwWatchdog mpB s) := by
  unfold Machine.execFwWatchdog
  extract_lets
  split
  · exact .ite (.next (.refl s)) (.ite (.next (.others (.mapImages (.wait (.refl s))))) (.next (.mapImages (.wait (.refl s)))))
  · exact .next (.refl s)

theorem State.Keeps.lose {s₀ s : State} {x : BootLoss} (h : s₀.Keeps s) : s₀.Keeps (s.lose x) := .log (.others h)

theorem execConfigRestore_answers (hbmFail : List (BitVec 10)) (lost : List BootLoss) (s : State) :
    s.Answers (execConfigRestore hbmFail s lost) :=
  .ite (.next (.refl s)) (.next (.foldl (.foldl (.followPlan (.others (.refl s))) (fun _ _ h0 => .channelCandidate h0))
    (fun _ _ h0 => .lose h0)))

theorem State.Keeps.bootMap {s₀ s : State} {d : ℕ} (h : s₀.Keeps s) : s₀.Keeps (s.bootMap d) := .ite h (.ite h (.mapMap h))
theorem State.Keeps.checkMap {s₀ s : State} {d : ℕ} (h : s₀.Keeps s) : s₀.Keeps (s.checkMap d) := .ite (.exhausted h) h

theorem State.Keeps.buildMaps {s₀ s : State} (h : s₀.Keeps s) : s₀.Keeps s.buildMaps :=
  .rejoin (.foldl (.rejoin h) (fun _ _ h0 => .settleDie (.checkMap (.bootMap h0))))

theorem execSelfTest_answers (failed : List CorePos) (s : State) : s.Answers (execSelfTest failed s) :=
  .ite (.next (.refl s)) (.next (.addFettle (.buildMaps (.applyHbmRepairs (.applyAllRepairs (.retireNodes (.others (.others (.refl s)))))))))

theorem execBringupPortTrain_answers (s : State) : s.Answers (execBringupPortTrain s) := by
  refine .ite (.next (.refl s)) (.next ?_)
  generalize ht : (List.finRange 48).foldl _ _ = t
  have h : s.Keeps t := ht ▸ .foldl (.others (.refl s)) fun _ _ h0 => .enablePort h0
  exact h.rest rfl

theorem State.Keeps.compareImages {s₀ s : State} (h : s₀.Keeps s) : s₀.Keeps s.compareImages := .ite h (.log (.others h))

theorem execBringupReady_answers (s : State) : s.Answers (execBringupReady s) :=
  .ite (.next (.refl s)) (.ite (.next (.compareImages (.refl s))) (.next (.log (.mapImages (.others (.compareImages (.refl s)))))))

/-! ### The board's supplies, cables and reference clock, and the test access port -/

theorem State.Keeps.mapBoard {s₀ s : State} {f : Board → Board} (h : s₀.Keeps s) : s₀.Keeps (s.mapBoard f) := .others h
theorem execSupplyLow_answers (s : State) : s.Answers (execSupplyLow s) := .ite (.next (.refl s)) (.next (.log (.refl s)))
theorem execOvervoltageCut_answers (s : State) : s.Answers (execOvervoltageCut s) := .next (.mapBoard (.resetPower (.refl s)))
theorem execHotswapReclose_answers (s : State) : s.Answers (execHotswapReclose s) := .next (.mapBoard (.refl s))

theorem execRefclkLoss_answers (s : State) : s.Answers (execRefclkLoss s) :=
  .next (.foldl (.mapBoard (.refl s)) (fun _ _ h0 => .ite h0 (.ite (.leaveActive (.mapPort h0)) (.mapPort h0))))

theorem execCablePresenceChange_answers (conn : Fin 8) (present : Bool) (s : State) : s.Answers (execCablePresenceChange conn present s) :=
  .next (.mapBoard (.refl s))

theorem execVcblOn_answers (conn : Fin 8) (s : State) : s.Answers (execVcblOn conn s) :=
  .ite (.next (.refl s)) (.next (.mapBoard (.wait (.refl s))))

theorem execVcblOvercurrent_answers (conn : Fin 8) (s : State) : s.Answers (execVcblOvercurrent conn s) :=
  .ite (.next (.refl s)) (.next (.mapBoard (.refl s)))

theorem execBypass_answers (s : State) : s.Answers (execBypass s) := .next (.mapBoard (.refl s))
theorem execIdcode_answers (s : State) : s.Answers (execIdcode s) := .next (.mapBoard (.refl s))

theorem execSamplePreload_answers (pins load : List Bool) (s : State) : s.Answers (execSamplePreload pins load s) :=
  .next (.mapBoard (.refl s))

theorem State.Answers.tapInReset {s₀ s : State} {i : TapInsn} {driving : Bool} (h : s₀.Keeps s) : s₀.Answers (tapInReset i driving s) :=
  .next (.mapBoard h)

theorem execExtest_answers (s : State) : s.Answers (execExtest s) := .tapInReset (.refl s)
theorem execClamp_answers (s : State) : s.Answers (execClamp s) := .tapInReset (.refl s)
theorem execHighz_answers (s : State) : s.Answers (execHighz s) := .tapInReset (.refl s)
theorem execTapPrivate_answers (code : Byte) (s : State) : s.Answers (execTapPrivate code s) := .next (.mapBoard (.refl s))
theorem execTapReset_answers (s : State) : s.Answers (execTapReset s) := .next (.mapBoard (.refl s))

end Sys2Proof.Machine
end

section
/-! PROOFS. What every step keeps: jumps, jobs, the debug service, caches, PLDM, SPDM and time. -/

namespace Sys2Proof.Machine

/-! ### Jumps, branches, hardware loops and the CSR instructions, with the commands that are the reads and writes of one CSR -/

theorem execJmp_answers (a : Site) (w : SeWord) (s : State) : s.Answers (execJmp a w s) :=
  .seCmd (.refl s) (fun _ _ _ h0 => .jump (.increments h0))

theorem execCall_answers (a : Site) (w : SeWord) (s : State) : s.Answers (execCall a w s) :=
  .seCmd (.refl s) (fun _ _ _ h0 => .jump (.increments (.writeDest h0)))

theorem Core.Tidy.branch {c : Core} {e : Env} {t : Fin 4} {len : BitVec 2} {o : Operands} {taken : Bool} (h : c.Tidy) :
    (Core.branch e t len o taken c).Tidy :=
  .ite (.jump (.increments h)) (.finish h)

theorem execB_answers (a : Site) (w : SeWord) (s : State) : s.Answers (execB a w s) :=
  .seCmd (.refl s) (fun _ _ _ h0 => .ite (.branch (.flag h0)) (.branch h0))

theorem execBu_answers (a : Site) (w : SeWord) (s : State) : s.Answers (execBu a w s) := .seCmd (.refl s) (fun _ _ _ h0 => .branch h0)

theorem execLoop_answers (a : Site) (w : SeWord) (s : State) : s.Answers (execLoop a w s) :=
  .seCmd (.refl s) (fun _ _ _ h0 => .ite (.jump (.increments h0)) (.mapR (.increments h0)))

theorem execLbreak_answers (a : Site) (w : SeWord) (s : State) : s.Answers (execLbreak a w s) :=
  .seCmd (.refl s) (fun _ _ _ h0 => .finish (.mapR h0))

theorem State.Answers.csrrCmd {s₀ s : State} {here : ℕ → Bool} {a : Site} {w : SeWord} (h : s₀.Keeps s) : s₀.Answers (csrrCmd here a w s) :=
  .seCmd h (fun _ _ _ h0 => .finish (.writeDest (.csrReadEffect h0)))

theorem State.Answers.csrwCmd {s₀ s : State} {here : Core → ℕ → ℕ → Bool} {a : Site} {w : SeWord} (h : s₀.Keeps s) :
    s₀.Answers (Machine.csrwCmd here a w s) := by
  refine .seCmd h fun e o c hc => ?_
  have hw := CsrAct.Tidy.csrWrite (e := e) (t := a.thread) (num := o.a.value c a.thread) (w := w) (v := o.b.value c a.thread % 2 ^ 32) hc
  split
  next heq =>
    rw [heq] at hw
    exact .finish hw
  next heq =>
    rw [heq] at hw
    exact .mapTh hw
  · exact hc

theorem execCsrr_answers (a : Site) (w : SeWord) (s : State) : s.Answers (execCsrr a w s) := .csrrCmd (.refl s)
theorem execCsrw_answers (a : Site) (w : SeWord) (s : State) : s.Answers (execCsrw a w s) := .csrwCmd (.refl s)
theorem execCycleLoRead_answers (a : Site) (w : SeWord) (s : State) : s.Answers (execCycleLoRead a w s) := .csrrCmd (.refl s)
theorem execTimeLoRead_answers (a : Site) (w : SeWord) (s : State) : s.Answers (execTimeLoRead a w s) := .csrrCmd (.refl s)
theorem execLdepthWrite_answers (a : Site) (w : SeWord) (s : State) : s.Answers (execLdepthWrite a w s) := .csrwCmd (.refl s)
theorem execRnctlWrite_answers (a : Site) (w : SeWord) (s : State) : s.Answers (execRnctlWrite a w s) := .csrwCmd (.refl s)
theorem execRunnerFlush_answers (a : Site) (w : SeWord) (s : State) : s.Answers (execRunnerFlush a w s) := .csrwCmd (.refl s)
theorem execEvtmrCntWrite_answers (a : Site) (w : SeWord) (s : State) : s.Answers (execEvtmrCntWrite a w s) := .csrwCmd (.refl s)
theorem execCvctlWrite_answers (a : Site) (w : SeWord) (s : State) : s.Answers (execCvctlWrite a w s) := .csrwCmd (.refl s)
theorem execCvseedWrite_answers (a : Site) (w : SeWord) (s : State) : s.Answers (execCvseedWrite a w s) := .csrwCmd (.refl s)
theorem execCvrmaxRcRead_answers (a : Site) (w : SeWord) (s : State) : s.Answers (execCvrmaxRcRead a w s) := .csrrCmd (.refl s)
theorem execCvsatRead_answers (a : Site) (w : SeWord) (s : State) : s.Answers (execCvsatRead a w s) := .csrrCmd (.refl s)
theorem execVgWakeWrite_answers (a : Site) (w : SeWord) (s : State) : s.Answers (execVgWakeWrite a w s) := .csrwCmd (.refl s)
theorem execTcfgWrite_answers (a : Site) (w : SeWord) (s : State) : s.Answers (execTcfgWrite a w s) := .csrwCmd (.refl s)
theorem execDqResume_answers (a : Site) (w : SeWord) (s : State) : s.Answers (execDqResume a w s) := .csrwCmd (.refl s)
theorem execDqFlush_answers (a : Site) (w : SeWord) (s : State) : s.Answers (execDqFlush a w s) := .csrwCmd (.refl s)
theorem execGateOpen_answers (a : Site) (w : SeWord) (s : State) : s.Answers (execGateOpen a w s) := .csrwCmd (.refl s)
theorem execGateClose_answers (a : Site) (w : SeWord) (s : State) : s.Answers (execGateClose a w s) := .csrwCmd (.refl s)
theorem execGateRegWrite_answers (a : Site) (w : SeWord) (s : State) : s.Answers (execGateRegWrite a w s) := .csrwCmd (.refl s)

theorem execGateCloseComplete_answers (core : BitVec 13) (gate : Fin 16) (s : State) : s.Answers (execGateCloseComplete core gate s) :=
  .onCore (.refl s) (fun _ _ h0 => .settleGate h0)

/-! ### JOB_START, JOB_STATUS, JOB_KILL with its quarantine, and the capture of a killed job's cores -/

theorem Core.Tidy.start {c : Core} (h : c.Tidy) : (Core.start c).Tidy := .others h

theorem State.Keeps.restoreCores {s₀ s : State} {j : Fin 8} {n : Word} (h : s₀.Keeps s) : s₀.Keeps (s.restoreCores j n) := by
  unfold State.restoreCores
  split
  · exact h
  · exact .foldl h fun t x ht => .setCore ht fun _ => .afterReset State.tidy_restoreFrom

theorem State.Keeps.startPower {s₀ s : State} (h : s₀.Keeps s) : s₀.Keeps s.startPower := .others h

theorem State.Keeps.startJob {s₀ s : State} {j : Fin 8} {resume : Option Word} (h : s₀.Keeps s) : s₀.Keeps (s.startJob j resume) := by
  unfold State.startJob
  extract_lets t t₁ t₂ none_ t₃
  have ht : s₀.Keeps t := by
    unfold t
    split
    · exact .restoreCores h
    · exact h
  have h₁ : s₀.Keeps t₁ := .ite ht (.foldl ht fun _ _ h0 => .setCore h0 fun hs => .start (h0.core _ hs))
  have h₂ : s₀.Keeps t₂ := .mapFlask (.startPower h₁)
  have h₃ : s₀.Keeps t₃ := .jobNotice (.mapJob h₂)
  exact .ite (.jobNotice (.mapJob h₃)) h₃

theorem execJobStart_answers (src : Source) (job : BitVec 8) (resume : Bool) (s : State) : s.Answers (execJobStart src job resume s) :=
  .mpCmd (.refl s) (fun _ h0 => .withJob h0 (fun _ _ h1 => .ite (.denied h1)
    (.ite (.denied h1) (.ite (.notReady h1) (.okWith (.startJob h1))))))

theorem execJobStatus_answers (src : Source) (job : BitVec 8) (s : State) : s.Answers (execJobStatus src job s) :=
  .mpCmd (.refl s) (fun _ h0 => .ite (.badArg h0) (.okWith h0))

theorem Core.Tidy.detach {c : Core} {e : Env} (h : c.Tidy) : (Core.detach e c).Tidy := .foldl (.others h) (fun _ _ h0 => .ite (.setSt h0) h0)

theorem Core.Tidy.killed {c : Core} {e : Env} (h : c.Tidy) : (Core.killed e c).Tidy :=
  ⟨.others (Core.Tidy.spm (.halted (.detach h))), .others (Core.Tidy.ve (.halted (.detach h))), .others (Core.Tidy.me (.halted (.detach h)))⟩

theorem State.Keeps.dropRequests {s₀ s : State} {ids : List CoreId} {mirror : Bool} (h : s₀.Keeps s) : s₀.Keeps (s.dropRequests ids mirror) :=
  .others h

theorem State.Keeps.killJob {s₀ s : State} {j : Fin 8} {seq : Word} (h : s₀.Keeps s) : s₀.Keeps (s.killJob j seq) := by
  unfold State.killJob
  extract_lets ids pours told t t₁ m o t₂ t₃ t₄
  have ht : s₀.Keeps t := .foldl h fun _ _ h0 => .setCore h0 fun hs => .killed (h0.core _ hs)
  have h₁ : s₀.Keeps t₁ := .dropRequests ht
  have h₂ : s₀.Keeps t₂ := .ite (.others (.mapFlask h₁)) h₁
  have h₃ : s₀.Keeps t₃ := .mapJob h₂
  exact .jobNotice (.ite (.post h₃) h₃)

theorem State.Keeps.denyClaims {s₀ s : State} {src : Source} {j : Fin 8} (h : s₀.Keeps s) : s₀.Keeps (s.denyClaims src j) :=
  .foldl h (fun _ _ h0 => .ite (.complete (.undoCommand h0)) h0)

theorem execJobKill_answers (src : Source) (job : BitVec 8) (s : State) : s.Answers (execJobKill src job s) := by
  unfold Machine.execJobKill
  refine .mpCmd (.refl s) (fun _ h0 => .withJob h0 (fun _ _ h1 => .ite ?_ (.waiting (.killJob (.denyClaims h1)))))
  split
  · exact .okWith h1
  · exact .okWith (.others h1)

theorem State.Keeps.killFettle {s₀ s : State} {j : Fin 8} (h : s₀.Keeps s) : s₀.Keeps (s.killFettle j) := .ite h (.addFettle h)

theorem State.Keeps.killAnswer {s₀ s : State} {j : Fin 8} (h : s₀.Keeps s) : s₀.Keeps (s.killAnswer j) := by
  unfold State.killAnswer
  extract_lets
  split
  · exact .complete h
  · exact h

theorem execQuarantineInForce_answers (job : Fin 8) (s : State) : s.Answers (execQuarantineInForce job s) :=
  .ite (.next (.refl s)) (.next (.ite (.killAnswer (.mapJob (.refl s))) (.killFettle (.killAnswer (.mapJob (.refl s))))))

theorem State.Keeps.captureAll {s₀ s : State} {ids : List CoreId} {a : ℕ} (h : s₀.Keeps s) : s₀.Keeps (s.captureAll ids a) := by
  induction ids generalizing s a with
  | nil => exact h
  | cons id ids ih =>
    unfold State.captureAll
    exact ih (.hbmPut h)

theorem Core.Tidy.captureMeet {c : Core} {spmSize : ℕ} {x : CoreFindings} (h : c.Tidy) : (Core.captureMeet spmSize x c).Tidy := .recordMeet h

theorem execCapture_answers (job : Fin 8) (cores : List CoreFindings) (s : State) : s.Answers (execCapture job s cores) := by
  unfold Machine.execCapture
  refine .ite (.next (.refl s)) ?_
  split
  · exact .next (.killFettle (.mapJob (.captureAll (.findCores (.refl s) (fun _ _ h0 => .captureMeet h0)))))
  · exact .next (.refl s)

/-! ### The debug service -/

theorem State.Replies.withCore {s₀ s : State} {src : Source} {id : CoreId} {offset : ℕ} {f : State → Reply} (h : s₀.Keeps s)
    (hf : ∀ a, s₀.Keeps a → s₀.Replies (f a)) : s₀.Replies (withCore src id offset f s) := by
  unfold Machine.withCore
  refine .ite (.badArg h) ?_
  split
  · exact .denied h
  · exact hf _ h

theorem Core.Tidy.attach {c : Core} {e : Env} (h : c.Tidy) : (Core.attach e c).Tidy := .ite h (.traceSync (.others h))
theorem Core.Tidy.askHalt {c : Core} {threads : BitVec 4} (h : c.Tidy) : (Core.askHalt threads c).Tidy := .others h

theorem execDebugHalt_answers (src : Source) (core : BitVec 13) (threads : BitVec 4) (attach : Bool) (s : State) :
    s.Answers (execDebugHalt src core threads attach s) :=
  .mpCmd (.refl s) (fun _ h0 => .withCore h0 (fun _ h1 => .okWith (.onCore h1 (fun _ _ h2 => .askHalt (.ite (.attach h2) h2)))))

theorem Core.Tidy.resumeThread {c : Core} {e : Env} {t : Fin 4} (h : c.Tidy) : (Core.resumeThread e t c).Tidy :=
  .ite (.mapTh (.setSt (.trace h))) h

theorem Core.Tidy.debugResume {c : Core} {e : Env} {threads : BitVec 4} {attach : Bool} (h : c.Tidy) :
    (Core.debugResume e threads attach c).Tidy :=
  .ite (.detach (.foldl (.ite (.attach h) h) (fun _ _ h0 => .ite (.resumeThread h0) h0)))
    (.foldl (.ite (.attach h) h) (fun _ _ h0 => .ite (.resumeThread h0) h0))

theorem execDebugResume_answers (src : Source) (core : BitVec 13) (threads : BitVec 4) (attach : Bool) (s : State) :
    s.Answers (execDebugResume src core threads attach s) :=
  .mpCmd (.refl s) (fun _ h0 => .withCore h0 (fun _ h1 => .okWith (.onCore h1 (fun _ _ h2 => .debugResume h2))))

theorem Ve.Tidy.fileWrite {v : Ve} {a : ℕ} {l : List Byte} (h : v.Tidy) : (v.fileWrite a l).Tidy := by
  induction l generalizing v a with
  | nil => exact h
  | cons b bs ih => exact ih (.ite ⟨memWrite_wf _ _ _ h.regs⟩ (.others h))

theorem Ve.Tidy.fileClean {v : Ve} {a n : ℕ} (h : v.Tidy) : (Ve.fileClean v a n).Tidy := .others h
theorem Me.Tidy.fileWake {m : Me} {a len : ℕ} (h : m.Tidy) : (Me.fileWake m a len).Tidy := .others h

theorem Me.Tidy.fileWrite {m : Me} {a : ℕ} {data : List Byte} (h : m.Tidy) : (m.fileWrite a data).Tidy := by
  have hu : ((m.fileWake a data.length).unlatch (Fin.ofNat 8 (a / tileSpan))).Tidy := .unlatch (.fileWake h)
  exact .use ⟨memWriteN_wf _ _ _ hu.tiles, memWriteN_wf _ _ _ hu.side⟩

theorem Core.Tidy.debugMeet {c : Core} {space addr n : ℕ} {found : List SpmFinding} {regs : List RegFinding} (h : c.Tidy) :
    (Core.debugMeet space addr n found regs c).Tidy := by
  unfold Core.debugMeet
  extract_lets
  split
  · exact .meet h
  · exact .veFind h
  · exact .meFind h
  · exact h

theorem Core.Tidy.putDbg {c : Core} {e : Env} {num : ℕ} {v : Word} (h : c.Tidy) : (Core.putDbg e num v c).Tidy := by
  unfold Core.putDbg
  extract_lets
  split
  · exact .ite (.traceSync (.others h)) (.others h)
  · exact .ite h (.others h)
  · exact .ite h (.others h)
  · exact .others h
  · exact .ite (.others h) (.ite (.others h) h)

/-! ### Commands on flasks, pours and recovery -/

theorem State.Keeps.setBind {s₀ s : State} {b : FlaskBind} (h : s₀.Keeps s) : s₀.Keeps (s.setBind b) := .others h

theorem State.Answers.flaskBind {s₀ s : State} {src : Source} {keep : Bool} {partner : ModuleId} {c u : Word} {peer : PeerBind}
    (h : s₀.Keeps s) : s₀.Answers (flaskBind src keep partner c u peer s) := by
  unfold Machine.flaskBind
  refine .mpCmd h (fun _ h0 => ?_)
  split
  · exact .badArg h0
  · split
    · exact .badArg h0
    · exact .waiting (.mapFlask h0)
    · exact .ite (.okWith (.mapFlask h0)) (.okWith (.changeNotice (.mapFlask (.setBind h0))))

theorem execFlaskBind_answers (src : Source) (partner : BitVec 13) (c u : BitVec 32) (peer : PeerBind) (s : State) :
    s.Answers (execFlaskBind src partner c u peer s) :=
  .flaskBind (.refl s)

theorem execFlaskBindKeep_answers (src : Source) (partner : BitVec 13) (c u : BitVec 32) (peer : PeerBind) (s : State) :
    s.Answers (execFlaskBindKeep src partner c u peer s) :=
  .flaskBind (.refl s)

theorem execFlaskUnbind_answers (src : Source) (s : State) : s.Answers (execFlaskUnbind src s) :=
  .mpCmd (.refl s) (fun _ h0 => .ite (.denied h0) (.okWith
    (.ite (.addFettle (.changeNotice (.mapFlask (.setBind h0)))) (.changeNotice (.mapFlask (.setBind h0))))))

theorem execPourPolicyDeclare_answers (src : Source) (job : BitVec 8) (p : PourDecl) (s : State) :
    s.Answers (execPourPolicyDeclare src job p s) := by
  unfold Machine.execPourPolicyDeclare
  refine .mpCmd (.refl s) (fun _ h0 => .withJob h0 (fun _ _ h1 => ?_))
  split
  · exact .badArg h1
  · exact .okWith (.mapFlask h1)

theorem execPourPolicyQuery_answers (src : Source) (job : BitVec 8) (s : State) : s.Answers (execPourPolicyQuery src job s) :=
  .mpCmd (.refl s) (fun _ h0 => .withJob h0 (fun _ _ h1 => .okWith h1))

theorem State.Keeps.writeBack {s₀ s : State} {gen : ℕ} (h : s₀.Keeps s) : s₀.Keeps (s.writeBack gen) := .foldl h (fun _ _ h0 => .hbmPut h0)

theorem State.Keeps.undoBack {s₀ s : State} {gen : ℕ} (h : s₀.Keeps s) : s₀.Keeps (s.undoBack gen) :=
  .foldl h fun _ _ ht => .foldl ht fun _ _ hu => .ite (.hbmPut hu) hu

theorem State.Keeps.restorePour {s₀ s t : State} {others : List Word} {r : Word} (h : s₀.Keeps s) (ht : s.restorePour others = some (t, r)) :
    s₀.Keeps t := by
  unfold State.restorePour at ht
  dsimp only at ht
  split at ht
  · cases ht
  split at ht
  · cases ht; exact .writeBack h
  split at ht
  · cases ht
  cases ht
  exact .undoBack (.writeBack (.ite (.writeBack h) h))

theorem Core.Tidy.rolledCore {s : State} {id : CoreId} : (s.rolledCore id).Tidy := .afterReset (.others Core.tidy_reset)

theorem State.Keeps.replaceShort {s₀ s : State} {id : CoreId} (h : s₀.Keeps s) : s₀.Keeps (s.replaceShort id) := by
  unfold State.replaceShort
  split
  · exact .ite (.replaceCore h) h
  · exact h

theorem State.Keeps.resetCores {s₀ s : State} {j : Fin 8} (h : s₀.Keeps s) : s₀.Keeps (s.resetCores j) :=
  .dropRequests (.foldl (.foldl (.applyRepairs h) (fun _ _ h0 => .replaceShort h0))
    (fun _ _ h0 => .setCore h0 (fun _ => Core.Tidy.rolledCore)))

theorem State.Keeps.rollbackJob {s₀ s : State} {j : Fin 8} {others : List Word} (h : s₀.Keeps s) : s₀.Keeps (s.rollbackJob j others) := by
  have hr : s₀.Keeps (s.resetCores j) := .resetCores h
  unfold State.rollbackJob
  extract_lets t
  have ht : s₀.Keeps t := hr
  split
  next u r heq =>
    have hu : s₀.Keeps u := by
      split at heq
      · exact ht.restorePour heq
      · cases heq
    exact .mapJob (.runHeld (.mapFlask hu))
  next => exact .faultJob (.mapFlask ht)

theorem execRollback_answers (src : Source) (job : BitVec 8) (others : List (BitVec 32)) (s : State) :
    s.Answers (execRollback src job s others) :=
  .mpCmd (.refl s) (fun _ h0 => .withJob h0 (fun _ _ h1 => .ite (.badArg h1) (.okWith (.rollbackJob h1))))

theorem execRemap_answers (src : Source) (job : BitVec 8) (cores : List (BitVec 32)) (s : State) : s.Answers (execRemap src job cores s) := by
  unfold Machine.execRemap
  refine .mpCmd (.refl s) (fun _ h0 => .withJob h0 (fun _ _ h1 => .ite (.badArg h1) (.ite (.badArg h1) ?_)))
  split
  · exact .badArg h1
  · exact .okWith (.mapFlask h1)

theorem execPourNow_answers (src : Source) (job : BitVec 8) (s : State) : s.Answers (execPourNow src job s) := by
  unfold Machine.execPourNow
  refine .mpCmd (.refl s) (fun _ h0 => .withJob h0 (fun _ _ h1 => ?_))
  split
  · exact .ite (.badArg h1) (.okWith (.foldl h1 (fun _ _ h2 => .setCore h2 (fun hs => .mapSpm (h2.core _ hs) (fun _ h3 => .write h3)))))
  · exact .badArg h1

theorem execFailoverAdopt_answers (src : Source) (job : BitVec 8) (x p : BitVec 13) (rp : BitVec 32) (xCode : OrderingCode) (s : State) :
    s.Answers (execFailoverAdopt src job x p rp xCode s) :=
  .mpCmd (.refl s) (fun _ h0 => .withJob h0 (fun _ _ h1 => .ite (.denied h1) (.waiting (.settleAdoption (.mapFlask h1)))))

theorem execMirrorStatus_answers (src : Source) (s : State) : s.Answers (execMirrorStatus src s) := .mpCmd (.refl s) (fun _ h0 => .okWith h0)

/-! ### The instruction cache of a core and the code cache of a die -/

theorem execDccTakeOffer_answers (die : Fin 32) (s : State) : s.Answers (execDccTakeOffer die s) := .next (.mapDie (.refl s))

theorem State.Keeps.dccMeet {s₀ s : State} {die set line : ℕ} {f : LineFinding} (h : s₀.Keeps s) : s₀.Keeps (s.dccMeet die set line f).1 := by
  unfold State.dccMeet
  dsimp only
  split
  · exact h
  · exact h
  · dsimp only
    exact .log h
  · dsimp only
    exact .log (.mapDie h)

theorem State.Keeps.codeLine {s₀ s : State} {id : CoreId} {line : ℕ} {dcc : LineFinding} {ext : HbmFinding} (h : s₀.Keeps s) :
    s₀.Keeps (s.codeLine id line dcc ext).1 := by
  unfold State.codeLine
  dsimp only
  split
  · dsimp only
    exact .mapDie (.dccMeet h)
  · exact .hbmRead (.dccMeet h)

theorem State.Keeps.offerLine {s₀ s : State} {id : CoreId} {v : Option IcLine} (h : s₀.Keeps s) : s₀.Keeps (s.offerLine id v) := by
  unfold State.offerLine
  split
  · exact .mapDie h
  · exact h

theorem Core.Tidy.fetchFail {c : Core} {e : Env} {cause : BitVec 8} {line : ℕ} {threads : BitVec 4} (h : c.Tidy) :
    (Core.fetchFail e cause line threads c).Tidy := by
  unfold Core.fetchFail
  refine .foldl h (fun _ _ h0 => ?_)
  split
  · exact .ite (.takeExc h0) h0
  · exact h0

theorem State.Keeps.codeFlit {s₀ s : State} {id : CoreId} {line : ℕ} {x : State × CodeLine} {flit : FlitFinding} (hx : s₀.Keeps x.1) :
    s₀.Keeps (s.codeFlit id line x flit).1 := by
  unfold State.codeFlit
  extract_lets
  split
  · exact hx
  · extract_lets
    split
    · exact State.Keeps.flitLost hx
    · exact hx
  · exact State.Keeps.flitWords hx

theorem State.Keeps.fillLine {s₀ s : State} {id : CoreId} {m : IcMiss} {dcc : LineFinding} {ext : HbmFinding} {flit : FlitFinding}
    (h : s₀.Keeps s) : s₀.Keeps (s.fillLine id m dcc ext flit) := by
  unfold State.fillLine
  refine .ite (.onCore h (fun _ _ h0 => .others h0))
    (.ite (.onCore (.codeFlit (.codeLine h)) (fun _ _ h0 => .fetchFail (.others h0)))
    (.ite (.onCore (.codeFlit (.codeLine h)) (fun _ _ h0 => .fetchFail (.others h0))) ?_))
  extract_lets
  split
  · exact .onCore (.codeFlit (.codeLine h)) (fun _ _ h0 => .others h0)
  · exact .onCore (.offerLine (.codeFlit (.codeLine h))) (fun _ _ h0 => .others h0)

theorem execIcLineFill_answers (core : BitVec 13) (line : BitVec 25) (dcc : LineFinding) (ext : HbmFinding) (flit : FlitFinding) (s : State) :
    s.Answers (execIcLineFill core line dcc s ext flit) := by
  unfold Machine.execIcLineFill
  refine .ite (.next (.refl s)) ?_
  split
  · exact .next (.fillLine (.refl s))
  · exact .ite (.next (.refl s)) (.onCore (.refl s) (fun _ _ h0 => .others h0))

theorem Core.Tidy.disableWay {c : Core} {w : Fin 4} (h : c.Tidy) : (Core.disableWay w c).Tidy := .post (.others h)

theorem execIcParityError_answers (core : BitVec 13) (line : BitVec 25) (dcc : LineFinding) (ext : HbmFinding) (flit : FlitFinding)
    (s : State) : s.Answers (execIcParityError core line s dcc ext flit) := by
  unfold Machine.execIcParityError
  extract_lets
  split
  · exact .next (.refl s)
  · exact .ite (.next (.refl s)) (.onCore (.codeFlit (.codeLine (.refl s)))
      (fun _ _ h0 => .ite (.ite (.disableWay (.post (.others h0))) (.post (.others h0)))
      (.fetchFail (.ite (.disableWay (.post (.others h0))) (.post (.others h0))))))

theorem execIcErrWindow_answers (core : BitVec 13) (s : State) : s.Answers (execIcErrWindow core s) :=
  .onCore (.refl s) (fun _ _ h0 => .others h0)

theorem Core.Tidy.deEnqueue {c : Core} {x : DeEntry} (h : c.Tidy) : (Core.deEnqueue x c).Tidy := .trim (.others h)

theorem execIcinv_answers (a : Site) (w : SeWord) (s : State) : s.Answers (execIcinv a w s) :=
  .seCmd (.refl s) (fun _ _ _ h0 => .deEnqueue (.mapTh h0))

theorem execIcpf_answers (a : Site) (w : SeWord) (s : State) : s.Answers (execIcpf a w s) :=
  .seCmd (.refl s) (fun _ _ _ h0 => .finish (.deEnqueue h0))

theorem Core.Tidy.icinvDone {c : Core} (h : c.Tidy) : (Core.icinvDone c).Tidy := by
  unfold Core.icinvDone
  split
  · refine .ite h ?_
    extract_lets
    split
    · exact .ite (.complete (.trim (.others h))) (.trim (.others h))
    · exact .trim (.others h)
  · exact h

theorem execIcinvComplete_answers (core : BitVec 13) (s : State) : s.Answers (execIcinvComplete core s) :=
  .onCore (.refl s) (fun _ _ h0 => .icinvDone h0)

theorem State.Keeps.preload {s₀ s : State} {id : CoreId} {w : Fin 4} {line : ℕ} {dcc : LineFinding} {ext : HbmFinding} {flit : FlitFinding}
    (h : s₀.Keeps s) : s₀.Keeps (s.preload id w line dcc ext flit) :=
  .ite h (.ite (.codeFlit (.codeLine h)) (.offerLine
    (.setCore (.codeFlit (.codeLine h)) (fun hs => .others (State.Keeps.core (.codeFlit (.codeLine h)) _ hs)))))

theorem execIcpfExecute_answers (core : BitVec 13) (dcc : List LineFinding) (ext : List HbmFinding) (flit : List FlitFinding) (s : State) :
    s.Answers (execIcpfExecute core s dcc ext flit) := by
  unfold Machine.execIcpfExecute
  extract_lets
  split
  · exact .ite (.next (.refl s)) (.onCore (.foldl (.refl s) (fun _ _ h0 => .preload h0)) (fun _ _ h0 => .trim (.others h0)))
  · exact .next (.refl s)

/-! ### The two management processors -/

theorem execMpHeartbeat_answers (toA : Bool) (s : State) : s.Answers (execMpHeartbeat toA s) :=
  .ite (.next (.refl s)) (.next (.others (.wait (.refl s))))

theorem State.Keeps.takeover {s₀ s : State} (h : s₀.Keeps s) : s₀.Keeps s.takeover := by
  unfold State.takeover
  exact .log (.log (.signalBoth (.others (.others h))))

theorem execMpLost_answers (byB : Bool) (cause : MpLoss) (s : State) : s.Answers (execMpLost byB s cause) :=
  .ite (.next (.refl s)) (.ite (.next (.takeover (.wait (.refl s)))) (.next (.log (.others (.wait (.refl s))))))

theorem execHbWordRefresh_answers (s : State) : s.Answers (execHbWordRefresh s) := .ite (.next (.refl s)) (.next (.others (.wait (.refl s))))

/-! ### PLDM for firmware update and for platform monitoring over the BMC's bus -/

theorem State.Keeps.pldm {s₀ s : State} {out : List Byte} (h : s₀.Keeps s) : s₀.Keeps (s.pldm out) := .others h

theorem State.Keeps.mapUpd {s₀ s : State} {f : Security → Security} (h : s₀.Keeps s) (hf : ∀ x, (f x).fuses = x.fuses) :
    s₀.Keeps (s.mapUpd f) := by
  refine h.trans ⟨rfl, ?_, id⟩
  rw [State.mapUpd, hf]
  exact .refl _

theorem State.Answers.pldmCmd {s₀ s : State} {rom : Bool} {body : State → State} (h : s₀.Keeps s)
    (hbody : ∀ a, s₀.Keeps a → s₀.Keeps (body a)) : s₀.Answers (pldmCmd rom body s) :=
  .ite (.next h) (.next (hbody _ h))

theorem execQueryDeviceIdentifiers_answers (s : State) : s.Answers (execQueryDeviceIdentifiers s) := .pldmCmd (.refl s) (fun _ h0 => .pldm h0)
theorem execGetFirmwareParameters_answers (s : State) : s.Answers (execGetFirmwareParameters s) := .pldmCmd (.refl s) (fun _ h0 => .pldm h0)

theorem execRequestUpdate_answers (_maxTransfer : Word) (s : State) : s.Answers (execRequestUpdate _maxTransfer s) :=
  .pldmCmd (.refl s) (fun _ h0 => .ite (.pldm h0) (.ite (.pldm h0) (.pldm (.mapUpd h0 (fun _ => rfl)))))

theorem State.Answers.updCmd {s₀ s : State} {st : UpdateState} {body : State → State} (h : s₀.Keeps s)
    (hbody : ∀ a, s₀.Keeps a → s₀.Keeps (body a)) : s₀.Answers (updCmd st body s) :=
  .pldmCmd h (fun _ h0 => .ite (.pldm h0) (.ite (.pldm h0) (hbody _ h0)))

theorem execPassComponentTable_answers (component : BitVec 16) (s : State) : s.Answers (execPassComponentTable component s) :=
  .updCmd (.refl s) (fun _ h0 => .ite (.pldm (.mapUpd h0 (fun _ => rfl))) (.pldm h0))

theorem execUpdateComponent_answers (component : BitVec 16) (size : Word) (s : State) : s.Answers (execUpdateComponent component size s) :=
  .updCmd (.refl s) (fun _ h0 => .ite (.pldm h0) (.pldm (.mapUpd h0 (fun _ => rfl))))

theorem execRequestFirmwareData_answers (offset : Word) (data : List Byte) (s : State) : s.Answers (execRequestFirmwareData offset data s) :=
  .ite (.next (.refl s)) (.next (.mapUpd (.refl s) (fun _ => rfl)))

theorem execTransferComplete_answers (s : State) : s.Answers (execTransferComplete s) :=
  .next (.ite (.mapUpd (.refl s) (fun _ => rfl)) (.refl s))

theorem execVerifyComplete_answers (s : State) : s.Answers (execVerifyComplete s) :=
  .next (.ite (.ite (.mapUpd (.refl s) (fun _ => rfl)) (.mapUpd (.refl s) (fun _ => rfl))) (.refl s))

theorem execApplyComplete_answers (s : State) : s.Answers (execApplyComplete s) :=
  .next (.ite (.ite (.mapUpd (.refl s) (fun _ => rfl)) (.mapUpd (.refl s) (fun _ => rfl))) (.refl s))

theorem execActivateFirmware_answers (s : State) : s.Answers (execActivateFirmware s) :=
  .updCmd (.refl s) (fun _ h0 => .ite (.pldm h0) (.pldm (.mapUpd h0 (fun _ => rfl))))

theorem execGetStatus_answers (s : State) : s.Answers (execGetStatus s) := .pldmCmd (.refl s) (fun _ h0 => .pldm h0)

theorem execCancelUpdate_answers (s : State) : s.Answers (execCancelUpdate s) :=
  .pldmCmd (.refl s) (fun _ h0 => .ite (.pldm h0) (.pldm (.mapUpd h0 (fun _ => rfl))))

theorem execGetPdr_answers (record : Word) (s : State) : s.Answers (execGetPdr record s) := by
  unfold Machine.execGetPdr
  refine .pldmCmd (.refl s) (fun _ h0 => ?_)
  extract_lets
  split
  · exact .pldm h0
  · exact .pldm h0

theorem execGetPdrRepositoryInfo_answers (s : State) : s.Answers (execGetPdrRepositoryInfo s) := .pldmCmd (.refl s) (fun _ h0 => .pldm h0)

theorem execGetSensorReading_answers (sensor : BitVec 16) (s : State) : s.Answers (execGetSensorReading sensor s) :=
  .pldmCmd (.refl s) (fun _ h0 => .ite (.pldm h0) (.ite (.pldm h0) (.pldm h0)))

theorem execGetStateSensorReadings_answers (sensor : BitVec 16) (s : State) : s.Answers (execGetStateSensorReadings sensor s) :=
  .pldmCmd (.refl s) (fun _ h0 => .ite (.pldm h0) (.pldm h0))

theorem execSetNumericSensorEnable_answers (sensor : BitVec 16) (enable : Bool) (s : State) :
    s.Answers (execSetNumericSensorEnable sensor enable s) :=
  .pldmCmd (.refl s) (fun _ h0 => .ite (.pldm h0) (.pldm (.mapUpd h0 (fun _ => rfl))))

theorem execSetEventReceiver_answers (receiver : Byte) (s : State) : s.Answers (execSetEventReceiver receiver s) :=
  .pldmCmd (.refl s) (fun _ h0 => .pldm (.mapUpd h0 (fun _ => rfl)))

theorem execPollForPlatformEventMessage_answers (s : State) : s.Answers (execPollForPlatformEventMessage s) := by
  unfold Machine.execPollForPlatformEventMessage
  refine .pldmCmd (.refl s) (fun _ h0 => ?_)
  split
  · exact .pldm h0
  · exact .others (.pldm (.mapUpd h0 (fun _ => rfl)))

/-! ### Integer and binary32 instructions of the SE, the multiplier and the divider -/

theorem Core.Tidy.result {c : Core} {t : Fin 4} {len : BitVec 2} {o : Operands} {v : ℕ} (h : c.Tidy) : (Core.result t len o v c).Tidy :=
  .finish (.writeDest h)

theorem State.Answers.aluCmd {s₀ s : State} {a : Site} {f : Form} {w : SeWord} {fn : ℕ → ℕ → ℕ → ℕ} (h : s₀.Keeps s) :
    s₀.Answers (aluCmd a f w fn s) :=
  .seCmd h (fun _ _ _ h0 => .result h0)

theorem execNop_answers (a : Site) (w : SeWord) (opc : BitVec 7) (s : State) : s.Answers (execNop a w s opc) :=
  .ite (.seCmd (.refl s) (fun _ _ _ h0 => .finish h0)) (.ite (.onCore (.refl s) (fun _ _ h0 => .reservedIssue h0)) (.next (.refl s)))

theorem execMov_answers (a : Site) (w : SeWord) (s : State) : s.Answers (execMov a w s) := .aluCmd (.refl s)
theorem execAdd_answers (a : Site) (w : SeWord) (s : State) : s.Answers (execAdd a w s) := .aluCmd (.refl s)
theorem execSub_answers (a : Site) (w : SeWord) (s : State) : s.Answers (execSub a w s) := .aluCmd (.refl s)
theorem execAnd_answers (a : Site) (w : SeWord) (s : State) : s.Answers (execAnd a w s) := .aluCmd (.refl s)
theorem execOr_answers (a : Site) (w : SeWord) (s : State) : s.Answers (execOr a w s) := .aluCmd (.refl s)
theorem execXor_answers (a : Site) (w : SeWord) (s : State) : s.Answers (execXor a w s) := .aluCmd (.refl s)
theorem execShl_answers (a : Site) (w : SeWord) (s : State) : s.Answers (execShl a w s) := .aluCmd (.refl s)
theorem execShr_answers (a : Site) (w : SeWord) (s : State) : s.Answers (execShr a w s) := .aluCmd (.refl s)
theorem execMin_answers (a : Site) (w : SeWord) (s : State) : s.Answers (execMin a w s) := .aluCmd (.refl s)
theorem execMax_answers (a : Site) (w : SeWord) (s : State) : s.Answers (execMax a w s) := .aluCmd (.refl s)
theorem execZext_answers (a : Site) (w : SeWord) (s : State) : s.Answers (execZext a w s) := .aluCmd (.refl s)
theorem execSext_answers (a : Site) (w : SeWord) (s : State) : s.Answers (execSext a w s) := .aluCmd (.refl s)
theorem execSlt_answers (a : Site) (w : SeWord) (s : State) : s.Answers (execSlt a w s) := .aluCmd (.refl s)
theorem execSeq_answers (a : Site) (w : SeWord) (s : State) : s.Answers (execSeq a w s) := .aluCmd (.refl s)
theorem execClz_answers (a : Site) (w : SeWord) (s : State) : s.Answers (execClz a w s) := .aluCmd (.refl s)
theorem execPopc_answers (a : Site) (w : SeWord) (s : State) : s.Answers (execPopc a w s) := .aluCmd (.refl s)

theorem execMul_answers (a : Site) (w : SeWord) (s : State) : s.Answers (execMul a w s) :=
  .seCmd (.refl s) (fun _ _ _ h0 => .finish (.mapTh h0))

theorem execMulResultWrite_answers (a : Site) (s : State) : s.Answers (execMulResultWrite a s) := .onCore (.refl s) (fun _ _ h0 => .mapTh h0)

theorem State.Answers.divCmd {s₀ s : State} {a : Site} {f : Form} {w : SeWord} {res : Core → Operands → DWord × DWord × BitVec 6}
    (h : s₀.Keeps s) : s₀.Answers (divCmd a f w res s) := by
  unfold Machine.divCmd
  refine .seCmd h (fun _ _ _ h0 => ?_)
  split
  · exact .finish (.others h0)

theorem execDiv_answers (a : Site) (w : SeWord) (s : State) : s.Answers (execDiv a w s) := .divCmd (.refl s)
theorem execFsqrt_answers (a : Site) (w : SeWord) (s : State) : s.Answers (execFsqrt a w s) := .divCmd (.refl s)

theorem execDivResultWrite_answers (core : BitVec 13) (s : State) : s.Answers (execDivResultWrite core s) := by
  unfold Machine.execDivResultWrite
  refine .onCore (.refl s) (fun _ _ h0 => ?_)
  split
  · exact h0
  · exact .flushDiv h0

theorem Core.Tidy.putFp {c : Core} {t : Fin 4} {d : Operand} {v : ℕ × BitVec 6} (h : c.Tidy) : (Core.putFp t d v c).Tidy := by
  unfold Core.putFp
  split
  · exact .flag (.writeDest h)
  · exact .trackDest (.mapTh h)

theorem State.Answers.fpCmd {s₀ s : State} {a : Site} {f : Form} {w : SeWord} {fn : Core → Operands → ℕ × BitVec 6} (h : s₀.Keeps s) :
    s₀.Answers (fpCmd a f w fn s) :=
  .seCmd h (fun _ _ _ h0 => .finish (.putFp h0))

theorem State.Answers.fpCmd2 {s₀ s : State} {a : Site} {f : Form} {w : SeWord} {fn : ℕ → ℕ → ℕ × BitVec 6} (h : s₀.Keeps s) :
    s₀.Answers (fpCmd2 a f w fn s) :=
  .fpCmd h

theorem execFadd_answers (a : Site) (w : SeWord) (s : State) : s.Answers (execFadd a w s) := .fpCmd2 (.refl s)
theorem execFsub_answers (a : Site) (w : SeWord) (s : State) : s.Answers (execFsub a w s) := .fpCmd2 (.refl s)
theorem execFmul_answers (a : Site) (w : SeWord) (s : State) : s.Answers (execFmul a w s) := .fpCmd2 (.refl s)
theorem execFma_answers (a : Site) (w : SeWord) (s : State) : s.Answers (execFma a w s) := .fpCmd (.refl s)
theorem execFmin_answers (a : Site) (w : SeWord) (s : State) : s.Answers (execFmin a w s) := .fpCmd2 (.refl s)
theorem execFmax_answers (a : Site) (w : SeWord) (s : State) : s.Answers (execFmax a w s) := .fpCmd2 (.refl s)
theorem execFcmp_answers (a : Site) (w : SeWord) (s : State) : s.Answers (execFcmp a w s) := .fpCmd2 (.refl s)
theorem execFcvti_answers (a : Site) (w : SeWord) (s : State) : s.Answers (execFcvti a w s) := .fpCmd2 (.refl s)
theorem execIcvtf_answers (a : Site) (w : SeWord) (s : State) : s.Answers (execIcvtf a w s) := .fpCmd2 (.refl s)

theorem execFpResultWrite_answers (a : Site) (s : State) : s.Answers (execFpResultWrite a s) :=
  .onCore (.refl s) (fun _ _ h0 => .granted (.unverified (.writeFp h0)))

/-! ### The ageing of scratchpad requests, the scrubbers, and the trace and the debug stops that the hardware makes -/

theorem execRequestAged_answers (core : BitVec 13) (bank : Fin 16) (port : SpmPort) (s : State) :
    s.Answers (execRequestAged core bank port s) :=
  .onCore (.refl s) (fun _ _ h0 => .ite h0 (.mapScrub h0))

theorem execScrubAged_answers (core : BitVec 13) (bank : Fin 16) (s : State) : s.Answers (execScrubAged core bank s) :=
  .onCore (.refl s) (fun _ _ h0 => .mapScrub h0)

theorem Core.Tidy.found {c : Core} {b : Fin 16} {row : ℕ} {f : WordFinding} (h : c.Tidy) : (Core.found b row f c).Tidy := by
  unfold Core.found
  split
  · exact .ite (.rowCandidate (.corrected (.mapScrub h))) (.corrected (.mapScrub h))
  · exact .ite h (.lost h)

theorem Core.Tidy.endPass {c : Core} {b : Fin 16} (h : c.Tidy) : (Core.endPass b c).Tidy := by
  unfold Core.endPass
  exact .mapScrub (.ite (.post h) h)

theorem Core.Tidy.scrubRow {c : Core} {e : Env} {b : Fin 16} {fs : List WordFinding} (h : c.Tidy) : (Core.scrubRow e b fs c).Tidy := by
  unfold Core.scrubRow
  extract_lets n rows d f
  have hd : d.Tidy := by
    show Core.Tidy (match c.spm.scrubRow rows b n with | none => _ | some _ => _)
    split
    · exact h
    · exact .mapScrub (.foldl h fun _ _ h0 => .found h0)
  have hf : f.Tidy := .mapScrub hd
  exact .ite (.endPass hf) hf

theorem execScrubRead_answers (core : BitVec 13) (bank : Fin 16) (found : List WordFinding) (s : State) :
    s.Answers (execScrubRead core bank found s) :=
  .onCore (.refl s) (fun _ _ h0 => .ite (.mapScrub h0) (.scrubRow h0))

theorem execSpmCorrectedWriteback_answers (core : BitVec 13) (bank : Fin 16) (s : State) :
    s.Answers (execSpmCorrectedWriteback core bank s) :=
  .onCore (.refl s) (fun _ _ h0 => .mapScrub h0)

theorem Core.Tidy.traceWrite {c : Core} {e : Env} {found : List SpmFinding} (h : c.Tidy) : (Core.traceWrite e found c).Tidy := by
  unfold Core.traceWrite
  split
  · exact h
  · exact .others (.ite (.unverified (.mapSpm h (fun _ h0 => .write h0))) h)

theorem execTraceEntryWrite_answers (core : BitVec 13) (found : List SpmFinding) (s : State) : s.Answers (execTraceEntryWrite core s found) :=
  .onCore (.refl s) (fun _ _ h0 => .traceWrite h0)

theorem execTraceSync_answers (core : BitVec 13) (s : State) : s.Answers (execTraceSync core s) :=
  .ite (.onCore (.wait (.refl s)) (fun _ _ h0 => .traceSync h0)) (.next (.refl s))

theorem execWatchpointMatch_answers (a : Site) (addr : BitVec 22) (bytes : ℕ) (store : Bool) (s : State) :
    s.Answers (execWatchpointMatch a addr bytes store s) :=
  .onCore (.refl s) (fun _ _ h0 => .ite (.debugStop (.trace h0)) h0)

theorem execCrossTrigger_answers (core : BitVec 13) (s : State) : s.Answers (execCrossTrigger core s) :=
  .onCore (.refl s) (fun _ _ h0 => .ite (.others h0) h0)

/-! ### Measurements and the SPDM responder -/

theorem State.Keeps.spdmSet {s₀ s : State} {tr : Fin 3} {st : SpdmState} {out : List Byte} (h : s₀.Keeps s) :
    s₀.Keeps (s.spdmSet tr st out) :=
  .others h

theorem State.Answers.spdmCmd {s₀ s : State} {tr : Fin 3} {ok : SpdmState → Bool} {body : State → State} (h : s₀.Keeps s)
    (hbody : ∀ a, s₀.Keeps a → s₀.Keeps (body a)) : s₀.Answers (spdmCmd tr ok body s) :=
  .ite (.next h) (.ite (.next (.spdmSet h)) (.ite (.next (.spdmSet h)) (.next (hbody _ h))))

theorem execGetVersion_answers (tr : Fin 3) (discover : Option Byte) (s : State) : s.Answers (execGetVersion tr s discover) := by
  unfold Machine.execGetVersion
  split
  · exact .spdmCmd (.refl s) (fun _ h0 => .spdmSet h0)
  · exact .ite (.next (.refl s)) (.next (.spdmSet (.refl s)))

theorem execGetCapabilities_answers (tr : Fin 3) (s : State) : s.Answers (execGetCapabilities tr s) :=
  .spdmCmd (.refl s) (fun _ h0 => .spdmSet h0)

theorem execNegotiateAlgorithms_answers (tr : Fin 3) (p384 sha384 : Bool) (s : State) :
    s.Answers (execNegotiateAlgorithms tr p384 sha384 s) :=
  .spdmCmd (.refl s) (fun _ h0 => .ite (.spdmSet h0) (.spdmSet h0))

theorem State.Answers.attestCmd {s₀ s : State} {tr : Fin 3} {body : State → State} (h : s₀.Keeps s)
    (hbody : ∀ a, s₀.Keeps a → s₀.Keeps (body a)) : s₀.Answers (attestCmd tr body s) :=
  .spdmCmd h (fun _ h0 => hbody _ h0)

theorem State.Keeps.spdmReply {s₀ s : State} {tr : Fin 3} {out : List Byte} (h : s₀.Keeps s) : s₀.Keeps (s.spdmReply tr out) := .spdmSet h

theorem State.Keeps.chunked {s₀ s : State} {tr : Fin 3} {chunk : Option (ℕ × ℕ)} {body : State → State} (h : s₀.Keeps s)
    (hbody : ∀ a, s₀.Keeps a → s₀.Keeps (body a)) : s₀.Keeps (s.chunked tr chunk body) := by
  unfold State.chunked
  split
  · exact hbody _ h
  · exact .spdmReply (.ite (.others (hbody _ h)) h)

theorem execGetDigests_answers (tr : Fin 3) (s : State) : s.Answers (execGetDigests tr s) := .attestCmd (.refl s) (fun _ h0 => .spdmReply h0)

theorem execGetCertificate_answers (tr : Fin 3) (slot : BitVec 8) (offset length : BitVec 16) (chunk : Option (ℕ × ℕ)) (s : State) :
    s.Answers (execGetCertificate tr slot offset length s chunk) :=
  .attestCmd (.refl s) (fun _ h0 => .chunked h0 (fun _ h1 => .ite (.spdmReply h1) (.spdmReply h1)))

theorem State.Keeps.signedReply {s₀ s : State} {tr : Fin 3} {nonce : BitVec 256} {head : List Byte} (h : s₀.Keeps s) :
    s₀.Keeps (s.signedReply tr nonce head) :=
  .spdmReply (.others h)

theorem execSpdmChallenge_answers (tr : Fin 3) (slot : BitVec 8) (nonce : BitVec 256) (s : State) :
    s.Answers (execSpdmChallenge tr slot nonce s) :=
  .attestCmd (.refl s) (fun _ h0 => .ite (.spdmReply h0) (.signedReply h0))

theorem execGetMeasurements_answers (tr : Fin 3) (index : BitVec 8) (sign : Bool) (nonce : BitVec 256) (chunk : Option (ℕ × ℕ)) (s : State) :
    s.Answers (execGetMeasurements tr index sign nonce s chunk) :=
  .attestCmd (.refl s) (fun _ h0 => .chunked h0 (fun _ h1 => .ite (.spdmReply h1) (.ite (.signedReply h1) (.spdmReply h1))))

/-! ### System time -/

theorem State.Keeps.sendSync {s₀ s : State} {port : Fin 48} {subop : BitVec 3} {stamp : DWord} {seq : Word} (h : s₀.Keeps s) :
    s₀.Keeps (s.sendSync port subop stamp seq) := by
  unfold State.sendSync
  exact .mapPort h

theorem State.Keeps.takeSync {s₀ s : State} {port : Fin 48} {subop : BitVec 3} {stamp : DWord} {seq : Word} (h : s₀.Keeps s) :
    s₀.Keeps (s.takeSync port subop stamp seq) := by
  unfold State.takeSync
  split
  · exact .receive h
  · exact h

theorem State.Keeps.lostExchange {s₀ s : State} (h : s₀.Keeps s) : s₀.Keeps s.lostExchange := .ite (.holdover (.others h)) (.others h)
theorem State.Keeps.acceptExchange {s₀ s : State} {offset : ℤ} (h : s₀.Keeps s) : s₀.Keeps (s.acceptExchange offset) := .others h

theorem execTimeSyncExchange_answers (port : Fin 48) (seq : Word) (s : State) : s.Answers (execTimeSyncExchange port seq s) :=
  .ite (.next (.ite (.lostExchange (.others (.refl s))) (.others (.refl s)))) (.ite (.next (.refl s)) (.next (.sendSync (.others (.refl s)))))

theorem execSync_answers (port : Fin 48) (t1 t2 t3 : DWord) (seq : Word) (s : State) : s.Answers (execSync port t1 t2 t3 seq s) :=
  .ite (.next (.takeSync (.refl s))) (.next (.sendSync (.others (.ite (.lostExchange (.takeSync (.refl s))) (.takeSync (.refl s))))))

theorem execDelayReq_answers (port : Fin 48) (t4 : DWord) (seq : Word) (s : State) : s.Answers (execDelayReq port t4 seq s) :=
  .ite (.next (.takeSync (.refl s))) (.next (.sendSync (.takeSync (.refl s))))

theorem execDelayResp_answers (port : Fin 48) (t4 : DWord) (seq : Word) (s : State) : s.Answers (execDelayResp port t4 seq s) :=
  .ite (.next (.takeSync (.refl s))) (.ite (.next (.takeSync (.refl s)))
    (.next (.ite (.lostExchange (.others (.takeSync (.refl s)))) (.acceptExchange (.others (.takeSync (.refl s)))))))

theorem execTimeSync_answers (src : Source) (role : BitVec 2) (pport : BitVec 6) (mask : BitVec 48) (asym : List (BitVec 16))
    (time : Option DWord) (s : State) : s.Answers (execTimeSync src role pport mask asym time s) :=
  .mpCmd (.refl s) (fun _ h0 => .ite (.badArg h0) (.ite (.badArg h0) (.ite (.denied h0) (.okWith (.changeNotice (.others h0))))))

end Sys2Proof.Machine
end

section
/-! PROOFS. What every step keeps: every command. -/

namespace Sys2Proof.Machine

theorem State.Keeps.moveAll {s₀ s t : State} {ids : List CoreId} (h : s₀.Keeps s) (ht : s.moveAll ids = .ok t) : s₀.Keeps t := by
  induction ids generalizing s with
  | nil =>
    cases ht
    exact h
  | cons id ids ih =>
    unfold State.moveAll at ht
    split at ht
    · exact ih (.moveIndex h) ht
    · cases ht

theorem State.Keeps.applyLedger {s₀ s t : State} (h : s₀.Keeps s) (ht : s.applyLedger = .ok t) : s₀.Keeps t := by
  have hr : s₀.Keeps s.ledgerAll.rejoin := .rejoin (.ledgerAll h)
  unfold State.applyLedger at ht
  dsimp only at ht
  split at ht
  next hu => exact Except.ok.inj ht ▸ .rejoin (hr.moveAll hu)
  · cases ht

theorem execJobLoad_answers (src : Source) (r : JobLoadReq) (s : State) : s.Answers (execJobLoad src r s) := by
  refine .mpCmd (.refl s) fun t ht => ?_
  refine .ite (.denied ht) (.ite (.notReady ht) ?_)
  split
  · exact .notReady ht
  refine .ite (.notReady ht) (.ite (.waiting ht) ?_)
  split
  · exact .notReady (.exhausted ht)
  next hu =>
    have hu := ht.applyLedger hu
    refine .ite (.notReady hu) ?_
    split
    · exact .badArg ht
    split
    · exact .badArg ht
    split
    · exact .badArg ht
    · exact .okWith (.loadJob hu)

/-- What a read of the debug service finds leaves a canonical core. -/
def FoundTidy : Core × List Byte ⊕ Nat → Prop
  | .inl x => x.1.Tidy
  | .inr _ => True

theorem FoundTidy.ite {p : Prop} [Decidable p] {x y : Core × List Byte ⊕ Nat} (hx : FoundTidy x) (hy : FoundTidy y) :
    FoundTidy (if p then x else y) := either_branch hx hy

theorem FoundTidy.debugGet {c : Core} {e : Env} {space addr n : ℕ} (h : c.Tidy) : FoundTidy (c.debugGet e space addr n) := by
  have here : ∀ data, FoundTidy (.inl (c, data)) := fun _ => h
  unfold Core.debugGet
  split
  · exact .ite trivial (here _)
  · refine .ite trivial ?_
    split
    · trivial
    · exact Core.Tidy.ite (.others h) h
  · refine .ite trivial ?_
    split
    · trivial
    · exact h
  · exact .ite trivial (Core.Tidy.withVe h (.wake h.ve))
  · exact .ite trivial (.ite trivial (.ite (here _) (Core.Tidy.withMe h (.fileWake h.me))))
  · exact .ite trivial (here _)
  · exact .ite trivial (.ite trivial (here _))

theorem execDebugRead_answers (src : Source) (space id addr bytes : Word) (s : State) (found : List SpmFinding)
    (regs : List RegFinding) : s.Answers (execDebugRead src space id addr bytes s found regs) := by
  refine .mpCmd (.refl s) fun t ht => ?_
  refine .ite (.badArg ht) (.ite (.badArg ht) (.ite (.ite (.badArg ht) (.ite (.badArg ht) (.ite (.badArg ht) (.okWith ht))))
    (.ite (.badArg ht) (.withCore ht fun u hu => ?_))))
  extract_lets x v
  have hv : s.Keeps v := .ite hu (.onCore hu fun _ _ h0 => .debugMeet h0)
  clear_value v
  split
  · exact .badArg hv
  next c data hg =>
    refine .okWith (.setCore (.others hv) fun hs => ?_)
    have hc := FoundTidy.debugGet (e := v.env (BitVec.ofNat 13 id.toNat)) (space := space.toNat) (addr := addr.toNat)
      (n := bytes.toNat) (hv.core (BitVec.ofNat 13 id.toNat) hs)
    rw [hg] at hc
    exact hc

theorem Core.Tidy.putCsrs {c d : Core} {e : Env} {t : Fin 4} {xs : List (ℕ × Word)} {o : ℕ} (h : c.Tidy)
    (hd : c.putCsrs e t xs o = .inl d) : d.Tidy := by
  induction xs generalizing c o with
  | nil =>
    cases hd
    exact h
  | cons x xs ih =>
    obtain ⟨num, v⟩ := x
    unfold Core.putCsrs at hd
    split at hd
    · exact ih (.putDbg h) hd
    · have hw := CsrAct.Tidy.csrWrite (e := e) (t := t) (num := num) (w := plainWord) (v := v.toNat) h
      split at hd
      next heq =>
        rw [heq] at hw
        exact ih hw hd
      · cases hd
      · cases hd
      · cases hd

/-- What a write of the debug service comes to holds a canonical core. -/
def Poke.Tidy : Poke → Prop
  | .ok c => c.Tidy
  | _ => True

theorem Poke.Tidy.ite {p : Prop} [Decidable p] {x y : Poke} (hx : x.Tidy) (hy : y.Tidy) : (if p then x else y).Tidy := either_branch hx hy

theorem Poke.Tidy.debugPut {c : Core} {e : Env} {space addr : ℕ} {data : List Byte} (h : c.Tidy) : (c.debugPut e space addr data).Tidy := by
  unfold Core.debugPut
  dsimp only
  split
  · exact .ite trivial (Core.Tidy.mapSpm h fun _ h0 => .write h0)
  · refine .ite trivial ?_
    split
    · trivial
    · refine .ite trivial ?_
      split
      next hp => exact h.putCsrs hp
      · trivial
      · trivial
  · refine .ite trivial ?_
    split
    · trivial
    · refine .ite trivial ?_
      split
      · exact Core.Tidy.mapTh h
      · trivial
  · exact .ite trivial (.ite trivial (Core.Tidy.withVe h (.wake (.fileClean (.fileWrite h.ve)))))
  · exact .ite trivial (.ite trivial (.ite trivial (Core.Tidy.withMe h (.fileWrite h.me))))
  · exact .ite trivial (.ite trivial (.ite trivial (Core.Tidy.setRunner h)))
  · exact .ite trivial (.ite trivial (Core.Tidy.setEvents h))

theorem execDebugWrite_answers (src : Source) (space id addr : Word) (data : List Byte) (s : State) :
    s.Answers (execDebugWrite src space id addr data s) := by
  refine .mpCmd (.refl s) fun t ht => ?_
  refine .ite (.badArg ht) (.ite (.badArg ht) (.ite (.badArg ht) (.withCore ht fun u hu => ?_)))
  split
  · refine .okWith (.onCore hu fun e c hc => ?_)
    have hp := Poke.Tidy.debugPut (e := e) (space := space.toNat) (addr := addr.toNat) (data := data) hc
    split
    next heq =>
      rw [heq] at hp
      exact hp
    · exact hc
  · exact .badArg hu
  · exact .notReady hu

/-! ### Every command -/

theorem exec_answers (i : Instr) (s : State) : s.Answers (exec i s) := by
  cases i with
  | nop => exact execNop_answers ..
  | mov => exact execMov_answers ..
  | add => exact execAdd_answers ..
  | sub => exact execSub_answers ..
  | and_ => exact execAnd_answers ..
  | or_ => exact execOr_answers ..
  | xor_ => exact execXor_answers ..
  | shl => exact execShl_answers ..
  | shr => exact execShr_answers ..
  | min_ => exact execMin_answers ..
  | max_ => exact execMax_answers ..
  | zext => exact execZext_answers ..
  | sext => exact execSext_answers ..
  | slt => exact execSlt_answers ..
  | seq => exact execSeq_answers ..
  | clz => exact execClz_answers ..
  | popc => exact execPopc_answers ..
  | mul => exact execMul_answers ..
  | mulResultWrite => exact execMulResultWrite_answers ..
  | div => exact execDiv_answers ..
  | fsqrt => exact execFsqrt_answers ..
  | divResultWrite => exact execDivResultWrite_answers ..
  | fadd => exact execFadd_answers ..
  | fsub => exact execFsub_answers ..
  | fmul => exact execFmul_answers ..
  | fma => exact execFma_answers ..
  | fmin => exact execFmin_answers ..
  | fmax => exact execFmax_answers ..
  | fcmp => exact execFcmp_answers ..
  | fcvti => exact execFcvti_answers ..
  | icvtf => exact execIcvtf_answers ..
  | fpResultWrite => exact execFpResultWrite_answers ..
  | jmp => exact execJmp_answers ..
  | b => exact execB_answers ..
  | bu => exact execBu_answers ..
  | call => exact execCall_answers ..
  | loop => exact execLoop_answers ..
  | lbreak => exact execLbreak_answers ..
  | csrr => exact execCsrr_answers ..
  | csrw => exact execCsrw_answers ..
  | cycleLoRead => exact execCycleLoRead_answers ..
  | timeLoRead => exact execTimeLoRead_answers ..
  | ldepthWrite => exact execLdepthWrite_answers ..
  | ldAcq => exact execLdAcq_answers ..
  | stRel => exact execStRel_answers ..
  | fence => exact execFence_answers ..
  | fenceComplete => exact execFenceComplete_answers ..
  | etok => exact execEtok_answers ..
  | tokenMarkerPass => exact execTokenMarkerPass_answers ..
  | ewait => exact execEwait_answers ..
  | waitMarkerRelease => exact execWaitMarkerRelease_answers ..
  | trackerEntryFree => exact execTrackerEntryFree_answers ..
  | xld => exact execXld_answers ..
  | xldResponse => exact execXldResponse_answers ..
  | xst => exact execXst_answers ..
  | xstAck => exact execXstAck_answers ..
  | remoteTimeout => exact execRemoteTimeout_answers ..
  | sld => exact execSld_answers ..
  | sst => exact execSst_answers ..
  | tagWaitComplete => exact execTagWaitComplete_answers ..
  | tagDataMove => exact execTagDataMove_answers ..
  | tagTimeout => exact execTagTimeout_answers ..
  | remoteTagArrival => exact execRemoteTagArrival_answers ..
  | withdrawalArrival => exact execWithdrawalArrival_answers ..
  | remoteTagResponse => exact execRemoteTagResponse_answers ..
  | tagRetryResend => exact execTagRetryResend_answers ..
  | thset => exact execThset_answers ..
  | thgo => exact execThgo_answers ..
  | thstop => exact execThstop_answers ..
  | thstopComplete => exact execThstopComplete_answers ..
  | thend => exact execThend_answers ..
  | rsend => exact execRsend_answers ..
  | rsend4 => exact execRsend4_answers ..
  | rrecv => exact execRrecv_answers ..
  | runnerWaitComplete => exact execRunnerWaitComplete_answers ..
  | rnctlWrite => exact execRnctlWrite_answers ..
  | runnerFlush => exact execRunnerFlush_answers ..
  | setev => exact execSetev_answers ..
  | waitev => exact execWaitev_answers ..
  | eventWaitComplete => exact execEventWaitComplete_answers ..
  | clrev => exact execClrev_answers ..
  | evtmrCntWrite => exact execEvtmrCntWrite_answers ..
  | eventTimerExpiry => exact execEventTimerExpiry_answers ..
  | allThreadsWaiting => exact execAllThreadsWaiting_answers ..
  | eret => exact execEret_answers ..
  | brk => exact execBrk_answers ..
  | impreciseExcDelivery => exact execImpreciseExcDelivery_answers ..
  | pour => exact execPour_answers ..
  | coreArrive => exact execCoreArrive_answers ..
  | cvctlWrite => exact execCvctlWrite_answers ..
  | cvseedWrite => exact execCvseedWrite_answers ..
  | cvrmaxRcRead => exact execCvrmaxRcRead_answers ..
  | cvsatRead => exact execCvsatRead_answers ..
  | icLineFill => exact execIcLineFill_answers ..
  | icParityError => exact execIcParityError_answers ..
  | icErrWindow => exact execIcErrWindow_answers ..
  | dccTakeOffer => exact execDccTakeOffer_answers ..
  | vld => exact execVld_answers ..
  | vst => exact execVst_answers ..
  | vldsr => exact execVldsr_answers ..
  | vstsr => exact execVstsr_answers ..
  | vlds2 => exact execVlds2_answers ..
  | vlds3 => exact execVlds3_answers ..
  | vlds4 => exact execVlds4_answers ..
  | vsts2 => exact execVsts2_answers ..
  | vsts3 => exact execVsts3_answers ..
  | vsts4 => exact execVsts4_answers ..
  | vmld => exact execVmld_answers ..
  | vmst => exact execVmst_answers ..
  | vbcast => exact execVbcast_answers ..
  | vext => exact execVext_answers ..
  | vmovi => exact execVmovi_answers ..
  | vadd => exact execVadd_answers ..
  | vsub => exact execVsub_answers ..
  | vmul => exact execVmul_answers ..
  | vfma => exact execVfma_answers ..
  | vmin => exact execVmin_answers ..
  | vmax => exact execVmax_answers ..
  | vbit => exact execVbit_answers ..
  | vcmp => exact execVcmp_answers ..
  | vmerge => exact execVmerge_answers ..
  | vslide => exact execVslide_answers ..
  | vred => exact execVred_answers ..
  | vmop => exact execVmop_answers ..
  | vwmul => exact execVwmul_answers ..
  | vdot => exact execVdot_answers ..
  | vcvt => exact execVcvt_answers ..
  | vfdiv => exact execVfdiv_answers ..
  | vfsqrt => exact execVfsqrt_answers ..
  | veInsnStart => exact execVeInsnStart_answers ..
  | veInsnComplete => exact execVeInsnComplete_answers ..
  | veRetention => exact execVeRetention_answers ..
  | vgWakeWrite => exact execVgWakeWrite_answers ..
  | veWakeComplete => exact execVeWakeComplete_answers ..
  | tld => exact execTld_answers ..
  | tst => exact execTst_answers ..
  | tlds => exact execTlds_answers ..
  | tsts => exact execTsts_answers ..
  | tzero => exact execTzero_answers ..
  | trelease => exact execTrelease_answers ..
  | tmma => exact execTmma_answers ..
  | tmmas => exact execTmmas_answers ..
  | gmv => exact execGmv_answers ..
  | tcfgWrite => exact execTcfgWrite_answers ..
  | meInsnStart => exact execMeInsnStart_answers ..
  | meInsnComplete => exact execMeInsnComplete_answers ..
  | arrayCold => exact execArrayCold_answers ..
  | tileBankRetention => exact execTileBankRetention_answers ..
  | denq => exact execDenq_answers ..
  | icinv => exact execIcinv_answers ..
  | icinvComplete => exact execIcinvComplete_answers ..
  | icpf => exact execIcpf_answers ..
  | icpfExecute => exact execIcpfExecute_answers ..
  | descriptorStart => exact execDescriptorStart_answers ..
  | descriptorChainRead => exact execDescriptorChainRead_answers ..
  | dmaGranuleResponse => exact execDmaGranuleResponse_answers ..
  | descriptorComplete => exact execDescriptorComplete_answers ..
  | dmaSlotFill => exact execDmaSlotFill_answers ..
  | dqResume => exact execDqResume_answers ..
  | dqFlush => exact execDqFlush_answers ..
  | remoteReadArrival => exact execRemoteReadArrival_answers ..
  | remoteWriteArrival => exact execRemoteWriteArrival_answers ..
  | gateOpen => exact execGateOpen_answers ..
  | gateClose => exact execGateClose_answers ..
  | gateCloseComplete => exact execGateCloseComplete_answers ..
  | gateRegWrite => exact execGateRegWrite_answers ..
  | requestAged => exact execRequestAged_answers ..
  | meRequestAged => exact execMeRequestAged_answers ..
  | scrubRead => exact execScrubRead_answers ..
  | scrubAged => exact execScrubAged_answers ..
  | spmCorrectedWriteback => exact execSpmCorrectedWriteback_answers ..
  | gridCrossingEnter => exact execGridCrossingEnter_answers ..
  | bridgeReplay => exact execBridgeReplay_answers ..
  | routerDead => exact execRouterDead_answers ..
  | laneLossOfLock => exact execLaneLossOfLock_answers ..
  | laneMarginal => exact execLaneMarginal_answers ..
  | laneTrainingStep => exact execLaneTrainingStep_answers ..
  | laneDetectRetry => exact execLaneDetectRetry_answers ..
  | portTrainingDone => exact execPortTrainingDone_answers ..
  | portRetrain => exact execPortRetrain_answers ..
  | retrainTimeout => exact execRetrainTimeout_answers ..
  | txFlitSlot => exact execTxFlitSlot_answers ..
  | flitReceive => exact execFlitReceive_answers ..
  | replayTimeout => exact execReplayTimeout_answers ..
  | nakResend => exact execNakResend_answers ..
  | heartbeat port mod peerPort mstate hbseq => exact execHeartbeat_answers port mod peerPort mstate hbseq s
  | heartbeatSend => exact execHeartbeatSend_answers ..
  | heartbeatMiss => exact execHeartbeatMiss_answers ..
  | hbWordStale => exact execHbWordStale_answers ..
  | widthReq => exact execWidthReq_answers ..
  | widthReqRepeat => exact execWidthReqRepeat_answers ..
  | realign => exact execRealign_answers ..
  | switch => exact execSwitch_answers ..
  | widthChangePoint => exact execWidthChangePoint_answers ..
  | write => exact execWrite_answers ..
  | read => exact execRead_answers ..
  | atomic => exact execAtomic_answers ..
  | mirrorWrite => exact execMirrorWrite_answers ..
  | reduceFwd => exact execReduceFwd_answers ..
  | mgmt => exact execMgmt_answers ..
  | rdata => exact execRdata_answers ..
  | done => exact execDone_answers ..
  | refused => exact execRefused_answers ..
  | forwardMessage => exact execForwardMessage_answers ..
  | requestTimeout => exact execRequestTimeout_answers ..
  | tagReuseExpiry => exact execTagReuseExpiry_answers ..
  | reductionRoundComplete => exact execReductionRoundComplete_answers ..
  | roundTimeout => exact execRoundTimeout_answers ..
  | rtGraceExpiry => exact execRtGraceExpiry_answers ..
  | swapAtTime => exact execSwapAtTime_answers ..
  | timeSyncExchange => exact execTimeSyncExchange_answers ..
  | sync => exact execSync_answers ..
  | delayReq => exact execDelayReq_answers ..
  | delayResp => exact execDelayResp_answers ..
  | arrived => exact execArrived_answers ..
  | save => exact execSave_answers ..
  | pourBoundary => exact execPourBoundary_answers ..
  | saved => exact execSaved_answers ..
  | resume => exact execResume_answers ..
  | tailComplete => exact execTailComplete_answers ..
  | ready => exact execReady_answers ..
  | commit => exact execCommit_answers ..
  | partnerCommit => exact execPartnerCommit_answers ..
  | abandon => exact execAbandon_answers ..
  | pourBarrierTimeout => exact execPourBarrierTimeout_answers ..
  | copyBeforeWrite => exact execCopyBeforeWrite_answers ..
  | mirrorStreamShare => exact execMirrorStreamShare_answers ..
  | pourOverdue => exact execPourOverdue_answers ..
  | selfFence => exact execSelfFence_answers ..
  | adoptionStream => exact execAdoptionStream_answers ..
  | droopDetect => exact execDroopDetect_answers ..
  | regulatorSample => exact execRegulatorSample_answers ..
  | activityEstimate => exact execActivityEstimate_answers ..
  | innerLoop => exact execInnerLoop_answers ..
  | outerLoop => exact execOuterLoop_answers ..
  | estDiverge => exact execEstDiverge_answers ..
  | calibrationEnd => exact execCalibrationEnd_answers ..
  | telemStale => exact execTelemStale_answers ..
  | iccTrip => exact execIccTrip_answers ..
  | tripLift => exact execTripLift_answers ..
  | tjSample => exact execTjSample_answers ..
  | hbmTempReport => exact execHbmTempReport_answers ..
  | freqGlideStep => exact execFreqGlideStep_answers ..
  | ageingReplan => exact execAgeingReplan_answers ..
  | hbmPatrolScrub => exact execHbmPatrolScrub_answers ..
  | pchFail => exact execPchFail_answers ..
  | mpHeartbeat => exact execMpHeartbeat_answers ..
  | mpLost => exact execMpLost_answers ..
  | hbWordRefresh => exact execHbWordRefresh_answers ..
  | mailboxDoorbell => exact execMailboxDoorbell_answers ..
  | resultRead => exact execResultRead_answers ..
  | mgmtTransmit => exact execMgmtTransmit_answers ..
  | bar2Read => exact execBar2Read_answers ..
  | bar2Write => exact execBar2Write_answers ..
  | b2baseWrite => exact execB2baseWrite_answers ..
  | mgmtRequest => exact execMgmtRequest_answers ..
  | mgmtResultRead smod mb rid => exact execMgmtResultRead_answers smod mb rid s
  | mgmtResult => exact execMgmtResult_answers ..
  | mgmtNotice => exact execMgmtNotice_answers ..
  | fragmentTimeout => exact execFragmentTimeout_answers ..
  | bmcMessage => exact execBmcMessage_answers ..
  | arbitrationTick => exact execArbitrationTick_answers ..
  | commandTimeout => exact execCommandTimeout_answers ..
  | devInfo => exact execDevInfo_answers ..
  | health => exact execHealth_answers ..
  | jobLoad => exact execJobLoad_answers ..
  | jobStart => exact execJobStart_answers ..
  | jobKill => exact execJobKill_answers ..
  | quarantineInForce => exact execQuarantineInForce_answers ..
  | capture => exact execCapture_answers ..
  | jobStatus => exact execJobStatus_answers ..
  | cfgGet => exact execCfgGet_answers ..
  | cfgWriteShadow => exact execCfgWriteShadow_answers ..
  | cfgSwap => exact execCfgSwap_answers ..
  | cfgSwapAt => exact execCfgSwapAt_answers ..
  | cfgSwapCancel => exact execCfgSwapCancel_answers ..
  | powerCap => exact execPowerCap_answers ..
  | clockMode => exact execClockMode_answers ..
  | phaseTableRead => exact execPhaseTableRead_answers ..
  | phaseTableLoad => exact execPhaseTableLoad_answers ..
  | phaseTableClear => exact execPhaseTableClear_answers ..
  | flaskBind => exact execFlaskBind_answers ..
  | flaskBindKeep => exact execFlaskBindKeep_answers ..
  | flaskUnbind => exact execFlaskUnbind_answers ..
  | pourPolicyDeclare => exact execPourPolicyDeclare_answers ..
  | pourPolicyQuery => exact execPourPolicyQuery_answers ..
  | rollback => exact execRollback_answers ..
  | remap => exact execRemap_answers ..
  | pourNow => exact execPourNow_answers ..
  | failoverAdopt => exact execFailoverAdopt_answers ..
  | mirrorStatus => exact execMirrorStatus_answers ..
  | portDisable => exact execPortDisable_answers ..
  | portEnable => exact execPortEnable_answers ..
  | portCtlRetrain => exact execPortCtlRetrain_answers ..
  | portSetLaneen => exact execPortSetLaneen_answers ..
  | portSetTxpre => exact execPortSetTxpre_answers ..
  | portSetMshare => exact execPortSetMshare_answers ..
  | routeTableWrite => exact execRouteTableWrite_answers ..
  | routeTableQuery => exact execRouteTableQuery_answers ..
  | coreRetire => exact execCoreRetire_answers ..
  | coreReadmit => exact execCoreReadmit_answers ..
  | rowRepairList => exact execRowRepairList_answers ..
  | rowRepairAdd => exact execRowRepairAdd_answers ..
  | rowRepairClear => exact execRowRepairClear_answers ..
  | errLog => exact execErrLog_answers ..
  | diagRun => exact execDiagRun_answers ..
  | lifecycleQuery => exact execLifecycleQuery_answers ..
  | deploy => exact execDeploy_answers ..
  | lifecycleChallenge => exact execLifecycleChallenge_answers ..
  | respond => exact execRespond_answers ..
  | challengeExpiry => exact execChallengeExpiry_answers ..
  | relock => exact execRelock_answers ..
  | fwQuery => exact execFwQuery_answers ..
  | fwStage => exact execFwStage_answers ..
  | fwChunk => exact execFwChunk_answers ..
  | fwVerify => exact execFwVerify_answers ..
  | fwActivate => exact execFwActivate_answers ..
  | fwAbort => exact execFwAbort_answers ..
  | fwCommit => exact execFwCommit_answers ..
  | delayedReset => exact execDelayedReset_answers ..
  | debugHalt => exact execDebugHalt_answers ..
  | debugResume => exact execDebugResume_answers ..
  | debugRead => exact execDebugRead_answers ..
  | debugWrite => exact execDebugWrite_answers ..
  | fettleJob => exact execFettleJob_answers ..
  | fettleAllHbm => exact execFettleAllHbm_answers ..
  | fettleModule => exact execFettleModule_answers ..
  | fettleDone => exact execFettleDone_answers ..
  | timeSync => exact execTimeSync_answers ..
  | getVersion => exact execGetVersion_answers ..
  | getCapabilities => exact execGetCapabilities_answers ..
  | negotiateAlgorithms => exact execNegotiateAlgorithms_answers ..
  | getDigests => exact execGetDigests_answers ..
  | getCertificate => exact execGetCertificate_answers ..
  | spdmChallenge => exact execSpdmChallenge_answers ..
  | getMeasurements => exact execGetMeasurements_answers ..
  | queryDeviceIdentifiers => exact execQueryDeviceIdentifiers_answers ..
  | getFirmwareParameters => exact execGetFirmwareParameters_answers ..
  | requestUpdate maxTransfer => exact execRequestUpdate_answers maxTransfer s
  | passComponentTable => exact execPassComponentTable_answers ..
  | updateComponent => exact execUpdateComponent_answers ..
  | requestFirmwareData => exact execRequestFirmwareData_answers ..
  | transferComplete => exact execTransferComplete_answers ..
  | verifyComplete => exact execVerifyComplete_answers ..
  | applyComplete => exact execApplyComplete_answers ..
  | activateFirmware => exact execActivateFirmware_answers ..
  | getStatus => exact execGetStatus_answers ..
  | cancelUpdate => exact execCancelUpdate_answers ..
  | getPdr => exact execGetPdr_answers ..
  | getPdrRepositoryInfo => exact execGetPdrRepositoryInfo_answers ..
  | getSensorReading => exact execGetSensorReading_answers ..
  | getStateSensorReadings => exact execGetStateSensorReadings_answers ..
  | setNumericSensorEnable => exact execSetNumericSensorEnable_answers ..
  | setEventReceiver => exact execSetEventReceiver_answers ..
  | pollForPlatformEventMessage => exact execPollForPlatformEventMessage_answers ..
  | breakpointMatch => exact execBreakpointMatch_answers ..
  | watchpointMatch => exact execWatchpointMatch_answers ..
  | singleStep => exact execSingleStep_answers ..
  | crossTrigger => exact execCrossTrigger_answers ..
  | traceEntryWrite => exact execTraceEntryWrite_answers ..
  | traceSync => exact execTraceSync_answers ..
  | bypass => exact execBypass_answers ..
  | idcode => exact execIdcode_answers ..
  | samplePreload => exact execSamplePreload_answers ..
  | extest => exact execExtest_answers ..
  | clamp => exact execClamp_answers ..
  | highz => exact execHighz_answers ..
  | tapPrivate => exact execTapPrivate_answers ..
  | tapReset => exact execTapReset_answers ..
  | powerOnReset => exact execPowerOnReset_answers ..
  | moduleReset => exact execModuleReset_answers ..
  | resetRelease => exact execResetRelease_answers ..
  | hostInterfaceReset => exact execHostInterfaceReset_answers ..
  | hiTrainingStart => exact execHiTrainingStart_answers ..
  | bootImageVerify => exact execBootImageVerify_answers ..
  | firmwareStart => exact execFirmwareStart_answers ..
  | configRestore => exact execConfigRestore_answers ..
  | selfTest => exact execSelfTest_answers ..
  | bringupPortTrain => exact execBringupPortTrain_answers ..
  | bringupReady => exact execBringupReady_answers ..
  | fwWatchdog => exact execFwWatchdog_answers ..
  | supplyLow => exact execSupplyLow_answers ..
  | overvoltageCut => exact execOvervoltageCut_answers ..
  | hotswapReclose => exact execHotswapReclose_answers ..
  | hotswapChargeDone => exact execHotswapChargeDone_answers ..
  | refclkLoss => exact execRefclkLoss_answers ..
  | cablePresenceChange => exact execCablePresenceChange_answers ..
  | vcblOn => exact execVcblOn_answers ..
  | vcblOvercurrent => exact execVcblOvercurrent_answers ..
  | coordinatorRepeat => exact execCoordinatorRepeat_answers ..
  | droopEnd => exact execDroopEnd_answers ..

/-- A command that answers a state answers one that keeps all this. -/
theorem keeps_of_exec {i : Instr} {s t : State} (h : exec i s = .next t) : s.Keeps t := by
  obtain ⟨u, hu, hk⟩ := exec_answers i s
  rw [hu] at h
  exact Host.Outcome.next.inj h ▸ hk

/-- Settles O55: what every command keeps includes the queue. -/
theorem everyCommandAnswersANextState : Obligations.EveryCommandAnswersANextState := by
  unfold Obligations.EveryCommandAnswersANextState
  intro i s
  obtain ⟨t, ht, hk⟩ := exec_answers i s
  exact ⟨t, ht, hk.pending⟩

/-- Settles O56: what every command keeps includes the blown fuses. -/
theorem fusesAreOnlyBlown : Obligations.FusesAreOnlyBlown := by
  unfold Obligations.FusesAreOnlyBlown
  intro i s t h
  have hf := (keeps_of_exec h).fuses
  exact ⟨hf.svn, hf.rkd, hf.revoked, hf.decom_ne_zero, hf.decom, hf.secret⟩

/-- Settles O54: what every command keeps includes the canonical form, and a step without one moves the time alone. -/
theorem stepsKeepMemoriesCanonical : Obligations.StepsKeepMemoriesCanonical := by
  unfold Obligations.StepsKeepMemoriesCanonical
  intro s t hs h
  unfold step at h
  split at h
  · rw [← Host.Outcome.next.inj h]
    exact hs
  · exact (keeps_of_exec h).canonical hs

end Sys2Proof.Machine
end

section
/-! PROOFS. What a record below the fatal severities and a notice leave alone. -/

namespace Sys2Proof.Machine

/-- The host interface `i` is `h` but for its event ring and the vectors signalled. -/
def HostIf.Rings (h i : HostIf) : Prop := ∃ r w l m, i = { h with ring := r, evwp := w, evlost := l, msix := m }

theorem HostIf.Rings.refl (h : HostIf) : h.Rings h := ⟨h.ring, h.evwp, h.evlost, h.msix, rfl⟩

theorem HostIf.Rings.trans {h i k : HostIf} (hi : h.Rings i) (hk : i.Rings k) : h.Rings k := by
  obtain ⟨r, w, l, m, rfl⟩ := hi
  obtain ⟨r', w', l', m', rfl⟩ := hk
  exact ⟨r', w', l', m', rfl⟩

theorem HostIf.Rings.b2err {h i : HostIf} (hi : h.Rings i) : i.b2err = h.b2err := by
  obtain ⟨r, w, l, m, rfl⟩ := hi
  rfl

/-- The block `t` is `s` but for the log, the host's event ring, the messages that wait at the switch, and the events for the BMC. -/
def State.Logs (s t : State) : Prop :=
  ∃ e h w l o a, s.host.Rings h ∧ t = { s with
    errs := e, host := h, switch := w, sec := { s.sec with events := l, lostEvents := o }, board := { s.board with alertN := a } }

namespace State.Logs

theorem refl (s : State) : s.Logs s :=
  ⟨s.errs, s.host, s.switch, s.sec.events, s.sec.lostEvents, s.board.alertN, .refl _, rfl⟩

theorem trans {s t u : State} (h : s.Logs t) (k : t.Logs u) : s.Logs u := by
  obtain ⟨e, i, w, l, o, a, hi, rfl⟩ := h
  obtain ⟨e', i', w', l', o', a', hi', rfl⟩ := k
  exact ⟨e', i', w', l', o', a', hi.trans hi', rfl⟩

theorem ite {s t u : State} {c : Prop} [Decidable c] (h : s.Logs t) (k : s.Logs u) : s.Logs (if c then t else u) := either_branch h k

variable {s t : State} (h : s.Logs t)
include h

/-- A quantity that reads nothing of these parts is the same. -/
theorem same {γ : Type} {g : State → γ} (hg : ∀ u e i w l o a, g { u with
    errs := e, host := i, switch := w, sec := { u.sec with events := l, lostEvents := o }, board := { u.board with alertN := a } } = g u) :
    g t = g s := by
  obtain ⟨e, i, w, l, o, a, -, rfl⟩ := h
  exact hg s e i w l o a

theorem errs {e : ErrLog} : s.Logs { t with errs := e } := by
  obtain ⟨e', i, w, l, o, a, hi, rfl⟩ := h
  exact ⟨e, i, w, l, o, a, hi, rfl⟩

theorem host {i : HostIf} (hr : t.host.Rings i) : s.Logs { t with host := i } := by
  obtain ⟨e, i', w, l, o, a, hi, rfl⟩ := h
  exact ⟨e, i, w, l, o, a, hi.trans hr, rfl⟩

theorem b2err : t.host.b2err = s.host.b2err := by
  obtain ⟨e, i, w, l, o, a, hi, rfl⟩ := h
  exact hi.b2err

theorem switch {w : Switch} : s.Logs { t with switch := w } := by
  obtain ⟨e, i, w', l, o, a, hi, rfl⟩ := h
  exact ⟨e, i, w, l, o, a, hi, rfl⟩

theorem events {l : List (List Byte)} {o a : Bool} :
    s.Logs { t with sec := { t.sec with events := l, lostEvents := o }, board := { t.board with alertN := a } } := by
  obtain ⟨e, i, w, l', o', a', hi, rfl⟩ := h
  exact ⟨e, i, w, l, o, a, hi, rfl⟩

theorem ringPut (r : Record) : s.Logs (t.ringPut r) :=
  .ite h (.ite (h.host ⟨_, _, _, _, rfl⟩) (.ite (h.host ⟨_, _, _, _, rfl⟩) (h.host ⟨_, _, _, _, rfl⟩)))

theorem noticePut (r : Record) : s.Logs (t.noticePut r) := by
  refine .ite h (List.foldlRecOn (motive := s.Logs) _ _ h fun u hu k _ => ?_)
  split
  · exact hu.switch
  · exact hu

theorem bmcPut (r : Record) : s.Logs (t.bmcPut r) := by
  refine .ite h (.ite ?_ ?_)
  · exact h.events (l := t.sec.events) (o := true) (a := t.board.alertN)
  · exact h.events (o := t.sec.lostEvents)

theorem logPut (x : Event) : s.Logs (t.logPut x) := ((h.errs.ringPut _).noticePut _).bmcPut _

theorem tally (v : BitVec 2) : s.Logs (t.tally v) := h.errs

theorem coreCandidate (x : Event) : s.Logs (t.coreCandidate x) := by
  unfold State.coreCandidate
  split
  · exact .ite (.ite ((h.errs.errs.tally _).logPut _) h.errs) h
  · exact h

/-- A record of severity corrected or deferred, a notice, or a record of no job: the log changes, and then the block acts as the severity
says (R514, R518). -/
theorem log_severity {x : Event} (hx : x.notice = true ∨ x.sev.toNat < 2 ∨ x.job = 0) : ∃ u, s.Logs u ∧ t.log x = u.severity x := by
  unfold State.log
  extract_lets r t₁ merged w e₁ t₂ e₂ t₃ y t₄
  by_cases hn : x.notice = true
  · rw [if_pos hn]
    exact ⟨_, h.logPut x, (if_pos hn).symm⟩
  · rw [if_neg hn]
    have hjob : (if 2 ≤ x.sev then x.job else 0) = 0 := by
      rcases hx.resolve_left hn with hlow | hjob
      · have hfatal : ¬ 2 ≤ x.sev := fun hs => Nat.not_le.mpr hlow (BitVec.le_def.mp hs)
        exact if_neg hfatal
      · rw [hjob, ite_self]
    have h₁ : s.Logs t₁ := h.tally _
    have h₂ : s.Logs t₂ := h₁.errs
    have h₃ : s.Logs t₃ := by
      refine .ite h₂.errs (.ite ?_ h₂)
      rw [hjob]
      exact h₂.logPut x
    have h₄ : s.Logs t₄ := .ite (((h₃.tally 1).logPut y).coreCandidate y) h₃
    exact ⟨_, .ite h₄ (h₄.coreCandidate x), rfl⟩

/-- A record of severity corrected or deferred, or a notice, does nothing but change the log. -/
theorem log {x : Event} (hx : x.notice = true ∨ x.sev.toNat < 2) : s.Logs (t.log x) := by
  obtain ⟨u, hu, heq⟩ := h.log_severity (hx.imp_right .inl)
  have hquiet : u.severity x = u := by
    unfold State.severity
    rcases hx with hn | hlow
    · rw [if_pos hn]
    · have h2 : x.sev ≠ 2 := fun hs => by rw [hs] at hlow; exact absurd hlow (by decide)
      have h3 : x.sev ≠ 3 := fun hs => by rw [hs] at hlow; exact absurd hlow (by decide)
      rw [if_neg h2, if_neg h3, ite_self]
  rw [heq, hquiet]
  exact hu

end State.Logs

/-- The same, of the block that the record is added to. -/
theorem State.logs_log (s : State) {x : Event} (hx : x.notice = true ∨ x.sev.toNat < 2) : s.Logs (s.log x) := (State.Logs.refl s).log hx

/-- A record of the module of severity corrected. -/
theorem State.logs_corrected (s : State) (cause : BitVec 16) (d : List Word) : s.Logs (s.log (mpEvent 0 cause d)) :=
  s.logs_log (.inr (show (0 : BitVec 2).toNat < 2 by decide))

theorem State.logs_notice (s : State) (cause : BitVec 16) (job : Nat) (d : List Word) : s.Logs (s.log (noticeEvent cause job d)) :=
  s.logs_log (.inl rfl)

end Sys2Proof.Machine
end

section
/-! PROOFS. The board: its test port, supplies, cables and reference clock (R493, R513, R529, R530, R540, R542, R549). -/

namespace Sys2Proof.Machine

/-! ### The reference clock -/

theorem State.port_mapPort_other (s : State) {q p : Fin 48} (h : q ≠ p) (f : Port → Port) : (s.mapPort q f).port p = s.port p :=
  tget_tset_other _ _ _ _ _ (Fin.val_ne_of_ne (Ne.symm h))

/-- Messages that are chosen a port again leave the state of every port (R358). -/
theorem State.st_rechoose (s : State) (q p : Fin 48) : ((s.rechoose q).port p).st = (s.port p).st := by
  have keeps : ∀ f : Port → Port, (∀ x, (f x).st = x.st) → ((s.mapPort q f).port p).st = (s.port p).st := fun f hf =>
    State.port_mapPort_keeps (hf _) p
  unfold State.rechoose
  extract_lets port w all own transit freed t
  have ht : (t.port p).st = (s.port p).st := keeps _ fun _ => rfl
  exact ht

/-- A port that leaves ACTIVE leaves the state of every port (R347, R358, R380). -/
theorem State.st_leaveActive (s : State) (q p : Fin 48) : ((s.leaveActive q).port p).st = (s.port p).st := by
  have h := (s.log (portEvent 1 0x0401 q 0 [])).st_rechoose q p
  rw [State.log_port] at h
  exact (ite_keeps (g := fun t : State => (t.port p).st) (congrArg Port.st (State.port_holdover _ p)) rfl).trans h

/-- A port without its reference clock loses lock (R549). -/
def State.unlock (s : State) (q : Fin 48) : State :=
  if (s.port q).st = .disabled then s
  else
    let was := (s.port q).st
    let s := s.mapPort q (fun x =>
      { x with st := .down, lanes := x.lanes.map (fun l => if l.st = .disabled then l else { l with st := .failed }) })
    if was = .active then s.leaveActive q else s

theorem State.st_unlock (s : State) (q p : Fin 48) :
    ((s.unlock q).port p).st = if q = p ∧ (s.port p).st ≠ .disabled then .down else (s.port p).st := by
  unfold State.unlock
  split_ifs with hd h h
  · exact absurd (h.1 ▸ hd) h.2
  · rfl
  · extract_lets was t
    have ht : (t.port p).st = .down := by
      rw [← h.1]
      exact congrArg Port.st (s.port_mapPort_same q _)
    exact (ite_keeps (g := fun u : State => (u.port p).st) (t.st_leaveActive q p) rfl).trans ht
  · extract_lets was t
    have hq : q ≠ p := fun e => h ⟨e, e ▸ hd⟩
    have ht : (t.port p).st = (s.port p).st := congrArg Port.st (s.port_mapPort_other hq _)
    exact (ite_keeps (g := fun u : State => (u.port p).st) (t.st_leaveActive q p) rfl).trans ht

theorem State.down_foldl_unlock {p : Fin 48} (l : List (Fin 48)) {s : State} (h : (s.port p).st = .down) :
    ((l.foldl State.unlock s).port p).st = .down := by
  refine List.foldlRecOn (motive := fun t : State => (t.port p).st = .down) l _ h fun t ht q _ => ?_
  rw [State.st_unlock, ht, ite_self]

theorem State.st_foldl_unlock {p : Fin 48} {l : List (Fin 48)} (hp : p ∈ l) {s : State} (h : (s.port p).st ≠ .disabled) :
    ((l.foldl State.unlock s).port p).st = .down := by
  induction l generalizing s with
  | nil => cases hp
  | cons q l ih =>
    have hq := s.st_unlock q p
    rw [List.foldl_cons]
    by_cases hqp : q = p
    · rw [if_pos ⟨hqp, h⟩] at hq
      exact State.down_foldl_unlock l hq
    · rw [if_neg fun e => hqp e.1] at hq
      exact ih ((List.mem_cons.mp hp).resolve_left (Ne.symm hqp)) (hq ▸ h)

theorem State.logs_leaveActive_board (s : State) (q : Fin 48) : (s.leaveActive q).board.refclk = s.board.refclk := by
  have hlog : ∀ (t : State) {x : Event}, x.sev.toNat < 2 → (t.log x).board.refclk = t.board.refclk := fun t _ hx =>
    (t.logs_log (.inr hx)).same (g := fun u => u.board.refclk) fun _ _ _ _ _ _ _ => rfl
  have h := hlog s (x := portEvent 1 0x0401 q 0 []) Nat.one_lt_two
  have hhold : ∀ t : State, t.holdover.board.refclk = t.board.refclk := fun t =>
    ite_keeps (g := fun u : State => u.board.refclk) rfl (hlog _ (x := mpEvent 1 0x040A []) Nat.one_lt_two)
  exact (ite_keeps (g := fun u : State => u.board.refclk) (hhold _) rfl).trans h

theorem State.refclk_unlock (s : State) (q : Fin 48) : (s.unlock q).board.refclk = s.board.refclk :=
  ite_keeps (g := fun u : State => u.board.refclk) rfl
    (ite_keeps (g := fun u : State => u.board.refclk) (State.logs_leaveActive_board _ q) rfl)

/-- Without its reference clock every enabled port is DOWN (R549). -/
theorem refclkLoss_downs (s : State) : ∃ s' : State, exec .refclkLoss s = .next s' ∧ s'.board.refclk = false ∧
    ∀ p : Fin 48, (s.port p).st ≠ .disabled → (s'.port p).st = .down :=
  ⟨(List.finRange 48).foldl State.unlock (s.mapBoard (fun b => { b with refclk := false })), rfl,
    (foldl_keeps (fun u : State => u.board.refclk) _ State.refclk_unlock _ _).trans rfl,
    fun p hp => State.st_foldl_unlock (List.mem_finRange p) hp⟩

/-! ### The test port, the supplies and the cables -/

theorem State.ready_keptMp (s : State) (powerOn : Bool) : (s.keptMp powerOn).ready = false := ite_keeps (g := Mp.ready) rfl rfl

/-- A low input is recorded once, as deferred, and no job changes (R513). -/
theorem supplyLow_records {s : State} (h : s.firmwareUp = true) :
    ∃ s' : State, exec .supplyLow s = .next s' ∧ Rules.counted s s' 1 ∧ s'.mp.jobs = s.mp.jobs := by
  refine ⟨s.log (mpEvent 1 0x060A []), ?_, (s.log_mpEvent 0x060A).2,
    (s.logs_log (x := mpEvent 1 0x060A []) (.inr Nat.one_lt_two)).same (g := fun u => u.mp.jobs) fun _ _ _ _ _ _ _ => rfl⟩
  show execSupplyLow s = _
  rw [execSupplyLow, h]
  rfl

/-- An instruction that drives pins takes effect while RESET_N is asserted and is BYPASS otherwise (R530). -/
theorem tapInReset_eq (i : TapInsn) (driving : Bool) (s : State) :
    tapInReset i driving s = .next (if s.board.resetN then Rules.tap s .bypass false else Rules.tap s i driving) := by
  unfold tapInReset State.mapBoard
  beta_reduce
  split_ifs <;> rfl

/-- An instruction that is not public opens with the unlock level only (R493, R530). -/
theorem tapPrivate_eq (code : Byte) (s : State) (hlo : 0x80 ≤ code.toNat) (hhi : code.toNat ≤ 0xFE) :
    (s.sec.level = 2 ∧ s.board.resetN = true → exec (.tapPrivate code) s = .next (Rules.tap s (.vendor code) false)) ∧
    (s.sec.level = 0 ∨ s.board.resetN = false → exec (.tapPrivate code) s = .next (Rules.tap s .bypass false)) := by
  refine ⟨fun ⟨hlevel, hreset⟩ => ?_, fun h => ?_⟩ <;> show execTapPrivate code s = _
  · simp only [execTapPrivate, hlo, hhi, hlevel, hreset, and_self, decide_true, Bool.and_self, Bool.true_or, if_true]
    rfl
  · have hclosed : ((decide (0x80 ≤ code.toNat ∧ code.toNat ≤ 0xFE) && s.board.resetN) &&
        (decide (s.sec.level = 2) || (decide (s.sec.level = 1) && !Config.tapScan code))) = false := by
      rcases h with h | h
      · simp [h]
      · simp [h]
    unfold execTapPrivate
    rw [hclosed]
    rfl

/-- A cable's supply is on 10 ms after the cable has come, and off without it or after an overcurrent (R540). -/
theorem cable_supplied (k : Fin 8) (s : State) :
    (s.board.charged = true ∧ s.board.cable[k] = true ∧ s.board.vcblCut[k] = false →
      exec (.vcblOn k) s = .next (Rules.withBoard (Rules.upTo s (s.board.cableAt[k] + 10000000))
        { s.board with vcbl := s.board.vcbl.set k true })) ∧
    (s.board.cable[k] = false ∨ s.board.vcblCut[k] = true → exec (.vcblOn k) s = .next s) ∧
    (s.board.vcbl[k] = true → exec (.vcblOvercurrent k) s = .next (Rules.withBoard s { s.board with
      vcbl := s.board.vcbl.set k false, vcblCut := s.board.vcblCut.set k true })) := by
  refine ⟨fun ⟨hcharged, hcable, hcut⟩ => ?_, fun h => ?_, fun h => ?_⟩
  · show execVcblOn k s = _
    exact if_neg (by simp [hcharged, hcable, hcut])
  · show execVcblOn k s = _
    refine if_pos ?_
    rcases h with h | h <;> simp [h]
  · show execVcblOvercurrent k s = _
    exact if_neg (by simp [h])

/-- Settles O49: the test port by the cases of RESET_N and of the unlock level, the reference clock port by port. -/
theorem theBoardFollowsItsPins : Obligations.TheBoardFollowsItsPins := by
  unfold Obligations.TheBoardFollowsItsPins
  refine ⟨fun s => ⟨rfl, rfl, rfl⟩, fun _ _ _ => rfl, fun s h => ?_, fun s h => ?_, fun code s hlo hhi => tapPrivate_eq code s hlo hhi,
    fun s h => supplyLow_records h, fun s => ⟨_, rfl, rfl, rfl, rfl, rfl, rfl, s.ready_keptMp true⟩, fun _ => rfl, refclkLoss_downs, fun k s => ?_⟩
  · have htap : ∀ i driving, tapInReset i driving s = .next (Rules.tap s i driving) := fun i d => by
      rw [tapInReset_eq, h, if_neg Bool.false_ne_true]
    exact ⟨htap _ _, htap _ _, htap _ _⟩
  · have htap : ∀ i driving, tapInReset i driving s = .next (Rules.tap s .bypass false) := fun i d => by
      rw [tapInReset_eq, h, if_pos rfl]
    exact ⟨htap _ _, htap _ _, htap _ _⟩
  · exact ⟨rfl, rfl, cable_supplied k s⟩

end Sys2Proof.Machine
end

section
/-! PROOFS. Resets: what each keeps and what a reset interrupts (Table 17-2, R492, R509, R512, R513). -/

namespace Sys2Proof.Machine

/-! ### What a reset interrupts -/

/-- A reset that interrupts no write leaves the block for the next boot as it is. -/
theorem State.cutBy_none (s : State) : s.cutBy {} = s := by
  have hfuses : s.cutFuses {} = s.sec.fuses := by
    unfold State.cutFuses
    cases s.mp.fettles <;> rfl
  unfold State.cutBy
  rw [hfuses]
  rfl

/-- The write of a set or of a record that a reset interrupts touches neither fuses nor external memory. -/
theorem State.cutFuses_of_no_fuses (s : State) {cut : ResetCut} (hfuses : cut.fuses = 0) (hcommit : cut.commit = none) :
    s.cutFuses cut = s.sec.fuses := by
  unfold State.cutFuses
  rw [hfuses, hcommit]
  cases s.mp.fettles <;> rfl

/-! ### What the table keeps -/

section
variable (s : State) (powerOn : Bool)

theorem State.jobs_keptMp : (s.keptMp powerOn).jobs = Mp.reset.jobs := ite_keeps (g := Mp.jobs) rfl rfl
theorem State.repairs_keptMp : (s.keptMp powerOn).repairs = s.mp.repairs := ite_keeps (g := Mp.repairs) rfl rfl

theorem State.log_keptLog : (s.keptLog false).log = s.errs.log := rfl
theorem State.next_keptLog : (s.keptLog false).next = s.errs.next := rfl
theorem State.log_keptLog_powerOn : (s.keptLog true).log = [] := rfl
theorem State.persistent_keptLog : (s.keptLog powerOn).persistent = if s.erased then [] else s.errs.persistent :=
  ite_keeps (g := ErrLog.persistent) rfl rfl

end

/-- What a module keeps when it is not decommissioned (R512). -/
theorem erased_of_intact {s : State} (h : s.sec.fuses.decom = 0) : s.erased = false := decide_eq_false (not_not.mpr h)

theorem keptConfig_of_intact {s : State} (h : s.sec.fuses.decom = 0) : s.keptConfig = s.active := by
  rw [State.keptConfig, erased_of_intact h]
  rfl

theorem keptLog_of_intact {s : State} (h : s.sec.fuses.decom = 0) (powerOn : Bool) :
    (s.keptLog powerOn).persistent = s.errs.persistent := by
  rw [State.persistent_keptLog, erased_of_intact h]
  rfl

theorem keptMp_of_intact {s : State} (h : s.sec.fuses.decom = 0) (powerOn : Bool) :
    (s.keptMp powerOn).retiredCores = s.mp.retiredCores := by
  unfold State.keptMp
  rw [erased_of_intact h]
  rfl

theorem keptPower_of_intact {s : State} (h : s.sec.fuses.decom = 0) (powerOn : Bool) :
    (s.keptPower powerOn).fixnow = BitVec.ofNat 2 (s.active.clkplan.toNat / 2 ^ 29) := by
  unfold State.keptPower
  rw [erased_of_intact h, keptConfig_of_intact h]
  rfl

/-- A decommissioned module keeps neither its configuration, nor the core ledger, nor the persistent records (R492). -/
theorem kept_of_erased {s : State} (h : s.sec.fuses.decom ≠ 0) :
    s.keptConfig = ConfigSet.default ∧ (s.keptMp false).retiredCores = [] ∧ (s.keptLog false).persistent = [] := by
  have he : s.erased = true := decide_eq_true h
  refine ⟨?_, ?_, ?_⟩
  · rw [State.keptConfig, he]
    rfl
  · unfold State.keptMp
    rw [he]
    rfl
  · rw [State.persistent_keptLog, he]
    rfl

/-- After a reset every mailbox is free. -/
theorem free_resetModule (s : State) (x : Source) : (s.resetModule.box x).st = .free := by
  cases x with
  | bmc => rfl
  | fm k => exact congrArg Mailbox.st (Vector.getElem_replicate k.isLt)
  | host n => exact congrArg Mailbox.st (Vector.getElem_replicate n.isLt)

theorem job_resetModule (s : State) (j : Fin 8) : s.resetModule.job j = Job.blank := by
  show (s.keptMp false).jobs[j] = Job.blank
  rw [State.jobs_keptMp]
  exact Vector.getElem_replicate j.isLt

/-- The block after RESET_N has been asserted for 2 µs or more (R509, R512). -/
def State.asserted (s : State) (cut : ResetCut) : State :=
  { (s.cutBy cut).resetModule with board := { (s.cutBy cut).resetModule.board with resetN := false } }

theorem moduleReset_eq {w : Nat} (h : 2000 ≤ w) (cut : ResetCut) (s : State) : exec (.moduleReset w cut) s = .next (s.asserted cut) := by
  show execModuleReset w s cut = _
  rw [execModuleReset, if_neg (Nat.not_lt.mpr h)]
  rfl

/-! ### Bring-up begins -/

/-- A processor whose ROM passes its test derives its identity key and locks the secret; one whose test fails halts (R478, R479, R482). -/
theorem rom_beginBoot (s : State) (fails : BitVec 2) (mp : Fin 2) :
    (s.beginBoot fails).sec.rom[mp] = RomState.boot (s.beginBoot fails).sec.fuses.secret (fails.getLsbD mp.val) :=
  Vector.getElem_ofFn mp.isLt

/-- The block after RESET_N is released with these straps, before bring-up (R510, R537). -/
def State.strapped (s : State) (bmc : Bool) (mid : BitVec 4) : State :=
  { s with board := { s.board.released with resetN := true, releasedAt := s.now, bmcsel := bmc, mid := mid, refclk := true } }

theorem resetRelease_eq (bmc : Bool) (mid : BitVec 4) (fails : BitVec 2) {s : State} (hreset : s.board.resetN = false)
    (hheld : s.board.stage = .held) :
    exec (.resetRelease bmc mid fails) s =
      .next (if s.board.charged then (s.strapped bmc mid).beginBoot fails else s.strapped bmc mid) := by
  show execResetRelease bmc mid s fails = _
  rw [execResetRelease, if_neg (by simp [hreset, hheld])]
  rfl

theorem resetRelease_straps (bmc : Bool) (mid : BitVec 4) {s : State} (hreset : s.board.resetN = false) (hheld : s.board.stage = .held) :
    ∃ s' : State, exec (.resetRelease bmc mid) s = .next s' ∧ s'.board.resetN = true ∧ s'.board.bmcsel = bmc ∧ s'.board.mid = mid ∧
      s'.board.driving = false ∧ s'.board.releasedAt = s.now ∧ s'.board.stage = (if s.board.charged then .a else .held) ∧
      (s.board.tap = .extest → s'.board.tap = .bypass) ∧
      (s.board.charged = true → ∀ mp : Fin 2, s'.sec.rom[mp] =
        { halted := false, locked := true, identity := some (Config.hkdf s'.sec.fuses.secret identityLabel), alias_ := none }) := by
  refine ⟨_, resetRelease_eq bmc mid 0 hreset hheld, ?_⟩
  have htap : s.board.tap = .extest → (s.strapped bmc mid).board.tap = .bypass := fun h => if_pos (decide_eq_true (.inl h))
  rcases hcharged : s.board.charged with _ | _
  · exact ⟨rfl, rfl, rfl, rfl, rfl, hheld, htap, nofun⟩
  · refine ⟨rfl, rfl, rfl, rfl, rfl, rfl, htap, fun _ mp => ?_⟩
    have hpass : (0 : BitVec 2).getLsbD mp.val = false := BitVec.getLsbD_zero
    exact (rom_beginBoot _ _ mp).trans (by rw [hpass]; rfl)

theorem resetRelease_halts (bmc : Bool) (mid : BitVec 4) (mp : Fin 2) {s : State} (hreset : s.board.resetN = false)
    (hheld : s.board.stage = .held) (hcharged : s.board.charged = true) :
    ∃ s' : State, exec (.resetRelease bmc mid 3) s = .next s' ∧ (s'.sec.rom[mp]).halted = true ∧ s'.mpHeld mp = true := by
  refine ⟨_, resetRelease_eq bmc mid 3 hreset hheld, ?_⟩
  rw [if_pos hcharged]
  have hfails : (3 : BitVec 2).getLsbD mp.val = true := by revert mp; decide
  have hhalted : (((s.strapped bmc mid).beginBoot 3).sec.rom[mp]).halted = true := by
    rw [rom_beginBoot]
    exact hfails
  exact ⟨hhalted, by rw [State.mpHeld, hhalted, Bool.or_true]⟩

theorem hotswapChargeDone_eq {s : State} (hcharged : s.board.charged = false) (hcut : s.board.cut = false) :
    ∃ s' : State, exec .hotswapChargeDone s = .next s' ∧ s'.board.charged = true ∧
      s'.board.stage = (if s.board.resetN then .a else s.board.stage) ∧ s'.hbm = s.hbm := by
  refine ⟨_, if_neg (by simp [hcharged, hcut]), ?_⟩
  dsimp only
  split_ifs <;> exact ⟨rfl, rfl, rfl⟩

/-- A reset of one host interface takes its link and its MSI-X table (Table 17-2). -/
theorem hostInterfaceReset_keeps (hi : Fin 2) (pin : Bool) (s : State) :
    ∃ s' : State, exec (.hostInterfaceReset hi pin) s = .next s' ∧ s'.board.hiUp[hi] = false ∧ s'.boxes = s.boxes ∧ s'.mp = s.mp ∧
      s'.cores = s.cores ∧ s'.host.mbien = 0 ∧ s'.host.msixTable[hi] = [] ∧ (∀ x ∈ s'.host.msix, x.1 ≠ hi) ∧
      (pin = true → s'.board.perstN[hi] = false) := by
  refine ⟨_, rfl, Vector.getElem_set_self _, rfl, rfl, rfl, rfl, Vector.getElem_set_self _,
    fun x hx => of_decide_eq_true (List.mem_filter.mp hx).2, fun hpin => ?_⟩
  rw [hpin]
  exact Vector.getElem_set_self _

/-- Settles O50: what a module keeps by whether it is decommissioned, and bring-up by whether the switch has charged. -/
theorem resetsLeaveWhatTheTableKeeps : Obligations.ResetsLeaveWhatTheTableKeeps := by
  unfold Obligations.ResetsLeaveWhatTheTableKeeps
  refine ⟨fun w s h => ?_, fun w s h => ?_, fun s => ?_, fun bmc mid s => resetRelease_straps bmc mid,
    fun bmc mid mp s => resetRelease_halts bmc mid mp, fun w c rs r s h hintact hlast hrecords => ?_, fun s => hotswapChargeDone_eq,
    hostInterfaceReset_keeps, fun hi s h => if_neg h⟩
  · show execModuleReset w s {} = _
    rw [execModuleReset, if_pos h]
  · have heq := moduleReset_eq h {} s
    rw [State.asserted, State.cutBy_none] at heq
    refine ⟨_, heq, rfl, rfl, rfl, rfl, job_resetModule s, free_resetModule s, s.ready_keptMp false, rfl, rfl, rfl, rfl, rfl, rfl, rfl,
      s.repairs_keptMp false, rfl, fun hintact => ?_, kept_of_erased⟩
    have hconfig := keptConfig_of_intact hintact
    exact ⟨hconfig, hconfig, keptPower_of_intact hintact false, keptMp_of_intact hintact false, keptLog_of_intact hintact false⟩
  · refine ⟨s.resetPower, ?_, rfl, rfl, rfl, rfl, rfl, rfl, rfl, rfl, s.repairs_keptMp true, fun hintact =>
      ⟨keptConfig_of_intact hintact, keptLog_of_intact hintact true⟩⟩
    show execPowerOnReset s {} = _
    rw [execPowerOnReset, State.cutBy_none]
  · refine ⟨_, moduleReset_eq h _ s, ?_⟩
    have hfuses : s.cutFuses { config := true, record := true } = s.sec.fuses := s.cutFuses_of_no_fuses rfl rfl
    have hcut : (s.cutBy { config := true, record := true }).sec.fuses.decom = 0 := (congrArg Fuses.decom hfuses).trans hintact
    have hconfig : (s.asserted { config := true, record := true }).active = c := (keptConfig_of_intact hcut).trans hlast
    have hkept : (s.asserted { config := true, record := true }).errs.persistent = rs := by
      refine (keptLog_of_intact hcut false).trans ?_
      show s.errs.persistent.dropLast = rs
      rw [hrecords, List.dropLast_concat]
    exact ⟨hconfig, hconfig, hkept, hfuses, rfl⟩

end Sys2Proof.Machine
end

section
/-! PROOFS. The SPDM responder (R485 to R487, Table 16-4). -/

namespace Sys2Proof.Machine

section
variable {s : State} {tr : Fin 3} {ok : SpdmState → Bool} {body : State → State}

/-- A transport whose host interface is up reaches the responder (R486). -/
theorem spdmReach_of_up (hup : s.firmwareUp = true) (hhost : ∀ hi : Fin 2, tr.val = hi.val + 1 → s.board.hiUp[hi] = true) :
    s.spdmReach tr = true := by
  unfold State.spdmReach
  rw [hup, Bool.true_and]
  split_ifs with h
  · rfl
  · have h0 : tr.val ≠ 0 := fun e => h (Fin.ext e)
    have h3 := tr.isLt
    refine hhost _ ?_
    show tr.val = (tr.val - 1) % 2 + 1
    omega

/-- A module that attests is neither BLANK nor DECOMMISSIONED (Table 16-6). -/
theorem not_blank_of_attests (h : Rules.attests s tr) : ¬ (s.sec.fuses.state = 4 ∨ s.sec.fuses.state = 0) := by
  obtain ⟨-, -, hdecom, h0, h4⟩ := h
  rw [Fuses.state, if_neg (not_not.mpr hdecom)]
  exact fun h => h.elim h4 h0

/-- A request that the connection permits has its effect. -/
theorem spdmCmd_permitted (h : Rules.attests s tr) (hok : ok s.sec.spdm[tr] = true) : spdmCmd tr ok body s = .next (body s) := by
  unfold spdmCmd
  rw [spdmReach_of_up h.1 h.2.1, if_neg (by decide)]
  dsimp only
  rw [if_neg (not_blank_of_attests h), hok]
  rfl

/-- A request out of order is unexpected (R487). -/
theorem spdmCmd_unexpected (h : Rules.attests s tr) (hok : ok s.sec.spdm[tr] = false) :
    spdmCmd tr ok body s = .next (Rules.spdm s tr s.sec.spdm[tr] spdmUnexpected) := by
  unfold spdmCmd
  rw [spdmReach_of_up h.1 h.2.1, if_neg (by decide)]
  dsimp only
  rw [if_neg (not_blank_of_attests h), hok]
  rfl

/-- A module that reaches the responder and is decommissioned answers no request (R487, R490). -/
theorem spdmCmd_decommissioned (hreach : s.spdmReach tr = true) (hdecom : s.sec.fuses.decom ≠ 0) :
    spdmCmd tr ok body s = .next (Rules.spdm s tr s.sec.spdm[tr] spdmUnspecified) := by
  have hstate : s.sec.fuses.state = 4 := if_pos hdecom
  unfold spdmCmd
  rw [hreach, if_neg (by decide)]
  dsimp only
  rw [if_pos (.inl hstate)]
  rfl

/-- A request of an established connection. -/
theorem attestCmd_negotiated (h : Rules.attests s tr) (hst : s.sec.spdm[tr] = .negotiated) : attestCmd tr body s = .next (body s) :=
  spdmCmd_permitted h (by rw [hst]; rfl)

theorem attestCmd_unexpected (h : Rules.attests s tr) (hst : s.sec.spdm[tr] ≠ .negotiated) :
    attestCmd tr body s = .next (Rules.spdm s tr s.sec.spdm[tr] spdmUnexpected) :=
  spdmCmd_unexpected h (beq_false_of_ne hst)

theorem spdmReply_negotiated (hst : s.sec.spdm[tr] = .negotiated) (out : List Byte) :
    s.spdmReply tr out = Rules.spdm s tr .negotiated out := by
  rw [State.spdmReply, hst]
  rfl

end

/-! ### The connection (R486) -/

theorem connection_steps {tr : Fin 3} {s : State} (h : Rules.attests s tr) :
    exec (.getVersion tr) s = .next (Rules.spdm s tr .version [0x04, 0x12, 0x13]) ∧
    (s.sec.spdm[tr] = .version → ∃ out, exec (.getCapabilities tr) s = .next (Rules.spdm s tr .capabilities out)) ∧
    (s.sec.spdm[tr] = .capabilities →
      (∃ out, exec (.negotiateAlgorithms tr true true) s = .next (Rules.spdm s tr .negotiated out)) ∧
      (∃ out, exec (.negotiateAlgorithms tr false true) s = .next (Rules.spdm s tr .capabilities out)) ∧
      (∃ out, exec (.negotiateAlgorithms tr true false) s = .next (Rules.spdm s tr .capabilities out))) := by
  refine ⟨?_, fun hst => ⟨0x61 :: leBytes 4 (2 + 4 + 16 + 2 ^ 17), ?_⟩, fun hst => ?_⟩
  · show execGetVersion tr s none = _
    rw [execGetVersion, spdmCmd_permitted h rfl]
    rfl
  · show execGetCapabilities tr s = _
    rw [execGetCapabilities, spdmCmd_permitted h (by rw [hst]; rfl)]
    rfl
  · have hok : (s.sec.spdm[tr] == SpdmState.capabilities) = true := by rw [hst]; rfl
    have answers : ∀ p q, exec (.negotiateAlgorithms tr p q) s =
        .next (if p && q then s.spdmSet tr .negotiated [0x63, 0x01, 0x01] else s.spdmSet tr .capabilities spdmInvalid) := fun p q => by
      show execNegotiateAlgorithms tr p q s = _
      rw [execNegotiateAlgorithms, spdmCmd_permitted h hok]
    exact ⟨⟨_, answers true true⟩, ⟨_, answers false true⟩, ⟨_, answers true false⟩⟩

/-- DOE discovery names the object types and leaves the connection (R486). -/
theorem discovery_answers {hi : Fin 2} {tr : Fin 3} {s : State} (htr : tr.val = hi.val + 1) (hup : s.firmwareUp = true)
    (hhost : s.board.hiUp[hi] = true) :
    exec (.getVersion tr (some 0)) s = .next (Rules.spdm s tr s.sec.spdm[tr] [1, 0, 0, 1]) ∧
    exec (.getVersion tr (some 1)) s = .next (Rules.spdm s tr s.sec.spdm[tr] [1, 0, 1, 0]) := by
  have hreach : s.spdmReach tr = true := spdmReach_of_up hup fun i hi' => by
    have : i = hi := Fin.ext (by omega)
    rw [this, hhost]
  have hdoe : ¬ (tr = 0 ∨ (!s.spdmReach tr) = true) := by
    rw [hreach]
    rintro (rfl | h)
    · exact absurd htr (by simp)
    · exact absurd h (by decide)
  exact ⟨if_neg hdoe, if_neg hdoe⟩

/-! ### Certificates and challenges -/

section
variable {s : State} {tr : Fin 3} (h : Rules.attests s tr) (hst : s.sec.spdm[tr] = .negotiated)
include h hst

/-- What a certificate request answers without chunks (R486). -/
theorem getCertificate_eq (slot : BitVec 8) (o n : BitVec 16) (chunk : Option (ℕ × ℕ)) :
    exec (.getCertificate tr slot o n chunk) s = .next (s.chunked tr chunk fun s =>
      if slot ≠ 0 ∨ s.chain.length ≤ o.toNat then s.spdmReply tr spdmInvalid
      else
        let part := (s.chain.drop o.toNat).take n.toNat
        s.spdmReply tr ([0x02, 0x00] ++ leBytes 2 part.length ++ leBytes 2 (s.chain.length - o.toNat - part.length) ++ part)) := by
  show execGetCertificate tr slot o n s chunk = _
  rw [execGetCertificate, attestCmd_negotiated h hst]

theorem getCertificate_portion (o n : BitVec 16) (ho : o.toNat < s.chain.length) :
    ∃ rest, exec (.getCertificate tr 0 o n) s = .next (Rules.spdm s tr .negotiated
      ([0x02, 0x00] ++ rest ++ (s.chain.drop o.toNat).take n.toNat)) ∧ rest.length = 4 := by
  refine ⟨leBytes 2 ((s.chain.drop o.toNat).take n.toNat).length ++
    leBytes 2 (s.chain.length - o.toNat - ((s.chain.drop o.toNat).take n.toNat).length), ?_, ?_⟩
  · have hin : ¬ ((0 : BitVec 8) ≠ 0 ∨ s.chain.length ≤ o.toNat) := fun e => e.elim (fun e => e rfl) (Nat.not_le.mpr ho)
    rw [getCertificate_eq h hst, State.chunked, if_neg hin]
    dsimp only
    rw [spdmReply_negotiated hst, ← List.append_assoc [0x02, 0x00]]
  · rw [List.length_append, leBytes_length, leBytes_length]

theorem getCertificate_other_slot {slot : BitVec 8} (o n : BitVec 16) (hslot : slot ≠ 0) :
    exec (.getCertificate tr slot o n) s = .next (Rules.spdm s tr .negotiated spdmInvalid) := by
  rw [getCertificate_eq h hst, State.chunked, if_pos (Or.inl hslot), spdmReply_negotiated hst]

/-- A certificate request answers a response and leaves the rest as it is (R486). -/
theorem getCertificate_replies (slot : BitVec 8) (o n : BitVec 16) :
    ∃ out, exec (.getCertificate tr slot o n) s = .next (Rules.spdm s tr .negotiated out) := by
  rw [getCertificate_eq h hst, State.chunked]
  split_ifs
  · exact ⟨_, congrArg Host.Outcome.next (spdmReply_negotiated hst _)⟩
  · exact ⟨_, congrArg Host.Outcome.next (spdmReply_negotiated hst _)⟩

/-- A response that is taken in chunks is kept with its first one (R486). -/
theorem getCertificate_chunks (slot : BitVec 8) (o n : BitVec 16) (k m : Nat) (t : State) :
    (k = 0 ∧ exec (.getCertificate tr slot o n) s = .next t →
      exec (.getCertificate tr slot o n (some (0, m))) s = .next (Rules.spdm { t with
        sec := { t.sec with spdmLarge := s.sec.spdmLarge.set tr t.sec.spdmOut[tr] } } tr .negotiated ((t.sec.spdmOut[tr]).take m))) ∧
    (k ≠ 0 → exec (.getCertificate tr slot o n (some (k, m))) s =
      .next (Rules.spdm s tr .negotiated ((s.sec.spdmLarge[tr].drop (k * m)).take m))) := by
  refine ⟨fun ⟨_, ht⟩ => ?_, fun hk => ?_⟩
  · obtain ⟨out, hout⟩ := getCertificate_replies h hst slot o n
    obtain rfl := Host.Outcome.next.inj (hout.symm.trans ht)
    rw [getCertificate_eq h hst, State.chunked] at hout
    rw [getCertificate_eq h hst, State.chunked]
    dsimp only at hout ⊢
    rw [Host.Outcome.next.inj hout, if_pos rfl, spdmReply_negotiated]
    · simp [Rules.spdm]
    · exact Vector.getElem_set_self _
  · rw [getCertificate_eq h hst, State.chunked]
    dsimp only
    rw [if_neg hk, spdmReply_negotiated hst]

theorem spdmChallenge_signs (nonce : BitVec 256) :
    ∃ head, exec (.spdmChallenge tr 0 nonce) s = .next (Rules.spdm { s with fresh := s.fresh + 1 } tr .negotiated
      (head ++ leBytes 96 (Config.ecdsaSign ((s.sec.rom[s.activeMp]).alias_.elim 0 BitVec.toNat) (leBytes 32 nonce.toNat ++ head)).toNat)) := by
  refine ⟨[0x03, 0x00] ++ leBytes 48 (Config.sha384 s.chain).toNat ++ leBytes 32 (Config.nonce s.fresh).toNat, ?_⟩
  show execSpdmChallenge tr 0 nonce s = _
  rw [execSpdmChallenge, attestCmd_negotiated h hst, if_neg (not_not.mpr rfl), State.signedReply]
  rw [spdmReply_negotiated]
  · rfl
  · exact hst

/-- What a request for measurements answers without chunks (R485). -/
theorem getMeasurements_eq (i : BitVec 8) (sign : Bool) (nonce : BitVec 256) :
    exec (.getMeasurements tr i sign nonce) s = .next (
      let l : List Nat := if i = 0 then [] else if i = 0xFF then measurementIndices else [i.toNat]
      if l.any (fun i => (s.measurement i).isNone) then s.spdmReply tr spdmInvalid
      else
        let head := [0x60, BitVec.ofNat 8 (if i = 0 then measurementIndices.length else l.length)] ++ s.blocks l
        if sign then s.signedReply tr nonce head else s.spdmReply tr head) := by
  show execGetMeasurements tr i sign nonce s none = _
  rw [execGetMeasurements, attestCmd_negotiated h hst, State.chunked]

theorem getMeasurements_number (nonce : BitVec 256) :
    exec (.getMeasurements tr 0 false nonce) s = .next (Rules.spdm s tr .negotiated [0x60, 14]) := by
  rw [getMeasurements_eq h hst]
  exact congrArg Host.Outcome.next (spdmReply_negotiated hst _)

theorem getMeasurements_one (nonce : BitVec 256) {i : BitVec 8} {d : BitVec 384} (h0 : i ≠ 0) (hall : i ≠ 0xFF)
    (hd : s.measurement i.toNat = some d) :
    exec (.getMeasurements tr i false nonce) s = .next (Rules.spdm s tr .negotiated
      ([0x60, 1, i, 1] ++ leBytes 2 51 ++ [measurementType i.toNat] ++ leBytes 2 48 ++ leBytes 48 d.toNat)) := by
  rw [getMeasurements_eq h hst]
  simp only [if_neg h0, if_neg hall, List.any_cons, List.any_nil, hd, Option.isNone_some, Bool.or_false, Bool.false_eq_true, if_false,
    spdmReply_negotiated hst, State.blocks, List.flatMap_cons, List.flatMap_nil, List.append_nil, Option.elim_some, BitVec.ofNat_toNat,
    BitVec.setWidth_eq, List.length_singleton]
  rfl

theorem getMeasurements_unlisted (nonce : BitVec 256) {i : BitVec 8} (sign : Bool) (h0 : i ≠ 0) (hall : i ≠ 0xFF)
    (hd : s.measurement i.toNat = none) :
    exec (.getMeasurements tr i sign nonce) s = .next (Rules.spdm s tr .negotiated spdmInvalid) := by
  rw [getMeasurements_eq h hst]
  simp only [if_neg h0, if_neg hall, List.any_cons, List.any_nil, hd, Option.isNone_none, Bool.true_or, if_true, spdmReply_negotiated hst]

end

/-- Jobs are measured at 16 and above, each by its image (Table 16-4). -/
theorem measurement_job (s : State) (j : Fin 8) : s.measurement (16 + j.val) = some (s.job j).digest := by
  fin_cases j <;> rfl

/-- Settles O47: each request in the connection state that permits it, and out of order. -/
theorem spdmAttestsTheModule : Obligations.SpdmAttestsTheModule := by
  unfold Obligations.SpdmAttestsTheModule
  refine ⟨fun tr s h => connection_steps h, fun tr s h hst => ⟨?_, getCertificate_portion h hst, fun slot => getCertificate_other_slot h hst,
      spdmChallenge_signs h hst, getMeasurements_number h hst, fun nonce i d => getMeasurements_one h hst nonce,
      fun nonce i sign => getMeasurements_unlisted h hst nonce sign, getCertificate_chunks h hst⟩,
    fun s => rfl, fun hi tr s => discovery_answers, fun tr nonce s h hst => ⟨?_, ?_⟩, fun tr s hup hhost hdecom => ?_,
    fun s => ⟨rfl, rfl, measurement_job s⟩⟩
  · show execGetDigests tr s = _
    rw [execGetDigests, attestCmd_negotiated h hst, spdmReply_negotiated hst]
  · show execGetDigests tr s = _
    rw [execGetDigests, attestCmd_unexpected h hst]
  · show execSpdmChallenge tr 0 nonce s = _
    rw [execSpdmChallenge, attestCmd_unexpected h hst]
  · show execGetVersion tr s none = _
    rw [execGetVersion, spdmCmd_decommissioned (spdmReach_of_up hup hhost) hdecom]

end Sys2Proof.Machine
end

section
/-! PROOFS. PLDM: firmware update and platform monitoring (R489, R490, R519, R520, R538, Table 17-9). -/

namespace Sys2Proof.Machine

section
variable {s : State} (h : Rules.hears s)
include h

/-- A command that the ROM answers as well has its effect. -/
theorem pldmCmd_heard (body : State → State) : pldmCmd true body s = .next (body s) := by
  obtain ⟨hstage, hheld, hstate⟩ := h
  exact if_neg (by simp [hstage, hheld, hstate])

/-- A command of the firmware has its effect. -/
theorem pldmCmd_firmware (hup : s.firmwareUp = true) (body : State → State) : pldmCmd false body s = .next (body s) := by
  obtain ⟨hstage, hheld, hstate⟩ := h
  exact if_neg (by simp [hstage, hheld, hstate, hup])

/-- A command of update mode in its state (R489). -/
theorem updCmd_in_state {st : UpdateState} (hst : s.sec.upd = st) (hidle : st ≠ .idle) (body : State → State) :
    updCmd st body s = .next (body s) := by
  rw [updCmd, pldmCmd_heard h, if_neg (hst ▸ hidle), if_neg (not_not.mpr hst)]

/-- A command of update mode in another of its states is answered with an error (R489). -/
theorem updCmd_out_of_state {st : UpdateState} (hidle : s.sec.upd ≠ .idle) (hst : s.sec.upd ≠ st) (body : State → State) :
    updCmd st body s = .next (Rules.pldm s s.sec [0x84]) := by
  rw [updCmd, pldmCmd_heard h, if_neg hidle, if_pos hst]
  rfl

/-! ### Firmware update -/

theorem pldm_queries :
    (∃ out, exec .queryDeviceIdentifiers s = .next (Rules.pldm s s.sec (0 :: (leBytes 2 Config.pciVendor.toNat ++ out)))) ∧
    (exec .getFirmwareParameters s = .next (Rules.pldm s s.sec (0 :: (leBytes 8 ((s.sec.images.runs s.activeMp).elim 0 imgVersion) ++
      leBytes 8 (((s.sec.images.next[s.activeMp]).bind (fun k => (s.sec.images.slots[s.activeMp])[k])).elim 0 imgVersion))))) ∧
    (∃ code, exec .getStatus s = .next (Rules.pldm s s.sec [0, code, BitVec.ofNat 8 (b2n s.sec.lostEvents)])) := by
  refine ⟨⟨codeText s.ident.code, ?_⟩, ?_, ⟨s.sec.upd.code, ?_⟩⟩
  · show execQueryDeviceIdentifiers s = _
    rw [execQueryDeviceIdentifiers, pldmCmd_heard h]
    rfl
  · show execGetFirmwareParameters s = _
    rw [execGetFirmwareParameters, pldmCmd_heard h]
    rfl
  · show execGetStatus s = _
    rw [execGetStatus, pldmCmd_heard h]
    rfl

/-- Update mode begins from its idle state alone (R489). -/
theorem requestUpdate_begins (n : Word) :
    (s.sec.upd = .idle → (∀ x, (s.box x).st ≠ .running) → s.sec.fuses.decom = 0 →
      (s.sec.fuses.lc = 1 ∨ s.sec.fuses.lc = 2 ∨ s.sec.fuses.lc = 3) →
      exec (.requestUpdate n) s = .next (Rules.pldm s { s.sec with upd := .learn, updSize := 0, updData := [] } [0])) ∧
    (s.sec.upd ≠ .idle → exec (.requestUpdate n) s = .next (Rules.pldm s s.sec [0x81])) := by
  refine ⟨fun hidle hfree hdecom hlc => ?_, fun hidle => ?_⟩ <;> show execRequestUpdate n s = _ <;>
    rw [execRequestUpdate, pldmCmd_heard h]
  · have hclaim : s.fwClaimed = false := by
      refine List.any_eq_false.mpr fun x _ => ?_
      simp [hfree x]
    have hstate : ¬ (s.sec.fuses.state = 0 ∨ s.sec.fuses.state = 4) := by
      rw [Fuses.state, if_neg (not_not.mpr hdecom)]
      omega
    dsimp only
    rw [if_neg (by simp [hidle, hclaim]), if_neg hstate]
    rfl
  · dsimp only
    rw [if_pos (Or.inl hidle)]
    rfl

theorem cancelUpdate_ends :
    (s.sec.upd ≠ .idle → exec .cancelUpdate s = .next (Rules.pldm s { s.sec with
      upd := .idle, updSize := 0, updData := [], images := { s.sec.images with staged := [], verified := false } } [0])) ∧
    (s.sec.upd = .idle → exec .cancelUpdate s = .next (Rules.pldm s s.sec [0x80])) := by
  refine ⟨fun hidle => ?_, fun hidle => ?_⟩ <;> show execCancelUpdate s = _ <;> rw [execCancelUpdate, pldmCmd_heard h]
  · rw [if_neg hidle]
    rfl
  · rw [if_pos hidle]
    rfl

theorem passComponentTable_learns (hst : s.sec.upd = .learn) :
    exec (.passComponentTable 0) s = .next (Rules.pldm s { s.sec with upd := .ready } [0, 0]) ∧
    exec .activateFirmware s = .next (Rules.pldm s s.sec [0x84]) := by
  refine ⟨?_, ?_⟩
  · show execPassComponentTable 0 s = _
    rw [execPassComponentTable, updCmd_in_state h hst nofun]
    rfl
  · show execActivateFirmware s = _
    rw [execActivateFirmware, updCmd_out_of_state h] <;> rw [hst] <;> decide

theorem updateComponent_downloads (hst : s.sec.upd = .ready) {n : Word} (hn : n ≠ 0) (hsize : n.toNat ≤ 25169920) :
    exec (.updateComponent 0 n) s = .next (Rules.pldm s { s.sec with upd := .download, updSize := n.toNat, updData := [] } [0, 0]) := by
  have hfits : ¬ ((0 : BitVec 16) ≠ 0 ∨ n = 0 ∨ 4096 + 24 * 2 ^ 20 < n.toNat) := by
    rintro (e | e | e)
    · exact e rfl
    · exact hn e
    · omega
  show execUpdateComponent 0 n s = _
  rw [execUpdateComponent, updCmd_in_state h hst nofun, if_neg hfits]
  rfl

theorem activateFirmware_marks (hst : s.sec.upd = .ready) (hverified : s.sec.images.verified = true) (hjob : s.anyJob = false) :
    exec .activateFirmware s = .next (Rules.pldm s { s.sec with upd := .idle, images := s.sec.images.activate } [0, 1]) := by
  show execActivateFirmware s = _
  rw [execActivateFirmware, updCmd_in_state h hst nofun, if_neg (by simp [hverified, hjob])]
  rfl

end

/-- The parts of the image come in order (R489). -/
theorem requestFirmwareData_in_order {o : Word} {x : List Byte} {s : State} (hst : s.sec.upd = .download) (hx : x.length ≤ 1024)
    (hroom : s.sec.updData.length + x.length ≤ s.sec.updSize) :
    (o.toNat = s.sec.updData.length →
      exec (.requestFirmwareData o x) s = .next { s with sec := { s.sec with updData := s.sec.updData ++ x } }) ∧
    (o.toNat ≠ s.sec.updData.length → exec (.requestFirmwareData o x) s = .next s) := by
  refine ⟨fun ho => if_neg ?_, fun ho => if_pos (.inr (.inl ho))⟩
  rintro (e | e | e | e)
  · exact e hst
  · exact e ho
  · omega
  · omega

theorem verifyComplete_verifies {s : State} (hst : s.sec.upd = .verify) :
    (s.sec.fuses.verifies s.sec.updData = true → exec .verifyComplete s = .next { s with sec := { s.sec with upd := .apply } }) ∧
    (s.sec.fuses.verifies s.sec.updData = false →
      exec .verifyComplete s = .next { s with sec := { s.sec with upd := .ready, updData := [] } }) := by
  refine ⟨fun hv => ?_, fun hv => ?_⟩ <;> show execVerifyComplete s = _ <;> rw [execVerifyComplete, if_pos hst, hv] <;> rfl

/-- A DECOMMISSIONED module answers no PLDM command (R490). -/
theorem pldmCmd_decommissioned {s : State} (h : s.sec.fuses.state = 4) (rom : Bool) (body : State → State) :
    pldmCmd rom body s = .next s :=
  if_pos (.inr (.inr (.inr h)))

/-! ### Platform monitoring -/

/-- A numeric sensor's reading (R520). -/
theorem getSensorReading_eq {s : State} (h : Rules.hears s) (hup : s.firmwareUp = true) {n : BitVec 16}
    (hn : numericSensors.any (fun x => x == n.toNat) = true) :
    exec (.getSensorReading n) s = .next (Rules.pldm s s.sec (if nhas s.sec.disabled n.toNat then [0, 1]
      else [0, 0, BitVec.ofNat 8 (sensorState n.toNat (s.sensor n.toNat))] ++ leBytes 4 (s.sensor n.toNat))) := by
  show execGetSensorReading n s = _
  rw [execGetSensorReading, pldmCmd_firmware h hup]
  dsimp only
  rw [hn]
  simp only [Bool.not_true, Bool.false_eq_true, if_false]
  split_ifs <;> rfl

theorem numericSensors_die (d : Fin 40) : numericSensors.any (fun x => x == 0x10 + d.val) = true := by
  revert d
  decide

theorem sensorState_die (d : Fin 40) (v : Nat) : sensorState (0x10 + d.val) v = if 105 ≤ v then 2 else if 100 ≤ v then 1 else 0 := by
  have hl : sensorLimits (0x10 + d.val) = (some 100, some 105) := if_pos (by omega)
  simp [sensorState, hl]

theorem sensor_die (s : State) (d : Fin 40) : s.sensor (0x10 + d.val) = (s.power.dies[d]).tj.toNat := by
  have hd : ∀ e : Fin 40, e = d → (s.power.dies[e]).tj.toNat = (s.power.dies[d]).tj.toNat := fun e he => he ▸ rfl
  unfold State.sensor
  dsimp only
  rw [if_neg (by omega), if_neg (by omega), if_neg (by omega), if_neg (by omega), if_pos (by omega)]
  refine hd _ (Fin.ext ?_)
  rw [Fin.val_ofNat]
  omega

theorem getSensorReading_die {s : State} (h : Rules.hears s) (hup : s.firmwareUp = true) (d : Fin 40)
    (hd : nhas s.sec.disabled (0x10 + d.val) = false) :
    exec (.getSensorReading (BitVec.ofNat 16 (0x10 + d.val))) s =
      .next (Rules.pldm s s.sec ([0, 0, if 105 ≤ (s.power.dies[d]).tj.toNat then 2 else if 100 ≤ (s.power.dies[d]).tj.toNat then 1 else 0] ++
        leBytes 4 (s.power.dies[d]).tj.toNat)) := by
  have hn : (BitVec.ofNat 16 (0x10 + d.val)).toNat = 0x10 + d.val := Nat.mod_eq_of_lt (by omega)
  rw [getSensorReading_eq h hup (by rw [hn, numericSensors_die]), hn, hd, sensorState_die, sensor_die]
  simp only [Bool.false_eq_true, if_false]
  split_ifs <;> rfl

theorem getPdr_beyond {s : State} (h : Rules.hears s) (hup : s.firmwareUp = true) {k : Word} (hk : 63 < k.toNat) :
    exec (.getPdr k) s = .next (Rules.pldm s s.sec [0x82]) := by
  have hnone : sensors[max 1 k.toNat - 1]? = none := List.getElem?_eq_none (by
    show 63 ≤ _
    omega)
  show execGetPdr k s = _
  rw [execGetPdr, pldmCmd_firmware h hup]
  dsimp only
  rw [hnone]
  rfl

theorem pollForPlatformEventMessage_next {s : State} (h : Rules.hears s) (hup : s.firmwareUp = true) :
    (s.sec.events = [] → exec .pollForPlatformEventMessage s = .next (Rules.pldm s s.sec [0, 0])) ∧
    (∀ x xs, s.sec.events = x :: xs →
      ∃ s' : State, exec .pollForPlatformEventMessage s = .next s' ∧ s'.sec = { s.sec with events := xs, pldmOut := [0, 0xF0] ++ x } ∧
        s'.board.alertN = (s.board.alertN || xs.isEmpty)) := by
  have hpoll := pldmCmd_firmware h hup
  refine ⟨fun he => ?_, fun x xs he => ?_⟩
  · show execPollForPlatformEventMessage s = _
    rw [execPollForPlatformEventMessage, hpoll, he]
    rfl
  · refine ⟨{ s with
      sec := { s.sec with events := xs, pldmOut := [0, 0xF0] ++ x }, board := { s.board with alertN := s.board.alertN || xs.isEmpty } },
      ?_, rfl, rfl⟩
    show execPollForPlatformEventMessage s = _
    rw [execPollForPlatformEventMessage, hpoll, he]
    rfl

theorem platform_records {s : State} (h : Rules.hears s) (hup : s.firmwareUp = true) :
    exec .getPdrRepositoryInfo s = .next (Rules.pldm s s.sec (0 :: leBytes 4 63)) ∧
    (∃ out, exec (.getPdr 1) s = .next (Rules.pldm s s.sec (0 :: (leBytes 4 2 ++ leBytes 2 1 ++ out)))) ∧
    (∃ out, exec (.getPdr 63) s = .next (Rules.pldm s s.sec (0 :: (leBytes 4 0 ++ leBytes 2 0x82 ++ out)))) := by
  refine ⟨?_, ⟨[0, 0, 0], ?_⟩, ⟨[1, 0, 0], ?_⟩⟩
  · show execGetPdrRepositoryInfo s = _
    rw [execGetPdrRepositoryInfo, pldmCmd_firmware h hup]
    rfl
  · show execGetPdr 1 s = _
    rw [execGetPdr, pldmCmd_firmware h hup]
    rfl
  · show execGetPdr 63 s = _
    rw [execGetPdr, pldmCmd_firmware h hup]
    rfl

/-- A number that is not a sensor's is answered with an error (R520). -/
theorem sensor_errors {s : State} (h : Rules.hears s) (hup : s.firmwareUp = true) :
    exec (.getSensorReading 0x80) s = .next (Rules.pldm s s.sec [0x80]) ∧
    exec (.getStateSensorReadings 1) s = .next (Rules.pldm s s.sec [0x80]) := by
  refine ⟨?_, ?_⟩
  · show execGetSensorReading 0x80 s = _
    rw [execGetSensorReading, pldmCmd_firmware h hup]
    rfl
  · show execGetStateSensorReadings 1 s = _
    rw [execGetStateSensorReadings, pldmCmd_firmware h hup]
    rfl

theorem getStateSensorReadings_ready {s : State} (h : Rules.hears s) (hup : s.firmwareUp = true) :
    exec (.getStateSensorReadings 0x82) s = .next (Rules.pldm s s.sec [0, 0, if s.mp.ready then 1 else 0]) := by
  show execGetStateSensorReadings 0x82 s = _
  rw [execGetStateSensorReadings, pldmCmd_firmware h hup]
  show Host.Outcome.next (s.pldm [0, 0, BitVec.ofNat 8 (b2n s.mp.ready)]) = _
  cases s.mp.ready <;> rfl

theorem sensor_settings {s : State} (h : Rules.hears s) (hup : s.firmwareUp = true) :
    (exec (.setNumericSensorEnable 3 false) s = .next (Rules.pldm s { s.sec with disabled := nins s.sec.disabled 3 } [0])) ∧
    (exec (.setNumericSensorEnable 3 true) s = .next (Rules.pldm s { s.sec with disabled := ndel s.sec.disabled 3 } [0])) ∧
    (∀ r : Byte, exec (.setEventReceiver r) s = .next (Rules.pldm s { s.sec with receiver := some r } [0])) := by
  refine ⟨?_, ?_, fun r => ?_⟩
  · show execSetNumericSensorEnable 3 false s = _
    rw [execSetNumericSensorEnable, pldmCmd_firmware h hup]
    rfl
  · show execSetNumericSensorEnable 3 true s = _
    rw [execSetNumericSensorEnable, pldmCmd_firmware h hup]
    rfl
  · show execSetEventReceiver r s = _
    rw [execSetEventReceiver, pldmCmd_firmware h hup]
    rfl

/-- Settles O48: each command of an update in its state and out of it, and each of monitoring for its sensor. -/
theorem pldmUpdatesAndMonitors : Obligations.PldmUpdatesAndMonitors := by
  unfold Obligations.PldmUpdatesAndMonitors
  refine ⟨fun s h => pldm_queries h,
    fun n s h => ⟨(requestUpdate_begins h n).1, (requestUpdate_begins h n).2, (cancelUpdate_ends h).1, (cancelUpdate_ends h).2⟩,
    fun s h hst => passComponentTable_learns h hst, fun n s h hst => updateComponent_downloads h hst,
    fun o x s => requestFirmwareData_in_order, fun s hst hall => ?_, fun s => verifyComplete_verifies, fun s hst hup => ?_,
    fun s h hst => activateFirmware_marks h hst, fun s h => ?_, fun s hup h => ?_, fun s hup h => pollForPlatformEventMessage_next h hup⟩
  · show execTransferComplete s = _
    rw [execTransferComplete, if_pos ⟨hst, hall⟩]
    rfl
  · show execApplyComplete s = _
    rw [execApplyComplete, if_pos hst, if_pos hup]
    rfl
  · have hnone := @pldmCmd_decommissioned s h
    refine ⟨?_, ?_, ?_, ?_⟩
    · show execGetStatus s = _
      rw [execGetStatus, hnone]
    · show execCancelUpdate s = _
      rw [execCancelUpdate, hnone]
    · show execGetSensorReading 3 s = _
      rw [execGetSensorReading, hnone]
    · show execPollForPlatformEventMessage s = _
      rw [execPollForPlatformEventMessage, hnone]
  · obtain ⟨hinfo, hfirst, hlast⟩ := platform_records h hup
    obtain ⟨hnumeric, hstate⟩ := sensor_errors h hup
    obtain ⟨hoff, hon, hreceiver⟩ := sensor_settings h hup
    refine ⟨hinfo, hfirst, hlast, fun k => getPdr_beyond h hup, ?_, getSensorReading_die h hup, hnumeric,
      getStateSensorReadings_ready h hup, hstate, hoff, hon, hreceiver⟩
    rw [getSensorReading_eq h hup (by decide)]
    rfl

end Sys2Proof.Machine
end

section
/-! PROOFS. The ends of a command that its mailbox runs: its result, or its wait (R454, Table 15-7). -/

namespace Sys2Proof.Machine

section
variable {i : Instr} {src : Source} {q : Request} {body : State → Reply} {s t : State} {rsp : List Byte} {n : Nat}

/-- A command that its mailbox runs ends as its reply says. -/
theorem exec_answers_reply {r : Reply} (hi : exec i s = mpCmd src q body s) (h : Rules.running s src q) (hbody : body s = r) :
    exec i s = .next (State.answer src r) := by
  rw [hi, mpCmd_of_running h, hbody]

theorem exec_ends_ok (hi : exec i s = mpCmd src q body s) (h : Rules.running s src q) (hbody : body s = okWith t rsp) :
    exec i s = .next (t.complete src 0 0 rsp) := exec_answers_reply hi h hbody

theorem exec_ends_notReady (hi : exec i s = mpCmd src q body s) (h : Rules.running s src q) (hbody : body s = notReady t n) :
    exec i s = .next (t.complete src 7 n []) := exec_answers_reply hi h hbody

theorem exec_waits (hi : exec i s = mpCmd src q body s) (h : Rules.running s src q) (hbody : body s = waiting t) :
    exec i s = .next (Rules.begun t src) := exec_answers_reply hi h hbody

theorem done_complete (src : Source) (st : Byte) (d : Nat) {rsp : List Byte} (t : State) (hlen : rsp.length ≤ 4096) :
    Rules.done (t.complete src st d rsp) src st d rsp := by
  obtain ⟨hst, hstatus, hdetail, hrsp, -⟩ := complete_leaves_result src st d rsp t hlen
  exact ⟨hst, hstatus, hdetail, hrsp⟩

theorem done_complete_nil (src : Source) (st : Byte) (d : Nat) (t : State) : Rules.done (t.complete src st d []) src st d [] :=
  done_complete src st d t (Nat.zero_le _)

end

end Sys2Proof.Machine
end

section
/-! PROOFS. Fields of a response: the words and the entries of a list laid out one after the other (Table 15-12). -/

namespace Sys2Proof.Machine

/-- The entry of a number in a list of entries of one length. -/
theorem take_drop_flatMap {α : Type} {f : α → List Byte} {n : Nat} (hf : ∀ x, (f x).length = n) (l : List α) (t : List Byte) {i : Nat}
    (hi : i < l.length) : ((l.flatMap f ++ t).drop (n * i)).take n = f l[i] := by
  induction l generalizing i with
  | nil => exact absurd hi (Nat.not_lt_zero i)
  | cons x xs ih =>
    rw [List.flatMap_cons, List.append_assoc]
    cases i with
    | zero => exact List.take_left' (hf x)
    | succ i =>
      rw [Nat.mul_succ, Nat.add_comm, ← List.drop_drop, List.drop_left' (hf x)]
      exact ih (Nat.lt_of_succ_lt_succ hi)

/-- A word after a field of a response. -/
theorem word32At_append_right {a l : List Byte} {n : Nat} (h : a.length = n) : word32At (a ++ l) n = word32At l 0 := by
  rw [word32At, List.drop_left' h]
  rfl

theorem word32At_leBytes (x : Nat) : word32At (leBytes 4 x) 0 = x % 2 ^ 32 := by
  have h := word32At_leBytes_append x []
  rwa [List.append_nil] at h

/-- A word of a list of words that stands after a field. -/
theorem word32At_wordBytes {a : List Byte} {l : List Nat} (t : List Byte) {n m k : Nat} (ha : a.length = n) (hk : k < l.length)
    (hm : n + 4 * k = m) : word32At (a ++ (wordBytes l ++ t)) m = l[k] % 2 ^ 32 := by
  subst hm
  rw [word32At, ← List.drop_drop, List.drop_left' ha]
  show leNat (((l.flatMap (fun x => leBytes 4 x) ++ t).drop (4 * k)).take 4) = _
  rw [take_drop_flatMap (fun x => leBytes_length 4 x) l t hk, leNat_leBytes]
  rfl

/-- The same, of a response that begins with the words. -/
theorem word32At_wordBytes_head {l : List Nat} (t : List Byte) {m k : Nat} (hk : k < l.length) (hm : 4 * k = m) :
    word32At (wordBytes l ++ t) m = l[k] % 2 ^ 32 :=
  word32At_wordBytes (a := []) t rfl hk ((Nat.zero_add _).trans hm)

@[simp] theorem wordBytes_length (l : List Nat) : (wordBytes l).length = 4 * l.length := by
  rw [wordBytes, List.length_flatMap]
  simp [Nat.mul_comm]

end Sys2Proof.Machine
end

section
/-! PROOFS. Firmware updates by FW_UPDATE (R480, R481, R488, R489, Table 16-5). -/

namespace Sys2Proof.Machine

section
variable {i : Instr} {src : Source} {q : Request} {body : State → Reply} {s t : State} {rsp : List Byte} {n : Nat}

/-- An action on the images that may be taken ends as its reply says. -/
theorem fwAction_allowed {r : Reply} (hi : exec i s = fwAction src q body s) (h : Rules.running s src q) (hmay : Rules.mayUpdate s)
    (hbody : body s = r) : exec i s = .next (State.answer src r) := by
  obtain ⟨h0, h4, hidle⟩ := hmay
  refine exec_answers_reply hi h ?_
  rw [← hbody, if_neg (not_or.mpr ⟨h0, h4⟩), if_neg (not_not.mpr hidle)]

/-- BLANK, DECOMMISSIONED and a PLDM update deny every action (R489, R490). -/
theorem fwAction_denied {r : Nat} (hi : exec i s = fwAction src q body s) (h : Rules.running s src q)
    (hr : (s.sec.fuses.state = 0 ∨ s.sec.fuses.state = 4) ∧ r = 0 ∨
      s.sec.fuses.state ≠ 0 ∧ s.sec.fuses.state ≠ 4 ∧ s.sec.upd ≠ .idle ∧ r = 13) :
    exec i s = .next (s.complete src 4 r []) := by
  refine exec_answers_reply (r := denied s r) hi h ?_
  obtain ⟨hstate, rfl⟩ | ⟨h0, h4, hupd, rfl⟩ := hr
  · rw [if_pos hstate]
  · rw [if_neg (not_or.mpr ⟨h0, h4⟩), if_pos hupd]

end

/-! ### QUERY -/

/-- A module with no image reports every slot empty. -/
theorem slotState_of_empty {s : State} (hstaged : s.sec.images.staged = [])
    (hslots : s.sec.images.slots = Vector.replicate 2 (Vector.replicate 2 none)) (mp k : Fin 2) : s.slotState mp k = 0 := by
  simp only [State.slotState, hstaged, hslots, Fin.getElem_fin, Vector.getElem_replicate, ne_eq, not_true_eq_false, false_and, if_false]

/-- The second pair of words of a response that begins with two words. -/
theorem word64At_after_words (a b x : Nat) (l : List Byte) :
    word64At (wordBytes [a, b] ++ leBytes 8 x ++ l) 8 = x % 2 ^ 64 := by
  have hlen : (wordBytes [a, b]).length = 8 := by simp [wordBytes]
  rw [word64At, List.append_assoc, List.drop_left' hlen, List.take_left' (leBytes_length 8 x), leNat_leBytes]
  rfl

theorem fwQuery_reports {src : Source} {s : State} (h : Rules.running s src (reqAction 0x81 0 [])) :
    ∃ rsp, exec (.fwQuery src) s = .next (s.complete src 0 0 rsp) ∧ rsp.length = 0x18 ∧ word64At rsp 8 = s.sec.fuses.svn % 2 ^ 64 ∧
      (s.sec.images.staged = [] → s.sec.images.slots = Vector.replicate 2 (Vector.replicate 2 none) → word32At rsp 0 = 0) := by
  refine ⟨_, exec_ends_ok (i := .fwQuery src) rfl h rfl, by simp [wordBytes], word64At_after_words _ _ _ _, fun hstaged hslots => ?_⟩
  simp only [slotState_of_empty hstaged hslots]
  exact word32At_leBytes_append 0 _

/-! ### STAGE, CHUNK, VERIFY -/

section
variable {src : Source} {x : List Byte} {s : State}

theorem fwStage_stages (h : Rules.running s src (reqFwStage x)) (hmay : Rules.mayUpdate s) (hx : x ≠ []) (hlen : x.length ≤ 25169920) :
    exec (.fwStage src x) s = .next ((Rules.withImages s { s.sec.images.setSpare none with staged := x, verified := false }).complete
      src 0 0 []) :=
  fwAction_allowed (i := .fwStage src x) rfl h hmay (if_neg (not_or.mpr ⟨hx, Nat.not_lt.mpr hlen⟩))

theorem fwStage_refuses (h : Rules.running s src (reqFwStage x)) (hmay : Rules.mayUpdate s) (hx : x = [] ∨ 25169920 < x.length) :
    exec (.fwStage src x) s = .next (s.complete src 3 0x10 []) :=
  fwAction_allowed (i := .fwStage src x) rfl h hmay (if_pos hx)

theorem fwChunk_begins (h : Rules.running s src (reqFwChunk 0 x)) (hmay : Rules.mayUpdate s) (hx : x ≠ []) (hlen : x.length ≤ 4000) :
    exec (.fwChunk src 0 x) s = .next ((Rules.withImages s { s.sec.images.setSpare none with staged := x, verified := false }).complete
      src 0 0 []) :=
  fwAction_allowed (i := .fwChunk src 0 x) rfl h hmay
    ((if_neg (fun h0 => h0.1 rfl)).trans (if_neg (not_or.mpr ⟨hx, Nat.not_lt.mpr hlen⟩)))

theorem fwChunk_continues {o : Word} (h : Rules.running s src (reqFwChunk o x)) (hmay : Rules.mayUpdate s) (hx : x ≠ [])
    (hlen : x.length ≤ 4000) (ho : o ≠ 0) (hat : o.toNat = s.sec.images.staged.length) :
    exec (.fwChunk src o x) s = .next ((Rules.withImages s
      { s.sec.images.setSpare none with staged := s.sec.images.staged ++ x, verified := false }).complete src 0 0 []) := by
  refine fwAction_allowed (i := .fwChunk src o x) (r := okWith (Rules.withImages s
      { s.sec.images.setSpare none with staged := s.sec.images.staged ++ x, verified := false }) []) rfl h hmay
    (((if_neg (fun h0 => h0.2 hat)).trans (if_neg (not_or.mpr ⟨hx, Nat.not_lt.mpr hlen⟩))).trans ?_)
  rw [if_neg ho]
  rfl

theorem fwChunk_elsewhere {o : Word} (h : Rules.running s src (reqFwChunk o x)) (hmay : Rules.mayUpdate s) (ho : o ≠ 0)
    (hat : o.toNat ≠ s.sec.images.staged.length) : exec (.fwChunk src o x) s = .next (s.complete src 3 8 []) :=
  fwAction_allowed (i := .fwChunk src o x) rfl h hmay (if_pos ⟨ho, hat⟩)

/-- VERIFY takes the staged image if it verifies (R481). -/
theorem fwVerify_ends (h : Rules.running s src (reqAction 0x81 3 [])) (hmay : Rules.mayUpdate s) :
    (s.sec.fuses.verifies s.sec.images.staged = true →
      exec (.fwVerify src) s = .next ((Rules.withImages s { s.sec.images with verified := true }).complete src 0 0
        (leBytes 8 (word64At s.sec.images.staged 0x10) ++ leBytes 4 (word32At s.sec.images.staged 8)))) ∧
    (s.sec.fuses.verifies s.sec.images.staged = false → exec (.fwVerify src) s = .next (s.complete src 4 15 [])) :=
  ⟨fun hv => fwAction_allowed (i := .fwVerify src) rfl h hmay (if_pos hv),
    fun hv => fwAction_allowed (i := .fwVerify src) rfl h hmay (if_neg (by simp [hv]))⟩

end

/-! ### ACTIVATE -/

section
variable {src : Source} {now : Bool} {s : State}

theorem fwActivate_with_job (h : Rules.running s src (reqFwActivate now)) (hmay : Rules.mayUpdate s) (hjob : s.anyJob = true) :
    exec (.fwActivate src now) s = .next (s.complete src 4 14 []) :=
  fwAction_allowed (i := .fwActivate src now) rfl h hmay (if_pos hjob)

theorem fwActivate_unverified (h : Rules.running s src (reqFwActivate now)) (hmay : Rules.mayUpdate s) (hjob : s.anyJob = false)
    (hver : s.sec.images.verified = false) : exec (.fwActivate src now) s = .next (s.complete src 4 15 []) :=
  fwAction_allowed (i := .fwActivate src now) rfl h hmay ((if_neg (by simp [hjob])).trans (if_pos (by simp [hver])))

theorem fwActivate_activates (h : Rules.running s src (reqFwActivate false)) (hmay : Rules.mayUpdate s) (hjob : s.anyJob = false)
    (hver : s.sec.images.verified = true) :
    exec (.fwActivate src false) s = .next ((Rules.withImages s s.sec.images.activate).complete src 0 0 []) :=
  fwAction_allowed (i := .fwActivate src false) rfl h hmay ((if_neg (by simp [hjob])).trans (if_neg (by simp [hver])))

theorem State.sec_unrecorded_images : Unrecorded (fun s : State => s.sec.images) where
  errs _ _ := rfl
  host _ _ := rfl
  switch _ _ := rfl
  events _ _ _ _ := rfl
  box _ src _ := by cases src <;> rfl
  job _ _ _ := rfl

theorem State.resetAt_unrecorded : Unrecorded (fun s : State => s.mp.resetAt) where
  errs _ _ := rfl
  host _ _ := rfl
  switch _ _ := rfl
  events _ _ _ _ := rfl
  box _ src _ := by cases src <;> rfl
  job _ _ _ := rfl

/-- With NOW the module resets 100 ms later. -/
theorem fwActivate_now (h : Rules.running s src (reqFwActivate true)) (hmay : Rules.mayUpdate s) (hjob : s.anyJob = false)
    (hver : s.sec.images.verified = true) :
    ∃ s', exec (.fwActivate src true) s = .next s' ∧ Rules.done s' src 0 0 [] ∧ s'.sec.images = s.sec.images.activate ∧
      s'.mp.resetAt = some (s.now + 100000000) :=
  ⟨_, fwAction_allowed (i := .fwActivate src true) rfl h hmay ((if_neg (by simp [hjob])).trans (if_neg (by simp [hver]))),
    done_complete_nil src 0 0 _, State.sec_unrecorded_images.complete _ src 0 0 [], State.resetAt_unrecorded.complete _ src 0 0 []⟩

end

/-- The slot to be written is not the one that runs (R484). -/
theorem Images.spareSlot_ne {i : Images} {mp k : Fin 2} (hk : i.running[mp] = some k) : i.spareSlot mp ≠ k := by
  rw [Images.spareSlot, hk]
  have hother : ∀ k : Fin 2, (if k = 0 then 1 else 0) ≠ k := by decide
  exact hother k

/-- A slot that is written has the new content, and the others keep theirs. -/
theorem Images.setSlot_slots (i : Images) (m j mp k : Fin 2) (x : Option (List Byte)) :
    ((i.setSlot m j x).slots[mp])[k] = if mp = m ∧ k = j then x else (i.slots[mp])[k] := by
  by_cases hm : mp = m
  · subst hm
    by_cases hk : k = j
    · subst hk
      simp [Images.setSlot]
    · have hkj : j.val ≠ k.val := fun e => hk (Fin.ext e.symm)
      simp [Images.setSlot, hk, Vector.getElem_set_ne, hkj]
  · have hmm : m.val ≠ mp.val := fun e => hm (Fin.ext e.symm)
    simp [Images.setSlot, hm, Vector.getElem_set_ne, hmm]

/-- The content of the slots after both spare ones are written. -/
theorem Images.setSpare_slots (i : Images) (x : Option (List Byte)) (mp k : Fin 2) :
    ((i.setSpare x).slots[mp])[k] = if k = i.spareSlot mp then x else (i.slots[mp])[k] := by
  rw [Images.setSpare, Images.setSlot_slots, Images.setSlot_slots]
  have hmp : mp = 0 ∨ mp = 1 := by omega
  obtain rfl | rfl := hmp <;> simp

theorem Images.activate_slots (i : Images) (mp : Fin 2) :
    (i.activate.slots[mp])[i.spareSlot mp] = some i.staged ∧ i.activate.next[mp] = some (i.spareSlot mp) ∧
      i.activate.staged = [] ∧ ∀ k, i.running[mp] = some k → (i.activate.slots[mp])[k] = (i.slots[mp])[k] := by
  refine ⟨(i.setSpare_slots _ mp _).trans (if_pos rfl), ?_, rfl,
    fun k hk => (i.setSpare_slots _ mp k).trans (if_neg (Images.spareSlot_ne hk).symm)⟩
  obtain ⟨m, hm⟩ := mp
  obtain rfl | rfl : m = 0 ∨ m = 1 := by omega
  · rfl
  · rfl

/-! ### COMMIT -/

theorem fwCommit_ends {src : Source} {x : List Byte} {s : State} (h : Rules.running s src (reqAction 0x81 6 [])) (hmay : Rules.mayUpdate s)
    (hA : s.sec.images.runs 0 = some x) (hB : s.sec.images.runs 1 = some x) (hheldA : s.mp.heldA = false) (hheldB : s.mp.heldB = false) :
    (s.sec.fuses.svn < word32At x 8 →
      exec (.fwCommit src) s = .next (({ s with sec := { s.sec with fuses := { s.sec.fuses with
        svn := word32At x 8, revoked := s.sec.fuses.revoked ||| BitVec.ofNat 4 (word32At x 0x1C) } } } : State).complete src 0 0
          (leBytes 8 (word32At x 8)))) ∧
    (word32At x 8 ≤ s.sec.fuses.svn → exec (.fwCommit src) s = .next (s.complete src 4 15 [])) := by
  refine ⟨fun hsvn => (fwAction_allowed (i := .fwCommit src) (r := okWith _ (leBytes 8 (word32At x 8))) rfl h hmay ?_).trans rfl,
    fun hsvn => fwAction_allowed (i := .fwCommit src) (r := denied s 15) rfl h hmay ?_⟩
  · dsimp only
    rw [hA, hB]
    exact if_pos ⟨rfl, by simp [hheldA], by simp [hheldB], hsvn⟩
  · dsimp only
    rw [hA, hB]
    exact if_neg (fun hc => Nat.not_lt.mpr hsvn hc.2.2.2)

/-- Settles O45: each action by the branch of its reply, and the slots by what ACTIVATE writes. -/
theorem firmwareIsStagedVerifiedAndActivated : Obligations.FirmwareIsStagedVerifiedAndActivated := by
  unfold Obligations.FirmwareIsStagedVerifiedAndActivated
  refine ⟨fun src s h => fwQuery_reports h,
    fun src x s h hmay => ⟨fun ⟨hx, hlen⟩ => fwStage_stages h hmay hx hlen, fwStage_refuses h hmay⟩,
    fun src x s hmay hx hlen => ⟨fun h => fwChunk_begins h hmay hx hlen, fun o h ho hat => fwChunk_continues h hmay hx hlen ho hat,
      fun o h ho hat => fwChunk_elsewhere h hmay ho hat⟩,
    fun src s h hmay => fwVerify_ends h hmay, fun src s hmay => ?activate, Images.activate_slots,
    fun src s h hmay => fwAction_allowed (i := .fwAbort src) rfl h hmay rfl,
    fun src x s h hmay hA hB hheldA hheldB => fwCommit_ends h hmay hA hB hheldA hheldB,
    fun src r s hr => ?denied⟩
  case activate =>
    exact ⟨fun now h hjob => fwActivate_with_job h hmay hjob, fun now h ⟨hjob, hver⟩ => fwActivate_unverified h hmay hjob hver,
      fun ⟨hjob, hver⟩ => ⟨fun h => fwActivate_activates h hmay hjob hver, fun h => fwActivate_now h hmay hjob hver⟩⟩
  case denied =>
    exact ⟨fun h => fwAction_denied (i := .fwVerify src) rfl h hr, fun h => fwAction_denied (i := .fwAbort src) rfl h hr,
      fun h => fwAction_denied (i := .fwCommit src) rfl h hr, fun x h => fwAction_denied (i := .fwStage src x) rfl h hr⟩

end Sys2Proof.Machine
end

section
/-! PROOFS. The life cycle (R490 to R496, Tables 16-6 and 16-7). -/

namespace Sys2Proof.Machine

section
variable {src : Source} {s : State}

theorem lifecycleQuery_reports (h : Rules.running s src (reqAction 0x80 0 [])) :
    ∃ rsp, exec (.lifecycleQuery src) s = .next (s.complete src 0 0 rsp) ∧ rsp.length = 60 ∧ word32At rsp 4 = s.sec.level.toNat ∧
      word32At rsp 0x38 = s.sec.failed.toNat ∧ word32At rsp 0 = (if s.sec.fuses.decom ≠ 0 then 4 else s.sec.fuses.lc % 2 ^ 32) := by
  refine ⟨_, exec_ends_ok (i := .lifecycleQuery src) rfl h rfl, by simp [wordBytes], ?_, ?_, ?_⟩
  · refine (word32At_append_right (leBytes_length 4 s.sec.fuses.state)).trans ?_
    refine (word32At_leBytes_append s.sec.level.toNat _).trans (Nat.mod_eq_of_lt ?_)
    exact Nat.lt_trans s.sec.level.isLt (by decide)
  · refine (word32At_append_right (by simp [wordBytes])).trans ?_
    exact (word32At_leBytes _).trans (Nat.mod_eq_of_lt s.sec.failed.isLt)
  · refine (word32At_leBytes_append s.sec.fuses.state _).trans ?_
    rw [Fuses.state]
    split_ifs <;> rfl

/-! ### DEPLOY and CHALLENGE -/

theorem state_eq_one_iff (f : Fuses) : f.state = 1 ↔ f.lc = 1 ∧ f.decom = 0 := by
  rw [Fuses.state]
  split_ifs with h
  · exact ⟨fun h4 => absurd h4 (by decide), fun h1 => absurd h1.2 h⟩
  · exact ⟨fun h1 => ⟨h1, not_not.mp h⟩, fun h1 => h1.1⟩

theorem deploy_ends {key : BitVec 768} (h : Rules.running s src (reqDeploy key)) :
    (s.sec.fuses.lc ≠ 1 ∨ s.sec.fuses.decom ≠ 0 → exec (.deploy src key) s = .next (s.complete src 4 16 [])) ∧
    (s.sec.fuses.lc = 1 ∧ s.sec.fuses.decom = 0 →
      (s.anyJob = true → exec (.deploy src key) s = .next (s.complete src 4 14 [])) ∧
      (s.anyJob = false → (s.sec.fuses.owner = none ∨ s.sec.fuses.owner = some (Config.sha384 (leBytes 96 key.toNat))) →
        exec (.deploy src key) s = .next (Rules.afterFettle s src (.deploy (Config.sha384 (leBytes 96 key.toNat)))))) := by
  refine ⟨fun hout => ?_, fun hin => ?_⟩
  · have hstate : s.sec.fuses.state ≠ 1 := fun h1 => by
      obtain ⟨hlc, hdecom⟩ := (state_eq_one_iff _).mp h1
      exact hout.elim (· hlc) (· hdecom)
    exact ends_denied (i := .deploy src key) rfl h (if_pos hstate)
  · have hstate : ¬ s.sec.fuses.state ≠ 1 := not_not.mpr ((state_eq_one_iff _).mpr hin)
    refine ⟨fun hjob => ends_denied (i := .deploy src key) rfl h ((if_neg hstate).trans (if_pos hjob)), fun hjob howner => ?_⟩
    have howned : ¬ (s.sec.fuses.owner.isSome = true ∧ s.sec.fuses.owner ≠ some (Config.sha384 (leBytes 96 key.toNat))) := by
      rintro ⟨hsome, hother⟩
      rcases howner with hnone | hsame
      · rw [hnone] at hsome
        cases hsome
      · exact hother hsame
    exact exec_waits (i := .deploy src key) rfl h ((if_neg hstate).trans ((if_neg (by simp [hjob])).trans (if_neg howned)))

section
variable {purpose : Word}

theorem purpose_listed (h1 : 1 ≤ purpose.toNat) (h4 : purpose.toNat ≤ 4) : ¬ (purpose = 0 ∨ 4 < purpose.toNat) := by
  rintro (rfl | h)
  · exact absurd h1 (by decide)
  · omega

/-- The block to be signed: its length, its serial number, and its purpose (R495). -/
theorem signedBlock_fields (s : State) (purpose : Word) :
    (s.signedBlock purpose).length = 64 ∧ leNat (((s.signedBlock purpose).drop 32).take 16) = s.ident.serial.toNat ∧
      word32At (s.signedBlock purpose) 48 = purpose.toNat := by
  refine ⟨by simp [State.signedBlock], ?_, ?_⟩
  · unfold State.signedBlock
    simp only [List.append_assoc]
    rw [List.drop_left' (leBytes_length 32 _), List.take_left' (leBytes_length 16 _), leNat_leBytes]
    exact Nat.mod_eq_of_lt s.ident.serial.isLt
  · unfold State.signedBlock
    rw [List.append_assoc _ (leBytes 4 s.sec.fuses.state), List.append_assoc _ (leBytes 4 purpose.toNat)]
    refine (word32At_append_right (by simp)).trans ((word32At_leBytes_append _ _).trans ?_)
    exact Nat.mod_eq_of_lt purpose.isLt

theorem lifecycleChallenge_ends (h : Rules.running s src (reqChallenge purpose)) (h1 : 1 ≤ purpose.toNat) (h4 : purpose.toNat ≤ 4) :
    (purposeKeys s.sec.fuses.state purpose = none → exec (.lifecycleChallenge src purpose) s = .next (s.complete src 4 16 [])) ∧
    (purposeKeys s.sec.fuses.state purpose ≠ none →
      (3 ≤ s.sec.failed.toNat → exec (.lifecycleChallenge src purpose) s = .next (s.complete src 4 18 [])) ∧
      (s.sec.failed.toNat < 3 →
        ∃ b, exec (.lifecycleChallenge src purpose) s = .next (({ s with
            sec := { s.sec with challenge := some { purpose := purpose, block := b, issued := s.now } }, fresh := s.fresh + 1 } : State).complete src 0 0 b) ∧
          b.length = 64 ∧ leNat ((b.drop 32).take 16) = s.ident.serial.toNat ∧ word32At b 48 = purpose.toNat)) := by
  have hlisted := purpose_listed h1 h4
  refine ⟨fun hkeys => ?_, fun hkeys => ⟨fun hfailed => ?_, fun hfailed => ⟨s.signedBlock purpose, ?_, signedBlock_fields s purpose⟩⟩⟩
  · exact ends_denied (i := .lifecycleChallenge src purpose) rfl h ((if_neg hlisted).trans (if_pos (by rw [hkeys]; rfl)))
  all_goals
    have hsome : ¬ (purposeKeys s.sec.fuses.state purpose).isNone = true := by rwa [Option.isNone_iff_eq_none]
  · exact ends_denied (i := .lifecycleChallenge src purpose) rfl h ((if_neg hlisted).trans ((if_neg hsome).trans (if_pos hfailed)))
  · exact exec_ends_ok (i := .lifecycleChallenge src purpose) rfl h
      ((if_neg hlisted).trans ((if_neg hsome).trans (if_neg (Nat.not_le.mpr hfailed))))

/-! ### RESPOND (R494 to R496) -/

/-- What the life cycle keeps, and the fettles that are due. -/
def State.authority (s : State) : Option Challenge × Word × Fuses × BitVec 2 × List FettleRun :=
  (s.sec.challenge, s.sec.failed, s.sec.fuses, s.sec.level, s.mp.fettles)

theorem State.authority_unrecorded : Unrecorded State.authority where
  errs _ _ := rfl
  host _ _ := rfl
  switch _ _ := rfl
  events _ _ _ _ := rfl
  box s src b := by cases src <;> rfl
  job _ _ _ := rfl

/-- A failed authorisation counts and ends the challenge, and changes nothing else of the life cycle (R496). -/
theorem authority_authFail (s : State) (src : Source) :
    (State.answer src s.authFail).authority = (none, s.sec.failed + 1, s.sec.fuses, s.sec.level, s.mp.fettles) := by
  refine (State.authority_unrecorded.complete _ src 4 17 []).trans ?_
  exact (State.logs_log _ (x := mpEvent 1 0x0706 []) (.inr (by decide))).same (g := State.authority) (fun _ _ _ _ _ _ _ => rfl)

variable {auths : List Authorisation} {need : Bool × Bool} {c : Challenge}

/-- A response that serves a challenge is judged by the challenge. -/
theorem respond_judges (h : Rules.running s src (reqRespond purpose auths)) (h1 : 1 ≤ purpose.toNat) (h4 : purpose.toNat ≤ 4)
    (hlen : auths.length = 1 ∨ auths.length = 2) (hneed : purposeKeys s.sec.fuses.state purpose = some need)
    (hc : s.sec.challenge = some c) :
    exec (.respond src purpose auths) s = .next (State.answer src
      (if c.purpose ≠ purpose ∨ c.issued + 60 * 10 ^ 9 < s.now ∨ !matchKeys need auths ∨
          !auths.all (fun a => s.sec.fuses.accepts c.block a) then (Rules.unchallenged s).authFail
        else if s.anyJob then denied (Rules.unchallenged s) 14 else (Rules.unchallenged s).fettleThen src (purposeAct purpose))) := by
  refine exec_answers_reply (i := .respond src purpose auths) rfl h ?_
  refine (if_neg (purpose_listed h1 h4)).trans ((if_neg (by omega)).trans ?_)
  rw [hneed, hc]
  rfl

theorem respond_ends (h : Rules.running s src (reqRespond purpose auths)) (h1 : 1 ≤ purpose.toNat) (h4 : purpose.toNat ≤ 4)
    (hlen : auths.length = 1 ∨ auths.length = 2) (hneed : purposeKeys s.sec.fuses.state purpose = some need)
    (hc : s.sec.challenge = some c) :
    (c.purpose = purpose ∧ s.now ≤ c.issued + 60000000000 ∧ matchKeys need auths = true ∧
        (∀ a ∈ auths, s.sec.fuses.accepts c.block a = true) ∧ s.anyJob = false →
      exec (.respond src purpose auths) s = .next (Rules.afterFettle (Rules.unchallenged s) src
        (match purpose.toNat with | 1 => .rma | 2 => .decommission | 3 => .level 1 | _ => .level 2))) ∧
    (c.purpose ≠ purpose ∨ c.issued + 60000000000 < s.now ∨ matchKeys need auths = false ∨ (∃ a ∈ auths, s.sec.fuses.accepts c.block a = false) →
      ∃ s', exec (.respond src purpose auths) s = .next s' ∧ Rules.done s' src 4 17 [] ∧ s'.sec.challenge = none ∧
        s'.sec.failed = s.sec.failed + 1 ∧ s'.sec.fuses = s.sec.fuses ∧ s'.sec.level = s.sec.level ∧ s'.mp.fettles = s.mp.fettles) := by
  rw [respond_judges h h1 h4 hlen hneed hc]
  refine ⟨fun ⟨hpurpose, htime, hkeys, hall, hjob⟩ => ?_, fun hbad => ⟨State.answer src (Rules.unchallenged s).authFail, ?_, ?_⟩⟩
  · have hgood : ¬ (c.purpose ≠ purpose ∨ c.issued + 60 * 10 ^ 9 < s.now ∨ (!matchKeys need auths) = true ∨
        (!auths.all (fun a => s.sec.fuses.accepts c.block a)) = true) := by
      rintro (hp | ht | hk | ha)
      · exact hp hpurpose
      · exact Nat.not_lt.mpr htime ht
      · simp [hkeys] at hk
      · rw [List.all_eq_true.mpr hall] at ha
        cases ha
    rw [if_neg hgood, if_neg (by simp [hjob])]
    rfl
  · rw [if_pos]
    rcases hbad with hp | ht | hk | ⟨a, ha, hrefused⟩
    · exact .inl hp
    · exact .inr (.inl ht)
    · exact .inr (.inr (.inl (by simp [hk])))
    · refine .inr (.inr (.inr ?_))
      rw [Bool.not_eq_true', List.all_eq_false]
      exact ⟨a, ha, Bool.eq_false_iff.mp hrefused⟩
  · have hkept := authority_authFail (Rules.unchallenged s) src
    simp only [State.authority, Prod.mk.injEq] at hkept
    obtain ⟨hchallenge, hfailed, hfuses, hlevel, hfettles⟩ := hkept
    exact ⟨done_complete_nil src 4 17 _, hchallenge, hfailed, hfuses, hlevel, hfettles⟩

theorem respond_refuses (h : Rules.running s src (reqRespond purpose auths)) :
    (purpose = 0 ∨ 4 < purpose.toNat → exec (.respond src purpose auths) s = .next ((Rules.unchallenged s).complete src 3 4 [])) ∧
    (1 ≤ purpose.toNat ∧ purpose.toNat ≤ 4 ∧ auths.length ≠ 1 ∧ auths.length ≠ 2 →
      exec (.respond src purpose auths) s = .next ((Rules.unchallenged s).complete src 3 8 [])) ∧
    (1 ≤ purpose.toNat ∧ purpose.toNat ≤ 4 ∧ (auths.length = 1 ∨ auths.length = 2) ∧ purposeKeys s.sec.fuses.state purpose = none →
      exec (.respond src purpose auths) s = .next ((Rules.unchallenged s).complete src 4 16 [])) := by
  refine ⟨fun hp => ends_badArg (i := .respond src purpose auths) rfl h (if_pos hp), fun ⟨h1, h4, hlen⟩ => ?_,
    fun ⟨h1, h4, hlen, hkeys⟩ => ?_⟩
  · exact ends_badArg (i := .respond src purpose auths) rfl h ((if_neg (purpose_listed h1 h4)).trans (if_pos hlen))
  · refine ends_denied (i := .respond src purpose auths) (t := Rules.unchallenged s) (n := 16) rfl h
      ((if_neg (purpose_listed h1 h4)).trans ((if_neg (by omega)).trans ?_))
    rw [hkeys]
    rfl

end

theorem challengeExpiry_lapses {c : Challenge} (hc : s.sec.challenge = some c) :
    exec .challengeExpiry s = .next { Rules.upTo s (c.issued + 60000000000) with sec := { s.sec with challenge := none } } := by
  show execChallengeExpiry s = _
  rw [execChallengeExpiry, hc]
  rfl

theorem relock_ends (h : Rules.running s src (reqAction 0x80 4 [])) :
    (s.anyJob = true → exec (.relock src) s = .next (s.complete src 4 14 [])) ∧
    (s.anyJob = false → exec (.relock src) s = .next (Rules.afterFettle s src (.level 0))) :=
  ⟨fun hjob => ends_denied (i := .relock src) rfl h (if_pos hjob),
    fun hjob => exec_waits (i := .relock src) rfl h (if_neg (by simp [hjob]))⟩

end

/-! ### The end of the module's fettle -/

/-- What a fettle does not reach: the clock, the fuses, the unlock level, and whether the command of a source runs. -/
def State.beyondFettle (src : Source) (s : State) : Nat × Fuses × BitVec 2 × Bool :=
  (s.now, s.sec.fuses, s.sec.level, decide ((s.box src).st = .running))

section
variable (src : Source)

theorem State.beyondFettle_of_parts {s t : State} (hnow : t.now = s.now) (hsec : t.sec = s.sec) (hbox : t.box src = s.box src) :
    t.beyondFettle src = s.beyondFettle src := by
  rw [State.beyondFettle, State.beyondFettle, hnow, hsec, hbox]

theorem State.Logs.beyondFettle {s t : State} (h : s.Logs t) : t.beyondFettle src = s.beyondFettle src :=
  h.same fun _ _ _ _ _ _ _ => by cases src <;> rfl

theorem State.beyondFettle_unfaulted : Unfaulted (State.beyondFettle src) where
  core _ _ _ := by cases src <;> rfl
  faulted _ _ := by cases src <;> rfl
  mp _ _ _ := by cases src <;> rfl
  put s x := ((State.Logs.refl s).logPut x).beyondFettle src

/-- A record of the module itself does not reach it, whatever its severity (R518). -/
theorem State.log_beyondFettle (s : State) {x : Event} (hjob : x.job = 0) : (s.log x).beyondFettle src = s.beyondFettle src := by
  obtain ⟨u, hu, heq⟩ := (State.Logs.refl s).log_severity (x := x) (.inr (.inr hjob))
  rw [heq, (State.beyondFettle_unfaulted src).severity, hu.beyondFettle]

theorem State.notice_beyondFettle (s : State) (cause : BitVec 16) (job : Nat) (detail : List Word) :
    (s.log (noticeEvent cause job detail)).beyondFettle src = s.beyondFettle src :=
  (State.logs_log s (.inl rfl)).beyondFettle src

theorem State.mapMap_beyondFettle (s : State) (d : Nat) (f : CoreMap → CoreMap) :
    (s.mapMap d f).beyondFettle src = s.beyondFettle src := State.beyondFettle_of_parts src rfl rfl (by cases src <;> rfl)

theorem State.mapJob_beyondFettle (s : State) (j : Fin 8) (f : Job → Job) : (s.mapJob j f).beyondFettle src = s.beyondFettle src :=
  State.beyondFettle_of_parts src rfl rfl (by cases src <;> rfl)

theorem State.setCore_beyondFettle (s : State) (id : CoreId) (c : Core) : (s.setCore id c).beyondFettle src = s.beyondFettle src :=
  State.beyondFettle_of_parts src rfl rfl (by cases src <;> rfl)

theorem State.readmitChannel_beyondFettle (s : State) : s.readmitChannel.beyondFettle src = s.beyondFettle src := by
  unfold State.readmitChannel
  extract_lets b
  split
  · exact ite_keeps (State.beyondFettle_of_parts src rfl rfl (by cases src <;> rfl)) rfl
  · rfl

theorem State.retireChannel_beyondFettle (s : State) : s.retireChannel.beyondFettle src = s.beyondFettle src := by
  unfold State.retireChannel
  extract_lets b
  split
  · exact ite_keeps (State.beyondFettle_of_parts src rfl rfl (by cases src <;> rfl)) rfl
  · rfl

theorem State.fettleHbm_beyondFettle (s : State) : s.fettleHbm.beyondFettle src = s.beyondFettle src := by
  unfold State.fettleHbm
  rw [State.retireChannel_beyondFettle, State.readmitChannel_beyondFettle]
  refine (foldl_keeps (State.beyondFettle src) _ (fun t j => ite_keeps ?_ rfl) _ _).trans
    (State.beyondFettle_of_parts src rfl rfl (by cases src <;> rfl))
  exact (State.notice_beyondFettle src _ _ _ _).trans (State.mapJob_beyondFettle src t j _)

theorem State.leavePosition_beyondFettle (s : State) (id : CoreId) : (s.leavePosition id).beyondFettle src = s.beyondFettle src := by
  unfold State.leavePosition
  split
  · rfl
  · exact ite_keeps (State.beyondFettle_of_parts src rfl rfl (by cases src <;> rfl))
      (State.beyondFettle_of_parts src rfl rfl (by cases src <;> rfl))

theorem State.moveIndex_beyondFettle (s : State) (id : CoreId) (p : Nat) : (s.moveIndex id p).beyondFettle src = s.beyondFettle src := by
  unfold State.moveIndex
  extract_lets s₁ d f s₂ c
  have h₁ : s₁.beyondFettle src = s.beyondFettle src := s.leavePosition_beyondFettle src id
  have h₂ : s₂.beyondFettle src = s₁.beyondFettle src := State.beyondFettle_of_parts src rfl rfl (by cases src <;> rfl)
  exact (ite_keeps (s₂.setCore_beyondFettle src id _) rfl).trans (h₂.trans h₁)

theorem State.exhausted_beyondFettle (s : State) (d : Nat) (id : Option CoreId) :
    (s.exhausted d id).beyondFettle src = s.beyondFettle src := by
  unfold State.exhausted
  extract_lets _ s₁ _
  have h₁ : s₁.beyondFettle src = s.beyondFettle src := State.beyondFettle_of_parts src rfl rfl (by cases src <;> rfl)
  rw [State.log_beyondFettle src s₁ rfl, h₁]

theorem State.nodeLimit_beyondFettle (s : State) (d : Nat) : (s.nodeLimit d).beyondFettle src = s.beyondFettle src := by
  unfold State.nodeLimit
  extract_lets _ s₁ _
  have h₁ : s₁.beyondFettle src = s.beyondFettle src := State.beyondFettle_of_parts src rfl rfl (by cases src <;> rfl)
  rw [State.log_beyondFettle src s₁ rfl, h₁]

theorem State.replaceCore_beyondFettle (s : State) (id : CoreId) : (s.replaceCore id).beyondFettle src = s.beyondFettle src := by
  unfold State.replaceCore
  split
  · exact s.moveIndex_beyondFettle src id _
  · exact s.exhausted_beyondFettle src _ _

theorem State.settleNodes_beyondFettle (s : State) (d : Nat) : (s.settleNodes d).beyondFettle src = s.beyondFettle src := by
  have hboot : (s.bootNodes d).beyondFettle src = s.beyondFettle src := ite_keeps rfl (s.mapMap_beyondFettle src d _)
  have hcheck : ((s.bootNodes d).checkNodes d).beyondFettle src = (s.bootNodes d).beyondFettle src :=
    ite_keeps rfl (State.nodeLimit_beyondFettle src _ d)
  exact (foldl_keeps (State.beyondFettle src) _ (State.replaceCore_beyondFettle src) _ _).trans (hcheck.trans hboot)

theorem State.respare_beyondFettle (s : State) (ids : List CoreId) : (s.respare ids).beyondFettle src = s.beyondFettle src :=
  foldl_keeps (State.beyondFettle src) _ (fun t id => ite_keeps rfl (State.setCore_beyondFettle src t id _)) ids s

theorem State.applyAllRepairs_beyondFettle (s : State) : s.applyAllRepairs.beyondFettle src = s.beyondFettle src :=
  State.beyondFettle_of_parts src rfl rfl (by cases src <;> rfl)

/-- The command of a mailbox runs on when the mailbox is fettled. -/
theorem Mailbox.fettled_running (b : Mailbox) : (b.fettled.st = .running) ↔ (b.st = .running) := by
  unfold Mailbox.fettled
  split_ifs with h
  · rfl
  · have hidle : ¬ b.st = .running := fun hrun => h (by simp [Mailbox.busy, hrun])
    exact ⟨fun h' => (nomatch h'), fun h' => absurd h' hidle⟩

theorem State.fettleModule_beyondFettle (s : State) : s.fettleModule.beyondFettle src = s.beyondFettle src := by
  unfold State.fettleModule
  extract_lets s₁ _ _ _ _ s₂ s₃
  have h₁ : s₁.beyondFettle src = s.beyondFettle src :=
    (State.applyAllRepairs_beyondFettle src _).trans (s.fettleHbm_beyondFettle src)
  clear_value s₁
  have hbox : s₂.box src = (s₁.box src).fettled := by
    cases src with
    | bmc => rfl
    | fm k => exact Vector.getElem_map Mailbox.fettled k.isLt
    | host n => exact Vector.getElem_map Mailbox.fettled n.isLt
  have h₂ : s₂.beyondFettle src = s₁.beyondFettle src := by
    have hrun : decide ((s₂.box src).st = .running) = decide ((s₁.box src).st = .running) := by
      rw [hbox]
      exact decide_eq_decide.mpr (Mailbox.fettled_running _)
    rw [State.beyondFettle, State.beyondFettle, hrun]
  have h₃ : s₃.beyondFettle src = s₂.beyondFettle src :=
    foldl_keeps (State.beyondFettle src) _ (State.settleNodes_beyondFettle src) _ _
  rw [State.respare_beyondFettle, h₃, h₂, h₁]

theorem State.fettleWhole_beyondFettle (s : State) : (s.fettleScope .whole).beyondFettle src = s.beyondFettle src := by
  show (s.fettleModule.fettleNotice 0).beyondFettle src = _
  rw [State.fettleNotice, State.notice_beyondFettle, State.fettleModule_beyondFettle]

theorem State.fettleFails_beyondFettle (s : State) (q : Nat) : (s.fettleFails q).beyondFettle src = s.beyondFettle src := by
  unfold State.fettleFails
  extract_lets x
  split
  · exact (State.log_beyondFettle src _ rfl).trans ((State.setCore_beyondFettle src _ _ _).trans
      (State.beyondFettle_of_parts src rfl rfl (by cases src <;> rfl)))
  · exact (State.log_beyondFettle src _ rfl).trans ((State.mapMap_beyondFettle src _ _ _).trans
      (State.beyondFettle_of_parts src rfl rfl (by cases src <;> rfl)))

end

/-- The end of the module's fettle answers the command that waits for it, with what it then does. -/
theorem fettleDone_answers {src : Source} {a : FettleAct} {fs : List FettleRun} {s : State} (failed : List CorePos)
    (hrun : (s.box src).st = .running) (hfettles : s.mp.fettles = { scope := .whole, src := some src, act := a } :: fs) :
    ∃ t : State, exec (.fettleDone failed) s = .next ((t.afterFettle a).complete src 0 0 (a.response t.now)) ∧ t.now = s.now ∧
      t.sec.fuses = s.sec.fuses ∧ t.sec.level = s.sec.level := by
  show ∃ t : State, execFettleDone failed s = _ ∧ _
  rw [execFettleDone, hfettles]
  dsimp -zeta only
  rw [if_neg (nofun : ¬ (!s.fettleDue FettleScope.whole) = true)]
  extract_lets qs _ s₁ s₂ _ s₃
  have hfirst : State.beyondFettle src { s with mp := { s.mp with fettles := fs } } = s.beyondFettle src :=
    State.beyondFettle_of_parts src rfl rfl (by cases src <;> rfl)
  have hmodule : s₁.beyondFettle src = s.beyondFettle src := (State.fettleWhole_beyondFettle src _).trans hfirst
  have hfails : s₂.beyondFettle src = s₁.beyondFettle src :=
    foldl_keeps (State.beyondFettle src) _ (State.fettleFails_beyondFettle src) _ _
  have hstage : s₃.beyondFettle src = s₂.beyondFettle src :=
    ite_keeps (State.beyondFettle_of_parts src rfl rfl (by cases src <;> rfl)) rfl
  have hall : s₃.beyondFettle src = s.beyondFettle src := hstage.trans (hfails.trans hmodule)
  simp only [State.beyondFettle, Prod.mk.injEq, decide_eq_decide] at hall
  obtain ⟨hnow, hfuses, hlevel, hst⟩ := hall
  exact ⟨s₃, by rw [if_pos (hst.mpr hrun)], hnow, hfuses, hlevel⟩

/-- What the end of a fettle changes: the fuses, the level, and the time of the reset that follows. -/
def State.transition (s : State) : Fuses × BitVec 2 × Option Nat := (s.sec.fuses, s.sec.level, s.mp.resetAt)

theorem State.transition_unrecorded : Unrecorded State.transition where
  errs _ _ := rfl
  host _ _ := rfl
  switch _ _ := rfl
  events _ _ _ _ := rfl
  box s src b := by cases src <;> rfl
  job _ _ _ := rfl

theorem fettleDone_sets_level {src : Source} {n : BitVec 2} {fs : List FettleRun} {s : State} (failed : List CorePos)
    (hrun : (s.box src).st = .running) (hfettles : s.mp.fettles = { scope := .whole, src := some src, act := .level n } :: fs) :
    ∃ s', exec (.fettleDone failed) s = .next s' ∧ Rules.done s' src 0 0 [] ∧ s'.sec.level = n ∧ s'.sec.fuses = s.sec.fuses := by
  obtain ⟨t, hstep, -, hfuses, -⟩ := fettleDone_answers failed hrun hfettles
  have hkept := State.transition_unrecorded.complete (t.afterFettle (.level n)) src 0 0 []
  simp only [State.transition, Prod.mk.injEq] at hkept
  obtain ⟨hf, hl, -⟩ := hkept
  exact ⟨_, hstep, done_complete_nil src 0 0 _, hl, hf.trans hfuses⟩

theorem fettleDone_deploys {src : Source} {d : BitVec 384} {fs : List FettleRun} {s : State} (failed : List CorePos)
    (hrun : (s.box src).st = .running) (hfettles : s.mp.fettles = { scope := .whole, src := some src, act := .deploy d } :: fs) :
    ∃ s', exec (.fettleDone failed) s = .next s' ∧ Rules.done s' src 0 0 (leBytes 48 d.toNat) ∧
      s'.sec.fuses = { s.sec.fuses with owner := some d, lc := 2 } ∧ s'.mp.resetAt = some (s.now + 100000000) := by
  obtain ⟨t, hstep, hnow, hfuses, -⟩ := fettleDone_answers failed hrun hfettles
  have hkept := State.transition_unrecorded.complete (t.afterFettle (.deploy d)) src 0 0 (leBytes 48 d.toNat)
  simp only [State.transition, Prod.mk.injEq] at hkept
  obtain ⟨hf, -, hr⟩ := hkept
  refine ⟨_, hstep, done_complete src 0 0 _ ((leBytes_length 48 d.toNat).trans_le (by decide)), hf.trans ?_, hr.trans ?_⟩
  · rw [← hfuses]
    rfl
  · rw [← hnow]
    rfl

/-! ### Resets -/

theorem delayedReset_boots {t : Nat} {s : State} (ht : s.mp.resetAt = some t) :
    ∃ s', exec .delayedReset s = .next s' ∧ s'.board.stage = .a ∧ s'.mp.ready = false ∧ s'.mp.resetAt = none ∧ s'.cores = [] ∧
      (s.sec.fuses.decom = 0 → s'.sec.fuses = s.sec.fuses) ∧
      (s.sec.fuses.decom ≠ 0 → s'.sec.fuses = { s.sec.fuses with decom := 0xF, secret := BitVec.allOnes 256 }) ∧
      (∀ mp : Fin 2, s'.sec.rom[mp] =
        { halted := false, locked := true, identity := some (Config.hkdf s'.sec.fuses.secret identityLabel), alias_ := none }) := by
  refine ⟨(s.wait t).resetModule.beginBoot 0, ?_, rfl, (s.wait t).ready_keptMp false, ?_, rfl,
    fun h => if_neg (not_not.mpr h), fun h => if_pos h, fun mp => ?_⟩
  · show execDelayedReset s 0 = _
    rw [execDelayedReset, ht]
  · exact ite_keeps (g := Mp.resetAt) (a := Mp.reset) rfl rfl
  · have hpass : (0 : BitVec 2).getLsbD mp.val = false := BitVec.getLsbD_zero
    exact (rom_beginBoot _ _ mp).trans (by rw [hpass]; rfl)

/-- A reset during the fuse writes of a transition leaves the first of them. -/
theorem moduleReset_blows {w n : Nat} {src : Option Source} {a : FettleAct} {fs : List FettleRun} {s : State} (hw : 2000 ≤ w)
    (hfettles : s.mp.fettles = { scope := .whole, src := src, act := a } :: fs) :
    ∃ s', exec (.moduleReset w { fuses := n }) s = .next s' ∧ s'.sec.fuses = s.sec.fuses.blown a n := by
  refine ⟨_, moduleReset_eq hw _ s, ?_⟩
  show s.cutFuses { fuses := n } = _
  rw [State.cutFuses, hfettles]

/-- More writes than a transition has are all of them. -/
theorem blown_of_length_le (f : Fuses) {a : FettleAct} {n : Nat} (h : a.writes.length ≤ n) : f.blown a n = f.blown a a.writes.length := by
  rw [Fuses.blown, Fuses.blown, List.take_of_length_le h, List.take_length]

theorem blown_deploy (f : Fuses) (d : BitVec 384) (n : Nat) :
    f.blown (.deploy d) n = if n = 0 then f else if n = 1 then { f with owner := some d } else { f with owner := some d, lc := 2 } := by
  match n with
  | 0 => rfl
  | 1 => rfl
  | n + 2 =>
    rw [blown_of_length_le f (Nat.le_add_left 2 n), if_neg (by omega), if_neg (by omega)]
    rfl

/-- The writes of decommissioning: the bits of the flag first, and the device secret last (R492, log entry 92). -/
theorem blown_decommission (f : Fuses) (n : Nat) :
    (f.blown .decommission n).lc = f.lc ∧ (n = 0 → f.blown .decommission n = f) ∧ (1 ≤ n → (f.blown .decommission n).decom ≠ 0) ∧
      (n ≤ 4 → (f.blown .decommission n).secret = f.secret) ∧ (5 ≤ n → (f.blown .decommission n).secret = BitVec.allOnes 256) := by
  have h1 : ∀ x : BitVec 4, x ||| 1 ≠ 0 := by decide
  have h2 : ∀ x : BitVec 4, x ||| 1 ||| 2 ≠ 0 := by decide
  have h3 : ∀ x : BitVec 4, x ||| 1 ||| 2 ||| 4 ≠ 0 := by decide
  have h4 : ∀ x : BitVec 4, x ||| 1 ||| 2 ||| 4 ||| 8 ≠ 0 := by decide
  match n with
  | 0 => exact ⟨rfl, fun _ => rfl, nofun, fun _ => rfl, nofun⟩
  | 1 => exact ⟨rfl, nofun, fun _ => h1 _, fun _ => rfl, fun h => absurd h (by decide)⟩
  | 2 => exact ⟨rfl, nofun, fun _ => h2 _, fun _ => rfl, fun h => absurd h (by decide)⟩
  | 3 => exact ⟨rfl, nofun, fun _ => h3 _, fun _ => rfl, fun h => absurd h (by decide)⟩
  | 4 => exact ⟨rfl, nofun, fun _ => h4 _, fun _ => rfl, fun h => absurd h (by decide)⟩
  | n + 5 =>
    rw [blown_of_length_le f (Nat.le_add_left 5 n)]
    exact ⟨rfl, nofun, fun _ => h4 _, fun h => absurd h (by omega), fun _ => rfl⟩

/-- Settles O46: each command by its reply, the end of a fettle by what a fettle does not reach, and a reset by the first fuse writes. -/
theorem lifeCycleMovesByAuthority : Obligations.LifeCycleMovesByAuthority := by
  unfold Obligations.LifeCycleMovesByAuthority
  refine ⟨fun src s => lifecycleQuery_reports, fun src key s => deploy_ends, fun src purpose s h => ⟨fun hp => ?_, fun ⟨h1, h4⟩ =>
      lifecycleChallenge_ends h h1 h4⟩, fun src purpose auths need c s h h1 h4 hlen hneed hc => respond_ends h h1 h4 hlen hneed hc,
    fun src purpose auths s => respond_refuses, fun c s => challengeExpiry_lapses, fun src s => relock_ends,
    fun src n failed fs s => fettleDone_sets_level failed, fun src d failed fs s => fettleDone_deploys failed,
    fun t s => delayedReset_boots, fun w n src fs s hw => ⟨fun d hfettles => ?_, fun hfettles => ?_⟩⟩
  · exact ends_badArg (i := .lifecycleChallenge src purpose) rfl h (if_pos hp)
  · obtain ⟨s', hstep, hfuses⟩ := moduleReset_blows hw hfettles
    exact ⟨s', hstep, hfuses.trans (blown_deploy _ d n)⟩
  · obtain ⟨s', hstep, hfuses⟩ := moduleReset_blows hw hfettles
    exact ⟨s', hstep, by rw [hfuses]; exact blown_decommission _ n⟩

end Sys2Proof.Machine
end

section
/-! PROOFS. The reporting commands (Table 15-12, R427, R475, R514). -/

namespace Sys2Proof.Machine

section
variable {src : Source} {s : State}

/-! ### DEV_INFO and HEALTH -/

/-- The words of DEV_INFO after the serial number. -/
def State.devWords (s : State) : List Nat :=
  [3, 32 * perDie s.ident.code, spmBytes s.ident.code, if s.board.pchRetired.isSome then 1023 else 1024,
    if s.active.route.roles.all (fun w => bitsAt w.toNat 30 2 == 0) && s.self == 0 then 0xFFFFFFFF else s.self.toNat,
    s.fwVersion 0, s.fwVersion 1, b2n s.mp.needRet + b2n s.mp.activeB * 2 + b2n s.mp.standbyLost * 4, Config.pciVendor.toNat]

theorem State.devInfo_eq (s : State) :
    s.devInfo = (codeText s.ident.code ++ leBytes 16 s.ident.serial.toNat) ++ (wordBytes s.devWords ++ []) := (List.append_nil _ ▸ rfl)

theorem codeText_length (c : OrderingCode) : (codeText c).length = 8 := by cases c <;> rfl

/-- A word of DEV_INFO. -/
theorem word32At_devInfo (s : State) {m k : Nat} (hk : k < 9) (hm : 24 + 4 * k = m) :
    word32At s.devInfo m = s.devWords[k]'hk % 2 ^ 32 := by
  rw [s.devInfo_eq]
  exact word32At_wordBytes [] (by rw [List.length_append, codeText_length, leBytes_length]) hk hm

theorem b2n_le_one (b : Bool) : b2n b ≤ 1 := by cases b <;> decide

theorem devInfo_reports (h : Rules.running s src reqDevInfo) :
    ∃ rsp, exec (.devInfo src) s = .next (s.complete src 0 0 rsp) ∧ rsp.length = 0x3C ∧ rsp.take 4 = [0x4B, 0x57, 0x32, 0x2D] ∧
      leNat ((rsp.drop 8).take 16) = s.ident.serial.toNat ∧ word32At rsp 0x18 = 3 ∧
      word32At rsp 0x1C = 32 * perDie s.ident.code ∧ word32At rsp 0x20 = spmBytes s.ident.code ∧
      word32At rsp 0x24 = (if s.board.pchRetired.isSome then 1023 else 1024) ∧
      word32At rsp 0x34 = b2n s.mp.needRet + b2n s.mp.activeB * 2 + b2n s.mp.standbyLost * 4 ∧
      word32At rsp 0x38 = Config.pciVendor.toNat := by
  refine ⟨s.devInfo, exec_ends_ok (i := .devInfo src) rfl h rfl, ?_, ?_, ?_, ?_, ?_, ?_, ?_, ?_, ?_⟩
  · rw [s.devInfo_eq]
    simp [codeText_length, State.devWords]
  · rw [s.devInfo_eq, List.append_assoc]
    cases s.ident.code <;> rfl
  · rw [s.devInfo_eq, List.append_assoc, List.drop_left' (codeText_length _), List.take_left' (leBytes_length 16 _), leNat_leBytes]
    exact Nat.mod_eq_of_lt s.ident.serial.isLt
  · exact word32At_devInfo s (k := 0) (by decide) rfl
  · refine (word32At_devInfo s (k := 1) (by decide) rfl).trans (Nat.mod_eq_of_lt ?_)
    show 32 * perDie s.ident.code < 2 ^ 32
    cases s.ident.code <;> decide
  · refine (word32At_devInfo s (k := 2) (by decide) rfl).trans (Nat.mod_eq_of_lt ?_)
    show spmBytes s.ident.code < 2 ^ 32
    cases s.ident.code <;> decide
  · refine (word32At_devInfo s (k := 3) (by decide) rfl).trans (Nat.mod_eq_of_lt ?_)
    show (if s.board.pchRetired.isSome then 1023 else 1024) < 2 ^ 32
    split_ifs <;> decide
  · refine (word32At_devInfo s (k := 7) (by decide) rfl).trans (Nat.mod_eq_of_lt ?_)
    show b2n s.mp.needRet + b2n s.mp.activeB * 2 + b2n s.mp.standbyLost * 4 < 2 ^ 32
    have h1 := b2n_le_one s.mp.needRet
    have h2 := b2n_le_one s.mp.activeB
    have h3 := b2n_le_one s.mp.standbyLost
    omega
  · refine (word32At_devInfo s (k := 8) (by decide) rfl).trans (Nat.mod_eq_of_lt ?_)
    exact Nat.lt_trans Config.pciVendor.isLt (by decide)

/-- The words of HEALTH before the counts of records. -/
def State.healthHead (s : State) : List Nat :=
  let tj (d : Nat) : Nat := (s.power.dies[Fin.ofNat 40 d]).tj.toNat
  let free (d : Nat) : Nat := (s.freeRisers d).length
  [s.mstate.toNat, tj (argMax tj 40) + argMax tj 40 * 256, s.pwrstat, s.flState,
    free (argMin free 32) + argMin free 32 * 2 ^ 16,
    match s.board.pchRetired.or s.board.pchCand with | some x => x.toNat | none => 0xFFFF, s.ageEol]

/-- The ports in ACTIVE. -/
def State.trainedPorts (s : State) : List (Fin 48) := (List.finRange 48).filter (fun p => decide ((s.port p).st = .active))

/-- The words of HEALTH after the counts of records: ports in ACTIVE, and half-width directions of them. -/
def State.healthTail (s : State) : List Nat :=
  let four (f : Port → Byte) : Nat := (s.trainedPorts.filter (fun p => lanesIn (f (s.port p)) == 4)).length
  [s.trainedPorts.length, four (fun p => p.rxLanes) + four (fun p => p.txLanes)]

theorem State.health_eq (s : State) : s.health = wordBytes (s.healthHead ++ s.errs.counts.toList ++ s.healthTail) ++ [] :=
  (List.append_nil _ ▸ rfl)

theorem State.healthHead_length (s : State) : s.healthHead.length = 7 := rfl
theorem State.healthTail_length (s : State) : s.healthTail.length = 2 := rfl

theorem health_reports (h : Rules.running s src reqHealth) :
    ∃ rsp, exec (.health src) s = .next (s.complete src 0 0 rsp) ∧ rsp.length = 0x34 ∧
      word32At rsp 0x14 = (match s.board.pchRetired.or s.board.pchCand with | some x => x.toNat | none => 0xFFFF) ∧
      (∀ k : Fin 4, s.errs.counts[k] < 2 ^ 32 → word32At rsp (0x1C + 4 * k.val) = s.errs.counts[k]) ∧
      word32At rsp 0x2C = ((List.finRange 48).filter (fun p => decide ((s.port p).st = .active))).length := by
  have hlen : (s.healthHead ++ s.errs.counts.toList ++ s.healthTail).length = 13 := by
    simp [State.healthHead_length, State.healthTail_length]
  refine ⟨s.health, exec_ends_ok (i := .health src) rfl h rfl, ?_, ?_, fun k hk => ?_, ?_⟩ <;> rw [s.health_eq]
  · rw [List.append_nil, wordBytes_length, hlen]
  · refine (word32At_wordBytes_head [] (k := 5) (by rw [hlen]; decide) rfl).trans (Nat.mod_eq_of_lt ?_)
    show (match s.board.pchRetired.or s.board.pchCand with | some x => x.toNat | none => 0xFFFF) < 2 ^ 32
    split
    · exact Nat.lt_trans (BitVec.isLt _) (by decide)
    · decide
  · have hk4 := k.isLt
    refine (word32At_wordBytes_head [] (k := 7 + k.val) (by rw [hlen]; omega) (by omega)).trans ?_
    have hcount : (s.healthHead ++ s.errs.counts.toList ++ s.healthTail)[7 + k.val]'(by rw [hlen]; omega) = s.errs.counts[k] := by
      rw [List.getElem_append_left (by simp [State.healthHead_length]; omega)]
      rw [List.getElem_append_right (by rw [State.healthHead_length]; omega)]
      simp [State.healthHead_length]
    rw [hcount, Nat.mod_eq_of_lt hk]
  · refine (word32At_wordBytes_head [] (k := 11) (by rw [hlen]; decide) rfl).trans ?_
    have hports : (s.healthHead ++ s.errs.counts.toList ++ s.healthTail)[11]'(by rw [hlen]; decide) = s.trainedPorts.length := by
      rw [List.getElem_append_right (by simp [State.healthHead_length])]
      simp [State.healthHead_length, State.healthTail]
    rw [hports]
    exact Nat.mod_eq_of_lt (Nat.lt_of_le_of_lt (List.length_filter_le _ _) (List.length_finRange.trans_lt (by decide)))

/-! ### CFG_GET -/

theorem cfgGet_reads {b : BitVec 8} {copy clr : Bool} {o n : BitVec 32} (h : Rules.running s src (reqCfgGet b copy clr o n))
    (hb : blockAssigned b.toNat = true) (ho : o.toNat % 4 = 0) (hn : 1 ≤ n.toNat) (hn' : n.toNat ≤ 1024) :
    exec (.cfgGet src b copy clr o n) s = .next ((if clr then s.blockClears b.toNat o.toNat n.toNat else s).complete src 0 0
      (wordBytes (s.blockWords copy b.toNat o.toNat n.toNat))) := by
  refine exec_ends_ok (i := .cfgGet src b copy clr o n) rfl h ?_
  exact (if_neg (by rw [hb]; decide)).trans ((if_neg (not_not.mpr ho)).trans (if_neg (by omega)))

theorem cfgGet_unassigned {b : BitVec 8} {copy clr : Bool} {o n : BitVec 32} (h : Rules.running s src (reqCfgGet b copy clr o n))
    (hb : b.toNat = 0x29 ∨ 0x31 < b.toNat) : exec (.cfgGet src b copy clr o n) s = .next (s.complete src 3 0 []) := by
  have hun : blockAssigned b.toNat = false := decide_eq_false (by omega)
  exact ends_badArg (i := .cfgGet src b copy clr o n) rfl h (if_pos (by rw [hun]; rfl))

/-! ### Phase tables, routes, the log -/

theorem PhaseEntry.bytes_length (x : PhaseEntry) : x.bytes.length = 8 := by simp [PhaseEntry.bytes]

theorem phaseTableRead_reads {die : BitVec 8} {n : BitVec 2} (h : Rules.running s src (reqPhaseRead die n)) (hn : n = 1 ∨ n = 2)
    (hdie : die.toNat + n.toNat ≤ 40) :
    ∃ rsp, exec (.phaseTableRead src die n) s = .next (s.complete src 0 0 rsp) ∧ rsp.length = 2048 * n.toNat ∧
      ∀ i, i < 256 → (rsp.drop (8 * i)).take 8 =
        leBytes 2 (s.power.entry die.toNat i).demand.toNat ++ leBytes 2 (s.power.entry die.toNat i).static.toNat ++
          leBytes 2 (s.power.entry die.toNat i).dur.toNat ++ [(s.power.entry die.toNat i).next, (s.power.entry die.toNat i).cnt] := by
  have hone : 1 ≤ n.toNat := by rcases hn with rfl | rfl <;> decide
  have hcond : ¬ (n = 0 ∨ n = 3 ∨ 40 < die.toNat + n.toNat) := by
    rintro (rfl | rfl | h)
    · exact absurd hone (by decide)
    · rcases hn with hn | hn <;> exact absurd hn (by decide)
    · omega
  refine ⟨s.power.phaseBytes die.toNat n.toNat, exec_ends_ok (i := .phaseTableRead src die n) rfl h (if_neg hcond), ?_, fun i hi => ?_⟩
  · simp [Power.phaseBytes, PhaseEntry.bytes_length, List.length_flatMap]
    omega
  · have hlen : i < (List.range (256 * n.toNat)).length := by
      rw [List.length_range]
      omega
    have hentry := take_drop_flatMap (f := fun i => (s.power.entry die.toNat i).bytes) (fun i => PhaseEntry.bytes_length _)
      (List.range (256 * n.toNat)) [] hlen
    rw [List.append_nil, List.getElem_range] at hentry
    exact hentry

theorem routeTableQuery_reads {m : BitVec 32} (h : Rules.running s src (reqRouteQuery m)) (hm : m.toNat < 8192) :
    ∃ w, exec (.routeTableQuery src m) s = .next (s.complete src 0 0
        (leBytes 8 (tget s.active.route.minimal 0 (groupOf (BitVec.ofNat 13 m.toNat))) ++
          leBytes 8 (tget s.active.route.nonMinimal 0 (groupOf (BitVec.ofNat 13 m.toNat))) ++ leBytes 4 w)) ∧
      (groupOf (BitVec.ofNat 13 m.toNat) ≠ groupOf s.self → w = 0xFF) :=
  ⟨_, exec_ends_ok (i := .routeTableQuery src m) rfl h (if_neg (Nat.not_le.mpr hm)), fun hother => if_neg (fun hc => hother hc.1)⟩

/-- The entries that ERR_LOG returns (R514). -/
def State.logged (s : State) (start : Word) (n : BitVec 6) (sev : BitVec 2) : List Record :=
  (s.errs.log.filter (fun r => decide (start ≤ r.idx ∧ sev ≤ r.sev))).take n.toNat

/-- The response of ERR_LOG: a head of 0x40 bytes, and the entries. -/
def State.logReply (s : State) (start : Word) (n : BitVec 6) (sev : BitVec 2) : List Byte :=
  let next := match s.errs.log.filter (fun r => decide (start ≤ r.idx)) with | r :: _ => r.idx | [] => s.errs.next
  wordBytes [next.toNat, (s.logged start n sev).length] ++ List.replicate 0x38 0 ++ (s.logged start n sev).flatMap (fun r => r.bytes)

/-- Filtering by index and then by severity is filtering by both. -/
theorem State.logged_eq (s : State) (start : Word) (n : BitVec 6) (sev : BitVec 2) :
    ((s.errs.log.filter (fun r => decide (start ≤ r.idx))).filter (fun r => decide (sev ≤ r.sev))).take n.toNat =
      s.logged start n sev := by
  simp only [State.logged, List.filter_filter, Bool.decide_and, Bool.and_comm]

theorem errLog_reads {start : BitVec 32} {n : BitVec 6} {sev : BitVec 2} {clear : Bool} (h : Rules.running s src (reqErrLog start n sev clear))
    (hn : n ≠ 0) :
    exec (.errLog src start n sev clear) s = .next ((if clear then
        { s with errs := { s.errs with log := s.errs.log.filter (fun r => decide (start ≤ r.idx)) } } else s).complete src 0 0
      (s.logReply start n sev)) := by
  refine exec_ends_ok (i := .errLog src start n sev clear) rfl h ((if_neg hn).trans ?_)
  simp only [State.logged_eq]
  rfl

/-- Settles O36: each report by the layout of its response. -/
theorem reportsReturnWhatTheBlockHolds : Obligations.ReportsReturnWhatTheBlockHolds := by
  unfold Obligations.ReportsReturnWhatTheBlockHolds
  refine ⟨fun src s => devInfo_reports, fun src s => health_reports, fun src b copy o n s hb ho hn hn' => ?_,
    fun src b copy clr o n s => cfgGet_unassigned, fun src die n s => phaseTableRead_reads, fun src m s => routeTableQuery_reads,
    fun src start n sev s hn => ?_⟩
  · exact ⟨fun h => cfgGet_reads h hb ho hn hn', fun h => cfgGet_reads h hb ho hn hn'⟩
  · refine ⟨s.logReply start n sev, _, rfl, fun h => errLog_reads h hn, fun h => errLog_reads h hn, ?_, ?_⟩
    · exact List.drop_left' (by simp)
    · rw [State.logReply, List.append_assoc]
      refine (word32At_wordBytes_head _ (k := 1) (by simp) rfl).trans (Nat.mod_eq_of_lt ?_)
      refine Nat.lt_of_le_of_lt (List.length_take_le _ _) (Nat.lt_trans n.isLt (by decide))

end

end Sys2Proof.Machine
end

section
/-! PROOFS. The two configuration sets: what follows from a change of them leaves them alone (R360, R466 to R470). -/

namespace Sys2Proof.Machine

/-- Both sets, the pending swap and the time. -/
def State.settings (s : State) : ConfigSet × ConfigSet × Option PendingSwap × Nat := (s.active, s.shadow, s.mp.swap, s.now)

theorem State.settings_unrecorded : Unrecorded State.settings where
  errs _ _ := rfl
  host _ _ := rfl
  switch _ _ := rfl
  events _ _ _ _ := rfl
  box s src b := by cases src <;> rfl
  job _ _ _ := rfl

theorem State.log_settings (s : State) (x : Event) : (s.log x).settings = s.settings :=
  State.settings_unrecorded.log_of_cores (fun _ _ => rfl) (fun _ _ _ => rfl) s x

theorem State.complete_settings (s : State) (src : Source) (st : Byte) (d : Nat) (rsp : List Byte) :
    (s.complete src st d rsp).settings = s.settings := State.settings_unrecorded.complete s src st d rsp

theorem State.changeNotice_settings (s : State) (src : Source) (l : List Word) : (s.changeNotice src l).settings = s.settings := by
  cases src with
  | host n => rfl
  | fm k => exact s.log_settings _
  | bmc => exact s.log_settings _

theorem State.wakeEngines_settings (s : State) (was : Word) : (s.wakeEngines was).settings = s.settings :=
  ite_keeps rfl rfl

theorem State.leaveActive_settings (s : State) (p : Fin 48) : (s.leaveActive p).settings = s.settings := by
  have hholdover : ∀ t : State, t.holdover.settings = t.settings := fun t => ite_keeps rfl (State.log_settings _ _)
  have hchoose : ((s.log (portEvent 1 0x0401 p 0 [])).rechoose p).settings = s.settings := s.log_settings _
  exact (ite_keeps (hholdover _) rfl).trans hchoose

theorem State.enablePort_settings (s : State) (p : Fin 48) (was now : PortCfg) : (s.enablePort p was now).settings = s.settings := by
  unfold State.enablePort
  refine ite_keeps rfl (ite_keeps rfl ?_)
  exact ite_keeps (State.leaveActive_settings _ p) rfl

theorem State.checkPeer_settings (s : State) (p : Fin 48) : (s.checkPeer p).settings = s.settings := by
  unfold State.checkPeer
  extract_lets w
  split
  · rfl
  · exact ite_keeps (s.log_settings _) rfl

theorem State.follow_settings (s : State) (was : ConfigSet) : (s.follow was).settings = s.settings := by
  have hplan : (s.followPlan was.clkplan).settings = s.settings := (State.wakeEngines_settings _ _).trans (ite_keeps rfl rfl)
  have hports := foldl_keeps State.settings (fun (t : State) (p : Fin 48) => t.enablePort p was.ports[p] t.active.ports[p])
    (fun t p => t.enablePort_settings p _ _) (List.finRange 48) (s.followPlan was.clkplan)
  exact (foldl_keeps State.settings _ (fun t p => ite_keeps rfl (t.checkPeer_settings p)) _ _).trans (hports.trans hplan)

theorem State.carryCores_settings (s : State) (was : ConfigSet) : (s.carryCores was).settings = s.settings := by
  refine foldl_keeps State.settings _ (fun t d => ?_) _ s
  extract_lets old new from_ blank
  refine ite_keeps rfl ((foldl_keeps State.settings _ (fun u x => ?_) new blank).trans rfl)
  cases from_ x.2 <;> rfl

/-- After a swap both sets are what the shadow set was (R468, R469). -/
theorem State.swapSets_settings (s : State) : s.swapSets.settings = (s.shadow, s.shadow, s.mp.swap, s.now) := by
  unfold State.swapSets
  extract_lets was routes t _ u
  have ht : t.settings = (s.shadow, s.shadow, s.mp.swap, s.now) := State.carryCores_settings _ was
  have hu : u.settings = t.settings := ite_keeps rfl rfl
  rw [State.log_settings, State.follow_settings, hu, ht]

end Sys2Proof.Machine
end

section
/-! PROOFS. Writes of the shadow set and its swaps (R467 to R471). -/

namespace Sys2Proof.Machine

section
variable {i : Instr} {src : Source} {q : Request} {body : State → Reply} {s t : State}

/-! ### What a pending swap denies (R471) -/

theorem unlessPending_none (h : s.mp.swap = none) : unlessPending body s = body s := by
  rw [unlessPending, h]

theorem unlessPending_some {w : PendingSwap} (h : s.mp.swap = some w) : unlessPending body s = denied s w.seq.toNat := by
  rw [unlessPending, h]

/-! ### Writes of the shadow set -/

/-- A write of one word to a register of a block (R467). -/
theorem cfgWriteShadow_word {b : BitVec 8} {v : Word} {r : CfgReg} (h : Rules.running s src (reqCfgWrite b true 0 [v]))
    (hswap : s.mp.swap = none) (hb : blockAssigned b.toNat = true) (hr : cfgReg b.toNat 0 = some r) :
    exec (.cfgWriteShadow src b true 0 [v]) s = .next (State.answer src (
      if r.ok s.ident.code v.toNat = true then
        okWith { s with shadow := if r.ignores v.toNat then s.shadow else r.put (perDie s.ident.code) s.shadow v.toNat } []
      else badArg s 12)) := by
  refine exec_answers_reply (i := .cfgWriteShadow src b true 0 [v]) rfl h ((unlessPending_none hswap).trans ?_)
  refine (if_neg (by rw [hb]; decide)).trans ((if_neg (by decide)).trans ((if_neg (by simp)).trans ?_))
  show (match shadowWrite s.ident.code s.shadow b.toNat [v] 0 12 with
    | .inl c => okWith { s with shadow := c } []
    | .inr arg => badArg s arg) = _
  rw [shadowWrite, hr]
  dsimp only
  rcases r.ok s.ident.code v.toNat with _ | _
  · rfl
  · exact (if_pos rfl).symm ▸ rfl

/-- Bits outside a mask are zero. -/
theorem toNat_and_of_clear {v m : Word} (h : v &&& ~~~m = 0) : v.toNat &&& m.toNat = v.toNat := by
  have hbits : v &&& m = v := by
    ext k hk
    have hk' := congrArg (fun x : Word => x.getLsbD k) h
    simp only [BitVec.getLsbD_and, BitVec.getLsbD_not, hk, decide_true, Bool.true_and] at hk'
    simp only [BitVec.getElem_and]
    rw [← BitVec.getLsbD_eq_getElem, ← BitVec.getLsbD_eq_getElem]
    cases hv : v.getLsbD k <;> cases hm : m.getLsbD k <;> simp_all
  rw [← BitVec.toNat_and, hbits]

theorem cfgWriteShadow_pcap {v : Word} (h : Rules.running s src (reqCfgWrite 0 true 0 [v])) (hswap : s.mp.swap = none) :
    (v &&& 0xFF000000#32 = 0 ∧ capOk s.ident.code v.toNat = true →
      exec (.cfgWriteShadow src 0 true 0 [v]) s = .next ((Rules.withSets s s.active { s.shadow with pcap := v }).complete src 0 0 [])) ∧
    (capOk s.ident.code v.toNat = false → exec (.cfgWriteShadow src 0 true 0 [v]) s = .next (s.complete src 3 12 [])) := by
  rw [cfgWriteShadow_word h hswap rfl (r := .pcap) rfl]
  refine ⟨fun ⟨hv, hcap⟩ => ?_, fun hcap => ?_⟩
  · have hok : CfgReg.ok s.ident.code .pcap v.toNat = true := by
      exact Bool.and_eq_true_iff.mpr ⟨beq_iff_eq.mpr (toNat_and_of_clear (m := 0x00FFFFFF#32) hv), hcap⟩
    rw [if_pos hok]
    show Host.Outcome.next (State.complete { s with shadow := { s.shadow with pcap := BitVec.ofNat 32 v.toNat } } src 0 0 []) = _
    rw [BitVec.ofNat_toNat, BitVec.setWidth_eq]
    rfl
  · have hok : CfgReg.ok s.ident.code .pcap v.toNat = false := by
      exact Bool.and_eq_false_iff.mpr (.inr hcap)
    rw [if_neg (by simp [hok])]
    rfl

theorem cfgWriteShadow_mgfm {v : Word} (h : Rules.running s src (reqCfgWrite 0x31 true 0 [v])) (hswap : s.mp.swap = none)
    (hv : v &&& 0x60006000#32 = 0) :
    exec (.cfgWriteShadow src 0x31 true 0 [v]) s = .next ((Rules.withSets s s.active { s.shadow with mgfm := v }).complete src 0 0 []) := by
  have hok : CfgReg.ok s.ident.code .mgfm v.toNat = true := by
    exact (Bool.and_true _).trans (beq_iff_eq.mpr (toNat_and_of_clear (m := 0x9FFF9FFF#32) hv))
  rw [cfgWriteShadow_word h hswap rfl (r := .mgfm) rfl, if_pos hok]
  show Host.Outcome.next (State.complete { s with shadow := { s.shadow with mgfm := BitVec.ofNat 32 v.toNat } } src 0 0 []) = _
  rw [BitVec.ofNat_toNat, BitVec.setWidth_eq]
  rfl

/-- A write of the masks of one group. -/
theorem routeTableWrite_group {first : Word} {m : RouteMasks} (h : Rules.running s src (reqRouteWrite first [m])) (hswap : s.mp.swap = none)
    (hfirst : first.toNat < 256) :
    exec (.routeTableWrite src first [m]) s = .next (State.answer src (
      match putGroups s.shadow.route first.toNat 12 [m] with
      | .inl t => okWith { s with shadow := { s.shadow with route := t } } []
      | .inr arg => badArg s arg)) := by
  refine exec_answers_reply (i := .routeTableWrite src first [m]) rfl h ((unlessPending_none hswap).trans ?_)
  exact (if_neg (Nat.not_le.mpr hfirst)).trans (if_neg (by simp; omega))

theorem routeTableWrite_writes {first : Word} {m : RouteMasks} (h : Rules.running s src (reqRouteWrite first [m]))
    (hswap : s.mp.swap = none) (hfirst : first.toNat < 256) :
    (m.minHi.toNat < 65536 ∧ m.nmHi.toNat < 65536 →
      ∃ t, exec (.routeTableWrite src first [m]) s = .next ((Rules.withSets s s.active { s.shadow with route := t }).complete src 0 0 []) ∧
        tget t.minimal 0 first.toNat = m.minLo.toNat + m.minHi.toNat * 2 ^ 32 ∧
        tget t.nonMinimal 0 first.toNat = m.nmLo.toNat + m.nmHi.toNat * 2 ^ 32 ∧
        t = { s.shadow.route with minimal := t.minimal, nonMinimal := t.nonMinimal } ∧
        ∀ g, g ≠ first.toNat → tget t.minimal 0 g = tget s.shadow.route.minimal 0 g) ∧
    (65536 ≤ m.minHi.toNat → exec (.routeTableWrite src first [m]) s = .next (s.complete src 3 16 [])) := by
  rw [routeTableWrite_group h hswap hfirst]
  refine ⟨fun ⟨hmin, hnm⟩ => ?_, fun hmin => ?_⟩
  · have hgroups : putGroups s.shadow.route first.toNat 12 [m] = .inl (s.shadow.route.setGroup first.toNat m) := by
      rw [putGroups, if_neg (Nat.not_le.mpr hmin), if_neg (Nat.not_le.mpr hnm), putGroups]
    rw [hgroups]
    exact ⟨s.shadow.route.setGroup first.toNat m, rfl, tget_putEntry_same _ _ _, tget_putEntry_same _ _ _, rfl,
      fun g hg => tget_putEntry_other _ _ _ _ hg⟩
  · have hgroups : putGroups s.shadow.route first.toNat 12 [m] = .inr 16 := by
      rw [putGroups, if_pos hmin]
    rw [hgroups]
    rfl

/-! ### CFG_SWAP -/

/-- A swap that changes no route, or comes after the grace period, is not early (R361). -/
theorem not_early {time : Nat} (h : s.active.route = s.shadow.route ∨ s.graceEnd ≤ time) : ¬ (s.swapRoutes = true ∧ time < s.graceEnd) := by
  rintro ⟨hroutes, htime⟩
  rcases h with h | h
  · exact of_decide_eq_true hroutes h
  · exact Nat.not_lt.mpr h htime

/-- Nothing bars a swap of a module without a job (R468). -/
theorem unbarred (h : s.anyJob = false ∨ s.swapBars = none) : (if s.anyJob then s.swapBars else none) = none := by
  rcases h with h | h
  · rw [h]
    rfl
  · rw [h, ite_self]

theorem cfgSwap_swaps (h : Rules.running s src reqCfgSwap) (hswap : s.mp.swap = none)
    (hroutes : s.active.route = s.shadow.route ∨ s.graceEnd ≤ s.now) (hjob : s.anyJob = false ∨ s.swapBars = none) :
    ∃ s', exec (.cfgSwap src) s = .next s' ∧ Rules.done s' src 0 0 (leBytes 8 s.now) ∧ s'.active = s.shadow ∧ s'.shadow = s.shadow := by
  have hbody : unlessPending (fun s =>
      if s.swapRoutes ∧ s.now < s.graceEnd then notReady s 2
      else match (if s.anyJob then s.swapBars else none) with
        | some x => denied s x
        | none => okWith s.swapSets (leBytes 8 s.now)) s = okWith s.swapSets (leBytes 8 s.now) := by
    rw [unlessPending_none hswap, if_neg (not_early hroutes), unbarred hjob]
  have hsets := (s.swapSets.complete_settings src 0 0 (leBytes 8 s.now)).trans s.swapSets_settings
  exact ⟨_, exec_ends_ok (i := .cfgSwap src) rfl h hbody, done_complete src 0 0 _ (by simp), congrArg (fun x => x.1) hsets,
    congrArg (fun x => x.2.1) hsets⟩

/-- A difference in the fields of the clock plan that no job may see change bars the swap (R468). -/
theorem swapBars_clkplan (h : (s.active.clkplan ^^^ s.shadow.clkplan) &&& 0x0C600000#32 ≠ 0) : s.swapBars = some 4 := by
  refine if_pos (fun heq => h ?_)
  have hand : s.active.clkplan &&& 0x0C600000#32 = s.shadow.clkplan &&& 0x0C600000#32 := BitVec.eq_of_toNat_eq heq
  have hxor : ∀ a b m : Word, a &&& m = b &&& m → (a ^^^ b) &&& m = 0 := fun a b m hm => by
    ext k hk
    have hbit := congrArg (fun x : Word => x[k]) hm
    simp only [BitVec.getElem_and] at hbit
    simp only [BitVec.getElem_and, BitVec.getElem_xor]
    cases ha : a[k] <;> cases hb : b[k] <;> simp_all
  exact hxor _ _ _ hand

theorem cfgSwap_barred (h : Rules.running s src reqCfgSwap) (hswap : s.mp.swap = none) (hroutes : s.active.route = s.shadow.route)
    (hjob : s.anyJob = true) (hclk : (s.active.clkplan ^^^ s.shadow.clkplan) &&& 0x0C600000#32 ≠ 0) :
    exec (.cfgSwap src) s = .next (s.complete src 4 4 []) := by
  refine ends_denied (i := .cfgSwap src) (t := s) (n := 4) rfl h ((unlessPending_none hswap).trans ?_)
  refine (if_neg (not_early (.inl hroutes))).trans ?_
  rw [hjob, if_pos rfl, swapBars_clkplan hclk]

theorem cfgSwap_early (h : Rules.running s src reqCfgSwap) (hswap : s.mp.swap = none) (hroutes : s.active.route ≠ s.shadow.route)
    (htime : s.now < s.graceEnd) : exec (.cfgSwap src) s = .next (s.complete src 7 2 []) :=
  exec_ends_notReady (i := .cfgSwap src) rfl h ((unlessPending_none hswap).trans (if_pos ⟨decide_eq_true hroutes, htime⟩))

/-! ### CFG_SWAP_AT -/

section
variable {time : BitVec 64} (h : Rules.running s src (reqCfgSwapAt time)) (hswap : s.mp.swap = none) (ht : time ≠ 0)
include h hswap ht

theorem cfgSwapAt_waits (hlo : (s.box src).arrival + 1000000 ≤ time.toNat) (hhi : time.toNat ≤ (s.box src).arrival + 10000000000)
    (hroutes : s.active.route = s.shadow.route ∨ s.graceEnd ≤ time.toNat) :
    (s.active.role = 1 ∨ s.time.locked = true →
      exec (.cfgSwapAt src time) s = .next (Rules.begun { s with
        mp := { s.mp with swap := some { time := time.toNat, src := src, seq := (s.box src).seq } } } src)) ∧
    (s.active.role ≠ 1 ∧ s.time.locked = false → exec (.cfgSwapAt src time) s = .next (s.complete src 7 1 [])) := by
  have hin : ¬ (time.toNat < (s.box src).arrival + 10 ^ 6 ∨ (s.box src).arrival + 10 ^ 10 < time.toNat) := by
    rintro (hlt | hlt) <;> omega
  refine ⟨fun hclock => ?_, fun ⟨hrole, hlocked⟩ => ?_⟩
  · have hready : ¬ (s.active.role ≠ 1 ∧ (!s.time.locked) = true) := by
      rintro ⟨hrole, hlocked⟩
      rcases hclock with hclock | hclock
      · exact hrole hclock
      · rw [hclock] at hlocked
        cases hlocked
    exact exec_waits (i := .cfgSwapAt src time) rfl h ((if_neg ht).trans ((unlessPending_none hswap).trans
      ((if_neg hin).trans ((if_neg (not_early hroutes)).trans (if_neg hready)))))
  · exact exec_ends_notReady (i := .cfgSwapAt src time) rfl h ((if_neg ht).trans ((unlessPending_none hswap).trans
      ((if_neg hin).trans ((if_neg (not_early hroutes)).trans (if_pos ⟨hrole, by rw [hlocked]; rfl⟩)))))

theorem cfgSwapAt_far (hout : time.toNat < (s.box src).arrival + 1000000 ∨ (s.box src).arrival + 10000000000 < time.toNat) :
    exec (.cfgSwapAt src time) s = .next (s.complete src 3 0 []) :=
  ends_badArg (i := .cfgSwapAt src time) rfl h ((if_neg ht).trans ((unlessPending_none hswap).trans (if_pos hout)))

end

theorem swapAtTime_swaps {w : PendingSwap} (hswap : s.mp.swap = some w) (hjob : s.anyJob = false ∨ s.swapBars = none) :
    ∃ s', exec .swapAtTime s = .next s' ∧ Rules.done s' w.src 0 0 (leBytes 8 w.time) ∧ s'.active = s.shadow ∧ s'.shadow = s.shadow ∧
      s'.mp.swap = none ∧ s'.now = max s.now w.time := by
  let t : State := { s.wait w.time with mp := { s.mp with swap := none } }
  have hstep : exec .swapAtTime s = .next (t.swapSets.complete w.src 0 0 (leBytes 8 w.time)) := by
    show execSwapAtTime s = _
    rw [execSwapAtTime, hswap]
    show (match (if s.anyJob then s.swapBars else none) with
      | some x => Host.Outcome.next (t.complete w.src 4 x [])
      | none => .next (t.swapSets.complete w.src 0 0 (leBytes 8 w.time))) = _
    rw [unbarred hjob]
  have hsets := (t.swapSets.complete_settings w.src 0 0 (leBytes 8 w.time)).trans t.swapSets_settings
  exact ⟨_, hstep, done_complete w.src 0 0 _ (by simp), congrArg (fun x => x.1) hsets, congrArg (fun x => x.2.1) hsets,
    congrArg (fun x => x.2.2.1) hsets, congrArg (fun x => x.2.2.2) hsets⟩

theorem pendingSwap_denies {w : PendingSwap} (hswap : s.mp.swap = some w) :
    (∀ (b : BitVec 8) (copy : Bool) (o : BitVec 32) (x : List (BitVec 32)), Rules.running s src (reqCfgWrite b copy o x) →
      exec (.cfgWriteShadow src b copy o x) s = .next (s.complete src 4 w.seq.toNat [])) ∧
    (∀ (f : BitVec 32) (x : List RouteMasks), Rules.running s src (reqRouteWrite f x) →
      exec (.routeTableWrite src f x) s = .next (s.complete src 4 w.seq.toNat [])) ∧
    (Rules.running s src reqCfgSwap → exec (.cfgSwap src) s = .next (s.complete src 4 w.seq.toNat [])) ∧
    (∀ t : BitVec 64, t ≠ 0 → Rules.running s src (reqCfgSwapAt t) → exec (.cfgSwapAt src t) s = .next (s.complete src 4 w.seq.toNat [])) ∧
    (Rules.running s src (reqCfgSwapAt 0) → exec (.cfgSwapCancel src) s = .next
      ((({ s with mp := { s.mp with swap := none } } : State).complete w.src 4 (s.box src).seq.toNat []).complete src 0 0 (leBytes 8 0))) := by
  refine ⟨fun b copy o x h => ends_denied (i := .cfgWriteShadow src b copy o x) rfl h (unlessPending_some hswap),
    fun f x h => ends_denied (i := .routeTableWrite src f x) rfl h (unlessPending_some hswap),
    fun h => ends_denied (i := .cfgSwap src) rfl h (unlessPending_some hswap),
    fun t ht h => ends_denied (i := .cfgSwapAt src t) rfl h ((if_neg ht).trans (unlessPending_some hswap)),
    fun h => exec_ends_ok (i := .cfgSwapCancel src) rfl h ?_⟩
  rw [State.cancelSwap, hswap]
  rfl

end

/-- Settles O37: writes by the register that a word names, swaps by the sets they leave, and denials by the pending swap. -/
theorem shadowWritesWaitForASwap : Obligations.ShadowWritesWaitForASwap := by
  unfold Obligations.ShadowWritesWaitForASwap
  exact ⟨fun src v s => cfgWriteShadow_pcap, fun src v s => cfgWriteShadow_mgfm, fun src first m s => routeTableWrite_writes,
    fun src s => cfgSwap_swaps, fun src s => cfgSwap_barred, fun src s => cfgSwap_early,
    fun src t s h hswap ht hlo hhi hroutes => cfgSwapAt_waits h hswap ht hlo hhi hroutes,
    fun src t s h hswap ht hout => cfgSwapAt_far h hswap ht hout, fun w s => swapAtTime_swaps, fun src w s => pendingSwap_denies⟩

end Sys2Proof.Machine
end

section
/-! PROOFS. Commands that set an item in both configuration sets (R348, R376, R416, R420, R427, R429, R467). -/

namespace Sys2Proof.Machine

section
variable {i : Instr} {src : Source} {s : State}

/-! ### POWER_CAP and CLOCK_MODE -/

/-- A cap and its window as the fields of one word. -/
theorem capOk_fields (code : OrderingCode) (cap : BitVec 16) (win : BitVec 8) :
    capOk code (win.toNat * 65536 + cap.toNat) =
      decide (2000 ≤ cap.toNat ∧ cap.toNat ≤ tdp code ∧ 1 ≤ win.toNat ∧ win.toNat ≤ 60) := by
  have hcap : (win.toNat * 65536 + cap.toNat) % 65536 = cap.toNat := by omega
  have hwin : bitsAt (win.toNat * 65536 + cap.toNat) 16 8 = win.toNat := by
    rw [bitsAt, Nat.shiftRight_eq_div_pow]
    omega
  rw [capOk, hcap, hwin]

/-- Both sets with a power cap. -/
def State.capped (s : State) (w : Word) : State :=
  { s with lastSet := s.active, active := { s.active with pcap := w }, shadow := { s.shadow with pcap := w } }

theorem powerCap_ends {cap : BitVec 16} {win : BitVec 8} (h : Rules.running s src (reqPowerCap cap win)) :
    (2000 ≤ cap.toNat ∧ cap.toNat ≤ tdp s.ident.code ∧ 1 ≤ win.toNat ∧ win.toNat ≤ 60 →
      ∃ s', exec (.powerCap src cap win) s = .next s' ∧ Rules.done s' src 0 0 (leBytes 4 s.active.pcap.toNat) ∧
        s'.active = { s.active with pcap := BitVec.ofNat 32 (win.toNat * 65536 + cap.toNat) } ∧
        s'.shadow = { s.shadow with pcap := BitVec.ofNat 32 (win.toNat * 65536 + cap.toNat) }) ∧
    (cap.toNat < 2000 ∨ tdp s.ident.code < cap.toNat ∨ win.toNat = 0 ∨ 60 < win.toNat →
      exec (.powerCap src cap win) s = .next (s.complete src 3 0 [])) := by
  refine ⟨fun hin => ?_, fun hout => ?_⟩
  · have hok : capOk s.ident.code (win.toNat * 65536 + cap.toNat) = true := by
      rw [capOk_fields]
      exact decide_eq_true hin
    let w := BitVec.ofNat 32 (win.toNat * 65536 + cap.toNat)
    let t := ((s.capped w).log (powerEvent 0 0x0609 [w, s.active.pcap])).changeNotice src []
    have hsets : (t.complete src 0 0 (leBytes 4 s.active.pcap.toNat)).settings = (s.capped w).settings :=
      (t.complete_settings src 0 0 _).trans ((State.changeNotice_settings _ src []).trans (State.log_settings _ _))
    exact ⟨_, exec_ends_ok (i := .powerCap src cap win) (t := t) rfl h (if_neg (by rw [hok]; decide)),
      done_complete src 0 0 _ (by simp), congrArg (fun x => x.1) hsets, congrArg (fun x => x.2.1) hsets⟩
  · have hbad : capOk s.ident.code (win.toNat * 65536 + cap.toNat) = false := by
      rw [capOk_fields]
      exact decide_eq_false (by omega)
    exact ends_badArg (i := .powerCap src cap win) rfl h (if_pos (by rw [hbad]; rfl))

/-- Both sets with masked fields of the clock plan; FIXNOW is FIXPT again (R416, R432). -/
def State.clocked (s : State) (v m : Word) : State :=
  { s with
    lastSet := s.active, active := { s.active with clkplan := mergeBits s.active.clkplan v m }
    shadow := { s.shadow with clkplan := mergeBits s.shadow.clkplan v m }
    power := { s.power with fixnow := BitVec.ofNat 2 ((mergeBits s.active.clkplan v m).toNat / 2 ^ 29), fallback := false } }

theorem clockMode_ends {v m : Word} (h : Rules.running s src (reqClockMode v m)) (hv : v.toNat &&& 0xFFE00FFF = v.toNat)
    (hm : m.toNat &&& 0xFFE00FFF = m.toNat) (hok : clkOk ((s.active.clkplan &&& ~~~m) ||| (v &&& m)).toNat = true) :
    (s.anyJob = false ∨ (s.active.clkplan ^^^ ((s.active.clkplan &&& ~~~m) ||| (v &&& m))) &&& 0x0C600000#32 = 0 →
      ∃ s', exec (.clockMode src v m) s = .next s' ∧ Rules.done s' src 0 0 (leBytes 4 (s.active.clkplan.toNat ||| (if s.power.fallback then 2 ^ 31 else 0))) ∧
        s'.active = { s.active with clkplan := (s.active.clkplan &&& ~~~m) ||| (v &&& m) } ∧
        s'.shadow = { s.shadow with clkplan := (s.shadow.clkplan &&& ~~~m) ||| (v &&& m) }) ∧
    (s.anyJob = true ∧ (s.active.clkplan ^^^ ((s.active.clkplan &&& ~~~m) ||| (v &&& m))) &&& 0x0C600000#32 ≠ 0 →
      exec (.clockMode src v m) s = .next (s.complete src 4 4 [])) := by
  have hvalue : ¬ (v.toNat &&& CfgReg.bits .clkplan ≠ v.toNat ∨ (!clkOk (mergeBits s.active.clkplan v m).toNat) = true) := by
    rintro (hbad | hbad)
    · exact hbad hv
    · rw [mergeBits, hok] at hbad
      cases hbad
  have hmask : ¬ (m.toNat &&& CfgReg.bits .clkplan ≠ m.toNat) := not_not.mpr hm
  refine ⟨fun hfree => ?_, fun hbars => ?_⟩
  · have hfree' : ¬ (s.anyJob = true ∧ (s.active.clkplan ^^^ mergeBits s.active.clkplan v m) &&& 0x0C600000 ≠ 0) := by
      rintro ⟨hjob, hclk⟩
      rcases hfree with hfree | hfree
      · rw [hfree] at hjob
        cases hjob
      · exact hclk hfree
    let t := ((s.clocked v m).wakeEngines s.active.clkplan).changeNotice src []
    have hsets : (t.complete src 0 0 (leBytes 4 (s.active.clkplan.toNat ||| (if s.power.fallback then 2 ^ 31 else 0)))).settings =
        (s.clocked v m).settings :=
      (t.complete_settings src 0 0 _).trans ((State.changeNotice_settings _ src []).trans (State.wakeEngines_settings _ _))
    exact ⟨_, exec_ends_ok (i := .clockMode src v m) (t := t) rfl h
        ((if_neg hvalue).trans ((if_neg hmask).trans (if_neg hfree'))),
      done_complete src 0 0 _ (by simp), congrArg (fun x => x.1) hsets, congrArg (fun x => x.2.1) hsets⟩
  · exact ends_denied (i := .clockMode src v m) rfl h ((if_neg hvalue).trans ((if_neg hmask).trans (if_pos hbars)))

/-! ### PHASE_TABLE -/

/-- Entries written one after the other are read back. -/
theorem tget_foldl_tset {α : Type} (t : Table α) (d : α) (v : Nat → α) (base : Nat) {n k : Nat} (hk : k < n) :
    tget ((List.range n).foldl (fun t i => tset t (base + i) (v i)) t) d (base + k) = v k := by
  induction n with
  | zero => exact absurd hk (Nat.not_lt_zero k)
  | succ n ih =>
    rw [List.range_succ, List.foldl_append]
    show tget (tset _ (base + n) (v n)) d (base + k) = v k
    by_cases hkn : k = n
    · rw [hkn, tget_tset_same]
    · rw [tget_tset_other _ _ _ _ _ (by omega)]
      exact ih (by omega)

theorem Power.entry_loadPhases (p : Power) (d : Nat) (x : List Byte) {i : Nat} (hi : i < 256) :
    (p.loadPhases d x).entry d i = PhaseEntry.ofNat (word64At x (8 * i)) := by
  rw [Power.entry, Power.loadPhases]
  dsimp only
  exact tget_foldl_tset (n := 256) p.phases PhaseEntry.reset (fun i => PhaseEntry.ofNat (word64At x (8 * i))) (256 * d) hi

/-- A load changes the phase tables alone. -/
theorem Power.loadPhases_phases (p : Power) (d : Nat) (x : List Byte) : p.loadPhases d x = { p with phases := (p.loadPhases d x).phases } := by
  rw [Power.loadPhases]

theorem phaseTableLoad_ends {job die : Byte} {x : List Byte} (h : Rules.running s src (reqPhaseLoad job die 1 x))
    (hjob : s.jobNamed job ≠ none) (hdie : die.toNat < 40) (hx : x.length = 2048) :
    (s.power.untrust = false →
      ∃ p : Power, exec (.phaseTableLoad src job die 1 x) s = .next (({ s with power := p } : State).complete src 0 0 []) ∧
        p = { s.power with phases := p.phases } ∧
        ∀ i, i < 256 → p.entry die.toNat i =
          { demand := BitVec.ofNat 16 (word64At x (8 * i)), static := BitVec.ofNat 16 (word64At x (8 * i) / 2 ^ 16)
            dur := BitVec.ofNat 16 (word64At x (8 * i) / 2 ^ 32), next := BitVec.ofNat 8 (word64At x (8 * i) / 2 ^ 48)
            cnt := BitVec.ofNat 8 (word64At x (8 * i) / 2 ^ 56) }) ∧
    (s.power.untrust = true → exec (.phaseTableLoad src job die 1 x) s = .next (s.complete src 4 5 [])) := by
  obtain ⟨j, hj⟩ := Option.ne_none_iff_exists'.mp hjob
  have hnamed : ∀ f : Fin 8 → State → Reply, withJob job f s = f j s := fun f => by rw [withJob, hj]
  have hargs : ¬ ((1 : BitVec 2) ≠ 1 ∨ 40 ≤ die.toNat) := by
    rintro (hne | hge)
    · exact hne rfl
    · omega
  refine ⟨fun htrust => ⟨s.power.loadPhases die.toNat x, ?_, Power.loadPhases_phases _ _ _, fun i hi => Power.entry_loadPhases _ _ _ hi⟩, fun htrust => ?_⟩
  · exact exec_ends_ok (i := .phaseTableLoad src job die 1 x) (t := { s with power := s.power.loadPhases die.toNat x }) rfl h ((hnamed _).trans ((if_neg hargs).trans
      ((if_neg (not_not.mpr hx)).trans (if_neg (by rw [htrust]; decide)))))
  · exact ends_denied (i := .phaseTableLoad src job die 1 x) rfl h ((hnamed _).trans ((if_neg hargs).trans
      ((if_neg (not_not.mpr hx)).trans (if_pos htrust))))

/-! ### PORT_CTL -/

/-- A setting of a port is in both sets, and the answer is the port's PCTL and PSTAT (R348, R466). -/
theorem portSet_ends {p : Fin 48} {q : Request} {f : PortCfg → PortCfg} {bad : Bool} (hi : exec i s = portSet src p q bad f s)
    (h : Rules.running s src q) (hbad : bad = false) :
    exec i s = .next ((Rules.portSet s src p (f s.active.ports[p]) (f s.shadow.ports[p])).complete src 0 0
      (Rules.portWords (Rules.portSet s src p (f s.active.ports[p]) (f s.shadow.ports[p])) p)) := by
  have hport : (s.setPort p f).active.ports[p] = f s.active.ports[p] := Vector.getElem_set_self _
  refine exec_ends_ok hi h ((if_neg (by rw [hbad]; decide)).trans ?_)
  dsimp only
  rw [hport]
  rfl

/-- The settings of a port after a TXPRE value: a reserved preset code changes nothing (R319). -/
def PortCfg.preset (value : Word) (c : PortCfg) : PortCfg :=
  if 8 ≤ value.toNat % 256 then c
  else { c with txpre := c.txpre.set (Fin.ofNat 8 (value.toNat / 256)) (BitVec.ofNat 4 (value.toNat % 256)) }

/-- The lane and the preset code of a TXPRE value (R319). -/
theorem portSetTxpre_ends {p : Fin 48} (k : Fin 8) (v : BitVec 3)
    (h : Rules.running s src (reqPort p 4 (some (BitVec.ofNat 32 (k.val * 256 + v.toNat))))) :
    exec (.portSetTxpre src p (BitVec.ofNat 32 (k.val * 256 + v.toNat))) s = .next
      ((Rules.portSet s src p { s.active.ports[p] with txpre := (s.active.ports[p]).txpre.set k (v.setWidth 4) }
        { s.shadow.ports[p] with txpre := (s.shadow.ports[p]).txpre.set k (v.setWidth 4) }).complete src 0 0
        (Rules.portWords (Rules.portSet s src p { s.active.ports[p] with txpre := (s.active.ports[p]).txpre.set k (v.setWidth 4) }
          { s.shadow.ports[p] with txpre := (s.shadow.ports[p]).txpre.set k (v.setWidth 4) }) p)) := by
  have hk := k.isLt
  have hv := v.isLt
  have hvalue : (BitVec.ofNat 32 (k.val * 256 + v.toNat)).toNat = k.val * 256 + v.toNat := by
    rw [BitVec.toNat_ofNat]
    omega
  have hlane : (BitVec.ofNat 32 (k.val * 256 + v.toNat)).toNat / 256 = k.val := by omega
  have hpre : (BitVec.ofNat 32 (k.val * 256 + v.toNat)).toNat % 256 = v.toNat := by omega
  have hset : PortCfg.preset (BitVec.ofNat 32 (k.val * 256 + v.toNat)) = fun c => { c with txpre := c.txpre.set k (v.setWidth 4) } := by
    funext c
    have hcode : BitVec.ofNat 4 v.toNat = v.setWidth 4 := BitVec.ofNat_toNat 4 v
    have hk' : Fin.ofNat 8 ((BitVec.ofNat 32 (k.val * 256 + v.toNat)).toNat / 256) = k := Fin.ext (by rw [hlane]; exact Nat.mod_eq_of_lt hk)
    have hcode' : ¬ 8 ≤ v.toNat := by omega
    simp only [PortCfg.preset, hk', hpre, hcode, if_neg hcode']
  have hi : exec (.portSetTxpre src p (BitVec.ofNat 32 (k.val * 256 + v.toNat))) s =
      portSet src p (reqPort p 4 (some (BitVec.ofNat 32 (k.val * 256 + v.toNat))))
        (decide (8 ≤ (BitVec.ofNat 32 (k.val * 256 + v.toNat)).toNat / 256 ∨ 16 ≤ (BitVec.ofNat 32 (k.val * 256 + v.toNat)).toNat % 256))
        (fun c => { c with txpre := c.txpre.set k (v.setWidth 4) }) s := by
    rw [← hset]
    rfl
  exact portSet_ends hi h (decide_eq_false (by omega))

theorem portSetLaneen_ends {p : Fin 48} {v : BitVec 8} (h : Rules.running s src (reqPort p 3 (some (v.setWidth 32)))) :
    exec (.portSetLaneen src p false (v.setWidth 32)) s = .next
      ((Rules.portSet s src p { s.active.ports[p] with laneen := v } { s.shadow.ports[p] with laneen := v }).complete src 0 0
        (Rules.portWords (Rules.portSet s src p { s.active.ports[p] with laneen := v } { s.shadow.ports[p] with laneen := v }) p)) := by
  have hv := v.isLt
  have hvalue : (v.setWidth 32).toNat = v.toNat := by
    rw [BitVec.toNat_setWidth]
    omega
  have hi : exec (.portSetLaneen src p false (v.setWidth 32)) s =
      portSet src p (reqPort p 3 (some (v.setWidth 32))) (decide (255 < (v.setWidth 32).toNat))
        (fun c => { c with laneen := BitVec.ofNat 8 (v.setWidth 32).toNat }) s := rfl
  have hend := portSet_ends hi h (decide_eq_false (by omega))
  rwa [hvalue, BitVec.ofNat_toNat, BitVec.setWidth_eq] at hend

theorem portSetMshare_ends {p : Fin 48} {v : BitVec 8} (h : Rules.running s src (reqPort p 5 (some (v.setWidth 32)))) :
    exec (.portSetMshare src p (v.setWidth 32)) s = .next
      ((Rules.portSet s src p { s.active.ports[p] with mshare := v } { s.shadow.ports[p] with mshare := v }).complete src 0 0
        (Rules.portWords (Rules.portSet s src p { s.active.ports[p] with mshare := v } { s.shadow.ports[p] with mshare := v }) p)) := by
  have hv := v.isLt
  have hvalue : (v.setWidth 32).toNat = v.toNat := by
    rw [BitVec.toNat_setWidth]
    omega
  have hi : exec (.portSetMshare src p (v.setWidth 32)) s =
      portSet src p (reqPort p 5 (some (v.setWidth 32))) (decide (255 < (v.setWidth 32).toNat))
        (fun c => { c with mshare := BitVec.ofNat 8 (v.setWidth 32).toNat }) s := rfl
  have hend := portSet_ends hi h (decide_eq_false (by omega))
  rwa [hvalue, BitVec.ofNat_toNat, BitVec.setWidth_eq] at hend

theorem portCtlRetrain_ends {p : Fin 48} (h : Rules.running s src (reqPort p 2 none)) (hactive : (s.port p).st = .active) :
    exec (.portCtlRetrain src p) s = .next ((s.mapPort p (fun x => { x with retrainDue := true })).complete src 0 0
      (Rules.portWords (s.mapPort p (fun x => { x with retrainDue := true })) p)) := by
  have hdue : s.mapPort p (fun x => { x with retrainDue := x.retrainDue || decide (x.st = .active) }) =
      s.mapPort p (fun x => { x with retrainDue := true }) :=
    State.mapPort_congr (by rw [hactive]; simp)
  refine exec_ends_ok (i := .portCtlRetrain src p) rfl h ?_
  dsimp only
  rw [hdue]
  rfl

/-! ### TIME_SYNC -/

/-- Both sets with the settings of the time base (R376). -/
def State.timed (s : State) (role : BitVec 2) (pp : BitVec 6) (mask : BitVec 48) (asym : List (BitVec 16)) (now : Nat) : State :=
  { s with
    lastSet := s.active, active := s.active.setTime role pp mask asym, shadow := s.shadow.setTime role pp mask asym, now := now }

theorem State.time_unrecorded : Unrecorded State.time where
  errs _ _ := rfl
  host _ _ := rfl
  switch _ _ := rfl
  events _ _ _ _ := rfl
  box s src b := by cases src <;> rfl
  job _ _ _ := rfl

/-- An accepted TIME_SYNC ends with TSSTAT, the settings in both sets, and its time. -/
theorem timeSync_accepted {role : BitVec 2} {pp : BitVec 6} {mask : BitVec 48} {asym : List (BitVec 16)} {time : Option DWord}
    (h : Rules.running s src (reqTimeSync role pp mask asym time)) (hargs : ¬ (role = 3 ∨ 48 ≤ pp.toNat))
    (hrole : ¬ (time.isSome = true ∧ role ≠ 1)) (hjob : ¬ (time.isSome = true ∧ s.anyJob = true)) :
    ∃ s', exec (.timeSync src role pp mask asym time) s = .next s' ∧ Rules.done s' src 0 0 (leBytes 4 (s'.time.word 4)) ∧
      s'.settings = (s.timed role pp mask asym (time.elim s.now (fun t => t.toNat))).settings := by
  let t := (s.timed role pp mask asym (time.elim s.now (fun t => t.toNat))).changeNotice src []
  have htime : (t.complete src 0 0 (leBytes 4 (t.time.word 4))).time = t.time := State.time_unrecorded.complete t src 0 0 _
  refine ⟨_, exec_ends_ok (i := .timeSync src role pp mask asym time) (t := t) (rsp := leBytes 4 (t.time.word 4)) rfl h
    ((if_neg hargs).trans ((if_neg hrole).trans (if_neg hjob))), ?_,
    (t.complete_settings src 0 0 _).trans (State.changeNotice_settings _ src [])⟩
  rw [htime]
  exact done_complete src 0 0 _ (by simp)

theorem timeSync_sets {role : BitVec 2} {pp : BitVec 6} {mask : BitVec 48} {asym : List (BitVec 16)}
    (h : Rules.running s src (reqTimeSync role pp mask asym none)) (hargs : role ≠ 3 ∧ pp.toNat < 48) :
    ∃ s', exec (.timeSync src role pp mask asym none) s = .next s' ∧ Rules.done s' src 0 0 (leBytes 4 (s'.time.word 4)) ∧
      s'.active.role = role ∧ s'.active.pport = pp ∧ s'.shadow.role = role ∧ s'.shadow.pport = pp ∧ s'.now = s.now ∧
      ∀ p : Fin 48, s'.active.tasym[p] = (if mask.getLsbD p.val then asym.getD p.val 0 else s.active.tasym[p]) := by
  obtain ⟨hrole, hport⟩ := hargs
  have hin : ¬ (role = 3 ∨ 48 ≤ pp.toNat) := by
    rintro (heq | hge)
    · exact hrole heq
    · omega
  obtain ⟨s', hstep, hdone, hsets⟩ := timeSync_accepted h hin (fun hc => by cases hc.1) (fun hc => by cases hc.1)
  simp only [State.settings, Prod.mk.injEq] at hsets
  obtain ⟨hactive, hshadow, -, hnow⟩ := hsets
  refine ⟨s', hstep, hdone, ?_, ?_, ?_, ?_, hnow, fun p => ?_⟩
  · rw [hactive]
    rfl
  · rw [hactive]
    rfl
  · rw [hshadow]
    rfl
  · rw [hshadow]
    rfl
  · rw [hactive]
    exact Vector.getElem_ofFn p.isLt

theorem timeSync_steps {pp : BitVec 6} {mask : BitVec 48} {asym : List (BitVec 16)} {t : BitVec 64}
    (h : Rules.running s src (reqTimeSync 1 pp mask asym (some t))) (hport : pp.toNat < 48) :
    (s.anyJob = true → exec (.timeSync src 1 pp mask asym (some t)) s = .next (s.complete src 4 12 [])) ∧
    (s.anyJob = false →
      ∃ s', exec (.timeSync src 1 pp mask asym (some t)) s = .next s' ∧ Rules.done s' src 0 0 (leBytes 4 (s'.time.word 4)) ∧
        s'.now = t.toNat) := by
  have hin : ¬ ((1 : BitVec 2) = 3 ∨ 48 ≤ pp.toNat) := by
    rintro (heq | hge)
    · exact absurd heq (by decide)
    · omega
  have hrole : ¬ ((some t).isSome = true ∧ (1 : BitVec 2) ≠ 1) := fun hc => hc.2 rfl
  refine ⟨fun hjob => ?_, fun hjob => ?_⟩
  · exact ends_denied (i := .timeSync src 1 pp mask asym (some t)) rfl h ((if_neg hin).trans ((if_neg hrole).trans (if_pos ⟨rfl, hjob⟩)))
  · obtain ⟨s', hstep, hdone, hsets⟩ := timeSync_accepted h hin hrole (fun hc => by rw [hjob] at hc; cases hc.2)
    exact ⟨s', hstep, hdone, congrArg (fun x => x.2.2.2) hsets⟩

end

/-- Settles O38: each command by its reply, and the sets by what the notices after it leave alone. -/
theorem directCommandsSetBothSets : Obligations.DirectCommandsSetBothSets := by
  unfold Obligations.DirectCommandsSetBothSets
  refine ⟨fun src cap win s => powerCap_ends, fun src v m s => clockMode_ends, fun src job die x s => phaseTableLoad_ends,
    fun src s h => exec_ends_ok (i := .phaseTableClear src 0xFF) rfl h (if_pos rfl), fun src p s => ?ports,
    fun src role pp mask asym s h => ⟨timeSync_sets h, fun hout => ?_⟩, fun src pp mask asym t s => timeSync_steps⟩
  case ports =>
    exact ⟨fun h => portSet_ends (i := .portDisable src p) (f := fun c => { c with en := false }) rfl h rfl,
      fun h => portSet_ends (i := .portEnable src p) (f := fun c => { c with en := true }) rfl h rfl,
      fun v h => portSetLaneen_ends h, fun v h => portSetMshare_ends h,
      fun v h => exec_ends_ok (i := .portSetLaneen src p true v) rfl h rfl, fun k v h => portSetTxpre_ends k v h,
      fun h hactive => portCtlRetrain_ends h hactive⟩
  · exact ends_badArg (i := .timeSync src role pp mask asym none) rfl h (if_pos hout)

end Sys2Proof.Machine
end

section
/-! PROOFS. Rollback of a job whose cores run short of spare rows (R206, R306, R402). -/

namespace Sys2Proof.Machine

/-- A running job of core 0. -/
def shortJob : Job := { Job.blank with st := .running, cores := [(0, false, 0)] }

/-- More rows of one bank of core 0's position than it has spares for (R206). -/
def shortRepairs : List RepairEntry := (List.range 33).map (fun row => .scratchpad 0 0 0 0 (BitVec.ofNat _ row))

/-- The mailbox of the BMC, which runs a rollback of job 1. -/
def rollbackMailbox : Mailbox :=
  { Mailbox.reset with
    st := .running, opc := BitVec.ofNat 16 (reqRollback 1).opc, job := 1, payload := (reqRollback 1).sent }

/-- A module with the job READY for pour 1, whose core 0 is short of spare rows, and without a riser that is not retired. -/
def shortState : State :=
  { State.reset with
    bmc := rollbackMailbox
    board := { Board.reset with stage := .ready }
    flask := { Flask.reset with job := some 1, pstate := .ready }
    mp := { Mp.reset with jobs := Mp.reset.jobs.set 0 shortJob, repairs := shortRepairs, retiredCores := List.range 272 } }

theorem shortState_runs_rollback : Rules.running shortState .bmc (reqRollback 1) := by decide +kernel

/-! ### A fatal record faults every job (R473) -/

theorem State.Logs.jobs {s t : State} (h : s.Logs t) : t.mp.jobs = s.mp.jobs := h.same (g := fun u => u.mp.jobs) (fun _ _ _ _ _ _ _ => rfl)

theorem State.Logs.flask {s t : State} (h : s.Logs t) : t.flask = s.flask := h.same (g := State.flask) (fun _ _ _ _ _ _ _ => rfl)

theorem State.flask_unfaulted : Unfaulted State.flask where
  core _ _ _ := rfl
  faulted _ _ := rfl
  mp _ _ _ := rfl
  put s x := ((State.Logs.refl s).logPut x).flask

/-- The fault of a job leaves no job of another state but FAULTED, and a running job in none but that. -/
theorem State.faultJob_st (s : State) (j k : Fin 8) :
    ((s.faultJob k).job j).st = (s.job j).st ∧ (j = k → (s.job j).st ≠ .running) ∨ ((s.faultJob k).job j).st = .faulted := by
  have hfaults : ∀ x, (((((s.holdCores k).mapJob k (fun b => { b with st := .faulted })).safetyAction (.job (k.val + 1))).logPut x).job j).st =
      if j = k then .faulted else (s.job j).st := fun x => by
    have hlogs := (State.Logs.refl (((s.holdCores k).mapJob k (fun b => { b with st := .faulted })).safetyAction (.job (k.val + 1)))).logPut x
    have hhold : (s.holdCores k).mp.jobs = s.mp.jobs := foldl_keeps (fun t : State => t.mp.jobs)
      (fun (t : State) (x : CoreId × Bool × Word) => t.setCore x.1 ((t.core x.1).halted (t.env x.1))) (fun _ _ => rfl) _ s
    show (Job.st (State.mp _).jobs[j]) = _
    rw [hlogs.jobs]
    show (((s.holdCores k).mp.jobs.set k _)[j]).st = _
    rw [hhold]
    by_cases hjk : j = k
    · subst hjk
      rw [if_pos rfl]
      exact congrArg Job.st (Vector.getElem_set_self _)
    · rw [if_neg hjk]
      exact congrArg Job.st (Vector.getElem_set_ne _ _ (Fin.val_ne_of_ne (Ne.symm hjk)))
  unfold State.faultJob
  by_cases hjk : j = k
  · subst hjk
    split
    · exact .inr ((hfaults _).trans (if_pos rfl))
    · exact .inr ((hfaults _).trans (if_pos rfl))
    · exact .inr ((hfaults _).trans (if_pos rfl))
    next hrun _ => exact .inl ⟨rfl, fun _ => hrun⟩
  · refine .inl ⟨?_, fun h => absurd h hjk⟩
    split
    · exact (hfaults _).trans (if_neg hjk)
    · exact (hfaults _).trans (if_neg hjk)
    · exact (hfaults _).trans (if_neg hjk)
    · rfl

theorem State.faultJob_of_faulted {s : State} {j : Fin 8} (h : (s.job j).st = .faulted) (k : Fin 8) : ((s.faultJob k).job j).st = .faulted := by
  rcases s.faultJob_st j k with ⟨hsame, -⟩ | hfaulted
  · exact hsame.trans h
  · exact hfaulted

/-- Job 0 is the first that a fatal record faults. -/
theorem State.faultAll_faults {s : State} (h : (s.job 0).st = .running) : (s.faultAll.job 0).st = .faulted := by
  have hfirst : ((s.faultJob 0).job 0).st = .faulted := by
    rcases s.faultJob_st 0 0 with ⟨-, hrun⟩ | hfaulted
    · exact absurd h (hrun rfl)
    · exact hfaulted
  have hjobs : List.finRange 8 = 0 :: [1, 2, 3, 4, 5, 6, 7] := by decide
  rw [State.faultAll, hjobs, List.foldl_cons]
  exact List.foldlRecOn (motive := fun t : State => (t.job 0).st = .faulted) [1, 2, 3, 4, 5, 6, 7] (fun t j => t.faultJob j) hfirst
    fun t ht k _ => State.faultJob_of_faulted ht k

/-- A fatal record of the module faults job 0 and does not change the flask block. -/
theorem State.log_fatal {s : State} {x : Event} (hrecord : x.notice = false) (hsev : x.sev = 3) (hjob : x.job = 0)
    (h : (s.job 0).st = .running) : ((s.log x).job 0).st = .faulted ∧ (s.log x).flask = s.flask := by
  obtain ⟨u, hu, heq⟩ := (State.Logs.refl s).log_severity (x := x) (.inr (.inr hjob))
  have hrun : (u.job 0).st = .running := (congrArg (fun v : Vector Job 8 => v[0].st) hu.jobs).trans h
  have hall : u.severity x = ({ u with mp := { u.mp with fatal := true } } : State).faultAll := by
    rw [State.severity, if_neg (by simp [hrecord]), if_neg (by simp [hsev]), if_pos hsev]
  rw [heq]
  refine ⟨?_, (State.flask_unfaulted.severity u _).trans hu.flask⟩
  rw [hall]
  exact State.faultAll_faults hrun

/-- A die that runs out of risers leaves a fatal record (R306). -/
theorem State.exhausted_faults {s : State} (h : (s.job 0).st = .running) (d : Nat) (id : Option CoreId) :
    ((s.exhausted d id).job 0).st = .faulted ∧ (s.exhausted d id).flask = s.flask := by
  unfold State.exhausted
  extract_lets m t x
  exact State.log_fatal (s := t) rfl rfl rfl h

/-! ### The rollback -/

/-- The reset of the cores of a job that has one core. -/
theorem State.resetCores_one {s : State} {j : Fin 8} {id : CoreId} {q : Bool} {pc : Word} (h : (s.job j).cores = [(id, q, pc)]) :
    s.resetCores j = (((s.applyRepairs [id]).replaceShort id).setCore id (((s.applyRepairs [id]).replaceShort id).rolledCore id)).dropRequests
      [id] true := by
  rw [State.resetCores, h]
  rfl

/-- The reset of core 0 finds no riser. -/
theorem shortState_resetCores : ((shortState.resetCores 0).job 0).st = .faulted ∧ (shortState.resetCores 0).flask = shortState.flask := by
  have hposition : (shortState.applyRepairs [0]).position 0 = some 0 := by decide +kernel
  have hshort : (nhas (shortState.applyRepairs [0]).mp.retiredCores 0 && (shortState.applyRepairs [0]).overRepaired 0) = true := by
    decide +kernel
  have hrisers : (shortState.applyRepairs [0]).freeRiser 0 = none := by decide +kernel
  have hreplace : (shortState.applyRepairs [0]).replaceShort 0 = (shortState.applyRepairs [0]).exhausted 0 (some 0) := by
    rw [State.replaceShort, hposition]
    refine (if_pos hshort).trans ?_
    rw [State.replaceCore, hrisers]
    rfl
  have hfaults := State.exhausted_faults (s := shortState.applyRepairs [0]) (by decide +kernel) 0 (some 0)
  have hcores : (shortState.job 0).cores = [(0, false, 0)] := by decide +kernel
  rw [State.resetCores_one hcores, hreplace]
  generalize (shortState.applyRepairs [0]).exhausted 0 (some 0) = t at hfaults
  obtain ⟨hst, hflask⟩ := hfaults
  exact ⟨hst, hflask⟩

/-- Writes of a host that wait change no job where no region is mirrored. -/
theorem State.runHeld_jobs {s : State} (h : s.flask.regions = []) (l : List (Nat × List Byte)) : (s.runHeld l).mp.jobs = s.mp.jobs := by
  induction l generalizing s with
  | nil => rfl
  | cons x xs ih =>
    refine ite_keeps (g := fun t : State => t.mp.jobs) (a := s) rfl ?_
    rw [State.hbmWrite_of_no_regions h]
    exact ih h

/-- The fatal record of the reset faults the job that is rolled back. -/
theorem shortState_rollback_faults : ((shortState.rollbackJob 0 [1]).job 0).st = .faulted := by
  obtain ⟨hst, hflask⟩ := shortState_resetCores
  generalize hreset : shortState.resetCores 0 = t at hst hflask
  have hrestore : t.restorePour [1] = some (t, 1) := by
    rw [State.restorePour, State.writeBack, hflask]
    rfl
  have hown : t.flask.job = some 1 := by rw [hflask]; rfl
  have hregions : (t.mapFlask (fun f => f.rolledBack 1)).flask.regions = [] := by
    show (t.flask.rolledBack 1).regions = []
    rw [hflask]
    rfl
  have hjobs := State.runHeld_jobs hregions t.host.b2held
  rw [State.rollbackJob, hreset]
  dsimp only
  rw [if_pos (show t.flask.job = some ((0 : Fin 8).val + 1) from hown), hrestore]
  show (((((t.mapFlask _).runHeld t.host.b2held).mp.jobs.set 0 _)[0] : Job)).st = _
  rw [Vector.getElem_set_self]
  show (((t.mapFlask _).runHeld t.host.b2held).mp.jobs[0]).st = _
  rw [hjobs]
  exact hst

theorem State.complete_bmc_job (s : State) (st : Byte) (d : Nat) (rsp : List Byte) (j : Fin 8) :
    (s.complete .bmc st d rsp).job j = s.job j := rfl

/-- Refutes O41: its clause on a rollback to the pour that another module reports committed says that the job keeps its state, while the
reset of the job's cores comes first, and one that finds no riser for a position short of spare rows leaves a fatal record, which faults
the job; `shortState` has such a core. -/
theorem not_poursAreDeclaredAskedForAndRolledBack : ¬ Obligations.PoursAreDeclaredAskedForAndRolledBack := by
  unfold Obligations.PoursAreDeclaredAskedForAndRolledBack
  rintro ⟨-, -, -, -, -, hready, -⟩
  have hjob : shortState.job 0 = shortJob := rfl
  obtain ⟨s', hstep, -, hkeeps, -⟩ := hready .bmc 1 0 [1] shortState shortState_runs_rollback (by decide +kernel) (by rw [hjob]; decide)
    rfl (by decide) rfl (by decide) ⟨1, by decide⟩
  have hbody : withJob 1 (fun j s =>
      let f := s.flask
      let reply := if f.job = some (j.val + 1) then wordBytes [f.pstate.code, f.committed.toNat] else wordBytes [0, 0]
      if (s.job j).st = .killed then badArg s 0 else okWith (s.rollbackJob j [1]) reply) shortState =
      okWith (shortState.rollbackJob 0 [1]) (wordBytes [PourState.ready.code, 0]) := by
    have hnamed : shortState.jobNamed 1 = some 0 := by decide +kernel
    rw [withJob, hnamed]
    exact if_neg (by rw [hjob]; decide)
  have hends := exec_ends_ok (i := .rollback .bmc 1 [1]) rfl shortState_runs_rollback hbody
  have hs' : s' = (shortState.rollbackJob 0 [1]).complete .bmc 0 0 (wordBytes [PourState.ready.code, 0]) :=
    Host.Outcome.next.inj (hstep.symm.trans hends)
  rw [hs', State.complete_bmc_job, shortState_rollback_faults, hjob] at hkeeps
  exact absurd hkeeps (by decide)

end Sys2Proof.Machine
end

section
/-! PROOFS. Flasks: binding, adoption and status (R382, R383, R406, R407, R411, Table 15-12). -/

namespace Sys2Proof.Machine

/-- A command that may execute again ends as its reply says. -/
theorem exec_answers_due {i : Instr} {src : Source} {q : Request} {body : State → Reply} {s : State} {r : Reply}
    (hi : exec i s = mpCmd src q body s) (h : Rules.due s src q) (hq : q.again = true) (hbody : body s = r) :
    exec i s = .next (State.answer src r) := by
  obtain ⟨hheld, hst, hruns, hrank⟩ := h
  rw [hi, mpCmd_running hheld hst hruns (.inr hq) hrank, hbody]

/-- The bindings of both sets, and the flask block. -/
def State.binding (s : State) : FlaskBind × FlaskBind × Flask := (s.active.bind, s.shadow.bind, s.flask)

theorem State.binding_unrecorded : Unrecorded State.binding where
  errs _ _ := rfl
  host _ _ := rfl
  switch _ _ := rfl
  events _ _ _ _ := rfl
  box s src b := by cases src <;> rfl
  job _ _ _ := rfl

theorem State.changeNotice_binding (s : State) (src : Source) (l : List Word) : (s.changeNotice src l).binding = s.binding := by
  cases src with
  | host n => rfl
  | fm k => exact State.binding_unrecorded.log_of_cores (fun _ _ => rfl) (fun _ _ _ => rfl) s _
  | bmc => exact State.binding_unrecorded.log_of_cores (fun _ _ => rfl) (fun _ _ _ => rfl) s _

section
variable {src : Source} {p : ModuleId} {c u : Word} {keep : Bool} {peer : PeerBind} {s : State}

/-! ### What a binding must satisfy -/

theorem bindingFor_self (h : p = s.self) : s.bindingFor keep p c.toNat u.toNat = .error 0 := if_pos h

theorem bindingFor_large (h : p ≠ s.self) (hc : 480 * 16384 < c.toNat) : s.bindingFor keep p c.toNat u.toNat = .error 4 :=
  (if_neg h).trans (if_pos hc)

theorem bindingFor_undo (h : p ≠ s.self) (hc : c.toNat ≤ 480 * 16384) (hu : c.toNat < u.toNat) :
    s.bindingFor keep p c.toNat u.toNat = .error 8 := (if_neg h).trans ((if_neg (Nat.not_lt.mpr hc)).trans (if_pos hu))

theorem bindingFor_small (h : p ≠ s.self) (hc : c.toNat ≤ 480 * 16384) (hu : u.toNat ≤ c.toNat)
    (hr : c.toNat * 65536 < regionBytes s.flask.regions) : s.bindingFor keep p c.toNat u.toNat = .error 4 :=
  (if_neg h).trans ((if_neg (Nat.not_lt.mpr hc)).trans ((if_neg (Nat.not_lt.mpr hu)).trans (if_pos hr)))

/-- Arguments within the limits of an unbound module make a binding where its areas have a place (R383). -/
theorem bindingFor_unbound (hen : s.active.bind.en = false) (h : p ≠ s.self) (hr : regionBytes s.flask.regions ≤ c.toNat * 65536)
    (hc : c.toNat ≤ 480 * 16384) (hu : u.toNat ≤ c.toNat) {x y z : Nat}
    (hplace : s.placeAreas (c.toNat * 65536) (u.toNat * 65536) = some (x, y, z)) :
    s.bindingFor keep p c.toNat u.toNat = .ok {
      en := true, partner := p, cap := BitVec.ofNat 23 c.toNat, undo := BitVec.ofNat 23 u.toNat
      store := BitVec.ofNat 24 (x / 65536), undoArea := BitVec.ofNat 24 (y / 65536), rbArea := BitVec.ofNat 24 (z / 65536) } := by
  refine (if_neg h).trans ((if_neg (Nat.not_lt.mpr hc)).trans ((if_neg (Nat.not_lt.mpr hu)).trans ((if_neg (Nat.not_lt.mpr hr)).trans ?_)))
  refine (if_neg (by simp [hen])).trans ?_
  rw [hplace]

/-- With KEEP a bound module takes a new partner for the areas that it has (R407). -/
theorem bindingFor_keep (hen : s.active.bind.en = true) (h : p ≠ s.self) (hr : regionBytes s.flask.regions ≤ c.toNat * 65536)
    (hc : c.toNat ≤ 480 * 16384) (hu : u.toNat ≤ c.toNat) (hcap : s.active.bind.cap.toNat = c.toNat)
    (hundo : s.active.bind.undo.toNat = u.toNat) :
    s.bindingFor true p c.toNat u.toNat = .ok { s.active.bind with partner := p } := by
  refine (if_neg h).trans ((if_neg (Nat.not_lt.mpr hc)).trans ((if_neg (Nat.not_lt.mpr hu)).trans ((if_neg (Nat.not_lt.mpr hr)).trans ?_)))
  refine (if_pos hen).trans ((if_neg (not_not.mpr hcap)).trans ((if_neg (not_not.mpr hundo)).trans (if_neg ?_)))
  simp

/-! ### FLASK_BIND -/

/-- The reply of a binding that the arguments make, by what the partner holds (R382). -/
def State.bindReply (s : State) (src : Source) (keep : Bool) (p : ModuleId) (c u : Word) (peer : PeerBind) (b : FlaskBind) : Reply :=
  match peer with
  | .mismatched => badArg s 0
  | .waiting => waiting (s.mapFlask (fun f => { f with bindAsk := some { partner := p, cap := c, undo := u, keep := keep } }))
  | .matching =>
    if b = s.active.bind then okWith (s.mapFlask (fun f => { f with bindAsk := none })) b.reply
    else okWith (((s.setBind b).mapFlask (fun f => f.bound keep s.active.bind.en)).changeNotice src []) b.reply

/-- FLASK_BIND without or with KEEP. -/
theorem flaskBind_refused {i : Instr} {o : Nat} (hi : exec i s = flaskBind src keep p c u peer s)
    (h : Rules.due s src (reqFlaskBind p keep c u)) (hbad : s.bindingFor keep p c.toNat u.toNat = .error o) :
    exec i s = .next (s.complete src 3 o []) := by
  refine exec_answers_due (r := badArg s o) hi h rfl ?_
  rw [hbad]

theorem flaskBind_binds {i : Instr} {b : FlaskBind} (hi : exec i s = flaskBind src keep p c u peer s)
    (h : Rules.due s src (reqFlaskBind p keep c u)) (hgood : s.bindingFor keep p c.toNat u.toNat = .ok b) :
    exec i s = .next (State.answer src (s.bindReply src keep p c u peer b)) := by
  refine exec_answers_due hi h rfl ?_
  rw [hgood]
  rfl

/-- A binding that both partners hold is in both sets, and its areas start empty. -/
theorem flaskBind_matching {i : Instr} {b : FlaskBind} (hi : exec i s = flaskBind src keep p c u .matching s)
    (h : Rules.due s src (reqFlaskBind p keep c u)) (hgood : s.bindingFor keep p c.toNat u.toNat = .ok b) (hnew : b ≠ s.active.bind) :
    ∃ s', exec i s = .next s' ∧ Rules.done s' src 0 0 b.reply ∧ s'.binding = (b, b, s.flask.bound keep s.active.bind.en) := by
  refine ⟨_, (flaskBind_binds hi h hgood).trans ?_, done_complete src 0 0
    (((s.setBind b).mapFlask (fun f => f.bound keep s.active.bind.en)).changeNotice src []) (by simp [FlaskBind.reply]),
    (State.binding_unrecorded.complete _ src 0 0 _).trans (State.changeNotice_binding _ src [])⟩
  rw [State.bindReply, if_neg hnew]
  rfl

theorem flaskBind_unbound (h : Rules.due s src (reqFlaskBind p false c u)) (hen : s.active.bind.en = false) (hp : p ≠ s.self)
    (hr : regionBytes s.flask.regions ≤ c.toNat * 65536) (hc : c.toNat ≤ 480 * 16384) (hu : u.toNat ≤ c.toNat) {x y z : Nat}
    (hplace : s.placeAreas (c.toNat * 65536) (u.toNat * 65536) = some (x, y, z)) :
    (∃ s' b, exec (.flaskBind src p c u .matching) s = .next s' ∧ Rules.done s' src 0 0 (wordBytes [b.store.toNat, b.undoArea.toNat, b.rbArea.toNat]) ∧ Rules.bindsTo s' b ∧ b.en = true ∧ b.partner = p ∧
      b.cap = BitVec.ofNat 23 c.toNat ∧ b.undo = BitVec.ofNat 23 u.toNat ∧ b.store = BitVec.ofNat 24 (x / 65536) ∧
      b.undoArea = BitVec.ofNat 24 (y / 65536) ∧ b.rbArea = BitVec.ofNat 24 (z / 65536) ∧ s'.flask.held = [] ∧ s'.flask.rb = []) ∧
    exec (.flaskBind src p c u .waiting) s =
      .next (Rules.begun (s.mapFlask (fun f => { f with bindAsk := some { partner := p, cap := c, undo := u, keep := false } })) src) ∧
    exec (.flaskBind src p c u .mismatched) s = .next (s.complete src 3 0 []) := by
  have hgood := bindingFor_unbound (keep := false) hen hp hr hc hu hplace
  refine ⟨?_, (flaskBind_binds (i := .flaskBind src p c u .waiting) (peer := .waiting) rfl h hgood).trans rfl,
    (flaskBind_binds (i := .flaskBind src p c u .mismatched) (peer := .mismatched) rfl h hgood).trans rfl⟩
  obtain ⟨s', hstep, hdone, hbinding⟩ := flaskBind_matching (i := .flaskBind src p c u .matching) rfl h hgood
    (fun heq => by rw [← heq] at hen; cases hen)
  simp only [State.binding, Prod.mk.injEq] at hbinding
  obtain ⟨hactive, hshadow, hflask⟩ := hbinding
  exact ⟨s', _, hstep, hdone, ⟨hactive, hshadow⟩, rfl, rfl, rfl, rfl, rfl, rfl, rfl, congrArg Flask.held hflask, congrArg Flask.rb hflask⟩

theorem flaskBindKeep_rebinds (h : Rules.due s src (reqFlaskBind p true c u)) (hen : s.active.bind.en = true) (hp : p ≠ s.self)
    (hr : regionBytes s.flask.regions ≤ c.toNat * 65536) (hpartner : p ≠ s.active.bind.partner) (hc : c.toNat ≤ 480 * 16384)
    (hu : u.toNat ≤ c.toNat) (hcap : s.active.bind.cap.toNat = c.toNat) (hundo : s.active.bind.undo.toNat = u.toNat) :
    ∃ s', exec (.flaskBindKeep src p c u .matching) s = .next s' ∧ Rules.done s' src 0 0 (wordBytes [s.active.bind.store.toNat, s.active.bind.undoArea.toNat, s.active.bind.rbArea.toNat]) ∧
      Rules.bindsTo s' { s.active.bind with partner := p } ∧ s'.flask.prot = 2 ∧ s'.flask.expect = s.flask.committed ∧
      (s.flask.job ≠ none → s'.flask.dirty = { all := true, except := [] }) := by
  obtain ⟨s', hstep, hdone, hbinding⟩ := flaskBind_matching (i := .flaskBindKeep src p c u .matching) rfl h
    (bindingFor_keep hen hp hr hc hu hcap hundo) (fun heq => hpartner (congrArg FlaskBind.partner heq))
  rw [hen] at hbinding
  simp only [State.binding, Prod.mk.injEq] at hbinding
  obtain ⟨hactive, hshadow, hflask⟩ := hbinding
  refine ⟨s', hstep, hdone, ⟨hactive, hshadow⟩, congrArg Flask.prot hflask, congrArg Flask.expect hflask, fun hjob => ?_⟩
  refine (congrArg Flask.dirty hflask).trans (if_pos ?_)
  simpa [Option.isSome_iff_ne_none] using hjob

/-! ### Unbinding -/

theorem flaskUnbind_ends (h : Rules.running s src reqFlaskUnbind) :
    (s.flask.job ≠ none ∧ s.flask.shares ≠ 0 → exec (.flaskUnbind src) s = .next (s.complete src 4 6 [])) ∧
    (s.flask.job = none →
      ∃ s', exec (.flaskUnbind src) s = .next s' ∧ Rules.done s' src 0 0 (wordBytes [0, 0, 0]) ∧
        Rules.bindsTo s' FlaskBind.unbound ∧ s'.flask.held = [] ∧ s'.flask.rb = []) := by
  refine ⟨fun ⟨hjob, hshares⟩ => ?_, fun hjob => ?_⟩
  · exact ends_denied (i := .flaskUnbind src) rfl h (if_pos (by simp [Option.isSome_iff_ne_none, hjob, hshares]))
  · let t := ((s.setBind .unbound).mapFlask (fun f => { f with held := [], rb := [], bindAsk := none })).changeNotice src []
    let t' := if t.board.pchCand.isSome && !t.anyJob then t.addFettle { scope := .hbm, src := none } else t
    have ht' : t'.binding = t.binding := ite_keeps rfl rfl
    have hbinding := (State.binding_unrecorded.complete t' src 0 0 (wordBytes [0, 0, 0])).trans (ht'.trans (State.changeNotice_binding _ src []))
    simp only [State.binding, Prod.mk.injEq] at hbinding
    obtain ⟨hactive, hshadow, hflask⟩ := hbinding
    exact ⟨_, exec_ends_ok (i := .flaskUnbind src) (t := t') rfl h (if_neg (by simp [hjob])), done_complete src 0 0 _ (by simp),
      ⟨hactive, hshadow⟩, congrArg Flask.held hflask, congrArg Flask.rb hflask⟩

end

/-! ### FAILOVER_ADOPT and MIRROR_STATUS -/

section
variable {src : Source} {s : State}

theorem failoverAdopt_ends {job : BitVec 8} {j : Fin 8} {x p : ModuleId} {rp : Word} {code : OrderingCode}
    (h : Rules.running s src (reqAdopt job x p rp)) (hj : s.jobNamed job = some j) :
    (code ≠ s.ident.code ∨ s.active.bind.en = true ∨ s.localTo p = false →
      exec (.failoverAdopt src job x p rp code) s = .next (s.complete src 4 7 [])) ∧
    (code = s.ident.code ∧ s.active.bind.en = false ∧ s.localTo p = true ∧ (s.job j).st = .loaded ∧ s.flask.job = some (j.val + 1) ∧
        (∀ k, k ≠ j → (s.job k).st = .none) ∧ s.flask.shares ≠ 0 →
      exec (.failoverAdopt src job x p rp code) s = .next (Rules.begun (s.mapFlask (fun f =>
        { f with adopt := some { job := j.val + 1, x := x, p := p, rp := rp, written := [], poison := 0 } })) src)) := by
  have hnamed : ∀ f : Fin 8 → State → Reply, withJob job f s = f j s := fun f => by rw [withJob, hj]
  refine ⟨fun hout => ?_, fun ⟨hcode, hen, hlocal, hst, hown, hothers, hshares⟩ => ?_⟩
  · have hspare : s.spare j code p = false := by
      rw [State.spare]
      rcases hout with hcode | hen | hlocal
      · simp [hcode]
      · simp [hen]
      · simp [hlocal]
    exact ends_denied (i := .failoverAdopt src job x p rp code) rfl h ((hnamed _).trans (if_pos (by rw [hspare]; rfl)))
  · have hspare : s.spare j code p = true := by
      have hall : (List.finRange 8).all (fun k => decide (k = j ∨ (s.job k).st = .none)) = true :=
        List.all_eq_true.mpr fun k _ => decide_eq_true (or_iff_not_imp_left.mpr (hothers k))
      rw [State.spare, hall]
      simp [hcode, hen, hlocal, hst, hown]
    have hwaits : ∀ a : Adoption, a.written = [] →
        (s.mapFlask (fun f => { f with adopt := some a })).settleAdoption = s.mapFlask (fun f => { f with adopt := some a }) := fun a ha => by
      have hpending : (s.mapFlask (fun f => { f with adopt := some a })).adopted = false := by
        refine decide_eq_false (Nat.not_le.mpr ?_)
        rw [ha]
        exact Nat.mul_pos (by decide) (Nat.pos_of_ne_zero hshares)
      exact if_pos (by rw [hpending]; rfl)
    refine exec_waits (i := .failoverAdopt src job x p rp code) rfl h ((hnamed _).trans ((if_neg (by rw [hspare]; decide)).trans ?_))
    rw [hwaits _ rfl]

theorem mirrorStatus_reports (h : Rules.running s src reqMirrorStatus) :
    ∃ rsp, exec (.mirrorStatus src) s = .next (s.complete src 0 0 rsp) ∧ rsp.length = 0xD8 ∧
      rsp.take 0xD0 = wordBytes (s.blockWords false 0x30 0 52) ∧ word32At rsp 0xD0 = s.flask.partnerCommitted.toNat ∧
      word32At rsp 0xD4 = min 0xFFFFFFFF ((s.now - s.flask.partnerAt) / 1000000) := by
  have hblock : (wordBytes (s.blockWords false 0x30 0 52)).length = 208 := by
    rw [wordBytes_length, State.blockWords, List.length_map, List.length_range]
  have hsplit : s.mirrorStatus = wordBytes (s.blockWords false 0x30 0 52) ++
      (wordBytes [s.flask.partnerCommitted.toNat, min 0xFFFFFFFF ((s.now - s.flask.partnerAt) / 10 ^ 6)] ++ []) := by
    rw [List.append_nil, State.mirrorStatus, wordBytes, List.flatMap_append]
    rfl
  refine ⟨s.mirrorStatus, exec_ends_ok (i := .mirrorStatus src) rfl h rfl, ?_, ?_, ?_, ?_⟩ <;> rw [hsplit]
  · rw [List.length_append, hblock]
    rfl
  · exact List.take_left' hblock
  · refine (word32At_wordBytes [] hblock (k := 0) (by simp) rfl).trans (Nat.mod_eq_of_lt s.flask.partnerCommitted.isLt)
  · refine (word32At_wordBytes [] hblock (k := 1) (by simp) rfl).trans (Nat.mod_eq_of_lt ?_)
    exact Nat.lt_of_le_of_lt (Nat.min_le_left _ _) (by decide)

end

/-- Settles O42: a binding by what its arguments make, and the rest by their replies. -/
theorem flasksBindAdoptAndReport : Obligations.FlasksBindAdoptAndReport := by
  unfold Obligations.FlasksBindAdoptAndReport
  refine ⟨fun src p c u s h hen hp hr hc hu x y z hplace => flaskBind_unbound h hen hp hr hc hu hplace,
    fun src p c u peer s h => ⟨fun hp => ?_, fun ⟨hp, hc⟩ => ?_, fun ⟨hp, hc, hu⟩ => ?_, fun ⟨hp, hc, hu, hr⟩ => ?_⟩,
    fun src p c u s h hen hp hr hpartner hc hu hcap hundo => flaskBindKeep_rebinds h hen hp hr hpartner hc hu hcap hundo,
    fun src s h => flaskUnbind_ends h, fun src job j x p rp code s h hj => failoverAdopt_ends h hj, fun src s h => mirrorStatus_reports h⟩
  · exact flaskBind_refused (i := .flaskBind src p c u peer) rfl h (bindingFor_self hp)
  · exact flaskBind_refused (i := .flaskBind src p c u peer) rfl h (bindingFor_large hp hc)
  · exact flaskBind_refused (i := .flaskBind src p c u peer) rfl h (bindingFor_undo hp hc hu)
  · exact flaskBind_refused (i := .flaskBind src p c u peer) rfl h (bindingFor_small hp hc hu hr)

end Sys2Proof.Machine
end

section
/-! PROOFS. The mailboxes of the sources: what a result and a record leave in the others (R447, R450, R454). -/

namespace Sys2Proof.Machine

/-- A record below the fatal severities leaves every mailbox alone. -/
theorem State.Logs.box {s t : State} (h : s.Logs t) (x : Source) : t.box x = s.box x :=
  h.same (g := fun u => u.box x) (fun _ _ _ _ _ _ _ => by cases x <;> rfl)

/-- A result leaves the mailbox of every other source alone. -/
theorem State.complete_box_other (s : State) {x y : Source} (h : y ≠ x) (st : Byte) (d : Nat) (rsp : List Byte) :
    (s.complete x st d rsp).box y = s.box y := by
  have hset := s.setBox_box_other x y ((s.box x).finish s.now st d rsp) h
  cases x with
  | bmc => exact hset
  | fm k =>
    have hanswer : ∀ t : State, t.Logs (t.answerManager k) := fun t => by
      unfold State.answerManager State.sendResult
      split
      · exact .refl t
      · exact List.foldlRecOn (motive := t.Logs) _ _ (.refl t) fun u hu i _ => hu.switch
    exact (((hanswer _).trans (State.logs_log _ (.inl rfl))).box y).trans hset
  | host n =>
    refine Eq.trans ?_ hset
    exact either_branch (P := fun t : State => t.box y = (s.setBox (.host n) _).box y) (by cases y <;> rfl) (by cases y <;> rfl)

theorem mem_allSources (x : Source) : x ∈ allSources := by
  cases x with
  | bmc => exact List.mem_cons_self
  | fm k => exact List.mem_cons_of_mem _ (List.mem_append_left _ (List.mem_map_of_mem (List.mem_finRange k)))
  | host n => exact List.mem_append_right _ (List.mem_map_of_mem (List.mem_finRange n))

theorem nodup_allSources : allSources.Nodup := by decide

end Sys2Proof.Machine
end

section
/-! PROOFS. The arbitration of a tick, the limits of commands, BAR2 and the management transmit buffer (R452, R457, R460 to R465, R471). -/

namespace Sys2Proof.Machine

/-! ### Starts -/

/-- A step that leaves a value alone for every element of a list leaves it alone over the list. -/
theorem foldl_fixed {α β : Type} {f : α → β → α} {a : α} {l : List β} (h : ∀ x ∈ l, f a x = a) : l.foldl f a = a := by
  induction l with
  | nil => rfl
  | cons x xs ih =>
    rw [List.foldl_cons, h x List.mem_cons_self]
    exact ih fun y hy => h y (List.mem_cons_of_mem _ hy)

/-- A step that changes a value for one element of a list only, and then not again, is made once. -/
theorem foldl_one {α β : Type} {f : α → β → α} {a : α} {y : β} {l : List β} (hy : y ∈ l) (hother : ∀ x ∈ l, x ≠ y → f a x = a)
    (hfixed : ∀ x ∈ l, f (f a y) x = f a y) : l.foldl f a = f a y := by
  induction l with
  | nil => cases hy
  | cons x xs ih =>
    rw [List.foldl_cons]
    by_cases hxy : x = y
    · subst hxy
      exact foldl_fixed fun z hz => hfixed z (List.mem_cons_of_mem _ hz)
    · rw [hother x List.mem_cons_self hxy]
      exact ih ((List.mem_cons.mp hy).resolve_left (Ne.symm hxy)) (fun z hz => hother z (List.mem_cons_of_mem _ hz))
        fun z hz => hfixed z (List.mem_cons_of_mem _ hz)

section
variable {s : State} {src : Source}

/-- A mailbox without a command that waits starts none. -/
theorem start_idle (h : (s.box src).st ≠ .queued) : s.start src = s := by
  have harmed : s.armed src = false := decide_eq_false fun hc => h hc.1
  exact if_pos (by rw [harmed]; rfl)

theorem not_queued_of_idle {b : Mailbox} (h : b.busy = false) : b.st ≠ .queued := fun hq => by simp [Mailbox.busy, hq] at h

theorem not_running_of_idle {b : Mailbox} (h : b.busy = false) : b.st ≠ .running := fun hq => by simp [Mailbox.busy, hq] at h

/-- A command that has been arbitrated and that nothing stops starts. -/
theorem start_runs (hst : (s.box src).st = .queued) (hold : (s.box src).arrival < s.mp.tick) (hmay : s.mayStart src = true)
    (hgood : requestBad (s.box src).opc.toNat (s.box src).payload = none) :
    s.start src = s.setBox src { s.box src with st := .running } := by
  have harmed : s.armed src = true := decide_eq_true ⟨hst, hold⟩
  refine (if_neg (by rw [harmed, hmay]; decide)).trans ?_
  rw [hgood]

/-- Nothing stops a command while no other mailbox holds one that waits or runs. -/
theorem mayStart_alone (h : ∀ x, x ≠ src → (s.box x).st ≠ .queued ∧ (s.box x).st ≠ .running) : s.mayStart src = true := by
  refine Bool.or_eq_true_iff.mpr (.inr (List.all_eq_true.mpr fun x _ => ?_))
  by_cases hx : x = src
  · simp [hx]
  · obtain ⟨hqueued, hrunning⟩ := h x hx
    simp [State.armed, hqueued, hrunning]

/-- The starts of a tick, where one mailbox alone holds a command that waits. -/
theorem starts_one (hst : (s.box src).st = .queued) (hothers : ∀ x, x ≠ src → (s.box x).st ≠ .queued)
    (hold : (s.box src).arrival < s.mp.tick) (hmay : s.mayStart src = true)
    (hgood : requestBad (s.box src).opc.toNat (s.box src).payload = none) :
    allSources.foldl State.start s = s.setBox src { s.box src with st := .running } := by
  have hstart := start_runs hst hold hmay hgood
  rw [foldl_one (mem_allSources src) (fun x _ hx => start_idle (hothers x hx)), hstart]
  intro x _
  rw [hstart]
  refine start_idle ?_
  by_cases hx : x = src
  · rw [hx, State.setBox_box_same]
    exact nofun
  · rw [s.setBox_box_other _ _ _ hx]
    exact hothers x hx

/-! ### The commands of a tick -/

/-- The block at the end of tick `k`, whose commands are then arbitrated. -/
def State.ticked (s : State) (k : Nat) : State := { s.wait (1000 * (k + 1)) with mp := { s.mp with tick := 1000 * (k + 1) } }

theorem State.box_ticked (s : State) (k : Nat) (x : Source) : (s.ticked k).box x = s.box x := by cases x <;> rfl

/-- The checks made at the arrival of a command: one that fails completes at once (R453). -/
def State.arrived (s : State) (x : Source) : State :=
  match s.arrivalFail x (s.box x).ver (s.box x).opc.toNat (s.box x).act (s.box x).job with
  | some y => s.complete x y.1 y.2 []
  | none => s

/-- The commands of the earliest tick are ranked and then start, where each passes the checks made at its arrival. -/
theorem arbitrate_ranks {k : Nat} {cmds : List Source} (hnew : allSources.filter (fun x => s.fresh? x) = cmds)
    (hfirst : (cmds.map (fun x => (s.box x).tickNo)).min? = some k) (htick : ∀ x ∈ cmds, (s.box x).tickNo = k)
    (hqueued : ∀ x ∈ cmds, (s.box x).st = .queued) (hswap : s.swapFirst k = false)
    (hwell : ∀ x ∈ cmds, s.arrivalFail x (s.box x).ver (s.box x).opc.toNat (s.box x).act (s.box x).job = none) :
    s.arbitrate = allSources.foldl State.start ((s.ticked k).rank k cmds []) := by
  unfold State.arbitrate
  dsimp only
  rw [hnew, hfirst]
  dsimp only
  rw [if_neg (by rw [hswap]; decide)]
  have hall : cmds.filter (fun x => decide ((s.box x).tickNo = k)) = cmds :=
    List.filter_eq_self.mpr fun x hx => decide_eq_true (htick x hx)
  have hcmds : cmds.filter (fun x => decide (((s.wait (1000 * (k + 1))).box x).tickNo = k)) = cmds := by
    refine Eq.trans (List.filter_congr fun x _ => ?_) hall
    cases x <;> rfl
  have harrive : cmds.foldl State.arrived (s.ticked k) = s.ticked k := foldl_fixed fun x hx => by
    have hpass : (s.ticked k).arrivalFail x (s.box x).ver (s.box x).opc.toNat (s.box x).act (s.box x).job = none :=
      Eq.trans (by cases x <;> rfl) (hwell x hx)
    rw [State.arrived, State.box_ticked, hpass]
  have hwait : cmds.filter (fun x => decide (((s.ticked k).box x).st = .queued)) = cmds :=
    List.filter_eq_self.mpr fun x hx => decide_eq_true (by rw [State.box_ticked]; exact hqueued x hx)
  rw [hcmds]
  show allSources.foldl State.start (State.rank k (cmds.filter fun x => decide (((cmds.foldl State.arrived (s.ticked k)).box x).st = .queued))
    [] (cmds.foldl State.arrived (s.ticked k))) = _
  rw [harrive, hwait]

/-- The command of one mailbox is the only one of its tick. -/
theorem fresh_one (hst : (s.box src).st = .queued) (hnew : s.mp.tick ≤ (s.box src).arrival)
    (hanswers : s.answers src (s.box src).opc.toNat = true) (honly : Rules.onlyBusy s src) :
    allSources.filter (fun x => s.fresh? x) = [src] := by
  have hiff : ∀ x ∈ allSources, s.fresh? x = (x == src) := fun x _ => by
    by_cases hx : x = src
    · subst hx
      simp [State.fresh?, hst, hnew, hanswers]
    · simp [State.fresh?, not_queued_of_idle (honly x hx), hx]
  rw [List.filter_congr hiff, List.filter_beq, List.count_eq_one_of_mem nodup_allSources (mem_allSources src)]
  rfl

/-- The arbitration of a tick that has one command. -/
theorem arbitrate_one (hqueued : Rules.queued s src) (hanswers : s.answers src (s.box src).opc.toNat = true)
    (honly : Rules.onlyBusy s src) (hwell : Rules.wellSent s src) :
    s.arbitrate = allSources.foldl State.start ((s.ticked ((s.box src).arrival / 1000)).rank ((s.box src).arrival / 1000) [src] []) := by
  obtain ⟨hst, hnew, hswap⟩ := hqueued
  refine arbitrate_ranks (fresh_one hst hnew hanswers honly) rfl ?_ ?_ hswap ?_
  · exact fun x hx => by rw [List.mem_singleton.mp hx]; rfl
  · exact fun x hx => by rw [List.mem_singleton.mp hx]; exact hst
  · exact fun x hx => by rw [List.mem_singleton.mp hx]; exact hwell.1

/-- A tick whose safety actions do not oppose a command. -/
theorem opposed_of_unopposed (h : Rules.unopposed s src) : (s.ticked ((s.box src).arrival / 1000)).opposed ((s.box src).arrival / 1000) (s.box src) = false := by
  refine List.any_eq_false.mpr fun x hx => ?_
  have hother : x.1 ≠ (s.box src).arrival / 1000 := h x hx
  simp [hother]

theorem arrival_lt_tick (n : Nat) : n < 1000 * (n / 1000 + 1) := by omega

/-- The command of a tick that is alone starts when the tick ends (R460). -/
theorem arbitrationTick_alone (hqueued : Rules.queued s src) (hanswers : s.answers src (s.box src).opc.toNat = true)
    (honly : Rules.onlyBusy s src) (hwell : Rules.wellSent s src) (hfree : Rules.unopposed s src) :
    ∃ s', exec .arbitrationTick s = .next s' ∧ s'.box src = { s.box src with st := .running } ∧
      s'.mp.tick = 1000 * ((s.box src).arrival / 1000 + 1) ∧ s'.now = max s.now (1000 * ((s.box src).arrival / 1000 + 1)) := by
  let t := s.ticked ((s.box src).arrival / 1000)
  have hbox : ∀ x, t.box x = s.box x := s.box_ticked _
  have hrank : t.rank ((s.box src).arrival / 1000) [src] [] = t := by
    rw [State.rank]
    rw [hbox, opposed_of_unopposed hfree]
    rfl
  have hstart : allSources.foldl State.start t = t.setBox src { t.box src with st := .running } := by
    refine starts_one ?_ (fun x hx => ?_) ?_ (mayStart_alone fun x hx => ?_) ?_
    · rw [hbox]
      exact hqueued.1
    · rw [hbox]
      exact not_queued_of_idle (honly x hx)
    · rw [hbox]
      exact arrival_lt_tick _
    · rw [hbox]
      exact ⟨not_queued_of_idle (honly x hx), not_running_of_idle (honly x hx)⟩
    · rw [hbox]
      exact hwell.2
  refine ⟨s.arbitrate, rfl, ?_⟩
  rw [arbitrate_one hqueued hanswers honly hwell, hrank, hstart, hbox]
  refine ⟨State.setBox_box_same _ _ _, ?_, ?_⟩
  · rw [State.setBox_mp]
    rfl
  · rw [State.setBox_now]
    rfl

/-- A command that conflicts with a safety action of its tick is preempted (R464). -/
theorem arbitrationTick_safety {c : Claim} (hqueued : Rules.queued s src) (hanswers : s.answers src (s.box src).opc.toNat = true)
    (honly : Rules.onlyBusy s src) (hwell : Rules.wellSent s src) (hsafety : ((s.box src).arrival / 1000, c) ∈ s.mp.safety)
    (hmeets : ∃ d ∈ (s.box src).claims, s.meets c d = true) :
    ∃ s', exec .arbitrationTick s = .next s' ∧ (s'.box src).st = .done ∧ (s'.box src).status = 5 ∧ (s'.box src).detail = 0xFFFFFFFF := by
  let t := s.ticked ((s.box src).arrival / 1000)
  have hbox : ∀ x, t.box x = s.box x := s.box_ticked _
  obtain ⟨d, hd, hmeet⟩ := hmeets
  have hopposed : t.opposed ((s.box src).arrival / 1000) (s.box src) = true := by
    refine List.any_eq_true.mpr ⟨_, hsafety, ?_⟩
    rw [Bool.and_eq_true]
    exact ⟨decide_eq_true rfl, List.any_eq_true.mpr ⟨d, hd, hmeet⟩⟩
  have hrank : t.rank ((s.box src).arrival / 1000) [src] [] = t.preemptSafety ((s.box src).arrival / 1000) src := by
    rw [State.rank]
    rw [hbox, if_pos hopposed]
    rfl
  have hlogs : (t.complete src 5 0xFFFFFFFF []).Logs (t.preemptSafety ((s.box src).arrival / 1000) src) :=
    (State.logs_corrected _ _ _).trans (State.logs_notice _ _ _ _)
  have hdone : (t.preemptSafety ((s.box src).arrival / 1000) src).box src = (t.complete src 5 0xFFFFFFFF []).box src := hlogs.box src
  obtain ⟨hst, hstatus, hdetail, -⟩ := done_complete_nil src 5 0xFFFFFFFF t
  have hstart : allSources.foldl State.start (t.preemptSafety ((s.box src).arrival / 1000) src) =
      t.preemptSafety ((s.box src).arrival / 1000) src := by
    refine foldl_fixed fun x _ => start_idle ?_
    by_cases hx : x = src
    · rw [hx, hdone, hst]
      exact nofun
    · rw [hlogs.box, State.complete_box_other _ hx, hbox]
      exact not_queued_of_idle (honly x hx)
  refine ⟨s.arbitrate, rfl, ?_⟩
  rw [arbitrate_one hqueued hanswers honly hwell, hrank, hstart, hdone]
  exact ⟨hst, hstatus, hdetail⟩

/-- A pending swap at or before a tick comes first (R460). -/
theorem arbitrationTick_after_swap {w : PendingSwap} (hst : (s.box src).st = .queued) (hnew : s.mp.tick ≤ (s.box src).arrival)
    (hanswers : s.answers src (s.box src).opc.toNat = true) (honly : Rules.onlyBusy s src) (hswap : s.mp.swap = some w)
    (htime : w.time / 1000 ≤ (s.box src).arrival / 1000) : exec .arbitrationTick s = .next s := by
  have hfirst : s.swapFirst ((s.box src).arrival / 1000) = true := by
    rw [State.swapFirst, hswap]
    exact decide_eq_true (by omega)
  have hwaits : s.arbitrate = s := by
    unfold State.arbitrate
    dsimp only
    rw [fresh_one hst hnew hanswers honly]
    exact if_pos hfirst
  exact congrArg Host.Outcome.next hwaits

end

/-! ### Two commands of one tick -/

section
variable {s : State} {n : Fin 8}

theorem fresh_bmc_host (hup : s.firmwareUp = true) (hbmc : Rules.queued s .bmc) (hhost : Rules.queued s (.host n))
    (honly : ∀ x, x ≠ .bmc → x ≠ .host n → (s.box x).busy = false) : allSources.filter (fun x => s.fresh? x) = [.bmc, .host n] := by
  have hanswers : ∀ x k, s.answers x k = true := fun x k => by rw [State.answers, hup]; rfl
  have hfirst : s.fresh? .bmc = true := by simp [State.fresh?, hbmc.1, hbmc.2.1, hanswers]
  have hiff : ∀ x ∈ (List.finRange 2).map Source.fm ++ (List.finRange 8).map Source.host, s.fresh? x = (x == .host n) := fun x hx => by
    have hxb : x ≠ .bmc := by
      rintro rfl
      simp at hx
    by_cases hxn : x = .host n
    · subst hxn
      simp [State.fresh?, hhost.1, hhost.2.1, hanswers]
    · simp [State.fresh?, not_queued_of_idle (honly x hxb hxn), hxn]
  have hnodup : ((List.finRange 2).map Source.fm ++ (List.finRange 8).map Source.host).Nodup := (List.nodup_cons.mp nodup_allSources).2
  have hmem : Source.host n ∈ (List.finRange 2).map Source.fm ++ (List.finRange 8).map Source.host :=
    List.mem_append_right _ (List.mem_map_of_mem (List.mem_finRange n))
  show (Source.bmc :: ((List.finRange 2).map Source.fm ++ (List.finRange 8).map Source.host)).filter (fun x => s.fresh? x) = _
  rw [List.filter_cons_of_pos hfirst, List.filter_congr hiff, List.filter_beq, List.count_eq_one_of_mem hnodup hmem]
  rfl

/-- Of two commands of one tick that conflict the one of the lower place is preempted with the SEQ of the other (R461, R464). -/
theorem arbitrationTick_conflict (hup : s.firmwareUp = true) (hbmc : Rules.queued s .bmc) (hhost : Rules.queued s (.host n))
    (honly : ∀ x, x ≠ .bmc → x ≠ .host n → (s.box x).busy = false) (hwellB : Rules.wellSent s .bmc) (hwellH : Rules.wellSent s (.host n))
    (htick : (s.box .bmc).arrival / 1000 = (s.box (.host n)).arrival / 1000) (hconflict : s.conflict (s.box .bmc) (s.box (.host n)) = true)
    (hfreeB : Rules.unopposed s .bmc) (hfreeH : Rules.unopposed s (.host n)) :
    ∃ s', exec .arbitrationTick s = .next s' ∧ (s'.box .bmc).st = .running ∧ (s'.box (.host n)).st = .done ∧
      (s'.box (.host n)).status = 5 ∧ (s'.box (.host n)).detail = (s.box .bmc).seq := by
  generalize hk : (s.box .bmc).arrival / 1000 = k at *
  let t := s.ticked k
  have hbox : ∀ x, t.box x = s.box x := s.box_ticked k
  have harbitrate : s.arbitrate = allSources.foldl State.start (t.rank k [.bmc, .host n] []) := by
    refine arbitrate_ranks (fresh_bmc_host hup hbmc hhost honly) ?_ ?_ ?_ (hk ▸ hbmc.2.2) ?_
    · show ([(s.box .bmc).arrival / 1000, (s.box (.host n)).arrival / 1000]).min? = some k
      rw [hk, ← htick]
      simp
    · simp only [List.mem_cons, List.not_mem_nil, or_false, forall_eq_or_imp, forall_eq]
      exact ⟨hk, htick.symm⟩
    · simp only [List.mem_cons, List.not_mem_nil, or_false, forall_eq_or_imp, forall_eq]
      exact ⟨hbmc.1, hhost.1⟩
    · simp only [List.mem_cons, List.not_mem_nil, or_false, forall_eq_or_imp, forall_eq]
      exact ⟨hwellB.1, hwellH.1⟩
  have hopposedB : t.opposed k (s.box .bmc) = false := by
    have h := opposed_of_unopposed hfreeB
    rwa [hk] at h
  have hopposedH : t.opposed k (s.box (.host n)) = false := by
    have h := opposed_of_unopposed hfreeH
    rwa [← htick] at h
  have hrank : t.rank k [.bmc, .host n] [] = t.preempt k (.host n) .bmc := by
    rw [State.rank]
    rw [hbox, hopposedB]
    show t.rank k [.host n] [(.bmc, s.box .bmc)] = _
    rw [State.rank]
    have hfind : [(Source.bmc, s.box .bmc)].find? (fun a => t.conflict a.2 (s.box (.host n))) = some (.bmc, s.box .bmc) :=
      List.find?_cons_of_pos hconflict
    rw [hbox, hopposedH, hfind]
    rfl
  have hseq : (t.box .bmc).seq.toNat = (s.box .bmc).seq.toNat := by rw [hbox]
  have hlogs : (t.complete (.host n) 5 (s.box .bmc).seq.toNat []).Logs (t.preempt k (.host n) .bmc) := by
    rw [← hseq]
    exact (State.logs_corrected _ _ _).trans (State.logs_notice _ _ _ _)
  have hlost : (t.preempt k (.host n) .bmc).box (.host n) = (t.complete (.host n) 5 (s.box .bmc).seq.toNat []).box (.host n) := hlogs.box _
  have hothers : ∀ x, x ≠ .host n → (t.preempt k (.host n) .bmc).box x = s.box x := fun x hx => by
    rw [hlogs.box, State.complete_box_other _ hx, hbox]
  have hwon := hothers .bmc nofun
  obtain ⟨hst, hstatus, hdetail, -⟩ := done_complete_nil (.host n) 5 (s.box .bmc).seq.toNat t
  have hidle : ∀ x, x ≠ .bmc → ((t.preempt k (.host n) .bmc).box x).st ≠ .queued ∧ ((t.preempt k (.host n) .bmc).box x).st ≠ .running :=
    fun x hx => by
      by_cases hxn : x = .host n
      · rw [hxn, hlost, hst]
        exact ⟨nofun, nofun⟩
      · rw [hothers x hxn]
        exact ⟨not_queued_of_idle (honly x hx hxn), not_running_of_idle (honly x hx hxn)⟩
  have hticks : (t.preempt k (.host n) .bmc).mp.tick = 1000 * (k + 1) := by
    have h1 : (t.preempt k (.host n) .bmc).mp.tick = (t.complete (.host n) 5 (s.box .bmc).seq.toNat []).mp.tick :=
      hlogs.same (g := fun u => u.mp.tick) (fun _ _ _ _ _ _ _ => rfl)
    exact h1.trans (ite_keeps (g := fun u : State => u.mp.tick) (a := t) rfl rfl)
  have hstart : allSources.foldl State.start (t.preempt k (.host n) .bmc) =
      (t.preempt k (.host n) .bmc).setBox .bmc { (t.preempt k (.host n) .bmc).box .bmc with st := .running } := by
    refine starts_one ?_ (fun x hx => (hidle x hx).1) ?_ (mayStart_alone hidle) ?_
    · rw [hwon]
      exact hbmc.1
    · rw [hwon, hticks, ← hk]
      exact arrival_lt_tick _
    · rw [hwon]
      exact hwellB.2
  refine ⟨s.arbitrate, rfl, ?_⟩
  rw [harbitrate, hrank, hstart, State.setBox_box_same, State.setBox_box_other _ _ _ _ (nofun : Source.host n ≠ .bmc), hlost]
  exact ⟨rfl, hst, hstatus, hdetail.trans (by rw [BitVec.ofNat_toNat, BitVec.setWidth_eq])⟩

end

/-! ### Commands that wait -/

section
variable {s : State} {x y : Source}

/-- No command waits that has not been arbitrated: those of earlier ticks start whose conflicts have ended. -/
theorem arbitrate_of_none_fresh (h : ∀ z, s.fresh? z = false) : s.arbitrate = allSources.foldl State.start s := by
  have hnew : allSources.filter (fun z => s.fresh? z) = [] := List.filter_eq_nil_iff.mpr fun z _ => by rw [h z]; decide
  unfold State.arbitrate
  dsimp only
  rw [hnew]
  rfl

theorem arbitrationTick_waits (hxy : x ≠ y) (hx : (s.box x).st = .running) (hy : (s.box y).st = .queued)
    (hold : (s.box y).arrival < s.mp.tick) (hconflict : s.conflict (s.box x) (s.box y) = true) (hkill : (s.box y).opc ≠ 0x12)
    (honly : ∀ z, z ≠ x → z ≠ y → (s.box z).busy = false) :
    (s.mp.swap = none → exec .arbitrationTick s = .next s) ∧
    (s.mp.swap ≠ none → (s.box y).opc ∈ [0x21, 0x22, 0x23] → requestBad (s.box y).opc.toNat (s.box y).payload = none →
      exec .arbitrationTick s = .next (s.setBox y { s.box y with st := .running })) := by
  have hothers : ∀ z, z ≠ y → (s.box z).st ≠ .queued := fun z hz => by
    by_cases hzx : z = x
    · rw [hzx, hx]
      exact nofun
    · exact not_queued_of_idle (honly z hzx hz)
  have hnone : ∀ z, s.fresh? z = false := fun z => by
    by_cases hzy : z = y
    · subst hzy
      simp [State.fresh?, hy, hold]
    · simp [State.fresh?, hothers z hzy]
  have hstarts : exec .arbitrationTick s = .next (allSources.foldl State.start s) :=
    congrArg Host.Outcome.next (arbitrate_of_none_fresh hnone)
  refine ⟨fun hswap => ?_, fun hswap hopc hgood => ?_⟩
  · have hstays : s.mayStart y = false := by
      have hall : allSources.all (fun z => decide (z = y) ||
          !((decide ((s.box z).st = .running) || (s.armed z && s.ahead z y)) && s.conflict (s.box z) (s.box y))) = false := by
        refine List.all_eq_false.mpr ⟨x, mem_allSources x, ?_⟩
        simp [hxy, hx, hconflict]
      unfold State.mayStart
      dsimp only
      rw [decide_eq_false hkill, hswap, hall]
      rfl
    have hfixed : allSources.foldl State.start s = s := foldl_fixed fun z _ => by
      by_cases hzy : z = y
      · subst hzy
        exact if_pos (by rw [hstays]; simp)
      · exact start_idle (hothers z hzy)
    rw [hstarts, hfixed]
  · have hpast : (s.box y).pastSwap = true := by
      simp only [List.mem_cons, List.not_mem_nil, or_false] at hopc
      rcases hopc with h | h | h <;> simp [Mailbox.pastSwap, h]
    have hmay : s.mayStart y = true := by
      have hpending : s.mp.swap.isSome = true := Option.isSome_iff_ne_none.mpr hswap
      rw [State.mayStart]
      simp [hpending, hpast]
    rw [hstarts, starts_one hy hothers hold hmay hgood]

/-- A row that is not the command of its mailbox, or not yet, does not occur (R461, R463). -/
theorem mpCmd_not_its_turn {i : Instr} {src : Source} {q : Request} {body : State → Reply} (hi : exec i s = mpCmd src q body s)
    (h : Rules.notItsTurn s src q) : exec i s = .next s := by
  rw [hi]
  by_cases hheld : s.board.stage = .held
  · exact mpCmd_held hheld
  · rcases h with h | h | ⟨hst, h⟩
    · exact absurd h hheld
    · exact mpCmd_busy (by simp [Mailbox.busy, h]) (.inl (by rw [h]; exact nofun))
    · have hbusy : (s.box src).busy = true := by simp [Mailbox.busy, hst]
      refine (if_neg hheld).trans ((if_pos hbusy).trans (congrArg Host.Outcome.next (if_neg ?_)))
      rintro ⟨-, hruns, hbegun, hrank⟩
      rcases h with h | h | ⟨hb, hagain⟩
      · rw [h] at hruns
        cases hruns
      · rw [h] at hrank
        cases hrank
      · simp [hb, hagain] at hbegun

/-- A command that waits beyond its limit ends TIMEOUT (R465). -/
theorem commandTimeout_ends {src : Source} {ms : Nat} (hms : limitMs (s.box src).opc.toNat = some ms) (hst : (s.box src).st = .running) :
    ∃ s', exec (.commandTimeout src) s = .next s' ∧ (s'.box src).st = .done ∧ (s'.box src).status = 6 ∧
      s'.now = max s.now ((s.box src).arrival + (if (s.box src).tlim = 0 then ms else (s.box src).tlim.toNat) * 1000000) := by
  let late := (s.box src).arrival + (if (s.box src).tlim = 0 then ms else (s.box src).tlim.toNat) * 10 ^ 6
  let t : State := { s.wait late with fresh := s.fresh + 1 }
  have hstep : exec (.commandTimeout src) s = .next ((t.undoCommand src).complete src 6 (Config.stepReached (t.fresh - 1)).toNat []) := by
    show execCommandTimeout src s = _
    unfold execCommandTimeout
    dsimp only
    rw [hms]
    exact if_neg (not_not.mpr hst)
  have hundo : (t.undoCommand src).now = t.now := by
    unfold State.undoCommand
    split <;> rfl
  obtain ⟨hdone, hstatus, -⟩ := done_complete_nil src 6 (Config.stepReached (t.fresh - 1)).toNat (t.undoCommand src)
  exact ⟨_, hstep, hdone, hstatus,
    (congrArg (fun z => z.2.2.2) ((t.undoCommand src).complete_settings src 6 _ [])).trans hundo⟩

end

/-! ### BAR2 -/

section
variable {s : State}

theorem b2baseWrite_sets {v : BitVec 32} (hup : s.anyHostUp = true) (hv : v.toNat % 1024 ≤ 0x3C0) :
    exec (.b2baseWrite v) s = .next (Rules.withHost s { s.host with b2base := BitVec.ofNat 10 v.toNat, b2recorded := false }) := by
  have hbase : BitVec.ofNat 10 (v.toNat % 1024) = BitVec.ofNat 10 v.toNat := BitVec.eq_of_toNat_eq (by simp)
  refine congrArg Host.Outcome.next ((if_neg ?_).trans ?_)
  · rintro (h | h)
    · exact Nat.not_lt.mpr hv h
    · rw [hup] at h
      cases h
  · rw [hbase]
    rfl

/-- Bytes without poison are read as they are. -/
theorem outsideBytes_clean (fresh a : Nat) {x : Payload} (h : x.poison = []) : outsideBytes fresh a x = x.bytes := by
  unfold outsideBytes
  rw [h]
  refine List.ext_getElem (by simp) fun i h1 h2 => ?_
  simp [nhas, byteAt, h2]

theorem bar2Read_reads {x : BitVec 36} {n : Nat} (hup : s.anyHostUp = true) (hn : n ≠ 0) (hok : s.bar2Ok (s.bar2Addr x) n false = true)
    (hclean : Rules.cleanHbm s (s.bar2Addr x) n) :
    ∃ s', exec (.bar2Read x n) s = .next s' ∧ s'.host.b2read = memReadN s.hbm.mem (s.bar2Addr x) n ∧ s'.hbm = s.hbm := by
  refine ⟨_, (if_neg (by simp [hup, hn])).trans (if_pos hok), ?_, rfl⟩
  exact (outsideBytes_clean _ _ hclean).trans (s.hbmGet_bytes _ _)

/-- A refused access counts and leaves external memory alone (R452). -/
theorem bar2Refuse_counts (s : State) (a : Nat) : (s.bar2Refuse a).hbm = s.hbm ∧ (s.bar2Refuse a).host.b2err = Rules.saturating s.host.b2err := by
  unfold State.bar2Refuse
  extract_lets h first t
  have hlogs : ∀ e : Event, e.sev.toNat < 2 → (t.log e).hbm = t.hbm ∧ (t.log e).host.b2err = t.host.b2err := fun e he =>
    ⟨(State.logs_log t (.inr he)).same (g := State.hbm) (fun _ _ _ _ _ _ _ => rfl), (State.logs_log t (.inr he)).b2err⟩
  split_ifs
  · obtain ⟨hhbm, herr⟩ := hlogs { mpEvent 0 0x0705 [] with unit := 17, addr := BitVec.ofNat 64 a } (show (0 : BitVec 2).toNat < 2 by decide)
    exact ⟨hhbm, herr⟩
  · exact ⟨rfl, rfl⟩

theorem bar2Read_refused {x : BitVec 36} {n : Nat} (hup : s.anyHostUp = true) (hn : n ≠ 0)
    (hno : s.bar2Ok (s.bar2Addr x) n false = false) :
    ∃ s', exec (.bar2Read x n) s = .next s' ∧ s'.host.b2read = List.replicate n 0xFF ∧
      s'.host.b2err = Rules.saturating s.host.b2err ∧ s'.hbm = s.hbm := by
  obtain ⟨hhbm, herr⟩ := bar2Refuse_counts s (s.bar2Addr x)
  exact ⟨_, (if_neg (by simp [hup, hn])).trans (if_neg (by simp [hno])), rfl, herr, hhbm⟩

/-- A copy of a share leaves the cores alone. -/
theorem copyShare_cores (s : State) (k : Nat) : (s.copyShare k).cores = s.cores := by
  refine ite_keeps (g := State.cores) rfl ?_
  split
  · rfl
  · refine ite_keeps (g := State.cores) rfl ?_
    exact (State.logs_log _ (.inr (show (1 : BitVec 2).toNat < 2 by decide))).same (g := State.cores) (fun _ _ _ _ _ _ _ => rfl)

theorem hbmWrite_leaves (s : State) (a : Nat) (d : List Byte) :
    memReadN (s.hbmWrite a (.clean d)).hbm.mem a d.length = d ∧ (s.hbmWrite a (.clean d)).cores = s.cores :=
  ⟨memReadN_memWriteN_same _ _ _, foldl_keeps State.cores (fun (s : State) (k : Nat) => s.copyShare k) (fun s k => copyShare_cores s k) _ s⟩

theorem bar2Write_writes {x : BitVec 36} {d : List Byte} (hup : s.anyHostUp = true) (hd : d ≠ [])
    (hok : s.bar2Ok (s.bar2Addr x) d.length true = true) :
    (s.host.b2held = [] ∧ s.hbmBlocked (s.bar2Addr x) d.length = false →
      ∃ s', exec (.bar2Write x d) s = .next s' ∧ memReadN s'.hbm.mem (s.bar2Addr x) d.length = d ∧ s'.cores = s.cores) ∧
    (s.host.b2held = [] ∧ s.hbmBlocked (s.bar2Addr x) d.length = true →
      exec (.bar2Write x d) s = .next (Rules.withHost s { s.host with b2held := [(s.bar2Addr x, d)] })) := by
  have hmeet : s.hbmMeetPart (s.bar2Addr x) d.length .clean = s := ite_self s
  have hstep : exec (.bar2Write x d) s = .next (s.runHeld (s.host.b2held ++ [(s.bar2Addr x, d)])) := by
    show execBar2Write x d s .clean = _
    unfold execBar2Write
    dsimp only
    rw [if_neg (by simp [hup, hd]), if_neg (by simp [hok]), hmeet]
  refine ⟨fun ⟨hheld, hfree⟩ => ?_, fun ⟨hheld, hblocked⟩ => ?_⟩
  · rw [hheld, List.nil_append, State.runHeld, if_neg (by simp [hfree])] at hstep
    exact ⟨_, hstep, hbmWrite_leaves s _ d⟩
  · rw [hheld, List.nil_append, State.runHeld, if_pos hblocked] at hstep
    exact hstep

theorem bar2Write_refused {x : BitVec 36} {d : List Byte} (hup : s.anyHostUp = true) (hd : d ≠ [])
    (hno : s.bar2Ok (s.bar2Addr x) d.length true = false) :
    ∃ s', exec (.bar2Write x d) s = .next s' ∧ s'.hbm = s.hbm ∧ s'.host.b2err = Rules.saturating s.host.b2err :=
  ⟨_, (if_neg (by simp [hup, hd])).trans (if_pos (by simp [hno])), bar2Refuse_counts s _⟩

/-! ### The management transmit buffer -/

/-- The end of a message that the host asks to send. -/
def State.sendEnd (s : State) (rej : BitVec 2) : State := { s with host := { s.host with txrej := rej, txbusy := false } }

/-- The message that the transmit buffer asks for, under the module's own number (R457). -/
def State.sendOf (s : State) (buf : List Byte) : State :=
  s.post s.mpDie (s.message 5 (Rules.bufHead buf).dmod (Rules.bufHead buf).subop (Rules.bufHead buf).addr.toNat
    ((buf.drop 16).take (16 * headerLen (BitVec.ofNat 128 (leNat (buf.take 16)))))) none

/-- A write of the whole buffer, and its sending on GO. -/
theorem mgmtTransmit_eq {go : Bool} {buf : List Byte} (hup : s.anyHostUp = true) (hlen : buf.length = 272) :
    exec (.mgmtTransmit go buf) s =
      if go = false then .next (Rules.withHost s { s.host with txbuf := buf })
      else if s.active.anchor = false then .next ((Rules.withHost s { s.host with txbuf := buf }).sendEnd 1)
      else if (Rules.bufHead buf).type ≠ 5 ∨ (Rules.bufHead buf).subop ≠ 0 ∧ (Rules.bufHead buf).subop ≠ 1 then
        .next ((Rules.withHost s { s.host with txbuf := buf }).sendEnd 2)
      else .next (((Rules.withHost s { s.host with txbuf := buf }).sendOf buf).sendEnd 0) := by
  have hwhole : (buf ++ List.replicate (272 - buf.length) 0).take 272 = buf := by
    rw [hlen, Nat.sub_self, List.replicate_zero, List.append_nil, ← hlen, List.take_length]
  show execMgmtTransmit go buf s = _
  unfold execMgmtTransmit
  rw [if_neg (by simp [hup]), hwhole]
  dsimp only
  simp only [Bool.not_eq_true']
  rfl

end

/-- Settles O35: a tick by its commands that wait, a limit by its command, and the accesses of the host by their windows. -/
theorem commandsAreArbitratedAndBar2IsChecked : Obligations.CommandsAreArbitratedAndBar2IsChecked := by
  unfold Obligations.CommandsAreArbitratedAndBar2IsChecked
  refine ⟨fun src s hq ha ho hw hf => arbitrationTick_alone hq ha ho hw hf,
    fun n s hup hb hh ho hwb hwh ht hc hfb hfh => arbitrationTick_conflict hup hb hh ho hwb hwh ht hc hfb hfh,
    fun src c s hq ha ho hw hs hm => arbitrationTick_safety hq ha ho hw hs hm,
    fun src w s hst hn ha ho hs ht => arbitrationTick_after_swap hst hn ha ho hs ht,
    fun x y s hxy hx hy hold hc hk ho => arbitrationTick_waits hxy hx hy hold hc hk ho,
    fun src job cap win t s => ⟨mpCmd_not_its_turn (i := .jobKill src job) rfl, mpCmd_not_its_turn (i := .powerCap src cap win) rfl,
      mpCmd_not_its_turn (i := .rollback src job) rfl, mpCmd_not_its_turn (i := .cfgSwapAt src t) rfl⟩,
    fun src ms s => commandTimeout_ends, fun v s => b2baseWrite_sets, fun v s hv => congrArg Host.Outcome.next (if_pos (.inl hv)),
    fun x n s => bar2Read_reads, fun x n s => bar2Read_refused, fun x d s => bar2Write_writes, fun x d s => bar2Write_refused,
    fun buf s hup hlen => ?_, fun buf s hup hlen hanchor => ?_, fun buf s hup hlen hanchor hother => ?_,
    fun buf s hup hlen hanchor htype hsubop => ⟨_, rfl, ?_⟩⟩ <;> rw [mgmtTransmit_eq hup hlen]
  · rfl
  · exact (if_neg (by decide)).trans (if_pos hanchor)
  · exact (if_neg (by decide)).trans ((if_neg (by simp [hanchor])).trans (if_pos hother))
  · refine (if_neg (by decide)).trans ((if_neg (by simp [hanchor])).trans (if_neg ?_))
    rintro (h | ⟨h0, h1⟩)
    · exact h htype
    · exact hsubop.elim h0 h1

end Sys2Proof.Machine
end

section
/-! PROOFS. The capture of a killed job, and the fettle that follows it (R156, R500, R503). -/

namespace Sys2Proof.Machine

/-- A killed job of core 0 whose quarantine is in force, with a capture window that is still to be written. -/
def captureJob : Job :=
  { Job.blank with
    st := .killed, cores := [(0, false, 0)], wins := [{ base := 0x40000000, limit := 0x41000000, write := true, host := false, link := false }]
    inForce := some 0, capture := true }

/-- Core 0, whose vector engine has passed its tests. -/
def testedCore : Core := { Core.reset with ve := { Ve.reset with restr := false } }

/-- A module with the job to capture and no fettle under way. -/
def captureState : State :=
  { State.reset with cores := [(0, testedCore)], mp := { Mp.reset with jobs := Mp.reset.jobs.set 0 captureJob } }

/-- The fettle of a killed job sets VG.RESTR of its cores (R156, R503). -/
theorem State.killFettle_restricts {s : State} {j : Fin 8} {id : CoreId} {c : Core} (hfree : s.mp.fettles = [])
    (hcore : (s.job j).cores = [(id, false, 0)]) (hcores : s.cores = [(id.toNat, c)]) :
    (s.killFettle j).cores = [(id.toNat, { c with ve := { c.ve with restr := true } })] := by
  have hjob : (s.job (Fin.ofNat 8 j.val)).cores = [(id, false, 0)] := by rw [Fin.ofNat_val_eq_self, hcore]
  have hbegins : s.killFettle j = s.addFettle { scope := .job j.val, src := none } := if_neg (by rw [hfree]; exact nofun)
  rw [hbegins]
  simp only [State.addFettle, hcores, hjob, List.map_cons, List.map_nil, List.any_cons, List.any_nil, beq_self_eq_true, Bool.true_or, if_true]

/-- The capture writes external memory and then begins the fettle. -/
theorem captureState_captures :
    exec (.capture 0) captureState = .next (((captureState.hbmPut 0x40000000 ((captureState.core 0).captureRecord (captureState.env 0))).mapJob 0
      (fun b => { b with captured := true })).killFettle 0) := rfl

/-- Refutes O40: its clause on a capture says that every core stays as it was, while the job's fettle, which the capture begins, sets
VG.RESTR of the job's cores; core 0 of `captureState` had it clear. -/
theorem not_killedJobsAreQuarantinedCapturedAndFettled : ¬ Obligations.KilledJobsAreQuarantinedCapturedAndFettled := by
  unfold Obligations.KilledJobsAreQuarantinedCapturedAndFettled
  rintro ⟨-, -, hcapture, -⟩
  have hjob : captureState.job 0 = captureJob := rfl
  obtain ⟨s', hstep, -, -, -, hkeeps⟩ := hcapture 0 { base := 0x40000000, limit := 0x41000000, write := true, host := false, link := false } 0
    (false, 0) captureState rfl (by rw [hjob]; exact nofun) rfl rfl rfl rfl
  rw [captureState_captures] at hstep
  rw [← Host.Outcome.next.inj hstep] at hkeeps
  generalize (captureState.core 0).captureRecord (captureState.env 0) = x at hkeeps
  have hrestricted := State.killFettle_restricts (s := (captureState.hbmPut 0x40000000 x).mapJob 0 (fun b => { b with captured := true })) (j := 0)
    (id := 0) (c := testedCore) rfl rfl rfl
  rw [hrestricted] at hkeeps
  have hrestr : true = false := congrArg (fun cs : Table Core => (tget cs Core.reset 0).ve.restr) hkeeps
  exact absurd hrestr nofun

end Sys2Proof.Machine
end

section
/-! PROOFS. Copies, streams, the fence and the adoption stream of the flasks (R388 to R391, R399, R400, R406). -/

namespace Sys2Proof.Machine

/-! ### Copies before a write -/

theorem State.channelCandidate_settings (s : State) (p : BitVec 10) : (s.channelCandidate p).settings = s.settings :=
  ite_keeps rfl (ite_keeps (State.log_settings _ _) (ite_keeps (State.log_settings _ _) rfl))

theorem State.rowCandidate_settings (s : State) (a : Nat) : (s.rowCandidate a).settings = s.settings := by
  have hlog := s.log_settings (s.hbmEvent 1 0x0203 a)
  unfold State.rowCandidate
  extract_lets e listed p t short _ _ u
  have hrow : u.settings = s.settings := hlog
  exact ite_keeps rfl (ite_keeps ((u.channelCandidate_settings _).trans hrow) hrow)

/-- What a read finds changes no configuration set (R277). -/
theorem State.hbmMeet_settings (s : State) (a n : Nat) (f : HbmFinding) : (s.hbmMeet a n f).settings = s.settings := by
  cases f with
  | clean => rfl
  | corrected w bit =>
    have hlog : ∀ x, (s.log (s.hbmEvent 0 0x0201 x)).settings = s.settings := fun x => s.log_settings _
    exact ite_keeps rfl (ite_keeps ((State.rowCandidate_settings _ _).trans (hlog _)) (hlog _))
  | uncorrectable w =>
    refine ite_keeps rfl ((State.rowCandidate_settings _ _).trans ?_)
    exact s.log_settings _

theorem State.hbmMeet_active (s : State) (a n : Nat) (f : HbmFinding) : (s.hbmMeet a n f).active = s.active :=
  congrArg Prod.fst (s.hbmMeet_settings a n f)

theorem copyBeforeWrite_copies {share k : Nat} (ext : HbmFinding) {s : State} (hshare : share < s.flask.shares)
    (hneeds : s.needsCopy share = true) (hfree : s.rbFree share = some k) (hcount : s.flask.copies ≠ 0xFFFFFFFF) :
    exec (.copyBeforeWrite share ext) s = .next
      { (s.hbmRead (mirrorAddr s.flask.regions (512 * share)) 512 ext).1.hbmPut (slotAddr s.active.bind.rbArea (share % 8) k)
          (s.hbmRead (mirrorAddr s.flask.regions (512 * share)) 512 ext).2 with
        flask := { s.flask with
          rb := s.flask.rb ++ [{ share := share, gen := s.flask.interval.toNat, slot := k }], copies := s.flask.copies + 1 } } := by
  have hactive : (s.hbmRead (mirrorAddr s.flask.regions (512 * share)) 512 ext).1.active = s.active := s.hbmMeet_active _ _ _
  show Host.Outcome.next (if share < s.flask.shares then s.copyShare share ext else s) = _
  rw [if_pos hshare, State.copyShare, if_neg (by simp [hneeds])]
  simp only [hfree, if_neg hcount, hactive]

/-! ### The mirror stream -/

theorem mirrorStreamShare_sends {e : Fin 8} {k : Nat} (ext : HbmFinding) {s : State} (hinterval : s.flask.interval ≠ 0)
    (hcommitted : s.flask.commitPending = false) (hbound : s.active.bind.en = true) (hfence : s.flask.fenced = false)
    (hopen : s.flask.pstate = .open_) (hfree : s.flask.stream[e] = none)
    (hnext : s.nextShare e.val s.flask.interval.toNat false = some k) (hundo : s.flask.undoOf k s.flask.interval.toNat = none) :
    exec (.mirrorStreamShare e ext) s = .next (s.sendContent e s.flask.interval.toNat k false ext) := by
  have hstreams : s.flask.streams = some (s.flask.interval.toNat, false) :=
    (if_neg hinterval).trans (if_neg (by simp [hcommitted]))
  have hmay : (!s.active.bind.en || s.flask.fenced || s.flask.pstate == .rollback) = false := by
    rw [hbound, hfence, hopen]
    rfl
  show execMirrorStreamShare e s ext = _
  simp only [execMirrorStreamShare, hstreams, hmay, hfree, hnext, hundo, Bool.false_eq_true, if_false]

theorem memReadN_slice (m : Memory) (a n off : Nat) (k : Nat) (h : off + k ≤ n) :
    ((memReadN m a n).drop off).take k = memReadN m (a + off) k := by
  refine List.ext_getElem (by simp; omega) fun i h₁ h₂ => ?_
  simp only [List.getElem_take, List.getElem_drop, memReadN_getElem, Nat.add_assoc]

theorem mirrorShare_posts (e : Fin 8) (gen k a : Nat) (s : State) :
    ∃ m1 m2 : LinkMsg, (s.mirrorShare e gen k a false .clean).switch.waiting = s.switch.waiting ++
        [{ edie := e, msg := m1, who := some (.mirror (512 * k) m1.subop) },
         { edie := e, msg := m2, who := some (.mirror (512 * k + 256) m2.subop) }] ∧
      m1.type = 3 ∧ m2.type = 3 ∧ m1.dmod = s.active.bind.partner ∧ m2.dmod = s.active.bind.partner ∧
      m1.data = memReadN s.hbm.mem a 256 ∧ m2.data = memReadN s.hbm.mem (a + 256) 256 := by
  refine ⟨_, _, List.append_assoc _ _ _, rfl, rfl, rfl, rfl, ?_, ?_⟩
  · show (((s.hbmGet a 512).bytes.drop 0).take 256) = _
    rw [State.hbmGet_bytes, memReadN_slice _ _ _ _ _ (by decide)]
    rfl
  · show (((s.hbmGet a 512).bytes.drop 256).take 256) = _
    rw [State.hbmGet_bytes, memReadN_slice _ _ _ _ _ (by decide)]

/-! ### Overdue pours, the fence and the adoption stream -/

theorem pourOverdue_records {job : Fin 8} {s : State} (hjob : s.pourJob = some job) (hruns : (s.job job).st = .running) :
    ∃ s', exec (.pourOverdue job) s = .next s' ∧ s'.flask.commitAt = max s.now (s.flask.commitAt + 600 * 10 ^ 9) ∧
      s'.errs.counts[(1 : Fin 4)] = s.errs.counts[(1 : Fin 4)] + 1 := by
  have hsev : (1 : BitVec 2).toNat < 2 := by decide
  refine ⟨_, if_pos ⟨hjob, hruns⟩, ?_, ?_⟩
  · exact congrArg Flask.commitAt ((State.logs_log _ (.inr hsev)).same (g := State.flask) (fun _ _ _ _ _ _ _ => rfl))
  · exact State.log_counted rfl rfl hsev _

theorem selfFence_fences {s : State} (h : ∀ j, s.cutOff j = false) :
    exec .selfFence s = .next { s with now := max s.now (s.mp.wordAt + 20000000), flask := { s.flask with fenced := true } } := by
  have hnone : (List.finRange 8).find? (fun j => s.cutOff j) = none := List.find?_eq_none.mpr fun j _ => by simp [h j]
  show execSelfFence s = _
  rw [execSelfFence, hnone]
  rfl

theorem adoptionStream_sends {share : Nat} (addr : BitVec 40) {spare : ModuleId} {s : State} (hbound : s.active.bind.en = true)
    (hspare : s.active.route.spareOf s.active.bind.partner = some spare) (hstored : share < s.active.bind.cap.toNat * 128)
    (hclean : (s.hbmGet (s.active.bind.store.toNat * 65536 + 512 * share) 512).poison = []) :
    exec (.adoptionStream share addr) s = .next
      ((s.post (Fin.ofNat 8 share) (s.message 0 spare 0 addr.toNat
          ((s.hbmGet (s.active.bind.store.toNat * 65536 + 512 * share) 512).bytes.take 256)) (some (.adoption (512 * share)))).post
        (Fin.ofNat 8 share) (s.message 0 spare 0 (addr.toNat + 256)
          ((s.hbmGet (s.active.bind.store.toNat * 65536 + 512 * share) 512).bytes.drop 256)) (some (.adoption (512 * share + 256)))) := by
  have hmay : (!s.active.bind.en || decide (s.active.bind.cap.toNat * 128 ≤ share)) = false := by
    rw [hbound, decide_eq_false (Nat.not_le.mpr hstored)]
    rfl
  show execAdoptionStream share addr s = _
  simp only [execAdoptionStream, hspare, hmay, Bool.false_eq_true, if_false]
  exact if_neg (by rw [ne_eq, not_not]; exact hclean)

/-- Settles O19, clause by clause: each command is its branch, and what its reads and its record leave alone gives the rest. -/
theorem mirrorsStreamAndFence : Obligations.MirrorsStreamAndFence := by
  unfold Obligations.MirrorsStreamAndFence
  refine ⟨fun share k ext s hshare hneeds hfree hcount => copyBeforeWrite_copies ext hshare hneeds hfree hcount,
    fun e k ext s h0 hc hen hf hp hs hn hu => mirrorStreamShare_sends ext h0 hc hen hf hp hs hn hu,
    mirrorShare_posts, fun job s => pourOverdue_records, fun s => selfFence_fences,
    fun share addr spare s => adoptionStream_sends addr⟩

end Sys2Proof.Machine
end

section
/-! PROOFS. A core that a pour releases, whose threads have all ended (R64, R396). -/

namespace Sys2Proof.Machine

/-- The words of a POUR. -/
def pourWords : SeWord := { len := 0, sz := 0, mod := 2, osd := 0x3f, osa := 0x3f, osb := 0x3f, ext := 0 }

/-- A core held until its release (R64), with a thread 0 that is INACTIVE in POUR, so that none of its threads would go on. -/
def endedCore : Core :=
  { Core.reset with
    threads := Core.reset.threads.set 0 { Thread.reset .inactive with stall := .pour pourWords }
    pourArrived := true }

/-- A module whose job, loaded on core 0, has a pour policy. -/
def endedState : State :=
  { State.reset with
    cores := [(0, endedCore)]
    flask := { Flask.reset with job := some 1 }
    mp := { Mp.reset with jobs := Mp.reset.jobs.set 0 { Job.blank with st := .loaded, cores := [(0, false, 0)] } } }

/-- The release of the core ends it: none of its threads runs, waits or is halted. -/
theorem endedState_release_finishes : ((endedState.releasePour 0 0).core 0).finished = true := by decide +kernel

/-- Refutes O18: its last clause says that a core which a pour releases differs in what POUR leaves and in its release alone; the release
also ends a core none of whose threads goes on, as it does with core 0 of `endedState`. -/
theorem not_poursGoThroughTheirSteps : ¬ Obligations.PoursGoThroughTheirSteps := by
  unfold Obligations.PoursGoThroughTheirSteps
  rintro ⟨-, -, -, -, -, -, -, -, -, -, -, -, -, -, -, -, -, -, -, -, -, -, -, -, hrelease⟩
  have hstep := hrelease 0 0 0 pourWords endedState (by decide +kernel) (by decide +kernel) (by decide +kernel) (by decide +kernel)
  have hfinished := endedState_release_finishes
  rw [hstep] at hfinished
  exact absurd hfinished (by decide +kernel)

end Sys2Proof.Machine
end

section
/-! PROOFS. Samples, estimates, the sizing loops, droops and fast trips (R415, R420 to R432). -/

namespace Sys2Proof.Machine

/-! ### Records of sizing -/

/-- A record of the module below severity 2 counts in its severity, and neither moves the power state nor the time. -/
theorem State.log_low {x : Event} (hrecord : x.notice = false) (hcore : x.core = none) (hlow : x.sev.toNat < 2) (s : State) :
    (s.log x).power = s.power ∧ (s.log x).now = s.now ∧ Rules.counted s (s.log x) (severityCount x.sev) := by
  have hlogs := s.logs_log (x := x) (.inr hlow)
  exact ⟨hlogs.same (g := State.power) (fun _ _ _ _ _ _ _ => rfl), hlogs.same (g := State.now) (fun _ _ _ _ _ _ _ => rfl),
    State.log_counted hrecord hcore hlow s⟩

theorem powerEvent_corrected (cause : BitVec 16) (d : List Word) (s : State) :
    (s.log (powerEvent 0 cause d)).power = s.power ∧ (s.log (powerEvent 0 cause d)).now = s.now ∧ Rules.counted s (s.log (powerEvent 0 cause d)) 0 :=
  State.log_low rfl rfl (show (0 : BitVec 2).toNat < 2 by decide) s

theorem powerEvent_deferred (cause : BitVec 16) (d : List Word) (s : State) :
    (s.log (powerEvent 1 cause d)).power = s.power ∧ (s.log (powerEvent 1 cause d)).now = s.now ∧ Rules.counted s (s.log (powerEvent 1 cause d)) 1 :=
  State.log_low rfl rfl (show (1 : BitVec 2).toNat < 2 by decide) s

/-- A bit that PWR_EVENT has set is set. -/
theorem State.powerBit_set (s : State) {k : Nat} (h : k < 9) : (s.powerBit k).power.event.getLsbD k = true := by
  show (s.power.event ||| BitVec.ofNat 9 (2 ^ k)).getLsbD k = true
  rw [BitVec.getLsbD_or, BitVec.getLsbD_ofNat, Nat.testBit_two_pow_self, decide_eq_true h, Bool.and_true, Bool.or_true]

/-! ### The dies -/

theorem State.mapPower_die_same (s : State) (d : Fin 40) (f : DiePower → DiePower) : (s.mapPower d f).power.dies[d] = f s.power.dies[d] :=
  Vector.getElem_set_self _

theorem State.mapPower_die_other (s : State) {d e : Fin 40} (f : DiePower → DiePower) (h : e ≠ d) :
    (s.mapPower d f).power.dies[e] = s.power.dies[e] := Vector.getElem_set_ne d.isLt e.isLt (Fin.val_ne_of_ne h.symm)

/-- A change of a die is its change of the value that the die has. -/
theorem State.mapPower_congr (s : State) (d : Fin 40) {f g : DiePower → DiePower} (h : f s.power.dies[d] = g s.power.dies[d]) :
    s.mapPower d f = s.mapPower d g := by
  rw [State.mapPower, h]
  rfl

/-- A quantity of a die that a change of any die keeps. -/
theorem State.mapPower_die_keeps {γ : Type} {g : DiePower → γ} {f : DiePower → DiePower} (h : ∀ x, g (f x) = g x) (s : State) (d e : Fin 40) :
    g (s.mapPower d f).power.dies[e] = g s.power.dies[e] := by
  by_cases hed : e = d
  · rw [hed, State.mapPower_die_same, h]
  · rw [State.mapPower_die_other s f hed]

/-! ### Droops and samples -/

/-- A die after a droop of one of its islands. -/
def DiePower.drooped (x : DiePower) : DiePower := { x with droop := Rules.saturating x.droop }

theorem droopDetect_counts {i : Fin 8768} {s : State} (h : nhas s.power.droops i.val = false) :
    ∃ s', exec (.droopDetect i) s = .next s' ∧ nhas s'.power.droops i.val = true ∧
      (s'.power.dies[islandDie i.val]).droop = Rules.saturating (s.power.dies[islandDie i.val]).droop := by
  have hstep : exec (.droopDetect i) s = .next { s.mapPower (islandDie i.val) DiePower.drooped with
      power := { (s.mapPower (islandDie i.val) DiePower.drooped).power with droops := nins s.power.droops i.val } } := if_neg (by simp [h])
  refine ⟨_, hstep, (nhas_nins _ _ _).trans (by simp), ?_⟩
  exact congrArg DiePower.droop (s.mapPower_die_same (islandDie i.val) DiePower.drooped)

theorem regulatorSample_keeps (vin iin watts : BitVec 16) (rails : List (BitVec 16)) {s : State} (hup : s.firmwareUp = true) :
    ∃ s', exec (.regulatorSample vin iin watts rails) s = .next s' ∧ s'.now = max s.now (s.power.sampledAt + 1000000) ∧
      s'.power.sample = watts ∧ s'.power.vin = vin ∧ s'.power.iin = iin ∧
      s'.power.samples = (watts.toNat :: s.power.samples).take 60000 ∧
      s'.power.winavg = BitVec.ofNat 16 (meanOf (s'.power.samples.take (1000 * s'.window))) ∧ s'.power.pcap = s.active.pcap ∧
      (9 ≤ s.power.good → s.now < s.power.sampledAt + 2000000 → s'.power.stale = false) := by
  refine ⟨_, if_neg (by simp [hup]), rfl, rfl, rfl, rfl, rfl, rfl, rfl, fun hgood hsoon => ?_⟩
  have hgap : ¬ s.power.sampledAt + 2000000 ≤ max s.now (s.power.sampledAt + 1000000) := by omega
  show (s.power.stale && decide ((if s.power.sampledAt + 2000000 ≤ max s.now (s.power.sampledAt + 1000000) then 1 else s.power.good + 1) < 10)) = false
  rw [if_neg hgap, decide_eq_false (by omega), Bool.and_false]

theorem telemStale_records {s : State} (hup : s.firmwareUp = true) (hfresh : s.power.stale = false) :
    ∃ s', exec .telemStale s = .next s' ∧ s'.power.stale = true ∧ s'.now = max s.now (s.power.sampledAt + 10000000) ∧
      s'.power.event.getLsbD 4 = true ∧ Rules.counted s s' 1 := by
  refine ⟨_, if_neg (by simp [hup, hfresh]), ?_⟩
  generalize hs : (s.wait (s.power.sampledAt + 10000000)) = t
  obtain ⟨hpower, hnow, hcount⟩ := powerEvent_deferred 0x0602 [] (State.powerBit { t with power := { t.power with stale := true, good := 0 } } 4)
  subst hs
  rw [hpower, hnow]
  exact ⟨rfl, rfl, State.powerBit_set _ (by decide), hcount⟩

/-! ### Estimates -/

/-- What `Inv` keeps, each step of its own element establishes, and every later step keeps, holds of all elements at the end. -/
theorem foldl_each {σ α : Type} {f : σ → α → σ} {Inv : σ → Prop} {P : α → σ → Prop} (hinv : ∀ t x, Inv t → Inv (f t x))
    (hset : ∀ t x, Inv t → P x (f t x)) (hkeep : ∀ t x y, Inv t → P y t → P y (f t x)) :
    ∀ (l : List α) {s : σ}, Inv s → ∀ x, x ∈ l ∨ P x s → P x (l.foldl f s)
  | [], _, _, _, h => h.resolve_left List.not_mem_nil
  | y :: l, s, hs, x, h => by
    refine foldl_each hinv hset hkeep l (hinv s y hs) x ?_
    rcases h with hmem | hp
    · rcases List.mem_cons.mp hmem with rfl | hl
      · exact .inr (hset s x hs)
      · exact .inl hl
    · exact .inr (hkeep s y x hs hp)

theorem State.samplePhase_die {γ : Type} {g : DiePower → γ} (hg : ∀ x p n, g { x with phase := p, since := n } = g x) (s : State) (d e : Fin 40)
    (phase demand static : Nat) : g (s.samplePhase d phase demand static).power.dies[e] = g s.power.dies[e] := by
  refine ite_keeps (g := fun t : State => g t.power.dies[e]) rfl ?_
  rw [State.mapPower_die_keeps (fun x => hg x _ _)]
  exact ite_keeps (g := fun t : State => g t.power.dies[e]) rfl rfl

/-- The sampling of a phase keeps what the power state holds beside the dies and the phase tables. -/
theorem State.samplePhase_power {γ : Type} {g : Power → γ} (hg : ∀ p ds ph, g { p with dies := ds, phases := ph } = g p) (s : State) (d : Fin 40)
    (phase demand static : Nat) : g (s.samplePhase d phase demand static).power = g s.power := by
  refine ite_keeps (g := fun t : State => g t.power) rfl ?_
  have hdies : ∀ (t : State) f, g (t.mapPower d f).power = g t.power := fun t f => hg t.power _ t.power.phases
  rw [hdies]
  exact ite_keeps (g := fun t : State => g t.power) rfl (hg s.power s.power.dies _)

/-- The estimate of one die of the 40, with its phase (R424, R426, R427). -/
def State.estimateDie (phases : List Nat) (est dyn stat : List (BitVec 16)) (s : State) (d : Fin 40) : State :=
  (s.mapPower d (fun x =>
    { x with est := BitVec.ofNat 16 (min 0xFFFF (if s.power.untrust then x.scaled (est.getD d.val 0).toNat else (est.getD d.val 0).toNat)) })).samplePhase d
    (phases.getD d.val (commonest phases)) (dyn.getD d.val 0).toNat (stat.getD d.val 0).toNat

/-- The block after the estimates of all dies. -/
def State.estimated (s : State) (phases : List Nat) (est dyn stat : List (BitVec 16)) : State :=
  (List.finRange 40).foldl (State.estimateDie phases est dyn stat) s

/-- The estimates keep what the power state holds beside the dies and the phase tables. -/
theorem State.estimated_power {γ : Type} {g : Power → γ} (hg : ∀ p ds ph, g { p with dies := ds, phases := ph } = g p) (s : State)
    (phases : List Nat) (est dyn stat : List (BitVec 16)) : g (s.estimated phases est dyn stat).power = g s.power := by
  rw [State.estimated]
  exact foldl_keeps (fun t : State => g t.power) (State.estimateDie phases est dyn stat)
    (fun t d => (State.samplePhase_power hg _ d _ _ _).trans (hg t.power _ t.power.phases)) (List.finRange 40) s

/-- The accounts that an estimate leaves for the millisecond (R424), after what the replicas report (R435). -/
def Power.noted (p : Power) (slacks : List IslandSlack) : Power :=
  { slacks.foldl Power.keepSlack p with
    estSum := (slacks.foldl Power.keepSlack p).estSum + (slacks.foldl Power.keepSlack p).estimate
    estCount := (slacks.foldl Power.keepSlack p).estCount + 1 }

theorem exec_activityEstimate (est dyn stat : List (BitVec 16)) (slacks : List IslandSlack) {s : State} (hup : s.firmwareUp = true) :
    ∃ t, t = s.estimated ((List.range 32).map s.diePhase) est dyn stat ∧
      exec (.activityEstimate est dyn stat slacks) s = .next { t with power := t.power.noted slacks } := ⟨_, rfl, if_neg (by simp [hup])⟩

theorem activityEstimate_keepsSlack (x : IslandSlack) {s : State} (hup : s.firmwareUp = true) :
    ∃ s', exec (.activityEstimate [] [] [] [x]) s = .next s' ∧
      (tget s'.power.slack (0, 0) x.island).1 = min x.slackPs (tget s.power.slack (x.slackPs, 0) x.island).1 := by
  obtain ⟨t, ht, hstep⟩ := exec_activityEstimate [] [] [] [x] hup
  have hslack : t.power.slack = s.power.slack := ht ▸ State.estimated_power (g := Power.slack) (fun _ _ _ => rfl) s _ [] [] []
  refine ⟨_, hstep, ?_⟩
  show (tget (tset t.power.slack x.island (min x.slackPs (tget t.power.slack (x.slackPs, 0) x.island).1, x.ringMhz)) (0, 0) x.island).1 = _
  rw [tget_tset_same, hslack]

/-- Each die's estimate is the one reported, and its target stays. -/
theorem State.estimated_dies {s : State} (htrust : s.power.untrust = false) (phases : List Nat) (est dyn stat : List (BitVec 16))
    (d : Fin 40) : ((s.estimated phases est dyn stat).power.dies[d]).est = est.getD d.val 0 ∧
      ((s.estimated phases est dyn stat).power.dies[d]).mode = (s.power.dies[d]).mode := by
  have hset : ∀ (t : State) (x : Fin 40), t.power.untrust = false →
      ((State.estimateDie phases est dyn stat t x).power.dies[x]).est = est.getD x.val 0 := fun t x ht => by
    refine (State.samplePhase_die (g := DiePower.est) (fun _ _ _ => rfl) _ x x _ _ _).trans ?_
    rw [State.mapPower_die_same, ht]
    show BitVec.ofNat 16 (min 0xFFFF (est.getD x.val 0).toNat) = _
    rw [Nat.min_eq_right (by have := (est.getD x.val 0).isLt; omega), BitVec.ofNat_toNat, BitVec.setWidth_eq]
  rw [State.estimated]
  constructor
  · refine foldl_each (Inv := fun t : State => t.power.untrust = false)
      (P := fun (e : Fin 40) (t : State) => (t.power.dies[e]).est = est.getD e.val 0) (fun t x ht => ?_) hset (fun t x y ht hy => ?_)
      (List.finRange 40) htrust d (.inl (List.mem_finRange d))
    · exact (State.samplePhase_power (g := Power.untrust) (fun _ _ _ => rfl) _ x _ _ _).trans ht
    · by_cases hxy : y = x
      · rw [hxy]
        exact hset t x ht
      · refine (State.samplePhase_die (g := DiePower.est) (fun _ _ _ => rfl) _ x y _ _ _).trans ?_
        rw [State.mapPower_die_other _ _ hxy]
        exact hy
  · refine foldl_keeps (fun t : State => (t.power.dies[d]).mode) (State.estimateDie phases est dyn stat) (fun t x => ?_) (List.finRange 40) s
    refine (State.samplePhase_die (g := DiePower.mode) (fun _ _ _ => rfl) _ x d _ _ _).trans ?_
    refine State.mapPower_die_keeps (g := DiePower.mode) ?_ t x d
    exact fun _ => rfl

theorem activityEstimate_notes (est dyn stat : List (BitVec 16)) (slacks : List IslandSlack) {s : State} (hup : s.firmwareUp = true)
    (htrust : s.power.untrust = false) :
    ∃ s', exec (.activityEstimate est dyn stat slacks) s = .next s' ∧
      ∀ d : Fin 40, (s'.power.dies[d]).est = est.getD d.val 0 ∧ (s'.power.dies[d]).mode = (s.power.dies[d]).mode := by
  obtain ⟨t, ht, hstep⟩ := exec_activityEstimate est dyn stat slacks hup
  have hdies : (t.power.noted slacks).dies = t.power.dies := foldl_keeps Power.dies Power.keepSlack (fun _ _ => rfl) slacks t.power
  refine ⟨_, hstep, fun d => ?_⟩
  show ((t.power.noted slacks).dies[d]).est = _ ∧ ((t.power.noted slacks).dies[d]).mode = _
  rw [hdies, ht]
  exact State.estimated_dies htrust _ est dyn stat d

end Sys2Proof.Machine
end

section
/-! PROOFS. The inner and the outer loop, breaches, an untrusted estimator and fast trips (R425, R428 to R432). -/

namespace Sys2Proof.Machine

/-! ### The inner loop -/

/-- A target after one step of 25 MHz toward its share, or held (R428). -/
def DiePower.stepped (top : Nat) (x : DiePower) : DiePower :=
  { x with mode :=
      if 100 * x.est.toNat < 95 * x.budget.toNat then min top (min x.mode top + 25)
      else if x.budget.toNat < x.est.toNat then max 800 (min x.mode top - 25)
      else min x.mode top }

theorem exec_innerLoop {d : Fin 32} {s : State} (hup : s.firmwareUp = true) (hopp : s.opportunistic = true) (hfresh : s.power.stale = false) :
    exec (.innerLoop d) s = .next (s.mapPower (cdie d) (DiePower.stepped (s.oppCeiling d))) := if_neg (by simp [hup, hopp, hfresh])

theorem innerLoop_stale (d : Fin 32) {s : State} (h : s.power.stale = true) : exec (.innerLoop d) s = .next s := if_pos (by simp [h])

theorem innerLoop_raises {d : Fin 32} {s : State} (hup : s.firmwareUp = true) (hopp : s.opportunistic = true) (hfresh : s.power.stale = false)
    (hmode : (s.power.dies[cdie d]).mode ≤ s.oppCeiling d)
    (hlow : 100 * (s.power.dies[cdie d]).est.toNat < 95 * (s.power.dies[cdie d]).budget.toNat) :
    exec (.innerLoop d) s = .next (s.mapPower (cdie d) (fun x => { x with mode := min (s.oppCeiling d) (x.mode + 25) })) := by
  rw [exec_innerLoop hup hopp hfresh]
  refine congrArg Host.Outcome.next (s.mapPower_congr _ ?_)
  rw [DiePower.stepped, if_pos hlow, Nat.min_eq_left hmode]

theorem innerLoop_lowers {d : Fin 32} {s : State} (hup : s.firmwareUp = true) (hopp : s.opportunistic = true) (hfresh : s.power.stale = false)
    (hmode : (s.power.dies[cdie d]).mode ≤ s.oppCeiling d)
    (hfull : 95 * (s.power.dies[cdie d]).budget.toNat ≤ 100 * (s.power.dies[cdie d]).est.toNat)
    (hover : (s.power.dies[cdie d]).budget.toNat < (s.power.dies[cdie d]).est.toNat) :
    exec (.innerLoop d) s = .next (s.mapPower (cdie d) (fun x => { x with mode := max 800 (x.mode - 25) })) := by
  rw [exec_innerLoop hup hopp hfresh]
  refine congrArg Host.Outcome.next (s.mapPower_congr _ ?_)
  rw [DiePower.stepped, if_neg (Nat.not_lt.mpr hfull), if_pos hover, Nat.min_eq_left hmode]

/-! ### The outer loop -/

/-- The budgets change nothing but dies. -/
theorem State.spread_keeps {γ : Type} {g : State → γ} (hg : ∀ (s : State) ds, g { s with power := { s.power with dies := ds } } = g s) (s : State)
    (fixed : Nat) : g (s.spread fixed) = g s := by
  rw [State.spread]
  exact foldl_keeps g _ (fun t d => hg t _) _ s

/-- The block after the accounts of a millisecond and the budgets (R425). -/
def State.accounted (s : State) (fixed losses : Nat) : State := (Rules.withPower s (s.power.account losses)).spread fixed

theorem State.accounted_keeps {γ : Type} {g : State → γ} (hg : ∀ (s : State) ds, g { s with power := { s.power with dies := ds } } = g s) (s : State)
    (fixed losses : Nat) : g (s.accounted fixed losses) = g (Rules.withPower s (s.power.account losses)) := State.spread_keeps hg _ fixed

theorem State.accounted_opportunistic (s : State) (fixed losses : Nat) : (s.accounted fixed losses).opportunistic = s.opportunistic :=
  s.accounted_keeps (g := State.opportunistic) (fun _ _ => rfl) fixed losses

/-- The breaches that the outer loop acts on in fixed-frequency mode (R432). -/
def State.judged (s : State) : State :=
  if (if 10 ≤ s.power.overRun then s.breach 1 else s).opportunistic then if 10 ≤ s.power.overRun then s.breach 1 else s
  else if (if 10 ≤ s.power.overRun then s.breach 1 else s).capBreach then (if 10 ≤ s.power.overRun then s.breach 1 else s).breach 0
  else if 10 ≤ s.power.overRun then s.breach 1 else s

theorem exec_outerLoop (fixed losses : BitVec 16) {s : State} (hup : s.firmwareUp = true) :
    exec (.outerLoop fixed losses) s = .next (if (s.accounted fixed.toNat losses.toNat).opportunistic then s.accounted fixed.toNat losses.toNat
      else (s.accounted fixed.toNat losses.toNat).judged) := by
  refine (if_neg (by simp [hup])).trans ?_
  show (if (s.accounted fixed.toNat losses.toNat).opportunistic then Host.Outcome.next (s.accounted fixed.toNat losses.toNat)
    else .next (s.accounted fixed.toNat losses.toNat).judged) = _
  split_ifs <;> rfl

theorem outerLoop_spreads (fixed losses : BitVec 16) {s : State} (hup : s.firmwareUp = true) (hopp : s.opportunistic = true) :
    exec (.outerLoop fixed losses) s = .next ((Rules.withPower s (s.power.account losses.toNat)).spread fixed.toNat) := by
  rw [exec_outerLoop fixed losses hup, State.accounted_opportunistic, if_pos hopp]
  rfl

/-- The power state after a breach (R432). -/
def Power.breached (p : Power) (cause : BitVec 2) (now : Nat) : Power :=
  { p with
    cause := cause, breachcnt := Rules.saturating p.breachcnt, breachAt := some now
    overRun := 0, trips := if cause = 2 then [] else p.trips, event := p.event ||| BitVec.ofNat 9 (2 ^ 2)
    fallback := if p.fixnow = 0 then true else p.fallback, fixnow := if p.fixnow = 0 then p.fixnow else p.fixnow - 1 }

theorem State.breach_power (s : State) (cause : BitVec 2) :
    (s.breach cause).power = s.power.breached cause s.now ∧ Rules.counted s (s.breach cause) 1 := by
  unfold State.breach Power.breached
  by_cases hlow : s.power.fixnow = 0
  · simp only [if_pos hlow]
    obtain ⟨hpower, -, hcount⟩ := powerEvent_deferred 0x0603 [cause.setWidth 32] (((_ : State).safetyAction .clock).powerBit 2)
    exact ⟨hpower, hcount⟩
  · simp only [if_neg hlow]
    obtain ⟨hpower, -, hcount⟩ := powerEvent_deferred 0x0603 [cause.setWidth 32] (((_ : State).safetyAction .clock).powerBit 2)
    exact ⟨hpower, hcount⟩

theorem State.breach_active (s : State) (cause : BitVec 2) : (s.breach cause).active = s.active := by
  unfold State.breach
  extract_lets p p' p''
  exact (State.logs_log _ (.inr (show (1 : BitVec 2).toNat < 2 by decide))).same (g := State.active) (fun _ _ _ _ _ _ _ => rfl)

/-- A breach keeps what the power state holds beside its own items. -/
theorem State.breach_keeps {γ : Type} {g : Power → γ}
    (hg : ∀ (p : Power) c n b o t e f x, g { p with cause := c, breachcnt := n, breachAt := b, overRun := o, trips := t, event := e, fallback := f, fixnow := x } = g p)
    (s : State) (cause : BitVec 2) : g (s.breach cause).power = g s.power := by
  rw [(s.breach_power cause).1]
  exact hg s.power _ _ _ _ _ _ _ _

theorem State.judged_keeps {γ : Type} {g : Power → γ}
    (hg : ∀ (p : Power) c n b o t e f x, g { p with cause := c, breachcnt := n, breachAt := b, overRun := o, trips := t, event := e, fallback := f, fixnow := x } = g p)
    (s : State) : g s.judged.power = g s.power := by
  have hover : g (if 10 ≤ s.power.overRun then s.breach 1 else s).power = g s.power :=
    ite_keeps (g := fun t : State => g t.power) (State.breach_keeps hg s 1) rfl
  unfold State.judged
  exact ite_keeps (g := fun t : State => g t.power) hover
    (ite_keeps (g := fun t : State => g t.power) ((State.breach_keeps hg _ 0).trans hover) hover)

theorem Power.far_iff (m e : Nat) : 15 * m < 100 * ((e - m) + (m - e)) ↔ 15 * m < 100 * ((e : Int) - m).natAbs := by omega

theorem outerLoop_compares (fixed losses : BitVec 16) {s : State} (hup : s.firmwareUp = true) (htrust : s.power.untrust = false)
    (hsettled : s.power.calibrate = none) (hsampled : s.power.sampled = true) :
    ∃ s', exec (.outerLoop fixed losses) s = .next s' ∧ s'.power.sampled = false ∧ s'.power.diverged =
      if 15 * s.power.sample.toNat < 100 * ((Rules.estimated s losses.toNat : Int) - s.power.sample.toNat).natAbs then s.power.diverged + 1
      else 0 := by
  refine ⟨_, exec_outerLoop fixed losses hup, ?_⟩
  have hkeeps : ∀ {γ : Type} (g : Power → γ) (hg : ∀ (p : Power) c n b o t e f x, g { p with
      cause := c, breachcnt := n, breachAt := b, overRun := o, trips := t, event := e, fallback := f, fixnow := x } = g p)
      (hd : ∀ (p : Power) ds, g { p with dies := ds } = g p),
      g (if (s.accounted fixed.toNat losses.toNat).opportunistic then s.accounted fixed.toNat losses.toNat
        else (s.accounted fixed.toNat losses.toNat).judged).power = g (s.power.account losses.toNat) := fun g hg hd =>
    (ite_keeps (g := fun t : State => g t.power) (a := s.accounted fixed.toNat losses.toNat) rfl (State.judged_keeps hg _)).trans
      (s.accounted_keeps (g := fun t : State => g t.power) (fun t ds => hd t.power ds) fixed.toNat losses.toNat)
  rw [hkeeps Power.sampled (fun _ _ _ _ _ _ _ _ _ => rfl) (fun _ _ => rfl), hkeeps Power.diverged (fun _ _ _ _ _ _ _ _ _ => rfl) (fun _ _ => rfl)]
  refine ⟨rfl, ?_⟩
  show (if s.power.untrust || s.power.calibrate.isSome then 0 else if !s.power.sampled then s.power.diverged
    else if decide (15 * s.power.sample.toNat < 100 * ((Rules.estimated s losses.toNat - s.power.sample.toNat) +
      (s.power.sample.toNat - Rules.estimated s losses.toNat))) then s.power.diverged + 1 else 0) = _
  rw [htrust, hsettled, hsampled]
  simp only [Bool.not_true, Bool.false_eq_true, Option.isSome_none, Bool.or_false, if_false, decide_eq_true_eq, Power.far_iff]

theorem outerLoop_breach (fixed : BitVec 16) {s : State} (hup : s.firmwareUp = true) (hfresh : s.power.stale = false)
    (hfixed : s.opportunistic = false) (hover : 10 ≤ s.power.overRun) (hfix : s.power.fixnow ≠ 0)
    (hfew : s.power.samples.length < 1000) :
    ∃ s', exec (.outerLoop fixed) s = .next s' ∧ s'.power.fixnow = s.power.fixnow - 1 ∧ s'.power.cause = 1 ∧
      s'.power.event.getLsbD 2 = true ∧ s'.power.breachcnt = Rules.saturating s.power.breachcnt ∧ Rules.counted s s' 1 := by
  have hdies : ∀ {γ : Type} (g : Power → γ), (∀ (p : Power) ds, g { p with dies := ds } = g p) →
      g (s.accounted fixed.toNat 0).power = g (s.power.account 0) := fun g hg =>
    s.accounted_keeps (g := fun t : State => g t.power) (fun t ds => hg t.power ds) fixed.toNat 0
  have hrun : (s.accounted fixed.toNat 0).power.overRun = s.power.overRun := hdies Power.overRun fun _ _ => rfl
  have hpoint : (s.accounted fixed.toNat 0).power.fixnow = s.power.fixnow := hdies Power.fixnow fun _ _ => rfl
  have hcnt : (s.accounted fixed.toNat 0).power.breachcnt = s.power.breachcnt := hdies Power.breachcnt fun _ _ => rfl
  have hsamples : (s.accounted fixed.toNat 0).power.samples = s.power.samples :=
    (hdies Power.samples fun _ _ => rfl).trans (if_neg (by simp [hfresh]))
  have herrs : (s.accounted fixed.toNat 0).errs = s.errs := s.accounted_keeps (g := State.errs) (fun _ _ => rfl) fixed.toNat 0
  have hmode := (s.accounted_opportunistic fixed.toNat 0).trans hfixed
  have hstep := exec_outerLoop fixed 0 hup
  change _ = Host.Outcome.next (if (s.accounted fixed.toNat 0).opportunistic then s.accounted fixed.toNat 0
    else (s.accounted fixed.toNat 0).judged) at hstep
  generalize s.accounted fixed.toNat 0 = t at *
  obtain ⟨hpower, hcount⟩ := t.breach_power 1
  have hsame : (t.breach 1).opportunistic = false := by
    rw [State.opportunistic, t.breach_active, hpower]
    show (t.active.clkplan.getLsbD 31 || if t.power.fixnow = 0 then true else t.power.fallback) = false
    rw [if_neg (by rw [hpoint]; exact hfix)]
    exact hmode
  have hmore : (t.breach 1).capBreach = false := by
    have hheld : (t.breach 1).power.samples.length < 1000 := by rw [hpower]; exact hsamples ▸ hfew
    rw [State.capBreach, decide_eq_false (Nat.not_le.mpr hheld), Bool.false_and, Bool.false_and]
  have hjudged : t.judged = t.breach 1 := by
    rw [State.judged, if_pos (show 10 ≤ t.power.overRun by rw [hrun]; exact hover), if_neg (by rw [hsame]; exact nofun),
      if_neg (by rw [hmore]; exact nofun)]
  refine ⟨t.breach 1, ?_, ?_⟩
  · rw [hstep, if_neg (by simp [hmode]), hjudged]
  · rw [hpower]
    refine ⟨?_, rfl, ?_, ?_, ?_⟩
    · exact (if_neg (by rw [hpoint]; exact hfix)).trans (by rw [hpoint])
    · exact State.powerBit_set t (k := 2) (by decide)
    · exact congrArg Rules.saturating hcnt
    · rw [Rules.counted, hcount, herrs]

/-! ### The estimator and the fast trip -/

theorem estDiverge_untrusts {s : State} (hup : s.firmwareUp = true) (htrust : s.power.untrust = false) (hsettled : s.power.calibrate = none)
    (hfar : 100 < s.power.diverged) :
    ∃ s', exec .estDiverge s = .next s' ∧ s'.power.untrust = true ∧ Rules.counted s s' 0 := by
  obtain ⟨hpower, -, hcount⟩ := powerEvent_corrected 0x0601 [] (State.powerBit { s with power := { s.power with untrust := true } } 3)
  refine ⟨_, if_neg (by simp [hup, htrust, hsettled, hfar]), ?_, hcount⟩
  exact congrArg Power.untrust hpower

theorem calibrationEnd_ends {t : Nat} {s : State} (h : s.power.calibrate = some t) :
    exec .calibrationEnd s = .next (Rules.withPower (Rules.upTo s t) { s.power with calibrate := none }) := by
  show execCalibrationEnd s = _
  rw [execCalibrationEnd, h]
  rfl

/-- The block after a fast trip, before its record (R431). -/
def State.tripped (s : State) : State :=
  { s with power := { s.power with
      trip := true, tripAt := s.now, tripcnt := Rules.saturating s.power.tripcnt
      trips := (s.now :: s.power.trips).filter (fun t => decide (s.now < t + 10 ^ 9)) } }

theorem iccTrip_halves {s : State} (h : s.power.trips = []) :
    ∃ s', exec .iccTrip s = .next s' ∧ s'.power.trip = true ∧ s'.power.tripAt = s.now ∧ s'.power.tripcnt = Rules.saturating s.power.tripcnt ∧
      s'.power.fixnow = s.power.fixnow ∧ Rules.counted s s' 0 := by
  have hfew : ((s.now :: s.power.trips).filter (fun t => decide (s.now < t + 10 ^ 9))).length < 3 := by
    refine Nat.lt_of_le_of_lt (List.length_filter_le _ _) ?_
    rw [h]
    exact (show 1 < 3 by decide)
  have hstep : exec .iccTrip s = .next (s.tripped.log (powerEvent 0 0x0604 [])) := if_pos hfew
  obtain ⟨hpower, -, hcount⟩ := powerEvent_corrected 0x0604 [] s.tripped
  refine ⟨_, hstep, ?_⟩
  rw [hpower]
  exact ⟨rfl, rfl, rfl, rfl, hcount⟩

theorem tripLift_lifts {s : State} (hup : s.firmwareUp = true) (htrip : s.power.trip = true) (hlow : s.power.iin.toNat < 4000) :
    ∃ s', exec .tripLift s = .next s' ∧ s'.power.trip = false ∧ s'.now = max s.now (s.power.tripAt + 100000) ∧
      ∀ d : Fin 32, (s'.power.dies[cdie d]).clock =
        (if (s.power.dies[cdie d]).halvedAt.isSome then (s.power.dies[cdie d]).clock else (s.power.dies[cdie d]).clock / 2) := by
  refine ⟨_, if_neg (by simp [hup, htrip, hlow]), rfl, rfl, fun d => ?_⟩
  have hdie : ∀ f : Fin 40 → DiePower, ((Vector.ofFn f)[cdie d]).clock = (f (cdie d)).clock := fun f =>
    congrArg DiePower.clock (Vector.getElem_ofFn _)
  refine (hdie _).trans ?_
  by_cases hhalved : (s.power.dies[cdie d]).halvedAt.isSome = true
  · rw [if_pos hhalved]
    exact congrArg DiePower.clock (if_neg fun h => by simp [Option.isSome_iff_ne_none] at hhalved h; exact hhalved h.2)
  · rw [if_neg hhalved]
    exact congrArg DiePower.clock (if_pos ⟨d.isLt, by simpa using hhalved⟩)

end Sys2Proof.Machine
end

section
/-! PROOFS. Thermal protection and glides (R419, R433, R434, Table 14-7). -/

namespace Sys2Proof.Machine

/-! ### Samples of the junction temperature -/

/-- A die after a sample, once its throttle has acted (Table 14-7). -/
def DiePower.heated (since hotSince : Option Nat) (tj : Byte) (d : Fin 40) (trip : Bool) (x : DiePower) : DiePower :=
  { (if x.halvedAt.isSome ∧ since.isNone ∧ d.val < 32 ∧ trip = false then x.unhalve else x) with
    tj := tj, halvedAt := since, hotSince := hotSince }

theorem DiePower.heated_keeps (since hotSince : Option Nat) (tj : Byte) (d : Fin 40) (trip : Bool) (x : DiePower) :
    (x.heated since hotSince tj d trip).throttling = x.throttling ∧ (x.heated since hotSince tj d trip).thermal = x.thermal := by
  unfold DiePower.heated
  split_ifs <;> exact ⟨rfl, rfl⟩

/-- A die that does not throttle stays as it is below 100 °C. -/
theorem State.throttled_cool {s : State} {d : Fin 40} {t : Nat} (ht : t < 97) (hthrottle : (s.power.dies[d]).throttling = false) :
    s.throttled d t = s := by
  have hdown : decide (100 ≤ t) = false := decide_eq_false (by omega)
  rw [State.throttled]
  refine if_neg ?_
  rw [hdown, hthrottle, Bool.and_false]
  simp

/-- Below 97 °C a die that does not throttle takes its new temperature alone, and its halving ends. -/
theorem exec_tjSample_cool {d : Fin 40} {tj : Byte} {s : State} (ht : tj.toNat < 97) (hthrottle : (s.power.dies[d]).throttling = false) :
    exec (.tjSample d tj) s = .next (s.mapPower d (DiePower.heated none none tj d s.power.trip)) := by
  have hhot : decide (105 ≤ tj.toNat) = false := decide_eq_false (by omega)
  show execTjSample d tj s = _
  simp only [execTjSample, hhot, State.throttled_cool ht hthrottle, Bool.false_eq_true, if_false, false_and,
    if_pos (show tj.toNat < 100 by omega), if_neg (show ¬(100 ≤ tj.toNat ∧ (!(s.power.dies[d]).throttling) = true) from fun h => by omega),
    or_false, if_neg (show ¬ 110 ≤ tj.toNat by omega)]
  rfl

theorem tjSample_cools (d : Fin 32) {tj : Byte} {s : State} (ht : tj.toNat < 97) (hthrottle : (s.power.dies[cdie d]).throttling = false)
    (hhalved : (s.power.dies[cdie d]).halvedAt.isSome = true) (htrip : s.power.trip = false) :
    exec (.tjSample (cdie d) tj) s = .next (s.mapPower (cdie d) (fun x =>
      { x with tj := tj, halvedAt := none, hotSince := none, clock := x.clock / 2 })) := by
  rw [exec_tjSample_cool ht hthrottle]
  refine congrArg Host.Outcome.next (s.mapPower_congr _ ?_)
  rw [DiePower.heated, if_pos ⟨hhalved, rfl, d.isLt, htrip⟩]
  rfl

theorem tjSample_rests {d : Fin 40} {tj : Byte} {s : State} (ht : tj.toNat < 97) (hthrottle : (s.power.dies[d]).throttling = false)
    (hwhole : (s.power.dies[d]).halvedAt = none) :
    exec (.tjSample d tj) s = .next (s.mapPower d (fun x => { x with tj := tj, halvedAt := none, hotSince := none })) := by
  rw [exec_tjSample_cool ht hthrottle]
  refine congrArg Host.Outcome.next (s.mapPower_congr _ ?_)
  rw [DiePower.heated, if_neg (by rw [hwhole]; exact fun h => Bool.false_ne_true h.1)]

/-! ### Throttling -/

theorem throttledBy_cdie (d : Fin 32) : throttledBy (cdie d) = [d] := by
  rw [throttledBy, if_pos (show (cdie d).val < 32 from d.isLt)]
  exact congrArg (fun e => [e]) (Fin.ofNat_val_eq_self d)

/-- The least that a die at 100 °C may aim at: one step below its target, and 800 MHz (Table 14-7). -/
def State.throttleTo (s : State) (d : Fin 32) : Nat :=
  max 800 (min (s.modeTarget d) ((s.power.dies[cdie d]).thermal.getD (s.modeTarget d)) - 25)

/-- A C-die that begins to throttle takes one step down at once. -/
theorem State.throttled_begins {s : State} {d : Fin 32} {t : Nat} (ht : 100 ≤ t) (hthrottle : (s.power.dies[cdie d]).throttling = false) :
    s.throttled (cdie d) t = (s.mapPower (cdie d) (fun x => { x with thermal := some (s.throttleTo d) })).mapPower (cdie d)
      (fun x => { x with throttling := true, throttleAt := s.now }) := by
  have hdown : decide (100 ≤ t) = true := decide_eq_true ht
  have hstep : s.throttle (cdie d) true = s.mapPower (cdie d) (fun x => { x with thermal := some (s.throttleTo d) }) := by
    rw [State.throttle, throttledBy_cdie]
    rw [List.foldl_cons, List.foldl_nil]
    refine State.mapPower_congr s (cdie d) ?_
    exact if_pos d.isLt
  rw [State.throttled]
  refine (if_pos (by rw [hdown, hthrottle]; rfl)).trans ?_
  rw [hdown, hstep]
  rfl

theorem State.thermalEvent_low {sev : BitVec 2} (hlow : sev.toNat < 2) (s : State) (cause : BitVec 16) (d : Fin 40) (tj : Byte) :
    (s.log (thermalEvent sev cause d tj)).power = s.power ∧ (s.log (thermalEvent sev cause d tj)).active = s.active ∧
      Rules.counted s (s.log (thermalEvent sev cause d tj)) (severityCount sev) :=
  ⟨(State.log_low rfl rfl hlow s).1, (s.logs_log (.inr hlow)).same (g := State.active) (fun _ _ _ _ _ _ _ => rfl), (State.log_low rfl rfl hlow s).2.2⟩

/-- What a C-die aims at is no more than its thermal target. -/
theorem State.target_le_thermal (s : State) (d : Fin 32) {v : Nat} (h : (s.power.dies[cdie d]).thermal = some v) : s.target d ≤ v := by
  have hbound : min (s.modeTarget d) (s.thermalTarget d) ≤ v := by
    rw [State.thermalTarget, h]
    exact (Nat.min_le_right _ _).trans (Nat.min_le_left _ _)
  exact either_branch (P := fun n => n ≤ v) ((Nat.min_le_left _ _).trans hbound) hbound

/-- The block after a C-die has begun to throttle, before its record. -/
def State.throttling (s : State) (d : Fin 32) (tj : Byte) : State :=
  ((s.throttled (cdie d) tj.toNat).mapPower (cdie d) (DiePower.heated (s.power.dies[cdie d]).halvedAt none tj (cdie d) s.power.trip)).powerBit 5

theorem exec_tjSample_throttles {d : Fin 32} {tj : Byte} {s : State} (hlow : 100 ≤ tj.toNat) (hhigh : tj.toNat < 105)
    (hthrottle : (s.power.dies[cdie d]).throttling = false) :
    exec (.tjSample (cdie d) tj) s = .next ((s.throttling d tj).log (thermalEvent 0 0x0605 (cdie d) tj)) := by
  have hhot : decide (105 ≤ tj.toNat) = false := decide_eq_false (by omega)
  show execTjSample (cdie d) tj s = _
  simp only [execTjSample, hhot, Bool.false_eq_true, if_false, false_and, if_neg (show ¬ tj.toNat < 100 by omega), hthrottle,
    if_pos (show 100 ≤ tj.toNat ∧ (!false) = true from ⟨hlow, rfl⟩), or_false, if_neg (show ¬ 110 ≤ tj.toNat by omega)]
  rfl

theorem tjSample_throttles (d : Fin 32) {tj : Byte} {s : State} (hlow : 100 ≤ tj.toNat) (hhigh : tj.toNat < 105)
    (hthrottle : (s.power.dies[cdie d]).throttling = false) :
    ∃ s', exec (.tjSample (cdie d) tj) s = .next s' ∧ (s'.power.dies[cdie d]).throttling = true ∧
      (s'.power.dies[cdie d]).thermal =
        some (max 800 (min (s.modeTarget d) ((s.power.dies[cdie d]).thermal.getD (s.modeTarget d)) - 25)) ∧
      s'.target d ≤ max 800 (s.modeTarget d - 25) ∧ Rules.counted s s' 0 := by
  obtain ⟨hpower, -, hcount⟩ := State.thermalEvent_low (show (0 : BitVec 2).toNat < 2 by decide) (s.throttling d tj) 0x0605 (cdie d) tj
  have hdie : ((s.throttling d tj).power.dies[cdie d]).throttling = true ∧
      ((s.throttling d tj).power.dies[cdie d]).thermal = some (s.throttleTo d) := by
    show ((State.mapPower _ (cdie d) _).power.dies[cdie d]).throttling = true ∧ ((State.mapPower _ (cdie d) _).power.dies[cdie d]).thermal = _
    rw [State.mapPower_die_same, (DiePower.heated_keeps _ _ _ _ _ _).1, (DiePower.heated_keeps _ _ _ _ _ _).2,
      State.throttled_begins hlow hthrottle, State.mapPower_die_same, State.mapPower_die_same]
    exact ⟨rfl, rfl⟩
  obtain ⟨hon, hthermal⟩ := hdie
  have herrs : (s.throttling d tj).errs = s.errs := by
    rw [State.throttling, State.throttled_begins hlow hthrottle]
    rfl
  rw [← hpower] at hon hthermal
  refine ⟨_, exec_tjSample_throttles hlow hhigh hthrottle, hon, hthermal, ?_, ?_⟩
  · refine (State.target_le_thermal _ d hthermal).trans ?_
    rw [State.throttleTo]
    omega
  · rw [Rules.counted, ← herrs]
    exact hcount

/-! ### Shutdown -/

/-- A record of the module counts in its severity, and one of severity 0 perhaps as the record of its rate too (R476, R516). -/
theorem State.log_counts {x : Event} (hrecord : x.notice = false) (hcore : x.core = none) (s : State) :
    (s.log x).errs.counts = (s.tally x.sev).errs.counts ∨ x.sev = 0 ∧ (s.log x).errs.counts = ((s.tally x.sev).tally 1).errs.counts := by
  unfold State.log
  rw [if_neg (Bool.eq_false_iff.mp hrecord)]
  extract_lets s₁ merged w errs₁ s₂ errs₂ s₃ y s₄
  have h₃ : s₃.errs.counts = s₁.errs.counts := by
    refine ite_keeps (g := fun t : State => t.errs.counts) (a := s₂) rfl
      (ite_keeps (g := fun t : State => t.errs.counts) (a := s₂) ?_ rfl)
    rw [State.noteFatal_errs, State.logPut_counts]
  rw [State.coreCandidate_of_no_core _ hcore, ite_self, State.counts_unfaulted.severity]
  by_cases hsev : x.sev = 0
  · by_cases hrate : w.2.2 = true
    · have h₄ : s₄ = ((s₃.tally 1).logPut y).coreCandidate y := if_pos hrate
      right
      rw [h₄, State.coreCandidate_of_no_core _ (x := y) hcore, State.logPut_counts]
      refine ⟨hsev, ?_⟩
      show (s₃.errs.counts.set _ _) = _
      rw [h₃]
      rfl
    · have h₄ : s₄ = s₃ := if_neg hrate
      left
      rw [h₄, h₃]
  · have hrate : w.2.2 = false := by
      show (if x.sev = 0 then _ else _ : _ × _ × _).2.2 = false
      rw [if_neg hsev]
    have h₄ : s₄ = s₃ := if_neg (by rw [hrate]; exact nofun)
    left
    rw [h₄, h₃]

/-- A record below severity 2 is not counted as fatal. -/
theorem State.log_counts_low {x : Event} (hrecord : x.notice = false) (hcore : x.core = none) (hlow : x.sev.toNat < 2) (s : State) :
    (s.log x).errs.counts[(3 : Fin 4)] = s.errs.counts[(3 : Fin 4)] := by
  have hother : severityCount x.sev ≠ 3 := fun h => by
    have hval := congrArg Fin.val h
    rw [severityCount, Fin.val_ofNat] at hval
    omega
  have hone : severityCount 1 ≠ 3 := by decide
  rcases State.log_counts hrecord hcore s with h | ⟨-, h⟩
  · rw [h, State.tally_counts_other s hother]
  · rw [h, State.tally_counts_other _ hone, State.tally_counts_other s hother]

/-- What says that the module stands still: the shutdown and THERMTRIP_N (R433). -/
def State.standstill (s : State) : Bool × Bool := (s.power.shutdown, s.board.thermtripN)

theorem State.standstill_unrecorded : Unrecorded State.standstill where
  errs _ _ := rfl
  host _ _ := rfl
  switch _ _ := rfl
  events _ _ _ _ := rfl
  box s src b := by cases src <;> rfl
  job _ _ _ := rfl

theorem State.log_standstill (s : State) (x : Event) : (s.log x).standstill = s.standstill :=
  State.standstill_unrecorded.log_of_cores (fun _ _ => rfl) (fun _ _ _ => rfl) s x

/-- Held cores are cores alone. -/
theorem State.holdAll_keeps {γ : Type} {g : State → γ} (hg : ∀ (t : State) (id : CoreId) (c : Core), g (t.setCore id c) = g t) (l : List (Fin 8))
    (s : State) : g (l.foldl State.holdCores s) = g s :=
  foldl_keeps g State.holdCores (fun t j => by
    rw [State.holdCores]
    exact foldl_keeps g _ (fun u x => hg u _ _) _ t) l s

theorem State.thermalEvent_fatal (s : State) (d : Fin 40) (tj : Byte) :
    (s.log (thermalEvent 3 0x0607 d tj)).errs.counts[(3 : Fin 4)] = s.errs.counts[(3 : Fin 4)] + 1 := by
  rcases State.log_counts (x := thermalEvent 3 0x0607 d tj) rfl rfl s with h | ⟨hsev, -⟩
  · rw [h]
    exact State.tally_counts_same s 3
  · exact absurd hsev (show (3 : BitVec 2) ≠ 0 by decide)

/-- The block with its clocks stopped, before the record of it. -/
def State.shutDown (s : State) : State := { s with power := { s.power with shutdown := true }, board := { s.board with thermtripN := false } }

theorem State.thermalShutdown_eq {s : State} (h : s.power.shutdown = false) (d : Fin 40) (tj : Byte) :
    ∃ l : List (Fin 8), s.thermalShutdown d tj = (l.foldl State.holdCores s.shutDown).log (thermalEvent 3 0x0607 d tj) :=
  ⟨List.finRange 8, if_neg (by rw [h]; exact nofun)⟩

/-- A thermal shutdown is recorded as fatal (R433). -/
theorem State.thermalShutdown_stops {s : State} (h : s.power.shutdown = false) (d : Fin 40) (tj : Byte) :
    (s.thermalShutdown d tj).standstill = (true, false) ∧
      (s.thermalShutdown d tj).errs.counts[(3 : Fin 4)] = s.errs.counts[(3 : Fin 4)] + 1 := by
  obtain ⟨l, hl⟩ := State.thermalShutdown_eq h d tj
  have hstop := State.holdAll_keeps (g := State.standstill) (fun _ _ _ => rfl) l s.shutDown
  have herrs := State.holdAll_keeps (g := State.errs) (fun _ _ _ => rfl) l s.shutDown
  rw [hl, State.log_standstill, hstop, State.thermalEvent_fatal, herrs]
  exact ⟨rfl, rfl⟩

/-- What the records of a sample and its throttle leave alone. -/
theorem State.throttled_keeps {γ : Type} {g : State → γ} (hg : ∀ (s : State) ds, g { s with power := { s.power with dies := ds } } = g s) (s : State)
    (d : Fin 40) (t : Nat) : g (s.throttled d t) = g s := by
  have hthrottle : ∀ down, g (s.throttle d down) = g s := fun down => by
    rw [State.throttle]
    exact foldl_keeps g _ (fun t c => hg t _) _ s
  unfold State.throttled
  extract_lets x due down up t₁ held
  exact ite_keeps ((hg t₁ _).trans (hthrottle down)) rfl

/-- A low record of a die's temperature, where there is one, counts in no fatal severity and stops nothing. -/
theorem State.thermal_recorded {c : Prop} [Decidable c] {sev : BitVec 2} (hlow : sev.toNat < 2) (s : State) (k : Nat) (cause : BitVec 16) (d : Fin 40)
    (tj : Byte) : (if c then (s.powerBit k).log (thermalEvent sev cause d tj) else s).errs.counts[(3 : Fin 4)] = s.errs.counts[(3 : Fin 4)] ∧
      (if c then (s.powerBit k).log (thermalEvent sev cause d tj) else s).standstill = s.standstill :=
  either_branch (P := fun t : State => t.errs.counts[(3 : Fin 4)] = s.errs.counts[(3 : Fin 4)] ∧ t.standstill = s.standstill)
    ⟨State.log_counts_low rfl rfl hlow (s.powerBit k), (s.powerBit k).log_standstill _⟩ ⟨rfl, rfl⟩

theorem tjSample_shutsDown (d : Fin 40) {tj : Byte} {s : State} (hhot : 110 ≤ tj.toNat) (hruns : s.power.shutdown = false) :
    ∃ s', exec (.tjSample d tj) s = .next s' ∧ s'.power.shutdown = true ∧ s'.board.thermtripN = false ∧ Rules.counted s s' 3 := by
  show ∃ s', execTjSample d tj s = .next s' ∧ _
  unfold execTjSample
  extract_lets t x hot since hotSince s₁ s₂ s₃ long
  have hfirst : s₁.errs = s.errs ∧ s₁.standstill = s.standstill :=
    ⟨s.throttled_keeps (g := State.errs) (fun _ _ => rfl) d t, s.throttled_keeps (g := State.standstill) (fun _ _ => rfl) d t⟩
  obtain ⟨hcount₂, hstop₂⟩ := State.thermal_recorded (c := 100 ≤ t ∧ !x.throttling) (show (0 : BitVec 2).toNat < 2 by decide) s₁ 5 0x0605 d tj
  obtain ⟨hcount₃, hstop₃⟩ := State.thermal_recorded (c := hot ∧ x.halvedAt.isNone) (show (1 : BitVec 2).toNat < 2 by decide) s₂ 6 0x0606 d tj
  have hstop : s₃.standstill = s.standstill := hstop₃.trans (hstop₂.trans hfirst.2)
  have hcount : s₃.errs.counts[(3 : Fin 4)] = s.errs.counts[(3 : Fin 4)] := by rw [hcount₃, hcount₂, hfirst.1]
  obtain ⟨hend, hfatal⟩ := State.thermalShutdown_stops ((congrArg Prod.fst hstop).trans hruns) d tj
  refine ⟨_, congrArg Host.Outcome.next (if_pos (.inl hhot)), congrArg Prod.fst hend, congrArg Prod.snd hend, ?_⟩
  rw [Rules.counted, hfatal, hcount]

/-! ### The temperature of external memory -/

theorem hbmTempReport_hot {stack : Fin 16} {t : Byte} {s : State} (hhot : 95 ≤ t.toNat) (hnew : nhas s.power.hbmHot stack.val = false) :
    ∃ s', exec (.hbmTempReport stack t) s = .next s' ∧ nhas s'.power.hbmHot stack.val = true ∧ s'.power.hbmTemp[stack] = t ∧
      Rules.counted s s' 0 := by
  refine ⟨_, if_pos ⟨hhot, by rw [hnew]; rfl⟩, ?_⟩
  obtain ⟨hpower, -, hcount⟩ := State.log_low
    (x := { mpEvent 0 0x0206 [t.setWidth 32] with die := 32 + stack.val / 2, unit := 10, pos := stack.val }) rfl rfl
    (show (0 : BitVec 2).toNat < 2 by decide) (State.powerBit { s with power := { s.power with
      hbmTemp := s.power.hbmTemp.set stack t, hbmHot := nins s.power.hbmHot stack.val } } 7)
  refine ⟨?_, ?_, hcount⟩
  · exact (congrArg (fun p : Power => nhas p.hbmHot stack.val) hpower).trans ((nhas_nins _ _ _).trans (by simp))
  · exact (congrArg (fun p : Power => p.hbmTemp[stack]) hpower).trans (Vector.getElem_set_self _)

theorem hbmTempReport_cool (stack : Fin 16) {t : Byte} (s : State) (h : t.toNat < 92) :
    exec (.hbmTempReport stack t) s = .next (Rules.withPower s
      { s.power with hbmTemp := s.power.hbmTemp.set stack t, hbmHot := ndel s.power.hbmHot stack.val }) :=
  (if_neg (fun hhot => by omega)).trans (if_pos h)

/-! ### Glides -/

/-- A C-die's rail and clock after one step of its glide (R419). -/
def DiePower.glided (target need : Nat) (x : DiePower) : DiePower :=
  if target < x.clock then { x with clock := max target (x.clock - 25) }
  else if x.clock < target ∧ need ≤ x.rail then { x with clock := min target (x.clock + 25) }
  else { x with rail := slew x.rail need }

theorem exec_freqGlideStep {d : Fin 32} {s : State} (h : (s.power.dies[cdie d]).clock ≠ s.target d) :
    exec (.freqGlideStep d) s = .next ((Rules.upTo s (s.now + 1000)).mapPower (cdie d)
      (DiePower.glided (s.target d) (s.power.railNeed d.val (s.target d)))) := if_neg (fun hend => h hend.1)

theorem freqGlideStep_raisesRail {d : Fin 32} {s : State} (hup : (s.power.dies[cdie d]).clock < s.target d)
    (hlow : (s.power.dies[cdie d]).rail < s.power.railNeed d.val (s.target d)) :
    exec (.freqGlideStep d) s = .next ((Rules.upTo s (s.now + 1000)).mapPower (cdie d) (fun x =>
      { x with rail := min (s.power.railNeed d.val (s.target d)) (x.rail + 20) })) := by
  rw [exec_freqGlideStep (Nat.ne_of_lt hup)]
  refine congrArg Host.Outcome.next (State.mapPower_congr _ _ ?_)
  show DiePower.glided _ _ s.power.dies[cdie d] = _
  rw [DiePower.glided, if_neg (Nat.lt_asymm hup), if_neg (fun h => Nat.not_le.mpr hlow h.2), slew, if_pos hlow]
  rfl

theorem freqGlideStep_lowersClock {d : Fin 32} {s : State} (hdown : s.target d < (s.power.dies[cdie d]).clock) :
    exec (.freqGlideStep d) s = .next ((Rules.upTo s (s.now + 1000)).mapPower (cdie d) (fun x =>
      { x with clock := max (s.target d) (x.clock - 25) })) := by
  rw [exec_freqGlideStep (Nat.ne_of_gt hdown)]
  refine congrArg Host.Outcome.next (State.mapPower_congr _ _ ?_)
  exact if_pos hdown

theorem freqGlideStep_raisesClock {d : Fin 32} {s : State} (hup : (s.power.dies[cdie d]).clock < s.target d)
    (hrail : s.power.railNeed d.val (s.target d) ≤ (s.power.dies[cdie d]).rail) :
    exec (.freqGlideStep d) s = .next ((Rules.upTo s (s.now + 1000)).mapPower (cdie d) (fun x =>
      { x with clock := min (s.target d) (x.clock + 25) })) := by
  rw [exec_freqGlideStep (Nat.ne_of_lt hup)]
  refine congrArg Host.Outcome.next (State.mapPower_congr _ _ ?_)
  exact (if_neg (Nat.lt_asymm hup)).trans (if_pos ⟨hup, hrail⟩)

end Sys2Proof.Machine
end

section
/-! PROOFS. Ageing: what a re-plan leaves the islands (R435 to R438), and O32. -/

namespace Sys2Proof.Machine

/-! ### The needs of the islands -/

theorem tget_putNeed_same (t : Table Nat) (key n : Nat) : tget (putNeed t key n) 0 key = n := by
  unfold putNeed
  split_ifs with h
  · rw [h, tget_tdel_same]
  · rw [tget_tset_same]

theorem tget_putNeed_other (t : Table Nat) {key j : Nat} (n : Nat) (h : j ≠ key) : tget (putNeed t key n) 0 j = tget t 0 j := by
  unfold putNeed
  split_ifs
  · rw [tget_tdel_other _ _ _ _ h]
  · rw [tget_tset_other _ _ _ _ _ h]

/-- A re-planned island has its new needs. -/
theorem Power.replanIsland_needs_same (p : Power) (sweep : Bool) (hours : Nat) (x : IslandSlack) {k : Nat} (hk : k < 5) :
    (p.replanIsland sweep hours x).needs x.island k = p.replanned sweep x k := by
  refine foldl_each (f := fun (t : Table Nat) (k : Nat) => putNeed t (8 * x.island + k) (p.replanned sweep x k)) (Inv := fun _ => True)
    (P := fun (k : Nat) (t : Table Nat) => tget t 0 (8 * x.island + k) = p.replanned sweep x k) (fun _ _ _ => trivial)
    (fun t k _ => tget_putNeed_same t _ _) (fun t k j _ hj => ?_) (List.range 5) trivial k (.inl (List.mem_range.mpr hk))
  by_cases hjk : j = k
  · rw [hjk]
    exact tget_putNeed_same t _ _
  · exact (tget_putNeed_other t _ (by omega)).trans hj

/-- No other island's needs change. -/
theorem Power.replanIsland_needs_other (p : Power) (sweep : Bool) (hours : Nat) {x : IslandSlack} {i : Nat} (hi : i ≠ x.island) {k : Nat}
    (hk : k < 5) : (p.replanIsland sweep hours x).needs i k = p.needs i k := by
  refine List.foldlRecOn (motive := fun t : Table Nat => tget t 0 (8 * i + k) = p.needs i k) (List.range 5)
    (fun (t : Table Nat) (k : Nat) => putNeed t (8 * x.island + k) (p.replanned sweep x k)) rfl fun t ht j hj => ?_
  have hj5 := List.mem_range.mp hj
  exact (tget_putNeed_other t _ (by omega)).trans ht

/-! ### One island's re-plan -/

/-- The needs of all islands, and the time. -/
def State.aged (s : State) : Table Nat × Nat := (s.power.raise, s.now)

/-- A record of sizing below severity 2 leaves them alone. -/
theorem State.log_aged {x : Event} (hlow : x.sev.toNat < 2) (s : State) : (s.log x).aged = s.aged :=
  (s.logs_log (.inr hlow)).same (g := State.aged) (fun _ _ _ _ _ _ _ => rfl)

theorem State.replanIsland_aged (sweep : Bool) (s : State) (x : IslandSlack) :
    (s.replanIsland sweep x).aged = ((s.power.replanIsland sweep s.hoursNow x).raise, s.now) := by
  unfold State.replanIsland
  extract_lets d old s₁ _ s₂ s₃
  have h₁ : s₁.aged = ((s.power.replanIsland sweep s.hoursNow x).raise, s.now) := rfl
  have h₂ : s₂.aged = s₁.aged :=
    ite_keeps (State.log_aged (x := { powerEvent 0 0x0608 [] with die := d.val }) (show (0 : BitVec 2).toNat < 2 by decide) (s₁.powerBit 8)) rfl
  have hcore := State.log_aged (x := { powerEvent 1 0x0608 [] with die := d.val, pos := x.island % 272 }) (show (1 : BitVec 2).toNat < 2 by decide)
    (s₂.powerBit 8)
  have hdomain := State.log_aged (x := { powerEvent 1 0x0608 [] with die := d.val }) (show (1 : BitVec 2).toNat < 2 by decide) (s₂.powerBit 8)
  rw [← h₁, ← h₂]
  exact ite_keeps rfl (ite_keeps hcore hdomain)

/-- After the re-plan of islands other than `i`, its needs are what they were. -/
theorem State.replan_others (sweep : Bool) {i k : Nat} (hk : k < 5) (xs : List IslandSlack) (h : ∀ y ∈ xs, i ≠ y.island) (s : State) :
    (xs.foldl (State.replanIsland sweep) s).power.needs i k = s.power.needs i k ∧ (xs.foldl (State.replanIsland sweep) s).now = s.now := by
  refine List.foldlRecOn (motive := fun t : State => t.power.needs i k = s.power.needs i k ∧ t.now = s.now) xs _ ⟨rfl, rfl⟩ fun t ht y hy => ?_
  obtain ⟨hneeds, hnow⟩ := ht
  have haged := t.replanIsland_aged sweep y
  refine ⟨?_, (congrArg Prod.snd haged).trans hnow⟩
  refine (congrArg (fun r : Table Nat => tget r 0 (8 * i + k)) (congrArg Prod.fst haged)).trans ?_
  exact (Power.replanIsland_needs_other _ sweep t.hoursNow (h y hy) hk).trans hneeds

/-- After the re-plan of an island and then of others it has its new needs. -/
theorem State.replan_first (sweep : Bool) (x : IslandSlack) {k : Nat} (hk : k < 5) (xs : List IslandSlack) (h : ∀ y ∈ xs, x.island ≠ y.island) (s : State) :
    ((x :: xs).foldl (State.replanIsland sweep) s).power.needs x.island k = s.power.replanned sweep x k ∧
      ((x :: xs).foldl (State.replanIsland sweep) s).now = s.now := by
  obtain ⟨hneeds, hnow⟩ := State.replan_others sweep hk xs h (s.replanIsland sweep x)
  have haged := s.replanIsland_aged sweep x
  refine ⟨hneeds.trans ?_, hnow.trans (congrArg Prod.snd haged)⟩
  refine (congrArg (fun r : Table Nat => tget r 0 (8 * x.island + k)) (congrArg Prod.fst haged)).trans ?_
  exact Power.replanIsland_needs_same _ sweep s.hoursNow x hk

/-! ### The re-plan -/

theorem Power.summarise_raise (p : Power) (hours : Nat) (xs : List IslandSlack) (d : Nat) : (p.summarise hours xs d).raise = p.raise := by
  unfold Power.summarise
  extract_lets here held due
  cases here with
  | nil => rfl
  | cons x l => exact ite_keeps (g := Power.raise) rfl rfl

/-- The block whose time has come to the re-plan, which a sweep does not wait for. -/
def State.replanTime (s : State) (sweep : Bool) : State := if sweep then s else s.wait (s.power.replanAt + 86400 * 10 ^ 9)

/-- The re-plan of the islands ends with their needs and the time as the last of them left them. -/
theorem exec_ageingReplan {sweep : Bool} {slack : List IslandSlack} {s : State} (h : (!s.firmwareUp || (sweep && !s.atBoundary)) = false) :
    ∃ s', exec (.ageingReplan sweep slack) s = .next s' ∧
      s'.aged = (((s.replanTime sweep).power.replanList sweep slack).foldl (State.replanIsland sweep) (s.replanTime sweep)).aged ∧
      (sweep = false → s'.power.replanAt = s'.now) := by
  show ∃ s', execAgeingReplan sweep slack s = .next s' ∧ _
  unfold execAgeingReplan
  rw [h]
  extract_lets s₁ xs s₂ p l i
  have hraise : p.raise = s₂.power.raise :=
    foldl_keeps Power.raise (fun (p : Power) d => p.summarise s₂.hoursNow xs d) (fun p d => p.summarise_raise _ _ d) (List.range 40) s₂.power
  refine ⟨_, rfl, ?_, fun hs => ?_⟩
  · exact congrArg (fun r => (r, s₂.now)) hraise
  · rw [hs]
    rfl

/-- The other islands of a re-plan are others. -/
theorem Power.replanList_one (p : Power) (sweep : Bool) (x : IslandSlack) :
    ∃ xs, p.replanList sweep [x] = x :: xs ∧ ∀ y ∈ xs, x.island ≠ y.island := by
  cases sweep with
  | true => exact ⟨[], rfl, fun y hy => absurd hy List.not_mem_nil⟩
  | false =>
    refine ⟨_, rfl, fun y hy => ?_⟩
    obtain ⟨z, hz, rfl⟩ := List.mem_map.mp hy
    have hother := (List.mem_filter.mp hz).2
    simpa using hother

theorem ageingReplan_leaves {sweep : Bool} {x : IslandSlack} {s : State} (h : (!s.firmwareUp || (sweep && !s.atBoundary)) = false) :
    ∃ s', exec (.ageingReplan sweep [x]) s = .next s' ∧ s'.now = (s.replanTime sweep).now ∧ (sweep = false → s'.power.replanAt = s'.now) ∧
      ∀ k < 5, s'.power.needs x.island k = (s.replanTime sweep).power.replanned sweep x k := by
  obtain ⟨s', hstep, haged, hat⟩ := exec_ageingReplan (slack := [x]) h
  obtain ⟨xs, hlist, hothers⟩ := (s.replanTime sweep).power.replanList_one sweep x
  rw [hlist] at haged
  have hfirst := fun (k : Nat) (hk : k < 5) => State.replan_first sweep x hk xs hothers (s.replanTime sweep)
  refine ⟨s', hstep, ?_, hat, fun k hk => ?_⟩
  · exact (congrArg Prod.snd haged).trans (hfirst 0 (by decide)).2
  · exact (congrArg (fun r : Table Nat => tget r 0 (8 * x.island + k)) (congrArg Prod.fst haged)).trans (hfirst k hk).1

theorem ageingReplan_daily (x : IslandSlack) {s : State} (hup : s.firmwareUp = true) :
    ∃ s', exec (.ageingReplan false [x]) s = .next s' ∧ s'.now = max s.now (s.power.replanAt + 86400 * 10 ^ 9) ∧
      s'.power.replanAt = s'.now ∧ ∀ k < 5, s'.power.needs x.island k =
        if 24 < s.power.needs x.island k then s.power.needs x.island k
        else s.power.needs x.island k + raiseSteps (min x.slackPs (tget s.power.slack (x.slackPs, 0) x.island).1) := by
  obtain ⟨s', hstep, hnow, hat, hneeds⟩ := ageingReplan_leaves (sweep := false) (x := x) (s := s) (by rw [hup]; rfl)
  exact ⟨s', hstep, hnow, hat rfl, hneeds⟩

theorem sweepSteps_le (old : Nat) {slack : Nat} (h : 20 ≤ slack) : sweepSteps old slack ≤ old := by
  rw [sweepSteps, if_neg (Nat.not_lt.mpr h)]
  exact Nat.sub_le _ _

theorem ageingReplan_sweeps {x : IslandSlack} {s : State} (hup : s.firmwareUp = true) (hfettles : s.mp.fettles = [])
    (hidle : ∀ j, (s.job j).st ≠ .running) (hslack : ∀ k < 5, 20 ≤ x.points.getD k x.slackPs) :
    ∃ s', exec (.ageingReplan true [x]) s = .next s' ∧ s'.now = s.now ∧ ∀ k < 5, s'.power.needs x.island k ≤ s.power.needs x.island k := by
  have hboundary : s.atBoundary = true := by
    rw [State.atBoundary, hfettles, List.isEmpty_nil, Bool.and_true, List.all_eq_true]
    exact fun j _ => decide_eq_true (hidle j)
  obtain ⟨s', hstep, hnow, -, hneeds⟩ := ageingReplan_leaves (sweep := true) (x := x) (s := s) (by rw [hup, hboundary]; rfl)
  refine ⟨s', hstep, hnow, fun k hk => ?_⟩
  rw [hneeds k hk]
  exact sweepSteps_le _ (hslack k hk)

/-- Settles O32, clause by clause: each command is its branch, and what its records, its glides and its folds over the dies and islands
leave alone gives the rest. -/
theorem sizingFollowsPowerAndHeat : Obligations.SizingFollowsPowerAndHeat := by
  unfold Obligations.SizingFollowsPowerAndHeat
  refine ⟨fun i s => droopDetect_counts, fun i s => rfl, fun vin iin watts rails s => regulatorSample_keeps vin iin watts rails,
    fun s => telemStale_records, fun x s => activityEstimate_keepsSlack x, fun est dyn stat slacks s => activityEstimate_notes est dyn stat slacks,
    fun d s => innerLoop_stale d, fun d s => innerLoop_raises, fun d s => innerLoop_lowers, fun fixed losses s => outerLoop_spreads fixed losses,
    fun fixed losses s => outerLoop_compares fixed losses,
    fun fixed s hup hfresh _ hmode hover hfix hfew => outerLoop_breach fixed hup hfresh hmode hover hfix hfew, fun s => estDiverge_untrusts,
    fun t s => calibrationEnd_ends, fun s => iccTrip_halves, fun s => tripLift_lifts, fun d tj s => tjSample_cools d,
    fun d tj s => tjSample_throttles d, fun d tj s => tjSample_rests, fun d tj s => tjSample_shutsDown d, fun stack t s => hbmTempReport_hot,
    fun stack t s => hbmTempReport_cool stack s, fun d s => freqGlideStep_raisesRail, fun d s => freqGlideStep_lowersClock,
    fun d s => freqGlideStep_raisesClock, fun x s => ageingReplan_daily x, fun x s => ageingReplan_sweeps⟩

end Sys2Proof.Machine
end
